-- ==== Sys2Proof/Word.lean ====
section
/-! DEFINITION. The word types of the Wosta spine module. -/

namespace Sys2Proof

/-- A byte of memory or of a frame's payload. -/
abbrev Byte := BitVec 8

/-- The word of a dictionary object and of an update-engine scalar register (17 R507, 11 R336). -/
abbrev Word := BitVec 64

/-- One 32-bit lane of a vector register (11 R336). -/
abbrev Lane := BitVec 32

end Sys2Proof
end

