-- ==== Sys2Proof/Syntax.lean ====
section
/-! DEFINITION. The commands of the Wosta spine module: one constructor of `Instr` per row of
spec/opcode_table.json, in the table's order, and the data their operands carry. Numbers follow R4:
ports, stalls, fibers, wavelengths, engines, packs, stacks, channels and lanes count from 0. -/

namespace Sys2Proof

/-- A 200G port (00 R4, R5). -/
abbrev Port := Fin 1024
/-- A stall (tile) of the die (01 R13). -/
abbrev Stall := Fin 64
/-- A fiber pair (00 R5). -/
abbrev Fiber := Fin 64
/-- An optical engine and the laser pack bay that feeds it (00 R2). -/
abbrev Engine := Fin 16
/-- A laser of a pack, which is its wavelength (04 R98). -/
abbrev Laser := Fin 18
/-- A memory channel (13 R402). -/
abbrev Chan := Fin 128
/-- A pitch, the tenant partition (07 R212). -/
abbrev Pitch := Fin 4096
/-- A group ID (09 R264). -/
abbrev Group := Fin 65536
/-- A command slot (17 R531). -/
abbrev Slot := Fin 16
/-- A hardware thread of a stall's update engine (11 R336). -/
abbrev ThreadNo := Fin 256

/-- The class a dictionary message names (17 R522). -/
inductive MsgClass where
  | owner
  | operator
  deriving DecidableEq, Repr

/-- What a BAR0 access covers (17 R521): the word of 8 bytes at its alignment, the low half of the word of an
object of 4 bytes or fewer, or anything else. The other routes carry no width. -/
inductive BarWidth where
  | word | low | other
  deriving DecidableEq, Repr

/-- A requester of the dictionary, by its route (17 R514). -/
inductive Requester where
  /-- PCIe BAR0 from PF0. -/
  | pf0
  /-- PCIe BAR0 from VF v + 1. -/
  | vf (v : Fin 64)
  /-- Management Ethernet: class of the tag, source address and UDP port as one number. -/
  | mgmt (cls : MsgClass) (source : Nat)
  /-- In-band on VC6: class of the tag, source endpoint. -/
  | vc6 (cls : MsgClass) (endpoint : BitVec 20)
  /-- The carrier's BMC. -/
  | i3c
  /-- The dictionary mirror, read by an update thread. -/
  | thread (t : Stall) (n : ThreadNo)
  /-- The vendor class of R513. -/
  | vendor
  deriving DecidableEq, Repr

/-- Where a dictionary message came from (17 R523). -/
inductive MsgRoute where
  | mgmt (source : Nat)
  | vc6 (endpoint : BitVec 20)
  deriving DecidableEq, Repr

/-- An access over a route: the requester, and over BAR0 the width. -/
structure BarAccess where
  who : Requester
  width : BarWidth
  deriving DecidableEq, Repr

/-- The control field of a lane training frame (05 R137), and the merit that the receiver has measured when it has. -/
structure ControlField where
  word : BitVec 64
  measured : Option Byte
  deriving DecidableEq, Repr

/-- What the hardware's own checks find as a command runs: nothing; a residue mismatch of an arithmetic unit (09 R300,
11 R371, 13 R410); a parity error of a register file (11 R371); an error in a stall's SRAM that is corrected, or that is
not (13 R405). -/
inductive Upset where
  | none | residue | parity | corrected | uncorrectable
  deriving DecidableEq, Repr

/-- An operand of a command, and what the checks find as the command runs. -/
structure Checked (α : Type) where
  val : α
  upset : Upset
  deriving DecidableEq, Repr

/-- The fields of an update-engine instruction word other than its op (11 R359), and what the checks find as it runs. -/
structure InsnFields where
  d : Fin 32
  a : Fin 32
  b : Fin 32
  m : Fin 8
  t : Fin 16
  s : Bool
  r : Bool
  imm : BitVec 32
  upset : Upset := .none
  deriving DecidableEq, Repr

/-- A frame as it stands on a link: header, payload and payload check (05 R144). -/
structure RawFrame where
  header : BitVec 256
  payload : List Byte
  check : BitVec 32
  deriving DecidableEq, Repr

/-- A link unit as received: its tag, its frame if one follows, and whether the unit overlaps an
uncorrectable codeword (05 R144, R145). -/
structure LinkUnit where
  tag : BitVec 64
  frame : Option RawFrame
  fecBad : Bool
  /-- The codewords that the receiver's FEC decoder has ended since the unit before: corrected symbols, or none for
  an uncorrectable one. -/
  codewords : List (Option (Fin 16)) := []
  deriving DecidableEq, Repr

/-- The PTP message types that the boundary clock uses (02 R41, R42). -/
inductive PtpKind where
  | sync | followUp | delayReq | delayResp | pdelayReq | pdelayResp | pdelayRespFollowUp | announce
  deriving DecidableEq, Repr

/-- The fields of a PTP message that the clock reads (02 R41 to R51). Times and corrections are in
units of 2⁻¹⁶ ns. -/
structure PtpMsg where
  kind : PtpKind
  domain : Nat
  seqId : Nat
  /-- clockIdentity and portNumber of the sender. -/
  source : BitVec 80
  twoStep : Bool
  correction : Int
  /-- originTimestamp, preciseOriginTimestamp, receiveTimestamp or requestReceiptTimestamp. -/
  stamp : Int
  /-- requestingPortIdentity of a response. -/
  requesting : BitVec 80
  /-- Announce: priority1, clockClass, clockAccuracy, variance, priority2, grandmaster identity. -/
  gmRank : BitVec 128
  stepsRemoved : Nat
  /-- Announce: second flag octet, currentUtcOffset, timeSource. -/
  gmTime : BitVec 32 := 0
  deriving DecidableEq, Repr

/-- The identity store of a laser pack (04 R101). -/
structure PackIdentity where
  packType : BitVec 128
  serial : BitVec 128
  /-- Factory reference power of each laser, in µW. -/
  refs : List Nat
  /-- The store passes its own check. -/
  ok : Bool
  deriving DecidableEq, Repr

/-- A custody control message as received (14 R446): header fields and payload. -/
structure CustodyMsg where
  pitch : Pitch
  group : Group
  control : BitVec 256
  body : List Byte
  deriving DecidableEq, Repr

/-- The measured inputs of one warden decision (15 R462): powers in mW over the bell just ended,
temperatures in m°C. -/
structure Sweep where
  /-- Measured power of lines 0 to 6. -/
  lines : List Nat
  inputMw : Nat
  railMw : Nat
  /-- Measured line 4 and line 5 power of each stall. -/
  ue : List Nat
  array : List Nat
  temps : List Int
  coolantIn : Int
  coolantOut : Int
  deriving DecidableEq, Repr

/-- What the sampling unit observed of one instruction (16 R502). -/
structure InsnSample where
  pc : BitVec 48
  address : BitVec 48
  latency : BitVec 32
  op : Byte
  /-- Bell number at issue. -/
  bell : BitVec 32
  deriving DecidableEq, Repr

/-- What the sampling unit observed of one frame (16 R503). -/
structure PacketSample where
  header : BitVec 256
  outPort : BitVec 10
  outcome : Fin 7
  hold : BitVec 32
  voq : BitVec 32
  xpoint : BitVec 32
  egress : BitVec 32
  /-- Bell number at ingress. -/
  bell : BitVec 32
  deriving DecidableEq, Repr

/-- How a host request ended (18 R556). -/
inductive CompletionStatus where
  | ok | poisoned | error
  deriving DecidableEq, Repr

/-- A host write to configuration space that the module acts on (18 R550, R553). -/
inductive PcieConfig where
  /-- Bus Master Enable of function 0 (PF0) or v (VF v). -/
  | busMaster (fn : Fin 65) (on : Bool)
  | numVfs (n : Fin 65)
  /-- Max_Read_Request_Size of a function: 128 bytes times 2 to the code (R547, R554). -/
  | maxRead (fn : Fin 65) (code : Fin 6)
  /-- Base address of PF0 BAR0, PF0 BAR2, VF BAR0 or VF BAR2 (R550). -/
  | bar (which : Fin 4) (addr : BitVec 64)
  /-- An entry of a function's MSI-X table, in its BAR2 (R550). -/
  | msix (fn : Fin 65) (vector : Fin 4) (entry : BitVec 128)
  deriving DecidableEq, Repr

/-- The commands of the block, one per row of spec/opcode_table.json. -/
inductive Instr where
  /-- Standby rises past 10.8 V; the management controller leaves power-on reset and the module enters STANDBY. (R88) -/
  | standbyPowerUp
  /-- At S + 21 ms the management domain takes eight strap samples 125 µs apart, decodes them or records a strap fault. (R83) -/
  | strapSampling (samples : List (BitVec 24))
  /-- Standby falls below 10.2 V; shutters close, lasers go off, the die is held, conversion stops and a capsule entry is written in hold-up. (R78) -/
  | standbyLoss
  /-- The 64 V start conditions hold; conversion starts and precharge begins (POWERING). (R590) -/
  | startConditionsMet (vinMv : Int) (seated : Bool)
  /-- Inrush-limited precharge of the input capacitance ends and the rails ramp in order. (R76) -/
  | prechargeComplete
  /-- Clocks lock and all rails are in range; PWR_OK goes high and the module is HELD while RST_N is low. (R88) -/
  | railsUp
  /-- The 64 V input falls below 48 V; lasers go off, the die is held in reset, PWR_OK falls and a capsule entry is written. (R78) -/
  | undervoltage (vinMv : Int)
  /-- The 64 V input exceeds 75 V; conversion stops within 10 µs. (R75) -/
  | overvoltage (vinMv : Int)
  /-- The late-mating BLADE_SEAT_N contact breaks and the module stops drawing 64 V current within 200 µs. (R76) -/
  | bladeSeatBreak
  /-- A short, overcurrent or out-of-range voltage on a rail shuts down the 64 V domain and latches the fault. (R79) -/
  | railFault (rail : Fin 12) (atMs : Nat)
  /-- A die junction reading above 115 °C is latched as a thermal trip and shuts down the 64 V domain. (R79) -/
  | thermalTrip (t : Stall) (milliC : Int) (atMs : Nat)
  /-- A write of 1 to power_restart clears a latched fault or releases a STANDBY hold-off and powers up again. (R80) -/
  | powerRestart (r : Requester) (word : BitVec 64)
  /-- RST_N falls for at least 10 µs; ports send link-fault, collective state is dropped, shutters close and the die is held. (R93) -/
  | rstNAssert
  /-- RST_N rises after the die was held; release from reset is scheduled 1 ms later. (R93) -/
  | rstNRelease
  /-- The die is released from reset, TB1 starts at 0, RWS objects freeze and die objects take defaults (BOOTING). (R88) -/
  | dieRelease
  /-- SRAM self-test, channel training and row-repair replay finish and the device address map is fixed. (R88) -/
  | memoryReady
  /-- A boot bundle from the BOOT source is fetched and verified, then loaded or skipped with an event. (R563) -/
  | bootBundleLoaded (fetched : Option (List Byte))
  /-- A write of 1 to boot_list_ready releases a boot waiting for its boot list. (R563) -/
  | bootListReady (r : Requester) (word : BitVec 64)
  /-- boot_wait expires and the die boots with no bundles, raising an event. (R564) -/
  | bootWaitExpiry
  /-- A group of four optical engines finishes starting under the opening tally. (R88) -/
  | engineStartDone (group : Fin 4)
  /-- A PTP message is taken on a fabric or management port; timestamps, servo offset, steps, slews and lock are updated. (R50) -/
  | ptpMessage (port : Fin 1026) (msg : PtpMsg) (stamp : Int)
  /-- The parent's Announce messages time out; LOCKED enters HOLDOVER with TB3 set to TB0, or ACQUIRING runs on. (R51) -/
  | announceTimeout
  /-- The growing holdover error estimate passes holdover_bound; the state becomes HOLDOVER_EXCEEDED, ALERT_N and an event. (R51) -/
  | holdoverExceeded
  /-- A write of 1 to step_permit schedules the pending TB0 step for the next bell boundary. (R54) -/
  | stepPermit (r : Requester) (word : BitVec 64)
  /-- At the next boundary TB0 jumps by the measured offset and bell numbering follows. (R54) -/
  | stepApply
  /-- A write of tb2_now sets TB2; with bells on TB2, skipped boundaries are not rung. (R58) -/
  | tb2NowWrite (r : Requester) (value : BitVec 80)
  /-- A write of tb2_rate changes the TB2 rate without moving a boundary. (R58) -/
  | tb2RateWrite (r : Requester) (word : BitVec 64)
  /-- A bell boundary rings and the changes due are applied in the fixed order of steps 1 to 7. (R33) -/
  | bellBoundary
  /-- The first TB0 boundary at least one period after the last TB1 bell rings; bell_on_tb0 becomes 1 and switch_bell is recorded. (R59) -/
  | tb0Switch
  /-- A pulse output reaches its programmed TB0 time or bell divisor and fires. (R65) -/
  | pulseFire (k : Fin 4)
  /-- A write to an enabled pulse output's program takes effect at the next boundary after any pulse in progress. (R67) -/
  | pulseProgramWrite (r : Requester) (k : Fin 4) (field : Fin 4) (value : BitVec 80)
  /-- A rising edge on a time input is captured in TB0 and TB1, counted as lost, or checked against the second. (R68) -/
  | tinEdge (j : Fin 2)
  /-- A read of tin_capture returns the oldest captured entry and removes it. (R69) -/
  | tinCaptureRead (r : Requester) (j : Fin 2)
  /-- A laser pack is seated in its bay; its identity store is read and checked, or the bay reads rejected. (R102) -/
  | packInsert (e : Engine) (ident : PackIdentity)
  /-- A stage of pack bring-up ends: a laser group locked, modulator rings tuned, or spares idled and the engine running. (R102) -/
  | packStartStage (e : Engine)
  /-- A write of 1 to pack_control schedules the engine's ports to leave their groups and bundles at the next boundary. (R103) -/
  | packPrepare (r : Requester) (e : Engine)
  /-- 1 ms after the leave boundary the module closes non-thoroughfare shutters, turns off the lasers and unlocks the bay. (R103) -/
  | packPrepareDrainEnd (e : Engine)
  /-- A write of 2 to pack_control lights the lasers again and returns the ports as at insertion. (R103) -/
  | packCancelPrepare (r : Requester) (e : Engine)
  /-- A write of 3 to pack_control restarts a rejected or faulted pack. (R132) -/
  | packRestart (r : Requester) (e : Engine)
  /-- A pack's early-break contact opens without preparation; lasers go off within 100 µs and the engine's ports go down. (R104) -/
  | packPull (e : Engine)
  /-- A prepared pack is removed from its unlocked bay and the bay reads empty. (R103) -/
  | preparedPackRemoval (e : Engine)
  /-- An RX fiber shows loss of light for 100 readings; the shutter of the matching TX fiber closes. (R81) -/
  | lossOfLight (t : Fiber)
  /-- Every 10 ms a 2 µs Class 1 probe burst is sent on a shuttered TX fiber. (R81) -/
  | probeBurst (t : Fiber)
  /-- RX light has shown continuously for 10 ms and the TX shutter opens. (R81) -/
  | lightRestored (t : Fiber)
  /-- A 1.024 ms fade window mean is taken for a lit laser and warn or fail is declared against its reference. (R117) -/
  | fadeWindow (e : Engine) (k : Laser) (mean : Int)
  /-- Four consecutive readings at or below reference − 10 dB declare sudden loss, treated as fail. (R108) -/
  | suddenLaserLoss (e : Engine) (k : Laser)
  /-- The spare laser is locked and its rings tuned; fade move proposals are sent naming a boundary at least move_lead ahead. (R123) -/
  | fadeSpareReady (e : Engine) (k : Laser)
  /-- 1 ms after a refused or failed fade move it is proposed once more, or the port drops out. (R123) -/
  | fadeMoveRetry (t : Fiber) (home : Fin 16)
  /-- A move proposal arrives on VC6; the selecting side tunes and locks the new carrier and answers accept or refuse. (R110) -/
  | movePropose (p : Port) (msg : BitVec 128) (locked : Bool)
  /-- An accept for a pending move arrives and the move is kept for its boundary. (R110) -/
  | moveAccept (p : Port) (msg : BitVec 128)
  /-- A refuse arrives and the move is not made; the failure is counted. (R111) -/
  | moveRefuse (p : Port) (msg : BitVec 128)
  /-- A cancel for a pending move arrives and the move is withdrawn. (R113) -/
  | moveCancel (p : Port) (msg : BitVec 128)
  /-- No accept arrives within move_lead / 2 and the move is not made. (R111) -/
  | moveAnswerTimeout (t : Fiber) (rx : Bool) (home : Fin 16)
  /-- At M − 200 ns both sides check readiness; a move not ready is not made. (R110) -/
  | moveReadinessCheck (t : Fiber) (rx : Bool) (home : Fin 16) (ready : Bool)
  /-- At M the selecting side switches to the new carrier at the first FEC codeword boundary. (R110) -/
  | moveSwitch (t : Fiber) (rx : Bool) (home : Fin 16)
  /-- At M + 2 bells the sending side stops the old carrier for the port. (R110) -/
  | oldCarrierStop (t : Fiber) (rx : Bool) (home : Fin 16)
  /-- A fiber's calibration slot comes due and the next home wavelength is moved to λ16, or the slot is skipped. (R115) -/
  | calSlotStart (t : Fiber) (rx : Bool)
  /-- The freed ring's measurement over cal_dwell ends and the new heater setting is written. (R115) -/
  | calDwellEnd (t : Fiber) (rx : Bool)
  /-- A ring lock error above 2 GHz lasts over 10 µs; it is counted and the engine's stalls' slew limit is halved for 10 ms. (R125) -/
  | ringExcursion (e : Engine)
  /-- 10 ms after a ring excursion the halved compute slew limit is restored. (R125) -/
  | slewHalvingEnd (e : Engine)
  /-- At boundary S the drop and add rings of a thoroughfare take effect for setup or return to port settings for teardown. (R128) -/
  | thoroughfareEffect (e : Engine) (entry : Fin 8)
  /-- A lane training frame's control field arrives; the request is applied to the transmitter taps and reported. (R137) -/
  | trainingFrame (t : Stall) (lane : Fin 18) (inward : Bool) (control : ControlField)
  /-- A receiver's tap search ends, ready is sent and taps are stored; the lane enters service if merit suffices. (R138) -/
  | laneTrainingDone (t : Stall) (lane : Fin 18) (inward : Bool) (merit : Byte)
  /-- Every 1.024 s an idle spare lane wakes for 2 µs, measures merit and is retrained or marked failed. (R139) -/
  | spareMeritCheck (t : Stall) (lane : Fin 18) (inward : Bool) (merit : Byte) (retrained : Byte)
  /-- A working lane's merit stays below merit_floor for 1 ms; a remap is scheduled, or before TB0 the port retrains. (R140) -/
  | lowMeritDetected (t : Stall) (lane : Fin 18) (inward : Bool) (merit : Byte)
  /-- At C the spare leaves electrical idle, locks and receives the port's stream on both lanes. (R140) -/
  | remapStart (p : Port) (inward : Bool)
  /-- At M − 200 ns the spare's lock and alignment are checked; a remap not ready fails. (R141) -/
  | remapReadinessCheck (p : Port) (inward : Bool) (locked : Bool)
  /-- At M the receiver selects the spare at the first FEC codeword boundary. (R140) -/
  | remapSwitch (p : Port) (inward : Bool)
  /-- At M + 1 the old lane enters electrical idle and becomes a spare or is marked failed. (R140) -/
  | oldLaneIdle (p : Port) (inward : Bool) (merit : Byte)
  /-- Optical receive, FEC and alignment markers lock on a port and link-layer initialisation starts. (R156) -/
  | opticalLock (p : Port)
  /-- The partner's init tag is seen; sequence and credit counts reset, the retry buffer is discarded and identity is sent. (R156) -/
  | linkInit (p : Port)
  /-- A link-control identity frame arrives; version, width, plane, spread and expected peer are checked and credit limits taken. (R158) -/
  | identityFrame (p : Port) (payload : BitVec 256)
  /-- A link unit arrives; its tag's ack, nak and credits are applied and its frame is accepted in lseq order or discarded with a nak. (R147) -/
  | linkUnitReceive (p : Port) (u : LinkUnit)
  /-- An egress port chooses the next unit: a replay, a runner frame under its bucket, or a DWRR choice under credits. (R224) -/
  | linkUnitSend (p : Port)
  /-- replay_limit naks in a row name the same frame and the port retrains with sequence state kept. (R148) -/
  | replayLimitReached (p : Port)
  /-- More than 16 uncorrectable codewords within 1 ms start a retrain. (R159) -/
  | fecUncorrectableLimit (p : Port)
  /-- Alignment-marker lock is lost and the port retrains. (R159) -/
  | amLockLoss (p : Port)
  /-- A link-control retrain request arrives and the port retrains. (R157) -/
  | retrainRequest (p : Port)
  /-- A write of 1 to retrain starts a port retrain. (R159) -/
  | retrain (r : Requester) (p : Port) (word : BitVec 64)
  /-- A retraining port relocks and resumes, replaying from the last acknowledged frame or reinitialising. (R159) -/
  | retrainComplete (p : Port)
  /-- A retrain not complete in 100 ms takes the port down and discards its retry buffer. (R159) -/
  | retrainTimeout (p : Port)
  /-- A write of expected_peer is compared with the received identity and may take the port out of or return it to its bundles. (R82) -/
  | expectedPeerWrite (r : Requester) (p : Port) (word : BitVec 64)
  /-- A width write is checked against locks and the stall credit total and scheduled for the next boundary. (R163) -/
  | widthWrite (r : Requester) (p : Port) (word : BitVec 64)
  /-- At the boundary the ports concerned leave service and rerun bring-up from link-layer initialisation. (R163) -/
  | widthChangeEffect (p : Port)
  /-- A frame accepted from a link is checked, policed, classified, looked up and written to its VOQ with a request to the market master. (R182) -/
  | ingressFrame (p : Port)
  /-- In each core cycle the market master matches source stalls to outputs and grants cells into crosspoints. (R173) -/
  | cellSlot
  /-- An output stall drains crosspoint cells into egress queues or its till intake where there is room. (R180) -/
  | columnDrain (o : Stall)
  /-- A frame whose member left service is copied into a service buffer and sent again through a new member. (R190) -/
  | resteerFrame (o : Stall) (flight : Nat)
  /-- An ease addressed to the module holds or halves its generated frames toward the sending leaf. (R203) -/
  | easeReceived (source : BitVec 20) (payload : BitVec 128)
  /-- The hold bells of a received ease expire and generated traffic toward the leaf resumes. (R203) -/
  | easeHoldEnd (leaf : Fin 4096)
  /-- A held frame's bucket level returns to 0 or more; the frame is charged, looked up and released. (R222) -/
  | policerRelease (t : Stall) (pitch : Pitch) (vc : Fin 8)
  /-- A flow's count of pre-switch frames reaches 0 and its held frames are released in arrival order. (R192) -/
  | guardFlowRelease (t : Stall) (flow : Fin 4096)
  /-- At S + drain_guard every frame still held is released and the banks become writable. (R192) -/
  | drainGuardEnd
  /-- At S − 200 ns every stall's copy of the new bank is checked against the digest and member ports. (R191) -/
  | bankReadinessCheck
  /-- At S the active bank and epoch bit change, spray state resets, slot tables rebuild and the drain guard starts. (R191) -/
  | bankSwitch
  /-- A write of a pool's bit to pool_rebuild marks a rebuild pending. (R208) -/
  | poolRebuild (r : Requester) (t : Stall) (word : BitVec 64)
  /-- At the boundary after the pool's allocated count reaches 0 its buffers are relinked and the fence lifted. (R208) -/
  | poolRebuildDone (t : Stall) (k : Fin 9)
  /-- A rebuild still pending after 10,000 bells is abandoned and its bit cleared. (R208) -/
  | poolRebuildAbandon (t : Stall) (k : Fin 9)
  /-- At the first boundary after ADMIT_PITCH the pitch is admitted with full buckets, zeroed counters and a new generation. (R213) -/
  | admissionEffect (pitch : Pitch)
  /-- At boundary L the pitch stops passing admission, held frames are released and the pitch is releasing. (R216) -/
  | releaseEffect (pitch : Pitch)
  /-- At L + 16 the releasing pitch becomes free and its group lease returns to pitch 0. (R216) -/
  | pitchFree (pitch : Pitch)
  /-- A VC7 frame enters the stall's lookup queue; learning and the bridge, route or direct lookup start. (R239) -/
  | serviceLookup (t : Stall)
  /-- A chip-table, filter or prefix probe returns and the lookup continues, hits, floods or drops. (R252) -/
  | probeReturn (t : Stall) (entry : Fin 64)
  /-- A queued chip-table insertion is made, moved, evicts, fails or is refused by a locked segment, and stall caches are invalidated. (R242) -/
  | chipTableInsert (t : Stall)
  /-- A stall writes a cached last_seen back to the chip table, or it is discarded as stale. (R245) -/
  | stampWriteback (t : Stall) (pitch : Pitch) (mac : BitVec 48)
  /-- A write to seg_lock with bit 31 set locks a table segment for the writer, or is refused busy. (R255) -/
  | segLock (r : Requester) (word : BitVec 64)
  /-- A write to seg_lock with bit 31 clear releases a segment lock held by the writer, or forcibly by the owner. (R255) -/
  | segRelease (r : Requester) (word : BitVec 64)
  /-- A lock held for seg_lock_limit bells is released by the module and counted. (R256) -/
  | segLockExpiry (seg : Fin 8480)
  /-- At boundary G the group opens, out_frame_data is fixed and the multicast bitmaps are in force. (R263) -/
  | groupOpenAtG (g : Group)
  /-- At boundary C the group becomes closing, or a scheduled group becomes free without opening. (R268) -/
  | groupClosingAtC (g : Group)
  /-- A closing group with no context, sink entry or queued frame becomes free and its reservation returns. (R268) -/
  | groupFree (g : Group)
  /-- A type 5 open arrives at the group home and takes or updates a queue entry, or is refused. (R271) -/
  | groupOpenFrame (t : Stall)
  /-- A barrier not assembled by first_bell + patience gets an incomplete receipt. (R273) -/
  | barrierDeadline (g : Group) (seq : BitVec 32)
  /-- A chunk home's increment of done reaches the group queue entry and may make the instance complete. (R272) -/
  | doneIncrement (g : Group) (seq : BitVec 32)
  /-- A class 5 frame is taken from the crosspoint column by the till; it is refused, creates a context or is accumulated and counted. (R278) -/
  | tillIntake (t : Checked Stall)
  /-- A till's output pass ends; output frames and the receipt are queued or the chunk goes to the sink queue. (R295) -/
  | outputPassEnd (g : Group) (seq : BitVec 32) (chunk : Checked (BitVec 24))
  /-- A completed chunk held in staging enters its group's sink queue once a slot is free and the custody gate allows. (R435) -/
  | sinkPost (g : Group) (seq : BitVec 32) (chunk : BitVec 24)
  /-- A context's patience ends; it sends an incomplete or poisoned receipt, is released and writes a kept-partial record. (R303) -/
  | receiptDeadline (g : Group) (seq : BitVec 32) (chunk : BitVec 24)
  /-- At D + retry_quiet the late window of a kept partial ends and a first frame may start a retry. (R323) -/
  | lateWindowEnd (record : Fin 4096)
  /-- At D + kept_hold a kept partial's buffer is freed. (R325) -/
  | keptPartialRelease (record : Fin 4096)
  /-- A type 5 abort arrives at the group home and is taken for the next boundary. (R327) -/
  | abortFrame (t : Stall)
  /-- At boundary A the abort ends live contexts and rounds with cause 10, frees kept partials and answers the sender. (R328) -/
  | abortApply (g : Group) (seq : BitVec 32)
  /-- A runner frame is admitted, policed and checked at the ingress runner unit and combined at the group's runner home. (R311) -/
  | runnerFrame (p : Checked Port)
  /-- A runner frame waiting at its port's runner ingress queue for a free context or tokens is taken once one is available. (R312) -/
  | runnerWaitResume (p : Checked Port)
  /-- A runner round not complete at its due boundary is marked late and counted. (R313) -/
  | runnerDue (g : Group) (seq : BitVec 32)
  /-- At B + patience an incomplete runner round sends its result with no data and its context is released. (R313) -/
  | runnerPatienceEnd (g : Group) (seq : BitVec 32)
  /-- Every heartbeat_interval bells the module sends a heartbeat to each POS in heartbeat_peers. (R317) -/
  | heartbeatSend
  /-- A heartbeat arrives; heartbeat_last is written or the frame is discarded for another plane or POS. (R318) -/
  | heartbeatReceive (p : Port)
  /-- At the start boundary each thread of the run enters ready with its initial registers. (R352) -/
  | startThreadsEffect (run : Fin 64)
  /-- At the stop boundary the run's threads end, teams free their buffers and open receipts are sent incomplete. (R353) -/
  | stopThreadsEffect (run : Fin 64)
  /-- A ready thread is admitted against the stall's admission tank and its charge subtracted. (R355) -/
  | threadAdmission (t : Stall)
  /-- A segment that runs longer than seg_watchdog bells faults the thread with code 7. (R355) -/
  | segWatchdog (t : Stall) (n : ThreadNo)
  /-- A team waiting in TAKE claims the oldest sink entry when every member has arrived, after a CRC read of the chunk. (R368) -/
  | takeClaim (t : Stall) (n : ThreadNo)
  /-- A thread waiting in BELLW wakes when the bell number reaches its target. (R365) -/
  | bellwWake (t : Stall) (n : ThreadNo)
  /-- A store or atomic to the watched location satisfies a WAITM and the thread becomes ready. (R365) -/
  | waitmWake (t : Stall) (n : ThreadNo)
  /-- A block move completes and its completion counter decreases, with any error code recorded. (R365) -/
  | bmovComplete (t : Stall) (n : ThreadNo)
  /-- At its boundary SUBLET or FENCE_STALL takes a stall out of compute, remaps its home entries and parks its threads. (R458) -/
  | stallTakeOut (t : Stall)
  /-- At its boundary a return or clear restores the stall's home entries and parked threads re-enter. (R458) -/
  | stallReturn (t : Stall)
  /-- Does nothing. (R361) -/
  | ueNop (t : Stall) (n : ThreadNo) (f : InsnFields)
  /-- Scalar 64-bit add. (R361) -/
  | ueAdd (t : Stall) (n : ThreadNo) (f : InsnFields)
  /-- Scalar 64-bit subtract. (R361) -/
  | ueSub (t : Stall) (n : ThreadNo) (f : InsnFields)
  /-- Low 64 bits of a scalar product. (R361) -/
  | ueMul (t : Stall) (n : ThreadNo) (f : InsnFields)
  /-- Unsigned scalar division. (R361) -/
  | ueDivu (t : Stall) (n : ThreadNo) (f : InsnFields)
  /-- Unsigned scalar remainder. (R361) -/
  | ueRemu (t : Stall) (n : ThreadNo) (f : InsnFields)
  /-- Scalar bitwise and. (R361) -/
  | ueAnd (t : Stall) (n : ThreadNo) (f : InsnFields)
  /-- Scalar bitwise or. (R361) -/
  | ueOr (t : Stall) (n : ThreadNo) (f : InsnFields)
  /-- Scalar bitwise exclusive or. (R361) -/
  | ueXor (t : Stall) (n : ThreadNo) (f : InsnFields)
  /-- Scalar shift left. (R361) -/
  | ueShl (t : Stall) (n : ThreadNo) (f : InsnFields)
  /-- Scalar logical shift right. (R361) -/
  | ueShr (t : Stall) (n : ThreadNo) (f : InsnFields)
  /-- Scalar arithmetic shift right. (R361) -/
  | ueSra (t : Stall) (n : ThreadNo) (f : InsnFields)
  /-- Scalar add of an immediate. (R361) -/
  | ueAddi (t : Stall) (n : ThreadNo) (f : InsnFields)
  /-- Scalar and with a sign-extended immediate. (R361) -/
  | ueAndi (t : Stall) (n : ThreadNo) (f : InsnFields)
  /-- Load a sign-extended immediate. (R361) -/
  | ueLdi (t : Stall) (n : ThreadNo) (f : InsnFields)
  /-- Load an immediate into the high 32 bits. (R361) -/
  | ueLhi (t : Stall) (n : ThreadNo) (f : InsnFields)
  /-- Signed set-less-than. (R361) -/
  | ueSlt (t : Stall) (n : ThreadNo) (f : InsnFields)
  /-- Unsigned set-less-than. (R361) -/
  | ueSltu (t : Stall) (n : ThreadNo) (f : InsnFields)
  /-- Signed scalar minimum. (R361) -/
  | ueMin (t : Stall) (n : ThreadNo) (f : InsnFields)
  /-- Signed scalar maximum. (R361) -/
  | ueMax (t : Stall) (n : ThreadNo) (f : InsnFields)
  /-- Scalar fp32 add. (R361) -/
  | ueFadd (t : Stall) (n : ThreadNo) (f : InsnFields)
  /-- Scalar fp32 subtract. (R361) -/
  | ueFsub (t : Stall) (n : ThreadNo) (f : InsnFields)
  /-- Scalar fp32 multiply. (R361) -/
  | ueFmul (t : Stall) (n : ThreadNo) (f : InsnFields)
  /-- Scalar fp32 fused multiply-add. (R361) -/
  | ueFfma (t : Stall) (n : ThreadNo) (f : InsnFields)
  /-- Scalar fp32 divide, correctly rounded. (R361) -/
  | ueFdiv (t : Stall) (n : ThreadNo) (f : InsnFields)
  /-- Scalar fp32 square root, correctly rounded. (R361) -/
  | ueFsqrt (t : Stall) (n : ThreadNo) (f : InsnFields)
  /-- Scalar conversion between integer and fp32 chosen by the immediate. (R361) -/
  | ueFcvt (t : Stall) (n : ThreadNo) (f : InsnFields)
  /-- Scalar fp32 less-than compare. (R361) -/
  | ueFlt (t : Stall) (n : ThreadNo) (f : InsnFields)
  /-- Reads a special register. (R362) -/
  | ueCsrr (t : Stall) (n : ThreadNo) (f : InsnFields)
  /-- Conditional branch. (R361) -/
  | ueBr (t : Stall) (n : ThreadNo) (f : InsnFields)
  /-- Jump and link, PC-relative. (R361) -/
  | ueJal (t : Stall) (n : ThreadNo) (f : InsnFields)
  /-- Jump and link to a register target. (R361) -/
  | ueJr (t : Stall) (n : ThreadNo) (f : InsnFields)
  /-- Vector fp32 add. (R363) -/
  | ueVadd (t : Stall) (n : ThreadNo) (f : InsnFields)
  /-- Vector fp32 subtract. (R363) -/
  | ueVsub (t : Stall) (n : ThreadNo) (f : InsnFields)
  /-- Vector fp32 multiply. (R363) -/
  | ueVmul (t : Stall) (n : ThreadNo) (f : InsnFields)
  /-- Vector fp32 fused multiply-add. (R363) -/
  | ueVfma (t : Stall) (n : ThreadNo) (f : InsnFields)
  /-- Vector fp32 negated fused multiply-add. (R363) -/
  | ueVfnma (t : Stall) (n : ThreadNo) (f : InsnFields)
  /-- Vector fp32 minimum. (R363) -/
  | ueVmin (t : Stall) (n : ThreadNo) (f : InsnFields)
  /-- Vector fp32 maximum. (R363) -/
  | ueVmax (t : Stall) (n : ThreadNo) (f : InsnFields)
  /-- Vector fp32 divide. (R363) -/
  | ueVdiv (t : Stall) (n : ThreadNo) (f : InsnFields)
  /-- Vector fp32 square root. (R363) -/
  | ueVsqrt (t : Stall) (n : ThreadNo) (f : InsnFields)
  /-- Vector fp32 reciprocal. (R363) -/
  | ueVrcp (t : Stall) (n : ThreadNo) (f : InsnFields)
  /-- Vector fp32 reciprocal square root. (R363) -/
  | ueVrsqrt (t : Stall) (n : ThreadNo) (f : InsnFields)
  /-- Vector fp32 absolute value. (R363) -/
  | ueVabs (t : Stall) (n : ThreadNo) (f : InsnFields)
  /-- Vector fp32 negation. (R363) -/
  | ueVneg (t : Stall) (n : ThreadNo) (f : InsnFields)
  /-- Vector fp32 compare into a mask register. (R363) -/
  | ueVfcmp (t : Stall) (n : ThreadNo) (f : InsnFields)
  /-- Vector select by mask. (R363) -/
  | ueVsel (t : Stall) (n : ThreadNo) (f : InsnFields)
  /-- Vector conversion between int32 and fp32. (R363) -/
  | ueVcvt (t : Stall) (n : ThreadNo) (f : InsnFields)
  /-- Vector reduction into a scalar register. (R363) -/
  | ueVred (t : Stall) (n : ThreadNo) (f : InsnFields)
  /-- Mask register move or logic chosen by the immediate. (R363) -/
  | ueMmov (t : Stall) (n : ThreadNo) (f : InsnFields)
  /-- Vector 32-bit integer add. (R363) -/
  | ueViadd (t : Stall) (n : ThreadNo) (f : InsnFields)
  /-- Vector 32-bit integer subtract. (R363) -/
  | ueVisub (t : Stall) (n : ThreadNo) (f : InsnFields)
  /-- Vector 32-bit integer multiply. (R363) -/
  | ueVimul (t : Stall) (n : ThreadNo) (f : InsnFields)
  /-- Vector bitwise and. (R363) -/
  | ueVand (t : Stall) (n : ThreadNo) (f : InsnFields)
  /-- Vector bitwise or. (R363) -/
  | ueVor (t : Stall) (n : ThreadNo) (f : InsnFields)
  /-- Vector bitwise exclusive or. (R363) -/
  | ueVxor (t : Stall) (n : ThreadNo) (f : InsnFields)
  /-- Vector shift left. (R363) -/
  | ueVshl (t : Stall) (n : ThreadNo) (f : InsnFields)
  /-- Vector shift right by type. (R363) -/
  | ueVshr (t : Stall) (n : ThreadNo) (f : InsnFields)
  /-- Vector integer minimum. (R363) -/
  | ueVimin (t : Stall) (n : ThreadNo) (f : InsnFields)
  /-- Vector integer maximum. (R363) -/
  | ueVimax (t : Stall) (n : ThreadNo) (f : InsnFields)
  /-- Vector integer compare into a mask register. (R363) -/
  | ueVicmp (t : Stall) (n : ThreadNo) (f : InsnFields)
  /-- Writes each lane's index plus an immediate. (R363) -/
  | ueVlane (t : Stall) (n : ThreadNo) (f : InsnFields)
  /-- Broadcasts a scalar to every lane. (R363) -/
  | ueVbcast (t : Stall) (n : ThreadNo) (f : InsnFields)
  /-- Extracts one lane to a scalar register. (R363) -/
  | ueVext (t : Stall) (n : ThreadNo) (f : InsnFields)
  /-- Inserts a scalar into one lane. (R363) -/
  | ueVins (t : Stall) (n : ThreadNo) (f : InsnFields)
  /-- Permutes lanes by index vector. (R363) -/
  | ueVperm (t : Stall) (n : ThreadNo) (f : InsnFields)
  /-- Scalar load of the size given by the type. (R364) -/
  | ueLd (t : Stall) (n : ThreadNo) (f : InsnFields)
  /-- Scalar store of the size given by the type. (R364) -/
  | ueSt (t : Stall) (n : ThreadNo) (f : InsnFields)
  /-- Vector load with conversion to lanes. (R364) -/
  | ueVld (t : Stall) (n : ThreadNo) (f : InsnFields)
  /-- Vector load of one MX block with its scale. (R364) -/
  | ueVldx (t : Stall) (n : ThreadNo) (f : InsnFields)
  /-- Vector store with conversion and rounding. (R364) -/
  | ueVst (t : Stall) (n : ThreadNo) (f : InsnFields)
  /-- Strided vector load. (R364) -/
  | ueVlds (t : Stall) (n : ThreadNo) (f : InsnFields)
  /-- Strided vector store. (R364) -/
  | ueVsts (t : Stall) (n : ThreadNo) (f : InsnFields)
  /-- Indexed vector load. (R364) -/
  | ueVgather (t : Stall) (n : ThreadNo) (f : InsnFields)
  /-- Indexed vector store. (R364) -/
  | ueVscatter (t : Stall) (n : ThreadNo) (f : InsnFields)
  /-- Starts a block move counted on a completion counter. (R364) -/
  | ueBmov (t : Stall) (n : ThreadNo) (f : InsnFields)
  /-- Atomic add at the memory-side adder or stall atomic unit. (R365) -/
  | ueAadd (t : Stall) (n : ThreadNo) (f : InsnFields)
  /-- Atomic minimum. (R365) -/
  | ueAmin (t : Stall) (n : ThreadNo) (f : InsnFields)
  /-- Atomic maximum. (R365) -/
  | ueAmax (t : Stall) (n : ThreadNo) (f : InsnFields)
  /-- Atomic swap. (R365) -/
  | ueAswp (t : Stall) (n : ThreadNo) (f : InsnFields)
  /-- Atomic compare and swap. (R365) -/
  | ueAcas (t : Stall) (n : ThreadNo) (f : InsnFields)
  /-- Per-lane atomic adds. (R365) -/
  | ueVaadd (t : Stall) (n : ThreadNo) (f : InsnFields)
  /-- Orders the thread's accesses by the chosen kinds and scope. (R365) -/
  | ueFence (t : Stall) (n : ThreadNo) (f : InsnFields)
  /-- Team barrier; returns 1 when a team member is halted. (R348) -/
  | ueTsync (t : Stall) (n : ThreadNo) (f : InsnFields)
  /-- Yields until the bell number reaches a value. (R365) -/
  | ueBellw (t : Stall) (n : ThreadNo) (f : InsnFields) (nj : Nat)
  /-- Yields until a scratchpad location reaches a value. (R365) -/
  | ueWaitm (t : Stall) (n : ThreadNo) (f : InsnFields) (nj : Nat)
  /-- Ends the segment and makes the thread ready. (R365) -/
  | ueYield (t : Stall) (n : ThreadNo) (f : InsnFields) (nj : Nat)
  /-- Waits until a completion counter is 0 and returns its first error code. (R366) -/
  | ueKwait (t : Stall) (n : ThreadNo) (f : InsnFields)
  /-- Ends the thread; its team barrier counts it as departed. (R365) -/
  | ueEnd (t : Stall) (n : ThreadNo) (f : InsnFields) (nj : Nat)
  /-- Yields until the team claims a sink entry of a group, or returns at once for a closed group or broken team. (R368) -/
  | ueTake (t : Stall) (n : ThreadNo) (f : InsnFields) (nj : Nat)
  /-- Claims a sink entry without waiting. (R367) -/
  | ueTpoll (t : Stall) (n : ThreadNo) (f : InsnFields)
  /-- Frees a held staging buffer and counts a custody chunk as applied. (R367) -/
  | ueGive (t : Stall) (n : ThreadNo) (f : InsnFields)
  /-- Takes a staging buffer of at least the given size. (R367) -/
  | ueOutbuf (t : Stall) (n : ThreadNo) (f : InsnFields)
  /-- Sends output frames of a kind 5 group and feeds the team's output accumulator. (R369) -/
  | ueMcast (t : Stall) (n : ThreadNo) (f : InsnFields)
  /-- Sends a receipt from the output accumulator and closes it. (R370) -/
  | ueRcpt (t : Stall) (n : ThreadNo) (f : InsnFields)
  /-- Issues a matrix descriptor to the stall's array queues. (R382) -/
  | ueMxi (t : Stall) (n : ThreadNo) (f : InsnFields)
  /-- The oldest queued descriptor is admitted when the array tank holds its charge. (R387) -/
  | descriptorAdmit (t : Stall)
  /-- An admitted descriptor starts streaming when its gang is free, or completes with error 4 on a fenced gang. (R388) -/
  | descriptorStart (t : Stall) (slot : Fin 32)
  /-- A descriptor completes; status is written and its completion counter decreases. (R384) -/
  | descriptorComplete (t : Stall) (slot : Fin 32) (bubbles : Nat) (upset : Upset)
  /-- A residue or parity mismatch stops the gang, fences its sub-arrays and sets the team residue flag. (R396) -/
  | arrayResidueMismatch (t : Stall) (q : Fin 16)
  /-- At a boundary with no work on the fenced sub-arrays their 50 µs self-test starts. (R397) -/
  | arraySelfTestStart (t : Stall)
  /-- The sub-array self-test ends; the fence is lifted or kept. (R397) -/
  | arraySelfTestEnd (t : Stall) (pass : Bool)
  /-- A channel's scrub reads each access unit once per scrub_period and writes back corrected units. (R411) -/
  | scrubPass (c : Chan) (corrected : List Nat) (bad : List Nat)
  /-- At the next boundary a row is read, remapped to a spare and rewritten, and the repair logged. (R413) -/
  | rowRepair (c : Chan) (row : Nat) (bad : List (Fin 16))
  /-- A channel does not answer its controller for 10 µs and is mapped out automatically. (R414) -/
  | channelNoAnswer (c : Chan)
  /-- At X the channel takes a reserve slot and starts copying, or becomes holes when no slot is free. (R416) -/
  | mapOutStart (c : Chan)
  /-- The map-out copy ends; lost units are counted and custody resynchronises affected ranges. (R416) -/
  | mapOutCopyEnd (c : Chan) (bad : List Nat)
  /-- At the first boundary after the copy the channel reads mapped out. (R416) -/
  | channelMappedOut (c : Chan)
  /-- Every 10 µs a stack reads its hottest sensor and enters or leaves a thermal band. (R420) -/
  | stackTempReading (q : Fin 4) (milliC : Int) (atMs : Nat)
  /-- Every 64 core cycles a stall's staging backlog is sampled and saturation set or cleared. (R421) -/
  | stagingBacklogSample (t : Stall) (bytes : Nat)
  /-- A hello arrives; the pair becomes paired when both CRCs match, or fails. (R433) -/
  | custodyHello (msg : CustodyMsg)
  /-- No hello arrives within 5000 bells and the pair record returns to free. (R433) -/
  | helloTimeout (pair : Fin 4096)
  /-- A close message arrives and the partner closes the step when its clean count matches. (R436) -/
  | custodyClose (msg : CustodyMsg)
  /-- close_wait bells after the primary's close message the partner closes the step. (R436) -/
  | closeWaitExpiry (pair : Fin 4096)
  /-- A range's CRC-64 digest of the output bank is complete and batched for sending. (R437) -/
  | rangeDigestDone (pair : Fin 4096) (range : Nat)
  /-- A digest message arrives; once both sets are held the ranges are compared and a compared message sent. (R438) -/
  | custodyDigest (msg : CustodyMsg)
  /-- A compared message arrives and the side stops resending its digests. (R438) -/
  | custodyCompared (msg : CustodyMsg)
  /-- Every digest_resend bells without the other's compared message the digests are sent again. (R438) -/
  | digestResend (pair : Fin 4096)
  /-- 5000 bells after close without the other's digests comparison late is reported and an event raised. (R439) -/
  | comparisonLate (pair : Fin 4096)
  /-- A rollback copy of the input bank over the output bank ends; compared_seq advances and the primary sends a rollback notice. (R442) -/
  | restoreComplete (pair : Fin 4096)
  /-- A 2 KiB resync block arrives and is written; after the last block a resync ack is sent. (R448) -/
  | resyncData (msg : CustodyMsg)
  /-- A resync ack arrives; its CRC is compared and the range is done or sent again. (R448) -/
  | resyncAck (msg : CustodyMsg)
  /-- No ack arrives within digest_resend bells and the range is sent again, degrading after three failures. (R448) -/
  | resyncRangeTimeout (pair : Fin 4096)
  /-- No heartbeat from the other custodian for partner_timeout; the pair becomes alone and a capsule entry is written. (R449) -/
  | partnerTimeout (pair : Fin 4096)
  /-- At T the pair becomes alone as primary, rolls back or marks applied chunks, and opens its gate. (R451) -/
  | takeOverEffect (pair : Fin 4096)
  /-- At the first quiet boundary the stall is sublet and the test package starts on the test path. (R457) -/
  | testQuietStart (t : Stall)
  /-- A test package ends; the result is written and the stall returns or stays fenced. (R457) -/
  | testEnd (t : Stall) (pass : Bool) (code : Byte) (centiC : BitVec 16)
  /-- No quiet boundary comes within the wait limit; the test ends not quiet. (R457) -/
  | testWaitExpiry (t : Stall)
  /-- At the boundary after a reading within [a, b] the stall enters its fenced band as for a sublet. (R459) -/
  | bandEntry (t : Stall) (milliC : Int)
  /-- At the boundary after a reading outside the band plus hysteresis the stall returns to compute. (R459) -/
  | bandExit (t : Stall) (milliC : Int)
  /-- The warden latches the reservations, grants, stall division, slew and tally for the next bell. (R465) -/
  | wardenDecision (sweep : Sweep)
  /-- A late warden decision keeps the old budgets; after three in a row the safe budget applies. (R478) -/
  | decisionOverrun
  /-- A stall temperature reading or step enters level 1 or level 2 and cuts arrays within 200 ns. (R476) -/
  | thermalReading (t : Stall) (milliC : Int) (rise : Int)
  /-- 1 ms after level 2 a reading still at or above 105 °C paces every port to fwd_throttle. (R476) -/
  | level2Throttle (t : Stall) (milliC : Int)
  /-- Readings stay below the exit threshold for 1 ms and the level is left. (R476) -/
  | thermalLevelExit (t : Stall)
  /-- The hold temperature is not reached within hold_settle and the test starts at the temperature reached. (R479) -/
  | holdSettleExpiry (t : Stall)
  /-- At a ledger boundary every counter and section is latched, maxima reset, or the boundary is skipped or missed. (R494) -/
  | ledgerBoundary
  /-- The clerk finishes writing a ledger entry's sections and then its header. (R496) -/
  | ledgerEntryWritten
  /-- A write of ledger_enable starts or stops the ledger, checking the interval and ring. (R499) -/
  | ledgerEnable (r : Requester) (word : BitVec 64)
  /-- A counter control, filter or value write takes effect at the next boundary after its snapshot. (R489) -/
  | counterControlWrite (r : Requester) (index : BitVec 16) (sub : BitVec 8) (value : BitVec 256)
  /-- A chosen instruction's latency ends and its sample record is written toward the ring. (R502) -/
  | instructionSample (t : Stall) (n : ThreadNo) (rec : InsnSample)
  /-- A sampled frame's fate becomes final and its record is written toward the ring. (R503) -/
  | packetSample (p : Port) (rec : PacketSample)
  /-- A write to an object with no row of its own is checked by type, range, access, class and relation and takes effect. (R517) -/
  | registerWrite (a : BarAccess) (index : BitVec 16) (sub : BitVec 8) (word : BitVec 64)
  /-- A read of a long object's word copies it whole into the requester's long buffer. (R509) -/
  | longObjectRead (a : BarAccess) (index : BitVec 16) (sub : BitVec 8)
  /-- A write of a long object's word takes the rest from the long buffer and changes the object whole. (R509) -/
  | longObjectWrite (r : Requester) (index : BitVec 16) (sub : BitVec 8) (word : BitVec 64)
  /-- A write of 1 to a TABLE word checks the descriptor and starts a transfer. (R510) -/
  | tableTransferStart (r : Requester) (index : BitVec 16) (sub : BitVec 8) (word : BitVec 64)
  /-- A table transfer moves its last entry or stops on a lock or error. (R511) -/
  | tableTransferEnd (r : Requester) (data : List Byte) (hostError : Bool)
  /-- A dictionary message over management Ethernet or VC6 is authenticated and its items performed in order with a response. (R522) -/
  | dictionaryMessage (route : MsgRoute) (bytes : List Byte)
  /-- An I3C private write selects an object and optionally writes its value. (R526) -/
  | i3cPrivateWrite (bytes : List Byte)
  /-- A write of event_tail frees read event records, or is refused. (R529) -/
  | eventTailWrite (r : Requester) (word : BitVec 64)
  /-- A nonzero token write claims a free or final command slot and clears it. (R532) -/
  | slotClaim (r : Requester) (k : Slot) (token : BitVec 64)
  /-- A token write of 0 by the holder frees or withdraws a slot. (R532) -/
  | slotFree (r : Requester) (k : Slot)
  /-- A write of 1 to submit makes the slot submitted for the next intake. (R532) -/
  | slotSubmit (r : Requester) (k : Slot)
  /-- A write of 0 to submit before intake returns the slot to claimed. (R532) -/
  | slotWithdraw (r : Requester) (k : Slot)
  /-- A claimed slot not written for 1 s becomes free. (R532) -/
  | slotIdleTimeout (k : Slot)
  /-- Command that admits a pitch with its buckets from the next boundary. (R213) -/
  | admitPitch (k : Slot)
  /-- Command that releases a pitch with no group or pair. (R216) -/
  | releasePitch (k : Slot)
  /-- Command that schedules a group to open at G, choosing its home stall and reservations. (R265) -/
  | openGroup (k : Slot)
  /-- Command that makes a group closing at C. (R268) -/
  | closeGroup (k : Slot)
  /-- Command that takes threads for a run at its start boundary. (R352) -/
  | startThreads (k : Slot)
  /-- Command that ends a run at a boundary. (R353) -/
  | stopThreads (k : Slot)
  /-- Command that verifies and loads or unloads a program, test package or calibration table. (R562) -/
  | loadBundle (k : Slot)
  /-- Bundle verification ends; the bundle is placed or the command fails with code 12. (R559) -/
  | bundleVerified (token : BitVec 64) (fetched : Option (List Byte))
  /-- Command that runs a test package on a stall at its first quiet boundary. (R457) -/
  | runTest (k : Slot)
  /-- Command that fences, clears or arms a temperature band for a stall. (R458) -/
  | fenceStall (k : Slot)
  /-- Command that sublets a stall's compute to a neighbour or returns it. (R458) -/
  | sublet (k : Slot)
  /-- Command that schedules a port lane remap to a spare at boundary M. (R140) -/
  | remapLane (k : Slot)
  /-- Command that sets up or tears down a thoroughfare at boundary S and sends move proposals. (R128) -/
  | setThoroughfare (k : Slot)
  /-- Command that maps a memory channel out at boundary X. (R415) -/
  | mapOutChannel (k : Slot)
  /-- Command that schedules a forwarding-table bank switch at S against a digest. (R191) -/
  | switchTableBank (k : Slot)
  /-- Command that creates a custody pair record and sends hellos. (R430) -/
  | pairCustody (k : Slot)
  /-- Command that makes a custodian alone primary at boundary T. (R451) -/
  | takeOver (k : Slot)
  /-- Command that resynchronises listed ranges or fills a new partner. (R447) -/
  | resync (k : Slot)
  /-- Command that streams a DRAM span to host memory or a fabric endpoint. (R572) -/
  | checkpoint (k : Slot)
  /-- The checkpoint stream ends, with a trailer frame on the fabric route, and the command becomes done. (R572) -/
  | checkpointEnd (token : BitVec 64) (hostError : Bool)
  /-- Command that cancels a busy command before its boundary, a waiting RUN_TEST or a CHECKPOINT. (R543) -/
  | cancel (k : Slot)
  /-- A write to store_commit starts verifying a bundle store entry. (R561) -/
  | storeCommit (r : Requester) (word : BitVec 64)
  /-- Store commit verification ends and the entry is marked valid or empty. (R561) -/
  | storeCommitDone (entry : Fin 64)
  /-- A write to store_delete empties a bundle store entry at once. (R561) -/
  | storeDelete (r : Requester) (word : BitVec 64)
  /-- A write of a class message key applies to the next message and resets that class's request_id. (R566) -/
  | keyWrite (r : Requester) (operator : Bool) (key : BitVec 256)
  /-- A write of attest_nonce starts building an attestation report, discarding one in progress. (R568) -/
  | attestNonce (r : Requester) (nonce : BitVec 256)
  /-- The signed attestation report is complete and attest_state reads ready. (R568) -/
  | attestReportReady
  /-- A lease write is checked against free IDs and takes effect at the next boundary. (R481) -/
  | leaseWrite (r : Requester) (pitch : Pitch) (count : Bool) (word : BitVec 64)
  /-- A vf_binding write takes effect at the next boundary, ending the VF's transfer and clearing its long buffer. (R551) -/
  | vfBindingWrite (r : Requester) (v : Fin 64) (word : BitVec 64)
  /-- The PCIe link trains or retrains, dropping a rate after two equalisation failures. (R548) -/
  | pcieLinkTraining (partnerMax : Fin 7) (eqFailed : List (Fin 7)) (lanes : Fin 17)
  /-- PCIE_PERST_N goes low; the host interface is reset and host requests end as errors. (R549) -/
  | pciePerstAssert
  /-- A host completion for a DMA read arrives, with data or an error. (R554) -/
  | dmaCompletion (req : Nat) (status : CompletionStatus) (data : List Byte)
  /-- A host request has no completion within completion_timeout and ends as timed out. (R554) -/
  | completionTimeout (req : Nat)
  /-- At S + 30 ms the I3C target answers, management Ethernet starts in the MGMT mode, the dictionary becomes reachable, ALERT_N becomes valid and the module enters RETURN in Return mode. (R88) -/
  | managementDomainReady
  /-- On its interval timers the boundary clock sends Sync, Announce, Delay_Req or Pdelay_Req messages on its PTP ports, one-step or two-step. (R42) -/
  | ptpTransmit (port : Fin 1026) (kind : PtpKind)
  /-- A pulse output returns to its inactive level when its programmed width has elapsed. (R65) -/
  | pulseWidthEnd (k : Fin 4)
  /-- At S − 200 ns the thoroughfare's drop and add rings are checked for tuning; if they are not tuned the setup fails and both ports return to service. (R128) -/
  | thoroughfareReadinessCheck (e : Engine) (entry : Fin 8) (tuned : Bool)
  /-- A row entry in a channel's 64-row corrected-error table is dropped once it is older than 24 h. (R412) -/
  | correctedErrorEntryDrop (c : Chan) (row : Nat)
  /-- 2 ms after a level 1 cut, the engines beside the affected stalls return their ring dither loop from every 250 ns to the normal rate. (R476) -/
  | ditherLoopFastEnd (e : Engine)
  /-- The PCIe link goes down without PCIE_PERST_N; the host interface is reset, and every outstanding and later host request ends as an error until the link is up. (R549) -/
  | pcieLinkDown
  /-- The host writes configuration space, such as Bus Master Enable or NumVFs, which gates DMA requests and boot fetch and sets the enabled VFs. (R550) -/
  | pcieConfigWrite (field : PcieConfig)
  /-- The I3C target takes its dynamic address from the BMC through ENTDAA. (R526) -/
  | entdaa (addr : BitVec 7)
  deriving DecidableEq, Repr

end Sys2Proof
end

