-- ==== Sys2Proof/Config.lean ====
section
/-! DEFINITION. What the manual fixes elsewhere than in its text, or leaves open: the factory contents
of the identity store, the cryptographic functions it takes from other standards, and free values. Each
is a constant without a body, so no proof can rest on a value of it. -/

namespace Sys2Proof

/-- Word of an object whose default is "Factory", by object key (17 R519; log 5). -/
opaque Config.factory : Nat → Nat

/-- Byte of a table whose default is "Factory", by object key and offset (17 R519; log 5). -/
opaque Config.factoryByte : Nat → Nat → Byte

/-- The module's clockIdentity, from its identity store (02 R41; log 5). -/
opaque Config.clockIdentity : BitVec 64

/-- Flags, currentUtcOffset and timeSource that the module announces without a parent (02 R46; log 26). -/
opaque Config.clockTime : BitVec 32

/-- clockAccuracy and offsetScaledLogVariance of the module's own data set (02 R46; log 26). -/
opaque Config.clockQuality : BitVec 24

/-- A fresh free value, by the draw counter of State (log 6). -/
opaque Config.freeValue : Nat → Nat

/-- What a counter object reads past its type's range, by object key and exact count (log 8). -/
opaque Config.counterWrap : Nat → Nat → Nat

/-- HMAC-SHA-256, by key and message (17 R523; log 7). -/
opaque Config.hmacSha256 : List Byte → List Byte → List Byte

/-- SHA-512 (18 R557, R569; log 7). -/
opaque Config.sha512 : List Byte → List Byte

/-- Ed25519 verification, by public key, message and signature (18 R559; log 7). -/
opaque Config.ed25519Ok : List Byte → List Byte → List Byte → Bool

/-- ML-DSA-65 verification, by public key, message and signature (18 R559; log 7). -/
opaque Config.mldsaOk : List Byte → List Byte → List Byte → Bool

/-- The keys of signer set 0, held in ROM: Ed25519 key, then ML-DSA-65 key (18 R558; log 7). -/
opaque Config.vendorKeys : List Byte

/-- SHA-384 of the die ROM and of the management ROM (18 R569; log 7). -/
opaque Config.dieRom : BitVec 384
opaque Config.mgmtRom : BitVec 384

/-- Ed25519 signature with the module's identity key (18 R569; log 7). -/
opaque Config.ed25519Sign : List Byte → List Byte

/-- The bytes over which a custody hello's CRC runs, whose order the manual does not give: pitch, group,
stock, chunk stride, chunks, first sequence (14 R433; log 48). -/
opaque Config.custodyArgBytes : Nat → Nat → Bool → Nat → Nat → Nat → List Byte

/-- ML-DSA-65 signature with the module's identity key (18 R569; log 7). -/
opaque Config.mldsaSign : List Byte → List Byte

end Sys2Proof
end

