-- ==== Sys2Proof/Machine/Tbl.lean ====
section
/-! DEFINITION. Sparse tables: lists of (key, value) with keys strictly rising. They hold what the spec
numbers (ports, stalls, groups, objects) without an entry for each number never touched. -/

namespace Sys2Proof.Machine

/-- A table from numbers to values, keys strictly rising. -/
abbrev Tbl (α : Type) := List (Nat × α)

/-- The entry of a key, if the table has one. -/
def Tbl.find {α : Type} : Tbl α → Nat → Option α
  | [], _ => none
  | (j, v) :: rest, k => if j = k then some v else Tbl.find rest k

/-- The entry of a key, or `d`. -/
def Tbl.get {α : Type} (t : Tbl α) (k : Nat) (d : α) : α := (Tbl.find t k).getD d

/-- Write one entry, in key order. -/
def Tbl.set {α : Type} : Tbl α → Nat → α → Tbl α
  | [], k, v => [(k, v)]
  | (j, w) :: rest, k, v =>
    if k < j then (k, v) :: (j, w) :: rest
    else if j = k then (k, v) :: rest
    else (j, w) :: Tbl.set rest k v

/-- Remove one entry. -/
def Tbl.erase {α : Type} : Tbl α → Nat → Tbl α
  | [], _ => []
  | (j, w) :: rest, k => if j = k then Tbl.erase rest k else (j, w) :: Tbl.erase rest k

/-- Change the entry of a key, reading `d` where there is none. -/
def Tbl.modify {α : Type} (t : Tbl α) (k : Nat) (d : α) (f : α → α) : Tbl α :=
  Tbl.set t k (f (Tbl.get t k d))

/-- Keys strictly rising: the one canonical form. -/
def Tbl.sorted {α : Type} : Tbl α → Bool
  | [] => true
  | (k, _) :: rest => rest.all (fun e => decide (k < e.1)) && Tbl.sorted rest

/-- Apply a function to every entry. -/
def Tbl.mapVals {α : Type} (t : Tbl α) (f : Nat → α → α) : Tbl α := t.map fun e => (e.1, f e.1 e.2)

/-- Replace element `i` of a list that is read with default `d`. -/
def listPut {α : Type} (d : α) : List α → Nat → α → List α
  | [], 0, v => [v]
  | [], i + 1, v => d :: listPut d [] i v
  | _ :: xs, 0, v => v :: xs
  | x :: xs, i + 1, v => x :: listPut d xs i v

end Sys2Proof.Machine
end

