-- ==== Sys2Proof/Machine/Bits.lean ====
section
/-! DEFINITION. Bit fields, byte order and sign extension. Multi-byte values are little-endian
(00 R12); header fields are taken most significant bit first (05 R160). -/

namespace Sys2Proof.Machine

/-- Bits [lo + w - 1 : lo] of a number. -/
def bits (x lo w : Nat) : Nat := (x >>> lo) % 2 ^ w

/-- Bit `i` of a number. -/
def bit (x i : Nat) : Bool := x.testBit i

/-- A number with bit `i` set. -/
def setBit (x i : Nat) : Nat := x ||| (1 <<< i)

/-- A number with bit `i` cleared. -/
def clearBit (x i : Nat) : Nat := if x.testBit i then x - (1 <<< i) else x

/-- A number with bit `i` as given. -/
def putBit (x i : Nat) (b : Bool) : Nat := if b then setBit x i else clearBit x i

/-- A Boolean as a bit. -/
def b2n (b : Bool) : Nat := if b then 1 else 0

/-- The number of bits set among the lowest `w`. -/
def popCount (x : Nat) : Nat → Nat
  | 0 => 0
  | w + 1 => b2n (x.testBit w) + popCount x w

/-- A `w`-bit number read as two's complement. -/
def toSigned (w x : Nat) : Int :=
  if x % 2 ^ w < 2 ^ (w - 1) then Int.ofNat (x % 2 ^ w) else Int.ofNat (x % 2 ^ w) - Int.ofNat (2 ^ w)

/-- An integer as a `w`-bit two's complement number. -/
def ofSigned (w : Nat) (x : Int) : Nat := (x % Int.ofNat (2 ^ w)).toNat

/-- The number whose little-endian bytes are given. -/
def leNat : List Byte → Nat
  | [] => 0
  | b :: bs => b.toNat + 256 * leNat bs

/-- The lowest `n` bytes of a number, little-endian. -/
def leBytes : Nat → Nat → List Byte
  | 0, _ => []
  | n + 1, x => BitVec.ofNat 8 x :: leBytes n (x / 256)

/-- The lowest `n` bytes of a number, most significant byte first. -/
def beBytes (n x : Nat) : List Byte := (leBytes n x).reverse

/-- The number whose bytes are given most significant first. -/
def beNat (bs : List Byte) : Nat := leNat bs.reverse

/-- Ceiling of a quotient. -/
def ceilDiv (a b : Nat) : Nat := (a + b - 1) / b

/-- Clamp an integer to a range. -/
def clampInt (lo hi x : Int) : Int := if x < lo then lo else if hi < x then hi else x

/-- The list of numbers from 0 to n - 1. -/
def upTo (n : Nat) : List Nat := List.range n

/-- Split a list into pieces of `n` elements; `fuel` bounds the number of pieces. -/
def pieces {α : Type} (n : Nat) : Nat → List α → List (List α)
  | 0, _ => []
  | fuel + 1, xs => if xs.isEmpty then [] else xs.take n :: pieces n fuel (xs.drop n)

end Sys2Proof.Machine
end

