-- ==== Sys2Proof/Machine/Crc.lean ====
section
/-! DEFINITION. The checks of the manual: CRC-32C (01 R23, 05 R161), CRC-8 (05 R136, R146) and
CRC-64 (14 R437), bit by bit over bytes. -/

namespace Sys2Proof.Machine

/-- One bit of the reflected CRC-32C, whose reflected polynomial is 0x82F6_3B78. -/
def crc32cBit (c : Nat) : Nat := if c % 2 = 1 then (c / 2) ^^^ 0x82F63B78 else c / 2

/-- `n` bit steps of CRC-32C. -/
def crc32cBits : Nat → Nat → Nat
  | 0, c => c
  | n + 1, c => crc32cBits n (crc32cBit c)

/-- CRC-32C register after more bytes, the register as given. -/
def crc32cRun : Nat → List Byte → Nat
  | c, [] => c
  | c, b :: bs => crc32cRun (crc32cBits 8 (c ^^^ b.toNat)) bs

/-- CRC-32C (Castagnoli): initial value and final XOR 0xFFFF_FFFF, as iSCSI (05 R161). -/
def crc32c (bs : List Byte) : Nat := crc32cRun 0xFFFFFFFF bs ^^^ 0xFFFFFFFF

/-- One bit of the CRC-8 with polynomial 0x07, most significant bit first. -/
def crc8Bit (c : Nat) : Nat := if 128 ≤ c then ((c * 2) % 256) ^^^ 0x07 else c * 2

/-- `n` bit steps of CRC-8. -/
def crc8Bits : Nat → Nat → Nat
  | 0, c => c
  | n + 1, c => crc8Bits n (crc8Bit c)

/-- CRC-8, polynomial 0x07, over bytes; initial value 0 and no final XOR (the manual states neither,
log 14). -/
def crc8 (bs : List Byte) : Nat := bs.foldl (fun c b => crc8Bits 8 (c ^^^ b.toNat)) 0

/-- One bit of the ECMA-182 CRC-64, most significant bit first. -/
def crc64Bit (c : Nat) : Nat :=
  if 2 ^ 63 ≤ c then ((c * 2) % 2 ^ 64) ^^^ 0x42F0E1EBA9EA3693 else c * 2

/-- `n` bit steps of CRC-64. -/
def crc64Bits : Nat → Nat → Nat
  | 0, c => c
  | n + 1, c => crc64Bits n (crc64Bit c)

/-- CRC-64 register after more bytes. -/
def crc64Run (c : Nat) (bs : List Byte) : Nat := bs.foldl (fun c b => crc64Bits 8 (c ^^^ (b.toNat <<< 56))) c

/-- CRC-64 of 14 R437: ECMA-182 polynomial, initial value 0, no final XOR. -/
def crc64 (bs : List Byte) : Nat := crc64Run 0 bs

end Sys2Proof.Machine
end

