-- ==== Sys2Proof/Machine/Objects.lean ====
section
/-! DEFINITION. The object dictionary as tables of the manual: one row per dictionary entry of each
chapter, with its type, access, default and range (17 R506 to R519), and a name for each object. -/

namespace Sys2Proof.Machine

/-- Object types (17 R507). A table carries its size and entry size in bytes. -/
inductive ObjType where
  | bool | u8 | u16 | u32 | u64 | i16 | i32 | i64 | f32 | time80
  | bytes (n : Nat)
  | table (size entry : Nat)
  deriving DecidableEq, Repr

/-- Access codes (17 R512). -/
inductive Access where
  | ro | rw | wo | rws | rwl
  deriving DecidableEq, Repr

/-- A row of a dictionary table: `count` indices from `index` every `istep`, `subs` subindices from `sub`
every `sstep`; a default word; the plain range its Meaning column states. -/
structure ObjRow where
  index : Nat
  count : Nat := 1
  istep : Nat := 1
  sub : Nat
  subs : Nat := 1
  sstep : Nat := 1
  ty : ObjType
  acc : Access
  dflt : Nat := 0
  /-- Defaults of the subindices where they differ. -/
  dflts : List Nat := []
  factory : Bool := false
  range : Option (Int × Int) := none
  deriving DecidableEq, Repr

/-- An object by its key 256 × index + subindex, with its width in bits and its default. -/
structure Obj where
  key : Nat
  width : Nat
  dflt : Nat
  deriving DecidableEq, Repr

/-- Rows of the dictionary, part 1. -/
def dictRows1 : List ObjRow := [
  { index := 0x0100, sub := 0x01, ty := .bytes 16, acc := .ro, factory := true },
  { index := 0x0100, sub := 0x02, ty := .bytes 16, acc := .ro, factory := true },
  { index := 0x0100, sub := 0x03, ty := .u16, acc := .ro, factory := true },
  { index := 0x0100, sub := 0x04, ty := .u32, acc := .ro, factory := true },
  { index := 0x0100, sub := 0x05, ty := .u8, acc := .ro, dflt := 1 },
  { index := 0x0100, sub := 0x06, ty := .u32, acc := .ro },
  { index := 0x0100, sub := 0x07, ty := .u8, acc := .rws },
  { index := 0x0100, sub := 0x08, ty := .u8, acc := .rws },
  { index := 0x0100, sub := 0x09, ty := .u8, acc := .ro },
  { index := 0x0100, sub := 0x0A, ty := .u8, acc := .rws },
  { index := 0x0100, sub := 0x0B, ty := .u8, acc := .rws },
  { index := 0x0100, sub := 0x0C, ty := .u16, acc := .ro },
  { index := 0x0100, sub := 0x0D, ty := .u16, acc := .rw },
  { index := 0x0100, sub := 0x0E, ty := .bytes 256, acc := .ro },
  { index := 0x0100, sub := 0x0F, ty := .u16, acc := .ro },
  { index := 0x0200, sub := 0x01, ty := .u32, acc := .ro },
  { index := 0x0200, sub := 0x02, ty := .u32, acc := .ro },
  { index := 0x0200, sub := 0x03, ty := .u32, acc := .ro },
  { index := 0x0200, sub := 0x04, ty := .u32, acc := .ro },
  { index := 0x0200, sub := 0x05, ty := .u32, acc := .ro },
  { index := 0x0200, sub := 0x06, ty := .u8, acc := .ro },
  { index := 0x0200, sub := 0x07, ty := .bool, acc := .ro },
  { index := 0x0200, sub := 0x08, ty := .u32, acc := .ro },
  { index := 0x0200, sub := 0x09, ty := .u8, acc := .ro },
  { index := 0x0200, sub := 0x0A, ty := .bool, acc := .wo },
  { index := 0x0200, sub := 0x0B, ty := .bool, acc := .rw, dflt := 1 },
  { index := 0x0200, sub := 0x0C, ty := .u32, acc := .ro },
  { index := 0x0200, sub := 0x0D, ty := .u32, acc := .ro },
  { index := 0x0200, sub := 0x0E, ty := .u64, acc := .ro },
  { index := 0x0200, sub := 0x10, ty := .u32, acc := .ro, subs := 12 },
  { index := 0x0200, sub := 0x20, ty := .u32, acc := .rw, range := some (1000, 2000) },
  { index := 0x0200, sub := 0x21, ty := .u16, acc := .ro, dflt := 955 },
  { index := 0x0200, sub := 0x22, ty := .u8, acc := .ro },
  { index := 0x0200, sub := 0x23, ty := .u8, acc := .rw, dflt := 64, range := some (1, 255) },
  { index := 0x0200, sub := 0x24, ty := .u8, acc := .rw, dflt := 2, range := some (0, 20) },
  { index := 0x0200, sub := 0x25, ty := .u16, acc := .rw, dflt := 5000, range := some (500, 50000) },
  { index := 0x0200, sub := 0x26, ty := .u16, acc := .rw, dflt := 50, range := some (10, 1000) },
  { index := 0x0200, sub := 0x27, ty := .u32, acc := .rw, dflt := 40000, range := some (1000, 400000) },
  { index := 0x0200, sub := 0x28, ty := .u16, acc := .rw, dflt := 32, range := some (0, 4096) },
  { index := 0x0200, sub := 0x29, ty := .i32, acc := .rw, dflt := 100000, range := some (80000, 104000) }]

/-- Rows of the dictionary, part 2. -/
def dictRows2 : List ObjRow := [
  { index := 0x0200, sub := 0x2A, ty := .i32, acc := .rw, dflt := 640, range := some (100, 10000) },
  { index := 0x0200, sub := 0x2B, ty := .u16, acc := .rw, dflt := 32, range := some (8, 1000) },
  { index := 0x0200, sub := 0x2C, ty := .u8, acc := .rw, dflt := 50, range := some (10, 90) },
  { index := 0x0200, sub := 0x2D, ty := .u32, acc := .rw, dflt := 200, range := some (10, 10000) },
  { index := 0x0200, sub := 0x2E, ty := .i32, acc := .ro },
  { index := 0x0200, sub := 0x2F, ty := .i32, acc := .ro },
  { index := 0x0200, sub := 0x30, ty := .u32, acc := .ro, subs := 7 },
  { index := 0x0200, sub := 0x38, ty := .u32, acc := .ro, subs := 7 },
  { index := 0x0200, sub := 0x40, ty := .u32, acc := .rw, subs := 7, dflts := [0, 0, 0, 0, 16000, 0, 8000] },
  { index := 0x0200, sub := 0x48, ty := .u32, acc := .rw, subs := 7, dflts := [0, 0, 0, 0, 80000, 525000, 20000] },
  { index := 0x0200, sub := 0x50, ty := .u64, acc := .ro },
  { index := 0x0200, sub := 0x51, ty := .u64, acc := .ro },
  { index := 0x0200, sub := 0x52, ty := .u64, acc := .ro },
  { index := 0x0200, sub := 0x53, ty := .u64, acc := .ro },
  { index := 0x0200, sub := 0x54, ty := .u64, acc := .ro },
  { index := 0x0200, sub := 0x55, ty := .u64, acc := .ro },
  { index := 0x0200, sub := 0x56, ty := .u64, acc := .ro },
  { index := 0x0300, sub := 0x01, ty := .u8, acc := .ro },
  { index := 0x0300, sub := 0x02, ty := .time80, acc := .ro },
  { index := 0x0300, sub := 0x03, ty := .time80, acc := .ro },
  { index := 0x0300, sub := 0x04, ty := .time80, acc := .rw },
  { index := 0x0300, sub := 0x05, ty := .time80, acc := .ro },
  { index := 0x0300, sub := 0x06, ty := .u32, acc := .rws, range := some (1000, 10000) },
  { index := 0x0300, sub := 0x07, ty := .u8, acc := .rws, range := some (0, 2) },
  { index := 0x0300, sub := 0x08, ty := .u64, acc := .ro },
  { index := 0x0300, sub := 0x09, ty := .bool, acc := .ro },
  { index := 0x0300, sub := 0x0A, ty := .u64, acc := .ro },
  { index := 0x0300, sub := 0x0B, ty := .u8, acc := .rws, range := some (0, 127) },
  { index := 0x0300, sub := 0x0C, ty := .u8, acc := .rws, dflt := 2, range := some (0, 255) },
  { index := 0x0300, sub := 0x0D, ty := .u8, acc := .rw, dflt := 255 },
  { index := 0x0300, sub := 0x0E, ty := .u8, acc := .rw, dflt := 255 },
  { index := 0x0300, sub := 0x0F, ty := .bool, acc := .rw, dflt := 1 },
  { index := 0x0300, sub := 0x10, ty := .bool, acc := .rw },
  { index := 0x0300, sub := 0x11, ty := .i32, acc := .rw, dflt := 0xfffffffffffffffc, range := some (-7, 0) },
  { index := 0x0300, sub := 0x12, ty := .i32, acc := .rw, range := some (0, 4) },
  { index := 0x0300, sub := 0x13, ty := .u32, acc := .rw, dflt := 20 },
  { index := 0x0300, sub := 0x14, ty := .u8, acc := .rw, dflt := 16, range := some (1, 255) },
  { index := 0x0300, sub := 0x15, ty := .u32, acc := .rw, dflt := 10000, range := some (0, 100000) },
  { index := 0x0300, sub := 0x16, ty := .u32, acc := .rw, dflt := 1000 },
  { index := 0x0300, sub := 0x17, ty := .bool, acc := .wo }]

/-- Rows of the dictionary, part 3. -/
def dictRows3 : List ObjRow := [
  { index := 0x0300, sub := 0x18, ty := .u32, acc := .rw, dflt := 250 },
  { index := 0x0300, sub := 0x19, ty := .u64, acc := .ro },
  { index := 0x0300, sub := 0x1A, ty := .i32, acc := .ro },
  { index := 0x0300, sub := 0x1B, ty := .i32, acc := .rw },
  { index := 0x0300, sub := 0x1C, ty := .u16, acc := .ro, dflt := 65535 },
  { index := 0x0300, sub := 0x1D, ty := .bytes 10, acc := .ro },
  { index := 0x0300, sub := 0x1E, ty := .i64, acc := .ro },
  { index := 0x0300, sub := 0x1F, ty := .i64, acc := .ro },
  { index := 0x0300, sub := 0x20, ty := .time80, acc := .rw, subs := 4, sstep := 4 },
  { index := 0x0300, sub := 0x21, ty := .u64, acc := .rw, subs := 4, sstep := 4 },
  { index := 0x0300, sub := 0x22, ty := .u32, acc := .rw, subs := 4, sstep := 4, dflt := 100 },
  { index := 0x0300, sub := 0x23, ty := .u32, acc := .rw, subs := 4, sstep := 4 },
  { index := 0x0300, sub := 0x40, ty := .u8, acc := .rw, subs := 2, sstep := 4, range := some (0, 2) },
  { index := 0x0300, sub := 0x41, ty := .i32, acc := .rw, subs := 2, sstep := 4 },
  { index := 0x0300, sub := 0x42, ty := .bytes 20, acc := .ro, subs := 2, sstep := 4 },
  { index := 0x0300, sub := 0x43, ty := .u32, acc := .ro, subs := 2, sstep := 4 },
  { index := 0x0400, sub := 0x01, ty := .table 65536 1, acc := .ro, factory := true },
  { index := 0x0400, sub := 0x02, ty := .table 65536 1, acc := .ro, factory := true },
  { index := 0x0400, sub := 0x03, ty := .bytes 32, acc := .ro, factory := true },
  { index := 0x0400, sub := 0x04, ty := .table 1952 1, acc := .ro, factory := true },
  { index := 0x0400, sub := 0x05, ty := .bytes 32, acc := .wo },
  { index := 0x0400, sub := 0x06, ty := .bytes 32, acc := .wo },
  { index := 0x0400, sub := 0x07, ty := .u8, acc := .ro },
  { index := 0x0400, sub := 0x08, ty := .bytes 32, acc := .wo },
  { index := 0x0400, sub := 0x09, ty := .u8, acc := .ro },
  { index := 0x0400, sub := 0x0A, ty := .table 6144 1, acc := .ro },
  { index := 0x0400, sub := 0x0B, ty := .table 1024 16, acc := .rw },
  { index := 0x0400, sub := 0x0C, ty := .bool, acc := .rw },
  { index := 0x0400, sub := 0x0D, ty := .u32, acc := .rw, dflt := 10, range := some (1, 600) },
  { index := 0x0400, sub := 0x0E, ty := .table 536870912 1, acc := .rw },
  { index := 0x0400, sub := 0x0F, ty := .u8, acc := .wo, range := some (0, 63) },
  { index := 0x0400, sub := 0x10, ty := .u8, acc := .wo, range := some (0, 63) },
  { index := 0x0400, sub := 0x11, ty := .table 2048 32, acc := .ro },
  { index := 0x0400, sub := 0x12, ty := .table 67108864 1, acc := .rw },
  { index := 0x0400, sub := 0x13, ty := .u64, acc := .ro },
  { index := 0x0400, sub := 0x21, ty := .bytes 1984, acc := .rw, subs := 4 },
  { index := 0x0400, sub := 0x30, ty := .u64, acc := .rw, subs := 5 },
  { index := 0x0500, sub := 0x01, ty := .u8, acc := .ro },
  { index := 0x0500, sub := 0x02, ty := .u8, acc := .ro },
  { index := 0x0500, sub := 0x03, ty := .u64, acc := .ro }]

/-- Rows of the dictionary, part 4. -/
def dictRows4 : List ObjRow := [
  { index := 0x0500, sub := 0x04, ty := .u8, acc := .rw, dflt := 4, range := some (1, 64) },
  { index := 0x0500, sub := 0x05, ty := .table 16384 4, acc := .rwl },
  { index := 0x0500, sub := 0x06, ty := .table 16384 4, acc := .rwl },
  { index := 0x0500, sub := 0x07, ty := .table 32768 32, acc := .rwl },
  { index := 0x0500, sub := 0x08, ty := .table 32768 32, acc := .rwl },
  { index := 0x0500, sub := 0x09, ty := .u32, acc := .ro },
  { index := 0x0500, sub := 0x0A, ty := .u32, acc := .ro },
  { index := 0x0500, sub := 0x0B, ty := .table 8388608 2, acc := .ro },
  { index := 0x0500, sub := 0x0C, ty := .u16, acc := .rw, dflt := 256 },
  { index := 0x0500, sub := 0x0D, ty := .u8, acc := .rw, dflt := 32, range := some (8, 56) },
  { index := 0x0500, sub := 0x0E, ty := .u8, acc := .rw, dflt := 16 },
  { index := 0x0500, sub := 0x0F, ty := .u8, acc := .rw, dflt := 28 },
  { index := 0x0500, sub := 0x10, ty := .u8, acc := .rw, dflt := 8 },
  { index := 0x0500, sub := 0x11, ty := .u8, acc := .rw, dflt := 1 },
  { index := 0x0500, sub := 0x12, ty := .u8, acc := .rw, dflt := 20 },
  { index := 0x0500, sub := 0x13, ty := .u64, acc := .ro },
  { index := 0x0500, sub := 0x14, ty := .u64, acc := .ro },
  { index := 0x0500, sub := 0x15, ty := .u64, acc := .ro },
  { index := 0x0500, sub := 0x16, ty := .u64, acc := .ro },
  { index := 0x0500, sub := 0x17, ty := .u64, acc := .ro },
  { index := 0x0500, sub := 0x18, ty := .u64, acc := .ro },
  { index := 0x0500, sub := 0x19, ty := .u64, acc := .ro },
  { index := 0x0500, sub := 0x1A, ty := .u64, acc := .ro },
  { index := 0x0500, sub := 0x40, ty := .u32, acc := .rw, subs := 16, sstep := 4 },
  { index := 0x0500, sub := 0x41, ty := .u16, acc := .rw, subs := 16, sstep := 4, dflt := 65535 },
  { index := 0x0500, sub := 0x42, ty := .bytes 20, acc := .rw, subs := 16, sstep := 4 },
  { index := 0x0500, sub := 0x43, ty := .u16, acc := .rw, subs := 16, sstep := 4, dflt := 65535 },
  { index := 0x0500, sub := 0x80, ty := .u64, acc := .ro, subs := 16 },
  { index := 0x0500, sub := 0x90, ty := .u64, acc := .ro, subs := 16 },
  { index := 0x0500, sub := 0xA0, ty := .table 16777216 16, acc := .rw },
  { index := 0x0500, sub := 0xA1, ty := .table 8388608 16, acc := .rw },
  { index := 0x0500, sub := 0xA2, ty := .table 8388608 32, acc := .rw },
  { index := 0x0500, sub := 0xA3, ty := .table 132 4, acc := .rw },
  { index := 0x0500, sub := 0xA4, ty := .table 516 4, acc := .rw },
  { index := 0x0500, sub := 0xA5, ty := .table 131072 2, acc := .rw },
  { index := 0x0500, sub := 0xA6, ty := .table 1048576 16, acc := .rw },
  { index := 0x0500, sub := 0xA7, ty := .u32, acc := .rw, range := some (0, 131071) },
  { index := 0x0500, sub := 0xA8, ty := .u32, acc := .rw, range := some (0, 131071) },
  { index := 0x0500, sub := 0xA9, ty := .u8, acc := .rw, range := some (0, 1) },
  { index := 0x0500, sub := 0xAA, ty := .u16, acc := .rw, dflt := 1024, range := some (16, 65535) }]

/-- Rows of the dictionary, part 5. -/
def dictRows5 : List ObjRow := [
  { index := 0x0500, sub := 0xAB, ty := .u16, acc := .rw, dflt := 500 },
  { index := 0x0500, sub := 0xAC, ty := .u32, acc := .wo },
  { index := 0x0500, sub := 0xAD, ty := .u32, acc := .rw, dflt := 5000, range := some (100, 10000000) },
  { index := 0x0500, sub := 0xAE, ty := .table 1060 1, acc := .ro },
  { index := 0x0500, sub := 0xAF, ty := .table 16960 2, acc := .ro },
  { index := 0x0500, sub := 0xB0, ty := .u64, acc := .ro },
  { index := 0x0500, sub := 0xB1, ty := .u64, acc := .ro },
  { index := 0x0500, sub := 0xB2, ty := .u64, acc := .ro },
  { index := 0x0500, sub := 0xB3, ty := .u64, acc := .ro },
  { index := 0x0500, sub := 0xB4, ty := .u64, acc := .ro },
  { index := 0x0500, sub := 0xB5, ty := .u64, acc := .ro },
  { index := 0x0500, sub := 0xB6, ty := .u64, acc := .ro },
  { index := 0x0500, sub := 0xB7, ty := .u64, acc := .ro },
  { index := 0x0500, sub := 0xB8, ty := .u64, acc := .ro },
  { index := 0x0500, sub := 0xB9, ty := .u64, acc := .ro },
  { index := 0x0500, sub := 0xBA, ty := .u64, acc := .ro },
  { index := 0x0600, sub := 0x01, ty := .u16, acc := .ro, dflt := 1 },
  { index := 0x0600, sub := 0x02, ty := .u64, acc := .ro },
  { index := 0x0600, sub := 0x03, ty := .u8, acc := .rw, dflt := 50, range := some (1, 100) },
  { index := 0x0600, sub := 0x04, ty := .u16, acc := .rw, dflt := 200, range := some (1, 2000) },
  { index := 0x0600, sub := 0x05, ty := .u32, acc := .rw, dflt := 8192, range := some (512, 65536) },
  { index := 0x0600, sub := 0x06, ty := .bool, acc := .rw, dflt := 1 },
  { index := 0x0600, sub := 0x08, ty := .u8, acc := .rw, subs := 8, dflts := [10, 10, 10, 10, 32, 0, 4, 4] },
  { index := 0x0600, sub := 0x10, ty := .u32, acc := .rw, subs := 8, dflt := 0xffffffff, range := some (0, 4294967295) },
  { index := 0x0600, sub := 0x18, ty := .u32, acc := .rw, subs := 8, dflt := 1048576, range := some (4096, 268435456) },
  { index := 0x0600, sub := 0x20, ty := .u8, acc := .rw, subs := 8, range := some (0, 1) },
  { index := 0x0700, sub := 0x01, ty := .u32, acc := .ro },
  { index := 0x0700, sub := 0x02, ty := .u16, acc := .ro },
  { index := 0x0700, sub := 0x03, ty := .u16, acc := .rw, dflt := 12288, range := some (0, 16384) },
  { index := 0x0700, sub := 0x04, ty := .u16, acc := .ro },
  { index := 0x0700, sub := 0x05, ty := .u16, acc := .ro },
  { index := 0x0700, sub := 0x06, ty := .u16, acc := .rw, dflt := 5000 },
  { index := 0x0700, sub := 0x07, ty := .u8, acc := .rw, dflt := 4, range := some (1, 16) },
  { index := 0x0700, sub := 0x08, ty := .u16, acc := .rw, dflt := 1 },
  { index := 0x0700, sub := 0x09, ty := .i32, acc := .rw, dflt := 0xffffffffffffffc4, range := some (-160, 32) },
  { index := 0x0700, sub := 0x0A, ty := .table 4194304 64, acc := .ro },
  { index := 0x0700, sub := 0x0B, ty := .u64, acc := .ro },
  { index := 0x0700, sub := 0x0C, ty := .u64, acc := .ro },
  { index := 0x0700, sub := 0x10, ty := .u64, acc := .ro },
  { index := 0x0700, sub := 0x11, ty := .u64, acc := .ro }]

/-- Rows of the dictionary, part 6. -/
def dictRows6 : List ObjRow := [
  { index := 0x0700, sub := 0x12, ty := .u64, acc := .ro },
  { index := 0x0700, sub := 0x13, ty := .u64, acc := .ro },
  { index := 0x0700, sub := 0x14, ty := .u64, acc := .ro },
  { index := 0x0700, sub := 0x15, ty := .u64, acc := .ro },
  { index := 0x0700, sub := 0x16, ty := .u64, acc := .ro },
  { index := 0x0700, sub := 0x17, ty := .u64, acc := .ro },
  { index := 0x0700, sub := 0x20, ty := .u16, acc := .rw, dflt := 16, range := some (1, 4096) },
  { index := 0x0700, sub := 0x21, ty := .u16, acc := .rw, dflt := 5000 },
  { index := 0x0700, sub := 0x22, ty := .table 131072 32, acc := .ro },
  { index := 0x0700, sub := 0x23, ty := .u16, acc := .ro },
  { index := 0x0700, sub := 0x24, ty := .u64, acc := .ro },
  { index := 0x0700, sub := 0x25, ty := .u64, acc := .ro },
  { index := 0x0700, sub := 0x26, ty := .u64, acc := .ro },
  { index := 0x0700, sub := 0x27, ty := .u64, acc := .ro },
  { index := 0x0700, sub := 0x28, ty := .u64, acc := .ro },
  { index := 0x0700, sub := 0x29, ty := .u64, acc := .ro },
  { index := 0x0700, sub := 0x2A, ty := .u64, acc := .ro },
  { index := 0x0700, sub := 0x2B, ty := .u64, acc := .ro },
  { index := 0x0700, sub := 0x2C, ty := .u64, acc := .ro },
  { index := 0x0700, sub := 0x30, ty := .u16, acc := .rw, dflt := 500, range := some (16, 65535) },
  { index := 0x0700, sub := 0x31, ty := .bytes 32, acc := .rw },
  { index := 0x0700, sub := 0x32, ty := .table 2048 8, acc := .ro },
  { index := 0x0700, sub := 0x33, ty := .u64, acc := .ro },
  { index := 0x0700, sub := 0x34, ty := .u64, acc := .ro },
  { index := 0x0800, sub := 0x01, ty := .u8, acc := .ro },
  { index := 0x0800, sub := 0x02, ty := .u16, acc := .ro },
  { index := 0x0800, sub := 0x03, ty := .u32, acc := .rw, dflt := 50000, range := some (16, 10000000) },
  { index := 0x0800, sub := 0x04, ty := .u64, acc := .ro },
  { index := 0x0800, sub := 0x05, ty := .u64, acc := .ro },
  { index := 0x0800, sub := 0x06, ty := .u64, acc := .ro },
  { index := 0x0800, sub := 0x07, ty := .table 8192 32, acc := .ro },
  { index := 0x0800, sub := 0x08, ty := .u16, acc := .ro },
  { index := 0x0800, sub := 0x09, ty := .u64, acc := .ro },
  { index := 0x0800, sub := 0x0A, ty := .u64, acc := .ro },
  { index := 0x0800, sub := 0x0B, ty := .u64, acc := .ro },
  { index := 0x0800, sub := 0x10, ty := .bytes 32, acc := .ro, subs := 64 },
  { index := 0x0800, sub := 0x50, ty := .bytes 32, acc := .ro, subs := 64 },
  { index := 0x0800, sub := 0xA0, ty := .u8, acc := .rw, dflt := 8, range := some (1, 64) },
  { index := 0x0800, sub := 0xA1, ty := .u16, acc := .ro, factory := true },
  { index := 0x0800, sub := 0xA2, ty := .u64, acc := .ro }]

/-- Rows of the dictionary, part 7. -/
def dictRows7 : List ObjRow := [
  { index := 0x0800, sub := 0xA3, ty := .u16, acc := .ro },
  { index := 0x0900, sub := 0x01, ty := .u16, acc := .ro },
  { index := 0x0900, sub := 0x02, ty := .u32, acc := .rw, dflt := 20000, range := some (1000, 50000) },
  { index := 0x0900, sub := 0x03, ty := .u32, acc := .rw, dflt := 1000, range := some (100, 4000) },
  { index := 0x0900, sub := 0x04, ty := .u16, acc := .rw, dflt := 500, range := some (16, 65535) },
  { index := 0x0900, sub := 0x05, ty := .u16, acc := .rw, dflt := 5000 },
  { index := 0x0900, sub := 0x06, ty := .u8, acc := .rw, dflt := 2, range := some (1, 16) },
  { index := 0x0900, sub := 0x07, ty := .u32, acc := .rw, dflt := 5000 },
  { index := 0x0900, sub := 0x08, ty := .u8, acc := .rw, dflt := 3, range := some (1, 255) },
  { index := 0x0900, sub := 0x09, ty := .table 262144 64, acc := .ro },
  { index := 0x0900, sub := 0x0A, ty := .u64, acc := .ro },
  { index := 0x0900, sub := 0x0B, ty := .u64, acc := .ro },
  { index := 0x0900, sub := 0x0C, ty := .u64, acc := .ro },
  { index := 0x0900, sub := 0x0D, ty := .u64, acc := .ro },
  { index := 0x0900, sub := 0x0E, ty := .u64, acc := .ro },
  { index := 0x0900, sub := 0x0F, ty := .u64, acc := .ro },
  { index := 0x0900, sub := 0x10, ty := .u64, acc := .ro },
  { index := 0x0900, sub := 0x11, ty := .u64, acc := .ro },
  { index := 0x0900, sub := 0x12, ty := .u64, acc := .ro },
  { index := 0x0900, sub := 0x13, ty := .u64, acc := .ro },
  { index := 0x0900, sub := 0x14, ty := .u64, acc := .ro },
  { index := 0x0900, sub := 0x15, ty := .u64, acc := .ro },
  { index := 0x0900, sub := 0x20, ty := .u8, acc := .rw, dflt := 2, range := some (0, 10) },
  { index := 0x0900, sub := 0x21, ty := .u32, acc := .rw, dflt := 500000 },
  { index := 0x0900, sub := 0x22, ty := .u64, acc := .ro },
  { index := 0x0900, sub := 0x23, ty := .u64, acc := .ro },
  { index := 0x0900, sub := 0x24, ty := .u64, acc := .ro },
  { index := 0x0900, sub := 0x25, ty := .bytes 64, acc := .ro, dflt := 0x3f3e3d3c3b3a393837363534333231302f2e2d2c2b2a292827262524232221201f1e1d1c1b1a191817161514131211100f0e0d0c0b0a09080706050403020100 },
  { index := 0x0A00, sub := 0x01, ty := .bool, acc := .rw },
  { index := 0x0A00, sub := 0x02, ty := .u32, acc := .rwl, dflt := 500 },
  { index := 0x0A00, sub := 0x03, ty := .u8, acc := .rwl, dflt := 1 },
  { index := 0x0A00, sub := 0x04, ty := .u64, acc := .rwl },
  { index := 0x0A00, sub := 0x05, ty := .u32, acc := .rwl, dflt := 64, range := some (2, 65536) },
  { index := 0x0A00, sub := 0x06, ty := .u8, acc := .rwl, range := some (0, 1) },
  { index := 0x0A00, sub := 0x07, ty := .u32, acc := .ro, dflt := 24576 },
  { index := 0x0A00, sub := 0x08, ty := .u32, acc := .ro },
  { index := 0x0A00, sub := 0x09, ty := .u32, acc := .rw },
  { index := 0x0A00, sub := 0x0A, ty := .u64, acc := .ro },
  { index := 0x0A00, sub := 0x0B, ty := .u64, acc := .ro },
  { index := 0x0A00, sub := 0x0C, ty := .u64, acc := .ro }]

/-- Rows of the dictionary, part 8. -/
def dictRows8 : List ObjRow := [
  { index := 0x0A00, sub := 0x0D, ty := .table 1024 4, acc := .rwl },
  { index := 0x0A00, sub := 0x0E, ty := .u16, acc := .rwl, range := some (0, 256) },
  { index := 0x0A00, sub := 0x20, ty := .bool, acc := .rw },
  { index := 0x0A00, sub := 0x21, ty := .u32, acc := .rw, dflt := 65536, range := some (256, 16777216) },
  { index := 0x0A00, sub := 0x22, ty := .u64, acc := .rw, dflt := 0xffffffffffffffff },
  { index := 0x0A00, sub := 0x23, ty := .u64, acc := .rwl },
  { index := 0x0A00, sub := 0x24, ty := .u32, acc := .rwl, dflt := 4096, range := some (2, 1048576) },
  { index := 0x0A00, sub := 0x25, ty := .u32, acc := .ro },
  { index := 0x0A00, sub := 0x26, ty := .u32, acc := .rw },
  { index := 0x0A00, sub := 0x27, ty := .u64, acc := .ro },
  { index := 0x0A00, sub := 0x30, ty := .u32, acc := .rw, range := some (0, 16777216) },
  { index := 0x0A00, sub := 0x31, ty := .bool, acc := .rw },
  { index := 0x0A00, sub := 0x32, ty := .u8, acc := .rw, dflt := 255 },
  { index := 0x0A00, sub := 0x33, ty := .u64, acc := .rwl },
  { index := 0x0A00, sub := 0x34, ty := .u32, acc := .rwl, dflt := 4096, range := some (2, 1048576) },
  { index := 0x0A00, sub := 0x35, ty := .u32, acc := .ro },
  { index := 0x0A00, sub := 0x36, ty := .u32, acc := .rw },
  { index := 0x0A00, sub := 0x37, ty := .u64, acc := .ro },
  { index := 0x0A40, sub := 0x00, ty := .u64, acc := .rw, count := 11, subs := 256 },
  { index := 0x0A60, sub := 0x00, ty := .u64, acc := .rw, count := 11, subs := 256 },
  { index := 0x0A80, sub := 0x00, ty := .bytes 32, acc := .rw, count := 3, subs := 256, dflt := 15 },
  { index := 0x0B00, sub := 0x01, ty := .u8, acc := .ro },
  { index := 0x0B00, sub := 0x02, ty := .u8, acc := .ro },
  { index := 0x0B00, sub := 0x03, ty := .u8, acc := .ro },
  { index := 0x0B00, sub := 0x04, ty := .u8, acc := .rws, dflt := 6, range := some (1, 6) },
  { index := 0x0B00, sub := 0x05, ty := .u32, acc := .ro },
  { index := 0x0B00, sub := 0x06, ty := .u32, acc := .ro },
  { index := 0x0B00, sub := 0x07, ty := .u8, acc := .ro },
  { index := 0x0B00, sub := 0x08, ty := .u32, acc := .rw, dflt := 50000, range := some (1000, 1000000) },
  { index := 0x0B00, sub := 0x09, ty := .u64, acc := .ro },
  { index := 0x0B00, sub := 0x0A, ty := .u64, acc := .ro },
  { index := 0x0B00, sub := 0x0B, ty := .u32, acc := .rw, dflt := 400, range := some (10, 1000) },
  { index := 0x0B00, sub := 0x0C, ty := .u64, acc := .ro },
  { index := 0x0B00, sub := 0x0D, ty := .u64, acc := .ro },
  { index := 0x0B00, sub := 0x11, ty := .u32, acc := .rw, subs := 64 },
  { index := 0x0F00, sub := 0x01, ty := .u64, acc := .rw, count := 16, istep := 2 },
  { index := 0x0F00, sub := 0x02, ty := .u16, acc := .rw, count := 16, istep := 2 },
  { index := 0x0F00, sub := 0x03, ty := .u64, acc := .rw, count := 16, istep := 2 },
  { index := 0x0F00, sub := 0x04, ty := .u8, acc := .wo, count := 16, istep := 2, range := some (0, 1) },
  { index := 0x0F00, sub := 0x10, ty := .u64, acc := .rw, count := 16, istep := 2, subs := 32 }]

/-- Rows of the dictionary, part 9. -/
def dictRows9 : List ObjRow := [
  { index := 0x0F01, sub := 0x01, ty := .u8, acc := .ro, count := 16, istep := 2 },
  { index := 0x0F01, sub := 0x02, ty := .u16, acc := .ro, count := 16, istep := 2 },
  { index := 0x0F01, sub := 0x03, ty := .u64, acc := .ro, count := 16, istep := 2 },
  { index := 0x0F01, sub := 0x04, ty := .u64, acc := .ro, count := 16, istep := 2 },
  { index := 0x0F01, sub := 0x05, ty := .u64, acc := .ro, count := 16, istep := 2 },
  { index := 0x0F01, sub := 0x06, ty := .u64, acc := .ro, count := 16, istep := 2 },
  { index := 0x0F01, sub := 0x07, ty := .u32, acc := .ro, count := 16, istep := 2 },
  { index := 0x0F01, sub := 0x10, ty := .u64, acc := .ro, count := 16, istep := 2, subs := 16 },
  { index := 0x0F20, sub := 0x01, ty := .u64, acc := .ro },
  { index := 0x0F20, sub := 0x02, ty := .u16, acc := .ro },
  { index := 0x0F20, sub := 0x03, ty := .u16, acc := .rw },
  { index := 0x0F20, sub := 0x04, ty := .table 131072 32, acc := .ro },
  { index := 0x0F20, sub := 0x05, ty := .u32, acc := .rw, dflt := 131070 },
  { index := 0x0F20, sub := 0x06, ty := .u64, acc := .ro },
  { index := 0x0F20, sub := 0x07, ty := .u64, acc := .ro },
  { index := 0x0F20, sub := 0x08, ty := .u64, acc := .ro },
  { index := 0x0F20, sub := 0x10, ty := .table 3372840 8, acc := .ro },
  { index := 0x0F20, sub := 0x11, ty := .u32, acc := .ro },
  { index := 0x0F21, sub := 0x00, ty := .u64, acc := .rw, subs := 256 },
  { index := 0x1000, sub := 0x01, ty := .u8, acc := .rwl, count := 1024, range := some (0, 3) },
  { index := 0x1000, sub := 0x02, ty := .u32, acc := .rw, count := 1024 },
  { index := 0x1000, sub := 0x03, ty := .u16, acc := .rwl, count := 1024, dflt := 4096, range := some (4096, 16384) },
  { index := 0x1000, sub := 0x04, ty := .bool, acc := .wo, count := 1024 },
  { index := 0x1000, sub := 0x05, ty := .u8, acc := .rw, count := 1024, dflt := 8, range := some (2, 64) },
  { index := 0x1000, sub := 0x08, ty := .u16, acc := .rwl, count := 1024, subs := 8, dflts := [64, 64, 64, 64, 384, 16, 32, 80], range := some (1, 12288) },
  { index := 0x1000, sub := 0x20, ty := .bool, acc := .rw, count := 1024, dflt := 1 },
  { index := 0x1000, sub := 0x21, ty := .i32, acc := .rw, count := 1024 },
  { index := 0x1000, sub := 0x22, ty := .i32, acc := .rw, count := 1024 },
  { index := 0x1000, sub := 0x28, ty := .u32, acc := .rw, count := 1024, dflt := 4096, range := some (0, 1048576) },
  { index := 0x1000, sub := 0x29, ty := .u16, acc := .rw, count := 1024, dflt := 4, range := some (0, 1024) },
  { index := 0x1000, sub := 0x2A, ty := .u8, acc := .rw, count := 1024, range := some (0, 1) },
  { index := 0x1400, sub := 0x01, ty := .u8, acc := .ro, count := 1024 },
  { index := 0x1400, sub := 0x02, ty := .bytes 32, acc := .ro, count := 1024 },
  { index := 0x1400, sub := 0x03, ty := .u64, acc := .ro, count := 1024 },
  { index := 0x1400, sub := 0x04, ty := .u64, acc := .ro, count := 1024 },
  { index := 0x1400, sub := 0x05, ty := .bytes 128, acc := .ro, count := 1024 },
  { index := 0x1400, sub := 0x06, ty := .u32, acc := .ro, count := 1024 },
  { index := 0x1400, sub := 0x07, ty := .u32, acc := .ro, count := 1024 },
  { index := 0x1400, sub := 0x08, ty := .u32, acc := .ro, count := 1024 },
  { index := 0x1400, sub := 0x09, ty := .u32, acc := .ro, count := 1024 }]

/-- Rows of the dictionary, part 10. -/
def dictRows10 : List ObjRow := [
  { index := 0x1400, sub := 0x0A, ty := .u32, acc := .ro, count := 1024 },
  { index := 0x1400, sub := 0x0B, ty := .u32, acc := .ro, count := 1024 },
  { index := 0x1400, sub := 0x0C, ty := .u16, acc := .ro, count := 1024 },
  { index := 0x1400, sub := 0x20, ty := .u8, acc := .ro, count := 1024 },
  { index := 0x1400, sub := 0x21, ty := .u32, acc := .ro, count := 1024, factory := true },
  { index := 0x1400, sub := 0x22, ty := .u32, acc := .ro, count := 1024, factory := true },
  { index := 0x1400, sub := 0x23, ty := .u64, acc := .ro, count := 1024 },
  { index := 0x1400, sub := 0x30, ty := .bytes 8, acc := .ro, count := 1024 },
  { index := 0x1400, sub := 0x31, ty := .u32, acc := .ro, count := 1024 },
  { index := 0x1400, sub := 0x32, ty := .u64, acc := .ro, count := 1024 },
  { index := 0x1400, sub := 0x38, ty := .u64, acc := .ro, count := 1024, subs := 8 },
  { index := 0x1400, sub := 0x40, ty := .u64, acc := .ro, count := 1024, subs := 8 },
  { index := 0x1400, sub := 0x50, ty := .u32, acc := .ro, count := 1024 },
  { index := 0x1400, sub := 0x51, ty := .u64, acc := .ro, count := 1024 },
  { index := 0x1800, sub := 0x10, ty := .i32, acc := .ro, count := 64 },
  { index := 0x1800, sub := 0x11, ty := .i32, acc := .ro, count := 64 },
  { index := 0x1800, sub := 0x12, ty := .u32, acc := .ro, count := 64 },
  { index := 0x1800, sub := 0x13, ty := .u32, acc := .ro, count := 64 },
  { index := 0x1800, sub := 0x14, ty := .u32, acc := .ro, count := 64 },
  { index := 0x1800, sub := 0x15, ty := .u32, acc := .ro, count := 64, dflt := 5000 },
  { index := 0x1800, sub := 0x16, ty := .u8, acc := .ro, count := 64 },
  { index := 0x1800, sub := 0x17, ty := .i32, acc := .ro, count := 64 },
  { index := 0x1800, sub := 0x18, ty := .u8, acc := .ro, count := 64 },
  { index := 0x1800, sub := 0x30, ty := .u8, acc := .ro, count := 64 },
  { index := 0x1800, sub := 0x31, ty := .u8, acc := .ro, count := 64 },
  { index := 0x1800, sub := 0x32, ty := .i16, acc := .ro, count := 64 },
  { index := 0x1800, sub := 0x33, ty := .i16, acc := .ro, count := 64 },
  { index := 0x1800, sub := 0x34, ty := .u32, acc := .ro, count := 64 },
  { index := 0x1800, sub := 0x35, ty := .u32, acc := .ro, count := 64 },
  { index := 0x1800, sub := 0x36, ty := .u64, acc := .ro, count := 64 },
  { index := 0x1800, sub := 0x3D, ty := .u8, acc := .rw, count := 64, dflt := 64 },
  { index := 0x1800, sub := 0x3E, ty := .u8, acc := .rw, count := 64, dflt := 96 },
  { index := 0x1800, sub := 0x3F, ty := .bool, acc := .rw, count := 64, dflt := 1 },
  { index := 0x1800, sub := 0x40, ty := .u32, acc := .ro, count := 64, subs := 18 },
  { index := 0x1800, sub := 0x60, ty := .u32, acc := .ro, count := 64, subs := 18 },
  { index := 0x1800, sub := 0x80, ty := .u64, acc := .rws, count := 64, subs := 9 },
  { index := 0x1800, sub := 0x90, ty := .u32, acc := .ro, count := 64, subs := 9 },
  { index := 0x1800, sub := 0x9F, ty := .u16, acc := .wo, count := 64 },
  { index := 0x1800, sub := 0xA0, ty := .table 4112 8, acc := .ro, count := 64 },
  { index := 0x1800, sub := 0xA1, ty := .table 4112 8, acc := .ro, count := 64 }]

/-- Rows of the dictionary, part 11. -/
def dictRows11 : List ObjRow := [
  { index := 0x1800, sub := 0xB0, ty := .u64, acc := .ro, count := 64 },
  { index := 0x1800, sub := 0xB1, ty := .u64, acc := .ro, count := 64 },
  { index := 0x1800, sub := 0xB2, ty := .u64, acc := .ro, count := 64 },
  { index := 0x1800, sub := 0xB3, ty := .u64, acc := .ro, count := 64 },
  { index := 0x1800, sub := 0xB4, ty := .table 65536 16, acc := .ro, count := 64 },
  { index := 0x1800, sub := 0xC0, ty := .u16, acc := .ro, count := 64 },
  { index := 0x1800, sub := 0xC1, ty := .u16, acc := .ro, count := 64 },
  { index := 0x1800, sub := 0xC2, ty := .u64, acc := .ro, count := 64 },
  { index := 0x1800, sub := 0xC3, ty := .u64, acc := .ro, count := 64 },
  { index := 0x1800, sub := 0xC4, ty := .u64, acc := .ro, count := 64 },
  { index := 0x1800, sub := 0xC5, ty := .u16, acc := .ro, count := 64 },
  { index := 0x1800, sub := 0xC6, ty := .u16, acc := .ro, count := 64 },
  { index := 0x1800, sub := 0xC7, ty := .u64, acc := .ro, count := 64 },
  { index := 0x1800, sub := 0xC8, ty := .u8, acc := .ro, count := 64 },
  { index := 0x1800, sub := 0xC9, ty := .u64, acc := .ro, count := 64 },
  { index := 0x1800, sub := 0xCA, ty := .u64, acc := .ro, count := 64 },
  { index := 0x1800, sub := 0xD0, ty := .u16, acc := .ro, count := 64, dflt := 256 },
  { index := 0x1800, sub := 0xD1, ty := .u16, acc := .ro, count := 64 },
  { index := 0x1800, sub := 0xD2, ty := .u16, acc := .ro, count := 64 },
  { index := 0x1800, sub := 0xD3, ty := .u64, acc := .ro, count := 64 },
  { index := 0x1800, sub := 0xD4, ty := .i32, acc := .ro, count := 64 },
  { index := 0x1800, sub := 0xD5, ty := .u64, acc := .ro, count := 64 },
  { index := 0x1800, sub := 0xD6, ty := .u64, acc := .ro, count := 64 },
  { index := 0x1800, sub := 0xD7, ty := .u64, acc := .ro, count := 64 },
  { index := 0x1800, sub := 0xD8, ty := .table 4096 16, acc := .ro, count := 64 },
  { index := 0x1800, sub := 0xE0, ty := .u16, acc := .ro, count := 64 },
  { index := 0x1800, sub := 0xE1, ty := .i32, acc := .ro, count := 64 },
  { index := 0x1800, sub := 0xE2, ty := .u8, acc := .ro, count := 64 },
  { index := 0x1800, sub := 0xE3, ty := .u64, acc := .ro, count := 64 },
  { index := 0x1800, sub := 0xE4, ty := .u64, acc := .ro, count := 64 },
  { index := 0x1800, sub := 0xE5, ty := .u64, acc := .ro, count := 64 },
  { index := 0x1800, sub := 0xE6, ty := .u64, acc := .ro, count := 64 },
  { index := 0x1800, sub := 0xE7, ty := .u64, acc := .ro, count := 64 },
  { index := 0x1800, sub := 0xE8, ty := .u64, acc := .ro, count := 64 },
  { index := 0x1800, sub := 0xE9, ty := .u8, acc := .ro, count := 64 },
  { index := 0x1800, sub := 0xEA, ty := .bytes 16, acc := .ro, count := 64 },
  { index := 0x1800, sub := 0xEB, ty := .u64, acc := .ro, count := 64 },
  { index := 0x1800, sub := 0xF0, ty := .u64, acc := .ro, count := 64 },
  { index := 0x1800, sub := 0xF1, ty := .u64, acc := .ro, count := 64 },
  { index := 0x1800, sub := 0xF2, ty := .u32, acc := .ro, count := 64 }]

/-- Rows of the dictionary, part 12. -/
def dictRows12 : List ObjRow := [
  { index := 0x1800, sub := 0xF3, ty := .u64, acc := .ro, count := 64 },
  { index := 0x1900, sub := 0x01, ty := .u8, acc := .ro, count := 128 },
  { index := 0x1900, sub := 0x02, ty := .bytes 16, acc := .ro, count := 128 },
  { index := 0x1900, sub := 0x03, ty := .bool, acc := .ro, count := 128 },
  { index := 0x1900, sub := 0x04, ty := .u32, acc := .ro, count := 128, dflt := 31 },
  { index := 0x1900, sub := 0x05, ty := .u64, acc := .ro, count := 128 },
  { index := 0x1900, sub := 0x06, ty := .u32, acc := .ro, count := 128 },
  { index := 0x1900, sub := 0x07, ty := .i16, acc := .ro, count := 128 },
  { index := 0x1900, sub := 0x08, ty := .u32, acc := .ro, count := 64 },
  { index := 0x1900, sub := 0x20, ty := .i16, acc := .ro, count := 128, subs := 18 },
  { index := 0x1900, sub := 0x40, ty := .i16, acc := .ro, count := 128, subs := 18 },
  { index := 0x1A00, sub := 0x01, ty := .u8, acc := .ro, count := 16 },
  { index := 0x1A00, sub := 0x02, ty := .i32, acc := .ro, count := 16 },
  { index := 0x1A00, sub := 0x03, ty := .bool, acc := .rw, count := 16, dflt := 1 },
  { index := 0x1A00, sub := 0x04, ty := .u32, acc := .rw, count := 16, dflt := 64000 },
  { index := 0x1A00, sub := 0x05, ty := .u32, acc := .rw, count := 16, dflt := 2000, range := some (1024, 16384) },
  { index := 0x1A00, sub := 0x06, ty := .u16, acc := .rw, count := 16, dflt := 150 },
  { index := 0x1A00, sub := 0x07, ty := .u16, acc := .rw, count := 16, dflt := 300 },
  { index := 0x1A00, sub := 0x08, ty := .bool, acc := .rw, count := 16, dflt := 1 },
  { index := 0x1A00, sub := 0x09, ty := .u32, acc := .rw, count := 16, dflt := 1000, range := some (400, 100000) },
  { index := 0x1A00, sub := 0x0A, ty := .u32, acc := .ro, count := 16, dflt := 1023 },
  { index := 0x1A00, sub := 0x0B, ty := .u8, acc := .ro, count := 16 },
  { index := 0x1A00, sub := 0x0C, ty := .u32, acc := .ro, count := 16 },
  { index := 0x1A00, sub := 0x0D, ty := .u32, acc := .ro, count := 16 },
  { index := 0x1A00, sub := 0x0E, ty := .u32, acc := .ro, count := 16 },
  { index := 0x1A00, sub := 0x10, ty := .u32, acc := .ro, count := 16, subs := 8 },
  { index := 0x1A00, sub := 0x30, ty := .bool, acc := .rws, count := 16 },
  { index := 0x1A10, sub := 0x01, ty := .u8, acc := .ro, count := 16 },
  { index := 0x1A10, sub := 0x02, ty := .u8, acc := .wo, count := 16, range := some (1, 3) },
  { index := 0x1A10, sub := 0x03, ty := .bytes 16, acc := .ro, count := 16 },
  { index := 0x1A10, sub := 0x04, ty := .bytes 16, acc := .ro, count := 16 },
  { index := 0x1A10, sub := 0x05, ty := .u32, acc := .ro, count := 16 },
  { index := 0x1A10, sub := 0x06, ty := .u32, acc := .ro, count := 16 },
  { index := 0x1A10, sub := 0x07, ty := .u32, acc := .ro, count := 16 },
  { index := 0x1A10, sub := 0x08, ty := .u32, acc := .ro, count := 16 },
  { index := 0x1A10, sub := 0x09, ty := .i32, acc := .ro, count := 16 },
  { index := 0x1A10, sub := 0x20, ty := .i16, acc := .ro, count := 16, subs := 18 },
  { index := 0x1A10, sub := 0x40, ty := .u32, acc := .ro, count := 16, subs := 18 },
  { index := 0x1A10, sub := 0x60, ty := .i32, acc := .ro, count := 16, subs := 18 },
  { index := 0x1B00, sub := 0x01, ty := .u8, acc := .ro, count := 128 }]

/-- Rows of the dictionary, part 13. -/
def dictRows13 : List ObjRow := [
  { index := 0x1B00, sub := 0x02, ty := .u8, acc := .ro, count := 128, dflt := 255 },
  { index := 0x1B00, sub := 0x03, ty := .u64, acc := .ro, count := 128 },
  { index := 0x1B00, sub := 0x04, ty := .u64, acc := .ro, count := 128 },
  { index := 0x1B00, sub := 0x05, ty := .u32, acc := .ro, count := 128 },
  { index := 0x1B00, sub := 0x06, ty := .u16, acc := .ro, count := 128 },
  { index := 0x1B00, sub := 0x07, ty := .u16, acc := .ro, count := 128, dflt := 256 },
  { index := 0x1B00, sub := 0x08, ty := .u64, acc := .ro, count := 128 },
  { index := 0x1B00, sub := 0x09, ty := .u64, acc := .ro, count := 128 },
  { index := 0x1B00, sub := 0x0A, ty := .u64, acc := .ro, count := 128 },
  { index := 0x1B00, sub := 0x0B, ty := .u64, acc := .ro, count := 128 },
  { index := 0x1B00, sub := 0x0C, ty := .u64, acc := .ro, count := 128 },
  { index := 0x1C00, sub := 0x01, ty := .i32, acc := .ro, count := 4 },
  { index := 0x1C00, sub := 0x02, ty := .i32, acc := .ro, count := 4 },
  { index := 0x1C00, sub := 0x03, ty := .u8, acc := .ro, count := 4 },
  { index := 0x1C00, sub := 0x04, ty := .u32, acc := .ro, count := 4 },
  { index := 0x1C00, sub := 0x05, ty := .u64, acc := .ro, count := 4 },
  { index := 0x1C00, sub := 0x06, ty := .u64, acc := .ro, count := 4 },
  { index := 0x1C00, sub := 0x80, ty := .u8, acc := .rws, dflt := 1, range := some (0, 4) },
  { index := 0x1C00, sub := 0x81, ty := .u8, acc := .ro },
  { index := 0x1C00, sub := 0x82, ty := .u8, acc := .ro, dflt := 128 },
  { index := 0x1C00, sub := 0x83, ty := .u64, acc := .ro, dflt := 0x4a817c8000 },
  { index := 0x1C00, sub := 0x84, ty := .u64, acc := .ro },
  { index := 0x1C00, sub := 0x85, ty := .u64, acc := .ro },
  { index := 0x1C00, sub := 0x86, ty := .u64, acc := .ro },
  { index := 0x1C00, sub := 0x87, ty := .u8, acc := .rw, dflt := 8, range := some (2, 255) },
  { index := 0x1C00, sub := 0x88, ty := .u32, acc := .rw, dflt := 43200 },
  { index := 0x1C00, sub := 0x89, ty := .u32, acc := .rw, dflt := 32768 },
  { index := 0x1C00, sub := 0x8A, ty := .u32, acc := .rw, dflt := 8192 },
  { index := 0x1C00, sub := 0x8B, ty := .u8, acc := .rw, dflt := 32, range := some (8, 56) },
  { index := 0x1C00, sub := 0x8C, ty := .table 262144 8, acc := .ro },
  { index := 0x1C00, sub := 0x8D, ty := .u64, acc := .ro },
  { index := 0x2000, sub := 0x01, ty := .u8, acc := .ro, count := 4096 },
  { index := 0x2000, sub := 0x02, ty := .u16, acc := .ro, count := 4096 },
  { index := 0x2000, sub := 0x03, ty := .bool, acc := .rw, count := 4096 },
  { index := 0x2000, sub := 0x08, ty := .u32, acc := .rw, count := 4096, subs := 8, range := some (0, 4294967295) },
  { index := 0x2000, sub := 0x10, ty := .u32, acc := .rw, count := 4096, subs := 8, range := some (4096, 268435456) },
  { index := 0x2000, sub := 0x18, ty := .u8, acc := .rw, count := 4096, subs := 8, range := some (0, 1) },
  { index := 0x2000, sub := 0x20, ty := .u32, acc := .rw, count := 4096, subs := 8, dflt := 0xffffffff },
  { index := 0x2000, sub := 0x28, ty := .u32, acc := .ro, count := 4096, subs := 8 },
  { index := 0x2000, sub := 0x30, ty := .u64, acc := .ro, count := 4096, subs := 8 }]

/-- Rows of the dictionary, part 14. -/
def dictRows14 : List ObjRow := [
  { index := 0x2000, sub := 0x38, ty := .u64, acc := .ro, count := 4096, subs := 8 },
  { index := 0x2000, sub := 0x40, ty := .u64, acc := .ro, count := 4096, subs := 8 },
  { index := 0x2000, sub := 0x48, ty := .u64, acc := .ro, count := 4096, subs := 8 },
  { index := 0x2000, sub := 0x50, ty := .bool, acc := .rw, count := 4096, dflt := 1 },
  { index := 0x2000, sub := 0x51, ty := .u16, acc := .rw, count := 4096, dflt := 65535 },
  { index := 0x2000, sub := 0x52, ty := .u8, acc := .rw, count := 4096, range := some (0, 1) },
  { index := 0x2000, sub := 0x53, ty := .u32, acc := .rw, count := 4096 },
  { index := 0x2000, sub := 0x54, ty := .u64, acc := .ro, count := 4096 },
  { index := 0x2000, sub := 0x60, ty := .u16, acc := .rw, count := 4096 },
  { index := 0x2000, sub := 0x61, ty := .u32, acc := .rw, count := 4096, range := some (0, 65536) },
  { index := 0x2000, sub := 0x62, ty := .u16, acc := .ro, count := 4096 }]

/-- The whole dictionary, in index order. -/
def dictRows : List ObjRow :=
  dictRows1 ++ dictRows2 ++ dictRows3 ++ dictRows4 ++ dictRows5 ++ dictRows6 ++ dictRows7 ++ dictRows8 ++ dictRows9 ++ dictRows10 ++ dictRows11 ++ dictRows12 ++ dictRows13 ++ dictRows14

/-- The row covers the object. -/
def ObjRow.covers (r : ObjRow) (index sub : Nat) : Bool :=
  decide (r.index ≤ index) && decide ((index - r.index) % r.istep = 0)
    && decide ((index - r.index) / r.istep < r.count)
    && decide (r.sub ≤ sub) && decide ((sub - r.sub) % r.sstep = 0)
    && decide ((sub - r.sub) / r.sstep < r.subs)

/-- The row of an object, if the dictionary has it (17 R506, R527). -/
def dictRow (index sub : Nat) : Option ObjRow := dictRows.find? fun r => r.covers index sub

/-- Subindices of an index that name objects, with their rows. -/
def objectsAt (index : Nat) : List (Nat × ObjRow) :=
  (upTo 256).filterMap fun sub => (dictRow index sub).map fun r => (sub, r)

/-- Runs of indices whose objects have the same subindices, in index order (17 R527, R528). -/
def indexRuns : List (Nat × Nat) :=
  [(0x0100, 1), (0x0200, 1), (0x0300, 1), (0x0400, 1), (0x0500, 1), (0x0600, 1), (0x0700, 1), (0x0800, 1),
   (0x0900, 1), (0x0A00, 1), (0x0A40, 11), (0x0A60, 11), (0x0A80, 3), (0x0B00, 1)]
  ++ ((upTo 34).map fun i => (0x0F00 + i, 1))
  ++ [(0x1000, 1024), (0x1400, 1024), (0x1800, 64), (0x1900, 64), (0x1940, 64), (0x1A00, 1), (0x1A01, 15),
   (0x1A10, 16), (0x1B00, 128), (0x1C00, 1), (0x1C01, 3), (0x2000, 4096)]

/-- Object number `i` in index and then subindex order among runs of indices (17 R545). -/
def nthObject : List (Nat × Nat) → Nat → Option (Nat × Nat × ObjRow)
  | [], _ => none
  | (start, n) :: rest, i =>
    let os := objectsAt start
    if i < n * os.length then
      match os[i % os.length]? with
      | some (sub, r) => some (start + i / os.length, sub, r)
      | none => none
    else nthObject rest (i - n * os.length)

/-- Number of objects. -/
def objectCount : Nat := indexRuns.foldl (fun n e => n + e.2 * (objectsAt e.1).length) 0

/-- Type code (17 R507). -/
def ObjType.code : ObjType → Nat
  | .bool => 1
  | .u8 => 2
  | .u16 => 3
  | .u32 => 4
  | .u64 => 5
  | .i16 => 6
  | .i32 => 7
  | .i64 => 8
  | .f32 => 9
  | .time80 => 10
  | .bytes _ => 11
  | .table _ _ => 12

/-- Access code of a catalogue entry (17 R545). -/
def Access.code : Access → Nat
  | .ro => 1
  | .rw => 2
  | .wo => 3
  | .rws => 4
  | .rwl => 5

/-- Bytes of an object that is not a table (17 R507). -/
def ObjType.size : ObjType → Nat
  | .bool | .u8 => 1
  | .u16 | .i16 => 2
  | .u32 | .i32 | .f32 => 4
  | .u64 | .i64 => 8
  | .time80 => 10
  | .bytes n => n
  | .table _ _ => 0

/-- The default word of an object of the row. -/
def ObjRow.default (r : ObjRow) (sub : Nat) : Nat := r.dflts.getD ((sub - r.sub) / r.sstep) r.dflt

/-- The object is of a signed type. -/
def ObjType.signed : ObjType → Bool
  | .i16 | .i32 | .i64 => true
  | _ => false

/-- The object is a long object: more than 8 bytes and no table (17 R509). -/
def ObjType.long (t : ObjType) : Bool := decide (8 < t.size)

/-- The object is a table. -/
def ObjType.isTable : ObjType → Bool
  | .table _ _ => true
  | _ => false

/-! ### Names of the objects -/

def Obj.orderingCode : Obj := ⟨0x010001, 128, 0⟩
def Obj.serial : Obj := ⟨0x010002, 128, 0⟩
def Obj.hwRevision : Obj := ⟨0x010003, 16, 0⟩
def Obj.romVersion : Obj := ⟨0x010004, 32, 0⟩
def Obj.moduleState : Obj := ⟨0x010005, 8, 1⟩
def Obj.strapRaw : Obj := ⟨0x010006, 32, 0⟩
def Obj.plane : Obj := ⟨0x010007, 8, 0⟩
def Obj.pos : Obj := ⟨0x010008, 8, 0⟩
def Obj.securityMode : Obj := ⟨0x010009, 8, 0⟩
def Obj.mgmtMode : Obj := ⟨0x01000A, 8, 0⟩
def Obj.bootSource : Obj := ⟨0x01000B, 8, 0⟩
def Obj.capsuleCount : Obj := ⟨0x01000C, 16, 0⟩
def Obj.capsuleIndex : Obj := ⟨0x01000D, 16, 0⟩
def Obj.capsuleEntry : Obj := ⟨0x01000E, 2048, 0⟩
def Obj.capsuleLastSeq : Obj := ⟨0x01000F, 16, 0⟩
def Obj.vinMv : Obj := ⟨0x020001, 32, 0⟩
def Obj.iinMa : Obj := ⟨0x020002, 32, 0⟩
def Obj.pinMw : Obj := ⟨0x020003, 32, 0⟩
def Obj.vsbMv : Obj := ⟨0x020004, 32, 0⟩
def Obj.psbMw : Obj := ⟨0x020005, 32, 0⟩
def Obj.polarity : Obj := ⟨0x020006, 8, 0⟩
def Obj.bladeSeated : Obj := ⟨0x020007, 1, 0⟩
def Obj.railStatus : Obj := ⟨0x020008, 32, 0⟩
def Obj.latchCause : Obj := ⟨0x020009, 8, 0⟩
def Obj.powerRestart : Obj := ⟨0x02000A, 1, 0⟩
def Obj.autoRestart : Obj := ⟨0x02000B, 1, 1⟩
def Obj.uvEvents : Obj := ⟨0x02000C, 32, 0⟩
def Obj.ovEvents : Obj := ⟨0x02000D, 32, 0⟩
def Obj.energyIn : Obj := ⟨0x02000E, 64, 0⟩
def Obj.railMv (n : Nat) : Obj := ⟨256 * 0x0200 + (0x10 + n), 32, 0⟩
def Obj.budgetW : Obj := ⟨0x020020, 32, 0⟩
def Obj.efficiency : Obj := ⟨0x020021, 16, 955⟩
def Obj.wardenState : Obj := ⟨0x020022, 8, 0⟩
def Obj.reserveWindow : Obj := ⟨0x020023, 8, 64⟩
def Obj.lineMargin : Obj := ⟨0x020024, 8, 2⟩
def Obj.slewW : Obj := ⟨0x020025, 16, 5000⟩
def Obj.slewWindow : Obj := ⟨0x020026, 16, 50⟩
def Obj.tallyW : Obj := ⟨0x020027, 32, 40000⟩
def Obj.shedBells : Obj := ⟨0x020028, 16, 32⟩
def Obj.hotC : Obj := ⟨0x020029, 32, 100000⟩
def Obj.stepC : Obj := ⟨0x02002A, 32, 640⟩
def Obj.stepWindow : Obj := ⟨0x02002B, 16, 32⟩
def Obj.fwdThrottle : Obj := ⟨0x02002C, 8, 50⟩
def Obj.holdSettle : Obj := ⟨0x02002D, 32, 200⟩
def Obj.coolantIn : Obj := ⟨0x02002E, 32, 0⟩
def Obj.coolantOut : Obj := ⟨0x02002F, 32, 0⟩
def Obj.lineMeasured (n : Nat) : Obj := ⟨256 * 0x0200 + (0x30 + n), 32, 0⟩
def Obj.lineBudget (n : Nat) : Obj := ⟨256 * 0x0200 + (0x38 + n), 32, 0⟩
def Obj.lineFloor (n : Nat) : Obj := ⟨256 * 0x0200 + (0x44 + n), 32, ([16000, 0, 8000] : List Nat).getD n 0⟩
def Obj.lineCeiling (n : Nat) : Obj := ⟨256 * 0x0200 + (0x4C + n), 32, ([80000, 525000, 20000] : List Nat).getD n 0⟩
def Obj.overruns : Obj := ⟨0x020050, 64, 0⟩
def Obj.safeEntries : Obj := ⟨0x020051, 64, 0⟩
def Obj.shortBells : Obj := ⟨0x020052, 64, 0⟩
def Obj.level1Events : Obj := ⟨0x020053, 64, 0⟩
def Obj.level2Events : Obj := ⟨0x020054, 64, 0⟩
def Obj.tallyWaits : Obj := ⟨0x020055, 64, 0⟩
def Obj.overBudgetEvents : Obj := ⟨0x020056, 64, 0⟩
def Obj.timeState : Obj := ⟨0x030001, 8, 0⟩
def Obj.tb0Now : Obj := ⟨0x030002, 80, 0⟩
def Obj.tb1Now : Obj := ⟨0x030003, 80, 0⟩
def Obj.tb2Now : Obj := ⟨0x030004, 80, 0⟩
def Obj.tb3Now : Obj := ⟨0x030005, 80, 0⟩
def Obj.bellPeriod : Obj := ⟨0x030006, 32, 0⟩
def Obj.bellSource : Obj := ⟨0x030007, 8, 0⟩
def Obj.bellNumber : Obj := ⟨0x030008, 64, 0⟩
def Obj.bellOnTb0 : Obj := ⟨0x030009, 1, 0⟩
def Obj.switchBell : Obj := ⟨0x03000A, 64, 0⟩
def Obj.ptpDomain : Obj := ⟨0x03000B, 8, 0⟩
def Obj.ptpProfile : Obj := ⟨0x03000C, 8, 2⟩
def Obj.priority1 : Obj := ⟨0x03000D, 8, 255⟩
def Obj.priority2 : Obj := ⟨0x03000E, 8, 255⟩
def Obj.slaveOnly : Obj := ⟨0x03000F, 1, 1⟩
def Obj.twoStep : Obj := ⟨0x030010, 1, 0⟩
def Obj.logSyncInterval : Obj := ⟨0x030011, 32, 0xfffffffffffffffc⟩
def Obj.logAnnounceInterval : Obj := ⟨0x030012, 32, 0⟩
def Obj.lockThreshold : Obj := ⟨0x030013, 32, 20⟩
def Obj.lockCount : Obj := ⟨0x030014, 8, 16⟩
def Obj.slewLimit : Obj := ⟨0x030015, 32, 10000⟩
def Obj.stepThreshold : Obj := ⟨0x030016, 32, 1000⟩
def Obj.stepPermit : Obj := ⟨0x030017, 1, 0⟩
def Obj.holdoverBound : Obj := ⟨0x030018, 32, 250⟩
def Obj.holdoverStatus : Obj := ⟨0x030019, 64, 0⟩
def Obj.rateOffset : Obj := ⟨0x03001A, 32, 0⟩
def Obj.tb2Rate : Obj := ⟨0x03001B, 32, 0⟩
def Obj.parentPort : Obj := ⟨0x03001C, 16, 65535⟩
def Obj.parentIdentity : Obj := ⟨0x03001D, 80, 0⟩
def Obj.offsetFromParent : Obj := ⟨0x03001E, 64, 0⟩
def Obj.relockDrift : Obj := ⟨0x03001F, 64, 0⟩
def Obj.pulseStart (n : Nat) : Obj := ⟨256 * 0x0300 + (0x20 + 4 * n), 80, 0⟩
def Obj.pulsePeriod (n : Nat) : Obj := ⟨256 * 0x0300 + (0x21 + 4 * n), 64, 0⟩
def Obj.pulseWidth (n : Nat) : Obj := ⟨256 * 0x0300 + (0x22 + 4 * n), 32, 100⟩
def Obj.pulseControl (n : Nat) : Obj := ⟨256 * 0x0300 + (0x23 + 4 * n), 32, 0⟩
def Obj.tinMode (n : Nat) : Obj := ⟨256 * 0x0300 + (0x40 + 4 * n), 8, 0⟩
def Obj.tinCorrection (n : Nat) : Obj := ⟨256 * 0x0300 + (0x41 + 4 * n), 32, 0⟩
def Obj.tinCapture (n : Nat) : Obj := ⟨256 * 0x0300 + (0x42 + 4 * n), 160, 0⟩
def Obj.tinStatus (n : Nat) : Obj := ⟨256 * 0x0300 + (0x43 + 4 * n), 32, 0⟩
def Obj.idCertEd25519 : Obj := ⟨0x040001, 0, 0⟩
def Obj.idCertMldsa : Obj := ⟨0x040002, 0, 0⟩
def Obj.idPubEd25519 : Obj := ⟨0x040003, 256, 0⟩
def Obj.idPubMldsa : Obj := ⟨0x040004, 0, 0⟩
def Obj.keyOwner : Obj := ⟨0x040005, 256, 0⟩
def Obj.keyOperator : Obj := ⟨0x040006, 256, 0⟩
def Obj.keyState : Obj := ⟨0x040007, 8, 0⟩
def Obj.attestNonce : Obj := ⟨0x040008, 256, 0⟩
def Obj.attestState : Obj := ⟨0x040009, 8, 0⟩
def Obj.attestReport : Obj := ⟨0x04000A, 0, 0⟩
def Obj.bootList : Obj := ⟨0x04000B, 0, 0⟩
def Obj.bootListReady : Obj := ⟨0x04000C, 1, 0⟩
def Obj.bootWait : Obj := ⟨0x04000D, 32, 10⟩
def Obj.bundleStore : Obj := ⟨0x04000E, 0, 0⟩
def Obj.storeCommit : Obj := ⟨0x04000F, 8, 0⟩
def Obj.storeDelete : Obj := ⟨0x040010, 8, 0⟩
def Obj.storeDirectory : Obj := ⟨0x040011, 0, 0⟩
def Obj.bundleUpload : Obj := ⟨0x040012, 0, 0⟩
def Obj.verifyFailures : Obj := ⟨0x040013, 64, 0⟩
def Obj.ownerSigner (n : Nat) : Obj := ⟨256 * 0x0400 + (0x21 + n), 15872, 0⟩
def Obj.svnFloor (n : Nat) : Obj := ⟨256 * 0x0400 + (0x30 + n), 64, 0⟩
def Obj.activeBank : Obj := ⟨0x050001, 8, 0⟩
def Obj.bankState : Obj := ⟨0x050002, 8, 0⟩
def Obj.bankSwitchBell : Obj := ⟨0x050003, 64, 0⟩
def Obj.drainGuard : Obj := ⟨0x050004, 8, 4⟩
def Obj.leafTableA : Obj := ⟨0x050005, 0, 0⟩
def Obj.leafTableB : Obj := ⟨0x050006, 0, 0⟩
def Obj.bundleTableA : Obj := ⟨0x050007, 0, 0⟩
def Obj.bundleTableB : Obj := ⟨0x050008, 0, 0⟩
def Obj.bankDigestA : Obj := ⟨0x050009, 32, 0⟩
def Obj.bankDigestB : Obj := ⟨0x05000A, 32, 0⟩
def Obj.mcastBitmaps : Obj := ⟨0x05000B, 0, 0⟩
def Obj.spraySkipDepth : Obj := ⟨0x05000C, 16, 256⟩
def Obj.egressVcCap : Obj := ⟨0x05000D, 8, 32⟩
def Obj.easeWarn : Obj := ⟨0x05000E, 8, 16⟩
def Obj.easeSevere : Obj := ⟨0x05000F, 8, 28⟩
def Obj.easeHold : Obj := ⟨0x050010, 8, 8⟩
def Obj.easeInterval : Obj := ⟨0x050011, 8, 1⟩
def Obj.genHoldDepth : Obj := ⟨0x050012, 8, 20⟩
def Obj.noRoute : Obj := ⟨0x050013, 64, 0⟩
def Obj.wrongSpine : Obj := ⟨0x050014, 64, 0⟩
def Obj.guardHeld : Obj := ⟨0x050015, 64, 0⟩
def Obj.guardExpired : Obj := ⟨0x050016, 64, 0⟩
def Obj.reorderExposed : Obj := ⟨0x050017, 64, 0⟩
def Obj.easeSent : Obj := ⟨0x050018, 64, 0⟩
def Obj.easeReceived : Obj := ⟨0x050019, 64, 0⟩
def Obj.easeSuppressed : Obj := ⟨0x05001A, 64, 0⟩
def Obj.mirrorControl (n : Nat) : Obj := ⟨256 * 0x0500 + (0x40 + 4 * n), 32, 0⟩
def Obj.mirrorSource (n : Nat) : Obj := ⟨256 * 0x0500 + (0x41 + 4 * n), 16, 65535⟩
def Obj.mirrorMatch (n : Nat) : Obj := ⟨256 * 0x0500 + (0x42 + 4 * n), 160, 0⟩
def Obj.mirrorTarget (n : Nat) : Obj := ⟨256 * 0x0500 + (0x43 + 4 * n), 16, 65535⟩
def Obj.mirrorCopies (n : Nat) : Obj := ⟨256 * 0x0500 + (0x80 + n), 64, 0⟩
def Obj.mirrorSkipped (n : Nat) : Obj := ⟨256 * 0x0500 + (0x90 + n), 64, 0⟩
def Obj.macTable : Obj := ⟨0x0500A0, 0, 0⟩
def Obj.lpm4Store : Obj := ⟨0x0500A1, 0, 0⟩
def Obj.lpm6Store : Obj := ⟨0x0500A2, 0, 0⟩
def Obj.lpm4Layout : Obj := ⟨0x0500A3, 0, 0⟩
def Obj.lpm6Layout : Obj := ⟨0x0500A4, 0, 0⟩
def Obj.lpm4Filter : Obj := ⟨0x0500A5, 0, 0⟩
def Obj.lpm6Filter : Obj := ⟨0x0500A6, 0, 0⟩
def Obj.lpm4Short : Obj := ⟨0x0500A7, 32, 0⟩
def Obj.lpm6Short : Obj := ⟨0x0500A8, 32, 0⟩
def Obj.chipEvictMode : Obj := ⟨0x0500A9, 8, 0⟩
def Obj.stampInterval : Obj := ⟨0x0500AA, 16, 1024⟩
def Obj.cacheHold : Obj := ⟨0x0500AB, 16, 500⟩
def Obj.segLock : Obj := ⟨0x0500AC, 32, 0⟩
def Obj.segLockLimit : Obj := ⟨0x0500AD, 32, 5000⟩
def Obj.segLocks : Obj := ⟨0x0500AE, 0, 0⟩
def Obj.segLockHolders : Obj := ⟨0x0500AF, 0, 0⟩
def Obj.chipLearns : Obj := ⟨0x0500B0, 64, 0⟩
def Obj.chipMoves : Obj := ⟨0x0500B1, 64, 0⟩
def Obj.chipEvictions : Obj := ⟨0x0500B2, 64, 0⟩
def Obj.chipFull : Obj := ⟨0x0500B3, 64, 0⟩
def Obj.staticConflicts : Obj := ⟨0x0500B4, 64, 0⟩
def Obj.learnLocked : Obj := ⟨0x0500B5, 64, 0⟩
def Obj.lockExpired : Obj := ⟨0x0500B6, 64, 0⟩
def Obj.routeMisses : Obj := ⟨0x0500B7, 64, 0⟩
def Obj.unknownFloods : Obj := ⟨0x0500B8, 64, 0⟩
def Obj.badService : Obj := ⟨0x0500B9, 64, 0⟩
def Obj.staleStamps : Obj := ⟨0x0500BA, 64, 0⟩
def Obj.pitchesAdmitted : Obj := ⟨0x060001, 16, 1⟩
def Obj.unadmittedDrops : Obj := ⟨0x060002, 64, 0⟩
def Obj.holdShare : Obj := ⟨0x060003, 8, 50⟩
def Obj.runnerRate : Obj := ⟨0x060004, 16, 200⟩
def Obj.runnerBurst : Obj := ⟨0x060005, 32, 8192⟩
def Obj.sampleEnable : Obj := ⟨0x060006, 1, 1⟩
def Obj.dwrrWeight (n : Nat) : Obj := ⟨256 * 0x0600 + (0x08 + n), 8, ([10, 10, 10, 10, 32, 0, 4, 4] : List Nat).getD n 0⟩
def Obj.defaultRate (n : Nat) : Obj := ⟨256 * 0x0600 + (0x10 + n), 32, 0xffffffff⟩
def Obj.defaultBurst (n : Nat) : Obj := ⟨256 * 0x0600 + (0x18 + n), 32, 1048576⟩
def Obj.defaultAction (n : Nat) : Obj := ⟨256 * 0x0600 + (0x20 + n), 8, 0⟩
def Obj.groupsOpen : Obj := ⟨0x070001, 32, 0⟩
def Obj.contextsActive : Obj := ⟨0x070002, 16, 0⟩
def Obj.spillReservable : Obj := ⟨0x070003, 16, 12288⟩
def Obj.spillReserved : Obj := ⟨0x070004, 16, 0⟩
def Obj.spillSharedHeld : Obj := ⟨0x070005, 16, 0⟩
def Obj.defaultPatience : Obj := ⟨0x070006, 16, 5000⟩
def Obj.defaultQueueDepth : Obj := ⟨0x070007, 8, 4⟩
def Obj.defaultStagingMin : Obj := ⟨0x070008, 16, 1⟩
def Obj.defaultExactQ : Obj := ⟨0x070009, 32, 0xffffffffffffffc4⟩
def Obj.groupTable : Obj := ⟨0x07000A, 0, 0⟩
def Obj.refusedFrames : Obj := ⟨0x07000B, 64, 0⟩
def Obj.refusalReceipts : Obj := ⟨0x07000C, 64, 0⟩
def Obj.chunksClean : Obj := ⟨0x070010, 64, 0⟩
def Obj.chunksPoisoned : Obj := ⟨0x070011, 64, 0⟩
def Obj.chunksIncomplete : Obj := ⟨0x070012, 64, 0⟩
def Obj.residueErrors : Obj := ⟨0x070013, 64, 0⟩
def Obj.admissionWaits : Obj := ⟨0x070014, 64, 0⟩
def Obj.spilledContexts : Obj := ⟨0x070015, 64, 0⟩
def Obj.inexactChunks : Obj := ⟨0x070016, 64, 0⟩
def Obj.saturatedChunks : Obj := ⟨0x070017, 64, 0⟩
def Obj.retryQuiet : Obj := ⟨0x070020, 16, 16⟩
def Obj.keptHold : Obj := ⟨0x070021, 16, 5000⟩
def Obj.keptPartials : Obj := ⟨0x070022, 0, 0⟩
def Obj.keptHeld : Obj := ⟨0x070023, 16, 0⟩
def Obj.lateFrames : Obj := ⟨0x070024, 64, 0⟩
def Obj.abortsDone : Obj := ⟨0x070025, 64, 0⟩
def Obj.abortsComplete : Obj := ⟨0x070026, 64, 0⟩
def Obj.runnerRounds : Obj := ⟨0x070027, 64, 0⟩
def Obj.runnerLate : Obj := ⟨0x070028, 64, 0⟩
def Obj.runnerIncomplete : Obj := ⟨0x070029, 64, 0⟩
def Obj.runnerDuplicates : Obj := ⟨0x07002A, 64, 0⟩
def Obj.runnerWaits : Obj := ⟨0x07002B, 64, 0⟩
def Obj.runnerLateFrames : Obj := ⟨0x07002C, 64, 0⟩
def Obj.heartbeatInterval : Obj := ⟨0x070030, 16, 500⟩
def Obj.heartbeatPeers : Obj := ⟨0x070031, 256, 0⟩
def Obj.heartbeatLast : Obj := ⟨0x070032, 0, 0⟩
def Obj.heartbeatsSent : Obj := ⟨0x070033, 64, 0⟩
def Obj.heartbeatsDiscarded : Obj := ⟨0x070034, 64, 0⟩
def Obj.programsLoaded : Obj := ⟨0x080001, 8, 0⟩
def Obj.threadsBusy : Obj := ⟨0x080002, 16, 0⟩
def Obj.segWatchdog : Obj := ⟨0x080003, 32, 50000⟩
def Obj.firmwareReserve : Obj := ⟨0x080004, 64, 0⟩
def Obj.dramUsable : Obj := ⟨0x080005, 64, 0⟩
def Obj.ueFaults : Obj := ⟨0x080006, 64, 0⟩
def Obj.faultRing : Obj := ⟨0x080007, 0, 0⟩
def Obj.faultRingHead : Obj := ⟨0x080008, 16, 0⟩
def Obj.ueResidueErrors : Obj := ⟨0x080009, 64, 0⟩
def Obj.segmentWaits : Obj := ⟨0x08000A, 64, 0⟩
def Obj.icacheMisses : Obj := ⟨0x08000B, 64, 0⟩
def Obj.programEntry (n : Nat) : Obj := ⟨256 * 0x0800 + (0x10 + n), 256, 0⟩
def Obj.runEntry (n : Nat) : Obj := ⟨256 * 0x0800 + (0x50 + n), 256, 0⟩
def Obj.arrayTankBells : Obj := ⟨0x0800A0, 8, 8⟩
def Obj.cellEnergy : Obj := ⟨0x0800A1, 16, 0⟩
def Obj.arrayResidueTotal : Obj := ⟨0x0800A2, 64, 0⟩
def Obj.subarraysFenced : Obj := ⟨0x0800A3, 16, 0⟩
def Obj.pairsActive : Obj := ⟨0x090001, 16, 0⟩
def Obj.partnerTimeout : Obj := ⟨0x090002, 32, 20000⟩
def Obj.restoreRate : Obj := ⟨0x090003, 32, 1000⟩
def Obj.digestResend : Obj := ⟨0x090004, 16, 500⟩
def Obj.closeWait : Obj := ⟨0x090005, 16, 5000⟩
def Obj.rollbackLimit : Obj := ⟨0x090006, 8, 2⟩
def Obj.slowLag : Obj := ⟨0x090007, 32, 5000⟩
def Obj.slowSteps : Obj := ⟨0x090008, 8, 3⟩
def Obj.pairTable : Obj := ⟨0x090009, 0, 0⟩
def Obj.comparisons : Obj := ⟨0x09000A, 64, 0⟩
def Obj.suspectRanges : Obj := ⟨0x09000B, 64, 0⟩
def Obj.rollbacksTotal : Obj := ⟨0x09000C, 64, 0⟩
def Obj.rangesResynced : Obj := ⟨0x09000D, 64, 0⟩
def Obj.unresolved : Obj := ⟨0x09000E, 64, 0⟩
def Obj.takeovers : Obj := ⟨0x09000F, 64, 0⟩
def Obj.custodyLostEvents : Obj := ⟨0x090010, 64, 0⟩
def Obj.remirrorBytes : Obj := ⟨0x090011, 64, 0⟩
def Obj.staleChunks : Obj := ⟨0x090012, 64, 0⟩
def Obj.digestBytes : Obj := ⟨0x090013, 64, 0⟩
def Obj.custodyDiscards : Obj := ⟨0x090014, 64, 0⟩
def Obj.residueTotal : Obj := ⟨0x090015, 64, 0⟩
def Obj.bandHyst : Obj := ⟨0x090020, 8, 2⟩
def Obj.testWait : Obj := ⟨0x090021, 32, 500000⟩
def Obj.testsRun : Obj := ⟨0x090022, 64, 0⟩
def Obj.testsFailed : Obj := ⟨0x090023, 64, 0⟩
def Obj.stallsOut : Obj := ⟨0x090024, 64, 0⟩
def Obj.homeMap : Obj := ⟨0x090025, 512, 0x3f3e3d3c3b3a393837363534333231302f2e2d2c2b2a292827262524232221201f1e1d1c1b1a191817161514131211100f0e0d0c0b0a09080706050403020100⟩
def Obj.ledgerEnable : Obj := ⟨0x0A0001, 1, 0⟩
def Obj.ledgerInterval : Obj := ⟨0x0A0002, 32, 500⟩
def Obj.ledgerSections : Obj := ⟨0x0A0003, 8, 1⟩
def Obj.ledgerBase : Obj := ⟨0x0A0004, 64, 0⟩
def Obj.ledgerSlots : Obj := ⟨0x0A0005, 32, 64⟩
def Obj.ledgerMode : Obj := ⟨0x0A0006, 8, 0⟩
def Obj.ledgerSlotBytes : Obj := ⟨0x0A0007, 32, 24576⟩
def Obj.ledgerHead : Obj := ⟨0x0A0008, 32, 0⟩
def Obj.ledgerTail : Obj := ⟨0x0A0009, 32, 0⟩
def Obj.ledgerSequence : Obj := ⟨0x0A000A, 64, 0⟩
def Obj.ledgerSkipped : Obj := ⟨0x0A000B, 64, 0⟩
def Obj.ledgerMissed : Obj := ⟨0x0A000C, 64, 0⟩
def Obj.ledgerList : Obj := ⟨0x0A000D, 0, 0⟩
def Obj.ledgerListCount : Obj := ⟨0x0A000E, 16, 0⟩
def Obj.isampleEnable : Obj := ⟨0x0A0020, 1, 0⟩
def Obj.isamplePeriod : Obj := ⟨0x0A0021, 32, 65536⟩
def Obj.isampleRuns : Obj := ⟨0x0A0022, 64, 0xffffffffffffffff⟩
def Obj.isampleBase : Obj := ⟨0x0A0023, 64, 0⟩
def Obj.isampleSlots : Obj := ⟨0x0A0024, 32, 4096⟩
def Obj.isampleHead : Obj := ⟨0x0A0025, 32, 0⟩
def Obj.isampleTail : Obj := ⟨0x0A0026, 32, 0⟩
def Obj.isampleLost : Obj := ⟨0x0A0027, 64, 0⟩
def Obj.psampleN : Obj := ⟨0x0A0030, 32, 0⟩
def Obj.psampleFollow : Obj := ⟨0x0A0031, 1, 0⟩
def Obj.psampleVcs : Obj := ⟨0x0A0032, 8, 255⟩
def Obj.psampleBase : Obj := ⟨0x0A0033, 64, 0⟩
def Obj.psampleSlots : Obj := ⟨0x0A0034, 32, 4096⟩
def Obj.psampleHead : Obj := ⟨0x0A0035, 32, 0⟩
def Obj.psampleTail : Obj := ⟨0x0A0036, 32, 0⟩
def Obj.psampleLost : Obj := ⟨0x0A0037, 64, 0⟩
def Obj.ctrValue (i n : Nat) : Obj := ⟨256 * (0x0A40 + i) + (0x00 + n), 64, 0⟩
def Obj.ctrControl (i n : Nat) : Obj := ⟨256 * (0x0A60 + i) + (0x00 + n), 64, 0⟩
def Obj.ctrFilter (i n : Nat) : Obj := ⟨256 * (0x0A80 + i) + (0x00 + n), 256, 15⟩
def Obj.pcieLinkState : Obj := ⟨0x0B0001, 8, 0⟩
def Obj.linkSpeed : Obj := ⟨0x0B0002, 8, 0⟩
def Obj.linkWidth : Obj := ⟨0x0B0003, 8, 0⟩
def Obj.maxSpeed : Obj := ⟨0x0B0004, 8, 6⟩
def Obj.eqFailures : Obj := ⟨0x0B0005, 32, 0⟩
def Obj.perstEvents : Obj := ⟨0x0B0006, 32, 0⟩
def Obj.vfsEnabled : Obj := ⟨0x0B0007, 8, 0⟩
def Obj.completionTimeout : Obj := ⟨0x0B0008, 32, 50000⟩
def Obj.hostErrors : Obj := ⟨0x0B0009, 64, 0⟩
def Obj.ckptPoisoned : Obj := ⟨0x0B000A, 64, 0⟩
def Obj.ckptFabricRate : Obj := ⟨0x0B000B, 32, 400⟩
def Obj.dmaReadBytes : Obj := ⟨0x0B000C, 64, 0⟩
def Obj.dmaWriteBytes : Obj := ⟨0x0B000D, 64, 0⟩
def Obj.vfBinding (n : Nat) : Obj := ⟨256 * 0x0B00 + (0x11 + n), 32, 0⟩
def Obj.slotToken (i : Nat) : Obj := ⟨256 * (0x0F00 + 2 * i) + 0x01, 64, 0⟩
def Obj.slotOpcode (i : Nat) : Obj := ⟨256 * (0x0F00 + 2 * i) + 0x02, 16, 0⟩
def Obj.slotBell (i : Nat) : Obj := ⟨256 * (0x0F00 + 2 * i) + 0x03, 64, 0⟩
def Obj.slotSubmit (i : Nat) : Obj := ⟨256 * (0x0F00 + 2 * i) + 0x04, 8, 0⟩
def Obj.slotArg (i n : Nat) : Obj := ⟨256 * (0x0F00 + 2 * i) + (0x10 + n), 64, 0⟩
def Obj.slotStatus (i : Nat) : Obj := ⟨256 * (0x0F01 + 2 * i) + 0x01, 8, 0⟩
def Obj.slotCode (i : Nat) : Obj := ⟨256 * (0x0F01 + 2 * i) + 0x02, 16, 0⟩
def Obj.resultToken (i : Nat) : Obj := ⟨256 * (0x0F01 + 2 * i) + 0x03, 64, 0⟩
def Obj.takenBell (i : Nat) : Obj := ⟨256 * (0x0F01 + 2 * i) + 0x04, 64, 0⟩
def Obj.effectBell (i : Nat) : Obj := ⟨256 * (0x0F01 + 2 * i) + 0x05, 64, 0⟩
def Obj.finalBell (i : Nat) : Obj := ⟨256 * (0x0F01 + 2 * i) + 0x06, 64, 0⟩
def Obj.slotProgress (i : Nat) : Obj := ⟨256 * (0x0F01 + 2 * i) + 0x07, 32, 0⟩
def Obj.slotRes (i n : Nat) : Obj := ⟨256 * (0x0F01 + 2 * i) + (0x10 + n), 64, 0⟩
def Obj.accessStatus : Obj := ⟨0x0F2001, 64, 0⟩
def Obj.eventHead : Obj := ⟨0x0F2002, 16, 0⟩
def Obj.eventTail : Obj := ⟨0x0F2003, 16, 0⟩
def Obj.eventRing : Obj := ⟨0x0F2004, 0, 0⟩
def Obj.eventMask : Obj := ⟨0x0F2005, 32, 131070⟩
def Obj.eventLost : Obj := ⟨0x0F2006, 64, 0⟩
def Obj.eventMerged : Obj := ⟨0x0F2007, 64, 0⟩
def Obj.msgDiscarded : Obj := ⟨0x0F2008, 64, 0⟩
def Obj.catalogue : Obj := ⟨0x0F2010, 0, 0⟩
def Obj.catalogueCount : Obj := ⟨0x0F2011, 32, 0⟩
def Obj.longBuffer (n : Nat) : Obj := ⟨256 * 0x0F21 + (0x00 + n), 64, 0⟩
def Obj.portWidth (i : Nat) : Obj := ⟨256 * (0x1000 + i) + 0x01, 8, 0⟩
def Obj.expectedPeer (i : Nat) : Obj := ⟨256 * (0x1000 + i) + 0x02, 32, 0⟩
def Obj.maxPayload (i : Nat) : Obj := ⟨256 * (0x1000 + i) + 0x03, 16, 4096⟩
def Obj.retrain (i : Nat) : Obj := ⟨256 * (0x1000 + i) + 0x04, 1, 0⟩
def Obj.replayLimit (i : Nat) : Obj := ⟨256 * (0x1000 + i) + 0x05, 8, 8⟩
def Obj.creditVc (i n : Nat) : Obj := ⟨256 * (0x1000 + i) + (0x08 + n), 16, ([64, 64, 64, 64, 384, 16, 32, 80] : List Nat).getD n 0⟩
def Obj.ptpEnable (i : Nat) : Obj := ⟨256 * (0x1000 + i) + 0x20, 1, 1⟩
def Obj.rxCorrection (i : Nat) : Obj := ⟨256 * (0x1000 + i) + 0x21, 32, 0⟩
def Obj.txCorrection (i : Nat) : Obj := ⟨256 * (0x1000 + i) + 0x22, 32, 0⟩
def Obj.learnLimit (i : Nat) : Obj := ⟨256 * (0x1000 + i) + 0x28, 32, 4096⟩
def Obj.learnRate (i : Nat) : Obj := ⟨256 * (0x1000 + i) + 0x29, 16, 4⟩
def Obj.learnExcess (i : Nat) : Obj := ⟨256 * (0x1000 + i) + 0x2A, 8, 0⟩
def Obj.linkState (i : Nat) : Obj := ⟨256 * (0x1400 + i) + 0x01, 8, 0⟩
def Obj.peerIdentity (i : Nat) : Obj := ⟨256 * (0x1400 + i) + 0x02, 256, 0⟩
def Obj.fecCorrected (i : Nat) : Obj := ⟨256 * (0x1400 + i) + 0x03, 64, 0⟩
def Obj.fecUncorrectable (i : Nat) : Obj := ⟨256 * (0x1400 + i) + 0x04, 64, 0⟩
def Obj.fecHistogram (i : Nat) : Obj := ⟨256 * (0x1400 + i) + 0x05, 1024, 0⟩
def Obj.naksSent (i : Nat) : Obj := ⟨256 * (0x1400 + i) + 0x06, 32, 0⟩
def Obj.replays (i : Nat) : Obj := ⟨256 * (0x1400 + i) + 0x07, 32, 0⟩
def Obj.retrains (i : Nat) : Obj := ⟨256 * (0x1400 + i) + 0x08, 32, 0⟩
def Obj.lostOnInit (i : Nat) : Obj := ⟨256 * (0x1400 + i) + 0x09, 32, 0⟩
def Obj.lostOnDown (i : Nat) : Obj := ⟨256 * (0x1400 + i) + 0x0A, 32, 0⟩
def Obj.badTypeVc (i : Nat) : Obj := ⟨256 * (0x1400 + i) + 0x0B, 32, 0⟩
def Obj.portLane (i : Nat) : Obj := ⟨256 * (0x1400 + i) + 0x0C, 16, 0⟩
def Obj.ptpPortState (i : Nat) : Obj := ⟨256 * (0x1400 + i) + 0x20, 8, 0⟩
def Obj.fixedDelayRx (i : Nat) : Obj := ⟨256 * (0x1400 + i) + 0x21, 32, 0⟩
def Obj.fixedDelayTx (i : Nat) : Obj := ⟨256 * (0x1400 + i) + 0x22, 32, 0⟩
def Obj.meanPathDelay (i : Nat) : Obj := ⟨256 * (0x1400 + i) + 0x23, 64, 0⟩
def Obj.egressDepth (i : Nat) : Obj := ⟨256 * (0x1400 + i) + 0x30, 64, 0⟩
def Obj.easeSentPort (i : Nat) : Obj := ⟨256 * (0x1400 + i) + 0x31, 32, 0⟩
def Obj.mcastCells (i : Nat) : Obj := ⟨256 * (0x1400 + i) + 0x32, 64, 0⟩
def Obj.egressSample (i n : Nat) : Obj := ⟨256 * (0x1400 + i) + (0x38 + n), 64, 0⟩
def Obj.egressMax (i n : Nat) : Obj := ⟨256 * (0x1400 + i) + (0x40 + n), 64, 0⟩
def Obj.learnedEntries (i : Nat) : Obj := ⟨256 * (0x1400 + i) + 0x50, 32, 0⟩
def Obj.learnExcessFrames (i : Nat) : Obj := ⟨256 * (0x1400 + i) + 0x51, 64, 0⟩
def Obj.stallTemp (i : Nat) : Obj := ⟨256 * (0x1800 + i) + 0x10, 32, 0⟩
def Obj.stallTempMax (i : Nat) : Obj := ⟨256 * (0x1800 + i) + 0x11, 32, 0⟩
def Obj.ueGrant (i : Nat) : Obj := ⟨256 * (0x1800 + i) + 0x12, 32, 0⟩
def Obj.arrayGrant (i : Nat) : Obj := ⟨256 * (0x1800 + i) + 0x13, 32, 0⟩
def Obj.computeMeasured (i : Nat) : Obj := ⟨256 * (0x1800 + i) + 0x14, 32, 0⟩
def Obj.slewNow (i : Nat) : Obj := ⟨256 * (0x1800 + i) + 0x15, 32, 5000⟩
def Obj.thermalLevel (i : Nat) : Obj := ⟨256 * (0x1800 + i) + 0x16, 8, 0⟩
def Obj.holdTarget (i : Nat) : Obj := ⟨256 * (0x1800 + i) + 0x17, 32, 0⟩
def Obj.holdStatus (i : Nat) : Obj := ⟨256 * (0x1800 + i) + 0x18, 8, 0⟩
def Obj.computeState (i : Nat) : Obj := ⟨256 * (0x1800 + i) + 0x30, 8, 0⟩
def Obj.neighbour (i : Nat) : Obj := ⟨256 * (0x1800 + i) + 0x31, 8, 0⟩
def Obj.bandLow (i : Nat) : Obj := ⟨256 * (0x1800 + i) + 0x32, 16, 0⟩
def Obj.bandHigh (i : Nat) : Obj := ⟨256 * (0x1800 + i) + 0x33, 16, 0⟩
def Obj.testResult (i : Nat) : Obj := ⟨256 * (0x1800 + i) + 0x34, 32, 0⟩
def Obj.bandEntries (i : Nat) : Obj := ⟨256 * (0x1800 + i) + 0x35, 32, 0⟩
def Obj.testBell (i : Nat) : Obj := ⟨256 * (0x1800 + i) + 0x36, 64, 0⟩
def Obj.meritFloor (i : Nat) : Obj := ⟨256 * (0x1800 + i) + 0x3D, 8, 64⟩
def Obj.meritMin (i : Nat) : Obj := ⟨256 * (0x1800 + i) + 0x3E, 8, 96⟩
def Obj.autoRemap (i : Nat) : Obj := ⟨256 * (0x1800 + i) + 0x3F, 1, 1⟩
def Obj.laneOut (i n : Nat) : Obj := ⟨256 * (0x1800 + i) + (0x40 + n), 32, 0⟩
def Obj.laneIn (i n : Nat) : Obj := ⟨256 * (0x1800 + i) + (0x60 + n), 32, 0⟩
def Obj.poolConfig (i n : Nat) : Obj := ⟨256 * (0x1800 + i) + (0x80 + n), 64, 0⟩
def Obj.poolStatus (i n : Nat) : Obj := ⟨256 * (0x1800 + i) + (0x90 + n), 32, 0⟩
def Obj.poolRebuild (i : Nat) : Obj := ⟨256 * (0x1800 + i) + 0x9F, 16, 0⟩
def Obj.voqSamples (i : Nat) : Obj := ⟨256 * (0x1800 + i) + 0xA0, 0, 0⟩
def Obj.voqMax (i : Nat) : Obj := ⟨256 * (0x1800 + i) + 0xA1, 0, 0⟩
def Obj.cacheHits (i : Nat) : Obj := ⟨256 * (0x1800 + i) + 0xB0, 64, 0⟩
def Obj.cacheMisses (i : Nat) : Obj := ⟨256 * (0x1800 + i) + 0xB1, 64, 0⟩
def Obj.cacheFull (i : Nat) : Obj := ⟨256 * (0x1800 + i) + 0xB2, 64, 0⟩
def Obj.fillSkipped (i : Nat) : Obj := ⟨256 * (0x1800 + i) + 0xB3, 64, 0⟩
def Obj.learnCache (i : Nat) : Obj := ⟨256 * (0x1800 + i) + 0xB4, 0, 0⟩
def Obj.contextsHeld (i : Nat) : Obj := ⟨256 * (0x1800 + i) + 0xC0, 16, 0⟩
def Obj.contextsPeak (i : Nat) : Obj := ⟨256 * (0x1800 + i) + 0xC1, 16, 0⟩
def Obj.tillInBytes (i : Nat) : Obj := ⟨256 * (0x1800 + i) + 0xC2, 64, 0⟩
def Obj.tillOutBytes (i : Nat) : Obj := ⟨256 * (0x1800 + i) + 0xC3, 64, 0⟩
def Obj.tillResidueErrors (i : Nat) : Obj := ⟨256 * (0x1800 + i) + 0xC4, 64, 0⟩
def Obj.groupsHomed (i : Nat) : Obj := ⟨256 * (0x1800 + i) + 0xC5, 16, 0⟩
def Obj.queueEntries (i : Nat) : Obj := ⟨256 * (0x1800 + i) + 0xC6, 16, 0⟩
def Obj.sinkFullWaits (i : Nat) : Obj := ⟨256 * (0x1800 + i) + 0xC7, 64, 0⟩
def Obj.runnerContextsHeld (i : Nat) : Obj := ⟨256 * (0x1800 + i) + 0xC8, 8, 0⟩
def Obj.runnerInFrames (i : Nat) : Obj := ⟨256 * (0x1800 + i) + 0xC9, 64, 0⟩
def Obj.runnerOutFrames (i : Nat) : Obj := ⟨256 * (0x1800 + i) + 0xCA, 64, 0⟩
def Obj.threadsFree (i : Nat) : Obj := ⟨256 * (0x1800 + i) + 0xD0, 16, 256⟩
def Obj.threadsRunning (i : Nat) : Obj := ⟨256 * (0x1800 + i) + 0xD1, 16, 0⟩
def Obj.threadsWaiting (i : Nat) : Obj := ⟨256 * (0x1800 + i) + 0xD2, 16, 0⟩
def Obj.segments (i : Nat) : Obj := ⟨256 * (0x1800 + i) + 0xD3, 64, 0⟩
def Obj.tank (i : Nat) : Obj := ⟨256 * (0x1800 + i) + 0xD4, 32, 0⟩
def Obj.ueEnergy (i : Nat) : Obj := ⟨256 * (0x1800 + i) + 0xD5, 64, 0⟩
def Obj.vectorIssues (i : Nat) : Obj := ⟨256 * (0x1800 + i) + 0xD6, 64, 0⟩
def Obj.ueResidueStall (i : Nat) : Obj := ⟨256 * (0x1800 + i) + 0xD7, 64, 0⟩
def Obj.threadTable (i : Nat) : Obj := ⟨256 * (0x1800 + i) + 0xD8, 0, 0⟩
def Obj.subarrayFence (i : Nat) : Obj := ⟨256 * (0x1800 + i) + 0xE0, 16, 0⟩
def Obj.arrayTank (i : Nat) : Obj := ⟨256 * (0x1800 + i) + 0xE1, 32, 0⟩
def Obj.descSlotsUsed (i : Nat) : Obj := ⟨256 * (0x1800 + i) + 0xE2, 8, 0⟩
def Obj.descriptorsDone (i : Nat) : Obj := ⟨256 * (0x1800 + i) + 0xE3, 64, 0⟩
def Obj.descriptorsFailed (i : Nat) : Obj := ⟨256 * (0x1800 + i) + 0xE4, 64, 0⟩
def Obj.arrayCellCycles (i : Nat) : Obj := ⟨256 * (0x1800 + i) + 0xE5, 64, 0⟩
def Obj.arrayBubbles (i : Nat) : Obj := ⟨256 * (0x1800 + i) + 0xE6, 64, 0⟩
def Obj.arrayEnergy (i : Nat) : Obj := ⟨256 * (0x1800 + i) + 0xE7, 64, 0⟩
def Obj.arrayResidueErrors (i : Nat) : Obj := ⟨256 * (0x1800 + i) + 0xE8, 64, 0⟩
def Obj.selftestState (i : Nat) : Obj := ⟨256 * (0x1800 + i) + 0xE9, 8, 0⟩
def Obj.subarrayFaults (i : Nat) : Obj := ⟨256 * (0x1800 + i) + 0xEA, 128, 0⟩
def Obj.operandEccCorrected (i : Nat) : Obj := ⟨256 * (0x1800 + i) + 0xEB, 64, 0⟩
def Obj.sramEccCorrected (i : Nat) : Obj := ⟨256 * (0x1800 + i) + 0xF0, 64, 0⟩
def Obj.sramEccUncorrectable (i : Nat) : Obj := ⟨256 * (0x1800 + i) + 0xF1, 64, 0⟩
def Obj.stagingBacklog (i : Nat) : Obj := ⟨256 * (0x1800 + i) + 0xF2, 32, 0⟩
def Obj.saturatedNs (i : Nat) : Obj := ⟨256 * (0x1800 + i) + 0xF3, 64, 0⟩
def Obj.fiberState (i : Nat) : Obj := ⟨256 * (0x1900 + i) + 0x01, 8, 0⟩
def Obj.carrierMap (i : Nat) : Obj := ⟨256 * (0x1900 + i) + 0x02, 128, 0⟩
def Obj.moveCapable (i : Nat) : Obj := ⟨256 * (0x1900 + i) + 0x03, 1, 0⟩
def Obj.calState (i : Nat) : Obj := ⟨256 * (0x1900 + i) + 0x04, 32, 31⟩
def Obj.calLastBell (i : Nat) : Obj := ⟨256 * (0x1900 + i) + 0x05, 64, 0⟩
def Obj.calSkipped (i : Nat) : Obj := ⟨256 * (0x1900 + i) + 0x06, 32, 0⟩
def Obj.fiberPower (i : Nat) : Obj := ⟨256 * (0x1900 + i) + 0x07, 16, 0⟩
def Obj.shutterClosures (i : Nat) : Obj := ⟨256 * (0x1900 + i) + 0x08, 32, 0⟩
def Obj.carrierPower (i n : Nat) : Obj := ⟨256 * (0x1900 + i) + (0x20 + n), 16, 0⟩
def Obj.ringLockError (i n : Nat) : Obj := ⟨256 * (0x1900 + i) + (0x40 + n), 16, 0⟩
def Obj.engineState (i : Nat) : Obj := ⟨256 * (0x1A00 + i) + 0x01, 8, 0⟩
def Obj.engineTemp (i : Nat) : Obj := ⟨256 * (0x1A00 + i) + 0x02, 32, 0⟩
def Obj.calEnable (i : Nat) : Obj := ⟨256 * (0x1A00 + i) + 0x03, 1, 1⟩
def Obj.calInterval (i : Nat) : Obj := ⟨256 * (0x1A00 + i) + 0x04, 32, 64000⟩
def Obj.calDwell (i : Nat) : Obj := ⟨256 * (0x1A00 + i) + 0x05, 32, 2000⟩
def Obj.fadeWarn (i : Nat) : Obj := ⟨256 * (0x1A00 + i) + 0x06, 16, 150⟩
def Obj.fadeFail (i : Nat) : Obj := ⟨256 * (0x1A00 + i) + 0x07, 16, 300⟩
def Obj.calSpareAsFade (i : Nat) : Obj := ⟨256 * (0x1A00 + i) + 0x08, 1, 1⟩
def Obj.moveLead (i : Nat) : Obj := ⟨256 * (0x1A00 + i) + 0x09, 32, 1000⟩
def Obj.spareUse (i : Nat) : Obj := ⟨256 * (0x1A00 + i) + 0x0A, 32, 1023⟩
def Obj.thoroughfareCount (i : Nat) : Obj := ⟨256 * (0x1A00 + i) + 0x0B, 8, 0⟩
def Obj.movesDone (i : Nat) : Obj := ⟨256 * (0x1A00 + i) + 0x0C, 32, 0⟩
def Obj.movesFailed (i : Nat) : Obj := ⟨256 * (0x1A00 + i) + 0x0D, 32, 0⟩
def Obj.ringExcursions (i : Nat) : Obj := ⟨256 * (0x1A00 + i) + 0x0E, 32, 0⟩
def Obj.thoroughfareEntry (i n : Nat) : Obj := ⟨256 * (0x1A00 + i) + (0x10 + n), 32, 0⟩
def Obj.refclkSpread (i : Nat) : Obj := ⟨256 * (0x1A00 + i) + 0x30, 1, 0⟩
def Obj.bayState (i : Nat) : Obj := ⟨256 * (0x1A10 + i) + 0x01, 8, 0⟩
def Obj.packControl (i : Nat) : Obj := ⟨256 * (0x1A10 + i) + 0x02, 8, 0⟩
def Obj.packType (i : Nat) : Obj := ⟨256 * (0x1A10 + i) + 0x03, 128, 0⟩
def Obj.packSerial (i : Nat) : Obj := ⟨256 * (0x1A10 + i) + 0x04, 128, 0⟩
def Obj.laserLit (i : Nat) : Obj := ⟨256 * (0x1A10 + i) + 0x05, 32, 0⟩
def Obj.laserFaded (i : Nat) : Obj := ⟨256 * (0x1A10 + i) + 0x06, 32, 0⟩
def Obj.laserFailed (i : Nat) : Obj := ⟨256 * (0x1A10 + i) + 0x07, 32, 0⟩
def Obj.packPower (i : Nat) : Obj := ⟨256 * (0x1A10 + i) + 0x08, 32, 0⟩
def Obj.packTemp (i : Nat) : Obj := ⟨256 * (0x1A10 + i) + 0x09, 32, 0⟩
def Obj.laserRelPower (i n : Nat) : Obj := ⟨256 * (0x1A10 + i) + (0x20 + n), 16, 0⟩
def Obj.laserRefPower (i n : Nat) : Obj := ⟨256 * (0x1A10 + i) + (0x40 + n), 32, 0⟩
def Obj.laserFreqOffset (i n : Nat) : Obj := ⟨256 * (0x1A10 + i) + (0x60 + n), 32, 0⟩
def Obj.channelState (i : Nat) : Obj := ⟨256 * (0x1B00 + i) + 0x01, 8, 0⟩
def Obj.relocSlot (i : Nat) : Obj := ⟨256 * (0x1B00 + i) + 0x02, 8, 255⟩
def Obj.eccCorrected (i : Nat) : Obj := ⟨256 * (0x1B00 + i) + 0x03, 64, 0⟩
def Obj.eccUncorrectable (i : Nat) : Obj := ⟨256 * (0x1B00 + i) + 0x04, 64, 0⟩
def Obj.poisonedUnits (i : Nat) : Obj := ⟨256 * (0x1B00 + i) + 0x05, 32, 0⟩
def Obj.rowsRepaired (i : Nat) : Obj := ⟨256 * (0x1B00 + i) + 0x06, 16, 0⟩
def Obj.spareRowsLeft (i : Nat) : Obj := ⟨256 * (0x1B00 + i) + 0x07, 16, 256⟩
def Obj.readBytes (i : Nat) : Obj := ⟨256 * (0x1B00 + i) + 0x08, 64, 0⟩
def Obj.writeBytes (i : Nat) : Obj := ⟨256 * (0x1B00 + i) + 0x09, 64, 0⟩
def Obj.adderOps (i : Nat) : Obj := ⟨256 * (0x1B00 + i) + 0x0A, 64, 0⟩
def Obj.adderResidueErrors (i : Nat) : Obj := ⟨256 * (0x1B00 + i) + 0x0B, 64, 0⟩
def Obj.scrubLastBell (i : Nat) : Obj := ⟨256 * (0x1B00 + i) + 0x0C, 64, 0⟩
def Obj.stackTemp (i : Nat) : Obj := ⟨256 * (0x1C00 + i) + 0x01, 32, 0⟩
def Obj.stackTempMax (i : Nat) : Obj := ⟨256 * (0x1C00 + i) + 0x02, 32, 0⟩
def Obj.thermalBand (i : Nat) : Obj := ⟨256 * (0x1C00 + i) + 0x03, 8, 0⟩
def Obj.bandChanges (i : Nat) : Obj := ⟨256 * (0x1C00 + i) + 0x04, 32, 0⟩
def Obj.throttledNs (i : Nat) : Obj := ⟨256 * (0x1C00 + i) + 0x05, 64, 0⟩
def Obj.stackBytes (i : Nat) : Obj := ⟨256 * (0x1C00 + i) + 0x06, 64, 0⟩
def Obj.relocationReserve : Obj := ⟨0x1C0080, 8, 1⟩
def Obj.relocSlotsUsed : Obj := ⟨0x1C0081, 8, 0⟩
def Obj.channelsInService : Obj := ⟨0x1C0082, 8, 128⟩
def Obj.capacityNow : Obj := ⟨0x1C0083, 64, 0x4a817c8000⟩
def Obj.dramUsableNext : Obj := ⟨0x1C0084, 64, 0⟩
def Obj.lostBytes : Obj := ⟨0x1C0085, 64, 0⟩
def Obj.holeWrites : Obj := ⟨0x1C0086, 64, 0⟩
def Obj.repairThreshold : Obj := ⟨0x1C0087, 8, 8⟩
def Obj.scrubPeriod : Obj := ⟨0x1C0088, 32, 43200⟩
def Obj.spillSatOn : Obj := ⟨0x1C0089, 32, 32768⟩
def Obj.spillSatOff : Obj := ⟨0x1C008A, 32, 8192⟩
def Obj.spillFifoShare : Obj := ⟨0x1C008B, 8, 32⟩
def Obj.repairLog : Obj := ⟨0x1C008C, 0, 0⟩
def Obj.poisonLookups : Obj := ⟨0x1C008D, 64, 0⟩
def Obj.pitchState (i : Nat) : Obj := ⟨256 * (0x2000 + i) + 0x01, 8, 0⟩
def Obj.pitchGeneration (i : Nat) : Obj := ⟨256 * (0x2000 + i) + 0x02, 16, 0⟩
def Obj.openBooks (i : Nat) : Obj := ⟨256 * (0x2000 + i) + 0x03, 1, 0⟩
def Obj.bucketRate (i n : Nat) : Obj := ⟨256 * (0x2000 + i) + (0x08 + n), 32, 0⟩
def Obj.bucketBurst (i n : Nat) : Obj := ⟨256 * (0x2000 + i) + (0x10 + n), 32, 0⟩
def Obj.bucketAction (i n : Nat) : Obj := ⟨256 * (0x2000 + i) + (0x18 + n), 8, 0⟩
def Obj.tenantCap (i n : Nat) : Obj := ⟨256 * (0x2000 + i) + (0x20 + n), 32, 0xffffffff⟩
def Obj.heldCells (i n : Nat) : Obj := ⟨256 * (0x2000 + i) + (0x28 + n), 32, 0⟩
def Obj.passBytes (i n : Nat) : Obj := ⟨256 * (0x2000 + i) + (0x30 + n), 64, 0⟩
def Obj.passFrames (i n : Nat) : Obj := ⟨256 * (0x2000 + i) + (0x38 + n), 64, 0⟩
def Obj.heldFrames (i n : Nat) : Obj := ⟨256 * (0x2000 + i) + (0x40 + n), 64, 0⟩
def Obj.droppedFrames (i n : Nat) : Obj := ⟨256 * (0x2000 + i) + (0x48 + n), 64, 0⟩
def Obj.learnEnable (i : Nat) : Obj := ⟨256 * (0x2000 + i) + 0x50, 1, 1⟩
def Obj.floodGroup (i : Nat) : Obj := ⟨256 * (0x2000 + i) + 0x51, 16, 65535⟩
def Obj.unknownAction (i : Nat) : Obj := ⟨256 * (0x2000 + i) + 0x52, 8, 0⟩
def Obj.routeDefault (i : Nat) : Obj := ⟨256 * (0x2000 + i) + 0x53, 32, 0⟩
def Obj.serviceDrops (i : Nat) : Obj := ⟨256 * (0x2000 + i) + 0x54, 64, 0⟩
def Obj.leaseBase (i : Nat) : Obj := ⟨256 * (0x2000 + i) + 0x60, 16, 0⟩
def Obj.leaseCount (i : Nat) : Obj := ⟨256 * (0x2000 + i) + 0x61, 32, 0⟩
def Obj.leaseGeneration (i : Nat) : Obj := ⟨256 * (0x2000 + i) + 0x62, 16, 0⟩

end Sys2Proof.Machine
end

