-- ==== Sys2Proof/Machine/Types.lean ====
section
/-! DEFINITION. The parts of the module's state, chapter by chapter. Every structure's default value is
its value at reset. Dictionary objects that are plain settings, counters or readings are held in the
object store of State; a structure here holds what needs more than one word, and the objects that show
it are computed from it (Machine/View.lean). -/

namespace Sys2Proof.Machine

/-! ### Frames (05 R160) -/

/-- A fabric frame with its header fields. `length` is the header's field. -/
structure Frame where
  version : Nat := 1
  vc : Nat := 0
  ftype : Nat := 0
  dest : Nat := 0
  source : Nat := 0
  pitch : Nat := 0
  flow : Nat := 0
  group : Nat := 0
  seq : Nat := 0
  chunk : Nat := 0
  format : Nat := 0
  op : Nat := 0
  epoch : Nat := 0
  hop : Nat := 0
  flags : Nat := 0
  length : Nat := 0
  stamp : Nat := 0
  payload : List Byte := []
  deriving DecidableEq, Repr

/-! ### Supplies, straps, start-up (03) -/

/-- The states of module_state (03 R96). -/
inductive PowerState where
  | standby | powering | held | booting | service | latchedFault | returnMode
  deriving DecidableEq, Repr

/-- The alert conditions that hold ALERT_N (03 R73) and who raises each. -/
inductive Alert where
  /-- 03 R84, until the next standby power-up. -/
  | strap
  /-- 02 R51. -/
  | holdover
  /-- 14 R443, of one pair. -/
  | degraded (pair : Nat)
  /-- 14 R454, of one pair. -/
  | custodyLost (pair : Nat)
  /-- 13 R417. -/
  | holes
  /-- 15 R476. -/
  | level2
  /-- 15 R467. -/
  | overBudget
  deriving DecidableEq, Repr

/-- A fault capsule entry (03 R94); times are TIME80 words. -/
structure CapsuleEntry where
  seq : Nat
  cls : Nat
  pinned : Bool
  tb1 : Nat
  tb0 : Nat
  block : Nat
  code : Nat
  bell : Nat
  detail : Nat
  deriving DecidableEq, Repr

/-- The stages of a die boot (03 R88, 18 R563). -/
inductive BootStage where
  | idle | memoryTest | waitList | loading | engines | links | done
  deriving DecidableEq, Repr

/-- Power, straps and start-up (03). -/
structure PowerSt where
  state : PowerState := .standby
  /-- Standby input in range. -/
  standby : Bool := false
  /-- The dictionary is reachable and ALERT_N valid, S + 30 ms (R88). -/
  mgmtReady : Bool := false
  strapsSampled : Bool := false
  /-- The samples disagreed: no 64 V power-up until a standby cycle (R84). -/
  strapUnstable : Bool := false
  strapRaw : Nat := 0
  vinMv : Int := 0
  seated : Bool := false
  converting : Bool := false
  precharged : Bool := false
  /-- Rails in range and rails with a latched fault, 12 bits each (R97). -/
  railsUp : Nat := 0
  railsLatched : Nat := 0
  /-- Rails that carry a physical fault not yet found (R79). -/
  railsShorted : Nat := 0
  latchCause : Nat := 0
  /-- Times in ms of the latched faults since standby power-up (R80). -/
  latchTimes : List Nat := []
  restartBlocked : Bool := false
  /-- Stopped by undervoltage or overvoltage, the input not yet back in its window (R78). -/
  stopped : Bool := false
  /-- Time in ms of the latest timed supply event. -/
  lastMs : Nat := 0
  heldOff : Bool := false
  pwrOk : Bool := false
  /-- RST_N pin, high inactive. -/
  rstN : Bool := true
  releaseDue : Bool := false
  /-- The die is released from reset. -/
  released : Bool := false
  alerts : List Alert := []
  capsule : List CapsuleEntry := []
  capsuleNext : Nat := 0
  boot : BootStage := .idle
  bootNext : Nat := 0
  /-- TB1 time in ns from which the boot waits for its list (18 R563). -/
  waitSince : Nat := 0
  enginesStarted : Nat := 0
  deriving DecidableEq, Repr

/-! ### Time (02) -/

/-- The time states (02 R49). -/
inductive TimeState where
  | freerun | acquiring | locked | holdover | holdoverExceeded
  deriving DecidableEq, Repr

/-- A foreign master that the module hears, and so its parent when selected (02 R41, R46, R51): PTP port, sender,
the grandmaster's data set, steps removed, TB1 at its latest Announce. -/
structure Parent where
  port : Nat
  source : BitVec 80
  rank : Nat
  steps : Nat
  gmTime : BitVec 32
  seen : Nat
  deriving DecidableEq, Repr

/-- A peer-delay answer that waits for its follow-up (02 R42): sequence, egress stamp, requesting port. -/
structure PdelayAnswer where
  seq : Nat
  stamp : Int
  requesting : BitVec 80
  deriving DecidableEq, Repr

/-- A pulse output (02 R65 to R67). -/
structure Pulse where
  /-- A pulse is in progress. -/
  active : Bool := false
  /-- The output's level. -/
  pin : Bool := false
  fired : Bool := false
  /-- TB0 in ns from which the program's next instant counts. -/
  armed : Nat := 0
  /-- TB1 at which the pulse in progress ends. -/
  endsAt : Nat := 0
  /-- Boundaries rung since the program took effect, and the latest one is the output's (bell source). -/
  bells : Nat := 0
  bellDue : Bool := false
  deriving DecidableEq, Repr

/-- A time input (02 R68); entries are TIME80 words of TB0 and TB1. -/
structure TimeInput where
  queue : List (Nat × Nat) := []
  lost : Nat := 0
  last : Option Nat := none
  /-- Mode 2: offset of the latest edge from the nearest whole second, 2⁻¹⁶ ns. -/
  offset : Int := 0
  deriving DecidableEq, Repr

/-- The time unit (02). Bases count units of 2⁻³² ns; rates are in parts per 10¹². -/
structure TimeUnit where
  tb0 : Nat := 0
  tb1 : Nat := 0
  tb2 : Nat := 0
  tb3 : Nat := 0
  tb0Set : Bool := false
  tb0Rate : Int := 0
  tb3Rate : Int := 0
  /-- TB0's rates over the last 16 s, newest first: TB1 from which each runs, and the rate (R40). -/
  rates : List (Nat × Int) := []
  state : TimeState := .freerun
  goodSyncs : Nat := 0
  parent : Option Parent := none
  /-- Every master heard, the parent among them. -/
  foreign : List Parent := []
  /-- TB1 at which the parent in force was selected. -/
  parentSince : Nat := 0
  /-- A two-step Sync waiting for its Follow_Up: sequence, ingress stamp, correction. -/
  sync : Option (Nat × Int × Int) := none
  /-- Egress stamp of the latest Delay_Req or Pdelay_Req per PTP port: sequence, stamp. -/
  delayReq : Tbl (Nat × Int) := []
  /-- A two-step Pdelay_Resp waiting for its follow-up per port: sequence, t4, t2, correction. -/
  pdelayResp : Tbl (Nat × Int × Int × Int) := []
  /-- Sent and waiting for a follow-up of the module's: a Sync's sequence and egress stamp, a Pdelay_Resp. -/
  syncSent : Tbl (Nat × Int) := []
  pdelaySent : Tbl PdelayAnswer := []
  /-- Latest meanPathDelay per port, 2⁻¹⁶ ns. -/
  pathDelay : Tbl Int := []
  /-- Sequence number of the latest message sent, per port and kind. -/
  seqs : Tbl Nat := []
  /-- Latest Sync: master-to-slave difference t2 − t1, 2⁻¹⁶ ns. -/
  masterToSlave : Int := 0
  /-- TB1 at entry to holdover. -/
  holdSince : Nat := 0
  pendingStep : Option Int := none
  stepPermitted : Bool := false
  onTb0 : Bool := false
  switchBell : Nat := 0
  relockDrift : Int := 0
  offset : Int := 0
  lockSeen : Bool := false
  lastTb1Rung : Bool := false
  bell : Nat := 0
  /-- Bells rung since release: what every bell count counts (R54). -/
  rung : Nat := 0
  /-- TB1 at the latest boundary. -/
  boundaryTb1 : Nat := 0
  /-- The next boundary falls at no smaller value of the ruling base. -/
  notBefore : Nat := 0
  /-- tb2_now was written in this bell while bells derive from TB2 (R58). -/
  tb2Written : Bool := false
  cycles : Nat := 0
  pulses : Tbl Pulse := []
  inputs : Tbl TimeInput := []
  deriving DecidableEq, Repr

/-! ### Optics (04) -/

/-- bay_state (04 R132). -/
inductive BayState where
  | empty | present | starting | lit | prepared | rejected | fault
  deriving DecidableEq, Repr

/-- A laser pack bay (04 R101 to R104). `stage` counts bring-up stages that ended. -/
structure Pack where
  bay : BayState := .empty
  ident : Option PackIdentity := none
  stage : Nat := 0
  lit : Nat := 0
  faded : Nat := 0
  failed : Nat := 0
  /-- Lasers whose warn, and whose fail, has been acted on since they were lit. -/
  warned : Nat := 0
  lost : Nat := 0
  /-- Seated since the engine last ran: every dropped port returns with it (R124). -/
  fresh : Bool := false
  /-- The boundary at which the engine's ports leave for a removal, once named. -/
  prepareAt : Option Nat := none
  draining : Bool := false
  unlocked : Bool := false
  indicator : Bool := false
  /-- Windows in a row at or below warn, per laser. -/
  warnRuns : List Nat := []
  deriving DecidableEq, Repr

/-- engine_state (04 R131). -/
inductive EngineState where
  | off | noPack | starting | running | prepared | fault
  deriving DecidableEq, Repr

/-- An optical engine: fade spares in use and the dither loop of R476. -/
structure EngineSt where
  state : EngineState := .off
  /-- Laser using λ17, and laser using λ16 as fade spare (R118, R119). -/
  on17 : Option Nat := none
  on16 : Option Nat := none
  /-- The spare's laser and rings are lit and tuned. -/
  ready17 : Bool := false
  ready16 : Bool := false
  /-- The dither loop runs fast, until this TB1 time in ns (15 R476). -/
  ditherFast : Bool := false
  ditherUntil : Nat := 0
  /-- Identity of the calibration table applied at its latest calibration slot (18 R562). -/
  calTable : Nat := 0
  deriving DecidableEq, Repr

/-- cal_state's phases (04 R133). -/
inductive CalPhase where
  | idle | tuning | moved | returning
  deriving DecidableEq, Repr

/-- A fiber in one direction. -/
structure FiberSt where
  /-- Loss of light declared (RX). -/
  dark : Bool := false
  /-- TX shutter closed: it opens only after light on the RX fiber of the same number (03 R81). -/
  shut : Bool := true
  /-- RX: light has been seen. -/
  lit : Bool := false
  /-- Probe bursts sent while shut. -/
  probes : Nat := 0
  moveCapable : Bool := false
  calHome : Option Nat := none
  calPhase : CalPhase := .idle
  calNext : Nat := 0
  /-- Heater settings that calibration has written, by carrier (R115). -/
  rings : Tbl Nat := []
  deriving DecidableEq, Repr

/-- The stages of a wavelength move (04 R110). -/
inductive MoveStage where
  | proposed | accepted | ready | switched
  deriving DecidableEq, Repr

/-- A wavelength move in progress (04 R109, R110). `rx` is the module's direction: the module is the
selecting side for RX, the sending side for TX. -/
structure Move where
  fiber : Nat
  rx : Bool
  home : Nat
  src : Nat
  dst : Nat
  token : Nat
  bell : Nat
  reason : Nat
  /-- The module sent the proposal. -/
  ours : Bool
  stage : MoveStage
  /-- Bells rung when it was proposed. -/
  since : Nat
  tries : Nat
  deriving DecidableEq, Repr

/-- A move that the module is to propose once its time has come: not before a boundary, a spare that is ready, the new
carrier free (04 R99, R113, R118, R119). -/
structure Wish where
  fiber : Nat
  rx : Bool
  home : Nat
  dst : Nat
  reason : Nat
  tries : Nat
  /-- Least time ahead of its boundary, ns. -/
  ns : Nat
  bell : Nat
  deriving DecidableEq, Repr

/-- A thoroughfare (04 R126 to R129). -/
structure Thoro where
  active : Bool := false
  scheduled : Bool := false
  teardown : Bool := false
  /-- The leaves have been told. -/
  proposed : Bool := false
  rx : Nat := 0
  tx : Nat := 0
  k : Nat := 0
  token : Nat := 0
  bell : Nat := 0
  /-- Leaves that accepted: fiber a, fiber b. -/
  acceptA : Bool := false
  acceptB : Bool := false
  tuned : Bool := false
  deriving DecidableEq, Repr

structure OpticsSt where
  engines : Tbl EngineSt := []
  packs : Tbl Pack := []
  /-- Fibers: key t for TX t, 64 + t for RX t. -/
  fibers : Tbl FiberSt := []
  /-- Carrier in use: key 16 × fiber key + home wavelength; absent means the home carrier. -/
  carriers : Tbl Nat := []
  moves : List Move := []
  moveToken : Nat := 0
  wishes : List Wish := []
  /-- Fade moves waiting for their second try: (fiber, home). -/
  retries : List (Nat × Nat) := []
  /-- Entry i of engine e at key 8e + i. -/
  thoros : Tbl Thoro := []
  deriving DecidableEq, Repr

/-! ### Package lanes and link (05) -/

/-- Lane states (05 R165). -/
inductive LaneState where
  | idle | training | inService | failed | remapPending
  deriving DecidableEq, Repr

/-- Where a tap search stands (05 R138): control fields to come until a request is answered, a merit measurement, the
same for an undo, or the end. -/
inductive SearchStage where
  | answer (frames : Nat)
  | measure
  | undo (frames : Nat)
  | ended
  deriving DecidableEq, Repr

/-- A receiver's search for its transmitter's taps (05 R138). -/
structure TapSearch where
  stage : SearchStage
  /-- The first request, of preset 1, is under way. -/
  preset : Bool := true
  best : Nat := 0
  round : Nat := 0
  improved : Bool := false
  /-- The tap and the step tried: c(1) before c(−1), increase before decrease. -/
  post : Bool := true
  up : Bool := true
  deriving DecidableEq, Repr

/-- A package lane in one direction (05 R135 to R140). Tap magnitudes are in 64ths. -/
structure LaneSt where
  state : LaneState
  /-- Port offset 0 to 15, 31 for a spare. -/
  port : Nat
  cpre : Nat := 0
  cpost : Nat := 0
  stPre : Nat := 0
  stPost : Nat := 0
  storedPre : Nat := 0
  storedPost : Nat := 0
  partnerReady : Bool := false
  merit : Nat := 0
  remaps : Nat := 0
  search : Option TapSearch := none
  /-- Identity of the calibration table applied at its latest training (18 R562). -/
  calTable : Nat := 0
  deriving DecidableEq, Repr

inductive RemapStage where
  | scheduled | started | ready | switched
  deriving DecidableEq, Repr

/-- A lane remap (05 R140, R141). -/
structure Remap where
  port : Nat
  inward : Bool
  spare : Nat
  old : Nat
  bell : Nat
  stage : RemapStage
  token : Option Nat
  deriving DecidableEq, Repr

/-- link_state (05 R164). -/
inductive LinkState where
  | down | lanes | optical | init | up | retrain | dropped | lent | peerMismatch | versionMismatch
  | spreadMismatch | planeMismatch
  deriving DecidableEq, Repr

/-- Why the head of a port's runner ingress queue waits: for its bucket (07 R222), or for a runner context
(10 R312). -/
inductive RunnerWait where
  | none | bucket | context
  deriving DecidableEq, Repr

/-- A port: link layer, egress queues and scheduling (05 R146 to R159, 06 R181, 07 R224 to R226). On a
grouped port the lowest member's entry serves all. Lists of eight are indexed by VC. -/
structure PortSt where
  link : LinkState := .down
  /-- In its bundle and in the slot tables (05 R159, R124). -/
  inBundle : Bool := false
  /-- Leave or join the bundle at the next boundary. -/
  leaveDue : Bool := false
  joinDue : Bool := false
  /-- Drop out at the next boundary (04 R121 to R124). -/
  dropDue : Bool := false
  /-- Dropped with its engine's lasers alone: it returns with the same pack (04 R103). -/
  prepOut : Bool := false
  lseq : Nat := 0
  retry : List (Nat × Frame) := []
  replayAt : Option Nat := none
  nakRun : Nat := 0
  nakNamed : Option Nat := none
  expect : Nat := 0
  /-- The gap that a nak has named is open: lseq of the latest frame discarded in it. -/
  nakSent : Option Nat := none
  nakDue : Bool := false
  ackDue : Bool := false
  limits : List Nat := []
  sent : List Nat := []
  released : List Nat := []
  advertised : List Nat := []
  /-- The unit in transmission: VC, flight, cells sent. -/
  sending : Option (Nat × Nat × Nat) := none
  /-- Lanes and optics of this port alone: down, lanes, optical, dropped or lent (05 R156, 04 R124, R127). -/
  phys : LinkState := .down
  /-- Credits released to the partner for frames that left the VOQ buffer, and as last reported. -/
  freed : List Nat := []
  reported : List Nat := []
  creditTurn : Nat := 0
  maxPayload : Nat := 4096
  peerPayload : Nat := 4096
  widthDue : Option Nat := none
  peerLeaf : Option Nat := none
  gotIdentity : Bool := false
  identitySent : Bool := false
  accepted : List Frame := []
  /-- Frames that a port with a peer mismatch does not carry yet (03 R82; log 64). -/
  heldIn : List Frame := []
  /-- A grouped port's frames ahead of the next expected one: lseq, frame, TB1 at arrival (R152, R154). -/
  skew : List (Nat × RawFrame × Nat) := []
  /-- The member is in the rotation; the next member of the rotation (at the lowest); its send path is busy. -/
  rot : Bool := false
  rotor : Nat := 0
  busy : Bool := false
  /-- Codewords by corrected symbols, and TB1 of the latest 17 uncorrectable ones (R145, R159). -/
  fecHist : List Nat := []
  fecBadAt : List Nat := []
  /-- Remote-fault ordered sets go out, and what the link was when its retrain began (R159). -/
  faultSent : Bool := false
  retrainFrom : LinkState := .down
  runnerIn : List Frame := []
  runnerWait : RunnerWait := .none
  runnerOut : List Frame := []
  linkOut : List Frame := []
  /-- Egress queue of each VC: (flight, cells held). -/
  egress : List (List (Nat × Nat)) := []
  deficits : List Int := []
  turn : Nat := 0
  runnerTokens : Rat := 8192
  runnerAt : Nat := 0
  psample : Nat := 0
  deriving DecidableEq, Repr

/-! ### Switch core (06) -/

/-- Where a frame in flight goes. -/
inductive Route where
  /-- To one egress port of an output stall; `bundle` is what chose it, if a bundle did. -/
  | unicast (port : Nat) (bundle : Option Nat)
  /-- To the ports of a group's bitmaps, less one excepted port. -/
  | multicast (group : Nat) (except : Option Nat)
  /-- To the till, group home or custody intake of a stall: class 5. -/
  | home (stall : Nat)
  deriving DecidableEq, Repr

/-- Why a frame in the VOQ buffer is held out of its queue. -/
inductive Hold where
  | none
  | policer
  | guard (flow : Nat)
  deriving DecidableEq, Repr

/-- A frame in the core: cells still in the VOQ, in crosspoints, in egress or intake. -/
structure Flight where
  frame : Frame
  stall : Nat
  inPort : Option Nat
  cls : Nat
  route : Route
  cells : Nat
  granted : Nat := 0
  drained : Nat := 0
  hold : Hold := .none
  /-- Multicast: output stalls that the head cell has not reached. -/
  mask : Nat := 0
  /-- Multicast: the stall mask that the frame keeps (06 R194). -/
  fullMask : Nat := 0
  /-- Multicast: ports that have taken the cell now at the head of their crosspoint. -/
  took : List Nat := []
  /-- Multicast: target ports of each output stall that the first cell has reached. -/
  targets : Tbl (List Nat) := []
  /-- Ports on which the link unit has started. -/
  sentOn : List Nat := []
  /-- The home of a class 5 frame, fixed as its first cell reached an intake (01 R24). -/
  homed : Option Nat := none
  /-- Ports whose egress queue has had the frame's first cell. -/
  entered : List Nat := []
  /-- Counted before a bank switch under this flow index (R192). -/
  preFlow : Option Nat := none
  /-- Staging or service buffer that holds the payload. -/
  buffer : Option Nat := none
  /-- A generated payload in memory, read as its cells are granted (R169): where in the payload it begins, its device
  address and its length. -/
  src : Option (Nat × Nat × Nat) := none
  /-- TB1 in ns when the frame's first cell entered its queue, and the egress queue of each port. -/
  since : Nat := 0
  egSince : Tbl Nat := []
  deriving DecidableEq, Repr

/-- A scheduled bank switch (06 R191). -/
structure BankSwitch where
  bell : Nat
  digest : Nat
  token : Nat
  passed : Option Bool := none
  deriving DecidableEq, Repr

/-- A buffer pool (06 R204 to R208): list head, buffers at or above `fresh` still linked as at the
rebuild, buffers handed out. -/
structure Pool where
  /-- Device address of the first free buffer; none when the list is empty. -/
  head : Option Nat
  fresh : Nat := 0
  taken : List Nat := []
  fenced : Bool := false
  rebuildSince : Option Nat := none
  bad : Nat := 0
  asideCount : Nat := 0
  /-- Bell of TB1 since the release at which the last allocated buffer came back (R208). -/
  emptyRung : Nat := 0
  deriving DecidableEq, Repr

/-- An ease filter entry (06 R199). -/
structure EaseSent where
  port : Nat
  vc : Nat
  leaf : Nat
  bell : Nat
  deriving DecidableEq, Repr

/-- A hold on generated frames toward a leaf (06 R203). -/
structure EaseHold where
  level : Nat
  untilRung : Nat
  skip : Bool := false
  deriving DecidableEq, Repr

/-- A generated frame that waits to be queued at its stall (06 R202, R203): to its destination's leaf, to
one port, or to a group's ports less one. -/
structure GenWait where
  stall : Nat
  frame : Frame
  group : Option Nat := none
  except : Option Nat := none
  buffer : Option Nat := none
  src : Option (Nat × Nat × Nat) := none
  /-- The port of a mirror copy (R197), or of a re-steered frame with its bundle (R190). -/
  port : Option Nat := none
  bundle : Option Nat := none
  deriving DecidableEq, Repr

structure SwitchSt where
  flights : Tbl Flight := []
  nextFlight : Nat := 0
  /-- Unicast VOQs: key 512 × stall + 8 × output + class. -/
  voq : Tbl (List Nat) := []
  mcq : Tbl (List Nat) := []
  gen : Tbl (List Nat) := []
  /-- Generated frames not yet queued, oldest first. -/
  genWait : List GenWait := []
  /-- Crosspoint FIFOs: key 8 × (64 × source + output) + class; (flight, cells). -/
  xp : Tbl (List (Nat × Nat)) := []
  xpTurn : Tbl Nat := []
  drainTurn : Tbl Nat := []
  grantPtr : Tbl Nat := []
  acceptPtr : Tbl Nat := []
  drainPtr : Tbl Nat := []
  tillFirst : Bool := false
  intake : Tbl (List (Nat × Nat)) := []
  spray : Tbl Int := []
  bank : Nat := 0
  switch : Option BankSwitch := none
  guardEnd : Option Nat := none
  preCount : Tbl Nat := []
  mirrorCount : Tbl Nat := []
  easeSent : Tbl EaseSent := []
  easeCount : Tbl Nat := []
  easeSeq : Tbl Nat := []
  easeHolds : Tbl EaseHold := []
  pools : Tbl Pool := []
  /-- Multicast bitmaps: key 64 × group + stall. -/
  bitmaps : Tbl Nat := []
  deriving DecidableEq, Repr

/-! ### Pitches (07) -/

inductive PitchState where
  | free | admitted | releasing
  deriving DecidableEq, Repr

/-- A pitch's admission (07 R212 to R216); boundaries are counts of bells rung. -/
structure PitchSt where
  state : PitchState := .free
  /-- An ADMIT_PITCH taken and not yet in effect, with its arguments. -/
  admission : Option (List Nat) := none
  releaseDue : Bool := false
  /-- Bell at whose boundary the latest admission or release was taken. -/
  takenRung : Nat := 0
  freeAt : Option Nat := none
  deriving DecidableEq, Repr

/-- One stall's share of a bucket (07 R219, R220). -/
structure Share where
  level : Rat
  weight : Rat
  demand : Nat := 0
  at_ : Nat := 0
  held : List Nat := []
  deriving DecidableEq, Repr

structure PitchesSt where
  pitches : Tbl PitchSt := []
  /-- Bucket shares: key 64 × (8 × pitch + VC) + stall. -/
  shares : Tbl Share := []
  deriving DecidableEq, Repr

/-! ### Service Ethernet (08) -/

/-- A stall cache entry (08 R240) with the last stamp written back (R245). -/
structure MacEntry where
  mac : Nat
  pitch : Nat
  isStatic : Bool
  pendingInsert : Bool
  endpoint : Nat
  port : Nat
  lastSeen : Nat
  written : Nat
  lastTry : Nat
  deriving DecidableEq, Repr

/-- Where a service lookup stands (08 R247, R252). -/
inductive LookupStage where
  | chip
  | filter
  /-- Lengths still to probe, longest first. -/
  | prefixes (lengths : List Nat)
  /-- Resolved to an endpoint, waiting for its turn. -/
  | hit (endpoint : Nat)
  | flood
  | drop (miss : Bool)
  deriving DecidableEq, Repr

structure Lookup where
  frame : Frame
  inPort : Nat
  /-- Number of the free value that bytes past the payload's end read as (log 6). -/
  pad : Nat
  stage : LookupStage
  deriving DecidableEq, Repr

/-- A queued chip-table insertion (08 R242). -/
structure Insertion where
  pitch : Nat
  mac : Nat
  endpoint : Nat
  port : Nat
  /-- Bell at which the source was seen. -/
  seen : Nat
  deriving DecidableEq, Repr

structure SegLock where
  holder : Requester
  since : Nat
  deriving DecidableEq, Repr

structure ServiceSt where
  /-- Stall caches: key 4 × (1024 × stall + set) + way. -/
  caches : Tbl MacEntry := []
  /-- VC7 frames waiting for the lookup queue, per stall: (frame, ingress port). -/
  waiting : Tbl (List (Frame × Nat)) := []
  lookups : Tbl (List Lookup) := []
  inserts : Tbl (List Insertion) := []
  learns : Tbl Nat := []
  locks : Tbl SegLock := []
  deriving DecidableEq, Repr

/-! ### Collectives (09) and the runner (10) -/

inductive GroupState where
  | free | scheduled | opened | closing
  deriving DecidableEq, Repr

/-- A group record (09 R264) with its member ports. -/
structure GroupSt where
  state : GroupState := .free
  pitch : Nat := 0
  kind : Nat := 0
  generation : Nat := 0
  ghome : Nat := 0
  inFormat : Nat := 0
  outFormat : Nat := 0
  op : Nat := 0
  exact : Bool := false
  stochastic : Bool := false
  rescale : Nat := 0
  mxVariant : Nat := 0
  headroom : Nat := 0
  chunkElements : Nat := 0
  expected : Nat := 0
  patience : Nat := 0
  stagingMin : Nat := 0
  queueDepth : Nat := 0
  /-- Entries of the group home stall's queue space that are the group's ring (R271; log 111). -/
  ring : List Nat := []
  sinkSlots : Nat := 0
  root : Nat := 0
  exactQ : Int := 0
  outFrameData : Nat := 0
  ports : List Nat := []
  openAt : Nat := 0
  token : Nat := 0
  /-- Newest completed sequence and the window bitmap before it (10 R328). -/
  newest : Option Nat := none
  window : Nat := 0
  aborted : List Nat := []
  deriving DecidableEq, Repr

/-- States of a group queue entry (09 R271). -/
inductive QState where
  | opening | assembled | complete | aborted
  deriving DecidableEq, Repr

/-- A group queue entry (09 R271) with the members that opened. -/
structure QEntry where
  seq : Nat
  chunks : Nat
  state : QState
  poisoned : Bool
  members : List Nat
  done : Nat
  firstBell : Nat
  firstRung : Nat
  /-- Its place in the group's ring. -/
  slot : Nat := 0
  deriving DecidableEq, Repr

/-- A sink queue entry (09 R297, R272, 11 R368). -/
structure SinkEntry where
  addr : Nat
  receipt : Nat
  seq : Nat
  chunk : Nat
  instanceEnd : Bool
  aborted : Bool
  elements : Nat
  bytes : Nat
  deriving DecidableEq, Repr

/-- One accumulator element: an fp32 pattern, or an integer (also the exact sum, 09 R290). -/
inductive Acc where
  | fp (x : BitVec 32)
  | int (x : Int)
  deriving DecidableEq, Repr

/-- Where a till context stands. -/
inductive CtxStage where
  | accumulating
  /-- The output pass runs (09 R295). -/
  | passing
  /-- Complete, kept in staging for a full sink queue or a closed gate (09 R297, 14 R435). -/
  | staged
  deriving DecidableEq, Repr

/-- A till context (09 R278), or a completed chunk in staging. -/
structure Ctx where
  group : Nat
  seq : Nat
  chunk : Nat
  generation : Nat
  home : Nat
  buffer : Option Nat
  pool : Nat
  poolStall : Nat
  reserved : Bool
  acc : Tbl Acc := []
  bytes : Nat := 0
  lasts : Nat := 0
  chunkEnd : Option Nat := none
  /-- Members whose last frame arrived. -/
  lastMembers : List Nat := []
  /-- Kinds 2 and 3: data relayed of each member, for the combined CRC (09 R298). -/
  relayed : Tbl (List Byte) := []
  /-- Largest input scale exponent per block, biased by 127 (09 R293). -/
  scales : Tbl Nat := []
  cause : Nat := 0
  inexact : Bool := false
  saturated : Bool := false
  nan : Bool := false
  stage : CtxStage := .accumulating
  bornBell : Nat := 0
  bornRung : Nat := 0
  custody : Bool := false
  output : List Byte := []
  receipt : Nat := 0
  /-- Receipt payload that arrived for a custody copy (09 R299). -/
  copyReceipt : Option Nat := none
  deriving DecidableEq, Repr

/-- A kept-partial record (10 R322). -/
structure Kept where
  group : Nat
  generation : Nat
  seq : Nat
  chunk : Nat
  till : Nat
  held : Bool
  lateWindow : Bool
  members : List Nat
  deadline : Nat
  deadlineRung : Nat
  buffer : Option Nat
  pool : Nat
  poolStall : Nat
  reserved : Bool
  late : Nat
  deriving DecidableEq, Repr

/-- An abort taken for the next boundary (10 R327). -/
structure AbortReq where
  group : Nat
  seq : Nat
  source : Nat
  opens : Nat
  /-- Bells rung when it was taken: it applies at the next. -/
  rung : Nat
  deriving DecidableEq, Repr

/-- A runner context (10 R312). -/
structure Round where
  group : Nat
  seq : Nat
  home : Nat
  elements : Nat
  acc : List Acc
  members : List Nat
  cause : Nat := 0
  inexact : Bool := false
  saturated : Bool := false
  nan : Bool := false
  late : Bool := false
  bornRung : Nat
  /-- The root's data (kind 3). -/
  data : List Byte := []
  /-- The result once sent, and the ports that have not taken it yet. -/
  result : Option Frame := none
  portsLeft : List Nat := []
  deriving DecidableEq, Repr

structure CollSt where
  groups : Tbl GroupSt := []
  queues : Tbl (List QEntry) := []
  /-- Sink queues: key 64 × group + stall. -/
  sinks : Tbl (List SinkEntry) := []
  ctxs : List Ctx := []
  /-- Refusal receipts of this bell: (stall, source, group). -/
  refusals : List (Nat × Nat × Nat) := []
  /-- End-of-instance records that wait for a sink slot: group, sequence, aborted (09 R272). -/
  endPosts : List (Nat × Nat × Bool) := []
  /-- Increments of done on their way to the group home (09 R272). -/
  donePosts : List (Nat × Nat) := []
  kept : Tbl Kept := []
  keptNext : Nat := 0
  aborts : List AbortReq := []
  rounds : List Round := []
  /-- Runner frames of the module for one port that wait for its runner queue: (port, frame). -/
  runnerPend : List (Nat × Frame) := []
  /-- Pool-4 buffers held for a group (spill_held): address ↦ group. -/
  spill : Tbl Nat := []
  /-- The 16 most recently ended runner sequences of each group. -/
  ended : Tbl (List Nat) := []
  heartbeats : Nat := 0
  heartbeatRot : Tbl Nat := []
  heartbeatAt : Nat := 0
  turningRot : Nat := 0
  deriving DecidableEq, Repr

/-! ### Update engine (11) -/

/-- Thread states (11 R337). -/
inductive ThreadState where
  | free | parked | ready | running | waiting | halted
  deriving DecidableEq, Repr

/-- What a waiting or stalled thread waits for. -/
inductive Wait where
  | none
  | bell (target : Nat) (d : Nat)
  | location (addr target : Nat)
  | take (group d : Nat)
  | barrier (d : Nat)
  | counter (k d : Nat)
  /-- A host load: request number; the instruction completes at DMA_COMPLETION. -/
  | host (req : Nat)
  deriving DecidableEq, Repr

/-- An update-engine thread (11 R336). Registers absent from a table read 0. -/
structure Thread where
  state : ThreadState := .free
  run : Nat := 0
  team : Nat := 0
  teamSize : Nat := 1
  x : Tbl Word := []
  /-- Vector lanes: key 32 × register + lane. -/
  v : Tbl Lane := []
  m : Tbl (BitVec 32) := []
  pc : BitVec 48 := 0
  wait : Wait := .none
  /-- Completion counters: (outstanding, first error since the last KWAIT). -/
  counters : Tbl (Nat × Nat) := []
  fault : Nat := 0
  segRung : Nat := 0
  charge : Nat := 0
  departed : Bool := false
  deriving DecidableEq, Repr

/-- The output accumulator of a team (11 R369). -/
structure OutAcc where
  group : Nat
  seq : Nat
  chunk : Nat
  elements : Nat
  data : List Byte
  deriving DecidableEq, Repr

/-- A staging buffer held by a team: a chunk taken, or a buffer from OUTBUF. -/
structure HeldBuf where
  addr : Nat
  bytes : Nat
  /-- The sink entry it came from, for the counting of 14 R436: group, sequence, chunk, counts. -/
  chunk : Option (Nat × Nat × Nat × Bool)
  counted : Bool
  deriving DecidableEq, Repr

/-- A team of threads of one stall (11 R338). -/
structure Team where
  size : Nat := 1
  barrier : List Nat := []
  out : Option OutAcc := none
  residue : Bool := false
  custodyResidue : Bool := false
  held : List HeldBuf := []
  deriving DecidableEq, Repr

/-- A program slot (11 R351, R374). -/
structure Program where
  id : Nat
  signer : Nat
  identity : Nat
  svn : Nat
  bytes : Nat
  declared : Nat
  base : Nat
  /-- Its granules in holes were reloaded from the bundle store (13 R417). -/
  reloaded : Bool := false
  deriving DecidableEq, Repr

inductive RunState where
  | free | scheduled | running | stopping
  deriving DecidableEq, Repr

/-- A grant of a run (11 R343): base, length, read, write, atomic. -/
structure Grant where
  base : Nat
  length : Nat
  rd : Bool
  wr : Bool
  atomic : Bool
  deriving DecidableEq, Repr

/-- A run (11 R352, R374). -/
structure Run where
  state : RunState := .free
  slot : Nat := 0
  pitch : Nat := 0
  teamSize : Nat := 1
  teams : Nat := 0
  stalls : Nat := 0
  entry : Nat := 0
  argument : Nat := 0
  grants : List Grant := []
  startAt : Nat := 0
  token : Nat := 0
  deriving DecidableEq, Repr

/-- A block move in progress (11 R364). -/
structure BlockMove where
  stall : Nat
  thread : Nat
  counter : Nat
  src : Nat
  dst : Nat
  bytes : Nat
  /-- Host request that brings the data, if the source is host memory, and how it ended. -/
  req : Option Nat
  hostData : Option (List Byte)
  hostError : Bool
  deriving DecidableEq, Repr

/-- A fault record (11 R372). -/
structure FaultRec where
  code : Nat
  stall : Nat
  thread : Nat
  run : Nat
  pc : Nat
  address : Nat
  bell : Nat
  program : Nat
  pitch : Nat
  deriving DecidableEq, Repr

structure UpdateSt where
  /-- Threads: key 256 × stall + thread. -/
  threads : Tbl Thread := []
  /-- Teams: key of the team's first thread. -/
  teams : Tbl Team := []
  programs : Tbl Program := []
  runs : Tbl Run := []
  tanks : Tbl Int := []
  admitted : Tbl Nat := []
  /-- Ready threads of each stall in the order they became ready. -/
  ready : Tbl (List Nat) := []
  /-- Measured energies of the last 64 segments: key 64 × program slot + stall. -/
  measured : Tbl (List Nat) := []
  moves : List BlockMove := []
  faults : Tbl FaultRec := []
  deriving DecidableEq, Repr

/-! ### Matrix arrays (12) -/

inductive DescStage where
  | queued | admitted | streaming
  deriving DecidableEq, Repr

/-- A descriptor in a slot (12 R382, R387): its 64 bytes, issuing thread and counter. -/
structure Desc where
  slot : Nat
  order : Nat
  fields : Nat
  addr : Nat
  thread : Nat
  counter : Nat
  stage : DescStage
  late : Bool
  /-- Bells rung when it was issued. -/
  rung : Nat := 0
  deriving DecidableEq, Repr

/-- selftest_state (12 R401). -/
inductive SelfTest where
  | none | pending | running | passed | failed
  deriving DecidableEq, Repr

/-- What programs must leave alone between an MXI and the KWAIT that sees its completion (12 R390): the descriptor's
spans of A, B and C, as address and bytes. -/
structure DescWindow where
  order : Nat
  thread : Nat
  counter : Nat
  operands : List (Nat × Nat)
  result : Nat × Nat
  done : Bool := false
  /-- A store met one of the spans while the array worked on them: what it reads there is undefined. -/
  spoiled : Bool := false
  deriving DecidableEq, Repr

/-- A stall's matrix array. -/
structure ArraySt where
  descs : List Desc := []
  windows : List DescWindow := []
  nextOrder : Nat := 0
  tank : Int := 0
  fenced : Nat := 0
  /-- Sub-arrays that passed their self-test: their fence is lifted at the next boundary. -/
  lifting : Nat := 0
  test : SelfTest := .none
  testing : Nat := 0
  /-- TB1 of the latest passed self-test per sub-array. -/
  passedAt : Tbl Nat := []
  stuck : Nat := 0
  /-- Cut by the warden, and since which boundary count (12 R394). -/
  cut : Bool := false
  cutRung : Nat := 0
  /-- Boundary count at the latest mismatch or end of a descriptor: a self-test starts at a later boundary. -/
  busyRung : Nat := 0
  faultCounts : List Nat := []
  deriving DecidableEq, Repr

/-! ### Stacked memory (13) -/

inductive ChanState where
  | inService | mappedOut | copying | holes | waiting
  deriving DecidableEq, Repr

/-- A row of the corrected-error table (13 R412). -/
structure RowCount where
  row : Nat
  count : Nat
  since : Nat
  deriving DecidableEq, Repr

/-- A memory channel (13 R402 to R416). -/
structure ChanSt where
  state : ChanState := .inService
  slot : Option Nat := none
  rows : List RowCount := []
  /-- Rows whose repair is due, with the boundary count at the read that required it: they are repaired from the next
  boundary on. -/
  repairs : List (Nat × Nat) := []
  /-- Repaired rows and their spares. -/
  spares : List (Nat × Nat) := []
  answering : Bool := true
  /-- Boundary of an automatic map-out. -/
  mapAt : Option Nat := none
  token : Option Nat := none
  /-- Bells rung when the copy ended. -/
  copyEnded : Option Nat := none
  deriving DecidableEq, Repr

/-- The device address map fixed at die release (13 R406). -/
structure AddressMap where
  n : Nat := 128
  r : Nat := 1
  order : List Nat := []
  deriving DecidableEq, Repr

structure MemSt where
  /-- Bytes of the device address space, in canonical form. -/
  cells : List Host.Cell := []
  /-- Bytes of TABLE objects that have no device address, in canonical form. -/
  tables : List Host.Cell := []
  /-- Poisoned 64-byte units, by unit number (13 R404). -/
  poison : List Nat := []
  /-- Channels mapped out without an answer: every granule poisoned, but for the units written whole since
  (13 R416). -/
  dead : Tbl (List Nat) := []
  map : AddressMap := {}
  chans : Tbl ChanSt := []
  mapOuts : List Nat := []
  repairLog : List Nat := []
  /-- Stalls whose staging class is saturated (13 R421). -/
  saturated : List Nat := []
  deriving DecidableEq, Repr

/-! ### Custody and tests (14) -/

inductive PairState where
  | free | pairing | paired | alone | resyncing | rollingBack | custodyLost | degraded
  deriving DecidableEq, Repr

/-- A resync in progress (14 R447, R448, R452). -/
structure Resync where
  /-- Re-mirroring to a new partner (R452). -/
  newPartner : Bool
  /-- First sequence J. -/
  seq : Nat
  /-- Ranges this side still has to send, each with the sequence whose input bank holds it; the first is
  being sent once `started`. -/
  out : List (Nat × Nat) := []
  /-- All that this side has to send: where a restart begins again (R456). -/
  all : List (Nat × Nat) := []
  /-- Ranges this side still has to receive. -/
  want : List (Nat × Nat) := []
  /-- The RESYNC that it runs under, if a command started it. -/
  token : Option Nat := none
  /-- The step before J needs no close here: none was ever run. -/
  ready : Bool := false
  /-- The pair's other_pos, first_seq and token before the RESYNC, which a CANCEL puts back. -/
  was : Nat × Nat × Nat := (0, 0, 0)
  started : Bool := false
  /-- Its next range waits while thermal level 2 holds background work (15 R476). -/
  held : Bool := false
  failures : Nat := 0
  /-- Bells rung when the range was sent. -/
  since : Nat := 0
  /-- Ranges sent and acknowledged. -/
  copied : Nat := 0
  /-- The step that becomes compared when all ranges are done (R440). -/
  compares : Option Nat := none
  /-- Blocks received of the range being received, and that range. -/
  blocks : List Nat := []
  blocksOf : Nat × Nat := (0, 0)
  deriving DecidableEq, Repr

/-- A pair record (14 R434) with the operation in progress. -/
structure Pair where
  state : PairState := .free
  pitch : Nat := 0
  group : Nat := 0
  partner : Bool := false
  slow : Bool := false
  otherPos : Nat := 0
  otherPair : Nat := 0
  rollbacks : Nat := 0
  base : Nat := 0
  bankStride : Nat := 0
  chunkStride : Nat := 0
  chunks : Nat := 0
  firstSeq : Nat := 0
  compared : Nat := 0
  comparedAny : Bool := false
  closed : Nat := 0
  closedAny : Bool := false
  token : Nat := 0
  helloSince : Nat := 0
  gotHello : Bool := false
  /-- Chunks of the step in progress that counted clean, and that were carried. -/
  clean : List Nat := []
  carried : List Nat := []
  /-- Step in progress here. -/
  step : Nat := 0
  closeRung : Option Nat := none
  otherClose : Option (Nat × Nat × Bool) := none
  otherCloseRung : Nat := 0
  /-- Digests of this side, range ↦ (digest, unreadable, history), and the other's of each sequence. -/
  mine : Tbl (Nat × Bool × Nat) := []
  theirs : Tbl (Tbl (Nat × Bool × Nat)) := []
  /-- A compared step's digests that go on being sent until the other has compared (R438). -/
  unacked : Option (Nat × Tbl (Nat × Bool × Nat)) := none
  /-- History bits per range: bit 0 this step, bit 1 the step before. -/
  history : Tbl Nat := []
  comparedSent : Option Nat := none
  comparedGot : Option Nat := none
  digestRung : Nat := 0
  lateReported : Bool := false
  restoring : Option Nat := none
  /-- Boundary from which the restore copies, and the TAKE_OVER that it runs under. -/
  restoreRung : Nat := 0
  taking : Option Nat := none
  resync : Option Resync := none
  slowRun : Nat := 0
  /-- Bells of the two closes. -/
  closeBell : Nat := 0
  otherCloseBell : Nat := 0
  /-- A hello of a new PAIR_CUSTODY heard while alone: POS, pair number, argument CRC (R449, R452). -/
  spareHello : Option (Nat × Nat × Nat) := none
  /-- Bell at which it became paired. -/
  pairedBell : Nat := 0
  /-- The sequence that becomes compared at the next boundary; a rollback's, if set. -/
  dueCompared : Option Nat := none
  dueRollback : Bool := false
  /-- Ranges whose state a map-out lost while the pair was alone (R453). -/
  lostRanges : List Nat := []
  deriving DecidableEq, Repr

/-- compute_state (14 R461). -/
inductive ComputeState where
  | inCompute | sublet | fenced | bandArmed | inBand | testWaiting | testing
  deriving DecidableEq, Repr

/-- A test waiting or running on a stall (14 R457). -/
structure Test where
  package : Nat
  drain : Bool
  hold : Option Nat
  waitLimit : Nat
  since : Nat
  token : Nat
  /-- TB1 in ns at Q, from which hold_settle runs (15 R479). -/
  heldFrom : Nat := 0
  deriving DecidableEq, Repr

/-- A stall's place in compute (14 R458, R459). -/
structure StallSt where
  compute : ComputeState := .inCompute
  /-- Out of compute: home-map entries name its neighbour, and its threads park. -/
  out : Bool := false
  neighbour : Option Nat := none
  /-- Take-out or return scheduled: boundary, what, token. -/
  due : Option (Nat × Nat × Nat) := none
  band : Option (Int × Int) := none
  test : Option Test := none
  deriving DecidableEq, Repr

structure CustodySt where
  pairs : Tbl Pair := []
  stalls : Tbl StallSt := []
  /-- Home map entries that differ from identity (01 R23). -/
  home : Tbl Nat := []
  turning : Nat := 0
  deriving DecidableEq, Repr

/-! ### Warden (15) -/

/-- A budget decision latched for the next boundary: line budgets and per-stall grants, mW. -/
structure Decision where
  lines : List Nat
  ue : List Nat
  array : List Nat
  short : Bool
  deriving DecidableEq, Repr

/-- A declared load step that waits for the opening tally (15 R473). -/
inductive LoadStep where
  /-- A stage of an engine's start, and a group of six lasers of its pack. -/
  | engine (e stage : Nat)
  | lasers (e : Nat)
  /-- A single laser. -/
  | laser (e k : Nat)
  /-- The ring tuning of a thoroughfare entry. -/
  | ring (k : Nat)
  | selfTest (t : Nat)
  | package (t : Nat)
  deriving DecidableEq, Repr

structure WardenSt where
  /-- Measured line powers of the latest bells, newest first. -/
  history : List (List Nat) := []
  module : List Nat := []
  /-- Rail and input power of the last 64 bells. -/
  eff : List (Nat × Nat) := []
  latched : Option Decision := none
  lateRun : Nat := 0
  onTimeRun : Nat := 0
  safe : Bool := false
  /-- The reservations of the budget in force exceed what there is. -/
  short : Bool := false
  overRun : Nat := 0
  /-- Thermal level of each stall; stalls under a level 1 cut; level 2 held by the module. -/
  levels : Tbl Nat := []
  cuts : List Nat := []
  paced : Bool := false
  /-- Stalls at half slew, with the TB1 at which it ends. -/
  halfSlew : Tbl Nat := []
  /-- Opening tally: declared steps of this bell that wait for it and that never wait, and what lane wakes
  overdrew (15 R473, R474). -/
  spent : Nat := 0
  wakes : Nat := 0
  overdraft : Nat := 0
  /-- Steps that wait, in arrival order; something waited at the decision of this bell. -/
  queue : List LoadStep := []
  waited : Bool := false
  /-- Bells rung at the latest decision or overrun: one a bell (15 R462). -/
  decidedAt : Option Nat := none
  /-- Stall temperatures of the latest sweeps, newest first. -/
  temps : List (List Int) := []
  /-- TB1 in ns of a stall's latest reading that is not below hot_c − 5 °C or shows a step; of the latest
  reading of 100 °C or more; and at which level 2 was entered (15 R476). -/
  hotAt : Tbl Nat := []
  limitAt : Nat := 0
  limitSince : Nat := 0
  /-- Input energy below a whole millijoule, in pJ. -/
  energyRest : Nat := 0
  ue : Tbl Nat := []
  array : Tbl Nat := []
  deriving DecidableEq, Repr

/-! ### Ledger and counters (16) -/

/-- A counter (16 R486, R487): key 8 × block + number in its table. -/
structure Counter where
  count : Nat := 0
  overflowed : Bool := false
  control : Nat := 0
  deriving DecidableEq, Repr

/-- A ledger entry being written (16 R494 to R496). -/
structure LedgerEntry where
  /-- Address of its slot. -/
  addr : Nat
  header : List Byte
  body : List Byte
  deriving DecidableEq, Repr

structure LedgerSt where
  counters : Tbl Counter := []
  /-- Filters: key 2 × block + f; absent means the default. -/
  filters : Tbl Nat := []
  /-- Writes that take effect at the next boundary: (index, subindex, value). -/
  staged : List (Nat × Nat × Nat) := []
  /-- Instruction sampling of each stall: instructions issued in the window, windows begun, samples taken
  (16 R502). -/
  windows : Tbl (Nat × Nat × Nat) := []
  writing : Option LedgerEntry := none
  missed : Nat := 0
  /-- Count of bells rung at the latest boundary handled as a ledger boundary. -/
  takenRung : Option Nat := none
  /-- Latest queue samples and maxima: key 514 × stall + entry, and 8 × port + VC. -/
  sampledBell : Nat := 0
  voqSample : Tbl Nat := []
  voqMax : Tbl Nat := []
  egSample : Tbl Nat := []
  egMax : Tbl Nat := []
  deriving DecidableEq, Repr

/-! ### Dictionary, events and command slots (17) -/

/-- An event record (17 R529). -/
structure EventRec where
  cls : Nat
  block : Nat
  index : Nat
  sub : Nat
  bell : Nat
  arg : Nat
  time : Nat
  /-- Bells rung when it was written, for the merging of R530. -/
  rung : Nat
  deriving DecidableEq, Repr

/-- What the dictionary keeps for one requester (17 R509, R510, R520). -/
structure ReqSt where
  who : Requester
  /-- Long buffer, as one 16,384-bit number. -/
  long : Nat := 0
  code : Nat := 0
  index : Nat := 0
  sub : Nat := 0
  failed : Nat := 0
  /-- Table transfer: state, code, moved, object key, descriptor. -/
  state : Nat := 0
  tcode : Nat := 0
  moved : Nat := 0
  key : Nat := 0
  descriptor : Nat := 0
  deriving DecidableEq, Repr

/-- Status of a command slot (17 R531). -/
inductive SlotStatus where
  | free | claimed | submitted | busy | done | failed | refused
  deriving DecidableEq, Repr

/-- A command slot: command and result objects (17 R531). -/
structure SlotSt where
  status : SlotStatus := .free
  holder : Option Requester := none
  token : Nat := 0
  opcode : Nat := 0
  bell : Nat := 0
  args : Tbl Nat := []
  code : Nat := 0
  resultToken : Nat := 0
  taken : Nat := 0
  effect : Nat := 0
  final : Nat := 0
  progress : Nat := 0
  results : Tbl Nat := []
  /-- TB1 time at which its holder last wrote it (R532). -/
  wrote : Nat := 0
  deriving DecidableEq, Repr

/-- A stored command token (17 R536), which also carries a scheduled command. -/
structure TokenRec where
  token : Nat
  crc : Nat
  opcode : Nat
  slot : Nat
  status : SlotStatus
  code : Nat
  taken : Nat
  effect : Nat
  /-- 0 for a named boundary; for a bell of 0, the count of bells rung at which it acts. -/
  effectRung : Nat
  /-- The command has acted at its boundary. -/
  acted : Bool
  final : Nat
  progress : Nat
  results : Tbl Nat
  args : Tbl Nat
  deriving DecidableEq, Repr

/-- A kept response of a dictionary message (17 R523). -/
structure KeptResponse where
  cls : MsgClass
  route : MsgRoute
  id : Nat
  bytes : List Byte
  deriving DecidableEq, Repr

structure DictSt where
  reqs : List ReqSt := []
  events : Tbl EventRec := []
  head : Nat := 0
  tail : Nat := 0
  slots : Tbl SlotSt := []
  tokens : List TokenRec := []
  lastOwner : Nat := 0
  lastOperator : Nat := 0
  responses : List KeptResponse := []
  i3cIndex : Nat := 0
  i3cSub : Nat := 0
  i3cAddr : Option (BitVec 7) := none
  /-- Writes whose object's rule names the next boundary: object key ↦ value (R517). -/
  staged : Tbl Nat := []
  deriving DecidableEq, Repr

/-! ### Host, boot, security (18) -/

/-- pcie link_state (18 R576). -/
inductive PcieState where
  | down | training | up | perst
  deriving DecidableEq, Repr

/-- What an outstanding host request brings (18 R553). -/
inductive HostUse where
  /-- A thread's load: stall, thread, and the instruction's op, t, d, first lane, active lanes. -/
  | load (stall thread op t d m imm : Nat) (lanes : List Nat)
  | move (stall thread : Nat)
  deriving DecidableEq, Repr

structure HostReq where
  id : Nat
  addr : Nat
  bytes : Nat
  use : HostUse
  /-- Bytes that have come: a read is split into requests of up to Max_Read_Request_Size (R554). -/
  got : List Byte := []
  /-- TB1 times at which its requests that are outstanding were sent, oldest first. -/
  sent : List Nat := []
  deriving DecidableEq, Repr

/-- A bundle store entry's directory (18 R561, R575). -/
structure StoreEntry where
  state : Nat := 0
  kind : Nat := 0
  autoload : Bool := false
  identity : Nat := 0
  bytes : Nat := 0
  svn : Nat := 0
  signer : Nat := 0
  deriving DecidableEq, Repr

/-- A loaded test package or calibration table (18 R562, R569). -/
structure Loaded where
  kind : Nat
  number : Nat
  identity : Nat
  svn : Nat
  signer : Nat
  energy : Nat
  /-- A calibration table that an engine or a lane has applied (R562). -/
  applied : Bool := false
  deriving DecidableEq, Repr

/-- A checkpoint stream (18 R572, R573). -/
structure Checkpoint where
  token : Nat
  fabric : Bool
  src : Nat
  length : Nat
  target : Nat
  pitch : Nat
  /-- 4 KiB blocks sent. -/
  sent : Nat := 0
  /-- CRC-64 of the bytes read. -/
  crc : Nat := 0
  /-- Bytes of its share of the route that are not yet a block. -/
  carry : Nat := 0
  deriving DecidableEq, Repr

structure HostSt where
  link : PcieState := .down
  speed : Nat := 0
  width : Nat := 0
  dropped : List Nat := []
  eqRun : Tbl Nat := []
  busMaster : List Nat := []
  numVfs : Nat := 0
  /-- Max_Read_Request_Size in bytes by function, base addresses (0 PF0 BAR0, 1 PF0 BAR2, 2 VF BAR0, 3 VF BAR2),
  and MSI-X entries by 4 times the function plus the vector (R549, R550). -/
  maxRead : Tbl Nat := []
  bars : Tbl Nat := []
  msix : Tbl Nat := []
  /-- MSI-X vectors fired in this bell: (function, vector). -/
  fired : List (Nat × Nat) := []
  reqs : List HostReq := []
  nextReq : Nat := 0
  store : Tbl StoreEntry := []
  committing : Option Nat := none
  packages : Tbl Loaded := []
  tables : List Loaded := []
  checkpoints : List Checkpoint := []
  attesting : Bool := false
  attestNonce : Nat := 0
  attestReady : Bool := false
  report : List Byte := []
  listReady : Bool := false
  deriving DecidableEq, Repr

/-! ### The model's own record of what leaves the module (log 13) -/

structure Output where
  /-- Value and access code of the latest dictionary access. -/
  data : Nat := 0
  code : Nat := 0
  /-- Latest link unit sent: member port, tag, frame. -/
  unit : Option (Nat × Nat × Option RawFrame) := none
  /-- Latest training control field sent: lane key and field (05 R137). -/
  control : Option (Nat × Nat) := none
  /-- Latest response to a dictionary message. -/
  response : List Byte := []
  /-- Latest host write: bus address and bytes. -/
  hostWrite : Option (Nat × List Byte) := none
  /-- Its 64-byte units, by number, that were sent with the poisoned bit set (18 R556). -/
  hostEp : List Nat := []
  /-- Latest PTP message that left: port, mapping on a management lane (0 UDP over IPv4, 1 UDP over IPv6,
  2 Ethernet), message. -/
  ptp : Option (Nat × Option Nat × List Byte) := none
  deriving DecidableEq, Repr

end Sys2Proof.Machine
end

