-- ==== Sys2Proof/Machine/State.lean ====
section
/-! DEFINITION. The state of the module: every piece of state the spec gives it, as plain data, with
the queue of commands that wait; why a step can stop; and the state at reset. -/

namespace Sys2Proof.Machine

/-- Why a command stops the model. -/
inductive Fault where
  /-- Raised by the dictionary accesses of the vendor class to 0x8000–0xFFFF, whose behaviour 00 R11
  and 17 R513 put outside the specification. Safe: the model stops where the manual says nothing. -/
  | vendorPrivate
  deriving DecidableEq, Repr

/-- Why the model has no meaning for a command. -/
inductive Refusal where
  /-- Raised by the dispatch for a command whose meaning is not written. Safe: the model stops. -/
  | notModelled (mnemonic : String)
  deriving DecidableEq, Repr

/-- The module's state. -/
structure State where
  /-- Dictionary objects that are plain settings, counters or readings: key 256 × index + subindex;
  an absent key reads its default (Machine/Objects.lean). -/
  objs : Tbl Nat := []
  power : PowerSt := {}
  time : TimeUnit := {}
  optics : OpticsSt := {}
  /-- Package lanes: key 18 × (64 × direction + stall) + lane, direction 1 for engine-to-die. -/
  lanes : Tbl LaneSt := []
  remaps : List Remap := []
  ports : Tbl PortSt := []
  switch : SwitchSt := {}
  pitches : PitchesSt := {}
  service : ServiceSt := {}
  coll : CollSt := {}
  update : UpdateSt := {}
  arrays : Tbl ArraySt := []
  mem : MemSt := {}
  custody : CustodySt := {}
  warden : WardenSt := {}
  ledger : LedgerSt := {}
  dict : DictSt := {}
  host : HostSt := {}
  /-- Counter of free values drawn (log 6): the model's own, not the spec's. -/
  free : Nat := 0
  /-- What the latest commands sent out (log 13): the model's own, not the spec's. -/
  out : Output := {}
  /-- The commands that wait, first in, first out. -/
  pending : List Instr := []
  deriving DecidableEq, Repr

/-- The module before any supply: every field at its reset value. -/
def State.reset : State := {}

/-- An outcome of a step of this machine. -/
abbrev Result := Host.Outcome State Fault Refusal

end Sys2Proof.Machine
end

