-- ==== Sys2Proof/Machine/Ops.lean ====
section
/-! DEFINITION. Named operations over the state that many commands share: objects, memory, free
values, the parts of State by number, interrupts, alerts, events and the fault capsule. -/

namespace Sys2Proof.Machine

/-! ### Objects (17 R507, R517) -/

/-- The word of an object. -/
def State.obj (s : State) (o : Obj) : Nat := Tbl.get s.objs o.key o.dflt

/-- The object read as a signed word (17 R507: sign-extended). -/
def State.objI (s : State) (o : Obj) : Int := toSigned 64 (s.obj o)

/-- The object read as a flag. -/
def State.flag (s : State) (o : Obj) : Bool := s.obj o != 0

/-- Give an object a word. -/
def State.putObj (s : State) (o : Obj) (v : Nat) : State := { s with objs := Tbl.set s.objs o.key v }

/-- Give an object a signed word. -/
def State.putInt (s : State) (o : Obj) (v : Int) : State := s.putObj o (ofSigned 64 v)

/-- What a counter holds when its exact count no longer fits its type is open (log 8). -/
def wrapCount (o : Obj) (v : Nat) : Nat :=
  if v < 2 ^ o.width then v else Config.counterWrap o.key v % 2 ^ o.width

/-- Add to a counter object. -/
def State.bump (s : State) (o : Obj) (n : Nat := 1) : State := s.putObj o (wrapCount o (s.obj o + n))

/-- Take from an object that shows a count held now. -/
def State.drop (s : State) (o : Obj) (n : Nat := 1) : State := s.putObj o (s.obj o - n)

/-! ### Free values (log 6) -/

/-- The free value drawn next. -/
def State.drawn (s : State) : Nat := Config.freeValue s.free

/-- One free value has been drawn. -/
def State.draw (s : State) : State := { s with free := s.free + 1 }

/-! ### Memory: lists of cells in canonical form (addresses rising, no zero byte; log 4) -/

/-- A byte of memory that nothing lists reads 0 (log 4). -/
def cellDefault : Byte := 0

/-- Read one byte. -/
def readCell : List Host.Cell → Nat → Byte
  | [], _ => cellDefault
  | (a, b) :: rest, k => if a = k then b else if k < a then cellDefault else readCell rest k

/-- Write one byte, keeping the canonical form. -/
def writeCell : List Host.Cell → Nat → Byte → List Host.Cell
  | [], k, v => if v = cellDefault then [] else [(k, v)]
  | (a, b) :: rest, k, v =>
    if a = k then (if v = cellDefault then rest else (k, v) :: rest)
    else if k < a then (if v = cellDefault then (a, b) :: rest else (k, v) :: (a, b) :: rest)
    else (a, b) :: writeCell rest k v

/-- Read `n` bytes from an address. -/
def readCells (m : List Host.Cell) (a : Nat) : Nat → List Byte
  | 0 => []
  | n + 1 => readCell m a :: readCells m (a + 1) n

/-- Write bytes from an address. -/
def writeCells : List Host.Cell → Nat → List Byte → List Host.Cell
  | m, _, [] => m
  | m, a, b :: bs => writeCells (writeCell m a b) (a + 1) bs

/-- The canonical form: addresses rising, no listed byte equal to the default. -/
def Memory.wf : List Host.Cell → Bool
  | [] => true
  | (a, b) :: rest =>
    decide (b ≠ cellDefault) && rest.all (fun c => decide (a < c.1)) && Memory.wf rest

/-- Read bytes of the device address space. -/
def State.read (s : State) (a n : Nat) : List Byte := readCells s.mem.cells a n

/-- Read a little-endian number of the device address space. -/
def State.readNat (s : State) (a n : Nat) : Nat := leNat (s.read a n)

/-- The 64-byte units that a span covers whole. -/
def wholeUnits (a n : Nat) : List Nat := (upTo ((a + n) / 64 - ceilDiv a 64)).map (ceilDiv a 64 + ·)

/-- Write bytes of the device address space. A write of a whole 64-byte unit clears its poison
(13 R404). -/
def State.write (s : State) (a : Nat) (bs : List Byte) : State :=
  { s with mem := { s.mem with
      cells := writeCells s.mem.cells a bs
      poison := s.mem.poison.filter fun u => !(decide (a ≤ 64 * u) && decide (64 * u + 64 ≤ a + bs.length))
      dead := Tbl.mapVals s.mem.dead fun _ us => us ++ wholeUnits a bs.length } }

/-- Write a little-endian number of `n` bytes. -/
def State.writeNat (s : State) (a n v : Nat) : State := s.write a (leBytes n v)

/-- Address of a table's byte in the table store. -/
def tableAddr (key off : Nat) : Nat := key * 2 ^ 32 + off

/-- Read bytes of a table object that has no device address. -/
def State.readTable (s : State) (key off n : Nat) : List Byte := readCells s.mem.tables (tableAddr key off) n

/-- Write bytes of such a table. -/
def State.writeTable (s : State) (key off : Nat) (bs : List Byte) : State :=
  { s with mem := { s.mem with tables := writeCells s.mem.tables (tableAddr key off) bs } }

/-- A number in such a table. -/
def State.tableNat (s : State) (key off n : Nat) : Nat := leNat (s.readTable key off n)

/-! ### Parts of the state by number -/

def State.port (s : State) (p : Nat) : PortSt := Tbl.get s.ports p {}
def State.setPort (s : State) (p : Nat) (x : PortSt) : State := { s with ports := Tbl.set s.ports p x }
def State.modPort (s : State) (p : Nat) (f : PortSt → PortSt) : State := s.setPort p (f (s.port p))

def State.engine (s : State) (e : Nat) : EngineSt := Tbl.get s.optics.engines e {}
def State.setEngine (s : State) (e : Nat) (x : EngineSt) : State :=
  { s with optics := { s.optics with engines := Tbl.set s.optics.engines e x } }
def State.modEngine (s : State) (e : Nat) (f : EngineSt → EngineSt) : State := s.setEngine e (f (s.engine e))

def State.pack (s : State) (e : Nat) : Pack := Tbl.get s.optics.packs e {}
def State.setPack (s : State) (e : Nat) (x : Pack) : State :=
  { s with optics := { s.optics with packs := Tbl.set s.optics.packs e x } }
def State.modPack (s : State) (e : Nat) (f : Pack → Pack) : State := s.setPack e (f (s.pack e))

def State.fiber (s : State) (k : Nat) : FiberSt := Tbl.get s.optics.fibers k {}
def State.setFiber (s : State) (k : Nat) (x : FiberSt) : State :=
  { s with optics := { s.optics with fibers := Tbl.set s.optics.fibers k x } }
def State.modFiber (s : State) (k : Nat) (f : FiberSt → FiberSt) : State := s.setFiber k (f (s.fiber k))

def State.pitch (s : State) (p : Nat) : PitchSt := Tbl.get s.pitches.pitches p {}
def State.setPitch (s : State) (p : Nat) (x : PitchSt) : State :=
  { s with pitches := { s.pitches with pitches := Tbl.set s.pitches.pitches p x } }

def State.group (s : State) (g : Nat) : GroupSt := Tbl.get s.coll.groups g {}
def State.setGroup (s : State) (g : Nat) (x : GroupSt) : State :=
  { s with coll := { s.coll with groups := Tbl.set s.coll.groups g x } }
def State.modGroup (s : State) (g : Nat) (f : GroupSt → GroupSt) : State := s.setGroup g (f (s.group g))

def State.thread (s : State) (t n : Nat) : Thread := Tbl.get s.update.threads (256 * t + n) {}
def State.setThread (s : State) (t n : Nat) (x : Thread) : State :=
  { s with update := { s.update with threads := Tbl.set s.update.threads (256 * t + n) x } }
def State.modThread (s : State) (t n : Nat) (f : Thread → Thread) : State := s.setThread t n (f (s.thread t n))

def State.team (s : State) (t n : Nat) : Team := Tbl.get s.update.teams (256 * t + n) {}
def State.setTeam (s : State) (t n : Nat) (x : Team) : State :=
  { s with update := { s.update with teams := Tbl.set s.update.teams (256 * t + n) x } }

def State.runOf (s : State) (r : Nat) : Run := Tbl.get s.update.runs r {}
def State.setRun (s : State) (r : Nat) (x : Run) : State :=
  { s with update := { s.update with runs := Tbl.set s.update.runs r x } }

def State.array (s : State) (t : Nat) : ArraySt := Tbl.get s.arrays t {}
def State.setArray (s : State) (t : Nat) (x : ArraySt) : State := { s with arrays := Tbl.set s.arrays t x }
def State.modArray (s : State) (t : Nat) (f : ArraySt → ArraySt) : State := s.setArray t (f (s.array t))

def State.chan (s : State) (c : Nat) : ChanSt := Tbl.get s.mem.chans c {}
def State.setChan (s : State) (c : Nat) (x : ChanSt) : State :=
  { s with mem := { s.mem with chans := Tbl.set s.mem.chans c x } }
def State.modChan (s : State) (c : Nat) (f : ChanSt → ChanSt) : State := s.setChan c (f (s.chan c))

def State.pair (s : State) (k : Nat) : Pair := Tbl.get s.custody.pairs k {}
def State.setPair (s : State) (k : Nat) (x : Pair) : State :=
  { s with custody := { s.custody with pairs := Tbl.set s.custody.pairs k x } }
def State.modPair (s : State) (k : Nat) (f : Pair → Pair) : State := s.setPair k (f (s.pair k))

def State.stall (s : State) (t : Nat) : StallSt := Tbl.get s.custody.stalls t {}
def State.setStall (s : State) (t : Nat) (x : StallSt) : State :=
  { s with custody := { s.custody with stalls := Tbl.set s.custody.stalls t x } }
def State.modStall (s : State) (t : Nat) (f : StallSt → StallSt) : State := s.setStall t (f (s.stall t))

def State.slot (s : State) (k : Nat) : SlotSt := Tbl.get s.dict.slots k {}
def State.setSlot (s : State) (k : Nat) (x : SlotSt) : State :=
  { s with dict := { s.dict with slots := Tbl.set s.dict.slots k x } }
def State.modSlot (s : State) (k : Nat) (f : SlotSt → SlotSt) : State := s.setSlot k (f (s.slot k))

def State.flight (s : State) (i : Nat) : Option Flight := Tbl.find s.switch.flights i
def State.setFlight (s : State) (i : Nat) (x : Flight) : State :=
  { s with switch := { s.switch with flights := Tbl.set s.switch.flights i x } }
def State.dropFlight (s : State) (i : Nat) : State :=
  { s with switch := { s.switch with flights := Tbl.erase s.switch.flights i } }

/-! ### Grouped ports (00 R6) -/

/-- The width of the port or group that starts at a port: its log₂ (05 R162). -/
def State.widthOf (s : State) (low : Nat) : Nat := min 3 (s.obj (Obj.portWidth low))

/-- The lowest member of the port or grouped port that a port belongs to. -/
def State.portLow (s : State) (p : Nat) : Nat :=
  if s.widthOf (p / 8 * 8) = 3 then p / 8 * 8
  else if s.widthOf (p / 4 * 4) = 2 then p / 4 * 4
  else if s.widthOf (p / 2 * 2) = 1 then p / 2 * 2
  else p

/-- The members of a grouped port, or the port alone. -/
def State.membersOf (s : State) (low : Nat) : List Nat := (upTo (2 ^ s.widthOf low)).map (low + ·)

/-- The port is ungrouped or the lowest member of its group. -/
def State.isLowest (s : State) (p : Nat) : Bool := s.portLow p == p

/-! ### Time read by others -/

/-- Whole nanoseconds of a base counted in units of 2⁻³² ns: a base between two of them shows the lower (log 15). -/
def nsOf (units : Nat) : Nat := units / 2 ^ 32

/-- A base in units of 2⁻¹⁶ ns: reads and timestamps are rounded to these (02 R40; rounding to nearest is
log 15). -/
def fine16 (units : Nat) : Nat := (units + 2 ^ 15) / 2 ^ 16

/-- A TIME80 word (02 R37). -/
def time80 (base ns : Nat) : Nat := ns % 10 ^ 9 + (ns / 10 ^ 9 % 2 ^ 48) * 2 ^ 30 + base * 2 ^ 78

/-- The die runs: it is released from reset. -/
def State.dieRunning (s : State) : Bool := s.power.released

/-- Total nanoseconds of TB0, or of TB1 before the switch to TB0 bells (17 R529, 02 R39). -/
def State.netNs (s : State) : Nat := nsOf (if s.time.onTb0 then s.time.tb0 else s.time.tb1)

/-- TB1 in nanoseconds. -/
def State.tb1Ns (s : State) : Nat := nsOf s.time.tb1

/-- The bell period in ns. -/
def State.period (s : State) : Nat := max 1 (s.obj Obj.bellPeriod)

/-! ### Interrupts, alerts, events (18 R552, 03 R73, 17 R529, R530) -/

/-- Fire an MSI-X vector while the link is up: at most once per bell. -/
def State.interrupt (s : State) (fn vec : Nat) : State :=
  if s.host.link != .up || decide (s.host.numVfs < fn) || s.host.fired.contains (fn, vec) then s
  else { s with host := { s.host with fired := s.host.fired ++ [(fn, vec)] } }

/-- The binding of VF v in force: enabled, operator class, pitch (18 R551, R576). -/
def State.vfBindingOf (s : State) (v : Nat) : Bool × Bool × Nat :=
  let w := s.obj (Obj.vfBinding (v - 1))
  (bit w 0, bit w 1, bits w 16 12)

/-- Functions that hear of a new event record: PF0 by vector 0 and operator VFs by vector 1. -/
def State.eventInterrupts (s : State) : State :=
  (upTo 64).foldl (fun s i =>
      if (s.vfBindingOf (i + 1)).1 && (s.vfBindingOf (i + 1)).2.1 then s.interrupt (i + 1) 1 else s)
    (s.interrupt 0 0)

/-- ALERT_N is asserted: a condition is held and the pin is valid (03 R73, R88). -/
def State.alertN (s : State) : Bool := s.power.mgmtReady && !s.power.alerts.isEmpty

/-- Hold an alert condition. -/
def State.holdAlert (s : State) (a : Alert) : State :=
  let t := if s.power.alerts.contains a then s
    else { s with power := { s.power with alerts := s.power.alerts ++ [a] } }
  if !s.alertN && t.alertN then t.interrupt 0 1 else t

/-- An alert condition is no longer held. -/
def State.dropAlert (s : State) (a : Alert) : State :=
  { s with power := { s.power with alerts := s.power.alerts.filter (· != a) } }

/-- The bell number an event or record carries: 0 while the die is not running. -/
def State.bellNow (s : State) : Nat := if s.dieRunning then s.time.bell else 0

/-- A record of the same class, block, index and subindex was written in this bell (17 R530). -/
def State.eventMerges (s : State) (cls block index sub : Nat) : Bool :=
  s.dieRunning && s.dict.events.any fun e =>
    e.2.cls == cls && e.2.block == block && e.2.index == index && e.2.sub == sub
      && e.2.rung == s.time.rung && e.2.bell == s.time.bell

/-- Write a record at event_head; a full ring first drops its oldest unread record (17 R529). -/
def State.writeEvent (s : State) (e : EventRec) : State :=
  let full := (s.dict.head + 1) % 4096 == s.dict.tail
  let s := if full then
      ({ s with dict := { s.dict with tail := (s.dict.tail + 1) % 4096 } } : State).bump Obj.eventLost
    else s
  { s with dict := { s.dict with
      events := Tbl.set s.dict.events s.dict.head e
      head := (s.dict.head + 1) % 4096 } }

/-- Raise an event (17 R529, R530): a masked class writes none, a repeat within the bell is merged. -/
def State.event (s : State) (cls block index sub arg : Nat) : State :=
  if !bit (s.obj Obj.eventMask) cls then s
  else if s.eventMerges cls block index sub then s.bump Obj.eventMerged
  else (s.writeEvent { cls, block, index, sub, bell := s.bellNow, arg, time := s.netNs
                       rung := s.time.rung }).eventInterrupts

/-- Raise an event that reports an object: its arg is the object's word after the event. -/
def State.eventObj (s : State) (cls block : Nat) (o : Obj) : State :=
  s.event cls block (o.key / 256) (o.key % 256) (s.obj o % 2 ^ 64)

/-- Raise an event that reports an object computed from the state, its word as given. -/
def State.eventAt (s : State) (cls block : Nat) (o : Obj) (arg : Nat) : State :=
  s.event cls block (o.key / 256) (o.key % 256) (arg % 2 ^ 64)

/-- The block field for the module as a whole (03 R94). -/
def moduleBlock : Nat := 0xFFFF

/-! ### Fault capsule (03 R94) -/

/-- Remove the first entry that meets a test. -/
def removeFirst {α : Type} (p : α → Bool) : List α → List α
  | [] => []
  | x :: xs => if p x then xs else x :: removeFirst p xs

/-- Place an entry, oldest first: at most 64 pinned, at most 256 in all. -/
def capsulePlace (es : List CapsuleEntry) (e : CapsuleEntry) : List CapsuleEntry :=
  if e.pinned && decide (64 ≤ (es.filter (·.pinned)).length) then removeFirst (·.pinned) es ++ [e]
  else if es.length < 256 then es ++ [e]
  else removeFirst (!·.pinned) es ++ [e]

/-- Write a fault capsule entry. Its code and its detail record are not stated for any class: they are
free values (log 6). -/
def State.capsule (s : State) (cls : Nat) (pinned : Bool) (block : Nat) : State :=
  let code := s.drawn % 2 ^ 16
  let s := s.draw
  let detail := s.drawn % 2 ^ 1792
  let s := s.draw
  { s with power := { s.power with
      capsule := capsulePlace s.power.capsule
        { seq := s.power.capsuleNext, cls, pinned, block, code, detail
          tb1 := time80 1 s.tb1Ns
          tb0 := if s.time.tb0Set then time80 0 (nsOf s.time.tb0) else 0
          bell := s.bellNow % 2 ^ 32 }
      capsuleNext := (s.power.capsuleNext + 1) % 2 ^ 16 } }

/-! ### Opening tally (15 R473 to R475) -/

/-- The shed credit: the highest module power of the last shed_bells bells less that of the bell just
ended. -/
def State.shedCredit (s : State) : Nat :=
  (s.warden.module.take (s.obj Obj.shedBells)).foldl max 0 - s.warden.module.headD 0

/-- What the tally of this bell still admits, mW. -/
def State.tallyRoom (s : State) : Nat :=
  s.obj Obj.tallyW + s.shedCredit - s.warden.wakes - s.warden.overdraft - s.warden.spent

/-- A step is admitted: it fits, or it is larger than the whole tally and nothing else was admitted. -/
def State.tallyAdmits (s : State) (mw : Nat) : Bool :=
  decide (mw ≤ s.tallyRoom) || (s.warden.spent == 0 && decide (s.obj Obj.tallyW < mw))

/-- A declared step asks for the tally: whether it is admitted now. A step behind a waiting one waits. -/
def State.askTally (s : State) (x : LoadStep) (mw : Nat) : State × Bool :=
  let w := s.warden
  if (w.queue.headD x == x) && s.tallyAdmits mw then
    ({ s with warden := { w with queue := w.queue.erase x, spent := w.spent + mw } }, true)
  else ({ s with warden := { w with queue := if w.queue.contains x then w.queue else w.queue ++ [x] } }, false)

/-- Waiting steps that meet a test are given up. -/
def State.dropSteps (s : State) (p : LoadStep → Bool) : State :=
  { s with warden := { s.warden with queue := s.warden.queue.filter fun x => !p x } }

/-- A spare lane wakes: 0.2 W, which never waits. -/
def State.wakeTally (s : State) : State := { s with warden := { s.warden with wakes := s.warden.wakes + 200 } }

/-- A stall is at thermal level 2: arrays are cut, tanks stay at 0, background work holds (15 R476). -/
def State.limited (s : State) : Bool := s.warden.levels.any fun e => e.2 == 2

/-- A TB1 time in ns that comes within this bell. -/
def State.comesNow (s : State) (ns : Nat) : Bool := decide (ns < s.tb1Ns + s.period)

/-- Identity of the calibration table last loaded; 0 with none. -/
def State.tableNow (s : State) : Nat := ((s.host.tables.getLast?).map (·.identity)).getD 0

/-- The loaded calibration tables are applied by an engine or a lane (18 R562). -/
def State.tablesApplied (s : State) : State :=
  { s with host := { s.host with tables := s.host.tables.map fun x => { x with applied := true } } }

/-! ### Folding over numbered things -/

/-- Apply a state change for each number of a list. -/
def State.each (s : State) (xs : List Nat) (f : State → Nat → State) : State := xs.foldl f s

/-- Apply a change when a condition holds. -/
def State.when (s : State) (c : Bool) (f : State → State) : State := if c then f s else s

end Sys2Proof.Machine
end

