-- ==== Sys2Proof/Machine/Counters.lean ====
section
/-! DEFINITION. The programmable counters of the 338 blocks (16 R486 to R493): what an event adds, and to
which counters. -/

namespace Sys2Proof.Machine

/-- What an event carries for the filters (16 R492, R493). -/
structure EventAttrs where
  /-- Bit of the privilege term: 0 vendor, 1 owner, 2 operator, 3 tenant. -/
  privilege : Option Nat := none
  pitch : Option Nat := none
  /-- Masters: (kind, value). -/
  masters : List (Nat × Nat) := []
  address : Option Nat := none

/-- Privilege of a pitch: owner for pitch 0, tenant for any other (16 R493). -/
def pitchPrivilege (p : Nat) : Nat := if p = 0 then 1 else 3

/-- Attributes of a frame (16 R493). -/
def Frame.attrs (f : Frame) (inPort : Option Nat) : EventAttrs :=
  { privilege := some (pitchPrivilege f.pitch), pitch := some f.pitch
    masters := (0, f.source) :: match inPort with
      | some p => [(1, p)]
      | none => [] }

/-- Attributes of firmware's, custody's and the ledger clerk's accesses at an address. -/
def firmwareAttrs (a : Nat) : EventAttrs := { privilege := some 1, pitch := some 0, address := some a }

/-- The event with an address. -/
def EventAttrs.at (e : EventAttrs) (a : Nat) : EventAttrs := { e with address := some a }

/-- Default of a filter: every privilege, all terms off (16 R505). -/
def filterDefault : Nat := 0xF

/-- Every enabled term of a filter matches (16 R492). -/
def filterMatches (w : Nat) (e : EventAttrs) : Bool :=
  (match e.privilege with
    | some p => bit w p
    | none => bits w 0 4 == 0xF)
  && (!bit w 4 || e.pitch == some (bits w 5 12))
  && (!bit w 19 || e.masters.any fun m =>
        m.1 == bits w 17 2 && m.2 &&& bits w 40 20 == bits w 20 20 &&& bits w 40 20)
  && (!bit w 60 || match e.address with
        | some a => decide (bits w 64 48 ≤ a) && decide (a < bits w 112 48)
        | none => false)

/-- A counter. -/
def State.counter (s : State) (b i : Nat) : Counter := Tbl.get s.ledger.counters (8 * b + i) {}
def State.setCounter (s : State) (b i : Nat) (c : Counter) : State :=
  { s with ledger := { s.ledger with counters := Tbl.set s.ledger.counters (8 * b + i) c } }

/-- The counter before chains into this one (16 R487, R488). -/
def State.chainHigh (s : State) (b i : Nat) : Bool :=
  i != 0 && bit (s.counter b (i - 1)).control 13

/-- Filter `f` of a block. -/
def State.filterOf (s : State) (b f : Nat) : Nat := Tbl.get s.ledger.filters (2 * b + f) filterDefault

/-- A counter adds; wraps go to the next one of a chain, or set overflowed (16 R488). `fuel` bounds the
length of a chain. -/
def State.addCounter (s : State) (b i w : Nat) : Nat → State
  | 0 => s
  | fuel + 1 =>
    let c := s.counter b i
    let n := c.count + w
    let wraps := n / 2 ^ 48
    let chained := bit c.control 13 && decide (i < 7)
    let s := s.setCounter b i { c with
      count := n % 2 ^ 48, overflowed := c.overflowed || (wraps != 0 && !chained) }
    if wraps = 0 || !chained then s else s.addCounter b (i + 1) wraps fuel

/-- The counter counts an event with these attributes. -/
def State.counts (s : State) (b i ev : Nat) (c : Counter) (e : EventAttrs) : Bool :=
  bit c.control 12 && bits c.control 0 12 == ev && !s.chainHigh b i
    && (match bits c.control 15 2 with
        | 0 => true
        | n => filterMatches (s.filterOf b (n - 1)) e)

/-- An event occurs in a block with a weight (16 R487). -/
def State.count (s : State) (b ev w : Nat) (e : EventAttrs := {}) : State :=
  (s.ledger.counters.filter fun c => c.1 / 8 == b).foldl (fun s c =>
    if s.counts b (c.1 % 8) ev c.2 e then s.addCounter b (c.1 % 8) w 8 else s) s

/-- An event occurs in every block. -/
def State.countAll (s : State) (ev w : Nat) : State :=
  (s.ledger.counters.map fun c => c.1 / 8).eraseDups.foldl (fun s b => s.count b ev w) s

/-- Counter blocks other than stalls (16 R486). -/
def blockChannel (c : Nat) : Nat := 64 + c
def blockEngine (e : Nat) : Nat := 192 + e
def blockTx (t : Nat) : Nat := 208 + t
def blockRx (t : Nat) : Nat := 272 + t
def blockWarden : Nat := 336
def blockHost : Nat := 337

/-- A frame is dropped or discarded at a stall, a case of 01 R22. -/
def State.dropped (s : State) (t : Nat) (f : Frame) (inPort : Option Nat := none) : State :=
  s.count t 0x105 1 (f.attrs inPort)

/-- An instruction of a run that is sampled issues at a stall: the window of isample_period instructions goes
on, or the next one begins (16 R502). -/
def State.windowCount (s : State) (t run : Nat) : State :=
  if s.flag Obj.isampleEnable && bit (s.obj Obj.isampleRuns) run then
    let (n, begun, taken) := Tbl.get s.ledger.windows t (0, 0, 0)
    let n' := if s.obj Obj.isamplePeriod ≤ n + 1 then 0 else n + 1
    { s with ledger := { s.ledger with
        windows := Tbl.set s.ledger.windows t (n', (if n = 0 then begun + 1 else begun), taken) } }
  else s

/-- Count bytes read from or written to host memory (16 R491, 18 R576). -/
def State.countHost (s : State) (n : Nat) (wr : Bool) (e : EventAttrs) : State :=
  let s := s.bump (if wr then Obj.dmaWriteBytes else Obj.dmaReadBytes) n
  s.count blockHost (if wr then 0x601 else 0x600) n e

end Sys2Proof.Machine
end

