-- ==== Sys2Proof/Machine/Fp.lean ====
section
/-! DEFINITION. Binary floating point (09 R284, R286, R288, R291; 11 R360): values, formats, rounding and
the exact operations with one rounding. -/

namespace Sys2Proof.Machine

/-- A floating-point value: `fin neg m e` is ± m × 2ᵉ. -/
inductive FVal where
  | nan
  | inf (neg : Bool)
  | fin (neg : Bool) (m : Nat) (e : Int)
  deriving DecidableEq, Repr

/-- What the highest exponent of a format encodes. -/
inductive FpSpecial where
  /-- Inf and NaN, as IEEE 754. -/
  | ieee
  /-- NaN in the one pattern of all ones (fp8 E4M3). -/
  | nanOnly
  /-- Ordinary numbers (MX element types). -/
  | numbers
  deriving DecidableEq, Repr

/-- A floating-point format. -/
structure FpFmt where
  ebits : Nat
  mbits : Nat
  bias : Nat
  special : FpSpecial

def fmtFp32 : FpFmt := ⟨8, 23, 127, .ieee⟩
def fmtBf16 : FpFmt := ⟨8, 7, 127, .ieee⟩
def fmtFp16 : FpFmt := ⟨5, 10, 15, .ieee⟩
def fmtE4m3 : FpFmt := ⟨4, 3, 7, .nanOnly⟩
def fmtE5m2 : FpFmt := ⟨5, 2, 15, .ieee⟩
def fmtE2m3 : FpFmt := ⟨2, 3, 1, .numbers⟩
def fmtE3m2 : FpFmt := ⟨3, 2, 3, .numbers⟩
def fmtE2m1 : FpFmt := ⟨2, 1, 1, .numbers⟩

/-- Width of a format in bits. -/
def FpFmt.width (f : FpFmt) : Nat := 1 + f.ebits + f.mbits

/-- Exponent of the least subnormal. -/
def FpFmt.emin (f : FpFmt) : Int := 1 - Int.ofNat f.bias - Int.ofNat f.mbits

/-- Largest finite magnitude: m × 2ᵉ. -/
def FpFmt.maxFin (f : FpFmt) : Nat × Int :=
  let top := Int.ofNat (2 ^ f.ebits) - Int.ofNat f.bias - Int.ofNat f.mbits
  match f.special with
  | .ieee => (2 ^ (f.mbits + 1) - 1, top - 2)
  | .nanOnly => (2 ^ (f.mbits + 1) - 2, top - 1)
  | .numbers => (2 ^ (f.mbits + 1) - 1, top - 1)

/-- Exponent of the largest normal value (09 R293: emax). -/
def FpFmt.emax (f : FpFmt) : Int := f.maxFin.2 + Int.ofNat f.mbits

/-- The value of a pattern. -/
def FpFmt.decode (f : FpFmt) (x : Nat) : FVal :=
  let neg := bit x (f.ebits + f.mbits)
  let ex := bits x f.mbits f.ebits
  let m := bits x 0 f.mbits
  if f.special == .ieee && ex == 2 ^ f.ebits - 1 then (if m = 0 then .inf neg else .nan)
  else if f.special == .nanOnly && ex == 2 ^ f.ebits - 1 && m == 2 ^ f.mbits - 1 then .nan
  else if ex = 0 then .fin neg m f.emin
  else .fin neg (2 ^ f.mbits + m) (f.emin + Int.ofNat (ex - 1))

/-- m × 2ᵏ for k ≥ 0; for a negative k the bits shifted out are lost. -/
def shiftInt (m : Nat) (k : Int) : Nat := if 0 ≤ k then m <<< k.toNat else m >>> (-k).toNat

/-- m₁ × 2^e₁ ≤ m₂ × 2^e₂. -/
def magLe (m1 : Nat) (e1 : Int) (m2 : Nat) (e2 : Int) : Bool :=
  decide (shiftInt m1 (e1 - min e1 e2) ≤ shiftInt m2 (e2 - min e1 e2))

/-- How a conversion rounds. -/
inductive Rounding where
  | nearest
  /-- Away from zero when the top 16 discarded bits exceed the given 16 random bits (09 R292). -/
  | stochastic (r : Nat)
  | truncate
  deriving DecidableEq, Repr

/-- Round a quotient by 2^sh. -/
def roundShift (r : Rounding) (m sh : Nat) : Nat :=
  let q := m >>> sh
  let rem := m % 2 ^ sh
  match r with
  | .truncate => q
  | .stochastic x => if x < (rem <<< 16) >>> sh then q + 1 else q
  | .nearest => if 2 ^ sh < 2 * rem || (2 * rem == 2 ^ sh && sh != 0 && q % 2 == 1) then q + 1 else q

/-- Number of significant bits. -/
def bitLength (m : Nat) : Nat := if m = 0 then 0 else m.log2 + 1

/-- Round m × 2ᵉ to `p` bits with no bit below 2^emin: the new m and e, and whether bits were lost. -/
def quantise (r : Rounding) (p : Nat) (emin : Int) (m : Nat) (e : Int) : Nat × Int × Bool :=
  let q := max (e + Int.ofNat (bitLength m) - Int.ofNat p) emin
  if q ≤ e then (m <<< (e - q).toNat, q, false)
  else
    let sh := (q - e).toNat
    (roundShift r m sh, q, m % 2 ^ sh != 0)

/-- The pattern of a magnitude that the format holds. -/
def FpFmt.pack (f : FpFmt) (neg : Bool) (m : Nat) (e : Int) : Nat :=
  let body :=
    if m = 0 then 0
    else
      let l := bitLength m
      let top := e + Int.ofNat l - 1
      let least := f.emin + Int.ofNat f.mbits
      if top < least then shiftInt m (e - f.emin)
      else ((top - least + 1).toNat <<< f.mbits)
        + (shiftInt m (Int.ofNat f.mbits - (Int.ofNat l - 1)) - 2 ^ f.mbits)
  body + (if neg then 2 ^ (f.ebits + f.mbits) else 0)

/-- Pattern of ± the largest finite value. -/
def FpFmt.maxPattern (f : FpFmt) (neg : Bool) : Nat := f.pack neg f.maxFin.1 f.maxFin.2

/-- Pattern of ±Inf. -/
def FpFmt.infPattern (f : FpFmt) (neg : Bool) : Nat :=
  ((2 ^ f.ebits - 1) <<< f.mbits) + (if neg then 2 ^ (f.ebits + f.mbits) else 0)

/-- The NaN pattern that results carry (09 R291, 11 R360). -/
def FpFmt.nanPattern (f : FpFmt) : Nat :=
  match f.special with
  | .ieee => ((2 ^ f.ebits - 1) <<< f.mbits) + 2 ^ (f.mbits - 1)
  | .nanOnly => 2 ^ (f.ebits + f.mbits) - 1
  | .numbers => 0

/-- A conversion's result: pattern, clamped to a finite value, is NaN. -/
structure Encoded where
  pattern : Nat
  clamped : Bool
  isNan : Bool
  deriving DecidableEq, Repr

/-- Convert a value to a format; an overflow is clamped if `clamp` is set or the format has no Inf. -/
def FpFmt.encode (f : FpFmt) (r : Rounding) (clamp : Bool) : FVal → Encoded
  | .nan => ⟨f.nanPattern, false, true⟩
  | .inf neg =>
    if clamp || f.special != .ieee then ⟨f.maxPattern neg, true, false⟩
    else ⟨f.infPattern neg, false, false⟩
  | .fin neg m e =>
    let (m', e', _) := quantise r (f.mbits + 1) f.emin m e
    if magLe m' e' f.maxFin.1 f.maxFin.2 then ⟨f.pack neg m' e', false, false⟩
    else if clamp || f.special != .ieee then ⟨f.maxPattern neg, true, false⟩
    else if r == .truncate then ⟨f.maxPattern neg, false, false⟩
    else ⟨f.infPattern neg, false, false⟩

/-- The fp32 pattern nearest a value; NaN is 0x7FC0_0000. -/
def toFp32 (v : FVal) : BitVec 32 := BitVec.ofNat 32 (fmtFp32.encode .nearest false v).pattern

/-- The value of an fp32 pattern. -/
def ofFp32 (x : BitVec 32) : FVal := fmtFp32.decode x.toNat

/-! ### Exact operations -/

/-- Signed integer of a sign and a magnitude. -/
def signed (neg : Bool) (m : Nat) : Int := if neg then -Int.ofNat m else Int.ofNat m

/-- −x. -/
def FVal.neg : FVal → FVal
  | .nan => .nan
  | .inf n => .inf (!n)
  | .fin n m e => .fin (!n) m e

/-- x + y, exact. -/
def FVal.add : FVal → FVal → FVal
  | .nan, _ => .nan
  | _, .nan => .nan
  | .inf a, .inf b => if a = b then .inf a else .nan
  | .inf a, _ => .inf a
  | _, .inf b => .inf b
  | .fin a m e, .fin b n f =>
    let g := min e f
    let z := signed a (shiftInt m (e - g)) + signed b (shiftInt n (f - g))
    if z = 0 then .fin (a && b) 0 g else .fin (decide (z < 0)) z.natAbs g

/-- x × y, exact. -/
def FVal.mul : FVal → FVal → FVal
  | .nan, _ => .nan
  | _, .nan => .nan
  | .inf a, .inf b => .inf (a != b)
  | .inf a, .fin b n _ => if n = 0 then .nan else .inf (a != b)
  | .fin a m _, .inf b => if m = 0 then .nan else .inf (a != b)
  | .fin a m e, .fin b n f => .fin (a != b) (m * n) (e + f)

/-- x / y: the quotient with a last bit that stands for all bits below it. -/
def FVal.div : FVal → FVal → FVal
  | .nan, _ => .nan
  | _, .nan => .nan
  | .inf _, .inf _ => .nan
  | .inf a, .fin b _ _ => .inf (a != b)
  | .fin a _ _, .inf b => .fin (a != b) 0 0
  | .fin a m e, .fin b n f =>
    if n = 0 then (if m = 0 then .nan else .inf (a != b))
    else
      let k := 64
      let q := (m <<< k) / n
      .fin (a != b) (2 * q + b2n ((m <<< k) % n != 0)) (e - f - Int.ofNat k - 1)

/-- The integer square root of a number below 4^fuel. -/
def isqrt (x : Nat) : Nat → Nat → Nat
  | 0, r => r
  | fuel + 1, r =>
    let r' := r + 2 ^ fuel
    isqrt x fuel (if r' * r' ≤ x then r' else r)

/-- √x, with a last bit that stands for all bits below it. -/
def FVal.sqrt : FVal → FVal
  | .nan => .nan
  | .inf neg => if neg then .nan else .inf false
  | .fin neg m e =>
    if m = 0 then .fin neg 0 0
    else if neg then .nan
    else
      let odd := e % 2 != 0
      let m' := (if odd then 2 * m else m) <<< 64
      let e' := if odd then e - 1 else e
      let r := isqrt m' 48 0
      .fin false (2 * r + b2n (r * r != m')) (e' / 2 - 33)

/-- x < y; false with a NaN. -/
def FVal.lt (x y : FVal) : Bool :=
  match x, y with
  | .nan, _ => false
  | _, .nan => false
  | .inf a, .inf b => a && !b
  | .inf a, .fin _ _ _ => a
  | .fin _ _ _, .inf b => !b
  | .fin a m e, .fin b n f =>
    let g := min e f
    decide (signed a (shiftInt m (e - g)) < signed b (shiftInt n (f - g)))

/-- x = y as numbers; false with a NaN. -/
def FVal.eqv (x y : FVal) : Bool :=
  x != .nan && y != .nan && !x.lt y && !y.lt x

/-- The sign of a value. -/
def FVal.isNeg : FVal → Bool
  | .nan => false
  | .inf n => n
  | .fin n _ _ => n

/-- IEEE 754-2019 minimum: NaN propagates, −0 < +0 (09 R287). -/
def FVal.min (x y : FVal) : FVal :=
  if x = .nan || y = .nan then .nan
  else if x.lt y then x
  else if y.lt x then y
  else if x.isNeg then x
  else y

/-- IEEE 754-2019 maximum. -/
def FVal.max (x y : FVal) : FVal :=
  if x = .nan || y = .nan then .nan
  else if x.lt y then y
  else if y.lt x then x
  else if x.isNeg then y
  else x

/-- An integer as a value. -/
def FVal.ofInt (x : Int) : FVal := .fin (decide (x < 0)) x.natAbs 0

/-- The integer part of a magnitude, toward zero. -/
def truncMag (m : Nat) (e : Int) : Nat := shiftInt m e

/-- To an integer toward zero, saturating to a range; NaN gives 0 (11 R361, R363). -/
def FVal.toIntSat (lo hi : Int) : FVal → Int
  | .nan => 0
  | .inf neg => if neg then lo else hi
  | .fin neg m e =>
    -- a magnitude far above every range need not be shifted out
    if 128 < Int.ofNat (bitLength m) + e then (if neg then lo else hi)
    else clampInt lo hi (signed neg (truncMag m e))

/-! ### fp32 lanes (11 R360) -/

def fadd (x y : BitVec 32) : BitVec 32 := toFp32 ((ofFp32 x).add (ofFp32 y))
def fsub (x y : BitVec 32) : BitVec 32 := toFp32 ((ofFp32 x).add (ofFp32 y).neg)
def fmul (x y : BitVec 32) : BitVec 32 := toFp32 ((ofFp32 x).mul (ofFp32 y))
def ffma (x y z : BitVec 32) : BitVec 32 := toFp32 (((ofFp32 x).mul (ofFp32 y)).add (ofFp32 z))
def ffnma (x y z : BitVec 32) : BitVec 32 := toFp32 ((((ofFp32 x).mul (ofFp32 y)).neg).add (ofFp32 z))
def fdiv (x y : BitVec 32) : BitVec 32 := toFp32 ((ofFp32 x).div (ofFp32 y))
def fsqrt (x : BitVec 32) : BitVec 32 := toFp32 (ofFp32 x).sqrt
def fmin (x y : BitVec 32) : BitVec 32 := toFp32 ((ofFp32 x).min (ofFp32 y))
def fmax (x y : BitVec 32) : BitVec 32 := toFp32 ((ofFp32 x).max (ofFp32 y))
def fabs (x : BitVec 32) : BitVec 32 := x &&& 0x7FFFFFFF#32
def fneg (x : BitVec 32) : BitVec 32 := x ^^^ 0x80000000#32

/-- A value within one unit in the last place of `v`, chosen by a free number (11 R363: VRCP, VRSQRT).
Exact special results are not free. -/
def withinUlp (v : FVal) (free : Nat) : BitVec 32 :=
  match v with
  | .nan => toFp32 .nan
  | .inf n => toFp32 (.inf n)
  | .fin n m e =>
    if m = 0 then toFp32 (.fin n 0 0)
    else
      let t := (fmtFp32.encode .truncate false (.fin n m e)).pattern
      let (_, _, lost) := quantise .truncate 24 fmtFp32.emin m e
      if lost then BitVec.ofNat 32 (t + free % 2) else BitVec.ofNat 32 (t + free % 3 - 1)

end Sys2Proof.Machine
end

