-- ==== Sys2Proof/Machine/Operands.lean ====
section
/-! DEFINITION. The data formats of tills, runner units and update engines (09 R274, R275, R284 to R293):
units, elements, conversion into an accumulator, the ops, and conversion of an accumulator to an output
format. -/

namespace Sys2Proof.Machine

/-! ### Format codes (09 R285) -/

def isMx (c : Nat) : Bool := decide (5 ≤ c) && decide (c ≤ 8)
def isInt (c : Nat) : Bool := decide (9 ≤ c) && decide (c ≤ 11)

/-- Elements of a unit. -/
def unitElems (c : Nat) : Nat := if isMx c then 256 else 1

/-- Bytes of a unit. -/
def unitBytesOf (c : Nat) : Nat := [4, 2, 2, 1, 1, 264, 200, 136, 264, 4, 8, 4].getD c 1

/-- Bytes of `n` elements in a format. -/
def dataBytes (c n : Nat) : Nat := n / unitElems c * unitBytesOf c

/-- Accumulator width in bytes. -/
def accWidth (c : Nat) (exact : Bool) : Nat := if exact then 12 else if isInt c then 8 else 4

/-- The format has an exact mode. -/
def hasExact (c : Nat) : Bool := decide (5 ≤ c) && decide (c ≤ 11)

/-- out_format permitted for in_format. -/
def outPermitted (i o : Nat) : Bool :=
  if i ≤ 8 then decide (o ≤ 8)
  else if i = 9 then o == 9 || o == 10
  else if i = 10 then o == 10
  else if i = 11 then o == 11 || o == 10
  else false

/-- Floating-point format of the elements of a format code; MXINT8 and integers have none (09 R285,
R286). -/
def elemFmt (c variant : Nat) : Option FpFmt :=
  match c with
  | 0 => some fmtFp32
  | 1 => some fmtBf16
  | 2 => some fmtFp16
  | 3 => some fmtE4m3
  | 4 => some fmtE5m2
  | 5 => some (if variant = 0 then fmtE4m3 else fmtE5m2)
  | 6 => some (if variant = 0 then fmtE2m3 else fmtE3m2)
  | 7 => some fmtE2m1
  | _ => none

/-- Bits of an element in the packed area of a block group (09 R286). -/
def packedBits (c : Nat) : Nat := if c = 6 then 6 else if c = 7 then 4 else 8

/-! ### Elements in -/

/-- One element of a contribution: a value, or an integer. -/
inductive Elem where
  | fp (v : FVal)
  | int (z : Int)
  deriving DecidableEq, Repr

/-- Multiply by a power of two. -/
def FVal.scale (v : FVal) (k : Int) : FVal :=
  match v with
  | .fin n m e => .fin n m (e + k)
  | .nan => .nan
  | .inf n => .inf n

/-- An MX element before its scale (09 R286). -/
def mxElem (c variant x : Nat) : FVal :=
  match elemFmt c variant with
  | some f => f.decode x
  | none => (FVal.ofInt (toSigned 8 x)).scale (-6)

/-- An MX element times its block scale; scale 255 is NaN (09 R286, R288). -/
def mxScaled (v : FVal) (s : Nat) : FVal := if s = 255 then .nan else v.scale (Int.ofNat s - 127)

/-- The elements of one block group. -/
def mxUnit (c variant : Nat) (unit : List Byte) : List Elem :=
  let w := packedBits c
  let packed := leNat (unit.drop 8)
  (upTo 256).map fun i =>
    .fp (mxScaled (mxElem c variant (bits packed (w * i) w)) (unit.getD (i / 32) 0).toNat)

/-- One element of a non-MX format. -/
def plainElem (c : Nat) (bs : List Byte) : Elem :=
  match c with
  | 9 => .int (toSigned 32 (leNat bs))
  | 10 => .int (toSigned 64 (leNat bs))
  | 11 => .int (Int.ofNat (leNat bs))
  | _ => match elemFmt c 0 with
    | some f => .fp (f.decode (leNat bs))
    | none => .fp .nan

/-- The elements of a frame's data. -/
def elementsOf (c variant : Nat) (data : List Byte) : List Elem :=
  let units := pieces (unitBytesOf c) (data.length / unitBytesOf c) data
  if isMx c then units.flatMap (mxUnit c variant) else units.map (plainElem c)

/-- Scale codes of a frame's data, one per block. -/
def scalesOf (c : Nat) (data : List Byte) : List Nat :=
  if isMx c then
    (pieces (unitBytesOf c) (data.length / unitBytesOf c) data).flatMap fun u =>
      (u.take 8).map fun b => b.toNat
  else []

/-! ### Accumulation (09 R287 to R290) -/

/-- How a group's elements are accumulated. -/
structure AccMode where
  inFormat : Nat
  outFormat : Nat
  op : Nat
  exact : Bool
  q : Int

/-- Flags that an accumulation raises. -/
structure AccFlags where
  inexact : Bool := false
  saturated : Bool := false
  /-- NaN or Inf in exact mode: cause 11. -/
  bad : Bool := false
  deriving DecidableEq, Repr

def AccFlags.or (a b : AccFlags) : AccFlags :=
  { inexact := a.inexact || b.inexact, saturated := a.saturated || b.saturated, bad := a.bad || b.bad }

/-- Range of an integer format. -/
def intRange (c : Nat) : Int × Int :=
  match c with
  | 9 => (-2 ^ 31, 2 ^ 31 - 1)
  | 11 => (0, 2 ^ 32 - 1)
  | _ => (-2 ^ 63, 2 ^ 63 - 1)

/-- Wrap to the accumulator of an integer format: int64, or uint64 for uint32. -/
def wrap64 (c : Nat) (z : Int) : Int :=
  if c = 11 then z % 2 ^ 64 else toSigned 64 (ofSigned 64 z)

/-- The largest magnitude of an exact accumulator. -/
def exactTop : Int := 2 ^ 95 - 1

/-- An element as an exact accumulator's addend, bits below 2^q cut off (09 R290). -/
def exactAddend (q : Int) : Elem → Option (Int × Bool)
  | .int z => some (z, false)
  | .fp .nan => none
  | .fp (.inf _) => none
  | .fp (.fin n m e) =>
    let t := shiftInt m (e - q)
    some (signed n t, e < q && shiftInt t (q - e) != m)

/-- Add to an exact accumulator. -/
def exactAdd (a z : Int) : Int × Bool :=
  let x := clampInt (-exactTop) exactTop (a + z)
  (x, x != a + z)

/-- One element into an fp32 accumulator. -/
def fpAccumulate (op : Nat) (a : BitVec 32) (v : FVal) : BitVec 32 :=
  let x := toFp32 v
  match op with
  | 2 => fmin a x
  | 3 => fmax a x
  | _ => fadd a x

/-- One element into an integer accumulator. -/
def intAccumulate (m : AccMode) (a z : Int) : Int × Bool :=
  match m.op with
  | 1 =>
    let r := intRange m.outFormat
    let x := clampInt r.1 r.2 (a + z)
    (x, x != a + z)
  | 2 => (min a z, false)
  | 3 => (max a z, false)
  | _ => (wrap64 m.inFormat (a + z), false)

/-- One element into an accumulator that may not have started (09 R289). -/
def accumulate (m : AccMode) (a : Option Acc) (x : Elem) : Option Acc × AccFlags :=
  if m.exact then
    match exactAddend m.q x with
    | none => (a, { bad := true })
    | some (z, lost) =>
      let old := match a with
        | some (.int y) => y
        | _ => 0
      let (r, sat) := exactAdd old z
      (some (.int r), { inexact := lost, saturated := sat })
  else
    match x, a with
    | .fp v, some (.fp y) => (some (.fp (fpAccumulate m.op y v)), {})
    | .fp v, _ => (some (.fp (toFp32 v)), {})
    | .int z, some (.int y) =>
      let (r, sat) := intAccumulate m y z
      (some (.int r), { saturated := sat })
    | .int z, _ => (some (.int z), {})

/-- Elements into a table of accumulators, from an offset. -/
def accumulateAll (m : AccMode) : Tbl Acc → Nat → List Elem → Tbl Acc × AccFlags
  | t, _, [] => (t, {})
  | t, i, x :: xs =>
    let (a, f) := accumulate m (Tbl.find t i) x
    let t := match a with
      | some a => Tbl.set t i a
      | none => t
    let (t, g) := accumulateAll m t (i + 1) xs
    (t, f.or g)

/-- Bytes of an accumulator element as it stands in its buffer. -/
def accBytes (w : Nat) : Acc → List Byte
  | .fp x => leBytes w x.toNat
  | .int z => leBytes w (ofSigned (8 * w) z)

/-! ### Output conversion (09 R291 to R293) -/

/-- How outputs are converted. -/
structure OutMode where
  outFormat : Nat
  op : Nat
  exact : Bool
  q : Int
  stochastic : Bool
  rescale : Nat
  variant : Nat
  headroom : Nat

/-- Bytes of outputs, and what the conversion reports. -/
structure Converted where
  bytes : List Byte := []
  saturated : Bool := false
  nan : Bool := false
  deriving DecidableEq, Repr

/-- The value of an accumulator. -/
def accValue (exact : Bool) (q : Int) : Acc → FVal
  | .fp x => ofFp32 x
  | .int z => .fin (decide (z < 0)) z.natAbs (if exact then q else 0)

/-- Rounding of an output: 16 random bits of the till's generator are a free value (log 6). -/
def outRounding (m : OutMode) (free : Nat) : Rounding :=
  if m.stochastic then .stochastic (Config.freeValue free % 65536) else .nearest

/-- An accumulator to an integer output format. -/
def intOutput (m : OutMode) (z : Int) : Nat × Bool :=
  let r := intRange m.outFormat
  let w := 8 * unitBytesOf m.outFormat
  if m.op = 1 then
    let x := clampInt r.1 r.2 z
    (ofSigned w x, x != z)
  else (ofSigned w z, false)

/-- One element to a non-MX output format. -/
def plainOutput (m : OutMode) (free : Nat) (a : Acc) : Converted :=
  let n := unitBytesOf m.outFormat
  match elemFmt m.outFormat 0, a with
  | some f, a =>
    let e := f.encode (outRounding m free) (m.op == 1) (accValue m.exact m.q a)
    { bytes := leBytes n e.pattern, saturated := e.clamped, nan := e.isNan }
  | none, .int z =>
    let (x, s) := intOutput m z
    { bytes := leBytes n x, saturated := s }
  | none, .fp x => { bytes := leBytes n x.toNat }

/-- Largest magnitude of a list of values, none if one is NaN or infinite is reported apart. -/
def magMax (vs : List FVal) : Nat × Int :=
  vs.foldl (fun a v =>
    match v with
    | .fin _ m e => if magLe m e a.1 a.2 then a else (m, e)
    | _ => a) (0, 0)

/-- Exponent of the largest normal value, and the largest value, of an MX element type. -/
def mxTop (c variant : Nat) : Int × Nat × Int :=
  match elemFmt c variant with
  | some f => (f.emax, f.maxFin.1, f.maxFin.2)
  | none => (0, 127, -6)

/-- Scale exponent of a block (09 R293). `input` is the largest input scale exponent of the block. -/
def mxScale (m : OutMode) (input : Int) (vs : List FVal) : Int :=
  let (am, ae) := magMax vs
  let infinite := vs.any fun v => v == .inf false || v == .inf true
  if am = 0 && !infinite then -127
  else
    let (emax, tm, te) := mxTop m.outFormat m.variant
    let lg := ae + Int.ofNat (bitLength am) - 1
    let x : Int := match m.rescale with
      | 0 => input + Int.ofNat m.headroom
      | 1 => if infinite then 127 else lg - emax
      | _ => if infinite then 127
        else if magLe am ae tm (te + (lg - emax)) then lg - emax else lg - emax + 1
    clampInt (-127) 127 x

/-- One MX element under a block scale: its code, and whether it was clamped. -/
def mxEncode (m : OutMode) (free : Nat) (x : Int) (v : FVal) : Nat × Bool :=
  match elemFmt m.outFormat m.variant with
  | some f =>
    let e := f.encode (outRounding m free) true (v.scale (-x))
    (e.pattern, e.clamped)
  | none =>
    match v.scale (6 - x) with
    | .fin n a e =>
      let (a', e', _) := quantise (outRounding m free) (bitLength a + 8) 0 a e
      let z := signed n (shiftInt a' e')
      let y := clampInt (-127) 127 z
      (ofSigned 8 y, y != z)
    | .inf n => (ofSigned 8 (if n then -127 else 127), true)
    | .nan => (0, false)

/-- One output block of 32 elements: scale byte, element codes, flags. The codes of a block whose scale is
NaN are not stated: free values (log 6). -/
def mxBlock (m : OutMode) (free : Nat) (input : Int) (vs : List FVal) : Nat × List Nat × Converted :=
  if vs.any (· == .nan) then
    (255, (upTo 32).map fun i => Config.freeValue (free + i) % 2 ^ packedBits m.outFormat, { nan := true })
  else
    let x := mxScale m input vs
    let es := (upTo 32).map fun i => mxEncode m (free + i) x (vs.getD i (.fin false 0 0))
    ((x + 127).toNat, es.map (·.1), { saturated := es.any (·.2) })

/-- Codes packed into one little-endian bit string. -/
def packCodes (w : Nat) : List Nat → Nat
  | [] => 0
  | c :: cs => c % 2 ^ w + 2 ^ w * packCodes w cs

/-- One output block group. `scales` gives the input scale exponents of its eight blocks. -/
def mxGroup (m : OutMode) (free : Nat) (scales : List Int) (vs : List FVal) : Converted :=
  let bs := (upTo 8).map fun b =>
    mxBlock m (free + 32 * b) (scales.getD b (-127)) ((vs.drop (32 * b)).take 32)
  let w := packedBits m.outFormat
  { bytes := bs.map (fun b => BitVec.ofNat 8 b.1) ++ leBytes (32 * w) (packCodes w (bs.flatMap (·.2.1)))
    saturated := bs.any (·.2.2.saturated), nan := bs.any (·.2.2.nan) }

/-- Join the conversions of successive units. -/
def joinConverted (cs : List Converted) : Converted :=
  { bytes := cs.flatMap (·.bytes), saturated := cs.any (·.saturated), nan := cs.any (·.nan) }

/-- Accumulators of elements 0 to n - 1 to the output format. An element that no contribution reached has
no stated value: a free one (log 6). -/
def convertAll (m : OutMode) (free n : Nat) (acc : Tbl Acc) (scales : Tbl Nat) : Converted :=
  let get := fun i => Tbl.get acc i (.fp (BitVec.ofNat 32 (Config.freeValue (free + i))))
  if isMx m.outFormat then
    joinConverted ((upTo (n / 256)).map fun g =>
      mxGroup m (free + 256 * g)
        ((upTo 8).map fun b => Int.ofNat (Tbl.get scales (8 * g + b) 0) - 127)
        ((upTo 256).map fun i => accValue m.exact m.q (get (256 * g + i))))
  else joinConverted ((upTo n).map fun i => plainOutput m (free + i) (get i))

/-! ### Collective data prefix (09 R274) -/

/-- Element offset of a prefix. -/
def prefOffset (p : Nat) : Nat := bits p 0 20

/-- Member index of a prefix. -/
def prefMember (p : Nat) : Nat := bits p 20 10

/-- The prefix of an output. -/
def outPrefix (offset : Nat) : List Byte := leBytes 8 (offset % 2 ^ 20 + 2 ^ 30)

end Sys2Proof.Machine
end

