-- ==== Sys2Proof/Machine/Frames.lean ====
section
/-! DEFINITION. Fabric frames (05 R144, R160, R161): header fields, checks, credit cost, and chunk homes
(01 R23). -/

namespace Sys2Proof.Machine

/-- Flag bits of a header (05 R160), as bits of the flags field. -/
def flagSpine : Nat := 0
def flagFromSpine : Nat := 1
def flagFirst : Nat := 2
def flagLast : Nat := 3
def flagPoisoned : Nat := 4
def flagMirrored : Nat := 5
def flagSampled : Nat := 6

def Frame.spine (f : Frame) : Bool := bit f.flags flagSpine
def Frame.fromSpine (f : Frame) : Bool := bit f.flags flagFromSpine
def Frame.first (f : Frame) : Bool := bit f.flags flagFirst
def Frame.last (f : Frame) : Bool := bit f.flags flagLast
def Frame.poisoned (f : Frame) : Bool := bit f.flags flagPoisoned
def Frame.mirrored (f : Frame) : Bool := bit f.flags flagMirrored

/-- Fields of a received header. -/
def Frame.ofRaw (r : RawFrame) : Frame :=
  let h := r.header.toNat
  { version := bits h 252 4, vc := bits h 249 3, ftype := bits h 244 5, dest := bits h 224 20
    source := bits h 204 20, pitch := bits h 192 12, flow := bits h 176 16, group := bits h 160 16
    seq := bits h 128 32, chunk := bits h 104 24, format := bits h 100 4, op := bits h 96 4
    epoch := bits h 95 1, hop := bits h 92 3, flags := bits h 84 8, length := bits h 68 16
    stamp := bits h 32 36, payload := r.payload }

/-- Header bits [255:32]. -/
def Frame.upper (f : Frame) : Nat :=
  (f.version % 16) <<< 220 ||| (f.vc % 8) <<< 217 ||| (f.ftype % 32) <<< 212 ||| (f.dest % 2 ^ 20) <<< 192
    ||| (f.source % 2 ^ 20) <<< 172 ||| (f.pitch % 4096) <<< 160 ||| (f.flow % 65536) <<< 144
    ||| (f.group % 65536) <<< 128 ||| (f.seq % 2 ^ 32) <<< 96 ||| (f.chunk % 2 ^ 24) <<< 72
    ||| (f.format % 16) <<< 68 ||| (f.op % 16) <<< 64 ||| (f.epoch % 2) <<< 63 ||| (f.hop % 8) <<< 60
    ||| (f.flags % 256) <<< 52 ||| (f.length % 65536) <<< 36 ||| f.stamp % 2 ^ 36

/-- Header check of header bits [255:32], bytes in transmission order (05 R161). -/
def headerCheck (upper : Nat) : Nat := crc32c (beBytes 28 upper)

/-- A frame as sent: header with its check, payload with its check. -/
def Frame.toRaw (f : Frame) : RawFrame :=
  { header := BitVec.ofNat 256 (f.upper * 2 ^ 32 + headerCheck f.upper), payload := f.payload
    check := BitVec.ofNat 32 (if f.payload.isEmpty then 0 else crc32c f.payload) }

/-- The header check of a received frame passes. -/
def rawHeaderOk (r : RawFrame) : Bool :=
  headerCheck (r.header.toNat / 2 ^ 32) == r.header.toNat % 2 ^ 32

/-- The payload is of the header's length and its check passes (05 R144). -/
def rawPayloadOk (r : RawFrame) : Bool :=
  r.payload.length == bits r.header.toNat 68 16
    && (r.payload.isEmpty || crc32c r.payload == r.check.toNat)

/-- Bytes of the payload check: 4 when there is a payload (05 R149). -/
def Frame.c (f : Frame) : Nat := if f.length = 0 then 0 else 4

/-- Header, payload and check: what a policer charges (07 R218). -/
def Frame.charge (f : Frame) : Nat := 32 + f.length + f.c

/-- Cells of a frame, which is its link credit cost (05 R149, 06 R167). -/
def Frame.cells (f : Frame) : Nat := ceilDiv f.charge 256

/-- Bytes of a link unit: tag, header, payload, check (07 R226). -/
def Frame.unitBytes (f : Frame) : Nat := 8 + f.charge

/-- Frame types allowed on a VC (05 R151). -/
def typesOf (vc : Nat) : List Nat :=
  match vc with
  | 0 => [1]
  | 1 => [2]
  | 2 => [1]
  | 3 => [2]
  | 4 => [3, 4, 5, 6]
  | 5 => [7]
  | 6 => [8, 9, 10, 11, 12]
  | 7 => [13]
  | _ => []

/-- Version 1 and a type allowed on its VC (05 R153). -/
def Frame.typeOk (f : Frame) : Bool := f.version == 1 && (typesOf f.vc).contains f.ftype

/-- Number of the payload, little-endian. -/
def Frame.body (f : Frame) : Nat := leNat f.payload

/-- Give a frame a payload. -/
def Frame.withPayload (f : Frame) (bs : List Byte) : Frame := { f with payload := bs, length := bs.length }

/-- The key of a chunk: group, sequence, chunk, most significant byte first (01 R23). -/
def chunkHash (group seq chunk : Nat) : Nat :=
  crc32c (beBytes 9 ((group % 65536) <<< 56 ||| (seq % 2 ^ 32) <<< 24 ||| chunk % 2 ^ 24))

/-- The flow hash of a pinned frame (06 R187). -/
def Frame.flowHash (f : Frame) : Nat :=
  crc32c (beBytes 7 ((f.source % 2 ^ 20) <<< 36 ||| (f.dest % 2 ^ 20) <<< 16 ||| f.flow % 65536))

/-- An entry of the home map (01 R23). -/
def State.homeEntry (s : State) (i : Nat) : Nat := Tbl.get s.custody.home i i

/-- The home stall of a chunk (01 R23). -/
def State.homeOf (s : State) (group seq chunk : Nat) : Nat := s.homeEntry (chunkHash group seq chunk % 64)

/-- home_map as 64 bytes. -/
def State.homeMap (s : State) : Nat := leNat ((upTo 64).map fun i => BitVec.ofNat 8 (s.homeEntry i))

/-- The module's own endpoint as a source with from_spine (05 R160). -/
def State.ownSource (s : State) : Nat := s.obj Obj.pos

/-- The timestamp of a frame the module originates (02 R39). -/
def State.frameStamp (s : State) : Nat := s.netNs % 2 ^ 36

/-- A frame the module originates. -/
def State.newFrame (s : State) (vc ftype : Nat) : Frame :=
  { vc, ftype, source := s.ownSource, flags := setBit 0 flagFromSpine, stamp := s.frameStamp }

end Sys2Proof.Machine
end

