-- ==== Sys2Proof/Machine/Pools.lean ====
section
/-! DEFINITION. The device address map of stalls (11 R341, R342), the interleave (13 R406, R407), and the
buffer pools (06 R204 to R208). -/

namespace Sys2Proof.Machine

/-- Granules of one channel (13 R402). -/
def granules : Nat := 610351

/-- Granules per channel per reserve slot for N channels. -/
def slotGranules (n : Nat) : Nat := ceilDiv granules (n - 1)

/-- Granules per channel in the interleave. -/
def interleaved (n r : Nat) : Nat := granules - r * slotGranules n

/-- Usable DRAM length of a map (13 R406). -/
def usableOf (n r : Nat) : Nat := n * interleaved n r * 4096

/-- dram_usable. -/
def State.dramUsable (s : State) : Nat := usableOf s.mem.map.n s.mem.map.r

/-- Bytes that firmware keeps at the top of DRAM (11 R343; log 35). -/
def firmwareReserve : Nat := 2 ^ 32

/-- First byte of the firmware reserve. -/
def State.reserveBase (s : State) : Nat := s.dramUsable - firmwareReserve

/-- Base of a stall's window (11 R341). -/
def stallWindow (t : Nat) : Nat := 0x100000000000 + t * 0x400000

/-- Size of a pool's buffers (06 R204). -/
def poolSize (k : Nat) : Nat :=
  [256, 2048, 16384, 131072, 131072, 256, 2048, 16384, 131072].getD k 256

/-- Default count of a pool's buffers (06 R204). -/
def poolCountDefault (k : Nat) : Nat := [512, 128, 16, 10, 256, 4096, 1024, 128, 16].getD k 0

/-- Default base of a pool: scratchpad pools in order from the window's base, DRAM pools in the firmware
reserve, 39 MiB per stall (log 35). -/
def State.poolBaseDefault (s : State) (t k : Nat) : Nat :=
  if k < 4 then stallWindow t + [0, 0x20000, 0x60000, 0xA0000].getD k 0
  else s.reserveBase + t * (39 * 2 ^ 20) + [0, 32, 33, 35, 37].getD (k - 4) 0 * 2 ^ 20

/-- pool_config: base and count (06 R211). -/
def State.poolConfigWord (s : State) (t k : Nat) : Nat :=
  match Tbl.find s.objs (Obj.poolConfig t k).key with
  | some w => w
  | none => s.poolBaseDefault t k + poolCountDefault k * 2 ^ 48

def State.poolBase (s : State) (t k : Nat) : Nat := bits (s.poolConfigWord t k) 0 48
def State.poolCount (s : State) (t k : Nat) : Nat := bits (s.poolConfigWord t k) 48 16

/-- A pool as a reset leaves it: every buffer linked in ascending address (06 R208). -/
def State.rebuiltPool (s : State) (t k : Nat) : Pool :=
  { head := if s.poolCount t k = 0 then none else some (s.poolBase t k) }

def State.pool (s : State) (t k : Nat) : Pool := Tbl.get s.switch.pools (16 * t + k) (s.rebuiltPool t k)
def State.setPool (s : State) (t k : Nat) (x : Pool) : State :=
  { s with switch := { s.switch with pools := Tbl.set s.switch.pools (16 * t + k) x } }

/-- Free buffers of a pool. -/
def State.poolFree (s : State) (t k : Nat) : Nat :=
  s.poolCount t k - (s.pool t k).taken.length - (s.pool t k).asideCount

/-- A pointer lies in the pool and on a buffer (06 R206). -/
def State.pointerOk (s : State) (t k a : Nat) : Bool :=
  decide (s.poolBase t k ≤ a) && decide (a < s.poolBase t k + s.poolCount t k * poolSize k)
    && (a - s.poolBase t k) % poolSize k == 0

/-- pool_status (06 R211). -/
def State.poolStatus (s : State) (t k : Nat) : Nat :=
  s.poolFree t k % 65536 + (if (s.pool t k).fenced then 2 ^ 16 else 0)
    + (if (s.pool t k).rebuildSince.isSome then 2 ^ 17 else 0) + min 255 (s.pool t k).bad * 2 ^ 24

/-- A pointer failed its check: the pool is fenced, an event raised, the bad pointer counted (06 R207). -/
def State.fencePool (s : State) (t k : Nat) : State :=
  let p := s.pool t k
  let s := s.setPool t k { p with fenced := true, bad := p.bad + 1 }
  s.eventAt 11 t (Obj.poolStatus t k) (s.poolStatus t k)

/-- The link word of a buffer (06 R206). -/
def linkWord (k : Nat) (next : Option Nat) : Nat := next.getD 0xFFFFFFFFFFFF + k * 2 ^ 48

/-- The link word of a free buffer: a rebuild links the buffer to the next in ascending address, and that word
stands until the buffer is first taken, unless something has been written over it (log 107). -/
def State.linkAt (s : State) (t k a : Nat) : Nat :=
  let n := (a - s.poolBase t k) / poolSize k
  let w := s.readNat a 8
  if (s.pool t k).fresh ≤ n && w == 0 then
    linkWord k (if n + 1 < s.poolCount t k then some (a + poolSize k) else none)
  else w

/-- The pointer after the head, and the part of the list that no allocation has reached: the link is read, and
its pool tag and its place are checked (06 R206). -/
def State.nextFree (s : State) (t k a : Nat) : Option (Option Nat × Nat) :=
  let w := s.linkAt t k a
  let fresh := max (s.pool t k).fresh ((a - s.poolBase t k) / poolSize k + 1)
  let nx := bits w 0 48
  if bits w 48 4 ≠ k then none
  else if nx = 0xFFFFFFFFFFFF then some (none, fresh)
  else if s.pointerOk t k nx then some (some nx, fresh)
  else none

/-- Take a buffer of one pool: its address, or nothing, fencing the pool on a bad pointer. -/
def State.takeFrom (s : State) (t k : Nat) : State × Option Nat :=
  let p := s.pool t k
  match p.head with
  | none => (s, none)
  | some a =>
    if !s.pointerOk t k a then (s.fencePool t k, none)
    else match s.nextFree t k a with
      | none => (s.fencePool t k, none)
      | some (h, fresh) => (s.setPool t k { p with head := h, fresh := fresh, taken := a :: p.taken }, some a)

/-- Allocate `n` bytes from the first pool of a list that fits (06 R205): address and pool. -/
def State.allocFrom (s : State) (t n : Nat) : List Nat → State × Option (Nat × Nat)
  | [] => (s, none)
  | k :: ks =>
    if decide (n ≤ poolSize k) && !(s.pool t k).fenced && (s.pool t k).head.isSome then
      match s.takeFrom t k with
      | (s', some a) => (s', some (a, k))
      | (s', none) => s'.allocFrom t n ks
    else s.allocFrom t n ks

/-- Allocate a service buffer. -/
def State.allocService (s : State) (t n : Nat) : State × Option (Nat × Nat) := s.allocFrom t n [5, 6, 7, 8]

/-- Return a buffer to its pool (06 R206, R207): its place is checked, and that it is the pool's to take back; one that
fails is counted and set aside. -/
def State.giveBack (s : State) (t k a : Nat) : State :=
  let p := s.pool t k
  let mine := p.taken.contains a
  let left := p.taken.erase a
  let rung := if mine && left.isEmpty then s.time.rung else p.emptyRung
  if !(s.pointerOk t k a && mine) then
    let s := s.fencePool t k
    s.when mine fun s => s.setPool t k
      { s.pool t k with taken := left, asideCount := p.asideCount + 1, emptyRung := rung }
  else
    let p' := { p with taken := left, emptyRung := rung }
    if p.fenced then s.setPool t k { p' with asideCount := p.asideCount + 1 }
    else (s.writeNat a 8 (linkWord k p.head)).setPool t k { p' with head := some a }

/-- The pool of a stall that holds an address. -/
def State.poolOf (s : State) (t a : Nat) : Option Nat :=
  (upTo 9).find? fun k =>
    decide (s.poolBase t k ≤ a) && decide (a < s.poolBase t k + s.poolCount t k * poolSize k)

/-- The stall and pool of a buffer: the pool that gave it out, else the one that its address lies in. -/
def State.bufferHome (s : State) (a : Nat) : Option (Nat × Nat) :=
  match s.switch.pools.find? fun e => e.2.taken.contains a with
  | some e => some (e.1 / 16, e.1 % 16)
  | none => (upTo 64).findSome? fun t => (s.poolOf t a).map fun k => (t, k)

/-- Return a staging or service buffer, wherever it lies; an address that no pool gave out and none holds names no
pool to fence. -/
def State.freeBuffer (s : State) (a : Nat) : State :=
  let s := { s with coll := { s.coll with spill := Tbl.erase s.coll.spill a } }
  match s.bufferHome a with
  | some (t, k) => s.giveBack t k a
  | none => s

def State.freeBufferOpt (s : State) (a : Option Nat) : State :=
  match a with
  | some a => s.freeBuffer a
  | none => s

/-- The address is the link word of one of the pool's buffers. -/
def State.linkByte (s : State) (t k a : Nat) : Bool :=
  let b := s.poolBase t k
  decide (b ≤ a) && decide (a < b + s.poolCount t k * poolSize k) && decide ((a - b) % poolSize k < 8)

/-- All buffers of a pool are linked in ascending address and the fence is lifted (06 R208); bad pointers stay
counted. -/
def State.relink (s : State) (t k : Nat) : State :=
  let s := { s with mem := { s.mem with cells := s.mem.cells.filter fun c => !s.linkByte t k c.1 } }
  s.setPool t k { s.rebuiltPool t k with bad := (s.pool t k).bad }

/-- A pending rebuild is due: nothing is allocated, and a boundary has come since (06 R208). -/
def State.rebuildReady (s : State) (t k : Nat) : Bool :=
  match (s.pool t k).rebuildSince with
  | some r => (s.pool t k).taken.isEmpty && decide (max r (s.pool t k).emptyRung < s.time.rung)
  | none => false

/-- A rebuild that is due is done. -/
def State.rebuildIfEmpty (s : State) (t k : Nat) : State := if s.rebuildReady t k then s.relink t k else s

/-- POOL_REBUILD_DONE (06 R208). -/
def execPoolRebuildDone (t : Stall) (k : Fin 9) (s : State) : Result := .next (s.rebuildIfEmpty t.val k.val)

/-- A rebuild still pending after 10,000 bells is abandoned (06 R208). -/
def State.abandonRebuild (s : State) (t k : Nat) : State :=
  match (s.pool t k).rebuildSince with
  | some r => if r + 10000 ≤ s.time.rung then s.setPool t k { s.pool t k with rebuildSince := none } else s
  | none => s

/-- POOL_REBUILD_ABANDON (06 R208). -/
def execPoolRebuildAbandon (t : Stall) (k : Fin 9) (s : State) : Result := .next (s.abandonRebuild t.val k.val)

/-- A write of pool_rebuild marks rebuilds pending (06 R208, R211). -/
def State.askRebuild (s : State) (t word : Nat) : State :=
  s.each ((upTo 9).filter fun k => bit word k) fun s k =>
    s.setPool t k { s.pool t k with rebuildSince := some s.time.rung }

end Sys2Proof.Machine
end

