-- ==== Sys2Proof/Machine/Fabric.lean ====
section
/-! DEFINITION. Forwarding (06): tables, bundles, sprays and slot tables, VOQ entry, generated traffic,
mirror copies and ease messages. -/

namespace Sys2Proof.Machine

/-- The port is up. -/
def State.portUp (s : State) (p : Nat) : Bool := (s.port p).link == .up

/-- The port is in service: up, or retraining until the boundary at which it leaves its bundle (05 R159). -/
def State.inService (s : State) (p : Nat) : Bool :=
  (s.port p).link == .up || ((s.port p).link == .retrain && (s.port p).inBundle)

/-! ### Tables (06 R183) -/

/-- A leaf table entry of a bank. -/
def State.leafEntry (s : State) (bank leaf : Nat) : Nat :=
  s.tableNat (if bank = 0 then Obj.leafTableA.key else Obj.leafTableB.key) (4 * leaf) 4

/-- A member field of a bundle entry of a bank. -/
def State.memberField (s : State) (bank b m : Nat) : Nat :=
  s.tableNat (if bank = 0 then Obj.bundleTableA.key else Obj.bundleTableB.key) (32 * b + 2 * m) 2

/-- Port, weight, and validity of a member field. -/
def fieldPort (w : Nat) : Nat := bits w 0 10
def fieldWeight (w : Nat) : Nat := bits w 10 4
def fieldValid (w : Nat) : Bool := bit w 15

/-- The member belongs to the usable set of the latest boundary (06 R185, R188). -/
def State.memberUsable (s : State) (w : Nat) : Bool :=
  fieldValid w && decide (0 < fieldWeight w) && s.isLowest (fieldPort w)
    && (s.port (fieldPort w)).inBundle

/-- The usable members of a bundle in the active bank: (m, port, weight). -/
def State.usableMembers (s : State) (b : Nat) : List (Nat × Nat × Nat) :=
  (upTo 16).filterMap fun m =>
    let w := s.memberField s.switch.bank b m
    if s.memberUsable w then some (m, fieldPort w, fieldWeight w) else none

/-- The port that a slot of a bundle's slot table names (06 R188). -/
def slotPort (ms : List (Nat × Nat × Nat)) (i : Nat) : Option Nat :=
  let total := ms.foldl (fun c m => c + m.2.2) 0
  let x := i * total / 64
  (ms.foldl (fun (acc : Nat × Option Nat) m =>
    (acc.1 + m.2.2, if decide (acc.1 ≤ x) && decide (x < acc.1 + m.2.2) then some m.2.1 else acc.2))
    (0, none)).2

/-! ### Queues -/

/-- Cells of a flight still to be granted. -/
def Flight.left (f : Flight) : Nat := f.cells - f.granted

/-- Cells that a list of flights still holds in its queue. -/
def State.queueCells (s : State) (q : List Nat) : Nat :=
  q.foldl (fun n i => n + match s.flight i with
    | some f => f.left
    | none => 0) 0

/-- Key of a unicast VOQ. -/
def voqKey (t o k : Nat) : Nat := 512 * t + 8 * o + k

def State.voqOf (s : State) (t o k : Nat) : List Nat := Tbl.get s.switch.voq (voqKey t o k) []

/-- Append to one of the queue tables, dropping empty entries elsewhere. -/
def pushQueue (q : Tbl (List Nat)) (k i : Nat) : Tbl (List Nat) := Tbl.set q k (Tbl.get q k [] ++ [i])

/-- The queue class of a frame bound for a port (06 R168). -/
def portClass (vc : Nat) : Nat := vc

/-- The rotation of a port's members starts again: it stops being usable in the bundles of the bank (06 R186). -/
def State.unspray (s : State) (p : Nat) : State :=
  let stays := fun (e : Nat × Int) => fieldPort (s.memberField s.switch.bank (e.1 / 1024) (e.1 % 16)) != p
  { s with switch := { s.switch with spray := s.switch.spray.filter stays } }

/-- Record a new flight. -/
def State.addFlight (s : State) (f : Flight) : State × Nat :=
  let i := s.switch.nextFlight
  ({ s with switch := { s.switch with
      flights := Tbl.set s.switch.flights i { f with since := s.tb1Ns }, nextFlight := i + 1 } }, i)

/-- Put a flight into its stall's unicast VOQ toward an output stall. -/
def State.pushVoq (s : State) (t o k i : Nat) : State :=
  { s with switch := { s.switch with voq := pushQueue s.switch.voq (voqKey t o k) i } }

/-- Output stall of a route. -/
def Route.output : Route → Nat
  | .unicast p _ => p / 16
  | .home t => t
  | .multicast _ _ => 0

/-! ### Member choice (06 R185 to R188) -/

/-- Key of a smooth rotation's state. -/
def sprayKey (b t m : Nat) : Nat := 16 * (64 * b + t) + m

/-- Choose a member by smooth weighted rotation (06 R186). -/
def State.spray (s : State) (t b k : Nat) : State × Option Nat :=
  let up := (s.usableMembers b).filter fun m => s.portUp m.2.1
  let short := up.filter fun m =>
    decide (s.queueCells (s.voqOf t (m.2.1 / 16) k) < s.obj Obj.spraySkipDepth)
  let el := if short.isEmpty then up else short
  let total := Int.ofNat (el.foldl (fun c m => c + m.2.2) 0)
  let cur := el.foldl (fun c m => Tbl.modify c (sprayKey b t m.1) 0 (· + Int.ofNat m.2.2)) s.switch.spray
  let best := el.foldl (fun (acc : Option (Nat × Nat × Nat)) m =>
    match acc with
    | none => some m
    | some a => if Tbl.get cur (sprayKey b t a.1) 0 < Tbl.get cur (sprayKey b t m.1) 0 then some m else some a)
    none
  match best with
  | none => (s, none)
  | some m =>
    ({ s with switch := { s.switch with spray := Tbl.modify cur (sprayKey b t m.1) 0 (· - total) } },
      some m.2.1)

/-- Choose the member port of a bundle for a frame of a class: sprayed or pinned. -/
def State.chooseMember (s : State) (t b k : Nat) (f : Frame) : State × Option Nat :=
  if k = 2 || k = 3 then s.spray t b k
  else (s, slotPort (s.usableMembers b) (f.flowHash % 64))

/-- The bundle that the active leaf table names for a leaf. -/
def State.bundleOf (s : State) (leaf : Nat) : Option Nat :=
  let e := s.leafEntry s.switch.bank leaf
  if bit e 15 then some (bits e 0 10) else none

/-- Leaf table, bundle, member: the port of a frame, or none (06 R182, R184). -/
def State.lookup (s : State) (t k : Nat) (f : Frame) : State × Option (Nat × Nat) :=
  match s.bundleOf (f.dest / 256) with
  | none => (s, none)
  | some b =>
    match s.chooseMember t b k f with
    | (s, some p) => (s, some (p, b))
    | (s, none) => (s, none)

/-! ### Credits returned to the partner (05 R149) -/

/-- Add to a list of eight counts. -/
def addAt (xs : List Nat) (i n : Nat) : List Nat := listPut 0 xs i (xs.getD i 0 + n)

/-- A received frame leaves the ingress buffer: its credits are released. -/
def State.freeCredits (s : State) (port vc cells : Nat) : State :=
  s.modPort port fun x => { x with freed := addAt x.freed vc cells }

/-- Release the credits of a flight that came from a port. -/
def State.freeFlightCredits (s : State) (f : Flight) : State :=
  match f.inPort with
  | some p => s.freeCredits p f.frame.vc f.cells
  | none => s

/-! ### Drain guard (06 R192) -/

/-- Drain-guard flow index of a frame at a stall. -/
def guardKey (t : Nat) (f : Frame) : Nat := 4096 * t + f.flowHash / 64 % 4096

/-- Classes whose order the guard keeps. -/
def guarded (k : Nat) : Bool := k == 0 || k == 1 || k == 4

/-- Frames of a flow looked up before the switch and still in the stall's buffer. -/
def State.preCountOf (s : State) (key : Nat) : Nat := Tbl.get s.switch.preCount key 0

/-! ### Entry of a looked-up frame -/

/-- A looked-up frame is written to its VOQ, or held by the drain guard. -/
def State.enterVoq (s : State) (f : Flight) : State :=
  let f := { f with frame := { f.frame with epoch := s.switch.bank } }
  let key := guardKey f.stall f.frame
  if s.switch.guardEnd.isSome && guarded f.cls && f.inPort.isSome && decide (0 < s.preCountOf key) then
    let (s, _) := s.addFlight { f with hold := .guard (key % 4096) }
    s.bump Obj.guardHeld
  else
    let (s, i) := s.addFlight f
    s.pushVoq f.stall f.route.output f.cls i

/-- Discard a frame at a stall for want of a route (06 R184). -/
def State.noRoute (s : State) (t : Nat) (port : Option Nat) (f : Frame) : State :=
  let s := (s.bump Obj.noRoute).dropped t f port
  match port with
  | some p => s.freeCredits p f.vc f.cells
  | none => s

/-- A frame from a port takes the leaf table and enters its VOQ (06 R182). -/
def State.forward (s : State) (t port : Nat) (f : Frame) : State :=
  let k := portClass f.vc
  match s.lookup t k f with
  | (s, none) => s.noRoute t (some port) f
  | (s, some (p, b)) =>
    s.enterVoq { frame := f, stall := t, inPort := some port, cls := k, route := .unicast p (some b)
                 cells := f.cells }

/-- A frame from a port goes as class 5 to a stall (06 R182). -/
def State.toHome (s : State) (t port home : Nat) (f : Frame) : State :=
  let (s, i) := s.addFlight { frame := f, stall := t, inPort := some port, cls := 5, route := .home home
                              cells := f.cells }
  s.pushVoq t home 5 i

/-! ### Generated traffic (06 R169, R193 to R195, R202) -/

/-- Descriptors of a stall's generated traffic (log 32). -/
def State.genCount (s : State) (t : Nat) : Nat :=
  (Tbl.get s.switch.gen t []).length + (Tbl.get s.switch.mcq t []).length

/-- The generated-traffic queue has room. -/
def State.genRoom (s : State) (t : Nat) : Bool := decide (s.genCount t < 256)

/-- A generated frame counts against its pitch, unpoliced (07 R218). -/
def State.countPass (s : State) (f : Frame) : State := s.bump (Obj.passFrames f.pitch f.vc)

/-- Queue a generated unicast frame at a stall; a buffer that holds its payload is freed when it has been
read. With no route it is discarded (06 R184). -/
def State.generate (s : State) (t : Nat) (f : Frame) (buffer : Option Nat := none)
    (src : Option (Nat × Nat × Nat) := none) : State × Bool :=
  let k := portClass f.vc
  match s.lookup t k f with
  | (s, none) => ((s.noRoute t none f).freeBufferOpt buffer, false)
  | (s, some (p, b)) =>
    let (s, i) := s.addFlight { frame := { f with epoch := s.switch.bank }, stall := t, inPort := none
                                cls := k, route := .unicast p (some b), cells := f.cells, buffer, src }
    (({ s with switch := { s.switch with gen := pushQueue s.switch.gen t i } } : State).countPass f, true)


/-- Queue a frame to one port, past the leaf table: a mirror copy (06 R197), or a re-steered frame of a bundle (06
R190), which was counted as it came in. -/
def State.generateTo (s : State) (t port : Nat) (bundle : Option Nat) (f : Frame) (buffer : Option Nat)
    (src : Option (Nat × Nat × Nat)) : State :=
  let f := { f with epoch := s.switch.bank }
  let (s, i) := s.addFlight { frame := f, stall := t, inPort := none, cls := portClass f.vc
                              route := .unicast port bundle, cells := f.cells, buffer, src }
  ({ s with switch := { s.switch with gen := pushQueue s.switch.gen t i } } : State).when bundle.isNone fun s =>
    s.countPass f

/-- A group's port bitmap at a stall (06 R193). -/
def State.bitmap (s : State) (g t : Nat) : Nat := Tbl.get s.switch.bitmaps (64 * g + t) 0

/-- The stalls whose bitmap of a group is not zero, as a mask (06 R194). -/
def State.stallMask (s : State) (g : Nat) : Nat :=
  (upTo 64).foldl (fun m t => if s.bitmap g t = 0 then m else setBit m t) 0

/-- The target ports of a group, less one. -/
def State.groupTargets (s : State) (g : Nat) (except : Option Nat) : List Nat :=
  ((upTo 1024).filter fun p => bit (s.bitmap g (p / 16)) (p % 16)).filter fun p => some p != except

/-- Queue a multicast frame at a stall: the mask of target stalls goes with it.
A group with no target port takes nothing. -/
def State.multicast (s : State) (t : Nat) (f : Frame) (g : Nat) (except : Option Nat)
    (buffer : Option Nat := none) (src : Option (Nat × Nat × Nat) := none) : State :=
  let m := s.stallMask g
  if m = 0 then s.freeBufferOpt buffer
  else
    let (s, i) := s.addFlight { frame := { f with epoch := s.switch.bank }, stall := t, inPort := none
                                cls := 4, route := .multicast g except, cells := f.cells
                                mask := m, fullMask := m, buffer, src }
    ({ s with switch := { s.switch with mcq := pushQueue s.switch.mcq t i } } : State).countPass f

/-- Cells that an egress queue holds for a VC (06 R181, R210). -/
def egressDepth (x : PortSt) (vc : Nat) : Nat := (x.egress.getD vc []).foldl (fun n e => n + e.2) 0

/-- The target ports of a waiting generated frame, as its route stands now. -/
def State.waitTargets (s : State) (w : GenWait) : List Nat :=
  match w.group, w.port with
  | some g, _ => s.groupTargets g w.except
  | none, some p => [p]
  | none, none => match s.lookup w.stall (portClass w.frame.vc) w.frame with
    | (_, some (p, _)) => [p]
    | _ => []

/-- A generated frame of class 4 waits while a target port's VC4 egress depth is at gen_hold_depth
(06 R202). -/
def State.depthHeld (s : State) (w : GenWait) : Bool :=
  w.frame.vc == 4 && (s.waitTargets w).any fun p =>
    s.portUp p && decide (s.obj Obj.genHoldDepth ≤ egressDepth (s.port p) 4)

/-- The leaves that a waiting frame is bound for: its destination's, or those attached to the ports that it names. -/
def State.waitLeaves (s : State) (w : GenWait) : List Nat :=
  if w.group.isSome || (w.port.isSome && w.bundle.isNone) then
    (s.waitTargets w).filterMap fun p => (s.port p).peerLeaf
  else [w.frame.dest / 256]

/-- An ease hold on a leaf of the frame (06 R203): level 2 stops it, level 1 lets every other try pass
(log 34). -/
def State.easeHeld (s : State) (w : GenWait) : Bool :=
  (s.waitLeaves w).any fun l =>
    match Tbl.find s.switch.easeHolds l with
    | some h => decide (s.time.rung < h.untilRung) && (decide (2 ≤ h.level) || h.skip)
    | none => false

/-- A try under a level 1 ease turns its skip over. -/
def State.easeTurn (s : State) (w : GenWait) : State :=
  let hs := s.switch.easeHolds.map fun e =>
    if (s.waitLeaves w).contains e.1 then (e.1, { e.2 with skip := !e.2.skip }) else e
  { s with switch := { s.switch with easeHolds := hs } }

/-- Queue a waiting frame. -/
def State.queueWait (s : State) (w : GenWait) : State :=
  match w.group, w.port with
  | some g, _ => s.multicast w.stall w.frame g w.except w.buffer w.src
  | none, some p => s.generateTo w.stall p w.bundle w.frame w.buffer w.src
  | none, none => (s.generate w.stall w.frame w.buffer w.src).1

/-- The group of a generated frame: that of its bitmaps, or the one that a class 4 frame names. -/
def GenWait.groupOf (w : GenWait) : Option Nat :=
  if w.group.isSome then w.group else if w.frame.vc == 4 then some w.frame.group else none

/-- A frame that waits at a stall holds back a later one there: of the same group (06 R202), or of the same VC to the
same destination and port. -/
def GenWait.before (v w : GenWait) : Bool :=
  v.stall == w.stall && v.frame.vc == w.frame.vc
    && ((w.groupOf.isSome && v.groupOf == w.groupOf)
      || (v.group.isNone && w.group.isNone && v.port == w.port && v.frame.dest == w.frame.dest))

/-- Waiting generated frames are queued, oldest first: one that stays holds back later ones (06 R202). -/
def State.pumpList (s : State) : List GenWait → State
  | [] => s
  | w :: ws =>
    let behind := s.switch.genWait.any fun v => v.before w
    let blocked := behind || !s.genRoom w.stall || s.depthHeld w
    let s' : State := if (blocked || s.easeHeld w) = true then
        { s with switch := { s.switch with genWait := s.switch.genWait ++ [w] } }
      else s.queueWait w
    State.pumpList (if blocked then s' else s'.easeTurn w) ws

/-- Try every waiting generated frame. -/
def State.pump (s : State) : State :=
  ({ s with switch := { s.switch with genWait := [] } } : State).pumpList s.switch.genWait

/-- Send a generated frame: it waits its turn if it cannot be queued now. -/
def State.sendWait (s : State) (w : GenWait) : State :=
  ({ s with switch := { s.switch with genWait := s.switch.genWait ++ [w] } } : State).pump

/-- Send a generated frame to its destination. -/
def State.send (s : State) (t : Nat) (f : Frame) (buffer : Option Nat := none)
    (src : Option (Nat × Nat × Nat) := none) : State :=
  s.sendWait { stall := t, frame := f, buffer, src }

/-- Send a generated frame to a group's ports, less one. -/
def State.sendGroup (s : State) (t : Nat) (f : Frame) (g : Nat) (except : Option Nat := none)
    (buffer : Option Nat := none) (src : Option (Nat × Nat × Nat) := none) : State :=
  s.sendWait { stall := t, frame := f, group := some g, except, buffer, src }

/-- The stall's producers wait: frames of its own are waiting to be queued (06 R202). -/
def State.genWaits (s : State) (t : Nat) : Bool := s.switch.genWait.any fun w => w.stall == t

/-! ### Mirroring (06 R196 to R198) -/

/-- A session's flow match selects a frame. -/
def mirrorMatches (w : Nat) (f : Frame) : Bool :=
  let key := f.pitch + f.vc * 2 ^ 12 + f.source * 2 ^ 15 + f.dest * 2 ^ 35 + f.flow * 2 ^ 55
  let mask := bits w 80 71
  bits w 0 71 &&& mask == key &&& mask

/-- Frames that are never mirrored (06 R196). -/
def neverMirrored (f : Frame) : Bool := f.mirrored || f.ftype == 11 || f.ftype == 12 || f.vc == 5

/-- A session takes a frame: count, and copy or skip at its sample value (06 R197, R198). -/
def State.mirrorTake (s : State) (t k : Nat) (f : Frame) : State :=
  let c := s.obj (Obj.mirrorControl k)
  let n := Tbl.get s.switch.mirrorCount k 0 + 1
  if n < bits c 16 16 then
    { s with switch := { s.switch with mirrorCount := Tbl.set s.switch.mirrorCount k n } }
  else
    let s := { s with switch := { s.switch with mirrorCount := Tbl.erase s.switch.mirrorCount k } }
    let target := s.obj (Obj.mirrorTarget k)
    let limit := bits c 8 8 * 64
    let body := if limit = 0 then f.payload else f.payload.take limit
    let copy := ({ f with flags := setBit f.flags flagMirrored }).withPayload body
    if decide (1024 ≤ target) || decide (s.obj Obj.egressVcCap ≤ 2 * egressDepth (s.port target) f.vc)
        || !s.genRoom t then s.bump (Obj.mirrorSkipped k)
    else match s.allocService t copy.charge with
      | (s, none) => s.bump (Obj.mirrorSkipped k)
      | (s, some (a, _)) =>
        ((s.write a body).sendWait
          { stall := t, frame := copy, port := some target, buffer := some a, src := some (0, a, body.length) }).bump
          (Obj.mirrorCopies k)

/-- Sessions that select a frame at ingress: one that step 4 has not discarded (06 R196). -/
def State.mirrorIngress (s : State) (t port : Nat) (f : Frame) : State :=
  if neverMirrored f then s
  else s.each (upTo 16) fun s k =>
    let c := s.obj (Obj.mirrorControl k)
    if bit c 0 && ((bit c 1 && s.obj (Obj.mirrorSource k) == port)
        || (bit c 3 && mirrorMatches (s.obj (Obj.mirrorMatch k)) f)) then s.mirrorTake t k f
    else s

/-- A frame that step 4 sends on by the leaf table, with its copies; `g` is the frame as it came in. -/
def State.forwardCopied (s : State) (t port : Nat) (f g : Frame) : State :=
  let found := (s.lookup t (portClass f.vc) f).2.isSome
  (s.forward t port f).when found fun s => s.mirrorIngress t port g

/-- Sessions that select a frame as its first cell enters an egress queue. -/
def State.mirrorEgress (s : State) (port : Nat) (f : Frame) : State :=
  if neverMirrored f then s
  else s.each (upTo 16) fun s k =>
    let c := s.obj (Obj.mirrorControl k)
    if bit c 0 && bit c 2 && s.obj (Obj.mirrorSource k) == port then s.mirrorTake (port / 16) k f else s

/-! ### Ease messages (06 R199, R200, R203) -/

/-- The ease frame for a frame that met a depth at a port. -/
def State.easeFrame (s : State) (port depth level : Nat) (f : Frame) : Frame :=
  let seq := Tbl.get s.switch.easeSeq (port / 16) 0
  let body := level + f.vc * 2 ^ 4 + port * 2 ^ 8 + (depth % 256) * 2 ^ 32 + s.obj Obj.easeHold * 2 ^ 40
    + (seq % 65536) * 2 ^ 48 + f.dest * 2 ^ 64
  ({ s.newFrame 6 8 with dest := f.source, pitch := f.pitch, flow := f.flow }).withPayload (leBytes 16 body)

/-- As a frame's first cell is written at a depth, an ease may go to its source (06 R199; log 34). -/
def State.easeCheck (s : State) (port depth : Nat) (f : Frame) : State :=
  let level := if s.obj Obj.easeSevere ≤ depth then 2 else if s.obj Obj.easeWarn ≤ depth then 1 else 0
  let t := port / 16
  let leaf := f.source / 256
  let key := 4096 * (8 * port + f.vc) + leaf
  let recent := match Tbl.find s.switch.easeSent key with
    | some e => decide (s.time.rung < e.bell + max 1 (s.obj Obj.easeInterval))
    | none => false
  if level = 0 || f.fromSpine || recent then s
  else if 16 ≤ Tbl.get s.switch.easeCount t 0 then s.bump Obj.easeSuppressed
  else
    let e := s.easeFrame port depth level f
    let s := { s with switch := { s.switch with
      easeSent := Tbl.set s.switch.easeSent key { port, vc := f.vc, leaf, bell := s.time.rung }
      easeCount := Tbl.modify s.switch.easeCount t 0 (· + 1)
      easeSeq := Tbl.modify s.switch.easeSeq t 0 (· + 1) } }
    if (s.lookup t 6 e).2.isNone then s.noRoute t none e
    else (((s.bump Obj.easeSent).bump (Obj.easeSentPort port)).count t 0x107 1 { pitch := some e.pitch }).send t e

/-- An ease addressed to the module holds its generated frames toward the sending leaf (06 R203). -/
def State.takeEase (s : State) (source payload : Nat) : State :=
  let s := s.bump Obj.easeReceived
  let h : EaseHold := { level := bits payload 0 4, untilRung := s.time.rung + bits payload 40 8 }
  { s with switch := { s.switch with easeHolds := Tbl.set s.switch.easeHolds (source / 256) h } }

/-- EASE_RECEIVED (06 R203). -/
def execEaseReceived (source : BitVec 20) (payload : BitVec 128) (s : State) : Result :=
  .next (s.takeEase source.toNat payload.toNat)

/-- EASE_HOLD_END (06 R203): the hold's bells are over. -/
def execEaseHoldEnd (leaf : Fin 4096) (s : State) : Result :=
  .next (match Tbl.find s.switch.easeHolds leaf.val with
    | some h =>
      if h.untilRung ≤ s.time.rung then
        ({ s with switch := { s.switch with easeHolds := Tbl.erase s.switch.easeHolds leaf.val } } : State).pump
      else s
    | none => s)

/-! ### Removing flights -/

/-- The flight is still somewhere in the core. -/
def State.flightHeld (s : State) (i : Nat) : Bool :=
  s.switch.voq.any (fun e => e.2.contains i) || s.switch.mcq.any (fun e => e.2.contains i)
    || s.switch.gen.any (fun e => e.2.contains i) || s.switch.xp.any (fun e => e.2.any fun x => x.1 == i)
    || s.switch.intake.any (fun e => e.2.any fun x => x.1 == i)
    || s.ports.any (fun e => e.2.egress.any fun q => q.any fun x => x.1 == i)

/-- Forget a flight that nothing holds. -/
def State.settle (s : State) (i : Nat) : State := if s.flightHeld i then s else s.dropFlight i

end Sys2Proof.Machine
end

