-- ==== Sys2Proof/Machine/Pitches.lean ====
section
/-! DEFINITION. Pitches (07): admission and release, token buckets in 64 stall shares, their re-division
at boundaries, and queue samples. -/

namespace Sys2Proof.Machine

/-! ### Admission -/

/-- Frames of the pitch pass the admission check: pitch 0 always (07 R212, R213). -/
def State.pitchAdmitted (s : State) (p : Nat) : Bool := p == 0 || (s.pitch p).state == .admitted

/-- pitch_state (07 R233). -/
def State.pitchStateWord (s : State) (p : Nat) : Nat :=
  if p = 0 then 1
  else match (s.pitch p).state with
    | .free => 0
    | .admitted => 1
    | .releasing => 2

/-! ### Buckets (07 R219 to R223) -/

/-- Key of a bucket. -/
def bucketKey (pitch vc : Nat) : Nat := 8 * pitch + vc

/-- A template value as a bucket has it: pitch 0 was admitted at the release from reset, with the template's
defaults (07 R212, R213). -/
def State.templateOf (s : State) (p : Nat) (o : Obj) : Nat := if p = 0 then o.dflt else s.obj o

/-- A bucket's rate in force (07 R213, R223). -/
def State.rateInForce (s : State) (p vc : Nat) : Nat :=
  match Tbl.find s.objs (Obj.bucketRate p vc).key with
  | some r => r
  | none => s.templateOf p (Obj.defaultRate vc)

/-- The rate a bucket runs at: the smaller of rate and tenant_cap (07 R230). -/
def State.bucketRateOf (s : State) (p vc : Nat) : Nat :=
  min (s.rateInForce p vc) (s.obj (Obj.tenantCap p vc))

/-- The bucket's burst in force. -/
def State.bucketBurstOf (s : State) (p vc : Nat) : Nat :=
  match Tbl.find s.objs (Obj.bucketBurst p vc).key with
  | some b => b
  | none => s.templateOf p (Obj.defaultBurst vc)

/-- The bucket's action in force: drop. -/
def State.bucketDrops (s : State) (p vc : Nat) : Bool :=
  (match Tbl.find s.objs (Obj.bucketAction p vc).key with
    | some a => a
    | none => s.templateOf p (Obj.defaultAction vc)) == 1

/-- A bucket of rate 0xFFFF_FFFF does not meter (07 R223). -/
def unmetered (rate : Nat) : Bool := rate == 0xFFFFFFFF

/-- A share as admission leaves it: full, a 64th (07 R213, R220). -/
def freshShare (burst now : Nat) : Share := { level := mkRat burst 64, weight := mkRat 1 64, at_ := now }

/-- A stall's share of a bucket. -/
def State.share (s : State) (p vc t : Nat) : Share :=
  Tbl.get s.pitches.shares (64 * bucketKey p vc + t) (freshShare (s.bucketBurstOf p vc) s.time.tb1)

def State.setShare (s : State) (p vc t : Nat) (x : Share) : State :=
  { s with pitches := { s.pitches with shares := Tbl.set s.pitches.shares (64 * bucketKey p vc + t) x } }

/-- Bytes that a rate in 10 Mb/s units gives over a time in units of 2⁻³² ns. -/
def rateBytes (rate units : Nat) : Rat := mkRat (rate * units) (800 * 2 ^ 32)

/-- The smaller of two rationals. -/
def ratMin (a b : Rat) : Rat := if a ≤ b then a else b

/-- A share refilled up to now: it grows at r × w and stops at b × w (07 R219). -/
def Share.refill (x : Share) (rate burst now : Nat) : Share :=
  { x with level := ratMin (burst * x.weight) (x.level + rateBytes rate (now - x.at_) * x.weight), at_ := now }

/-- A stall's share, refilled. -/
def State.shareNow (s : State) (p vc t : Nat) : Share :=
  (s.share p vc t).refill (s.bucketRateOf p vc) (s.bucketBurstOf p vc) s.time.tb1

/-- A frame conforms: the bucket does not meter, or has a rate and its level is not negative. -/
def State.conforms (s : State) (p vc t : Nat) : Bool :=
  let r := s.bucketRateOf p vc
  unmetered r || (decide (0 < r) && decide (0 ≤ (s.shareNow p vc t).level))

/-- The charge of a frame is taken from its share and counted (07 R218, R233). -/
def State.chargeFrame (s : State) (t : Nat) (f : Frame) : State :=
  let x := s.shareNow f.pitch f.vc t
  let x := if unmetered (s.bucketRateOf f.pitch f.vc) then x else { x with level := x.level - f.charge }
  ((s.setShare f.pitch f.vc t x).bump (Obj.passBytes f.pitch f.vc) f.charge).bump
    (Obj.passFrames f.pitch f.vc)

/-- Bytes presented to the bucket at a stall (07 R220). -/
def State.presentFrame (s : State) (t : Nat) (f : Frame) : State :=
  let x := s.shareNow f.pitch f.vc t
  s.setShare f.pitch f.vc t { x with demand := x.demand + f.charge }

/-- Frames that are counted but not policed (07 R218). -/
def unpoliced (f : Frame) : Bool := f.fromSpine || (decide (8 ≤ f.ftype) && decide (f.ftype ≤ 12))

/-- Cells held for a pitch on one port and VC (07 R222). -/
def State.cellsHeldOn (s : State) (p vc port : Nat) : Nat :=
  s.switch.flights.foldl (fun n e =>
    if e.2.hold == .policer && e.2.frame.pitch == p && e.2.frame.vc == vc && e.2.inPort == some port
    then n + e.2.cells else n) 0

/-- A further frame would exceed hold_share percent of the VC's credit limit on the port. -/
def State.holdShareFull (s : State) (port : Nat) (f : Frame) : Bool :=
  decide ((s.port port).advertised.getD f.vc (s.obj (Obj.creditVc port f.vc)) * s.obj Obj.holdShare
    < (s.cellsHeldOn f.pitch f.vc port + f.cells) * 100)

/-- How the policer answers a frame. -/
inductive Verdict where
  | pass | hold | drop
  deriving DecidableEq, Repr

/-- The policer's answer to a frame at a stall (07 R219, R222, R223). -/
def State.police (s : State) (t port : Nat) (f : Frame) : Verdict :=
  let conf := s.conforms f.pitch f.vc t
  let behind := !(s.share f.pitch f.vc t).held.isEmpty
  let drops := s.bucketDrops f.pitch f.vc
  if !behind && conf then .pass
  else if drops && !(behind && conf) then .drop
  else if s.holdShareFull port f then .drop
  else .hold

/-- A frame that the policer drops. -/
def State.policerDrop (s : State) (port : Nat) (f : Frame) : State :=
  ((s.bump (Obj.droppedFrames f.pitch f.vc)).dropped (port / 16) f (some port)).freeCredits port f.vc f.cells

/-- A frame that the policer holds: it keeps its credits and stands out of every queue (07 R222). -/
def State.policerHold (s : State) (t port : Nat) (f : Frame) : State :=
  let (s, i) := s.addFlight { frame := f, stall := t, inPort := some port, cls := portClass f.vc
                              route := .home t, cells := f.cells, hold := .policer }
  let s := s.count t 0x106 1 (f.attrs (some port))
  let x := s.share f.pitch f.vc t
  (((s.setShare f.pitch f.vc t { x with held := x.held ++ [i] }).bump (Obj.heldFrames f.pitch f.vc)).bump
    (Obj.heldCells f.pitch f.vc) f.cells)

/-- Take a held frame out of its bucket. -/
def State.unhold (s : State) (p vc t i : Nat) (f : Flight) : State :=
  let x := s.share p vc t
  (((s.setShare p vc t { x with held := x.held.erase i }).dropFlight i).drop (Obj.heldCells p vc) f.cells)

/-- Charge of a held frame: a flight, or for VC5 the head of a port's runner ingress queue. -/
def State.heldCharge (s : State) (vc i : Nat) : Nat :=
  if vc = 5 then match (s.port i).runnerIn with
    | f :: _ => f.charge
    | [] => 0
  else match s.flight i with
    | some f => f.frame.charge
    | none => 0

/-- Re-divide a bucket among the stalls (07 R220). -/
def State.redivide (s : State) (p vc : Nat) : State :=
  let rate := s.bucketRateOf p vc
  let burst := s.bucketBurstOf p vc
  let xs := (upTo 64).map fun t => (s.share p vc t).refill rate burst s.time.tb1
  let d := xs.foldl (fun n x => n + x.demand) 0
  let ws := xs.map fun x => if 0 < d then mkRat (x.demand + 16) (d + 1024) else x.weight
  let total := ratMin burst (xs.foldl (fun n x => n + x.level) 0)
  s.each (upTo 64) fun s t =>
    let x := xs.getD t (freshShare burst s.time.tb1)
    let w := ws.getD t (mkRat 1 64)
    let heldBytes := x.held.foldl (fun n i => n + s.heldCharge vc i) 0
    s.setShare p vc t { x with weight := w, level := total * w, demand := heldBytes }

/-- Every share of a bucket up to now, at the rate and burst in force so far (07 R219, R223). -/
def State.settleBucket (s : State) (p vc : Nat) : State :=
  s.each (upTo 64) fun s t => s.setShare p vc t (s.shareNow p vc t)

/-- The bucket whose rate, burst or tenant_cap an object is: its pitch and its VC (07 R223, R230). -/
def meteredBucket (key : Nat) : Option (Nat × Nat) :=
  let sub := key % 256
  if 0x2000 ≤ key / 256 ∧ key / 256 < 0x3000 ∧ ((0x08 ≤ sub ∧ sub < 0x18) ∨ (0x20 ≤ sub ∧ sub < 0x28)) then
    some (key / 256 - 0x2000, sub % 8)
  else none

/-- The buckets that traffic or a write has touched. -/
def State.touchedBuckets (s : State) : List (Nat × Nat) :=
  (s.pitches.shares.map fun e => e.1 / 64).eraseDups.map fun b => (b / 8, b % 8)

/-- BUCKET_REDIVISION at a boundary. -/
def State.redivideAll (s : State) : State := s.touchedBuckets.foldl (fun s b => s.redivide b.1 b.2) s

/-! ### Admission, release (07 R213 to R216) -/

/-- Parameters of one bucket at admission: given in the command or from the template (07 R213). -/
def State.admitBucket (s : State) (p : Nat) (args : List Nat) (n : Nat) : State :=
  let given := bit (args.getD 0 0) (16 + n)
  let w := args.getD (1 + n) 0
  let r := if given then bits w 0 32 else s.obj (Obj.defaultRate n)
  let b := if given then bits w 32 32 else s.obj (Obj.defaultBurst n)
  let a := if given then b2n (bit (args.getD 9 0) n) else s.obj (Obj.defaultAction n)
  ((s.putObj (Obj.bucketRate p n) r).putObj (Obj.bucketBurst p n) b).putObj (Obj.bucketAction p n) a

/-- Objects of a pitch but its lease take their defaults; its generation increases (07 R213). -/
def State.admitObjs (s : State) (p : Nat) : State :=
  let gen := (s.obj (Obj.pitchGeneration p) + 1) % 65536
  let s := { s with objs := s.objs.filter fun e =>
    !(e.1 / 256 == 0x2000 + p && !(decide (0x60 ≤ e.1 % 256))) }
  s.putObj (Obj.pitchGeneration p) gen

/-- The buckets of a pitch start full, divided evenly. -/
def State.fillBuckets (s : State) (p : Nat) : State :=
  { s with pitches := { s.pitches with shares := s.pitches.shares.filter fun e => e.1 / 512 != p } }

/-- A taken ADMIT_PITCH takes effect at the first boundary after its intake (07 R213). -/
def State.admitEffect (s : State) (p : Nat) : State :=
  match (s.pitch p).admission with
  | none => s
  | some args => if s.time.rung ≤ (s.pitch p).takenRung then s else
    let s := s.admitObjs p
    let s := s.each (upTo 8) fun s n => s.admitBucket p args n
    let s := s.putObj (Obj.openBooks p) (b2n (bit (args.getD 0 0) 24))
    (s.fillBuckets p).setPitch p { state := .admitted }

/-- ADMISSION_EFFECT (07 R213). -/
def execAdmissionEffect (pitch : Pitch) (s : State) : Result := .next (s.admitEffect pitch.val)

/-- The pitch's release is over (07 R216): it is free from L + 16. -/
def State.freePitch (s : State) (p : Nat) : State :=
  match (s.pitch p).state, (s.pitch p).freeAt with
  | .releasing, some r =>
    if r ≤ s.time.rung then
      let leased := s.obj (Obj.leaseCount p) != 0
      let s := s.setPitch p {}
      -- the lease returns to pitch 0: a lease change (15 R481)
      let s := (s.putObj (Obj.leaseBase p) 0).putObj (Obj.leaseCount p) 0
      s.when leased fun s =>
        s.putObj (Obj.leaseGeneration p) ((s.obj (Obj.leaseGeneration p) + 1) % 65536)
    else s
  | _, _ => s

/-- PITCH_FREE (07 R216). -/
def execPitchFree (pitch : Pitch) (s : State) : Result := .next (s.freePitch pitch.val)

/-! ### Queue samples (07 R227, R228) -/

/-- A sample record. -/
def sampleWord (depth age bell : Nat) : Nat :=
  depth % 65536 + min age 0xFFFFFF * 2 ^ 16 + (bell % 2 ^ 24) * 2 ^ 40

/-- The maximum record after a sample: largest depth and, separately, largest age. -/
def maxWord (old new : Nat) : Nat :=
  let d := max (bits old 0 16) (bits new 0 16)
  let a := max (bits old 16 24) (bits new 16 24)
  let b := if bits old 0 16 < bits new 0 16 || bits old 16 24 < bits new 16 24 then bits new 40 24
    else bits old 40 24
  d + a * 2 ^ 16 + b * 2 ^ 40

/-- Age of the head frame of a queue of flights, in ns: since its first cell entered the queue (07 R227). -/
def State.headAge (s : State) (q : List Nat) (since : Flight → Nat) : Nat :=
  match q.head? with
  | none => 0
  | some i => match s.flight i with
    | some f => s.tb1Ns - since f
    | none => 0

/-- Sample of a queue. -/
def State.sampleOf (s : State) (depth : Nat) (q : List Nat) (since : Flight → Nat := Flight.since) : Nat :=
  sampleWord depth (s.headAge q since) s.time.bell

/-- Sample a queue of a stall. -/
def State.sampleVoq (s : State) (key depth : Nat) (q : List Nat) : State :=
  let w := s.sampleOf depth q
  { s with ledger := { s.ledger with
      voqSample := Tbl.set s.ledger.voqSample key w
      voqMax := Tbl.set s.ledger.voqMax key (maxWord (Tbl.get s.ledger.voqMax key 0) w) } }

/-- Sample an egress queue of a port. -/
def State.sampleEgress (s : State) (p vc : Nat) : State :=
  let x := s.port p
  let w := s.sampleOf (egressDepth x vc) ((x.egress.getD vc []).map (·.1)) fun f => Tbl.get f.egSince p 0
  { s with ledger := { s.ledger with
      egSample := Tbl.set s.ledger.egSample (8 * p + vc) w
      egMax := Tbl.set s.ledger.egMax (8 * p + vc) (maxWord (Tbl.get s.ledger.egMax (8 * p + vc) 0) w) } }

/-- Every queue is sampled at the boundary (07 R227). A queue without an entry samples as empty: its record
is the empty one of the latest sampling. -/
def State.sampleQueues (s : State) : State :=
  if !s.flag Obj.sampleEnable then s
  else
    let s := { s with ledger := { s.ledger with voqSample := [], egSample := [], sampledBell := s.time.bell } }
    let s := s.switch.voq.foldl (fun s e =>
      s.sampleVoq (514 * (e.1 / 512) + e.1 % 512) (s.queueCells e.2) e.2) s
    let s := s.switch.mcq.foldl (fun s e => s.sampleVoq (514 * e.1 + 512) (s.queueCells e.2) e.2) s
    let s := s.switch.gen.foldl (fun s e => s.sampleVoq (514 * e.1 + 513) e.2.length e.2) s
    s.ports.foldl (fun s e => if s.isLowest e.1 then s.each (upTo 8) fun s vc => s.sampleEgress e.1 vc else s) s

/-- The record of a queue that is not listed. -/
def State.emptySample (s : State) : Nat := sampleWord 0 0 s.ledger.sampledBell

end Sys2Proof.Machine
end

