-- ==== Sys2Proof/Machine/Groups.lean ====
section
/-! DEFINITION. Groups (09): staging and spill, group queues, receipts and their frames, sink queues and
the custody gate (14 R435) that stands before them. -/

namespace Sys2Proof.Machine

/-! ### Layout of the firmware reserve (log 35) -/

/-- Past the buffer pools of 64 stalls. -/
def State.reserveFree (s : State) : Nat := s.reserveBase + 64 * 39 * 2 ^ 20

/-- Bitmap of members of a kept-partial record (10 R322). -/
def State.keptBitmap (s : State) (i : Nat) : Nat := s.reserveFree + 128 * i

/-- History bits of a pair (14 R434). -/
def State.historyBase (s : State) (k : Nat) : Nat := s.reserveFree + 2 ^ 20 + 2 ^ 17 * k

/-- Bitmap of chunks written by a takeover (14 R451). -/
def State.takeOverBitmap (s : State) (k : Nat) : Nat := s.reserveFree + 513 * 2 ^ 20 + 2 ^ 21 * (k % 64)

/-- Image of a program slot (11 R351). -/
def State.imageBase (s : State) (k : Nat) : Nat := s.reserveFree + 641 * 2 ^ 20 + 2 ^ 23 * k

/-- Quadrant of a stall (01 R13). -/
def quadrant (t : Nat) : Nat := 2 * (t / 8 / 4) + t % 8 / 4

/-! ### State predicates -/

/-- The group takes frames: open or closing. -/
def State.groupLive (s : State) (g : Nat) : Bool :=
  (s.group g).state == .opened || (s.group g).state == .closing

/-- A context's name. -/
def Ctx.named (c : Ctx) (g seq chunk : Nat) : Bool := c.group == g && c.seq == seq && c.chunk == chunk

/-- The context still counts against its home: its output pass has not ended (09 R297). -/
def Ctx.live (c : Ctx) : Bool := c.stage != .staged

/-- The live context of a chunk. -/
def State.ctxOf (s : State) (g seq chunk : Nat) : Option Ctx :=
  s.coll.ctxs.find? fun c => c.live && c.named g seq chunk

/-- Contexts held at a stall. -/
def State.ctxsAt (s : State) (t : Nat) : Nat := (s.coll.ctxs.filter fun c => c.live && c.home == t).length

/-- Change the live context of a chunk. -/
def State.modCtx (s : State) (g seq chunk : Nat) (f : Ctx → Ctx) : State :=
  { s with coll := { s.coll with
      ctxs := s.coll.ctxs.map fun c => if c.live && c.named g seq chunk then f c else c } }

/-- Drop the live context of a chunk. -/
def State.dropCtx (s : State) (g seq chunk : Nat) : State :=
  { s with coll := { s.coll with ctxs := s.coll.ctxs.filter fun c => !(c.live && c.named g seq chunk) } }

/-- Where the frames of a chunk that a till has still to take stand: the home that the first of them reached. -/
def State.homeReached (s : State) (g seq chunk : Nat) : Option Nat :=
  s.switch.flights.findSome? fun e =>
    let f := e.2.frame
    if f.group == g && f.seq == seq && f.chunk == chunk then e.2.homed else none

/-- The home of a chunk: where its context is, else the home that a contribution of it has reached, else by the home map
(01 R23, R24). -/
def State.homeFor (s : State) (g seq chunk : Nat) : Nat :=
  match s.ctxOf g seq chunk, s.homeReached g seq chunk with
  | some c, _ => c.home
  | none, some h => h
  | none, none => s.homeOf g seq chunk

/-- Member count that a context waits for: one for a broadcast (09 R279). -/
def GroupSt.expectedLasts (x : GroupSt) : Nat := if x.kind = 3 then 1 else x.expected

/-- Kinds that relay and do not reduce. -/
def GroupSt.relays (x : GroupSt) : Bool := x.kind == 2 || x.kind == 3

/-- The group hands completed chunks to a sink. -/
def GroupSt.sinks (x : GroupSt) : Bool := x.kind == 1 && decide (0 < x.sinkSlots)

def GroupSt.accMode (x : GroupSt) : AccMode :=
  { inFormat := x.inFormat, outFormat := x.outFormat, op := x.op, exact := x.exact, q := x.exactQ }

def GroupSt.outMode (x : GroupSt) : OutMode :=
  { outFormat := x.outFormat, op := x.op, exact := x.exact, q := x.exactQ, stochastic := x.stochastic
    rescale := x.rescale, variant := x.mxVariant, headroom := x.headroom }

/-! ### Staging and spill (09 R280, R281; 06 R205) -/

/-- spill_held of a group. -/
def State.spillHeld (s : State) (g : Nat) : Nat := (s.coll.spill.filter fun e => e.2 == g).length

/-- Sum of staging_min of groups that are not free. -/
def State.spillReserved (s : State) : Nat :=
  s.coll.groups.foldl (fun n e => if e.2.state == .free then n else n + e.2.stagingMin) 0

/-- Shared pool-4 buffers held: what each group holds above its reservation. -/
def State.spillShared (s : State) : Nat :=
  (s.coll.spill.map (·.2)).eraseDups.foldl (fun n g =>
    n + (s.spillHeld g - (if (s.group g).state == .free then 0 else (s.group g).stagingMin))) 0

/-- Pool-4 buffers of the module. -/
def State.spillTotal (s : State) : Nat := (upTo 64).foldl (fun n t => n + s.poolCount t 4) 0

/-- A group may take another spill buffer (09 R281). -/
def State.maySpill (s : State) (g : Nat) : Bool :=
  decide (s.spillHeld g < (s.group g).stagingMin)
    || decide (s.spillShared < s.spillTotal - s.spillReserved)

/-- Free pool-4 buffers that a stall can hand out. -/
def State.spillFree (s : State) (t : Nat) : Nat :=
  if (s.pool t 4).fenced || (s.pool t 4).head.isNone then 0 else s.poolFree t 4

/-- The stall of a list with the most free pool-4 buffers, lowest number on a tie. -/
def State.richest (s : State) (ts : List Nat) : Option Nat :=
  ts.foldl (fun best t =>
    if s.spillFree t = 0 then best
    else match best with
      | none => some t
      | some b => if s.spillFree b < s.spillFree t then some t else some b) none

/-- The stall whose pool 4 serves a spill of a home (09 R280). -/
def State.spillStall (s : State) (home : Nat) : Option Nat :=
  if 0 < s.spillFree home then some home
  else match s.richest ((upTo 64).filter fun t => quadrant t == quadrant home) with
    | some t => some t
    | none => s.richest (upTo 64)

/-- Take a staging buffer of `n` bytes for a group at a home: address, pool and pool's stall. -/
def State.takeStaging (s : State) (home g n : Nat) : State × Option (Nat × Nat × Nat) :=
  match s.allocFrom home n [0, 1, 2, 3] with
  | (s, some (a, k)) => (s, some (a, k, home))
  | (s, none) =>
    if poolSize 4 < n || !s.maySpill g then (s, none)
    else match s.spillStall home with
      | none => (s, none)
      | some t => match s.takeFrom t 4 with
        | (s, none) => (s, none)
        | (s, some a) =>
          ({ s with coll := { s.coll with spill := Tbl.set s.coll.spill a g } }, some (a, 4, t))

/-! ### Kept partials give way (10 R325) -/

/-- The later of two kept records. -/
def laterKept (a : Option (Nat × Kept)) (e : Nat × Kept) : Option (Nat × Kept) :=
  match a with
  | none => some e
  | some b => if b.2.deadlineRung < e.2.deadlineRung then some e else some b

/-- The latest kept record of a chunk. -/
def State.keptOf (s : State) (g seq chunk : Nat) : Option (Nat × Kept) :=
  (s.coll.kept.filter fun e => e.2.group == g && e.2.seq == seq && e.2.chunk == chunk
    && e.2.generation == (s.group g).generation).foldl laterKept none

/-- Free the buffer of a kept record. -/
def State.freeKept (s : State) (i : Nat) : State :=
  match Tbl.find s.coll.kept i with
  | some k =>
    if k.held then
      let s := s.freeBufferOpt k.buffer
      { s with coll := { s.coll with kept := Tbl.set s.coll.kept i { k with held := false, buffer := none } } }
    else s
  | none => s

/-- The oldest kept partial of a till that holds a buffer. -/
def State.oldestKept (s : State) (t : Nat) : Option Nat :=
  let ks := s.coll.kept.filter fun e => e.2.held && e.2.till == t
  (ks.foldl (fun best e => match best with
    | none => some e
    | some b => if e.2.deadlineRung < b.2.deadlineRung then some e else some b)
    (none : Option (Nat × Kept))).map (·.1)

/-- Take a staging buffer for a new context, freeing kept partials of the till, oldest first, until one is
found; `fuel` bounds how many. -/
def State.takeStagingOrKept (s : State) (home g n : Nat) : Nat → State × Option (Nat × Nat × Nat)
  | 0 => s.takeStaging home g n
  | fuel + 1 => match s.takeStaging home g n with
    | (s, some b) => (s, some b)
    | (s, none) => match s.oldestKept home with
      | some i => (s.freeKept i).takeStagingOrKept home g n fuel
      | none => (s, none)

/-! ### Receipts (09 R302 to R306) -/

/-- The fields of a receipt. -/
structure Receipt where
  verdict : Nat
  cause : Nat := 0
  inexact : Bool := false
  saturated : Bool := false
  nan : Bool := false
  spilled : Bool := false
  members : Nat := 0
  till : Nat := 0
  crc : Nat := 0
  elements : Nat := 0
  residue : Nat := 0

/-- A receipt's payload of 32 bytes. -/
def State.receiptWord (s : State) (r : Receipt) : Nat :=
  r.verdict % 4 + (r.cause % 16) * 2 ^ 4 + b2n r.inexact * 2 ^ 8 + b2n r.saturated * 2 ^ 9
    + b2n r.nan * 2 ^ 10 + b2n r.spilled * 2 ^ 11 + (r.members % 2048) * 2 ^ 16 + (r.till % 64) * 2 ^ 32
    + (s.obj Obj.pos % 256) * 2 ^ 40 + (s.time.bell % 2 ^ 64) * 2 ^ 64 + (r.crc % 2 ^ 32) * 2 ^ 128
    + (r.elements % 2 ^ 20) * 2 ^ 160 + (r.residue % 2 ^ 16) * 2 ^ 192

/-- Destination of a frame delivered by group (09 R296). -/
def groupDest : Nat := 0xFFFFE

/-- A frame that the module sends for a group. -/
def State.groupFrame (s : State) (g ftype seq chunk format : Nat) : Frame :=
  { s.newFrame 4 ftype with
    dest := groupDest, pitch := (s.group g).pitch, flow := g % 65536, group := g, seq, chunk, format
    op := (s.group g).op }

/-- The frame of a receipt to a group. -/
def State.receiptFrame (s : State) (g seq chunk word : Nat) : Frame :=
  let f := (s.groupFrame g 4 seq chunk (s.group g).outFormat).withPayload (leBytes 32 word)
  if word % 4 = 0 then f else { f with flags := setBit f.flags flagPoisoned }

/-- A till's residue count, as receipts carry it. -/
def State.tillResidue (s : State) (t : Nat) : Nat := s.obj (Obj.tillResidueErrors t)

/-- Count a receipt by its verdict and flags. -/
def State.countReceipt (s : State) (r : Receipt) : State :=
  let s := match r.verdict with
    | 0 => s.bump Obj.chunksClean
    | 1 => s.bump Obj.chunksPoisoned
    | _ => s.bump Obj.chunksIncomplete
  (s.when r.inexact fun s => s.bump Obj.inexactChunks).when r.saturated fun s => s.bump Obj.saturatedChunks

/-- A chunk home posts an increment of done (09 R272). -/
def State.postDone (s : State) (g seq : Nat) : State :=
  { s with coll := { s.coll with donePosts := s.coll.donePosts ++ [(g, seq)] } }

/-- Send a receipt to the group's ports. -/
def State.sendReceipt (s : State) (t g seq chunk : Nat) (r : Receipt) : State :=
  let w := s.receiptWord r
  (s.countReceipt r).sendGroup t (s.receiptFrame g seq chunk w) g

/-- Refuse a frame (09 R306): counted, and answered once per source and group in a bell at this stall.
A frame from another module has no endpoint to answer (log 41). -/
def State.refuse (s : State) (t : Nat) (f : Frame) (cause : Nat) : State :=
  let s := (s.bump Obj.refusedFrames).dropped t f
  if s.coll.refusals.contains (t, f.source, f.group) || f.fromSpine then s
  else
    let s := { s with coll := { s.coll with refusals := s.coll.refusals ++ [(t, f.source, f.group)] } }
    let x := s.group f.group
    let format := if x.state != .free && x.pitch == f.pitch then x.outFormat else f.format
    let w := s.receiptWord { verdict := 1, cause, till := t, residue := s.tillResidue t }
    let a := { s.newFrame 4 4 with
      dest := f.source, pitch := f.pitch, flow := f.group, group := f.group, seq := f.seq
      chunk := f.chunk, format, op := f.op }
    let a := { (a.withPayload (leBytes 32 w)) with flags := setBit a.flags flagPoisoned }
    (s.bump Obj.refusalReceipts).send t a

/-! ### Completed sequences (10 R328) -/

/-- `a` is at or before `b` in serial order modulo 2³². -/
def serialLe (a b : Nat) : Bool := decide ((b + 2 ^ 32 - a % 2 ^ 32) % 2 ^ 32 < 2 ^ 31)

/-- How far a sequence lies before another. -/
def serialBack (newest seq : Nat) : Nat := (newest + 2 ^ 32 - seq % 2 ^ 32) % 2 ^ 32

/-- A sequence has completed. -/
def GroupSt.completed (x : GroupSt) (seq : Nat) : Bool :=
  match x.newest with
  | none => false
  | some n =>
    let d := serialBack n seq
    d == 0 || (decide (d ≤ 16) && bit x.window (d - 1)) || (decide (16 < d) && decide (d < 2 ^ 31))

/-- Record a sequence as complete. -/
def GroupSt.complete (x : GroupSt) (seq : Nat) : GroupSt :=
  match x.newest with
  | none => { x with newest := some seq, window := 0 }
  | some n =>
    let d := serialBack n seq
    if d = 0 then x
    else if d < 2 ^ 31 then
      if d ≤ 16 then { x with window := setBit x.window (d - 1) } else x
    else
      let up := 2 ^ 32 - d
      { x with newest := some seq
               window := if up ≤ 16 then (x.window * 2 ^ up + 2 ^ (up - 1)) % 2 ^ 16 else 0 }

/-! ### Group queues (09 R271, R272) -/

def State.queueOf (s : State) (g : Nat) : List QEntry := Tbl.get s.coll.queues g []

/-- Code of an entry's state. -/
def QState.code : QState → Nat
  | .opening => 1
  | .assembled => 2
  | .complete => 3
  | .aborted => 4

/-- An entry as it stands in the scratchpad, 32 bytes (09 R271). -/
def QEntry.word (e : QEntry) : Nat :=
  e.seq % 2 ^ 32 + (e.chunks % 2 ^ 25) * 2 ^ 32 + e.state.code * 2 ^ 57 + b2n e.poisoned * 2 ^ 60
    + (e.members.length % 2048) * 2 ^ 64 + (e.done % 2 ^ 25) * 2 ^ 96 + (e.firstBell % 2 ^ 64) * 2 ^ 128

/-- An entry's place in the queue space of a stall's scratchpad, past the buffer pools (11 R342; log 111). -/
def queueAddr (t i : Nat) : Nat := stallWindow t + 0x1E0000 + 32 * i

/-- The bitmap of members that have opened an entry, 128 bytes in DRAM (09 R271; log 35). -/
def State.openBitmap (s : State) (t i : Nat) : Nat := s.reserveFree + 1160 * 2 ^ 20 + 128 * (4096 * t + i)

/-- The ring of a group in the scratchpad, and the members that have opened its entries, as a queue has them. -/
def State.writeRing (s : State) (g : Nat) (q : List QEntry) : State :=
  let x := s.group g
  (upTo x.ring.length).foldl (fun s j =>
    let i := x.ring.getD j 0
    match q.find? fun e => e.slot == j with
    | some e =>
      (s.writeNat (queueAddr x.ghome i) 32 e.word).writeNat (s.openBitmap x.ghome i) 128 (e.members.foldl setBit 0)
    | none => s.writeNat (queueAddr x.ghome i) 32 0) s

/-- A group's queue, and its ring with it. -/
def State.setQueue (s : State) (g : Nat) (q : List QEntry) : State :=
  ({ s with coll := { s.coll with queues := Tbl.set s.coll.queues g q } } : State).writeRing g q

/-- The next free place of a group's ring. -/
def State.freeSlot (s : State) (g : Nat) : Nat :=
  ((upTo (s.group g).queueDepth).find? fun j => !(s.queueOf g).any fun e => e.slot == j).getD 0

/-- The entry of a sequence. -/
def State.qEntry (s : State) (g seq : Nat) : Option QEntry := (s.queueOf g).find? fun e => e.seq == seq

def State.modEntry (s : State) (g seq : Nat) (f : QEntry → QEntry) : State :=
  s.setQueue g ((s.queueOf g).map fun e => if e.seq == seq then f e else e)

/-- The entry becomes complete when done reaches chunks; a barrier's does with its receipt. -/
def State.maybeComplete (s : State) (g seq : Nat) : State :=
  match s.qEntry g seq with
  | none => s
  | some e =>
    let ends := (s.group g).kind != 4 && (e.state == .opening || e.state == .assembled)
      && decide (e.chunks ≤ e.done) && (e.chunks != 0 || e.state == .assembled)
    if ends then
      (s.modEntry g seq fun e => { e with state := .complete }).modGroup g (·.complete seq)
    else s

/-- An increment of done reaches the entry (09 R272). -/
def State.takeDone (s : State) (g seq : Nat) : State :=
  (s.modEntry g seq fun e =>
    if e.state == .opening || e.state == .assembled then { e with done := e.done + 1 } else e).maybeComplete g seq

/-- An increment may be taken: its entry exists, or no entry will come. -/
def State.doneReady (s : State) (p : Nat × Nat) : Bool :=
  (s.qEntry p.1 p.2).isSome || (s.group p.1).completed p.2 || (s.group p.1).aborted.contains p.2
    || (s.group p.1).state == .free

/-- DONE_INCREMENT (09 R272). -/
def execDoneIncrement (g : Group) (seq : BitVec 32) (s : State) : Result :=
  let p := (g.val, seq.toNat)
  .next (if s.coll.donePosts.contains p && s.doneReady p then
      ({ s with coll := { s.coll with donePosts := s.coll.donePosts.erase p } } : State).takeDone p.1 p.2
    else s)

/-- Every increment posted in the bell arrives within it (09 R272). -/
def State.arriveDone (s : State) : State :=
  let ready := s.coll.donePosts.filter s.doneReady
  let s := { s with coll := { s.coll with donePosts := s.coll.donePosts.filter fun p => !s.doneReady p } }
  ready.foldl (fun s p => s.takeDone p.1 p.2) s

/-! ### Sink queues and the custody gate (09 R297, 14 R435) -/

def State.sinkOf (s : State) (g t : Nat) : List SinkEntry := Tbl.get s.coll.sinks (64 * g + t) []
def State.setSink (s : State) (g t : Nat) (q : List SinkEntry) : State :=
  { s with coll := { s.coll with sinks :=
      if q.isEmpty then Tbl.erase s.coll.sinks (64 * g + t) else Tbl.set s.coll.sinks (64 * g + t) q } }

/-- A slot of the sink queue is free. -/
def State.sinkRoom (s : State) (g t : Nat) : Bool :=
  decide ((s.sinkOf g t).length < (s.group g).sinkSlots)

def State.pushSink (s : State) (g t : Nat) (e : SinkEntry) : State := s.setSink g t (s.sinkOf g t ++ [e])

/-- The pair record of a group. -/
def State.pairOfGroup (s : State) (g : Nat) : Option Nat :=
  (s.custody.pairs.find? fun e => e.2.group == g && e.2.state != .free).map (·.1)

/-- Ranges of 1 MiB that a chunk's state overlaps (14 R431). -/
def Pair.rangesOf (p : Pair) (chunk : Nat) : List Nat :=
  let lo := chunk * p.chunkStride / 2 ^ 20
  let hi := ((chunk + 1) * p.chunkStride - 1) / 2 ^ 20
  (upTo (hi + 1 - lo)).map (lo + ·)

/-- A chunk of a sequence belongs to a step already compared, or custody of its state is lost (14 R435,
R453, R454). -/
def Pair.stale (p : Pair) (seq chunk : Nat) : Bool :=
  p.state == .custodyLost || (p.comparedAny && serialLe seq p.compared)
    || (p.rangesOf chunk).any p.lostRanges.contains

/-- The gate is open for a chunk (14 R435, R443, R447, R452, R453). -/
def Pair.gate (p : Pair) (seq chunk : Nat) : Bool :=
  let follows := seq == p.firstSeq || (p.comparedAny && (p.compared + 1) % 2 ^ 32 == seq)
  match p.state with
  | .custodyLost => false
  | .free => false
  | .degraded => !p.lostRanges.isEmpty
  | .alone => p.restoring.isNone
  | _ =>
    match p.resync with
    | some r => r.newPartner && (!serialLe r.seq seq || (p.rangesOf chunk).all fun k =>
        !(r.want.any fun e => e.2 == k) && !((if r.started then r.out.drop 1 else r.out).any fun e => e.2 == k))
    | none => follows

/-- Send the receipt of a chunk that will not be posted: a stale chunk (14 R435). Nothing goes from a
partner (01 R28). -/
def State.staleChunk (s : State) (c : Ctx) (partner : Bool) : State :=
  let s := (s.bump Obj.staleChunks).freeBufferOpt c.buffer
  if partner then s
  else
    (s.sendReceipt c.home c.group c.seq c.chunk
      { verdict := 1, cause := 13, spilled := c.pool == 4, members := c.lastMembers.length, till := c.home
        residue := s.tillResidue c.home }).postDone c.group c.seq

/-- The sink entry of a staged chunk. -/
def Ctx.sinkEntry (c : Ctx) : SinkEntry :=
  { addr := c.buffer.getD 0, receipt := c.receipt, seq := c.seq, chunk := c.chunk, instanceEnd := false
    aborted := false, elements := bits c.receipt 160 20, bytes := c.output.length }

/-- Remove one staged chunk. -/
def State.dropStaged (s : State) (c : Ctx) : State :=
  { s with coll := { s.coll with ctxs := s.coll.ctxs.filter fun d =>
      !(d.stage == .staged && d.named c.group c.seq c.chunk && d.generation == c.generation) } }

/-- A staged chunk enters its sink queue if a slot is free and the custody gate allows (09 R297, 14 R435). -/
def State.trySink (s : State) (c : Ctx) : State :=
  match s.pairOfGroup c.group with
  | none =>
    if s.sinkRoom c.group c.home then
      (((s.dropStaged c).pushSink c.group c.home c.sinkEntry).postDone c.group c.seq)
    else s
  | some k =>
    let p := s.pair k
    if p.stale c.seq c.chunk then (s.dropStaged c).staleChunk c p.partner
    else if p.gate c.seq c.chunk && s.sinkRoom c.group c.home then
      let s := (s.dropStaged c).pushSink c.group c.home c.sinkEntry
      if c.custody then s else s.postDone c.group c.seq
    else s

/-- A completed chunk is kept in staging, and posted if it can be. -/
def State.stageChunk (s : State) (c : Ctx) : State :=
  let c := { c with stage := .staged, acc := [], relayed := [] }
  let s := { s with coll := { s.coll with ctxs := s.coll.ctxs ++ [c] } }
  (s.when (!s.sinkRoom c.group c.home) fun s => s.bump (Obj.sinkFullWaits c.home)).trySink c

/-- SINK_POST (14 R435): the staged chunk enters its sink queue. -/
def execSinkPost (g : Group) (seq : BitVec 32) (chunk : BitVec 24) (s : State) : Result :=
  .next (match s.coll.ctxs.find? fun c => c.stage == .staged && c.named g.val seq.toNat chunk.toNat with
    | some c => s.trySink c
    | none => s)

/-! ### Frames to another module (01 R27) -/

/-- The attached leaves, ascending. -/
def State.attachedLeaves (s : State) : List Nat :=
  let ls := s.ports.filterMap fun e => if e.2.link == .up then e.2.peerLeaf else none
  (ls.foldl (fun t l => Tbl.set t l ()) ([] : Tbl Unit)).map (·.1)

/-- Turning leaf number `n` of the attached leaves; leaf 0 where none is attached, which 01 R27 leaves open (log 120). -/
def State.turningLeaf (s : State) (n : Nat) : Nat :=
  let ls := s.attachedLeaves
  if ls.isEmpty then 0 else ls.getD (n % ls.length) 0

/-- Address a frame to the module of a POS through a turning leaf. -/
def Frame.toModule (f : Frame) (leaf pos : Nat) : Frame :=
  { f with dest := leaf * 256 + pos % 256, flags := setBit f.flags flagSpine }

/-- Cut data into frames of at most `n` bytes: (byte offset, piece). -/
def cutData (n : Nat) (data : List Byte) : List (Nat × List Byte) :=
  if n = 0 then [(0, data)]
  else
    let ps := pieces n (data.length / n + 1) data
    (upTo ps.length).map fun i => (i * n, ps.getD i [])

/-- The frames that carry an output of a group from an element offset (09 R296). -/
def State.outputFrames (s : State) (g ftype seq chunk offset : Nat) (isLast : Bool) (data : List Byte) :
    List Frame :=
  let x := s.group g
  let cuts := cutData x.outFrameData data
  (upTo cuts.length).map fun i =>
    let c := cuts.getD i (0, [])
    let off := offset + c.1 / unitBytesOf x.outFormat * unitElems x.outFormat
    let f := (s.groupFrame g ftype seq chunk x.outFormat).withPayload (outPrefix off ++ c.2)
    let fl := putBit f.flags flagFirst (off == 0)
    { f with flags := putBit fl flagLast (isLast && i + 1 == cuts.length) }

/-- Output frames go to a group's ports in order, their data read from memory as they leave (06 R169); the buffer that
holds them is freed with the last. -/
def State.sendOutputs (s : State) (t g : Nat) (fs : List Frame) (a : Option Nat) (buffer : Option Nat) : State :=
  (fs.foldl (fun (acc : State × Nat × Nat) f =>
    let n := f.payload.length - 8
    (acc.1.sendGroup t f g none (if acc.2.1 + 1 = fs.length then buffer else none)
        (a.map fun a => (8, a + acc.2.2, n)), acc.2.1 + 1, acc.2.2 + n)) (s, 0, 0)).1

/-- The custody copy of a chunk and its receipt go to the other custodian (01 R26, R27). -/
def State.sendCopy (s : State) (t g seq chunk receipt : Nat) (data : List Byte) : State :=
  match s.pairOfGroup g with
  | none => s
  | some k =>
    let p := s.pair k
    let fills := p.state == .resyncing && p.gotHello && p.resync.all fun y => !y.newPartner || serialLe y.seq seq
    if p.partner || !(p.state == .paired || p.state == .rollingBack || fills) then s
    else
      let leaf := s.turningLeaf (chunkHash g seq chunk / 64 % 1024)
      let s := if data.isEmpty then s
        else (s.outputFrames g 6 seq chunk 0 true data).foldl
          (fun s f => s.send t (f.toModule leaf p.otherPos)) s
      s.send t ((s.receiptFrame g seq chunk receipt).toModule leaf p.otherPos)

end Sys2Proof.Machine
end

