-- ==== Sys2Proof/Machine/Dram.lean ====
section
/-! DEFINITION. Stacked memory as its users see it (13 R404 to R410, R417): which channel serves an
address, poison and holes, stores, and the memory-side adders. -/

namespace Sys2Proof.Machine

/-- Granules that channels mapped out before `c` were spread over leave out: the channels that took the
granules of `c` (13 R407). -/
def State.spreadOf (s : State) (c : Nat) : List Nat :=
  let earlier := s.mem.mapOuts.takeWhile (· != c)
  s.mem.map.order.filter fun d => d != c && !earlier.contains d

/-- The channel that serves an address of stacked memory; none where its granule is a hole or lost
(13 R406, R407, R417). A granule of a channel that is being copied counts as still served by it (log 47). -/
def State.channelOf (s : State) (a : Nat) : Option Nat :=
  let m := s.mem.map
  let g := a / 4096
  let c := m.order.getD (g % m.n) 0
  match (s.chan c).state with
  | .inService | .waiting | .copying => some c
  | .holes => none
  | .mappedOut =>
    let ms := s.spreadOf c
    let d := ms.getD (g / m.n % ms.length) 0
    match (s.chan d).state with
    | .inService | .waiting | .copying => some d
    | _ => none

/-- An address lies in stacked memory. -/
def State.isDram (s : State) (a : Nat) : Bool := decide (a < s.dramUsable)

/-- An address whose granule no channel serves. -/
def State.inHole (s : State) (a : Nat) : Bool := s.isDram a && (s.channelOf a).isNone

/-- A unit of a channel mapped out without an answer, not written since (13 R416). -/
def State.deadUnit (s : State) (u : Nat) : Bool :=
  s.isDram (64 * u) && match Tbl.find s.mem.dead (s.mem.map.order.getD (u / 64 % s.mem.map.n) 0) with
    | some written => !written.contains u
    | none => false

/-- The stack that serves an address is at or above a thermal band (13 R420). -/
def State.bandAt (s : State) (a band : Nat) : Bool :=
  s.isDram a && match s.channelOf a with
    | some c => decide (band ≤ s.obj (Obj.thermalBand (c / 32)))
    | none => false

/-- A poisoned unit lies among these bytes (13 R404, 09 R279). -/
def State.bufferBad (s : State) (a n : Nat) : Bool :=
  (s.mem.poison.any fun u => decide (64 * u < a + n) && decide (a < 64 * u + 64))
    || (!s.mem.dead.isEmpty && (upTo ((a + n + 63) / 64 - a / 64)).any fun i => s.deadUnit (a / 64 + i))

/-- Addresses that stand for the 4 KiB granules of a span. -/
def granulesOf (a n : Nat) : List Nat := (upTo ((a + n - 1) / 4096 + 1 - a / 4096)).map fun i => (a / 4096 + i) * 4096

/-- Units of dead channels that a channel now holds. -/
def State.deadUnitsOn (s : State) (d : Nat) : Nat :=
  s.mem.dead.foldl (fun n e =>
    let ms := s.spreadOf e.1
    match ms.findIdx? (· == d) with
    | some q => n + ceilDiv (interleaved s.mem.map.n s.mem.map.r - q) ms.length * 64
        - (e.2.eraseDups.filter fun u => s.channelOf (64 * u) == some d).length
    | none => n) 0

/-- A granule that cannot be read: a hole, or its channel does not answer (13 R414, R417). -/
def State.unread (s : State) (a : Nat) : Bool :=
  s.isDram a && match s.channelOf a with
    | some c => !(s.chan c).answering
    | none => true

/-- A read of these bytes meets a poisoned unit or a granule that cannot be read (13 R404, R417). -/
def State.readBad (s : State) (a n : Nat) : Bool := s.bufferBad a n || (granulesOf a n).any s.unread

/-- Store bytes granule by granule; a write to a hole is discarded and counted (13 R417). -/
def State.storeParts (s : State) (a : Nat) (bs : List Byte) : Nat → State
  | 0 => s
  | fuel + 1 =>
    let n := 4096 - a % 4096
    let s := if s.inHole a then s.bump Obj.holeWrites else s.write a (bs.take n)
    if bs.length ≤ n then s else s.storeParts (a + n) (bs.drop n) fuel

/-- Store bytes at a device address. -/
def State.store (s : State) (a : Nat) (bs : List Byte) : State := s.storeParts a bs (bs.length / 4096 + 2)

/-- Mark the 64-byte unit of an address poisoned (13 R404). -/
def State.poisonUnit (s : State) (a : Nat) : State :=
  if s.mem.poison.contains (a / 64) then s
  else { s with mem := { s.mem with poison := s.mem.poison ++ [a / 64] } }

/-- 64-byte units that an access touches. -/
def unitsIn (a n : Nat) : Nat := if n = 0 then 0 else (a + n - 1) / 64 - a / 64 + 1

/-- Units read or written at a channel: its bytes and its event (13 R426; 16 R491). -/
def State.countChannel (s : State) (c units : Nat) (wr : Bool) (e : EventAttrs) : State :=
  (s.bump (if wr then Obj.writeBytes c else Obj.readBytes c) (64 * units)).count (blockChannel c)
    (if wr then 0x201 else 0x200) units e

/-- Count the 64-byte units of an access at the channels that serve them. -/
def State.countUnits (s : State) (a n : Nat) (wr : Bool) (e : EventAttrs) : State :=
  (granulesOf a n).foldl (fun s g =>
    let lo := max a g
    if !s.isDram g then s
    else match s.channelOf g with
      | some c => s.countChannel c (unitsIn lo (min (a + n) (g + 4096) - lo)) wr (e.at lo)
      | none => s) s

/-- Count an access of a stall to memory at its stall and at the channels that serve it (16 R490 to R493). -/
def State.countAccess (s : State) (t a n : Nat) (wr : Bool) (e : EventAttrs) : State :=
  (s.count t (if wr then 0x201 else 0x200) (unitsIn a n) (e.at a)).countUnits a n wr e

/-- Count an access of firmware, custody or the ledger clerk (16 R493). -/
def State.countFirmware (s : State) (a n : Nat) (wr : Bool) : State := s.countUnits a n wr (firmwareAttrs a)

/-- Attributes of a till's accesses: the pitch of its group (16 R493). -/
def tillAttrs (pitch : Nat) : EventAttrs := { privilege := some (pitchPrivilege pitch), pitch := some pitch }

/-- An adder operation at the channel of an address: a read and a write of the unit (13 R408, R409). -/
def State.countAdder (s : State) (a : Nat) (e : EventAttrs) : State :=
  match s.channelOf a with
  | some c =>
    let s := (s.bump (Obj.adderOps c)).count (blockChannel c) 0x202 1 (e.at a)
    (s.countChannel c 1 false (e.at a)).countChannel c 1 true (e.at a)
  | none => s

/-- A residue mismatch of an adder (13 R410). -/
def State.adderMismatch (s : State) (a : Nat) (e : EventAttrs) : State :=
  match s.channelOf a with
  | some c =>
    (((s.bump (Obj.adderResidueErrors c)).bump Obj.residueTotal).eventObj 6 (blockChannel c)
      (Obj.adderResidueErrors c)).count (blockChannel c) 0x700 1 (e.at a)
  | none => s

/-- An error in a stall's SRAM that is corrected: counted, no error (13 R405). -/
def State.sramFixed (s : State) (t : Nat) : State := (s.bump (Obj.sramEccCorrected t)).count t 0x203 1

/-- An error in a stall's SRAM that is not corrected (13 R405). -/
def State.sramBad (s : State) (t : Nat) : State :=
  ((s.bump (Obj.sramEccUncorrectable t)).eventObj 6 t (Obj.sramEccUncorrectable t)).count t 0x204 1

/-! ### Adder arithmetic (13 R408; 11 R350, R365) -/

/-- An atomic operation. -/
inductive AtomOp where
  | add | min | max | swap
  | cas (expect : Nat)
  deriving DecidableEq, Repr

/-- Bytes of an atomic's location by type code. -/
def atomBytes (t : Nat) : Nat := if t = 1 then 2 else if t = 10 then 8 else 4

/-- The type codes that each atomic takes (11 R365). -/
def AtomOp.types : AtomOp → List Nat
  | .add => [0, 1, 9, 10]
  | .min | .max => [0, 9, 10, 11]
  | .swap | .cas _ => [10]

/-- A bf16 pattern's sum: in fp32, then rounded (13 R408). -/
def bf16Add (x y : Nat) : Nat :=
  let z := fadd (BitVec.ofNat 32 (x % 65536 * 65536)) (BitVec.ofNat 32 (y % 65536 * 65536))
  (fmtBf16.encode .nearest false (ofFp32 z)).pattern

/-- The lesser by type code: fp32 as 09 R287, signed for 9 and 10, unsigned for 11. -/
def typedLess (t x y : Nat) : Bool :=
  if t = 9 then decide (toSigned 32 x < toSigned 32 y)
  else if t = 10 then decide (toSigned 64 x < toSigned 64 y)
  else decide (x < y)

/-- The new value of an atomic's location. -/
def AtomOp.apply (op : AtomOp) (t old x : Nat) : Nat :=
  let lane := fun v => BitVec.ofNat 32 v
  match op with
  | .add =>
    if t = 0 then (fadd (lane old) (lane x)).toNat
    else if t = 1 then bf16Add old x
    else (old + x) % 2 ^ (8 * atomBytes t)
  | .min =>
    if t = 0 then (fmin (lane old) (lane x)).toNat else if typedLess t x old then x else old
  | .max =>
    if t = 0 then (fmax (lane old) (lane x)).toNat else if typedLess t old x then x else old
  | .swap => x
  | .cas expect => if old = expect then x else old

end Sys2Proof.Machine
end

