-- ==== Sys2Proof/Machine/Slots.lean ====
section
/-! DEFINITION. The store of command tokens and what every command does with its slot (17 R529 to R538):
status, results, completion events, and when a scheduled command is due. -/

namespace Sys2Proof.Machine

/-- A status from which a slot may be claimed again (17 R532). -/
def SlotStatus.isFinal : SlotStatus → Bool
  | .done | .failed | .refused => true
  | _ => false

/-- Code of a status (17 R531). -/
def SlotStatus.code : SlotStatus → Nat
  | .free => 0
  | .claimed => 1
  | .submitted => 2
  | .busy => 3
  | .done => 4
  | .failed => 5
  | .refused => 6

/-- The record of a token. -/
def State.tokenRec (s : State) (token : Nat) : Option TokenRec := s.dict.tokens.find? fun r => r.token == token

/-- Change the record of a token. -/
def State.modToken (s : State) (token : Nat) (f : TokenRec → TokenRec) : State :=
  { s with dict := { s.dict with tokens := s.dict.tokens.map fun r => if r.token == token then f r else r } }

/-- A slot shows a record's result. -/
def SlotSt.show (x : SlotSt) (r : TokenRec) : SlotSt :=
  { x with status := r.status, code := r.code, resultToken := r.token, taken := r.taken
           effect := r.effect, final := r.final, progress := r.progress, results := r.results }

/-- Every busy slot that tracks a token shows its record (17 R536). -/
def State.track (s : State) (token : Nat) : State :=
  match s.tokenRec token with
  | some r => { s with dict := { s.dict with slots := Tbl.mapVals s.dict.slots fun _ x =>
      if x.status == .busy && x.resultToken == token then x.show r else x } }
  | none => s

/-- The completion event of a command: class 14, the result index, the token (17 R529). -/
def State.completionEvent (s : State) (k token : Nat) : State :=
  s.event 14 moduleBlock (0x0F01 + 2 * k) 0x01 token

/-- A command becomes final: its record, the slots that track it, the event, and vector 3 of PF0 for
LOAD_BUNDLE and CHECKPOINT (18 R552). -/
def State.endCommand (s : State) (token : Nat) (st : SlotStatus) (code : Nat) : State :=
  match s.tokenRec token with
  | none => s
  | some r =>
    if r.status != .busy then s
    else
      let s := (s.modToken token fun r => { r with status := st, code := code, final := s.time.bell }).track token
      let s := s.completionEvent r.slot token
      s.when (r.opcode == 0x07 || r.opcode == 0x12) fun s => s.interrupt 0 3

/-- A command ends done. -/
def State.endDone (s : State) (token : Nat) : State := s.endCommand token .done 0

/-- A command ends failed with a code. -/
def State.endFailed (s : State) (token code : Nat) : State := s.endCommand token .failed code

/-- Give a command's result a value. -/
def State.setResult (s : State) (token i v : Nat) : State :=
  (s.modToken token fun r => { r with results := Tbl.set r.results i (v % 2 ^ 64) }).track token

/-- Give a command's progress a value. -/
def State.setProgress (s : State) (token v : Nat) : State :=
  (s.modToken token fun r => { r with progress := v % 2 ^ 32 }).track token

/-- A failed command names the position of the first case that applies (17 R537). -/
def State.endFailedAt (s : State) (token code pos : Nat) : State :=
  (s.setResult token 15 pos).endFailed token code

/-- A scheduled command is due at the boundary just rung (17 R534, R535, 02 R54). -/
def State.due (s : State) (r : TokenRec) : Bool :=
  r.status == .busy && !r.acted
    && (if r.effectRung = 0 then decide (r.effect ≤ s.time.bell) else decide (r.effectRung ≤ s.time.rung))

/-- The tokens of the due commands of given opcodes, in order of intake. -/
def State.dueTokens (s : State) (opcodes : List Nat) : List Nat :=
  (s.dict.tokens.filter fun r => opcodes.contains r.opcode && s.due r).map (·.token)

/-- Busy commands of an opcode that name a thing by a field of argument 0. -/
def State.busyOn (s : State) (op lo w k : Nat) : List Nat :=
  (s.dict.tokens.filter fun r => r.status == .busy && r.opcode == op && bits (Tbl.get r.args 0 0) lo w == k).map (·.token)

/-- Those of them that are due. -/
def State.dueOn (s : State) (op lo w k : Nat) : List Nat :=
  (s.dict.tokens.filter fun r => s.due r && r.opcode == op && bits (Tbl.get r.args 0 0) lo w == k).map (·.token)

/-- Some commands end done. -/
def State.endAll (s : State) (tokens : List Nat) : State := tokens.foldl State.endDone s

/-- The boundary of a change has come: that of its command, or the bell named. -/
def State.reached (s : State) (token : Option Nat) (bell : Nat) : Bool :=
  match token with
  | some k => match s.tokenRec k with
    | some r => s.due r
    | none => decide (bell ≤ s.time.bell)
  | none => decide (bell ≤ s.time.bell)

/-- Why a command is refused: code and position (17 R537). -/
abbrev Refused := Option (Nat × Nat)

/-- The first case that applies in a list of conditions, with its code (17 R537, R541). -/
def firstCase (cases : List (Bool × Nat)) : Refused :=
  (((upTo cases.length).zip cases).find? fun c => c.2.1).map fun c => (c.2.2, c.1 + 1)

/-- The same where no rule lists the cases: the position is 0. -/
def plainCase (cases : List (Bool × Nat)) : Refused := (firstCase cases).map fun c => (c.1, 0)

/-- Bits of an argument word that its row leaves unnamed are 0 (17 R540). -/
def onlyBits (w mask : Nat) : Bool := w &&& mask == w

/-- A mask of bits [hi:lo]. -/
def maskBits (hi lo : Nat) : Nat := 2 ^ (hi + 1) - 2 ^ lo

/-- Argument words that a command does not name are 0 (17 R540). -/
def onlyArgs (args : Tbl Nat) (named : List Nat) : Bool := args.all fun a => named.contains a.1 || a.2 == 0

/-- A command acts at this boundary. -/
def State.markActed (s : State) (token : Nat) : State :=
  (s.modToken token fun r => { r with acted := true, effect := s.time.bell }).track token

/-- Some commands act at this boundary. -/
def State.markAll (s : State) (tokens : List Nat) : State := tokens.foldl State.markActed s

/-- Argument n of a command. -/
def argOf (args : Tbl Nat) (n : Nat) : Nat := Tbl.get args n 0

end Sys2Proof.Machine
end

