-- ==== Sys2Proof/Machine/Custody.lean ====
section
/-! DEFINITION. Custody (14 R430 to R456): pair records, control messages, step close, digests and their
comparison, rollback, resync, takeover and loss. -/

namespace Sys2Proof.Machine

/-! ### Banks and ranges (14 R431, R432) -/

/-- Yesterday's stock is on. -/
def Pair.stock (p : Pair) : Bool := p.bankStride != 0

/-- Bytes of a bank. -/
def Pair.bankBytes (p : Pair) : Nat := p.chunks * p.chunkStride

/-- Ranges of a bank. -/
def Pair.ranges (p : Pair) : Nat := ceilDiv p.bankBytes (2 ^ 20)

/-- Address of the bank of a parity. -/
def Pair.bankAt (p : Pair) (k : Nat) : Nat := if p.stock then p.base + k % 2 * p.bankStride else p.base

/-- The input bank of a step. -/
def Pair.inBank (p : Pair) (seq : Nat) : Nat := p.bankAt seq

/-- The output bank of a step. -/
def Pair.outBank (p : Pair) (seq : Nat) : Nat := p.bankAt (seq + 1)

/-- Bytes of a range. -/
def Pair.rangeBytes (p : Pair) (r : Nat) : Nat := min (2 ^ 20) (p.bankBytes - r * 2 ^ 20)

/-- 2 KiB blocks of a range. -/
def Pair.rangeBlocks (p : Pair) (r : Nat) : Nat := ceilDiv (p.rangeBytes r) 2048

/-- Chunks whose state overlaps a range. -/
def Pair.chunksOf (p : Pair) (r : Nat) : List Nat :=
  if p.chunkStride = 0 then []
  else
    let lo := r * 2 ^ 20 / p.chunkStride
    let hi := (r * 2 ^ 20 + p.rangeBytes r - 1) / p.chunkStride
    (upTo (hi + 1 - lo)).map (lo + ·)

/-- Ranges of a digest message (14 R438). -/
def digestBatch : Nat := 448

/-! ### Control messages (14 R446) -/

/-- Code of a pair's state (14 R434). -/
def PairState.code : PairState → Nat
  | .free => 0
  | .pairing => 1
  | .paired => 2
  | .alone => 3
  | .resyncing => 4
  | .rollingBack => 5
  | .custodyLost => 6
  | .degraded => 7

/-- A control header. -/
def State.controlHeader (s : State) (k : Nat) (p : Pair) (kind seq range count detail : Nat) : Nat :=
  kind + b2n p.partner * 2 ^ 4 + (k % 4096) * 2 ^ 8 + (s.obj Obj.plane % 16) * 2 ^ 20
    + (s.obj Obj.pos % 256) * 2 ^ 24 + (seq % 2 ^ 32) * 2 ^ 32 + (range % 2 ^ 20) * 2 ^ 64
    + (count % 2 ^ 16) * 2 ^ 96 + (p.token % 2 ^ 16) * 2 ^ 112 + (s.time.bell % 2 ^ 64) * 2 ^ 128
    + (detail % 2 ^ 64) * 2 ^ 192

/-- Send a control message of a pair; the turning leaf rotates, one step a message. -/
def State.sendControl (s : State) (k kind seq range count detail : Nat) (body : List Byte) : State :=
  let p := s.pair k
  let f := { s.newFrame 6 10 with pitch := p.pitch, group := p.group }
  let f := (f.withPayload (leBytes 32 (s.controlHeader k p kind seq range count detail) ++ body)).toModule
    (s.turningLeaf s.custody.turning) p.otherPos
  ({ s with custody := { s.custody with turning := s.custody.turning + 1 } } : State).send 0 f

/-- The CRC of the arguments that both sides give alike (14 R433). -/
def Pair.argCrc (p : Pair) : Nat :=
  crc32c (Config.custodyArgBytes p.pitch p.group p.stock p.chunkStride p.chunks p.firstSeq)

/-- Send the hello of a pair. -/
def State.sendHello (s : State) (k : Nat) : State :=
  s.sendControl k 1 (s.pair k).firstSeq 0 0 (s.pair k).argCrc []

/-- An event about a pair. The record names the pair table, which has no word: its arg is free (log 6). -/
def State.pairEvent (s : State) : State := s.draw.eventAt 7 moduleBlock Obj.pairTable s.drawn

/-- Set or clear the other custodian's bit in heartbeat_peers (14 R433, R451). -/
def State.peerBit (s : State) (pos : Nat) (on : Bool) : State :=
  s.putObj Obj.heartbeatPeers (putBit (s.obj Obj.heartbeatPeers) pos on)

/-! ### Loss and degradation (14 R443, R453, R454) -/

/-- Custody of a pair is lost. -/
def State.loseCustody (s : State) (k : Nat) : State :=
  let s := s.modPair k fun p => { p with state := .custodyLost, restoring := none, dueCompared := none }
  let s := ((s.capsule 7 false moduleBlock).bump Obj.custodyLostEvents).eventObj 7 moduleBlock Obj.custodyLostEvents
  s.holdAlert (.custodyLost k)

/-- The pair becomes degraded; a resync that runs ends with it, its command failed (14 R443, 17 R541). -/
def State.degrade (s : State) (k : Nat) : State :=
  let p := s.pair k
  let s := s.setPair k { p with state := .degraded, resync := none, restoring := none }
  let s := s.holdAlert (.degraded k)
  match p.resync.bind (·.token) with
  | some token => s.endFailed token 8
  | none => s

/-! ### Resync, sending side (14 R447, R448) -/

/-- The bytes of a range as this custodian holds them, in the bank that a sequence J reads. -/
def State.rangeData (s : State) (p : Pair) (seq r : Nat) : List Byte :=
  s.read (p.inBank seq + r * 2 ^ 20) (p.rangeBytes r)

/-- Send one range: its 2 KiB blocks, in order. -/
def State.sendRangeBlocks (s : State) (k seq r : Nat) : State :=
  let p := s.pair k
  let data := s.rangeData p seq r
  let s := s.countFirmware (p.inBank seq + r * 2 ^ 20) data.length false
  let s := (upTo (p.rangeBlocks r)).foldl (fun s b =>
    s.sendControl k 5 seq r b 0 ((data.drop (2048 * b)).take 2048)) s
  s.bump Obj.remirrorBytes data.length

/-- A resync that starts again at its first range (14 R456). -/
def Resync.restart (y : Resync) : Resync :=
  { y with out := y.all, copied := 0, failures := if y.out == y.all then y.failures else 0 }

/-- Send the first outstanding range. One that cannot be read starts the resync again at its first range;
where that is the one, it waits for its timeout (14 R448, R456). At thermal level 2 it holds (15 R476). -/
def State.sendRange (s : State) (k : Nat) : State :=
  let p := s.pair k
  match p.resync with
  | none => s
  | some y =>
    let bad := fun (e : Nat × Nat) => s.readBad (p.inBank e.1 + e.2 * 2 ^ 20) (p.rangeBytes e.2)
    let y := if (y.out.take 1).any bad then y.restart else y
    let s := s.setPair k { p with resync := some { y with started := true, held := s.limited, since := s.time.rung } }
    match y.out with
    | [] => s
    | e :: _ => if s.limited || bad e then s else s.sendRangeBlocks k e.1 e.2

/-- Every range of a resync is done: the pair is paired again, and a step it repaired becomes compared at
the next boundary (14 R440, R447, R452). What had come meanwhile is compared then. -/
def State.resyncDone (s : State) (k : Nat) (y : Resync) : State :=
  let s := s.modPair k fun p =>
    { p with state := .paired, resync := none, pairedBell := s.time.bell
             dueCompared := match y.compares with
               | some q => some q
               | none => p.dueCompared }
  let s := s.when y.newPartner fun s => s.peerBit (s.pair k).otherPos true
  match y.token with
  | some token => (s.setResult token 0 y.copied).endDone token
  | none => s

/-- Start or go on with a resync: send the next range, or end. -/
def State.resyncNext (s : State) (k : Nat) : State :=
  match (s.pair k).resync with
  | none => s
  | some y =>
    if y.out.isEmpty && y.want.isEmpty then s.resyncDone k y
    else if y.out.isEmpty then s
    else s.sendRange k

/-- Begin a resync of a pair. -/
def State.beginResync (s : State) (k : Nat) (y : Resync) : State :=
  (s.modPair k fun p => { p with state := .resyncing, resync := some y }).resyncNext k

/-- A range failed: sent again, or the pair degraded after three failures (14 R448). -/
def State.rangeFailed (s : State) (k : Nat) (y : Resync) : State :=
  if 2 ≤ y.failures then s.degrade k
  else (s.modPair k fun p => { p with resync := some { y with failures := y.failures + 1 } }).sendRange k

/-- Re-mirroring copies once the hello has come and the step before J is closed here (14 R452); a resync that
level 2 held goes on. -/
def State.startRemirror (s : State) (k : Nat) : State :=
  let p := s.pair k
  match p.resync with
  | some y =>
    if y.newPartner && !y.started && p.gotHello && !y.out.isEmpty
        && (y.ready || (p.closedAny && serialLe ((y.seq + 2 ^ 32 - 1) % 2 ^ 32) p.closed)) then s.resyncNext k
    else s.when (y.held && !s.limited) fun s => s.sendRange k
  | none => s

/-! ### Comparison (14 R438 to R441) -/

/-- This side holds all its digests of the step in progress. -/
def Pair.mineFull (p : Pair) : Bool := (upTo p.ranges).all fun r => (Tbl.find p.mine r).isSome

/-- The other's digests of the step in progress. -/
def Pair.theirsNow (p : Pair) : Tbl (Nat × Bool × Nat) := Tbl.get p.theirs p.step []

/-- It holds all of the other's. -/
def Pair.theirsFull (p : Pair) : Bool := (upTo p.ranges).all fun r => (Tbl.find p.theirsNow r).isSome

/-- Ranges that do not match. -/
def Pair.suspects (p : Pair) : List Nat :=
  (upTo p.ranges).filter fun r =>
    let a := Tbl.get p.mine r (0, true, 0)
    let b := Tbl.get p.theirsNow r (0, true, 0)
    a.2.1 || b.2.1 || a.1 != b.1

/-- A range suspect only because one side's digest cannot be read. -/
def Pair.oneUnreadable (p : Pair) (r : Nat) : Bool :=
  (Tbl.get p.mine r (0, true, 0)).2.1 != (Tbl.get p.theirsNow r (0, true, 0)).2.1

/-- The clean histories of a range: here, there. -/
def Pair.cleanHistory (p : Pair) (r : Nat) : Bool × Bool :=
  ((Tbl.get p.mine r (0, true, 0)).2.2 == 0, (Tbl.get p.theirsNow r (0, true, 0)).2.2 == 0)

/-- The resync of suspect ranges: this side sends those it is the source of and waits for the others. A
range is copied in each bank of the sequences given (14 R447). -/
def Pair.repair (p : Pair) (rs : List Nat) (seqs : List Nat) (mineGood : Nat → Bool) : Resync :=
  let both := fun (rs : List Nat) => rs.flatMap fun r => seqs.map fun q => (q, r)
  let out := both (rs.filter mineGood)
  { newPartner := false, seq := (p.step + 1) % 2 ^ 32, out, all := out
    want := both (rs.filter fun r => !mineGood r), compares := some p.step }

/-- The sequence that reads a step's output bank. -/
def Pair.after (p : Pair) : Nat := (p.step + 1) % 2 ^ 32

/-- The sequences whose input banks a range made unreadable by poison is copied in: both banks, since the
source cannot tell which of the target's hold poisoned units (log 84). -/
def Pair.poisonSeqs (p : Pair) : List Nat := if p.stock then [p.after, p.step] else [p.after]

/-- This side is the source of a suspect range with stock off (14 R441). -/
def Pair.isSource (p : Pair) (r : Nat) : Bool :=
  let h := p.cleanHistory r
  if h.1 == h.2 then !p.partner else h.1

/-- Suspect ranges whose history decides nothing: resynchronised from the primary and counted. -/
def Pair.undecided (p : Pair) (rs : List Nat) : Nat :=
  (rs.filter fun r => (p.cleanHistory r).1 == (p.cleanHistory r).2).length

/-- The outcome of a comparison (14 R440). -/
def State.compareOutcome (s : State) (k : Nat) : State :=
  let p := s.pair k
  let rs := p.suspects
  if rs.isEmpty then s.setPair k { p with dueCompared := some p.step, rollbacks := 0 }
  else if rs.all p.oneUnreadable then
    s.beginResync k (p.repair rs p.poisonSeqs fun r => !(Tbl.get p.mine r (0, true, 0)).2.1)
  else if p.stock then
    s.setPair k { p with state := .rollingBack, restoring := some p.step, restoreRung := s.time.rung + 1 }
  else (s.bump Obj.unresolved (p.undecided rs)).beginResync k (p.repair rs [p.after] p.isSource)

/-- The message that ends this side's comparison. -/
def State.sendCompared (s : State) (k : Nat) : State :=
  s.sendControl k 4 (s.pair k).step 0 (min 65535 (s.pair k).suspects.length) 0 []

/-- Compare once this side has closed and both sets are held (14 R438). -/
def State.tryCompare (s : State) (k : Nat) : State :=
  let p := s.pair k
  if !(p.state == .paired && p.closedAny && p.closed == p.step && p.comparedSent != some p.step
      && p.mineFull && p.theirsFull) then s
  else
    let s := (s.bump Obj.comparisons).bump Obj.suspectRanges p.suspects.length
    let s := (s.modPair k fun p => { p with comparedSent := some p.step }).sendCompared k
    s.compareOutcome k

/-! ### Digest messages (14 R438, R446) -/

/-- Ranges of a batch. -/
def Pair.batch (p : Pair) (b : Nat) : List Nat :=
  (upTo (min digestBatch (p.ranges - digestBatch * b))).map (digestBatch * b + ·)

/-- A batch is complete: all its digests are taken, and the last one waits for the close. -/
def Pair.batchReady (p : Pair) (b : Nat) : Bool :=
  ((p.batch b).all fun r => (Tbl.find p.mine r).isSome)
    && (decide (digestBatch * (b + 1) < p.ranges) || (p.closedAny && p.closed == p.step))

/-- The body of a digest message. -/
def digestBody (mine : Tbl (Nat × Bool × Nat)) (rs : List Nat) : List Byte :=
  let ds := rs.map fun r => Tbl.get mine r (0, true, 0)
  let at' := fun i => ds.getD i (0, false, 0)
  let flags := (upTo ds.length).foldl (fun w i => if (at' i).2.1 then setBit w i else w) 0
  let hist := (upTo ds.length).foldl (fun w i => w + (at' i).2.2 % 4 * 4 ^ i) 0
  ds.flatMap (fun d => leBytes 8 d.1) ++ leBytes (ceilDiv ds.length 8) flags ++ leBytes (ceilDiv ds.length 4) hist

/-- Send one batch of a step's digests. -/
def State.sendDigests (s : State) (k seq : Nat) (mine : Tbl (Nat × Bool × Nat)) (b : Nat) : State :=
  let rs := (s.pair k).batch b
  s.sendControl k 3 seq (digestBatch * b) rs.length 0 (digestBody mine rs)

/-- Send one batch of the step in progress. -/
def State.sendBatch (s : State) (k b : Nat) : State := s.sendDigests k (s.pair k).step (s.pair k).mine b

/-- Send again what the other has not compared: an earlier step's digests, and every complete batch of a
step that has closed. -/
def State.resendDigests (s : State) (k : Nat) : State :=
  let p := s.pair k
  let bs := upTo (ceilDiv p.ranges digestBatch)
  let s := match p.unacked with
    | some (q, mine) => bs.foldl (fun s b => s.sendDigests k q mine b) s
    | none => s
  if p.closedAny && p.closed == p.step && p.comparedGot != some p.step then
    bs.foldl (fun s b => if p.batchReady b then s.sendBatch k b else s) s
  else s

/-- Digests of a received body. -/
def digestsOf (first count : Nat) (body : List Byte) : List (Nat × (Nat × Bool × Nat)) :=
  let flags := leNat ((body.drop (8 * count)).take (ceilDiv count 8))
  let hist := leNat ((body.drop (8 * count + ceilDiv count 8)).take (ceilDiv count 4))
  (upTo count).map fun i => (first + i, leNat ((body.drop (8 * i)).take 8), bit flags i, bits hist (2 * i) 2)

/-! ### Close (14 R436, R450) -/

/-- Both closes of a step are known: the lag of the other custodian is judged (14 R450). -/
def State.judgeLag (s : State) (k : Nat) : State :=
  let p := s.pair k
  match p.otherClose with
  | some (q, _, _) =>
    if !(p.closedAny && p.closed == q) then s
    else if p.closeBell + s.obj Obj.slowLag < p.otherCloseBell then
      let n := p.slowRun + 1
      let now := decide (s.obj Obj.slowSteps ≤ n)
      let s := s.setPair k { p with slowRun := n, slow := p.slow || now }
      s.when (now && !p.slow) State.pairEvent
    else s.setPair k { p with slowRun := 0, slow := false }
  | none => s

/-- What this side does in the step in progress is told to the other: they are paired, or a resync of the
pair runs that reaches the step. -/
def Pair.tells (p : Pair) : Bool :=
  p.gotHello && (p.state == .paired || (p.state == .resyncing && serialLe p.firstSeq p.step))

/-- The step in progress closes here. The primary's close message counts the chunks applied clean; the
partner sends its own (log 49). -/
def State.closeStep (s : State) (k : Nat) (aborted : Bool) : State :=
  let p := s.pair k
  let s := s.setPair k { p with closed := p.step, closedAny := true, closeRung := some s.time.rung
                                closeBell := s.time.bell, digestRung := s.time.rung, lateReported := false }
  let s := s.when p.tells fun s => s.sendControl k 2 p.step 0 0 (p.clean.length + b2n aborted * 2 ^ 24) []
  let last := (p.ranges - 1) / digestBatch
  let s := s.when (p.tells && (s.pair k).batchReady last) fun s => s.sendBatch k last
  ((s.judgeLag k).tryCompare k).startRemirror k

/-- The step has closed here already. -/
def Pair.stepClosed (p : Pair) : Bool := p.closedAny && p.closed == p.step

/-- The step closes if its chunks are in: at the primary all of them, at the partner as many as the
primary counted (14 R436). -/
def State.checkClose (s : State) (k : Nat) : State :=
  let p := s.pair k
  if p.stepClosed then s
  else if !p.partner then (if p.clean.length = p.chunks then s.closeStep k false else s)
  else match p.otherClose with
    | some (q, n, aborted) => if q = p.step && p.clean.length = n then s.closeStep k aborted else s
    | none => s

/-- A step begins: nothing of it is counted yet. -/
def Pair.begin (p : Pair) (seq : Nat) : Pair :=
  if p.step = seq then p
  else
    let waits := p.comparedSent == some p.step && p.comparedGot != some p.step
    { p with step := seq, clean := [], carried := [], mine := [], closeRung := none
             unacked := if waits then some (p.step, p.mine) else p.unacked
             history := Tbl.mapVals p.history fun _ h => h % 2 * 2 }

/-- A chunk taken counts as applied or carried (14 R436, R441); one of a step already compared, or beyond
the shard's chunks, counts for nothing. -/
def State.countChunk (s : State) (k seq chunk : Nat) (applied dirty : Bool) : State :=
  if (s.pair k).stale seq chunk || !decide (chunk < (s.pair k).chunks) then s else
  let p := (s.pair k).begin seq
  let p := if applied then { p with clean := if p.clean.contains chunk then p.clean else p.clean ++ [chunk] }
    else { p with carried := if p.carried.contains chunk then p.carried else p.carried ++ [chunk] }
  let p := if dirty then
      { p with history := (p.rangesOf chunk).foldl (fun h r => Tbl.set h r (setBit (Tbl.get h r 0) 0)) p.history }
    else p
  (s.setPair k p).checkClose k

/-- An aborted end-of-instance record arrives: the primary closes the step (14 R436). -/
def State.abortArrives (s : State) (g seq : Nat) : State :=
  match s.pairOfGroup g with
  | none => s
  | some k =>
    let p := s.pair k
    if p.partner || (p.comparedAny && serialLe seq p.compared) then s
    else
      let s := s.setPair k (p.begin seq)
      if (s.pair k).stepClosed then s else s.closeStep k true

/-! ### Which pair a message names (14 R446, R449) -/

/-- A message fits a pair record. A pair that is alone accepts only a hello of a new partner (R449, R452). -/
def State.fits (s : State) (m : CustodyMsg) (k : Nat) (p : Pair) : Bool :=
  let c := m.control.toNat
  let hello := bits c 0 4 == 1
  let spare := p.state == .alone && hello
  p.state != .free && p.group == m.group.val && p.pitch == m.pitch.val && (spare || p.otherPos == bits c 24 8)
    && s.obj Obj.plane == bits c 20 4 && (if spare then bit c 4 else bit c 4 != p.partner) && decide (k < 4096)
    && (hello || (p.gotHello && p.otherPair == bits c 8 12 && p.state != .alone))

/-- The pair of a message. -/
def State.pairOfMsg (s : State) (m : CustodyMsg) : Option Nat :=
  (s.custody.pairs.find? fun e => s.fits m e.1 e.2).map (·.1)

/-- A message of a kind for one of the module's pairs; any other is discarded and counted. -/
def State.withPair (s : State) (m : CustodyMsg) (kind : Nat) (f : State → Nat → State) : State :=
  if bits m.control.toNat 0 4 ≠ kind then s
  else match s.pairOfMsg m with
    | some k => f s k
    | none => s.bump Obj.custodyDiscards

/-! ### Hello (14 R433) -/

/-- Pairing fails: the record is free again; a survivor stays alone. -/
def State.pairFails (s : State) (k code : Nat) : State :=
  let p := s.pair k
  let s := s.setPair k (if p.resync.isSome then { p with state := .alone, resync := none } else {})
  s.endFailed p.token code

/-- The other custodian's hello: its pair number and the CRC of its arguments. -/
def State.heardHello (s : State) (k otherPair crc : Nat) : State :=
  let p := s.pair k
  if p.gotHello then s
  else if crc != p.argCrc then s.pairFails k 11
  else
    let s := s.setPair k { p with gotHello := true, otherPair, pairedBell := s.time.bell }
    match p.resync with
    | some _ => s.startRemirror k
    | none =>
      let s := (s.modPair k fun p => { p with state := .paired }).peerBit p.otherPos true
      s.endDone p.token

/-- A hello arrives. A pair that is alone keeps a new partner's until RESYNC names it. -/
def State.takeHello (s : State) (m : CustodyMsg) (k : Nat) : State :=
  let c := m.control.toNat
  if (s.pair k).state == .alone then
    s.modPair k fun p => { p with spareHello := some (bits c 24 8, bits c 8 12, bits c 192 32) }
  else s.heardHello k (bits c 8 12) (bits c 192 32)

/-- CUSTODY_HELLO (14 R433). -/
def execCustodyHello (msg : CustodyMsg) (s : State) : Result :=
  .next (s.withPair msg 1 fun s k => s.takeHello msg k)

/-- HELLO_TIMEOUT (14 R433). -/
def execHelloTimeout (pair : Fin 4096) (s : State) : Result :=
  let p := s.pair pair.val
  let waits := p.state == .pairing || (p.state == .resyncing && !p.gotHello)
  .next (if waits && decide (p.helloSince + 5000 ≤ s.time.rung) then s.pairFails pair.val 13 else s)

/-! ### Close messages -/

/-- A close message arrives. -/
def State.takeClose (s : State) (m : CustodyMsg) (k : Nat) : State :=
  let c := m.control.toNat
  let q := bits c 32 32
  let s := s.modPair k fun p =>
    let known := (p.comparedAny && serialLe q p.compared) || (p.closedAny && serialLe q p.closed)
    let p := if p.partner && !known then p.begin q else p
    { p with otherClose := some (q, bits c 192 24, bit c 216), otherCloseRung := s.time.rung
             otherCloseBell := bits c 128 64 }
  if (s.pair k).partner && !(s.pair k).stepClosed then
    let s := s.checkClose k
    if (s.pair k).stepClosed then s else s.judgeLag k
  else s.judgeLag k

/-- CUSTODY_CLOSE (14 R436). -/
def execCustodyClose (msg : CustodyMsg) (s : State) : Result :=
  .next (s.withPair msg 2 fun s k => s.takeClose msg k)

/-- CLOSE_WAIT_EXPIRY (14 R436): close_wait bells after the primary's close message. -/
def execCloseWaitExpiry (pair : Fin 4096) (s : State) : Result :=
  let p := s.pair pair.val
  .next (match p.otherClose with
    | some (q, _, aborted) =>
      if p.partner && !(p.closedAny && serialLe q p.closed)
          && decide (p.otherCloseRung + s.obj Obj.closeWait ≤ s.time.rung) then
        (s.setPair pair.val (p.begin q)).closeStep pair.val aborted
      else s
    | none => s)

/-! ### Digests (14 R437, R438) -/

/-- Every chunk that overlaps a range has counted, or the step has closed without it (log 50). -/
def Pair.rangeDue (p : Pair) (r : Nat) : Bool :=
  p.stepClosed || (p.chunksOf r).all fun c => p.clean.contains c || p.carried.contains c

/-- RANGE_DIGEST_DONE (14 R437): the digest of a range of the output bank; a complete batch is sent. -/
def execRangeDigestDone (pair : Fin 4096) (range : Nat) (s : State) : Result :=
  let k := pair.val
  let p := s.pair k
  .next (if p.state == .free || !decide (range < p.ranges) || !p.rangeDue range
        || (Tbl.find p.mine range).isSome then s
    else
      let a := p.outBank p.step + range * 2 ^ 20
      let n := p.rangeBytes range
      let d := (crc64 (s.read a n), s.readBad a n, Tbl.get p.history range 0)
      let s := ((s.countFirmware a n false).bump Obj.digestBytes n).setPair k { p with mine := Tbl.set p.mine range d }
      let b := range / digestBatch
      let s := if (s.pair k).tells && (s.pair k).batchReady b then s.sendBatch k b else s
      s.tryCompare k)

/-- A digest message arrives. -/
def State.takeDigest (s : State) (m : CustodyMsg) (k : Nat) : State :=
  let c := m.control.toNat
  let p := s.pair k
  let q := bits c 32 32
  if p.comparedSent == some q then s.sendControl k 4 q 0 (min 65535 p.suspects.length) 0 []
  else if p.comparedAny && serialLe q p.compared then s
  else
    let ds := digestsOf (bits c 64 20) (bits c 96 16) m.body
    let t := ds.foldl (fun t d => Tbl.set t d.1 d.2) (Tbl.get p.theirs q [])
    (s.setPair k { p with theirs := Tbl.set p.theirs q t }).tryCompare k

/-- CUSTODY_DIGEST (14 R438). -/
def execCustodyDigest (msg : CustodyMsg) (s : State) : Result :=
  .next (s.withPair msg 3 fun s k => s.takeDigest msg k)

/-- CUSTODY_COMPARED (14 R438): the digests need no resending. -/
def execCustodyCompared (msg : CustodyMsg) (s : State) : Result :=
  .next (s.withPair msg 4 fun s k =>
    s.modPair k fun p =>
      let q := bits msg.control.toNat 32 32
      { p with comparedGot := some q, unacked := p.unacked.filter fun u => u.1 != q })

/-- DIGEST_RESEND (14 R438). -/
def execDigestResend (pair : Fin 4096) (s : State) : Result :=
  let k := pair.val
  let p := s.pair k
  let owed := p.unacked.isSome || (p.stepClosed && p.comparedGot != some p.step)
  .next (if p.tells && owed && decide (p.digestRung + s.obj Obj.digestResend ≤ s.time.rung) then
      (s.setPair k { p with digestRung := s.time.rung }).resendDigests k
    else s)

/-- COMPARISON_LATE (14 R439). -/
def execComparisonLate (pair : Fin 4096) (s : State) : Result :=
  let k := pair.val
  let p := s.pair k
  .next (match p.closeRung with
    | some r =>
      if p.state == .paired && p.stepClosed && !p.theirsFull && !p.lateReported
          && decide (r + 5000 ≤ s.time.rung) then
        (s.setPair k { p with lateReported := true }).pairEvent
      else s
    | none => s)

/-! ### Rollback (14 R442) -/

/-- The notice that voids a step. Its till, crc and counts are not stated: free (log 6). -/
def State.rollbackNotice (s : State) (k seq : Nat) : State :=
  let g := (s.pair k).group
  let x := s.drawn
  let s := s.draw
  let w := s.receiptWord { verdict := 1, cause := 13, till := bits x 0 6, members := bits x 6 11
                           crc := bits x 17 32, elements := bits x 49 20, residue := bits x 69 16 }
  s.sendGroup 0 (s.receiptFrame g seq 0xFFFFFF w) g

/-- The copy of a rollback ends: the input bank stands in the output bank. A poisoned source restarts it
(14 R456). -/
def State.restoreDone (s : State) (k seq : Nat) : State :=
  let p := s.pair k
  if s.readBad (p.inBank seq) p.bankBytes then s.setPair k { p with restoreRung := s.time.rung }
  else
    let s := (s.countFirmware (p.inBank seq) p.bankBytes false).countFirmware (p.outBank seq) p.bankBytes true
    let s := s.store (p.outBank seq) (s.read (p.inBank seq) p.bankBytes)
    s.setPair k { p with restoring := none, dueCompared := some seq, dueRollback := true }

/-- The copy of a restore has had its time, at restore_rate, within this bell. -/
def State.restoreOver (s : State) (p : Pair) : Bool :=
  decide (p.restoreRung ≤ s.time.rung)
    && decide (p.bankBytes < (s.time.rung + 1 - p.restoreRung) * s.period * s.obj Obj.restoreRate)

/-- RESTORE_COMPLETE (14 R442). -/
def execRestoreComplete (pair : Fin 4096) (s : State) : Result :=
  let p := s.pair pair.val
  .next (match p.restoring with
    | some q => if s.restoreOver p then s.restoreDone pair.val q else s
    | none => s)

/-- A sequence becomes compared at a boundary; a rollback counts, sends its notice at the primary, and
degrades a pair at its limit (14 R439, R442, R443). -/
def State.applyCompared (s : State) (k : Nat) : State :=
  let p := s.pair k
  match p.dueCompared with
  | none => s
  | some q =>
    let n := if p.dueRollback then p.rollbacks + 1 else p.rollbacks
    let s := s.setPair k { p with
      compared := q, comparedAny := true, dueCompared := none, dueRollback := false, rollbacks := n
      state := if p.state == .rollingBack then .paired else p.state
      taking := none, theirs := p.theirs.filter fun e => !serialLe e.1 q
      history := Tbl.mapVals p.history fun _ h => h % 2 }
    if !p.dueRollback then s
    else
      let s := s.bump Obj.rollbacksTotal
      let s := s.when (!p.partner) fun s => s.rollbackNotice k q
      let s := match p.taking with
        | some token => (s.setResult token 0 q).endDone token
        | none => s
      s.when (decide (s.obj Obj.rollbackLimit ≤ n) && p.state == .rollingBack) fun s => s.degrade k

/-- Every pair at a boundary. -/
def State.comparedAll (s : State) : State :=
  (s.custody.pairs.map (·.1)).foldl (fun s k => (s.applyCompared k).startRemirror k) s

/-! ### Resync messages (14 R448, R452) -/

/-- A resync that this side did not know of begins: a new partner expects the whole shard. -/
def Pair.expectResync (p : Pair) (seq r : Nat) : Resync :=
  match p.resync with
  | some y => y
  | none =>
    if p.partner && !p.comparedAny && p.firstSeq == seq then
      { newPartner := true, seq, want := (upTo p.ranges).map fun r => (seq, r), started := true }
    else { newPartner := false, seq, want := [(seq, r)], started := true }

/-- A resync block arrives and is written; the last one of a range is answered. -/
def State.takeResync (s : State) (m : CustodyMsg) (k : Nat) : State :=
  let c := m.control.toNat
  let p := s.pair k
  let q := bits c 32 32
  let r := bits c 64 20
  let b := bits c 96 16
  if !decide (r < p.ranges) || !decide (b < p.rangeBlocks r) then s.bump Obj.custodyDiscards
  else
    let y := p.expectResync q r
    let a := p.inBank q + r * 2 ^ 20 + 2048 * b
    let body := m.body.take (min 2048 (p.rangeBytes r - 2048 * b))
    let s := (s.countFirmware a body.length true).store a body
    let s := s.bump Obj.remirrorBytes m.body.length
    let had := if y.blocksOf == (q, r) then y.blocks else []
    let blocks := if had.contains b then had else had ++ [b]
    let whole := blocks.length == p.rangeBlocks r
    let y := { y with blocks := if whole then [] else blocks, blocksOf := (q, r)
                      want := if whole then y.want.erase (q, r) else y.want }
    let s := s.setPair k { p with state := .resyncing, resync := some y }
    let s := s.when whole fun s => s.sendControl k 6 q r 0 (crc64 (s.rangeData p q r)) []
    if whole && y.want.isEmpty && y.out.isEmpty then s.resyncDone k y else s

/-- RESYNC_DATA (14 R448). -/
def execResyncData (msg : CustodyMsg) (s : State) : Result :=
  .next (s.withPair msg 5 fun s k => s.takeResync msg k)

/-- A resync ack arrives at the source: the range is done, or sent again. -/
def State.takeAck (s : State) (m : CustodyMsg) (k : Nat) : State :=
  let c := m.control.toNat
  let p := s.pair k
  match p.resync with
  | none => s
  | some y => match y.out with
    | (q, r) :: rest =>
      if q ≠ bits c 32 32 || r ≠ bits c 64 20 || !y.started then s
      else if bits c 192 64 ≠ crc64 (s.rangeData p q r) then s.rangeFailed k y
      else
        let y := { y with out := rest, failures := 0, copied := y.copied + 1 }
        let s := (s.setPair k { p with resync := some y }).bump Obj.rangesResynced
        let s := match y.token with
          | some token => s.setProgress token (r + 1)
          | none => s
        s.resyncNext k
    | [] => s

/-- RESYNC_ACK (14 R448). -/
def execResyncAck (msg : CustodyMsg) (s : State) : Result :=
  .next (s.withPair msg 6 fun s k => s.takeAck msg k)

/-- RESYNC_RANGE_TIMEOUT (14 R448). -/
def execResyncRangeTimeout (pair : Fin 4096) (s : State) : Result :=
  .next (match (s.pair pair.val).resync with
    | some y =>
      if y.started && !y.held && !y.out.isEmpty && decide (y.since + s.obj Obj.digestResend ≤ s.time.rung) then
        s.rangeFailed pair.val y
      else s
    | none => s)

/-- A map-out starts: the recoveries that copy state start again, the target and token the same (14 R456). -/
def State.restartRecoveries (s : State) : State :=
  (s.custody.pairs.map (·.1)).foldl (fun s k =>
    let s := s.modPair k fun p => { p with
      restoreRung := if p.restoring.isSome then s.time.rung else p.restoreRung
      resync := p.resync.map Resync.restart }
    s.when ((s.pair k).resync.any fun y => y.started && !y.out.isEmpty) fun s => s.sendRange k) s

/-! ### Losing a custodian (14 R449, R453) -/

/-- Bell of the latest heartbeat of a POS, or of the pairing if none has come since. -/
def State.heardFrom (s : State) (p : Pair) : Nat :=
  max p.pairedBell (s.tableNat Obj.heartbeatLast.key (8 * p.otherPos) 8)

/-- The other custodian is declared lost. -/
def State.declareLost (s : State) (k : Nat) : State :=
  let p := s.pair k
  match p.state, p.resync with
  | .degraded, _ => s.loseCustody k
  | .resyncing, some y =>
    if y.newPartner && p.partner then s.loseCustody k
    else
      let s := ((s.setPair k { p with state := .alone, resync := none }).capsule 7 false moduleBlock).pairEvent
      match y.token with
      | some token => s.endFailed token 8
      | none => s
  | _, _ => ((s.setPair k { p with state := .alone }).capsule 7 false moduleBlock).pairEvent

/-- A pair that watches the other's heartbeats. -/
def Pair.watches (p : Pair) : Bool :=
  p.state == .paired || p.state == .rollingBack || p.state == .degraded || (p.state == .resyncing && p.gotHello)

/-- PARTNER_TIMEOUT (14 R449). -/
def execPartnerTimeout (pair : Fin 4096) (s : State) : Result :=
  let p := s.pair pair.val
  .next (if p.watches
        && decide (s.obj Obj.partnerTimeout * 1000 ≤ (s.time.bell - s.heardFrom p) * s.period) then
      s.declareLost pair.val
    else s)

/-! ### Takeover (14 R451) -/

/-- A step is in progress here: begun and not closed. -/
def Pair.inProgress (p : Pair) : Bool :=
  (!p.clean.isEmpty || !p.carried.isEmpty) && !p.stepClosed

/-- The step that a takeover with stock on rolls back. -/
def Pair.rolledBack (p : Pair) : Option Nat :=
  if p.restoring.isSome then p.restoring
  else if p.inProgress then some p.step
  else if p.closedAny && (!p.comparedAny || !serialLe p.closed p.compared) then some ((p.closed + 1) % 2 ^ 32)
  else none

/-- The bitmap of chunks of the interrupted step that were applied clean; none if no step was in progress. -/
def State.writeApplied (s : State) (k : Nat) (p : Pair) : State :=
  s.write (s.takeOverBitmap k) (leBytes (ceilDiv p.chunks 8) (if p.inProgress then p.clean.foldl setBit 0 else 0))

/-- A takeover at its boundary. -/
def State.takeOverNow (s : State) (k token : Nat) : State :=
  let p := s.pair k
  let s := ((s.bump Obj.takeovers).markActed token).peerBit p.otherPos false
  let p := { p with state := .alone, partner := false, resync := none, token := token
                    dueCompared := none, dueRollback := false, unacked := none }
  let done := { p with restoring := none, compared := if p.closedAny then p.closed else p.compared
                       comparedAny := p.comparedAny || p.closedAny }
  match if p.stock then p.rolledBack else none with
  | some q =>
    s.setPair k { p with restoring := some q, restoreRung := s.time.rung, taking := some token }
  | none =>
    let p := done
    if p.stock then ((s.setPair k p).setResult token 0 p.compared).endDone token
    else
    let s := (s.setPair k p).writeApplied k p
    ((s.setResult token 0 p.compared).setResult token 1 (s.takeOverBitmap k)).endDone token

/-- The pair may be taken over: alone, paired or degraded. -/
def Pair.mayTakeOver (p : Pair) : Bool := p.state == .alone || p.state == .paired || p.state == .degraded

/-- The takeovers of a pair whose boundary has come act; one that an earlier one has overtaken fails
(17 R535). -/
def State.takeOverDue (s : State) (k : Nat) : State :=
  (s.dueOn 0x10 0 12 k).foldl (fun s token =>
    if (s.pair k).mayTakeOver then s.takeOverNow k token else s.endFailed token 8) s

/-- TAKE_OVER_EFFECT (14 R451). -/
def execTakeOverEffect (pair : Fin 4096) (s : State) : Result := .next (s.takeOverDue pair.val)

/-! ### Commands (17 R540, R541) -/

/-- The pair that PAIR_CUSTODY asks for. -/
def pairRecordOf (args : Tbl Nat) : Pair :=
  let w := argOf args 0
  { state := .pairing, pitch := bits w 12 12, group := bits w 24 16, partner := bit w 40
    otherPos := bits w 48 8, base := argOf args 1, bankStride := argOf args 2, chunkStride := argOf args 3
    chunks := argOf args 4, firstSeq := argOf args 5, step := argOf args 5 }

/-- Two spans overlap. -/
def overlaps (a n b m : Nat) : Bool := decide (a < b + m) && decide (b < a + n)

/-- Why PAIR_CUSTODY is refused (14 R430, 17 R541). -/
def State.pairCase (s : State) (args : Tbl Nat) : Refused :=
  let p := pairRecordOf args
  let k := bits (argOf args 0) 0 12
  let x := s.group p.group
  let n := p.bankBytes
  if !onlyBits (argOf args 0) (maskBits 40 0 + maskBits 55 48) || !onlyBits p.chunks (maskBits 23 0)
      || !onlyBits p.firstSeq (maskBits 31 0) || !onlyArgs args [0, 1, 2, 3, 4, 5] then some (2, 0)
  else firstCase
    [(x.state != .opened || x.kind != 1 || x.sinkSlots == 0, 8),
     (x.pitch != p.pitch, 8),
     ((s.pair k).state != .free, 8),
     (p.chunkStride == 0 || p.chunkStride % 64 != 0, 2),
     (decide (s.reserveBase < p.base + n) || (p.stock && (decide (s.reserveBase < p.base + p.bankStride + n)
        || overlaps p.base n (p.base + p.bankStride) n)), 2),
     (decide (s.obj Obj.partnerTimeout * 1000 < s.obj Obj.heartbeatInterval * s.period * 4), 2)]

/-- PAIR_CUSTODY taken (14 R430, R433). -/
def State.pairTake (s : State) (token : Nat) (args : Tbl Nat) : State :=
  let k := bits (argOf args 0) 0 12
  let p := pairRecordOf args
  let s := s.setPair k { p with token := token, helloSince := s.time.rung }
  (s.setResult token 0 p.ranges).sendHello k

/-- Why TAKE_OVER is refused. -/
def State.takeOverCase (s : State) (args : Tbl Nat) : Refused :=
  let p := s.pair (bits (argOf args 0) 0 12)
  if !onlyBits (argOf args 0) (maskBits 11 0) || !onlyArgs args [0] then some (2, 0)
  else plainCase [(!p.mayTakeOver, 8)]

/-- Ranges that RESYNC mode 0 names. -/
def resyncRanges (args : Tbl Nat) : List Nat :=
  (upTo (argOf args 1)).flatMap fun i =>
    let w := argOf args (4 + i)
    (upTo (bits w 20 20)).map (bits w 0 20 + ·)

/-- Why RESYNC is refused (14 R447, R452; 17 R540). -/
def State.resyncCase (s : State) (args : Tbl Nat) : Refused :=
  let w := argOf args 0
  let p := s.pair (bits w 0 12)
  let n := argOf args 1
  let wordsOk := if bit w 12 then
      onlyBits n (maskBits 7 0) && onlyBits (argOf args 2) (maskBits 31 0) && onlyArgs args [0, 1, 2]
    else decide (1 ≤ n) && decide (n ≤ 12) && onlyArgs args ([0, 1] ++ (upTo n).map (4 + ·))
      && (upTo n).all fun i => onlyBits (argOf args (4 + i)) (maskBits 39 0)
  if !onlyBits w (maskBits 12 0) || !wordsOk then some (2, 0)
  else if bit w 12 then plainCase [(p.state != .alone, 8)]
  else plainCase [(p.state != .paired, 8), ((resyncRanges args).any fun r => !decide (r < p.ranges), 2)]

/-- The next step of a pair. -/
def Pair.nextStep (p : Pair) : Nat := if p.comparedAny then (p.compared + 1) % 2 ^ 32 else p.firstSeq

/-- RESYNC taken: the named ranges of the input bank of the next step go to the other custodian, or the
whole bank to a new partner once it has said hello (14 R447, R452). -/
def State.resyncTake (s : State) (token : Nat) (args : Tbl Nat) : State :=
  let w := argOf args 0
  let k := bits w 0 12
  let p := s.pair k
  if bit w 12 then
    let j := argOf args 2
    let out := (upTo p.ranges).map fun r => (j, r)
    let y : Resync := { newPartner := true, seq := j, out, all := out, token := some token
                        was := (p.otherPos, p.firstSeq, p.token)
                        ready := !p.closedAny && p.firstSeq == j }
    let s := s.setPair k { p with
      state := .resyncing, resync := some y, token := token, otherPos := argOf args 1, firstSeq := j
      gotHello := false, partner := false, helloSince := s.time.rung, rollbacks := 0, slow := false, slowRun := 0
      theirs := [], unacked := none, otherClose := none, spareHello := none }
    let s := s.sendHello k
    match p.spareHello with
    | some (pos, other, crc) => if pos = argOf args 1 then s.heardHello k other crc else s
    | none => s
  else
    let rs := (resyncRanges args).foldl (fun t r => Tbl.set t r ()) ([] : Tbl Unit)
    let out := rs.map fun e => (p.nextStep, e.1)
    let y : Resync := { newPartner := false, seq := p.nextStep, out, all := out, token := some token
                        was := (p.otherPos, p.firstSeq, p.token) }
    (s.setPair k { p with token := token }).beginResync k y

/-- A pair record of 64 bytes (14 R434). -/
def State.pairRecord (s : State) (k : Nat) : Nat :=
  let p := s.pair k
  let next := match p.resync with
    | some y => ((y.out ++ y.want).headD (0, p.ranges)).2
    | none => 0
  if p.state == .free then 0
  else
    k % 4096 + (p.pitch % 4096) * 2 ^ 12 + (p.group % 65536) * 2 ^ 24 + p.state.code * 2 ^ 40
      + b2n p.partner * 2 ^ 43 + b2n p.stock * 2 ^ 44 + b2n p.slow * 2 ^ 45 + (p.otherPos % 256) * 2 ^ 48
      + (p.rollbacks % 256) * 2 ^ 56 + (p.base % 2 ^ 48) * 2 ^ 64 + (p.bankStride % 2 ^ 48) * 2 ^ 112
      + (p.chunkStride % 2 ^ 32) * 2 ^ 160 + (p.chunks % 2 ^ 24) * 2 ^ 192 + (p.firstSeq % 2 ^ 32) * 2 ^ 224
      + (p.compared % 2 ^ 32) * 2 ^ 256 + (p.closed % 2 ^ 32) * 2 ^ 288 + (p.ranges % 2 ^ 20) * 2 ^ 320
      + (s.historyBase k % 2 ^ 48) * 2 ^ 352 + (next % 2 ^ 20) * 2 ^ 400 + (p.token % 2 ^ 64) * 2 ^ 448

end Sys2Proof.Machine
end

