-- ==== Sys2Proof/Machine/Tills.lean ====
section
/-! DEFINITION. Tills and group homes (09, 10): intake, contexts, output passes, deadlines and kept
partials, opens, barriers, aborts and custody copies. -/

namespace Sys2Proof.Machine

/-! ### Contexts (09 R278 to R282) -/

/-- Bytes of the buffer that a chunk's context takes (09 R275, R298). -/
def GroupSt.ctxBytes (x : GroupSt) : Nat :=
  if x.relays then 4 * x.expected else x.chunkElements * accWidth x.inFormat x.exact

/-- A home can take a new context of a group that needs `n` bytes (09 R280 to R282). -/
def State.roomForCtx (s : State) (home g n : Nat) : Bool :=
  decide (s.ctxsAt home < 256) && !s.mem.saturated.contains home
    && (s.takeStagingOrKept home g n 4096).2.isSome

/-- Make a context at a home. -/
def State.newCtx (s : State) (home g seq chunk n : Nat) (custody : Bool) : State × Bool :=
  if 256 ≤ s.ctxsAt home then (s, false)
  else match s.takeStagingOrKept home g n 4096 with
    | (s, none) => (s, false)
    | (s, some (a, k, ps)) =>
      let c : Ctx := { group := g, seq, chunk, generation := (s.group g).generation, home, buffer := some a
                       pool := k, poolStall := ps, reserved := false, bornBell := s.time.bell
                       bornRung := s.time.rung, custody }
      let s := { s with coll := { s.coll with ctxs := s.coll.ctxs ++ [c] } }
      let e : EventAttrs := { privilege := some (pitchPrivilege (s.group g).pitch), pitch := some (s.group g).pitch }
      let s := s.count home 0x304 1 e
      let s := s.when (k == 4) fun s => (s.bump Obj.spilledContexts).count home 0x305 1 e
      (s.putObj (Obj.contextsPeak home) (max (s.obj (Obj.contextsPeak home)) (s.ctxsAt home)), true)

/-- Poison a context; the first cause stays (09 R279). -/
def Ctx.poison (c : Ctx) (cause : Nat) : Ctx := if c.cause = 0 then { c with cause } else c

/-- Data and prefix of a collective frame. -/
def Frame.collWord (f : Frame) : Nat := leNat (f.payload.take 8)
def Frame.data (f : Frame) : List Byte := f.payload.drop 8

/-- The frame's units keep 09 R275 and lie in the chunk. -/
def unitsOk (x : GroupSt) (f : Frame) : Bool :=
  let ub := unitBytesOf x.inFormat
  let ue := unitElems x.inFormat
  decide (8 ≤ f.payload.length) && f.data.length % ub == 0 && prefOffset f.collWord % ue == 0
    && decide (prefOffset f.collWord + f.data.length / ub * ue ≤ x.chunkElements)

/-- Largest scale codes per block, from a block index on. -/
def mergeScales : Tbl Nat → Nat → List Nat → Tbl Nat
  | t, _, [] => t
  | t, i, x :: xs => mergeScales (Tbl.set t i (max x (Tbl.get t i 0))) (i + 1) xs

/-- The data of a frame go into the context. -/
def Ctx.takeData (c : Ctx) (x : GroupSt) (f : Frame) : Ctx :=
  let off := prefOffset f.collWord
  let m := prefMember f.collWord
  if x.relays then { c with relayed := Tbl.set c.relayed m (Tbl.get c.relayed m [] ++ f.data) }
  else
    let (acc, fl) := accumulateAll x.accMode c.acc off (elementsOf x.inFormat x.mxVariant f.data)
    let c := { c with acc := acc, inexact := c.inexact || fl.inexact, saturated := c.saturated || fl.saturated
                      scales := mergeScales c.scales (off / 32) (scalesOf x.inFormat f.data) }
    if fl.bad then c.poison 11 else c

/-- A last frame is counted and fixes the chunk end (09 R278, R279). -/
def Ctx.takeLast (c : Ctx) (m endsAt : Nat) : Ctx :=
  let c := { c with lasts := c.lasts + 1
                    lastMembers := if c.lastMembers.contains m then c.lastMembers else c.lastMembers ++ [m] }
  match c.chunkEnd with
  | none => { c with chunkEnd := some endsAt }
  | some e => if e = endsAt then c else c.poison 4

/-- Data bytes that complete a context (09 R278). -/
def Ctx.need (c : Ctx) (x : GroupSt) : Nat := x.expectedLasts * dataBytes x.inFormat (c.chunkEnd.getD 0)

/-- The counts of a context are judged when the last frames are in (09 R278, R279). -/
def Ctx.judge (c : Ctx) (x : GroupSt) : Ctx :=
  if decide (x.expectedLasts < c.lasts) || (c.lasts == x.expectedLasts && c.bytes != c.need x) then c.poison 4 else c

/-- The context's counts are those of a complete one (09 R278). -/
def Ctx.complete (c : Ctx) (x : GroupSt) : Bool := c.lasts == x.expectedLasts && c.bytes == c.need x

/-- A frame of the chunk is added to its context (09 R278, R279). -/
def Ctx.takeFrame (c : Ctx) (x : GroupSt) (f : Frame) : Ctx :=
  let m := prefMember f.collWord
  let ok := unitsOk x f
  let c := if f.poisoned then c.poison 2 else c
  let c := if ok then c else c.poison 4
  if x.expected ≤ m then c.poison 4
  else
    let c := { c with bytes := c.bytes + f.data.length }
    let c := if ok then c.takeData x f else c
    let n := if ok then f.data.length / unitBytesOf x.inFormat * unitElems x.inFormat else 0
    if f.last then (c.takeLast m (prefOffset f.collWord + n)).judge x else c

/-- Where a frame's elements lie in its context's buffer: address and bytes. -/
def Ctx.touched (c : Ctx) (x : GroupSt) (f : Frame) : Option (Nat × Nat) :=
  match c.buffer with
  | some a =>
    if x.relays || !unitsOk x f then none
    else
      let w := accWidth x.inFormat x.exact
      some (a + w * prefOffset f.collWord, w * (f.data.length / unitBytesOf x.inFormat * unitElems x.inFormat))
  | none => none

/-- Accumulator bytes that a frame touched, as they stand in the buffer. -/
def State.mirrorAcc (s : State) (c : Ctx) (x : GroupSt) (f : Frame) : State :=
  match c.touched x f with
  | some (a, n) =>
    let w := accWidth x.inFormat x.exact
    s.write a ((upTo (n / w)).flatMap fun i =>
      match Tbl.find c.acc (prefOffset f.collWord + i) with
      | some v => accBytes w v
      | none => s.read (a + w * i) w)
  | none => s

/-- A spilled context of the group accumulates at the memory-side adder (09 R283): not in exact mode, and not under the
integers' saturating sum, which the till does itself. -/
def GroupSt.memorySide (x : GroupSt) : Bool := !x.exact && !(x.op == 1 && decide (9 ≤ x.inFormat))

/-- The accesses of a spilled context's frame: the adder's operations, one for each unit of 64 bytes that it touches
(13 R409), or the till's own read and write of them (09 R283). -/
def State.adderPass (s : State) (c : Ctx) (x : GroupSt) (f : Frame) : State :=
  match c.pool == 4, c.touched x f with
  | true, some (a, n) =>
    if x.memorySide then
      (upTo ((a + n + 63) / 64 - a / 64)).foldl (fun s i => s.countAdder ((a / 64 + i) * 64) (tillAttrs x.pitch)) s
    else (s.countAccess c.home a n false (tillAttrs x.pitch)).countAccess c.home a n true (tillAttrs x.pitch)
  | _, _ => s

/-- A residue mismatch at a till (09 R301), of a group's pitch. -/
def State.tillMismatch (s : State) (home pitch : Nat) : State :=
  let s := ((s.bump (Obj.tillResidueErrors home)).bump Obj.residueErrors).bump Obj.residueTotal
  (s.eventObj 12 home (Obj.tillResidueErrors home)).count home 0x700 1
    (tillAttrs pitch)

/-- What an upset in the arithmetic or the SRAM of a till does besides the poisoning (09 R301; 13 R405, R410). -/
def State.tillUpset (s : State) (home pitch : Nat) (adder : Option Nat) : Upset → State
  | .residue => match adder with
    | some a => (s.adderMismatch a (tillAttrs pitch)).tillMismatch home pitch
    | none => s.tillMismatch home pitch
  | .corrected => s.sramFixed home
  | .uncorrectable => s.sramBad home
  | _ => s

/-- The cause that an upset poisons with (09 R279). -/
def upsetCause : Upset → Nat
  | .residue => 1
  | .uncorrectable => 3
  | _ => 0

/-! ### Ends of a context (09 R303, R304; 10 R322) -/

/-- The receipt of a context. -/
def State.ctxReceipt (s : State) (c : Ctx) (verdict cause crc elements : Nat) : Receipt :=
  { verdict, cause, inexact := c.inexact, saturated := c.saturated, nan := c.nan, spilled := c.pool == 4
    members := c.lastMembers.length, till := c.home, crc, elements, residue := s.tillResidue c.home }

/-- Send a context's receipt: to the ports, or as a record of the sink, and a copy to the other
custodian (09 R297, 14 R436). A custody copy's end sends nothing (01 R28). -/
def State.endReceipt (s : State) (c : Ctx) (verdict cause : Nat) : State :=
  let r := s.ctxReceipt c verdict cause 0 0
  if c.custody then s
  else if (s.group c.group).sinks then
    let w := s.receiptWord r
    let s := (s.countReceipt r).sendCopy c.home c.group c.seq c.chunk w []
    s.stageChunk { c with buffer := none, output := [], receipt := w }
  else (s.sendReceipt c.home c.group c.seq c.chunk r).postDone c.group c.seq

/-- A context ends with no data and frees its buffer. -/
def State.endCtx (s : State) (c : Ctx) (verdict cause : Nat) : State :=
  ((s.dropCtx c.group c.seq c.chunk).freeBufferOpt c.buffer).endReceipt c verdict cause

/-- Data of all members in ascending index (09 R298). -/
def Ctx.memberData (c : Ctx) : List Byte := c.relayed.flatMap fun e => e.2

/-- A relaying context ends clean: its receipt follows the last relayed frame (09 R298, R303). -/
def State.endRelay (s : State) (c : Ctx) : State :=
  let x := s.group c.group
  let d := c.memberData
  let n := d.length / unitBytesOf x.inFormat * unitElems x.inFormat
  let r := s.ctxReceipt c 0 0 (if d.isEmpty then 0 else crc32c d) n
  let s := (s.dropCtx c.group c.seq c.chunk).freeBufferOpt c.buffer
  (s.sendReceipt c.home c.group c.seq c.chunk r).postDone c.group c.seq

/-- The context completes, or ends poisoned when it would have completed (09 R278, R279). -/
def State.checkCtx (s : State) (g seq chunk : Nat) : State :=
  match s.ctxOf g seq chunk with
  | none => s
  | some c =>
    let x := s.group g
    if c.stage != .accumulating || !c.complete x then s
    else if c.cause ≠ 0 then s.endCtx c 1 c.cause
    else if x.relays then s.endRelay c
    else s.modCtx g seq chunk fun c => { c with stage := .passing }

/-! ### Intake (09 R277, R278, R294, R298; 10 R319, R323, R324) -/

/-- Why a contribution is refused (09 R277, R268; 10 R328). -/
def State.refuseCause (s : State) (f : Frame) : Option Nat :=
  let x := s.group f.group
  let hasCtx := (s.ctxOf f.group f.seq f.chunk).isSome
  if !(x.state == .opened || (x.state == .closing && hasCtx)) then some 5
  else if x.pitch != f.pitch then some 6
  else if decide (3 < x.kind) || f.format != x.inFormat || f.op != x.op then some 7
  else if x.aborted.contains f.seq then some 10
  else none

/-- A frame that is discarded as late (10 R323). -/
def State.lateFrame (s : State) (home : Nat) (f : Frame) (i : Nat) : State :=
  let s := (s.bump Obj.lateFrames).dropped home f
  match Tbl.find s.coll.kept i with
  | some k => { s with coll := { s.coll with kept := Tbl.set s.coll.kept i { k with late := k.late + 1 } } }
  | none => s

/-- A frame that finds only a kept partial is late, unless the window has ended and it is a first frame. -/
def Kept.late? (k : Kept) (f : Frame) : Bool := k.lateWindow || !f.first

/-- A relayed frame takes a staging buffer and goes to every port of the group (10 R319). -/
def State.relayFrame (s : State) (home : Nat) (f : Frame) : State × Bool :=
  match s.takeStaging home f.group f.payload.length with
  | (s, none) => (s, false)
  | (s, some (a, _, _)) =>
    let s := (s.countAccess home a f.payload.length true (tillAttrs f.pitch)).write a f.payload
    let fl := putBit (putBit (setBit 0 flagFromSpine) flagFirst f.first) flagLast f.last
    let r := { f with source := s.ownSource, dest := groupDest, flow := f.group % 65536, flags := fl
                      stamp := s.frameStamp }
    ((s.bump (Obj.tillOutBytes home) f.data.length).sendGroup home r f.group none (some a)
      (some (0, a, f.payload.length)), true)

/-- What the checks of an add find: a poisoned context, and its report (09 R301). -/
def State.upsetCtx (s : State) (home : Nat) (f : Frame) (u : Upset) : State :=
  let x := s.group f.group
  match s.ctxOf f.group f.seq f.chunk with
  | some c => match c.touched x f with
    | some (a, _) =>
      let s := s.tillUpset home x.pitch (if c.pool == 4 && x.memorySide then some a else none) u
      s.when (upsetCause u != 0) fun s => s.modCtx f.group f.seq f.chunk fun c => c.poison (upsetCause u)
    | none => s
  | none => s

/-- An accepted frame with its context: relayed, added, checked, counted (09 R278, R294). -/
def State.feedCtx (s : State) (home : Nat) (f : Frame) (u : Upset) : Option State :=
  let x := s.group f.group
  let m := prefMember f.collWord
  let relay := x.relays && unitsOk x f && decide (m < x.expected)
    && (match s.ctxOf f.group f.seq f.chunk with
        | some c => c.cause == 0 && !f.poisoned
        | none => false)
  let (s, ok) := if relay then s.relayFrame home f else (s, true)
  if !ok then none
  else
    let s := (s.bump (Obj.tillInBytes home) f.data.length).count home 0x303 f.data.length (f.attrs none)
    let s := s.modCtx f.group f.seq f.chunk fun c =>
      let c := match c.buffer with
        | some a => if c.pool == 4 && s.bufferBad a x.ctxBytes then c.poison 3 else c
        | none => c
      c.takeFrame x f
    let s := match s.ctxOf f.group f.seq f.chunk with
      | some c => (s.mirrorAcc c x f).adderPass c x f
      | none => s
    some ((s.upsetCtx home f u).checkCtx f.group f.seq f.chunk)

/-- A frame of a broadcast's other members: accepted, and nothing of it counts (09 R279, R298; log 112). -/
def State.bystander (s : State) (home : Nat) (f : Frame) : State :=
  (s.bump (Obj.tillInBytes home) f.data.length).count home 0x303 f.data.length (f.attrs none)

/-- A context that spilled into a stack in band 3: writes and adder operations of class 3 are held there (13 R420). -/
def State.bandHolds (s : State) (c : Ctx) : Bool :=
  c.pool == 4 && match c.buffer with
    | some a => s.bandAt a 3
    | none => false

/-- A contribution at its home; nothing when it must wait for a context or a buffer (09 R282). A frame that finds its
context's output pass running is discarded as late (log 110). -/
def State.takeContribution (s : State) (home : Nat) (f : Frame) (u : Upset) : Option State :=
  match s.refuseCause f with
  | some cause => some (s.refuse home f cause)
  | none =>
    let x := s.group f.group
    let m := prefMember f.collWord
    let other := x.kind == 3 && m != x.root && decide (m < x.expected)
    match s.ctxOf f.group f.seq f.chunk with
    | some c =>
      if c.stage != .accumulating then some ((s.bump Obj.lateFrames).dropped home f)
      else if other then some (s.bystander home f)
      else if s.bandHolds c then none
      else s.feedCtx home f u
    | none =>
      let kept := s.keptOf f.group f.seq f.chunk
      match kept with
      | some (i, k) =>
        if k.late? f then some (s.lateFrame home f i)
        else match s.newCtx home f.group f.seq f.chunk x.ctxBytes false with
          | (s, true) => (s.freeKept i).feedCtx home f u
          | (_, false) => none
      | none =>
        if other then some (s.bystander home f)
        else match s.newCtx home f.group f.seq f.chunk x.ctxBytes false with
          | (s, true) => s.feedCtx home f u
          | (_, false) => none

/-! ### Custody copies at the partner (09 R299) -/

/-- A custody copy that is complete with its receipt is posted, if clean and matching. -/
def State.checkCopy (s : State) (g seq chunk : Nat) : State :=
  match s.ctxOf g seq chunk with
  | none => s
  | some c =>
    match c.copyReceipt with
    | none => s
    | some w =>
      if !c.custody || c.lasts = 0 then s
      else
        let s := s.dropCtx g seq chunk
        if w % 4 = 0 && bits w 128 32 = crc32c c.output then s.stageChunk { c with receipt := w }
        else s.freeBufferOpt c.buffer

/-- The pair of a group at which this module is the partner. -/
def State.partnerPair (s : State) (g : Nat) : Bool :=
  match s.pairOfGroup g with
  | some k => (s.pair k).partner
  | none => false

/-- A type 6 frame addressed to this module. -/
def State.takeCopy (s : State) (home : Nat) (f : Frame) : Option State :=
  let x := s.group f.group
  let has := (s.ctxOf f.group f.seq f.chunk).isSome
  if !(x.state == .opened || (x.state == .closing && has)) || !s.partnerPair f.group then some (s.refuse home f 5)
  else if x.pitch != f.pitch then some (s.refuse home f 6)
  else if f.format != x.outFormat then some (s.refuse home f 7)
  else
    let made := match s.ctxOf f.group f.seq f.chunk with
      | some c => (s, !s.bandHolds c)
      | none => s.newCtx home f.group f.seq f.chunk (dataBytes x.outFormat x.chunkElements) true
    match made with
    | (_, false) => none
    | (s, true) =>
      let off := dataBytes x.outFormat (prefOffset f.collWord)
      let s := match s.ctxOf f.group f.seq f.chunk with
        | some { buffer := some a, .. } =>
          (s.countAccess home (a + off) f.data.length true (tillAttrs x.pitch)).write (a + off) f.data
        | _ => s
      let s := (s.bump (Obj.tillInBytes home) f.data.length).count home 0x303 f.data.length (f.attrs none)
      let s := s.modCtx f.group f.seq f.chunk fun c =>
        { c with output := c.output ++ f.data, bytes := c.bytes + f.data.length
                 lasts := if f.last then c.lasts + 1 else c.lasts }
      some (s.checkCopy f.group f.seq f.chunk)

/-- A receipt addressed to this module: it completes a copy, or, not clean, stands for a chunk whose state
is carried (14 R436). -/
def State.takeCopyReceipt (s : State) (home : Nat) (f : Frame) : State :=
  let w := f.body
  match s.ctxOf f.group f.seq f.chunk with
  | some _ =>
    (s.modCtx f.group f.seq f.chunk fun c => { c with copyReceipt := some w }).checkCopy f.group f.seq f.chunk
  | none =>
    if s.partnerPair f.group && s.groupLive f.group && w % 4 != 0 then
      s.stageChunk { group := f.group, seq := f.seq, chunk := f.chunk
                     generation := (s.group f.group).generation, home, buffer := none, pool := 0
                     poolStall := home, reserved := false, custody := true, receipt := w }
    else s.refuse home f 5

/-! ### The intake FIFO (09 R282) -/

/-- Cells that a till's intake holds. -/
def State.intakeCells (s : State) (t : Nat) : Nat :=
  (Tbl.get s.switch.intake t []).foldl (fun n e => n + e.2) 0

/-- The frame has all its cells in the intake. -/
def State.intakeWhole (s : State) (i : Nat) : Bool :=
  match s.flight i with
  | some f => f.drained == f.cells
  | none => false

/-- Whole frames of a stall's intake that meet a test, oldest first. -/
def State.intakeFrames (s : State) (t : Nat) (p : Frame → Bool) : List (Nat × Frame) :=
  (Tbl.get s.switch.intake t []).filterMap fun e =>
    match s.flight e.1 with
    | some f => if f.drained == f.cells && p f.frame then some (e.1, f.frame) else none
    | none => none

/-- A frame has been taken from the intake. -/
def State.intakeDone (s : State) (t i : Nat) : State :=
  let q := (Tbl.get s.switch.intake t []).filter fun e => e.1 != i
  let s := { s with switch := { s.switch with intake := Tbl.set s.switch.intake t q } }
  s.dropFlight i

/-- The till absorbs the cells of the first frame still arriving. -/
def State.intakeAbsorb (s : State) (t : Nat) : State :=
  let q := Tbl.get s.switch.intake t []
  match q.find? fun e => !s.intakeWhole e.1 && e.2 != 0 with
  | some e =>
    let q' := q.map fun x => if x.1 == e.1 then (x.1, 0) else x
    { s with switch := { s.switch with intake := Tbl.set s.switch.intake t q' } }
  | none => s

/-- A class 5 frame at its till. -/
def State.tillFrame (s : State) (t : Nat) (f : Frame) (u : Upset) : Option State :=
  match f.ftype with
  | 3 => s.takeContribution t f u
  | 6 => s.takeCopy t f
  | _ => some (s.takeCopyReceipt t f)

/-- The first frame of a list that the till can take now; one that waits holds back the later ones of its chunk
(09 R276, R298). -/
def State.firstTaken (s : State) (t : Nat) (u : Upset) (held : List (Nat × Nat × Nat)) : List (Nat × Frame) → Option State
  | [] => none
  | (i, f) :: rest =>
    let name := (f.group, f.seq, f.chunk)
    if held.contains name then s.firstTaken t u held rest
    else match (s.intakeDone t i).tillFrame t f u with
      | some s' => some s'
      | none => s.firstTaken t u (name :: held) rest

/-- TILL_INTAKE (09 R278). -/
def execTillIntake (t : Checked Stall) (s : State) : Result :=
  .next (match s.firstTaken t.val.val t.upset [] (s.intakeFrames t.val.val fun f => f.ftype != 5) with
    | some s' => s'
    | none => s.intakeAbsorb t.val.val)

/-- A class 5 head frame holds chunk admission credit at a home (09 R282, 13 R423). A frame that will be
refused needs no context (log 42). -/
def State.chunkCredit (s : State) (home : Nat) (f : Frame) : Bool :=
  let room := decide (s.intakeCells home < 64)
  let spillCells := (Tbl.get s.switch.intake home []).foldl (fun n e =>
    match s.flight e.1 with
    | some g => match s.ctxOf g.frame.group g.frame.seq g.frame.chunk with
      | some c => if c.pool = 4 then n + e.2 else n
      | none => n
    | none => n) 0
  if !room then false
  else if f.ftype != 3 || (s.refuseCause f).isSome then true
  else match s.ctxOf f.group f.seq f.chunk with
    | some c => c.pool != 4 || decide (spillCells < s.obj Obj.spillFifoShare)
    | none => s.roomForCtx home f.group (s.group f.group).ctxBytes

/-! ### Output pass (09 R295 to R297) -/

/-- The output of a clean pass: frames and receipt, or the sink (09 R295, R296, R297). -/
def State.passOutput (s : State) (c : Ctx) : State :=
  let x := s.group c.group
  let n := c.chunkEnd.getD 0
  let conv := convertAll x.outMode s.free n c.acc c.scales
  let s := { s with free := s.free + n }
  let c := { c with saturated := c.saturated || conv.saturated, nan := c.nan || conv.nan, output := conv.bytes }
  let s := match c.buffer with
    | some a =>
      let w := accWidth x.inFormat x.exact
      ((s.countAccess c.home a (w * n) false (tillAttrs x.pitch)).countAccess c.home a conv.bytes.length true
        (tillAttrs x.pitch)).write a conv.bytes
    | none => s
  let r := s.ctxReceipt c 0 0 (if conv.bytes.isEmpty then 0 else crc32c conv.bytes) n
  let s := s.dropCtx c.group c.seq c.chunk
  if x.sinks then
    let w := s.receiptWord r
    ((s.countReceipt r).sendCopy c.home c.group c.seq c.chunk w conv.bytes).stageChunk { c with receipt := w }
  else
    let fs := if conv.bytes.isEmpty then []
      else s.outputFrames c.group 3 c.seq c.chunk 0 true conv.bytes
    let s := s.sendOutputs c.home c.group fs c.buffer c.buffer
    let s := if fs.isEmpty then s.freeBufferOpt c.buffer else s
    let s := s.bump (Obj.tillOutBytes c.home) conv.bytes.length
    (s.sendReceipt c.home c.group c.seq c.chunk r).postDone c.group c.seq

/-- The output pass ends (09 R295): what its checks and its reads of the accumulator find poisons the context (09 R279,
R301). -/
def State.endPass (s : State) (c : Ctx) (u : Upset) : State :=
  let x := s.group c.group
  let s := s.tillUpset c.home x.pitch none u
  let bad := match c.buffer with
    | some a => c.pool == 4 && s.bufferBad a x.ctxBytes
    | none => false
  let c := if bad then c.poison 3 else if upsetCause u ≠ 0 then c.poison (upsetCause u) else c
  if c.cause ≠ 0 then s.endCtx c 1 c.cause else s.passOutput c

/-- OUTPUT_PASS_END. -/
def execOutputPassEnd (g : Group) (seq : BitVec 32) (chunk : Checked (BitVec 24)) (s : State) : Result :=
  .next (match s.ctxOf g.val seq.toNat chunk.val.toNat with
    | some c => if c.stage == .passing then s.endPass c chunk.upset else s
    | none => s)

/-! ### Deadlines and kept partials (09 R303; 10 R322 to R325) -/

/-- A context's deadline has come. -/
def State.ctxDue (s : State) (c : Ctx) : Bool :=
  c.stage == .accumulating && decide (c.bornRung + (s.group c.group).patience ≤ s.time.rung)

/-- A member bitmap of 128 bytes. -/
def memberBitmap (ms : List Nat) : Nat := ms.foldl setBit 0

/-- Write a kept-partial record; the oldest of a full ring gives way (10 R322). -/
def State.keepPartial (s : State) (c : Ctx) : State :=
  let i := s.coll.keptNext % 4096
  let s := s.freeKept i
  let k : Kept := { group := c.group, generation := c.generation, seq := c.seq, chunk := c.chunk
                    till := c.home, held := c.buffer.isSome, lateWindow := true, members := c.lastMembers
                    deadline := s.time.bell, deadlineRung := s.time.rung, buffer := c.buffer, pool := c.pool
                    poolStall := c.poolStall, reserved := c.reserved, late := 0 }
  let a := s.keptBitmap i
  let s := (s.countAccess c.home a 128 true (tillAttrs (s.group c.group).pitch)).writeNat a 128
    (memberBitmap c.lastMembers)
  let s := { s with coll := { s.coll with kept := Tbl.set s.coll.kept i k
                                          keptNext := (i + 1) % 4096 } }
  if s.obj Obj.keptHold = 0 then s.freeKept i else s

/-- A context at its deadline (09 R303): poisoned or incomplete receipt; its partial sums are kept. -/
def State.ctxDeadline (s : State) (c : Ctx) : State :=
  let s := s.dropCtx c.group c.seq c.chunk
  if c.custody then s.freeBufferOpt c.buffer
  else
    let s := s.keepPartial c
    if c.cause ≠ 0 then s.endReceipt c 1 c.cause else s.endReceipt c 2 9

/-- RECEIPT_DEADLINE (09 R303). -/
def execReceiptDeadline (g : Group) (seq : BitVec 32) (chunk : BitVec 24) (s : State) : Result :=
  .next (match s.ctxOf g.val seq.toNat chunk.toNat with
    | some c => if s.ctxDue c then s.ctxDeadline c else s
    | none => s)

/-- Every deadline of the boundary. -/
def State.deadlines (s : State) : State :=
  (s.coll.ctxs.filter s.ctxDue).foldl (fun s c => s.ctxDeadline c) s

/-- The late window of a record ends (10 R323). -/
def State.endWindow (s : State) (i : Nat) : State :=
  match Tbl.find s.coll.kept i with
  | some k =>
    if k.lateWindow && decide (k.deadlineRung + s.obj Obj.retryQuiet ≤ s.time.rung) then
      { s with coll := { s.coll with kept := Tbl.set s.coll.kept i { k with lateWindow := false } } }
    else s
  | none => s

/-- LATE_WINDOW_END (10 R323). -/
def execLateWindowEnd (record : Fin 4096) (s : State) : Result := .next (s.endWindow record.val)

/-- The hold of a kept partial ends (10 R325). -/
def State.endHold (s : State) (i : Nat) : State :=
  match Tbl.find s.coll.kept i with
  | some k =>
    if k.held && decide (k.deadlineRung + s.obj Obj.keptHold ≤ s.time.rung) then s.freeKept i else s
  | none => s

/-- KEPT_PARTIAL_RELEASE (10 R325). -/
def execKeptPartialRelease (record : Fin 4096) (s : State) : Result := .next (s.endHold record.val)

/-- Windows and holds that end at the boundary. -/
def State.keptEnds (s : State) : State :=
  (s.coll.kept.map (·.1)).foldl (fun s i => (s.endWindow i).endHold i) s

/-- Kept partials of a group (or of one sequence of it) are freed. -/
def State.freeKeptOf (s : State) (g : Nat) (seq : Option Nat) : State :=
  ((s.coll.kept.filter fun e => e.2.group == g && (seq.isNone || some e.2.seq == seq)).map (·.1)).foldl
    State.freeKept s

/-! ### Opens and barriers (09 R270 to R273) -/

/-- An end-of-instance record for the sink (09 R272). -/
def endRecord (seq : Nat) (aborted : Bool) : SinkEntry :=
  { addr := 0, receipt := 0, seq, chunk := 0, instanceEnd := true, aborted, elements := 0, bytes := 0 }

/-- End-of-instance records enter their group home's sink queue as slots are free. -/
def State.pushEnds (s : State) : State :=
  s.coll.endPosts.foldl (fun s p =>
    if s.sinkRoom p.1 (s.group p.1).ghome then
      let s := ({ s with coll := { s.coll with endPosts := s.coll.endPosts.erase p } } : State).pushSink p.1
        (s.group p.1).ghome (endRecord p.2.1 p.2.2)
      s.when p.2.2 fun s => s.abortArrives p.1 p.2.1
    else s) s

/-- Post an end-of-instance record, if the group has a sink. -/
def State.postEnd (s : State) (g seq : Nat) (aborted : Bool) : State :=
  if (s.group g).sinks then
    ({ s with coll := { s.coll with endPosts := s.coll.endPosts ++ [(g, seq, aborted)] } } : State).pushEnds
  else s

/-- Entries complete or aborted are freed at the boundary (09 R272; 10 R328). -/
def State.freeEntries (s : State) : State :=
  (s.coll.queues.map (·.1)).foldl (fun s g =>
    let done := (s.queueOf g).filter fun e => e.state == .complete || e.state == .aborted
    let s := s.setQueue g ((s.queueOf g).filter fun e => !(e.state == .complete || e.state == .aborted))
    done.foldl (fun s e => if e.state == .complete then s.postEnd g e.seq false else s) s) s

/-- The barrier's receipt (09 R273): clean with expected members, or incomplete. -/
def State.barrierReceipt (s : State) (g : Nat) (e : QEntry) (verdict : Nat) : State :=
  let x := s.group g
  let s := s.sendReceipt x.ghome g e.seq 0
    { verdict, cause := if verdict = 0 then 0 else 9
      members := if verdict = 0 then x.expected else e.members.length, till := x.ghome
      residue := s.tillResidue x.ghome }
  (s.modEntry g e.seq fun e => { e with state := .complete }).modGroup g (·.complete e.seq)

/-- An open counts in its entry (09 R271, R272, R273). -/
def State.countOpen (s : State) (g seq m chunks : Nat) : State :=
  let x := s.group g
  let s := s.modEntry g seq fun e =>
    let e := if e.chunks = chunks then e else { e with poisoned := true }
    if e.members.contains m then e else { e with members := e.members ++ [m] }
  match s.qEntry g seq with
  | none => s
  | some e =>
    if e.state == .opening && decide (x.expected ≤ e.members.length) then
      let s := s.modEntry g seq fun e => { e with state := .assembled }
      if x.kind = 4 then s.barrierReceipt g e 0 else s.maybeComplete g seq
    else s

/-- An open at its group home (09 R270, R271). -/
def State.takeOpen (s : State) (t : Nat) (f : Frame) : State :=
  let x := s.group f.group
  let w := leNat (f.payload.take 8)
  let m := bits w 0 10
  let chunks := bits w 16 25
  if !s.groupLive f.group then s.refuse t f 5
  else if x.pitch != f.pitch then s.refuse t f 6
  else if f.op != 0 then s.refuse t f 7
  else if x.expected ≤ m then s.refuse t f 4
  else if x.aborted.contains f.seq then s.refuse t f 10
  else match s.qEntry f.group f.seq with
    | some e =>
      if e.state == .opening || e.state == .assembled then s.countOpen f.group f.seq m chunks else s
    | none =>
      if x.completed f.seq then s
      else if x.state == .closing then s.refuse t f 5
      else if x.queueDepth ≤ (s.queueOf f.group).length then s.refuse t f 8
      else
        let e : QEntry := { seq := f.seq, chunks, state := .opening, poisoned := false, members := [], done := 0
                            slot := s.freeSlot f.group, firstBell := s.time.bell, firstRung := s.time.rung }
        (s.setQueue f.group (s.queueOf f.group ++ [e])).countOpen f.group f.seq m chunks

/-- GROUP_OPEN_FRAME (09 R271). -/
def execGroupOpenFrame (t : Stall) (s : State) : Result :=
  .next (match s.intakeFrames t.val fun f => f.ftype == 5 && f.op != 1 with
    | (i, f) :: _ => (s.intakeDone t.val i).takeOpen t.val f
    | [] => s)

/-- A barrier's deadline (09 R273). -/
def State.barrierDue (s : State) (g : Nat) (e : QEntry) : Bool :=
  (s.group g).kind == 4 && e.state == .opening
    && decide (e.firstRung + (s.group g).patience ≤ s.time.rung)

/-- BARRIER_DEADLINE (09 R273). -/
def execBarrierDeadline (g : Group) (seq : BitVec 32) (s : State) : Result :=
  .next (match s.qEntry g.val seq.toNat with
    | some e => if s.barrierDue g.val e then s.barrierReceipt g.val e 2 else s
    | none => s)

/-- Every barrier deadline of the boundary. -/
def State.barrierDeadlines (s : State) : State :=
  s.coll.queues.foldl (fun s q =>
    (q.2.filter (s.barrierDue q.1)).foldl (fun s e => s.barrierReceipt q.1 e 2) s) s

/-! ### Aborts (10 R327 to R329) -/

/-- ABORT_FRAME (10 R327): taken for the next boundary. -/
def State.takeAbort (s : State) (t : Nat) (f : Frame) : State :=
  let x := s.group f.group
  if x.state != .opened then s.refuse t f 5
  else if x.pitch != f.pitch then s.refuse t f 6
  else if x.expected ≤ bits (leNat (f.payload.take 8)) 0 10 then s.refuse t f 4
  else
    let opens := match s.qEntry f.group f.seq with
      | some e => e.members.length
      | none => 0
    { s with coll := { s.coll with
      aborts := s.coll.aborts ++ [{ group := f.group, seq := f.seq, source := f.source, opens, rung := s.time.rung }] } }

/-- ABORT_FRAME. -/
def execAbortFrame (t : Stall) (s : State) : Result :=
  .next (match s.intakeFrames t.val fun f => f.ftype == 5 && f.op == 1 with
    | (i, f) :: _ => (s.intakeDone t.val i).takeAbort t.val f
    | [] => s)

/-- The answer to an abort (10 R329). -/
def State.abortAnswer (s : State) (a : AbortReq) (verdict cause elements : Nat) : State :=
  let x := s.group a.group
  let w := s.receiptWord { verdict, cause, members := a.opens, till := x.ghome, elements
                           residue := s.tillResidue x.ghome }
  let f := { s.receiptFrame a.group a.seq 0xFFFFFF w with dest := a.source }
  s.send x.ghome f

/-- Live till contexts of an instance that an abort ends. -/
def State.abortCtxs (s : State) (g seq : Nat) : List Ctx :=
  s.coll.ctxs.filter fun c => c.group == g && c.seq == seq && c.stage == .accumulating && !c.custody

/-- Held kept partials of an instance. -/
def State.keptOfInstance (s : State) (g seq : Nat) : Bool :=
  s.coll.kept.any fun e => e.2.group == g && e.2.seq == seq && e.2.held

end Sys2Proof.Machine
end

