-- ==== Sys2Proof/Machine/Threads.lean ====
section
/-! DEFINITION. Update-engine threads, teams and runs (11 R336 to R338, R351 to R358, R365 to R372):
registers, segments and the admission tank, yields and wakes, TAKE, faults, and the ends of teams and
runs. -/

namespace Sys2Proof.Machine

/-! ### Registers (11 R336) -/

/-- A scalar register; x0 reads 0. -/
def Thread.xr (x : Thread) (r : Nat) : Word := if r = 0 then 0 else Tbl.get x.x r 0

/-- Write a scalar register; writes to x0 are ignored. -/
def Thread.setX (x : Thread) (r : Nat) (w : Word) : Thread := if r = 0 then x else { x with x := Tbl.set x.x r w }

/-- A lane of a vector register. -/
def Thread.lane (x : Thread) (r i : Nat) : Lane := Tbl.get x.v (32 * r + i) 0

/-- Write a lane of a vector register. -/
def Thread.setLane (x : Thread) (r i : Nat) (w : Lane) : Thread := { x with v := Tbl.set x.v (32 * r + i) w }

/-- Write the named lanes of a vector register. -/
def Thread.setLanes (x : Thread) (r : Nat) (f : Nat → Lane) : List Nat → Thread
  | [] => x
  | i :: is => (x.setLane r i (f i)).setLanes r f is

/-- A mask register; m0 reads as all ones. -/
def Thread.mask (x : Thread) (m : Nat) : BitVec 32 := if m = 0 then 0xFFFFFFFF else Tbl.get x.m m 0

/-- Write a mask register; writes to m0 are ignored. -/
def Thread.setMask (x : Thread) (m : Nat) (w : BitVec 32) : Thread :=
  if m = 0 then x else { x with m := Tbl.set x.m m w }

/-- The lanes that a write mask enables. -/
def Thread.active (x : Thread) (m : Nat) : List Nat := (upTo 32).filter fun i => (x.mask m).getLsbD i

/-- The PC moves past the instruction. -/
def Thread.next (x : Thread) : Thread := { x with pc := x.pc + 8 }

/-! ### Teams and programs -/

/-- The members of a thread's team. -/
def Thread.members (x : Thread) : List Nat := (upTo x.teamSize).map (x.team + ·)

/-- Change the team of a thread. -/
def State.modTeam (s : State) (t n : Nat) (f : Team → Team) : State := s.setTeam t n (f (s.team t n))

/-- The program of a run. -/
def State.programOf (s : State) (run : Nat) : Option Program := Tbl.find s.update.programs (s.runOf run).slot

/-- The pitch of a thread. -/
def State.pitchOf (s : State) (t n : Nat) : Nat := (s.runOf (s.thread t n).run).pitch

/-- A member of the team is halted. -/
def State.teamBroken (s : State) (t : Nat) (x : Thread) : Bool :=
  x.members.any fun n => (s.thread t n).state == .halted

/-- Attributes of a thread's events (16 R493). -/
def State.threadAttrs (s : State) (t n : Nat) : EventAttrs :=
  { privilege := some (pitchPrivilege (s.pitchOf t n)), pitch := some (s.pitchOf t n), masters := [(2, 256 * t + n)] }

/-! ### Segments and admission (11 R354, R355) -/

/-- A thread becomes ready and joins its stall's order. -/
def State.makeReady (s : State) (t n : Nat) : State :=
  let s := s.modThread t n fun x => { x with state := .ready, wait := .none }
  { s with update := { s.update with
      ready := Tbl.set s.update.ready t (Tbl.get s.update.ready t [] ++ [n]) } }

/-- A thread leaves its stall's order. -/
def State.unready (s : State) (t n : Nat) : State :=
  { s with update := { s.update with
      ready := Tbl.set s.update.ready t ((Tbl.get s.update.ready t []).filter (· != n)) } }

/-- Mean of the measured segments of a program at a stall, nJ. -/
def State.measuredMean (s : State) (slot t : Nat) : Nat :=
  let ms := Tbl.get s.update.measured (64 * slot + t) []
  if ms.isEmpty then 0 else ms.foldl (· + ·) 0 / ms.length

/-- The charge of a segment (11 R355). -/
def State.chargeOf (s : State) (t run : Nat) : Nat :=
  match s.programOf run with
  | some p => max p.declared (s.measuredMean (s.runOf run).slot t)
  | none => 0

/-- The refill of a stall's admission tank in nJ: its update-engine budget, in mW (15 R484), over a bell. -/
def State.ueRefill (s : State) (t : Nat) : Nat := if s.limited then 0 else Tbl.get s.warden.ue t 0 * s.period / 1000

/-- The admission tank. -/
def State.tankOf (s : State) (t : Nat) : Int := Tbl.get s.update.tanks t 0
def State.setTank (s : State) (t : Nat) (v : Int) : State :=
  { s with update := { s.update with tanks := Tbl.set s.update.tanks t v } }

/-- The tanks at a boundary: refilled, a negative balance carried and a positive one not (11 R355). -/
def State.refillTanks (s : State) : State :=
  let s := s.each (upTo 64) fun s t => s.setTank t (Int.ofNat (s.ueRefill t) + min 0 (s.tankOf t))
  let waits := (s.update.ready.map fun e => e.2.length).foldl (· + ·) 0
  ({ s with update := { s.update with admitted := [] } } : State).bump Obj.segmentWaits waits

/-- A ready thread may be admitted: the tank holds its charge, or it is the bell's first and the tank is
full (11 R355). -/
def State.mayAdmit (s : State) (t charge : Nat) : Bool :=
  decide (Int.ofNat charge ≤ s.tankOf t)
    || (Tbl.get s.update.admitted t 0 == 0 && decide (Int.ofNat (s.ueRefill t) ≤ s.tankOf t))

/-- Admit the thread that became ready first, if it may be. -/
def State.admitNext (s : State) (t : Nat) : State :=
  match Tbl.get s.update.ready t [] with
  | [] => s
  | n :: _ =>
    let x := s.thread t n
    let charge := s.chargeOf t x.run
    if !s.mayAdmit t charge then s
    else
      let s := ((s.unready t n).setTank t (s.tankOf t - Int.ofNat charge)).setThread t n
        { x with state := .running, wait := .none, charge := charge, segRung := s.time.rung }
      let s := { s with update := { s.update with
        admitted := Tbl.set s.update.admitted t (Tbl.get s.update.admitted t 0 + 1) } }
      (s.bump (Obj.segments t)).count t 0x302 1 (s.threadAttrs t n)

/-- THREAD_ADMISSION (11 R355). -/
def execThreadAdmission (t : Stall) (s : State) : Result := .next (s.admitNext t.val)

/-- A segment ends with its measured energy: the tank takes back or pays the difference to the charge. -/
def State.endSegment (s : State) (t n nj : Nat) : State :=
  let x := s.thread t n
  let key := 64 * (s.runOf x.run).slot + t
  let ms := Tbl.get s.update.measured key [] ++ [nj]
  let s := s.setTank t (s.tankOf t + Int.ofNat x.charge - Int.ofNat nj)
  let s := { s with update := { s.update with
    measured := Tbl.set s.update.measured key (ms.drop (ms.length - 64)) } }
  (s.bump (Obj.ueEnergy t) nj).setThread t n { x with charge := 0 }

/-! ### Output receipts of a team (11 R370) -/

/-- The receipt of a chunk that a team sends to a group's ports. -/
def State.teamReceipt (s : State) (t g seq chunk : Nat) (out : Option OutAcc) (verdict cause members : Nat) :
    State :=
  let crc := match out with
    | some o => if o.data.isEmpty then 0 else crc32c o.data
    | none => 0
  let elements := match out with
    | some o => o.elements
    | none => 0
  s.sendReceipt t g seq chunk
    { verdict, cause, members, till := t, crc, elements, residue := s.obj (Obj.ueResidueStall t) }

/-- An open output accumulator is closed with a receipt of a verdict and cause (11 R353, R372). Its members
field is not stated: free (log 6). -/
def State.closeOutput (s : State) (t team verdict cause : Nat) : State :=
  match (s.team t team).out with
  | none => s
  | some o =>
    let m := s.drawn % 2048
    let s := s.draw.modTeam t team fun x => { x with out := none }
    s.teamReceipt t o.group o.seq o.chunk (some o) verdict cause m

/-! ### Chunks held (11 R367, R368; 14 R436, R441) -/

/-- A chunk that a team holds counts at the event given by its caller: toward close if its record was
clean with crc_ok. -/
def State.countHeld (s : State) (t team : Nat) (h : HeldBuf) : State :=
  match h.chunk with
  | none => s
  | some (g, seq, chunk, ok) =>
    if h.counted then s
    else match s.pairOfGroup g with
      | none => s
      | some k =>
        let flag := (s.team t team).custodyResidue
        let s := s.modTeam t team fun x => { x with
          custodyResidue := false
          held := x.held.map fun b => if b == h then { b with counted := true } else b }
        s.countChunk k seq chunk ok (!ok || flag)

/-- Every chunk a team holds counts as applied (14 R436). -/
def State.countAllHeld (s : State) (t team : Nat) : State :=
  (s.team t team).held.foldl (fun s h => s.countHeld t team h) s

/-! ### Spans of descriptors (12 R390) -/

/-- Two spans meet. -/
def spansMeet (x y : Nat × Nat) : Bool := decide (x.1 < y.1 + y.2) && decide (y.1 < x.1 + x.2)

/-- The descriptors whose spans lie in the stall window of an address. -/
def State.windowsAt (s : State) (a : Nat) : List DescWindow :=
  if 0x100000000000 ≤ a ∧ a < 0x110000000000 then (s.array ((a - 0x100000000000) / 0x400000)).windows else []

/-- The byte lies in the C of a descriptor whose completion no KWAIT has seen. -/
def State.inOpenC (s : State) (a : Nat) : Bool := (s.windowsAt a).any fun w => spansMeet w.result (a, 1)

/-- `n` free bytes from a counter on (log 6). -/
def freeBytesFrom (k n : Nat) : List Byte := (upTo n).map fun i => BitVec.ofNat 8 (Config.freeValue (k + i))

/-- Bytes as a thread or a block move reads them: those of such a C are undefined, free values. -/
def State.readOpen (s : State) (a n : Nat) : State × List Byte :=
  if (upTo n).any fun i => s.inOpenC (a + i) then
    ({ s with free := s.free + n }, (upTo n).map fun i =>
      if s.inOpenC (a + i) then BitVec.ofNat 8 (Config.freeValue (s.free + i)) else (s.read (a + i) 1).headD 0)
  else (s, s.read a n)

/-- A store by a thread or a block move: a descriptor still at work on a span that it meets reads undefined data. -/
def State.spoil (s : State) (a n : Nat) : State :=
  if (s.windowsAt a).isEmpty then s
  else s.modArray ((a - 0x100000000000) / 0x400000) fun x => { x with
    windows := x.windows.map fun w =>
      if !w.done && (w.result :: w.operands).any (spansMeet (a, n)) then { w with spoiled := true } else w }

/-- A KWAIT has seen the completions of a thread's counter. -/
def State.closeWindows (s : State) (t n k : Nat) : State :=
  if (s.array t).windows.any fun w => w.thread == n && w.counter == k then
    s.modArray t fun x => { x with windows := x.windows.filter fun w => !(w.thread == n && w.counter == k) }
  else s

/-! ### Block moves (11 R364 to R366) -/

/-- Units of a source that read poisoned are written poisoned (11 R366). -/
def State.copyPoison (s : State) (src dst : Nat) : Nat → State
  | 0 => s
  | k + 1 =>
    let s := s.copyPoison src dst k
    if s.readBad (src + 64 * k) 64 then s.poisonUnit (dst + 64 * k) else s

/-- Host window (11 R341). -/
def isHost (a : Nat) : Bool := decide (0x200000000000 ≤ a) && decide (a < 0x300000000000)

/-- The host link carries the module's requests: it is up and PF0 is a bus master (18 R553, R556). -/
def State.hostOpen (s : State) : Bool := s.host.link == .up && s.host.busMaster.contains 0

/-- Max_Read_Request_Size of a function, 512 bytes until the host writes it (18 R547, R554). -/
def State.maxReadOf (s : State) (fn : Nat) : Nat := Tbl.get s.host.maxRead fn 512

/-- Requests that a read of the host still takes. -/
def HostReq.parts (r : HostReq) (size : Nat) : Nat := ceilDiv (r.bytes - r.got.length) size

/-- Send the parts of reads, the oldest read first, while fewer than 1024 are outstanding (18 R554). -/
def sendParts (size now : Nat) : Nat → List HostReq → List HostReq
  | _, [] => []
  | room, r :: rs =>
    let k := min (r.parts size - r.sent.length) room
    { r with sent := r.sent ++ List.replicate k now } :: sendParts size now (room - k) rs

/-- The reads that may be sent now are sent. -/
def State.sendReads (s : State) : State :=
  let open_ := (s.host.reqs.map fun r => r.sent.length).sum
  { s with host := { s.host with reqs := sendParts (s.maxReadOf 0) s.tb1Ns (1024 - open_) s.host.reqs } }

/-- A request to the host fails. -/
def State.hostError (s : State) : State := s.bump Obj.hostErrors

/-- A posted write to host memory leaves the module; `ep` numbers the 64-byte units sent with the poisoned bit set
(18 R556). -/
def State.hostStoreEp (s : State) (a : Nat) (bs : List Byte) (e : EventAttrs) (ep : List Nat) : State :=
  let s := s.countHost bs.length true (e.at a)
  { s with out := { s.out with hostWrite := some (a - 0x200000000000, bs), hostEp := ep } }

/-- A posted write of sound bytes to host memory. -/
def State.hostStore (s : State) (a : Nat) (bs : List Byte) (e : EventAttrs) : State := s.hostStoreEp a bs e []

/-- The 64-byte units of a span of DRAM that read bad, by number. -/
def State.badUnits (s : State) (a n : Nat) : List Nat := (upTo (ceilDiv n 64)).filter fun k => s.readBad (a + 64 * k) 64

/-- Copy the bytes of a move: its error code. -/
def State.copyMove (s : State) (v : BlockMove) : State × Nat :=
  let e := s.threadAttrs v.stall v.thread
  let ep := if v.req.isNone then s.badUnits v.src v.bytes else []
  let bad := !ep.isEmpty
  match v.req, v.hostData with
  | some _, none => (s, 18)
  | _, d =>
    if v.hostError then (s, 18)
    else
      let (s, bs) := match d with
        | some bs => (s, bs)
        | none => s.readOpen v.src v.bytes
      if isHost v.dst then
        if s.hostOpen then (s.hostStoreEp v.dst bs e ep, if bad then 17 else 0) else (s.hostError, 18)
      else
        let s := (s.spoil v.dst v.bytes).store v.dst bs
        let s := if bad then s.copyPoison v.src v.dst (v.bytes / 64) else s
        (s, if bad then 17 else 0)

/-- A completion on a counter of a thread: the counter loses one, the first error is kept, and a KWAIT on a
counter that reaches 0 ends (11 R365). -/
def State.completeCounter (s : State) (t n k code : Nat) : State :=
  let x := s.thread t n
  let c := Tbl.get x.counters k (0, 0)
  let err := if c.2 = 0 then code else c.2
  let left := c.1 - 1
  let counted := s.setThread t n { x with counters := Tbl.set x.counters k (left, err) }
  match x.wait with
  | .counter j d =>
    if j = k && left = 0 then
      (s.setThread t n ({ x with counters := Tbl.set x.counters k (0, 0), wait := .none }.setX d
        (BitVec.ofNat 64 err)).next).closeWindows t n k
    else counted
  | _ => counted

/-- Remove one block move. -/
def State.dropBlock (s : State) (v : BlockMove) : State :=
  { s with update := { s.update with moves := s.update.moves.erase v } }

/-- The oldest move of a thread that can complete: its host data, if any, is in. -/
def State.nextMove (s : State) (t n : Nat) : Option BlockMove :=
  s.update.moves.find? fun v => v.stall == t && v.thread == n && (v.req.isNone || v.hostData.isSome || v.hostError)

/-- A move completes. -/
def State.completeMove (s : State) (v : BlockMove) : State :=
  let (s, code) := (s.dropBlock v).copyMove v
  s.completeCounter v.stall v.thread v.counter code

/-- BMOV_COMPLETE (11 R365, R366). -/
def execBmovComplete (t : Stall) (n : ThreadNo) (s : State) : Result :=
  .next (match s.nextMove t.val n.val with
    | some v => s.completeMove v
    | none => s)

/-- Moves of a team that ends complete and their results are discarded; one still waiting for host data is
given up (11 R353). -/
def State.endMoves (s : State) (t : Nat) (ns : List Nat) : State :=
  (s.update.moves.filter fun v => v.stall == t && ns.contains v.thread).foldl
    (fun s v => ((s.dropBlock v).copyMove v).1) s

/-! ### Descriptors of an ending team (12 R399) -/

/-- Queued descriptors of a thread complete with error 5 and free their slots; streaming ones run on, their
completion counted for no thread. -/
def State.endDescs (s : State) (t : Nat) (ns : List Nat) : State :=
  let a := s.array t
  let mine := fun d : Desc => ns.contains d.thread && d.thread < 256
  let dropped := a.descs.filter fun d => mine d && d.stage != .streaming
  let s := dropped.foldl (fun s d => s.write (d.addr + 56) (leBytes 8 (5 + 256))) s
  let s := s.bump (Obj.descriptorsFailed t) dropped.length
  let left := (a.descs.filter fun d => !(mine d && d.stage != .streaming)).map fun d =>
    if mine d then { d with thread := 256 } else d
  s.setArray t { a with
    descs := left
    windows := (a.windows.filter fun w => !(ns.contains w.thread && (w.done || dropped.any fun d => d.order == w.order))).map
      fun w => if ns.contains w.thread then { w with thread := 256 } else w }

/-! ### Ends of teams and runs (11 R353) -/

/-- No thread of a run is left. -/
def State.runEmpty (s : State) (r : Nat) : Bool :=
  !s.update.threads.any fun e => e.2.state != .free && e.2.run == r

/-- A run with no thread left ends; its STOP_THREADS are done. -/
def State.endRun (s : State) (r : Nat) : State :=
  let x := s.runOf r
  if !s.runEmpty r || x.state == .free || x.state == .scheduled then s
  else (s.setRun r {}).endAll (s.busyOn 0x06 0 6 r)

/-- A team ends: its output is closed incomplete, its moves and descriptors end, its buffers are freed and
its threads are free. -/
def State.endTeam (s : State) (t team : Nat) : State :=
  let x := s.thread t team
  let ns := x.members
  let s := ((s.closeOutput t team 2 10).endMoves t ns).endDescs t ns
  let s := (s.team t team).held.foldl (fun s h => s.freeBuffer h.addr) s
  let s := s.setTeam t team {}
  let s := ns.foldl (fun s n => (s.unready t n).setThread t n {}) s
  s.endRun x.run

/-- A thread's part in its team is over. -/
def Thread.isOver (x : Thread) : Bool := x.state == .free || x.departed

/-- A team whose members have all ended, ends; its chunks count as applied (14 R436). -/
def State.checkTeam (s : State) (t n : Nat) : State :=
  let x := s.thread t n
  if x.members.all fun k => (s.thread t k).isOver then (s.countAllHeld t x.team).endTeam t x.team else s

/-! ### Barriers (11 R365) -/

/-- A barrier opens when every member that is neither departed nor halted has arrived. -/
def State.checkBarrier (s : State) (t n : Nat) : State :=
  let x := s.thread t n
  let awaited := x.members.filter fun k =>
    !(s.thread t k).departed && (s.thread t k).state != .halted && (s.thread t k).state != .free
  let here := (s.team t x.team).barrier
  if x.state == .free || here.isEmpty || !(awaited.all here.contains) then s
  else
    let broken := s.teamBroken t x
    let s := s.modTeam t x.team fun m => { m with barrier := [] }
    here.foldl (fun s k => s.modThread t k fun y =>
      match y.wait with
      | .barrier d => ({ y with wait := .none }.setX d (if broken then 1 else 0)).next
      | _ => y) s

/-! ### TAKE (11 R368) -/

/-- Members of a team that wait in TAKE for a group. -/
def State.takers (s : State) (t : Nat) (x : Thread) : List (Nat × Nat × Nat) :=
  x.members.filterMap fun k => match (s.thread t k).wait with
    | .take g d => some (k, g, d)
    | _ => none

/-- Every member that has not departed waits in TAKE. -/
def State.allTake (s : State) (t : Nat) (x : Thread) : Bool :=
  x.members.all fun k =>
    (s.thread t k).departed || (match (s.thread t k).wait with
      | .take _ _ => true
      | _ => false)

/-- Results of a TAKE that returns no chunk: what x[d+1] and x[d+3] then hold is not stated, free values
(log 6). -/
def emptyTake (flag free : Nat) (x : Thread) (d : Nat) : Thread :=
  (((x.setX d 0).setX (d + 1) (BitVec.ofNat 64 (Config.freeValue free))).setX (d + 2) (BitVec.ofNat 64 flag)).setX
    (d + 3) (BitVec.ofNat 64 (Config.freeValue (free + 1) % 2 ^ 21))

/-- The group gives no more chunks at the stall: it is neither open nor closing, and its queue is empty. -/
def State.groupClosed (s : State) (g t : Nat) : Bool := !s.groupLive g && (s.sinkOf g t).isEmpty

/-- Bits of x[d+2] for a record. -/
def SinkEntry.name (e : SinkEntry) : Nat :=
  e.seq % 2 ^ 32 + (e.chunk % 2 ^ 24) * 2 ^ 32 + b2n e.instanceEnd * 2 ^ 56 + b2n e.aborted * 2 ^ 57

/-- The data of a sink entry match its receipt's crc (11 R368). -/
def State.crcOk (s : State) (e : SinkEntry) : Bool :=
  e.addr != 0 && !s.readBad e.addr e.bytes && crc32c (s.read e.addr e.bytes) == bits e.receipt 128 32

/-- Results of a TAKE that returns a record. -/
def State.takeResult (s : State) (e : SinkEntry) (x : Thread) (d : Nat) : Thread :=
  let a := (x.setX d (BitVec.ofNat 64 e.addr)).setX (d + 1) (BitVec.ofNat 64 e.receipt)
  (a.setX (d + 2) (BitVec.ofNat 64 e.name)).setX (d + 3)
    (BitVec.ofNat 64 (e.elements % 2 ^ 20 + b2n (s.crcOk e) * 2 ^ 20))

/-- The team claims the oldest entry: chunks held before count (14 R436), the record counts as carried if it
has no data, and its buffer is held. The queue's free slot takes what waits. -/
def State.claim (s : State) (t team g : Nat) (e : SinkEntry) : State :=
  let s := s.countAllHeld t team
  let s := s.setSink g t ((s.sinkOf g t).drop 1)
  let ok := e.receipt % 4 == 0 && s.crcOk e
  let s := if e.instanceEnd then s
    else if e.addr = 0 then
      match s.pairOfGroup g with
      | some k => s.countChunk k e.seq e.chunk false true
      | none => s
    else s.modTeam t team fun m => { m with
      held := m.held ++ [{ addr := e.addr, bytes := e.bytes, chunk := some (g, e.seq, e.chunk, ok), counted := false }] }
  let s := match s.coll.ctxs.find? fun c => c.stage == .staged && c.group == g && c.home == t with
    | some c => s.trySink c
    | none => s
  s.pushEnds

/-- A team in TAKE is served: all members are told that the group is closed or the team broken, or they
claim the oldest entry once all have arrived. A parked team waits for its stall (11 R358). -/
def State.serveTake (s : State) (t n : Nat) : State :=
  let x := s.thread t n
  let ws := s.takers t x
  match ws with
  | [] => s
  | (_, g, _) :: _ =>
    if x.state == .free || ws.any fun w => (s.thread t w.1).state == .parked then s
    else
    let give := fun (s : State) (w : Nat × Nat × Nat) (f : Thread → Nat → Thread) =>
      (s.modThread t w.1 fun y => f y w.2.2).makeReady t w.1
    let none' := fun (flag : Nat) => ws.foldl (fun s w =>
      let r := { s with free := s.free + 2 }
      give r w (emptyTake flag s.free)) s
    if s.teamBroken t x then none' (2 ^ 59)
    else if s.groupClosed g t then none' (2 ^ 58)
    else if !s.allTake t x then s
    else match s.sinkOf g t with
      | [] => s
      | e :: _ =>
        let r := s
        let s := s.claim t x.team g e
        ws.foldl (fun s w => give s w (r.takeResult e)) s

/-- TAKE_CLAIM (11 R368). -/
def execTakeClaim (t : Stall) (n : ThreadNo) (s : State) : Result := .next (s.serveTake t.val n.val)

/-! ### Yields (11 R354, R358) -/

/-- The stall is out of compute. -/
def State.away (s : State) (t : Nat) : Bool := (s.stall t).out

/-- The boundary of a stop has come for the thread's run. -/
def State.stopping (s : State) (run : Nat) : Bool := (s.runOf run).state == .stopping

/-- A thread ends: its team's barrier counts it as departed, and its team may end. A departed thread shows
as waiting until its team ends (log 51). -/
def State.endThread (s : State) (t n : Nat) : State :=
  let s := (s.unready t n).modThread t n fun x => { x with state := .waiting, wait := .none, departed := true }
  let s := (s.checkBarrier t n).serveTake t n
  s.checkTeam t n

/-- A team of a run that has stopped ends when no member runs; members at its barrier wait for no ended one. -/
def State.stopTeam (s : State) (t n : Nat) : State :=
  let x := s.thread t n
  if x.members.any fun k => (s.thread t k).state == .running then s.checkBarrier t n else s.endTeam t x.team

/-- A yield point: the segment ends; a stopping run's thread ends; one of a stall out of compute parks,
unless a TAKE finds an entry already queued (11 R358). -/
def State.yieldTo (s : State) (t n nj : Nat) (w : Wait) : State :=
  let s := s.endSegment t n nj
  let x := s.thread t n
  if s.stopping x.run then
    (s.modThread t n fun x => { x with state := .waiting, wait := .none, departed := true }).stopTeam t n
  else
    let served := match w with
      | .take g _ => !(s.sinkOf g t).isEmpty
      | _ => false
    if s.away t && !served then s.setThread t n { x with state := .parked, wait := w }
    else match w with
      | .none => s.makeReady t n
      | _ => s.setThread t n { x with state := .waiting, wait := w }

/-- Threads park at the boundary that takes their stall out of compute: those at a yield point, ready or
waiting, except one whose TAKE finds an entry (11 R358). -/
def State.parkStall (s : State) (t : Nat) : State :=
  (upTo 256).foldl (fun s n =>
    let x := s.thread t n
    let served := match x.wait with
      | .take g _ => !(s.sinkOf g t).isEmpty
      | _ => false
    if (x.state == .ready || (x.state == .waiting && !x.departed)) && !served then
      (s.unready t n).setThread t n { x with state := .parked }
    else s) s

/-- Bells spent waiting for a descriptor that the stall's absence held do not count toward seg_watchdog
(12 R399). -/
def State.excuseHeld (s : State) (t : Nat) : State :=
  (s.array t).descs.foldl (fun s d =>
    if d.late && d.stage == .queued && d.thread < 256 then
      s.modThread t d.thread fun x => { x with segRung := max x.segRung (min s.time.rung (x.segRung + (s.time.rung - d.rung))) }
    else s) s

/-- Parked threads re-enter at the yield point where they parked. -/
def State.unparkStall (s : State) (t : Nat) : State :=
  (upTo 256).foldl (fun s n =>
    let x := s.thread t n
    if x.state != .parked then s
    else match x.wait with
      | .none => s.makeReady t n
      | _ => s.setThread t n { x with state := .waiting }) (s.excuseHeld t)

/-! ### Wakes (11 R365) -/

/-- A thread that waits for a bell wakes when it has rung. -/
def State.wakeBell (s : State) (t n : Nat) : State :=
  let x := s.thread t n
  match x.state, x.wait with
  | .waiting, .bell target d =>
    if target ≤ s.time.bell then
      (s.setThread t n (x.setX d (BitVec.ofNat 64 s.time.bell))).makeReady t n
    else s
  | _, _ => s

/-- BELLW_WAKE (11 R365). -/
def execBellwWake (t : Stall) (n : ThreadNo) (s : State) : Result := .next (s.wakeBell t.val n.val)

/-- WAITM_WAKE (11 R365): the location is checked again. -/
def execWaitmWake (t : Stall) (n : ThreadNo) (s : State) : Result :=
  let x := s.thread t.val n.val
  .next (match x.state, x.wait with
    | .waiting, .location a target => if target ≤ s.readNat a 8 then s.makeReady t.val n.val else s
    | _, _ => s)

/-! ### Faults (11 R372) -/

/-- A fault record of 32 bytes. -/
def FaultRec.word (f : FaultRec) : Nat :=
  f.code % 256 + (f.stall % 64) * 2 ^ 8 + (f.thread % 256) * 2 ^ 14 + (f.run % 64) * 2 ^ 22
    + (f.pc % 2 ^ 48) * 2 ^ 32 + (f.address % 2 ^ 48) * 2 ^ 80 + (f.bell % 2 ^ 64) * 2 ^ 128
    + (f.program % 2 ^ 16) * 2 ^ 192 + (f.pitch % 2 ^ 12) * 2 ^ 208

/-- A thread halts with a fault: the record is written, an event raised, an open output of its team is sent
poisoned, and waiting members of the team hear of it. One of a run that has stopped ends so (11 R353; log 114). -/
def State.faultThread (s : State) (t n code address : Nat) : State :=
  let x := s.thread t n
  let r : FaultRec :=
    { code, stall := t, thread := n, run := x.run, pc := x.pc.toNat, address, bell := s.time.bell
      program := match s.programOf x.run with
        | some p => p.id
        | none => 0
      pitch := s.pitchOf t n }
  let i := (s.obj Obj.ueFaults) % 256
  let s := (s.bump Obj.ueFaults).putObj Obj.faultRingHead i
  let s := { s with update := { s.update with faults := Tbl.set s.update.faults i r } }
  let s := (s.eventObj 13 t Obj.ueFaults).count t 0x701 1 (s.threadAttrs t n)
  let s := (s.unready t n).setThread t n { x with state := .halted, fault := code, wait := .none }
  let s := ((s.closeOutput t x.team 1 12).checkBarrier t n).serveTake t n
  if s.stopping x.run then s.stopTeam t n else s

/-- SEG_WATCHDOG (11 R355): a segment longer than seg_watchdog bells. -/
def execSegWatchdog (t : Stall) (n : ThreadNo) (s : State) : Result :=
  let x := s.thread t.val n.val
  let held := s.away t.val && (s.array t.val).descs.any fun d => d.late && d.stage == .queued && d.thread == n.val
  .next (if x.state == .running && !held && decide (x.segRung + s.obj Obj.segWatchdog < s.time.rung) then
      s.faultThread t.val n.val 7 0
    else s)

/-! ### Starting and stopping runs (11 R352, R353) -/

/-- Aligned runs of free threads at a stall, for teams of a size. -/
def State.freeTeams (s : State) (t size : Nat) : List Nat :=
  if size = 0 then []
  else ((upTo (256 / size)).map (· * size)).filter fun b =>
    (upTo size).all fun i => (s.thread t (b + i)).state == .free

/-- Stalls of a mask. -/
def stallsOf (mask : Nat) : List Nat := (upTo 64).filter fun t => bit mask t

/-- Grant g of START_THREADS. -/
def grantOf (args : Tbl Nat) (g : Nat) : Grant :=
  let w := argOf args (8 + 2 * g)
  { base := bits w 0 48, length := argOf args (9 + 2 * g), rd := bit w 48, wr := bit w 49, atomic := bit w 50 }

/-- A grant keeps R343: page multiples, and a span of memory below the firmware reserve, of a stall's
window, or of host memory without atomics. -/
def State.grantOk (s : State) (g : Grant) : Bool :=
  let hi := g.base + g.length
  g.base % 4096 == 0 && g.length % 4096 == 0 && decide (0 < g.length)
    && (decide (hi ≤ s.reserveBase)
      || (decide (0x100000000000 ≤ g.base) && decide (hi ≤ 0x100000000000 + 64 * 0x400000)
          && g.base / 0x400000 == (hi - 1) / 0x400000)
      || (isHost g.base && decide (hi ≤ 0x300000000000) && !g.atomic))

/-- The run that START_THREADS asks for. -/
def runOfArgs (args : Tbl Nat) : Run :=
  let w := argOf args 0
  { state := .scheduled, slot := bits w 0 6, pitch := bits w 8 12, teamSize := 2 ^ bits w 20 4
    teams := bits w 24 9, stalls := argOf args 1, entry := argOf args 2, argument := argOf args 3
    grants := (upTo (bits w 40 4)).map (grantOf args) }

/-- A free run number. -/
def State.freeRun (s : State) : Option Nat := (upTo 64).find? fun r => (s.runOf r).state == .free

/-- Why START_THREADS is refused (11 R352; 17 R540, R541). -/
def State.startCase (s : State) (args : Tbl Nat) : Refused :=
  let w := argOf args 0
  let r := runOfArgs args
  let n := bits w 40 4
  let named := [0, 1, 2, 3] ++ (upTo n).flatMap fun g => [8 + 2 * g, 9 + 2 * g]
  let grantBits := (upTo n).all fun g => onlyBits (argOf args (8 + 2 * g)) (maskBits 50 0)
  if !onlyBits w (maskBits 5 0 + maskBits 23 8 + maskBits 32 24 + maskBits 43 40) || !onlyArgs args named
      || !grantBits || !onlyBits r.entry (maskBits 31 0) || !decide (n ≤ 8) then some (2, 0)
  else firstCase
    [((Tbl.find s.update.programs r.slot).isNone, 8),
     ((s.pitch r.pitch).state != .admitted && r.pitch != 0, 8),
     ((stallsOf r.stalls).any (fun t => decide ((s.freeTeams t r.teamSize).length < r.teams)) || s.freeRun.isNone, 9),
     (r.grants.any fun g => !s.grantOk g, 2),
     (decide (256 < r.teamSize), 2)]

/-- The teams of a run at a stall take their threads. -/
def State.takeThreads (s : State) (run t : Nat) (r : Run) : State :=
  ((s.freeTeams t r.teamSize).take r.teams).foldl (fun s b =>
    let s := s.setTeam t b { size := r.teamSize }
    (upTo r.teamSize).foldl (fun s i => s.setThread t (b + i)
      { state := .parked, run := run, team := b, teamSize := r.teamSize }) s) s

/-- START_THREADS taken: its threads belong to the run and wait for the start boundary (log 52). -/
def State.startTake (s : State) (token bell : Nat) (args : Tbl Nat) : State :=
  match s.freeRun with
  | none => s
  | some k =>
    let r := { runOfArgs args with startAt := bell, token := token }
    let s := (s.setRun k r).setResult token 0 k
    (stallsOf r.stalls).foldl (fun s t => s.takeThreads k t r) s

/-- A thread at the start of its run. -/
def State.startThread (s : State) (t n : Nat) (r : Run) (image : Nat) : State :=
  let x := s.thread t n
  let y : Thread := { run := x.run, team := x.team, teamSize := x.teamSize
                      pc := BitVec.ofNat 48 (image + r.entry) }
  let s := s.setThread t n ((y.setX 1 (BitVec.ofNat 64 r.argument)).setX 2 (BitVec.ofNat 64 (256 * t + n)))
  if s.away t then s.modThread t n fun x => { x with state := .parked } else s.makeReady t n

/-- The threads of a run. -/
def State.threadsOf (s : State) (r : Nat) : List (Nat × Nat) :=
  (s.update.threads.filter fun e => e.2.state != .free && e.2.run == r).map fun e => (e.1 / 256, e.1 % 256)

/-- A cancelled START_THREADS gives its threads back (17 R543). -/
def State.startUndone (s : State) (token : Nat) : State :=
  (upTo 64).foldl (fun s k =>
    if (s.runOf k).state == .scheduled && (s.runOf k).token == token then
      ((s.threadsOf k).foldl (fun s e => (s.setThread e.1 e.2 {}).setTeam e.1 e.2 {}) s).setRun k {}
    else s) s

/-- A scheduled run whose boundary has come starts (11 R352). -/
def State.startDue (s : State) (k : Nat) : State :=
  let r := s.runOf k
  if r.state != .scheduled || !s.reached (some r.token) r.startAt then s
  else if !s.pitchAdmitted r.pitch then
    -- its pitch was released before its boundary (17 R535): case 2 of R352
    (s.startUndone r.token).endFailedAt r.token 8 2
  else
    let image := match s.programOf k with
      | some p => p.base
      | none => 0
    let s := s.setRun k { r with state := .running }
    let s := (s.threadsOf k).foldl (fun s e => s.startThread e.1 e.2 r image) s
    ((s.markActed r.token).endDone r.token).endRun k

/-- START_THREADS_EFFECT (11 R352). -/
def execStartThreadsEffect (run : Fin 64) (s : State) : Result := .next (s.startDue run.val)

/-- STOP_THREADS taken: done at once for a free run, else scheduled (17 R541). -/
def State.stopTake (s : State) (token : Nat) (args : Tbl Nat) : State :=
  if (s.runOf (bits (argOf args 0) 0 6)).state == .free then s.endDone token else s

/-- Why STOP_THREADS is refused. -/
def stopCase (args : Tbl Nat) : Refused :=
  if !onlyBits (argOf args 0) (maskBits 5 0) || !onlyArgs args [0] then some (2, 0) else none

/-- A run ends: every thread of it that is not running ends at once, running ones at their next yield point
(11 R353). -/
def State.stopRun (s : State) (k : Nat) : State :=
  let s := s.setRun k { s.runOf k with state := .stopping }
  let ts := s.threadsOf k
  let s := ts.foldl (fun s e =>
    if (s.thread e.1 e.2).state == .running then s
    else (s.unready e.1 e.2).modThread e.1 e.2 fun x =>
      { x with state := .waiting, wait := .none, departed := true }) s
  let teams := (ts.map fun e => (e.1, (s.thread e.1 e.2).team)).eraseDups
  (teams.foldl (fun s e => s.stopTeam e.1 e.2) s).endRun k

/-- A stop boundary of a run (11 R353). A run stopped before its start never runs: its START_THREADS fails
(log 62). -/
def State.stopDue (s : State) (k : Nat) : State :=
  let tokens := s.dueOn 0x06 0 6 k
  let r := s.runOf k
  if tokens.isEmpty then s
  else match r.state with
    | .free => s.endAll tokens
    | .scheduled => (((s.startUndone r.token).endFailed r.token 8).markAll tokens).endAll tokens
    | .running => (s.markAll tokens).stopRun k
    | .stopping => s.markAll tokens

/-- STOP_THREADS_EFFECT (11 R353). -/
def execStopThreadsEffect (run : Fin 64) (s : State) : Result := .next (s.stopDue run.val)

/-- At a boundary: waiting threads whose bell has rung wake, and teams in TAKE are served. -/
def State.wakeAll (s : State) : State :=
  (s.update.threads.map (·.1)).foldl (fun s k => (s.wakeBell (k / 256) (k % 256)).serveTake (k / 256) (k % 256)) s

end Sys2Proof.Machine
end

