-- ==== Sys2Proof/Machine/Arrays.lean ====
section
/-! DEFINITION. The matrix arrays (12): gangs, descriptors, their checks, admission, start and completion,
the product itself, fences and self-tests. -/

namespace Sys2Proof.Machine

/-! ### Gangs (12 R376) -/

/-- Side of a gang size. -/
def gangSide (size : Nat) : Nat := if size = 0 then 128 else if size = 1 then 64 else 32

/-- The position exists for the size. -/
def gangPosOk (size pos : Nat) : Bool :=
  if size = 0 then pos == 0 else if size = 1 then decide (pos ≤ 3) else size == 2 && decide (pos ≤ 15)

/-- The sub-arrays of a gang, as a mask. -/
def gangMask (size pos : Nat) : Nat :=
  if size = 0 then 0xFFFF
  else if size = 1 then 0x33 <<< (8 * (pos / 2) + 2 * (pos % 2))
  else 1 <<< pos

/-! ### Descriptor fields (12 R382) -/

namespace DescWord

def kind (w : Nat) : Nat := bits w 0 4
def size (w : Nat) : Nat := bits w 4 2
def pos (w : Nat) : Nat := bits w 6 4
def aFmt (w : Nat) : Nat := bits w 10 4
def bFmt (w : Nat) : Nat := bits w 14 4
def cFmt (w : Nat) : Nat := bits w 18 4
def accumulate (w : Nat) : Bool := bit w 22
def stochastic (w : Nat) : Bool := bit w 23
def aTrans (w : Nat) : Bool := bit w 24
def bTrans (w : Nat) : Bool := bit w 25
def aVariant (w : Nat) : Nat := bits w 26 1
def bVariant (w : Nat) : Nat := bits w 27 1
def m (w : Nat) : Nat := bits w 32 8
def n (w : Nat) : Nat := bits w 40 8
def k (w : Nat) : Nat := bits w 48 16
def aOff (w : Nat) : Nat := bits w 64 20
def aStride (w : Nat) : Nat := bits w 84 16
def bOff (w : Nat) : Nat := bits w 100 20
def bStride (w : Nat) : Nat := bits w 120 16
def cOff (w : Nat) : Nat := bits w 136 20
def cStride (w : Nat) : Nat := bits w 156 16

/-- Row i of C is enabled (12 R386). -/
def rowOn (w i : Nat) : Bool := decide (i < m w) && (!bit w 28 || bit w (192 + i))

/-- Column j of C is enabled. -/
def colOn (w j : Nat) : Bool := decide (j < n w) && (!bit w 29 || bit w (320 + j))

def rowsOn (w : Nat) : List Nat := (upTo (m w)).filter (rowOn w)
def colsOn (w : Nat) : List Nat := (upTo (n w)).filter (colOn w)

/-- The gang's sub-arrays. -/
def mask (w : Nat) : Nat := gangMask (size w) (pos w)

end DescWord

/-! ### Formats (12 R378 to R380) -/

/-- Pack p of an operand format alone. -/
def packOf (f : Nat) : Nat := if f = 1 || f = 2 then 1 else if f = 6 || f = 7 then 4 else 2

/-- An operand format. -/
def operandFmt (f : Nat) : Bool := (decide (1 ≤ f) && decide (f ≤ 8)) || f == 14

/-- The format combination is valid (12 R380). -/
def fmtsOk (a b c : Nat) : Bool :=
  operandFmt a && operandFmt b
    && (if a = 14 || b = 14 then a == 14 && b == 14 && c == 9 else decide (c ≤ 4))

/-- Bytes of `n` elements of an operand row. -/
def rowBytes (f n : Nat) : Nat := if f = 14 then n else dataBytes f n

/-- A descriptor's pack p. -/
def DescWord.pack (w : Nat) : Nat := min (packOf (aFmt w)) (packOf (bFmt w))

/-- Streaming cycles: ceil(k / p) (12 R379). -/
def DescWord.cycles (w : Nat) : Nat := ceilDiv (k w) (pack w)

/-- Stored rows of A: count and bytes of each. -/
def DescWord.aRows (w : Nat) : Nat × Nat :=
  if aTrans w then (k w, rowBytes (aFmt w) (m w)) else (m w, rowBytes (aFmt w) (k w))

/-- Stored rows of B. -/
def DescWord.bRows (w : Nat) : Nat × Nat :=
  if bTrans w then (k w, rowBytes (bFmt w) (n w)) else (n w, rowBytes (bFmt w) (k w))

/-- Rows of C. -/
def DescWord.cRows (w : Nat) : Nat × Nat := (m w, n w * unitBytesOf (cFmt w))

/-- Bytes from an operand's first row to the end of its last. -/
def spanBytes (rows : Nat × Nat) (stride : Nat) : Nat := (rows.1 - 1) * stride + rows.2

/-- The descriptor is valid (12 R383). -/
def DescWord.valid (w : Nat) : Bool :=
  let side := gangSide (size w)
  let aSpan := spanBytes (aRows w) (aStride w)
  let bSpan := spanBytes (bRows w) (bStride w)
  let cSpan := spanBytes (cRows w) (cStride w)
  kind w == 1 && gangPosOk (size w) (pos w) && bits w 30 2 == 0 && bits w 172 20 == 0
    && decide (1 ≤ m w) && decide (m w ≤ side) && decide (1 ≤ n w) && decide (n w ≤ side)
    && decide (32 ≤ k w) && decide (k w ≤ 4096) && k w % 32 == 0
    && fmtsOk (aFmt w) (bFmt w) (cFmt w)
    && ([aOff w, aStride w, bOff w, bStride w, cOff w, cStride w].all fun x => x % 64 == 0)
    && decide (aOff w + aSpan ≤ 0x100000) && decide (bOff w + bSpan ≤ 0x100000)
    && decide (cOff w + cSpan ≤ 0x100000)
    && !overlaps (cOff w) cSpan (aOff w) aSpan && !overlaps (cOff w) cSpan (bOff w) bSpan
    && (!isMx (aFmt w) || (!aTrans w && k w % 256 == 0)) && (!isMx (bFmt w) || (!bTrans w && k w % 256 == 0))

/-! ### The product (12 R381) -/

/-- Base of a stall's operand store (11 R342). -/
def operandBase (t : Nat) : Nat := stallWindow t + 0x200000

/-- Element `e` of a stored row. -/
def State.rowElem (s : State) (t fmt variant row e : Nat) : FVal :=
  let a := operandBase t + row
  if fmt = 14 then FVal.ofInt (toSigned 8 (s.readNat (a + e) 1))
  else if isMx fmt then
    let u := a + e / 256 * unitBytesOf fmt
    let w := packedBits fmt
    let i := e % 256
    let x := s.readNat (u + 8 + w * i / 8) 2 >>> (w * i % 8) % 2 ^ w
    mxScaled (mxElem fmt variant x) (s.readNat (u + i / 32) 1)
  else match plainElem fmt (s.read (a + e * unitBytesOf fmt) (unitBytesOf fmt)) with
    | .fp v => v
    | .int z => FVal.ofInt z

/-- Element (i, kk) of A. -/
def State.aElem (s : State) (t w i kk : Nat) : FVal :=
  if DescWord.aTrans w then
    s.rowElem t (DescWord.aFmt w) (DescWord.aVariant w) (DescWord.aOff w + kk * DescWord.aStride w) i
  else s.rowElem t (DescWord.aFmt w) (DescWord.aVariant w) (DescWord.aOff w + i * DescWord.aStride w) kk

/-- Element (kk, j) of B. -/
def State.bElem (s : State) (t w kk j : Nat) : FVal :=
  if DescWord.bTrans w then
    s.rowElem t (DescWord.bFmt w) (DescWord.bVariant w) (DescWord.bOff w + kk * DescWord.bStride w) j
  else s.rowElem t (DescWord.bFmt w) (DescWord.bVariant w) (DescWord.bOff w + j * DescWord.bStride w) kk

/-- Address of element (i, j) of C. -/
def cAddr (t w i j : Nat) : Nat :=
  operandBase t + DescWord.cOff w + i * DescWord.cStride w + j * unitBytesOf (DescWord.cFmt w)

/-- A sum in the int32 accumulator clamps. -/
def clamp32 (z : Int) : Int × Bool :=
  let x := clampInt (-2 ^ 31) (2 ^ 31 - 1) z
  (x, x != z)

/-- An fp32 cell over the streaming cycles: the p products of a cycle are summed exactly and added with one
rounding. -/
def State.fpCell (s : State) (t w i j : Nat) : Nat → BitVec 32 → BitVec 32
  | 0, a => a
  | c + 1, a =>
    let p := DescWord.pack w
    let kk := p * (DescWord.cycles w - (c + 1))
    let sum := (upTo (min p (DescWord.k w - kk))).foldl
      (fun z q => z.add ((s.aElem t w i (kk + q)).mul (s.bElem t w (kk + q) j))) (ofFp32 a)
    s.fpCell t w i j c (toFp32 sum)

/-- The integer value of a small exact product. -/
def FVal.asInt : FVal → Int
  | .fin n m e => signed n (shiftInt m e)
  | _ => 0

/-- An int32 cell over the streaming cycles, and whether it clamped. -/
def State.intCell (s : State) (t w i j : Nat) : Nat → Int × Bool → Int × Bool
  | 0, a => a
  | c + 1, a =>
    let p := DescWord.pack w
    let kk := p * (DescWord.cycles w - (c + 1))
    let sum := (upTo (min p (DescWord.k w - kk))).foldl
      (fun z q => z + ((s.aElem t w i (kk + q)).mul (s.bElem t w (kk + q) j)).asInt) a.1
    let r := clamp32 sum
    s.intCell t w i j c (r.1, a.2 || r.2)

/-- The accumulator's starting value (12 R381). -/
def State.cellStart (s : State) (t w i j : Nat) : Acc :=
  let f := DescWord.cFmt w
  let bs := s.read (cAddr t w i j) (unitBytesOf f)
  if !DescWord.accumulate w then (if f = 9 then .int 0 else .fp 0)
  else match plainElem f bs with
    | .fp v => .fp (toFp32 v)
    | .int z => .int z

/-- Element (i, j) of C: bytes, saturated, NaN, Inf. -/
def State.cell (s : State) (t w free i j : Nat) : List Byte × Bool × Bool × Bool :=
  let f := DescWord.cFmt w
  match s.cellStart t w i j with
  | .int z =>
    let r := s.intCell t w i j (DescWord.cycles w) (z, false)
    (leBytes 4 (ofSigned 32 r.1), r.2, false, false)
  | .fp x =>
    let y := s.fpCell t w i j (DescWord.cycles w) x
    let mode : OutMode := { outFormat := f, op := 0, exact := false, q := 0
                            stochastic := DescWord.stochastic w && f != 0, rescale := 0, variant := 0, headroom := 0 }
    let c := plainOutput mode free (.fp y)
    let inf := match plainElem f c.bytes with
      | .fp (.inf _) => true
      | _ => false
    (c.bytes, c.saturated, c.nan, inf)

/-- Write C as computed: flags saturated, NaN, Inf. Each element may draw a free value for stochastic
rounding (log 6). -/
def State.product (s : State) (t w : Nat) : State × Bool × Bool × Bool :=
  let r := s
  let cells := (DescWord.rowsOn w).flatMap fun i => (DescWord.colsOn w).map fun j => (i, j)
  let s := { s with free := s.free + cells.length }
  (upTo cells.length).foldl (fun acc q =>
    let (i, j) := cells.getD q (0, 0)
    let c := r.cell t w (r.free + q) i j
    (acc.1.write (cAddr t w i j) c.1, acc.2.1 || c.2.1, acc.2.2.1 || c.2.2.1, acc.2.2.2 || c.2.2.2))
    (s, false, false, false)

/-- The enabled region of C holds free bytes (12 R385: undefined; log 6). -/
def State.spoilC (s : State) (t w : Nat) : State :=
  let n := unitBytesOf (DescWord.cFmt w)
  (DescWord.rowsOn w).foldl (fun s i => (DescWord.colsOn w).foldl (fun s j =>
    s.draw.write (cAddr t w i j) (leBytes n s.drawn)) s) s

/-! ### Completion (12 R384, R385) -/

/-- The descriptor in a slot of a stall. -/
def State.descAt (s : State) (t slot : Nat) : Option Desc := (s.array t).descs.find? fun d => d.slot == slot

/-- Remove a descriptor from its slot. -/
def State.dropDesc (s : State) (t slot : Nat) : State :=
  s.modArray t fun a => { a with descs := a.descs.filter fun d => d.slot != slot }

/-- A descriptor completes: status written, counted, its thread's counter told. -/
def State.finishDesc (s : State) (t : Nat) (d : Desc) (code flags bubbles cycles : Nat) : State :=
  let s := s.modArray t fun a => { a with
    busyRung := s.time.rung
    windows := (a.windows.filter fun x => !(x.order == d.order && x.thread == 256)).map fun x =>
      if x.order == d.order then { x with done := true } else x }
  let w := code + 2 ^ 8 + flags * 2 ^ 9 + min 0xFFFF bubbles * 2 ^ 16 + cycles % 2 ^ 32 * 2 ^ 32
  let s := (s.dropDesc t d.slot).write (d.addr + 56) (leBytes 8 w)
  let s := if code = 0 then s.bump (Obj.descriptorsDone t) else s.bump (Obj.descriptorsFailed t)
  if d.thread < 256 then s.completeCounter t d.thread d.counter code else s

/-- A descriptor ends with an error before it streamed. -/
def State.rejectDesc (s : State) (t : Nat) (d : Desc) (code : Nat) : State := s.finishDesc t d code 0 0 0

/-- A descriptor that streamed ends with an error: C is undefined, and so are the cycle and bubble counts
(log 6). -/
def State.breakDesc (s : State) (t : Nat) (d : Desc) (code : Nat) : State :=
  let s := s.spoilC t d.fields
  let x := s.drawn
  s.draw.finishDesc t d code 0 (x % 65536) (x / 65536)

/-- Enabled cells × streaming cycles. -/
def DescWord.cellCycles (w : Nat) : Nat := (rowsOn w).length * (colsOn w).length * cycles w

/-- A stored operand meets a poisoned unit where the array reads it: rows that are on, or with the operand stored
transposed the elements that are on of every row (12 R386). -/
def State.operandBadAt (s : State) (a stride fmt : Nat) (trans : Bool) (rows : Nat × Nat) (on : List Nat) : Bool :=
  if trans then
    let n := if fmt = 14 then 1 else unitBytesOf fmt
    (upTo rows.1).any fun r => on.any fun e => s.readBad (a + r * stride + e * n) n
  else on.any fun r => s.readBad (a + r * stride) rows.2

/-- What the array reads of A, B and, with accumulate, C meets a poisoned unit (12 R386, R398). -/
def State.operandBad (s : State) (t w : Nat) : Bool :=
  s.operandBadAt (operandBase t + DescWord.aOff w) (DescWord.aStride w) (DescWord.aFmt w) (DescWord.aTrans w)
      (DescWord.aRows w) (DescWord.rowsOn w)
    || s.operandBadAt (operandBase t + DescWord.bOff w) (DescWord.bStride w) (DescWord.bFmt w) (DescWord.bTrans w)
      (DescWord.bRows w) (DescWord.colsOn w)
    || (DescWord.accumulate w && (DescWord.rowsOn w).any fun i => (DescWord.colsOn w).any fun j =>
      s.readBad (cAddr t w i j) (unitBytesOf (DescWord.cFmt w)))

/-- The spans of a descriptor that a thread has issued (12 R390). -/
def DescWord.window (w t order thread counter : Nat) : DescWindow :=
  { order, thread, counter
    operands := [(operandBase t + aOff w, spanBytes (aRows w) (aStride w)),
                 (operandBase t + bOff w, spanBytes (bRows w) (bStride w))]
    result := (operandBase t + cOff w, spanBytes (cRows w) (cStride w)) }

/-- A store has met the descriptor's spans: what the array computes is undefined (12 R390). -/
def State.descSpoiled (s : State) (t : Nat) (d : Desc) : Bool :=
  (s.array t).windows.any fun w => w.order == d.order && w.spoiled

/-- Attributes of an array's events: its issuing thread's. -/
def State.descAttrs (s : State) (t : Nat) (d : Desc) : EventAttrs :=
  if d.thread < 256 then s.threadAttrs t d.thread else {}

/-- No earlier descriptor of the same position still streams (12 R388). -/
def State.firstAtPos (s : State) (t : Nat) (d : Desc) : Bool :=
  !(s.array t).descs.any fun e => e.stage == .streaming && decide (e.order < d.order)
    && DescWord.size e.fields == DescWord.size d.fields && DescWord.pos e.fields == DescWord.pos d.fields

/-- What an error of the operand store does that is corrected (12 R395, R401; 13 R405). -/
def State.operandFixed (s : State) (t : Nat) (u : Upset) : State :=
  s.when (u == .corrected) fun s => (s.bump (Obj.operandEccCorrected t)).sramFixed t

/-- A streaming descriptor completes (12 R381, R389, R390, R392, R398). -/
def State.completeDesc (s : State) (t : Nat) (d : Desc) (bubbles : Nat) (u : Upset) : State :=
  let w := d.fields
  let e := s.descAttrs t d
  let s := (s.bump (Obj.arrayCellCycles t) (DescWord.cellCycles w)).bump (Obj.arrayBubbles t) bubbles
  let s := (s.count t 0x306 (DescWord.cellCycles w) e).count t 0x307 bubbles e
  let s := s.operandFixed t u
  let cycles := DescWord.cycles w + gangSide (DescWord.size w) + 8 + bubbles
  if u == .uncorrectable || s.operandBad t w then
    (s.sramBad t).breakDesc t d 3
  else if s.descSpoiled t d then
    let s := s.spoilC t w
    s.draw.finishDesc t d 0 (s.drawn % 8) bubbles cycles
  else
    let (s, sat, nan, inf) := s.product t w
    s.finishDesc t d 0 (b2n sat + 2 * b2n nan + 4 * b2n inf) bubbles cycles

/-- The array is cut since an earlier bell: every wavefront is a bubble, and what was draining has drained (12 R394). -/
def State.stoppedByCut (s : State) (t : Nat) : Bool := (s.array t).cut && decide ((s.array t).cutRung < s.time.rung)

/-- DESCRIPTOR_COMPLETE (12 R384): the upset is what the operand store's checks found (12 R395). -/
def execDescriptorComplete (t : Stall) (slot : Fin 32) (bubbles : Nat) (upset : Upset) (s : State) : Result :=
  .next (match s.descAt t.val slot.val with
    | some d =>
      if d.stage == .streaming && s.firstAtPos t.val d && !s.stoppedByCut t.val then s.completeDesc t.val d bubbles upset
      else s
    | none => s)

/-! ### Issue, admission and start (12 R382, R387, R388) -/

/-- A free descriptor slot of a stall. -/
def State.freeDescSlot (s : State) (t : Nat) : Option Nat := (upTo 32).find? fun k => (s.descAt t k).isNone

/-- The array reads a descriptor that a thread issues: it is queued, or completes at once if invalid. -/
def State.issueDesc (s : State) (t n slot addr counter : Nat) : State :=
  let bad := s.readBad addr 64
  let w := s.readNat addr 56
  let a := s.array t
  let d : Desc := { slot, order := a.nextOrder, fields := w, addr, thread := n, counter, stage := .queued
                    late := s.away t, rung := s.time.rung }
  let s := (s.setArray t { a with descs := a.descs ++ [d], nextOrder := a.nextOrder + 1 }).write (addr + 56) (leBytes 8 0)
  if bad then s.rejectDesc t d 3
  else if DescWord.valid w then
    s.modArray t fun a => { a with windows := a.windows ++ [DescWord.window w t d.order n counter] }
  else s.rejectDesc t d 1

/-- Energy charge of a descriptor in nJ (12 R387): cell_energy is in fJ. -/
def descCharge (w : Nat) : Nat :=
  ceilDiv (DescWord.cellCycles w * (Config.factory Obj.cellEnergy.key % 65536) + 500000) 1000000

/-- The array tank's refill in nJ. -/
def State.arrayRefill (s : State) (t : Nat) : Nat := if s.limited then 0 else Tbl.get s.warden.array t 0 * s.period / 1000

/-- The tank's cap. -/
def State.arrayCap (s : State) (t : Nat) : Nat := s.obj Obj.arrayTankBells * s.arrayRefill t

/-- The array tanks at a boundary (12 R387). -/
def State.refillArrays (s : State) : State :=
  s.each (upTo 64) fun s t =>
    let a := s.array t
    s.setArray t { a with tank := min (Int.ofNat (s.arrayCap t)) (a.tank + Int.ofNat (s.arrayRefill t)) }

/-- The descriptor of a list issued first. -/
def oldestDesc (ds : List Desc) : Option Desc :=
  ds.foldl (fun best d => match best with
    | none => some d
    | some b => if d.order < b.order then some d else some b) none

/-- The oldest descriptor not admitted. -/
def State.nextDesc (s : State) (t : Nat) : Option Desc :=
  oldestDesc ((s.array t).descs.filter fun d => d.stage == .queued)

/-- Change the stage of a descriptor. -/
def State.stageDesc (s : State) (t slot : Nat) (g : DescStage) : State :=
  s.modArray t fun a => { a with descs := a.descs.map fun d => if d.slot == slot then { d with stage := g } else d }

/-- A descriptor of a charge may be admitted. -/
def State.mayAdmitDesc (s : State) (t charge : Nat) : Bool :=
  decide (Int.ofNat charge ≤ (s.array t).tank)
    || (decide (s.arrayCap t < charge) && decide (Int.ofNat (s.arrayCap t) ≤ (s.array t).tank))

/-- Admit the oldest descriptor, if the tank allows; those issued after the stall left compute wait. -/
def State.admitDesc (s : State) (t : Nat) : State :=
  match s.nextDesc t with
  | none => s
  | some d =>
    let c := descCharge d.fields
    if (d.late && s.away t) || !s.mayAdmitDesc t c then s
    else
      let s := (s.stageDesc t d.slot .admitted).bump (Obj.arrayEnergy t) c
      s.modArray t fun a => { a with tank := a.tank - Int.ofNat c }

/-- DESCRIPTOR_ADMIT (12 R387). -/
def execDescriptorAdmit (t : Stall) (s : State) : Result := .next (s.admitDesc t.val)

/-- What stands before a descriptor's start: an earlier one that shares a sub-array and still waits, or one
at another position that has not completed (12 R388). -/
def blocksStart (d e : Desc) : Bool :=
  decide (e.order < d.order) && (DescWord.mask e.fields &&& DescWord.mask d.fields) != 0
    && (e.stage != .streaming
      || !(DescWord.size e.fields == DescWord.size d.fields && DescWord.pos e.fields == DescWord.pos d.fields))

/-- An admitted descriptor starts streaming, or ends with error 4 on a fenced sub-array. -/
def State.startDesc (s : State) (t : Nat) (d : Desc) : State :=
  if d.stage != .admitted || (s.array t).descs.any (blocksStart d) then s
  else if (s.array t).fenced &&& DescWord.mask d.fields ≠ 0 then s.rejectDesc t d 4
  else s.stageDesc t d.slot .streaming

/-- DESCRIPTOR_START (12 R388). -/
def execDescriptorStart (t : Stall) (slot : Fin 32) (s : State) : Result :=
  .next (match s.descAt t.val slot.val with
    | some d => s.startDesc t.val d
    | none => s)

/-! ### Fences and self-tests (12 R396, R397) -/

/-- Sub-arrays of a mask. -/
def subarraysOf (m : Nat) : List Nat := (upTo 16).filter fun q => bit m q

/-- A residue mismatch in a sub-array while a descriptor runs. -/
def State.arrayMismatch (s : State) (t q : Nat) (d : Desc) : State :=
  let a := s.array t
  let again := match Tbl.find a.passedAt q with
    | some ns => decide (s.tb1Ns ≤ ns + 10 ^ 10)
    | none => false
  let stuck := if again then setBit a.stuck q else a.stuck
  let fenced := a.fenced ||| DescWord.mask d.fields
  let counts := (upTo 16).map fun i =>
    let c := a.faultCounts.getD i 0
    if i = q then min 255 (c + 1) else c
  let s := s.setArray t { a with
    fenced := fenced, stuck := stuck, busyRung := s.time.rung, faultCounts := counts
    lifting := a.lifting &&& (0xFFFF ^^^ DescWord.mask d.fields)
    test := if a.test == .running then .running else if (fenced ||| stuck) == stuck then .failed else .pending }
  let s := if d.thread < 256 then
      s.modTeam t (s.thread t d.thread).team fun m => { m with residue := true, custodyResidue := true }
    else s
  let s := ((s.bump (Obj.arrayResidueErrors t)).bump Obj.arrayResidueTotal).bump Obj.residueTotal
  let s := (s.eventObj 13 t (Obj.arrayResidueErrors t)).count t 0x700 1 (s.descAttrs t d)
  s.breakDesc t d 2

/-- ARRAY_RESIDUE_MISMATCH (12 R396). -/
def execArrayResidueMismatch (t : Stall) (q : Fin 16) (s : State) : Result :=
  .next (match oldestDesc ((s.array t.val).descs.filter fun d =>
      d.stage == .streaming && bit (DescWord.mask d.fields) q.val) with
    | some d => s.arrayMismatch t.val q.val d
    | none => s)

/-- A self-test of the fenced sub-arrays may start, at a boundary: the background grant covers it (15 R468), none of
them holds a streaming descriptor, nor did when it rang. -/
def State.selfTestReady (s : State) (t : Nat) : Bool :=
  let a := s.array t
  a.test == .pending && decide (a.busyRung < s.time.rung) && !s.limited && decide (8200 ≤ s.obj (Obj.lineBudget 6))
    && !a.descs.any fun d => d.stage == .streaming && DescWord.mask d.fields &&& a.fenced != 0

/-- A pending self-test starts (12 R397) once the tally admits its 8.2 W (15 R473). -/
def State.startSelfTest (s : State) (t : Nat) : State :=
  if s.selfTestReady t then
    let (s, admitted) := s.askTally (.selfTest t) 8200
    s.when admitted fun s =>
      s.modArray t fun a => { a with test := .running, testing := a.fenced &&& (0xFFFF ^^^ a.stuck) }
  else s

/-- ARRAY_SELF_TEST_START (12 R397). -/
def execArraySelfTestStart (t : Stall) (s : State) : Result := .next (s.startSelfTest t.val)

/-- ARRAY_SELF_TEST_END (12 R397): a passed test lifts the fence at the next boundary. -/
def execArraySelfTestEnd (t : Stall) (pass : Bool) (s : State) : Result :=
  let a := s.array t.val
  let rest := a.fenced &&& (0xFFFF ^^^ (a.testing ||| a.stuck))
  .next (if a.test != .running then s
    else if pass then
      let passed := (subarraysOf a.testing).foldl (fun t q => Tbl.set t q s.tb1Ns) a.passedAt
      s.setArray t.val { a with
        test := if rest = 0 then .passed else .pending, lifting := a.lifting ||| a.testing, testing := 0
        passedAt := passed }
    else s.setArray t.val { a with
      test := if rest = 0 then .failed else .pending, stuck := a.stuck ||| a.testing, testing := 0 })

/-- Fences of sub-arrays that passed are lifted at a boundary. -/
def State.liftFences (s : State) : State :=
  s.each (upTo 64) fun s t =>
    let a := s.array t
    if a.lifting = 0 then s
    else s.setArray t { a with fenced := a.fenced &&& (0xFFFF ^^^ (a.lifting &&& (0xFFFF ^^^ a.stuck))), lifting := 0 }

/-- The arrays at a boundary: fences lifted, self-tests started. -/
def State.arraysBoundary (s : State) : State := (s.liftFences).each (upTo 64) State.startSelfTest

end Sys2Proof.Machine
end

