-- ==== Sys2Proof/Machine/Runner.lean ====
section
/-! DEFINITION. The runner path (10 R309 to R318): runner frames, rounds, results, heartbeats; and aborts
at their boundary (10 R328), which end rounds as well as contexts. -/

namespace Sys2Proof.Machine

/-! ### Runner queues -/

/-- Runner frames of the module move to their ports' runner queues of 16 frames; a port that is not up
loses them (06 R190). -/
def State.pumpRunner (s : State) : State :=
  let ws := s.coll.runnerPend
  ws.foldl (fun s w =>
      let x := s.port w.1
      if !s.inService w.1 then (s.bump (Obj.lostOnDown w.1)).dropped (w.1 / 16) w.2
      else if x.runnerOut.length < 16 then s.setPort w.1 { x with runnerOut := x.runnerOut ++ [w.2] }
      else { s with coll := { s.coll with runnerPend := s.coll.runnerPend ++ [w] } })
    { s with coll := { s.coll with runnerPend := [] } }

/-- The port of a VC5 frame that the module sends to an endpoint or a module. -/
def State.runnerRoute (s : State) (f : Frame) : Option Nat :=
  match s.bundleOf (f.dest / 256) with
  | some b => slotPort (s.usableMembers b) (f.flowHash % 64)
  | none => none

/-- Send a VC5 frame through a port's runner queue; with no route it is discarded (06 R184). -/
def State.sendRunner (s : State) (t : Nat) (f : Frame) : State :=
  match s.runnerRoute f with
  | none => (s.bump Obj.noRoute).dropped t f
  | some p =>
    (({ s with coll := { s.coll with runnerPend :=
        s.coll.runnerPend ++ [(p, { f with epoch := s.switch.bank })] } } : State).countPass f).pumpRunner

/-! ### Rounds (10 R312 to R314) -/

def State.roundOf (s : State) (g seq : Nat) : Option Round :=
  s.coll.rounds.find? fun r => r.group == g && r.seq == seq

def State.modRound (s : State) (g seq : Nat) (f : Round → Round) : State :=
  { s with coll := { s.coll with
      rounds := s.coll.rounds.map fun r => if r.group == g && r.seq == seq then f r else r } }

/-- The round still runs. -/
def Round.running (r : Round) : Bool := r.result.isNone

/-- Runner contexts held at a stall. -/
def State.roundsAt (s : State) (t : Nat) : Nat := (s.coll.rounds.filter fun r => r.home == t).length

/-- The runner prefix of a result (10 R310). -/
def State.resultPrefix (s : State) (r : Round) (verdict cause : Nat) : Nat :=
  (verdict % 4) * 2 ^ 10 + (cause % 16) * 2 ^ 12 + b2n r.late * 2 ^ 16 + b2n r.inexact * 2 ^ 17
    + b2n r.saturated * 2 ^ 18 + b2n r.nan * 2 ^ 19 + (r.home % 64) * 2 ^ 20 + 2 ^ 26
    + (r.members.length % 2048) * 2 ^ 32 + (s.obj Obj.pos % 256) * 2 ^ 48

/-- Ports take a round's result as their runner queues have room, or leave service; then the context is
free (10 R314). -/
def State.deliver (s : State) (g seq : Nat) : State :=
  match s.roundOf g seq with
  | none => s
  | some r =>
    match r.result with
    | none => s
    | some f =>
      let (s, left) := r.portsLeft.foldl (fun (acc : State × List Nat) p =>
        let x := acc.1.port p
        if !acc.1.inService p then acc
        else if x.runnerOut.length < 16 then
          (acc.1.setPort p { x with runnerOut := x.runnerOut ++ [f] }, acc.2)
        else (acc.1, acc.2 ++ [p])) (s, [])
      if left.isEmpty then
        { s with coll := { s.coll with
          rounds := s.coll.rounds.filter fun r => !(r.group == g && r.seq == seq) } }
      else s.modRound g seq fun r => { r with portsLeft := left }

/-- Every waiting result, and every other runner frame of the module. -/
def State.deliverAll (s : State) : State :=
  (s.coll.rounds.foldl (fun s r => s.deliver r.group r.seq) s).pumpRunner

/-- The 16 most recently ended sequences of a group. -/
def State.endSeq (s : State) (g seq : Nat) : State :=
  let old := Tbl.get s.coll.ended g []
  let new := old ++ [seq]
  { s with coll := { s.coll with ended := Tbl.set s.coll.ended g (new.drop (new.length - 16)) } }

/-- A round's result goes to every target port of the group (10 R314). -/
def State.endRound (s : State) (r : Round) (verdict cause : Nat) (data : List Byte) : State :=
  let x := s.group r.group
  let f := { s.newFrame 5 7 with
    dest := groupDest, pitch := x.pitch, flow := r.group % 65536, group := r.group, seq := r.seq
    chunk := 0, format := x.outFormat, op := x.op, epoch := s.switch.bank
    flags := setBit (setBit (setBit 0 flagFromSpine) flagFirst) flagLast }
  let f := f.withPayload (leBytes 8 (s.resultPrefix r verdict cause) ++ data)
  let f := if verdict = 0 then f else { f with flags := setBit f.flags flagPoisoned }
  let s := (s.countPass f).bump Obj.runnerRounds
  let s := s.when (verdict == 2) fun s => s.bump Obj.runnerIncomplete
  let s := (s.modRound r.group r.seq fun q =>
    { q with result := some f, portsLeft := s.groupTargets r.group none }).endSeq r.group r.seq
  s.deliver r.group r.seq

/-- Data of a complete round (10 R314), and the flags its conversion raises. -/
def State.roundData (s : State) (r : Round) : Converted :=
  let x := s.group r.group
  if x.kind = 3 then { bytes := r.data }
  else if x.kind = 4 then {}
  else
    let acc := (upTo r.acc.length).foldl (fun t i => match r.acc[i]? with
      | some a => Tbl.set t i a
      | none => t) ([] : Tbl Acc)
    convertAll x.outMode s.free r.elements acc []

/-- A round with all its members ends (10 R312). -/
def State.checkRound (s : State) (g seq : Nat) : State :=
  let x := s.group g
  match s.roundOf g seq with
  | none => s
  | some r =>
    let whole := if x.kind = 3 then r.members.contains x.root else decide (x.expected ≤ r.members.length)
    if !whole || !r.running then s
    else if r.cause ≠ 0 then s.endRound r 1 r.cause []
    else
      let c := s.roundData r
      let s := { s with free := s.free + r.elements }
      s.endRound { r with saturated := r.saturated || c.saturated, nan := r.nan || c.nan } 0 0 c.bytes

/-- First cause of a round. -/
def Round.poison (r : Round) (cause : Nat) : Round := if r.cause = 0 then { r with cause := cause } else r

/-- The member of a runner prefix (10 R310). -/
def runnerMember (p : Nat) : Nat := bits p 0 10

/-- A contribution is combined (10 R312). -/
def Round.take (r : Round) (x : GroupSt) (f : Frame) : Round :=
  let m := runnerMember f.collWord
  let es := elementsOf x.inFormat 0 f.data
  let r := if f.poisoned then r.poison 2 else r
  if x.expected ≤ m then r.poison 4
  else
    let r := { r with members := r.members ++ [m] }
    if es.length ≠ r.elements then r.poison 4
    else if x.kind = 3 then { r with data := f.data }
    else
      let zs := (upTo es.length).map fun i =>
        match es[i]? with
        | some e => accumulate x.accMode r.acc[i]? e
        | none => (none, {})
      let fl := zs.foldl (fun a z => AccFlags.or a z.2) ({} : AccFlags)
      let r := { r with acc := zs.map (fun z => z.1.getD (.fp 0)), inexact := r.inexact || fl.inexact
                        saturated := r.saturated || fl.saturated }
      if fl.bad then r.poison 11 else r

/-! ### Runner frames (10 R311) -/

/-- A heartbeat: spine and from_spine set (10 R318). -/
def Frame.heartbeat (f : Frame) : Bool := f.ftype == 7 && f.spine && f.fromSpine

/-- Why a runner frame is refused (10 R311, R328; 09 R268). -/
def State.runnerRefusal (s : State) (f : Frame) : Option Nat :=
  let x := s.group f.group
  let has := (s.roundOf f.group f.seq).isSome
  let ub := unitBytesOf x.inFormat
  if !(x.state == .opened || (x.state == .closing && has)) then some 5
  else if x.pitch != f.pitch then some 6
  else if !(x.kind == 0 || x.kind == 3 || x.kind == 4) || isMx f.format || isMx x.outFormat
      || f.format != x.inFormat || f.op != x.op then some 7
  else if x.aborted.contains f.seq then some 10
  else if f.payload.length < 8 || f.data.length % ub != 0
      || decide (64 < f.data.length / ub * unitBytesOf x.outFormat) || decide (64 < f.data.length) then some 4
  else none

/-- A refused runner frame is answered with a runner result to its source, within the limits of 09 R306
(10 R315). -/
def State.refuseRunner (s : State) (t : Nat) (f : Frame) (cause : Nat) : State :=
  let s := (s.bump Obj.refusedFrames).dropped t f
  let key := (64 + t, f.source, f.group)
  if s.coll.refusals.contains key || f.fromSpine then s
  else
    let s := { s with coll := { s.coll with refusals := s.coll.refusals ++ [key] } }
    let x := s.group f.group
    let format := if x.state != .free && x.pitch == f.pitch then x.outFormat else f.format
    let r : Round := { group := f.group, seq := f.seq, home := t, elements := 0, acc := [], members := []
                       bornRung := 0 }
    let a := { s.newFrame 5 7 with
      dest := f.source, pitch := f.pitch, flow := f.group, group := f.group, seq := f.seq, chunk := 0
      format, op := f.op
      flags := setBit (setBit (setBit (setBit 0 flagFromSpine) flagFirst) flagLast) flagPoisoned }
    (s.bump Obj.refusalReceipts).sendRunner t (a.withPayload (leBytes 8 (s.resultPrefix r 1 cause)))

/-- A runner frame leaves its ingress queue. -/
def State.popRunner (s : State) (p : Nat) (f : Frame) : State :=
  (s.modPort p fun x => { x with runnerIn := x.runnerIn.drop 1, runnerWait := .none }).freeCredits p f.vc f.cells

/-- What the checks of the combine find: the round is poisoned, and the mismatch counted at its home (10 R312). -/
def State.roundUpset (s : State) (f : Frame) (u : Upset) : State :=
  let x := s.group f.group
  (s.tillUpset x.ghome x.pitch none u).when (upsetCause u != 0) fun s =>
    s.modRound f.group f.seq fun r => r.poison (upsetCause u)

/-- An accepted frame reaches its round at the group home; nothing when no context is free (10 R312). -/
def State.toRound (s : State) (f : Frame) (u : Upset) : Option State :=
  let x := s.group f.group
  let m := runnerMember f.collWord
  let n := f.data.length / unitBytesOf x.inFormat
  if (Tbl.get s.coll.ended f.group []).contains f.seq then some ((s.bump Obj.runnerLateFrames).dropped x.ghome f)
  else if x.kind = 3 && m != x.root && decide (m < x.expected) then some s
  else match s.roundOf f.group f.seq with
    | some r =>
      if r.members.contains m then some ((s.bump Obj.runnerDuplicates).dropped x.ghome f)
      else some (((s.modRound f.group f.seq fun r => r.take x f).roundUpset f u).checkRound f.group f.seq)
    | none =>
      if 64 ≤ s.roundsAt x.ghome then none
      else
        let r : Round := { group := f.group, seq := f.seq, home := x.ghome, elements := n, acc := []
                           members := [], bornRung := s.time.rung }
        let s := { s with coll := { s.coll with rounds := s.coll.rounds ++ [r.take x f] } }
        some ((s.roundUpset f u).checkRound f.group f.seq)

/-- Steps 3 and 4 of 10 R311 on the frame at the head of a port's runner ingress queue, which its bucket has
passed: it is refused, reaches its round, or waits for a context. -/
def State.runnerAccept (s : State) (p : Nat) (f : Frame) (u : Upset := .none) : State :=
  match s.runnerRefusal f with
  | some cause => (s.popRunner p f).refuseRunner (p / 16) f cause
  | none =>
    match (s.popRunner p f).toRound f u with
    | some s' => s'.bump (Obj.runnerInFrames (p / 16))
    | none =>
      (s.modPort p fun x => { x with runnerWait := .context }).when ((s.port p).runnerWait != .context) fun s =>
        s.bump Obj.runnerWaits

/-- The head frame of a port is held by its VC5 bucket (07 R222). -/
def State.runnerHold (s : State) (p : Nat) (f : Frame) : State :=
  let t := p / 16
  let x := s.share f.pitch 5 t
  let s := (s.modPort p fun x => { x with runnerWait := .bucket }).setShare f.pitch 5 t { x with held := x.held ++ [p] }
  ((s.count t 0x106 1 (f.attrs (some p))).bump (Obj.heldFrames f.pitch 5)).bump (Obj.heldCells f.pitch 5) f.cells

/-- Steps 1 and 2 of 10 R311, then the others, on the frame at the head of a port's runner ingress queue. -/
def State.runnerHead (s : State) (p : Nat) (f : Frame) (u : Upset) : State :=
  let t := p / 16
  if !s.pitchAdmitted f.pitch then ((s.popRunner p f).bump Obj.unadmittedDrops).dropped t f (some p)
  else if unpoliced f then (s.bump (Obj.passFrames f.pitch 5)).runnerAccept p f u
  else
    let s := s.presentFrame t f
    let behind := !(s.share f.pitch 5 t).held.isEmpty
    let conf := s.conforms f.pitch 5 t
    if conf && !behind then (s.chargeFrame t f).runnerAccept p f u
    else if s.bucketDrops f.pitch 5 && !conf then
      ((s.popRunner p f).bump (Obj.droppedFrames f.pitch 5)).dropped t f (some p)
    else s.runnerHold p f

/-- The oldest frame that a pitch's VC5 bucket holds at a stall, at the head of port `p`, is released (07 R216, R222).
-/
def State.runnerRelease (s : State) (pitch t p : Nat) (charge : Bool) (u : Upset := .none) : State :=
  let x := s.share pitch 5 t
  let s := s.setShare pitch 5 t { x with held := x.held.erase p }
  match (s.port p).runnerIn with
  | [] => s
  | f :: _ =>
    let s := (s.modPort p fun x => { x with runnerWait := .none }).drop (Obj.heldCells pitch 5) f.cells
    (if charge then s.chargeFrame t f else s.bump (Obj.passFrames pitch 5)).runnerAccept p f u

/-- RUNNER_FRAME (10 R311). -/
def execRunnerFrame (p : Checked Port) (s : State) : Result :=
  .next (match (s.port p.val.val).runnerIn with
    | f :: _ =>
      if f.heartbeat || (s.port p.val.val).runnerWait != .none then s else s.runnerHead p.val.val f p.upset
    | [] => s)

/-- RUNNER_WAIT_RESUME (10 R312; 07 R222): a head frame tries again for its context, or for its bucket if it is the
oldest that the bucket holds at the stall. -/
def execRunnerWaitResume (p : Checked Port) (s : State) : Result :=
  .next (match (s.port p.val.val).runnerIn, (s.port p.val.val).runnerWait with
    | f :: _, .context => s.runnerAccept p.val.val f p.upset
    | f :: _, .bucket =>
      let t := p.val.val / 16
      if (s.share f.pitch 5 t).held.head? == some p.val.val && s.conforms f.pitch 5 t then
        s.runnerRelease f.pitch t p.val.val true p.upset
      else s
    | _, _ => s)

/-- Bells after which a round is due (10 R313). -/
def State.dueBells (s : State) : Nat := if s.period ≤ 1000 then 2 else 1

/-- A round is marked late at its due boundary. -/
def State.lateRound (s : State) (r : Round) : State :=
  if r.running && !r.late && decide (r.bornRung + s.dueBells ≤ s.time.rung) then
    (s.modRound r.group r.seq fun r => { r with late := true }).bump Obj.runnerLate
  else s

/-- RUNNER_DUE (10 R313). -/
def execRunnerDue (g : Group) (seq : BitVec 32) (s : State) : Result :=
  .next (match s.roundOf g.val seq.toNat with
    | some r => s.lateRound r
    | none => s)

/-- A round whose patience ends (10 R313). -/
def State.roundPatience (s : State) (r : Round) : State :=
  if r.running && decide (r.bornRung + (s.group r.group).patience ≤ s.time.rung) then
    if r.cause ≠ 0 then s.endRound r 1 r.cause [] else s.endRound r 2 9 []
  else s

/-- RUNNER_PATIENCE_END (10 R313). -/
def execRunnerPatienceEnd (g : Group) (seq : BitVec 32) (s : State) : Result :=
  .next (match s.roundOf g.val seq.toNat with
    | some r => s.roundPatience r
    | none => s)

/-- Due marks and patience of every round at a boundary. -/
def State.roundDeadlines (s : State) : State :=
  let s := s.coll.rounds.foldl (fun s r => s.lateRound r) s
  s.coll.rounds.foldl (fun s r => s.roundPatience r) s

/-! ### Heartbeats (10 R316 to R318) -/

/-- A heartbeat to a POS. -/
def State.heartbeat (s : State) (k stateCode : Nat) : State :=
  let rot := Tbl.get s.coll.heartbeatRot k 0
  let body := s.obj Obj.plane % 16 + (s.obj Obj.pos % 256) * 2 ^ 4 + (stateCode % 16) * 2 ^ 12
    + (s.time.bell % 2 ^ 64) * 2 ^ 16
  let f := (({ s.newFrame 5 7 with seq := s.coll.heartbeats % 2 ^ 32 } : Frame).withPayload
    (leBytes 16 body)).toModule (s.turningLeaf rot) k
  let s := { s with coll := { s.coll with heartbeats := s.coll.heartbeats + 1
                                          heartbeatRot := Tbl.set s.coll.heartbeatRot k (rot + 1) } }
  (s.bump Obj.heartbeatsSent).sendRunner 0 f

/-- Code of module_state (03 R96). -/
def PowerState.code : PowerState → Nat
  | .standby => 1
  | .powering => 2
  | .held => 3
  | .booting => 4
  | .service => 5
  | .latchedFault => 6
  | .returnMode => 7

/-- HEARTBEAT_SEND (10 R317): one to each POS of heartbeat_peers, once bells run on TB0. -/
def State.heartbeats (s : State) : State :=
  if s.time.onTb0 && decide (s.coll.heartbeatAt + s.obj Obj.heartbeatInterval ≤ s.time.rung) then
    let s := { s with coll := { s.coll with heartbeatAt := s.time.rung } }
    ((upTo 256).filter fun k => bit (s.obj Obj.heartbeatPeers) k).foldl
      (fun s k => s.heartbeat k s.power.state.code) s
  else s

/-- HEARTBEAT_SEND. -/
def execHeartbeatSend (s : State) : Result := .next s.heartbeats

/-- HEARTBEAT_RECEIVE (10 R318). -/
def execHeartbeatReceive (p : Port) (s : State) : Result :=
  .next (match (s.port p.val).runnerIn with
    | f :: _ =>
      if !f.heartbeat then s
      else
        let s := s.popRunner p.val f
        let w := f.body
        if bits w 0 4 != s.obj Obj.plane then (s.bump Obj.heartbeatsDiscarded).dropped (p.val / 16) f (some p.val)
        else if f.dest % 256 != s.obj Obj.pos then (s.bump Obj.wrongSpine).dropped (p.val / 16) f (some p.val)
        else s.writeTable Obj.heartbeatLast.key (8 * bits w 4 8) (leBytes 8 s.time.bell)
    | [] => s)

/-! ### Aborts at their boundary (10 R328, R329) -/

/-- Add a sequence to a group's abort list of 16. -/
def GroupSt.abortSeq (x : GroupSt) (seq : Nat) : GroupSt :=
  let l := x.aborted ++ [seq]
  { x with aborted := l.drop (l.length - 16) }

/-- The abort ends what it finds and answers (10 R328, R329). -/
def State.applyAbort (s : State) (a : AbortReq) : State :=
  let x := s.group a.group
  if x.state == .free then s
  else if x.aborted.contains a.seq then (s.abortAnswer a 2 10 0).bump Obj.abortsDone
  else
    let cs := s.abortCtxs a.group a.seq
    let r := match s.roundOf a.group a.seq with
      | some r => if r.running then some r else none
      | none => none
    let done := x.completed a.seq || (match s.qEntry a.group a.seq with
      | some e => e.state == .complete
      | none => false)
    if done && cs.isEmpty && r.isNone && !s.keptOfInstance a.group a.seq then
      (s.abortAnswer a 0 0 0).bump Obj.abortsComplete
    else
      let s := s.modGroup a.group fun x => x.abortSeq a.seq
      let s := s.modEntry a.group a.seq fun e => { e with state := .aborted }
      let s := cs.foldl (fun s c => s.endCtx c 2 10) s
      let s := match r with
        | some r => s.endRound r 2 10 []
        | none => s
      let s := (s.freeKeptOf a.group (some a.seq)).postEnd a.group a.seq true
      (s.abortAnswer a 2 10 (cs.length + b2n r.isSome)).bump Obj.abortsDone

/-- ABORT_APPLY (10 R328). -/
def execAbortApply (g : Group) (seq : BitVec 32) (s : State) : Result :=
  .next (match s.coll.aborts.find? fun a => a.group == g.val && a.seq == seq.toNat && decide (a.rung < s.time.rung) with
    | some a => ({ s with coll := { s.coll with aborts := s.coll.aborts.erase a } } : State).applyAbort a
    | none => s)

/-- Every abort taken before the boundary. -/
def State.applyAborts (s : State) : State :=
  s.coll.aborts.foldl (fun s a => s.applyAbort a) { s with coll := { s.coll with aborts := [] } }

end Sys2Proof.Machine
end

