-- ==== Sys2Proof/Machine/Crossbar.lean ====
section
/-! DEFINITION. The switch core (06): ingress classification, the market master, column drain, re-steering,
the drain guard, bank switches, and the release of frames that a policer or the guard holds. -/

namespace Sys2Proof.Machine

/-! ### Ingress (06 R182, 07 R218) -/

/-- A frame of a type that the module does not take (05 R153, 06 R182). -/
def State.badType (s : State) (p : Nat) (f : Frame) : State :=
  ((s.bump (Obj.badTypeVc p)).dropped (p / 16) f (some p)).eventObj 10 (p / 16) (Obj.badTypeVc p)

/-- A frame that ends at the module: consumed by the port, the time unit, the management domain, custody
control or the generated-traffic throttle. Its effect is the command that carries its content (log 43). -/
def State.consume (s : State) (p : Nat) (f : Frame) : State := s.freeCredits p f.vc f.cells

/-- Home of a class 5 frame (06 R182; a type 5 frame of a group that is free: log 44). -/
def State.classFiveHome (s : State) (t : Nat) (f : Frame) : Nat :=
  if f.ftype = 5 then
    if (s.group f.group).state == .free then t else (s.group f.group).ghome
  else s.homeFor f.group f.seq f.chunk

/-- A frame of types 8 to 10 for this module: a dictionary message of a pitch other than 0 is discarded
(17 R525). -/
def State.consumeCtl (s : State) (t p : Nat) (f : Frame) : State :=
  if f.ftype = 9 && f.pitch != 0 then (s.bump Obj.msgDiscarded).consume p f
  else (s.consume p f).mirrorIngress t p f

/-- Classification and lookup after the policer (06 R182), and the copies of what it keeps (06 R196). -/
def State.classify (s : State) (p : Nat) (f : Frame) : State :=
  let t := p / 16
  let home := fun (s : State) => (s.toHome t p (s.classFiveHome t f) f).mirrorIngress t p f
  if f.ftype = 12 || f.dest = 0xFFFFF || f.ftype = 11 then s.consume p f
  else if f.vc = 4 && (f.ftype = 3 || f.ftype = 5) then home s
  else if f.spine then
    if f.dest % 256 = s.obj Obj.pos then
      if f.ftype = 4 || f.ftype = 6 then home s
      else if decide (8 ≤ f.ftype) && decide (f.ftype ≤ 10) then s.consumeCtl t p f
      else (s.badType p f).freeCredits p f.vc f.cells
    else ((s.bump Obj.wrongSpine).dropped t f (some p)).freeCredits p f.vc f.cells
  else if f.vc = 7 then
    let waiting := Tbl.set s.service.waiting t (Tbl.get s.service.waiting t [] ++ [(f, p)])
    { s with service := { s.service with waiting := waiting } }
  else s.forwardCopied t p f f

/-- Types that skip the admission check and the policer's metering (05 R153, 07 R218). -/
def exempt (f : Frame) : Bool := decide (8 ≤ f.ftype) && decide (f.ftype ≤ 12)

/-- Admission check, policer, then classification (01 R20 step 4). -/
def State.ingress (s : State) (p : Nat) (f : Frame) : State :=
  let t := p / 16
  if !exempt f && !s.pitchAdmitted f.pitch then
    ((s.bump Obj.unadmittedDrops).dropped t f (some p)).freeCredits p f.vc f.cells
  else if unpoliced f then (s.bump (Obj.passFrames f.pitch f.vc)).classify p f
  else
    let s := s.presentFrame t f
    match s.police t p f with
    | .pass => (s.chargeFrame t f).classify p f
    | .hold => s.policerHold t p f
    | .drop => s.policerDrop p f

/-- INGRESS_FRAME (06 R182): the oldest accepted frame of a port. -/
def execIngressFrame (p : Port) (s : State) : Result :=
  let low := s.portLow p.val
  .next (match (s.port low).accepted with
    | f :: rest => (s.setPort low { s.port low with accepted := rest }).ingress low f
    | [] => s)

/-! ### Release of held frames (07 R216, R222; 06 R192) -/

/-- The oldest frame that a bucket holds at a stall leaves the policer. -/
def State.releaseHeld (s : State) (p vc t : Nat) (charge : Bool) : State :=
  match (s.share p vc t).held with
  | [] => s
  | i :: _ =>
    if vc = 5 then s.runnerRelease p t i charge
    else match s.flight i with
    | none => s
    | some f =>
      let s := s.unhold p vc t i f
      let s := if charge then s.chargeFrame t f.frame else s.bump (Obj.passFrames p vc)
      match f.inPort with
      | some port => s.classify port f.frame
      | none => s

/-- POLICER_RELEASE (07 R222). -/
def execPolicerRelease (t : Stall) (pitch : Pitch) (vc : Fin 8) (s : State) : Result :=
  .next (if s.conforms pitch.val vc.val t.val then s.releaseHeld pitch.val vc.val t.val true else s)

/-- All frames of a pitch held by a policer are released without further policing, each bucket's in order of arrival
(07 R216). -/
def State.releaseAllHeld (s : State) (p : Nat) : State :=
  let held := (s.pitches.shares.filter fun e => e.1 / 512 == p).flatMap fun e => e.2.held.map fun _ => e.1
  held.foldl (fun s k => s.releaseHeld p (k / 64 % 8) (k % 64) false) s

/-- A taken RELEASE_PITCH takes effect at L, the first boundary after its intake (07 R216). -/
def State.releaseEffect (s : State) (p : Nat) : State :=
  if (s.pitch p).releaseDue && decide ((s.pitch p).takenRung < s.time.rung) then
    let s := s.setPitch p { s.pitch p with
      state := .releasing, releaseDue := false, freeAt := some ((s.pitch p).takenRung + 17) }
    s.releaseAllHeld p
  else s

/-- RELEASE_EFFECT (07 R216). -/
def execReleaseEffect (pitch : Pitch) (s : State) : Result := .next (s.releaseEffect pitch.val)

/-- Frames that the guard holds for a flow at a stall, in order of arrival. -/
def State.guardHeldOf (s : State) (key : Nat) : List (Nat × Flight) :=
  s.switch.flights.filter fun e => e.2.hold == .guard (key % 4096) && e.2.stall == key / 4096

/-- A held frame joins its queue. -/
def State.unguard (s : State) (e : Nat × Flight) : State :=
  (s.setFlight e.1 { e.2 with hold := .none, since := s.tb1Ns }).pushVoq e.2.stall e.2.route.output e.2.cls e.1

/-- A flow whose count is 0 releases its frames. -/
def State.guardRelease (s : State) (key : Nat) : State :=
  if s.preCountOf key = 0 then (s.guardHeldOf key).foldl State.unguard s else s

/-- GUARD_FLOW_RELEASE (06 R192). -/
def execGuardFlowRelease (t : Stall) (flow : Fin 4096) (s : State) : Result :=
  .next (s.guardRelease (4096 * t.val + flow.val))

/-- A frame counted before a switch leaves its VOQ: its flow's count falls, and at 0 its held frames are
released (06 R192). -/
def State.uncount (s : State) (key : Option Nat) : State :=
  match key with
  | none => s
  | some k =>
    if s.preCountOf k = 0 then s
    else
      let n := s.preCountOf k - 1
      let c := if n = 0 then Tbl.erase s.switch.preCount k else Tbl.set s.switch.preCount k n
      ({ s with switch := { s.switch with preCount := c } } : State).guardRelease k

/-- The guard ends at S + drain_guard: everything held is released (06 R192). -/
def State.guardEnds (s : State) : State :=
  match s.switch.guardEnd with
  | some e =>
    if e ≤ s.time.rung then
      let held := s.switch.flights.filter fun e => match e.2.hold with
        | .guard _ => true
        | _ => false
      let s := held.foldl (fun s e =>
        let s := s.when (s.preCountOf (guardKey e.2.stall e.2.frame) != 0) fun s => s.bump Obj.guardExpired
        s.unguard e) s
      { s with switch := { s.switch with guardEnd := none, preCount := [] } }
    else s
  | none => s

/-- DRAIN_GUARD_END (06 R192). -/
def execDrainGuardEnd (s : State) : Result := .next s.guardEnds

/-! ### Bank switch (06 R191) -/

/-- Bytes of a bank: leaf table, then bundle table. -/
def State.bankBytes (s : State) (bank : Nat) : List Byte :=
  s.readTable (if bank = 0 then Obj.leafTableA.key else Obj.leafTableB.key) 0 16384
    ++ s.readTable (if bank = 0 then Obj.bundleTableA.key else Obj.bundleTableB.key) 0 32768

/-- bank_digest_a and bank_digest_b. -/
def State.bankDigest (s : State) (bank : Nat) : Nat := crc32c (s.bankBytes bank)

/-- Every valid member of a bank names a permitted port (06 R183, R185). -/
def State.bankPortsOk (s : State) (bank : Nat) : Bool :=
  (upTo 1024).all fun b => (upTo 16).all fun m =>
    let w := s.memberField bank b m
    !fieldValid w || s.isLowest (fieldPort w)

/-- The readiness check at S − 200 ns: position of the case that fails, 0 if none. -/
def State.bankCheck (s : State) : State :=
  match s.switch.switch with
  | some b =>
    if b.passed.isSome then s
    else
      let bank := 1 - s.switch.bank
      let fails := if s.bankDigest bank != b.digest then 1 else if !s.bankPortsOk bank then 2 else 0
      if fails = 0 then { s with switch := { s.switch with switch := some { b with passed := some true } } }
      else ({ s with switch := { s.switch with switch := none } } : State).endFailedAt b.token 10 fails
  | none => s

/-- BANK_READINESS_CHECK (06 R191). -/
def execBankReadinessCheck (s : State) : Result := .next s.bankCheck

/-- Frames of guarded classes looked up before the switch, counted per flow (06 R192). -/
def State.countFlows (s : State) : State :=
  s.switch.flights.foldl (fun s e =>
    if guarded e.2.cls && e.2.inPort.isSome && e.2.hold == .none && decide (e.2.granted < e.2.cells) then
      let key := guardKey e.2.stall e.2.frame
      let c := Tbl.modify s.switch.preCount key 0 (· + 1)
      ({ s with switch := { s.switch with preCount := c } } : State).setFlight e.1
        { e.2 with preFlow := some key }
    else s) { s with switch := { s.switch with preCount := [] } }

/-- The switch takes effect, if its check has passed: bank and epoch, spray states, drain guard (06 R186, R191, R192).
-/
def State.bankSwitch (s : State) : State :=
  let due := s.switch.switch.any fun b => s.reached (some b.token) b.bell
  let s := if due then s.bankCheck else s
  match s.switch.switch with
  | some b =>
    if b.passed == some true && s.reached (some b.token) b.bell then
      let n := 1 - s.switch.bank
      let s := { s with switch := { s.switch with
        bank := n, switch := none, spray := [], guardEnd := some (s.time.rung + s.obj Obj.drainGuard) } }
      let s := ((s.putObj Obj.bankSwitchBell s.time.bell).setResult b.token 0 n).countFlows
      s.endDone b.token
    else s
  | none => s

/-- BANK_SWITCH (06 R191). -/
def execBankSwitch (s : State) : Result := .next s.bankSwitch

/-! ### The market master (06 R171 to R178) -/

/-- Which of a source stall's queues a request is for. -/
inductive ReqKind where
  | unicast | multicast | generated
  deriving DecidableEq, Repr

/-- A request: the head cell of a queue at a source, for an output, in a class. -/
structure Req where
  src : Nat
  out : Nat
  cls : Nat
  kind : ReqKind
  flight : Nat
  deriving DecidableEq, Repr

/-- Key of a crosspoint. -/
def xpKey (src out : Nat) : Nat := 64 * src + out

/-- Cells of a class in a crosspoint. -/
def State.xpCells (s : State) (src out cls : Nat) : Nat :=
  (Tbl.get s.switch.xp (8 * xpKey src out + cls) []).foldl (fun n e => n + e.2) 0

/-- The crosspoint may take one more cell of a class (06 R178). -/
def State.xpRoom (s : State) (src out cls : Nat) : Bool :=
  let n := fun k => s.xpCells src out k + b2n (k == cls)
  let sum := fun f : Nat → Nat => (upTo 8).foldl (fun a k => a + f k) 0
  decide (sum n ≤ 32) && decide (n cls ≤ 18) && decide (sum (fun k => n k - 2) ≤ 16)
    && decide ((n 4 - 2) + (n 5 - 2) ≤ 8)

/-- Every request of every source. -/
def State.requests (s : State) : List Req :=
  let uni := s.switch.voq.filterMap fun e =>
    match e.2 with
    | i :: _ => some { src := e.1 / 512, out := e.1 / 8 % 64, cls := e.1 % 8, kind := .unicast, flight := i : Req }
    | [] => none
  let multi := s.switch.mcq.flatMap fun e =>
    match e.2 with
    | i :: _ => match s.flight i with
      | some f => ((upTo 64).filter fun o => bit f.mask o).map fun o =>
          { src := e.1, out := o, cls := 4, kind := .multicast, flight := i : Req }
      | none => []
    | [] => []
  let gen := s.switch.gen.filterMap fun e =>
    match e.2 with
    | i :: _ => match s.flight i with
      | some f => some { src := e.1, out := f.route.output, cls := f.cls, kind := .generated, flight := i : Req }
      | none => none
    | [] => none
  uni ++ multi ++ gen

/-- A class 5 head frame lacks chunk admission credit (09 R282). A frame partly sent keeps its credit while
the intake has room (log 45). -/
def State.lacksCredit (s : State) (r : Req) : Bool :=
  r.cls == 5 && match s.flight r.flight with
    | some f => if f.granted = 0 then !s.chunkCredit r.out f.frame else decide (64 ≤ s.intakeCells r.out)
    | none => true

/-- The request is eligible (06 R172). -/
def State.eligible (s : State) (r : Req) : Bool := s.xpRoom r.src r.out r.cls && !s.lacksCredit r

/-- Cells sent by each source and written at each output in this slot: class 5 and others apart. -/
structure SlotUse where
  src : Tbl Nat := []
  five : Tbl Nat := []
  other : Tbl Nat := []

def SlotUse.outLeft (u : SlotUse) (o : Nat) : Nat := 2 - (Tbl.get u.five o 0 + Tbl.get u.other o 0)
def SlotUse.srcLeft (u : SlotUse) (t : Nat) : Nat := 2 - Tbl.get u.src t 0

/-- Distance in rotation. -/
def ahead (ptr x n : Nat) : Nat := (x + n - ptr % n) % n

/-- The better of two by a measure; the first on a tie. -/
def least {α : Type} (m : α → Nat) (xs : List α) : Option α :=
  xs.foldl (fun b x => match b with
    | none => some x
    | some y => if m x < m y then some x else some y) none

/-- Among a source's requests to an output, the next class in rotation (06 R174), then unicast, multicast,
generated (log 33). -/
def State.pickClass (s : State) (rs : List Req) : Option Req :=
  least (fun r => 4 * ahead (Tbl.get s.switch.xpTurn (xpKey r.src r.out) 0) r.cls 8 + match r.kind with
    | .unicast => 0
    | .multicast => 1
    | .generated => 2) rs

/-- One request per source, sources in order from the grant pointer. -/
def State.bySource (s : State) (o : Nat) (rs : List Req) : List Req :=
  let g := Tbl.get s.switch.grantPtr o 0
  (upTo 64).filterMap fun k =>
    s.pickClass (rs.filter fun r => r.src == (g + k) % 64)

/-- One cell of a flight enters a crosspoint. -/
def State.pushCell (s : State) (src out cls i : Nat) : State :=
  let k := 8 * xpKey src out + cls
  let q := Tbl.get s.switch.xp k []
  let q' := match q.getLast? with
    | some (j, n) => if j = i then q.dropLast ++ [(i, n + 1)] else q ++ [(i, 1)]
    | none => [(i, 1)]
  { s with switch := { s.switch with xp := Tbl.set s.switch.xp k q' } }

/-- Two grants of one output stand together: those of one source go into one crosspoint, which must have room for both
(06 R178). -/
def State.roomForBoth (s : State) (a b : Req) : Bool :=
  a.src != b.src || (s.pushCell a.src a.out a.cls a.flight).xpRoom b.src b.out b.cls

/-- One write for each side, the first side's first; what one side does not use passes to the other (06 R175). -/
def State.bothSides (s : State) (first second : List Req) : List Req :=
  match first with
  | [] => second.take 2
  | a :: rest => match second.find? (s.roomForBoth a) with
    | some b => [a, b]
    | none => a :: rest.take 1

/-- The requests that an output grants (06 R173, R175). -/
def State.grants (s : State) (u : SlotUse) (o : Nat) (rs : List Req) : List Req :=
  let five := s.bySource o (rs.filter fun r => r.cls == 5)
  let other := s.bySource o (rs.filter fun r => r.cls != 5)
  let n5 := Tbl.get u.five o 0
  let n6 := Tbl.get u.other o 0
  let fiveFirst := if n5 < n6 then true else if n6 < n5 then false else s.switch.tillFirst
  match u.outLeft o with
  | 0 => []
  | 1 => if fiveFirst then (five ++ other).take 1 else (other ++ five).take 1
  | _ => if fiveFirst then s.bothSides five other else s.bothSides other five

/-- Drop the head of one of the queue tables. -/
def popQueue (q : Tbl (List Nat)) (k : Nat) : Tbl (List Nat) :=
  let r := (Tbl.get q k []).drop 1
  if r.isEmpty then Tbl.erase q k else Tbl.set q k r

/-- The last cell of a flight has been granted: it leaves its queue, its credits and its buffer go back,
and the drain guard no longer counts it. -/
def State.leaveQueue (s : State) (r : Req) (f : Flight) : State :=
  let s := match r.kind with
    | .unicast => { s with switch := { s.switch with voq := popQueue s.switch.voq (voqKey r.src r.out r.cls) } }
    | .multicast => { s with switch := { s.switch with mcq := popQueue s.switch.mcq r.src } }
    | .generated => { s with switch := { s.switch with gen := popQueue s.switch.gen r.src } }
  ((s.freeFlightCredits f).freeBufferOpt f.buffer).uncount f.preFlow

/-- The frame with the payload of its next cell as memory holds it now (06 R169): the frame's first 32 bytes are its
header. -/
def State.cellRead (s : State) (f : Flight) : Frame :=
  match f.src with
  | none => f.frame
  | some (off, a, n) =>
    let lo := max off (256 * f.granted - 32)
    let hi := min (off + n) (256 * f.granted + 224)
    if hi ≤ lo then f.frame
    else { f.frame with
      payload := f.frame.payload.take lo ++ s.read (a + (lo - off)) (hi - lo) ++ f.frame.payload.drop hi }

/-- Where a cell's payload lies that its next grant reads. -/
def Flight.cellSpan (f : Flight) : Option (Nat × Nat) :=
  f.src.map fun (off, a, n) =>
    let lo := max off (256 * f.granted - 32)
    (a + (lo - off), min (off + n) (256 * f.granted + 224) - lo)

/-- The read of a cell's payload from a pool's buffer in stacked memory is counted (16 R491, R493); MCAST counts its own
reads. -/
def State.countCell (s : State) (t : Nat) (f : Flight) : State :=
  match f.cellSpan with
  | some (a, n) => s.when (s.isDram a && decide (s.reserveBase ≤ a) && decide (0 < n)) fun s =>
      s.countAccess t a n false (f.frame.attrs f.inPort)
  | none => s

/-- An accepted grant moves one cell (06 R174, R176); a multicast cell is read with its first send. -/
def State.moveCell (s : State) (r : Req) : State :=
  match s.flight r.flight with
  | none => s
  | some f =>
    let (s, f) := if f.mask == f.fullMask then (s.countCell r.src f, { f with frame := s.cellRead f }) else (s, f)
    let s := (s.pushCell r.src r.out r.cls r.flight).count r.src 0x104 1
      { privilege := some (pitchPrivilege f.frame.pitch), pitch := some f.frame.pitch }
    let s := { s with switch := { s.switch with
      xpTurn := Tbl.set s.switch.xpTurn (xpKey r.src r.out) ((r.cls + 1) % 8) } }
    if r.kind == .multicast && clearBit f.mask r.out != 0 then
      s.setFlight r.flight { f with mask := clearBit f.mask r.out }
    else
      let f' := { f with granted := f.granted + 1, mask := f.fullMask }
      let s := s.setFlight r.flight f'
      if f'.granted < f'.cells then s
      else
        let s := s.setFlight r.flight { f' with buffer := none, preFlow := none }
        s.leaveQueue r f'

/-- Grants that a source accepts: outputs in order from its accept pointer; multicast grants of one cell
count as one send (06 R173, R176). -/
def State.accepts (s : State) (u : SlotUse) (t : Nat) (gs : List Req) : List Req :=
  let a := Tbl.get s.switch.acceptPtr t 0
  let ordered := (upTo 64).flatMap fun k => gs.filter fun r => r.src == t && r.out == (a + k) % 64
  (ordered.foldl (fun (acc : List Req × Nat × Bool) r =>
      let (out, left, multi) := acc
      if r.kind == .multicast && multi then (out ++ [r], left, multi)
      else if left = 0 then acc
      else (out ++ [r], left - 1, multi || r.kind == .multicast))
    ([], u.srcLeft t, false)).1

/-- Sends that a list of accepted requests of one source counts as. -/
def sendsOf (rs : List Req) : Nat :=
  (rs.filter fun r => r.kind != .multicast).length + b2n (rs.any fun r => r.kind == .multicast)

/-- The furthest of some numbers in order from a pointer, over 0 to 63. -/
def lastFrom (ptr : Nat) (xs : List Nat) : Nat :=
  xs.foldl (fun b x => if ahead ptr b 64 < ahead ptr x 64 then x else b) (xs.headD 0)

/-- Pointers move past the last accepted grant in the order from each (06 R173). -/
def State.movePointers (s : State) (accepted : List Req) : State :=
  let sw := s.switch
  let grant := (accepted.map (·.out)).eraseDups.foldl (fun g o =>
    let srcs := (accepted.filter fun r => r.out == o).map (·.src)
    Tbl.set g o ((lastFrom (Tbl.get sw.grantPtr o 0) srcs + 1) % 64)) sw.grantPtr
  let accept := (accepted.map (·.src)).eraseDups.foldl (fun g t =>
    let outs := (accepted.filter fun r => r.src == t).map (·.out)
    Tbl.set g t ((lastFrom (Tbl.get sw.acceptPtr t 0) outs + 1) % 64)) sw.acceptPtr
  { s with switch := { sw with grantPtr := grant, acceptPtr := accept } }

/-- One iteration: grant, accept, move the cells; pointers only after the first (06 R173). -/
def State.iterate (s : State) (u : SlotUse) (first : Bool) : State × SlotUse :=
  let rs := s.requests.filter fun r => s.eligible r && decide (0 < u.srcLeft r.src)
  let outs := (rs.map (·.out)).eraseDups
  let gs := outs.flatMap fun o => s.grants u o (rs.filter fun r => r.out == o)
  let srcs := (gs.map (·.src)).eraseDups
  let acc := srcs.map fun t => (t, s.accepts u t gs)
  let all := acc.flatMap (·.2)
  let u := { u with
    src := acc.foldl (fun x a => Tbl.modify x a.1 0 (· + sendsOf a.2)) u.src
    five := all.foldl (fun x r => if r.cls = 5 then Tbl.modify x r.out 0 (· + 1) else x) u.five
    other := all.foldl (fun x r => if r.cls = 5 then x else Tbl.modify x r.out 0 (· + 1)) u.other }
  let s := if first then s.movePointers all else s
  (all.foldl State.moveCell s, u)

/-- CELL_SLOT (06 R173): three iterations; a slot in which a class 5 head lacks credit is counted; waiting generated
frames try for the room that was made. -/
def execCellSlot (s : State) : Result :=
  let s := s.when (s.requests.any s.lacksCredit) fun s => s.bump Obj.admissionWaits
  let (s, u) := s.iterate {} true
  let (s, u) := s.iterate u false
  let (s, _) := s.iterate u false
  .next (({ s with switch := { s.switch with tillFirst := !s.switch.tillFirst } } : State).pump)

/-! ### Column drain (06 R180, R181) -/

/-- The egress queue of a port has room for a cell of a VC. -/
def State.egressRoom (s : State) (p vc : Nat) : Bool :=
  let x := s.port p
  decide (egressDepth x vc < s.obj Obj.egressVcCap)
    && decide ((upTo 8).foldl (fun n v => n + egressDepth x v) 0 < 64)

/-- Cells of a flight appended to an egress queue. -/
def pushEgress (q : List (Nat × Nat)) (i : Nat) : List (Nat × Nat) :=
  match q.getLast? with
  | some (j, n) => if j = i then q.dropLast ++ [(i, n + 1)] else q ++ [(i, 1)]
  | none => [(i, 1)]

/-- One cell is written to a port's egress queue; with the frame's first cell go the ease and mirror
checks (06 R196, R199). -/
def State.writeEgress (s : State) (p i : Nat) : State :=
  match s.flight i with
  | none => s
  | some f =>
    let vc := f.frame.vc
    let depth := egressDepth (s.port p) vc
    let started := f.entered.contains p
    let s := s.modPort p fun x =>
      { x with egress := listPut [] x.egress vc (pushEgress (x.egress.getD vc []) i) }
    if started then s
    else
      let s := s.setFlight i { f with entered := f.entered ++ [p], egSince := Tbl.set f.egSince p s.tb1Ns }
      (s.easeCheck p depth f.frame).mirrorEgress p f.frame

/-- The target ports of a multicast flight at an output stall: fixed as its first cell is applied there, and
from then on those that stay in service (06 R181). -/
def State.mcTargets (s : State) (i : Nat) (f : Flight) (g o : Nat) (except : Option Nat) : List Nat :=
  let ps := match Tbl.find f.targets o with
    | some ps => ps
    | none => ((upTo 16).map (16 * o + ·)).filter fun p =>
        bit (s.bitmap g o) (p % 16) && s.isLowest p && some p != except
  ps.filter fun p => s.inService p && (!f.sentOn.contains p || match (s.port p).sending with
    | some (_, j, _) => j == i
    | none => false)

/-- The port of a route takes its frames (06 R190). -/
def State.portServes (s : State) (p : Nat) : Bool := s.inService p

/-- A head cell can move at an output stall. -/
def State.canDrain (s : State) (o i : Nat) : Bool :=
  match s.flight i with
  | none => true
  | some f =>
    match f.route with
    | .home _ => decide (s.intakeCells o < 64)
    | .unicast p b =>
      if s.portServes p || f.sentOn.contains p then s.egressRoom p f.frame.vc else b.isNone
    | .multicast g e =>
      let left := (s.mcTargets i f g o e).filter fun p => !f.took.contains p
      left.isEmpty || left.any fun p => s.egressRoom p f.frame.vc

/-- One cell leaves a crosspoint queue. -/
def popCell (q : List (Nat × Nat)) : List (Nat × Nat) :=
  match q with
  | (i, n) :: rest => if n ≤ 1 then rest else (i, n - 1) :: rest
  | [] => []

/-- The head cell of a crosspoint class has left. -/
def State.cellGone (s : State) (src o cls i : Nat) : State :=
  let k := 8 * xpKey src o + cls
  let q := popCell (Tbl.get s.switch.xp k [])
  let s := { s with switch := { s.switch with
    xp := if q.isEmpty then Tbl.erase s.switch.xp k else Tbl.set s.switch.xp k q } }
  match s.flight i with
  | some f => s.setFlight i { f with drained := f.drained + 1, took := f.took.filter fun p => p / 16 != o }
  | none => s

/-- A class 5 cell enters the till intake: that of its chunk's home as its first cell arrives (01 R24; log 109). -/
def State.pushIntake (s : State) (o i : Nat) : State :=
  let home := match s.flight i with
    | some f =>
      if f.frame.ftype == 5 then o else f.homed.getD (s.homeFor f.frame.group f.frame.seq f.frame.chunk)
    | none => o
  let s := match s.flight i with
    | some f => s.setFlight i { f with homed := some home }
    | none => s
  let o := home
  let q := Tbl.get s.switch.intake o []
  let q := if q.any fun e => e.1 == i then q.map fun e => if e.1 == i then (i, e.2 + 1) else e
    else q ++ [(i, 1)]
  { s with switch := { s.switch with intake := Tbl.set s.switch.intake o q } }

/-- Drain the head cell of a crosspoint class (06 R180, R181). -/
def State.drainCell (s : State) (src o cls i : Nat) : State :=
  match s.flight i with
  | none => s.cellGone src o cls i
  | some f =>
    match f.route with
    | .home _ => (s.cellGone src o cls i).pushIntake o i
    | .unicast p _ =>
      if s.portServes p || f.sentOn.contains p then ((s.writeEgress p i).cellGone src o cls i)
      else
        -- a frame that names a port and no bundle is not re-steered (06 R190)
        let s := (s.cellGone src o cls i).when (f.drained == 0) fun s =>
          (s.bump (Obj.lostOnDown p)).dropped o f.frame f.inPort
        if f.drained + 1 = f.cells then s.settle i else s
    | .multicast g e =>
      let ps := s.mcTargets i f g o e
      let s := s.setFlight i { f with targets := Tbl.set f.targets o ps }
      let todo := ps.filter fun p => !f.took.contains p
      let now := todo.filter fun p => s.egressRoom p f.frame.vc
      let s := now.foldl (fun s p => (s.writeEgress p i).bump (Obj.mcastCells p)) s
      if now.length = todo.length then
        let s := s.cellGone src o cls i
        if s.flightHeld i then s else s.dropFlight i
      else match s.flight i with
        | some f => s.setFlight i { f with took := f.took ++ now }
        | none => s

/-- The next class of a crosspoint, in rotation, whose head cell can move. -/
def State.drainChoice (s : State) (src o : Nat) : Option (Nat × Nat) :=
  let turn := Tbl.get s.switch.drainTurn (xpKey src o) 0
  (upTo 8).findSome? fun k =>
    let cls := (turn + k) % 8
    match Tbl.get s.switch.xp (8 * xpKey src o + cls) [] with
    | (i, _) :: _ => if s.canDrain o i then some (cls, i) else none
    | [] => none

/-- Serve one crosspoint of a column, in order from the drain pointer (06 R180). -/
def State.drainOne (s : State) (o : Nat) : State :=
  let ptr := Tbl.get s.switch.drainPtr o 0
  let srcs := (s.switch.xp.filter fun e => e.1 / 8 % 64 == o).map fun e => e.1 / 512
  match least (fun t => ahead ptr t 64) (srcs.eraseDups.filter fun t => (s.drainChoice t o).isSome) with
  | none => s
  | some t =>
    match s.drainChoice t o with
    | none => s
    | some (cls, i) =>
      let s := s.drainCell t o cls i
      { s with switch := { s.switch with
        drainPtr := Tbl.set s.switch.drainPtr o ((t + 1) % 64)
        drainTurn := Tbl.set s.switch.drainTurn (xpKey t o) ((cls + 1) % 8) } }

/-- COLUMN_DRAIN (06 R180): up to two cells. -/
def execColumnDrain (o : Stall) (s : State) : Result := .next ((s.drainOne o.val).drainOne o.val).pump

/-! ### Re-steering (06 R190) -/

/-- A flight is taken out of every queue. -/
def State.extract (s : State) (i : Nat) : State :=
  let drop := fun (q : Tbl (List Nat)) => (q.map fun e => (e.1, e.2.filter (· != i))).filter fun e => !e.2.isEmpty
  let dropC := fun (q : Tbl (List (Nat × Nat))) =>
    (q.map fun e => (e.1, e.2.filter fun x => x.1 != i)).filter fun e => !e.2.isEmpty
  let sw := s.switch
  { s with
    switch := { sw with voq := drop sw.voq, gen := drop sw.gen, mcq := drop sw.mcq, xp := dropC sw.xp
                        intake := dropC sw.intake, flights := Tbl.erase sw.flights i }
    ports := Tbl.mapVals s.ports fun _ x =>
      { x with egress := x.egress.map fun q => q.filter fun e => e.1 != i } }

/-- Some cell of the flight has reached its output stall. -/
def State.atOutput (s : State) (i : Nat) (p : Nat) : Bool :=
  s.switch.xp.any (fun e => e.1 / 8 % 64 == p / 16 && e.2.any fun x => x.1 == i)
    || (s.port p).egress.any fun q => q.any fun x => x.1 == i

/-- What a flight that leaves the core early gives back: credits and buffer, if its last cell was not yet
granted. -/
def State.giveUp (s : State) (f : Flight) : State :=
  if f.granted < f.cells then ((s.freeFlightCredits f).freeBufferOpt f.buffer).uncount f.preFlow else s

/-- Copy a frame into a service buffer and send it again, to a member of the bundle that its leaf has in the current
bank. While the slot table still names a port out of service, until the next boundary, it waits (log 108). -/
def State.resteer (s : State) (o i : Nat) : State :=
  match s.flight i with
  | none => s
  | some f =>
    match f.route with
    | .unicast p (some _) =>
      if s.portServes p || !s.atOutput i p || p / 16 != o || f.sentOn.contains p || !s.genRoom o then s
      else
        let found := s.lookup o f.cls f.frame
        if found.2.any fun m => !s.portServes m.1 then s
        else match s.allocService o f.frame.charge with
        | (s', none) => s'
        | (s', some (a, _)) =>
          let s := ((s'.extract i).giveUp f).write a f.frame.payload
          match s.lookup o f.cls f.frame with
          | (s, none) => (s.noRoute o none f.frame).freeBuffer a
          | (s, some (q, b)) =>
            (s.when (guarded f.cls) fun s => s.bump Obj.reorderExposed).sendWait
              { stall := o, frame := f.frame, port := some q, bundle := some b, buffer := some a
                src := some (0, a, f.frame.payload.length) }
    | _ => s

/-- RESTEER_FRAME (06 R190). -/
def execResteerFrame (o : Stall) (flight : Nat) (s : State) : Result := .next (s.resteer o.val flight)

end Sys2Proof.Machine
end

