-- ==== Sys2Proof/Machine/Time.lean ====
section
/-! DEFINITION. The time unit (02): the four bases, the PTP boundary clock and its servo, the position of
bell boundaries, pulse outputs and time inputs. -/

namespace Sys2Proof.Machine

/-! ### Bases (02 R40) -/

/-- One core-clock tick, 0.625 ns, in units of 2⁻³² ns. -/
def tickUnits : Nat := 2684354560

/-- What a base with a rate, in parts per 10¹², gains over an oscillator interval. -/
def gained (rate : Int) (osc : Nat) : Nat := (Int.ofNat osc * (10 ^ 12 + rate) / 10 ^ 12).toNat

/-- What it gains over an interval, rounded up. -/
def gainedUp (rate : Int) (osc : Nat) : Nat := (-(-(Int.ofNat osc * (10 ^ 12 + rate)) / 10 ^ 12)).toNat

/-- The least oscillator interval over which a base with a rate gains `d`. -/
def oscFor (rate : Int) (d : Nat) : Nat := (-(-(Int.ofNat d * 10 ^ 12) / (10 ^ 12 + rate))).toNat

/-- The rate of TB2, in parts per 10¹² (02 R69). -/
def State.tb2Rate (s : State) : Int := toSigned 32 (s.obj Obj.tb2Rate)

/-- 16 s in units of 2⁻³² ns. -/
def window16 : Nat := 16 * 10 ^ 9 * 2 ^ 32

/-- Sum of rate times duration between two instants of TB1, over rates listed newest first. -/
def rateSum (lo : Nat) : Nat → List (Nat × Int) → Int
  | _, [] => 0
  | now, (t, r) :: rest =>
    if t ≤ lo then r * Int.ofNat (now - lo) else r * Int.ofNat (now - t) + rateSum lo t rest

/-- Entries that still bear on the window. -/
def trimRates (lo : Nat) : List (Nat × Int) → List (Nat × Int)
  | [] => []
  | (t, r) :: rest => if t ≤ lo then [(t, r)] else (t, r) :: trimRates lo rest

/-- TB0's rate averaged over the last 16 s, or since it was set if that is less (02 R40). -/
def State.averagedRate (s : State) : Int :=
  let lo := max (s.time.tb1 - window16) ((s.time.rates.getLast?.map (·.1)).getD 0)
  if s.time.tb1 ≤ lo then s.time.tb0Rate
  else rateSum lo s.time.tb1 s.time.rates / Int.ofNat (s.time.tb1 - lo)

/-- While locked TB3's rate is kept equal to TB0's averaged rate (02 R40). -/
def State.trackTb3 (s : State) : State :=
  if s.time.state == .locked then { s with time := { s.time with tb3Rate := s.averagedRate } } else s

/-- TB0 runs at a rate from now on. -/
def State.setRate (s : State) (r : Int) : State :=
  { s with time := { s.time with
      tb0Rate := r, rates := (s.time.tb1, r) :: trimRates (s.time.tb1 - window16) s.time.rates } }

/-- Nanoseconds that pass over stacks in band 2 or 3 and over saturated stalls (13 R421, R425, R427). -/
def State.countBandTime (s : State) (ns : Nat) : State :=
  let s := ((upTo 4).filter fun q => decide (2 ≤ s.obj (Obj.thermalBand q))).foldl (fun s q =>
    s.bump (Obj.throttledNs q) ns) s
  s.mem.saturated.foldl (fun s t => s.bump (Obj.saturatedNs t) ns) s

/-- Every base runs on for an oscillator interval. TB0 starts when it is set, TB3 at first lock. -/
def State.runBases (s : State) (osc : Nat) : State :=
  let s := s.trackTb3.countBandTime ((s.time.tb1 + osc) / 2 ^ 32 - s.time.tb1 / 2 ^ 32)
  let ticks := (s.time.tb1 + osc) / tickUnits - s.time.tb1 / tickUnits
  let t : State := { s with time := { s.time with
      tb0 := if s.time.tb0Set then s.time.tb0 + gained s.time.tb0Rate osc else s.time.tb0
      tb1 := s.time.tb1 + osc
      tb2 := s.time.tb2 + gained s.tb2Rate osc
      tb3 := if s.time.lockSeen then s.time.tb3 + gained s.time.tb3Rate osc else s.time.tb3
      cycles := s.time.cycles + ticks } }
  t.countAll 0x000 ticks

/-- One core-clock tick of a running die: what the block does on an empty queue (log 2). -/
def State.clockTick (s : State) : State := if s.dieRunning then s.runBases tickUnits else s

/-! ### Bell boundaries (02 R54, R57, R58, R59) -/

/-- Bells derive from TB2 only. -/
def State.onTb2 (s : State) : Bool := s.obj Obj.bellSource == 2

/-- Value and rate of the base that rules the next boundary. -/
def State.ruling (s : State) : Nat × Int :=
  if s.onTb2 then (s.time.tb2, s.tb2Rate)
  else if s.time.onTb0 || s.time.lastTb1Rung then (s.time.tb0, s.time.tb0Rate)
  else (s.time.tb1, 0)

/-- The first multiple of the period, in units, after `now` and not before `least`. -/
def nextMultiple (period now least : Nat) : Nat := period * max (now / period + 1) (ceilDiv least period)

/-- The value of the ruling base before which no boundary falls. After a write of tb2_now it lies one period of
oscillator time after the last boundary, at TB2's rate now (02 R58). -/
def State.leastBoundary (s : State) : Nat :=
  if s.onTb2 && s.time.tb2Written then
    s.time.tb2 + gainedUp s.tb2Rate (s.time.boundaryTb1 + s.period * 2 ^ 32 - s.time.tb1)
  else s.time.notBefore

/-- The value of the ruling base at the next boundary. -/
def State.nextBoundary (s : State) : Nat :=
  nextMultiple (s.period * 2 ^ 32) s.ruling.1 s.leastBoundary

/-- The oscillator interval to the next boundary. -/
def State.toBoundary (s : State) : Nat := oscFor s.ruling.2 (s.nextBoundary - s.ruling.1)

/-- The next boundary is the switch to TB0 bells (02 R59). -/
def State.switchDue (s : State) : Bool := !s.onTb2 && s.time.lastTb1Rung && !s.time.onTb0

/-- Time runs to the next boundary. -/
def State.runToBoundary (s : State) : State :=
  let target := s.nextBoundary
  let s' := s.runBases s.toBoundary
  -- the ruling base stands exactly at the boundary
  if s.onTb2 then { s' with time := { s'.time with tb2 := target } }
  else if s.time.onTb0 || s.time.lastTb1Rung then { s' with time := { s'.time with tb0 := target } }
  else { s' with time := { s'.time with tb1 := target } }

/-- TB0 steps by the measured offset (02 R50, R54). Between the last TB1 boundary and the switch the instant one
period after that boundary moves with it (02 R59). -/
def State.stepTb0 (s : State) (offset16 : Int) : State :=
  { s with time := { s.time with
      tb0 := (Int.ofNat s.time.tb0 - offset16 * 2 ^ 16).toNat
      notBefore := if s.switchDue then (Int.ofNat s.time.notBefore - offset16 * 2 ^ 16).toNat
        else s.time.notBefore } }

/-- A permitted step is applied at the boundary just reached. -/
def State.applyStep (s : State) : State :=
  match s.time.pendingStep with
  | some d =>
    if s.time.stepPermitted then
      let s := s.stepTb0 d
      { s with time := { s.time with pendingStep := none, stepPermitted := false } }
    else s
  | none => s

/-- The boundary rings: its number, the switch to TB0, a permitted step, and from where the next may
fall. -/
def State.ringTime (s : State) : State :=
  let sw := s.switchDue
  let s := s.runToBoundary
  let n := (nsOf s.ruling.1 / s.period) % 2 ^ 64
  let s := { s with time := { s.time with
    bell := n
    rung := s.time.rung + 1
    boundaryTb1 := s.time.tb1
    onTb0 := s.time.onTb0 || sw
    switchBell := if sw then n else s.time.switchBell
    lastTb1Rung := s.time.lastTb1Rung || (!s.onTb2 && s.time.lockSeen)
    tb2Written := false } }
  let s := s.applyStep
  let base := if s.onTb2 then s.time.tb2
    else if s.time.onTb0 || s.time.lastTb1Rung then s.time.tb0 else s.time.tb1
  { s with time := { s.time with notBefore := base + s.period * 2 ^ 32 } }

/-- A write of tb2_now (02 R58). -/
def State.writeTb2 (s : State) (ns : Nat) : State :=
  { s with time := { s.time with tb2 := ns * 2 ^ 32, tb2Written := s.time.tb2Written || s.onTb2 } }

/-! ### States and parent (02 R46, R49 to R53) -/

/-- Estimated error in ns: 10 ns, growing by 50 ns per second of holdover (02 R51). -/
def State.holdError (s : State) : Nat :=
  match s.time.state with
  | .holdover | .holdoverExceeded => 10 + 50 * (nsOf (s.time.tb1 - s.time.holdSince)) / 10 ^ 9
  | _ => 0

/-- holdover_status (02 R69). -/
def State.holdStatus (s : State) : Nat :=
  min s.holdError (2 ^ 32 - 1) + (if s.time.pendingStep.isSome then 2 ^ 32 else 0)

/-- The parent times out, vanishes or changes (02 R51). A step that is pending stays so (log 93). -/
def State.parentLost (s : State) : State :=
  match s.time.state with
  | .locked =>
    let s := s.trackTb3
    let s := s.setRate s.time.tb3Rate
    { s with time := { s.time with
      state := .holdover, tb3 := s.time.tb0, holdSince := s.time.tb1, goodSyncs := 0, sync := none } }
  | _ => { s with time := { s.time with goodSyncs := 0, sync := none } }

/-- Order of the best master clock algorithm: rank, steps removed, identity (log 26). -/
def betterClock (r1 s1 i1 r2 s2 i2 : Nat) : Bool :=
  decide (r1 < r2) || (r1 == r2 && (decide (s1 < s2) || (s1 == s2 && decide (i1 < i2))))

/-- One foreign master is better than another. -/
def Parent.better (p q : Parent) : Bool :=
  betterClock p.rank p.steps p.source.toNat q.rank q.steps q.source.toNat

/-- The best of a list of foreign masters. -/
def bestMaster : List Parent → Option Parent
  | [] => none
  | p :: ps => match bestMaster ps with
    | none => some p
    | some q => if q.better p then some q else some p

/-- The module's own data set: priority1, clockClass 248, quality, priority2, clockIdentity (02 R46). -/
def State.ownRank (s : State) : Nat :=
  s.obj Obj.priority1 * 2 ^ 104 + 248 * 2 ^ 96 + Config.clockQuality.toNat * 2 ^ 72
    + s.obj Obj.priority2 * 2 ^ 64 + Config.clockIdentity.toNat

/-- The announce interval in units of 2⁻³² ns. -/
def State.announceUnits (s : State) : Nat := 2 ^ s.obj Obj.logAnnounceInterval * 10 ^ 9 * 2 ^ 32

/-- The Announce messages of a foreign master have not timed out: fewer than three intervals (02 R69). -/
def State.heard (s : State) (q : Parent) : Bool := decide (s.time.tb1 < q.seen + 3 * s.announceUnits)

/-- The parent that the best master clock algorithm selects: none where the module's own data set is the best and
slave_only is 0 (02 R41, R46). -/
def State.bestParent (s : State) : Option Parent :=
  match bestMaster (s.time.foreign.filter s.heard) with
  | none => none
  | some q =>
    if !s.flag Obj.slaveOnly
        && betterClock s.ownRank 0 Config.clockIdentity.toNat q.rank q.steps q.source.toNat then none
    else some q

/-- Two optional parents are the same sender on the same port. -/
def sameParent : Option Parent → Option Parent → Bool
  | none, none => true
  | some p, some q => p.port == q.port && p.source == q.source
  | _, _ => false

/-- Select a parent among the masters heard; one that is lost or changes ends a lock (02 R51). -/
def State.selectParent (s : State) : State :=
  let best := s.bestParent
  let s := { s with time := { s.time with foreign := s.time.foreign.filter s.heard } }
  if sameParent s.time.parent best then { s with time := { s.time with parent := best } }
  else
    let s := s.parentLost
    { s with time := { s.time with parent := best, parentSince := s.time.tb1 } }

/-- An Announce is compared with every master heard (02 R41, R51). -/
def State.announce (s : State) (port : Nat) (m : PtpMsg) : State :=
  if 255 ≤ m.stepsRemoved || m.source.toNat / 2 ^ 16 == Config.clockIdentity.toNat then s
  else
    let p : Parent := { port, source := m.source, rank := m.gmRank.toNat, gmTime := m.gmTime
                        steps := m.stepsRemoved, seen := s.time.tb1 }
    let others := s.time.foreign.filter fun q => !(q.port == port && q.source == m.source)
    ({ s with time := { s.time with foreign := others ++ [p] } } : State).selectParent

/-- The masters of a PTP port vanish: its link is down, or PTP is no longer enabled on it (02 R51). -/
def State.mastersGone (s : State) (port : Nat) : State :=
  if s.time.foreign.any fun q => q.port == port then
    ({ s with time := { s.time with foreign := s.time.foreign.filter fun q => q.port != port } } : State).selectParent
  else s

/-! ### Servo (02 R49, R50, R53) -/

/-- The servo's estimate of the oscillator's error is free within its ±20 ppm (02 R40), in parts per 10¹². -/
def freeRate (x : Nat) : Int := Int.ofNat (x % 40000001) - 20000000

/-- A rate adjustment against an offset: around the estimated rate by at most slew_limit, whose part in use is free
(02 R50; log 28). -/
def State.adjustRate (s : State) (offset : Int) : State :=
  let f := freeRate s.drawn
  let s := s.draw
  let d := Int.ofNat (s.drawn % (s.obj Obj.slewLimit * 1000 + 1))
  s.draw.setRate (if 0 < offset then f - d else f + d)

/-- The state becomes LOCKED (02 R49, R53, R59). -/
def State.lock (s : State) : State :=
  let s := { s with time := { s.time with
    tb3 := if s.time.lockSeen then s.time.tb3 else s.time.tb0
    relockDrift := if s.time.lockSeen then Int.ofNat (fine16 s.time.tb0) - Int.ofNat (fine16 s.time.tb3)
      else s.time.relockDrift
    lockSeen := true, state := .locked } }
  s.dropAlert .holdover

/-- Count Sync intervals below lock_threshold; lock after lock_count of them. -/
def State.countLock (s : State) (offset : Int) : State :=
  let good := decide (offset.natAbs < s.obj Obj.lockThreshold * 2 ^ 16)
  let n := if good then s.time.goodSyncs + 1 else 0
  let s := { s with time := { s.time with goodSyncs := n } }
  if decide (s.obj Obj.lockCount ≤ n) && s.time.state != .locked && s.time.pendingStep.isNone then s.lock
  else s

/-- A valid offset from the parent, in 2⁻¹⁶ ns (02 R50, R53). -/
def State.takeOffset (s : State) (offset : Int) : State :=
  let s := { s with time := { s.time with offset := offset } }
  let far := decide (s.obj Obj.stepThreshold * 2 ^ 16 < offset.natAbs)
  if !s.time.tb0Set then
    let s := s.stepTb0 offset
    let s := s.setRate s.time.tb0Rate
    { s with time := { s.time with tb0Set := true, state := .acquiring, goodSyncs := 0 } }
  else match s.time.state with
    | .holdover | .holdoverExceeded =>
      if far then { s with time := { s.time with pendingStep := some offset, goodSyncs := 0 } }
      else
        let s := { s with time := { s.time with pendingStep := none, stepPermitted := false } }
        (s.adjustRate offset).countLock offset
    | _ =>
      if far && !s.time.onTb0 then (s.stepTb0 offset).countLock offset
      else (s.adjustRate offset).countLock offset

/-! ### PTP messages (02 R41 to R45) -/

/-- The port carries PTP: enabled, and on a grouped port its lowest member (02 R43, R70); a management lane while
management Ethernet is on (03 R85). -/
def State.ptpEnabled (s : State) (port : Nat) : Bool :=
  if 1024 ≤ port then s.obj Obj.mgmtMode != 3 else s.isLowest port && s.flag (Obj.ptpEnable port)

/-- Fixed delay of a fabric port, factory measured; none on a management lane (02 R44). -/
def fixedDelay (o : Nat → Obj) (port : Nat) : Int :=
  if 1024 ≤ port then 0 else Int.ofNat (Config.factory (o port).key % 2 ^ 32)

/-- Asymmetry correction of a port (02 R45). -/
def State.asymmetry (s : State) (o : Nat → Obj) (port : Nat) : Int :=
  if 1024 ≤ port then 0 else toSigned 32 (s.obj (o port))

/-- Ingress timestamp at the connector face (02 R44, R45; log 25). -/
def State.ingressStamp (s : State) (port : Nat) (raw : Int) : Int :=
  raw - fixedDelay Obj.fixedDelayRx port - s.asymmetry Obj.rxCorrection port

/-- Egress timestamp at the connector face. -/
def State.egressStamp (s : State) (port : Nat) : Int :=
  Int.ofNat (fine16 s.time.tb0) + fixedDelay Obj.fixedDelayTx port + s.asymmetry Obj.txCorrection port

/-- The sender is the selected parent. -/
def State.fromParent (s : State) (port : Nat) (m : PtpMsg) : Bool :=
  match s.time.parent with
  | some p => p.port == port && p.source == m.source
  | none => false

/-- A Sync is complete: t2 − t1 less corrections; with a path delay measured it gives an offset. -/
def State.syncDone (s : State) (port : Nat) (ms : Int) : State :=
  let s := { s with time := { s.time with masterToSlave := ms, sync := none } }
  match Tbl.find s.time.pathDelay port with
  | some d => s.takeOffset (ms - d)
  | none => s

/-- Identity of one of the module's own PTP ports. -/
def ownPort (port : Nat) : BitVec 80 := BitVec.ofNat 80 (Config.clockIdentity.toNat * 2 ^ 16 + port + 1)

/-- Record a measured path delay. -/
def State.putPathDelay (s : State) (port : Nat) (d : Int) : State :=
  { s with time := { s.time with pathDelay := Tbl.set s.time.pathDelay port d } }

/-! ### Messages sent, as IEEE 1588-2019 lays them out (02 R42, R43; log 94) -/

/-- messageType. -/
def ptpCode : PtpKind → Nat
  | .sync => 0
  | .delayReq => 1
  | .pdelayReq => 2
  | .pdelayResp => 3
  | .followUp => 8
  | .delayResp => 9
  | .pdelayRespFollowUp => 10
  | .announce => 11

/-- controlField. -/
def ptpControl : PtpKind → Nat
  | .sync => 0
  | .delayReq => 1
  | .followUp => 2
  | .delayResp => 3
  | _ => 5

/-- A timestamp of 10 bytes: whole seconds and nanoseconds. -/
def ptpTime (x : Int) : List Byte :=
  let n := (x / 2 ^ 16).toNat
  beBytes 6 (n / 10 ^ 9) ++ beBytes 4 (n % 10 ^ 9)

/-- What of a stamp lies below a nanosecond, for the correctionField. -/
def belowNs (x : Int) : Int := x % 2 ^ 16

/-- The fields after the header. -/
def ptpFields (m : PtpMsg) : List Byte :=
  match m.kind with
  | .sync | .delayReq | .followUp => ptpTime m.stamp
  | .pdelayReq => ptpTime m.stamp ++ beBytes 10 0
  | .delayResp | .pdelayResp | .pdelayRespFollowUp => ptpTime m.stamp ++ beBytes 10 m.requesting.toNat
  | .announce =>
    ptpTime m.stamp ++ beBytes 2 (bits m.gmTime.toNat 8 16) ++ beBytes 1 0 ++ beBytes 6 (bits m.gmRank.toNat 64 48)
      ++ beBytes 8 (bits m.gmRank.toNat 0 64) ++ beBytes 2 m.stepsRemoved ++ beBytes 1 (bits m.gmTime.toNat 0 8)

/-- A message from its header onward, with a logMessageInterval. -/
def ptpBytes (m : PtpMsg) (interval : Nat) : List Byte :=
  let body := ptpFields m
  beBytes 1 (ptpCode m.kind) ++ beBytes 1 0x12 ++ beBytes 2 (34 + body.length) ++ beBytes 1 m.domain ++ beBytes 1 0
    ++ beBytes 1 (b2n m.twoStep * 2) ++ beBytes 1 (if m.kind == .announce then bits m.gmTime.toNat 24 8 else 0)
    ++ beBytes 8 (ofSigned 64 m.correction) ++ beBytes 4 0 ++ beBytes 10 m.source.toNat ++ beBytes 2 m.seqId
    ++ beBytes 1 (ptpControl m.kind) ++ beBytes 1 interval ++ body

/-- Replace bytes of a message. -/
def patchBytes (bs : List Byte) (off : Nat) (new : List Byte) : List Byte :=
  bs.take off ++ new ++ bs.drop (off + new.length)

/-- Fields of a message that leaves. -/
def ptpType (bs : List Byte) : Nat := beNat (bs.take 1) % 16
def ptpTwoStep (bs : List Byte) : Bool := bit (beNat ((bs.drop 6).take 1)) 1
def ptpCorrection (bs : List Byte) : Int := toSigned 64 (beNat ((bs.drop 8).take 8))
def ptpSeq (bs : List Byte) : Nat := beNat ((bs.drop 30).take 2)
def ptpStampOf (bs : List Byte) : Int :=
  Int.ofNat ((beNat ((bs.drop 34).take 6) * 10 ^ 9 + beNat ((bs.drop 40).take 4)) * 2 ^ 16)

/-- A message as it leaves: in one-step mode a Sync gets its originTimestamp, and a Pdelay_Resp the residence time in
its correctionField (02 R42, R45). -/
def State.ptpStamped (s : State) (port : Nat) (bs : List Byte) : List Byte :=
  let e := s.egressStamp port
  if ptpTwoStep bs then bs
  else if ptpType bs = 0 then
    patchBytes (patchBytes bs 34 (ptpTime e)) 8 (beBytes 8 (ofSigned 64 (ptpCorrection bs + belowNs e)))
  else if ptpType bs = 3 then
    patchBytes (patchBytes bs 34 (beBytes 10 0)) 8
      (beBytes 8 (ofSigned 64 (ptpCorrection bs + e - ptpStampOf bs)))
  else bs

/-- What a message that leaves makes the module keep: the egress stamp of a request, of a two-step Sync, of a two-step
Pdelay_Resp; and the model's record of it (log 13). -/
def State.ptpLeaves (s : State) (port : Nat) (mapping : Option Nat) (bs : List Byte) : State :=
  let e := s.egressStamp port
  let t := s.time
  let t := if ptpType bs = 1 ∨ ptpType bs = 2 then
      { t with delayReq := Tbl.set t.delayReq port (ptpSeq bs, e) }
    else if ptpType bs = 0 && ptpTwoStep bs then { t with syncSent := Tbl.set t.syncSent port (ptpSeq bs, e) }
    else if ptpType bs = 3 && ptpTwoStep bs then
      { t with
        pdelaySent := Tbl.set t.pdelaySent port
          { seq := ptpSeq bs, stamp := e, requesting := BitVec.ofNat 80 (beNat ((bs.drop 44).take 10)) } }
    else t
  { s with time := t, out := { s.out with ptp := some (port, mapping, s.ptpStamped port bs) } }

/-- The port carries VC6. -/
def PortSt.takesPtp (x : PortSt) : Bool := x.link == .up || x.link == .peerMismatch

/-- Send a message: on a fabric port as the payload of a time frame on VC6, which leaves when the link sends it; on a
management lane at once, in one of the three mappings (02 R43). -/
def State.sendPtp (s : State) (port : Nat) (m : PtpMsg) : State :=
  let interval := match m.kind with
    | .announce => s.obj Obj.logAnnounceInterval
    | .sync | .followUp | .delayResp => s.obj Obj.logSyncInterval
    | _ => 0x7F
  let bs := ptpBytes m (interval % 256)
  if 1024 ≤ port then s.draw.ptpLeaves port (some (s.drawn % 3)) bs
  else if (s.port port).takesPtp then
    let f := ({ s.newFrame 6 11 with dest := 0xFFFFF }).withPayload bs
    (s.modPort port fun x => { x with linkOut := x.linkOut ++ [f] }).bump (Obj.passFrames f.pitch f.vc)
  else s

/-- A message of the module's on one of its PTP ports. -/
def State.ptpMsg (s : State) (port : Nat) (k : PtpKind) (seq : Nat) : PtpMsg :=
  { kind := k, domain := s.obj Obj.ptpDomain, seqId := seq, source := ownPort port, twoStep := false, correction := 0
    stamp := 0, requesting := 0, gmRank := 0, stepsRemoved := 0 }

/-- The answer to a request: the ingress stamp, the request's correction and sender (02 R45). -/
def State.ptpAnswer (s : State) (port : Nat) (k : PtpKind) (m : PtpMsg) (stamp : Int) : State :=
  s.sendPtp port { s.ptpMsg port k m.seqId with
    stamp := stamp, correction := m.correction - belowNs stamp, requesting := m.source
    twoStep := k == .pdelayResp && s.flag Obj.twoStep }

/-- The profile measures peer delay (02 R41). -/
def State.peerDelay (s : State) : Bool := s.obj Obj.ptpProfile == 1

/-- A PTP message of the module's domain on an enabled port. -/
def State.takePtp (s : State) (port : Nat) (m : PtpMsg) (raw : Int) : State :=
  let stamp := s.ingressStamp port raw
  match m.kind with
  | .announce => s.announce port m
  | .sync =>
    if !s.fromParent port m then s
    else if m.twoStep then { s with time := { s.time with sync := some (m.seqId, stamp, m.correction) } }
    else s.syncDone port (stamp - m.stamp - m.correction)
  | .followUp =>
    match s.time.sync with
    | some (q, t2, c) =>
      if s.fromParent port m && q == m.seqId then s.syncDone port (t2 - m.stamp - c - m.correction) else s
    | none => s
  | .delayReq => if s.peerDelay then s else s.ptpAnswer port .delayResp m stamp
  | .delayResp =>
    match Tbl.find s.time.delayReq port with
    | some (q, t3) =>
      if !s.peerDelay && s.fromParent port m && q == m.seqId && m.requesting == ownPort port then
        s.putPathDelay port ((s.time.masterToSlave + (m.stamp - t3 - m.correction)) / 2)
      else s
    | none => s
  | .pdelayReq => if s.peerDelay then s.ptpAnswer port .pdelayResp m stamp else s
  | .pdelayResp =>
    match Tbl.find s.time.delayReq port with
    | some (q, t1) =>
      if s.peerDelay && q == m.seqId && m.requesting == ownPort port then
        if m.twoStep then { s with time := { s.time with
          pdelayResp := Tbl.set s.time.pdelayResp port (q, stamp, m.stamp, m.correction) } }
        else s.putPathDelay port ((stamp - t1 - m.correction) / 2)
      else s
    | none => s
  | .pdelayRespFollowUp =>
    match Tbl.find s.time.delayReq port, Tbl.find s.time.pdelayResp port with
    | some (q, t1), some (q', t4, t2, c) =>
      if s.peerDelay && q == m.seqId && q' == m.seqId && m.requesting == ownPort port then
        s.putPathDelay port (((t4 - t1) - (m.stamp - t2) - c - m.correction) / 2)
      else s
    | _, _ => s

/-- PTP_MESSAGE (02 R50). -/
def execPtpMessage (port : Fin 1026) (msg : PtpMsg) (stamp : Int) (s : State) : Result :=
  .next (if s.dieRunning && s.ptpEnabled port.val && msg.domain == s.obj Obj.ptpDomain then
      s.takePtp port.val msg stamp
    else s)

/-- ANNOUNCE_TIMEOUT (02 R51): the parent's Announce messages have stayed away for three intervals. -/
def execAnnounceTimeout (s : State) : Result :=
  .next (match s.time.parent with
    | some q => if s.heard q then s else s.selectParent
    | none => s)

/-- HOLDOVER_EXCEEDED (02 R49, R51): the estimated error has passed holdover_bound. -/
def execHoldoverExceeded (s : State) : Result :=
  .next (if s.time.state == .holdover && decide (s.obj Obj.holdoverBound < s.holdError) then
      let s := { s with time := { s.time with state := .holdoverExceeded } }
      (s.holdAlert .holdover).eventAt 15 moduleBlock Obj.holdoverStatus s.holdStatus
    else s)

/-- The parent is on the port. -/
def State.toParent (s : State) (port : Nat) : Bool :=
  match s.time.parent with
  | some p => p.port == port
  | none => false

/-- The qualification timeout of a port that is to be master: one announce interval more than the steps removed of the
parent, from its selection (log 26). -/
def State.preMaster (s : State) : Bool :=
  match s.time.parent with
  | some p => decide (s.time.tb1 < s.time.parentSince + (p.steps + 1) * s.announceUnits)
  | none => false

/-- Another master of the parent's grandmaster is heard on the port (log 26). -/
def State.passive (s : State) (port : Nat) : Bool :=
  match s.time.parent with
  | some p => s.time.foreign.any fun q =>
      q.port == port && s.heard q && q.rank % 2 ^ 64 == p.rank % 2 ^ 64
  | none => false

/-- The port is a master: not toward the parent, and not passive; without a parent only if slave_only is 0 (02 R46). -/
def State.masterPort (s : State) (port : Nat) : Bool :=
  !s.toParent port && (s.time.parent.isSome || !s.flag Obj.slaveOnly) && !s.passive port && !s.preMaster

/-- What the module may send on a port: Sync and Announce where it is master, requests by the profile's
delay mechanism, and follow-ups of what left in two steps (02 R41, R42, R46). -/
def State.maySendPtp (s : State) (port : Nat) (k : PtpKind) : Bool :=
  match k with
  | .sync | .announce => s.masterPort port
  | .followUp => s.masterPort port && (Tbl.find s.time.syncSent port).isSome
  | .delayReq => !s.peerDelay && s.toParent port
  | .pdelayReq => s.peerDelay
  | .pdelayRespFollowUp => (Tbl.find s.time.pdelaySent port).isSome
  | _ => false

/-- The data set that the module announces: its parent's, one step further, or its own (02 R46). -/
def State.announced (s : State) (m : PtpMsg) : PtpMsg :=
  match s.time.parent with
  | some p => { m with gmRank := BitVec.ofNat 128 p.rank, gmTime := p.gmTime, stepsRemoved := p.steps + 1 }
  | none => { m with gmRank := BitVec.ofNat 128 s.ownRank, gmTime := Config.clockTime }

/-- A message that the module's own timers send. -/
def State.ptpOf (s : State) (port : Nat) (k : PtpKind) (seq : Nat) : PtpMsg :=
  let m := s.ptpMsg port k seq
  match k with
  | .announce => s.announced m
  | .sync => { m with twoStep := s.flag Obj.twoStep }
  | .followUp =>
    let e := Tbl.get s.time.syncSent port (seq, 0)
    { m with seqId := e.1, stamp := e.2, correction := belowNs e.2 }
  | .pdelayRespFollowUp =>
    let a := Tbl.get s.time.pdelaySent port { seq := seq, stamp := 0, requesting := 0 }
    { m with seqId := a.seq, stamp := a.stamp, correction := belowNs a.stamp, requesting := a.requesting }
  | _ => m

/-- What a follow-up was kept for is forgotten when it goes. -/
def State.followed (s : State) (port : Nat) (k : PtpKind) : State :=
  match k with
  | .followUp => { s with time := { s.time with syncSent := Tbl.erase s.time.syncSent port } }
  | .pdelayRespFollowUp => { s with time := { s.time with pdelaySent := Tbl.erase s.time.pdelaySent port } }
  | _ => s

/-- PTP_TRANSMIT (02 R42). -/
def execPtpTransmit (port : Fin 1026) (kind : PtpKind) (s : State) : Result :=
  .next (if s.dieRunning && s.ptpEnabled port.val && s.maySendPtp port.val kind then
      let key := 16 * port.val + ptpCode kind
      let q := (Tbl.get s.time.seqs key 0 + 1) % 65536
      let m := s.ptpOf port.val kind q
      let s := { s with time := { s.time with seqs := Tbl.set s.time.seqs key q } }
      (s.followed port.val kind).sendPtp port.val m
    else s)

/-! ### Pulse outputs and time inputs (02 R65 to R68) -/

/-- A pulse output. -/
def State.pulse (s : State) (k : Nat) : Pulse := Tbl.get s.time.pulses k {}

/-- Change a pulse output. -/
def State.setPulse (s : State) (k : Nat) (x : Pulse) : State :=
  { s with time := { s.time with pulses := Tbl.set s.time.pulses k x } }

/-- Outputs fire in these states only (02 R66). -/
def State.pulsesLive (s : State) : Bool :=
  s.time.state == .locked || s.time.state == .holdover || s.time.state == .holdoverExceeded

/-- Nanoseconds of a TIME80 word. -/
def nsOfTime80 (w : Nat) : Nat := bits w 30 48 * 10 ^ 9 + bits w 0 30

/-- A single pulse by time. -/
def State.singlePulse (s : State) (k : Nat) : Bool :=
  !bit (s.obj (Obj.pulseControl k)) 2 && s.obj (Obj.pulsePeriod k) == 0

/-- Whole nanoseconds of a base, rounded up. -/
def nsUp (units : Nat) : Nat := ceilDiv units (2 ^ 32)

/-- The first start + k × period that is not before an instant; a single pulse's start, if it is not (02 R66). -/
def firstAt (start period least : Nat) : Option Nat :=
  if least ≤ start then some start
  else if period = 0 then none
  else some (start + ceilDiv (least - start) period * period)

/-- The next instant of an output's program, in ns of TB0. -/
def State.pulseNext (s : State) (k : Nat) : Option Nat :=
  firstAt (nsOfTime80 (s.obj (Obj.pulseStart k))) (s.obj (Obj.pulsePeriod k)) (s.pulse k).armed

/-- The oscillator interval until an instant of this bell; none where the next boundary comes first. -/
def State.withinBell (s : State) (osc : Nat) : Option Nat := if osc < s.toBoundary then some osc else none

/-- The oscillator interval until an output is to fire, if that is in this bell: at the boundary just rung with the
bell source, else at the program's next instant of TB0 (02 R65). -/
def State.pulseDue (s : State) (k : Nat) : Option Nat :=
  if bit (s.obj (Obj.pulseControl k)) 2 then (if (s.pulse k).bellDue then some 0 else none)
  else match s.pulseNext k with
    | some t =>
      if t * 2 ^ 32 ≤ s.time.tb0 then some 0 else s.withinBell (oscFor s.time.tb0Rate (t * 2 ^ 32 - s.time.tb0))
    | none => none

/-- The output may fire: enabled, in a state of R66, no pulse in progress, and a single pulse only once. -/
def State.pulseMay (s : State) (k : Nat) : Bool :=
  let c := s.obj (Obj.pulseControl k)
  s.dieRunning && bit c 0 && s.pulsesLive && !(s.pulse k).active
    && !(s.singlePulse k && ((s.pulse k).fired || bit c 3))

/-- The output's active level (02 R69: active low). -/
def State.pulseLevel (s : State) (k : Nat) (active : Bool) : Bool := active != bit (s.obj (Obj.pulseControl k)) 1

/-- A pulse begins. -/
def State.firePulse (s : State) (k : Nat) : State :=
  s.setPulse k { s.pulse k with
    active := true, pin := s.pulseLevel k true, fired := true, bellDue := false
    armed := (s.pulseNext k).getD (s.pulse k).armed + 1
    endsAt := s.time.tb1 + s.obj (Obj.pulseWidth k) * 2 ^ 32 }

/-- PULSE_FIRE (02 R65, R66): time runs to the output's instant, if it lies in this bell. -/
def execPulseFire (k : Fin 4) (s : State) : Result :=
  .next (match (if s.pulseMay k.val then s.pulseDue k.val else none) with
    | some osc => (s.runBases osc).firePulse k.val
    | none => s)

/-- PULSE_WIDTH_END (02 R65): time runs to the end of the pulse's width, if it lies in this bell. -/
def execPulseWidthEnd (k : Fin 4) (s : State) : Result :=
  let x := s.pulse k.val
  .next (match (if s.dieRunning && x.active then s.withinBell (x.endsAt - s.time.tb1) else none) with
    | some osc =>
      let s := s.runBases osc
      s.setPulse k.val { x with active := false, pin := s.pulseLevel k.val false }
    | none => s)

/-- A single pulse whose time is past and that has not fired is missed, with an event (02 R66). -/
def State.missPulse (s : State) (k : Nat) : State :=
  let c := s.obj (Obj.pulseControl k)
  if bit c 0 && s.singlePulse k && !(s.pulse k).fired && !bit c 3 && s.time.tb0Set
      && decide (nsOfTime80 (s.obj (Obj.pulseStart k)) * 2 ^ 32 < s.time.tb0) then
    (s.putObj (Obj.pulseControl k) (setBit c 3)).eventObj 15 moduleBlock (Obj.pulseControl k)
  else s

/-- A program of an output is in force from now (02 R66, R67). -/
def State.pulseProgrammed (s : State) (k : Nat) : State :=
  let x := s.pulse k
  (s.setPulse k { x with
    fired := false, armed := nsUp s.time.tb0, bells := 0, bellDue := false
    pin := if x.active then x.pin else s.pulseLevel k false }).missPulse k

/-- An output at a boundary: every n-th is one of its program by the bell source; instants of TB0 that are past do not
come again, unless TB0 has stepped back (02 R65, R66). -/
def State.pulseBoundary (s : State) (k : Nat) : State :=
  let c := s.obj (Obj.pulseControl k)
  let x := s.pulse k
  if !bit c 0 then s
  else if bit c 2 then
    let due := decide (bits c 16 16 ≤ x.bells + 1)
    s.setPulse k { x with bells := if due then 0 else x.bells + 1, bellDue := due }
  else
    let now := nsUp s.time.tb0
    let s := s.missPulse k
    s.setPulse k { x with armed := if x.armed ≤ now + 1 then max x.armed now else now }

/-- A time input. -/
def State.tin (s : State) (j : Nat) : TimeInput := Tbl.get s.time.inputs j {}

/-- Change a time input. -/
def State.setTin (s : State) (j : Nat) (x : TimeInput) : State :=
  { s with time := { s.time with inputs := Tbl.set s.time.inputs j x } }

/-- A base's time of an edge, less the input's correction, in 2⁻¹⁶ ns. -/
def State.edgeTime (s : State) (j base : Nat) : Int :=
  Int.ofNat (fine16 base) - toSigned 32 (s.obj (Obj.tinCorrection j))

/-- Offset from the nearest whole second, 2⁻¹⁶ ns. -/
def secondOffset (x : Int) : Int :=
  let second : Int := 10 ^ 9 * 2 ^ 16
  let r := x % second
  if 2 * r < second then r else r - second

/-- TIN_EDGE (02 R68): an edge that comes within 100 ns of the last is not resolved. -/
def execTinEdge (j : Fin 2) (s : State) : Result :=
  let i := s.tin j.val
  let unresolved := match i.last with
    | some t => decide (s.tb1Ns < t + 100)
    | none => false
  let i' := { i with last := some s.tb1Ns }
  .next (if !s.dieRunning || unresolved then s
    else if s.obj (Obj.tinMode j.val) = 1 then
      if i.queue.length < 16 then
        s.setTin j.val { i' with queue := i.queue ++
          [(time80 0 ((s.edgeTime j.val s.time.tb0) / 2 ^ 16).toNat,
            time80 1 ((s.edgeTime j.val s.time.tb1) / 2 ^ 16).toNat)] }
      else s.setTin j.val { i' with lost := i.lost + 1 }
    else if s.obj (Obj.tinMode j.val) = 2 then
      s.setTin j.val { i' with offset := secondOffset (s.edgeTime j.val s.time.tb0) }
    else s)

/-- The oldest capture as 20 bytes, zero when empty (02 R69). -/
def State.tinCapture (s : State) (j : Nat) : Nat :=
  match (s.tin j).queue with
  | (a, b) :: _ => a + b * 2 ^ 80
  | [] => 0

/-- A read of tin_capture removes the oldest entry. -/
def State.tinPop (s : State) (j : Nat) : State :=
  s.setTin j { s.tin j with queue := (s.tin j).queue.drop 1 }

end Sys2Proof.Machine
end

