-- ==== Sys2Proof/Machine/Link.lean ====
section
/-! DEFINITION. The link layer (05): tags, retry, credits, identity exchange, retrains, grouped ports and
widths; and the choice of the next link unit (07 R224 to R226). An entry of a grouped port stands at its
lowest member. -/

namespace Sys2Proof.Machine

/-! ### Members (05 R154, R155) -/

/-- Members that carry the link now: locked, not dropped, not lent, and in the rotation. -/
def State.activeMembers (s : State) (low : Nat) : List Nat :=
  (s.membersOf low).filter fun p => (s.port p).phys == .optical && (s.port p).rot

/-- Every member that has not dropped out and is not lent is locked. -/
def State.allLocked (s : State) (low : Nat) : Bool :=
  (s.membersOf low).any (fun p => (s.port p).phys == .optical) && (s.membersOf low).all fun p =>
    (s.port p).phys == .optical || (s.port p).phys == .dropped || (s.port p).phys == .lent

/-- link_state of a port (05 R164). -/
def State.linkStateOf (s : State) (p : Nat) : LinkState :=
  match (s.port p).phys with
  | .optical => match (s.port (s.portLow p)).link with
    | .down => .optical
    | l => l
  | x => x

/-- Code of a link state. -/
def LinkState.code : LinkState → Nat
  | .down => 0
  | .lanes => 1
  | .optical => 2
  | .init => 3
  | .up => 4
  | .retrain => 5
  | .dropped => 6
  | .lent => 7
  | .peerMismatch => 8
  | .versionMismatch => 9
  | .spreadMismatch => 10
  | .planeMismatch => 11

/-! ### Remaps that end early (05 R141) -/

/-- Remaps of some ports are not made, by a case of R141: the spare is idle again, and a command that asked
fails. -/
def State.cancelRemaps (s : State) (ports : List Nat) (pos : Nat) : State :=
  let out := s.remaps.filter fun r => ports.contains r.port && r.stage != .switched
  let s := { s with remaps := s.remaps.filter fun r => !(ports.contains r.port && r.stage != .switched) }
  out.foldl (fun s r =>
    let lane := match Tbl.find s.lanes r.spare with
      | some l => Tbl.set s.lanes r.spare { l with state := .idle }
      | none => s.lanes
    let s := { s with lanes := lane }
    match r.token with
    | some k => s.endFailedAt k 10 pos
    | none => s) s

/-! ### Leaving service (05 R159, 06 R190) -/

/-- Count frames lost on a port. -/
def State.loseFrames (s : State) (o : Obj) (p : Nat) (fs : List Frame) : State :=
  fs.foldl (fun s f => (s.bump o).dropped (p / 16) f) s

/-- Entries of an egress queue that are discarded with their port: what names a port and no bundle. -/
def State.portBound (s : State) (i : Nat) : Bool :=
  match s.flight i with
  | some f => match f.route with
    | .unicast _ b => b.isNone
    | _ => true
  | none => true

/-- Discard the multicast copies and port-bound frames of a port's egress queues. -/
def State.discardCopies (s : State) (p : Nat) : State :=
  let x := s.port p
  let is := (x.egress.flatMap fun q => (q.map (·.1)).filter s.portBound).eraseDups
  let cut := match x.sending with
    | some (_, i, _) => is.contains i || s.portBound i
    | none => false
  let egress := x.egress.map fun q => q.filter fun e => !s.portBound e.1
  let s := s.setPort p { x with egress := egress, sending := if cut then none else x.sending }
  is.foldl (fun s i =>
    match s.flight i with
    | some f =>
      let s := if f.sentOn.contains p then s else s.loseFrames (Obj.lostOnDown p) p [f.frame]
      match f.route with
      | .unicast _ _ => (s.extract i).giveUp f
      | _ => s.settle i
    | none => s) s

/-- The frame in transmission on a lost link, counted with the retry buffer, leaves the core. -/
def State.cutSending (s : State) (p : Nat) : State :=
  match (s.port p).sending with
  | some (_, i, _) =>
    let s := s.modPort p fun x =>
      { x with sending := none, egress := x.egress.map fun q => q.filter fun e => e.1 != i }
    match s.flight i with
    | some f => match f.route with
      | .unicast _ _ => (s.extract i).giveUp f
      | _ => s.settle i
    | none => s
  | none => s

/-- Frames that a port holds back or has not yet put in order (03 R82, 05 R154). -/
def PortSt.early (x : PortSt) : List Frame := x.heldIn ++ x.skew.map fun e => Frame.ofRaw e.2.1

/-- Fill the runner bucket up to now (07 R225). -/
def State.runnerFill (s : State) (low : Nat) : State :=
  let x := s.port low
  let n := (s.activeMembers low).length
  let add := mkRat (25 * n * s.obj Obj.runnerRate * (s.time.tb1 - x.runnerAt)) (10000 * 2 ^ 32)
  s.setPort low { x with
    runnerTokens := ratMin (s.obj Obj.runnerBurst : Nat) (x.runnerTokens + add), runnerAt := s.time.tb1 }

/-- The port's link goes down: its retry buffer and what names only the port are lost, and masters heard on it vanish
(05 R159, 06 R190, 02 R51). Slot tables that name it stand until the next boundary (06 R188). -/
def State.portDown (s : State) (low : Nat) : State :=
  let x := s.port low
  if x.link == .down then s
  else
    let s := s.loseFrames (Obj.lostOnDown low) low (x.retry.map (·.2))
    let s := s.loseFrames (Obj.lostOnDown low) low (s.port low).runnerOut
    let s := s.loseFrames (Obj.lostOnDown low) low (s.port low).early
    let s := s.modPort low fun x => { x with
      link := .down, leaveDue := x.inBundle, joinDue := false, retry := [], replayAt := none
      runnerOut := [], linkOut := [], peerLeaf := none, gotIdentity := false, identitySent := false
      heldIn := [], skew := [], faultSent := false }
    let s := (s.mastersGone low).unspray low
    (((s.cutSending low).discardCopies low).cancelRemaps (s.membersOf low) 3).deliverAll

/-- A port drops out (04 R124): a grouped port goes on with its other members. -/
def State.dropOut (s : State) (p : Nat) (st : LinkState) : State :=
  let s := s.runnerFill (s.portLow p)
  let s := s.modPort p fun x => { x with phys := st, dropDue := false, rot := false, prepOut := false }
  let s := s.cancelRemaps [p] 3
  let low := s.portLow p
  if (s.activeMembers low).isEmpty then s.portDown low else s

/-- The port is to drop out at the next boundary. -/
def State.dropNext (s : State) (p : Nat) : State :=
  if (s.port p).phys == .dropped || (s.port p).phys == .lent then s
  else s.modPort p fun x => { x with dropDue := true }

/-! ### Package lanes of a port (05 R134, R138) -/

/-- Key of a lane: direction (true: engine-to-die), stall, lane. -/
def laneKey (inward : Bool) (t i : Nat) : Nat := 18 * (64 * b2n inward + t) + i

/-- A lane as it stands after reset (05 R134). -/
def laneDefault (i : Nat) : LaneSt := { state := .idle, port := if i < 16 then i else 31 }

/-- A lane. -/
def State.laneAt (s : State) (k : Nat) : LaneSt := Tbl.get s.lanes k (laneDefault (k % 18))
def State.setLane (s : State) (k : Nat) (x : LaneSt) : State := { s with lanes := Tbl.set s.lanes k x }
def State.modLane (s : State) (k : Nat) (f : LaneSt → LaneSt) : State := s.setLane k (f (s.laneAt k))

/-- The lane that carries a port in a direction. -/
def State.laneOf (s : State) (inward : Bool) (p : Nat) : Option Nat :=
  ((upTo 18).map fun i => laneKey inward (p / 16) i).find? fun k => (s.laneAt k).port == p % 16

/-- Both lanes of a port are in service. -/
def State.lanesUp (s : State) (p : Nat) : Bool :=
  [false, true].all fun d => match s.laneOf d p with
    | some k => (s.laneAt k).state == .inService
    | none => false

/-- Lanes of a port below merit_min train again with a retrain (05 R159). -/
def State.retrainLanes (s : State) (p : Nat) : State :=
  [false, true].foldl (fun s d => match s.laneOf d p with
    | some k =>
      if (s.laneAt k).state == .inService && decide ((s.laneAt k).merit < s.obj (Obj.meritMin (p / 16))) then
        s.modLane k fun l => { l with state := .training, partnerReady := false, search := none }
      else s
    | none => s) s

/-! ### Retrain (05 R159) -/

/-- The link layer of the port runs: what a retrain interrupts. -/
def PortSt.running (x : PortSt) : Bool :=
  match x.link with
  | .init | .up | .peerMismatch | .versionMismatch | .spreadMismatch | .planeMismatch => true
  | _ => false

/-- A retrain starts: sequence state is kept, units stop and remote-fault ordered sets go out; the port leaves its
bundle at the next boundary. -/
def State.startRetrain (s : State) (p : Nat) : State :=
  let low := s.portLow p
  let x := s.port low
  if x.running then
    let s := s.setPort low { x with
      link := .retrain, leaveDue := x.inBundle, joinDue := false, nakRun := 0, nakNamed := none
      faultSent := true, retrainFrom := x.link }
    (((s.unspray low).bump (Obj.retrains low)).cancelRemaps (s.membersOf low) 2).each (s.membersOf low) State.retrainLanes
  else s

/-- More than 16 uncorrectable codewords within 1 ms: the latest 17 lie that close (05 R159). -/
def PortSt.fecLimit (x : PortSt) : Bool :=
  match x.fecBadAt[0]?, x.fecBadAt[16]? with
  | some a, some b => decide (a ≤ b + 10 ^ 6 * 2 ^ 32)
  | _, _ => false

/-- FEC_UNCORRECTABLE_LIMIT (05 R159). -/
def execFecUncorrectableLimit (p : Port) (s : State) : Result :=
  .next (if (s.port p.val).fecLimit then s.startRetrain p.val else s)

/-- AM_LOCK_LOSS (05 R159). -/
def execAmLockLoss (p : Port) (s : State) : Result := .next (s.startRetrain p.val)

/-- RETRAIN_REQUEST (05 R157, R159). -/
def execRetrainRequest (p : Port) (s : State) : Result := .next (s.startRetrain p.val)

/-- Naks in a row that name one frame have reached the limit (05 R148). -/
def State.replayLimit (s : State) (low : Nat) : State :=
  if s.obj (Obj.replayLimit low) ≤ (s.port low).nakRun then s.startRetrain low else s

/-- REPLAY_LIMIT_REACHED (05 R148). -/
def execReplayLimitReached (p : Port) (s : State) : Result := .next (s.replayLimit (s.portLow p.val))

/-! ### Initialisation and identity (05 R150, R156, R157, R158) -/

/-- Eight numbers. -/
def eight (f : Nat → Nat) : List Nat := (upTo 8).map f

/-- The credit limits that a port advertises. -/
def State.creditLimits (s : State) (low : Nat) : List Nat := eight fun n => s.obj (Obj.creditVc low n)

/-- The module's identity payload on a port. Its announcement of spread tolerance is stated nowhere: a free
value (log 6). -/
def State.identityWord (s : State) (low : Nat) : Nat :=
  1 + 2 ^ 4 + 2 ^ 5 + s.drawn % 2 * 2 ^ 6 + (s.obj (Obj.refclkSpread 0) % 2) * 2 ^ 7
    + (s.obj Obj.plane % 16) * 2 ^ 8 + (s.obj Obj.pos % 256) * 2 ^ 24 + low * 2 ^ 32
    + s.widthOf low * 2 ^ 48 + (s.obj (Obj.maxPayload low) / 256 % 256) * 2 ^ 64
    + (upTo 8).foldl (fun w n => w + s.obj (Obj.creditVc low n) % 65536 * 2 ^ (80 + 16 * n)) 0
    + (256 * 2 ^ s.widthOf low) * 2 ^ 208

/-- A link-control frame with a subtype and payload (05 R157). -/
def State.linkFrame (s : State) (op : Nat) (body : List Byte) : Frame :=
  ({ s.newFrame 6 12 with dest := 0xFFFFF, op := op }).withPayload body

/-- A link-control frame is to go out on a port, counted against its pitch (07 R218). -/
def State.sendLink (s : State) (low : Nat) (f : Frame) : State :=
  (s.modPort low fun x => { x with linkOut := x.linkOut ++ [f] }).countPass f

/-- The partner's init is seen: sequence and credit counts restart, the retry buffer is discarded, and
identity goes out as the first frame (05 R156). -/
def State.linkInit (s : State) (low : Nat) : State :=
  let x := s.port low
  let s := s.loseFrames (Obj.lostOnInit low) low (x.retry.map (·.2) ++ x.early)
  let s := s.setPort low { x with
    heldIn := [], skew := [], faultSent := false
    link := .init, leaveDue := x.leaveDue || x.inBundle, joinDue := false
    lseq := 0, retry := [], replayAt := none, nakRun := 0, nakNamed := none, expect := 0, nakSent := none
    nakDue := false, ackDue := false, limits := [], sent := eight fun _ => 0, released := eight fun _ => 0
    freed := eight fun _ => 0, reported := eight fun _ => 0, advertised := s.creditLimits low
    maxPayload := s.obj (Obj.maxPayload low), gotIdentity := false, identitySent := true, peerLeaf := none
    linkOut := [] }
  ((s.unspray low).sendLink low (s.linkFrame 1 (leBytes 32 (s.identityWord low)))).draw

/-- The link takes an init tag in these states. -/
def PortSt.takesInit (x : PortSt) : Bool :=
  match x.link with
  | .down | .retrain => false
  | _ => true

/-- LINK_INIT (05 R156). -/
def execLinkInit (p : Port) (s : State) : Result :=
  let low := s.portLow p.val
  .next (if (s.port low).takesInit then s.linkInit low else s)

/-- Link-layer initialisation starts on a port whose members are locked: init tags go out. -/
def State.beginInit (s : State) (low : Nat) : State :=
  s.modPort low fun x => { x with link := .init, identitySent := false, gotIdentity := false, faultSent := false }

/-- OPTICAL_LOCK (05 R156). A member that locks while its port is up joins the rotation at the next boundary
(05 R155). -/
def execOpticalLock (p : Port) (s : State) : Result :=
  .next (if (s.port p.val).phys != .lanes then s
    else
      let down := (s.port (s.portLow p.val)).link == .down
      let s := s.modPort p.val fun x => { x with phys := .optical, rot := down, busy := false }
      let s := s.modFiber (64 + p.val / 16) fun f => { f with lit := true }
      let low := s.portLow p.val
      if (s.port low).link == .down && s.allLocked low then s.beginInit low else s)

/-- Leaf and leaf-local port of an identity payload, as expected_peer codes them. -/
def peerOf (w : Nat) : Nat := bits w 12 12 * 256 + bits w 24 8

/-- The identity received since the last initialisation differs from the expected peer (03 R82). -/
def State.peerWrong (s : State) (low : Nat) : Bool :=
  let e := s.obj (Obj.expectedPeer low)
  (s.port low).gotIdentity && bit e 31 && bits e 0 20 != peerOf (s.obj (Obj.peerIdentity low))

/-- A mismatch is reported. -/
def State.peerEvent (s : State) (low : Nat) : State :=
  s.eventAt 10 (low / 16) (Obj.linkState low) 8

/-- The link state after an identity payload (05 R158, R136; 03 R82). Of several causes the first in this order is
reported: version or width, plane, spread, peer (log 97). -/
def State.judgeIdentity (s : State) (low w : Nat) : LinkState :=
  if bits w 0 4 != 1 || bits w 48 2 != s.widthOf low then .versionMismatch
  else if bits w 8 4 != s.obj Obj.plane then .planeMismatch
  else if s.flag (Obj.refclkSpread 0) && !bit w 6 then .spreadMismatch
  else if s.peerWrong low then .peerMismatch
  else .up

/-- The engines have started and a port is up: the module is in SERVICE (03 R88; log 59). -/
def State.portsUp (s : State) : State :=
  if s.power.boot == .links && s.ports.any (fun e => e.2.link == .up) then
    { s with power := { s.power with boot := .done, state := .service } }
  else s

/-- An identity payload arrives during initialisation (05 R156, R158). -/
def State.identity (s : State) (low w : Nat) : State :=
  if (s.port low).link != .init || !(s.port low).identitySent then s
  else
    let s := s.putObj (Obj.peerIdentity low) w
    let s := s.modPort low fun x => { x with
      gotIdentity := true
      peerLeaf := if bit w 4 then none else some (bits w 12 12)
      peerPayload := bits w 64 8 * 256
      limits := eight fun n => min 12288 (bits w (80 + 16 * n) 16) }
    let l := s.judgeIdentity low w
    let s := s.modPort low fun x => { x with link := l, joinDue := l == .up }
    let s := s.each [low / 16, 64 + low / 16] fun s k => s.modFiber k fun f => { f with moveCapable := bit w 5 }
    (s.when (l == .peerMismatch) fun s => s.peerEvent low).portsUp

/-- IDENTITY_FRAME (05 R158). -/
def execIdentityFrame (p : Port) (payload : BitVec 256) (s : State) : Result :=
  .next (s.identity (s.portLow p.val) payload.toNat)

/-- A port without a mismatch carries every VC: frames held back go on (03 R82; log 64). -/
def PortSt.released82 (x : PortSt) : PortSt :=
  { x with
    accepted := x.accepted ++ x.heldIn.filter (fun f => f.vc != 5)
    runnerIn := x.runnerIn ++ x.heldIn.filter (fun f => f.vc == 5)
    heldIn := [] }

/-- expected_peer has been written: it is compared at once (03 R82), and during a retrain too. -/
def State.comparePeer (s : State) (p : Nat) : State :=
  let low := s.portLow p
  let x := s.port low
  match x.link with
  | .up =>
    if s.peerWrong low then
      ((s.setPort low { x with link := .peerMismatch, leaveDue := x.inBundle, joinDue := false }).unspray low).peerEvent low
    else s
  | .peerMismatch =>
    if s.peerWrong low then s
    else (s.setPort low { x.released82 with link := .up, joinDue := true, leaveDue := false }).portsUp
  | .retrain =>
    if x.retrainFrom == .up && s.peerWrong low then
      (s.setPort low { x with retrainFrom := .peerMismatch }).peerEvent low
    else if x.retrainFrom == .peerMismatch && !s.peerWrong low then
      s.setPort low { x.released82 with retrainFrom := .up }
    else s
  | _ => s

/-- A port's payload or credit settings have changed since its last initialisation (05 R163). -/
def State.settingsChanged (s : State) (low : Nat) : Bool :=
  (s.port low).advertised != s.creditLimits low || (s.port low).maxPayload != s.obj (Obj.maxPayload low)

/-- RETRAIN_COMPLETE (05 R159, R163). -/
def execRetrainComplete (p : Port) (s : State) : Result :=
  let low := s.portLow p.val
  let x := s.port low
  .next (if x.link != .retrain || !((s.activeMembers low).all s.lanesUp) then s
    else if x.retrainFrom == .init || s.settingsChanged low then s.beginInit low
    else (s.setPort low { x with
      link := x.retrainFrom, joinDue := x.retrainFrom == .up, faultSent := false
      replayAt := x.retry.head?.map (·.1) }).portsUp)

/-- RETRAIN_TIMEOUT (05 R159). -/
def execRetrainTimeout (p : Port) (s : State) : Result :=
  let low := s.portLow p.val
  .next (if (s.port low).link == .retrain then
      let s := s.portDown low
      s.each (s.membersOf low) fun s m => s.modPort m fun x =>
        { x with phys := if x.phys == .optical then .lanes else x.phys }
    else s)

/-! ### Receiving (05 R145 to R149, R153) -/

/-- Fields of a link tag. -/
def tagLseq (t : Nat) : Nat := bits t 52 12
def tagAck (t : Nat) : Nat := bits t 39 12

/-- The tag's check passes (05 R146). -/
def tagOk (t : Nat) : Bool := crc8 (beBytes 7 (t / 256)) == t % 256

/-- Frames up to and including a sequence number leave the retry buffer; a number that is not of a frame
held there is ignored (05 R146, R147). -/
def PortSt.acked (x : PortSt) (ack : Nat) : PortSt :=
  if x.retry.any fun e => e.1 == ack then
    let rest := (x.retry.dropWhile fun e => e.1 != ack).drop 1
    { x with retry := rest, nakRun := 0, nakNamed := none
             replayAt := match x.replayAt with
               | some q => if rest.any fun e => e.1 == q then some q else rest.head?.map (·.1)
               | none => none }
  else x

/-- A nak names the last frame that the partner accepted: the frames after it are sent again (05 R147). One
that names a frame acknowledged before the latest is ignored (log 31). -/
def PortSt.nakked (x : PortSt) (ack : Nat) : PortSt :=
  let x := x.acked ack
  let next := (ack + 1) % 4096
  if x.retry.head?.map (·.1) == some next then
    { x with replayAt := some next, nakNamed := some ack
             nakRun := if x.nakNamed == some ack then x.nakRun + 1 else 1 }
  else x

/-- The credit fields of a tag (05 R149). -/
def PortSt.credited (x : PortSt) (t : Nat) : PortSt :=
  if bit t 38 then
    { x with released := listPut 0 x.released (bits t 35 3) (bits t 23 12 + bits t 16 4 * 4096) }
  else x

/-- The acknowledgement and credits of a tag. -/
def State.takeTag (s : State) (low t : Nat) : State :=
  let s := s.modPort low fun x =>
    let x := if bit t 51 then (if bit t 21 then x.nakked (tagAck t) else x.acked (tagAck t)) else x
    x.credited t
  s.replayLimit low

/-- A sequence number lies ahead of another. -/
def lseqAhead (g q : Nat) : Bool :=
  let d := (q + 4096 - g % 4096) % 4096
  decide (0 < d) && decide (d < 2048)

/-- A discard opens a gap of its own: none is open, or the frame that a nak has asked for has failed again, or numbers
have gone back, so that a replay runs and has itself lost a frame (05 R147; log 95). -/
def PortSt.newGap (x : PortSt) (q : Nat) : Bool :=
  match x.nakSent with
  | none => true
  | some g => q == x.expect || !lseqAhead g q

/-- A frame of a sequence number is discarded: one nak per gap (05 R147). -/
def State.naks (s : State) (low q : Nat) : State :=
  if (s.port low).newGap q then
    (s.modPort low fun x => { x with nakSent := some q, nakDue := true }).bump (Obj.naksSent low)
  else s.modPort low fun x => { x with nakSent := some q }

/-- VCs whose frames a port takes: a port with a peer mismatch carries VC6 alone (03 R82). -/
def PortSt.takes (x : PortSt) (vc : Nat) : Bool := x.link == .init || x.link == .up || vc == 6

/-- A frame accepted in order: VC5 goes to the runner unit, all others to ingress; a bad version or type is
acknowledged and discarded (05 R153), and a frame that the port does not carry is held, its credits with it (log 64). -/
def State.acceptFrame (s : State) (low : Nat) (f : Frame) : State :=
  let s := s.modPort low fun x => { x with expect := (x.expect + 1) % 4096, nakSent := none, ackDue := true }
  let s := (s.count (low / 16) 0x100 1 (f.attrs (some low))).count (low / 16) 0x101 f.charge (f.attrs (some low))
  if !f.typeOk then (s.badType low f).freeCredits low f.vc f.cells
  else if !(s.port low).takes f.vc then s.modPort low fun x => { x with heldIn := x.heldIn ++ [f] }
  else if f.vc = 5 then s.modPort low fun x => { x with runnerIn := x.runnerIn ++ [f] }
  else s.modPort low fun x => { x with accepted := x.accepted ++ [f] }

/-- The frames that wait for their turn on a grouped port and are next are accepted; `fuel` bounds their number. -/
def State.drainSkew (s : State) (low : Nat) : Nat → State
  | 0 => s
  | fuel + 1 =>
    let x := s.port low
    match x.skew.find? fun e => e.1 == x.expect with
    | some e =>
      let s := s.modPort low fun x => { x with skew := x.skew.filter fun e' => e'.1 != e.1 }
      (s.acceptFrame low (Frame.ofRaw e.2.1)).drainSkew low fuel
    | none => s

/-- Skew between members of a grouped port that is tolerated: 400 ns (05 R154). -/
def skewUnits : Nat := 400 * 2 ^ 32

/-- Frames that have waited longer than the skew tolerated are discarded: what is missing before them is lost. -/
def State.expireSkew (s : State) (low : Nat) : State :=
  let old := fun (e : Nat × RawFrame × Nat) => decide (e.2.2 + skewUnits ≤ s.time.tb1)
  if (s.port low).skew.any old then
    let qs := (s.port low).skew.map (·.1)
    let s := s.modPort low fun x => { x with skew := [] }
    qs.foldl (fun s q => s.naks low q) s
  else s

/-- A frame ahead of the next expected one waits, if it came on one of several members. -/
def State.waits (s : State) (low q : Nat) : Bool :=
  decide (1 < (s.activeMembers low).length) && lseqAhead (s.port low).expect q

/-- Keep a frame for the merge, in the order of sequence numbers (05 R152). -/
def PortSt.keepSkew (x : PortSt) (q : Nat) (r : RawFrame) (now : Nat) : PortSt :=
  let (before, after) := x.skew.partition fun e => lseqAhead e.1 q
  { x with skew := before ++ (q, r, now) :: after.filter fun e => e.1 != q }

/-- The frame of a unit (05 R147, R152). -/
def State.takeFrame (s : State) (low : Nat) (u : LinkUnit) : State :=
  match u.frame with
  | none => s
  | some r =>
    let q := tagLseq u.tag.toNat
    if !(rawHeaderOk r && rawPayloadOk r) then s.naks low q
    else if q == (s.port low).expect then (s.acceptFrame low (Frame.ofRaw r)).drainSkew low 4096
    else if s.waits low q then s.modPort low fun x => x.keepSkew q r s.time.tb1
    else s.naks low q

/-- The FEC decoder of a member has ended codewords (05 R145): each is counted. -/
def State.fecCount (s : State) (p : Nat) (c : Option (Fin 16)) : State :=
  match c with
  | some n =>
    let s := (s.bump (Obj.fecCorrected p) n.val).count (blockRx (p / 16)) 0x400 n.val
    s.modPort p fun x => { x with fecHist := listPut 0 x.fecHist n.val ((x.fecHist.getD n.val 0 + 1) % 2 ^ 64) }
  | none =>
    let s := (s.bump (Obj.fecUncorrectable p)).count (blockRx (p / 16)) 0x401 1
    s.modPort p fun x => { x with fecBadAt := (s.time.tb1 :: x.fecBadAt).take 17 }

/-- A unit that overlaps an uncorrectable codeword is discarded (05 R145). -/
def State.badUnit (s : State) (low : Nat) (u : LinkUnit) : State :=
  if u.frame.isSome then s.naks low (tagLseq u.tag.toNat) else s

/-- The port takes frames in these states; one that holds down takes init tags alone (05 R158). -/
def PortSt.receives (x : PortSt) : Bool :=
  match x.link with
  | .init | .up | .peerMismatch => true
  | _ => false

/-- A unit that the FEC has left whole: its tag, and its frame. -/
def State.goodUnit (s : State) (low : Nat) (u : LinkUnit) : State :=
  let t := u.tag.toNat
  if !tagOk t then s
  else if bit t 20 then s.linkInit low
  else if !(s.port low).receives then s
  else
    let s := s.takeTag low t
    if bit t 22 && (s.port low).identitySent then s.takeFrame low u else s

/-- A unit arrives on a member of a port (05 R145, R146, R147, R149, R153, R156). -/
def State.receive (s : State) (p low : Nat) (u : LinkUnit) : State :=
  if !(s.port low).running then s
  else
    let s := (u.codewords.foldl (fun s c => s.fecCount p c) s).expireSkew low
    if u.fecBad then (if (s.port low).receives then s.badUnit low u else s) else s.goodUnit low u

/-- LINK_UNIT_RECEIVE. -/
def execLinkUnitReceive (p : Port) (u : LinkUnit) (s : State) : Result :=
  .next (s.receive p.val (s.portLow p.val) u)

/-! ### Sending (05 R146 to R149, R156; 07 R224 to R226) -/

/-- The VC with a change in its released credits that the next tag reports, in rotation (05 R149). -/
def PortSt.creditNext (x : PortSt) : Option Nat :=
  ((upTo 8).map fun k => (x.creditTurn + k) % 8).find? fun v => x.freed.getD v 0 != x.reported.getD v 0

/-- The next tag, and the port after sending it. -/
def PortSt.makeTag (x : PortSt) (lseq : Option Nat) : Nat × PortSt :=
  let last := (x.expect + 4095) % 4096
  let acks := x.ackDue || x.nakDue
  let cv := x.creditNext
  let n := match cv with
    | some v => x.freed.getD v 0 % 65536
    | none => 0
  let body := (lseq.getD 0) * 2 ^ 52 + b2n acks * 2 ^ 51 + (if acks then last else 0) * 2 ^ 39
    + b2n cv.isSome * 2 ^ 38 + cv.getD 0 * 2 ^ 35 + n % 4096 * 2 ^ 23 + b2n lseq.isSome * 2 ^ 22
    + b2n x.nakDue * 2 ^ 21 + n / 4096 * 2 ^ 16
  let x := { x with
    ackDue := false, nakDue := false
    reported := match cv with
      | some v => listPut 0 x.reported v (x.freed.getD v 0)
      | none => x.reported
    creditTurn := match cv with
      | some v => (v + 1) % 8
      | none => x.creditTurn }
  (body + crc8 (beBytes 7 (body / 256)), x)

/-- A standalone tag with init set. -/
def initTag : Nat := let body := 2 ^ 20; body + crc8 (beBytes 7 (body / 256))

/-- The member on which the next unit goes: the first of the rotation whose send path is not busy (05 R154). -/
def State.nextMember (s : State) (low : Nat) : Nat :=
  let ms := s.activeMembers low
  let r := (s.port low).rotor
  let turn := ms.filter (fun p => decide (r ≤ p)) ++ ms.filter (fun p => decide (p < r))
  ((turn.find? fun p => !(s.port p).busy).or turn.head?).getD low

/-- A unit goes out on the link: its header check and payload check are computed as it leaves (05 R144, R161). -/
def State.emit (s : State) (low tag : Nat) (f : Option Frame) : State :=
  let m := s.nextMember low
  let s := s.modPort m fun x => { x with busy := true }
  let s := s.modPort low fun x => { x with rotor := m + 1 }
  { s with out := { s.out with unit := some (m, tag, f.map Frame.toRaw) } }

/-- Send a tag with a frame, or alone. -/
def State.sendTag (s : State) (low : Nat) (lseq : Option Nat) (f : Option Frame) : State :=
  let (tag, x) := (s.port low).makeTag lseq
  (s.setPort low x).emit low tag f

/-- Bytes that a retry buffer holds: of each frame its header, payload and check; whether the link tag is kept with
it is not stated (log 96). -/
def PortSt.retryBytes (x : PortSt) : Nat := x.retry.foldl (fun n e => n + e.2.charge) 0

/-- The window and the retry buffer have room for a new frame (05 R148). -/
def State.windowOpen (s : State) (low : Nat) (f : Frame) : Bool :=
  let x := s.port low
  decide (x.retry.length < 2047) && decide (x.retryBytes + f.charge ≤ 262144 * 2 ^ s.widthOf low)

/-- Credits for a frame's cost are available (05 R149); before identity, four on VC6 (05 R156). -/
def PortSt.credit (x : PortSt) (f : Frame) : Bool :=
  let limit := if x.gotIdentity then x.limits.getD f.vc 0 else if f.vc = 6 then 4 else 0
  let used := (x.sent.getD f.vc 0 % 65536 + 65536 - x.released.getD f.vc 0 % 65536) % 65536
  decide (used + f.cells ≤ limit)

/-- A new frame goes out: sequence number, retry buffer, credits (05 R146, R148, R149). -/
def State.sendNew (s : State) (low : Nat) (f : Frame) (inPort : Option Nat) : State :=
  let x := s.port low
  let q := x.lseq
  let s := s.setPort low { x with
    lseq := (q + 1) % 4096, retry := x.retry ++ [(q, f)], sent := addAt x.sent f.vc f.cells }
  let s := (s.count (low / 16) 0x102 1 (f.attrs inPort)).count (low / 16) 0x103 f.charge (f.attrs inPort)
  s.sendTag low (some q) (some f)

/-- A frame as it leaves: one more hop (05 R160). -/
def Frame.hopped (f : Frame) : Frame := { f with hop := min 7 (f.hop + 1) }

/-- The next frame of a replay (05 R147, R148). -/
def State.sendReplay (s : State) (low q : Nat) : State :=
  let x := s.port low
  match x.retry.find? fun e => e.1 == q with
  | none => s.setPort low { x with replayAt := none }
  | some (_, f) =>
    let rest := (x.retry.dropWhile fun e => e.1 != q).drop 1
    let s := s.setPort low { x with replayAt := rest.head?.map (·.1) }
    ((s.bump (Obj.replays low)).count (blockTx (low / 16)) 0x402 1).sendTag low (some q) (some f)

/-- What a VC would send next: a link-control frame, or the head of an egress queue. -/
inductive Head where
  | link (f : Frame)
  | core (flight : Nat) (f : Frame)

/-- Its frame. -/
def Head.frame : Head → Frame
  | .link f => f
  | .core _ f => f

/-- Head of a VC. -/
def State.headOf (s : State) (low vc : Nat) : Option Head :=
  let x := s.port low
  match (if vc = 6 then x.linkOut.head? else none) with
  | some f => some (.link f)
  | none => match (x.egress.getD vc []).head? with
    | some (i, _) => match s.flight i with
      | some f => some (.core i f.frame)
      | none => none
    | none => none

/-- VCs that a port carries now: VC6 alone until it is up (05 R156, 03 R82). -/
def PortSt.carries (x : PortSt) (vc : Nat) : Bool :=
  match x.link with
  | .up => true
  | .init => vc == 6 && x.identitySent
  | .peerMismatch => vc == 6
  | _ => false

/-- The VC is eligible (07 R224). -/
def State.vcEligible (s : State) (low vc : Nat) : Bool :=
  match s.headOf low vc with
  | some h => (s.port low).carries vc && (s.port low).credit h.frame && s.windowOpen low h.frame
  | none => false

/-- VCs of the DWRR, in order of rotation. -/
def dwrrVcs : List Nat := [0, 1, 2, 3, 4, 6, 7]

/-- Quantum of a VC in bytes (07 R226). -/
def State.quantum (s : State) (vc : Nat) : Nat := s.obj (Obj.dwrrWeight vc) * 1024

/-- Bytes of the unit at a VC's head. -/
def State.headBytes (s : State) (low vc : Nat) : Nat :=
  match s.headOf low vc with
  | some h => h.frame.unitBytes
  | none => 0

/-- A VC's deficit when its turn comes (07 R226). -/
def State.visitDeficit (s : State) (low vc : Nat) (d : Int) : Int :=
  let q := Int.ofNat (s.quantum vc)
  match s.headOf low vc with
  | none => 0
  | some _ => if s.vcEligible low vc then d + q else min (d + q) (q + 16428)

/-- Rounds of the DWRR until a VC may send: the VC with the deficits and the turn then; `fuel` bounds the
visits. -/
def State.dwrr (s : State) (low : Nat) (turn : Nat) (ds : List Int) : Nat → Option (Nat × Nat × List Int)
  | 0 => none
  | fuel + 1 =>
    let vc := dwrrVcs.getD turn 0
    if s.vcEligible low vc && decide (0 < s.quantum vc) && decide (Int.ofNat (s.headBytes low vc) ≤ ds.getD vc 0)
    then some (vc, turn, ds)
    else
      let t := (turn + 1) % 7
      let v := dwrrVcs.getD t 0
      s.dwrr low t (listPut 0 ds v (s.visitDeficit low v (ds.getD v 0))) fuel

/-- Send the head of a VC. -/
def State.sendHead (s : State) (low vc : Nat) : State :=
  match s.headOf low vc with
  | none => s
  | some (.link f) =>
    let s := s.modPort low fun x => { x with linkOut := x.linkOut.drop 1 }
    if f.ftype = 11 then
      let bs := s.ptpStamped low f.payload
      (s.ptpLeaves low none f.payload).sendNew low (f.withPayload bs) none
    else s.sendNew low f none
  | some (.core i f) =>
    match s.flight i with
    | none => s
    | some fl =>
      let s := s.setFlight i { fl with sentOn := fl.sentOn ++ [low] }
      let s := s.modPort low fun x => { x with sending := some (vc, i, 0) }
      s.sendNew low f.hopped fl.inPort

/-- Cells of the unit in transmission leave their queue; the flight ends with its last cell. -/
def State.absorb (s : State) (low : Nat) : State :=
  match (s.port low).sending with
  | none => s
  | some (vc, i, n) =>
    let x := s.port low
    let q := x.egress.getD vc []
    let here := (q.filter fun e => e.1 == i).foldl (fun n e => n + e.2) 0
    let total := match s.flight i with
      | some f => f.cells
      | none => 0
    let x := { x with
      egress := listPut [] x.egress vc (q.filter fun e => e.1 != i)
      sending := if n + here < total then some (vc, i, n + here) else none }
    (s.setPort low x).settle i

/-- Take what a unit costs from a VC's deficit; a VC whose queue empties starts again at 0 (07 R226). -/
def State.chargeDeficit (s : State) (low vc bytes turn : Nat) (ds : List Int) : State :=
  s.modPort low fun x => { x with turn := turn, deficits := listPut 0 ds vc (ds.getD vc 0 - Int.ofNat bytes) }

/-- An emptied VC's deficit. -/
def State.emptied (s : State) (low vc : Nat) : State :=
  match s.headOf low vc with
  | some _ => s
  | none => s.modPort low fun x => { x with deficits := listPut 0 x.deficits vc 0 }

/-- A runner frame may go first (07 R224, R225). -/
def State.runnerReady (s : State) (low : Nat) : Option Frame :=
  let x := s.port low
  match x.runnerOut with
  | f :: _ =>
    if x.carries 5 && decide ((f.unitBytes : Rat) ≤ x.runnerTokens) && x.credit f && s.windowOpen low f
    then some f else none
  | [] => none

/-- Send the head of the runner queue. -/
def State.sendRunnerUnit (s : State) (low : Nat) (f : Frame) : State :=
  let s := s.modPort low fun x => { x with
    runnerOut := x.runnerOut.drop 1, runnerTokens := x.runnerTokens - (f.unitBytes : Rat) }
  let s := s.when (!f.heartbeat) fun s => s.bump (Obj.runnerOutFrames (low / 16))
  s.sendNew low f.hopped none

/-- A VC of weight 0 that may send, when no other can (07 R226). -/
def State.zeroVc (s : State) (low : Nat) : Option Nat :=
  dwrrVcs.find? fun v => s.quantum v == 0 && s.vcEligible low v

/-- Choose and send a unit of the core (07 R226), or a tag alone (05 R147). -/
def State.sendDwrr (s : State) (low : Nat) : State :=
  let x := s.port low
  let some? := dwrrVcs.any fun v => s.quantum v != 0 && s.vcEligible low v
  match (if some? then s.dwrr low x.turn x.deficits 300 else none) with
  | some (vc, turn, ds) =>
    let n := s.headBytes low vc
    (((s.chargeDeficit low vc n turn ds).sendHead low vc).absorb low).emptied low vc
  | none => match s.zeroVc low with
    | some vc => ((s.sendHead low vc).absorb low).emptied low vc
    | none => if x.ackDue || x.nakDue || x.creditNext.isSome then s.sendTag low none none else s

/-- The next unit of a port (05 R148, R156; 07 R224). -/
def State.sendUnit (s : State) (low : Nat) : State :=
  let x := s.port low
  match x.link with
  | .init | .up | .peerMismatch =>
    if x.link == .init && !x.identitySent then s.emit low initTag none
    else if let some (vc, _, _) := x.sending then (s.absorb low).emptied low vc
    else match x.replayAt with
      | some q => s.sendReplay low q
      | none =>
        let s := s.runnerFill low
        match s.runnerReady low with
        | some f => s.sendRunnerUnit low f
        | none => s.sendDwrr low
  | _ => s

/-- LINK_UNIT_SEND (07 R224): the member's send path is free, and its port's next unit goes on the first free member of
the rotation; what waits for the room that it makes goes on. -/
def execLinkUnitSend (p : Port) (s : State) : Result :=
  .next ((((s.modPort p.val fun x => { x with busy := false }).sendUnit (s.portLow p.val)).deliverAll).pump)

/-! ### Width (05 R150, R154, R163) -/

/-- Ports that a width change joins, leaves or splits: the larger of the old group and the new one. -/
def State.widthPorts (s : State) (p w : Nat) : List Nat :=
  let old := s.membersOf (s.portLow p)
  let new := (upTo (2 ^ w)).map (p + ·)
  if old.length ≤ new.length then new else old

/-- Credit limits of the ports that a width change makes: sums for a port that is joined, defaults for each
port of a split (05 R150). -/
def State.newCredits (s : State) (p w : Nat) : State :=
  let old := s.membersOf (s.portLow p)
  if old.length < 2 ^ w then
    let lows := ((upTo (2 ^ w)).map (fun i => s.portLow (p + i))).eraseDups
    s.each (upTo 8) fun s n =>
      s.putObj (Obj.creditVc p n) (lows.foldl (fun c l => c + s.obj (Obj.creditVc l n)) 0)
  else if old.length = 2 ^ w then s
  else
    s.each old fun s q => s.each (upTo 8) fun s n =>
      s.putObj (Obj.creditVc q n) ((Obj.creditVc q n).dflt * (if q = p then 2 ^ w else 1))

/-- A port concerned leaves service: its retry buffer is discarded. -/
def State.widthLeave (s : State) (q : Nat) : State :=
  let x := s.port q
  let s := s.loseFrames (Obj.lostOnInit q) q (x.retry.map (·.2))
  (s.modPort q fun x => { x with retry := [], replayAt := none }).portDown q

/-- An accepted width takes effect (05 R163). -/
def State.changeWidth (s : State) (p w : Nat) : State :=
  let ports := s.widthPorts p w
  let s := ports.foldl (fun s q => if s.isLowest q then s.widthLeave q else s) s
  let s := s.newCredits p w
  let s := s.each ports fun s q => s.putObj (Obj.portWidth q) (if q = p then w else 0)
  s.each ports fun s q =>
    if s.isLowest q && s.allLocked q then s.beginInit q else s

/-- A width that waits for the boundary takes effect. -/
def State.widthEffect (s : State) (p : Nat) : State :=
  match (s.port p).widthDue with
  | some w => (s.modPort p fun x => { x with widthDue := none }).changeWidth p w
  | none => s

/-- WIDTH_CHANGE_EFFECT (05 R163). -/
def execWidthChangeEffect (p : Port) (s : State) : Result := .next (s.widthEffect p.val)

/-! ### Ports at a boundary (05 R159, R163; 04 R121 to R124) -/

/-- Widths, the rotation and drop-outs that are due. -/
def State.portChanges (s : State) (p : Nat) : State :=
  let s := (s.runnerFill p).widthEffect p
  let s := s.modPort p fun x => { x with rot := x.phys == .optical }
  let s := s.expireSkew p
  if (s.port p).dropDue then s.dropOut p .dropped else s

/-- Departures from bundles and returns that are due. -/
def State.portBoundary (s : State) (p : Nat) : State :=
  let x := s.port p
  if x.leaveDue then
    let s := (s.setPort p { x with leaveDue := false, inBundle := false }).unspray p
    if x.link == .up then s
    else
      let s := s.loseFrames (Obj.lostOnDown p) p x.runnerOut
      ((s.modPort p fun x => { x with runnerOut := [] }).discardCopies p).deliverAll
  else if x.joinDue && x.link == .up then s.setPort p { x with joinDue := false, inBundle := true }
  else s

/-- Every port at a boundary. -/
def State.portBoundaries (s : State) : State :=
  let s := (s.ports.map (·.1)).foldl State.portChanges s
  (s.ports.map (·.1)).foldl State.portBoundary s

end Sys2Proof.Machine
end

