-- ==== Sys2Proof/Machine/Lanes.lean ====
section
/-! DEFINITION. Package lanes (05 R134 to R142): training, spares and remaps. -/

namespace Sys2Proof.Machine

/-- The spare or port lane of a port's direction has a usable spare in its stall (05 R139, R142). -/
def State.spareUsable (s : State) (k : Nat) : Bool :=
  let l := s.laneAt k
  l.state == .idle && l.port == 31 && decide (s.obj (Obj.meritMin (k / 18 % 64)) ≤ l.merit)

/-- Usable spares of a stall and direction, lowest first. -/
def State.spares (s : State) (inward : Bool) (t : Nat) : List Nat :=
  ((upTo 18).map (laneKey inward t)).filter s.spareUsable

/-- The engine of a port runs. -/
def State.engineRuns (s : State) (p : Nat) : Bool := (s.engine (p / 64)).state == .running

/-- A port whose lanes are trained and whose engine runs shows lanes (05 R156). -/
def State.portLanes (s : State) (p : Nat) : State :=
  if (s.port p).phys == .down && s.lanesUp p && s.engineRuns p then
    s.modPort p fun x => { x with phys := .lanes }
  else s

/-! ### Training (05 R135, R137, R138) -/

/-- Tap magnitudes of a preset: c(−1), c(1), in 64ths (05 R135). -/
def presetTaps (n : Nat) : Nat × Nat := [(0, 0), (4, 8), (0, 12), (8, 4)].getD n (0, 0)

/-- A request on one tap: its new magnitude and the response (05 R137). -/
def tapRequest (req value preset top : Nat) : Nat × Nat :=
  match req with
  | 1 => if value < top then (value + 1, 0) else (value, 2)
  | 2 => if 0 < value then (value - 1, 0) else (value, 1)
  | 3 => (preset, 0)
  | _ => (value, 0)

/-- The control field's check passes. -/
def controlOk (w : Nat) : Bool := crc8 (beBytes 7 (w % 2 ^ 56)) == bits w 56 8

/-- The magnitude of c(0) in 64ths: 1 − |c(−1)| − |c(1)| (05 R135). -/
def LaneSt.cmain (l : LaneSt) : Nat := 64 - l.cpre - l.cpost

/-- Training frames within which a request is answered (05 R138). -/
def answerFrames : Nat := 4

/-- The search ends a tap: the other tap, or the end of the round (05 R138). -/
def TapSearch.nextTap (x : TapSearch) : TapSearch :=
  if x.post then { x with post := false, up := true, stage := .answer answerFrames }
  else if !x.improved || decide (31 ≤ x.round) then { x with stage := .ended }
  else { x with round := x.round + 1, improved := false, post := true, up := true, stage := .answer answerFrames }

/-- The search ends a step that brought nothing: the other step, or the next tap. -/
def TapSearch.nextStep (x : TapSearch) : TapSearch :=
  if x.up then { x with up := false, stage := .answer answerFrames } else x.nextTap

/-- A control field arrives, with the response of each tap, and with a merit if a measurement has ended (05 R138). -/
def TapSearch.next (x : TapSearch) (stPre stPost : Nat) (measured : Option Nat) : TapSearch :=
  match x.stage with
  | .ended => x
  | .answer (n + 2) => { x with stage := .answer (n + 1) }
  | .answer _ =>
    if !x.preset && (if x.post then stPost else stPre) != 0 then x.nextStep else { x with stage := .measure }
  | .measure => match measured with
    | none => x
    | some m =>
      if x.preset then { x with preset := false, best := m, stage := .answer answerFrames }
      else if x.best < m then ({ x with best := m, improved := true } : TapSearch).nextTap
      else { x with stage := .undo answerFrames }
  | .undo (n + 2) => { x with stage := .undo (n + 1) }
  | .undo _ => x.nextStep

/-- The requests for c(−1) and c(1) in the next control field: a request stands in one field (05 R138; log 98). -/
def TapSearch.requests (x : TapSearch) : Nat × Nat :=
  let one := fun (r : Nat) => if x.post then (0, r) else (r, 0)
  match x.stage with
  | .answer n => if n != answerFrames then (0, 0) else if x.preset then (3, 3) else one (if x.up then 1 else 2)
  | .undo n => if n != answerFrames then (0, 0) else one (if x.up then 2 else 1)
  | _ => (0, 0)

/-- The lane trains. -/
def LaneSt.trains (l : LaneSt) : Bool := l.state == .idle || l.state == .training

/-- A control field's requests act on the transmitter of the lane of the same number in the opposite direction. -/
def LaneSt.requested (l : LaneSt) (w : Nat) : LaneSt :=
  let pre := presetTaps (bits w 4 2)
  let a := tapRequest (bits w 0 2) l.cpre pre.1 15
  let b := tapRequest (bits w 2 2) l.cpost pre.2 24
  { l with
    state := .training, cpre := a.1, stPre := a.2, cpost := b.1, stPost := b.2
    partnerReady := l.partnerReady || bit w 6, merit := bits w 8 8 }

/-- A lane's receiver goes on with its search; the first field of a training starts it. -/
def LaneSt.searched (l : LaneSt) (w : Nat) (measured : Option Nat) : LaneSt :=
  { l with
    state := .training, merit := measured.getD l.merit
    search := some (match l.search with
      | none => { stage := .answer answerFrames }
      | some x => x.next (bits w 16 2) (bits w 18 2) measured) }

/-- The next control field of an end: its receiver's requests, readiness and merit, and its transmitter's responses
(05 R137). -/
def controlField (rx tx : LaneSt) : Nat :=
  let q := match rx.search with
    | some x => x.requests
    | none => (0, 0)
  let ready := match rx.search with
    | some x => x.stage == .ended
    | none => !rx.trains
  let body := q.1 + q.2 * 2 ^ 2 + 1 * 2 ^ 4 + b2n ready * 2 ^ 6 + rx.merit % 256 * 2 ^ 8 + tx.stPre % 4 * 2 ^ 16
    + tx.stPost % 4 * 2 ^ 18
  body + crc8 (beBytes 7 body) * 2 ^ 56

/-- A control field on lane `rx` acts on the lane of the same number in the opposite direction, `tx`, and on the search
of its own; the answer goes out on `tx`. A field whose check fails is ignored (05 R137). -/
def State.trainingFrame (s : State) (rx tx w : Nat) (measured : Option Nat) : State :=
  if !controlOk w then s
  else
    let s := if (s.laneAt tx).trains then s.modLane tx fun l => l.requested w else s
    let s := if (s.laneAt rx).trains then s.modLane rx fun l => l.searched w measured else s
    { s with out := { s.out with control := some (tx, controlField (s.laneAt rx) (s.laneAt tx)) } }

/-- TRAINING_FRAME (05 R137). -/
def execTrainingFrame (t : Stall) (lane : Fin 18) (inward : Bool) (control : ControlField) (s : State) : Result :=
  .next (if s.dieRunning then
      s.trainingFrame (laneKey inward t.val lane.val) (laneKey (!inward) t.val lane.val) control.word.toNat
        (control.measured.map BitVec.toNat)
    else s)

/-- A working lane has failed: its port drops out unless a usable spare remains (05 R142). -/
def State.laneFailed (s : State) (k : Nat) : State :=
  let l := s.laneAt k
  if l.port < 16 && (s.spares (decide (64 ≤ k / 18)) (k / 18 % 64)).isEmpty then
    s.dropNext (16 * (k / 18 % 64) + l.port)
  else s

/-- The lane's receiver has ended its search. -/
def LaneSt.searchEnded (l : LaneSt) : Bool :=
  l.trains && (match l.search with
    | some x => x.stage == .ended
    | none => false)

/-- The tap search of a lane ends (05 R138, R139): taps stored; a port's lane enters service and a spare
rests, if the merit suffices. -/
def State.trainingDone (s : State) (k merit : Nat) : State :=
  let l := s.laneAt k
  if !l.searchEnded then s
  else
    let ok := decide (s.obj (Obj.meritMin (k / 18 % 64)) ≤ merit)
    let st : LaneState := if !ok then .failed else if l.port < 16 then .inService else .idle
    let s := s.setLane k { l with
      state := st, merit := merit, storedPre := l.cpre, storedPost := l.cpost, search := none
      calTable := s.tableNow }
    let s := s.tablesApplied
    let s := if ok then s else s.laneFailed k
    if l.port < 16 then s.portLanes (16 * (k / 18 % 64) + l.port) else s

/-- LANE_TRAINING_DONE (05 R138). -/
def execLaneTrainingDone (t : Stall) (lane : Fin 18) (inward : Bool) (merit : Byte) (s : State) : Result :=
  .next (if s.dieRunning then s.trainingDone (laneKey inward t.val lane.val) merit.toNat else s)

/-- SPARE_MERIT_CHECK (05 R139): the merit measured on waking, and after a retraining. -/
def execSpareMeritCheck (t : Stall) (lane : Fin 18) (inward : Bool) (merit retrained : Byte) (s : State) :
    Result :=
  let k := laneKey inward t.val lane.val
  let l := s.laneAt k
  let min := s.obj (Obj.meritMin t.val)
  let on := s.dieRunning && l.state == .idle && l.port == 31
  let s := s.when on State.wakeTally
  .next (if !on then s
    else if min ≤ merit.toNat then s.setLane k { l with merit := merit.toNat }
    else if min ≤ retrained.toNat then s.setLane k { l with merit := retrained.toNat }
    else s.setLane k { l with merit := retrained.toNat, state := .failed })

/-! ### Remaps (05 R140 to R142) -/

/-- The first boundary at least some ns ahead (02 R64). -/
def State.firstBell (s : State) (ns : Nat) : Nat :=
  if ns * 2 ^ 32 ≤ s.nextBoundary - s.ruling.1 then s.time.bell + 1
  else s.time.bell + 1 + ceilDiv (ns * 2 ^ 32 - (s.nextBoundary - s.ruling.1)) (s.period * 2 ^ 32)

/-- R141 allows one more remap of a port and direction. -/
def State.remapAllowed (s : State) (p : Nat) (inward : Bool) : Bool :=
  !(s.remaps.any fun r => r.port == p && r.inward == inward)
    && decide ((s.remaps.filter fun r => r.port / 16 == p / 16 && r.inward == inward).length < 2)

/-- Schedule a remap of a port's direction to a spare lane. -/
def State.scheduleRemap (s : State) (p : Nat) (inward : Bool) (spare bell : Nat) (token : Option Nat) : State :=
  match s.laneOf inward p with
  | none => s
  | some old =>
    let s := s.modLane spare fun l => { l with state := .remapPending }
    { s with remaps := s.remaps ++ [{ port := p, inward, spare, old, bell, stage := .scheduled, token }] }

/-- A working lane stays below merit_floor (05 R140): a remap by the module, or before TB0 bells a retrain. -/
def State.lowMerit (s : State) (k merit : Nat) : State :=
  let t := k / 18 % 64
  let inward := decide (64 ≤ k / 18)
  let l := s.laneAt k
  if l.state != .inService || s.obj (Obj.meritFloor t) ≤ merit then s
  else
    let s := s.setLane k { l with merit := merit }
    let p := 16 * t + l.port
    if !s.time.onTb0 then s.startRetrain p
    else if !s.flag (Obj.autoRemap t) || !s.remapAllowed p inward then s
    else match s.spares inward t with
      | [] => s
      | spare :: _ => s.scheduleRemap p inward spare (s.firstBell 400) none

/-- LOW_MERIT_DETECTED (05 R140). -/
def execLowMeritDetected (t : Stall) (lane : Fin 18) (inward : Bool) (merit : Byte) (s : State) : Result :=
  .next (s.lowMerit (laneKey inward t.val lane.val) merit.toNat)

/-- The remap of a port's direction. -/
def State.remapOf (s : State) (p : Nat) (inward : Bool) : Option Remap :=
  s.remaps.find? fun r => r.port == p && r.inward == inward

/-- Change a remap's stage. -/
def State.remapStage (s : State) (r : Remap) (st : RemapStage) : State :=
  { s with remaps := s.remaps.map fun x => if x == r then { x with stage := st } else x }

/-- REMAP_START (05 R140, C + 0): the spare leaves idle. -/
def execRemapStart (p : Port) (inward : Bool) (s : State) : Result :=
  .next (match s.remapOf p.val inward with
    | some r => if r.stage == .scheduled then (s.remapStage r .started).wakeTally else s
    | none => s)

/-- A remap is not made (05 R141, R142). -/
def State.failRemap (s : State) (r : Remap) : State :=
  let s := { s with remaps := s.remaps.filter (· != r) }
  let s := s.modLane r.spare fun l => { l with state := .idle }
  let s := match r.token with
    | some k => s.endFailedAt k 10 1
    | none => s
  if (s.spares r.inward (r.port / 16)).isEmpty then s.dropNext r.port else s

/-- REMAP_READINESS_CHECK (05 R140, R141, M − 200 ns). -/
def execRemapReadinessCheck (p : Port) (inward : Bool) (locked : Bool) (s : State) : Result :=
  .next (match s.remapOf p.val inward with
    | some r =>
      if r.stage == .scheduled || r.stage == .started then
        if locked then s.remapStage r .ready else s.failRemap r
      else s
    | none => s)

/-- At M the receiver selects the spare (05 R140); a remap that is not ready is not made. -/
def State.remapDue (s : State) (r : Remap) : State :=
  if !s.reached r.token r.bell || r.stage == .switched then s
  else if r.stage != .ready then s.failRemap r
  else
    let s := s.modLane r.spare fun l =>
      { l with state := .inService, port := r.port % 16, remaps := (l.remaps + 1) % 65536 }
    let s := s.modLane r.old fun l => { l with port := 31 }
    let s := (s.remapStage r .switched).count (r.port / 16) 0x405 1
    match r.token with
    | some k => s.endDone k
    | none => s

/-- REMAP_SWITCH (05 R140). -/
def execRemapSwitch (p : Port) (inward : Bool) (s : State) : Result :=
  .next (match s.remapOf p.val inward with
    | some r => s.remapDue r
    | none => s)

/-- Every remap due at the boundary. -/
def State.remapsDue (s : State) : State := s.remaps.foldl State.remapDue s

/-- OLD_LANE_IDLE (05 R140, M+1): the old lane rests, a spare at or above merit_min, otherwise failed. -/
def execOldLaneIdle (p : Port) (inward : Bool) (merit : Byte) (s : State) : Result :=
  .next (match s.remapOf p.val inward with
    | some r =>
      if r.stage == .switched then
        let s := { s with remaps := s.remaps.filter (· != r) }
        s.modLane r.old fun l => { l with
          merit := merit.toNat
          state := if s.obj (Obj.meritMin (p.val / 16)) ≤ merit.toNat then .idle else .failed }
      else s
    | none => s)

/-- lane_out and lane_in (05 R165). -/
def LaneSt.word (l : LaneSt) : Nat :=
  l.merit % 256 + (l.port % 32) * 2 ^ 8 + (match l.state with
    | .idle => 0
    | .training => 1
    | .inService => 2
    | .failed => 3
    | .remapPending => 4) * 2 ^ 13 + (l.remaps % 65536) * 2 ^ 16

end Sys2Proof.Machine
end

