-- ==== Sys2Proof/Machine/Openings.lean ====
section
/-! DEFINITION. Opening, closing and freeing groups (09 R263 to R268, R296; 15 R480). -/

namespace Sys2Proof.Machine

/-! ### Leases (15 R480) -/

/-- Pitches whose lease is not empty. -/
def State.leasedPitches (s : State) : List Nat :=
  (s.objs.filter fun e => e.1 % 256 == (Obj.leaseCount 0).key % 256 && decide (0x2000 ≤ e.1 / 256)
    && decide (e.1 / 256 < 0x3000) && e.2 != 0).map fun e => e.1 / 256 - 0x2000

/-- The pitch that a group ID is leased to. -/
def State.leaseOwner (s : State) (g : Nat) : Nat :=
  (s.leasedPitches.find? fun p =>
    decide (s.obj (Obj.leaseBase p) ≤ g) && decide (g < s.obj (Obj.leaseBase p) + s.obj (Obj.leaseCount p))).getD 0

/-! ### The group record (09 R264) -/

/-- Code of a group's state. -/
def GroupState.code : GroupState → Nat
  | .free => 0
  | .scheduled => 1
  | .opened => 2
  | .closing => 3

/-- Contexts that a group holds. -/
def State.contextsOf (s : State) (g : Nat) : Nat := (s.coll.ctxs.filter fun c => c.live && c.group == g).length

/-- A group record of 64 bytes. -/
def State.groupRecord (s : State) (g : Nat) : Nat :=
  let x := s.group g
  g % 65536 + (x.pitch % 4096) * 2 ^ 16 + (x.kind % 16) * 2 ^ 28 + (x.generation % 65536) * 2 ^ 32
    + x.state.code * 2 ^ 48 + (x.ghome % 64) * 2 ^ 50 + (x.inFormat % 16) * 2 ^ 64 + (x.outFormat % 16) * 2 ^ 68
    + (x.op % 16) * 2 ^ 72 + b2n x.exact * 2 ^ 76 + b2n x.stochastic * 2 ^ 77 + (x.rescale % 4) * 2 ^ 78
    + (x.mxVariant % 2) * 2 ^ 80 + (x.headroom % 16) * 2 ^ 81 + (x.chunkElements % 2 ^ 17) * 2 ^ 88
    + (x.expected % 2048) * 2 ^ 112 + (x.patience % 65536) * 2 ^ 128 + (x.stagingMin % 8192) * 2 ^ 144
    + (x.queueDepth % 32) * 2 ^ 160 + (x.sinkSlots % 128) * 2 ^ 168 + (x.root % 1024) * 2 ^ 176
    + s.stallMask g * 2 ^ 192 + ofSigned 16 x.exactQ * 2 ^ 256 + (x.outFrameData % 65536) * 2 ^ 288
    + (s.spillHeld g % 65536) * 2 ^ 304 + (s.contextsOf g % 65536) * 2 ^ 320

/-- ⌈log₂ n⌉. -/
def ceilLog2 (n : Nat) : Nat := if n ≤ 1 then 0 else Nat.log2 (n - 1) + 1

/-- The record word that OPEN_GROUP gives: arg0 to arg4 (17 R540). -/
def openWord (args : Tbl Nat) : Nat :=
  (upTo 5).foldl (fun w i => w + argOf args i % 2 ^ 64 * 2 ^ (64 * i)) 0

/-- The group that OPEN_GROUP asks for, defaults taken (17 R540). -/
def State.openRecord (s : State) (args : Tbl Nat) : GroupSt :=
  let w := openWord args
  let d := argOf args 5
  let expected := bits w 112 11
  { pitch := bits w 16 12, kind := bits w 28 4, inFormat := bits w 64 4, outFormat := bits w 68 4
    op := bits w 72 4, exact := bit w 76, stochastic := bit w 77, rescale := bits w 78 2
    mxVariant := bits w 80 1, headroom := if bit d 4 then ceilLog2 expected else bits w 81 4
    chunkElements := bits w 88 17, expected
    patience := if bit d 0 then s.obj Obj.defaultPatience else bits w 128 16
    stagingMin := if bit d 2 then s.obj Obj.defaultStagingMin else bits w 144 13
    queueDepth := if bit d 1 then s.obj Obj.defaultQueueDepth else bits w 160 5
    sinkSlots := bits w 168 7, root := bits w 176 10
    exactQ := if bit d 3 then s.objI Obj.defaultExactQ else toSigned 16 (bits w 256 16)
    ports := (upTo 1024).filter fun p => bit (argOf args (16 + p / 64)) (p % 64) }

/-- Bits of arg0 to arg4 that the record names for OPEN_GROUP, the ignored ones among them. -/
def openMask : Nat :=
  maskBits 55 0 + maskBits 84 64 + maskBits 104 88 + maskBits 122 112 + maskBits 156 128 + maskBits 164 160
    + maskBits 174 168 + maskBits 185 176 + maskBits 271 192 + maskBits 319 288

/-- Fields outside their ranges, or reserved bits not 0: a bad argument (09 R264, R287; 17 R540). -/
def badOpen (args : Tbl Nat) (x : GroupSt) : Bool :=
  !onlyBits (openWord args) openMask || !onlyBits (argOf args 5) (maskBits 4 0)
    || !onlyArgs args ((upTo 6) ++ (upTo 16).map (16 + ·))
    || decide (5 < x.kind) || decide (3 < x.op) || (decide (2 ≤ x.kind) && x.op != 0) || x.rescale == 3
    || decide (10 < x.headroom) || decide (1024 < x.expected) || x.patience == 0 || decide (4096 < x.stagingMin)
    || x.queueDepth == 0 || decide (16 < x.queueDepth) || decide (64 < x.sinkSlots)
    || decide (x.exactQ < -160) || decide (32 < x.exactQ)

/-- chunk_elements keeps 09 R275. -/
def chunkOk (x : GroupSt) : Bool :=
  x.chunkElements % (if isMx x.inFormat then 256 else 8) == 0
    && decide (dataBytes x.inFormat x.chunkElements ≤ 65536)
    && decide (x.chunkElements * accWidth x.inFormat x.exact ≤ 131072)

/-- Groups homed at a stall, and queue entries reserved there (09 R266, R271). -/
def State.groupsHomed (s : State) (t : Nat) : List GroupSt :=
  (s.coll.groups.filter fun e => e.2.state != .free && e.2.ghome == t).map (·.2)

def State.queueEntries (s : State) (t : Nat) : Nat := (s.groupsHomed t).foldl (fun n x => n + x.queueDepth) 0

/-- The first free entries of a stall's queue space (log 111). -/
def State.freeRing (s : State) (t n : Nat) : List Nat :=
  let held := (s.groupsHomed t).flatMap (·.ring)
  ((upTo 4096).filter fun i => !held.contains i).take n

/-- The stall with the fewest groups homed (09 R266). -/
def State.chooseHome (s : State) : Nat := (least (fun t => (s.groupsHomed t).length) (upTo 64)).getD 0

/-- Why OPEN_GROUP is refused (09 R265; 15 R480; 17 R541). -/
def State.openCheck (s : State) (args : Tbl Nat) : Refused :=
  let g := bits (openWord args) 0 16
  let x := s.openRecord args
  if badOpen args x then some (2, 0)
  else firstCase [
    ((s.group g).state != .free || s.leaseOwner g != x.pitch, 8),
    (!s.pitchAdmitted x.pitch, 8),
    (x.ports.any fun p => (s.port p).phys == .lent || !s.isLowest p, 2),
    (!chunkOk x, 2),
    (x.exact && (decide (2 ≤ x.op) || !hasExact x.inFormat), 2),
    (isMx x.outFormat && !isMx x.inFormat && x.rescale == 0, 2),
    (!outPermitted x.inFormat x.outFormat, 2),
    (decide (s.obj Obj.spillReservable < s.spillReserved + x.stagingMin), 9),
    (decide (4096 < s.queueEntries s.chooseHome + x.queueDepth), 9)]

/-- out_frame_data of a group: the smallest payload negotiated on its member ports, less 8, in whole units
(09 R296). With no member port it is 0. -/
def State.frameData (s : State) (x : GroupSt) : Nat :=
  let ns := x.ports.map fun p => min (s.port p).maxPayload (s.port p).peerPayload
  match ns with
  | [] => 0
  | n :: rest =>
    let m := rest.foldl min n - 8
    m / unitBytesOf x.outFormat * unitBytesOf x.outFormat

/-- OPEN_GROUP is taken (09 R264 to R267, R296). -/
def State.openTake (s : State) (token bell : Nat) (args : Tbl Nat) : State :=
  let g := bits (openWord args) 0 16
  let x := s.openRecord args
  let x := { x with
    state := .scheduled, generation := ((s.group g).generation + 1) % 65536, ghome := s.chooseHome
    openAt := bell, token, outFrameData := s.frameData x, ring := s.freeRing s.chooseHome x.queueDepth }
  let s := s.setGroup g x
  let s := { s with coll := { s.coll with
    queues := Tbl.erase s.coll.queues g, ended := Tbl.erase s.coll.ended g } }
  ((s.setResult token 0 x.generation).setResult token 1 x.ghome).setResult token 2 x.outFrameData

/-- Write a group's multicast bitmaps from its member ports, or clear them (06 R193). -/
def State.writeBitmaps (s : State) (g : Nat) (ports : List Nat) : State :=
  let old := s.switch.bitmaps.filter fun e => e.1 / 64 != g
  let new := (upTo 64).foldl (fun m t =>
    let w := (ports.filter fun p => p / 16 == t).foldl (fun w p => setBit w (p % 16)) 0
    if w = 0 then m else Tbl.set m (64 * g + t) w) old
  { s with switch := { s.switch with bitmaps := new } }

/-- An opening that never happens: the record is free, its generation kept (09 R268, 17 R543). -/
def State.openUndone (s : State) (g : Nat) : State :=
  s.setGroup g { generation := (s.group g).generation }

/-- A condition of OPEN_GROUP that no longer holds at G (17 R535): its position in 09 R265. -/
def State.openBroken (s : State) (g : Nat) : Refused :=
  let x := s.group g
  firstCase [
    (s.leaseOwner g != x.pitch, 8),
    (!s.pitchAdmitted x.pitch, 8),
    (x.ports.any fun p => (s.port p).phys == .lent || !s.isLowest p, 8)]

/-- The group opens at G (09 R263, R296). -/
def State.openDue (s : State) (g : Nat) : State :=
  let x := s.group g
  if x.state != .scheduled || !s.reached (some x.token) x.openAt then s
  else match s.openBroken g with
    | some (code, pos) => (s.openUndone g).endFailedAt x.token code pos
    | none =>
      let n := s.frameData x
      let s := s.setGroup g { x with state := .opened, outFrameData := n }
      let s := (s.writeBitmaps g x.ports).setResult x.token 2 n
      s.endDone x.token

/-- GROUP_OPEN_AT_G (09 R263). -/
def execGroupOpenAtG (g : Group) (s : State) : Result := .next (s.openDue g.val)

/-- Why CLOSE_GROUP is refused (17 R541). -/
def State.closeCheck (s : State) (args : Tbl Nat) : Refused :=
  let w := argOf args 0
  let x := s.group (bits w 0 16)
  if !onlyBits w (maskBits 27 0) || !onlyArgs args [0] then some (2, 0)
  else if x.state != .free && x.pitch != bits w 16 12 then some (8, 0)
  else none

/-- CLOSE_GROUP is taken (09 R268): done at once where the group is closing or free. -/
def State.closeTake (s : State) (token : Nat) (args : Tbl Nat) : State :=
  let x := s.group (bits (argOf args 0) 0 16)
  if x.state == .free || x.state == .closing then s.endDone token else s

/-- The group is closing from C; one still scheduled is free without opening (09 R268; 10 R325). -/
def State.closeDue (s : State) (g : Nat) : State :=
  let x := s.group g
  let tokens := s.dueOn 0x04 0 16 g
  if tokens.isEmpty then s
  else match x.state with
    | .free => s.endAll tokens
    | .scheduled =>
      let s := (s.openUndone g).endFailed x.token 14
      s.endAll (s.busyOn 0x04 0 16 g)
    | .opened =>
      let s := s.setGroup g { x with state := .closing }
      (s.markAll tokens).freeKeptOf g none
    | .closing => s.markAll tokens

/-- GROUP_CLOSING_AT_C (09 R268). -/
def execGroupClosingAtC (g : Group) (s : State) : Result := .next (s.closeDue g.val)

/-- Something of the group is still held: contexts, sink entries, queued frames (09 R268). -/
def State.groupHolds (s : State) (g : Nat) : Bool :=
  s.coll.ctxs.any (fun c => c.group == g)
    || s.coll.rounds.any (fun r => r.group == g)
    || s.coll.sinks.any (fun e => e.1 / 64 == g)
    || s.coll.endPosts.any (fun p => p.1 == g)
    || s.coll.aborts.any (fun a => a.group == g)
    || s.switch.genWait.any (fun w => w.frame.group == g && w.frame.ftype != 1)
    || s.switch.flights.any (fun e => e.2.inPort.isNone && e.2.frame.group == g
        && (e.2.frame.ftype == 3 || e.2.frame.ftype == 4 || e.2.frame.ftype == 6 || match e.2.route with
            | .multicast h _ => h == g
            | _ => false))

/-- The pair record of a group that is released is free (14 R454); a command still busy on it fails. -/
def State.freePairOf (s : State) (g : Nat) : State :=
  match s.pairOfGroup g with
  | none => s
  | some k => (s.setPair k {}).endFailed (s.pair k).token 8

/-- A closing group that holds nothing is free at a boundary after C (09 R268). -/
def State.groupFree (s : State) (g : Nat) : State :=
  let x := s.group g
  if x.state != .closing || s.groupHolds g then s
  else
    let s := (s.writeBitmaps g []).freePairOf g
    let s := s.setGroup g { generation := x.generation }
    let s := { s with coll := { s.coll with queues := Tbl.erase s.coll.queues g } }
    s.endAll (s.busyOn 0x04 0 16 g)

/-- GROUP_FREE (09 R268). -/
def execGroupFree (g : Group) (s : State) : Result := .next (s.groupFree g.val)

/-- groups_open (09 R307). -/
def State.groupsOpen (s : State) : Nat := (s.coll.groups.filter fun e => e.2.state != .free).length

/-- The group of a command's token. -/
def State.groupOfToken (s : State) (token : Nat) : Option Nat :=
  (s.coll.groups.find? fun e => e.2.state == .scheduled && e.2.token == token).map (·.1)

end Sys2Proof.Machine
end

