-- ==== Sys2Proof/Machine/Optics.lean ====
section
/-! DEFINITION. Optical engines, laser packs, shutters, wavelength moves, calibration, fades and
thoroughfares (04; 03 R81). Fiber key t is TX fiber t, 64 + t is RX fiber t. -/

namespace Sys2Proof.Machine

/-- TX fibers of an engine; RX fiber t has key 64 + t. -/
def engineFibers (e : Nat) : List Nat := [4 * e, 4 * e + 1, 4 * e + 2, 4 * e + 3]

/-- Ports of an engine. -/
def enginePorts (e : Nat) : List Nat := (upTo 64).map (64 * e + ·)

/-- Fiber key of a direction. -/
def fiberKey (t : Nat) (rx : Bool) : Nat := if rx then 64 + t else t

/-- Engine of a fiber. -/
def engineOf (t : Nat) : Nat := t % 64 / 4

/-- The port with a home wavelength on a fiber (04 R99). -/
def portOn (t home : Nat) : Nat := 16 * t + home

/-- Carrier of a port's direction. -/
def State.carrier (s : State) (t : Nat) (rx : Bool) (home : Nat) : Nat :=
  Tbl.get s.optics.carriers (16 * fiberKey t rx + home) home

def State.setCarrier (s : State) (t : Nat) (rx : Bool) (home c : Nat) : State :=
  let k := 16 * fiberKey t rx + home
  let cs := if c = home then Tbl.erase s.optics.carriers k else Tbl.set s.optics.carriers k c
  { s with optics := { s.optics with carriers := cs } }

/-- The port is out of service for optics: dropped or lent. -/
def State.portOut (s : State) (p : Nat) : Bool :=
  (s.port p).phys == .dropped || (s.port p).phys == .lent

/-- A carrier is used by some port of a fiber's direction. -/
def State.carrierUsed (s : State) (t : Nat) (rx : Bool) (c : Nat) : Bool :=
  (upTo 16).any fun h => s.carrier t rx h == c && !s.portOut (portOn t h)

/-- A carrier is used, or a move to it is pending, or one from it has not let it go yet (04 R99, R110). -/
def State.carrierBusy (s : State) (t : Nat) (rx : Bool) (c : Nat) : Bool :=
  s.carrierUsed t rx c || s.optics.moves.any fun m =>
    m.fiber == t && m.rx == rx && (if m.stage == .switched then m.src == c else m.dst == c)

/-- A thoroughfare that exists uses TX fiber t (04 R103, R105). -/
def State.thoroOnTx (s : State) (t : Nat) : Bool :=
  s.optics.thoros.any fun x => x.1 / 8 == engineOf t && x.2.active && 4 * (x.1 / 8) + x.2.tx == t

/-! ### Laser packs (04 R101 to R105) -/

/-- "DVZ-LP18" as the first bytes of pack_type. -/
def packTypeWord : Nat := leNat [0x44, 0x56, 0x5A, 0x2D, 0x4C, 0x50, 0x31, 0x38]

/-- The identity store names the accepted type and passes its check. -/
def packAccepted (i : PackIdentity) : Bool := i.ok && i.packType.toNat == packTypeWord

/-- Code of bay_state (04 R132). -/
def BayState.code : BayState → Nat
  | .empty => 0
  | .present => 1
  | .starting => 2
  | .lit => 3
  | .prepared => 4
  | .rejected => 5
  | .fault => 6

/-- Code of engine_state (04 R131). -/
def EngineState.code : EngineState → Nat
  | .off => 0
  | .noPack => 1
  | .starting => 2
  | .running => 3
  | .prepared => 4
  | .fault => 5

/-- An event of an engine's pack. -/
def State.packEvent (s : State) (e : Nat) (o : Obj) (arg : Nat) : State := s.eventAt 9 e o arg

/-- The bay's identity check (04 R101). -/
def State.checkPack (s : State) (e : Nat) : State :=
  let p := s.pack e
  match p.ident with
  | none => s
  | some i =>
    if packAccepted i then s.setPack e { p with bay := .present, stage := 0 }
    else (s.setPack e { p with bay := .rejected }).packEvent e (Obj.bayState e) BayState.rejected.code

/-- PACK_INSERT (04 R101, R102): the fade history of the previous pack is cleared. -/
def execPackInsert (e : Engine) (ident : PackIdentity) (s : State) : Result :=
  .next (if (s.pack e.val).bay != .empty then s
    else
      let s := s.setPack e.val { bay := .present, ident := some ident, fresh := true }
      let s := s.modEngine e.val fun x =>
        { x with on17 := none, on16 := none, ready17 := false, ready16 := false }
      s.checkPack e.val)

/-- Light arrives on an RX fiber: it has been seen and not been lost since (03 R81). -/
def State.lightOn (s : State) (t : Nat) : Bool := (s.fiber (64 + t)).lit && !(s.fiber (64 + t)).dark

/-- The shutters of an engine follow R81 of 03: those whose RX fiber shows light open. -/
def State.openShutters (s : State) (e : Nat) : State :=
  s.each (engineFibers e) fun s t => if s.lightOn t then s.modFiber t fun f => { f with shut := false } else s

/-- Ports of an engine that runs return on their home carriers (04 R102, R124): with a new pack all but those lent, with
the same one only those that left with its lasers. -/
def State.engineUp (s : State) (e : Nat) (fresh : Bool) : State :=
  let s := s.modEngine e fun x =>
    { x with state := .running, on17 := none, on16 := none, ready17 := false, ready16 := false }
  (enginePorts e).foldl (fun s p =>
    let x := s.port p
    if x.phys == .lent || x.phys == .dropped && !fresh && !x.prepOut then s
    else
      let t := p / 16
      let s := (s.setCarrier t false (p % 16) (p % 16)).setCarrier t true (p % 16) (p % 16)
      let s := s.modPort p fun x =>
        { x with phys := if x.phys == .dropped then .down else x.phys, dropDue := false, prepOut := false }
      s.portLanes p) s

/-- The pack is lit: working lasers on, spares idle (04 R102). -/
def State.packLit (s : State) (e : Nat) : State :=
  let fresh := (s.pack e).fresh
  ((s.modPack e fun p => { p with
    bay := .lit, stage := 5, lit := 0xFFFF, warned := 0, lost := 0, fresh := false, warnRuns := []
    prepareAt := none, draining := false, unlocked := false, indicator := false }).openShutters e).engineUp e fresh

/-- Lasers lit after a number of stages (04 R102). -/
def litAfter (stage : Nat) : Nat := [0, 0x3F, 0xFFF, 0x3FFFF].getD (min stage 3) 0

/-- The next stage of bring-up ends (04 R102): each of the three groups of lasers is lit once the tally
admits it. -/
def State.packStage (s : State) (e : Nat) : State :=
  let p := s.pack e
  if !(s.power.released && (p.bay == .present || p.bay == .starting)) then s
  else if 4 ≤ p.stage then s.packLit e
  else
    let (s, admitted) := if p.stage < 3 then s.askTally (.lasers e) 4000 else (s, true)
    s.when admitted fun s =>
      (s.setPack e { p with bay := .starting, stage := p.stage + 1, lit := litAfter (p.stage + 1) }).modEngine e
        fun x => { x with state := .starting }

/-- PACK_START_STAGE (04 R102). -/
def execPackStartStage (e : Engine) (s : State) : Result := .next (s.packStage e.val)

/-- A write of 1 to pack_control (04 R103). -/
def State.packPrepare (s : State) (e : Nat) : State :=
  if (s.pack e).bay == .lit then s.modPack e fun p => { p with prepareAt := some (s.time.rung + 1) } else s

/-- The boundary at which a prepared engine's ports leave (04 R103): what is queued for them still drains. -/
def State.packBoundary (s : State) (e : Nat) : State :=
  match (s.pack e).prepareAt with
  | some n =>
    if n ≤ s.time.rung then
      let s := s.modPack e fun p => { p with prepareAt := none, draining := true }
      s.each (enginePorts e) fun s p => s.modPort p fun x =>
        { x with inBundle := false, joinDue := false, leaveDue := false }
    else s
  | none => s

/-- Every port of an engine but those lent drops out (04 R103, R104, R124). -/
def State.dropEngine (s : State) (e : Nat) : State :=
  (enginePorts e).foldl (fun s p =>
    if (s.port p).phys == .lent || (s.port p).phys == .dropped then s
    else (s.dropOut p .dropped).modPort p fun x => { x with prepOut := true }) s

/-- Pending moves and calibration slots on an engine's fibers end with its lasers. -/
def State.dropMoves (s : State) (e : Nat) : State :=
  let s := { s with optics := { s.optics with
    moves := s.optics.moves.filter fun m => engineOf m.fiber != e
    wishes := s.optics.wishes.filter fun w => engineOf w.fiber != e
    retries := s.optics.retries.filter fun r => engineOf r.1 != e } }
  let s := s.dropSteps fun x => match x with
    | .lasers e' => e' == e
    | .laser e' _ => e' == e
    | _ => false
  s.each (engineFibers e ++ (engineFibers e).map (64 + ·)) fun s k =>
    s.modFiber k fun f => { f with calPhase := .idle, calHome := none }

/-- All lasers of a pack are off. -/
def State.lasersOff (s : State) (e : Nat) : State :=
  let s := s.modEngine e fun x => { x with on17 := none, on16 := none, ready17 := false, ready16 := false }
  ((s.modPack e fun p => { p with lit := 0, draining := false, prepareAt := none }).dropMoves e).dropEngine e

/-- PACK_PREPARE_DRAIN_END (04 R103). -/
def State.preparedNow (s : State) (e : Nat) : State :=
  if !(s.pack e).draining then s
  else
    let s := s.lasersOff e
    let s := s.each (engineFibers e) fun s t =>
      if s.thoroOnTx t then s else s.modFiber t fun f => { f with shut := true }
    let s := s.modPack e fun p => { p with bay := .prepared, unlocked := true, indicator := true }
    s.modEngine e fun x => { x with state := .prepared }

/-- PACK_PREPARE_DRAIN_END. -/
def execPackPrepareDrainEnd (e : Engine) (s : State) : Result := .next (s.preparedNow e.val)

/-- A write of 2 to pack_control (04 R103): the lasers are lit again and the ports return as at insertion. -/
def State.packCancelPrepare (s : State) (e : Nat) : State :=
  let p := s.pack e
  if p.bay == .prepared then
    let s := s.setPack e { p with bay := .starting, stage := 0, unlocked := false, indicator := false }
    s.modEngine e fun x => { x with state := .starting }
  else if p.draining then
    let s := s.setPack e { p with draining := false }
    s.each (enginePorts e) fun s q => s.modPort q fun x => { x with joinDue := x.link == .up }
  else s.setPack e { p with prepareAt := none }

/-- A write of 3 to pack_control (04 R132). -/
def State.packRestart (s : State) (e : Nat) : State :=
  if (s.pack e).bay == .rejected || (s.pack e).bay == .fault then s.checkPack e else s

/-- PACK_PULL (04 R104): shutters are not closed by the pull. -/
def execPackPull (e : Engine) (s : State) : Result :=
  .next (if (s.pack e.val).bay == .empty || (s.pack e.val).bay == .prepared then s
    else
      let s := s.lasersOff e.val
      let s := s.setPack e.val {}
      let s := s.modEngine e.val fun x => { x with state := .noPack }
      s.packEvent e.val (Obj.bayState e.val) 0)

/-- PREPARED_PACK_REMOVAL (04 R103). -/
def execPreparedPackRemoval (e : Engine) (s : State) : Result :=
  .next (if (s.pack e.val).bay == .prepared then
      let s := s.setPack e.val {}
      s.modEngine e.val fun x => { x with state := .noPack }
    else s)

/-- Engine e starts with the die (03 R88, 04 R102). -/
def State.startEngine (s : State) (e : Nat) : State :=
  match (s.pack e).ident with
  | none => s.modEngine e fun x => { x with state := .noPack }
  | some i =>
    if packAccepted i && (s.pack e).bay != .rejected then s.packLit e
    else s.modEngine e fun x => { x with state := .fault }

/-! ### Shutters (03 R81) -/

/-- LOSS_OF_LIGHT (03 R81). -/
def execLossOfLight (t : Fiber) (s : State) : Result :=
  let k := 64 + t.val
  .next (if (s.fiber k).dark then s
    else
      let s := s.modFiber k fun f => { f with dark := true }
      (s.modFiber t.val fun f => { f with shut := true }).when (!(s.fiber t.val).shut) fun s =>
        s.bump (Obj.shutterClosures t.val))

/-- PROBE_BURST (03 R81). -/
def execProbeBurst (t : Fiber) (s : State) : Result :=
  .next (if (s.fiber t.val).shut && (s.fiber (64 + t.val)).dark then
      s.modFiber t.val fun f => { f with probes := f.probes + 1 }
    else s)

/-- LIGHT_RESTORED (03 R81): the shutter of a prepared engine stays closed (04 R103). -/
def execLightRestored (t : Fiber) (s : State) : Result :=
  let s := s.modFiber (64 + t.val) fun f => { f with dark := false, lit := true }
  .next (if (s.pack (engineOf t.val)).bay == .prepared && !s.thoroOnTx t.val then s
    else s.modFiber t.val fun f => { f with shut := false })

/-- The engine's pack is turned down to Class 1: all its TX shutters are closed (04 R106). -/
def State.classOne (s : State) (e : Nat) : Bool := (engineFibers e).all fun t => (s.fiber t).shut

/-! ### Move messages (04 R109) -/

/-- A move message. -/
def moveMsg (kind dir reason home src dst token bell : Nat) : Nat :=
  kind % 16 + dir * 2 ^ 4 + (reason % 8) * 2 ^ 5 + (home % 16) * 2 ^ 8 + (src % 32) * 2 ^ 12
    + (dst % 32) * 2 ^ 17 + (token % 65536) * 2 ^ 32 + (bell % 2 ^ 64) * 2 ^ 48

/-- A working port of a fiber. -/
def State.workingPort (s : State) (t : Nat) : Option Nat :=
  ((upTo 16).map (portOn t)).find? fun p =>
    (s.port p).phys == .optical && s.portUp (s.portLow p)

/-- Send a move message to the leaf of a fiber. -/
def State.sendMove (s : State) (t msg : Nat) : State :=
  match s.workingPort t with
  | some p => s.sendLink (s.portLow p) (s.linkFrame 2 (leBytes 16 msg))
  | none => s

/-- The message of a move, of a kind, as the module sends it: the direction bit is 0 for its own transmit. -/
def Move.msg (m : Move) (kind : Nat) : Nat :=
  moveMsg kind (b2n m.rx) m.reason m.home m.src m.dst m.token m.bell

/-- An answer or a cancel for a move. -/
def State.sayMove (s : State) (m : Move) (kind : Nat) : State := s.sendMove m.fiber (m.msg kind)

def State.dropMove (s : State) (m : Move) : State :=
  { s with optics := { s.optics with moves := s.optics.moves.filter (· != m) } }

def State.putMove (s : State) (m m' : Move) : State :=
  { s with optics := { s.optics with moves := s.optics.moves.map fun x => if x == m then m' else x } }

/-- The pending move of a port's direction. -/
def State.moveOf (s : State) (t : Nat) (rx : Bool) (home : Nat) : Option Move :=
  s.optics.moves.find? fun m => m.fiber == t && m.rx == rx && m.home == home && m.stage != .switched

/-- Moves may be proposed and accepted on a fiber's direction (04 R112). -/
def State.mayMove (s : State) (t : Nat) (rx : Bool) : Bool :=
  s.time.onTb0 && (s.fiber (fiberKey t rx)).moveCapable

/-- move_lead in ns of a fiber's engine. -/
def State.moveLeadNs (s : State) (t : Nat) : Nat := s.obj (Obj.moveLead (engineOf t)) * 1000

/-- Propose a move now (04 R110). -/
def State.propose (s : State) (w : Wish) : State :=
  let m : Move := { fiber := w.fiber, rx := w.rx, home := w.home, src := s.carrier w.fiber w.rx w.home, dst := w.dst
                    token := (s.optics.moveToken + 1) % 65536
                    bell := s.firstBell (max w.ns (s.moveLeadNs w.fiber))
                    reason := w.reason, ours := true, stage := .proposed, since := s.time.rung, tries := w.tries }
  let s := { s with optics := { s.optics with
    moves := s.optics.moves ++ [m], moveToken := (s.optics.moveToken + 1) % 65536 } }
  s.sayMove m 1

/-- A move to be proposed has lost its object: the port is out, or its partner cannot move (04 R112, R124, R127). -/
def State.wishDead (s : State) (w : Wish) : Bool :=
  s.portOut (portOn w.fiber w.home) || !(s.fiber (fiberKey w.fiber w.rx)).moveCapable

/-- The spare that a fade waits for is lit and tuned. -/
def State.spareReady (s : State) (e c : Nat) : Bool :=
  if c = 17 then (s.engine e).ready17 else (s.engine e).ready16

/-- A move may be proposed now: bells run on TB0, no move of its direction is pending, the boundary of one that was
cancelled has come, the spare is ready and its laser lit, and no port uses the new carrier (04 R99, R110, R112,
R113, R118). -/
def State.wishReady (s : State) (w : Wish) : Bool :=
  s.mayMove w.fiber w.rx && (s.moveOf w.fiber w.rx w.home).isNone && decide (w.bell ≤ s.time.bell)
    && (w.reason != 2 || s.spareReady (engineOf w.fiber) w.dst) && !s.carrierBusy w.fiber w.rx w.dst
    && (w.rx || decide (w.dst < 16) || bit (s.pack (engineOf w.fiber)).lit w.dst)

/-- Remove a move to be proposed. -/
def State.dropWish (s : State) (w : Wish) : State :=
  { s with optics := { s.optics with wishes := s.optics.wishes.filter (· != w) } }

/-- A calibration slot on a fiber ends. -/
def State.calEnd (s : State) (k : Nat) : State :=
  s.modFiber k fun f => { f with calPhase := .idle, calHome := none }

/-- A calibration slot ends with the port that it held. -/
def State.endSlot (s : State) (w : Wish) : State :=
  let k := fiberKey w.fiber w.rx
  if (s.fiber k).calHome == some w.home then s.calEnd k else s

/-- Propose what may be proposed now, oldest first. -/
def State.tryWishes (s : State) : State :=
  s.optics.wishes.foldl (fun s w =>
    if s.wishDead w then (s.dropWish w).endSlot w
    else if s.wishReady w then (s.dropWish w).propose w else s) s

/-- Ask for a move. A pending move of the same direction is cancelled, and the new one is proposed no earlier than its
boundary (04 R113). -/
def State.wishMove (s : State) (t : Nat) (rx : Bool) (home dst reason tries ns : Nat) : State :=
  let old := s.moveOf t rx home
  let s := match old with
    | some m => (s.sayMove m 4).dropMove m
    | none => s
  let w : Wish := { fiber := t, rx, home, dst, reason, tries, ns, bell := (old.map (·.bell)).getD 0 }
  ({ s with optics := { s.optics with wishes := s.optics.wishes ++ [w] } } : State).tryWishes

/-! ### Fades (04 R117 to R123) -/

/-- The spare that serves a laser of an engine. -/
def State.spareOf (s : State) (e k : Nat) : Option Nat :=
  if (s.engine e).on17 == some k then some 17
  else if (s.engine e).on16 == some k then some 16 else none

/-- A laser is in use, or will be: by a port, a move, a calibration, or a fade that has not ended. -/
def State.laserBusy (s : State) (e k : Nat) : Bool :=
  (engineFibers e).any fun t =>
    s.carrierBusy t false k || s.optics.retries.contains (t, k)
      || s.optics.moves.any (fun m => m.fiber == t && !m.rx && m.src == k)
      || s.optics.wishes.any fun w => w.fiber == t && !w.rx && (w.home == k || w.dst == k)

/-- A laser that has done its work goes off: a faded one once its four moves are made or have ended, a spare once no
port is on it (04 R102, R118). -/
def State.laserRest (s : State) (e k : Nat) : State :=
  let done := if k < 16 then bit (s.pack e).faded k && (s.spareOf e k).isSome
    else if k = 16 then (s.engine e).on16.isNone else (s.engine e).on17.isNone
  if done && (s.pack e).bay == .lit && bit (s.pack e).lit k && !s.laserBusy e k then
    s.modPack e fun p => { p with lit := clearBit p.lit k }
  else s

/-- Lasers of an engine that have done their work. -/
def State.lasersRest (s : State) (e : Nat) : State := s.each (upTo 18) fun s k => s.laserRest e k

/-- A spare laser is turned on, if it is not lit, once the tally admits it (04 R110, R118; 15 R473). -/
def State.lightSpare (s : State) (e k : Nat) : State :=
  if bit (s.pack e).lit k || (s.pack e).bay != .lit then s
  else
    let (s, admitted) := s.askTally (.laser e k) 1000
    s.when admitted fun s => s.modPack e fun p => { p with lit := setBit p.lit k }

/-- A calibration that waits to move to λ16 ends; one that holds λ16 returns its port first (04 R119). -/
def State.freeSpare (s : State) (t : Nat) : State :=
  match (s.fiber t).calHome with
  | some h =>
    if (s.fiber t).calPhase == .tuning then
      let s := match s.moveOf t false h with
        | some m => (s.sayMove m 4).dropMove m
        | none => s
      let s := { s with optics := { s.optics with wishes := s.optics.wishes.filter fun w =>
        !(w.fiber == t && !w.rx && w.home == h && w.reason == 1) } }
      s.calEnd t
    else if (s.moveOf t false h).isSome || s.optics.wishes.any (fun w => w.fiber == t && !w.rx && w.home == h) then s
    else s.wishMove t false h (if (s.engine (engineOf t)).on17 == some h then 17 else h) 3 1 0
  | none => s

/-- The fade move of a laser's port on a fiber (04 R118 to R120): a calibration move or return to λ17's rival is
cancelled, so that the port goes directly to λ17; to λ16 it goes after its own return. -/
def State.fadeMove (s : State) (t k spare : Nat) : State :=
  if s.portOut (portOn t k) || !(s.fiber t).moveCapable then s
  else
    let s := if spare = 17 then
        let s := { s with optics := { s.optics with wishes := s.optics.wishes.filter fun w =>
          !(w.fiber == t && !w.rx && w.home == k) } }
        if (s.fiber t).calHome == some k && (s.fiber t).calPhase == .tuning then s.calEnd t else s
      else s
    if spare = 17 then s.wishMove t false k 17 2 1 0
    else
      let w : Wish := { fiber := t, rx := false, home := k, dst := spare, reason := 2, tries := 1, ns := 0, bell := 0 }
      { s with optics := { s.optics with wishes := s.optics.wishes ++ [w] } }

/-- Warn on a laser (04 R117 to R120, R122). A port whose partner is not move-capable drops out also where no spare is
free: of R119 and R122 the latter is followed there (log 101). -/
def State.warn (s : State) (e k : Nat) : State :=
  if bit (s.pack e).warned k then s
  else
    let s := s.modPack e fun p => { p with faded := setBit p.faded k, warned := setBit p.warned k }
    let s := s.packEvent e (Obj.laserFaded e) (s.pack e).faded
    if 16 ≤ k then s
    else
      let s := (engineFibers e).foldl (fun s t =>
        if (s.fiber t).moveCapable then s else s.dropNext (portOn t k)) s
      let x := s.engine e
      if x.on17.isNone then
        ((s.setEngine e { x with on17 := some k }).lightSpare e 17).each (engineFibers e) fun s t => s.fadeMove t k 17
      else if x.on16.isNone && s.flag (Obj.calSpareAsFade e) then
        let s := ((s.setEngine e { x with on16 := some k }).lightSpare e 16).each (engineFibers e) State.freeSpare
        s.each (engineFibers e) fun s t => s.fadeMove t k 16
      else s

/-- Fail on a laser: each port that it still carries drops out (04 R121). -/
def State.laserFail (s : State) (e k : Nat) : State :=
  if bit (s.pack e).lost k then s
  else
    let s := s.modPack e fun p => { p with failed := setBit p.failed k, lost := setBit p.lost k }
    let s := s.packEvent e (Obj.laserFailed e) (s.pack e).failed
    (engineFibers e).foldl (fun s t =>
      ((upTo 16).filter fun h => s.carrier t false h == k).foldl (fun s h => s.dropNext (portOn t h)) s) s

/-- One window mean of a laser, in 0.01 dB relative to its reference (04 R117). -/
def State.fadeWindow (s : State) (e k : Nat) (mean : Int) : State :=
  if !bit (s.pack e).lit k then s
  else
    let s := s.putInt (Obj.laserRelPower e k) mean
    let n := if mean ≤ -(s.obj (Obj.fadeWarn e) : Int) then (s.pack e).warnRuns.getD k 0 + 1 else 0
    let s := s.modPack e fun p => { p with warnRuns := listPut 0 p.warnRuns k n }
    let s := if 4 ≤ n then s.warn e k else s
    if mean ≤ -(s.obj (Obj.fadeFail e) : Int) then s.laserFail e k else s

/-- FADE_WINDOW (04 R117). -/
def execFadeWindow (e : Engine) (k : Laser) (mean : Int) (s : State) : Result :=
  .next (s.fadeWindow e.val k.val mean)

/-- SUDDEN_LASER_LOSS (04 R108, R117). -/
def execSuddenLaserLoss (e : Engine) (k : Laser) (s : State) : Result :=
  .next (if bit (s.pack e.val).lit k.val then s.laserFail e.val k.val else s)

/-- FADE_SPARE_READY (04 R118, R119, R123): the spare laser is locked and its rings are tuned, in a pack that is lit. -/
def execFadeSpareReady (e : Engine) (k : Laser) (s : State) : Result :=
  let x := s.engine e.val
  .next (if (s.pack e.val).bay != .lit || !bit (s.pack e.val).lit k.val then s
    else if k.val = 17 && x.on17.isSome && !x.ready17 then
      (s.setEngine e.val { x with ready17 := true }).tryWishes
    else if k.val = 16 && x.on16.isSome && !x.ready16 then
      (s.setEngine e.val { x with ready16 := true }).tryWishes
    else s)

/-- FADE_MOVE_RETRY (04 R123). -/
def execFadeMoveRetry (t : Fiber) (home : Fin 16) (s : State) : Result :=
  .next (if !s.optics.retries.contains (t.val, home.val) then s
    else
      let s := { s with optics := { s.optics with retries := s.optics.retries.erase (t.val, home.val) } }
      match s.spareOf (engineOf t.val) home.val with
      | some c => if s.mayMove t.val false then s.wishMove t.val false home.val c 2 2 0
                  else s.dropNext (portOn t.val home.val)
      | none => s)

/-! ### Moves (04 R110 to R113) -/

/-- A move is not made (04 R111, R123). -/
def State.moveFails (s : State) (m : Move) : State :=
  let s := (s.dropMove m).bump (Obj.movesFailed (engineOf m.fiber))
  match m.reason with
  | 2 =>
    if !m.ours || s.portOut (portOn m.fiber m.home) then s
    else if m.tries < 2 then
      { s with optics := { s.optics with retries := s.optics.retries ++ [(m.fiber, m.home)] } }
    else s.dropNext (portOn m.fiber m.home)
  | 4 => s
  | _ => if m.ours && (s.fiber (fiberKey m.fiber m.rx)).calHome == some m.home then
      s.calEnd (fiberKey m.fiber m.rx) else s

/-- The new carrier of a proposal can carry the port: its home wavelength, λ16 or λ17, in use by no other port at any
boundary to come, and in the module's own direction with a laser to light it (04 R99, R110). -/
def State.carrierFit (s : State) (t : Nat) (rx : Bool) (home c : Nat) : Bool :=
  (c == home || c == 16 || c == 17) && !s.carrierBusy t rx c
    && !(s.optics.wishes.any fun w => w.fiber == t && w.rx == rx && w.dst == c)
    && (rx || (s.pack (engineOf t)).bay == .lit && (decide (16 ≤ c) || bit (s.pack (engineOf t)).lit c))

/-- MOVE_PROPOSE (04 R110, R112, R113, R127): the module answers accept, or refuse. A proposal from a partner that
announced no move support is refused (log 102). In the module's own direction it lights a spare that the partner asks
for. -/
def State.moveProposed (s : State) (p w : Nat) (locked : Bool) : State :=
  let t := p / 16
  let rx := !bit w 4
  let m : Move := { fiber := t, rx, home := bits w 8 4, src := bits w 12 5, dst := bits w 17 5
                    token := bits w 32 16, bell := bits w 48 64, reason := bits w 5 3, ours := false
                    stage := .accepted, since := s.time.rung, tries := 1 }
  let ok := locked && s.mayMove t rx && (s.port (portOn t m.home)).phys != .lent
    && (s.moveOf t rx m.home).isNone && s.carrier t rx m.home == m.src && s.carrierFit t rx m.home m.dst
    && decide (s.time.bell < m.bell)
  if bits w 0 4 != 1 then s
  else if ok then
    let s := if !rx && 16 ≤ m.dst then s.lightSpare (engineOf t) m.dst else s
    ({ s with optics := { s.optics with moves := s.optics.moves ++ [m] } } : State).sayMove m 2
  else (s.bump (Obj.movesFailed (engineOf t))).sayMove m 3

/-- MOVE_PROPOSE. -/
def execMovePropose (p : Port) (msg : BitVec 128) (locked : Bool) (s : State) : Result :=
  .next (s.moveProposed p.val msg.toNat locked)

/-- The module's own move that an answer names. -/
def State.answered (s : State) (p w : Nat) : Option Move :=
  s.optics.moves.find? fun m => m.fiber == p / 16 && m.ours && m.token == bits w 32 16 && m.stage == .proposed

/-- Ports of a thoroughfare entry. -/
def thoroPorts (e : Nat) (x : Thoro) : List Nat :=
  [portOn (4 * e + x.rx) x.k, portOn (4 * e + x.tx) x.k]

def State.thoro (s : State) (k : Nat) : Thoro := Tbl.get s.optics.thoros k {}
def State.setThoro (s : State) (k : Nat) (x : Thoro) : State :=
  { s with optics := { s.optics with thoros := Tbl.set s.optics.thoros k x } }

/-- Ports of a thoroughfare return to service: those that only left their bundle rejoin it, those lent
retrain, but for ports that another thoroughfare uses (04 R127 to R129). -/
def State.thoroReturn (s : State) (e : Nat) (x : Thoro) : State :=
  (thoroPorts e x).foldl (fun s p =>
    if s.optics.thoros.any fun y => y.1 / 8 == e && y.2.active && (thoroPorts e y.2).contains p then s
    else if (s.port p).phys == .lent then (s.modPort p fun y => { y with phys := .down }).portLanes p
    else s.modPort p fun y => { y with joinDue := y.link == .up, leaveDue := false }) s

/-- Position of a failure in the list of R128 by its code; that of a broken R126 is its own case. -/
def thoroPos (code pos : Nat) : Nat := if code = 11 then 1 else if code = 10 then 2 else pos

/-- A setup fails (04 R128). -/
def State.thoroFail (s : State) (k code : Nat) (pos : Nat := 0) : State :=
  let x := s.thoro k
  let s := { s with optics := { s.optics with thoros := Tbl.erase s.optics.thoros k } }
  (s.thoroReturn (k / 8) x).endFailedAt x.token code (thoroPos code pos)

/-- The entry of a setup that waits for its leaves, which an answer on a fiber names. -/
def State.thoroAsked (s : State) (t token : Nat) : Option (Nat × Thoro) :=
  s.optics.thoros.find? fun x => x.1 / 8 == engineOf t && x.2.scheduled && !x.2.teardown && x.2.proposed
    && x.2.token % 65536 == token && (4 * (x.1 / 8) + x.2.rx == t || 4 * (x.1 / 8) + x.2.tx == t)

/-- MOVE_ACCEPT (04 R110, R128). -/
def execMoveAccept (p : Port) (msg : BitVec 128) (s : State) : Result :=
  let w := msg.toNat
  let t := p.val / 16
  .next (if bits w 0 4 != 2 then s
    else match s.answered p.val w with
      | some m => s.putMove m { m with stage := .accepted }
      | none => match s.thoroAsked t (bits w 32 16) with
        | some (k, x) => s.setThoro k { x with
            acceptA := x.acceptA || 4 * (k / 8) + x.rx == t, acceptB := x.acceptB || 4 * (k / 8) + x.tx == t }
        | none => s)

/-- MOVE_REFUSE (04 R111, R128). -/
def execMoveRefuse (p : Port) (msg : BitVec 128) (s : State) : Result :=
  let w := msg.toNat
  .next (if bits w 0 4 != 3 then s
    else match s.answered p.val w with
      | some m => s.moveFails m
      | none => match s.thoroAsked (p.val / 16) (bits w 32 16) with
        | some (k, _) => s.thoroFail k 11
        | none => s)

/-- MOVE_CANCEL (04 R113): the partner withdraws its proposal. -/
def execMoveCancel (p : Port) (msg : BitVec 128) (s : State) : Result :=
  let w := msg.toNat
  .next (if bits w 0 4 != 4 then s
    else match s.optics.moves.find? fun m =>
        m.fiber == p.val / 16 && !m.ours && m.token == bits w 32 16 && m.stage != .switched with
      | some m => s.dropMove m
      | none => s)

/-- MOVE_ANSWER_TIMEOUT (04 R111, R128). -/
def execMoveAnswerTimeout (t : Fiber) (rx : Bool) (home : Fin 16) (s : State) : Result :=
  .next (match s.moveOf t.val rx home.val with
    | some m => if m.ours && m.stage == .proposed then s.moveFails m else s
    | none => match s.optics.thoros.find? fun x =>
        x.1 / 8 == engineOf t.val && x.2.scheduled && !x.2.teardown && x.2.proposed && x.2.k == home.val
          && (if rx then 4 * (x.1 / 8) + x.2.rx == t.val && !x.2.acceptA
              else 4 * (x.1 / 8) + x.2.tx == t.val && !x.2.acceptB) with
      | some x => s.thoroFail x.1 11
      | none => s)

/-- MOVE_READINESS_CHECK (04 R110, R111). -/
def execMoveReadinessCheck (t : Fiber) (rx : Bool) (home : Fin 16) (ready : Bool) (s : State) : Result :=
  .next (match s.moveOf t.val rx home.val with
    | some m =>
      if m.stage == .accepted then (if ready then s.putMove m { m with stage := .ready } else s.moveFails m)
      else s
    | none => s)

/-- A calibration slot follows its moves: measured on λ16, with the return named for the end of the dwell;
done on the return (04 R115, R120). -/
def State.calMoved (s : State) (m : Move) : State :=
  let k := fiberKey m.fiber m.rx
  if (s.fiber k).calHome != some m.home then s
  else if m.reason = 1 then
    let s := s.modFiber k fun f => { f with calPhase := .moved }
    s.wishMove m.fiber m.rx m.home m.src 3 1 (s.obj (Obj.calDwell (engineOf m.fiber)) * 1000)
  else if m.reason = 3 then (s.calEnd k).putObj (Obj.calLastBell k) s.time.bell
  else s.calEnd k

/-- Another port of the fiber's direction uses the new carrier of a move. -/
def State.takenByOther (s : State) (m : Move) : Bool :=
  (upTo 16).any fun h => h != m.home && s.carrier m.fiber m.rx h == m.dst && !s.portOut (portOn m.fiber h)

/-- A port that a failed laser was to drop, or has dropped, while its move was pending comes up on the new carrier
(04 R121). -/
def State.reenter (s : State) (m : Move) : State :=
  let p := portOn m.fiber m.home
  if m.rx || !bit (s.pack (engineOf m.fiber)).failed m.src then s
  else if (s.port p).phys == .dropped then (s.modPort p fun x => { x with phys := .down }).portLanes p
  else s.modPort p fun x => { x with dropDue := false }

/-- A move due at the boundary is made, or is not (04 R110, R111, R121). -/
def State.moveDue (s : State) (m : Move) : State :=
  if s.time.bell < m.bell || m.stage == .switched then s
  else if m.stage != .ready || s.takenByOther m then s.moveFails m
  else
    let e := engineOf m.fiber
    let s := (s.putMove m { m with stage := .switched }).setCarrier m.fiber m.rx m.home m.dst
    let s := ((s.bump (Obj.movesDone e)).count (blockEngine e) 0x403 1).count (208 + fiberKey m.fiber m.rx) 0x403 1
    (s.reenter m).calMoved m

/-- MOVE_SWITCH (04 R110). -/
def execMoveSwitch (t : Fiber) (rx : Bool) (home : Fin 16) (s : State) : Result :=
  .next (match s.moveOf t.val rx home.val with
    | some m => s.moveDue m
    | none => s)

/-- Every move due at the boundary, oldest first. -/
def State.movesDue (s : State) : State := s.optics.moves.foldl State.moveDue s

/-- The old carrier stops, two bells after the move (04 R110, R118). -/
def State.oldCarrier (s : State) (m : Move) : State :=
  let s := s.dropMove m
  if m.rx then s else s.lasersRest (engineOf m.fiber)

/-- OLD_CARRIER_STOP (04 R110). -/
def execOldCarrierStop (t : Fiber) (rx : Bool) (home : Fin 16) (s : State) : Result :=
  .next (match s.optics.moves.find? fun m =>
      m.fiber == t.val && m.rx == rx && m.home == home.val && m.stage == .switched with
    | some m => if m.bell + 2 ≤ s.time.bell then s.oldCarrier m else s
    | none => s)

/-- Old carriers that stop at the boundary. -/
def State.oldCarriers (s : State) : State :=
  (s.optics.moves.filter fun m => m.stage == .switched && decide (m.bell + 2 ≤ s.time.bell)).foldl
    State.oldCarrier s

/-! ### Calibration (04 R114 to R116) -/

/-- A calibration slot is skipped (04 R116). -/
def State.calSkip (s : State) (k : Nat) : State := s.bump (Obj.calSkipped k)

/-- A move of a port's direction is pending or to be proposed. -/
def State.moving (s : State) (t : Nat) (rx : Bool) (h : Nat) : Bool :=
  (s.moveOf t rx h).isSome || s.optics.wishes.any fun w => w.fiber == t && w.rx == rx && w.home == h

/-- The port that a slot calibrates: the next home wavelength not on λ16, lent or dropped (04 R114). -/
def State.calChoice (s : State) (t : Nat) (rx : Bool) : Option Nat :=
  let n := (s.fiber (fiberKey t rx)).calNext
  ((upTo 16).map fun i => (n + i) % 16).find? fun h =>
    s.carrier t rx h != 16 && !s.portOut (portOn t h) && !s.moving t rx h

/-- A ring gets a new heater setting, which the manual gives no value for (04 R115; log 6). -/
def State.tuneRing (s : State) (k c : Nat) : State :=
  (s.modFiber k fun f => { f with rings := Tbl.set f.rings c s.drawn }).draw

/-- The idle rings of the spares are calibrated in place, at the slot's start (04 R115; log 103). -/
def State.tuneIdle (s : State) (t : Nat) (rx : Bool) : State :=
  s.each ([16, 17].filter fun c => !s.carrierBusy t rx c) fun s c => s.tuneRing (fiberKey t rx) c

/-- The length of a slot in ns: tuning, move lead, dwell (04 R115). -/
def State.calSlotNs (s : State) (e : Nat) : Nat :=
  100000 + s.obj (Obj.moveLead e) * 1000 + s.obj (Obj.calDwell e) * 1000

/-- A thoroughfare change of an engine is scheduled within a slot that starts now (04 R116). -/
def State.thoroInSlot (s : State) (e : Nat) : Bool :=
  s.optics.thoros.any fun x => x.1 / 8 == e && x.2.scheduled
    && decide (x.2.bell ≤ s.time.bell + ceilDiv (s.calSlotNs e) s.period)

/-- CAL_SLOT_START (04 R114, R115, R116). A port that a failed return left on λ16 is returned instead. Before bells run
on TB0 no slot can start and none counts as skipped (log 103). -/
def State.calSlot (s : State) (t : Nat) (rx : Bool) : State :=
  let e := engineOf t
  let k := fiberKey t rx
  let f := s.fiber k
  if !s.flag (Obj.calEnable e) || (s.engine e).state != .running || f.calPhase != .idle || !s.time.onTb0 then s
  else if !f.moveCapable then s.calSkip k
  else match (upTo 16).find? fun h => s.carrier t rx h == 16 && !s.portOut (portOn t h)
      && (rx || (s.engine e).on16 != some h) && !s.moving t rx h with
    | some h => s.wishMove t rx h (if !rx && (s.engine e).on17 == some h then 17 else h) 3 1 0
    | none =>
      if s.thoroInSlot e || (s.engine e).on16.isSome then s.calSkip k
      else match s.calChoice t rx with
      | none => s
      | some h =>
        let s := (s.tuneIdle t rx).tablesApplied
        let s := s.setEngine e { s.engine e with calTable := s.tableNow }
        let s := if rx then s else s.lightSpare e 16
        let s := s.modFiber k fun f => { f with calHome := some h, calPhase := .tuning, calNext := (h + 1) % 16 }
        s.wishMove t rx h 16 1 1 0

/-- CAL_SLOT_START. -/
def execCalSlotStart (t : Fiber) (rx : Bool) (s : State) : Result := .next (s.calSlot t.val rx)

/-- CAL_DWELL_END (04 R115): the heater setting of the ring that the port left is written; the port waits for its
return to it. -/
def execCalDwellEnd (t : Fiber) (rx : Bool) (s : State) : Result :=
  let k := fiberKey t.val rx
  .next (if (s.fiber k).calPhase == .moved then
      let c := match (s.fiber k).calHome, s.optics.wishes.find? fun w => fiberKey w.fiber w.rx == k && w.reason == 3 with
        | some h, none => ((s.moveOf t.val rx h).map (·.dst)).getD h
        | some _, some w => w.dst
        | none, _ => 16
      (s.modFiber k fun f => { f with calPhase := .returning }).tuneRing k c
    else s)

/-! ### Rings (04 R125; 15 R476) -/

/-- RING_EXCURSION (04 R125): stalls 4e to 4e + 3 run at half slew for 10 ms. -/
def execRingExcursion (e : Engine) (s : State) : Result :=
  let s := s.bump (Obj.ringExcursions e.val)
  let s := (s.eventObj 9 e.val (Obj.ringExcursions e.val)).count (blockEngine e.val) 0x404 1
  let half := (engineFibers e.val).foldl (fun h t => Tbl.set h t (s.tb1Ns + 10000000)) s.warden.halfSlew
  .next { s with warden := { s.warden with halfSlew := half } }

/-- SLEW_HALVING_END (04 R125): 10 ms after the latest excursion beside a stall. -/
def execSlewHalvingEnd (e : Engine) (s : State) : Result :=
  let half := s.warden.halfSlew.filter fun h => !((engineFibers e.val).contains h.1 && s.comesNow h.2)
  .next { s with warden := { s.warden with halfSlew := half } }

/-- DITHER_LOOP_FAST_END (15 R476): 2 ms after the latest cut beside the engine. -/
def execDitherLoopFastEnd (e : Engine) (s : State) : Result :=
  .next (if s.comesNow (s.engine e.val).ditherUntil then s.modEngine e.val fun x => { x with ditherFast := false }
    else s)

/-! ### Thoroughfares (04 R126 to R130) -/

/-- The conditions of 04 R126 on engine, fibers and wavelength: number of the first case broken, 0 if none.
`own` is the entry that stands for it already. -/
def State.thoroCase (s : State) (e rx tx k : Nat) (own : Option Nat) : Nat :=
  let ps := [portOn (4 * e + rx) k, portOn (4 * e + tx) k]
  let others := s.optics.thoros.filter fun x => x.1 / 8 == e && some x.1 != own
  if rx = tx then 1
  else if 16 ≤ k then 2
  else if ps.any fun p => s.portLow p != p || s.widthOf p != 0 || (s.port p).phys == .dropped || s.carrier (p / 16) false (p % 16) != p % 16
      || s.carrier (p / 16) true (p % 16) != p % 16 then 3
  else if others.any fun x => x.2.k == k && (x.2.rx == rx || x.2.tx == tx) then 4
  else if 8 ≤ others.length then 5
  else 0

/-- A thoroughfare's leaves may be asked: proposals need bells on TB0 and partners that announced support (04 R112). -/
def State.thoroMayAsk (s : State) (e : Nat) (x : Thoro) : Bool :=
  s.mayMove (4 * e + x.rx) true && s.mayMove (4 * e + x.tx) false

/-- At the boundary after intake: both ports leave their bundles and both leaves are told (04 R128, R129). A leaf that
may not be asked cannot accept: the setup fails, and a teardown goes without notice. -/
def State.thoroTell (s : State) (k : Nat) : State :=
  let x := s.thoro k
  let e := k / 8
  if !x.scheduled || x.proposed then s
  else if !s.thoroMayAsk e x then
    (if x.teardown then s.setThoro k { x with proposed := true } else s.thoroFail k 11)
  else
    let s := (s.setThoro k { x with proposed := true }).when (!x.teardown) fun s => (s.askTally (.ring k) 500).1
    let s := if x.teardown then s
      else (thoroPorts e x).foldl (fun s p => s.modPort p fun y => { y with leaveDue := true, joinDue := false }) s
    let s := s.sendMove (4 * e + x.rx) (moveMsg 1 1 4 x.k x.k x.k x.token x.bell)
    s.sendMove (4 * e + x.tx) (moveMsg 1 0 4 x.k x.k x.k x.token x.bell)

/-- A setup or teardown that is due takes effect at S (04 R128, R129). -/
def State.thoroDue (s : State) (k : Nat) : State :=
  let x := s.thoro k
  let e := k / 8
  if !x.scheduled || !s.reached (some x.token) x.bell then s
  else if x.teardown then
    let s := { s with optics := { s.optics with thoros := Tbl.erase s.optics.thoros k } }
    ((s.thoroReturn e x).drop (Obj.thoroughfareCount e)).endDone x.token
  else if !(x.acceptA && x.acceptB) then s.thoroFail k 11
  else if !x.tuned then s.thoroFail k 10
  else if s.thoroCase e x.rx x.tx x.k (some k) != 0 then
    s.thoroFail k 8 (s.thoroCase e x.rx x.tx x.k (some k))
  else
    let s := s.setThoro k { x with active := true, scheduled := false }
    let s := (thoroPorts e x).foldl (fun s p => s.dropOut p .lent) s
    (s.bump (Obj.thoroughfareCount e)).endDone x.token

/-- THOROUGHFARE_EFFECT (04 R128, R129). -/
def execThoroughfareEffect (e : Engine) (entry : Fin 8) (s : State) : Result :=
  .next (s.thoroDue (8 * e.val + entry.val))

/-- THOROUGHFARE_READINESS_CHECK (04 R128): rings whose tuning still waits for the tally (15 R474) are not tuned. -/
def execThoroughfareReadinessCheck (e : Engine) (entry : Fin 8) (tuned : Bool) (s : State) : Result :=
  let k := 8 * e.val + entry.val
  let x := s.thoro k
  .next (if x.scheduled && !x.teardown then
      (if tuned && !s.warden.queue.contains (.ring k) then s.setThoro k { x with tuned := true }
       else (s.dropSteps (· == .ring k)).thoroFail k 10)
    else s)

/-- Optics at a boundary, step 3 of 01 R33: moves, old carriers, thoroughfares, packs, and what may be proposed now. -/
def State.opticsBoundary (s : State) : State :=
  let s := (s.movesDue).oldCarriers
  let s := (s.optics.thoros.map (·.1)).foldl (fun s k => (s.thoroDue k).thoroTell k) s
  let s := (s.optics.packs.map (·.1)).foldl State.packBoundary s
  (s.optics.packs.map (·.1)).foldl State.lasersRest s.tryWishes

/-- carrier_map (04 R133). -/
def State.carrierMapOf (s : State) (t : Nat) (rx : Bool) : Nat :=
  leNat ((upTo 16).map fun h => BitVec.ofNat 8 (match (s.port (portOn t h)).phys with
    | .dropped => 0xFE
    | .lent => 0xFF
    | _ => s.carrier t rx h))

end Sys2Proof.Machine
end

