-- ==== Sys2Proof/Machine/Reset.lean ====
section
/-! DEFINITION. What the resets of 03 R90 clear and keep: standby loss, loss of the 64 V domain, and the
reset of the die. -/

namespace Sys2Proof.Machine

/-- The object is held by the management domain (17 R516). -/
def isMgmtKey (key : Nat) : Bool :=
  let index := key / 256
  let sub := key % 256
  index == 0x0100 || (index == 0x0200 && decide (sub ≤ 0x1F)) || index == 0x0400
    || (decide (0x0F00 ≤ index) && decide (index ≤ 0x0F21))
    || (match dictRow index sub with
        | some r => r.acc == .rws
        | none => false)

/-- Die objects take their defaults; management-domain objects keep their values (17 R519). -/
def mgmtObjs (objs : Tbl Nat) : Tbl Nat := objs.filter fun e => isMgmtKey e.1

/-- A channel as the next address map finds it: one that was being mapped out or holds holes is mapped
out (13 R417, R419; log 21); repairs are replayed from their log (13 R413). -/
def chanAfterReset (c : ChanSt) : ChanSt :=
  { state := match c.state with
      | .mappedOut | .copying | .holes => .mappedOut
      | .inService | .waiting => .inService
    spares := c.spares, answering := c.answering }

/-- Memory after a die reset: nothing written (13, 03 R92; log 4), with what survives. -/
def memAfterReset (m : MemSt) : MemSt :=
  { tables := m.tables.filter fun c => isMgmtKey (c.1 / 2 ^ 32)
    chans := Tbl.mapVals m.chans fun _ => chanAfterReset
    repairLog := m.repairLog }

/-- The channels not mapped out in the order of the interleave (13 R406). -/
def channelOrder (chans : Tbl ChanSt) : List Nat :=
  ((upTo 128).map fun k => 32 * (k % 4) + k / 4).filter fun c => (Tbl.get chans c {}).state != .mappedOut

/-- The device address map is fixed at release (13 R406). -/
def State.fixMap (s : State) : State :=
  let order := channelOrder s.mem.chans
  { s with mem := { s.mem with
      map := { n := order.length, r := min 4 (s.obj Obj.relocationReserve), order := order } } }

/-- A pack stays in its bay while the lasers are off (03 R90). -/
def packDark (p : Pack) : Pack :=
  { bay := match p.bay with
      | .empty => .empty
      | .rejected => .rejected
      | _ => .present
    ident := p.ident }

/-- The optics with every laser off. -/
def opticsDark (o : OpticsSt) : OpticsSt := { packs := Tbl.mapVals o.packs fun _ => packDark }

/-- A slot that a die reset makes final. -/
def endsByReset (x : SlotSt) : Bool := x.status == .submitted || x.status == .busy

/-- A slot when a die reset is recognised: submitted and busy ones are failed with code 15 (17 R538). -/
def slotAfterReset (x : SlotSt) : SlotSt :=
  if endsByReset x then
    { x with status := .failed, code := 15, final := 0, resultToken := x.token, wrote := 0 }
  else { x with wrote := 0 }

/-- A requester when the die stops: a table transfer that runs ends in error, unavailable. -/
def reqAfterReset (r : ReqSt) : ReqSt := if r.state = 1 then { r with state := 3, tcode := 7 } else r

/-- The host interface while its link is down: SR-IOV settings and MSI-X cleared (18 R549). -/
def hostDark (h : HostSt) (l : PcieState) : HostSt :=
  { h with link := l, speed := 0, width := 0, busMaster := [], numVfs := 0, fired := [], reqs := []
           maxRead := [], bars := [], msix := [] }

/-- Alert conditions that survive a die reset. -/
def alertsAfterReset (as : List Alert) : List Alert := as.filter (· == .strap)

/-- The die stops: every structure of the die is as before its first release. -/
def State.stopDie (s : State) : State :=
  { s with
    objs := mgmtObjs s.objs
    time := {}, optics := opticsDark s.optics, lanes := [], remaps := [], ports := [], switch := {}
    pitches := {}, service := {}, coll := {}, update := {}, arrays := [], mem := memAfterReset s.mem
    custody := {}, warden := {}, ledger := {}
    host := { store := s.host.store, committing := s.host.committing, nextReq := s.host.nextReq
              attesting := s.host.attesting, attestNonce := s.host.attestNonce
              attestReady := s.host.attestReady, report := s.host.report
              dropped := s.host.dropped
              link := if s.host.link == .perst then .perst else .down }
    dict := { s.dict with
      reqs := s.dict.reqs.map reqAfterReset
      slots := Tbl.mapVals s.dict.slots fun _ => slotAfterReset
      staged := [] }
    power := { s.power with alerts := alertsAfterReset s.power.alerts, boot := .idle, bootNext := 0, waitSince := 0
                            enginesStarted := 0, released := false, releaseDue := false } }

/-- The die stops; every command then in a slot ends with an event (17 R529, R538). -/
def State.clearDie (s : State) : State :=
  let ended := s.dict.slots.filter fun e => endsByReset e.2
  ended.foldl (fun s e => s.completionEvent e.1 e.2.token) s.stopDie

/-- Conversion stops: the 64 V domain is down and the die held (03 R78, R79). -/
def State.stop64 (s : State) (st : PowerState) : State :=
  let s := s.clearDie
  { s with power := { s.power with state := st, converting := false, precharged := false
                                   pwrOk := false, railsUp := 0 } }

/-- The objects that survive standby loss: signer sets and security floors (18 R560, R571; log 16). -/
def standbyObjs (objs : Tbl Nat) : Tbl Nat :=
  objs.filter fun e => decide (0x040021 ≤ e.1) && decide (e.1 ≤ 0x040034)

/-- What survives standby loss: the capsule and the bundle store (03 R90), the last accepted request ids
(17 R523), the repair log and mapped-out channels (13 R413, R419), and what is outside the management
domain's reach: pins, the input, the packs in their bays (log 24). -/
def State.standbyOff (s : State) : State :=
  { free := s.free, out := s.out, pending := s.pending
    objs := standbyObjs s.objs
    optics := opticsDark s.optics
    mem := { (memAfterReset s.mem) with
      tables := s.mem.tables.filter fun c => decide (c.1 / 2 ^ 32 = Obj.bundleStore.key) }
    host := { store := s.host.store }
    dict := { lastOwner := s.dict.lastOwner, lastOperator := s.dict.lastOperator }
    power := { capsule := s.power.capsule, capsuleNext := s.power.capsuleNext
               vinMv := s.power.vinMv, seated := s.power.seated, rstN := s.power.rstN
               railsShorted := s.power.railsShorted } }

/-- Three latched faults within ten minutes of the first (03 R80). -/
def threeInTen : List Nat → Bool
  | a :: b :: c :: rest => decide (c ≤ a + 600000) || threeInTen (b :: c :: rest)
  | _ => false

/-- Latch a fault: lasers off, the 64 V domain down, module_state LATCHED_FAULT (03 R79, R80). -/
def State.latchFault (s : State) (cause rails atMs cls block : Nat) : State :=
  let s := (s.capsule cls true block).stop64 .latchedFault
  let times := s.power.latchTimes ++ [atMs]
  { s with power := { s.power with
      latchCause := cause, railsLatched := s.power.railsLatched ||| rails, latchTimes := times
      lastMs := max s.power.lastMs atMs
      restartBlocked := s.power.restartBlocked || threeInTen times } }

/-- The start conditions of 03 R590 and R88 hold. -/
def State.mayStart (s : State) : Bool :=
  s.power.standby && s.power.mgmtReady && s.power.strapsSampled && !s.power.strapUnstable
    && s.power.seated && decide (52000 ≤ s.power.vinMv) && decide (s.power.vinMv < 74000)
    && s.power.state == .standby && !s.power.converting && !s.power.heldOff

/-- Conversion starts and precharge begins, if the start conditions hold. An input back in its window with
auto_restart 0 holds the module off instead (03 R78; log 20). -/
def State.tryStart (s : State) : State :=
  if !s.mayStart then s
  else if s.power.stopped && !s.flag Obj.autoRestart then
    { s with power := { s.power with stopped := false, heldOff := true } }
  else { s with power := { s.power with stopped := false, converting := true, state := .powering } }

end Sys2Proof.Machine
end

