-- ==== Sys2Proof/Machine/Power.lean ====
section
/-! DEFINITION. Supplies, straps, resets and start-up up to the release of the die (03). -/

namespace Sys2Proof.Machine

/-- STANDBY_POWER_UP (03 R88, S + 0). -/
def execStandbyPowerUp (s : State) : Result :=
  .next (if s.power.standby then s
    else { s with power := { s.power with standby := true, state := .standby } })

/-- The samples of some strap disagree (03 R84). -/
def strapsDisagree (samples : List (BitVec 24)) : Bool :=
  samples.any fun x => x != samples.getLastD 0

/-- Bell period in ns of a BELL strap (02 R55). -/
def bellOfStrap (x : Nat) : Nat := [2000, 1000, 4000, 5000, 8000, 10000].getD x 2000

/-- Budget in W of a BUDGET strap (03 R85). -/
def budgetOfStrap (x : Nat) : Nat := [1600, 1000, 1200, 1400, 1500, 1700, 1800, 2000].getD x 1600

/-- Security mode of a SECMODE strap: the reserved code is decoded as Sealed (03 R85). -/
def secOfStrap (x : Nat) : Nat := if x = 3 then 1 else x

/-- Set the objects whose default is the strap (03 R85). -/
def State.decodeStraps (s : State) (raw : Nat) : State :=
  ((((((s.putObj Obj.plane (bits raw 0 4)).putObj Obj.pos (bits raw 4 8)).putObj Obj.bellPeriod
    (bellOfStrap (bits raw 12 3))).putObj Obj.budgetW (budgetOfStrap (bits raw 15 3))).putObj
    Obj.securityMode (secOfStrap (bits raw 18 2))).putObj Obj.mgmtMode (bits raw 20 2)).putObj
    Obj.bootSource (bits raw 22 2)

/-- A strap fault: a capsule entry of class 4 and the alert (03 R84). -/
def State.strapFault (s : State) : State := (s.capsule 4 true moduleBlock).holdAlert .strap

/-- STRAP_SAMPLING (03 R83, R84, R85). -/
def execStrapSampling (samples : List (BitVec 24)) (s : State) : Result :=
  .next (if !s.power.standby || s.power.strapsSampled then s
    else
      let raw := (samples.getLastD 0).toNat
      if strapsDisagree samples then
        let s := s.strapFault
        { s with power := { s.power with strapsSampled := true, strapUnstable := true
                                         strapRaw := raw + 2 ^ 31 } }
      else
        let s := { s with power := { s.power with strapsSampled := true, strapRaw := raw } }
        ((s.decodeStraps raw).when (decide (6 ≤ bits raw 12 3)) State.strapFault).when
          (decide (bits raw 18 2 = 3)) State.strapFault)

/-- MANAGEMENT_DOMAIN_READY (03 R88, S + 30 ms): the dictionary is reachable and ALERT_N valid. -/
def execManagementDomainReady (s : State) : Result :=
  .next (if !s.power.standby || !s.power.strapsSampled || s.power.mgmtReady then s
    else { s with power := { s.power with
      mgmtReady := true
      state := if s.obj Obj.securityMode = 2 then .returnMode else s.power.state } })

/-- STANDBY_LOSS (03 R78, R90). -/
def execStandbyLoss (s : State) : Result :=
  .next (if !s.power.standby then s else (s.capsule 1 false moduleBlock).standbyOff)

/-- START_CONDITIONS_MET (03 R590): the input and the seat contact as given. While the module converts, an
input outside the start window and a broken contact are other events (log 10). -/
def execStartConditionsMet (vinMv : Int) (seated : Bool) (s : State) : Result :=
  .next (if s.power.converting && !(seated && decide (52000 ≤ vinMv) && decide (vinMv < 74000)) then s
    else ({ s with power := { s.power with vinMv := vinMv, seated := seated } } : State).tryStart)

/-- PRECHARGE_COMPLETE (03 R76). -/
def execPrechargeComplete (s : State) : Result :=
  .next (if s.power.state == .powering && s.power.converting then
    { s with power := { s.power with precharged := true } } else s)

/-- RAILS_UP (03 R88): a shorted rail is found in the ramp and latches, at a free time not before the last one known
(03 R79, R80; log 121); else PWR_OK rises and the module is held, its release due where RST_N is high. -/
def execRailsUp (s : State) : Result :=
  .next (if s.power.state != .powering || !s.power.precharged then s
    else if s.power.railsShorted ≠ 0 then
      s.draw.latchFault 1 s.power.railsShorted (s.power.lastMs + s.drawn) 2 (s.power.railsShorted.log2)
    else { s with power := { s.power with
      railsUp := 0xFFF, pwrOk := true, state := .held, releaseDue := s.power.rstN } })

/-- A running module stops because its input left the window (03 R78). -/
def State.inputLost (s : State) (o : Obj) : State :=
  let s := ((s.bump o).capsule 1 false moduleBlock).stop64 .standby
  { s with power := { s.power with stopped := true } }

/-- An input voltage at which a converting module stops, or may: whether it does is free there (03 R75). -/
def State.inputAt (s : State) (vinMv : Int) (stops may : Bool) (o : Obj) : State :=
  let s := { s with power := { s.power with vinMv := vinMv } }
  if !s.power.converting then s
  else if stops then s.inputLost o
  else if may then (s.draw).when (s.drawn % 2 == 1) fun s => s.inputLost o
  else s

/-- UNDERVOLTAGE (03 R75, R78): below 48 V conversion stops; from there to 54 V the module may run. -/
def execUndervoltage (vinMv : Int) (s : State) : Result :=
  .next (s.inputAt vinMv (decide (vinMv < 48000)) (decide (vinMv < 54000)) Obj.uvEvents)

/-- OVERVOLTAGE (03 R75, R78): above 75 V conversion stops; from 72 V to there it may. -/
def execOvervoltage (vinMv : Int) (s : State) : Result :=
  .next (s.inputAt vinMv (decide (75000 < vinMv)) (decide (72000 < vinMv)) Obj.ovEvents)

/-- BLADE_SEAT_BREAK (03 R76): the module stops drawing current from the 64 V input. -/
def execBladeSeatBreak (s : State) : Result :=
  let s := { s with power := { s.power with seated := false } }
  .next (if s.power.converting then (s.capsule 1 false moduleBlock).stop64 .standby else s)

/-- RAIL_FAULT (03 R79): latched on a powered rail, found at the next ramp on an unpowered one. -/
def execRailFault (rail : Fin 12) (atMs : Nat) (s : State) : Result :=
  .next (if !s.power.standby then
      { s with power := { s.power with railsShorted := setBit s.power.railsShorted rail.val } }
    else if s.power.converting && s.power.precharged then
      s.latchFault 1 (1 <<< rail.val) atMs 2 rail.val
    else { s with power := { s.power with
      railsShorted := setBit s.power.railsShorted rail.val, lastMs := max s.power.lastMs atMs } })

/-- THERMAL_TRIP (03 R79): a die junction above 115 °C. -/
def execThermalTrip (t : Stall) (milliC : Int) (atMs : Nat) (s : State) : Result :=
  .next (if s.power.pwrOk && decide (115000 < milliC) then s.latchFault 2 0 atMs 3 t.val else s)

/-- What a write of 1 to power_restart does (03 R78, R80): it clears a latched fault or a hold-off, and
the module powers up under the conditions of a fresh power-up. -/
def State.powerRestart (s : State) : State :=
  if s.power.state == .latchedFault then
    ({ s with power := { s.power with
        state := .standby, latchCause := 0, railsLatched := 0, stopped := false } } : State).tryStart
  else if s.power.heldOff then
    ({ s with power := { s.power with heldOff := false } } : State).tryStart
  else s

/-- RST_N_ASSERT (03 R91, R93): a reset is recognised; a fall while the die is held has no effect. -/
def execRstNAssert (s : State) : Result :=
  let s := { s with power := { s.power with rstN := false } }
  .next (if s.power.released then
      let s := (s.capsule 5 false moduleBlock).clearDie
      { s with power := { s.power with state := .held } }
    else { s with power := { s.power with releaseDue := false } })

/-- RST_N_RELEASE (03 R93): the release from reset follows 1 ms later. -/
def execRstNRelease (s : State) : Result :=
  let s := { s with power := { s.power with rstN := true } }
  .next (if s.power.state == .held then { s with power := { s.power with releaseDue := true } } else s)

/-- DIE_RELEASE (03 R88; 17 R519, R536; 18 R563): die objects take their defaults, TB1 and TB2 start at
0, the token store and boot_list_ready are cleared; budget_w takes the strap's value again; the device
address map is fixed (13 R406). What energy the input gave while no sweep counted it is a free amount (log 17). -/
def execDieRelease (s : State) : Result :=
  .next (if s.power.state != .held || !s.power.releaseDue || !s.power.pwrOk then s
    else
      let s := s.clearDie.fixMap
      let s := s.draw.bump Obj.energyIn s.drawn
      let s := (s.putObj Obj.bootListReady 0).putObj Obj.budgetW
        (budgetOfStrap (bits s.power.strapRaw 15 3))
      { s with
        dict := { s.dict with tokens := [] }
        power := { s.power with state := .booting, released := true, boot := .memoryTest } })

end Sys2Proof.Machine
end

