-- ==== Sys2Proof/Machine/Service.lean ====
section
/-! DEFINITION. Service Ethernet (08): the learning caches of the stalls, the chip MAC table, prefix
lookups, floods and segment locks. -/

namespace Sys2Proof.Machine

/-! ### Table segments (08 R254) -/

/-- Base of the table-segment region. -/
def segBase : Nat := 0x310000000000

/-- Address of a chip-table entry. -/
def chipEntry (bucket i : Nat) : Nat := segBase + 128 * bucket + 16 * i

/-- Segment of a device address in the region. -/
def segOf (a : Nat) : Nat := (a - segBase) / 4096

/-- The segment is locked. -/
def State.segLocked (s : State) (seg : Nat) : Bool := (Tbl.find s.service.locks seg).isSome

/-! ### Keys (08 R240) -/

/-- Hash of a key. -/
def macHash (pitch mac : Nat) : Nat := crc32c (beBytes 8 ((pitch % 4096) <<< 48 ||| mac % 2 ^ 48))

def macSet (pitch mac : Nat) : Nat := macHash pitch mac % 1024
def macBucket (pitch mac : Nat) : Nat := bits (macHash pitch mac) 10 17

/-- Fields of a MAC entry word. -/
def macOf (w : Nat) : Nat := bits w 0 48
def macPitch (w : Nat) : Nat := bits w 48 12
def macValid (w : Nat) : Bool := bit w 60
def macStatic (w : Nat) : Bool := bit w 61
def macEndpoint (w : Nat) : Nat := bits w 64 20
def macPort (w : Nat) : Nat := bits w 84 10
def macSeen (w : Nat) : Nat := bits w 96 32

/-- Bells since a stamp of 32 bits, modulo 2³² (08 R240). -/
def State.stampAge (s : State) (seen : Nat) : Nat := (s.time.bell + 2 ^ 32 - seen % 2 ^ 32) % 2 ^ 32

/-- A MAC entry word. -/
def macWord (mac pitch : Nat) (isStatic pending : Bool) (endpoint port seen : Nat) : Nat :=
  mac % 2 ^ 48 + (pitch % 4096) * 2 ^ 48 + 2 ^ 60 + b2n isStatic * 2 ^ 61 + b2n pending * 2 ^ 62
    + (endpoint % 2 ^ 20) * 2 ^ 64 + (port % 1024) * 2 ^ 84 + (seen % 2 ^ 32) * 2 ^ 96

/-- Word of a stall-cache entry (learn_cache). -/
def MacEntry.word (e : MacEntry) : Nat :=
  macWord e.mac e.pitch e.isStatic e.pendingInsert e.endpoint e.port e.lastSeen

/-! ### Stall caches (08 R240, R241) -/

/-- Key of a way. -/
def cacheKey (t set way : Nat) : Nat := 4 * (1024 * t + set) + way

/-- The way that holds a key at a stall. -/
def State.cacheWay (s : State) (t pitch mac : Nat) : Option (Nat × MacEntry) :=
  ((upTo 4).map (cacheKey t (macSet pitch mac))).findSome? fun k =>
    match Tbl.find s.service.caches k with
    | some e => if e.mac == mac && e.pitch == pitch then some (k, e) else none
    | none => none

def State.setCache (s : State) (k : Nat) (e : MacEntry) : State :=
  { s with service := { s.service with caches := Tbl.set s.service.caches k e } }

/-- A key is removed from every stall cache but one (08 R244). -/
def State.invalidateKey (s : State) (pitch mac : Nat) (keep : Option Nat) : State :=
  let caches := s.service.caches.filter fun e =>
    !(e.2.mac == mac && e.2.pitch == pitch && some (e.1 / 4096) != keep)
  { s with service := { s.service with caches := caches } }

/-- The entries of a bucket of the chip table: (address, word); a poisoned bucket counts as empty (13 R404). -/
def State.bucketEntries (s : State) (b : Nat) : List (Nat × Nat) :=
  (upTo 8).map fun i => (chipEntry b i, if s.readBad (chipEntry b 0) 128 then 0 else s.readNat (chipEntry b i) 16)

/-- A probe reads a bucket; a poisoned one counts, and is treated as empty (13 R404). -/
def State.probed (s : State) (a n : Nat) : State :=
  (s.countFirmware a n false).when (s.readBad a n) fun s => s.bump Obj.poisonLookups

/-- The chip-table entry of a key. -/
def State.chipFind (s : State) (pitch mac : Nat) : Option (Nat × Nat) :=
  (s.bucketEntries (macBucket pitch mac)).find? fun e =>
    macValid e.2 && macOf e.2 == mac && macPitch e.2 == pitch

/-- A stamp is written back (08 R245, R256); a static entry is not stamped (08 R240). -/
def State.writeBack (s : State) (k : Nat) (e : MacEntry) : State :=
  let b := macBucket e.pitch e.mac
  if s.segLocked (segOf (chipEntry b 0)) then s.bump Obj.staleStamps
  else
    let s := match Tbl.find s.service.caches k with
      | some _ => s.setCache k { e with written := e.lastSeen }
      | none => s
    let s := s.probed (chipEntry b 0) 128
    match s.chipFind e.pitch e.mac with
    | some (a, w) =>
      if macEndpoint w != e.endpoint then s.bump Obj.staleStamps
      else if macStatic w then s
      else (s.countFirmware (a + 12) 4 true).writeNat (a + 12) 4 (e.lastSeen % 2 ^ 32)
    | none => s.bump Obj.staleStamps

/-- The way that a new key takes: an invalid one, or the oldest that has not been seen for cache_hold bells
(08 R241 step 5). -/
def State.wayFor (s : State) (t pitch mac : Nat) : Option Nat :=
  let ks := (upTo 4).map (cacheKey t (macSet pitch mac))
  match ks.find? fun k => (Tbl.find s.service.caches k).isNone with
  | some k => some k
  | none =>
    let old := ks.filterMap fun k => match Tbl.find s.service.caches k with
      | some e => if !e.isStatic && decide (e.lastSeen + s.obj Obj.cacheHold < s.time.bell)
          then some (k, e.lastSeen) else none
      | none => none
    (least (fun x => x.2) old).map (·.1)

/-- Put an entry into a way; the entry it replaces is written back first. -/
def State.fillWay (s : State) (k : Nat) (e : MacEntry) : State :=
  let s := match Tbl.find s.service.caches k with
    | some old => if old.isStatic then s else s.writeBack k old
    | none => s
  s.setCache k e

/-- STAMP_WRITEBACK (08 R245). -/
def execStampWriteback (t : Stall) (pitch : Pitch) (mac : BitVec 48) (s : State) : Result :=
  .next (match s.cacheWay t.val pitch.val mac.toNat with
    | some (k, e) =>
      if !e.isStatic && decide (e.written + s.obj Obj.stampInterval ≤ e.lastSeen) then s.writeBack k e else s
    | none => s)

/-! ### The chip table (08 R242, R243, R244) -/

/-- Chip-table entries that cells of memory list: their addresses. -/
def State.chipListed (s : State) : List Nat :=
  (s.mem.cells.filterMap fun c =>
    if decide (segBase ≤ c.1) && decide (c.1 < segBase + 2 ^ 24) then some (c.1 / 16 * 16) else none).eraseDups

/-- learned_entries of a port (08 R243). -/
def State.learnedEntries (s : State) (p : Nat) : Nat :=
  (s.chipListed.filter fun a => macValid (s.readNat a 16) && macPort (s.readNat a 16) == p).length

/-- Queue an insertion (08 R241 step 6). -/
def State.queueInsert (s : State) (t : Nat) (i : Insertion) : State :=
  let inserts := Tbl.set s.service.inserts t (Tbl.get s.service.inserts t [] ++ [i])
  { s with service := { s.service with inserts := inserts } }

/-- The cache entry that an insertion was made for: of the same endpoint and port, not of a later move. -/
def State.insertWay (s : State) (t : Nat) (i : Insertion) : Option (Nat × MacEntry) :=
  (s.cacheWay t i.pitch i.mac).filter fun w => w.2.endpoint == i.endpoint && w.2.port == i.port

/-- The cache entry of a made insertion no longer waits. -/
def State.inserted (s : State) (t : Nat) (i : Insertion) : State :=
  match s.insertWay t i with
  | some (k, e) => s.setCache k { e with pendingInsert := false, written := e.lastSeen }
  | none => s

/-- Write an insertion to an entry, with the bell at which the source was last seen. -/
def State.putChip (s : State) (t a : Nat) (i : Insertion) : State :=
  let seen := match s.insertWay t i with
    | some (_, e) => e.lastSeen
    | none => i.seen
  let s := (s.countFirmware a 16 true).writeNat a 16 (macWord i.mac i.pitch false false i.endpoint i.port seen)
  (s.invalidateKey i.pitch i.mac (some t)).inserted t i

/-- The entry of a full bucket that gives way: the oldest, or a random one. -/
def State.victim (s : State) (es : List (Nat × Nat)) : Option (Nat × Nat) :=
  let ds := es.filter fun e => !macStatic e.2
  if s.obj Obj.chipEvictMode = 1 then ds[s.drawn % max 1 ds.length]?
  else least (fun e => 2 ^ 32 - s.stampAge (macSeen e.2)) ds

/-- An insertion reaches its bucket (08 R242). -/
def State.chipInsert (s : State) (t : Nat) (i : Insertion) : State :=
  let b := macBucket i.pitch i.mac
  if s.segLocked (segOf (chipEntry b 0)) then s.bump Obj.learnLocked
  else
    let s := s.probed (chipEntry b 0) 128
    match s.chipFind i.pitch i.mac with
    | some (a, w) =>
      if macStatic w then s.bump Obj.staticConflicts else (s.bump Obj.chipMoves).putChip t a i
    | none =>
      let es := s.bucketEntries b
      match es.find? fun e => !macValid e.2 with
      | some (a, _) => (s.bump Obj.chipLearns).putChip t a i
      | none => match s.victim es with
        | none => s.bump Obj.chipFull
        | some (a, w) =>
          let s := if s.obj Obj.chipEvictMode = 1 then s.draw else s
          let s := s.invalidateKey (macPitch w) (macOf w) (some t)
          ((s.bump Obj.chipEvictions).bump Obj.chipLearns).putChip t a i

/-- CHIP_TABLE_INSERT (08 R242): the stall's oldest queued insertion. -/
def execChipTableInsert (t : Stall) (s : State) : Result :=
  .next (match Tbl.get s.service.inserts t.val [] with
    | i :: rest =>
      let inserts := Tbl.set s.service.inserts t.val rest
      ({ s with service := { s.service with inserts := inserts } } : State).chipInsert t.val i
    | [] => s)

/-- Keys of the chip-table entries in a span of the region. -/
def State.keysIn (s : State) (a n : Nat) : List (Nat × Nat) :=
  ((upTo (n / 16 + 2)).map fun i => a / 16 * 16 + 16 * i).filterMap fun x =>
    let w := s.readNat x 16
    if decide (x < a + n) && macValid w then some (macPitch w, macOf w) else none

/-- A DMA write to the region: keys added, changed or cleared leave every stall cache (08 R257). -/
def State.segWrite (s : State) (a : Nat) (bs : List Byte) : State :=
  if segBase + 2 ^ 24 ≤ a then s.write a bs
  else
    let before := s.keysIn a bs.length
    let s := s.write a bs
    (before ++ s.keysIn a bs.length).foldl (fun s k => s.invalidateKey k.1 k.2 none) s

/-! ### Results (08 R247, R248) -/

/-- A service frame is dropped. -/
def State.dropService (s : State) (t p : Nat) (f : Frame) : State :=
  ((s.bump (Obj.serviceDrops f.pitch)).dropped t f (some p)).freeCredits p f.vc f.cells

/-- Flood a frame (08 R248). -/
def State.flood (s : State) (t p : Nat) (f : Frame) : State :=
  let g := s.obj (Obj.floodGroup f.pitch)
  if g = 0xFFFF then s.dropService t p f
  else match s.allocService t f.charge with
    | (s, none) => s.dropService t p f
    | (s, some (a, _)) =>
      (((s.write a f.payload).freeCredits p f.vc f.cells).sendGroup t { f with dest := 0 } g (some p) (some a)
        (some (0, a, f.payload.length))).mirrorIngress t p f

/-- Apply a lookup that has its result. -/
def State.applyLookup (s : State) (t : Nat) (l : Lookup) : State :=
  match l.stage with
  | .hit d => s.forwardCopied t l.inPort { l.frame with dest := d } l.frame
  | .flood => s.flood t l.inPort l.frame
  | .drop miss => (s.when miss fun s => s.bump Obj.routeMisses).dropService t l.inPort l.frame
  | _ => s

/-- The lookup has its result. -/
def Lookup.done (l : Lookup) : Bool :=
  match l.stage with
  | .hit _ | .flood | .drop _ => true
  | _ => false

/-- Results of a queue that may be applied: of each ingress port, those before its first unfinished one
(08 R239). -/
def readyLookups : List Lookup → List Nat → List Lookup × List Lookup
  | [], _ => ([], [])
  | l :: ls, waiting =>
    if l.done && !waiting.contains l.inPort then
      let r := readyLookups ls waiting
      (l :: r.1, r.2)
    else
      let r := readyLookups ls (l.inPort :: waiting)
      (r.1, l :: r.2)

/-- Apply results in arrival order per ingress port. -/
def State.applyLookups (s : State) (t : Nat) : State :=
  let r := readyLookups (Tbl.get s.service.lookups t []) []
  let lookups := Tbl.set s.service.lookups t r.2
  r.1.foldl (fun s l => s.applyLookup t l) { s with service := { s.service with lookups := lookups } }

/-! ### Learning (08 R241) -/

/-- What learning leaves a frame to do. -/
inductive Learnt where
  | goOn | dropIt | floodIt
  deriving DecidableEq, Repr

/-- Learns of a port in this bell. -/
def State.learnsOf (s : State) (p : Nat) : Nat := Tbl.get s.service.learns p 0

/-- Steps 4 to 6 for a key, in the way given if the key has one already. -/
def State.learnKey (s : State) (t p : Nat) (f : Frame) (mac : Nat) (way : Option Nat) : State × Learnt :=
  let e : MacEntry := { mac, pitch := f.pitch, isStatic := false, pendingInsert := true, endpoint := f.source
                        port := p, lastSeen := s.time.bell, written := s.time.bell, lastTry := s.time.rung }
  if decide (s.obj (Obj.learnLimit p) ≤ s.learnedEntries p) || decide (s.obj (Obj.learnRate p) ≤ s.learnsOf p)
  then (s.bump (Obj.learnExcessFrames p), if s.obj (Obj.learnExcess p) = 1 then .floodIt else .dropIt)
  else
    let s := { s with service := { s.service with learns := Tbl.modify s.service.learns p 0 (· + 1) } }
    let s := s.queueInsert t { pitch := f.pitch, mac, endpoint := f.source, port := p, seen := s.time.bell }
    match way with
    | some k => (s.setCache k e, .goOn)
    | none => match s.wayFor t f.pitch mac with
      | some k => (s.fillWay k e, .goOn)
      | none => (s.bump (Obj.cacheFull t), .floodIt)

/-- A source hit of the same endpoint: stamped, and a pending insertion is tried again once a bell. -/
def State.sourceHit (s : State) (t k : Nat) (e : MacEntry) : State :=
  let s := s.bump (Obj.cacheHits t)
  if e.isStatic then s
  else
    let again := e.pendingInsert && decide (e.lastTry < s.time.rung)
    let s := s.setCache k { e with lastSeen := s.time.bell
                                   lastTry := if again then s.time.rung else e.lastTry }
    s.when again fun s => s.queueInsert t
      { pitch := e.pitch, mac := e.mac, endpoint := e.endpoint, port := e.port, seen := s.time.bell }

/-- Learn from a frame of op 0 or 1. -/
def State.learn (s : State) (t p : Nat) (f : Frame) : State × Learnt :=
  let src := (f.payload.drop 6).take 6
  let mac := beNat src
  if (src.getD 0 0).toNat % 2 = 1 then (s.bump Obj.badService, .goOn)
  else
    let enabled := s.flag (Obj.learnEnable f.pitch)
    match s.cacheWay t f.pitch mac with
    | some (k, e) =>
      if e.endpoint == f.source then (s.sourceHit t k e, .goOn)
      else if e.isStatic then ((s.bump (Obj.cacheHits t)).bump Obj.staticConflicts, .goOn)
      else if !enabled then (s.bump (Obj.cacheHits t), .goOn)
      else (s.bump (Obj.cacheHits t)).learnKey t p f mac (some k)
    | none => if enabled then s.learnKey t p f mac none else (s, .goOn)

/-! ### Destinations (08 R237, R247, R252) -/

/-- The bytes of a frame that a lookup reads; past its end they are open (log 6). -/
def Lookup.bytes (l : Lookup) (at_ n : Nat) : List Byte :=
  ((l.frame.payload ++ leBytes 64 (Config.freeValue l.pad)).drop at_).take n

/-- An unknown unicast destination (08 R247). -/
def State.unknown (s : State) (f : Frame) : State × LookupStage :=
  if s.obj (Obj.unknownAction f.pitch) = 0 then (s.bump Obj.unknownFloods, .flood) else (s, .drop false)

/-- The start of a bridge lookup. -/
def State.startBridge (s : State) (t : Nat) (f : Frame) : State × LookupStage :=
  let dst := f.payload.take 6
  if (dst.getD 0 0).toNat % 2 = 1 then (s, .flood)
  else match s.cacheWay t f.pitch (beNat dst) with
    | some (_, e) => (s.bump (Obj.cacheHits t), .hit e.endpoint)
    | none => (s.bump (Obj.cacheMisses t), .chip)

/-- Where the EtherType stands: after one 0x8100 tag or not. -/
def Lookup.tagged (l : Lookup) : Bool := beNat (l.bytes 12 2) == 0x8100

def Lookup.etherType (l : Lookup) : Nat := beNat (l.bytes (if l.tagged then 16 else 12) 2)

/-- The lookup is of an IPv4 address. -/
def Lookup.v4 (l : Lookup) : Bool := l.etherType == 0x0800

/-- Bytes of an address of the family. -/
def Lookup.width (l : Lookup) : Nat := if l.v4 then 4 else 16

/-- Destination address. -/
def Lookup.address (l : Lookup) : Nat :=
  beNat (l.bytes ((if l.v4 then 30 else 38) + (if l.tagged then 4 else 0)) l.width)

/-- No prefix matches (08 R252). -/
def State.routeMiss (s : State) (f : Frame) : LookupStage :=
  let d := s.obj (Obj.routeDefault f.pitch)
  if bit d 31 then .hit (bits d 0 20) else .drop true

/-- Layout entry of a length. -/
def State.layoutOf (s : State) (v4 : Bool) (n : Nat) : Nat :=
  s.tableNat (if v4 then Obj.lpm4Layout.key else Obj.lpm6Layout.key) (4 * n) 4

/-- Lengths to probe, longest first: those of the filter, then the short ones, that have a table. -/
def State.lengthsOf (s : State) (l : Lookup) : List Nat :=
  let top := l.address / 2 ^ (8 * l.width - 16)
  let f := if l.v4 then s.readNat (segBase + 0x2000000 + 2 * top) 2
    else s.readNat (segBase + 0x2020000 + 16 * top) 16
  let long := ((upTo (if l.v4 then 16 else 112)).filter fun i => bit f i).map (· + 17)
  let short := (upTo 17).filter fun n => bit (s.obj (if l.v4 then Obj.lpm4Short else Obj.lpm6Short)) n
  (long.reverse ++ short.reverse).filter fun n => bit (s.layoutOf l.v4 n) 31

/-- Address with its host bits cleared. -/
def prefixOf (width addr n : Nat) : Nat := addr / 2 ^ (8 * width - n) * 2 ^ (8 * width - n)

/-- Address of a prefix bucket (08 R250, R254). -/
def State.bucketOf (s : State) (l : Lookup) (n : Nat) : Nat :=
  let e := s.layoutOf l.v4 n
  let p := prefixOf l.width l.address n
  let h := crc32c (beBytes 2 (l.frame.pitch % 4096) ++ beBytes 1 n ++ beBytes l.width p)
  let b := bits e 0 16 + h % 2 ^ bits e 16 5
  if l.v4 then segBase + 0x1000000 + 128 * b else segBase + 0x1800000 + 256 * b

/-- The prefix entry word matches. -/
def prefixMatches (l : Lookup) (n w : Nat) : Bool :=
  let p := prefixOf l.width l.address n
  if l.v4 then bit w 50 && bits w 0 32 == p && bits w 32 12 == l.frame.pitch && bits w 44 6 == n
  else bit w 148 && bits w 0 128 == p && bits w 128 12 == l.frame.pitch && bits w 140 8 == n

/-- Bytes of a prefix entry. -/
def Lookup.entryBytes (l : Lookup) : Nat := if l.v4 then 4 * l.width else 2 * l.width

/-- One bucket probe of a length: the matching entry's address and word; a poisoned bucket counts as empty (13 R404). -/
def State.probePrefix (s : State) (l : Lookup) (n : Nat) : Option (Nat × Nat) :=
  let size := l.entryBytes
  if s.readBad (s.bucketOf l n) (8 * size) then none
  else ((upTo 8).map fun i => s.bucketOf l n + size * i).findSome? fun a =>
    let w := s.readNat a size
    if prefixMatches l n w then some (a, w) else none

/-- A prefix entry is used: its endpoint, with last_used set (08 R252). -/
def State.usePrefix (s : State) (l : Lookup) (a w : Nat) : State × LookupStage :=
  let at' := if l.v4 then a + 12 else a + 28
  ((s.countFirmware at' 4 true).writeNat at' 4 (s.time.bell % 2 ^ 32),
    .hit (if l.v4 then bits w 64 20 else bits w 192 20))

/-- The chip-table probe of a bridge lookup returns (08 R247). -/
def State.chipReturn (s : State) (t : Nat) (f : Frame) : State × LookupStage :=
  let mac := beNat (f.payload.take 6)
  let s := s.probed (chipEntry (macBucket f.pitch mac) 0) 128
  match s.chipFind f.pitch mac with
  | none => s.unknown f
  | some (_, w) =>
    let seen := s.time.bell - s.stampAge (macSeen w)
    let e : MacEntry := { mac, pitch := f.pitch, isStatic := macStatic w, pendingInsert := false
                          endpoint := macEndpoint w, port := macPort w, lastSeen := seen, written := seen, lastTry := 0 }
    let s := match s.cacheWay t f.pitch mac with
      | some _ => s
      | none => match s.wayFor t f.pitch mac with
        | some k => s.fillWay k e
        | none => s.bump (Obj.fillSkipped t)
    (s, .hit (macEndpoint w))

/-- The next probe after a list of lengths. -/
def State.prefixStage (s : State) (l : Lookup) (ns : List Nat) : LookupStage :=
  if ns.isEmpty then s.routeMiss l.frame else .prefixes ns

/-- A probe of a lookup returns: its next stage (08 R247, R252). -/
def State.probe (s : State) (t : Nat) (l : Lookup) : State × LookupStage :=
  match l.stage with
  | .chip => s.chipReturn t l.frame
  | .filter => (s, s.prefixStage l (s.lengthsOf l))
  | .prefixes (n :: ns) =>
    let s := s.probed (s.bucketOf l n) (8 * l.entryBytes)
    match s.probePrefix l n with
    | some (a, w) => s.usePrefix l a w
    | none => (s, s.prefixStage l ns)
  | x => (s, x)

/-- PROBE_RETURN (08 R239, R252): the probe of one entry of the lookup queue. -/
def execProbeReturn (t : Stall) (entry : Fin 64) (s : State) : Result :=
  .next (match (Tbl.get s.service.lookups t.val [])[entry.val]? with
    | none => s
    | some l =>
      let (s, st) := s.probe t.val l
      let q := (Tbl.get s.service.lookups t.val []).set entry.val { l with stage := st }
      let lookups := Tbl.set s.service.lookups t.val q
      ({ s with service := { s.service with lookups := lookups } } : State).applyLookups t.val)

/-- Stage of a route lookup as it starts. -/
def Lookup.startRoute (l : Lookup) : Option LookupStage :=
  if l.etherType == 0x0800 || l.etherType == 0x86DD then some .filter else none

/-- A service frame starts its lookup: the stage it enters, or dropped as bad (08 R236, R237, R241). -/
def State.startLookup (s : State) (t p : Nat) (f : Frame) : State × LookupStage :=
  if f.payload.length < 14 || 3 ≤ f.op then (s.bump Obj.badService, .drop false)
  else if f.op = 2 then (s, .hit f.dest)
  else
    let (s, r) := s.learn t p f
    match r with
    | .dropIt => (s, .drop false)
    | .floodIt => (s, .flood)
    | .goOn =>
      if f.op = 0 then s.startBridge t f
      else
        let l : Lookup := { frame := f, inPort := p, pad := s.free, stage := .filter }
        match l.startRoute with
        | some st => (s, st)
        | none => (s.bump Obj.badService, .drop false)

/-- SERVICE_LOOKUP (08 R239): the oldest waiting VC7 frame enters the lookup queue, if there is room. -/
def execServiceLookup (t : Stall) (s : State) : Result :=
  let q := Tbl.get s.service.lookups t.val []
  .next (match Tbl.get s.service.waiting t.val [] with
    | (f, p) :: rest =>
      if 64 ≤ q.length then s
      else
        let waiting := Tbl.set s.service.waiting t.val rest
        let s := { s with service := { s.service with waiting := waiting } }
        let pad := s.free
        let (s, st) := s.startLookup t.val p f
        let s := s.draw
        let lookups := Tbl.set s.service.lookups t.val (q ++ [{ frame := f, inPort := p, pad, stage := st }])
        ({ s with service := { s.service with lookups := lookups } } : State).applyLookups t.val
    | [] => s)

/-! ### Segment locks (08 R255, R256) -/

/-- Number of table segments. -/
def segments : Nat := 8480

/-- A requester takes the lock of a segment that nobody holds. -/
def State.takeSeg (s : State) (r : Requester) (seg : Nat) : State :=
  if s.segLocked seg then s
  else
    let locks := Tbl.set s.service.locks seg { holder := r, since := s.time.rung }
    { s with service := { s.service with locks := locks } }

/-- A lock is released; a release by other than its holder counts in lock_expired. -/
def State.dropSeg (s : State) (seg : Nat) (forced : Bool) : State :=
  let locks := Tbl.erase s.service.locks seg
  ({ s with service := { s.service with locks := locks } } : State).when forced fun s => s.bump Obj.lockExpired

/-- A lock held for seg_lock_limit bells is released. -/
def State.expireSeg (s : State) (seg : Nat) : State :=
  match Tbl.find s.service.locks seg with
  | some l => if l.since + s.obj Obj.segLockLimit ≤ s.time.rung then s.dropSeg seg true else s
  | none => s

/-- SEG_LOCK_EXPIRY (08 R256). -/
def execSegLockExpiry (seg : Fin 8480) (s : State) : Result := .next (s.expireSeg seg.val)

/-- Service work of a boundary: learns of a new bell, locks that expire. -/
def State.serviceBoundary (s : State) : State :=
  let s := { s with service := { s.service with learns := [] } }
  (s.service.locks.map (·.1)).foldl State.expireSeg s

end Sys2Proof.Machine
end

