-- ==== Sys2Proof/Machine/View.lean ====
section
/-! DEFINITION. The dictionary objects that show the parts of the state: for each chapter's objects that
are no plain words of the object store, the word they read, and the records of the tables that the module
writes itself (the object tables of 02 to 18). -/

namespace Sys2Proof.Machine

/-! ### Time (02 R69, R70) -/

/-- time_state (02 R49). -/
def TimeState.code : TimeState → Nat
  | .freerun => 0
  | .acquiring => 1
  | .locked => 2
  | .holdover => 3
  | .holdoverExceeded => 4

/-- A base as TIME80. -/
def timeWord (base units : Nat) : Nat := time80 base (nsOf units)

/-- portState of IEEE 1588 (log 26): 0, the default, until the port's link is first in service. -/
def State.ptpPortState (s : State) (p : Nat) : Nat :=
  if !s.ptpEnabled p then 3
  else if !(s.port (s.portLow p)).takesPtp then 0
  else if s.toParent p then (if s.time.state == .locked then 9 else 8)
  else if s.masterPort p then 6
  else if s.passive p then 7
  else if s.time.parent.isSome then 5
  else 4

/-- Objects of index 0x0300. -/
def State.viewTime (s : State) (sub : Nat) : Option Nat :=
  match sub with
  | 0x01 => some s.time.state.code
  | 0x02 => some (timeWord 0 s.time.tb0)
  | 0x03 => some (timeWord 1 s.time.tb1)
  | 0x04 => some (timeWord 2 s.time.tb2)
  | 0x05 => some (timeWord 3 s.time.tb3)
  | 0x08 => some s.time.bell
  | 0x09 => some (b2n s.time.onTb0)
  | 0x0A => some s.time.switchBell
  | 0x19 => some s.holdStatus
  | 0x1A => some (ofSigned 64 s.time.tb0Rate)
  | 0x1C => some (match s.time.parent with
    | some q => q.port
    | none => 0xFFFF)
  | 0x1D => some (match s.time.parent with
    | some q => leNat (beBytes 10 q.source.toNat)
    | none => 0)
  | 0x1E => some (ofSigned 64 s.time.offset)
  | 0x1F => some (ofSigned 64 s.time.relockDrift)
  | _ =>
    if sub = 0x42 || sub = 0x46 then some (s.tinCapture ((sub - 0x42) / 4))
    else if sub = 0x43 || sub = 0x47 then
      let i := s.tin ((sub - 0x43) / 4)
      some (i.queue.length + min 65535 i.lost * 2 ^ 16)
    else none

/-! ### Module, supplies (03 R94, R96, R97) -/

/-- A capsule entry as 256 bytes. -/
def CapsuleEntry.word (e : CapsuleEntry) : Nat :=
  e.seq % 65536 + (e.cls % 256) * 2 ^ 16 + b2n e.pinned * 2 ^ 24 + (e.tb1 % 2 ^ 80) * 2 ^ 32
    + (e.tb0 % 2 ^ 80) * 2 ^ 112 + (e.block % 65536) * 2 ^ 192 + (e.code % 65536) * 2 ^ 208
    + (e.bell % 2 ^ 32) * 2 ^ 224 + e.detail * 2 ^ 256

/-- Objects of index 0x0100. -/
def State.viewModule (s : State) (sub : Nat) : Option Nat :=
  match sub with
  | 0x05 => some s.power.state.code
  | 0x06 => some s.power.strapRaw
  | 0x0C => some s.power.capsule.length
  | 0x0E => some (match s.power.capsule[s.obj Obj.capsuleIndex]? with
    | some e => e.word
    | none => 0)
  | 0x0F => some ((s.power.capsuleNext + 65535) % 65536 * b2n (!s.power.capsule.isEmpty))
  | _ => none

/-- warden_state (15 R483): the most severe that holds. -/
def State.wardenState (s : State) : Nat :=
  if s.warden.levels.any (fun e => e.2 == 2) then 4
  else if s.warden.levels.any (fun e => e.2 == 1) then 3
  else if s.warden.safe then 2
  else b2n s.warden.short

/-- pin_mw: none while the module does not convert, the power of the sweep of the bell just ended (15 R462), and a
free value where no sweep has given it (log 17). -/
def State.inputPower (s : State) : Nat :=
  if !s.power.converting then 0
  else if s.dieRunning && s.warden.lateRun == 0 then s.warden.module.headD s.drawn
  else s.drawn

/-- Objects of index 0x0200, supplies and the warden: energy_in counts the energy that the sweeps report, and a free
amount of what is drawn while no sweep runs (log 17); an input that is reversed reads as 0 mV, and a capsule_index
beyond the held entries as an entry of 0 (log 105). -/
def State.viewSupply (s : State) (sub : Nat) : Option Nat :=
  let v := s.power.vinMv
  match sub with
  | 0x01 => some v.toNat
  | 0x03 => some (s.inputPower % 2 ^ 32)
  | 0x06 => some (if v < -1000 then 2 else if 1000 < v then 1 else 0)
  | 0x07 => some (b2n s.power.seated)
  | 0x08 => some (s.power.railsUp + s.power.railsLatched * 2 ^ 16)
  | 0x09 => some s.power.latchCause
  | 0x0E => some ((s.obj Obj.energyIn + (if s.dieRunning then 0 else s.drawn)) % 2 ^ 64)
  | 0x22 => some s.wardenState
  | _ => none

/-! ### Optics (04 R131 to R133) -/

/-- cal_state's phase. -/
def CalPhase.code : CalPhase → Nat
  | .idle => 0
  | .tuning => 1
  | .moved => 2
  | .returning => 3

/-- A thoroughfare entry. -/
def Thoro.word (x : Thoro) : Nat :=
  if !x.active && !x.scheduled then 0
  else b2n x.active + b2n x.scheduled * 2 + (x.rx % 4) * 4 + (x.tx % 4) * 16 + (x.k % 16) * 64
    + (x.token % 65536) * 2 ^ 16

/-- Objects of an optical engine. -/
def State.viewEngine (s : State) (e sub : Nat) : Option Nat :=
  let x := s.engine e
  if sub = 0x01 then some x.state.code
  else if sub = 0x30 then some (s.obj (Obj.refclkSpread 0))
  else if sub = 0x0A then some (x.on17.getD 31 + x.on16.getD 31 * 32)
  else if 0x10 ≤ sub ∧ sub < 0x18 then some (s.thoro (8 * e + (sub - 0x10))).word
  else none

/-- Objects of a laser pack. -/
def State.viewPack (s : State) (e sub : Nat) : Option Nat :=
  let x := s.pack e
  match sub with
  | 0x01 => some x.bay.code
  | 0x03 => some (match x.ident with
    | some i => i.packType.toNat
    | none => 0)
  | 0x04 => some (match x.ident with
    | some i => i.serial.toNat
    | none => 0)
  | 0x05 => some x.lit
  | 0x06 => some x.faded
  | 0x07 => some x.failed
  | _ =>
    if 0x40 ≤ sub ∧ sub < 0x52 then
      some (match x.ident with
        | some i => i.refs.getD (sub - 0x40) 0 % 2 ^ 32
        | none => 0)
    else none

/-- fiber_state: 0 dark, 1 shutter closed or light lost, 2 lit. -/
def State.fiberState (s : State) (k : Nat) : Nat :=
  let f := s.fiber k
  if k < 64 then (if f.shut then 1 else if (s.pack (engineOf k)).lit != 0 || s.thoroOnTx k then 2 else 0)
  else if f.dark then 1 else if f.lit then 2 else 0

/-- Objects of a fiber in one direction: key t for TX, 64 + t for RX. -/
def State.viewFiber (s : State) (k sub : Nat) : Option Nat :=
  let f := s.fiber k
  match sub with
  | 0x01 => some (s.fiberState k)
  | 0x02 => some (s.carrierMapOf (k % 64) (decide (64 ≤ k)))
  | 0x03 => some (b2n f.moveCapable)
  | 0x04 => some (f.calHome.getD 31 + f.calPhase.code * 32)
  | _ => none

/-! ### Ports (05 R164, 02 R70, 06 R210, 07 R234, 08 R260) -/

/-- Objects of index 0x1400 + p. -/
def State.viewPort (s : State) (p sub : Nat) : Option Nat :=
  let low := s.portLow p
  -- kept at the lowest member: the others read 0 (06 R210, 07 R234, 08 R260)
  if 0x30 ≤ sub && low != p then some 0
  else match sub with
  | 0x01 => some (s.linkStateOf p).code
  | 0x05 => some ((upTo 16).foldl (fun w i => w + (s.port p).fecHist.getD i 0 * 2 ^ (64 * i)) 0)
  | 0x0C => some (((s.laneOf false p).map (· % 18)).getD 31 + ((s.laneOf true p).map (· % 18)).getD 31 * 256)
  | 0x20 => some (s.ptpPortState p)
  | 0x23 => some (ofSigned 64 (Tbl.get s.time.pathDelay p 0))
  | 0x30 => some (leNat ((upTo 8).map fun n => BitVec.ofNat 8 (egressDepth (s.port low) n)))
  | 0x50 => some (s.learnedEntries p)
  | _ =>
    if 0x38 ≤ sub ∧ sub < 0x40 then some (Tbl.get s.ledger.egSample (8 * p + (sub - 0x38)) s.emptySample)
    else if 0x40 ≤ sub ∧ sub < 0x48 then some (Tbl.get s.ledger.egMax (8 * p + (sub - 0x40)) s.emptySample)
    else none

/-- Width, payload and credit objects of a port (05 R162). -/
def groupedObj (sub : Nat) : Bool := sub == 1 || sub == 3 || (decide (8 ≤ sub) && decide (sub < 0x10))

/-- Objects of index 0x1000 + p at a member that is not the lowest: width, payload and credits read as the
lowest member's, PTP and learning objects 0 (05 R162, 02 R70, 08 R260). -/
def State.viewMember (s : State) (p sub : Nat) : Option Nat :=
  if s.isLowest p then none
  else if sub = 1 then some (s.obj (Obj.portWidth (s.portLow p)))
  else if sub = 3 then some (s.obj (Obj.maxPayload (s.portLow p)))
  else if groupedObj sub then some (s.obj (Obj.creditVc (s.portLow p) (sub - 8)))
  else if sub = 0x20 || (decide (0x28 ≤ sub) && decide (sub ≤ 0x2A)) then some 0
  else none

/-! ### Stalls -/

/-- Threads of a stall in a state. -/
def State.threadsIn (s : State) (t : Nat) (p : ThreadState → Bool) : Nat :=
  (s.update.threads.filter fun e => e.1 / 256 == t && p e.2.state).length

/-- compute_state (14 R461). -/
def ComputeState.code : ComputeState → Nat
  | .inCompute => 0
  | .sublet => 1
  | .fenced => 2
  | .bandArmed => 3
  | .inBand => 4
  | .testWaiting => 5
  | .testing => 6

/-- selftest_state (12 R401). -/
def SelfTest.code : SelfTest → Nat
  | .none => 0
  | .pending => 1
  | .running => 2
  | .passed => 3
  | .failed => 4

/-- The neighbour that receives a stall's work (14 R458). -/
def State.neighbourOf (s : State) (t : Nat) : Nat := (s.stall t).neighbour.getD (t ^^^ 1)

/-- The compute slew limit in force, mW per slew_window (15 R470, 04 R125). -/
def State.slewNow (s : State) (t : Nat) : Nat :=
  let w := s.obj Obj.slewW
  if (Tbl.find s.warden.halfSlew t).isSome then w / 2 else w

/-- Objects of a stall: warden, tests, pools, till, runner. -/
def State.viewStall (s : State) (t sub : Nat) : Option Nat :=
  let x := s.stall t
  match sub with
  | 0x12 => some (Tbl.get s.warden.ue t 0)
  | 0x13 => some (Tbl.get s.warden.array t 0)
  | 0x15 => some (s.slewNow t)
  | 0x16 => some (Tbl.get s.warden.levels t 0)
  | 0x30 => some x.compute.code
  | 0x31 => some (s.neighbourOf t)
  | 0x32 => some (ofSigned 64 (x.band.getD (0, 0)).1)
  | 0x33 => some (ofSigned 64 (x.band.getD (0, 0)).2)
  | 0xC0 => some (s.ctxsAt t)
  | 0xC5 => some (s.groupsHomed t).length
  | 0xC6 => some (s.queueEntries t)
  | 0xC8 => some (s.roundsAt t)
  | 0xD0 => some (256 - s.threadsIn t (· != .free))
  | 0xD1 => some (s.threadsIn t (· == .running))
  | 0xD2 => some (s.threadsIn t fun x => x == .waiting || x == .ready || x == .parked)
  | 0xD4 => some (ofSigned 64 (s.tankOf t))
  | 0xE0 => some (s.array t).fenced
  | 0xE1 => some (ofSigned 64 (s.array t).tank)
  | 0xE2 => some (s.array t).descs.length
  | 0xE9 => some (s.array t).test.code
  | 0xEA => some (leNat ((upTo 16).map fun q => BitVec.ofNat 8 (min 255 ((s.array t).faultCounts.getD q 0))))
  | _ =>
    if 0x40 ≤ sub ∧ sub < 0x52 then some (s.laneAt (laneKey false t (sub - 0x40))).word
    else if 0x60 ≤ sub ∧ sub < 0x72 then some (s.laneAt (laneKey true t (sub - 0x60))).word
    else if 0x80 ≤ sub ∧ sub < 0x89 then some (s.poolConfigWord t (sub - 0x80))
    else if 0x90 ≤ sub ∧ sub < 0x99 then some (s.poolStatus t (sub - 0x90))
    else none

/-! ### Update engine (11 R374, R375) -/

/-- Code of a thread's state (11 R337). -/
def ThreadState.code : ThreadState → Nat
  | .free => 0
  | .parked => 1
  | .ready => 2
  | .running => 3
  | .waiting => 4
  | .halted => 5

/-- A thread_table entry. -/
def State.threadEntry (s : State) (t n : Nat) : Nat :=
  let x := s.thread t n
  x.state.code + (x.fault % 256) * 2 ^ 8 + (x.run % 64) * 2 ^ 16 + ((n - x.team) % 256) * 2 ^ 22
    + x.pc.toNat * 2 ^ 64

/-- A run is in a state other than free. -/
def Run.live (r : Run) : Bool := r.state != .free

/-- A program_entry. -/
def State.programEntry (s : State) (k : Nat) : Nat :=
  match Tbl.find s.update.programs k with
  | none => 0
  | some p =>
    let used := s.update.runs.any fun e => e.2.live && e.2.slot == k
    let measured := (upTo 64).foldl (fun m t => max m (s.measuredMean k t)) 0
    p.id % 65536 + (if used then 2 else 1) * 2 ^ 16 + (p.bytes % 2 ^ 32) * 2 ^ 32 + (p.declared % 2 ^ 32) * 2 ^ 64
      + (measured % 2 ^ 32) * 2 ^ 96 + (p.base % 2 ^ 48) * 2 ^ 128

/-- Code of a run's state. -/
def RunState.code : RunState → Nat
  | .free => 0
  | .scheduled => 1
  | .running => 2
  | .stopping => 3

/-- A run_entry. -/
def State.runEntryWord (s : State) (r : Nat) : Nat :=
  let x := s.runOf r
  let halted := (s.update.threads.filter fun e => e.2.run == r && e.2.state == .halted).length
  if !x.live then 0
  else x.slot % 64 + x.state.code * 2 ^ 6 + (x.pitch % 4096) * 2 ^ 8 + (Nat.log2 x.teamSize % 16) * 2 ^ 20
    + (x.teams % 512) * 2 ^ 24 + (x.stalls % 2 ^ 64) * 2 ^ 64 + (x.entry % 2 ^ 32) * 2 ^ 128
    + (halted % 65536) * 2 ^ 160 + (x.argument % 2 ^ 48) * 2 ^ 176

/-- Objects of index 0x0800. -/
def State.viewUpdate (s : State) (sub : Nat) : Option Nat :=
  match sub with
  | 0x01 => some s.update.programs.length
  | 0x02 => some (s.update.threads.filter fun e => e.2.state != .free).length
  | 0x04 => some firmwareReserve
  | 0x05 => some s.dramUsable
  | 0xA3 => some ((upTo 64).foldl (fun n t => n + popCount (s.array t).fenced 16) 0)
  | _ =>
    if 0x10 ≤ sub ∧ sub < 0x50 then some (s.programEntry (sub - 0x10))
    else if 0x50 ≤ sub ∧ sub < 0x90 then some (s.runEntryWord (sub - 0x50))
    else none

/-! ### Memory (13 R424 to R426) -/

/-- channel_state (13 R426). -/
def ChanState.code : ChanState → Nat
  | .inService => 0
  | .mappedOut => 1
  | .copying => 2
  | .holes => 3
  | .waiting => 4

/-- Channels whose state is not mapped out. -/
def State.channelsInService (s : State) : Nat :=
  ((upTo 128).filter fun c => (s.chan c).state != .mappedOut).length

/-- Bytes of the channels in service: one being copied is no longer (13 R416). -/
def State.capacityNow (s : State) : Nat :=
  ((upTo 128).filter fun c => (s.chan c).state == .inService || (s.chan c).state == .waiting).length * 2500000000

/-- dram_usable after the next die reset (13 R406, R419): channels being copied or with holes are out. -/
def State.dramUsableNext (s : State) : Nat :=
  usableOf (channelOrder (Tbl.mapVals s.mem.chans fun _ => chanAfterReset)).length
    (min 4 (s.obj Obj.relocationReserve))

/-- Objects of index 0x1C00, module memory. -/
def State.viewMemory (s : State) (sub : Nat) : Option Nat :=
  match sub with
  | 0x81 => some (s.mem.chans.filter fun e => e.2.slot.isSome).length
  | 0x82 => some s.channelsInService
  | 0x83 => some (s.capacityNow)
  | 0x84 => some s.dramUsableNext
  | _ => none

/-- stack_bytes: bytes read and written at the channels of a stack (13 R425). -/
def State.stackBytesOf (s : State) (q : Nat) : Nat :=
  (upTo 32).foldl (fun n k => n + s.obj (Obj.readBytes (32 * q + k)) + s.obj (Obj.writeBytes (32 * q + k))) 0

/-- Objects of a memory channel. -/
def State.viewChannel (s : State) (c sub : Nat) : Option Nat :=
  let x := s.chan c
  match sub with
  | 0x01 => some x.state.code
  | 0x02 => some (x.slot.getD 255)
  | 0x05 => some ((s.mem.poison.filter fun u => s.channelOf (64 * u) == some c).length + s.deadUnitsOn c)
  | 0x06 => some x.spares.length
  | 0x07 => some (256 - x.spares.length)
  | _ => none

/-! ### Other module-wide objects -/

/-- bank_state (06 R209). -/
def State.bankState (s : State) : Nat :=
  if s.switch.guardEnd.isSome then 2 else if s.switch.switch.isSome then 1 else 0

/-- Objects of index 0x0500. -/
def State.viewForwarding (s : State) (sub : Nat) : Option Nat :=
  match sub with
  | 0x01 => some s.switch.bank
  | 0x02 => some s.bankState
  | 0x09 => some (s.bankDigest 0)
  | 0x0A => some (s.bankDigest 1)
  | _ => none

/-- Objects of index 0x0700. -/
def State.viewCollectives (s : State) (sub : Nat) : Option Nat :=
  match sub with
  | 0x01 => some s.groupsOpen
  | 0x02 => some (s.coll.ctxs.filter fun c => c.live).length
  | 0x04 => some s.spillReserved
  | 0x05 => some s.spillShared
  | 0x23 => some (s.coll.kept.filter fun e => e.2.held).length
  | _ => none

/-- Objects of index 0x0900. -/
def State.viewCustody (s : State) (sub : Nat) : Option Nat :=
  match sub with
  | 0x01 => some (s.custody.pairs.filter fun e => e.2.state != .free).length
  | 0x24 => some ((upTo 64).foldl (fun m t => if (s.stall t).out then setBit m t else m) 0)
  | 0x25 => some s.homeMap
  | _ => none

/-- The value word of a counter (16 R487). -/
def State.counterWord (s : State) (b i : Nat) : Nat :=
  let c := s.counter b i
  c.count + b2n c.overflowed * 2 ^ 48 + b2n (s.chainHigh b i) * 2 ^ 49

/-- Objects of the counters: blocks run over indices, eight counters or two filters each (16 R505). -/
def State.viewCounters (s : State) (index sub : Nat) : Option Nat :=
  if 0x0A40 ≤ index ∧ index ≤ 0x0A4A then
    let n := 256 * (index - 0x0A40) + sub
    some (s.counterWord (n / 8) (n % 8))
  else if 0x0A60 ≤ index ∧ index ≤ 0x0A6A then
    let n := 256 * (index - 0x0A60) + sub
    some (s.counter (n / 8) (n % 8)).control
  else if 0x0A80 ≤ index ∧ index ≤ 0x0A82 then
    let n := 256 * (index - 0x0A80) + sub
    some (s.filterOf (n / 2) (n % 2))
  else none

/-- Bytes of the sections of a ledger entry (16 R495). -/
def sectionBytes (w : Nat) : Nat :=
  (if bit w 0 then 21632 else 0) + (if bit w 1 then 263168 else 0) + (if bit w 2 then 65536 else 0)
    + (if bit w 3 then 2048 else 0)

/-- Slot size of the ledger: header and sections, rounded up to 4 KiB (16 R495). -/
def State.ledgerSlotBytes (s : State) : Nat := ceilDiv (64 + sectionBytes (s.obj Obj.ledgerSections)) 4096 * 4096

/-- Objects of index 0x0A00. -/
def State.viewLedger (s : State) (sub : Nat) : Option Nat :=
  match sub with
  | 0x07 => some s.ledgerSlotBytes
  | _ => none

/-- Code of the PCIe link state (18 R576). -/
def PcieState.code : PcieState → Nat
  | .down => 0
  | .training => 1
  | .up => 2
  | .perst => 3

/-- Objects of index 0x0B00. -/
def State.viewHost (s : State) (sub : Nat) : Option Nat :=
  match sub with
  | 0x01 => some s.host.link.code
  | 0x02 => some s.host.speed
  | 0x03 => some s.host.width
  | 0x07 => some s.host.numVfs
  | _ => none

/-- An owner signer set is enrolled (18 R571). -/
def State.signerSet (s : State) (n : Nat) : Bool := s.obj (Obj.ownerSigner (n - 1)) != 0

/-- Objects of index 0x0400. -/
def State.viewSecurity (s : State) (sub : Nat) : Option Nat :=
  match sub with
  | 0x07 => some (b2n (s.obj Obj.keyOwner != 0) + b2n (s.obj Obj.keyOperator != 0) * 2
      + (upTo 4).foldl (fun m i => m + b2n (s.signerSet (i + 1)) * 2 ^ (2 + i)) 0)
  | 0x09 => some (if s.host.attesting then 1 else if s.host.attestReady then 2 else 0)
  | _ => none

/-- Objects of a command slot and its result (17 R531). -/
def State.viewSlot (s : State) (index sub : Nat) : Option Nat :=
  let x := s.slot ((index - 0x0F00) / 2)
  if index % 2 = 0 then
    match sub with
    | 0x01 => some x.token
    | 0x02 => some x.opcode
    | 0x03 => some x.bell
    | 0x04 => some 0
    | _ => if 0x10 ≤ sub ∧ sub < 0x30 then some (argOf x.args (sub - 0x10)) else none
  else
    match sub with
    | 0x01 => some x.status.code
    | 0x02 => some x.code
    | 0x03 => some x.resultToken
    | 0x04 => some x.taken
    | 0x05 => some x.effect
    | 0x06 => some x.final
    | 0x07 => some x.progress
    | _ => if 0x10 ≤ sub ∧ sub < 0x20 then some (Tbl.get x.results (sub - 0x10) 0) else none

/-- Objects of a pitch: its state and the buckets that a template fills (07 R223, R233). -/
def State.viewPitch (s : State) (p sub : Nat) : Option Nat :=
  if sub = 0x01 then some (s.pitchStateWord p)
  else if 0x08 ≤ sub ∧ sub < 0x10 then
    some (s.rateInForce p (sub - 0x08))
  else if 0x10 ≤ sub ∧ sub < 0x18 then some (s.bucketBurstOf p (sub - 0x10))
  else if 0x18 ≤ sub ∧ sub < 0x20 then some (b2n (s.bucketDrops p (sub - 0x18)))
  else none

/-! ### What a requester keeps -/

/-- What the dictionary keeps for a requester. -/
def State.req (s : State) (r : Requester) : ReqSt := (s.dict.reqs.find? fun x => x.who == r).getD { who := r }

/-- Keep something for a requester. -/
def State.setReq (s : State) (r : Requester) (x : ReqSt) : State :=
  { s with dict := { s.dict with reqs := (s.dict.reqs.filter fun y => y.who != r) ++ [{ x with who := r }] } }

/-- access_status (17 R545). -/
def ReqSt.status (x : ReqSt) : Nat :=
  x.code % 256 + (x.index % 65536) * 2 ^ 16 + (x.sub % 256) * 2 ^ 32 + min x.failed (2 ^ 24 - 1) * 2 ^ 40

/-- A transfer word (17 R510). -/
def ReqSt.transferWord (x : ReqSt) (key : Nat) : Nat :=
  if x.state != 0 && x.key == key then
    x.state % 256 + (x.tcode % 256) * 2 ^ 8 + min x.moved (2 ^ 32 - 1) * 2 ^ 32
  else 0

/-! ### The word of any object -/

/-- The word of an object that shows a part of the state, or nothing for one of the object store. -/
def State.viewOf (s : State) (r : Requester) (index sub : Nat) : Option Nat :=
  match index with
  | 0x0100 => s.viewModule sub
  | 0x0200 => s.viewSupply sub
  | 0x0300 => s.viewTime sub
  | 0x0400 => s.viewSecurity sub
  | 0x0500 => s.viewForwarding sub
  | 0x0600 => if sub = 0x01 then
      some (1 + (s.pitches.pitches.filter fun e => e.1 != 0 && e.2.state == .admitted).length) else none
  | 0x0700 => s.viewCollectives sub
  | 0x0800 => s.viewUpdate sub
  | 0x0900 => s.viewCustody sub
  | 0x0A00 => s.viewLedger sub
  | 0x0B00 => s.viewHost sub
  | 0x0F20 => match sub with
    | 0x01 => some (s.req r).status
    | 0x02 => some s.dict.head
    | 0x03 => some s.dict.tail
    | 0x11 => some objectCount
    | _ => none
  | 0x0F21 => some (bits (s.req r).long (64 * sub) 64)
  | _ =>
    if 0x0A40 ≤ index ∧ index ≤ 0x0A82 then s.viewCounters index sub
    else if 0x0F00 ≤ index ∧ index < 0x0F20 then s.viewSlot index sub
    else if 0x1000 ≤ index ∧ index < 0x1400 then
      s.viewMember (index - 0x1000) sub
    else if 0x1400 ≤ index ∧ index < 0x1800 then s.viewPort (index - 0x1400) sub
    else if 0x1800 ≤ index ∧ index < 0x1840 then s.viewStall (index - 0x1800) sub
    else if 0x1900 ≤ index ∧ index < 0x1980 then s.viewFiber (index - 0x1900) sub
    else if 0x1A00 ≤ index ∧ index < 0x1A10 then s.viewEngine (index - 0x1A00) sub
    else if 0x1A10 ≤ index ∧ index < 0x1A20 then s.viewPack (index - 0x1A10) sub
    else if 0x1B00 ≤ index ∧ index < 0x1B80 then s.viewChannel (index - 0x1B00) sub
    else if index = 0x1C00 ∧ 0x80 ≤ sub then s.viewMemory sub
    else if 0x1C00 ≤ index ∧ index < 0x1C04 ∧ sub = 0x06 then some (s.stackBytesOf (index - 0x1C00) % 2 ^ 64)
    else if 0x2000 ≤ index ∧ index < 0x3000 then s.viewPitch (index - 0x2000) sub
    else none

/-- Objects that show a measurement which no command reports: they read as free values (log 17). -/
def isLive (index sub : Nat) : Bool :=
  (index == 0x0200 && ([0x02, 0x04, 0x05].contains sub || (decide (0x10 ≤ sub) && decide (sub < 0x1C))))
    || (index == 0x0800 && sub == 0x0B)
    || (decide (0x1900 ≤ index) && decide (index < 0x1980) && (sub == 0x07 || decide (0x20 ≤ sub)))
    || (decide (0x1A00 ≤ index) && decide (index < 0x1A10) && sub == 0x02)
    || (decide (0x1A10 ≤ index) && decide (index < 0x1A20) && (sub == 0x08 || sub == 0x09 || decide (0x60 ≤ sub)))

/-- The whole number of an object of `n` bytes that a signed word extends, cut to its bytes. -/
def cutTo (n v : Nat) : Nat := v % 2 ^ (8 * n)

/-- A number of `w` bits, sign-extended to a word (17 R507). -/
def extendWord (w v : Nat) : Nat := ofSigned 64 (toSigned w v)

/-- "DVZ-W1024-320", zero-padded (03 R96). -/
def orderingCode : Nat := leNat [0x44, 0x56, 0x5A, 0x2D, 0x57, 0x31, 0x30, 0x32, 0x34, 0x2D, 0x33, 0x32, 0x30]

/-- A factory object: the ordering code as the table states it, any other as the identity store holds it
(log 5). -/
def factoryWord (key : Nat) : Nat := if key = Obj.orderingCode.key then orderingCode else Config.factory key

/-- The value of an object that is no table: for a long object the number of its bytes, else its word. -/
def State.value (s : State) (r : Requester) (row : ObjRow) (index sub : Nat) : Nat :=
  let key := 256 * index + sub
  let w := 8 * row.ty.size
  match row.acc with
  | .wo => 0
  | _ =>
    if row.factory then factoryWord key % 2 ^ w
    else if isLive index sub then (if row.ty.signed then extendWord w s.drawn else s.drawn % 2 ^ w)
    else match s.viewOf r index sub with
      | some v => v
      | none => Tbl.get s.objs key (row.default sub)

/-! ### Tables (17 R510) -/

/-- The device address of a table that lies in the table segments (08 R254). -/
def segTable (key : Nat) : Option Nat :=
  if key = Obj.macTable.key then some segBase
  else if key = Obj.lpm4Store.key then some (segBase + 0x1000000)
  else if key = Obj.lpm6Store.key then some (segBase + 0x1800000)
  else if key = Obj.lpm4Filter.key then some (segBase + 0x2000000)
  else if key = Obj.lpm6Filter.key then some (segBase + 0x2020000)
  else none

/-- An event record (17 R529). -/
def EventRec.word (e : EventRec) : Nat :=
  e.cls % 256 + (e.block % 65536) * 2 ^ 16 + (e.index % 65536) * 2 ^ 32 + (e.sub % 256) * 2 ^ 48
    + (e.bell % 2 ^ 64) * 2 ^ 64 + (e.arg % 2 ^ 64) * 2 ^ 128 + (e.time % 2 ^ 64) * 2 ^ 192

/-- Place of a message's source among those whose responses are kept (17 R523). -/
def State.sourcePlace (s : State) (c : MsgClass) (route : MsgRoute) : Nat :=
  ((s.dict.responses.filter fun k => k.cls == c).findIdx fun k => k.route == route) % 64

/-- Code of a message class. -/
def MsgClass.code : MsgClass → Nat
  | .owner => 1
  | .operator => 2

/-- seg_lock_holders' entry for a holder (08 R259). A holder by another route has no stated code: a free
value (log 6). -/
def State.holderWord (s : State) (r : Requester) : Nat :=
  match r with
  | .pf0 => 1 * 2 ^ 12
  | .vf v => (if (s.vfBindingOf (v.val + 1)).2.1 then 2 else 3) * 2 ^ 12 + (v.val + 1)
  | .mgmt c a => 2 ^ 14 + MsgClass.code c * 2 ^ 12 + s.sourcePlace c (.mgmt a)
  | .vc6 c e => 2 * 2 ^ 14 + MsgClass.code c * 2 ^ 12 + s.sourcePlace c (.vc6 e)
  | _ => s.drawn % 65536

/-- Lock bits of eight segments. -/
def State.lockByte (s : State) (i : Nat) : Nat :=
  (upTo 8).foldl (fun m b => if s.segLocked (8 * i + b) then setBit m b else m) 0

/-- A kept-partial record (10 R322). -/
def State.keptWord (s : State) (i : Nat) (k : Kept) : Nat :=
  k.group % 65536 + (k.generation % 65536) * 2 ^ 16 + (k.seq % 2 ^ 32) * 2 ^ 32 + (k.chunk % 2 ^ 24) * 2 ^ 64
    + (k.till % 64) * 2 ^ 88 + b2n k.held * 2 ^ 94 + b2n k.lateWindow * 2 ^ 95 + (k.members.length % 2048) * 2 ^ 96
    + (k.deadline % 2 ^ 64) * 2 ^ 112 + (s.keptBitmap i % 2 ^ 48) * 2 ^ 176 + (k.late % 2 ^ 32) * 2 ^ 224

/-- A store_directory entry (18 R575). -/
def StoreEntry.word (e : StoreEntry) : Nat :=
  e.state % 256 + (e.kind % 256) * 2 ^ 8 + b2n e.autoload * 2 ^ 16 + (e.identity % 2 ^ 64) * 2 ^ 32
    + (e.bytes % 2 ^ 32) * 2 ^ 96 + (e.svn % 65536) * 2 ^ 128 + (e.signer % 256) * 2 ^ 144

/-- A tenant may read the object, at least with open books (07 R229, 16 R500, 17 R546). -/
def tenantReads (index sub : Nat) : Bool :=
  index == 0x0F21 || (decide (0x0A40 ≤ index) && decide (index ≤ 0x0A4A))
    || (decide (0x2000 ≤ index) && decide (index < 0x3000)
        && (sub == 1 || sub == 2 || (decide (0x08 ≤ sub) && decide (sub < 0x50))))

/-- A tenant may write the object (07 R229, R230, 17 R546). -/
def tenantWrites (index sub : Nat) : Bool :=
  index == 0x0F21 || (decide (0x2000 ≤ index) && decide (index < 0x3000)
    && decide (0x20 ≤ sub) && decide (sub < 0x28))

/-- The operator class may write an object of the index (17 R513). -/
def operatorWrites (index : Nat) : Bool := index != 0x0400 && index != 0x0B00

/-- A catalogue entry (17 R545). -/
def catalogueWord (index sub : Nat) (r : ObjRow) : Nat :=
  let rd := 3 + b2n (tenantReads index sub) * 4
  let wr := if r.acc == .ro then 0
    else 1 + b2n (operatorWrites index) * 2 + b2n (tenantWrites index sub) * 4
  index + sub * 2 ^ 16 + r.ty.code * 2 ^ 24 + r.acc.code * 2 ^ 28 + r.ty.size * 2 ^ 32 + rd * 2 ^ 44
    + wr * 2 ^ 48 + b2n (isMgmtKey (256 * index + sub)) * 2 ^ 52

/-- Entry `i` of a table that the module writes itself, as a number; nothing for a table of the store. -/
def State.moduleEntry (s : State) (key i : Nat) : Option Nat :=
  let index := key / 256
  let sub := key % 256
  if key = Obj.attestReport.key then some ((s.host.report.getD i 0).toNat)
  else if key = Obj.storeDirectory.key then some (Tbl.get s.host.store i {}).word
  else if key = Obj.mcastBitmaps.key then some (s.bitmap (i % 65536) (i / 65536))
  else if key = Obj.segLocks.key then some (s.lockByte i)
  else if key = Obj.segLockHolders.key then
    some (match Tbl.find s.service.locks i with
      | some l => s.holderWord l.holder
      | none => 0)
  else if key = Obj.groupTable.key then some (s.groupRecord i)
  else if key = Obj.keptPartials.key then
    some (match Tbl.find s.coll.kept i with
      | some k => s.keptWord i k
      | none => 0)
  else if key = Obj.faultRing.key then
    some (match Tbl.find s.update.faults i with
      | some f => f.word
      | none => 0)
  else if key = Obj.pairTable.key then some (s.pairRecord i)
  else if key = Obj.eventRing.key then
    some (match Tbl.find s.dict.events i with
      | some e => e.word
      | none => 0)
  else if key = Obj.catalogue.key then
    some (match nthObject indexRuns i with
      | some (index, sub, r) => catalogueWord index sub r
      | none => 0)
  else if key = Obj.repairLog.key then some (s.mem.repairLog.getD i 0)
  else if 0x1800 ≤ index ∧ index < 0x1840 then
    let t := index - 0x1800
    match sub with
    | 0xA0 => some (Tbl.get s.ledger.voqSample (514 * t + i) s.emptySample)
    | 0xA1 => some (Tbl.get s.ledger.voqMax (514 * t + i) s.emptySample)
    | 0xB4 => some (match Tbl.find s.service.caches (cacheKey t (i / 4) (i % 4)) with
      | some e => e.word
      | none => 0)
    | 0xD8 => some (s.threadEntry t i)
    | _ => none
  else none

/-- Read entries of a table: `n` entries of `size` bytes from entry `i`. -/
def State.moduleBytes (s : State) (key size i : Nat) : Nat → List Byte
  | 0 => []
  | n + 1 => leBytes size ((s.moduleEntry key i).getD 0) ++ s.moduleBytes key size (i + 1) n

/-- Bytes of a factory table. -/
def factoryBytes (key off : Nat) : Nat → List Byte
  | 0 => []
  | n + 1 => Config.factoryByte key off :: factoryBytes key (off + 1) n

/-- Read bytes of a table from an offset, whole entries. -/
def State.tableBytes (s : State) (row : ObjRow) (key size off n : Nat) : List Byte :=
  if row.factory then factoryBytes key off n
  else match segTable key with
    | some a => s.read (a + off) n
    | none =>
      if (s.moduleEntry key 0).isSome then s.moduleBytes key size (off / size) (n / size)
      else s.readTable key off n

end Sys2Proof.Machine
end

