-- ==== Sys2Proof/Machine/Ledger.lean ====
section
/-! DEFINITION. The ledger and the two sampling units (16 R494 to R503). -/

namespace Sys2Proof.Machine

/-! ### Rings (16 R496, R501) -/

/-- The clerk writes bytes of a ring: in DRAM, or by posted writes to the host, which are dropped while no
request can be sent (16 R496, 18 R553, R556). -/
def State.ringWrite (s : State) (a : Nat) (bs : List Byte) : State :=
  if isHost a then
    (if s.hostOpen then s.hostStore a bs { privilege := some 1, pitch := some 0 } else s.hostError)
  else (s.countFirmware a bs.length true).store a bs

/-! ### Sections (16 R495) -/

/-- A counter's record (16 R495). -/
def State.counterRecord (s : State) (b i : Nat) : Nat :=
  let c := (s.counter b i).control
  s.counterWord b i + b2n (bit c 12) * 2 ^ 50 + bits c 0 12 * 2 ^ 52

/-- Section 0: eight counters of each of the 338 blocks. -/
def State.counterSection (s : State) : List Byte :=
  (upTo 2704).flatMap fun n => leBytes 8 (s.counterRecord (n / 8) (n % 8))

/-- Section 1: the queue maxima of stalls 0 to 63. -/
def State.voqSection (s : State) : List Byte :=
  (upTo 32896).flatMap fun k => leBytes 8 (Tbl.get s.ledger.voqMax k s.emptySample)

/-- Section 2: the egress maxima of ports 0 to 1023 and VC 0 to 7. -/
def State.egressSection (s : State) : List Byte :=
  (upTo 8192).flatMap fun k => leBytes 8 (Tbl.get s.ledger.egMax k s.emptySample)

/-- The value of entry i of ledger_list, zero-extended; nothing where it names no object (16 R495). -/
def State.listedValue (s : State) (i : Nat) : Option Nat :=
  let w := s.tableNat Obj.ledgerList.key (4 * i) 4
  (dictRow (bits w 8 16) (bits w 0 8)).map fun row =>
    cutTo row.ty.size (s.value .pf0 row (bits w 8 16) (bits w 0 8))

/-- Section 3: the listed objects; unused entries 0. -/
def State.listSection (s : State) : List Byte :=
  (upTo 256).flatMap fun i =>
    leBytes 8 (if i < s.obj Obj.ledgerListCount then (s.listedValue i).getD 0 else 0)

/-- The enabled sections, in order. -/
def State.ledgerBody (s : State) (w : Nat) : List Byte :=
  (if bit w 0 then s.counterSection else []) ++ (if bit w 1 then s.voqSection else [])
    ++ (if bit w 2 then s.egressSection else []) ++ (if bit w 3 then s.listSection else [])

/-- A listed object is unavailable (16 R495). -/
def State.listPartial (s : State) (w : Nat) : Bool :=
  bit w 3 && (upTo (min 256 (s.obj Obj.ledgerListCount))).any fun i => (s.listedValue i).isNone

/-! ### Headers (16 R495, R497) -/

/-- The fields that every header holds. -/
def State.headerBase (s : State) : Nat :=
  (s.obj Obj.pos % 256) * 2 ^ 16 + (s.obj Obj.plane % 16) * 2 ^ 24
    + timeWord 0 s.time.tb0 * 2 ^ 192 + timeWord 1 s.time.tb1 * 2 ^ 272
    + (s.obj Obj.ledgerInterval % 2 ^ 32) * 2 ^ 416 + (s.time.bell % 2 ^ 64) * 2 ^ 128

/-- Header of a boundary that was left unlatched (16 R497). -/
def State.skippedHeader (s : State) : List Byte := leBytes 64 (s.headerBase + 2 ^ 12)

/-- Header of an entry with sections `w` and body `body`. -/
def State.entryHeader (s : State) (w : Nat) (body : List Byte) : List Byte :=
  leBytes 64 (s.headerBase + 1 + (w % 16) * 2 ^ 8 + b2n (s.listPartial w) * 2 ^ 13
    + (s.ledgerSlotBytes % 2 ^ 32) * 2 ^ 32 + ((s.obj Obj.ledgerSequence + 1) % 2 ^ 64) * 2 ^ 64
    + (s.ledger.missed % 2 ^ 32) * 2 ^ 352 + crc32c body * 2 ^ 384)

/-! ### The boundary (16 R494, R497, R498) -/

/-- The maxima start again: queue records empty, the others at what holds now (log 56). -/
def State.resetMaxima (s : State) : State :=
  let s := { s with ledger := { s.ledger with voqMax := [], egMax := [] } }
  let s := s.each (upTo 64) fun s t =>
    (s.putObj (Obj.contextsPeak t) (s.ctxsAt t)).putObj (Obj.stallTempMax t) (s.obj (Obj.stallTemp t))
  s.each (upTo 4) fun s q => s.putObj (Obj.stackTempMax q) (s.obj (Obj.stackTemp q))

/-- The slot after the next one. -/
def State.nextHead (s : State) : Nat := (s.obj Obj.ledgerHead + 1) % max 1 (s.obj Obj.ledgerSlots)

/-- The ring is full: only in mode 1 (16 R498). -/
def State.ledgerFull (s : State) : Bool :=
  s.obj Obj.ledgerMode == 1 && s.nextHead == s.obj Obj.ledgerTail

/-- Address of a slot of the ring. -/
def State.ledgerSlot (s : State) (k : Nat) : Nat := s.obj Obj.ledgerBase + k * s.ledgerSlotBytes

/-- A full ring: nothing is latched or reset (16 R498). -/
def State.missLedger (s : State) : State :=
  let s := s.bump Obj.ledgerMissed
  { s with ledger := { s.ledger with missed := s.ledger.missed + 1 } }

/-- The entry before is not complete: the slot receives a header that says so (16 R497). -/
def State.skipLedger (s : State) : State :=
  let a := s.ledgerSlot (s.obj Obj.ledgerHead)
  ((s.ringWrite a s.skippedHeader).bump Obj.ledgerSkipped).putObj Obj.ledgerHead s.nextHead

/-- Latch an entry and reset the maxima (16 R494). -/
def State.latchLedger (s : State) : State :=
  let w := s.obj Obj.ledgerSections
  let body := s.ledgerBody w
  let e : LedgerEntry := { addr := s.ledgerSlot (s.obj Obj.ledgerHead), header := s.entryHeader w body, body := body }
  let n := s.nextHead
  let s := { s with ledger := { s.ledger with writing := some e, missed := 0 } }
  (s.putObj Obj.ledgerHead n).resetMaxima

/-- The boundary just rung is a ledger boundary not handled yet. -/
def State.ledgerDue (s : State) : Bool :=
  s.dieRunning && s.flag Obj.ledgerEnable && s.time.bell % max 1 (s.obj Obj.ledgerInterval) == 0
    && s.ledger.takenRung != some s.time.rung

/-- A ledger boundary, in step 6 of 01 R33. -/
def State.ledgerBoundary (s : State) : State :=
  if !s.ledgerDue then s
  else
    let s := { s with ledger := { s.ledger with takenRung := some s.time.rung } }
    if s.ledgerFull then s.missLedger
    else if s.ledger.writing.isSome then s.skipLedger
    else s.latchLedger

/-- LEDGER_BOUNDARY (16 R494). -/
def execLedgerBoundary (s : State) : Result := .next s.ledgerBoundary

/-- LEDGER_ENTRY_WRITTEN (16 R496): the sections, then the header. Writes to a host that takes no request
are dropped, and the entry stays incomplete (18 R556). -/
def execLedgerEntryWritten (s : State) : Result :=
  .next (match s.ledger.writing with
    | none => s
    | some e =>
      if isHost e.addr && !s.hostOpen then s.hostError else
      let s := (s.ringWrite (e.addr + 64) e.body).ringWrite e.addr e.header
      let s := s.putObj Obj.ledgerSequence (leNat ((e.header.drop 8).take 8))
      { s with ledger := { s.ledger with writing := none } })

/-! ### Changes of counters at a boundary (16 R489) -/

/-- A staged counter write takes effect: the value of a count, a control word or a filter. -/
def State.applyCounterWrite (s : State) (w : Nat × Nat × Nat) : State :=
  let (index, sub, v) := w
  if index ≤ 0x0A4A then
    let n := 256 * (index - 0x0A40) + sub
    s.setCounter (n / 8) (n % 8) { s.counter (n / 8) (n % 8) with count := v % 2 ^ 48, overflowed := false }
  else if index ≤ 0x0A6A then
    let n := 256 * (index - 0x0A60) + sub
    let b := n / 8
    let i := n % 8
    let chainChanged := bit (s.counter b i).control 13 != bit v 13
    let s := s.setCounter b i { count := 0, overflowed := false, control := v }
    if chainChanged && decide (i < 7) then
      s.setCounter b (i + 1) { s.counter b (i + 1) with count := 0, overflowed := false }
    else s
  else
    let n := 256 * (index - 0x0A80) + sub
    let b := n / 2
    let s := { s with ledger := { s.ledger with filters := Tbl.set s.ledger.filters n v } }
    -- the counters concerned are those of the block that use this filter
    s.each (upTo 8) fun s i =>
      let c := s.counter b i
      if bits c.control 15 2 = n % 2 + 1 then s.setCounter b i { c with count := 0, overflowed := false } else s

/-- The counter writes of the bell take effect, after the snapshot: controls and filters, then counts
(16 R489; log 56). -/
def State.applyCounterWrites (s : State) : State :=
  let ws := s.ledger.staged
  let s := { s with ledger := { s.ledger with staged := [] } }
  let s := (ws.filter fun w => decide (0x0A60 ≤ w.1)).foldl State.applyCounterWrite s
  (ws.filter fun w => decide (w.1 < 0x0A60)).foldl State.applyCounterWrite s

/-! ### Samples (16 R501 to R503) -/

/-- A sample ring: the objects of its base, slots, head, tail and losses, and the bytes of its records. -/
structure SampleRing where
  base : Obj
  slots : Obj
  head : Obj
  tail : Obj
  lost : Obj
  bytes : Nat

/-- The instruction sample ring. -/
def insnRing : SampleRing :=
  { base := Obj.isampleBase, slots := Obj.isampleSlots, head := Obj.isampleHead, tail := Obj.isampleTail
    lost := Obj.isampleLost, bytes := 32 }

/-- The packet sample ring. -/
def packetRing : SampleRing :=
  { base := Obj.psampleBase, slots := Obj.psampleSlots, head := Obj.psampleHead, tail := Obj.psampleTail
    lost := Obj.psampleLost, bytes := 64 }

/-- Write a record to a sample ring; a full ring drops and counts it. The stall's buffer is drained as it
fills (log 57). -/
def State.putSample (s : State) (r : SampleRing) (w : Nat) : State :=
  let head := s.obj r.head
  let next := (head + 1) % max 1 (s.obj r.slots)
  if next = s.obj r.tail then s.bump r.lost
  else (s.ringWrite (s.obj r.base + head * r.bytes) (leBytes r.bytes w)).putObj r.head next

/-- A record of an instruction of a thread (16 R502). -/
def State.insnSampleWord (s : State) (t n : Nat) (rec : InsnSample) : Nat :=
  let run := (s.thread t n).run
  let r := s.runOf run
  let program := match Tbl.find s.update.programs r.slot with
    | some p => p.id
    | none => 0
  rec.pc.toNat + n * 2 ^ 48 + t * 2 ^ 56 + rec.address.toNat * 2 ^ 64 + rec.latency.toNat * 2 ^ 112
    + rec.op.toNat * 2 ^ 144 + (run % 64) * 2 ^ 152 + (r.pitch % 4096) * 2 ^ 158
    + rec.bell.toNat * 2 ^ 176 + (program % 65536) * 2 ^ 208

/-- A window of the stall has begun whose sample is still to come (16 R502). -/
def State.sampleDue (s : State) (t : Nat) : Bool :=
  let (_, begun, taken) := Tbl.get s.ledger.windows t (0, 0, 0)
  decide (taken < begun)

/-- The sample of a window is taken. -/
def State.windowTaken (s : State) (t : Nat) : State :=
  let (n, begun, taken) := Tbl.get s.ledger.windows t (0, 0, 0)
  { s with ledger := { s.ledger with windows := Tbl.set s.ledger.windows t (n, begun, taken + 1) } }

/-- INSTRUCTION_SAMPLE (16 R502): one instruction of each window of its stall. -/
def execInstructionSample (t : Stall) (n : ThreadNo) (rec : InsnSample) (s : State) : Result :=
  let x := s.thread t.val n.val
  .next (if s.dieRunning && s.flag Obj.isampleEnable && x.state != .free && bit (s.obj Obj.isampleRuns) x.run
        && s.sampleDue t.val then
      (s.windowTaken t.val).putSample insnRing (s.insnSampleWord t.val n.val rec)
    else s)

/-- A record of a frame (16 R503). -/
def packetSampleWord (p : Nat) (rec : PacketSample) : Nat :=
  rec.header.toNat + p * 2 ^ 256 + rec.outPort.toNat * 2 ^ 266 + rec.outcome.val * 2 ^ 276
    + rec.hold.toNat * 2 ^ 288 + rec.voq.toNat * 2 ^ 320 + rec.xpoint.toNat * 2 ^ 352
    + rec.egress.toNat * 2 ^ 384 + rec.bell.toNat * 2 ^ 416

/-- A received frame may be chosen: its VC is sampled, or it carries the flag that is followed. -/
def State.maySample (s : State) (h : Nat) : Bool :=
  s.obj Obj.psampleN != 0 && (bit (s.obj Obj.psampleVcs) (bits h 249 3)
    || (s.flag Obj.psampleFollow && bit (bits h 84 8) flagSampled))

/-- PACKET_SAMPLE (16 R503). -/
def execPacketSample (p : Port) (rec : PacketSample) (s : State) : Result :=
  .next (if s.dieRunning && s.maySample rec.header.toNat then s.putSample packetRing (packetSampleWord p.val rec)
    else s)

end Sys2Proof.Machine
end

