-- ==== Sys2Proof/Machine/Bundles.lean ====
section
/-! DEFINITION. Bundles (18 R557 to R562): the header, the checks in their order, and where a verified
bundle is placed. -/

namespace Sys2Proof.Machine

/-- What a bundle's source gives: its first 4096 bytes, the bytes that follow, and how many bytes the
bundle may fill in all. -/
structure BundleText where
  front : List Byte
  rest : List Byte
  room : Nat

/-- The header as a number. -/
def BundleText.header (b : BundleText) : Nat := leNat (b.front.take 256)

/-- A field of the header. -/
def BundleText.field (b : BundleText) (lo w : Nat) : Nat := bits b.header lo w

def BundleText.kind (b : BundleText) : Nat := b.field 40 8
def BundleText.signer (b : BundleText) : Nat := b.field 48 8
def BundleText.svn (b : BundleText) : Nat := b.field 80 16
def BundleText.bodyBytes (b : BundleText) : Nat := b.field 96 32
def BundleText.energy (b : BundleText) : Nat := b.field 128 32
def BundleText.program (b : BundleText) : Nat := b.field 64 16
def BundleText.package (b : BundleText) : Nat := b.field 64 8

/-- The body. -/
def BundleText.body (b : BundleText) : List Byte := b.rest.take b.bodyBytes

/-- The bundle identity (18 R557). -/
def BundleText.identity (b : BundleText) : Nat := leNat ((Config.sha512 (b.front.take 256)).take 8)

/-- A number of 8 MiB. -/
def bundleMax : Nat := 8 * 2 ^ 20

/-- Check 1: magic, version, kind, reserved fields, and a body that fits (18 R557, R559; log 58). -/
def BundleText.wellFormed (b : BundleText) : Bool :=
  b.field 0 32 == 0x31425A44 && b.field 32 8 == 1 && decide (1 ≤ b.kind) && decide (b.kind ≤ 3)
    && b.field 57 7 == 0 && b.field 160 32 == 0 && b.field 336 16 == 0 && b.field 1376 672 == 0
    && (b.kind != 2 || decide (b.package < 16))
    && decide (1 ≤ b.bodyBytes) && decide (b.bodyBytes ≤ 8384512) && decide (4096 + b.bodyBytes ≤ b.room)

/-- The hardware revision of the module. -/
def hwRevision : Nat := Config.factory Obj.hwRevision.key % 2 ^ 16

/-- The keys of a signer set: Ed25519, then ML-DSA-65. -/
def State.signerKeys (s : State) (n : Nat) : List Byte :=
  if n = 0 then Config.vendorKeys else leBytes 1984 (s.obj (Obj.ownerSigner (n - 1)))

/-- The signer set is 0 or enrolled. -/
def State.signerKnown (s : State) (n : Nat) : Bool :=
  n == 0 || (decide (n ≤ 4) && s.signerSet n)

/-- The floor of a signer set for a kind (18 R560, R575). -/
def State.svnFloor (s : State) (n kind : Nat) : Nat := bits (s.obj (Obj.svnFloor n)) (16 * (kind - 1)) 16

/-- The checks of 18 R559, in order: those that fail. -/
def State.bundleFaults (s : State) (b : BundleText) : List Bool :=
  let keys := s.signerKeys b.signer
  let header := b.front.take 256
  [!b.wellFormed,
   b.field 192 128 != orderingCode || decide (hwRevision < b.field 320 16),
   !s.signerKnown b.signer || (b.kind == 3 && b.signer != 0),
   decide (b.svn < s.svnFloor b.signer b.kind),
   leNat (Config.sha512 b.body) != b.field 352 512,
   !Config.ed25519Ok (keys.take 32) header ((b.front.drop 256).take 64),
   !Config.mldsaOk (keys.drop 32) header ((b.front.drop 320).take 3309)]

/-- Position, from 1, of the first check that fails. -/
def State.bundleFault (s : State) (b : BundleText) : Option Nat :=
  ((s.bundleFaults b).findIdx? id).map (· + 1)

/-- A verification failure is counted and raises an event (18 R559). -/
def State.verifyFailed (s : State) : State := (s.bump Obj.verifyFailures).eventObj 8 moduleBlock Obj.verifyFailures

/-! ### Sources (18 R561 to R563) -/

/-- The bundle in a table from an offset. -/
def State.tableBundle (s : State) (key off room : Nat) : BundleText :=
  let front := s.readTable key off 4096
  let n := min (bits (leNat (front.take 256)) 96 32) bundleMax
  { front := front, rest := s.readTable key (off + 4096) n, room := room }

/-- The bundle of a store entry. -/
def State.storeBundle (s : State) (e : Nat) : BundleText := s.tableBundle Obj.bundleStore.key (e * bundleMax) bundleMax

/-- The bundle in bundle_upload from an offset. -/
def State.uploadBundle (s : State) (off room : Nat) : BundleText :=
  s.tableBundle Obj.bundleUpload.key off (min room (min bundleMax (64 * 2 ^ 20 - off)))

/-- The bundle that the host gave. -/
def hostBundle (bs : List Byte) (room : Nat) : BundleText :=
  { front := bs.take 4096, rest := bs.drop 4096, room := min room (min bundleMax bs.length) }

/-! ### Placement (18 R562) -/

/-- A run that is not free uses the program slot. -/
def State.programUsed (s : State) (k : Nat) : Bool := s.update.runs.any fun e => e.2.live && e.2.slot == k

/-- The slot a program takes. -/
def State.programSlot (s : State) (id signer : Nat) : Option Nat :=
  match s.update.programs.find? fun e => e.2.id == id && e.2.signer == signer && !s.programUsed e.1 with
  | some e => some e.1
  | none => (upTo 64).find? fun k => (Tbl.find s.update.programs k).isNone

/-- A program slot is emptied with its measurements. -/
def State.dropProgram (s : State) (k : Nat) : State :=
  { s with update := { s.update with
      programs := Tbl.erase s.update.programs k
      measured := s.update.measured.filter fun e => e.1 / 64 != k } }

/-- What placing a bundle gives: its number, or the code of why it has no place. -/
inductive Placed where
  | at (number : Nat)
  | full (code : Nat)

/-- A program is placed: its image and its slot. -/
def State.placeProgram (s : State) (b : BundleText) : State × Placed :=
  match s.programSlot b.program b.signer with
  | none => (s, .full 9)
  | some k =>
    let s := s.dropProgram k
    let a := s.imageBase k
    let p : Program := { id := b.program, signer := b.signer, identity := b.identity, svn := b.svn
                         bytes := b.bodyBytes, declared := b.energy, base := a }
    let s := (s.countFirmware a b.bodyBytes true).store a b.body
    ({ s with update := { s.update with programs := Tbl.set s.update.programs k p } }, .at k)

/-- A test that uses a package waits or runs. -/
def State.packageUsed (s : State) (n : Nat) : Bool :=
  s.custody.stalls.any fun e => match e.2.test with
    | some x => x.package == n
    | none => false

/-- What the module keeps of a loaded bundle. -/
def BundleText.loaded (b : BundleText) (number : Nat) : Loaded :=
  { kind := b.kind, number := number, identity := b.identity, svn := b.svn, signer := b.signer, energy := b.energy }

/-- Place a verified bundle by its kind. A package that a test uses is not replaced (log 58). -/
def State.placeBundle (s : State) (b : BundleText) : State × Placed :=
  if b.kind = 1 then s.placeProgram b
  else if b.kind = 2 then
    if s.packageUsed b.package then (s, .full 8)
    else ({ s with host := { s.host with
        packages := Tbl.set s.host.packages b.package (b.loaded b.package) } }, .at b.package)
  else ({ s with host := { s.host with tables := s.host.tables ++ [b.loaded 0xFF] } }, .at 0)

end Sys2Proof.Machine
end

