-- ==== Sys2Proof/Machine/Dictionary.lean ====
section
/-! DEFINITION. Accesses to the object dictionary (17): classes and routes, what an access checks, what a
write changes, long objects, table transfers, and the objects whose writes have a row of their own. -/

namespace Sys2Proof.Machine

/-! ### Requesters (17 R513 to R516; 18 R551) -/

/-- The class of an access. -/
inductive Cls where
  | owner | operator
  | tenant (pitch : Nat)
  /-- No right at all: the vendor class outside its range, a VF that is not bound. -/
  | none
  deriving DecidableEq, Repr

/-- Class a message names. -/
def clsOfMsg : MsgClass → Cls
  | .owner => .owner
  | .operator => .operator

/-- Class of a requester (17 R514, 18 R551). -/
def State.clsOf (s : State) : Requester → Cls
  | .pf0 => .owner
  | .vf v =>
    let b := s.vfBindingOf (v.val + 1)
    if !b.1 then .none
    else if b.2.1 then .operator
    else if s.pitchAdmitted b.2.2 then .tenant b.2.2 else .none
  | .mgmt c _ => clsOfMsg c
  | .vc6 c _ => clsOfMsg c
  | .i3c => .operator
  | .thread t n => let p := s.pitchOf t.val n.val; if p = 0 then .owner else .tenant p
  | .vendor => .none

/-- The route carries accesses now: the management domain answers from S + 30 ms (03 R88), over management Ethernet
unless its mode is off (03 R85), BAR0 while its link is up and its function exists (18 R549, R550), I3C once it has its
address (17 R526), VC6 and threads while the die runs (01 R17). -/
def State.reaches (s : State) (r : Requester) : Bool :=
  s.power.mgmtReady && match r with
    | .pf0 => s.host.link == .up
    | .vf v => s.host.link == .up && decide (v.val < s.host.numVfs)
    | .i3c => s.dict.i3cAddr.isSome
    | .mgmt _ _ => s.obj Obj.mgmtMode != 3
    | .vc6 _ _ | .thread _ _ => s.dieRunning
    | .vendor => true

/-- Sealed mode refuses writes over the route: all but PF0's and those in-band on VC6 (17 R515, 03 R86). -/
def sealedOut : Requester → Bool
  | .pf0 | .vc6 _ _ => false
  | _ => true

/-- Die objects answer: module_state is BOOTING or SERVICE (17 R516). -/
def State.dieAnswers (s : State) : Bool := s.power.state == .booting || s.power.state == .service

/-- What Return mode leaves readable (17 R515). -/
def returnSeen (index sub : Nat) : Bool :=
  index == 0x0100 || (index == 0x0200 && decide (1 ≤ sub) && decide (sub ≤ 0x1F))

/-- A tenant's read of a counter (16 R500): visible, filtered to its pitch, with open books; a chain target
as the counter that chains into it. -/
def State.tenantCounter (s : State) (p b i : Nat) : Nat → Bool
  | 0 => false
  | fuel + 1 =>
    if s.chainHigh b i then s.tenantCounter p b (i - 1) fuel
    else
      let w := (s.counter b i).control
      let f := s.filterOf b (bits w 15 2 - 1)
      bit w 17 && decide (1 ≤ bits w 15 2) && decide (bits w 15 2 ≤ 2) && bit f 4 && bits f 5 12 == p
        && s.flag (Obj.openBooks p)

/-- A tenant of a pitch may read the object (07 R229; 16 R500; 17 R514, R546). -/
def State.tenantMayRead (s : State) (p index sub : Nat) : Bool :=
  if 0x0A40 ≤ index ∧ index ≤ 0x0A4A then
    let n := 256 * (index - 0x0A40) + sub
    s.tenantCounter p (n / 8) (n % 8) 8
  else
    tenantReads index sub
      && (index == 0x0F21 || (index == 0x2000 + p && (decide (sub < 0x28) && sub != 3 || s.flag (Obj.openBooks p))))

/-- The class may make the access. -/
def State.permits (s : State) (c : Cls) (index sub : Nat) (wr : Bool) : Bool :=
  match c with
  | .owner => true
  | .operator => !wr || operatorWrites index
  | .tenant p =>
    if wr then tenantWrites index sub && (index == 0x0F21 || index == 0x2000 + p)
    else s.tenantMayRead p index sub
  | .none => false

/-- Signer sets and security floors are closed in Sealed mode (18 R571). -/
def sealedKeys (key : Nat) : Bool := decide (0x040021 ≤ key) && decide (key ≤ 0x040034)

/-- What every access checks first: its code, with the object's row when that is 0 (17 R506, R513 to R516;
the order of the checks is log 54). -/
def State.precheck (s : State) (r : Requester) (index sub : Nat) (wr : Bool) : Nat × Option ObjRow :=
  let mode := s.obj Obj.securityMode
  if s.clsOf r == .none then (2, none)
  else if mode = 2 && !returnSeen index sub then (1, none)
  else match dictRow index sub with
    | none => (1, none)
    | some row =>
      if !s.permits (s.clsOf r) index sub wr then (2, none)
      else if wr && mode = 1 && (sealedOut r || sealedKeys (256 * index + sub)) then (2, none)
      else if !isMgmtKey (256 * index + sub) && !s.dieAnswers then (7, none)
      else (0, some row)

/-- The outcome of an access is kept for its requester (17 R520, R545). -/
def State.record (s : State) (r : Requester) (index sub code : Nat) : State :=
  let x := s.req r
  s.setReq r { x with code, index, sub, failed := if code = 0 then x.failed else min (x.failed + 1) (2 ^ 24 - 1) }

/-! ### Reads (17 R509, R518) -/

/-- All ones: what a read that fails returns (17 R521). -/
def allOnes : Nat := 2 ^ 64 - 1

/-- Replace the first `n` bytes of a long buffer. -/
def longPut (long n v : Nat) : Nat := long / 2 ^ (8 * n) * 2 ^ (8 * n) + v % 2 ^ (8 * n)

/-- A read of an object: its code and its whole value; what a read does beside (02 R69). A read of the word of a
long object, or of part of it, copies it whole into the requester's long buffer (17 R509, R522): `copies`. -/
def State.dictRead (s : State) (r : Requester) (copies : Bool) (index sub : Nat) : State × Nat × Nat :=
  let key := 256 * index + sub
  match s.precheck r index sub false with
  | (0, some row) =>
    if row.ty.isTable then (s.record r index sub 0, 0, (s.req r).transferWord key)
    else
      let v := s.value r row index sub
      let s := s.when (isLive index sub) State.draw
      let s := if row.ty.long && copies then
          let x := s.req r
          s.setReq r { x with long := longPut x.long row.ty.size v }
        else s
      let s := if key = (Obj.tinCapture 0).key then s.tinPop 0
        else if key = (Obj.tinCapture 1).key then s.tinPop 1 else s
      -- access_status does not report its own reads
      (if key = Obj.accessStatus.key then s else s.record r index sub 0, 0, v)
  | (code, _) => (s.record r index sub code, code, allOnes)

/-! ### What a write checks (17 R508, R512) -/

/-- The value has the type's form: bits outside it clear, signs extended, a BOOL 0 or 1 (17 R508). -/
def ObjType.accepts (t : ObjType) (v : Nat) : Bool :=
  match t with
  | .bool => decide (v ≤ 1)
  | .u8 | .u16 | .u32 | .u64 | .f32 => decide (v < 2 ^ (8 * t.size))
  | .i16 | .i32 | .i64 => extendWord (8 * t.size) v == v
  | .time80 => decide (bits v 0 30 ≤ 999999999) && decide (v < 2 ^ 80)
  | .bytes n => decide (v < 2 ^ (8 * n))
  | .table _ _ => v == 1

/-- The plain range of a row holds. -/
def ObjRow.inRange (r : ObjRow) (v : Nat) : Bool :=
  match r.range with
  | none => true
  | some (lo, hi) =>
    let x : Int := if r.ty.signed then toSigned 64 v else Int.ofNat v
    decide (lo ≤ x) && decide (x ≤ hi)

/-- A rate of a bucket: 0 to 20,480,000, or no metering (07 R223, R233). -/
def rateOk (v : Nat) : Bool := decide (v ≤ 20480000) || v == 0xFFFFFFFF

/-- A power of two. -/
def isPow2 (v : Nat) : Bool := v != 0 && 2 ^ Nat.log2 v == v

/-- The object is one of a pitch, at a subindex of a range. -/
def pitchObj (key lo hi : Nat) : Bool :=
  decide (0x2000 ≤ key / 256) && decide (key / 256 < 0x3000) && decide (lo ≤ key % 256) && decide (key % 256 < hi)

/-- The object is one of a port's configuration, at a subindex of a range. -/
def portObj (key lo hi : Nat) : Bool :=
  decide (0x1000 ≤ key / 256) && decide (key / 256 < 0x1400) && decide (lo ≤ key % 256) && decide (key % 256 < hi)

/-- The period and width of a pulse output fit each other: the period 0 or 100 ns to 1,000 s, the width 10 ns to the
period less 10 ns, or up to 1 s for a single pulse (02 R65). -/
def pulseFits (period width : Nat) : Bool :=
  decide (10 ≤ width) && (if period = 0 then decide (width ≤ 10 ^ 9)
    else decide (100 ≤ period) && decide (period ≤ 10 ^ 12) && decide (width + 10 ≤ period))

/-- An object as a write that waits for the boundary would leave it. -/
def State.objSoon (s : State) (o : Obj) : Nat := Tbl.get s.dict.staged o.key (s.obj o)

/-- A write of a pulse output's object lies in its range: the start is a TB0 time, period and width fit, and the bell
source has a divisor from 1 (02 R38, R65). -/
def State.pulseRange (s : State) (k field v : Nat) : Bool :=
  match field with
  | 0 => bits v 78 2 == 0
  | 1 => pulseFits v (s.objSoon (Obj.pulseWidth k))
  | 2 => pulseFits (s.objSoon (Obj.pulsePeriod k)) v
  | _ => !bit v 2 || decide (0 < bits v 16 16)

/-- Ranges that a Meaning column states and that are no single interval. -/
def State.rangeSpecial (s : State) (key v : Nat) : Bool :=
  let sub := key % 256
  if key = Obj.bellPeriod.key then [1000, 2000, 4000, 5000, 8000, 10000].contains v
  else if key = Obj.bellSource.key then v == 0 || v == 2
  else if key = Obj.ptpProfile.key then decide (v ≤ 2)
  -- the base field names the object's own base (02 R38)
  else if key = Obj.tb2Now.key then bits v 78 2 == 2
  else if key / 256 = 0x0300 && decide (0x20 ≤ sub) && decide (sub < 0x30) then
    s.pulseRange ((sub - 0x20) / 4) (sub % 4) v
  else if portObj key 3 4 then v == 4096 || v == 8192 || v == 16384
  else if pitchObj key 0x08 0x10 || (key / 256 == 0x0600 && decide (0x10 ≤ sub) && decide (sub < 0x18)) then rateOk v
  else if key = Obj.ledgerSlots.key || key = Obj.isampleSlots.key || key = Obj.psampleSlots.key then isPow2 v
  else if key / 256 = 0x1A10 + (key / 256 - 0x1A10) && decide (0x1A10 ≤ key / 256) && decide (key / 256 < 0x1A20)
      && sub == 2 then decide (1 ≤ v) && decide (v ≤ 3)
  else if key = Obj.segLock.key then bits v 14 17 == 0 && decide (bits v 0 14 < segments)
  else if key = Obj.storeCommit.key || key = Obj.storeDelete.key then decide (v < 64)
  else if decide (0x0F00 ≤ key / 256) && decide (key / 256 < 0x0F20) && sub == 4 && key / 256 % 2 == 0 then
    decide (v ≤ 1)
  else if decide (0x040030 ≤ key) && decide (key ≤ 0x040034) then
    -- a floor may only rise (18 R560)
    decide (v < 2 ^ 48) && (upTo 3).all fun i =>
      decide (bits (s.obj (Obj.svnFloor (key - 0x040030))) (16 * i) 16 ≤ bits v (16 * i) 16)
  else if pitchObj key 0x60 0x61 then decide (v + s.obj ⟨key + 1, 32, 0⟩ ≤ 65536)
  else if pitchObj key 0x61 0x62 then decide (s.obj ⟨key - 1, 16, 0⟩ + v ≤ 65536)
  else true

/-! ### RWL and RWS (17 R512; 05 R163; 16 R499, R504) -/

/-- The port is a member port of a group that is not free (05 R163). -/
def State.groupMember (s : State) (p : Nat) : Bool :=
  s.coll.groups.any fun e => e.2.state != .free && e.2.ports.contains p

/-- The port is a valid member of a bundle of either bank. -/
def State.bundleMember (s : State) (p : Nat) : Bool :=
  s.mem.tables.any fun c =>
    let key := c.1 / 2 ^ 32
    (key == Obj.bundleTableA.key || key == Obj.bundleTableB.key)
      && (let w := s.tableNat key (c.1 % 2 ^ 32 / 2 * 2) 2
          fieldValid w && fieldPort w == p)

/-- The object is a ring or section object of the ledger. -/
def ledgerRing (key : Nat) : Bool := decide (0x0A0002 ≤ key) && decide (key ≤ 0x0A000E)

/-- The RWL object is in use. -/
def State.inUse (s : State) (key v : Nat) : Bool :=
  let p := key / 256 - 0x1000
  if portObj key 1 2 then
    (s.widthPorts p v).any fun q => s.bundleMember q || (s.port q).phys == .lent || s.groupMember q
  else if portObj key 3 4 then s.groupMember p
  else if portObj key 8 0x10 then s.linkStateOf p == .init
  else if ledgerRing key then s.flag Obj.ledgerEnable
  else if key = Obj.isampleBase.key || key = Obj.isampleSlots.key then s.flag Obj.isampleEnable
  else if key = Obj.psampleBase.key || key = Obj.psampleSlots.key then s.obj Obj.psampleN != 0
  else false

/-! ### Rules of objects that refuse a value (17 R508, R520) -/

/-- Credit limits of a stall's ports, each grouped port counted once (05 R150). -/
def State.stallCredits (s : State) (t : Nat) : Nat :=
  (((upTo 16).map (16 * t + ·)).filter s.isLowest).foldl
    (fun n p => (upTo 8).foldl (fun n vc => n + s.obj (Obj.creditVc p vc)) n) 0

/-- The state's objects as a width change would leave them. -/
def State.withWidth (s : State) (p w : Nat) : State :=
  let s' := s.newCredits p w
  s'.each (s.widthPorts p w) fun s' q => s'.putObj (Obj.portWidth q) (if q = p then w else 0)

/-- pool_config's rule (06 R211): base aligned to the pool's size, no overlap, staging pools other than the
spill pool inside the stall's window. -/
def State.poolBad (s : State) (t k v : Nat) : Bool :=
  let base := bits v 0 48
  let n := bits v 48 16 * poolSize k
  base % poolSize k != 0
    || (decide (k < 4) && !(decide (stallWindow t ≤ base) && decide (base + n ≤ stallWindow t + 0x200000)))
    || (upTo 64).any fun u => (upTo 9).any fun j =>
        !(u == t && j == k) && overlaps base n (s.poolBase u j) (s.poolCount u j * poolSize j)

/-- calibration slots of a fiber lie at least this far apart, µs (04 R131). -/
def calLeast (dwell lead : Nat) : Nat := 8 * (dwell + 2 * lead + 200)

/-- A lease as a write would make it, the other half as written in this bell (15 R485). -/
def State.leaseWith (s : State) (p key v : Nat) : Nat × Nat :=
  let half := fun (o : Obj) => if o.key = key then v else Tbl.get s.dict.staged o.key (s.obj o)
  (half (Obj.leaseBase p), half (Obj.leaseCount p))

/-- An ID lies in a lease. -/
def inLease (l : Nat × Nat) (g : Nat) : Bool := decide (l.1 ≤ g) && decide (g < l.1 + l.2)

/-- A lease write is refused (15 R480, R481, R485). -/
def State.leaseBad (s : State) (p : Nat) (new : Nat × Nat) : Bool :=
  let old := (s.obj (Obj.leaseBase p), s.obj (Obj.leaseCount p))
  p == 0
    || (s.coll.groups.any fun e => e.2.state != .free && inLease old e.1 != inLease new e.1)
    || s.leasedPitches.any fun q => q != p && new.2 != 0
        && overlaps new.1 new.2 (s.obj (Obj.leaseBase q)) (s.obj (Obj.leaseCount q))

/-- A ring lies in its region with its base aligned: DRAM below the firmware reserve, or host memory
(16 R496). -/
def State.ringOk (s : State) (base n : Nat) : Bool :=
  base % 4096 == 0
    && (decide (base + n ≤ s.reserveBase)
      || (decide (0x200000000000 ≤ base) && decide (base + n ≤ 0x300000000000)))

/-- The ledger may be enabled (16 R499, 02 R63). -/
def State.ledgerOk (s : State) : Bool :=
  decide (16000 ≤ s.obj Obj.ledgerInterval * s.period)
    && s.ringOk (s.obj Obj.ledgerBase) (s.obj Obj.ledgerSlots * s.ledgerSlotBytes)

/-- Events of a block (16 R486, R491). -/
def blockEvents (b : Nat) : List Nat :=
  [0x000, 0x001] ++
  (if b < 64 then [0x100, 0x101, 0x102, 0x103, 0x104, 0x105, 0x106, 0x107, 0x200, 0x201, 0x203, 0x204, 0x300, 0x301,
      0x302, 0x303, 0x304, 0x305, 0x306, 0x307, 0x405, 0x700, 0x701]
    else if b < 192 then [0x200, 0x201, 0x202, 0x203, 0x204, 0x700]
    else if b < 208 then [0x403, 0x404]
    else if b < 272 then [0x402, 0x403]
    else if b < 336 then [0x400, 0x401, 0x403]
    else if b = 336 then [0x500, 0x501, 0x502, 0x503]
    else if b = 337 then [0x600, 0x601, 0x602, 0x603] else [])

/-- A write of a counter object is refused (16 R489, R505). -/
def counterBad (index sub v : Nat) : Bool :=
  if index ≤ 0x0A4A then decide (338 ≤ (256 * (index - 0x0A40) + sub) / 8)
  else if index ≤ 0x0A6A then
    let b := (256 * (index - 0x0A60) + sub) / 8
    decide (338 ≤ b) || !(blockEvents b).contains (bits v 0 12) || bit v 14 || bits v 15 2 == 3
      || decide (2 ^ 18 ≤ v)
  else
    decide (338 ≤ (256 * (index - 0x0A80) + sub) / 2) || bits v 61 3 != 0 || decide (2 ^ 160 ≤ v)

/-- The object is a counter's value, control or filter. -/
def isCounterKey (key : Nat) : Bool := decide (0x0A40 ≤ key / 256) && decide (key / 256 ≤ 0x0A82)

/-- A valid member of a bundle of the active bank names the port. -/
def State.inAnyBundle (s : State) (p : Nat) : Bool :=
  (upTo 1024).any fun b => (upTo 16).any fun m =>
    let w := s.memberField s.switch.bank b m
    fieldValid w && fieldPort w == p

/-- A mirror session's analysis port must be up and in no bundle (06 R197); 0xFFFF names none. -/
def State.mirrorTargetBad (s : State) (v : Nat) : Bool :=
  v != 0xFFFF && (decide (1024 ≤ v) || !s.portUp v || s.inAnyBundle v)

/-- A rule of the object refuses the value: code 9. -/
def State.refusedValue (s : State) (key v : Nat) : Bool :=
  let index := key / 256
  let sub := key % 256
  let cap := s.obj Obj.egressVcCap
  if key = Obj.powerRestart.key then
    v == 1 && s.power.state == .latchedFault && s.power.restartBlocked
  else if key = Obj.easeWarn.key then decide (s.obj Obj.easeSevere ≤ v)
  else if key = Obj.easeSevere.key then decide (v ≤ s.obj Obj.easeWarn) || decide (cap ≤ v)
  else if key = Obj.genHoldDepth.key then decide (cap ≤ v)
  else if key = Obj.egressVcCap.key then decide (v ≤ s.obj Obj.easeSevere) || decide (v ≤ s.obj Obj.genHoldDepth)
  else if key = Obj.spillSatOn.key then decide (v ≤ s.obj Obj.spillSatOff)
  else if key = Obj.spillSatOff.key then decide (s.obj Obj.spillSatOn ≤ v)
  else if key = (Obj.dwrrWeight 5).key then true
  else if key = Obj.ledgerInterval.key then decide (v * s.period < 16000)
  else if key = Obj.ledgerEnable.key then v == 1 && !s.ledgerOk
  else if key = Obj.eventTail.key then
    decide (4096 ≤ v) || decide ((s.dict.head + 4096 - s.dict.tail) % 4096 < (v + 4096 - s.dict.tail) % 4096)
  else if index = 0x0200 && decide (0x40 ≤ sub) && decide (sub < 0x50) then decide (sub % 8 < 4)
  else if index = 0x0500 && decide (0x40 ≤ sub) && decide (sub < 0x80) && sub % 4 == 3 then s.mirrorTargetBad v
  else if 0x1A00 ≤ index ∧ index < 0x1A10 then
    let e := index - 0x1A00
    let dwell := s.obj (Obj.calDwell e)
    let lead := s.obj (Obj.moveLead e)
    match sub with
    | 0x04 => decide (v < calLeast dwell lead)
    | 0x05 => decide (s.obj (Obj.calInterval e) < calLeast v lead)
    | 0x06 => decide (s.obj (Obj.fadeFail e) ≤ v)
    | 0x07 => decide (v ≤ s.obj (Obj.fadeWarn e))
    | 0x09 => decide (s.obj (Obj.calInterval e) < calLeast dwell v)
    | 0x30 => e != 0
    | _ => false
  else if 0x1000 ≤ index ∧ index < 0x1400 then
    let p := index - 0x1000
    if !s.isLowest p && (groupedObj sub || (decide (0x28 ≤ sub) && decide (sub ≤ 0x2A))) then true
    else if sub = 1 then p % 2 ^ v != 0 || decide (12288 < (s.withWidth p v).stallCredits (p / 16))
    else if 8 ≤ sub ∧ sub < 16 then
      decide (12288 < (s.putObj (Obj.creditVc p (sub - 8)) v).stallCredits (p / 16))
    else sub == 0x20 && v == 1 && !s.isLowest p
  else if 0x1800 ≤ index ∧ index < 0x1840 then
    decide (0x80 ≤ sub) && decide (sub < 0x89) && s.poolBad (index - 0x1800) (sub - 0x80) v
  else if pitchObj key 0x60 0x62 then s.leaseBad (index - 0x2000) (s.leaseWith (index - 0x2000) key v)
  else isCounterKey key && counterBad index sub v

/-! ### Locks of other requesters (17 R520, R532; 08 R255; 18 R561) -/

/-- A slot is held by someone else, or its state does not take the write (17 R532). -/
def State.slotBusy (s : State) (r : Requester) (k sub v : Nat) : Bool :=
  let x := s.slot k
  let mine := x.holder == some r
  match sub with
  | 0x01 =>
    if v = 0 then x.status != .free && (!mine || x.status == .busy)
    else match x.status with
      | .claimed => !mine
      | .submitted | .busy => true
      | _ => false
  | 0x04 =>
    if !mine then true
    else if v = 1 then x.status == .busy || x.status == .free
    else !(x.status == .submitted || x.status == .claimed)
  | _ => !mine || x.status != .claimed

/-- Every entry of the token store is busy (17 R536). -/
def State.tokensFull (s : State) : Bool :=
  decide (4096 ≤ s.dict.tokens.length) && s.dict.tokens.all fun t => t.status == .busy

/-- A lock or a claim of another requester refuses the write: code 8. -/
def State.busyFor (s : State) (r : Requester) (key v : Nat) : Bool :=
  let index := key / 256
  if key = Obj.segLock.key then
    match Tbl.find s.service.locks (bits v 0 14) with
    | none => false
    | some l => if bit v 31 then true else l.holder != r && s.clsOf r != .owner
  else if key = Obj.storeCommit.key || key = Obj.storeDelete.key then s.host.committing.isSome
  else if 0x0F00 ≤ index ∧ index < 0x0F20 then s.slotBusy r ((index - 0x0F00) / 2) (key % 256) v
  else false

/-- The object cannot take the write now: code 7 (17 R532, 18 R568). -/
def State.notNow (s : State) (key v : Nat) : Bool :=
  let index := key / 256
  if key = Obj.attestNonce.key then s.power.state != .service
  else decide (0x0F00 ≤ index) && decide (index < 0x0F20) && key % 256 == 4 && v == 1 && !s.dieRunning

/-- A submit finds no room in the token store: code 9 (17 R536). -/
def State.submitFull (s : State) (key v : Nat) : Bool :=
  let index := key / 256
  decide (0x0F00 ≤ index) && decide (index < 0x0F20) && key % 256 == 4 && v == 1 && s.tokensFull

/-- The code of a write that has passed the first checks (17 R508, R512, R520; order: log 54). -/
def State.writeCode (s : State) (r : Requester) (row : ObjRow) (key v : Nat) : Nat :=
  if row.acc == .ro then 3
  else if row.acc == .rws && s.power.released then 6
  else if !(row.ty.accepts v && row.inRange v && s.rangeSpecial key v) then 4
  else if row.acc == .rwl && s.inUse key v then 5
  else if s.notNow key v then 7
  else if s.busyFor r key v then 8
  else if s.refusedValue key v || s.submitFull key v then 9
  else 0

/-! ### What an accepted write does (17 R517) -/

/-- The object's rule names the next boundary: a program of an enabled output, bucket and lease objects,
bindings, weights (02 R67; 07 R223, R226, R230, R231; 15 R481; 18 R551). -/
def State.waitsForBell (s : State) (key : Nat) : Bool :=
  let index := key / 256
  let sub := key % 256
  if index = 0x0300 && decide (0x20 ≤ sub) && decide (sub < 0x30) then bit (s.obj (Obj.pulseControl ((sub - 0x20) / 4))) 0
  else if index = 0x0600 then decide (sub = 4 ∨ sub = 5) || (decide (8 ≤ sub) && decide (sub < 0x10))
  else if index = 0x0B00 then decide (0x11 ≤ sub)
  else pitchObj key 0x03 0x28 || pitchObj key 0x60 0x62

/-- What a write leaves in an object: pulse_control's missed flag is cleared (02 R69). -/
def pulseWord (key v : Nat) : Nat :=
  if decide (0x030020 ≤ key) && decide (key < 0x030030) && key % 4 == 3 then clearBit v 3 else v

/-- Give an object its value by key. -/
def State.putKey (s : State) (key v : Nat) : State := { s with objs := Tbl.set s.objs key v }

/-- A slot's token is written (17 R532). -/
def State.writeToken (s : State) (r : Requester) (k v : Nat) : State :=
  if v = 0 then s.setSlot k {}
  else s.setSlot k { status := .claimed, holder := some r, token := v }

/-- A slot's submit is written. -/
def State.writeSubmit (s : State) (k v : Nat) : State :=
  s.modSlot k fun x => { x with status := if v = 1 then .submitted else .claimed }

/-- A write to a slot's object: a claimed slot keeps the time of it (17 R532). -/
def State.writeSlot (s : State) (r : Requester) (k sub v : Nat) : State :=
  let s := match sub with
    | 0x01 => s.writeToken r k v
    | 0x02 => s.modSlot k fun x => { x with opcode := v }
    | 0x03 => s.modSlot k fun x => { x with bell := v }
    | 0x04 => s.writeSubmit k v
    | _ => s.modSlot k fun x => { x with args := Tbl.set x.args (sub - 0x10) v }
  if (s.slot k).status == .claimed then s.modSlot k fun x => { x with wrote := s.tb1Ns } else s

/-- A write of seg_lock (08 R255). -/
def State.writeSegLock (s : State) (r : Requester) (v : Nat) : State :=
  let seg := bits v 0 14
  if bit v 31 then s.takeSeg r seg
  else match Tbl.find s.service.locks seg with
    | some l => s.dropSeg seg (l.holder != r)
    | none => s

/-- A write of pack_control (04 R132). -/
def State.writePack (s : State) (e v : Nat) : State :=
  if v = 1 then s.packPrepare e else if v = 2 then s.packCancelPrepare e else s.packRestart e

/-- A message key is written: the class's last request id returns to 0 (17 R523, 18 R566). -/
def State.writeKey (s : State) (operator : Bool) (v : Nat) : State :=
  if operator then
    let s := s.putObj Obj.keyOperator v
    { s with dict := { s.dict with lastOperator := 0 } }
  else
    let s := s.putObj Obj.keyOwner v
    { s with dict := { s.dict with lastOwner := 0 } }

/-- A commit of a store entry starts (18 R561). -/
def State.startCommit (s : State) (e : Nat) : State :=
  { s with host := { s.host with
      committing := some e, store := Tbl.set s.host.store e { Tbl.get s.host.store e {} with state := 2 } } }

/-- A store entry is emptied (18 R561). -/
def State.emptyStore (s : State) (e : Nat) : State :=
  { s with host := { s.host with store := Tbl.erase s.host.store e } }

/-- A report starts to be built (18 R568). -/
def State.startAttest (s : State) (nonce : Nat) : State :=
  { s with host := { s.host with attesting := true, attestNonce := nonce, attestReady := false } }

/-- A bundle to load at boot (18 R563): a store entry, or the address or offset and length of a list entry. -/
inductive BootItem where
  | store (entry : Nat)
  | host (addr bytes : Nat)
  | upload (off bytes : Nat)

/-- Address or offset, and length, of an entry of boot_list. -/
def State.bootEntry (s : State) (i : Nat) : Nat × Nat :=
  (s.tableNat Obj.bootList.key (16 * i) 8, s.tableNat Obj.bootList.key (16 * i + 8) 4)

/-- The next bundle that the boot loads, and where its search goes on (18 R563). -/
def State.bootItem (s : State) : Option (BootItem × Nat) :=
  let i := s.power.bootNext
  let (a, n) := s.bootEntry i
  match s.obj Obj.bootSource with
  | 0 =>
    ((upTo 64).find? fun e => decide (i ≤ e) && (Tbl.get s.host.store e {}).state == 1
        && (Tbl.get s.host.store e {}).autoload).map fun e => (.store e, e + 1)
  | 1 => if i < 64 ∧ n ≠ 0 then some (.host a n, i + 1) else none
  | 2 => if i < 64 ∧ n ≠ 0 then some (.upload a n, i + 1) else none
  | _ => none

/-- A group of four engines. -/
def engineGroup (g : Nat) : List Nat := (upTo 4).map (4 * g + ·)

/-- A group of engines begins its start: three stages of 12 W for each that has a pack (15 R473). -/
def State.startGroup (s : State) (g : Nat) : State :=
  s.each ((engineGroup g).filter fun e => (s.pack e).bay == .present) fun s e =>
    s.each (upTo 3) fun s i => (s.askTally (.engine e i) 12000).1

/-- A stage of a group's start waits for the tally. -/
def State.startWaits (s : State) (g : Nat) : Bool :=
  s.warden.queue.any fun x => match x with
    | .engine e _ => e / 4 == g
    | _ => false

/-- A boot that has no bundle left to load goes on with the engines. -/
def State.settleBoot (s : State) : State :=
  if s.power.boot == .loading && s.bootItem.isNone then
    ({ s with power := { s.power with boot := .engines } } : State).startGroup 0
  else s

/-- The boot list is ready: a boot that waits for it goes on; for BOOT 01 it also waits for PF0's Bus Master
Enable (18 R563). -/
def State.bootGoesOn (s : State) : State :=
  let ready := s.flag Obj.bootListReady && (s.obj Obj.bootSource != 1 || s.host.busMaster.contains 0)
  if s.power.boot == .waitList && ready then
    ({ s with power := { s.power with boot := .loading, bootNext := 0 } } : State).settleBoot
  else s

/-- The ledger is enabled or disabled (16 R499). -/
def State.enableLedger (s : State) (v : Nat) : State :=
  let was := s.flag Obj.ledgerEnable
  let s := s.putObj Obj.ledgerEnable v
  if v = 1 && !was then
    let s := ((s.putObj Obj.ledgerHead 0).putObj Obj.ledgerTail 0).putObj Obj.ledgerSequence 0
    { s with ledger := { s.ledger with missed := 0, writing := none } }
  else if v = 0 then { s with ledger := { s.ledger with writing := none } }
  else s

/-- An accepted write with an effect of its own; nothing for a write that only stores its value. -/
def State.writeSpecial (s : State) (r : Requester) (key v : Nat) : Option State :=
  let index := key / 256
  let sub := key % 256
  if key = Obj.powerRestart.key then some (if v = 1 then s.powerRestart else s)
  else if key = Obj.tb2Now.key then some (s.writeTb2 (nsOfTime80 v))
  else if key = Obj.stepPermit.key then
    some (if v = 1 && s.time.pendingStep.isSome then { s with time := { s.time with stepPermitted := true } } else s)
  else if key = Obj.segLock.key then some (s.writeSegLock r v)
  else if key = Obj.eventTail.key then some { s with dict := { s.dict with tail := v % 4096 } }
  else if key = Obj.keyOwner.key then some (s.writeKey false v)
  else if key = Obj.keyOperator.key then some (s.writeKey true v)
  else if key = Obj.attestNonce.key then some (s.startAttest v)
  else if key = Obj.storeCommit.key then some (s.startCommit v)
  else if key = Obj.storeDelete.key then some (s.emptyStore v)
  else if key = Obj.bootListReady.key then some (s.putObj Obj.bootListReady v).bootGoesOn
  else if key = Obj.ledgerEnable.key then some (s.enableLedger v)
  else if index = 0x0300 && decide (0x20 ≤ sub) && decide (sub < 0x30) then
    let k := (sub - 0x20) / 4
    some ((s.putKey key (pulseWord key v)).pulseProgrammed k)
  else if index = 0x0F21 then
    let x := s.req r
    some (s.setReq r { x with long := x.long - bits x.long (64 * sub) 64 * 2 ^ (64 * sub) + v * 2 ^ (64 * sub) })
  else if 0x0F00 ≤ index ∧ index < 0x0F20 then some (s.writeSlot r ((index - 0x0F00) / 2) sub v)
  else if portObj key 1 2 then some (s.modPort (index - 0x1000) fun x => { x with widthDue := some v })
  else if portObj key 2 3 then some ((s.putKey key v).comparePeer (index - 0x1000))
  else if portObj key 0x20 0x21 then
    some ((s.putKey key v).when (v == 0) fun s => s.mastersGone (index - 0x1000))
  else if portObj key 4 5 then some (if v = 1 then s.startRetrain (index - 0x1000) else s)
  else if 0x1800 ≤ index ∧ index < 0x1840 && sub = 0x9F then some (s.askRebuild (index - 0x1800) v)
  else if 0x1A10 ≤ index ∧ index < 0x1A20 && sub = 2 then some (s.writePack (index - 0x1A10) v)
  else none

/-- An accepted write takes effect (17 R517): at the next boundary where its rule says so. -/
def State.putValue (s : State) (r : Requester) (key v : Nat) : State :=
  if isCounterKey key then
    let staged := s.ledger.staged.filter fun w => !(w.1 == key / 256 && w.2.1 == key % 256)
    { s with ledger := { s.ledger with staged := staged ++ [(key / 256, key % 256, v)] } }
  else if s.waitsForBell key then { s with dict := { s.dict with staged := Tbl.set s.dict.staged key v } }
  else match s.writeSpecial r key v with
    | some s' => s'
    | none => s.putKey key v

/-- A write of an object's whole value: its code. -/
def State.dictWrite (s : State) (r : Requester) (index sub v : Nat) : State × Nat :=
  let key := 256 * index + sub
  match s.precheck r index sub true with
  | (0, some row) =>
    let code := if row.ty.isTable then 9 else s.writeCode r row key v
    let s := if code = 0 then s.putValue r key v else s
    (s.record r index sub code, code)
  | (code, _) => (s.record r index sub code, code)

/-- The whole value that a written word stands for: a long object takes the rest from the requester's long
buffer (17 R509). -/
def State.wordValue (s : State) (r : Requester) (index sub word : Nat) : Nat :=
  match dictRow index sub with
  | some row =>
    if row.ty.long then word % 2 ^ 64 + bits (s.req r).long 64 (8 * row.ty.size - 64) * 2 ^ 64 else word
  | none => word

/-! ### Table transfers (17 R510, R511) -/

/-- A descriptor is in order for a table. -/
def descriptorOk (d size entry : Nat) : Bool :=
  let off := bits d 64 32
  let n := bits d 96 32
  bits d 0 64 % 64 == 0 && off % entry == 0 && n % entry == 0 && decide (off + n ≤ size) && bits d 129 127 == 0

/-- The access is over BAR0. -/
def onBar : Requester → Bool
  | .pf0 | .vf _ => true
  | _ => false

/-- A write of a table's word (17 R510): its code. -/
def State.tableStart (s : State) (r : Requester) (index sub word : Nat) : State × Nat :=
  let key := 256 * index + sub
  match s.precheck r index sub false with
  | (0, some row) =>
    match row.ty with
    | .table size entry =>
      let x := s.req r
      let d := x.long % 2 ^ 256
      let code :=
        if s.obj Obj.securityMode = 1 && sealedOut r then 2
        else if !onBar r then 9
        else if word ≠ 1 then 4
        else if x.state = 1 then 8
        else if !descriptorOk d size entry then 4
        else 0
      let s := if code = 0 then
          s.setReq r { x with state := 1, tcode := 0, moved := 0, key := key, descriptor := d }
        else s
      (s.record r index sub code, code)
    | _ => (s, 9)
  | (code, _) => (s.record r index sub code, code)

/-- The bank tables that are locked (06 R209). -/
def State.bankLocked (s : State) (key : Nat) : Bool :=
  let bank := if key = Obj.leafTableA.key || key = Obj.bundleTableA.key then some 0
    else if key = Obj.leafTableB.key || key = Obj.bundleTableB.key then some 1 else none
  match bank with
  | none => false
  | some b => s.switch.bank == b || s.switch.guardEnd.isSome
      || match s.switch.switch with
        | some w => w.passed == some true
        | none => false

/-- An entry of ledger_list names an object of the die of up to 8 bytes (16 R496). -/
def listEntryOk (w : Nat) : Bool :=
  let index := bits w 8 16
  let sub := bits w 0 8
  decide (w < 2 ^ 24) && !isMgmtKey (256 * index + sub) && match dictRow index sub with
    | some r => !r.ty.isTable && decide (r.ty.size ≤ 8)
    | none => false

/-- A layout entry's table lies in its store, of at most as many buckets as its order may give (08 R249, R250). -/
def layoutOk (key w : Nat) : Bool :=
  let v4 := key == Obj.lpm4Layout.key
  !bit w 31 || (decide (bits w 16 5 ≤ (if v4 then 16 else 15))
    && decide (bits w 0 16 + 2 ^ bits w 16 5 ≤ (if v4 then 65536 else 32768)))

/-- Write one entry of a table: its code. -/
def State.tableEntryWrite (s : State) (r : Requester) (key off : Nat) (bs : List Byte) : State × Nat :=
  if s.bankLocked key || (key = Obj.ledgerList.key && s.flag Obj.ledgerEnable) then (s, 5)
  else if key = Obj.ledgerList.key && !listEntryOk (leNat bs) then (s, 9)
  else if (key = Obj.lpm4Layout.key || key = Obj.lpm6Layout.key) && !layoutOk key (leNat bs) then (s, 9)
  else if key = Obj.bundleStore.key && s.host.committing.isSome then (s, 8)
  else match segTable key with
    | some a =>
      match Tbl.find s.service.locks (segOf (a + off)) with
      | none => (s, 5)
      | some l => if l.holder == r then (s.segWrite (a + off) bs, 0) else (s, 8)
    | none => (s.writeTable key off bs, 0)

/-- Write entries in order until one is refused: code and bytes written. -/
def State.tableWrite (s : State) (r : Requester) (key off done : Nat) : List (List Byte) → State × Nat × Nat
  | [] => (s, 0, done)
  | e :: es =>
    match s.tableEntryWrite r key off e with
    | (s, 0) => s.tableWrite r key (off + e.length) (done + e.length) es
    | (s, code) => (s, code, done)

/-- A write of entries with the object's own checks: access code, class, bytes written. -/
def State.tableStore (s : State) (r : Requester) (row : ObjRow) (key off : Nat) (bs : List Byte) : State × Nat × Nat :=
  match row.ty with
  | .table _ entry =>
    if row.acc == .ro then (s, 3, 0)
    else if !s.permits (s.clsOf r) (key / 256) (key % 256) true then (s, 2, 0)
    else s.tableWrite r key off 0 (pieces entry (bs.length + 1) bs)
  | _ => (s, 9, 0)

/-- The PCIe function of a requester: 0 for PF0, v for VF v. -/
def functionOf : Requester → Nat
  | .vf v => v.val + 1
  | _ => 0

/-- Attributes of a function's accesses (16 R493). -/
def State.functionAttrs (s : State) (fn : Nat) : EventAttrs :=
  if fn = 0 then { privilege := some 1, masters := [(3, 0)] }
  else
    let b := s.vfBindingOf fn
    { privilege := some (if b.2.1 then 2 else 3), pitch := if b.2.1 then none else some b.2.2, masters := [(3, fn)] }

/-- The functions whose requests are sent: link up, Bus Master Enable set (18 R549, R553). -/
def State.mayMaster (s : State) (fn : Nat) : Bool := s.host.link == .up && s.host.busMaster.contains fn

/-- A table transfer ends (17 R510, R511; 18 R552, R556). -/
def State.transferEnd (s : State) (r : Requester) (data : List Byte) (hostError : Bool) : State :=
  let x := s.req r
  if x.state ≠ 1 then s
  else
    let key := x.key
    let host := bits x.descriptor 0 64
    let off := bits x.descriptor 64 32
    let n := bits x.descriptor 96 32
    let inward := bit x.descriptor 128
    let fn := functionOf r
    let bad := hostError || !s.mayMaster fn
    let finish := fun (s : State) (code moved : Nat) =>
      let s := s.setReq r { s.req r with
        state := if code = 0 then 2 else 3, tcode := code, moved := moved }
      s.interrupt fn (if fn = 0 then 2 else 0)
    match dictRow (key / 256) (key % 256) with
    | none => finish s 1 0
    | some row =>
      if bad then finish (s.bump Obj.hostErrors) 7 0
      else if !inward then
        let size := match row.ty with
          | .table _ e => e
          | _ => 1
        let bs := s.tableBytes row key size off n
        let s := s.countHost n true ((s.functionAttrs fn).at (0x200000000000 + host))
        let ep := match segTable key with
          | some a => s.badUnits (a + off) n
          | none => []
        finish { s with out := { s.out with hostWrite := some (host, bs), hostEp := ep } } 0 n
      else
        let s := s.countHost n false ((s.functionAttrs fn).at (0x200000000000 + host))
        let (s, code, moved) := s.tableStore r row key off (data.take n)
        finish s code moved

/-! ### Accesses by a word (17 R521): the rows of the dictionary -/

/-- What an access answered is the latest answer of the module (log 13). -/
def State.answer (s : State) (data code : Nat) : State := { s with out := { s.out with data := data, code := code } }

/-- An access over BAR0 is counted (16 R491). -/
def State.countBar (s : State) (r : Requester) : State :=
  match r with
  | .pf0 | .vf _ => s.count blockHost 0x602 1 (s.functionAttrs (functionOf r))
  | _ => s

/-- The vendor class reaches a range that the specification leaves out (00 R11, 17 R513). -/
def vendorRange (r : Requester) (index : Nat) : Bool := r == .vendor && decide (0x8000 ≤ index)

/-- A write of an object's word by a requester. -/
def State.writeWord (s : State) (r : Requester) (index sub word : Nat) : State :=
  if !s.reaches r then s
  else
    let s := s.countBar r
    let isTable := match dictRow index sub with
      | some row => row.ty.isTable
      | none => false
    let (s, code) := if isTable then s.tableStart r index sub word
      else s.dictWrite r index sub (s.wordValue r index sub word)
    s.answer word code

/-- A write of an object's whole value by a requester: a long object's tail is first in its long buffer. -/
def State.writeWhole (s : State) (r : Requester) (index sub v : Nat) : State :=
  if !s.reaches r then s
  else
    let s := s.countBar r
    let (s, code) := s.dictWrite r index sub v
    s.answer (v % 2 ^ 64) code

/-- Bytes of an object's value. -/
def valueBytes (row : ObjRow) (v : Nat) : List Byte := leBytes (if row.ty.isTable then 8 else row.ty.size) v

/-- A private read over I3C (17 R526): the object stays selected, and the access code, a length byte and up to 255
bytes of it leave. -/
def State.i3cAnswer (s : State) (index sub code v : Nat) : State :=
  let bytes := match code, dictRow index sub with
    | 0, some row => (valueBytes row v).take 255
    | _, _ => []
  { s with dict := { s.dict with i3cIndex := index, i3cSub := sub }
           out := { s.out with response := BitVec.ofNat 8 code :: BitVec.ofNat 8 bytes.length :: bytes } }

/-- A read of an object's word by a requester: of a long object bytes 0 to 7 (17 R509). -/
def State.readWord (s : State) (r : Requester) (index sub : Nat) : State :=
  if !s.reaches r then s
  else
    let s := s.countBar r
    let (s, code, v) := s.dictRead r true index sub
    let s := if r = .i3c then s.i3cAnswer index sub code v else s
    s.answer (v % 2 ^ 64) code

/-- A BAR0 access of this width to this object's word is not accepted (17 R521). -/
def badWidth (r : Requester) (width : BarWidth) (index sub : Nat) : Bool :=
  onBar r && match width with
    | .word => false
    | .low => match dictRow index sub with
      | some row => row.ty.isTable || decide (4 < row.ty.size)
      | none => true
    | .other => true

/-- The low half of a word, over BAR0, stands for the value that it extends to in the object's type. -/
def halfWord (r : Requester) (width : BarWidth) (index sub word : Nat) : Nat :=
  if onBar r && width == .low then
    match dictRow index sub with
    | some row => if row.ty.signed then extendWord 32 (word % 2 ^ 32) else word % 2 ^ 32
    | none => word % 2 ^ 32
  else word

/-- An access of a width that is not permitted is refused with the size code, unless an earlier check refuses it. -/
def State.refuseWidth (s : State) (r : Requester) (index sub : Nat) (wr : Bool) (data : Nat) : State :=
  if !s.reaches r then s
  else
    let s := s.countBar r
    let code := match s.precheck r index sub wr with
      | (0, _) => 10
      | (code, _) => code
    (s.record r index sub code).answer data code

/-- A write over BAR0 of a width. -/
def State.writeWidth (s : State) (r : Requester) (width : BarWidth) (index sub word : Nat) : State :=
  if badWidth r width index sub then s.refuseWidth r index sub true word
  else s.writeWord r index sub (halfWord r width index sub word)

/-- A read over BAR0 of a width: the low half is 32 bits of the answer. -/
def State.readWidth (s : State) (r : Requester) (width : BarWidth) (index sub : Nat) : State :=
  if badWidth r width index sub then s.refuseWidth r index sub false allOnes
  else
    let s' := s.readWord r index sub
    if onBar r && width == .low && s.reaches r then s'.answer (s'.out.data % 2 ^ 32) s'.out.code else s'

/-- An access of the vendor class to its range is outside the specification; any other is `f`. -/
def vendorOr (r : Requester) (index : Nat) (s : State) (f : State → State) : Result :=
  if vendorRange r index then .fault .vendorPrivate else .next (f s)

/-- A write to a numbered object with a row of its own. -/
def writeObj (r : Requester) (o : Obj) (v : Nat) (s : State) : Result :=
  .next (s.writeWord r (o.key / 256) (o.key % 256) v)

/-- REGISTER_WRITE (17 R517, R521). -/
def execRegisterWrite (a : BarAccess) (index : BitVec 16) (sub : BitVec 8) (word : BitVec 64) (s : State) : Result :=
  vendorOr a.who index.toNat s fun s => s.writeWidth a.who a.width index.toNat sub.toNat word.toNat

/-- LONG_OBJECT_READ, and every other read of an object by its word (17 R509, R521; R526 over I3C). -/
def execLongObjectRead (a : BarAccess) (index : BitVec 16) (sub : BitVec 8) (s : State) : Result :=
  vendorOr a.who index.toNat s fun s => s.readWidth a.who a.width index.toNat sub.toNat

/-- LONG_OBJECT_WRITE (17 R509). -/
def execLongObjectWrite (r : Requester) (index : BitVec 16) (sub : BitVec 8) (word : BitVec 64) (s : State) : Result :=
  vendorOr r index.toNat s fun s => s.writeWord r index.toNat sub.toNat word.toNat

/-- TABLE_TRANSFER_START (17 R510). -/
def execTableTransferStart (r : Requester) (index : BitVec 16) (sub : BitVec 8) (word : BitVec 64) (s : State) : Result :=
  vendorOr r index.toNat s fun s => s.writeWord r index.toNat sub.toNat word.toNat

/-- TABLE_TRANSFER_END (17 R511). -/
def execTableTransferEnd (r : Requester) (data : List Byte) (hostError : Bool) (s : State) : Result :=
  .next (s.transferEnd r data hostError)

/-- POWER_RESTART (03 R80). -/
def execPowerRestart (r : Requester) (word : BitVec 64) (s : State) : Result := writeObj r Obj.powerRestart word.toNat s

/-- BOOT_LIST_READY (18 R563). -/
def execBootListReady (r : Requester) (word : BitVec 64) (s : State) : Result := writeObj r Obj.bootListReady word.toNat s

/-- STEP_PERMIT (02 R54). -/
def execStepPermit (r : Requester) (word : BitVec 64) (s : State) : Result := writeObj r Obj.stepPermit word.toNat s

/-- TB2_NOW_WRITE (02 R58): the whole TIME80. -/
def execTb2NowWrite (r : Requester) (value : BitVec 80) (s : State) : Result :=
  .next (s.writeWhole r 0x0300 0x04 value.toNat)

/-- TB2_RATE_WRITE (02 R58). -/
def execTb2RateWrite (r : Requester) (word : BitVec 64) (s : State) : Result := writeObj r Obj.tb2Rate word.toNat s

/-- PULSE_PROGRAM_WRITE (02 R67): field 0 start, 1 period, 2 width, 3 control. -/
def execPulseProgramWrite (r : Requester) (k : Fin 4) (field : Fin 4) (value : BitVec 80) (s : State) : Result :=
  .next (s.writeWhole r 0x0300 (0x20 + 4 * k.val + field.val) value.toNat)

/-- TIN_CAPTURE_READ (02 R69). -/
def execTinCaptureRead (r : Requester) (j : Fin 2) (s : State) : Result :=
  .next (s.readWord r 0x0300 (0x42 + 4 * j.val))

/-- PACK_PREPARE (04 R103). -/
def execPackPrepare (r : Requester) (e : Engine) (s : State) : Result := writeObj r (Obj.packControl e.val) 1 s

/-- PACK_CANCEL_PREPARE (04 R103). -/
def execPackCancelPrepare (r : Requester) (e : Engine) (s : State) : Result := writeObj r (Obj.packControl e.val) 2 s

/-- PACK_RESTART (04 R132). -/
def execPackRestart (r : Requester) (e : Engine) (s : State) : Result := writeObj r (Obj.packControl e.val) 3 s

/-- RETRAIN (05 R159). -/
def execRetrain (r : Requester) (p : Port) (word : BitVec 64) (s : State) : Result := writeObj r (Obj.retrain p.val) word.toNat s

/-- EXPECTED_PEER_WRITE (03 R82). -/
def execExpectedPeerWrite (r : Requester) (p : Port) (word : BitVec 64) (s : State) : Result :=
  writeObj r (Obj.expectedPeer p.val) word.toNat s

/-- WIDTH_WRITE (05 R163). -/
def execWidthWrite (r : Requester) (p : Port) (word : BitVec 64) (s : State) : Result :=
  writeObj r (Obj.portWidth p.val) word.toNat s

/-- POOL_REBUILD (06 R208). -/
def execPoolRebuild (r : Requester) (t : Stall) (word : BitVec 64) (s : State) : Result :=
  writeObj r (Obj.poolRebuild t.val) word.toNat s

/-- SEG_LOCK (08 R255): a write to seg_lock with bit 31 set. -/
def execSegLock (r : Requester) (word : BitVec 64) (s : State) : Result := writeObj r Obj.segLock word.toNat s

/-- SEG_RELEASE (08 R255): a write to seg_lock with bit 31 clear. -/
def execSegRelease (r : Requester) (word : BitVec 64) (s : State) : Result := writeObj r Obj.segLock word.toNat s

/-- EVENT_TAIL_WRITE (17 R529). -/
def execEventTailWrite (r : Requester) (word : BitVec 64) (s : State) : Result := writeObj r Obj.eventTail word.toNat s

/-- SLOT_CLAIM (17 R532). -/
def execSlotClaim (r : Requester) (k : Slot) (token : BitVec 64) (s : State) : Result :=
  writeObj r (Obj.slotToken k.val) token.toNat s

/-- SLOT_FREE (17 R532). -/
def execSlotFree (r : Requester) (k : Slot) (s : State) : Result := writeObj r (Obj.slotToken k.val) 0 s

/-- SLOT_SUBMIT (17 R532). -/
def execSlotSubmit (r : Requester) (k : Slot) (s : State) : Result := writeObj r (Obj.slotSubmit k.val) 1 s

/-- SLOT_WITHDRAW (17 R532). -/
def execSlotWithdraw (r : Requester) (k : Slot) (s : State) : Result := writeObj r (Obj.slotSubmit k.val) 0 s

/-- SLOT_IDLE_TIMEOUT (17 R532): one second without a write by the holder, by the die's clock while it runs. -/
def execSlotIdleTimeout (k : Slot) (s : State) : Result :=
  .next (if (s.slot k.val).status == .claimed && (!s.dieRunning || s.comesNow ((s.slot k.val).wrote + 1000000000))
    then s.setSlot k.val {} else s)

/-- LEASE_WRITE (15 R481). -/
def execLeaseWrite (r : Requester) (pitch : Pitch) (count : Bool) (word : BitVec 64) (s : State) : Result :=
  writeObj r (if count then Obj.leaseCount pitch.val else Obj.leaseBase pitch.val) word.toNat s

/-- VF_BINDING_WRITE (18 R551). -/
def execVfBindingWrite (r : Requester) (v : Fin 64) (word : BitVec 64) (s : State) : Result :=
  writeObj r (Obj.vfBinding v.val) word.toNat s

/-- STORE_COMMIT (18 R561). -/
def execStoreCommit (r : Requester) (word : BitVec 64) (s : State) : Result := writeObj r Obj.storeCommit word.toNat s

/-- STORE_DELETE (18 R561). -/
def execStoreDelete (r : Requester) (word : BitVec 64) (s : State) : Result := writeObj r Obj.storeDelete word.toNat s

/-- KEY_WRITE (18 R566). -/
def execKeyWrite (r : Requester) (operator : Bool) (key : BitVec 256) (s : State) : Result :=
  .next (s.writeWhole r 0x0400 (if operator then 0x06 else 0x05) key.toNat)

/-- ATTEST_NONCE (18 R568). -/
def execAttestNonce (r : Requester) (nonce : BitVec 256) (s : State) : Result :=
  .next (s.writeWhole r 0x0400 0x08 nonce.toNat)

/-- LEDGER_ENABLE (16 R499). -/
def execLedgerEnable (r : Requester) (word : BitVec 64) (s : State) : Result := writeObj r Obj.ledgerEnable word.toNat s

/-- COUNTER_CONTROL_WRITE (16 R489): the whole value of a counter's value, control or filter object. -/
def execCounterControlWrite (r : Requester) (index : BitVec 16) (sub : BitVec 8) (value : BitVec 256) (s : State) :
    Result :=
  .next (if 0x0A40 ≤ index.toNat ∧ index.toNat ≤ 0x0A82 then s.writeWhole r index.toNat sub.toNat value.toNat else s)

/-! ### Messages (17 R522 to R525) -/

/-- Requester of a message: its class and source. -/
def requesterOf (c : MsgClass) : MsgRoute → Requester
  | .mgmt a => .mgmt c a
  | .vc6 e => .vc6 c e

/-- The message key of a class. -/
def State.msgKey (s : State) : MsgClass → Nat
  | .owner => s.obj Obj.keyOwner
  | .operator => s.obj Obj.keyOperator

/-- The first 16 bytes of HMAC-SHA-256 over a message with its tag 0 (17 R523). -/
def State.tagOf (s : State) (c : MsgClass) (header : Nat) (body : List Byte) : Nat :=
  leNat ((Config.hmacSha256 (leBytes 32 (s.msgKey c)) (leBytes 32 (header % 2 ^ 128) ++ body)).take 16)

/-- Bytes padded to a multiple of 8. -/
def pad8 (bs : List Byte) : List Byte := bs ++ List.replicate ((8 - bs.length % 8) % 8) 0

/-- Message limit of a route (17 R524, R525). -/
def MsgLimit : MsgRoute → Nat
  | .mgmt _ => 1400
  | .vc6 _ => 4096

/-- An answer item. -/
def answerItem (index sub op code : Nat) (value : List Byte) : List Byte :=
  leBytes 8 (index + sub * 2 ^ 16 + op * 2 ^ 24 + value.length * 2 ^ 32 + code * 2 ^ 48) ++ pad8 value

/-- A partial read of a long object: offset and count (17 R522). -/
def partialRead (row : ObjRow) (value : List Byte) : Option (Nat × Nat) :=
  if row.ty.long && value.length = 8 then some (leNat (value.take 4), leNat (value.drop 4)) else none

/-- Bytes of the answer's value that a request item asks for. -/
def answerSize (index sub op : Nat) (value : List Byte) : Nat :=
  match op with
  | 1 => match dictRow index sub with
    | some row => match partialRead row value with
      | some (_, n) => n
      | none => (valueBytes row 0).length
    | none => 0
  | 3 => leNat ((value.drop 8).take 4)
  | _ => 0

/-- Value of a write item: the whole object, or for 8 bytes of a long object the rest from the long buffer;
nothing where the length does not fit. -/
def State.itemValue (s : State) (r : Requester) (row : ObjRow) (index sub : Nat) (value : List Byte) : Option Nat :=
  let v := leNat value
  if row.ty.long && value.length = 8 then some (s.wordValue r index sub v)
  else if value.length = row.ty.size then some (if row.ty.signed then extendWord (8 * row.ty.size) v else v)
  else none

/-- A read item: code and answer. -/
def State.itemRead (s : State) (r : Requester) (index sub : Nat) (value : List Byte) : State × Nat × List Byte :=
  let (s, code, v) := s.dictRead r (value.length == 8) index sub
  match code, dictRow index sub with
  | 0, some row =>
    match partialRead row value with
    | some (off, n) =>
      if 1024 < n ∨ row.ty.size < off + n then (s.record r index sub 4, 4, [])
      else (s, 0, ((valueBytes row v).drop off).take n)
    | none => (s, 0, valueBytes row v)
  | _, _ => (s, code, [])

/-- A write item: its code. -/
def State.itemWrite (s : State) (r : Requester) (index sub : Nat) (value : List Byte) : State × Nat :=
  match dictRow index sub with
  | none => s.dictWrite r index sub 0
  | some row => match s.itemValue r row index sub value with
    | some v => s.dictWrite r index sub v
    | none => (s.record r index sub 10, 10)

/-- A table item, read or write: code and answer. -/
def State.itemTable (s : State) (r : Requester) (index sub : Nat) (wr : Bool) (value : List Byte) :
    State × Nat × List Byte :=
  let key := 256 * index + sub
  let off := leNat (value.take 4)
  let bs := value.drop 8
  let n := if wr then bs.length else leNat (bs.take 4)
  match s.precheck r index sub wr with
  | (0, some row) =>
    match row.ty with
    | .table size entry =>
      if 1024 < n ∨ off % entry ≠ 0 ∨ n % entry ≠ 0 ∨ size < off + n then (s.record r index sub 4, 4, [])
      else if wr then
        let (s, code, _) := s.tableStore r row key off bs
        (s.record r index sub code, code, [])
      else (s.record r index sub 0, 0, s.tableBytes row key entry off n)
    | _ => (s.record r index sub 9, 9, [])
  | (code, _) => (s.record r index sub code, code, [])

/-- One item of a message: code and answer value. -/
def State.performItem (s : State) (r : Requester) (index sub op : Nat) (value : List Byte) : State × Nat × List Byte :=
  match op with
  | 1 => s.itemRead r index sub value
  | 2 => let (s, code) := s.itemWrite r index sub value; (s, code, [])
  | 3 => s.itemTable r index sub false value
  | 4 => s.itemTable r index sub true value
  | _ => (s.record r index sub 4, 4, [])

/-- The items of a message in order: once an answer would exceed the limit, it and every later item are
answered with the size code (17 R522). `room` counts the bytes that are left, `after` the items that follow. -/
def State.performItems (s : State) (r : Requester) (full : Bool) (room : Nat) : Nat → List Byte → State × List Byte
  | 0, _ => (s, [])
  | n + 1, bs =>
    let h := leNat (bs.take 8)
    let index := bits h 0 16
    let sub := bits h 16 8
    let op := bits h 24 8
    let len := bits h 32 16
    let value := (bs.drop 8).take len
    let rest := bs.drop (8 + ceilDiv len 8 * 8)
    let need := 8 + ceilDiv (answerSize index sub op value) 8 * 8 + 8 * n
    if full || decide (room < need) then
      let (s, out) := s.performItems r true (room - 8) n rest
      (s, answerItem index sub op 10 [] ++ out)
    else
      let (s, code, v) := s.performItem r index sub op value
      let a := answerItem index sub op code v
      let (s, out) := s.performItems r false (room - a.length) n rest
      (s, a ++ out)

/-- IPv4 address of a management lane with MGMT = 01, prefix /16 (17 R524). -/
def State.mgmtIpv4 (s : State) (lane : Fin 2) : Option Nat :=
  if s.obj Obj.mgmtMode = 1 then
    some (10 * 2 ^ 24 + (64 + s.obj Obj.plane) * 2 ^ 16 + s.obj Obj.pos * 2 ^ 8 + 1 + lane.val)
  else none

/-- The class a header names. -/
def msgClass (h : Nat) : Option MsgClass :=
  match bits h 16 4 with
  | 1 => some .owner
  | 2 => some .operator
  | _ => none

/-- The last accepted request id of a class. -/
def State.lastId (s : State) : MsgClass → Nat
  | .owner => s.dict.lastOwner
  | .operator => s.dict.lastOperator

/-- Keep a response: one for each class and source, at most 64 sources of a class (17 R523). -/
def keepResponse (ks : List KeptResponse) (k : KeptResponse) : List KeptResponse :=
  let ks := ks.filter fun x => !(x.cls == k.cls && x.route == k.route)
  let ks := if 64 ≤ (ks.filter fun x => x.cls == k.cls).length then removeFirst (fun x => x.cls == k.cls) ks else ks
  ks ++ [k]

/-- The header of the message is in order for this module (17 R522, R523). -/
def State.headerOk (s : State) (h : Nat) (n : Nat) : Bool :=
  decide (32 ≤ n) && bits h 0 8 == 1 && bits h 8 8 == 1 && decide (1 ≤ bits h 24 8) && decide (bits h 24 8 ≤ 64)
    && bits h 96 8 == s.obj Obj.pos && bits h 104 4 == s.obj Obj.plane

/-- Answer a message: the response leaves by its route (17 R524, R525). -/
def State.respond (s : State) (route : MsgRoute) (bytes : List Byte) : State :=
  let s := { s with out := { s.out with response := bytes } }
  match route with
  | .mgmt _ => s
  | .vc6 e =>
    let f := { (s.newFrame 6 9).withPayload bytes with dest := e.toNat }
    s.send 0 f

/-- A message is discarded (17 R523). -/
def State.discardMsg (s : State) : State := s.bump Obj.msgDiscarded

/-- A dictionary message arrives (17 R522, R523). -/
def State.message (s : State) (route : MsgRoute) (bytes : List Byte) : State :=
  let h := leNat (bytes.take 32)
  let body := bytes.drop 32
  match msgClass h with
  | none => s.discardMsg
  | some c =>
    if !s.headerOk h bytes.length || decide (MsgLimit route < bytes.length) || s.msgKey c == 0
        || s.tagOf c h body != bits h 128 128 then s.discardMsg
    else
      let id := bits h 32 64
      match s.dict.responses.find? fun k => k.cls == c && k.route == route && k.id == id && id == s.lastId c with
      | some k => s.respond route k.bytes
      | none =>
        if id ≤ s.lastId c then s.discardMsg
        else
          let s := { s with dict := match c with
            | .owner => { s.dict with lastOwner := id }
            | .operator => { s.dict with lastOperator := id } }
          let (s, items) := s.performItems (requesterOf c route) false (MsgLimit route - 32) (bits h 24 8) body
          let head := 1 + 2 * 2 ^ 8 + bits h 16 4 * 2 ^ 16 + bits h 24 8 * 2 ^ 24 + id * 2 ^ 32
            + bits h 96 12 * 2 ^ 96
          let out := leBytes 32 (head + s.tagOf c head items * 2 ^ 128) ++ items
          let s := { s with dict := { s.dict with
            responses := keepResponse s.dict.responses { cls := c, route := route, id := id, bytes := out } } }
          s.respond route out

/-- DICTIONARY_MESSAGE (17 R522). -/
def execDictionaryMessage (route : MsgRoute) (bytes : List Byte) (s : State) : Result :=
  .next (if s.power.mgmtReady && (match route with
      | .mgmt _ => s.obj Obj.mgmtMode != 3
      | .vc6 _ => s.dieRunning) then s.message route bytes else s)

/-! ### I3C (17 R526) -/

/-- ENTDAA (17 R526): the target answers with the management domain (03 R88). -/
def execEntdaa (addr : BitVec 7) (s : State) : Result :=
  .next (if s.power.mgmtReady then { s with dict := { s.dict with i3cAddr := some addr } } else s)

/-- I3C_PRIVATE_WRITE (17 R526): three bytes select an object; further bytes are its whole value. -/
def execI3cPrivateWrite (bytes : List Byte) (s : State) : Result :=
  .next (match bytes with
    | hi :: lo :: sub :: value =>
      if !s.reaches .i3c then s
      else
        let index := hi.toNat * 256 + lo.toNat
        let s := { s with dict := { s.dict with i3cIndex := index, i3cSub := sub.toNat } }
        if value.isEmpty then s
        else
          let (s, code) := s.itemWrite .i3c index sub.toNat value
          s.answer (leNat value % 2 ^ 64) code
    | _ => s)

end Sys2Proof.Machine
end

