-- ==== Sys2Proof/Machine/Insn.lean ====
section
/-! DEFINITION. Issue of an update-engine instruction (11 R339, R351, R359) and the scalar and control
instructions (11 R361, R362). -/

namespace Sys2Proof.Machine

/-! ### The instruction word (11 R359) -/

/-- What a register field names. -/
inductive RegUse where
  /-- Unused: must be 0. -/
  | none
  | x
  | v
  | m
  /-- A vector register, or with s set a scalar one. -/
  | vs
  deriving DecidableEq

/-- What imm holds. -/
inductive ImmUse where
  | none
  | full
  /-- One of the values below a bound. -/
  | below (n : Nat)
  /-- Bits of a mask. -/
  | only (mask : Nat)
  /-- A third scalar source. -/
  | regX
  /-- A third vector source. -/
  | regV
  deriving DecidableEq

/-- The fields an instruction uses; the others must be 0. -/
structure Form where
  d : RegUse := .none
  a : RegUse := .none
  b : RegUse := .none
  mask : Bool := false
  /-- Type codes permitted; none: t is unused. -/
  types : List Nat := []
  round : Bool := false
  imm : ImmUse := .none

/-- A register field is in range. -/
def RegUse.ok (k : RegUse) (s : Bool) (r : Nat) : Bool :=
  match k with
  | .none => r == 0
  | .x => true
  | .v => decide (r < 16)
  | .m => decide (r < 8)
  | .vs => s || decide (r < 16)

/-- imm is in range. Bits that the instruction does not name are unused (log 53). -/
def ImmUse.ok (u : ImmUse) (w : Nat) : Bool :=
  match u with
  | .none => w == 0
  | .full => true
  | .below n => decide (w < n)
  | .only m => w &&& m == w
  | .regX => bits w 0 27 == 0
  | .regV => bits w 0 27 == 0 && decide (bits w 27 5 < 16)

/-- The word is a legal instruction of its form. -/
def Form.ok (g : Form) (f : InsnFields) : Bool :=
  g.d.ok f.s f.d.val && g.a.ok f.s f.a.val && g.b.ok f.s f.b.val
    && (g.b == .vs || !f.s) && (g.mask || f.m == 0) && (g.round || !f.r)
    && (if g.types.isEmpty then f.t.val == 0 else g.types.contains f.t.val)
    && g.imm.ok f.imm.toNat

/-- Register c of a three-source instruction. -/
def regC (f : InsnFields) : Nat := bits f.imm.toNat 27 5

/-- imm as a 64-bit word. -/
def immWord (f : InsnFields) : Word := f.imm.signExtend 64

/-! ### Issue -/

/-- A thread can issue: it runs and waits for nothing inside its segment. -/
def Thread.issues (x : Thread) : Bool := x.state == .running && x.wait == .none

/-- The PC lies in the image of the thread's program (11 R351). -/
def State.fetchOk (s : State) (x : Thread) : Bool :=
  match s.programOf x.run with
  | some p => decide (p.base ≤ x.pc.toNat) && decide (x.pc.toNat + 8 ≤ p.base + p.bytes)
  | none => false

/-- The fetch meets an uncorrectable error; an image in holes may have been reloaded (13 R417). -/
def State.fetchBad (s : State) (x : Thread) : Bool :=
  s.readBad x.pc.toNat 8 && match s.programOf x.run with
    | some p => !p.reloaded
    | none => true

/-- A residue mismatch in a thread's arithmetic (11 R371): the team's flags, the counts and an event; an operation of a
memory-side adder counts at its channel instead (13 R410). -/
def State.insnMismatch (s : State) (t n : Nat) (adder : Option Nat) : State :=
  let s := s.when ((s.thread t n).state != .free) fun s =>
    s.modTeam t (s.thread t n).team fun m => { m with residue := true, custodyResidue := true }
  match adder with
  | some a => s.adderMismatch a (s.threadAttrs t n)
  | none =>
    ((((s.bump (Obj.ueResidueStall t)).bump Obj.ueResidueErrors).bump Obj.residueTotal).eventObj 13 t
      (Obj.ueResidueStall t)).count t 0x700 1 (s.threadAttrs t n)

/-- What the checks find in an instruction that has been performed: the result stands, and the thread goes on
(11 R371; 13 R405). -/
def State.struck (s : State) (t n : Nat) (adder : Option Nat) : Upset → State
  | .residue => s.insnMismatch t n adder
  | .corrected => s.sramFixed t
  | _ => s

/-- An instruction issues: a fetch outside the image, a poisoned fetch, an illegal word or a parity error of the
registers faults; else it is counted and does what `body` says, or waits where that is none. `adder` is the location
of an atomic at a memory-side adder. The command is the instruction as fetched (log 46); a thread that cannot issue
issues nothing (log 10). -/
def State.insnAt (s : State) (t : Stall) (n : ThreadNo) (f : InsnFields) (g : Form) (vec : Bool)
    (adder : Thread → Option Nat) (body : State → Thread → Option State) : Result :=
  let x := s.thread t.val n.val
  .next (if !x.issues then s
    else if !s.fetchOk x then s.faultThread t.val n.val 8 0
    else if s.fetchBad x then s.faultThread t.val n.val 5 0
    else if !g.ok f then s.faultThread t.val n.val 1 0
    else if f.upset == .parity then s.faultThread t.val n.val 5 0
    else
      let e := s.threadAttrs t.val n.val
      let r := (s.count t.val 0x300 1 e).windowCount t.val x.run
      let r := r.when vec fun s => (s.bump (Obj.vectorIssues t.val)).count t.val 0x301 1 e
      match body r x with
      | some s' =>
        if (s'.thread t.val n.val).state == .halted then s' else s'.struck t.val n.val (adder x) f.upset
      | none => s)

/-- An instruction that uses no memory-side adder. -/
def State.insnTry (s : State) (t : Stall) (n : ThreadNo) (f : InsnFields) (g : Form) (vec : Bool)
    (body : State → Thread → Option State) : Result := s.insnAt t n f g vec (fun _ => none) body

/-- An instruction that never waits at issue. -/
def State.insn (s : State) (t : Stall) (n : ThreadNo) (f : InsnFields) (g : Form) (vec : Bool)
    (body : State → Thread → State) : Result := s.insnTry t n f g vec fun s x => some (body s x)

/-- The instruction leaves the thread with these registers, at the next instruction. -/
def State.retire (s : State) (t : Stall) (n : ThreadNo) (x : Thread) : State := s.setThread t.val n.val x.next

/-- A scalar instruction that writes xd. -/
def State.scalar (s : State) (t : Stall) (n : ThreadNo) (f : InsnFields) (g : Form) (op : Thread → Word) : Result :=
  s.insn t n f { g with d := .x } false fun s x => s.retire t n (x.setX f.d.val (op x))

/-- xd = op xa xb. -/
def State.scalar2 (s : State) (t : Stall) (n : ThreadNo) (f : InsnFields) (op : Word → Word → Word) : Result :=
  s.scalar t n f { a := .x, b := .x } fun x => op (x.xr f.a.val) (x.xr f.b.val)

/-- An fp32 result in a scalar register. -/
def fpWord (v : BitVec 32) : Word := v.zeroExtend 64

/-- The fp32 value of a scalar register. -/
def fpOf (w : Word) : BitVec 32 := w.truncate 32

/-- A truth value as a word. -/
def boolWord (b : Bool) : Word := if b then 1 else 0

/-! ### Scalar instructions (11 R361) -/

/-- NOP. -/
def execUeNop (t : Stall) (n : ThreadNo) (f : InsnFields) (s : State) : Result :=
  s.insn t n f {} false fun s x => s.retire t n x

/-- ADD. -/
def execUeAdd (t : Stall) (n : ThreadNo) (f : InsnFields) (s : State) : Result := s.scalar2 t n f fun a b => a + b

/-- SUB. -/
def execUeSub (t : Stall) (n : ThreadNo) (f : InsnFields) (s : State) : Result := s.scalar2 t n f fun a b => a - b

/-- MUL. -/
def execUeMul (t : Stall) (n : ThreadNo) (f : InsnFields) (s : State) : Result := s.scalar2 t n f fun a b => a * b

/-- DIVU: all ones when xb = 0. -/
def execUeDivu (t : Stall) (n : ThreadNo) (f : InsnFields) (s : State) : Result :=
  s.scalar2 t n f fun a b => if b = 0 then BitVec.allOnes 64 else a / b

/-- REMU: xa when xb = 0. -/
def execUeRemu (t : Stall) (n : ThreadNo) (f : InsnFields) (s : State) : Result :=
  s.scalar2 t n f fun a b => if b = 0 then a else a % b

/-- AND. -/
def execUeAnd (t : Stall) (n : ThreadNo) (f : InsnFields) (s : State) : Result := s.scalar2 t n f fun a b => a &&& b

/-- OR. -/
def execUeOr (t : Stall) (n : ThreadNo) (f : InsnFields) (s : State) : Result := s.scalar2 t n f fun a b => a ||| b

/-- XOR. -/
def execUeXor (t : Stall) (n : ThreadNo) (f : InsnFields) (s : State) : Result := s.scalar2 t n f fun a b => a ^^^ b

/-- SHL by xb[5:0]. -/
def execUeShl (t : Stall) (n : ThreadNo) (f : InsnFields) (s : State) : Result :=
  s.scalar2 t n f fun a b => a <<< (b.toNat % 64)

/-- SHR by xb[5:0], logical. -/
def execUeShr (t : Stall) (n : ThreadNo) (f : InsnFields) (s : State) : Result :=
  s.scalar2 t n f fun a b => a >>> (b.toNat % 64)

/-- SRA by xb[5:0], arithmetic. -/
def execUeSra (t : Stall) (n : ThreadNo) (f : InsnFields) (s : State) : Result :=
  s.scalar2 t n f fun a b => a.sshiftRight (b.toNat % 64)

/-- ADDI. -/
def execUeAddi (t : Stall) (n : ThreadNo) (f : InsnFields) (s : State) : Result :=
  s.scalar t n f { a := .x, imm := .full } fun x => x.xr f.a.val + immWord f

/-- ANDI. -/
def execUeAndi (t : Stall) (n : ThreadNo) (f : InsnFields) (s : State) : Result :=
  s.scalar t n f { a := .x, imm := .full } fun x => x.xr f.a.val &&& immWord f

/-- LDI. -/
def execUeLdi (t : Stall) (n : ThreadNo) (f : InsnFields) (s : State) : Result :=
  s.scalar t n f { imm := .full } fun _ => immWord f

/-- LHI: imm above xa[31:0]. -/
def execUeLhi (t : Stall) (n : ThreadNo) (f : InsnFields) (s : State) : Result :=
  s.scalar t n f { a := .x, imm := .full } fun x => f.imm ++ fpOf (x.xr f.a.val)

/-- SLT. -/
def execUeSlt (t : Stall) (n : ThreadNo) (f : InsnFields) (s : State) : Result :=
  s.scalar2 t n f fun a b => boolWord (a.slt b)

/-- SLTU. -/
def execUeSltu (t : Stall) (n : ThreadNo) (f : InsnFields) (s : State) : Result :=
  s.scalar2 t n f fun a b => boolWord (a.ult b)

/-- MIN, signed. -/
def execUeMin (t : Stall) (n : ThreadNo) (f : InsnFields) (s : State) : Result :=
  s.scalar2 t n f fun a b => if a.slt b then a else b

/-- MAX, signed. -/
def execUeMax (t : Stall) (n : ThreadNo) (f : InsnFields) (s : State) : Result :=
  s.scalar2 t n f fun a b => if a.slt b then b else a

/-- FADD. -/
def execUeFadd (t : Stall) (n : ThreadNo) (f : InsnFields) (s : State) : Result :=
  s.scalar2 t n f fun a b => fpWord (fadd (fpOf a) (fpOf b))

/-- FSUB. -/
def execUeFsub (t : Stall) (n : ThreadNo) (f : InsnFields) (s : State) : Result :=
  s.scalar2 t n f fun a b => fpWord (fsub (fpOf a) (fpOf b))

/-- FMUL. -/
def execUeFmul (t : Stall) (n : ThreadNo) (f : InsnFields) (s : State) : Result :=
  s.scalar2 t n f fun a b => fpWord (fmul (fpOf a) (fpOf b))

/-- FFMA: one rounding. -/
def execUeFfma (t : Stall) (n : ThreadNo) (f : InsnFields) (s : State) : Result :=
  s.scalar t n f { a := .x, b := .x, imm := .regX } fun x =>
    fpWord (ffma (fpOf (x.xr f.a.val)) (fpOf (x.xr f.b.val)) (fpOf (x.xr (regC f))))

/-- FDIV. -/
def execUeFdiv (t : Stall) (n : ThreadNo) (f : InsnFields) (s : State) : Result :=
  s.scalar2 t n f fun a b => fpWord (fdiv (fpOf a) (fpOf b))

/-- FSQRT. -/
def execUeFsqrt (t : Stall) (n : ThreadNo) (f : InsnFields) (s : State) : Result :=
  s.scalar t n f { a := .x } fun x => fpWord (fsqrt (fpOf (x.xr f.a.val)))

/-- FCVT by imm: int64 to fp32, fp32 to int64, uint64 to fp32. -/
def execUeFcvt (t : Stall) (n : ThreadNo) (f : InsnFields) (s : State) : Result :=
  s.scalar t n f { a := .x, imm := .below 3 } fun x =>
    let a := x.xr f.a.val
    match f.imm.toNat with
    | 0 => fpWord (toFp32 (FVal.ofInt a.toInt))
    | 1 => BitVec.ofInt 64 ((ofFp32 (fpOf a)).toIntSat (-2 ^ 63) (2 ^ 63 - 1))
    | _ => fpWord (toFp32 (FVal.ofInt (Int.ofNat a.toNat)))

/-- FLT. -/
def execUeFlt (t : Stall) (n : ThreadNo) (f : InsnFields) (s : State) : Result :=
  s.scalar2 t n f fun a b => boolWord ((ofFp32 (fpOf a)).lt (ofFp32 (fpOf b)))

/-- A special register (11 R362). Register 12 is the stall's random generator: a free value (log 6). -/
def State.special (s : State) (t : Stall) (n : ThreadNo) (x : Thread) (k : Nat) : Nat :=
  match k with
  | 0 => s.time.bell
  | 1 => s.netNs
  | 2 => t.val
  | 3 => n.val
  | 4 => n.val - x.team
  | 5 => x.teamSize
  | 6 => s.pitchOf t.val n.val
  | 7 => s.time.cycles
  | 8 => b2n (s.team t.val x.team).residue + (s.obj (Obj.ueResidueStall t.val) % 2 ^ 48) * 2 ^ 16
  | 9 => match s.programOf x.run with
    | some p => p.id
    | none => 0
  | 10 => s.obj Obj.pos
  | 11 => s.obj Obj.plane
  | _ => s.drawn

/-- CSRR (11 R362). -/
def execUeCsrr (t : Stall) (n : ThreadNo) (f : InsnFields) (s : State) : Result :=
  s.insn t n f { d := .x, imm := .below 13 } false fun s x =>
    let w := s.special t n x f.imm.toNat
    let s := if f.imm.toNat = 12 then s.draw else s
    s.retire t n (x.setX f.d.val (BitVec.ofNat 64 w))

/-! ### Control (11 R361) -/

/-- A branch condition. -/
def branchTaken (t : Nat) (a b : Word) : Bool :=
  match t with
  | 0 => a == b
  | 1 => a != b
  | 2 => a.slt b
  | 3 => !a.slt b
  | 4 => a.ult b
  | _ => !a.ult b

/-- PC + imm × 8. -/
def Thread.target (x : Thread) (f : InsnFields) : BitVec 48 := x.pc + f.imm.signExtend 48 * 8

/-- BR. -/
def execUeBr (t : Stall) (n : ThreadNo) (f : InsnFields) (s : State) : Result :=
  s.insn t n f { a := .x, b := .x, types := [0, 1, 2, 3, 4, 5], imm := .full } false fun s x =>
    if branchTaken f.t.val (x.xr f.a.val) (x.xr f.b.val) then s.setThread t.val n.val { x with pc := x.target f }
    else s.retire t n x

/-- JAL. -/
def execUeJal (t : Stall) (n : ThreadNo) (f : InsnFields) (s : State) : Result :=
  s.insn t n f { d := .x, imm := .full } false fun s x =>
    s.setThread t.val n.val { x.setX f.d.val ((x.pc + 8).zeroExtend 64) with pc := x.target f }

/-- JR: a target that is no multiple of 8 is an illegal instruction. -/
def execUeJr (t : Stall) (n : ThreadNo) (f : InsnFields) (s : State) : Result :=
  s.insn t n f { d := .x, a := .x, imm := .full } false fun s x =>
    let target := x.xr f.a.val + immWord f
    if target.toNat % 8 ≠ 0 then s.faultThread t.val n.val 1 0
    else s.setThread t.val n.val
      { x.setX f.d.val ((x.pc + 8).zeroExtend 64) with pc := target.truncate 48 }

end Sys2Proof.Machine
end

