-- ==== Sys2Proof/Machine/VecInsn.lean ====
section
/-! DEFINITION. The vector instructions of the update engine (11 R363). -/

namespace Sys2Proof.Machine

/-- Lane i of operand b: x[b] in every lane with s set. -/
def Thread.laneB (x : Thread) (f : InsnFields) (i : Nat) : Lane :=
  if f.s then (x.xr f.b.val).truncate 32 else x.lane f.b.val i

/-- A vector instruction that writes the enabled lanes of vd. -/
def State.vector (s : State) (t : Stall) (n : ThreadNo) (f : InsnFields) (g : Form) (op : Thread → Nat → Lane) :
    Result :=
  s.insn t n f { g with d := .v, mask := true } true fun s x =>
    s.retire t n (x.setLanes f.d.val (op x) (x.active f.m.val))

/-- vd = op va vb. -/
def State.vector2 (s : State) (t : Stall) (n : ThreadNo) (f : InsnFields) (types : List Nat)
    (op : Lane → Lane → Lane) : Result :=
  s.vector t n f { a := .v, b := .vs, types := types } fun x i => op (x.lane f.a.val i) (x.laneB f i)

/-- vd = op va. -/
def State.vector1 (s : State) (t : Stall) (n : ThreadNo) (f : InsnFields) (op : Lane → Lane) : Result :=
  s.vector t n f { a := .v } fun x i => op (x.lane f.a.val i)

/-- Type codes of an integer instruction whose result does not depend on sign (log 53). -/
def anyInt : List Nat := [0, 9, 11]

/-- Type codes of one whose result does. -/
def signedOrNot : List Nat := [9, 11]

/-- x < y by type code. -/
def laneLess (t : Nat) (x y : Lane) : Bool := if t = 9 then x.slt y else x.ult y

/-! ### fp32 lanes -/

/-- VADD. -/
def execUeVadd (t : Stall) (n : ThreadNo) (f : InsnFields) (s : State) : Result := s.vector2 t n f [] fadd

/-- VSUB. -/
def execUeVsub (t : Stall) (n : ThreadNo) (f : InsnFields) (s : State) : Result := s.vector2 t n f [] fsub

/-- VMUL. -/
def execUeVmul (t : Stall) (n : ThreadNo) (f : InsnFields) (s : State) : Result := s.vector2 t n f [] fmul

/-- VFMA. -/
def execUeVfma (t : Stall) (n : ThreadNo) (f : InsnFields) (s : State) : Result :=
  s.vector t n f { a := .v, b := .vs, imm := .regV } fun x i =>
    ffma (x.lane f.a.val i) (x.laneB f i) (x.lane (regC f) i)

/-- VFNMA. -/
def execUeVfnma (t : Stall) (n : ThreadNo) (f : InsnFields) (s : State) : Result :=
  s.vector t n f { a := .v, b := .vs, imm := .regV } fun x i =>
    ffnma (x.lane f.a.val i) (x.laneB f i) (x.lane (regC f) i)

/-- VMIN. -/
def execUeVmin (t : Stall) (n : ThreadNo) (f : InsnFields) (s : State) : Result := s.vector2 t n f [] fmin

/-- VMAX. -/
def execUeVmax (t : Stall) (n : ThreadNo) (f : InsnFields) (s : State) : Result := s.vector2 t n f [] fmax

/-- VDIV. -/
def execUeVdiv (t : Stall) (n : ThreadNo) (f : InsnFields) (s : State) : Result := s.vector2 t n f [] fdiv

/-- VSQRT. -/
def execUeVsqrt (t : Stall) (n : ThreadNo) (f : InsnFields) (s : State) : Result := s.vector1 t n f fsqrt

/-- A vector instruction whose lanes lie within one unit in the last place of a value: which of them is free
(log 6). -/
def State.vectorNear (s : State) (t : Stall) (n : ThreadNo) (f : InsnFields) (op : FVal → FVal) : Result :=
  s.insn t n f { d := .v, a := .v, mask := true } true fun s x =>
    let r := s.free
    ({ s with free := s.free + 32 } : State).retire t n (x.setLanes f.d.val
      (fun i => withinUlp (op (ofFp32 (x.lane f.a.val i))) (Config.freeValue (r + i))) (x.active f.m.val))

/-- VRCP. -/
def execUeVrcp (t : Stall) (n : ThreadNo) (f : InsnFields) (s : State) : Result :=
  s.vectorNear t n f fun a => (FVal.fin false 1 0).div a

/-- VRSQRT. -/
def execUeVrsqrt (t : Stall) (n : ThreadNo) (f : InsnFields) (s : State) : Result :=
  s.vectorNear t n f fun a => (FVal.fin false 1 0).div a.sqrt

/-- VABS. -/
def execUeVabs (t : Stall) (n : ThreadNo) (f : InsnFields) (s : State) : Result := s.vector1 t n f fabs

/-- VNEG. -/
def execUeVneg (t : Stall) (n : ThreadNo) (f : InsnFields) (s : State) : Result := s.vector1 t n f fneg

/-- Bits of a mask register for the enabled lanes, others kept. -/
def Thread.setMaskBits (x : Thread) (d : Nat) (p : Nat → Bool) (lanes : List Nat) : Thread :=
  x.setMask d (BitVec.ofNat 32 (lanes.foldl (fun w i => putBit w i (p i)) (x.mask d).toNat))

/-- Comparisons of VFCMP. -/
def fpCompare (k : Nat) (a b : Lane) : Bool :=
  let x := ofFp32 a
  let y := ofFp32 b
  match k with
  | 0 => x.eqv y
  | 1 => x.lt y
  | 2 => x.lt y || x.eqv y
  | _ => x == .nan || y == .nan

/-- VFCMP. -/
def execUeVfcmp (t : Stall) (n : ThreadNo) (f : InsnFields) (s : State) : Result :=
  s.insn t n f { d := .m, a := .v, b := .vs, mask := true, imm := .below 4 } true fun s x =>
    s.retire t n (x.setMaskBits f.d.val (fun i => fpCompare f.imm.toNat (x.lane f.a.val i) (x.laneB f i))
      (x.active f.m.val))

/-- VSEL: va where the bit of m[imm[2:0]] is set, else vb. -/
def execUeVsel (t : Stall) (n : ThreadNo) (f : InsnFields) (s : State) : Result :=
  s.vector t n f { a := .v, b := .vs, imm := .below 8 } fun x i =>
    if (x.mask f.imm.toNat).getLsbD i then x.lane f.a.val i else x.laneB f i

/-- VCVT by imm. -/
def execUeVcvt (t : Stall) (n : ThreadNo) (f : InsnFields) (s : State) : Result :=
  s.vector t n f { a := .v, imm := .below 3 } fun x i =>
    let a := x.lane f.a.val i
    match f.imm.toNat with
    | 0 => toFp32 (FVal.ofInt a.toInt)
    | 1 => BitVec.ofInt 32 ((ofFp32 a).toIntSat (-2 ^ 31) (2 ^ 31 - 1))
    | _ => toFp32 (FVal.ofInt (Int.ofNat a.toNat))

/-- Combine two lanes of which either may be disabled. -/
def optCombine {α : Type} (op : α → α → α) : Option α → Option α → Option α
  | some a, some b => some (op a b)
  | some a, none => some a
  | none, b => b

/-- Reduction over lanes: i and i + 2^k, down to lane 0 (11 R363). A disabled lane takes no part. -/
def reduceLanes {α : Type} (op : α → α → α) (v : Nat → Option α) : Nat → Nat → Option α
  | 0, i => v i
  | k + 1, i => optCombine op (reduceLanes op v k i) (reduceLanes op v k (i + 2 ^ (4 - k)))

/-- VRED. With no lane enabled the result is not stated: free (log 6). -/
def execUeVred (t : Stall) (n : ThreadNo) (f : InsnFields) (s : State) : Result :=
  s.insn t n f { d := .x, a := .v, mask := true, imm := .below 4 } true fun s x =>
    let v := fun i => if (x.mask f.m.val).getLsbD i then some (x.lane f.a.val i) else none
    let r : Option Word := match f.imm.toNat with
      | 0 => (reduceLanes fadd v 5 0).map fpWord
      | 1 => (reduceLanes fmax v 5 0).map fpWord
      | 2 => (reduceLanes fmin v 5 0).map fpWord
      | _ => reduceLanes (fun a b => a + b) (fun i => (v i).map (·.signExtend 64)) 5 0
    match r with
    | some w => s.retire t n (x.setX f.d.val w)
    | none => s.draw.retire t n (x.setX f.d.val (BitVec.ofNat 64 s.drawn))

/-- Register uses of MMOV by imm. -/
def mmovForm (k : Nat) : Form :=
  match k with
  | 0 => { d := .m, a := .x, mask := true, imm := .below 5 }
  | 1 => { d := .x, a := .m, mask := true, imm := .below 5 }
  | _ => { d := .m, a := .m, b := .m, mask := true, imm := .below 5 }

/-- MMOV by imm: moves between masks and scalars, and mask logic. A mask destination keeps the bits of
disabled lanes (log 53). -/
def execUeMmov (t : Stall) (n : ThreadNo) (f : InsnFields) (s : State) : Result :=
  s.insn t n f (mmovForm f.imm.toNat) true fun s x =>
    let a := x.mask f.a.val
    let b := x.mask f.b.val
    let put := fun w : BitVec 32 => x.setMaskBits f.d.val (fun i => w.getLsbD i) (x.active f.m.val)
    s.retire t n (match f.imm.toNat with
      | 0 => put (fpOf (x.xr f.a.val))
      | 1 => x.setX f.d.val (fpWord a)
      | 2 => put (a &&& b)
      | 3 => put (a ||| b)
      | _ => put (a &&& ~~~b))

/-! ### Integer lanes -/

/-- VIADD. -/
def execUeViadd (t : Stall) (n : ThreadNo) (f : InsnFields) (s : State) : Result :=
  s.vector2 t n f anyInt fun a b => a + b

/-- VISUB. -/
def execUeVisub (t : Stall) (n : ThreadNo) (f : InsnFields) (s : State) : Result :=
  s.vector2 t n f anyInt fun a b => a - b

/-- VIMUL. -/
def execUeVimul (t : Stall) (n : ThreadNo) (f : InsnFields) (s : State) : Result :=
  s.vector2 t n f anyInt fun a b => a * b

/-- VAND. -/
def execUeVand (t : Stall) (n : ThreadNo) (f : InsnFields) (s : State) : Result :=
  s.vector2 t n f anyInt fun a b => a &&& b

/-- VOR. -/
def execUeVor (t : Stall) (n : ThreadNo) (f : InsnFields) (s : State) : Result :=
  s.vector2 t n f anyInt fun a b => a ||| b

/-- VXOR. -/
def execUeVxor (t : Stall) (n : ThreadNo) (f : InsnFields) (s : State) : Result :=
  s.vector2 t n f anyInt fun a b => a ^^^ b

/-- VSHL by vb[4:0]. -/
def execUeVshl (t : Stall) (n : ThreadNo) (f : InsnFields) (s : State) : Result :=
  s.vector2 t n f anyInt fun a b => a <<< (b.toNat % 32)

/-- VSHR by vb[4:0]: arithmetic for t 9, logical for t 11. -/
def execUeVshr (t : Stall) (n : ThreadNo) (f : InsnFields) (s : State) : Result :=
  s.vector2 t n f signedOrNot fun a b =>
    if f.t.val = 9 then a.sshiftRight (b.toNat % 32) else a >>> (b.toNat % 32)

/-- VIMIN. -/
def execUeVimin (t : Stall) (n : ThreadNo) (f : InsnFields) (s : State) : Result :=
  s.vector2 t n f signedOrNot fun a b => if laneLess f.t.val a b then a else b

/-- VIMAX. -/
def execUeVimax (t : Stall) (n : ThreadNo) (f : InsnFields) (s : State) : Result :=
  s.vector2 t n f signedOrNot fun a b => if laneLess f.t.val a b then b else a

/-- VICMP. -/
def execUeVicmp (t : Stall) (n : ThreadNo) (f : InsnFields) (s : State) : Result :=
  s.insn t n f { d := .m, a := .v, b := .vs, mask := true, types := signedOrNot, imm := .below 3 } true fun s x =>
    let p := fun i =>
      let a := x.lane f.a.val i
      let b := x.laneB f i
      match f.imm.toNat with
      | 0 => a == b
      | 1 => laneLess f.t.val a b
      | _ => !laneLess f.t.val b a
    s.retire t n (x.setMaskBits f.d.val p (x.active f.m.val))

/-- VLANE: i + imm. -/
def execUeVlane (t : Stall) (n : ThreadNo) (f : InsnFields) (s : State) : Result :=
  s.vector t n f { types := anyInt, imm := .full } fun _ i => BitVec.ofNat 32 i + f.imm

/-- VBCAST. -/
def execUeVbcast (t : Stall) (n : ThreadNo) (f : InsnFields) (s : State) : Result :=
  s.vector t n f { a := .x, types := anyInt } fun x _ => (x.xr f.a.val).truncate 32

/-- VEXT: one lane, extended by t. The write mask names no lane of a scalar (log 53). -/
def execUeVext (t : Stall) (n : ThreadNo) (f : InsnFields) (s : State) : Result :=
  s.insn t n f { d := .x, a := .v, mask := true, types := signedOrNot, imm := .below 32 } true fun s x =>
    let w := x.lane f.a.val f.imm.toNat
    s.retire t n (x.setX f.d.val (if f.t.val = 9 then w.signExtend 64 else w.zeroExtend 64))

/-- VINS: one lane, if enabled. -/
def execUeVins (t : Stall) (n : ThreadNo) (f : InsnFields) (s : State) : Result :=
  s.insn t n f { d := .v, a := .x, mask := true, types := anyInt, imm := .below 32 } true fun s x =>
    s.retire t n (x.setLanes f.d.val (fun _ => (x.xr f.a.val).truncate 32)
      ((x.active f.m.val).filter (· == f.imm.toNat)))

/-- VPERM: va[vb[i][4:0]]. -/
def execUeVperm (t : Stall) (n : ThreadNo) (f : InsnFields) (s : State) : Result :=
  s.vector t n f { a := .v, b := .vs, types := anyInt } fun x i =>
    x.lane f.a.val ((x.laneB f i).toNat % 32)

end Sys2Proof.Machine
end

