-- ==== Sys2Proof/Machine/InsnMem.lean ====
section
/-! DEFINITION. The update-engine instructions that reach memory, the team and the network: loads, stores and
block moves (11 R364), atomics and synchronisation (R365), till and output instructions (R367 to R370, 12
R382), and what they may access (R341 to R344). -/

namespace Sys2Proof.Machine

/-! ### Access rights (11 R341 to R344) -/

/-- What an access does. -/
inductive Right where
  | read | write | atomic
  deriving DecidableEq

/-- A grant has a right. -/
def Grant.gives (g : Grant) : Right → Bool
  | .read => g.rd
  | .write => g.wr
  | .atomic => g.atomic

/-- Bytes of a held buffer. -/
def State.heldSize (s : State) (h : HeldBuf) : Nat :=
  match s.bufferHome h.addr with
  | some (_, k) => poolSize k
  | none => h.bytes

/-- An address range lies in a buffer. -/
def State.inHeld (s : State) (a n : Nat) (h : HeldBuf) : Bool :=
  decide (h.addr ≤ a) && decide (a + n ≤ h.addr + s.heldSize h)

/-- The range lies in a staging buffer that a team of the thread's run holds. -/
def State.holds (s : State) (x : Thread) (a n : Nat) : Bool :=
  s.update.teams.any fun e =>
    let y := s.thread (e.1 / 256) (e.1 % 256)
    y.state != .free && y.run == x.run && e.2.held.any (s.inHeld a n)

/-- The range lies wholly within one grant that has the right. -/
def State.granted (s : State) (x : Thread) (k : Right) (a n : Nat) : Bool :=
  (s.runOf x.run).grants.any fun g => decide (g.base ≤ a) && decide (a + n ≤ g.base + g.length) && g.gives k

/-- An access to a stall window (11 R342, R350). -/
def State.mayAccessWindow (s : State) (t n : Nat) (x : Thread) (k : Right) (a len : Nat) : Bool :=
  let w := (a - 0x100000000000) / 0x400000
  let off := (a - 0x100000000000) % 0x400000
  let own := w == t
  let reach := own || s.granted x k a len
  let pad := decide (off + len ≤ 0x200000)
  let store := decide (0x200000 ≤ off) && decide (off + len ≤ 0x300000)
  let mine := own && decide (0x300000 + n * 0x400 ≤ off) && decide (off + len ≤ 0x300000 + (n + 1) * 0x400)
  match k with
  | .read => (reach && (pad || store)) || mine
  | .write => (reach && ((pad && s.holds x a len) || store)) || mine
  | .atomic => own && pad && s.holds x a len

/-- The access is permitted (11 R341 to R343). The mirror is judged apart. -/
def State.mayAccess (s : State) (t n : Nat) (x : Thread) (k : Right) (a len : Nat) : Bool :=
  if a + len ≤ s.dramUsable then s.granted x k a len || s.holds x a len
  else if 0x100000000000 ≤ a ∧ a + len ≤ 0x110000000000 then s.mayAccessWindow t n x k a len
  else isHost a && decide (a + len ≤ 0x300000000000) && k != .atomic && s.granted x k a len

/-! ### The dictionary mirror (11 R344; 17 R506, R509) -/

def mirrorBase : Nat := 0x300000000000

/-- Address in the mirror. -/
def isMirror (a : Nat) : Bool := decide (mirrorBase ≤ a) && decide (a < mirrorBase + 0x8000000)

/-- The words of the mirror that an access touches. -/
def mirrorWords (a n : Nat) : List Nat :=
  let w := (a - mirrorBase) / 8
  (upTo ((a - mirrorBase + n - 1) / 8 + 1 - w)).map (w + ·)

/-- The mirror refuses a read: no right, a TABLE, or a long object read otherwise than by a word. -/
def State.mirrorBad (s : State) (t : Stall) (n : ThreadNo) (a len : Nat) : Bool :=
  (mirrorWords a len).any fun w =>
    match s.precheck (.thread t n) (w / 256) (w % 256) false with
    | (0, some row) => row.ty.isTable || (row.ty.long && len != 8)
    | _ => true

/-- The words of the mirror that a range covers, read in order. -/
def State.mirrorReads (s : State) (t : Stall) (n : ThreadNo) (a len : Nat) : State × List Byte :=
  (mirrorWords a len).foldl (fun acc w =>
    let r := acc.1.dictRead (.thread t n) true (w / 256) (w % 256)
    (r.1, acc.2 ++ leBytes 8 r.2.2)) (s, [])

/-- Read bytes of the mirror. -/
def State.mirrorRead (s : State) (t : Stall) (n : ThreadNo) (a len : Nat) : State × List Byte :=
  let r := s.mirrorReads t n a len
  (r.1, (r.2.drop (a % 8)).take len)

/-! ### Pieces of an access -/

/-- A contiguous piece of an access: address, bytes, and the lanes it serves. -/
structure Piece where
  addr : Nat
  bytes : Nat
  lanes : List Nat := []

/-- Bytes of an element of a memory type. -/
def memBytes (t : Nat) : Nat :=
  match t with
  | 1 | 2 | 13 => 2
  | 3 | 4 | 12 => 1
  | 10 => 8
  | _ => 4

/-- A poisoned unit or a hole under the elements that a piece reads (13 R404). -/
def State.pieceBad (s : State) (op size : Nat) (p : Piece) : Bool :=
  if op = 0x53 || p.lanes.isEmpty then s.readBad p.addr p.bytes
  else p.lanes.any fun i => s.readBad (p.addr + (i - p.lanes.headD 0) * size) size

/-- Why a piece faults: fault code and address (11 R372). -/
def State.pieceFault (s : State) (t : Stall) (n : ThreadNo) (x : Thread) (k : Right) (op size : Nat) (p : Piece) :
    Option (Nat × Nat) :=
  if isMirror p.addr then
    if k == .read && !s.mirrorBad t n p.addr p.bytes then none else some (2, p.addr)
  else if !s.mayAccess t.val n.val x k p.addr p.bytes then some (2, p.addr)
  else if isHost p.addr then (if s.hostOpen then none else some (4, p.addr))
  else if k != .write && s.pieceBad op size p then some (5, p.addr)
  else none

/-- The address lies in a stall's window: its SRAM. -/
def isWindow (a : Nat) : Bool := decide (0x100000000000 ≤ a) && decide (a < 0x110000000000)

/-- The first fault among pieces; an error that the SRAM does not correct meets the first piece read there (13 R405). -/
def State.piecesFault (s : State) (t : Stall) (n : ThreadNo) (x : Thread) (k : Right) (op size : Nat)
    (ps : List Piece) (u : Upset) : Option (Nat × Nat) :=
  match ps.findSome? (s.pieceFault t n x k op size) with
  | some e => some e
  | none =>
    if u == .uncorrectable && k != .write then (ps.find? fun p => isWindow p.addr).map fun p => (5, p.addr) else none

/-- The thread faults on an access; a refused mirror read and a host request not sent are counted first. -/
def State.accessFault (s : State) (t : Stall) (n : ThreadNo) (code a : Nat) : State :=
  let s := if code = 5 && isWindow a && !s.readBad a 1 then s.sramBad t.val else s
  let s := if code = 4 then s.hostError else if isMirror a then (s.mirrorRead t n a 1).1 else s
  s.faultThread t.val n.val code a

/-- Address of a scalar form: xa + imm. -/
def dataAddr (f : InsnFields) (x : Thread) : Nat := (x.xr f.a.val + immWord f).toNat

/-- A contiguous vector access leaves its page (11 R364), judged on its 32 elements. -/
def crosses (a n : Nat) : Bool := a / 4096 != (a + n - 1) / 4096

/-- The piece of a contiguous vector access: from the first enabled lane to the last. -/
def spanPieces (a size : Nat) (lanes : List Nat) : List Piece :=
  match lanes.head?, lanes.getLast? with
  | some i, some j => [{ addr := a + i * size, bytes := (j + 1 - i) * size, lanes }]
  | _, _ => []

/-- Lane i of a strided access lies at xa + i × xb; of an indexed one at xa + vb[i]. -/
def stridedAddr (f : InsnFields) (x : Thread) (i : Nat) : Nat :=
  (x.xr f.a.val + BitVec.ofNat 64 i * x.xr f.b.val).toNat
def indexedAddr (f : InsnFields) (x : Thread) (i : Nat) : Nat :=
  (x.xr f.a.val + (x.laneB f i).zeroExtend 64).toNat

/-- One piece for each enabled lane. -/
def lanePieces (size : Nat) (addr : Nat → Nat) (lanes : List Nat) : List Piece :=
  lanes.map fun i => { addr := addr i, bytes := size, lanes := [i] }

/-! ### Loads -/

/-- The scalar that LD gives (11 R364). -/
def loadScalar (t v : Nat) : Word := if t = 9 then (BitVec.ofNat 32 v).signExtend 64 else BitVec.ofNat 64 v

/-- The lane that an element of a memory type gives. -/
def loadLane (t v : Nat) : Lane :=
  match t with
  | 1 | 2 | 3 | 4 => match elemFmt t 0 with
    | some g => toFp32 (g.decode v)
    | none => BitVec.ofNat 32 v
  | _ => BitVec.ofNat 32 v

/-- The lane of element i of the block that VLDX names, from the block's bytes: its scale first (09 R286). -/
def loadMx (t imm : Nat) (data : List Byte) (i : Nat) : Lane :=
  let w := packedBits t
  let blk := imm % 8
  let packed := leNat (data.drop (8 + blk * (4 * w) - blk))
  toFp32 (mxScaled (mxElem t (bits imm 3 1) (bits packed (w * i) w)) (data.headD 0).toNat)

/-- Bytes of a piece into the destination register. -/
def Thread.takeLoad (x : Thread) (op t d imm : Nat) (lanes : List Nat) (data : List Byte) : Thread :=
  if op = 0x50 then x.setX d (loadScalar t (leNat data))
  else if op = 0x53 then x.setLanes d (loadMx t imm data) lanes
  else x.setLanes d (fun i => loadLane t (leNat ((data.drop ((i - lanes.headD 0) * memBytes t)).take (memBytes t)))) lanes

/-- The address lies in a scratchpad pool of its stall (06 R204). -/
def State.inPools (s : State) (a : Nat) : Bool :=
  isWindow a && (upTo 4).any fun k =>
    let t := (a - 0x100000000000) / 0x400000
    decide (s.poolBase t k ≤ a) && decide (a < s.poolBase t k + s.poolCount t k * poolSize k)

/-- The bytes of a piece that lies in the module. A load from a staging buffer that the run does not hold, as after
its GIVE, reads undefined data (11 R368), and so does one from the C of a descriptor at work (12 R390): free values.
-/
def State.readPiece (s : State) (t : Stall) (n : ThreadNo) (p : Piece) : State × List Byte :=
  if isMirror p.addr then s.mirrorRead t n p.addr p.bytes
  else
    let r := s.countAccess t.val p.addr p.bytes false (s.threadAttrs t.val n.val)
    if s.inPools p.addr && !s.holds (s.thread t.val n.val) p.addr p.bytes then
      ({ r with free := r.free + p.bytes }, freeBytesFrom s.free p.bytes)
    else r.readOpen p.addr p.bytes

/-- A request to host memory (18 R553): what it reads is asked in parts, as many now as may be outstanding
(18 R554). -/
def State.askHost (s : State) (a bytes : Nat) (u : HostUse) : State :=
  ({ s with host := { s.host with
      reqs := s.host.reqs ++ [{ id := s.host.nextReq, addr := a - 0x200000000000, bytes := bytes, use := u }]
      nextReq := s.host.nextReq + 1 } } : State).sendReads

/-- The stall that a request serves. -/
def HostReq.stall (r : HostReq) : Nat :=
  match r.use with
  | .load t .. => t
  | .move t _ => t

/-- Requests of a stall fit under the 1024 that it may have outstanding (11 R339). -/
def State.hostRoom (s : State) (t n : Nat) : Bool :=
  decide ((s.host.reqs.filter fun r => r.stall == t).length + n ≤ 1024)

/-- A load whose pieces do not fault: those in the module are read now, and the thread waits for those of
the host, inside its segment (11 R354). -/
def State.load (s : State) (t : Stall) (n : ThreadNo) (f : InsnFields) (op : Nat) (x : Thread) (ps : List Piece) :
    Option State :=
  match s.piecesFault t n x .read op (memBytes f.t.val) ps f.upset with
  | some (code, a) => some (s.accessFault t n code a)
  | none =>
    let away := ps.filter fun p => isHost p.addr
    if !away.isEmpty && !s.hostRoom t.val away.length then none
    else
      let r := (ps.filter fun p => !isHost p.addr).foldl (fun (acc : State × Thread) p =>
        let (s, bs) := acc.1.readPiece t n p
        (s, acc.2.takeLoad op f.t.val f.d.val f.imm.toNat p.lanes bs)) (s, x)
      if away.isEmpty then some (r.1.retire t n r.2)
      else
        let id := r.1.host.nextReq
        let s := away.foldl (fun s p => s.askHost p.addr p.bytes
          (.load t.val n.val op f.t.val f.d.val f.m.val f.imm.toNat p.lanes)) r.1
        some (s.setThread t.val n.val { r.2 with wait := .host id })

/-- LD (11 R364). -/
def execUeLd (t : Stall) (n : ThreadNo) (f : InsnFields) (s : State) : Result :=
  s.insnTry t n f { d := .x, a := .x, types := [0, 9, 10, 11, 12, 13], imm := .full } false fun s x =>
    let a := dataAddr f x
    let size := memBytes f.t.val
    if a % size ≠ 0 then some (s.faultThread t.val n.val 3 a)
    else s.load t n f 0x50 x [{ addr := a, bytes := size }]

/-- Types of the vector loads and stores. -/
def vecTypes : List Nat := [0, 1, 2, 3, 4, 9, 11]

/-- VLD (11 R364). -/
def execUeVld (t : Stall) (n : ThreadNo) (f : InsnFields) (s : State) : Result :=
  s.insnTry t n f { d := .v, a := .x, mask := true, types := vecTypes, imm := .full } true fun s x =>
    let a := dataAddr f x
    let size := memBytes f.t.val
    if a % size ≠ 0 || crosses a (32 * size) then some (s.faultThread t.val n.val 3 a)
    else s.load t n f 0x52 x (spanPieces a size (x.active f.m.val))

/-- VLDX (11 R364): the block's scale and elements are read. -/
def execUeVldx (t : Stall) (n : ThreadNo) (f : InsnFields) (s : State) : Result :=
  s.insnTry t n f { d := .v, a := .x, mask := true, types := [5, 6, 7, 8], imm := .below 16 } true fun s x =>
    let blk := f.imm.toNat % 8
    let a := (x.xr f.a.val).toNat + blk
    let len := 8 + (blk + 1) * (4 * packedBits f.t.val) - blk
    let lanes := x.active f.m.val
    if crosses a len then some (s.faultThread t.val n.val 3 a)
    else s.load t n f 0x53 x (if lanes.isEmpty then [] else [{ addr := a, bytes := len, lanes }])

/-- A lane of an indexed or strided access is not aligned. -/
def misaligned (size : Nat) (ps : List Piece) : Option Nat := (ps.find? fun p => p.addr % size != 0).map (·.addr)

/-- A vector load with a separate access for each lane. -/
def State.loadLanes (s : State) (t : Stall) (n : ThreadNo) (f : InsnFields) (g : Form) (op : Nat)
    (addr : Thread → Nat → Nat) : Result :=
  s.insnTry t n f { g with d := .v, a := .x, mask := true, types := vecTypes } true fun s x =>
    let size := memBytes f.t.val
    let ps := lanePieces size (addr x) (x.active f.m.val)
    match misaligned size ps with
    | some a => some (s.faultThread t.val n.val 3 a)
    | none => s.load t n f op x ps

/-- VLDS (11 R364). -/
def execUeVlds (t : Stall) (n : ThreadNo) (f : InsnFields) (s : State) : Result :=
  s.loadLanes t n f { b := .x } 0x55 (stridedAddr f)

/-- VGATHER (11 R364). -/
def execUeVgather (t : Stall) (n : ThreadNo) (f : InsnFields) (s : State) : Result :=
  s.loadLanes t n f { b := .vs } 0x57 (indexedAddr f)

/-! ### Stores -/

/-- Store bytes for a thread. -/
def State.storeFor (s : State) (t : Stall) (n : ThreadNo) (a : Nat) (bs : List Byte) : State :=
  if isHost a then s.hostStore a bs (s.threadAttrs t.val n.val) else (s.spoil a bs.length).store a bs

/-- Pieces counted as written at the stall and the channels. -/
def State.countPieces (s : State) (t : Stall) (n : ThreadNo) (ps : List Piece) : State :=
  ps.foldl (fun s p => if isHost p.addr then s
    else s.countAccess t.val p.addr p.bytes true (s.threadAttrs t.val n.val)) s

/-- A store whose pieces are checked as accesses and whose bytes are written in order. -/
def State.storeAll (s : State) (t : Stall) (n : ThreadNo) (x : Thread) (op : Nat) (ps : List Piece)
    (ws : List (Nat × List Byte)) : State :=
  match s.piecesFault t n x .write op 1 ps .none with
  | some (code, a) => s.accessFault t n code a
  | none => (ws.foldl (fun s w => s.storeFor t n w.1 w.2) (s.countPieces t n ps)).retire t n x

/-- ST (11 R364). -/
def execUeSt (t : Stall) (n : ThreadNo) (f : InsnFields) (s : State) : Result :=
  s.insn t n f { d := .x, a := .x, types := [0, 9, 10, 11, 12, 13], imm := .full } false fun s x =>
    let a := dataAddr f x
    let size := memBytes f.t.val
    if a % size ≠ 0 then s.faultThread t.val n.val 3 a
    else s.storeAll t n x 0x51 [{ addr := a, bytes := size }] [(a, leBytes size (x.xr f.d.val).toNat)]

/-- Bytes of a lane converted to a memory type; the 16 random bits of a stochastic rounding are a free value
(log 6). -/
def storeLane (t : Nat) (stochastic : Bool) (free : Nat) (v : Lane) : List Byte :=
  match t with
  | 1 | 2 | 3 | 4 => match elemFmt t 0 with
    | some g =>
      let r : Rounding := if stochastic then .stochastic (Config.freeValue free % 65536) else .nearest
      leBytes (memBytes t) (g.encode r false (ofFp32 v)).pattern
    | none => leBytes (memBytes t) v.toNat
  | _ => leBytes 4 v.toNat

/-- Store the enabled lanes of vd, ascending. -/
def State.storeLanes (s : State) (t : Stall) (n : ThreadNo) (f : InsnFields) (op : Nat) (x : Thread)
    (ps : List Piece) (addr : Nat → Nat) : State :=
  let k := s.free
  let s := if f.r then { s with free := s.free + 32 } else s
  s.storeAll t n x op ps
    ((x.active f.m.val).map fun i => (addr i, storeLane f.t.val f.r (k + i) (x.lane f.d.val i)))

/-- VST (11 R364). -/
def execUeVst (t : Stall) (n : ThreadNo) (f : InsnFields) (s : State) : Result :=
  s.insn t n f { d := .v, a := .x, mask := true, types := vecTypes, round := true, imm := .full } true fun s x =>
    let a := dataAddr f x
    let size := memBytes f.t.val
    if a % size ≠ 0 || crosses a (32 * size) then s.faultThread t.val n.val 3 a
    else s.storeLanes t n f 0x54 x (spanPieces a size (x.active f.m.val)) fun i => a + i * size

/-- A vector store with a separate access for each lane. -/
def State.scatter (s : State) (t : Stall) (n : ThreadNo) (f : InsnFields) (g : Form) (op : Nat)
    (addr : Thread → Nat → Nat) : Result :=
  s.insn t n f { g with d := .v, a := .x, mask := true, types := vecTypes, round := true } true fun s x =>
    let size := memBytes f.t.val
    let ps := lanePieces size (addr x) (x.active f.m.val)
    match misaligned size ps with
    | some a => s.faultThread t.val n.val 3 a
    | none => s.storeLanes t n f op x ps (addr x)

/-- VSTS (11 R364). -/
def execUeVsts (t : Stall) (n : ThreadNo) (f : InsnFields) (s : State) : Result :=
  s.scatter t n f { b := .x } 0x56 (stridedAddr f)

/-- VSCATTER (11 R364): of two lanes at one location the higher is stored last. -/
def execUeVscatter (t : Stall) (n : ThreadNo) (f : InsnFields) (s : State) : Result :=
  s.scatter t n f { b := .vs } 0x58 (indexedAddr f)

/-! ### Block moves -/

/-- An operation of a thread joins a completion counter (11 R365). -/
def Thread.addCounter (x : Thread) (k : Nat) : Thread :=
  let c := Tbl.get x.counters k (0, 0)
  { x with counters := Tbl.set x.counters k (c.1 + 1, c.2) }

/-- A block move begins. -/
def State.startMove (s : State) (t : Stall) (n : ThreadNo) (k src dst len : Nat) : State :=
  let e := s.threadAttrs t.val n.val
  let s := if isHost src then s else s.countAccess t.val src len false e
  let s := if isHost dst then s else s.countAccess t.val dst len true e
  let away := isHost src && s.hostOpen
  let v : BlockMove := { stall := t.val, thread := n.val, counter := k, src, dst, bytes := len
                         req := if isHost src then some s.host.nextReq else none, hostData := none
                         hostError := isHost src && !s.hostOpen }
  let s := { s with update := { s.update with moves := s.update.moves ++ [v] } }
  if away then s.askHost src len (.move t.val n.val)
  else if isHost src then s.hostError else s

/-- BMOV (11 R364). -/
def execUeBmov (t : Stall) (n : ThreadNo) (f : InsnFields) (s : State) : Result :=
  s.insnTry t n f { d := .x, a := .x, b := .x, imm := .below 8 } false fun s x =>
    let src := (x.xr f.a.val).toNat
    let dst := (x.xr f.d.val).toNat
    let len := (x.xr f.b.val).toNat
    let fault := fun code a => some (s.faultThread t.val n.val code a)
    if src % 64 ≠ 0 then fault 3 src
    else if dst % 64 ≠ 0 then fault 3 dst
    else if len % 64 ≠ 0 || decide (2 ^ 20 < len) then fault 3 src
    else if !s.mayAccess t.val n.val x .read src len then fault 2 src
    else if !s.mayAccess t.val n.val x .write dst len then fault 2 dst
    else if isHost src && !s.hostRoom t.val 1 then none
    else some ((s.retire t n (x.addCounter (f.imm.toNat % 8))).startMove t n (f.imm.toNat % 8) src dst len)

/-! ### Atomics (11 R350, R365) -/

/-- One atomic on its location. -/
def State.atomicAt (s : State) (t : Stall) (n : ThreadNo) (op : AtomOp) (ty a v : Nat) : State :=
  let w := atomBytes ty
  let s := if s.isDram a then s.countAdder a ((s.threadAttrs t.val n.val).at a) else s
  s.store a (leBytes w (op.apply ty (s.readNat a w) (v % 2 ^ (8 * w))))

/-- The memory-side adder that an atomic at an address uses: that of its channel, if it lies in DRAM. -/
def State.adderAt (s : State) (a : Nat) : Option Nat := if s.isDram a then some a else none

/-- A scalar atomic: the old value is returned in xd. -/
def State.atomic (s : State) (t : Stall) (n : ThreadNo) (f : InsnFields) (g : Form) (op : Thread → AtomOp)
    (types : List Nat) : Result :=
  s.insnAt t n f { g with d := .x, a := .x, b := .x, types := types } false
    (fun x => s.adderAt (x.xr f.a.val).toNat) fun s x => some <|
    let a := (x.xr f.a.val).toNat
    let w := atomBytes f.t.val
    if a % w ≠ 0 then s.faultThread t.val n.val 3 a
    else match s.piecesFault t n x .atomic 0x70 w [{ addr := a, bytes := w }] f.upset with
      | some (code, a) => s.accessFault t n code a
      | none =>
        let old := s.readNat a w
        (s.atomicAt t n (op x) f.t.val a (x.xr f.b.val).toNat).retire t n (x.setX f.d.val (loadScalar f.t.val old))

/-- AADD. -/
def execUeAadd (t : Stall) (n : ThreadNo) (f : InsnFields) (s : State) : Result :=
  s.atomic t n f {} (fun _ => .add) [0, 1, 9, 10]

/-- AMIN. -/
def execUeAmin (t : Stall) (n : ThreadNo) (f : InsnFields) (s : State) : Result :=
  s.atomic t n f {} (fun _ => .min) [0, 9, 10, 11]

/-- AMAX. -/
def execUeAmax (t : Stall) (n : ThreadNo) (f : InsnFields) (s : State) : Result :=
  s.atomic t n f {} (fun _ => .max) [0, 9, 10, 11]

/-- ASWP. -/
def execUeAswp (t : Stall) (n : ThreadNo) (f : InsnFields) (s : State) : Result :=
  s.atomic t n f {} (fun _ => .swap) [10]

/-- ACAS. -/
def execUeAcas (t : Stall) (n : ThreadNo) (f : InsnFields) (s : State) : Result :=
  s.atomic t n f { imm := .regX } (fun x => .cas (x.xr (regC f)).toNat) [10]

/-- VAADD: each enabled lane one atomic. -/
def execUeVaadd (t : Stall) (n : ThreadNo) (f : InsnFields) (s : State) : Result :=
  s.insnAt t n f { a := .x, b := .vs, mask := true, types := [0, 1, 9] } true
    (fun x => s.adderAt (x.xr f.a.val).toNat) fun s x => some <|
    let a := (x.xr f.a.val).toNat
    let w := atomBytes f.t.val
    let lanes := x.active f.m.val
    if a % w ≠ 0 || crosses a (32 * w) then s.faultThread t.val n.val 3 a
    else match s.piecesFault t n x .atomic 0x75 w (spanPieces a w lanes) f.upset with
      | some (code, a) => s.accessFault t n code a
      | none =>
        (lanes.foldl (fun s i => s.atomicAt t n .add f.t.val (a + i * w) (x.laneB f i).toNat) s).retire t n x

/-! ### Synchronisation (11 R345 to R349, R365) -/

/-- FENCE: every earlier access of the thread has been performed when it issues, so it orders nothing more. -/
def execUeFence (t : Stall) (n : ThreadNo) (f : InsnFields) (s : State) : Result :=
  s.insn t n f { imm := .below 48 } false fun s x => s.retire t n x

/-- TSYNC: the thread waits at its team's barrier. -/
def execUeTsync (t : Stall) (n : ThreadNo) (f : InsnFields) (s : State) : Result :=
  s.insn t n f { d := .x } false fun s x =>
    let s := s.setThread t.val n.val { x with wait := .barrier f.d.val }
    (s.modTeam t.val x.team fun m => { m with barrier := m.barrier ++ [n.val] }).checkBarrier t.val n.val

/-- BELLW: returns at once when the bell has rung. -/
def execUeBellw (t : Stall) (n : ThreadNo) (f : InsnFields) (nj : Nat) (s : State) : Result :=
  s.insn t n f { d := .x, a := .x } false fun s x =>
    let target := (x.xr f.a.val).toNat
    if target ≤ s.time.bell then s.retire t n (x.setX f.d.val (BitVec.ofNat 64 s.time.bell))
    else (s.retire t n x).yieldTo t.val n.val nj (.bell target f.d.val)

/-- WAITM: the location lies in the thread's own scratchpad. -/
def execUeWaitm (t : Stall) (n : ThreadNo) (f : InsnFields) (nj : Nat) (s : State) : Result :=
  s.insn t n f { a := .x, b := .x } false fun s x =>
    let a := (x.xr f.a.val).toNat
    let target := (x.xr f.b.val).toNat
    if a % 8 ≠ 0 then s.faultThread t.val n.val 3 a
    else if a < stallWindow t.val || stallWindow t.val + 0x200000 < a + 8 then s.faultThread t.val n.val 2 a
    else if s.readBad a 8 then s.faultThread t.val n.val 5 a
    else (s.retire t n x).yieldTo t.val n.val nj
      (if target ≤ s.readNat a 8 then .none else .location a target)

/-- YIELD: the segment ends. -/
def execUeYield (t : Stall) (n : ThreadNo) (f : InsnFields) (nj : Nat) (s : State) : Result :=
  s.insn t n f {} false fun s x => (s.retire t n x).yieldTo t.val n.val nj .none

/-- KWAIT: the counter's first error is read and cleared once the counter is 0. -/
def execUeKwait (t : Stall) (n : ThreadNo) (f : InsnFields) (s : State) : Result :=
  s.insn t n f { d := .x, imm := .below 8 } false fun s x =>
    let k := f.imm.toNat
    let c := Tbl.get x.counters k (0, 0)
    if c.1 = 0 then
      (s.retire t n ({ x with counters := Tbl.set x.counters k (0, 0) }.setX f.d.val (BitVec.ofNat 64 c.2))).closeWindows
        t.val n.val k
    else s.setThread t.val n.val { x with wait := .counter k f.d.val }

/-- END (11 R353, R365). -/
def execUeEnd (t : Stall) (n : ThreadNo) (f : InsnFields) (nj : Nat) (s : State) : Result :=
  s.insn t n f {} false fun s x => ((s.retire t n x).endSegment t.val n.val nj).endThread t.val n.val

/-! ### Till instructions (11 R367, R368) -/

/-- A group belongs to another pitch than the thread's, and the thread is not of pitch 0. -/
def State.foreign (s : State) (t n g : Nat) : Bool :=
  (s.group g).state != .free && s.pitchOf t n != 0 && (s.group g).pitch != s.pitchOf t n

/-- TAKE: x[d] to x[d + 3] must exist, and d is not 0. -/
def execUeTake (t : Stall) (n : ThreadNo) (f : InsnFields) (nj : Nat) (s : State) : Result :=
  s.insn t n f { d := .x, a := .x } false fun s x =>
    let d := f.d.val
    let g := (x.xr f.a.val).toNat % 65536
    if d = 0 || decide (28 < d) then s.faultThread t.val n.val 1 0
    else if s.foreign t.val n.val g || (s.takers t.val x).any (fun w => w.2.1 != g) then
      s.faultThread t.val n.val 6 0
    else
      let s := (s.retire t n x).yieldTo t.val n.val nj (.take g d)
      if (s.thread t.val n.val).wait == .take g d then s.serveTake t.val n.val else s

/-- TPOLL: a team of one takes an entry if one is queued. What x[d+1] and x[d+3] hold when none is, is not
stated: free values (log 6). -/
def execUeTpoll (t : Stall) (n : ThreadNo) (f : InsnFields) (s : State) : Result :=
  s.insn t n f { d := .x, a := .x } false fun s x =>
    let d := f.d.val
    let g := (x.xr f.a.val).toNat % 65536
    if d = 0 || decide (28 < d) then s.faultThread t.val n.val 1 0
    else if x.teamSize ≠ 1 || s.foreign t.val n.val g then s.faultThread t.val n.val 6 0
    else match s.sinkOf g t.val with
      | [] => ({ s with free := s.free + 2 } : State).retire t n (emptyTake 0 s.free x d)
      | e :: _ => (s.claim t.val x.team g e).retire t n (s.takeResult e x d)

/-- Output that still reads a range (06 R169), or a block move of the thread that does (11 R348). -/
def State.stillRead (s : State) (t n a len : Nat) : Bool :=
  let meets := fun b m => decide (a < b + m) && decide (b < a + len)
  let src := fun (x : Option (Nat × Nat × Nat)) => x.any fun y => meets y.2.1 y.2.2
  s.switch.flights.any (fun e => e.2.stall == t && decide (e.2.granted < e.2.cells) && src e.2.src)
    || s.switch.genWait.any (fun w => w.stall == t && src w.src)
    || s.update.moves.any fun v => v.stall == t && v.thread == n && meets v.src v.bytes

/-- GIVE: the buffer is freed, once the thread's earlier MCAST and BMOV have read it (11 R348); its chunk counts (14
R436). An address in no buffer held does nothing. -/
def execUeGive (t : Stall) (n : ThreadNo) (f : InsnFields) (s : State) : Result :=
  s.insnTry t n f { a := .x } false fun s x =>
    let r := s.retire t n x
    match (r.team t.val x.team).held.find? (r.inHeld (x.xr f.a.val).toNat 1) with
    | none => some r
    | some h => if s.stillRead t.val n.val h.addr (s.heldSize h) then none else some <|
      let s := r.countHeld t.val x.team h
      (s.modTeam t.val x.team fun m => { m with held := m.held.filter fun b => b.addr != h.addr }).freeBuffer h.addr

/-- OUTBUF: a staging buffer of the stall (06 R205). -/
def execUeOutbuf (t : Stall) (n : ThreadNo) (f : InsnFields) (s : State) : Result :=
  s.insn t n f { d := .x, a := .x } false fun s x =>
    let len := (x.xr f.a.val).toNat
    match s.allocFrom t.val len [0, 1, 2, 3, 4] with
    | (s, none) => s.retire t n (x.setX f.d.val 0)
    | (s, some (a, k)) =>
      (s.modTeam t.val x.team fun m => { m with
        held := m.held ++ [{ addr := a, bytes := poolSize k, chunk := none, counted := false }] }).retire t n
          (x.setX f.d.val (BitVec.ofNat 64 a))

/-! ### Output (11 R369, R370) -/

/-- The chunk that x[d] and x[d + 1] name: group, sequence, chunk, offset. -/
def outputName (f : InsnFields) (x : Thread) : Nat × Nat × Nat × Nat :=
  let a := (x.xr f.d.val).toNat
  let b := (x.xr (f.d.val + 1)).toNat
  (a % 65536, bits a 32 32, bits b 0 24, bits b 24 24)

/-- The offset goes on from what the team sent of its open chunk, or opens a chunk with none open. -/
def mcastFits (out : Option OutAcc) (g seq chunk offset : Nat) : Bool :=
  match out with
  | none => offset == 0
  | some o => o.group == g && o.seq == seq && o.chunk == chunk && o.elements == offset && offset != 0

/-- The stall's generated traffic must wait (06 R202). -/
def State.outputWaits (s : State) (t : Nat) : Bool := s.genWaits t || !s.genRoom t

/-- The source of an output or a descriptor lies where it may: the stall's scratchpad or operand store. -/
def inOwnStores (t a n : Nat) : Bool :=
  decide (stallWindow t ≤ a) && decide (a + n ≤ stallWindow t + 0x200000)
    || decide (stallWindow t + 0x200000 ≤ a) && decide (a + n ≤ stallWindow t + 0x300000)

/-- The output frames leave and the accumulator gathers their data. -/
def State.mcast (s : State) (t : Stall) (x : Thread) (g seq chunk offset : Nat) (isLast : Bool) (a : Nat)
    (data : List Byte) : State :=
  let fmt := (s.group g).outFormat
  let old : OutAcc := ((s.team t.val x.team).out).getD { group := g, seq, chunk, elements := 0, data := [] }
  let o := { old with
    elements := old.elements + data.length / unitBytesOf fmt * unitElems fmt, data := old.data ++ data }
  let s := s.modTeam t.val x.team fun m => { m with out := some o }
  s.sendOutputs t.val g (s.outputFrames g 3 seq chunk offset isLast data) (some a) none

/-- MCAST (11 R369). -/
def execUeMcast (t : Stall) (n : ThreadNo) (f : InsnFields) (s : State) : Result :=
  s.insnTry t n f { d := .x, a := .x, b := .x, imm := .below 2 } false fun s x =>
    let (g, seq, chunk, offset) := outputName f x
    let a := (x.xr f.a.val).toNat
    let len := (x.xr f.b.val).toNat
    let grp := s.group g
    let fault := fun code a => some (s.faultThread t.val n.val code a)
    if f.d.val = 31 then fault 1 0
    else if grp.state != .opened || grp.kind != 5 || grp.pitch != s.pitchOf t.val n.val
        || !mcastFits (s.team t.val x.team).out g seq chunk offset then fault 6 0
    else if !(decide (a + len ≤ s.dramUsable) || inOwnStores t.val a len)
        || !s.mayAccess t.val n.val x .read a len then fault 2 a
    else if s.readBad a len then fault 5 a
    else if s.outputWaits t.val then none
    else
      let (s, data) := s.readOpen a len
      let s := s.when (decide (a < s.reserveBase)) fun s => s.countAccess t.val a len false (s.threadAttrs t.val n.val)
      some ((s.mcast t x g seq chunk offset (bit f.imm.toNat 0) a data).retire t n x)

/-- RCPT (11 R370): with the team's residue flag set the receipt is poisoned with cause 1. -/
def execUeRcpt (t : Stall) (n : ThreadNo) (f : InsnFields) (s : State) : Result :=
  s.insnTry t n f { d := .x, b := .x, imm := .only 0xF3 } false fun s x =>
    let (g, seq, chunk, _) := outputName f x
    let grp := s.group g
    let m := s.team t.val x.team
    if f.d.val = 31 then some (s.faultThread t.val n.val 1 0)
    else if !s.groupLive g || grp.kind != 5 || grp.pitch != s.pitchOf t.val n.val then
      some (s.faultThread t.val n.val 6 0)
    else if s.outputWaits t.val then none
    else
      let verdict := if m.residue then 1 else bits f.imm.toNat 0 2
      let cause := if m.residue then 1 else bits f.imm.toNat 4 4
      let s := s.teamReceipt t.val g seq chunk m.out verdict cause ((x.xr f.b.val).toNat % 2048)
      some ((s.modTeam t.val x.team fun m => { m with out := none, residue := false }).retire t n x)

/-- MXI (12 R382): the thread waits while no descriptor slot is free. -/
def execUeMxi (t : Stall) (n : ThreadNo) (f : InsnFields) (s : State) : Result :=
  s.insnTry t n f { a := .x, imm := .below 8 } false fun s x =>
    let a := (x.xr f.a.val).toNat
    let k := f.imm.toNat
    if a % 64 ≠ 0 then some (s.faultThread t.val n.val 3 a)
    else if !inOwnStores t.val a 64 then some (s.faultThread t.val n.val 2 a)
    else match s.freeDescSlot t.val with
      | none => none
      | some slot => some ((s.retire t n (x.addCounter k)).issueDesc t.val n.val slot a k)

/-! ### Host completions for threads (18 R553 to R556) -/

/-- A host request of the thread's load is still outstanding. -/
def State.loadPending (s : State) (t n : Nat) : Bool :=
  s.host.reqs.any fun r => match r.use with
    | .load t' n' _ _ _ _ _ _ => t' == t && n' == n
    | .move _ _ => false

/-- Data of a thread's host load: the instruction completes with its last piece. -/
def State.endLoad (s : State) (t n op ty d imm : Nat) (lanes : List Nat) (data : List Byte) : State :=
  let x := s.thread t n
  match x.state, x.wait with
  | .running, .host _ =>
    let y := x.takeLoad op ty d imm lanes data
    if s.loadPending t n then s.setThread t n y else s.setThread t n { y with wait := .none }.next
  | _, _ => s

/-- A thread's host load ends with a fault. -/
def State.failLoad (s : State) (t n code a : Nat) : State :=
  match (s.thread t n).state, (s.thread t n).wait with
  | .running, .host _ => s.faultThread t n code a
  | _, _ => s

end Sys2Proof.Machine
end

