-- ==== Sys2Proof/Machine/Boot.lean ====
section
/-! DEFINITION. Boot from memory readiness to SERVICE (03 R88; 18 R563, R564), the bundle store, and
attestation (18 R561, R568 to R571). -/

namespace Sys2Proof.Machine

/-! ### Boot (03 R88; 18 R563, R564) -/

/-- MEMORY_READY (03 R88): the boot goes on with the bundles of its source. -/
def execMemoryReady (s : State) : Result :=
  .next (if s.power.boot != .memoryTest then s
    else
      let stage : BootStage := match s.obj Obj.bootSource with
        | 0 => .loading
        | 1 | 2 => .waitList
        | _ => .engines
      let s := s.fixMap
      let s := { s with power := { s.power with boot := stage, bootNext := 0, waitSince := s.tb1Ns } }
      if stage = .engines then s.startGroup 0 else s.bootGoesOn.settleBoot)

/-- What the source of a boot bundle gives; nothing where it cannot be fetched. -/
def State.bootText (s : State) (item : BootItem) (fetched : Option (List Byte)) : Option BundleText :=
  match item with
  | .store e => some (s.storeBundle e)
  | .upload off n => if off < 64 * 2 ^ 20 then some (s.uploadBundle off n) else none
  | .host _ n => if s.hostOpen then fetched.map fun bs => hostBundle bs n else none

/-- Bytes fetched from the host for firmware. -/
def State.countFetch (s : State) (a n : Nat) : State :=
  s.countHost n false { privilege := some 1, pitch := some 0, masters := [(3, 0)], address := some (0x200000000000 + a) }

/-- A boot bundle is loaded, or skipped with an event (18 R564). -/
def State.bootBundle (s : State) (item : BootItem) (fetched : Option (List Byte)) : State :=
  match s.bootText item fetched with
  | none => s.hostError.eventObj 8 moduleBlock Obj.hostErrors
  | some b =>
    let s := match item with
      | .host a n => s.countFetch a n
      | _ => s
    if (s.bundleFault b).isSome then s.verifyFailed
    else match s.placeBundle b with
      | (s, .at _) => s
      | (s, .full _) => s.eventAt 8 moduleBlock Obj.programsLoaded s.update.programs.length

/-- BOOT_BUNDLE_LOADED (18 R563, R564). -/
def execBootBundleLoaded (fetched : Option (List Byte)) (s : State) : Result :=
  .next (if s.power.boot != .loading then s
    else match s.bootItem with
      | none => s.settleBoot
      | some (item, i) =>
        let s := { s with power := { s.power with bootNext := i } }
        (s.bootBundle item fetched).settleBoot)

/-- BOOT_WAIT_EXPIRY (18 R564): boot_wait seconds have passed, and the die boots with no bundles. -/
def execBootWaitExpiry (s : State) : Result :=
  .next (if s.power.boot != .waitList || !s.comesNow (s.power.waitSince + 1000000000 * s.obj Obj.bootWait) then s
    else (({ s with power := { s.power with boot := .engines } } : State).startGroup 0).eventObj 8 moduleBlock Obj.bootWait)

/-- ENGINE_START_DONE (03 R88): the engines start four at a time, in order, each once the tally has admitted its
stages; after the last the module is in service with its first port up (log 59). -/
def execEngineStartDone (group : Fin 4) (s : State) : Result :=
  .next (if s.power.boot != .engines || s.power.enginesStarted != group.val || s.startWaits group.val then s
    else
      let s := s.each (engineGroup group.val) State.startEngine
      let s := { s with power := { s.power with enginesStarted := group.val + 1 } }
      if group.val = 3 then ({ s with power := { s.power with boot := .links } } : State).portsUp
      else s.startGroup (group.val + 1))

/-! ### The bundle store (18 R561) -/

/-- STORE_COMMIT_DONE (18 R561): the entry becomes valid, or is emptied with an event. -/
def execStoreCommitDone (entry : Fin 64) (s : State) : Result :=
  .next (if s.host.committing != some entry.val then s
    else
      let s := { s with host := { s.host with committing := none } }
      let b := s.storeBundle entry.val
      if (s.bundleFault b).isSome then (s.emptyStore entry.val).verifyFailed
      else
        let e : StoreEntry := { state := 1, kind := b.kind, autoload := b.field 56 1 == 1, identity := b.identity
                                bytes := 4096 + b.bodyBytes, svn := b.svn, signer := b.signer }
        { s with host := { s.host with store := Tbl.set s.host.store entry.val e } })

/-! ### Attestation (18 R568 to R570) -/

/-- Objects left out of the configuration digest (18 R570). -/
def digestSkips (index sub : Nat) : Bool :=
  let key := 256 * index + sub
  (decide (0x0A40 ≤ index) && decide (index ≤ 0x0A4A))
    || [Obj.eventTail.key, Obj.ledgerTail.key, Obj.isampleTail.key, Obj.psampleTail.key,
        Obj.capsuleIndex.key].contains key
    || (decide (0x0F00 ≤ index) && decide (index < 0x0F20)) || index == 0x0F21

/-- The object's value enters the digest: RWS, or RW or RWL and no table. -/
def digestTakes (row : ObjRow) : Bool :=
  match row.acc with
  | .rws => true
  | .rw | .rwl => !row.ty.isTable
  | _ => false

/-- Record of an object: index, subindex, value. -/
def State.digestRecord (s : State) (index sub : Nat) (row : ObjRow) : List Byte :=
  leBytes 2 index ++ leBytes 1 sub ++ leBytes row.ty.size (s.value .pf0 row index sub)

/-- The records in catalogue order. -/
def State.digestRecords (s : State) : List Byte :=
  (upTo objectCount).flatMap fun i =>
    match nthObject indexRuns i with
    | some (index, sub, row) =>
      if digestTakes row && !digestSkips index sub then s.digestRecord index sub row else []
    | none => []

/-- The configuration digest (18 R570; the order of its last parts: log 59). -/
def State.configDigest (s : State) : List Byte :=
  Config.sha512 (s.digestRecords
    ++ leBytes 4 (s.bankDigest 0) ++ leBytes 4 (s.bankDigest 1)
    ++ (upTo 4).flatMap (fun n => leBytes 1984 (s.obj (Obj.ownerSigner n)))
    ++ (upTo 5).flatMap (fun n => leBytes 8 (s.obj (Obj.svnFloor n)))
    ++ Config.sha512 (leBytes 32 (s.obj Obj.keyOwner)) ++ Config.sha512 (leBytes 32 (s.obj Obj.keyOperator)))

/-- A bundle entry of a report. -/
def Loaded.word (x : Loaded) : Nat :=
  x.identity % 2 ^ 64 + (x.kind % 256) * 2 ^ 64 + (x.number % 256) * 2 ^ 72 + (x.svn % 65536) * 2 ^ 80
    + (x.signer % 256) * 2 ^ 96

/-- What a loaded program says in a report. -/
def Program.loadedAt (p : Program) (slot : Nat) : Loaded :=
  { kind := 1, number := slot, identity := p.identity, svn := p.svn, signer := p.signer, energy := p.declared }

/-- The bundles of a report: programs, packages, tables. -/
def State.reportEntries (s : State) : List Loaded :=
  (s.update.programs.map (fun e => e.2.loadedAt e.1) ++ s.host.packages.map (·.2)
    ++ s.host.tables.filter (·.applied)).take 96

/-- Bytes of a list cut or filled with zeros to a length. -/
def fitBytes : Nat → List Byte → List Byte
  | 0, _ => []
  | n + 1, [] => 0 :: fitBytes n []
  | n + 1, b :: bs => b :: fitBytes n bs

/-- The first 256 bytes of a report's body (18 R569). -/
def State.reportHead (s : State) : List Byte :=
  leBytes 4 (1 + (s.obj Obj.securityMode % 256) * 2 ^ 8 + s.power.state.code * 2 ^ 16
      + s.reportEntries.length * 2 ^ 24)
    ++ leBytes 4 s.power.strapRaw ++ leBytes 16 (Config.factory Obj.serial.key)
    ++ leBytes 32 s.host.attestNonce ++ fitBytes 64 s.configDigest
    ++ leBytes 48 Config.dieRom.toNat ++ leBytes 48 Config.mgmtRom.toNat
    ++ leBytes 8 s.time.bell ++ leBytes 10 (timeWord 0 s.time.tb0) ++ leBytes 2 hwRevision
    ++ leBytes 4 (Config.factory Obj.romVersion.key) ++ leBytes 16 0

/-- The body of a report (18 R569). -/
def State.reportBody (s : State) : List Byte :=
  fitBytes 1792 (s.reportHead ++ s.reportEntries.flatMap fun x => leBytes 16 x.word)

/-- A report with its signatures. -/
def State.attestation (s : State) : List Byte :=
  let body := s.reportBody
  fitBytes 6144 (body ++ fitBytes 64 (Config.ed25519Sign body) ++ fitBytes 3309 (Config.mldsaSign body))

/-- ATTEST_REPORT_READY (18 R568). -/
def execAttestReportReady (s : State) : Result :=
  .next (if !s.host.attesting then s
    else { s with host := { s.host with attesting := false, attestReady := true, report := s.attestation } })

end Sys2Proof.Machine
end

