-- ==== Sys2Proof/Machine/HostLink.lean ====
section
/-! DEFINITION. The PCIe link, completions of host requests, configuration space (18 R547 to R556), and
checkpoint streams (18 R572 to R574). -/

namespace Sys2Proof.Machine

/-! ### Checkpoint streams (18 R572, R573) -/

/-- The checkpoint of a route that runs: the oldest. -/
def State.activeCheckpoint (s : State) (fabric : Bool) : Option Checkpoint :=
  s.host.checkpoints.find? fun c => c.fabric == fabric

/-- Blocks of 4 KiB of a checkpoint. -/
def Checkpoint.blocks (c : Checkpoint) : Nat := c.length / 4096

/-- Keep a checkpoint's progress. -/
def State.putCheckpoint (s : State) (c : Checkpoint) : State :=
  { s with host := { s.host with checkpoints := s.host.checkpoints.map fun d => if d.token == c.token then c else d } }

/-- A checkpoint leaves the list. -/
def State.dropCheckpoint (s : State) (token : Nat) : State :=
  { s with host := { s.host with checkpoints := s.host.checkpoints.filter fun d => d.token != token } }

/-- A frame of a checkpoint stream (18 R573). -/
def State.checkpointFrame (s : State) (c : Checkpoint) (seq : Nat) (bs : List Byte) (extra : Nat) : Frame :=
  let f := s.newFrame 2 1
  { f.withPayload bs with
    dest := c.target % 2 ^ 20, pitch := c.pitch, flow := c.token % 65536, seq := seq, flags := f.flags ||| extra }

/-- Send one block: its bytes as read now, poison counted by unit to the host and by block to the fabric
(18 R556, R573, R574). -/
def State.sendBlock (s : State) (c : Checkpoint) : State :=
  let a := c.src + 4096 * c.sent
  let bs := s.read a 4096
  let ep := s.badUnits a 4096
  let bad := ep.length
  let s := s.countFirmware a 4096 false
  let s := s.when (bad != 0) fun s => s.bump Obj.ckptPoisoned (if c.fabric then 1 else bad)
  let s := if c.fabric then
      s.send 0 (s.checkpointFrame c c.sent bs (if bad = 0 then 0 else setBit 0 flagPoisoned))
    else s.hostStoreEp (0x200000000000 + c.target + 4096 * c.sent) bs
      { privilege := some 1, pitch := some 0, masters := [(3, 0)] } ep
  let s := s.putCheckpoint { c with sent := c.sent + 1, crc := crc64Run c.crc bs }
  s.setProgress c.token (c.sent + 1)

/-- The next block can be read: class 4 reads of a stack in band 2 or 3 wait (13 R420). -/
def State.blockWaits (s : State) (c : Checkpoint) : Bool := s.bandAt (c.src + 4096 * c.sent) 2

/-- Send up to `n` blocks of the checkpoint of a token, up to one that waits. -/
def State.sendBlocks (s : State) (token : Nat) : Nat → State
  | 0 => s
  | n + 1 =>
    match s.host.checkpoints.find? fun c => c.token == token with
    | some c => if c.sent < c.blocks && !s.blockWaits c then (s.sendBlock c).sendBlocks token n else s
    | none => s

/-- A checkpoint ends failed: no answer from the host (18 R556). -/
def State.failCheckpoint (s : State) (c : Checkpoint) : State :=
  ((s.dropCheckpoint c.token).setResult c.token 0 (4096 * c.sent)).endFailed c.token 13

/-- Data rate of the link at x16 in MB/s, after encoding (18 R547). -/
def linkRate (speed : Nat) : Nat := [0, 4000, 8000, 15750, 31500, 63000, 121000].getD speed 0

/-- The command loads a bundle from the host (17 R540). -/
def TokenRec.hostLoad (r : TokenRec) : Bool :=
  r.status == .busy && r.opcode == 0x07 && bits (argOf r.args 0) 0 2 == 1 && !bit (argOf r.args 0) 2

/-- Weights of the classes that the host interface serves beside a checkpoint now: threads and block moves, table
transfers, rings, and bundles from the host (18 R555). -/
def State.hostWeights (s : State) : Nat :=
  let threads := !s.host.reqs.isEmpty || s.update.moves.any fun v => isHost v.dst
  let rings := match s.ledger.writing with
    | some e => isHost e.addr
    | none => false
  let bundles := (s.power.boot == .loading && s.obj Obj.bootSource == 1) || s.dict.tokens.any TokenRec.hostLoad
  (if threads then 4 else 0) + (if s.dict.reqs.any fun r => r.state == 1 then 2 else 0)
    + b2n rings + b2n bundles

/-- Bytes of a checkpoint that a route carries in one bell: to the host a checkpoint's share of the link, 8 of the
weights present, less the overhead of 512-byte TLPs (18 R547, R555); to the fabric ckpt_fabric_rate (18 R573). -/
def State.bytesPerBell (s : State) (fabric : Bool) : Nat :=
  if fabric then 1000 * s.obj Obj.ckptFabricRate * s.period / 1000
  else linkRate s.host.speed * s.host.width * 512 * 8 * s.period / (16 * 528 * 1000 * (8 + s.hostWeights))

/-- Blocks that the route of a checkpoint can carry by the end of this bell. -/
def State.blocksNow (s : State) (c : Checkpoint) : Nat := (c.carry + s.bytesPerBell c.fabric) / 4096

/-- One bell of a route's stream: what is less than a block is kept for the next. -/
def State.streamRoute (s : State) (fabric : Bool) : State :=
  match s.activeCheckpoint fabric with
  | none => s
  | some c =>
    if !fabric && !s.hostOpen then s.hostError.failCheckpoint c
    else (s.putCheckpoint { c with carry := (c.carry + s.bytesPerBell fabric) % 4096 }).sendBlocks c.token (s.blocksNow c)

/-- The streams of a bell. -/
def State.streamCheckpoints (s : State) : State := (s.streamRoute false).streamRoute true

/-- The last frame of a fabric stream: total bytes and CRC-64 (18 R573). -/
def State.sendTrailer (s : State) (c : Checkpoint) : State :=
  s.send 0 (s.checkpointFrame c c.blocks (leBytes 8 c.length ++ leBytes 8 c.crc) (setBit 0 flagLast))

/-- A stream ends with its last block; one that waits keeps it going. -/
def State.endStream (s : State) (token : Nat) (blocks : Nat) : State :=
  let s := s.sendBlocks token blocks
  match s.host.checkpoints.find? fun c => c.token == token with
  | none => s
  | some c =>
    if c.sent < c.blocks then s else
    let s := if c.fabric then s.sendTrailer c else s
    (((s.dropCheckpoint token).setResult token 0 c.length).setResult token 1 c.crc).endDone token

/-- CHECKPOINT_END (18 R556, R572, R573): the blocks still to send fit the bell's share, or the host fails. -/
def execCheckpointEnd (token : BitVec 64) (hostError : Bool) (s : State) : Result :=
  .next (match s.host.checkpoints.find? fun c => c.token == token.toNat with
    | none => s
    | some c =>
      let active := (s.activeCheckpoint c.fabric).any fun d => d.token == c.token
      if !active then s
      else if !c.fabric && (hostError || !s.hostOpen) then s.hostError.failCheckpoint c
      else if c.blocks ≤ c.sent + s.blocksNow c then s.endStream c.token c.blocks
      else s)

/-! ### Completions (18 R553, R554, R556) -/

/-- Remove a request. -/
def State.dropRequest (s : State) (id : Nat) : State :=
  { s with host := { s.host with reqs := s.host.reqs.filter fun r => r.id != id } }

/-- A thread's other requests are given up. -/
def State.dropLoads (s : State) (t n : Nat) : State :=
  { s with host := { s.host with reqs := s.host.reqs.filter fun r => match r.use with
      | .load t' n' _ _ _ _ _ _ => !(t' == t && n' == n)
      | .move _ _ => true } }

/-- A block move's host data is in, or has failed. -/
def State.moveData (s : State) (id : Nat) (data : Option (List Byte)) : State :=
  { s with update := { s.update with moves := s.update.moves.map fun v =>
      if (v.req == some id) = true then { v with hostData := data, hostError := data.isNone } else v } }

/-- A request ends as a host error: a thread's load faults with a code, a move reports error 18 (18 R556). -/
def State.failRequest (s : State) (r : HostReq) (code : Nat) : State :=
  let s := (s.dropRequest r.id).hostError
  match r.use with
  | .load t n .. => (s.dropLoads t n).failLoad t n code (0x200000000000 + r.addr)
  | .move _ _ => s.moveData r.id none

/-- A request ends with its data. -/
def State.endRequest (s : State) (r : HostReq) (data : List Byte) : State :=
  let s := s.dropRequest r.id
  let bs := fitBytes r.bytes data
  let attrs : Nat → Nat → EventAttrs := fun t n => (s.threadAttrs t n).at (0x200000000000 + r.addr)
  match r.use with
  | .load t n op ty d _ imm lanes => (s.countHost r.bytes false (attrs t n)).endLoad t n op ty d imm lanes bs
  | .move t n => (s.countHost r.bytes false (attrs t n)).moveData r.id (some bs)

/-- An outstanding request. -/
def State.request (s : State) (id : Nat) : Option HostReq := s.host.reqs.find? fun r => r.id == id

/-- The data of the oldest outstanding part of a read arrives: the read ends with its last part (18 R554). -/
def State.readPart (s : State) (r : HostReq) (data : List Byte) : State :=
  let got := r.got ++ fitBytes (min (s.maxReadOf 0) (r.bytes - r.got.length)) data
  if r.bytes ≤ got.length then s.endRequest r got
  else { s with host := { s.host with
      reqs := s.host.reqs.map fun x => if x.id == r.id then { x with got := got, sent := x.sent.drop 1 } else x } }

/-- DMA_COMPLETION (18 R554, R556): of a read with a part outstanding. -/
def execDmaCompletion (req : Nat) (status : CompletionStatus) (data : List Byte) (s : State) : Result :=
  .next (match s.request req with
    | none => s
    | some r =>
      if r.sent.isEmpty then s
      else
        let s := match status with
          | .ok => s.readPart r data
          | .poisoned => s.failRequest r 5
          | .error => s.failRequest r 4
        s.sendReads)

/-- The oldest outstanding part of a read reaches completion_timeout in this bell (18 R554). -/
def State.readOver (s : State) (r : HostReq) : Bool :=
  match r.sent with
  | a :: _ => s.comesNow (a + 1000 * s.obj Obj.completionTimeout)
  | [] => false

/-- COMPLETION_TIMEOUT (18 R554, R556). -/
def execCompletionTimeout (req : Nat) (s : State) : Result :=
  .next (match s.request req with
    | none => s
    | some r => if s.readOver r then (s.failRequest r 4).sendReads else s)

/-! ### The link (18 R548, R549) -/

/-- Every host request in flight ends as its route says (18 R549, R556). -/
def State.endHostRequests (s : State) : State :=
  let s := s.host.reqs.foldl (fun s r => if (s.request r.id).isSome then s.failRequest r 4 else s) s
  let s := s.dict.reqs.foldl (fun s r => if r.state = 1 then s.transferEnd r.who [] true else s) s
  let s := (s.host.checkpoints.filter fun c => !c.fabric).foldl (fun s c => s.hostError.failCheckpoint c) s
  (s.dict.tokens.filter TokenRec.hostLoad).foldl (fun s r => s.hostError.endFailed r.token 13) s

/-- The host interface is reset while the link is down or held (03 R90, 18 R549). -/
def State.hostDown (s : State) (l : PcieState) : State :=
  let s := ({ s with host := { s.host with link := l } } : State).endHostRequests
  { s with host := hostDark s.host l }

/-- PCIE_PERST_ASSERT (18 R549, R576): the rates dropped are advertised again. -/
def execPciePerstAssert (s : State) : Result :=
  .next (if s.host.link == .perst then s
    else
      let s := (s.hostDown .perst).bump Obj.perstEvents
      { s with host := { s.host with dropped := [], eqRun := [] } })

/-- PCIE_LINK_DOWN (18 R549). -/
def execPcieLinkDown (s : State) : Result :=
  .next (if s.host.link == .up || s.host.link == .training then s.hostDown .down else s)

/-- A rate's equalisation fails; twice in a row drops the rate (18 R548). -/
def State.eqFailed (s : State) (r : Nat) : State :=
  if s.host.dropped.contains r then s
  else
    let s := s.bump Obj.eqFailures
    if Tbl.get s.host.eqRun r 0 = 0 then { s with host := { s.host with eqRun := Tbl.set s.host.eqRun r 1 } }
    else { s with host := { s.host with eqRun := Tbl.erase s.host.eqRun r, dropped := s.host.dropped ++ [r] } }

/-- The highest rate that both sides advertise; 0 with none (18 R548). -/
def State.commonRate (s : State) (partnerMax : Nat) : Nat :=
  (((upTo 7).reverse.find? fun r =>
    decide (r ≤ min (s.obj Obj.maxSpeed) partnerMax) && !s.host.dropped.contains r)).getD 0

/-- The widest link that a number of working lanes gives (18 R547, R548). -/
def linkWidth (lanes : Nat) : Nat := ([16, 8, 4, 2, 1].find? fun w => decide (w ≤ lanes)).getD 0

/-- The link comes up at a rate and width; a change of either raises an event (18 R548). -/
def State.linkUp (s : State) (speed width : Nat) : State :=
  let old := s.host
  let s := { s with host := { s.host with
    link := .up, speed := speed, width := width, eqRun := Tbl.erase s.host.eqRun speed } }
  let s := s.when (old.speed != speed) fun s => s.eventAt 10 moduleBlock Obj.linkSpeed speed
  s.when (old.width != width) fun s => s.eventAt 10 moduleBlock Obj.linkWidth width

/-- PCIE_LINK_TRAINING (18 R548): from P + 1 ms on (03 R88). -/
def execPcieLinkTraining (partnerMax : Fin 7) (eqFailed : List (Fin 7)) (lanes : Fin 17) (s : State) : Result :=
  .next (if !s.dieRunning then s
    else
      let tried := eqFailed.filter fun r => decide (r.val ≤ min (s.obj Obj.maxSpeed) partnerMax.val)
      let s := tried.foldl (fun s r => s.eqFailed r.val) s
      let speed := s.commonRate partnerMax.val
      let width := linkWidth lanes.val
      if speed = 0 || width = 0 then (if s.host.link == .up then s.hostDown .training
        else { s with host := { s.host with link := .training } })
      else s.linkUp speed width)

/-! ### Configuration space (18 R550, R553) -/

/-- PCIE_CONFIG_WRITE: a boot that waits for PF0's Bus Master Enable goes on (18 R563). -/
def execPcieConfigWrite (field : PcieConfig) (s : State) : Result :=
  .next (if s.host.link != .up then s
    else match field with
      | .busMaster fn on =>
        let others := s.host.busMaster.filter fun f => f != fn.val
        let fns := if on then fn.val :: others else others
        ({ s with host := { s.host with busMaster := fns } } : State).bootGoesOn
      | .numVfs n => { s with host := { s.host with numVfs := n.val } }
      | .maxRead fn code => { s with host := { s.host with maxRead := Tbl.set s.host.maxRead fn.val (128 * 2 ^ code.val) } }
      | .bar which addr => { s with host := { s.host with bars := Tbl.set s.host.bars which.val addr.toNat } }
      | .msix fn vector entry => { s with host := { s.host with
          msix := Tbl.set s.host.msix (4 * fn.val + vector.val) entry.toNat } })

/-- Bus address of a byte of a function's BAR0 or BAR2: VF v's lie at the VF base plus v − 1 strides of 128 MiB or
64 KiB (18 R550). -/
def State.barAddress (s : State) (fn : Fin 65) (bar2 : Bool) (off : Nat) : Option Nat :=
  (Tbl.find s.host.bars ((if fn.val = 0 then 0 else 2) + b2n bar2)).map fun base =>
    base + (fn.val - 1) * (if bar2 then 2 ^ 16 else 2 ^ 27) + off

end Sys2Proof.Machine
end

