-- ==== Sys2Proof/Machine/Memory.lean ====
section
/-! DEFINITION. The stacked memory's own events (13 R404, R411 to R421): scrub, row repair, map-outs, stack
temperatures, and staging backlog. Rows and units are numbered within their channel: unit u lies in row
u / 16 and in granule u / 64. -/

namespace Sys2Proof.Machine

/-! ### Addresses of a channel's units (13 R406, R407) -/

/-- Position of a channel in the interleave. -/
def State.posOfChan (s : State) (c : Nat) : Option Nat := s.mem.map.order.findIdx? (· == c)

/-- Granules of a channel in the interleave. -/
def State.interleavedNow (s : State) : Nat := interleaved s.mem.map.n s.mem.map.r

/-- The channel whose granules a reserve slot holds. -/
def State.slotOwner (s : State) (k : Nat) : Option Nat :=
  (s.mem.chans.find? fun e => e.2.slot == some k).map (·.1)

/-- Granule `i` of channel `d` as a device address. -/
def State.granuleAddr (s : State) (d i : Nat) : Option Nat :=
  (s.posOfChan d).map fun p => (i * s.mem.map.n + p) * 4096

/-- The device address of a unit of a channel, where it holds one. -/
def State.unitAddr (s : State) (c u : Nat) : Option Nat :=
  let top := s.interleavedNow
  let size := slotGranules s.mem.map.n
  let i := u / 64
  let g := if i < top then s.granuleAddr c i
    else match s.slotOwner ((i - top) / size) with
      | some d =>
        let ms := s.spreadOf d
        match ms.findIdx? (· == c) with
        | some q =>
          let j := (i - top) % size * ms.length + q
          if j < top then s.granuleAddr d j else none
        | none => none
      | none => none
  match g with
  | some a => if s.channelOf a == some c then some (a + u % 64 * 64) else none
  | none => none

/-- A read of a unit of a channel cannot be corrected: counted, with at most one capsule entry per channel and bell,
which is pinned (13 R404, R414; 03 R94). -/
def State.uncorrectable (s : State) (c : Nat) (a : Option Nat) : State :=
  let s := (s.bump (Obj.eccUncorrectable c)).count (blockChannel c) 0x204 1 { address := a }
  let told := s.power.capsule.any fun e =>
    e.cls == 6 && e.pinned && e.block == c && e.bell == s.bellNow % 2 ^ 32
  s.when (!told) fun s => s.capsule 6 true c

/-! ### Map-outs (13 R414 to R417) -/

/-- A reserve slot that no channel has taken. -/
def State.freeReserve (s : State) : Option Nat :=
  (upTo s.mem.map.r).find? fun k => (s.slotOwner k).isNone

/-- A map-out entry of the fault capsule (13 R414). -/
def State.mapCapsule (s : State) (c : Nat) : State := s.capsule 6 false c

/-- An automatic map-out is triggered: X is the next boundary (13 R414, R415). -/
def State.autoMapOut (s : State) (c : Nat) : State :=
  if (s.chan c).state != .inService then s
  else s.modChan c fun x => { x with state := .waiting, mapAt := some (s.time.bell + 1), token := none }

/-- A channel joins those to be mapped out. -/
def State.queueMap (s : State) (c : Nat) (token : Option Nat) : State :=
  let s := s.modChan c fun x => { x with state := .waiting, mapAt := none, token := token }
  { s with mem := { s.mem with mapOuts := s.mem.mapOuts ++ [c] } }

/-- A channel whose boundary X has come joins those to be mapped out; a command whose channel is no longer
in service fails (17 R535). -/
def State.mapDue (s : State) (c : Nat) : State :=
  let x := s.chan c
  let auto := match x.mapAt with
    | some b => decide (b ≤ s.time.bell) && !s.mem.mapOuts.contains c
    | none => false
  let s := if auto then s.queueMap c none else s
  (s.dueOn 0x0D 0 7 c).foldl (fun s token =>
    let s := s.markActed token
    if (s.chan c).state == .inService then s.queueMap c (some token) else s.endFailed token 8) s

/-- Ranges of a pair that hold state at addresses of a list. -/
def Pair.rangesAt (p : Pair) (as : List Nat) : List Nat :=
  (as.flatMap fun a => [p.bankAt 0, p.bankAt 1].filterMap fun b =>
    if b ≤ a ∧ a < b + p.bankBytes then some ((a - b) / 2 ^ 20) else none).eraseDups

/-- Units lost from a pair that is alone: custody of their ranges is lost, the pair degraded (14 R453, R454). The
ranges of other pairs are unreadable, and resynchronised at their next comparison (14 R440). -/
def State.losePairs (s : State) (rs : Pair → List Nat) : State :=
  s.custody.pairs.foldl (fun s e =>
    let p := s.pair e.1
    let lost := rs p
    if p.state != .alone || lost.isEmpty then s
    else
      let s := s.setPair e.1 { p with lostRanges := p.lostRanges ++ lost.filter fun r => !p.lostRanges.contains r }
      let s := ((s.capsule 7 false moduleBlock).bump Obj.custodyLostEvents).eventObj 7 moduleBlock Obj.custodyLostEvents
      s.degrade e.1) s

/-- Bytes lost: counted, each unit an event; repeats within the bell are merged (13 R416, 17 R530). -/
def State.loseUnits (s : State) (c n : Nat) : State :=
  if n = 0 then s
  else
    let s := (s.bump Obj.lostBytes (64 * n)).eventObj 6 c Obj.lostBytes
    s.when (bit (s.obj Obj.eventMask) 6) fun s => s.bump Obj.eventMerged (n - 1)

/-- Group records lie in the firmware reserve, 64 bytes each (09 R264; log 35). -/
def State.groupRecordAt (s : State) (g : Nat) : Nat := s.reserveFree + 1153 * 2 ^ 20 + 64 * g

/-- Buffer pools with a granule in a hole are fenced. -/
def State.fenceHoledPools (s : State) : State :=
  ((upTo 64).flatMap fun t => (upTo 9).map fun k => (t, k)).foldl (fun s e =>
    if (granulesOf (s.poolBase e.1 e.2) (s.poolCount e.1 e.2 * poolSize e.2)).any s.inHole then s.fencePool e.1 e.2
    else s) s

/-- Contexts and groups whose record lies in a hole end. -/
def State.endHoledGroups (s : State) : State :=
  let inRecord := fun g => s.inHole (s.groupRecordAt g)
  let ctxs := s.coll.ctxs.map fun (c : Ctx) => if c.live && inRecord c.group then c.poison 3 else c
  let groups := Tbl.mapVals s.coll.groups fun g (x : GroupSt) =>
    if x.state == .opened && inRecord g then { x with state := .closing } else x
  { s with coll := { s.coll with ctxs := ctxs, groups := groups } }

/-- Program images in a hole are reloaded where the bundle store holds them. -/
def State.reloadHoled (s : State) : State :=
  let stored := fun (p : Program) => s.host.store.any fun e => e.2.state == 1 && e.2.identity == p.identity
  { s with update := { s.update with
      programs := Tbl.mapVals s.update.programs fun _ p =>
        if (granulesOf p.base p.bytes).any s.inHole && stored p then { p with reloaded := true } else p } }

/-- Holes in the firmware reserve: pools with a buffer in one are fenced, contexts and groups whose record
lies in one end, program images are reloaded where the bundle store holds them (13 R417). -/
def State.holesInReserve (s : State) : State := s.fenceHoledPools.endHoledGroups.reloadHoled

/-- A channel takes a reserve slot and its copy begins; recoveries that copy state start again (14 R456). -/
def State.copyChannel (s : State) (c k : Nat) : State :=
  ((s.modChan c fun x => { x with state := .copying, slot := some k }).mapCapsule c).restartRecoveries

/-- A map-out starts: a slot taken and the copy begun, or every granule a hole. A command that finds no slot
at its turn fails (17 R535). -/
def State.startMapOut (s : State) (c : Nat) : State :=
  let x := s.chan c
  let undo := fun (s : State) => { s with mem := { s.mem with mapOuts := s.mem.mapOuts.filter (· != c) } }
  match s.freeReserve, x.token with
  | some k, some token => (s.copyChannel c k).setResult token 0 k
  | some k, none => s.copyChannel c k
  | none, some token =>
    ((undo s).setChan c { x with state := .inService, token := none }).endFailed token 8
  | none, none =>
    let s := ((s.setChan c { x with state := .holes }).mapCapsule c).restartRecoveries
    ((s.losePairs fun p => upTo p.ranges).holesInReserve).holdAlert .holes

/-- Map-outs run one at a time, in the order they were triggered. -/
def State.startMaps (s : State) : Nat → State
  | 0 => s
  | fuel + 1 =>
    if s.mem.chans.any fun e => e.2.state == .copying then s
    else match s.mem.mapOuts.find? fun c => (s.chan c).state == .waiting with
      | some c => (s.startMapOut c).startMaps fuel
      | none => s

/-- MAP_OUT_START (13 R416). -/
def execMapOutStart (c : Chan) (s : State) : Result := .next ((s.mapDue c.val).startMaps 128)

/-- Addresses of the granules that earlier map-outs placed on a channel. -/
def State.placedOn (s : State) (c : Nat) : List Nat :=
  s.mem.chans.flatMap fun e =>
    if e.2.state != .mappedOut || e.2.slot.isNone then []
    else
      let ms := s.spreadOf e.1
      match ms.findIdx? (· == c) with
      | none => []
      | some q => ((upTo (ceilDiv (s.interleavedNow - q) ms.length)).map fun k => k * ms.length + q).filterMap
          (s.granuleAddr e.1)

/-- The copy's accesses: reads of the channel, if it answers, and writes to the channels that take its granules. -/
def State.countCopy (s : State) (c : Nat) : State :=
  let e : EventAttrs := { privilege := some 1, pitch := some 0 }
  let ms := s.spreadOf c
  let s := if (s.chan c).answering then s.countChannel c (64 * s.interleavedNow) false e else s
  (upTo ms.length).foldl (fun s q =>
    s.countChannel (ms.getD q 0) (64 * ceilDiv (s.interleavedNow - q) ms.length) true e) s

/-- The copy of a channel ends: units that could not be corrected are poisoned at their targets, every unit
if it did not answer, and granules placed on it before are lost (13 R416). -/
def State.endCopy (s : State) (c : Nat) (bad : List Nat) : State :=
  let x := s.chan c
  let placed := s.placedOn c
  let all := s.interleavedNow * 64
  let known := s.mem.poison.filter fun u => s.channelOf (64 * u) == some c
  let units := (known ++ (bad.filterMap (s.unitAddr c)).map (· / 64)).eraseDups
  let n := (if x.answering then units.length else all) + 64 * placed.length
  let s := s.countCopy c
  let s := if x.answering then bad.foldl (fun s u => s.uncorrectable c (s.unitAddr c u)) s else s
  let s := s.losePairs fun p =>
    if x.answering then p.rangesAt (units.map (64 * ·) ++ placed) else upTo p.ranges
  let s := if x.answering then units.foldl (fun s u => s.poisonUnit (64 * u)) s
    else { s with mem := { s.mem with dead := Tbl.set s.mem.dead c [] } }
  let s := (s.loseUnits c n).modChan c fun x => { x with copyEnded := some s.time.rung }
  match x.token with
  | some k => (s.setResult k 1 (64 * n)).setProgress k s.interleavedNow
  | none => s

/-- MAP_OUT_COPY_END (13 R416). -/
def execMapOutCopyEnd (c : Chan) (bad : List Nat) (s : State) : Result :=
  .next (if (s.chan c.val).state == .copying && (s.chan c.val).copyEnded.isNone then s.endCopy c.val bad else s)

/-- A channel whose copy has ended is mapped out at a boundary. -/
def State.mappedOut (s : State) (c : Nat) : State :=
  let x := s.chan c
  if x.state == .copying && x.copyEnded.any (· < s.time.rung) then
    let s := s.setChan c { x with state := .mappedOut, copyEnded := none, token := none }
    match x.token with
    | some k => s.endDone k
    | none => s
  else s

/-- CHANNEL_MAPPED_OUT (13 R416). -/
def execChannelMappedOut (c : Chan) (s : State) : Result := .next (s.mappedOut c.val)

/-- The map-outs at a boundary: copies that ended, channels whose X has come, the next one's start. -/
def State.mapOutsDue (s : State) : State :=
  ((s.each (upTo 128) State.mappedOut).each (upTo 128) State.mapDue).startMaps 128

/-- CHANNEL_NO_ANSWER (13 R414). -/
def execChannelNoAnswer (c : Chan) (s : State) : Result :=
  .next (if (s.chan c.val).state == .mappedOut then s
    else (s.modChan c.val fun x => { x with answering := false }).autoMapOut c.val)

/-- Why MAP_OUT_CHANNEL is refused (13 R415, 17 R541). -/
def State.mapOutCase (s : State) (args : Tbl Nat) : Refused :=
  let w := argOf args 0
  if !onlyBits w (maskBits 6 0) || !onlyArgs args [0] then some (2, 0)
  else plainCase [(s.freeReserve.isNone, 9), ((s.chan w).state != .inService, 8)]

/-! ### Errors, scrub and row repair (13 R411 to R413) -/

/-- A row needs repair: a row in a spare, or with no spare left, takes the channel out instead. -/
def State.needRepair (s : State) (c row : Nat) : State :=
  let x := s.chan c
  if x.spares.any (fun e => e.1 == row) || decide (256 ≤ x.spares.length) then s.autoMapOut c
  else if x.repairs.any (fun e => e.1 == row) then s
  else s.setChan c { x with repairs := x.repairs ++ [(row, s.time.rung)] }

/-- The table with the entry of lowest count replaced. -/
def replaceLowest (rows : List RowCount) (e : RowCount) : List RowCount :=
  let low := rows.foldl (fun n r => min n r.count) ((rows.headD e).count)
  removeFirst (fun r => r.count == low) rows ++ [e]

/-- A corrected error is entered in the channel's table of 64 rows. -/
def rowsAfter (rows : List RowCount) (row now : Nat) : List RowCount :=
  if rows.any fun r => r.row == row then
    rows.map fun r => if r.row == row then { r with count := r.count + 1 } else r
  else if rows.length < 64 then rows ++ [{ row, count := 1, since := now }]
  else replaceLowest rows { row, count := 1, since := now }

/-- A unit is corrected on a read, and written back corrected (13 R411, R412). -/
def State.correctedRead (s : State) (c u : Nat) : State :=
  let s := s.countChannel c 1 true { privilege := some 1, pitch := some 0, address := s.unitAddr c u }
  let s := (s.bump (Obj.eccCorrected c)).count (blockChannel c) 0x203 1 { address := s.unitAddr c u }
  let s := s.modChan c fun x => { x with rows := rowsAfter x.rows (u / 16) s.tb1Ns }
  if (s.chan c).rows.any (fun r => r.row == u / 16 && decide (s.obj Obj.repairThreshold ≤ r.count)) then
    s.needRepair c (u / 16)
  else s

/-- An uncorrectable read of a scrub: the unit is poisoned, and its row needs repair (13 R412). -/
def State.badRead (s : State) (c u : Nat) : State :=
  let s := match s.unitAddr c u with
    | some a => s.poisonUnit a
    | none => s
  (s.uncorrectable c (s.unitAddr c u)).needRepair c (u / 16)

/-- Units of a channel: 2.5 GB of 64 bytes (13 R402). -/
def channelUnits : Nat := 39062500

/-- SCRUB_PASS (13 R411, R412): one pass over a channel, with the units that were corrected and those that
could not be. -/
def execScrubPass (c : Chan) (corrected : List Nat) (bad : List Nat) (s : State) : Result :=
  .next (if s.obj Obj.scrubPeriod = 0 || (s.chan c.val).state == .mappedOut || !(s.chan c.val).answering then s
    else
      let s := s.countChannel c.val channelUnits false { privilege := some 1, pitch := some 0 }
      let s := corrected.foldl (fun s u => s.correctedRead c.val u) s
      (bad.foldl (fun s u => s.badRead c.val u) s).putObj (Obj.scrubLastBell c.val) s.time.bell)

/-- A row is repaired: remapped to the next free spare and written there, units that cannot be corrected
poisoned, and logged (13 R413). -/
def State.repairRow (s : State) (c row : Nat) (bad : List Nat) : State :=
  let spare := (s.chan c).spares.length
  let e : EventAttrs := { privilege := some 1, pitch := some 0, address := s.unitAddr c (16 * row) }
  let s := (s.countChannel c 16 false e).countChannel c 16 true e
  let s := bad.foldl (fun s i =>
    let a := s.unitAddr c (16 * row + i)
    (match a with
      | some a => s.poisonUnit a
      | none => s).uncorrectable c a) s
  let s := s.modChan c fun x => { x with
    repairs := x.repairs.filter (·.1 != row), rows := x.rows.filter fun r => r.row != row
    spares := x.spares ++ [(row, spare)] }
  let w := c + (row % 2 ^ 25) * 2 ^ 7 + spare * 2 ^ 32
  ({ s with mem := { s.mem with repairLog := s.mem.repairLog ++ [w] } } : State).capsule 6 false c

/-- ROW_REPAIR (13 R413): a repair that a read has required, at a boundary after that read. -/
def execRowRepair (c : Chan) (row : Nat) (bad : List (Fin 16)) (s : State) : Result :=
  let x := s.chan c.val
  .next (if (x.repairs.any fun e => e.1 == row && decide (e.2 < s.time.rung)) && x.state != .mappedOut then
      if 256 ≤ x.spares.length then
        (s.setChan c.val { x with repairs := x.repairs.filter (·.1 != row) }).autoMapOut c.val
      else s.repairRow c.val row (bad.map (·.val))
    else s)

/-- CORRECTED_ERROR_ENTRY_DROP (13 R412): entries older than 24 h are dropped. -/
def execCorrectedErrorEntryDrop (c : Chan) (row : Nat) (s : State) : Result :=
  .next (s.modChan c.val fun x => { x with rows := x.rows.filter fun r =>
    !(r.row == row && decide (r.since + 86400 * 10 ^ 9 < s.tb1Ns)) })

/-! ### Temperature and backlog (13 R420, R421) -/

/-- Lower edge of a stack thermal band, m°C. -/
def bandEdge (b : Nat) : Int := if b = 0 then -1000000000 else Int.ofNat (75000 + 10000 * b)

/-- Band after a reading: upward at an edge, downward 3 °C below one. -/
def bandAfter (band : Nat) (milliC : Int) : Nat :=
  let holds := fun b => if b ≤ band then decide (bandEdge b - 3000 < milliC) else decide (bandEdge b ≤ milliC)
  if holds 3 then 3 else if holds 2 then 2 else if holds 1 then 1 else 0

/-- STACK_TEMP_READING (13 R420). -/
def execStackTempReading (q : Fin 4) (milliC : Int) (atMs : Nat) (s : State) : Result :=
  .next (if !s.dieRunning then s
    else
      let old := s.obj (Obj.thermalBand q.val)
      let new := bandAfter old milliC
      let s := s.putInt (Obj.stackTemp q.val) milliC
      let s := s.putInt (Obj.stackTempMax q.val) (max (s.objI (Obj.stackTempMax q.val)) milliC)
      let s := s.putObj (Obj.thermalBand q.val) new
      let s := s.when (new != old) fun s => s.bump (Obj.bandChanges q.val)
      if 115000 ≤ milliC then s.latchFault 2 0 atMs 3 q.val else s)

/-- STAGING_BACKLOG_SAMPLE (13 R421). -/
def execStagingBacklogSample (t : Stall) (bytes : Nat) (s : State) : Result :=
  let s := s.putObj (Obj.stagingBacklog t.val) (bytes % 2 ^ 32)
  let others := s.mem.saturated.filter (· != t.val)
  .next { s with mem := { s.mem with
      saturated := if s.obj Obj.spillSatOn ≤ bytes then others ++ [t.val]
        else if bytes ≤ s.obj Obj.spillSatOff then others else s.mem.saturated } }

end Sys2Proof.Machine
end

