-- ==== Sys2Proof/Machine/Stalls.lean ====
section
/-! DEFINITION. Stalls in and out of compute (01 R24; 14 R457 to R461): sublets, fences, temperature bands,
and test packages. -/

namespace Sys2Proof.Machine

/-! ### The home map (01 R23, R24; 14 R458) -/

/-- Neighbour of a stall for its work. -/
def StallSt.near (x : StallSt) (t : Nat) : Nat := x.neighbour.getD (t ^^^ 1)

/-- The stall that takes the work of one out of compute: its neighbour, or that one's, and so on; else the
lowest stall in compute. -/
def State.workTarget (s : State) (t : Nat) : Nat → Nat
  | 0 => ((upTo 64).find? fun k => !(s.stall k).out).getD t
  | fuel + 1 =>
    let n := (s.stall t).near t
    if (s.stall n).out then s.workTarget n fuel else n

/-- A change of the home map raises an event of class 12; its arg is entries 0 to 7 (01 R24). -/
def State.homeEvent (s : State) : State :=
  s.eventAt 12 moduleBlock Obj.homeMap (leNat ((upTo 8).map fun i => BitVec.ofNat 8 (s.homeEntry i)))

/-- Entries that name a stall name another. -/
def State.moveHomes (s : State) (t target : Nat) : State :=
  let home := (upTo 64).foldl (fun m i =>
    if s.homeEntry i = t then (if i = target then Tbl.erase m i else Tbl.set m i target) else m) s.custody.home
  ({ s with custody := { s.custody with home := home } } : State).homeEvent

/-- A stall's compute is taken: home entries name its neighbour and its threads park. -/
def State.takeOut (s : State) (t : Nat) (c : ComputeState) (near : Option Nat) : State :=
  let x := s.stall t
  let s := s.setStall t { x with compute := c, neighbour := near, out := true }
  if x.out then s else (s.moveHomes t (s.workTarget t 64)).parkStall t

/-- A stall returns: its own entry is the identity again and its threads re-enter. -/
def State.giveBackStall (s : State) (t : Nat) (c : ComputeState) : State :=
  let x := s.stall t
  let s := s.setStall t { x with compute := c, out := false }
  if !x.out then s
  else
    (({ s with custody := { s.custody with home := Tbl.erase s.custody.home t } } : State).homeEvent).unparkStall t

/-! ### Counting stalls out of compute (14 R458) -/

/-- SUBLET and FENCE_STALL as they stand in a token record: the stall, and whether it is taken out. -/
def takesOut (opcode : Nat) (args : Tbl Nat) : Bool :=
  let w := argOf args 0
  if opcode = 10 then !bit w 8 else opcode == 9 && bits w 8 2 != 1

/-- Out of compute for the limits: out now, a band armed, a take-out scheduled, or under a RUN_TEST. -/
def State.countedOut (s : State) (t : Nat) : Bool :=
  let x := s.stall t
  x.out || x.band.isSome || x.test.isSome
    || s.dict.tokens.any fun r => r.status == .busy && !r.acted && (r.opcode == 9 || r.opcode == 10)
      && takesOut r.opcode r.args && bits (argOf r.args 0) 0 6 == t

/-- The neighbour that a command names; t xor 1 by default. -/
def nearOf (w : Nat) : Option Nat := if bit w 22 then some (bits w 16 6) else none

/-- Cases shared by the commands that take a stall out. -/
def State.takeOutCases (s : State) (w : Nat) : List (Bool × Nat) :=
  let t := bits w 0 6
  let n := ((upTo 64).filter s.countedOut).length
  [(decide (32 < n + (if s.countedOut t then 0 else 1)), 8), (s.countedOut ((nearOf w).getD (t ^^^ 1)), 8)]

/-- A command names the stall itself as neighbour. -/
def selfNear (w : Nat) : Bool := nearOf w == some (bits w 0 6)

/-- A test waits or runs on the stall. -/
def State.underTest (s : State) (t : Nat) : Bool := (s.stall t).test.isSome

/-- Why SUBLET is refused. -/
def State.subletCase (s : State) (args : Tbl Nat) : Refused :=
  let w := argOf args 0
  if !onlyBits w (maskBits 5 0 + maskBits 8 8 + maskBits 22 16) || !onlyArgs args [0] then some (2, 0)
  else if bit w 8 then (if s.underTest (bits w 0 6) then some (8, 0) else none)
  else if selfNear w then some (2, 0)
  else firstCase (s.takeOutCases w)

/-- Limits of a band in °C: a, b. -/
def bandOf (args : Tbl Nat) : Int × Int := (toSigned 16 (bits (argOf args 1) 0 16), toSigned 16 (bits (argOf args 1) 16 16))

/-- Why FENCE_STALL is refused. -/
def State.fenceCase (s : State) (args : Tbl Nat) : Refused :=
  let w := argOf args 0
  let mode := bits w 8 2
  if !onlyBits w (maskBits 5 0 + maskBits 9 8 + maskBits 22 16) || !onlyArgs args (if mode = 2 then [0, 1] else [0])
      || !onlyBits (argOf args 1) (maskBits 31 0) || mode == 3 then some (2, 0)
  else if mode = 1 then (if s.underTest (bits w 0 6) then some (8, 0) else none)
  else if selfNear w || (mode == 2 && decide ((bandOf args).2 < (bandOf args).1)) then some (2, 0)
  else firstCase (s.takeOutCases w)

/-! ### Effect of the commands (14 R458, R459) -/

/-- A stall is restored whatever took it out, and a band disarmed. -/
def State.restoreStall (s : State) (t : Nat) : State :=
  (s.modStall t fun x => { x with band := none, due := x.due.filter fun d => d.2.1 < 3 }).giveBackStall t .inCompute

/-- SUBLET or FENCE_STALL acts. -/
def State.stallCommand (s : State) (opcode : Nat) (args : Tbl Nat) : State :=
  let w := argOf args 0
  let t := bits w 0 6
  let x := s.stall t
  let state := fun (c : ComputeState) => if x.test.isSome then x.compute else c
  if !takesOut opcode args then s.restoreStall t
  else if opcode = 10 then s.takeOut t (state .sublet) (nearOf w)
  else if bits w 8 2 = 0 then s.takeOut t (state .fenced) (nearOf w)
  else
    s.setStall t { x with
      band := some (bandOf args), neighbour := nearOf w, compute := if x.out then x.compute else state .bandArmed }

/-- The due commands of a list of tokens act. -/
def State.stallTokens (s : State) (ks : List Nat) : State :=
  ks.foldl (fun s k => match s.tokenRec k with
    | some r => ((s.markActed k).stallCommand r.opcode r.args).endDone k
    | none => s) s

/-- Due commands about a stall that take it out, or that restore it. -/
def State.stallDue (s : State) (t : Nat) (out : Bool) : List Nat :=
  (s.dueTokens [9, 10]).filter fun k => match s.tokenRec k with
    | some r => bits (argOf r.args 0) 0 6 == t && takesOut r.opcode r.args == out
    | none => false

/-! ### Tests (14 R457; 15 R479) -/

/-- A stall is quiet at a boundary. -/
def State.quiet (s : State) (t : Nat) : Bool :=
  !(s.coll.ctxs.any fun c => c.home == t)
    && !(s.coll.sinks.any fun e => e.1 % 64 == t && !e.2.isEmpty)
    && !(s.update.teams.any fun e => e.1 / 256 == t && (e.2.out.isSome || e.2.held.any fun h => h.chunk.isSome))
    && (s.array t).descs.isEmpty

/-- What is scheduled for a stall: by its test, 0 sublet, 1 return, 2 stay fenced; by a temperature reading,
3 enter the fenced band, 4 leave it. -/
def State.testDue (s : State) (t : Nat) : State :=
  let x := s.stall t
  match x.due with
  | some (rung, what, _) =>
    if s.time.rung < rung then s
    else
      let s := s.setStall t { x with due := none }
      match what with
      | 0 => (s.takeOut t .testWaiting x.neighbour)
      | 1 => ((s.modStall t fun x => { x with test := none }).giveBackStall t .inCompute)
      | 3 => if x.compute == .bandArmed then (s.takeOut t .inBand x.neighbour).bump (Obj.bandEntries t) else s
      | 4 => if x.compute == .inBand then s.giveBackStall t .bandArmed else s
      | _ => s.setStall t { s.stall t with test := none, compute := .fenced }
  | none => s

/-- The package's declared start step, mW (18 R557). -/
def State.packageStep (s : State) (k : Nat) : Nat := match Tbl.find s.host.packages k with
  | some p => p.energy
  | none => 0

/-- The background grant and the opening tally let a package start (15 R468, R473, R476). -/
def State.packageMay (s : State) (mw : Nat) : Bool := !s.limited && decide (mw ≤ s.obj (Obj.lineBudget 6))

/-- The test starts at Q, in step 2 of R33, when the background grant and the tally admit its declared step:
the stall is sublet if it is not, and held at a temperature if one is named. -/
def State.startTest (s : State) (t : Nat) : State :=
  let x := s.stall t
  match x.test with
  | some y =>
    if x.compute != .testWaiting || s.time.rung ≤ y.since || x.due.isSome || (y.drain && !x.out) || !s.quiet t || !s.packageMay (s.packageStep y.package) then s
    else
      let (s, admitted) := s.askTally (.package t) (s.packageStep y.package)
      if !admitted then s
      else
        let s := s.modStall t fun x => { x with test := some { y with heldFrom := s.tb1Ns } }
        let s := (s.takeOut t .testing x.neighbour).markActed y.token
        match y.hold with
        | some h => (s.putInt (Obj.holdTarget t) (10 * h)).putObj (Obj.holdStatus t) 1
        | none => s
  | none => s

/-- TEST_QUIET_START (14 R457). -/
def execTestQuietStart (t : Stall) (s : State) : Result := .next (s.startTest t.val)

/-- The result of a test. -/
def State.putTest (s : State) (t w : Nat) : State :=
  let s := (s.putObj (Obj.testResult t) w).putObj (Obj.testBell t) s.time.bell
  match (s.stall t).test with
  | some y => s.setResult y.token 0 w
  | none => s

/-- A passed RUN_TEST lifts the fences of the stall's array (12 R397). -/
def State.clearFences (s : State) (t : Nat) : State :=
  s.modArray t fun a => { a with fenced := 0, stuck := 0, lifting := 0, testing := 0
                                 test := if a.test == .none then .none else .passed }

/-- TEST_END (14 R457): the stall returns at the next boundary, or stays fenced. A test whose stall still
settles at its hold temperature has not begun (15 R479). -/
def execTestEnd (t : Stall) (pass : Bool) (code : Byte) (centiC : BitVec 16) (s : State) : Result :=
  let x := s.stall t.val
  .next (match x.test with
    | some y =>
      if x.compute != .testing || x.due.isSome || s.obj (Obj.holdStatus t.val) = 1 then s
      else
        let s := (s.bump Obj.testsRun).putTest t.val
          (if pass then 1 else 2 + code.toNat * 2 ^ 8 + centiC.toNat * 2 ^ 16)
        let s := (s.putInt (Obj.holdTarget t.val) 0).putObj (Obj.holdStatus t.val) 0
        let s := s.modStall t.val fun x => { x with due := some (s.time.rung + 1, if pass then 1 else 2, y.token) }
        if pass then (s.clearFences t.val).endDone y.token
        else (s.bump Obj.testsFailed).endFailed y.token 17
    | none => s)

/-- A waiting test is given up: a stall that drains returns at the next boundary. -/
def State.dropTest (s : State) (t : Nat) : State :=
  let x := s.stall t
  if x.out then s.setStall t { x with due := some (s.time.rung + 1, 1, 0) }
  else s.setStall t { x with due := none, test := none, compute := .inCompute }

/-- TEST_WAIT_EXPIRY (14 R457): no quiet boundary came within the wait limit. -/
def execTestWaitExpiry (t : Stall) (s : State) : Result :=
  let x := s.stall t.val
  .next (match x.test with
    | some y =>
      if x.compute != .testWaiting || x.due.any (fun d => d.2.1 == 1) || s.time.rung < y.since + y.waitLimit then s
      else ((s.putTest t.val 3).dropTest t.val).endFailed y.token 16
    | none => s)

/-- The hold temperature that RUN_TEST names, 0.01 °C. -/
def holdOf (w : Nat) : Option Nat := if bit w 23 then some (bits w 32 16) else none

/-- Why RUN_TEST is refused (14 R457; 15 R479; 17 R540, R541). -/
def State.testCase (s : State) (args : Tbl Nat) : Refused :=
  let w := argOf args 0
  let t := bits w 0 6
  let holdBad := match holdOf w with
    | some h => decide (10 * Int.ofNat h < s.objI Obj.coolantIn + 10000) || decide (10000 < h)
    | none => false
  if !onlyBits w (maskBits 5 0 + maskBits 8 8 + maskBits 23 16 + maskBits 47 32) || !onlyArgs args [0, 1, 2]
      || !onlyBits (argOf args 1) (maskBits 7 0) || !onlyBits (argOf args 2) (maskBits 31 0)
      || selfNear w || holdBad then some (2, 0)
  else plainCase [(s.countedOut t, 8), (s.countedOut ((nearOf w).getD (t ^^^ 1)), 8),
    ((Tbl.find s.host.packages (argOf args 1)).isNone, 8)]

/-- RUN_TEST taken: the test waits for a quiet boundary; in drain mode the stall is sublet at the next. -/
def State.testTake (s : State) (token : Nat) (args : Tbl Nat) : State :=
  let w := argOf args 0
  let t := bits w 0 6
  let limit := if argOf args 2 = 0 then s.obj Obj.testWait else argOf args 2
  s.modStall t fun x => { x with
    compute := .testWaiting, neighbour := nearOf w
    due := if bit w 8 then some (s.time.rung + 1, 0, token) else none
    test := some { package := argOf args 1, drain := bit w 8, hold := holdOf w, waitLimit := limit
                   since := s.time.rung, token } }

/-- The stall that a token's test waits on. -/
def State.testStall (s : State) (token : Nat) : Option Nat :=
  (s.custody.stalls.find? fun e => match e.2.test with
    | some y => y.token == token
    | none => false).map (·.1)

/-! ### Boundaries (01 R33, step 2) -/

/-- STALL_TAKE_OUT (14 R458): a due SUBLET or FENCE_STALL, or a drain, takes the stall's compute. -/
def execStallTakeOut (t : Stall) (s : State) : Result :=
  let s := s.stallTokens (s.stallDue t.val true)
  .next (match (s.stall t.val).due with
    | some (_, what, _) => if what = 0 ∨ what = 3 then s.testDue t.val else s
    | none => s)

/-- STALL_RETURN (14 R458). -/
def execStallReturn (t : Stall) (s : State) : Result :=
  let s := s.stallTokens (s.stallDue t.val false)
  .next (match (s.stall t.val).due with
    | some (_, what, _) => if what = 1 ∨ what = 4 then s.testDue t.val else s
    | none => s)

/-- What a reading brings at the next boundary. -/
def State.bandNext (s : State) (t what : Nat) : State :=
  s.modStall t fun x => { x with due := some (s.time.rung + 1, what, 0) }

/-- BAND_ENTRY (14 R459): a reading within the band; the stall enters it at the boundary after. -/
def execBandEntry (t : Stall) (milliC : Int) (s : State) : Result :=
  let x := s.stall t.val
  .next (match x.band with
    | some (a, b) =>
      if x.compute == .bandArmed && decide (1000 * a ≤ milliC) && decide (milliC ≤ 1000 * b) then
        s.bandNext t.val 3
      else s
    | none => s)

/-- BAND_EXIT (14 R459): a reading outside the band by more than band_hyst; the stall returns at the
boundary after. -/
def execBandExit (t : Stall) (milliC : Int) (s : State) : Result :=
  let x := s.stall t.val
  let h := Int.ofNat (s.obj Obj.bandHyst)
  .next (match x.band with
    | some (a, b) =>
      if x.compute == .inBand && (decide (milliC < 1000 * (a - h)) || decide (1000 * (b + h) < milliC)) then
        s.bandNext t.val 4
      else s
    | none => s)

/-- Step 2 at a boundary: commands, then what tests scheduled, then tests that find their stall quiet. -/
def State.stallsBoundary (s : State) : State :=
  let ks := s.custody.stalls.map (·.1)
  let s := s.stallTokens (s.dueTokens [9, 10])
  ((s.each ks State.testDue).each ks State.startTest)

end Sys2Proof.Machine
end

