-- ==== Sys2Proof/Machine/Warden.lean ====
section
/-! DEFINITION. The warden (15): the decision of each bell, its division among stalls, slew and opening
tally, thermal levels, the safe budget. Powers are whole mW, rounded down (log 55). -/

namespace Sys2Proof.Machine

/-! ### Inputs (15 R462, R463, R466) -/

/-- Element k of a list of powers. -/
def powerAt (ps : List Nat) (k : Nat) : Nat := ps.getD k 0

/-- Conversion efficiency in thousandths: 955 until 64 bells are measured, then their mean. -/
def efficiencyOf (eff : List (Nat × Nat)) : Nat :=
  if eff.length < 64 then 955
  else
    let mean : Rat := (eff.foldl (fun (x : Rat) e => x + (e.1 : Rat) / (max 1 e.2 : Nat)) 0) / (eff.length : Nat)
    max 900 (min 980 (mean * 1000).floor.toNat)

/-- A power from an energy in nJ over a bell of `ns`, mW. -/
def powerOf (nj ns : Nat) : Nat := nj * 1000 / ns

/-- Charges of a stall's ready threads, nJ. -/
def State.readyCharge (s : State) (t : Nat) : Nat :=
  (Tbl.get s.update.ready t []).foldl (fun n k => n + s.chargeOf t (s.thread t k).run) 0

/-- Charges of a stall's queued descriptors that are not admitted, nJ. -/
def State.queuedCharge (s : State) (t : Nat) : Nat :=
  ((s.array t).descs.filter fun d => d.stage == .queued).foldl (fun n d => n + descCharge d.fields) 0

/-- Declared energy of waiting array self-tests, nJ: 8.2 W over 50 µs each. -/
def State.waitingWork (s : State) : Nat := 410000 * (s.arrays.filter fun e => e.2.test == .pending).length

/-- Declared start steps of waiting test packages, mW (18 R557). -/
def State.waitingTests (s : State) : Nat :=
  s.custody.stalls.foldl (fun n e => match e.2.test with
    | some y => if e.2.compute == .testWaiting then n + s.packageStep y.package else n
    | none => n) 0

/-- A stall's own demand on line 4 or 5. -/
def State.ueDemand (s : State) (w : Sweep) (t : Nat) : Nat := powerAt w.ue t + powerOf (s.readyCharge t) s.period
def State.arrayDemand (s : State) (w : Sweep) (t : Nat) : Nat := powerAt w.array t + powerOf (s.queuedCharge t) s.period

/-- Demand of a grant line. -/
def State.lineDemand (s : State) (w : Sweep) (k : Nat) : Nat :=
  let charges := fun f => ((upTo 64).map f).foldl (· + ·) 0
  powerAt w.lines k + powerOf (match k with
    | 4 => charges s.readyCharge
    | 5 => charges s.queuedCharge
    | _ => s.waitingWork) s.period + (if k = 6 then s.waitingTests else 0)

/-! ### Lines (15 R465) -/

/-- Reservation of a line from the measured powers of the latest bells. -/
def State.reservation (s : State) (history : List (List Nat)) (k : Nat) : Nat :=
  let peak := ((history.take (s.obj Obj.reserveWindow)).map fun l => powerAt l k).foldl max 0
  peak * (100 + s.obj Obj.lineMargin) / 100

/-- Floors of lines 4 to 6, in line order: grants, and what is left. -/
def floorsFirst : List Nat → Nat → List Nat × Nat
  | [], avail => ([], avail)
  | f :: fs, avail =>
    let r := floorsFirst fs (avail - min f avail)
    (min f avail :: r.1, r.2)

/-- The rest, in line order: wants beyond the floors. -/
def restAfter : List (Nat × Nat) → Nat → List Nat
  | [], _ => []
  | (g, want) :: xs, avail =>
    let extra := min (want - g) avail
    (g + extra) :: restAfter xs (avail - extra)

/-- line_floor and line_ceiling of a line. -/
def State.lineFloor (s : State) (k : Nat) : Nat := s.obj (Obj.lineFloor k)
def State.lineCeiling (s : State) (k : Nat) : Nat := s.obj (Obj.lineCeiling k)

/-- The budgets of the seven lines and whether the reservations exceed what there is. -/
def State.budgets (s : State) (w : Sweep) (history : List (List Nat)) (eta : Nat) : List Nat × Bool :=
  let reserves := [0, 1, 2, 3].map (s.reservation history)
  let total := reserves.foldl (· + ·) 0
  let all := s.obj Obj.budgetW * eta
  let (floors, left) := floorsFirst ([4, 5, 6].map s.lineFloor) (all - total)
  let wants := [4, 5, 6].map fun k => min (s.lineCeiling k) (s.lineDemand w k)
  (reserves ++ restAfter (floors.zip wants) left, decide (all < total))

/-! ### Thermal levels (15 R476, R479; 12 R394) -/

/-- A stall and its up to eight grid neighbours (01 R13). -/
def gridNear (t : Nat) : List Nat :=
  (upTo 64).filter fun k =>
    decide (k / 8 ≤ t / 8 + 1) && decide (t / 8 ≤ k / 8 + 1) && decide (k % 8 ≤ t % 8 + 1) && decide (t % 8 ≤ k % 8 + 1)

/-- Stalls under a level 1 cut, and arrays cut, follow from the levels. -/
def State.setCuts (s : State) : State :=
  let hot := (s.warden.levels.filter fun e => e.2 != 0).map (·.1)
  let cuts := (upTo 64).filter fun t => hot.any fun h => (gridNear h).contains t
  let all := s.warden.levels.any fun e => e.2 == 2
  let s := { s with warden := { s.warden with cuts := cuts } }
  s.each (upTo 64) fun s t =>
    let cut := all || cuts.contains t
    if (s.array t).cut == cut then s else s.modArray t fun a => { a with cut := cut, cutRung := s.time.rung }

/-- Give a stall a thermal level. -/
def State.setLevel (s : State) (t l : Nat) : State :=
  let levels := if l = 0 then Tbl.erase s.warden.levels t else Tbl.set s.warden.levels t l
  ({ s with warden := { s.warden with levels := levels } } : State).setCuts

/-- The engines beside stalls run their dither loop fast. -/
def State.ditherBeside (s : State) (ts : List Nat) : State :=
  ((ts.map (· / 4)).eraseDups).foldl (fun s e => s.modEngine e fun x => { x with ditherFast := true, ditherUntil := s.tb1Ns + 2000000 }) s

/-- Level 1: a cut. -/
def State.enterCut (s : State) (t : Nat) : State :=
  if Tbl.get s.warden.levels t 0 != 0 then s.ditherBeside (gridNear t)
  else
    let s := (s.setLevel t 1).ditherBeside (gridNear t)
    (s.bump Obj.level1Events).count blockWarden 0x503 1

/-- Level 2: every array is cut, every admission tank emptied. -/
def State.enterLimit (s : State) (t : Nat) : State :=
  let first := !s.warden.levels.any fun e => e.2 == 2
  let s := s.setLevel t 2
  if !first then s
  else
    let s := { s with warden := { s.warden with limitSince := s.tb1Ns } }
    let s := s.each (upTo 64) fun s t => (s.setTank t 0).modArray t fun a => { a with tank := 0 }
    ((s.bump Obj.level2Events).capsule 3 false t).holdAlert .level2

/-- A reading of a stall: its rise within step_window shows a step or not (15 R476). -/
def State.judgeReading (s : State) (t : Nat) (milliC rise : Int) : State :=
  let step := decide (s.objI Obj.stepC ≤ rise)
  let w := s.warden
  let s := { s with warden := { w with
    hotAt := if step || decide (s.objI Obj.hotC ≤ milliC + 5000) then Tbl.set w.hotAt t s.tb1Ns else w.hotAt
    limitAt := if 100000 ≤ milliC then s.tb1Ns else w.limitAt } }
  if 105000 ≤ milliC then s.enterLimit t
  else if s.objI Obj.hotC ≤ milliC || step then s.enterCut t
  else s

/-- The rise of a stall over the sweeps within step_window. -/
def State.sweepRise (s : State) (t : Nat) (milliC : Int) : Int :=
  let n := s.obj Obj.stepWindow * 1000 / s.period
  milliC - (s.warden.temps.take n).foldl (fun m ts => min m (ts.getD t 0)) milliC

/-- The sweep's readings of every stall are judged, and kept. -/
def State.sweepLevels (s : State) (temps : List Int) : State :=
  let s := s.each (upTo temps.length) fun s t =>
    let c := temps.getD t 0
    if t < 64 then s.judgeReading t c (s.sweepRise t c) else s
  { s with warden := { s.warden with temps := (temps :: s.warden.temps).take 1000 } }

/-! ### Division among stalls (15 R469, R470, R472) -/

/-- A stall at thermal level 2. -/
def State.atLevel2 (s : State) (t : Nat) : Bool := Tbl.get s.warden.levels t 0 == 2

/-- A stall that takes part in lines 4 and 5. -/
def State.mayCompute (s : State) (t : Nat) : Bool := !(s.stall t).out && !s.atLevel2 t

/-- Shares of an amount in proportion to weights, each up to a cap; even where no weight is positive. -/
def shares (amount : Nat) (weights : List Nat) (caps : List Nat) : List Nat :=
  let total := weights.foldl (· + ·) 0
  let open' := (caps.filter (0 < ·)).length
  (weights.zip caps).map fun x =>
    min x.2 (if total = 0 then (if x.2 = 0 then 0 else amount / open') else amount * x.1 / total)

/-- One stall's lines 4 and 5 moved from old to target under a limit of the change of their sum: an
increase goes to line 4 first, a decrease comes from line 5 first. -/
def slewed (limit : Nat) (old target : Nat × Nat) : Nat × Nat :=
  let o := old.1 + old.2
  let t := target.1 + target.2
  if o ≤ t then
    let base := (min old.1 target.1, min old.2 target.2)
    let inc := min t (o + limit) - (base.1 + base.2)
    let up := min inc (target.1 - base.1)
    (base.1 + up, base.2 + min (inc - up) (target.2 - base.2))
  else
    let top := (max old.1 target.1, max old.2 target.2)
    let dec := top.1 + top.2 - max t (o - limit)
    let down := min dec (top.2 - target.2)
    (top.1 - (dec - down), top.2 - down)

/-- The change of a stall's compute grant that its slew allows in a bell. -/
def State.slewStep (s : State) (t : Nat) : Nat :=
  s.slewNow t * s.period / (1000 * max 1 (s.obj Obj.slewWindow))

/-- The stall's grants are not raised: a level 1 cut, or its stack in band 2 or 3. -/
def State.notRaised (s : State) (t : Nat) : Bool :=
  s.warden.cuts.contains t || decide (2 ≤ s.obj (Obj.thermalBand (quadrant t)))

/-- The grants in force of a stall. -/
def State.grantsOf (s : State) (t : Nat) : Nat × Nat := (Tbl.get s.warden.ue t 0, Tbl.get s.warden.array t 0)

/-- Move every stall to its target. -/
def State.slewAll (s : State) (ue array : List Nat) : List (Nat × Nat) :=
  (upTo 64).map fun t =>
    let old := s.grantsOf t
    let new := slewed (s.slewStep t) old (powerAt ue t, powerAt array t)
    if s.notRaised t then (min old.1 new.1, min old.2 new.2) else new

/-- A test holds a stall at a temperature. -/
def State.holdsTest (s : State) : Bool := (upTo 64).any fun t => s.obj (Obj.holdStatus t) != 0

/-- A grid neighbour of a stall that a test holds and that reads above its target: its line 5 grant is lowered,
by an amount that 15 R479 does not state (free: log 115). -/
def State.coolsHeld (s : State) (t : Nat) : Bool :=
  (gridNear t).any fun k => k != t && s.obj (Obj.holdStatus k) != 0
    && decide (s.objI (Obj.holdTarget k) < s.objI (Obj.stallTemp k))

/-- A stall's cap on line 5. -/
def State.arrayCapOf (s : State) (t : Nat) : Nat :=
  if !s.mayCompute t || s.warden.cuts.contains t then 0
  else if s.coolsHeld t then min 8200 (s.drawn % ((s.grantsOf t).2 + 1))
  else 8200

/-- The division of lines 4 and 5; what a stall cannot take is offered once to the others. -/
def State.divide (s : State) (w : Sweep) (g4 g5 : Nat) : List (Nat × Nat) :=
  let ts := upTo 64
  let cap4 := ts.map fun t => if s.mayCompute t then 1250 else 0
  let cap5 := ts.map s.arrayCapOf
  let d4 := ts.map fun t => if s.mayCompute t then s.ueDemand w t else 0
  let d5 := (ts.zip cap5).map fun x => if x.2 = 0 then 0 else s.arrayDemand w x.1
  let t4 := shares g4 d4 cap4
  let t5 := shares g5 d5 cap5
  let first := s.slewAll t4 t5
  let left := fun (g : Nat) (f : Nat × Nat → Nat) => g - (first.map f).foldl (· + ·) 0
  let more := fun (targets weights caps : List Nat) (g : Nat) (f : Nat × Nat → Nat) =>
    let rest := (weights.zip first).map fun x => x.1 - f x.2
    if rest.all (· == 0) then targets
    else ((shares (left g f) rest caps).zip ((first.map f).zip caps)).map fun x => min x.2.2 (x.2.1 + x.1)
  s.slewAll (more t4 d4 cap4 g4 (·.1)) (more t5 d5 cap5 g5 (·.2))

/-! ### Grant rises under the opening tally (15 R473, R474) -/

/-- Rises of one line under an allowance: each in full, or an even part; what is left. -/
def rises (allow : Nat) (olds news : List Nat) : List Nat × Nat × Bool :=
  let ups := (olds.zip news).map fun x => x.2 - x.1
  let total := ups.foldl (· + ·) 0
  let n := (ups.filter (0 < ·)).length
  if total ≤ allow then (news, allow - total, false)
  else
    let each := allow / max 1 n
    let cut := (olds.zip news).map fun x => min x.2 (x.1 + each)
    (cut, allow - ((olds.zip cut).map fun x => x.2 - x.1).foldl (· + ·) 0, true)

/-! ### The decision (15 R462 to R467) -/

/-- Measured powers and temperatures become the objects that show them. -/
def State.showSweep (s : State) (w : Sweep) : State :=
  let s := (upTo 7).foldl (fun s k => s.putObj (Obj.lineMeasured k) (powerAt w.lines k)) s
  let s := (s.putInt Obj.coolantIn w.coolantIn).putInt Obj.coolantOut w.coolantOut
  (upTo 64).foldl (fun s t =>
    let c := w.temps.getD t 0
    let s := s.putObj (Obj.computeMeasured t) (powerAt w.ue t + powerAt w.array t)
    let s := s.putInt (Obj.stallTemp t) c
    let s := s.putInt (Obj.stallTempMax t) (max (s.objI (Obj.stallTempMax t)) c)
    if s.obj (Obj.holdStatus t) = 1 && decide ((c - s.objI (Obj.holdTarget t)).natAbs ≤ 1000) then
      s.putObj (Obj.holdStatus t) 2
    else s) s

/-- Input energy of the bell, in whole mJ, counted at the warden and in energy_in (16 R491; 03 R97). -/
def State.countEnergy (s : State) (mw : Nat) : State :=
  let pj := s.warden.energyRest + mw * s.period
  let s := (s.count blockWarden 0x500 (pj / 10 ^ 9)).bump Obj.energyIn (pj / 10 ^ 9)
  { s with warden := { s.warden with energyRest := pj % 10 ^ 9 } }

/-- Input power above budget_w with every grant at 0 for 16 bells: an event, and ALERT_N until it falls. -/
def State.judgeOver (s : State) (w : Sweep) (grants : List Nat) : State :=
  let above := decide (1000 * s.obj Obj.budgetW < w.inputMw)
  let n := if above && grants.all (· == 0) then s.warden.overRun + 1 else 0
  let s := { s with warden := { s.warden with overRun := n } }
  let s := if above then s else s.dropAlert .overBudget
  if n = 16 then
    ((s.bump Obj.overBudgetEvents).eventObj 16 moduleBlock Obj.overBudgetEvents).holdAlert .overBudget
  else s

/-- The grants of the next bell are latched. -/
def State.decide' (s : State) (w : Sweep) : State :=
  let history := (w.lines :: s.warden.history).take 255
  let powers := (w.inputMw :: s.warden.module).take 4096
  let eff := ((w.railMw, w.inputMw) :: s.warden.eff).take 64
  let eta := efficiencyOf eff
  let (lines, short) := s.budgets w history eta
  let division := s.divide w (powerAt lines 4) (powerAt lines 5)
  let s := { s with warden := { s.warden with history := history, module := powers, eff := eff } }
  let allow := if s.warden.queue.isEmpty then s.tallyRoom else 0
  let (ue, a1, w4) := rises allow ((upTo 64).map fun t => (s.grantsOf t).1) (division.map (·.1))
  let (array, a2, w5) := rises a1 ((upTo 64).map fun t => (s.grantsOf t).2) (division.map (·.2))
  let (six, rest, w6) := rises a2 [s.obj (Obj.lineBudget 6)] [powerAt lines 6]
  let s := { s with warden := { s.warden with
    lateRun := 0, onTimeRun := s.warden.onTimeRun + 1, waited := w4 || w5 || w6
    spent := s.warden.spent + (allow - rest), decidedAt := some s.time.rung
    latched := some { lines := lines.take 6 ++ six, ue := ue, array := array, short := short } } }
  let s := (s.putObj Obj.efficiency eta).judgeOver w (lines.drop 4)
  s.when short fun s => s.bump Obj.shortBells

/-- This bell has had its decision, or has none. -/
def State.decided (s : State) : Bool := s.warden.decidedAt == some s.time.rung

/-- WARDEN_DECISION (15 R462 to R475): the sweep of the bell and the decision for the next; the 64th on time
leaves the safe budget (R478). -/
def execWardenDecision (sweep : Sweep) (s : State) : Result :=
  .next (if !s.dieRunning || s.decided then s
    else
      let s := ((s.showSweep sweep).countEnergy sweep.inputMw).sweepLevels sweep.temps
      let s := (s.when s.holdsTest State.draw).decide' sweep
      if s.warden.safe && decide (64 ≤ s.warden.onTimeRun) then { s with warden := { s.warden with safe := false } }
      else s)

/-- DECISION_OVERRUN (02 R61, 15 R478): the third late decision in a row enters the safe budget. The bell's energy is
a free amount (log 17). -/
def execDecisionOverrun (s : State) : Result :=
  if s.decided then .next s else
  let n := s.warden.lateRun + 1
  let s := s.draw.countEnergy s.drawn
  let s := (s.bump Obj.overruns).count blockWarden 0x501 1
  let s := { s with warden := { s.warden with lateRun := n, onTimeRun := 0, decidedAt := some s.time.rung } }
  .next (if 3 ≤ n && !s.warden.safe then
      let s := { s with warden := { s.warden with safe := true } }
      (s.bump Obj.safeEntries).eventObj 16 moduleBlock Obj.safeEntries
    else s)

/-! ### Budgets in force (01 R33 step 4) -/

/-- Grants of the safe budget: line 4 its floor, even over the stalls in compute; line 5 none (15 R478). -/
def State.safeBudget (s : State) : Decision :=
  let ins := (upTo 64).filter fun t => !(s.stall t).out
  let each := s.lineFloor 4 / max 1 ins.length
  { lines := [0, 0, 0, 0, s.lineFloor 4, 0, s.lineFloor 6]
    ue := (upTo 64).map fun t => if (s.stall t).out then 0 else each
    array := (upTo 64).map fun _ => 0, short := false }

/-- A table of powers, without zero entries. -/
def powerTable (ps : List Nat) : Tbl Nat :=
  (upTo ps.length).foldl (fun t k => if powerAt ps k = 0 then t else Tbl.set t k (powerAt ps k)) []

/-- Thermal levels hold at once: no line 5 grant under a cut, line 4 not raised, none of either at level 2. -/
def State.underLevels (s : State) (d : Decision) : Decision :=
  let cut := fun t => s.warden.cuts.contains t
  { d with
    ue := (upTo 64).map fun t =>
      if s.atLevel2 t then 0 else if cut t then min (s.grantsOf t).1 (powerAt d.ue t) else powerAt d.ue t
    array := (upTo 64).map fun t => if s.atLevel2 t || cut t then 0 else powerAt d.array t }

/-- The tally of the bell just ended: a bell in which something waited counts, and what lane wakes overdrew is taken
from the next (15 R474). -/
def State.tallyBoundary (s : State) : State :=
  let w := s.warden
  let s := s.when (w.waited || !w.queue.isEmpty) fun s => (s.bump Obj.tallyWaits).count blockWarden 0x502 1
  { s with warden := { s.warden with
      spent := 0, wakes := 0, waited := false
      overdraft := w.wakes + w.overdraft - (s.obj Obj.tallyW + s.shedCredit) } }

/-- The budgets computed in the bell just ended come into force; without one, those of that bell stay. -/
def State.applyBudget (s : State) : State :=
  let inForce : Decision :=
    { lines := (upTo 7).map fun k => s.obj (Obj.lineBudget k), ue := (upTo 64).map fun t => (s.grantsOf t).1
      array := (upTo 64).map fun t => (s.grantsOf t).2, short := s.warden.short }
  let d := s.underLevels (if s.warden.safe then s.safeBudget else s.warden.latched.getD inForce)
  let s := (upTo 7).foldl (fun s k => s.putObj (Obj.lineBudget k) (powerAt d.lines k)) s
  { s with warden := { s.warden with
      latched := none, short := d.short, ue := powerTable d.ue, array := powerTable d.array } }

/-! ### Thermal events (15 R476, R479) -/

/-- THERMAL_READING (15 R476): a reading, and the rise within step_window. -/
def execThermalReading (t : Stall) (milliC : Int) (rise : Int) (s : State) : Result :=
  .next (if !s.dieRunning then s
    else
      let s := s.judgeReading t.val milliC rise
      s.when (s.obj (Obj.holdStatus t.val) = 1
        && decide ((milliC - s.objI (Obj.holdTarget t.val)).natAbs ≤ 1000)) fun s => s.putObj (Obj.holdStatus t.val) 2)

/-- LEVEL2_THROTTLE (15 R476): 1 ms after level 2 a reading still at or above 105 °C paces every port. -/
def execLevel2Throttle (t : Stall) (milliC : Int) (s : State) : Result :=
  .next (if s.atLevel2 t.val && decide (105000 ≤ milliC) && s.comesNow (s.warden.limitSince + 1000000) then
      { s with warden := { s.warden with paced := true } }
    else s)

/-- The stalls affected by a stall's level 1 have read cool, with no step, for 1 ms. -/
def State.coolAround (s : State) (t : Nat) : Bool :=
  (gridNear t).all fun k => s.comesNow (Tbl.get s.warden.hotAt k 0 + 1000000)

/-- THERMAL_LEVEL_EXIT (15 R476): level 2 is left by every stall at once, to level 1, once every stall has read
below 100 °C for 1 ms; level 1 to none, with half slew for 10 ms. -/
def execThermalLevelExit (t : Stall) (s : State) : Result :=
  .next (match Tbl.get s.warden.levels t.val 0 with
    | 2 =>
      if !s.comesNow (s.warden.limitAt + 1000000) then s else
      let levels := Tbl.mapVals s.warden.levels fun _ l => min l 1
      ({ s with warden := { s.warden with levels := levels, paced := false } } : State).setCuts.dropAlert .level2
    | 1 =>
      if !s.coolAround t.val then s else
      let near := gridNear t.val
      let s := s.setLevel t.val 0
      let half := near.foldl (fun h k => Tbl.set h k (s.tb1Ns + 10000000)) s.warden.halfSlew
      { s with warden := { s.warden with halfSlew := half } }
    | _ => s)

/-- HOLD_SETTLE_EXPIRY (15 R479): hold_settle after Q the test starts at the temperature reached. -/
def execHoldSettleExpiry (t : Stall) (s : State) : Result :=
  let ended := (s.stall t.val).test.any fun y => s.comesNow (y.heldFrom + s.obj Obj.holdSettle * 1000000)
  .next (if s.obj (Obj.holdStatus t.val) = 1 && ended then s.putObj (Obj.holdStatus t.val) 3 else s)

end Sys2Proof.Machine
end

