-- ==== Sys2Proof/Machine/Commands.lean ====
section
/-! DEFINITION. Command slots at intake (17 R533 to R537), the commands (R539 to R541) and cancelling
(R543). Each row of a command takes the slot it names. -/

namespace Sys2Proof.Machine

/-! ### Pitches (07 R213, R215, R216) -/

/-- Bucket n of an ADMIT_PITCH is outside the ranges of R233. -/
def bucketBad (args : Tbl Nat) (n : Nat) : Bool :=
  let w := argOf args (1 + n)
  let rate := bits w 0 32
  let burst := bits w 32 32
  bit (argOf args 0) (16 + n)
    && ((decide (20480000 < rate) && !unmetered rate) || decide (burst < 4096) || decide (268435456 < burst))

/-- Why ADMIT_PITCH is refused: pitch 0, the cases of R215, the ranges of R233. -/
def State.admitCase (s : State) (args : Tbl Nat) : Refused :=
  let w := argOf args 0
  let p := bits w 0 12
  if !onlyBits w (maskBits 11 0 + maskBits 24 16) || !onlyBits (argOf args 9) (maskBits 7 0)
      || !onlyArgs args (upTo 10) then some (2, 0)
  else if p = 0 then some (8, 0)
  else
    let x := s.pitch p
    match firstCase [(x.state == .admitted, 8), (x.state == .releasing, 8), (x.admission.isSome, 8)] with
    | some c => some c
    | none => if (upTo 8).any (bucketBad args) then some (2, 0) else none

/-- ADMIT_PITCH taken: in effect from the next boundary. -/
def State.admitTake (s : State) (token : Nat) (args : Tbl Nat) : State :=
  let p := bits (argOf args 0) 0 12
  let s := s.setPitch p { s.pitch p with 
    admission := some ((upTo 10).map (argOf args)), takenRung := s.time.rung }
  (s.setResult token 0 ((s.obj (Obj.pitchGeneration p) + 1) % 65536)).endDone token

/-- Why RELEASE_PITCH is refused (07 R216). -/
def State.releaseCase (s : State) (args : Tbl Nat) : Refused :=
  let w := argOf args 0
  let p := bits w 0 12
  if !onlyBits w (maskBits 11 0) || !onlyArgs args [0] then some (2, 0)
  else plainCase
    [((s.pitch p).state != .admitted, 8),
     ((s.coll.groups.any fun e => e.2.state != .free && e.2.pitch == p), 8),
     ((s.custody.pairs.any fun e => e.2.state != .free && e.2.pitch == p), 8)]

/-- RELEASE_PITCH taken: L is the next boundary. -/
def State.releaseTake (s : State) (token : Nat) (args : Tbl Nat) : State :=
  let p := bits (argOf args 0) 0 12
  let s := s.setPitch p { s.pitch p with releaseDue := true, takenRung := s.time.rung }
  (s.setResult token 0 (s.time.bell + 1)).endDone token

/-! ### Forwarding-table bank (06 R191) -/

/-- Why SWITCH_TABLE_BANK is refused: a switch is scheduled or a guard runs. -/
def State.switchCase (s : State) (args : Tbl Nat) : Refused :=
  if !onlyBits (argOf args 0) (maskBits 31 0) || !onlyArgs args [0] then some (2, 0)
  else plainCase [(s.switch.switch.isSome || s.switch.guardEnd.isSome, 8)]

/-- SWITCH_TABLE_BANK taken. -/
def State.switchTake (s : State) (token bell : Nat) (args : Tbl Nat) : State :=
  let b : BankSwitch := { bell := bell, digest := argOf args 0, token := token }
  { s with switch := { s.switch with switch := some b } }

/-! ### Package lanes (05 R140, R141) -/

/-- The spare that a REMAP_LANE takes. -/
def State.remapSpare (s : State) (w : Nat) : Option Nat :=
  let t := bits w 0 10 / 16
  let k := laneKey (bit w 12) t
  match bits w 16 2 with
  | 0 => (s.spares (bit w 12) t).head?
  | n => if s.spareUsable (k (15 + n)) then some (k (15 + n)) else none

/-- Why REMAP_LANE is refused. A boundary after intake is at least one period ahead, so 02 R64 holds. -/
def State.remapCase (s : State) (args : Tbl Nat) : Refused :=
  let w := argOf args 0
  let p := bits w 0 10
  if !onlyBits w (maskBits 9 0 + maskBits 12 12 + maskBits 17 16) || !onlyArgs args [0] || bits w 16 2 == 3 then
    some (2, 0)
  else plainCase
    [(!s.remapAllowed p (bit w 12) || (s.laneOf (bit w 12) p).isNone, 9), ((s.remapSpare w).isNone, 9)]

/-- REMAP_LANE taken. -/
def State.remapTake (s : State) (token bell : Nat) (args : Tbl Nat) : State :=
  let w := argOf args 0
  match s.remapSpare w with
  | some k => (s.scheduleRemap (bits w 0 10) (bit w 12) k bell (some token)).setResult token 0 (k % 18)
  | none => s

/-- A cancelled REMAP_LANE: the spare is idle again. -/
def State.remapUndone (s : State) (token : Nat) : State :=
  let out := s.remaps.filter fun r => r.token == some token && r.stage != .switched
  out.foldl (fun s r =>
    (({ s with remaps := s.remaps.filter (· != r) } : State).modLane r.spare fun l => { l with state := .idle })) s

/-! ### Thoroughfares (04 R126 to R129) -/

/-- The thoroughfare that a teardown names. -/
def State.thoroNamed (s : State) (w : Nat) : Option Nat :=
  (s.optics.thoros.find? fun x => x.1 / 8 == bits w 0 4 && x.2.rx == bits w 4 2 && x.2.tx == bits w 6 2
    && x.2.k == bits w 8 4 && x.2.active && !x.2.scheduled).map (·.1)

/-- Why SET_THOROUGHFARE is refused: R126, how far S lies ahead, no entry to tear down. -/
def State.thoroRefused (s : State) (bell : Nat) (args : Tbl Nat) : Refused :=
  let w := argOf args 0
  let e := bits w 0 4
  let case := if bit w 12 then 0 else s.thoroCase e (bits w 4 2) (bits w 6 2) (bits w 8 4) none
  let ahead := (bell - s.time.bell) * s.period
  if !onlyBits w (maskBits 12 0) || !onlyArgs args [0] then some (2, 0)
  else if case ≠ 0 then some ([0, 2, 2, 8, 8, 9].getD case 8, case)
  else plainCase
    [(decide (ahead < (s.obj (Obj.moveLead e) + 200) * 1000), 5), (decide (10 ^ 9 < ahead), 6),
     (bit w 12 && (s.thoroNamed w).isNone, 8)]

/-- SET_THOROUGHFARE taken. -/
def State.thoroTake (s : State) (token bell : Nat) (args : Tbl Nat) : State :=
  let w := argOf args 0
  let e := bits w 0 4
  if bit w 12 then
    match s.thoroNamed w with
    | some k =>
      (s.setThoro k { s.thoro k with scheduled := true, teardown := true, proposed := false, token, bell }).setResult
        token 0 (k % 8)
    | none => s
  else
    match (upTo 8).find? fun i => (Tbl.find s.optics.thoros (8 * e + i)).isNone with
    | some i =>
      let x : Thoro := { scheduled := true, rx := bits w 4 2, tx := bits w 6 2, k := bits w 8 4, token, bell }
      (s.setThoro (8 * e + i) x).setResult token 0 i
    | none => s

/-- A cancelled SET_THOROUGHFARE: its proposals are withdrawn, and the ports return to their bundles; one
whose teardown was scheduled stays. -/
def State.thoroUndone (s : State) (token : Nat) : State :=
  match s.optics.thoros.find? fun x => x.2.scheduled && x.2.token == token with
  | none => s
  | some (k, x) =>
    let e := k / 8
    let s := if !x.proposed then s
      else
        let s := s.sendMove (4 * e + x.rx) (moveMsg 4 1 4 x.k x.k x.k x.token x.bell)
        s.sendMove (4 * e + x.tx) (moveMsg 4 0 4 x.k x.k x.k x.token x.bell)
    if x.teardown then s.setThoro k { x with scheduled := false, teardown := false, proposed := false }
    else ({ s with optics := { s.optics with thoros := Tbl.erase s.optics.thoros k } } : State).thoroReturn e x

/-! ### Bundles (18 R559, R562) -/

/-- The source of a LOAD_BUNDLE can give a bundle. -/
def State.sourceReady (s : State) (w : Nat) : Bool :=
  match bits w 0 2 with
  | 0 => (Tbl.get s.host.store (bits w 8 8) {}).state == 1
  | 1 => s.hostOpen
  | _ => true

/-- Why LOAD_BUNDLE is refused. -/
def State.loadCase (s : State) (args : Tbl Nat) : Refused :=
  let w := argOf args 0
  let unload := bit w 2
  let named := if !unload && bits w 0 2 == 1 then [0, 1, 2] else if !unload && bits w 0 2 == 2 then [0, 2] else [0]
  let entryNamed := unload || bits w 0 2 == 0
  if !onlyBits w (maskBits 2 0 + (if entryNamed then maskBits 15 8 else 0)) || !onlyArgs args named
      || (!unload && bits w 0 2 == 3) || decide (64 ≤ bits w 8 8) then some (2, 0)
  else if unload then plainCase [(s.programUsed (bits w 8 8), 8)]
  else plainCase [(!s.sourceReady w, 8)]

/-- What LOAD_BUNDLE reports of a bundle. -/
def State.bundleResult (s : State) (token kind number identity : Nat) : State :=
  (s.setResult token 0 (kind + number * 2 ^ 8)).setResult token 1 identity

/-- A program slot is unloaded. -/
def State.unload (s : State) (token k : Nat) : State :=
  let s := match Tbl.find s.update.programs k with
    | some p => s.bundleResult token 1 k p.identity
    | none => s
  (s.dropProgram k).endDone token

/-- LOAD_BUNDLE taken: an unload is done at once; a bundle is verified (BUNDLE_VERIFIED). -/
def State.loadTake (s : State) (token : Nat) (args : Tbl Nat) : State :=
  let w := argOf args 0
  if bit w 2 then s.unload token (bits w 8 8) else s

/-- The bundle of a LOAD_BUNDLE. -/
def State.loadText (s : State) (args : Tbl Nat) (fetched : Option (List Byte)) : Option BundleText :=
  let w := argOf args 0
  match bits w 0 2 with
  | 0 => some (s.storeBundle (bits w 8 8))
  | 1 => if s.hostOpen then fetched.map fun bs => hostBundle bs (argOf args 2) else none
  | _ => some (s.uploadBundle 0 (if argOf args 2 = 0 then bundleMax else argOf args 2))

/-- Verification of a LOAD_BUNDLE ends (18 R556, R559, R562). -/
def State.endLoadBundle (s : State) (token : Nat) (args : Tbl Nat) (fetched : Option (List Byte)) : State :=
  match s.loadText args fetched with
  | none => s.hostError.endFailed token 13
  | some b =>
    let s := s.when (bits (argOf args 0) 0 2 == 1) fun s => s.countFetch (argOf args 1) (argOf args 2)
    let s := s.setProgress token (4096 + b.bodyBytes)
    match s.bundleFault b with
    | some pos => s.verifyFailed.endFailedAt token 12 pos
    | none => match s.placeBundle b with
      | (s, .at n) => (s.bundleResult token b.kind n b.identity).endDone token
      | (s, .full code) => s.endFailed token code

/-- BUNDLE_VERIFIED (18 R559, R562). -/
def execBundleVerified (token : BitVec 64) (fetched : Option (List Byte)) (s : State) : Result :=
  .next (match s.tokenRec token.toNat with
    | some r => if r.status == .busy && r.opcode == 0x07 then s.endLoadBundle r.token r.args fetched else s
    | none => s)

/-! ### Checkpoints (18 R572) -/

/-- Why CHECKPOINT is refused: the span outside DRAM below the reserve, or not aligned. -/
def State.checkpointCase (s : State) (args : Tbl Nat) : Refused :=
  let fabric := bit (argOf args 0) 0
  let src := argOf args 1
  let n := argOf args 2
  let target := argOf args 3
  let bad := !onlyBits (argOf args 0) 1
    || (if fabric then !onlyBits target (maskBits 19 0) || !onlyBits (argOf args 4) (maskBits 11 0)
          || !onlyArgs args (upTo 5)
        else !onlyArgs args (upTo 4) || target % 4096 != 0)
    || src % 4096 != 0 || n % 4096 != 0 || decide (s.reserveBase < src + n)
  if bad then some (2, 0) else none

/-- CHECKPOINT taken: it runs when the ones before it on its route have ended. -/
def State.checkpointTake (s : State) (token : Nat) (args : Tbl Nat) : State :=
  let c : Checkpoint := { token := token, fabric := bit (argOf args 0) 0, src := argOf args 1, length := argOf args 2
                          target := argOf args 3, pitch := argOf args 4 }
  { s with host := { s.host with checkpoints := s.host.checkpoints ++ [c] } }

/-! ### Cancelling (17 R543) -/

/-- The target of a CANCEL has not acted: its boundary lies ahead, its test waits, or it is a checkpoint. -/
def State.cancellable (s : State) (r : TokenRec) : Bool :=
  match r.opcode with
  | 0x12 => true
  | 0x08 => match s.testStall r.token with
    | some t => (s.stall t).compute == .testWaiting
    | none => false
  | _ => !r.acted && (if r.effectRung = 0 then decide (s.time.bell < r.effect) else decide (s.time.rung < r.effectRung))

/-- Why CANCEL is refused. -/
def State.cancelCase (s : State) (token : Nat) (args : Tbl Nat) : Refused :=
  let target := s.tokenRec (argOf args 0)
  if !onlyArgs args [0] then some (2, 0)
  else match target with
    | some r =>
      if r.status != .busy || r.token == token then some (8, 0)
      else if s.cancellable r then none else some (18, 0)
    | none => some (8, 0)

/-- What a cancelled target leaves behind is taken back. -/
def State.undo (s : State) (r : TokenRec) : State :=
  match r.opcode with
  | 0x03 => match s.groupOfToken r.token with
    | some g => s.openUndone g
    | none => s
  | 0x05 => s.startUndone r.token
  | 0x08 => match s.testStall r.token with
    | some t => s.dropTest t
    | none => s
  | 0x0B => s.remapUndone r.token
  | 0x0C => s.thoroUndone r.token
  | 0x0E => { s with switch := { s.switch with switch := none } }
  | 0x0F => s.setPair (bits (argOf r.args 0) 0 12) {}
  | 0x11 => s.modPair (bits (argOf r.args 0) 0 12) fun p =>
      let was := (p.resync.map (·.was)).getD (p.otherPos, p.firstSeq, p.token)
      { p with state := if bit (argOf r.args 0) 12 then .alone else .paired, resync := none
               otherPos := was.1, firstSeq := was.2.1, token := was.2.2 }
  | 0x12 => match s.host.checkpoints.find? fun c => c.token == r.token with
    | some c => (s.dropCheckpoint r.token).setResult r.token 0 (4096 * c.sent)
    | none => s
  | _ => s

/-- CANCEL acts in step 5 of its intake boundary. -/
def State.cancelTake (s : State) (token : Nat) (args : Tbl Nat) : State :=
  match s.tokenRec (argOf args 0) with
  | some r =>
    let s := (s.undo r).endFailed r.token 14
    (s.markActed token).endDone token
  | none => s

/-! ### Intake (17 R533, R534, R536) -/

/-- The command set (17 R539). -/
def opcodeKnown (op : Nat) : Bool := decide (1 ≤ op) && decide (op ≤ 0x13)

/-- Commands of the owner class only: LOAD_BUNDLE and CHECKPOINT. -/
def ownerOnly (op : Nat) : Bool := op == 0x07 || op == 0x12

/-- Commands whose bell must be 0. -/
def zeroOnly (op : Nat) : Bool := [0x01, 0x02, 0x07, 0x08, 0x0F, 0x11, 0x12, 0x13].contains op

/-- Commands that need TB0 bells. -/
def needsTb0 (op : Nat) : Bool := [0x03, 0x0B, 0x0C, 0x0E, 0x0F].contains op

/-- The holder's class may send the command. -/
def State.mayCommand (s : State) (x : SlotSt) : Bool :=
  match x.holder with
  | some r => match s.clsOf r with
    | .owner => true
    | .operator => !ownerOnly x.opcode
    | _ => false
  | none => false

/-- Why the boundary of a command is refused (17 R534). -/
def State.boundaryCase (s : State) (op bell : Nat) : Refused :=
  let early := !s.time.onTb0 && s.obj Obj.bellSource != 2
  plainCase
    [(bell != 0 && decide (bell ≤ s.time.bell), 5),
     (bell != 0 && decide (60 * 10 ^ 9 / s.period < bell - s.time.bell), 6),
     (bell != 0 && zeroOnly op, 2),
     (early && (bell != 0 || needsTb0 op), 7)]

/-- Why a command is refused for its arguments (17 R540, R541). -/
def State.commandCase (s : State) (op token bell : Nat) (args : Tbl Nat) : Refused :=
  match op with
  | 0x01 => s.admitCase args
  | 0x02 => s.releaseCase args
  | 0x03 => s.openCheck args
  | 0x04 => s.closeCheck args
  | 0x05 => s.startCase args
  | 0x06 => stopCase args
  | 0x07 => s.loadCase args
  | 0x08 => s.testCase args
  | 0x09 => s.fenceCase args
  | 0x0A => s.subletCase args
  | 0x0B => s.remapCase args
  | 0x0C => s.thoroRefused bell args
  | 0x0D => s.mapOutCase args
  | 0x0E => s.switchCase args
  | 0x0F => s.pairCase args
  | 0x10 => s.takeOverCase args
  | 0x11 => s.resyncCase args
  | 0x12 => s.checkpointCase args
  | _ => s.cancelCase token args

/-- What a command does at intake; SUBLET, FENCE_STALL, MAP_OUT_CHANNEL and TAKE_OVER only wait for their
boundary. -/
def State.commandTake (s : State) (op token bell : Nat) (args : Tbl Nat) : State :=
  match op with
  | 0x01 => s.admitTake token args
  | 0x02 => s.releaseTake token args
  | 0x03 => s.openTake token bell args
  | 0x04 => s.closeTake token args
  | 0x05 => s.startTake token bell args
  | 0x06 => s.stopTake token args
  | 0x07 => s.loadTake token args
  | 0x08 => s.testTake token args
  | 0x0B => s.remapTake token bell args
  | 0x0C => s.thoroTake token bell args
  | 0x0E => s.switchTake token bell args
  | 0x0F => s.pairTake token args
  | 0x11 => s.resyncTake token args
  | 0x12 => s.checkpointTake token args
  | 0x13 => s.cancelTake token args
  | _ => s

/-- CRC-32C of a command: opcode, bell, arguments, little-endian (17 R536; log 63). -/
def commandCrc (x : SlotSt) : Nat :=
  crc32c (leBytes 2 x.opcode ++ leBytes 8 x.bell ++ (upTo 32).flatMap fun n => leBytes 8 (argOf x.args n))

/-- A command is refused before it has a record: its slot says so (17 R533, R537). -/
def State.refuseSlot (s : State) (k code : Nat) : State :=
  let x := s.slot k
  (s.setSlot k { x with
    status := .refused, code := code, resultToken := x.token, taken := s.time.bell, effect := 0
    final := s.time.bell, progress := 0, results := [] }).completionEvent k x.token

/-- The record of a command at intake. -/
def State.newRecord (s : State) (k : Nat) (x : SlotSt) : TokenRec :=
  { token := x.token, crc := commandCrc x, opcode := x.opcode, slot := k, status := .busy, code := 0
    taken := s.time.bell, effect := if x.bell = 0 then s.time.bell + 1 else x.bell
    effectRung := if x.bell = 0 then s.time.rung + 1 else 0, acted := false, final := 0, progress := 0
    results := [], args := x.args }

/-- A slot shows the record of its token. -/
def State.showRecord (s : State) (k : Nat) (r : TokenRec) : State := s.setSlot k ((s.slot k).show r)

/-- Room for one more record: the oldest final one is dropped from a full store; none where all are busy. -/
def State.tokenRoom (s : State) : Option State :=
  if s.dict.tokens.length < 4096 then some s
  else if s.dict.tokens.any fun r => r.status != .busy then
    some { s with dict := { s.dict with tokens := removeFirst (fun r => r.status != .busy) s.dict.tokens } }
  else none

/-- A recorded command is refused (17 R537). -/
def State.refuseCommand (s : State) (token code pos : Nat) : State :=
  let s := (s.modToken token fun r => { r with effect := 0 }).setResult token 15 pos
  s.endCommand token .refused code

/-- A new command gets its record, and its boundary and arguments are checked. -/
def State.startCommand (s : State) (k : Nat) (x : SlotSt) : State :=
  let r := s.newRecord k x
  let s := { s with dict := { s.dict with tokens := s.dict.tokens ++ [r] } }
  let s := s.showRecord k r
  match s.boundaryCase x.opcode x.bell with
  | some (code, pos) => s.refuseCommand x.token code pos
  | none => match s.commandCase x.opcode x.token r.effect x.args with
    | some (code, pos) => s.refuseCommand x.token code pos
    | none => s.commandTake x.opcode x.token r.effect x.args

/-- Firmware takes a submitted slot: opcode, class and token are checked (17 R533, R536). -/
def State.takeSlot (s : State) (k : Nat) : State :=
  let x := s.slot k
  if x.status != .submitted || !s.dieRunning then s
  else if !opcodeKnown x.opcode then s.refuseSlot k 1
  else if !s.mayCommand x then s.refuseSlot k 3
  else match s.tokenRec x.token with
    | some r => if r.crc = commandCrc x then s.showRecord k r else s.refuseSlot k 4
    | none => match s.tokenRoom with
      | some s => s.startCommand k x
      | none => s.refuseSlot k 9

/-- Firmware takes a slot if it holds the command named by a row. -/
def State.takeNamed (s : State) (k op : Nat) : State := if (s.slot k).opcode = op then s.takeSlot k else s

/-- Every submitted slot, in ascending order. -/
def State.takeSlots (s : State) : State := (upTo 16).foldl State.takeSlot s

/-! ### Step 5 before the slots: what is due (17 R535) -/

/-- A due command of step 5 acts. -/
def State.actOne (s : State) (r : TokenRec) : State :=
  let w := argOf r.args 0
  match r.opcode with
  | 0x03 => s.openDue (bits w 0 16)
  | 0x04 => s.closeDue (bits w 0 16)
  | 0x05 => match (upTo 64).find? fun k => (s.runOf k).state == .scheduled && (s.runOf k).token == r.token with
    | some k => s.startDue k
    | none => s
  | 0x06 => s.stopDue (bits w 0 6)
  | 0x10 => s.takeOverDue (bits w 0 12)
  | _ => s

/-- The due commands of step 5 act, in order of intake boundary and slot. -/
def State.actDue (s : State) : State := (s.dict.tokens.filter s.due).foldl State.actOne s

/-! ### Rows -/

/-- ADMIT_PITCH (07 R213). -/
def execAdmitPitch (k : Slot) (s : State) : Result := .next (s.takeNamed k.val 0x01)

/-- RELEASE_PITCH (07 R216). -/
def execReleasePitch (k : Slot) (s : State) : Result := .next (s.takeNamed k.val 0x02)

/-- OPEN_GROUP (09 R265). -/
def execOpenGroup (k : Slot) (s : State) : Result := .next (s.takeNamed k.val 0x03)

/-- CLOSE_GROUP (09 R268). -/
def execCloseGroup (k : Slot) (s : State) : Result := .next (s.takeNamed k.val 0x04)

/-- START_THREADS (11 R352). -/
def execStartThreads (k : Slot) (s : State) : Result := .next (s.takeNamed k.val 0x05)

/-- STOP_THREADS (11 R353). -/
def execStopThreads (k : Slot) (s : State) : Result := .next (s.takeNamed k.val 0x06)

/-- LOAD_BUNDLE (18 R562). -/
def execLoadBundle (k : Slot) (s : State) : Result := .next (s.takeNamed k.val 0x07)

/-- RUN_TEST (14 R457). -/
def execRunTest (k : Slot) (s : State) : Result := .next (s.takeNamed k.val 0x08)

/-- FENCE_STALL (14 R458). -/
def execFenceStall (k : Slot) (s : State) : Result := .next (s.takeNamed k.val 0x09)

/-- SUBLET (14 R458). -/
def execSublet (k : Slot) (s : State) : Result := .next (s.takeNamed k.val 0x0A)

/-- REMAP_LANE (05 R140). -/
def execRemapLane (k : Slot) (s : State) : Result := .next (s.takeNamed k.val 0x0B)

/-- SET_THOROUGHFARE (04 R128). -/
def execSetThoroughfare (k : Slot) (s : State) : Result := .next (s.takeNamed k.val 0x0C)

/-- MAP_OUT_CHANNEL (13 R415). -/
def execMapOutChannel (k : Slot) (s : State) : Result := .next (s.takeNamed k.val 0x0D)

/-- SWITCH_TABLE_BANK (06 R191). -/
def execSwitchTableBank (k : Slot) (s : State) : Result := .next (s.takeNamed k.val 0x0E)

/-- PAIR_CUSTODY (14 R430). -/
def execPairCustody (k : Slot) (s : State) : Result := .next (s.takeNamed k.val 0x0F)

/-- TAKE_OVER (14 R451). -/
def execTakeOver (k : Slot) (s : State) : Result := .next (s.takeNamed k.val 0x10)

/-- RESYNC (14 R447). -/
def execResync (k : Slot) (s : State) : Result := .next (s.takeNamed k.val 0x11)

/-- CHECKPOINT (18 R572). -/
def execCheckpoint (k : Slot) (s : State) : Result := .next (s.takeNamed k.val 0x12)

/-- CANCEL (17 R543). -/
def execCancel (k : Slot) (s : State) : Result := .next (s.takeNamed k.val 0x13)

end Sys2Proof.Machine
end

