-- ==== Sys2Proof/Machine/Bell.lean ====
section
/-! DEFINITION. The bell boundary (01 R33, 02 R54, R59): every change due at it, in the fixed order of
R33, by the same operations as the rows that make one change each. -/

namespace Sys2Proof.Machine

/-! ### Written objects that wait for the boundary (17 R544) -/

/-- A VF's binding changes: its running table transfer ends in error, its long buffer is cleared (18 R551). -/
def State.rebind (s : State) (v : Fin 64) : State :=
  let r := Requester.vf v
  let x := s.req r
  let running := x.state == 1
  let y := if running then { x with state := 3, tcode := 2, long := 0 } else { x with long := 0 }
  (s.setReq r y).when running fun s => s.interrupt (v.val + 1) 0

/-- The object is part of the program of a pulse output: its number. -/
def pulseOf (key : Nat) : Option Nat :=
  if 0x030020 ≤ key ∧ key < 0x030030 then some ((key - 0x030020) / 4) else none

/-- The object is a setting of the runner buckets, which act from the boundary on (07 R225, R226). -/
def runnerSetting (key : Nat) : Bool := key == Obj.runnerRate.key || key == Obj.runnerBurst.key

/-- The object is a binding: its VF. -/
def bindingOf (key : Nat) : Option (Fin 64) :=
  if h : 0x0B0011 ≤ key ∧ key < 0x0B0051 then some ⟨key - 0x0B0011, by omega⟩ else none

/-- The object is part of a lease: its pitch. -/
def leaseOf (key : Nat) : Option Nat :=
  if 0x2000 ≤ key / 256 ∧ (key % 256 = 0x60 ∨ key % 256 = 0x61) then some (key / 256 - 0x2000) else none

/-- A write waits on: the output's pulse is in progress (02 R67). -/
def State.pulseHolds (s : State) (key : Nat) : Bool :=
  match pulseOf key with
  | some k => (s.pulse k).active
  | none => false

/-- Writes whose rule names the boundary take effect (02 R67; 07 R223, R226, R230, R231; 15 R481; 18 R551). -/
def State.applyStaged (s : State) : State :=
  let (later, now) := s.dict.staged.partition fun w => s.pulseHolds w.1
  let s := { s with dict := { s.dict with staged := later } }
  let s := (now.filterMap fun w => meteredBucket w.1).eraseDups.foldl (fun s b => s.settleBucket b.1 b.2) s
  let s := s.when (now.any fun w => runnerSetting w.1) fun s => s.each (upTo 1024) State.runnerFill
  let s := now.foldl (fun s w => s.putKey w.1 (pulseWord w.1 w.2)) s
  let s := (now.filterMap fun w => pulseOf w.1).eraseDups.foldl State.pulseProgrammed s
  let s := (now.filterMap fun w => bindingOf w.1).eraseDups.foldl State.rebind s
  (now.filterMap fun w => leaseOf w.1).eraseDups.foldl (fun s p =>
    s.putObj (Obj.leaseGeneration p) ((s.obj (Obj.leaseGeneration p) + 1) % 65536)) s

/-! ### Parts of a boundary -/

/-- Counts that run within one bell start again. -/
def State.newBell (s : State) : State :=
  { s with
    host := { s.host with fired := [] }, coll := { s.coll with refusals := [] }
    switch := { s.switch with easeCount := [] } }

/-- Pending rebuilds of pools at a boundary (06 R208). -/
def State.poolsBoundary (s : State) : State :=
  (s.switch.pools.map (·.1)).foldl (fun s k =>
    (s.rebuildIfEmpty (k / 16) (k % 16)).abandonRebuild (k / 16) (k % 16)) s

/-- Admissions and releases taken at the boundary before, and releases that end (07 R213, R216). -/
def State.pitchesBoundary (s : State) : State :=
  (s.pitches.pitches.map (·.1)).foldl (fun s p => ((s.freePitch p).admitEffect p).releaseEffect p) s

/-- Staged chunks try their sink queues again. -/
def State.retrySinks (s : State) : State :=
  (s.coll.ctxs.filter fun c => c.stage == .staged).foldl (fun s c => s.trySink c) s

/-- Declared power of a load step, mW (15 R473). -/
def State.stepMw (s : State) (x : LoadStep) : Nat :=
  match x with
  | .engine _ _ => 12000
  | .lasers _ => 4000
  | .laser _ _ => 1000
  | .ring _ => 500
  | .selfTest _ => 8200
  | .package t => match (s.stall t).test with
    | some y => s.packageStep y.package
    | none => 0

/-- A waiting load step goes on, if what it starts still wants it. -/
def State.runStep (s : State) (x : LoadStep) : State :=
  match x with
  | .engine _ _ | .ring _ => (s.askTally x (s.stepMw x)).1
  | .lasers e => s.packStage e
  | .laser e k => s.lightSpare e k
  | .selfTest t => s.startSelfTest t
  | .package t => s.startTest t

/-- Waiting load steps, in arrival order, as far as the tally of this bell admits them (15 R474). -/
def State.serveTally (s : State) : Nat → State
  | 0 => s
  | fuel + 1 => match s.warden.queue with
    | [] => s
    | x :: _ => if s.tallyAdmits (s.stepMw x) then ((s.runStep x).dropSteps (· == x)).serveTally fuel else s

/-- Steps 1 to 4 of 01 R33: bank, home map, lanes and wavelengths, budgets. -/
def State.stepsEarly (s : State) : State :=
  let s := s.tallyBoundary.bankSwitch.guardEnds
  let s := s.stallsBoundary
  let s := s.remapsDue.opticsBoundary.mapOutsDue.portBoundaries
  let s := s.applyBudget
  (s.serveTally s.warden.queue.length).applyStaged.refillTanks.refillArrays

/-- Step 5: what is due, then the slots. -/
def State.stepCommands (s : State) : State :=
  let s := s.pitchesBoundary
  let s := (s.coll.groups.map (·.1)).foldl State.groupFree s
  s.actDue.takeSlots

/-- Step 6: the ledger, then the counter writes that follow its snapshot. -/
def State.stepLedger (s : State) : State := (s.ledgerBoundary.applyCounterWrites).countAll 0x001 1

/-- Step 7: the bell counts of collectives advance. -/
def State.stepCounts (s : State) : State :=
  let s := s.freeEntries.pushEnds.applyAborts
  s.deadlines.keptEnds.barrierDeadlines.roundDeadlines

/-- What else a new bell brings: comparisons, sinks, service, pools, arrays, buckets, streams, threads. -/
def State.stepRest (s : State) : State :=
  let s := s.comparedAll.retrySinks.serviceBoundary.poolsBoundary.arraysBoundary
  s.redivideAll.streamCheckpoints.wakeAll.deliverAll.pump

/-- A boundary rings. -/
def State.ringBell (s : State) : State :=
  let s := ((upTo 4).foldl State.pulseBoundary s.ringTime).newBell.sampleQueues.arriveDone
  s.stepsEarly.stepCommands.stepLedger.stepCounts.stepRest

/-- BELL_BOUNDARY (01 R33). -/
def execBellBoundary (s : State) : Result := .next (if s.dieRunning then s.ringBell else s)

/-- STEP_APPLY (02 R54): the boundary at which a permitted step is applied. -/
def execStepApply (s : State) : Result :=
  .next (if s.dieRunning && s.time.pendingStep.isSome && s.time.stepPermitted then s.ringBell else s)

/-- TB0_SWITCH (02 R59): the boundary at which bells go over to TB0. -/
def execTb0Switch (s : State) : Result := .next (if s.dieRunning && s.switchDue then s.ringBell else s)

end Sys2Proof.Machine
end

