-- ==== Sys2Proof/Machine/Dispatch.lean ====
section
/-! DEFINITION. The dispatch of the commands: one arm per row of the table of commands. -/

namespace Sys2Proof.Machine

/-- The command's effect on everything but the queue. -/
def exec (i : Instr) (s : State) : Host.Outcome State Fault Refusal :=
  match i with
  | .standbyPowerUp => Sys2Proof.Machine.execStandbyPowerUp s
  | .strapSampling samples => Sys2Proof.Machine.execStrapSampling samples s
  | .standbyLoss => Sys2Proof.Machine.execStandbyLoss s
  | .startConditionsMet vinMv seated => Sys2Proof.Machine.execStartConditionsMet vinMv seated s
  | .prechargeComplete => Sys2Proof.Machine.execPrechargeComplete s
  | .railsUp => Sys2Proof.Machine.execRailsUp s
  | .undervoltage vinMv => Sys2Proof.Machine.execUndervoltage vinMv s
  | .overvoltage vinMv => Sys2Proof.Machine.execOvervoltage vinMv s
  | .bladeSeatBreak => Sys2Proof.Machine.execBladeSeatBreak s
  | .railFault rail atMs => Sys2Proof.Machine.execRailFault rail atMs s
  | .thermalTrip t milliC atMs => Sys2Proof.Machine.execThermalTrip t milliC atMs s
  | .powerRestart r word => Sys2Proof.Machine.execPowerRestart r word s
  | .rstNAssert => Sys2Proof.Machine.execRstNAssert s
  | .rstNRelease => Sys2Proof.Machine.execRstNRelease s
  | .dieRelease => Sys2Proof.Machine.execDieRelease s
  | .memoryReady => Sys2Proof.Machine.execMemoryReady s
  | .bootBundleLoaded fetched => Sys2Proof.Machine.execBootBundleLoaded fetched s
  | .bootListReady r word => Sys2Proof.Machine.execBootListReady r word s
  | .bootWaitExpiry => Sys2Proof.Machine.execBootWaitExpiry s
  | .engineStartDone group => Sys2Proof.Machine.execEngineStartDone group s
  | .ptpMessage port msg stamp => Sys2Proof.Machine.execPtpMessage port msg stamp s
  | .announceTimeout => Sys2Proof.Machine.execAnnounceTimeout s
  | .holdoverExceeded => Sys2Proof.Machine.execHoldoverExceeded s
  | .stepPermit r word => Sys2Proof.Machine.execStepPermit r word s
  | .stepApply => Sys2Proof.Machine.execStepApply s
  | .tb2NowWrite r value => Sys2Proof.Machine.execTb2NowWrite r value s
  | .tb2RateWrite r word => Sys2Proof.Machine.execTb2RateWrite r word s
  | .bellBoundary => Sys2Proof.Machine.execBellBoundary s
  | .tb0Switch => Sys2Proof.Machine.execTb0Switch s
  | .pulseFire k => Sys2Proof.Machine.execPulseFire k s
  | .pulseProgramWrite r k field value => Sys2Proof.Machine.execPulseProgramWrite r k field value s
  | .tinEdge j => Sys2Proof.Machine.execTinEdge j s
  | .tinCaptureRead r j => Sys2Proof.Machine.execTinCaptureRead r j s
  | .packInsert e ident => Sys2Proof.Machine.execPackInsert e ident s
  | .packStartStage e => Sys2Proof.Machine.execPackStartStage e s
  | .packPrepare r e => Sys2Proof.Machine.execPackPrepare r e s
  | .packPrepareDrainEnd e => Sys2Proof.Machine.execPackPrepareDrainEnd e s
  | .packCancelPrepare r e => Sys2Proof.Machine.execPackCancelPrepare r e s
  | .packRestart r e => Sys2Proof.Machine.execPackRestart r e s
  | .packPull e => Sys2Proof.Machine.execPackPull e s
  | .preparedPackRemoval e => Sys2Proof.Machine.execPreparedPackRemoval e s
  | .lossOfLight t => Sys2Proof.Machine.execLossOfLight t s
  | .probeBurst t => Sys2Proof.Machine.execProbeBurst t s
  | .lightRestored t => Sys2Proof.Machine.execLightRestored t s
  | .fadeWindow e k mean => Sys2Proof.Machine.execFadeWindow e k mean s
  | .suddenLaserLoss e k => Sys2Proof.Machine.execSuddenLaserLoss e k s
  | .fadeSpareReady e k => Sys2Proof.Machine.execFadeSpareReady e k s
  | .fadeMoveRetry t home => Sys2Proof.Machine.execFadeMoveRetry t home s
  | .movePropose p msg locked => Sys2Proof.Machine.execMovePropose p msg locked s
  | .moveAccept p msg => Sys2Proof.Machine.execMoveAccept p msg s
  | .moveRefuse p msg => Sys2Proof.Machine.execMoveRefuse p msg s
  | .moveCancel p msg => Sys2Proof.Machine.execMoveCancel p msg s
  | .moveAnswerTimeout t rx home => Sys2Proof.Machine.execMoveAnswerTimeout t rx home s
  | .moveReadinessCheck t rx home ready => Sys2Proof.Machine.execMoveReadinessCheck t rx home ready s
  | .moveSwitch t rx home => Sys2Proof.Machine.execMoveSwitch t rx home s
  | .oldCarrierStop t rx home => Sys2Proof.Machine.execOldCarrierStop t rx home s
  | .calSlotStart t rx => Sys2Proof.Machine.execCalSlotStart t rx s
  | .calDwellEnd t rx => Sys2Proof.Machine.execCalDwellEnd t rx s
  | .ringExcursion e => Sys2Proof.Machine.execRingExcursion e s
  | .slewHalvingEnd e => Sys2Proof.Machine.execSlewHalvingEnd e s
  | .thoroughfareEffect e entry => Sys2Proof.Machine.execThoroughfareEffect e entry s
  | .trainingFrame t lane inward control => Sys2Proof.Machine.execTrainingFrame t lane inward control s
  | .laneTrainingDone t lane inward merit => Sys2Proof.Machine.execLaneTrainingDone t lane inward merit s
  | .spareMeritCheck t lane inward merit retrained => Sys2Proof.Machine.execSpareMeritCheck t lane inward merit retrained s
  | .lowMeritDetected t lane inward merit => Sys2Proof.Machine.execLowMeritDetected t lane inward merit s
  | .remapStart p inward => Sys2Proof.Machine.execRemapStart p inward s
  | .remapReadinessCheck p inward locked => Sys2Proof.Machine.execRemapReadinessCheck p inward locked s
  | .remapSwitch p inward => Sys2Proof.Machine.execRemapSwitch p inward s
  | .oldLaneIdle p inward merit => Sys2Proof.Machine.execOldLaneIdle p inward merit s
  | .opticalLock p => Sys2Proof.Machine.execOpticalLock p s
  | .linkInit p => Sys2Proof.Machine.execLinkInit p s
  | .identityFrame p payload => Sys2Proof.Machine.execIdentityFrame p payload s
  | .linkUnitReceive p u => Sys2Proof.Machine.execLinkUnitReceive p u s
  | .linkUnitSend p => Sys2Proof.Machine.execLinkUnitSend p s
  | .replayLimitReached p => Sys2Proof.Machine.execReplayLimitReached p s
  | .fecUncorrectableLimit p => Sys2Proof.Machine.execFecUncorrectableLimit p s
  | .amLockLoss p => Sys2Proof.Machine.execAmLockLoss p s
  | .retrainRequest p => Sys2Proof.Machine.execRetrainRequest p s
  | .retrain r p word => Sys2Proof.Machine.execRetrain r p word s
  | .retrainComplete p => Sys2Proof.Machine.execRetrainComplete p s
  | .retrainTimeout p => Sys2Proof.Machine.execRetrainTimeout p s
  | .expectedPeerWrite r p word => Sys2Proof.Machine.execExpectedPeerWrite r p word s
  | .widthWrite r p word => Sys2Proof.Machine.execWidthWrite r p word s
  | .widthChangeEffect p => Sys2Proof.Machine.execWidthChangeEffect p s
  | .ingressFrame p => Sys2Proof.Machine.execIngressFrame p s
  | .cellSlot => Sys2Proof.Machine.execCellSlot s
  | .columnDrain o => Sys2Proof.Machine.execColumnDrain o s
  | .resteerFrame o flight => Sys2Proof.Machine.execResteerFrame o flight s
  | .easeReceived source payload => Sys2Proof.Machine.execEaseReceived source payload s
  | .easeHoldEnd leaf => Sys2Proof.Machine.execEaseHoldEnd leaf s
  | .policerRelease t pitch vc => Sys2Proof.Machine.execPolicerRelease t pitch vc s
  | .guardFlowRelease t flow => Sys2Proof.Machine.execGuardFlowRelease t flow s
  | .drainGuardEnd => Sys2Proof.Machine.execDrainGuardEnd s
  | .bankReadinessCheck => Sys2Proof.Machine.execBankReadinessCheck s
  | .bankSwitch => Sys2Proof.Machine.execBankSwitch s
  | .poolRebuild r t word => Sys2Proof.Machine.execPoolRebuild r t word s
  | .poolRebuildDone t k => Sys2Proof.Machine.execPoolRebuildDone t k s
  | .poolRebuildAbandon t k => Sys2Proof.Machine.execPoolRebuildAbandon t k s
  | .admissionEffect pitch => Sys2Proof.Machine.execAdmissionEffect pitch s
  | .releaseEffect pitch => Sys2Proof.Machine.execReleaseEffect pitch s
  | .pitchFree pitch => Sys2Proof.Machine.execPitchFree pitch s
  | .serviceLookup t => Sys2Proof.Machine.execServiceLookup t s
  | .probeReturn t entry => Sys2Proof.Machine.execProbeReturn t entry s
  | .chipTableInsert t => Sys2Proof.Machine.execChipTableInsert t s
  | .stampWriteback t pitch mac => Sys2Proof.Machine.execStampWriteback t pitch mac s
  | .segLock r word => Sys2Proof.Machine.execSegLock r word s
  | .segRelease r word => Sys2Proof.Machine.execSegRelease r word s
  | .segLockExpiry seg => Sys2Proof.Machine.execSegLockExpiry seg s
  | .groupOpenAtG g => Sys2Proof.Machine.execGroupOpenAtG g s
  | .groupClosingAtC g => Sys2Proof.Machine.execGroupClosingAtC g s
  | .groupFree g => Sys2Proof.Machine.execGroupFree g s
  | .groupOpenFrame t => Sys2Proof.Machine.execGroupOpenFrame t s
  | .barrierDeadline g seq => Sys2Proof.Machine.execBarrierDeadline g seq s
  | .doneIncrement g seq => Sys2Proof.Machine.execDoneIncrement g seq s
  | .tillIntake t => Sys2Proof.Machine.execTillIntake t s
  | .outputPassEnd g seq chunk => Sys2Proof.Machine.execOutputPassEnd g seq chunk s
  | .sinkPost g seq chunk => Sys2Proof.Machine.execSinkPost g seq chunk s
  | .receiptDeadline g seq chunk => Sys2Proof.Machine.execReceiptDeadline g seq chunk s
  | .lateWindowEnd record => Sys2Proof.Machine.execLateWindowEnd record s
  | .keptPartialRelease record => Sys2Proof.Machine.execKeptPartialRelease record s
  | .abortFrame t => Sys2Proof.Machine.execAbortFrame t s
  | .abortApply g seq => Sys2Proof.Machine.execAbortApply g seq s
  | .runnerFrame p => Sys2Proof.Machine.execRunnerFrame p s
  | .runnerWaitResume p => Sys2Proof.Machine.execRunnerWaitResume p s
  | .runnerDue g seq => Sys2Proof.Machine.execRunnerDue g seq s
  | .runnerPatienceEnd g seq => Sys2Proof.Machine.execRunnerPatienceEnd g seq s
  | .heartbeatSend => Sys2Proof.Machine.execHeartbeatSend s
  | .heartbeatReceive p => Sys2Proof.Machine.execHeartbeatReceive p s
  | .startThreadsEffect run => Sys2Proof.Machine.execStartThreadsEffect run s
  | .stopThreadsEffect run => Sys2Proof.Machine.execStopThreadsEffect run s
  | .threadAdmission t => Sys2Proof.Machine.execThreadAdmission t s
  | .segWatchdog t n => Sys2Proof.Machine.execSegWatchdog t n s
  | .takeClaim t n => Sys2Proof.Machine.execTakeClaim t n s
  | .bellwWake t n => Sys2Proof.Machine.execBellwWake t n s
  | .waitmWake t n => Sys2Proof.Machine.execWaitmWake t n s
  | .bmovComplete t n => Sys2Proof.Machine.execBmovComplete t n s
  | .stallTakeOut t => Sys2Proof.Machine.execStallTakeOut t s
  | .stallReturn t => Sys2Proof.Machine.execStallReturn t s
  | .ueNop t n f => Sys2Proof.Machine.execUeNop t n f s
  | .ueAdd t n f => Sys2Proof.Machine.execUeAdd t n f s
  | .ueSub t n f => Sys2Proof.Machine.execUeSub t n f s
  | .ueMul t n f => Sys2Proof.Machine.execUeMul t n f s
  | .ueDivu t n f => Sys2Proof.Machine.execUeDivu t n f s
  | .ueRemu t n f => Sys2Proof.Machine.execUeRemu t n f s
  | .ueAnd t n f => Sys2Proof.Machine.execUeAnd t n f s
  | .ueOr t n f => Sys2Proof.Machine.execUeOr t n f s
  | .ueXor t n f => Sys2Proof.Machine.execUeXor t n f s
  | .ueShl t n f => Sys2Proof.Machine.execUeShl t n f s
  | .ueShr t n f => Sys2Proof.Machine.execUeShr t n f s
  | .ueSra t n f => Sys2Proof.Machine.execUeSra t n f s
  | .ueAddi t n f => Sys2Proof.Machine.execUeAddi t n f s
  | .ueAndi t n f => Sys2Proof.Machine.execUeAndi t n f s
  | .ueLdi t n f => Sys2Proof.Machine.execUeLdi t n f s
  | .ueLhi t n f => Sys2Proof.Machine.execUeLhi t n f s
  | .ueSlt t n f => Sys2Proof.Machine.execUeSlt t n f s
  | .ueSltu t n f => Sys2Proof.Machine.execUeSltu t n f s
  | .ueMin t n f => Sys2Proof.Machine.execUeMin t n f s
  | .ueMax t n f => Sys2Proof.Machine.execUeMax t n f s
  | .ueFadd t n f => Sys2Proof.Machine.execUeFadd t n f s
  | .ueFsub t n f => Sys2Proof.Machine.execUeFsub t n f s
  | .ueFmul t n f => Sys2Proof.Machine.execUeFmul t n f s
  | .ueFfma t n f => Sys2Proof.Machine.execUeFfma t n f s
  | .ueFdiv t n f => Sys2Proof.Machine.execUeFdiv t n f s
  | .ueFsqrt t n f => Sys2Proof.Machine.execUeFsqrt t n f s
  | .ueFcvt t n f => Sys2Proof.Machine.execUeFcvt t n f s
  | .ueFlt t n f => Sys2Proof.Machine.execUeFlt t n f s
  | .ueCsrr t n f => Sys2Proof.Machine.execUeCsrr t n f s
  | .ueBr t n f => Sys2Proof.Machine.execUeBr t n f s
  | .ueJal t n f => Sys2Proof.Machine.execUeJal t n f s
  | .ueJr t n f => Sys2Proof.Machine.execUeJr t n f s
  | .ueVadd t n f => Sys2Proof.Machine.execUeVadd t n f s
  | .ueVsub t n f => Sys2Proof.Machine.execUeVsub t n f s
  | .ueVmul t n f => Sys2Proof.Machine.execUeVmul t n f s
  | .ueVfma t n f => Sys2Proof.Machine.execUeVfma t n f s
  | .ueVfnma t n f => Sys2Proof.Machine.execUeVfnma t n f s
  | .ueVmin t n f => Sys2Proof.Machine.execUeVmin t n f s
  | .ueVmax t n f => Sys2Proof.Machine.execUeVmax t n f s
  | .ueVdiv t n f => Sys2Proof.Machine.execUeVdiv t n f s
  | .ueVsqrt t n f => Sys2Proof.Machine.execUeVsqrt t n f s
  | .ueVrcp t n f => Sys2Proof.Machine.execUeVrcp t n f s
  | .ueVrsqrt t n f => Sys2Proof.Machine.execUeVrsqrt t n f s
  | .ueVabs t n f => Sys2Proof.Machine.execUeVabs t n f s
  | .ueVneg t n f => Sys2Proof.Machine.execUeVneg t n f s
  | .ueVfcmp t n f => Sys2Proof.Machine.execUeVfcmp t n f s
  | .ueVsel t n f => Sys2Proof.Machine.execUeVsel t n f s
  | .ueVcvt t n f => Sys2Proof.Machine.execUeVcvt t n f s
  | .ueVred t n f => Sys2Proof.Machine.execUeVred t n f s
  | .ueMmov t n f => Sys2Proof.Machine.execUeMmov t n f s
  | .ueViadd t n f => Sys2Proof.Machine.execUeViadd t n f s
  | .ueVisub t n f => Sys2Proof.Machine.execUeVisub t n f s
  | .ueVimul t n f => Sys2Proof.Machine.execUeVimul t n f s
  | .ueVand t n f => Sys2Proof.Machine.execUeVand t n f s
  | .ueVor t n f => Sys2Proof.Machine.execUeVor t n f s
  | .ueVxor t n f => Sys2Proof.Machine.execUeVxor t n f s
  | .ueVshl t n f => Sys2Proof.Machine.execUeVshl t n f s
  | .ueVshr t n f => Sys2Proof.Machine.execUeVshr t n f s
  | .ueVimin t n f => Sys2Proof.Machine.execUeVimin t n f s
  | .ueVimax t n f => Sys2Proof.Machine.execUeVimax t n f s
  | .ueVicmp t n f => Sys2Proof.Machine.execUeVicmp t n f s
  | .ueVlane t n f => Sys2Proof.Machine.execUeVlane t n f s
  | .ueVbcast t n f => Sys2Proof.Machine.execUeVbcast t n f s
  | .ueVext t n f => Sys2Proof.Machine.execUeVext t n f s
  | .ueVins t n f => Sys2Proof.Machine.execUeVins t n f s
  | .ueVperm t n f => Sys2Proof.Machine.execUeVperm t n f s
  | .ueLd t n f => Sys2Proof.Machine.execUeLd t n f s
  | .ueSt t n f => Sys2Proof.Machine.execUeSt t n f s
  | .ueVld t n f => Sys2Proof.Machine.execUeVld t n f s
  | .ueVldx t n f => Sys2Proof.Machine.execUeVldx t n f s
  | .ueVst t n f => Sys2Proof.Machine.execUeVst t n f s
  | .ueVlds t n f => Sys2Proof.Machine.execUeVlds t n f s
  | .ueVsts t n f => Sys2Proof.Machine.execUeVsts t n f s
  | .ueVgather t n f => Sys2Proof.Machine.execUeVgather t n f s
  | .ueVscatter t n f => Sys2Proof.Machine.execUeVscatter t n f s
  | .ueBmov t n f => Sys2Proof.Machine.execUeBmov t n f s
  | .ueAadd t n f => Sys2Proof.Machine.execUeAadd t n f s
  | .ueAmin t n f => Sys2Proof.Machine.execUeAmin t n f s
  | .ueAmax t n f => Sys2Proof.Machine.execUeAmax t n f s
  | .ueAswp t n f => Sys2Proof.Machine.execUeAswp t n f s
  | .ueAcas t n f => Sys2Proof.Machine.execUeAcas t n f s
  | .ueVaadd t n f => Sys2Proof.Machine.execUeVaadd t n f s
  | .ueFence t n f => Sys2Proof.Machine.execUeFence t n f s
  | .ueTsync t n f => Sys2Proof.Machine.execUeTsync t n f s
  | .ueBellw t n f nj => Sys2Proof.Machine.execUeBellw t n f nj s
  | .ueWaitm t n f nj => Sys2Proof.Machine.execUeWaitm t n f nj s
  | .ueYield t n f nj => Sys2Proof.Machine.execUeYield t n f nj s
  | .ueKwait t n f => Sys2Proof.Machine.execUeKwait t n f s
  | .ueEnd t n f nj => Sys2Proof.Machine.execUeEnd t n f nj s
  | .ueTake t n f nj => Sys2Proof.Machine.execUeTake t n f nj s
  | .ueTpoll t n f => Sys2Proof.Machine.execUeTpoll t n f s
  | .ueGive t n f => Sys2Proof.Machine.execUeGive t n f s
  | .ueOutbuf t n f => Sys2Proof.Machine.execUeOutbuf t n f s
  | .ueMcast t n f => Sys2Proof.Machine.execUeMcast t n f s
  | .ueRcpt t n f => Sys2Proof.Machine.execUeRcpt t n f s
  | .ueMxi t n f => Sys2Proof.Machine.execUeMxi t n f s
  | .descriptorAdmit t => Sys2Proof.Machine.execDescriptorAdmit t s
  | .descriptorStart t slot => Sys2Proof.Machine.execDescriptorStart t slot s
  | .descriptorComplete t slot bubbles upset => Sys2Proof.Machine.execDescriptorComplete t slot bubbles upset s
  | .arrayResidueMismatch t q => Sys2Proof.Machine.execArrayResidueMismatch t q s
  | .arraySelfTestStart t => Sys2Proof.Machine.execArraySelfTestStart t s
  | .arraySelfTestEnd t pass => Sys2Proof.Machine.execArraySelfTestEnd t pass s
  | .scrubPass c corrected bad => Sys2Proof.Machine.execScrubPass c corrected bad s
  | .rowRepair c row bad => Sys2Proof.Machine.execRowRepair c row bad s
  | .channelNoAnswer c => Sys2Proof.Machine.execChannelNoAnswer c s
  | .mapOutStart c => Sys2Proof.Machine.execMapOutStart c s
  | .mapOutCopyEnd c bad => Sys2Proof.Machine.execMapOutCopyEnd c bad s
  | .channelMappedOut c => Sys2Proof.Machine.execChannelMappedOut c s
  | .stackTempReading q milliC atMs => Sys2Proof.Machine.execStackTempReading q milliC atMs s
  | .stagingBacklogSample t bytes => Sys2Proof.Machine.execStagingBacklogSample t bytes s
  | .custodyHello msg => Sys2Proof.Machine.execCustodyHello msg s
  | .helloTimeout pair => Sys2Proof.Machine.execHelloTimeout pair s
  | .custodyClose msg => Sys2Proof.Machine.execCustodyClose msg s
  | .closeWaitExpiry pair => Sys2Proof.Machine.execCloseWaitExpiry pair s
  | .rangeDigestDone pair range => Sys2Proof.Machine.execRangeDigestDone pair range s
  | .custodyDigest msg => Sys2Proof.Machine.execCustodyDigest msg s
  | .custodyCompared msg => Sys2Proof.Machine.execCustodyCompared msg s
  | .digestResend pair => Sys2Proof.Machine.execDigestResend pair s
  | .comparisonLate pair => Sys2Proof.Machine.execComparisonLate pair s
  | .restoreComplete pair => Sys2Proof.Machine.execRestoreComplete pair s
  | .resyncData msg => Sys2Proof.Machine.execResyncData msg s
  | .resyncAck msg => Sys2Proof.Machine.execResyncAck msg s
  | .resyncRangeTimeout pair => Sys2Proof.Machine.execResyncRangeTimeout pair s
  | .partnerTimeout pair => Sys2Proof.Machine.execPartnerTimeout pair s
  | .takeOverEffect pair => Sys2Proof.Machine.execTakeOverEffect pair s
  | .testQuietStart t => Sys2Proof.Machine.execTestQuietStart t s
  | .testEnd t pass code centiC => Sys2Proof.Machine.execTestEnd t pass code centiC s
  | .testWaitExpiry t => Sys2Proof.Machine.execTestWaitExpiry t s
  | .bandEntry t milliC => Sys2Proof.Machine.execBandEntry t milliC s
  | .bandExit t milliC => Sys2Proof.Machine.execBandExit t milliC s
  | .wardenDecision sweep => Sys2Proof.Machine.execWardenDecision sweep s
  | .decisionOverrun => Sys2Proof.Machine.execDecisionOverrun s
  | .thermalReading t milliC rise => Sys2Proof.Machine.execThermalReading t milliC rise s
  | .level2Throttle t milliC => Sys2Proof.Machine.execLevel2Throttle t milliC s
  | .thermalLevelExit t => Sys2Proof.Machine.execThermalLevelExit t s
  | .holdSettleExpiry t => Sys2Proof.Machine.execHoldSettleExpiry t s
  | .ledgerBoundary => Sys2Proof.Machine.execLedgerBoundary s
  | .ledgerEntryWritten => Sys2Proof.Machine.execLedgerEntryWritten s
  | .ledgerEnable r word => Sys2Proof.Machine.execLedgerEnable r word s
  | .counterControlWrite r index sub value => Sys2Proof.Machine.execCounterControlWrite r index sub value s
  | .instructionSample t n rec => Sys2Proof.Machine.execInstructionSample t n rec s
  | .packetSample p rec => Sys2Proof.Machine.execPacketSample p rec s
  | .registerWrite a index sub word => Sys2Proof.Machine.execRegisterWrite a index sub word s
  | .longObjectRead a index sub => Sys2Proof.Machine.execLongObjectRead a index sub s
  | .longObjectWrite r index sub word => Sys2Proof.Machine.execLongObjectWrite r index sub word s
  | .tableTransferStart r index sub word => Sys2Proof.Machine.execTableTransferStart r index sub word s
  | .tableTransferEnd r data hostError => Sys2Proof.Machine.execTableTransferEnd r data hostError s
  | .dictionaryMessage route bytes => Sys2Proof.Machine.execDictionaryMessage route bytes s
  | .i3cPrivateWrite bytes => Sys2Proof.Machine.execI3cPrivateWrite bytes s
  | .eventTailWrite r word => Sys2Proof.Machine.execEventTailWrite r word s
  | .slotClaim r k token => Sys2Proof.Machine.execSlotClaim r k token s
  | .slotFree r k => Sys2Proof.Machine.execSlotFree r k s
  | .slotSubmit r k => Sys2Proof.Machine.execSlotSubmit r k s
  | .slotWithdraw r k => Sys2Proof.Machine.execSlotWithdraw r k s
  | .slotIdleTimeout k => Sys2Proof.Machine.execSlotIdleTimeout k s
  | .admitPitch k => Sys2Proof.Machine.execAdmitPitch k s
  | .releasePitch k => Sys2Proof.Machine.execReleasePitch k s
  | .openGroup k => Sys2Proof.Machine.execOpenGroup k s
  | .closeGroup k => Sys2Proof.Machine.execCloseGroup k s
  | .startThreads k => Sys2Proof.Machine.execStartThreads k s
  | .stopThreads k => Sys2Proof.Machine.execStopThreads k s
  | .loadBundle k => Sys2Proof.Machine.execLoadBundle k s
  | .bundleVerified token fetched => Sys2Proof.Machine.execBundleVerified token fetched s
  | .runTest k => Sys2Proof.Machine.execRunTest k s
  | .fenceStall k => Sys2Proof.Machine.execFenceStall k s
  | .sublet k => Sys2Proof.Machine.execSublet k s
  | .remapLane k => Sys2Proof.Machine.execRemapLane k s
  | .setThoroughfare k => Sys2Proof.Machine.execSetThoroughfare k s
  | .mapOutChannel k => Sys2Proof.Machine.execMapOutChannel k s
  | .switchTableBank k => Sys2Proof.Machine.execSwitchTableBank k s
  | .pairCustody k => Sys2Proof.Machine.execPairCustody k s
  | .takeOver k => Sys2Proof.Machine.execTakeOver k s
  | .resync k => Sys2Proof.Machine.execResync k s
  | .checkpoint k => Sys2Proof.Machine.execCheckpoint k s
  | .checkpointEnd token hostError => Sys2Proof.Machine.execCheckpointEnd token hostError s
  | .cancel k => Sys2Proof.Machine.execCancel k s
  | .storeCommit r word => Sys2Proof.Machine.execStoreCommit r word s
  | .storeCommitDone entry => Sys2Proof.Machine.execStoreCommitDone entry s
  | .storeDelete r word => Sys2Proof.Machine.execStoreDelete r word s
  | .keyWrite r operator key => Sys2Proof.Machine.execKeyWrite r operator key s
  | .attestNonce r nonce => Sys2Proof.Machine.execAttestNonce r nonce s
  | .attestReportReady => Sys2Proof.Machine.execAttestReportReady s
  | .leaseWrite r pitch count word => Sys2Proof.Machine.execLeaseWrite r pitch count word s
  | .vfBindingWrite r v word => Sys2Proof.Machine.execVfBindingWrite r v word s
  | .pcieLinkTraining partnerMax eqFailed lanes => Sys2Proof.Machine.execPcieLinkTraining partnerMax eqFailed lanes s
  | .pciePerstAssert => Sys2Proof.Machine.execPciePerstAssert s
  | .dmaCompletion req status data => Sys2Proof.Machine.execDmaCompletion req status data s
  | .completionTimeout req => Sys2Proof.Machine.execCompletionTimeout req s
  | .managementDomainReady => Sys2Proof.Machine.execManagementDomainReady s
  | .ptpTransmit port kind => Sys2Proof.Machine.execPtpTransmit port kind s
  | .pulseWidthEnd k => Sys2Proof.Machine.execPulseWidthEnd k s
  | .thoroughfareReadinessCheck e entry tuned => Sys2Proof.Machine.execThoroughfareReadinessCheck e entry tuned s
  | .correctedErrorEntryDrop c row => Sys2Proof.Machine.execCorrectedErrorEntryDrop c row s
  | .ditherLoopFastEnd e => Sys2Proof.Machine.execDitherLoopFastEnd e s
  | .pcieLinkDown => Sys2Proof.Machine.execPcieLinkDown s
  | .pcieConfigWrite field => Sys2Proof.Machine.execPcieConfigWrite field s
  | .entdaa addr => Sys2Proof.Machine.execEntdaa addr s

end Sys2Proof.Machine
end

