-- ==== Sys2Proof/Safety.lean ====
section
/-! DEFINITION. What counts as a safe run: which parts of the state a command may change, and the invariants
that every step keeps. -/

namespace Sys2Proof

open Machine

/-- The parts of the module's state. -/
inductive Part where
  | objs | power | time | optics | lanes | remaps | ports | switch | pitches | service | coll | update
  | arrays | mem | custody | warden | ledger | dict | host | free | out | pending
  deriving DecidableEq, Repr

/-- A part is the same in two states. -/
def Part.same : Part → State → State → Prop
  | .objs, s, t => t.objs = s.objs
  | .power, s, t => t.power = s.power
  | .time, s, t => t.time = s.time
  | .optics, s, t => t.optics = s.optics
  | .lanes, s, t => t.lanes = s.lanes
  | .remaps, s, t => t.remaps = s.remaps
  | .ports, s, t => t.ports = s.ports
  | .switch, s, t => t.switch = s.switch
  | .pitches, s, t => t.pitches = s.pitches
  | .service, s, t => t.service = s.service
  | .coll, s, t => t.coll = s.coll
  | .update, s, t => t.update = s.update
  | .arrays, s, t => t.arrays = s.arrays
  | .mem, s, t => t.mem = s.mem
  | .custody, s, t => t.custody = s.custody
  | .warden, s, t => t.warden = s.warden
  | .ledger, s, t => t.ledger = s.ledger
  | .dict, s, t => t.dict = s.dict
  | .host, s, t => t.host = s.host
  | .free, s, t => t.free = s.free
  | .out, s, t => t.out = s.out
  | .pending, s, t => t.pending = s.pending

/-- Every part but those named is unchanged. -/
def OnlyTouches (l : List Part) (s t : State) : Prop := ∀ p : Part, p ∉ l → p.same s t

/-- Memory, and the tables that have no device address, are in their canonical form: addresses rising, no byte
listed that reads as an unlisted one does (log 4). -/
structure MemOk (m : MemSt) : Prop where
  cells : Memory.wf m.cells = true
  tables : Memory.wf m.tables = true

/-- The positions of the event ring are positions of its 4096 records (17 R529). -/
structure DictOk (d : DictSt) : Prop where
  head : d.head < 4096
  tail : d.tail < 4096

/-- The fault capsule holds at most 256 entries, at most 64 of them pinned (03 R94). PWR_OK stands only while
the 64 V domain converts with every rail up, and the die is released only then, in BOOTING or SERVICE; the boot is that
of a released die; conversion needs the management domain, and that needs standby (03 R76, R78, R88, R590). -/
structure PowerOk (x : PowerSt) : Prop where
  capsule : x.capsule.length ≤ 256
  pinned : (x.capsule.filter (·.pinned)).length ≤ 64
  converts : x.pwrOk = true → x.converting = true ∧ x.precharged = true ∧ x.railsUp = 0xFFF
  released : x.released = true → x.pwrOk = true ∧ (x.state = .booting ∨ x.state = .service)
  powering : x.state = .powering → x.converting = true
  boots : x.boot ≠ .idle → x.released = true
  converting : x.converting = true → x.mgmtReady = true
  ready : x.mgmtReady = true → x.standby = true

/-- The invariant that every step keeps. -/
structure Inv (s : State) : Prop where
  mem : MemOk s.mem
  dict : DictOk s.dict
  power : PowerOk s.power

/-- If the outcome is a next state, it keeps every part but those named. -/
def StepTouches (l : List Part) (s : State) (r : Result) : Prop := ∀ t, r = .next t → OnlyTouches l s t

/-! ### Accesses to the dictionary, and what a command gives -/

/-- A write of a word object is accepted (17 R513 to R516, R520): the route carries it, the first checks
pass, and the object takes the value. -/
def Accepts (r : Requester) (o : Obj) (v : Nat) (s : State) : Prop :=
  s.reaches r = true ∧ ∃ row, dictRow (o.key / 256) (o.key % 256) = some row
    ∧ row.ty.isTable = false ∧ row.ty.long = false
    ∧ (s.countBar r).precheck r (o.key / 256) (o.key % 256) true = (0, some row)
    ∧ (s.countBar r).writeCode r row (256 * (o.key / 256) + o.key % 256) v = 0

/-- The requester's access status after an accepted access, and the answer to it (17 R520). -/
def answered (r : Requester) (o : Obj) (v : Nat) (s : State) : State :=
  (s.record r (o.key / 256) (o.key % 256) 0).answer v 0

/-- A write of an object's whole value is accepted; a long object's tail stands in the long buffer (17 R509). -/
def AcceptsWhole (r : Requester) (o : Obj) (v : Nat) (s : State) : Prop :=
  s.reaches r = true ∧ ∃ row, dictRow (o.key / 256) (o.key % 256) = some row ∧ row.ty.isTable = false
    ∧ (s.countBar r).precheck r (o.key / 256) (o.key % 256) true = (0, some row)
    ∧ (s.countBar r).writeCode r row (256 * (o.key / 256) + o.key % 256) v = 0

/-- A read of an object passes the checks of an access. -/
def MayRead (r : Requester) (o : Obj) (s : State) : Prop :=
  s.reaches r = true ∧ ∃ row, (s.countBar r).precheck r (o.key / 256) (o.key % 256) false = (0, some row)
    ∧ row.ty.isTable = false

/-- A command answers a next state that changes no part but those named, and of which P holds. -/
def Gives (c : Instr) (s : State) (l : List Part) (P : State → Prop) : Prop :=
  ∃ t, exec c s = .next t ∧ OnlyTouches l s t ∧ P t

/-! ### Update instructions -/

/-- The thread is at an instruction: it runs and waits for nothing, and its fetch lies in its program's image and is clean
(11 R339, R351, R372). -/
def AtInsn (s : State) (t : Stall) (n : ThreadNo) : Prop :=
  let x := s.thread t.val n.val
  x.issues = true ∧ s.fetchOk x = true ∧ s.fetchBad x = false

/-- The thread can issue the instruction: it runs and waits for nothing, its fetch lies in its program's image and
is clean, the word is legal, and the hardware's checks find nothing (11 R339, R351, R359, R371, R372). -/
def CanIssue (s : State) (t : Stall) (n : ThreadNo) (f : InsnFields) (g : Form) : Prop :=
  let x := s.thread t.val n.val
  x.issues = true ∧ s.fetchOk x = true ∧ s.fetchBad x = false ∧ g.ok f = true ∧ f.upset = .none

/-- A command leaves the thread at its next instruction, with registers of which P holds; every other thread is as
before. -/
def Retires (c : Instr) (t : Stall) (n : ThreadNo) (s : State) (l : List Part) (P : Thread → State → Prop) : Prop :=
  Gives c s l fun u => ∃ y : Thread, u.update = (s.setThread t.val n.val y.next).update ∧ P y u

/-- The enabled lanes of a vector register take their values; every other lane and register is as before. -/
def LanesTaken (x y : Thread) (d m : Nat) (op : Nat → Lane) : Prop :=
  y = { x with v := y.v }
  ∧ (∀ i < 32, y.lane d i = if (x.mask m).getLsbD i then op i else x.lane d i)
  ∧ ∀ r i : Nat, r ≠ d → i < 32 → y.lane r i = x.lane r i

/-- A scalar instruction has issued: it is counted, and the window of a sampled run goes on (16 R491, R502). -/
def issued (s : State) (t : Stall) (n : ThreadNo) : State :=
  (s.count t.val 0x300 1 (s.threadAttrs t.val n.val)).windowCount t.val (s.thread t.val n.val).run

/-- What a load of the span reads is defined: the span lies in no staging buffer that the run does not hold (11 R368), and
in no C of a descriptor whose completion no KWAIT has seen (12 R390). -/
def Defined (s : State) (x : Thread) (a n : Nat) : Prop :=
  (s.inPools a = false ∨ s.holds x a n = true) ∧ ∀ i < n, s.inOpenC (a + i) = false

/-- The requests to host memory that wait, oldest first: number, address, bytes and purpose. -/
def asked (h : HostSt) : List (Nat × Nat × Nat × HostUse) := h.reqs.map fun r => (r.id, r.addr, r.bytes, r.use)

/-- Every byte of memory outside the spans reads as before. -/
def OutsideKept (s u : State) (spans : List (Nat × Nat)) : Prop :=
  ∀ k : Nat, (∀ a ∈ spans, k < a.1 ∨ a.1 + a.2 ≤ k) → readCell u.mem.cells k = readCell s.mem.cells k

/-! ### Command slots -/

/-- Firmware has taken a slot: its command has a busy record, and the slot shows it (17 R533, R536). -/
def recorded (s : State) (k : Nat) : State :=
  let r := s.newRecord k (s.slot k)
  ({ s with dict := { s.dict with tokens := s.dict.tokens ++ [r] } } : State).showRecord k r

/-- A slot holds a submitted command of an opcode that passes every check of its intake: class, token,
boundary and arguments (17 R533). -/
def Takes (s : State) (k op : Nat) : Prop :=
  let x := s.slot k
  x.status = .submitted ∧ x.opcode = op ∧ s.power.released = true ∧ opcodeKnown op = true ∧ s.mayCommand x = true
  ∧ s.tokenRec x.token = none ∧ s.dict.tokens.length < 4096
  ∧ (recorded s k).boundaryCase op x.bell = none
  ∧ (recorded s k).commandCase op x.token (s.newRecord k x).effect x.args = none

/-- The command of a token has a status and a code. -/
def Ended (u : State) (token : Nat) (st : SlotStatus) (code : Nat) : Prop :=
  ∃ r, u.tokenRec token = some r ∧ r.status = st ∧ r.code = code

/-- An access is refused: the answer and the requester's access status hold the code, and nothing else of the
machine changes (17 R520). -/
def Rejected (c : Instr) (r : Requester) (s : State) (code : Nat → Prop) : Prop :=
  Gives c s [.ledger, .dict, .out] fun u =>
    code u.out.code ∧ (u.req r).code = u.out.code ∧ u.dict = { s.dict with reqs := u.dict.reqs }
      ∧ (∀ r' : Requester, r' ≠ r → u.req r' = s.req r') ∧ (u.req r).long = (s.req r).long

end Sys2Proof
end

