-- ==== Sys2Proof/WellFormed.lean ====
section
/-! DEFINITION. Which commands are well formed: operands of varying length have the length the manual
gives them, and operands typed as numbers lie in their field. A command that is not well formed names an
event that cannot happen. -/

namespace Sys2Proof

/-- A frame fits the largest payload, 16,384 bytes (05 R144, R162). -/
def RawFrame.wellFormed (f : RawFrame) : Bool := decide (f.payload.length ≤ 16384)

/-- A link unit's frame is well formed. -/
def LinkUnit.wellFormed (u : LinkUnit) : Bool :=
  match u.frame with
  | none => true
  | some f => f.wellFormed

/-- The numbered fields of a PTP message fit their fields (02 R41, R42). -/
def PtpMsg.wellFormed (m : PtpMsg) : Bool :=
  decide (m.domain < 256) && decide (m.seqId < 65536) && decide (m.stepsRemoved < 65536)

/-- A pack's store names a power for each of its 18 lasers (04 R101). -/
def PackIdentity.wellFormed (i : PackIdentity) : Bool := decide (i.refs.length = 18)

/-- A custody message is at most one frame's payload (14 R446). -/
def CustodyMsg.wellFormed (m : CustodyMsg) : Bool := decide (m.body.length ≤ 16384)

/-- A sweep covers seven lines and 64 stalls (15 R462, R464). -/
def Sweep.wellFormed (w : Sweep) : Bool :=
  decide (w.lines.length = 7) && decide (w.ue.length = 64) && decide (w.array.length = 64)
    && decide (w.temps.length = 64)

/-- The command is well formed. -/
def Instr.wellFormed : Instr → Bool
  | .strapSampling samples => decide (samples.length = 8)
  | .ptpMessage _ msg _ => msg.wellFormed
  | .packInsert _ ident => ident.wellFormed
  | .linkUnitReceive _ u => u.wellFormed
  | .custodyHello msg => msg.wellFormed
  | .custodyClose msg => msg.wellFormed
  | .custodyDigest msg => msg.wellFormed
  | .custodyCompared msg => msg.wellFormed
  | .resyncData msg => msg.wellFormed
  | .resyncAck msg => msg.wellFormed
  | .wardenDecision sweep => sweep.wellFormed
  | .dictionaryMessage (.mgmt _) bytes => decide (bytes.length ≤ 1400)
  | .dictionaryMessage (.vc6 _) bytes => decide (bytes.length ≤ 4096)
  | .i3cPrivateWrite bytes => decide (3 ≤ bytes.length) && decide (bytes.length ≤ 2051)
  | .descriptorComplete _ _ bubbles _ => decide (bubbles < 2 ^ 64)
  | _ => true

end Sys2Proof
end

