-- ==== Sys2Proof/Certificates/Slice0/Obligations.lean ====
section
/-! DEFINITION. The statements for the provers. A completion statement says, for each command that it
names, under hypotheses on the state and the operands alone, that the command answers a next state, and
what that state holds; OnlyTouches names the parts of the state that may change, every other part staying as
it was. -/

open Sys2Proof Sys2Proof.Machine

/-! ### The machine as a whole -/

/-- The commands that are update instructions (11 R361 to R370, 12 R382). -/
def Sys2Proof.isUpdateInstr : Instr → Bool
  | .ueNop .. | .ueAdd .. | .ueSub .. | .ueMul .. | .ueDivu .. | .ueRemu .. | .ueAnd .. | .ueOr .. | .ueXor ..
  | .ueShl .. | .ueShr .. | .ueSra .. | .ueAddi .. | .ueAndi .. | .ueLdi .. | .ueLhi .. | .ueSlt ..
  | .ueSltu .. | .ueMin .. | .ueMax .. | .ueFadd .. | .ueFsub .. | .ueFmul .. | .ueFfma .. | .ueFdiv ..
  | .ueFsqrt .. | .ueFcvt .. | .ueFlt .. | .ueCsrr .. | .ueBr .. | .ueJal .. | .ueJr .. | .ueVadd ..
  | .ueVsub .. | .ueVmul .. | .ueVfma .. | .ueVfnma .. | .ueVmin .. | .ueVmax .. | .ueVdiv .. | .ueVsqrt ..
  | .ueVrcp .. | .ueVrsqrt .. | .ueVabs .. | .ueVneg .. | .ueVfcmp .. | .ueVsel .. | .ueVcvt .. | .ueVred ..
  | .ueMmov .. | .ueViadd .. | .ueVisub .. | .ueVimul .. | .ueVand .. | .ueVor .. | .ueVxor .. | .ueVshl ..
  | .ueVshr .. | .ueVimin .. | .ueVimax .. | .ueVicmp .. | .ueVlane .. | .ueVbcast .. | .ueVext .. | .ueVins ..
  | .ueVperm .. | .ueLd .. | .ueSt .. | .ueVld .. | .ueVldx .. | .ueVst .. | .ueVlds .. | .ueVsts ..
  | .ueVgather .. | .ueVscatter .. | .ueBmov .. | .ueAadd .. | .ueAmin .. | .ueAmax .. | .ueAswp ..
  | .ueAcas .. | .ueVaadd .. | .ueFence .. | .ueTsync .. | .ueBellw .. | .ueWaitm .. | .ueYield ..
  | .ueKwait .. | .ueEnd .. | .ueTake .. | .ueTpoll .. | .ueGive .. | .ueOutbuf .. | .ueMcast .. | .ueRcpt ..
  | .ueMxi .. => true
  | _ => false

/-- The commands of the switch core (06). -/
def Sys2Proof.isForwarding : Instr → Bool
  | .ingressFrame .. | .cellSlot .. | .columnDrain .. | .resteerFrame .. | .easeReceived .. | .easeHoldEnd ..
  | .policerRelease .. | .guardFlowRelease .. | .drainGuardEnd .. | .bankReadinessCheck .. | .bankSwitch .. => true
  | _ => false

/-- The commands of packs, light, moves and calibration (04), the three register writes among them left out. -/
def Sys2Proof.isOptical : Instr → Bool
  | .packInsert .. | .packStartStage .. | .packPrepareDrainEnd .. | .packPull .. | .preparedPackRemoval ..
  | .lossOfLight .. | .probeBurst .. | .lightRestored .. | .fadeWindow .. | .suddenLaserLoss ..
  | .fadeSpareReady .. | .fadeMoveRetry .. | .movePropose .. | .moveAccept .. | .moveRefuse .. | .moveCancel ..
  | .moveAnswerTimeout .. | .moveReadinessCheck .. | .moveSwitch .. | .oldCarrierStop .. | .calSlotStart ..
  | .calDwellEnd .. | .ringExcursion .. | .slewHalvingEnd .. | .thoroughfareEffect .. => true
  | _ => false

/-- A step takes the command at the front of the queue and answers what it answers on the state with the queue's
rest; on an empty queue one core-clock tick passes (the model's choice: log 2). -/
def Obligations.StepRunsTheFrontCommand : Prop :=
  (∀ (c : Instr) (rest : List Instr) (s : State), s.pending = c :: rest →
    step s = exec c { s with pending := rest })
  ∧ (∀ s : State, s.pending = [] → step s = .next s.clockTick)

/-- An access of the vendor class to its own range, which the specification leaves out (00 R11, 17 R513). -/
def Sys2Proof.isVendorPrivate : Instr → Bool
  | .registerWrite ⟨r, _⟩ i _ _ | .longObjectRead ⟨r, _⟩ i _ | .longObjectWrite r i _ _ | .tableTransferStart r i _ _ =>
    vendorRange r i.toNat
  | _ => false

/-- Whatever a command does, it leaves the queue of the commands that wait as it is. In every state every command but an
access of the vendor class to its own range answers a next state; that access stops by name. -/
def Obligations.QueueIsKept : Prop :=
  (∀ (c : Instr) (s t : State), exec c s = .next t → t.pending = s.pending)
  ∧ (∀ (c : Instr) (s : State), isVendorPrivate c = false → ∃ t, exec c s = .next t ∧ t.pending = s.pending)
  ∧ (∀ (c : Instr) (s : State), isVendorPrivate c = true → exec c s = .fault .vendorPrivate)

/-- The state before any supply meets the invariant of Safety.lean. -/
def Obligations.ResetMeetsTheInvariant : Prop := Inv State.reset

/-- From every state that meets the invariant, a step that answers a next state answers one that meets it:
memory and tables stay in canonical form, the event ring's positions stay among its 4096 records, the fault
capsule keeps its bounds of 256 and 64 entries, PWR_OK stands only with every rail up, and the die is released
only while PWR_OK stands. -/
def Obligations.StepKeepsTheInvariant : Prop := ∀ s t : State, Inv s → step s = .next t → Inv t

/-- In canonical memory, the bytes written read back, and every address outside them reads as before; a write
changes memory alone. -/
def Obligations.MemoryReadsWhatWasWritten : Prop :=
  ∀ (a : Nat) (bs : List Byte) (s : State), MemOk s.mem →
    (s.write a bs).read a bs.length = bs
    ∧ (∀ k : Nat, k < a ∨ a + bs.length ≤ k → readCell (s.write a bs).mem.cells k = readCell s.mem.cells k)
    ∧ MemOk (s.write a bs).mem ∧ OnlyTouches [.mem] s (s.write a bs)

/-- Update instructions change neither the supplies, the optics, the lanes, the pitches, the service layer nor the
warden; forwarding commands change none of the supplies, the time bases, the optics, the lanes, the update
engines, the arrays, custody and the warden; the optical commands change neither the supplies, the pitches, the
update engines, the arrays nor custody, and move no time base and no bell. -/
def Obligations.FamiliesAreIsolated : Prop :=
  (∀ (c : Instr) (s : State), isUpdateInstr c = true →
    StepTouches [.objs, .time, .ports, .switch, .coll, .update, .arrays, .mem, .custody, .ledger, .dict, .host,
      .free, .out] s (exec c s))
  ∧ (∀ (c : Instr) (s : State), isForwarding c = true →
    StepTouches [.objs, .ports, .switch, .pitches, .service, .coll, .mem, .ledger, .dict, .host,
      .free] s (exec c s))
  ∧ (∀ (c : Instr) (s : State), isOptical c = true →
    StepTouches [.objs, .time, .optics, .lanes, .remaps, .ports, .switch, .coll, .mem, .warden, .ledger, .dict, .host,
      .free] s (exec c s))
  ∧ (∀ (c : Instr) (s t : State), isOptical c = true → exec c s = .next t →
    t.time.tb0 = s.time.tb0 ∧ t.time.tb1 = s.time.tb1 ∧ t.time.tb2 = s.time.tb2 ∧ t.time.bell = s.time.bell
      ∧ t.time.rung = s.time.rung)

/-! ### What the statements share -/

/-- A capsule entry of a class was written and stands newest (03 R94). -/
def Sys2Proof.Capsuled (cls : Nat) (s t : State) : Prop :=
  ∃ e, t.power.capsule.getLast? = some e ∧ e.cls = cls ∧ e.seq = s.power.capsuleNext
    ∧ t.power.capsuleNext = (s.power.capsuleNext + 1) % 2 ^ 16

/-! ### Supplies, straps and start-up (03) -/

/-- STANDBY_POWER_UP, STRAP_SAMPLING, MANAGEMENT_DOMAIN_READY, START_CONDITIONS_MET, PRECHARGE_COMPLETE and
RAILS_UP lead from no supply to HELD (03 R83, R85, R88, R590), changing nothing else; straps whose samples disagree are
a strap fault, and a shorted rail found in the ramp latches (03 R79, R84). -/
def Obligations.PowerUpReachesHeld : Prop :=
  (∀ s : State, s.power.standby = false →
    exec .standbyPowerUp s = .next { s with power := { s.power with standby := true, state := .standby } })
  ∧ (∀ (x : BitVec 24) (s : State), s.power.standby = true → s.power.strapsSampled = false →
      bits x.toNat 12 3 < 6 → bits x.toNat 18 2 ≠ 3 →
      ∃ t, exec (.strapSampling (List.replicate 8 x)) s = .next t
        ∧ t.power = { s.power with strapsSampled := true, strapRaw := x.toNat }
        ∧ t.obj Obj.plane = x.toNat % 16 ∧ t.obj Obj.pos = x.toNat / 2 ^ 4 % 256
        ∧ t.obj Obj.bellPeriod = bellOfStrap (x.toNat / 2 ^ 12 % 8)
        ∧ t.obj Obj.budgetW = budgetOfStrap (x.toNat / 2 ^ 15 % 8)
        ∧ t.obj Obj.securityMode = x.toNat / 2 ^ 18 % 4 ∧ t.obj Obj.mgmtMode = x.toNat / 2 ^ 20 % 4
        ∧ t.obj Obj.bootSource = x.toNat / 2 ^ 22 % 4
        ∧ { t with power := s.power, objs := s.objs } = s)
  ∧ (∀ s : State, s.power.standby = true → s.power.strapsSampled = true → s.power.mgmtReady = false →
    exec .managementDomainReady s = .next { s with power := { s.power with
      mgmtReady := true
      state := if s.obj Obj.securityMode = 2 then .returnMode else s.power.state } })
  ∧ (∀ (vinMv : Int) (s : State), 52000 ≤ vinMv → vinMv < 74000 → s.power.standby = true →
      s.power.mgmtReady = true → s.power.strapsSampled = true → s.power.strapUnstable = false →
      s.power.state = .standby → s.power.converting = false → s.power.heldOff = false →
      s.power.stopped = false →
      exec (.startConditionsMet vinMv true) s = .next { s with power := { s.power with
        vinMv := vinMv, seated := true, stopped := false, converting := true, state := .powering } })
  ∧ (∀ s : State, s.power.state = .powering → s.power.converting = true →
      exec .prechargeComplete s = .next { s with power := { s.power with precharged := true } })
  ∧ (∀ (samples : List (BitVec 24)) (s : State), s.power.standby = true → s.power.strapsSampled = false →
      strapsDisagree samples = true → ∃ t, exec (.strapSampling samples) s = .next t
        ∧ t.power.strapsSampled = true ∧ t.power.strapUnstable = true ∧ t.objs = s.objs
        ∧ t.power.alerts.contains .strap = true ∧ Capsuled 4 s t)
  ∧ (∀ s : State, s.power.state = .powering → s.power.precharged = true → s.power.railsShorted = 0 →
      exec .railsUp s = .next { s with power := { s.power with
        railsUp := 0xFFF, pwrOk := true, state := .held, releaseDue := s.power.rstN } })
  ∧ (∀ s : State, s.power.state = .powering → s.power.precharged = true → s.power.railsShorted ≠ 0 →
      ∃ t, exec .railsUp s = .next t ∧ t.power.state = .latchedFault ∧ t.power.latchCause = 1
        ∧ t.power.railsLatched = s.power.railsLatched ||| s.power.railsShorted ∧ t.power.pwrOk = false
        ∧ (∃ ms, s.power.lastMs ≤ ms ∧ t.power.latchTimes = s.power.latchTimes ++ [ms])
        ∧ Capsuled 2 s t)

/-- What stopping the 64 V domain leaves: no conversion, no rail, PWR_OK low, every laser off, the die not
released (03 R78, R79). -/
def Sys2Proof.Unpowered (s t : State) : Prop :=
  t.power.converting = false ∧ t.power.pwrOk = false ∧ t.power.railsUp = 0 ∧ t.power.released = false
    ∧ t.optics = opticsDark s.optics

/-- STANDBY_LOSS, UNDERVOLTAGE, OVERVOLTAGE, BLADE_SEAT_BREAK, RAIL_FAULT and THERMAL_TRIP stop a running
module, and write a capsule entry (03 R76, R78, R79, R94). -/
def Obligations.SupplyFaultsStopTheModule : Prop :=
  (∀ s : State, s.power.standby = true → ∃ t, exec .standbyLoss s = .next t ∧ Unpowered s t
      ∧ t.power.standby = false ∧ t.power.strapsSampled = false ∧ t.power.mgmtReady = false
      ∧ t.host.store = s.host.store ∧ Capsuled 1 s t)
  ∧ (∀ (vinMv : Int) (s : State), vinMv < 48000 → s.power.converting = true →
      ∃ t, exec (.undervoltage vinMv) s = .next t ∧ Unpowered s t ∧ t.power.state = .standby
        ∧ t.power.stopped = true ∧ t.power.vinMv = vinMv ∧ Capsuled 1 s t
        ∧ (s.obj Obj.uvEvents + 1 < 2 ^ 32 → t.obj Obj.uvEvents = s.obj Obj.uvEvents + 1))
  ∧ (∀ (vinMv : Int) (s : State), 75000 < vinMv → s.power.converting = true →
      ∃ t, exec (.overvoltage vinMv) s = .next t ∧ Unpowered s t ∧ t.power.state = .standby
        ∧ t.power.stopped = true ∧ t.power.vinMv = vinMv ∧ Capsuled 1 s t
        ∧ (s.obj Obj.ovEvents + 1 < 2 ^ 32 → t.obj Obj.ovEvents = s.obj Obj.ovEvents + 1))
  ∧ (∀ s : State, s.power.converting = true → ∃ t, exec .bladeSeatBreak s = .next t ∧ Unpowered s t
      ∧ t.power.state = .standby ∧ t.power.seated = false ∧ Capsuled 1 s t)
  ∧ (∀ (rail : Fin 12) (atMs : Nat) (s : State), s.power.standby = true → s.power.converting = true →
      s.power.precharged = true → ∃ t, exec (.railFault rail atMs) s = .next t ∧ Unpowered s t
        ∧ t.power.state = .latchedFault ∧ t.power.latchCause = 1
        ∧ t.power.railsLatched = s.power.railsLatched ||| 2 ^ rail.val ∧ Capsuled 2 s t)
  ∧ (∀ (x : Stall) (milliC : Int) (atMs : Nat) (s : State), s.power.pwrOk = true → 115000 < milliC →
      ∃ t, exec (.thermalTrip x milliC atMs) s = .next t ∧ Unpowered s t
        ∧ t.power.state = .latchedFault ∧ t.power.latchCause = 2 ∧ Capsuled 3 s t)

/-- POWER_RESTART clears a latched fault and starts under the conditions of a fresh power-up; RST_N_ASSERT
resets a released die and keeps the rails; RST_N_RELEASE and DIE_RELEASE release it (03 R80, R88, R90, R93). -/
def Obligations.RestartAndReset : Prop :=
  (∀ (r : Requester) (s : State), Accepts r Obj.powerRestart 1 s → s.power.state = .latchedFault →
      exec (.powerRestart r 1) s = .next (answered r Obj.powerRestart 1
        ({ (s.countBar r) with power := { (s.countBar r).power with
            state := .standby, latchCause := 0, railsLatched := 0, stopped := false } } : State).tryStart))
  ∧ (∀ s : State, s.power.released = true → ∃ t, exec .rstNAssert s = .next t
      ∧ t.power.state = .held ∧ t.power.released = false ∧ t.power.rstN = false
      ∧ t.power.pwrOk = s.power.pwrOk ∧ t.power.railsUp = s.power.railsUp
      ∧ t.power.standby = s.power.standby ∧ t.optics = opticsDark s.optics
      ∧ t.mem.cells = []
      ∧ (∀ o : Obj, isMgmtKey o.key = true → o.key < 0x0F0000 → t.obj o = s.obj o) ∧ Capsuled 5 s t)
  ∧ (∀ s : State, s.power.state = .held → exec .rstNRelease s =
      .next { s with power := { s.power with rstN := true, releaseDue := true } })
  ∧ (∀ s : State, s.power.state = .held → s.power.releaseDue = true → s.power.pwrOk = true →
      ∃ t, exec .dieRelease s = .next t ∧ t.power.state = .booting ∧ t.power.released = true
        ∧ t.power.boot = .memoryTest ∧ t.time = {} ∧ t.dict.tokens = []
        ∧ t.mem.map.order = channelOrder t.mem.chans
        ∧ t.obj Obj.bootListReady = 0
        ∧ t.obj Obj.budgetW = budgetOfStrap (s.power.strapRaw / 2 ^ 15 % 8))

/-- At reset every object reads its default, no supply stands, no slot is claimed and nothing waits. A release of the
die gives every die object but the strap's budget its default, and leaves no lane, port, group, thread, pair or
token of before (17 R519, R536). -/
def Obligations.ResetLeavesDefaults : Prop :=
  ((∀ o : Obj, State.reset.obj o = o.dflt) ∧ State.reset.power.standby = false
    ∧ State.reset.power.state = .standby ∧ State.reset.power.released = false
    ∧ (∀ k : Slot, State.reset.slot k.val = {}) ∧ (∀ r : Requester, State.reset.reaches r = false)
    ∧ State.reset.pending = [])
  ∧ (∀ s : State, s.power.state = .held → s.power.releaseDue = true → s.power.pwrOk = true →
    ∃ t, exec .dieRelease s = .next t
      ∧ (∀ o : Obj, isMgmtKey o.key = false → o.key ≠ Obj.budgetW.key → t.obj o = o.dflt)
      ∧ t.lanes = [] ∧ t.remaps = [] ∧ t.ports = [] ∧ t.switch = {} ∧ t.pitches = {} ∧ t.service = {}
      ∧ t.coll = {} ∧ t.update = {} ∧ t.arrays = [] ∧ t.custody = {} ∧ t.warden = {} ∧ t.ledger = {}
      ∧ t.dict.staged = [] ∧ t.dict.tokens = [] ∧ t.mem.cells = [] ∧ t.optics = opticsDark s.optics)

/-! ### Boot (03, 18) -/

/-- MEMORY_READY fixes the address map and chooses the boot's way by its source; BOOT_LIST_READY lets a waiting
boot go on; BOOT_BUNDLE_LOADED places a bundle that passes every check and skips any other and any that cannot be
fetched; BOOT_WAIT_EXPIRY boots with none once boot_wait has passed; ENGINE_START_DONE starts the engines by fours, and
with the fourth group and a port up the module is in SERVICE (03 R88; 18 R563, R564). -/
def Obligations.BootReachesService : Prop :=
  (∀ s : State, s.power.boot = .memoryTest → s.obj Obj.bootSource = 3 →
    Gives .memoryReady s [.power, .mem, .warden] fun t => t.mem = s.fixMap.mem
      ∧ t.power = { s.power with boot := .engines, bootNext := 0, waitSince := s.tb1Ns })
  ∧ (∀ s : State, s.power.boot = .memoryTest → s.obj Obj.bootSource = 1 ∨ s.obj Obj.bootSource = 2 →
      s.obj Obj.bootListReady = 0 →
      exec .memoryReady s = .next { s.fixMap with power := { s.power with
        boot := .waitList, bootNext := 0, waitSince := s.tb1Ns } })
  ∧ (∀ s : State, s.power.boot = .memoryTest → s.obj Obj.bootSource = 0 →
      Gives .memoryReady s [.power, .mem, .warden] fun t => t.mem.map.order = channelOrder s.mem.chans
        ∧ t.mem.map.r = min 4 (s.obj Obj.relocationReserve)
        ∧ t.power.boot = (if (upTo 64).any (fun e => (Tbl.get s.host.store e {}).state == 1
            && (Tbl.get s.host.store e {}).autoload) then .loading else .engines))
  ∧ (∀ (r : Requester) (s : State), Accepts r Obj.bootListReady 1 s → s.power.boot = .waitList →
      s.obj Obj.bootSource = 2 ∨ (s.obj Obj.bootSource = 1 ∧ s.host.busMaster.contains 0 = true) →
      Gives (.bootListReady r 1) s [.objs, .power, .warden, .ledger, .dict, .out] fun t =>
        t.obj Obj.bootListReady = 1 ∧ t.power.bootNext = 0 ∧ t.out.code = 0
          ∧ t.power.boot = (if (s.bootEntry 0).2 = 0 then .engines else .loading))
  ∧ (∀ (e : Nat) (fetched : Option (List Byte)) (i : Nat) (s : State), s.power.boot = .loading →
      s.bootItem = some (.store e, i) →
      let b := s.storeBundle e
      Gives (.bootBundleLoaded fetched) s
        [.objs, .power, .optics, .ports, .update, .mem, .warden, .ledger, .dict, .host]
        fun t => t.power.bootNext = i
          ∧ ((s.bundleFault b).isSome = true →
              t.update.programs = s.update.programs ∧ t.host.packages = s.host.packages
                ∧ t.host.tables = s.host.tables ∧ t.mem.cells = s.mem.cells)
          ∧ (s.bundleFault b = none →
              (∀ k, b.kind = 1 → s.programSlot b.program b.signer = some k →
                ∃ p, Tbl.find t.update.programs k = some p ∧ p.id = b.program ∧ p.identity = b.identity
                  ∧ p.bytes = b.bodyBytes)
              ∧ (b.kind = 2 → s.packageUsed b.package = false →
                Tbl.find t.host.packages b.package = some (b.loaded b.package))
              ∧ (b.kind = 3 → t.host.tables = s.host.tables ++ [b.loaded 0xFF])))
  ∧ (∀ (a n i : Nat) (fetched : Option (List Byte)) (s : State), s.power.boot = .loading →
      s.bootItem = some (.host a n, i) → s.hostOpen = false ∨ fetched = none →
      Gives (.bootBundleLoaded fetched) s [.objs, .power, .warden, .dict, .host] fun t =>
        t.power.bootNext = i ∧ t.obj Obj.hostErrors = wrapCount Obj.hostErrors (s.obj Obj.hostErrors + 1))
  ∧ (∀ s : State, s.power.boot = .waitList → s.comesNow (s.power.waitSince + 1000000000 * s.obj Obj.bootWait) = true →
      Gives .bootWaitExpiry s [.objs, .power, .warden, .dict, .host] fun t =>
        t.power = { s.power with boot := .engines })
  ∧ (∀ (g : Fin 4) (s : State), s.power.boot = .engines → s.power.enginesStarted = g.val →
      s.startWaits g.val = false →
      Gives (.engineStartDone g) s [.power, .optics, .ports, .warden, .ledger] fun t =>
        (∀ e : Nat, e < 4 * g.val ∨ 4 * g.val + 4 ≤ e → t.engine e = s.engine e)
          ∧ (∀ e : Nat, 4 * g.val ≤ e → e < 4 * g.val + 4 → (s.pack e).ident = none →
              (t.engine e).state = .noPack)
          ∧ (g.val < 3 → t.power = { s.power with enginesStarted := g.val + 1 })
          ∧ (g.val = 3 → t.power = { s.power with
              enginesStarted := 4
              boot := if t.ports.any (fun e => e.2.link == .up) then .done else .links
              state := if t.ports.any (fun e => e.2.link == .up) then .service else s.power.state }))

/-! ### Time (02) -/

/-- PTP_MESSAGE: a one-step Sync of the parent steps a TB0 that is not set by the offset (its correction and the
path delay taken off), and an Announce becomes the parent where no other master is heard; PTP_TRANSMIT queues a request
as a time frame on VC6 of a fabric port, or sends it over a management lane, where its egress stamp is kept, and sends
nothing that the port may not; ANNOUNCE_TIMEOUT of the only master heard starts holdover on TB3 at TB0's averaged rate;
HOLDOVER_EXCEEDED holds ALERT_N once the error has passed its bound (02 R41 to R43, R46, R49 to R51). -/
def Obligations.PtpAndHoldover : Prop :=
  (∀ (port : Fin 1026) (m : PtpMsg) (raw d : Int) (s : State), s.power.released = true →
      s.ptpEnabled port.val = true → m.domain = s.obj Obj.ptpDomain → m.kind = .sync → m.twoStep = false →
      s.fromParent port.val m = true → Tbl.find s.time.pathDelay port.val = some d → s.time.tb0Set = false →
      let ms := s.ingressStamp port.val raw - m.stamp - m.correction
      Gives (.ptpMessage port m raw) s [.time] fun t =>
        t.time.masterToSlave = ms ∧ t.time.sync = none ∧ t.time.offset = ms - d
          ∧ t.time.tb0 = (Int.ofNat s.time.tb0 - (ms - d) * 2 ^ 16).toNat
          ∧ t.time.tb0Set = true ∧ t.time.state = .acquiring ∧ t.time.goodSyncs = 0
          ∧ t.time.tb0Rate = s.time.tb0Rate ∧ t.time.tb1 = s.time.tb1 ∧ t.time.tb2 = s.time.tb2
          ∧ t.time.tb3 = s.time.tb3 ∧ t.time.bell = s.time.bell ∧ t.time.parent = s.time.parent)
  ∧ (∀ (port : Fin 1026) (m : PtpMsg) (raw : Int) (s : State), s.power.released = true →
      s.ptpEnabled port.val = true → m.domain = s.obj Obj.ptpDomain → m.kind = .announce →
      m.stepsRemoved < 255 → m.source.toNat / 2 ^ 16 ≠ Config.clockIdentity.toNat →
      s.time.parent = none → s.time.foreign = [] → s.time.state ≠ .locked → s.flag Obj.slaveOnly = true →
      let p : Parent := { port := port.val, source := m.source, rank := m.gmRank.toNat, gmTime := m.gmTime
                          steps := m.stepsRemoved, seen := s.time.tb1 }
      exec (.ptpMessage port m raw) s = .next { s with time := { s.time with
        foreign := [p], parent := some p, parentSince := s.time.tb1, goodSyncs := 0, sync := none } })
  ∧ (∀ (port : Fin 1026) (s : State), s.power.released = true → s.ptpEnabled port.val = true →
      s.obj Obj.ptpProfile = 1 → port.val < 1024 → (s.port port.val).link = .up →
      let q := (Tbl.get s.time.seqs (16 * port.val + 2) 0 + 1) % 65536
      Gives (.ptpTransmit port .pdelayReq) s [.objs, .time, .ports] fun t =>
        t.time = { s.time with seqs := Tbl.set s.time.seqs (16 * port.val + 2) q }
          ∧ t.port port.val = { s.port port.val with linkOut := (s.port port.val).linkOut ++
              [({ s.newFrame 6 11 with dest := 0xFFFFF }).withPayload
                (ptpBytes (s.ptpMsg port.val .pdelayReq q) 0x7F)] }
          ∧ ∀ p, p ≠ port.val → t.port p = s.port p)
  ∧ (∀ (port : Fin 1026) (s : State), s.power.released = true → s.ptpEnabled port.val = true →
      s.obj Obj.ptpProfile = 1 → 1024 ≤ port.val →
      let q := (Tbl.get s.time.seqs (16 * port.val + 2) 0 + 1) % 65536
      Gives (.ptpTransmit port .pdelayReq) s [.time, .free, .out] fun t =>
        Tbl.find t.time.delayReq port.val = some (q, s.egressStamp port.val)
          ∧ ∃ mapping < 3, t.out.ptp = some (port.val, some mapping, ptpBytes (s.ptpMsg port.val .pdelayReq q) 0x7F))
  ∧ (∀ (port : Fin 1026) (k : PtpKind) (s : State), s.maySendPtp port.val k = false →
      exec (.ptpTransmit port k) s = .next s)
  ∧ (∀ (q : Parent) (s : State), s.time.parent = some q → s.heard q = false → s.time.foreign.filter s.heard = [] →
      s.time.state = .locked →
      Gives .announceTimeout s [.time] fun t =>
        t.time.parent = none ∧ t.time.foreign = [] ∧ t.time.state = .holdover ∧ t.time.tb3 = s.time.tb0
          ∧ t.time.tb0Rate = s.averagedRate ∧ t.time.tb3Rate = s.averagedRate ∧ t.time.holdSince = s.time.tb1
          ∧ t.time.goodSyncs = 0 ∧ t.time.sync = none ∧ t.time.tb0 = s.time.tb0 ∧ t.time.tb1 = s.time.tb1
          ∧ t.time.tb2 = s.time.tb2 ∧ t.time.bell = s.time.bell ∧ t.time.pendingStep = s.time.pendingStep)
  ∧ (∀ (q : Parent) (s : State), s.time.parent = some q → s.heard q = true → exec .announceTimeout s = .next s)
  ∧ (∀ s : State, s.time.state = .holdover → s.obj Obj.holdoverBound < s.holdError →
      Gives .holdoverExceeded s [.objs, .power, .time, .dict, .host] fun t =>
        t.time = { s.time with state := .holdoverExceeded } ∧ t.power.alerts.contains .holdover = true
          ∧ (∀ a : Alert, a ≠ .holdover → t.power.alerts.contains a = s.power.alerts.contains a))
  ∧ (∀ s : State, s.time.state = .holdover → s.holdError ≤ s.obj Obj.holdoverBound →
      exec .holdoverExceeded s = .next s)

/-- BELL_BOUNDARY brings the ruling base to the next multiple of the bell period, whose number is the bell's;
TB0_SWITCH does so on TB0 and goes over to it; STEP_APPLY applies a permitted step at that boundary;
STEP_PERMIT, TB2_NOW_WRITE and TB2_RATE_WRITE take their values (02 R54, R58, R59). -/
def Obligations.BoundariesAndSteps : Prop :=
  (∀ s : State, s.power.released = true → s.obj Obj.bellSource ≠ 2 → s.time.onTb0 = false →
      s.time.lastTb1Rung = false → s.time.stepPermitted = false →
      ∃ t, exec .bellBoundary s = .next t ∧ t.time.tb1 = s.nextBoundary
        ∧ t.time.bell = s.nextBoundary / 2 ^ 32 / s.period % 2 ^ 64 ∧ t.time.rung = s.time.rung + 1
        ∧ t.time.boundaryTb1 = s.nextBoundary ∧ t.time.onTb0 = false
        ∧ (s.time.state ≠ .locked → t.time.state = s.time.state)
        ∧ t.pending = s.pending)
  ∧ (∀ s : State, s.power.released = true → s.obj Obj.bellSource ≠ 2 → s.time.onTb0 = false →
      s.time.lastTb1Rung = true → s.time.stepPermitted = false →
      ∃ t, exec .tb0Switch s = .next t ∧ t.time.tb0 = s.nextBoundary ∧ t.time.onTb0 = true
        ∧ t.time.bell = s.nextBoundary / 2 ^ 32 / s.period % 2 ^ 64 ∧ t.time.switchBell = t.time.bell
        ∧ t.time.rung = s.time.rung + 1)
  ∧ (∀ (d : Int) (s : State), s.power.released = true → s.obj Obj.bellSource ≠ 2 → s.time.onTb0 = true →
      s.time.pendingStep = some d → s.time.stepPermitted = true →
      ∃ t, exec .stepApply s = .next t ∧ t.time.tb0 = (Int.ofNat s.nextBoundary - d * 2 ^ 16).toNat
        ∧ t.time.pendingStep = none ∧ t.time.stepPermitted = false
        ∧ t.time.bell = s.nextBoundary / 2 ^ 32 / s.period % 2 ^ 64 ∧ t.time.rung = s.time.rung + 1)
  ∧ (∀ (r : Requester) (s : State), Accepts r Obj.stepPermit 1 s → s.time.pendingStep.isSome = true →
      exec (.stepPermit r 1) s = .next (answered r Obj.stepPermit 1
        { (s.countBar r) with time := { s.time with stepPermitted := true } }))
  ∧ (∀ (r : Requester) (v : BitVec 80) (s : State), AcceptsWhole r Obj.tb2Now v.toNat s →
      exec (.tb2NowWrite r v) s = .next (answered r Obj.tb2Now (v.toNat % 2 ^ 64)
        { (s.countBar r) with time := { s.time with
          tb2 := (bits v.toNat 30 48 * 10 ^ 9 + bits v.toNat 0 30) * 2 ^ 32
          tb2Written := s.time.tb2Written || s.onTb2 } }))
  ∧ (∀ (r : Requester) (w : BitVec 64) (s : State), Accepts r Obj.tb2Rate w.toNat s →
      exec (.tb2RateWrite r w) s = .next (answered r Obj.tb2Rate w.toNat
        ((s.countBar r).putObj Obj.tb2Rate w.toNat)))

/-- PULSE_FIRE begins a pulse at its program's next instant of the bell, PULSE_WIDTH_END ends it at its width's end;
PULSE_PROGRAM_WRITE changes a disabled output at once and an
enabled one at the next boundary; TIN_EDGE queues both bases' times of an edge and counts the edges a full
queue loses, or measures the offset from the whole second; TIN_CAPTURE_READ takes the oldest (02 R65 to R69). -/
def Obligations.PulsesAndTimeInputs : Prop :=
  (∀ (k : Fin 4) (osc : Nat) (s : State), s.pulseMay k.val = true → s.pulseDue k.val = some osc →
      Gives (.pulseFire k) s [.objs, .time, .ledger] fun t =>
        (t.pulse k.val).active = true ∧ (t.pulse k.val).fired = true ∧ (t.pulse k.val).bellDue = false
          ∧ (t.pulse k.val).pin = !bit (s.obj (Obj.pulseControl k.val)) 1
          ∧ (t.pulse k.val).endsAt = s.time.tb1 + osc + s.obj (Obj.pulseWidth k.val) * 2 ^ 32
          ∧ t.time.tb1 = s.time.tb1 + osc ∧ t.time.bell = s.time.bell
          ∧ ∀ j, j ≠ k.val → t.pulse j = s.pulse j)
  ∧ (∀ (k : Fin 4) (s : State), s.pulseMay k.val = true → bit (s.obj (Obj.pulseControl k.val)) 2 = true →
      s.pulseDue k.val = if (s.pulse k.val).bellDue then some 0 else none)
  ∧ (∀ (k : Fin 4) (s : State), s.pulseMay k.val = false → exec (.pulseFire k) s = .next s)
  ∧ (∀ (k : Fin 4) (s : State), s.power.released = true → (s.pulse k.val).active = true →
      (s.pulse k.val).endsAt - s.time.tb1 < s.toBoundary →
      Gives (.pulseWidthEnd k) s [.objs, .time, .ledger] fun t =>
        t.pulse k.val = { s.pulse k.val with active := false, pin := bit (s.obj (Obj.pulseControl k.val)) 1 }
          ∧ t.time.tb1 = s.time.tb1 + ((s.pulse k.val).endsAt - s.time.tb1)
          ∧ ∀ j, j ≠ k.val → t.pulse j = s.pulse j)
  ∧ (∀ (r : Requester) (k f : Fin 4) (v : BitVec 80) (s : State),
      AcceptsWhole r ⟨0x030020 + 4 * k.val + f.val, 80, 0⟩ v.toNat s →
      bit (s.obj (Obj.pulseControl k.val)) 0 = true →
      exec (.pulseProgramWrite r k f v) s
        = .next (answered r ⟨0x030020 + 4 * k.val + f.val, 80, 0⟩ (v.toNat % 2 ^ 64)
          { (s.countBar r) with dict := { s.dict with
            staged := Tbl.set s.dict.staged (0x030020 + 4 * k.val + f.val) v.toNat } }))
  ∧ (∀ (r : Requester) (k : Fin 4) (v : BitVec 80) (s : State),
      AcceptsWhole r (Obj.pulsePeriod k.val) v.toNat s → bit (s.obj (Obj.pulseControl k.val)) 0 = false →
      exec (.pulseProgramWrite r k 1 v) s = .next (answered r (Obj.pulsePeriod k.val) (v.toNat % 2 ^ 64)
        (((s.countBar r).putObj (Obj.pulsePeriod k.val) v.toNat).setPulse k.val
          { s.pulse k.val with
            fired := false, armed := nsUp s.time.tb0, bells := 0, bellDue := false
            pin := if (s.pulse k.val).active then (s.pulse k.val).pin
              else bit (s.obj (Obj.pulseControl k.val)) 1 })))
  ∧ (∀ (j : Fin 2) (s : State), s.power.released = true → s.obj (Obj.tinMode j.val) = 1 →
      (∀ l, (s.tin j.val).last = some l → l + 100 ≤ s.tb1Ns) →
      exec (.tinEdge j) s = .next (s.setTin j.val
        (if (s.tin j.val).queue.length < 16 then { s.tin j.val with
            last := some s.tb1Ns
            queue := (s.tin j.val).queue ++ [(time80 0 ((s.edgeTime j.val s.time.tb0) / 2 ^ 16).toNat,
              time80 1 ((s.edgeTime j.val s.time.tb1) / 2 ^ 16).toNat)] }
          else { s.tin j.val with last := some s.tb1Ns, lost := (s.tin j.val).lost + 1 })))
  ∧ (∀ (j : Fin 2) (s : State), s.power.released = true → s.obj (Obj.tinMode j.val) = 2 →
      (∀ l, (s.tin j.val).last = some l → l + 100 ≤ s.tb1Ns) →
      exec (.tinEdge j) s = .next (s.setTin j.val { s.tin j.val with
        last := some s.tb1Ns, offset := secondOffset (s.edgeTime j.val s.time.tb0) }))
  ∧ (∀ (r : Requester) (j : Fin 2) (s : State), MayRead r (Obj.tinCapture j.val) s →
      Gives (.tinCaptureRead r j) s [.objs, .time, .ledger, .dict, .out] fun t =>
        (t.tin j.val).queue = (s.tin j.val).queue.drop 1 ∧ t.out.data = s.tinCapture j.val % 2 ^ 64
          ∧ t.out.code = 0)

/-! ### Packs, light, moves, calibration and thoroughfares (04; 03 R81) -/

/-- PACK_INSERT shows the bay present or rejected; PACK_START_STAGE goes through bring-up, and its last stage lights
the pack, opens the shutters whose RX fiber shows light and lets the ports that left with it return; a stage that the
tally does not admit waits in its queue; PACK_PREPARE names the next boundary; PACK_PREPARE_DRAIN_END puts the lasers
off, ends the moves, closes the shutters that no thoroughfare uses and unlocks the bay; PACK_CANCEL_PREPARE starts a
prepared pack again and ends a drain; PACK_RESTART checks a rejected pack again; PACK_PULL drops the engine's ports
and closes no shutter; PREPARED_PACK_REMOVAL empties the bay. -/
def Obligations.PackCommands : Prop :=
  (∀ (e : Engine) (i : PackIdentity) (s : State), (s.pack e.val).bay = .empty →
      Gives (.packInsert e i) s [.objs, .optics, .dict, .host] fun t =>
        (t.pack e.val).bay = (if packAccepted i then .present else .rejected)
          ∧ (t.pack e.val).ident = some i ∧ (t.pack e.val).faded = 0
          ∧ (t.engine e.val).on17 = none ∧ (t.engine e.val).on16 = none
          ∧ ∀ n : Nat, n ≠ e.val → t.pack n = s.pack n ∧ t.engine n = s.engine n)
  ∧ (∀ (e : Engine) (s : State), s.power.released = true →
      (s.pack e.val).bay = .present ∨ (s.pack e.val).bay = .starting → (s.pack e.val).stage < 3 →
      s.warden.queue.headD (.lasers e.val) = .lasers e.val → s.tallyAdmits 4000 = true →
      exec (.packStartStage e) s = .next
        ((({ s with warden := { s.warden with
              queue := s.warden.queue.erase (.lasers e.val), spent := s.warden.spent + 4000 } } : State).setPack e.val
            { s.pack e.val with
              bay := .starting, stage := (s.pack e.val).stage + 1, lit := litAfter ((s.pack e.val).stage + 1) }).setEngine
          e.val { s.engine e.val with state := .starting }))
  ∧ (∀ (e : Engine) (s : State), s.power.released = true →
      (s.pack e.val).bay = .present ∨ (s.pack e.val).bay = .starting → (s.pack e.val).stage < 3 →
      s.tallyAdmits 4000 = false →
      exec (.packStartStage e) s = .next { s with warden := { s.warden with
        queue := if (LoadStep.lasers e.val) ∈ s.warden.queue then s.warden.queue else s.warden.queue ++ [.lasers e.val] } })
  ∧ (∀ (e : Engine) (s : State), s.power.released = true → (s.pack e.val).bay = .starting →
      (s.pack e.val).stage = 4 →
      Gives (.packStartStage e) s [.optics, .ports, .ledger] fun t =>
        (t.pack e.val).bay = .lit ∧ (t.pack e.val).lit = 0xFFFF ∧ (t.engine e.val).state = .running
          ∧ (t.engine e.val).on17 = none ∧ (t.engine e.val).on16 = none
          ∧ (∀ f ∈ engineFibers e.val, (t.fiber f).shut = ((s.fiber f).shut && !s.lightOn f))
          ∧ ∀ p ∈ enginePorts e.val, (s.port p).phys = .dropped →
              (s.pack e.val).fresh = true ∨ (s.port p).prepOut = true → (t.port p).phys ≠ .dropped)
  ∧ (∀ (r : Requester) (e : Engine) (s : State), Accepts r (Obj.packControl e.val) 1 s →
      (s.pack e.val).bay = .lit →
      exec (.packPrepare r e) s = .next (answered r (Obj.packControl e.val) 1
        ((s.countBar r).setPack e.val { s.pack e.val with prepareAt := some (s.time.rung + 1) })))
  ∧ (∀ (e : Engine) (s : State), (s.pack e.val).draining = true →
      Gives (.packPrepareDrainEnd e) s
        [.objs, .time, .optics, .lanes, .remaps, .ports, .switch, .coll, .mem, .warden, .ledger, .dict, .host] fun t =>
        t.pack e.val = { s.pack e.val with
            bay := .prepared, lit := 0, draining := false, prepareAt := none, unlocked := true, indicator := true }
          ∧ (t.engine e.val).state = .prepared ∧ (∀ m ∈ t.optics.moves, engineOf m.fiber ≠ e.val)
          ∧ ∀ f ∈ engineFibers e.val, (t.fiber f).shut = ((s.fiber f).shut || !s.thoroOnTx f))
  ∧ (∀ (r : Requester) (e : Engine) (s : State), Accepts r (Obj.packControl e.val) 2 s →
      (s.pack e.val).bay = .prepared →
      Gives (.packCancelPrepare r e) s [.objs, .optics, .ledger, .dict, .out] fun t =>
        t.pack e.val = { s.pack e.val with bay := .starting, stage := 0, unlocked := false, indicator := false }
          ∧ (t.engine e.val).state = .starting ∧ t.out.code = 0 ∧ t.optics.fibers = s.optics.fibers)
  ∧ (∀ (r : Requester) (e : Engine) (s : State), Accepts r (Obj.packControl e.val) 2 s →
      (s.pack e.val).bay = .lit → (s.pack e.val).draining = true →
      Gives (.packCancelPrepare r e) s [.objs, .optics, .ports, .ledger, .dict, .out] fun t =>
        t.pack e.val = { s.pack e.val with draining := false } ∧ t.out.code = 0
          ∧ ∀ p ∈ enginePorts e.val, (t.port p).joinDue = ((s.port p).link == .up))
  ∧ (∀ (r : Requester) (e : Engine) (i : PackIdentity) (s : State), Accepts r (Obj.packControl e.val) 3 s →
      (s.pack e.val).bay = .rejected → (s.pack e.val).ident = some i → packAccepted i = true →
      exec (.packRestart r e) s = .next (answered r (Obj.packControl e.val) 3
        ((s.countBar r).setPack e.val { s.pack e.val with bay := .present, stage := 0 })))
  ∧ (∀ (e : Engine) (s : State), (s.pack e.val).bay = .lit →
      Gives (.packPull e) s
        [.objs, .time, .optics, .lanes, .remaps, .ports, .switch, .coll, .mem, .warden, .ledger, .dict, .host]
        fun t => t.pack e.val = {} ∧ (t.engine e.val).state = .noPack
          ∧ (∀ f, (t.fiber f).shut = (s.fiber f).shut) ∧ (∀ m ∈ t.optics.moves, engineOf m.fiber ≠ e.val)
          ∧ ∀ p ∈ enginePorts e.val, (s.port p).phys ≠ .lent → (t.port p).phys = .dropped)
  ∧ (∀ (e : Engine) (s : State), (s.pack e.val).bay = .prepared →
      exec (.preparedPackRemoval e) s
        = .next ((s.setPack e.val {}).modEngine e.val fun x => { x with state := .noPack }))

/-- LOSS_OF_LIGHT closes the shutter of the fiber's pair and counts it where it was open, PROBE_BURST counts a probe,
LIGHT_RESTORED opens it; FADE_WINDOW keeps a laser's relative power, warns at the fourth window in a row and fails it
at fade_fail; SUDDEN_LASER_LOSS fails it; FADE_SPARE_READY takes a lit spare into use; RING_EXCURSION halves the slew
of the engine's stalls for 10 ms, SLEW_HALVING_END ends that once its time has come, DITHER_LOOP_FAST_END likewise a
fast dither loop. -/
def Obligations.LightAndLasers : Prop :=
  (∀ (f : Fiber) (s : State), (s.fiber (64 + f.val)).dark = false →
      Gives (.lossOfLight f) s [.objs, .optics] fun t =>
        (t.fiber (64 + f.val)).dark = true ∧ (t.fiber f.val).shut = true
          ∧ t.obj (Obj.shutterClosures f.val) = (if (s.fiber f.val).shut then s.obj (Obj.shutterClosures f.val)
              else wrapCount (Obj.shutterClosures f.val) (s.obj (Obj.shutterClosures f.val) + 1)))
  ∧ (∀ (f : Fiber) (s : State), (s.fiber f.val).shut = true → (s.fiber (64 + f.val)).dark = true →
      exec (.probeBurst f) s
        = .next (s.setFiber f.val { s.fiber f.val with probes := (s.fiber f.val).probes + 1 }))
  ∧ (∀ (f : Fiber) (s : State),
      Gives (.lightRestored f) s [.optics] fun t =>
        (t.fiber (64 + f.val)).dark = false ∧ (t.fiber (64 + f.val)).lit = true
          ∧ (t.fiber f.val).shut
            = ((s.fiber f.val).shut && (s.pack (engineOf f.val)).bay == .prepared && !s.thoroOnTx f.val))
  ∧ (∀ (e : Engine) (k : Laser) (mean : Int) (s : State), bit (s.pack e.val).lit k.val = true →
      -(s.obj (Obj.fadeWarn e.val) : Int) < mean → -(s.obj (Obj.fadeFail e.val) : Int) < mean →
      exec (.fadeWindow e k mean) s = .next ((s.putInt (Obj.laserRelPower e.val k.val) mean).setPack e.val
        { s.pack e.val with warnRuns := listPut 0 (s.pack e.val).warnRuns k.val 0 }))
  ∧ (∀ (e : Engine) (k : Laser) (mean : Int) (s : State), bit (s.pack e.val).lit k.val = true →
      mean ≤ -(s.obj (Obj.fadeWarn e.val) : Int) → -(s.obj (Obj.fadeFail e.val) : Int) < mean →
      (s.pack e.val).warnRuns.getD k.val 0 = 3 → bit (s.pack e.val).warned k.val = false →
      Gives (.fadeWindow e k mean) s [.objs, .optics, .ports, .warden, .ledger, .dict, .host] fun t =>
        bit (t.pack e.val).faded k.val = true ∧ (t.pack e.val).failed = (s.pack e.val).failed
          ∧ (k.val < 16 → (s.engine e.val).on17 = none → (t.engine e.val).on17 = some k.val))
  ∧ (∀ (e : Engine) (k : Laser) (mean : Int) (s : State), bit (s.pack e.val).lit k.val = true →
      mean ≤ -(s.obj (Obj.fadeFail e.val) : Int) → bit (s.pack e.val).lost k.val = false →
      Gives (.fadeWindow e k mean) s [.objs, .optics, .ports, .warden, .ledger, .dict, .host] fun t =>
        bit (t.pack e.val).failed k.val = true)
  ∧ (∀ (e : Engine) (k : Laser) (s : State), bit (s.pack e.val).lit k.val = true →
      bit (s.pack e.val).lost k.val = false →
      Gives (.suddenLaserLoss e k) s [.objs, .optics, .ports, .ledger, .dict, .host] fun t =>
        t.pack e.val = { s.pack e.val with
            failed := setBit (s.pack e.val).failed k.val, lost := setBit (s.pack e.val).lost k.val }
          ∧ ∀ f ∈ engineFibers e.val, ∀ h < 16, s.carrier f false h = k.val → s.portOut (portOn f h) = false →
              (t.port (portOn f h)).dropDue = true)
  ∧ (∀ (e : Engine) (j : Nat) (s : State), (s.engine e.val).on17 = some j → (s.engine e.val).ready17 = false →
      (s.pack e.val).bay = .lit → bit (s.pack e.val).lit 17 = true →
      Gives (.fadeSpareReady e 17) s [.objs, .optics, .ports] fun t =>
        t.optics.packs = s.optics.packs ∧ t.engine e.val = { s.engine e.val with ready17 := true }
          ∧ ∀ w, s.optics.wishes = [w] → s.wishDead w = false → s.mayMove w.fiber w.rx = true →
              s.moveOf w.fiber w.rx w.home = none → s.carrierBusy w.fiber w.rx w.dst = false →
              w.bell ≤ s.time.bell → engineOf w.fiber = e.val → w.dst = 17 →
              t.optics.wishes = [] ∧ ∃ m, t.optics.moves = s.optics.moves ++ [m] ∧ m.fiber = w.fiber ∧ m.home = w.home
                ∧ m.dst = 17 ∧ m.reason = w.reason ∧ m.ours = true ∧ m.stage = .proposed)
  ∧ (∀ (e : Engine) (k : Laser) (s : State), (s.pack e.val).bay ≠ .lit → exec (.fadeSpareReady e k) s = .next s)
  ∧ (∀ (e : Engine) (s : State), Gives (.ringExcursion e) s [.objs, .warden, .ledger, .dict, .host] fun t =>
      (∀ n ∈ engineFibers e.val, Tbl.find t.warden.halfSlew n = some (s.tb1Ns + 10000000))
        ∧ ∀ n, n ∉ engineFibers e.val → Tbl.find t.warden.halfSlew n = Tbl.find s.warden.halfSlew n)
  ∧ (∀ (e : Engine) (s : State), exec (.slewHalvingEnd e) s = .next { s with warden := { s.warden with
      halfSlew := s.warden.halfSlew.filter fun h =>
        !((engineFibers e.val).contains h.1 && decide (h.2 < s.tb1Ns + s.period)) } })
  ∧ (∀ (e : Engine) (s : State), (s.engine e.val).ditherUntil < s.tb1Ns + s.period →
      exec (.ditherLoopFastEnd e) s = .next (s.setEngine e.val { s.engine e.val with ditherFast := false }))
  ∧ (∀ (e : Engine) (s : State), s.tb1Ns + s.period ≤ (s.engine e.val).ditherUntil →
      exec (.ditherLoopFastEnd e) s = .next s)

/-- An acceptable MOVE_PROPOSE is kept as accepted, with the spare it asks for lit; any other is refused and counted,
one from a partner that announced no move support among them (the model's choice, log 102); MOVE_ACCEPT and a passed
MOVE_READINESS_CHECK bring the module's move on, or mark a thoroughfare's leaf; MOVE_REFUSE and MOVE_ANSWER_TIMEOUT
end it as failed; MOVE_CANCEL ends the partner's; MOVE_SWITCH puts the port on its new carrier, or fails a move that
is not ready; OLD_CARRIER_STOP ends the old one two bells later; FADE_MOVE_RETRY proposes a second time, or drops the
port where its partner cannot move. -/
def Obligations.MoveCommands : Prop :=
  (∀ (p : Port) (w : BitVec 128) (s : State), bits w.toNat 0 4 = 1 →
      s.mayMove (p.val / 16) (!bit w.toNat 4) = true →
      (s.port (portOn (p.val / 16) (bits w.toNat 8 4))).phys ≠ .lent →
      s.moveOf (p.val / 16) (!bit w.toNat 4) (bits w.toNat 8 4) = none →
      s.carrier (p.val / 16) (!bit w.toNat 4) (bits w.toNat 8 4) = bits w.toNat 12 5 →
      s.carrierFit (p.val / 16) (!bit w.toNat 4) (bits w.toNat 8 4) (bits w.toNat 17 5) = true →
      s.time.bell < bits w.toNat 48 64 →
      Gives (.movePropose p w true) s [.objs, .optics, .ports, .warden] fun t =>
        t.optics.moves = s.optics.moves ++ [{
          fiber := p.val / 16, rx := !bit w.toNat 4, home := bits w.toNat 8 4, src := bits w.toNat 12 5
          dst := bits w.toNat 17 5, token := bits w.toNat 32 16, bell := bits w.toNat 48 64
          reason := bits w.toNat 5 3, ours := false, stage := .accepted, since := s.time.rung, tries := 1 }]
        ∧ t.optics.carriers = s.optics.carriers ∧ t.optics.wishes = s.optics.wishes
        ∧ (bit w.toNat 4 = false → t.optics = { s.optics with moves := t.optics.moves })
        ∧ (bit w.toNat 4 = true → 16 ≤ bits w.toNat 17 5 → s.warden.queue = [] → s.tallyAdmits 1000 = true →
            bit (t.pack (engineOf (p.val / 16))).lit (bits w.toNat 17 5) = true))
  ∧ (∀ (p : Port) (w : BitVec 128) (s : State), bits w.toNat 0 4 = 1 →
      s.mayMove (p.val / 16) (!bit w.toNat 4) = false →
      Gives (.movePropose p w true) s [.objs, .ports] fun t =>
        t.obj (Obj.movesFailed (engineOf (p.val / 16)))
          = wrapCount (Obj.movesFailed (engineOf (p.val / 16))) (s.obj (Obj.movesFailed (engineOf (p.val / 16))) + 1))
  ∧ (∀ (p : Port) (w : BitVec 128) (s : State), bits w.toNat 0 4 = 1 →
      Gives (.movePropose p w false) s [.objs, .ports] fun t =>
        t.obj (Obj.movesFailed (engineOf (p.val / 16)))
          = wrapCount (Obj.movesFailed (engineOf (p.val / 16))) (s.obj (Obj.movesFailed (engineOf (p.val / 16))) + 1))
  ∧ (∀ (p : Port) (w : BitVec 128) (m : Move) (s : State), bits w.toNat 0 4 = 2 →
      s.answered p.val w.toNat = some m →
      exec (.moveAccept p w) s = .next (s.putMove m { m with stage := .accepted }))
  ∧ (∀ (p : Port) (w : BitVec 128) (k : Nat) (x : Thoro) (s : State), bits w.toNat 0 4 = 2 →
      s.answered p.val w.toNat = none → s.thoroAsked (p.val / 16) (bits w.toNat 32 16) = some (k, x) →
      exec (.moveAccept p w) s = .next (s.setThoro k { x with
        acceptA := x.acceptA || 4 * (k / 8) + x.rx == p.val / 16
        acceptB := x.acceptB || 4 * (k / 8) + x.tx == p.val / 16 }))
  ∧ (∀ (p : Port) (w : BitVec 128) (m : Move) (s : State), bits w.toNat 0 4 = 3 →
      s.answered p.val w.toNat = some m →
      Gives (.moveRefuse p w) s [.objs, .optics, .ports, .ledger] fun t =>
        t.optics.moves = s.optics.moves.filter (· != m)
          ∧ t.obj (Obj.movesFailed (engineOf m.fiber))
            = wrapCount (Obj.movesFailed (engineOf m.fiber)) (s.obj (Obj.movesFailed (engineOf m.fiber)) + 1)
          ∧ (m.reason = 2 → m.tries < 2 → s.portOut (portOn m.fiber m.home) = false → t.optics.retries = s.optics.retries ++ [(m.fiber, m.home)]))
  ∧ (∀ (p : Port) (w : BitVec 128) (m : Move) (s : State), bits w.toNat 0 4 = 4 →
      (s.optics.moves.find? fun m => m.fiber == p.val / 16 && !m.ours && m.token == bits w.toNat 32 16
        && m.stage != .switched) = some m →
      exec (.moveCancel p w) s
        = .next { s with optics := { s.optics with moves := s.optics.moves.filter (· != m) } })
  ∧ (∀ (f : Fiber) (rx : Bool) (h : Fin 16) (m : Move) (s : State), s.moveOf f.val rx h.val = some m →
      m.ours = true → m.stage = .proposed →
      Gives (.moveAnswerTimeout f rx h) s [.objs, .optics, .ports, .ledger] fun t =>
        t.optics.moves = s.optics.moves.filter (· != m)
          ∧ t.obj (Obj.movesFailed (engineOf m.fiber))
            = wrapCount (Obj.movesFailed (engineOf m.fiber)) (s.obj (Obj.movesFailed (engineOf m.fiber)) + 1))
  ∧ (∀ (f : Fiber) (rx : Bool) (h : Fin 16) (m : Move) (s : State), s.moveOf f.val rx h.val = some m →
      m.stage = .accepted →
      exec (.moveReadinessCheck f rx h true) s = .next (s.putMove m { m with stage := .ready }))
  ∧ (∀ (f : Fiber) (rx : Bool) (h : Fin 16) (m : Move) (s : State), s.moveOf f.val rx h.val = some m →
      m.stage = .ready → m.bell ≤ s.time.bell → s.takenByOther m = false →
      Gives (.moveSwitch f rx h) s [.objs, .optics, .ports, .ledger] fun t =>
        t.carrier f.val rx h.val = m.dst
          ∧ ∀ (f' : Fiber) (rx' : Bool) (h' : Fin 16), (f', rx', h') ≠ (f, rx, h) →
              t.carrier f'.val rx' h'.val = s.carrier f'.val rx' h'.val)
  ∧ (∀ (f : Fiber) (rx : Bool) (h : Fin 16) (m : Move) (s : State), s.moveOf f.val rx h.val = some m →
      m.stage ≠ .ready → m.bell ≤ s.time.bell →
      Gives (.moveSwitch f rx h) s [.objs, .optics, .ports, .ledger] fun t =>
        t.optics.carriers = s.optics.carriers ∧ t.optics.moves = s.optics.moves.filter (· != m)
          ∧ t.obj (Obj.movesFailed (engineOf m.fiber))
            = wrapCount (Obj.movesFailed (engineOf m.fiber)) (s.obj (Obj.movesFailed (engineOf m.fiber)) + 1))
  ∧ (∀ (f : Fiber) (rx : Bool) (h : Fin 16) (m : Move) (s : State),
      (s.optics.moves.find? fun m => m.fiber == f.val && m.rx == rx && m.home == h.val && m.stage == .switched)
        = some m → m.bell + 2 ≤ s.time.bell →
      Gives (.oldCarrierStop f rx h) s [.optics] fun t => t.optics.moves = s.optics.moves.filter (· != m)
        ∧ t.optics.carriers = s.optics.carriers)
  ∧ (∀ (f : Fiber) (h : Fin 16) (c : Nat) (s : State), s.optics.retries.contains (f.val, h.val) = true →
      s.spareOf (engineOf f.val) h.val = some c → s.mayMove f.val false = true →
      s.portOut (portOn f.val h.val) = false → s.moveOf f.val false h.val = none → s.optics.wishes = [] →
      s.spareReady (engineOf f.val) c = true → bit (s.pack (engineOf f.val)).lit c = true →
      s.carrierBusy f.val false c = false →
      Gives (.fadeMoveRetry f h) s [.objs, .optics, .ports] fun t =>
        t.optics.retries = s.optics.retries.erase (f.val, h.val) ∧ t.optics.wishes = []
          ∧ ∃ m, t.optics.moves = s.optics.moves ++ [m] ∧ m.fiber = f.val ∧ m.rx = false ∧ m.home = h.val
            ∧ m.dst = c ∧ m.reason = 2 ∧ m.tries = 2 ∧ m.ours = true ∧ m.stage = .proposed)
  ∧ (∀ (f : Fiber) (h : Fin 16) (c : Nat) (s : State), s.optics.retries.contains (f.val, h.val) = true →
      s.spareOf (engineOf f.val) h.val = some c → s.mayMove f.val false = false →
      s.portOut (portOn f.val h.val) = false →
      exec (.fadeMoveRetry f h) s = .next (({ s with optics := { s.optics with
        retries := s.optics.retries.erase (f.val, h.val) } } : State).setPort (portOn f.val h.val)
          { s.port (portOn f.val h.val) with dropDue := true }))

/-- CAL_SLOT_START applies the loaded tables and proposes the next port's move to λ16, or counts the slot as skipped
where the partner cannot move; before bells run on TB0 it starts none and counts none (the model's choice, log 103);
CAL_DWELL_END writes a heater setting, a free value, and waits for the return; THOROUGHFARE_READINESS_CHECK marks a
setup tuned or fails it, and THOROUGHFARE_EFFECT lends its two ports, or ends a teardown (04 R114 to R116, R126 to
R129). -/
def Obligations.CalibrationAndThoroughfares : Prop :=
  (∀ (f : Fiber) (rx : Bool) (s : State), s.flag (Obj.calEnable (engineOf f.val)) = true →
      (s.engine (engineOf f.val)).state = .running → (s.fiber (fiberKey f.val rx)).calPhase = .idle →
      s.time.onTb0 = true → (s.fiber (fiberKey f.val rx)).moveCapable = false →
      exec (.calSlotStart f rx) s = .next (s.bump (Obj.calSkipped (fiberKey f.val rx))))
  ∧ (∀ (f : Fiber) (rx : Bool) (s : State), s.time.onTb0 = false → exec (.calSlotStart f rx) s = .next s)
  ∧ (∀ (f : Fiber) (rx : Bool) (h : Nat) (s : State), s.flag (Obj.calEnable (engineOf f.val)) = true →
      (s.engine (engineOf f.val)).state = .running → (s.fiber (fiberKey f.val rx)).calPhase = .idle →
      s.mayMove f.val rx = true → (s.engine (engineOf f.val)).on16 = none →
      s.thoroInSlot (engineOf f.val) = false → s.carrierBusy f.val rx 16 = false → s.optics.wishes = [] →
      (rx = true ∨ bit (s.pack (engineOf f.val)).lit 16 = true) → s.calChoice f.val rx = some h →
      Gives (.calSlotStart f rx) s [.objs, .optics, .ports, .warden, .host, .free] fun t =>
        (t.fiber (fiberKey f.val rx)).calHome = some h ∧ (t.fiber (fiberKey f.val rx)).calPhase = .tuning
          ∧ (t.fiber (fiberKey f.val rx)).calNext = (h + 1) % 16
          ∧ (t.engine (engineOf f.val)).calTable = s.tableNow
          ∧ ∃ m, t.optics.moves = s.optics.moves ++ [m] ∧ m.fiber = f.val ∧ m.rx = rx ∧ m.home = h
            ∧ m.dst = 16 ∧ m.reason = 1 ∧ m.ours = true ∧ m.stage = .proposed)
  ∧ (∀ (f : Fiber) (rx : Bool) (s : State), (s.fiber (fiberKey f.val rx)).calPhase = .moved →
      Gives (.calDwellEnd f rx) s [.optics, .free] fun t => ∃ c : Nat,
        t.fiber (fiberKey f.val rx) = { s.fiber (fiberKey f.val rx) with
            calPhase := .returning, rings := Tbl.set (s.fiber (fiberKey f.val rx)).rings c s.drawn }
          ∧ ∀ k, k ≠ fiberKey f.val rx → t.fiber k = s.fiber k)
  ∧ (∀ (e : Engine) (n : Fin 8) (s : State), (s.thoro (8 * e.val + n.val)).scheduled = true →
      (s.thoro (8 * e.val + n.val)).teardown = false → LoadStep.ring (8 * e.val + n.val) ∉ s.warden.queue →
      exec (.thoroughfareReadinessCheck e n true) s = .next (s.setThoro (8 * e.val + n.val)
        { s.thoro (8 * e.val + n.val) with tuned := true }))
  ∧ (∀ (e : Engine) (n : Fin 8) (s : State), (s.thoro (8 * e.val + n.val)).scheduled = true →
      (s.thoro (8 * e.val + n.val)).teardown = false →
      Gives (.thoroughfareReadinessCheck e n false) s [.objs, .optics, .ports, .warden, .dict, .host] fun t =>
        Tbl.find t.optics.thoros (8 * e.val + n.val) = none)
  ∧ (∀ (e : Engine) (n : Fin 8) (s : State),
      let x := s.thoro (8 * e.val + n.val)
      x.scheduled = true → x.teardown = false → s.reached (some x.token) x.bell = true →
      x.acceptA = true → x.acceptB = true → x.tuned = true →
      s.thoroCase e.val x.rx x.tx x.k (some (8 * e.val + n.val)) = 0 →
      Gives (.thoroughfareEffect e n) s
        [.objs, .time, .optics, .lanes, .remaps, .ports, .switch, .coll, .mem, .ledger, .dict, .host] fun t =>
        t.thoro (8 * e.val + n.val) = { x with active := true, scheduled := false }
          ∧ ∀ p ∈ thoroPorts e.val x, (t.port p).phys = .lent)
  ∧ (∀ (e : Engine) (n : Fin 8) (s : State),
      let x := s.thoro (8 * e.val + n.val)
      x.scheduled = true → x.teardown = true → s.reached (some x.token) x.bell = true →
      Gives (.thoroughfareEffect e n) s [.objs, .optics, .ports, .dict, .host] fun t =>
        Tbl.find t.optics.thoros (8 * e.val + n.val) = none
          ∧ ∀ p ∈ thoroPorts e.val x, (∀ y ∈ s.optics.thoros, y.1 ≠ 8 * e.val + n.val → y.1 / 8 = e.val →
              y.2.active = true → p ∉ thoroPorts e.val y.2) → (t.port p).phys ≠ .lent)

/-! ### Package lanes (05) -/

/-- TRAINING_FRAME acts on the transmitter of the opposite direction's lane, brings the search of its own on, whose
first request is preset 1 on both taps, and sends the answer, and is ignored where its check fails;
LANE_TRAINING_DONE, once the search has ended, stores the taps, applies the loaded tables and brings a good lane into
service; SPARE_MERIT_CHECK keeps a spare's merit, that of the retraining where the first is too low;
LOW_MERIT_DETECTED schedules a remap on TB0 bells; REMAP_START, REMAP_READINESS_CHECK, REMAP_SWITCH and OLD_LANE_IDLE
carry it out. -/
def Obligations.LaneCommands : Prop :=
  (∀ (n : Stall) (i : Fin 18) (inward : Bool) (w : BitVec 64) (m : Option Byte) (s : State), s.power.released = true →
      controlOk w.toNat = true → bits w.toNat 0 2 = 1 → bits w.toNat 2 2 = 0 →
      let rx := laneKey inward n.val i.val
      let tx := laneKey (!inward) n.val i.val
      let l := s.laneAt tx
      (l.state = .idle ∨ l.state = .training) →
      Gives (.trainingFrame n i inward ⟨w, m⟩) s [.lanes, .out] fun t =>
        t.laneAt tx = { l with
          state := .training
          cpre := if l.cpre < 15 then l.cpre + 1 else l.cpre, stPre := if l.cpre < 15 then 0 else 2, stPost := 0
          partnerReady := l.partnerReady || bit w.toNat 6, merit := bits w.toNat 8 8 }
        ∧ t.out = { s.out with control := some (tx, controlField (t.laneAt rx) (t.laneAt tx)) }
        ∧ ((s.laneAt rx).state = .idle ∨ (s.laneAt rx).state = .training → (s.laneAt rx).search = none →
            (t.laneAt rx).state = .training ∧ ∃ v, t.out.control = some (tx, v) ∧ v % 64 = 31)
        ∧ ∀ k, k ≠ rx → k ≠ tx → t.laneAt k = s.laneAt k)
  ∧ (∀ (n : Stall) (i : Fin 18) (inward : Bool) (w : BitVec 64) (m : Option Byte) (s : State),
      controlOk w.toNat = false → exec (.trainingFrame n i inward ⟨w, m⟩) s = .next s)
  ∧ (∀ (n : Stall) (i : Fin 18) (inward : Bool) (merit : Byte) (s : State), s.power.released = true →
      let k := laneKey inward n.val i.val
      let l := s.laneAt k
      l.searchEnded = true → l.port < 16 → s.obj (Obj.meritMin n.val) ≤ merit.toNat →
      Gives (.laneTrainingDone n i inward merit) s [.lanes, .ports, .host] fun t =>
        t.lanes = Tbl.set s.lanes k { l with
          state := .inService, merit := merit.toNat, storedPre := l.cpre, storedPost := l.cpost, search := none
          calTable := s.tableNow })
  ∧ (∀ (n : Stall) (i : Fin 18) (inward : Bool) (merit : Byte) (s : State),
      (s.laneAt (laneKey inward n.val i.val)).searchEnded = false →
      exec (.laneTrainingDone n i inward merit) s = .next s)
  ∧ (∀ (n : Stall) (i : Fin 18) (inward : Bool) (merit again : Byte) (s : State), s.power.released = true →
      let k := laneKey inward n.val i.val
      let l := s.laneAt k
      l.state = .idle → l.port = 31 → s.obj (Obj.meritMin n.val) ≤ merit.toNat →
      exec (.spareMeritCheck n i inward merit again) s
        = .next (s.wakeTally.setLane k { l with merit := merit.toNat }))
  ∧ (∀ (n : Stall) (i : Fin 18) (inward : Bool) (merit again : Byte) (s : State), s.power.released = true →
      let k := laneKey inward n.val i.val
      let l := s.laneAt k
      l.state = .idle → l.port = 31 → merit.toNat < s.obj (Obj.meritMin n.val) →
      exec (.spareMeritCheck n i inward merit again) s
        = .next (s.wakeTally.setLane k { l with
            merit := again.toNat, state := if s.obj (Obj.meritMin n.val) ≤ again.toNat then .idle else .failed }))
  ∧ (∀ (n : Stall) (i : Fin 18) (inward : Bool) (merit : Byte) (spare : Nat) (rest : List Nat) (s : State),
      let k := laneKey inward n.val i.val
      let l := s.laneAt k
      l.state = .inService → l.port < 16 → merit.toNat < s.obj (Obj.meritFloor n.val) → s.time.onTb0 = true →
      s.flag (Obj.autoRemap n.val) = true → s.remapAllowed (16 * n.val + l.port) inward = true →
      s.spares inward n.val = spare :: rest → s.laneOf inward (16 * n.val + l.port) = some k →
      Gives (.lowMeritDetected n i inward merit) s [.lanes, .remaps] fun t =>
        t.remaps = s.remaps ++ [{ port := 16 * n.val + l.port, inward, spare, old := k, bell := s.firstBell 400
                                  stage := .scheduled, token := none }]
          ∧ (t.laneAt spare).state = .remapPending ∧ (t.laneAt k).merit = merit.toNat)
  ∧ (∀ (p : Port) (inward : Bool) (r : Remap) (s : State), s.remapOf p.val inward = some r →
      r.stage = .scheduled → exec (.remapStart p inward) s = .next (s.remapStage r .started).wakeTally)
  ∧ (∀ (p : Port) (inward : Bool) (r : Remap) (s : State), s.remapOf p.val inward = some r →
      r.stage = .started → exec (.remapReadinessCheck p inward true) s = .next (s.remapStage r .ready))
  ∧ (∀ (p : Port) (inward : Bool) (r : Remap) (s : State), s.remapOf p.val inward = some r →
      r.stage = .ready → s.reached r.token r.bell = true → r.spare ≠ r.old →
      Gives (.remapSwitch p inward) s [.objs, .lanes, .remaps, .ledger, .dict, .host] fun t =>
        t.laneAt r.spare = { s.laneAt r.spare with
            state := .inService, port := p.val % 16, remaps := ((s.laneAt r.spare).remaps + 1) % 65536 }
          ∧ t.laneAt r.old = { s.laneAt r.old with port := 31 })
  ∧ (∀ (p : Port) (inward : Bool) (merit : Byte) (r : Remap) (s : State), s.remapOf p.val inward = some r →
      r.stage = .switched →
      exec (.oldLaneIdle p inward merit) s
        = .next (({ s with remaps := s.remaps.filter (· != r) } : State).setLane r.old { s.laneAt r.old with
            merit := merit.toNat
            state := if s.obj (Obj.meritMin (p.val / 16)) ≤ merit.toNat then .idle else .failed }))

/-! ### Links (05) -/

/-- OPTICAL_LOCK lights the port's optics; LINK_INIT restarts the link's counts and announces the identity;
IDENTITY_FRAME of a fitting partner brings the link up, and the module into SERVICE at the end of its boot;
LINK_UNIT_RECEIVE accepts the next frame in order, keeps one that is ahead of it on a grouped port, counts the
codewords of the member that it came on, and naks the frame of an uncorrectable unit; LINK_UNIT_SEND sends init tags,
then replays, then runner frames, with their checks, on the next member of the rotation. -/
def Obligations.LinkComesUpAndCarries : Prop :=
  (∀ (p : Port) (s : State), (s.port p.val).phys = .lanes →
      Gives (.opticalLock p) s [.optics, .ports] fun t =>
        (t.port p.val).phys = .optical ∧ (t.fiber (64 + p.val / 16)).lit = true)
  ∧ (∀ (p : Port) (s : State), (s.port (s.portLow p.val)).takesInit = true →
      Gives (.linkInit p) s [.objs, .ports, .switch, .ledger, .free] fun t =>
        let x := t.port (s.portLow p.val)
        x.link = .init ∧ x.lseq = 0 ∧ x.expect = 0 ∧ x.retry = [] ∧ x.replayAt = none ∧ x.gotIdentity = false
          ∧ x.identitySent = true ∧ x.linkOut.length = 1 ∧ x.advertised = s.creditLimits (s.portLow p.val)
          ∧ x.phys = (s.port (s.portLow p.val)).phys)
  ∧ (∀ (p : Port) (w : BitVec 256) (s : State),
      let low := s.portLow p.val
      (s.port low).link = .init → (s.port low).identitySent = true → bits w.toNat 0 4 = 1 →
      bits w.toNat 48 2 = s.widthOf low → bits w.toNat 8 4 = s.obj Obj.plane →
      s.flag (Obj.refclkSpread 0) = false → bit (s.obj (Obj.expectedPeer low)) 31 = false →
      Gives (.identityFrame p w) s [.objs, .power, .optics, .ports] fun t =>
        (t.port low).link = .up ∧ (t.port low).joinDue = true ∧ (t.port low).gotIdentity = true
          ∧ (t.port low).peerLeaf = (if bit w.toNat 4 then none else some (bits w.toNat 12 12))
          ∧ (t.port low).peerPayload = bits w.toNat 64 8 * 256
          ∧ t.obj (Obj.peerIdentity low) = w.toNat
          ∧ t.power = (if s.power.boot = .links then { s.power with boot := .done, state := .service } else s.power))
  ∧ (∀ (p : Port) (u : LinkUnit) (f : RawFrame) (s : State),
      let low := s.portLow p.val
      (s.port low).link = .up → u.fecBad = false → tagOk u.tag.toNat = true → bit u.tag.toNat 20 = false →
      bit u.tag.toNat 51 = false → bit u.tag.toNat 22 = true → (s.port low).identitySent = true →
      (s.port low).nakRun < s.obj (Obj.replayLimit low) → u.frame = some f → u.codewords = [] → (s.port low).skew = [] →
      tagLseq u.tag.toNat = (s.port low).expect → rawHeaderOk f = true → rawPayloadOk f = true →
      (Frame.ofRaw f).typeOk = true → (Frame.ofRaw f).vc ≠ 5 →
      Gives (.linkUnitReceive p u) s [.ports, .ledger] fun t =>
        (t.port low).accepted = (s.port low).accepted ++ [Frame.ofRaw f]
          ∧ (t.port low).expect = ((s.port low).expect + 1) % 4096
          ∧ (t.port low).ackDue = true ∧ (t.port low).nakSent = none)
  ∧ (∀ (p : Port) (u : LinkUnit) (f : RawFrame) (s : State),
      let low := s.portLow p.val
      (s.port low).link = .up → u.fecBad = false → tagOk u.tag.toNat = true → bit u.tag.toNat 20 = false →
      bit u.tag.toNat 51 = false → bit u.tag.toNat 22 = true → (s.port low).identitySent = true →
      (s.port low).nakRun < s.obj (Obj.replayLimit low) → u.frame = some f → u.codewords = [] → (s.port low).skew = [] →
      1 < (s.activeMembers low).length → lseqAhead (s.port low).expect (tagLseq u.tag.toNat) = true →
      rawHeaderOk f = true → rawPayloadOk f = true →
      Gives (.linkUnitReceive p u) s [.ports] fun t =>
        (t.port low).skew = [(tagLseq u.tag.toNat, f, s.time.tb1)] ∧ (t.port low).accepted = (s.port low).accepted
          ∧ (t.port low).expect = (s.port low).expect ∧ (t.port low).nakDue = (s.port low).nakDue)
  ∧ (∀ (p : Port) (u : LinkUnit) (f : RawFrame) (s : State),
      let low := s.portLow p.val
      (s.port low).link = .up → u.fecBad = true → u.frame = some f → u.codewords = [none] → (s.port low).skew = [] →
      (s.port low).nakSent = none →
      Gives (.linkUnitReceive p u) s [.objs, .ports, .ledger] fun t =>
        (t.port low).nakSent = some (tagLseq u.tag.toNat) ∧ (t.port low).nakDue = true
          ∧ (t.port low).expect = (s.port low).expect ∧ (t.port low).accepted = (s.port low).accepted
          ∧ t.obj (Obj.naksSent low) = wrapCount (Obj.naksSent low) (s.obj (Obj.naksSent low) + 1)
          ∧ t.obj (Obj.fecUncorrectable p.val)
            = wrapCount (Obj.fecUncorrectable p.val) (s.obj (Obj.fecUncorrectable p.val) + 1))
  ∧ (∀ (p : Port) (u : LinkUnit) (n : Fin 16) (s : State),
      let low := s.portLow p.val
      (s.port low).link = .up → u.fecBad = false → tagOk u.tag.toNat = false → u.codewords = [some n] →
      (s.port low).skew = [] →
      Gives (.linkUnitReceive p u) s [.objs, .ports, .ledger] fun t =>
        t.port p.val = { s.port p.val with
          fecHist := listPut 0 (s.port p.val).fecHist n.val (((s.port p.val).fecHist.getD n.val 0 + 1) % 2 ^ 64) }
          ∧ t.obj (Obj.fecCorrected p.val)
            = wrapCount (Obj.fecCorrected p.val) (s.obj (Obj.fecCorrected p.val) + n.val))
  ∧ (∀ (p : Port) (s : State),
      let low := s.portLow p.val
      (s.port low).link = .init → (s.port low).identitySent = false →
      Gives (.linkUnitSend p) s [.objs, .time, .ports, .switch, .coll, .mem, .ledger, .dict, .host, .out] fun t =>
        let m := (s.setPort p.val { s.port p.val with busy := false }).nextMember low
        t.out = { s.out with unit := some (m, initTag, none) })
  ∧ (∀ (p : Port) (q : Nat) (f : Frame) (s : State),
      let low := s.portLow p.val
      (s.port low).link = .up → (s.port low).sending = none → (s.port low).replayAt = some q →
      ((s.port low).retry.find? fun e => e.1 == q) = some (q, f) →
      Gives (.linkUnitSend p) s [.objs, .time, .ports, .switch, .coll, .mem, .ledger, .dict, .host, .out] fun t =>
        let m := (s.setPort p.val { s.port p.val with busy := false }).nextMember low
        t.out = { s.out with unit := some (m, ((s.port low).makeTag (some q)).1, some f.toRaw) })
  ∧ (∀ (p : Port) (f : Frame) (s : State),
      let low := s.portLow p.val
      (s.port low).link = .up → (s.port low).sending = none → (s.port low).replayAt = none →
      (s.runnerFill low).runnerReady low = some f →
      Gives (.linkUnitSend p) s [.objs, .time, .ports, .switch, .coll, .mem, .ledger, .dict, .host, .out] fun t =>
        let m := (s.setPort p.val { s.port p.val with busy := false }).nextMember low
        t.out = { s.out with unit := some (m, ((s.port low).makeTag (some (s.port low).lseq)).1, some f.hopped.toRaw) })

/-- FEC_UNCORRECTABLE_LIMIT once 17 uncorrectable codewords lie within 1 ms, AM_LOCK_LOSS, RETRAIN_REQUEST,
REPLAY_LIMIT_REACHED and an accepted RETRAIN start a retrain from any running state of the link: sequence state is kept,
remote-fault ordered sets go out and the port leaves its bundle at the next boundary. RETRAIN_COMPLETE brings
the link back to that state with its replay, or to initialisation; RETRAIN_TIMEOUT takes it down. EXPECTED_PEER_WRITE is
compared at once. WIDTH_WRITE waits for WIDTH_CHANGE_EFFECT. -/
def Obligations.RetrainPeerAndWidth : Prop :=
  (∀ (p : Port) (c : Instr) (s : State), (s.port (s.portLow p.val)).running = true →
      (c = .fecUncorrectableLimit p ∧ (s.port p.val).fecLimit = true ∨ c = .amLockLoss p ∨ c = .retrainRequest p
        ∨ c = .replayLimitReached p
          ∧ s.obj (Obj.replayLimit (s.portLow p.val)) ≤ (s.port (s.portLow p.val)).nakRun
          ∧ s.portLow (s.portLow p.val) = s.portLow p.val) →
      Gives c s [.objs, .lanes, .remaps, .ports, .switch, .dict, .host] fun t =>
        t.ports = Tbl.set s.ports (s.portLow p.val) { s.port (s.portLow p.val) with
          link := .retrain, leaveDue := (s.port (s.portLow p.val)).inBundle, joinDue := false
          nakRun := 0, nakNamed := none, faultSent := true, retrainFrom := (s.port (s.portLow p.val)).link })
  ∧ (∀ (p : Port) (s : State), (s.port p.val).fecLimit = false → exec (.fecUncorrectableLimit p) s = .next s)
  ∧ (∀ (r : Requester) (p : Port) (s : State), Accepts r (Obj.retrain p.val) 1 s →
      (s.port (s.portLow p.val)).link = .up →
      Gives (.retrain r p 1) s [.objs, .lanes, .remaps, .ports, .switch, .ledger, .dict, .host, .out] fun t =>
        (t.port (s.portLow p.val)).link = .retrain ∧ t.out.code = 0
          ∧ (t.port (s.portLow p.val)).retry = (s.port (s.portLow p.val)).retry
          ∧ (t.port (s.portLow p.val)).leaveDue = (s.port (s.portLow p.val)).inBundle)
  ∧ (∀ (p : Port) (s : State),
      let low := s.portLow p.val
      (s.port low).link = .retrain → (s.activeMembers low).all s.lanesUp = true →
      s.settingsChanged low = false → (s.port low).retrainFrom ≠ .init →
      Gives (.retrainComplete p) s [.power, .ports] fun t =>
        t.port low = { s.port low with
          link := (s.port low).retrainFrom, joinDue := (s.port low).retrainFrom == .up, faultSent := false
          replayAt := (s.port low).retry.head?.map (·.1) }
        ∧ (∀ q, q ≠ low → t.port q = s.port q) ∧ (s.power.boot ≠ .links → t.power = s.power))
  ∧ (∀ (p : Port) (s : State),
      let low := s.portLow p.val
      (s.port low).link = .retrain → (s.activeMembers low).all s.lanesUp = true →
      s.settingsChanged low = true ∨ (s.port low).retrainFrom = .init →
      exec (.retrainComplete p) s = .next (s.setPort low { s.port low with
        link := .init, identitySent := false, gotIdentity := false, faultSent := false }))
  ∧ (∀ (p : Port) (s : State), (s.port (s.portLow p.val)).link = .retrain →
      Gives (.retrainTimeout p) s [.objs, .time, .lanes, .remaps, .ports, .switch, .coll, .mem, .ledger, .dict, .host]
        fun t => (t.port (s.portLow p.val)).link = .down
          ∧ (t.port (s.portLow p.val)).phys ≠ .optical)
  ∧ (∀ (r : Requester) (p : Port) (w : BitVec 64) (s : State), Accepts r (Obj.expectedPeer p.val) w.toNat s →
      (s.port (s.portLow p.val)).link = .down →
      exec (.expectedPeerWrite r p w) s = .next (answered r (Obj.expectedPeer p.val) w.toNat
        ((s.countBar r).putObj (Obj.expectedPeer p.val) w.toNat)))
  ∧ (∀ (r : Requester) (p : Port) (w : BitVec 64) (s : State), Accepts r (Obj.expectedPeer p.val) w.toNat s →
      s.portLow p.val = p.val → (s.port p.val).link = .up → (s.port p.val).gotIdentity = true →
      bit w.toNat 31 = true → bits w.toNat 0 20 ≠ peerOf (s.obj (Obj.peerIdentity p.val)) →
      Gives (.expectedPeerWrite r p w) s [.objs, .ports, .switch, .ledger, .dict, .host, .out] fun t =>
        t.port p.val = { s.port p.val with
          link := .peerMismatch, leaveDue := (s.port p.val).inBundle, joinDue := false })
  ∧ (∀ (r : Requester) (p : Port) (w : BitVec 64) (s : State), Accepts r (Obj.portWidth p.val) w.toNat s →
      exec (.widthWrite r p w) s = .next (answered r (Obj.portWidth p.val) w.toNat
        ((s.countBar r).setPort p.val { s.port p.val with widthDue := some w.toNat })))
  ∧ (∀ (p : Port) (w : Nat) (s : State), (s.port p.val).widthDue = some w → w ≤ 3 →
      Gives (.widthChangeEffect p) s
        [.objs, .time, .lanes, .remaps, .ports, .switch, .coll, .mem, .ledger, .dict, .host] fun t =>
        t.obj (Obj.portWidth p.val) = w ∧ ∀ q ∈ s.widthPorts p.val w, q ≠ p.val → t.obj (Obj.portWidth q) = 0)

/-! ### The switch core (06) -/

/-- A frame of a pitch that is not admitted is dropped, counted and its credits returned; a contribution of an
admitted pitch that its bucket does not meter, no mirror session being enabled, becomes a class 5 flight toward
the stall of its chunk's home. -/
def Obligations.IngressFrames : Prop :=
  (∀ (p : Port) (f : Frame) (rest : List Frame) (s : State),
      let low := s.portLow p.val
      (s.port low).accepted = f :: rest → exempt f = false → s.pitchAdmitted f.pitch = false →
      Gives (.ingressFrame p) s [.objs, .ports, .ledger] fun t =>
        t.obj Obj.unadmittedDrops = wrapCount Obj.unadmittedDrops (s.obj Obj.unadmittedDrops + 1)
          ∧ t.port low = { s.port low with
              accepted := rest, freed := addAt (s.port low).freed f.vc f.cells })
  ∧ (∀ (p : Port) (f : Frame) (rest : List Frame) (s : State),
      let low := s.portLow p.val
      (s.port low).accepted = f :: rest → s.pitchAdmitted f.pitch = true → f.ftype = 3 → f.vc = 4 →
      f.fromSpine = false → f.dest ≠ 0xFFFFF → unmetered (s.bucketRateOf f.pitch 4) = true →
      (s.share f.pitch 4 (low / 16)).held = [] →
      (∀ k < 16, bit (s.obj (Obj.mirrorControl k)) 0 = false) →
      Gives (.ingressFrame p) s [.objs, .ports, .switch, .pitches] fun t =>
        let home := s.homeFor f.group f.seq f.chunk
        (t.port low).accepted = rest
          ∧ t.flight s.switch.nextFlight = some { frame := f, stall := low / 16, inPort := some low, cls := 5
                                                  route := .home home, cells := f.cells, since := s.tb1Ns }
          ∧ t.switch.voq = pushQueue s.switch.voq (voqKey (low / 16) home 5) s.switch.nextFlight
          ∧ t.switch.nextFlight = s.switch.nextFlight + 1)

/-- CELL_SLOT moves the one cell that waits in a VOQ to its crosspoint and turns the class order over;
COLUMN_DRAIN moves the one class 5 cell of a column to the till intake, a contribution's to that of its chunk's home
(kept as its first cell arrives: the model's reading, log 109); RESTEER_FRAME takes a frame whose port
no longer serves out of the core's queues, and waits where its new port serves no more either (the model's reading,
log 108). -/
def Obligations.CellsCross : Prop :=
  (∀ (n o : Stall) (k : Fin 8) (i : Nat) (f : Flight) (s : State),
      s.switch.voq = [(voqKey n.val o.val k.val, [i])] → s.switch.mcq = [] → s.switch.gen = [] →
      s.switch.xp = [] → s.switch.genWait = [] → s.switch.xpTurn = [] → s.switch.grantPtr = [] →
      s.switch.acceptPtr = [] → k.val ≠ 5 → s.flight i = some f → f.cells = 1 → f.granted = 0 →
      f.inPort = none → f.buffer = none → f.preFlow = none → f.src = none →
      Gives .cellSlot s [.switch, .ledger] fun t =>
        t.switch.voq = [] ∧ t.switch.xp = [(8 * xpKey n.val o.val + k.val, [(i, 1)])]
          ∧ t.flight i = some { f with granted := 1, mask := f.fullMask }
          ∧ t.switch.tillFirst = !s.switch.tillFirst)
  ∧ (∀ (n o : Stall) (i : Nat) (f : Flight) (s : State),
      s.switch.xp = [(8 * xpKey n.val o.val + 5, [(i, 1)])] → s.switch.intake = [] → s.switch.genWait = [] →
      s.switch.drainTurn = [] → s.switch.drainPtr = [] → s.flight i = some f → f.route = .home o.val →
      let h := if f.frame.ftype = 5 then o.val
        else f.homed.getD (s.homeFor f.frame.group f.frame.seq f.frame.chunk)
      Gives (.columnDrain o) s [.switch] fun t =>
        t.switch.xp = [] ∧ t.switch.intake = [(h, [(i, 1)])]
          ∧ t.flight i = some { f with
              drained := f.drained + 1, took := f.took.filter (fun p => p / 16 != o.val), homed := some h })
  ∧ (∀ (o : Stall) (p b i : Nat) (f : Flight) (s : State), s.flight i = some f → i < s.switch.nextFlight →
      f.route = .unicast p (some b) → s.portServes p = false → s.atOutput i p = true → p / 16 = o.val →
      f.sentOn.contains p = false → s.genRoom o.val = true →
      (∀ m, (s.lookup o.val f.cls f.frame).2 = some m → s.portServes m.1 = true) →
      (s.allocService o.val f.frame.charge).2.isSome = true →
      Gives (.resteerFrame o i) s [.objs, .ports, .switch, .coll, .mem, .ledger, .dict, .host] fun t =>
        t.flight i = none)
  ∧ (∀ (o : Stall) (p b i : Nat) (f : Flight) (m : Nat × Nat) (s : State), s.flight i = some f →
      f.route = .unicast p (some b) → (s.lookup o.val f.cls f.frame).2 = some m → s.portServes m.1 = false →
      exec (.resteerFrame o i) s = .next s)

/-- EASE_RECEIVED holds the module's frames toward a leaf and EASE_HOLD_END ends that once its bells are over;
POLICER_RELEASE takes the oldest held frame out of its bucket; GUARD_FLOW_RELEASE and DRAIN_GUARD_END release what the
drain guard holds; BANK_READINESS_CHECK passes or fails a scheduled switch and BANK_SWITCH makes it; POOL_REBUILD
marks pools, POOL_REBUILD_DONE rebuilds an empty one at a boundary, POOL_REBUILD_ABANDON gives up after 10,000 bells.
-/
def Obligations.HoldsGuardsBanksAndPools : Prop :=
  (∀ (src : BitVec 20) (w : BitVec 128) (s : State), Gives (.easeReceived src w) s [.objs, .switch] fun t =>
      Tbl.find t.switch.easeHolds (src.toNat / 256)
        = some { level := bits w.toNat 0 4, untilRung := s.time.rung + bits w.toNat 40 8 }
      ∧ t.obj Obj.easeReceived = wrapCount Obj.easeReceived (s.obj Obj.easeReceived + 1))
  ∧ (∀ (leaf : Fin 4096) (h : EaseHold) (s : State), Tbl.find s.switch.easeHolds leaf.val = some h →
      h.untilRung ≤ s.time.rung →
      Gives (.easeHoldEnd leaf) s [.objs, .ports, .switch, .coll, .mem, .ledger, .dict, .host] fun t =>
        Tbl.find t.switch.easeHolds leaf.val = none
          ∧ (s.switch.genWait = [] → t = { s with switch := { s.switch with
              easeHolds := Tbl.erase s.switch.easeHolds leaf.val } }))
  ∧ (∀ (leaf : Fin 4096) (h : EaseHold) (s : State), Tbl.find s.switch.easeHolds leaf.val = some h →
      s.time.rung < h.untilRung → exec (.easeHoldEnd leaf) s = .next s)
  ∧ (∀ (n : Stall) (p : Pitch) (vc : Fin 8) (i : Nat) (rest : List Nat) (f : Flight) (s : State), vc.val ≠ 5 →
      s.conforms p.val vc.val n.val = true → (s.share p.val vc.val n.val).held = i :: rest →
      s.flight i = some f →
      Gives (.policerRelease n p vc) s
        [.objs, .ports, .switch, .pitches, .service, .coll, .mem, .ledger, .dict, .host]
        fun t => (t.share p.val vc.val n.val).held = rest)
  ∧ (∀ (n : Stall) (flow : Fin 4096) (i : Nat) (f : Flight) (s : State),
      s.preCountOf (4096 * n.val + flow.val) = 0 → s.guardHeldOf (4096 * n.val + flow.val) = [(i, f)] →
      exec (.guardFlowRelease n flow) s
        = .next ((s.setFlight i { f with hold := .none, since := s.tb1Ns }).pushVoq f.stall f.route.output f.cls i))
  ∧ (∀ (e : Nat) (s : State), s.switch.guardEnd = some e → e ≤ s.time.rung →
      Gives .drainGuardEnd s [.objs, .switch] fun t => t.switch.guardEnd = none ∧ t.switch.preCount = [])
  ∧ (∀ (b : BankSwitch) (s : State), s.switch.switch = some b → b.passed = none →
      s.bankDigest (1 - s.switch.bank) = b.digest → s.bankPortsOk (1 - s.switch.bank) = true →
      exec .bankReadinessCheck s
        = .next { s with switch := { s.switch with switch := some { b with passed := some true } } })
  ∧ (∀ (b : BankSwitch) (s : State), s.switch.switch = some b → b.passed = none →
      s.bankDigest (1 - s.switch.bank) ≠ b.digest →
      Gives .bankReadinessCheck s [.objs, .switch, .dict, .host] fun t =>
        t.switch = { s.switch with switch := none })
  ∧ (∀ (b : BankSwitch) (s : State), s.switch.switch = some b → b.passed = some true →
      s.reached (some b.token) b.bell = true →
      Gives .bankSwitch s [.objs, .switch, .dict, .host] fun t =>
        t.switch.bank = 1 - s.switch.bank ∧ t.switch.switch = none ∧ t.switch.spray = []
          ∧ t.switch.guardEnd = some (s.time.rung + s.obj Obj.drainGuard) ∧ t.switch.voq = s.switch.voq)
  ∧ (∀ (r : Requester) (n : Stall) (w : BitVec 64) (s : State), Accepts r (Obj.poolRebuild n.val) w.toNat s →
      Gives (.poolRebuild r n w) s [.switch, .ledger, .dict, .out] fun t =>
        ∀ k < 9, (t.pool n.val k).rebuildSince
          = if bit w.toNat k then some s.time.rung else (s.pool n.val k).rebuildSince)
  ∧ (∀ (n : Stall) (k : Fin 9) (r : Nat) (s : State), (s.pool n.val k.val).rebuildSince = some r →
      (s.pool n.val k.val).taken = [] → max r (s.pool n.val k.val).emptyRung < s.time.rung →
      Gives (.poolRebuildDone n k) s [.switch, .mem] fun t =>
        t.pool n.val k.val = { s.rebuiltPool n.val k.val with bad := (s.pool n.val k.val).bad })
  ∧ (∀ (n : Stall) (k : Fin 9) (s : State), (s.pool n.val k.val).taken ≠ [] →
      exec (.poolRebuildDone n k) s = .next s)
  ∧ (∀ (n : Stall) (k : Fin 9) (r : Nat) (s : State), (s.pool n.val k.val).rebuildSince = some r →
      exec (.poolRebuildAbandon n k) s = .next (if r + 10000 ≤ s.time.rung
        then s.setPool n.val k.val { s.pool n.val k.val with rebuildSince := none } else s))

/-! ### Pitches (07) -/

/-- ADMISSION_EFFECT gives a pitch its buckets from the command or the template and a new generation at the first
boundary after the command's intake, and does nothing before;
RELEASE_EFFECT starts its 16 bells there; PITCH_FREE ends them and returns its lease. -/
def Obligations.PitchLife : Prop :=
  (∀ (p : Pitch) (args : List Nat) (s : State), (s.pitch p.val).admission = some args →
      (s.pitch p.val).takenRung < s.time.rung →
      Gives (.admissionEffect p) s [.objs, .pitches] fun t =>
        t.pitch p.val = { state := .admitted }
          ∧ t.obj (Obj.pitchGeneration p.val) = (s.obj (Obj.pitchGeneration p.val) + 1) % 65536
          ∧ t.obj (Obj.openBooks p.val) = b2n (bit (args.getD 0 0) 24)
          ∧ (∀ n < 8, t.obj (Obj.bucketRate p.val n) = (if bit (args.getD 0 0) (16 + n)
              then bits (args.getD (1 + n) 0) 0 32 else s.obj (Obj.defaultRate n)))
          ∧ (∀ q, q ≠ p.val → t.pitch q = s.pitch q))
  ∧ (∀ (p : Pitch) (s : State), s.time.rung ≤ (s.pitch p.val).takenRung →
      exec (.admissionEffect p) s = .next s ∧ exec (.releaseEffect p) s = .next s)
  ∧ (∀ (p : Pitch) (s : State), (s.pitch p.val).releaseDue = true → (s.pitch p.val).takenRung < s.time.rung →
      Gives (.releaseEffect p) s
        [.objs, .power, .ports, .switch, .pitches, .service, .coll, .mem, .ledger, .dict, .host, .free] fun t =>
        t.pitch p.val = { s.pitch p.val with
          state := .releasing, releaseDue := false, freeAt := some ((s.pitch p.val).takenRung + 17) })
  ∧ (∀ (p : Pitch) (r : Nat) (s : State), (s.pitch p.val).state = .releasing → (s.pitch p.val).freeAt = some r →
      r ≤ s.time.rung →
      Gives (.pitchFree p) s [.objs, .pitches] fun t =>
        t.pitch p.val = {} ∧ t.obj (Obj.leaseBase p.val) = 0 ∧ t.obj (Obj.leaseCount p.val) = 0
          ∧ t.obj (Obj.leaseGeneration p.val) = (if s.obj (Obj.leaseCount p.val) = 0
              then s.obj (Obj.leaseGeneration p.val) else (s.obj (Obj.leaseGeneration p.val) + 1) % 65536))

/-! ### Service Ethernet (08) -/

/-- SERVICE_LOOKUP starts the oldest waiting frame, whose cache miss asks the chip table; PROBE_RETURN goes to
the next length, or drops an unknown unicast frame; CHIP_TABLE_INSERT writes a learned key to a free entry;
STAMP_WRITEBACK writes a stamp; SEG_LOCK, SEG_RELEASE and SEG_LOCK_EXPIRY take and end a segment's lock. -/
def Obligations.ServiceCommands : Prop :=
  (∀ (n : Stall) (f : Frame) (p : Nat) (rest : List (Frame × Nat)) (s : State),
      Tbl.get s.service.waiting n.val [] = (f, p) :: rest → Tbl.get s.service.lookups n.val [] = [] →
      14 ≤ f.payload.length → f.op = 0 → ((f.payload.take 6).getD 0 0).toNat % 2 = 0 →
      (((f.payload.drop 6).take 6).getD 0 0).toNat % 2 = 0 → s.flag (Obj.learnEnable f.pitch) = false →
      s.cacheWay n.val f.pitch (beNat ((f.payload.drop 6).take 6)) = none →
      s.cacheWay n.val f.pitch (beNat (f.payload.take 6)) = none →
      Gives (.serviceLookup n) s [.objs, .service, .free] fun t =>
        Tbl.get t.service.waiting n.val [] = rest
          ∧ Tbl.get t.service.lookups n.val [] = [{ frame := f, inPort := p, pad := s.free, stage := .chip }]
          ∧ t.obj (Obj.cacheMisses n.val)
            = wrapCount (Obj.cacheMisses n.val) (s.obj (Obj.cacheMisses n.val) + 1))
  ∧ (∀ (n : Stall) (l : Lookup) (a b : Nat) (ns : List Nat) (s : State),
      Tbl.get s.service.lookups n.val [] = [l] → l.stage = .prefixes (a :: b :: ns) → s.probePrefix l a = none →
      Gives (.probeReturn n 0) s [.objs, .service, .ledger] fun t =>
        Tbl.get t.service.lookups n.val [] = [{ l with stage := .prefixes (b :: ns) }])
  ∧ (∀ (n : Stall) (l : Lookup) (s : State), Tbl.get s.service.lookups n.val [] = [l] → l.stage = .chip →
      s.chipFind l.frame.pitch (beNat (l.frame.payload.take 6)) = none →
      s.obj (Obj.unknownAction l.frame.pitch) ≠ 0 →
      Gives (.probeReturn n 0) s [.objs, .ports, .service, .ledger] fun t =>
        Tbl.get t.service.lookups n.val [] = []
          ∧ t.obj (Obj.serviceDrops l.frame.pitch) = wrapCount (Obj.serviceDrops l.frame.pitch)
            (s.obj (Obj.serviceDrops l.frame.pitch) + 1))
  ∧ (∀ (n : Stall) (i : Insertion) (rest : List Insertion) (a w : Nat) (s : State), MemOk s.mem →
      Tbl.get s.service.inserts n.val [] = i :: rest →
      s.segLocked (segOf (chipEntry (macBucket i.pitch i.mac) 0)) = false → s.chipFind i.pitch i.mac = none →
      ((s.bucketEntries (macBucket i.pitch i.mac)).find? fun e => !macValid e.2) = some (a, w) →
      Gives (.chipTableInsert n) s [.objs, .service, .mem, .ledger] fun t =>
        Tbl.get t.service.inserts n.val [] = rest
          ∧ t.obj Obj.chipLearns = wrapCount Obj.chipLearns (s.obj Obj.chipLearns + 1)
          ∧ (s.cacheWay n.val i.pitch i.mac = none →
              t.read a 16 = leBytes 16 (macWord i.mac i.pitch false false i.endpoint i.port i.seen))
          ∧ ∀ k, k < a ∨ a + 16 ≤ k → readCell t.mem.cells k = readCell s.mem.cells k)
  ∧ (∀ (n : Stall) (p : Pitch) (mac : BitVec 48) (k a w : Nat) (e : MacEntry) (s : State), MemOk s.mem →
      s.cacheWay n.val p.val mac.toNat = some (k, e) → e.isStatic = false →
      e.written + s.obj Obj.stampInterval ≤ e.lastSeen →
      s.segLocked (segOf (chipEntry (macBucket e.pitch e.mac) 0)) = false →
      s.chipFind e.pitch e.mac = some (a, w) → macEndpoint w = e.endpoint → macStatic w = false →
      Gives (.stampWriteback n p mac) s [.objs, .service, .mem, .ledger] fun t =>
        Tbl.find t.service.caches k = some { e with written := e.lastSeen }
          ∧ t.read (a + 12) 4 = leBytes 4 (e.lastSeen % 2 ^ 32)
          ∧ ∀ x, x < a + 12 ∨ a + 16 ≤ x → readCell t.mem.cells x = readCell s.mem.cells x)
  ∧ (∀ (r : Requester) (w : BitVec 64) (s : State), Accepts r Obj.segLock w.toNat s → bit w.toNat 31 = true →
      s.segLocked (bits w.toNat 0 14) = false →
      Gives (.segLock r w) s [.service, .ledger, .dict, .out] fun t =>
        Tbl.find t.service.locks (bits w.toNat 0 14) = some { holder := r, since := s.time.rung }
          ∧ t.out.code = 0)
  ∧ (∀ (r : Requester) (w : BitVec 64) (l : SegLock) (s : State), Accepts r Obj.segLock w.toNat s →
      bit w.toNat 31 = false → Tbl.find s.service.locks (bits w.toNat 0 14) = some l → l.holder = r →
      Gives (.segRelease r w) s [.service, .ledger, .dict, .out] fun t =>
        Tbl.find t.service.locks (bits w.toNat 0 14) = none)
  ∧ (∀ (g : Fin 8480) (l : SegLock) (s : State), Tbl.find s.service.locks g.val = some l →
      l.since + s.obj Obj.segLockLimit ≤ s.time.rung →
      Gives (.segLockExpiry g) s [.objs, .service] fun t =>
        Tbl.find t.service.locks g.val = none
          ∧ t.obj Obj.lockExpired = wrapCount Obj.lockExpired (s.obj Obj.lockExpired + 1))

/-! ### Groups and tills (09, 10) -/

/-- TILL_INTAKE of a contribution refuses it: cause 5 where its group is not open to it (a closing group is open
only to its contexts), else cause 6 where its pitch differs, else cause 7 where its format or op differs. A
refused frame is taken from the intake and counted, and no context changes. -/
def Obligations.TillRefusalsInOrder : Prop :=
  (∀ (f : Frame) (s : State), (s.group f.group).state ≠ .opened →
      ((s.group f.group).state = .closing → s.ctxOf f.group f.seq f.chunk = none) →
      s.refuseCause f = some 5)
  ∧ (∀ (f : Frame) (s : State), (s.group f.group).state = .opened → (s.group f.group).pitch ≠ f.pitch →
      s.refuseCause f = some 6)
  ∧ (∀ (f : Frame) (s : State), (s.group f.group).state = .opened → (s.group f.group).pitch = f.pitch →
      f.format ≠ (s.group f.group).inFormat ∨ f.op ≠ (s.group f.group).op → s.refuseCause f = some 7)
  ∧ (∀ (n : Stall) (u : Upset) (i cause : Nat) (f : Frame) (rest : List (Nat × Frame)) (s : State),
      (s.intakeFrames n.val fun f => f.ftype != 5) = (i, f) :: rest → f.ftype = 3 →
      s.refuseCause f = some cause →
      Gives (.tillIntake ⟨n, u⟩) s [.objs, .ports, .switch, .coll, .mem, .ledger, .dict, .host] fun t =>
        t.coll.ctxs = s.coll.ctxs)

/-- GROUP_OPEN_AT_G opens a scheduled group and writes its bitmaps; GROUP_CLOSING_AT_C closes it and GROUP_FREE
frees it; GROUP_OPEN_FRAME makes an entry for the first open of an instance, DONE_INCREMENT counts a chunk
there, BARRIER_DEADLINE completes a barrier; SINK_POST posts a staged chunk. -/
def Obligations.GroupsQueuesAndSinks : Prop :=
  (∀ (g : Group) (s : State), (s.group g.val).state = .scheduled →
      s.reached (some (s.group g.val).token) (s.group g.val).openAt = true → s.openBroken g.val = none →
      Gives (.groupOpenAtG g) s [.objs, .switch, .coll, .dict, .host] fun t =>
        t.group g.val = { s.group g.val with
            state := .opened, outFrameData := s.frameData (s.group g.val) }
          ∧ t.switch = (s.writeBitmaps g.val (s.group g.val).ports).switch)
  ∧ (∀ (g : Group) (s : State), (s.group g.val).state = .opened → s.dueOn 0x04 0 16 g.val ≠ [] →
      Gives (.groupClosingAtC g) s [.objs, .switch, .coll, .mem, .dict, .host] fun t =>
        t.group g.val = { s.group g.val with state := .closing })
  ∧ (∀ (g : Group) (s : State), (s.group g.val).state = .closing → s.groupHolds g.val = false →
      Gives (.groupFree g) s [.objs, .switch, .coll, .custody, .dict, .host] fun t =>
        t.group g.val = { generation := (s.group g.val).generation } ∧ t.queueOf g.val = []
          ∧ ∀ n < 64, t.bitmap g.val n = 0)
  ∧ (∀ (n : Stall) (i : Nat) (f : Frame) (rest : List (Nat × Frame)) (s : State),
      (s.intakeFrames n.val fun f => f.ftype == 5 && f.op != 1) = (i, f) :: rest →
      let x := s.group f.group
      let m := bits (leNat (f.payload.take 8)) 0 10
      x.state = .opened → x.pitch = f.pitch → f.op = 0 → m < x.expected → 2 ≤ x.expected →
      x.aborted.contains f.seq = false → s.qEntry f.group f.seq = none → x.completed f.seq = false →
      (s.queueOf f.group).length < x.queueDepth →
      Gives (.groupOpenFrame n) s [.switch, .coll, .mem] fun t =>
        t.queueOf f.group = s.queueOf f.group ++ [{
            seq := f.seq, chunks := bits (leNat (f.payload.take 8)) 16 25, state := .opening, poisoned := false
            members := [m], done := 0, firstBell := s.time.bell, firstRung := s.time.rung
            slot := s.freeSlot f.group }]
          ∧ t.flight i = none)
  ∧ (∀ (g : Group) (seq : BitVec 32) (e : QEntry) (s : State), s.qEntry g.val seq.toNat = some e →
      s.barrierDue g.val e = true →
      Gives (.barrierDeadline g seq) s [.objs, .ports, .switch, .coll, .mem, .ledger, .dict, .host] fun t =>
        ∀ e' ∈ t.queueOf g.val, e'.seq = seq.toNat → e'.state = .complete)
  ∧ (∀ (g : Group) (seq : BitVec 32) (e : QEntry) (s : State),
      s.coll.donePosts.contains (g.val, seq.toNat) = true → s.qEntry g.val seq.toNat = some e →
      e.state = .assembled → e.done + 1 < e.chunks →
      Gives (.doneIncrement g seq) s [.coll, .mem] fun t =>
        t.qEntry g.val seq.toNat = some { e with done := e.done + 1 }
          ∧ t.coll.donePosts = s.coll.donePosts.erase (g.val, seq.toNat))
  ∧ (∀ (g : Group) (seq : BitVec 32) (chunk : BitVec 24) (c : Ctx) (s : State),
      (s.coll.ctxs.find? fun c => c.stage == .staged && c.named g.val seq.toNat chunk.toNat) = some c →
      s.pairOfGroup c.group = none → s.sinkRoom c.group c.home = true →
      exec (.sinkPost g seq chunk) s
        = .next (((s.dropStaged c).pushSink c.group c.home c.sinkEntry).postDone c.group c.seq))

/-- TILL_INTAKE makes the context of a chunk's first frame; OUTPUT_PASS_END ends it; RECEIPT_DEADLINE ends an
incomplete one and keeps its partial sums; LATE_WINDOW_END and KEPT_PARTIAL_RELEASE end the record's window and
its buffer; ABORT_FRAME is taken for the next boundary and ABORT_APPLY marks the instance aborted. -/
def Obligations.ContextsEndAndAreKept : Prop :=
  (∀ (n : Stall) (i : Nat) (f : Frame) (s : State),
      (s.intakeFrames n.val fun f => f.ftype != 5) = [(i, f)] → f.ftype = 3 → s.refuseCause f = none →
      s.ctxOf f.group f.seq f.chunk = none → s.keptOf f.group f.seq f.chunk = none →
      (s.group f.group).kind ≤ 1 → prefMember f.collWord < (s.group f.group).expected → f.last = false →
      ((s.intakeDone n.val i).newCtx n.val f.group f.seq f.chunk (s.group f.group).ctxBytes false).2 = true →
      Gives (.tillIntake ⟨n, .none⟩) s [.objs, .switch, .coll, .mem, .ledger, .dict, .host] fun t =>
        ∃ c, t.ctxOf f.group f.seq f.chunk = some c ∧ c.bytes = f.data.length ∧ c.home = n.val ∧ c.lasts = 0
          ∧ c.custody = false ∧ c.bornRung = s.time.rung)
  ∧ (∀ (g : Group) (seq : BitVec 32) (chunk : BitVec 24) (u : Upset) (c : Ctx) (s : State),
      s.ctxOf g.val seq.toNat chunk.toNat = some c → c.stage = .passing →
      Gives (.outputPassEnd g seq ⟨chunk, u⟩) s [.objs, .power, .ports, .switch, .coll, .mem, .ledger, .dict, .host, .free]
        fun t => t.ctxOf g.val seq.toNat chunk.toNat = none)
  ∧ (∀ (g : Group) (seq : BitVec 32) (chunk : BitVec 24) (c : Ctx) (s : State),
      s.ctxOf g.val seq.toNat chunk.toNat = some c → s.ctxDue c = true → c.custody = false →
      (s.group g.val).sinks = false → s.obj Obj.keptHold ≠ 0 →
      Gives (.receiptDeadline g seq chunk) s [.objs, .ports, .switch, .coll, .mem, .ledger, .dict, .host]
        fun t => t.ctxOf g.val seq.toNat chunk.toNat = none
          ∧ ∃ k, Tbl.find t.coll.kept (s.coll.keptNext % 4096) = some k ∧ k.group = g.val ∧ k.seq = seq.toNat
            ∧ k.chunk = chunk.toNat ∧ k.members = c.lastMembers ∧ k.buffer = c.buffer
            ∧ k.held = c.buffer.isSome ∧ k.lateWindow = true ∧ k.deadlineRung = s.time.rung)
  ∧ (∀ (i : Fin 4096) (k : Kept) (s : State), Tbl.find s.coll.kept i.val = some k → k.lateWindow = true →
      k.deadlineRung + s.obj Obj.retryQuiet ≤ s.time.rung →
      exec (.lateWindowEnd i) s = .next { s with coll := { s.coll with
        kept := Tbl.set s.coll.kept i.val { k with lateWindow := false } } })
  ∧ (∀ (i : Fin 4096) (k : Kept) (s : State), Tbl.find s.coll.kept i.val = some k → k.held = true →
      k.deadlineRung + s.obj Obj.keptHold ≤ s.time.rung →
      Gives (.keptPartialRelease i) s [.objs, .switch, .coll, .mem, .dict, .host] fun t =>
        Tbl.find t.coll.kept i.val = some { k with held := false, buffer := none }
          ∧ t.coll.ctxs = s.coll.ctxs)
  ∧ (∀ (n : Stall) (i : Nat) (f : Frame) (rest : List (Nat × Frame)) (s : State),
      (s.intakeFrames n.val fun f => f.ftype == 5 && f.op == 1) = (i, f) :: rest →
      (s.group f.group).state = .opened → (s.group f.group).pitch = f.pitch →
      bits (leNat (f.payload.take 8)) 0 10 < (s.group f.group).expected →
      Gives (.abortFrame n) s [.switch, .coll] fun t =>
        t.coll = { s.coll with aborts := s.coll.aborts ++ [{
            group := f.group, seq := f.seq, source := f.source
            opens := match s.qEntry f.group f.seq with
              | some e => e.members.length
              | none => 0
            rung := s.time.rung }] }
          ∧ t.flight i = none)
  ∧ (∀ (g : Group) (seq : BitVec 32) (a : AbortReq) (e : QEntry) (s : State),
      (s.coll.aborts.find? fun a => a.group == g.val && a.seq == seq.toNat && decide (a.rung < s.time.rung)) = some a →
      (s.group g.val).state = .opened → (s.group g.val).aborted.contains seq.toNat = false →
      (s.group g.val).completed seq.toNat = false → (s.group g.val).sinks = false →
      s.qEntry g.val seq.toNat = some e → e.state = .opening → s.abortCtxs g.val seq.toNat = [] →
      s.roundOf g.val seq.toNat = none → s.coll.kept = [] →
      Gives (.abortApply g seq) s
        [.objs, .ports, .switch, .coll, .mem, .custody, .ledger, .dict, .host, .free] fun t =>
        (t.group g.val).aborted.contains seq.toNat = true ∧ t.coll.aborts = s.coll.aborts.erase a
          ∧ t.qEntry g.val seq.toNat = some { e with state := .aborted })

/-! ### The runner and heartbeats (10) -/

/-- RUNNER_FRAME, and RUNNER_WAIT_RESUME for a frame that waits for a context, start the round of a first frame; a frame
that its bucket does not pass is held at the head of its queue, and RUNNER_WAIT_RESUME tries the oldest one; RUNNER_DUE
marks a round late and RUNNER_PATIENCE_END ends it; HEARTBEAT_SEND sends one heartbeat to each peer and
HEARTBEAT_RECEIVE records the bell of one. -/
def Obligations.RunnerAndHeartbeats : Prop :=
  (∀ (p : Port) (c : Instr) (f : Frame) (rest : List Frame) (s : State),
      let x := s.group f.group
      (s.port p.val).runnerIn = f :: rest → f.heartbeat = false →
      (c = .runnerFrame ⟨p, .none⟩ ∧ (s.port p.val).runnerWait = .none ∧ (s.share f.pitch 5 (p.val / 16)).held = []
        ∨ c = .runnerWaitResume ⟨p, .none⟩ ∧ (s.port p.val).runnerWait = .context
        ∨ c = .runnerWaitResume ⟨p, .none⟩ ∧ (s.port p.val).runnerWait = .bucket
          ∧ (s.share f.pitch 5 (p.val / 16)).held = [p.val]) →
      s.pitchAdmitted f.pitch = true → unmetered (s.bucketRateOf f.pitch 5) = true → unpoliced f = false →
      s.runnerRefusal f = none → (Tbl.get s.coll.ended f.group []).contains f.seq = false →
      s.roundOf f.group f.seq = none → s.roundsAt x.ghome < 64 → x.kind = 0 → 2 ≤ x.expected →
      Gives c s [.objs, .ports, .pitches, .coll] fun t =>
        (t.port p.val).runnerIn = rest ∧ (t.port p.val).runnerWait = .none
          ∧ t.coll.rounds = s.coll.rounds ++ [({
              group := f.group, seq := f.seq, home := x.ghome
              elements := f.data.length / unitBytesOf x.inFormat, acc := [], members := []
              bornRung := s.time.rung } : Round).take x f])
  ∧ (∀ (p : Port) (u : Upset) (f : Frame) (rest : List Frame) (s : State),
      (s.port p.val).runnerIn = f :: rest → f.heartbeat = false → (s.port p.val).runnerWait = .none →
      s.pitchAdmitted f.pitch = true → s.bucketRateOf f.pitch 5 = 0 → s.bucketDrops f.pitch 5 = false →
      unpoliced f = false →
      Gives (.runnerFrame ⟨p, u⟩) s [.objs, .ports, .pitches, .ledger] fun t =>
        t.port p.val = { s.port p.val with runnerWait := .bucket }
          ∧ (t.share f.pitch 5 (p.val / 16)).held = (s.share f.pitch 5 (p.val / 16)).held ++ [p.val])
  ∧ (∀ (g : Group) (seq : BitVec 32) (r : Round) (s : State), s.roundOf g.val seq.toNat = some r →
      r.running = true → r.late = false → r.bornRung + s.dueBells ≤ s.time.rung →
      exec (.runnerDue g seq) s = .next ((s.modRound r.group r.seq fun r => { r with late := true }).bump
        Obj.runnerLate))
  ∧ (∀ (g : Group) (seq : BitVec 32) (r : Round) (s : State), s.roundOf g.val seq.toNat = some r →
      r.running = true → r.bornRung + (s.group r.group).patience ≤ s.time.rung →
      Gives (.runnerPatienceEnd g seq) s [.objs, .ports, .coll] fun t =>
        (∀ r', t.roundOf g.val seq.toNat = some r' → r'.running = false)
          ∧ (Tbl.get t.coll.ended g.val []).contains seq.toNat = true)
  ∧ (∀ s : State, s.time.onTb0 = true →
      s.coll.heartbeatAt + s.obj Obj.heartbeatInterval ≤ s.time.rung →
      Gives .heartbeatSend s [.objs, .ports, .coll, .ledger] fun t =>
        t.coll.heartbeatAt = s.time.rung
          ∧ t.coll.heartbeats = s.coll.heartbeats
            + ((upTo 256).filter fun k => bit (s.obj Obj.heartbeatPeers) k).length)
  ∧ (∀ (p : Port) (f : Frame) (rest : List Frame) (s : State), (s.port p.val).runnerIn = f :: rest →
      f.heartbeat = true → bits f.body 0 4 = s.obj Obj.plane → f.dest % 256 = s.obj Obj.pos →
      Gives (.heartbeatReceive p) s [.ports, .mem] fun t =>
        (t.port p.val).runnerIn = rest ∧ t.mem.cells = s.mem.cells
          ∧ t.mem.tables = writeCells s.mem.tables
            (tableAddr Obj.heartbeatLast.key (8 * bits f.body 4 8)) (leBytes 8 s.time.bell))

/-! ### Update instructions (11) -/

/-- Each scalar instruction on xa and xb, on xa alone, or on xa and imm, that a thread can issue, completes: xd
takes the result (x0 none), the pc moves on by 8, and no other register, thread or byte changes. DIVU by 0
gives all ones and REMU by 0 gives xa. -/
def Obligations.ScalarInstructions : Prop :=
  ∀ (t : Stall) (n : ThreadNo) (f : InsnFields) (s : State),
  let x := s.thread t.val n.val
  let a := x.xr f.a.val
  let b := x.xr f.b.val
  let gives := fun (c : Instr) (w : Word) =>
    Retires c t n s [.update, .ledger] fun y _ => y = if f.d.val = 0 then x else { x with x := Tbl.set x.x f.d.val w }
  (CanIssue s t n f { d := .x, a := .x, b := .x } →
    gives (.ueAdd t n f) (a + b) ∧ gives (.ueSub t n f) (a - b) ∧ gives (.ueMul t n f) (a * b)
    ∧ gives (.ueDivu t n f) (if b = 0 then BitVec.allOnes 64 else BitVec.ofNat 64 (a.toNat / b.toNat))
    ∧ gives (.ueRemu t n f) (if b = 0 then a else BitVec.ofNat 64 (a.toNat % b.toNat))
    ∧ gives (.ueAnd t n f) (a &&& b) ∧ gives (.ueOr t n f) (a ||| b) ∧ gives (.ueXor t n f) (a ^^^ b)
    ∧ gives (.ueShl t n f) (a <<< (b.toNat % 64)) ∧ gives (.ueShr t n f) (a >>> (b.toNat % 64))
    ∧ gives (.ueSra t n f) (a.sshiftRight (b.toNat % 64))
    ∧ gives (.ueSlt t n f) (if a.toInt < b.toInt then 1 else 0)
    ∧ gives (.ueSltu t n f) (if a.toNat < b.toNat then 1 else 0)
    ∧ gives (.ueMin t n f) (if a.toInt < b.toInt then a else b)
    ∧ gives (.ueMax t n f) (if a.toInt < b.toInt then b else a)
    ∧ gives (.ueFadd t n f) (fpWord (toFp32 ((ofFp32 (fpOf a)).add (ofFp32 (fpOf b)))))
    ∧ gives (.ueFsub t n f) (fpWord (toFp32 ((ofFp32 (fpOf a)).add (ofFp32 (fpOf b)).neg)))
    ∧ gives (.ueFmul t n f) (fpWord (toFp32 ((ofFp32 (fpOf a)).mul (ofFp32 (fpOf b)))))
    ∧ gives (.ueFdiv t n f) (fpWord (toFp32 ((ofFp32 (fpOf a)).div (ofFp32 (fpOf b)))))
    ∧ gives (.ueFlt t n f) (if (ofFp32 (fpOf a)).lt (ofFp32 (fpOf b)) = true then 1 else 0))
  ∧ (CanIssue s t n f { d := .x, a := .x, imm := .full } →
    gives (.ueAddi t n f) (a + f.imm.signExtend 64) ∧ gives (.ueAndi t n f) (a &&& f.imm.signExtend 64)
    ∧ gives (.ueLhi t n f) (BitVec.ofNat 64 (f.imm.toNat * 2 ^ 32 + a.toNat % 2 ^ 32)))
  ∧ (CanIssue s t n f { d := .x, imm := .full } → gives (.ueLdi t n f) (f.imm.signExtend 64))
  ∧ (CanIssue s t n f { d := .x, a := .x, b := .x, imm := .regX } →
    gives (.ueFfma t n f) (fpWord (toFp32
      (((ofFp32 (fpOf a)).mul (ofFp32 (fpOf b))).add (ofFp32 (fpOf (x.xr (f.imm.toNat / 2 ^ 27))))))))
  ∧ (CanIssue s t n f { d := .x, a := .x } → gives (.ueFsqrt t n f) (fpWord (toFp32 (ofFp32 (fpOf a)).sqrt)))
  ∧ (CanIssue s t n f { d := .x, a := .x, imm := .below 3 } →
    (f.imm.toNat = 0 → gives (.ueFcvt t n f) (fpWord (toFp32 (FVal.ofInt a.toInt))))
    ∧ (f.imm.toNat = 1 → gives (.ueFcvt t n f)
        (BitVec.ofInt 64 ((ofFp32 (fpOf a)).toIntSat (-2 ^ 63) (2 ^ 63 - 1))))
    ∧ (f.imm.toNat = 2 → gives (.ueFcvt t n f) (fpWord (toFp32 (FVal.ofInt (Int.ofNat a.toNat))))))

/-- NOP and FENCE only move on; CSRR gives xd the special register; BR takes its target where its condition
holds; JAL and JR write the next pc to xd and go to their target, and JR to a target that is no multiple of 8
faults with code 1. -/
def Obligations.ControlInstructions : Prop :=
  ∀ (t : Stall) (n : ThreadNo) (f : InsnFields) (s : State),
  let x := s.thread t.val n.val
  let a := x.xr f.a.val
  let b := x.xr f.b.val
  let put := fun w : Word => if f.d.val = 0 then x else { x with x := Tbl.set x.x f.d.val w }
  let gives := fun (c : Instr) (y : Thread) => Gives c s [.update, .ledger] fun u =>
    u.update = (s.setThread t.val n.val y).update
  let taken := f.t.val = 0 ∧ a = b ∨ f.t.val = 1 ∧ a ≠ b ∨ f.t.val = 2 ∧ a.toInt < b.toInt
    ∨ f.t.val = 3 ∧ b.toInt ≤ a.toInt ∨ f.t.val = 4 ∧ a.toNat < b.toNat ∨ f.t.val = 5 ∧ b.toNat ≤ a.toNat
  (CanIssue s t n f {} → gives (.ueNop t n f) { x with pc := x.pc + 8 })
  ∧ (CanIssue s t n f { imm := .below 48 } → gives (.ueFence t n f) { x with pc := x.pc + 8 })
  ∧ (CanIssue s t n f { d := .x, imm := .below 13 } →
      let special := [s.time.bell, s.netNs, t.val, n.val, n.val - x.team, x.teamSize, s.pitchOf t.val n.val,
        s.time.cycles,
        b2n (s.team t.val x.team).residue + s.obj (Obj.ueResidueStall t.val) % 2 ^ 48 * 2 ^ 16,
        ((s.programOf x.run).map (·.id)).getD 0, s.obj Obj.pos, s.obj Obj.plane]
      (∀ k w, special[k]? = some w → f.imm.toNat = k →
        gives (.ueCsrr t n f) { put (BitVec.ofNat 64 w) with pc := x.pc + 8 })
      ∧ (f.imm.toNat = 12 → Gives (.ueCsrr t n f) s [.update, .ledger, .free] fun u =>
        u.update = (s.setThread t.val n.val { put (BitVec.ofNat 64 s.drawn) with pc := x.pc + 8 }).update))
  ∧ (CanIssue s t n f { a := .x, b := .x, types := [0, 1, 2, 3, 4, 5], imm := .full } →
      (taken → gives (.ueBr t n f) { x with pc := x.pc + f.imm.signExtend 48 * 8 })
      ∧ (¬ taken → gives (.ueBr t n f) { x with pc := x.pc + 8 }))
  ∧ (CanIssue s t n f { d := .x, imm := .full } →
      gives (.ueJal t n f) { put ((x.pc + 8).zeroExtend 64) with pc := x.pc + f.imm.signExtend 48 * 8 })
  ∧ (CanIssue s t n f { d := .x, a := .x, imm := .full } →
      let target := a + f.imm.signExtend 64
      (target.toNat % 8 = 0 →
        gives (.ueJr t n f) { put ((x.pc + 8).zeroExtend 64) with pc := BitVec.ofNat 48 target.toNat })
      ∧ (target.toNat % 8 ≠ 0 → exec (.ueJr t n f) s
          = .next ((issued s t n).faultThread t.val n.val 1 0)))

/-- Each vector instruction whose result is a lane by lane function completes: for every lane that its mask
enables, vd takes the result; every other lane and register is kept, whether or not vd is also a source. -/
def Obligations.VectorLanes : Prop :=
  ∀ (t : Stall) (n : ThreadNo) (f : InsnFields) (s : State),
  let x := s.thread t.val n.val
  let a := fun i => x.lane f.a.val i
  let b := fun i => if f.s then (x.xr f.b.val).truncate 32 else x.lane f.b.val i
  let c := fun i => x.lane (f.imm.toNat / 2 ^ 27) i
  let fp := fun i => ofFp32 (a i)
  let gives := fun (c : Instr) (op : Nat → Lane) =>
    Retires c t n s [.objs, .update, .ledger] fun y _ => LanesTaken x y f.d.val f.m.val op
  let less := fun p q : Lane => if f.t.val = 9 then p.toInt < q.toInt else p.toNat < q.toNat
  (CanIssue s t n f { d := .v, a := .v, b := .vs, mask := true } →
    gives (.ueVadd t n f) (fun i => fadd (a i) (b i)) ∧ gives (.ueVsub t n f) (fun i => fsub (a i) (b i))
    ∧ gives (.ueVmul t n f) (fun i => fmul (a i) (b i)) ∧ gives (.ueVmin t n f) (fun i => fmin (a i) (b i))
    ∧ gives (.ueVmax t n f) (fun i => fmax (a i) (b i)) ∧ gives (.ueVdiv t n f) (fun i => fdiv (a i) (b i)))
  ∧ (CanIssue s t n f { d := .v, a := .v, b := .vs, mask := true, imm := .regV } →
    gives (.ueVfma t n f) (fun i => ffma (a i) (b i) (c i))
    ∧ gives (.ueVfnma t n f) (fun i => ffnma (a i) (b i) (c i)))
  ∧ (CanIssue s t n f { d := .v, a := .v, mask := true } →
    gives (.ueVsqrt t n f) (fun i => fsqrt (a i))
    ∧ gives (.ueVabs t n f) (fun i => a i &&& 0x7FFFFFFF) ∧ gives (.ueVneg t n f) (fun i => a i ^^^ 0x80000000)
    ∧ Retires (.ueVrcp t n f) t n s [.objs, .update, .ledger, .free] (fun y _ => LanesTaken x y f.d.val f.m.val
        fun i => withinUlp ((FVal.fin false 1 0).div (fp i)) (Config.freeValue (s.free + i)))
    ∧ Retires (.ueVrsqrt t n f) t n s [.objs, .update, .ledger, .free] (fun y _ => LanesTaken x y f.d.val f.m.val
        fun i => withinUlp ((FVal.fin false 1 0).div (fp i).sqrt) (Config.freeValue (s.free + i))))
  ∧ (CanIssue s t n f { d := .v, a := .v, b := .vs, mask := true, imm := .below 8 } →
    gives (.ueVsel t n f) (fun i => if (x.mask f.imm.toNat).getLsbD i then a i else b i))
  ∧ (CanIssue s t n f { d := .v, a := .v, mask := true, imm := .below 3 } → gives (.ueVcvt t n f) (fun i =>
      if f.imm.toNat = 0 then toFp32 (FVal.ofInt (a i).toInt)
      else if f.imm.toNat = 1 then BitVec.ofInt 32 ((fp i).toIntSat (-2 ^ 31) (2 ^ 31 - 1))
      else toFp32 (FVal.ofInt (Int.ofNat (a i).toNat))))
  ∧ (CanIssue s t n f { d := .v, a := .v, b := .vs, mask := true, types := [0, 9, 11] } →
    gives (.ueViadd t n f) (fun i => a i + b i) ∧ gives (.ueVisub t n f) (fun i => a i - b i)
    ∧ gives (.ueVimul t n f) (fun i => a i * b i) ∧ gives (.ueVand t n f) (fun i => a i &&& b i)
    ∧ gives (.ueVor t n f) (fun i => a i ||| b i) ∧ gives (.ueVxor t n f) (fun i => a i ^^^ b i)
    ∧ gives (.ueVshl t n f) (fun i => a i <<< ((b i).toNat % 32))
    ∧ gives (.ueVperm t n f) (fun i => a ((b i).toNat % 32)))
  ∧ (CanIssue s t n f { d := .v, a := .v, b := .vs, mask := true, types := [9, 11] } →
    gives (.ueVshr t n f) (fun i =>
      if f.t.val = 9 then (a i).sshiftRight ((b i).toNat % 32) else a i >>> ((b i).toNat % 32))
    ∧ gives (.ueVimin t n f) (fun i => if less (a i) (b i) then a i else b i)
    ∧ gives (.ueVimax t n f) (fun i => if less (a i) (b i) then b i else a i))
  ∧ (CanIssue s t n f { d := .v, mask := true, types := [0, 9, 11], imm := .full } →
    gives (.ueVlane t n f) (fun i => BitVec.ofNat 32 i + f.imm))
  ∧ (CanIssue s t n f { d := .v, a := .x, mask := true, types := [0, 9, 11] } →
    gives (.ueVbcast t n f) (fun _ => (x.xr f.a.val).truncate 32))
  ∧ (CanIssue s t n f { d := .v, a := .x, mask := true, types := [0, 9, 11], imm := .below 32 } →
    Retires (.ueVins t n f) t n s [.objs, .update, .ledger] fun y _ =>
      y = { x with v := y.v } ∧ ∀ r i : Nat, i < 32 → y.lane r i =
        if r = f.d.val ∧ i = f.imm.toNat ∧ (x.mask f.m.val).getLsbD i then (x.xr f.a.val).truncate 32 else x.lane r i)

/-- VFCMP and VICMP set the enabled lanes' bits of md; MMOV moves and combines masks (m0 reads as all ones and
discards writes); VEXT reads one lane; VRED sums the enabled lanes in the order of the spec, one lane alone being
its own result. With no lane enabled VRED's result is a free value (log 6). -/
def Obligations.MasksAndReductions : Prop :=
  ∀ (t : Stall) (n : ThreadNo) (f : InsnFields) (s : State),
  let x := s.thread t.val n.val
  let a := fun i => x.lane f.a.val i
  let b := fun i => if f.s then (x.xr f.b.val).truncate 32 else x.lane f.b.val i
  let less := fun p q : Lane => if f.t.val = 9 then p.toInt < q.toInt else p.toNat < q.toNat
  let sets := fun (c : Instr) (p : Nat → Prop) =>
    Retires c t n s [.objs, .update, .ledger] fun y _ => y = { x with m := y.m }
      ∧ (∀ i < 32, f.d.val ≠ 0 → ((y.mask f.d.val).getLsbD i = true ↔
          if (x.mask f.m.val).getLsbD i = true then p i else (x.mask f.d.val).getLsbD i = true))
      ∧ ∀ k : Nat, k ≠ f.d.val ∨ k = 0 → y.mask k = x.mask k
  let gives := fun (c : Instr) (w : Word) =>
    Retires c t n s [.objs, .update, .ledger] fun y _ => y = x.setX f.d.val w
  (CanIssue s t n f { d := .m, a := .v, b := .vs, mask := true, imm := .below 4 } →
    sets (.ueVfcmp t n f) (fun i => fpCompare f.imm.toNat (a i) (b i) = true))
  ∧ (CanIssue s t n f { d := .m, a := .v, b := .vs, mask := true, types := [9, 11], imm := .below 3 } →
    sets (.ueVicmp t n f) (fun i =>
      if f.imm.toNat = 0 then a i = b i else if f.imm.toNat = 1 then less (a i) (b i) else ¬ less (b i) (a i)))
  ∧ (f.imm.toNat < 5 → CanIssue s t n f (mmovForm f.imm.toNat) →
    (f.imm.toNat = 0 → sets (.ueMmov t n f) fun i => (x.xr f.a.val).getLsbD i = true)
    ∧ (f.imm.toNat = 1 → gives (.ueMmov t n f) ((x.mask f.a.val).zeroExtend 64))
    ∧ (f.imm.toNat = 2 → sets (.ueMmov t n f) fun i =>
        (x.mask f.a.val).getLsbD i = true ∧ (x.mask f.b.val).getLsbD i = true)
    ∧ (f.imm.toNat = 3 → sets (.ueMmov t n f) fun i =>
        (x.mask f.a.val).getLsbD i = true ∨ (x.mask f.b.val).getLsbD i = true)
    ∧ (f.imm.toNat = 4 → sets (.ueMmov t n f) fun i =>
        (x.mask f.a.val).getLsbD i = true ∧ (x.mask f.b.val).getLsbD i = false))
  ∧ (CanIssue s t n f { d := .x, a := .v, mask := true, types := [9, 11], imm := .below 32 } →
    gives (.ueVext t n f) (if f.t.val = 9 then (a f.imm.toNat).signExtend 64 else (a f.imm.toNat).zeroExtend 64))
  ∧ (CanIssue s t n f { d := .x, a := .v, mask := true, imm := .below 4 } →
    (∀ i < 32, (∀ j < 32, (x.mask f.m.val).getLsbD j = decide (j = i)) →
      gives (.ueVred t n f) (if f.imm.toNat < 3 then (a i).zeroExtend 64 else (a i).signExtend 64))
    ∧ (f.imm.toNat = 3 → x.mask f.m.val ≠ 0 → gives (.ueVred t n f) (((List.range 32).map fun i =>
        if (x.mask f.m.val).getLsbD i then (a i).signExtend 64 else 0).foldl (· + ·) (0 : Word)))
    ∧ (x.mask f.m.val = 0 → Retires (.ueVred t n f) t n s [.objs, .update, .ledger, .free] fun y _ =>
        y = x.setX f.d.val (BitVec.ofNat 64 s.drawn)))

/-- A vector load that its thread may make. While its requests to the host would not fit, it waits. Else the enabled
lanes of its pieces in the module take their elements, each piece of the host is asked for, and the thread moves on or
waits for the host. An element is stated where every piece is defined and none lies in the mirror. -/
def Sys2Proof.LoadsLanes (c : Instr) (s : State) (t : Stall) (n : ThreadNo) (f : InsnFields) (op : Nat) (ps : List Piece)
    (val : Nat → Lane) : Prop :=
  let x := s.thread t.val n.val
  let away := ps.filter fun p => isHost p.addr
  let near := ps.filter fun p => !isHost p.addr
  s.piecesFault t n x .read op (memBytes f.t.val) ps .none = none →
  (away ≠ [] → s.hostRoom t.val away.length = false → exec c s = .next s)
  ∧ (away = [] ∨ s.hostRoom t.val away.length = true →
    Gives c s (if ps.any (fun p => isMirror p.addr) then [.objs, .time, .update, .ledger, .dict, .host, .free]
        else [.objs, .update, .ledger, .host, .free]) fun u => ∃ y : Thread,
      u.update = (s.setThread t.val n.val (if away = [] then y.next else { y with wait := .host s.host.nextReq })).update
      ∧ y = { x with v := y.v }
      ∧ (∀ r i : Nat, i < 32 → r ≠ f.d.val ∨ (∀ p ∈ near, i ∉ p.lanes) → y.lane r i = x.lane r i)
      ∧ ((∀ p ∈ near, isMirror p.addr = false ∧ Defined s x p.addr p.bytes) →
          u.free = s.free ∧ ∀ p ∈ near, ∀ i ∈ p.lanes, y.lane f.d.val i = val i)
      ∧ (away = [] → u.host = s.host)
      ∧ asked u.host = asked s.host ++ away.zipIdx.map fun e => (s.host.nextReq + e.2, e.1.addr - 0x200000000000,
          e.1.bytes, .load t.val n.val op f.t.val f.d.val f.m.val f.imm.toNat e.1.lanes))

/-- A load that its thread may make completes: LD gives xd the element, extended by its type; a vector load gives each
enabled lane of vd its element, and keeps the rest; VLDX gives a block's scaled elements. A load from a buffer that the
run does not hold, or from the C of an open descriptor, gives free values. A load of host memory sends its requests and
waits, or waits to issue while they do not fit; a load of the mirror reads the dictionary. No byte of memory changes. -/
def Obligations.LoadsReadMemory : Prop :=
  ∀ (t : Stall) (n : ThreadNo) (f : InsnFields) (s : State),
  let x := s.thread t.val n.val
  let a := (x.xr f.a.val + f.imm.signExtend 64).toNat
  let size := memBytes f.t.val
  let lanes := x.active f.m.val
  let one : List Piece := [{ addr := a, bytes := size }]
  let loads := fun (c : Instr) (op : Nat) (ps : List Piece) (addr : Nat → Nat) =>
    LoadsLanes c s t n f op ps fun i => loadLane f.t.val (s.readNat (addr i) size)
  (CanIssue s t n f { d := .x, a := .x, types := [0, 9, 10, 11, 12, 13], imm := .full } → a % size = 0 →
    s.piecesFault t n x .read 0x50 size one .none = none →
    (isHost a = false → isMirror a = false → Defined s x a size →
      Retires (.ueLd t n f) t n s [.objs, .update, .ledger] fun y _ =>
        y = x.setX f.d.val (if f.t.val = 9 then (BitVec.ofNat 32 (s.readNat a 4)).signExtend 64
          else BitVec.ofNat 64 (s.readNat a size)))
    ∧ (isHost a = false → isMirror a = false → ¬ Defined s x a size →
      Retires (.ueLd t n f) t n s [.objs, .update, .ledger, .free] fun y _ => ∃ w, y = x.setX f.d.val w)
    ∧ (isHost a = false → isMirror a = false → s.inPools a = true → s.holds x a size = false →
      Retires (.ueLd t n f) t n s [.objs, .update, .ledger, .free] fun y _ =>
        y = x.setX f.d.val (loadScalar f.t.val (leNat (freeBytesFrom s.free size))))
    ∧ (isHost a = true → s.hostRoom t.val 1 = false → exec (.ueLd t n f) s = .next s)
    ∧ (isHost a = true → s.hostRoom t.val 1 = true → Gives (.ueLd t n f) s [.update, .ledger, .host] fun u =>
      u.update = (s.setThread t.val n.val { x with wait := .host s.host.nextReq }).update
        ∧ asked u.host = asked s.host ++ [(s.host.nextReq, a - 0x200000000000, size,
            .load t.val n.val 0x50 f.t.val f.d.val f.m.val f.imm.toNat [])])
    ∧ (isMirror a = true → Retires (.ueLd t n f) t n s [.objs, .time, .update, .ledger, .dict, .free] fun y _ =>
      y = x.setX f.d.val (loadScalar f.t.val (leNat ((issued s t n).mirrorRead t n a size).2))))
  ∧ (CanIssue s t n f { d := .v, a := .x, mask := true, types := [0, 1, 2, 3, 4, 9, 11], imm := .full } →
    a % size = 0 → a / 4096 = (a + 32 * size - 1) / 4096 →
    loads (.ueVld t n f) 0x52 (spanPieces a size lanes) fun i => a + i * size)
  ∧ (CanIssue s t n f { d := .v, a := .x, b := .x, mask := true, types := [0, 1, 2, 3, 4, 9, 11] } →
    let addr := fun i => (x.xr f.a.val + BitVec.ofNat 64 i * x.xr f.b.val).toNat
    (∀ i ∈ lanes, addr i % size = 0) → loads (.ueVlds t n f) 0x55 (lanePieces size addr lanes) addr)
  ∧ (CanIssue s t n f { d := .v, a := .x, b := .vs, mask := true, types := [0, 1, 2, 3, 4, 9, 11] } →
    let addr := fun i => (x.xr f.a.val + (x.laneB f i).zeroExtend 64).toNat
    (∀ i ∈ lanes, addr i % size = 0) → loads (.ueVgather t n f) 0x57 (lanePieces size addr lanes) addr)
  ∧ (CanIssue s t n f { d := .v, a := .x, mask := true, types := [5, 6, 7, 8], imm := .below 16 } →
    let blk := f.imm.toNat % 8
    let b := (x.xr f.a.val).toNat + blk
    let len := 8 + (blk + 1) * (4 * packedBits f.t.val) - blk
    b / 4096 = (b + len - 1) / 4096 →
    LoadsLanes (.ueVldx t n f) s t n f 0x53 (if lanes = [] then [] else [{ addr := b, bytes := len, lanes := lanes }])
      (loadMx f.t.val f.imm.toNat (s.read b len)))

/-- A store that its thread may make completes: ST stores the low bytes of xd; a vector store stores each enabled lane
of vd, converted, at its address, the highest of lanes that overlap last. What goes to the host window leaves as
posted writes, of which the last is seen. Every byte outside the elements stored in the module reads as before, and no
register changes. -/
def Obligations.StoresWriteMemory : Prop :=
  ∀ (t : Stall) (n : ThreadNo) (f : InsnFields) (s : State), MemOk s.mem →
  let x := s.thread t.val n.val
  let a := (x.xr f.a.val + f.imm.signExtend 64).toNat
  let size := memBytes f.t.val
  let lanes := x.active f.m.val
  let stores := fun (c : Instr) (op : Nat) (ps : List Piece) (addr : Nat → Nat) =>
    s.piecesFault t n x .write op 1 ps .none = none → (∀ i ∈ lanes, s.inHole (addr i) = false) →
    let near := lanes.filter fun i => !isHost (addr i)
    let value := fun i => storeLane f.t.val f.r (s.free + i) (x.lane f.d.val i)
    Retires c t n s [.objs, .update, .arrays, .mem, .ledger, .free, .out] fun y u => y = x
      ∧ OutsideKept s u (near.map fun i => (addr i, size))
      ∧ (∀ i ∈ near, (∀ j ∈ near, i < j → addr i + size ≤ addr j ∨ addr j + size ≤ addr i) →
          u.read (addr i) size = value i)
      ∧ (∀ i ∈ lanes, isHost (addr i) = true → (∀ j ∈ lanes, i < j → isHost (addr j) = false) →
          u.out.hostWrite = some (addr i - 0x200000000000, value i))
      ∧ (near = lanes → u.out = s.out) ∧ (f.r = false → u.free = s.free)
      ∧ ((∀ i ∈ near, s.windowsAt (addr i) = []) → u.arrays = s.arrays)
  (CanIssue s t n f { d := .x, a := .x, types := [0, 9, 10, 11, 12, 13], imm := .full } → a % size = 0 →
    s.piecesFault t n x .write 0x51 1 [{ addr := a, bytes := size }] .none = none →
    (isHost a = false → s.inHole a = false →
      Retires (.ueSt t n f) t n s [.objs, .update, .arrays, .mem, .ledger] fun y u => y = x ∧ OutsideKept s u [(a, size)]
        ∧ u.readNat a size = (x.xr f.d.val).toNat % 2 ^ (8 * size)
        ∧ (s.windowsAt a = [] → u.arrays = s.arrays))
    ∧ (isHost a = true → Retires (.ueSt t n f) t n s [.objs, .update, .ledger, .out] fun y u => y = x
        ∧ u.out = { s.out with
            hostWrite := some (a - 0x200000000000, leBytes size (x.xr f.d.val).toNat), hostEp := [] }))
  ∧ (CanIssue s t n f { d := .v, a := .x, mask := true, types := [0, 1, 2, 3, 4, 9, 11], round := true, imm := .full } →
    a % size = 0 → a / 4096 = (a + 32 * size - 1) / 4096 →
    stores (.ueVst t n f) 0x54 (spanPieces a size lanes) fun i => a + i * size)
  ∧ (CanIssue s t n f { d := .v, a := .x, b := .x, mask := true, types := [0, 1, 2, 3, 4, 9, 11], round := true } →
    let addr := fun i => (x.xr f.a.val + BitVec.ofNat 64 i * x.xr f.b.val).toNat
    (∀ i ∈ lanes, addr i % size = 0) → stores (.ueVsts t n f) 0x56 (lanePieces size addr lanes) addr)
  ∧ (CanIssue s t n f { d := .v, a := .x, b := .vs, mask := true, types := [0, 1, 2, 3, 4, 9, 11], round := true } →
    let addr := fun i => (x.xr f.a.val + (x.laneB f i).zeroExtend 64).toNat
    (∀ i ∈ lanes, addr i % size = 0) → stores (.ueVscatter t n f) 0x58 (lanePieces size addr lanes) addr)

/-- An atomic that its thread may make returns the old value in xd and leaves the new one in its location; VAADD
adds each enabled lane; BMOV begins a move on its completion counter, asking the host for what lies there, and
BMOV_COMPLETE copies its bytes and counts it off, with error 17 where a unit read poisoned and 18 where the host failed.
Every byte outside the locations reads as before. -/
def Obligations.AtomicsAndBlockMoves : Prop :=
  (∀ (t : Stall) (n : ThreadNo) (f : InsnFields) (s : State), MemOk s.mem →
    let x := s.thread t.val n.val
    let a := (x.xr f.a.val).toNat
    let w := atomBytes f.t.val
    let old := s.readNat a w
    let gives := fun (c : Instr) (op : AtomOp) => a % w = 0 → s.inHole a = false →
      s.piecesFault t n x .atomic 0x70 w [{ addr := a, bytes := w }] .none = none →
      Retires c t n s [.objs, .update, .mem, .ledger] fun y u =>
        y = x.setX f.d.val (if f.t.val = 9 then (BitVec.ofNat 32 old).signExtend 64 else BitVec.ofNat 64 old)
        ∧ OutsideKept s u [(a, w)]
        ∧ u.readNat a w = op.apply f.t.val old ((x.xr f.b.val).toNat % 2 ^ (8 * w)) % 2 ^ (8 * w)
    (CanIssue s t n f { d := .x, a := .x, b := .x, types := [0, 1, 9, 10] } → gives (.ueAadd t n f) .add)
    ∧ (CanIssue s t n f { d := .x, a := .x, b := .x, types := [0, 9, 10, 11] } →
        gives (.ueAmin t n f) .min ∧ gives (.ueAmax t n f) .max)
    ∧ (CanIssue s t n f { d := .x, a := .x, b := .x, types := [10] } → gives (.ueAswp t n f) .swap)
    ∧ (CanIssue s t n f { d := .x, a := .x, b := .x, types := [10], imm := .regX } →
        gives (.ueAcas t n f) (.cas (x.xr (f.imm.toNat / 2 ^ 27)).toNat))
    ∧ (CanIssue s t n f { a := .x, b := .vs, mask := true, types := [0, 1, 9] } → a % w = 0 →
        a / 4096 = (a + 32 * w - 1) / 4096 → (∀ i ∈ x.active f.m.val, s.inHole (a + i * w) = false) →
        s.piecesFault t n x .atomic 0x75 w (spanPieces a w (x.active f.m.val)) .none = none →
        Retires (.ueVaadd t n f) t n s [.objs, .update, .mem, .ledger] fun y u => y = x
          ∧ OutsideKept s u ((x.active f.m.val).map fun i => (a + i * w, w))
          ∧ ∀ i ∈ x.active f.m.val, u.readNat (a + i * w) w
              = AtomOp.apply .add f.t.val (s.readNat (a + i * w) w) ((x.laneB f i).toNat % 2 ^ (8 * w)) % 2 ^ (8 * w)))
  ∧ (∀ (t : Stall) (n : ThreadNo) (f : InsnFields) (s : State),
    let x := s.thread t.val n.val
    let src := (x.xr f.a.val).toNat
    let dst := (x.xr f.d.val).toNat
    let len := (x.xr f.b.val).toNat
    CanIssue s t n f { d := .x, a := .x, b := .x, imm := .below 8 } → src % 64 = 0 → dst % 64 = 0 → len % 64 = 0 →
    len ≤ 2 ^ 20 → s.mayAccess t.val n.val x .read src len = true →
    s.mayAccess t.val n.val x .write dst len = true →
    let c := Tbl.get x.counters f.imm.toNat (0, 0)
    let y := { x with pc := x.pc + 8, counters := Tbl.set x.counters f.imm.toNat (c.1 + 1, c.2) }
    let moves := fun (u : State) (req : Option Nat) (failed : Bool) => u.thread t.val n.val = y
      ∧ u.update.moves = s.update.moves ++ [{
          stall := t.val, thread := n.val, counter := f.imm.toNat, src := src, dst := dst, bytes := len
          req := req, hostData := none, hostError := failed }]
    (isHost src = true → s.hostRoom t.val 1 = false → exec (.ueBmov t n f) s = .next s)
    ∧ (isHost src = true → s.hostRoom t.val 1 = true → s.hostOpen = true →
      Gives (.ueBmov t n f) s [.objs, .update, .ledger, .host] fun u => moves u (some s.host.nextReq) false
        ∧ asked u.host = asked s.host ++ [(s.host.nextReq, src - 0x200000000000, len, .move t.val n.val)])
    ∧ (isHost src = true → s.hostRoom t.val 1 = true → s.hostOpen = false →
      Gives (.ueBmov t n f) s [.objs, .update, .ledger] fun u => moves u (some s.host.nextReq) true)
    ∧ (isHost src = false → Gives (.ueBmov t n f) s [.objs, .update, .ledger] fun u => moves u none false))
  ∧ (∀ (t : Stall) (n : ThreadNo) (v : BlockMove) (s : State), MemOk s.mem → s.nextMove t.val n.val = some v →
    let x := s.thread t.val n.val
    let c := Tbl.get x.counters v.counter (0, 0)
    let counts := fun (u : State) (code : Nat) =>
      let err := if c.2 = 0 then code else c.2
      u.update.moves = s.update.moves.erase v
      ∧ (x.wait = .none → u.thread t.val n.val = { x with counters := Tbl.set x.counters v.counter (c.1 - 1, err) })
      ∧ ∀ d : Nat, x.wait = .counter v.counter d → c.1 = 1 → u.thread t.val n.val
          = ({ x with counters := Tbl.set x.counters v.counter (0, 0), wait := .none }.setX d (BitVec.ofNat 64 err)).next
    (v.hostError = true → Gives (.bmovComplete t n) s [.update, .arrays] fun u => counts u 18)
    ∧ (∀ data : List Byte, v.hostError = false →
      v.req = none ∧ v.hostData = none ∧ data = s.read v.src v.bytes ∧ (∀ k < v.bytes, s.inOpenC (v.src + k) = false)
        ∨ v.req ≠ none ∧ v.hostData = some data ∧ data.length = v.bytes →
      let bad := v.req = none ∧ ∃ k < ceilDiv v.bytes 64, s.readBad (v.src + 64 * k) 64 = true
      (isHost v.dst = false → (∀ k < v.bytes, s.inHole (v.dst + k) = false) →
        Gives (.bmovComplete t n) s [.objs, .update, .arrays, .mem] fun u =>
          u.read v.dst v.bytes = data ∧ OutsideKept s u [(v.dst, v.bytes)]
            ∧ (bad → counts u 17) ∧ (¬ bad → counts u 0))
      ∧ (isHost v.dst = true → s.hostOpen = true →
        Gives (.bmovComplete t n) s [.objs, .update, .arrays, .ledger, .out] fun u =>
          u.out.hostWrite = some (v.dst - 0x200000000000, data) ∧ (bad → counts u 17) ∧ (¬ bad → counts u 0))
      ∧ (isHost v.dst = true → s.hostOpen = false →
        Gives (.bmovComplete t n) s [.objs, .update, .arrays] fun u => counts u 18)))

/-- The stall and thread of an update instruction. -/
def Sys2Proof.issuer : Instr → Option (Stall × ThreadNo)
  | .ueNop t n _ | .ueAdd t n _ | .ueSub t n _ | .ueMul t n _ | .ueDivu t n _ | .ueRemu t n _ | .ueAnd t n _
  | .ueOr t n _ | .ueXor t n _ | .ueShl t n _ | .ueShr t n _ | .ueSra t n _ | .ueAddi t n _ | .ueAndi t n _
  | .ueLdi t n _ | .ueLhi t n _ | .ueSlt t n _ | .ueSltu t n _ | .ueMin t n _ | .ueMax t n _ | .ueFadd t n _
  | .ueFsub t n _ | .ueFmul t n _ | .ueFfma t n _ | .ueFdiv t n _ | .ueFsqrt t n _ | .ueFcvt t n _ | .ueFlt t n _
  | .ueCsrr t n _ | .ueBr t n _ | .ueJal t n _ | .ueJr t n _ | .ueVadd t n _ | .ueVsub t n _ | .ueVmul t n _
  | .ueVfma t n _ | .ueVfnma t n _ | .ueVmin t n _ | .ueVmax t n _ | .ueVdiv t n _ | .ueVsqrt t n _
  | .ueVrcp t n _ | .ueVrsqrt t n _ | .ueVabs t n _ | .ueVneg t n _ | .ueVfcmp t n _ | .ueVsel t n _
  | .ueVcvt t n _ | .ueVred t n _ | .ueMmov t n _ | .ueViadd t n _ | .ueVisub t n _ | .ueVimul t n _
  | .ueVand t n _ | .ueVor t n _ | .ueVxor t n _ | .ueVshl t n _ | .ueVshr t n _ | .ueVimin t n _
  | .ueVimax t n _ | .ueVicmp t n _ | .ueVlane t n _ | .ueVbcast t n _ | .ueVext t n _ | .ueVins t n _
  | .ueVperm t n _ | .ueLd t n _ | .ueSt t n _ | .ueVld t n _ | .ueVldx t n _ | .ueVst t n _ | .ueVlds t n _
  | .ueVsts t n _ | .ueVgather t n _ | .ueVscatter t n _ | .ueBmov t n _ | .ueAadd t n _ | .ueAmin t n _
  | .ueAmax t n _ | .ueAswp t n _ | .ueAcas t n _ | .ueVaadd t n _ | .ueFence t n _ | .ueTsync t n _
  | .ueBellw t n _ _ | .ueWaitm t n _ _ | .ueYield t n _ _ | .ueKwait t n _ | .ueEnd t n _ _ | .ueTake t n _ _
  | .ueTpoll t n _ | .ueGive t n _ | .ueOutbuf t n _ | .ueMcast t n _ | .ueRcpt t n _ | .ueMxi t n _ => some (t, n)
  | _ => none

/-- Update instructions as their fields make them, with the form of their word. -/
abbrev Sys2Proof.InsnList : Type := List ((Stall → ThreadNo → InsnFields → Instr) × (InsnFields → Form))

/-- Update instructions of one form. -/
def Sys2Proof.ofForm (g : Form) (cs : List (Stall → ThreadNo → InsnFields → Instr)) : InsnList :=
  cs.map fun c => (c, fun _ => g)

/-- Scalar, control, synchronisation, till and output instructions (11 R361, R362, R364, R365, R367 to R370; 12 R382).
-/
def Sys2Proof.scalarInsns (nj : Nat) : InsnList :=
  ofForm {} [.ueNop, (.ueYield · · · nj), (.ueEnd · · · nj)]
  ++ ofForm { d := .x, a := .x, b := .x } [.ueAdd, .ueSub, .ueMul, .ueDivu, .ueRemu, .ueAnd, .ueOr, .ueXor, .ueShl, .ueShr,
      .ueSra, .ueSlt, .ueSltu, .ueMin, .ueMax, .ueFadd, .ueFsub, .ueFmul, .ueFdiv, .ueFlt]
  ++ ofForm { d := .x, a := .x, imm := .full } [.ueAddi, .ueAndi, .ueLhi, .ueJr]
  ++ ofForm { d := .x, imm := .full } [.ueLdi, .ueJal]
  ++ ofForm { d := .x, a := .x, b := .x, imm := .regX } [.ueFfma]
  ++ ofForm { d := .x, a := .x } [.ueFsqrt, (.ueBellw · · · nj), (.ueTake · · · nj), .ueTpoll, .ueOutbuf]
  ++ ofForm { d := .x, a := .x, imm := .below 3 } [.ueFcvt]
  ++ ofForm { d := .x, imm := .below 13 } [.ueCsrr]
  ++ ofForm { a := .x, b := .x, types := [0, 1, 2, 3, 4, 5], imm := .full } [.ueBr]
  ++ ofForm { imm := .below 48 } [.ueFence] ++ ofForm { d := .x } [.ueTsync]
  ++ ofForm { a := .x, b := .x } [(.ueWaitm · · · nj)] ++ ofForm { d := .x, imm := .below 8 } [.ueKwait]
  ++ ofForm { a := .x } [.ueGive] ++ ofForm { d := .x, a := .x, b := .x, imm := .below 2 } [.ueMcast]
  ++ ofForm { d := .x, b := .x, imm := .only 0xF3 } [.ueRcpt] ++ ofForm { a := .x, imm := .below 8 } [.ueMxi]
  ++ ofForm { d := .x, a := .x, b := .x, imm := .below 8 } [.ueBmov]
  ++ ofForm { d := .x, a := .x, types := [0, 9, 10, 11, 12, 13], imm := .full } [.ueSt]

/-- Vector instructions and stores (11 R363, R364). -/
def Sys2Proof.vectorInsns : InsnList :=
  ofForm { d := .v, a := .v, b := .vs, mask := true } [.ueVadd, .ueVsub, .ueVmul, .ueVmin, .ueVmax, .ueVdiv]
  ++ ofForm { d := .v, a := .v, b := .vs, mask := true, imm := .regV } [.ueVfma, .ueVfnma]
  ++ ofForm { d := .v, a := .v, mask := true } [.ueVsqrt, .ueVabs, .ueVneg, .ueVrcp, .ueVrsqrt]
  ++ ofForm { d := .m, a := .v, b := .vs, mask := true, imm := .below 4 } [.ueVfcmp]
  ++ ofForm { d := .v, a := .v, b := .vs, mask := true, imm := .below 8 } [.ueVsel]
  ++ ofForm { d := .v, a := .v, mask := true, imm := .below 3 } [.ueVcvt]
  ++ ofForm { d := .x, a := .v, mask := true, imm := .below 4 } [.ueVred]
  ++ [(.ueMmov, fun f => mmovForm f.imm.toNat)]
  ++ ofForm { d := .v, a := .v, b := .vs, mask := true, types := [0, 9, 11] } [.ueViadd, .ueVisub, .ueVimul, .ueVand,
      .ueVor, .ueVxor, .ueVshl, .ueVperm]
  ++ ofForm { d := .v, a := .v, b := .vs, mask := true, types := [9, 11] } [.ueVshr, .ueVimin, .ueVimax]
  ++ ofForm { d := .m, a := .v, b := .vs, mask := true, types := [9, 11], imm := .below 3 } [.ueVicmp]
  ++ ofForm { d := .v, mask := true, types := [0, 9, 11], imm := .full } [.ueVlane]
  ++ ofForm { d := .v, a := .x, mask := true, types := [0, 9, 11] } [.ueVbcast]
  ++ ofForm { d := .x, a := .v, mask := true, types := [9, 11], imm := .below 32 } [.ueVext]
  ++ ofForm { d := .v, a := .x, mask := true, types := [0, 9, 11], imm := .below 32 } [.ueVins]
  ++ ofForm { d := .v, a := .x, mask := true, types := [0, 1, 2, 3, 4, 9, 11], round := true, imm := .full } [.ueVst]
  ++ ofForm { d := .v, a := .x, b := .x, mask := true, types := [0, 1, 2, 3, 4, 9, 11], round := true } [.ueVsts]
  ++ ofForm { d := .v, a := .x, b := .vs, mask := true, types := [0, 1, 2, 3, 4, 9, 11], round := true } [.ueVscatter]

/-- Loads (11 R364). -/
def Sys2Proof.loadInsns : InsnList :=
  ofForm { d := .x, a := .x, types := [0, 9, 10, 11, 12, 13], imm := .full } [.ueLd]
  ++ ofForm { d := .v, a := .x, mask := true, types := [0, 1, 2, 3, 4, 9, 11], imm := .full } [.ueVld]
  ++ ofForm { d := .v, a := .x, mask := true, types := [5, 6, 7, 8], imm := .below 16 } [.ueVldx]
  ++ ofForm { d := .v, a := .x, b := .x, mask := true, types := [0, 1, 2, 3, 4, 9, 11] } [.ueVlds]
  ++ ofForm { d := .v, a := .x, b := .vs, mask := true, types := [0, 1, 2, 3, 4, 9, 11] } [.ueVgather]

/-- Atomics (11 R365). -/
def Sys2Proof.atomInsns : InsnList :=
  ofForm { d := .x, a := .x, b := .x, types := [0, 1, 9, 10] } [.ueAadd]
  ++ ofForm { d := .x, a := .x, b := .x, types := [0, 9, 10, 11] } [.ueAmin, .ueAmax]
  ++ ofForm { d := .x, a := .x, b := .x, types := [10] } [.ueAswp]
  ++ ofForm { d := .x, a := .x, b := .x, types := [10], imm := .regX } [.ueAcas]
  ++ ofForm { a := .x, b := .vs, mask := true, types := [0, 1, 9] } [.ueVaadd]

/-- An update instruction of a thread that cannot issue changes nothing (the model's choice: log 10); a fetch outside
the image faults with code 8 and a poisoned one with code 5; an illegal word faults with code 1, a parity error of the
registers with code 5; with a residue mismatch or a corrected SRAM error an instruction does what it else does, and
the finding is told; a misaligned load or store and one without the right fault with codes 3 and 2, an SRAM error that
is not corrected with code 5. A fault halts the thread, keeps its registers and pc, and writes its record; a mismatch
sets the team's flags and is counted. -/
def Obligations.InstructionFaults : Prop :=
  (∀ (c : Instr) (t : Stall) (n : ThreadNo) (s : State), issuer c = some (t, n) →
    let x := s.thread t.val n.val
    (x.issues = false → exec c s = .next s)
    ∧ (x.issues = true → s.fetchOk x = false → exec c s = .next (s.faultThread t.val n.val 8 0))
    ∧ (x.issues = true → s.fetchOk x = true → s.fetchBad x = true →
        exec c s = .next (s.faultThread t.val n.val 5 0)))
  ∧ (∀ (nj : Nat) (t : Stall) (n : ThreadNo) (f : InsnFields) (s : State), AtInsn s t n →
    let x := s.thread t.val n.val
    let clean := { f with upset := .none }
    let tells := fun (c : Stall → ThreadNo → InsnFields → Instr) (adder : Option Nat) =>
      f.upset = .residue ∨ f.upset = .corrected → ∀ u : State, exec (c t n clean) s = .next u →
        exec (c t n f) s = .next u ∧ ((u.thread t.val n.val).state = .halted ∨ u = s)
        ∨ exec (c t n f) s = .next (u.struck t.val n.val adder f.upset) ∧ (u.thread t.val n.val).state ≠ .halted
    (∀ e ∈ scalarInsns nj ++ vectorInsns ++ loadInsns ++ atomInsns,
      ((e.2 f).ok f = false → exec (e.1 t n f) s = .next (s.faultThread t.val n.val 1 0))
      ∧ ((e.2 f).ok f = true → f.upset = .parity → exec (e.1 t n f) s = .next (s.faultThread t.val n.val 5 0)))
    ∧ (∀ e ∈ scalarInsns nj ++ vectorInsns, f.upset = .uncorrectable → exec (e.1 t n f) s = exec (e.1 t n clean) s)
    ∧ (∀ e ∈ scalarInsns nj ++ vectorInsns ++ loadInsns, tells e.1 none)
    ∧ (∀ e ∈ atomInsns, tells e.1 (s.adderAt (x.xr f.a.val).toNat)))
  ∧ (∀ (t : Stall) (n : ThreadNo) (f : InsnFields) (s : State), AtInsn s t n →
    f.upset = .none ∨ f.upset = .uncorrectable →
    ({ d := .x, a := .x, types := [0, 9, 10, 11, 12, 13], imm := .full } : Form).ok f = true →
    let x := s.thread t.val n.val
    let a := (x.xr f.a.val + f.imm.signExtend 64).toNat
    let size := memBytes f.t.val
    let faults := fun (c : Instr) (code : Nat) =>
      exec c s = .next ((issued s t n).faultThread t.val n.val code a)
    (a % size ≠ 0 → faults (.ueLd t n f) 3 ∧ faults (.ueSt t n f) 3)
    ∧ (a % size = 0 → isMirror a = false →
      (s.mayAccess t.val n.val x .read a size = false → faults (.ueLd t n f) 2)
      ∧ (s.mayAccess t.val n.val x .write a size = false → faults (.ueSt t n f) 2))
    ∧ (a % size = 0 → isWindow a = true → f.upset = .uncorrectable → s.readBad a 1 = false →
      s.piecesFault t n x .read 0x50 size [{ addr := a, bytes := size }] .none = none →
      exec (.ueLd t n f) s = .next (((issued s t n).sramBad t.val).faultThread t.val n.val 5 a)))
  ∧ (∀ (t : Stall) (n : ThreadNo) (code a : Nat) (s : State),
    let x := s.thread t.val n.val
    let u := s.faultThread t.val n.val code a
    (s.stopping x.run = false →
      u.thread t.val n.val = { x with state := .halted, fault := code, wait := .none })
    ∧ Tbl.find u.update.faults (s.obj Obj.ueFaults % 256) = some {
        code := code, stall := t.val, thread := n.val, run := x.run, pc := x.pc.toNat, address := a
        bell := s.time.bell, program := ((s.programOf x.run).map (·.id)).getD 0, pitch := s.pitchOf t.val n.val })
  ∧ (∀ (t : Stall) (n : ThreadNo) (s : State), (s.thread t.val n.val).state ≠ .free →
    let k := (s.thread t.val n.val).team
    let u := s.struck t.val n.val none .residue
    u.team t.val k = { s.team t.val k with residue := true, custodyResidue := true }
    ∧ u.obj Obj.ueResidueErrors = wrapCount Obj.ueResidueErrors (s.obj Obj.ueResidueErrors + 1))

/-- TSYNC waits at the team's barrier, or opens it and returns whether the team is broken; BELLW returns the bell,
or ends the segment and waits; WAITM and YIELD end the segment; KWAIT reads and clears a counter, or waits; END
leaves the team, and the last END frees the team's threads, as a yield of a stopping run does. A KWAIT that ends closes
the spans of the descriptors that it saw complete. -/
def Obligations.Synchronisation : Prop :=
  ∀ (t : Stall) (n : ThreadNo) (f : InsnFields) (nj : Nat) (s : State),
  let x := s.thread t.val n.val
  let a := (x.xr f.a.val).toNat
  let b := (x.xr f.b.val).toNat
  let team := s.team t.val x.team
  let goesOn := s.stopping x.run = false ∧ s.away t.val = false
  let yields := fun (c : Instr) (y : Thread) => Gives c s [.objs, .update, .ledger] fun u =>
    u.thread t.val n.val = { y with pc := x.pc + 8, charge := 0 }
      ∧ u.tankOf t.val = s.tankOf t.val + (x.charge : Int) - (nj : Int)
  let joins := fun (c : Instr) => Gives c s [.objs, .update, .ledger] fun u =>
    Tbl.get u.update.ready t.val [] = Tbl.get s.update.ready t.val [] ++ [n.val]
  (CanIssue s t n f { d := .x } →
    ((∃ k ∈ x.members, k ≠ n.val ∧ (s.thread t.val k).departed = false ∧ (s.thread t.val k).state ≠ .halted
        ∧ (s.thread t.val k).state ≠ .free ∧ k ∉ team.barrier) →
      Gives (.ueTsync t n f) s [.update, .ledger] fun u =>
        u.thread t.val n.val = { x with wait := .barrier f.d.val }
          ∧ u.team t.val x.team = { team with barrier := team.barrier ++ [n.val] })
    ∧ ((∀ k ∈ x.members, k ≠ n.val → (s.thread t.val k).departed = true ∨ (s.thread t.val k).state = .halted
        ∨ (s.thread t.val k).state = .free ∨ k ∈ team.barrier) →
      Gives (.ueTsync t n f) s [.update, .ledger] fun u =>
        u.thread t.val n.val = (x.setX f.d.val (if s.teamBroken t.val x = true then 1 else 0)).next
          ∧ u.team t.val x.team = { team with barrier := [] }))
  ∧ (CanIssue s t n f { d := .x, a := .x } →
    (a ≤ s.time.bell → Retires (.ueBellw t n f nj) t n s [.update, .ledger] fun y _ =>
      y = x.setX f.d.val (BitVec.ofNat 64 s.time.bell))
    ∧ (s.time.bell < a → goesOn →
      yields (.ueBellw t n f nj) { x with state := .waiting, wait := .bell a f.d.val }))
  ∧ (CanIssue s t n f { a := .x, b := .x } → a % 8 = 0 → stallWindow t.val ≤ a →
    a + 8 ≤ stallWindow t.val + 0x200000 → s.readBad a 8 = false → goesOn →
    (b ≤ s.readNat a 8 → yields (.ueWaitm t n f nj) { x with state := .ready } ∧ joins (.ueWaitm t n f nj))
    ∧ (s.readNat a 8 < b → yields (.ueWaitm t n f nj) { x with state := .waiting, wait := .location a b }))
  ∧ (CanIssue s t n f {} →
    (goesOn → yields (.ueYield t n f nj) { x with state := .ready } ∧ joins (.ueYield t n f nj))
    ∧ (s.stopping x.run = false → s.away t.val = true → yields (.ueYield t n f nj) { x with state := .parked })
    ∧ (s.stopping x.run = true → x.members = [n.val] → x.team = n.val →
      Gives (.ueYield t n f nj) s
        [.objs, .ports, .switch, .coll, .update, .arrays, .mem, .ledger, .dict, .host, .free, .out] fun u =>
        u.thread t.val n.val = {} ∧ u.team t.val x.team = {})
    ∧ (∀ k ∈ x.members, k ≠ n.val → (s.thread t.val k).departed = false → (s.thread t.val k).state ≠ .free →
      Gives (.ueEnd t n f nj) s
        [.objs, .ports, .switch, .coll, .update, .arrays, .mem, .custody, .ledger, .dict, .host, .free, .out] fun u =>
        u.thread t.val n.val = { x with pc := x.pc + 8, charge := 0, state := .waiting, departed := true })
    ∧ (n.val ∈ (s.thread t.val x.team).members → (∀ k ∈ x.members, k ≠ n.val → (s.thread t.val k).departed = true) →
      Gives (.ueEnd t n f nj) s
        [.objs, .ports, .switch, .coll, .update, .arrays, .mem, .custody, .ledger, .dict, .host, .free, .out] fun u =>
        u.thread t.val n.val = {} ∧ u.team t.val x.team = {}))
  ∧ (CanIssue s t n f { d := .x, imm := .below 8 } →
    let c := Tbl.get x.counters f.imm.toNat (0, 0)
    (c.1 = 0 → Retires (.ueKwait t n f) t n s [.update, .arrays, .ledger] fun y u =>
      y = { x with counters := Tbl.set x.counters f.imm.toNat (0, 0) }.setX f.d.val (BitVec.ofNat 64 c.2)
        ∧ (u.array t.val).windows
          = (s.array t.val).windows.filter fun w => !(w.thread == n.val && w.counter == f.imm.toNat))
    ∧ (c.1 ≠ 0 → Gives (.ueKwait t n f) s [.update, .ledger] fun u =>
      u.update = (s.setThread t.val n.val { x with wait := .counter f.imm.toNat f.d.val }).update))

/-- TAKE waits until the members of its team have all arrived, and a team of one takes the oldest entry of the queue
at once; TPOLL takes an entry or returns none (what else it then returns is free: log 6); GIVE frees a held buffer,
and waits while earlier output still reads it; OUTBUF returns a buffer or 0. TAKE_CLAIM gives a waiting team of one
its entry. -/
def Obligations.TillInstructions : Prop :=
  (∀ (t : Stall) (n : ThreadNo) (f : InsnFields) (nj : Nat) (s : State),
  let x := s.thread t.val n.val
  let d := f.d.val
  let g := (x.xr f.a.val).toNat % 65536
  let r := issued s t n
  let team := s.team t.val x.team
  let all := [.objs, .ports, .switch, .coll, .update, .mem, .custody, .ledger, .dict, .host, .free]
  (CanIssue s t n f { d := .x, a := .x } → 0 < d → d ≤ 28 → s.foreign t.val n.val g = false →
    (∀ w ∈ s.takers t.val x, w.2.1 = g) →
    (s.stopping x.run = false → s.away t.val = false → s.teamBroken t.val x = false → s.groupClosed g t.val = false →
      (∃ k ∈ x.members, k ≠ n.val ∧ (s.thread t.val k).departed = false ∧ (s.thread t.val k).wait = .none) →
      Gives (.ueTake t n f nj) s [.objs, .update, .ledger] fun u =>
        u.thread t.val n.val = { x with pc := x.pc + 8, state := .waiting, wait := .take g d, charge := 0 })
    ∧ (∀ (e : SinkEntry) (rest : List SinkEntry), s.stopping x.run = false → x.members = [n.val] →
      s.sinkOf g t.val = e :: rest →
      Gives (.ueTake t n f nj) s all fun u =>
        u.thread t.val n.val
          = { s.takeResult e x d with pc := x.pc + 8, state := .ready, charge := 0, wait := .none }))
  ∧ (CanIssue s t n f { d := .x, a := .x } → 0 < d → d ≤ 28 → s.foreign t.val n.val g = false → x.teamSize = 1 →
    (s.sinkOf g t.val = [] → Retires (.ueTpoll t n f) t n s [.update, .ledger, .free] fun y _ =>
      y.xr d = 0 ∧ y.xr (d + 2) = 0
        ∧ ∀ k : Nat, k ≠ d → k ≠ d + 1 → k ≠ d + 2 → k ≠ d + 3 → y.xr k = x.xr k)
    ∧ (∀ (e : SinkEntry) (rest : List SinkEntry), s.sinkOf g t.val = e :: rest →
      Gives (.ueTpoll t n f) s all fun u =>
        let y := u.thread t.val n.val
        y = (s.takeResult e x d).next ∧ y.xr d = BitVec.ofNat 64 e.addr ∧ y.xr (d + 1) = BitVec.ofNat 64 e.receipt
          ∧ y.xr (d + 2) = BitVec.ofNat 64 e.name))
  ∧ (CanIssue s t n f { a := .x } →
    let held := team.held.find? (s.inHeld (x.xr f.a.val).toNat 1)
    (held = none → Retires (.ueGive t n f) t n s [.update, .ledger] fun y _ => y = x)
    ∧ (∀ h : HeldBuf, held = some h → s.stillRead t.val n.val h.addr (s.heldSize h) = true →
      exec (.ueGive t n f) s = .next s)
    ∧ (∀ h : HeldBuf, held = some h → s.stillRead t.val n.val h.addr (s.heldSize h) = false →
      Gives (.ueGive t n f) s all fun u =>
      u.thread t.val n.val = x.next
        ∧ (u.team t.val x.team).held = team.held.filter fun b => b.addr != h.addr))
  ∧ (CanIssue s t n f { d := .x, a := .x } →
    let got := (r.allocFrom t.val (x.xr f.a.val).toNat [0, 1, 2, 3, 4]).2
    (got = none → Gives (.ueOutbuf t n f) s [.objs, .switch, .update, .ledger, .dict, .host] fun u =>
      u.thread t.val n.val = (x.setX d 0).next)
    ∧ (∀ a k : Nat, got = some (a, k) → Gives (.ueOutbuf t n f) s [.objs, .switch, .update, .ledger, .dict, .host]
        fun u => u.thread t.val n.val = (x.setX d (BitVec.ofNat 64 a)).next
          ∧ (u.team t.val x.team).held
            = team.held ++ [{ addr := a, bytes := poolSize k, chunk := none, counted := false }])))
  ∧ (∀ (t : Stall) (n : ThreadNo) (g d : Nat) (e : SinkEntry) (rest : List SinkEntry) (s : State),
    let x := s.thread t.val n.val
    x.members = [n.val] → x.state = .waiting → x.wait = .take g d → s.sinkOf g t.val = e :: rest →
    Gives (.takeClaim t n) s [.objs, .ports, .switch, .coll, .update, .mem, .custody, .ledger, .dict, .host, .free]
      fun u => u.thread t.val n.val = { s.takeResult e x d with state := .ready, wait := .none }
        ∧ n.val ∈ Tbl.get u.update.ready t.val [])

/-- MCAST adds its bytes to the team's output accumulator and sends them; RCPT closes the accumulator with a receipt;
MXI queues a descriptor on its completion counter and clears the descriptor's status, or ends one that is invalid or
reads poisoned with its error. Each waits at issue while the stall's generated traffic or its descriptor slots are
full. -/
def Obligations.OutputInstructions : Prop :=
  ∀ (t : Stall) (n : ThreadNo) (f : InsnFields) (s : State),
  let x := s.thread t.val n.val
  let a := (x.xr f.a.val).toNat
  let len := (x.xr f.b.val).toNat
  let u := (x.xr f.d.val).toNat
  let v := (x.xr (f.d.val + 1)).toNat
  let g := u % 65536
  let seq := u / 2 ^ 32
  let chunk := v % 2 ^ 24
  let offset := v / 2 ^ 24 % 2 ^ 24
  let grp := s.group g
  let team := s.team t.val x.team
  let waits := fun (c : Instr) => exec c s = .next s
  (CanIssue s t n f { d := .x, a := .x, b := .x, imm := .below 2 } → f.d.val ≠ 31 → grp.state = .opened →
    grp.kind = 5 → grp.pitch = s.pitchOf t.val n.val → mcastFits team.out g seq chunk offset = true →
    a + len ≤ s.dramUsable ∨ inOwnStores t.val a len = true → s.mayAccess t.val n.val x .read a len = true →
    s.readBad a len = false →
    (s.outputWaits t.val = true → waits (.ueMcast t n f))
    ∧ (s.outputWaits t.val = false → (∃ k < len, s.inOpenC (a + k) = true) → Gives (.ueMcast t n f) s
      [.objs, .ports, .switch, .coll, .update, .mem, .ledger, .dict, .host, .free, .out] fun w =>
      w.thread t.val n.val = x.next)
    ∧ (s.outputWaits t.val = false → (∀ k < len, s.inOpenC (a + k) = false) → Gives (.ueMcast t n f) s
      [.objs, .ports, .switch, .coll, .update, .mem, .ledger, .dict, .host, .out] fun w =>
      let old := team.out.getD { group := g, seq := seq, chunk := chunk, elements := 0, data := [] }
      w.thread t.val n.val = x.next
        ∧ w.team t.val x.team = { team with out := some { old with
            elements := old.elements + len / unitBytesOf grp.outFormat * unitElems grp.outFormat
            data := old.data ++ s.read a len } }))
  ∧ (CanIssue s t n f { d := .x, b := .x, imm := .only 0xF3 } → f.d.val ≠ 31 → s.groupLive g = true →
    grp.kind = 5 → grp.pitch = s.pitchOf t.val n.val →
    (s.outputWaits t.val = true → waits (.ueRcpt t n f))
    ∧ (s.outputWaits t.val = false → Gives (.ueRcpt t n f) s
      [.objs, .ports, .switch, .coll, .update, .mem, .ledger, .dict, .host, .free, .out] fun w =>
      w.thread t.val n.val = x.next ∧ w.team t.val x.team = { team with out := none, residue := false }))
  ∧ (CanIssue s t n f { a := .x, imm := .below 8 } → a % 64 = 0 → inOwnStores t.val a 64 = true →
    (s.freeDescSlot t.val = none → waits (.ueMxi t n f))
    ∧ (∀ slot : Nat, s.freeDescSlot t.val = some slot → s.readBad a 64 = false →
      DescWord.valid (s.readNat a 56) = true →
      Gives (.ueMxi t n f) s [.objs, .update, .arrays, .mem, .ledger] fun w =>
        w.thread t.val n.val = (x.addCounter f.imm.toNat).next
          ∧ (w.array t.val).descs = (s.array t.val).descs ++ [{
              slot := slot, order := (s.array t.val).nextOrder, fields := s.readNat a 56, addr := a, thread := n.val
              counter := f.imm.toNat, stage := .queued, late := s.away t.val, rung := s.time.rung }]
          ∧ w.mem = (s.write (a + 56) (leBytes 8 0)).mem
          ∧ (w.array t.val).windows = (s.array t.val).windows
              ++ [DescWord.window (s.readNat a 56) t.val (s.array t.val).nextOrder n.val f.imm.toNat])
    ∧ (∀ slot : Nat, s.freeDescSlot t.val = some slot → s.readBad a 64 = true ∨ DescWord.valid (s.readNat a 56) = false →
      let c := Tbl.get x.counters f.imm.toNat (0, 0)
      let code := if s.readBad a 64 = true then 3 else 1
      Gives (.ueMxi t n f) s [.objs, .update, .arrays, .mem, .ledger] fun w =>
        let left := Tbl.set (x.addCounter f.imm.toNat).counters f.imm.toNat (c.1, if c.2 = 0 then code else c.2)
        w.thread t.val n.val = { x with pc := x.pc + 8, counters := left }
          ∧ (w.array t.val).descs = (s.array t.val).descs
          ∧ w.mem = ((s.write (a + 56) (leBytes 8 0)).write (a + 56) (leBytes 8 (code + 256))).mem))

/-- START_THREADS_EFFECT starts a run's threads at its entry with x1 and x2 set; STOP_THREADS_EFFECT ends those that
do not run; THREAD_ADMISSION admits the thread ready longest and charges the tank, or nobody; SEG_WATCHDOG faults a
long segment with code 7, unless it waits for a descriptor that its stall's absence holds; BELLW_WAKE and WAITM_WAKE
make a thread ready whose condition holds. -/
def Obligations.ThreadsRunAndWake : Prop :=
  (∀ (k : Fin 64) (p : Program) (s : State),
    let r := s.runOf k.val
    r.state = .scheduled → s.reached (some r.token) r.startAt = true → s.pitchAdmitted r.pitch = true →
    s.programOf k.val = some p →
    Gives (.startThreadsEffect k) s [.objs, .update, .dict, .host] fun u =>
      u.runOf k.val = { r with state := .running }
        ∧ ∀ e ∈ s.threadsOf k.val, let y := u.thread e.1 e.2
          y.pc = BitVec.ofNat 48 (p.base + r.entry) ∧ y.xr 1 = BitVec.ofNat 64 r.argument
            ∧ y.xr 2 = BitVec.ofNat 64 (256 * e.1 + e.2) ∧ y.state = (if s.away e.1 then .parked else .ready)
            ∧ y.wait = .none ∧ y.v = [] ∧ y.m = [])
  ∧ (∀ (k : Fin 64) (t n : Nat) (s : State), (s.runOf k.val).state = .running → s.dueOn 0x06 0 6 k.val ≠ [] →
    s.threadsOf k.val = [(t, n)] → (s.thread t n).members = [n] → (s.thread t n).team = n →
    Gives (.stopThreadsEffect k) s
      [.objs, .ports, .switch, .coll, .update, .arrays, .mem, .ledger, .dict, .host, .free, .out] fun u =>
      ((s.thread t n).state = .running → u.thread t n = s.thread t n
          ∧ u.runOf k.val = { s.runOf k.val with state := .stopping })
        ∧ ((s.thread t n).state ≠ .running → u.thread t n = {} ∧ (u.runOf k.val).state ≠ .running))
  ∧ (∀ (t : Stall) (n : Nat) (rest : List Nat) (s : State), Tbl.get s.update.ready t.val [] = n :: rest →
    let x := s.thread t.val n
    let c := s.chargeOf t.val x.run
    (s.mayAdmit t.val c = false → exec (.threadAdmission t) s = .next s)
    ∧ (s.mayAdmit t.val c = true → Gives (.threadAdmission t) s [.objs, .update, .ledger] fun u =>
        u.thread t.val n = { x with state := .running, wait := .none, charge := c, segRung := s.time.rung }
          ∧ Tbl.get u.update.ready t.val [] = (n :: rest).filter (· != n)
          ∧ u.tankOf t.val = s.tankOf t.val - (c : Int)))
  ∧ (∀ (t : Stall) (n : ThreadNo) (s : State),
    let x := s.thread t.val n.val
    let held := s.away t.val = true ∧ ∃ d ∈ (s.array t.val).descs, d.late = true ∧ d.stage = .queued ∧ d.thread = n.val
    x.state = .running → (held → exec (.segWatchdog t n) s = .next s) ∧ (¬ held →
    (x.segRung + s.obj Obj.segWatchdog < s.time.rung →
      exec (.segWatchdog t n) s = .next (s.faultThread t.val n.val 7 0))
    ∧ (s.time.rung ≤ x.segRung + s.obj Obj.segWatchdog → exec (.segWatchdog t n) s = .next s)))
  ∧ (∀ (t : Stall) (n : ThreadNo) (target d : Nat) (s : State),
    let x := s.thread t.val n.val
    let ready := Tbl.get s.update.ready t.val [] ++ [n.val]
    x.state = .waiting →
    (x.wait = .bell target d → target ≤ s.time.bell → Gives (.bellwWake t n) s [.update] fun u =>
      u.thread t.val n.val = { x.setX d (BitVec.ofNat 64 s.time.bell) with state := .ready, wait := .none }
        ∧ Tbl.get u.update.ready t.val [] = ready)
    ∧ (x.wait = .location d target → target ≤ s.readNat d 8 → Gives (.waitmWake t n) s [.update] fun u =>
      u.thread t.val n.val = { x with state := .ready, wait := .none }
        ∧ Tbl.get u.update.ready t.val [] = ready))

/-! ### Matrix arrays (12) -/

/-- DESCRIPTOR_ADMIT admits the oldest queued descriptor against the tank; DESCRIPTOR_START streams it, or ends it
with error 4 on a fenced sub-array; DESCRIPTOR_COMPLETE writes C's enabled elements and the status word, or ends the
descriptor with error 3 on a poisoned operand, its C then free, as that of one whose spans a store met is; a cut array
completes none. ARRAY_RESIDUE_MISMATCH fences the gang's sub-arrays; a self-test starts or waits for the opening tally,
and ends by lifting the fence at the next boundary or by leaving the sub-arrays stuck. -/
def Obligations.ArraysRunDescriptors : Prop :=
  (∀ (t : Stall) (d : Desc) (s : State), s.nextDesc t.val = some d →
    let c := descCharge d.fields
    ((d.late = true ∧ s.away t.val = true) ∨ s.mayAdmitDesc t.val c = false →
      exec (.descriptorAdmit t) s = .next s)
    ∧ (d.late = false ∨ s.away t.val = false → s.mayAdmitDesc t.val c = true →
      Gives (.descriptorAdmit t) s [.objs, .arrays] fun u =>
        (u.array t.val).tank = (s.array t.val).tank - (c : Int)
          ∧ (u.array t.val).descs = (s.array t.val).descs.map fun e =>
              if e.slot = d.slot then { e with stage := .admitted } else e))
  ∧ (∀ (t : Stall) (slot : Fin 32) (d : Desc) (s : State), s.descAt t.val slot.val = some d → d.stage = .admitted →
    (∀ e ∈ (s.array t.val).descs, blocksStart d e = false) →
    ((s.array t.val).fenced &&& DescWord.mask d.fields = 0 → Gives (.descriptorStart t slot) s [.arrays] fun u =>
      (u.array t.val).descs = (s.array t.val).descs.map fun e =>
        if e.slot = d.slot then { e with stage := .streaming } else e)
    ∧ ((s.array t.val).fenced &&& DescWord.mask d.fields ≠ 0 →
      Gives (.descriptorStart t slot) s [.objs, .update, .arrays, .mem] fun u =>
        (u.array t.val).descs = (s.array t.val).descs.filter (fun e => e.slot != d.slot)
          ∧ u.mem = (s.write (d.addr + 56) (leBytes 8 (4 + 256))).mem))
  ∧ (∀ (t : Stall) (slot : Fin 32) (bubbles : Nat) (found : Upset) (d : Desc) (s : State),
    s.descAt t.val slot.val = some d → d.stage = .streaming → s.firstAtPos t.val d = true →
    let ends := fun (l : List Part) (code : Nat) => Gives (.descriptorComplete t slot bubbles found) s l fun u =>
      (u.array t.val).descs = (s.array t.val).descs.filter (fun e => e.slot != d.slot)
        ∧ bits (u.readNat (d.addr + 56) 8) 0 9 = 256 + code
    (s.stoppedByCut t.val = true → exec (.descriptorComplete t slot bubbles found) s = .next s)
    ∧ (MemOk s.mem → s.stoppedByCut t.val = false → found = .uncorrectable ∨ s.operandBad t.val d.fields = true →
      ends [.objs, .update, .arrays, .mem, .ledger, .dict, .host, .free] 3)
    ∧ (MemOk s.mem → s.stoppedByCut t.val = false → found ≠ .uncorrectable → s.operandBad t.val d.fields = false →
      s.descSpoiled t.val d = true → ends [.objs, .update, .arrays, .mem, .ledger, .free] 0))
  ∧ (∀ (t : Stall) (slot : Fin 32) (bubbles : Nat) (found : Upset) (d : Desc) (s : State), MemOk s.mem →
    s.descAt t.val slot.val = some d → d.stage = .streaming → s.firstAtPos t.val d = true →
    s.stoppedByCut t.val = false → found ≠ .uncorrectable → s.descSpoiled t.val d = false →
    s.operandBad t.val d.fields = false → DescWord.valid d.fields = true →
    let bytes := unitBytesOf (DescWord.cFmt d.fields)
    (DescWord.m d.fields = 1 ∨ DescWord.n d.fields * bytes ≤ DescWord.cStride d.fields) →
    (∀ i ∈ DescWord.rowsOn d.fields, ∀ j ∈ DescWord.colsOn d.fields,
      d.addr + 64 ≤ cAddr t.val d.fields i j ∨ cAddr t.val d.fields i j + bytes ≤ d.addr + 56) →
    Gives (.descriptorComplete t slot bubbles found) s [.objs, .update, .arrays, .mem, .ledger, .free] fun u =>
      (u.array t.val).descs = (s.array t.val).descs.filter (fun e => e.slot != d.slot)
        ∧ (∀ i ∈ DescWord.rowsOn d.fields, ∀ j ∈ DescWord.colsOn d.fields, ∃ free : Nat,
            u.read (cAddr t.val d.fields i j) bytes
              = (s.cell t.val d.fields free i j).1)
        ∧ OutsideKept s u ((d.addr + 56, 8) :: (DescWord.rowsOn d.fields).flatMap fun i =>
            (DescWord.colsOn d.fields).map fun j =>
              (cAddr t.val d.fields i j, bytes))
        ∧ bits (u.readNat (d.addr + 56) 8) 0 9 = 256
        ∧ bits (u.readNat (d.addr + 56) 8) 16 16 = min 0xFFFF bubbles)
  ∧ (∀ (t : Stall) (q : Fin 16) (d : Desc) (s : State),
    oldestDesc ((s.array t.val).descs.filter fun d =>
      d.stage == .streaming && bit (DescWord.mask d.fields) q.val) = some d →
    Gives (.arrayResidueMismatch t q) s [.objs, .update, .arrays, .mem, .ledger, .dict, .host, .free] fun u =>
      (u.array t.val).fenced = (s.array t.val).fenced ||| DescWord.mask d.fields
        ∧ (u.array t.val).descs = (s.array t.val).descs.filter (fun e => e.slot != d.slot)
        ∧ (d.thread < 256 → (u.team t.val (s.thread t.val d.thread).team).residue = true))
  ∧ (∀ (t : Stall) (s : State), s.selfTestReady t.val = true →
    let may := s.warden.queue.headD (.selfTest t.val) = .selfTest t.val ∧ s.tallyAdmits 8200 = true
    (may → Gives (.arraySelfTestStart t) s [.arrays, .warden] fun u =>
      u.array t.val = { s.array t.val with
          test := .running, testing := (s.array t.val).fenced &&& (0xFFFF ^^^ (s.array t.val).stuck) }
        ∧ u.warden = { s.warden with
            spent := s.warden.spent + 8200, queue := s.warden.queue.erase (.selfTest t.val) })
    ∧ (¬ may → Gives (.arraySelfTestStart t) s [.warden] fun u => .selfTest t.val ∈ u.warden.queue
        ∧ u.warden = { s.warden with queue := u.warden.queue }))
  ∧ (∀ (t : Stall) (s : State), (s.array t.val).test = .running →
    let a := s.array t.val
    let rest := a.fenced &&& (0xFFFF ^^^ (a.testing ||| a.stuck))
    Gives (.arraySelfTestEnd t true) s [.arrays] (fun u =>
      let b := u.array t.val
      b.lifting = a.lifting ||| a.testing ∧ b.fenced = a.fenced ∧ b.stuck = a.stuck ∧ b.testing = 0
        ∧ b.test = (if rest = 0 then .passed else .pending))
    ∧ Gives (.arraySelfTestEnd t false) s [.arrays] fun u =>
      u.array t.val = { a with
        stuck := a.stuck ||| a.testing, testing := 0, test := if rest = 0 then .failed else .pending })

/-! ### Stacked memory (13) -/

/-- SCRUB_PASS poisons an uncorrectable unit and notes its bell; ROW_REPAIR moves a row, from the boundary after the
read that required it, to the next free spare, or with none left schedules a map-out, as CHANNEL_NO_ANSWER does;
MAP_OUT_START begins the copy into a reserve slot, MAP_OUT_COPY_END poisons what could not be read, CHANNEL_MAPPED_OUT
ends it at a boundary after; STACK_TEMP_READING moves the band with 3 °C of hysteresis, and at 115 °C latches a fault;
STAGING_BACKLOG_SAMPLE sets and clears saturation; CORRECTED_ERROR_ENTRY_DROP drops an entry of 24 h. -/
def Obligations.MemoryRepair : Prop :=
  (∀ (c : Chan) (corrected bad : List Nat) (s : State), s.obj Obj.scrubPeriod ≠ 0 →
    (s.chan c.val).state ≠ .mappedOut → (s.chan c.val).answering = true →
    Gives (.scrubPass c corrected bad) s [.objs, .power, .mem, .ledger, .dict, .host, .free] fun u =>
      u.obj (Obj.scrubLastBell c.val) = s.time.bell ∧ u.mem.cells = s.mem.cells
        ∧ (∀ x ∈ s.mem.poison, x ∈ u.mem.poison)
        ∧ ∀ b a : Nat, corrected = [] → bad = [b] → s.unitAddr c.val b = some a → a / 64 ∈ u.mem.poison)
  ∧ (∀ (c : Chan) (row rung : Nat) (bad : List (Fin 16)) (s : State), (row, rung) ∈ (s.chan c.val).repairs →
    rung < s.time.rung → (s.chan c.val).state ≠ .mappedOut → (s.chan c.val).spares.length < 256 →
    Gives (.rowRepair c row bad) s [.objs, .power, .mem, .ledger, .dict, .host, .free] fun u =>
      let x := s.chan c.val
      u.chan c.val = { x with
          repairs := x.repairs.filter (·.1 != row), rows := x.rows.filter fun r => r.row != row
          spares := x.spares ++ [(row, x.spares.length)] }
        ∧ u.mem.repairLog = s.mem.repairLog ++ [c.val + row % 2 ^ 25 * 2 ^ 7 + x.spares.length * 2 ^ 32]
        ∧ u.mem.cells = s.mem.cells
        ∧ ∀ i ∈ bad, ∀ a : Nat, s.unitAddr c.val (16 * row + i.val) = some a → a / 64 ∈ u.mem.poison)
  ∧ (∀ (c : Chan) (row rung : Nat) (bad : List (Fin 16)) (s : State), (row, rung) ∈ (s.chan c.val).repairs →
    rung < s.time.rung → (s.chan c.val).state = .inService → 256 ≤ (s.chan c.val).spares.length →
    Gives (.rowRepair c row bad) s [.mem] fun u => u.chan c.val = { s.chan c.val with
      repairs := (s.chan c.val).repairs.filter (·.1 != row)
      state := .waiting, mapAt := some (s.time.bell + 1), token := none })
  ∧ (∀ (c : Chan) (s : State), (s.chan c.val).state = .inService →
    Gives (.channelNoAnswer c) s [.mem] fun u => u.chan c.val = { s.chan c.val with
      answering := false, state := .waiting, mapAt := some (s.time.bell + 1), token := none })
  ∧ (∀ (c : Chan) (b k : Nat) (s : State),
    let x := s.chan c.val
    x.state = .waiting → x.mapAt = some b → b ≤ s.time.bell → s.mem.mapOuts = [] →
    (∀ e ∈ s.mem.chans, e.2.state ≠ .copying) → s.dueOn 0x0D 0 7 c.val = [] → s.freeReserve = some k →
    Gives (.mapOutStart c) s [.objs, .power, .ports, .switch, .coll, .mem, .custody, .ledger, .dict, .host, .free]
      fun u =>
      u.chan c.val = { x with state := .copying, mapAt := none, token := none, slot := some k }
        ∧ u.mem.mapOuts = [c.val])
  ∧ (∀ (c : Chan) (bad : List Nat) (s : State),
    let x := s.chan c.val
    x.state = .copying → x.copyEnded = none →
    Gives (.mapOutCopyEnd c bad) s [.objs, .power, .mem, .custody, .ledger, .dict, .host, .free] fun u =>
      u.chan c.val = { x with copyEnded := some s.time.rung } ∧ u.mem.cells = s.mem.cells
        ∧ (x.answering = true → ∀ b ∈ bad, ∀ a : Nat, s.unitAddr c.val b = some a → a / 64 ∈ u.mem.poison))
  ∧ (∀ (c : Chan) (rung : Nat) (s : State),
    let x := s.chan c.val
    x.state = .copying → x.copyEnded = some rung → rung < s.time.rung →
    Gives (.channelMappedOut c) s [.objs, .mem, .dict, .host] fun u =>
      u.chan c.val = { x with state := .mappedOut, copyEnded := none, token := none })
  ∧ (∀ (q : Fin 4) (milliC : Int) (atMs : Nat) (s : State), s.power.released = true → milliC < 115000 →
    Gives (.stackTempReading q milliC atMs) s [.objs] fun u =>
      let old := s.obj (Obj.thermalBand q.val)
      let new := u.obj (Obj.thermalBand q.val)
      (105000 ≤ milliC → new = 3) ∧ (95000 ≤ milliC → milliC < 102000 → new = 2)
        ∧ (85000 ≤ milliC → milliC < 92000 → new = 1) ∧ (milliC ≤ 82000 → new = 0)
        ∧ (102000 < milliC → old = 3 → new = 3))
  ∧ (∀ (q : Fin 4) (milliC : Int) (atMs : Nat) (s : State), s.power.released = true → 115000 ≤ milliC →
    ∃ u, exec (.stackTempReading q milliC atMs) s = .next u ∧ u.power.state = .latchedFault ∧ u.power.latchCause = 2)
  ∧ (∀ (t : Stall) (bytes : Nat) (s : State),
    Gives (.stagingBacklogSample t bytes) s [.objs, .mem] fun u =>
      u.obj (Obj.stagingBacklog t.val) = bytes % 2 ^ 32 ∧ u.mem.cells = s.mem.cells
        ∧ (s.obj Obj.spillSatOn ≤ bytes → t.val ∈ u.mem.saturated)
        ∧ (bytes < s.obj Obj.spillSatOn → bytes ≤ s.obj Obj.spillSatOff → t.val ∉ u.mem.saturated)
        ∧ ∀ k : Nat, k ≠ t.val → (k ∈ u.mem.saturated ↔ k ∈ s.mem.saturated))
  ∧ (∀ (c : Chan) (row : Nat) (s : State),
    Gives (.correctedErrorEntryDrop c row) s [.mem] fun u =>
      (∀ r, r ∈ (u.chan c.val).rows ↔ r ∈ (s.chan c.val).rows
          ∧ ¬ (r.row = row ∧ r.since + 86400 * 10 ^ 9 < s.tb1Ns))
        ∧ u.chan c.val = { s.chan c.val with rows := (u.chan c.val).rows })

/-! ### Stalls out of compute, tests (14; 01) -/

/-- STALL_TAKE_OUT and STALL_RETURN act on a due SUBLET or FENCE_STALL, or on what a test or a reading has scheduled
for the boundary; TEST_QUIET_START starts a waiting test on a quiet stall once the opening tally admits it, TEST_END
and TEST_WAIT_EXPIRY end it; BAND_ENTRY and BAND_EXIT schedule an armed stall's leaving and its return by its
temperature. The home entries of a stall that is taken out name its neighbour; its return restores its own. -/
def Obligations.StallsLeaveCompute : Prop :=
  (∀ (t : Stall) (k : Nat) (r : TokenRec) (s : State), s.stallDue t.val true = [k] → s.tokenRec k = some r →
    (s.stall t.val).test = none → (s.stall t.val).due = none →
    let x := s.stall t.val
    let w := argOf r.args 0
    (r.opcode = 10 ∨ r.opcode = 9 ∧ bits w 8 2 = 0 →
      Gives (.stallTakeOut t) s [.objs, .update, .custody, .dict, .host, .out] fun u =>
        u.stall t.val = { x with
            compute := if r.opcode = 10 then .sublet else .fenced, neighbour := nearOf w, out := true }
          ∧ (x.out = false → let near := (nearOf w).getD (t.val ^^^ 1)
            near ≠ t.val → (s.stall near).out = false →
              ∀ i < 64, u.homeEntry i = if s.homeEntry i = t.val then near else s.homeEntry i))
    ∧ (r.opcode = 9 → bits w 8 2 = 2 → Gives (.stallTakeOut t) s [.objs, .custody, .dict, .host, .out] fun u =>
        u.stall t.val = { x with
          band := some (bandOf r.args), neighbour := nearOf w
          compute := if x.out = true then x.compute else .bandArmed }))
  ∧ (∀ (t : Stall) (rung token : Nat) (s : State),
    let x := s.stall t.val
    s.stallDue t.val true = [] → rung ≤ s.time.rung →
    (x.due = some (rung, 0, token) → Gives (.stallTakeOut t) s [.objs, .update, .custody, .dict, .host, .out] fun u =>
      u.stall t.val = { x with due := none, compute := .testWaiting, out := true })
    ∧ (x.due = some (rung, 3, token) → x.compute = .bandArmed →
      Gives (.stallTakeOut t) s [.objs, .update, .custody, .dict, .host, .out] fun u =>
        u.stall t.val = { x with due := none, compute := .inBand, out := true }
          ∧ (x.out = false → x.near t.val ≠ t.val → (s.stall (x.near t.val)).out = false →
            ∀ i < 64, u.homeEntry i = if s.homeEntry i = t.val then x.near t.val else s.homeEntry i)))
  ∧ (∀ (t : Stall) (k : Nat) (r : TokenRec) (s : State), s.stallDue t.val false = [k] → s.tokenRec k = some r →
    (s.stall t.val).due = none →
    Gives (.stallReturn t) s [.objs, .update, .custody, .dict, .host, .out] fun u =>
      u.stall t.val = { s.stall t.val with band := none, compute := .inCompute, out := false }
        ∧ ((s.stall t.val).out = true → u.homeEntry t.val = t.val))
  ∧ (∀ (t : Stall) (rung token : Nat) (s : State),
    let x := s.stall t.val
    s.stallDue t.val false = [] → rung ≤ s.time.rung →
    (x.due = some (rung, 1, token) → Gives (.stallReturn t) s [.objs, .update, .custody, .dict, .host, .out] fun u =>
      u.stall t.val = { x with due := none, test := none, compute := .inCompute, out := false }
        ∧ (x.out = true → u.homeEntry t.val = t.val))
    ∧ (x.due = some (rung, 4, token) → x.compute = .inBand →
      Gives (.stallReturn t) s [.objs, .update, .custody, .dict, .host, .out] fun u =>
        u.stall t.val = { x with due := none, compute := .bandArmed, out := false }
          ∧ (x.out = true → u.homeEntry t.val = t.val)))
  ∧ (∀ (t : Stall) (y : Test) (s : State),
    let x := s.stall t.val
    let mw := s.packageStep y.package
    x.test = some y → x.compute = .testWaiting → x.due = none → y.since < s.time.rung →
    (y.drain = true → x.out = true) → s.quiet t.val = true → s.packageMay mw = true →
    let may := s.warden.queue.headD (.package t.val) = .package t.val ∧ s.tallyAdmits mw = true
    (may → Gives (.testQuietStart t) s [.objs, .update, .custody, .warden, .dict, .host, .out] fun u =>
      u.stall t.val = { x with compute := .testing, out := true, test := some { y with heldFrom := s.tb1Ns } }
        ∧ u.warden.spent = s.warden.spent + mw
        ∧ ∀ h : Nat, y.hold = some h → u.obj (Obj.holdStatus t.val) = 1)
    ∧ (¬ may → Gives (.testQuietStart t) s [.warden] fun u => .package t.val ∈ u.warden.queue))
  ∧ (∀ (t : Stall) (pass : Bool) (code : Byte) (centiC : BitVec 16) (y : Test) (s : State),
    let x := s.stall t.val
    x.test = some y → x.compute = .testing → x.due = none →
    (s.obj (Obj.holdStatus t.val) = 1 → exec (.testEnd t pass code centiC) s = .next s)
    ∧ (s.obj (Obj.holdStatus t.val) ≠ 1 →
      Gives (.testEnd t pass code centiC) s [.objs, .arrays, .custody, .dict, .host] fun u =>
        u.stall t.val = { x with due := some (s.time.rung + 1, if pass then 1 else 2, y.token) }
          ∧ (pass = true → (u.array t.val).fenced = 0 ∧ (u.array t.val).stuck = 0)
          ∧ (pass = false → u.arrays = s.arrays)))
  ∧ (∀ (t : Stall) (y : Test) (s : State),
    let x := s.stall t.val
    x.test = some y → x.compute = .testWaiting → x.due = none → y.since + y.waitLimit ≤ s.time.rung →
    Gives (.testWaitExpiry t) s [.objs, .custody, .dict, .host] fun u =>
      u.stall t.val = if x.out = true then { x with due := some (s.time.rung + 1, 1, 0) }
        else { x with test := none, compute := .inCompute })
  ∧ (∀ (t : Stall) (milliC a b : Int) (s : State),
    let x := s.stall t.val
    x.band = some (a, b) → x.compute = .bandArmed → 1000 * a ≤ milliC → milliC ≤ 1000 * b →
    Gives (.bandEntry t milliC) s [.custody] fun u =>
      u.stall t.val = { x with due := some (s.time.rung + 1, 3, 0) })
  ∧ (∀ (t : Stall) (milliC a b : Int) (s : State),
    let x := s.stall t.val
    let h : Int := s.obj Obj.bandHyst
    x.band = some (a, b) → x.compute = .inBand → milliC < 1000 * (a - h) ∨ 1000 * (b + h) < milliC →
    Gives (.bandExit t milliC) s [.custody] fun u => u.stall t.val = { x with due := some (s.time.rung + 1, 4, 0) })

/-! ### The warden (15) -/

/-- WARDEN_DECISION, one a bell, latches grants for the next bell: a stall under a cut is not raised, and what is
raised in all stays within the opening tally, and is nothing while a declared step waits; DECISION_OVERRUN enters the
safe budget at the third late decision in a row; THERMAL_READING enters level 2 at 105 °C and level 1 at hot_c or a
fast rise; LEVEL2_THROTTLE paces the ports 1 ms after; THERMAL_LEVEL_EXIT leaves level 2 for every stall, and level 1,
once it has been cool for 1 ms; HOLD_SETTLE_EXPIRY ends a wait for a temperature. -/
def Obligations.WardenDecides : Prop :=
  (∀ (w : Sweep) (s : State), s.power.released = true →
    (s.decided = true → exec (.wardenDecision w) s = .next s)
    ∧ (s.decided = false → Gives (.wardenDecision w) s
      [.objs, .power, .optics, .update, .arrays, .warden, .ledger, .dict, .host, .free] fun u =>
      let raised := u.warden.spent - s.warden.spent
      let now := { s with warden := { s.warden with module := (w.inputMw :: s.warden.module).take 4096 } }
      ∃ d : Decision, u.warden.latched = some d ∧ d.lines.length = 7 ∧ d.ue.length = 64 ∧ d.array.length = 64
        ∧ u.warden.decidedAt = some s.time.rung ∧ u.warden.lateRun = 0
        ∧ u.warden.onTimeRun = s.warden.onTimeRun + 1
        ∧ u.warden.ue = s.warden.ue ∧ u.warden.array = s.warden.array ∧ u.warden.queue = s.warden.queue
        ∧ (u.warden.safe = true ↔ s.warden.safe = true ∧ s.warden.onTimeRun < 63)
        ∧ (∀ t < 64, t ∈ u.warden.cuts →
            powerAt d.ue t ≤ (s.grantsOf t).1 ∧ powerAt d.array t ≤ (s.grantsOf t).2)
        ∧ ((List.range 64).map fun t => powerAt d.ue t - (s.grantsOf t).1).sum
            + ((List.range 64).map fun t => powerAt d.array t - (s.grantsOf t).2).sum
            + (powerAt d.lines 6 - s.obj (Obj.lineBudget 6)) = raised
        ∧ s.warden.spent ≤ u.warden.spent
        ∧ (s.warden.queue = [] → raised ≤ now.tallyRoom) ∧ (s.warden.queue ≠ [] → raised = 0)))
  ∧ (∀ s : State,
    (s.decided = true → exec .decisionOverrun s = .next s)
    ∧ (s.decided = false → Gives .decisionOverrun s [.objs, .warden, .ledger, .dict, .host, .free] fun u =>
      u.warden = { s.warden with
        energyRest := u.warden.energyRest, decidedAt := some s.time.rung, lateRun := s.warden.lateRun + 1
        onTimeRun := 0, safe := s.warden.safe || decide (2 ≤ s.warden.lateRun) }))
  ∧ (∀ (t : Stall) (milliC rise : Int) (s : State), s.power.released = true → 105000 ≤ milliC →
    Gives (.thermalReading t milliC rise) s [.objs, .power, .update, .arrays, .warden, .host, .free] fun u =>
      Tbl.get u.warden.levels t.val 0 = 2
        ∧ (∀ k : Nat, k ≠ t.val → Tbl.get u.warden.levels k 0 = Tbl.get s.warden.levels k 0)
        ∧ (∀ k < 64, (u.array k).cut = true) ∧ u.warden.limitAt = s.tb1Ns
        ∧ ((∀ e ∈ s.warden.levels, e.2 ≠ 2) →
            u.warden.limitSince = s.tb1Ns ∧ ∀ k < 64, u.tankOf k = 0 ∧ (u.array k).tank = 0))
  ∧ (∀ (t : Stall) (milliC rise : Int) (s : State), s.power.released = true → milliC < 105000 →
    s.objI Obj.hotC ≤ milliC ∨ s.objI Obj.stepC ≤ rise →
    Gives (.thermalReading t milliC rise) s [.objs, .optics, .arrays, .warden, .ledger] fun u =>
      Tbl.get u.warden.levels t.val 0
          = (if Tbl.get s.warden.levels t.val 0 = 0 then 1 else Tbl.get s.warden.levels t.val 0)
        ∧ Tbl.find u.warden.hotAt t.val = some s.tb1Ns
        ∧ (Tbl.get s.warden.levels t.val 0 = 0 → ∀ k < 64, k ∈ gridNear t.val → k ∈ u.warden.cuts))
  ∧ (∀ (t : Stall) (milliC rise : Int) (s : State), s.power.released = true → milliC < 105000 →
    milliC < s.objI Obj.hotC → rise < s.objI Obj.stepC →
    Gives (.thermalReading t milliC rise) s [.objs, .warden] fun u =>
      u.warden = { s.warden with hotAt := u.warden.hotAt, limitAt := u.warden.limitAt }
        ∧ (milliC + 5000 < s.objI Obj.hotC → u.warden.hotAt = s.warden.hotAt)
        ∧ (milliC < 100000 → u.warden.limitAt = s.warden.limitAt)
        ∧ (s.obj (Obj.holdStatus t.val) ≠ 1 → u.objs = s.objs)
        ∧ (s.obj (Obj.holdStatus t.val) = 1 → (milliC - s.objI (Obj.holdTarget t.val)).natAbs ≤ 1000 →
            u.obj (Obj.holdStatus t.val) = 2))
  ∧ (∀ (t : Stall) (milliC : Int) (s : State), Tbl.get s.warden.levels t.val 0 = 2 →
    let late := s.comesNow (s.warden.limitSince + 1000000)
    (105000 ≤ milliC → late = true →
      exec (.level2Throttle t milliC) s = .next { s with warden := { s.warden with paced := true } })
    ∧ (milliC < 105000 ∨ late = false → exec (.level2Throttle t milliC) s = .next s))
  ∧ (∀ (t : Stall) (s : State), Tbl.get s.warden.levels t.val 0 = 2 →
    let cool := s.comesNow (s.warden.limitAt + 1000000)
    (cool = false → exec (.thermalLevelExit t) s = .next s)
    ∧ (cool = true → Gives (.thermalLevelExit t) s [.power, .arrays, .warden] fun u =>
      (∀ k : Nat, Tbl.get u.warden.levels k 0 = min 1 (Tbl.get s.warden.levels k 0)) ∧ u.warden.paced = false
        ∧ Alert.level2 ∉ u.power.alerts))
  ∧ (∀ (t : Stall) (s : State), Tbl.get s.warden.levels t.val 0 = 1 →
    (s.coolAround t.val = false → exec (.thermalLevelExit t) s = .next s)
    ∧ (s.coolAround t.val = true → Gives (.thermalLevelExit t) s [.arrays, .warden] fun u =>
      Tbl.get u.warden.levels t.val 0 = 0
        ∧ (∀ k ∈ gridNear t.val, Tbl.find u.warden.halfSlew k = some (s.tb1Ns + 10000000))))
  ∧ (∀ (t : Stall) (y : Test) (s : State), s.obj (Obj.holdStatus t.val) = 1 → (s.stall t.val).test = some y →
    let ended := s.comesNow (y.heldFrom + s.obj Obj.holdSettle * 1000000)
    (ended = true → exec (.holdSettleExpiry t) s = .next (s.putObj (Obj.holdStatus t.val) 3))
    ∧ (ended = false → exec (.holdSettleExpiry t) s = .next s))

/-! ### The ledger and samples (16) -/

/-- LEDGER_BOUNDARY at a due boundary latches an entry, or writes a skipped header where the entry before is not
complete, or in a full ring of mode 1 counts a miss and latches nothing; LEDGER_ENTRY_WRITTEN stores the body and
the header, or posts them to the host; a sample goes to its ring, or is counted lost where the ring is full, an
instruction's once for each window of its stall. -/
def Obligations.LedgerAndSamples : Prop :=
  (∀ s : State, s.ledgerDue = false → exec .ledgerBoundary s = .next s)
  ∧ (∀ s : State, s.ledgerDue = true → s.obj Obj.ledgerMode = 1 → s.nextHead = s.obj Obj.ledgerTail →
    Gives .ledgerBoundary s [.objs, .ledger] fun u =>
      u.ledger = { s.ledger with takenRung := some s.time.rung, missed := s.ledger.missed + 1 }
        ∧ u.obj Obj.ledgerHead = s.obj Obj.ledgerHead)
  ∧ (∀ s : State, s.ledgerDue = true → ¬ (s.obj Obj.ledgerMode = 1 ∧ s.nextHead = s.obj Obj.ledgerTail) →
    (s.ledger.writing = none → Gives .ledgerBoundary s [.objs, .ledger] fun u =>
      ∃ e : LedgerEntry, u.ledger.writing = some e ∧ e.header.length = 64
        ∧ e.addr = s.obj Obj.ledgerBase + s.obj Obj.ledgerHead * s.ledgerSlotBytes
        ∧ e.body = ({ s with ledger := { s.ledger with takenRung := some s.time.rung } } : State).ledgerBody
            (s.obj Obj.ledgerSections)
        ∧ leNat ((e.header.drop 8).take 8) = (s.obj Obj.ledgerSequence + 1) % 2 ^ 64
        ∧ leNat ((e.header.drop 16).take 8) = s.time.bell % 2 ^ 64
        ∧ leNat ((e.header.drop 44).take 4) = s.ledger.missed % 2 ^ 32
        ∧ u.ledger.missed = 0 ∧ u.ledger.counters = s.ledger.counters ∧ u.ledger.voqMax = []
        ∧ u.obj Obj.ledgerHead = s.nextHead)
    ∧ (∀ e : LedgerEntry, s.ledger.writing = some e → Gives .ledgerBoundary s [.objs, .mem, .ledger, .out] fun u =>
      u.ledger.writing = some e ∧ u.obj Obj.ledgerHead = s.nextHead))
  ∧ (∀ (e : LedgerEntry) (s : State), s.ledger.writing = some e → isHost e.addr = true → s.hostOpen = false →
    exec .ledgerEntryWritten s = .next (s.bump Obj.hostErrors))
  ∧ (∀ (e : LedgerEntry) (s : State), s.ledger.writing = some e → isHost e.addr = true → isHost (e.addr + 64) = true →
    s.hostOpen = true → Gives .ledgerEntryWritten s [.objs, .ledger, .out] fun u =>
      u.ledger.writing = none ∧ u.out.hostWrite = some (e.addr - 0x200000000000, e.header)
        ∧ u.obj Obj.ledgerSequence = leNat ((e.header.drop 8).take 8))
  ∧ (∀ (e : LedgerEntry) (s : State), MemOk s.mem → s.ledger.writing = some e → isHost e.addr = false →
    isHost (e.addr + 64) = false → e.header.length = 64 →
    (∀ k < 64 + e.body.length, s.inHole (e.addr + k) = false) →
    Gives .ledgerEntryWritten s [.objs, .mem, .ledger] fun u =>
      u.ledger.writing = none ∧ u.read e.addr (64 + e.body.length) = e.header ++ e.body
        ∧ OutsideKept s u [(e.addr, 64 + e.body.length)]
        ∧ u.obj Obj.ledgerSequence = leNat ((e.header.drop 8).take 8))
  ∧ (∀ (t : Stall) (n : ThreadNo) (x : InsnSample) (s : State), s.power.released = true →
    s.obj Obj.isampleEnable ≠ 0 → (s.thread t.val n.val).state ≠ .free →
    bit (s.obj Obj.isampleRuns) (s.thread t.val n.val).run = true →
    let next := (s.obj Obj.isampleHead + 1) % max 1 (s.obj Obj.isampleSlots)
    (s.sampleDue t.val = false → exec (.instructionSample t n x) s = .next s)
    ∧ (s.sampleDue t.val = true → next = s.obj Obj.isampleTail →
      exec (.instructionSample t n x) s = .next ((s.windowTaken t.val).bump Obj.isampleLost))
    ∧ (s.sampleDue t.val = true → next ≠ s.obj Obj.isampleTail →
      Gives (.instructionSample t n x) s [.objs, .mem, .ledger, .out] fun u => u.obj Obj.isampleHead = next))
  ∧ (∀ (p : Port) (x : PacketSample) (s : State), s.power.released = true → s.maySample x.header.toNat = true →
    let next := (s.obj Obj.psampleHead + 1) % max 1 (s.obj Obj.psampleSlots)
    (next = s.obj Obj.psampleTail → exec (.packetSample p x) s = .next (s.bump Obj.psampleLost))
    ∧ (next ≠ s.obj Obj.psampleTail →
      Gives (.packetSample p x) s [.objs, .mem, .ledger, .out] fun u => u.obj Obj.psampleHead = next))

/-! ### Custody (14) -/

/-- The kind of a custody message's command. -/
def Sys2Proof.custodyKind : Instr → Option (CustodyMsg × Nat)
  | .custodyHello m => some (m, 1)
  | .custodyClose m => some (m, 2)
  | .custodyDigest m => some (m, 3)
  | .custodyCompared m => some (m, 4)
  | .resyncData m => some (m, 5)
  | .resyncAck m => some (m, 6)
  | _ => none

/-- A custody message that fits no pair is discarded and counted. CUSTODY_HELLO pairs, frees the pair where the
arguments differ, goes on with a re-mirroring, or is kept by a custodian that is alone; HELLO_TIMEOUT ends the wait
for it; CUSTODY_CLOSE keeps the other's close, and a partner closes with it, at the latest at CLOSE_WAIT_EXPIRY;
RANGE_DIGEST_DONE keeps a range's digest; CUSTODY_DIGEST keeps the other's of its sequence; CUSTODY_COMPARED,
DIGEST_RESEND and COMPARISON_LATE note what they say. -/
def Obligations.CustodyAgrees : Prop :=
  let all := [.objs, .ports, .switch, .coll, .mem, .custody, .ledger, .dict, .host]
  (∀ (c : Instr) (m : CustodyMsg) (kind : Nat) (s : State), custodyKind c = some (m, kind) →
    (bits m.control.toNat 0 4 ≠ kind → exec c s = .next s)
    ∧ (bits m.control.toNat 0 4 = kind → s.pairOfMsg m = none → exec c s = .next (s.bump Obj.custodyDiscards)))
  ∧ (∀ (m : CustodyMsg) (k : Nat) (s : State), bits m.control.toNat 0 4 = 1 → s.pairOfMsg m = some k →
    let p := s.pair k
    let c := m.control.toNat
    let heard := { p with gotHello := true, otherPair := bits c 8 12, pairedBell := s.time.bell }
    (p.state = .alone → Gives (.custodyHello m) s [.custody] fun u =>
      u.pair k = { p with spareHello := some (bits c 24 8, bits c 8 12, bits c 192 32) })
    ∧ (p.state ≠ .alone → p.gotHello = true → exec (.custodyHello m) s = .next s)
    ∧ (p.state ≠ .alone → p.gotHello = false → bits c 192 32 = p.argCrc →
      (p.resync = none → Gives (.custodyHello m) s [.objs, .custody, .dict, .host] fun u =>
        u.pair k = { heard with state := .paired })
      ∧ (p.resync ≠ none → Gives (.custodyHello m) s all fun u => u.pair k = { heard with resync := (u.pair k).resync }))
    ∧ (p.state ≠ .alone → p.gotHello = false → bits c 192 32 ≠ p.argCrc →
      Gives (.custodyHello m) s [.objs, .custody, .dict, .host] fun u =>
        u.pair k = if p.resync = none then {} else { p with state := .alone, resync := none }))
  ∧ (∀ (k : Fin 4096) (s : State),
    let p := s.pair k.val
    p.state = .pairing ∨ p.state = .resyncing ∧ p.gotHello = false →
    (s.time.rung < p.helloSince + 5000 → exec (.helloTimeout k) s = .next s)
    ∧ (p.helloSince + 5000 ≤ s.time.rung → Gives (.helloTimeout k) s [.objs, .custody, .dict, .host] fun u =>
        u.pair k.val = if p.resync = none then {} else { p with state := .alone, resync := none }))
  ∧ (∀ (m : CustodyMsg) (k : Nat) (s : State), bits m.control.toNat 0 4 = 2 → s.pairOfMsg m = some k →
    let p := s.pair k
    let c := m.control.toNat
    let q := bits c 32 32
    let known := p.comparedAny = true ∧ serialLe q p.compared = true ∨ p.closedAny = true ∧ serialLe q p.closed = true
    let x := if p.partner = true ∧ ¬ known then p.begin q else p
    let closes := p.partner = true ∧ x.stepClosed = false ∧ q = x.step ∧ x.clean.length = bits c 192 24
    Gives (.custodyClose m) s (.free :: all) fun u =>
      (u.pair k).otherClose = some (q, bits c 192 24, bit c 216)
        ∧ (u.pair k).otherCloseRung = s.time.rung ∧ (u.pair k).otherCloseBell = bits c 128 64
        ∧ (closes → (u.pair k).closed = q ∧ (u.pair k).closedAny = true)
        ∧ (¬ closes → (u.pair k).closed = p.closed ∧ (u.pair k).closedAny = p.closedAny))
  ∧ (∀ (k : Fin 4096) (q n : Nat) (aborted : Bool) (s : State),
    let p := s.pair k.val
    p.otherClose = some (q, n, aborted) → p.partner = true → p.closedAny = false ∨ serialLe q p.closed = false →
    (s.time.rung < p.otherCloseRung + s.obj Obj.closeWait → exec (.closeWaitExpiry k) s = .next s)
    ∧ (p.otherCloseRung + s.obj Obj.closeWait ≤ s.time.rung →
      Gives (.closeWaitExpiry k) s (.free :: all)
        fun u => (u.pair k.val).closed = q ∧ (u.pair k.val).closedAny = true))
  ∧ (∀ (k : Fin 4096) (r : Nat) (s : State),
    let p := s.pair k.val
    let a := p.outBank p.step + r * 2 ^ 20
    p.state ≠ .free → r < p.ranges → p.rangeDue r = true → Tbl.find p.mine r = none →
    Gives (.rangeDigestDone k r) s all fun u =>
      Tbl.find (u.pair k.val).mine r
        = some (crc64 (s.read a (p.rangeBytes r)), s.readBad a (p.rangeBytes r), Tbl.get p.history r 0))
  ∧ (∀ (m : CustodyMsg) (k : Nat) (s : State), bits m.control.toNat 0 4 = 3 → s.pairOfMsg m = some k →
    let p := s.pair k
    let c := m.control.toNat
    let q := bits c 32 32
    (p.comparedSent = some q → Gives (.custodyDigest m) s all fun u => u.custody.pairs = s.custody.pairs)
    ∧ (p.comparedSent ≠ some q → p.comparedAny = true → serialLe q p.compared = true →
      exec (.custodyDigest m) s = .next s)
    ∧ (p.comparedSent ≠ some q → p.comparedAny = false ∨ serialLe q p.compared = false →
      Gives (.custodyDigest m) s all fun u => ∀ i < bits c 96 16,
        (Tbl.find (Tbl.get (u.pair k).theirs q []) (bits c 64 20 + i)).map (·.1)
          = some (leNat ((m.body.drop (8 * i)).take 8))))
  ∧ (∀ (m : CustodyMsg) (k : Nat) (s : State), bits m.control.toNat 0 4 = 4 → s.pairOfMsg m = some k →
    let q := bits m.control.toNat 32 32
    Gives (.custodyCompared m) s [.custody] fun u => u.pair k = { s.pair k with
      comparedGot := some q, unacked := (s.pair k).unacked.filter fun x => x.1 != q })
  ∧ (∀ (k : Fin 4096) (s : State),
    let p := s.pair k.val
    let owed := p.unacked ≠ none ∨ p.stepClosed = true ∧ p.comparedGot ≠ some p.step
    (p.tells = true → owed → p.digestRung + s.obj Obj.digestResend ≤ s.time.rung →
      Gives (.digestResend k) s all fun u => u.pair k.val = { p with digestRung := s.time.rung })
    ∧ (p.tells = false ∨ ¬ owed → exec (.digestResend k) s = .next s)
    ∧ (∀ r : Nat, p.state = .paired → p.stepClosed = true → p.closeRung = some r → p.theirsFull = false →
      p.lateReported = false → r + 5000 ≤ s.time.rung →
      Gives (.comparisonLate k) s [.objs, .custody, .dict, .host, .free] fun u =>
        u.pair k.val = { p with lateReported := true }))

/-- RESTORE_COMPLETE, once the copy has had its time, puts the input bank into the output bank, or starts again on a
poisoned source; RESYNC_DATA writes a block, the last of a range ending it; RESYNC_ACK ends the range or, with
RESYNC_RANGE_TIMEOUT, sends it again and degrades the pair at the third failure; PARTNER_TIMEOUT leaves a custodian
alone, and loses the custody of a degraded one and of a new partner without its copy; TAKE_OVER_EFFECT leaves the
taker alone and primary. -/
def Obligations.CustodyRecovers : Prop :=
  let all := [.objs, .ports, .switch, .coll, .mem, .custody, .ledger, .dict, .host]
  (∀ (k : Fin 4096) (q : Nat) (s : State), MemOk s.mem →
    let p := s.pair k.val
    p.restoring = some q →
    (s.restoreOver p = false → exec (.restoreComplete k) s = .next s)
    ∧ (s.restoreOver p = true → s.readBad (p.inBank q) p.bankBytes = true →
      Gives (.restoreComplete k) s [.custody] fun u => u.pair k.val = { p with restoreRung := s.time.rung })
    ∧ (s.restoreOver p = true → s.readBad (p.inBank q) p.bankBytes = false →
      (∀ i < p.bankBytes, s.inHole (p.outBank q + i) = false) →
      Gives (.restoreComplete k) s [.objs, .mem, .custody, .ledger] fun u =>
        u.read (p.outBank q) p.bankBytes = s.read (p.inBank q) p.bankBytes
          ∧ OutsideKept s u [(p.outBank q, p.bankBytes)]
          ∧ u.pair k.val = { p with restoring := none, dueCompared := some q, dueRollback := true }))
  ∧ (∀ (m : CustodyMsg) (k : Nat) (s : State), MemOk s.mem → bits m.control.toNat 0 4 = 5 → s.pairOfMsg m = some k →
    let p := s.pair k
    let c := m.control.toNat
    let q := bits c 32 32
    let r := bits c 64 20
    let b := bits c 96 16
    let n := min 2048 (p.rangeBytes r - 2048 * b)
    let a := p.inBank q + r * 2 ^ 20 + 2048 * b
    let y := p.expectResync q r
    let had := if y.blocksOf = (q, r) then y.blocks else []
    let blocks := if b ∈ had then had else had ++ [b]
    (p.ranges ≤ r ∨ p.rangeBlocks r ≤ b → exec (.resyncData m) s = .next (s.bump Obj.custodyDiscards))
    ∧ (r < p.ranges → b < p.rangeBlocks r →
      (blocks.length ≠ p.rangeBlocks r → n ≤ m.body.length → (∀ i < n, s.inHole (a + i) = false) →
        Gives (.resyncData m) s [.objs, .mem, .custody, .ledger] fun u =>
          u.read a n = m.body.take n ∧ OutsideKept s u [(a, n)]
            ∧ u.pair k = { p with
                state := .resyncing, resync := some { y with blocks := blocks, blocksOf := (q, r) } })
      ∧ (blocks.length = p.rangeBlocks r → y.want.erase (q, r) ≠ [] ∨ y.out ≠ [] → Gives (.resyncData m) s all fun u =>
          u.pair k = { p with
            state := .resyncing
            resync := some { y with blocks := [], blocksOf := (q, r), want := y.want.erase (q, r) } })
      ∧ (blocks.length = p.rangeBlocks r → y.want.erase (q, r) = [] → y.out = [] → Gives (.resyncData m) s all fun u =>
          (u.pair k).state = .paired ∧ (u.pair k).resync = none ∧ (u.pair k).pairedBell = s.time.bell)))
  ∧ (∀ (m : CustodyMsg) (k q r : Nat) (rest : List (Nat × Nat)) (y : Resync) (s : State),
    bits m.control.toNat 0 4 = 6 → s.pairOfMsg m = some k →
    let p := s.pair k
    let c := m.control.toNat
    let good := bits c 192 64 = crc64 (s.rangeData p q r)
    let z := { y with out := rest, failures := 0, copied := y.copied + 1 }
    p.resync = some y → y.out = (q, r) :: rest → y.started = true →
    (q ≠ bits c 32 32 ∨ r ≠ bits c 64 20 → exec (.resyncAck m) s = .next s)
    ∧ (q = bits c 32 32 → r = bits c 64 20 →
      (good → rest = [] → y.want = [] → Gives (.resyncAck m) s [.objs, .custody, .dict, .host] fun u =>
        (u.pair k).state = .paired ∧ (u.pair k).resync = none ∧ (u.pair k).pairedBell = s.time.bell)
      ∧ (good → rest = [] → y.want ≠ [] → Gives (.resyncAck m) s [.objs, .custody, .dict, .host] fun u =>
        u.pair k = { p with resync := some z })
      ∧ (∀ (e : Nat × Nat) (es : List (Nat × Nat)), good → rest = e :: es →
        s.readBad (p.inBank e.1 + e.2 * 2 ^ 20) (p.rangeBytes e.2) = false → Gives (.resyncAck m) s all fun u =>
          u.pair k = { p with resync := some { z with held := s.limited, since := s.time.rung } })
      ∧ (¬ good → y.failures < 2 → s.readBad (p.inBank q + r * 2 ^ 20) (p.rangeBytes r) = false →
        Gives (.resyncAck m) s all fun u => u.pair k = { p with
          resync := some { y with failures := y.failures + 1, held := s.limited, since := s.time.rung } })
      ∧ (¬ good → 2 ≤ y.failures → Gives (.resyncAck m) s [.objs, .power, .custody, .dict, .host] fun u =>
        u.pair k = { p with state := .degraded, resync := none, restoring := none })))
  ∧ (∀ (k : Fin 4096) (q r : Nat) (rest : List (Nat × Nat)) (y : Resync) (s : State),
    let p := s.pair k.val
    p.resync = some y → y.started = true → y.out = (q, r) :: rest →
    (y.held = true ∨ s.time.rung < y.since + s.obj Obj.digestResend → exec (.resyncRangeTimeout k) s = .next s)
    ∧ (y.held = false → y.since + s.obj Obj.digestResend ≤ s.time.rung →
      (y.failures < 2 → s.readBad (p.inBank q + r * 2 ^ 20) (p.rangeBytes r) = false →
        Gives (.resyncRangeTimeout k) s all fun u => u.pair k.val = { p with
          resync := some { y with failures := y.failures + 1, held := s.limited, since := s.time.rung } })
      ∧ (2 ≤ y.failures → Gives (.resyncRangeTimeout k) s [.objs, .power, .custody, .dict, .host] fun u =>
          u.pair k.val = { p with state := .degraded, resync := none, restoring := none })))
  ∧ (∀ (k : Fin 4096) (s : State),
    let p := s.pair k.val
    let told := fun (P : State → Prop) => Gives (.partnerTimeout k) s [.objs, .power, .custody, .dict, .host, .free] P
    let lost := fun u : State => u.pair k.val = { p with state := .custodyLost, restoring := none, dueCompared := none }
        ∧ Alert.custodyLost k.val ∈ u.power.alerts
    s.obj Obj.partnerTimeout * 1000 ≤ (s.time.bell - s.heardFrom p) * s.period →
    (p.state = .paired ∨ p.state = .rollingBack → told fun u => u.pair k.val = { p with state := .alone })
    ∧ (p.state = .degraded → told lost)
    ∧ (∀ y : Resync, p.state = .resyncing → p.gotHello = true → p.resync = some y →
      (y.newPartner = true → p.partner = true → told lost)
      ∧ (y.newPartner = false ∨ p.partner = false →
        told fun u => u.pair k.val = { p with state := .alone, resync := none })))
  ∧ (∀ (k : Fin 4096) (token : Nat) (s : State),
    let p := s.pair k.val
    s.dueOn 0x10 0 12 k.val = [token] →
    (p.mayTakeOver = false → Gives (.takeOverEffect k) s [.objs, .dict, .host] fun u => u.custody = s.custody)
    ∧ (p.mayTakeOver = true → Gives (.takeOverEffect k) s [.objs, .mem, .custody, .dict, .host] fun u =>
      (u.pair k.val).state = .alone ∧ (u.pair k.val).partner = false ∧ (u.pair k.val).token = token
        ∧ (p.stock = true → (u.pair k.val).restoring = p.rolledBack ∧ u.mem = s.mem)
        ∧ (p.stock = false → u.mem = (s.write (s.takeOverBitmap k.val)
            (leBytes (ceilDiv p.chunks 8) (if p.inProgress = true then p.clean.foldl setBit 0 else 0))).mem)))

/-! ### Command slots (17) -/

/-- The slot and opcode of a command of a slot. -/
def Sys2Proof.slotCommand : Instr → Option (Slot × Nat)
  | .admitPitch k => some (k, 0x01)
  | .releasePitch k => some (k, 0x02)
  | .openGroup k => some (k, 0x03)
  | .closeGroup k => some (k, 0x04)
  | .startThreads k => some (k, 0x05)
  | .stopThreads k => some (k, 0x06)
  | .loadBundle k => some (k, 0x07)
  | .runTest k => some (k, 0x08)
  | .fenceStall k => some (k, 0x09)
  | .sublet k => some (k, 0x0A)
  | .remapLane k => some (k, 0x0B)
  | .setThoroughfare k => some (k, 0x0C)
  | .mapOutChannel k => some (k, 0x0D)
  | .switchTableBank k => some (k, 0x0E)
  | .pairCustody k => some (k, 0x0F)
  | .takeOver k => some (k, 0x10)
  | .resync k => some (k, 0x11)
  | .checkpoint k => some (k, 0x12)
  | .cancel k => some (k, 0x13)
  | _ => none

/-- An accepted SLOT_CLAIM clears the slot for the writer; writes of its other objects fill it; SLOT_SUBMIT and
SLOT_WITHDRAW set its status; SLOT_FREE frees it, and SLOT_IDLE_TIMEOUT does one second after the last write. While
another holds a claimed, submitted or busy slot, each write of it is refused. -/
def Obligations.SlotsAreHeld : Prop :=
  (∀ (r : Requester) (k : Slot) (token : BitVec 64) (s : State), Accepts r (Obj.slotToken k.val) token.toNat s →
    token ≠ 0 → Gives (.slotClaim r k token) s [.ledger, .dict, .out] fun u =>
      u.slot k.val = { status := .claimed, holder := some r, token := token.toNat, wrote := s.tb1Ns } ∧ u.out.code = 0)
  ∧ (∀ (r : Requester) (k : Slot) (s : State), Accepts r (Obj.slotToken k.val) 0 s →
    Gives (.slotFree r k) s [.ledger, .dict, .out] fun u => u.slot k.val = {} ∧ u.out.code = 0)
  ∧ (∀ (r : Requester) (k : Slot) (s : State), Accepts r (Obj.slotSubmit k.val) 1 s →
    Gives (.slotSubmit r k) s [.ledger, .dict, .out] fun u =>
      u.slot k.val = { s.slot k.val with status := .submitted } ∧ u.out.code = 0)
  ∧ (∀ (r : Requester) (k : Slot) (s : State), Accepts r (Obj.slotSubmit k.val) 0 s →
    Gives (.slotWithdraw r k) s [.ledger, .dict, .out] fun u =>
      u.slot k.val = { s.slot k.val with status := .claimed, wrote := s.tb1Ns } ∧ u.out.code = 0)
  ∧ (∀ (r : Requester) (k : Slot) (w : BitVec 64) (s : State), (s.slot k.val).status = .claimed →
    let wrote := fun (o : Obj) (x : SlotSt) => Accepts r o w.toNat s →
      Gives (.registerWrite ⟨r, .word⟩ (BitVec.ofNat 16 (o.key / 256)) (BitVec.ofNat 8 o.key) w) s [.ledger, .dict, .out]
        fun u => u.slot k.val = { x with wrote := s.tb1Ns } ∧ u.out.code = 0
    wrote (Obj.slotOpcode k.val) { s.slot k.val with opcode := w.toNat }
      ∧ wrote (Obj.slotBell k.val) { s.slot k.val with bell := w.toNat }
      ∧ ∀ n < 32, wrote (Obj.slotArg k.val n) { s.slot k.val with args := Tbl.set (s.slot k.val).args n w.toNat })
  ∧ (∀ (k : Slot) (s : State), (s.slot k.val).status = .claimed →
    let idle := s.power.released = false ∨ s.comesNow ((s.slot k.val).wrote + 1000000000) = true
    (idle → Gives (.slotIdleTimeout k) s [.dict] fun u => u.slot k.val = {})
    ∧ (¬ idle → exec (.slotIdleTimeout k) s = .next s))
  ∧ (∀ (k : Slot) (s : State), (s.slot k.val).status ≠ .claimed → exec (.slotIdleTimeout k) s = .next s)
  ∧ (∀ (r : Requester) (k : Slot) (token : BitVec 64) (s : State), s.reaches r = true →
    (s.slot k.val).holder ≠ some r →
    (s.slot k.val).status = .claimed ∨ (s.slot k.val).status = .submitted ∨ (s.slot k.val).status = .busy →
    Rejected (.slotClaim r k token) r s (· ≠ 0) ∧ Rejected (.slotFree r k) r s (· ≠ 0)
      ∧ Rejected (.slotSubmit r k) r s (· ≠ 0) ∧ Rejected (.slotWithdraw r k) r s (· ≠ 0))

/-- A row whose slot does not hold its submitted command changes nothing; a class that may not send it, and a token
known with other contents, are refused in the slot; a token known with the same contents only shows its record; a
refused boundary or argument leaves a refused record with its code, and acts on nothing. -/
def Obligations.SlotCommandsAreRefused : Prop :=
  ∀ (c : Instr) (k : Slot) (op : Nat) (s : State), slotCommand c = some (k, op) →
  let x := s.slot k.val
  (x.opcode ≠ op ∨ x.status ≠ .submitted ∨ s.power.released = false → exec c s = .next s)
  ∧ (x.opcode = op → x.status = .submitted → s.power.released = true →
    (s.mayCommand x = false → Gives c s [.objs, .dict, .host] fun u =>
      (u.slot k.val).status = .refused ∧ (u.slot k.val).code = 3 ∧ u.dict.tokens = s.dict.tokens)
    ∧ (∀ r : TokenRec, s.mayCommand x = true → s.tokenRec x.token = some r →
      (r.crc = commandCrc x → Gives c s [.dict] fun u =>
        u.slot k.val = x.show r ∧ u.dict.tokens = s.dict.tokens)
      ∧ (r.crc ≠ commandCrc x → Gives c s [.objs, .dict, .host] fun u =>
        (u.slot k.val).status = .refused ∧ (u.slot k.val).code = 4 ∧ u.dict.tokens = s.dict.tokens))
    ∧ (s.mayCommand x = true → s.tokenRec x.token = none → s.dict.tokens.length < 4096 →
      (∀ code pos : Nat, (recorded s k.val).boundaryCase op x.bell = some (code, pos) →
        Gives c s [.objs, .dict, .host] fun u => Ended u x.token .refused code)
      ∧ (∀ code pos : Nat, (recorded s k.val).boundaryCase op x.bell = none →
        (recorded s k.val).commandCase op x.token (s.newRecord k.val x).effect x.args = some (code, pos) →
        Gives c s [.objs, .dict, .host] fun u => Ended u x.token .refused code)))

/-- A command that passes its checks takes effect: ADMIT_PITCH and RELEASE_PITCH set what the next boundary does,
OPEN_GROUP schedules a record, CLOSE_GROUP and STOP_THREADS end at once where there is nothing to stop,
START_THREADS takes a run, LOAD_BUNDLE unloads, RUN_TEST waits on its stall, REMAP_LANE takes a spare; FENCE_STALL,
SUBLET and the others wait for their boundary with a busy record. -/
def Obligations.SlotCommandsTakeEffect : Prop :=
  ∀ (k : Slot) (s : State),
  let x := s.slot k.val
  let w := argOf x.args 0
  let effect := (s.newRecord k.val x).effect
  (Takes s k.val 0x01 → Gives (.admitPitch k) s [.objs, .pitches, .dict, .host] fun u =>
    u.pitch (bits w 0 12) = { s.pitch (bits w 0 12) with
        admission := some ((upTo 10).map (argOf x.args)), takenRung := s.time.rung }
      ∧ Ended u x.token .done 0)
  ∧ (Takes s k.val 0x02 → Gives (.releasePitch k) s [.objs, .pitches, .dict, .host] fun u =>
    u.pitch (bits w 0 12) = { s.pitch (bits w 0 12) with releaseDue := true, takenRung := s.time.rung } ∧ Ended u x.token .done 0)
  ∧ (Takes s k.val 0x03 → Gives (.openGroup k) s [.coll, .dict] fun u =>
    let g := bits (openWord x.args) 0 16
    (u.group g).state = .scheduled ∧ (u.group g).openAt = effect ∧ (u.group g).token = x.token
      ∧ (u.group g).generation = ((s.group g).generation + 1) % 65536 ∧ u.queueOf g = []
      ∧ Ended u x.token .busy 0)
  ∧ (Takes s k.val 0x04 →
    let st := (s.group (bits w 0 16)).state
    (st = .free ∨ st = .closing → Gives (.closeGroup k) s [.objs, .dict, .host] fun u => Ended u x.token .done 0)
    ∧ (st = .scheduled ∨ st = .opened → exec (.closeGroup k) s = .next (recorded s k.val)))
  ∧ (∀ n : Nat, Takes s k.val 0x05 → s.freeRun = some n → Gives (.startThreads k) s [.update, .dict] fun u =>
    u.runOf n = { runOfArgs x.args with startAt := effect, token := x.token } ∧ Ended u x.token .busy 0)
  ∧ (Takes s k.val 0x06 →
    ((s.runOf (bits w 0 6)).state = .free → Gives (.stopThreads k) s [.objs, .dict, .host] fun u =>
      Ended u x.token .done 0)
    ∧ ((s.runOf (bits w 0 6)).state ≠ .free → exec (.stopThreads k) s = .next (recorded s k.val)))
  ∧ (Takes s k.val 0x07 →
    (bit w 2 = true → Gives (.loadBundle k) s [.objs, .update, .dict, .host] fun u =>
      Tbl.find u.update.programs (bits w 8 8) = none ∧ Ended u x.token .done 0)
    ∧ (bit w 2 = false → exec (.loadBundle k) s = .next (recorded s k.val)))
  ∧ (Takes s k.val 0x08 → Gives (.runTest k) s [.custody, .dict] fun u =>
    (u.stall (bits w 0 6)).compute = .testWaiting ∧ (u.stall (bits w 0 6)).neighbour = nearOf w
      ∧ ((u.stall (bits w 0 6)).test.map (·.package)) = some (argOf x.args 1)
      ∧ (u.stall (bits w 0 6)).due = (if bit w 8 then some (s.time.rung + 1, 0, x.token) else none)
      ∧ Ended u x.token .busy 0)
  ∧ (Takes s k.val 0x09 → exec (.fenceStall k) s = .next (recorded s k.val))
  ∧ (Takes s k.val 0x0A → exec (.sublet k) s = .next (recorded s k.val))
  ∧ (Takes s k.val 0x0D → exec (.mapOutChannel k) s = .next (recorded s k.val))
  ∧ (Takes s k.val 0x10 → exec (.takeOver k) s = .next (recorded s k.val))
  ∧ (∀ spare old : Nat, Takes s k.val 0x0B → s.remapSpare w = some spare →
    s.laneOf (bit w 12) (bits w 0 10) = some old → Gives (.remapLane k) s [.lanes, .remaps, .dict] fun u =>
      u.remaps = s.remaps ++ [{ port := bits w 0 10, inward := bit w 12, spare := spare, old := old, bell := effect
                                stage := .scheduled, token := some x.token }]
        ∧ Ended u x.token .busy 0)

/-- SET_THOROUGHFARE schedules an entry or a teardown; SWITCH_TABLE_BANK schedules the switch; PAIR_CUSTODY makes a
pair record and says hello; RESYNC starts, at once where the new partner's hello has come; CHECKPOINT joins its
route's list; CANCEL ends its target failed with code 14 and takes back what it left. -/
def Obligations.SlotCommandsOfFabricAndCustody : Prop :=
  ∀ (k : Slot) (s : State),
  let x := s.slot k.val
  let w := argOf x.args 0
  let effect := (s.newRecord k.val x).effect
  (∀ i : Nat, Takes s k.val 0x0C → bit w 12 = false →
    ((upTo 8).find? fun i => (Tbl.find s.optics.thoros (8 * bits w 0 4 + i)).isNone) = some i →
    Gives (.setThoroughfare k) s [.optics, .dict] fun u =>
      Tbl.find u.optics.thoros (8 * bits w 0 4 + i) = some {
          scheduled := true, rx := bits w 4 2, tx := bits w 6 2, k := bits w 8 4, token := x.token, bell := effect }
        ∧ Ended u x.token .busy 0)
  ∧ (∀ i : Nat, Takes s k.val 0x0C → bit w 12 = true → s.thoroNamed w = some i →
    Gives (.setThoroughfare k) s [.optics, .dict] fun u =>
      u.thoro i = { s.thoro i with
          scheduled := true, teardown := true, proposed := false, token := x.token, bell := effect }
        ∧ Ended u x.token .busy 0)
  ∧ (Takes s k.val 0x0E → Gives (.switchTableBank k) s [.switch, .dict] fun u =>
    u.switch = { s.switch with switch := some { bell := effect, digest := w, token := x.token } }
      ∧ Ended u x.token .busy 0)
  ∧ (Takes s k.val 0x0F → Gives (.pairCustody k) s
      [.objs, .ports, .switch, .coll, .mem, .custody, .ledger, .dict, .host] fun u =>
    u.pair (bits w 0 12) = { pairRecordOf x.args with token := x.token, helloSince := s.time.rung })
  ∧ (Takes s k.val 0x11 → bit w 12 = true →
    let p := s.pair (bits w 0 12)
    let j := argOf x.args 2
    let named := fun (u : State) => let y := u.pair (bits w 0 12)
      y.otherPos = argOf x.args 1 ∧ y.firstSeq = j ∧ y.partner = false ∧ y.token = x.token ∧ y.spareHello = none
    let runs := fun (u : State) (heard : Bool) => let y := u.pair (bits w 0 12)
      named u ∧ y.state = .resyncing ∧ y.gotHello = heard
        ∧ (heard = false → (y.resync.map (·.out)) = some ((upTo p.ranges).map fun r => (j, r)))
    let gives := fun (P : State → Prop) =>
      Gives (.resync k) s [.objs, .ports, .switch, .coll, .mem, .custody, .ledger, .dict, .host] P
    ((∀ other crc : Nat, p.spareHello ≠ some (argOf x.args 1, other, crc)) → gives fun u => runs u false)
    ∧ (∀ other crc : Nat, p.spareHello = some (argOf x.args 1, other, crc) →
      let same := crc = ({ p with firstSeq := j } : Pair).argCrc
      (same → gives fun u => runs u true ∧ (u.pair (bits w 0 12)).otherPair = other)
      ∧ (¬ same → gives fun u => named u ∧ (u.pair (bits w 0 12)).state = .alone
          ∧ (u.pair (bits w 0 12)).resync = none ∧ Ended u x.token .failed 11)))
  ∧ (Takes s k.val 0x11 → bit w 12 = false → resyncRanges x.args ≠ [] → Gives (.resync k) s
      [.objs, .ports, .switch, .coll, .mem, .custody, .ledger, .dict, .host] fun u =>
    let p := u.pair (bits w 0 12)
    p.state = .resyncing ∧ p.token = x.token
      ∧ ∃ y, p.resync = some y ∧ y.started = true ∧ y.seq = (s.pair (bits w 0 12)).nextStep
          ∧ ∀ e : Nat × Nat, e ∈ y.out ↔ e.1 = y.seq ∧ e.2 ∈ resyncRanges x.args)
  ∧ (Takes s k.val 0x12 → Gives (.checkpoint k) s [.dict, .host] fun u =>
    u.host = { s.host with checkpoints := s.host.checkpoints ++ [{
        token := x.token, fabric := bit w 0, src := argOf x.args 1, length := argOf x.args 2
        target := argOf x.args 3, pitch := argOf x.args 4 }] }
      ∧ Ended u x.token .busy 0)
  ∧ (∀ r : TokenRec, Takes s k.val 0x13 → (recorded s k.val).tokenRec w = some r →
    Gives (.cancel k) s
      [.objs, .optics, .lanes, .remaps, .ports, .switch, .coll, .update, .custody, .dict, .host] fun u =>
      Ended u w .failed 14 ∧ Ended u x.token .done 0
        ∧ (r.opcode = 0x0F → u.pair (bits (argOf r.args 0) 0 12) = {})
        ∧ (r.opcode = 0x11 → (u.pair (bits (argOf r.args 0) 0 12)).resync = none)
        ∧ (r.opcode = 0x0E → u.switch.switch = none))

/-! ### The dictionary (17) -/

/-- A row that writes a numbered object by a word: requester, index, subindex and word. -/
def Sys2Proof.wordWrite : Instr → Option (Requester × Nat × Nat × Nat)
  | .longObjectWrite r i j w | .tableTransferStart r i j w => some (r, i.toNat, j.toNat, w.toNat)
  | .registerWrite ⟨r, b⟩ i j w =>
    if badWidth r b i.toNat j.toNat then none
    else some (r, i.toNat, j.toNat, halfWord r b i.toNat j.toNat w.toNat)
  | .powerRestart r w => some (r, 0x0200, 0x01, w.toNat)
  | .bootListReady r w => some (r, Obj.bootListReady.key / 256, Obj.bootListReady.key % 256, w.toNat)
  | .stepPermit r w => some (r, Obj.stepPermit.key / 256, Obj.stepPermit.key % 256, w.toNat)
  | .tb2RateWrite r w => some (r, Obj.tb2Rate.key / 256, Obj.tb2Rate.key % 256, w.toNat)
  | .packPrepare r e => some (r, 0x1A10 + e.val, 0x02, 1)
  | .packCancelPrepare r e => some (r, 0x1A10 + e.val, 0x02, 2)
  | .packRestart r e => some (r, 0x1A10 + e.val, 0x02, 3)
  | .retrain r p w => some (r, 0x1000 + p.val, 0x04, w.toNat)
  | .expectedPeerWrite r p w => some (r, 0x1000 + p.val, 0x02, w.toNat)
  | .widthWrite r p w => some (r, 0x1000 + p.val, 0x01, w.toNat)
  | .poolRebuild r t w => some (r, 0x1800 + t.val, 0x9F, w.toNat)
  | .segLock r w | .segRelease r w => some (r, Obj.segLock.key / 256, Obj.segLock.key % 256, w.toNat)
  | .eventTailWrite r w => some (r, 0x0F20, 0x03, w.toNat)
  | .slotClaim r k w => some (r, 0x0F00 + 2 * k.val, 0x01, w.toNat)
  | .slotFree r k => some (r, 0x0F00 + 2 * k.val, 0x01, 0)
  | .slotSubmit r k => some (r, 0x0F00 + 2 * k.val, 0x04, 1)
  | .slotWithdraw r k => some (r, 0x0F00 + 2 * k.val, 0x04, 0)
  | .leaseWrite r p false w => some (r, 0x2000 + p.val, 0x60, w.toNat)
  | .leaseWrite r p true w => some (r, 0x2000 + p.val, 0x61, w.toNat)
  | .vfBindingWrite r v w => some (r, 0x0B00, 0x11 + v.val, w.toNat)
  | .storeCommit r w => some (r, 0x0400, 0x0F, w.toNat)
  | .storeDelete r w => some (r, 0x0400, 0x10, w.toNat)
  | .ledgerEnable r w => some (r, 0x0A00, 0x01, w.toNat)
  | _ => none

/-- Every row that writes an object by a word: where the route carries nothing it changes nothing; where a check
refuses the access, its code is answered and kept for its requester alone, and nothing else changes. So is
an access over BAR0 of a width that its object does not take; the low half of a word stands for the word it extends to.
An access of the vendor class to its own range stops the run. -/
def Obligations.RefusedAccessesChangeNothing : Prop :=
  (∀ (c : Instr) (r : Requester) (i j w : Nat) (s : State), wordWrite c = some (r, i, j, w) →
    vendorRange r i = false →
    let s' := s.countBar r
    let v := s'.wordValue r i j w
    (s.reaches r = false → exec c s = .next s)
    ∧ (s.reaches r = true → (∀ row, dictRow i j = some row → row.ty.isTable = false) →
      (∀ code row, s'.precheck r i j true = (code, row) → code ≠ 0 → Rejected c r s (· = code))
      ∧ (∀ row, s'.precheck r i j true = (0, some row) → s'.writeCode r row (256 * i + j) v ≠ 0 →
        Rejected c r s (· = s'.writeCode r row (256 * i + j) v))))
  ∧ (∀ (r : Requester) (b : BarWidth) (i : BitVec 16) (j : BitVec 8) (w : BitVec 64) (s : State),
    s.reaches r = true → onBar r = true →
      b = .other ∨ b = .low ∧ (∀ row, dictRow i.toNat j.toNat = some row → row.ty.isTable = true ∨ 4 < row.ty.size) →
    let code := fun (wr : Bool) => match (s.countBar r).precheck r i.toNat j.toNat wr with
      | (0, _) => 10
      | (c, _) => c
    Rejected (.registerWrite ⟨r, b⟩ i j w) r s (· = code true)
    ∧ Rejected (.longObjectRead ⟨r, b⟩ i j) r s (· = code false))
  ∧ (∀ (b : BarWidth) (i : BitVec 16) (j : BitVec 8) (w : BitVec 64) (s : State), 0x8000 ≤ i.toNat →
    exec (.registerWrite ⟨.vendor, b⟩ i j w) s = .fault .vendorPrivate
    ∧ exec (.longObjectRead ⟨.vendor, b⟩ i j) s = .fault .vendorPrivate
    ∧ exec (.longObjectWrite .vendor i j w) s = .fault .vendorPrivate
    ∧ exec (.tableTransferStart .vendor i j w) s = .fault .vendorPrivate)

/-- Each row that writes a TIME80 object, by a whole value or by a word over the long buffer, is rejected where the
ns field is 10⁹ or more, and where the base field is not the object's own: TB2 for tb2_now, TB0 for the start of a
pulse. A rejected write changes no object and no time. -/
def Obligations.BadTime80IsRejected : Prop :=
  (∀ (r : Requester) (v : BitVec 80) (s : State), s.reaches r = true →
    1000000000 ≤ bits v.toNat 0 30 ∨ bits v.toNat 78 2 ≠ 2 → Rejected (.tb2NowWrite r v) r s (· ≠ 0))
  ∧ (∀ (r : Requester) (k : Fin 4) (v : BitVec 80) (s : State), s.reaches r = true →
    1000000000 ≤ bits v.toNat 0 30 ∨ bits v.toNat 78 2 ≠ 0 →
    Rejected (.pulseProgramWrite r k 0 v) r s (· ≠ 0))
  ∧ (∀ (r : Requester) (i : BitVec 16) (j : BitVec 8) (w : BitVec 64) (row : ObjRow) (s : State),
    s.reaches r = true → vendorRange r i.toNat = false → dictRow i.toNat j.toNat = some row → row.ty = .time80 →
    let v := (s.countBar r).wordValue r i.toNat j.toNat w.toNat
    1000000000 ≤ bits v 0 30 ∨ (i.toNat = 0x0300 ∧ j.toNat = 0x04 ∧ bits v 78 2 ≠ 2)
      ∨ (i.toNat = 0x0300 ∧ 0x20 ≤ j.toNat ∧ bits v 78 2 ≠ 0) →
    Rejected (.longObjectWrite r i j w) r s (· ≠ 0) ∧ Rejected (.registerWrite ⟨r, .word⟩ i j w) r s (· ≠ 0))

/-- A write of ledger_interval whose N × period is below 16 µs is rejected and changes nothing, and so is enabling
the ledger over such an interval; an accepted write of ledger_interval stores N. -/
def Obligations.ShortLedgerIntervalIsRejected : Prop :=
  (∀ (r : Requester) (w : BitVec 64) (s : State), s.reaches r = true → w.toNat * s.period < 16000 →
    Rejected (.registerWrite ⟨r, .word⟩ 0x0A00 0x02 w) r s (· ≠ 0))
  ∧ (∀ (r : Requester) (s : State), s.reaches r = true → s.obj Obj.ledgerInterval * s.period < 16000 →
    Rejected (.ledgerEnable r 1) r s (· ≠ 0))
  ∧ (∀ (r : Requester) (w : BitVec 64) (s : State), Accepts r Obj.ledgerInterval w.toNat s →
    16000 ≤ w.toNat * s.period
      ∧ Gives (.registerWrite ⟨r, .word⟩ 0x0A00 0x02 w) s [.objs, .ledger, .dict, .out] fun u =>
          u.obj Obj.ledgerInterval = w.toNat)

/-- An accepted REGISTER_WRITE stores a plain value, or keeps one that waits for the boundary; LONG_OBJECT_WRITE
stores the word over the long buffer's tail; LONG_OBJECT_READ answers the first word and fills the long buffer, and
over I3C gives the whole object; over BAR0 the low half of a word serves an object of 4 bytes or fewer;
COUNTER_CONTROL_WRITE waits for the boundary; LEDGER_ENABLE starts the ring again; EVENT_TAIL_WRITE moves the tail. -/
def Obligations.AcceptedAccesses : Prop :=
  (∀ (r : Requester) (o : Obj) (w : BitVec 64) (s : State), Accepts r o w.toNat s → o.key < 2 ^ 24 →
    isCounterKey o.key = false →
    let c := Instr.registerWrite ⟨r, .word⟩ (BitVec.ofNat 16 (o.key / 256)) (BitVec.ofNat 8 o.key) w
    ((s.countBar r).waitsForBell o.key = false → (s.countBar r).writeSpecial r o.key w.toNat = none →
      Gives c s [.objs, .ledger, .dict, .out] fun u =>
        u.objs = Tbl.set s.objs o.key w.toNat ∧ u.out.code = 0 ∧ (u.req r).code = 0)
    ∧ ((s.countBar r).waitsForBell o.key = true → Gives c s [.ledger, .dict, .out] fun u =>
        u.dict.staged = Tbl.set s.dict.staged o.key w.toNat ∧ u.out.code = 0))
  ∧ (∀ (r : Requester) (o : Obj) (w : BitVec 64) (row : ObjRow) (s : State),
    dictRow (o.key / 256) (o.key % 256) = some row → row.ty.long = true → row.ty.isTable = false → o.key < 2 ^ 24 →
    let v := w.toNat + bits (s.req r).long 64 (8 * row.ty.size - 64) * 2 ^ 64
    AcceptsWhole r o v s → isCounterKey o.key = false → (s.countBar r).waitsForBell o.key = false →
    (s.countBar r).writeSpecial r o.key v = none →
    Gives (.longObjectWrite r (BitVec.ofNat 16 (o.key / 256)) (BitVec.ofNat 8 o.key) w) s
      [.objs, .ledger, .dict, .out] fun u => u.objs = Tbl.set s.objs o.key v ∧ u.out.code = 0)
  ∧ (∀ (r : Requester) (o : Obj) (row : ObjRow) (s : State), o.key < 2 ^ 24 → s.reaches r = true →
    (s.countBar r).precheck r (o.key / 256) (o.key % 256) false = (0, some row) → row.ty.isTable = false →
    row.ty.long = true → isLive (o.key / 256) (o.key % 256) = false →
    o.key ≠ (Obj.tinCapture 0).key → o.key ≠ (Obj.tinCapture 1).key →
    Gives (.longObjectRead ⟨r, .word⟩ (BitVec.ofNat 16 (o.key / 256)) (BitVec.ofNat 8 o.key)) s [.ledger, .dict, .out]
      fun u =>
      let v := (s.countBar r).value r row (o.key / 256) (o.key % 256)
      u.out.data = v % 2 ^ 64 ∧ u.out.code = 0
        ∧ (u.req r).long % 2 ^ (8 * row.ty.size) = v % 2 ^ (8 * row.ty.size)
        ∧ (r = .i3c → u.dict.i3cIndex = o.key / 256 ∧ u.dict.i3cSub = o.key % 256
            ∧ u.out.response = 0 :: BitVec.ofNat 8 (min 255 row.ty.size) :: (valueBytes row v).take 255))
  ∧ (∀ (r : Requester) (o : Obj) (row : ObjRow) (w : BitVec 64) (s : State), o.key < 2 ^ 24 → onBar r = true →
    dictRow (o.key / 256) (o.key % 256) = some row → row.ty.isTable = false → row.ty.long = false → row.ty.size ≤ 4 →
    let low := if row.ty.signed then extendWord 32 (w.toNat % 2 ^ 32) else w.toNat % 2 ^ 32
    exec (.registerWrite ⟨r, .low⟩ (BitVec.ofNat 16 (o.key / 256)) (BitVec.ofNat 8 o.key) w) s
      = exec (.registerWrite ⟨r, .word⟩ (BitVec.ofNat 16 (o.key / 256)) (BitVec.ofNat 8 o.key) (BitVec.ofNat 64 low)) s
    ∧ (MayRead r o s → isLive (o.key / 256) (o.key % 256) = false →
      Gives (.longObjectRead ⟨r, .low⟩ (BitVec.ofNat 16 (o.key / 256)) (BitVec.ofNat 8 o.key)) s [.ledger, .dict, .out]
        fun u => u.out.data = (s.countBar r).value r row (o.key / 256) (o.key % 256) % 2 ^ 32 ∧ u.out.code = 0))
  ∧ (∀ (r : Requester) (i : BitVec 16) (j : BitVec 8) (v : BitVec 256) (o : Obj) (s : State),
    o.key = 256 * i.toNat + j.toNat → 0x0A40 ≤ i.toNat → i.toNat ≤ 0x0A82 → AcceptsWhole r o v.toNat s →
    Gives (.counterControlWrite r i j v) s [.ledger, .dict, .out] fun u =>
      (i.toNat, j.toNat, v.toNat) ∈ u.ledger.staged ∧ u.out.code = 0)
  ∧ (∀ (r : Requester) (s : State), Accepts r Obj.ledgerEnable 1 s → s.obj Obj.ledgerEnable = 0 →
    Gives (.ledgerEnable r 1) s [.objs, .ledger, .dict, .out] fun u =>
      u.obj Obj.ledgerEnable = 1 ∧ u.obj Obj.ledgerHead = 0 ∧ u.obj Obj.ledgerTail = 0
        ∧ u.obj Obj.ledgerSequence = 0 ∧ u.ledger.missed = 0 ∧ u.ledger.writing = none)
  ∧ (∀ (r : Requester) (s : State), Accepts r Obj.ledgerEnable 0 s →
    Gives (.ledgerEnable r 0) s [.objs, .ledger, .dict, .out] fun u =>
      u.obj Obj.ledgerEnable = 0 ∧ u.ledger.writing = none)
  ∧ (∀ (r : Requester) (w : BitVec 64) (s : State), Accepts r Obj.eventTail w.toNat s →
    Gives (.eventTailWrite r w) s [.ledger, .dict, .out] fun u => u.dict.tail = w.toNat ∧ u.out.code = 0)

/-- TABLE_TRANSFER_START keeps the descriptor of a transfer over BAR0; TABLE_TRANSFER_END moves the table's bytes
to the host, writes a plain table, or fails on a host error. DICTIONARY_MESSAGE discards what its checks refuse,
repeats the kept answer of the last request, and performs a new one. I3C_PRIVATE_WRITE selects an object; ENTDAA
gives the address. -/
def Obligations.TransfersAndMessages : Prop :=
  (∀ (r : Requester) (i : BitVec 16) (j : BitVec 8) (row : ObjRow) (size entry : Nat) (s : State),
    s.reaches r = true → r = .pf0 ∨ (∃ v, r = .vf v) → (s.countBar r).precheck r i.toNat j.toNat false = (0, some row) →
    dictRow i.toNat j.toNat = some row → row.ty = .table size entry →
    (s.obj Obj.securityMode = 1 → sealedOut r = false) →
    (s.req r).state ≠ 1 → descriptorOk ((s.req r).long % 2 ^ 256) size entry = true →
    Gives (.tableTransferStart r i j 1) s [.ledger, .dict, .out] fun u =>
      (u.req r).state = 1 ∧ (u.req r).key = 256 * i.toNat + j.toNat ∧ (u.req r).tcode = 0
        ∧ (u.req r).descriptor = (s.req r).long % 2 ^ 256 ∧ u.out.code = 0)
  ∧ (∀ (r : Requester) (data : List Byte) (hostError : Bool) (s : State), (s.req r).state ≠ 1 →
    exec (.tableTransferEnd r data hostError) s = .next s)
  ∧ (∀ (r : Requester) (data : List Byte) (hostError : Bool) (row : ObjRow) (s : State),
    let x := s.req r
    x.state = 1 → dictRow (x.key / 256) (x.key % 256) = some row → row.ty.isTable = true →
    (hostError = true ∨ s.mayMaster (functionOf r) = false →
      Gives (.tableTransferEnd r data hostError) s [.objs, .dict, .host] fun u =>
        (u.req r).state = 3 ∧ (u.req r).tcode = 7 ∧ u.mem = s.mem)
    ∧ (hostError = false → s.mayMaster (functionOf r) = true → bit x.descriptor 128 = false →
      Gives (.tableTransferEnd r data hostError) s [.objs, .ledger, .dict, .host, .out] fun u =>
        (u.req r).state = 2 ∧ (u.req r).moved = bits x.descriptor 96 32
          ∧ ∃ bs, u.out.hostWrite = some (bits x.descriptor 0 64, bs))
    ∧ (hostError = false → s.mayMaster (functionOf r) = true → bit x.descriptor 128 = true → row.acc = .ro →
      Gives (.tableTransferEnd r data hostError) s [.objs, .ledger, .dict, .host] fun u =>
        (u.req r).state = 3 ∧ (u.req r).tcode = 3 ∧ (u.req r).moved = 0))
  ∧ (∀ (route : MsgRoute) (bytes : List Byte) (s : State),
    let h := leNat (bytes.take 32)
    let answers := s.power.mgmtReady && match route with
      | .mgmt _ => s.obj Obj.mgmtMode != 3
      | .vc6 _ => s.dieRunning
    if answers = false then exec (.dictionaryMessage route bytes) s = .next s else
    (∀ cls : MsgClass, msgClass h = some cls →
      s.headerOk h bytes.length = false ∨ s.msgKey cls = 0 ∨ s.tagOf cls h (bytes.drop 32) ≠ bits h 128 128 →
      exec (.dictionaryMessage route bytes) s = .next (s.bump Obj.msgDiscarded))
    ∧ (msgClass h = none → exec (.dictionaryMessage route bytes) s = .next (s.bump Obj.msgDiscarded))
    ∧ (∀ cls : MsgClass, msgClass h = some cls → s.headerOk h bytes.length = true →
      bytes.length ≤ MsgLimit route → s.msgKey cls ≠ 0 → s.tagOf cls h (bytes.drop 32) = bits h 128 128 →
      (bits h 32 64 < s.lastId cls →
        exec (.dictionaryMessage route bytes) s = .next (s.bump Obj.msgDiscarded))
      ∧ (bits h 32 64 = s.lastId cls →
        (∀ k ∈ s.dict.responses, ¬ (k.cls = cls ∧ k.route = route ∧ k.id = bits h 32 64)) →
        exec (.dictionaryMessage route bytes) s = .next (s.bump Obj.msgDiscarded))
      ∧ (∀ (a : Nat) (k : KeptResponse), route = .mgmt a → bits h 32 64 = s.lastId cls →
        (s.dict.responses.find? fun k => k.cls == cls && k.route == route && k.id == bits h 32 64) = some k →
        exec (.dictionaryMessage route bytes) s = .next { s with out := { s.out with response := k.bytes } })
      ∧ (∀ a : Nat, route = .mgmt a → s.lastId cls < bits h 32 64 →
        Gives (.dictionaryMessage route bytes) s
          [.objs, .power, .time, .optics, .lanes, .remaps, .ports, .switch, .service, .coll, .mem, .warden, .ledger,
            .dict, .host, .free, .out] fun u =>
          u.out.response.length ≥ 32
            ∧ ∃ k ∈ u.dict.responses, k.cls = cls ∧ k.route = route ∧ k.id = bits h 32 64
                ∧ k.bytes = u.out.response)))
  ∧ (∀ (hi lo sub : Byte) (s : State), s.reaches .i3c = true →
    exec (.i3cPrivateWrite [hi, lo, sub]) s = .next { s with dict := { s.dict with
      i3cIndex := hi.toNat * 256 + lo.toNat, i3cSub := sub.toNat } })
  ∧ (∀ (addr : BitVec 7) (s : State),
    exec (.entdaa addr) s
      = .next (if s.power.mgmtReady then { s with dict := { s.dict with i3cAddr := some addr } } else s))

/-! ### The host interface and firmware (15, 18) -/

/-- An accepted STORE_COMMIT starts a commit, STORE_COMMIT_DONE makes the entry valid or empties it, STORE_DELETE
empties it; KEY_WRITE keeps the key and returns the class's last request id to 0; ATTEST_NONCE starts a report and
ATTEST_REPORT_READY gives it; LEASE_WRITE and VF_BINDING_WRITE wait for the boundary; BUNDLE_VERIFIED ends its
command. -/
def Obligations.FirmwareCommandsTakeEffect : Prop :=
  (∀ (r : Requester) (w : BitVec 64) (s : State), Accepts r Obj.storeCommit w.toNat s →
    Gives (.storeCommit r w) s [.ledger, .dict, .host, .out] fun u =>
      u.host.committing = some w.toNat ∧ (Tbl.get u.host.store w.toNat {}).state = 2 ∧ u.out.code = 0)
  ∧ (∀ (e : Fin 64) (s : State), s.host.committing = some e.val →
    let b := s.storeBundle e.val
    ((s.bundleFault b).isSome = true → Gives (.storeCommitDone e) s [.objs, .dict, .host] fun u =>
      u.host.committing = none ∧ Tbl.find u.host.store e.val = none)
    ∧ (s.bundleFault b = none → Gives (.storeCommitDone e) s [.host] fun u =>
      u.host.committing = none ∧ Tbl.find u.host.store e.val = some {
        state := 1, kind := b.kind, autoload := b.field 56 1 == 1, identity := b.identity
        bytes := 4096 + b.bodyBytes, svn := b.svn, signer := b.signer }))
  ∧ (∀ (e : Fin 64) (s : State), s.host.committing ≠ some e.val → exec (.storeCommitDone e) s = .next s)
  ∧ (∀ (r : Requester) (w : BitVec 64) (s : State), Accepts r Obj.storeDelete w.toNat s →
    Gives (.storeDelete r w) s [.ledger, .dict, .host, .out] fun u =>
      Tbl.find u.host.store w.toNat = none ∧ u.out.code = 0)
  ∧ (∀ (r : Requester) (key : BitVec 256) (s : State),
    (AcceptsWhole r Obj.keyOwner key.toNat s → Gives (.keyWrite r false key) s [.objs, .ledger, .dict, .out] fun u =>
      u.obj Obj.keyOwner = key.toNat ∧ u.dict.lastOwner = 0 ∧ u.dict.lastOperator = s.dict.lastOperator)
    ∧ (AcceptsWhole r Obj.keyOperator key.toNat s →
      Gives (.keyWrite r true key) s [.objs, .ledger, .dict, .out] fun u =>
        u.obj Obj.keyOperator = key.toNat ∧ u.dict.lastOperator = 0 ∧ u.dict.lastOwner = s.dict.lastOwner))
  ∧ (∀ (r : Requester) (nonce : BitVec 256) (s : State), AcceptsWhole r Obj.attestNonce nonce.toNat s →
    Gives (.attestNonce r nonce) s [.ledger, .dict, .host, .out] fun u =>
      u.host.attesting = true ∧ u.host.attestReady = false ∧ u.host.attestNonce = nonce.toNat)
  ∧ (∀ s : State, s.host.attesting = true → Gives .attestReportReady s [.host] fun u =>
      u.host.attesting = false ∧ u.host.attestReady = true ∧ u.host.report = s.attestation)
  ∧ (∀ s : State, s.host.attesting = false → exec .attestReportReady s = .next s)
  ∧ (∀ (r : Requester) (p : Pitch) (count : Bool) (w : BitVec 64) (s : State),
    let o := if count then Obj.leaseCount p.val else Obj.leaseBase p.val
    Accepts r o w.toNat s → Gives (.leaseWrite r p count w) s [.ledger, .dict, .out] fun u =>
      u.dict.staged = Tbl.set s.dict.staged o.key w.toNat ∧ u.out.code = 0)
  ∧ (∀ (r : Requester) (v : Fin 64) (w : BitVec 64) (s : State), Accepts r (Obj.vfBinding v.val) w.toNat s →
    Gives (.vfBindingWrite r v w) s [.ledger, .dict, .out] fun u =>
      u.dict.staged = Tbl.set s.dict.staged (Obj.vfBinding v.val).key w.toNat ∧ u.out.code = 0)
  ∧ (∀ (token : BitVec 64) (fetched : Option (List Byte)) (r : TokenRec) (s : State),
    s.tokenRec token.toNat = some r →
    let parts : List Part := [.objs, .optics, .ports, .update, .mem, .ledger, .dict, .host]
    (r.status ≠ .busy ∨ r.opcode ≠ 0x07 → exec (.bundleVerified token fetched) s = .next s)
    ∧ (r.status = .busy → r.opcode = 0x07 → s.loadText r.args fetched = none →
      Gives (.bundleVerified token fetched) s [.objs, .dict, .host] fun u => Ended u token.toNat .failed 13)
    ∧ (∀ b : BundleText, r.status = .busy → r.opcode = 0x07 → s.loadText r.args fetched = some b →
      ((s.bundleFault b).isSome = true →
        Gives (.bundleVerified token fetched) s [.objs, .ledger, .dict, .host] fun u =>
          Ended u token.toNat .failed 12 ∧ u.host.packages = s.host.packages ∧ u.host.tables = s.host.tables)
      ∧ (s.bundleFault b = none → b.kind = 2 → s.packageUsed b.package = false →
        Gives (.bundleVerified token fetched) s [.objs, .ledger, .dict, .host] fun u =>
          Ended u token.toNat .done 0
            ∧ Tbl.find u.host.packages b.package = some (b.loaded b.package))
      ∧ (s.bundleFault b = none → b.kind = 2 → s.packageUsed b.package = true →
        Gives (.bundleVerified token fetched) s [.objs, .ledger, .dict, .host] fun u =>
          Ended u token.toNat .failed 8 ∧ u.host.packages = s.host.packages)
      ∧ (s.bundleFault b = none → b.kind = 3 →
        Gives (.bundleVerified token fetched) s [.objs, .ledger, .dict, .host] fun u =>
          Ended u token.toNat .done 0 ∧ u.host.tables = s.host.tables ++ [b.loaded 0xFF])
      ∧ (s.bundleFault b = none → b.kind = 1 → ∀ k : Nat, s.programSlot b.program b.signer = some k →
        Gives (.bundleVerified token fetched) s parts fun u =>
          Ended u token.toNat .done 0 ∧ Tbl.find u.update.programs k = some {
            id := b.program, signer := b.signer, identity := b.identity, svn := b.svn
            bytes := b.bodyBytes, declared := b.energy, base := s.imageBase k })))

/-- PCIE_LINK_TRAINING brings the link up at the best rate and width of both sides; a rate that fails twice in a row
is dropped; PCIE_PERST_ASSERT and PCIE_LINK_DOWN reset the host interface; PCIE_CONFIG_WRITE sets Bus Master Enable,
NumVFs, the read request size, base addresses and MSI-X entries; DMA_COMPLETION takes a part of a read and ends the
read with its last part, and it and COMPLETION_TIMEOUT end one as a host error; CHECKPOINT_END ends a stream whose
last blocks fit the share of this bell, or fails it. -/
def Obligations.HostLinkCommandsTakeEffect : Prop :=
  let dark (u : State) (l : PcieState) : Prop :=
    u.host.link = l ∧ u.host.speed = 0 ∧ u.host.width = 0 ∧ u.host.numVfs = 0 ∧ u.host.busMaster = []
      ∧ u.host.reqs = [] ∧ u.host.fired = [] ∧ u.host.maxRead = [] ∧ u.host.bars = [] ∧ u.host.msix = []
  let faulted : List Part :=
    [.objs, .ports, .switch, .coll, .update, .arrays, .mem, .custody, .ledger, .dict, .host, .free, .out]
  let whole : List Part := .time :: .service :: faulted
  (∀ (pmax : Fin 7) (rates : List (Fin 7)) (lanes : Fin 17) (s : State),
    (s.power.released = false → exec (.pcieLinkTraining pmax rates lanes) s = .next s)
    ∧ (s.power.released = true → s.commonRate pmax.val ≠ 0 → linkWidth lanes.val ≠ 0 →
      Gives (.pcieLinkTraining pmax [] lanes) s [.objs, .dict, .host] fun u =>
        u.host.link = .up ∧ u.host.speed = s.commonRate pmax.val ∧ u.host.width = linkWidth lanes.val)
    ∧ (∀ r : Fin 7, s.power.released = true → s.host.link ≠ .up → r.val ≤ min (s.obj Obj.maxSpeed) pmax.val →
      s.host.dropped.contains r.val = false →
      Tbl.get s.host.eqRun r.val 0 ≠ 0 →
      Gives (.pcieLinkTraining pmax [r] lanes) s [.objs, .dict, .host] fun u =>
        r.val ∈ u.host.dropped ∧ (u.host.link = .up → u.host.speed ≠ r.val)))
  ∧ (∀ s : State,
    (s.host.link = .perst → exec .pciePerstAssert s = .next s)
    ∧ (s.host.link ≠ .perst → Gives .pciePerstAssert s whole fun u => dark u .perst ∧ u.host.dropped = [])
    ∧ (s.host.link = .up ∨ s.host.link = .training → Gives .pcieLinkDown s whole fun u => dark u .down)
    ∧ (s.host.link = .down ∨ s.host.link = .perst → exec .pcieLinkDown s = .next s))
  ∧ (∀ s : State,
    (∀ x : PcieConfig, s.host.link ≠ .up → exec (.pcieConfigWrite x) s = .next s)
    ∧ (∀ (fn : Fin 65) (on : Bool), s.host.link = .up →
      Gives (.pcieConfigWrite (.busMaster fn on)) s [.power, .warden, .host] fun u =>
        ∀ f : Nat, u.host.busMaster.contains f = if f = fn.val then on else s.host.busMaster.contains f)
    ∧ (∀ n : Fin 65, s.host.link = .up → Gives (.pcieConfigWrite (.numVfs n)) s [.host] fun u =>
        u.host.numVfs = n.val ∧ u.host.busMaster = s.host.busMaster)
    ∧ (∀ (fn : Fin 65) (code : Fin 6), s.host.link = .up → Gives (.pcieConfigWrite (.maxRead fn code)) s [.host] fun u =>
        u.maxReadOf fn.val = 128 * 2 ^ code.val ∧ ∀ f : Nat, f ≠ fn.val → u.maxReadOf f = s.maxReadOf f)
    ∧ (∀ (which : Fin 4) (addr : BitVec 64), s.host.link = .up →
      Gives (.pcieConfigWrite (.bar which addr)) s [.host] fun u => Tbl.find u.host.bars which.val = some addr.toNat)
    ∧ (∀ (fn : Fin 65) (vector : Fin 4) (entry : BitVec 128), s.host.link = .up →
      Gives (.pcieConfigWrite (.msix fn vector entry)) s [.host] fun u =>
        Tbl.find u.host.msix (4 * fn.val + vector.val) = some entry.toNat))
  ∧ (∀ (req : Nat) (status : CompletionStatus) (data : List Byte) (s : State), s.request req = none →
    exec (.dmaCompletion req status data) s = .next s ∧ exec (.completionTimeout req) s = .next s)
  ∧ (∀ (req : Nat) (data : List Byte) (r : HostReq) (s : State), s.request req = some r →
    let got := r.got ++ fitBytes (min (s.maxReadOf 0) (r.bytes - r.got.length)) data
    let bs := fitBytes r.bytes got
    let whole := r.sent ≠ [] ∧ r.bytes ≤ got.length
    let late := r.sent ≠ [] ∧ s.readOver r = true
    let fails := fun (c : Instr) =>
      r.sent ≠ [] ∧ (c = .dmaCompletion req .error data ∨ c = .dmaCompletion req .poisoned data)
        ∨ late ∧ c = .completionTimeout req
    (∀ status : CompletionStatus, r.sent = [] → exec (.dmaCompletion req status data) s = .next s)
    ∧ (¬ late → exec (.completionTimeout req) s = .next s)
    ∧ (r.sent ≠ [] → got.length < r.bytes → Gives (.dmaCompletion req .ok data) s [.host] fun u =>
      ∃ l, u.request req = some { r with got := got, sent := l })
    ∧ (∀ (t n op ty d m imm k : Nat) (lanes : List Nat), r.use = .load t n op ty d m imm lanes →
      let x := s.thread t n
      let y := x.takeLoad op ty d imm lanes bs
      x.state = .running → x.wait = .host k →
      (whole → Gives (.dmaCompletion req .ok data) s [.objs, .update, .ledger, .host] fun u =>
        u.request req = none ∧ u.update = (s.setThread t n
          (if (s.dropRequest req).loadPending t n then y else ({ y with wait := .none } : Thread).next)).update)
      ∧ (∀ c : Instr, fails c → Gives c s faulted fun u =>
        (u.thread t n).state ≠ .running ∧ u.request req = none ∧ u.loadPending t n = false
          ∧ (s.stopping x.run = false → (u.thread t n).state = .halted
              ∧ (u.thread t n).fault = if c = .dmaCompletion req .poisoned data then 5 else 4)))
    ∧ (∀ t n : Nat, r.use = .move t n →
      (whole → Gives (.dmaCompletion req .ok data) s [.objs, .update, .ledger, .host] fun u =>
        u.update = (s.moveData req (some bs)).update ∧ u.request req = none)
      ∧ (∀ c : Instr, fails c → Gives c s [.objs, .update, .host] fun u =>
          u.update = (s.moveData req none).update ∧ u.request req = none)))
  ∧ (∀ (token : BitVec 64) (hostError : Bool) (c : Checkpoint) (s : State),
    (s.host.checkpoints.find? fun d => d.token == token.toNat) = some c →
    (∀ d : Checkpoint, s.activeCheckpoint c.fabric = some d → d.token ≠ c.token →
      exec (.checkpointEnd token hostError) s = .next s)
    ∧ (s.activeCheckpoint c.fabric = some c → c.fabric = true ∨ (hostError = false ∧ s.hostOpen = true) →
      c.sent + s.blocksNow c < c.blocks ∨ (c.sent < c.blocks ∧ s.blockWaits c = true) →
      exec (.checkpointEnd token hostError) s = .next s)
    ∧ (∀ r : TokenRec, s.activeCheckpoint c.fabric = some c → s.tokenRec token.toNat = some r → r.status = .busy →
      (c.fabric = false → hostError = true ∨ s.hostOpen = false →
        Gives (.checkpointEnd token hostError) s [.objs, .dict, .host] fun u =>
          Ended u token.toNat .failed 13 ∧ ∀ d ∈ u.host.checkpoints, d.token ≠ token.toNat)
      ∧ (c.fabric = true ∨ (hostError = false ∧ s.hostOpen = true) → c.blocks ≤ c.sent + s.blocksNow c →
        (∀ i, c.sent ≤ i → i < c.blocks → s.blockWaits { c with sent := i } = false) →
        Gives (.checkpointEnd token hostError) s
          [.objs, .ports, .switch, .coll, .mem, .ledger, .dict, .host, .out] fun u =>
          Ended u token.toNat .done 0 ∧ ∀ d ∈ u.host.checkpoints, d.token ≠ token.toNat)))
end

