-- ==== Sys2Proof/Laws/Access.lean ====
section
/-! SUPPORT. What an accepted access to the dictionary does: one lemma for a write of a word, one for a write
of a whole value, one for a read. -/

namespace Sys2Proof

open Machine

theorem key_split (k : Nat) : 256 * (k / 256) + k % 256 = k := Nat.div_add_mod k 256

theorem writeObj_accepted {r : Requester} {o : Obj} {v : Nat} {s : State} (h : Accepts r o v s) :
    writeObj r o v s = .next (answered r o v ((s.countBar r).putValue r o.key v)) := by
  obtain ⟨h1, row, h2, h3, h4, h5, h6⟩ := h
  rw [key_split] at h6
  simp [writeObj, State.writeWord, h1, h2, h3, State.wordValue, h4, State.dictWrite, h5, key_split, h6, answered]

theorem writeWhole_accepted {r : Requester} {o : Obj} {v : Nat} {s : State} (h : AcceptsWhole r o v s) :
    s.writeWhole r (o.key / 256) (o.key % 256) v
      = answered r o (v % 2 ^ 64) ((s.countBar r).putValue r o.key v) := by
  obtain ⟨h1, row, h2, h3, h4, h5⟩ := h
  rw [key_split] at h5
  simp [State.writeWhole, h1, State.dictWrite, h4, key_split, h5, h3, answered]

end Sys2Proof
end

