-- ==== Sys2Proof/Laws/Memory.lean ====
section
/-! SUPPORT. Memory in canonical form: a read after a write, and every write keeps the form. Tables: an entry
after a write. The fault capsule's bounds. -/

namespace Sys2Proof.Machine

/-! ### Cells -/

/-- Every listed address is above `k`. -/
def above (k : Nat) (m : List Host.Cell) : Prop := ∀ c ∈ m, k < c.1

theorem wf_cons {a : Nat} {b : Byte} {m : List Host.Cell} :
    Memory.wf ((a, b) :: m) = true ↔ b ≠ cellDefault ∧ above a m ∧ Memory.wf m = true := by
  simp only [Memory.wf, Bool.and_eq_true, decide_eq_true_eq, List.all_eq_true, above]
  exact ⟨fun h => ⟨h.1.1, h.1.2, h.2⟩, fun h => ⟨⟨h.1, h.2.1⟩, h.2.2⟩⟩

theorem above_writeCell {j k : Nat} {v : Byte} : ∀ {m : List Host.Cell}, above j m → j < k →
    above j (writeCell m k v)
  | [], _, hk => by
    unfold writeCell; split <;> intro c hc <;> simp at hc
    subst hc; exact hk
  | (a, b) :: m, h, hk => by
    have ha : j < a := h (a, b) (by simp)
    have hm : above j m := fun c hc => h c (by simp [hc])
    unfold writeCell
    split
    · split
      · exact hm
      · intro c hc; rcases List.mem_cons.1 hc with rfl | hc
        · exact hk
        · exact hm c hc
    · split
      · split
        · exact h
        · intro c hc; rcases List.mem_cons.1 hc with rfl | hc
          · exact hk
          · exact h c hc
      · intro c hc; rcases List.mem_cons.1 hc with rfl | hc
        · exact ha
        · exact above_writeCell hm hk c hc

/-- A write keeps the canonical form. -/
theorem writeCell_wf {k : Nat} {v : Byte} : ∀ {m : List Host.Cell}, Memory.wf m = true →
    Memory.wf (writeCell m k v) = true
  | [], _ => by
    unfold writeCell; split
    · rfl
    · rename_i h; exact wf_cons.2 ⟨h, fun c hc => by simp at hc, rfl⟩
  | (a, b) :: m, h => by
    obtain ⟨hb, ha, hm⟩ := wf_cons.1 h
    unfold writeCell
    split
    · rename_i e; subst e
      split
      · exact hm
      · rename_i hv; exact wf_cons.2 ⟨hv, ha, hm⟩
    · split
      · rename_i hk
        split
        · exact h
        · rename_i hv
          refine wf_cons.2 ⟨hv, ?_, h⟩
          intro c hc; rcases List.mem_cons.1 hc with rfl | hc
          · exact hk
          · exact Nat.lt_trans hk (ha c hc)
      · exact wf_cons.2 ⟨hb, above_writeCell ha (by omega), writeCell_wf hm⟩

theorem writeCells_wf {bs : List Byte} : ∀ {m : List Host.Cell} {a : Nat}, Memory.wf m = true →
    Memory.wf (writeCells m a bs) = true := by
  induction bs with
  | nil => intro m a h; exact h
  | cons b bs ih => intro m a h; exact ih (writeCell_wf h)

/-- A sublist keeps the canonical form. -/
theorem filter_wf {p : Host.Cell → Bool} : ∀ {m : List Host.Cell}, Memory.wf m = true →
    Memory.wf (m.filter p) = true
  | [], _ => rfl
  | (a, b) :: m, h => by
    obtain ⟨hb, ha, hm⟩ := wf_cons.1 h
    rw [List.filter_cons]
    split
    · exact wf_cons.2 ⟨hb, fun c hc => ha c (List.mem_filter.1 hc).1, filter_wf hm⟩
    · exact filter_wf hm

theorem readCell_of_above {k : Nat} : ∀ {m : List Host.Cell}, above k m → readCell m k = cellDefault
  | [], _ => rfl
  | (a, b) :: m, h => by
    have ha : k < a := h (a, b) (by simp)
    unfold readCell
    rw [if_neg (by omega), if_pos ha]

/-- A read after a write to the same place gives the byte written. -/
theorem readCell_writeCell_same {k : Nat} {v : Byte} : ∀ {m : List Host.Cell}, Memory.wf m = true →
    readCell (writeCell m k v) k = v
  | [], _ => by
    unfold writeCell; split
    · rename_i h; rw [h]; rfl
    · simp [readCell]
  | (a, b) :: m, h => by
    obtain ⟨hb, ha, hm⟩ := wf_cons.1 h
    unfold writeCell
    split
    · rename_i e; subst e
      split
      · rename_i hv; rw [hv]; exact readCell_of_above ha
      · simp [readCell]
    · rename_i hne
      split
      · rename_i hk
        split
        · rename_i hv; rw [hv]
          refine readCell_of_above ?_
          intro c hc; rcases List.mem_cons.1 hc with rfl | hc
          · exact hk
          · exact Nat.lt_trans hk (ha c hc)
        · simp [readCell]
      · rename_i hk
        rw [show readCell ((a, b) :: writeCell m k v) k = readCell (writeCell m k v) k by
          simp [readCell, hne, hk]]
        exact readCell_writeCell_same hm

/-- A write leaves every other place as it was. -/
theorem readCell_writeCell_other {j k : Nat} {v : Byte} (hjk : j ≠ k) : ∀ {m : List Host.Cell},
    Memory.wf m = true → readCell (writeCell m k v) j = readCell m j
  | [], _ => by
    unfold writeCell; split
    · rfl
    · simp only [readCell]
      rw [if_neg (Ne.symm hjk)]; split <;> rfl
  | (a, b) :: m, h => by
    obtain ⟨hb, ha, hm⟩ := wf_cons.1 h
    have up : ∀ i, i ≤ a → i ≠ a → readCell m i = cellDefault := fun i hi _ =>
      readCell_of_above fun c hc => Nat.lt_of_le_of_lt hi (ha c hc)
    unfold writeCell
    split
    · rename_i e; subst e
      split
      · simp only [readCell]; rw [if_neg (Ne.symm hjk)]
        split
        · rename_i hj; exact up j (Nat.le_of_lt hj) hjk
        · rfl
      · simp [readCell, Ne.symm hjk]
    · split
      · rename_i hk
        split
        · rfl
        · simp only [readCell]; rw [if_neg (Ne.symm hjk)]
          split
          · rename_i hj
            rw [if_neg (by omega), if_pos (by omega)]
          · rfl
      · simp only [readCell]
        rw [readCell_writeCell_other hjk hm]

theorem readCell_writeCells_outside {bs : List Byte} : ∀ {m : List Host.Cell} {a k : Nat}, Memory.wf m = true →
    (k < a ∨ a + bs.length ≤ k) → readCell (writeCells m a bs) k = readCell m k := by
  induction bs with
  | nil => intro m a k _ _; rfl
  | cons b bs ih =>
    intro m a k h hk
    simp only [List.length_cons] at hk
    rw [writeCells, ih (writeCell_wf h) (by omega), readCell_writeCell_other (by omega) h]

theorem readCells_writeCells {bs : List Byte} : ∀ {m : List Host.Cell} {a : Nat}, Memory.wf m = true →
    readCells (writeCells m a bs) a bs.length = bs := by
  induction bs with
  | nil => intro m a _; rfl
  | cons b bs ih =>
    intro m a h
    rw [List.length_cons, readCells, writeCells, ih (writeCell_wf h),
      readCell_writeCells_outside (writeCell_wf h) (by omega), readCell_writeCell_same h]

/-! ### Tables -/

/-- An entry reads as it was written. -/
@[simp] theorem Tbl.find_set_same {α : Type} (t : Tbl α) (k : Nat) (v : α) : Tbl.find (Tbl.set t k v) k = some v := by
  induction t with
  | nil => simp [Tbl.set, Tbl.find]
  | cons e t ih =>
    obtain ⟨j, w⟩ := e
    unfold Tbl.set
    split
    · simp [Tbl.find]
    · split
      · simp [Tbl.find]
      · rename_i h
        simpa [Tbl.find, h] using ih

/-- Other entries read as before. -/
theorem Tbl.find_set_other {α : Type} (t : Tbl α) {j k : Nat} (v : α) (h : j ≠ k) :
    Tbl.find (Tbl.set t k v) j = Tbl.find t j := by
  induction t with
  | nil => simp [Tbl.set, Tbl.find, Ne.symm h]
  | cons e t ih =>
    obtain ⟨i, w⟩ := e
    unfold Tbl.set
    split
    · simp [Tbl.find, Ne.symm h]
    · split
      · rename_i e; subst e; simp [Tbl.find, Ne.symm h]
      · simp only [Tbl.find]
        split
        · rfl
        · exact ih

@[simp] theorem Tbl.get_set_same {α : Type} (t : Tbl α) (k : Nat) (v d : α) : Tbl.get (Tbl.set t k v) k d = v := by
  simp [Tbl.get]

theorem Tbl.get_set_other {α : Type} (t : Tbl α) {j k : Nat} (v d : α) (h : j ≠ k) :
    Tbl.get (Tbl.set t k v) j d = Tbl.get t j d := by
  simp [Tbl.get, Tbl.find_set_other t v h]

/-! ### The fault capsule -/

theorem removeFirst_length {α : Type} {p : α → Bool} : ∀ {l : List α}, l.any p = true →
    (removeFirst p l).length + 1 = l.length
  | [], h => by simp at h
  | x :: l, h => by
    unfold removeFirst
    split
    · simp
    · rename_i hx
      have : l.any p = true := by simpa [hx] using h
      simp [removeFirst_length this]

theorem removeFirst_le {α : Type} {p : α → Bool} : ∀ {l : List α}, (removeFirst p l).length ≤ l.length
  | [] => by simp [removeFirst]
  | x :: l => by
    unfold removeFirst
    split
    · simp
    · simpa using removeFirst_le

theorem filter_removeFirst_le {α : Type} {p q : α → Bool} : ∀ {l : List α},
    ((removeFirst p l).filter q).length ≤ (l.filter q).length
  | [] => by simp [removeFirst]
  | x :: l => by
    unfold removeFirst
    split
    · by_cases h : q x = true <;> simp [h]
    · have := filter_removeFirst_le (p := p) (q := q) (l := l)
      by_cases h : q x = true <;> simp [h, this]

theorem filter_removeFirst_self {α : Type} {p : α → Bool} : ∀ {l : List α}, 0 < (l.filter p).length →
    ((removeFirst p l).filter p).length + 1 = (l.filter p).length
  | [], h => by simp at h
  | x :: l, h => by
    unfold removeFirst
    split
    · rename_i hx; simp [hx]
    · rename_i hx
      have h' : 0 < (l.filter p).length := by simpa [List.filter_cons, hx] using h
      simpa [List.filter_cons, hx] using filter_removeFirst_self h'

/-- The capsule keeps its bounds: 256 entries, 64 pinned (03 R94). -/
theorem capsulePlace_bounds {es : List CapsuleEntry} {e : CapsuleEntry} (h : es.length ≤ 256)
    (hp : (es.filter (·.pinned)).length ≤ 64) :
    (capsulePlace es e).length ≤ 256 ∧ ((capsulePlace es e).filter (·.pinned)).length ≤ 64 := by
  unfold capsulePlace
  split
  · rename_i hc
    simp only [Bool.and_eq_true, decide_eq_true_eq] at hc
    have e1 := filter_removeFirst_self (p := fun x : CapsuleEntry => x.pinned) (l := es) (by omega)
    have any : es.any (fun x => x.pinned) = true := by
      rw [List.any_eq_true]
      have : 0 < (es.filter (fun x => x.pinned)).length := by omega
      obtain ⟨x, hx⟩ := List.exists_mem_of_length_pos this
      exact ⟨x, (List.mem_filter.1 hx).1, (List.mem_filter.1 hx).2⟩
    have e2 := removeFirst_length any
    refine ⟨by simp; omega, ?_⟩
    simp [List.filter_append, hc.1]
    omega
  · rename_i hc
    have hpin : e.pinned = true → (es.filter (·.pinned)).length < 64 := by
      intro he
      simp only [he, Bool.true_and, decide_eq_true_eq] at hc
      omega
    split
    · rename_i hl
      refine ⟨by simp; omega, ?_⟩
      by_cases he : e.pinned = true
      · have := hpin he; simp [List.filter_append, he]; omega
      · simp [List.filter_append, he, hp]
    · rename_i hl
      have any : es.any (fun x => !x.pinned) = true := by
        cases hn : es.any (fun x => !x.pinned) with
        | true => rfl
        | false =>
          have all : es.filter (·.pinned) = es := by
            rw [List.filter_eq_self]
            intro x hx
            have := List.any_eq_false.1 hn x hx
            simpa using this
          rw [all] at hp; omega
      have e2 := removeFirst_length any
      have e3 := filter_removeFirst_le (p := fun x : CapsuleEntry => !x.pinned) (q := fun x => x.pinned) (l := es)
      refine ⟨by simp; omega, ?_⟩
      by_cases he : e.pinned = true
      · have := hpin he; simp [List.filter_append, he]; omega
      · simp [List.filter_append, he]; omega

end Sys2Proof.Machine
end

