-- ==== Sys2Proof/Laws/Touch.lean ====
section
/-! SUPPORT. Which parts of the state an operation changes: how such facts compose. -/

namespace Sys2Proof

open Machine

/-- If there is a next state, it keeps every part but those named. -/
def OptTouches (l : List Part) (s : State) (r : Option State) : Prop := ∀ t, r = some t → OnlyTouches l s t

end Sys2Proof

namespace Sys2Proof.OnlyTouches

open Machine

theorem same_refl (p : Part) (s : State) : p.same s s := by cases p <;> rfl

theorem same_trans {p : Part} {s t u : State} (h : p.same s t) (k : p.same t u) : p.same s u := by
  cases p <;> exact Eq.trans k h

theorem refl (m : List Part) (s : State) : OnlyTouches m s s := fun p _ => same_refl p s

/-- An operation that changes fewer parts may follow. -/
theorem next {m l : List Part} {s t u : State} (h : OnlyTouches m s t) (k : OnlyTouches l t u)
    (hl : l ⊆ m) : OnlyTouches m s u := fun p hp => same_trans (h p hp) (k p fun q => hp (hl q))

theorem mono {m l : List Part} {s t : State} (h : OnlyTouches l s t) (hl : l ⊆ m) : OnlyTouches m s t :=
  fun p hp => h p fun q => hp (hl q)

theorem foldl {α : Type} {m : List Part} {f : State → α → State} (hf : ∀ s a, OnlyTouches m s (f s a)) :
    ∀ (l : List α) {s t : State}, OnlyTouches m s t → OnlyTouches m s (l.foldl f t)
  | [], _, _, h => h
  | a :: l, _, _, h => foldl hf l (next h (hf _ a) fun _ q => q)

theorem each {m : List Part} {f : State → Nat → State} (l : List Nat) {s t : State}
    (h : OnlyTouches m s t) (hf : ∀ s a, OnlyTouches m s (f s a)) : OnlyTouches m s (t.each l f) :=
  foldl hf l h

theorem fold {α : Type} {m : List Part} {f : State → α → State} (l : List α) {s t : State}
    (h : OnlyTouches m s t) (hf : ∀ s a, OnlyTouches m s (f s a)) : OnlyTouches m s (l.foldl f t) :=
  foldl hf l h

theorem foldPair {α β : Type} {m : List Part} {f : State × β → α → State × β} {s : State} :
    ∀ (l : List α) {x : State × β}, OnlyTouches m s x.1 → (∀ y a, OnlyTouches m y.1 (f y a).1) →
      OnlyTouches m s (l.foldl f x).1
  | [], _, h, _ => h
  | a :: l, _, h, hf => foldPair l (next h (hf _ a) fun _ q => q) hf

theorem when {m : List Part} {f : State → State} (c : Bool) {s t : State}
    (h : OnlyTouches m s t) (hf : ∀ s, OnlyTouches m s (f s)) : OnlyTouches m s (t.when c f) := by
  unfold State.when; split
  · exact next h (hf t) fun _ q => q
  · exact h

theorem ite {m : List Part} {c : Prop} [Decidable c] {s t u : State} (h : OnlyTouches m s t)
    (k : OnlyTouches m s u) : OnlyTouches m s (if c then t else u) := by split <;> assumption

theorem after {m l : List Part} {s t u : State} (k : OnlyTouches l t u) (hl : l ⊆ m)
    (h : OnlyTouches m s t) : OnlyTouches m s u := next h k hl

/-- The state beside a result. -/
theorem pair {α : Type} {m : List Part} {x : State × α} {s t : State} {a : α} (h : x = (t, a))
    (k : OnlyTouches m s x.1) : OnlyTouches m s t := by cases h; exact k

theorem afterPair {α : Type} {m l : List Part} {x : State × α} {s t u : State} {a : α}
    (k : OnlyTouches l t x.1) (e : x = (u, a)) (hl : l ⊆ m) (h : OnlyTouches m s t) : OnlyTouches m s u :=
  next h (pair e k) hl

theorem ofNext {m : List Part} {s t : State} (h : OnlyTouches m s t) :
    StepTouches m s (.next t) := by
  intro s1 e; cases e; exact h

theorem ofSome {m : List Part} {s t : State} (h : OnlyTouches m s t) : OptTouches m s (some t) := by
  intro s1 e; cases e; exact h

theorem ofNone {m : List Part} {s : State} : OptTouches m s none := by
  intro s1 e; cases e

theorem iteOpt {m : List Part} {c : Prop} [Decidable c] {s : State} {t u : Option State}
    (h : OptTouches m s t) (k : OptTouches m s u) : OptTouches m s (if c then t else u) := by
  split <;> assumption

theorem option {m l : List Part} {s t : State} {r : Option State} (k : OptTouches l t r) (hl : l ⊆ m)
    (h : OnlyTouches m s t) : OptTouches m s r := fun s1 e => next h (k s1 e) hl

theorem getD {m : List Part} {s t d : State} {o : Option State} (k : OptTouches m t o)
    (hd : OnlyTouches m s d) (h : OnlyTouches m s t) : OnlyTouches m s (o.getD d) := by
  cases o with
  | none => exact hd
  | some u => exact next h (k u rfl) fun _ q => q

theorem fstMk {α : Type} {m : List Part} {s t : State} {a : α} (h : OnlyTouches m s t) :
    OnlyTouches m s (Prod.mk t a).1 := h

theorem ofFault {m : List Part} {s : State} (f : Fault) : StepTouches m s (.fault f) := by
  intro s1 e; cases e

theorem iteStep {m : List Part} {c : Prop} [Decidable c] {s : State} {t u : Result} (h : StepTouches m s t)
    (k : StepTouches m s u) : StepTouches m s (if c then t else u) := by split <;> assumption

theorem result {m l : List Part} {s : State} {r : Result} (k : StepTouches l s r) (hl : l ⊆ m) :
    StepTouches m s r := fun s1 e => (k s1 e).mono hl

/-- The state of a result that may be none. -/
theorem afterOpt {m l : List Part} {x : Option State} {s t u : State}
    (k : OptTouches l t x) (e : x = some u) (hl : l ⊆ m) (h : OnlyTouches m s t) :
    OnlyTouches m s u := next h (k u e) hl

theorem put_objs {m : List Part} {s t : State} {v} (hm : .objs ∈ m) (h : OnlyTouches m s t) :
    OnlyTouches m s { t with objs := v } := fun p hp => by
  have := h p hp
  cases p <;> first | exact this | exact absurd hm hp

theorem put_power {m : List Part} {s t : State} {v} (hm : .power ∈ m) (h : OnlyTouches m s t) :
    OnlyTouches m s { t with power := v } := fun p hp => by
  have := h p hp
  cases p <;> first | exact this | exact absurd hm hp

theorem put_time {m : List Part} {s t : State} {v} (hm : .time ∈ m) (h : OnlyTouches m s t) :
    OnlyTouches m s { t with time := v } := fun p hp => by
  have := h p hp
  cases p <;> first | exact this | exact absurd hm hp

theorem put_optics {m : List Part} {s t : State} {v} (hm : .optics ∈ m) (h : OnlyTouches m s t) :
    OnlyTouches m s { t with optics := v } := fun p hp => by
  have := h p hp
  cases p <;> first | exact this | exact absurd hm hp

theorem put_lanes {m : List Part} {s t : State} {v} (hm : .lanes ∈ m) (h : OnlyTouches m s t) :
    OnlyTouches m s { t with lanes := v } := fun p hp => by
  have := h p hp
  cases p <;> first | exact this | exact absurd hm hp

theorem put_remaps {m : List Part} {s t : State} {v} (hm : .remaps ∈ m) (h : OnlyTouches m s t) :
    OnlyTouches m s { t with remaps := v } := fun p hp => by
  have := h p hp
  cases p <;> first | exact this | exact absurd hm hp

theorem put_ports {m : List Part} {s t : State} {v} (hm : .ports ∈ m) (h : OnlyTouches m s t) :
    OnlyTouches m s { t with ports := v } := fun p hp => by
  have := h p hp
  cases p <;> first | exact this | exact absurd hm hp

theorem put_switch {m : List Part} {s t : State} {v} (hm : .switch ∈ m) (h : OnlyTouches m s t) :
    OnlyTouches m s { t with switch := v } := fun p hp => by
  have := h p hp
  cases p <;> first | exact this | exact absurd hm hp

theorem put_pitches {m : List Part} {s t : State} {v} (hm : .pitches ∈ m) (h : OnlyTouches m s t) :
    OnlyTouches m s { t with pitches := v } := fun p hp => by
  have := h p hp
  cases p <;> first | exact this | exact absurd hm hp

theorem put_service {m : List Part} {s t : State} {v} (hm : .service ∈ m) (h : OnlyTouches m s t) :
    OnlyTouches m s { t with service := v } := fun p hp => by
  have := h p hp
  cases p <;> first | exact this | exact absurd hm hp

theorem put_coll {m : List Part} {s t : State} {v} (hm : .coll ∈ m) (h : OnlyTouches m s t) :
    OnlyTouches m s { t with coll := v } := fun p hp => by
  have := h p hp
  cases p <;> first | exact this | exact absurd hm hp

theorem put_update {m : List Part} {s t : State} {v} (hm : .update ∈ m) (h : OnlyTouches m s t) :
    OnlyTouches m s { t with update := v } := fun p hp => by
  have := h p hp
  cases p <;> first | exact this | exact absurd hm hp

theorem put_arrays {m : List Part} {s t : State} {v} (hm : .arrays ∈ m) (h : OnlyTouches m s t) :
    OnlyTouches m s { t with arrays := v } := fun p hp => by
  have := h p hp
  cases p <;> first | exact this | exact absurd hm hp

theorem put_mem {m : List Part} {s t : State} {v} (hm : .mem ∈ m) (h : OnlyTouches m s t) :
    OnlyTouches m s { t with mem := v } := fun p hp => by
  have := h p hp
  cases p <;> first | exact this | exact absurd hm hp

theorem put_custody {m : List Part} {s t : State} {v} (hm : .custody ∈ m) (h : OnlyTouches m s t) :
    OnlyTouches m s { t with custody := v } := fun p hp => by
  have := h p hp
  cases p <;> first | exact this | exact absurd hm hp

theorem put_warden {m : List Part} {s t : State} {v} (hm : .warden ∈ m) (h : OnlyTouches m s t) :
    OnlyTouches m s { t with warden := v } := fun p hp => by
  have := h p hp
  cases p <;> first | exact this | exact absurd hm hp

theorem put_ledger {m : List Part} {s t : State} {v} (hm : .ledger ∈ m) (h : OnlyTouches m s t) :
    OnlyTouches m s { t with ledger := v } := fun p hp => by
  have := h p hp
  cases p <;> first | exact this | exact absurd hm hp

theorem put_dict {m : List Part} {s t : State} {v} (hm : .dict ∈ m) (h : OnlyTouches m s t) :
    OnlyTouches m s { t with dict := v } := fun p hp => by
  have := h p hp
  cases p <;> first | exact this | exact absurd hm hp

theorem put_host {m : List Part} {s t : State} {v} (hm : .host ∈ m) (h : OnlyTouches m s t) :
    OnlyTouches m s { t with host := v } := fun p hp => by
  have := h p hp
  cases p <;> first | exact this | exact absurd hm hp

theorem put_free {m : List Part} {s t : State} {v} (hm : .free ∈ m) (h : OnlyTouches m s t) :
    OnlyTouches m s { t with free := v } := fun p hp => by
  have := h p hp
  cases p <;> first | exact this | exact absurd hm hp

theorem put_out {m : List Part} {s t : State} {v} (hm : .out ∈ m) (h : OnlyTouches m s t) :
    OnlyTouches m s { t with out := v } := fun p hp => by
  have := h p hp
  cases p <;> first | exact this | exact absurd hm hp

theorem put_pending {m : List Part} {s t : State} {v} (hm : .pending ∈ m) (h : OnlyTouches m s t) :
    OnlyTouches m s { t with pending := v } := fun p hp => by
  have := h p hp
  cases p <;> first | exact this | exact absurd hm hp

theorem put_coll_update {m : List Part} {s t : State} {v0 v1} 
    (h0 : .coll ∈ m) (h1 : .update ∈ m) (h : OnlyTouches m s t) :
    OnlyTouches m s { t with coll := v0, update := v1 } := fun p hp => by
  have := h p hp
  cases p <;> first | exact this | exact absurd h0 hp | exact absurd h1 hp

theorem put_dict_out {m : List Part} {s t : State} {v0 v1} 
    (h0 : .dict ∈ m) (h1 : .out ∈ m) (h : OnlyTouches m s t) :
    OnlyTouches m s { t with dict := v0, out := v1 } := fun p hp => by
  have := h p hp
  cases p <;> first | exact this | exact absurd h0 hp | exact absurd h1 hp

theorem put_objs_power_time_optics_lanes_remaps_ports_switch_pitches_service_coll_update_arrays_mem_custody_warden_ledger_dict_host {m : List Part} {s t : State} {v0 v1 v2 v3 v4 v5 v6 v7 v8 v9 v10 v11 v12 v13 v14 v15 v16 v17 v18} 
    (h0 : .objs ∈ m) (h1 : .power ∈ m) (h2 : .time ∈ m) (h3 : .optics ∈ m) (h4 : .lanes ∈ m) (h5 : .remaps ∈ m) (h6 : .ports ∈ m) (h7 : .switch ∈ m) (h8 : .pitches ∈ m) (h9 : .service ∈ m) (h10 : .coll ∈ m) (h11 : .update ∈ m) (h12 : .arrays ∈ m) (h13 : .mem ∈ m) (h14 : .custody ∈ m) (h15 : .warden ∈ m) (h16 : .ledger ∈ m) (h17 : .dict ∈ m) (h18 : .host ∈ m) (h : OnlyTouches m s t) :
    OnlyTouches m s { t with objs := v0, power := v1, time := v2, optics := v3, lanes := v4, remaps := v5, ports := v6, switch := v7, pitches := v8, service := v9, coll := v10, update := v11, arrays := v12, mem := v13, custody := v14, warden := v15, ledger := v16, dict := v17, host := v18 } := fun p hp => by
  have := h p hp
  cases p <;> first | exact this | exact absurd h0 hp | exact absurd h1 hp | exact absurd h2 hp | exact absurd h3 hp | exact absurd h4 hp | exact absurd h5 hp | exact absurd h6 hp | exact absurd h7 hp | exact absurd h8 hp | exact absurd h9 hp | exact absurd h10 hp | exact absurd h11 hp | exact absurd h12 hp | exact absurd h13 hp | exact absurd h14 hp | exact absurd h15 hp | exact absurd h16 hp | exact absurd h17 hp | exact absurd h18 hp

theorem put_ports_switch {m : List Part} {s t : State} {v0 v1} 
    (h0 : .ports ∈ m) (h1 : .switch ∈ m) (h : OnlyTouches m s t) :
    OnlyTouches m s { t with ports := v0, switch := v1 } := fun p hp => by
  have := h p hp
  cases p <;> first | exact this | exact absurd h0 hp | exact absurd h1 hp

theorem put_power_dict {m : List Part} {s t : State} {v0 v1} 
    (h0 : .power ∈ m) (h1 : .dict ∈ m) (h : OnlyTouches m s t) :
    OnlyTouches m s { t with power := v0, dict := v1 } := fun p hp => by
  have := h p hp
  cases p <;> first | exact this | exact absurd h0 hp | exact absurd h1 hp

theorem put_switch_coll_host {m : List Part} {s t : State} {v0 v1 v2} 
    (h0 : .switch ∈ m) (h1 : .coll ∈ m) (h2 : .host ∈ m) (h : OnlyTouches m s t) :
    OnlyTouches m s { t with switch := v0, coll := v1, host := v2 } := fun p hp => by
  have := h p hp
  cases p <;> first | exact this | exact absurd h0 hp | exact absurd h1 hp | exact absurd h2 hp

theorem put_time_out {m : List Part} {s t : State} {v0 v1} 
    (h0 : .time ∈ m) (h1 : .out ∈ m) (h : OnlyTouches m s t) :
    OnlyTouches m s { t with time := v0, out := v1 } := fun p hp => by
  have := h p hp
  cases p <;> first | exact this | exact absurd h0 hp | exact absurd h1 hp

end Sys2Proof.OnlyTouches
end

