-- ==== Sys2Proof/Laws/Keep.lean ====
section
/-! SUPPORT. The invariant of Safety.lean: operations that keep it, and how such facts compose. -/

namespace Sys2Proof

open Machine

/-- The invariant's parts hold after if they held before. -/
structure Keeps (s t : State) : Prop where
  mem : MemOk s.mem → MemOk t.mem
  dict : DictOk s.dict → DictOk t.dict
  power : PowerOk s.power → PowerOk t.power

/-- A next state keeps the invariant. -/
def StepKeeps (s : State) (r : Result) : Prop := ∀ t, r = .next t → Keeps s t

/-- A next state, if there is one, keeps the invariant. -/
def OptKeeps (s : State) (r : Option State) : Prop := ∀ t, r = some t → Keeps s t

/-- The list of parts holds none that the invariant speaks of. -/
def sparesInv (l : List Part) : Bool := !(l.contains .mem || l.contains .dict || l.contains .power)

theorem Keeps.inv {s t : State} (h : Keeps s t) (i : Inv s) : Inv t := ⟨h.mem i.mem, h.dict i.dict, h.power i.power⟩

end Sys2Proof

namespace Sys2Proof.Keeps

open Machine

theorem refl (s : State) : Keeps s s := ⟨id, id, id⟩

theorem after {s t u : State} (k : Keeps t u) (h : Keeps s t) : Keeps s u :=
  ⟨fun i => k.mem (h.mem i), fun i => k.dict (h.dict i), fun i => k.power (h.power i)⟩

theorem ofTouches {l : List Part} {s t : State} (h : OnlyTouches l s t) (hl : sparesInv l = true) : Keeps s t := by
  have e1 : t.mem = s.mem := h .mem (by intro q; simp [sparesInv, q] at hl)
  have e2 : t.dict = s.dict := h .dict (by intro q; simp [sparesInv, q] at hl)
  have e3 : t.power = s.power := h .power (by intro q; simp [sparesInv, q] at hl)
  exact ⟨fun i => e1 ▸ i, fun i => e2 ▸ i, fun i => e3 ▸ i⟩

/-- An operation that changes no part of the invariant may follow. -/
theorem afterT {l : List Part} {s t u : State} (k : OnlyTouches l t u) (hl : sparesInv l = true)
    (h : Keeps s t) : Keeps s u := after (ofTouches k hl) h

theorem afterPair {α : Type} {x : State × α} {s t u : State} {a : α} (k : Keeps t x.1) (e : x = (u, a))
    (h : Keeps s t) : Keeps s u := by cases e; exact after k h

theorem afterPairT {α : Type} {l : List Part} {x : State × α} {s t u : State} {a : α}
    (k : OnlyTouches l t x.1) (e : x = (u, a)) (hl : sparesInv l = true) (h : Keeps s t) : Keeps s u :=
  afterPair (ofTouches k hl) e h

theorem afterOpt {x : Option State} {s t u : State} (k : OptKeeps t x) (e : x = some u) (h : Keeps s t) :
    Keeps s u := after (k u e) h

theorem afterOptT {l : List Part} {x : Option State} {s t u : State} (k : OptTouches l t x) (e : x = some u)
    (hl : sparesInv l = true) (h : Keeps s t) : Keeps s u := after (ofTouches (k u e) hl) h

theorem fold {α : Type} {f : State → α → State} (l : List α) {s t : State} (h : Keeps s t)
    (hf : ∀ u a, Keeps u (f u a)) : Keeps s (l.foldl f t) := by
  induction l generalizing t with
  | nil => exact h
  | cons a l ih => exact ih (after (hf _ a) h)

theorem foldPair {α β : Type} {f : State × β → α → State × β} (l : List α) {s : State} {x : State × β}
    (h : Keeps s x.1) (hf : ∀ y a, Keeps y.1 (f y a).1) : Keeps s (l.foldl f x).1 := by
  induction l generalizing x with
  | nil => exact h
  | cons a l ih => exact ih (after (hf _ a) h)

theorem each {f : State → Nat → State} (l : List Nat) {s t : State} (h : Keeps s t)
    (hf : ∀ u a, Keeps u (f u a)) : Keeps s (t.each l f) := fold l h hf

theorem when {f : State → State} (c : Bool) {s t : State} (h : Keeps s t) (hf : ∀ u, Keeps u (f u)) :
    Keeps s (t.when c f) := by
  unfold State.when; split
  · exact after (hf t) h
  · exact h

theorem ite {c : Prop} [Decidable c] {s t u : State} (h : Keeps s t) (k : Keeps s u) :
    Keeps s (if c then t else u) := by split <;> assumption

theorem iteStep {c : Prop} [Decidable c] {s : State} {t u : Result} (h : StepKeeps s t) (k : StepKeeps s u) :
    StepKeeps s (if c then t else u) := by split <;> assumption

theorem iteOpt {c : Prop} [Decidable c] {s : State} {t u : Option State} (h : OptKeeps s t) (k : OptKeeps s u) :
    OptKeeps s (if c then t else u) := by split <;> assumption

theorem pair {α : Type} {x : State × α} {s t : State} {a : α} (h : x = (t, a)) (k : Keeps s x.1) : Keeps s t := by
  cases h; exact k

theorem ofNext {s t : State} (h : Keeps s t) : StepKeeps s (.next t) := by intro s1 e; cases e; exact h

theorem ofFault {s : State} (f : Fault) : StepKeeps s (.fault f) := by intro s1 e; cases e

theorem ofSome {s t : State} (h : Keeps s t) : OptKeeps s (some t) := by intro s1 e; cases e; exact h

theorem ofNone {s : State} : OptKeeps s none := by intro s1 e; cases e

theorem option {s t : State} {r : Option State} (k : OptKeeps t r) (h : Keeps s t) : OptKeeps s r :=
  fun s1 e => after (k s1 e) h

theorem optionT {l : List Part} {s t : State} {r : Option State} (k : OptTouches l t r) (hl : sparesInv l = true)
    (h : Keeps s t) : OptKeeps s r := fun s1 e => after (ofTouches (k s1 e) hl) h

theorem resultT {l : List Part} {s : State} {r : Result} (k : StepTouches l s r) (hl : sparesInv l = true) :
    StepKeeps s r := fun s1 e => ofTouches (k s1 e) hl

theorem getD {s t d : State} {o : Option State} (k : OptKeeps t o) (hd : Keeps s d) (h : Keeps s t) :
    Keeps s (o.getD d) := by
  cases o with
  | none => exact hd
  | some u => exact after (k u rfl) h

theorem fstMk {α : Type} {s t : State} {a : α} (h : Keeps s t) : Keeps s (Prod.mk t a).1 := h

theorem put_objs {s t : State} {v} (h : Keeps s t) : Keeps s { t with objs := v } := ⟨h.mem, h.dict, h.power⟩

theorem put_power {s t : State} {v} (hv : PowerOk t.power → PowerOk v) (h : Keeps s t) :
    Keeps s { t with power := v } := ⟨h.mem, h.dict, fun i => hv (h.power i)⟩

theorem put_time {s t : State} {v} (h : Keeps s t) : Keeps s { t with time := v } := ⟨h.mem, h.dict, h.power⟩

theorem put_optics {s t : State} {v} (h : Keeps s t) : Keeps s { t with optics := v } := ⟨h.mem, h.dict, h.power⟩

theorem put_lanes {s t : State} {v} (h : Keeps s t) : Keeps s { t with lanes := v } := ⟨h.mem, h.dict, h.power⟩

theorem put_remaps {s t : State} {v} (h : Keeps s t) : Keeps s { t with remaps := v } := ⟨h.mem, h.dict, h.power⟩

theorem put_ports {s t : State} {v} (h : Keeps s t) : Keeps s { t with ports := v } := ⟨h.mem, h.dict, h.power⟩

theorem put_switch {s t : State} {v} (h : Keeps s t) : Keeps s { t with switch := v } := ⟨h.mem, h.dict, h.power⟩

theorem put_pitches {s t : State} {v} (h : Keeps s t) : Keeps s { t with pitches := v } := ⟨h.mem, h.dict, h.power⟩

theorem put_service {s t : State} {v} (h : Keeps s t) : Keeps s { t with service := v } := ⟨h.mem, h.dict, h.power⟩

theorem put_coll {s t : State} {v} (h : Keeps s t) : Keeps s { t with coll := v } := ⟨h.mem, h.dict, h.power⟩

theorem put_update {s t : State} {v} (h : Keeps s t) : Keeps s { t with update := v } := ⟨h.mem, h.dict, h.power⟩

theorem put_arrays {s t : State} {v} (h : Keeps s t) : Keeps s { t with arrays := v } := ⟨h.mem, h.dict, h.power⟩

theorem put_mem {s t : State} {v} (hv : MemOk t.mem → MemOk v) (h : Keeps s t) :
    Keeps s { t with mem := v } := ⟨fun i => hv (h.mem i), h.dict, h.power⟩

theorem put_custody {s t : State} {v} (h : Keeps s t) : Keeps s { t with custody := v } := ⟨h.mem, h.dict, h.power⟩

theorem put_warden {s t : State} {v} (h : Keeps s t) : Keeps s { t with warden := v } := ⟨h.mem, h.dict, h.power⟩

theorem put_ledger {s t : State} {v} (h : Keeps s t) : Keeps s { t with ledger := v } := ⟨h.mem, h.dict, h.power⟩

theorem put_dict {s t : State} {v} (hv : DictOk t.dict → DictOk v) (h : Keeps s t) :
    Keeps s { t with dict := v } := ⟨h.mem, fun i => hv (h.dict i), h.power⟩

theorem put_host {s t : State} {v} (h : Keeps s t) : Keeps s { t with host := v } := ⟨h.mem, h.dict, h.power⟩

theorem put_free {s t : State} {v} (h : Keeps s t) : Keeps s { t with free := v } := ⟨h.mem, h.dict, h.power⟩

theorem put_out {s t : State} {v} (h : Keeps s t) : Keeps s { t with out := v } := ⟨h.mem, h.dict, h.power⟩

theorem put_pending {s t : State} {v} (h : Keeps s t) : Keeps s { t with pending := v } := ⟨h.mem, h.dict, h.power⟩

theorem put_dict_power {s t : State} {v w} (hv : DictOk t.dict → DictOk v) (hw : PowerOk t.power → PowerOk w)
    (h : Keeps s t) : Keeps s { t with dict := v, power := w } :=
  ⟨h.mem, fun i => hv (h.dict i), fun i => hw (h.power i)⟩

end Sys2Proof.Keeps
end

