-- ==== Sys2Proof/Laws/TouchOps.lean ====
section
/-! SUPPORT. Which parts of the state each operation of Machine/Ops.lean changes. -/

namespace Sys2Proof.Machine

theorem State.putObj_touches (s : State) (o : Obj) (v : Nat) : OnlyTouches [.objs] s (State.putObj s o v)
    := by
  unfold State.putObj
  try dsimp only
  repeat' first
    | with_reducible exact .refl _ _
    | with_reducible assumption
    | with_reducible intro _
    | (with_reducible apply OnlyTouches.put_objs; · decide)

theorem State.putInt_touches (s : State) (o : Obj) (v : Int) : OnlyTouches [.objs] s (State.putInt s o v)
    := by
  unfold State.putInt
  try dsimp only
  repeat' first
    | with_reducible exact .refl _ _
    | with_reducible assumption
    | (with_reducible apply OnlyTouches.after (State.putObj_touches _ _ _); · decide)
    | with_reducible intro _

theorem State.bump_touches (s : State) (o : Obj) (n : Nat) : OnlyTouches [.objs] s (State.bump s o n) := by
  unfold State.bump
  try dsimp only
  repeat' first
    | with_reducible exact .refl _ _
    | with_reducible assumption
    | (with_reducible apply OnlyTouches.after (State.putObj_touches _ _ _); · decide)
    | with_reducible intro _
    | with_reducible refine OnlyTouches.pair (by assumption) ?_
    | dsimp only

theorem State.drop_touches (s : State) (o : Obj) (n : Nat) : OnlyTouches [.objs] s (State.drop s o n) := by
  unfold State.drop
  try dsimp only
  repeat' first
    | with_reducible exact .refl _ _
    | with_reducible assumption
    | (with_reducible apply OnlyTouches.after (State.putObj_touches _ _ _); · decide)
    | with_reducible intro _
    | with_reducible refine OnlyTouches.pair (by assumption) ?_
    | dsimp only

theorem State.draw_touches (s : State) : OnlyTouches [.free] s (State.draw s) := by
  unfold State.draw
  try dsimp only
  repeat' first
    | with_reducible exact .refl _ _
    | with_reducible assumption
    | with_reducible intro _
    | (with_reducible apply OnlyTouches.put_free; · decide)

theorem State.write_touches (s : State) (a : Nat) (bs : List Byte) : OnlyTouches [.mem] s (State.write s a
    bs) := by
  unfold State.write
  try dsimp only
  repeat' first
    | with_reducible exact .refl _ _
    | with_reducible assumption
    | with_reducible intro _
    | (with_reducible apply OnlyTouches.put_mem; · decide)

theorem State.writeNat_touches (s : State) (a n v : Nat) : OnlyTouches [.mem] s (State.writeNat s a n v) :=
    by
  unfold State.writeNat
  try dsimp only
  repeat' first
    | with_reducible exact .refl _ _
    | with_reducible assumption
    | (with_reducible apply OnlyTouches.after (State.write_touches _ _ _); · decide)
    | with_reducible intro _

theorem State.writeTable_touches (s : State) (key off : Nat) (bs : List Byte) : OnlyTouches [.mem] s
    (State.writeTable s key off bs) := by
  unfold State.writeTable
  try dsimp only
  repeat' first
    | with_reducible exact .refl _ _
    | with_reducible assumption
    | with_reducible intro _
    | (with_reducible apply OnlyTouches.put_mem; · decide)

theorem State.setPort_touches (s : State) (p : Nat) (x : PortSt) : OnlyTouches [.ports] s (State.setPort s
    p x) := by
  unfold State.setPort
  try dsimp only
  repeat' first
    | with_reducible exact .refl _ _
    | with_reducible assumption
    | with_reducible intro _
    | (with_reducible apply OnlyTouches.put_ports; · decide)

theorem State.modPort_touches (s : State) (p : Nat) (f : PortSt → PortSt) : OnlyTouches [.ports] s
    (State.modPort s p f) := by
  unfold State.modPort
  try dsimp only
  repeat' first
    | with_reducible exact .refl _ _
    | with_reducible assumption
    | (with_reducible apply OnlyTouches.after (State.setPort_touches _ _ _); · decide)
    | with_reducible intro _
    | with_reducible refine OnlyTouches.pair (by assumption) ?_
    | dsimp only

theorem State.setEngine_touches (s : State) (e : Nat) (x : EngineSt) : OnlyTouches [.optics] s
    (State.setEngine s e x) := by
  unfold State.setEngine
  try dsimp only
  repeat' first
    | with_reducible exact .refl _ _
    | with_reducible assumption
    | with_reducible intro _
    | (with_reducible apply OnlyTouches.put_optics; · decide)

theorem State.modEngine_touches (s : State) (e : Nat) (f : EngineSt → EngineSt) : OnlyTouches [.optics] s
    (State.modEngine s e f) := by
  unfold State.modEngine
  try dsimp only
  repeat' first
    | with_reducible exact .refl _ _
    | with_reducible assumption
    | (with_reducible apply OnlyTouches.after (State.setEngine_touches _ _ _); · decide)
    | with_reducible intro _
    | with_reducible refine OnlyTouches.pair (by assumption) ?_
    | dsimp only

theorem State.setPack_touches (s : State) (e : Nat) (x : Pack) : OnlyTouches [.optics] s (State.setPack s e
    x) := by
  unfold State.setPack
  try dsimp only
  repeat' first
    | with_reducible exact .refl _ _
    | with_reducible assumption
    | with_reducible intro _
    | (with_reducible apply OnlyTouches.put_optics; · decide)

theorem State.modPack_touches (s : State) (e : Nat) (f : Pack → Pack) : OnlyTouches [.optics] s
    (State.modPack s e f) := by
  unfold State.modPack
  try dsimp only
  repeat' first
    | with_reducible exact .refl _ _
    | with_reducible assumption
    | (with_reducible apply OnlyTouches.after (State.setPack_touches _ _ _); · decide)
    | with_reducible intro _
    | with_reducible refine OnlyTouches.pair (by assumption) ?_
    | dsimp only

theorem State.setFiber_touches (s : State) (k : Nat) (x : FiberSt) : OnlyTouches [.optics] s
    (State.setFiber s k x) := by
  unfold State.setFiber
  try dsimp only
  repeat' first
    | with_reducible exact .refl _ _
    | with_reducible assumption
    | with_reducible intro _
    | (with_reducible apply OnlyTouches.put_optics; · decide)

theorem State.modFiber_touches (s : State) (k : Nat) (f : FiberSt → FiberSt) : OnlyTouches [.optics] s
    (State.modFiber s k f) := by
  unfold State.modFiber
  try dsimp only
  repeat' first
    | with_reducible exact .refl _ _
    | with_reducible assumption
    | (with_reducible apply OnlyTouches.after (State.setFiber_touches _ _ _); · decide)
    | with_reducible intro _
    | with_reducible refine OnlyTouches.pair (by assumption) ?_
    | dsimp only

theorem State.setPitch_touches (s : State) (p : Nat) (x : PitchSt) : OnlyTouches [.pitches] s
    (State.setPitch s p x) := by
  unfold State.setPitch
  try dsimp only
  repeat' first
    | with_reducible exact .refl _ _
    | with_reducible assumption
    | with_reducible intro _
    | (with_reducible apply OnlyTouches.put_pitches; · decide)

theorem State.setGroup_touches (s : State) (g : Nat) (x : GroupSt) : OnlyTouches [.coll] s (State.setGroup
    s g x) := by
  unfold State.setGroup
  try dsimp only
  repeat' first
    | with_reducible exact .refl _ _
    | with_reducible assumption
    | with_reducible intro _
    | (with_reducible apply OnlyTouches.put_coll; · decide)

theorem State.modGroup_touches (s : State) (g : Nat) (f : GroupSt → GroupSt) : OnlyTouches [.coll] s
    (State.modGroup s g f) := by
  unfold State.modGroup
  try dsimp only
  repeat' first
    | with_reducible exact .refl _ _
    | with_reducible assumption
    | (with_reducible apply OnlyTouches.after (State.setGroup_touches _ _ _); · decide)
    | with_reducible intro _
    | with_reducible refine OnlyTouches.pair (by assumption) ?_
    | dsimp only

theorem State.setThread_touches (s : State) (t n : Nat) (x : Thread) : OnlyTouches [.update] s
    (State.setThread s t n x) := by
  unfold State.setThread
  try dsimp only
  repeat' first
    | with_reducible exact .refl _ _
    | with_reducible assumption
    | with_reducible intro _
    | (with_reducible apply OnlyTouches.put_update; · decide)

theorem State.modThread_touches (s : State) (t n : Nat) (f : Thread → Thread) : OnlyTouches [.update] s
    (State.modThread s t n f) := by
  unfold State.modThread
  try dsimp only
  repeat' first
    | with_reducible exact .refl _ _
    | with_reducible assumption
    | (with_reducible apply OnlyTouches.after (State.setThread_touches _ _ _ _); · decide)
    | with_reducible intro _
    | with_reducible refine OnlyTouches.pair (by assumption) ?_
    | dsimp only

theorem State.setTeam_touches (s : State) (t n : Nat) (x : Team) : OnlyTouches [.update] s (State.setTeam s
    t n x) := by
  unfold State.setTeam
  try dsimp only
  repeat' first
    | with_reducible exact .refl _ _
    | with_reducible assumption
    | with_reducible intro _
    | (with_reducible apply OnlyTouches.put_update; · decide)

theorem State.setRun_touches (s : State) (r : Nat) (x : Run) : OnlyTouches [.update] s (State.setRun s r x)
    := by
  unfold State.setRun
  try dsimp only
  repeat' first
    | with_reducible exact .refl _ _
    | with_reducible assumption
    | with_reducible intro _
    | (with_reducible apply OnlyTouches.put_update; · decide)

theorem State.setArray_touches (s : State) (t : Nat) (x : ArraySt) : OnlyTouches [.arrays] s
    (State.setArray s t x) := by
  unfold State.setArray
  try dsimp only
  repeat' first
    | with_reducible exact .refl _ _
    | with_reducible assumption
    | with_reducible intro _
    | (with_reducible apply OnlyTouches.put_arrays; · decide)

theorem State.modArray_touches (s : State) (t : Nat) (f : ArraySt → ArraySt) : OnlyTouches [.arrays] s
    (State.modArray s t f) := by
  unfold State.modArray
  try dsimp only
  repeat' first
    | with_reducible exact .refl _ _
    | with_reducible assumption
    | (with_reducible apply OnlyTouches.after (State.setArray_touches _ _ _); · decide)
    | with_reducible intro _
    | with_reducible refine OnlyTouches.pair (by assumption) ?_
    | dsimp only

theorem State.setChan_touches (s : State) (c : Nat) (x : ChanSt) : OnlyTouches [.mem] s (State.setChan s c
    x) := by
  unfold State.setChan
  try dsimp only
  repeat' first
    | with_reducible exact .refl _ _
    | with_reducible assumption
    | with_reducible intro _
    | (with_reducible apply OnlyTouches.put_mem; · decide)

theorem State.modChan_touches (s : State) (c : Nat) (f : ChanSt → ChanSt) : OnlyTouches [.mem] s
    (State.modChan s c f) := by
  unfold State.modChan
  try dsimp only
  repeat' first
    | with_reducible exact .refl _ _
    | with_reducible assumption
    | (with_reducible apply OnlyTouches.after (State.setChan_touches _ _ _); · decide)
    | with_reducible intro _
    | with_reducible refine OnlyTouches.pair (by assumption) ?_
    | dsimp only

theorem State.setPair_touches (s : State) (k : Nat) (x : Pair) : OnlyTouches [.custody] s (State.setPair s
    k x) := by
  unfold State.setPair
  try dsimp only
  repeat' first
    | with_reducible exact .refl _ _
    | with_reducible assumption
    | with_reducible intro _
    | (with_reducible apply OnlyTouches.put_custody; · decide)

theorem State.modPair_touches (s : State) (k : Nat) (f : Pair → Pair) : OnlyTouches [.custody] s
    (State.modPair s k f) := by
  unfold State.modPair
  try dsimp only
  repeat' first
    | with_reducible exact .refl _ _
    | with_reducible assumption
    | (with_reducible apply OnlyTouches.after (State.setPair_touches _ _ _); · decide)
    | with_reducible intro _
    | with_reducible refine OnlyTouches.pair (by assumption) ?_
    | dsimp only

theorem State.setStall_touches (s : State) (t : Nat) (x : StallSt) : OnlyTouches [.custody] s
    (State.setStall s t x) := by
  unfold State.setStall
  try dsimp only
  repeat' first
    | with_reducible exact .refl _ _
    | with_reducible assumption
    | with_reducible intro _
    | (with_reducible apply OnlyTouches.put_custody; · decide)

theorem State.modStall_touches (s : State) (t : Nat) (f : StallSt → StallSt) : OnlyTouches [.custody] s
    (State.modStall s t f) := by
  unfold State.modStall
  try dsimp only
  repeat' first
    | with_reducible exact .refl _ _
    | with_reducible assumption
    | (with_reducible apply OnlyTouches.after (State.setStall_touches _ _ _); · decide)
    | with_reducible intro _
    | with_reducible refine OnlyTouches.pair (by assumption) ?_
    | dsimp only

theorem State.setSlot_touches (s : State) (k : Nat) (x : SlotSt) : OnlyTouches [.dict] s (State.setSlot s k
    x) := by
  unfold State.setSlot
  try dsimp only
  repeat' first
    | with_reducible exact .refl _ _
    | with_reducible assumption
    | with_reducible intro _
    | (with_reducible apply OnlyTouches.put_dict; · decide)

theorem State.modSlot_touches (s : State) (k : Nat) (f : SlotSt → SlotSt) : OnlyTouches [.dict] s
    (State.modSlot s k f) := by
  unfold State.modSlot
  try dsimp only
  repeat' first
    | with_reducible exact .refl _ _
    | with_reducible assumption
    | (with_reducible apply OnlyTouches.after (State.setSlot_touches _ _ _); · decide)
    | with_reducible intro _
    | with_reducible refine OnlyTouches.pair (by assumption) ?_
    | dsimp only

theorem State.setFlight_touches (s : State) (i : Nat) (x : Flight) : OnlyTouches [.switch] s
    (State.setFlight s i x) := by
  unfold State.setFlight
  try dsimp only
  repeat' first
    | with_reducible exact .refl _ _
    | with_reducible assumption
    | with_reducible intro _
    | (with_reducible apply OnlyTouches.put_switch; · decide)

theorem State.dropFlight_touches (s : State) (i : Nat) : OnlyTouches [.switch] s (State.dropFlight s i) :=
    by
  unfold State.dropFlight
  try dsimp only
  repeat' first
    | with_reducible exact .refl _ _
    | with_reducible assumption
    | with_reducible intro _
    | (with_reducible apply OnlyTouches.put_switch; · decide)

theorem State.interrupt_touches (s : State) (fn vec : Nat) : OnlyTouches [.host] s (State.interrupt s fn
    vec) := by
  unfold State.interrupt
  try dsimp only
  repeat' first
    | with_reducible exact .refl _ _
    | with_reducible assumption
    | with_reducible apply OnlyTouches.ite
    | with_reducible intro _
    | split
    | (with_reducible apply OnlyTouches.put_host; · decide)
    | with_reducible refine OnlyTouches.pair (by assumption) ?_
    | dsimp only

theorem State.eventInterrupts_touches (s : State) : OnlyTouches [.host] s (State.eventInterrupts s) := by
  unfold State.eventInterrupts
  try dsimp only
  repeat' first
    | with_reducible exact .refl _ _
    | with_reducible assumption
    | with_reducible apply OnlyTouches.fold
    | with_reducible apply OnlyTouches.foldPair
    | (with_reducible apply OnlyTouches.after (State.interrupt_touches _ _ _); · decide)
    | with_reducible apply OnlyTouches.ite
    | with_reducible intro _
    | split
    | with_reducible refine OnlyTouches.pair (by assumption) ?_
    | dsimp only

theorem State.holdAlert_touches (s : State) (a : Alert) : OnlyTouches [.power, .host] s (State.holdAlert s
    a) := by
  unfold State.holdAlert
  try dsimp only
  repeat' first
    | with_reducible exact .refl _ _
    | with_reducible assumption
    | (with_reducible apply OnlyTouches.after (State.interrupt_touches _ _ _); · decide)
    | with_reducible apply OnlyTouches.ite
    | with_reducible intro _
    | split
    | (with_reducible apply OnlyTouches.put_power; · decide)

theorem State.dropAlert_touches (s : State) (a : Alert) : OnlyTouches [.power] s (State.dropAlert s a) := by
  unfold State.dropAlert
  try dsimp only
  repeat' first
    | with_reducible exact .refl _ _
    | with_reducible assumption
    | with_reducible intro _
    | (with_reducible apply OnlyTouches.put_power; · decide)

theorem State.writeEvent_touches (s : State) (e : EventRec) : OnlyTouches [.objs, .dict] s
    (State.writeEvent s e) := by
  unfold State.writeEvent
  try dsimp only
  repeat' first
    | with_reducible exact .refl _ _
    | with_reducible assumption
    | (with_reducible apply OnlyTouches.after (State.bump_touches _ _ _); · decide)
    | with_reducible apply OnlyTouches.ite
    | with_reducible intro _
    | split
    | (with_reducible apply OnlyTouches.put_dict; · decide)
    | with_reducible refine OnlyTouches.pair (by assumption) ?_
    | dsimp only

theorem State.event_touches (s : State) (cls block index sub arg : Nat) : OnlyTouches [.objs, .dict, .host]
    s (State.event s cls block index sub arg) := by
  unfold State.event
  try dsimp only
  repeat' first
    | with_reducible exact .refl _ _
    | with_reducible assumption
    | (with_reducible apply OnlyTouches.after (State.bump_touches _ _ _); · decide)
    | (with_reducible apply OnlyTouches.after (State.eventInterrupts_touches _); · decide)
    | (with_reducible apply OnlyTouches.after (State.writeEvent_touches _ _); · decide)
    | with_reducible apply OnlyTouches.ite
    | with_reducible intro _
    | split
    | with_reducible refine OnlyTouches.pair (by assumption) ?_
    | dsimp only

theorem State.eventObj_touches (s : State) (cls block : Nat) (o : Obj) : OnlyTouches [.objs, .dict, .host]
    s (State.eventObj s cls block o) := by
  unfold State.eventObj
  try dsimp only
  repeat' first
    | with_reducible exact .refl _ _
    | with_reducible assumption
    | (with_reducible apply OnlyTouches.after (State.event_touches _ _ _ _ _ _); · decide)
    | with_reducible intro _
    | with_reducible refine OnlyTouches.pair (by assumption) ?_
    | dsimp only

theorem State.eventAt_touches (s : State) (cls block : Nat) (o : Obj) (arg : Nat) : OnlyTouches [.objs,
    .dict, .host] s (State.eventAt s cls block o arg) := by
  unfold State.eventAt
  try dsimp only
  repeat' first
    | with_reducible exact .refl _ _
    | with_reducible assumption
    | (with_reducible apply OnlyTouches.after (State.event_touches _ _ _ _ _ _); · decide)
    | with_reducible intro _

theorem State.capsule_touches (s : State) (cls : Nat) (pinned : Bool) (block : Nat) : OnlyTouches [.power,
    .free] s (State.capsule s cls pinned block) := by
  unfold State.capsule
  try dsimp only
  repeat' first
    | with_reducible exact .refl _ _
    | with_reducible assumption
    | (with_reducible apply OnlyTouches.after (State.draw_touches _); · decide)
    | with_reducible apply OnlyTouches.ite
    | with_reducible intro _
    | split
    | (with_reducible apply OnlyTouches.put_power; · decide)
    | with_reducible refine OnlyTouches.pair (by assumption) ?_
    | dsimp only

theorem State.askTally_touches (s : State) (x : LoadStep) (mw : Nat) : OnlyTouches [.warden] s
    (State.askTally s x mw).1 := by
  unfold State.askTally
  try dsimp only
  repeat' first
    | with_reducible exact .refl _ _
    | with_reducible assumption
    | with_reducible apply OnlyTouches.ite
    | with_reducible intro _
    | split
    | (with_reducible apply OnlyTouches.put_warden; · decide)
    | with_reducible refine OnlyTouches.pair (by assumption) ?_
    | dsimp only

theorem State.dropSteps_touches (s : State) (p : LoadStep → Bool) : OnlyTouches [.warden] s
    (State.dropSteps s p) := by
  unfold State.dropSteps
  try dsimp only
  repeat' first
    | with_reducible exact .refl _ _
    | with_reducible assumption
    | with_reducible intro _
    | (with_reducible apply OnlyTouches.put_warden; · decide)

theorem State.wakeTally_touches (s : State) : OnlyTouches [.warden] s (State.wakeTally s) := by
  unfold State.wakeTally
  try dsimp only
  repeat' first
    | with_reducible exact .refl _ _
    | with_reducible assumption
    | with_reducible intro _
    | (with_reducible apply OnlyTouches.put_warden; · decide)

theorem State.tablesApplied_touches (s : State) : OnlyTouches [.host] s (State.tablesApplied s) := by
  unfold State.tablesApplied
  try dsimp only
  repeat' first
    | with_reducible exact .refl _ _
    | with_reducible assumption
    | with_reducible intro _
    | (with_reducible apply OnlyTouches.put_host; · decide)

end Sys2Proof.Machine
end

