-- ==== Sys2Proof/Laws/KeepOps.lean ====
section
/-! SUPPORT. The operations of Machine/Ops.lean keep the invariant. -/

namespace Sys2Proof.Machine

theorem State.write_keeps (s : State) (a : Nat) (bs : List Byte) : Keeps s (State.write s a bs) := by
  unfold State.write
  exact .put_mem (fun i => ⟨writeCells_wf i.cells, i.tables⟩) (.refl _)

theorem State.writeNat_keeps (s : State) (a n v : Nat) : Keeps s (State.writeNat s a n v) := by
  unfold State.writeNat
  try dsimp only
  repeat' first
    | with_reducible exact .refl _
    | with_reducible assumption
    | with_reducible apply Keeps.after (State.write_keeps _ _ _)
    | with_reducible intro _

theorem State.writeTable_keeps (s : State) (key off : Nat) (bs : List Byte) : Keeps s (State.writeTable s
    key off bs) := by
  unfold State.writeTable
  exact .put_mem (fun i => ⟨i.cells, writeCells_wf i.tables⟩) (.refl _)

theorem State.setChan_keeps (s : State) (c : Nat) (x : ChanSt) : Keeps s (State.setChan s c x) := by
  unfold State.setChan
  try dsimp only
  repeat' first
    | with_reducible exact .refl _
    | with_reducible assumption
    | with_reducible intro _
    | ((with_reducible apply Keeps.put_mem); · exact fun i => ⟨i.cells, i.tables⟩)

theorem State.modChan_keeps (s : State) (c : Nat) (f : ChanSt → ChanSt) : Keeps s (State.modChan s c f) :=
    by
  unfold State.modChan
  try dsimp only
  repeat' first
    | with_reducible exact .refl _
    | with_reducible assumption
    | with_reducible apply Keeps.after (State.setChan_keeps _ _ _)
    | with_reducible intro _
    | with_reducible refine Keeps.pair (by assumption) ?_
    | dsimp only

theorem State.setSlot_keeps (s : State) (k : Nat) (x : SlotSt) : Keeps s (State.setSlot s k x) := by
  unfold State.setSlot
  try dsimp only
  repeat' first
    | with_reducible exact .refl _
    | with_reducible assumption
    | with_reducible intro _
    | ((with_reducible apply Keeps.put_dict); · exact fun i => ⟨i.head, i.tail⟩)

theorem State.modSlot_keeps (s : State) (k : Nat) (f : SlotSt → SlotSt) : Keeps s (State.modSlot s k f) :=
    by
  unfold State.modSlot
  try dsimp only
  repeat' first
    | with_reducible exact .refl _
    | with_reducible assumption
    | with_reducible apply Keeps.after (State.setSlot_keeps _ _ _)
    | with_reducible intro _
    | with_reducible refine Keeps.pair (by assumption) ?_
    | dsimp only

theorem State.holdAlert_keeps (s : State) (a : Alert) : Keeps s (State.holdAlert s a) := by
  unfold State.holdAlert
  try dsimp only
  repeat' first
    | with_reducible exact .refl _
    | with_reducible assumption
    | ((with_reducible apply Keeps.afterT (State.interrupt_touches _ _ _)); · rfl)
    | with_reducible intro _
    | split
    | ((with_reducible apply Keeps.put_power); · exact fun i => ⟨i.capsule, i.pinned, i.converts, i.released, i.powering, i.boots, i.converting, i.ready⟩)
    | ((with_reducible apply Keeps.put_power); · exact fun i => by (obtain ⟨a, b, c, d, e, f, g, h⟩ := i; constructor <;> first | exact a | exact b | grind))

theorem State.dropAlert_keeps (s : State) (a : Alert) : Keeps s (State.dropAlert s a) := by
  unfold State.dropAlert
  try dsimp only
  repeat' first
    | with_reducible exact .refl _
    | with_reducible assumption
    | with_reducible intro _
    | ((with_reducible apply Keeps.put_power); · exact fun i => ⟨i.capsule, i.pinned, i.converts, i.released, i.powering, i.boots, i.converting, i.ready⟩)
    | ((with_reducible apply Keeps.put_power); · exact fun i => by (obtain ⟨a, b, c, d, e, f, g, h⟩ := i; constructor <;> first | exact a | exact b | grind))

theorem State.writeEvent_keeps (s : State) (e : EventRec) : Keeps s (State.writeEvent s e) := by
  unfold State.writeEvent
  dsimp only
  refine .put_dict (fun i => ⟨Nat.mod_lt _ (by decide), i.tail⟩) ?_
  split
  · exact .afterT (State.bump_touches _ _ _) rfl
      (.put_dict (fun i => ⟨i.head, Nat.mod_lt _ (by decide)⟩) (.refl _))
  · exact .refl _

theorem State.event_keeps (s : State) (cls block index sub arg : Nat) : Keeps s (State.event s cls block
    index sub arg) := by
  unfold State.event
  try dsimp only
  repeat' first
    | with_reducible exact .refl _
    | with_reducible assumption
    | ((with_reducible apply Keeps.afterT (State.bump_touches _ _ _)); · rfl)
    | ((with_reducible apply Keeps.afterT (State.eventInterrupts_touches _)); · rfl)
    | with_reducible apply Keeps.after (State.writeEvent_keeps _ _)
    | with_reducible apply Keeps.ite
    | with_reducible intro _
    | split
    | with_reducible refine Keeps.pair (by assumption) ?_
    | dsimp only

theorem State.eventObj_keeps (s : State) (cls block : Nat) (o : Obj) : Keeps s (State.eventObj s cls block
    o) := by
  unfold State.eventObj
  try dsimp only
  repeat' first
    | with_reducible exact .refl _
    | with_reducible assumption
    | with_reducible apply Keeps.after (State.event_keeps _ _ _ _ _ _)
    | with_reducible intro _
    | with_reducible refine Keeps.pair (by assumption) ?_
    | dsimp only

theorem State.eventAt_keeps (s : State) (cls block : Nat) (o : Obj) (arg : Nat) : Keeps s (State.eventAt s
    cls block o arg) := by
  unfold State.eventAt
  try dsimp only
  repeat' first
    | with_reducible exact .refl _
    | with_reducible assumption
    | with_reducible apply Keeps.after (State.event_keeps _ _ _ _ _ _)
    | with_reducible intro _

theorem State.capsule_keeps (s : State) (cls : Nat) (pinned : Bool) (block : Nat) : Keeps s (State.capsule
    s cls pinned block) := by
  unfold State.capsule
  dsimp only
  refine .put_power (fun i => ?_) (.afterT (State.draw_touches _) rfl (.afterT (State.draw_touches _) rfl (.refl _)))
  have b := fun e => capsulePlace_bounds (e := e) i.capsule i.pinned
  exact ⟨(b _).1, (b _).2, i.converts, i.released, i.powering, i.boots, i.converting, i.ready⟩

end Sys2Proof.Machine
end

