-- ==== Sys2Proof/Laws/TouchCounters.lean ====
section
/-! SUPPORT. Which parts of the state each operation of Machine/Counters.lean changes. -/

namespace Sys2Proof.Machine

theorem State.setCounter_touches (s : State) (b i : Nat) (c : Counter) : OnlyTouches [.ledger] s
    (State.setCounter s b i c) := by
  unfold State.setCounter
  try dsimp only
  repeat' first
    | with_reducible exact .refl _ _
    | with_reducible assumption
    | with_reducible intro _
    | (with_reducible apply OnlyTouches.put_ledger; · decide)

theorem State.addCounter_touches (s : State) (b i w : Nat) (x0 : Nat) : OnlyTouches [.ledger] s
    (State.addCounter s b i w x0) := by
  induction x0 generalizing s b i w with
  | zero =>
    unfold State.addCounter
    try dsimp only
    all_goals repeat' first
      | with_reducible exact .refl _ _
      | with_reducible assumption
      | (with_reducible apply OnlyTouches.after (State.setCounter_touches _ _ _ _); · decide)
      | with_reducible apply OnlyTouches.ite
      | with_reducible intro _
      | split
  | succ k ih =>
    unfold State.addCounter
    try dsimp only
    all_goals repeat' first
      | with_reducible exact .refl _ _
      | with_reducible assumption
      | (with_reducible apply OnlyTouches.after (ih _ _ _ _); · decide)
      | (with_reducible apply OnlyTouches.after (State.setCounter_touches _ _ _ _); · decide)
      | with_reducible apply OnlyTouches.ite
      | with_reducible intro _
      | split

theorem State.count_touches (s : State) (b ev w : Nat) (e : EventAttrs) : OnlyTouches [.ledger] s
    (State.count s b ev w e) := by
  unfold State.count
  try dsimp only
  repeat' first
    | with_reducible exact .refl _ _
    | with_reducible assumption
    | with_reducible apply OnlyTouches.fold
    | with_reducible apply OnlyTouches.foldPair
    | (with_reducible apply OnlyTouches.after (State.addCounter_touches _ _ _ _ _); · decide)
    | with_reducible apply OnlyTouches.ite
    | with_reducible intro _
    | split
    | with_reducible refine OnlyTouches.pair (by assumption) ?_
    | dsimp only

theorem State.countAll_touches (s : State) (ev w : Nat) : OnlyTouches [.ledger] s (State.countAll s ev w)
    := by
  unfold State.countAll
  try dsimp only
  repeat' first
    | with_reducible exact .refl _ _
    | with_reducible assumption
    | with_reducible apply OnlyTouches.fold
    | with_reducible apply OnlyTouches.foldPair
    | (with_reducible apply OnlyTouches.after (State.count_touches _ _ _ _ _); · decide)
    | with_reducible intro _
    | with_reducible refine OnlyTouches.pair (by assumption) ?_
    | dsimp only

theorem State.dropped_touches (s : State) (t : Nat) (f : Frame) (inPort : Option Nat) : OnlyTouches
    [.ledger] s (State.dropped s t f inPort) := by
  unfold State.dropped
  try dsimp only
  repeat' first
    | with_reducible exact .refl _ _
    | with_reducible assumption
    | (with_reducible apply OnlyTouches.after (State.count_touches _ _ _ _ _); · decide)
    | with_reducible intro _

theorem State.windowCount_touches (s : State) (t run : Nat) : OnlyTouches [.ledger] s (State.windowCount s
    t run) := by
  unfold State.windowCount
  try dsimp only
  repeat' first
    | with_reducible exact .refl _ _
    | with_reducible assumption
    | with_reducible apply OnlyTouches.ite
    | with_reducible intro _
    | split
    | (with_reducible apply OnlyTouches.put_ledger; · decide)
    | with_reducible refine OnlyTouches.pair (by assumption) ?_
    | dsimp only

theorem State.countHost_touches (s : State) (n : Nat) (wr : Bool) (e : EventAttrs) : OnlyTouches [.objs,
    .ledger] s (State.countHost s n wr e) := by
  unfold State.countHost
  try dsimp only
  repeat' first
    | with_reducible exact .refl _ _
    | with_reducible assumption
    | (with_reducible apply OnlyTouches.after (State.bump_touches _ _ _); · decide)
    | (with_reducible apply OnlyTouches.after (State.count_touches _ _ _ _ _); · decide)
    | with_reducible apply OnlyTouches.ite
    | with_reducible intro _
    | split

end Sys2Proof.Machine
end

