-- ==== Sys2Proof/Laws/TouchPools.lean ====
section
/-! SUPPORT. Which parts of the state each operation of Machine/Pools.lean changes. -/

namespace Sys2Proof.Machine

theorem State.setPool_touches (s : State) (t k : Nat) (x : Pool) : OnlyTouches [.switch] s (State.setPool s
    t k x) := by
  unfold State.setPool
  try dsimp only
  repeat' first
    | with_reducible exact .refl _ _
    | with_reducible assumption
    | with_reducible intro _
    | (with_reducible apply OnlyTouches.put_switch; · decide)

theorem State.fencePool_touches (s : State) (t k : Nat) : OnlyTouches [.objs, .switch, .dict, .host] s
    (State.fencePool s t k) := by
  unfold State.fencePool
  try dsimp only
  repeat' first
    | with_reducible exact .refl _ _
    | with_reducible assumption
    | (with_reducible apply OnlyTouches.after (State.eventAt_touches _ _ _ _ _); · decide)
    | (with_reducible apply OnlyTouches.after (State.setPool_touches _ _ _ _); · decide)
    | with_reducible intro _
    | with_reducible refine OnlyTouches.pair (by assumption) ?_
    | dsimp only

theorem State.takeFrom_touches (s : State) (t k : Nat) : OnlyTouches [.objs, .switch, .dict, .host] s
    (State.takeFrom s t k).1 := by
  unfold State.takeFrom
  try dsimp only
  repeat' first
    | with_reducible exact .refl _ _
    | with_reducible assumption
    | (with_reducible apply OnlyTouches.after (State.setPool_touches _ _ _ _); · decide)
    | (with_reducible apply OnlyTouches.after (State.fencePool_touches _ _ _); · decide)
    | with_reducible apply OnlyTouches.ite
    | with_reducible intro _
    | split
    | with_reducible refine OnlyTouches.pair (by assumption) ?_
    | dsimp only

theorem State.allocFrom_touches (s : State) (t n : Nat) (x0 : List Nat) : OnlyTouches [.objs, .switch,
    .dict, .host] s (State.allocFrom s t n x0).1 := by
  induction x0 generalizing s t n with
  | nil =>
    unfold State.allocFrom
    try dsimp only
    all_goals repeat' first
      | with_reducible exact .refl _ _
      | with_reducible assumption
      | (with_reducible apply OnlyTouches.after (State.takeFrom_touches _ _ _); · decide)
      | (with_reducible apply OnlyTouches.afterPair (State.takeFrom_touches _ _ _); (first | assumption | decide); (first | assumption | decide))
      | with_reducible apply OnlyTouches.ite
      | with_reducible intro _
      | split
      | with_reducible refine OnlyTouches.pair (by assumption) ?_
      | dsimp only
  | cons a l ih =>
    unfold State.allocFrom
    try dsimp only
    all_goals repeat' first
      | with_reducible exact .refl _ _
      | with_reducible assumption
      | (with_reducible apply OnlyTouches.after (ih _ _ _); · decide)
      | (with_reducible apply OnlyTouches.afterPair (ih _ _ _); (first | assumption | decide); (first | assumption | decide))
      | (with_reducible apply OnlyTouches.after (State.takeFrom_touches _ _ _); · decide)
      | (with_reducible apply OnlyTouches.afterPair (State.takeFrom_touches _ _ _); (first | assumption | decide); (first | assumption | decide))
      | with_reducible apply OnlyTouches.ite
      | with_reducible intro _
      | split
      | with_reducible refine OnlyTouches.pair (by assumption) ?_
      | dsimp only

theorem State.allocService_touches (s : State) (t n : Nat) : OnlyTouches [.objs, .switch, .dict, .host] s
    (State.allocService s t n).1 := by
  unfold State.allocService
  try dsimp only
  repeat' first
    | with_reducible exact .refl _ _
    | with_reducible assumption
    | (with_reducible apply OnlyTouches.after (State.allocFrom_touches _ _ _ _); · decide)
    | (with_reducible apply OnlyTouches.afterPair (State.allocFrom_touches _ _ _ _); (first | assumption | decide); (first | assumption | decide))
    | with_reducible intro _
    | with_reducible refine OnlyTouches.pair (by assumption) ?_
    | dsimp only

theorem State.giveBack_touches (s : State) (t k a : Nat) : OnlyTouches [.objs, .switch, .mem, .dict, .host]
    s (State.giveBack s t k a) := by
  unfold State.giveBack
  try dsimp only
  repeat' first
    | with_reducible exact .refl _ _
    | with_reducible assumption
    | with_reducible apply OnlyTouches.when
    | (with_reducible apply OnlyTouches.after (State.writeNat_touches _ _ _ _); · decide)
    | (with_reducible apply OnlyTouches.after (State.setPool_touches _ _ _ _); · decide)
    | (with_reducible apply OnlyTouches.after (State.fencePool_touches _ _ _); · decide)
    | with_reducible apply OnlyTouches.ite
    | with_reducible intro _
    | split
    | with_reducible refine OnlyTouches.pair (by assumption) ?_
    | dsimp only

theorem State.freeBuffer_touches (s : State) (a : Nat) : OnlyTouches [.objs, .switch, .coll, .mem, .dict,
    .host] s (State.freeBuffer s a) := by
  unfold State.freeBuffer
  try dsimp only
  repeat' first
    | with_reducible exact .refl _ _
    | with_reducible assumption
    | (with_reducible apply OnlyTouches.after (State.giveBack_touches _ _ _ _); · decide)
    | with_reducible intro _
    | split
    | (with_reducible apply OnlyTouches.put_coll; · decide)

theorem State.freeBufferOpt_touches (s : State) (a : Option Nat) : OnlyTouches [.objs, .switch, .coll,
    .mem, .dict, .host] s (State.freeBufferOpt s a) := by
  unfold State.freeBufferOpt
  try dsimp only
  repeat' first
    | with_reducible exact .refl _ _
    | with_reducible assumption
    | (with_reducible apply OnlyTouches.after (State.freeBuffer_touches _ _); · decide)
    | with_reducible intro _
    | split

theorem State.relink_touches (s : State) (t k : Nat) : OnlyTouches [.switch, .mem] s (State.relink s t k)
    := by
  unfold State.relink
  try dsimp only
  repeat' first
    | with_reducible exact .refl _ _
    | with_reducible assumption
    | (with_reducible apply OnlyTouches.after (State.setPool_touches _ _ _ _); · decide)
    | with_reducible intro _
    | (with_reducible apply OnlyTouches.put_mem; · decide)
    | with_reducible refine OnlyTouches.pair (by assumption) ?_
    | dsimp only

theorem State.rebuildIfEmpty_touches (s : State) (t k : Nat) : OnlyTouches [.switch, .mem] s
    (State.rebuildIfEmpty s t k) := by
  unfold State.rebuildIfEmpty
  try dsimp only
  repeat' first
    | with_reducible exact .refl _ _
    | with_reducible assumption
    | (with_reducible apply OnlyTouches.after (State.relink_touches _ _ _); · decide)
    | with_reducible apply OnlyTouches.ite
    | with_reducible intro _
    | split

theorem execPoolRebuildDone_touches (t : Stall) (k : Fin 9) (s : State) : StepTouches [.switch, .mem] s
    (execPoolRebuildDone t k s) := by
  unfold execPoolRebuildDone
  try dsimp only
  repeat' first
    | with_reducible apply OnlyTouches.ofNext
    | with_reducible exact .refl _ _
    | with_reducible assumption
    | (with_reducible apply OnlyTouches.after (State.rebuildIfEmpty_touches _ _ _); · decide)
    | with_reducible intro _
    | with_reducible refine OnlyTouches.pair (by assumption) ?_
    | dsimp only

theorem State.abandonRebuild_touches (s : State) (t k : Nat) : OnlyTouches [.switch] s
    (State.abandonRebuild s t k) := by
  unfold State.abandonRebuild
  try dsimp only
  repeat' first
    | with_reducible exact .refl _ _
    | with_reducible assumption
    | (with_reducible apply OnlyTouches.after (State.setPool_touches _ _ _ _); · decide)
    | with_reducible apply OnlyTouches.ite
    | with_reducible intro _
    | split
    | with_reducible refine OnlyTouches.pair (by assumption) ?_
    | dsimp only

theorem execPoolRebuildAbandon_touches (t : Stall) (k : Fin 9) (s : State) : StepTouches [.switch] s
    (execPoolRebuildAbandon t k s) := by
  unfold execPoolRebuildAbandon
  try dsimp only
  repeat' first
    | with_reducible apply OnlyTouches.ofNext
    | with_reducible exact .refl _ _
    | with_reducible assumption
    | (with_reducible apply OnlyTouches.after (State.abandonRebuild_touches _ _ _); · decide)
    | with_reducible intro _
    | with_reducible refine OnlyTouches.pair (by assumption) ?_
    | dsimp only

theorem State.askRebuild_touches (s : State) (t word : Nat) : OnlyTouches [.switch] s (State.askRebuild s t
    word) := by
  unfold State.askRebuild
  try dsimp only
  repeat' first
    | with_reducible exact .refl _ _
    | with_reducible assumption
    | with_reducible apply OnlyTouches.each
    | (with_reducible apply OnlyTouches.after (State.setPool_touches _ _ _ _); · decide)
    | with_reducible intro _

end Sys2Proof.Machine
end

