-- ==== Sys2Proof/Laws/KeepPools.lean ====
section
/-! SUPPORT. The operations of Machine/Pools.lean keep the invariant. -/

namespace Sys2Proof.Machine

theorem State.fencePool_keeps (s : State) (t k : Nat) : Keeps s (State.fencePool s t k) := by
  unfold State.fencePool
  try dsimp only
  repeat' first
    | with_reducible exact .refl _
    | with_reducible assumption
    | with_reducible apply Keeps.after (State.eventAt_keeps _ _ _ _ _)
    | ((with_reducible apply Keeps.afterT (State.setPool_touches _ _ _ _)); · rfl)
    | with_reducible intro _
    | with_reducible refine Keeps.pair (by assumption) ?_
    | dsimp only

theorem State.takeFrom_keeps (s : State) (t k : Nat) : Keeps s (State.takeFrom s t k).1 := by
  unfold State.takeFrom
  try dsimp only
  repeat' first
    | with_reducible exact .refl _
    | with_reducible assumption
    | ((with_reducible apply Keeps.afterT (State.setPool_touches _ _ _ _)); · rfl)
    | with_reducible apply Keeps.after (State.fencePool_keeps _ _ _)
    | with_reducible apply Keeps.ite
    | with_reducible intro _
    | split
    | with_reducible refine Keeps.pair (by assumption) ?_
    | dsimp only

theorem State.allocFrom_keeps (s : State) (t n : Nat) (x0 : List Nat) : Keeps s (State.allocFrom s t n
    x0).1 := by
  induction x0 generalizing s t n with
  | nil =>
    unfold State.allocFrom
    try dsimp only
    all_goals repeat' first
      | with_reducible exact .refl _
      | with_reducible assumption
      | with_reducible apply Keeps.after (State.takeFrom_keeps _ _ _)
      | ((with_reducible apply Keeps.afterPair (State.takeFrom_keeps _ _ _)); · assumption)
      | with_reducible apply Keeps.ite
      | with_reducible intro _
      | split
      | with_reducible refine Keeps.pair (by assumption) ?_
      | dsimp only
  | cons a l ih =>
    unfold State.allocFrom
    try dsimp only
    all_goals repeat' first
      | with_reducible exact .refl _
      | with_reducible assumption
      | (with_reducible apply Keeps.after (ih _ _ _))
      | (with_reducible apply Keeps.afterPair (ih _ _ _); assumption)
      | with_reducible apply Keeps.after (State.takeFrom_keeps _ _ _)
      | ((with_reducible apply Keeps.afterPair (State.takeFrom_keeps _ _ _)); · assumption)
      | with_reducible apply Keeps.ite
      | with_reducible intro _
      | split
      | with_reducible refine Keeps.pair (by assumption) ?_
      | dsimp only

theorem State.allocService_keeps (s : State) (t n : Nat) : Keeps s (State.allocService s t n).1 := by
  unfold State.allocService
  try dsimp only
  repeat' first
    | with_reducible exact .refl _
    | with_reducible assumption
    | with_reducible apply Keeps.after (State.allocFrom_keeps _ _ _ _)
    | ((with_reducible apply Keeps.afterPair (State.allocFrom_keeps _ _ _ _)); · assumption)
    | with_reducible intro _
    | with_reducible refine Keeps.pair (by assumption) ?_
    | dsimp only

theorem State.giveBack_keeps (s : State) (t k a : Nat) : Keeps s (State.giveBack s t k a) := by
  unfold State.giveBack
  try dsimp only
  repeat' first
    | with_reducible exact .refl _
    | with_reducible assumption
    | with_reducible apply Keeps.when
    | with_reducible apply Keeps.after (State.writeNat_keeps _ _ _ _)
    | ((with_reducible apply Keeps.afterT (State.setPool_touches _ _ _ _)); · rfl)
    | with_reducible apply Keeps.after (State.fencePool_keeps _ _ _)
    | with_reducible apply Keeps.ite
    | with_reducible intro _
    | split
    | with_reducible refine Keeps.pair (by assumption) ?_
    | dsimp only

theorem State.freeBuffer_keeps (s : State) (a : Nat) : Keeps s (State.freeBuffer s a) := by
  unfold State.freeBuffer
  try dsimp only
  repeat' first
    | with_reducible exact .refl _
    | with_reducible assumption
    | with_reducible apply Keeps.after (State.giveBack_keeps _ _ _ _)
    | with_reducible intro _
    | split
    | with_reducible apply Keeps.put_coll

theorem State.freeBufferOpt_keeps (s : State) (a : Option Nat) : Keeps s (State.freeBufferOpt s a) := by
  unfold State.freeBufferOpt
  try dsimp only
  repeat' first
    | with_reducible exact .refl _
    | with_reducible assumption
    | with_reducible apply Keeps.after (State.freeBuffer_keeps _ _)
    | with_reducible intro _
    | split

theorem State.relink_keeps (s : State) (t k : Nat) : Keeps s (State.relink s t k) := by
  unfold State.relink
  dsimp only
  exact .afterT (State.setPool_touches _ _ _ _) rfl (.put_mem (fun i => ⟨filter_wf i.cells, i.tables⟩) (.refl _))

theorem State.rebuildIfEmpty_keeps (s : State) (t k : Nat) : Keeps s (State.rebuildIfEmpty s t k) := by
  unfold State.rebuildIfEmpty
  try dsimp only
  repeat' first
    | with_reducible exact .refl _
    | with_reducible assumption
    | with_reducible apply Keeps.after (State.relink_keeps _ _ _)
    | with_reducible apply Keeps.ite
    | with_reducible intro _
    | split

theorem execPoolRebuildDone_keeps (t : Stall) (k : Fin 9) (s : State) : StepKeeps s (execPoolRebuildDone t
    k s) := by
  unfold execPoolRebuildDone
  try dsimp only
  repeat' first
    | with_reducible apply Keeps.ofNext
    | with_reducible exact .refl _
    | with_reducible assumption
    | with_reducible apply Keeps.after (State.rebuildIfEmpty_keeps _ _ _)
    | with_reducible intro _
    | with_reducible refine Keeps.pair (by assumption) ?_
    | dsimp only

end Sys2Proof.Machine
end

