-- ==== Sys2Proof/Laws/TouchFabric.lean ====
section
/-! SUPPORT. Which parts of the state each operation of Machine/Fabric.lean changes. -/

namespace Sys2Proof.Machine

theorem State.unspray_touches (s : State) (p : Nat) : OnlyTouches [.switch] s (State.unspray s p) := by
  unfold State.unspray
  try dsimp only
  repeat' first
    | with_reducible exact .refl _ _
    | with_reducible assumption
    | with_reducible intro _
    | (with_reducible apply OnlyTouches.put_switch; · decide)
    | with_reducible refine OnlyTouches.pair (by assumption) ?_
    | dsimp only

theorem State.addFlight_touches (s : State) (f : Flight) : OnlyTouches [.switch] s (State.addFlight s f).1
    := by
  unfold State.addFlight
  try dsimp only
  repeat' first
    | with_reducible exact .refl _ _
    | with_reducible assumption
    | with_reducible intro _
    | (with_reducible apply OnlyTouches.put_switch; · decide)

theorem State.pushVoq_touches (s : State) (t o k i : Nat) : OnlyTouches [.switch] s (State.pushVoq s t o k
    i) := by
  unfold State.pushVoq
  try dsimp only
  repeat' first
    | with_reducible exact .refl _ _
    | with_reducible assumption
    | with_reducible intro _
    | (with_reducible apply OnlyTouches.put_switch; · decide)

theorem State.spray_touches (s : State) (t b k : Nat) : OnlyTouches [.switch] s (State.spray s t b k).1 :=
    by
  unfold State.spray
  try dsimp only
  repeat' first
    | with_reducible exact .refl _ _
    | with_reducible assumption
    | with_reducible apply OnlyTouches.fold
    | with_reducible apply OnlyTouches.foldPair
    | with_reducible apply OnlyTouches.ite
    | with_reducible intro _
    | split
    | (with_reducible apply OnlyTouches.put_switch; · decide)
    | with_reducible refine OnlyTouches.pair (by assumption) ?_
    | dsimp only

theorem State.chooseMember_touches (s : State) (t b k : Nat) (f : Frame) : OnlyTouches [.switch] s
    (State.chooseMember s t b k f).1 := by
  unfold State.chooseMember
  try dsimp only
  repeat' first
    | with_reducible exact .refl _ _
    | with_reducible assumption
    | (with_reducible apply OnlyTouches.after (State.spray_touches _ _ _ _); · decide)
    | (with_reducible apply OnlyTouches.afterPair (State.spray_touches _ _ _ _); (first | assumption | decide); (first | assumption | decide))
    | with_reducible apply OnlyTouches.ite
    | with_reducible intro _
    | split
    | with_reducible refine OnlyTouches.pair (by assumption) ?_
    | dsimp only

theorem State.lookup_touches (s : State) (t k : Nat) (f : Frame) : OnlyTouches [.switch] s (State.lookup s
    t k f).1 := by
  unfold State.lookup
  try dsimp only
  repeat' first
    | with_reducible exact .refl _ _
    | with_reducible assumption
    | (with_reducible apply OnlyTouches.after (State.chooseMember_touches _ _ _ _ _); · decide)
    | (with_reducible apply OnlyTouches.afterPair (State.chooseMember_touches _ _ _ _ _); (first | assumption | decide); (first | assumption | decide))
    | with_reducible intro _
    | split
    | with_reducible refine OnlyTouches.pair (by assumption) ?_
    | dsimp only

theorem State.freeCredits_touches (s : State) (port vc cells : Nat) : OnlyTouches [.ports] s
    (State.freeCredits s port vc cells) := by
  unfold State.freeCredits
  try dsimp only
  repeat' first
    | with_reducible exact .refl _ _
    | with_reducible assumption
    | (with_reducible apply OnlyTouches.after (State.modPort_touches _ _ _); · decide)
    | with_reducible intro _

theorem State.freeFlightCredits_touches (s : State) (f : Flight) : OnlyTouches [.ports] s
    (State.freeFlightCredits s f) := by
  unfold State.freeFlightCredits
  try dsimp only
  repeat' first
    | with_reducible exact .refl _ _
    | with_reducible assumption
    | (with_reducible apply OnlyTouches.after (State.freeCredits_touches _ _ _ _); · decide)
    | with_reducible intro _
    | split

theorem State.enterVoq_touches (s : State) (f : Flight) : OnlyTouches [.objs, .switch] s (State.enterVoq s
    f) := by
  unfold State.enterVoq
  try dsimp only
  repeat' first
    | with_reducible exact .refl _ _
    | with_reducible assumption
    | (with_reducible apply OnlyTouches.after (State.bump_touches _ _ _); · decide)
    | (with_reducible apply OnlyTouches.after (State.addFlight_touches _ _); · decide)
    | (with_reducible apply OnlyTouches.afterPair (State.addFlight_touches _ _); (first | assumption | decide); (first | assumption | decide))
    | (with_reducible apply OnlyTouches.after (State.pushVoq_touches _ _ _ _ _); · decide)
    | with_reducible apply OnlyTouches.ite
    | with_reducible intro _
    | split
    | with_reducible refine OnlyTouches.pair (by assumption) ?_
    | dsimp only

theorem State.noRoute_touches (s : State) (t : Nat) (port : Option Nat) (f : Frame) : OnlyTouches [.objs,
    .ports, .ledger] s (State.noRoute s t port f) := by
  unfold State.noRoute
  try dsimp only
  repeat' first
    | with_reducible exact .refl _ _
    | with_reducible assumption
    | (with_reducible apply OnlyTouches.after (State.bump_touches _ _ _); · decide)
    | (with_reducible apply OnlyTouches.after (State.dropped_touches _ _ _ _); · decide)
    | (with_reducible apply OnlyTouches.after (State.freeCredits_touches _ _ _ _); · decide)
    | with_reducible intro _
    | split
    | with_reducible refine OnlyTouches.pair (by assumption) ?_
    | dsimp only

theorem State.forward_touches (s : State) (t port : Nat) (f : Frame) : OnlyTouches [.objs, .ports, .switch,
    .ledger] s (State.forward s t port f) := by
  unfold State.forward
  try dsimp only
  repeat' first
    | with_reducible exact .refl _ _
    | with_reducible assumption
    | (with_reducible apply OnlyTouches.after (State.lookup_touches _ _ _ _); · decide)
    | (with_reducible apply OnlyTouches.afterPair (State.lookup_touches _ _ _ _); (first | assumption | decide); (first | assumption | decide))
    | (with_reducible apply OnlyTouches.after (State.enterVoq_touches _ _); · decide)
    | (with_reducible apply OnlyTouches.after (State.noRoute_touches _ _ _ _); · decide)
    | with_reducible intro _
    | split
    | with_reducible refine OnlyTouches.pair (by assumption) ?_
    | dsimp only

theorem State.toHome_touches (s : State) (t port home : Nat) (f : Frame) : OnlyTouches [.switch] s
    (State.toHome s t port home f) := by
  unfold State.toHome
  try dsimp only
  repeat' first
    | with_reducible exact .refl _ _
    | with_reducible assumption
    | (with_reducible apply OnlyTouches.after (State.addFlight_touches _ _); · decide)
    | (with_reducible apply OnlyTouches.afterPair (State.addFlight_touches _ _); (first | assumption | decide); (first | assumption | decide))
    | (with_reducible apply OnlyTouches.after (State.pushVoq_touches _ _ _ _ _); · decide)
    | with_reducible intro _
    | split
    | with_reducible refine OnlyTouches.pair (by assumption) ?_
    | dsimp only

theorem State.countPass_touches (s : State) (f : Frame) : OnlyTouches [.objs] s (State.countPass s f) := by
  unfold State.countPass
  try dsimp only
  repeat' first
    | with_reducible exact .refl _ _
    | with_reducible assumption
    | (with_reducible apply OnlyTouches.after (State.bump_touches _ _ _); · decide)
    | with_reducible intro _

theorem State.generate_touches (s : State) (t : Nat) (f : Frame) (buffer : Option Nat) (src : Option (Nat ×
    Nat × Nat)) : OnlyTouches [.objs, .ports, .switch, .coll, .mem, .ledger, .dict, .host] s
    (State.generate s t f buffer src).1 := by
  unfold State.generate
  try dsimp only
  repeat' first
    | with_reducible exact .refl _ _
    | with_reducible assumption
    | (with_reducible apply OnlyTouches.after (State.freeBufferOpt_touches _ _); · decide)
    | (with_reducible apply OnlyTouches.after (State.addFlight_touches _ _); · decide)
    | (with_reducible apply OnlyTouches.afterPair (State.addFlight_touches _ _); (first | assumption | decide); (first | assumption | decide))
    | (with_reducible apply OnlyTouches.after (State.lookup_touches _ _ _ _); · decide)
    | (with_reducible apply OnlyTouches.afterPair (State.lookup_touches _ _ _ _); (first | assumption | decide); (first | assumption | decide))
    | (with_reducible apply OnlyTouches.after (State.noRoute_touches _ _ _ _); · decide)
    | (with_reducible apply OnlyTouches.after (State.countPass_touches _ _); · decide)
    | with_reducible intro _
    | split
    | (with_reducible apply OnlyTouches.put_switch; · decide)
    | with_reducible refine OnlyTouches.pair (by assumption) ?_
    | dsimp only

theorem State.generateTo_touches (s : State) (t port : Nat) (bundle : Option Nat) (f : Frame) (buffer :
    Option Nat) (src : Option (Nat × Nat × Nat)) : OnlyTouches [.objs, .switch] s (State.generateTo s t
    port bundle f buffer src) := by
  unfold State.generateTo
  try dsimp only
  repeat' first
    | with_reducible exact .refl _ _
    | with_reducible assumption
    | with_reducible apply OnlyTouches.when
    | (with_reducible apply OnlyTouches.after (State.addFlight_touches _ _); · decide)
    | (with_reducible apply OnlyTouches.afterPair (State.addFlight_touches _ _); (first | assumption | decide); (first | assumption | decide))
    | (with_reducible apply OnlyTouches.after (State.countPass_touches _ _); · decide)
    | with_reducible intro _
    | split
    | (with_reducible apply OnlyTouches.put_switch; · decide)
    | with_reducible refine OnlyTouches.pair (by assumption) ?_
    | dsimp only

theorem State.multicast_touches (s : State) (t : Nat) (f : Frame) (g : Nat) (except : Option Nat) (buffer :
    Option Nat) (src : Option (Nat × Nat × Nat)) : OnlyTouches [.objs, .switch, .coll, .mem, .dict, .host]
    s (State.multicast s t f g except buffer src) := by
  unfold State.multicast
  try dsimp only
  repeat' first
    | with_reducible exact .refl _ _
    | with_reducible assumption
    | (with_reducible apply OnlyTouches.after (State.freeBufferOpt_touches _ _); · decide)
    | (with_reducible apply OnlyTouches.after (State.addFlight_touches _ _); · decide)
    | (with_reducible apply OnlyTouches.afterPair (State.addFlight_touches _ _); (first | assumption | decide); (first | assumption | decide))
    | (with_reducible apply OnlyTouches.after (State.countPass_touches _ _); · decide)
    | with_reducible apply OnlyTouches.ite
    | with_reducible intro _
    | split
    | (with_reducible apply OnlyTouches.put_switch; · decide)
    | with_reducible refine OnlyTouches.pair (by assumption) ?_
    | dsimp only

theorem State.easeTurn_touches (s : State) (w : GenWait) : OnlyTouches [.switch] s (State.easeTurn s w) :=
    by
  unfold State.easeTurn
  try dsimp only
  repeat' first
    | with_reducible exact .refl _ _
    | with_reducible assumption
    | with_reducible apply OnlyTouches.ite
    | with_reducible intro _
    | split
    | (with_reducible apply OnlyTouches.put_switch; · decide)
    | with_reducible refine OnlyTouches.pair (by assumption) ?_
    | dsimp only

theorem State.queueWait_touches (s : State) (w : GenWait) : OnlyTouches [.objs, .ports, .switch, .coll,
    .mem, .ledger, .dict, .host] s (State.queueWait s w) := by
  unfold State.queueWait
  try dsimp only
  repeat' first
    | with_reducible exact .refl _ _
    | with_reducible assumption
    | (with_reducible apply OnlyTouches.after (State.generate_touches _ _ _ _ _); · decide)
    | (with_reducible apply OnlyTouches.afterPair (State.generate_touches _ _ _ _ _); (first | assumption | decide); (first | assumption | decide))
    | (with_reducible apply OnlyTouches.after (State.generateTo_touches _ _ _ _ _ _ _); · decide)
    | (with_reducible apply OnlyTouches.after (State.multicast_touches _ _ _ _ _ _ _); · decide)
    | with_reducible intro _
    | split
    | with_reducible refine OnlyTouches.pair (by assumption) ?_
    | dsimp only

theorem State.pumpList_touches (s : State) (x0 : List GenWait) : OnlyTouches [.objs, .ports, .switch,
    .coll, .mem, .ledger, .dict, .host] s (State.pumpList s x0) := by
  induction x0 generalizing s with
  | nil =>
    unfold State.pumpList
    try dsimp only
    all_goals repeat' first
      | with_reducible exact .refl _ _
      | with_reducible assumption
      | (with_reducible apply OnlyTouches.after (State.easeTurn_touches _ _); · decide)
      | (with_reducible apply OnlyTouches.after (State.queueWait_touches _ _); · decide)
      | with_reducible apply OnlyTouches.ite
      | with_reducible intro _
      | split
      | (with_reducible apply OnlyTouches.put_switch; · decide)
  | cons a l ih =>
    unfold State.pumpList
    try dsimp only
    all_goals repeat' first
      | with_reducible exact .refl _ _
      | with_reducible assumption
      | (with_reducible apply OnlyTouches.after (ih _); · decide)
      | (with_reducible apply OnlyTouches.after (State.easeTurn_touches _ _); · decide)
      | (with_reducible apply OnlyTouches.after (State.queueWait_touches _ _); · decide)
      | with_reducible apply OnlyTouches.ite
      | with_reducible intro _
      | split
      | (with_reducible apply OnlyTouches.put_switch; · decide)

theorem State.pump_touches (s : State) : OnlyTouches [.objs, .ports, .switch, .coll, .mem, .ledger, .dict,
    .host] s (State.pump s) := by
  unfold State.pump
  try dsimp only
  repeat' first
    | with_reducible exact .refl _ _
    | with_reducible assumption
    | (with_reducible apply OnlyTouches.after (State.pumpList_touches _ _); · decide)
    | with_reducible intro _
    | (with_reducible apply OnlyTouches.put_switch; · decide)

theorem State.sendWait_touches (s : State) (w : GenWait) : OnlyTouches [.objs, .ports, .switch, .coll,
    .mem, .ledger, .dict, .host] s (State.sendWait s w) := by
  unfold State.sendWait
  try dsimp only
  repeat' first
    | with_reducible exact .refl _ _
    | with_reducible assumption
    | (with_reducible apply OnlyTouches.after (State.pump_touches _); · decide)
    | with_reducible intro _
    | (with_reducible apply OnlyTouches.put_switch; · decide)

theorem State.send_touches (s : State) (t : Nat) (f : Frame) (buffer : Option Nat) (src : Option (Nat × Nat
    × Nat)) : OnlyTouches [.objs, .ports, .switch, .coll, .mem, .ledger, .dict, .host] s (State.send s t f
    buffer src) := by
  unfold State.send
  try dsimp only
  repeat' first
    | with_reducible exact .refl _ _
    | with_reducible assumption
    | (with_reducible apply OnlyTouches.after (State.sendWait_touches _ _); · decide)
    | with_reducible intro _
    | with_reducible refine OnlyTouches.pair (by assumption) ?_
    | dsimp only

theorem State.sendGroup_touches (s : State) (t : Nat) (f : Frame) (g : Nat) (except : Option Nat) (buffer :
    Option Nat) (src : Option (Nat × Nat × Nat)) : OnlyTouches [.objs, .ports, .switch, .coll, .mem,
    .ledger, .dict, .host] s (State.sendGroup s t f g except buffer src) := by
  unfold State.sendGroup
  try dsimp only
  repeat' first
    | with_reducible exact .refl _ _
    | with_reducible assumption
    | (with_reducible apply OnlyTouches.after (State.sendWait_touches _ _); · decide)
    | with_reducible intro _
    | with_reducible refine OnlyTouches.pair (by assumption) ?_
    | dsimp only

theorem State.mirrorTake_touches (s : State) (t k : Nat) (f : Frame) : OnlyTouches [.objs, .ports, .switch,
    .coll, .mem, .ledger, .dict, .host] s (State.mirrorTake s t k f) := by
  unfold State.mirrorTake
  try dsimp only
  repeat' first
    | with_reducible exact .refl _ _
    | with_reducible assumption
    | (with_reducible apply OnlyTouches.after (State.bump_touches _ _ _); · decide)
    | (with_reducible apply OnlyTouches.after (State.write_touches _ _ _); · decide)
    | (with_reducible apply OnlyTouches.after (State.allocService_touches _ _ _); · decide)
    | (with_reducible apply OnlyTouches.afterPair (State.allocService_touches _ _ _); (first | assumption | decide); (first | assumption | decide))
    | (with_reducible apply OnlyTouches.after (State.sendWait_touches _ _); · decide)
    | with_reducible apply OnlyTouches.ite
    | with_reducible intro _
    | split
    | (with_reducible apply OnlyTouches.put_switch; · decide)
    | with_reducible refine OnlyTouches.pair (by assumption) ?_
    | dsimp only

theorem State.mirrorIngress_touches (s : State) (t port : Nat) (f : Frame) : OnlyTouches [.objs, .ports,
    .switch, .coll, .mem, .ledger, .dict, .host] s (State.mirrorIngress s t port f) := by
  unfold State.mirrorIngress
  try dsimp only
  repeat' first
    | with_reducible exact .refl _ _
    | with_reducible assumption
    | with_reducible apply OnlyTouches.each
    | (with_reducible apply OnlyTouches.after (State.mirrorTake_touches _ _ _ _); · decide)
    | with_reducible apply OnlyTouches.ite
    | with_reducible intro _
    | split
    | with_reducible refine OnlyTouches.pair (by assumption) ?_
    | dsimp only

theorem State.forwardCopied_touches (s : State) (t port : Nat) (f g : Frame) : OnlyTouches [.objs, .ports,
    .switch, .coll, .mem, .ledger, .dict, .host] s (State.forwardCopied s t port f g) := by
  unfold State.forwardCopied
  try dsimp only
  repeat' first
    | with_reducible exact .refl _ _
    | with_reducible assumption
    | with_reducible apply OnlyTouches.when
    | (with_reducible apply OnlyTouches.after (State.lookup_touches _ _ _ _); · decide)
    | (with_reducible apply OnlyTouches.afterPair (State.lookup_touches _ _ _ _); (first | assumption | decide); (first | assumption | decide))
    | (with_reducible apply OnlyTouches.after (State.forward_touches _ _ _ _); · decide)
    | (with_reducible apply OnlyTouches.after (State.mirrorIngress_touches _ _ _ _); · decide)
    | with_reducible intro _
    | with_reducible refine OnlyTouches.pair (by assumption) ?_
    | dsimp only

theorem State.mirrorEgress_touches (s : State) (port : Nat) (f : Frame) : OnlyTouches [.objs, .ports,
    .switch, .coll, .mem, .ledger, .dict, .host] s (State.mirrorEgress s port f) := by
  unfold State.mirrorEgress
  try dsimp only
  repeat' first
    | with_reducible exact .refl _ _
    | with_reducible assumption
    | with_reducible apply OnlyTouches.each
    | (with_reducible apply OnlyTouches.after (State.mirrorTake_touches _ _ _ _); · decide)
    | with_reducible apply OnlyTouches.ite
    | with_reducible intro _
    | split

theorem State.easeCheck_touches (s : State) (port depth : Nat) (f : Frame) : OnlyTouches [.objs, .ports,
    .switch, .coll, .mem, .ledger, .dict, .host] s (State.easeCheck s port depth f) := by
  unfold State.easeCheck
  try dsimp only
  repeat' first
    | with_reducible exact .refl _ _
    | with_reducible assumption
    | (with_reducible apply OnlyTouches.after (State.bump_touches _ _ _); · decide)
    | (with_reducible apply OnlyTouches.after (State.count_touches _ _ _ _ _); · decide)
    | (with_reducible apply OnlyTouches.after (State.lookup_touches _ _ _ _); · decide)
    | (with_reducible apply OnlyTouches.afterPair (State.lookup_touches _ _ _ _); (first | assumption | decide); (first | assumption | decide))
    | (with_reducible apply OnlyTouches.after (State.noRoute_touches _ _ _ _); · decide)
    | (with_reducible apply OnlyTouches.after (State.send_touches _ _ _ _ _); · decide)
    | with_reducible apply OnlyTouches.ite
    | with_reducible intro _
    | split
    | (with_reducible apply OnlyTouches.put_switch; · decide)
    | with_reducible refine OnlyTouches.pair (by assumption) ?_
    | dsimp only

theorem State.takeEase_touches (s : State) (source payload : Nat) : OnlyTouches [.objs, .switch] s
    (State.takeEase s source payload) := by
  unfold State.takeEase
  try dsimp only
  repeat' first
    | with_reducible exact .refl _ _
    | with_reducible assumption
    | (with_reducible apply OnlyTouches.after (State.bump_touches _ _ _); · decide)
    | with_reducible intro _
    | (with_reducible apply OnlyTouches.put_switch; · decide)
    | with_reducible refine OnlyTouches.pair (by assumption) ?_
    | dsimp only

theorem execEaseReceived_touches (source : BitVec 20) (payload : BitVec 128) (s : State) : StepTouches
    [.objs, .switch] s (execEaseReceived source payload s) := by
  unfold execEaseReceived
  try dsimp only
  repeat' first
    | with_reducible apply OnlyTouches.ofNext
    | with_reducible exact .refl _ _
    | with_reducible assumption
    | (with_reducible apply OnlyTouches.after (State.takeEase_touches _ _ _); · decide)
    | with_reducible intro _
    | with_reducible refine OnlyTouches.pair (by assumption) ?_
    | dsimp only

theorem execEaseHoldEnd_touches (leaf : Fin 4096) (s : State) : StepTouches [.objs, .ports, .switch, .coll,
    .mem, .ledger, .dict, .host] s (execEaseHoldEnd leaf s) := by
  unfold execEaseHoldEnd
  try dsimp only
  repeat' first
    | with_reducible apply OnlyTouches.ofNext
    | with_reducible exact .refl _ _
    | with_reducible assumption
    | (with_reducible apply OnlyTouches.after (State.pump_touches _); · decide)
    | with_reducible apply OnlyTouches.ite
    | with_reducible apply OnlyTouches.iteStep
    | with_reducible intro _
    | split
    | (with_reducible apply OnlyTouches.put_switch; · decide)

theorem State.settle_touches (s : State) (i : Nat) : OnlyTouches [.switch] s (State.settle s i) := by
  unfold State.settle
  try dsimp only
  repeat' first
    | with_reducible exact .refl _ _
    | with_reducible assumption
    | (with_reducible apply OnlyTouches.after (State.dropFlight_touches _ _); · decide)
    | with_reducible apply OnlyTouches.ite
    | with_reducible intro _
    | split

end Sys2Proof.Machine
end

