-- ==== Sys2Proof/Laws/KeepFabric.lean ====
section
/-! SUPPORT. The operations of Machine/Fabric.lean keep the invariant. -/

namespace Sys2Proof.Machine

theorem State.generate_keeps (s : State) (t : Nat) (f : Frame) (buffer : Option Nat) (src : Option (Nat ×
    Nat × Nat)) : Keeps s (State.generate s t f buffer src).1 := by
  unfold State.generate
  try dsimp only
  repeat' first
    | with_reducible exact .refl _
    | with_reducible assumption
    | with_reducible apply Keeps.after (State.freeBufferOpt_keeps _ _)
    | ((with_reducible apply Keeps.afterT (State.addFlight_touches _ _)); · rfl)
    | ((with_reducible apply Keeps.afterPairT (State.addFlight_touches _ _)); (· assumption); (· rfl))
    | ((with_reducible apply Keeps.afterT (State.lookup_touches _ _ _ _)); · rfl)
    | ((with_reducible apply Keeps.afterPairT (State.lookup_touches _ _ _ _)); (· assumption); (· rfl))
    | ((with_reducible apply Keeps.afterT (State.noRoute_touches _ _ _ _)); · rfl)
    | ((with_reducible apply Keeps.afterT (State.countPass_touches _ _)); · rfl)
    | with_reducible intro _
    | split
    | with_reducible apply Keeps.put_switch
    | with_reducible refine Keeps.pair (by assumption) ?_
    | dsimp only

theorem State.multicast_keeps (s : State) (t : Nat) (f : Frame) (g : Nat) (except : Option Nat) (buffer :
    Option Nat) (src : Option (Nat × Nat × Nat)) : Keeps s (State.multicast s t f g except buffer src) := by
  unfold State.multicast
  try dsimp only
  repeat' first
    | with_reducible exact .refl _
    | with_reducible assumption
    | with_reducible apply Keeps.after (State.freeBufferOpt_keeps _ _)
    | ((with_reducible apply Keeps.afterT (State.addFlight_touches _ _)); · rfl)
    | ((with_reducible apply Keeps.afterPairT (State.addFlight_touches _ _)); (· assumption); (· rfl))
    | ((with_reducible apply Keeps.afterT (State.countPass_touches _ _)); · rfl)
    | with_reducible apply Keeps.ite
    | with_reducible intro _
    | split
    | with_reducible apply Keeps.put_switch
    | with_reducible refine Keeps.pair (by assumption) ?_
    | dsimp only

theorem State.queueWait_keeps (s : State) (w : GenWait) : Keeps s (State.queueWait s w) := by
  unfold State.queueWait
  try dsimp only
  repeat' first
    | with_reducible exact .refl _
    | with_reducible assumption
    | with_reducible apply Keeps.after (State.generate_keeps _ _ _ _ _)
    | ((with_reducible apply Keeps.afterPair (State.generate_keeps _ _ _ _ _)); · assumption)
    | ((with_reducible apply Keeps.afterT (State.generateTo_touches _ _ _ _ _ _ _)); · rfl)
    | with_reducible apply Keeps.after (State.multicast_keeps _ _ _ _ _ _ _)
    | with_reducible intro _
    | split
    | with_reducible refine Keeps.pair (by assumption) ?_
    | dsimp only

theorem State.pumpList_keeps (s : State) (x0 : List GenWait) : Keeps s (State.pumpList s x0) := by
  induction x0 generalizing s with
  | nil =>
    unfold State.pumpList
    try dsimp only
    all_goals repeat' first
      | with_reducible exact .refl _
      | with_reducible assumption
      | ((with_reducible apply Keeps.afterT (State.easeTurn_touches _ _)); · rfl)
      | with_reducible apply Keeps.after (State.queueWait_keeps _ _)
      | with_reducible apply Keeps.ite
      | with_reducible intro _
      | split
      | with_reducible apply Keeps.put_switch
  | cons a l ih =>
    unfold State.pumpList
    try dsimp only
    all_goals repeat' first
      | with_reducible exact .refl _
      | with_reducible assumption
      | (with_reducible apply Keeps.after (ih _))
      | ((with_reducible apply Keeps.afterT (State.easeTurn_touches _ _)); · rfl)
      | with_reducible apply Keeps.after (State.queueWait_keeps _ _)
      | with_reducible apply Keeps.ite
      | with_reducible intro _
      | split
      | with_reducible apply Keeps.put_switch

theorem State.pump_keeps (s : State) : Keeps s (State.pump s) := by
  unfold State.pump
  try dsimp only
  repeat' first
    | with_reducible exact .refl _
    | with_reducible assumption
    | with_reducible apply Keeps.after (State.pumpList_keeps _ _)
    | with_reducible intro _
    | with_reducible apply Keeps.put_switch

theorem State.sendWait_keeps (s : State) (w : GenWait) : Keeps s (State.sendWait s w) := by
  unfold State.sendWait
  try dsimp only
  repeat' first
    | with_reducible exact .refl _
    | with_reducible assumption
    | with_reducible apply Keeps.after (State.pump_keeps _)
    | with_reducible intro _
    | with_reducible apply Keeps.put_switch

theorem State.send_keeps (s : State) (t : Nat) (f : Frame) (buffer : Option Nat) (src : Option (Nat × Nat ×
    Nat)) : Keeps s (State.send s t f buffer src) := by
  unfold State.send
  try dsimp only
  repeat' first
    | with_reducible exact .refl _
    | with_reducible assumption
    | with_reducible apply Keeps.after (State.sendWait_keeps _ _)
    | with_reducible intro _
    | with_reducible refine Keeps.pair (by assumption) ?_
    | dsimp only

theorem State.sendGroup_keeps (s : State) (t : Nat) (f : Frame) (g : Nat) (except : Option Nat) (buffer :
    Option Nat) (src : Option (Nat × Nat × Nat)) : Keeps s (State.sendGroup s t f g except buffer src) := by
  unfold State.sendGroup
  try dsimp only
  repeat' first
    | with_reducible exact .refl _
    | with_reducible assumption
    | with_reducible apply Keeps.after (State.sendWait_keeps _ _)
    | with_reducible intro _
    | with_reducible refine Keeps.pair (by assumption) ?_
    | dsimp only

theorem State.mirrorTake_keeps (s : State) (t k : Nat) (f : Frame) : Keeps s (State.mirrorTake s t k f) :=
    by
  unfold State.mirrorTake
  try dsimp only
  repeat' first
    | with_reducible exact .refl _
    | with_reducible assumption
    | ((with_reducible apply Keeps.afterT (State.bump_touches _ _ _)); · rfl)
    | with_reducible apply Keeps.after (State.write_keeps _ _ _)
    | with_reducible apply Keeps.after (State.allocService_keeps _ _ _)
    | ((with_reducible apply Keeps.afterPair (State.allocService_keeps _ _ _)); · assumption)
    | with_reducible apply Keeps.after (State.sendWait_keeps _ _)
    | with_reducible apply Keeps.ite
    | with_reducible intro _
    | split
    | with_reducible apply Keeps.put_switch
    | with_reducible refine Keeps.pair (by assumption) ?_
    | dsimp only

theorem State.mirrorIngress_keeps (s : State) (t port : Nat) (f : Frame) : Keeps s (State.mirrorIngress s t
    port f) := by
  unfold State.mirrorIngress
  try dsimp only
  repeat' first
    | with_reducible exact .refl _
    | with_reducible assumption
    | with_reducible apply Keeps.each
    | with_reducible apply Keeps.after (State.mirrorTake_keeps _ _ _ _)
    | with_reducible apply Keeps.ite
    | with_reducible intro _
    | split
    | with_reducible refine Keeps.pair (by assumption) ?_
    | dsimp only

theorem State.forwardCopied_keeps (s : State) (t port : Nat) (f g : Frame) : Keeps s (State.forwardCopied s
    t port f g) := by
  unfold State.forwardCopied
  try dsimp only
  repeat' first
    | with_reducible exact .refl _
    | with_reducible assumption
    | with_reducible apply Keeps.when
    | ((with_reducible apply Keeps.afterT (State.lookup_touches _ _ _ _)); · rfl)
    | ((with_reducible apply Keeps.afterPairT (State.lookup_touches _ _ _ _)); (· assumption); (· rfl))
    | ((with_reducible apply Keeps.afterT (State.forward_touches _ _ _ _)); · rfl)
    | with_reducible apply Keeps.after (State.mirrorIngress_keeps _ _ _ _)
    | with_reducible intro _
    | with_reducible refine Keeps.pair (by assumption) ?_
    | dsimp only

theorem State.mirrorEgress_keeps (s : State) (port : Nat) (f : Frame) : Keeps s (State.mirrorEgress s port
    f) := by
  unfold State.mirrorEgress
  try dsimp only
  repeat' first
    | with_reducible exact .refl _
    | with_reducible assumption
    | with_reducible apply Keeps.each
    | with_reducible apply Keeps.after (State.mirrorTake_keeps _ _ _ _)
    | with_reducible apply Keeps.ite
    | with_reducible intro _
    | split

theorem State.easeCheck_keeps (s : State) (port depth : Nat) (f : Frame) : Keeps s (State.easeCheck s port
    depth f) := by
  unfold State.easeCheck
  try dsimp only
  repeat' first
    | with_reducible exact .refl _
    | with_reducible assumption
    | ((with_reducible apply Keeps.afterT (State.bump_touches _ _ _)); · rfl)
    | ((with_reducible apply Keeps.afterT (State.count_touches _ _ _ _ _)); · rfl)
    | ((with_reducible apply Keeps.afterT (State.lookup_touches _ _ _ _)); · rfl)
    | ((with_reducible apply Keeps.afterPairT (State.lookup_touches _ _ _ _)); (· assumption); (· rfl))
    | ((with_reducible apply Keeps.afterT (State.noRoute_touches _ _ _ _)); · rfl)
    | with_reducible apply Keeps.after (State.send_keeps _ _ _ _ _)
    | with_reducible apply Keeps.ite
    | with_reducible intro _
    | split
    | with_reducible apply Keeps.put_switch
    | with_reducible refine Keeps.pair (by assumption) ?_
    | dsimp only

theorem execEaseHoldEnd_keeps (leaf : Fin 4096) (s : State) : StepKeeps s (execEaseHoldEnd leaf s) := by
  unfold execEaseHoldEnd
  try dsimp only
  repeat' first
    | with_reducible apply Keeps.ofNext
    | with_reducible exact .refl _
    | with_reducible assumption
    | with_reducible apply Keeps.after (State.pump_keeps _)
    | with_reducible apply Keeps.ite
    | with_reducible apply Keeps.iteStep
    | with_reducible intro _
    | split
    | with_reducible apply Keeps.put_switch

end Sys2Proof.Machine
end

