-- ==== Sys2Proof/Laws/TouchPitches.lean ====
section
/-! SUPPORT. Which parts of the state each operation of Machine/Pitches.lean changes. -/

namespace Sys2Proof.Machine

theorem State.setShare_touches (s : State) (p vc t : Nat) (x : Share) : OnlyTouches [.pitches] s
    (State.setShare s p vc t x) := by
  unfold State.setShare
  try dsimp only
  repeat' first
    | with_reducible exact .refl _ _
    | with_reducible assumption
    | with_reducible intro _
    | (with_reducible apply OnlyTouches.put_pitches; · decide)

theorem State.chargeFrame_touches (s : State) (t : Nat) (f : Frame) : OnlyTouches [.objs, .pitches] s
    (State.chargeFrame s t f) := by
  unfold State.chargeFrame
  try dsimp only
  repeat' first
    | with_reducible exact .refl _ _
    | with_reducible assumption
    | (with_reducible apply OnlyTouches.after (State.bump_touches _ _ _); · decide)
    | (with_reducible apply OnlyTouches.after (State.setShare_touches _ _ _ _ _); · decide)
    | with_reducible apply OnlyTouches.ite
    | with_reducible intro _
    | split
    | with_reducible refine OnlyTouches.pair (by assumption) ?_
    | dsimp only

theorem State.presentFrame_touches (s : State) (t : Nat) (f : Frame) : OnlyTouches [.pitches] s
    (State.presentFrame s t f) := by
  unfold State.presentFrame
  try dsimp only
  repeat' first
    | with_reducible exact .refl _ _
    | with_reducible assumption
    | (with_reducible apply OnlyTouches.after (State.setShare_touches _ _ _ _ _); · decide)
    | with_reducible intro _

theorem State.policerDrop_touches (s : State) (port : Nat) (f : Frame) : OnlyTouches [.objs, .ports,
    .ledger] s (State.policerDrop s port f) := by
  unfold State.policerDrop
  try dsimp only
  repeat' first
    | with_reducible exact .refl _ _
    | with_reducible assumption
    | (with_reducible apply OnlyTouches.after (State.bump_touches _ _ _); · decide)
    | (with_reducible apply OnlyTouches.after (State.dropped_touches _ _ _ _); · decide)
    | (with_reducible apply OnlyTouches.after (State.freeCredits_touches _ _ _ _); · decide)
    | with_reducible intro _
    | with_reducible refine OnlyTouches.pair (by assumption) ?_
    | dsimp only

theorem State.policerHold_touches (s : State) (t port : Nat) (f : Frame) : OnlyTouches [.objs, .switch,
    .pitches, .ledger] s (State.policerHold s t port f) := by
  unfold State.policerHold
  try dsimp only
  repeat' first
    | with_reducible exact .refl _ _
    | with_reducible assumption
    | (with_reducible apply OnlyTouches.after (State.bump_touches _ _ _); · decide)
    | (with_reducible apply OnlyTouches.after (State.count_touches _ _ _ _ _); · decide)
    | (with_reducible apply OnlyTouches.after (State.addFlight_touches _ _); · decide)
    | (with_reducible apply OnlyTouches.afterPair (State.addFlight_touches _ _); (first | assumption | decide); (first | assumption | decide))
    | (with_reducible apply OnlyTouches.after (State.setShare_touches _ _ _ _ _); · decide)
    | with_reducible intro _
    | split
    | with_reducible refine OnlyTouches.pair (by assumption) ?_
    | dsimp only

theorem State.unhold_touches (s : State) (p vc t i : Nat) (f : Flight) : OnlyTouches [.objs, .switch,
    .pitches] s (State.unhold s p vc t i f) := by
  unfold State.unhold
  try dsimp only
  repeat' first
    | with_reducible exact .refl _ _
    | with_reducible assumption
    | (with_reducible apply OnlyTouches.after (State.drop_touches _ _ _); · decide)
    | (with_reducible apply OnlyTouches.after (State.dropFlight_touches _ _); · decide)
    | (with_reducible apply OnlyTouches.after (State.setShare_touches _ _ _ _ _); · decide)
    | with_reducible intro _
    | with_reducible refine OnlyTouches.pair (by assumption) ?_
    | dsimp only

theorem State.redivide_touches (s : State) (p vc : Nat) : OnlyTouches [.pitches] s (State.redivide s p vc)
    := by
  unfold State.redivide
  try dsimp only
  repeat' first
    | with_reducible exact .refl _ _
    | with_reducible assumption
    | with_reducible apply OnlyTouches.each
    | with_reducible apply OnlyTouches.fold
    | with_reducible apply OnlyTouches.foldPair
    | (with_reducible apply OnlyTouches.after (State.setShare_touches _ _ _ _ _); · decide)
    | with_reducible apply OnlyTouches.ite
    | with_reducible intro _
    | split
    | with_reducible refine OnlyTouches.pair (by assumption) ?_
    | dsimp only

theorem State.settleBucket_touches (s : State) (p vc : Nat) : OnlyTouches [.pitches] s (State.settleBucket
    s p vc) := by
  unfold State.settleBucket
  try dsimp only
  repeat' first
    | with_reducible exact .refl _ _
    | with_reducible assumption
    | with_reducible apply OnlyTouches.each
    | (with_reducible apply OnlyTouches.after (State.setShare_touches _ _ _ _ _); · decide)
    | with_reducible intro _
    | with_reducible refine OnlyTouches.pair (by assumption) ?_
    | dsimp only

theorem State.redivideAll_touches (s : State) : OnlyTouches [.pitches] s (State.redivideAll s) := by
  unfold State.redivideAll
  try dsimp only
  repeat' first
    | with_reducible exact .refl _ _
    | with_reducible assumption
    | with_reducible apply OnlyTouches.fold
    | with_reducible apply OnlyTouches.foldPair
    | (with_reducible apply OnlyTouches.after (State.redivide_touches _ _ _); · decide)
    | with_reducible intro _

theorem State.admitBucket_touches (s : State) (p : Nat) (args : List Nat) (n : Nat) : OnlyTouches [.objs] s
    (State.admitBucket s p args n) := by
  unfold State.admitBucket
  try dsimp only
  repeat' first
    | with_reducible exact .refl _ _
    | with_reducible assumption
    | (with_reducible apply OnlyTouches.after (State.putObj_touches _ _ _); · decide)
    | with_reducible apply OnlyTouches.ite
    | with_reducible intro _
    | split
    | with_reducible refine OnlyTouches.pair (by assumption) ?_
    | dsimp only

theorem State.admitObjs_touches (s : State) (p : Nat) : OnlyTouches [.objs] s (State.admitObjs s p) := by
  unfold State.admitObjs
  try dsimp only
  repeat' first
    | with_reducible exact .refl _ _
    | with_reducible assumption
    | (with_reducible apply OnlyTouches.after (State.putObj_touches _ _ _); · decide)
    | with_reducible intro _
    | (with_reducible apply OnlyTouches.put_objs; · decide)
    | with_reducible refine OnlyTouches.pair (by assumption) ?_
    | dsimp only

theorem State.fillBuckets_touches (s : State) (p : Nat) : OnlyTouches [.pitches] s (State.fillBuckets s p)
    := by
  unfold State.fillBuckets
  try dsimp only
  repeat' first
    | with_reducible exact .refl _ _
    | with_reducible assumption
    | with_reducible intro _
    | (with_reducible apply OnlyTouches.put_pitches; · decide)

theorem State.admitEffect_touches (s : State) (p : Nat) : OnlyTouches [.objs, .pitches] s
    (State.admitEffect s p) := by
  unfold State.admitEffect
  try dsimp only
  repeat' first
    | with_reducible exact .refl _ _
    | with_reducible assumption
    | with_reducible apply OnlyTouches.each
    | (with_reducible apply OnlyTouches.after (State.putObj_touches _ _ _); · decide)
    | (with_reducible apply OnlyTouches.after (State.setPitch_touches _ _ _); · decide)
    | (with_reducible apply OnlyTouches.after (State.admitBucket_touches _ _ _ _); · decide)
    | (with_reducible apply OnlyTouches.after (State.admitObjs_touches _ _); · decide)
    | (with_reducible apply OnlyTouches.after (State.fillBuckets_touches _ _); · decide)
    | with_reducible apply OnlyTouches.ite
    | with_reducible intro _
    | split
    | with_reducible refine OnlyTouches.pair (by assumption) ?_
    | dsimp only

theorem execAdmissionEffect_touches (pitch : Pitch) (s : State) : StepTouches [.objs, .pitches] s
    (execAdmissionEffect pitch s) := by
  unfold execAdmissionEffect
  try dsimp only
  repeat' first
    | with_reducible apply OnlyTouches.ofNext
    | with_reducible exact .refl _ _
    | with_reducible assumption
    | (with_reducible apply OnlyTouches.after (State.admitEffect_touches _ _); · decide)
    | with_reducible intro _
    | with_reducible refine OnlyTouches.pair (by assumption) ?_
    | dsimp only

theorem State.freePitch_touches (s : State) (p : Nat) : OnlyTouches [.objs, .pitches] s (State.freePitch s
    p) := by
  unfold State.freePitch
  try dsimp only
  repeat' first
    | with_reducible exact .refl _ _
    | with_reducible assumption
    | with_reducible apply OnlyTouches.when
    | (with_reducible apply OnlyTouches.after (State.putObj_touches _ _ _); · decide)
    | (with_reducible apply OnlyTouches.after (State.setPitch_touches _ _ _); · decide)
    | with_reducible apply OnlyTouches.ite
    | with_reducible intro _
    | split
    | with_reducible refine OnlyTouches.pair (by assumption) ?_
    | dsimp only

theorem execPitchFree_touches (pitch : Pitch) (s : State) : StepTouches [.objs, .pitches] s (execPitchFree
    pitch s) := by
  unfold execPitchFree
  try dsimp only
  repeat' first
    | with_reducible apply OnlyTouches.ofNext
    | with_reducible exact .refl _ _
    | with_reducible assumption
    | (with_reducible apply OnlyTouches.after (State.freePitch_touches _ _); · decide)
    | with_reducible intro _
    | with_reducible refine OnlyTouches.pair (by assumption) ?_
    | dsimp only

theorem State.sampleVoq_touches (s : State) (key depth : Nat) (q : List Nat) : OnlyTouches [.ledger] s
    (State.sampleVoq s key depth q) := by
  unfold State.sampleVoq
  try dsimp only
  repeat' first
    | with_reducible exact .refl _ _
    | with_reducible assumption
    | with_reducible intro _
    | (with_reducible apply OnlyTouches.put_ledger; · decide)

theorem State.sampleEgress_touches (s : State) (p vc : Nat) : OnlyTouches [.ledger] s (State.sampleEgress s
    p vc) := by
  unfold State.sampleEgress
  try dsimp only
  repeat' first
    | with_reducible exact .refl _ _
    | with_reducible assumption
    | with_reducible intro _
    | (with_reducible apply OnlyTouches.put_ledger; · decide)

theorem State.sampleQueues_touches (s : State) : OnlyTouches [.ledger] s (State.sampleQueues s) := by
  unfold State.sampleQueues
  try dsimp only
  repeat' first
    | with_reducible exact .refl _ _
    | with_reducible assumption
    | with_reducible apply OnlyTouches.each
    | with_reducible apply OnlyTouches.fold
    | with_reducible apply OnlyTouches.foldPair
    | (with_reducible apply OnlyTouches.after (State.sampleVoq_touches _ _ _ _); · decide)
    | (with_reducible apply OnlyTouches.after (State.sampleEgress_touches _ _ _); · decide)
    | with_reducible apply OnlyTouches.ite
    | with_reducible intro _
    | split
    | (with_reducible apply OnlyTouches.put_ledger; · decide)
    | with_reducible refine OnlyTouches.pair (by assumption) ?_
    | dsimp only

end Sys2Proof.Machine
end

