-- ==== Sys2Proof/Laws/TouchGroups.lean ====
section
/-! SUPPORT. Which parts of the state each operation of Machine/Groups.lean changes. -/

namespace Sys2Proof.Machine

theorem State.modCtx_touches (s : State) (g seq chunk : Nat) (f : Ctx → Ctx) : OnlyTouches [.coll] s
    (State.modCtx s g seq chunk f) := by
  unfold State.modCtx
  try dsimp only
  repeat' first
    | with_reducible exact .refl _ _
    | with_reducible assumption
    | with_reducible apply OnlyTouches.ite
    | with_reducible intro _
    | split
    | (with_reducible apply OnlyTouches.put_coll; · decide)

theorem State.dropCtx_touches (s : State) (g seq chunk : Nat) : OnlyTouches [.coll] s (State.dropCtx s g
    seq chunk) := by
  unfold State.dropCtx
  try dsimp only
  repeat' first
    | with_reducible exact .refl _ _
    | with_reducible assumption
    | with_reducible intro _
    | (with_reducible apply OnlyTouches.put_coll; · decide)

theorem State.takeStaging_touches (s : State) (home g n : Nat) : OnlyTouches [.objs, .switch, .coll, .dict,
    .host] s (State.takeStaging s home g n).1 := by
  unfold State.takeStaging
  try dsimp only
  repeat' first
    | with_reducible exact .refl _ _
    | with_reducible assumption
    | (with_reducible apply OnlyTouches.after (State.takeFrom_touches _ _ _); · decide)
    | (with_reducible apply OnlyTouches.afterPair (State.takeFrom_touches _ _ _); (first | assumption | decide); (first | assumption | decide))
    | (with_reducible apply OnlyTouches.after (State.allocFrom_touches _ _ _ _); · decide)
    | (with_reducible apply OnlyTouches.afterPair (State.allocFrom_touches _ _ _ _); (first | assumption | decide); (first | assumption | decide))
    | with_reducible apply OnlyTouches.ite
    | with_reducible intro _
    | split
    | (with_reducible apply OnlyTouches.put_coll; · decide)
    | with_reducible refine OnlyTouches.pair (by assumption) ?_
    | dsimp only

theorem State.freeKept_touches (s : State) (i : Nat) : OnlyTouches [.objs, .switch, .coll, .mem, .dict,
    .host] s (State.freeKept s i) := by
  unfold State.freeKept
  try dsimp only
  repeat' first
    | with_reducible exact .refl _ _
    | with_reducible assumption
    | (with_reducible apply OnlyTouches.after (State.freeBufferOpt_touches _ _); · decide)
    | with_reducible apply OnlyTouches.ite
    | with_reducible intro _
    | split
    | (with_reducible apply OnlyTouches.put_coll; · decide)

theorem State.takeStagingOrKept_touches (s : State) (home g n : Nat) (x0 : Nat) : OnlyTouches [.objs,
    .switch, .coll, .mem, .dict, .host] s (State.takeStagingOrKept s home g n x0).1 := by
  induction x0 generalizing s home g n with
  | zero =>
    unfold State.takeStagingOrKept
    try dsimp only
    all_goals repeat' first
      | with_reducible exact .refl _ _
      | with_reducible assumption
      | (with_reducible apply OnlyTouches.after (State.takeStaging_touches _ _ _ _); · decide)
      | (with_reducible apply OnlyTouches.afterPair (State.takeStaging_touches _ _ _ _); (first | assumption | decide); (first | assumption | decide))
      | (with_reducible apply OnlyTouches.after (State.freeKept_touches _ _); · decide)
      | with_reducible intro _
      | split
      | with_reducible refine OnlyTouches.pair (by assumption) ?_
      | dsimp only
  | succ k ih =>
    unfold State.takeStagingOrKept
    try dsimp only
    all_goals repeat' first
      | with_reducible exact .refl _ _
      | with_reducible assumption
      | (with_reducible apply OnlyTouches.after (ih _ _ _ _); · decide)
      | (with_reducible apply OnlyTouches.afterPair (ih _ _ _ _); (first | assumption | decide); (first | assumption | decide))
      | (with_reducible apply OnlyTouches.after (State.takeStaging_touches _ _ _ _); · decide)
      | (with_reducible apply OnlyTouches.afterPair (State.takeStaging_touches _ _ _ _); (first | assumption | decide); (first | assumption | decide))
      | (with_reducible apply OnlyTouches.after (State.freeKept_touches _ _); · decide)
      | with_reducible intro _
      | split
      | with_reducible refine OnlyTouches.pair (by assumption) ?_
      | dsimp only

theorem State.countReceipt_touches (s : State) (r : Receipt) : OnlyTouches [.objs] s (State.countReceipt s
    r) := by
  unfold State.countReceipt
  try dsimp only
  repeat' first
    | with_reducible exact .refl _ _
    | with_reducible assumption
    | with_reducible apply OnlyTouches.when
    | (with_reducible apply OnlyTouches.after (State.bump_touches _ _ _); · decide)
    | with_reducible intro _
    | split
    | with_reducible refine OnlyTouches.pair (by assumption) ?_
    | dsimp only

theorem State.postDone_touches (s : State) (g seq : Nat) : OnlyTouches [.coll] s (State.postDone s g seq)
    := by
  unfold State.postDone
  try dsimp only
  repeat' first
    | with_reducible exact .refl _ _
    | with_reducible assumption
    | with_reducible intro _
    | (with_reducible apply OnlyTouches.put_coll; · decide)
    | with_reducible refine OnlyTouches.pair (by assumption) ?_
    | dsimp only

theorem State.sendReceipt_touches (s : State) (t g seq chunk : Nat) (r : Receipt) : OnlyTouches [.objs,
    .ports, .switch, .coll, .mem, .ledger, .dict, .host] s (State.sendReceipt s t g seq chunk r) := by
  unfold State.sendReceipt
  try dsimp only
  repeat' first
    | with_reducible exact .refl _ _
    | with_reducible assumption
    | (with_reducible apply OnlyTouches.after (State.sendGroup_touches _ _ _ _ _ _ _); · decide)
    | (with_reducible apply OnlyTouches.after (State.countReceipt_touches _ _); · decide)
    | with_reducible intro _
    | with_reducible refine OnlyTouches.pair (by assumption) ?_
    | dsimp only

theorem State.refuse_touches (s : State) (t : Nat) (f : Frame) (cause : Nat) : OnlyTouches [.objs, .ports,
    .switch, .coll, .mem, .ledger, .dict, .host] s (State.refuse s t f cause) := by
  unfold State.refuse
  try dsimp only
  repeat' first
    | with_reducible exact .refl _ _
    | with_reducible assumption
    | (with_reducible apply OnlyTouches.after (State.bump_touches _ _ _); · decide)
    | (with_reducible apply OnlyTouches.after (State.dropped_touches _ _ _ _); · decide)
    | (with_reducible apply OnlyTouches.after (State.send_touches _ _ _ _ _); · decide)
    | with_reducible apply OnlyTouches.ite
    | with_reducible intro _
    | split
    | (with_reducible apply OnlyTouches.put_coll; · decide)
    | with_reducible refine OnlyTouches.pair (by assumption) ?_
    | dsimp only

theorem State.writeRing_touches (s : State) (g : Nat) (q : List QEntry) : OnlyTouches [.mem] s
    (State.writeRing s g q) := by
  unfold State.writeRing
  try dsimp only
  repeat' first
    | with_reducible exact .refl _ _
    | with_reducible assumption
    | with_reducible apply OnlyTouches.fold
    | with_reducible apply OnlyTouches.foldPair
    | (with_reducible apply OnlyTouches.after (State.writeNat_touches _ _ _ _); · decide)
    | with_reducible intro _
    | split
    | with_reducible refine OnlyTouches.pair (by assumption) ?_
    | dsimp only

theorem State.setQueue_touches (s : State) (g : Nat) (q : List QEntry) : OnlyTouches [.coll, .mem] s
    (State.setQueue s g q) := by
  unfold State.setQueue
  try dsimp only
  repeat' first
    | with_reducible exact .refl _ _
    | with_reducible assumption
    | (with_reducible apply OnlyTouches.after (State.writeRing_touches _ _ _); · decide)
    | with_reducible intro _
    | (with_reducible apply OnlyTouches.put_coll; · decide)

theorem State.modEntry_touches (s : State) (g seq : Nat) (f : QEntry → QEntry) : OnlyTouches [.coll, .mem]
    s (State.modEntry s g seq f) := by
  unfold State.modEntry
  try dsimp only
  repeat' first
    | with_reducible exact .refl _ _
    | with_reducible assumption
    | (with_reducible apply OnlyTouches.after (State.setQueue_touches _ _ _); · decide)
    | with_reducible apply OnlyTouches.ite
    | with_reducible intro _
    | split
    | with_reducible refine OnlyTouches.pair (by assumption) ?_
    | dsimp only

theorem State.maybeComplete_touches (s : State) (g seq : Nat) : OnlyTouches [.coll, .mem] s
    (State.maybeComplete s g seq) := by
  unfold State.maybeComplete
  try dsimp only
  repeat' first
    | with_reducible exact .refl _ _
    | with_reducible assumption
    | (with_reducible apply OnlyTouches.after (State.modGroup_touches _ _ _); · decide)
    | (with_reducible apply OnlyTouches.after (State.modEntry_touches _ _ _ _); · decide)
    | with_reducible apply OnlyTouches.ite
    | with_reducible intro _
    | split
    | with_reducible refine OnlyTouches.pair (by assumption) ?_
    | dsimp only

theorem State.takeDone_touches (s : State) (g seq : Nat) : OnlyTouches [.coll, .mem] s (State.takeDone s g
    seq) := by
  unfold State.takeDone
  try dsimp only
  repeat' first
    | with_reducible exact .refl _ _
    | with_reducible assumption
    | (with_reducible apply OnlyTouches.after (State.modEntry_touches _ _ _ _); · decide)
    | (with_reducible apply OnlyTouches.after (State.maybeComplete_touches _ _ _); · decide)
    | with_reducible apply OnlyTouches.ite
    | with_reducible intro _
    | split
    | with_reducible refine OnlyTouches.pair (by assumption) ?_
    | dsimp only

theorem execDoneIncrement_touches (g : Group) (seq : BitVec 32) (s : State) : StepTouches [.coll, .mem] s
    (execDoneIncrement g seq s) := by
  unfold execDoneIncrement
  try dsimp only
  repeat' first
    | with_reducible apply OnlyTouches.ofNext
    | with_reducible exact .refl _ _
    | with_reducible assumption
    | (with_reducible apply OnlyTouches.after (State.takeDone_touches _ _ _); · decide)
    | with_reducible apply OnlyTouches.ite
    | with_reducible apply OnlyTouches.iteStep
    | with_reducible intro _
    | split
    | (with_reducible apply OnlyTouches.put_coll; · decide)
    | with_reducible refine OnlyTouches.pair (by assumption) ?_
    | dsimp only

theorem State.arriveDone_touches (s : State) : OnlyTouches [.coll, .mem] s (State.arriveDone s) := by
  unfold State.arriveDone
  try dsimp only
  repeat' first
    | with_reducible exact .refl _ _
    | with_reducible assumption
    | with_reducible apply OnlyTouches.fold
    | with_reducible apply OnlyTouches.foldPair
    | (with_reducible apply OnlyTouches.after (State.takeDone_touches _ _ _); · decide)
    | with_reducible intro _
    | (with_reducible apply OnlyTouches.put_coll; · decide)

theorem State.setSink_touches (s : State) (g t : Nat) (q : List SinkEntry) : OnlyTouches [.coll] s
    (State.setSink s g t q) := by
  unfold State.setSink
  try dsimp only
  repeat' first
    | with_reducible exact .refl _ _
    | with_reducible assumption
    | with_reducible apply OnlyTouches.ite
    | with_reducible intro _
    | split
    | (with_reducible apply OnlyTouches.put_coll; · decide)

theorem State.pushSink_touches (s : State) (g t : Nat) (e : SinkEntry) : OnlyTouches [.coll] s
    (State.pushSink s g t e) := by
  unfold State.pushSink
  try dsimp only
  repeat' first
    | with_reducible exact .refl _ _
    | with_reducible assumption
    | (with_reducible apply OnlyTouches.after (State.setSink_touches _ _ _ _); · decide)
    | with_reducible intro _
    | with_reducible refine OnlyTouches.pair (by assumption) ?_
    | dsimp only

theorem State.staleChunk_touches (s : State) (c : Ctx) (partner : Bool) : OnlyTouches [.objs, .ports,
    .switch, .coll, .mem, .ledger, .dict, .host] s (State.staleChunk s c partner) := by
  unfold State.staleChunk
  try dsimp only
  repeat' first
    | with_reducible exact .refl _ _
    | with_reducible assumption
    | (with_reducible apply OnlyTouches.after (State.bump_touches _ _ _); · decide)
    | (with_reducible apply OnlyTouches.after (State.freeBufferOpt_touches _ _); · decide)
    | (with_reducible apply OnlyTouches.after (State.postDone_touches _ _ _); · decide)
    | (with_reducible apply OnlyTouches.after (State.sendReceipt_touches _ _ _ _ _ _); · decide)
    | with_reducible apply OnlyTouches.ite
    | with_reducible intro _
    | split
    | with_reducible refine OnlyTouches.pair (by assumption) ?_
    | dsimp only

theorem State.dropStaged_touches (s : State) (c : Ctx) : OnlyTouches [.coll] s (State.dropStaged s c) := by
  unfold State.dropStaged
  try dsimp only
  repeat' first
    | with_reducible exact .refl _ _
    | with_reducible assumption
    | with_reducible intro _
    | (with_reducible apply OnlyTouches.put_coll; · decide)

theorem State.trySink_touches (s : State) (c : Ctx) : OnlyTouches [.objs, .ports, .switch, .coll, .mem,
    .ledger, .dict, .host] s (State.trySink s c) := by
  unfold State.trySink
  try dsimp only
  repeat' first
    | with_reducible exact .refl _ _
    | with_reducible assumption
    | (with_reducible apply OnlyTouches.after (State.postDone_touches _ _ _); · decide)
    | (with_reducible apply OnlyTouches.after (State.pushSink_touches _ _ _ _); · decide)
    | (with_reducible apply OnlyTouches.after (State.staleChunk_touches _ _ _); · decide)
    | (with_reducible apply OnlyTouches.after (State.dropStaged_touches _ _); · decide)
    | with_reducible apply OnlyTouches.ite
    | with_reducible intro _
    | split
    | with_reducible refine OnlyTouches.pair (by assumption) ?_
    | dsimp only

theorem State.stageChunk_touches (s : State) (c : Ctx) : OnlyTouches [.objs, .ports, .switch, .coll, .mem,
    .ledger, .dict, .host] s (State.stageChunk s c) := by
  unfold State.stageChunk
  try dsimp only
  repeat' first
    | with_reducible exact .refl _ _
    | with_reducible assumption
    | with_reducible apply OnlyTouches.when
    | (with_reducible apply OnlyTouches.after (State.bump_touches _ _ _); · decide)
    | (with_reducible apply OnlyTouches.after (State.trySink_touches _ _); · decide)
    | with_reducible intro _
    | (with_reducible apply OnlyTouches.put_coll; · decide)
    | with_reducible refine OnlyTouches.pair (by assumption) ?_
    | dsimp only

theorem execSinkPost_touches (g : Group) (seq : BitVec 32) (chunk : BitVec 24) (s : State) : StepTouches
    [.objs, .ports, .switch, .coll, .mem, .ledger, .dict, .host] s (execSinkPost g seq chunk s) := by
  unfold execSinkPost
  try dsimp only
  repeat' first
    | with_reducible apply OnlyTouches.ofNext
    | with_reducible exact .refl _ _
    | with_reducible assumption
    | (with_reducible apply OnlyTouches.after (State.trySink_touches _ _); · decide)
    | with_reducible intro _
    | split

theorem State.sendOutputs_touches (s : State) (t g : Nat) (fs : List Frame) (a : Option Nat) (buffer :
    Option Nat) : OnlyTouches [.objs, .ports, .switch, .coll, .mem, .ledger, .dict, .host] s
    (State.sendOutputs s t g fs a buffer) := by
  unfold State.sendOutputs
  try dsimp only
  repeat' first
    | with_reducible exact .refl _ _
    | with_reducible assumption
    | with_reducible apply OnlyTouches.fold
    | with_reducible apply OnlyTouches.foldPair
    | (with_reducible apply OnlyTouches.after (State.sendGroup_touches _ _ _ _ _ _ _); · decide)
    | with_reducible apply OnlyTouches.ite
    | with_reducible intro _
    | split
    | with_reducible refine OnlyTouches.pair (by assumption) ?_
    | dsimp only

theorem State.sendCopy_touches (s : State) (t g seq chunk receipt : Nat) (data : List Byte) : OnlyTouches
    [.objs, .ports, .switch, .coll, .mem, .ledger, .dict, .host] s (State.sendCopy s t g seq chunk receipt
    data) := by
  unfold State.sendCopy
  try dsimp only
  repeat' first
    | with_reducible exact .refl _ _
    | with_reducible assumption
    | with_reducible apply OnlyTouches.fold
    | with_reducible apply OnlyTouches.foldPair
    | (with_reducible apply OnlyTouches.after (State.send_touches _ _ _ _ _); · decide)
    | with_reducible apply OnlyTouches.ite
    | with_reducible intro _
    | split
    | with_reducible refine OnlyTouches.pair (by assumption) ?_
    | dsimp only

end Sys2Proof.Machine
end

