-- ==== Sys2Proof/Laws/KeepGroups.lean ====
section
/-! SUPPORT. The operations of Machine/Groups.lean keep the invariant. -/

namespace Sys2Proof.Machine

theorem State.takeStaging_keeps (s : State) (home g n : Nat) : Keeps s (State.takeStaging s home g n).1 :=
    by
  unfold State.takeStaging
  try dsimp only
  repeat' first
    | with_reducible exact .refl _
    | with_reducible assumption
    | with_reducible apply Keeps.after (State.takeFrom_keeps _ _ _)
    | ((with_reducible apply Keeps.afterPair (State.takeFrom_keeps _ _ _)); · assumption)
    | with_reducible apply Keeps.after (State.allocFrom_keeps _ _ _ _)
    | ((with_reducible apply Keeps.afterPair (State.allocFrom_keeps _ _ _ _)); · assumption)
    | with_reducible apply Keeps.ite
    | with_reducible intro _
    | split
    | with_reducible apply Keeps.put_coll
    | with_reducible refine Keeps.pair (by assumption) ?_
    | dsimp only

theorem State.freeKept_keeps (s : State) (i : Nat) : Keeps s (State.freeKept s i) := by
  unfold State.freeKept
  try dsimp only
  repeat' first
    | with_reducible exact .refl _
    | with_reducible assumption
    | with_reducible apply Keeps.after (State.freeBufferOpt_keeps _ _)
    | with_reducible apply Keeps.ite
    | with_reducible intro _
    | split
    | with_reducible apply Keeps.put_coll

theorem State.takeStagingOrKept_keeps (s : State) (home g n : Nat) (x0 : Nat) : Keeps s
    (State.takeStagingOrKept s home g n x0).1 := by
  induction x0 generalizing s home g n with
  | zero =>
    unfold State.takeStagingOrKept
    try dsimp only
    all_goals repeat' first
      | with_reducible exact .refl _
      | with_reducible assumption
      | with_reducible apply Keeps.after (State.takeStaging_keeps _ _ _ _)
      | ((with_reducible apply Keeps.afterPair (State.takeStaging_keeps _ _ _ _)); · assumption)
      | with_reducible apply Keeps.after (State.freeKept_keeps _ _)
      | with_reducible intro _
      | split
      | with_reducible refine Keeps.pair (by assumption) ?_
      | dsimp only
  | succ k ih =>
    unfold State.takeStagingOrKept
    try dsimp only
    all_goals repeat' first
      | with_reducible exact .refl _
      | with_reducible assumption
      | (with_reducible apply Keeps.after (ih _ _ _ _))
      | (with_reducible apply Keeps.afterPair (ih _ _ _ _); assumption)
      | with_reducible apply Keeps.after (State.takeStaging_keeps _ _ _ _)
      | ((with_reducible apply Keeps.afterPair (State.takeStaging_keeps _ _ _ _)); · assumption)
      | with_reducible apply Keeps.after (State.freeKept_keeps _ _)
      | with_reducible intro _
      | split
      | with_reducible refine Keeps.pair (by assumption) ?_
      | dsimp only

theorem State.sendReceipt_keeps (s : State) (t g seq chunk : Nat) (r : Receipt) : Keeps s
    (State.sendReceipt s t g seq chunk r) := by
  unfold State.sendReceipt
  try dsimp only
  repeat' first
    | with_reducible exact .refl _
    | with_reducible assumption
    | with_reducible apply Keeps.after (State.sendGroup_keeps _ _ _ _ _ _ _)
    | ((with_reducible apply Keeps.afterT (State.countReceipt_touches _ _)); · rfl)
    | with_reducible intro _
    | with_reducible refine Keeps.pair (by assumption) ?_
    | dsimp only

theorem State.refuse_keeps (s : State) (t : Nat) (f : Frame) (cause : Nat) : Keeps s (State.refuse s t f
    cause) := by
  unfold State.refuse
  try dsimp only
  repeat' first
    | with_reducible exact .refl _
    | with_reducible assumption
    | ((with_reducible apply Keeps.afterT (State.bump_touches _ _ _)); · rfl)
    | ((with_reducible apply Keeps.afterT (State.dropped_touches _ _ _ _)); · rfl)
    | with_reducible apply Keeps.after (State.send_keeps _ _ _ _ _)
    | with_reducible apply Keeps.ite
    | with_reducible intro _
    | split
    | with_reducible apply Keeps.put_coll
    | with_reducible refine Keeps.pair (by assumption) ?_
    | dsimp only

theorem State.writeRing_keeps (s : State) (g : Nat) (q : List QEntry) : Keeps s (State.writeRing s g q) :=
    by
  unfold State.writeRing
  try dsimp only
  repeat' first
    | with_reducible exact .refl _
    | with_reducible assumption
    | with_reducible apply Keeps.fold
    | with_reducible apply Keeps.foldPair
    | with_reducible apply Keeps.after (State.writeNat_keeps _ _ _ _)
    | with_reducible intro _
    | split
    | with_reducible refine Keeps.pair (by assumption) ?_
    | dsimp only

theorem State.setQueue_keeps (s : State) (g : Nat) (q : List QEntry) : Keeps s (State.setQueue s g q) := by
  unfold State.setQueue
  try dsimp only
  repeat' first
    | with_reducible exact .refl _
    | with_reducible assumption
    | with_reducible apply Keeps.after (State.writeRing_keeps _ _ _)
    | with_reducible intro _
    | with_reducible apply Keeps.put_coll

theorem State.modEntry_keeps (s : State) (g seq : Nat) (f : QEntry → QEntry) : Keeps s (State.modEntry s g
    seq f) := by
  unfold State.modEntry
  try dsimp only
  repeat' first
    | with_reducible exact .refl _
    | with_reducible assumption
    | with_reducible apply Keeps.after (State.setQueue_keeps _ _ _)
    | with_reducible apply Keeps.ite
    | with_reducible intro _
    | split
    | with_reducible refine Keeps.pair (by assumption) ?_
    | dsimp only

theorem State.maybeComplete_keeps (s : State) (g seq : Nat) : Keeps s (State.maybeComplete s g seq) := by
  unfold State.maybeComplete
  try dsimp only
  repeat' first
    | with_reducible exact .refl _
    | with_reducible assumption
    | ((with_reducible apply Keeps.afterT (State.modGroup_touches _ _ _)); · rfl)
    | with_reducible apply Keeps.after (State.modEntry_keeps _ _ _ _)
    | with_reducible apply Keeps.ite
    | with_reducible intro _
    | split
    | with_reducible refine Keeps.pair (by assumption) ?_
    | dsimp only

theorem State.takeDone_keeps (s : State) (g seq : Nat) : Keeps s (State.takeDone s g seq) := by
  unfold State.takeDone
  try dsimp only
  repeat' first
    | with_reducible exact .refl _
    | with_reducible assumption
    | with_reducible apply Keeps.after (State.modEntry_keeps _ _ _ _)
    | with_reducible apply Keeps.after (State.maybeComplete_keeps _ _ _)
    | with_reducible apply Keeps.ite
    | with_reducible intro _
    | split
    | with_reducible refine Keeps.pair (by assumption) ?_
    | dsimp only

theorem execDoneIncrement_keeps (g : Group) (seq : BitVec 32) (s : State) : StepKeeps s (execDoneIncrement
    g seq s) := by
  unfold execDoneIncrement
  try dsimp only
  repeat' first
    | with_reducible apply Keeps.ofNext
    | with_reducible exact .refl _
    | with_reducible assumption
    | with_reducible apply Keeps.after (State.takeDone_keeps _ _ _)
    | with_reducible apply Keeps.ite
    | with_reducible apply Keeps.iteStep
    | with_reducible intro _
    | split
    | with_reducible apply Keeps.put_coll
    | with_reducible refine Keeps.pair (by assumption) ?_
    | dsimp only

theorem State.arriveDone_keeps (s : State) : Keeps s (State.arriveDone s) := by
  unfold State.arriveDone
  try dsimp only
  repeat' first
    | with_reducible exact .refl _
    | with_reducible assumption
    | with_reducible apply Keeps.fold
    | with_reducible apply Keeps.foldPair
    | with_reducible apply Keeps.after (State.takeDone_keeps _ _ _)
    | with_reducible intro _
    | with_reducible apply Keeps.put_coll

theorem State.staleChunk_keeps (s : State) (c : Ctx) (partner : Bool) : Keeps s (State.staleChunk s c
    partner) := by
  unfold State.staleChunk
  try dsimp only
  repeat' first
    | with_reducible exact .refl _
    | with_reducible assumption
    | ((with_reducible apply Keeps.afterT (State.bump_touches _ _ _)); · rfl)
    | with_reducible apply Keeps.after (State.freeBufferOpt_keeps _ _)
    | ((with_reducible apply Keeps.afterT (State.postDone_touches _ _ _)); · rfl)
    | with_reducible apply Keeps.after (State.sendReceipt_keeps _ _ _ _ _ _)
    | with_reducible apply Keeps.ite
    | with_reducible intro _
    | split
    | with_reducible refine Keeps.pair (by assumption) ?_
    | dsimp only

theorem State.trySink_keeps (s : State) (c : Ctx) : Keeps s (State.trySink s c) := by
  unfold State.trySink
  try dsimp only
  repeat' first
    | with_reducible exact .refl _
    | with_reducible assumption
    | ((with_reducible apply Keeps.afterT (State.postDone_touches _ _ _)); · rfl)
    | ((with_reducible apply Keeps.afterT (State.pushSink_touches _ _ _ _)); · rfl)
    | with_reducible apply Keeps.after (State.staleChunk_keeps _ _ _)
    | ((with_reducible apply Keeps.afterT (State.dropStaged_touches _ _)); · rfl)
    | with_reducible apply Keeps.ite
    | with_reducible intro _
    | split
    | with_reducible refine Keeps.pair (by assumption) ?_
    | dsimp only

theorem State.stageChunk_keeps (s : State) (c : Ctx) : Keeps s (State.stageChunk s c) := by
  unfold State.stageChunk
  try dsimp only
  repeat' first
    | with_reducible exact .refl _
    | with_reducible assumption
    | with_reducible apply Keeps.when
    | ((with_reducible apply Keeps.afterT (State.bump_touches _ _ _)); · rfl)
    | with_reducible apply Keeps.after (State.trySink_keeps _ _)
    | with_reducible intro _
    | with_reducible apply Keeps.put_coll
    | with_reducible refine Keeps.pair (by assumption) ?_
    | dsimp only

theorem execSinkPost_keeps (g : Group) (seq : BitVec 32) (chunk : BitVec 24) (s : State) : StepKeeps s
    (execSinkPost g seq chunk s) := by
  unfold execSinkPost
  try dsimp only
  repeat' first
    | with_reducible apply Keeps.ofNext
    | with_reducible exact .refl _
    | with_reducible assumption
    | with_reducible apply Keeps.after (State.trySink_keeps _ _)
    | with_reducible intro _
    | split

theorem State.sendOutputs_keeps (s : State) (t g : Nat) (fs : List Frame) (a : Option Nat) (buffer : Option
    Nat) : Keeps s (State.sendOutputs s t g fs a buffer) := by
  unfold State.sendOutputs
  try dsimp only
  repeat' first
    | with_reducible exact .refl _
    | with_reducible assumption
    | with_reducible apply Keeps.fold
    | with_reducible apply Keeps.foldPair
    | with_reducible apply Keeps.after (State.sendGroup_keeps _ _ _ _ _ _ _)
    | with_reducible apply Keeps.ite
    | with_reducible intro _
    | split
    | with_reducible refine Keeps.pair (by assumption) ?_
    | dsimp only

theorem State.sendCopy_keeps (s : State) (t g seq chunk receipt : Nat) (data : List Byte) : Keeps s
    (State.sendCopy s t g seq chunk receipt data) := by
  unfold State.sendCopy
  try dsimp only
  repeat' first
    | with_reducible exact .refl _
    | with_reducible assumption
    | with_reducible apply Keeps.fold
    | with_reducible apply Keeps.foldPair
    | with_reducible apply Keeps.after (State.send_keeps _ _ _ _ _)
    | with_reducible apply Keeps.ite
    | with_reducible intro _
    | split
    | with_reducible refine Keeps.pair (by assumption) ?_
    | dsimp only

end Sys2Proof.Machine
end

