-- ==== Sys2Proof/Laws/TouchDram.lean ====
section
/-! SUPPORT. Which parts of the state each operation of Machine/Dram.lean changes. -/

namespace Sys2Proof.Machine

theorem State.storeParts_touches (s : State) (a : Nat) (bs : List Byte) (x0 : Nat) : OnlyTouches [.objs,
    .mem] s (State.storeParts s a bs x0) := by
  induction x0 generalizing s a bs with
  | zero =>
    unfold State.storeParts
    try dsimp only
    all_goals repeat' first
      | with_reducible exact .refl _ _
      | with_reducible assumption
      | (with_reducible apply OnlyTouches.after (State.bump_touches _ _ _); · decide)
      | (with_reducible apply OnlyTouches.after (State.drop_touches _ _ _); · decide)
      | (with_reducible apply OnlyTouches.after (State.write_touches _ _ _); · decide)
      | with_reducible apply OnlyTouches.ite
      | with_reducible intro _
      | split
  | succ k ih =>
    unfold State.storeParts
    try dsimp only
    all_goals repeat' first
      | with_reducible exact .refl _ _
      | with_reducible assumption
      | (with_reducible apply OnlyTouches.after (ih _ _ _); · decide)
      | (with_reducible apply OnlyTouches.after (State.bump_touches _ _ _); · decide)
      | (with_reducible apply OnlyTouches.after (State.drop_touches _ _ _); · decide)
      | (with_reducible apply OnlyTouches.after (State.write_touches _ _ _); · decide)
      | with_reducible apply OnlyTouches.ite
      | with_reducible intro _
      | split

theorem State.store_touches (s : State) (a : Nat) (bs : List Byte) : OnlyTouches [.objs, .mem] s
    (State.store s a bs) := by
  unfold State.store
  try dsimp only
  repeat' first
    | with_reducible exact .refl _ _
    | with_reducible assumption
    | (with_reducible apply OnlyTouches.after (State.storeParts_touches _ _ _ _); · decide)
    | with_reducible intro _

theorem State.poisonUnit_touches (s : State) (a : Nat) : OnlyTouches [.mem] s (State.poisonUnit s a) := by
  unfold State.poisonUnit
  try dsimp only
  repeat' first
    | with_reducible exact .refl _ _
    | with_reducible assumption
    | with_reducible apply OnlyTouches.ite
    | with_reducible intro _
    | split
    | (with_reducible apply OnlyTouches.put_mem; · decide)

theorem State.countChannel_touches (s : State) (c units : Nat) (wr : Bool) (e : EventAttrs) : OnlyTouches
    [.objs, .ledger] s (State.countChannel s c units wr e) := by
  unfold State.countChannel
  try dsimp only
  repeat' first
    | with_reducible exact .refl _ _
    | with_reducible assumption
    | (with_reducible apply OnlyTouches.after (State.bump_touches _ _ _); · decide)
    | (with_reducible apply OnlyTouches.after (State.count_touches _ _ _ _ _); · decide)
    | with_reducible apply OnlyTouches.ite
    | with_reducible intro _
    | split
    | with_reducible refine OnlyTouches.pair (by assumption) ?_
    | dsimp only

theorem State.countUnits_touches (s : State) (a n : Nat) (wr : Bool) (e : EventAttrs) : OnlyTouches [.objs,
    .ledger] s (State.countUnits s a n wr e) := by
  unfold State.countUnits
  try dsimp only
  repeat' first
    | with_reducible exact .refl _ _
    | with_reducible assumption
    | with_reducible apply OnlyTouches.fold
    | with_reducible apply OnlyTouches.foldPair
    | (with_reducible apply OnlyTouches.after (State.countChannel_touches _ _ _ _ _); · decide)
    | with_reducible apply OnlyTouches.ite
    | with_reducible intro _
    | split

theorem State.countAccess_touches (s : State) (t a n : Nat) (wr : Bool) (e : EventAttrs) : OnlyTouches
    [.objs, .ledger] s (State.countAccess s t a n wr e) := by
  unfold State.countAccess
  try dsimp only
  repeat' first
    | with_reducible exact .refl _ _
    | with_reducible assumption
    | (with_reducible apply OnlyTouches.after (State.count_touches _ _ _ _ _); · decide)
    | (with_reducible apply OnlyTouches.after (State.countUnits_touches _ _ _ _ _); · decide)
    | with_reducible apply OnlyTouches.ite
    | with_reducible intro _
    | split
    | with_reducible refine OnlyTouches.pair (by assumption) ?_
    | dsimp only

theorem State.countFirmware_touches (s : State) (a n : Nat) (wr : Bool) : OnlyTouches [.objs, .ledger] s
    (State.countFirmware s a n wr) := by
  unfold State.countFirmware
  try dsimp only
  repeat' first
    | with_reducible exact .refl _ _
    | with_reducible assumption
    | (with_reducible apply OnlyTouches.after (State.countUnits_touches _ _ _ _ _); · decide)
    | with_reducible intro _

theorem State.countAdder_touches (s : State) (a : Nat) (e : EventAttrs) : OnlyTouches [.objs, .ledger] s
    (State.countAdder s a e) := by
  unfold State.countAdder
  try dsimp only
  repeat' first
    | with_reducible exact .refl _ _
    | with_reducible assumption
    | (with_reducible apply OnlyTouches.after (State.bump_touches _ _ _); · decide)
    | (with_reducible apply OnlyTouches.after (State.count_touches _ _ _ _ _); · decide)
    | (with_reducible apply OnlyTouches.after (State.countChannel_touches _ _ _ _ _); · decide)
    | with_reducible intro _
    | split
    | with_reducible refine OnlyTouches.pair (by assumption) ?_
    | dsimp only

theorem State.adderMismatch_touches (s : State) (a : Nat) (e : EventAttrs) : OnlyTouches [.objs, .ledger,
    .dict, .host] s (State.adderMismatch s a e) := by
  unfold State.adderMismatch
  try dsimp only
  repeat' first
    | with_reducible exact .refl _ _
    | with_reducible assumption
    | (with_reducible apply OnlyTouches.after (State.bump_touches _ _ _); · decide)
    | (with_reducible apply OnlyTouches.after (State.eventObj_touches _ _ _ _); · decide)
    | (with_reducible apply OnlyTouches.after (State.count_touches _ _ _ _ _); · decide)
    | with_reducible intro _
    | split
    | with_reducible refine OnlyTouches.pair (by assumption) ?_
    | dsimp only

theorem State.sramFixed_touches (s : State) (t : Nat) : OnlyTouches [.objs, .ledger] s (State.sramFixed s
    t) := by
  unfold State.sramFixed
  try dsimp only
  repeat' first
    | with_reducible exact .refl _ _
    | with_reducible assumption
    | (with_reducible apply OnlyTouches.after (State.bump_touches _ _ _); · decide)
    | (with_reducible apply OnlyTouches.after (State.count_touches _ _ _ _ _); · decide)
    | with_reducible intro _
    | with_reducible refine OnlyTouches.pair (by assumption) ?_
    | dsimp only

theorem State.sramBad_touches (s : State) (t : Nat) : OnlyTouches [.objs, .ledger, .dict, .host] s
    (State.sramBad s t) := by
  unfold State.sramBad
  try dsimp only
  repeat' first
    | with_reducible exact .refl _ _
    | with_reducible assumption
    | (with_reducible apply OnlyTouches.after (State.bump_touches _ _ _); · decide)
    | (with_reducible apply OnlyTouches.after (State.eventObj_touches _ _ _ _); · decide)
    | (with_reducible apply OnlyTouches.after (State.count_touches _ _ _ _ _); · decide)
    | with_reducible intro _
    | with_reducible refine OnlyTouches.pair (by assumption) ?_
    | dsimp only

end Sys2Proof.Machine
end

