-- ==== Sys2Proof/Laws/KeepDram.lean ====
section
/-! SUPPORT. The operations of Machine/Dram.lean keep the invariant. -/

namespace Sys2Proof.Machine

theorem State.storeParts_keeps (s : State) (a : Nat) (bs : List Byte) (x0 : Nat) : Keeps s
    (State.storeParts s a bs x0) := by
  induction x0 generalizing s a bs with
  | zero =>
    unfold State.storeParts
    try dsimp only
    all_goals repeat' first
      | with_reducible exact .refl _
      | with_reducible assumption
      | ((with_reducible apply Keeps.afterT (State.bump_touches _ _ _)); · rfl)
      | ((with_reducible apply Keeps.afterT (State.drop_touches _ _ _)); · rfl)
      | with_reducible apply Keeps.after (State.write_keeps _ _ _)
      | with_reducible apply Keeps.ite
      | with_reducible intro _
      | split
  | succ k ih =>
    unfold State.storeParts
    try dsimp only
    all_goals repeat' first
      | with_reducible exact .refl _
      | with_reducible assumption
      | (with_reducible apply Keeps.after (ih _ _ _))
      | ((with_reducible apply Keeps.afterT (State.bump_touches _ _ _)); · rfl)
      | ((with_reducible apply Keeps.afterT (State.drop_touches _ _ _)); · rfl)
      | with_reducible apply Keeps.after (State.write_keeps _ _ _)
      | with_reducible apply Keeps.ite
      | with_reducible intro _
      | split

theorem State.store_keeps (s : State) (a : Nat) (bs : List Byte) : Keeps s (State.store s a bs) := by
  unfold State.store
  try dsimp only
  repeat' first
    | with_reducible exact .refl _
    | with_reducible assumption
    | with_reducible apply Keeps.after (State.storeParts_keeps _ _ _ _)
    | with_reducible intro _

theorem State.poisonUnit_keeps (s : State) (a : Nat) : Keeps s (State.poisonUnit s a) := by
  unfold State.poisonUnit
  try dsimp only
  repeat' first
    | with_reducible exact .refl _
    | with_reducible assumption
    | with_reducible apply Keeps.ite
    | with_reducible intro _
    | split
    | ((with_reducible apply Keeps.put_mem); · exact fun i => ⟨i.cells, i.tables⟩)

theorem State.adderMismatch_keeps (s : State) (a : Nat) (e : EventAttrs) : Keeps s (State.adderMismatch s a
    e) := by
  unfold State.adderMismatch
  try dsimp only
  repeat' first
    | with_reducible exact .refl _
    | with_reducible assumption
    | ((with_reducible apply Keeps.afterT (State.bump_touches _ _ _)); · rfl)
    | with_reducible apply Keeps.after (State.eventObj_keeps _ _ _ _)
    | ((with_reducible apply Keeps.afterT (State.count_touches _ _ _ _ _)); · rfl)
    | with_reducible intro _
    | split
    | with_reducible refine Keeps.pair (by assumption) ?_
    | dsimp only

theorem State.sramBad_keeps (s : State) (t : Nat) : Keeps s (State.sramBad s t) := by
  unfold State.sramBad
  try dsimp only
  repeat' first
    | with_reducible exact .refl _
    | with_reducible assumption
    | ((with_reducible apply Keeps.afterT (State.bump_touches _ _ _)); · rfl)
    | with_reducible apply Keeps.after (State.eventObj_keeps _ _ _ _)
    | ((with_reducible apply Keeps.afterT (State.count_touches _ _ _ _ _)); · rfl)
    | with_reducible intro _
    | with_reducible refine Keeps.pair (by assumption) ?_
    | dsimp only

end Sys2Proof.Machine
end

