-- ==== Sys2Proof/Laws/TouchSlots.lean ====
section
/-! SUPPORT. Which parts of the state each operation of Machine/Slots.lean changes. -/

namespace Sys2Proof.Machine

theorem State.modToken_touches (s : State) (token : Nat) (f : TokenRec → TokenRec) : OnlyTouches [.dict] s
    (State.modToken s token f) := by
  unfold State.modToken
  try dsimp only
  repeat' first
    | with_reducible exact .refl _ _
    | with_reducible assumption
    | with_reducible apply OnlyTouches.ite
    | with_reducible intro _
    | split
    | (with_reducible apply OnlyTouches.put_dict; · decide)

theorem State.track_touches (s : State) (token : Nat) : OnlyTouches [.dict] s (State.track s token) := by
  unfold State.track
  try dsimp only
  repeat' first
    | with_reducible exact .refl _ _
    | with_reducible assumption
    | with_reducible apply OnlyTouches.ite
    | with_reducible intro _
    | split
    | (with_reducible apply OnlyTouches.put_dict; · decide)

theorem State.completionEvent_touches (s : State) (k token : Nat) : OnlyTouches [.objs, .dict, .host] s
    (State.completionEvent s k token) := by
  unfold State.completionEvent
  try dsimp only
  repeat' first
    | with_reducible exact .refl _ _
    | with_reducible assumption
    | (with_reducible apply OnlyTouches.after (State.event_touches _ _ _ _ _ _); · decide)
    | with_reducible intro _

theorem State.endCommand_touches (s : State) (token : Nat) (st : SlotStatus) (code : Nat) : OnlyTouches
    [.objs, .dict, .host] s (State.endCommand s token st code) := by
  unfold State.endCommand
  try dsimp only
  repeat' first
    | with_reducible exact .refl _ _
    | with_reducible assumption
    | with_reducible apply OnlyTouches.when
    | (with_reducible apply OnlyTouches.after (State.interrupt_touches _ _ _); · decide)
    | (with_reducible apply OnlyTouches.after (State.modToken_touches _ _ _); · decide)
    | (with_reducible apply OnlyTouches.after (State.track_touches _ _); · decide)
    | (with_reducible apply OnlyTouches.after (State.completionEvent_touches _ _ _); · decide)
    | with_reducible apply OnlyTouches.ite
    | with_reducible intro _
    | split
    | with_reducible refine OnlyTouches.pair (by assumption) ?_
    | dsimp only

theorem State.endDone_touches (s : State) (token : Nat) : OnlyTouches [.objs, .dict, .host] s
    (State.endDone s token) := by
  unfold State.endDone
  try dsimp only
  repeat' first
    | with_reducible exact .refl _ _
    | with_reducible assumption
    | (with_reducible apply OnlyTouches.after (State.endCommand_touches _ _ _ _); · decide)
    | with_reducible intro _

theorem State.endFailed_touches (s : State) (token code : Nat) : OnlyTouches [.objs, .dict, .host] s
    (State.endFailed s token code) := by
  unfold State.endFailed
  try dsimp only
  repeat' first
    | with_reducible exact .refl _ _
    | with_reducible assumption
    | (with_reducible apply OnlyTouches.after (State.endCommand_touches _ _ _ _); · decide)
    | with_reducible intro _

theorem State.setResult_touches (s : State) (token i v : Nat) : OnlyTouches [.dict] s (State.setResult s
    token i v) := by
  unfold State.setResult
  try dsimp only
  repeat' first
    | with_reducible exact .refl _ _
    | with_reducible assumption
    | (with_reducible apply OnlyTouches.after (State.modToken_touches _ _ _); · decide)
    | (with_reducible apply OnlyTouches.after (State.track_touches _ _); · decide)
    | with_reducible intro _
    | with_reducible refine OnlyTouches.pair (by assumption) ?_
    | dsimp only

theorem State.setProgress_touches (s : State) (token v : Nat) : OnlyTouches [.dict] s (State.setProgress s
    token v) := by
  unfold State.setProgress
  try dsimp only
  repeat' first
    | with_reducible exact .refl _ _
    | with_reducible assumption
    | (with_reducible apply OnlyTouches.after (State.modToken_touches _ _ _); · decide)
    | (with_reducible apply OnlyTouches.after (State.track_touches _ _); · decide)
    | with_reducible intro _
    | with_reducible refine OnlyTouches.pair (by assumption) ?_
    | dsimp only

theorem State.endFailedAt_touches (s : State) (token code pos : Nat) : OnlyTouches [.objs, .dict, .host] s
    (State.endFailedAt s token code pos) := by
  unfold State.endFailedAt
  try dsimp only
  repeat' first
    | with_reducible exact .refl _ _
    | with_reducible assumption
    | (with_reducible apply OnlyTouches.after (State.endFailed_touches _ _ _); · decide)
    | (with_reducible apply OnlyTouches.after (State.setResult_touches _ _ _ _); · decide)
    | with_reducible intro _
    | with_reducible refine OnlyTouches.pair (by assumption) ?_
    | dsimp only

theorem State.endAll_touches (s : State) (tokens : List Nat) : OnlyTouches [.objs, .dict, .host] s
    (State.endAll s tokens) := by
  unfold State.endAll
  try dsimp only
  repeat' first
    | with_reducible exact .refl _ _
    | with_reducible assumption
    | with_reducible apply OnlyTouches.fold
    | with_reducible apply OnlyTouches.foldPair
    | (with_reducible apply OnlyTouches.after (State.endDone_touches _ _); · decide)
    | with_reducible intro _

theorem State.markActed_touches (s : State) (token : Nat) : OnlyTouches [.dict] s (State.markActed s token)
    := by
  unfold State.markActed
  try dsimp only
  repeat' first
    | with_reducible exact .refl _ _
    | with_reducible assumption
    | (with_reducible apply OnlyTouches.after (State.modToken_touches _ _ _); · decide)
    | (with_reducible apply OnlyTouches.after (State.track_touches _ _); · decide)
    | with_reducible intro _
    | with_reducible refine OnlyTouches.pair (by assumption) ?_
    | dsimp only

theorem State.markAll_touches (s : State) (tokens : List Nat) : OnlyTouches [.dict] s (State.markAll s
    tokens) := by
  unfold State.markAll
  try dsimp only
  repeat' first
    | with_reducible exact .refl _ _
    | with_reducible assumption
    | with_reducible apply OnlyTouches.fold
    | with_reducible apply OnlyTouches.foldPair
    | (with_reducible apply OnlyTouches.after (State.markActed_touches _ _); · decide)
    | with_reducible intro _

end Sys2Proof.Machine
end

