-- ==== Sys2Proof/Laws/KeepSlots.lean ====
section
/-! SUPPORT. The operations of Machine/Slots.lean keep the invariant. -/

namespace Sys2Proof.Machine

theorem State.modToken_keeps (s : State) (token : Nat) (f : TokenRec → TokenRec) : Keeps s (State.modToken
    s token f) := by
  unfold State.modToken
  try dsimp only
  repeat' first
    | with_reducible exact .refl _
    | with_reducible assumption
    | with_reducible apply Keeps.ite
    | with_reducible intro _
    | split
    | ((with_reducible apply Keeps.put_dict); · exact fun i => ⟨i.head, i.tail⟩)

theorem State.track_keeps (s : State) (token : Nat) : Keeps s (State.track s token) := by
  unfold State.track
  try dsimp only
  repeat' first
    | with_reducible exact .refl _
    | with_reducible assumption
    | with_reducible apply Keeps.ite
    | with_reducible intro _
    | split
    | ((with_reducible apply Keeps.put_dict); · exact fun i => ⟨i.head, i.tail⟩)

theorem State.completionEvent_keeps (s : State) (k token : Nat) : Keeps s (State.completionEvent s k token)
    := by
  unfold State.completionEvent
  try dsimp only
  repeat' first
    | with_reducible exact .refl _
    | with_reducible assumption
    | with_reducible apply Keeps.after (State.event_keeps _ _ _ _ _ _)
    | with_reducible intro _

theorem State.endCommand_keeps (s : State) (token : Nat) (st : SlotStatus) (code : Nat) : Keeps s
    (State.endCommand s token st code) := by
  unfold State.endCommand
  try dsimp only
  repeat' first
    | with_reducible exact .refl _
    | with_reducible assumption
    | with_reducible apply Keeps.when
    | ((with_reducible apply Keeps.afterT (State.interrupt_touches _ _ _)); · rfl)
    | with_reducible apply Keeps.after (State.modToken_keeps _ _ _)
    | with_reducible apply Keeps.after (State.track_keeps _ _)
    | with_reducible apply Keeps.after (State.completionEvent_keeps _ _ _)
    | with_reducible apply Keeps.ite
    | with_reducible intro _
    | split
    | with_reducible refine Keeps.pair (by assumption) ?_
    | dsimp only

theorem State.endDone_keeps (s : State) (token : Nat) : Keeps s (State.endDone s token) := by
  unfold State.endDone
  try dsimp only
  repeat' first
    | with_reducible exact .refl _
    | with_reducible assumption
    | with_reducible apply Keeps.after (State.endCommand_keeps _ _ _ _)
    | with_reducible intro _

theorem State.endFailed_keeps (s : State) (token code : Nat) : Keeps s (State.endFailed s token code) := by
  unfold State.endFailed
  try dsimp only
  repeat' first
    | with_reducible exact .refl _
    | with_reducible assumption
    | with_reducible apply Keeps.after (State.endCommand_keeps _ _ _ _)
    | with_reducible intro _

theorem State.setResult_keeps (s : State) (token i v : Nat) : Keeps s (State.setResult s token i v) := by
  unfold State.setResult
  try dsimp only
  repeat' first
    | with_reducible exact .refl _
    | with_reducible assumption
    | with_reducible apply Keeps.after (State.modToken_keeps _ _ _)
    | with_reducible apply Keeps.after (State.track_keeps _ _)
    | with_reducible intro _
    | with_reducible refine Keeps.pair (by assumption) ?_
    | dsimp only

theorem State.setProgress_keeps (s : State) (token v : Nat) : Keeps s (State.setProgress s token v) := by
  unfold State.setProgress
  try dsimp only
  repeat' first
    | with_reducible exact .refl _
    | with_reducible assumption
    | with_reducible apply Keeps.after (State.modToken_keeps _ _ _)
    | with_reducible apply Keeps.after (State.track_keeps _ _)
    | with_reducible intro _
    | with_reducible refine Keeps.pair (by assumption) ?_
    | dsimp only

theorem State.endFailedAt_keeps (s : State) (token code pos : Nat) : Keeps s (State.endFailedAt s token
    code pos) := by
  unfold State.endFailedAt
  try dsimp only
  repeat' first
    | with_reducible exact .refl _
    | with_reducible assumption
    | with_reducible apply Keeps.after (State.endFailed_keeps _ _ _)
    | with_reducible apply Keeps.after (State.setResult_keeps _ _ _ _)
    | with_reducible intro _
    | with_reducible refine Keeps.pair (by assumption) ?_
    | dsimp only

theorem State.endAll_keeps (s : State) (tokens : List Nat) : Keeps s (State.endAll s tokens) := by
  unfold State.endAll
  try dsimp only
  repeat' first
    | with_reducible exact .refl _
    | with_reducible assumption
    | with_reducible apply Keeps.fold
    | with_reducible apply Keeps.foldPair
    | with_reducible apply Keeps.after (State.endDone_keeps _ _)
    | with_reducible intro _

theorem State.markActed_keeps (s : State) (token : Nat) : Keeps s (State.markActed s token) := by
  unfold State.markActed
  try dsimp only
  repeat' first
    | with_reducible exact .refl _
    | with_reducible assumption
    | with_reducible apply Keeps.after (State.modToken_keeps _ _ _)
    | with_reducible apply Keeps.after (State.track_keeps _ _)
    | with_reducible intro _
    | with_reducible refine Keeps.pair (by assumption) ?_
    | dsimp only

theorem State.markAll_keeps (s : State) (tokens : List Nat) : Keeps s (State.markAll s tokens) := by
  unfold State.markAll
  try dsimp only
  repeat' first
    | with_reducible exact .refl _
    | with_reducible assumption
    | with_reducible apply Keeps.fold
    | with_reducible apply Keeps.foldPair
    | with_reducible apply Keeps.after (State.markActed_keeps _ _)
    | with_reducible intro _

end Sys2Proof.Machine
end

