-- ==== Sys2Proof/Laws/TouchCustody.lean ====
section
/-! SUPPORT. Which parts of the state each operation of Machine/Custody.lean changes. -/

namespace Sys2Proof.Machine

theorem State.sendControl_touches (s : State) (k kind seq range count detail : Nat) (body : List Byte) :
    OnlyTouches [.objs, .ports, .switch, .coll, .mem, .custody, .ledger, .dict, .host] s (State.sendControl
    s k kind seq range count detail body) := by
  unfold State.sendControl
  try dsimp only
  repeat' first
    | with_reducible exact .refl _ _
    | with_reducible assumption
    | (with_reducible apply OnlyTouches.after (State.count_touches _ _ _ _ _); · decide)
    | (with_reducible apply OnlyTouches.after (State.send_touches _ _ _ _ _); · decide)
    | with_reducible intro _
    | (with_reducible apply OnlyTouches.put_custody; · decide)
    | with_reducible refine OnlyTouches.pair (by assumption) ?_
    | dsimp only

theorem State.sendHello_touches (s : State) (k : Nat) : OnlyTouches [.objs, .ports, .switch, .coll, .mem,
    .custody, .ledger, .dict, .host] s (State.sendHello s k) := by
  unfold State.sendHello
  try dsimp only
  repeat' first
    | with_reducible exact .refl _ _
    | with_reducible assumption
    | (with_reducible apply OnlyTouches.after (State.sendControl_touches _ _ _ _ _ _ _ _); · decide)
    | with_reducible intro _
    | with_reducible refine OnlyTouches.pair (by assumption) ?_
    | dsimp only

theorem State.pairEvent_touches (s : State) : OnlyTouches [.objs, .dict, .host, .free] s (State.pairEvent
    s) := by
  unfold State.pairEvent
  try dsimp only
  repeat' first
    | with_reducible exact .refl _ _
    | with_reducible assumption
    | (with_reducible apply OnlyTouches.after (State.draw_touches _); · decide)
    | (with_reducible apply OnlyTouches.after (State.eventAt_touches _ _ _ _ _); · decide)
    | with_reducible intro _

theorem State.peerBit_touches (s : State) (pos : Nat) (on : Bool) : OnlyTouches [.objs] s (State.peerBit s
    pos on) := by
  unfold State.peerBit
  try dsimp only
  repeat' first
    | with_reducible exact .refl _ _
    | with_reducible assumption
    | (with_reducible apply OnlyTouches.after (State.putObj_touches _ _ _); · decide)
    | with_reducible intro _
    | with_reducible refine OnlyTouches.pair (by assumption) ?_
    | dsimp only

theorem State.loseCustody_touches (s : State) (k : Nat) : OnlyTouches [.objs, .power, .custody, .dict,
    .host, .free] s (State.loseCustody s k) := by
  unfold State.loseCustody
  try dsimp only
  repeat' first
    | with_reducible exact .refl _ _
    | with_reducible assumption
    | (with_reducible apply OnlyTouches.after (State.bump_touches _ _ _); · decide)
    | (with_reducible apply OnlyTouches.after (State.modPair_touches _ _ _); · decide)
    | (with_reducible apply OnlyTouches.after (State.holdAlert_touches _ _); · decide)
    | (with_reducible apply OnlyTouches.after (State.eventObj_touches _ _ _ _); · decide)
    | (with_reducible apply OnlyTouches.after (State.capsule_touches _ _ _ _); · decide)
    | with_reducible intro _
    | with_reducible refine OnlyTouches.pair (by assumption) ?_
    | dsimp only

theorem State.degrade_touches (s : State) (k : Nat) : OnlyTouches [.objs, .power, .custody, .dict, .host] s
    (State.degrade s k) := by
  unfold State.degrade
  try dsimp only
  repeat' first
    | with_reducible exact .refl _ _
    | with_reducible assumption
    | (with_reducible apply OnlyTouches.after (State.setPair_touches _ _ _); · decide)
    | (with_reducible apply OnlyTouches.after (State.holdAlert_touches _ _); · decide)
    | (with_reducible apply OnlyTouches.after (State.endFailed_touches _ _ _); · decide)
    | with_reducible intro _
    | split

theorem State.sendRangeBlocks_touches (s : State) (k seq r : Nat) : OnlyTouches [.objs, .ports, .switch,
    .coll, .mem, .custody, .ledger, .dict, .host] s (State.sendRangeBlocks s k seq r) := by
  unfold State.sendRangeBlocks
  try dsimp only
  repeat' first
    | with_reducible exact .refl _ _
    | with_reducible assumption
    | with_reducible apply OnlyTouches.fold
    | with_reducible apply OnlyTouches.foldPair
    | (with_reducible apply OnlyTouches.after (State.bump_touches _ _ _); · decide)
    | (with_reducible apply OnlyTouches.after (State.drop_touches _ _ _); · decide)
    | (with_reducible apply OnlyTouches.after (State.countFirmware_touches _ _ _ _); · decide)
    | (with_reducible apply OnlyTouches.after (State.sendControl_touches _ _ _ _ _ _ _ _); · decide)
    | with_reducible intro _

theorem State.sendRange_touches (s : State) (k : Nat) : OnlyTouches [.objs, .ports, .switch, .coll, .mem,
    .custody, .ledger, .dict, .host] s (State.sendRange s k) := by
  unfold State.sendRange
  try dsimp only
  repeat' first
    | with_reducible exact .refl _ _
    | with_reducible assumption
    | (with_reducible apply OnlyTouches.after (State.setPair_touches _ _ _); · decide)
    | (with_reducible apply OnlyTouches.after (State.sendRangeBlocks_touches _ _ _ _); · decide)
    | with_reducible apply OnlyTouches.ite
    | with_reducible intro _
    | split
    | with_reducible refine OnlyTouches.pair (by assumption) ?_
    | dsimp only

theorem State.resyncDone_touches (s : State) (k : Nat) (y : Resync) : OnlyTouches [.objs, .custody, .dict,
    .host] s (State.resyncDone s k y) := by
  unfold State.resyncDone
  try dsimp only
  repeat' first
    | with_reducible exact .refl _ _
    | with_reducible assumption
    | with_reducible apply OnlyTouches.when
    | (with_reducible apply OnlyTouches.after (State.modPair_touches _ _ _); · decide)
    | (with_reducible apply OnlyTouches.after (State.endDone_touches _ _); · decide)
    | (with_reducible apply OnlyTouches.after (State.setResult_touches _ _ _ _); · decide)
    | (with_reducible apply OnlyTouches.after (State.peerBit_touches _ _ _); · decide)
    | with_reducible intro _
    | split
    | with_reducible refine OnlyTouches.pair (by assumption) ?_
    | dsimp only

theorem State.resyncNext_touches (s : State) (k : Nat) : OnlyTouches [.objs, .ports, .switch, .coll, .mem,
    .custody, .ledger, .dict, .host] s (State.resyncNext s k) := by
  unfold State.resyncNext
  try dsimp only
  repeat' first
    | with_reducible exact .refl _ _
    | with_reducible assumption
    | (with_reducible apply OnlyTouches.after (State.sendRange_touches _ _); · decide)
    | (with_reducible apply OnlyTouches.after (State.resyncDone_touches _ _ _); · decide)
    | with_reducible apply OnlyTouches.ite
    | with_reducible intro _
    | split
    | with_reducible refine OnlyTouches.pair (by assumption) ?_
    | dsimp only

theorem State.beginResync_touches (s : State) (k : Nat) (y : Resync) : OnlyTouches [.objs, .ports, .switch,
    .coll, .mem, .custody, .ledger, .dict, .host] s (State.beginResync s k y) := by
  unfold State.beginResync
  try dsimp only
  repeat' first
    | with_reducible exact .refl _ _
    | with_reducible assumption
    | (with_reducible apply OnlyTouches.after (State.modPair_touches _ _ _); · decide)
    | (with_reducible apply OnlyTouches.after (State.resyncNext_touches _ _); · decide)
    | with_reducible intro _
    | with_reducible refine OnlyTouches.pair (by assumption) ?_
    | dsimp only

theorem State.rangeFailed_touches (s : State) (k : Nat) (y : Resync) : OnlyTouches [.objs, .power, .ports,
    .switch, .coll, .mem, .custody, .ledger, .dict, .host] s (State.rangeFailed s k y) := by
  unfold State.rangeFailed
  try dsimp only
  repeat' first
    | with_reducible exact .refl _ _
    | with_reducible assumption
    | (with_reducible apply OnlyTouches.after (State.modPair_touches _ _ _); · decide)
    | (with_reducible apply OnlyTouches.after (State.degrade_touches _ _); · decide)
    | (with_reducible apply OnlyTouches.after (State.sendRange_touches _ _); · decide)
    | with_reducible apply OnlyTouches.ite
    | with_reducible intro _
    | split
    | with_reducible refine OnlyTouches.pair (by assumption) ?_
    | dsimp only

theorem State.startRemirror_touches (s : State) (k : Nat) : OnlyTouches [.objs, .ports, .switch, .coll,
    .mem, .custody, .ledger, .dict, .host] s (State.startRemirror s k) := by
  unfold State.startRemirror
  try dsimp only
  repeat' first
    | with_reducible exact .refl _ _
    | with_reducible assumption
    | with_reducible apply OnlyTouches.when
    | (with_reducible apply OnlyTouches.after (State.sendRange_touches _ _); · decide)
    | (with_reducible apply OnlyTouches.after (State.resyncNext_touches _ _); · decide)
    | with_reducible apply OnlyTouches.ite
    | with_reducible intro _
    | split

theorem State.compareOutcome_touches (s : State) (k : Nat) : OnlyTouches [.objs, .ports, .switch, .coll,
    .mem, .custody, .ledger, .dict, .host] s (State.compareOutcome s k) := by
  unfold State.compareOutcome
  try dsimp only
  repeat' first
    | with_reducible exact .refl _ _
    | with_reducible assumption
    | (with_reducible apply OnlyTouches.after (State.bump_touches _ _ _); · decide)
    | (with_reducible apply OnlyTouches.after (State.setPair_touches _ _ _); · decide)
    | (with_reducible apply OnlyTouches.after (State.beginResync_touches _ _ _); · decide)
    | with_reducible apply OnlyTouches.ite
    | with_reducible intro _
    | split
    | with_reducible refine OnlyTouches.pair (by assumption) ?_
    | dsimp only

theorem State.sendCompared_touches (s : State) (k : Nat) : OnlyTouches [.objs, .ports, .switch, .coll,
    .mem, .custody, .ledger, .dict, .host] s (State.sendCompared s k) := by
  unfold State.sendCompared
  try dsimp only
  repeat' first
    | with_reducible exact .refl _ _
    | with_reducible assumption
    | (with_reducible apply OnlyTouches.after (State.sendControl_touches _ _ _ _ _ _ _ _); · decide)
    | with_reducible intro _
    | with_reducible refine OnlyTouches.pair (by assumption) ?_
    | dsimp only

theorem State.tryCompare_touches (s : State) (k : Nat) : OnlyTouches [.objs, .ports, .switch, .coll, .mem,
    .custody, .ledger, .dict, .host] s (State.tryCompare s k) := by
  unfold State.tryCompare
  try dsimp only
  repeat' first
    | with_reducible exact .refl _ _
    | with_reducible assumption
    | (with_reducible apply OnlyTouches.after (State.bump_touches _ _ _); · decide)
    | (with_reducible apply OnlyTouches.after (State.modPair_touches _ _ _); · decide)
    | (with_reducible apply OnlyTouches.after (State.compareOutcome_touches _ _); · decide)
    | (with_reducible apply OnlyTouches.after (State.sendCompared_touches _ _); · decide)
    | with_reducible apply OnlyTouches.ite
    | with_reducible intro _
    | split
    | with_reducible refine OnlyTouches.pair (by assumption) ?_
    | dsimp only

theorem State.sendDigests_touches (s : State) (k seq : Nat) (mine : Tbl (Nat × Bool × Nat)) (b : Nat) :
    OnlyTouches [.objs, .ports, .switch, .coll, .mem, .custody, .ledger, .dict, .host] s (State.sendDigests
    s k seq mine b) := by
  unfold State.sendDigests
  try dsimp only
  repeat' first
    | with_reducible exact .refl _ _
    | with_reducible assumption
    | (with_reducible apply OnlyTouches.after (State.sendControl_touches _ _ _ _ _ _ _ _); · decide)
    | with_reducible intro _
    | with_reducible refine OnlyTouches.pair (by assumption) ?_
    | dsimp only

theorem State.sendBatch_touches (s : State) (k b : Nat) : OnlyTouches [.objs, .ports, .switch, .coll, .mem,
    .custody, .ledger, .dict, .host] s (State.sendBatch s k b) := by
  unfold State.sendBatch
  try dsimp only
  repeat' first
    | with_reducible exact .refl _ _
    | with_reducible assumption
    | (with_reducible apply OnlyTouches.after (State.sendDigests_touches _ _ _ _ _); · decide)
    | with_reducible intro _
    | with_reducible refine OnlyTouches.pair (by assumption) ?_
    | dsimp only

theorem State.resendDigests_touches (s : State) (k : Nat) : OnlyTouches [.objs, .ports, .switch, .coll,
    .mem, .custody, .ledger, .dict, .host] s (State.resendDigests s k) := by
  unfold State.resendDigests
  try dsimp only
  repeat' first
    | with_reducible exact .refl _ _
    | with_reducible assumption
    | with_reducible apply OnlyTouches.fold
    | with_reducible apply OnlyTouches.foldPair
    | (with_reducible apply OnlyTouches.after (State.sendDigests_touches _ _ _ _ _); · decide)
    | (with_reducible apply OnlyTouches.after (State.sendBatch_touches _ _ _); · decide)
    | with_reducible apply OnlyTouches.ite
    | with_reducible intro _
    | split

theorem State.judgeLag_touches (s : State) (k : Nat) : OnlyTouches [.objs, .custody, .dict, .host, .free] s
    (State.judgeLag s k) := by
  unfold State.judgeLag
  try dsimp only
  repeat' first
    | with_reducible exact .refl _ _
    | with_reducible assumption
    | with_reducible apply OnlyTouches.when
    | (with_reducible apply OnlyTouches.after (State.setPair_touches _ _ _); · decide)
    | (with_reducible apply OnlyTouches.after (State.pairEvent_touches _); · decide)
    | with_reducible apply OnlyTouches.ite
    | with_reducible intro _
    | split
    | with_reducible refine OnlyTouches.pair (by assumption) ?_
    | dsimp only

theorem State.closeStep_touches (s : State) (k : Nat) (aborted : Bool) : OnlyTouches [.objs, .ports,
    .switch, .coll, .mem, .custody, .ledger, .dict, .host, .free] s (State.closeStep s k aborted) := by
  unfold State.closeStep
  try dsimp only
  repeat' first
    | with_reducible exact .refl _ _
    | with_reducible assumption
    | with_reducible apply OnlyTouches.when
    | (with_reducible apply OnlyTouches.after (State.setPair_touches _ _ _); · decide)
    | (with_reducible apply OnlyTouches.after (State.sendControl_touches _ _ _ _ _ _ _ _); · decide)
    | (with_reducible apply OnlyTouches.after (State.startRemirror_touches _ _); · decide)
    | (with_reducible apply OnlyTouches.after (State.tryCompare_touches _ _); · decide)
    | (with_reducible apply OnlyTouches.after (State.sendBatch_touches _ _ _); · decide)
    | (with_reducible apply OnlyTouches.after (State.judgeLag_touches _ _); · decide)
    | with_reducible intro _
    | with_reducible refine OnlyTouches.pair (by assumption) ?_
    | dsimp only

theorem State.checkClose_touches (s : State) (k : Nat) : OnlyTouches [.objs, .ports, .switch, .coll, .mem,
    .custody, .ledger, .dict, .host, .free] s (State.checkClose s k) := by
  unfold State.checkClose
  try dsimp only
  repeat' first
    | with_reducible exact .refl _ _
    | with_reducible assumption
    | (with_reducible apply OnlyTouches.after (State.closeStep_touches _ _ _); · decide)
    | with_reducible apply OnlyTouches.ite
    | with_reducible intro _
    | split

theorem State.countChunk_touches (s : State) (k seq chunk : Nat) (applied dirty : Bool) : OnlyTouches
    [.objs, .ports, .switch, .coll, .mem, .custody, .ledger, .dict, .host, .free] s (State.countChunk s k
    seq chunk applied dirty) := by
  unfold State.countChunk
  try dsimp only
  repeat' first
    | with_reducible exact .refl _ _
    | with_reducible assumption
    | with_reducible apply OnlyTouches.fold
    | with_reducible apply OnlyTouches.foldPair
    | (with_reducible apply OnlyTouches.after (State.setPair_touches _ _ _); · decide)
    | (with_reducible apply OnlyTouches.after (State.checkClose_touches _ _); · decide)
    | with_reducible apply OnlyTouches.ite
    | with_reducible intro _
    | split
    | with_reducible refine OnlyTouches.pair (by assumption) ?_
    | dsimp only

theorem State.abortArrives_touches (s : State) (g seq : Nat) : OnlyTouches [.objs, .ports, .switch, .coll,
    .mem, .custody, .ledger, .dict, .host, .free] s (State.abortArrives s g seq) := by
  unfold State.abortArrives
  try dsimp only
  repeat' first
    | with_reducible exact .refl _ _
    | with_reducible assumption
    | (with_reducible apply OnlyTouches.after (State.setPair_touches _ _ _); · decide)
    | (with_reducible apply OnlyTouches.after (State.closeStep_touches _ _ _); · decide)
    | with_reducible apply OnlyTouches.ite
    | with_reducible intro _
    | split
    | with_reducible refine OnlyTouches.pair (by assumption) ?_
    | dsimp only

theorem State.withPair_touches {l : List Part} (hl : [.objs] ⊆ l) (s : State) (m : CustodyMsg) (kind : Nat)
    (f : State → Nat → State) (hf : ∀ u k, OnlyTouches l u (f u k)) {s0 : State} (h : OnlyTouches l s0 s) :
    OnlyTouches l s0 (State.withPair s m kind f) := by
  unfold State.withPair
  split
  · exact h
  · split
    · exact .after (hf _ _) (List.Subset.refl _) h
    · exact .after (State.bump_touches _ _ _) hl h

theorem State.pairFails_touches (s : State) (k code : Nat) : OnlyTouches [.objs, .custody, .dict, .host] s
    (State.pairFails s k code) := by
  unfold State.pairFails
  try dsimp only
  repeat' first
    | with_reducible exact .refl _ _
    | with_reducible assumption
    | (with_reducible apply OnlyTouches.after (State.setPair_touches _ _ _); · decide)
    | (with_reducible apply OnlyTouches.after (State.endFailed_touches _ _ _); · decide)
    | with_reducible apply OnlyTouches.ite
    | with_reducible intro _
    | split

theorem State.heardHello_touches (s : State) (k otherPair crc : Nat) : OnlyTouches [.objs, .ports, .switch,
    .coll, .mem, .custody, .ledger, .dict, .host] s (State.heardHello s k otherPair crc) := by
  unfold State.heardHello
  try dsimp only
  repeat' first
    | with_reducible exact .refl _ _
    | with_reducible assumption
    | (with_reducible apply OnlyTouches.after (State.setPair_touches _ _ _); · decide)
    | (with_reducible apply OnlyTouches.after (State.modPair_touches _ _ _); · decide)
    | (with_reducible apply OnlyTouches.after (State.endDone_touches _ _); · decide)
    | (with_reducible apply OnlyTouches.after (State.peerBit_touches _ _ _); · decide)
    | (with_reducible apply OnlyTouches.after (State.startRemirror_touches _ _); · decide)
    | (with_reducible apply OnlyTouches.after (State.pairFails_touches _ _ _); · decide)
    | with_reducible apply OnlyTouches.ite
    | with_reducible intro _
    | split
    | with_reducible refine OnlyTouches.pair (by assumption) ?_
    | dsimp only

theorem State.takeHello_touches (s : State) (m : CustodyMsg) (k : Nat) : OnlyTouches [.objs, .ports,
    .switch, .coll, .mem, .custody, .ledger, .dict, .host] s (State.takeHello s m k) := by
  unfold State.takeHello
  try dsimp only
  repeat' first
    | with_reducible exact .refl _ _
    | with_reducible assumption
    | (with_reducible apply OnlyTouches.after (State.modPair_touches _ _ _); · decide)
    | (with_reducible apply OnlyTouches.after (State.heardHello_touches _ _ _ _); · decide)
    | with_reducible apply OnlyTouches.ite
    | with_reducible intro _
    | split
    | with_reducible refine OnlyTouches.pair (by assumption) ?_
    | dsimp only

theorem execCustodyHello_touches (msg : CustodyMsg) (s : State) : StepTouches [.objs, .ports, .switch,
    .coll, .mem, .custody, .ledger, .dict, .host] s (execCustodyHello msg s) := by
  unfold execCustodyHello
  try dsimp only
  repeat' first
    | with_reducible apply OnlyTouches.ofNext
    | with_reducible exact .refl _ _
    | with_reducible assumption
    | (with_reducible apply State.withPair_touches; · decide)
    | (with_reducible apply OnlyTouches.after (State.takeHello_touches _ _ _); · decide)
    | with_reducible intro _
    | with_reducible refine OnlyTouches.pair (by assumption) ?_
    | dsimp only

theorem execHelloTimeout_touches (pair : Fin 4096) (s : State) : StepTouches [.objs, .custody, .dict,
    .host] s (execHelloTimeout pair s) := by
  unfold execHelloTimeout
  try dsimp only
  repeat' first
    | with_reducible apply OnlyTouches.ofNext
    | with_reducible exact .refl _ _
    | with_reducible assumption
    | (with_reducible apply OnlyTouches.after (State.pairFails_touches _ _ _); · decide)
    | with_reducible apply OnlyTouches.ite
    | with_reducible apply OnlyTouches.iteStep
    | with_reducible intro _
    | split

theorem State.takeClose_touches (s : State) (m : CustodyMsg) (k : Nat) : OnlyTouches [.objs, .ports,
    .switch, .coll, .mem, .custody, .ledger, .dict, .host, .free] s (State.takeClose s m k) := by
  unfold State.takeClose
  try dsimp only
  repeat' first
    | with_reducible exact .refl _ _
    | with_reducible assumption
    | (with_reducible apply OnlyTouches.after (State.modPair_touches _ _ _); · decide)
    | (with_reducible apply OnlyTouches.after (State.judgeLag_touches _ _); · decide)
    | (with_reducible apply OnlyTouches.after (State.checkClose_touches _ _); · decide)
    | with_reducible apply OnlyTouches.ite
    | with_reducible intro _
    | split
    | with_reducible refine OnlyTouches.pair (by assumption) ?_
    | dsimp only

theorem execCustodyClose_touches (msg : CustodyMsg) (s : State) : StepTouches [.objs, .ports, .switch,
    .coll, .mem, .custody, .ledger, .dict, .host, .free] s (execCustodyClose msg s) := by
  unfold execCustodyClose
  try dsimp only
  repeat' first
    | with_reducible apply OnlyTouches.ofNext
    | with_reducible exact .refl _ _
    | with_reducible assumption
    | (with_reducible apply State.withPair_touches; · decide)
    | (with_reducible apply OnlyTouches.after (State.takeClose_touches _ _ _); · decide)
    | with_reducible intro _
    | with_reducible refine OnlyTouches.pair (by assumption) ?_
    | dsimp only

theorem execCloseWaitExpiry_touches (pair : Fin 4096) (s : State) : StepTouches [.objs, .ports, .switch,
    .coll, .mem, .custody, .ledger, .dict, .host, .free] s (execCloseWaitExpiry pair s) := by
  unfold execCloseWaitExpiry
  try dsimp only
  repeat' first
    | with_reducible apply OnlyTouches.ofNext
    | with_reducible exact .refl _ _
    | with_reducible assumption
    | (with_reducible apply OnlyTouches.after (State.setPair_touches _ _ _); · decide)
    | (with_reducible apply OnlyTouches.after (State.closeStep_touches _ _ _); · decide)
    | with_reducible apply OnlyTouches.ite
    | with_reducible apply OnlyTouches.iteStep
    | with_reducible intro _
    | split
    | with_reducible refine OnlyTouches.pair (by assumption) ?_
    | dsimp only

theorem execRangeDigestDone_touches (pair : Fin 4096) (range : Nat) (s : State) : StepTouches [.objs,
    .ports, .switch, .coll, .mem, .custody, .ledger, .dict, .host] s (execRangeDigestDone pair range s) :=
    by
  unfold execRangeDigestDone
  try dsimp only
  repeat' first
    | with_reducible apply OnlyTouches.ofNext
    | with_reducible exact .refl _ _
    | with_reducible assumption
    | (with_reducible apply OnlyTouches.after (State.bump_touches _ _ _); · decide)
    | (with_reducible apply OnlyTouches.after (State.setPair_touches _ _ _); · decide)
    | (with_reducible apply OnlyTouches.after (State.countFirmware_touches _ _ _ _); · decide)
    | (with_reducible apply OnlyTouches.after (State.tryCompare_touches _ _); · decide)
    | (with_reducible apply OnlyTouches.after (State.sendBatch_touches _ _ _); · decide)
    | with_reducible apply OnlyTouches.ite
    | with_reducible apply OnlyTouches.iteStep
    | with_reducible intro _
    | split
    | with_reducible refine OnlyTouches.pair (by assumption) ?_
    | dsimp only

theorem State.takeDigest_touches (s : State) (m : CustodyMsg) (k : Nat) : OnlyTouches [.objs, .ports,
    .switch, .coll, .mem, .custody, .ledger, .dict, .host] s (State.takeDigest s m k) := by
  unfold State.takeDigest
  try dsimp only
  repeat' first
    | with_reducible exact .refl _ _
    | with_reducible assumption
    | with_reducible apply OnlyTouches.fold
    | with_reducible apply OnlyTouches.foldPair
    | (with_reducible apply OnlyTouches.after (State.setPair_touches _ _ _); · decide)
    | (with_reducible apply OnlyTouches.after (State.sendControl_touches _ _ _ _ _ _ _ _); · decide)
    | (with_reducible apply OnlyTouches.after (State.tryCompare_touches _ _); · decide)
    | with_reducible apply OnlyTouches.ite
    | with_reducible intro _
    | split
    | with_reducible refine OnlyTouches.pair (by assumption) ?_
    | dsimp only

theorem execCustodyDigest_touches (msg : CustodyMsg) (s : State) : StepTouches [.objs, .ports, .switch,
    .coll, .mem, .custody, .ledger, .dict, .host] s (execCustodyDigest msg s) := by
  unfold execCustodyDigest
  try dsimp only
  repeat' first
    | with_reducible apply OnlyTouches.ofNext
    | with_reducible exact .refl _ _
    | with_reducible assumption
    | (with_reducible apply State.withPair_touches; · decide)
    | (with_reducible apply OnlyTouches.after (State.takeDigest_touches _ _ _); · decide)
    | with_reducible intro _
    | with_reducible refine OnlyTouches.pair (by assumption) ?_
    | dsimp only

theorem execCustodyCompared_touches (msg : CustodyMsg) (s : State) : StepTouches [.objs, .custody] s
    (execCustodyCompared msg s) := by
  unfold execCustodyCompared
  try dsimp only
  repeat' first
    | with_reducible apply OnlyTouches.ofNext
    | with_reducible exact .refl _ _
    | with_reducible assumption
    | (with_reducible apply OnlyTouches.after (State.modPair_touches _ _ _); · decide)
    | (with_reducible apply State.withPair_touches; · decide)
    | with_reducible intro _
    | with_reducible refine OnlyTouches.pair (by assumption) ?_
    | dsimp only

theorem execDigestResend_touches (pair : Fin 4096) (s : State) : StepTouches [.objs, .ports, .switch,
    .coll, .mem, .custody, .ledger, .dict, .host] s (execDigestResend pair s) := by
  unfold execDigestResend
  try dsimp only
  repeat' first
    | with_reducible apply OnlyTouches.ofNext
    | with_reducible exact .refl _ _
    | with_reducible assumption
    | (with_reducible apply OnlyTouches.after (State.setPair_touches _ _ _); · decide)
    | (with_reducible apply OnlyTouches.after (State.resendDigests_touches _ _); · decide)
    | with_reducible apply OnlyTouches.ite
    | with_reducible apply OnlyTouches.iteStep
    | with_reducible intro _
    | split
    | with_reducible refine OnlyTouches.pair (by assumption) ?_
    | dsimp only

theorem execComparisonLate_touches (pair : Fin 4096) (s : State) : StepTouches [.objs, .custody, .dict,
    .host, .free] s (execComparisonLate pair s) := by
  unfold execComparisonLate
  try dsimp only
  repeat' first
    | with_reducible apply OnlyTouches.ofNext
    | with_reducible exact .refl _ _
    | with_reducible assumption
    | (with_reducible apply OnlyTouches.after (State.setPair_touches _ _ _); · decide)
    | (with_reducible apply OnlyTouches.after (State.pairEvent_touches _); · decide)
    | with_reducible apply OnlyTouches.ite
    | with_reducible apply OnlyTouches.iteStep
    | with_reducible intro _
    | split
    | with_reducible refine OnlyTouches.pair (by assumption) ?_
    | dsimp only

theorem State.rollbackNotice_touches (s : State) (k seq : Nat) : OnlyTouches [.objs, .ports, .switch,
    .coll, .mem, .ledger, .dict, .host, .free] s (State.rollbackNotice s k seq) := by
  unfold State.rollbackNotice
  try dsimp only
  repeat' first
    | with_reducible exact .refl _ _
    | with_reducible assumption
    | (with_reducible apply OnlyTouches.after (State.draw_touches _); · decide)
    | (with_reducible apply OnlyTouches.after (State.sendGroup_touches _ _ _ _ _ _ _); · decide)
    | with_reducible intro _
    | with_reducible refine OnlyTouches.pair (by assumption) ?_
    | dsimp only

theorem State.restoreDone_touches (s : State) (k seq : Nat) : OnlyTouches [.objs, .mem, .custody, .ledger]
    s (State.restoreDone s k seq) := by
  unfold State.restoreDone
  try dsimp only
  repeat' first
    | with_reducible exact .refl _ _
    | with_reducible assumption
    | (with_reducible apply OnlyTouches.after (State.setPair_touches _ _ _); · decide)
    | (with_reducible apply OnlyTouches.after (State.store_touches _ _ _); · decide)
    | (with_reducible apply OnlyTouches.after (State.countFirmware_touches _ _ _ _); · decide)
    | with_reducible apply OnlyTouches.ite
    | with_reducible intro _
    | split
    | with_reducible refine OnlyTouches.pair (by assumption) ?_
    | dsimp only

theorem execRestoreComplete_touches (pair : Fin 4096) (s : State) : StepTouches [.objs, .mem, .custody,
    .ledger] s (execRestoreComplete pair s) := by
  unfold execRestoreComplete
  try dsimp only
  repeat' first
    | with_reducible apply OnlyTouches.ofNext
    | with_reducible exact .refl _ _
    | with_reducible assumption
    | (with_reducible apply OnlyTouches.after (State.restoreDone_touches _ _ _); · decide)
    | with_reducible apply OnlyTouches.ite
    | with_reducible apply OnlyTouches.iteStep
    | with_reducible intro _
    | split

theorem State.applyCompared_touches (s : State) (k : Nat) : OnlyTouches [.objs, .power, .ports, .switch,
    .coll, .mem, .custody, .ledger, .dict, .host, .free] s (State.applyCompared s k) := by
  unfold State.applyCompared
  try dsimp only
  repeat' first
    | with_reducible exact .refl _ _
    | with_reducible assumption
    | with_reducible apply OnlyTouches.when
    | (with_reducible apply OnlyTouches.after (State.bump_touches _ _ _); · decide)
    | (with_reducible apply OnlyTouches.after (State.setPair_touches _ _ _); · decide)
    | (with_reducible apply OnlyTouches.after (State.endDone_touches _ _); · decide)
    | (with_reducible apply OnlyTouches.after (State.setResult_touches _ _ _ _); · decide)
    | (with_reducible apply OnlyTouches.after (State.degrade_touches _ _); · decide)
    | (with_reducible apply OnlyTouches.after (State.rollbackNotice_touches _ _ _); · decide)
    | with_reducible apply OnlyTouches.ite
    | with_reducible intro _
    | split
    | with_reducible refine OnlyTouches.pair (by assumption) ?_
    | dsimp only

theorem State.comparedAll_touches (s : State) : OnlyTouches [.objs, .power, .ports, .switch, .coll, .mem,
    .custody, .ledger, .dict, .host, .free] s (State.comparedAll s) := by
  unfold State.comparedAll
  try dsimp only
  repeat' first
    | with_reducible exact .refl _ _
    | with_reducible assumption
    | with_reducible apply OnlyTouches.fold
    | with_reducible apply OnlyTouches.foldPair
    | (with_reducible apply OnlyTouches.after (State.startRemirror_touches _ _); · decide)
    | (with_reducible apply OnlyTouches.after (State.applyCompared_touches _ _); · decide)
    | with_reducible intro _
    | with_reducible refine OnlyTouches.pair (by assumption) ?_
    | dsimp only

theorem State.takeResync_touches (s : State) (m : CustodyMsg) (k : Nat) : OnlyTouches [.objs, .ports,
    .switch, .coll, .mem, .custody, .ledger, .dict, .host] s (State.takeResync s m k) := by
  unfold State.takeResync
  try dsimp only
  repeat' first
    | with_reducible exact .refl _ _
    | with_reducible assumption
    | with_reducible apply OnlyTouches.when
    | (with_reducible apply OnlyTouches.after (State.bump_touches _ _ _); · decide)
    | (with_reducible apply OnlyTouches.after (State.setPair_touches _ _ _); · decide)
    | (with_reducible apply OnlyTouches.after (State.store_touches _ _ _); · decide)
    | (with_reducible apply OnlyTouches.after (State.countFirmware_touches _ _ _ _); · decide)
    | (with_reducible apply OnlyTouches.after (State.sendControl_touches _ _ _ _ _ _ _ _); · decide)
    | (with_reducible apply OnlyTouches.after (State.resyncDone_touches _ _ _); · decide)
    | with_reducible apply OnlyTouches.ite
    | with_reducible intro _
    | split
    | with_reducible refine OnlyTouches.pair (by assumption) ?_
    | dsimp only

theorem execResyncData_touches (msg : CustodyMsg) (s : State) : StepTouches [.objs, .ports, .switch, .coll,
    .mem, .custody, .ledger, .dict, .host] s (execResyncData msg s) := by
  unfold execResyncData
  try dsimp only
  repeat' first
    | with_reducible apply OnlyTouches.ofNext
    | with_reducible exact .refl _ _
    | with_reducible assumption
    | (with_reducible apply State.withPair_touches; · decide)
    | (with_reducible apply OnlyTouches.after (State.takeResync_touches _ _ _); · decide)
    | with_reducible intro _
    | with_reducible refine OnlyTouches.pair (by assumption) ?_
    | dsimp only

theorem State.takeAck_touches (s : State) (m : CustodyMsg) (k : Nat) : OnlyTouches [.objs, .power, .ports,
    .switch, .coll, .mem, .custody, .ledger, .dict, .host, .out] s (State.takeAck s m k) := by
  unfold State.takeAck
  try dsimp only
  repeat' first
    | with_reducible exact .refl _ _
    | with_reducible assumption
    | (with_reducible apply OnlyTouches.after (State.bump_touches _ _ _); · decide)
    | (with_reducible apply OnlyTouches.after (State.setPair_touches _ _ _); · decide)
    | (with_reducible apply OnlyTouches.after (State.setProgress_touches _ _ _); · decide)
    | (with_reducible apply OnlyTouches.after (State.resyncNext_touches _ _); · decide)
    | (with_reducible apply OnlyTouches.after (State.rangeFailed_touches _ _ _); · decide)
    | with_reducible apply OnlyTouches.ite
    | with_reducible intro _
    | split
    | (with_reducible apply OnlyTouches.put_out; · decide)
    | with_reducible refine OnlyTouches.pair (by assumption) ?_
    | dsimp only

theorem execResyncAck_touches (msg : CustodyMsg) (s : State) : StepTouches [.objs, .power, .ports, .switch,
    .coll, .mem, .custody, .ledger, .dict, .host, .out] s (execResyncAck msg s) := by
  unfold execResyncAck
  try dsimp only
  repeat' first
    | with_reducible apply OnlyTouches.ofNext
    | with_reducible exact .refl _ _
    | with_reducible assumption
    | (with_reducible apply State.withPair_touches; · decide)
    | (with_reducible apply OnlyTouches.after (State.takeAck_touches _ _ _); · decide)
    | with_reducible intro _
    | with_reducible refine OnlyTouches.pair (by assumption) ?_
    | dsimp only

theorem execResyncRangeTimeout_touches (pair : Fin 4096) (s : State) : StepTouches [.objs, .power, .ports,
    .switch, .coll, .mem, .custody, .ledger, .dict, .host] s (execResyncRangeTimeout pair s) := by
  unfold execResyncRangeTimeout
  try dsimp only
  repeat' first
    | with_reducible apply OnlyTouches.ofNext
    | with_reducible exact .refl _ _
    | with_reducible assumption
    | (with_reducible apply OnlyTouches.after (State.rangeFailed_touches _ _ _); · decide)
    | with_reducible apply OnlyTouches.ite
    | with_reducible apply OnlyTouches.iteStep
    | with_reducible intro _
    | split
    | with_reducible refine OnlyTouches.pair (by assumption) ?_
    | dsimp only

theorem State.restartRecoveries_touches (s : State) : OnlyTouches [.objs, .ports, .switch, .coll, .mem,
    .custody, .ledger, .dict, .host] s (State.restartRecoveries s) := by
  unfold State.restartRecoveries
  try dsimp only
  repeat' first
    | with_reducible exact .refl _ _
    | with_reducible assumption
    | with_reducible apply OnlyTouches.when
    | with_reducible apply OnlyTouches.fold
    | with_reducible apply OnlyTouches.foldPair
    | (with_reducible apply OnlyTouches.after (State.modPair_touches _ _ _); · decide)
    | (with_reducible apply OnlyTouches.after (State.sendRange_touches _ _); · decide)
    | with_reducible apply OnlyTouches.ite
    | with_reducible intro _
    | split
    | with_reducible refine OnlyTouches.pair (by assumption) ?_
    | dsimp only

theorem State.declareLost_touches (s : State) (k : Nat) : OnlyTouches [.objs, .power, .custody, .dict,
    .host, .free] s (State.declareLost s k) := by
  unfold State.declareLost
  try dsimp only
  repeat' first
    | with_reducible exact .refl _ _
    | with_reducible assumption
    | (with_reducible apply OnlyTouches.after (State.setPair_touches _ _ _); · decide)
    | (with_reducible apply OnlyTouches.after (State.capsule_touches _ _ _ _); · decide)
    | (with_reducible apply OnlyTouches.after (State.endFailed_touches _ _ _); · decide)
    | (with_reducible apply OnlyTouches.after (State.pairEvent_touches _); · decide)
    | (with_reducible apply OnlyTouches.after (State.loseCustody_touches _ _); · decide)
    | with_reducible apply OnlyTouches.ite
    | with_reducible intro _
    | split
    | with_reducible refine OnlyTouches.pair (by assumption) ?_
    | dsimp only

theorem execPartnerTimeout_touches (pair : Fin 4096) (s : State) : StepTouches [.objs, .power, .custody,
    .dict, .host, .free] s (execPartnerTimeout pair s) := by
  unfold execPartnerTimeout
  try dsimp only
  repeat' first
    | with_reducible apply OnlyTouches.ofNext
    | with_reducible exact .refl _ _
    | with_reducible assumption
    | (with_reducible apply OnlyTouches.after (State.declareLost_touches _ _); · decide)
    | with_reducible apply OnlyTouches.ite
    | with_reducible apply OnlyTouches.iteStep
    | with_reducible intro _
    | split
    | with_reducible refine OnlyTouches.pair (by assumption) ?_
    | dsimp only

theorem State.writeApplied_touches (s : State) (k : Nat) (p : Pair) : OnlyTouches [.mem] s
    (State.writeApplied s k p) := by
  unfold State.writeApplied
  try dsimp only
  repeat' first
    | with_reducible exact .refl _ _
    | with_reducible assumption
    | with_reducible apply OnlyTouches.fold
    | with_reducible apply OnlyTouches.foldPair
    | (with_reducible apply OnlyTouches.after (State.write_touches _ _ _); · decide)
    | with_reducible apply OnlyTouches.ite
    | with_reducible intro _
    | split
    | with_reducible refine OnlyTouches.pair (by assumption) ?_
    | dsimp only

theorem State.takeOverNow_touches (s : State) (k token : Nat) : OnlyTouches [.objs, .mem, .custody, .dict,
    .host] s (State.takeOverNow s k token) := by
  unfold State.takeOverNow
  try dsimp only
  repeat' first
    | with_reducible exact .refl _ _
    | with_reducible assumption
    | (with_reducible apply OnlyTouches.after (State.bump_touches _ _ _); · decide)
    | (with_reducible apply OnlyTouches.after (State.setPair_touches _ _ _); · decide)
    | (with_reducible apply OnlyTouches.after (State.endDone_touches _ _); · decide)
    | (with_reducible apply OnlyTouches.after (State.setResult_touches _ _ _ _); · decide)
    | (with_reducible apply OnlyTouches.after (State.markActed_touches _ _); · decide)
    | (with_reducible apply OnlyTouches.after (State.peerBit_touches _ _ _); · decide)
    | (with_reducible apply OnlyTouches.after (State.writeApplied_touches _ _ _); · decide)
    | with_reducible apply OnlyTouches.ite
    | with_reducible intro _
    | split
    | with_reducible refine OnlyTouches.pair (by assumption) ?_
    | dsimp only

theorem State.takeOverDue_touches (s : State) (k : Nat) : OnlyTouches [.objs, .mem, .custody, .dict, .host]
    s (State.takeOverDue s k) := by
  unfold State.takeOverDue
  try dsimp only
  repeat' first
    | with_reducible exact .refl _ _
    | with_reducible assumption
    | with_reducible apply OnlyTouches.fold
    | with_reducible apply OnlyTouches.foldPair
    | (with_reducible apply OnlyTouches.after (State.endFailed_touches _ _ _); · decide)
    | (with_reducible apply OnlyTouches.after (State.takeOverNow_touches _ _ _); · decide)
    | with_reducible apply OnlyTouches.ite
    | with_reducible intro _
    | split
    | with_reducible refine OnlyTouches.pair (by assumption) ?_
    | dsimp only

theorem execTakeOverEffect_touches (pair : Fin 4096) (s : State) : StepTouches [.objs, .mem, .custody,
    .dict, .host] s (execTakeOverEffect pair s) := by
  unfold execTakeOverEffect
  try dsimp only
  repeat' first
    | with_reducible apply OnlyTouches.ofNext
    | with_reducible exact .refl _ _
    | with_reducible assumption
    | (with_reducible apply OnlyTouches.after (State.takeOverDue_touches _ _); · decide)
    | with_reducible intro _
    | with_reducible refine OnlyTouches.pair (by assumption) ?_
    | dsimp only

theorem State.pairTake_touches (s : State) (token : Nat) (args : Tbl Nat) : OnlyTouches [.objs, .ports,
    .switch, .coll, .mem, .custody, .ledger, .dict, .host] s (State.pairTake s token args) := by
  unfold State.pairTake
  try dsimp only
  repeat' first
    | with_reducible exact .refl _ _
    | with_reducible assumption
    | (with_reducible apply OnlyTouches.after (State.setPair_touches _ _ _); · decide)
    | (with_reducible apply OnlyTouches.after (State.setResult_touches _ _ _ _); · decide)
    | (with_reducible apply OnlyTouches.after (State.sendHello_touches _ _); · decide)
    | with_reducible intro _
    | with_reducible refine OnlyTouches.pair (by assumption) ?_
    | dsimp only

theorem State.resyncTake_touches (s : State) (token : Nat) (args : Tbl Nat) : OnlyTouches [.objs, .ports,
    .switch, .coll, .mem, .custody, .ledger, .dict, .host] s (State.resyncTake s token args) := by
  unfold State.resyncTake
  try dsimp only
  repeat' first
    | with_reducible exact .refl _ _
    | with_reducible assumption
    | with_reducible apply OnlyTouches.fold
    | with_reducible apply OnlyTouches.foldPair
    | (with_reducible apply OnlyTouches.after (State.setPair_touches _ _ _); · decide)
    | (with_reducible apply OnlyTouches.after (State.sendHello_touches _ _); · decide)
    | (with_reducible apply OnlyTouches.after (State.beginResync_touches _ _ _); · decide)
    | (with_reducible apply OnlyTouches.after (State.heardHello_touches _ _ _ _); · decide)
    | with_reducible apply OnlyTouches.ite
    | with_reducible intro _
    | split
    | with_reducible refine OnlyTouches.pair (by assumption) ?_
    | dsimp only

end Sys2Proof.Machine
end

