-- ==== Sys2Proof/Laws/KeepCustody.lean ====
section
/-! SUPPORT. The operations of Machine/Custody.lean keep the invariant. -/

namespace Sys2Proof.Machine

theorem State.sendControl_keeps (s : State) (k kind seq range count detail : Nat) (body : List Byte) :
    Keeps s (State.sendControl s k kind seq range count detail body) := by
  unfold State.sendControl
  try dsimp only
  repeat' first
    | with_reducible exact .refl _
    | with_reducible assumption
    | ((with_reducible apply Keeps.afterT (State.count_touches _ _ _ _ _)); · rfl)
    | with_reducible apply Keeps.after (State.send_keeps _ _ _ _ _)
    | with_reducible intro _
    | with_reducible apply Keeps.put_custody
    | with_reducible refine Keeps.pair (by assumption) ?_
    | dsimp only

theorem State.sendHello_keeps (s : State) (k : Nat) : Keeps s (State.sendHello s k) := by
  unfold State.sendHello
  try dsimp only
  repeat' first
    | with_reducible exact .refl _
    | with_reducible assumption
    | with_reducible apply Keeps.after (State.sendControl_keeps _ _ _ _ _ _ _ _)
    | with_reducible intro _
    | with_reducible refine Keeps.pair (by assumption) ?_
    | dsimp only

theorem State.pairEvent_keeps (s : State) : Keeps s (State.pairEvent s) := by
  unfold State.pairEvent
  try dsimp only
  repeat' first
    | with_reducible exact .refl _
    | with_reducible assumption
    | ((with_reducible apply Keeps.afterT (State.draw_touches _)); · rfl)
    | with_reducible apply Keeps.after (State.eventAt_keeps _ _ _ _ _)
    | with_reducible intro _

theorem State.loseCustody_keeps (s : State) (k : Nat) : Keeps s (State.loseCustody s k) := by
  unfold State.loseCustody
  try dsimp only
  repeat' first
    | with_reducible exact .refl _
    | with_reducible assumption
    | ((with_reducible apply Keeps.afterT (State.bump_touches _ _ _)); · rfl)
    | ((with_reducible apply Keeps.afterT (State.modPair_touches _ _ _)); · rfl)
    | with_reducible apply Keeps.after (State.holdAlert_keeps _ _)
    | with_reducible apply Keeps.after (State.eventObj_keeps _ _ _ _)
    | with_reducible apply Keeps.after (State.capsule_keeps _ _ _ _)
    | with_reducible intro _
    | with_reducible refine Keeps.pair (by assumption) ?_
    | dsimp only

theorem State.degrade_keeps (s : State) (k : Nat) : Keeps s (State.degrade s k) := by
  unfold State.degrade
  try dsimp only
  repeat' first
    | with_reducible exact .refl _
    | with_reducible assumption
    | ((with_reducible apply Keeps.afterT (State.setPair_touches _ _ _)); · rfl)
    | with_reducible apply Keeps.after (State.holdAlert_keeps _ _)
    | with_reducible apply Keeps.after (State.endFailed_keeps _ _ _)
    | with_reducible intro _
    | split

theorem State.sendRangeBlocks_keeps (s : State) (k seq r : Nat) : Keeps s (State.sendRangeBlocks s k seq r)
    := by
  unfold State.sendRangeBlocks
  try dsimp only
  repeat' first
    | with_reducible exact .refl _
    | with_reducible assumption
    | with_reducible apply Keeps.fold
    | with_reducible apply Keeps.foldPair
    | ((with_reducible apply Keeps.afterT (State.bump_touches _ _ _)); · rfl)
    | ((with_reducible apply Keeps.afterT (State.drop_touches _ _ _)); · rfl)
    | ((with_reducible apply Keeps.afterT (State.countFirmware_touches _ _ _ _)); · rfl)
    | with_reducible apply Keeps.after (State.sendControl_keeps _ _ _ _ _ _ _ _)
    | with_reducible intro _

theorem State.sendRange_keeps (s : State) (k : Nat) : Keeps s (State.sendRange s k) := by
  unfold State.sendRange
  try dsimp only
  repeat' first
    | with_reducible exact .refl _
    | with_reducible assumption
    | ((with_reducible apply Keeps.afterT (State.setPair_touches _ _ _)); · rfl)
    | with_reducible apply Keeps.after (State.sendRangeBlocks_keeps _ _ _ _)
    | with_reducible apply Keeps.ite
    | with_reducible intro _
    | split
    | with_reducible refine Keeps.pair (by assumption) ?_
    | dsimp only

theorem State.resyncDone_keeps (s : State) (k : Nat) (y : Resync) : Keeps s (State.resyncDone s k y) := by
  unfold State.resyncDone
  try dsimp only
  repeat' first
    | with_reducible exact .refl _
    | with_reducible assumption
    | with_reducible apply Keeps.when
    | ((with_reducible apply Keeps.afterT (State.modPair_touches _ _ _)); · rfl)
    | with_reducible apply Keeps.after (State.endDone_keeps _ _)
    | with_reducible apply Keeps.after (State.setResult_keeps _ _ _ _)
    | ((with_reducible apply Keeps.afterT (State.peerBit_touches _ _ _)); · rfl)
    | with_reducible intro _
    | split
    | with_reducible refine Keeps.pair (by assumption) ?_
    | dsimp only

theorem State.resyncNext_keeps (s : State) (k : Nat) : Keeps s (State.resyncNext s k) := by
  unfold State.resyncNext
  try dsimp only
  repeat' first
    | with_reducible exact .refl _
    | with_reducible assumption
    | with_reducible apply Keeps.after (State.sendRange_keeps _ _)
    | with_reducible apply Keeps.after (State.resyncDone_keeps _ _ _)
    | with_reducible apply Keeps.ite
    | with_reducible intro _
    | split
    | with_reducible refine Keeps.pair (by assumption) ?_
    | dsimp only

theorem State.beginResync_keeps (s : State) (k : Nat) (y : Resync) : Keeps s (State.beginResync s k y) := by
  unfold State.beginResync
  try dsimp only
  repeat' first
    | with_reducible exact .refl _
    | with_reducible assumption
    | ((with_reducible apply Keeps.afterT (State.modPair_touches _ _ _)); · rfl)
    | with_reducible apply Keeps.after (State.resyncNext_keeps _ _)
    | with_reducible intro _
    | with_reducible refine Keeps.pair (by assumption) ?_
    | dsimp only

theorem State.rangeFailed_keeps (s : State) (k : Nat) (y : Resync) : Keeps s (State.rangeFailed s k y) := by
  unfold State.rangeFailed
  try dsimp only
  repeat' first
    | with_reducible exact .refl _
    | with_reducible assumption
    | ((with_reducible apply Keeps.afterT (State.modPair_touches _ _ _)); · rfl)
    | with_reducible apply Keeps.after (State.degrade_keeps _ _)
    | with_reducible apply Keeps.after (State.sendRange_keeps _ _)
    | with_reducible apply Keeps.ite
    | with_reducible intro _
    | split
    | with_reducible refine Keeps.pair (by assumption) ?_
    | dsimp only

theorem State.startRemirror_keeps (s : State) (k : Nat) : Keeps s (State.startRemirror s k) := by
  unfold State.startRemirror
  try dsimp only
  repeat' first
    | with_reducible exact .refl _
    | with_reducible assumption
    | with_reducible apply Keeps.when
    | with_reducible apply Keeps.after (State.sendRange_keeps _ _)
    | with_reducible apply Keeps.after (State.resyncNext_keeps _ _)
    | with_reducible apply Keeps.ite
    | with_reducible intro _
    | split

theorem State.compareOutcome_keeps (s : State) (k : Nat) : Keeps s (State.compareOutcome s k) := by
  unfold State.compareOutcome
  try dsimp only
  repeat' first
    | with_reducible exact .refl _
    | with_reducible assumption
    | ((with_reducible apply Keeps.afterT (State.bump_touches _ _ _)); · rfl)
    | ((with_reducible apply Keeps.afterT (State.setPair_touches _ _ _)); · rfl)
    | with_reducible apply Keeps.after (State.beginResync_keeps _ _ _)
    | with_reducible apply Keeps.ite
    | with_reducible intro _
    | split
    | with_reducible refine Keeps.pair (by assumption) ?_
    | dsimp only

theorem State.sendCompared_keeps (s : State) (k : Nat) : Keeps s (State.sendCompared s k) := by
  unfold State.sendCompared
  try dsimp only
  repeat' first
    | with_reducible exact .refl _
    | with_reducible assumption
    | with_reducible apply Keeps.after (State.sendControl_keeps _ _ _ _ _ _ _ _)
    | with_reducible intro _
    | with_reducible refine Keeps.pair (by assumption) ?_
    | dsimp only

theorem State.tryCompare_keeps (s : State) (k : Nat) : Keeps s (State.tryCompare s k) := by
  unfold State.tryCompare
  try dsimp only
  repeat' first
    | with_reducible exact .refl _
    | with_reducible assumption
    | ((with_reducible apply Keeps.afterT (State.bump_touches _ _ _)); · rfl)
    | ((with_reducible apply Keeps.afterT (State.modPair_touches _ _ _)); · rfl)
    | with_reducible apply Keeps.after (State.compareOutcome_keeps _ _)
    | with_reducible apply Keeps.after (State.sendCompared_keeps _ _)
    | with_reducible apply Keeps.ite
    | with_reducible intro _
    | split
    | with_reducible refine Keeps.pair (by assumption) ?_
    | dsimp only

theorem State.sendDigests_keeps (s : State) (k seq : Nat) (mine : Tbl (Nat × Bool × Nat)) (b : Nat) : Keeps
    s (State.sendDigests s k seq mine b) := by
  unfold State.sendDigests
  try dsimp only
  repeat' first
    | with_reducible exact .refl _
    | with_reducible assumption
    | with_reducible apply Keeps.after (State.sendControl_keeps _ _ _ _ _ _ _ _)
    | with_reducible intro _
    | with_reducible refine Keeps.pair (by assumption) ?_
    | dsimp only

theorem State.sendBatch_keeps (s : State) (k b : Nat) : Keeps s (State.sendBatch s k b) := by
  unfold State.sendBatch
  try dsimp only
  repeat' first
    | with_reducible exact .refl _
    | with_reducible assumption
    | with_reducible apply Keeps.after (State.sendDigests_keeps _ _ _ _ _)
    | with_reducible intro _
    | with_reducible refine Keeps.pair (by assumption) ?_
    | dsimp only

theorem State.resendDigests_keeps (s : State) (k : Nat) : Keeps s (State.resendDigests s k) := by
  unfold State.resendDigests
  try dsimp only
  repeat' first
    | with_reducible exact .refl _
    | with_reducible assumption
    | with_reducible apply Keeps.fold
    | with_reducible apply Keeps.foldPair
    | with_reducible apply Keeps.after (State.sendDigests_keeps _ _ _ _ _)
    | with_reducible apply Keeps.after (State.sendBatch_keeps _ _ _)
    | with_reducible apply Keeps.ite
    | with_reducible intro _
    | split

theorem State.judgeLag_keeps (s : State) (k : Nat) : Keeps s (State.judgeLag s k) := by
  unfold State.judgeLag
  try dsimp only
  repeat' first
    | with_reducible exact .refl _
    | with_reducible assumption
    | with_reducible apply Keeps.when
    | ((with_reducible apply Keeps.afterT (State.setPair_touches _ _ _)); · rfl)
    | with_reducible apply Keeps.after (State.pairEvent_keeps _)
    | with_reducible apply Keeps.ite
    | with_reducible intro _
    | split
    | with_reducible refine Keeps.pair (by assumption) ?_
    | dsimp only

theorem State.closeStep_keeps (s : State) (k : Nat) (aborted : Bool) : Keeps s (State.closeStep s k
    aborted) := by
  unfold State.closeStep
  try dsimp only
  repeat' first
    | with_reducible exact .refl _
    | with_reducible assumption
    | with_reducible apply Keeps.when
    | ((with_reducible apply Keeps.afterT (State.setPair_touches _ _ _)); · rfl)
    | with_reducible apply Keeps.after (State.sendControl_keeps _ _ _ _ _ _ _ _)
    | with_reducible apply Keeps.after (State.startRemirror_keeps _ _)
    | with_reducible apply Keeps.after (State.tryCompare_keeps _ _)
    | with_reducible apply Keeps.after (State.sendBatch_keeps _ _ _)
    | with_reducible apply Keeps.after (State.judgeLag_keeps _ _)
    | with_reducible intro _
    | with_reducible refine Keeps.pair (by assumption) ?_
    | dsimp only

theorem State.checkClose_keeps (s : State) (k : Nat) : Keeps s (State.checkClose s k) := by
  unfold State.checkClose
  try dsimp only
  repeat' first
    | with_reducible exact .refl _
    | with_reducible assumption
    | with_reducible apply Keeps.after (State.closeStep_keeps _ _ _)
    | with_reducible apply Keeps.ite
    | with_reducible intro _
    | split

theorem State.countChunk_keeps (s : State) (k seq chunk : Nat) (applied dirty : Bool) : Keeps s
    (State.countChunk s k seq chunk applied dirty) := by
  unfold State.countChunk
  try dsimp only
  repeat' first
    | with_reducible exact .refl _
    | with_reducible assumption
    | with_reducible apply Keeps.fold
    | with_reducible apply Keeps.foldPair
    | ((with_reducible apply Keeps.afterT (State.setPair_touches _ _ _)); · rfl)
    | with_reducible apply Keeps.after (State.checkClose_keeps _ _)
    | with_reducible apply Keeps.ite
    | with_reducible intro _
    | split
    | with_reducible refine Keeps.pair (by assumption) ?_
    | dsimp only

theorem State.abortArrives_keeps (s : State) (g seq : Nat) : Keeps s (State.abortArrives s g seq) := by
  unfold State.abortArrives
  try dsimp only
  repeat' first
    | with_reducible exact .refl _
    | with_reducible assumption
    | ((with_reducible apply Keeps.afterT (State.setPair_touches _ _ _)); · rfl)
    | with_reducible apply Keeps.after (State.closeStep_keeps _ _ _)
    | with_reducible apply Keeps.ite
    | with_reducible intro _
    | split
    | with_reducible refine Keeps.pair (by assumption) ?_
    | dsimp only

theorem State.withPair_keeps (s : State) (m : CustodyMsg) (kind : Nat)
    (f : State → Nat → State) (hf : ∀ u k, Keeps u (f u k)) {s0 : State} (h : Keeps s0 s) :
    Keeps s0 (State.withPair s m kind f) := by
  unfold State.withPair
  split
  · exact h
  · split
    · exact .after (hf _ _) h
    · exact .afterT (State.bump_touches _ _ _) rfl h

theorem State.pairFails_keeps (s : State) (k code : Nat) : Keeps s (State.pairFails s k code) := by
  unfold State.pairFails
  try dsimp only
  repeat' first
    | with_reducible exact .refl _
    | with_reducible assumption
    | ((with_reducible apply Keeps.afterT (State.setPair_touches _ _ _)); · rfl)
    | with_reducible apply Keeps.after (State.endFailed_keeps _ _ _)
    | with_reducible apply Keeps.ite
    | with_reducible intro _
    | split

theorem State.heardHello_keeps (s : State) (k otherPair crc : Nat) : Keeps s (State.heardHello s k
    otherPair crc) := by
  unfold State.heardHello
  try dsimp only
  repeat' first
    | with_reducible exact .refl _
    | with_reducible assumption
    | ((with_reducible apply Keeps.afterT (State.setPair_touches _ _ _)); · rfl)
    | ((with_reducible apply Keeps.afterT (State.modPair_touches _ _ _)); · rfl)
    | with_reducible apply Keeps.after (State.endDone_keeps _ _)
    | ((with_reducible apply Keeps.afterT (State.peerBit_touches _ _ _)); · rfl)
    | with_reducible apply Keeps.after (State.startRemirror_keeps _ _)
    | with_reducible apply Keeps.after (State.pairFails_keeps _ _ _)
    | with_reducible apply Keeps.ite
    | with_reducible intro _
    | split
    | with_reducible refine Keeps.pair (by assumption) ?_
    | dsimp only

theorem State.takeHello_keeps (s : State) (m : CustodyMsg) (k : Nat) : Keeps s (State.takeHello s m k) := by
  unfold State.takeHello
  try dsimp only
  repeat' first
    | with_reducible exact .refl _
    | with_reducible assumption
    | ((with_reducible apply Keeps.afterT (State.modPair_touches _ _ _)); · rfl)
    | with_reducible apply Keeps.after (State.heardHello_keeps _ _ _ _)
    | with_reducible apply Keeps.ite
    | with_reducible intro _
    | split
    | with_reducible refine Keeps.pair (by assumption) ?_
    | dsimp only

theorem execCustodyHello_keeps (msg : CustodyMsg) (s : State) : StepKeeps s (execCustodyHello msg s) := by
  unfold execCustodyHello
  try dsimp only
  repeat' first
    | with_reducible apply Keeps.ofNext
    | with_reducible exact .refl _
    | with_reducible assumption
    | (with_reducible apply State.withPair_keeps)
    | with_reducible apply Keeps.after (State.takeHello_keeps _ _ _)
    | with_reducible intro _
    | with_reducible refine Keeps.pair (by assumption) ?_
    | dsimp only

theorem execHelloTimeout_keeps (pair : Fin 4096) (s : State) : StepKeeps s (execHelloTimeout pair s) := by
  unfold execHelloTimeout
  try dsimp only
  repeat' first
    | with_reducible apply Keeps.ofNext
    | with_reducible exact .refl _
    | with_reducible assumption
    | with_reducible apply Keeps.after (State.pairFails_keeps _ _ _)
    | with_reducible apply Keeps.ite
    | with_reducible apply Keeps.iteStep
    | with_reducible intro _
    | split

theorem State.takeClose_keeps (s : State) (m : CustodyMsg) (k : Nat) : Keeps s (State.takeClose s m k) := by
  unfold State.takeClose
  try dsimp only
  repeat' first
    | with_reducible exact .refl _
    | with_reducible assumption
    | ((with_reducible apply Keeps.afterT (State.modPair_touches _ _ _)); · rfl)
    | with_reducible apply Keeps.after (State.judgeLag_keeps _ _)
    | with_reducible apply Keeps.after (State.checkClose_keeps _ _)
    | with_reducible apply Keeps.ite
    | with_reducible intro _
    | split
    | with_reducible refine Keeps.pair (by assumption) ?_
    | dsimp only

theorem execCustodyClose_keeps (msg : CustodyMsg) (s : State) : StepKeeps s (execCustodyClose msg s) := by
  unfold execCustodyClose
  try dsimp only
  repeat' first
    | with_reducible apply Keeps.ofNext
    | with_reducible exact .refl _
    | with_reducible assumption
    | (with_reducible apply State.withPair_keeps)
    | with_reducible apply Keeps.after (State.takeClose_keeps _ _ _)
    | with_reducible intro _
    | with_reducible refine Keeps.pair (by assumption) ?_
    | dsimp only

theorem execCloseWaitExpiry_keeps (pair : Fin 4096) (s : State) : StepKeeps s (execCloseWaitExpiry pair s)
    := by
  unfold execCloseWaitExpiry
  try dsimp only
  repeat' first
    | with_reducible apply Keeps.ofNext
    | with_reducible exact .refl _
    | with_reducible assumption
    | ((with_reducible apply Keeps.afterT (State.setPair_touches _ _ _)); · rfl)
    | with_reducible apply Keeps.after (State.closeStep_keeps _ _ _)
    | with_reducible apply Keeps.ite
    | with_reducible apply Keeps.iteStep
    | with_reducible intro _
    | split
    | with_reducible refine Keeps.pair (by assumption) ?_
    | dsimp only

theorem execRangeDigestDone_keeps (pair : Fin 4096) (range : Nat) (s : State) : StepKeeps s
    (execRangeDigestDone pair range s) := by
  unfold execRangeDigestDone
  try dsimp only
  repeat' first
    | with_reducible apply Keeps.ofNext
    | with_reducible exact .refl _
    | with_reducible assumption
    | ((with_reducible apply Keeps.afterT (State.bump_touches _ _ _)); · rfl)
    | ((with_reducible apply Keeps.afterT (State.setPair_touches _ _ _)); · rfl)
    | ((with_reducible apply Keeps.afterT (State.countFirmware_touches _ _ _ _)); · rfl)
    | with_reducible apply Keeps.after (State.tryCompare_keeps _ _)
    | with_reducible apply Keeps.after (State.sendBatch_keeps _ _ _)
    | with_reducible apply Keeps.ite
    | with_reducible apply Keeps.iteStep
    | with_reducible intro _
    | split
    | with_reducible refine Keeps.pair (by assumption) ?_
    | dsimp only

theorem State.takeDigest_keeps (s : State) (m : CustodyMsg) (k : Nat) : Keeps s (State.takeDigest s m k) :=
    by
  unfold State.takeDigest
  try dsimp only
  repeat' first
    | with_reducible exact .refl _
    | with_reducible assumption
    | with_reducible apply Keeps.fold
    | with_reducible apply Keeps.foldPair
    | ((with_reducible apply Keeps.afterT (State.setPair_touches _ _ _)); · rfl)
    | with_reducible apply Keeps.after (State.sendControl_keeps _ _ _ _ _ _ _ _)
    | with_reducible apply Keeps.after (State.tryCompare_keeps _ _)
    | with_reducible apply Keeps.ite
    | with_reducible intro _
    | split
    | with_reducible refine Keeps.pair (by assumption) ?_
    | dsimp only

theorem execCustodyDigest_keeps (msg : CustodyMsg) (s : State) : StepKeeps s (execCustodyDigest msg s) := by
  unfold execCustodyDigest
  try dsimp only
  repeat' first
    | with_reducible apply Keeps.ofNext
    | with_reducible exact .refl _
    | with_reducible assumption
    | (with_reducible apply State.withPair_keeps)
    | with_reducible apply Keeps.after (State.takeDigest_keeps _ _ _)
    | with_reducible intro _
    | with_reducible refine Keeps.pair (by assumption) ?_
    | dsimp only

theorem execDigestResend_keeps (pair : Fin 4096) (s : State) : StepKeeps s (execDigestResend pair s) := by
  unfold execDigestResend
  try dsimp only
  repeat' first
    | with_reducible apply Keeps.ofNext
    | with_reducible exact .refl _
    | with_reducible assumption
    | ((with_reducible apply Keeps.afterT (State.setPair_touches _ _ _)); · rfl)
    | with_reducible apply Keeps.after (State.resendDigests_keeps _ _)
    | with_reducible apply Keeps.ite
    | with_reducible apply Keeps.iteStep
    | with_reducible intro _
    | split
    | with_reducible refine Keeps.pair (by assumption) ?_
    | dsimp only

theorem execComparisonLate_keeps (pair : Fin 4096) (s : State) : StepKeeps s (execComparisonLate pair s) :=
    by
  unfold execComparisonLate
  try dsimp only
  repeat' first
    | with_reducible apply Keeps.ofNext
    | with_reducible exact .refl _
    | with_reducible assumption
    | ((with_reducible apply Keeps.afterT (State.setPair_touches _ _ _)); · rfl)
    | with_reducible apply Keeps.after (State.pairEvent_keeps _)
    | with_reducible apply Keeps.ite
    | with_reducible apply Keeps.iteStep
    | with_reducible intro _
    | split
    | with_reducible refine Keeps.pair (by assumption) ?_
    | dsimp only

theorem State.rollbackNotice_keeps (s : State) (k seq : Nat) : Keeps s (State.rollbackNotice s k seq) := by
  unfold State.rollbackNotice
  try dsimp only
  repeat' first
    | with_reducible exact .refl _
    | with_reducible assumption
    | ((with_reducible apply Keeps.afterT (State.draw_touches _)); · rfl)
    | with_reducible apply Keeps.after (State.sendGroup_keeps _ _ _ _ _ _ _)
    | with_reducible intro _
    | with_reducible refine Keeps.pair (by assumption) ?_
    | dsimp only

theorem State.restoreDone_keeps (s : State) (k seq : Nat) : Keeps s (State.restoreDone s k seq) := by
  unfold State.restoreDone
  try dsimp only
  repeat' first
    | with_reducible exact .refl _
    | with_reducible assumption
    | ((with_reducible apply Keeps.afterT (State.setPair_touches _ _ _)); · rfl)
    | with_reducible apply Keeps.after (State.store_keeps _ _ _)
    | ((with_reducible apply Keeps.afterT (State.countFirmware_touches _ _ _ _)); · rfl)
    | with_reducible apply Keeps.ite
    | with_reducible intro _
    | split
    | with_reducible refine Keeps.pair (by assumption) ?_
    | dsimp only

theorem execRestoreComplete_keeps (pair : Fin 4096) (s : State) : StepKeeps s (execRestoreComplete pair s)
    := by
  unfold execRestoreComplete
  try dsimp only
  repeat' first
    | with_reducible apply Keeps.ofNext
    | with_reducible exact .refl _
    | with_reducible assumption
    | with_reducible apply Keeps.after (State.restoreDone_keeps _ _ _)
    | with_reducible apply Keeps.ite
    | with_reducible apply Keeps.iteStep
    | with_reducible intro _
    | split

theorem State.applyCompared_keeps (s : State) (k : Nat) : Keeps s (State.applyCompared s k) := by
  unfold State.applyCompared
  try dsimp only
  repeat' first
    | with_reducible exact .refl _
    | with_reducible assumption
    | with_reducible apply Keeps.when
    | ((with_reducible apply Keeps.afterT (State.bump_touches _ _ _)); · rfl)
    | ((with_reducible apply Keeps.afterT (State.setPair_touches _ _ _)); · rfl)
    | with_reducible apply Keeps.after (State.endDone_keeps _ _)
    | with_reducible apply Keeps.after (State.setResult_keeps _ _ _ _)
    | with_reducible apply Keeps.after (State.degrade_keeps _ _)
    | with_reducible apply Keeps.after (State.rollbackNotice_keeps _ _ _)
    | with_reducible apply Keeps.ite
    | with_reducible intro _
    | split
    | with_reducible refine Keeps.pair (by assumption) ?_
    | dsimp only

theorem State.comparedAll_keeps (s : State) : Keeps s (State.comparedAll s) := by
  unfold State.comparedAll
  try dsimp only
  repeat' first
    | with_reducible exact .refl _
    | with_reducible assumption
    | with_reducible apply Keeps.fold
    | with_reducible apply Keeps.foldPair
    | with_reducible apply Keeps.after (State.startRemirror_keeps _ _)
    | with_reducible apply Keeps.after (State.applyCompared_keeps _ _)
    | with_reducible intro _
    | with_reducible refine Keeps.pair (by assumption) ?_
    | dsimp only

theorem State.takeResync_keeps (s : State) (m : CustodyMsg) (k : Nat) : Keeps s (State.takeResync s m k) :=
    by
  unfold State.takeResync
  try dsimp only
  repeat' first
    | with_reducible exact .refl _
    | with_reducible assumption
    | with_reducible apply Keeps.when
    | ((with_reducible apply Keeps.afterT (State.bump_touches _ _ _)); · rfl)
    | ((with_reducible apply Keeps.afterT (State.setPair_touches _ _ _)); · rfl)
    | with_reducible apply Keeps.after (State.store_keeps _ _ _)
    | ((with_reducible apply Keeps.afterT (State.countFirmware_touches _ _ _ _)); · rfl)
    | with_reducible apply Keeps.after (State.sendControl_keeps _ _ _ _ _ _ _ _)
    | with_reducible apply Keeps.after (State.resyncDone_keeps _ _ _)
    | with_reducible apply Keeps.ite
    | with_reducible intro _
    | split
    | with_reducible refine Keeps.pair (by assumption) ?_
    | dsimp only

theorem execResyncData_keeps (msg : CustodyMsg) (s : State) : StepKeeps s (execResyncData msg s) := by
  unfold execResyncData
  try dsimp only
  repeat' first
    | with_reducible apply Keeps.ofNext
    | with_reducible exact .refl _
    | with_reducible assumption
    | (with_reducible apply State.withPair_keeps)
    | with_reducible apply Keeps.after (State.takeResync_keeps _ _ _)
    | with_reducible intro _
    | with_reducible refine Keeps.pair (by assumption) ?_
    | dsimp only

theorem State.takeAck_keeps (s : State) (m : CustodyMsg) (k : Nat) : Keeps s (State.takeAck s m k) := by
  unfold State.takeAck
  try dsimp only
  repeat' first
    | with_reducible exact .refl _
    | with_reducible assumption
    | ((with_reducible apply Keeps.afterT (State.bump_touches _ _ _)); · rfl)
    | ((with_reducible apply Keeps.afterT (State.setPair_touches _ _ _)); · rfl)
    | with_reducible apply Keeps.after (State.setProgress_keeps _ _ _)
    | with_reducible apply Keeps.after (State.resyncNext_keeps _ _)
    | with_reducible apply Keeps.after (State.rangeFailed_keeps _ _ _)
    | with_reducible apply Keeps.ite
    | with_reducible intro _
    | split
    | with_reducible apply Keeps.put_out
    | with_reducible refine Keeps.pair (by assumption) ?_
    | dsimp only

theorem execResyncAck_keeps (msg : CustodyMsg) (s : State) : StepKeeps s (execResyncAck msg s) := by
  unfold execResyncAck
  try dsimp only
  repeat' first
    | with_reducible apply Keeps.ofNext
    | with_reducible exact .refl _
    | with_reducible assumption
    | (with_reducible apply State.withPair_keeps)
    | with_reducible apply Keeps.after (State.takeAck_keeps _ _ _)
    | with_reducible intro _
    | with_reducible refine Keeps.pair (by assumption) ?_
    | dsimp only

theorem execResyncRangeTimeout_keeps (pair : Fin 4096) (s : State) : StepKeeps s (execResyncRangeTimeout
    pair s) := by
  unfold execResyncRangeTimeout
  try dsimp only
  repeat' first
    | with_reducible apply Keeps.ofNext
    | with_reducible exact .refl _
    | with_reducible assumption
    | with_reducible apply Keeps.after (State.rangeFailed_keeps _ _ _)
    | with_reducible apply Keeps.ite
    | with_reducible apply Keeps.iteStep
    | with_reducible intro _
    | split
    | with_reducible refine Keeps.pair (by assumption) ?_
    | dsimp only

theorem State.restartRecoveries_keeps (s : State) : Keeps s (State.restartRecoveries s) := by
  unfold State.restartRecoveries
  try dsimp only
  repeat' first
    | with_reducible exact .refl _
    | with_reducible assumption
    | with_reducible apply Keeps.when
    | with_reducible apply Keeps.fold
    | with_reducible apply Keeps.foldPair
    | ((with_reducible apply Keeps.afterT (State.modPair_touches _ _ _)); · rfl)
    | with_reducible apply Keeps.after (State.sendRange_keeps _ _)
    | with_reducible apply Keeps.ite
    | with_reducible intro _
    | split
    | with_reducible refine Keeps.pair (by assumption) ?_
    | dsimp only

theorem State.declareLost_keeps (s : State) (k : Nat) : Keeps s (State.declareLost s k) := by
  unfold State.declareLost
  try dsimp only
  repeat' first
    | with_reducible exact .refl _
    | with_reducible assumption
    | ((with_reducible apply Keeps.afterT (State.setPair_touches _ _ _)); · rfl)
    | with_reducible apply Keeps.after (State.capsule_keeps _ _ _ _)
    | with_reducible apply Keeps.after (State.endFailed_keeps _ _ _)
    | with_reducible apply Keeps.after (State.pairEvent_keeps _)
    | with_reducible apply Keeps.after (State.loseCustody_keeps _ _)
    | with_reducible apply Keeps.ite
    | with_reducible intro _
    | split
    | with_reducible refine Keeps.pair (by assumption) ?_
    | dsimp only

theorem execPartnerTimeout_keeps (pair : Fin 4096) (s : State) : StepKeeps s (execPartnerTimeout pair s) :=
    by
  unfold execPartnerTimeout
  try dsimp only
  repeat' first
    | with_reducible apply Keeps.ofNext
    | with_reducible exact .refl _
    | with_reducible assumption
    | with_reducible apply Keeps.after (State.declareLost_keeps _ _)
    | with_reducible apply Keeps.ite
    | with_reducible apply Keeps.iteStep
    | with_reducible intro _
    | split
    | with_reducible refine Keeps.pair (by assumption) ?_
    | dsimp only

theorem State.writeApplied_keeps (s : State) (k : Nat) (p : Pair) : Keeps s (State.writeApplied s k p) := by
  unfold State.writeApplied
  try dsimp only
  repeat' first
    | with_reducible exact .refl _
    | with_reducible assumption
    | with_reducible apply Keeps.fold
    | with_reducible apply Keeps.foldPair
    | with_reducible apply Keeps.after (State.write_keeps _ _ _)
    | with_reducible apply Keeps.ite
    | with_reducible intro _
    | split
    | with_reducible refine Keeps.pair (by assumption) ?_
    | dsimp only

theorem State.takeOverNow_keeps (s : State) (k token : Nat) : Keeps s (State.takeOverNow s k token) := by
  unfold State.takeOverNow
  try dsimp only
  repeat' first
    | with_reducible exact .refl _
    | with_reducible assumption
    | ((with_reducible apply Keeps.afterT (State.bump_touches _ _ _)); · rfl)
    | ((with_reducible apply Keeps.afterT (State.setPair_touches _ _ _)); · rfl)
    | with_reducible apply Keeps.after (State.endDone_keeps _ _)
    | with_reducible apply Keeps.after (State.setResult_keeps _ _ _ _)
    | with_reducible apply Keeps.after (State.markActed_keeps _ _)
    | ((with_reducible apply Keeps.afterT (State.peerBit_touches _ _ _)); · rfl)
    | with_reducible apply Keeps.after (State.writeApplied_keeps _ _ _)
    | with_reducible apply Keeps.ite
    | with_reducible intro _
    | split
    | with_reducible refine Keeps.pair (by assumption) ?_
    | dsimp only

theorem State.takeOverDue_keeps (s : State) (k : Nat) : Keeps s (State.takeOverDue s k) := by
  unfold State.takeOverDue
  try dsimp only
  repeat' first
    | with_reducible exact .refl _
    | with_reducible assumption
    | with_reducible apply Keeps.fold
    | with_reducible apply Keeps.foldPair
    | with_reducible apply Keeps.after (State.endFailed_keeps _ _ _)
    | with_reducible apply Keeps.after (State.takeOverNow_keeps _ _ _)
    | with_reducible apply Keeps.ite
    | with_reducible intro _
    | split
    | with_reducible refine Keeps.pair (by assumption) ?_
    | dsimp only

theorem execTakeOverEffect_keeps (pair : Fin 4096) (s : State) : StepKeeps s (execTakeOverEffect pair s) :=
    by
  unfold execTakeOverEffect
  try dsimp only
  repeat' first
    | with_reducible apply Keeps.ofNext
    | with_reducible exact .refl _
    | with_reducible assumption
    | with_reducible apply Keeps.after (State.takeOverDue_keeps _ _)
    | with_reducible intro _
    | with_reducible refine Keeps.pair (by assumption) ?_
    | dsimp only

theorem State.pairTake_keeps (s : State) (token : Nat) (args : Tbl Nat) : Keeps s (State.pairTake s token
    args) := by
  unfold State.pairTake
  try dsimp only
  repeat' first
    | with_reducible exact .refl _
    | with_reducible assumption
    | ((with_reducible apply Keeps.afterT (State.setPair_touches _ _ _)); · rfl)
    | with_reducible apply Keeps.after (State.setResult_keeps _ _ _ _)
    | with_reducible apply Keeps.after (State.sendHello_keeps _ _)
    | with_reducible intro _
    | with_reducible refine Keeps.pair (by assumption) ?_
    | dsimp only

theorem State.resyncTake_keeps (s : State) (token : Nat) (args : Tbl Nat) : Keeps s (State.resyncTake s
    token args) := by
  unfold State.resyncTake
  try dsimp only
  repeat' first
    | with_reducible exact .refl _
    | with_reducible assumption
    | with_reducible apply Keeps.fold
    | with_reducible apply Keeps.foldPair
    | ((with_reducible apply Keeps.afterT (State.setPair_touches _ _ _)); · rfl)
    | with_reducible apply Keeps.after (State.sendHello_keeps _ _)
    | with_reducible apply Keeps.after (State.beginResync_keeps _ _ _)
    | with_reducible apply Keeps.after (State.heardHello_keeps _ _ _ _)
    | with_reducible apply Keeps.ite
    | with_reducible intro _
    | split
    | with_reducible refine Keeps.pair (by assumption) ?_
    | dsimp only

end Sys2Proof.Machine
end

