-- ==== Sys2Proof/Laws/TouchTills.lean ====
section
/-! SUPPORT. Which parts of the state each operation of Machine/Tills.lean changes. -/

namespace Sys2Proof.Machine

theorem State.newCtx_touches (s : State) (home g seq chunk n : Nat) (custody : Bool) : OnlyTouches [.objs,
    .switch, .coll, .mem, .ledger, .dict, .host] s (State.newCtx s home g seq chunk n custody).1 := by
  unfold State.newCtx
  try dsimp only
  repeat' first
    | with_reducible exact .refl _ _
    | with_reducible assumption
    | with_reducible apply OnlyTouches.when
    | (with_reducible apply OnlyTouches.after (State.putObj_touches _ _ _); · decide)
    | (with_reducible apply OnlyTouches.after (State.bump_touches _ _ _); · decide)
    | (with_reducible apply OnlyTouches.after (State.count_touches _ _ _ _ _); · decide)
    | (with_reducible apply OnlyTouches.after (State.takeStagingOrKept_touches _ _ _ _ _); · decide)
    | (with_reducible apply OnlyTouches.afterPair (State.takeStagingOrKept_touches _ _ _ _ _); (first | assumption | decide); (first | assumption | decide))
    | with_reducible apply OnlyTouches.ite
    | with_reducible intro _
    | split
    | (with_reducible apply OnlyTouches.put_coll; · decide)
    | with_reducible refine OnlyTouches.pair (by assumption) ?_
    | dsimp only

theorem State.mirrorAcc_touches (s : State) (c : Ctx) (x : GroupSt) (f : Frame) : OnlyTouches [.mem] s
    (State.mirrorAcc s c x f) := by
  unfold State.mirrorAcc
  try dsimp only
  repeat' first
    | with_reducible exact .refl _ _
    | with_reducible assumption
    | (with_reducible apply OnlyTouches.after (State.write_touches _ _ _); · decide)
    | with_reducible intro _
    | split

theorem State.adderPass_touches (s : State) (c : Ctx) (x : GroupSt) (f : Frame) : OnlyTouches [.objs,
    .ledger] s (State.adderPass s c x f) := by
  unfold State.adderPass
  try dsimp only
  repeat' first
    | with_reducible exact .refl _ _
    | with_reducible assumption
    | with_reducible apply OnlyTouches.fold
    | with_reducible apply OnlyTouches.foldPair
    | (with_reducible apply OnlyTouches.after (State.countAccess_touches _ _ _ _ _ _); · decide)
    | (with_reducible apply OnlyTouches.after (State.countAdder_touches _ _ _); · decide)
    | with_reducible apply OnlyTouches.ite
    | with_reducible intro _
    | split
    | with_reducible refine OnlyTouches.pair (by assumption) ?_
    | dsimp only

theorem State.tillMismatch_touches (s : State) (home pitch : Nat) : OnlyTouches [.objs, .ledger, .dict,
    .host] s (State.tillMismatch s home pitch) := by
  unfold State.tillMismatch
  try dsimp only
  repeat' first
    | with_reducible exact .refl _ _
    | with_reducible assumption
    | (with_reducible apply OnlyTouches.after (State.bump_touches _ _ _); · decide)
    | (with_reducible apply OnlyTouches.after (State.eventObj_touches _ _ _ _); · decide)
    | (with_reducible apply OnlyTouches.after (State.count_touches _ _ _ _ _); · decide)
    | with_reducible intro _
    | with_reducible refine OnlyTouches.pair (by assumption) ?_
    | dsimp only

theorem State.tillUpset_touches (s : State) (home pitch : Nat) (adder : Option Nat) (x0 : Upset) :
    OnlyTouches [.objs, .power, .ledger, .dict, .host, .free] s (State.tillUpset s home pitch adder x0) :=
    by
  unfold State.tillUpset
  try dsimp only
  repeat' first
    | with_reducible exact .refl _ _
    | with_reducible assumption
    | (with_reducible apply OnlyTouches.after (State.adderMismatch_touches _ _ _); · decide)
    | (with_reducible apply OnlyTouches.after (State.sramFixed_touches _ _); · decide)
    | (with_reducible apply OnlyTouches.after (State.sramBad_touches _ _); · decide)
    | (with_reducible apply OnlyTouches.after (State.tillMismatch_touches _ _ _); · decide)
    | with_reducible intro _
    | split
    | with_reducible refine OnlyTouches.pair (by assumption) ?_
    | dsimp only

theorem State.endReceipt_touches (s : State) (c : Ctx) (verdict cause : Nat) : OnlyTouches [.objs, .ports,
    .switch, .coll, .mem, .ledger, .dict, .host] s (State.endReceipt s c verdict cause) := by
  unfold State.endReceipt
  try dsimp only
  repeat' first
    | with_reducible exact .refl _ _
    | with_reducible assumption
    | (with_reducible apply OnlyTouches.after (State.countReceipt_touches _ _); · decide)
    | (with_reducible apply OnlyTouches.after (State.postDone_touches _ _ _); · decide)
    | (with_reducible apply OnlyTouches.after (State.sendReceipt_touches _ _ _ _ _ _); · decide)
    | (with_reducible apply OnlyTouches.after (State.stageChunk_touches _ _); · decide)
    | (with_reducible apply OnlyTouches.after (State.sendCopy_touches _ _ _ _ _ _ _); · decide)
    | with_reducible apply OnlyTouches.ite
    | with_reducible intro _
    | split
    | with_reducible refine OnlyTouches.pair (by assumption) ?_
    | dsimp only

theorem State.endCtx_touches (s : State) (c : Ctx) (verdict cause : Nat) : OnlyTouches [.objs, .ports,
    .switch, .coll, .mem, .ledger, .dict, .host] s (State.endCtx s c verdict cause) := by
  unfold State.endCtx
  try dsimp only
  repeat' first
    | with_reducible exact .refl _ _
    | with_reducible assumption
    | (with_reducible apply OnlyTouches.after (State.freeBufferOpt_touches _ _); · decide)
    | (with_reducible apply OnlyTouches.after (State.dropCtx_touches _ _ _ _); · decide)
    | (with_reducible apply OnlyTouches.after (State.endReceipt_touches _ _ _ _); · decide)
    | with_reducible intro _
    | with_reducible refine OnlyTouches.pair (by assumption) ?_
    | dsimp only

theorem State.endRelay_touches (s : State) (c : Ctx) : OnlyTouches [.objs, .ports, .switch, .coll, .mem,
    .ledger, .dict, .host] s (State.endRelay s c) := by
  unfold State.endRelay
  try dsimp only
  repeat' first
    | with_reducible exact .refl _ _
    | with_reducible assumption
    | (with_reducible apply OnlyTouches.after (State.freeBufferOpt_touches _ _); · decide)
    | (with_reducible apply OnlyTouches.after (State.dropCtx_touches _ _ _ _); · decide)
    | (with_reducible apply OnlyTouches.after (State.postDone_touches _ _ _); · decide)
    | (with_reducible apply OnlyTouches.after (State.sendReceipt_touches _ _ _ _ _ _); · decide)
    | with_reducible apply OnlyTouches.ite
    | with_reducible intro _
    | split
    | with_reducible refine OnlyTouches.pair (by assumption) ?_
    | dsimp only

theorem State.checkCtx_touches (s : State) (g seq chunk : Nat) : OnlyTouches [.objs, .ports, .switch,
    .coll, .mem, .ledger, .dict, .host] s (State.checkCtx s g seq chunk) := by
  unfold State.checkCtx
  try dsimp only
  repeat' first
    | with_reducible exact .refl _ _
    | with_reducible assumption
    | (with_reducible apply OnlyTouches.after (State.modCtx_touches _ _ _ _ _); · decide)
    | (with_reducible apply OnlyTouches.after (State.endCtx_touches _ _ _ _); · decide)
    | (with_reducible apply OnlyTouches.after (State.endRelay_touches _ _); · decide)
    | with_reducible apply OnlyTouches.ite
    | with_reducible intro _
    | split

theorem State.lateFrame_touches (s : State) (home : Nat) (f : Frame) (i : Nat) : OnlyTouches [.objs, .coll,
    .ledger] s (State.lateFrame s home f i) := by
  unfold State.lateFrame
  try dsimp only
  repeat' first
    | with_reducible exact .refl _ _
    | with_reducible assumption
    | (with_reducible apply OnlyTouches.after (State.bump_touches _ _ _); · decide)
    | (with_reducible apply OnlyTouches.after (State.dropped_touches _ _ _ _); · decide)
    | with_reducible intro _
    | split
    | (with_reducible apply OnlyTouches.put_coll; · decide)
    | with_reducible refine OnlyTouches.pair (by assumption) ?_
    | dsimp only

theorem State.relayFrame_touches (s : State) (home : Nat) (f : Frame) : OnlyTouches [.objs, .ports,
    .switch, .coll, .mem, .ledger, .dict, .host] s (State.relayFrame s home f).1 := by
  unfold State.relayFrame
  try dsimp only
  repeat' first
    | with_reducible exact .refl _ _
    | with_reducible assumption
    | (with_reducible apply OnlyTouches.after (State.bump_touches _ _ _); · decide)
    | (with_reducible apply OnlyTouches.after (State.write_touches _ _ _); · decide)
    | (with_reducible apply OnlyTouches.after (State.sendGroup_touches _ _ _ _ _ _ _); · decide)
    | (with_reducible apply OnlyTouches.after (State.takeStaging_touches _ _ _ _); · decide)
    | (with_reducible apply OnlyTouches.afterPair (State.takeStaging_touches _ _ _ _); (first | assumption | decide); (first | assumption | decide))
    | (with_reducible apply OnlyTouches.after (State.countAccess_touches _ _ _ _ _ _); · decide)
    | with_reducible intro _
    | split
    | with_reducible refine OnlyTouches.pair (by assumption) ?_
    | dsimp only

theorem State.upsetCtx_touches (s : State) (home : Nat) (f : Frame) (u : Upset) : OnlyTouches [.objs,
    .power, .coll, .ledger, .dict, .host, .free] s (State.upsetCtx s home f u) := by
  unfold State.upsetCtx
  try dsimp only
  repeat' first
    | with_reducible exact .refl _ _
    | with_reducible assumption
    | with_reducible apply OnlyTouches.when
    | (with_reducible apply OnlyTouches.after (State.modCtx_touches _ _ _ _ _); · decide)
    | (with_reducible apply OnlyTouches.after (State.tillUpset_touches _ _ _ _ _); · decide)
    | with_reducible apply OnlyTouches.ite
    | with_reducible intro _
    | split

theorem State.feedCtx_touches (s : State) (home : Nat) (f : Frame) (u : Upset) : OptTouches [.objs, .power,
    .ports, .switch, .coll, .mem, .ledger, .dict, .host, .free] s (State.feedCtx s home f u) := by
  unfold State.feedCtx
  try dsimp only
  repeat' first
    | with_reducible apply OnlyTouches.ofSome
    | with_reducible exact OnlyTouches.ofNone
    | with_reducible apply OnlyTouches.iteOpt
    | with_reducible exact .refl _ _
    | with_reducible assumption
    | (with_reducible apply OnlyTouches.after (State.bump_touches _ _ _); · decide)
    | (with_reducible apply OnlyTouches.after (State.count_touches _ _ _ _ _); · decide)
    | (with_reducible apply OnlyTouches.after (State.modCtx_touches _ _ _ _ _); · decide)
    | (with_reducible apply OnlyTouches.after (State.mirrorAcc_touches _ _ _ _); · decide)
    | (with_reducible apply OnlyTouches.after (State.adderPass_touches _ _ _ _); · decide)
    | (with_reducible apply OnlyTouches.after (State.checkCtx_touches _ _ _ _); · decide)
    | (with_reducible apply OnlyTouches.after (State.relayFrame_touches _ _ _); · decide)
    | (with_reducible apply OnlyTouches.afterPair (State.relayFrame_touches _ _ _); (first | assumption | decide); (first | assumption | decide))
    | (with_reducible apply OnlyTouches.after (State.upsetCtx_touches _ _ _ _); · decide)
    | with_reducible apply OnlyTouches.ite
    | with_reducible intro _
    | split
    | with_reducible refine OnlyTouches.pair (by assumption) ?_
    | dsimp only

theorem State.bystander_touches (s : State) (home : Nat) (f : Frame) : OnlyTouches [.objs, .ledger] s
    (State.bystander s home f) := by
  unfold State.bystander
  try dsimp only
  repeat' first
    | with_reducible exact .refl _ _
    | with_reducible assumption
    | (with_reducible apply OnlyTouches.after (State.bump_touches _ _ _); · decide)
    | (with_reducible apply OnlyTouches.after (State.count_touches _ _ _ _ _); · decide)
    | with_reducible intro _
    | with_reducible refine OnlyTouches.pair (by assumption) ?_
    | dsimp only

theorem State.takeContribution_touches (s : State) (home : Nat) (f : Frame) (u : Upset) : OptTouches
    [.objs, .power, .ports, .switch, .coll, .mem, .ledger, .dict, .host, .free] s (State.takeContribution s
    home f u) := by
  unfold State.takeContribution
  try dsimp only
  repeat' first
    | with_reducible apply OnlyTouches.ofSome
    | with_reducible exact OnlyTouches.ofNone
    | with_reducible apply OnlyTouches.iteOpt
    | with_reducible exact .refl _ _
    | with_reducible assumption
    | (with_reducible apply OnlyTouches.after (State.bump_touches _ _ _); · decide)
    | (with_reducible apply OnlyTouches.after (State.dropped_touches _ _ _ _); · decide)
    | (with_reducible apply OnlyTouches.after (State.freeKept_touches _ _); · decide)
    | (with_reducible apply OnlyTouches.after (State.refuse_touches _ _ _ _); · decide)
    | (with_reducible apply OnlyTouches.after (State.newCtx_touches _ _ _ _ _ _ _); · decide)
    | (with_reducible apply OnlyTouches.afterPair (State.newCtx_touches _ _ _ _ _ _ _); (first | assumption | decide); (first | assumption | decide))
    | (with_reducible apply OnlyTouches.after (State.lateFrame_touches _ _ _ _); · decide)
    | (with_reducible apply OnlyTouches.option (State.feedCtx_touches _ _ _ _); · decide)
    | (with_reducible apply OnlyTouches.afterOpt (State.feedCtx_touches _ _ _ _); (first | assumption | decide); (first | assumption | decide))
    | (with_reducible apply OnlyTouches.after (State.bystander_touches _ _ _); · decide)
    | with_reducible apply OnlyTouches.ite
    | with_reducible intro _
    | split
    | with_reducible refine OnlyTouches.pair (by assumption) ?_
    | dsimp only

theorem State.checkCopy_touches (s : State) (g seq chunk : Nat) : OnlyTouches [.objs, .ports, .switch,
    .coll, .mem, .ledger, .dict, .host] s (State.checkCopy s g seq chunk) := by
  unfold State.checkCopy
  try dsimp only
  repeat' first
    | with_reducible exact .refl _ _
    | with_reducible assumption
    | (with_reducible apply OnlyTouches.after (State.freeBufferOpt_touches _ _); · decide)
    | (with_reducible apply OnlyTouches.after (State.dropCtx_touches _ _ _ _); · decide)
    | (with_reducible apply OnlyTouches.after (State.stageChunk_touches _ _); · decide)
    | with_reducible apply OnlyTouches.ite
    | with_reducible intro _
    | split

theorem State.takeCopy_touches (s : State) (home : Nat) (f : Frame) : OptTouches [.objs, .ports, .switch,
    .coll, .mem, .ledger, .dict, .host] s (State.takeCopy s home f) := by
  unfold State.takeCopy
  try dsimp only
  repeat' first
    | with_reducible apply OnlyTouches.ofSome
    | with_reducible exact OnlyTouches.ofNone
    | with_reducible apply OnlyTouches.iteOpt
    | with_reducible exact .refl _ _
    | with_reducible assumption
    | (with_reducible apply OnlyTouches.after (State.bump_touches _ _ _); · decide)
    | (with_reducible apply OnlyTouches.after (State.write_touches _ _ _); · decide)
    | (with_reducible apply OnlyTouches.after (State.count_touches _ _ _ _ _); · decide)
    | (with_reducible apply OnlyTouches.after (State.modCtx_touches _ _ _ _ _); · decide)
    | (with_reducible apply OnlyTouches.after (State.refuse_touches _ _ _ _); · decide)
    | (with_reducible apply OnlyTouches.after (State.countAccess_touches _ _ _ _ _ _); · decide)
    | (with_reducible apply OnlyTouches.after (State.newCtx_touches _ _ _ _ _ _ _); · decide)
    | (with_reducible apply OnlyTouches.afterPair (State.newCtx_touches _ _ _ _ _ _ _); (first | assumption | decide); (first | assumption | decide))
    | (with_reducible apply OnlyTouches.after (State.checkCopy_touches _ _ _ _); · decide)
    | with_reducible apply OnlyTouches.ite
    | with_reducible intro _
    | split
    | with_reducible refine OnlyTouches.pair (by assumption) ?_
    | dsimp only

theorem State.takeCopyReceipt_touches (s : State) (home : Nat) (f : Frame) : OnlyTouches [.objs, .ports,
    .switch, .coll, .mem, .ledger, .dict, .host] s (State.takeCopyReceipt s home f) := by
  unfold State.takeCopyReceipt
  try dsimp only
  repeat' first
    | with_reducible exact .refl _ _
    | with_reducible assumption
    | (with_reducible apply OnlyTouches.after (State.modCtx_touches _ _ _ _ _); · decide)
    | (with_reducible apply OnlyTouches.after (State.refuse_touches _ _ _ _); · decide)
    | (with_reducible apply OnlyTouches.after (State.stageChunk_touches _ _); · decide)
    | (with_reducible apply OnlyTouches.after (State.checkCopy_touches _ _ _ _); · decide)
    | with_reducible apply OnlyTouches.ite
    | with_reducible intro _
    | split
    | with_reducible refine OnlyTouches.pair (by assumption) ?_
    | dsimp only

theorem State.intakeDone_touches (s : State) (t i : Nat) : OnlyTouches [.switch] s (State.intakeDone s t i)
    := by
  unfold State.intakeDone
  try dsimp only
  repeat' first
    | with_reducible exact .refl _ _
    | with_reducible assumption
    | (with_reducible apply OnlyTouches.after (State.dropFlight_touches _ _); · decide)
    | with_reducible intro _
    | (with_reducible apply OnlyTouches.put_switch; · decide)

theorem State.intakeAbsorb_touches (s : State) (t : Nat) : OnlyTouches [.switch] s (State.intakeAbsorb s t)
    := by
  unfold State.intakeAbsorb
  try dsimp only
  repeat' first
    | with_reducible exact .refl _ _
    | with_reducible assumption
    | with_reducible apply OnlyTouches.ite
    | with_reducible intro _
    | split
    | (with_reducible apply OnlyTouches.put_switch; · decide)

theorem State.tillFrame_touches (s : State) (t : Nat) (f : Frame) (u : Upset) : OptTouches [.objs, .power,
    .ports, .switch, .coll, .mem, .ledger, .dict, .host, .free] s (State.tillFrame s t f u) := by
  unfold State.tillFrame
  try dsimp only
  repeat' first
    | with_reducible apply OnlyTouches.ofSome
    | with_reducible exact OnlyTouches.ofNone
    | with_reducible apply OnlyTouches.iteOpt
    | with_reducible exact .refl _ _
    | with_reducible assumption
    | (with_reducible apply OnlyTouches.option (State.takeContribution_touches _ _ _ _); · decide)
    | (with_reducible apply OnlyTouches.afterOpt (State.takeContribution_touches _ _ _ _); (first | assumption | decide); (first | assumption | decide))
    | (with_reducible apply OnlyTouches.option (State.takeCopy_touches _ _ _); · decide)
    | (with_reducible apply OnlyTouches.afterOpt (State.takeCopy_touches _ _ _); (first | assumption | decide); (first | assumption | decide))
    | (with_reducible apply OnlyTouches.after (State.takeCopyReceipt_touches _ _ _); · decide)
    | with_reducible intro _
    | split
    | with_reducible refine OnlyTouches.pair (by assumption) ?_
    | dsimp only

theorem State.firstTaken_touches (s : State) (t : Nat) (u : Upset) (held : List (Nat × Nat × Nat)) (x0 :
    List (Nat × Frame)) : OptTouches [.objs, .power, .ports, .switch, .coll, .mem, .ledger, .dict, .host,
    .free] s (State.firstTaken s t u held x0) := by
  induction x0 generalizing s t u held with
  | nil =>
    unfold State.firstTaken
    try dsimp only
    all_goals repeat' first
      | with_reducible apply OnlyTouches.ofSome
      | with_reducible exact OnlyTouches.ofNone
      | with_reducible apply OnlyTouches.iteOpt
      | with_reducible exact .refl _ _
      | with_reducible assumption
      | (with_reducible apply OnlyTouches.after (State.intakeDone_touches _ _ _); · decide)
      | (with_reducible apply OnlyTouches.option (State.tillFrame_touches _ _ _ _); · decide)
      | (with_reducible apply OnlyTouches.afterOpt (State.tillFrame_touches _ _ _ _); (first | assumption | decide); (first | assumption | decide))
      | with_reducible apply OnlyTouches.ite
      | with_reducible intro _
      | split
      | with_reducible refine OnlyTouches.pair (by assumption) ?_
      | dsimp only
  | cons a l ih =>
    unfold State.firstTaken
    try dsimp only
    all_goals repeat' first
      | with_reducible apply OnlyTouches.ofSome
      | with_reducible exact OnlyTouches.ofNone
      | with_reducible apply OnlyTouches.iteOpt
      | with_reducible exact .refl _ _
      | with_reducible assumption
      | (with_reducible apply OnlyTouches.option (ih _ _ _ _); · decide)
      | (with_reducible apply OnlyTouches.after (ih _ _ _ _); · decide)
      | (with_reducible apply OnlyTouches.after (State.intakeDone_touches _ _ _); · decide)
      | (with_reducible apply OnlyTouches.option (State.tillFrame_touches _ _ _ _); · decide)
      | (with_reducible apply OnlyTouches.afterOpt (State.tillFrame_touches _ _ _ _); (first | assumption | decide); (first | assumption | decide))
      | with_reducible apply OnlyTouches.ite
      | with_reducible intro _
      | split
      | with_reducible refine OnlyTouches.pair (by assumption) ?_
      | dsimp only

theorem execTillIntake_touches (t : Checked Stall) (s : State) : StepTouches [.objs, .power, .ports,
    .switch, .coll, .mem, .ledger, .dict, .host, .free] s (execTillIntake t s) := by
  unfold execTillIntake
  try dsimp only
  repeat' first
    | with_reducible apply OnlyTouches.ofNext
    | with_reducible exact .refl _ _
    | with_reducible assumption
    | (with_reducible apply OnlyTouches.after (State.intakeAbsorb_touches _ _); · decide)
    | (with_reducible apply OnlyTouches.option (State.firstTaken_touches _ _ _ _ _); · decide)
    | (with_reducible apply OnlyTouches.afterOpt (State.firstTaken_touches _ _ _ _ _); (first | assumption | decide); (first | assumption | decide))
    | with_reducible intro _
    | split
    | with_reducible refine OnlyTouches.pair (by assumption) ?_
    | dsimp only

theorem State.passOutput_touches (s : State) (c : Ctx) : OnlyTouches [.objs, .ports, .switch, .coll, .mem,
    .ledger, .dict, .host, .free] s (State.passOutput s c) := by
  unfold State.passOutput
  try dsimp only
  repeat' first
    | with_reducible exact .refl _ _
    | with_reducible assumption
    | (with_reducible apply OnlyTouches.after (State.bump_touches _ _ _); · decide)
    | (with_reducible apply OnlyTouches.after (State.write_touches _ _ _); · decide)
    | (with_reducible apply OnlyTouches.after (State.freeBufferOpt_touches _ _); · decide)
    | (with_reducible apply OnlyTouches.after (State.dropCtx_touches _ _ _ _); · decide)
    | (with_reducible apply OnlyTouches.after (State.countReceipt_touches _ _); · decide)
    | (with_reducible apply OnlyTouches.after (State.postDone_touches _ _ _); · decide)
    | (with_reducible apply OnlyTouches.after (State.sendReceipt_touches _ _ _ _ _ _); · decide)
    | (with_reducible apply OnlyTouches.after (State.stageChunk_touches _ _); · decide)
    | (with_reducible apply OnlyTouches.after (State.sendOutputs_touches _ _ _ _ _ _); · decide)
    | (with_reducible apply OnlyTouches.after (State.sendCopy_touches _ _ _ _ _ _ _); · decide)
    | (with_reducible apply OnlyTouches.after (State.countAccess_touches _ _ _ _ _ _); · decide)
    | with_reducible apply OnlyTouches.ite
    | with_reducible intro _
    | split
    | (with_reducible apply OnlyTouches.put_free; · decide)
    | with_reducible refine OnlyTouches.pair (by assumption) ?_
    | dsimp only

theorem State.endPass_touches (s : State) (c : Ctx) (u : Upset) : OnlyTouches [.objs, .power, .ports,
    .switch, .coll, .mem, .ledger, .dict, .host, .free] s (State.endPass s c u) := by
  unfold State.endPass
  try dsimp only
  repeat' first
    | with_reducible exact .refl _ _
    | with_reducible assumption
    | (with_reducible apply OnlyTouches.after (State.tillUpset_touches _ _ _ _ _); · decide)
    | (with_reducible apply OnlyTouches.after (State.endCtx_touches _ _ _ _); · decide)
    | (with_reducible apply OnlyTouches.after (State.passOutput_touches _ _); · decide)
    | with_reducible apply OnlyTouches.ite
    | with_reducible intro _
    | split

theorem execOutputPassEnd_touches (g : Group) (seq : BitVec 32) (chunk : Checked (BitVec 24)) (s : State) :
    StepTouches [.objs, .power, .ports, .switch, .coll, .mem, .ledger, .dict, .host, .free] s
    (execOutputPassEnd g seq chunk s) := by
  unfold execOutputPassEnd
  try dsimp only
  repeat' first
    | with_reducible apply OnlyTouches.ofNext
    | with_reducible exact .refl _ _
    | with_reducible assumption
    | (with_reducible apply OnlyTouches.after (State.endPass_touches _ _ _); · decide)
    | with_reducible apply OnlyTouches.ite
    | with_reducible apply OnlyTouches.iteStep
    | with_reducible intro _
    | split

theorem State.keepPartial_touches (s : State) (c : Ctx) : OnlyTouches [.objs, .switch, .coll, .mem,
    .ledger, .dict, .host] s (State.keepPartial s c) := by
  unfold State.keepPartial
  try dsimp only
  repeat' first
    | with_reducible exact .refl _ _
    | with_reducible assumption
    | (with_reducible apply OnlyTouches.after (State.writeNat_touches _ _ _ _); · decide)
    | (with_reducible apply OnlyTouches.after (State.freeKept_touches _ _); · decide)
    | (with_reducible apply OnlyTouches.after (State.countAccess_touches _ _ _ _ _ _); · decide)
    | with_reducible apply OnlyTouches.ite
    | with_reducible intro _
    | split
    | (with_reducible apply OnlyTouches.put_coll; · decide)
    | with_reducible refine OnlyTouches.pair (by assumption) ?_
    | dsimp only

theorem State.ctxDeadline_touches (s : State) (c : Ctx) : OnlyTouches [.objs, .ports, .switch, .coll, .mem,
    .ledger, .dict, .host] s (State.ctxDeadline s c) := by
  unfold State.ctxDeadline
  try dsimp only
  repeat' first
    | with_reducible exact .refl _ _
    | with_reducible assumption
    | (with_reducible apply OnlyTouches.after (State.freeBufferOpt_touches _ _); · decide)
    | (with_reducible apply OnlyTouches.after (State.dropCtx_touches _ _ _ _); · decide)
    | (with_reducible apply OnlyTouches.after (State.endReceipt_touches _ _ _ _); · decide)
    | (with_reducible apply OnlyTouches.after (State.keepPartial_touches _ _); · decide)
    | with_reducible apply OnlyTouches.ite
    | with_reducible intro _
    | split

theorem execReceiptDeadline_touches (g : Group) (seq : BitVec 32) (chunk : BitVec 24) (s : State) :
    StepTouches [.objs, .ports, .switch, .coll, .mem, .ledger, .dict, .host] s (execReceiptDeadline g seq
    chunk s) := by
  unfold execReceiptDeadline
  try dsimp only
  repeat' first
    | with_reducible apply OnlyTouches.ofNext
    | with_reducible exact .refl _ _
    | with_reducible assumption
    | (with_reducible apply OnlyTouches.after (State.ctxDeadline_touches _ _); · decide)
    | with_reducible apply OnlyTouches.ite
    | with_reducible apply OnlyTouches.iteStep
    | with_reducible intro _
    | split

theorem State.deadlines_touches (s : State) : OnlyTouches [.objs, .ports, .switch, .coll, .mem, .ledger,
    .dict, .host] s (State.deadlines s) := by
  unfold State.deadlines
  try dsimp only
  repeat' first
    | with_reducible exact .refl _ _
    | with_reducible assumption
    | with_reducible apply OnlyTouches.fold
    | with_reducible apply OnlyTouches.foldPair
    | (with_reducible apply OnlyTouches.after (State.ctxDeadline_touches _ _); · decide)
    | with_reducible intro _
    | with_reducible refine OnlyTouches.pair (by assumption) ?_
    | dsimp only

theorem State.endWindow_touches (s : State) (i : Nat) : OnlyTouches [.coll] s (State.endWindow s i) := by
  unfold State.endWindow
  try dsimp only
  repeat' first
    | with_reducible exact .refl _ _
    | with_reducible assumption
    | with_reducible apply OnlyTouches.ite
    | with_reducible intro _
    | split
    | (with_reducible apply OnlyTouches.put_coll; · decide)

theorem execLateWindowEnd_touches (record : Fin 4096) (s : State) : StepTouches [.coll] s
    (execLateWindowEnd record s) := by
  unfold execLateWindowEnd
  try dsimp only
  repeat' first
    | with_reducible apply OnlyTouches.ofNext
    | with_reducible exact .refl _ _
    | with_reducible assumption
    | (with_reducible apply OnlyTouches.after (State.endWindow_touches _ _); · decide)
    | with_reducible intro _
    | with_reducible refine OnlyTouches.pair (by assumption) ?_
    | dsimp only

theorem State.endHold_touches (s : State) (i : Nat) : OnlyTouches [.objs, .switch, .coll, .mem, .dict,
    .host] s (State.endHold s i) := by
  unfold State.endHold
  try dsimp only
  repeat' first
    | with_reducible exact .refl _ _
    | with_reducible assumption
    | (with_reducible apply OnlyTouches.after (State.freeKept_touches _ _); · decide)
    | with_reducible apply OnlyTouches.ite
    | with_reducible intro _
    | split

theorem execKeptPartialRelease_touches (record : Fin 4096) (s : State) : StepTouches [.objs, .switch,
    .coll, .mem, .dict, .host] s (execKeptPartialRelease record s) := by
  unfold execKeptPartialRelease
  try dsimp only
  repeat' first
    | with_reducible apply OnlyTouches.ofNext
    | with_reducible exact .refl _ _
    | with_reducible assumption
    | (with_reducible apply OnlyTouches.after (State.endHold_touches _ _); · decide)
    | with_reducible intro _
    | with_reducible refine OnlyTouches.pair (by assumption) ?_
    | dsimp only

theorem State.keptEnds_touches (s : State) : OnlyTouches [.objs, .switch, .coll, .mem, .dict, .host] s
    (State.keptEnds s) := by
  unfold State.keptEnds
  try dsimp only
  repeat' first
    | with_reducible exact .refl _ _
    | with_reducible assumption
    | with_reducible apply OnlyTouches.fold
    | with_reducible apply OnlyTouches.foldPair
    | (with_reducible apply OnlyTouches.after (State.endWindow_touches _ _); · decide)
    | (with_reducible apply OnlyTouches.after (State.endHold_touches _ _); · decide)
    | with_reducible intro _
    | with_reducible refine OnlyTouches.pair (by assumption) ?_
    | dsimp only

theorem State.freeKeptOf_touches (s : State) (g : Nat) (seq : Option Nat) : OnlyTouches [.objs, .switch,
    .coll, .mem, .dict, .host] s (State.freeKeptOf s g seq) := by
  unfold State.freeKeptOf
  try dsimp only
  repeat' first
    | with_reducible exact .refl _ _
    | with_reducible assumption
    | with_reducible apply OnlyTouches.fold
    | with_reducible apply OnlyTouches.foldPair
    | (with_reducible apply OnlyTouches.after (State.freeKept_touches _ _); · decide)
    | with_reducible intro _
    | with_reducible refine OnlyTouches.pair (by assumption) ?_
    | dsimp only

theorem State.pushEnds_touches (s : State) : OnlyTouches [.objs, .ports, .switch, .coll, .mem, .custody,
    .ledger, .dict, .host, .free] s (State.pushEnds s) := by
  unfold State.pushEnds
  try dsimp only
  repeat' first
    | with_reducible exact .refl _ _
    | with_reducible assumption
    | with_reducible apply OnlyTouches.when
    | with_reducible apply OnlyTouches.fold
    | with_reducible apply OnlyTouches.foldPair
    | (with_reducible apply OnlyTouches.after (State.pushSink_touches _ _ _ _); · decide)
    | (with_reducible apply OnlyTouches.after (State.abortArrives_touches _ _ _); · decide)
    | with_reducible apply OnlyTouches.ite
    | with_reducible intro _
    | split
    | (with_reducible apply OnlyTouches.put_coll; · decide)
    | with_reducible refine OnlyTouches.pair (by assumption) ?_
    | dsimp only

theorem State.postEnd_touches (s : State) (g seq : Nat) (aborted : Bool) : OnlyTouches [.objs, .ports,
    .switch, .coll, .mem, .custody, .ledger, .dict, .host, .free] s (State.postEnd s g seq aborted) := by
  unfold State.postEnd
  try dsimp only
  repeat' first
    | with_reducible exact .refl _ _
    | with_reducible assumption
    | (with_reducible apply OnlyTouches.after (State.pushEnds_touches _); · decide)
    | with_reducible apply OnlyTouches.ite
    | with_reducible intro _
    | split
    | (with_reducible apply OnlyTouches.put_coll; · decide)
    | with_reducible refine OnlyTouches.pair (by assumption) ?_
    | dsimp only

theorem State.freeEntries_touches (s : State) : OnlyTouches [.objs, .ports, .switch, .coll, .mem, .custody,
    .ledger, .dict, .host, .free] s (State.freeEntries s) := by
  unfold State.freeEntries
  try dsimp only
  repeat' first
    | with_reducible exact .refl _ _
    | with_reducible assumption
    | with_reducible apply OnlyTouches.fold
    | with_reducible apply OnlyTouches.foldPair
    | (with_reducible apply OnlyTouches.after (State.setQueue_touches _ _ _); · decide)
    | (with_reducible apply OnlyTouches.after (State.postEnd_touches _ _ _ _); · decide)
    | with_reducible apply OnlyTouches.ite
    | with_reducible intro _
    | split
    | with_reducible refine OnlyTouches.pair (by assumption) ?_
    | dsimp only

theorem State.barrierReceipt_touches (s : State) (g : Nat) (e : QEntry) (verdict : Nat) : OnlyTouches
    [.objs, .ports, .switch, .coll, .mem, .ledger, .dict, .host] s (State.barrierReceipt s g e verdict) :=
    by
  unfold State.barrierReceipt
  try dsimp only
  repeat' first
    | with_reducible exact .refl _ _
    | with_reducible assumption
    | (with_reducible apply OnlyTouches.after (State.modGroup_touches _ _ _); · decide)
    | (with_reducible apply OnlyTouches.after (State.sendReceipt_touches _ _ _ _ _ _); · decide)
    | (with_reducible apply OnlyTouches.after (State.modEntry_touches _ _ _ _); · decide)
    | with_reducible apply OnlyTouches.ite
    | with_reducible intro _
    | split
    | with_reducible refine OnlyTouches.pair (by assumption) ?_
    | dsimp only

theorem State.countOpen_touches (s : State) (g seq m chunks : Nat) : OnlyTouches [.objs, .ports, .switch,
    .coll, .mem, .ledger, .dict, .host] s (State.countOpen s g seq m chunks) := by
  unfold State.countOpen
  try dsimp only
  repeat' first
    | with_reducible exact .refl _ _
    | with_reducible assumption
    | (with_reducible apply OnlyTouches.after (State.modEntry_touches _ _ _ _); · decide)
    | (with_reducible apply OnlyTouches.after (State.maybeComplete_touches _ _ _); · decide)
    | (with_reducible apply OnlyTouches.after (State.barrierReceipt_touches _ _ _ _); · decide)
    | with_reducible apply OnlyTouches.ite
    | with_reducible intro _
    | split

theorem State.takeOpen_touches (s : State) (t : Nat) (f : Frame) : OnlyTouches [.objs, .ports, .switch,
    .coll, .mem, .ledger, .dict, .host] s (State.takeOpen s t f) := by
  unfold State.takeOpen
  try dsimp only
  repeat' first
    | with_reducible exact .refl _ _
    | with_reducible assumption
    | (with_reducible apply OnlyTouches.after (State.refuse_touches _ _ _ _); · decide)
    | (with_reducible apply OnlyTouches.after (State.setQueue_touches _ _ _); · decide)
    | (with_reducible apply OnlyTouches.after (State.countOpen_touches _ _ _ _ _); · decide)
    | with_reducible apply OnlyTouches.ite
    | with_reducible intro _
    | split
    | with_reducible refine OnlyTouches.pair (by assumption) ?_
    | dsimp only

theorem execGroupOpenFrame_touches (t : Stall) (s : State) : StepTouches [.objs, .ports, .switch, .coll,
    .mem, .ledger, .dict, .host] s (execGroupOpenFrame t s) := by
  unfold execGroupOpenFrame
  try dsimp only
  repeat' first
    | with_reducible apply OnlyTouches.ofNext
    | with_reducible exact .refl _ _
    | with_reducible assumption
    | (with_reducible apply OnlyTouches.after (State.intakeDone_touches _ _ _); · decide)
    | (with_reducible apply OnlyTouches.after (State.takeOpen_touches _ _ _); · decide)
    | with_reducible intro _
    | split
    | with_reducible refine OnlyTouches.pair (by assumption) ?_
    | dsimp only

theorem execBarrierDeadline_touches (g : Group) (seq : BitVec 32) (s : State) : StepTouches [.objs, .ports,
    .switch, .coll, .mem, .ledger, .dict, .host] s (execBarrierDeadline g seq s) := by
  unfold execBarrierDeadline
  try dsimp only
  repeat' first
    | with_reducible apply OnlyTouches.ofNext
    | with_reducible exact .refl _ _
    | with_reducible assumption
    | (with_reducible apply OnlyTouches.after (State.barrierReceipt_touches _ _ _ _); · decide)
    | with_reducible apply OnlyTouches.ite
    | with_reducible apply OnlyTouches.iteStep
    | with_reducible intro _
    | split

theorem State.barrierDeadlines_touches (s : State) : OnlyTouches [.objs, .ports, .switch, .coll, .mem,
    .ledger, .dict, .host] s (State.barrierDeadlines s) := by
  unfold State.barrierDeadlines
  try dsimp only
  repeat' first
    | with_reducible exact .refl _ _
    | with_reducible assumption
    | with_reducible apply OnlyTouches.fold
    | with_reducible apply OnlyTouches.foldPair
    | (with_reducible apply OnlyTouches.after (State.barrierReceipt_touches _ _ _ _); · decide)
    | with_reducible intro _
    | with_reducible refine OnlyTouches.pair (by assumption) ?_
    | dsimp only

theorem State.takeAbort_touches (s : State) (t : Nat) (f : Frame) : OnlyTouches [.objs, .ports, .switch,
    .coll, .mem, .ledger, .dict, .host] s (State.takeAbort s t f) := by
  unfold State.takeAbort
  try dsimp only
  repeat' first
    | with_reducible exact .refl _ _
    | with_reducible assumption
    | (with_reducible apply OnlyTouches.after (State.refuse_touches _ _ _ _); · decide)
    | with_reducible apply OnlyTouches.ite
    | with_reducible intro _
    | split
    | (with_reducible apply OnlyTouches.put_coll; · decide)
    | with_reducible refine OnlyTouches.pair (by assumption) ?_
    | dsimp only

theorem execAbortFrame_touches (t : Stall) (s : State) : StepTouches [.objs, .ports, .switch, .coll, .mem,
    .ledger, .dict, .host] s (execAbortFrame t s) := by
  unfold execAbortFrame
  try dsimp only
  repeat' first
    | with_reducible apply OnlyTouches.ofNext
    | with_reducible exact .refl _ _
    | with_reducible assumption
    | (with_reducible apply OnlyTouches.after (State.intakeDone_touches _ _ _); · decide)
    | (with_reducible apply OnlyTouches.after (State.takeAbort_touches _ _ _); · decide)
    | with_reducible intro _
    | split
    | with_reducible refine OnlyTouches.pair (by assumption) ?_
    | dsimp only

theorem State.abortAnswer_touches (s : State) (a : AbortReq) (verdict cause elements : Nat) : OnlyTouches
    [.objs, .ports, .switch, .coll, .mem, .ledger, .dict, .host] s (State.abortAnswer s a verdict cause
    elements) := by
  unfold State.abortAnswer
  try dsimp only
  repeat' first
    | with_reducible exact .refl _ _
    | with_reducible assumption
    | (with_reducible apply OnlyTouches.after (State.send_touches _ _ _ _ _); · decide)
    | with_reducible intro _

end Sys2Proof.Machine
end

