-- ==== Sys2Proof/Laws/KeepTills.lean ====
section
/-! SUPPORT. The operations of Machine/Tills.lean keep the invariant. -/

namespace Sys2Proof.Machine

theorem State.newCtx_keeps (s : State) (home g seq chunk n : Nat) (custody : Bool) : Keeps s (State.newCtx
    s home g seq chunk n custody).1 := by
  unfold State.newCtx
  try dsimp only
  repeat' first
    | with_reducible exact .refl _
    | with_reducible assumption
    | with_reducible apply Keeps.when
    | ((with_reducible apply Keeps.afterT (State.putObj_touches _ _ _)); · rfl)
    | ((with_reducible apply Keeps.afterT (State.bump_touches _ _ _)); · rfl)
    | ((with_reducible apply Keeps.afterT (State.count_touches _ _ _ _ _)); · rfl)
    | with_reducible apply Keeps.after (State.takeStagingOrKept_keeps _ _ _ _ _)
    | ((with_reducible apply Keeps.afterPair (State.takeStagingOrKept_keeps _ _ _ _ _)); · assumption)
    | with_reducible apply Keeps.ite
    | with_reducible intro _
    | split
    | with_reducible apply Keeps.put_coll
    | with_reducible refine Keeps.pair (by assumption) ?_
    | dsimp only

theorem State.mirrorAcc_keeps (s : State) (c : Ctx) (x : GroupSt) (f : Frame) : Keeps s (State.mirrorAcc s
    c x f) := by
  unfold State.mirrorAcc
  try dsimp only
  repeat' first
    | with_reducible exact .refl _
    | with_reducible assumption
    | with_reducible apply Keeps.after (State.write_keeps _ _ _)
    | with_reducible intro _
    | split

theorem State.tillMismatch_keeps (s : State) (home pitch : Nat) : Keeps s (State.tillMismatch s home pitch)
    := by
  unfold State.tillMismatch
  try dsimp only
  repeat' first
    | with_reducible exact .refl _
    | with_reducible assumption
    | ((with_reducible apply Keeps.afterT (State.bump_touches _ _ _)); · rfl)
    | with_reducible apply Keeps.after (State.eventObj_keeps _ _ _ _)
    | ((with_reducible apply Keeps.afterT (State.count_touches _ _ _ _ _)); · rfl)
    | with_reducible intro _
    | with_reducible refine Keeps.pair (by assumption) ?_
    | dsimp only

theorem State.tillUpset_keeps (s : State) (home pitch : Nat) (adder : Option Nat) (x0 : Upset) : Keeps s
    (State.tillUpset s home pitch adder x0) := by
  unfold State.tillUpset
  try dsimp only
  repeat' first
    | with_reducible exact .refl _
    | with_reducible assumption
    | with_reducible apply Keeps.after (State.adderMismatch_keeps _ _ _)
    | ((with_reducible apply Keeps.afterT (State.sramFixed_touches _ _)); · rfl)
    | with_reducible apply Keeps.after (State.sramBad_keeps _ _)
    | with_reducible apply Keeps.after (State.tillMismatch_keeps _ _ _)
    | with_reducible intro _
    | split
    | with_reducible refine Keeps.pair (by assumption) ?_
    | dsimp only

theorem State.endReceipt_keeps (s : State) (c : Ctx) (verdict cause : Nat) : Keeps s (State.endReceipt s c
    verdict cause) := by
  unfold State.endReceipt
  try dsimp only
  repeat' first
    | with_reducible exact .refl _
    | with_reducible assumption
    | ((with_reducible apply Keeps.afterT (State.countReceipt_touches _ _)); · rfl)
    | ((with_reducible apply Keeps.afterT (State.postDone_touches _ _ _)); · rfl)
    | with_reducible apply Keeps.after (State.sendReceipt_keeps _ _ _ _ _ _)
    | with_reducible apply Keeps.after (State.stageChunk_keeps _ _)
    | with_reducible apply Keeps.after (State.sendCopy_keeps _ _ _ _ _ _ _)
    | with_reducible apply Keeps.ite
    | with_reducible intro _
    | split
    | with_reducible refine Keeps.pair (by assumption) ?_
    | dsimp only

theorem State.endCtx_keeps (s : State) (c : Ctx) (verdict cause : Nat) : Keeps s (State.endCtx s c verdict
    cause) := by
  unfold State.endCtx
  try dsimp only
  repeat' first
    | with_reducible exact .refl _
    | with_reducible assumption
    | with_reducible apply Keeps.after (State.freeBufferOpt_keeps _ _)
    | ((with_reducible apply Keeps.afterT (State.dropCtx_touches _ _ _ _)); · rfl)
    | with_reducible apply Keeps.after (State.endReceipt_keeps _ _ _ _)
    | with_reducible intro _
    | with_reducible refine Keeps.pair (by assumption) ?_
    | dsimp only

theorem State.endRelay_keeps (s : State) (c : Ctx) : Keeps s (State.endRelay s c) := by
  unfold State.endRelay
  try dsimp only
  repeat' first
    | with_reducible exact .refl _
    | with_reducible assumption
    | with_reducible apply Keeps.after (State.freeBufferOpt_keeps _ _)
    | ((with_reducible apply Keeps.afterT (State.dropCtx_touches _ _ _ _)); · rfl)
    | ((with_reducible apply Keeps.afterT (State.postDone_touches _ _ _)); · rfl)
    | with_reducible apply Keeps.after (State.sendReceipt_keeps _ _ _ _ _ _)
    | with_reducible apply Keeps.ite
    | with_reducible intro _
    | split
    | with_reducible refine Keeps.pair (by assumption) ?_
    | dsimp only

theorem State.checkCtx_keeps (s : State) (g seq chunk : Nat) : Keeps s (State.checkCtx s g seq chunk) := by
  unfold State.checkCtx
  try dsimp only
  repeat' first
    | with_reducible exact .refl _
    | with_reducible assumption
    | ((with_reducible apply Keeps.afterT (State.modCtx_touches _ _ _ _ _)); · rfl)
    | with_reducible apply Keeps.after (State.endCtx_keeps _ _ _ _)
    | with_reducible apply Keeps.after (State.endRelay_keeps _ _)
    | with_reducible apply Keeps.ite
    | with_reducible intro _
    | split

theorem State.relayFrame_keeps (s : State) (home : Nat) (f : Frame) : Keeps s (State.relayFrame s home f).1
    := by
  unfold State.relayFrame
  try dsimp only
  repeat' first
    | with_reducible exact .refl _
    | with_reducible assumption
    | ((with_reducible apply Keeps.afterT (State.bump_touches _ _ _)); · rfl)
    | with_reducible apply Keeps.after (State.write_keeps _ _ _)
    | with_reducible apply Keeps.after (State.sendGroup_keeps _ _ _ _ _ _ _)
    | with_reducible apply Keeps.after (State.takeStaging_keeps _ _ _ _)
    | ((with_reducible apply Keeps.afterPair (State.takeStaging_keeps _ _ _ _)); · assumption)
    | ((with_reducible apply Keeps.afterT (State.countAccess_touches _ _ _ _ _ _)); · rfl)
    | with_reducible intro _
    | split
    | with_reducible refine Keeps.pair (by assumption) ?_
    | dsimp only

theorem State.upsetCtx_keeps (s : State) (home : Nat) (f : Frame) (u : Upset) : Keeps s (State.upsetCtx s
    home f u) := by
  unfold State.upsetCtx
  try dsimp only
  repeat' first
    | with_reducible exact .refl _
    | with_reducible assumption
    | with_reducible apply Keeps.when
    | ((with_reducible apply Keeps.afterT (State.modCtx_touches _ _ _ _ _)); · rfl)
    | with_reducible apply Keeps.after (State.tillUpset_keeps _ _ _ _ _)
    | with_reducible apply Keeps.ite
    | with_reducible intro _
    | split

theorem State.feedCtx_keeps (s : State) (home : Nat) (f : Frame) (u : Upset) : OptKeeps s (State.feedCtx s
    home f u) := by
  unfold State.feedCtx
  try dsimp only
  repeat' first
    | with_reducible apply Keeps.ofSome
    | with_reducible exact Keeps.ofNone
    | with_reducible apply Keeps.iteOpt
    | with_reducible exact .refl _
    | with_reducible assumption
    | ((with_reducible apply Keeps.afterT (State.bump_touches _ _ _)); · rfl)
    | ((with_reducible apply Keeps.afterT (State.count_touches _ _ _ _ _)); · rfl)
    | ((with_reducible apply Keeps.afterT (State.modCtx_touches _ _ _ _ _)); · rfl)
    | with_reducible apply Keeps.after (State.mirrorAcc_keeps _ _ _ _)
    | ((with_reducible apply Keeps.afterT (State.adderPass_touches _ _ _ _)); · rfl)
    | with_reducible apply Keeps.after (State.checkCtx_keeps _ _ _ _)
    | with_reducible apply Keeps.after (State.relayFrame_keeps _ _ _)
    | ((with_reducible apply Keeps.afterPair (State.relayFrame_keeps _ _ _)); · assumption)
    | with_reducible apply Keeps.after (State.upsetCtx_keeps _ _ _ _)
    | with_reducible apply Keeps.ite
    | with_reducible intro _
    | split
    | with_reducible refine Keeps.pair (by assumption) ?_
    | dsimp only

theorem State.takeContribution_keeps (s : State) (home : Nat) (f : Frame) (u : Upset) : OptKeeps s
    (State.takeContribution s home f u) := by
  unfold State.takeContribution
  try dsimp only
  repeat' first
    | with_reducible apply Keeps.ofSome
    | with_reducible exact Keeps.ofNone
    | with_reducible apply Keeps.iteOpt
    | with_reducible exact .refl _
    | with_reducible assumption
    | ((with_reducible apply Keeps.afterT (State.bump_touches _ _ _)); · rfl)
    | ((with_reducible apply Keeps.afterT (State.dropped_touches _ _ _ _)); · rfl)
    | with_reducible apply Keeps.after (State.freeKept_keeps _ _)
    | with_reducible apply Keeps.after (State.refuse_keeps _ _ _ _)
    | with_reducible apply Keeps.after (State.newCtx_keeps _ _ _ _ _ _ _)
    | ((with_reducible apply Keeps.afterPair (State.newCtx_keeps _ _ _ _ _ _ _)); · assumption)
    | ((with_reducible apply Keeps.afterT (State.lateFrame_touches _ _ _ _)); · rfl)
    | with_reducible apply Keeps.option (State.feedCtx_keeps _ _ _ _)
    | ((with_reducible apply Keeps.afterOpt (State.feedCtx_keeps _ _ _ _)); · assumption)
    | ((with_reducible apply Keeps.afterT (State.bystander_touches _ _ _)); · rfl)
    | with_reducible apply Keeps.ite
    | with_reducible intro _
    | split
    | with_reducible refine Keeps.pair (by assumption) ?_
    | dsimp only

theorem State.checkCopy_keeps (s : State) (g seq chunk : Nat) : Keeps s (State.checkCopy s g seq chunk) :=
    by
  unfold State.checkCopy
  try dsimp only
  repeat' first
    | with_reducible exact .refl _
    | with_reducible assumption
    | with_reducible apply Keeps.after (State.freeBufferOpt_keeps _ _)
    | ((with_reducible apply Keeps.afterT (State.dropCtx_touches _ _ _ _)); · rfl)
    | with_reducible apply Keeps.after (State.stageChunk_keeps _ _)
    | with_reducible apply Keeps.ite
    | with_reducible intro _
    | split

theorem State.takeCopy_keeps (s : State) (home : Nat) (f : Frame) : OptKeeps s (State.takeCopy s home f) :=
    by
  unfold State.takeCopy
  try dsimp only
  repeat' first
    | with_reducible apply Keeps.ofSome
    | with_reducible exact Keeps.ofNone
    | with_reducible apply Keeps.iteOpt
    | with_reducible exact .refl _
    | with_reducible assumption
    | ((with_reducible apply Keeps.afterT (State.bump_touches _ _ _)); · rfl)
    | with_reducible apply Keeps.after (State.write_keeps _ _ _)
    | ((with_reducible apply Keeps.afterT (State.count_touches _ _ _ _ _)); · rfl)
    | ((with_reducible apply Keeps.afterT (State.modCtx_touches _ _ _ _ _)); · rfl)
    | with_reducible apply Keeps.after (State.refuse_keeps _ _ _ _)
    | ((with_reducible apply Keeps.afterT (State.countAccess_touches _ _ _ _ _ _)); · rfl)
    | with_reducible apply Keeps.after (State.newCtx_keeps _ _ _ _ _ _ _)
    | ((with_reducible apply Keeps.afterPair (State.newCtx_keeps _ _ _ _ _ _ _)); · assumption)
    | with_reducible apply Keeps.after (State.checkCopy_keeps _ _ _ _)
    | with_reducible apply Keeps.ite
    | with_reducible intro _
    | split
    | with_reducible refine Keeps.pair (by assumption) ?_
    | dsimp only

theorem State.takeCopyReceipt_keeps (s : State) (home : Nat) (f : Frame) : Keeps s (State.takeCopyReceipt s
    home f) := by
  unfold State.takeCopyReceipt
  try dsimp only
  repeat' first
    | with_reducible exact .refl _
    | with_reducible assumption
    | ((with_reducible apply Keeps.afterT (State.modCtx_touches _ _ _ _ _)); · rfl)
    | with_reducible apply Keeps.after (State.refuse_keeps _ _ _ _)
    | with_reducible apply Keeps.after (State.stageChunk_keeps _ _)
    | with_reducible apply Keeps.after (State.checkCopy_keeps _ _ _ _)
    | with_reducible apply Keeps.ite
    | with_reducible intro _
    | split
    | with_reducible refine Keeps.pair (by assumption) ?_
    | dsimp only

theorem State.tillFrame_keeps (s : State) (t : Nat) (f : Frame) (u : Upset) : OptKeeps s (State.tillFrame s
    t f u) := by
  unfold State.tillFrame
  try dsimp only
  repeat' first
    | with_reducible apply Keeps.ofSome
    | with_reducible exact Keeps.ofNone
    | with_reducible apply Keeps.iteOpt
    | with_reducible exact .refl _
    | with_reducible assumption
    | with_reducible apply Keeps.option (State.takeContribution_keeps _ _ _ _)
    | ((with_reducible apply Keeps.afterOpt (State.takeContribution_keeps _ _ _ _)); · assumption)
    | with_reducible apply Keeps.option (State.takeCopy_keeps _ _ _)
    | ((with_reducible apply Keeps.afterOpt (State.takeCopy_keeps _ _ _)); · assumption)
    | with_reducible apply Keeps.after (State.takeCopyReceipt_keeps _ _ _)
    | with_reducible intro _
    | split
    | with_reducible refine Keeps.pair (by assumption) ?_
    | dsimp only

theorem State.firstTaken_keeps (s : State) (t : Nat) (u : Upset) (held : List (Nat × Nat × Nat)) (x0 : List
    (Nat × Frame)) : OptKeeps s (State.firstTaken s t u held x0) := by
  induction x0 generalizing s t u held with
  | nil =>
    unfold State.firstTaken
    try dsimp only
    all_goals repeat' first
      | with_reducible apply Keeps.ofSome
      | with_reducible exact Keeps.ofNone
      | with_reducible apply Keeps.iteOpt
      | with_reducible exact .refl _
      | with_reducible assumption
      | ((with_reducible apply Keeps.afterT (State.intakeDone_touches _ _ _)); · rfl)
      | with_reducible apply Keeps.option (State.tillFrame_keeps _ _ _ _)
      | ((with_reducible apply Keeps.afterOpt (State.tillFrame_keeps _ _ _ _)); · assumption)
      | with_reducible apply Keeps.ite
      | with_reducible intro _
      | split
      | with_reducible refine Keeps.pair (by assumption) ?_
      | dsimp only
  | cons a l ih =>
    unfold State.firstTaken
    try dsimp only
    all_goals repeat' first
      | with_reducible apply Keeps.ofSome
      | with_reducible exact Keeps.ofNone
      | with_reducible apply Keeps.iteOpt
      | with_reducible exact .refl _
      | with_reducible assumption
      | (with_reducible apply Keeps.after (ih _ _ _ _))
      | (with_reducible apply Keeps.option (ih _ _ _ _))
      | ((with_reducible apply Keeps.afterT (State.intakeDone_touches _ _ _)); · rfl)
      | with_reducible apply Keeps.option (State.tillFrame_keeps _ _ _ _)
      | ((with_reducible apply Keeps.afterOpt (State.tillFrame_keeps _ _ _ _)); · assumption)
      | with_reducible apply Keeps.ite
      | with_reducible intro _
      | split
      | with_reducible refine Keeps.pair (by assumption) ?_
      | dsimp only

theorem execTillIntake_keeps (t : Checked Stall) (s : State) : StepKeeps s (execTillIntake t s) := by
  unfold execTillIntake
  try dsimp only
  repeat' first
    | with_reducible apply Keeps.ofNext
    | with_reducible exact .refl _
    | with_reducible assumption
    | ((with_reducible apply Keeps.afterT (State.intakeAbsorb_touches _ _)); · rfl)
    | with_reducible apply Keeps.option (State.firstTaken_keeps _ _ _ _ _)
    | ((with_reducible apply Keeps.afterOpt (State.firstTaken_keeps _ _ _ _ _)); · assumption)
    | with_reducible intro _
    | split
    | with_reducible refine Keeps.pair (by assumption) ?_
    | dsimp only

theorem State.passOutput_keeps (s : State) (c : Ctx) : Keeps s (State.passOutput s c) := by
  unfold State.passOutput
  try dsimp only
  repeat' first
    | with_reducible exact .refl _
    | with_reducible assumption
    | ((with_reducible apply Keeps.afterT (State.bump_touches _ _ _)); · rfl)
    | with_reducible apply Keeps.after (State.write_keeps _ _ _)
    | with_reducible apply Keeps.after (State.freeBufferOpt_keeps _ _)
    | ((with_reducible apply Keeps.afterT (State.dropCtx_touches _ _ _ _)); · rfl)
    | ((with_reducible apply Keeps.afterT (State.countReceipt_touches _ _)); · rfl)
    | ((with_reducible apply Keeps.afterT (State.postDone_touches _ _ _)); · rfl)
    | with_reducible apply Keeps.after (State.sendReceipt_keeps _ _ _ _ _ _)
    | with_reducible apply Keeps.after (State.stageChunk_keeps _ _)
    | with_reducible apply Keeps.after (State.sendOutputs_keeps _ _ _ _ _ _)
    | with_reducible apply Keeps.after (State.sendCopy_keeps _ _ _ _ _ _ _)
    | ((with_reducible apply Keeps.afterT (State.countAccess_touches _ _ _ _ _ _)); · rfl)
    | with_reducible apply Keeps.ite
    | with_reducible intro _
    | split
    | with_reducible apply Keeps.put_free
    | with_reducible refine Keeps.pair (by assumption) ?_
    | dsimp only

theorem State.endPass_keeps (s : State) (c : Ctx) (u : Upset) : Keeps s (State.endPass s c u) := by
  unfold State.endPass
  try dsimp only
  repeat' first
    | with_reducible exact .refl _
    | with_reducible assumption
    | with_reducible apply Keeps.after (State.tillUpset_keeps _ _ _ _ _)
    | with_reducible apply Keeps.after (State.endCtx_keeps _ _ _ _)
    | with_reducible apply Keeps.after (State.passOutput_keeps _ _)
    | with_reducible apply Keeps.ite
    | with_reducible intro _
    | split

theorem execOutputPassEnd_keeps (g : Group) (seq : BitVec 32) (chunk : Checked (BitVec 24)) (s : State) :
    StepKeeps s (execOutputPassEnd g seq chunk s) := by
  unfold execOutputPassEnd
  try dsimp only
  repeat' first
    | with_reducible apply Keeps.ofNext
    | with_reducible exact .refl _
    | with_reducible assumption
    | with_reducible apply Keeps.after (State.endPass_keeps _ _ _)
    | with_reducible apply Keeps.ite
    | with_reducible apply Keeps.iteStep
    | with_reducible intro _
    | split

theorem State.keepPartial_keeps (s : State) (c : Ctx) : Keeps s (State.keepPartial s c) := by
  unfold State.keepPartial
  try dsimp only
  repeat' first
    | with_reducible exact .refl _
    | with_reducible assumption
    | with_reducible apply Keeps.after (State.writeNat_keeps _ _ _ _)
    | with_reducible apply Keeps.after (State.freeKept_keeps _ _)
    | ((with_reducible apply Keeps.afterT (State.countAccess_touches _ _ _ _ _ _)); · rfl)
    | with_reducible apply Keeps.ite
    | with_reducible intro _
    | split
    | with_reducible apply Keeps.put_coll
    | with_reducible refine Keeps.pair (by assumption) ?_
    | dsimp only

theorem State.ctxDeadline_keeps (s : State) (c : Ctx) : Keeps s (State.ctxDeadline s c) := by
  unfold State.ctxDeadline
  try dsimp only
  repeat' first
    | with_reducible exact .refl _
    | with_reducible assumption
    | with_reducible apply Keeps.after (State.freeBufferOpt_keeps _ _)
    | ((with_reducible apply Keeps.afterT (State.dropCtx_touches _ _ _ _)); · rfl)
    | with_reducible apply Keeps.after (State.endReceipt_keeps _ _ _ _)
    | with_reducible apply Keeps.after (State.keepPartial_keeps _ _)
    | with_reducible apply Keeps.ite
    | with_reducible intro _
    | split

theorem execReceiptDeadline_keeps (g : Group) (seq : BitVec 32) (chunk : BitVec 24) (s : State) : StepKeeps
    s (execReceiptDeadline g seq chunk s) := by
  unfold execReceiptDeadline
  try dsimp only
  repeat' first
    | with_reducible apply Keeps.ofNext
    | with_reducible exact .refl _
    | with_reducible assumption
    | with_reducible apply Keeps.after (State.ctxDeadline_keeps _ _)
    | with_reducible apply Keeps.ite
    | with_reducible apply Keeps.iteStep
    | with_reducible intro _
    | split

theorem State.deadlines_keeps (s : State) : Keeps s (State.deadlines s) := by
  unfold State.deadlines
  try dsimp only
  repeat' first
    | with_reducible exact .refl _
    | with_reducible assumption
    | with_reducible apply Keeps.fold
    | with_reducible apply Keeps.foldPair
    | with_reducible apply Keeps.after (State.ctxDeadline_keeps _ _)
    | with_reducible intro _
    | with_reducible refine Keeps.pair (by assumption) ?_
    | dsimp only

theorem State.endHold_keeps (s : State) (i : Nat) : Keeps s (State.endHold s i) := by
  unfold State.endHold
  try dsimp only
  repeat' first
    | with_reducible exact .refl _
    | with_reducible assumption
    | with_reducible apply Keeps.after (State.freeKept_keeps _ _)
    | with_reducible apply Keeps.ite
    | with_reducible intro _
    | split

theorem execKeptPartialRelease_keeps (record : Fin 4096) (s : State) : StepKeeps s (execKeptPartialRelease
    record s) := by
  unfold execKeptPartialRelease
  try dsimp only
  repeat' first
    | with_reducible apply Keeps.ofNext
    | with_reducible exact .refl _
    | with_reducible assumption
    | with_reducible apply Keeps.after (State.endHold_keeps _ _)
    | with_reducible intro _
    | with_reducible refine Keeps.pair (by assumption) ?_
    | dsimp only

theorem State.keptEnds_keeps (s : State) : Keeps s (State.keptEnds s) := by
  unfold State.keptEnds
  try dsimp only
  repeat' first
    | with_reducible exact .refl _
    | with_reducible assumption
    | with_reducible apply Keeps.fold
    | with_reducible apply Keeps.foldPair
    | ((with_reducible apply Keeps.afterT (State.endWindow_touches _ _)); · rfl)
    | with_reducible apply Keeps.after (State.endHold_keeps _ _)
    | with_reducible intro _
    | with_reducible refine Keeps.pair (by assumption) ?_
    | dsimp only

theorem State.freeKeptOf_keeps (s : State) (g : Nat) (seq : Option Nat) : Keeps s (State.freeKeptOf s g
    seq) := by
  unfold State.freeKeptOf
  try dsimp only
  repeat' first
    | with_reducible exact .refl _
    | with_reducible assumption
    | with_reducible apply Keeps.fold
    | with_reducible apply Keeps.foldPair
    | with_reducible apply Keeps.after (State.freeKept_keeps _ _)
    | with_reducible intro _
    | with_reducible refine Keeps.pair (by assumption) ?_
    | dsimp only

theorem State.pushEnds_keeps (s : State) : Keeps s (State.pushEnds s) := by
  unfold State.pushEnds
  try dsimp only
  repeat' first
    | with_reducible exact .refl _
    | with_reducible assumption
    | with_reducible apply Keeps.when
    | with_reducible apply Keeps.fold
    | with_reducible apply Keeps.foldPair
    | ((with_reducible apply Keeps.afterT (State.pushSink_touches _ _ _ _)); · rfl)
    | with_reducible apply Keeps.after (State.abortArrives_keeps _ _ _)
    | with_reducible apply Keeps.ite
    | with_reducible intro _
    | split
    | with_reducible apply Keeps.put_coll
    | with_reducible refine Keeps.pair (by assumption) ?_
    | dsimp only

theorem State.postEnd_keeps (s : State) (g seq : Nat) (aborted : Bool) : Keeps s (State.postEnd s g seq
    aborted) := by
  unfold State.postEnd
  try dsimp only
  repeat' first
    | with_reducible exact .refl _
    | with_reducible assumption
    | with_reducible apply Keeps.after (State.pushEnds_keeps _)
    | with_reducible apply Keeps.ite
    | with_reducible intro _
    | split
    | with_reducible apply Keeps.put_coll
    | with_reducible refine Keeps.pair (by assumption) ?_
    | dsimp only

theorem State.freeEntries_keeps (s : State) : Keeps s (State.freeEntries s) := by
  unfold State.freeEntries
  try dsimp only
  repeat' first
    | with_reducible exact .refl _
    | with_reducible assumption
    | with_reducible apply Keeps.fold
    | with_reducible apply Keeps.foldPair
    | with_reducible apply Keeps.after (State.setQueue_keeps _ _ _)
    | with_reducible apply Keeps.after (State.postEnd_keeps _ _ _ _)
    | with_reducible apply Keeps.ite
    | with_reducible intro _
    | split
    | with_reducible refine Keeps.pair (by assumption) ?_
    | dsimp only

theorem State.barrierReceipt_keeps (s : State) (g : Nat) (e : QEntry) (verdict : Nat) : Keeps s
    (State.barrierReceipt s g e verdict) := by
  unfold State.barrierReceipt
  try dsimp only
  repeat' first
    | with_reducible exact .refl _
    | with_reducible assumption
    | ((with_reducible apply Keeps.afterT (State.modGroup_touches _ _ _)); · rfl)
    | with_reducible apply Keeps.after (State.sendReceipt_keeps _ _ _ _ _ _)
    | with_reducible apply Keeps.after (State.modEntry_keeps _ _ _ _)
    | with_reducible apply Keeps.ite
    | with_reducible intro _
    | split
    | with_reducible refine Keeps.pair (by assumption) ?_
    | dsimp only

theorem State.countOpen_keeps (s : State) (g seq m chunks : Nat) : Keeps s (State.countOpen s g seq m
    chunks) := by
  unfold State.countOpen
  try dsimp only
  repeat' first
    | with_reducible exact .refl _
    | with_reducible assumption
    | with_reducible apply Keeps.after (State.modEntry_keeps _ _ _ _)
    | with_reducible apply Keeps.after (State.maybeComplete_keeps _ _ _)
    | with_reducible apply Keeps.after (State.barrierReceipt_keeps _ _ _ _)
    | with_reducible apply Keeps.ite
    | with_reducible intro _
    | split

theorem State.takeOpen_keeps (s : State) (t : Nat) (f : Frame) : Keeps s (State.takeOpen s t f) := by
  unfold State.takeOpen
  try dsimp only
  repeat' first
    | with_reducible exact .refl _
    | with_reducible assumption
    | with_reducible apply Keeps.after (State.refuse_keeps _ _ _ _)
    | with_reducible apply Keeps.after (State.setQueue_keeps _ _ _)
    | with_reducible apply Keeps.after (State.countOpen_keeps _ _ _ _ _)
    | with_reducible apply Keeps.ite
    | with_reducible intro _
    | split
    | with_reducible refine Keeps.pair (by assumption) ?_
    | dsimp only

theorem execGroupOpenFrame_keeps (t : Stall) (s : State) : StepKeeps s (execGroupOpenFrame t s) := by
  unfold execGroupOpenFrame
  try dsimp only
  repeat' first
    | with_reducible apply Keeps.ofNext
    | with_reducible exact .refl _
    | with_reducible assumption
    | ((with_reducible apply Keeps.afterT (State.intakeDone_touches _ _ _)); · rfl)
    | with_reducible apply Keeps.after (State.takeOpen_keeps _ _ _)
    | with_reducible intro _
    | split
    | with_reducible refine Keeps.pair (by assumption) ?_
    | dsimp only

theorem execBarrierDeadline_keeps (g : Group) (seq : BitVec 32) (s : State) : StepKeeps s
    (execBarrierDeadline g seq s) := by
  unfold execBarrierDeadline
  try dsimp only
  repeat' first
    | with_reducible apply Keeps.ofNext
    | with_reducible exact .refl _
    | with_reducible assumption
    | with_reducible apply Keeps.after (State.barrierReceipt_keeps _ _ _ _)
    | with_reducible apply Keeps.ite
    | with_reducible apply Keeps.iteStep
    | with_reducible intro _
    | split

theorem State.barrierDeadlines_keeps (s : State) : Keeps s (State.barrierDeadlines s) := by
  unfold State.barrierDeadlines
  try dsimp only
  repeat' first
    | with_reducible exact .refl _
    | with_reducible assumption
    | with_reducible apply Keeps.fold
    | with_reducible apply Keeps.foldPair
    | with_reducible apply Keeps.after (State.barrierReceipt_keeps _ _ _ _)
    | with_reducible intro _
    | with_reducible refine Keeps.pair (by assumption) ?_
    | dsimp only

theorem State.takeAbort_keeps (s : State) (t : Nat) (f : Frame) : Keeps s (State.takeAbort s t f) := by
  unfold State.takeAbort
  try dsimp only
  repeat' first
    | with_reducible exact .refl _
    | with_reducible assumption
    | with_reducible apply Keeps.after (State.refuse_keeps _ _ _ _)
    | with_reducible apply Keeps.ite
    | with_reducible intro _
    | split
    | with_reducible apply Keeps.put_coll
    | with_reducible refine Keeps.pair (by assumption) ?_
    | dsimp only

theorem execAbortFrame_keeps (t : Stall) (s : State) : StepKeeps s (execAbortFrame t s) := by
  unfold execAbortFrame
  try dsimp only
  repeat' first
    | with_reducible apply Keeps.ofNext
    | with_reducible exact .refl _
    | with_reducible assumption
    | ((with_reducible apply Keeps.afterT (State.intakeDone_touches _ _ _)); · rfl)
    | with_reducible apply Keeps.after (State.takeAbort_keeps _ _ _)
    | with_reducible intro _
    | split
    | with_reducible refine Keeps.pair (by assumption) ?_
    | dsimp only

theorem State.abortAnswer_keeps (s : State) (a : AbortReq) (verdict cause elements : Nat) : Keeps s
    (State.abortAnswer s a verdict cause elements) := by
  unfold State.abortAnswer
  try dsimp only
  repeat' first
    | with_reducible exact .refl _
    | with_reducible assumption
    | with_reducible apply Keeps.after (State.send_keeps _ _ _ _ _)
    | with_reducible intro _

end Sys2Proof.Machine
end

