-- ==== Sys2Proof/Laws/TouchThreads.lean ====
section
/-! SUPPORT. Which parts of the state each operation of Machine/Threads.lean changes. -/

namespace Sys2Proof.Machine

theorem State.modTeam_touches (s : State) (t n : Nat) (f : Team → Team) : OnlyTouches [.update] s
    (State.modTeam s t n f) := by
  unfold State.modTeam
  try dsimp only
  repeat' first
    | with_reducible exact .refl _ _
    | with_reducible assumption
    | (with_reducible apply OnlyTouches.after (State.setTeam_touches _ _ _ _); · decide)
    | with_reducible intro _
    | with_reducible refine OnlyTouches.pair (by assumption) ?_
    | dsimp only

theorem State.makeReady_touches (s : State) (t n : Nat) : OnlyTouches [.update] s (State.makeReady s t n)
    := by
  unfold State.makeReady
  try dsimp only
  repeat' first
    | with_reducible exact .refl _ _
    | with_reducible assumption
    | (with_reducible apply OnlyTouches.after (State.modThread_touches _ _ _ _); · decide)
    | with_reducible intro _
    | (with_reducible apply OnlyTouches.put_update; · decide)

theorem State.unready_touches (s : State) (t n : Nat) : OnlyTouches [.update] s (State.unready s t n) := by
  unfold State.unready
  try dsimp only
  repeat' first
    | with_reducible exact .refl _ _
    | with_reducible assumption
    | with_reducible intro _
    | (with_reducible apply OnlyTouches.put_update; · decide)

theorem State.setTank_touches (s : State) (t : Nat) (v : Int) : OnlyTouches [.update] s (State.setTank s t
    v) := by
  unfold State.setTank
  try dsimp only
  repeat' first
    | with_reducible exact .refl _ _
    | with_reducible assumption
    | with_reducible intro _
    | (with_reducible apply OnlyTouches.put_update; · decide)

theorem State.refillTanks_touches (s : State) : OnlyTouches [.objs, .update] s (State.refillTanks s) := by
  unfold State.refillTanks
  try dsimp only
  repeat' first
    | with_reducible exact .refl _ _
    | with_reducible assumption
    | with_reducible apply OnlyTouches.each
    | with_reducible apply OnlyTouches.fold
    | with_reducible apply OnlyTouches.foldPair
    | (with_reducible apply OnlyTouches.after (State.bump_touches _ _ _); · decide)
    | (with_reducible apply OnlyTouches.after (State.setTank_touches _ _ _); · decide)
    | with_reducible intro _
    | (with_reducible apply OnlyTouches.put_update; · decide)
    | with_reducible refine OnlyTouches.pair (by assumption) ?_
    | dsimp only

theorem State.admitNext_touches (s : State) (t : Nat) : OnlyTouches [.objs, .update, .ledger] s
    (State.admitNext s t) := by
  unfold State.admitNext
  try dsimp only
  repeat' first
    | with_reducible exact .refl _ _
    | with_reducible assumption
    | (with_reducible apply OnlyTouches.after (State.bump_touches _ _ _); · decide)
    | (with_reducible apply OnlyTouches.after (State.setThread_touches _ _ _ _); · decide)
    | (with_reducible apply OnlyTouches.after (State.count_touches _ _ _ _ _); · decide)
    | (with_reducible apply OnlyTouches.after (State.unready_touches _ _ _); · decide)
    | (with_reducible apply OnlyTouches.after (State.setTank_touches _ _ _); · decide)
    | with_reducible apply OnlyTouches.ite
    | with_reducible intro _
    | split
    | (with_reducible apply OnlyTouches.put_update; · decide)
    | with_reducible refine OnlyTouches.pair (by assumption) ?_
    | dsimp only

theorem execThreadAdmission_touches (t : Stall) (s : State) : StepTouches [.objs, .update, .ledger] s
    (execThreadAdmission t s) := by
  unfold execThreadAdmission
  try dsimp only
  repeat' first
    | with_reducible apply OnlyTouches.ofNext
    | with_reducible exact .refl _ _
    | with_reducible assumption
    | (with_reducible apply OnlyTouches.after (State.admitNext_touches _ _); · decide)
    | with_reducible intro _
    | with_reducible refine OnlyTouches.pair (by assumption) ?_
    | dsimp only

theorem State.endSegment_touches (s : State) (t n nj : Nat) : OnlyTouches [.objs, .update] s
    (State.endSegment s t n nj) := by
  unfold State.endSegment
  try dsimp only
  repeat' first
    | with_reducible exact .refl _ _
    | with_reducible assumption
    | (with_reducible apply OnlyTouches.after (State.bump_touches _ _ _); · decide)
    | (with_reducible apply OnlyTouches.after (State.drop_touches _ _ _); · decide)
    | (with_reducible apply OnlyTouches.after (State.setThread_touches _ _ _ _); · decide)
    | (with_reducible apply OnlyTouches.after (State.setTank_touches _ _ _); · decide)
    | with_reducible intro _
    | (with_reducible apply OnlyTouches.put_update; · decide)
    | with_reducible refine OnlyTouches.pair (by assumption) ?_
    | dsimp only

theorem State.teamReceipt_touches (s : State) (t g seq chunk : Nat) (out : Option OutAcc) (verdict cause
    members : Nat) : OnlyTouches [.objs, .ports, .switch, .coll, .mem, .ledger, .dict, .host] s
    (State.teamReceipt s t g seq chunk out verdict cause members) := by
  unfold State.teamReceipt
  try dsimp only
  repeat' first
    | with_reducible exact .refl _ _
    | with_reducible assumption
    | (with_reducible apply OnlyTouches.after (State.sendReceipt_touches _ _ _ _ _ _); · decide)
    | with_reducible apply OnlyTouches.ite
    | with_reducible intro _
    | split

theorem State.closeOutput_touches (s : State) (t team verdict cause : Nat) : OnlyTouches [.objs, .ports,
    .switch, .coll, .update, .mem, .ledger, .dict, .host, .free, .out] s (State.closeOutput s t team
    verdict cause) := by
  unfold State.closeOutput
  try dsimp only
  repeat' first
    | with_reducible exact .refl _ _
    | with_reducible assumption
    | (with_reducible apply OnlyTouches.after (State.draw_touches _); · decide)
    | (with_reducible apply OnlyTouches.after (State.modTeam_touches _ _ _ _); · decide)
    | (with_reducible apply OnlyTouches.after (State.teamReceipt_touches _ _ _ _ _ _ _ _ _); · decide)
    | with_reducible intro _
    | split
    | (with_reducible apply OnlyTouches.put_out; · decide)
    | with_reducible refine OnlyTouches.pair (by assumption) ?_
    | dsimp only

theorem State.countHeld_touches (s : State) (t team : Nat) (h : HeldBuf) : OnlyTouches [.objs, .ports,
    .switch, .coll, .update, .mem, .custody, .ledger, .dict, .host, .free] s (State.countHeld s t team h)
    := by
  unfold State.countHeld
  try dsimp only
  repeat' first
    | with_reducible exact .refl _ _
    | with_reducible assumption
    | (with_reducible apply OnlyTouches.after (State.countChunk_touches _ _ _ _ _ _); · decide)
    | (with_reducible apply OnlyTouches.after (State.modTeam_touches _ _ _ _); · decide)
    | with_reducible apply OnlyTouches.ite
    | with_reducible intro _
    | split
    | with_reducible refine OnlyTouches.pair (by assumption) ?_
    | dsimp only

theorem State.countAllHeld_touches (s : State) (t team : Nat) : OnlyTouches [.objs, .ports, .switch, .coll,
    .update, .mem, .custody, .ledger, .dict, .host, .free] s (State.countAllHeld s t team) := by
  unfold State.countAllHeld
  try dsimp only
  repeat' first
    | with_reducible exact .refl _ _
    | with_reducible assumption
    | with_reducible apply OnlyTouches.fold
    | with_reducible apply OnlyTouches.foldPair
    | (with_reducible apply OnlyTouches.after (State.countHeld_touches _ _ _ _); · decide)
    | with_reducible intro _
    | with_reducible refine OnlyTouches.pair (by assumption) ?_
    | dsimp only

theorem State.readOpen_touches (s : State) (a n : Nat) : OnlyTouches [.free] s (State.readOpen s a n).1 :=
    by
  unfold State.readOpen
  try dsimp only
  repeat' first
    | with_reducible exact .refl _ _
    | with_reducible assumption
    | with_reducible apply OnlyTouches.ite
    | with_reducible intro _
    | split
    | (with_reducible apply OnlyTouches.put_free; · decide)
    | with_reducible refine OnlyTouches.pair (by assumption) ?_
    | dsimp only

theorem State.spoil_touches (s : State) (a n : Nat) : OnlyTouches [.arrays] s (State.spoil s a n) := by
  unfold State.spoil
  try dsimp only
  repeat' first
    | with_reducible exact .refl _ _
    | with_reducible assumption
    | (with_reducible apply OnlyTouches.after (State.modArray_touches _ _ _); · decide)
    | with_reducible apply OnlyTouches.ite
    | with_reducible intro _
    | split
    | with_reducible refine OnlyTouches.pair (by assumption) ?_
    | dsimp only

theorem State.closeWindows_touches (s : State) (t n k : Nat) : OnlyTouches [.arrays] s (State.closeWindows
    s t n k) := by
  unfold State.closeWindows
  try dsimp only
  repeat' first
    | with_reducible exact .refl _ _
    | with_reducible assumption
    | (with_reducible apply OnlyTouches.after (State.modArray_touches _ _ _); · decide)
    | with_reducible apply OnlyTouches.ite
    | with_reducible intro _
    | split
    | with_reducible refine OnlyTouches.pair (by assumption) ?_
    | dsimp only

theorem State.copyPoison_touches (s : State) (src dst : Nat) (x0 : Nat) : OnlyTouches [.mem] s
    (State.copyPoison s src dst x0) := by
  induction x0 generalizing s src dst with
  | zero =>
    unfold State.copyPoison
    try dsimp only
    all_goals repeat' first
      | with_reducible exact .refl _ _
      | with_reducible assumption
      | (with_reducible apply OnlyTouches.after (State.poisonUnit_touches _ _); · decide)
      | with_reducible apply OnlyTouches.ite
      | with_reducible intro _
      | split
      | with_reducible refine OnlyTouches.pair (by assumption) ?_
      | dsimp only
  | succ k ih =>
    unfold State.copyPoison
    try dsimp only
    all_goals repeat' first
      | with_reducible exact .refl _ _
      | with_reducible assumption
      | (with_reducible apply OnlyTouches.after (ih _ _ _); · decide)
      | (with_reducible apply OnlyTouches.after (State.poisonUnit_touches _ _); · decide)
      | with_reducible apply OnlyTouches.ite
      | with_reducible intro _
      | split
      | with_reducible refine OnlyTouches.pair (by assumption) ?_
      | dsimp only

theorem State.sendReads_touches (s : State) : OnlyTouches [.host] s (State.sendReads s) := by
  unfold State.sendReads
  try dsimp only
  repeat' first
    | with_reducible exact .refl _ _
    | with_reducible assumption
    | with_reducible intro _
    | (with_reducible apply OnlyTouches.put_host; · decide)
    | with_reducible refine OnlyTouches.pair (by assumption) ?_
    | dsimp only

theorem State.hostError_touches (s : State) : OnlyTouches [.objs] s (State.hostError s) := by
  unfold State.hostError
  try dsimp only
  repeat' first
    | with_reducible exact .refl _ _
    | with_reducible assumption
    | (with_reducible apply OnlyTouches.after (State.bump_touches _ _ _); · decide)
    | with_reducible intro _

theorem State.hostStoreEp_touches (s : State) (a : Nat) (bs : List Byte) (e : EventAttrs) (ep : List Nat) :
    OnlyTouches [.objs, .ledger, .out] s (State.hostStoreEp s a bs e ep) := by
  unfold State.hostStoreEp
  try dsimp only
  repeat' first
    | with_reducible exact .refl _ _
    | with_reducible assumption
    | (with_reducible apply OnlyTouches.after (State.countHost_touches _ _ _ _); · decide)
    | with_reducible intro _
    | (with_reducible apply OnlyTouches.put_out; · decide)

theorem State.hostStore_touches (s : State) (a : Nat) (bs : List Byte) (e : EventAttrs) : OnlyTouches
    [.objs, .ledger, .out] s (State.hostStore s a bs e) := by
  unfold State.hostStore
  try dsimp only
  repeat' first
    | with_reducible exact .refl _ _
    | with_reducible assumption
    | (with_reducible apply OnlyTouches.after (State.hostStoreEp_touches _ _ _ _ _); · decide)
    | with_reducible intro _

theorem State.copyMove_touches (s : State) (v : BlockMove) : OnlyTouches [.objs, .arrays, .mem, .ledger,
    .free, .out] s (State.copyMove s v).1 := by
  unfold State.copyMove
  try dsimp only
  repeat' first
    | with_reducible exact .refl _ _
    | with_reducible assumption
    | (with_reducible apply OnlyTouches.after (State.store_touches _ _ _); · decide)
    | (with_reducible apply OnlyTouches.after (State.readOpen_touches _ _ _); · decide)
    | (with_reducible apply OnlyTouches.afterPair (State.readOpen_touches _ _ _); (first | assumption | decide); (first | assumption | decide))
    | (with_reducible apply OnlyTouches.after (State.spoil_touches _ _ _); · decide)
    | (with_reducible apply OnlyTouches.after (State.copyPoison_touches _ _ _ _); · decide)
    | (with_reducible apply OnlyTouches.after (State.hostError_touches _); · decide)
    | (with_reducible apply OnlyTouches.after (State.hostStoreEp_touches _ _ _ _ _); · decide)
    | with_reducible apply OnlyTouches.ite
    | with_reducible intro _
    | split
    | with_reducible refine OnlyTouches.pair (by assumption) ?_
    | dsimp only

theorem State.completeCounter_touches (s : State) (t n k code : Nat) : OnlyTouches [.update, .arrays] s
    (State.completeCounter s t n k code) := by
  unfold State.completeCounter
  try dsimp only
  repeat' first
    | with_reducible exact .refl _ _
    | with_reducible assumption
    | (with_reducible apply OnlyTouches.after (State.setThread_touches _ _ _ _); · decide)
    | (with_reducible apply OnlyTouches.after (State.closeWindows_touches _ _ _ _); · decide)
    | with_reducible apply OnlyTouches.ite
    | with_reducible intro _
    | split
    | with_reducible refine OnlyTouches.pair (by assumption) ?_
    | dsimp only

theorem State.dropBlock_touches (s : State) (v : BlockMove) : OnlyTouches [.update] s (State.dropBlock s v)
    := by
  unfold State.dropBlock
  try dsimp only
  repeat' first
    | with_reducible exact .refl _ _
    | with_reducible assumption
    | with_reducible intro _
    | (with_reducible apply OnlyTouches.put_update; · decide)

theorem State.completeMove_touches (s : State) (v : BlockMove) : OnlyTouches [.objs, .update, .arrays,
    .mem, .ledger, .free, .out] s (State.completeMove s v) := by
  unfold State.completeMove
  try dsimp only
  repeat' first
    | with_reducible exact .refl _ _
    | with_reducible assumption
    | (with_reducible apply OnlyTouches.after (State.copyMove_touches _ _); · decide)
    | (with_reducible apply OnlyTouches.afterPair (State.copyMove_touches _ _); (first | assumption | decide); (first | assumption | decide))
    | (with_reducible apply OnlyTouches.after (State.completeCounter_touches _ _ _ _ _); · decide)
    | (with_reducible apply OnlyTouches.after (State.dropBlock_touches _ _); · decide)
    | with_reducible intro _
    | split
    | with_reducible refine OnlyTouches.pair (by assumption) ?_
    | dsimp only

theorem execBmovComplete_touches (t : Stall) (n : ThreadNo) (s : State) : StepTouches [.objs, .update,
    .arrays, .mem, .ledger, .free, .out] s (execBmovComplete t n s) := by
  unfold execBmovComplete
  try dsimp only
  repeat' first
    | with_reducible apply OnlyTouches.ofNext
    | with_reducible exact .refl _ _
    | with_reducible assumption
    | (with_reducible apply OnlyTouches.after (State.completeMove_touches _ _); · decide)
    | with_reducible intro _
    | split

theorem State.endMoves_touches (s : State) (t : Nat) (ns : List Nat) : OnlyTouches [.objs, .update,
    .arrays, .mem, .ledger, .free, .out] s (State.endMoves s t ns) := by
  unfold State.endMoves
  try dsimp only
  repeat' first
    | with_reducible exact .refl _ _
    | with_reducible assumption
    | with_reducible apply OnlyTouches.fold
    | with_reducible apply OnlyTouches.foldPair
    | (with_reducible apply OnlyTouches.after (State.copyMove_touches _ _); · decide)
    | (with_reducible apply OnlyTouches.afterPair (State.copyMove_touches _ _); (first | assumption | decide); (first | assumption | decide))
    | (with_reducible apply OnlyTouches.after (State.dropBlock_touches _ _); · decide)
    | with_reducible intro _
    | with_reducible refine OnlyTouches.pair (by assumption) ?_
    | dsimp only

theorem State.endDescs_touches (s : State) (t : Nat) (ns : List Nat) : OnlyTouches [.objs, .arrays, .mem,
    .ledger] s (State.endDescs s t ns) := by
  unfold State.endDescs
  try dsimp only
  repeat' first
    | with_reducible exact .refl _ _
    | with_reducible assumption
    | with_reducible apply OnlyTouches.fold
    | with_reducible apply OnlyTouches.foldPair
    | (with_reducible apply OnlyTouches.after (State.bump_touches _ _ _); · decide)
    | (with_reducible apply OnlyTouches.after (State.write_touches _ _ _); · decide)
    | (with_reducible apply OnlyTouches.after (State.setArray_touches _ _ _); · decide)
    | (with_reducible apply OnlyTouches.after (State.dropped_touches _ _ _ _); · decide)
    | with_reducible apply OnlyTouches.ite
    | with_reducible intro _
    | split

theorem State.endRun_touches (s : State) (r : Nat) : OnlyTouches [.objs, .update, .dict, .host] s
    (State.endRun s r) := by
  unfold State.endRun
  try dsimp only
  repeat' first
    | with_reducible exact .refl _ _
    | with_reducible assumption
    | (with_reducible apply OnlyTouches.after (State.setRun_touches _ _ _); · decide)
    | (with_reducible apply OnlyTouches.after (State.endAll_touches _ _); · decide)
    | with_reducible apply OnlyTouches.ite
    | with_reducible intro _
    | split
    | with_reducible refine OnlyTouches.pair (by assumption) ?_
    | dsimp only

theorem State.endTeam_touches (s : State) (t team : Nat) : OnlyTouches [.objs, .ports, .switch, .coll,
    .update, .arrays, .mem, .ledger, .dict, .host, .free, .out] s (State.endTeam s t team) := by
  unfold State.endTeam
  try dsimp only
  repeat' first
    | with_reducible exact .refl _ _
    | with_reducible assumption
    | with_reducible apply OnlyTouches.fold
    | with_reducible apply OnlyTouches.foldPair
    | (with_reducible apply OnlyTouches.after (State.setThread_touches _ _ _ _); · decide)
    | (with_reducible apply OnlyTouches.after (State.setTeam_touches _ _ _ _); · decide)
    | (with_reducible apply OnlyTouches.after (State.freeBuffer_touches _ _); · decide)
    | (with_reducible apply OnlyTouches.after (State.unready_touches _ _ _); · decide)
    | (with_reducible apply OnlyTouches.after (State.closeOutput_touches _ _ _ _ _); · decide)
    | (with_reducible apply OnlyTouches.after (State.endMoves_touches _ _ _); · decide)
    | (with_reducible apply OnlyTouches.after (State.endDescs_touches _ _ _); · decide)
    | (with_reducible apply OnlyTouches.after (State.endRun_touches _ _); · decide)
    | with_reducible intro _
    | with_reducible refine OnlyTouches.pair (by assumption) ?_
    | dsimp only

theorem State.checkTeam_touches (s : State) (t n : Nat) : OnlyTouches [.objs, .ports, .switch, .coll,
    .update, .arrays, .mem, .custody, .ledger, .dict, .host, .free, .out] s (State.checkTeam s t n) := by
  unfold State.checkTeam
  try dsimp only
  repeat' first
    | with_reducible exact .refl _ _
    | with_reducible assumption
    | (with_reducible apply OnlyTouches.after (State.countAllHeld_touches _ _ _); · decide)
    | (with_reducible apply OnlyTouches.after (State.endTeam_touches _ _ _); · decide)
    | with_reducible apply OnlyTouches.ite
    | with_reducible intro _
    | split
    | with_reducible refine OnlyTouches.pair (by assumption) ?_
    | dsimp only

theorem State.checkBarrier_touches (s : State) (t n : Nat) : OnlyTouches [.update] s (State.checkBarrier s
    t n) := by
  unfold State.checkBarrier
  try dsimp only
  repeat' first
    | with_reducible exact .refl _ _
    | with_reducible assumption
    | with_reducible apply OnlyTouches.fold
    | with_reducible apply OnlyTouches.foldPair
    | (with_reducible apply OnlyTouches.after (State.modThread_touches _ _ _ _); · decide)
    | (with_reducible apply OnlyTouches.after (State.modTeam_touches _ _ _ _); · decide)
    | with_reducible apply OnlyTouches.ite
    | with_reducible intro _
    | split
    | with_reducible refine OnlyTouches.pair (by assumption) ?_
    | dsimp only

theorem State.claim_touches (s : State) (t team g : Nat) (e : SinkEntry) : OnlyTouches [.objs, .ports,
    .switch, .coll, .update, .mem, .custody, .ledger, .dict, .host, .free] s (State.claim s t team g e) :=
    by
  unfold State.claim
  try dsimp only
  repeat' first
    | with_reducible exact .refl _ _
    | with_reducible assumption
    | (with_reducible apply OnlyTouches.after (State.drop_touches _ _ _); · decide)
    | (with_reducible apply OnlyTouches.after (State.setSink_touches _ _ _ _); · decide)
    | (with_reducible apply OnlyTouches.after (State.trySink_touches _ _); · decide)
    | (with_reducible apply OnlyTouches.after (State.countChunk_touches _ _ _ _ _ _); · decide)
    | (with_reducible apply OnlyTouches.after (State.pushEnds_touches _); · decide)
    | (with_reducible apply OnlyTouches.after (State.modTeam_touches _ _ _ _); · decide)
    | (with_reducible apply OnlyTouches.after (State.countAllHeld_touches _ _ _); · decide)
    | with_reducible apply OnlyTouches.ite
    | with_reducible intro _
    | split
    | with_reducible refine OnlyTouches.pair (by assumption) ?_
    | dsimp only

theorem State.serveTake_touches (s : State) (t n : Nat) : OnlyTouches [.objs, .ports, .switch, .coll,
    .update, .mem, .custody, .ledger, .dict, .host, .free] s (State.serveTake s t n) := by
  unfold State.serveTake
  try dsimp only
  repeat' first
    | with_reducible exact .refl _ _
    | with_reducible assumption
    | with_reducible apply OnlyTouches.fold
    | with_reducible apply OnlyTouches.foldPair
    | (with_reducible apply OnlyTouches.after (State.modThread_touches _ _ _ _); · decide)
    | (with_reducible apply OnlyTouches.after (State.makeReady_touches _ _ _); · decide)
    | (with_reducible apply OnlyTouches.after (State.claim_touches _ _ _ _ _); · decide)
    | with_reducible apply OnlyTouches.ite
    | with_reducible intro _
    | split
    | (with_reducible apply OnlyTouches.put_free; · decide)
    | with_reducible refine OnlyTouches.pair (by assumption) ?_
    | dsimp only

theorem execTakeClaim_touches (t : Stall) (n : ThreadNo) (s : State) : StepTouches [.objs, .ports, .switch,
    .coll, .update, .mem, .custody, .ledger, .dict, .host, .free] s (execTakeClaim t n s) := by
  unfold execTakeClaim
  try dsimp only
  repeat' first
    | with_reducible apply OnlyTouches.ofNext
    | with_reducible exact .refl _ _
    | with_reducible assumption
    | (with_reducible apply OnlyTouches.after (State.serveTake_touches _ _ _); · decide)
    | with_reducible intro _
    | with_reducible refine OnlyTouches.pair (by assumption) ?_
    | dsimp only

theorem State.endThread_touches (s : State) (t n : Nat) : OnlyTouches [.objs, .ports, .switch, .coll,
    .update, .arrays, .mem, .custody, .ledger, .dict, .host, .free, .out] s (State.endThread s t n) := by
  unfold State.endThread
  try dsimp only
  repeat' first
    | with_reducible exact .refl _ _
    | with_reducible assumption
    | (with_reducible apply OnlyTouches.after (State.modThread_touches _ _ _ _); · decide)
    | (with_reducible apply OnlyTouches.after (State.unready_touches _ _ _); · decide)
    | (with_reducible apply OnlyTouches.after (State.checkTeam_touches _ _ _); · decide)
    | (with_reducible apply OnlyTouches.after (State.checkBarrier_touches _ _ _); · decide)
    | (with_reducible apply OnlyTouches.after (State.serveTake_touches _ _ _); · decide)
    | with_reducible intro _
    | with_reducible refine OnlyTouches.pair (by assumption) ?_
    | dsimp only

theorem State.stopTeam_touches (s : State) (t n : Nat) : OnlyTouches [.objs, .ports, .switch, .coll,
    .update, .arrays, .mem, .ledger, .dict, .host, .free, .out] s (State.stopTeam s t n) := by
  unfold State.stopTeam
  try dsimp only
  repeat' first
    | with_reducible exact .refl _ _
    | with_reducible assumption
    | (with_reducible apply OnlyTouches.after (State.endTeam_touches _ _ _); · decide)
    | (with_reducible apply OnlyTouches.after (State.checkBarrier_touches _ _ _); · decide)
    | with_reducible apply OnlyTouches.ite
    | with_reducible intro _
    | split
    | with_reducible refine OnlyTouches.pair (by assumption) ?_
    | dsimp only

theorem State.yieldTo_touches (s : State) (t n nj : Nat) (w : Wait) : OnlyTouches [.objs, .ports, .switch,
    .coll, .update, .arrays, .mem, .ledger, .dict, .host, .free, .out] s (State.yieldTo s t n nj w) := by
  unfold State.yieldTo
  try dsimp only
  repeat' first
    | with_reducible exact .refl _ _
    | with_reducible assumption
    | (with_reducible apply OnlyTouches.after (State.setThread_touches _ _ _ _); · decide)
    | (with_reducible apply OnlyTouches.after (State.modThread_touches _ _ _ _); · decide)
    | (with_reducible apply OnlyTouches.after (State.makeReady_touches _ _ _); · decide)
    | (with_reducible apply OnlyTouches.after (State.endSegment_touches _ _ _ _); · decide)
    | (with_reducible apply OnlyTouches.after (State.stopTeam_touches _ _ _); · decide)
    | with_reducible apply OnlyTouches.ite
    | with_reducible intro _
    | split
    | with_reducible refine OnlyTouches.pair (by assumption) ?_
    | dsimp only

theorem State.parkStall_touches (s : State) (t : Nat) : OnlyTouches [.update] s (State.parkStall s t) := by
  unfold State.parkStall
  try dsimp only
  repeat' first
    | with_reducible exact .refl _ _
    | with_reducible assumption
    | with_reducible apply OnlyTouches.fold
    | with_reducible apply OnlyTouches.foldPair
    | (with_reducible apply OnlyTouches.after (State.setThread_touches _ _ _ _); · decide)
    | (with_reducible apply OnlyTouches.after (State.unready_touches _ _ _); · decide)
    | with_reducible apply OnlyTouches.ite
    | with_reducible intro _
    | split
    | with_reducible refine OnlyTouches.pair (by assumption) ?_
    | dsimp only

theorem State.excuseHeld_touches (s : State) (t : Nat) : OnlyTouches [.update] s (State.excuseHeld s t) :=
    by
  unfold State.excuseHeld
  try dsimp only
  repeat' first
    | with_reducible exact .refl _ _
    | with_reducible assumption
    | with_reducible apply OnlyTouches.fold
    | with_reducible apply OnlyTouches.foldPair
    | (with_reducible apply OnlyTouches.after (State.modThread_touches _ _ _ _); · decide)
    | with_reducible apply OnlyTouches.ite
    | with_reducible intro _
    | split
    | with_reducible refine OnlyTouches.pair (by assumption) ?_
    | dsimp only

theorem State.unparkStall_touches (s : State) (t : Nat) : OnlyTouches [.update] s (State.unparkStall s t)
    := by
  unfold State.unparkStall
  try dsimp only
  repeat' first
    | with_reducible exact .refl _ _
    | with_reducible assumption
    | with_reducible apply OnlyTouches.fold
    | with_reducible apply OnlyTouches.foldPair
    | (with_reducible apply OnlyTouches.after (State.setThread_touches _ _ _ _); · decide)
    | (with_reducible apply OnlyTouches.after (State.makeReady_touches _ _ _); · decide)
    | (with_reducible apply OnlyTouches.after (State.excuseHeld_touches _ _); · decide)
    | with_reducible apply OnlyTouches.ite
    | with_reducible intro _
    | split
    | with_reducible refine OnlyTouches.pair (by assumption) ?_
    | dsimp only

theorem State.wakeBell_touches (s : State) (t n : Nat) : OnlyTouches [.update] s (State.wakeBell s t n) :=
    by
  unfold State.wakeBell
  try dsimp only
  repeat' first
    | with_reducible exact .refl _ _
    | with_reducible assumption
    | (with_reducible apply OnlyTouches.after (State.setThread_touches _ _ _ _); · decide)
    | (with_reducible apply OnlyTouches.after (State.makeReady_touches _ _ _); · decide)
    | with_reducible apply OnlyTouches.ite
    | with_reducible intro _
    | split
    | with_reducible refine OnlyTouches.pair (by assumption) ?_
    | dsimp only

theorem execBellwWake_touches (t : Stall) (n : ThreadNo) (s : State) : StepTouches [.update] s
    (execBellwWake t n s) := by
  unfold execBellwWake
  try dsimp only
  repeat' first
    | with_reducible apply OnlyTouches.ofNext
    | with_reducible exact .refl _ _
    | with_reducible assumption
    | (with_reducible apply OnlyTouches.after (State.wakeBell_touches _ _ _); · decide)
    | with_reducible intro _
    | with_reducible refine OnlyTouches.pair (by assumption) ?_
    | dsimp only

theorem execWaitmWake_touches (t : Stall) (n : ThreadNo) (s : State) : StepTouches [.update] s
    (execWaitmWake t n s) := by
  unfold execWaitmWake
  try dsimp only
  repeat' first
    | with_reducible apply OnlyTouches.ofNext
    | with_reducible exact .refl _ _
    | with_reducible assumption
    | (with_reducible apply OnlyTouches.after (State.makeReady_touches _ _ _); · decide)
    | with_reducible apply OnlyTouches.ite
    | with_reducible apply OnlyTouches.iteStep
    | with_reducible intro _
    | split

theorem State.faultThread_touches (s : State) (t n code address : Nat) : OnlyTouches [.objs, .ports,
    .switch, .coll, .update, .arrays, .mem, .custody, .ledger, .dict, .host, .free, .out] s
    (State.faultThread s t n code address) := by
  unfold State.faultThread
  try dsimp only
  repeat' first
    | with_reducible exact .refl _ _
    | with_reducible assumption
    | (with_reducible apply OnlyTouches.after (State.putObj_touches _ _ _); · decide)
    | (with_reducible apply OnlyTouches.after (State.bump_touches _ _ _); · decide)
    | (with_reducible apply OnlyTouches.after (State.setThread_touches _ _ _ _); · decide)
    | (with_reducible apply OnlyTouches.after (State.eventObj_touches _ _ _ _); · decide)
    | (with_reducible apply OnlyTouches.after (State.count_touches _ _ _ _ _); · decide)
    | (with_reducible apply OnlyTouches.after (State.unready_touches _ _ _); · decide)
    | (with_reducible apply OnlyTouches.after (State.closeOutput_touches _ _ _ _ _); · decide)
    | (with_reducible apply OnlyTouches.after (State.checkBarrier_touches _ _ _); · decide)
    | (with_reducible apply OnlyTouches.after (State.serveTake_touches _ _ _); · decide)
    | (with_reducible apply OnlyTouches.after (State.stopTeam_touches _ _ _); · decide)
    | with_reducible apply OnlyTouches.ite
    | with_reducible intro _
    | split
    | (with_reducible apply OnlyTouches.put_update; · decide)
    | with_reducible refine OnlyTouches.pair (by assumption) ?_
    | dsimp only

theorem execSegWatchdog_touches (t : Stall) (n : ThreadNo) (s : State) : StepTouches [.objs, .ports,
    .switch, .coll, .update, .arrays, .mem, .custody, .ledger, .dict, .host, .free, .out] s
    (execSegWatchdog t n s) := by
  unfold execSegWatchdog
  try dsimp only
  repeat' first
    | with_reducible exact OnlyTouches.ofFault _
    | with_reducible apply OnlyTouches.ofNext
    | with_reducible exact .refl _ _
    | with_reducible assumption
    | (with_reducible apply OnlyTouches.after (State.faultThread_touches _ _ _ _ _); · decide)
    | with_reducible apply OnlyTouches.ite
    | with_reducible apply OnlyTouches.iteStep
    | with_reducible intro _
    | split
    | with_reducible refine OnlyTouches.pair (by assumption) ?_
    | dsimp only

theorem State.takeThreads_touches (s : State) (run t : Nat) (r : Run) : OnlyTouches [.update] s
    (State.takeThreads s run t r) := by
  unfold State.takeThreads
  try dsimp only
  repeat' first
    | with_reducible exact .refl _ _
    | with_reducible assumption
    | with_reducible apply OnlyTouches.fold
    | with_reducible apply OnlyTouches.foldPair
    | (with_reducible apply OnlyTouches.after (State.setThread_touches _ _ _ _); · decide)
    | (with_reducible apply OnlyTouches.after (State.setTeam_touches _ _ _ _); · decide)
    | with_reducible intro _
    | with_reducible refine OnlyTouches.pair (by assumption) ?_
    | dsimp only

theorem State.startTake_touches (s : State) (token bell : Nat) (args : Tbl Nat) : OnlyTouches [.update,
    .dict] s (State.startTake s token bell args) := by
  unfold State.startTake
  try dsimp only
  repeat' first
    | with_reducible exact .refl _ _
    | with_reducible assumption
    | with_reducible apply OnlyTouches.fold
    | with_reducible apply OnlyTouches.foldPair
    | (with_reducible apply OnlyTouches.after (State.setRun_touches _ _ _); · decide)
    | (with_reducible apply OnlyTouches.after (State.setResult_touches _ _ _ _); · decide)
    | (with_reducible apply OnlyTouches.after (State.takeThreads_touches _ _ _ _); · decide)
    | with_reducible intro _
    | split
    | with_reducible refine OnlyTouches.pair (by assumption) ?_
    | dsimp only

theorem State.startThread_touches (s : State) (t n : Nat) (r : Run) (image : Nat) : OnlyTouches [.update] s
    (State.startThread s t n r image) := by
  unfold State.startThread
  try dsimp only
  repeat' first
    | with_reducible exact .refl _ _
    | with_reducible assumption
    | (with_reducible apply OnlyTouches.after (State.setThread_touches _ _ _ _); · decide)
    | (with_reducible apply OnlyTouches.after (State.modThread_touches _ _ _ _); · decide)
    | (with_reducible apply OnlyTouches.after (State.makeReady_touches _ _ _); · decide)
    | with_reducible apply OnlyTouches.ite
    | with_reducible intro _
    | split

theorem State.startUndone_touches (s : State) (token : Nat) : OnlyTouches [.update] s (State.startUndone s
    token) := by
  unfold State.startUndone
  try dsimp only
  repeat' first
    | with_reducible exact .refl _ _
    | with_reducible assumption
    | with_reducible apply OnlyTouches.fold
    | with_reducible apply OnlyTouches.foldPair
    | (with_reducible apply OnlyTouches.after (State.setThread_touches _ _ _ _); · decide)
    | (with_reducible apply OnlyTouches.after (State.setTeam_touches _ _ _ _); · decide)
    | (with_reducible apply OnlyTouches.after (State.setRun_touches _ _ _); · decide)
    | with_reducible apply OnlyTouches.ite
    | with_reducible intro _
    | split
    | with_reducible refine OnlyTouches.pair (by assumption) ?_
    | dsimp only

theorem State.startDue_touches (s : State) (k : Nat) : OnlyTouches [.objs, .update, .dict, .host] s
    (State.startDue s k) := by
  unfold State.startDue
  try dsimp only
  repeat' first
    | with_reducible exact .refl _ _
    | with_reducible assumption
    | with_reducible apply OnlyTouches.fold
    | with_reducible apply OnlyTouches.foldPair
    | (with_reducible apply OnlyTouches.after (State.setRun_touches _ _ _); · decide)
    | (with_reducible apply OnlyTouches.after (State.endDone_touches _ _); · decide)
    | (with_reducible apply OnlyTouches.after (State.endFailedAt_touches _ _ _ _); · decide)
    | (with_reducible apply OnlyTouches.after (State.markActed_touches _ _); · decide)
    | (with_reducible apply OnlyTouches.after (State.endRun_touches _ _); · decide)
    | (with_reducible apply OnlyTouches.after (State.startThread_touches _ _ _ _ _); · decide)
    | (with_reducible apply OnlyTouches.after (State.startUndone_touches _ _); · decide)
    | with_reducible apply OnlyTouches.ite
    | with_reducible intro _
    | split
    | with_reducible refine OnlyTouches.pair (by assumption) ?_
    | dsimp only

theorem execStartThreadsEffect_touches (run : Fin 64) (s : State) : StepTouches [.objs, .update, .dict,
    .host] s (execStartThreadsEffect run s) := by
  unfold execStartThreadsEffect
  try dsimp only
  repeat' first
    | with_reducible apply OnlyTouches.ofNext
    | with_reducible exact .refl _ _
    | with_reducible assumption
    | (with_reducible apply OnlyTouches.after (State.startDue_touches _ _); · decide)
    | with_reducible intro _
    | with_reducible refine OnlyTouches.pair (by assumption) ?_
    | dsimp only

theorem State.stopTake_touches (s : State) (token : Nat) (args : Tbl Nat) : OnlyTouches [.objs, .dict,
    .host] s (State.stopTake s token args) := by
  unfold State.stopTake
  try dsimp only
  repeat' first
    | with_reducible exact .refl _ _
    | with_reducible assumption
    | (with_reducible apply OnlyTouches.after (State.endDone_touches _ _); · decide)
    | with_reducible apply OnlyTouches.ite
    | with_reducible intro _
    | split
    | with_reducible refine OnlyTouches.pair (by assumption) ?_
    | dsimp only

theorem State.stopRun_touches (s : State) (k : Nat) : OnlyTouches [.objs, .ports, .switch, .coll, .update,
    .arrays, .mem, .ledger, .dict, .host, .free, .out] s (State.stopRun s k) := by
  unfold State.stopRun
  try dsimp only
  repeat' first
    | with_reducible exact .refl _ _
    | with_reducible assumption
    | with_reducible apply OnlyTouches.fold
    | with_reducible apply OnlyTouches.foldPair
    | (with_reducible apply OnlyTouches.after (State.modThread_touches _ _ _ _); · decide)
    | (with_reducible apply OnlyTouches.after (State.setRun_touches _ _ _); · decide)
    | (with_reducible apply OnlyTouches.after (State.unready_touches _ _ _); · decide)
    | (with_reducible apply OnlyTouches.after (State.endRun_touches _ _); · decide)
    | (with_reducible apply OnlyTouches.after (State.stopTeam_touches _ _ _); · decide)
    | with_reducible apply OnlyTouches.ite
    | with_reducible intro _
    | split
    | with_reducible refine OnlyTouches.pair (by assumption) ?_
    | dsimp only

theorem State.stopDue_touches (s : State) (k : Nat) : OnlyTouches [.objs, .ports, .switch, .coll, .update,
    .arrays, .mem, .ledger, .dict, .host, .free, .out] s (State.stopDue s k) := by
  unfold State.stopDue
  try dsimp only
  repeat' first
    | with_reducible exact .refl _ _
    | with_reducible assumption
    | (with_reducible apply OnlyTouches.after (State.endFailed_touches _ _ _); · decide)
    | (with_reducible apply OnlyTouches.after (State.endAll_touches _ _); · decide)
    | (with_reducible apply OnlyTouches.after (State.markAll_touches _ _); · decide)
    | (with_reducible apply OnlyTouches.after (State.startUndone_touches _ _); · decide)
    | (with_reducible apply OnlyTouches.after (State.stopRun_touches _ _); · decide)
    | with_reducible apply OnlyTouches.ite
    | with_reducible intro _
    | split
    | with_reducible refine OnlyTouches.pair (by assumption) ?_
    | dsimp only

theorem execStopThreadsEffect_touches (run : Fin 64) (s : State) : StepTouches [.objs, .ports, .switch,
    .coll, .update, .arrays, .mem, .ledger, .dict, .host, .free, .out] s (execStopThreadsEffect run s) := by
  unfold execStopThreadsEffect
  try dsimp only
  repeat' first
    | with_reducible apply OnlyTouches.ofNext
    | with_reducible exact .refl _ _
    | with_reducible assumption
    | (with_reducible apply OnlyTouches.after (State.stopDue_touches _ _); · decide)
    | with_reducible intro _
    | with_reducible refine OnlyTouches.pair (by assumption) ?_
    | dsimp only

theorem State.wakeAll_touches (s : State) : OnlyTouches [.objs, .ports, .switch, .coll, .update, .mem,
    .custody, .ledger, .dict, .host, .free] s (State.wakeAll s) := by
  unfold State.wakeAll
  try dsimp only
  repeat' first
    | with_reducible exact .refl _ _
    | with_reducible assumption
    | with_reducible apply OnlyTouches.fold
    | with_reducible apply OnlyTouches.foldPair
    | (with_reducible apply OnlyTouches.after (State.serveTake_touches _ _ _); · decide)
    | (with_reducible apply OnlyTouches.after (State.wakeBell_touches _ _ _); · decide)
    | with_reducible intro _
    | with_reducible refine OnlyTouches.pair (by assumption) ?_
    | dsimp only

end Sys2Proof.Machine
end

