-- ==== Sys2Proof/Laws/KeepThreads.lean ====
section
/-! SUPPORT. The operations of Machine/Threads.lean keep the invariant. -/

namespace Sys2Proof.Machine

theorem State.teamReceipt_keeps (s : State) (t g seq chunk : Nat) (out : Option OutAcc) (verdict cause
    members : Nat) : Keeps s (State.teamReceipt s t g seq chunk out verdict cause members) := by
  unfold State.teamReceipt
  try dsimp only
  repeat' first
    | with_reducible exact .refl _
    | with_reducible assumption
    | with_reducible apply Keeps.after (State.sendReceipt_keeps _ _ _ _ _ _)
    | with_reducible apply Keeps.ite
    | with_reducible intro _
    | split

theorem State.closeOutput_keeps (s : State) (t team verdict cause : Nat) : Keeps s (State.closeOutput s t
    team verdict cause) := by
  unfold State.closeOutput
  try dsimp only
  repeat' first
    | with_reducible exact .refl _
    | with_reducible assumption
    | ((with_reducible apply Keeps.afterT (State.draw_touches _)); · rfl)
    | ((with_reducible apply Keeps.afterT (State.modTeam_touches _ _ _ _)); · rfl)
    | with_reducible apply Keeps.after (State.teamReceipt_keeps _ _ _ _ _ _ _ _ _)
    | with_reducible intro _
    | split
    | with_reducible apply Keeps.put_out
    | with_reducible refine Keeps.pair (by assumption) ?_
    | dsimp only

theorem State.countHeld_keeps (s : State) (t team : Nat) (h : HeldBuf) : Keeps s (State.countHeld s t team
    h) := by
  unfold State.countHeld
  try dsimp only
  repeat' first
    | with_reducible exact .refl _
    | with_reducible assumption
    | with_reducible apply Keeps.after (State.countChunk_keeps _ _ _ _ _ _)
    | ((with_reducible apply Keeps.afterT (State.modTeam_touches _ _ _ _)); · rfl)
    | with_reducible apply Keeps.ite
    | with_reducible intro _
    | split
    | with_reducible refine Keeps.pair (by assumption) ?_
    | dsimp only

theorem State.countAllHeld_keeps (s : State) (t team : Nat) : Keeps s (State.countAllHeld s t team) := by
  unfold State.countAllHeld
  try dsimp only
  repeat' first
    | with_reducible exact .refl _
    | with_reducible assumption
    | with_reducible apply Keeps.fold
    | with_reducible apply Keeps.foldPair
    | with_reducible apply Keeps.after (State.countHeld_keeps _ _ _ _)
    | with_reducible intro _
    | with_reducible refine Keeps.pair (by assumption) ?_
    | dsimp only

theorem State.copyPoison_keeps (s : State) (src dst : Nat) (x0 : Nat) : Keeps s (State.copyPoison s src dst
    x0) := by
  induction x0 generalizing s src dst with
  | zero =>
    unfold State.copyPoison
    try dsimp only
    all_goals repeat' first
      | with_reducible exact .refl _
      | with_reducible assumption
      | with_reducible apply Keeps.after (State.poisonUnit_keeps _ _)
      | with_reducible apply Keeps.ite
      | with_reducible intro _
      | split
      | with_reducible refine Keeps.pair (by assumption) ?_
      | dsimp only
  | succ k ih =>
    unfold State.copyPoison
    try dsimp only
    all_goals repeat' first
      | with_reducible exact .refl _
      | with_reducible assumption
      | (with_reducible apply Keeps.after (ih _ _ _))
      | with_reducible apply Keeps.after (State.poisonUnit_keeps _ _)
      | with_reducible apply Keeps.ite
      | with_reducible intro _
      | split
      | with_reducible refine Keeps.pair (by assumption) ?_
      | dsimp only

theorem State.copyMove_keeps (s : State) (v : BlockMove) : Keeps s (State.copyMove s v).1 := by
  unfold State.copyMove
  try dsimp only
  repeat' first
    | with_reducible exact .refl _
    | with_reducible assumption
    | with_reducible apply Keeps.after (State.store_keeps _ _ _)
    | ((with_reducible apply Keeps.afterT (State.readOpen_touches _ _ _)); · rfl)
    | ((with_reducible apply Keeps.afterPairT (State.readOpen_touches _ _ _)); (· assumption); (· rfl))
    | ((with_reducible apply Keeps.afterT (State.spoil_touches _ _ _)); · rfl)
    | with_reducible apply Keeps.after (State.copyPoison_keeps _ _ _ _)
    | ((with_reducible apply Keeps.afterT (State.hostError_touches _)); · rfl)
    | ((with_reducible apply Keeps.afterT (State.hostStoreEp_touches _ _ _ _ _)); · rfl)
    | with_reducible apply Keeps.ite
    | with_reducible intro _
    | split
    | with_reducible refine Keeps.pair (by assumption) ?_
    | dsimp only

theorem State.completeMove_keeps (s : State) (v : BlockMove) : Keeps s (State.completeMove s v) := by
  unfold State.completeMove
  try dsimp only
  repeat' first
    | with_reducible exact .refl _
    | with_reducible assumption
    | with_reducible apply Keeps.after (State.copyMove_keeps _ _)
    | ((with_reducible apply Keeps.afterPair (State.copyMove_keeps _ _)); · assumption)
    | ((with_reducible apply Keeps.afterT (State.completeCounter_touches _ _ _ _ _)); · rfl)
    | ((with_reducible apply Keeps.afterT (State.dropBlock_touches _ _)); · rfl)
    | with_reducible intro _
    | split
    | with_reducible refine Keeps.pair (by assumption) ?_
    | dsimp only

theorem execBmovComplete_keeps (t : Stall) (n : ThreadNo) (s : State) : StepKeeps s (execBmovComplete t n
    s) := by
  unfold execBmovComplete
  try dsimp only
  repeat' first
    | with_reducible apply Keeps.ofNext
    | with_reducible exact .refl _
    | with_reducible assumption
    | with_reducible apply Keeps.after (State.completeMove_keeps _ _)
    | with_reducible intro _
    | split

theorem State.endMoves_keeps (s : State) (t : Nat) (ns : List Nat) : Keeps s (State.endMoves s t ns) := by
  unfold State.endMoves
  try dsimp only
  repeat' first
    | with_reducible exact .refl _
    | with_reducible assumption
    | with_reducible apply Keeps.fold
    | with_reducible apply Keeps.foldPair
    | with_reducible apply Keeps.after (State.copyMove_keeps _ _)
    | ((with_reducible apply Keeps.afterPair (State.copyMove_keeps _ _)); · assumption)
    | ((with_reducible apply Keeps.afterT (State.dropBlock_touches _ _)); · rfl)
    | with_reducible intro _
    | with_reducible refine Keeps.pair (by assumption) ?_
    | dsimp only

theorem State.endDescs_keeps (s : State) (t : Nat) (ns : List Nat) : Keeps s (State.endDescs s t ns) := by
  unfold State.endDescs
  try dsimp only
  repeat' first
    | with_reducible exact .refl _
    | with_reducible assumption
    | with_reducible apply Keeps.fold
    | with_reducible apply Keeps.foldPair
    | ((with_reducible apply Keeps.afterT (State.bump_touches _ _ _)); · rfl)
    | with_reducible apply Keeps.after (State.write_keeps _ _ _)
    | ((with_reducible apply Keeps.afterT (State.setArray_touches _ _ _)); · rfl)
    | ((with_reducible apply Keeps.afterT (State.dropped_touches _ _ _ _)); · rfl)
    | with_reducible apply Keeps.ite
    | with_reducible intro _
    | split

theorem State.endRun_keeps (s : State) (r : Nat) : Keeps s (State.endRun s r) := by
  unfold State.endRun
  try dsimp only
  repeat' first
    | with_reducible exact .refl _
    | with_reducible assumption
    | ((with_reducible apply Keeps.afterT (State.setRun_touches _ _ _)); · rfl)
    | with_reducible apply Keeps.after (State.endAll_keeps _ _)
    | with_reducible apply Keeps.ite
    | with_reducible intro _
    | split
    | with_reducible refine Keeps.pair (by assumption) ?_
    | dsimp only

theorem State.endTeam_keeps (s : State) (t team : Nat) : Keeps s (State.endTeam s t team) := by
  unfold State.endTeam
  try dsimp only
  repeat' first
    | with_reducible exact .refl _
    | with_reducible assumption
    | with_reducible apply Keeps.fold
    | with_reducible apply Keeps.foldPair
    | ((with_reducible apply Keeps.afterT (State.setThread_touches _ _ _ _)); · rfl)
    | ((with_reducible apply Keeps.afterT (State.setTeam_touches _ _ _ _)); · rfl)
    | with_reducible apply Keeps.after (State.freeBuffer_keeps _ _)
    | ((with_reducible apply Keeps.afterT (State.unready_touches _ _ _)); · rfl)
    | with_reducible apply Keeps.after (State.closeOutput_keeps _ _ _ _ _)
    | with_reducible apply Keeps.after (State.endMoves_keeps _ _ _)
    | with_reducible apply Keeps.after (State.endDescs_keeps _ _ _)
    | with_reducible apply Keeps.after (State.endRun_keeps _ _)
    | with_reducible intro _
    | with_reducible refine Keeps.pair (by assumption) ?_
    | dsimp only

theorem State.checkTeam_keeps (s : State) (t n : Nat) : Keeps s (State.checkTeam s t n) := by
  unfold State.checkTeam
  try dsimp only
  repeat' first
    | with_reducible exact .refl _
    | with_reducible assumption
    | with_reducible apply Keeps.after (State.countAllHeld_keeps _ _ _)
    | with_reducible apply Keeps.after (State.endTeam_keeps _ _ _)
    | with_reducible apply Keeps.ite
    | with_reducible intro _
    | split
    | with_reducible refine Keeps.pair (by assumption) ?_
    | dsimp only

theorem State.claim_keeps (s : State) (t team g : Nat) (e : SinkEntry) : Keeps s (State.claim s t team g e)
    := by
  unfold State.claim
  try dsimp only
  repeat' first
    | with_reducible exact .refl _
    | with_reducible assumption
    | ((with_reducible apply Keeps.afterT (State.drop_touches _ _ _)); · rfl)
    | ((with_reducible apply Keeps.afterT (State.setSink_touches _ _ _ _)); · rfl)
    | with_reducible apply Keeps.after (State.trySink_keeps _ _)
    | with_reducible apply Keeps.after (State.countChunk_keeps _ _ _ _ _ _)
    | with_reducible apply Keeps.after (State.pushEnds_keeps _)
    | ((with_reducible apply Keeps.afterT (State.modTeam_touches _ _ _ _)); · rfl)
    | with_reducible apply Keeps.after (State.countAllHeld_keeps _ _ _)
    | with_reducible apply Keeps.ite
    | with_reducible intro _
    | split
    | with_reducible refine Keeps.pair (by assumption) ?_
    | dsimp only

theorem State.serveTake_keeps (s : State) (t n : Nat) : Keeps s (State.serveTake s t n) := by
  unfold State.serveTake
  try dsimp only
  repeat' first
    | with_reducible exact .refl _
    | with_reducible assumption
    | with_reducible apply Keeps.fold
    | with_reducible apply Keeps.foldPair
    | ((with_reducible apply Keeps.afterT (State.modThread_touches _ _ _ _)); · rfl)
    | ((with_reducible apply Keeps.afterT (State.makeReady_touches _ _ _)); · rfl)
    | with_reducible apply Keeps.after (State.claim_keeps _ _ _ _ _)
    | with_reducible apply Keeps.ite
    | with_reducible intro _
    | split
    | with_reducible apply Keeps.put_free
    | with_reducible refine Keeps.pair (by assumption) ?_
    | dsimp only

theorem execTakeClaim_keeps (t : Stall) (n : ThreadNo) (s : State) : StepKeeps s (execTakeClaim t n s) := by
  unfold execTakeClaim
  try dsimp only
  repeat' first
    | with_reducible apply Keeps.ofNext
    | with_reducible exact .refl _
    | with_reducible assumption
    | with_reducible apply Keeps.after (State.serveTake_keeps _ _ _)
    | with_reducible intro _
    | with_reducible refine Keeps.pair (by assumption) ?_
    | dsimp only

theorem State.endThread_keeps (s : State) (t n : Nat) : Keeps s (State.endThread s t n) := by
  unfold State.endThread
  try dsimp only
  repeat' first
    | with_reducible exact .refl _
    | with_reducible assumption
    | ((with_reducible apply Keeps.afterT (State.modThread_touches _ _ _ _)); · rfl)
    | ((with_reducible apply Keeps.afterT (State.unready_touches _ _ _)); · rfl)
    | with_reducible apply Keeps.after (State.checkTeam_keeps _ _ _)
    | ((with_reducible apply Keeps.afterT (State.checkBarrier_touches _ _ _)); · rfl)
    | with_reducible apply Keeps.after (State.serveTake_keeps _ _ _)
    | with_reducible intro _
    | with_reducible refine Keeps.pair (by assumption) ?_
    | dsimp only

theorem State.stopTeam_keeps (s : State) (t n : Nat) : Keeps s (State.stopTeam s t n) := by
  unfold State.stopTeam
  try dsimp only
  repeat' first
    | with_reducible exact .refl _
    | with_reducible assumption
    | with_reducible apply Keeps.after (State.endTeam_keeps _ _ _)
    | ((with_reducible apply Keeps.afterT (State.checkBarrier_touches _ _ _)); · rfl)
    | with_reducible apply Keeps.ite
    | with_reducible intro _
    | split
    | with_reducible refine Keeps.pair (by assumption) ?_
    | dsimp only

theorem State.yieldTo_keeps (s : State) (t n nj : Nat) (w : Wait) : Keeps s (State.yieldTo s t n nj w) := by
  unfold State.yieldTo
  try dsimp only
  repeat' first
    | with_reducible exact .refl _
    | with_reducible assumption
    | ((with_reducible apply Keeps.afterT (State.setThread_touches _ _ _ _)); · rfl)
    | ((with_reducible apply Keeps.afterT (State.modThread_touches _ _ _ _)); · rfl)
    | ((with_reducible apply Keeps.afterT (State.makeReady_touches _ _ _)); · rfl)
    | ((with_reducible apply Keeps.afterT (State.endSegment_touches _ _ _ _)); · rfl)
    | with_reducible apply Keeps.after (State.stopTeam_keeps _ _ _)
    | with_reducible apply Keeps.ite
    | with_reducible intro _
    | split
    | with_reducible refine Keeps.pair (by assumption) ?_
    | dsimp only

theorem State.faultThread_keeps (s : State) (t n code address : Nat) : Keeps s (State.faultThread s t n
    code address) := by
  unfold State.faultThread
  try dsimp only
  repeat' first
    | with_reducible exact .refl _
    | with_reducible assumption
    | ((with_reducible apply Keeps.afterT (State.putObj_touches _ _ _)); · rfl)
    | ((with_reducible apply Keeps.afterT (State.bump_touches _ _ _)); · rfl)
    | ((with_reducible apply Keeps.afterT (State.setThread_touches _ _ _ _)); · rfl)
    | with_reducible apply Keeps.after (State.eventObj_keeps _ _ _ _)
    | ((with_reducible apply Keeps.afterT (State.count_touches _ _ _ _ _)); · rfl)
    | ((with_reducible apply Keeps.afterT (State.unready_touches _ _ _)); · rfl)
    | with_reducible apply Keeps.after (State.closeOutput_keeps _ _ _ _ _)
    | ((with_reducible apply Keeps.afterT (State.checkBarrier_touches _ _ _)); · rfl)
    | with_reducible apply Keeps.after (State.serveTake_keeps _ _ _)
    | with_reducible apply Keeps.after (State.stopTeam_keeps _ _ _)
    | with_reducible apply Keeps.ite
    | with_reducible intro _
    | split
    | with_reducible apply Keeps.put_update
    | with_reducible refine Keeps.pair (by assumption) ?_
    | dsimp only

theorem execSegWatchdog_keeps (t : Stall) (n : ThreadNo) (s : State) : StepKeeps s (execSegWatchdog t n s)
    := by
  unfold execSegWatchdog
  try dsimp only
  repeat' first
    | with_reducible exact Keeps.ofFault _
    | with_reducible apply Keeps.ofNext
    | with_reducible exact .refl _
    | with_reducible assumption
    | with_reducible apply Keeps.after (State.faultThread_keeps _ _ _ _ _)
    | with_reducible apply Keeps.ite
    | with_reducible apply Keeps.iteStep
    | with_reducible intro _
    | split
    | with_reducible refine Keeps.pair (by assumption) ?_
    | dsimp only

theorem State.startTake_keeps (s : State) (token bell : Nat) (args : Tbl Nat) : Keeps s (State.startTake s
    token bell args) := by
  unfold State.startTake
  try dsimp only
  repeat' first
    | with_reducible exact .refl _
    | with_reducible assumption
    | with_reducible apply Keeps.fold
    | with_reducible apply Keeps.foldPair
    | ((with_reducible apply Keeps.afterT (State.setRun_touches _ _ _)); · rfl)
    | with_reducible apply Keeps.after (State.setResult_keeps _ _ _ _)
    | ((with_reducible apply Keeps.afterT (State.takeThreads_touches _ _ _ _)); · rfl)
    | with_reducible intro _
    | split
    | with_reducible refine Keeps.pair (by assumption) ?_
    | dsimp only

theorem State.startDue_keeps (s : State) (k : Nat) : Keeps s (State.startDue s k) := by
  unfold State.startDue
  try dsimp only
  repeat' first
    | with_reducible exact .refl _
    | with_reducible assumption
    | with_reducible apply Keeps.fold
    | with_reducible apply Keeps.foldPair
    | ((with_reducible apply Keeps.afterT (State.setRun_touches _ _ _)); · rfl)
    | with_reducible apply Keeps.after (State.endDone_keeps _ _)
    | with_reducible apply Keeps.after (State.endFailedAt_keeps _ _ _ _)
    | with_reducible apply Keeps.after (State.markActed_keeps _ _)
    | with_reducible apply Keeps.after (State.endRun_keeps _ _)
    | ((with_reducible apply Keeps.afterT (State.startThread_touches _ _ _ _ _)); · rfl)
    | ((with_reducible apply Keeps.afterT (State.startUndone_touches _ _)); · rfl)
    | with_reducible apply Keeps.ite
    | with_reducible intro _
    | split
    | with_reducible refine Keeps.pair (by assumption) ?_
    | dsimp only

theorem execStartThreadsEffect_keeps (run : Fin 64) (s : State) : StepKeeps s (execStartThreadsEffect run
    s) := by
  unfold execStartThreadsEffect
  try dsimp only
  repeat' first
    | with_reducible apply Keeps.ofNext
    | with_reducible exact .refl _
    | with_reducible assumption
    | with_reducible apply Keeps.after (State.startDue_keeps _ _)
    | with_reducible intro _
    | with_reducible refine Keeps.pair (by assumption) ?_
    | dsimp only

theorem State.stopTake_keeps (s : State) (token : Nat) (args : Tbl Nat) : Keeps s (State.stopTake s token
    args) := by
  unfold State.stopTake
  try dsimp only
  repeat' first
    | with_reducible exact .refl _
    | with_reducible assumption
    | with_reducible apply Keeps.after (State.endDone_keeps _ _)
    | with_reducible apply Keeps.ite
    | with_reducible intro _
    | split
    | with_reducible refine Keeps.pair (by assumption) ?_
    | dsimp only

theorem State.stopRun_keeps (s : State) (k : Nat) : Keeps s (State.stopRun s k) := by
  unfold State.stopRun
  try dsimp only
  repeat' first
    | with_reducible exact .refl _
    | with_reducible assumption
    | with_reducible apply Keeps.fold
    | with_reducible apply Keeps.foldPair
    | ((with_reducible apply Keeps.afterT (State.modThread_touches _ _ _ _)); · rfl)
    | ((with_reducible apply Keeps.afterT (State.setRun_touches _ _ _)); · rfl)
    | ((with_reducible apply Keeps.afterT (State.unready_touches _ _ _)); · rfl)
    | with_reducible apply Keeps.after (State.endRun_keeps _ _)
    | with_reducible apply Keeps.after (State.stopTeam_keeps _ _ _)
    | with_reducible apply Keeps.ite
    | with_reducible intro _
    | split
    | with_reducible refine Keeps.pair (by assumption) ?_
    | dsimp only

theorem State.stopDue_keeps (s : State) (k : Nat) : Keeps s (State.stopDue s k) := by
  unfold State.stopDue
  try dsimp only
  repeat' first
    | with_reducible exact .refl _
    | with_reducible assumption
    | with_reducible apply Keeps.after (State.endFailed_keeps _ _ _)
    | with_reducible apply Keeps.after (State.endAll_keeps _ _)
    | with_reducible apply Keeps.after (State.markAll_keeps _ _)
    | ((with_reducible apply Keeps.afterT (State.startUndone_touches _ _)); · rfl)
    | with_reducible apply Keeps.after (State.stopRun_keeps _ _)
    | with_reducible apply Keeps.ite
    | with_reducible intro _
    | split
    | with_reducible refine Keeps.pair (by assumption) ?_
    | dsimp only

theorem execStopThreadsEffect_keeps (run : Fin 64) (s : State) : StepKeeps s (execStopThreadsEffect run s)
    := by
  unfold execStopThreadsEffect
  try dsimp only
  repeat' first
    | with_reducible apply Keeps.ofNext
    | with_reducible exact .refl _
    | with_reducible assumption
    | with_reducible apply Keeps.after (State.stopDue_keeps _ _)
    | with_reducible intro _
    | with_reducible refine Keeps.pair (by assumption) ?_
    | dsimp only

theorem State.wakeAll_keeps (s : State) : Keeps s (State.wakeAll s) := by
  unfold State.wakeAll
  try dsimp only
  repeat' first
    | with_reducible exact .refl _
    | with_reducible assumption
    | with_reducible apply Keeps.fold
    | with_reducible apply Keeps.foldPair
    | with_reducible apply Keeps.after (State.serveTake_keeps _ _ _)
    | ((with_reducible apply Keeps.afterT (State.wakeBell_touches _ _ _)); · rfl)
    | with_reducible intro _
    | with_reducible refine Keeps.pair (by assumption) ?_
    | dsimp only

end Sys2Proof.Machine
end

