-- ==== Sys2Proof/Laws/TouchArrays.lean ====
section
/-! SUPPORT. Which parts of the state each operation of Machine/Arrays.lean changes. -/

namespace Sys2Proof.Machine

theorem State.product_touches (s : State) (t w : Nat) : OnlyTouches [.mem, .free] s (State.product s t w).1
    := by
  unfold State.product
  try dsimp only
  repeat' first
    | with_reducible exact .refl _ _
    | with_reducible assumption
    | with_reducible apply OnlyTouches.fold
    | with_reducible apply OnlyTouches.foldPair
    | (with_reducible apply OnlyTouches.after (State.write_touches _ _ _); · decide)
    | with_reducible intro _
    | split
    | (with_reducible apply OnlyTouches.put_free; · decide)
    | with_reducible refine OnlyTouches.pair (by assumption) ?_
    | dsimp only

theorem State.spoilC_touches (s : State) (t w : Nat) : OnlyTouches [.mem, .free] s (State.spoilC s t w) :=
    by
  unfold State.spoilC
  try dsimp only
  repeat' first
    | with_reducible exact .refl _ _
    | with_reducible assumption
    | with_reducible apply OnlyTouches.fold
    | with_reducible apply OnlyTouches.foldPair
    | (with_reducible apply OnlyTouches.after (State.draw_touches _); · decide)
    | (with_reducible apply OnlyTouches.after (State.write_touches _ _ _); · decide)
    | with_reducible intro _

theorem State.dropDesc_touches (s : State) (t slot : Nat) : OnlyTouches [.arrays] s (State.dropDesc s t
    slot) := by
  unfold State.dropDesc
  try dsimp only
  repeat' first
    | with_reducible exact .refl _ _
    | with_reducible assumption
    | (with_reducible apply OnlyTouches.after (State.modArray_touches _ _ _); · decide)
    | with_reducible intro _

theorem State.finishDesc_touches (s : State) (t : Nat) (d : Desc) (code flags bubbles cycles : Nat) :
    OnlyTouches [.objs, .update, .arrays, .mem] s (State.finishDesc s t d code flags bubbles cycles) := by
  unfold State.finishDesc
  try dsimp only
  repeat' first
    | with_reducible exact .refl _ _
    | with_reducible assumption
    | (with_reducible apply OnlyTouches.after (State.bump_touches _ _ _); · decide)
    | (with_reducible apply OnlyTouches.after (State.write_touches _ _ _); · decide)
    | (with_reducible apply OnlyTouches.after (State.modArray_touches _ _ _); · decide)
    | (with_reducible apply OnlyTouches.after (State.completeCounter_touches _ _ _ _ _); · decide)
    | (with_reducible apply OnlyTouches.after (State.dropDesc_touches _ _ _); · decide)
    | with_reducible apply OnlyTouches.ite
    | with_reducible intro _
    | split
    | with_reducible refine OnlyTouches.pair (by assumption) ?_
    | dsimp only

theorem State.rejectDesc_touches (s : State) (t : Nat) (d : Desc) (code : Nat) : OnlyTouches [.objs,
    .update, .arrays, .mem] s (State.rejectDesc s t d code) := by
  unfold State.rejectDesc
  try dsimp only
  repeat' first
    | with_reducible exact .refl _ _
    | with_reducible assumption
    | (with_reducible apply OnlyTouches.after (State.finishDesc_touches _ _ _ _ _ _ _); · decide)
    | with_reducible intro _

theorem State.breakDesc_touches (s : State) (t : Nat) (d : Desc) (code : Nat) : OnlyTouches [.objs,
    .update, .arrays, .mem, .free] s (State.breakDesc s t d code) := by
  unfold State.breakDesc
  try dsimp only
  repeat' first
    | with_reducible exact .refl _ _
    | with_reducible assumption
    | (with_reducible apply OnlyTouches.after (State.draw_touches _); · decide)
    | (with_reducible apply OnlyTouches.after (State.spoilC_touches _ _ _); · decide)
    | (with_reducible apply OnlyTouches.after (State.finishDesc_touches _ _ _ _ _ _ _); · decide)
    | with_reducible intro _

theorem State.operandFixed_touches (s : State) (t : Nat) (u : Upset) : OnlyTouches [.objs, .ledger] s
    (State.operandFixed s t u) := by
  unfold State.operandFixed
  try dsimp only
  repeat' first
    | with_reducible exact .refl _ _
    | with_reducible assumption
    | with_reducible apply OnlyTouches.when
    | (with_reducible apply OnlyTouches.after (State.bump_touches _ _ _); · decide)
    | (with_reducible apply OnlyTouches.after (State.sramFixed_touches _ _); · decide)
    | with_reducible intro _
    | with_reducible refine OnlyTouches.pair (by assumption) ?_
    | dsimp only

theorem State.completeDesc_touches (s : State) (t : Nat) (d : Desc) (bubbles : Nat) (u : Upset) :
    OnlyTouches [.objs, .power, .update, .arrays, .mem, .ledger, .dict, .host, .free] s (State.completeDesc
    s t d bubbles u) := by
  unfold State.completeDesc
  try dsimp only
  repeat' first
    | with_reducible exact .refl _ _
    | with_reducible assumption
    | (with_reducible apply OnlyTouches.after (State.bump_touches _ _ _); · decide)
    | (with_reducible apply OnlyTouches.after (State.draw_touches _); · decide)
    | (with_reducible apply OnlyTouches.after (State.count_touches _ _ _ _ _); · decide)
    | (with_reducible apply OnlyTouches.after (State.sramBad_touches _ _); · decide)
    | (with_reducible apply OnlyTouches.after (State.product_touches _ _ _); · decide)
    | (with_reducible apply OnlyTouches.afterPair (State.product_touches _ _ _); (first | assumption | decide); (first | assumption | decide))
    | (with_reducible apply OnlyTouches.after (State.spoilC_touches _ _ _); · decide)
    | (with_reducible apply OnlyTouches.after (State.finishDesc_touches _ _ _ _ _ _ _); · decide)
    | (with_reducible apply OnlyTouches.after (State.breakDesc_touches _ _ _ _); · decide)
    | (with_reducible apply OnlyTouches.after (State.operandFixed_touches _ _ _); · decide)
    | with_reducible apply OnlyTouches.ite
    | with_reducible intro _
    | split
    | with_reducible refine OnlyTouches.pair (by assumption) ?_
    | dsimp only

theorem execDescriptorComplete_touches (t : Stall) (slot : Fin 32) (bubbles : Nat) (upset : Upset) (s :
    State) : StepTouches [.objs, .power, .update, .arrays, .mem, .ledger, .dict, .host, .free] s
    (execDescriptorComplete t slot bubbles upset s) := by
  unfold execDescriptorComplete
  try dsimp only
  repeat' first
    | with_reducible apply OnlyTouches.ofNext
    | with_reducible exact .refl _ _
    | with_reducible assumption
    | (with_reducible apply OnlyTouches.after (State.completeDesc_touches _ _ _ _ _); · decide)
    | with_reducible apply OnlyTouches.ite
    | with_reducible apply OnlyTouches.iteStep
    | with_reducible intro _
    | split

theorem State.issueDesc_touches (s : State) (t n slot addr counter : Nat) : OnlyTouches [.objs, .update,
    .arrays, .mem] s (State.issueDesc s t n slot addr counter) := by
  unfold State.issueDesc
  try dsimp only
  repeat' first
    | with_reducible exact .refl _ _
    | with_reducible assumption
    | (with_reducible apply OnlyTouches.after (State.write_touches _ _ _); · decide)
    | (with_reducible apply OnlyTouches.after (State.setArray_touches _ _ _); · decide)
    | (with_reducible apply OnlyTouches.after (State.modArray_touches _ _ _); · decide)
    | (with_reducible apply OnlyTouches.after (State.rejectDesc_touches _ _ _ _); · decide)
    | with_reducible apply OnlyTouches.ite
    | with_reducible intro _
    | split
    | with_reducible refine OnlyTouches.pair (by assumption) ?_
    | dsimp only

theorem State.refillArrays_touches (s : State) : OnlyTouches [.arrays] s (State.refillArrays s) := by
  unfold State.refillArrays
  try dsimp only
  repeat' first
    | with_reducible exact .refl _ _
    | with_reducible assumption
    | with_reducible apply OnlyTouches.each
    | (with_reducible apply OnlyTouches.after (State.setArray_touches _ _ _); · decide)
    | with_reducible intro _
    | with_reducible refine OnlyTouches.pair (by assumption) ?_
    | dsimp only

theorem State.stageDesc_touches (s : State) (t slot : Nat) (g : DescStage) : OnlyTouches [.arrays] s
    (State.stageDesc s t slot g) := by
  unfold State.stageDesc
  try dsimp only
  repeat' first
    | with_reducible exact .refl _ _
    | with_reducible assumption
    | (with_reducible apply OnlyTouches.after (State.modArray_touches _ _ _); · decide)
    | with_reducible apply OnlyTouches.ite
    | with_reducible intro _
    | split

theorem State.admitDesc_touches (s : State) (t : Nat) : OnlyTouches [.objs, .arrays] s (State.admitDesc s
    t) := by
  unfold State.admitDesc
  try dsimp only
  repeat' first
    | with_reducible exact .refl _ _
    | with_reducible assumption
    | (with_reducible apply OnlyTouches.after (State.bump_touches _ _ _); · decide)
    | (with_reducible apply OnlyTouches.after (State.modArray_touches _ _ _); · decide)
    | (with_reducible apply OnlyTouches.after (State.stageDesc_touches _ _ _ _); · decide)
    | with_reducible apply OnlyTouches.ite
    | with_reducible intro _
    | split
    | with_reducible refine OnlyTouches.pair (by assumption) ?_
    | dsimp only

theorem execDescriptorAdmit_touches (t : Stall) (s : State) : StepTouches [.objs, .arrays] s
    (execDescriptorAdmit t s) := by
  unfold execDescriptorAdmit
  try dsimp only
  repeat' first
    | with_reducible apply OnlyTouches.ofNext
    | with_reducible exact .refl _ _
    | with_reducible assumption
    | (with_reducible apply OnlyTouches.after (State.admitDesc_touches _ _); · decide)
    | with_reducible intro _
    | with_reducible refine OnlyTouches.pair (by assumption) ?_
    | dsimp only

theorem State.startDesc_touches (s : State) (t : Nat) (d : Desc) : OnlyTouches [.objs, .update, .arrays,
    .mem] s (State.startDesc s t d) := by
  unfold State.startDesc
  try dsimp only
  repeat' first
    | with_reducible exact .refl _ _
    | with_reducible assumption
    | (with_reducible apply OnlyTouches.after (State.rejectDesc_touches _ _ _ _); · decide)
    | (with_reducible apply OnlyTouches.after (State.stageDesc_touches _ _ _ _); · decide)
    | with_reducible apply OnlyTouches.ite
    | with_reducible intro _
    | split
    | with_reducible refine OnlyTouches.pair (by assumption) ?_
    | dsimp only

theorem execDescriptorStart_touches (t : Stall) (slot : Fin 32) (s : State) : StepTouches [.objs, .update,
    .arrays, .mem] s (execDescriptorStart t slot s) := by
  unfold execDescriptorStart
  try dsimp only
  repeat' first
    | with_reducible apply OnlyTouches.ofNext
    | with_reducible exact .refl _ _
    | with_reducible assumption
    | (with_reducible apply OnlyTouches.after (State.startDesc_touches _ _ _); · decide)
    | with_reducible intro _
    | split

theorem State.arrayMismatch_touches (s : State) (t q : Nat) (d : Desc) : OnlyTouches [.objs, .update,
    .arrays, .mem, .ledger, .dict, .host, .free] s (State.arrayMismatch s t q d) := by
  unfold State.arrayMismatch
  try dsimp only
  repeat' first
    | with_reducible exact .refl _ _
    | with_reducible assumption
    | (with_reducible apply OnlyTouches.after (State.bump_touches _ _ _); · decide)
    | (with_reducible apply OnlyTouches.after (State.setArray_touches _ _ _); · decide)
    | (with_reducible apply OnlyTouches.after (State.eventObj_touches _ _ _ _); · decide)
    | (with_reducible apply OnlyTouches.after (State.count_touches _ _ _ _ _); · decide)
    | (with_reducible apply OnlyTouches.after (State.modTeam_touches _ _ _ _); · decide)
    | (with_reducible apply OnlyTouches.after (State.breakDesc_touches _ _ _ _); · decide)
    | with_reducible apply OnlyTouches.ite
    | with_reducible intro _
    | split
    | with_reducible refine OnlyTouches.pair (by assumption) ?_
    | dsimp only

theorem execArrayResidueMismatch_touches (t : Stall) (q : Fin 16) (s : State) : StepTouches [.objs,
    .update, .arrays, .mem, .ledger, .dict, .host, .free] s (execArrayResidueMismatch t q s) := by
  unfold execArrayResidueMismatch
  try dsimp only
  repeat' first
    | with_reducible apply OnlyTouches.ofNext
    | with_reducible exact .refl _ _
    | with_reducible assumption
    | (with_reducible apply OnlyTouches.after (State.arrayMismatch_touches _ _ _ _); · decide)
    | with_reducible intro _
    | split
    | with_reducible refine OnlyTouches.pair (by assumption) ?_
    | dsimp only

theorem State.startSelfTest_touches (s : State) (t : Nat) : OnlyTouches [.arrays, .warden] s
    (State.startSelfTest s t) := by
  unfold State.startSelfTest
  try dsimp only
  repeat' first
    | with_reducible exact .refl _ _
    | with_reducible assumption
    | with_reducible apply OnlyTouches.when
    | (with_reducible apply OnlyTouches.after (State.modArray_touches _ _ _); · decide)
    | (with_reducible apply OnlyTouches.after (State.askTally_touches _ _ _); · decide)
    | (with_reducible apply OnlyTouches.afterPair (State.askTally_touches _ _ _); (first | assumption | decide); (first | assumption | decide))
    | with_reducible apply OnlyTouches.ite
    | with_reducible intro _
    | split
    | with_reducible refine OnlyTouches.pair (by assumption) ?_
    | dsimp only

theorem execArraySelfTestStart_touches (t : Stall) (s : State) : StepTouches [.arrays, .warden] s
    (execArraySelfTestStart t s) := by
  unfold execArraySelfTestStart
  try dsimp only
  repeat' first
    | with_reducible apply OnlyTouches.ofNext
    | with_reducible exact .refl _ _
    | with_reducible assumption
    | (with_reducible apply OnlyTouches.after (State.startSelfTest_touches _ _); · decide)
    | with_reducible intro _
    | with_reducible refine OnlyTouches.pair (by assumption) ?_
    | dsimp only

theorem execArraySelfTestEnd_touches (t : Stall) (pass : Bool) (s : State) : StepTouches [.arrays] s
    (execArraySelfTestEnd t pass s) := by
  unfold execArraySelfTestEnd
  try dsimp only
  repeat' first
    | with_reducible apply OnlyTouches.ofNext
    | with_reducible exact .refl _ _
    | with_reducible assumption
    | with_reducible apply OnlyTouches.fold
    | with_reducible apply OnlyTouches.foldPair
    | (with_reducible apply OnlyTouches.after (State.setArray_touches _ _ _); · decide)
    | with_reducible apply OnlyTouches.ite
    | with_reducible apply OnlyTouches.iteStep
    | with_reducible intro _
    | split
    | with_reducible refine OnlyTouches.pair (by assumption) ?_
    | dsimp only

theorem State.liftFences_touches (s : State) : OnlyTouches [.arrays] s (State.liftFences s) := by
  unfold State.liftFences
  try dsimp only
  repeat' first
    | with_reducible exact .refl _ _
    | with_reducible assumption
    | with_reducible apply OnlyTouches.each
    | (with_reducible apply OnlyTouches.after (State.setArray_touches _ _ _); · decide)
    | with_reducible apply OnlyTouches.ite
    | with_reducible intro _
    | split

theorem State.arraysBoundary_touches (s : State) : OnlyTouches [.arrays, .warden] s (State.arraysBoundary
    s) := by
  unfold State.arraysBoundary
  try dsimp only
  repeat' first
    | with_reducible exact .refl _ _
    | with_reducible assumption
    | with_reducible apply OnlyTouches.each
    | (with_reducible apply OnlyTouches.after (State.startSelfTest_touches _ _); · decide)
    | (with_reducible apply OnlyTouches.after (State.liftFences_touches _); · decide)
    | with_reducible intro _
    | with_reducible refine OnlyTouches.pair (by assumption) ?_
    | dsimp only

end Sys2Proof.Machine
end

