-- ==== Sys2Proof/Laws/KeepArrays.lean ====
section
/-! SUPPORT. The operations of Machine/Arrays.lean keep the invariant. -/

namespace Sys2Proof.Machine

theorem State.product_keeps (s : State) (t w : Nat) : Keeps s (State.product s t w).1 := by
  unfold State.product
  try dsimp only
  repeat' first
    | with_reducible exact .refl _
    | with_reducible assumption
    | with_reducible apply Keeps.fold
    | with_reducible apply Keeps.foldPair
    | with_reducible apply Keeps.after (State.write_keeps _ _ _)
    | with_reducible intro _
    | split
    | with_reducible apply Keeps.put_free
    | with_reducible refine Keeps.pair (by assumption) ?_
    | dsimp only

theorem State.spoilC_keeps (s : State) (t w : Nat) : Keeps s (State.spoilC s t w) := by
  unfold State.spoilC
  try dsimp only
  repeat' first
    | with_reducible exact .refl _
    | with_reducible assumption
    | with_reducible apply Keeps.fold
    | with_reducible apply Keeps.foldPair
    | ((with_reducible apply Keeps.afterT (State.draw_touches _)); · rfl)
    | with_reducible apply Keeps.after (State.write_keeps _ _ _)
    | with_reducible intro _

theorem State.finishDesc_keeps (s : State) (t : Nat) (d : Desc) (code flags bubbles cycles : Nat) : Keeps s
    (State.finishDesc s t d code flags bubbles cycles) := by
  unfold State.finishDesc
  try dsimp only
  repeat' first
    | with_reducible exact .refl _
    | with_reducible assumption
    | ((with_reducible apply Keeps.afterT (State.bump_touches _ _ _)); · rfl)
    | with_reducible apply Keeps.after (State.write_keeps _ _ _)
    | ((with_reducible apply Keeps.afterT (State.modArray_touches _ _ _)); · rfl)
    | ((with_reducible apply Keeps.afterT (State.completeCounter_touches _ _ _ _ _)); · rfl)
    | ((with_reducible apply Keeps.afterT (State.dropDesc_touches _ _ _)); · rfl)
    | with_reducible apply Keeps.ite
    | with_reducible intro _
    | split
    | with_reducible refine Keeps.pair (by assumption) ?_
    | dsimp only

theorem State.rejectDesc_keeps (s : State) (t : Nat) (d : Desc) (code : Nat) : Keeps s (State.rejectDesc s
    t d code) := by
  unfold State.rejectDesc
  try dsimp only
  repeat' first
    | with_reducible exact .refl _
    | with_reducible assumption
    | with_reducible apply Keeps.after (State.finishDesc_keeps _ _ _ _ _ _ _)
    | with_reducible intro _

theorem State.breakDesc_keeps (s : State) (t : Nat) (d : Desc) (code : Nat) : Keeps s (State.breakDesc s t
    d code) := by
  unfold State.breakDesc
  try dsimp only
  repeat' first
    | with_reducible exact .refl _
    | with_reducible assumption
    | ((with_reducible apply Keeps.afterT (State.draw_touches _)); · rfl)
    | with_reducible apply Keeps.after (State.spoilC_keeps _ _ _)
    | with_reducible apply Keeps.after (State.finishDesc_keeps _ _ _ _ _ _ _)
    | with_reducible intro _

theorem State.completeDesc_keeps (s : State) (t : Nat) (d : Desc) (bubbles : Nat) (u : Upset) : Keeps s
    (State.completeDesc s t d bubbles u) := by
  unfold State.completeDesc
  try dsimp only
  repeat' first
    | with_reducible exact .refl _
    | with_reducible assumption
    | ((with_reducible apply Keeps.afterT (State.bump_touches _ _ _)); · rfl)
    | ((with_reducible apply Keeps.afterT (State.draw_touches _)); · rfl)
    | ((with_reducible apply Keeps.afterT (State.count_touches _ _ _ _ _)); · rfl)
    | with_reducible apply Keeps.after (State.sramBad_keeps _ _)
    | with_reducible apply Keeps.after (State.product_keeps _ _ _)
    | ((with_reducible apply Keeps.afterPair (State.product_keeps _ _ _)); · assumption)
    | with_reducible apply Keeps.after (State.spoilC_keeps _ _ _)
    | with_reducible apply Keeps.after (State.finishDesc_keeps _ _ _ _ _ _ _)
    | with_reducible apply Keeps.after (State.breakDesc_keeps _ _ _ _)
    | ((with_reducible apply Keeps.afterT (State.operandFixed_touches _ _ _)); · rfl)
    | with_reducible apply Keeps.ite
    | with_reducible intro _
    | split
    | with_reducible refine Keeps.pair (by assumption) ?_
    | dsimp only

theorem execDescriptorComplete_keeps (t : Stall) (slot : Fin 32) (bubbles : Nat) (upset : Upset) (s :
    State) : StepKeeps s (execDescriptorComplete t slot bubbles upset s) := by
  unfold execDescriptorComplete
  try dsimp only
  repeat' first
    | with_reducible apply Keeps.ofNext
    | with_reducible exact .refl _
    | with_reducible assumption
    | with_reducible apply Keeps.after (State.completeDesc_keeps _ _ _ _ _)
    | with_reducible apply Keeps.ite
    | with_reducible apply Keeps.iteStep
    | with_reducible intro _
    | split

theorem State.issueDesc_keeps (s : State) (t n slot addr counter : Nat) : Keeps s (State.issueDesc s t n
    slot addr counter) := by
  unfold State.issueDesc
  try dsimp only
  repeat' first
    | with_reducible exact .refl _
    | with_reducible assumption
    | with_reducible apply Keeps.after (State.write_keeps _ _ _)
    | ((with_reducible apply Keeps.afterT (State.setArray_touches _ _ _)); · rfl)
    | ((with_reducible apply Keeps.afterT (State.modArray_touches _ _ _)); · rfl)
    | with_reducible apply Keeps.after (State.rejectDesc_keeps _ _ _ _)
    | with_reducible apply Keeps.ite
    | with_reducible intro _
    | split
    | with_reducible refine Keeps.pair (by assumption) ?_
    | dsimp only

theorem State.startDesc_keeps (s : State) (t : Nat) (d : Desc) : Keeps s (State.startDesc s t d) := by
  unfold State.startDesc
  try dsimp only
  repeat' first
    | with_reducible exact .refl _
    | with_reducible assumption
    | with_reducible apply Keeps.after (State.rejectDesc_keeps _ _ _ _)
    | ((with_reducible apply Keeps.afterT (State.stageDesc_touches _ _ _ _)); · rfl)
    | with_reducible apply Keeps.ite
    | with_reducible intro _
    | split
    | with_reducible refine Keeps.pair (by assumption) ?_
    | dsimp only

theorem execDescriptorStart_keeps (t : Stall) (slot : Fin 32) (s : State) : StepKeeps s
    (execDescriptorStart t slot s) := by
  unfold execDescriptorStart
  try dsimp only
  repeat' first
    | with_reducible apply Keeps.ofNext
    | with_reducible exact .refl _
    | with_reducible assumption
    | with_reducible apply Keeps.after (State.startDesc_keeps _ _ _)
    | with_reducible intro _
    | split

theorem State.arrayMismatch_keeps (s : State) (t q : Nat) (d : Desc) : Keeps s (State.arrayMismatch s t q
    d) := by
  unfold State.arrayMismatch
  try dsimp only
  repeat' first
    | with_reducible exact .refl _
    | with_reducible assumption
    | ((with_reducible apply Keeps.afterT (State.bump_touches _ _ _)); · rfl)
    | ((with_reducible apply Keeps.afterT (State.setArray_touches _ _ _)); · rfl)
    | with_reducible apply Keeps.after (State.eventObj_keeps _ _ _ _)
    | ((with_reducible apply Keeps.afterT (State.count_touches _ _ _ _ _)); · rfl)
    | ((with_reducible apply Keeps.afterT (State.modTeam_touches _ _ _ _)); · rfl)
    | with_reducible apply Keeps.after (State.breakDesc_keeps _ _ _ _)
    | with_reducible apply Keeps.ite
    | with_reducible intro _
    | split
    | with_reducible refine Keeps.pair (by assumption) ?_
    | dsimp only

theorem execArrayResidueMismatch_keeps (t : Stall) (q : Fin 16) (s : State) : StepKeeps s
    (execArrayResidueMismatch t q s) := by
  unfold execArrayResidueMismatch
  try dsimp only
  repeat' first
    | with_reducible apply Keeps.ofNext
    | with_reducible exact .refl _
    | with_reducible assumption
    | with_reducible apply Keeps.after (State.arrayMismatch_keeps _ _ _ _)
    | with_reducible intro _
    | split
    | with_reducible refine Keeps.pair (by assumption) ?_
    | dsimp only

end Sys2Proof.Machine
end

