-- ==== Sys2Proof/Laws/TouchRunner.lean ====
section
/-! SUPPORT. Which parts of the state each operation of Machine/Runner.lean changes. -/

namespace Sys2Proof.Machine

theorem State.pumpRunner_touches (s : State) : OnlyTouches [.objs, .ports, .coll, .ledger] s
    (State.pumpRunner s) := by
  unfold State.pumpRunner
  try dsimp only
  repeat' first
    | with_reducible exact .refl _ _
    | with_reducible assumption
    | with_reducible apply OnlyTouches.fold
    | with_reducible apply OnlyTouches.foldPair
    | (with_reducible apply OnlyTouches.after (State.bump_touches _ _ _); · decide)
    | (with_reducible apply OnlyTouches.after (State.setPort_touches _ _ _); · decide)
    | (with_reducible apply OnlyTouches.after (State.dropped_touches _ _ _ _); · decide)
    | with_reducible apply OnlyTouches.ite
    | with_reducible intro _
    | split
    | (with_reducible apply OnlyTouches.put_coll; · decide)
    | with_reducible refine OnlyTouches.pair (by assumption) ?_
    | dsimp only

theorem State.sendRunner_touches (s : State) (t : Nat) (f : Frame) : OnlyTouches [.objs, .ports, .coll,
    .ledger] s (State.sendRunner s t f) := by
  unfold State.sendRunner
  try dsimp only
  repeat' first
    | with_reducible exact .refl _ _
    | with_reducible assumption
    | (with_reducible apply OnlyTouches.after (State.bump_touches _ _ _); · decide)
    | (with_reducible apply OnlyTouches.after (State.dropped_touches _ _ _ _); · decide)
    | (with_reducible apply OnlyTouches.after (State.noRoute_touches _ _ _ _); · decide)
    | (with_reducible apply OnlyTouches.after (State.countPass_touches _ _); · decide)
    | (with_reducible apply OnlyTouches.after (State.pumpRunner_touches _); · decide)
    | with_reducible intro _
    | split
    | (with_reducible apply OnlyTouches.put_coll; · decide)
    | with_reducible refine OnlyTouches.pair (by assumption) ?_
    | dsimp only

theorem State.modRound_touches (s : State) (g seq : Nat) (f : Round → Round) : OnlyTouches [.coll] s
    (State.modRound s g seq f) := by
  unfold State.modRound
  try dsimp only
  repeat' first
    | with_reducible exact .refl _ _
    | with_reducible assumption
    | with_reducible apply OnlyTouches.ite
    | with_reducible intro _
    | split
    | (with_reducible apply OnlyTouches.put_coll; · decide)

theorem State.deliver_touches (s : State) (g seq : Nat) : OnlyTouches [.ports, .coll] s (State.deliver s g
    seq) := by
  unfold State.deliver
  try dsimp only
  repeat' first
    | with_reducible exact .refl _ _
    | with_reducible assumption
    | with_reducible apply OnlyTouches.fold
    | with_reducible apply OnlyTouches.foldPair
    | (with_reducible apply OnlyTouches.after (State.setPort_touches _ _ _); · decide)
    | (with_reducible apply OnlyTouches.after (State.modRound_touches _ _ _ _); · decide)
    | with_reducible apply OnlyTouches.ite
    | with_reducible intro _
    | split
    | (with_reducible apply OnlyTouches.put_coll; · decide)
    | with_reducible refine OnlyTouches.pair (by assumption) ?_
    | dsimp only

theorem State.deliverAll_touches (s : State) : OnlyTouches [.objs, .ports, .coll, .ledger] s
    (State.deliverAll s) := by
  unfold State.deliverAll
  try dsimp only
  repeat' first
    | with_reducible exact .refl _ _
    | with_reducible assumption
    | with_reducible apply OnlyTouches.fold
    | with_reducible apply OnlyTouches.foldPair
    | (with_reducible apply OnlyTouches.after (State.pumpRunner_touches _); · decide)
    | (with_reducible apply OnlyTouches.after (State.deliver_touches _ _ _); · decide)
    | with_reducible intro _
    | with_reducible refine OnlyTouches.pair (by assumption) ?_
    | dsimp only

theorem State.endSeq_touches (s : State) (g seq : Nat) : OnlyTouches [.objs, .coll] s (State.endSeq s g
    seq) := by
  unfold State.endSeq
  try dsimp only
  repeat' first
    | with_reducible exact .refl _ _
    | with_reducible assumption
    | (with_reducible apply OnlyTouches.after (State.drop_touches _ _ _); · decide)
    | with_reducible intro _
    | (with_reducible apply OnlyTouches.put_coll; · decide)

theorem State.endRound_touches (s : State) (r : Round) (verdict cause : Nat) (data : List Byte) :
    OnlyTouches [.objs, .ports, .coll] s (State.endRound s r verdict cause data) := by
  unfold State.endRound
  try dsimp only
  repeat' first
    | with_reducible exact .refl _ _
    | with_reducible assumption
    | with_reducible apply OnlyTouches.when
    | (with_reducible apply OnlyTouches.after (State.bump_touches _ _ _); · decide)
    | (with_reducible apply OnlyTouches.after (State.countPass_touches _ _); · decide)
    | (with_reducible apply OnlyTouches.after (State.modRound_touches _ _ _ _); · decide)
    | (with_reducible apply OnlyTouches.after (State.deliver_touches _ _ _); · decide)
    | (with_reducible apply OnlyTouches.after (State.endSeq_touches _ _ _); · decide)
    | with_reducible apply OnlyTouches.ite
    | with_reducible intro _
    | split
    | with_reducible refine OnlyTouches.pair (by assumption) ?_
    | dsimp only

theorem State.checkRound_touches (s : State) (g seq : Nat) : OnlyTouches [.objs, .ports, .coll, .free] s
    (State.checkRound s g seq) := by
  unfold State.checkRound
  try dsimp only
  repeat' first
    | with_reducible exact .refl _ _
    | with_reducible assumption
    | (with_reducible apply OnlyTouches.after (State.endRound_touches _ _ _ _ _); · decide)
    | with_reducible apply OnlyTouches.ite
    | with_reducible intro _
    | split
    | (with_reducible apply OnlyTouches.put_free; · decide)

theorem State.refuseRunner_touches (s : State) (t : Nat) (f : Frame) (cause : Nat) : OnlyTouches [.objs,
    .ports, .coll, .ledger] s (State.refuseRunner s t f cause) := by
  unfold State.refuseRunner
  try dsimp only
  repeat' first
    | with_reducible exact .refl _ _
    | with_reducible assumption
    | (with_reducible apply OnlyTouches.after (State.bump_touches _ _ _); · decide)
    | (with_reducible apply OnlyTouches.after (State.dropped_touches _ _ _ _); · decide)
    | (with_reducible apply OnlyTouches.after (State.sendRunner_touches _ _ _); · decide)
    | with_reducible apply OnlyTouches.ite
    | with_reducible intro _
    | split
    | (with_reducible apply OnlyTouches.put_coll; · decide)
    | with_reducible refine OnlyTouches.pair (by assumption) ?_
    | dsimp only

theorem State.popRunner_touches (s : State) (p : Nat) (f : Frame) : OnlyTouches [.objs, .ports] s
    (State.popRunner s p f) := by
  unfold State.popRunner
  try dsimp only
  repeat' first
    | with_reducible exact .refl _ _
    | with_reducible assumption
    | (with_reducible apply OnlyTouches.after (State.drop_touches _ _ _); · decide)
    | (with_reducible apply OnlyTouches.after (State.modPort_touches _ _ _); · decide)
    | (with_reducible apply OnlyTouches.after (State.freeCredits_touches _ _ _ _); · decide)
    | with_reducible intro _
    | with_reducible refine OnlyTouches.pair (by assumption) ?_
    | dsimp only

theorem State.roundUpset_touches (s : State) (f : Frame) (u : Upset) : OnlyTouches [.objs, .power, .coll,
    .ledger, .dict, .host, .free] s (State.roundUpset s f u) := by
  unfold State.roundUpset
  try dsimp only
  repeat' first
    | with_reducible exact .refl _ _
    | with_reducible assumption
    | with_reducible apply OnlyTouches.when
    | (with_reducible apply OnlyTouches.after (State.tillUpset_touches _ _ _ _ _); · decide)
    | (with_reducible apply OnlyTouches.after (State.modRound_touches _ _ _ _); · decide)
    | with_reducible intro _
    | with_reducible refine OnlyTouches.pair (by assumption) ?_
    | dsimp only

theorem State.toRound_touches (s : State) (f : Frame) (u : Upset) : OptTouches [.objs, .power, .ports,
    .coll, .ledger, .dict, .host, .free] s (State.toRound s f u) := by
  unfold State.toRound
  try dsimp only
  repeat' first
    | with_reducible apply OnlyTouches.ofSome
    | with_reducible exact OnlyTouches.ofNone
    | with_reducible apply OnlyTouches.iteOpt
    | with_reducible exact .refl _ _
    | with_reducible assumption
    | (with_reducible apply OnlyTouches.after (State.bump_touches _ _ _); · decide)
    | (with_reducible apply OnlyTouches.after (State.dropped_touches _ _ _ _); · decide)
    | (with_reducible apply OnlyTouches.after (State.modRound_touches _ _ _ _); · decide)
    | (with_reducible apply OnlyTouches.after (State.checkRound_touches _ _ _); · decide)
    | (with_reducible apply OnlyTouches.after (State.roundUpset_touches _ _ _); · decide)
    | with_reducible apply OnlyTouches.ite
    | with_reducible intro _
    | split
    | (with_reducible apply OnlyTouches.put_coll; · decide)
    | with_reducible refine OnlyTouches.pair (by assumption) ?_
    | dsimp only

theorem State.runnerAccept_touches (s : State) (p : Nat) (f : Frame) (u : Upset) : OnlyTouches [.objs,
    .power, .ports, .coll, .ledger, .dict, .host, .free] s (State.runnerAccept s p f u) := by
  unfold State.runnerAccept
  try dsimp only
  repeat' first
    | with_reducible exact .refl _ _
    | with_reducible assumption
    | with_reducible apply OnlyTouches.when
    | (with_reducible apply OnlyTouches.after (State.bump_touches _ _ _); · decide)
    | (with_reducible apply OnlyTouches.after (State.modPort_touches _ _ _); · decide)
    | (with_reducible apply OnlyTouches.after (State.refuseRunner_touches _ _ _ _); · decide)
    | (with_reducible apply OnlyTouches.after (State.popRunner_touches _ _ _); · decide)
    | (with_reducible apply OnlyTouches.afterOpt (State.toRound_touches _ _ _); (first | assumption | decide); (first | assumption | decide))
    | with_reducible intro _
    | split
    | with_reducible refine OnlyTouches.pair (by assumption) ?_
    | dsimp only

theorem State.runnerHold_touches (s : State) (p : Nat) (f : Frame) : OnlyTouches [.objs, .ports, .pitches,
    .ledger] s (State.runnerHold s p f) := by
  unfold State.runnerHold
  try dsimp only
  repeat' first
    | with_reducible exact .refl _ _
    | with_reducible assumption
    | (with_reducible apply OnlyTouches.after (State.bump_touches _ _ _); · decide)
    | (with_reducible apply OnlyTouches.after (State.modPort_touches _ _ _); · decide)
    | (with_reducible apply OnlyTouches.after (State.count_touches _ _ _ _ _); · decide)
    | (with_reducible apply OnlyTouches.after (State.setShare_touches _ _ _ _ _); · decide)
    | with_reducible intro _
    | with_reducible refine OnlyTouches.pair (by assumption) ?_
    | dsimp only

theorem State.runnerHead_touches (s : State) (p : Nat) (f : Frame) (u : Upset) : OnlyTouches [.objs,
    .power, .ports, .pitches, .coll, .ledger, .dict, .host, .free] s (State.runnerHead s p f u) := by
  unfold State.runnerHead
  try dsimp only
  repeat' first
    | with_reducible exact .refl _ _
    | with_reducible assumption
    | (with_reducible apply OnlyTouches.after (State.bump_touches _ _ _); · decide)
    | (with_reducible apply OnlyTouches.after (State.dropped_touches _ _ _ _); · decide)
    | (with_reducible apply OnlyTouches.after (State.chargeFrame_touches _ _ _); · decide)
    | (with_reducible apply OnlyTouches.after (State.presentFrame_touches _ _ _); · decide)
    | (with_reducible apply OnlyTouches.after (State.popRunner_touches _ _ _); · decide)
    | (with_reducible apply OnlyTouches.after (State.runnerAccept_touches _ _ _ _); · decide)
    | (with_reducible apply OnlyTouches.after (State.runnerHold_touches _ _ _); · decide)
    | with_reducible apply OnlyTouches.ite
    | with_reducible intro _
    | split
    | with_reducible refine OnlyTouches.pair (by assumption) ?_
    | dsimp only

theorem State.runnerRelease_touches (s : State) (pitch t p : Nat) (charge : Bool) (u : Upset) : OnlyTouches
    [.objs, .power, .ports, .pitches, .coll, .ledger, .dict, .host, .free] s (State.runnerRelease s pitch t
    p charge u) := by
  unfold State.runnerRelease
  try dsimp only
  repeat' first
    | with_reducible exact .refl _ _
    | with_reducible assumption
    | (with_reducible apply OnlyTouches.after (State.bump_touches _ _ _); · decide)
    | (with_reducible apply OnlyTouches.after (State.drop_touches _ _ _); · decide)
    | (with_reducible apply OnlyTouches.after (State.modPort_touches _ _ _); · decide)
    | (with_reducible apply OnlyTouches.after (State.setShare_touches _ _ _ _ _); · decide)
    | (with_reducible apply OnlyTouches.after (State.chargeFrame_touches _ _ _); · decide)
    | (with_reducible apply OnlyTouches.after (State.runnerAccept_touches _ _ _ _); · decide)
    | with_reducible apply OnlyTouches.ite
    | with_reducible intro _
    | split
    | with_reducible refine OnlyTouches.pair (by assumption) ?_
    | dsimp only

theorem execRunnerFrame_touches (p : Checked Port) (s : State) : StepTouches [.objs, .power, .ports,
    .pitches, .coll, .ledger, .dict, .host, .free] s (execRunnerFrame p s) := by
  unfold execRunnerFrame
  try dsimp only
  repeat' first
    | with_reducible apply OnlyTouches.ofNext
    | with_reducible exact .refl _ _
    | with_reducible assumption
    | (with_reducible apply OnlyTouches.after (State.runnerHead_touches _ _ _ _); · decide)
    | with_reducible apply OnlyTouches.ite
    | with_reducible apply OnlyTouches.iteStep
    | with_reducible intro _
    | split
    | with_reducible refine OnlyTouches.pair (by assumption) ?_
    | dsimp only

theorem execRunnerWaitResume_touches (p : Checked Port) (s : State) : StepTouches [.objs, .power, .ports,
    .pitches, .coll, .ledger, .dict, .host, .free] s (execRunnerWaitResume p s) := by
  unfold execRunnerWaitResume
  try dsimp only
  repeat' first
    | with_reducible apply OnlyTouches.ofNext
    | with_reducible exact .refl _ _
    | with_reducible assumption
    | (with_reducible apply OnlyTouches.after (State.runnerAccept_touches _ _ _ _); · decide)
    | (with_reducible apply OnlyTouches.after (State.runnerRelease_touches _ _ _ _ _ _); · decide)
    | with_reducible apply OnlyTouches.ite
    | with_reducible apply OnlyTouches.iteStep
    | with_reducible intro _
    | split
    | with_reducible refine OnlyTouches.pair (by assumption) ?_
    | dsimp only

theorem State.lateRound_touches (s : State) (r : Round) : OnlyTouches [.objs, .coll] s (State.lateRound s
    r) := by
  unfold State.lateRound
  try dsimp only
  repeat' first
    | with_reducible exact .refl _ _
    | with_reducible assumption
    | (with_reducible apply OnlyTouches.after (State.bump_touches _ _ _); · decide)
    | (with_reducible apply OnlyTouches.after (State.modRound_touches _ _ _ _); · decide)
    | with_reducible apply OnlyTouches.ite
    | with_reducible intro _
    | split
    | with_reducible refine OnlyTouches.pair (by assumption) ?_
    | dsimp only

theorem execRunnerDue_touches (g : Group) (seq : BitVec 32) (s : State) : StepTouches [.objs, .coll] s
    (execRunnerDue g seq s) := by
  unfold execRunnerDue
  try dsimp only
  repeat' first
    | with_reducible apply OnlyTouches.ofNext
    | with_reducible exact .refl _ _
    | with_reducible assumption
    | (with_reducible apply OnlyTouches.after (State.lateRound_touches _ _); · decide)
    | with_reducible intro _
    | split

theorem State.roundPatience_touches (s : State) (r : Round) : OnlyTouches [.objs, .ports, .coll] s
    (State.roundPatience s r) := by
  unfold State.roundPatience
  try dsimp only
  repeat' first
    | with_reducible exact .refl _ _
    | with_reducible assumption
    | (with_reducible apply OnlyTouches.after (State.endRound_touches _ _ _ _ _); · decide)
    | with_reducible apply OnlyTouches.ite
    | with_reducible intro _
    | split
    | with_reducible refine OnlyTouches.pair (by assumption) ?_
    | dsimp only

theorem execRunnerPatienceEnd_touches (g : Group) (seq : BitVec 32) (s : State) : StepTouches [.objs,
    .ports, .coll] s (execRunnerPatienceEnd g seq s) := by
  unfold execRunnerPatienceEnd
  try dsimp only
  repeat' first
    | with_reducible apply OnlyTouches.ofNext
    | with_reducible exact .refl _ _
    | with_reducible assumption
    | (with_reducible apply OnlyTouches.after (State.roundPatience_touches _ _); · decide)
    | with_reducible intro _
    | split

theorem State.roundDeadlines_touches (s : State) : OnlyTouches [.objs, .ports, .coll] s
    (State.roundDeadlines s) := by
  unfold State.roundDeadlines
  try dsimp only
  repeat' first
    | with_reducible exact .refl _ _
    | with_reducible assumption
    | with_reducible apply OnlyTouches.fold
    | with_reducible apply OnlyTouches.foldPair
    | (with_reducible apply OnlyTouches.after (State.lateRound_touches _ _); · decide)
    | (with_reducible apply OnlyTouches.after (State.roundPatience_touches _ _); · decide)
    | with_reducible intro _

theorem State.heartbeat_touches (s : State) (k stateCode : Nat) : OnlyTouches [.objs, .ports, .coll,
    .ledger] s (State.heartbeat s k stateCode) := by
  unfold State.heartbeat
  try dsimp only
  repeat' first
    | with_reducible exact .refl _ _
    | with_reducible assumption
    | (with_reducible apply OnlyTouches.after (State.bump_touches _ _ _); · decide)
    | (with_reducible apply OnlyTouches.after (State.sendRunner_touches _ _ _); · decide)
    | with_reducible intro _
    | (with_reducible apply OnlyTouches.put_coll; · decide)
    | with_reducible refine OnlyTouches.pair (by assumption) ?_
    | dsimp only

theorem State.heartbeats_touches (s : State) : OnlyTouches [.objs, .ports, .coll, .ledger] s
    (State.heartbeats s) := by
  unfold State.heartbeats
  try dsimp only
  repeat' first
    | with_reducible exact .refl _ _
    | with_reducible assumption
    | with_reducible apply OnlyTouches.fold
    | with_reducible apply OnlyTouches.foldPair
    | (with_reducible apply OnlyTouches.after (State.heartbeat_touches _ _ _); · decide)
    | with_reducible apply OnlyTouches.ite
    | with_reducible intro _
    | split
    | (with_reducible apply OnlyTouches.put_coll; · decide)
    | with_reducible refine OnlyTouches.pair (by assumption) ?_
    | dsimp only

theorem execHeartbeatSend_touches (s : State) : StepTouches [.objs, .ports, .coll, .ledger] s
    (execHeartbeatSend s) := by
  unfold execHeartbeatSend
  try dsimp only
  repeat' first
    | with_reducible apply OnlyTouches.ofNext
    | with_reducible exact .refl _ _
    | with_reducible assumption
    | (with_reducible apply OnlyTouches.after (State.heartbeats_touches _); · decide)
    | with_reducible intro _

theorem execHeartbeatReceive_touches (p : Port) (s : State) : StepTouches [.objs, .ports, .coll, .mem,
    .ledger] s (execHeartbeatReceive p s) := by
  unfold execHeartbeatReceive
  try dsimp only
  repeat' first
    | with_reducible apply OnlyTouches.ofNext
    | with_reducible exact .refl _ _
    | with_reducible assumption
    | (with_reducible apply OnlyTouches.after (State.bump_touches _ _ _); · decide)
    | (with_reducible apply OnlyTouches.after (State.writeTable_touches _ _ _ _); · decide)
    | (with_reducible apply OnlyTouches.after (State.dropped_touches _ _ _ _); · decide)
    | (with_reducible apply OnlyTouches.after (State.popRunner_touches _ _ _); · decide)
    | (with_reducible apply OnlyTouches.after (State.heartbeat_touches _ _ _); · decide)
    | with_reducible apply OnlyTouches.ite
    | with_reducible apply OnlyTouches.iteStep
    | with_reducible intro _
    | split
    | with_reducible refine OnlyTouches.pair (by assumption) ?_
    | dsimp only

theorem State.applyAbort_touches (s : State) (a : AbortReq) : OnlyTouches [.objs, .ports, .switch, .coll,
    .mem, .custody, .ledger, .dict, .host, .free] s (State.applyAbort s a) := by
  unfold State.applyAbort
  try dsimp only
  repeat' first
    | with_reducible exact .refl _ _
    | with_reducible assumption
    | with_reducible apply OnlyTouches.fold
    | with_reducible apply OnlyTouches.foldPair
    | (with_reducible apply OnlyTouches.after (State.bump_touches _ _ _); · decide)
    | (with_reducible apply OnlyTouches.after (State.modGroup_touches _ _ _); · decide)
    | (with_reducible apply OnlyTouches.after (State.modEntry_touches _ _ _ _); · decide)
    | (with_reducible apply OnlyTouches.after (State.endCtx_touches _ _ _ _); · decide)
    | (with_reducible apply OnlyTouches.after (State.freeKeptOf_touches _ _ _); · decide)
    | (with_reducible apply OnlyTouches.after (State.postEnd_touches _ _ _ _); · decide)
    | (with_reducible apply OnlyTouches.after (State.abortAnswer_touches _ _ _ _ _); · decide)
    | (with_reducible apply OnlyTouches.after (State.endRound_touches _ _ _ _ _); · decide)
    | with_reducible apply OnlyTouches.ite
    | with_reducible intro _
    | split
    | with_reducible refine OnlyTouches.pair (by assumption) ?_
    | dsimp only

theorem execAbortApply_touches (g : Group) (seq : BitVec 32) (s : State) : StepTouches [.objs, .ports,
    .switch, .coll, .mem, .custody, .ledger, .dict, .host, .free] s (execAbortApply g seq s) := by
  unfold execAbortApply
  try dsimp only
  repeat' first
    | with_reducible apply OnlyTouches.ofNext
    | with_reducible exact .refl _ _
    | with_reducible assumption
    | (with_reducible apply OnlyTouches.after (State.applyAbort_touches _ _); · decide)
    | with_reducible intro _
    | split
    | (with_reducible apply OnlyTouches.put_coll; · decide)

theorem State.applyAborts_touches (s : State) : OnlyTouches [.objs, .ports, .switch, .coll, .mem, .custody,
    .ledger, .dict, .host, .free] s (State.applyAborts s) := by
  unfold State.applyAborts
  try dsimp only
  repeat' first
    | with_reducible exact .refl _ _
    | with_reducible assumption
    | with_reducible apply OnlyTouches.fold
    | with_reducible apply OnlyTouches.foldPair
    | (with_reducible apply OnlyTouches.after (State.applyAbort_touches _ _); · decide)
    | with_reducible intro _
    | (with_reducible apply OnlyTouches.put_coll; · decide)

end Sys2Proof.Machine
end

