-- ==== Sys2Proof/Laws/KeepRunner.lean ====
section
/-! SUPPORT. The operations of Machine/Runner.lean keep the invariant. -/

namespace Sys2Proof.Machine

theorem State.roundUpset_keeps (s : State) (f : Frame) (u : Upset) : Keeps s (State.roundUpset s f u) := by
  unfold State.roundUpset
  try dsimp only
  repeat' first
    | with_reducible exact .refl _
    | with_reducible assumption
    | with_reducible apply Keeps.when
    | with_reducible apply Keeps.after (State.tillUpset_keeps _ _ _ _ _)
    | ((with_reducible apply Keeps.afterT (State.modRound_touches _ _ _ _)); · rfl)
    | with_reducible intro _
    | with_reducible refine Keeps.pair (by assumption) ?_
    | dsimp only

theorem State.toRound_keeps (s : State) (f : Frame) (u : Upset) : OptKeeps s (State.toRound s f u) := by
  unfold State.toRound
  try dsimp only
  repeat' first
    | with_reducible apply Keeps.ofSome
    | with_reducible exact Keeps.ofNone
    | with_reducible apply Keeps.iteOpt
    | with_reducible exact .refl _
    | with_reducible assumption
    | ((with_reducible apply Keeps.afterT (State.bump_touches _ _ _)); · rfl)
    | ((with_reducible apply Keeps.afterT (State.dropped_touches _ _ _ _)); · rfl)
    | ((with_reducible apply Keeps.afterT (State.modRound_touches _ _ _ _)); · rfl)
    | ((with_reducible apply Keeps.afterT (State.checkRound_touches _ _ _)); · rfl)
    | with_reducible apply Keeps.after (State.roundUpset_keeps _ _ _)
    | with_reducible apply Keeps.ite
    | with_reducible intro _
    | split
    | with_reducible apply Keeps.put_coll
    | with_reducible refine Keeps.pair (by assumption) ?_
    | dsimp only

theorem State.runnerAccept_keeps (s : State) (p : Nat) (f : Frame) (u : Upset) : Keeps s
    (State.runnerAccept s p f u) := by
  unfold State.runnerAccept
  try dsimp only
  repeat' first
    | with_reducible exact .refl _
    | with_reducible assumption
    | with_reducible apply Keeps.when
    | ((with_reducible apply Keeps.afterT (State.bump_touches _ _ _)); · rfl)
    | ((with_reducible apply Keeps.afterT (State.modPort_touches _ _ _)); · rfl)
    | ((with_reducible apply Keeps.afterT (State.refuseRunner_touches _ _ _ _)); · rfl)
    | ((with_reducible apply Keeps.afterT (State.popRunner_touches _ _ _)); · rfl)
    | ((with_reducible apply Keeps.afterOpt (State.toRound_keeps _ _ _)); · assumption)
    | with_reducible intro _
    | split
    | with_reducible refine Keeps.pair (by assumption) ?_
    | dsimp only

theorem State.runnerHead_keeps (s : State) (p : Nat) (f : Frame) (u : Upset) : Keeps s (State.runnerHead s
    p f u) := by
  unfold State.runnerHead
  try dsimp only
  repeat' first
    | with_reducible exact .refl _
    | with_reducible assumption
    | ((with_reducible apply Keeps.afterT (State.bump_touches _ _ _)); · rfl)
    | ((with_reducible apply Keeps.afterT (State.dropped_touches _ _ _ _)); · rfl)
    | ((with_reducible apply Keeps.afterT (State.chargeFrame_touches _ _ _)); · rfl)
    | ((with_reducible apply Keeps.afterT (State.presentFrame_touches _ _ _)); · rfl)
    | ((with_reducible apply Keeps.afterT (State.popRunner_touches _ _ _)); · rfl)
    | with_reducible apply Keeps.after (State.runnerAccept_keeps _ _ _ _)
    | ((with_reducible apply Keeps.afterT (State.runnerHold_touches _ _ _)); · rfl)
    | with_reducible apply Keeps.ite
    | with_reducible intro _
    | split
    | with_reducible refine Keeps.pair (by assumption) ?_
    | dsimp only

theorem State.runnerRelease_keeps (s : State) (pitch t p : Nat) (charge : Bool) (u : Upset) : Keeps s
    (State.runnerRelease s pitch t p charge u) := by
  unfold State.runnerRelease
  try dsimp only
  repeat' first
    | with_reducible exact .refl _
    | with_reducible assumption
    | ((with_reducible apply Keeps.afterT (State.bump_touches _ _ _)); · rfl)
    | ((with_reducible apply Keeps.afterT (State.drop_touches _ _ _)); · rfl)
    | ((with_reducible apply Keeps.afterT (State.modPort_touches _ _ _)); · rfl)
    | ((with_reducible apply Keeps.afterT (State.setShare_touches _ _ _ _ _)); · rfl)
    | ((with_reducible apply Keeps.afterT (State.chargeFrame_touches _ _ _)); · rfl)
    | with_reducible apply Keeps.after (State.runnerAccept_keeps _ _ _ _)
    | with_reducible apply Keeps.ite
    | with_reducible intro _
    | split
    | with_reducible refine Keeps.pair (by assumption) ?_
    | dsimp only

theorem execRunnerFrame_keeps (p : Checked Port) (s : State) : StepKeeps s (execRunnerFrame p s) := by
  unfold execRunnerFrame
  try dsimp only
  repeat' first
    | with_reducible apply Keeps.ofNext
    | with_reducible exact .refl _
    | with_reducible assumption
    | with_reducible apply Keeps.after (State.runnerHead_keeps _ _ _ _)
    | with_reducible apply Keeps.ite
    | with_reducible apply Keeps.iteStep
    | with_reducible intro _
    | split
    | with_reducible refine Keeps.pair (by assumption) ?_
    | dsimp only

theorem execRunnerWaitResume_keeps (p : Checked Port) (s : State) : StepKeeps s (execRunnerWaitResume p s)
    := by
  unfold execRunnerWaitResume
  try dsimp only
  repeat' first
    | with_reducible apply Keeps.ofNext
    | with_reducible exact .refl _
    | with_reducible assumption
    | with_reducible apply Keeps.after (State.runnerAccept_keeps _ _ _ _)
    | with_reducible apply Keeps.after (State.runnerRelease_keeps _ _ _ _ _ _)
    | with_reducible apply Keeps.ite
    | with_reducible apply Keeps.iteStep
    | with_reducible intro _
    | split
    | with_reducible refine Keeps.pair (by assumption) ?_
    | dsimp only

theorem execHeartbeatReceive_keeps (p : Port) (s : State) : StepKeeps s (execHeartbeatReceive p s) := by
  unfold execHeartbeatReceive
  try dsimp only
  repeat' first
    | with_reducible apply Keeps.ofNext
    | with_reducible exact .refl _
    | with_reducible assumption
    | ((with_reducible apply Keeps.afterT (State.bump_touches _ _ _)); · rfl)
    | with_reducible apply Keeps.after (State.writeTable_keeps _ _ _ _)
    | ((with_reducible apply Keeps.afterT (State.dropped_touches _ _ _ _)); · rfl)
    | ((with_reducible apply Keeps.afterT (State.popRunner_touches _ _ _)); · rfl)
    | ((with_reducible apply Keeps.afterT (State.heartbeat_touches _ _ _)); · rfl)
    | with_reducible apply Keeps.ite
    | with_reducible apply Keeps.iteStep
    | with_reducible intro _
    | split
    | with_reducible refine Keeps.pair (by assumption) ?_
    | dsimp only

theorem State.applyAbort_keeps (s : State) (a : AbortReq) : Keeps s (State.applyAbort s a) := by
  unfold State.applyAbort
  try dsimp only
  repeat' first
    | with_reducible exact .refl _
    | with_reducible assumption
    | with_reducible apply Keeps.fold
    | with_reducible apply Keeps.foldPair
    | ((with_reducible apply Keeps.afterT (State.bump_touches _ _ _)); · rfl)
    | ((with_reducible apply Keeps.afterT (State.modGroup_touches _ _ _)); · rfl)
    | with_reducible apply Keeps.after (State.modEntry_keeps _ _ _ _)
    | with_reducible apply Keeps.after (State.endCtx_keeps _ _ _ _)
    | with_reducible apply Keeps.after (State.freeKeptOf_keeps _ _ _)
    | with_reducible apply Keeps.after (State.postEnd_keeps _ _ _ _)
    | with_reducible apply Keeps.after (State.abortAnswer_keeps _ _ _ _ _)
    | ((with_reducible apply Keeps.afterT (State.endRound_touches _ _ _ _ _)); · rfl)
    | with_reducible apply Keeps.ite
    | with_reducible intro _
    | split
    | with_reducible refine Keeps.pair (by assumption) ?_
    | dsimp only

theorem execAbortApply_keeps (g : Group) (seq : BitVec 32) (s : State) : StepKeeps s (execAbortApply g seq
    s) := by
  unfold execAbortApply
  try dsimp only
  repeat' first
    | with_reducible apply Keeps.ofNext
    | with_reducible exact .refl _
    | with_reducible assumption
    | with_reducible apply Keeps.after (State.applyAbort_keeps _ _)
    | with_reducible intro _
    | split
    | with_reducible apply Keeps.put_coll

theorem State.applyAborts_keeps (s : State) : Keeps s (State.applyAborts s) := by
  unfold State.applyAborts
  try dsimp only
  repeat' first
    | with_reducible exact .refl _
    | with_reducible assumption
    | with_reducible apply Keeps.fold
    | with_reducible apply Keeps.foldPair
    | with_reducible apply Keeps.after (State.applyAbort_keeps _ _)
    | with_reducible intro _
    | with_reducible apply Keeps.put_coll

end Sys2Proof.Machine
end

