-- ==== Sys2Proof/Laws/TouchCrossbar.lean ====
section
/-! SUPPORT. Which parts of the state each operation of Machine/Crossbar.lean changes. -/

namespace Sys2Proof.Machine

theorem State.badType_touches (s : State) (p : Nat) (f : Frame) : OnlyTouches [.objs, .ledger, .dict,
    .host] s (State.badType s p f) := by
  unfold State.badType
  try dsimp only
  repeat' first
    | with_reducible exact .refl _ _
    | with_reducible assumption
    | (with_reducible apply OnlyTouches.after (State.bump_touches _ _ _); · decide)
    | (with_reducible apply OnlyTouches.after (State.eventObj_touches _ _ _ _); · decide)
    | (with_reducible apply OnlyTouches.after (State.dropped_touches _ _ _ _); · decide)
    | with_reducible intro _
    | with_reducible refine OnlyTouches.pair (by assumption) ?_
    | dsimp only

theorem State.consume_touches (s : State) (p : Nat) (f : Frame) : OnlyTouches [.ports] s (State.consume s p
    f) := by
  unfold State.consume
  try dsimp only
  repeat' first
    | with_reducible exact .refl _ _
    | with_reducible assumption
    | (with_reducible apply OnlyTouches.after (State.freeCredits_touches _ _ _ _); · decide)
    | with_reducible intro _

theorem State.consumeCtl_touches (s : State) (t p : Nat) (f : Frame) : OnlyTouches [.objs, .ports, .switch,
    .coll, .mem, .ledger, .dict, .host] s (State.consumeCtl s t p f) := by
  unfold State.consumeCtl
  try dsimp only
  repeat' first
    | with_reducible exact .refl _ _
    | with_reducible assumption
    | (with_reducible apply OnlyTouches.after (State.bump_touches _ _ _); · decide)
    | (with_reducible apply OnlyTouches.after (State.mirrorIngress_touches _ _ _ _); · decide)
    | (with_reducible apply OnlyTouches.after (State.consume_touches _ _ _); · decide)
    | with_reducible apply OnlyTouches.ite
    | with_reducible intro _
    | split
    | with_reducible refine OnlyTouches.pair (by assumption) ?_
    | dsimp only

theorem State.classify_touches (s : State) (p : Nat) (f : Frame) : OnlyTouches [.objs, .ports, .switch,
    .service, .coll, .mem, .ledger, .dict, .host] s (State.classify s p f) := by
  unfold State.classify
  try dsimp only
  repeat' first
    | with_reducible exact .refl _ _
    | with_reducible assumption
    | (with_reducible apply OnlyTouches.after (State.bump_touches _ _ _); · decide)
    | (with_reducible apply OnlyTouches.after (State.dropped_touches _ _ _ _); · decide)
    | (with_reducible apply OnlyTouches.after (State.freeCredits_touches _ _ _ _); · decide)
    | (with_reducible apply OnlyTouches.after (State.toHome_touches _ _ _ _ _); · decide)
    | (with_reducible apply OnlyTouches.after (State.mirrorIngress_touches _ _ _ _); · decide)
    | (with_reducible apply OnlyTouches.after (State.forwardCopied_touches _ _ _ _ _); · decide)
    | (with_reducible apply OnlyTouches.after (State.badType_touches _ _ _); · decide)
    | (with_reducible apply OnlyTouches.after (State.consume_touches _ _ _); · decide)
    | (with_reducible apply OnlyTouches.after (State.consumeCtl_touches _ _ _ _); · decide)
    | with_reducible apply OnlyTouches.ite
    | with_reducible intro _
    | split
    | (with_reducible apply OnlyTouches.put_service; · decide)
    | with_reducible refine OnlyTouches.pair (by assumption) ?_
    | dsimp only

theorem State.ingress_touches (s : State) (p : Nat) (f : Frame) : OnlyTouches [.objs, .ports, .switch,
    .pitches, .service, .coll, .mem, .ledger, .dict, .host] s (State.ingress s p f) := by
  unfold State.ingress
  try dsimp only
  repeat' first
    | with_reducible exact .refl _ _
    | with_reducible assumption
    | (with_reducible apply OnlyTouches.after (State.bump_touches _ _ _); · decide)
    | (with_reducible apply OnlyTouches.after (State.drop_touches _ _ _); · decide)
    | (with_reducible apply OnlyTouches.after (State.dropped_touches _ _ _ _); · decide)
    | (with_reducible apply OnlyTouches.after (State.freeCredits_touches _ _ _ _); · decide)
    | (with_reducible apply OnlyTouches.after (State.chargeFrame_touches _ _ _); · decide)
    | (with_reducible apply OnlyTouches.after (State.presentFrame_touches _ _ _); · decide)
    | (with_reducible apply OnlyTouches.after (State.policerDrop_touches _ _ _); · decide)
    | (with_reducible apply OnlyTouches.after (State.policerHold_touches _ _ _ _); · decide)
    | (with_reducible apply OnlyTouches.after (State.classify_touches _ _ _); · decide)
    | with_reducible apply OnlyTouches.ite
    | with_reducible intro _
    | split
    | with_reducible refine OnlyTouches.pair (by assumption) ?_
    | dsimp only

theorem execIngressFrame_touches (p : Port) (s : State) : StepTouches [.objs, .ports, .switch, .pitches,
    .service, .coll, .mem, .ledger, .dict, .host] s (execIngressFrame p s) := by
  unfold execIngressFrame
  try dsimp only
  repeat' first
    | with_reducible apply OnlyTouches.ofNext
    | with_reducible exact .refl _ _
    | with_reducible assumption
    | (with_reducible apply OnlyTouches.after (State.setPort_touches _ _ _); · decide)
    | (with_reducible apply OnlyTouches.after (State.ingress_touches _ _ _); · decide)
    | with_reducible intro _
    | split
    | with_reducible refine OnlyTouches.pair (by assumption) ?_
    | dsimp only

theorem State.releaseHeld_touches (s : State) (p vc t : Nat) (charge : Bool) : OnlyTouches [.objs, .power,
    .ports, .switch, .pitches, .service, .coll, .mem, .ledger, .dict, .host, .free] s (State.releaseHeld s
    p vc t charge) := by
  unfold State.releaseHeld
  try dsimp only
  repeat' first
    | with_reducible exact .refl _ _
    | with_reducible assumption
    | (with_reducible apply OnlyTouches.after (State.bump_touches _ _ _); · decide)
    | (with_reducible apply OnlyTouches.after (State.chargeFrame_touches _ _ _); · decide)
    | (with_reducible apply OnlyTouches.after (State.unhold_touches _ _ _ _ _ _); · decide)
    | (with_reducible apply OnlyTouches.after (State.runnerRelease_touches _ _ _ _ _ _); · decide)
    | (with_reducible apply OnlyTouches.after (State.classify_touches _ _ _); · decide)
    | with_reducible apply OnlyTouches.ite
    | with_reducible intro _
    | split
    | with_reducible refine OnlyTouches.pair (by assumption) ?_
    | dsimp only

theorem execPolicerRelease_touches (t : Stall) (pitch : Pitch) (vc : Fin 8) (s : State) : StepTouches
    [.objs, .power, .ports, .switch, .pitches, .service, .coll, .mem, .ledger, .dict, .host, .free] s
    (execPolicerRelease t pitch vc s) := by
  unfold execPolicerRelease
  try dsimp only
  repeat' first
    | with_reducible apply OnlyTouches.ofNext
    | with_reducible exact .refl _ _
    | with_reducible assumption
    | (with_reducible apply OnlyTouches.after (State.releaseHeld_touches _ _ _ _ _); · decide)
    | with_reducible apply OnlyTouches.ite
    | with_reducible apply OnlyTouches.iteStep
    | with_reducible intro _
    | split

theorem State.releaseAllHeld_touches (s : State) (p : Nat) : OnlyTouches [.objs, .power, .ports, .switch,
    .pitches, .service, .coll, .mem, .ledger, .dict, .host, .free] s (State.releaseAllHeld s p) := by
  unfold State.releaseAllHeld
  try dsimp only
  repeat' first
    | with_reducible exact .refl _ _
    | with_reducible assumption
    | with_reducible apply OnlyTouches.fold
    | with_reducible apply OnlyTouches.foldPair
    | (with_reducible apply OnlyTouches.after (State.releaseHeld_touches _ _ _ _ _); · decide)
    | with_reducible intro _
    | with_reducible refine OnlyTouches.pair (by assumption) ?_
    | dsimp only

theorem State.releaseEffect_touches (s : State) (p : Nat) : OnlyTouches [.objs, .power, .ports, .switch,
    .pitches, .service, .coll, .mem, .ledger, .dict, .host, .free] s (State.releaseEffect s p) := by
  unfold State.releaseEffect
  try dsimp only
  repeat' first
    | with_reducible exact .refl _ _
    | with_reducible assumption
    | (with_reducible apply OnlyTouches.after (State.setPitch_touches _ _ _); · decide)
    | (with_reducible apply OnlyTouches.after (State.releaseAllHeld_touches _ _); · decide)
    | with_reducible apply OnlyTouches.ite
    | with_reducible intro _
    | split
    | with_reducible refine OnlyTouches.pair (by assumption) ?_
    | dsimp only

theorem execReleaseEffect_touches (pitch : Pitch) (s : State) : StepTouches [.objs, .power, .ports,
    .switch, .pitches, .service, .coll, .mem, .ledger, .dict, .host, .free] s (execReleaseEffect pitch s)
    := by
  unfold execReleaseEffect
  try dsimp only
  repeat' first
    | with_reducible apply OnlyTouches.ofNext
    | with_reducible exact .refl _ _
    | with_reducible assumption
    | (with_reducible apply OnlyTouches.after (State.releaseEffect_touches _ _); · decide)
    | with_reducible intro _
    | with_reducible refine OnlyTouches.pair (by assumption) ?_
    | dsimp only

theorem State.unguard_touches (s : State) (e : Nat × Flight) : OnlyTouches [.switch] s (State.unguard s e)
    := by
  unfold State.unguard
  try dsimp only
  repeat' first
    | with_reducible exact .refl _ _
    | with_reducible assumption
    | (with_reducible apply OnlyTouches.after (State.setFlight_touches _ _ _); · decide)
    | (with_reducible apply OnlyTouches.after (State.pushVoq_touches _ _ _ _ _); · decide)
    | with_reducible intro _
    | with_reducible refine OnlyTouches.pair (by assumption) ?_
    | dsimp only

theorem State.guardRelease_touches (s : State) (key : Nat) : OnlyTouches [.switch] s (State.guardRelease s
    key) := by
  unfold State.guardRelease
  try dsimp only
  repeat' first
    | with_reducible exact .refl _ _
    | with_reducible assumption
    | with_reducible apply OnlyTouches.fold
    | with_reducible apply OnlyTouches.foldPair
    | (with_reducible apply OnlyTouches.after (State.unguard_touches _ _); · decide)
    | with_reducible apply OnlyTouches.ite
    | with_reducible intro _
    | split
    | with_reducible refine OnlyTouches.pair (by assumption) ?_
    | dsimp only

theorem execGuardFlowRelease_touches (t : Stall) (flow : Fin 4096) (s : State) : StepTouches [.switch] s
    (execGuardFlowRelease t flow s) := by
  unfold execGuardFlowRelease
  try dsimp only
  repeat' first
    | with_reducible apply OnlyTouches.ofNext
    | with_reducible exact .refl _ _
    | with_reducible assumption
    | (with_reducible apply OnlyTouches.after (State.guardRelease_touches _ _); · decide)
    | with_reducible intro _
    | with_reducible refine OnlyTouches.pair (by assumption) ?_
    | dsimp only

theorem State.uncount_touches (s : State) (key : Option Nat) : OnlyTouches [.switch] s (State.uncount s
    key) := by
  unfold State.uncount
  try dsimp only
  repeat' first
    | with_reducible exact .refl _ _
    | with_reducible assumption
    | (with_reducible apply OnlyTouches.after (State.guardRelease_touches _ _); · decide)
    | with_reducible apply OnlyTouches.ite
    | with_reducible intro _
    | split
    | (with_reducible apply OnlyTouches.put_switch; · decide)

theorem State.guardEnds_touches (s : State) : OnlyTouches [.objs, .switch] s (State.guardEnds s) := by
  unfold State.guardEnds
  try dsimp only
  repeat' first
    | with_reducible exact .refl _ _
    | with_reducible assumption
    | with_reducible apply OnlyTouches.when
    | with_reducible apply OnlyTouches.fold
    | with_reducible apply OnlyTouches.foldPair
    | (with_reducible apply OnlyTouches.after (State.bump_touches _ _ _); · decide)
    | (with_reducible apply OnlyTouches.after (State.unguard_touches _ _); · decide)
    | with_reducible apply OnlyTouches.ite
    | with_reducible intro _
    | split
    | (with_reducible apply OnlyTouches.put_switch; · decide)
    | with_reducible refine OnlyTouches.pair (by assumption) ?_
    | dsimp only

theorem execDrainGuardEnd_touches (s : State) : StepTouches [.objs, .switch] s (execDrainGuardEnd s) := by
  unfold execDrainGuardEnd
  try dsimp only
  repeat' first
    | with_reducible apply OnlyTouches.ofNext
    | with_reducible exact .refl _ _
    | with_reducible assumption
    | (with_reducible apply OnlyTouches.after (State.guardEnds_touches _); · decide)
    | with_reducible intro _

theorem State.bankCheck_touches (s : State) : OnlyTouches [.objs, .switch, .dict, .host] s (State.bankCheck
    s) := by
  unfold State.bankCheck
  try dsimp only
  repeat' first
    | with_reducible exact .refl _ _
    | with_reducible assumption
    | (with_reducible apply OnlyTouches.after (State.endFailedAt_touches _ _ _ _); · decide)
    | with_reducible apply OnlyTouches.ite
    | with_reducible intro _
    | split
    | (with_reducible apply OnlyTouches.put_switch; · decide)

theorem execBankReadinessCheck_touches (s : State) : StepTouches [.objs, .switch, .dict, .host] s
    (execBankReadinessCheck s) := by
  unfold execBankReadinessCheck
  try dsimp only
  repeat' first
    | with_reducible apply OnlyTouches.ofNext
    | with_reducible exact .refl _ _
    | with_reducible assumption
    | (with_reducible apply OnlyTouches.after (State.bankCheck_touches _); · decide)
    | with_reducible intro _

theorem State.countFlows_touches (s : State) : OnlyTouches [.switch] s (State.countFlows s) := by
  unfold State.countFlows
  try dsimp only
  repeat' first
    | with_reducible exact .refl _ _
    | with_reducible assumption
    | with_reducible apply OnlyTouches.fold
    | with_reducible apply OnlyTouches.foldPair
    | (with_reducible apply OnlyTouches.after (State.setFlight_touches _ _ _); · decide)
    | with_reducible apply OnlyTouches.ite
    | with_reducible intro _
    | split
    | (with_reducible apply OnlyTouches.put_switch; · decide)

theorem State.bankSwitch_touches (s : State) : OnlyTouches [.objs, .switch, .dict, .host] s
    (State.bankSwitch s) := by
  unfold State.bankSwitch
  try dsimp only
  repeat' first
    | with_reducible exact .refl _ _
    | with_reducible assumption
    | (with_reducible apply OnlyTouches.after (State.putObj_touches _ _ _); · decide)
    | (with_reducible apply OnlyTouches.after (State.spray_touches _ _ _ _); · decide)
    | (with_reducible apply OnlyTouches.afterPair (State.spray_touches _ _ _ _); (first | assumption | decide); (first | assumption | decide))
    | (with_reducible apply OnlyTouches.after (State.endDone_touches _ _); · decide)
    | (with_reducible apply OnlyTouches.after (State.setResult_touches _ _ _ _); · decide)
    | (with_reducible apply OnlyTouches.after (State.bankCheck_touches _); · decide)
    | (with_reducible apply OnlyTouches.after (State.countFlows_touches _); · decide)
    | with_reducible apply OnlyTouches.ite
    | with_reducible intro _
    | split
    | (with_reducible apply OnlyTouches.put_switch; · decide)
    | with_reducible refine OnlyTouches.pair (by assumption) ?_
    | dsimp only

theorem execBankSwitch_touches (s : State) : StepTouches [.objs, .switch, .dict, .host] s (execBankSwitch
    s) := by
  unfold execBankSwitch
  try dsimp only
  repeat' first
    | with_reducible apply OnlyTouches.ofNext
    | with_reducible exact .refl _ _
    | with_reducible assumption
    | (with_reducible apply OnlyTouches.after (State.bankSwitch_touches _); · decide)
    | with_reducible intro _

theorem State.pushCell_touches (s : State) (src out cls i : Nat) : OnlyTouches [.switch] s (State.pushCell
    s src out cls i) := by
  unfold State.pushCell
  try dsimp only
  repeat' first
    | with_reducible exact .refl _ _
    | with_reducible assumption
    | with_reducible apply OnlyTouches.ite
    | with_reducible intro _
    | split
    | (with_reducible apply OnlyTouches.put_switch; · decide)

theorem State.leaveQueue_touches (s : State) (r : Req) (f : Flight) : OnlyTouches [.objs, .ports, .switch,
    .coll, .mem, .dict, .host] s (State.leaveQueue s r f) := by
  unfold State.leaveQueue
  try dsimp only
  repeat' first
    | with_reducible exact .refl _ _
    | with_reducible assumption
    | (with_reducible apply OnlyTouches.after (State.freeBufferOpt_touches _ _); · decide)
    | (with_reducible apply OnlyTouches.after (State.freeFlightCredits_touches _ _); · decide)
    | (with_reducible apply OnlyTouches.after (State.multicast_touches _ _ _ _ _ _ _); · decide)
    | (with_reducible apply OnlyTouches.after (State.uncount_touches _ _); · decide)
    | with_reducible intro _
    | split
    | (with_reducible apply OnlyTouches.put_switch; · decide)
    | with_reducible refine OnlyTouches.pair (by assumption) ?_
    | dsimp only

theorem State.countCell_touches (s : State) (t : Nat) (f : Flight) : OnlyTouches [.objs, .ledger] s
    (State.countCell s t f) := by
  unfold State.countCell
  try dsimp only
  repeat' first
    | with_reducible exact .refl _ _
    | with_reducible assumption
    | with_reducible apply OnlyTouches.when
    | (with_reducible apply OnlyTouches.after (State.countAccess_touches _ _ _ _ _ _); · decide)
    | with_reducible intro _
    | split
    | with_reducible refine OnlyTouches.pair (by assumption) ?_
    | dsimp only

theorem State.moveCell_touches (s : State) (r : Req) : OnlyTouches [.objs, .ports, .switch, .coll, .mem,
    .ledger, .dict, .host] s (State.moveCell s r) := by
  unfold State.moveCell
  try dsimp only
  repeat' first
    | with_reducible exact .refl _ _
    | with_reducible assumption
    | (with_reducible apply OnlyTouches.after (State.setFlight_touches _ _ _); · decide)
    | (with_reducible apply OnlyTouches.after (State.count_touches _ _ _ _ _); · decide)
    | (with_reducible apply OnlyTouches.after (State.multicast_touches _ _ _ _ _ _ _); · decide)
    | (with_reducible apply OnlyTouches.after (State.pushCell_touches _ _ _ _ _); · decide)
    | (with_reducible apply OnlyTouches.after (State.leaveQueue_touches _ _ _); · decide)
    | (with_reducible apply OnlyTouches.after (State.countCell_touches _ _ _); · decide)
    | with_reducible apply OnlyTouches.ite
    | with_reducible intro _
    | split
    | (with_reducible apply OnlyTouches.put_switch; · decide)
    | with_reducible refine OnlyTouches.pair (by assumption) ?_
    | dsimp only

theorem State.movePointers_touches (s : State) (accepted : List Req) : OnlyTouches [.switch] s
    (State.movePointers s accepted) := by
  unfold State.movePointers
  try dsimp only
  repeat' first
    | with_reducible exact .refl _ _
    | with_reducible assumption
    | with_reducible apply OnlyTouches.fold
    | with_reducible apply OnlyTouches.foldPair
    | with_reducible intro _
    | (with_reducible apply OnlyTouches.put_switch; · decide)

theorem State.iterate_touches (s : State) (u : SlotUse) (first : Bool) : OnlyTouches [.objs, .ports,
    .switch, .coll, .mem, .ledger, .dict, .host] s (State.iterate s u first).1 := by
  unfold State.iterate
  try dsimp only
  repeat' first
    | with_reducible exact .refl _ _
    | with_reducible assumption
    | with_reducible apply OnlyTouches.fold
    | with_reducible apply OnlyTouches.foldPair
    | (with_reducible apply OnlyTouches.after (State.moveCell_touches _ _); · decide)
    | (with_reducible apply OnlyTouches.after (State.movePointers_touches _ _); · decide)
    | with_reducible apply OnlyTouches.ite
    | with_reducible intro _
    | split
    | with_reducible refine OnlyTouches.pair (by assumption) ?_
    | dsimp only

theorem execCellSlot_touches (s : State) : StepTouches [.objs, .ports, .switch, .coll, .mem, .ledger,
    .dict, .host] s (execCellSlot s) := by
  unfold execCellSlot
  try dsimp only
  repeat' first
    | with_reducible apply OnlyTouches.ofNext
    | with_reducible exact .refl _ _
    | with_reducible assumption
    | with_reducible apply OnlyTouches.when
    | (with_reducible apply OnlyTouches.after (State.bump_touches _ _ _); · decide)
    | (with_reducible apply OnlyTouches.after (State.pump_touches _); · decide)
    | (with_reducible apply OnlyTouches.after (State.iterate_touches _ _ _); · decide)
    | (with_reducible apply OnlyTouches.afterPair (State.iterate_touches _ _ _); (first | assumption | decide); (first | assumption | decide))
    | with_reducible intro _
    | split
    | (with_reducible apply OnlyTouches.put_switch; · decide)
    | with_reducible refine OnlyTouches.pair (by assumption) ?_
    | dsimp only

theorem State.writeEgress_touches (s : State) (p i : Nat) : OnlyTouches [.objs, .ports, .switch, .coll,
    .mem, .ledger, .dict, .host] s (State.writeEgress s p i) := by
  unfold State.writeEgress
  try dsimp only
  repeat' first
    | with_reducible exact .refl _ _
    | with_reducible assumption
    | (with_reducible apply OnlyTouches.after (State.modPort_touches _ _ _); · decide)
    | (with_reducible apply OnlyTouches.after (State.setFlight_touches _ _ _); · decide)
    | (with_reducible apply OnlyTouches.after (State.mirrorEgress_touches _ _ _); · decide)
    | (with_reducible apply OnlyTouches.after (State.easeCheck_touches _ _ _ _); · decide)
    | with_reducible apply OnlyTouches.ite
    | with_reducible intro _
    | split
    | with_reducible refine OnlyTouches.pair (by assumption) ?_
    | dsimp only

theorem State.cellGone_touches (s : State) (src o cls i : Nat) : OnlyTouches [.switch] s (State.cellGone s
    src o cls i) := by
  unfold State.cellGone
  try dsimp only
  repeat' first
    | with_reducible exact .refl _ _
    | with_reducible assumption
    | (with_reducible apply OnlyTouches.after (State.setFlight_touches _ _ _); · decide)
    | with_reducible apply OnlyTouches.ite
    | with_reducible intro _
    | split
    | (with_reducible apply OnlyTouches.put_switch; · decide)

theorem State.pushIntake_touches (s : State) (o i : Nat) : OnlyTouches [.switch] s (State.pushIntake s o i)
    := by
  unfold State.pushIntake
  try dsimp only
  repeat' first
    | with_reducible exact .refl _ _
    | with_reducible assumption
    | (with_reducible apply OnlyTouches.after (State.setFlight_touches _ _ _); · decide)
    | with_reducible apply OnlyTouches.ite
    | with_reducible intro _
    | split
    | (with_reducible apply OnlyTouches.put_switch; · decide)
    | with_reducible refine OnlyTouches.pair (by assumption) ?_
    | dsimp only

theorem State.drainCell_touches (s : State) (src o cls i : Nat) : OnlyTouches [.objs, .ports, .switch,
    .coll, .mem, .ledger, .dict, .host] s (State.drainCell s src o cls i) := by
  unfold State.drainCell
  try dsimp only
  repeat' first
    | with_reducible exact .refl _ _
    | with_reducible assumption
    | with_reducible apply OnlyTouches.when
    | with_reducible apply OnlyTouches.fold
    | with_reducible apply OnlyTouches.foldPair
    | (with_reducible apply OnlyTouches.after (State.bump_touches _ _ _); · decide)
    | (with_reducible apply OnlyTouches.after (State.setFlight_touches _ _ _); · decide)
    | (with_reducible apply OnlyTouches.after (State.dropFlight_touches _ _); · decide)
    | (with_reducible apply OnlyTouches.after (State.dropped_touches _ _ _ _); · decide)
    | (with_reducible apply OnlyTouches.after (State.multicast_touches _ _ _ _ _ _ _); · decide)
    | (with_reducible apply OnlyTouches.after (State.settle_touches _ _); · decide)
    | (with_reducible apply OnlyTouches.after (State.writeEgress_touches _ _ _); · decide)
    | (with_reducible apply OnlyTouches.after (State.cellGone_touches _ _ _ _ _); · decide)
    | (with_reducible apply OnlyTouches.after (State.pushIntake_touches _ _ _); · decide)
    | with_reducible apply OnlyTouches.ite
    | with_reducible intro _
    | split
    | with_reducible refine OnlyTouches.pair (by assumption) ?_
    | dsimp only

theorem State.drainOne_touches (s : State) (o : Nat) : OnlyTouches [.objs, .ports, .switch, .coll, .mem,
    .ledger, .dict, .host] s (State.drainOne s o) := by
  unfold State.drainOne
  try dsimp only
  repeat' first
    | with_reducible exact .refl _ _
    | with_reducible assumption
    | (with_reducible apply OnlyTouches.after (State.drainCell_touches _ _ _ _ _); · decide)
    | with_reducible intro _
    | split
    | (with_reducible apply OnlyTouches.put_switch; · decide)
    | with_reducible refine OnlyTouches.pair (by assumption) ?_
    | dsimp only

theorem execColumnDrain_touches (o : Stall) (s : State) : StepTouches [.objs, .ports, .switch, .coll, .mem,
    .ledger, .dict, .host] s (execColumnDrain o s) := by
  unfold execColumnDrain
  try dsimp only
  repeat' first
    | with_reducible apply OnlyTouches.ofNext
    | with_reducible exact .refl _ _
    | with_reducible assumption
    | (with_reducible apply OnlyTouches.after (State.pump_touches _); · decide)
    | (with_reducible apply OnlyTouches.after (State.drainOne_touches _ _); · decide)
    | with_reducible intro _
    | with_reducible refine OnlyTouches.pair (by assumption) ?_
    | dsimp only

theorem State.extract_touches (s : State) (i : Nat) : OnlyTouches [.objs, .ports, .switch] s (State.extract
    s i) := by
  unfold State.extract
  try dsimp only
  repeat' first
    | with_reducible exact .refl _ _
    | with_reducible assumption
    | (with_reducible apply OnlyTouches.after (State.drop_touches _ _ _); · decide)
    | with_reducible intro _
    | (with_reducible apply OnlyTouches.put_ports; · decide)
    | (with_reducible apply OnlyTouches.put_switch; · decide)
    | (with_reducible apply OnlyTouches.put_ports_switch; (· decide); (· decide))

theorem State.giveUp_touches (s : State) (f : Flight) : OnlyTouches [.objs, .ports, .switch, .coll, .mem,
    .dict, .host] s (State.giveUp s f) := by
  unfold State.giveUp
  try dsimp only
  repeat' first
    | with_reducible exact .refl _ _
    | with_reducible assumption
    | (with_reducible apply OnlyTouches.after (State.freeBufferOpt_touches _ _); · decide)
    | (with_reducible apply OnlyTouches.after (State.freeFlightCredits_touches _ _); · decide)
    | (with_reducible apply OnlyTouches.after (State.uncount_touches _ _); · decide)
    | with_reducible apply OnlyTouches.ite
    | with_reducible intro _
    | split
    | with_reducible refine OnlyTouches.pair (by assumption) ?_
    | dsimp only

theorem State.resteer_touches (s : State) (o i : Nat) : OnlyTouches [.objs, .ports, .switch, .coll, .mem,
    .ledger, .dict, .host] s (State.resteer s o i) := by
  unfold State.resteer
  try dsimp only
  repeat' first
    | with_reducible exact .refl _ _
    | with_reducible assumption
    | with_reducible apply OnlyTouches.when
    | (with_reducible apply OnlyTouches.after (State.bump_touches _ _ _); · decide)
    | (with_reducible apply OnlyTouches.after (State.write_touches _ _ _); · decide)
    | (with_reducible apply OnlyTouches.after (State.allocService_touches _ _ _); · decide)
    | (with_reducible apply OnlyTouches.afterPair (State.allocService_touches _ _ _); (first | assumption | decide); (first | assumption | decide))
    | (with_reducible apply OnlyTouches.after (State.freeBuffer_touches _ _); · decide)
    | (with_reducible apply OnlyTouches.after (State.lookup_touches _ _ _ _); · decide)
    | (with_reducible apply OnlyTouches.afterPair (State.lookup_touches _ _ _ _); (first | assumption | decide); (first | assumption | decide))
    | (with_reducible apply OnlyTouches.after (State.noRoute_touches _ _ _ _); · decide)
    | (with_reducible apply OnlyTouches.after (State.sendWait_touches _ _); · decide)
    | (with_reducible apply OnlyTouches.after (State.extract_touches _ _); · decide)
    | (with_reducible apply OnlyTouches.after (State.giveUp_touches _ _); · decide)
    | with_reducible apply OnlyTouches.ite
    | with_reducible intro _
    | split
    | with_reducible refine OnlyTouches.pair (by assumption) ?_
    | dsimp only

theorem execResteerFrame_touches (o : Stall) (flight : Nat) (s : State) : StepTouches [.objs, .ports,
    .switch, .coll, .mem, .ledger, .dict, .host] s (execResteerFrame o flight s) := by
  unfold execResteerFrame
  try dsimp only
  repeat' first
    | with_reducible apply OnlyTouches.ofNext
    | with_reducible exact .refl _ _
    | with_reducible assumption
    | (with_reducible apply OnlyTouches.after (State.resteer_touches _ _ _); · decide)
    | with_reducible intro _
    | with_reducible refine OnlyTouches.pair (by assumption) ?_
    | dsimp only

end Sys2Proof.Machine
end

