-- ==== Sys2Proof/Laws/KeepCrossbar.lean ====
section
/-! SUPPORT. The operations of Machine/Crossbar.lean keep the invariant. -/

namespace Sys2Proof.Machine

theorem State.badType_keeps (s : State) (p : Nat) (f : Frame) : Keeps s (State.badType s p f) := by
  unfold State.badType
  try dsimp only
  repeat' first
    | with_reducible exact .refl _
    | with_reducible assumption
    | ((with_reducible apply Keeps.afterT (State.bump_touches _ _ _)); · rfl)
    | with_reducible apply Keeps.after (State.eventObj_keeps _ _ _ _)
    | ((with_reducible apply Keeps.afterT (State.dropped_touches _ _ _ _)); · rfl)
    | with_reducible intro _
    | with_reducible refine Keeps.pair (by assumption) ?_
    | dsimp only

theorem State.consumeCtl_keeps (s : State) (t p : Nat) (f : Frame) : Keeps s (State.consumeCtl s t p f) :=
    by
  unfold State.consumeCtl
  try dsimp only
  repeat' first
    | with_reducible exact .refl _
    | with_reducible assumption
    | ((with_reducible apply Keeps.afterT (State.bump_touches _ _ _)); · rfl)
    | with_reducible apply Keeps.after (State.mirrorIngress_keeps _ _ _ _)
    | ((with_reducible apply Keeps.afterT (State.consume_touches _ _ _)); · rfl)
    | with_reducible apply Keeps.ite
    | with_reducible intro _
    | split
    | with_reducible refine Keeps.pair (by assumption) ?_
    | dsimp only

theorem State.classify_keeps (s : State) (p : Nat) (f : Frame) : Keeps s (State.classify s p f) := by
  unfold State.classify
  try dsimp only
  repeat' first
    | with_reducible exact .refl _
    | with_reducible assumption
    | ((with_reducible apply Keeps.afterT (State.bump_touches _ _ _)); · rfl)
    | ((with_reducible apply Keeps.afterT (State.dropped_touches _ _ _ _)); · rfl)
    | ((with_reducible apply Keeps.afterT (State.freeCredits_touches _ _ _ _)); · rfl)
    | ((with_reducible apply Keeps.afterT (State.toHome_touches _ _ _ _ _)); · rfl)
    | with_reducible apply Keeps.after (State.mirrorIngress_keeps _ _ _ _)
    | with_reducible apply Keeps.after (State.forwardCopied_keeps _ _ _ _ _)
    | with_reducible apply Keeps.after (State.badType_keeps _ _ _)
    | ((with_reducible apply Keeps.afterT (State.consume_touches _ _ _)); · rfl)
    | with_reducible apply Keeps.after (State.consumeCtl_keeps _ _ _ _)
    | with_reducible apply Keeps.ite
    | with_reducible intro _
    | split
    | with_reducible apply Keeps.put_service
    | with_reducible refine Keeps.pair (by assumption) ?_
    | dsimp only

theorem State.ingress_keeps (s : State) (p : Nat) (f : Frame) : Keeps s (State.ingress s p f) := by
  unfold State.ingress
  try dsimp only
  repeat' first
    | with_reducible exact .refl _
    | with_reducible assumption
    | ((with_reducible apply Keeps.afterT (State.bump_touches _ _ _)); · rfl)
    | ((with_reducible apply Keeps.afterT (State.drop_touches _ _ _)); · rfl)
    | ((with_reducible apply Keeps.afterT (State.dropped_touches _ _ _ _)); · rfl)
    | ((with_reducible apply Keeps.afterT (State.freeCredits_touches _ _ _ _)); · rfl)
    | ((with_reducible apply Keeps.afterT (State.chargeFrame_touches _ _ _)); · rfl)
    | ((with_reducible apply Keeps.afterT (State.presentFrame_touches _ _ _)); · rfl)
    | ((with_reducible apply Keeps.afterT (State.policerDrop_touches _ _ _)); · rfl)
    | ((with_reducible apply Keeps.afterT (State.policerHold_touches _ _ _ _)); · rfl)
    | with_reducible apply Keeps.after (State.classify_keeps _ _ _)
    | with_reducible apply Keeps.ite
    | with_reducible intro _
    | split
    | with_reducible refine Keeps.pair (by assumption) ?_
    | dsimp only

theorem execIngressFrame_keeps (p : Port) (s : State) : StepKeeps s (execIngressFrame p s) := by
  unfold execIngressFrame
  try dsimp only
  repeat' first
    | with_reducible apply Keeps.ofNext
    | with_reducible exact .refl _
    | with_reducible assumption
    | ((with_reducible apply Keeps.afterT (State.setPort_touches _ _ _)); · rfl)
    | with_reducible apply Keeps.after (State.ingress_keeps _ _ _)
    | with_reducible intro _
    | split
    | with_reducible refine Keeps.pair (by assumption) ?_
    | dsimp only

theorem State.releaseHeld_keeps (s : State) (p vc t : Nat) (charge : Bool) : Keeps s (State.releaseHeld s p
    vc t charge) := by
  unfold State.releaseHeld
  try dsimp only
  repeat' first
    | with_reducible exact .refl _
    | with_reducible assumption
    | ((with_reducible apply Keeps.afterT (State.bump_touches _ _ _)); · rfl)
    | ((with_reducible apply Keeps.afterT (State.chargeFrame_touches _ _ _)); · rfl)
    | ((with_reducible apply Keeps.afterT (State.unhold_touches _ _ _ _ _ _)); · rfl)
    | with_reducible apply Keeps.after (State.runnerRelease_keeps _ _ _ _ _ _)
    | with_reducible apply Keeps.after (State.classify_keeps _ _ _)
    | with_reducible apply Keeps.ite
    | with_reducible intro _
    | split
    | with_reducible refine Keeps.pair (by assumption) ?_
    | dsimp only

theorem execPolicerRelease_keeps (t : Stall) (pitch : Pitch) (vc : Fin 8) (s : State) : StepKeeps s
    (execPolicerRelease t pitch vc s) := by
  unfold execPolicerRelease
  try dsimp only
  repeat' first
    | with_reducible apply Keeps.ofNext
    | with_reducible exact .refl _
    | with_reducible assumption
    | with_reducible apply Keeps.after (State.releaseHeld_keeps _ _ _ _ _)
    | with_reducible apply Keeps.ite
    | with_reducible apply Keeps.iteStep
    | with_reducible intro _
    | split

theorem State.releaseAllHeld_keeps (s : State) (p : Nat) : Keeps s (State.releaseAllHeld s p) := by
  unfold State.releaseAllHeld
  try dsimp only
  repeat' first
    | with_reducible exact .refl _
    | with_reducible assumption
    | with_reducible apply Keeps.fold
    | with_reducible apply Keeps.foldPair
    | with_reducible apply Keeps.after (State.releaseHeld_keeps _ _ _ _ _)
    | with_reducible intro _
    | with_reducible refine Keeps.pair (by assumption) ?_
    | dsimp only

theorem State.releaseEffect_keeps (s : State) (p : Nat) : Keeps s (State.releaseEffect s p) := by
  unfold State.releaseEffect
  try dsimp only
  repeat' first
    | with_reducible exact .refl _
    | with_reducible assumption
    | ((with_reducible apply Keeps.afterT (State.setPitch_touches _ _ _)); · rfl)
    | with_reducible apply Keeps.after (State.releaseAllHeld_keeps _ _)
    | with_reducible apply Keeps.ite
    | with_reducible intro _
    | split
    | with_reducible refine Keeps.pair (by assumption) ?_
    | dsimp only

theorem execReleaseEffect_keeps (pitch : Pitch) (s : State) : StepKeeps s (execReleaseEffect pitch s) := by
  unfold execReleaseEffect
  try dsimp only
  repeat' first
    | with_reducible apply Keeps.ofNext
    | with_reducible exact .refl _
    | with_reducible assumption
    | with_reducible apply Keeps.after (State.releaseEffect_keeps _ _)
    | with_reducible intro _
    | with_reducible refine Keeps.pair (by assumption) ?_
    | dsimp only

theorem State.bankCheck_keeps (s : State) : Keeps s (State.bankCheck s) := by
  unfold State.bankCheck
  try dsimp only
  repeat' first
    | with_reducible exact .refl _
    | with_reducible assumption
    | with_reducible apply Keeps.after (State.endFailedAt_keeps _ _ _ _)
    | with_reducible apply Keeps.ite
    | with_reducible intro _
    | split
    | with_reducible apply Keeps.put_switch

theorem execBankReadinessCheck_keeps (s : State) : StepKeeps s (execBankReadinessCheck s) := by
  unfold execBankReadinessCheck
  try dsimp only
  repeat' first
    | with_reducible apply Keeps.ofNext
    | with_reducible exact .refl _
    | with_reducible assumption
    | with_reducible apply Keeps.after (State.bankCheck_keeps _)
    | with_reducible intro _

theorem State.bankSwitch_keeps (s : State) : Keeps s (State.bankSwitch s) := by
  unfold State.bankSwitch
  try dsimp only
  repeat' first
    | with_reducible exact .refl _
    | with_reducible assumption
    | ((with_reducible apply Keeps.afterT (State.putObj_touches _ _ _)); · rfl)
    | ((with_reducible apply Keeps.afterT (State.spray_touches _ _ _ _)); · rfl)
    | ((with_reducible apply Keeps.afterPairT (State.spray_touches _ _ _ _)); (· assumption); (· rfl))
    | with_reducible apply Keeps.after (State.endDone_keeps _ _)
    | with_reducible apply Keeps.after (State.setResult_keeps _ _ _ _)
    | with_reducible apply Keeps.after (State.bankCheck_keeps _)
    | ((with_reducible apply Keeps.afterT (State.countFlows_touches _)); · rfl)
    | with_reducible apply Keeps.ite
    | with_reducible intro _
    | split
    | with_reducible apply Keeps.put_switch
    | with_reducible refine Keeps.pair (by assumption) ?_
    | dsimp only

theorem execBankSwitch_keeps (s : State) : StepKeeps s (execBankSwitch s) := by
  unfold execBankSwitch
  try dsimp only
  repeat' first
    | with_reducible apply Keeps.ofNext
    | with_reducible exact .refl _
    | with_reducible assumption
    | with_reducible apply Keeps.after (State.bankSwitch_keeps _)
    | with_reducible intro _

theorem State.leaveQueue_keeps (s : State) (r : Req) (f : Flight) : Keeps s (State.leaveQueue s r f) := by
  unfold State.leaveQueue
  try dsimp only
  repeat' first
    | with_reducible exact .refl _
    | with_reducible assumption
    | with_reducible apply Keeps.after (State.freeBufferOpt_keeps _ _)
    | ((with_reducible apply Keeps.afterT (State.freeFlightCredits_touches _ _)); · rfl)
    | with_reducible apply Keeps.after (State.multicast_keeps _ _ _ _ _ _ _)
    | ((with_reducible apply Keeps.afterT (State.uncount_touches _ _)); · rfl)
    | with_reducible intro _
    | split
    | with_reducible apply Keeps.put_switch
    | with_reducible refine Keeps.pair (by assumption) ?_
    | dsimp only

theorem State.moveCell_keeps (s : State) (r : Req) : Keeps s (State.moveCell s r) := by
  unfold State.moveCell
  try dsimp only
  repeat' first
    | with_reducible exact .refl _
    | with_reducible assumption
    | ((with_reducible apply Keeps.afterT (State.setFlight_touches _ _ _)); · rfl)
    | ((with_reducible apply Keeps.afterT (State.count_touches _ _ _ _ _)); · rfl)
    | with_reducible apply Keeps.after (State.multicast_keeps _ _ _ _ _ _ _)
    | ((with_reducible apply Keeps.afterT (State.pushCell_touches _ _ _ _ _)); · rfl)
    | with_reducible apply Keeps.after (State.leaveQueue_keeps _ _ _)
    | ((with_reducible apply Keeps.afterT (State.countCell_touches _ _ _)); · rfl)
    | with_reducible apply Keeps.ite
    | with_reducible intro _
    | split
    | with_reducible apply Keeps.put_switch
    | with_reducible refine Keeps.pair (by assumption) ?_
    | dsimp only

theorem State.iterate_keeps (s : State) (u : SlotUse) (first : Bool) : Keeps s (State.iterate s u first).1
    := by
  unfold State.iterate
  try dsimp only
  repeat' first
    | with_reducible exact .refl _
    | with_reducible assumption
    | with_reducible apply Keeps.fold
    | with_reducible apply Keeps.foldPair
    | with_reducible apply Keeps.after (State.moveCell_keeps _ _)
    | ((with_reducible apply Keeps.afterT (State.movePointers_touches _ _)); · rfl)
    | with_reducible apply Keeps.ite
    | with_reducible intro _
    | split
    | with_reducible refine Keeps.pair (by assumption) ?_
    | dsimp only

theorem execCellSlot_keeps (s : State) : StepKeeps s (execCellSlot s) := by
  unfold execCellSlot
  try dsimp only
  repeat' first
    | with_reducible apply Keeps.ofNext
    | with_reducible exact .refl _
    | with_reducible assumption
    | with_reducible apply Keeps.when
    | ((with_reducible apply Keeps.afterT (State.bump_touches _ _ _)); · rfl)
    | with_reducible apply Keeps.after (State.pump_keeps _)
    | with_reducible apply Keeps.after (State.iterate_keeps _ _ _)
    | ((with_reducible apply Keeps.afterPair (State.iterate_keeps _ _ _)); · assumption)
    | with_reducible intro _
    | split
    | with_reducible apply Keeps.put_switch
    | with_reducible refine Keeps.pair (by assumption) ?_
    | dsimp only

theorem State.writeEgress_keeps (s : State) (p i : Nat) : Keeps s (State.writeEgress s p i) := by
  unfold State.writeEgress
  try dsimp only
  repeat' first
    | with_reducible exact .refl _
    | with_reducible assumption
    | ((with_reducible apply Keeps.afterT (State.modPort_touches _ _ _)); · rfl)
    | ((with_reducible apply Keeps.afterT (State.setFlight_touches _ _ _)); · rfl)
    | with_reducible apply Keeps.after (State.mirrorEgress_keeps _ _ _)
    | with_reducible apply Keeps.after (State.easeCheck_keeps _ _ _ _)
    | with_reducible apply Keeps.ite
    | with_reducible intro _
    | split
    | with_reducible refine Keeps.pair (by assumption) ?_
    | dsimp only

theorem State.drainCell_keeps (s : State) (src o cls i : Nat) : Keeps s (State.drainCell s src o cls i) :=
    by
  unfold State.drainCell
  try dsimp only
  repeat' first
    | with_reducible exact .refl _
    | with_reducible assumption
    | with_reducible apply Keeps.when
    | with_reducible apply Keeps.fold
    | with_reducible apply Keeps.foldPair
    | ((with_reducible apply Keeps.afterT (State.bump_touches _ _ _)); · rfl)
    | ((with_reducible apply Keeps.afterT (State.setFlight_touches _ _ _)); · rfl)
    | ((with_reducible apply Keeps.afterT (State.dropFlight_touches _ _)); · rfl)
    | ((with_reducible apply Keeps.afterT (State.dropped_touches _ _ _ _)); · rfl)
    | with_reducible apply Keeps.after (State.multicast_keeps _ _ _ _ _ _ _)
    | ((with_reducible apply Keeps.afterT (State.settle_touches _ _)); · rfl)
    | with_reducible apply Keeps.after (State.writeEgress_keeps _ _ _)
    | ((with_reducible apply Keeps.afterT (State.cellGone_touches _ _ _ _ _)); · rfl)
    | ((with_reducible apply Keeps.afterT (State.pushIntake_touches _ _ _)); · rfl)
    | with_reducible apply Keeps.ite
    | with_reducible intro _
    | split
    | with_reducible refine Keeps.pair (by assumption) ?_
    | dsimp only

theorem State.drainOne_keeps (s : State) (o : Nat) : Keeps s (State.drainOne s o) := by
  unfold State.drainOne
  try dsimp only
  repeat' first
    | with_reducible exact .refl _
    | with_reducible assumption
    | with_reducible apply Keeps.after (State.drainCell_keeps _ _ _ _ _)
    | with_reducible intro _
    | split
    | with_reducible apply Keeps.put_switch
    | with_reducible refine Keeps.pair (by assumption) ?_
    | dsimp only

theorem execColumnDrain_keeps (o : Stall) (s : State) : StepKeeps s (execColumnDrain o s) := by
  unfold execColumnDrain
  try dsimp only
  repeat' first
    | with_reducible apply Keeps.ofNext
    | with_reducible exact .refl _
    | with_reducible assumption
    | with_reducible apply Keeps.after (State.pump_keeps _)
    | with_reducible apply Keeps.after (State.drainOne_keeps _ _)
    | with_reducible intro _
    | with_reducible refine Keeps.pair (by assumption) ?_
    | dsimp only

theorem State.giveUp_keeps (s : State) (f : Flight) : Keeps s (State.giveUp s f) := by
  unfold State.giveUp
  try dsimp only
  repeat' first
    | with_reducible exact .refl _
    | with_reducible assumption
    | with_reducible apply Keeps.after (State.freeBufferOpt_keeps _ _)
    | ((with_reducible apply Keeps.afterT (State.freeFlightCredits_touches _ _)); · rfl)
    | ((with_reducible apply Keeps.afterT (State.uncount_touches _ _)); · rfl)
    | with_reducible apply Keeps.ite
    | with_reducible intro _
    | split
    | with_reducible refine Keeps.pair (by assumption) ?_
    | dsimp only

theorem State.resteer_keeps (s : State) (o i : Nat) : Keeps s (State.resteer s o i) := by
  unfold State.resteer
  try dsimp only
  repeat' first
    | with_reducible exact .refl _
    | with_reducible assumption
    | with_reducible apply Keeps.when
    | ((with_reducible apply Keeps.afterT (State.bump_touches _ _ _)); · rfl)
    | with_reducible apply Keeps.after (State.write_keeps _ _ _)
    | with_reducible apply Keeps.after (State.allocService_keeps _ _ _)
    | ((with_reducible apply Keeps.afterPair (State.allocService_keeps _ _ _)); · assumption)
    | with_reducible apply Keeps.after (State.freeBuffer_keeps _ _)
    | ((with_reducible apply Keeps.afterT (State.lookup_touches _ _ _ _)); · rfl)
    | ((with_reducible apply Keeps.afterPairT (State.lookup_touches _ _ _ _)); (· assumption); (· rfl))
    | ((with_reducible apply Keeps.afterT (State.noRoute_touches _ _ _ _)); · rfl)
    | with_reducible apply Keeps.after (State.sendWait_keeps _ _)
    | ((with_reducible apply Keeps.afterT (State.extract_touches _ _)); · rfl)
    | with_reducible apply Keeps.after (State.giveUp_keeps _ _)
    | with_reducible apply Keeps.ite
    | with_reducible intro _
    | split
    | with_reducible refine Keeps.pair (by assumption) ?_
    | dsimp only

theorem execResteerFrame_keeps (o : Stall) (flight : Nat) (s : State) : StepKeeps s (execResteerFrame o
    flight s) := by
  unfold execResteerFrame
  try dsimp only
  repeat' first
    | with_reducible apply Keeps.ofNext
    | with_reducible exact .refl _
    | with_reducible assumption
    | with_reducible apply Keeps.after (State.resteer_keeps _ _ _)
    | with_reducible intro _
    | with_reducible refine Keeps.pair (by assumption) ?_
    | dsimp only

end Sys2Proof.Machine
end

