-- ==== Sys2Proof/Laws/TouchTime.lean ====
section
/-! SUPPORT. Which parts of the state each operation of Machine/Time.lean changes. -/

namespace Sys2Proof.Machine

theorem State.trackTb3_touches (s : State) : OnlyTouches [.time] s (State.trackTb3 s) := by
  unfold State.trackTb3
  try dsimp only
  repeat' first
    | with_reducible exact .refl _ _
    | with_reducible assumption
    | with_reducible apply OnlyTouches.ite
    | with_reducible intro _
    | split
    | (with_reducible apply OnlyTouches.put_time; · decide)

theorem State.setRate_touches (s : State) (r : Int) : OnlyTouches [.time] s (State.setRate s r) := by
  unfold State.setRate
  try dsimp only
  repeat' first
    | with_reducible exact .refl _ _
    | with_reducible assumption
    | with_reducible intro _
    | (with_reducible apply OnlyTouches.put_time; · decide)
    | with_reducible refine OnlyTouches.pair (by assumption) ?_
    | dsimp only

theorem State.countBandTime_touches (s : State) (ns : Nat) : OnlyTouches [.objs] s (State.countBandTime s
    ns) := by
  unfold State.countBandTime
  try dsimp only
  repeat' first
    | with_reducible exact .refl _ _
    | with_reducible assumption
    | with_reducible apply OnlyTouches.fold
    | with_reducible apply OnlyTouches.foldPair
    | (with_reducible apply OnlyTouches.after (State.bump_touches _ _ _); · decide)
    | with_reducible intro _

theorem State.runBases_touches (s : State) (osc : Nat) : OnlyTouches [.objs, .time, .ledger] s
    (State.runBases s osc) := by
  unfold State.runBases
  try dsimp only
  repeat' first
    | with_reducible exact .refl _ _
    | with_reducible assumption
    | (with_reducible apply OnlyTouches.after (State.countAll_touches _ _ _); · decide)
    | (with_reducible apply OnlyTouches.after (State.trackTb3_touches _); · decide)
    | (with_reducible apply OnlyTouches.after (State.countBandTime_touches _ _); · decide)
    | with_reducible apply OnlyTouches.ite
    | with_reducible intro _
    | split
    | (with_reducible apply OnlyTouches.put_time; · decide)
    | with_reducible refine OnlyTouches.pair (by assumption) ?_
    | dsimp only

theorem State.clockTick_touches (s : State) : OnlyTouches [.objs, .time, .ledger] s (State.clockTick s) :=
    by
  unfold State.clockTick
  try dsimp only
  repeat' first
    | with_reducible exact .refl _ _
    | with_reducible assumption
    | (with_reducible apply OnlyTouches.after (State.runBases_touches _ _); · decide)
    | with_reducible apply OnlyTouches.ite
    | with_reducible intro _
    | split

theorem State.runToBoundary_touches (s : State) : OnlyTouches [.objs, .time, .ledger] s
    (State.runToBoundary s) := by
  unfold State.runToBoundary
  try dsimp only
  repeat' first
    | with_reducible exact .refl _ _
    | with_reducible assumption
    | (with_reducible apply OnlyTouches.after (State.runBases_touches _ _); · decide)
    | with_reducible apply OnlyTouches.ite
    | with_reducible intro _
    | split
    | (with_reducible apply OnlyTouches.put_time; · decide)

theorem State.stepTb0_touches (s : State) (offset16 : Int) : OnlyTouches [.time] s (State.stepTb0 s
    offset16) := by
  unfold State.stepTb0
  try dsimp only
  repeat' first
    | with_reducible exact .refl _ _
    | with_reducible assumption
    | with_reducible apply OnlyTouches.ite
    | with_reducible intro _
    | split
    | (with_reducible apply OnlyTouches.put_time; · decide)

theorem State.applyStep_touches (s : State) : OnlyTouches [.time] s (State.applyStep s) := by
  unfold State.applyStep
  try dsimp only
  repeat' first
    | with_reducible exact .refl _ _
    | with_reducible assumption
    | (with_reducible apply OnlyTouches.after (State.stepTb0_touches _ _); · decide)
    | with_reducible apply OnlyTouches.ite
    | with_reducible intro _
    | split
    | (with_reducible apply OnlyTouches.put_time; · decide)
    | with_reducible refine OnlyTouches.pair (by assumption) ?_
    | dsimp only

theorem State.ringTime_touches (s : State) : OnlyTouches [.objs, .time, .ledger] s (State.ringTime s) := by
  unfold State.ringTime
  try dsimp only
  repeat' first
    | with_reducible exact .refl _ _
    | with_reducible assumption
    | (with_reducible apply OnlyTouches.after (State.runToBoundary_touches _); · decide)
    | (with_reducible apply OnlyTouches.after (State.applyStep_touches _); · decide)
    | with_reducible apply OnlyTouches.ite
    | with_reducible intro _
    | split
    | (with_reducible apply OnlyTouches.put_time; · decide)

theorem State.writeTb2_touches (s : State) (ns : Nat) : OnlyTouches [.time] s (State.writeTb2 s ns) := by
  unfold State.writeTb2
  try dsimp only
  repeat' first
    | with_reducible exact .refl _ _
    | with_reducible assumption
    | with_reducible intro _
    | (with_reducible apply OnlyTouches.put_time; · decide)

theorem State.parentLost_touches (s : State) : OnlyTouches [.time] s (State.parentLost s) := by
  unfold State.parentLost
  try dsimp only
  repeat' first
    | with_reducible exact .refl _ _
    | with_reducible assumption
    | (with_reducible apply OnlyTouches.after (State.trackTb3_touches _); · decide)
    | (with_reducible apply OnlyTouches.after (State.setRate_touches _ _); · decide)
    | with_reducible intro _
    | split
    | (with_reducible apply OnlyTouches.put_time; · decide)
    | with_reducible refine OnlyTouches.pair (by assumption) ?_
    | dsimp only

theorem State.selectParent_touches (s : State) : OnlyTouches [.time] s (State.selectParent s) := by
  unfold State.selectParent
  try dsimp only
  repeat' first
    | with_reducible exact .refl _ _
    | with_reducible assumption
    | (with_reducible apply OnlyTouches.after (State.parentLost_touches _); · decide)
    | with_reducible apply OnlyTouches.ite
    | with_reducible intro _
    | split
    | (with_reducible apply OnlyTouches.put_time; · decide)

theorem State.announce_touches (s : State) (port : Nat) (m : PtpMsg) : OnlyTouches [.time] s
    (State.announce s port m) := by
  unfold State.announce
  try dsimp only
  repeat' first
    | with_reducible exact .refl _ _
    | with_reducible assumption
    | (with_reducible apply OnlyTouches.after (State.selectParent_touches _); · decide)
    | with_reducible apply OnlyTouches.ite
    | with_reducible intro _
    | split
    | (with_reducible apply OnlyTouches.put_time; · decide)
    | with_reducible refine OnlyTouches.pair (by assumption) ?_
    | dsimp only

theorem State.mastersGone_touches (s : State) (port : Nat) : OnlyTouches [.time] s (State.mastersGone s
    port) := by
  unfold State.mastersGone
  try dsimp only
  repeat' first
    | with_reducible exact .refl _ _
    | with_reducible assumption
    | (with_reducible apply OnlyTouches.after (State.selectParent_touches _); · decide)
    | with_reducible apply OnlyTouches.ite
    | with_reducible intro _
    | split
    | (with_reducible apply OnlyTouches.put_time; · decide)

theorem State.adjustRate_touches (s : State) (offset : Int) : OnlyTouches [.time, .free] s
    (State.adjustRate s offset) := by
  unfold State.adjustRate
  try dsimp only
  repeat' first
    | with_reducible exact .refl _ _
    | with_reducible assumption
    | (with_reducible apply OnlyTouches.after (State.draw_touches _); · decide)
    | (with_reducible apply OnlyTouches.after (State.setRate_touches _ _); · decide)
    | with_reducible apply OnlyTouches.ite
    | with_reducible intro _
    | split
    | with_reducible refine OnlyTouches.pair (by assumption) ?_
    | dsimp only

theorem State.lock_touches (s : State) : OnlyTouches [.power, .time] s (State.lock s) := by
  unfold State.lock
  try dsimp only
  repeat' first
    | with_reducible exact .refl _ _
    | with_reducible assumption
    | (with_reducible apply OnlyTouches.after (State.dropAlert_touches _ _); · decide)
    | with_reducible apply OnlyTouches.ite
    | with_reducible intro _
    | split
    | (with_reducible apply OnlyTouches.put_time; · decide)
    | with_reducible refine OnlyTouches.pair (by assumption) ?_
    | dsimp only

theorem State.countLock_touches (s : State) (offset : Int) : OnlyTouches [.power, .time] s (State.countLock
    s offset) := by
  unfold State.countLock
  try dsimp only
  repeat' first
    | with_reducible exact .refl _ _
    | with_reducible assumption
    | (with_reducible apply OnlyTouches.after (State.lock_touches _); · decide)
    | with_reducible apply OnlyTouches.ite
    | with_reducible intro _
    | split
    | (with_reducible apply OnlyTouches.put_time; · decide)
    | with_reducible refine OnlyTouches.pair (by assumption) ?_
    | dsimp only

theorem State.takeOffset_touches (s : State) (offset : Int) : OnlyTouches [.power, .time, .free] s
    (State.takeOffset s offset) := by
  unfold State.takeOffset
  try dsimp only
  repeat' first
    | with_reducible exact .refl _ _
    | with_reducible assumption
    | (with_reducible apply OnlyTouches.after (State.setRate_touches _ _); · decide)
    | (with_reducible apply OnlyTouches.after (State.stepTb0_touches _ _); · decide)
    | (with_reducible apply OnlyTouches.after (State.adjustRate_touches _ _); · decide)
    | (with_reducible apply OnlyTouches.after (State.countLock_touches _ _); · decide)
    | with_reducible apply OnlyTouches.ite
    | with_reducible intro _
    | split
    | (with_reducible apply OnlyTouches.put_time; · decide)
    | with_reducible refine OnlyTouches.pair (by assumption) ?_
    | dsimp only

theorem State.syncDone_touches (s : State) (port : Nat) (ms : Int) : OnlyTouches [.power, .time, .free] s
    (State.syncDone s port ms) := by
  unfold State.syncDone
  try dsimp only
  repeat' first
    | with_reducible exact .refl _ _
    | with_reducible assumption
    | (with_reducible apply OnlyTouches.after (State.takeOffset_touches _ _); · decide)
    | with_reducible intro _
    | split
    | (with_reducible apply OnlyTouches.put_time; · decide)
    | with_reducible refine OnlyTouches.pair (by assumption) ?_
    | dsimp only

theorem State.putPathDelay_touches (s : State) (port : Nat) (d : Int) : OnlyTouches [.time] s
    (State.putPathDelay s port d) := by
  unfold State.putPathDelay
  try dsimp only
  repeat' first
    | with_reducible exact .refl _ _
    | with_reducible assumption
    | with_reducible intro _
    | (with_reducible apply OnlyTouches.put_time; · decide)

theorem State.ptpLeaves_touches (s : State) (port : Nat) (mapping : Option Nat) (bs : List Byte) :
    OnlyTouches [.objs, .time, .out] s (State.ptpLeaves s port mapping bs) := by
  unfold State.ptpLeaves
  try dsimp only
  repeat' first
    | with_reducible exact .refl _ _
    | with_reducible assumption
    | (with_reducible apply OnlyTouches.after (State.drop_touches _ _ _); · decide)
    | with_reducible apply OnlyTouches.ite
    | with_reducible intro _
    | split
    | (with_reducible apply OnlyTouches.put_time; · decide)
    | (with_reducible apply OnlyTouches.put_out; · decide)
    | (with_reducible apply OnlyTouches.put_time_out; (· decide); (· decide))
    | with_reducible refine OnlyTouches.pair (by assumption) ?_
    | dsimp only

theorem State.sendPtp_touches (s : State) (port : Nat) (m : PtpMsg) : OnlyTouches [.objs, .time, .ports,
    .free, .out] s (State.sendPtp s port m) := by
  unfold State.sendPtp
  try dsimp only
  repeat' first
    | with_reducible exact .refl _ _
    | with_reducible assumption
    | (with_reducible apply OnlyTouches.after (State.bump_touches _ _ _); · decide)
    | (with_reducible apply OnlyTouches.after (State.draw_touches _); · decide)
    | (with_reducible apply OnlyTouches.after (State.modPort_touches _ _ _); · decide)
    | (with_reducible apply OnlyTouches.after (State.announce_touches _ _ _); · decide)
    | (with_reducible apply OnlyTouches.after (State.ptpLeaves_touches _ _ _ _); · decide)
    | with_reducible apply OnlyTouches.ite
    | with_reducible intro _
    | split
    | with_reducible refine OnlyTouches.pair (by assumption) ?_
    | dsimp only

theorem State.ptpAnswer_touches (s : State) (port : Nat) (k : PtpKind) (m : PtpMsg) (stamp : Int) :
    OnlyTouches [.objs, .time, .ports, .free, .out] s (State.ptpAnswer s port k m stamp) := by
  unfold State.ptpAnswer
  try dsimp only
  repeat' first
    | with_reducible exact .refl _ _
    | with_reducible assumption
    | (with_reducible apply OnlyTouches.after (State.sendPtp_touches _ _ _); · decide)
    | with_reducible intro _

theorem State.takePtp_touches (s : State) (port : Nat) (m : PtpMsg) (raw : Int) : OnlyTouches [.objs,
    .power, .time, .ports, .free, .out] s (State.takePtp s port m raw) := by
  unfold State.takePtp
  try dsimp only
  repeat' first
    | with_reducible exact .refl _ _
    | with_reducible assumption
    | (with_reducible apply OnlyTouches.after (State.announce_touches _ _ _); · decide)
    | (with_reducible apply OnlyTouches.after (State.syncDone_touches _ _ _); · decide)
    | (with_reducible apply OnlyTouches.after (State.putPathDelay_touches _ _ _); · decide)
    | (with_reducible apply OnlyTouches.after (State.ptpAnswer_touches _ _ _ _ _); · decide)
    | with_reducible apply OnlyTouches.ite
    | with_reducible intro _
    | split
    | (with_reducible apply OnlyTouches.put_time; · decide)
    | with_reducible refine OnlyTouches.pair (by assumption) ?_
    | dsimp only

theorem execPtpMessage_touches (port : Fin 1026) (msg : PtpMsg) (stamp : Int) (s : State) : StepTouches
    [.objs, .power, .time, .ports, .free, .out] s (execPtpMessage port msg stamp s) := by
  unfold execPtpMessage
  try dsimp only
  repeat' first
    | with_reducible apply OnlyTouches.ofNext
    | with_reducible exact .refl _ _
    | with_reducible assumption
    | (with_reducible apply OnlyTouches.after (State.takePtp_touches _ _ _ _); · decide)
    | with_reducible apply OnlyTouches.ite
    | with_reducible apply OnlyTouches.iteStep
    | with_reducible intro _
    | split

theorem execAnnounceTimeout_touches (s : State) : StepTouches [.time] s (execAnnounceTimeout s) := by
  unfold execAnnounceTimeout
  try dsimp only
  repeat' first
    | with_reducible apply OnlyTouches.ofNext
    | with_reducible exact .refl _ _
    | with_reducible assumption
    | (with_reducible apply OnlyTouches.after (State.selectParent_touches _); · decide)
    | with_reducible apply OnlyTouches.ite
    | with_reducible apply OnlyTouches.iteStep
    | with_reducible intro _
    | split

theorem execHoldoverExceeded_touches (s : State) : StepTouches [.objs, .power, .time, .dict, .host] s
    (execHoldoverExceeded s) := by
  unfold execHoldoverExceeded
  try dsimp only
  repeat' first
    | with_reducible apply OnlyTouches.ofNext
    | with_reducible exact .refl _ _
    | with_reducible assumption
    | (with_reducible apply OnlyTouches.after (State.holdAlert_touches _ _); · decide)
    | (with_reducible apply OnlyTouches.after (State.eventAt_touches _ _ _ _ _); · decide)
    | with_reducible apply OnlyTouches.ite
    | with_reducible apply OnlyTouches.iteStep
    | with_reducible intro _
    | split
    | (with_reducible apply OnlyTouches.put_time; · decide)
    | with_reducible refine OnlyTouches.pair (by assumption) ?_
    | dsimp only

theorem State.followed_touches (s : State) (port : Nat) (k : PtpKind) : OnlyTouches [.time] s
    (State.followed s port k) := by
  unfold State.followed
  try dsimp only
  repeat' first
    | with_reducible exact .refl _ _
    | with_reducible assumption
    | with_reducible intro _
    | split
    | (with_reducible apply OnlyTouches.put_time; · decide)

theorem execPtpTransmit_touches (port : Fin 1026) (kind : PtpKind) (s : State) : StepTouches [.objs, .time,
    .ports, .free, .out] s (execPtpTransmit port kind s) := by
  unfold execPtpTransmit
  try dsimp only
  repeat' first
    | with_reducible apply OnlyTouches.ofNext
    | with_reducible exact .refl _ _
    | with_reducible assumption
    | (with_reducible apply OnlyTouches.after (State.sendPtp_touches _ _ _); · decide)
    | (with_reducible apply OnlyTouches.after (State.followed_touches _ _ _); · decide)
    | with_reducible apply OnlyTouches.ite
    | with_reducible apply OnlyTouches.iteStep
    | with_reducible intro _
    | split
    | (with_reducible apply OnlyTouches.put_time; · decide)
    | with_reducible refine OnlyTouches.pair (by assumption) ?_
    | dsimp only

theorem State.setPulse_touches (s : State) (k : Nat) (x : Pulse) : OnlyTouches [.time] s (State.setPulse s
    k x) := by
  unfold State.setPulse
  try dsimp only
  repeat' first
    | with_reducible exact .refl _ _
    | with_reducible assumption
    | with_reducible intro _
    | (with_reducible apply OnlyTouches.put_time; · decide)

theorem State.firePulse_touches (s : State) (k : Nat) : OnlyTouches [.time] s (State.firePulse s k) := by
  unfold State.firePulse
  try dsimp only
  repeat' first
    | with_reducible exact .refl _ _
    | with_reducible assumption
    | (with_reducible apply OnlyTouches.after (State.setPulse_touches _ _ _); · decide)
    | with_reducible intro _
    | with_reducible refine OnlyTouches.pair (by assumption) ?_
    | dsimp only

theorem execPulseFire_touches (k : Fin 4) (s : State) : StepTouches [.objs, .time, .ledger] s
    (execPulseFire k s) := by
  unfold execPulseFire
  try dsimp only
  repeat' first
    | with_reducible apply OnlyTouches.ofNext
    | with_reducible exact .refl _ _
    | with_reducible assumption
    | (with_reducible apply OnlyTouches.after (State.runBases_touches _ _); · decide)
    | (with_reducible apply OnlyTouches.after (State.firePulse_touches _ _); · decide)
    | with_reducible apply OnlyTouches.ite
    | with_reducible apply OnlyTouches.iteStep
    | with_reducible intro _
    | split
    | with_reducible refine OnlyTouches.pair (by assumption) ?_
    | dsimp only

theorem execPulseWidthEnd_touches (k : Fin 4) (s : State) : StepTouches [.objs, .time, .ledger] s
    (execPulseWidthEnd k s) := by
  unfold execPulseWidthEnd
  try dsimp only
  repeat' first
    | with_reducible apply OnlyTouches.ofNext
    | with_reducible exact .refl _ _
    | with_reducible assumption
    | (with_reducible apply OnlyTouches.after (State.runBases_touches _ _); · decide)
    | (with_reducible apply OnlyTouches.after (State.setPulse_touches _ _ _); · decide)
    | with_reducible apply OnlyTouches.ite
    | with_reducible apply OnlyTouches.iteStep
    | with_reducible intro _
    | split

theorem State.missPulse_touches (s : State) (k : Nat) : OnlyTouches [.objs, .dict, .host] s
    (State.missPulse s k) := by
  unfold State.missPulse
  try dsimp only
  repeat' first
    | with_reducible exact .refl _ _
    | with_reducible assumption
    | (with_reducible apply OnlyTouches.after (State.putObj_touches _ _ _); · decide)
    | (with_reducible apply OnlyTouches.after (State.eventObj_touches _ _ _ _); · decide)
    | with_reducible apply OnlyTouches.ite
    | with_reducible intro _
    | split
    | with_reducible refine OnlyTouches.pair (by assumption) ?_
    | dsimp only

theorem State.pulseProgrammed_touches (s : State) (k : Nat) : OnlyTouches [.objs, .time, .dict, .host] s
    (State.pulseProgrammed s k) := by
  unfold State.pulseProgrammed
  try dsimp only
  repeat' first
    | with_reducible exact .refl _ _
    | with_reducible assumption
    | (with_reducible apply OnlyTouches.after (State.setPulse_touches _ _ _); · decide)
    | (with_reducible apply OnlyTouches.after (State.missPulse_touches _ _); · decide)
    | with_reducible apply OnlyTouches.ite
    | with_reducible intro _
    | split
    | with_reducible refine OnlyTouches.pair (by assumption) ?_
    | dsimp only

theorem State.pulseBoundary_touches (s : State) (k : Nat) : OnlyTouches [.objs, .time, .dict, .host] s
    (State.pulseBoundary s k) := by
  unfold State.pulseBoundary
  try dsimp only
  repeat' first
    | with_reducible exact .refl _ _
    | with_reducible assumption
    | (with_reducible apply OnlyTouches.after (State.setPulse_touches _ _ _); · decide)
    | (with_reducible apply OnlyTouches.after (State.missPulse_touches _ _); · decide)
    | with_reducible apply OnlyTouches.ite
    | with_reducible intro _
    | split

theorem State.setTin_touches (s : State) (j : Nat) (x : TimeInput) : OnlyTouches [.time] s (State.setTin s
    j x) := by
  unfold State.setTin
  try dsimp only
  repeat' first
    | with_reducible exact .refl _ _
    | with_reducible assumption
    | with_reducible intro _
    | (with_reducible apply OnlyTouches.put_time; · decide)

theorem execTinEdge_touches (j : Fin 2) (s : State) : StepTouches [.time] s (execTinEdge j s) := by
  unfold execTinEdge
  try dsimp only
  repeat' first
    | with_reducible apply OnlyTouches.ofNext
    | with_reducible exact .refl _ _
    | with_reducible assumption
    | (with_reducible apply OnlyTouches.after (State.setTin_touches _ _ _); · decide)
    | with_reducible apply OnlyTouches.ite
    | with_reducible apply OnlyTouches.iteStep
    | with_reducible intro _
    | split
    | with_reducible refine OnlyTouches.pair (by assumption) ?_
    | dsimp only

theorem State.tinPop_touches (s : State) (j : Nat) : OnlyTouches [.objs, .time] s (State.tinPop s j) := by
  unfold State.tinPop
  try dsimp only
  repeat' first
    | with_reducible exact .refl _ _
    | with_reducible assumption
    | (with_reducible apply OnlyTouches.after (State.drop_touches _ _ _); · decide)
    | (with_reducible apply OnlyTouches.after (State.setTin_touches _ _ _); · decide)
    | with_reducible intro _
    | with_reducible refine OnlyTouches.pair (by assumption) ?_
    | dsimp only

end Sys2Proof.Machine
end

