-- ==== Sys2Proof/Laws/KeepTime.lean ====
section
/-! SUPPORT. The operations of Machine/Time.lean keep the invariant. -/

namespace Sys2Proof.Machine

theorem State.lock_keeps (s : State) : Keeps s (State.lock s) := by
  unfold State.lock
  try dsimp only
  repeat' first
    | with_reducible exact .refl _
    | with_reducible assumption
    | with_reducible apply Keeps.after (State.dropAlert_keeps _ _)
    | with_reducible apply Keeps.ite
    | with_reducible intro _
    | split
    | with_reducible apply Keeps.put_time
    | with_reducible refine Keeps.pair (by assumption) ?_
    | dsimp only

theorem State.countLock_keeps (s : State) (offset : Int) : Keeps s (State.countLock s offset) := by
  unfold State.countLock
  try dsimp only
  repeat' first
    | with_reducible exact .refl _
    | with_reducible assumption
    | with_reducible apply Keeps.after (State.lock_keeps _)
    | with_reducible apply Keeps.ite
    | with_reducible intro _
    | split
    | with_reducible apply Keeps.put_time
    | with_reducible refine Keeps.pair (by assumption) ?_
    | dsimp only

theorem State.takeOffset_keeps (s : State) (offset : Int) : Keeps s (State.takeOffset s offset) := by
  unfold State.takeOffset
  try dsimp only
  repeat' first
    | with_reducible exact .refl _
    | with_reducible assumption
    | ((with_reducible apply Keeps.afterT (State.setRate_touches _ _)); · rfl)
    | ((with_reducible apply Keeps.afterT (State.stepTb0_touches _ _)); · rfl)
    | ((with_reducible apply Keeps.afterT (State.adjustRate_touches _ _)); · rfl)
    | with_reducible apply Keeps.after (State.countLock_keeps _ _)
    | with_reducible apply Keeps.ite
    | with_reducible intro _
    | split
    | with_reducible apply Keeps.put_time
    | with_reducible refine Keeps.pair (by assumption) ?_
    | dsimp only

theorem State.syncDone_keeps (s : State) (port : Nat) (ms : Int) : Keeps s (State.syncDone s port ms) := by
  unfold State.syncDone
  try dsimp only
  repeat' first
    | with_reducible exact .refl _
    | with_reducible assumption
    | with_reducible apply Keeps.after (State.takeOffset_keeps _ _)
    | with_reducible intro _
    | split
    | with_reducible apply Keeps.put_time
    | with_reducible refine Keeps.pair (by assumption) ?_
    | dsimp only

theorem State.takePtp_keeps (s : State) (port : Nat) (m : PtpMsg) (raw : Int) : Keeps s (State.takePtp s
    port m raw) := by
  unfold State.takePtp
  try dsimp only
  repeat' first
    | with_reducible exact .refl _
    | with_reducible assumption
    | ((with_reducible apply Keeps.afterT (State.announce_touches _ _ _)); · rfl)
    | with_reducible apply Keeps.after (State.syncDone_keeps _ _ _)
    | ((with_reducible apply Keeps.afterT (State.putPathDelay_touches _ _ _)); · rfl)
    | ((with_reducible apply Keeps.afterT (State.ptpAnswer_touches _ _ _ _ _)); · rfl)
    | with_reducible apply Keeps.ite
    | with_reducible intro _
    | split
    | with_reducible apply Keeps.put_time
    | with_reducible refine Keeps.pair (by assumption) ?_
    | dsimp only

theorem execPtpMessage_keeps (port : Fin 1026) (msg : PtpMsg) (stamp : Int) (s : State) : StepKeeps s
    (execPtpMessage port msg stamp s) := by
  unfold execPtpMessage
  try dsimp only
  repeat' first
    | with_reducible apply Keeps.ofNext
    | with_reducible exact .refl _
    | with_reducible assumption
    | with_reducible apply Keeps.after (State.takePtp_keeps _ _ _ _)
    | with_reducible apply Keeps.ite
    | with_reducible apply Keeps.iteStep
    | with_reducible intro _
    | split

theorem execHoldoverExceeded_keeps (s : State) : StepKeeps s (execHoldoverExceeded s) := by
  unfold execHoldoverExceeded
  try dsimp only
  repeat' first
    | with_reducible apply Keeps.ofNext
    | with_reducible exact .refl _
    | with_reducible assumption
    | with_reducible apply Keeps.after (State.holdAlert_keeps _ _)
    | with_reducible apply Keeps.after (State.eventAt_keeps _ _ _ _ _)
    | with_reducible apply Keeps.ite
    | with_reducible apply Keeps.iteStep
    | with_reducible intro _
    | split
    | with_reducible apply Keeps.put_time
    | with_reducible refine Keeps.pair (by assumption) ?_
    | dsimp only

theorem State.missPulse_keeps (s : State) (k : Nat) : Keeps s (State.missPulse s k) := by
  unfold State.missPulse
  try dsimp only
  repeat' first
    | with_reducible exact .refl _
    | with_reducible assumption
    | ((with_reducible apply Keeps.afterT (State.putObj_touches _ _ _)); · rfl)
    | with_reducible apply Keeps.after (State.eventObj_keeps _ _ _ _)
    | with_reducible apply Keeps.ite
    | with_reducible intro _
    | split
    | with_reducible refine Keeps.pair (by assumption) ?_
    | dsimp only

theorem State.pulseProgrammed_keeps (s : State) (k : Nat) : Keeps s (State.pulseProgrammed s k) := by
  unfold State.pulseProgrammed
  try dsimp only
  repeat' first
    | with_reducible exact .refl _
    | with_reducible assumption
    | ((with_reducible apply Keeps.afterT (State.setPulse_touches _ _ _)); · rfl)
    | with_reducible apply Keeps.after (State.missPulse_keeps _ _)
    | with_reducible apply Keeps.ite
    | with_reducible intro _
    | split
    | with_reducible refine Keeps.pair (by assumption) ?_
    | dsimp only

theorem State.pulseBoundary_keeps (s : State) (k : Nat) : Keeps s (State.pulseBoundary s k) := by
  unfold State.pulseBoundary
  try dsimp only
  repeat' first
    | with_reducible exact .refl _
    | with_reducible assumption
    | ((with_reducible apply Keeps.afterT (State.setPulse_touches _ _ _)); · rfl)
    | with_reducible apply Keeps.after (State.missPulse_keeps _ _)
    | with_reducible apply Keeps.ite
    | with_reducible intro _
    | split

end Sys2Proof.Machine
end

