-- ==== Sys2Proof/Laws/TouchLink.lean ====
section
/-! SUPPORT. Which parts of the state each operation of Machine/Link.lean changes. -/

namespace Sys2Proof.Machine

theorem State.cancelRemaps_touches (s : State) (ports : List Nat) (pos : Nat) : OnlyTouches [.objs, .lanes,
    .remaps, .dict, .host] s (State.cancelRemaps s ports pos) := by
  unfold State.cancelRemaps
  try dsimp only
  repeat' first
    | with_reducible exact .refl _ _
    | with_reducible assumption
    | with_reducible apply OnlyTouches.fold
    | with_reducible apply OnlyTouches.foldPair
    | (with_reducible apply OnlyTouches.after (State.endFailedAt_touches _ _ _ _); · decide)
    | with_reducible intro _
    | split
    | (with_reducible apply OnlyTouches.put_lanes; · decide)
    | (with_reducible apply OnlyTouches.put_remaps; · decide)

theorem State.loseFrames_touches (s : State) (o : Obj) (p : Nat) (fs : List Frame) : OnlyTouches [.objs,
    .ledger] s (State.loseFrames s o p fs) := by
  unfold State.loseFrames
  try dsimp only
  repeat' first
    | with_reducible exact .refl _ _
    | with_reducible assumption
    | with_reducible apply OnlyTouches.fold
    | with_reducible apply OnlyTouches.foldPair
    | (with_reducible apply OnlyTouches.after (State.bump_touches _ _ _); · decide)
    | (with_reducible apply OnlyTouches.after (State.dropped_touches _ _ _ _); · decide)
    | with_reducible intro _
    | with_reducible refine OnlyTouches.pair (by assumption) ?_
    | dsimp only

theorem State.discardCopies_touches (s : State) (p : Nat) : OnlyTouches [.objs, .ports, .switch, .coll,
    .mem, .ledger, .dict, .host] s (State.discardCopies s p) := by
  unfold State.discardCopies
  try dsimp only
  repeat' first
    | with_reducible exact .refl _ _
    | with_reducible assumption
    | with_reducible apply OnlyTouches.fold
    | with_reducible apply OnlyTouches.foldPair
    | (with_reducible apply OnlyTouches.after (State.setPort_touches _ _ _); · decide)
    | (with_reducible apply OnlyTouches.after (State.settle_touches _ _); · decide)
    | (with_reducible apply OnlyTouches.after (State.extract_touches _ _); · decide)
    | (with_reducible apply OnlyTouches.after (State.giveUp_touches _ _); · decide)
    | (with_reducible apply OnlyTouches.after (State.loseFrames_touches _ _ _ _); · decide)
    | with_reducible apply OnlyTouches.ite
    | with_reducible intro _
    | split
    | with_reducible refine OnlyTouches.pair (by assumption) ?_
    | dsimp only

theorem State.cutSending_touches (s : State) (p : Nat) : OnlyTouches [.objs, .ports, .switch, .coll, .mem,
    .dict, .host] s (State.cutSending s p) := by
  unfold State.cutSending
  try dsimp only
  repeat' first
    | with_reducible exact .refl _ _
    | with_reducible assumption
    | (with_reducible apply OnlyTouches.after (State.modPort_touches _ _ _); · decide)
    | (with_reducible apply OnlyTouches.after (State.settle_touches _ _); · decide)
    | (with_reducible apply OnlyTouches.after (State.extract_touches _ _); · decide)
    | (with_reducible apply OnlyTouches.after (State.giveUp_touches _ _); · decide)
    | with_reducible intro _
    | split
    | with_reducible refine OnlyTouches.pair (by assumption) ?_
    | dsimp only

theorem State.runnerFill_touches (s : State) (low : Nat) : OnlyTouches [.ports] s (State.runnerFill s low)
    := by
  unfold State.runnerFill
  try dsimp only
  repeat' first
    | with_reducible exact .refl _ _
    | with_reducible assumption
    | (with_reducible apply OnlyTouches.after (State.setPort_touches _ _ _); · decide)
    | with_reducible intro _
    | with_reducible refine OnlyTouches.pair (by assumption) ?_
    | dsimp only

theorem State.portDown_touches (s : State) (low : Nat) : OnlyTouches [.objs, .time, .lanes, .remaps,
    .ports, .switch, .coll, .mem, .ledger, .dict, .host] s (State.portDown s low) := by
  unfold State.portDown
  try dsimp only
  repeat' first
    | with_reducible exact .refl _ _
    | with_reducible assumption
    | (with_reducible apply OnlyTouches.after (State.modPort_touches _ _ _); · decide)
    | (with_reducible apply OnlyTouches.after (State.unspray_touches _ _); · decide)
    | (with_reducible apply OnlyTouches.after (State.deliverAll_touches _); · decide)
    | (with_reducible apply OnlyTouches.after (State.mastersGone_touches _ _); · decide)
    | (with_reducible apply OnlyTouches.after (State.cancelRemaps_touches _ _ _); · decide)
    | (with_reducible apply OnlyTouches.after (State.loseFrames_touches _ _ _ _); · decide)
    | (with_reducible apply OnlyTouches.after (State.discardCopies_touches _ _); · decide)
    | (with_reducible apply OnlyTouches.after (State.cutSending_touches _ _); · decide)
    | with_reducible apply OnlyTouches.ite
    | with_reducible intro _
    | split
    | with_reducible refine OnlyTouches.pair (by assumption) ?_
    | dsimp only

theorem State.dropOut_touches (s : State) (p : Nat) (st : LinkState) : OnlyTouches [.objs, .time, .lanes,
    .remaps, .ports, .switch, .coll, .mem, .ledger, .dict, .host] s (State.dropOut s p st) := by
  unfold State.dropOut
  try dsimp only
  repeat' first
    | with_reducible exact .refl _ _
    | with_reducible assumption
    | (with_reducible apply OnlyTouches.after (State.modPort_touches _ _ _); · decide)
    | (with_reducible apply OnlyTouches.after (State.cancelRemaps_touches _ _ _); · decide)
    | (with_reducible apply OnlyTouches.after (State.runnerFill_touches _ _); · decide)
    | (with_reducible apply OnlyTouches.after (State.portDown_touches _ _); · decide)
    | with_reducible apply OnlyTouches.ite
    | with_reducible intro _
    | split
    | with_reducible refine OnlyTouches.pair (by assumption) ?_
    | dsimp only

theorem State.dropNext_touches (s : State) (p : Nat) : OnlyTouches [.ports, .ledger] s (State.dropNext s p)
    := by
  unfold State.dropNext
  try dsimp only
  repeat' first
    | with_reducible exact .refl _ _
    | with_reducible assumption
    | (with_reducible apply OnlyTouches.after (State.modPort_touches _ _ _); · decide)
    | (with_reducible apply OnlyTouches.after (State.dropped_touches _ _ _ _); · decide)
    | with_reducible apply OnlyTouches.ite
    | with_reducible intro _
    | split
    | with_reducible refine OnlyTouches.pair (by assumption) ?_
    | dsimp only

theorem State.setLane_touches (s : State) (k : Nat) (x : LaneSt) : OnlyTouches [.lanes] s (State.setLane s
    k x) := by
  unfold State.setLane
  try dsimp only
  repeat' first
    | with_reducible exact .refl _ _
    | with_reducible assumption
    | with_reducible intro _
    | (with_reducible apply OnlyTouches.put_lanes; · decide)

theorem State.modLane_touches (s : State) (k : Nat) (f : LaneSt → LaneSt) : OnlyTouches [.lanes] s
    (State.modLane s k f) := by
  unfold State.modLane
  try dsimp only
  repeat' first
    | with_reducible exact .refl _ _
    | with_reducible assumption
    | (with_reducible apply OnlyTouches.after (State.setLane_touches _ _ _); · decide)
    | with_reducible intro _
    | with_reducible refine OnlyTouches.pair (by assumption) ?_
    | dsimp only

theorem State.retrainLanes_touches (s : State) (p : Nat) : OnlyTouches [.lanes] s (State.retrainLanes s p)
    := by
  unfold State.retrainLanes
  try dsimp only
  repeat' first
    | with_reducible exact .refl _ _
    | with_reducible assumption
    | with_reducible apply OnlyTouches.fold
    | with_reducible apply OnlyTouches.foldPair
    | (with_reducible apply OnlyTouches.after (State.modLane_touches _ _ _); · decide)
    | with_reducible apply OnlyTouches.ite
    | with_reducible intro _
    | split
    | with_reducible refine OnlyTouches.pair (by assumption) ?_
    | dsimp only

theorem State.startRetrain_touches (s : State) (p : Nat) : OnlyTouches [.objs, .lanes, .remaps, .ports,
    .switch, .dict, .host] s (State.startRetrain s p) := by
  unfold State.startRetrain
  try dsimp only
  repeat' first
    | with_reducible exact .refl _ _
    | with_reducible assumption
    | with_reducible apply OnlyTouches.each
    | (with_reducible apply OnlyTouches.after (State.bump_touches _ _ _); · decide)
    | (with_reducible apply OnlyTouches.after (State.setPort_touches _ _ _); · decide)
    | (with_reducible apply OnlyTouches.after (State.unspray_touches _ _); · decide)
    | (with_reducible apply OnlyTouches.after (State.cancelRemaps_touches _ _ _); · decide)
    | (with_reducible apply OnlyTouches.after (State.retrainLanes_touches _ _); · decide)
    | with_reducible apply OnlyTouches.ite
    | with_reducible intro _
    | split
    | with_reducible refine OnlyTouches.pair (by assumption) ?_
    | dsimp only

theorem execFecUncorrectableLimit_touches (p : Port) (s : State) : StepTouches [.objs, .lanes, .remaps,
    .ports, .switch, .dict, .host] s (execFecUncorrectableLimit p s) := by
  unfold execFecUncorrectableLimit
  try dsimp only
  repeat' first
    | with_reducible apply OnlyTouches.ofNext
    | with_reducible exact .refl _ _
    | with_reducible assumption
    | (with_reducible apply OnlyTouches.after (State.startRetrain_touches _ _); · decide)
    | with_reducible apply OnlyTouches.ite
    | with_reducible apply OnlyTouches.iteStep
    | with_reducible intro _
    | split
    | with_reducible refine OnlyTouches.pair (by assumption) ?_
    | dsimp only

theorem execAmLockLoss_touches (p : Port) (s : State) : StepTouches [.objs, .lanes, .remaps, .ports,
    .switch, .dict, .host] s (execAmLockLoss p s) := by
  unfold execAmLockLoss
  try dsimp only
  repeat' first
    | with_reducible apply OnlyTouches.ofNext
    | with_reducible exact .refl _ _
    | with_reducible assumption
    | (with_reducible apply OnlyTouches.after (State.startRetrain_touches _ _); · decide)
    | with_reducible intro _
    | with_reducible refine OnlyTouches.pair (by assumption) ?_
    | dsimp only

theorem execRetrainRequest_touches (p : Port) (s : State) : StepTouches [.objs, .lanes, .remaps, .ports,
    .switch, .dict, .host] s (execRetrainRequest p s) := by
  unfold execRetrainRequest
  try dsimp only
  repeat' first
    | with_reducible apply OnlyTouches.ofNext
    | with_reducible exact .refl _ _
    | with_reducible assumption
    | (with_reducible apply OnlyTouches.after (State.startRetrain_touches _ _); · decide)
    | with_reducible intro _
    | with_reducible refine OnlyTouches.pair (by assumption) ?_
    | dsimp only

theorem State.replayLimit_touches (s : State) (low : Nat) : OnlyTouches [.objs, .lanes, .remaps, .ports,
    .switch, .dict, .host] s (State.replayLimit s low) := by
  unfold State.replayLimit
  try dsimp only
  repeat' first
    | with_reducible exact .refl _ _
    | with_reducible assumption
    | (with_reducible apply OnlyTouches.after (State.startRetrain_touches _ _); · decide)
    | with_reducible apply OnlyTouches.ite
    | with_reducible intro _
    | split
    | with_reducible refine OnlyTouches.pair (by assumption) ?_
    | dsimp only

theorem execReplayLimitReached_touches (p : Port) (s : State) : StepTouches [.objs, .lanes, .remaps,
    .ports, .switch, .dict, .host] s (execReplayLimitReached p s) := by
  unfold execReplayLimitReached
  try dsimp only
  repeat' first
    | with_reducible apply OnlyTouches.ofNext
    | with_reducible exact .refl _ _
    | with_reducible assumption
    | (with_reducible apply OnlyTouches.after (State.replayLimit_touches _ _); · decide)
    | with_reducible intro _
    | with_reducible refine OnlyTouches.pair (by assumption) ?_
    | dsimp only

theorem State.sendLink_touches (s : State) (low : Nat) (f : Frame) : OnlyTouches [.objs, .ports] s
    (State.sendLink s low f) := by
  unfold State.sendLink
  try dsimp only
  repeat' first
    | with_reducible exact .refl _ _
    | with_reducible assumption
    | (with_reducible apply OnlyTouches.after (State.modPort_touches _ _ _); · decide)
    | (with_reducible apply OnlyTouches.after (State.countPass_touches _ _); · decide)
    | with_reducible intro _
    | with_reducible refine OnlyTouches.pair (by assumption) ?_
    | dsimp only

theorem State.linkInit_touches (s : State) (low : Nat) : OnlyTouches [.objs, .ports, .switch, .ledger,
    .free] s (State.linkInit s low) := by
  unfold State.linkInit
  try dsimp only
  repeat' first
    | with_reducible exact .refl _ _
    | with_reducible assumption
    | (with_reducible apply OnlyTouches.after (State.draw_touches _); · decide)
    | (with_reducible apply OnlyTouches.after (State.setPort_touches _ _ _); · decide)
    | (with_reducible apply OnlyTouches.after (State.unspray_touches _ _); · decide)
    | (with_reducible apply OnlyTouches.after (State.loseFrames_touches _ _ _ _); · decide)
    | (with_reducible apply OnlyTouches.after (State.sendLink_touches _ _ _); · decide)
    | with_reducible intro _
    | with_reducible refine OnlyTouches.pair (by assumption) ?_
    | dsimp only

theorem execLinkInit_touches (p : Port) (s : State) : StepTouches [.objs, .ports, .switch, .ledger, .free]
    s (execLinkInit p s) := by
  unfold execLinkInit
  try dsimp only
  repeat' first
    | with_reducible apply OnlyTouches.ofNext
    | with_reducible exact .refl _ _
    | with_reducible assumption
    | (with_reducible apply OnlyTouches.after (State.linkInit_touches _ _); · decide)
    | with_reducible apply OnlyTouches.ite
    | with_reducible apply OnlyTouches.iteStep
    | with_reducible intro _
    | split
    | with_reducible refine OnlyTouches.pair (by assumption) ?_
    | dsimp only

theorem State.beginInit_touches (s : State) (low : Nat) : OnlyTouches [.ports] s (State.beginInit s low) :=
    by
  unfold State.beginInit
  try dsimp only
  repeat' first
    | with_reducible exact .refl _ _
    | with_reducible assumption
    | (with_reducible apply OnlyTouches.after (State.modPort_touches _ _ _); · decide)
    | with_reducible intro _

theorem execOpticalLock_touches (p : Port) (s : State) : StepTouches [.optics, .ports] s (execOpticalLock p
    s) := by
  unfold execOpticalLock
  try dsimp only
  repeat' first
    | with_reducible apply OnlyTouches.ofNext
    | with_reducible exact .refl _ _
    | with_reducible assumption
    | (with_reducible apply OnlyTouches.after (State.modPort_touches _ _ _); · decide)
    | (with_reducible apply OnlyTouches.after (State.modFiber_touches _ _ _); · decide)
    | (with_reducible apply OnlyTouches.after (State.beginInit_touches _ _); · decide)
    | with_reducible apply OnlyTouches.ite
    | with_reducible apply OnlyTouches.iteStep
    | with_reducible intro _
    | split
    | with_reducible refine OnlyTouches.pair (by assumption) ?_
    | dsimp only

theorem State.peerEvent_touches (s : State) (low : Nat) : OnlyTouches [.objs, .dict, .host] s
    (State.peerEvent s low) := by
  unfold State.peerEvent
  try dsimp only
  repeat' first
    | with_reducible exact .refl _ _
    | with_reducible assumption
    | (with_reducible apply OnlyTouches.after (State.eventAt_touches _ _ _ _ _); · decide)
    | with_reducible intro _

theorem State.portsUp_touches (s : State) : OnlyTouches [.power] s (State.portsUp s) := by
  unfold State.portsUp
  try dsimp only
  repeat' first
    | with_reducible exact .refl _ _
    | with_reducible assumption
    | with_reducible apply OnlyTouches.ite
    | with_reducible intro _
    | split
    | (with_reducible apply OnlyTouches.put_power; · decide)
    | with_reducible refine OnlyTouches.pair (by assumption) ?_
    | dsimp only

theorem State.identity_touches (s : State) (low w : Nat) : OnlyTouches [.objs, .power, .optics, .ports,
    .dict, .host] s (State.identity s low w) := by
  unfold State.identity
  try dsimp only
  repeat' first
    | with_reducible exact .refl _ _
    | with_reducible assumption
    | with_reducible apply OnlyTouches.each
    | with_reducible apply OnlyTouches.when
    | (with_reducible apply OnlyTouches.after (State.putObj_touches _ _ _); · decide)
    | (with_reducible apply OnlyTouches.after (State.modPort_touches _ _ _); · decide)
    | (with_reducible apply OnlyTouches.after (State.modFiber_touches _ _ _); · decide)
    | (with_reducible apply OnlyTouches.after (State.peerEvent_touches _ _); · decide)
    | (with_reducible apply OnlyTouches.after (State.portsUp_touches _); · decide)
    | with_reducible apply OnlyTouches.ite
    | with_reducible intro _
    | split
    | with_reducible refine OnlyTouches.pair (by assumption) ?_
    | dsimp only

theorem execIdentityFrame_touches (p : Port) (payload : BitVec 256) (s : State) : StepTouches [.objs,
    .power, .optics, .ports, .dict, .host] s (execIdentityFrame p payload s) := by
  unfold execIdentityFrame
  try dsimp only
  repeat' first
    | with_reducible apply OnlyTouches.ofNext
    | with_reducible exact .refl _ _
    | with_reducible assumption
    | (with_reducible apply OnlyTouches.after (State.identity_touches _ _ _); · decide)
    | with_reducible intro _
    | with_reducible refine OnlyTouches.pair (by assumption) ?_
    | dsimp only

theorem State.comparePeer_touches (s : State) (p : Nat) : OnlyTouches [.objs, .power, .ports, .switch,
    .dict, .host] s (State.comparePeer s p) := by
  unfold State.comparePeer
  try dsimp only
  repeat' first
    | with_reducible exact .refl _ _
    | with_reducible assumption
    | (with_reducible apply OnlyTouches.after (State.setPort_touches _ _ _); · decide)
    | (with_reducible apply OnlyTouches.after (State.unspray_touches _ _); · decide)
    | (with_reducible apply OnlyTouches.after (State.peerEvent_touches _ _); · decide)
    | (with_reducible apply OnlyTouches.after (State.portsUp_touches _); · decide)
    | with_reducible apply OnlyTouches.ite
    | with_reducible intro _
    | split
    | with_reducible refine OnlyTouches.pair (by assumption) ?_
    | dsimp only

theorem execRetrainComplete_touches (p : Port) (s : State) : StepTouches [.power, .ports] s
    (execRetrainComplete p s) := by
  unfold execRetrainComplete
  try dsimp only
  repeat' first
    | with_reducible apply OnlyTouches.ofNext
    | with_reducible exact .refl _ _
    | with_reducible assumption
    | (with_reducible apply OnlyTouches.after (State.setPort_touches _ _ _); · decide)
    | (with_reducible apply OnlyTouches.after (State.beginInit_touches _ _); · decide)
    | (with_reducible apply OnlyTouches.after (State.portsUp_touches _); · decide)
    | with_reducible apply OnlyTouches.ite
    | with_reducible apply OnlyTouches.iteStep
    | with_reducible intro _
    | split
    | with_reducible refine OnlyTouches.pair (by assumption) ?_
    | dsimp only

theorem execRetrainTimeout_touches (p : Port) (s : State) : StepTouches [.objs, .time, .lanes, .remaps,
    .ports, .switch, .coll, .mem, .ledger, .dict, .host] s (execRetrainTimeout p s) := by
  unfold execRetrainTimeout
  try dsimp only
  repeat' first
    | with_reducible apply OnlyTouches.ofNext
    | with_reducible exact .refl _ _
    | with_reducible assumption
    | with_reducible apply OnlyTouches.each
    | (with_reducible apply OnlyTouches.after (State.modPort_touches _ _ _); · decide)
    | (with_reducible apply OnlyTouches.after (State.portDown_touches _ _); · decide)
    | with_reducible apply OnlyTouches.ite
    | with_reducible apply OnlyTouches.iteStep
    | with_reducible intro _
    | split
    | with_reducible refine OnlyTouches.pair (by assumption) ?_
    | dsimp only

theorem State.takeTag_touches (s : State) (low t : Nat) : OnlyTouches [.objs, .lanes, .remaps, .ports,
    .switch, .dict, .host] s (State.takeTag s low t) := by
  unfold State.takeTag
  try dsimp only
  repeat' first
    | with_reducible exact .refl _ _
    | with_reducible assumption
    | (with_reducible apply OnlyTouches.after (State.modPort_touches _ _ _); · decide)
    | (with_reducible apply OnlyTouches.after (State.replayLimit_touches _ _); · decide)
    | with_reducible apply OnlyTouches.ite
    | with_reducible intro _
    | split

theorem State.naks_touches (s : State) (low q : Nat) : OnlyTouches [.objs, .ports] s (State.naks s low q)
    := by
  unfold State.naks
  try dsimp only
  repeat' first
    | with_reducible exact .refl _ _
    | with_reducible assumption
    | (with_reducible apply OnlyTouches.after (State.bump_touches _ _ _); · decide)
    | (with_reducible apply OnlyTouches.after (State.modPort_touches _ _ _); · decide)
    | with_reducible apply OnlyTouches.ite
    | with_reducible intro _
    | split
    | with_reducible refine OnlyTouches.pair (by assumption) ?_
    | dsimp only

theorem State.acceptFrame_touches (s : State) (low : Nat) (f : Frame) : OnlyTouches [.objs, .ports,
    .ledger, .dict, .host] s (State.acceptFrame s low f) := by
  unfold State.acceptFrame
  try dsimp only
  repeat' first
    | with_reducible exact .refl _ _
    | with_reducible assumption
    | (with_reducible apply OnlyTouches.after (State.modPort_touches _ _ _); · decide)
    | (with_reducible apply OnlyTouches.after (State.count_touches _ _ _ _ _); · decide)
    | (with_reducible apply OnlyTouches.after (State.freeCredits_touches _ _ _ _); · decide)
    | (with_reducible apply OnlyTouches.after (State.badType_touches _ _ _); · decide)
    | with_reducible apply OnlyTouches.ite
    | with_reducible intro _
    | split
    | with_reducible refine OnlyTouches.pair (by assumption) ?_
    | dsimp only

theorem State.drainSkew_touches (s : State) (low : Nat) (x0 : Nat) : OnlyTouches [.objs, .ports, .ledger,
    .dict, .host] s (State.drainSkew s low x0) := by
  induction x0 generalizing s low with
  | zero =>
    unfold State.drainSkew
    try dsimp only
    all_goals repeat' first
      | with_reducible exact .refl _ _
      | with_reducible assumption
      | (with_reducible apply OnlyTouches.after (State.modPort_touches _ _ _); · decide)
      | (with_reducible apply OnlyTouches.after (State.acceptFrame_touches _ _ _); · decide)
      | with_reducible intro _
      | split
      | with_reducible refine OnlyTouches.pair (by assumption) ?_
      | dsimp only
  | succ k ih =>
    unfold State.drainSkew
    try dsimp only
    all_goals repeat' first
      | with_reducible exact .refl _ _
      | with_reducible assumption
      | (with_reducible apply OnlyTouches.after (ih _ _); · decide)
      | (with_reducible apply OnlyTouches.after (State.modPort_touches _ _ _); · decide)
      | (with_reducible apply OnlyTouches.after (State.acceptFrame_touches _ _ _); · decide)
      | with_reducible intro _
      | split
      | with_reducible refine OnlyTouches.pair (by assumption) ?_
      | dsimp only

theorem State.expireSkew_touches (s : State) (low : Nat) : OnlyTouches [.objs, .ports] s (State.expireSkew
    s low) := by
  unfold State.expireSkew
  try dsimp only
  repeat' first
    | with_reducible exact .refl _ _
    | with_reducible assumption
    | with_reducible apply OnlyTouches.fold
    | with_reducible apply OnlyTouches.foldPair
    | (with_reducible apply OnlyTouches.after (State.modPort_touches _ _ _); · decide)
    | (with_reducible apply OnlyTouches.after (State.naks_touches _ _ _); · decide)
    | with_reducible apply OnlyTouches.ite
    | with_reducible intro _
    | split
    | with_reducible refine OnlyTouches.pair (by assumption) ?_
    | dsimp only

theorem State.takeFrame_touches (s : State) (low : Nat) (u : LinkUnit) : OnlyTouches [.objs, .ports,
    .ledger, .dict, .host] s (State.takeFrame s low u) := by
  unfold State.takeFrame
  try dsimp only
  repeat' first
    | with_reducible exact .refl _ _
    | with_reducible assumption
    | (with_reducible apply OnlyTouches.after (State.modPort_touches _ _ _); · decide)
    | (with_reducible apply OnlyTouches.after (State.naks_touches _ _ _); · decide)
    | (with_reducible apply OnlyTouches.after (State.acceptFrame_touches _ _ _); · decide)
    | (with_reducible apply OnlyTouches.after (State.drainSkew_touches _ _ _); · decide)
    | with_reducible apply OnlyTouches.ite
    | with_reducible intro _
    | split
    | with_reducible refine OnlyTouches.pair (by assumption) ?_
    | dsimp only

theorem State.fecCount_touches (s : State) (p : Nat) (c : Option (Fin 16)) : OnlyTouches [.objs, .ports,
    .ledger] s (State.fecCount s p c) := by
  unfold State.fecCount
  try dsimp only
  repeat' first
    | with_reducible exact .refl _ _
    | with_reducible assumption
    | (with_reducible apply OnlyTouches.after (State.bump_touches _ _ _); · decide)
    | (with_reducible apply OnlyTouches.after (State.modPort_touches _ _ _); · decide)
    | (with_reducible apply OnlyTouches.after (State.count_touches _ _ _ _ _); · decide)
    | with_reducible intro _
    | split
    | with_reducible refine OnlyTouches.pair (by assumption) ?_
    | dsimp only

theorem State.badUnit_touches (s : State) (low : Nat) (u : LinkUnit) : OnlyTouches [.objs, .ports] s
    (State.badUnit s low u) := by
  unfold State.badUnit
  try dsimp only
  repeat' first
    | with_reducible exact .refl _ _
    | with_reducible assumption
    | (with_reducible apply OnlyTouches.after (State.naks_touches _ _ _); · decide)
    | with_reducible apply OnlyTouches.ite
    | with_reducible intro _
    | split

theorem State.goodUnit_touches (s : State) (low : Nat) (u : LinkUnit) : OnlyTouches [.objs, .lanes,
    .remaps, .ports, .switch, .ledger, .dict, .host, .free] s (State.goodUnit s low u) := by
  unfold State.goodUnit
  try dsimp only
  repeat' first
    | with_reducible exact .refl _ _
    | with_reducible assumption
    | (with_reducible apply OnlyTouches.after (State.linkInit_touches _ _); · decide)
    | (with_reducible apply OnlyTouches.after (State.takeTag_touches _ _ _); · decide)
    | (with_reducible apply OnlyTouches.after (State.takeFrame_touches _ _ _); · decide)
    | with_reducible apply OnlyTouches.ite
    | with_reducible intro _
    | split
    | with_reducible refine OnlyTouches.pair (by assumption) ?_
    | dsimp only

theorem State.receive_touches (s : State) (p low : Nat) (u : LinkUnit) : OnlyTouches [.objs, .lanes,
    .remaps, .ports, .switch, .ledger, .dict, .host, .free] s (State.receive s p low u) := by
  unfold State.receive
  try dsimp only
  repeat' first
    | with_reducible exact .refl _ _
    | with_reducible assumption
    | with_reducible apply OnlyTouches.fold
    | with_reducible apply OnlyTouches.foldPair
    | (with_reducible apply OnlyTouches.after (State.expireSkew_touches _ _); · decide)
    | (with_reducible apply OnlyTouches.after (State.fecCount_touches _ _ _); · decide)
    | (with_reducible apply OnlyTouches.after (State.badUnit_touches _ _ _); · decide)
    | (with_reducible apply OnlyTouches.after (State.goodUnit_touches _ _ _); · decide)
    | with_reducible apply OnlyTouches.ite
    | with_reducible intro _
    | split
    | with_reducible refine OnlyTouches.pair (by assumption) ?_
    | dsimp only

theorem execLinkUnitReceive_touches (p : Port) (u : LinkUnit) (s : State) : StepTouches [.objs, .lanes,
    .remaps, .ports, .switch, .ledger, .dict, .host, .free] s (execLinkUnitReceive p u s) := by
  unfold execLinkUnitReceive
  try dsimp only
  repeat' first
    | with_reducible apply OnlyTouches.ofNext
    | with_reducible exact .refl _ _
    | with_reducible assumption
    | (with_reducible apply OnlyTouches.after (State.receive_touches _ _ _ _); · decide)
    | with_reducible intro _
    | with_reducible refine OnlyTouches.pair (by assumption) ?_
    | dsimp only

theorem State.emit_touches (s : State) (low tag : Nat) (f : Option Frame) : OnlyTouches [.ports, .out] s
    (State.emit s low tag f) := by
  unfold State.emit
  try dsimp only
  repeat' first
    | with_reducible exact .refl _ _
    | with_reducible assumption
    | (with_reducible apply OnlyTouches.after (State.modPort_touches _ _ _); · decide)
    | with_reducible intro _
    | (with_reducible apply OnlyTouches.put_out; · decide)

theorem State.sendTag_touches (s : State) (low : Nat) (lseq : Option Nat) (f : Option Frame) : OnlyTouches
    [.ports, .out] s (State.sendTag s low lseq f) := by
  unfold State.sendTag
  try dsimp only
  repeat' first
    | with_reducible exact .refl _ _
    | with_reducible assumption
    | (with_reducible apply OnlyTouches.after (State.setPort_touches _ _ _); · decide)
    | (with_reducible apply OnlyTouches.after (State.emit_touches _ _ _ _); · decide)
    | with_reducible intro _
    | split
    | with_reducible refine OnlyTouches.pair (by assumption) ?_
    | dsimp only

theorem State.sendNew_touches (s : State) (low : Nat) (f : Frame) (inPort : Option Nat) : OnlyTouches
    [.ports, .ledger, .out] s (State.sendNew s low f inPort) := by
  unfold State.sendNew
  try dsimp only
  repeat' first
    | with_reducible exact .refl _ _
    | with_reducible assumption
    | (with_reducible apply OnlyTouches.after (State.setPort_touches _ _ _); · decide)
    | (with_reducible apply OnlyTouches.after (State.count_touches _ _ _ _ _); · decide)
    | (with_reducible apply OnlyTouches.after (State.sendTag_touches _ _ _ _); · decide)
    | with_reducible intro _
    | with_reducible refine OnlyTouches.pair (by assumption) ?_
    | dsimp only

theorem State.sendReplay_touches (s : State) (low q : Nat) : OnlyTouches [.objs, .ports, .ledger, .out] s
    (State.sendReplay s low q) := by
  unfold State.sendReplay
  try dsimp only
  repeat' first
    | with_reducible exact .refl _ _
    | with_reducible assumption
    | (with_reducible apply OnlyTouches.after (State.bump_touches _ _ _); · decide)
    | (with_reducible apply OnlyTouches.after (State.drop_touches _ _ _); · decide)
    | (with_reducible apply OnlyTouches.after (State.setPort_touches _ _ _); · decide)
    | (with_reducible apply OnlyTouches.after (State.count_touches _ _ _ _ _); · decide)
    | (with_reducible apply OnlyTouches.after (State.sendTag_touches _ _ _ _); · decide)
    | with_reducible intro _
    | split
    | with_reducible refine OnlyTouches.pair (by assumption) ?_
    | dsimp only

theorem State.sendHead_touches (s : State) (low vc : Nat) : OnlyTouches [.objs, .time, .ports, .switch,
    .ledger, .out] s (State.sendHead s low vc) := by
  unfold State.sendHead
  try dsimp only
  repeat' first
    | with_reducible exact .refl _ _
    | with_reducible assumption
    | (with_reducible apply OnlyTouches.after (State.drop_touches _ _ _); · decide)
    | (with_reducible apply OnlyTouches.after (State.modPort_touches _ _ _); · decide)
    | (with_reducible apply OnlyTouches.after (State.setFlight_touches _ _ _); · decide)
    | (with_reducible apply OnlyTouches.after (State.ptpLeaves_touches _ _ _ _); · decide)
    | (with_reducible apply OnlyTouches.after (State.sendNew_touches _ _ _ _); · decide)
    | with_reducible apply OnlyTouches.ite
    | with_reducible intro _
    | split
    | with_reducible refine OnlyTouches.pair (by assumption) ?_
    | dsimp only

theorem State.absorb_touches (s : State) (low : Nat) : OnlyTouches [.ports, .switch] s (State.absorb s low)
    := by
  unfold State.absorb
  try dsimp only
  repeat' first
    | with_reducible exact .refl _ _
    | with_reducible assumption
    | with_reducible apply OnlyTouches.fold
    | with_reducible apply OnlyTouches.foldPair
    | (with_reducible apply OnlyTouches.after (State.setPort_touches _ _ _); · decide)
    | (with_reducible apply OnlyTouches.after (State.settle_touches _ _); · decide)
    | with_reducible apply OnlyTouches.ite
    | with_reducible intro _
    | split
    | with_reducible refine OnlyTouches.pair (by assumption) ?_
    | dsimp only

theorem State.chargeDeficit_touches (s : State) (low vc bytes turn : Nat) (ds : List Int) : OnlyTouches
    [.ports] s (State.chargeDeficit s low vc bytes turn ds) := by
  unfold State.chargeDeficit
  try dsimp only
  repeat' first
    | with_reducible exact .refl _ _
    | with_reducible assumption
    | (with_reducible apply OnlyTouches.after (State.modPort_touches _ _ _); · decide)
    | with_reducible intro _

theorem State.emptied_touches (s : State) (low vc : Nat) : OnlyTouches [.ports] s (State.emptied s low vc)
    := by
  unfold State.emptied
  try dsimp only
  repeat' first
    | with_reducible exact .refl _ _
    | with_reducible assumption
    | (with_reducible apply OnlyTouches.after (State.modPort_touches _ _ _); · decide)
    | with_reducible intro _
    | split

theorem State.sendRunnerUnit_touches (s : State) (low : Nat) (f : Frame) : OnlyTouches [.objs, .ports,
    .coll, .ledger, .out] s (State.sendRunnerUnit s low f) := by
  unfold State.sendRunnerUnit
  try dsimp only
  repeat' first
    | with_reducible exact .refl _ _
    | with_reducible assumption
    | with_reducible apply OnlyTouches.when
    | (with_reducible apply OnlyTouches.after (State.bump_touches _ _ _); · decide)
    | (with_reducible apply OnlyTouches.after (State.drop_touches _ _ _); · decide)
    | (with_reducible apply OnlyTouches.after (State.modPort_touches _ _ _); · decide)
    | (with_reducible apply OnlyTouches.after (State.heartbeat_touches _ _ _); · decide)
    | (with_reducible apply OnlyTouches.after (State.sendNew_touches _ _ _ _); · decide)
    | with_reducible intro _

theorem State.sendDwrr_touches (s : State) (low : Nat) : OnlyTouches [.objs, .time, .ports, .switch,
    .ledger, .out] s (State.sendDwrr s low) := by
  unfold State.sendDwrr
  try dsimp only
  repeat' first
    | with_reducible exact .refl _ _
    | with_reducible assumption
    | (with_reducible apply OnlyTouches.after (State.sendTag_touches _ _ _ _); · decide)
    | (with_reducible apply OnlyTouches.after (State.sendHead_touches _ _ _); · decide)
    | (with_reducible apply OnlyTouches.after (State.absorb_touches _ _); · decide)
    | (with_reducible apply OnlyTouches.after (State.chargeDeficit_touches _ _ _ _ _ _); · decide)
    | (with_reducible apply OnlyTouches.after (State.emptied_touches _ _ _); · decide)
    | with_reducible apply OnlyTouches.ite
    | with_reducible intro _
    | split
    | with_reducible refine OnlyTouches.pair (by assumption) ?_
    | dsimp only

theorem State.sendUnit_touches (s : State) (low : Nat) : OnlyTouches [.objs, .time, .ports, .switch, .coll,
    .ledger, .out] s (State.sendUnit s low) := by
  unfold State.sendUnit
  try dsimp only
  repeat' first
    | with_reducible exact .refl _ _
    | with_reducible assumption
    | (with_reducible apply OnlyTouches.after (State.runnerFill_touches _ _); · decide)
    | (with_reducible apply OnlyTouches.after (State.emit_touches _ _ _ _); · decide)
    | (with_reducible apply OnlyTouches.after (State.sendReplay_touches _ _ _); · decide)
    | (with_reducible apply OnlyTouches.after (State.absorb_touches _ _); · decide)
    | (with_reducible apply OnlyTouches.after (State.emptied_touches _ _ _); · decide)
    | (with_reducible apply OnlyTouches.after (State.sendRunnerUnit_touches _ _ _); · decide)
    | (with_reducible apply OnlyTouches.after (State.sendDwrr_touches _ _); · decide)
    | with_reducible apply OnlyTouches.ite
    | with_reducible intro _
    | split
    | with_reducible refine OnlyTouches.pair (by assumption) ?_
    | dsimp only

theorem execLinkUnitSend_touches (p : Port) (s : State) : StepTouches [.objs, .time, .ports, .switch,
    .coll, .mem, .ledger, .dict, .host, .out] s (execLinkUnitSend p s) := by
  unfold execLinkUnitSend
  try dsimp only
  repeat' first
    | with_reducible apply OnlyTouches.ofNext
    | with_reducible exact .refl _ _
    | with_reducible assumption
    | (with_reducible apply OnlyTouches.after (State.modPort_touches _ _ _); · decide)
    | (with_reducible apply OnlyTouches.after (State.pump_touches _); · decide)
    | (with_reducible apply OnlyTouches.after (State.deliverAll_touches _); · decide)
    | (with_reducible apply OnlyTouches.after (State.sendUnit_touches _ _); · decide)
    | with_reducible intro _
    | with_reducible refine OnlyTouches.pair (by assumption) ?_
    | dsimp only

theorem State.newCredits_touches (s : State) (p w : Nat) : OnlyTouches [.objs] s (State.newCredits s p w)
    := by
  unfold State.newCredits
  try dsimp only
  repeat' first
    | with_reducible exact .refl _ _
    | with_reducible assumption
    | with_reducible apply OnlyTouches.each
    | with_reducible apply OnlyTouches.fold
    | with_reducible apply OnlyTouches.foldPair
    | (with_reducible apply OnlyTouches.after (State.putObj_touches _ _ _); · decide)
    | with_reducible apply OnlyTouches.ite
    | with_reducible intro _
    | split
    | with_reducible refine OnlyTouches.pair (by assumption) ?_
    | dsimp only

theorem State.widthLeave_touches (s : State) (q : Nat) : OnlyTouches [.objs, .time, .lanes, .remaps,
    .ports, .switch, .coll, .mem, .ledger, .dict, .host] s (State.widthLeave s q) := by
  unfold State.widthLeave
  try dsimp only
  repeat' first
    | with_reducible exact .refl _ _
    | with_reducible assumption
    | (with_reducible apply OnlyTouches.after (State.modPort_touches _ _ _); · decide)
    | (with_reducible apply OnlyTouches.after (State.loseFrames_touches _ _ _ _); · decide)
    | (with_reducible apply OnlyTouches.after (State.portDown_touches _ _); · decide)
    | with_reducible intro _
    | with_reducible refine OnlyTouches.pair (by assumption) ?_
    | dsimp only

theorem State.changeWidth_touches (s : State) (p w : Nat) : OnlyTouches [.objs, .time, .lanes, .remaps,
    .ports, .switch, .coll, .mem, .ledger, .dict, .host] s (State.changeWidth s p w) := by
  unfold State.changeWidth
  try dsimp only
  repeat' first
    | with_reducible exact .refl _ _
    | with_reducible assumption
    | with_reducible apply OnlyTouches.each
    | with_reducible apply OnlyTouches.fold
    | with_reducible apply OnlyTouches.foldPair
    | (with_reducible apply OnlyTouches.after (State.putObj_touches _ _ _); · decide)
    | (with_reducible apply OnlyTouches.after (State.beginInit_touches _ _); · decide)
    | (with_reducible apply OnlyTouches.after (State.newCredits_touches _ _ _); · decide)
    | (with_reducible apply OnlyTouches.after (State.widthLeave_touches _ _); · decide)
    | with_reducible apply OnlyTouches.ite
    | with_reducible intro _
    | split

theorem State.widthEffect_touches (s : State) (p : Nat) : OnlyTouches [.objs, .time, .lanes, .remaps,
    .ports, .switch, .coll, .mem, .ledger, .dict, .host] s (State.widthEffect s p) := by
  unfold State.widthEffect
  try dsimp only
  repeat' first
    | with_reducible exact .refl _ _
    | with_reducible assumption
    | (with_reducible apply OnlyTouches.after (State.modPort_touches _ _ _); · decide)
    | (with_reducible apply OnlyTouches.after (State.changeWidth_touches _ _ _); · decide)
    | with_reducible intro _
    | split
    | with_reducible refine OnlyTouches.pair (by assumption) ?_
    | dsimp only

theorem execWidthChangeEffect_touches (p : Port) (s : State) : StepTouches [.objs, .time, .lanes, .remaps,
    .ports, .switch, .coll, .mem, .ledger, .dict, .host] s (execWidthChangeEffect p s) := by
  unfold execWidthChangeEffect
  try dsimp only
  repeat' first
    | with_reducible apply OnlyTouches.ofNext
    | with_reducible exact .refl _ _
    | with_reducible assumption
    | (with_reducible apply OnlyTouches.after (State.widthEffect_touches _ _); · decide)
    | with_reducible intro _
    | with_reducible refine OnlyTouches.pair (by assumption) ?_
    | dsimp only

theorem State.portChanges_touches (s : State) (p : Nat) : OnlyTouches [.objs, .time, .lanes, .remaps,
    .ports, .switch, .coll, .mem, .ledger, .dict, .host] s (State.portChanges s p) := by
  unfold State.portChanges
  try dsimp only
  repeat' first
    | with_reducible exact .refl _ _
    | with_reducible assumption
    | (with_reducible apply OnlyTouches.after (State.modPort_touches _ _ _); · decide)
    | (with_reducible apply OnlyTouches.after (State.dropped_touches _ _ _ _); · decide)
    | (with_reducible apply OnlyTouches.after (State.runnerFill_touches _ _); · decide)
    | (with_reducible apply OnlyTouches.after (State.dropOut_touches _ _ _); · decide)
    | (with_reducible apply OnlyTouches.after (State.expireSkew_touches _ _); · decide)
    | (with_reducible apply OnlyTouches.after (State.widthEffect_touches _ _); · decide)
    | with_reducible apply OnlyTouches.ite
    | with_reducible intro _
    | split
    | with_reducible refine OnlyTouches.pair (by assumption) ?_
    | dsimp only

theorem State.portBoundary_touches (s : State) (p : Nat) : OnlyTouches [.objs, .ports, .switch, .coll,
    .mem, .ledger, .dict, .host] s (State.portBoundary s p) := by
  unfold State.portBoundary
  try dsimp only
  repeat' first
    | with_reducible exact .refl _ _
    | with_reducible assumption
    | (with_reducible apply OnlyTouches.after (State.setPort_touches _ _ _); · decide)
    | (with_reducible apply OnlyTouches.after (State.modPort_touches _ _ _); · decide)
    | (with_reducible apply OnlyTouches.after (State.unspray_touches _ _); · decide)
    | (with_reducible apply OnlyTouches.after (State.deliverAll_touches _); · decide)
    | (with_reducible apply OnlyTouches.after (State.loseFrames_touches _ _ _ _); · decide)
    | (with_reducible apply OnlyTouches.after (State.discardCopies_touches _ _); · decide)
    | with_reducible apply OnlyTouches.ite
    | with_reducible intro _
    | split
    | with_reducible refine OnlyTouches.pair (by assumption) ?_
    | dsimp only

theorem State.portBoundaries_touches (s : State) : OnlyTouches [.objs, .time, .lanes, .remaps, .ports,
    .switch, .coll, .mem, .ledger, .dict, .host] s (State.portBoundaries s) := by
  unfold State.portBoundaries
  try dsimp only
  repeat' first
    | with_reducible exact .refl _ _
    | with_reducible assumption
    | with_reducible apply OnlyTouches.fold
    | with_reducible apply OnlyTouches.foldPair
    | (with_reducible apply OnlyTouches.after (State.portChanges_touches _ _); · decide)
    | (with_reducible apply OnlyTouches.after (State.portBoundary_touches _ _); · decide)
    | with_reducible intro _
    | with_reducible refine OnlyTouches.pair (by assumption) ?_
    | dsimp only

end Sys2Proof.Machine
end

