-- ==== Sys2Proof/Laws/KeepLink.lean ====
section
/-! SUPPORT. The operations of Machine/Link.lean keep the invariant. -/

namespace Sys2Proof.Machine

theorem State.cancelRemaps_keeps (s : State) (ports : List Nat) (pos : Nat) : Keeps s (State.cancelRemaps s
    ports pos) := by
  unfold State.cancelRemaps
  try dsimp only
  repeat' first
    | with_reducible exact .refl _
    | with_reducible assumption
    | with_reducible apply Keeps.fold
    | with_reducible apply Keeps.foldPair
    | with_reducible apply Keeps.after (State.endFailedAt_keeps _ _ _ _)
    | with_reducible intro _
    | split
    | with_reducible apply Keeps.put_lanes
    | with_reducible apply Keeps.put_remaps

theorem State.discardCopies_keeps (s : State) (p : Nat) : Keeps s (State.discardCopies s p) := by
  unfold State.discardCopies
  try dsimp only
  repeat' first
    | with_reducible exact .refl _
    | with_reducible assumption
    | with_reducible apply Keeps.fold
    | with_reducible apply Keeps.foldPair
    | ((with_reducible apply Keeps.afterT (State.setPort_touches _ _ _)); · rfl)
    | ((with_reducible apply Keeps.afterT (State.settle_touches _ _)); · rfl)
    | ((with_reducible apply Keeps.afterT (State.extract_touches _ _)); · rfl)
    | with_reducible apply Keeps.after (State.giveUp_keeps _ _)
    | ((with_reducible apply Keeps.afterT (State.loseFrames_touches _ _ _ _)); · rfl)
    | with_reducible apply Keeps.ite
    | with_reducible intro _
    | split
    | with_reducible refine Keeps.pair (by assumption) ?_
    | dsimp only

theorem State.cutSending_keeps (s : State) (p : Nat) : Keeps s (State.cutSending s p) := by
  unfold State.cutSending
  try dsimp only
  repeat' first
    | with_reducible exact .refl _
    | with_reducible assumption
    | ((with_reducible apply Keeps.afterT (State.modPort_touches _ _ _)); · rfl)
    | ((with_reducible apply Keeps.afterT (State.settle_touches _ _)); · rfl)
    | ((with_reducible apply Keeps.afterT (State.extract_touches _ _)); · rfl)
    | with_reducible apply Keeps.after (State.giveUp_keeps _ _)
    | with_reducible intro _
    | split
    | with_reducible refine Keeps.pair (by assumption) ?_
    | dsimp only

theorem State.portDown_keeps (s : State) (low : Nat) : Keeps s (State.portDown s low) := by
  unfold State.portDown
  try dsimp only
  repeat' first
    | with_reducible exact .refl _
    | with_reducible assumption
    | ((with_reducible apply Keeps.afterT (State.modPort_touches _ _ _)); · rfl)
    | ((with_reducible apply Keeps.afterT (State.unspray_touches _ _)); · rfl)
    | ((with_reducible apply Keeps.afterT (State.deliverAll_touches _)); · rfl)
    | ((with_reducible apply Keeps.afterT (State.mastersGone_touches _ _)); · rfl)
    | with_reducible apply Keeps.after (State.cancelRemaps_keeps _ _ _)
    | ((with_reducible apply Keeps.afterT (State.loseFrames_touches _ _ _ _)); · rfl)
    | with_reducible apply Keeps.after (State.discardCopies_keeps _ _)
    | with_reducible apply Keeps.after (State.cutSending_keeps _ _)
    | with_reducible apply Keeps.ite
    | with_reducible intro _
    | split
    | with_reducible refine Keeps.pair (by assumption) ?_
    | dsimp only

theorem State.dropOut_keeps (s : State) (p : Nat) (st : LinkState) : Keeps s (State.dropOut s p st) := by
  unfold State.dropOut
  try dsimp only
  repeat' first
    | with_reducible exact .refl _
    | with_reducible assumption
    | ((with_reducible apply Keeps.afterT (State.modPort_touches _ _ _)); · rfl)
    | with_reducible apply Keeps.after (State.cancelRemaps_keeps _ _ _)
    | ((with_reducible apply Keeps.afterT (State.runnerFill_touches _ _)); · rfl)
    | with_reducible apply Keeps.after (State.portDown_keeps _ _)
    | with_reducible apply Keeps.ite
    | with_reducible intro _
    | split
    | with_reducible refine Keeps.pair (by assumption) ?_
    | dsimp only

theorem State.startRetrain_keeps (s : State) (p : Nat) : Keeps s (State.startRetrain s p) := by
  unfold State.startRetrain
  try dsimp only
  repeat' first
    | with_reducible exact .refl _
    | with_reducible assumption
    | with_reducible apply Keeps.each
    | ((with_reducible apply Keeps.afterT (State.bump_touches _ _ _)); · rfl)
    | ((with_reducible apply Keeps.afterT (State.setPort_touches _ _ _)); · rfl)
    | ((with_reducible apply Keeps.afterT (State.unspray_touches _ _)); · rfl)
    | with_reducible apply Keeps.after (State.cancelRemaps_keeps _ _ _)
    | ((with_reducible apply Keeps.afterT (State.retrainLanes_touches _ _)); · rfl)
    | with_reducible apply Keeps.ite
    | with_reducible intro _
    | split
    | with_reducible refine Keeps.pair (by assumption) ?_
    | dsimp only

theorem execFecUncorrectableLimit_keeps (p : Port) (s : State) : StepKeeps s (execFecUncorrectableLimit p
    s) := by
  unfold execFecUncorrectableLimit
  try dsimp only
  repeat' first
    | with_reducible apply Keeps.ofNext
    | with_reducible exact .refl _
    | with_reducible assumption
    | with_reducible apply Keeps.after (State.startRetrain_keeps _ _)
    | with_reducible apply Keeps.ite
    | with_reducible apply Keeps.iteStep
    | with_reducible intro _
    | split
    | with_reducible refine Keeps.pair (by assumption) ?_
    | dsimp only

theorem execAmLockLoss_keeps (p : Port) (s : State) : StepKeeps s (execAmLockLoss p s) := by
  unfold execAmLockLoss
  try dsimp only
  repeat' first
    | with_reducible apply Keeps.ofNext
    | with_reducible exact .refl _
    | with_reducible assumption
    | with_reducible apply Keeps.after (State.startRetrain_keeps _ _)
    | with_reducible intro _
    | with_reducible refine Keeps.pair (by assumption) ?_
    | dsimp only

theorem execRetrainRequest_keeps (p : Port) (s : State) : StepKeeps s (execRetrainRequest p s) := by
  unfold execRetrainRequest
  try dsimp only
  repeat' first
    | with_reducible apply Keeps.ofNext
    | with_reducible exact .refl _
    | with_reducible assumption
    | with_reducible apply Keeps.after (State.startRetrain_keeps _ _)
    | with_reducible intro _
    | with_reducible refine Keeps.pair (by assumption) ?_
    | dsimp only

theorem State.replayLimit_keeps (s : State) (low : Nat) : Keeps s (State.replayLimit s low) := by
  unfold State.replayLimit
  try dsimp only
  repeat' first
    | with_reducible exact .refl _
    | with_reducible assumption
    | with_reducible apply Keeps.after (State.startRetrain_keeps _ _)
    | with_reducible apply Keeps.ite
    | with_reducible intro _
    | split
    | with_reducible refine Keeps.pair (by assumption) ?_
    | dsimp only

theorem execReplayLimitReached_keeps (p : Port) (s : State) : StepKeeps s (execReplayLimitReached p s) := by
  unfold execReplayLimitReached
  try dsimp only
  repeat' first
    | with_reducible apply Keeps.ofNext
    | with_reducible exact .refl _
    | with_reducible assumption
    | with_reducible apply Keeps.after (State.replayLimit_keeps _ _)
    | with_reducible intro _
    | with_reducible refine Keeps.pair (by assumption) ?_
    | dsimp only

theorem State.peerEvent_keeps (s : State) (low : Nat) : Keeps s (State.peerEvent s low) := by
  unfold State.peerEvent
  try dsimp only
  repeat' first
    | with_reducible exact .refl _
    | with_reducible assumption
    | with_reducible apply Keeps.after (State.eventAt_keeps _ _ _ _ _)
    | with_reducible intro _

theorem State.portsUp_keeps (s : State) : Keeps s (State.portsUp s) := by
  unfold State.portsUp
  try dsimp only
  repeat' first
    | with_reducible exact .refl _
    | with_reducible assumption
    | with_reducible intro _
    | split
    | ((with_reducible apply Keeps.put_power); · exact fun i => ⟨i.capsule, i.pinned, i.converts, i.released, i.powering, i.boots, i.converting, i.ready⟩)
    | ((with_reducible apply Keeps.put_power); · exact fun i => by (obtain ⟨a, b, c, d, e, f, g, h⟩ := i; constructor <;> first | exact a | exact b | grind))
    | with_reducible refine Keeps.pair (by assumption) ?_
    | dsimp only

theorem State.identity_keeps (s : State) (low w : Nat) : Keeps s (State.identity s low w) := by
  unfold State.identity
  try dsimp only
  repeat' first
    | with_reducible exact .refl _
    | with_reducible assumption
    | with_reducible apply Keeps.each
    | with_reducible apply Keeps.when
    | ((with_reducible apply Keeps.afterT (State.putObj_touches _ _ _)); · rfl)
    | ((with_reducible apply Keeps.afterT (State.modPort_touches _ _ _)); · rfl)
    | ((with_reducible apply Keeps.afterT (State.modFiber_touches _ _ _)); · rfl)
    | with_reducible apply Keeps.after (State.peerEvent_keeps _ _)
    | with_reducible apply Keeps.after (State.portsUp_keeps _)
    | with_reducible apply Keeps.ite
    | with_reducible intro _
    | split
    | with_reducible refine Keeps.pair (by assumption) ?_
    | dsimp only

theorem execIdentityFrame_keeps (p : Port) (payload : BitVec 256) (s : State) : StepKeeps s
    (execIdentityFrame p payload s) := by
  unfold execIdentityFrame
  try dsimp only
  repeat' first
    | with_reducible apply Keeps.ofNext
    | with_reducible exact .refl _
    | with_reducible assumption
    | with_reducible apply Keeps.after (State.identity_keeps _ _ _)
    | with_reducible intro _
    | with_reducible refine Keeps.pair (by assumption) ?_
    | dsimp only

theorem State.comparePeer_keeps (s : State) (p : Nat) : Keeps s (State.comparePeer s p) := by
  unfold State.comparePeer
  try dsimp only
  repeat' first
    | with_reducible exact .refl _
    | with_reducible assumption
    | ((with_reducible apply Keeps.afterT (State.setPort_touches _ _ _)); · rfl)
    | ((with_reducible apply Keeps.afterT (State.unspray_touches _ _)); · rfl)
    | with_reducible apply Keeps.after (State.peerEvent_keeps _ _)
    | with_reducible apply Keeps.after (State.portsUp_keeps _)
    | with_reducible apply Keeps.ite
    | with_reducible intro _
    | split
    | with_reducible refine Keeps.pair (by assumption) ?_
    | dsimp only

theorem execRetrainComplete_keeps (p : Port) (s : State) : StepKeeps s (execRetrainComplete p s) := by
  unfold execRetrainComplete
  try dsimp only
  repeat' first
    | with_reducible apply Keeps.ofNext
    | with_reducible exact .refl _
    | with_reducible assumption
    | ((with_reducible apply Keeps.afterT (State.setPort_touches _ _ _)); · rfl)
    | ((with_reducible apply Keeps.afterT (State.beginInit_touches _ _)); · rfl)
    | with_reducible apply Keeps.after (State.portsUp_keeps _)
    | with_reducible apply Keeps.ite
    | with_reducible apply Keeps.iteStep
    | with_reducible intro _
    | split
    | with_reducible refine Keeps.pair (by assumption) ?_
    | dsimp only

theorem execRetrainTimeout_keeps (p : Port) (s : State) : StepKeeps s (execRetrainTimeout p s) := by
  unfold execRetrainTimeout
  try dsimp only
  repeat' first
    | with_reducible apply Keeps.ofNext
    | with_reducible exact .refl _
    | with_reducible assumption
    | with_reducible apply Keeps.each
    | ((with_reducible apply Keeps.afterT (State.modPort_touches _ _ _)); · rfl)
    | with_reducible apply Keeps.after (State.portDown_keeps _ _)
    | with_reducible apply Keeps.ite
    | with_reducible apply Keeps.iteStep
    | with_reducible intro _
    | split
    | with_reducible refine Keeps.pair (by assumption) ?_
    | dsimp only

theorem State.takeTag_keeps (s : State) (low t : Nat) : Keeps s (State.takeTag s low t) := by
  unfold State.takeTag
  try dsimp only
  repeat' first
    | with_reducible exact .refl _
    | with_reducible assumption
    | ((with_reducible apply Keeps.afterT (State.modPort_touches _ _ _)); · rfl)
    | with_reducible apply Keeps.after (State.replayLimit_keeps _ _)
    | with_reducible apply Keeps.ite
    | with_reducible intro _
    | split

theorem State.acceptFrame_keeps (s : State) (low : Nat) (f : Frame) : Keeps s (State.acceptFrame s low f)
    := by
  unfold State.acceptFrame
  try dsimp only
  repeat' first
    | with_reducible exact .refl _
    | with_reducible assumption
    | ((with_reducible apply Keeps.afterT (State.modPort_touches _ _ _)); · rfl)
    | ((with_reducible apply Keeps.afterT (State.count_touches _ _ _ _ _)); · rfl)
    | ((with_reducible apply Keeps.afterT (State.freeCredits_touches _ _ _ _)); · rfl)
    | with_reducible apply Keeps.after (State.badType_keeps _ _ _)
    | with_reducible apply Keeps.ite
    | with_reducible intro _
    | split
    | with_reducible refine Keeps.pair (by assumption) ?_
    | dsimp only

theorem State.drainSkew_keeps (s : State) (low : Nat) (x0 : Nat) : Keeps s (State.drainSkew s low x0) := by
  induction x0 generalizing s low with
  | zero =>
    unfold State.drainSkew
    try dsimp only
    all_goals repeat' first
      | with_reducible exact .refl _
      | with_reducible assumption
      | ((with_reducible apply Keeps.afterT (State.modPort_touches _ _ _)); · rfl)
      | with_reducible apply Keeps.after (State.acceptFrame_keeps _ _ _)
      | with_reducible intro _
      | split
      | with_reducible refine Keeps.pair (by assumption) ?_
      | dsimp only
  | succ k ih =>
    unfold State.drainSkew
    try dsimp only
    all_goals repeat' first
      | with_reducible exact .refl _
      | with_reducible assumption
      | (with_reducible apply Keeps.after (ih _ _))
      | ((with_reducible apply Keeps.afterT (State.modPort_touches _ _ _)); · rfl)
      | with_reducible apply Keeps.after (State.acceptFrame_keeps _ _ _)
      | with_reducible intro _
      | split
      | with_reducible refine Keeps.pair (by assumption) ?_
      | dsimp only

theorem State.takeFrame_keeps (s : State) (low : Nat) (u : LinkUnit) : Keeps s (State.takeFrame s low u) :=
    by
  unfold State.takeFrame
  try dsimp only
  repeat' first
    | with_reducible exact .refl _
    | with_reducible assumption
    | ((with_reducible apply Keeps.afterT (State.modPort_touches _ _ _)); · rfl)
    | ((with_reducible apply Keeps.afterT (State.naks_touches _ _ _)); · rfl)
    | with_reducible apply Keeps.after (State.acceptFrame_keeps _ _ _)
    | with_reducible apply Keeps.after (State.drainSkew_keeps _ _ _)
    | with_reducible apply Keeps.ite
    | with_reducible intro _
    | split
    | with_reducible refine Keeps.pair (by assumption) ?_
    | dsimp only

theorem State.goodUnit_keeps (s : State) (low : Nat) (u : LinkUnit) : Keeps s (State.goodUnit s low u) := by
  unfold State.goodUnit
  try dsimp only
  repeat' first
    | with_reducible exact .refl _
    | with_reducible assumption
    | ((with_reducible apply Keeps.afterT (State.linkInit_touches _ _)); · rfl)
    | with_reducible apply Keeps.after (State.takeTag_keeps _ _ _)
    | with_reducible apply Keeps.after (State.takeFrame_keeps _ _ _)
    | with_reducible apply Keeps.ite
    | with_reducible intro _
    | split
    | with_reducible refine Keeps.pair (by assumption) ?_
    | dsimp only

theorem State.receive_keeps (s : State) (p low : Nat) (u : LinkUnit) : Keeps s (State.receive s p low u) :=
    by
  unfold State.receive
  try dsimp only
  repeat' first
    | with_reducible exact .refl _
    | with_reducible assumption
    | with_reducible apply Keeps.fold
    | with_reducible apply Keeps.foldPair
    | ((with_reducible apply Keeps.afterT (State.expireSkew_touches _ _)); · rfl)
    | ((with_reducible apply Keeps.afterT (State.fecCount_touches _ _ _)); · rfl)
    | ((with_reducible apply Keeps.afterT (State.badUnit_touches _ _ _)); · rfl)
    | with_reducible apply Keeps.after (State.goodUnit_keeps _ _ _)
    | with_reducible apply Keeps.ite
    | with_reducible intro _
    | split
    | with_reducible refine Keeps.pair (by assumption) ?_
    | dsimp only

theorem execLinkUnitReceive_keeps (p : Port) (u : LinkUnit) (s : State) : StepKeeps s (execLinkUnitReceive
    p u s) := by
  unfold execLinkUnitReceive
  try dsimp only
  repeat' first
    | with_reducible apply Keeps.ofNext
    | with_reducible exact .refl _
    | with_reducible assumption
    | with_reducible apply Keeps.after (State.receive_keeps _ _ _ _)
    | with_reducible intro _
    | with_reducible refine Keeps.pair (by assumption) ?_
    | dsimp only

theorem execLinkUnitSend_keeps (p : Port) (s : State) : StepKeeps s (execLinkUnitSend p s) := by
  unfold execLinkUnitSend
  try dsimp only
  repeat' first
    | with_reducible apply Keeps.ofNext
    | with_reducible exact .refl _
    | with_reducible assumption
    | ((with_reducible apply Keeps.afterT (State.modPort_touches _ _ _)); · rfl)
    | with_reducible apply Keeps.after (State.pump_keeps _)
    | ((with_reducible apply Keeps.afterT (State.deliverAll_touches _)); · rfl)
    | ((with_reducible apply Keeps.afterT (State.sendUnit_touches _ _)); · rfl)
    | with_reducible intro _
    | with_reducible refine Keeps.pair (by assumption) ?_
    | dsimp only

theorem State.widthLeave_keeps (s : State) (q : Nat) : Keeps s (State.widthLeave s q) := by
  unfold State.widthLeave
  try dsimp only
  repeat' first
    | with_reducible exact .refl _
    | with_reducible assumption
    | ((with_reducible apply Keeps.afterT (State.modPort_touches _ _ _)); · rfl)
    | ((with_reducible apply Keeps.afterT (State.loseFrames_touches _ _ _ _)); · rfl)
    | with_reducible apply Keeps.after (State.portDown_keeps _ _)
    | with_reducible intro _
    | with_reducible refine Keeps.pair (by assumption) ?_
    | dsimp only

theorem State.changeWidth_keeps (s : State) (p w : Nat) : Keeps s (State.changeWidth s p w) := by
  unfold State.changeWidth
  try dsimp only
  repeat' first
    | with_reducible exact .refl _
    | with_reducible assumption
    | with_reducible apply Keeps.each
    | with_reducible apply Keeps.fold
    | with_reducible apply Keeps.foldPair
    | ((with_reducible apply Keeps.afterT (State.putObj_touches _ _ _)); · rfl)
    | ((with_reducible apply Keeps.afterT (State.beginInit_touches _ _)); · rfl)
    | ((with_reducible apply Keeps.afterT (State.newCredits_touches _ _ _)); · rfl)
    | with_reducible apply Keeps.after (State.widthLeave_keeps _ _)
    | with_reducible apply Keeps.ite
    | with_reducible intro _
    | split

theorem State.widthEffect_keeps (s : State) (p : Nat) : Keeps s (State.widthEffect s p) := by
  unfold State.widthEffect
  try dsimp only
  repeat' first
    | with_reducible exact .refl _
    | with_reducible assumption
    | ((with_reducible apply Keeps.afterT (State.modPort_touches _ _ _)); · rfl)
    | with_reducible apply Keeps.after (State.changeWidth_keeps _ _ _)
    | with_reducible intro _
    | split
    | with_reducible refine Keeps.pair (by assumption) ?_
    | dsimp only

theorem execWidthChangeEffect_keeps (p : Port) (s : State) : StepKeeps s (execWidthChangeEffect p s) := by
  unfold execWidthChangeEffect
  try dsimp only
  repeat' first
    | with_reducible apply Keeps.ofNext
    | with_reducible exact .refl _
    | with_reducible assumption
    | with_reducible apply Keeps.after (State.widthEffect_keeps _ _)
    | with_reducible intro _
    | with_reducible refine Keeps.pair (by assumption) ?_
    | dsimp only

theorem State.portChanges_keeps (s : State) (p : Nat) : Keeps s (State.portChanges s p) := by
  unfold State.portChanges
  try dsimp only
  repeat' first
    | with_reducible exact .refl _
    | with_reducible assumption
    | ((with_reducible apply Keeps.afterT (State.modPort_touches _ _ _)); · rfl)
    | ((with_reducible apply Keeps.afterT (State.dropped_touches _ _ _ _)); · rfl)
    | ((with_reducible apply Keeps.afterT (State.runnerFill_touches _ _)); · rfl)
    | with_reducible apply Keeps.after (State.dropOut_keeps _ _ _)
    | ((with_reducible apply Keeps.afterT (State.expireSkew_touches _ _)); · rfl)
    | with_reducible apply Keeps.after (State.widthEffect_keeps _ _)
    | with_reducible apply Keeps.ite
    | with_reducible intro _
    | split
    | with_reducible refine Keeps.pair (by assumption) ?_
    | dsimp only

theorem State.portBoundary_keeps (s : State) (p : Nat) : Keeps s (State.portBoundary s p) := by
  unfold State.portBoundary
  try dsimp only
  repeat' first
    | with_reducible exact .refl _
    | with_reducible assumption
    | ((with_reducible apply Keeps.afterT (State.setPort_touches _ _ _)); · rfl)
    | ((with_reducible apply Keeps.afterT (State.modPort_touches _ _ _)); · rfl)
    | ((with_reducible apply Keeps.afterT (State.unspray_touches _ _)); · rfl)
    | ((with_reducible apply Keeps.afterT (State.deliverAll_touches _)); · rfl)
    | ((with_reducible apply Keeps.afterT (State.loseFrames_touches _ _ _ _)); · rfl)
    | with_reducible apply Keeps.after (State.discardCopies_keeps _ _)
    | with_reducible apply Keeps.ite
    | with_reducible intro _
    | split
    | with_reducible refine Keeps.pair (by assumption) ?_
    | dsimp only

theorem State.portBoundaries_keeps (s : State) : Keeps s (State.portBoundaries s) := by
  unfold State.portBoundaries
  try dsimp only
  repeat' first
    | with_reducible exact .refl _
    | with_reducible assumption
    | with_reducible apply Keeps.fold
    | with_reducible apply Keeps.foldPair
    | with_reducible apply Keeps.after (State.portChanges_keeps _ _)
    | with_reducible apply Keeps.after (State.portBoundary_keeps _ _)
    | with_reducible intro _
    | with_reducible refine Keeps.pair (by assumption) ?_
    | dsimp only

end Sys2Proof.Machine
end

