-- ==== Sys2Proof/Laws/TouchLanes.lean ====
section
/-! SUPPORT. Which parts of the state each operation of Machine/Lanes.lean changes. -/

namespace Sys2Proof.Machine

theorem State.portLanes_touches (s : State) (p : Nat) : OnlyTouches [.ports] s (State.portLanes s p) := by
  unfold State.portLanes
  try dsimp only
  repeat' first
    | with_reducible exact .refl _ _
    | with_reducible assumption
    | (with_reducible apply OnlyTouches.after (State.modPort_touches _ _ _); · decide)
    | with_reducible apply OnlyTouches.ite
    | with_reducible intro _
    | split
    | with_reducible refine OnlyTouches.pair (by assumption) ?_
    | dsimp only

theorem State.trainingFrame_touches (s : State) (rx tx w : Nat) (measured : Option Nat) : OnlyTouches
    [.lanes, .out] s (State.trainingFrame s rx tx w measured) := by
  unfold State.trainingFrame
  try dsimp only
  repeat' first
    | with_reducible exact .refl _ _
    | with_reducible assumption
    | (with_reducible apply OnlyTouches.after (State.modLane_touches _ _ _); · decide)
    | with_reducible apply OnlyTouches.ite
    | with_reducible intro _
    | split
    | (with_reducible apply OnlyTouches.put_out; · decide)
    | with_reducible refine OnlyTouches.pair (by assumption) ?_
    | dsimp only

theorem execTrainingFrame_touches (t : Stall) (lane : Fin 18) (inward : Bool) (control : ControlField) (s :
    State) : StepTouches [.lanes, .out] s (execTrainingFrame t lane inward control s) := by
  unfold execTrainingFrame
  try dsimp only
  repeat' first
    | with_reducible apply OnlyTouches.ofNext
    | with_reducible exact .refl _ _
    | with_reducible assumption
    | (with_reducible apply OnlyTouches.after (State.trainingFrame_touches _ _ _ _ _); · decide)
    | with_reducible apply OnlyTouches.ite
    | with_reducible apply OnlyTouches.iteStep
    | with_reducible intro _
    | split

theorem State.laneFailed_touches (s : State) (k : Nat) : OnlyTouches [.ports, .ledger] s (State.laneFailed
    s k) := by
  unfold State.laneFailed
  try dsimp only
  repeat' first
    | with_reducible exact .refl _ _
    | with_reducible assumption
    | (with_reducible apply OnlyTouches.after (State.dropNext_touches _ _); · decide)
    | with_reducible apply OnlyTouches.ite
    | with_reducible intro _
    | split
    | with_reducible refine OnlyTouches.pair (by assumption) ?_
    | dsimp only

theorem State.trainingDone_touches (s : State) (k merit : Nat) : OnlyTouches [.lanes, .ports, .ledger,
    .host] s (State.trainingDone s k merit) := by
  unfold State.trainingDone
  try dsimp only
  repeat' first
    | with_reducible exact .refl _ _
    | with_reducible assumption
    | (with_reducible apply OnlyTouches.after (State.tablesApplied_touches _); · decide)
    | (with_reducible apply OnlyTouches.after (State.setLane_touches _ _ _); · decide)
    | (with_reducible apply OnlyTouches.after (State.portLanes_touches _ _); · decide)
    | (with_reducible apply OnlyTouches.after (State.laneFailed_touches _ _); · decide)
    | with_reducible apply OnlyTouches.ite
    | with_reducible intro _
    | split
    | with_reducible refine OnlyTouches.pair (by assumption) ?_
    | dsimp only

theorem execLaneTrainingDone_touches (t : Stall) (lane : Fin 18) (inward : Bool) (merit : Byte) (s : State)
    : StepTouches [.lanes, .ports, .ledger, .host] s (execLaneTrainingDone t lane inward merit s) := by
  unfold execLaneTrainingDone
  try dsimp only
  repeat' first
    | with_reducible apply OnlyTouches.ofNext
    | with_reducible exact .refl _ _
    | with_reducible assumption
    | (with_reducible apply OnlyTouches.after (State.trainingDone_touches _ _ _); · decide)
    | with_reducible apply OnlyTouches.ite
    | with_reducible apply OnlyTouches.iteStep
    | with_reducible intro _
    | split

theorem execSpareMeritCheck_touches (t : Stall) (lane : Fin 18) (inward : Bool) (merit retrained : Byte) (s
    : State) : StepTouches [.lanes, .warden] s (execSpareMeritCheck t lane inward merit retrained s) := by
  unfold execSpareMeritCheck
  try dsimp only
  repeat' first
    | with_reducible apply OnlyTouches.ofNext
    | with_reducible exact .refl _ _
    | with_reducible assumption
    | with_reducible apply OnlyTouches.when
    | (with_reducible apply OnlyTouches.after (State.wakeTally_touches _); · decide)
    | (with_reducible apply OnlyTouches.after (State.setLane_touches _ _ _); · decide)
    | with_reducible apply OnlyTouches.ite
    | with_reducible apply OnlyTouches.iteStep
    | with_reducible intro _
    | split
    | with_reducible refine OnlyTouches.pair (by assumption) ?_
    | dsimp only

theorem State.scheduleRemap_touches (s : State) (p : Nat) (inward : Bool) (spare bell : Nat) (token :
    Option Nat) : OnlyTouches [.lanes, .remaps] s (State.scheduleRemap s p inward spare bell token) := by
  unfold State.scheduleRemap
  try dsimp only
  repeat' first
    | with_reducible exact .refl _ _
    | with_reducible assumption
    | (with_reducible apply OnlyTouches.after (State.modLane_touches _ _ _); · decide)
    | with_reducible intro _
    | split
    | (with_reducible apply OnlyTouches.put_remaps; · decide)
    | with_reducible refine OnlyTouches.pair (by assumption) ?_
    | dsimp only

theorem State.lowMerit_touches (s : State) (k merit : Nat) : OnlyTouches [.objs, .lanes, .remaps, .ports,
    .switch, .dict, .host] s (State.lowMerit s k merit) := by
  unfold State.lowMerit
  try dsimp only
  repeat' first
    | with_reducible exact .refl _ _
    | with_reducible assumption
    | (with_reducible apply OnlyTouches.after (State.setLane_touches _ _ _); · decide)
    | (with_reducible apply OnlyTouches.after (State.startRetrain_touches _ _); · decide)
    | (with_reducible apply OnlyTouches.after (State.scheduleRemap_touches _ _ _ _ _ _); · decide)
    | with_reducible apply OnlyTouches.ite
    | with_reducible intro _
    | split
    | with_reducible refine OnlyTouches.pair (by assumption) ?_
    | dsimp only

theorem execLowMeritDetected_touches (t : Stall) (lane : Fin 18) (inward : Bool) (merit : Byte) (s : State)
    : StepTouches [.objs, .lanes, .remaps, .ports, .switch, .dict, .host] s (execLowMeritDetected t lane
    inward merit s) := by
  unfold execLowMeritDetected
  try dsimp only
  repeat' first
    | with_reducible apply OnlyTouches.ofNext
    | with_reducible exact .refl _ _
    | with_reducible assumption
    | (with_reducible apply OnlyTouches.after (State.lowMerit_touches _ _ _); · decide)
    | with_reducible intro _
    | with_reducible refine OnlyTouches.pair (by assumption) ?_
    | dsimp only

theorem State.remapStage_touches (s : State) (r : Remap) (st : RemapStage) : OnlyTouches [.remaps] s
    (State.remapStage s r st) := by
  unfold State.remapStage
  try dsimp only
  repeat' first
    | with_reducible exact .refl _ _
    | with_reducible assumption
    | with_reducible apply OnlyTouches.ite
    | with_reducible intro _
    | split
    | (with_reducible apply OnlyTouches.put_remaps; · decide)

theorem execRemapStart_touches (p : Port) (inward : Bool) (s : State) : StepTouches [.remaps, .warden] s
    (execRemapStart p inward s) := by
  unfold execRemapStart
  try dsimp only
  repeat' first
    | with_reducible apply OnlyTouches.ofNext
    | with_reducible exact .refl _ _
    | with_reducible assumption
    | (with_reducible apply OnlyTouches.after (State.wakeTally_touches _); · decide)
    | (with_reducible apply OnlyTouches.after (State.remapStage_touches _ _ _); · decide)
    | with_reducible apply OnlyTouches.ite
    | with_reducible apply OnlyTouches.iteStep
    | with_reducible intro _
    | split
    | with_reducible refine OnlyTouches.pair (by assumption) ?_
    | dsimp only

theorem State.failRemap_touches (s : State) (r : Remap) : OnlyTouches [.objs, .lanes, .remaps, .ports,
    .ledger, .dict, .host] s (State.failRemap s r) := by
  unfold State.failRemap
  try dsimp only
  repeat' first
    | with_reducible exact .refl _ _
    | with_reducible assumption
    | (with_reducible apply OnlyTouches.after (State.endFailedAt_touches _ _ _ _); · decide)
    | (with_reducible apply OnlyTouches.after (State.dropNext_touches _ _); · decide)
    | (with_reducible apply OnlyTouches.after (State.modLane_touches _ _ _); · decide)
    | with_reducible apply OnlyTouches.ite
    | with_reducible intro _
    | split
    | (with_reducible apply OnlyTouches.put_remaps; · decide)
    | with_reducible refine OnlyTouches.pair (by assumption) ?_
    | dsimp only

theorem execRemapReadinessCheck_touches (p : Port) (inward : Bool) (locked : Bool) (s : State) :
    StepTouches [.objs, .lanes, .remaps, .ports, .ledger, .dict, .host] s (execRemapReadinessCheck p inward
    locked s) := by
  unfold execRemapReadinessCheck
  try dsimp only
  repeat' first
    | with_reducible apply OnlyTouches.ofNext
    | with_reducible exact .refl _ _
    | with_reducible assumption
    | (with_reducible apply OnlyTouches.after (State.remapStage_touches _ _ _); · decide)
    | (with_reducible apply OnlyTouches.after (State.failRemap_touches _ _); · decide)
    | with_reducible apply OnlyTouches.ite
    | with_reducible apply OnlyTouches.iteStep
    | with_reducible intro _
    | split

theorem State.remapDue_touches (s : State) (r : Remap) : OnlyTouches [.objs, .lanes, .remaps, .ports,
    .ledger, .dict, .host] s (State.remapDue s r) := by
  unfold State.remapDue
  try dsimp only
  repeat' first
    | with_reducible exact .refl _ _
    | with_reducible assumption
    | (with_reducible apply OnlyTouches.after (State.count_touches _ _ _ _ _); · decide)
    | (with_reducible apply OnlyTouches.after (State.endDone_touches _ _); · decide)
    | (with_reducible apply OnlyTouches.after (State.modLane_touches _ _ _); · decide)
    | (with_reducible apply OnlyTouches.after (State.remapStage_touches _ _ _); · decide)
    | (with_reducible apply OnlyTouches.after (State.failRemap_touches _ _); · decide)
    | with_reducible apply OnlyTouches.ite
    | with_reducible intro _
    | split
    | (with_reducible apply OnlyTouches.put_remaps; · decide)
    | with_reducible refine OnlyTouches.pair (by assumption) ?_
    | dsimp only

theorem execRemapSwitch_touches (p : Port) (inward : Bool) (s : State) : StepTouches [.objs, .lanes,
    .remaps, .ports, .ledger, .dict, .host] s (execRemapSwitch p inward s) := by
  unfold execRemapSwitch
  try dsimp only
  repeat' first
    | with_reducible apply OnlyTouches.ofNext
    | with_reducible exact .refl _ _
    | with_reducible assumption
    | (with_reducible apply OnlyTouches.after (State.remapDue_touches _ _); · decide)
    | with_reducible intro _
    | split

theorem State.remapsDue_touches (s : State) : OnlyTouches [.objs, .lanes, .remaps, .ports, .ledger, .dict,
    .host] s (State.remapsDue s) := by
  unfold State.remapsDue
  try dsimp only
  repeat' first
    | with_reducible exact .refl _ _
    | with_reducible assumption
    | with_reducible apply OnlyTouches.fold
    | with_reducible apply OnlyTouches.foldPair
    | (with_reducible apply OnlyTouches.after (State.remapDue_touches _ _); · decide)
    | with_reducible intro _

theorem execOldLaneIdle_touches (p : Port) (inward : Bool) (merit : Byte) (s : State) : StepTouches
    [.lanes, .remaps] s (execOldLaneIdle p inward merit s) := by
  unfold execOldLaneIdle
  try dsimp only
  repeat' first
    | with_reducible apply OnlyTouches.ofNext
    | with_reducible exact .refl _ _
    | with_reducible assumption
    | (with_reducible apply OnlyTouches.after (State.modLane_touches _ _ _); · decide)
    | with_reducible apply OnlyTouches.ite
    | with_reducible apply OnlyTouches.iteStep
    | with_reducible intro _
    | split
    | (with_reducible apply OnlyTouches.put_remaps; · decide)

end Sys2Proof.Machine
end

