-- ==== Sys2Proof/Laws/KeepLanes.lean ====
section
/-! SUPPORT. The operations of Machine/Lanes.lean keep the invariant. -/

namespace Sys2Proof.Machine

theorem State.lowMerit_keeps (s : State) (k merit : Nat) : Keeps s (State.lowMerit s k merit) := by
  unfold State.lowMerit
  try dsimp only
  repeat' first
    | with_reducible exact .refl _
    | with_reducible assumption
    | ((with_reducible apply Keeps.afterT (State.setLane_touches _ _ _)); · rfl)
    | with_reducible apply Keeps.after (State.startRetrain_keeps _ _)
    | ((with_reducible apply Keeps.afterT (State.scheduleRemap_touches _ _ _ _ _ _)); · rfl)
    | with_reducible apply Keeps.ite
    | with_reducible intro _
    | split
    | with_reducible refine Keeps.pair (by assumption) ?_
    | dsimp only

theorem execLowMeritDetected_keeps (t : Stall) (lane : Fin 18) (inward : Bool) (merit : Byte) (s : State) :
    StepKeeps s (execLowMeritDetected t lane inward merit s) := by
  unfold execLowMeritDetected
  try dsimp only
  repeat' first
    | with_reducible apply Keeps.ofNext
    | with_reducible exact .refl _
    | with_reducible assumption
    | with_reducible apply Keeps.after (State.lowMerit_keeps _ _ _)
    | with_reducible intro _
    | with_reducible refine Keeps.pair (by assumption) ?_
    | dsimp only

theorem State.failRemap_keeps (s : State) (r : Remap) : Keeps s (State.failRemap s r) := by
  unfold State.failRemap
  try dsimp only
  repeat' first
    | with_reducible exact .refl _
    | with_reducible assumption
    | with_reducible apply Keeps.after (State.endFailedAt_keeps _ _ _ _)
    | ((with_reducible apply Keeps.afterT (State.dropNext_touches _ _)); · rfl)
    | ((with_reducible apply Keeps.afterT (State.modLane_touches _ _ _)); · rfl)
    | with_reducible apply Keeps.ite
    | with_reducible intro _
    | split
    | with_reducible apply Keeps.put_remaps
    | with_reducible refine Keeps.pair (by assumption) ?_
    | dsimp only

theorem execRemapReadinessCheck_keeps (p : Port) (inward : Bool) (locked : Bool) (s : State) : StepKeeps s
    (execRemapReadinessCheck p inward locked s) := by
  unfold execRemapReadinessCheck
  try dsimp only
  repeat' first
    | with_reducible apply Keeps.ofNext
    | with_reducible exact .refl _
    | with_reducible assumption
    | ((with_reducible apply Keeps.afterT (State.remapStage_touches _ _ _)); · rfl)
    | with_reducible apply Keeps.after (State.failRemap_keeps _ _)
    | with_reducible apply Keeps.ite
    | with_reducible apply Keeps.iteStep
    | with_reducible intro _
    | split

theorem State.remapDue_keeps (s : State) (r : Remap) : Keeps s (State.remapDue s r) := by
  unfold State.remapDue
  try dsimp only
  repeat' first
    | with_reducible exact .refl _
    | with_reducible assumption
    | ((with_reducible apply Keeps.afterT (State.count_touches _ _ _ _ _)); · rfl)
    | with_reducible apply Keeps.after (State.endDone_keeps _ _)
    | ((with_reducible apply Keeps.afterT (State.modLane_touches _ _ _)); · rfl)
    | ((with_reducible apply Keeps.afterT (State.remapStage_touches _ _ _)); · rfl)
    | with_reducible apply Keeps.after (State.failRemap_keeps _ _)
    | with_reducible apply Keeps.ite
    | with_reducible intro _
    | split
    | with_reducible apply Keeps.put_remaps
    | with_reducible refine Keeps.pair (by assumption) ?_
    | dsimp only

theorem execRemapSwitch_keeps (p : Port) (inward : Bool) (s : State) : StepKeeps s (execRemapSwitch p
    inward s) := by
  unfold execRemapSwitch
  try dsimp only
  repeat' first
    | with_reducible apply Keeps.ofNext
    | with_reducible exact .refl _
    | with_reducible assumption
    | with_reducible apply Keeps.after (State.remapDue_keeps _ _)
    | with_reducible intro _
    | split

theorem State.remapsDue_keeps (s : State) : Keeps s (State.remapsDue s) := by
  unfold State.remapsDue
  try dsimp only
  repeat' first
    | with_reducible exact .refl _
    | with_reducible assumption
    | with_reducible apply Keeps.fold
    | with_reducible apply Keeps.foldPair
    | with_reducible apply Keeps.after (State.remapDue_keeps _ _)
    | with_reducible intro _

end Sys2Proof.Machine
end

