-- ==== Sys2Proof/Laws/TouchOpenings.lean ====
section
/-! SUPPORT. Which parts of the state each operation of Machine/Openings.lean changes. -/

namespace Sys2Proof.Machine

theorem State.openTake_touches (s : State) (token bell : Nat) (args : Tbl Nat) : OnlyTouches [.coll, .dict]
    s (State.openTake s token bell args) := by
  unfold State.openTake
  try dsimp only
  repeat' first
    | with_reducible exact .refl _ _
    | with_reducible assumption
    | (with_reducible apply OnlyTouches.after (State.setGroup_touches _ _ _); · decide)
    | (with_reducible apply OnlyTouches.after (State.setResult_touches _ _ _ _); · decide)
    | with_reducible intro _
    | (with_reducible apply OnlyTouches.put_coll; · decide)
    | with_reducible refine OnlyTouches.pair (by assumption) ?_
    | dsimp only

theorem State.writeBitmaps_touches (s : State) (g : Nat) (ports : List Nat) : OnlyTouches [.switch] s
    (State.writeBitmaps s g ports) := by
  unfold State.writeBitmaps
  try dsimp only
  repeat' first
    | with_reducible exact .refl _ _
    | with_reducible assumption
    | with_reducible apply OnlyTouches.fold
    | with_reducible apply OnlyTouches.foldPair
    | with_reducible apply OnlyTouches.ite
    | with_reducible intro _
    | split
    | (with_reducible apply OnlyTouches.put_switch; · decide)

theorem State.openUndone_touches (s : State) (g : Nat) : OnlyTouches [.coll] s (State.openUndone s g) := by
  unfold State.openUndone
  try dsimp only
  repeat' first
    | with_reducible exact .refl _ _
    | with_reducible assumption
    | (with_reducible apply OnlyTouches.after (State.setGroup_touches _ _ _); · decide)
    | with_reducible intro _
    | with_reducible refine OnlyTouches.pair (by assumption) ?_
    | dsimp only

theorem State.openDue_touches (s : State) (g : Nat) : OnlyTouches [.objs, .switch, .coll, .dict, .host] s
    (State.openDue s g) := by
  unfold State.openDue
  try dsimp only
  repeat' first
    | with_reducible exact .refl _ _
    | with_reducible assumption
    | (with_reducible apply OnlyTouches.after (State.setGroup_touches _ _ _); · decide)
    | (with_reducible apply OnlyTouches.after (State.endDone_touches _ _); · decide)
    | (with_reducible apply OnlyTouches.after (State.setResult_touches _ _ _ _); · decide)
    | (with_reducible apply OnlyTouches.after (State.endFailedAt_touches _ _ _ _); · decide)
    | (with_reducible apply OnlyTouches.after (State.writeBitmaps_touches _ _ _); · decide)
    | (with_reducible apply OnlyTouches.after (State.openUndone_touches _ _); · decide)
    | with_reducible apply OnlyTouches.ite
    | with_reducible intro _
    | split
    | with_reducible refine OnlyTouches.pair (by assumption) ?_
    | dsimp only

theorem execGroupOpenAtG_touches (g : Group) (s : State) : StepTouches [.objs, .switch, .coll, .dict,
    .host] s (execGroupOpenAtG g s) := by
  unfold execGroupOpenAtG
  try dsimp only
  repeat' first
    | with_reducible apply OnlyTouches.ofNext
    | with_reducible exact .refl _ _
    | with_reducible assumption
    | (with_reducible apply OnlyTouches.after (State.openDue_touches _ _); · decide)
    | with_reducible intro _
    | with_reducible refine OnlyTouches.pair (by assumption) ?_
    | dsimp only

theorem State.closeTake_touches (s : State) (token : Nat) (args : Tbl Nat) : OnlyTouches [.objs, .dict,
    .host] s (State.closeTake s token args) := by
  unfold State.closeTake
  try dsimp only
  repeat' first
    | with_reducible exact .refl _ _
    | with_reducible assumption
    | (with_reducible apply OnlyTouches.after (State.endDone_touches _ _); · decide)
    | with_reducible apply OnlyTouches.ite
    | with_reducible intro _
    | split

theorem State.closeDue_touches (s : State) (g : Nat) : OnlyTouches [.objs, .switch, .coll, .mem, .dict,
    .host] s (State.closeDue s g) := by
  unfold State.closeDue
  try dsimp only
  repeat' first
    | with_reducible exact .refl _ _
    | with_reducible assumption
    | (with_reducible apply OnlyTouches.after (State.setGroup_touches _ _ _); · decide)
    | (with_reducible apply OnlyTouches.after (State.endFailed_touches _ _ _); · decide)
    | (with_reducible apply OnlyTouches.after (State.endAll_touches _ _); · decide)
    | (with_reducible apply OnlyTouches.after (State.markAll_touches _ _); · decide)
    | (with_reducible apply OnlyTouches.after (State.freeKeptOf_touches _ _ _); · decide)
    | (with_reducible apply OnlyTouches.after (State.openUndone_touches _ _); · decide)
    | with_reducible apply OnlyTouches.ite
    | with_reducible intro _
    | split
    | with_reducible refine OnlyTouches.pair (by assumption) ?_
    | dsimp only

theorem execGroupClosingAtC_touches (g : Group) (s : State) : StepTouches [.objs, .switch, .coll, .mem,
    .dict, .host] s (execGroupClosingAtC g s) := by
  unfold execGroupClosingAtC
  try dsimp only
  repeat' first
    | with_reducible apply OnlyTouches.ofNext
    | with_reducible exact .refl _ _
    | with_reducible assumption
    | (with_reducible apply OnlyTouches.after (State.closeDue_touches _ _); · decide)
    | with_reducible intro _
    | with_reducible refine OnlyTouches.pair (by assumption) ?_
    | dsimp only

theorem State.freePairOf_touches (s : State) (g : Nat) : OnlyTouches [.objs, .custody, .dict, .host] s
    (State.freePairOf s g) := by
  unfold State.freePairOf
  try dsimp only
  repeat' first
    | with_reducible exact .refl _ _
    | with_reducible assumption
    | (with_reducible apply OnlyTouches.after (State.setPair_touches _ _ _); · decide)
    | (with_reducible apply OnlyTouches.after (State.endFailed_touches _ _ _); · decide)
    | with_reducible intro _
    | split
    | with_reducible refine OnlyTouches.pair (by assumption) ?_
    | dsimp only

theorem State.groupFree_touches (s : State) (g : Nat) : OnlyTouches [.objs, .switch, .coll, .custody,
    .dict, .host] s (State.groupFree s g) := by
  unfold State.groupFree
  try dsimp only
  repeat' first
    | with_reducible exact .refl _ _
    | with_reducible assumption
    | (with_reducible apply OnlyTouches.after (State.setGroup_touches _ _ _); · decide)
    | (with_reducible apply OnlyTouches.after (State.endAll_touches _ _); · decide)
    | (with_reducible apply OnlyTouches.after (State.writeBitmaps_touches _ _ _); · decide)
    | (with_reducible apply OnlyTouches.after (State.freePairOf_touches _ _); · decide)
    | with_reducible apply OnlyTouches.ite
    | with_reducible intro _
    | split
    | (with_reducible apply OnlyTouches.put_coll; · decide)
    | with_reducible refine OnlyTouches.pair (by assumption) ?_
    | dsimp only

theorem execGroupFree_touches (g : Group) (s : State) : StepTouches [.objs, .switch, .coll, .custody,
    .dict, .host] s (execGroupFree g s) := by
  unfold execGroupFree
  try dsimp only
  repeat' first
    | with_reducible apply OnlyTouches.ofNext
    | with_reducible exact .refl _ _
    | with_reducible assumption
    | (with_reducible apply OnlyTouches.after (State.groupFree_touches _ _); · decide)
    | with_reducible intro _
    | with_reducible refine OnlyTouches.pair (by assumption) ?_
    | dsimp only

end Sys2Proof.Machine
end

