-- ==== Sys2Proof/Laws/KeepOpenings.lean ====
section
/-! SUPPORT. The operations of Machine/Openings.lean keep the invariant. -/

namespace Sys2Proof.Machine

theorem State.openTake_keeps (s : State) (token bell : Nat) (args : Tbl Nat) : Keeps s (State.openTake s
    token bell args) := by
  unfold State.openTake
  try dsimp only
  repeat' first
    | with_reducible exact .refl _
    | with_reducible assumption
    | ((with_reducible apply Keeps.afterT (State.setGroup_touches _ _ _)); · rfl)
    | with_reducible apply Keeps.after (State.setResult_keeps _ _ _ _)
    | with_reducible intro _
    | with_reducible apply Keeps.put_coll
    | with_reducible refine Keeps.pair (by assumption) ?_
    | dsimp only

theorem State.openDue_keeps (s : State) (g : Nat) : Keeps s (State.openDue s g) := by
  unfold State.openDue
  try dsimp only
  repeat' first
    | with_reducible exact .refl _
    | with_reducible assumption
    | ((with_reducible apply Keeps.afterT (State.setGroup_touches _ _ _)); · rfl)
    | with_reducible apply Keeps.after (State.endDone_keeps _ _)
    | with_reducible apply Keeps.after (State.setResult_keeps _ _ _ _)
    | with_reducible apply Keeps.after (State.endFailedAt_keeps _ _ _ _)
    | ((with_reducible apply Keeps.afterT (State.writeBitmaps_touches _ _ _)); · rfl)
    | ((with_reducible apply Keeps.afterT (State.openUndone_touches _ _)); · rfl)
    | with_reducible apply Keeps.ite
    | with_reducible intro _
    | split
    | with_reducible refine Keeps.pair (by assumption) ?_
    | dsimp only

theorem execGroupOpenAtG_keeps (g : Group) (s : State) : StepKeeps s (execGroupOpenAtG g s) := by
  unfold execGroupOpenAtG
  try dsimp only
  repeat' first
    | with_reducible apply Keeps.ofNext
    | with_reducible exact .refl _
    | with_reducible assumption
    | with_reducible apply Keeps.after (State.openDue_keeps _ _)
    | with_reducible intro _
    | with_reducible refine Keeps.pair (by assumption) ?_
    | dsimp only

theorem State.closeTake_keeps (s : State) (token : Nat) (args : Tbl Nat) : Keeps s (State.closeTake s token
    args) := by
  unfold State.closeTake
  try dsimp only
  repeat' first
    | with_reducible exact .refl _
    | with_reducible assumption
    | with_reducible apply Keeps.after (State.endDone_keeps _ _)
    | with_reducible apply Keeps.ite
    | with_reducible intro _
    | split

theorem State.closeDue_keeps (s : State) (g : Nat) : Keeps s (State.closeDue s g) := by
  unfold State.closeDue
  try dsimp only
  repeat' first
    | with_reducible exact .refl _
    | with_reducible assumption
    | ((with_reducible apply Keeps.afterT (State.setGroup_touches _ _ _)); · rfl)
    | with_reducible apply Keeps.after (State.endFailed_keeps _ _ _)
    | with_reducible apply Keeps.after (State.endAll_keeps _ _)
    | with_reducible apply Keeps.after (State.markAll_keeps _ _)
    | with_reducible apply Keeps.after (State.freeKeptOf_keeps _ _ _)
    | ((with_reducible apply Keeps.afterT (State.openUndone_touches _ _)); · rfl)
    | with_reducible apply Keeps.ite
    | with_reducible intro _
    | split
    | with_reducible refine Keeps.pair (by assumption) ?_
    | dsimp only

theorem execGroupClosingAtC_keeps (g : Group) (s : State) : StepKeeps s (execGroupClosingAtC g s) := by
  unfold execGroupClosingAtC
  try dsimp only
  repeat' first
    | with_reducible apply Keeps.ofNext
    | with_reducible exact .refl _
    | with_reducible assumption
    | with_reducible apply Keeps.after (State.closeDue_keeps _ _)
    | with_reducible intro _
    | with_reducible refine Keeps.pair (by assumption) ?_
    | dsimp only

theorem State.freePairOf_keeps (s : State) (g : Nat) : Keeps s (State.freePairOf s g) := by
  unfold State.freePairOf
  try dsimp only
  repeat' first
    | with_reducible exact .refl _
    | with_reducible assumption
    | ((with_reducible apply Keeps.afterT (State.setPair_touches _ _ _)); · rfl)
    | with_reducible apply Keeps.after (State.endFailed_keeps _ _ _)
    | with_reducible intro _
    | split
    | with_reducible refine Keeps.pair (by assumption) ?_
    | dsimp only

theorem State.groupFree_keeps (s : State) (g : Nat) : Keeps s (State.groupFree s g) := by
  unfold State.groupFree
  try dsimp only
  repeat' first
    | with_reducible exact .refl _
    | with_reducible assumption
    | ((with_reducible apply Keeps.afterT (State.setGroup_touches _ _ _)); · rfl)
    | with_reducible apply Keeps.after (State.endAll_keeps _ _)
    | ((with_reducible apply Keeps.afterT (State.writeBitmaps_touches _ _ _)); · rfl)
    | with_reducible apply Keeps.after (State.freePairOf_keeps _ _)
    | with_reducible apply Keeps.ite
    | with_reducible intro _
    | split
    | with_reducible apply Keeps.put_coll
    | with_reducible refine Keeps.pair (by assumption) ?_
    | dsimp only

theorem execGroupFree_keeps (g : Group) (s : State) : StepKeeps s (execGroupFree g s) := by
  unfold execGroupFree
  try dsimp only
  repeat' first
    | with_reducible apply Keeps.ofNext
    | with_reducible exact .refl _
    | with_reducible assumption
    | with_reducible apply Keeps.after (State.groupFree_keeps _ _)
    | with_reducible intro _
    | with_reducible refine Keeps.pair (by assumption) ?_
    | dsimp only

end Sys2Proof.Machine
end

