-- ==== Sys2Proof/Laws/TouchOptics.lean ====
section
/-! SUPPORT. Which parts of the state each operation of Machine/Optics.lean changes. -/

namespace Sys2Proof.Machine

theorem State.setCarrier_touches (s : State) (t : Nat) (rx : Bool) (home c : Nat) : OnlyTouches [.optics] s
    (State.setCarrier s t rx home c) := by
  unfold State.setCarrier
  try dsimp only
  repeat' first
    | with_reducible exact .refl _ _
    | with_reducible assumption
    | with_reducible apply OnlyTouches.ite
    | with_reducible intro _
    | split
    | (with_reducible apply OnlyTouches.put_optics; · decide)

theorem State.packEvent_touches (s : State) (e : Nat) (o : Obj) (arg : Nat) : OnlyTouches [.objs, .dict,
    .host] s (State.packEvent s e o arg) := by
  unfold State.packEvent
  try dsimp only
  repeat' first
    | with_reducible exact .refl _ _
    | with_reducible assumption
    | (with_reducible apply OnlyTouches.after (State.eventAt_touches _ _ _ _ _); · decide)
    | with_reducible intro _

theorem State.checkPack_touches (s : State) (e : Nat) : OnlyTouches [.objs, .optics, .dict, .host] s
    (State.checkPack s e) := by
  unfold State.checkPack
  try dsimp only
  repeat' first
    | with_reducible exact .refl _ _
    | with_reducible assumption
    | (with_reducible apply OnlyTouches.after (State.setPack_touches _ _ _); · decide)
    | (with_reducible apply OnlyTouches.after (State.packEvent_touches _ _ _ _); · decide)
    | with_reducible apply OnlyTouches.ite
    | with_reducible intro _
    | split
    | with_reducible refine OnlyTouches.pair (by assumption) ?_
    | dsimp only

theorem execPackInsert_touches (e : Engine) (ident : PackIdentity) (s : State) : StepTouches [.objs,
    .optics, .dict, .host] s (execPackInsert e ident s) := by
  unfold execPackInsert
  try dsimp only
  repeat' first
    | with_reducible apply OnlyTouches.ofNext
    | with_reducible exact .refl _ _
    | with_reducible assumption
    | (with_reducible apply OnlyTouches.after (State.modEngine_touches _ _ _); · decide)
    | (with_reducible apply OnlyTouches.after (State.setPack_touches _ _ _); · decide)
    | (with_reducible apply OnlyTouches.after (State.checkPack_touches _ _); · decide)
    | with_reducible apply OnlyTouches.ite
    | with_reducible apply OnlyTouches.iteStep
    | with_reducible intro _
    | split
    | with_reducible refine OnlyTouches.pair (by assumption) ?_
    | dsimp only

theorem State.openShutters_touches (s : State) (e : Nat) : OnlyTouches [.optics] s (State.openShutters s e)
    := by
  unfold State.openShutters
  try dsimp only
  repeat' first
    | with_reducible exact .refl _ _
    | with_reducible assumption
    | with_reducible apply OnlyTouches.each
    | (with_reducible apply OnlyTouches.after (State.modFiber_touches _ _ _); · decide)
    | with_reducible apply OnlyTouches.ite
    | with_reducible intro _
    | split

theorem State.engineUp_touches (s : State) (e : Nat) (fresh : Bool) : OnlyTouches [.optics, .ports,
    .ledger] s (State.engineUp s e fresh) := by
  unfold State.engineUp
  try dsimp only
  repeat' first
    | with_reducible exact .refl _ _
    | with_reducible assumption
    | with_reducible apply OnlyTouches.fold
    | with_reducible apply OnlyTouches.foldPair
    | (with_reducible apply OnlyTouches.after (State.modPort_touches _ _ _); · decide)
    | (with_reducible apply OnlyTouches.after (State.modEngine_touches _ _ _); · decide)
    | (with_reducible apply OnlyTouches.after (State.dropped_touches _ _ _ _); · decide)
    | (with_reducible apply OnlyTouches.after (State.portLanes_touches _ _); · decide)
    | (with_reducible apply OnlyTouches.after (State.setCarrier_touches _ _ _ _ _); · decide)
    | with_reducible apply OnlyTouches.ite
    | with_reducible intro _
    | split
    | with_reducible refine OnlyTouches.pair (by assumption) ?_
    | dsimp only

theorem State.packLit_touches (s : State) (e : Nat) : OnlyTouches [.optics, .ports, .ledger] s
    (State.packLit s e) := by
  unfold State.packLit
  try dsimp only
  repeat' first
    | with_reducible exact .refl _ _
    | with_reducible assumption
    | (with_reducible apply OnlyTouches.after (State.modPack_touches _ _ _); · decide)
    | (with_reducible apply OnlyTouches.after (State.openShutters_touches _ _); · decide)
    | (with_reducible apply OnlyTouches.after (State.engineUp_touches _ _ _); · decide)
    | with_reducible intro _
    | with_reducible refine OnlyTouches.pair (by assumption) ?_
    | dsimp only

theorem State.packStage_touches (s : State) (e : Nat) : OnlyTouches [.optics, .ports, .warden, .ledger] s
    (State.packStage s e) := by
  unfold State.packStage
  try dsimp only
  repeat' first
    | with_reducible exact .refl _ _
    | with_reducible assumption
    | with_reducible apply OnlyTouches.when
    | (with_reducible apply OnlyTouches.after (State.modEngine_touches _ _ _); · decide)
    | (with_reducible apply OnlyTouches.after (State.setPack_touches _ _ _); · decide)
    | (with_reducible apply OnlyTouches.after (State.askTally_touches _ _ _); · decide)
    | (with_reducible apply OnlyTouches.afterPair (State.askTally_touches _ _ _); (first | assumption | decide); (first | assumption | decide))
    | (with_reducible apply OnlyTouches.after (State.packLit_touches _ _); · decide)
    | with_reducible apply OnlyTouches.ite
    | with_reducible intro _
    | split
    | with_reducible refine OnlyTouches.pair (by assumption) ?_
    | dsimp only

theorem execPackStartStage_touches (e : Engine) (s : State) : StepTouches [.optics, .ports, .warden,
    .ledger] s (execPackStartStage e s) := by
  unfold execPackStartStage
  try dsimp only
  repeat' first
    | with_reducible apply OnlyTouches.ofNext
    | with_reducible exact .refl _ _
    | with_reducible assumption
    | (with_reducible apply OnlyTouches.after (State.packStage_touches _ _); · decide)
    | with_reducible intro _
    | with_reducible refine OnlyTouches.pair (by assumption) ?_
    | dsimp only

theorem State.packPrepare_touches (s : State) (e : Nat) : OnlyTouches [.optics] s (State.packPrepare s e)
    := by
  unfold State.packPrepare
  try dsimp only
  repeat' first
    | with_reducible exact .refl _ _
    | with_reducible assumption
    | (with_reducible apply OnlyTouches.after (State.modPack_touches _ _ _); · decide)
    | with_reducible apply OnlyTouches.ite
    | with_reducible intro _
    | split
    | with_reducible refine OnlyTouches.pair (by assumption) ?_
    | dsimp only

theorem State.packBoundary_touches (s : State) (e : Nat) : OnlyTouches [.optics, .ports] s
    (State.packBoundary s e) := by
  unfold State.packBoundary
  try dsimp only
  repeat' first
    | with_reducible exact .refl _ _
    | with_reducible assumption
    | with_reducible apply OnlyTouches.each
    | (with_reducible apply OnlyTouches.after (State.modPort_touches _ _ _); · decide)
    | (with_reducible apply OnlyTouches.after (State.modPack_touches _ _ _); · decide)
    | with_reducible apply OnlyTouches.ite
    | with_reducible intro _
    | split
    | with_reducible refine OnlyTouches.pair (by assumption) ?_
    | dsimp only

theorem State.dropEngine_touches (s : State) (e : Nat) : OnlyTouches [.objs, .time, .lanes, .remaps,
    .ports, .switch, .coll, .mem, .ledger, .dict, .host] s (State.dropEngine s e) := by
  unfold State.dropEngine
  try dsimp only
  repeat' first
    | with_reducible exact .refl _ _
    | with_reducible assumption
    | with_reducible apply OnlyTouches.fold
    | with_reducible apply OnlyTouches.foldPair
    | (with_reducible apply OnlyTouches.after (State.modPort_touches _ _ _); · decide)
    | (with_reducible apply OnlyTouches.after (State.dropped_touches _ _ _ _); · decide)
    | (with_reducible apply OnlyTouches.after (State.dropOut_touches _ _ _); · decide)
    | with_reducible apply OnlyTouches.ite
    | with_reducible intro _
    | split
    | with_reducible refine OnlyTouches.pair (by assumption) ?_
    | dsimp only

theorem State.dropMoves_touches (s : State) (e : Nat) : OnlyTouches [.optics, .warden] s (State.dropMoves s
    e) := by
  unfold State.dropMoves
  try dsimp only
  repeat' first
    | with_reducible exact .refl _ _
    | with_reducible assumption
    | with_reducible apply OnlyTouches.each
    | (with_reducible apply OnlyTouches.after (State.modFiber_touches _ _ _); · decide)
    | (with_reducible apply OnlyTouches.after (State.dropSteps_touches _ _); · decide)
    | with_reducible intro _
    | split
    | (with_reducible apply OnlyTouches.put_optics; · decide)

theorem State.lasersOff_touches (s : State) (e : Nat) : OnlyTouches [.objs, .time, .optics, .lanes,
    .remaps, .ports, .switch, .coll, .mem, .warden, .ledger, .dict, .host] s (State.lasersOff s e) := by
  unfold State.lasersOff
  try dsimp only
  repeat' first
    | with_reducible exact .refl _ _
    | with_reducible assumption
    | (with_reducible apply OnlyTouches.after (State.modEngine_touches _ _ _); · decide)
    | (with_reducible apply OnlyTouches.after (State.modPack_touches _ _ _); · decide)
    | (with_reducible apply OnlyTouches.after (State.dropEngine_touches _ _); · decide)
    | (with_reducible apply OnlyTouches.after (State.dropMoves_touches _ _); · decide)
    | with_reducible intro _
    | with_reducible refine OnlyTouches.pair (by assumption) ?_
    | dsimp only

theorem State.preparedNow_touches (s : State) (e : Nat) : OnlyTouches [.objs, .time, .optics, .lanes,
    .remaps, .ports, .switch, .coll, .mem, .warden, .ledger, .dict, .host] s (State.preparedNow s e) := by
  unfold State.preparedNow
  try dsimp only
  repeat' first
    | with_reducible exact .refl _ _
    | with_reducible assumption
    | with_reducible apply OnlyTouches.each
    | (with_reducible apply OnlyTouches.after (State.modEngine_touches _ _ _); · decide)
    | (with_reducible apply OnlyTouches.after (State.modPack_touches _ _ _); · decide)
    | (with_reducible apply OnlyTouches.after (State.modFiber_touches _ _ _); · decide)
    | (with_reducible apply OnlyTouches.after (State.lasersOff_touches _ _); · decide)
    | with_reducible apply OnlyTouches.ite
    | with_reducible intro _
    | split
    | with_reducible refine OnlyTouches.pair (by assumption) ?_
    | dsimp only

theorem execPackPrepareDrainEnd_touches (e : Engine) (s : State) : StepTouches [.objs, .time, .optics,
    .lanes, .remaps, .ports, .switch, .coll, .mem, .warden, .ledger, .dict, .host] s
    (execPackPrepareDrainEnd e s) := by
  unfold execPackPrepareDrainEnd
  try dsimp only
  repeat' first
    | with_reducible apply OnlyTouches.ofNext
    | with_reducible exact .refl _ _
    | with_reducible assumption
    | (with_reducible apply OnlyTouches.after (State.preparedNow_touches _ _); · decide)
    | with_reducible intro _
    | with_reducible refine OnlyTouches.pair (by assumption) ?_
    | dsimp only

theorem State.packCancelPrepare_touches (s : State) (e : Nat) : OnlyTouches [.optics, .ports] s
    (State.packCancelPrepare s e) := by
  unfold State.packCancelPrepare
  try dsimp only
  repeat' first
    | with_reducible exact .refl _ _
    | with_reducible assumption
    | with_reducible apply OnlyTouches.each
    | (with_reducible apply OnlyTouches.after (State.modPort_touches _ _ _); · decide)
    | (with_reducible apply OnlyTouches.after (State.modEngine_touches _ _ _); · decide)
    | (with_reducible apply OnlyTouches.after (State.setPack_touches _ _ _); · decide)
    | with_reducible apply OnlyTouches.ite
    | with_reducible intro _
    | split
    | with_reducible refine OnlyTouches.pair (by assumption) ?_
    | dsimp only

theorem State.packRestart_touches (s : State) (e : Nat) : OnlyTouches [.objs, .optics, .dict, .host] s
    (State.packRestart s e) := by
  unfold State.packRestart
  try dsimp only
  repeat' first
    | with_reducible exact .refl _ _
    | with_reducible assumption
    | (with_reducible apply OnlyTouches.after (State.checkPack_touches _ _); · decide)
    | with_reducible apply OnlyTouches.ite
    | with_reducible intro _
    | split
    | with_reducible refine OnlyTouches.pair (by assumption) ?_
    | dsimp only

theorem execPackPull_touches (e : Engine) (s : State) : StepTouches [.objs, .time, .optics, .lanes,
    .remaps, .ports, .switch, .coll, .mem, .warden, .ledger, .dict, .host] s (execPackPull e s) := by
  unfold execPackPull
  try dsimp only
  repeat' first
    | with_reducible apply OnlyTouches.ofNext
    | with_reducible exact .refl _ _
    | with_reducible assumption
    | (with_reducible apply OnlyTouches.after (State.modEngine_touches _ _ _); · decide)
    | (with_reducible apply OnlyTouches.after (State.setPack_touches _ _ _); · decide)
    | (with_reducible apply OnlyTouches.after (State.packEvent_touches _ _ _ _); · decide)
    | (with_reducible apply OnlyTouches.after (State.lasersOff_touches _ _); · decide)
    | with_reducible apply OnlyTouches.ite
    | with_reducible apply OnlyTouches.iteStep
    | with_reducible intro _
    | split
    | with_reducible refine OnlyTouches.pair (by assumption) ?_
    | dsimp only

theorem execPreparedPackRemoval_touches (e : Engine) (s : State) : StepTouches [.optics] s
    (execPreparedPackRemoval e s) := by
  unfold execPreparedPackRemoval
  try dsimp only
  repeat' first
    | with_reducible apply OnlyTouches.ofNext
    | with_reducible exact .refl _ _
    | with_reducible assumption
    | (with_reducible apply OnlyTouches.after (State.modEngine_touches _ _ _); · decide)
    | (with_reducible apply OnlyTouches.after (State.setPack_touches _ _ _); · decide)
    | with_reducible apply OnlyTouches.ite
    | with_reducible apply OnlyTouches.iteStep
    | with_reducible intro _
    | split
    | with_reducible refine OnlyTouches.pair (by assumption) ?_
    | dsimp only

theorem State.startEngine_touches (s : State) (e : Nat) : OnlyTouches [.optics, .ports, .ledger] s
    (State.startEngine s e) := by
  unfold State.startEngine
  try dsimp only
  repeat' first
    | with_reducible exact .refl _ _
    | with_reducible assumption
    | (with_reducible apply OnlyTouches.after (State.modEngine_touches _ _ _); · decide)
    | (with_reducible apply OnlyTouches.after (State.packLit_touches _ _); · decide)
    | with_reducible apply OnlyTouches.ite
    | with_reducible intro _
    | split
    | with_reducible refine OnlyTouches.pair (by assumption) ?_
    | dsimp only

theorem execLossOfLight_touches (t : Fiber) (s : State) : StepTouches [.objs, .optics] s (execLossOfLight t
    s) := by
  unfold execLossOfLight
  try dsimp only
  repeat' first
    | with_reducible apply OnlyTouches.ofNext
    | with_reducible exact .refl _ _
    | with_reducible assumption
    | with_reducible apply OnlyTouches.when
    | (with_reducible apply OnlyTouches.after (State.bump_touches _ _ _); · decide)
    | (with_reducible apply OnlyTouches.after (State.modFiber_touches _ _ _); · decide)
    | with_reducible apply OnlyTouches.ite
    | with_reducible apply OnlyTouches.iteStep
    | with_reducible intro _
    | split
    | with_reducible refine OnlyTouches.pair (by assumption) ?_
    | dsimp only

theorem execProbeBurst_touches (t : Fiber) (s : State) : StepTouches [.optics] s (execProbeBurst t s) := by
  unfold execProbeBurst
  try dsimp only
  repeat' first
    | with_reducible apply OnlyTouches.ofNext
    | with_reducible exact .refl _ _
    | with_reducible assumption
    | (with_reducible apply OnlyTouches.after (State.modFiber_touches _ _ _); · decide)
    | with_reducible apply OnlyTouches.ite
    | with_reducible apply OnlyTouches.iteStep
    | with_reducible intro _
    | split
    | with_reducible refine OnlyTouches.pair (by assumption) ?_
    | dsimp only

theorem execLightRestored_touches (t : Fiber) (s : State) : StepTouches [.optics] s (execLightRestored t s)
    := by
  unfold execLightRestored
  try dsimp only
  repeat' first
    | with_reducible apply OnlyTouches.ofNext
    | with_reducible exact .refl _ _
    | with_reducible assumption
    | (with_reducible apply OnlyTouches.after (State.modFiber_touches _ _ _); · decide)
    | with_reducible apply OnlyTouches.ite
    | with_reducible apply OnlyTouches.iteStep
    | with_reducible intro _
    | split
    | with_reducible refine OnlyTouches.pair (by assumption) ?_
    | dsimp only

theorem State.sendMove_touches (s : State) (t msg : Nat) : OnlyTouches [.objs, .ports] s (State.sendMove s
    t msg) := by
  unfold State.sendMove
  try dsimp only
  repeat' first
    | with_reducible exact .refl _ _
    | with_reducible assumption
    | (with_reducible apply OnlyTouches.after (State.sendLink_touches _ _ _); · decide)
    | with_reducible intro _
    | split
    | with_reducible refine OnlyTouches.pair (by assumption) ?_
    | dsimp only

theorem State.sayMove_touches (s : State) (m : Move) (kind : Nat) : OnlyTouches [.objs, .ports] s
    (State.sayMove s m kind) := by
  unfold State.sayMove
  try dsimp only
  repeat' first
    | with_reducible exact .refl _ _
    | with_reducible assumption
    | (with_reducible apply OnlyTouches.after (State.sendMove_touches _ _ _); · decide)
    | with_reducible intro _

theorem State.dropMove_touches (s : State) (m : Move) : OnlyTouches [.optics] s (State.dropMove s m) := by
  unfold State.dropMove
  try dsimp only
  repeat' first
    | with_reducible exact .refl _ _
    | with_reducible assumption
    | with_reducible intro _
    | (with_reducible apply OnlyTouches.put_optics; · decide)

theorem State.putMove_touches (s : State) (m m' : Move) : OnlyTouches [.optics] s (State.putMove s m m') :=
    by
  unfold State.putMove
  try dsimp only
  repeat' first
    | with_reducible exact .refl _ _
    | with_reducible assumption
    | with_reducible apply OnlyTouches.ite
    | with_reducible intro _
    | split
    | (with_reducible apply OnlyTouches.put_optics; · decide)

theorem State.propose_touches (s : State) (w : Wish) : OnlyTouches [.objs, .optics, .ports] s
    (State.propose s w) := by
  unfold State.propose
  try dsimp only
  repeat' first
    | with_reducible exact .refl _ _
    | with_reducible assumption
    | (with_reducible apply OnlyTouches.after (State.sayMove_touches _ _ _); · decide)
    | with_reducible intro _
    | (with_reducible apply OnlyTouches.put_optics; · decide)
    | with_reducible refine OnlyTouches.pair (by assumption) ?_
    | dsimp only

theorem State.dropWish_touches (s : State) (w : Wish) : OnlyTouches [.optics] s (State.dropWish s w) := by
  unfold State.dropWish
  try dsimp only
  repeat' first
    | with_reducible exact .refl _ _
    | with_reducible assumption
    | with_reducible intro _
    | (with_reducible apply OnlyTouches.put_optics; · decide)

theorem State.calEnd_touches (s : State) (k : Nat) : OnlyTouches [.optics] s (State.calEnd s k) := by
  unfold State.calEnd
  try dsimp only
  repeat' first
    | with_reducible exact .refl _ _
    | with_reducible assumption
    | (with_reducible apply OnlyTouches.after (State.modFiber_touches _ _ _); · decide)
    | with_reducible intro _

theorem State.endSlot_touches (s : State) (w : Wish) : OnlyTouches [.optics] s (State.endSlot s w) := by
  unfold State.endSlot
  try dsimp only
  repeat' first
    | with_reducible exact .refl _ _
    | with_reducible assumption
    | (with_reducible apply OnlyTouches.after (State.calEnd_touches _ _); · decide)
    | with_reducible apply OnlyTouches.ite
    | with_reducible intro _
    | split
    | with_reducible refine OnlyTouches.pair (by assumption) ?_
    | dsimp only

theorem State.tryWishes_touches (s : State) : OnlyTouches [.objs, .optics, .ports] s (State.tryWishes s) :=
    by
  unfold State.tryWishes
  try dsimp only
  repeat' first
    | with_reducible exact .refl _ _
    | with_reducible assumption
    | with_reducible apply OnlyTouches.fold
    | with_reducible apply OnlyTouches.foldPair
    | (with_reducible apply OnlyTouches.after (State.propose_touches _ _); · decide)
    | (with_reducible apply OnlyTouches.after (State.dropWish_touches _ _); · decide)
    | (with_reducible apply OnlyTouches.after (State.endSlot_touches _ _); · decide)
    | with_reducible apply OnlyTouches.ite
    | with_reducible intro _
    | split
    | with_reducible refine OnlyTouches.pair (by assumption) ?_
    | dsimp only

theorem State.wishMove_touches (s : State) (t : Nat) (rx : Bool) (home dst reason tries ns : Nat) :
    OnlyTouches [.objs, .optics, .ports] s (State.wishMove s t rx home dst reason tries ns) := by
  unfold State.wishMove
  try dsimp only
  repeat' first
    | with_reducible exact .refl _ _
    | with_reducible assumption
    | (with_reducible apply OnlyTouches.after (State.sayMove_touches _ _ _); · decide)
    | (with_reducible apply OnlyTouches.after (State.dropMove_touches _ _); · decide)
    | (with_reducible apply OnlyTouches.after (State.tryWishes_touches _); · decide)
    | with_reducible intro _
    | split
    | (with_reducible apply OnlyTouches.put_optics; · decide)
    | with_reducible refine OnlyTouches.pair (by assumption) ?_
    | dsimp only

theorem State.laserRest_touches (s : State) (e k : Nat) : OnlyTouches [.optics] s (State.laserRest s e k)
    := by
  unfold State.laserRest
  try dsimp only
  repeat' first
    | with_reducible exact .refl _ _
    | with_reducible assumption
    | (with_reducible apply OnlyTouches.after (State.modPack_touches _ _ _); · decide)
    | with_reducible apply OnlyTouches.ite
    | with_reducible intro _
    | split
    | with_reducible refine OnlyTouches.pair (by assumption) ?_
    | dsimp only

theorem State.lasersRest_touches (s : State) (e : Nat) : OnlyTouches [.optics] s (State.lasersRest s e) :=
    by
  unfold State.lasersRest
  try dsimp only
  repeat' first
    | with_reducible exact .refl _ _
    | with_reducible assumption
    | with_reducible apply OnlyTouches.each
    | (with_reducible apply OnlyTouches.after (State.laserRest_touches _ _ _); · decide)
    | with_reducible intro _

theorem State.lightSpare_touches (s : State) (e k : Nat) : OnlyTouches [.optics, .warden] s
    (State.lightSpare s e k) := by
  unfold State.lightSpare
  try dsimp only
  repeat' first
    | with_reducible exact .refl _ _
    | with_reducible assumption
    | with_reducible apply OnlyTouches.when
    | (with_reducible apply OnlyTouches.after (State.modPack_touches _ _ _); · decide)
    | (with_reducible apply OnlyTouches.after (State.askTally_touches _ _ _); · decide)
    | (with_reducible apply OnlyTouches.afterPair (State.askTally_touches _ _ _); (first | assumption | decide); (first | assumption | decide))
    | with_reducible apply OnlyTouches.ite
    | with_reducible intro _
    | split
    | with_reducible refine OnlyTouches.pair (by assumption) ?_
    | dsimp only

theorem State.freeSpare_touches (s : State) (t : Nat) : OnlyTouches [.objs, .optics, .ports] s
    (State.freeSpare s t) := by
  unfold State.freeSpare
  try dsimp only
  repeat' first
    | with_reducible exact .refl _ _
    | with_reducible assumption
    | (with_reducible apply OnlyTouches.after (State.sayMove_touches _ _ _); · decide)
    | (with_reducible apply OnlyTouches.after (State.dropMove_touches _ _); · decide)
    | (with_reducible apply OnlyTouches.after (State.calEnd_touches _ _); · decide)
    | (with_reducible apply OnlyTouches.after (State.wishMove_touches _ _ _ _ _ _ _ _); · decide)
    | with_reducible apply OnlyTouches.ite
    | with_reducible intro _
    | split
    | (with_reducible apply OnlyTouches.put_optics; · decide)
    | with_reducible refine OnlyTouches.pair (by assumption) ?_
    | dsimp only

theorem State.fadeMove_touches (s : State) (t k spare : Nat) : OnlyTouches [.objs, .optics, .ports] s
    (State.fadeMove s t k spare) := by
  unfold State.fadeMove
  try dsimp only
  repeat' first
    | with_reducible exact .refl _ _
    | with_reducible assumption
    | (with_reducible apply OnlyTouches.after (State.calEnd_touches _ _); · decide)
    | (with_reducible apply OnlyTouches.after (State.wishMove_touches _ _ _ _ _ _ _ _); · decide)
    | with_reducible apply OnlyTouches.ite
    | with_reducible intro _
    | split
    | (with_reducible apply OnlyTouches.put_optics; · decide)
    | with_reducible refine OnlyTouches.pair (by assumption) ?_
    | dsimp only

theorem State.warn_touches (s : State) (e k : Nat) : OnlyTouches [.objs, .optics, .ports, .warden, .ledger,
    .dict, .host] s (State.warn s e k) := by
  unfold State.warn
  try dsimp only
  repeat' first
    | with_reducible exact .refl _ _
    | with_reducible assumption
    | with_reducible apply OnlyTouches.each
    | with_reducible apply OnlyTouches.fold
    | with_reducible apply OnlyTouches.foldPair
    | (with_reducible apply OnlyTouches.after (State.setEngine_touches _ _ _); · decide)
    | (with_reducible apply OnlyTouches.after (State.modPack_touches _ _ _); · decide)
    | (with_reducible apply OnlyTouches.after (State.dropNext_touches _ _); · decide)
    | (with_reducible apply OnlyTouches.after (State.packEvent_touches _ _ _ _); · decide)
    | (with_reducible apply OnlyTouches.after (State.lightSpare_touches _ _ _); · decide)
    | (with_reducible apply OnlyTouches.after (State.freeSpare_touches _ _); · decide)
    | (with_reducible apply OnlyTouches.after (State.fadeMove_touches _ _ _ _); · decide)
    | with_reducible apply OnlyTouches.ite
    | with_reducible intro _
    | split
    | with_reducible refine OnlyTouches.pair (by assumption) ?_
    | dsimp only

theorem State.laserFail_touches (s : State) (e k : Nat) : OnlyTouches [.objs, .optics, .ports, .ledger,
    .dict, .host] s (State.laserFail s e k) := by
  unfold State.laserFail
  try dsimp only
  repeat' first
    | with_reducible exact .refl _ _
    | with_reducible assumption
    | with_reducible apply OnlyTouches.fold
    | with_reducible apply OnlyTouches.foldPair
    | (with_reducible apply OnlyTouches.after (State.modPack_touches _ _ _); · decide)
    | (with_reducible apply OnlyTouches.after (State.dropNext_touches _ _); · decide)
    | (with_reducible apply OnlyTouches.after (State.packEvent_touches _ _ _ _); · decide)
    | with_reducible apply OnlyTouches.ite
    | with_reducible intro _
    | split
    | with_reducible refine OnlyTouches.pair (by assumption) ?_
    | dsimp only

theorem State.fadeWindow_touches (s : State) (e k : Nat) (mean : Int) : OnlyTouches [.objs, .optics,
    .ports, .warden, .ledger, .dict, .host] s (State.fadeWindow s e k mean) := by
  unfold State.fadeWindow
  try dsimp only
  repeat' first
    | with_reducible exact .refl _ _
    | with_reducible assumption
    | (with_reducible apply OnlyTouches.after (State.putInt_touches _ _ _); · decide)
    | (with_reducible apply OnlyTouches.after (State.modPack_touches _ _ _); · decide)
    | (with_reducible apply OnlyTouches.after (State.warn_touches _ _ _); · decide)
    | (with_reducible apply OnlyTouches.after (State.laserFail_touches _ _ _); · decide)
    | with_reducible apply OnlyTouches.ite
    | with_reducible intro _
    | split
    | with_reducible refine OnlyTouches.pair (by assumption) ?_
    | dsimp only

theorem execFadeWindow_touches (e : Engine) (k : Laser) (mean : Int) (s : State) : StepTouches [.objs,
    .optics, .ports, .warden, .ledger, .dict, .host] s (execFadeWindow e k mean s) := by
  unfold execFadeWindow
  try dsimp only
  repeat' first
    | with_reducible apply OnlyTouches.ofNext
    | with_reducible exact .refl _ _
    | with_reducible assumption
    | (with_reducible apply OnlyTouches.after (State.fadeWindow_touches _ _ _ _); · decide)
    | with_reducible intro _
    | with_reducible refine OnlyTouches.pair (by assumption) ?_
    | dsimp only

theorem execSuddenLaserLoss_touches (e : Engine) (k : Laser) (s : State) : StepTouches [.objs, .optics,
    .ports, .ledger, .dict, .host] s (execSuddenLaserLoss e k s) := by
  unfold execSuddenLaserLoss
  try dsimp only
  repeat' first
    | with_reducible apply OnlyTouches.ofNext
    | with_reducible exact .refl _ _
    | with_reducible assumption
    | (with_reducible apply OnlyTouches.after (State.laserFail_touches _ _ _); · decide)
    | with_reducible apply OnlyTouches.ite
    | with_reducible apply OnlyTouches.iteStep
    | with_reducible intro _
    | split
    | with_reducible refine OnlyTouches.pair (by assumption) ?_
    | dsimp only

theorem execFadeSpareReady_touches (e : Engine) (k : Laser) (s : State) : StepTouches [.objs, .optics,
    .ports] s (execFadeSpareReady e k s) := by
  unfold execFadeSpareReady
  try dsimp only
  repeat' first
    | with_reducible apply OnlyTouches.ofNext
    | with_reducible exact .refl _ _
    | with_reducible assumption
    | (with_reducible apply OnlyTouches.after (State.setEngine_touches _ _ _); · decide)
    | (with_reducible apply OnlyTouches.after (State.tryWishes_touches _); · decide)
    | with_reducible apply OnlyTouches.ite
    | with_reducible apply OnlyTouches.iteStep
    | with_reducible intro _
    | split
    | with_reducible refine OnlyTouches.pair (by assumption) ?_
    | dsimp only

theorem execFadeMoveRetry_touches (t : Fiber) (home : Fin 16) (s : State) : StepTouches [.objs, .optics,
    .ports, .ledger] s (execFadeMoveRetry t home s) := by
  unfold execFadeMoveRetry
  try dsimp only
  repeat' first
    | with_reducible apply OnlyTouches.ofNext
    | with_reducible exact .refl _ _
    | with_reducible assumption
    | (with_reducible apply OnlyTouches.after (State.dropNext_touches _ _); · decide)
    | (with_reducible apply OnlyTouches.after (State.wishMove_touches _ _ _ _ _ _ _ _); · decide)
    | with_reducible apply OnlyTouches.ite
    | with_reducible apply OnlyTouches.iteStep
    | with_reducible intro _
    | split
    | (with_reducible apply OnlyTouches.put_optics; · decide)

theorem State.moveFails_touches (s : State) (m : Move) : OnlyTouches [.objs, .optics, .ports, .ledger] s
    (State.moveFails s m) := by
  unfold State.moveFails
  try dsimp only
  repeat' first
    | with_reducible exact .refl _ _
    | with_reducible assumption
    | (with_reducible apply OnlyTouches.after (State.bump_touches _ _ _); · decide)
    | (with_reducible apply OnlyTouches.after (State.dropNext_touches _ _); · decide)
    | (with_reducible apply OnlyTouches.after (State.dropMove_touches _ _); · decide)
    | (with_reducible apply OnlyTouches.after (State.calEnd_touches _ _); · decide)
    | with_reducible apply OnlyTouches.ite
    | with_reducible intro _
    | split
    | (with_reducible apply OnlyTouches.put_optics; · decide)
    | with_reducible refine OnlyTouches.pair (by assumption) ?_
    | dsimp only

theorem State.moveProposed_touches (s : State) (p w : Nat) (locked : Bool) : OnlyTouches [.objs, .optics,
    .ports, .warden] s (State.moveProposed s p w locked) := by
  unfold State.moveProposed
  try dsimp only
  repeat' first
    | with_reducible exact .refl _ _
    | with_reducible assumption
    | (with_reducible apply OnlyTouches.after (State.bump_touches _ _ _); · decide)
    | (with_reducible apply OnlyTouches.after (State.sayMove_touches _ _ _); · decide)
    | (with_reducible apply OnlyTouches.after (State.lightSpare_touches _ _ _); · decide)
    | with_reducible apply OnlyTouches.ite
    | with_reducible intro _
    | split
    | (with_reducible apply OnlyTouches.put_optics; · decide)
    | with_reducible refine OnlyTouches.pair (by assumption) ?_
    | dsimp only

theorem execMovePropose_touches (p : Port) (msg : BitVec 128) (locked : Bool) (s : State) : StepTouches
    [.objs, .optics, .ports, .warden] s (execMovePropose p msg locked s) := by
  unfold execMovePropose
  try dsimp only
  repeat' first
    | with_reducible apply OnlyTouches.ofNext
    | with_reducible exact .refl _ _
    | with_reducible assumption
    | (with_reducible apply OnlyTouches.after (State.moveProposed_touches _ _ _ _); · decide)
    | with_reducible intro _
    | with_reducible refine OnlyTouches.pair (by assumption) ?_
    | dsimp only

theorem State.setThoro_touches (s : State) (k : Nat) (x : Thoro) : OnlyTouches [.optics] s (State.setThoro
    s k x) := by
  unfold State.setThoro
  try dsimp only
  repeat' first
    | with_reducible exact .refl _ _
    | with_reducible assumption
    | with_reducible intro _
    | (with_reducible apply OnlyTouches.put_optics; · decide)

theorem State.thoroReturn_touches (s : State) (e : Nat) (x : Thoro) : OnlyTouches [.ports] s
    (State.thoroReturn s e x) := by
  unfold State.thoroReturn
  try dsimp only
  repeat' first
    | with_reducible exact .refl _ _
    | with_reducible assumption
    | with_reducible apply OnlyTouches.fold
    | with_reducible apply OnlyTouches.foldPair
    | (with_reducible apply OnlyTouches.after (State.modPort_touches _ _ _); · decide)
    | (with_reducible apply OnlyTouches.after (State.portLanes_touches _ _); · decide)
    | with_reducible apply OnlyTouches.ite
    | with_reducible intro _
    | split
    | with_reducible refine OnlyTouches.pair (by assumption) ?_
    | dsimp only

theorem State.thoroFail_touches (s : State) (k code : Nat) (pos : Nat) : OnlyTouches [.objs, .optics,
    .ports, .dict, .host] s (State.thoroFail s k code pos) := by
  unfold State.thoroFail
  try dsimp only
  repeat' first
    | with_reducible exact .refl _ _
    | with_reducible assumption
    | (with_reducible apply OnlyTouches.after (State.endFailedAt_touches _ _ _ _); · decide)
    | (with_reducible apply OnlyTouches.after (State.thoroReturn_touches _ _ _); · decide)
    | with_reducible intro _
    | (with_reducible apply OnlyTouches.put_optics; · decide)
    | with_reducible refine OnlyTouches.pair (by assumption) ?_
    | dsimp only

theorem execMoveAccept_touches (p : Port) (msg : BitVec 128) (s : State) : StepTouches [.optics] s
    (execMoveAccept p msg s) := by
  unfold execMoveAccept
  try dsimp only
  repeat' first
    | with_reducible apply OnlyTouches.ofNext
    | with_reducible exact .refl _ _
    | with_reducible assumption
    | (with_reducible apply OnlyTouches.after (State.putMove_touches _ _ _); · decide)
    | (with_reducible apply OnlyTouches.after (State.setThoro_touches _ _ _); · decide)
    | with_reducible apply OnlyTouches.ite
    | with_reducible apply OnlyTouches.iteStep
    | with_reducible intro _
    | split

theorem execMoveRefuse_touches (p : Port) (msg : BitVec 128) (s : State) : StepTouches [.objs, .optics,
    .ports, .ledger, .dict, .host] s (execMoveRefuse p msg s) := by
  unfold execMoveRefuse
  try dsimp only
  repeat' first
    | with_reducible apply OnlyTouches.ofNext
    | with_reducible exact .refl _ _
    | with_reducible assumption
    | (with_reducible apply OnlyTouches.after (State.moveFails_touches _ _); · decide)
    | (with_reducible apply OnlyTouches.after (State.thoroFail_touches _ _ _ _); · decide)
    | with_reducible apply OnlyTouches.ite
    | with_reducible apply OnlyTouches.iteStep
    | with_reducible intro _
    | split

theorem execMoveCancel_touches (p : Port) (msg : BitVec 128) (s : State) : StepTouches [.optics] s
    (execMoveCancel p msg s) := by
  unfold execMoveCancel
  try dsimp only
  repeat' first
    | with_reducible apply OnlyTouches.ofNext
    | with_reducible exact .refl _ _
    | with_reducible assumption
    | (with_reducible apply OnlyTouches.after (State.dropMove_touches _ _); · decide)
    | with_reducible apply OnlyTouches.ite
    | with_reducible apply OnlyTouches.iteStep
    | with_reducible intro _
    | split

theorem execMoveAnswerTimeout_touches (t : Fiber) (rx : Bool) (home : Fin 16) (s : State) : StepTouches
    [.objs, .optics, .ports, .ledger, .dict, .host] s (execMoveAnswerTimeout t rx home s) := by
  unfold execMoveAnswerTimeout
  try dsimp only
  repeat' first
    | with_reducible apply OnlyTouches.ofNext
    | with_reducible exact .refl _ _
    | with_reducible assumption
    | (with_reducible apply OnlyTouches.after (State.moveFails_touches _ _); · decide)
    | (with_reducible apply OnlyTouches.after (State.thoroFail_touches _ _ _ _); · decide)
    | with_reducible apply OnlyTouches.ite
    | with_reducible apply OnlyTouches.iteStep
    | with_reducible intro _
    | split

theorem execMoveReadinessCheck_touches (t : Fiber) (rx : Bool) (home : Fin 16) (ready : Bool) (s : State) :
    StepTouches [.objs, .optics, .ports, .ledger] s (execMoveReadinessCheck t rx home ready s) := by
  unfold execMoveReadinessCheck
  try dsimp only
  repeat' first
    | with_reducible apply OnlyTouches.ofNext
    | with_reducible exact .refl _ _
    | with_reducible assumption
    | (with_reducible apply OnlyTouches.after (State.putMove_touches _ _ _); · decide)
    | (with_reducible apply OnlyTouches.after (State.moveFails_touches _ _); · decide)
    | with_reducible apply OnlyTouches.ite
    | with_reducible apply OnlyTouches.iteStep
    | with_reducible intro _
    | split

theorem State.calMoved_touches (s : State) (m : Move) : OnlyTouches [.objs, .optics, .ports] s
    (State.calMoved s m) := by
  unfold State.calMoved
  try dsimp only
  repeat' first
    | with_reducible exact .refl _ _
    | with_reducible assumption
    | (with_reducible apply OnlyTouches.after (State.putObj_touches _ _ _); · decide)
    | (with_reducible apply OnlyTouches.after (State.modFiber_touches _ _ _); · decide)
    | (with_reducible apply OnlyTouches.after (State.calEnd_touches _ _); · decide)
    | (with_reducible apply OnlyTouches.after (State.wishMove_touches _ _ _ _ _ _ _ _); · decide)
    | with_reducible apply OnlyTouches.ite
    | with_reducible intro _
    | split
    | with_reducible refine OnlyTouches.pair (by assumption) ?_
    | dsimp only

theorem State.reenter_touches (s : State) (m : Move) : OnlyTouches [.ports, .ledger] s (State.reenter s m)
    := by
  unfold State.reenter
  try dsimp only
  repeat' first
    | with_reducible exact .refl _ _
    | with_reducible assumption
    | (with_reducible apply OnlyTouches.after (State.modPort_touches _ _ _); · decide)
    | (with_reducible apply OnlyTouches.after (State.dropped_touches _ _ _ _); · decide)
    | (with_reducible apply OnlyTouches.after (State.portLanes_touches _ _); · decide)
    | with_reducible apply OnlyTouches.ite
    | with_reducible intro _
    | split
    | with_reducible refine OnlyTouches.pair (by assumption) ?_
    | dsimp only

theorem State.moveDue_touches (s : State) (m : Move) : OnlyTouches [.objs, .optics, .ports, .ledger] s
    (State.moveDue s m) := by
  unfold State.moveDue
  try dsimp only
  repeat' first
    | with_reducible exact .refl _ _
    | with_reducible assumption
    | (with_reducible apply OnlyTouches.after (State.bump_touches _ _ _); · decide)
    | (with_reducible apply OnlyTouches.after (State.count_touches _ _ _ _ _); · decide)
    | (with_reducible apply OnlyTouches.after (State.setCarrier_touches _ _ _ _ _); · decide)
    | (with_reducible apply OnlyTouches.after (State.putMove_touches _ _ _); · decide)
    | (with_reducible apply OnlyTouches.after (State.moveFails_touches _ _); · decide)
    | (with_reducible apply OnlyTouches.after (State.calMoved_touches _ _); · decide)
    | (with_reducible apply OnlyTouches.after (State.reenter_touches _ _); · decide)
    | with_reducible apply OnlyTouches.ite
    | with_reducible intro _
    | split
    | with_reducible refine OnlyTouches.pair (by assumption) ?_
    | dsimp only

theorem execMoveSwitch_touches (t : Fiber) (rx : Bool) (home : Fin 16) (s : State) : StepTouches [.objs,
    .optics, .ports, .ledger] s (execMoveSwitch t rx home s) := by
  unfold execMoveSwitch
  try dsimp only
  repeat' first
    | with_reducible apply OnlyTouches.ofNext
    | with_reducible exact .refl _ _
    | with_reducible assumption
    | (with_reducible apply OnlyTouches.after (State.moveDue_touches _ _); · decide)
    | with_reducible intro _
    | split

theorem State.movesDue_touches (s : State) : OnlyTouches [.objs, .optics, .ports, .ledger] s
    (State.movesDue s) := by
  unfold State.movesDue
  try dsimp only
  repeat' first
    | with_reducible exact .refl _ _
    | with_reducible assumption
    | with_reducible apply OnlyTouches.fold
    | with_reducible apply OnlyTouches.foldPair
    | (with_reducible apply OnlyTouches.after (State.moveDue_touches _ _); · decide)
    | with_reducible intro _

theorem State.oldCarrier_touches (s : State) (m : Move) : OnlyTouches [.optics] s (State.oldCarrier s m) :=
    by
  unfold State.oldCarrier
  try dsimp only
  repeat' first
    | with_reducible exact .refl _ _
    | with_reducible assumption
    | (with_reducible apply OnlyTouches.after (State.dropMove_touches _ _); · decide)
    | (with_reducible apply OnlyTouches.after (State.lasersRest_touches _ _); · decide)
    | with_reducible apply OnlyTouches.ite
    | with_reducible intro _
    | split

theorem execOldCarrierStop_touches (t : Fiber) (rx : Bool) (home : Fin 16) (s : State) : StepTouches
    [.optics] s (execOldCarrierStop t rx home s) := by
  unfold execOldCarrierStop
  try dsimp only
  repeat' first
    | with_reducible apply OnlyTouches.ofNext
    | with_reducible exact .refl _ _
    | with_reducible assumption
    | (with_reducible apply OnlyTouches.after (State.oldCarrier_touches _ _); · decide)
    | with_reducible apply OnlyTouches.ite
    | with_reducible apply OnlyTouches.iteStep
    | with_reducible intro _
    | split

theorem State.oldCarriers_touches (s : State) : OnlyTouches [.optics] s (State.oldCarriers s) := by
  unfold State.oldCarriers
  try dsimp only
  repeat' first
    | with_reducible exact .refl _ _
    | with_reducible assumption
    | with_reducible apply OnlyTouches.fold
    | with_reducible apply OnlyTouches.foldPair
    | (with_reducible apply OnlyTouches.after (State.oldCarrier_touches _ _); · decide)
    | with_reducible intro _
    | with_reducible refine OnlyTouches.pair (by assumption) ?_
    | dsimp only

theorem State.calSkip_touches (s : State) (k : Nat) : OnlyTouches [.objs] s (State.calSkip s k) := by
  unfold State.calSkip
  try dsimp only
  repeat' first
    | with_reducible exact .refl _ _
    | with_reducible assumption
    | (with_reducible apply OnlyTouches.after (State.bump_touches _ _ _); · decide)
    | with_reducible intro _

theorem State.tuneRing_touches (s : State) (k c : Nat) : OnlyTouches [.optics, .free] s (State.tuneRing s k
    c) := by
  unfold State.tuneRing
  try dsimp only
  repeat' first
    | with_reducible exact .refl _ _
    | with_reducible assumption
    | (with_reducible apply OnlyTouches.after (State.draw_touches _); · decide)
    | (with_reducible apply OnlyTouches.after (State.modFiber_touches _ _ _); · decide)
    | with_reducible intro _
    | with_reducible refine OnlyTouches.pair (by assumption) ?_
    | dsimp only

theorem State.tuneIdle_touches (s : State) (t : Nat) (rx : Bool) : OnlyTouches [.optics, .free] s
    (State.tuneIdle s t rx) := by
  unfold State.tuneIdle
  try dsimp only
  repeat' first
    | with_reducible exact .refl _ _
    | with_reducible assumption
    | with_reducible apply OnlyTouches.each
    | (with_reducible apply OnlyTouches.after (State.tuneRing_touches _ _ _); · decide)
    | with_reducible intro _

theorem State.calSlot_touches (s : State) (t : Nat) (rx : Bool) : OnlyTouches [.objs, .optics, .ports,
    .warden, .host, .free] s (State.calSlot s t rx) := by
  unfold State.calSlot
  try dsimp only
  repeat' first
    | with_reducible exact .refl _ _
    | with_reducible assumption
    | (with_reducible apply OnlyTouches.after (State.setEngine_touches _ _ _); · decide)
    | (with_reducible apply OnlyTouches.after (State.modFiber_touches _ _ _); · decide)
    | (with_reducible apply OnlyTouches.after (State.tablesApplied_touches _); · decide)
    | (with_reducible apply OnlyTouches.after (State.wishMove_touches _ _ _ _ _ _ _ _); · decide)
    | (with_reducible apply OnlyTouches.after (State.lightSpare_touches _ _ _); · decide)
    | (with_reducible apply OnlyTouches.after (State.calSkip_touches _ _); · decide)
    | (with_reducible apply OnlyTouches.after (State.tuneIdle_touches _ _ _); · decide)
    | with_reducible apply OnlyTouches.ite
    | with_reducible intro _
    | split
    | with_reducible refine OnlyTouches.pair (by assumption) ?_
    | dsimp only

theorem execCalSlotStart_touches (t : Fiber) (rx : Bool) (s : State) : StepTouches [.objs, .optics, .ports,
    .warden, .host, .free] s (execCalSlotStart t rx s) := by
  unfold execCalSlotStart
  try dsimp only
  repeat' first
    | with_reducible apply OnlyTouches.ofNext
    | with_reducible exact .refl _ _
    | with_reducible assumption
    | (with_reducible apply OnlyTouches.after (State.calSlot_touches _ _ _); · decide)
    | with_reducible intro _
    | with_reducible refine OnlyTouches.pair (by assumption) ?_
    | dsimp only

theorem execCalDwellEnd_touches (t : Fiber) (rx : Bool) (s : State) : StepTouches [.optics, .free] s
    (execCalDwellEnd t rx s) := by
  unfold execCalDwellEnd
  try dsimp only
  repeat' first
    | with_reducible apply OnlyTouches.ofNext
    | with_reducible exact .refl _ _
    | with_reducible assumption
    | (with_reducible apply OnlyTouches.after (State.modFiber_touches _ _ _); · decide)
    | (with_reducible apply OnlyTouches.after (State.tuneRing_touches _ _ _); · decide)
    | with_reducible apply OnlyTouches.ite
    | with_reducible apply OnlyTouches.iteStep
    | with_reducible intro _
    | split
    | with_reducible refine OnlyTouches.pair (by assumption) ?_
    | dsimp only

theorem execRingExcursion_touches (e : Engine) (s : State) : StepTouches [.objs, .warden, .ledger, .dict,
    .host] s (execRingExcursion e s) := by
  unfold execRingExcursion
  try dsimp only
  repeat' first
    | with_reducible apply OnlyTouches.ofNext
    | with_reducible exact .refl _ _
    | with_reducible assumption
    | with_reducible apply OnlyTouches.fold
    | with_reducible apply OnlyTouches.foldPair
    | (with_reducible apply OnlyTouches.after (State.bump_touches _ _ _); · decide)
    | (with_reducible apply OnlyTouches.after (State.eventObj_touches _ _ _ _); · decide)
    | (with_reducible apply OnlyTouches.after (State.count_touches _ _ _ _ _); · decide)
    | with_reducible intro _
    | (with_reducible apply OnlyTouches.put_warden; · decide)
    | with_reducible refine OnlyTouches.pair (by assumption) ?_
    | dsimp only

theorem execSlewHalvingEnd_touches (e : Engine) (s : State) : StepTouches [.warden] s (execSlewHalvingEnd e
    s) := by
  unfold execSlewHalvingEnd
  try dsimp only
  repeat' first
    | with_reducible apply OnlyTouches.ofNext
    | with_reducible exact .refl _ _
    | with_reducible assumption
    | with_reducible intro _
    | (with_reducible apply OnlyTouches.put_warden; · decide)

theorem execDitherLoopFastEnd_touches (e : Engine) (s : State) : StepTouches [.optics] s
    (execDitherLoopFastEnd e s) := by
  unfold execDitherLoopFastEnd
  try dsimp only
  repeat' first
    | with_reducible apply OnlyTouches.ofNext
    | with_reducible exact .refl _ _
    | with_reducible assumption
    | (with_reducible apply OnlyTouches.after (State.modEngine_touches _ _ _); · decide)
    | with_reducible apply OnlyTouches.ite
    | with_reducible apply OnlyTouches.iteStep
    | with_reducible intro _
    | split
    | with_reducible refine OnlyTouches.pair (by assumption) ?_
    | dsimp only

theorem State.thoroTell_touches (s : State) (k : Nat) : OnlyTouches [.objs, .optics, .ports, .warden,
    .dict, .host] s (State.thoroTell s k) := by
  unfold State.thoroTell
  try dsimp only
  repeat' first
    | with_reducible exact .refl _ _
    | with_reducible assumption
    | with_reducible apply OnlyTouches.when
    | with_reducible apply OnlyTouches.fold
    | with_reducible apply OnlyTouches.foldPair
    | (with_reducible apply OnlyTouches.after (State.modPort_touches _ _ _); · decide)
    | (with_reducible apply OnlyTouches.after (State.askTally_touches _ _ _); · decide)
    | (with_reducible apply OnlyTouches.afterPair (State.askTally_touches _ _ _); (first | assumption | decide); (first | assumption | decide))
    | (with_reducible apply OnlyTouches.after (State.sendMove_touches _ _ _); · decide)
    | (with_reducible apply OnlyTouches.after (State.setThoro_touches _ _ _); · decide)
    | (with_reducible apply OnlyTouches.after (State.thoroFail_touches _ _ _ _); · decide)
    | with_reducible apply OnlyTouches.ite
    | with_reducible intro _
    | split
    | with_reducible refine OnlyTouches.pair (by assumption) ?_
    | dsimp only

theorem State.thoroDue_touches (s : State) (k : Nat) : OnlyTouches [.objs, .time, .optics, .lanes, .remaps,
    .ports, .switch, .coll, .mem, .ledger, .dict, .host] s (State.thoroDue s k) := by
  unfold State.thoroDue
  try dsimp only
  repeat' first
    | with_reducible exact .refl _ _
    | with_reducible assumption
    | with_reducible apply OnlyTouches.fold
    | with_reducible apply OnlyTouches.foldPair
    | (with_reducible apply OnlyTouches.after (State.bump_touches _ _ _); · decide)
    | (with_reducible apply OnlyTouches.after (State.drop_touches _ _ _); · decide)
    | (with_reducible apply OnlyTouches.after (State.endDone_touches _ _); · decide)
    | (with_reducible apply OnlyTouches.after (State.dropOut_touches _ _ _); · decide)
    | (with_reducible apply OnlyTouches.after (State.setThoro_touches _ _ _); · decide)
    | (with_reducible apply OnlyTouches.after (State.thoroReturn_touches _ _ _); · decide)
    | (with_reducible apply OnlyTouches.after (State.thoroFail_touches _ _ _ _); · decide)
    | with_reducible apply OnlyTouches.ite
    | with_reducible intro _
    | split
    | (with_reducible apply OnlyTouches.put_optics; · decide)
    | with_reducible refine OnlyTouches.pair (by assumption) ?_
    | dsimp only

theorem execThoroughfareEffect_touches (e : Engine) (entry : Fin 8) (s : State) : StepTouches [.objs,
    .time, .optics, .lanes, .remaps, .ports, .switch, .coll, .mem, .ledger, .dict, .host] s
    (execThoroughfareEffect e entry s) := by
  unfold execThoroughfareEffect
  try dsimp only
  repeat' first
    | with_reducible apply OnlyTouches.ofNext
    | with_reducible exact .refl _ _
    | with_reducible assumption
    | (with_reducible apply OnlyTouches.after (State.thoroDue_touches _ _); · decide)
    | with_reducible intro _
    | with_reducible refine OnlyTouches.pair (by assumption) ?_
    | dsimp only

theorem execThoroughfareReadinessCheck_touches (e : Engine) (entry : Fin 8) (tuned : Bool) (s : State) :
    StepTouches [.objs, .optics, .ports, .warden, .dict, .host] s (execThoroughfareReadinessCheck e entry
    tuned s) := by
  unfold execThoroughfareReadinessCheck
  try dsimp only
  repeat' first
    | with_reducible apply OnlyTouches.ofNext
    | with_reducible exact .refl _ _
    | with_reducible assumption
    | (with_reducible apply OnlyTouches.after (State.dropSteps_touches _ _); · decide)
    | (with_reducible apply OnlyTouches.after (State.setThoro_touches _ _ _); · decide)
    | (with_reducible apply OnlyTouches.after (State.thoroFail_touches _ _ _ _); · decide)
    | with_reducible apply OnlyTouches.ite
    | with_reducible apply OnlyTouches.iteStep
    | with_reducible intro _
    | split
    | with_reducible refine OnlyTouches.pair (by assumption) ?_
    | dsimp only

theorem State.opticsBoundary_touches (s : State) : OnlyTouches [.objs, .time, .optics, .lanes, .remaps,
    .ports, .switch, .coll, .mem, .warden, .ledger, .dict, .host] s (State.opticsBoundary s) := by
  unfold State.opticsBoundary
  try dsimp only
  repeat' first
    | with_reducible exact .refl _ _
    | with_reducible assumption
    | with_reducible apply OnlyTouches.fold
    | with_reducible apply OnlyTouches.foldPair
    | (with_reducible apply OnlyTouches.after (State.packBoundary_touches _ _); · decide)
    | (with_reducible apply OnlyTouches.after (State.tryWishes_touches _); · decide)
    | (with_reducible apply OnlyTouches.after (State.lasersRest_touches _ _); · decide)
    | (with_reducible apply OnlyTouches.after (State.movesDue_touches _); · decide)
    | (with_reducible apply OnlyTouches.after (State.oldCarriers_touches _); · decide)
    | (with_reducible apply OnlyTouches.after (State.thoroTell_touches _ _); · decide)
    | (with_reducible apply OnlyTouches.after (State.thoroDue_touches _ _); · decide)
    | with_reducible intro _
    | with_reducible refine OnlyTouches.pair (by assumption) ?_
    | dsimp only

end Sys2Proof.Machine
end

