-- ==== Sys2Proof/Laws/KeepOptics.lean ====
section
/-! SUPPORT. The operations of Machine/Optics.lean keep the invariant. -/

namespace Sys2Proof.Machine

theorem State.packEvent_keeps (s : State) (e : Nat) (o : Obj) (arg : Nat) : Keeps s (State.packEvent s e o
    arg) := by
  unfold State.packEvent
  try dsimp only
  repeat' first
    | with_reducible exact .refl _
    | with_reducible assumption
    | with_reducible apply Keeps.after (State.eventAt_keeps _ _ _ _ _)
    | with_reducible intro _

theorem State.checkPack_keeps (s : State) (e : Nat) : Keeps s (State.checkPack s e) := by
  unfold State.checkPack
  try dsimp only
  repeat' first
    | with_reducible exact .refl _
    | with_reducible assumption
    | ((with_reducible apply Keeps.afterT (State.setPack_touches _ _ _)); · rfl)
    | with_reducible apply Keeps.after (State.packEvent_keeps _ _ _ _)
    | with_reducible apply Keeps.ite
    | with_reducible intro _
    | split
    | with_reducible refine Keeps.pair (by assumption) ?_
    | dsimp only

theorem execPackInsert_keeps (e : Engine) (ident : PackIdentity) (s : State) : StepKeeps s (execPackInsert
    e ident s) := by
  unfold execPackInsert
  try dsimp only
  repeat' first
    | with_reducible apply Keeps.ofNext
    | with_reducible exact .refl _
    | with_reducible assumption
    | ((with_reducible apply Keeps.afterT (State.modEngine_touches _ _ _)); · rfl)
    | ((with_reducible apply Keeps.afterT (State.setPack_touches _ _ _)); · rfl)
    | with_reducible apply Keeps.after (State.checkPack_keeps _ _)
    | with_reducible apply Keeps.ite
    | with_reducible apply Keeps.iteStep
    | with_reducible intro _
    | split
    | with_reducible refine Keeps.pair (by assumption) ?_
    | dsimp only

theorem State.dropEngine_keeps (s : State) (e : Nat) : Keeps s (State.dropEngine s e) := by
  unfold State.dropEngine
  try dsimp only
  repeat' first
    | with_reducible exact .refl _
    | with_reducible assumption
    | with_reducible apply Keeps.fold
    | with_reducible apply Keeps.foldPair
    | ((with_reducible apply Keeps.afterT (State.modPort_touches _ _ _)); · rfl)
    | ((with_reducible apply Keeps.afterT (State.dropped_touches _ _ _ _)); · rfl)
    | with_reducible apply Keeps.after (State.dropOut_keeps _ _ _)
    | with_reducible apply Keeps.ite
    | with_reducible intro _
    | split
    | with_reducible refine Keeps.pair (by assumption) ?_
    | dsimp only

theorem State.lasersOff_keeps (s : State) (e : Nat) : Keeps s (State.lasersOff s e) := by
  unfold State.lasersOff
  try dsimp only
  repeat' first
    | with_reducible exact .refl _
    | with_reducible assumption
    | ((with_reducible apply Keeps.afterT (State.modEngine_touches _ _ _)); · rfl)
    | ((with_reducible apply Keeps.afterT (State.modPack_touches _ _ _)); · rfl)
    | with_reducible apply Keeps.after (State.dropEngine_keeps _ _)
    | ((with_reducible apply Keeps.afterT (State.dropMoves_touches _ _)); · rfl)
    | with_reducible intro _
    | with_reducible refine Keeps.pair (by assumption) ?_
    | dsimp only

theorem State.preparedNow_keeps (s : State) (e : Nat) : Keeps s (State.preparedNow s e) := by
  unfold State.preparedNow
  try dsimp only
  repeat' first
    | with_reducible exact .refl _
    | with_reducible assumption
    | with_reducible apply Keeps.each
    | ((with_reducible apply Keeps.afterT (State.modEngine_touches _ _ _)); · rfl)
    | ((with_reducible apply Keeps.afterT (State.modPack_touches _ _ _)); · rfl)
    | ((with_reducible apply Keeps.afterT (State.modFiber_touches _ _ _)); · rfl)
    | with_reducible apply Keeps.after (State.lasersOff_keeps _ _)
    | with_reducible apply Keeps.ite
    | with_reducible intro _
    | split
    | with_reducible refine Keeps.pair (by assumption) ?_
    | dsimp only

theorem execPackPrepareDrainEnd_keeps (e : Engine) (s : State) : StepKeeps s (execPackPrepareDrainEnd e s)
    := by
  unfold execPackPrepareDrainEnd
  try dsimp only
  repeat' first
    | with_reducible apply Keeps.ofNext
    | with_reducible exact .refl _
    | with_reducible assumption
    | with_reducible apply Keeps.after (State.preparedNow_keeps _ _)
    | with_reducible intro _
    | with_reducible refine Keeps.pair (by assumption) ?_
    | dsimp only

theorem State.packRestart_keeps (s : State) (e : Nat) : Keeps s (State.packRestart s e) := by
  unfold State.packRestart
  try dsimp only
  repeat' first
    | with_reducible exact .refl _
    | with_reducible assumption
    | with_reducible apply Keeps.after (State.checkPack_keeps _ _)
    | with_reducible apply Keeps.ite
    | with_reducible intro _
    | split
    | with_reducible refine Keeps.pair (by assumption) ?_
    | dsimp only

theorem execPackPull_keeps (e : Engine) (s : State) : StepKeeps s (execPackPull e s) := by
  unfold execPackPull
  try dsimp only
  repeat' first
    | with_reducible apply Keeps.ofNext
    | with_reducible exact .refl _
    | with_reducible assumption
    | ((with_reducible apply Keeps.afterT (State.modEngine_touches _ _ _)); · rfl)
    | ((with_reducible apply Keeps.afterT (State.setPack_touches _ _ _)); · rfl)
    | with_reducible apply Keeps.after (State.packEvent_keeps _ _ _ _)
    | with_reducible apply Keeps.after (State.lasersOff_keeps _ _)
    | with_reducible apply Keeps.ite
    | with_reducible apply Keeps.iteStep
    | with_reducible intro _
    | split
    | with_reducible refine Keeps.pair (by assumption) ?_
    | dsimp only

theorem State.warn_keeps (s : State) (e k : Nat) : Keeps s (State.warn s e k) := by
  unfold State.warn
  try dsimp only
  repeat' first
    | with_reducible exact .refl _
    | with_reducible assumption
    | with_reducible apply Keeps.each
    | with_reducible apply Keeps.fold
    | with_reducible apply Keeps.foldPair
    | ((with_reducible apply Keeps.afterT (State.setEngine_touches _ _ _)); · rfl)
    | ((with_reducible apply Keeps.afterT (State.modPack_touches _ _ _)); · rfl)
    | ((with_reducible apply Keeps.afterT (State.dropNext_touches _ _)); · rfl)
    | with_reducible apply Keeps.after (State.packEvent_keeps _ _ _ _)
    | ((with_reducible apply Keeps.afterT (State.lightSpare_touches _ _ _)); · rfl)
    | ((with_reducible apply Keeps.afterT (State.freeSpare_touches _ _)); · rfl)
    | ((with_reducible apply Keeps.afterT (State.fadeMove_touches _ _ _ _)); · rfl)
    | with_reducible apply Keeps.ite
    | with_reducible intro _
    | split
    | with_reducible refine Keeps.pair (by assumption) ?_
    | dsimp only

theorem State.laserFail_keeps (s : State) (e k : Nat) : Keeps s (State.laserFail s e k) := by
  unfold State.laserFail
  try dsimp only
  repeat' first
    | with_reducible exact .refl _
    | with_reducible assumption
    | with_reducible apply Keeps.fold
    | with_reducible apply Keeps.foldPair
    | ((with_reducible apply Keeps.afterT (State.modPack_touches _ _ _)); · rfl)
    | ((with_reducible apply Keeps.afterT (State.dropNext_touches _ _)); · rfl)
    | with_reducible apply Keeps.after (State.packEvent_keeps _ _ _ _)
    | with_reducible apply Keeps.ite
    | with_reducible intro _
    | split
    | with_reducible refine Keeps.pair (by assumption) ?_
    | dsimp only

theorem State.fadeWindow_keeps (s : State) (e k : Nat) (mean : Int) : Keeps s (State.fadeWindow s e k mean)
    := by
  unfold State.fadeWindow
  try dsimp only
  repeat' first
    | with_reducible exact .refl _
    | with_reducible assumption
    | ((with_reducible apply Keeps.afterT (State.putInt_touches _ _ _)); · rfl)
    | ((with_reducible apply Keeps.afterT (State.modPack_touches _ _ _)); · rfl)
    | with_reducible apply Keeps.after (State.warn_keeps _ _ _)
    | with_reducible apply Keeps.after (State.laserFail_keeps _ _ _)
    | with_reducible apply Keeps.ite
    | with_reducible intro _
    | split
    | with_reducible refine Keeps.pair (by assumption) ?_
    | dsimp only

theorem execFadeWindow_keeps (e : Engine) (k : Laser) (mean : Int) (s : State) : StepKeeps s
    (execFadeWindow e k mean s) := by
  unfold execFadeWindow
  try dsimp only
  repeat' first
    | with_reducible apply Keeps.ofNext
    | with_reducible exact .refl _
    | with_reducible assumption
    | with_reducible apply Keeps.after (State.fadeWindow_keeps _ _ _ _)
    | with_reducible intro _
    | with_reducible refine Keeps.pair (by assumption) ?_
    | dsimp only

theorem execSuddenLaserLoss_keeps (e : Engine) (k : Laser) (s : State) : StepKeeps s (execSuddenLaserLoss e
    k s) := by
  unfold execSuddenLaserLoss
  try dsimp only
  repeat' first
    | with_reducible apply Keeps.ofNext
    | with_reducible exact .refl _
    | with_reducible assumption
    | with_reducible apply Keeps.after (State.laserFail_keeps _ _ _)
    | with_reducible apply Keeps.ite
    | with_reducible apply Keeps.iteStep
    | with_reducible intro _
    | split
    | with_reducible refine Keeps.pair (by assumption) ?_
    | dsimp only

theorem State.thoroFail_keeps (s : State) (k code : Nat) (pos : Nat) : Keeps s (State.thoroFail s k code
    pos) := by
  unfold State.thoroFail
  try dsimp only
  repeat' first
    | with_reducible exact .refl _
    | with_reducible assumption
    | with_reducible apply Keeps.after (State.endFailedAt_keeps _ _ _ _)
    | ((with_reducible apply Keeps.afterT (State.thoroReturn_touches _ _ _)); · rfl)
    | with_reducible intro _
    | with_reducible apply Keeps.put_optics
    | with_reducible refine Keeps.pair (by assumption) ?_
    | dsimp only

theorem execMoveRefuse_keeps (p : Port) (msg : BitVec 128) (s : State) : StepKeeps s (execMoveRefuse p msg
    s) := by
  unfold execMoveRefuse
  try dsimp only
  repeat' first
    | with_reducible apply Keeps.ofNext
    | with_reducible exact .refl _
    | with_reducible assumption
    | ((with_reducible apply Keeps.afterT (State.moveFails_touches _ _)); · rfl)
    | with_reducible apply Keeps.after (State.thoroFail_keeps _ _ _ _)
    | with_reducible apply Keeps.ite
    | with_reducible apply Keeps.iteStep
    | with_reducible intro _
    | split

theorem execMoveAnswerTimeout_keeps (t : Fiber) (rx : Bool) (home : Fin 16) (s : State) : StepKeeps s
    (execMoveAnswerTimeout t rx home s) := by
  unfold execMoveAnswerTimeout
  try dsimp only
  repeat' first
    | with_reducible apply Keeps.ofNext
    | with_reducible exact .refl _
    | with_reducible assumption
    | ((with_reducible apply Keeps.afterT (State.moveFails_touches _ _)); · rfl)
    | with_reducible apply Keeps.after (State.thoroFail_keeps _ _ _ _)
    | with_reducible apply Keeps.ite
    | with_reducible apply Keeps.iteStep
    | with_reducible intro _
    | split

theorem execRingExcursion_keeps (e : Engine) (s : State) : StepKeeps s (execRingExcursion e s) := by
  unfold execRingExcursion
  try dsimp only
  repeat' first
    | with_reducible apply Keeps.ofNext
    | with_reducible exact .refl _
    | with_reducible assumption
    | with_reducible apply Keeps.fold
    | with_reducible apply Keeps.foldPair
    | ((with_reducible apply Keeps.afterT (State.bump_touches _ _ _)); · rfl)
    | with_reducible apply Keeps.after (State.eventObj_keeps _ _ _ _)
    | ((with_reducible apply Keeps.afterT (State.count_touches _ _ _ _ _)); · rfl)
    | with_reducible intro _
    | with_reducible apply Keeps.put_warden
    | with_reducible refine Keeps.pair (by assumption) ?_
    | dsimp only

theorem State.thoroTell_keeps (s : State) (k : Nat) : Keeps s (State.thoroTell s k) := by
  unfold State.thoroTell
  try dsimp only
  repeat' first
    | with_reducible exact .refl _
    | with_reducible assumption
    | with_reducible apply Keeps.when
    | with_reducible apply Keeps.fold
    | with_reducible apply Keeps.foldPair
    | ((with_reducible apply Keeps.afterT (State.modPort_touches _ _ _)); · rfl)
    | ((with_reducible apply Keeps.afterT (State.askTally_touches _ _ _)); · rfl)
    | ((with_reducible apply Keeps.afterPairT (State.askTally_touches _ _ _)); (· assumption); (· rfl))
    | ((with_reducible apply Keeps.afterT (State.sendMove_touches _ _ _)); · rfl)
    | ((with_reducible apply Keeps.afterT (State.setThoro_touches _ _ _)); · rfl)
    | with_reducible apply Keeps.after (State.thoroFail_keeps _ _ _ _)
    | with_reducible apply Keeps.ite
    | with_reducible intro _
    | split
    | with_reducible refine Keeps.pair (by assumption) ?_
    | dsimp only

theorem State.thoroDue_keeps (s : State) (k : Nat) : Keeps s (State.thoroDue s k) := by
  unfold State.thoroDue
  try dsimp only
  repeat' first
    | with_reducible exact .refl _
    | with_reducible assumption
    | with_reducible apply Keeps.fold
    | with_reducible apply Keeps.foldPair
    | ((with_reducible apply Keeps.afterT (State.bump_touches _ _ _)); · rfl)
    | ((with_reducible apply Keeps.afterT (State.drop_touches _ _ _)); · rfl)
    | with_reducible apply Keeps.after (State.endDone_keeps _ _)
    | with_reducible apply Keeps.after (State.dropOut_keeps _ _ _)
    | ((with_reducible apply Keeps.afterT (State.setThoro_touches _ _ _)); · rfl)
    | ((with_reducible apply Keeps.afterT (State.thoroReturn_touches _ _ _)); · rfl)
    | with_reducible apply Keeps.after (State.thoroFail_keeps _ _ _ _)
    | with_reducible apply Keeps.ite
    | with_reducible intro _
    | split
    | with_reducible apply Keeps.put_optics
    | with_reducible refine Keeps.pair (by assumption) ?_
    | dsimp only

theorem execThoroughfareEffect_keeps (e : Engine) (entry : Fin 8) (s : State) : StepKeeps s
    (execThoroughfareEffect e entry s) := by
  unfold execThoroughfareEffect
  try dsimp only
  repeat' first
    | with_reducible apply Keeps.ofNext
    | with_reducible exact .refl _
    | with_reducible assumption
    | with_reducible apply Keeps.after (State.thoroDue_keeps _ _)
    | with_reducible intro _
    | with_reducible refine Keeps.pair (by assumption) ?_
    | dsimp only

theorem execThoroughfareReadinessCheck_keeps (e : Engine) (entry : Fin 8) (tuned : Bool) (s : State) :
    StepKeeps s (execThoroughfareReadinessCheck e entry tuned s) := by
  unfold execThoroughfareReadinessCheck
  try dsimp only
  repeat' first
    | with_reducible apply Keeps.ofNext
    | with_reducible exact .refl _
    | with_reducible assumption
    | ((with_reducible apply Keeps.afterT (State.dropSteps_touches _ _)); · rfl)
    | ((with_reducible apply Keeps.afterT (State.setThoro_touches _ _ _)); · rfl)
    | with_reducible apply Keeps.after (State.thoroFail_keeps _ _ _ _)
    | with_reducible apply Keeps.ite
    | with_reducible apply Keeps.iteStep
    | with_reducible intro _
    | split
    | with_reducible refine Keeps.pair (by assumption) ?_
    | dsimp only

theorem State.opticsBoundary_keeps (s : State) : Keeps s (State.opticsBoundary s) := by
  unfold State.opticsBoundary
  try dsimp only
  repeat' first
    | with_reducible exact .refl _
    | with_reducible assumption
    | with_reducible apply Keeps.fold
    | with_reducible apply Keeps.foldPair
    | ((with_reducible apply Keeps.afterT (State.packBoundary_touches _ _)); · rfl)
    | ((with_reducible apply Keeps.afterT (State.tryWishes_touches _)); · rfl)
    | ((with_reducible apply Keeps.afterT (State.lasersRest_touches _ _)); · rfl)
    | ((with_reducible apply Keeps.afterT (State.movesDue_touches _)); · rfl)
    | ((with_reducible apply Keeps.afterT (State.oldCarriers_touches _)); · rfl)
    | with_reducible apply Keeps.after (State.thoroTell_keeps _ _)
    | with_reducible apply Keeps.after (State.thoroDue_keeps _ _)
    | with_reducible intro _
    | with_reducible refine Keeps.pair (by assumption) ?_
    | dsimp only

end Sys2Proof.Machine
end

