-- ==== Sys2Proof/Laws/TouchReset.lean ====
section
/-! SUPPORT. Which parts of the state each operation of Machine/Reset.lean changes. -/

namespace Sys2Proof.Machine

theorem State.fixMap_touches (s : State) : OnlyTouches [.mem] s (State.fixMap s) := by
  unfold State.fixMap
  try dsimp only
  repeat' first
    | with_reducible exact .refl _ _
    | with_reducible assumption
    | with_reducible intro _
    | (with_reducible apply OnlyTouches.put_mem; · decide)
    | with_reducible refine OnlyTouches.pair (by assumption) ?_
    | dsimp only

theorem State.stopDie_touches (s : State) : OnlyTouches [.objs, .power, .time, .optics, .lanes, .remaps,
    .ports, .switch, .pitches, .service, .coll, .update, .arrays, .mem, .custody, .warden, .ledger, .dict,
    .host] s (State.stopDie s) := by
  unfold State.stopDie
  try dsimp only
  repeat' first
    | with_reducible exact .refl _ _
    | with_reducible assumption
    | (with_reducible apply OnlyTouches.after (State.dropped_touches _ _ _ _); · decide)
    | (with_reducible apply OnlyTouches.after (State.store_touches _ _ _); · decide)
    | with_reducible apply OnlyTouches.ite
    | with_reducible intro _
    | split
    | (with_reducible apply OnlyTouches.put_objs; · decide)
    | (with_reducible apply OnlyTouches.put_power; · decide)
    | (with_reducible apply OnlyTouches.put_time; · decide)
    | (with_reducible apply OnlyTouches.put_optics; · decide)
    | (with_reducible apply OnlyTouches.put_lanes; · decide)
    | (with_reducible apply OnlyTouches.put_remaps; · decide)
    | (with_reducible apply OnlyTouches.put_ports; · decide)
    | (with_reducible apply OnlyTouches.put_switch; · decide)
    | (with_reducible apply OnlyTouches.put_pitches; · decide)
    | (with_reducible apply OnlyTouches.put_service; · decide)
    | (with_reducible apply OnlyTouches.put_coll; · decide)
    | (with_reducible apply OnlyTouches.put_update; · decide)
    | (with_reducible apply OnlyTouches.put_arrays; · decide)
    | (with_reducible apply OnlyTouches.put_mem; · decide)
    | (with_reducible apply OnlyTouches.put_custody; · decide)
    | (with_reducible apply OnlyTouches.put_warden; · decide)
    | (with_reducible apply OnlyTouches.put_ledger; · decide)
    | (with_reducible apply OnlyTouches.put_dict; · decide)
    | (with_reducible apply OnlyTouches.put_host; · decide)
    | (with_reducible apply OnlyTouches.put_coll_update; (· decide); (· decide))
    | (with_reducible apply OnlyTouches.put_objs_power_time_optics_lanes_remaps_ports_switch_pitches_service_coll_update_arrays_mem_custody_warden_ledger_dict_host; (· decide); (· decide); (· decide); (· decide); (· decide); (· decide); (· decide); (· decide); (· decide); (· decide); (· decide); (· decide); (· decide); (· decide); (· decide); (· decide); (· decide); (· decide); (· decide))
    | (with_reducible apply OnlyTouches.put_ports_switch; (· decide); (· decide))
    | (with_reducible apply OnlyTouches.put_power_dict; (· decide); (· decide))
    | (with_reducible apply OnlyTouches.put_switch_coll_host; (· decide); (· decide); (· decide))
    | with_reducible refine OnlyTouches.pair (by assumption) ?_
    | dsimp only

theorem State.clearDie_touches (s : State) : OnlyTouches [.objs, .power, .time, .optics, .lanes, .remaps,
    .ports, .switch, .pitches, .service, .coll, .update, .arrays, .mem, .custody, .warden, .ledger, .dict,
    .host] s (State.clearDie s) := by
  unfold State.clearDie
  try dsimp only
  repeat' first
    | with_reducible exact .refl _ _
    | with_reducible assumption
    | with_reducible apply OnlyTouches.fold
    | with_reducible apply OnlyTouches.foldPair
    | (with_reducible apply OnlyTouches.after (State.completionEvent_touches _ _ _); · decide)
    | (with_reducible apply OnlyTouches.after (State.stopDie_touches _); · decide)
    | with_reducible intro _

theorem State.stop64_touches (s : State) (st : PowerState) : OnlyTouches [.objs, .power, .time, .optics,
    .lanes, .remaps, .ports, .switch, .pitches, .service, .coll, .update, .arrays, .mem, .custody, .warden,
    .ledger, .dict, .host] s (State.stop64 s st) := by
  unfold State.stop64
  try dsimp only
  repeat' first
    | with_reducible exact .refl _ _
    | with_reducible assumption
    | (with_reducible apply OnlyTouches.after (State.clearDie_touches _); · decide)
    | with_reducible intro _
    | (with_reducible apply OnlyTouches.put_power; · decide)

theorem State.standbyOff_touches (s : State) : OnlyTouches [.objs, .power, .time, .optics, .lanes, .remaps,
    .ports, .switch, .pitches, .service, .coll, .update, .arrays, .mem, .custody, .warden, .ledger, .dict,
    .host] s (State.standbyOff s) := by
  intro p hp
  cases p <;> first | rfl | exact absurd (by decide) hp

theorem State.latchFault_touches (s : State) (cause rails atMs cls block : Nat) : OnlyTouches [.objs,
    .power, .time, .optics, .lanes, .remaps, .ports, .switch, .pitches, .service, .coll, .update, .arrays,
    .mem, .custody, .warden, .ledger, .dict, .host, .free] s (State.latchFault s cause rails atMs cls
    block) := by
  unfold State.latchFault
  try dsimp only
  repeat' first
    | with_reducible exact .refl _ _
    | with_reducible assumption
    | (with_reducible apply OnlyTouches.after (State.capsule_touches _ _ _ _); · decide)
    | (with_reducible apply OnlyTouches.after (State.stop64_touches _ _); · decide)
    | with_reducible intro _
    | (with_reducible apply OnlyTouches.put_power; · decide)
    | with_reducible refine OnlyTouches.pair (by assumption) ?_
    | dsimp only

theorem State.tryStart_touches (s : State) : OnlyTouches [.power] s (State.tryStart s) := by
  unfold State.tryStart
  try dsimp only
  repeat' first
    | with_reducible exact .refl _ _
    | with_reducible assumption
    | with_reducible apply OnlyTouches.ite
    | with_reducible intro _
    | split
    | (with_reducible apply OnlyTouches.put_power; · decide)
    | with_reducible refine OnlyTouches.pair (by assumption) ?_
    | dsimp only

end Sys2Proof.Machine
end

