-- ==== Sys2Proof/Laws/KeepReset.lean ====
section
/-! SUPPORT. The operations of Machine/Reset.lean keep the invariant. -/

namespace Sys2Proof.Machine

theorem State.fixMap_keeps (s : State) : Keeps s (State.fixMap s) := by
  unfold State.fixMap
  try dsimp only
  repeat' first
    | with_reducible exact .refl _
    | with_reducible assumption
    | with_reducible intro _
    | ((with_reducible apply Keeps.put_mem); · exact fun i => ⟨i.cells, i.tables⟩)
    | with_reducible refine Keeps.pair (by assumption) ?_
    | dsimp only

theorem State.stopDie_keeps (s : State) : Keeps s (State.stopDie s) := by
  unfold State.stopDie
  exact ⟨fun i => ⟨rfl, filter_wf i.tables⟩, fun i => ⟨i.head, i.tail⟩,
    fun i => ⟨i.capsule, i.pinned, i.converts, fun h => (Bool.noConfusion h), i.powering, fun h => absurd rfl h,
      i.converting, i.ready⟩⟩

theorem State.clearDie_keeps (s : State) : Keeps s (State.clearDie s) := by
  unfold State.clearDie
  try dsimp only
  repeat' first
    | with_reducible exact .refl _
    | with_reducible assumption
    | with_reducible apply Keeps.fold
    | with_reducible apply Keeps.foldPair
    | with_reducible apply Keeps.after (State.completionEvent_keeps _ _ _)
    | with_reducible apply Keeps.after (State.stopDie_keeps _)
    | with_reducible intro _

theorem State.clearDie_power (s : State) : s.clearDie.power = s.stopDie.power := by
  have h : OnlyTouches [.objs, .dict, .host] s.stopDie s.clearDie := by
    unfold State.clearDie
    dsimp only
    refine .fold _ (.refl _ _) fun u a => ?_
    exact State.completionEvent_touches _ _ _
  exact h .power (by decide)

theorem State.stop64_keeps (s : State) (st : PowerState) (h : st ≠ .powering) : Keeps s (State.stop64 s st) := by
  have e : s.clearDie.power.released = false := by rw [State.clearDie_power]; rfl
  have b : s.clearDie.power.boot = .idle := by rw [State.clearDie_power]; rfl
  unfold State.stop64
  exact .put_power (fun i => ⟨i.capsule, i.pinned, nofun, fun h => by rw [e] at h; exact Bool.noConfusion h,
    fun e => absurd e h, fun hb => absurd b hb, fun h => (Bool.noConfusion h), i.ready⟩) (State.clearDie_keeps s)

theorem State.standbyOff_keeps (s : State) : Keeps s (State.standbyOff s) := by
  exact ⟨fun i => ⟨rfl, filter_wf i.tables⟩, fun _ => ⟨Nat.zero_lt_succ _, Nat.zero_lt_succ _⟩,
    fun i => ⟨i.capsule, i.pinned, nofun, nofun, nofun, fun h => absurd rfl h, nofun, nofun⟩⟩

theorem State.latchFault_keeps (s : State) (cause rails atMs cls block : Nat) : Keeps s (State.latchFault s
    cause rails atMs cls block) := by
  unfold State.latchFault
  dsimp only
  exact .put_power (fun i => ⟨i.capsule, i.pinned, i.converts, i.released, i.powering, i.boots, i.converting, i.ready⟩)
    (.after (State.stop64_keeps _ _ (by decide)) (State.capsule_keeps _ _ _ _))

theorem State.tryStart_keeps (s : State) : Keeps s (State.tryStart s) := by
  unfold State.tryStart
  split
  · exact .refl _
  split
  · exact .put_power (fun i => ⟨i.capsule, i.pinned, i.converts, i.released, i.powering, i.boots, i.converting, i.ready⟩) (.refl _)
  rename_i hm _
  simp only [State.mayStart, Bool.and_eq_true, Bool.not_eq_true', beq_iff_eq, decide_eq_true_eq,
    Bool.not_eq_false] at hm
  refine .put_power (fun i => ?_) (.refl _)
  have np : s.power.pwrOk = false := by
    cases h : s.power.pwrOk with
    | false => rfl
    | true => have := (i.converts h).1; simp_all
  have nr : s.power.released = false := by
    cases h : s.power.released with
    | false => rfl
    | true => have := (i.released h).1; simp_all
  exact ⟨i.capsule, i.pinned, fun h => by simp_all, fun h => by simp_all, fun _ => rfl,
    fun h => by have := i.boots h; simp_all, fun _ => by simp_all, i.ready⟩

end Sys2Proof.Machine
end

