-- ==== Sys2Proof/Laws/TouchPower.lean ====
section
/-! SUPPORT. Which parts of the state each operation of Machine/Power.lean changes. -/

namespace Sys2Proof.Machine

theorem execStandbyPowerUp_touches (s : State) : StepTouches [.power] s (execStandbyPowerUp s) := by
  unfold execStandbyPowerUp
  try dsimp only
  repeat' first
    | with_reducible apply OnlyTouches.ofNext
    | with_reducible exact .refl _ _
    | with_reducible assumption
    | with_reducible apply OnlyTouches.ite
    | with_reducible apply OnlyTouches.iteStep
    | with_reducible intro _
    | split
    | (with_reducible apply OnlyTouches.put_power; · decide)
    | with_reducible refine OnlyTouches.pair (by assumption) ?_
    | dsimp only

theorem State.decodeStraps_touches (s : State) (raw : Nat) : OnlyTouches [.objs] s (State.decodeStraps s
    raw) := by
  unfold State.decodeStraps
  try dsimp only
  repeat' first
    | with_reducible exact .refl _ _
    | with_reducible assumption
    | (with_reducible apply OnlyTouches.after (State.putObj_touches _ _ _); · decide)
    | with_reducible intro _
    | with_reducible refine OnlyTouches.pair (by assumption) ?_
    | dsimp only

theorem State.strapFault_touches (s : State) : OnlyTouches [.power, .host, .free] s (State.strapFault s) :=
    by
  unfold State.strapFault
  try dsimp only
  repeat' first
    | with_reducible exact .refl _ _
    | with_reducible assumption
    | (with_reducible apply OnlyTouches.after (State.holdAlert_touches _ _); · decide)
    | (with_reducible apply OnlyTouches.after (State.capsule_touches _ _ _ _); · decide)
    | with_reducible intro _
    | with_reducible refine OnlyTouches.pair (by assumption) ?_
    | dsimp only

theorem execStrapSampling_touches (samples : List (BitVec 24)) (s : State) : StepTouches [.objs, .power,
    .host, .free] s (execStrapSampling samples s) := by
  unfold execStrapSampling
  try dsimp only
  repeat' first
    | with_reducible apply OnlyTouches.ofNext
    | with_reducible exact .refl _ _
    | with_reducible assumption
    | with_reducible apply OnlyTouches.when
    | (with_reducible apply OnlyTouches.after (State.decodeStraps_touches _ _); · decide)
    | (with_reducible apply OnlyTouches.after (State.strapFault_touches _); · decide)
    | with_reducible apply OnlyTouches.ite
    | with_reducible apply OnlyTouches.iteStep
    | with_reducible intro _
    | split
    | (with_reducible apply OnlyTouches.put_power; · decide)
    | with_reducible refine OnlyTouches.pair (by assumption) ?_
    | dsimp only

theorem execManagementDomainReady_touches (s : State) : StepTouches [.power] s (execManagementDomainReady
    s) := by
  unfold execManagementDomainReady
  try dsimp only
  repeat' first
    | with_reducible apply OnlyTouches.ofNext
    | with_reducible exact .refl _ _
    | with_reducible assumption
    | with_reducible apply OnlyTouches.ite
    | with_reducible apply OnlyTouches.iteStep
    | with_reducible intro _
    | split
    | (with_reducible apply OnlyTouches.put_power; · decide)

theorem execStandbyLoss_touches (s : State) : StepTouches [.objs, .power, .time, .optics, .lanes, .remaps,
    .ports, .switch, .pitches, .service, .coll, .update, .arrays, .mem, .custody, .warden, .ledger, .dict,
    .host, .free] s (execStandbyLoss s) := by
  unfold execStandbyLoss
  try dsimp only
  repeat' first
    | with_reducible apply OnlyTouches.ofNext
    | with_reducible exact .refl _ _
    | with_reducible assumption
    | (with_reducible apply OnlyTouches.after (State.capsule_touches _ _ _ _); · decide)
    | (with_reducible apply OnlyTouches.after (State.standbyOff_touches _); · decide)
    | with_reducible apply OnlyTouches.ite
    | with_reducible apply OnlyTouches.iteStep
    | with_reducible intro _
    | split
    | with_reducible refine OnlyTouches.pair (by assumption) ?_
    | dsimp only

theorem execStartConditionsMet_touches (vinMv : Int) (seated : Bool) (s : State) : StepTouches [.power] s
    (execStartConditionsMet vinMv seated s) := by
  unfold execStartConditionsMet
  try dsimp only
  repeat' first
    | with_reducible apply OnlyTouches.ofNext
    | with_reducible exact .refl _ _
    | with_reducible assumption
    | (with_reducible apply OnlyTouches.after (State.tryStart_touches _); · decide)
    | with_reducible apply OnlyTouches.ite
    | with_reducible apply OnlyTouches.iteStep
    | with_reducible intro _
    | split
    | (with_reducible apply OnlyTouches.put_power; · decide)
    | with_reducible refine OnlyTouches.pair (by assumption) ?_
    | dsimp only

theorem execPrechargeComplete_touches (s : State) : StepTouches [.power] s (execPrechargeComplete s) := by
  unfold execPrechargeComplete
  try dsimp only
  repeat' first
    | with_reducible apply OnlyTouches.ofNext
    | with_reducible exact .refl _ _
    | with_reducible assumption
    | with_reducible apply OnlyTouches.ite
    | with_reducible apply OnlyTouches.iteStep
    | with_reducible intro _
    | split
    | (with_reducible apply OnlyTouches.put_power; · decide)

theorem execRailsUp_touches (s : State) : StepTouches [.objs, .power, .time, .optics, .lanes, .remaps,
    .ports, .switch, .pitches, .service, .coll, .update, .arrays, .mem, .custody, .warden, .ledger, .dict,
    .host, .free] s (execRailsUp s) := by
  unfold execRailsUp
  try dsimp only
  repeat' first
    | with_reducible apply OnlyTouches.ofNext
    | with_reducible exact .refl _ _
    | with_reducible assumption
    | (with_reducible apply OnlyTouches.after (State.draw_touches _); · decide)
    | (with_reducible apply OnlyTouches.after (State.latchFault_touches _ _ _ _ _ _); · decide)
    | with_reducible apply OnlyTouches.ite
    | with_reducible apply OnlyTouches.iteStep
    | with_reducible intro _
    | split
    | (with_reducible apply OnlyTouches.put_power; · decide)
    | with_reducible refine OnlyTouches.pair (by assumption) ?_
    | dsimp only

theorem State.inputLost_touches (s : State) (o : Obj) : OnlyTouches [.objs, .power, .time, .optics, .lanes,
    .remaps, .ports, .switch, .pitches, .service, .coll, .update, .arrays, .mem, .custody, .warden,
    .ledger, .dict, .host, .free] s (State.inputLost s o) := by
  unfold State.inputLost
  try dsimp only
  repeat' first
    | with_reducible exact .refl _ _
    | with_reducible assumption
    | (with_reducible apply OnlyTouches.after (State.bump_touches _ _ _); · decide)
    | (with_reducible apply OnlyTouches.after (State.capsule_touches _ _ _ _); · decide)
    | (with_reducible apply OnlyTouches.after (State.stop64_touches _ _); · decide)
    | with_reducible intro _
    | (with_reducible apply OnlyTouches.put_power; · decide)
    | with_reducible refine OnlyTouches.pair (by assumption) ?_
    | dsimp only

theorem State.inputAt_touches (s : State) (vinMv : Int) (stops may : Bool) (o : Obj) : OnlyTouches [.objs,
    .power, .time, .optics, .lanes, .remaps, .ports, .switch, .pitches, .service, .coll, .update, .arrays,
    .mem, .custody, .warden, .ledger, .dict, .host, .free] s (State.inputAt s vinMv stops may o) := by
  unfold State.inputAt
  try dsimp only
  repeat' first
    | with_reducible exact .refl _ _
    | with_reducible assumption
    | with_reducible apply OnlyTouches.when
    | (with_reducible apply OnlyTouches.after (State.draw_touches _); · decide)
    | (with_reducible apply OnlyTouches.after (State.inputLost_touches _ _); · decide)
    | with_reducible apply OnlyTouches.ite
    | with_reducible intro _
    | split
    | (with_reducible apply OnlyTouches.put_power; · decide)
    | with_reducible refine OnlyTouches.pair (by assumption) ?_
    | dsimp only

theorem execUndervoltage_touches (vinMv : Int) (s : State) : StepTouches [.objs, .power, .time, .optics,
    .lanes, .remaps, .ports, .switch, .pitches, .service, .coll, .update, .arrays, .mem, .custody, .warden,
    .ledger, .dict, .host, .free] s (execUndervoltage vinMv s) := by
  unfold execUndervoltage
  try dsimp only
  repeat' first
    | with_reducible apply OnlyTouches.ofNext
    | with_reducible exact .refl _ _
    | with_reducible assumption
    | (with_reducible apply OnlyTouches.after (State.inputAt_touches _ _ _ _ _); · decide)
    | with_reducible intro _
    | with_reducible refine OnlyTouches.pair (by assumption) ?_
    | dsimp only

theorem execOvervoltage_touches (vinMv : Int) (s : State) : StepTouches [.objs, .power, .time, .optics,
    .lanes, .remaps, .ports, .switch, .pitches, .service, .coll, .update, .arrays, .mem, .custody, .warden,
    .ledger, .dict, .host, .free] s (execOvervoltage vinMv s) := by
  unfold execOvervoltage
  try dsimp only
  repeat' first
    | with_reducible apply OnlyTouches.ofNext
    | with_reducible exact .refl _ _
    | with_reducible assumption
    | (with_reducible apply OnlyTouches.after (State.inputAt_touches _ _ _ _ _); · decide)
    | with_reducible intro _
    | with_reducible refine OnlyTouches.pair (by assumption) ?_
    | dsimp only

theorem execBladeSeatBreak_touches (s : State) : StepTouches [.objs, .power, .time, .optics, .lanes,
    .remaps, .ports, .switch, .pitches, .service, .coll, .update, .arrays, .mem, .custody, .warden,
    .ledger, .dict, .host, .free] s (execBladeSeatBreak s) := by
  unfold execBladeSeatBreak
  try dsimp only
  repeat' first
    | with_reducible apply OnlyTouches.ofNext
    | with_reducible exact .refl _ _
    | with_reducible assumption
    | (with_reducible apply OnlyTouches.after (State.capsule_touches _ _ _ _); · decide)
    | (with_reducible apply OnlyTouches.after (State.stop64_touches _ _); · decide)
    | with_reducible apply OnlyTouches.ite
    | with_reducible apply OnlyTouches.iteStep
    | with_reducible intro _
    | split
    | (with_reducible apply OnlyTouches.put_power; · decide)
    | with_reducible refine OnlyTouches.pair (by assumption) ?_
    | dsimp only

theorem execRailFault_touches (rail : Fin 12) (atMs : Nat) (s : State) : StepTouches [.objs, .power, .time,
    .optics, .lanes, .remaps, .ports, .switch, .pitches, .service, .coll, .update, .arrays, .mem, .custody,
    .warden, .ledger, .dict, .host, .free] s (execRailFault rail atMs s) := by
  unfold execRailFault
  try dsimp only
  repeat' first
    | with_reducible apply OnlyTouches.ofNext
    | with_reducible exact .refl _ _
    | with_reducible assumption
    | (with_reducible apply OnlyTouches.after (State.latchFault_touches _ _ _ _ _ _); · decide)
    | with_reducible apply OnlyTouches.ite
    | with_reducible apply OnlyTouches.iteStep
    | with_reducible intro _
    | split
    | (with_reducible apply OnlyTouches.put_power; · decide)

theorem execThermalTrip_touches (t : Stall) (milliC : Int) (atMs : Nat) (s : State) : StepTouches [.objs,
    .power, .time, .optics, .lanes, .remaps, .ports, .switch, .pitches, .service, .coll, .update, .arrays,
    .mem, .custody, .warden, .ledger, .dict, .host, .free] s (execThermalTrip t milliC atMs s) := by
  unfold execThermalTrip
  try dsimp only
  repeat' first
    | with_reducible apply OnlyTouches.ofNext
    | with_reducible exact .refl _ _
    | with_reducible assumption
    | (with_reducible apply OnlyTouches.after (State.latchFault_touches _ _ _ _ _ _); · decide)
    | with_reducible apply OnlyTouches.ite
    | with_reducible apply OnlyTouches.iteStep
    | with_reducible intro _
    | split

theorem State.powerRestart_touches (s : State) : OnlyTouches [.power] s (State.powerRestart s) := by
  unfold State.powerRestart
  try dsimp only
  repeat' first
    | with_reducible exact .refl _ _
    | with_reducible assumption
    | (with_reducible apply OnlyTouches.after (State.tryStart_touches _); · decide)
    | with_reducible apply OnlyTouches.ite
    | with_reducible intro _
    | split
    | (with_reducible apply OnlyTouches.put_power; · decide)
    | with_reducible refine OnlyTouches.pair (by assumption) ?_
    | dsimp only

theorem execRstNAssert_touches (s : State) : StepTouches [.objs, .power, .time, .optics, .lanes, .remaps,
    .ports, .switch, .pitches, .service, .coll, .update, .arrays, .mem, .custody, .warden, .ledger, .dict,
    .host, .free] s (execRstNAssert s) := by
  unfold execRstNAssert
  try dsimp only
  repeat' first
    | with_reducible apply OnlyTouches.ofNext
    | with_reducible exact .refl _ _
    | with_reducible assumption
    | (with_reducible apply OnlyTouches.after (State.capsule_touches _ _ _ _); · decide)
    | (with_reducible apply OnlyTouches.after (State.clearDie_touches _); · decide)
    | with_reducible apply OnlyTouches.ite
    | with_reducible apply OnlyTouches.iteStep
    | with_reducible intro _
    | split
    | (with_reducible apply OnlyTouches.put_power; · decide)
    | with_reducible refine OnlyTouches.pair (by assumption) ?_
    | dsimp only

theorem execRstNRelease_touches (s : State) : StepTouches [.power] s (execRstNRelease s) := by
  unfold execRstNRelease
  try dsimp only
  repeat' first
    | with_reducible apply OnlyTouches.ofNext
    | with_reducible exact .refl _ _
    | with_reducible assumption
    | with_reducible apply OnlyTouches.ite
    | with_reducible apply OnlyTouches.iteStep
    | with_reducible intro _
    | split
    | (with_reducible apply OnlyTouches.put_power; · decide)

theorem execDieRelease_touches (s : State) : StepTouches [.objs, .power, .time, .optics, .lanes, .remaps,
    .ports, .switch, .pitches, .service, .coll, .update, .arrays, .mem, .custody, .warden, .ledger, .dict,
    .host, .free] s (execDieRelease s) := by
  unfold execDieRelease
  try dsimp only
  repeat' first
    | with_reducible apply OnlyTouches.ofNext
    | with_reducible exact .refl _ _
    | with_reducible assumption
    | (with_reducible apply OnlyTouches.after (State.putObj_touches _ _ _); · decide)
    | (with_reducible apply OnlyTouches.after (State.bump_touches _ _ _); · decide)
    | (with_reducible apply OnlyTouches.after (State.draw_touches _); · decide)
    | (with_reducible apply OnlyTouches.after (State.fixMap_touches _); · decide)
    | (with_reducible apply OnlyTouches.after (State.clearDie_touches _); · decide)
    | with_reducible apply OnlyTouches.ite
    | with_reducible apply OnlyTouches.iteStep
    | with_reducible intro _
    | split
    | (with_reducible apply OnlyTouches.put_power; · decide)
    | (with_reducible apply OnlyTouches.put_dict; · decide)
    | (with_reducible apply OnlyTouches.put_power_dict; (· decide); (· decide))
    | with_reducible refine OnlyTouches.pair (by assumption) ?_
    | dsimp only

end Sys2Proof.Machine
end

