-- ==== Sys2Proof/Laws/KeepPower.lean ====
section
/-! SUPPORT. The operations of Machine/Power.lean keep the invariant. -/

namespace Sys2Proof.Machine

theorem execStandbyPowerUp_keeps (s : State) : StepKeeps s (execStandbyPowerUp s) := by
  unfold execStandbyPowerUp
  apply Keeps.ofNext
  split
  · exact .refl _
  · exact .put_power (fun i => by
    obtain ⟨a, b, c, d, e, f, g, h⟩ := i
    constructor <;> first | exact a | exact b | grind) (.refl _)

theorem State.strapFault_keeps (s : State) : Keeps s (State.strapFault s) := by
  unfold State.strapFault
  try dsimp only
  repeat' first
    | with_reducible exact .refl _
    | with_reducible assumption
    | with_reducible apply Keeps.after (State.holdAlert_keeps _ _)
    | with_reducible apply Keeps.after (State.capsule_keeps _ _ _ _)
    | with_reducible intro _
    | with_reducible refine Keeps.pair (by assumption) ?_
    | dsimp only

theorem execStrapSampling_keeps (samples : List (BitVec 24)) (s : State) : StepKeeps s (execStrapSampling
    samples s) := by
  unfold execStrapSampling
  try dsimp only
  repeat' first
    | with_reducible apply Keeps.ofNext
    | with_reducible exact .refl _
    | with_reducible assumption
    | with_reducible apply Keeps.when
    | ((with_reducible apply Keeps.afterT (State.decodeStraps_touches _ _)); · rfl)
    | with_reducible apply Keeps.after (State.strapFault_keeps _)
    | with_reducible intro _
    | split
    | ((with_reducible apply Keeps.put_power); · exact fun i => ⟨i.capsule, i.pinned, i.converts, i.released, i.powering, i.boots, i.converting, i.ready⟩)
    | ((with_reducible apply Keeps.put_power); · exact fun i => by (obtain ⟨a, b, c, d, e, f, g, h⟩ := i; constructor <;> first | exact a | exact b | grind))
    | with_reducible refine Keeps.pair (by assumption) ?_
    | dsimp only

theorem execManagementDomainReady_keeps (s : State) : StepKeeps s (execManagementDomainReady s) := by
  unfold execManagementDomainReady
  apply Keeps.ofNext
  split
  · exact .refl _
  · exact .put_power (fun i => by
    obtain ⟨a, b, c, d, e, f, g, h⟩ := i
    constructor <;> first | exact a | exact b | grind) (.refl _)

theorem execStandbyLoss_keeps (s : State) : StepKeeps s (execStandbyLoss s) := by
  unfold execStandbyLoss
  try dsimp only
  repeat' first
    | with_reducible apply Keeps.ofNext
    | with_reducible exact .refl _
    | with_reducible assumption
    | with_reducible apply Keeps.after (State.capsule_keeps _ _ _ _)
    | with_reducible apply Keeps.after (State.standbyOff_keeps _)
    | with_reducible apply Keeps.ite
    | with_reducible apply Keeps.iteStep
    | with_reducible intro _
    | split
    | with_reducible refine Keeps.pair (by assumption) ?_
    | dsimp only

theorem execStartConditionsMet_keeps (vinMv : Int) (seated : Bool) (s : State) : StepKeeps s
    (execStartConditionsMet vinMv seated s) := by
  unfold execStartConditionsMet
  try dsimp only
  repeat' first
    | with_reducible apply Keeps.ofNext
    | with_reducible exact .refl _
    | with_reducible assumption
    | with_reducible apply Keeps.after (State.tryStart_keeps _)
    | with_reducible intro _
    | split
    | ((with_reducible apply Keeps.put_power); · exact fun i => ⟨i.capsule, i.pinned, i.converts, i.released, i.powering, i.boots, i.converting, i.ready⟩)
    | ((with_reducible apply Keeps.put_power); · exact fun i => by (obtain ⟨a, b, c, d, e, f, g, h⟩ := i; constructor <;> first | exact a | exact b | grind))
    | with_reducible refine Keeps.pair (by assumption) ?_
    | dsimp only

theorem execPrechargeComplete_keeps (s : State) : StepKeeps s (execPrechargeComplete s) := by
  unfold execPrechargeComplete
  apply Keeps.ofNext
  split
  · exact .put_power (fun i => by
    obtain ⟨a, b, c, d, e, f, g, h⟩ := i
    constructor <;> first | exact a | exact b | grind) (.refl _)
  · exact .refl _

theorem execRailsUp_keeps (s : State) : StepKeeps s (execRailsUp s) := by
  unfold execRailsUp
  apply Keeps.ofNext
  split
  · exact .refl _
  split
  · exact .after (State.latchFault_keeps _ _ _ _ _ _) (.afterT (State.draw_touches _) rfl (.refl _))
  · exact .put_power (fun i => by
    obtain ⟨a, b, c, d, e, f, g, h⟩ := i
    constructor <;> first | exact a | exact b | grind) (.refl _)

theorem State.inputLost_keeps (s : State) (o : Obj) : Keeps s (State.inputLost s o) := by
  unfold State.inputLost
  dsimp only
  exact .put_power (fun i => ⟨i.capsule, i.pinned, i.converts, i.released, i.powering, i.boots, i.converting, i.ready⟩)
    (.after (State.stop64_keeps _ _ (by decide)) (.after (State.capsule_keeps _ _ _ _)
      (.afterT (State.bump_touches _ _ _) rfl (.refl _))))

theorem State.inputAt_keeps (s : State) (vinMv : Int) (stops may : Bool) (o : Obj) : Keeps s (State.inputAt
    s vinMv stops may o) := by
  unfold State.inputAt
  try dsimp only
  repeat' first
    | with_reducible exact .refl _
    | with_reducible assumption
    | with_reducible apply Keeps.when
    | ((with_reducible apply Keeps.afterT (State.draw_touches _)); · rfl)
    | with_reducible apply Keeps.after (State.inputLost_keeps _ _)
    | with_reducible intro _
    | split
    | ((with_reducible apply Keeps.put_power); · exact fun i => ⟨i.capsule, i.pinned, i.converts, i.released, i.powering, i.boots, i.converting, i.ready⟩)
    | ((with_reducible apply Keeps.put_power); · exact fun i => by (obtain ⟨a, b, c, d, e, f, g, h⟩ := i; constructor <;> first | exact a | exact b | grind))
    | with_reducible refine Keeps.pair (by assumption) ?_
    | dsimp only

theorem execUndervoltage_keeps (vinMv : Int) (s : State) : StepKeeps s (execUndervoltage vinMv s) := by
  unfold execUndervoltage
  try dsimp only
  repeat' first
    | with_reducible apply Keeps.ofNext
    | with_reducible exact .refl _
    | with_reducible assumption
    | with_reducible apply Keeps.after (State.inputAt_keeps _ _ _ _ _)
    | with_reducible intro _
    | with_reducible refine Keeps.pair (by assumption) ?_
    | dsimp only

theorem execOvervoltage_keeps (vinMv : Int) (s : State) : StepKeeps s (execOvervoltage vinMv s) := by
  unfold execOvervoltage
  try dsimp only
  repeat' first
    | with_reducible apply Keeps.ofNext
    | with_reducible exact .refl _
    | with_reducible assumption
    | with_reducible apply Keeps.after (State.inputAt_keeps _ _ _ _ _)
    | with_reducible intro _
    | with_reducible refine Keeps.pair (by assumption) ?_
    | dsimp only

theorem execBladeSeatBreak_keeps (s : State) : StepKeeps s (execBladeSeatBreak s) := by
  unfold execBladeSeatBreak
  dsimp only
  apply Keeps.ofNext
  have k : Keeps s { s with power := { s.power with seated := false } } := .put_power (fun i => ⟨i.capsule, i.pinned, i.converts, i.released, i.powering, i.boots, i.converting, i.ready⟩) (.refl _)
  split
  · exact .after (State.stop64_keeps _ _ (by decide)) (.after (State.capsule_keeps _ _ _ _) k)
  · exact k

theorem execRailFault_keeps (rail : Fin 12) (atMs : Nat) (s : State) : StepKeeps s (execRailFault rail atMs
    s) := by
  unfold execRailFault
  try dsimp only
  repeat' first
    | with_reducible apply Keeps.ofNext
    | with_reducible exact .refl _
    | with_reducible assumption
    | with_reducible apply Keeps.after (State.latchFault_keeps _ _ _ _ _ _)
    | with_reducible intro _
    | split
    | ((with_reducible apply Keeps.put_power); · exact fun i => ⟨i.capsule, i.pinned, i.converts, i.released, i.powering, i.boots, i.converting, i.ready⟩)
    | ((with_reducible apply Keeps.put_power); · exact fun i => by (obtain ⟨a, b, c, d, e, f, g, h⟩ := i; constructor <;> first | exact a | exact b | grind))

theorem execThermalTrip_keeps (t : Stall) (milliC : Int) (atMs : Nat) (s : State) : StepKeeps s
    (execThermalTrip t milliC atMs s) := by
  unfold execThermalTrip
  try dsimp only
  repeat' first
    | with_reducible apply Keeps.ofNext
    | with_reducible exact .refl _
    | with_reducible assumption
    | with_reducible apply Keeps.after (State.latchFault_keeps _ _ _ _ _ _)
    | with_reducible apply Keeps.ite
    | with_reducible apply Keeps.iteStep
    | with_reducible intro _
    | split

theorem State.powerRestart_keeps (s : State) : Keeps s (State.powerRestart s) := by
  unfold State.powerRestart
  split
  · exact .after (State.tryStart_keeps _) (.put_power (fun i => by
    obtain ⟨a, b, c, d, e, f, g, h⟩ := i
    constructor <;> first | exact a | exact b | grind) (.refl _))
  split
  · exact .after (State.tryStart_keeps _) (.put_power (fun i => by
    obtain ⟨a, b, c, d, e, f, g, h⟩ := i
    constructor <;> first | exact a | exact b | grind) (.refl _))
  · exact .refl _

theorem execRstNAssert_keeps (s : State) : StepKeeps s (execRstNAssert s) := by
  unfold execRstNAssert
  dsimp only
  apply Keeps.ofNext
  split
  · refine .put_power (fun i => ?_) (.after (State.clearDie_keeps _) (.after (State.capsule_keeps _ _ _ _)
      (.put_power (fun i => ⟨i.capsule, i.pinned, i.converts, i.released, i.powering, i.boots, i.converting, i.ready⟩) (.refl _))))
    generalize hu : State.clearDie _ = u at i
    have r : u.power.released = false := by rw [← hu, State.clearDie_power]; rfl
    have t : u.power.boot = .idle := by rw [← hu, State.clearDie_power]; rfl
    obtain ⟨a, b, c, d, e, f, g, h⟩ := i
    constructor <;> first | exact a | exact b | grind
  · exact .put_power (fun i => ⟨i.capsule, i.pinned, i.converts, i.released, i.powering, i.boots, i.converting, i.ready⟩) (.refl _)

theorem execRstNRelease_keeps (s : State) : StepKeeps s (execRstNRelease s) := by
  unfold execRstNRelease
  try dsimp only
  repeat' first
    | with_reducible apply Keeps.ofNext
    | with_reducible exact .refl _
    | with_reducible assumption
    | with_reducible intro _
    | split
    | ((with_reducible apply Keeps.put_power); · exact fun i => ⟨i.capsule, i.pinned, i.converts, i.released, i.powering, i.boots, i.converting, i.ready⟩)
    | ((with_reducible apply Keeps.put_power); · exact fun i => by (obtain ⟨a, b, c, d, e, f, g, h⟩ := i; constructor <;> first | exact a | exact b | grind))

theorem execDieRelease_keeps (s : State) : StepKeeps s (execDieRelease s) := by
  unfold execDieRelease
  apply Keeps.ofNext
  split
  · exact .refl _
  rename_i hg
  dsimp only
  generalize hv : s.clearDie.fixMap = v
  generalize hu : ((v.draw.bump _ _).putObj _ _).putObj _ _ = u
  have k : Keeps s u := hu ▸ .afterT (State.putObj_touches _ _ _) rfl
    (.afterT (State.putObj_touches _ _ _) rfl (.afterT (State.bump_touches _ _ _) rfl
      (.afterT (State.draw_touches _) rfl (hv ▸ .after (State.fixMap_keeps _) (State.clearDie_keeps s)))))
  have t : OnlyTouches [.objs, .mem, .free] s.clearDie u := hu ▸ .after (State.putObj_touches _ _ _) (by decide)
    (.after (State.putObj_touches _ _ _) (by decide) (.after (State.bump_touches _ _ _) (by decide)
      (.after (State.draw_touches _) (by decide) (hv ▸ (State.fixMap_touches _).mono (by decide)))))
  have e : u.power.pwrOk = s.power.pwrOk := by
    rw [show u.power = s.clearDie.power from t .power (by decide), State.clearDie_power]
    unfold State.stopDie; rfl
  have p : u.power.pwrOk = true := by
    rw [e]; cases h : s.power.pwrOk <;> simp_all
  refine .put_dict_power (fun i => ⟨i.head, i.tail⟩) (fun i => ?_) k
  obtain ⟨a, b, c, d, e, f, g, h⟩ := i
  exact ⟨a, b, c, fun _ => ⟨p, .inl rfl⟩, nofun, fun _ => rfl, g, h⟩

end Sys2Proof.Machine
end

