-- ==== Sys2Proof/Laws/TouchService.lean ====
section
/-! SUPPORT. Which parts of the state each operation of Machine/Service.lean changes. -/

namespace Sys2Proof.Machine

theorem State.setCache_touches (s : State) (k : Nat) (e : MacEntry) : OnlyTouches [.service] s
    (State.setCache s k e) := by
  unfold State.setCache
  try dsimp only
  repeat' first
    | with_reducible exact .refl _ _
    | with_reducible assumption
    | with_reducible intro _
    | (with_reducible apply OnlyTouches.put_service; · decide)

theorem State.invalidateKey_touches (s : State) (pitch mac : Nat) (keep : Option Nat) : OnlyTouches
    [.service] s (State.invalidateKey s pitch mac keep) := by
  unfold State.invalidateKey
  try dsimp only
  repeat' first
    | with_reducible exact .refl _ _
    | with_reducible assumption
    | with_reducible intro _
    | (with_reducible apply OnlyTouches.put_service; · decide)

theorem State.probed_touches (s : State) (a n : Nat) : OnlyTouches [.objs, .ledger] s (State.probed s a n)
    := by
  unfold State.probed
  try dsimp only
  repeat' first
    | with_reducible exact .refl _ _
    | with_reducible assumption
    | with_reducible apply OnlyTouches.when
    | (with_reducible apply OnlyTouches.after (State.bump_touches _ _ _); · decide)
    | (with_reducible apply OnlyTouches.after (State.countFirmware_touches _ _ _ _); · decide)
    | with_reducible intro _
    | with_reducible refine OnlyTouches.pair (by assumption) ?_
    | dsimp only

theorem State.writeBack_touches (s : State) (k : Nat) (e : MacEntry) : OnlyTouches [.objs, .service, .mem,
    .ledger] s (State.writeBack s k e) := by
  unfold State.writeBack
  try dsimp only
  repeat' first
    | with_reducible exact .refl _ _
    | with_reducible assumption
    | (with_reducible apply OnlyTouches.after (State.bump_touches _ _ _); · decide)
    | (with_reducible apply OnlyTouches.after (State.writeNat_touches _ _ _ _); · decide)
    | (with_reducible apply OnlyTouches.after (State.countFirmware_touches _ _ _ _); · decide)
    | (with_reducible apply OnlyTouches.after (State.setCache_touches _ _ _); · decide)
    | (with_reducible apply OnlyTouches.after (State.probed_touches _ _ _); · decide)
    | with_reducible apply OnlyTouches.ite
    | with_reducible intro _
    | split
    | with_reducible refine OnlyTouches.pair (by assumption) ?_
    | dsimp only

theorem State.fillWay_touches (s : State) (k : Nat) (e : MacEntry) : OnlyTouches [.objs, .service, .mem,
    .ledger] s (State.fillWay s k e) := by
  unfold State.fillWay
  try dsimp only
  repeat' first
    | with_reducible exact .refl _ _
    | with_reducible assumption
    | (with_reducible apply OnlyTouches.after (State.setCache_touches _ _ _); · decide)
    | (with_reducible apply OnlyTouches.after (State.writeBack_touches _ _ _); · decide)
    | with_reducible apply OnlyTouches.ite
    | with_reducible intro _
    | split

theorem execStampWriteback_touches (t : Stall) (pitch : Pitch) (mac : BitVec 48) (s : State) : StepTouches
    [.objs, .service, .mem, .ledger] s (execStampWriteback t pitch mac s) := by
  unfold execStampWriteback
  try dsimp only
  repeat' first
    | with_reducible apply OnlyTouches.ofNext
    | with_reducible exact .refl _ _
    | with_reducible assumption
    | (with_reducible apply OnlyTouches.after (State.writeBack_touches _ _ _); · decide)
    | with_reducible apply OnlyTouches.ite
    | with_reducible apply OnlyTouches.iteStep
    | with_reducible intro _
    | split

theorem State.queueInsert_touches (s : State) (t : Nat) (i : Insertion) : OnlyTouches [.service] s
    (State.queueInsert s t i) := by
  unfold State.queueInsert
  try dsimp only
  repeat' first
    | with_reducible exact .refl _ _
    | with_reducible assumption
    | with_reducible intro _
    | (with_reducible apply OnlyTouches.put_service; · decide)

theorem State.inserted_touches (s : State) (t : Nat) (i : Insertion) : OnlyTouches [.service] s
    (State.inserted s t i) := by
  unfold State.inserted
  try dsimp only
  repeat' first
    | with_reducible exact .refl _ _
    | with_reducible assumption
    | (with_reducible apply OnlyTouches.after (State.setCache_touches _ _ _); · decide)
    | with_reducible intro _
    | split

theorem State.putChip_touches (s : State) (t a : Nat) (i : Insertion) : OnlyTouches [.objs, .service, .mem,
    .ledger] s (State.putChip s t a i) := by
  unfold State.putChip
  try dsimp only
  repeat' first
    | with_reducible exact .refl _ _
    | with_reducible assumption
    | (with_reducible apply OnlyTouches.after (State.writeNat_touches _ _ _ _); · decide)
    | (with_reducible apply OnlyTouches.after (State.countFirmware_touches _ _ _ _); · decide)
    | (with_reducible apply OnlyTouches.after (State.invalidateKey_touches _ _ _ _); · decide)
    | (with_reducible apply OnlyTouches.after (State.inserted_touches _ _ _); · decide)
    | with_reducible intro _
    | split
    | with_reducible refine OnlyTouches.pair (by assumption) ?_
    | dsimp only

theorem State.chipInsert_touches (s : State) (t : Nat) (i : Insertion) : OnlyTouches [.objs, .service,
    .mem, .ledger, .free] s (State.chipInsert s t i) := by
  unfold State.chipInsert
  try dsimp only
  repeat' first
    | with_reducible exact .refl _ _
    | with_reducible assumption
    | (with_reducible apply OnlyTouches.after (State.bump_touches _ _ _); · decide)
    | (with_reducible apply OnlyTouches.after (State.draw_touches _); · decide)
    | (with_reducible apply OnlyTouches.after (State.invalidateKey_touches _ _ _ _); · decide)
    | (with_reducible apply OnlyTouches.after (State.probed_touches _ _ _); · decide)
    | (with_reducible apply OnlyTouches.after (State.putChip_touches _ _ _ _); · decide)
    | with_reducible apply OnlyTouches.ite
    | with_reducible intro _
    | split
    | with_reducible refine OnlyTouches.pair (by assumption) ?_
    | dsimp only

theorem execChipTableInsert_touches (t : Stall) (s : State) : StepTouches [.objs, .service, .mem, .ledger,
    .free] s (execChipTableInsert t s) := by
  unfold execChipTableInsert
  try dsimp only
  repeat' first
    | with_reducible apply OnlyTouches.ofNext
    | with_reducible exact .refl _ _
    | with_reducible assumption
    | (with_reducible apply OnlyTouches.after (State.chipInsert_touches _ _ _); · decide)
    | with_reducible intro _
    | split
    | (with_reducible apply OnlyTouches.put_service; · decide)

theorem State.segWrite_touches (s : State) (a : Nat) (bs : List Byte) : OnlyTouches [.service, .mem] s
    (State.segWrite s a bs) := by
  unfold State.segWrite
  try dsimp only
  repeat' first
    | with_reducible exact .refl _ _
    | with_reducible assumption
    | with_reducible apply OnlyTouches.fold
    | with_reducible apply OnlyTouches.foldPair
    | (with_reducible apply OnlyTouches.after (State.write_touches _ _ _); · decide)
    | (with_reducible apply OnlyTouches.after (State.invalidateKey_touches _ _ _ _); · decide)
    | with_reducible apply OnlyTouches.ite
    | with_reducible intro _
    | split

theorem State.dropService_touches (s : State) (t p : Nat) (f : Frame) : OnlyTouches [.objs, .ports,
    .ledger] s (State.dropService s t p f) := by
  unfold State.dropService
  try dsimp only
  repeat' first
    | with_reducible exact .refl _ _
    | with_reducible assumption
    | (with_reducible apply OnlyTouches.after (State.bump_touches _ _ _); · decide)
    | (with_reducible apply OnlyTouches.after (State.dropped_touches _ _ _ _); · decide)
    | (with_reducible apply OnlyTouches.after (State.freeCredits_touches _ _ _ _); · decide)
    | with_reducible intro _
    | with_reducible refine OnlyTouches.pair (by assumption) ?_
    | dsimp only

theorem State.flood_touches (s : State) (t p : Nat) (f : Frame) : OnlyTouches [.objs, .ports, .switch,
    .coll, .mem, .ledger, .dict, .host] s (State.flood s t p f) := by
  unfold State.flood
  try dsimp only
  repeat' first
    | with_reducible exact .refl _ _
    | with_reducible assumption
    | (with_reducible apply OnlyTouches.after (State.write_touches _ _ _); · decide)
    | (with_reducible apply OnlyTouches.after (State.allocService_touches _ _ _); · decide)
    | (with_reducible apply OnlyTouches.afterPair (State.allocService_touches _ _ _); (first | assumption | decide); (first | assumption | decide))
    | (with_reducible apply OnlyTouches.after (State.freeCredits_touches _ _ _ _); · decide)
    | (with_reducible apply OnlyTouches.after (State.sendGroup_touches _ _ _ _ _ _ _); · decide)
    | (with_reducible apply OnlyTouches.after (State.mirrorIngress_touches _ _ _ _); · decide)
    | (with_reducible apply OnlyTouches.after (State.dropService_touches _ _ _ _); · decide)
    | with_reducible apply OnlyTouches.ite
    | with_reducible intro _
    | split
    | with_reducible refine OnlyTouches.pair (by assumption) ?_
    | dsimp only

theorem State.applyLookup_touches (s : State) (t : Nat) (l : Lookup) : OnlyTouches [.objs, .ports, .switch,
    .coll, .mem, .ledger, .dict, .host] s (State.applyLookup s t l) := by
  unfold State.applyLookup
  try dsimp only
  repeat' first
    | with_reducible exact .refl _ _
    | with_reducible assumption
    | with_reducible apply OnlyTouches.when
    | (with_reducible apply OnlyTouches.after (State.bump_touches _ _ _); · decide)
    | (with_reducible apply OnlyTouches.after (State.drop_touches _ _ _); · decide)
    | (with_reducible apply OnlyTouches.after (State.forwardCopied_touches _ _ _ _ _); · decide)
    | (with_reducible apply OnlyTouches.after (State.dropService_touches _ _ _ _); · decide)
    | (with_reducible apply OnlyTouches.after (State.flood_touches _ _ _ _); · decide)
    | with_reducible intro _
    | split
    | with_reducible refine OnlyTouches.pair (by assumption) ?_
    | dsimp only

theorem State.applyLookups_touches (s : State) (t : Nat) : OnlyTouches [.objs, .ports, .switch, .service,
    .coll, .mem, .ledger, .dict, .host] s (State.applyLookups s t) := by
  unfold State.applyLookups
  try dsimp only
  repeat' first
    | with_reducible exact .refl _ _
    | with_reducible assumption
    | with_reducible apply OnlyTouches.fold
    | with_reducible apply OnlyTouches.foldPair
    | (with_reducible apply OnlyTouches.after (State.applyLookup_touches _ _ _); · decide)
    | with_reducible intro _
    | (with_reducible apply OnlyTouches.put_service; · decide)

theorem State.learnKey_touches (s : State) (t p : Nat) (f : Frame) (mac : Nat) (way : Option Nat) :
    OnlyTouches [.objs, .service, .mem, .ledger] s (State.learnKey s t p f mac way).1 := by
  unfold State.learnKey
  try dsimp only
  repeat' first
    | with_reducible exact .refl _ _
    | with_reducible assumption
    | (with_reducible apply OnlyTouches.after (State.bump_touches _ _ _); · decide)
    | (with_reducible apply OnlyTouches.after (State.setCache_touches _ _ _); · decide)
    | (with_reducible apply OnlyTouches.after (State.fillWay_touches _ _ _); · decide)
    | (with_reducible apply OnlyTouches.after (State.queueInsert_touches _ _ _); · decide)
    | with_reducible apply OnlyTouches.ite
    | with_reducible intro _
    | split
    | (with_reducible apply OnlyTouches.put_service; · decide)
    | with_reducible refine OnlyTouches.pair (by assumption) ?_
    | dsimp only

theorem State.sourceHit_touches (s : State) (t k : Nat) (e : MacEntry) : OnlyTouches [.objs, .service] s
    (State.sourceHit s t k e) := by
  unfold State.sourceHit
  try dsimp only
  repeat' first
    | with_reducible exact .refl _ _
    | with_reducible assumption
    | with_reducible apply OnlyTouches.when
    | (with_reducible apply OnlyTouches.after (State.bump_touches _ _ _); · decide)
    | (with_reducible apply OnlyTouches.after (State.setCache_touches _ _ _); · decide)
    | (with_reducible apply OnlyTouches.after (State.queueInsert_touches _ _ _); · decide)
    | with_reducible apply OnlyTouches.ite
    | with_reducible intro _
    | split
    | with_reducible refine OnlyTouches.pair (by assumption) ?_
    | dsimp only

theorem State.learn_touches (s : State) (t p : Nat) (f : Frame) : OnlyTouches [.objs, .service, .mem,
    .ledger] s (State.learn s t p f).1 := by
  unfold State.learn
  try dsimp only
  repeat' first
    | with_reducible exact .refl _ _
    | with_reducible assumption
    | (with_reducible apply OnlyTouches.after (State.bump_touches _ _ _); · decide)
    | (with_reducible apply OnlyTouches.after (State.drop_touches _ _ _); · decide)
    | (with_reducible apply OnlyTouches.after (State.learnKey_touches _ _ _ _ _ _); · decide)
    | (with_reducible apply OnlyTouches.afterPair (State.learnKey_touches _ _ _ _ _ _); (first | assumption | decide); (first | assumption | decide))
    | (with_reducible apply OnlyTouches.after (State.sourceHit_touches _ _ _ _); · decide)
    | with_reducible apply OnlyTouches.ite
    | with_reducible intro _
    | split
    | with_reducible refine OnlyTouches.pair (by assumption) ?_
    | dsimp only

theorem State.unknown_touches (s : State) (f : Frame) : OnlyTouches [.objs, .ports, .switch, .coll, .mem,
    .ledger, .dict, .host] s (State.unknown s f).1 := by
  unfold State.unknown
  try dsimp only
  repeat' first
    | with_reducible exact .refl _ _
    | with_reducible assumption
    | (with_reducible apply OnlyTouches.after (State.bump_touches _ _ _); · decide)
    | (with_reducible apply OnlyTouches.after (State.drop_touches _ _ _); · decide)
    | (with_reducible apply OnlyTouches.after (State.flood_touches _ _ _ _); · decide)
    | with_reducible apply OnlyTouches.ite
    | with_reducible intro _
    | split
    | with_reducible refine OnlyTouches.pair (by assumption) ?_
    | dsimp only

theorem State.startBridge_touches (s : State) (t : Nat) (f : Frame) : OnlyTouches [.objs, .ports, .switch,
    .coll, .mem, .ledger, .dict, .host] s (State.startBridge s t f).1 := by
  unfold State.startBridge
  try dsimp only
  repeat' first
    | with_reducible exact .refl _ _
    | with_reducible assumption
    | (with_reducible apply OnlyTouches.after (State.bump_touches _ _ _); · decide)
    | (with_reducible apply OnlyTouches.after (State.flood_touches _ _ _ _); · decide)
    | with_reducible apply OnlyTouches.ite
    | with_reducible intro _
    | split
    | with_reducible refine OnlyTouches.pair (by assumption) ?_
    | dsimp only

theorem State.usePrefix_touches (s : State) (l : Lookup) (a w : Nat) : OnlyTouches [.objs, .mem, .ledger] s
    (State.usePrefix s l a w).1 := by
  unfold State.usePrefix
  try dsimp only
  repeat' first
    | with_reducible exact .refl _ _
    | with_reducible assumption
    | (with_reducible apply OnlyTouches.after (State.writeNat_touches _ _ _ _); · decide)
    | (with_reducible apply OnlyTouches.after (State.countFirmware_touches _ _ _ _); · decide)
    | with_reducible apply OnlyTouches.ite
    | with_reducible intro _
    | split
    | with_reducible refine OnlyTouches.pair (by assumption) ?_
    | dsimp only

theorem State.chipReturn_touches (s : State) (t : Nat) (f : Frame) : OnlyTouches [.objs, .ports, .switch,
    .service, .coll, .mem, .ledger, .dict, .host] s (State.chipReturn s t f).1 := by
  unfold State.chipReturn
  try dsimp only
  repeat' first
    | with_reducible exact .refl _ _
    | with_reducible assumption
    | (with_reducible apply OnlyTouches.after (State.bump_touches _ _ _); · decide)
    | (with_reducible apply OnlyTouches.after (State.probed_touches _ _ _); · decide)
    | (with_reducible apply OnlyTouches.after (State.fillWay_touches _ _ _); · decide)
    | (with_reducible apply OnlyTouches.after (State.unknown_touches _ _); · decide)
    | (with_reducible apply OnlyTouches.afterPair (State.unknown_touches _ _); (first | assumption | decide); (first | assumption | decide))
    | with_reducible intro _
    | split
    | with_reducible refine OnlyTouches.pair (by assumption) ?_
    | dsimp only

theorem State.probe_touches (s : State) (t : Nat) (l : Lookup) : OnlyTouches [.objs, .ports, .switch,
    .service, .coll, .mem, .ledger, .dict, .host] s (State.probe s t l).1 := by
  unfold State.probe
  try dsimp only
  repeat' first
    | with_reducible exact .refl _ _
    | with_reducible assumption
    | (with_reducible apply OnlyTouches.after (State.probed_touches _ _ _); · decide)
    | (with_reducible apply OnlyTouches.after (State.usePrefix_touches _ _ _ _); · decide)
    | (with_reducible apply OnlyTouches.afterPair (State.usePrefix_touches _ _ _ _); (first | assumption | decide); (first | assumption | decide))
    | (with_reducible apply OnlyTouches.after (State.chipReturn_touches _ _ _); · decide)
    | (with_reducible apply OnlyTouches.afterPair (State.chipReturn_touches _ _ _); (first | assumption | decide); (first | assumption | decide))
    | with_reducible intro _
    | split
    | with_reducible refine OnlyTouches.pair (by assumption) ?_
    | dsimp only

theorem execProbeReturn_touches (t : Stall) (entry : Fin 64) (s : State) : StepTouches [.objs, .ports,
    .switch, .service, .coll, .mem, .ledger, .dict, .host] s (execProbeReturn t entry s) := by
  unfold execProbeReturn
  try dsimp only
  repeat' first
    | with_reducible apply OnlyTouches.ofNext
    | with_reducible exact .refl _ _
    | with_reducible assumption
    | (with_reducible apply OnlyTouches.after (State.applyLookups_touches _ _); · decide)
    | (with_reducible apply OnlyTouches.after (State.probe_touches _ _ _); · decide)
    | (with_reducible apply OnlyTouches.afterPair (State.probe_touches _ _ _); (first | assumption | decide); (first | assumption | decide))
    | with_reducible intro _
    | split
    | (with_reducible apply OnlyTouches.put_service; · decide)
    | with_reducible refine OnlyTouches.pair (by assumption) ?_
    | dsimp only

theorem State.startLookup_touches (s : State) (t p : Nat) (f : Frame) : OnlyTouches [.objs, .ports,
    .switch, .service, .coll, .mem, .ledger, .dict, .host] s (State.startLookup s t p f).1 := by
  unfold State.startLookup
  try dsimp only
  repeat' first
    | with_reducible exact .refl _ _
    | with_reducible assumption
    | (with_reducible apply OnlyTouches.after (State.bump_touches _ _ _); · decide)
    | (with_reducible apply OnlyTouches.after (State.drop_touches _ _ _); · decide)
    | (with_reducible apply OnlyTouches.after (State.flood_touches _ _ _ _); · decide)
    | (with_reducible apply OnlyTouches.after (State.learn_touches _ _ _ _); · decide)
    | (with_reducible apply OnlyTouches.afterPair (State.learn_touches _ _ _ _); (first | assumption | decide); (first | assumption | decide))
    | (with_reducible apply OnlyTouches.after (State.startBridge_touches _ _ _); · decide)
    | (with_reducible apply OnlyTouches.afterPair (State.startBridge_touches _ _ _); (first | assumption | decide); (first | assumption | decide))
    | with_reducible apply OnlyTouches.ite
    | with_reducible intro _
    | split
    | with_reducible refine OnlyTouches.pair (by assumption) ?_
    | dsimp only

theorem execServiceLookup_touches (t : Stall) (s : State) : StepTouches [.objs, .ports, .switch, .service,
    .coll, .mem, .ledger, .dict, .host, .free] s (execServiceLookup t s) := by
  unfold execServiceLookup
  try dsimp only
  repeat' first
    | with_reducible apply OnlyTouches.ofNext
    | with_reducible exact .refl _ _
    | with_reducible assumption
    | (with_reducible apply OnlyTouches.after (State.draw_touches _); · decide)
    | (with_reducible apply OnlyTouches.after (State.applyLookups_touches _ _); · decide)
    | (with_reducible apply OnlyTouches.after (State.startLookup_touches _ _ _ _); · decide)
    | (with_reducible apply OnlyTouches.afterPair (State.startLookup_touches _ _ _ _); (first | assumption | decide); (first | assumption | decide))
    | with_reducible apply OnlyTouches.ite
    | with_reducible apply OnlyTouches.iteStep
    | with_reducible intro _
    | split
    | (with_reducible apply OnlyTouches.put_service; · decide)
    | with_reducible refine OnlyTouches.pair (by assumption) ?_
    | dsimp only

theorem State.takeSeg_touches (s : State) (r : Requester) (seg : Nat) : OnlyTouches [.service] s
    (State.takeSeg s r seg) := by
  unfold State.takeSeg
  try dsimp only
  repeat' first
    | with_reducible exact .refl _ _
    | with_reducible assumption
    | with_reducible apply OnlyTouches.ite
    | with_reducible intro _
    | split
    | (with_reducible apply OnlyTouches.put_service; · decide)
    | with_reducible refine OnlyTouches.pair (by assumption) ?_
    | dsimp only

theorem State.dropSeg_touches (s : State) (seg : Nat) (forced : Bool) : OnlyTouches [.objs, .service] s
    (State.dropSeg s seg forced) := by
  unfold State.dropSeg
  try dsimp only
  repeat' first
    | with_reducible exact .refl _ _
    | with_reducible assumption
    | with_reducible apply OnlyTouches.when
    | (with_reducible apply OnlyTouches.after (State.bump_touches _ _ _); · decide)
    | with_reducible intro _
    | (with_reducible apply OnlyTouches.put_service; · decide)

theorem State.expireSeg_touches (s : State) (seg : Nat) : OnlyTouches [.objs, .service] s (State.expireSeg
    s seg) := by
  unfold State.expireSeg
  try dsimp only
  repeat' first
    | with_reducible exact .refl _ _
    | with_reducible assumption
    | (with_reducible apply OnlyTouches.after (State.dropSeg_touches _ _ _); · decide)
    | with_reducible apply OnlyTouches.ite
    | with_reducible intro _
    | split

theorem execSegLockExpiry_touches (seg : Fin 8480) (s : State) : StepTouches [.objs, .service] s
    (execSegLockExpiry seg s) := by
  unfold execSegLockExpiry
  try dsimp only
  repeat' first
    | with_reducible apply OnlyTouches.ofNext
    | with_reducible exact .refl _ _
    | with_reducible assumption
    | (with_reducible apply OnlyTouches.after (State.expireSeg_touches _ _); · decide)
    | with_reducible intro _
    | with_reducible refine OnlyTouches.pair (by assumption) ?_
    | dsimp only

theorem State.serviceBoundary_touches (s : State) : OnlyTouches [.objs, .service] s (State.serviceBoundary
    s) := by
  unfold State.serviceBoundary
  try dsimp only
  repeat' first
    | with_reducible exact .refl _ _
    | with_reducible assumption
    | with_reducible apply OnlyTouches.fold
    | with_reducible apply OnlyTouches.foldPair
    | (with_reducible apply OnlyTouches.after (State.expireSeg_touches _ _); · decide)
    | with_reducible intro _
    | (with_reducible apply OnlyTouches.put_service; · decide)
    | with_reducible refine OnlyTouches.pair (by assumption) ?_
    | dsimp only

end Sys2Proof.Machine
end

