-- ==== Sys2Proof/Laws/KeepService.lean ====
section
/-! SUPPORT. The operations of Machine/Service.lean keep the invariant. -/

namespace Sys2Proof.Machine

theorem State.writeBack_keeps (s : State) (k : Nat) (e : MacEntry) : Keeps s (State.writeBack s k e) := by
  unfold State.writeBack
  try dsimp only
  repeat' first
    | with_reducible exact .refl _
    | with_reducible assumption
    | ((with_reducible apply Keeps.afterT (State.bump_touches _ _ _)); · rfl)
    | with_reducible apply Keeps.after (State.writeNat_keeps _ _ _ _)
    | ((with_reducible apply Keeps.afterT (State.countFirmware_touches _ _ _ _)); · rfl)
    | ((with_reducible apply Keeps.afterT (State.setCache_touches _ _ _)); · rfl)
    | ((with_reducible apply Keeps.afterT (State.probed_touches _ _ _)); · rfl)
    | with_reducible apply Keeps.ite
    | with_reducible intro _
    | split
    | with_reducible refine Keeps.pair (by assumption) ?_
    | dsimp only

theorem State.fillWay_keeps (s : State) (k : Nat) (e : MacEntry) : Keeps s (State.fillWay s k e) := by
  unfold State.fillWay
  try dsimp only
  repeat' first
    | with_reducible exact .refl _
    | with_reducible assumption
    | ((with_reducible apply Keeps.afterT (State.setCache_touches _ _ _)); · rfl)
    | with_reducible apply Keeps.after (State.writeBack_keeps _ _ _)
    | with_reducible apply Keeps.ite
    | with_reducible intro _
    | split

theorem execStampWriteback_keeps (t : Stall) (pitch : Pitch) (mac : BitVec 48) (s : State) : StepKeeps s
    (execStampWriteback t pitch mac s) := by
  unfold execStampWriteback
  try dsimp only
  repeat' first
    | with_reducible apply Keeps.ofNext
    | with_reducible exact .refl _
    | with_reducible assumption
    | with_reducible apply Keeps.after (State.writeBack_keeps _ _ _)
    | with_reducible apply Keeps.ite
    | with_reducible apply Keeps.iteStep
    | with_reducible intro _
    | split

theorem State.putChip_keeps (s : State) (t a : Nat) (i : Insertion) : Keeps s (State.putChip s t a i) := by
  unfold State.putChip
  try dsimp only
  repeat' first
    | with_reducible exact .refl _
    | with_reducible assumption
    | with_reducible apply Keeps.after (State.writeNat_keeps _ _ _ _)
    | ((with_reducible apply Keeps.afterT (State.countFirmware_touches _ _ _ _)); · rfl)
    | ((with_reducible apply Keeps.afterT (State.invalidateKey_touches _ _ _ _)); · rfl)
    | ((with_reducible apply Keeps.afterT (State.inserted_touches _ _ _)); · rfl)
    | with_reducible intro _
    | split
    | with_reducible refine Keeps.pair (by assumption) ?_
    | dsimp only

theorem State.chipInsert_keeps (s : State) (t : Nat) (i : Insertion) : Keeps s (State.chipInsert s t i) :=
    by
  unfold State.chipInsert
  try dsimp only
  repeat' first
    | with_reducible exact .refl _
    | with_reducible assumption
    | ((with_reducible apply Keeps.afterT (State.bump_touches _ _ _)); · rfl)
    | ((with_reducible apply Keeps.afterT (State.draw_touches _)); · rfl)
    | ((with_reducible apply Keeps.afterT (State.invalidateKey_touches _ _ _ _)); · rfl)
    | ((with_reducible apply Keeps.afterT (State.probed_touches _ _ _)); · rfl)
    | with_reducible apply Keeps.after (State.putChip_keeps _ _ _ _)
    | with_reducible apply Keeps.ite
    | with_reducible intro _
    | split
    | with_reducible refine Keeps.pair (by assumption) ?_
    | dsimp only

theorem execChipTableInsert_keeps (t : Stall) (s : State) : StepKeeps s (execChipTableInsert t s) := by
  unfold execChipTableInsert
  try dsimp only
  repeat' first
    | with_reducible apply Keeps.ofNext
    | with_reducible exact .refl _
    | with_reducible assumption
    | with_reducible apply Keeps.after (State.chipInsert_keeps _ _ _)
    | with_reducible intro _
    | split
    | with_reducible apply Keeps.put_service

theorem State.segWrite_keeps (s : State) (a : Nat) (bs : List Byte) : Keeps s (State.segWrite s a bs) := by
  unfold State.segWrite
  try dsimp only
  repeat' first
    | with_reducible exact .refl _
    | with_reducible assumption
    | with_reducible apply Keeps.fold
    | with_reducible apply Keeps.foldPair
    | with_reducible apply Keeps.after (State.write_keeps _ _ _)
    | ((with_reducible apply Keeps.afterT (State.invalidateKey_touches _ _ _ _)); · rfl)
    | with_reducible apply Keeps.ite
    | with_reducible intro _
    | split

theorem State.flood_keeps (s : State) (t p : Nat) (f : Frame) : Keeps s (State.flood s t p f) := by
  unfold State.flood
  try dsimp only
  repeat' first
    | with_reducible exact .refl _
    | with_reducible assumption
    | with_reducible apply Keeps.after (State.write_keeps _ _ _)
    | with_reducible apply Keeps.after (State.allocService_keeps _ _ _)
    | ((with_reducible apply Keeps.afterPair (State.allocService_keeps _ _ _)); · assumption)
    | ((with_reducible apply Keeps.afterT (State.freeCredits_touches _ _ _ _)); · rfl)
    | with_reducible apply Keeps.after (State.sendGroup_keeps _ _ _ _ _ _ _)
    | with_reducible apply Keeps.after (State.mirrorIngress_keeps _ _ _ _)
    | ((with_reducible apply Keeps.afterT (State.dropService_touches _ _ _ _)); · rfl)
    | with_reducible apply Keeps.ite
    | with_reducible intro _
    | split
    | with_reducible refine Keeps.pair (by assumption) ?_
    | dsimp only

theorem State.applyLookup_keeps (s : State) (t : Nat) (l : Lookup) : Keeps s (State.applyLookup s t l) := by
  unfold State.applyLookup
  try dsimp only
  repeat' first
    | with_reducible exact .refl _
    | with_reducible assumption
    | with_reducible apply Keeps.when
    | ((with_reducible apply Keeps.afterT (State.bump_touches _ _ _)); · rfl)
    | ((with_reducible apply Keeps.afterT (State.drop_touches _ _ _)); · rfl)
    | with_reducible apply Keeps.after (State.forwardCopied_keeps _ _ _ _ _)
    | ((with_reducible apply Keeps.afterT (State.dropService_touches _ _ _ _)); · rfl)
    | with_reducible apply Keeps.after (State.flood_keeps _ _ _ _)
    | with_reducible intro _
    | split
    | with_reducible refine Keeps.pair (by assumption) ?_
    | dsimp only

theorem State.applyLookups_keeps (s : State) (t : Nat) : Keeps s (State.applyLookups s t) := by
  unfold State.applyLookups
  try dsimp only
  repeat' first
    | with_reducible exact .refl _
    | with_reducible assumption
    | with_reducible apply Keeps.fold
    | with_reducible apply Keeps.foldPair
    | with_reducible apply Keeps.after (State.applyLookup_keeps _ _ _)
    | with_reducible intro _
    | with_reducible apply Keeps.put_service

theorem State.learnKey_keeps (s : State) (t p : Nat) (f : Frame) (mac : Nat) (way : Option Nat) : Keeps s
    (State.learnKey s t p f mac way).1 := by
  unfold State.learnKey
  try dsimp only
  repeat' first
    | with_reducible exact .refl _
    | with_reducible assumption
    | ((with_reducible apply Keeps.afterT (State.bump_touches _ _ _)); · rfl)
    | ((with_reducible apply Keeps.afterT (State.setCache_touches _ _ _)); · rfl)
    | with_reducible apply Keeps.after (State.fillWay_keeps _ _ _)
    | ((with_reducible apply Keeps.afterT (State.queueInsert_touches _ _ _)); · rfl)
    | with_reducible apply Keeps.ite
    | with_reducible intro _
    | split
    | with_reducible apply Keeps.put_service
    | with_reducible refine Keeps.pair (by assumption) ?_
    | dsimp only

theorem State.learn_keeps (s : State) (t p : Nat) (f : Frame) : Keeps s (State.learn s t p f).1 := by
  unfold State.learn
  try dsimp only
  repeat' first
    | with_reducible exact .refl _
    | with_reducible assumption
    | ((with_reducible apply Keeps.afterT (State.bump_touches _ _ _)); · rfl)
    | ((with_reducible apply Keeps.afterT (State.drop_touches _ _ _)); · rfl)
    | with_reducible apply Keeps.after (State.learnKey_keeps _ _ _ _ _ _)
    | ((with_reducible apply Keeps.afterPair (State.learnKey_keeps _ _ _ _ _ _)); · assumption)
    | ((with_reducible apply Keeps.afterT (State.sourceHit_touches _ _ _ _)); · rfl)
    | with_reducible apply Keeps.ite
    | with_reducible intro _
    | split
    | with_reducible refine Keeps.pair (by assumption) ?_
    | dsimp only

theorem State.unknown_keeps (s : State) (f : Frame) : Keeps s (State.unknown s f).1 := by
  unfold State.unknown
  try dsimp only
  repeat' first
    | with_reducible exact .refl _
    | with_reducible assumption
    | ((with_reducible apply Keeps.afterT (State.bump_touches _ _ _)); · rfl)
    | ((with_reducible apply Keeps.afterT (State.drop_touches _ _ _)); · rfl)
    | with_reducible apply Keeps.after (State.flood_keeps _ _ _ _)
    | with_reducible apply Keeps.ite
    | with_reducible intro _
    | split
    | with_reducible refine Keeps.pair (by assumption) ?_
    | dsimp only

theorem State.startBridge_keeps (s : State) (t : Nat) (f : Frame) : Keeps s (State.startBridge s t f).1 :=
    by
  unfold State.startBridge
  try dsimp only
  repeat' first
    | with_reducible exact .refl _
    | with_reducible assumption
    | ((with_reducible apply Keeps.afterT (State.bump_touches _ _ _)); · rfl)
    | with_reducible apply Keeps.after (State.flood_keeps _ _ _ _)
    | with_reducible apply Keeps.ite
    | with_reducible intro _
    | split
    | with_reducible refine Keeps.pair (by assumption) ?_
    | dsimp only

theorem State.usePrefix_keeps (s : State) (l : Lookup) (a w : Nat) : Keeps s (State.usePrefix s l a w).1 :=
    by
  unfold State.usePrefix
  try dsimp only
  repeat' first
    | with_reducible exact .refl _
    | with_reducible assumption
    | with_reducible apply Keeps.after (State.writeNat_keeps _ _ _ _)
    | ((with_reducible apply Keeps.afterT (State.countFirmware_touches _ _ _ _)); · rfl)
    | with_reducible apply Keeps.ite
    | with_reducible intro _
    | split
    | with_reducible refine Keeps.pair (by assumption) ?_
    | dsimp only

theorem State.chipReturn_keeps (s : State) (t : Nat) (f : Frame) : Keeps s (State.chipReturn s t f).1 := by
  unfold State.chipReturn
  try dsimp only
  repeat' first
    | with_reducible exact .refl _
    | with_reducible assumption
    | ((with_reducible apply Keeps.afterT (State.bump_touches _ _ _)); · rfl)
    | ((with_reducible apply Keeps.afterT (State.probed_touches _ _ _)); · rfl)
    | with_reducible apply Keeps.after (State.fillWay_keeps _ _ _)
    | with_reducible apply Keeps.after (State.unknown_keeps _ _)
    | ((with_reducible apply Keeps.afterPair (State.unknown_keeps _ _)); · assumption)
    | with_reducible intro _
    | split
    | with_reducible refine Keeps.pair (by assumption) ?_
    | dsimp only

theorem State.probe_keeps (s : State) (t : Nat) (l : Lookup) : Keeps s (State.probe s t l).1 := by
  unfold State.probe
  try dsimp only
  repeat' first
    | with_reducible exact .refl _
    | with_reducible assumption
    | ((with_reducible apply Keeps.afterT (State.probed_touches _ _ _)); · rfl)
    | with_reducible apply Keeps.after (State.usePrefix_keeps _ _ _ _)
    | ((with_reducible apply Keeps.afterPair (State.usePrefix_keeps _ _ _ _)); · assumption)
    | with_reducible apply Keeps.after (State.chipReturn_keeps _ _ _)
    | ((with_reducible apply Keeps.afterPair (State.chipReturn_keeps _ _ _)); · assumption)
    | with_reducible intro _
    | split
    | with_reducible refine Keeps.pair (by assumption) ?_
    | dsimp only

theorem execProbeReturn_keeps (t : Stall) (entry : Fin 64) (s : State) : StepKeeps s (execProbeReturn t
    entry s) := by
  unfold execProbeReturn
  try dsimp only
  repeat' first
    | with_reducible apply Keeps.ofNext
    | with_reducible exact .refl _
    | with_reducible assumption
    | with_reducible apply Keeps.after (State.applyLookups_keeps _ _)
    | with_reducible apply Keeps.after (State.probe_keeps _ _ _)
    | ((with_reducible apply Keeps.afterPair (State.probe_keeps _ _ _)); · assumption)
    | with_reducible intro _
    | split
    | with_reducible apply Keeps.put_service
    | with_reducible refine Keeps.pair (by assumption) ?_
    | dsimp only

theorem State.startLookup_keeps (s : State) (t p : Nat) (f : Frame) : Keeps s (State.startLookup s t p f).1
    := by
  unfold State.startLookup
  try dsimp only
  repeat' first
    | with_reducible exact .refl _
    | with_reducible assumption
    | ((with_reducible apply Keeps.afterT (State.bump_touches _ _ _)); · rfl)
    | ((with_reducible apply Keeps.afterT (State.drop_touches _ _ _)); · rfl)
    | with_reducible apply Keeps.after (State.flood_keeps _ _ _ _)
    | with_reducible apply Keeps.after (State.learn_keeps _ _ _ _)
    | ((with_reducible apply Keeps.afterPair (State.learn_keeps _ _ _ _)); · assumption)
    | with_reducible apply Keeps.after (State.startBridge_keeps _ _ _)
    | ((with_reducible apply Keeps.afterPair (State.startBridge_keeps _ _ _)); · assumption)
    | with_reducible apply Keeps.ite
    | with_reducible intro _
    | split
    | with_reducible refine Keeps.pair (by assumption) ?_
    | dsimp only

theorem execServiceLookup_keeps (t : Stall) (s : State) : StepKeeps s (execServiceLookup t s) := by
  unfold execServiceLookup
  try dsimp only
  repeat' first
    | with_reducible apply Keeps.ofNext
    | with_reducible exact .refl _
    | with_reducible assumption
    | ((with_reducible apply Keeps.afterT (State.draw_touches _)); · rfl)
    | with_reducible apply Keeps.after (State.applyLookups_keeps _ _)
    | with_reducible apply Keeps.after (State.startLookup_keeps _ _ _ _)
    | ((with_reducible apply Keeps.afterPair (State.startLookup_keeps _ _ _ _)); · assumption)
    | with_reducible apply Keeps.ite
    | with_reducible apply Keeps.iteStep
    | with_reducible intro _
    | split
    | with_reducible apply Keeps.put_service
    | with_reducible refine Keeps.pair (by assumption) ?_
    | dsimp only

end Sys2Proof.Machine
end

