-- ==== Sys2Proof/Laws/TouchView.lean ====
section
/-! SUPPORT. Which parts of the state each operation of Machine/View.lean changes. -/

namespace Sys2Proof.Machine

theorem State.setReq_touches (s : State) (r : Requester) (x : ReqSt) : OnlyTouches [.dict] s (State.setReq
    s r x) := by
  unfold State.setReq
  try dsimp only
  repeat' first
    | with_reducible exact .refl _ _
    | with_reducible assumption
    | with_reducible intro _
    | (with_reducible apply OnlyTouches.put_dict; · decide)
    | with_reducible refine OnlyTouches.pair (by assumption) ?_
    | dsimp only

end Sys2Proof.Machine
end

