-- ==== Sys2Proof/Laws/KeepView.lean ====
section
/-! SUPPORT. The operations of Machine/View.lean keep the invariant. -/

namespace Sys2Proof.Machine

theorem State.setReq_keeps (s : State) (r : Requester) (x : ReqSt) : Keeps s (State.setReq s r x) := by
  unfold State.setReq
  try dsimp only
  repeat' first
    | with_reducible exact .refl _
    | with_reducible assumption
    | with_reducible intro _
    | ((with_reducible apply Keeps.put_dict); · exact fun i => ⟨i.head, i.tail⟩)
    | with_reducible refine Keeps.pair (by assumption) ?_
    | dsimp only

end Sys2Proof.Machine
end

