-- ==== Sys2Proof/Laws/TouchLedger.lean ====
section
/-! SUPPORT. Which parts of the state each operation of Machine/Ledger.lean changes. -/

namespace Sys2Proof.Machine

theorem State.ringWrite_touches (s : State) (a : Nat) (bs : List Byte) : OnlyTouches [.objs, .mem, .ledger,
    .out] s (State.ringWrite s a bs) := by
  unfold State.ringWrite
  try dsimp only
  repeat' first
    | with_reducible exact .refl _ _
    | with_reducible assumption
    | (with_reducible apply OnlyTouches.after (State.store_touches _ _ _); · decide)
    | (with_reducible apply OnlyTouches.after (State.countFirmware_touches _ _ _ _); · decide)
    | (with_reducible apply OnlyTouches.after (State.hostError_touches _); · decide)
    | (with_reducible apply OnlyTouches.after (State.hostStore_touches _ _ _ _); · decide)
    | with_reducible apply OnlyTouches.ite
    | with_reducible intro _
    | split
    | with_reducible refine OnlyTouches.pair (by assumption) ?_
    | dsimp only

theorem State.resetMaxima_touches (s : State) : OnlyTouches [.objs, .ledger] s (State.resetMaxima s) := by
  unfold State.resetMaxima
  try dsimp only
  repeat' first
    | with_reducible exact .refl _ _
    | with_reducible assumption
    | with_reducible apply OnlyTouches.each
    | (with_reducible apply OnlyTouches.after (State.putObj_touches _ _ _); · decide)
    | with_reducible intro _
    | (with_reducible apply OnlyTouches.put_ledger; · decide)
    | with_reducible refine OnlyTouches.pair (by assumption) ?_
    | dsimp only

theorem State.missLedger_touches (s : State) : OnlyTouches [.objs, .ledger] s (State.missLedger s) := by
  unfold State.missLedger
  try dsimp only
  repeat' first
    | with_reducible exact .refl _ _
    | with_reducible assumption
    | (with_reducible apply OnlyTouches.after (State.bump_touches _ _ _); · decide)
    | with_reducible intro _
    | (with_reducible apply OnlyTouches.put_ledger; · decide)

theorem State.skipLedger_touches (s : State) : OnlyTouches [.objs, .mem, .ledger, .out] s (State.skipLedger
    s) := by
  unfold State.skipLedger
  try dsimp only
  repeat' first
    | with_reducible exact .refl _ _
    | with_reducible assumption
    | (with_reducible apply OnlyTouches.after (State.putObj_touches _ _ _); · decide)
    | (with_reducible apply OnlyTouches.after (State.bump_touches _ _ _); · decide)
    | (with_reducible apply OnlyTouches.after (State.ringWrite_touches _ _ _); · decide)
    | with_reducible intro _
    | with_reducible refine OnlyTouches.pair (by assumption) ?_
    | dsimp only

theorem State.latchLedger_touches (s : State) : OnlyTouches [.objs, .ledger] s (State.latchLedger s) := by
  unfold State.latchLedger
  try dsimp only
  repeat' first
    | with_reducible exact .refl _ _
    | with_reducible assumption
    | (with_reducible apply OnlyTouches.after (State.putObj_touches _ _ _); · decide)
    | (with_reducible apply OnlyTouches.after (State.resetMaxima_touches _); · decide)
    | with_reducible intro _
    | (with_reducible apply OnlyTouches.put_ledger; · decide)
    | with_reducible refine OnlyTouches.pair (by assumption) ?_
    | dsimp only

theorem State.ledgerBoundary_touches (s : State) : OnlyTouches [.objs, .mem, .ledger, .out] s
    (State.ledgerBoundary s) := by
  unfold State.ledgerBoundary
  try dsimp only
  repeat' first
    | with_reducible exact .refl _ _
    | with_reducible assumption
    | (with_reducible apply OnlyTouches.after (State.missLedger_touches _); · decide)
    | (with_reducible apply OnlyTouches.after (State.skipLedger_touches _); · decide)
    | (with_reducible apply OnlyTouches.after (State.latchLedger_touches _); · decide)
    | with_reducible apply OnlyTouches.ite
    | with_reducible intro _
    | split
    | (with_reducible apply OnlyTouches.put_ledger; · decide)

theorem execLedgerBoundary_touches (s : State) : StepTouches [.objs, .mem, .ledger, .out] s
    (execLedgerBoundary s) := by
  unfold execLedgerBoundary
  try dsimp only
  repeat' first
    | with_reducible apply OnlyTouches.ofNext
    | with_reducible exact .refl _ _
    | with_reducible assumption
    | (with_reducible apply OnlyTouches.after (State.ledgerBoundary_touches _); · decide)
    | with_reducible intro _

theorem execLedgerEntryWritten_touches (s : State) : StepTouches [.objs, .mem, .ledger, .out] s
    (execLedgerEntryWritten s) := by
  unfold execLedgerEntryWritten
  try dsimp only
  repeat' first
    | with_reducible apply OnlyTouches.ofNext
    | with_reducible exact .refl _ _
    | with_reducible assumption
    | (with_reducible apply OnlyTouches.after (State.putObj_touches _ _ _); · decide)
    | (with_reducible apply OnlyTouches.after (State.drop_touches _ _ _); · decide)
    | (with_reducible apply OnlyTouches.after (State.hostError_touches _); · decide)
    | (with_reducible apply OnlyTouches.after (State.ringWrite_touches _ _ _); · decide)
    | with_reducible apply OnlyTouches.ite
    | with_reducible apply OnlyTouches.iteStep
    | with_reducible intro _
    | split
    | (with_reducible apply OnlyTouches.put_ledger; · decide)
    | with_reducible refine OnlyTouches.pair (by assumption) ?_
    | dsimp only

theorem State.applyCounterWrite_touches (s : State) (w : Nat × Nat × Nat) : OnlyTouches [.ledger] s
    (State.applyCounterWrite s w) := by
  unfold State.applyCounterWrite
  try dsimp only
  repeat' first
    | with_reducible exact .refl _ _
    | with_reducible assumption
    | with_reducible apply OnlyTouches.each
    | (with_reducible apply OnlyTouches.after (State.setCounter_touches _ _ _ _); · decide)
    | (with_reducible apply OnlyTouches.after (State.count_touches _ _ _ _ _); · decide)
    | with_reducible apply OnlyTouches.ite
    | with_reducible intro _
    | split
    | (with_reducible apply OnlyTouches.put_ledger; · decide)
    | with_reducible refine OnlyTouches.pair (by assumption) ?_
    | dsimp only

theorem State.applyCounterWrites_touches (s : State) : OnlyTouches [.ledger] s (State.applyCounterWrites s)
    := by
  unfold State.applyCounterWrites
  try dsimp only
  repeat' first
    | with_reducible exact .refl _ _
    | with_reducible assumption
    | with_reducible apply OnlyTouches.fold
    | with_reducible apply OnlyTouches.foldPair
    | (with_reducible apply OnlyTouches.after (State.applyCounterWrite_touches _ _); · decide)
    | with_reducible intro _
    | (with_reducible apply OnlyTouches.put_ledger; · decide)

theorem State.putSample_touches (s : State) (r : SampleRing) (w : Nat) : OnlyTouches [.objs, .mem, .ledger,
    .out] s (State.putSample s r w) := by
  unfold State.putSample
  try dsimp only
  repeat' first
    | with_reducible exact .refl _ _
    | with_reducible assumption
    | (with_reducible apply OnlyTouches.after (State.putObj_touches _ _ _); · decide)
    | (with_reducible apply OnlyTouches.after (State.bump_touches _ _ _); · decide)
    | (with_reducible apply OnlyTouches.after (State.ringWrite_touches _ _ _); · decide)
    | with_reducible apply OnlyTouches.ite
    | with_reducible intro _
    | split
    | with_reducible refine OnlyTouches.pair (by assumption) ?_
    | dsimp only

theorem State.windowTaken_touches (s : State) (t : Nat) : OnlyTouches [.ledger] s (State.windowTaken s t)
    := by
  unfold State.windowTaken
  try dsimp only
  repeat' first
    | with_reducible exact .refl _ _
    | with_reducible assumption
    | with_reducible intro _
    | split
    | (with_reducible apply OnlyTouches.put_ledger; · decide)

theorem execInstructionSample_touches (t : Stall) (n : ThreadNo) (rec : InsnSample) (s : State) :
    StepTouches [.objs, .mem, .ledger, .out] s (execInstructionSample t n rec s) := by
  unfold execInstructionSample
  try dsimp only
  repeat' first
    | with_reducible apply OnlyTouches.ofNext
    | with_reducible exact .refl _ _
    | with_reducible assumption
    | (with_reducible apply OnlyTouches.after (State.putSample_touches _ _ _); · decide)
    | (with_reducible apply OnlyTouches.after (State.windowTaken_touches _ _); · decide)
    | with_reducible apply OnlyTouches.ite
    | with_reducible apply OnlyTouches.iteStep
    | with_reducible intro _
    | split
    | with_reducible refine OnlyTouches.pair (by assumption) ?_
    | dsimp only

theorem execPacketSample_touches (p : Port) (rec : PacketSample) (s : State) : StepTouches [.objs, .mem,
    .ledger, .out] s (execPacketSample p rec s) := by
  unfold execPacketSample
  try dsimp only
  repeat' first
    | with_reducible apply OnlyTouches.ofNext
    | with_reducible exact .refl _ _
    | with_reducible assumption
    | (with_reducible apply OnlyTouches.after (State.putSample_touches _ _ _); · decide)
    | with_reducible apply OnlyTouches.ite
    | with_reducible apply OnlyTouches.iteStep
    | with_reducible intro _
    | split

end Sys2Proof.Machine
end

