-- ==== Sys2Proof/Laws/KeepLedger.lean ====
section
/-! SUPPORT. The operations of Machine/Ledger.lean keep the invariant. -/

namespace Sys2Proof.Machine

theorem State.ringWrite_keeps (s : State) (a : Nat) (bs : List Byte) : Keeps s (State.ringWrite s a bs) :=
    by
  unfold State.ringWrite
  try dsimp only
  repeat' first
    | with_reducible exact .refl _
    | with_reducible assumption
    | with_reducible apply Keeps.after (State.store_keeps _ _ _)
    | ((with_reducible apply Keeps.afterT (State.countFirmware_touches _ _ _ _)); · rfl)
    | ((with_reducible apply Keeps.afterT (State.hostError_touches _)); · rfl)
    | ((with_reducible apply Keeps.afterT (State.hostStore_touches _ _ _ _)); · rfl)
    | with_reducible apply Keeps.ite
    | with_reducible intro _
    | split
    | with_reducible refine Keeps.pair (by assumption) ?_
    | dsimp only

theorem State.skipLedger_keeps (s : State) : Keeps s (State.skipLedger s) := by
  unfold State.skipLedger
  try dsimp only
  repeat' first
    | with_reducible exact .refl _
    | with_reducible assumption
    | ((with_reducible apply Keeps.afterT (State.putObj_touches _ _ _)); · rfl)
    | ((with_reducible apply Keeps.afterT (State.bump_touches _ _ _)); · rfl)
    | with_reducible apply Keeps.after (State.ringWrite_keeps _ _ _)
    | with_reducible intro _
    | with_reducible refine Keeps.pair (by assumption) ?_
    | dsimp only

theorem State.ledgerBoundary_keeps (s : State) : Keeps s (State.ledgerBoundary s) := by
  unfold State.ledgerBoundary
  try dsimp only
  repeat' first
    | with_reducible exact .refl _
    | with_reducible assumption
    | ((with_reducible apply Keeps.afterT (State.missLedger_touches _)); · rfl)
    | with_reducible apply Keeps.after (State.skipLedger_keeps _)
    | ((with_reducible apply Keeps.afterT (State.latchLedger_touches _)); · rfl)
    | with_reducible apply Keeps.ite
    | with_reducible intro _
    | split
    | with_reducible apply Keeps.put_ledger

theorem execLedgerBoundary_keeps (s : State) : StepKeeps s (execLedgerBoundary s) := by
  unfold execLedgerBoundary
  try dsimp only
  repeat' first
    | with_reducible apply Keeps.ofNext
    | with_reducible exact .refl _
    | with_reducible assumption
    | with_reducible apply Keeps.after (State.ledgerBoundary_keeps _)
    | with_reducible intro _

theorem execLedgerEntryWritten_keeps (s : State) : StepKeeps s (execLedgerEntryWritten s) := by
  unfold execLedgerEntryWritten
  try dsimp only
  repeat' first
    | with_reducible apply Keeps.ofNext
    | with_reducible exact .refl _
    | with_reducible assumption
    | ((with_reducible apply Keeps.afterT (State.putObj_touches _ _ _)); · rfl)
    | ((with_reducible apply Keeps.afterT (State.drop_touches _ _ _)); · rfl)
    | ((with_reducible apply Keeps.afterT (State.hostError_touches _)); · rfl)
    | with_reducible apply Keeps.after (State.ringWrite_keeps _ _ _)
    | with_reducible apply Keeps.ite
    | with_reducible apply Keeps.iteStep
    | with_reducible intro _
    | split
    | with_reducible apply Keeps.put_ledger
    | with_reducible refine Keeps.pair (by assumption) ?_
    | dsimp only

theorem State.putSample_keeps (s : State) (r : SampleRing) (w : Nat) : Keeps s (State.putSample s r w) := by
  unfold State.putSample
  try dsimp only
  repeat' first
    | with_reducible exact .refl _
    | with_reducible assumption
    | ((with_reducible apply Keeps.afterT (State.putObj_touches _ _ _)); · rfl)
    | ((with_reducible apply Keeps.afterT (State.bump_touches _ _ _)); · rfl)
    | with_reducible apply Keeps.after (State.ringWrite_keeps _ _ _)
    | with_reducible apply Keeps.ite
    | with_reducible intro _
    | split
    | with_reducible refine Keeps.pair (by assumption) ?_
    | dsimp only

theorem execInstructionSample_keeps (t : Stall) (n : ThreadNo) (rec : InsnSample) (s : State) : StepKeeps s
    (execInstructionSample t n rec s) := by
  unfold execInstructionSample
  try dsimp only
  repeat' first
    | with_reducible apply Keeps.ofNext
    | with_reducible exact .refl _
    | with_reducible assumption
    | with_reducible apply Keeps.after (State.putSample_keeps _ _ _)
    | ((with_reducible apply Keeps.afterT (State.windowTaken_touches _ _)); · rfl)
    | with_reducible apply Keeps.ite
    | with_reducible apply Keeps.iteStep
    | with_reducible intro _
    | split
    | with_reducible refine Keeps.pair (by assumption) ?_
    | dsimp only

theorem execPacketSample_keeps (p : Port) (rec : PacketSample) (s : State) : StepKeeps s (execPacketSample
    p rec s) := by
  unfold execPacketSample
  try dsimp only
  repeat' first
    | with_reducible apply Keeps.ofNext
    | with_reducible exact .refl _
    | with_reducible assumption
    | with_reducible apply Keeps.after (State.putSample_keeps _ _ _)
    | with_reducible apply Keeps.ite
    | with_reducible apply Keeps.iteStep
    | with_reducible intro _
    | split

end Sys2Proof.Machine
end

