-- ==== Sys2Proof/Laws/TouchBundles.lean ====
section
/-! SUPPORT. Which parts of the state each operation of Machine/Bundles.lean changes. -/

namespace Sys2Proof.Machine

theorem State.verifyFailed_touches (s : State) : OnlyTouches [.objs, .dict, .host] s (State.verifyFailed s)
    := by
  unfold State.verifyFailed
  try dsimp only
  repeat' first
    | with_reducible exact .refl _ _
    | with_reducible assumption
    | (with_reducible apply OnlyTouches.after (State.bump_touches _ _ _); · decide)
    | (with_reducible apply OnlyTouches.after (State.eventObj_touches _ _ _ _); · decide)
    | with_reducible intro _
    | with_reducible refine OnlyTouches.pair (by assumption) ?_
    | dsimp only

theorem State.dropProgram_touches (s : State) (k : Nat) : OnlyTouches [.update] s (State.dropProgram s k)
    := by
  unfold State.dropProgram
  try dsimp only
  repeat' first
    | with_reducible exact .refl _ _
    | with_reducible assumption
    | with_reducible intro _
    | (with_reducible apply OnlyTouches.put_update; · decide)

theorem State.placeProgram_touches (s : State) (b : BundleText) : OnlyTouches [.objs, .power, .optics,
    .ports, .update, .mem, .ledger, .dict, .host] s (State.placeProgram s b).1 := by
  unfold State.placeProgram
  try dsimp only
  repeat' first
    | with_reducible exact .refl _ _
    | with_reducible assumption
    | (with_reducible apply OnlyTouches.after (State.store_touches _ _ _); · decide)
    | (with_reducible apply OnlyTouches.after (State.countFirmware_touches _ _ _ _); · decide)
    | (with_reducible apply OnlyTouches.after (State.identity_touches _ _ _); · decide)
    | (with_reducible apply OnlyTouches.after (State.dropProgram_touches _ _); · decide)
    | with_reducible intro _
    | split
    | (with_reducible apply OnlyTouches.put_update; · decide)
    | with_reducible refine OnlyTouches.pair (by assumption) ?_
    | dsimp only

theorem State.placeBundle_touches (s : State) (b : BundleText) : OnlyTouches [.objs, .power, .optics,
    .ports, .update, .mem, .ledger, .dict, .host] s (State.placeBundle s b).1 := by
  unfold State.placeBundle
  try dsimp only
  repeat' first
    | with_reducible exact .refl _ _
    | with_reducible assumption
    | (with_reducible apply OnlyTouches.after (State.placeProgram_touches _ _); · decide)
    | (with_reducible apply OnlyTouches.afterPair (State.placeProgram_touches _ _); (first | assumption | decide); (first | assumption | decide))
    | with_reducible apply OnlyTouches.ite
    | with_reducible intro _
    | split
    | (with_reducible apply OnlyTouches.put_host; · decide)
    | with_reducible refine OnlyTouches.pair (by assumption) ?_
    | dsimp only

end Sys2Proof.Machine
end

