-- ==== Sys2Proof/Laws/KeepBundles.lean ====
section
/-! SUPPORT. The operations of Machine/Bundles.lean keep the invariant. -/

namespace Sys2Proof.Machine

theorem State.verifyFailed_keeps (s : State) : Keeps s (State.verifyFailed s) := by
  unfold State.verifyFailed
  try dsimp only
  repeat' first
    | with_reducible exact .refl _
    | with_reducible assumption
    | ((with_reducible apply Keeps.afterT (State.bump_touches _ _ _)); · rfl)
    | with_reducible apply Keeps.after (State.eventObj_keeps _ _ _ _)
    | with_reducible intro _
    | with_reducible refine Keeps.pair (by assumption) ?_
    | dsimp only

theorem State.placeProgram_keeps (s : State) (b : BundleText) : Keeps s (State.placeProgram s b).1 := by
  unfold State.placeProgram
  try dsimp only
  repeat' first
    | with_reducible exact .refl _
    | with_reducible assumption
    | with_reducible apply Keeps.after (State.store_keeps _ _ _)
    | ((with_reducible apply Keeps.afterT (State.countFirmware_touches _ _ _ _)); · rfl)
    | with_reducible apply Keeps.after (State.identity_keeps _ _ _)
    | ((with_reducible apply Keeps.afterT (State.dropProgram_touches _ _)); · rfl)
    | with_reducible intro _
    | split
    | with_reducible apply Keeps.put_update
    | with_reducible refine Keeps.pair (by assumption) ?_
    | dsimp only

theorem State.placeBundle_keeps (s : State) (b : BundleText) : Keeps s (State.placeBundle s b).1 := by
  unfold State.placeBundle
  try dsimp only
  repeat' first
    | with_reducible exact .refl _
    | with_reducible assumption
    | with_reducible apply Keeps.after (State.placeProgram_keeps _ _)
    | ((with_reducible apply Keeps.afterPair (State.placeProgram_keeps _ _)); · assumption)
    | with_reducible apply Keeps.ite
    | with_reducible intro _
    | split
    | with_reducible apply Keeps.put_host
    | with_reducible refine Keeps.pair (by assumption) ?_
    | dsimp only

end Sys2Proof.Machine
end

