-- ==== Sys2Proof/Laws/TouchDictionary.lean ====
section
/-! SUPPORT. Which parts of the state each operation of Machine/Dictionary.lean changes. -/

namespace Sys2Proof.Machine

theorem State.record_touches (s : State) (r : Requester) (index sub code : Nat) : OnlyTouches [.dict] s
    (State.record s r index sub code) := by
  unfold State.record
  try dsimp only
  repeat' first
    | with_reducible exact .refl _ _
    | with_reducible assumption
    | (with_reducible apply OnlyTouches.after (State.setReq_touches _ _ _); · decide)
    | with_reducible apply OnlyTouches.ite
    | with_reducible intro _
    | split
    | with_reducible refine OnlyTouches.pair (by assumption) ?_
    | dsimp only

theorem State.dictRead_touches (s : State) (r : Requester) (copies : Bool) (index sub : Nat) : OnlyTouches
    [.objs, .time, .dict, .free] s (State.dictRead s r copies index sub).1 := by
  unfold State.dictRead
  try dsimp only
  repeat' first
    | with_reducible exact .refl _ _
    | with_reducible assumption
    | with_reducible apply OnlyTouches.when
    | (with_reducible apply OnlyTouches.after (State.draw_touches _); · decide)
    | (with_reducible apply OnlyTouches.after (State.tinPop_touches _ _); · decide)
    | (with_reducible apply OnlyTouches.after (State.setReq_touches _ _ _); · decide)
    | (with_reducible apply OnlyTouches.after (State.record_touches _ _ _ _ _); · decide)
    | with_reducible apply OnlyTouches.ite
    | with_reducible intro _
    | split
    | with_reducible refine OnlyTouches.pair (by assumption) ?_
    | dsimp only

theorem State.withWidth_touches (s : State) (p w : Nat) : OnlyTouches [.objs] s (State.withWidth s p w) :=
    by
  unfold State.withWidth
  try dsimp only
  repeat' first
    | with_reducible exact .refl _ _
    | with_reducible assumption
    | with_reducible apply OnlyTouches.each
    | (with_reducible apply OnlyTouches.after (State.putObj_touches _ _ _); · decide)
    | (with_reducible apply OnlyTouches.after (State.newCredits_touches _ _ _); · decide)
    | with_reducible apply OnlyTouches.ite
    | with_reducible intro _
    | split
    | with_reducible refine OnlyTouches.pair (by assumption) ?_
    | dsimp only

theorem State.putKey_touches (s : State) (key v : Nat) : OnlyTouches [.objs] s (State.putKey s key v) := by
  unfold State.putKey
  try dsimp only
  repeat' first
    | with_reducible exact .refl _ _
    | with_reducible assumption
    | with_reducible intro _
    | (with_reducible apply OnlyTouches.put_objs; · decide)

theorem State.writeToken_touches (s : State) (r : Requester) (k v : Nat) : OnlyTouches [.dict] s
    (State.writeToken s r k v) := by
  unfold State.writeToken
  try dsimp only
  repeat' first
    | with_reducible exact .refl _ _
    | with_reducible assumption
    | (with_reducible apply OnlyTouches.after (State.setSlot_touches _ _ _); · decide)
    | with_reducible apply OnlyTouches.ite
    | with_reducible intro _
    | split

theorem State.writeSubmit_touches (s : State) (k v : Nat) : OnlyTouches [.dict] s (State.writeSubmit s k v)
    := by
  unfold State.writeSubmit
  try dsimp only
  repeat' first
    | with_reducible exact .refl _ _
    | with_reducible assumption
    | (with_reducible apply OnlyTouches.after (State.modSlot_touches _ _ _); · decide)
    | with_reducible apply OnlyTouches.ite
    | with_reducible intro _
    | split

theorem State.writeSlot_touches (s : State) (r : Requester) (k sub v : Nat) : OnlyTouches [.dict] s
    (State.writeSlot s r k sub v) := by
  unfold State.writeSlot
  try dsimp only
  repeat' first
    | with_reducible exact .refl _ _
    | with_reducible assumption
    | (with_reducible apply OnlyTouches.after (State.modSlot_touches _ _ _); · decide)
    | (with_reducible apply OnlyTouches.after (State.writeToken_touches _ _ _ _); · decide)
    | (with_reducible apply OnlyTouches.after (State.writeSubmit_touches _ _ _); · decide)
    | with_reducible apply OnlyTouches.ite
    | with_reducible intro _
    | split
    | with_reducible refine OnlyTouches.pair (by assumption) ?_
    | dsimp only

theorem State.writeSegLock_touches (s : State) (r : Requester) (v : Nat) : OnlyTouches [.objs, .service] s
    (State.writeSegLock s r v) := by
  unfold State.writeSegLock
  try dsimp only
  repeat' first
    | with_reducible exact .refl _ _
    | with_reducible assumption
    | (with_reducible apply OnlyTouches.after (State.takeSeg_touches _ _ _); · decide)
    | (with_reducible apply OnlyTouches.after (State.dropSeg_touches _ _ _); · decide)
    | with_reducible apply OnlyTouches.ite
    | with_reducible intro _
    | split

theorem State.writePack_touches (s : State) (e v : Nat) : OnlyTouches [.objs, .optics, .ports, .dict,
    .host] s (State.writePack s e v) := by
  unfold State.writePack
  try dsimp only
  repeat' first
    | with_reducible exact .refl _ _
    | with_reducible assumption
    | (with_reducible apply OnlyTouches.after (State.packPrepare_touches _ _); · decide)
    | (with_reducible apply OnlyTouches.after (State.packCancelPrepare_touches _ _); · decide)
    | (with_reducible apply OnlyTouches.after (State.packRestart_touches _ _); · decide)
    | with_reducible apply OnlyTouches.ite
    | with_reducible intro _
    | split

theorem State.writeKey_touches (s : State) (operator : Bool) (v : Nat) : OnlyTouches [.objs, .dict] s
    (State.writeKey s operator v) := by
  unfold State.writeKey
  try dsimp only
  repeat' first
    | with_reducible exact .refl _ _
    | with_reducible assumption
    | (with_reducible apply OnlyTouches.after (State.putObj_touches _ _ _); · decide)
    | with_reducible apply OnlyTouches.ite
    | with_reducible intro _
    | split
    | (with_reducible apply OnlyTouches.put_dict; · decide)

theorem State.startCommit_touches (s : State) (e : Nat) : OnlyTouches [.objs, .mem, .host] s
    (State.startCommit s e) := by
  unfold State.startCommit
  try dsimp only
  repeat' first
    | with_reducible exact .refl _ _
    | with_reducible assumption
    | (with_reducible apply OnlyTouches.after (State.store_touches _ _ _); · decide)
    | with_reducible intro _
    | (with_reducible apply OnlyTouches.put_host; · decide)
    | with_reducible refine OnlyTouches.pair (by assumption) ?_
    | dsimp only

theorem State.emptyStore_touches (s : State) (e : Nat) : OnlyTouches [.objs, .mem, .host] s
    (State.emptyStore s e) := by
  unfold State.emptyStore
  try dsimp only
  repeat' first
    | with_reducible exact .refl _ _
    | with_reducible assumption
    | (with_reducible apply OnlyTouches.after (State.store_touches _ _ _); · decide)
    | with_reducible intro _
    | (with_reducible apply OnlyTouches.put_host; · decide)

theorem State.startAttest_touches (s : State) (nonce : Nat) : OnlyTouches [.host] s (State.startAttest s
    nonce) := by
  unfold State.startAttest
  try dsimp only
  repeat' first
    | with_reducible exact .refl _ _
    | with_reducible assumption
    | with_reducible intro _
    | (with_reducible apply OnlyTouches.put_host; · decide)

theorem State.startGroup_touches (s : State) (g : Nat) : OnlyTouches [.warden] s (State.startGroup s g) :=
    by
  unfold State.startGroup
  try dsimp only
  repeat' first
    | with_reducible exact .refl _ _
    | with_reducible assumption
    | with_reducible apply OnlyTouches.each
    | (with_reducible apply OnlyTouches.after (State.askTally_touches _ _ _); · decide)
    | (with_reducible apply OnlyTouches.afterPair (State.askTally_touches _ _ _); (first | assumption | decide); (first | assumption | decide))
    | with_reducible intro _
    | with_reducible refine OnlyTouches.pair (by assumption) ?_
    | dsimp only

theorem State.settleBoot_touches (s : State) : OnlyTouches [.power, .warden] s (State.settleBoot s) := by
  unfold State.settleBoot
  try dsimp only
  repeat' first
    | with_reducible exact .refl _ _
    | with_reducible assumption
    | (with_reducible apply OnlyTouches.after (State.startGroup_touches _ _); · decide)
    | with_reducible apply OnlyTouches.ite
    | with_reducible intro _
    | split
    | (with_reducible apply OnlyTouches.put_power; · decide)

theorem State.bootGoesOn_touches (s : State) : OnlyTouches [.power, .warden] s (State.bootGoesOn s) := by
  unfold State.bootGoesOn
  try dsimp only
  repeat' first
    | with_reducible exact .refl _ _
    | with_reducible assumption
    | (with_reducible apply OnlyTouches.after (State.settleBoot_touches _); · decide)
    | with_reducible apply OnlyTouches.ite
    | with_reducible intro _
    | split
    | (with_reducible apply OnlyTouches.put_power; · decide)
    | with_reducible refine OnlyTouches.pair (by assumption) ?_
    | dsimp only

theorem State.enableLedger_touches (s : State) (v : Nat) : OnlyTouches [.objs, .ledger] s
    (State.enableLedger s v) := by
  unfold State.enableLedger
  try dsimp only
  repeat' first
    | with_reducible exact .refl _ _
    | with_reducible assumption
    | (with_reducible apply OnlyTouches.after (State.putObj_touches _ _ _); · decide)
    | with_reducible apply OnlyTouches.ite
    | with_reducible intro _
    | split
    | (with_reducible apply OnlyTouches.put_ledger; · decide)
    | with_reducible refine OnlyTouches.pair (by assumption) ?_
    | dsimp only

theorem State.writeSpecial_touches (s : State) (r : Requester) (key v : Nat) : OptTouches [.objs, .power,
    .time, .optics, .lanes, .remaps, .ports, .switch, .service, .mem, .warden, .ledger, .dict, .host] s
    (State.writeSpecial s r key v) := by
  unfold State.writeSpecial
  try dsimp only
  repeat' first
    | with_reducible apply OnlyTouches.ofSome
    | with_reducible exact OnlyTouches.ofNone
    | with_reducible apply OnlyTouches.iteOpt
    | with_reducible exact .refl _ _
    | with_reducible assumption
    | with_reducible apply OnlyTouches.when
    | (with_reducible apply OnlyTouches.after (State.putObj_touches _ _ _); · decide)
    | (with_reducible apply OnlyTouches.after (State.modPort_touches _ _ _); · decide)
    | (with_reducible apply OnlyTouches.after (State.askRebuild_touches _ _ _); · decide)
    | (with_reducible apply OnlyTouches.after (State.writeTb2_touches _ _); · decide)
    | (with_reducible apply OnlyTouches.after (State.mastersGone_touches _ _); · decide)
    | (with_reducible apply OnlyTouches.after (State.pulseProgrammed_touches _ _); · decide)
    | (with_reducible apply OnlyTouches.after (State.startRetrain_touches _ _); · decide)
    | (with_reducible apply OnlyTouches.after (State.comparePeer_touches _ _); · decide)
    | (with_reducible apply OnlyTouches.after (State.powerRestart_touches _); · decide)
    | (with_reducible apply OnlyTouches.after (State.setReq_touches _ _ _); · decide)
    | (with_reducible apply OnlyTouches.after (State.putKey_touches _ _ _); · decide)
    | (with_reducible apply OnlyTouches.after (State.writeSlot_touches _ _ _ _ _); · decide)
    | (with_reducible apply OnlyTouches.after (State.writeSegLock_touches _ _ _); · decide)
    | (with_reducible apply OnlyTouches.after (State.writePack_touches _ _ _); · decide)
    | (with_reducible apply OnlyTouches.after (State.writeKey_touches _ _ _); · decide)
    | (with_reducible apply OnlyTouches.after (State.startCommit_touches _ _); · decide)
    | (with_reducible apply OnlyTouches.after (State.emptyStore_touches _ _); · decide)
    | (with_reducible apply OnlyTouches.after (State.startAttest_touches _ _); · decide)
    | (with_reducible apply OnlyTouches.after (State.bootGoesOn_touches _); · decide)
    | (with_reducible apply OnlyTouches.after (State.enableLedger_touches _ _); · decide)
    | with_reducible apply OnlyTouches.ite
    | with_reducible intro _
    | split
    | (with_reducible apply OnlyTouches.put_time; · decide)
    | (with_reducible apply OnlyTouches.put_dict; · decide)
    | with_reducible refine OnlyTouches.pair (by assumption) ?_
    | dsimp only

theorem State.putValue_touches (s : State) (r : Requester) (key v : Nat) : OnlyTouches [.objs, .power,
    .time, .optics, .lanes, .remaps, .ports, .switch, .service, .mem, .warden, .ledger, .dict, .host] s
    (State.putValue s r key v) := by
  unfold State.putValue
  try dsimp only
  repeat' first
    | with_reducible exact .refl _ _
    | with_reducible assumption
    | (with_reducible apply OnlyTouches.after (State.putKey_touches _ _ _); · decide)
    | (with_reducible apply OnlyTouches.afterOpt (State.writeSpecial_touches _ _ _ _); (first | assumption | decide); (first | assumption | decide))
    | with_reducible apply OnlyTouches.ite
    | with_reducible intro _
    | split
    | (with_reducible apply OnlyTouches.put_ledger; · decide)
    | (with_reducible apply OnlyTouches.put_dict; · decide)

theorem State.dictWrite_touches (s : State) (r : Requester) (index sub v : Nat) : OnlyTouches [.objs,
    .power, .time, .optics, .lanes, .remaps, .ports, .switch, .service, .mem, .warden, .ledger, .dict,
    .host] s (State.dictWrite s r index sub v).1 := by
  unfold State.dictWrite
  try dsimp only
  repeat' first
    | with_reducible exact .refl _ _
    | with_reducible assumption
    | (with_reducible apply OnlyTouches.after (State.record_touches _ _ _ _ _); · decide)
    | (with_reducible apply OnlyTouches.after (State.putValue_touches _ _ _ _); · decide)
    | with_reducible apply OnlyTouches.ite
    | with_reducible intro _
    | split
    | with_reducible refine OnlyTouches.pair (by assumption) ?_
    | dsimp only

theorem State.tableStart_touches (s : State) (r : Requester) (index sub word : Nat) : OnlyTouches [.dict] s
    (State.tableStart s r index sub word).1 := by
  unfold State.tableStart
  try dsimp only
  repeat' first
    | with_reducible exact .refl _ _
    | with_reducible assumption
    | (with_reducible apply OnlyTouches.after (State.setReq_touches _ _ _); · decide)
    | (with_reducible apply OnlyTouches.after (State.record_touches _ _ _ _ _); · decide)
    | with_reducible apply OnlyTouches.ite
    | with_reducible intro _
    | split
    | with_reducible refine OnlyTouches.pair (by assumption) ?_
    | dsimp only

theorem State.tableEntryWrite_touches (s : State) (r : Requester) (key off : Nat) (bs : List Byte) :
    OnlyTouches [.service, .mem] s (State.tableEntryWrite s r key off bs).1 := by
  unfold State.tableEntryWrite
  try dsimp only
  repeat' first
    | with_reducible exact .refl _ _
    | with_reducible assumption
    | (with_reducible apply OnlyTouches.after (State.writeTable_touches _ _ _ _); · decide)
    | (with_reducible apply OnlyTouches.after (State.segWrite_touches _ _ _); · decide)
    | with_reducible apply OnlyTouches.ite
    | with_reducible intro _
    | split
    | with_reducible refine OnlyTouches.pair (by assumption) ?_
    | dsimp only

theorem State.tableWrite_touches (s : State) (r : Requester) (key off done : Nat) (x0 : List (List Byte)) :
    OnlyTouches [.service, .mem] s (State.tableWrite s r key off done x0).1 := by
  induction x0 generalizing s r key off done with
  | nil =>
    unfold State.tableWrite
    try dsimp only
    all_goals repeat' first
      | with_reducible exact .refl _ _
      | with_reducible assumption
      | (with_reducible apply OnlyTouches.after (State.tableEntryWrite_touches _ _ _ _ _); · decide)
      | (with_reducible apply OnlyTouches.afterPair (State.tableEntryWrite_touches _ _ _ _ _); (first | assumption | decide); (first | assumption | decide))
      | with_reducible intro _
      | split
      | with_reducible refine OnlyTouches.pair (by assumption) ?_
      | dsimp only
  | cons a l ih =>
    unfold State.tableWrite
    try dsimp only
    all_goals repeat' first
      | with_reducible exact .refl _ _
      | with_reducible assumption
      | (with_reducible apply OnlyTouches.after (ih _ _ _ _ _); · decide)
      | (with_reducible apply OnlyTouches.afterPair (ih _ _ _ _ _); (first | assumption | decide); (first | assumption | decide))
      | (with_reducible apply OnlyTouches.after (State.tableEntryWrite_touches _ _ _ _ _); · decide)
      | (with_reducible apply OnlyTouches.afterPair (State.tableEntryWrite_touches _ _ _ _ _); (first | assumption | decide); (first | assumption | decide))
      | with_reducible intro _
      | split
      | with_reducible refine OnlyTouches.pair (by assumption) ?_
      | dsimp only

theorem State.tableStore_touches (s : State) (r : Requester) (row : ObjRow) (key off : Nat) (bs : List
    Byte) : OnlyTouches [.service, .mem] s (State.tableStore s r row key off bs).1 := by
  unfold State.tableStore
  try dsimp only
  repeat' first
    | with_reducible exact .refl _ _
    | with_reducible assumption
    | (with_reducible apply OnlyTouches.after (State.tableWrite_touches _ _ _ _ _ _); · decide)
    | (with_reducible apply OnlyTouches.afterPair (State.tableWrite_touches _ _ _ _ _ _); (first | assumption | decide); (first | assumption | decide))
    | with_reducible apply OnlyTouches.ite
    | with_reducible intro _
    | split
    | with_reducible refine OnlyTouches.pair (by assumption) ?_
    | dsimp only

theorem State.transferEnd_touches (s : State) (r : Requester) (data : List Byte) (hostError : Bool) :
    OnlyTouches [.objs, .service, .mem, .ledger, .dict, .host, .out] s (State.transferEnd s r data
    hostError) := by
  unfold State.transferEnd
  try dsimp only
  repeat' first
    | with_reducible exact .refl _ _
    | with_reducible assumption
    | (with_reducible apply OnlyTouches.after (State.bump_touches _ _ _); · decide)
    | (with_reducible apply OnlyTouches.after (State.interrupt_touches _ _ _); · decide)
    | (with_reducible apply OnlyTouches.after (State.countHost_touches _ _ _ _); · decide)
    | (with_reducible apply OnlyTouches.after (State.hostError_touches _); · decide)
    | (with_reducible apply OnlyTouches.after (State.setReq_touches _ _ _); · decide)
    | (with_reducible apply OnlyTouches.after (State.tableStore_touches _ _ _ _ _ _); · decide)
    | (with_reducible apply OnlyTouches.afterPair (State.tableStore_touches _ _ _ _ _ _); (first | assumption | decide); (first | assumption | decide))
    | with_reducible apply OnlyTouches.ite
    | with_reducible intro _
    | split
    | (with_reducible apply OnlyTouches.put_out; · decide)
    | with_reducible refine OnlyTouches.pair (by assumption) ?_
    | dsimp only

theorem State.answer_touches (s : State) (data code : Nat) : OnlyTouches [.out] s (State.answer s data
    code) := by
  unfold State.answer
  try dsimp only
  repeat' first
    | with_reducible exact .refl _ _
    | with_reducible assumption
    | with_reducible intro _
    | (with_reducible apply OnlyTouches.put_out; · decide)

theorem State.countBar_touches (s : State) (r : Requester) : OnlyTouches [.ledger] s (State.countBar s r)
    := by
  unfold State.countBar
  try dsimp only
  repeat' first
    | with_reducible exact .refl _ _
    | with_reducible assumption
    | (with_reducible apply OnlyTouches.after (State.count_touches _ _ _ _ _); · decide)
    | with_reducible intro _
    | split
    | with_reducible refine OnlyTouches.pair (by assumption) ?_
    | dsimp only

theorem State.writeWord_touches (s : State) (r : Requester) (index sub word : Nat) : OnlyTouches [.objs,
    .power, .time, .optics, .lanes, .remaps, .ports, .switch, .service, .mem, .warden, .ledger, .dict,
    .host, .out] s (State.writeWord s r index sub word) := by
  unfold State.writeWord
  try dsimp only
  repeat' first
    | with_reducible exact .refl _ _
    | with_reducible assumption
    | (with_reducible apply OnlyTouches.after (State.dictWrite_touches _ _ _ _ _); · decide)
    | (with_reducible apply OnlyTouches.afterPair (State.dictWrite_touches _ _ _ _ _); (first | assumption | decide); (first | assumption | decide))
    | (with_reducible apply OnlyTouches.after (State.tableStart_touches _ _ _ _ _); · decide)
    | (with_reducible apply OnlyTouches.afterPair (State.tableStart_touches _ _ _ _ _); (first | assumption | decide); (first | assumption | decide))
    | (with_reducible apply OnlyTouches.after (State.answer_touches _ _ _); · decide)
    | (with_reducible apply OnlyTouches.after (State.countBar_touches _ _); · decide)
    | with_reducible apply OnlyTouches.ite
    | with_reducible intro _
    | split
    | with_reducible refine OnlyTouches.pair (by assumption) ?_
    | dsimp only

theorem State.writeWhole_touches (s : State) (r : Requester) (index sub v : Nat) : OnlyTouches [.objs,
    .power, .time, .optics, .lanes, .remaps, .ports, .switch, .service, .mem, .warden, .ledger, .dict,
    .host, .out] s (State.writeWhole s r index sub v) := by
  unfold State.writeWhole
  try dsimp only
  repeat' first
    | with_reducible exact .refl _ _
    | with_reducible assumption
    | (with_reducible apply OnlyTouches.after (State.dictWrite_touches _ _ _ _ _); · decide)
    | (with_reducible apply OnlyTouches.afterPair (State.dictWrite_touches _ _ _ _ _); (first | assumption | decide); (first | assumption | decide))
    | (with_reducible apply OnlyTouches.after (State.answer_touches _ _ _); · decide)
    | (with_reducible apply OnlyTouches.after (State.countBar_touches _ _); · decide)
    | with_reducible apply OnlyTouches.ite
    | with_reducible intro _
    | split
    | with_reducible refine OnlyTouches.pair (by assumption) ?_
    | dsimp only

theorem State.i3cAnswer_touches (s : State) (index sub code v : Nat) : OnlyTouches [.dict, .out] s
    (State.i3cAnswer s index sub code v) := by
  unfold State.i3cAnswer
  try dsimp only
  repeat' first
    | with_reducible exact .refl _ _
    | with_reducible assumption
    | with_reducible intro _
    | split
    | (with_reducible apply OnlyTouches.put_dict; · decide)
    | (with_reducible apply OnlyTouches.put_out; · decide)
    | (with_reducible apply OnlyTouches.put_dict_out; (· decide); (· decide))
    | with_reducible refine OnlyTouches.pair (by assumption) ?_
    | dsimp only

theorem State.readWord_touches (s : State) (r : Requester) (index sub : Nat) : OnlyTouches [.objs, .time,
    .ledger, .dict, .free, .out] s (State.readWord s r index sub) := by
  unfold State.readWord
  try dsimp only
  repeat' first
    | with_reducible exact .refl _ _
    | with_reducible assumption
    | (with_reducible apply OnlyTouches.after (State.dictRead_touches _ _ _ _ _); · decide)
    | (with_reducible apply OnlyTouches.afterPair (State.dictRead_touches _ _ _ _ _); (first | assumption | decide); (first | assumption | decide))
    | (with_reducible apply OnlyTouches.after (State.answer_touches _ _ _); · decide)
    | (with_reducible apply OnlyTouches.after (State.countBar_touches _ _); · decide)
    | (with_reducible apply OnlyTouches.after (State.i3cAnswer_touches _ _ _ _ _); · decide)
    | with_reducible apply OnlyTouches.ite
    | with_reducible intro _
    | split
    | with_reducible refine OnlyTouches.pair (by assumption) ?_
    | dsimp only

theorem State.refuseWidth_touches (s : State) (r : Requester) (index sub : Nat) (wr : Bool) (data : Nat) :
    OnlyTouches [.ledger, .dict, .out] s (State.refuseWidth s r index sub wr data) := by
  unfold State.refuseWidth
  try dsimp only
  repeat' first
    | with_reducible exact .refl _ _
    | with_reducible assumption
    | (with_reducible apply OnlyTouches.after (State.record_touches _ _ _ _ _); · decide)
    | (with_reducible apply OnlyTouches.after (State.answer_touches _ _ _); · decide)
    | (with_reducible apply OnlyTouches.after (State.countBar_touches _ _); · decide)
    | with_reducible apply OnlyTouches.ite
    | with_reducible intro _
    | split
    | with_reducible refine OnlyTouches.pair (by assumption) ?_
    | dsimp only

theorem State.writeWidth_touches (s : State) (r : Requester) (width : BarWidth) (index sub word : Nat) :
    OnlyTouches [.objs, .power, .time, .optics, .lanes, .remaps, .ports, .switch, .service, .mem, .warden,
    .ledger, .dict, .host, .out] s (State.writeWidth s r width index sub word) := by
  unfold State.writeWidth
  try dsimp only
  repeat' first
    | with_reducible exact .refl _ _
    | with_reducible assumption
    | (with_reducible apply OnlyTouches.after (State.writeWord_touches _ _ _ _ _); · decide)
    | (with_reducible apply OnlyTouches.after (State.refuseWidth_touches _ _ _ _ _ _); · decide)
    | with_reducible apply OnlyTouches.ite
    | with_reducible intro _
    | split

theorem State.readWidth_touches (s : State) (r : Requester) (width : BarWidth) (index sub : Nat) :
    OnlyTouches [.objs, .time, .ledger, .dict, .free, .out] s (State.readWidth s r width index sub) := by
  unfold State.readWidth
  try dsimp only
  repeat' first
    | with_reducible exact .refl _ _
    | with_reducible assumption
    | (with_reducible apply OnlyTouches.after (State.answer_touches _ _ _); · decide)
    | (with_reducible apply OnlyTouches.after (State.readWord_touches _ _ _ _); · decide)
    | (with_reducible apply OnlyTouches.after (State.refuseWidth_touches _ _ _ _ _ _); · decide)
    | with_reducible apply OnlyTouches.ite
    | with_reducible intro _
    | split
    | with_reducible refine OnlyTouches.pair (by assumption) ?_
    | dsimp only

theorem vendorOr_touches {l : List Part} (r : Requester) (index : Nat) (s : State) (f : State → State)
    (hf : ∀ u, OnlyTouches l u (f u)) : StepTouches l s (vendorOr r index s f) := by
  intro s1 h
  unfold vendorOr at h
  split at h <;> cases h
  exact hf s

theorem writeObj_touches (r : Requester) (o : Obj) (v : Nat) (s : State) : StepTouches [.objs, .power,
    .time, .optics, .lanes, .remaps, .ports, .switch, .service, .mem, .warden, .ledger, .dict, .host, .out]
    s (writeObj r o v s) := by
  unfold writeObj
  try dsimp only
  repeat' first
    | with_reducible apply OnlyTouches.ofNext
    | with_reducible exact .refl _ _
    | with_reducible assumption
    | (with_reducible apply OnlyTouches.after (State.writeWord_touches _ _ _ _ _); · decide)
    | with_reducible intro _
    | with_reducible refine OnlyTouches.pair (by assumption) ?_
    | dsimp only

theorem execRegisterWrite_touches (a : BarAccess) (index : BitVec 16) (sub : BitVec 8) (word : BitVec 64)
    (s : State) : StepTouches [.objs, .power, .time, .optics, .lanes, .remaps, .ports, .switch, .service,
    .mem, .warden, .ledger, .dict, .host, .out] s (execRegisterWrite a index sub word s) := by
  unfold execRegisterWrite
  try dsimp only
  repeat' first
    | with_reducible apply OnlyTouches.ofNext
    | with_reducible exact .refl _ _
    | with_reducible assumption
    | (with_reducible apply OnlyTouches.after (State.writeWidth_touches _ _ _ _ _ _); · decide)
    | (with_reducible apply vendorOr_touches)
    | with_reducible intro _

theorem execLongObjectRead_touches (a : BarAccess) (index : BitVec 16) (sub : BitVec 8) (s : State) :
    StepTouches [.objs, .time, .ledger, .dict, .free, .out] s (execLongObjectRead a index sub s) := by
  unfold execLongObjectRead
  try dsimp only
  repeat' first
    | with_reducible apply OnlyTouches.ofNext
    | with_reducible exact .refl _ _
    | with_reducible assumption
    | (with_reducible apply OnlyTouches.after (State.readWidth_touches _ _ _ _ _); · decide)
    | (with_reducible apply vendorOr_touches)
    | with_reducible intro _

theorem execLongObjectWrite_touches (r : Requester) (index : BitVec 16) (sub : BitVec 8) (word : BitVec 64)
    (s : State) : StepTouches [.objs, .power, .time, .optics, .lanes, .remaps, .ports, .switch, .service,
    .mem, .warden, .ledger, .dict, .host, .out] s (execLongObjectWrite r index sub word s) := by
  unfold execLongObjectWrite
  try dsimp only
  repeat' first
    | with_reducible apply OnlyTouches.ofNext
    | with_reducible exact .refl _ _
    | with_reducible assumption
    | (with_reducible apply OnlyTouches.after (State.writeWord_touches _ _ _ _ _); · decide)
    | (with_reducible apply vendorOr_touches)
    | with_reducible intro _

theorem execTableTransferStart_touches (r : Requester) (index : BitVec 16) (sub : BitVec 8) (word : BitVec
    64) (s : State) : StepTouches [.objs, .power, .time, .optics, .lanes, .remaps, .ports, .switch,
    .service, .mem, .warden, .ledger, .dict, .host, .out] s (execTableTransferStart r index sub word s) :=
    by
  unfold execTableTransferStart
  try dsimp only
  repeat' first
    | with_reducible apply OnlyTouches.ofNext
    | with_reducible exact .refl _ _
    | with_reducible assumption
    | (with_reducible apply OnlyTouches.after (State.writeWord_touches _ _ _ _ _); · decide)
    | (with_reducible apply vendorOr_touches)
    | with_reducible intro _

theorem execTableTransferEnd_touches (r : Requester) (data : List Byte) (hostError : Bool) (s : State) :
    StepTouches [.objs, .service, .mem, .ledger, .dict, .host, .out] s (execTableTransferEnd r data
    hostError s) := by
  unfold execTableTransferEnd
  try dsimp only
  repeat' first
    | with_reducible apply OnlyTouches.ofNext
    | with_reducible exact .refl _ _
    | with_reducible assumption
    | (with_reducible apply OnlyTouches.after (State.hostError_touches _); · decide)
    | (with_reducible apply OnlyTouches.after (State.transferEnd_touches _ _ _ _); · decide)
    | with_reducible intro _
    | with_reducible refine OnlyTouches.pair (by assumption) ?_
    | dsimp only

theorem execPowerRestart_touches (r : Requester) (word : BitVec 64) (s : State) : StepTouches [.objs,
    .power, .time, .optics, .lanes, .remaps, .ports, .switch, .service, .mem, .warden, .ledger, .dict,
    .host, .out] s (execPowerRestart r word s) := by
  unfold execPowerRestart
  try dsimp only
  repeat' first
    | with_reducible apply OnlyTouches.ofNext
    | with_reducible exact .refl _ _
    | with_reducible assumption
    | (with_reducible apply OnlyTouches.after (State.powerRestart_touches _); · decide)
    | (with_reducible apply OnlyTouches.result (writeObj_touches _ _ _ _); · decide)
    | with_reducible intro _

theorem execBootListReady_touches (r : Requester) (word : BitVec 64) (s : State) : StepTouches [.objs,
    .power, .time, .optics, .lanes, .remaps, .ports, .switch, .service, .mem, .warden, .ledger, .dict,
    .host, .out] s (execBootListReady r word s) := by
  unfold execBootListReady
  try dsimp only
  repeat' first
    | with_reducible apply OnlyTouches.ofNext
    | with_reducible exact .refl _ _
    | with_reducible assumption
    | (with_reducible apply OnlyTouches.result (writeObj_touches _ _ _ _); · decide)
    | with_reducible intro _

theorem execStepPermit_touches (r : Requester) (word : BitVec 64) (s : State) : StepTouches [.objs, .power,
    .time, .optics, .lanes, .remaps, .ports, .switch, .service, .mem, .warden, .ledger, .dict, .host, .out]
    s (execStepPermit r word s) := by
  unfold execStepPermit
  try dsimp only
  repeat' first
    | with_reducible apply OnlyTouches.ofNext
    | with_reducible exact .refl _ _
    | with_reducible assumption
    | (with_reducible apply OnlyTouches.result (writeObj_touches _ _ _ _); · decide)
    | with_reducible intro _

theorem execTb2NowWrite_touches (r : Requester) (value : BitVec 80) (s : State) : StepTouches [.objs,
    .power, .time, .optics, .lanes, .remaps, .ports, .switch, .service, .mem, .warden, .ledger, .dict,
    .host, .out] s (execTb2NowWrite r value s) := by
  unfold execTb2NowWrite
  try dsimp only
  repeat' first
    | with_reducible apply OnlyTouches.ofNext
    | with_reducible exact .refl _ _
    | with_reducible assumption
    | (with_reducible apply OnlyTouches.after (State.writeWhole_touches _ _ _ _ _); · decide)
    | with_reducible intro _
    | with_reducible refine OnlyTouches.pair (by assumption) ?_
    | dsimp only

theorem execTb2RateWrite_touches (r : Requester) (word : BitVec 64) (s : State) : StepTouches [.objs,
    .power, .time, .optics, .lanes, .remaps, .ports, .switch, .service, .mem, .warden, .ledger, .dict,
    .host, .out] s (execTb2RateWrite r word s) := by
  unfold execTb2RateWrite
  try dsimp only
  repeat' first
    | with_reducible apply OnlyTouches.ofNext
    | with_reducible exact .refl _ _
    | with_reducible assumption
    | (with_reducible apply OnlyTouches.result (writeObj_touches _ _ _ _); · decide)
    | with_reducible intro _

theorem execPulseProgramWrite_touches (r : Requester) (k : Fin 4) (field : Fin 4) (value : BitVec 80) (s :
    State) : StepTouches [.objs, .power, .time, .optics, .lanes, .remaps, .ports, .switch, .service, .mem,
    .warden, .ledger, .dict, .host, .out] s (execPulseProgramWrite r k field value s) := by
  unfold execPulseProgramWrite
  try dsimp only
  repeat' first
    | with_reducible apply OnlyTouches.ofNext
    | with_reducible exact .refl _ _
    | with_reducible assumption
    | (with_reducible apply OnlyTouches.after (State.writeWhole_touches _ _ _ _ _); · decide)
    | with_reducible intro _
    | with_reducible refine OnlyTouches.pair (by assumption) ?_
    | dsimp only

theorem execTinCaptureRead_touches (r : Requester) (j : Fin 2) (s : State) : StepTouches [.objs, .time,
    .ledger, .dict, .free, .out] s (execTinCaptureRead r j s) := by
  unfold execTinCaptureRead
  try dsimp only
  repeat' first
    | with_reducible apply OnlyTouches.ofNext
    | with_reducible exact .refl _ _
    | with_reducible assumption
    | (with_reducible apply OnlyTouches.after (State.readWord_touches _ _ _ _); · decide)
    | with_reducible intro _
    | with_reducible refine OnlyTouches.pair (by assumption) ?_
    | dsimp only

theorem execPackPrepare_touches (r : Requester) (e : Engine) (s : State) : StepTouches [.objs, .power,
    .time, .optics, .lanes, .remaps, .ports, .switch, .service, .mem, .warden, .ledger, .dict, .host, .out]
    s (execPackPrepare r e s) := by
  unfold execPackPrepare
  try dsimp only
  repeat' first
    | with_reducible apply OnlyTouches.ofNext
    | with_reducible exact .refl _ _
    | with_reducible assumption
    | (with_reducible apply OnlyTouches.result (writeObj_touches _ _ _ _); · decide)
    | with_reducible intro _

theorem execPackCancelPrepare_touches (r : Requester) (e : Engine) (s : State) : StepTouches [.objs,
    .power, .time, .optics, .lanes, .remaps, .ports, .switch, .service, .mem, .warden, .ledger, .dict,
    .host, .out] s (execPackCancelPrepare r e s) := by
  unfold execPackCancelPrepare
  try dsimp only
  repeat' first
    | with_reducible apply OnlyTouches.ofNext
    | with_reducible exact .refl _ _
    | with_reducible assumption
    | (with_reducible apply OnlyTouches.result (writeObj_touches _ _ _ _); · decide)
    | with_reducible intro _

theorem execPackRestart_touches (r : Requester) (e : Engine) (s : State) : StepTouches [.objs, .power,
    .time, .optics, .lanes, .remaps, .ports, .switch, .service, .mem, .warden, .ledger, .dict, .host, .out]
    s (execPackRestart r e s) := by
  unfold execPackRestart
  try dsimp only
  repeat' first
    | with_reducible apply OnlyTouches.ofNext
    | with_reducible exact .refl _ _
    | with_reducible assumption
    | (with_reducible apply OnlyTouches.result (writeObj_touches _ _ _ _); · decide)
    | with_reducible intro _

theorem execRetrain_touches (r : Requester) (p : Port) (word : BitVec 64) (s : State) : StepTouches [.objs,
    .power, .time, .optics, .lanes, .remaps, .ports, .switch, .service, .mem, .warden, .ledger, .dict,
    .host, .out] s (execRetrain r p word s) := by
  unfold execRetrain
  try dsimp only
  repeat' first
    | with_reducible apply OnlyTouches.ofNext
    | with_reducible exact .refl _ _
    | with_reducible assumption
    | (with_reducible apply OnlyTouches.result (writeObj_touches _ _ _ _); · decide)
    | with_reducible intro _

theorem execExpectedPeerWrite_touches (r : Requester) (p : Port) (word : BitVec 64) (s : State) :
    StepTouches [.objs, .power, .time, .optics, .lanes, .remaps, .ports, .switch, .service, .mem, .warden,
    .ledger, .dict, .host, .out] s (execExpectedPeerWrite r p word s) := by
  unfold execExpectedPeerWrite
  try dsimp only
  repeat' first
    | with_reducible apply OnlyTouches.ofNext
    | with_reducible exact .refl _ _
    | with_reducible assumption
    | (with_reducible apply OnlyTouches.result (writeObj_touches _ _ _ _); · decide)
    | with_reducible intro _

theorem execWidthWrite_touches (r : Requester) (p : Port) (word : BitVec 64) (s : State) : StepTouches
    [.objs, .power, .time, .optics, .lanes, .remaps, .ports, .switch, .service, .mem, .warden, .ledger,
    .dict, .host, .out] s (execWidthWrite r p word s) := by
  unfold execWidthWrite
  try dsimp only
  repeat' first
    | with_reducible apply OnlyTouches.ofNext
    | with_reducible exact .refl _ _
    | with_reducible assumption
    | (with_reducible apply OnlyTouches.result (writeObj_touches _ _ _ _); · decide)
    | with_reducible intro _

theorem execPoolRebuild_touches (r : Requester) (t : Stall) (word : BitVec 64) (s : State) : StepTouches
    [.objs, .power, .time, .optics, .lanes, .remaps, .ports, .switch, .service, .mem, .warden, .ledger,
    .dict, .host, .out] s (execPoolRebuild r t word s) := by
  unfold execPoolRebuild
  try dsimp only
  repeat' first
    | with_reducible apply OnlyTouches.ofNext
    | with_reducible exact .refl _ _
    | with_reducible assumption
    | (with_reducible apply OnlyTouches.result (writeObj_touches _ _ _ _); · decide)
    | with_reducible intro _

theorem execSegLock_touches (r : Requester) (word : BitVec 64) (s : State) : StepTouches [.objs, .power,
    .time, .optics, .lanes, .remaps, .ports, .switch, .service, .mem, .warden, .ledger, .dict, .host, .out]
    s (execSegLock r word s) := by
  unfold execSegLock
  try dsimp only
  repeat' first
    | with_reducible apply OnlyTouches.ofNext
    | with_reducible exact .refl _ _
    | with_reducible assumption
    | (with_reducible apply OnlyTouches.result (writeObj_touches _ _ _ _); · decide)
    | with_reducible intro _

theorem execSegRelease_touches (r : Requester) (word : BitVec 64) (s : State) : StepTouches [.objs, .power,
    .time, .optics, .lanes, .remaps, .ports, .switch, .service, .mem, .warden, .ledger, .dict, .host, .out]
    s (execSegRelease r word s) := by
  unfold execSegRelease
  try dsimp only
  repeat' first
    | with_reducible apply OnlyTouches.ofNext
    | with_reducible exact .refl _ _
    | with_reducible assumption
    | (with_reducible apply OnlyTouches.result (writeObj_touches _ _ _ _); · decide)
    | with_reducible intro _

theorem execEventTailWrite_touches (r : Requester) (word : BitVec 64) (s : State) : StepTouches [.objs,
    .power, .time, .optics, .lanes, .remaps, .ports, .switch, .service, .mem, .warden, .ledger, .dict,
    .host, .out] s (execEventTailWrite r word s) := by
  unfold execEventTailWrite
  try dsimp only
  repeat' first
    | with_reducible apply OnlyTouches.ofNext
    | with_reducible exact .refl _ _
    | with_reducible assumption
    | (with_reducible apply OnlyTouches.result (writeObj_touches _ _ _ _); · decide)
    | with_reducible intro _

theorem execSlotClaim_touches (r : Requester) (k : Slot) (token : BitVec 64) (s : State) : StepTouches
    [.objs, .power, .time, .optics, .lanes, .remaps, .ports, .switch, .service, .mem, .warden, .ledger,
    .dict, .host, .out] s (execSlotClaim r k token s) := by
  unfold execSlotClaim
  try dsimp only
  repeat' first
    | with_reducible apply OnlyTouches.ofNext
    | with_reducible exact .refl _ _
    | with_reducible assumption
    | (with_reducible apply OnlyTouches.result (writeObj_touches _ _ _ _); · decide)
    | with_reducible intro _

theorem execSlotFree_touches (r : Requester) (k : Slot) (s : State) : StepTouches [.objs, .power, .time,
    .optics, .lanes, .remaps, .ports, .switch, .service, .mem, .warden, .ledger, .dict, .host, .out] s
    (execSlotFree r k s) := by
  unfold execSlotFree
  try dsimp only
  repeat' first
    | with_reducible apply OnlyTouches.ofNext
    | with_reducible exact .refl _ _
    | with_reducible assumption
    | (with_reducible apply OnlyTouches.result (writeObj_touches _ _ _ _); · decide)
    | with_reducible intro _

theorem execSlotSubmit_touches (r : Requester) (k : Slot) (s : State) : StepTouches [.objs, .power, .time,
    .optics, .lanes, .remaps, .ports, .switch, .service, .mem, .warden, .ledger, .dict, .host, .out] s
    (execSlotSubmit r k s) := by
  unfold execSlotSubmit
  try dsimp only
  repeat' first
    | with_reducible apply OnlyTouches.ofNext
    | with_reducible exact .refl _ _
    | with_reducible assumption
    | (with_reducible apply OnlyTouches.result (writeObj_touches _ _ _ _); · decide)
    | with_reducible intro _

theorem execSlotWithdraw_touches (r : Requester) (k : Slot) (s : State) : StepTouches [.objs, .power,
    .time, .optics, .lanes, .remaps, .ports, .switch, .service, .mem, .warden, .ledger, .dict, .host, .out]
    s (execSlotWithdraw r k s) := by
  unfold execSlotWithdraw
  try dsimp only
  repeat' first
    | with_reducible apply OnlyTouches.ofNext
    | with_reducible exact .refl _ _
    | with_reducible assumption
    | (with_reducible apply OnlyTouches.result (writeObj_touches _ _ _ _); · decide)
    | with_reducible intro _

theorem execSlotIdleTimeout_touches (k : Slot) (s : State) : StepTouches [.dict] s (execSlotIdleTimeout k
    s) := by
  unfold execSlotIdleTimeout
  try dsimp only
  repeat' first
    | with_reducible apply OnlyTouches.ofNext
    | with_reducible exact .refl _ _
    | with_reducible assumption
    | (with_reducible apply OnlyTouches.after (State.setSlot_touches _ _ _); · decide)
    | with_reducible apply OnlyTouches.ite
    | with_reducible apply OnlyTouches.iteStep
    | with_reducible intro _
    | split
    | with_reducible refine OnlyTouches.pair (by assumption) ?_
    | dsimp only

theorem execLeaseWrite_touches (r : Requester) (pitch : Pitch) (count : Bool) (word : BitVec 64) (s :
    State) : StepTouches [.objs, .power, .time, .optics, .lanes, .remaps, .ports, .switch, .service, .mem,
    .warden, .ledger, .dict, .host, .out] s (execLeaseWrite r pitch count word s) := by
  unfold execLeaseWrite
  try dsimp only
  repeat' first
    | with_reducible apply OnlyTouches.ofNext
    | with_reducible exact .refl _ _
    | with_reducible assumption
    | (with_reducible apply OnlyTouches.after (State.count_touches _ _ _ _ _); · decide)
    | (with_reducible apply OnlyTouches.result (writeObj_touches _ _ _ _); · decide)
    | with_reducible apply OnlyTouches.ite
    | with_reducible apply OnlyTouches.iteStep
    | with_reducible intro _
    | split

theorem execVfBindingWrite_touches (r : Requester) (v : Fin 64) (word : BitVec 64) (s : State) :
    StepTouches [.objs, .power, .time, .optics, .lanes, .remaps, .ports, .switch, .service, .mem, .warden,
    .ledger, .dict, .host, .out] s (execVfBindingWrite r v word s) := by
  unfold execVfBindingWrite
  try dsimp only
  repeat' first
    | with_reducible apply OnlyTouches.ofNext
    | with_reducible exact .refl _ _
    | with_reducible assumption
    | (with_reducible apply OnlyTouches.result (writeObj_touches _ _ _ _); · decide)
    | with_reducible intro _

theorem execStoreCommit_touches (r : Requester) (word : BitVec 64) (s : State) : StepTouches [.objs,
    .power, .time, .optics, .lanes, .remaps, .ports, .switch, .service, .mem, .warden, .ledger, .dict,
    .host, .out] s (execStoreCommit r word s) := by
  unfold execStoreCommit
  try dsimp only
  repeat' first
    | with_reducible apply OnlyTouches.ofNext
    | with_reducible exact .refl _ _
    | with_reducible assumption
    | (with_reducible apply OnlyTouches.result (writeObj_touches _ _ _ _); · decide)
    | with_reducible intro _

theorem execStoreDelete_touches (r : Requester) (word : BitVec 64) (s : State) : StepTouches [.objs,
    .power, .time, .optics, .lanes, .remaps, .ports, .switch, .service, .mem, .warden, .ledger, .dict,
    .host, .out] s (execStoreDelete r word s) := by
  unfold execStoreDelete
  try dsimp only
  repeat' first
    | with_reducible apply OnlyTouches.ofNext
    | with_reducible exact .refl _ _
    | with_reducible assumption
    | (with_reducible apply OnlyTouches.result (writeObj_touches _ _ _ _); · decide)
    | with_reducible intro _

theorem execKeyWrite_touches (r : Requester) (operator : Bool) (key : BitVec 256) (s : State) : StepTouches
    [.objs, .power, .time, .optics, .lanes, .remaps, .ports, .switch, .service, .mem, .warden, .ledger,
    .dict, .host, .out] s (execKeyWrite r operator key s) := by
  unfold execKeyWrite
  try dsimp only
  repeat' first
    | with_reducible apply OnlyTouches.ofNext
    | with_reducible exact .refl _ _
    | with_reducible assumption
    | (with_reducible apply OnlyTouches.after (State.writeWhole_touches _ _ _ _ _); · decide)
    | with_reducible apply OnlyTouches.ite
    | with_reducible apply OnlyTouches.iteStep
    | with_reducible intro _
    | split
    | with_reducible refine OnlyTouches.pair (by assumption) ?_
    | dsimp only

theorem execAttestNonce_touches (r : Requester) (nonce : BitVec 256) (s : State) : StepTouches [.objs,
    .power, .time, .optics, .lanes, .remaps, .ports, .switch, .service, .mem, .warden, .ledger, .dict,
    .host, .out] s (execAttestNonce r nonce s) := by
  unfold execAttestNonce
  try dsimp only
  repeat' first
    | with_reducible apply OnlyTouches.ofNext
    | with_reducible exact .refl _ _
    | with_reducible assumption
    | (with_reducible apply OnlyTouches.after (State.writeWhole_touches _ _ _ _ _); · decide)
    | with_reducible intro _
    | with_reducible refine OnlyTouches.pair (by assumption) ?_
    | dsimp only

theorem execLedgerEnable_touches (r : Requester) (word : BitVec 64) (s : State) : StepTouches [.objs,
    .power, .time, .optics, .lanes, .remaps, .ports, .switch, .service, .mem, .warden, .ledger, .dict,
    .host, .out] s (execLedgerEnable r word s) := by
  unfold execLedgerEnable
  try dsimp only
  repeat' first
    | with_reducible apply OnlyTouches.ofNext
    | with_reducible exact .refl _ _
    | with_reducible assumption
    | (with_reducible apply OnlyTouches.result (writeObj_touches _ _ _ _); · decide)
    | with_reducible intro _

theorem execCounterControlWrite_touches (r : Requester) (index : BitVec 16) (sub : BitVec 8) (value :
    BitVec 256) (s : State) : StepTouches [.objs, .power, .time, .optics, .lanes, .remaps, .ports, .switch,
    .service, .mem, .warden, .ledger, .dict, .host, .out] s (execCounterControlWrite r index sub value s)
    := by
  unfold execCounterControlWrite
  try dsimp only
  repeat' first
    | with_reducible apply OnlyTouches.ofNext
    | with_reducible exact .refl _ _
    | with_reducible assumption
    | (with_reducible apply OnlyTouches.after (State.writeWhole_touches _ _ _ _ _); · decide)
    | with_reducible apply OnlyTouches.ite
    | with_reducible apply OnlyTouches.iteStep
    | with_reducible intro _
    | split

theorem State.itemRead_touches (s : State) (r : Requester) (index sub : Nat) (value : List Byte) :
    OnlyTouches [.objs, .time, .dict, .free] s (State.itemRead s r index sub value).1 := by
  unfold State.itemRead
  try dsimp only
  repeat' first
    | with_reducible exact .refl _ _
    | with_reducible assumption
    | (with_reducible apply OnlyTouches.after (State.drop_touches _ _ _); · decide)
    | (with_reducible apply OnlyTouches.after (State.record_touches _ _ _ _ _); · decide)
    | (with_reducible apply OnlyTouches.after (State.dictRead_touches _ _ _ _ _); · decide)
    | (with_reducible apply OnlyTouches.afterPair (State.dictRead_touches _ _ _ _ _); (first | assumption | decide); (first | assumption | decide))
    | with_reducible apply OnlyTouches.ite
    | with_reducible intro _
    | split
    | with_reducible refine OnlyTouches.pair (by assumption) ?_
    | dsimp only

theorem State.itemWrite_touches (s : State) (r : Requester) (index sub : Nat) (value : List Byte) :
    OnlyTouches [.objs, .power, .time, .optics, .lanes, .remaps, .ports, .switch, .service, .mem, .warden,
    .ledger, .dict, .host] s (State.itemWrite s r index sub value).1 := by
  unfold State.itemWrite
  try dsimp only
  repeat' first
    | with_reducible exact .refl _ _
    | with_reducible assumption
    | (with_reducible apply OnlyTouches.after (State.record_touches _ _ _ _ _); · decide)
    | (with_reducible apply OnlyTouches.after (State.dictWrite_touches _ _ _ _ _); · decide)
    | (with_reducible apply OnlyTouches.afterPair (State.dictWrite_touches _ _ _ _ _); (first | assumption | decide); (first | assumption | decide))
    | with_reducible intro _
    | split
    | with_reducible refine OnlyTouches.pair (by assumption) ?_
    | dsimp only

theorem State.itemTable_touches (s : State) (r : Requester) (index sub : Nat) (wr : Bool) (value : List
    Byte) : OnlyTouches [.objs, .service, .mem, .dict] s (State.itemTable s r index sub wr value).1 := by
  unfold State.itemTable
  try dsimp only
  repeat' first
    | with_reducible exact .refl _ _
    | with_reducible assumption
    | (with_reducible apply OnlyTouches.after (State.drop_touches _ _ _); · decide)
    | (with_reducible apply OnlyTouches.after (State.record_touches _ _ _ _ _); · decide)
    | (with_reducible apply OnlyTouches.after (State.tableStore_touches _ _ _ _ _ _); · decide)
    | (with_reducible apply OnlyTouches.afterPair (State.tableStore_touches _ _ _ _ _ _); (first | assumption | decide); (first | assumption | decide))
    | with_reducible apply OnlyTouches.ite
    | with_reducible intro _
    | split
    | with_reducible refine OnlyTouches.pair (by assumption) ?_
    | dsimp only

theorem State.performItem_touches (s : State) (r : Requester) (index sub op : Nat) (value : List Byte) :
    OnlyTouches [.objs, .power, .time, .optics, .lanes, .remaps, .ports, .switch, .service, .mem, .warden,
    .ledger, .dict, .host, .free] s (State.performItem s r index sub op value).1 := by
  unfold State.performItem
  try dsimp only
  repeat' first
    | with_reducible exact .refl _ _
    | with_reducible assumption
    | (with_reducible apply OnlyTouches.after (State.record_touches _ _ _ _ _); · decide)
    | (with_reducible apply OnlyTouches.after (State.itemRead_touches _ _ _ _ _); · decide)
    | (with_reducible apply OnlyTouches.afterPair (State.itemRead_touches _ _ _ _ _); (first | assumption | decide); (first | assumption | decide))
    | (with_reducible apply OnlyTouches.after (State.itemWrite_touches _ _ _ _ _); · decide)
    | (with_reducible apply OnlyTouches.afterPair (State.itemWrite_touches _ _ _ _ _); (first | assumption | decide); (first | assumption | decide))
    | (with_reducible apply OnlyTouches.after (State.itemTable_touches _ _ _ _ _ _); · decide)
    | (with_reducible apply OnlyTouches.afterPair (State.itemTable_touches _ _ _ _ _ _); (first | assumption | decide); (first | assumption | decide))
    | with_reducible intro _
    | split
    | with_reducible refine OnlyTouches.pair (by assumption) ?_
    | dsimp only

theorem State.performItems_touches (s : State) (r : Requester) (full : Bool) (room : Nat) (x0 : Nat) (x1 :
    List Byte) : OnlyTouches [.objs, .power, .time, .optics, .lanes, .remaps, .ports, .switch, .service,
    .mem, .warden, .ledger, .dict, .host, .free] s (State.performItems s r full room x0 x1).1 := by
  induction x0 generalizing s r full room x1 with
  | zero =>
    unfold State.performItems
    try dsimp only
    all_goals repeat' first
      | with_reducible exact .refl _ _
      | with_reducible assumption
      | (with_reducible apply OnlyTouches.after (State.drop_touches _ _ _); · decide)
      | (with_reducible apply OnlyTouches.after (State.performItem_touches _ _ _ _ _ _); · decide)
      | (with_reducible apply OnlyTouches.afterPair (State.performItem_touches _ _ _ _ _ _); (first | assumption | decide); (first | assumption | decide))
      | with_reducible apply OnlyTouches.ite
      | with_reducible intro _
      | split
      | with_reducible refine OnlyTouches.pair (by assumption) ?_
      | dsimp only
  | succ k ih =>
    unfold State.performItems
    try dsimp only
    all_goals repeat' first
      | with_reducible exact .refl _ _
      | with_reducible assumption
      | (with_reducible apply OnlyTouches.after (ih _ _ _ _ _); · decide)
      | (with_reducible apply OnlyTouches.afterPair (ih _ _ _ _ _); (first | assumption | decide); (first | assumption | decide))
      | (with_reducible apply OnlyTouches.after (State.drop_touches _ _ _); · decide)
      | (with_reducible apply OnlyTouches.after (State.performItem_touches _ _ _ _ _ _); · decide)
      | (with_reducible apply OnlyTouches.afterPair (State.performItem_touches _ _ _ _ _ _); (first | assumption | decide); (first | assumption | decide))
      | with_reducible apply OnlyTouches.ite
      | with_reducible intro _
      | split
      | with_reducible refine OnlyTouches.pair (by assumption) ?_
      | dsimp only

theorem State.respond_touches (s : State) (route : MsgRoute) (bytes : List Byte) : OnlyTouches [.objs,
    .ports, .switch, .coll, .mem, .ledger, .dict, .host, .out] s (State.respond s route bytes) := by
  unfold State.respond
  try dsimp only
  repeat' first
    | with_reducible exact .refl _ _
    | with_reducible assumption
    | (with_reducible apply OnlyTouches.after (State.send_touches _ _ _ _ _); · decide)
    | with_reducible intro _
    | split
    | (with_reducible apply OnlyTouches.put_out; · decide)
    | with_reducible refine OnlyTouches.pair (by assumption) ?_
    | dsimp only

theorem State.discardMsg_touches (s : State) : OnlyTouches [.objs] s (State.discardMsg s) := by
  unfold State.discardMsg
  try dsimp only
  repeat' first
    | with_reducible exact .refl _ _
    | with_reducible assumption
    | (with_reducible apply OnlyTouches.after (State.bump_touches _ _ _); · decide)
    | with_reducible intro _

theorem State.message_touches (s : State) (route : MsgRoute) (bytes : List Byte) : OnlyTouches [.objs,
    .power, .time, .optics, .lanes, .remaps, .ports, .switch, .service, .coll, .mem, .warden, .ledger,
    .dict, .host, .free, .out] s (State.message s route bytes) := by
  unfold State.message
  try dsimp only
  repeat' first
    | with_reducible exact .refl _ _
    | with_reducible assumption
    | (with_reducible apply OnlyTouches.after (State.drop_touches _ _ _); · decide)
    | (with_reducible apply OnlyTouches.after (State.performItems_touches _ _ _ _ _ _); · decide)
    | (with_reducible apply OnlyTouches.afterPair (State.performItems_touches _ _ _ _ _ _); (first | assumption | decide); (first | assumption | decide))
    | (with_reducible apply OnlyTouches.after (State.respond_touches _ _ _); · decide)
    | (with_reducible apply OnlyTouches.after (State.discardMsg_touches _); · decide)
    | with_reducible apply OnlyTouches.ite
    | with_reducible intro _
    | split
    | (with_reducible apply OnlyTouches.put_dict; · decide)
    | with_reducible refine OnlyTouches.pair (by assumption) ?_
    | dsimp only

theorem execDictionaryMessage_touches (route : MsgRoute) (bytes : List Byte) (s : State) : StepTouches
    [.objs, .power, .time, .optics, .lanes, .remaps, .ports, .switch, .service, .coll, .mem, .warden,
    .ledger, .dict, .host, .free, .out] s (execDictionaryMessage route bytes s) := by
  unfold execDictionaryMessage
  try dsimp only
  repeat' first
    | with_reducible apply OnlyTouches.ofNext
    | with_reducible exact .refl _ _
    | with_reducible assumption
    | (with_reducible apply OnlyTouches.after (State.message_touches _ _ _); · decide)
    | with_reducible apply OnlyTouches.ite
    | with_reducible apply OnlyTouches.iteStep
    | with_reducible intro _
    | split

theorem execEntdaa_touches (addr : BitVec 7) (s : State) : StepTouches [.dict] s (execEntdaa addr s) := by
  unfold execEntdaa
  try dsimp only
  repeat' first
    | with_reducible apply OnlyTouches.ofNext
    | with_reducible exact .refl _ _
    | with_reducible assumption
    | with_reducible apply OnlyTouches.ite
    | with_reducible apply OnlyTouches.iteStep
    | with_reducible intro _
    | split
    | (with_reducible apply OnlyTouches.put_dict; · decide)

theorem execI3cPrivateWrite_touches (bytes : List Byte) (s : State) : StepTouches [.objs, .power, .time,
    .optics, .lanes, .remaps, .ports, .switch, .service, .mem, .warden, .ledger, .dict, .host, .out] s
    (execI3cPrivateWrite bytes s) := by
  unfold execI3cPrivateWrite
  try dsimp only
  repeat' first
    | with_reducible apply OnlyTouches.ofNext
    | with_reducible exact .refl _ _
    | with_reducible assumption
    | (with_reducible apply OnlyTouches.after (State.answer_touches _ _ _); · decide)
    | (with_reducible apply OnlyTouches.after (State.itemWrite_touches _ _ _ _ _); · decide)
    | (with_reducible apply OnlyTouches.afterPair (State.itemWrite_touches _ _ _ _ _); (first | assumption | decide); (first | assumption | decide))
    | with_reducible apply OnlyTouches.ite
    | with_reducible apply OnlyTouches.iteStep
    | with_reducible intro _
    | split
    | (with_reducible apply OnlyTouches.put_dict; · decide)
    | with_reducible refine OnlyTouches.pair (by assumption) ?_
    | dsimp only

end Sys2Proof.Machine
end

