-- ==== Sys2Proof/Laws/KeepDictionary.lean ====
section
/-! SUPPORT. The operations of Machine/Dictionary.lean keep the invariant. -/

namespace Sys2Proof.Machine

theorem State.record_keeps (s : State) (r : Requester) (index sub code : Nat) : Keeps s (State.record s r
    index sub code) := by
  unfold State.record
  try dsimp only
  repeat' first
    | with_reducible exact .refl _
    | with_reducible assumption
    | with_reducible apply Keeps.after (State.setReq_keeps _ _ _)
    | with_reducible apply Keeps.ite
    | with_reducible intro _
    | split
    | with_reducible refine Keeps.pair (by assumption) ?_
    | dsimp only

theorem State.dictRead_keeps (s : State) (r : Requester) (copies : Bool) (index sub : Nat) : Keeps s
    (State.dictRead s r copies index sub).1 := by
  unfold State.dictRead
  try dsimp only
  repeat' first
    | with_reducible exact .refl _
    | with_reducible assumption
    | with_reducible apply Keeps.when
    | ((with_reducible apply Keeps.afterT (State.draw_touches _)); · rfl)
    | ((with_reducible apply Keeps.afterT (State.tinPop_touches _ _)); · rfl)
    | with_reducible apply Keeps.after (State.setReq_keeps _ _ _)
    | with_reducible apply Keeps.after (State.record_keeps _ _ _ _ _)
    | with_reducible apply Keeps.ite
    | with_reducible intro _
    | split
    | with_reducible refine Keeps.pair (by assumption) ?_
    | dsimp only

theorem State.writeToken_keeps (s : State) (r : Requester) (k v : Nat) : Keeps s (State.writeToken s r k v)
    := by
  unfold State.writeToken
  try dsimp only
  repeat' first
    | with_reducible exact .refl _
    | with_reducible assumption
    | with_reducible apply Keeps.after (State.setSlot_keeps _ _ _)
    | with_reducible apply Keeps.ite
    | with_reducible intro _
    | split

theorem State.writeSubmit_keeps (s : State) (k v : Nat) : Keeps s (State.writeSubmit s k v) := by
  unfold State.writeSubmit
  try dsimp only
  repeat' first
    | with_reducible exact .refl _
    | with_reducible assumption
    | with_reducible apply Keeps.after (State.modSlot_keeps _ _ _)
    | with_reducible apply Keeps.ite
    | with_reducible intro _
    | split

theorem State.writeSlot_keeps (s : State) (r : Requester) (k sub v : Nat) : Keeps s (State.writeSlot s r k
    sub v) := by
  unfold State.writeSlot
  try dsimp only
  repeat' first
    | with_reducible exact .refl _
    | with_reducible assumption
    | with_reducible apply Keeps.after (State.modSlot_keeps _ _ _)
    | with_reducible apply Keeps.after (State.writeToken_keeps _ _ _ _)
    | with_reducible apply Keeps.after (State.writeSubmit_keeps _ _ _)
    | with_reducible apply Keeps.ite
    | with_reducible intro _
    | split
    | with_reducible refine Keeps.pair (by assumption) ?_
    | dsimp only

theorem State.writePack_keeps (s : State) (e v : Nat) : Keeps s (State.writePack s e v) := by
  unfold State.writePack
  try dsimp only
  repeat' first
    | with_reducible exact .refl _
    | with_reducible assumption
    | ((with_reducible apply Keeps.afterT (State.packPrepare_touches _ _)); · rfl)
    | ((with_reducible apply Keeps.afterT (State.packCancelPrepare_touches _ _)); · rfl)
    | with_reducible apply Keeps.after (State.packRestart_keeps _ _)
    | with_reducible apply Keeps.ite
    | with_reducible intro _
    | split

theorem State.writeKey_keeps (s : State) (operator : Bool) (v : Nat) : Keeps s (State.writeKey s operator
    v) := by
  unfold State.writeKey
  try dsimp only
  repeat' first
    | with_reducible exact .refl _
    | with_reducible assumption
    | ((with_reducible apply Keeps.afterT (State.putObj_touches _ _ _)); · rfl)
    | with_reducible apply Keeps.ite
    | with_reducible intro _
    | split
    | ((with_reducible apply Keeps.put_dict); · exact fun i => ⟨i.head, i.tail⟩)

theorem State.startCommit_keeps (s : State) (e : Nat) : Keeps s (State.startCommit s e) := by
  unfold State.startCommit
  try dsimp only
  repeat' first
    | with_reducible exact .refl _
    | with_reducible assumption
    | with_reducible apply Keeps.after (State.store_keeps _ _ _)
    | with_reducible intro _
    | with_reducible apply Keeps.put_host
    | with_reducible refine Keeps.pair (by assumption) ?_
    | dsimp only

theorem State.emptyStore_keeps (s : State) (e : Nat) : Keeps s (State.emptyStore s e) := by
  unfold State.emptyStore
  try dsimp only
  repeat' first
    | with_reducible exact .refl _
    | with_reducible assumption
    | with_reducible apply Keeps.after (State.store_keeps _ _ _)
    | with_reducible intro _
    | with_reducible apply Keeps.put_host

theorem State.settleBoot_keeps (s : State) : Keeps s (State.settleBoot s) := by
  unfold State.settleBoot
  try dsimp only
  repeat' first
    | with_reducible exact .refl _
    | with_reducible assumption
    | ((with_reducible apply Keeps.afterT (State.startGroup_touches _ _)); · rfl)
    | with_reducible intro _
    | split
    | ((with_reducible apply Keeps.put_power); · exact fun i => ⟨i.capsule, i.pinned, i.converts, i.released, i.powering, i.boots, i.converting, i.ready⟩)
    | ((with_reducible apply Keeps.put_power); · exact fun i => by (obtain ⟨a, b, c, d, e, f, g, h⟩ := i; constructor <;> first | exact a | exact b | grind))

theorem State.bootGoesOn_keeps (s : State) : Keeps s (State.bootGoesOn s) := by
  unfold State.bootGoesOn
  try dsimp only
  repeat' first
    | with_reducible exact .refl _
    | with_reducible assumption
    | with_reducible apply Keeps.after (State.settleBoot_keeps _)
    | with_reducible intro _
    | split
    | ((with_reducible apply Keeps.put_power); · exact fun i => ⟨i.capsule, i.pinned, i.converts, i.released, i.powering, i.boots, i.converting, i.ready⟩)
    | ((with_reducible apply Keeps.put_power); · exact fun i => by (obtain ⟨a, b, c, d, e, f, g, h⟩ := i; constructor <;> first | exact a | exact b | grind))
    | with_reducible refine Keeps.pair (by assumption) ?_
    | dsimp only

theorem State.writeSpecial_keeps (s : State) (r : Requester) (key v : Nat) : OptKeeps s (State.writeSpecial
    s r key v) := by
  unfold State.writeSpecial
  try dsimp only
  repeat' first
    | with_reducible apply Keeps.ofSome
    | with_reducible exact Keeps.ofNone
    | with_reducible apply Keeps.iteOpt
    | with_reducible exact .refl _
    | with_reducible assumption
    | with_reducible apply Keeps.when
    | ((with_reducible apply Keeps.afterT (State.putObj_touches _ _ _)); · rfl)
    | ((with_reducible apply Keeps.afterT (State.modPort_touches _ _ _)); · rfl)
    | ((with_reducible apply Keeps.afterT (State.askRebuild_touches _ _ _)); · rfl)
    | ((with_reducible apply Keeps.afterT (State.writeTb2_touches _ _)); · rfl)
    | ((with_reducible apply Keeps.afterT (State.mastersGone_touches _ _)); · rfl)
    | with_reducible apply Keeps.after (State.pulseProgrammed_keeps _ _)
    | with_reducible apply Keeps.after (State.startRetrain_keeps _ _)
    | with_reducible apply Keeps.after (State.comparePeer_keeps _ _)
    | with_reducible apply Keeps.after (State.powerRestart_keeps _)
    | with_reducible apply Keeps.after (State.setReq_keeps _ _ _)
    | ((with_reducible apply Keeps.afterT (State.putKey_touches _ _ _)); · rfl)
    | with_reducible apply Keeps.after (State.writeSlot_keeps _ _ _ _ _)
    | ((with_reducible apply Keeps.afterT (State.writeSegLock_touches _ _ _)); · rfl)
    | with_reducible apply Keeps.after (State.writePack_keeps _ _ _)
    | with_reducible apply Keeps.after (State.writeKey_keeps _ _ _)
    | with_reducible apply Keeps.after (State.startCommit_keeps _ _)
    | with_reducible apply Keeps.after (State.emptyStore_keeps _ _)
    | ((with_reducible apply Keeps.afterT (State.startAttest_touches _ _)); · rfl)
    | with_reducible apply Keeps.after (State.bootGoesOn_keeps _)
    | ((with_reducible apply Keeps.afterT (State.enableLedger_touches _ _)); · rfl)
    | with_reducible apply Keeps.ite
    | with_reducible intro _
    | split
    | with_reducible apply Keeps.put_time
    | ((with_reducible apply Keeps.put_dict); · exact fun i => ⟨i.head, i.tail⟩)
    | ((with_reducible apply Keeps.put_dict); · exact fun i => ⟨i.head, Nat.mod_lt _ (by decide)⟩)
    | with_reducible refine Keeps.pair (by assumption) ?_
    | dsimp only

theorem State.putValue_keeps (s : State) (r : Requester) (key v : Nat) : Keeps s (State.putValue s r key v)
    := by
  unfold State.putValue
  try dsimp only
  repeat' first
    | with_reducible exact .refl _
    | with_reducible assumption
    | ((with_reducible apply Keeps.afterT (State.putKey_touches _ _ _)); · rfl)
    | ((with_reducible apply Keeps.afterOpt (State.writeSpecial_keeps _ _ _ _)); · assumption)
    | with_reducible apply Keeps.ite
    | with_reducible intro _
    | split
    | with_reducible apply Keeps.put_ledger
    | ((with_reducible apply Keeps.put_dict); · exact fun i => ⟨i.head, i.tail⟩)

theorem State.dictWrite_keeps (s : State) (r : Requester) (index sub v : Nat) : Keeps s (State.dictWrite s
    r index sub v).1 := by
  unfold State.dictWrite
  try dsimp only
  repeat' first
    | with_reducible exact .refl _
    | with_reducible assumption
    | with_reducible apply Keeps.after (State.record_keeps _ _ _ _ _)
    | with_reducible apply Keeps.after (State.putValue_keeps _ _ _ _)
    | with_reducible apply Keeps.ite
    | with_reducible intro _
    | split
    | with_reducible refine Keeps.pair (by assumption) ?_
    | dsimp only

theorem State.tableStart_keeps (s : State) (r : Requester) (index sub word : Nat) : Keeps s
    (State.tableStart s r index sub word).1 := by
  unfold State.tableStart
  try dsimp only
  repeat' first
    | with_reducible exact .refl _
    | with_reducible assumption
    | with_reducible apply Keeps.after (State.setReq_keeps _ _ _)
    | with_reducible apply Keeps.after (State.record_keeps _ _ _ _ _)
    | with_reducible apply Keeps.ite
    | with_reducible intro _
    | split
    | with_reducible refine Keeps.pair (by assumption) ?_
    | dsimp only

theorem State.tableEntryWrite_keeps (s : State) (r : Requester) (key off : Nat) (bs : List Byte) : Keeps s
    (State.tableEntryWrite s r key off bs).1 := by
  unfold State.tableEntryWrite
  try dsimp only
  repeat' first
    | with_reducible exact .refl _
    | with_reducible assumption
    | with_reducible apply Keeps.after (State.writeTable_keeps _ _ _ _)
    | with_reducible apply Keeps.after (State.segWrite_keeps _ _ _)
    | with_reducible apply Keeps.ite
    | with_reducible intro _
    | split
    | with_reducible refine Keeps.pair (by assumption) ?_
    | dsimp only

theorem State.tableWrite_keeps (s : State) (r : Requester) (key off done : Nat) (x0 : List (List Byte)) :
    Keeps s (State.tableWrite s r key off done x0).1 := by
  induction x0 generalizing s r key off done with
  | nil =>
    unfold State.tableWrite
    try dsimp only
    all_goals repeat' first
      | with_reducible exact .refl _
      | with_reducible assumption
      | with_reducible apply Keeps.after (State.tableEntryWrite_keeps _ _ _ _ _)
      | ((with_reducible apply Keeps.afterPair (State.tableEntryWrite_keeps _ _ _ _ _)); · assumption)
      | with_reducible intro _
      | split
      | with_reducible refine Keeps.pair (by assumption) ?_
      | dsimp only
  | cons a l ih =>
    unfold State.tableWrite
    try dsimp only
    all_goals repeat' first
      | with_reducible exact .refl _
      | with_reducible assumption
      | (with_reducible apply Keeps.after (ih _ _ _ _ _))
      | (with_reducible apply Keeps.afterPair (ih _ _ _ _ _); assumption)
      | with_reducible apply Keeps.after (State.tableEntryWrite_keeps _ _ _ _ _)
      | ((with_reducible apply Keeps.afterPair (State.tableEntryWrite_keeps _ _ _ _ _)); · assumption)
      | with_reducible intro _
      | split
      | with_reducible refine Keeps.pair (by assumption) ?_
      | dsimp only

theorem State.tableStore_keeps (s : State) (r : Requester) (row : ObjRow) (key off : Nat) (bs : List Byte)
    : Keeps s (State.tableStore s r row key off bs).1 := by
  unfold State.tableStore
  try dsimp only
  repeat' first
    | with_reducible exact .refl _
    | with_reducible assumption
    | with_reducible apply Keeps.after (State.tableWrite_keeps _ _ _ _ _ _)
    | ((with_reducible apply Keeps.afterPair (State.tableWrite_keeps _ _ _ _ _ _)); · assumption)
    | with_reducible apply Keeps.ite
    | with_reducible intro _
    | split
    | with_reducible refine Keeps.pair (by assumption) ?_
    | dsimp only

theorem State.transferEnd_keeps (s : State) (r : Requester) (data : List Byte) (hostError : Bool) : Keeps s
    (State.transferEnd s r data hostError) := by
  unfold State.transferEnd
  try dsimp only
  repeat' first
    | with_reducible exact .refl _
    | with_reducible assumption
    | ((with_reducible apply Keeps.afterT (State.bump_touches _ _ _)); · rfl)
    | ((with_reducible apply Keeps.afterT (State.interrupt_touches _ _ _)); · rfl)
    | ((with_reducible apply Keeps.afterT (State.countHost_touches _ _ _ _)); · rfl)
    | ((with_reducible apply Keeps.afterT (State.hostError_touches _)); · rfl)
    | with_reducible apply Keeps.after (State.setReq_keeps _ _ _)
    | with_reducible apply Keeps.after (State.tableStore_keeps _ _ _ _ _ _)
    | ((with_reducible apply Keeps.afterPair (State.tableStore_keeps _ _ _ _ _ _)); · assumption)
    | with_reducible apply Keeps.ite
    | with_reducible intro _
    | split
    | with_reducible apply Keeps.put_out
    | with_reducible refine Keeps.pair (by assumption) ?_
    | dsimp only

theorem State.writeWord_keeps (s : State) (r : Requester) (index sub word : Nat) : Keeps s (State.writeWord
    s r index sub word) := by
  unfold State.writeWord
  try dsimp only
  repeat' first
    | with_reducible exact .refl _
    | with_reducible assumption
    | with_reducible apply Keeps.after (State.dictWrite_keeps _ _ _ _ _)
    | ((with_reducible apply Keeps.afterPair (State.dictWrite_keeps _ _ _ _ _)); · assumption)
    | with_reducible apply Keeps.after (State.tableStart_keeps _ _ _ _ _)
    | ((with_reducible apply Keeps.afterPair (State.tableStart_keeps _ _ _ _ _)); · assumption)
    | ((with_reducible apply Keeps.afterT (State.answer_touches _ _ _)); · rfl)
    | ((with_reducible apply Keeps.afterT (State.countBar_touches _ _)); · rfl)
    | with_reducible apply Keeps.ite
    | with_reducible intro _
    | split
    | with_reducible refine Keeps.pair (by assumption) ?_
    | dsimp only

theorem State.writeWhole_keeps (s : State) (r : Requester) (index sub v : Nat) : Keeps s (State.writeWhole
    s r index sub v) := by
  unfold State.writeWhole
  try dsimp only
  repeat' first
    | with_reducible exact .refl _
    | with_reducible assumption
    | with_reducible apply Keeps.after (State.dictWrite_keeps _ _ _ _ _)
    | ((with_reducible apply Keeps.afterPair (State.dictWrite_keeps _ _ _ _ _)); · assumption)
    | ((with_reducible apply Keeps.afterT (State.answer_touches _ _ _)); · rfl)
    | ((with_reducible apply Keeps.afterT (State.countBar_touches _ _)); · rfl)
    | with_reducible apply Keeps.ite
    | with_reducible intro _
    | split
    | with_reducible refine Keeps.pair (by assumption) ?_
    | dsimp only

theorem State.i3cAnswer_keeps (s : State) (index sub code v : Nat) : Keeps s (State.i3cAnswer s index sub
    code v) := by
  exact ⟨id, fun i => ⟨i.head, i.tail⟩, id⟩

theorem State.readWord_keeps (s : State) (r : Requester) (index sub : Nat) : Keeps s (State.readWord s r
    index sub) := by
  unfold State.readWord
  try dsimp only
  repeat' first
    | with_reducible exact .refl _
    | with_reducible assumption
    | with_reducible apply Keeps.after (State.dictRead_keeps _ _ _ _ _)
    | ((with_reducible apply Keeps.afterPair (State.dictRead_keeps _ _ _ _ _)); · assumption)
    | ((with_reducible apply Keeps.afterT (State.answer_touches _ _ _)); · rfl)
    | ((with_reducible apply Keeps.afterT (State.countBar_touches _ _)); · rfl)
    | with_reducible apply Keeps.after (State.i3cAnswer_keeps _ _ _ _ _)
    | with_reducible apply Keeps.ite
    | with_reducible intro _
    | split
    | with_reducible refine Keeps.pair (by assumption) ?_
    | dsimp only

theorem State.refuseWidth_keeps (s : State) (r : Requester) (index sub : Nat) (wr : Bool) (data : Nat) :
    Keeps s (State.refuseWidth s r index sub wr data) := by
  unfold State.refuseWidth
  try dsimp only
  repeat' first
    | with_reducible exact .refl _
    | with_reducible assumption
    | with_reducible apply Keeps.after (State.record_keeps _ _ _ _ _)
    | ((with_reducible apply Keeps.afterT (State.answer_touches _ _ _)); · rfl)
    | ((with_reducible apply Keeps.afterT (State.countBar_touches _ _)); · rfl)
    | with_reducible apply Keeps.ite
    | with_reducible intro _
    | split
    | with_reducible refine Keeps.pair (by assumption) ?_
    | dsimp only

theorem State.writeWidth_keeps (s : State) (r : Requester) (width : BarWidth) (index sub word : Nat) :
    Keeps s (State.writeWidth s r width index sub word) := by
  unfold State.writeWidth
  try dsimp only
  repeat' first
    | with_reducible exact .refl _
    | with_reducible assumption
    | with_reducible apply Keeps.after (State.writeWord_keeps _ _ _ _ _)
    | with_reducible apply Keeps.after (State.refuseWidth_keeps _ _ _ _ _ _)
    | with_reducible apply Keeps.ite
    | with_reducible intro _
    | split

theorem State.readWidth_keeps (s : State) (r : Requester) (width : BarWidth) (index sub : Nat) : Keeps s
    (State.readWidth s r width index sub) := by
  unfold State.readWidth
  try dsimp only
  repeat' first
    | with_reducible exact .refl _
    | with_reducible assumption
    | ((with_reducible apply Keeps.afterT (State.answer_touches _ _ _)); · rfl)
    | with_reducible apply Keeps.after (State.readWord_keeps _ _ _ _)
    | with_reducible apply Keeps.after (State.refuseWidth_keeps _ _ _ _ _ _)
    | with_reducible apply Keeps.ite
    | with_reducible intro _
    | split
    | with_reducible refine Keeps.pair (by assumption) ?_
    | dsimp only

theorem vendorOr_keeps (r : Requester) (index : Nat) (s : State) (f : State → State)
    (hf : ∀ u, Keeps u (f u)) : StepKeeps s (vendorOr r index s f) := by
  intro s1 h
  unfold vendorOr at h
  split at h <;> cases h
  exact hf s

theorem writeObj_keeps (r : Requester) (o : Obj) (v : Nat) (s : State) : StepKeeps s (writeObj r o v s) :=
    by
  unfold writeObj
  try dsimp only
  repeat' first
    | with_reducible apply Keeps.ofNext
    | with_reducible exact .refl _
    | with_reducible assumption
    | with_reducible apply Keeps.after (State.writeWord_keeps _ _ _ _ _)
    | with_reducible intro _
    | with_reducible refine Keeps.pair (by assumption) ?_
    | dsimp only

theorem execRegisterWrite_keeps (a : BarAccess) (index : BitVec 16) (sub : BitVec 8) (word : BitVec 64) (s
    : State) : StepKeeps s (execRegisterWrite a index sub word s) := by
  unfold execRegisterWrite
  try dsimp only
  repeat' first
    | with_reducible apply Keeps.ofNext
    | with_reducible exact .refl _
    | with_reducible assumption
    | with_reducible apply Keeps.after (State.writeWidth_keeps _ _ _ _ _ _)
    | (with_reducible apply vendorOr_keeps)
    | with_reducible intro _

theorem execLongObjectRead_keeps (a : BarAccess) (index : BitVec 16) (sub : BitVec 8) (s : State) :
    StepKeeps s (execLongObjectRead a index sub s) := by
  unfold execLongObjectRead
  try dsimp only
  repeat' first
    | with_reducible apply Keeps.ofNext
    | with_reducible exact .refl _
    | with_reducible assumption
    | with_reducible apply Keeps.after (State.readWidth_keeps _ _ _ _ _)
    | (with_reducible apply vendorOr_keeps)
    | with_reducible intro _

theorem execLongObjectWrite_keeps (r : Requester) (index : BitVec 16) (sub : BitVec 8) (word : BitVec 64)
    (s : State) : StepKeeps s (execLongObjectWrite r index sub word s) := by
  unfold execLongObjectWrite
  try dsimp only
  repeat' first
    | with_reducible apply Keeps.ofNext
    | with_reducible exact .refl _
    | with_reducible assumption
    | with_reducible apply Keeps.after (State.writeWord_keeps _ _ _ _ _)
    | (with_reducible apply vendorOr_keeps)
    | with_reducible intro _

theorem execTableTransferStart_keeps (r : Requester) (index : BitVec 16) (sub : BitVec 8) (word : BitVec
    64) (s : State) : StepKeeps s (execTableTransferStart r index sub word s) := by
  unfold execTableTransferStart
  try dsimp only
  repeat' first
    | with_reducible apply Keeps.ofNext
    | with_reducible exact .refl _
    | with_reducible assumption
    | with_reducible apply Keeps.after (State.writeWord_keeps _ _ _ _ _)
    | (with_reducible apply vendorOr_keeps)
    | with_reducible intro _

theorem execTableTransferEnd_keeps (r : Requester) (data : List Byte) (hostError : Bool) (s : State) :
    StepKeeps s (execTableTransferEnd r data hostError s) := by
  unfold execTableTransferEnd
  try dsimp only
  repeat' first
    | with_reducible apply Keeps.ofNext
    | with_reducible exact .refl _
    | with_reducible assumption
    | ((with_reducible apply Keeps.afterT (State.hostError_touches _)); · rfl)
    | with_reducible apply Keeps.after (State.transferEnd_keeps _ _ _ _)
    | with_reducible intro _
    | with_reducible refine Keeps.pair (by assumption) ?_
    | dsimp only

theorem execPowerRestart_keeps (r : Requester) (word : BitVec 64) (s : State) : StepKeeps s
    (execPowerRestart r word s) := by
  unfold execPowerRestart
  try dsimp only
  repeat' first
    | with_reducible apply Keeps.ofNext
    | with_reducible exact .refl _
    | with_reducible assumption
    | with_reducible apply Keeps.after (State.powerRestart_keeps _)
    | with_reducible exact writeObj_keeps _ _ _ _
    | with_reducible intro _

theorem execBootListReady_keeps (r : Requester) (word : BitVec 64) (s : State) : StepKeeps s
    (execBootListReady r word s) := by
  unfold execBootListReady
  try dsimp only
  repeat' first
    | with_reducible apply Keeps.ofNext
    | with_reducible exact .refl _
    | with_reducible assumption
    | with_reducible exact writeObj_keeps _ _ _ _
    | with_reducible intro _

theorem execStepPermit_keeps (r : Requester) (word : BitVec 64) (s : State) : StepKeeps s (execStepPermit r
    word s) := by
  unfold execStepPermit
  try dsimp only
  repeat' first
    | with_reducible apply Keeps.ofNext
    | with_reducible exact .refl _
    | with_reducible assumption
    | with_reducible exact writeObj_keeps _ _ _ _
    | with_reducible intro _

theorem execTb2NowWrite_keeps (r : Requester) (value : BitVec 80) (s : State) : StepKeeps s
    (execTb2NowWrite r value s) := by
  unfold execTb2NowWrite
  try dsimp only
  repeat' first
    | with_reducible apply Keeps.ofNext
    | with_reducible exact .refl _
    | with_reducible assumption
    | with_reducible apply Keeps.after (State.writeWhole_keeps _ _ _ _ _)
    | with_reducible intro _
    | with_reducible refine Keeps.pair (by assumption) ?_
    | dsimp only

theorem execTb2RateWrite_keeps (r : Requester) (word : BitVec 64) (s : State) : StepKeeps s
    (execTb2RateWrite r word s) := by
  unfold execTb2RateWrite
  try dsimp only
  repeat' first
    | with_reducible apply Keeps.ofNext
    | with_reducible exact .refl _
    | with_reducible assumption
    | with_reducible exact writeObj_keeps _ _ _ _
    | with_reducible intro _

theorem execPulseProgramWrite_keeps (r : Requester) (k : Fin 4) (field : Fin 4) (value : BitVec 80) (s :
    State) : StepKeeps s (execPulseProgramWrite r k field value s) := by
  unfold execPulseProgramWrite
  try dsimp only
  repeat' first
    | with_reducible apply Keeps.ofNext
    | with_reducible exact .refl _
    | with_reducible assumption
    | with_reducible apply Keeps.after (State.writeWhole_keeps _ _ _ _ _)
    | with_reducible intro _
    | with_reducible refine Keeps.pair (by assumption) ?_
    | dsimp only

theorem execTinCaptureRead_keeps (r : Requester) (j : Fin 2) (s : State) : StepKeeps s (execTinCaptureRead
    r j s) := by
  unfold execTinCaptureRead
  try dsimp only
  repeat' first
    | with_reducible apply Keeps.ofNext
    | with_reducible exact .refl _
    | with_reducible assumption
    | with_reducible apply Keeps.after (State.readWord_keeps _ _ _ _)
    | with_reducible intro _
    | with_reducible refine Keeps.pair (by assumption) ?_
    | dsimp only

theorem execPackPrepare_keeps (r : Requester) (e : Engine) (s : State) : StepKeeps s (execPackPrepare r e
    s) := by
  unfold execPackPrepare
  try dsimp only
  repeat' first
    | with_reducible apply Keeps.ofNext
    | with_reducible exact .refl _
    | with_reducible assumption
    | with_reducible exact writeObj_keeps _ _ _ _
    | with_reducible intro _

theorem execPackCancelPrepare_keeps (r : Requester) (e : Engine) (s : State) : StepKeeps s
    (execPackCancelPrepare r e s) := by
  unfold execPackCancelPrepare
  try dsimp only
  repeat' first
    | with_reducible apply Keeps.ofNext
    | with_reducible exact .refl _
    | with_reducible assumption
    | with_reducible exact writeObj_keeps _ _ _ _
    | with_reducible intro _

theorem execPackRestart_keeps (r : Requester) (e : Engine) (s : State) : StepKeeps s (execPackRestart r e
    s) := by
  unfold execPackRestart
  try dsimp only
  repeat' first
    | with_reducible apply Keeps.ofNext
    | with_reducible exact .refl _
    | with_reducible assumption
    | with_reducible exact writeObj_keeps _ _ _ _
    | with_reducible intro _

theorem execRetrain_keeps (r : Requester) (p : Port) (word : BitVec 64) (s : State) : StepKeeps s
    (execRetrain r p word s) := by
  unfold execRetrain
  try dsimp only
  repeat' first
    | with_reducible apply Keeps.ofNext
    | with_reducible exact .refl _
    | with_reducible assumption
    | with_reducible exact writeObj_keeps _ _ _ _
    | with_reducible intro _

theorem execExpectedPeerWrite_keeps (r : Requester) (p : Port) (word : BitVec 64) (s : State) : StepKeeps s
    (execExpectedPeerWrite r p word s) := by
  unfold execExpectedPeerWrite
  try dsimp only
  repeat' first
    | with_reducible apply Keeps.ofNext
    | with_reducible exact .refl _
    | with_reducible assumption
    | with_reducible exact writeObj_keeps _ _ _ _
    | with_reducible intro _

theorem execWidthWrite_keeps (r : Requester) (p : Port) (word : BitVec 64) (s : State) : StepKeeps s
    (execWidthWrite r p word s) := by
  unfold execWidthWrite
  try dsimp only
  repeat' first
    | with_reducible apply Keeps.ofNext
    | with_reducible exact .refl _
    | with_reducible assumption
    | with_reducible exact writeObj_keeps _ _ _ _
    | with_reducible intro _

theorem execPoolRebuild_keeps (r : Requester) (t : Stall) (word : BitVec 64) (s : State) : StepKeeps s
    (execPoolRebuild r t word s) := by
  unfold execPoolRebuild
  try dsimp only
  repeat' first
    | with_reducible apply Keeps.ofNext
    | with_reducible exact .refl _
    | with_reducible assumption
    | with_reducible exact writeObj_keeps _ _ _ _
    | with_reducible intro _

theorem execSegLock_keeps (r : Requester) (word : BitVec 64) (s : State) : StepKeeps s (execSegLock r word
    s) := by
  unfold execSegLock
  try dsimp only
  repeat' first
    | with_reducible apply Keeps.ofNext
    | with_reducible exact .refl _
    | with_reducible assumption
    | with_reducible exact writeObj_keeps _ _ _ _
    | with_reducible intro _

theorem execSegRelease_keeps (r : Requester) (word : BitVec 64) (s : State) : StepKeeps s (execSegRelease r
    word s) := by
  unfold execSegRelease
  try dsimp only
  repeat' first
    | with_reducible apply Keeps.ofNext
    | with_reducible exact .refl _
    | with_reducible assumption
    | with_reducible exact writeObj_keeps _ _ _ _
    | with_reducible intro _

theorem execEventTailWrite_keeps (r : Requester) (word : BitVec 64) (s : State) : StepKeeps s
    (execEventTailWrite r word s) := by
  unfold execEventTailWrite
  try dsimp only
  repeat' first
    | with_reducible apply Keeps.ofNext
    | with_reducible exact .refl _
    | with_reducible assumption
    | with_reducible exact writeObj_keeps _ _ _ _
    | with_reducible intro _

theorem execSlotClaim_keeps (r : Requester) (k : Slot) (token : BitVec 64) (s : State) : StepKeeps s
    (execSlotClaim r k token s) := by
  unfold execSlotClaim
  try dsimp only
  repeat' first
    | with_reducible apply Keeps.ofNext
    | with_reducible exact .refl _
    | with_reducible assumption
    | with_reducible exact writeObj_keeps _ _ _ _
    | with_reducible intro _

theorem execSlotFree_keeps (r : Requester) (k : Slot) (s : State) : StepKeeps s (execSlotFree r k s) := by
  unfold execSlotFree
  try dsimp only
  repeat' first
    | with_reducible apply Keeps.ofNext
    | with_reducible exact .refl _
    | with_reducible assumption
    | with_reducible exact writeObj_keeps _ _ _ _
    | with_reducible intro _

theorem execSlotSubmit_keeps (r : Requester) (k : Slot) (s : State) : StepKeeps s (execSlotSubmit r k s) :=
    by
  unfold execSlotSubmit
  try dsimp only
  repeat' first
    | with_reducible apply Keeps.ofNext
    | with_reducible exact .refl _
    | with_reducible assumption
    | with_reducible exact writeObj_keeps _ _ _ _
    | with_reducible intro _

theorem execSlotWithdraw_keeps (r : Requester) (k : Slot) (s : State) : StepKeeps s (execSlotWithdraw r k
    s) := by
  unfold execSlotWithdraw
  try dsimp only
  repeat' first
    | with_reducible apply Keeps.ofNext
    | with_reducible exact .refl _
    | with_reducible assumption
    | with_reducible exact writeObj_keeps _ _ _ _
    | with_reducible intro _

theorem execSlotIdleTimeout_keeps (k : Slot) (s : State) : StepKeeps s (execSlotIdleTimeout k s) := by
  unfold execSlotIdleTimeout
  try dsimp only
  repeat' first
    | with_reducible apply Keeps.ofNext
    | with_reducible exact .refl _
    | with_reducible assumption
    | with_reducible apply Keeps.after (State.setSlot_keeps _ _ _)
    | with_reducible apply Keeps.ite
    | with_reducible apply Keeps.iteStep
    | with_reducible intro _
    | split
    | with_reducible refine Keeps.pair (by assumption) ?_
    | dsimp only

theorem execLeaseWrite_keeps (r : Requester) (pitch : Pitch) (count : Bool) (word : BitVec 64) (s : State)
    : StepKeeps s (execLeaseWrite r pitch count word s) := by
  unfold execLeaseWrite
  try dsimp only
  repeat' first
    | with_reducible apply Keeps.ofNext
    | with_reducible exact .refl _
    | with_reducible assumption
    | ((with_reducible apply Keeps.afterT (State.count_touches _ _ _ _ _)); · rfl)
    | with_reducible exact writeObj_keeps _ _ _ _
    | with_reducible apply Keeps.ite
    | with_reducible apply Keeps.iteStep
    | with_reducible intro _
    | split

theorem execVfBindingWrite_keeps (r : Requester) (v : Fin 64) (word : BitVec 64) (s : State) : StepKeeps s
    (execVfBindingWrite r v word s) := by
  unfold execVfBindingWrite
  try dsimp only
  repeat' first
    | with_reducible apply Keeps.ofNext
    | with_reducible exact .refl _
    | with_reducible assumption
    | with_reducible exact writeObj_keeps _ _ _ _
    | with_reducible intro _

theorem execStoreCommit_keeps (r : Requester) (word : BitVec 64) (s : State) : StepKeeps s (execStoreCommit
    r word s) := by
  unfold execStoreCommit
  try dsimp only
  repeat' first
    | with_reducible apply Keeps.ofNext
    | with_reducible exact .refl _
    | with_reducible assumption
    | with_reducible exact writeObj_keeps _ _ _ _
    | with_reducible intro _

theorem execStoreDelete_keeps (r : Requester) (word : BitVec 64) (s : State) : StepKeeps s (execStoreDelete
    r word s) := by
  unfold execStoreDelete
  try dsimp only
  repeat' first
    | with_reducible apply Keeps.ofNext
    | with_reducible exact .refl _
    | with_reducible assumption
    | with_reducible exact writeObj_keeps _ _ _ _
    | with_reducible intro _

theorem execKeyWrite_keeps (r : Requester) (operator : Bool) (key : BitVec 256) (s : State) : StepKeeps s
    (execKeyWrite r operator key s) := by
  unfold execKeyWrite
  try dsimp only
  repeat' first
    | with_reducible apply Keeps.ofNext
    | with_reducible exact .refl _
    | with_reducible assumption
    | with_reducible apply Keeps.after (State.writeWhole_keeps _ _ _ _ _)
    | with_reducible apply Keeps.ite
    | with_reducible apply Keeps.iteStep
    | with_reducible intro _
    | split
    | with_reducible refine Keeps.pair (by assumption) ?_
    | dsimp only

theorem execAttestNonce_keeps (r : Requester) (nonce : BitVec 256) (s : State) : StepKeeps s
    (execAttestNonce r nonce s) := by
  unfold execAttestNonce
  try dsimp only
  repeat' first
    | with_reducible apply Keeps.ofNext
    | with_reducible exact .refl _
    | with_reducible assumption
    | with_reducible apply Keeps.after (State.writeWhole_keeps _ _ _ _ _)
    | with_reducible intro _
    | with_reducible refine Keeps.pair (by assumption) ?_
    | dsimp only

theorem execLedgerEnable_keeps (r : Requester) (word : BitVec 64) (s : State) : StepKeeps s
    (execLedgerEnable r word s) := by
  unfold execLedgerEnable
  try dsimp only
  repeat' first
    | with_reducible apply Keeps.ofNext
    | with_reducible exact .refl _
    | with_reducible assumption
    | with_reducible exact writeObj_keeps _ _ _ _
    | with_reducible intro _

theorem execCounterControlWrite_keeps (r : Requester) (index : BitVec 16) (sub : BitVec 8) (value : BitVec
    256) (s : State) : StepKeeps s (execCounterControlWrite r index sub value s) := by
  unfold execCounterControlWrite
  try dsimp only
  repeat' first
    | with_reducible apply Keeps.ofNext
    | with_reducible exact .refl _
    | with_reducible assumption
    | with_reducible apply Keeps.after (State.writeWhole_keeps _ _ _ _ _)
    | with_reducible apply Keeps.ite
    | with_reducible apply Keeps.iteStep
    | with_reducible intro _
    | split

theorem State.itemRead_keeps (s : State) (r : Requester) (index sub : Nat) (value : List Byte) : Keeps s
    (State.itemRead s r index sub value).1 := by
  unfold State.itemRead
  try dsimp only
  repeat' first
    | with_reducible exact .refl _
    | with_reducible assumption
    | ((with_reducible apply Keeps.afterT (State.drop_touches _ _ _)); · rfl)
    | with_reducible apply Keeps.after (State.record_keeps _ _ _ _ _)
    | with_reducible apply Keeps.after (State.dictRead_keeps _ _ _ _ _)
    | ((with_reducible apply Keeps.afterPair (State.dictRead_keeps _ _ _ _ _)); · assumption)
    | with_reducible apply Keeps.ite
    | with_reducible intro _
    | split
    | with_reducible refine Keeps.pair (by assumption) ?_
    | dsimp only

theorem State.itemWrite_keeps (s : State) (r : Requester) (index sub : Nat) (value : List Byte) : Keeps s
    (State.itemWrite s r index sub value).1 := by
  unfold State.itemWrite
  try dsimp only
  repeat' first
    | with_reducible exact .refl _
    | with_reducible assumption
    | with_reducible apply Keeps.after (State.record_keeps _ _ _ _ _)
    | with_reducible apply Keeps.after (State.dictWrite_keeps _ _ _ _ _)
    | ((with_reducible apply Keeps.afterPair (State.dictWrite_keeps _ _ _ _ _)); · assumption)
    | with_reducible intro _
    | split
    | with_reducible refine Keeps.pair (by assumption) ?_
    | dsimp only

theorem State.itemTable_keeps (s : State) (r : Requester) (index sub : Nat) (wr : Bool) (value : List Byte)
    : Keeps s (State.itemTable s r index sub wr value).1 := by
  unfold State.itemTable
  try dsimp only
  repeat' first
    | with_reducible exact .refl _
    | with_reducible assumption
    | ((with_reducible apply Keeps.afterT (State.drop_touches _ _ _)); · rfl)
    | with_reducible apply Keeps.after (State.record_keeps _ _ _ _ _)
    | with_reducible apply Keeps.after (State.tableStore_keeps _ _ _ _ _ _)
    | ((with_reducible apply Keeps.afterPair (State.tableStore_keeps _ _ _ _ _ _)); · assumption)
    | with_reducible apply Keeps.ite
    | with_reducible intro _
    | split
    | with_reducible refine Keeps.pair (by assumption) ?_
    | dsimp only

theorem State.performItem_keeps (s : State) (r : Requester) (index sub op : Nat) (value : List Byte) :
    Keeps s (State.performItem s r index sub op value).1 := by
  unfold State.performItem
  try dsimp only
  repeat' first
    | with_reducible exact .refl _
    | with_reducible assumption
    | with_reducible apply Keeps.after (State.record_keeps _ _ _ _ _)
    | with_reducible apply Keeps.after (State.itemRead_keeps _ _ _ _ _)
    | ((with_reducible apply Keeps.afterPair (State.itemRead_keeps _ _ _ _ _)); · assumption)
    | with_reducible apply Keeps.after (State.itemWrite_keeps _ _ _ _ _)
    | ((with_reducible apply Keeps.afterPair (State.itemWrite_keeps _ _ _ _ _)); · assumption)
    | with_reducible apply Keeps.after (State.itemTable_keeps _ _ _ _ _ _)
    | ((with_reducible apply Keeps.afterPair (State.itemTable_keeps _ _ _ _ _ _)); · assumption)
    | with_reducible intro _
    | split
    | with_reducible refine Keeps.pair (by assumption) ?_
    | dsimp only

theorem State.performItems_keeps (s : State) (r : Requester) (full : Bool) (room : Nat) (x0 : Nat) (x1 :
    List Byte) : Keeps s (State.performItems s r full room x0 x1).1 := by
  induction x0 generalizing s r full room x1 with
  | zero =>
    unfold State.performItems
    try dsimp only
    all_goals repeat' first
      | with_reducible exact .refl _
      | with_reducible assumption
      | ((with_reducible apply Keeps.afterT (State.drop_touches _ _ _)); · rfl)
      | with_reducible apply Keeps.after (State.performItem_keeps _ _ _ _ _ _)
      | ((with_reducible apply Keeps.afterPair (State.performItem_keeps _ _ _ _ _ _)); · assumption)
      | with_reducible apply Keeps.ite
      | with_reducible intro _
      | split
      | with_reducible refine Keeps.pair (by assumption) ?_
      | dsimp only
  | succ k ih =>
    unfold State.performItems
    try dsimp only
    all_goals repeat' first
      | with_reducible exact .refl _
      | with_reducible assumption
      | (with_reducible apply Keeps.after (ih _ _ _ _ _))
      | (with_reducible apply Keeps.afterPair (ih _ _ _ _ _); assumption)
      | ((with_reducible apply Keeps.afterT (State.drop_touches _ _ _)); · rfl)
      | with_reducible apply Keeps.after (State.performItem_keeps _ _ _ _ _ _)
      | ((with_reducible apply Keeps.afterPair (State.performItem_keeps _ _ _ _ _ _)); · assumption)
      | with_reducible apply Keeps.ite
      | with_reducible intro _
      | split
      | with_reducible refine Keeps.pair (by assumption) ?_
      | dsimp only

theorem State.respond_keeps (s : State) (route : MsgRoute) (bytes : List Byte) : Keeps s (State.respond s
    route bytes) := by
  unfold State.respond
  try dsimp only
  repeat' first
    | with_reducible exact .refl _
    | with_reducible assumption
    | with_reducible apply Keeps.after (State.send_keeps _ _ _ _ _)
    | with_reducible intro _
    | split
    | with_reducible apply Keeps.put_out
    | with_reducible refine Keeps.pair (by assumption) ?_
    | dsimp only

theorem State.message_keeps (s : State) (route : MsgRoute) (bytes : List Byte) : Keeps s (State.message s
    route bytes) := by
  unfold State.message
  try dsimp only
  repeat' first
    | with_reducible exact .refl _
    | with_reducible assumption
    | ((with_reducible apply Keeps.afterT (State.drop_touches _ _ _)); · rfl)
    | with_reducible apply Keeps.after (State.performItems_keeps _ _ _ _ _ _)
    | ((with_reducible apply Keeps.afterPair (State.performItems_keeps _ _ _ _ _ _)); · assumption)
    | with_reducible apply Keeps.after (State.respond_keeps _ _ _)
    | ((with_reducible apply Keeps.afterT (State.discardMsg_touches _)); · rfl)
    | with_reducible apply Keeps.ite
    | with_reducible intro _
    | split
    | ((with_reducible apply Keeps.put_dict); · exact fun i => ⟨i.head, i.tail⟩)
    | with_reducible refine Keeps.pair (by assumption) ?_
    | dsimp only

theorem execDictionaryMessage_keeps (route : MsgRoute) (bytes : List Byte) (s : State) : StepKeeps s
    (execDictionaryMessage route bytes s) := by
  unfold execDictionaryMessage
  try dsimp only
  repeat' first
    | with_reducible apply Keeps.ofNext
    | with_reducible exact .refl _
    | with_reducible assumption
    | with_reducible apply Keeps.after (State.message_keeps _ _ _)
    | with_reducible apply Keeps.ite
    | with_reducible apply Keeps.iteStep
    | with_reducible intro _
    | split

theorem execEntdaa_keeps (addr : BitVec 7) (s : State) : StepKeeps s (execEntdaa addr s) := by
  unfold execEntdaa
  try dsimp only
  repeat' first
    | with_reducible apply Keeps.ofNext
    | with_reducible exact .refl _
    | with_reducible assumption
    | with_reducible apply Keeps.ite
    | with_reducible apply Keeps.iteStep
    | with_reducible intro _
    | split
    | ((with_reducible apply Keeps.put_dict); · exact fun i => ⟨i.head, i.tail⟩)

theorem execI3cPrivateWrite_keeps (bytes : List Byte) (s : State) : StepKeeps s (execI3cPrivateWrite bytes
    s) := by
  unfold execI3cPrivateWrite
  try dsimp only
  repeat' first
    | with_reducible apply Keeps.ofNext
    | with_reducible exact .refl _
    | with_reducible assumption
    | ((with_reducible apply Keeps.afterT (State.answer_touches _ _ _)); · rfl)
    | with_reducible apply Keeps.after (State.itemWrite_keeps _ _ _ _ _)
    | ((with_reducible apply Keeps.afterPair (State.itemWrite_keeps _ _ _ _ _)); · assumption)
    | with_reducible apply Keeps.ite
    | with_reducible apply Keeps.iteStep
    | with_reducible intro _
    | split
    | ((with_reducible apply Keeps.put_dict); · exact fun i => ⟨i.head, i.tail⟩)
    | with_reducible refine Keeps.pair (by assumption) ?_
    | dsimp only

end Sys2Proof.Machine
end

