-- ==== Sys2Proof/Laws/TouchInsn.lean ====
section
/-! SUPPORT. Which parts of the state each operation of Machine/Insn.lean changes. -/

namespace Sys2Proof.Machine

theorem State.insnMismatch_touches (s : State) (t n : Nat) (adder : Option Nat) : OnlyTouches [.objs,
    .update, .ledger, .dict, .host] s (State.insnMismatch s t n adder) := by
  unfold State.insnMismatch
  try dsimp only
  repeat' first
    | with_reducible exact .refl _ _
    | with_reducible assumption
    | with_reducible apply OnlyTouches.when
    | (with_reducible apply OnlyTouches.after (State.bump_touches _ _ _); · decide)
    | (with_reducible apply OnlyTouches.after (State.eventObj_touches _ _ _ _); · decide)
    | (with_reducible apply OnlyTouches.after (State.count_touches _ _ _ _ _); · decide)
    | (with_reducible apply OnlyTouches.after (State.adderMismatch_touches _ _ _); · decide)
    | (with_reducible apply OnlyTouches.after (State.modTeam_touches _ _ _ _); · decide)
    | with_reducible intro _
    | split
    | with_reducible refine OnlyTouches.pair (by assumption) ?_
    | dsimp only

theorem State.struck_touches (s : State) (t n : Nat) (adder : Option Nat) (x0 : Upset) : OnlyTouches
    [.objs, .update, .ledger, .dict, .host] s (State.struck s t n adder x0) := by
  unfold State.struck
  try dsimp only
  repeat' first
    | with_reducible exact .refl _ _
    | with_reducible assumption
    | (with_reducible apply OnlyTouches.after (State.sramFixed_touches _ _); · decide)
    | (with_reducible apply OnlyTouches.after (State.insnMismatch_touches _ _ _ _); · decide)
    | with_reducible intro _
    | split

theorem State.insnAt_touches {l : List Part} (hl : [.objs, .ports, .switch, .coll, .update, .arrays, .mem, .custody, .ledger, .dict, .host, .free, .out] ⊆ l) (s : State) (t : Stall) (n : ThreadNo)
    (f : InsnFields) (g : Form) (vec : Bool) (adder : Thread → Option Nat) (body : State → Thread → Option State)
    (hf : ∀ u x, OptTouches l u (body u x)) :
    StepTouches l s (State.insnAt s t n f g vec adder body) := by
  have hc : [.ledger] ⊆ l := List.Subset.trans (by decide) hl
  unfold State.insnAt
  dsimp only
  apply OnlyTouches.ofNext
  with_reducible apply OnlyTouches.ite
  · exact .refl _ _
  with_reducible apply OnlyTouches.ite
  · exact .after (State.faultThread_touches _ _ _ _ _) (List.Subset.trans (by decide) hl) (.refl _ _)
  with_reducible apply OnlyTouches.ite
  · exact .after (State.faultThread_touches _ _ _ _ _) (List.Subset.trans (by decide) hl) (.refl _ _)
  with_reducible apply OnlyTouches.ite
  · exact .after (State.faultThread_touches _ _ _ _ _) (List.Subset.trans (by decide) hl) (.refl _ _)
  with_reducible apply OnlyTouches.ite
  · exact .after (State.faultThread_touches _ _ _ _ _) (List.Subset.trans (by decide) hl) (.refl _ _)
  split
  · next s' he =>
    have h : OnlyTouches l s s' := by
      refine OnlyTouches.afterOpt (hf _ _) he (List.Subset.refl _) (.when _
        (.after (State.windowCount_touches _ _ _) hc (.after (State.count_touches _ _ _ _ _) hc (.refl _ _))) fun u => ?_)
      exact .after (State.count_touches _ _ _ _ _) hc
        (.after (State.bump_touches _ _ _) (List.Subset.trans (by decide) hl) (.refl _ _))
    with_reducible apply OnlyTouches.ite
    · exact h
    · exact .after (State.struck_touches _ _ _ _ _) (List.Subset.trans (by decide) hl) h
  · exact .refl _ _

theorem State.insnTry_touches {l : List Part} (hl : [.objs, .ports, .switch, .coll, .update, .arrays, .mem, .custody, .ledger, .dict, .host, .free, .out] ⊆ l) (s : State) (t : Stall) (n : ThreadNo)
    (f : InsnFields) (g : Form) (vec : Bool) (body : State → Thread → Option State)
    (hf : ∀ u x, OptTouches l u (body u x)) :
    StepTouches l s (State.insnTry s t n f g vec body) :=
  State.insnAt_touches hl s t n f g vec _ body hf

theorem State.insn_touches {l : List Part} (hl : [.objs, .ports, .switch, .coll, .update, .arrays, .mem, .custody, .ledger, .dict, .host, .free, .out] ⊆ l) (s : State) (t : Stall) (n : ThreadNo)
    (f : InsnFields) (g : Form) (vec : Bool) (body : State → Thread → State)
    (hf : ∀ u x, OnlyTouches l u (body u x)) :
    StepTouches l s (State.insn s t n f g vec body) :=
  State.insnTry_touches hl s t n f g vec _ fun u x => .ofSome (hf u x)

theorem State.retire_touches (s : State) (t : Stall) (n : ThreadNo) (x : Thread) : OnlyTouches [.update] s
    (State.retire s t n x) := by
  unfold State.retire
  try dsimp only
  repeat' first
    | with_reducible exact .refl _ _
    | with_reducible assumption
    | (with_reducible apply OnlyTouches.after (State.setThread_touches _ _ _ _); · decide)
    | with_reducible intro _

theorem State.scalar_touches (s : State) (t : Stall) (n : ThreadNo) (f : InsnFields) (g : Form) (op :
    Thread → Word) : StepTouches [.objs, .ports, .switch, .coll, .update, .arrays, .mem, .custody, .ledger,
    .dict, .host, .free, .out] s (State.scalar s t n f g op) := by
  unfold State.scalar
  try dsimp only
  repeat' first
    | with_reducible apply OnlyTouches.ofNext
    | with_reducible exact .refl _ _
    | with_reducible assumption
    | (with_reducible apply State.insn_touches; · decide)
    | (with_reducible apply OnlyTouches.after (State.retire_touches _ _ _ _); · decide)
    | with_reducible intro _

theorem State.scalar2_touches (s : State) (t : Stall) (n : ThreadNo) (f : InsnFields) (op : Word → Word →
    Word) : StepTouches [.objs, .ports, .switch, .coll, .update, .arrays, .mem, .custody, .ledger, .dict,
    .host, .free, .out] s (State.scalar2 s t n f op) := by
  unfold State.scalar2
  try dsimp only
  repeat' first
    | with_reducible apply OnlyTouches.ofNext
    | with_reducible exact .refl _ _
    | with_reducible assumption
    | (with_reducible apply OnlyTouches.result (State.scalar_touches _ _ _ _ _ _); · decide)
    | with_reducible intro _

theorem execUeNop_touches (t : Stall) (n : ThreadNo) (f : InsnFields) (s : State) : StepTouches [.objs,
    .ports, .switch, .coll, .update, .arrays, .mem, .custody, .ledger, .dict, .host, .free, .out] s
    (execUeNop t n f s) := by
  unfold execUeNop
  try dsimp only
  repeat' first
    | with_reducible apply OnlyTouches.ofNext
    | with_reducible exact .refl _ _
    | with_reducible assumption
    | (with_reducible apply State.insn_touches; · decide)
    | (with_reducible apply OnlyTouches.after (State.retire_touches _ _ _ _); · decide)
    | with_reducible intro _

theorem execUeAdd_touches (t : Stall) (n : ThreadNo) (f : InsnFields) (s : State) : StepTouches [.objs,
    .ports, .switch, .coll, .update, .arrays, .mem, .custody, .ledger, .dict, .host, .free, .out] s
    (execUeAdd t n f s) := by
  unfold execUeAdd
  try dsimp only
  repeat' first
    | with_reducible apply OnlyTouches.ofNext
    | with_reducible exact .refl _ _
    | with_reducible assumption
    | (with_reducible apply OnlyTouches.result (State.scalar2_touches _ _ _ _ _); · decide)
    | with_reducible intro _

theorem execUeSub_touches (t : Stall) (n : ThreadNo) (f : InsnFields) (s : State) : StepTouches [.objs,
    .ports, .switch, .coll, .update, .arrays, .mem, .custody, .ledger, .dict, .host, .free, .out] s
    (execUeSub t n f s) := by
  unfold execUeSub
  try dsimp only
  repeat' first
    | with_reducible apply OnlyTouches.ofNext
    | with_reducible exact .refl _ _
    | with_reducible assumption
    | (with_reducible apply OnlyTouches.result (State.scalar2_touches _ _ _ _ _); · decide)
    | with_reducible intro _

theorem execUeMul_touches (t : Stall) (n : ThreadNo) (f : InsnFields) (s : State) : StepTouches [.objs,
    .ports, .switch, .coll, .update, .arrays, .mem, .custody, .ledger, .dict, .host, .free, .out] s
    (execUeMul t n f s) := by
  unfold execUeMul
  try dsimp only
  repeat' first
    | with_reducible apply OnlyTouches.ofNext
    | with_reducible exact .refl _ _
    | with_reducible assumption
    | (with_reducible apply OnlyTouches.result (State.scalar2_touches _ _ _ _ _); · decide)
    | with_reducible intro _

theorem execUeDivu_touches (t : Stall) (n : ThreadNo) (f : InsnFields) (s : State) : StepTouches [.objs,
    .ports, .switch, .coll, .update, .arrays, .mem, .custody, .ledger, .dict, .host, .free, .out] s
    (execUeDivu t n f s) := by
  unfold execUeDivu
  try dsimp only
  repeat' first
    | with_reducible apply OnlyTouches.ofNext
    | with_reducible exact .refl _ _
    | with_reducible assumption
    | (with_reducible apply OnlyTouches.result (State.scalar2_touches _ _ _ _ _); · decide)
    | with_reducible apply OnlyTouches.ite
    | with_reducible apply OnlyTouches.iteStep
    | with_reducible intro _
    | split

theorem execUeRemu_touches (t : Stall) (n : ThreadNo) (f : InsnFields) (s : State) : StepTouches [.objs,
    .ports, .switch, .coll, .update, .arrays, .mem, .custody, .ledger, .dict, .host, .free, .out] s
    (execUeRemu t n f s) := by
  unfold execUeRemu
  try dsimp only
  repeat' first
    | with_reducible apply OnlyTouches.ofNext
    | with_reducible exact .refl _ _
    | with_reducible assumption
    | (with_reducible apply OnlyTouches.result (State.scalar2_touches _ _ _ _ _); · decide)
    | with_reducible apply OnlyTouches.ite
    | with_reducible apply OnlyTouches.iteStep
    | with_reducible intro _
    | split

theorem execUeAnd_touches (t : Stall) (n : ThreadNo) (f : InsnFields) (s : State) : StepTouches [.objs,
    .ports, .switch, .coll, .update, .arrays, .mem, .custody, .ledger, .dict, .host, .free, .out] s
    (execUeAnd t n f s) := by
  unfold execUeAnd
  try dsimp only
  repeat' first
    | with_reducible apply OnlyTouches.ofNext
    | with_reducible exact .refl _ _
    | with_reducible assumption
    | (with_reducible apply OnlyTouches.result (State.scalar2_touches _ _ _ _ _); · decide)
    | with_reducible intro _

theorem execUeOr_touches (t : Stall) (n : ThreadNo) (f : InsnFields) (s : State) : StepTouches [.objs,
    .ports, .switch, .coll, .update, .arrays, .mem, .custody, .ledger, .dict, .host, .free, .out] s
    (execUeOr t n f s) := by
  unfold execUeOr
  try dsimp only
  repeat' first
    | with_reducible apply OnlyTouches.ofNext
    | with_reducible exact .refl _ _
    | with_reducible assumption
    | (with_reducible apply OnlyTouches.result (State.scalar2_touches _ _ _ _ _); · decide)
    | with_reducible intro _

theorem execUeXor_touches (t : Stall) (n : ThreadNo) (f : InsnFields) (s : State) : StepTouches [.objs,
    .ports, .switch, .coll, .update, .arrays, .mem, .custody, .ledger, .dict, .host, .free, .out] s
    (execUeXor t n f s) := by
  unfold execUeXor
  try dsimp only
  repeat' first
    | with_reducible apply OnlyTouches.ofNext
    | with_reducible exact .refl _ _
    | with_reducible assumption
    | (with_reducible apply OnlyTouches.result (State.scalar2_touches _ _ _ _ _); · decide)
    | with_reducible intro _

theorem execUeShl_touches (t : Stall) (n : ThreadNo) (f : InsnFields) (s : State) : StepTouches [.objs,
    .ports, .switch, .coll, .update, .arrays, .mem, .custody, .ledger, .dict, .host, .free, .out] s
    (execUeShl t n f s) := by
  unfold execUeShl
  try dsimp only
  repeat' first
    | with_reducible apply OnlyTouches.ofNext
    | with_reducible exact .refl _ _
    | with_reducible assumption
    | (with_reducible apply OnlyTouches.result (State.scalar2_touches _ _ _ _ _); · decide)
    | with_reducible intro _

theorem execUeShr_touches (t : Stall) (n : ThreadNo) (f : InsnFields) (s : State) : StepTouches [.objs,
    .ports, .switch, .coll, .update, .arrays, .mem, .custody, .ledger, .dict, .host, .free, .out] s
    (execUeShr t n f s) := by
  unfold execUeShr
  try dsimp only
  repeat' first
    | with_reducible apply OnlyTouches.ofNext
    | with_reducible exact .refl _ _
    | with_reducible assumption
    | (with_reducible apply OnlyTouches.result (State.scalar2_touches _ _ _ _ _); · decide)
    | with_reducible intro _

theorem execUeSra_touches (t : Stall) (n : ThreadNo) (f : InsnFields) (s : State) : StepTouches [.objs,
    .ports, .switch, .coll, .update, .arrays, .mem, .custody, .ledger, .dict, .host, .free, .out] s
    (execUeSra t n f s) := by
  unfold execUeSra
  try dsimp only
  repeat' first
    | with_reducible apply OnlyTouches.ofNext
    | with_reducible exact .refl _ _
    | with_reducible assumption
    | (with_reducible apply OnlyTouches.result (State.scalar2_touches _ _ _ _ _); · decide)
    | with_reducible intro _

theorem execUeAddi_touches (t : Stall) (n : ThreadNo) (f : InsnFields) (s : State) : StepTouches [.objs,
    .ports, .switch, .coll, .update, .arrays, .mem, .custody, .ledger, .dict, .host, .free, .out] s
    (execUeAddi t n f s) := by
  unfold execUeAddi
  try dsimp only
  repeat' first
    | with_reducible apply OnlyTouches.ofNext
    | with_reducible exact .refl _ _
    | with_reducible assumption
    | (with_reducible apply OnlyTouches.result (State.scalar_touches _ _ _ _ _ _); · decide)
    | with_reducible intro _

theorem execUeAndi_touches (t : Stall) (n : ThreadNo) (f : InsnFields) (s : State) : StepTouches [.objs,
    .ports, .switch, .coll, .update, .arrays, .mem, .custody, .ledger, .dict, .host, .free, .out] s
    (execUeAndi t n f s) := by
  unfold execUeAndi
  try dsimp only
  repeat' first
    | with_reducible apply OnlyTouches.ofNext
    | with_reducible exact .refl _ _
    | with_reducible assumption
    | (with_reducible apply OnlyTouches.result (State.scalar_touches _ _ _ _ _ _); · decide)
    | with_reducible intro _

theorem execUeLdi_touches (t : Stall) (n : ThreadNo) (f : InsnFields) (s : State) : StepTouches [.objs,
    .ports, .switch, .coll, .update, .arrays, .mem, .custody, .ledger, .dict, .host, .free, .out] s
    (execUeLdi t n f s) := by
  unfold execUeLdi
  try dsimp only
  repeat' first
    | with_reducible apply OnlyTouches.ofNext
    | with_reducible exact .refl _ _
    | with_reducible assumption
    | (with_reducible apply OnlyTouches.result (State.scalar_touches _ _ _ _ _ _); · decide)
    | with_reducible intro _

theorem execUeLhi_touches (t : Stall) (n : ThreadNo) (f : InsnFields) (s : State) : StepTouches [.objs,
    .ports, .switch, .coll, .update, .arrays, .mem, .custody, .ledger, .dict, .host, .free, .out] s
    (execUeLhi t n f s) := by
  unfold execUeLhi
  try dsimp only
  repeat' first
    | with_reducible apply OnlyTouches.ofNext
    | with_reducible exact .refl _ _
    | with_reducible assumption
    | (with_reducible apply OnlyTouches.result (State.scalar_touches _ _ _ _ _ _); · decide)
    | with_reducible intro _

theorem execUeSlt_touches (t : Stall) (n : ThreadNo) (f : InsnFields) (s : State) : StepTouches [.objs,
    .ports, .switch, .coll, .update, .arrays, .mem, .custody, .ledger, .dict, .host, .free, .out] s
    (execUeSlt t n f s) := by
  unfold execUeSlt
  try dsimp only
  repeat' first
    | with_reducible apply OnlyTouches.ofNext
    | with_reducible exact .refl _ _
    | with_reducible assumption
    | (with_reducible apply OnlyTouches.result (State.scalar2_touches _ _ _ _ _); · decide)
    | with_reducible intro _

theorem execUeSltu_touches (t : Stall) (n : ThreadNo) (f : InsnFields) (s : State) : StepTouches [.objs,
    .ports, .switch, .coll, .update, .arrays, .mem, .custody, .ledger, .dict, .host, .free, .out] s
    (execUeSltu t n f s) := by
  unfold execUeSltu
  try dsimp only
  repeat' first
    | with_reducible apply OnlyTouches.ofNext
    | with_reducible exact .refl _ _
    | with_reducible assumption
    | (with_reducible apply OnlyTouches.result (State.scalar2_touches _ _ _ _ _); · decide)
    | with_reducible intro _

theorem execUeMin_touches (t : Stall) (n : ThreadNo) (f : InsnFields) (s : State) : StepTouches [.objs,
    .ports, .switch, .coll, .update, .arrays, .mem, .custody, .ledger, .dict, .host, .free, .out] s
    (execUeMin t n f s) := by
  unfold execUeMin
  try dsimp only
  repeat' first
    | with_reducible apply OnlyTouches.ofNext
    | with_reducible exact .refl _ _
    | with_reducible assumption
    | (with_reducible apply OnlyTouches.result (State.scalar2_touches _ _ _ _ _); · decide)
    | with_reducible apply OnlyTouches.ite
    | with_reducible apply OnlyTouches.iteStep
    | with_reducible intro _
    | split

theorem execUeMax_touches (t : Stall) (n : ThreadNo) (f : InsnFields) (s : State) : StepTouches [.objs,
    .ports, .switch, .coll, .update, .arrays, .mem, .custody, .ledger, .dict, .host, .free, .out] s
    (execUeMax t n f s) := by
  unfold execUeMax
  try dsimp only
  repeat' first
    | with_reducible apply OnlyTouches.ofNext
    | with_reducible exact .refl _ _
    | with_reducible assumption
    | (with_reducible apply OnlyTouches.result (State.scalar2_touches _ _ _ _ _); · decide)
    | with_reducible apply OnlyTouches.ite
    | with_reducible apply OnlyTouches.iteStep
    | with_reducible intro _
    | split

theorem execUeFadd_touches (t : Stall) (n : ThreadNo) (f : InsnFields) (s : State) : StepTouches [.objs,
    .ports, .switch, .coll, .update, .arrays, .mem, .custody, .ledger, .dict, .host, .free, .out] s
    (execUeFadd t n f s) := by
  unfold execUeFadd
  try dsimp only
  repeat' first
    | with_reducible apply OnlyTouches.ofNext
    | with_reducible exact .refl _ _
    | with_reducible assumption
    | (with_reducible apply OnlyTouches.result (State.scalar2_touches _ _ _ _ _); · decide)
    | with_reducible intro _

theorem execUeFsub_touches (t : Stall) (n : ThreadNo) (f : InsnFields) (s : State) : StepTouches [.objs,
    .ports, .switch, .coll, .update, .arrays, .mem, .custody, .ledger, .dict, .host, .free, .out] s
    (execUeFsub t n f s) := by
  unfold execUeFsub
  try dsimp only
  repeat' first
    | with_reducible apply OnlyTouches.ofNext
    | with_reducible exact .refl _ _
    | with_reducible assumption
    | (with_reducible apply OnlyTouches.result (State.scalar2_touches _ _ _ _ _); · decide)
    | with_reducible intro _

theorem execUeFmul_touches (t : Stall) (n : ThreadNo) (f : InsnFields) (s : State) : StepTouches [.objs,
    .ports, .switch, .coll, .update, .arrays, .mem, .custody, .ledger, .dict, .host, .free, .out] s
    (execUeFmul t n f s) := by
  unfold execUeFmul
  try dsimp only
  repeat' first
    | with_reducible apply OnlyTouches.ofNext
    | with_reducible exact .refl _ _
    | with_reducible assumption
    | (with_reducible apply OnlyTouches.result (State.scalar2_touches _ _ _ _ _); · decide)
    | with_reducible intro _

theorem execUeFfma_touches (t : Stall) (n : ThreadNo) (f : InsnFields) (s : State) : StepTouches [.objs,
    .ports, .switch, .coll, .update, .arrays, .mem, .custody, .ledger, .dict, .host, .free, .out] s
    (execUeFfma t n f s) := by
  unfold execUeFfma
  try dsimp only
  repeat' first
    | with_reducible apply OnlyTouches.ofNext
    | with_reducible exact .refl _ _
    | with_reducible assumption
    | (with_reducible apply OnlyTouches.result (State.scalar_touches _ _ _ _ _ _); · decide)
    | with_reducible intro _

theorem execUeFdiv_touches (t : Stall) (n : ThreadNo) (f : InsnFields) (s : State) : StepTouches [.objs,
    .ports, .switch, .coll, .update, .arrays, .mem, .custody, .ledger, .dict, .host, .free, .out] s
    (execUeFdiv t n f s) := by
  unfold execUeFdiv
  try dsimp only
  repeat' first
    | with_reducible apply OnlyTouches.ofNext
    | with_reducible exact .refl _ _
    | with_reducible assumption
    | (with_reducible apply OnlyTouches.result (State.scalar2_touches _ _ _ _ _); · decide)
    | with_reducible intro _

theorem execUeFsqrt_touches (t : Stall) (n : ThreadNo) (f : InsnFields) (s : State) : StepTouches [.objs,
    .ports, .switch, .coll, .update, .arrays, .mem, .custody, .ledger, .dict, .host, .free, .out] s
    (execUeFsqrt t n f s) := by
  unfold execUeFsqrt
  try dsimp only
  repeat' first
    | with_reducible apply OnlyTouches.ofNext
    | with_reducible exact .refl _ _
    | with_reducible assumption
    | (with_reducible apply OnlyTouches.result (State.scalar_touches _ _ _ _ _ _); · decide)
    | with_reducible intro _

theorem execUeFcvt_touches (t : Stall) (n : ThreadNo) (f : InsnFields) (s : State) : StepTouches [.objs,
    .ports, .switch, .coll, .update, .arrays, .mem, .custody, .ledger, .dict, .host, .free, .out] s
    (execUeFcvt t n f s) := by
  unfold execUeFcvt
  try dsimp only
  repeat' first
    | with_reducible apply OnlyTouches.ofNext
    | with_reducible exact .refl _ _
    | with_reducible assumption
    | (with_reducible apply OnlyTouches.result (State.scalar_touches _ _ _ _ _ _); · decide)
    | with_reducible intro _
    | split

theorem execUeFlt_touches (t : Stall) (n : ThreadNo) (f : InsnFields) (s : State) : StepTouches [.objs,
    .ports, .switch, .coll, .update, .arrays, .mem, .custody, .ledger, .dict, .host, .free, .out] s
    (execUeFlt t n f s) := by
  unfold execUeFlt
  try dsimp only
  repeat' first
    | with_reducible apply OnlyTouches.ofNext
    | with_reducible exact .refl _ _
    | with_reducible assumption
    | (with_reducible apply OnlyTouches.result (State.scalar2_touches _ _ _ _ _); · decide)
    | with_reducible intro _

theorem execUeCsrr_touches (t : Stall) (n : ThreadNo) (f : InsnFields) (s : State) : StepTouches [.objs,
    .ports, .switch, .coll, .update, .arrays, .mem, .custody, .ledger, .dict, .host, .free, .out] s
    (execUeCsrr t n f s) := by
  unfold execUeCsrr
  try dsimp only
  repeat' first
    | with_reducible apply OnlyTouches.ofNext
    | with_reducible exact .refl _ _
    | with_reducible assumption
    | (with_reducible apply OnlyTouches.after (State.draw_touches _); · decide)
    | (with_reducible apply State.insn_touches; · decide)
    | (with_reducible apply OnlyTouches.after (State.retire_touches _ _ _ _); · decide)
    | with_reducible apply OnlyTouches.ite
    | with_reducible apply OnlyTouches.iteStep
    | with_reducible intro _
    | split

theorem execUeBr_touches (t : Stall) (n : ThreadNo) (f : InsnFields) (s : State) : StepTouches [.objs,
    .ports, .switch, .coll, .update, .arrays, .mem, .custody, .ledger, .dict, .host, .free, .out] s
    (execUeBr t n f s) := by
  unfold execUeBr
  try dsimp only
  repeat' first
    | with_reducible apply OnlyTouches.ofNext
    | with_reducible exact .refl _ _
    | with_reducible assumption
    | (with_reducible apply OnlyTouches.after (State.setThread_touches _ _ _ _); · decide)
    | (with_reducible apply State.insn_touches; · decide)
    | (with_reducible apply OnlyTouches.after (State.retire_touches _ _ _ _); · decide)
    | with_reducible apply OnlyTouches.ite
    | with_reducible apply OnlyTouches.iteStep
    | with_reducible intro _
    | split

theorem execUeJal_touches (t : Stall) (n : ThreadNo) (f : InsnFields) (s : State) : StepTouches [.objs,
    .ports, .switch, .coll, .update, .arrays, .mem, .custody, .ledger, .dict, .host, .free, .out] s
    (execUeJal t n f s) := by
  unfold execUeJal
  try dsimp only
  repeat' first
    | with_reducible apply OnlyTouches.ofNext
    | with_reducible exact .refl _ _
    | with_reducible assumption
    | (with_reducible apply OnlyTouches.after (State.setThread_touches _ _ _ _); · decide)
    | (with_reducible apply State.insn_touches; · decide)
    | with_reducible intro _

theorem execUeJr_touches (t : Stall) (n : ThreadNo) (f : InsnFields) (s : State) : StepTouches [.objs,
    .ports, .switch, .coll, .update, .arrays, .mem, .custody, .ledger, .dict, .host, .free, .out] s
    (execUeJr t n f s) := by
  unfold execUeJr
  try dsimp only
  repeat' first
    | with_reducible exact OnlyTouches.ofFault _
    | with_reducible apply OnlyTouches.ofNext
    | with_reducible exact .refl _ _
    | with_reducible assumption
    | (with_reducible apply OnlyTouches.after (State.setThread_touches _ _ _ _); · decide)
    | (with_reducible apply OnlyTouches.after (State.faultThread_touches _ _ _ _ _); · decide)
    | (with_reducible apply State.insn_touches; · decide)
    | with_reducible apply OnlyTouches.ite
    | with_reducible apply OnlyTouches.iteStep
    | with_reducible intro _
    | split

end Sys2Proof.Machine
end

