-- ==== Sys2Proof/Laws/KeepInsn.lean ====
section
/-! SUPPORT. The operations of Machine/Insn.lean keep the invariant. -/

namespace Sys2Proof.Machine

theorem State.insnMismatch_keeps (s : State) (t n : Nat) (adder : Option Nat) : Keeps s (State.insnMismatch
    s t n adder) := by
  unfold State.insnMismatch
  try dsimp only
  repeat' first
    | with_reducible exact .refl _
    | with_reducible assumption
    | with_reducible apply Keeps.when
    | ((with_reducible apply Keeps.afterT (State.bump_touches _ _ _)); · rfl)
    | with_reducible apply Keeps.after (State.eventObj_keeps _ _ _ _)
    | ((with_reducible apply Keeps.afterT (State.count_touches _ _ _ _ _)); · rfl)
    | with_reducible apply Keeps.after (State.adderMismatch_keeps _ _ _)
    | ((with_reducible apply Keeps.afterT (State.modTeam_touches _ _ _ _)); · rfl)
    | with_reducible intro _
    | split
    | with_reducible refine Keeps.pair (by assumption) ?_
    | dsimp only

theorem State.struck_keeps (s : State) (t n : Nat) (adder : Option Nat) (x0 : Upset) : Keeps s
    (State.struck s t n adder x0) := by
  unfold State.struck
  try dsimp only
  repeat' first
    | with_reducible exact .refl _
    | with_reducible assumption
    | ((with_reducible apply Keeps.afterT (State.sramFixed_touches _ _)); · rfl)
    | with_reducible apply Keeps.after (State.insnMismatch_keeps _ _ _ _)
    | with_reducible intro _
    | split

theorem State.insnAt_keeps (s : State) (t : Stall) (n : ThreadNo)
    (f : InsnFields) (g : Form) (vec : Bool) (adder : Thread → Option Nat) (body : State → Thread → Option State)
    (hf : ∀ u x, OptKeeps u (body u x)) : StepKeeps s (State.insnAt s t n f g vec adder body) := by
  unfold State.insnAt
  dsimp only
  apply Keeps.ofNext
  with_reducible apply Keeps.ite
  · exact .refl _
  with_reducible apply Keeps.ite
  · exact State.faultThread_keeps _ _ _ _ _
  with_reducible apply Keeps.ite
  · exact State.faultThread_keeps _ _ _ _ _
  with_reducible apply Keeps.ite
  · exact State.faultThread_keeps _ _ _ _ _
  with_reducible apply Keeps.ite
  · exact State.faultThread_keeps _ _ _ _ _
  split
  · next s' he =>
    have h : Keeps s s' := by
      refine Keeps.afterOpt (hf _ _) he (.when _ (.afterT (State.windowCount_touches _ _ _) rfl
        (.afterT (State.count_touches _ _ _ _ _) rfl (.refl _))) fun u => ?_)
      exact .afterT (State.count_touches _ _ _ _ _) rfl (.afterT (State.bump_touches _ _ _) rfl (.refl _))
    with_reducible apply Keeps.ite
    · exact h
    · exact .after (State.struck_keeps _ _ _ _ _) h
  · exact .refl _

theorem State.insnTry_keeps (s : State) (t : Stall) (n : ThreadNo)
    (f : InsnFields) (g : Form) (vec : Bool) (body : State → Thread → Option State)
    (hf : ∀ u x, OptKeeps u (body u x)) : StepKeeps s (State.insnTry s t n f g vec body) :=
  State.insnAt_keeps s t n f g vec _ body hf

theorem State.insn_keeps (s : State) (t : Stall) (n : ThreadNo)
    (f : InsnFields) (g : Form) (vec : Bool) (body : State → Thread → State)
    (hf : ∀ u x, Keeps u (body u x)) : StepKeeps s (State.insn s t n f g vec body) :=
  State.insnTry_keeps s t n f g vec _ fun u x => .ofSome (hf u x)

theorem State.scalar_keeps (s : State) (t : Stall) (n : ThreadNo) (f : InsnFields) (g : Form) (op : Thread
    → Word) : StepKeeps s (State.scalar s t n f g op) := by
  unfold State.scalar
  try dsimp only
  repeat' first
    | with_reducible apply Keeps.ofNext
    | with_reducible exact .refl _
    | with_reducible assumption
    | (with_reducible apply State.insn_keeps)
    | ((with_reducible apply Keeps.afterT (State.retire_touches _ _ _ _)); · rfl)
    | with_reducible intro _

theorem State.scalar2_keeps (s : State) (t : Stall) (n : ThreadNo) (f : InsnFields) (op : Word → Word →
    Word) : StepKeeps s (State.scalar2 s t n f op) := by
  unfold State.scalar2
  try dsimp only
  repeat' first
    | with_reducible apply Keeps.ofNext
    | with_reducible exact .refl _
    | with_reducible assumption
    | with_reducible exact State.scalar_keeps _ _ _ _ _ _
    | with_reducible intro _

theorem execUeNop_keeps (t : Stall) (n : ThreadNo) (f : InsnFields) (s : State) : StepKeeps s (execUeNop t
    n f s) := by
  unfold execUeNop
  try dsimp only
  repeat' first
    | with_reducible apply Keeps.ofNext
    | with_reducible exact .refl _
    | with_reducible assumption
    | (with_reducible apply State.insn_keeps)
    | ((with_reducible apply Keeps.afterT (State.retire_touches _ _ _ _)); · rfl)
    | with_reducible intro _

theorem execUeAdd_keeps (t : Stall) (n : ThreadNo) (f : InsnFields) (s : State) : StepKeeps s (execUeAdd t
    n f s) := by
  unfold execUeAdd
  try dsimp only
  repeat' first
    | with_reducible apply Keeps.ofNext
    | with_reducible exact .refl _
    | with_reducible assumption
    | with_reducible exact State.scalar2_keeps _ _ _ _ _
    | with_reducible intro _

theorem execUeSub_keeps (t : Stall) (n : ThreadNo) (f : InsnFields) (s : State) : StepKeeps s (execUeSub t
    n f s) := by
  unfold execUeSub
  try dsimp only
  repeat' first
    | with_reducible apply Keeps.ofNext
    | with_reducible exact .refl _
    | with_reducible assumption
    | with_reducible exact State.scalar2_keeps _ _ _ _ _
    | with_reducible intro _

theorem execUeMul_keeps (t : Stall) (n : ThreadNo) (f : InsnFields) (s : State) : StepKeeps s (execUeMul t
    n f s) := by
  unfold execUeMul
  try dsimp only
  repeat' first
    | with_reducible apply Keeps.ofNext
    | with_reducible exact .refl _
    | with_reducible assumption
    | with_reducible exact State.scalar2_keeps _ _ _ _ _
    | with_reducible intro _

theorem execUeDivu_keeps (t : Stall) (n : ThreadNo) (f : InsnFields) (s : State) : StepKeeps s (execUeDivu
    t n f s) := by
  unfold execUeDivu
  try dsimp only
  repeat' first
    | with_reducible apply Keeps.ofNext
    | with_reducible exact .refl _
    | with_reducible assumption
    | with_reducible exact State.scalar2_keeps _ _ _ _ _
    | with_reducible apply Keeps.ite
    | with_reducible apply Keeps.iteStep
    | with_reducible intro _
    | split

theorem execUeRemu_keeps (t : Stall) (n : ThreadNo) (f : InsnFields) (s : State) : StepKeeps s (execUeRemu
    t n f s) := by
  unfold execUeRemu
  try dsimp only
  repeat' first
    | with_reducible apply Keeps.ofNext
    | with_reducible exact .refl _
    | with_reducible assumption
    | with_reducible exact State.scalar2_keeps _ _ _ _ _
    | with_reducible apply Keeps.ite
    | with_reducible apply Keeps.iteStep
    | with_reducible intro _
    | split

theorem execUeAnd_keeps (t : Stall) (n : ThreadNo) (f : InsnFields) (s : State) : StepKeeps s (execUeAnd t
    n f s) := by
  unfold execUeAnd
  try dsimp only
  repeat' first
    | with_reducible apply Keeps.ofNext
    | with_reducible exact .refl _
    | with_reducible assumption
    | with_reducible exact State.scalar2_keeps _ _ _ _ _
    | with_reducible intro _

theorem execUeOr_keeps (t : Stall) (n : ThreadNo) (f : InsnFields) (s : State) : StepKeeps s (execUeOr t n
    f s) := by
  unfold execUeOr
  try dsimp only
  repeat' first
    | with_reducible apply Keeps.ofNext
    | with_reducible exact .refl _
    | with_reducible assumption
    | with_reducible exact State.scalar2_keeps _ _ _ _ _
    | with_reducible intro _

theorem execUeXor_keeps (t : Stall) (n : ThreadNo) (f : InsnFields) (s : State) : StepKeeps s (execUeXor t
    n f s) := by
  unfold execUeXor
  try dsimp only
  repeat' first
    | with_reducible apply Keeps.ofNext
    | with_reducible exact .refl _
    | with_reducible assumption
    | with_reducible exact State.scalar2_keeps _ _ _ _ _
    | with_reducible intro _

theorem execUeShl_keeps (t : Stall) (n : ThreadNo) (f : InsnFields) (s : State) : StepKeeps s (execUeShl t
    n f s) := by
  unfold execUeShl
  try dsimp only
  repeat' first
    | with_reducible apply Keeps.ofNext
    | with_reducible exact .refl _
    | with_reducible assumption
    | with_reducible exact State.scalar2_keeps _ _ _ _ _
    | with_reducible intro _

theorem execUeShr_keeps (t : Stall) (n : ThreadNo) (f : InsnFields) (s : State) : StepKeeps s (execUeShr t
    n f s) := by
  unfold execUeShr
  try dsimp only
  repeat' first
    | with_reducible apply Keeps.ofNext
    | with_reducible exact .refl _
    | with_reducible assumption
    | with_reducible exact State.scalar2_keeps _ _ _ _ _
    | with_reducible intro _

theorem execUeSra_keeps (t : Stall) (n : ThreadNo) (f : InsnFields) (s : State) : StepKeeps s (execUeSra t
    n f s) := by
  unfold execUeSra
  try dsimp only
  repeat' first
    | with_reducible apply Keeps.ofNext
    | with_reducible exact .refl _
    | with_reducible assumption
    | with_reducible exact State.scalar2_keeps _ _ _ _ _
    | with_reducible intro _

theorem execUeAddi_keeps (t : Stall) (n : ThreadNo) (f : InsnFields) (s : State) : StepKeeps s (execUeAddi
    t n f s) := by
  unfold execUeAddi
  try dsimp only
  repeat' first
    | with_reducible apply Keeps.ofNext
    | with_reducible exact .refl _
    | with_reducible assumption
    | with_reducible exact State.scalar_keeps _ _ _ _ _ _
    | with_reducible intro _

theorem execUeAndi_keeps (t : Stall) (n : ThreadNo) (f : InsnFields) (s : State) : StepKeeps s (execUeAndi
    t n f s) := by
  unfold execUeAndi
  try dsimp only
  repeat' first
    | with_reducible apply Keeps.ofNext
    | with_reducible exact .refl _
    | with_reducible assumption
    | with_reducible exact State.scalar_keeps _ _ _ _ _ _
    | with_reducible intro _

theorem execUeLdi_keeps (t : Stall) (n : ThreadNo) (f : InsnFields) (s : State) : StepKeeps s (execUeLdi t
    n f s) := by
  unfold execUeLdi
  try dsimp only
  repeat' first
    | with_reducible apply Keeps.ofNext
    | with_reducible exact .refl _
    | with_reducible assumption
    | with_reducible exact State.scalar_keeps _ _ _ _ _ _
    | with_reducible intro _

theorem execUeLhi_keeps (t : Stall) (n : ThreadNo) (f : InsnFields) (s : State) : StepKeeps s (execUeLhi t
    n f s) := by
  unfold execUeLhi
  try dsimp only
  repeat' first
    | with_reducible apply Keeps.ofNext
    | with_reducible exact .refl _
    | with_reducible assumption
    | with_reducible exact State.scalar_keeps _ _ _ _ _ _
    | with_reducible intro _

theorem execUeSlt_keeps (t : Stall) (n : ThreadNo) (f : InsnFields) (s : State) : StepKeeps s (execUeSlt t
    n f s) := by
  unfold execUeSlt
  try dsimp only
  repeat' first
    | with_reducible apply Keeps.ofNext
    | with_reducible exact .refl _
    | with_reducible assumption
    | with_reducible exact State.scalar2_keeps _ _ _ _ _
    | with_reducible intro _

theorem execUeSltu_keeps (t : Stall) (n : ThreadNo) (f : InsnFields) (s : State) : StepKeeps s (execUeSltu
    t n f s) := by
  unfold execUeSltu
  try dsimp only
  repeat' first
    | with_reducible apply Keeps.ofNext
    | with_reducible exact .refl _
    | with_reducible assumption
    | with_reducible exact State.scalar2_keeps _ _ _ _ _
    | with_reducible intro _

theorem execUeMin_keeps (t : Stall) (n : ThreadNo) (f : InsnFields) (s : State) : StepKeeps s (execUeMin t
    n f s) := by
  unfold execUeMin
  try dsimp only
  repeat' first
    | with_reducible apply Keeps.ofNext
    | with_reducible exact .refl _
    | with_reducible assumption
    | with_reducible exact State.scalar2_keeps _ _ _ _ _
    | with_reducible apply Keeps.ite
    | with_reducible apply Keeps.iteStep
    | with_reducible intro _
    | split

theorem execUeMax_keeps (t : Stall) (n : ThreadNo) (f : InsnFields) (s : State) : StepKeeps s (execUeMax t
    n f s) := by
  unfold execUeMax
  try dsimp only
  repeat' first
    | with_reducible apply Keeps.ofNext
    | with_reducible exact .refl _
    | with_reducible assumption
    | with_reducible exact State.scalar2_keeps _ _ _ _ _
    | with_reducible apply Keeps.ite
    | with_reducible apply Keeps.iteStep
    | with_reducible intro _
    | split

theorem execUeFadd_keeps (t : Stall) (n : ThreadNo) (f : InsnFields) (s : State) : StepKeeps s (execUeFadd
    t n f s) := by
  unfold execUeFadd
  try dsimp only
  repeat' first
    | with_reducible apply Keeps.ofNext
    | with_reducible exact .refl _
    | with_reducible assumption
    | with_reducible exact State.scalar2_keeps _ _ _ _ _
    | with_reducible intro _

theorem execUeFsub_keeps (t : Stall) (n : ThreadNo) (f : InsnFields) (s : State) : StepKeeps s (execUeFsub
    t n f s) := by
  unfold execUeFsub
  try dsimp only
  repeat' first
    | with_reducible apply Keeps.ofNext
    | with_reducible exact .refl _
    | with_reducible assumption
    | with_reducible exact State.scalar2_keeps _ _ _ _ _
    | with_reducible intro _

theorem execUeFmul_keeps (t : Stall) (n : ThreadNo) (f : InsnFields) (s : State) : StepKeeps s (execUeFmul
    t n f s) := by
  unfold execUeFmul
  try dsimp only
  repeat' first
    | with_reducible apply Keeps.ofNext
    | with_reducible exact .refl _
    | with_reducible assumption
    | with_reducible exact State.scalar2_keeps _ _ _ _ _
    | with_reducible intro _

theorem execUeFfma_keeps (t : Stall) (n : ThreadNo) (f : InsnFields) (s : State) : StepKeeps s (execUeFfma
    t n f s) := by
  unfold execUeFfma
  try dsimp only
  repeat' first
    | with_reducible apply Keeps.ofNext
    | with_reducible exact .refl _
    | with_reducible assumption
    | with_reducible exact State.scalar_keeps _ _ _ _ _ _
    | with_reducible intro _

theorem execUeFdiv_keeps (t : Stall) (n : ThreadNo) (f : InsnFields) (s : State) : StepKeeps s (execUeFdiv
    t n f s) := by
  unfold execUeFdiv
  try dsimp only
  repeat' first
    | with_reducible apply Keeps.ofNext
    | with_reducible exact .refl _
    | with_reducible assumption
    | with_reducible exact State.scalar2_keeps _ _ _ _ _
    | with_reducible intro _

theorem execUeFsqrt_keeps (t : Stall) (n : ThreadNo) (f : InsnFields) (s : State) : StepKeeps s
    (execUeFsqrt t n f s) := by
  unfold execUeFsqrt
  try dsimp only
  repeat' first
    | with_reducible apply Keeps.ofNext
    | with_reducible exact .refl _
    | with_reducible assumption
    | with_reducible exact State.scalar_keeps _ _ _ _ _ _
    | with_reducible intro _

theorem execUeFcvt_keeps (t : Stall) (n : ThreadNo) (f : InsnFields) (s : State) : StepKeeps s (execUeFcvt
    t n f s) := by
  unfold execUeFcvt
  try dsimp only
  repeat' first
    | with_reducible apply Keeps.ofNext
    | with_reducible exact .refl _
    | with_reducible assumption
    | with_reducible exact State.scalar_keeps _ _ _ _ _ _
    | with_reducible intro _
    | split

theorem execUeFlt_keeps (t : Stall) (n : ThreadNo) (f : InsnFields) (s : State) : StepKeeps s (execUeFlt t
    n f s) := by
  unfold execUeFlt
  try dsimp only
  repeat' first
    | with_reducible apply Keeps.ofNext
    | with_reducible exact .refl _
    | with_reducible assumption
    | with_reducible exact State.scalar2_keeps _ _ _ _ _
    | with_reducible intro _

theorem execUeCsrr_keeps (t : Stall) (n : ThreadNo) (f : InsnFields) (s : State) : StepKeeps s (execUeCsrr
    t n f s) := by
  unfold execUeCsrr
  try dsimp only
  repeat' first
    | with_reducible apply Keeps.ofNext
    | with_reducible exact .refl _
    | with_reducible assumption
    | ((with_reducible apply Keeps.afterT (State.draw_touches _)); · rfl)
    | (with_reducible apply State.insn_keeps)
    | ((with_reducible apply Keeps.afterT (State.retire_touches _ _ _ _)); · rfl)
    | with_reducible apply Keeps.ite
    | with_reducible apply Keeps.iteStep
    | with_reducible intro _
    | split

theorem execUeBr_keeps (t : Stall) (n : ThreadNo) (f : InsnFields) (s : State) : StepKeeps s (execUeBr t n
    f s) := by
  unfold execUeBr
  try dsimp only
  repeat' first
    | with_reducible apply Keeps.ofNext
    | with_reducible exact .refl _
    | with_reducible assumption
    | ((with_reducible apply Keeps.afterT (State.setThread_touches _ _ _ _)); · rfl)
    | (with_reducible apply State.insn_keeps)
    | ((with_reducible apply Keeps.afterT (State.retire_touches _ _ _ _)); · rfl)
    | with_reducible apply Keeps.ite
    | with_reducible apply Keeps.iteStep
    | with_reducible intro _
    | split

theorem execUeJal_keeps (t : Stall) (n : ThreadNo) (f : InsnFields) (s : State) : StepKeeps s (execUeJal t
    n f s) := by
  unfold execUeJal
  try dsimp only
  repeat' first
    | with_reducible apply Keeps.ofNext
    | with_reducible exact .refl _
    | with_reducible assumption
    | ((with_reducible apply Keeps.afterT (State.setThread_touches _ _ _ _)); · rfl)
    | (with_reducible apply State.insn_keeps)
    | with_reducible intro _

theorem execUeJr_keeps (t : Stall) (n : ThreadNo) (f : InsnFields) (s : State) : StepKeeps s (execUeJr t n
    f s) := by
  unfold execUeJr
  try dsimp only
  repeat' first
    | with_reducible exact Keeps.ofFault _
    | with_reducible apply Keeps.ofNext
    | with_reducible exact .refl _
    | with_reducible assumption
    | ((with_reducible apply Keeps.afterT (State.setThread_touches _ _ _ _)); · rfl)
    | with_reducible apply Keeps.after (State.faultThread_keeps _ _ _ _ _)
    | (with_reducible apply State.insn_keeps)
    | with_reducible apply Keeps.ite
    | with_reducible apply Keeps.iteStep
    | with_reducible intro _
    | split

end Sys2Proof.Machine
end

