-- ==== Sys2Proof/Laws/TouchVecInsn.lean ====
section
/-! SUPPORT. Which parts of the state each operation of Machine/VecInsn.lean changes. -/

namespace Sys2Proof.Machine

theorem State.vector_touches (s : State) (t : Stall) (n : ThreadNo) (f : InsnFields) (g : Form) (op :
    Thread → Nat → Lane) : StepTouches [.objs, .ports, .switch, .coll, .update, .arrays, .mem, .custody,
    .ledger, .dict, .host, .free, .out] s (State.vector s t n f g op) := by
  unfold State.vector
  try dsimp only
  repeat' first
    | with_reducible apply OnlyTouches.ofNext
    | with_reducible exact .refl _ _
    | with_reducible assumption
    | (with_reducible apply State.insn_touches; · decide)
    | (with_reducible apply OnlyTouches.after (State.retire_touches _ _ _ _); · decide)
    | with_reducible intro _

theorem State.vector2_touches (s : State) (t : Stall) (n : ThreadNo) (f : InsnFields) (types : List Nat)
    (op : Lane → Lane → Lane) : StepTouches [.objs, .ports, .switch, .coll, .update, .arrays, .mem,
    .custody, .ledger, .dict, .host, .free, .out] s (State.vector2 s t n f types op) := by
  unfold State.vector2
  try dsimp only
  repeat' first
    | with_reducible apply OnlyTouches.ofNext
    | with_reducible exact .refl _ _
    | with_reducible assumption
    | (with_reducible apply OnlyTouches.result (State.vector_touches _ _ _ _ _ _); · decide)
    | with_reducible intro _

theorem State.vector1_touches (s : State) (t : Stall) (n : ThreadNo) (f : InsnFields) (op : Lane → Lane) :
    StepTouches [.objs, .ports, .switch, .coll, .update, .arrays, .mem, .custody, .ledger, .dict, .host,
    .free, .out] s (State.vector1 s t n f op) := by
  unfold State.vector1
  try dsimp only
  repeat' first
    | with_reducible apply OnlyTouches.ofNext
    | with_reducible exact .refl _ _
    | with_reducible assumption
    | (with_reducible apply OnlyTouches.result (State.vector_touches _ _ _ _ _ _); · decide)
    | with_reducible intro _

theorem execUeVadd_touches (t : Stall) (n : ThreadNo) (f : InsnFields) (s : State) : StepTouches [.objs,
    .ports, .switch, .coll, .update, .arrays, .mem, .custody, .ledger, .dict, .host, .free, .out] s
    (execUeVadd t n f s) := by
  unfold execUeVadd
  try dsimp only
  repeat' first
    | with_reducible apply OnlyTouches.ofNext
    | with_reducible exact .refl _ _
    | with_reducible assumption
    | (with_reducible apply OnlyTouches.result (State.vector2_touches _ _ _ _ _ _); · decide)
    | with_reducible intro _

theorem execUeVsub_touches (t : Stall) (n : ThreadNo) (f : InsnFields) (s : State) : StepTouches [.objs,
    .ports, .switch, .coll, .update, .arrays, .mem, .custody, .ledger, .dict, .host, .free, .out] s
    (execUeVsub t n f s) := by
  unfold execUeVsub
  try dsimp only
  repeat' first
    | with_reducible apply OnlyTouches.ofNext
    | with_reducible exact .refl _ _
    | with_reducible assumption
    | (with_reducible apply OnlyTouches.result (State.vector2_touches _ _ _ _ _ _); · decide)
    | with_reducible intro _

theorem execUeVmul_touches (t : Stall) (n : ThreadNo) (f : InsnFields) (s : State) : StepTouches [.objs,
    .ports, .switch, .coll, .update, .arrays, .mem, .custody, .ledger, .dict, .host, .free, .out] s
    (execUeVmul t n f s) := by
  unfold execUeVmul
  try dsimp only
  repeat' first
    | with_reducible apply OnlyTouches.ofNext
    | with_reducible exact .refl _ _
    | with_reducible assumption
    | (with_reducible apply OnlyTouches.result (State.vector2_touches _ _ _ _ _ _); · decide)
    | with_reducible intro _

theorem execUeVfma_touches (t : Stall) (n : ThreadNo) (f : InsnFields) (s : State) : StepTouches [.objs,
    .ports, .switch, .coll, .update, .arrays, .mem, .custody, .ledger, .dict, .host, .free, .out] s
    (execUeVfma t n f s) := by
  unfold execUeVfma
  try dsimp only
  repeat' first
    | with_reducible apply OnlyTouches.ofNext
    | with_reducible exact .refl _ _
    | with_reducible assumption
    | (with_reducible apply OnlyTouches.result (State.vector_touches _ _ _ _ _ _); · decide)
    | with_reducible intro _

theorem execUeVfnma_touches (t : Stall) (n : ThreadNo) (f : InsnFields) (s : State) : StepTouches [.objs,
    .ports, .switch, .coll, .update, .arrays, .mem, .custody, .ledger, .dict, .host, .free, .out] s
    (execUeVfnma t n f s) := by
  unfold execUeVfnma
  try dsimp only
  repeat' first
    | with_reducible apply OnlyTouches.ofNext
    | with_reducible exact .refl _ _
    | with_reducible assumption
    | (with_reducible apply OnlyTouches.result (State.vector_touches _ _ _ _ _ _); · decide)
    | with_reducible intro _

theorem execUeVmin_touches (t : Stall) (n : ThreadNo) (f : InsnFields) (s : State) : StepTouches [.objs,
    .ports, .switch, .coll, .update, .arrays, .mem, .custody, .ledger, .dict, .host, .free, .out] s
    (execUeVmin t n f s) := by
  unfold execUeVmin
  try dsimp only
  repeat' first
    | with_reducible apply OnlyTouches.ofNext
    | with_reducible exact .refl _ _
    | with_reducible assumption
    | (with_reducible apply OnlyTouches.result (State.vector2_touches _ _ _ _ _ _); · decide)
    | with_reducible intro _

theorem execUeVmax_touches (t : Stall) (n : ThreadNo) (f : InsnFields) (s : State) : StepTouches [.objs,
    .ports, .switch, .coll, .update, .arrays, .mem, .custody, .ledger, .dict, .host, .free, .out] s
    (execUeVmax t n f s) := by
  unfold execUeVmax
  try dsimp only
  repeat' first
    | with_reducible apply OnlyTouches.ofNext
    | with_reducible exact .refl _ _
    | with_reducible assumption
    | (with_reducible apply OnlyTouches.result (State.vector2_touches _ _ _ _ _ _); · decide)
    | with_reducible intro _

theorem execUeVdiv_touches (t : Stall) (n : ThreadNo) (f : InsnFields) (s : State) : StepTouches [.objs,
    .ports, .switch, .coll, .update, .arrays, .mem, .custody, .ledger, .dict, .host, .free, .out] s
    (execUeVdiv t n f s) := by
  unfold execUeVdiv
  try dsimp only
  repeat' first
    | with_reducible apply OnlyTouches.ofNext
    | with_reducible exact .refl _ _
    | with_reducible assumption
    | (with_reducible apply OnlyTouches.result (State.vector2_touches _ _ _ _ _ _); · decide)
    | with_reducible intro _

theorem execUeVsqrt_touches (t : Stall) (n : ThreadNo) (f : InsnFields) (s : State) : StepTouches [.objs,
    .ports, .switch, .coll, .update, .arrays, .mem, .custody, .ledger, .dict, .host, .free, .out] s
    (execUeVsqrt t n f s) := by
  unfold execUeVsqrt
  try dsimp only
  repeat' first
    | with_reducible apply OnlyTouches.ofNext
    | with_reducible exact .refl _ _
    | with_reducible assumption
    | (with_reducible apply OnlyTouches.result (State.vector1_touches _ _ _ _ _); · decide)
    | with_reducible intro _

theorem State.vectorNear_touches (s : State) (t : Stall) (n : ThreadNo) (f : InsnFields) (op : FVal → FVal)
    : StepTouches [.objs, .ports, .switch, .coll, .update, .arrays, .mem, .custody, .ledger, .dict, .host,
    .free, .out] s (State.vectorNear s t n f op) := by
  unfold State.vectorNear
  try dsimp only
  repeat' first
    | with_reducible apply OnlyTouches.ofNext
    | with_reducible exact .refl _ _
    | with_reducible assumption
    | (with_reducible apply State.insn_touches; · decide)
    | (with_reducible apply OnlyTouches.after (State.retire_touches _ _ _ _); · decide)
    | with_reducible intro _
    | (with_reducible apply OnlyTouches.put_free; · decide)

theorem execUeVrcp_touches (t : Stall) (n : ThreadNo) (f : InsnFields) (s : State) : StepTouches [.objs,
    .ports, .switch, .coll, .update, .arrays, .mem, .custody, .ledger, .dict, .host, .free, .out] s
    (execUeVrcp t n f s) := by
  unfold execUeVrcp
  try dsimp only
  repeat' first
    | with_reducible apply OnlyTouches.ofNext
    | with_reducible exact .refl _ _
    | with_reducible assumption
    | (with_reducible apply OnlyTouches.result (State.vectorNear_touches _ _ _ _ _); · decide)
    | with_reducible intro _

theorem execUeVrsqrt_touches (t : Stall) (n : ThreadNo) (f : InsnFields) (s : State) : StepTouches [.objs,
    .ports, .switch, .coll, .update, .arrays, .mem, .custody, .ledger, .dict, .host, .free, .out] s
    (execUeVrsqrt t n f s) := by
  unfold execUeVrsqrt
  try dsimp only
  repeat' first
    | with_reducible apply OnlyTouches.ofNext
    | with_reducible exact .refl _ _
    | with_reducible assumption
    | (with_reducible apply OnlyTouches.result (State.vectorNear_touches _ _ _ _ _); · decide)
    | with_reducible intro _

theorem execUeVabs_touches (t : Stall) (n : ThreadNo) (f : InsnFields) (s : State) : StepTouches [.objs,
    .ports, .switch, .coll, .update, .arrays, .mem, .custody, .ledger, .dict, .host, .free, .out] s
    (execUeVabs t n f s) := by
  unfold execUeVabs
  try dsimp only
  repeat' first
    | with_reducible apply OnlyTouches.ofNext
    | with_reducible exact .refl _ _
    | with_reducible assumption
    | (with_reducible apply OnlyTouches.result (State.vector1_touches _ _ _ _ _); · decide)
    | with_reducible intro _

theorem execUeVneg_touches (t : Stall) (n : ThreadNo) (f : InsnFields) (s : State) : StepTouches [.objs,
    .ports, .switch, .coll, .update, .arrays, .mem, .custody, .ledger, .dict, .host, .free, .out] s
    (execUeVneg t n f s) := by
  unfold execUeVneg
  try dsimp only
  repeat' first
    | with_reducible apply OnlyTouches.ofNext
    | with_reducible exact .refl _ _
    | with_reducible assumption
    | (with_reducible apply OnlyTouches.result (State.vector1_touches _ _ _ _ _); · decide)
    | with_reducible intro _

theorem execUeVfcmp_touches (t : Stall) (n : ThreadNo) (f : InsnFields) (s : State) : StepTouches [.objs,
    .ports, .switch, .coll, .update, .arrays, .mem, .custody, .ledger, .dict, .host, .free, .out] s
    (execUeVfcmp t n f s) := by
  unfold execUeVfcmp
  try dsimp only
  repeat' first
    | with_reducible apply OnlyTouches.ofNext
    | with_reducible exact .refl _ _
    | with_reducible assumption
    | (with_reducible apply State.insn_touches; · decide)
    | (with_reducible apply OnlyTouches.after (State.retire_touches _ _ _ _); · decide)
    | with_reducible intro _

theorem execUeVsel_touches (t : Stall) (n : ThreadNo) (f : InsnFields) (s : State) : StepTouches [.objs,
    .ports, .switch, .coll, .update, .arrays, .mem, .custody, .ledger, .dict, .host, .free, .out] s
    (execUeVsel t n f s) := by
  unfold execUeVsel
  try dsimp only
  repeat' first
    | with_reducible apply OnlyTouches.ofNext
    | with_reducible exact .refl _ _
    | with_reducible assumption
    | (with_reducible apply OnlyTouches.result (State.vector_touches _ _ _ _ _ _); · decide)
    | with_reducible apply OnlyTouches.ite
    | with_reducible apply OnlyTouches.iteStep
    | with_reducible intro _
    | split

theorem execUeVcvt_touches (t : Stall) (n : ThreadNo) (f : InsnFields) (s : State) : StepTouches [.objs,
    .ports, .switch, .coll, .update, .arrays, .mem, .custody, .ledger, .dict, .host, .free, .out] s
    (execUeVcvt t n f s) := by
  unfold execUeVcvt
  try dsimp only
  repeat' first
    | with_reducible apply OnlyTouches.ofNext
    | with_reducible exact .refl _ _
    | with_reducible assumption
    | (with_reducible apply OnlyTouches.result (State.vector_touches _ _ _ _ _ _); · decide)
    | with_reducible intro _
    | split

theorem execUeVred_touches (t : Stall) (n : ThreadNo) (f : InsnFields) (s : State) : StepTouches [.objs,
    .ports, .switch, .coll, .update, .arrays, .mem, .custody, .ledger, .dict, .host, .free, .out] s
    (execUeVred t n f s) := by
  unfold execUeVred
  try dsimp only
  repeat' first
    | with_reducible apply OnlyTouches.ofNext
    | with_reducible exact .refl _ _
    | with_reducible assumption
    | (with_reducible apply OnlyTouches.after (State.draw_touches _); · decide)
    | (with_reducible apply State.insn_touches; · decide)
    | (with_reducible apply OnlyTouches.after (State.retire_touches _ _ _ _); · decide)
    | with_reducible apply OnlyTouches.ite
    | with_reducible apply OnlyTouches.iteStep
    | with_reducible intro _
    | split

theorem execUeMmov_touches (t : Stall) (n : ThreadNo) (f : InsnFields) (s : State) : StepTouches [.objs,
    .ports, .switch, .coll, .update, .arrays, .mem, .custody, .ledger, .dict, .host, .free, .out] s
    (execUeMmov t n f s) := by
  unfold execUeMmov
  try dsimp only
  repeat' first
    | with_reducible apply OnlyTouches.ofNext
    | with_reducible exact .refl _ _
    | with_reducible assumption
    | (with_reducible apply State.insn_touches; · decide)
    | (with_reducible apply OnlyTouches.after (State.retire_touches _ _ _ _); · decide)
    | with_reducible intro _
    | split

theorem execUeViadd_touches (t : Stall) (n : ThreadNo) (f : InsnFields) (s : State) : StepTouches [.objs,
    .ports, .switch, .coll, .update, .arrays, .mem, .custody, .ledger, .dict, .host, .free, .out] s
    (execUeViadd t n f s) := by
  unfold execUeViadd
  try dsimp only
  repeat' first
    | with_reducible apply OnlyTouches.ofNext
    | with_reducible exact .refl _ _
    | with_reducible assumption
    | (with_reducible apply OnlyTouches.result (State.vector2_touches _ _ _ _ _ _); · decide)
    | with_reducible intro _

theorem execUeVisub_touches (t : Stall) (n : ThreadNo) (f : InsnFields) (s : State) : StepTouches [.objs,
    .ports, .switch, .coll, .update, .arrays, .mem, .custody, .ledger, .dict, .host, .free, .out] s
    (execUeVisub t n f s) := by
  unfold execUeVisub
  try dsimp only
  repeat' first
    | with_reducible apply OnlyTouches.ofNext
    | with_reducible exact .refl _ _
    | with_reducible assumption
    | (with_reducible apply OnlyTouches.result (State.vector2_touches _ _ _ _ _ _); · decide)
    | with_reducible intro _

theorem execUeVimul_touches (t : Stall) (n : ThreadNo) (f : InsnFields) (s : State) : StepTouches [.objs,
    .ports, .switch, .coll, .update, .arrays, .mem, .custody, .ledger, .dict, .host, .free, .out] s
    (execUeVimul t n f s) := by
  unfold execUeVimul
  try dsimp only
  repeat' first
    | with_reducible apply OnlyTouches.ofNext
    | with_reducible exact .refl _ _
    | with_reducible assumption
    | (with_reducible apply OnlyTouches.result (State.vector2_touches _ _ _ _ _ _); · decide)
    | with_reducible intro _

theorem execUeVand_touches (t : Stall) (n : ThreadNo) (f : InsnFields) (s : State) : StepTouches [.objs,
    .ports, .switch, .coll, .update, .arrays, .mem, .custody, .ledger, .dict, .host, .free, .out] s
    (execUeVand t n f s) := by
  unfold execUeVand
  try dsimp only
  repeat' first
    | with_reducible apply OnlyTouches.ofNext
    | with_reducible exact .refl _ _
    | with_reducible assumption
    | (with_reducible apply OnlyTouches.result (State.vector2_touches _ _ _ _ _ _); · decide)
    | with_reducible intro _

theorem execUeVor_touches (t : Stall) (n : ThreadNo) (f : InsnFields) (s : State) : StepTouches [.objs,
    .ports, .switch, .coll, .update, .arrays, .mem, .custody, .ledger, .dict, .host, .free, .out] s
    (execUeVor t n f s) := by
  unfold execUeVor
  try dsimp only
  repeat' first
    | with_reducible apply OnlyTouches.ofNext
    | with_reducible exact .refl _ _
    | with_reducible assumption
    | (with_reducible apply OnlyTouches.result (State.vector2_touches _ _ _ _ _ _); · decide)
    | with_reducible intro _

theorem execUeVxor_touches (t : Stall) (n : ThreadNo) (f : InsnFields) (s : State) : StepTouches [.objs,
    .ports, .switch, .coll, .update, .arrays, .mem, .custody, .ledger, .dict, .host, .free, .out] s
    (execUeVxor t n f s) := by
  unfold execUeVxor
  try dsimp only
  repeat' first
    | with_reducible apply OnlyTouches.ofNext
    | with_reducible exact .refl _ _
    | with_reducible assumption
    | (with_reducible apply OnlyTouches.result (State.vector2_touches _ _ _ _ _ _); · decide)
    | with_reducible intro _

theorem execUeVshl_touches (t : Stall) (n : ThreadNo) (f : InsnFields) (s : State) : StepTouches [.objs,
    .ports, .switch, .coll, .update, .arrays, .mem, .custody, .ledger, .dict, .host, .free, .out] s
    (execUeVshl t n f s) := by
  unfold execUeVshl
  try dsimp only
  repeat' first
    | with_reducible apply OnlyTouches.ofNext
    | with_reducible exact .refl _ _
    | with_reducible assumption
    | (with_reducible apply OnlyTouches.result (State.vector2_touches _ _ _ _ _ _); · decide)
    | with_reducible intro _

theorem execUeVshr_touches (t : Stall) (n : ThreadNo) (f : InsnFields) (s : State) : StepTouches [.objs,
    .ports, .switch, .coll, .update, .arrays, .mem, .custody, .ledger, .dict, .host, .free, .out] s
    (execUeVshr t n f s) := by
  unfold execUeVshr
  try dsimp only
  repeat' first
    | with_reducible apply OnlyTouches.ofNext
    | with_reducible exact .refl _ _
    | with_reducible assumption
    | (with_reducible apply OnlyTouches.result (State.vector2_touches _ _ _ _ _ _); · decide)
    | with_reducible apply OnlyTouches.ite
    | with_reducible apply OnlyTouches.iteStep
    | with_reducible intro _
    | split

theorem execUeVimin_touches (t : Stall) (n : ThreadNo) (f : InsnFields) (s : State) : StepTouches [.objs,
    .ports, .switch, .coll, .update, .arrays, .mem, .custody, .ledger, .dict, .host, .free, .out] s
    (execUeVimin t n f s) := by
  unfold execUeVimin
  try dsimp only
  repeat' first
    | with_reducible apply OnlyTouches.ofNext
    | with_reducible exact .refl _ _
    | with_reducible assumption
    | (with_reducible apply OnlyTouches.result (State.vector2_touches _ _ _ _ _ _); · decide)
    | with_reducible apply OnlyTouches.ite
    | with_reducible apply OnlyTouches.iteStep
    | with_reducible intro _
    | split

theorem execUeVimax_touches (t : Stall) (n : ThreadNo) (f : InsnFields) (s : State) : StepTouches [.objs,
    .ports, .switch, .coll, .update, .arrays, .mem, .custody, .ledger, .dict, .host, .free, .out] s
    (execUeVimax t n f s) := by
  unfold execUeVimax
  try dsimp only
  repeat' first
    | with_reducible apply OnlyTouches.ofNext
    | with_reducible exact .refl _ _
    | with_reducible assumption
    | (with_reducible apply OnlyTouches.result (State.vector2_touches _ _ _ _ _ _); · decide)
    | with_reducible apply OnlyTouches.ite
    | with_reducible apply OnlyTouches.iteStep
    | with_reducible intro _
    | split

theorem execUeVicmp_touches (t : Stall) (n : ThreadNo) (f : InsnFields) (s : State) : StepTouches [.objs,
    .ports, .switch, .coll, .update, .arrays, .mem, .custody, .ledger, .dict, .host, .free, .out] s
    (execUeVicmp t n f s) := by
  unfold execUeVicmp
  try dsimp only
  repeat' first
    | with_reducible apply OnlyTouches.ofNext
    | with_reducible exact .refl _ _
    | with_reducible assumption
    | (with_reducible apply State.insn_touches; · decide)
    | (with_reducible apply OnlyTouches.after (State.retire_touches _ _ _ _); · decide)
    | with_reducible intro _
    | split

theorem execUeVlane_touches (t : Stall) (n : ThreadNo) (f : InsnFields) (s : State) : StepTouches [.objs,
    .ports, .switch, .coll, .update, .arrays, .mem, .custody, .ledger, .dict, .host, .free, .out] s
    (execUeVlane t n f s) := by
  unfold execUeVlane
  try dsimp only
  repeat' first
    | with_reducible apply OnlyTouches.ofNext
    | with_reducible exact .refl _ _
    | with_reducible assumption
    | (with_reducible apply OnlyTouches.result (State.vector_touches _ _ _ _ _ _); · decide)
    | with_reducible intro _

theorem execUeVbcast_touches (t : Stall) (n : ThreadNo) (f : InsnFields) (s : State) : StepTouches [.objs,
    .ports, .switch, .coll, .update, .arrays, .mem, .custody, .ledger, .dict, .host, .free, .out] s
    (execUeVbcast t n f s) := by
  unfold execUeVbcast
  try dsimp only
  repeat' first
    | with_reducible apply OnlyTouches.ofNext
    | with_reducible exact .refl _ _
    | with_reducible assumption
    | (with_reducible apply OnlyTouches.result (State.vector_touches _ _ _ _ _ _); · decide)
    | with_reducible intro _

theorem execUeVext_touches (t : Stall) (n : ThreadNo) (f : InsnFields) (s : State) : StepTouches [.objs,
    .ports, .switch, .coll, .update, .arrays, .mem, .custody, .ledger, .dict, .host, .free, .out] s
    (execUeVext t n f s) := by
  unfold execUeVext
  try dsimp only
  repeat' first
    | with_reducible apply OnlyTouches.ofNext
    | with_reducible exact .refl _ _
    | with_reducible assumption
    | (with_reducible apply State.insn_touches; · decide)
    | (with_reducible apply OnlyTouches.after (State.retire_touches _ _ _ _); · decide)
    | with_reducible apply OnlyTouches.ite
    | with_reducible apply OnlyTouches.iteStep
    | with_reducible intro _
    | split

theorem execUeVins_touches (t : Stall) (n : ThreadNo) (f : InsnFields) (s : State) : StepTouches [.objs,
    .ports, .switch, .coll, .update, .arrays, .mem, .custody, .ledger, .dict, .host, .free, .out] s
    (execUeVins t n f s) := by
  unfold execUeVins
  try dsimp only
  repeat' first
    | with_reducible apply OnlyTouches.ofNext
    | with_reducible exact .refl _ _
    | with_reducible assumption
    | (with_reducible apply State.insn_touches; · decide)
    | (with_reducible apply OnlyTouches.after (State.retire_touches _ _ _ _); · decide)
    | with_reducible intro _

theorem execUeVperm_touches (t : Stall) (n : ThreadNo) (f : InsnFields) (s : State) : StepTouches [.objs,
    .ports, .switch, .coll, .update, .arrays, .mem, .custody, .ledger, .dict, .host, .free, .out] s
    (execUeVperm t n f s) := by
  unfold execUeVperm
  try dsimp only
  repeat' first
    | with_reducible apply OnlyTouches.ofNext
    | with_reducible exact .refl _ _
    | with_reducible assumption
    | (with_reducible apply OnlyTouches.result (State.vector_touches _ _ _ _ _ _); · decide)
    | with_reducible intro _

end Sys2Proof.Machine
end

