-- ==== Sys2Proof/Laws/KeepVecInsn.lean ====
section
/-! SUPPORT. The operations of Machine/VecInsn.lean keep the invariant. -/

namespace Sys2Proof.Machine

theorem State.vector_keeps (s : State) (t : Stall) (n : ThreadNo) (f : InsnFields) (g : Form) (op : Thread
    → Nat → Lane) : StepKeeps s (State.vector s t n f g op) := by
  unfold State.vector
  try dsimp only
  repeat' first
    | with_reducible apply Keeps.ofNext
    | with_reducible exact .refl _
    | with_reducible assumption
    | (with_reducible apply State.insn_keeps)
    | ((with_reducible apply Keeps.afterT (State.retire_touches _ _ _ _)); · rfl)
    | with_reducible intro _

theorem State.vector2_keeps (s : State) (t : Stall) (n : ThreadNo) (f : InsnFields) (types : List Nat) (op
    : Lane → Lane → Lane) : StepKeeps s (State.vector2 s t n f types op) := by
  unfold State.vector2
  try dsimp only
  repeat' first
    | with_reducible apply Keeps.ofNext
    | with_reducible exact .refl _
    | with_reducible assumption
    | with_reducible exact State.vector_keeps _ _ _ _ _ _
    | with_reducible intro _

theorem State.vector1_keeps (s : State) (t : Stall) (n : ThreadNo) (f : InsnFields) (op : Lane → Lane) :
    StepKeeps s (State.vector1 s t n f op) := by
  unfold State.vector1
  try dsimp only
  repeat' first
    | with_reducible apply Keeps.ofNext
    | with_reducible exact .refl _
    | with_reducible assumption
    | with_reducible exact State.vector_keeps _ _ _ _ _ _
    | with_reducible intro _

theorem execUeVadd_keeps (t : Stall) (n : ThreadNo) (f : InsnFields) (s : State) : StepKeeps s (execUeVadd
    t n f s) := by
  unfold execUeVadd
  try dsimp only
  repeat' first
    | with_reducible apply Keeps.ofNext
    | with_reducible exact .refl _
    | with_reducible assumption
    | with_reducible exact State.vector2_keeps _ _ _ _ _ _
    | with_reducible intro _

theorem execUeVsub_keeps (t : Stall) (n : ThreadNo) (f : InsnFields) (s : State) : StepKeeps s (execUeVsub
    t n f s) := by
  unfold execUeVsub
  try dsimp only
  repeat' first
    | with_reducible apply Keeps.ofNext
    | with_reducible exact .refl _
    | with_reducible assumption
    | with_reducible exact State.vector2_keeps _ _ _ _ _ _
    | with_reducible intro _

theorem execUeVmul_keeps (t : Stall) (n : ThreadNo) (f : InsnFields) (s : State) : StepKeeps s (execUeVmul
    t n f s) := by
  unfold execUeVmul
  try dsimp only
  repeat' first
    | with_reducible apply Keeps.ofNext
    | with_reducible exact .refl _
    | with_reducible assumption
    | with_reducible exact State.vector2_keeps _ _ _ _ _ _
    | with_reducible intro _

theorem execUeVfma_keeps (t : Stall) (n : ThreadNo) (f : InsnFields) (s : State) : StepKeeps s (execUeVfma
    t n f s) := by
  unfold execUeVfma
  try dsimp only
  repeat' first
    | with_reducible apply Keeps.ofNext
    | with_reducible exact .refl _
    | with_reducible assumption
    | with_reducible exact State.vector_keeps _ _ _ _ _ _
    | with_reducible intro _

theorem execUeVfnma_keeps (t : Stall) (n : ThreadNo) (f : InsnFields) (s : State) : StepKeeps s
    (execUeVfnma t n f s) := by
  unfold execUeVfnma
  try dsimp only
  repeat' first
    | with_reducible apply Keeps.ofNext
    | with_reducible exact .refl _
    | with_reducible assumption
    | with_reducible exact State.vector_keeps _ _ _ _ _ _
    | with_reducible intro _

theorem execUeVmin_keeps (t : Stall) (n : ThreadNo) (f : InsnFields) (s : State) : StepKeeps s (execUeVmin
    t n f s) := by
  unfold execUeVmin
  try dsimp only
  repeat' first
    | with_reducible apply Keeps.ofNext
    | with_reducible exact .refl _
    | with_reducible assumption
    | with_reducible exact State.vector2_keeps _ _ _ _ _ _
    | with_reducible intro _

theorem execUeVmax_keeps (t : Stall) (n : ThreadNo) (f : InsnFields) (s : State) : StepKeeps s (execUeVmax
    t n f s) := by
  unfold execUeVmax
  try dsimp only
  repeat' first
    | with_reducible apply Keeps.ofNext
    | with_reducible exact .refl _
    | with_reducible assumption
    | with_reducible exact State.vector2_keeps _ _ _ _ _ _
    | with_reducible intro _

theorem execUeVdiv_keeps (t : Stall) (n : ThreadNo) (f : InsnFields) (s : State) : StepKeeps s (execUeVdiv
    t n f s) := by
  unfold execUeVdiv
  try dsimp only
  repeat' first
    | with_reducible apply Keeps.ofNext
    | with_reducible exact .refl _
    | with_reducible assumption
    | with_reducible exact State.vector2_keeps _ _ _ _ _ _
    | with_reducible intro _

theorem execUeVsqrt_keeps (t : Stall) (n : ThreadNo) (f : InsnFields) (s : State) : StepKeeps s
    (execUeVsqrt t n f s) := by
  unfold execUeVsqrt
  try dsimp only
  repeat' first
    | with_reducible apply Keeps.ofNext
    | with_reducible exact .refl _
    | with_reducible assumption
    | with_reducible exact State.vector1_keeps _ _ _ _ _
    | with_reducible intro _

theorem State.vectorNear_keeps (s : State) (t : Stall) (n : ThreadNo) (f : InsnFields) (op : FVal → FVal) :
    StepKeeps s (State.vectorNear s t n f op) := by
  unfold State.vectorNear
  try dsimp only
  repeat' first
    | with_reducible apply Keeps.ofNext
    | with_reducible exact .refl _
    | with_reducible assumption
    | (with_reducible apply State.insn_keeps)
    | ((with_reducible apply Keeps.afterT (State.retire_touches _ _ _ _)); · rfl)
    | with_reducible intro _
    | with_reducible apply Keeps.put_free

theorem execUeVrcp_keeps (t : Stall) (n : ThreadNo) (f : InsnFields) (s : State) : StepKeeps s (execUeVrcp
    t n f s) := by
  unfold execUeVrcp
  try dsimp only
  repeat' first
    | with_reducible apply Keeps.ofNext
    | with_reducible exact .refl _
    | with_reducible assumption
    | with_reducible exact State.vectorNear_keeps _ _ _ _ _
    | with_reducible intro _

theorem execUeVrsqrt_keeps (t : Stall) (n : ThreadNo) (f : InsnFields) (s : State) : StepKeeps s
    (execUeVrsqrt t n f s) := by
  unfold execUeVrsqrt
  try dsimp only
  repeat' first
    | with_reducible apply Keeps.ofNext
    | with_reducible exact .refl _
    | with_reducible assumption
    | with_reducible exact State.vectorNear_keeps _ _ _ _ _
    | with_reducible intro _

theorem execUeVabs_keeps (t : Stall) (n : ThreadNo) (f : InsnFields) (s : State) : StepKeeps s (execUeVabs
    t n f s) := by
  unfold execUeVabs
  try dsimp only
  repeat' first
    | with_reducible apply Keeps.ofNext
    | with_reducible exact .refl _
    | with_reducible assumption
    | with_reducible exact State.vector1_keeps _ _ _ _ _
    | with_reducible intro _

theorem execUeVneg_keeps (t : Stall) (n : ThreadNo) (f : InsnFields) (s : State) : StepKeeps s (execUeVneg
    t n f s) := by
  unfold execUeVneg
  try dsimp only
  repeat' first
    | with_reducible apply Keeps.ofNext
    | with_reducible exact .refl _
    | with_reducible assumption
    | with_reducible exact State.vector1_keeps _ _ _ _ _
    | with_reducible intro _

theorem execUeVfcmp_keeps (t : Stall) (n : ThreadNo) (f : InsnFields) (s : State) : StepKeeps s
    (execUeVfcmp t n f s) := by
  unfold execUeVfcmp
  try dsimp only
  repeat' first
    | with_reducible apply Keeps.ofNext
    | with_reducible exact .refl _
    | with_reducible assumption
    | (with_reducible apply State.insn_keeps)
    | ((with_reducible apply Keeps.afterT (State.retire_touches _ _ _ _)); · rfl)
    | with_reducible intro _

theorem execUeVsel_keeps (t : Stall) (n : ThreadNo) (f : InsnFields) (s : State) : StepKeeps s (execUeVsel
    t n f s) := by
  unfold execUeVsel
  try dsimp only
  repeat' first
    | with_reducible apply Keeps.ofNext
    | with_reducible exact .refl _
    | with_reducible assumption
    | with_reducible exact State.vector_keeps _ _ _ _ _ _
    | with_reducible apply Keeps.ite
    | with_reducible apply Keeps.iteStep
    | with_reducible intro _
    | split

theorem execUeVcvt_keeps (t : Stall) (n : ThreadNo) (f : InsnFields) (s : State) : StepKeeps s (execUeVcvt
    t n f s) := by
  unfold execUeVcvt
  try dsimp only
  repeat' first
    | with_reducible apply Keeps.ofNext
    | with_reducible exact .refl _
    | with_reducible assumption
    | with_reducible exact State.vector_keeps _ _ _ _ _ _
    | with_reducible intro _
    | split

theorem execUeVred_keeps (t : Stall) (n : ThreadNo) (f : InsnFields) (s : State) : StepKeeps s (execUeVred
    t n f s) := by
  unfold execUeVred
  try dsimp only
  repeat' first
    | with_reducible apply Keeps.ofNext
    | with_reducible exact .refl _
    | with_reducible assumption
    | ((with_reducible apply Keeps.afterT (State.draw_touches _)); · rfl)
    | (with_reducible apply State.insn_keeps)
    | ((with_reducible apply Keeps.afterT (State.retire_touches _ _ _ _)); · rfl)
    | with_reducible apply Keeps.ite
    | with_reducible apply Keeps.iteStep
    | with_reducible intro _
    | split

theorem execUeMmov_keeps (t : Stall) (n : ThreadNo) (f : InsnFields) (s : State) : StepKeeps s (execUeMmov
    t n f s) := by
  unfold execUeMmov
  try dsimp only
  repeat' first
    | with_reducible apply Keeps.ofNext
    | with_reducible exact .refl _
    | with_reducible assumption
    | (with_reducible apply State.insn_keeps)
    | ((with_reducible apply Keeps.afterT (State.retire_touches _ _ _ _)); · rfl)
    | with_reducible intro _
    | split

theorem execUeViadd_keeps (t : Stall) (n : ThreadNo) (f : InsnFields) (s : State) : StepKeeps s
    (execUeViadd t n f s) := by
  unfold execUeViadd
  try dsimp only
  repeat' first
    | with_reducible apply Keeps.ofNext
    | with_reducible exact .refl _
    | with_reducible assumption
    | with_reducible exact State.vector2_keeps _ _ _ _ _ _
    | with_reducible intro _

theorem execUeVisub_keeps (t : Stall) (n : ThreadNo) (f : InsnFields) (s : State) : StepKeeps s
    (execUeVisub t n f s) := by
  unfold execUeVisub
  try dsimp only
  repeat' first
    | with_reducible apply Keeps.ofNext
    | with_reducible exact .refl _
    | with_reducible assumption
    | with_reducible exact State.vector2_keeps _ _ _ _ _ _
    | with_reducible intro _

theorem execUeVimul_keeps (t : Stall) (n : ThreadNo) (f : InsnFields) (s : State) : StepKeeps s
    (execUeVimul t n f s) := by
  unfold execUeVimul
  try dsimp only
  repeat' first
    | with_reducible apply Keeps.ofNext
    | with_reducible exact .refl _
    | with_reducible assumption
    | with_reducible exact State.vector2_keeps _ _ _ _ _ _
    | with_reducible intro _

theorem execUeVand_keeps (t : Stall) (n : ThreadNo) (f : InsnFields) (s : State) : StepKeeps s (execUeVand
    t n f s) := by
  unfold execUeVand
  try dsimp only
  repeat' first
    | with_reducible apply Keeps.ofNext
    | with_reducible exact .refl _
    | with_reducible assumption
    | with_reducible exact State.vector2_keeps _ _ _ _ _ _
    | with_reducible intro _

theorem execUeVor_keeps (t : Stall) (n : ThreadNo) (f : InsnFields) (s : State) : StepKeeps s (execUeVor t
    n f s) := by
  unfold execUeVor
  try dsimp only
  repeat' first
    | with_reducible apply Keeps.ofNext
    | with_reducible exact .refl _
    | with_reducible assumption
    | with_reducible exact State.vector2_keeps _ _ _ _ _ _
    | with_reducible intro _

theorem execUeVxor_keeps (t : Stall) (n : ThreadNo) (f : InsnFields) (s : State) : StepKeeps s (execUeVxor
    t n f s) := by
  unfold execUeVxor
  try dsimp only
  repeat' first
    | with_reducible apply Keeps.ofNext
    | with_reducible exact .refl _
    | with_reducible assumption
    | with_reducible exact State.vector2_keeps _ _ _ _ _ _
    | with_reducible intro _

theorem execUeVshl_keeps (t : Stall) (n : ThreadNo) (f : InsnFields) (s : State) : StepKeeps s (execUeVshl
    t n f s) := by
  unfold execUeVshl
  try dsimp only
  repeat' first
    | with_reducible apply Keeps.ofNext
    | with_reducible exact .refl _
    | with_reducible assumption
    | with_reducible exact State.vector2_keeps _ _ _ _ _ _
    | with_reducible intro _

theorem execUeVshr_keeps (t : Stall) (n : ThreadNo) (f : InsnFields) (s : State) : StepKeeps s (execUeVshr
    t n f s) := by
  unfold execUeVshr
  try dsimp only
  repeat' first
    | with_reducible apply Keeps.ofNext
    | with_reducible exact .refl _
    | with_reducible assumption
    | with_reducible exact State.vector2_keeps _ _ _ _ _ _
    | with_reducible apply Keeps.ite
    | with_reducible apply Keeps.iteStep
    | with_reducible intro _
    | split

theorem execUeVimin_keeps (t : Stall) (n : ThreadNo) (f : InsnFields) (s : State) : StepKeeps s
    (execUeVimin t n f s) := by
  unfold execUeVimin
  try dsimp only
  repeat' first
    | with_reducible apply Keeps.ofNext
    | with_reducible exact .refl _
    | with_reducible assumption
    | with_reducible exact State.vector2_keeps _ _ _ _ _ _
    | with_reducible apply Keeps.ite
    | with_reducible apply Keeps.iteStep
    | with_reducible intro _
    | split

theorem execUeVimax_keeps (t : Stall) (n : ThreadNo) (f : InsnFields) (s : State) : StepKeeps s
    (execUeVimax t n f s) := by
  unfold execUeVimax
  try dsimp only
  repeat' first
    | with_reducible apply Keeps.ofNext
    | with_reducible exact .refl _
    | with_reducible assumption
    | with_reducible exact State.vector2_keeps _ _ _ _ _ _
    | with_reducible apply Keeps.ite
    | with_reducible apply Keeps.iteStep
    | with_reducible intro _
    | split

theorem execUeVicmp_keeps (t : Stall) (n : ThreadNo) (f : InsnFields) (s : State) : StepKeeps s
    (execUeVicmp t n f s) := by
  unfold execUeVicmp
  try dsimp only
  repeat' first
    | with_reducible apply Keeps.ofNext
    | with_reducible exact .refl _
    | with_reducible assumption
    | (with_reducible apply State.insn_keeps)
    | ((with_reducible apply Keeps.afterT (State.retire_touches _ _ _ _)); · rfl)
    | with_reducible intro _
    | split

theorem execUeVlane_keeps (t : Stall) (n : ThreadNo) (f : InsnFields) (s : State) : StepKeeps s
    (execUeVlane t n f s) := by
  unfold execUeVlane
  try dsimp only
  repeat' first
    | with_reducible apply Keeps.ofNext
    | with_reducible exact .refl _
    | with_reducible assumption
    | with_reducible exact State.vector_keeps _ _ _ _ _ _
    | with_reducible intro _

theorem execUeVbcast_keeps (t : Stall) (n : ThreadNo) (f : InsnFields) (s : State) : StepKeeps s
    (execUeVbcast t n f s) := by
  unfold execUeVbcast
  try dsimp only
  repeat' first
    | with_reducible apply Keeps.ofNext
    | with_reducible exact .refl _
    | with_reducible assumption
    | with_reducible exact State.vector_keeps _ _ _ _ _ _
    | with_reducible intro _

theorem execUeVext_keeps (t : Stall) (n : ThreadNo) (f : InsnFields) (s : State) : StepKeeps s (execUeVext
    t n f s) := by
  unfold execUeVext
  try dsimp only
  repeat' first
    | with_reducible apply Keeps.ofNext
    | with_reducible exact .refl _
    | with_reducible assumption
    | (with_reducible apply State.insn_keeps)
    | ((with_reducible apply Keeps.afterT (State.retire_touches _ _ _ _)); · rfl)
    | with_reducible apply Keeps.ite
    | with_reducible apply Keeps.iteStep
    | with_reducible intro _
    | split

theorem execUeVins_keeps (t : Stall) (n : ThreadNo) (f : InsnFields) (s : State) : StepKeeps s (execUeVins
    t n f s) := by
  unfold execUeVins
  try dsimp only
  repeat' first
    | with_reducible apply Keeps.ofNext
    | with_reducible exact .refl _
    | with_reducible assumption
    | (with_reducible apply State.insn_keeps)
    | ((with_reducible apply Keeps.afterT (State.retire_touches _ _ _ _)); · rfl)
    | with_reducible intro _

theorem execUeVperm_keeps (t : Stall) (n : ThreadNo) (f : InsnFields) (s : State) : StepKeeps s
    (execUeVperm t n f s) := by
  unfold execUeVperm
  try dsimp only
  repeat' first
    | with_reducible apply Keeps.ofNext
    | with_reducible exact .refl _
    | with_reducible assumption
    | with_reducible exact State.vector_keeps _ _ _ _ _ _
    | with_reducible intro _

end Sys2Proof.Machine
end

