-- ==== Sys2Proof/Laws/TouchInsnMem.lean ====
section
/-! SUPPORT. Which parts of the state each operation of Machine/InsnMem.lean changes. -/

namespace Sys2Proof.Machine

theorem State.mirrorReads_touches (s : State) (t : Stall) (n : ThreadNo) (a len : Nat) : OnlyTouches
    [.objs, .time, .dict, .free] s (State.mirrorReads s t n a len).1 := by
  unfold State.mirrorReads
  try dsimp only
  repeat' first
    | with_reducible exact .refl _ _
    | with_reducible assumption
    | with_reducible apply OnlyTouches.fold
    | with_reducible apply OnlyTouches.foldPair
    | (with_reducible apply OnlyTouches.after (State.dictRead_touches _ _ _ _ _); · decide)
    | (with_reducible apply OnlyTouches.afterPair (State.dictRead_touches _ _ _ _ _); (first | assumption | decide); (first | assumption | decide))
    | with_reducible intro _
    | with_reducible refine OnlyTouches.pair (by assumption) ?_
    | dsimp only

theorem State.mirrorRead_touches (s : State) (t : Stall) (n : ThreadNo) (a len : Nat) : OnlyTouches [.objs,
    .time, .dict, .free] s (State.mirrorRead s t n a len).1 := by
  have e : State.mirrorRead s t n a len = ((State.mirrorReads s t n a len).1,
      ((State.mirrorReads s t n a len).2.drop (a % 8)).take len) := rfl
  rw [e]
  exact .fstMk (State.mirrorReads_touches s t n a len)

theorem State.accessFault_touches (s : State) (t : Stall) (n : ThreadNo) (code a : Nat) : OnlyTouches
    [.objs, .time, .ports, .switch, .coll, .update, .arrays, .mem, .custody, .ledger, .dict, .host, .free,
    .out] s (State.accessFault s t n code a) := by
  unfold State.accessFault
  try dsimp only
  repeat' first
    | with_reducible exact .refl _ _
    | with_reducible assumption
    | (with_reducible apply OnlyTouches.after (State.sramBad_touches _ _); · decide)
    | (with_reducible apply OnlyTouches.after (State.hostError_touches _); · decide)
    | (with_reducible apply OnlyTouches.after (State.faultThread_touches _ _ _ _ _); · decide)
    | (with_reducible apply OnlyTouches.after (State.mirrorRead_touches _ _ _ _ _); · decide)
    | (with_reducible apply OnlyTouches.afterPair (State.mirrorRead_touches _ _ _ _ _); (first | assumption | decide); (first | assumption | decide))
    | with_reducible apply OnlyTouches.ite
    | with_reducible intro _
    | split
    | with_reducible refine OnlyTouches.pair (by assumption) ?_
    | dsimp only

theorem State.readPiece_touches (s : State) (t : Stall) (n : ThreadNo) (p : Piece) : OnlyTouches [.objs,
    .time, .ledger, .dict, .free] s (State.readPiece s t n p).1 := by
  unfold State.readPiece
  try dsimp only
  repeat' first
    | with_reducible exact .refl _ _
    | with_reducible assumption
    | (with_reducible apply OnlyTouches.after (State.countAccess_touches _ _ _ _ _ _); · decide)
    | (with_reducible apply OnlyTouches.after (State.readOpen_touches _ _ _); · decide)
    | (with_reducible apply OnlyTouches.afterPair (State.readOpen_touches _ _ _); (first | assumption | decide); (first | assumption | decide))
    | (with_reducible apply OnlyTouches.after (State.mirrorRead_touches _ _ _ _ _); · decide)
    | (with_reducible apply OnlyTouches.afterPair (State.mirrorRead_touches _ _ _ _ _); (first | assumption | decide); (first | assumption | decide))
    | with_reducible apply OnlyTouches.ite
    | with_reducible intro _
    | split
    | (with_reducible apply OnlyTouches.put_free; · decide)
    | with_reducible refine OnlyTouches.pair (by assumption) ?_
    | dsimp only

theorem State.askHost_touches (s : State) (a bytes : Nat) (u : HostUse) : OnlyTouches [.host] s
    (State.askHost s a bytes u) := by
  unfold State.askHost
  try dsimp only
  repeat' first
    | with_reducible exact .refl _ _
    | with_reducible assumption
    | (with_reducible apply OnlyTouches.after (State.sendReads_touches _); · decide)
    | with_reducible intro _
    | (with_reducible apply OnlyTouches.put_host; · decide)

theorem State.load_touches (s : State) (t : Stall) (n : ThreadNo) (f : InsnFields) (op : Nat) (x : Thread)
    (ps : List Piece) : OptTouches [.objs, .time, .ports, .switch, .coll, .update, .arrays, .mem, .custody,
    .ledger, .dict, .host, .free, .out] s (State.load s t n f op x ps) := by
  unfold State.load
  try dsimp only
  repeat' first
    | with_reducible apply OnlyTouches.ofSome
    | with_reducible exact OnlyTouches.ofNone
    | with_reducible apply OnlyTouches.iteOpt
    | with_reducible exact .refl _ _
    | with_reducible assumption
    | with_reducible apply OnlyTouches.fold
    | with_reducible apply OnlyTouches.foldPair
    | (with_reducible apply OnlyTouches.after (State.setThread_touches _ _ _ _); · decide)
    | (with_reducible apply OnlyTouches.after (State.retire_touches _ _ _ _); · decide)
    | (with_reducible apply OnlyTouches.after (State.accessFault_touches _ _ _ _ _); · decide)
    | (with_reducible apply OnlyTouches.after (State.readPiece_touches _ _ _ _); · decide)
    | (with_reducible apply OnlyTouches.afterPair (State.readPiece_touches _ _ _ _); (first | assumption | decide); (first | assumption | decide))
    | (with_reducible apply OnlyTouches.after (State.askHost_touches _ _ _ _); · decide)
    | with_reducible apply OnlyTouches.ite
    | with_reducible intro _
    | split
    | with_reducible refine OnlyTouches.pair (by assumption) ?_
    | dsimp only

theorem execUeLd_touches (t : Stall) (n : ThreadNo) (f : InsnFields) (s : State) : StepTouches [.objs,
    .time, .ports, .switch, .coll, .update, .arrays, .mem, .custody, .ledger, .dict, .host, .free, .out] s
    (execUeLd t n f s) := by
  unfold execUeLd
  try dsimp only
  repeat' first
    | with_reducible exact OnlyTouches.ofFault _
    | with_reducible apply OnlyTouches.ofNext
    | with_reducible apply OnlyTouches.ofSome
    | with_reducible exact OnlyTouches.ofNone
    | with_reducible apply OnlyTouches.iteOpt
    | with_reducible exact .refl _ _
    | with_reducible assumption
    | (with_reducible apply OnlyTouches.after (State.faultThread_touches _ _ _ _ _); · decide)
    | (with_reducible apply State.insnTry_touches; · decide)
    | (with_reducible apply OnlyTouches.option (State.load_touches _ _ _ _ _ _ _); · decide)
    | (with_reducible apply OnlyTouches.afterOpt (State.load_touches _ _ _ _ _ _ _); (first | assumption | decide); (first | assumption | decide))
    | with_reducible apply OnlyTouches.ite
    | with_reducible apply OnlyTouches.iteStep
    | with_reducible intro _
    | split
    | with_reducible refine OnlyTouches.pair (by assumption) ?_
    | dsimp only

theorem execUeVld_touches (t : Stall) (n : ThreadNo) (f : InsnFields) (s : State) : StepTouches [.objs,
    .time, .ports, .switch, .coll, .update, .arrays, .mem, .custody, .ledger, .dict, .host, .free, .out] s
    (execUeVld t n f s) := by
  unfold execUeVld
  try dsimp only
  repeat' first
    | with_reducible exact OnlyTouches.ofFault _
    | with_reducible apply OnlyTouches.ofNext
    | with_reducible apply OnlyTouches.ofSome
    | with_reducible exact OnlyTouches.ofNone
    | with_reducible apply OnlyTouches.iteOpt
    | with_reducible exact .refl _ _
    | with_reducible assumption
    | (with_reducible apply OnlyTouches.after (State.faultThread_touches _ _ _ _ _); · decide)
    | (with_reducible apply State.insnTry_touches; · decide)
    | (with_reducible apply OnlyTouches.option (State.load_touches _ _ _ _ _ _ _); · decide)
    | (with_reducible apply OnlyTouches.afterOpt (State.load_touches _ _ _ _ _ _ _); (first | assumption | decide); (first | assumption | decide))
    | with_reducible apply OnlyTouches.ite
    | with_reducible apply OnlyTouches.iteStep
    | with_reducible intro _
    | split
    | with_reducible refine OnlyTouches.pair (by assumption) ?_
    | dsimp only

theorem execUeVldx_touches (t : Stall) (n : ThreadNo) (f : InsnFields) (s : State) : StepTouches [.objs,
    .time, .ports, .switch, .coll, .update, .arrays, .mem, .custody, .ledger, .dict, .host, .free, .out] s
    (execUeVldx t n f s) := by
  unfold execUeVldx
  try dsimp only
  repeat' first
    | with_reducible exact OnlyTouches.ofFault _
    | with_reducible apply OnlyTouches.ofNext
    | with_reducible apply OnlyTouches.ofSome
    | with_reducible exact OnlyTouches.ofNone
    | with_reducible apply OnlyTouches.iteOpt
    | with_reducible exact .refl _ _
    | with_reducible assumption
    | (with_reducible apply OnlyTouches.after (State.faultThread_touches _ _ _ _ _); · decide)
    | (with_reducible apply State.insnTry_touches; · decide)
    | (with_reducible apply OnlyTouches.option (State.load_touches _ _ _ _ _ _ _); · decide)
    | (with_reducible apply OnlyTouches.afterOpt (State.load_touches _ _ _ _ _ _ _); (first | assumption | decide); (first | assumption | decide))
    | with_reducible apply OnlyTouches.ite
    | with_reducible apply OnlyTouches.iteStep
    | with_reducible intro _
    | split
    | with_reducible refine OnlyTouches.pair (by assumption) ?_
    | dsimp only

theorem State.loadLanes_touches (s : State) (t : Stall) (n : ThreadNo) (f : InsnFields) (g : Form) (op :
    Nat) (addr : Thread → Nat → Nat) : StepTouches [.objs, .time, .ports, .switch, .coll, .update, .arrays,
    .mem, .custody, .ledger, .dict, .host, .free, .out] s (State.loadLanes s t n f g op addr) := by
  unfold State.loadLanes
  try dsimp only
  repeat' first
    | with_reducible exact OnlyTouches.ofFault _
    | with_reducible apply OnlyTouches.ofNext
    | with_reducible apply OnlyTouches.ofSome
    | with_reducible exact OnlyTouches.ofNone
    | with_reducible apply OnlyTouches.iteOpt
    | with_reducible exact .refl _ _
    | with_reducible assumption
    | (with_reducible apply OnlyTouches.after (State.faultThread_touches _ _ _ _ _); · decide)
    | (with_reducible apply State.insnTry_touches; · decide)
    | (with_reducible apply OnlyTouches.option (State.load_touches _ _ _ _ _ _ _); · decide)
    | (with_reducible apply OnlyTouches.afterOpt (State.load_touches _ _ _ _ _ _ _); (first | assumption | decide); (first | assumption | decide))
    | with_reducible intro _
    | split
    | with_reducible refine OnlyTouches.pair (by assumption) ?_
    | dsimp only

theorem execUeVlds_touches (t : Stall) (n : ThreadNo) (f : InsnFields) (s : State) : StepTouches [.objs,
    .time, .ports, .switch, .coll, .update, .arrays, .mem, .custody, .ledger, .dict, .host, .free, .out] s
    (execUeVlds t n f s) := by
  unfold execUeVlds
  try dsimp only
  repeat' first
    | with_reducible apply OnlyTouches.ofNext
    | with_reducible exact .refl _ _
    | with_reducible assumption
    | (with_reducible apply OnlyTouches.result (State.loadLanes_touches _ _ _ _ _ _ _); · decide)
    | with_reducible intro _
    | with_reducible refine OnlyTouches.pair (by assumption) ?_
    | dsimp only

theorem execUeVgather_touches (t : Stall) (n : ThreadNo) (f : InsnFields) (s : State) : StepTouches [.objs,
    .time, .ports, .switch, .coll, .update, .arrays, .mem, .custody, .ledger, .dict, .host, .free, .out] s
    (execUeVgather t n f s) := by
  unfold execUeVgather
  try dsimp only
  repeat' first
    | with_reducible apply OnlyTouches.ofNext
    | with_reducible exact .refl _ _
    | with_reducible assumption
    | (with_reducible apply OnlyTouches.result (State.loadLanes_touches _ _ _ _ _ _ _); · decide)
    | with_reducible intro _

theorem State.storeFor_touches (s : State) (t : Stall) (n : ThreadNo) (a : Nat) (bs : List Byte) :
    OnlyTouches [.objs, .arrays, .mem, .ledger, .out] s (State.storeFor s t n a bs) := by
  unfold State.storeFor
  try dsimp only
  repeat' first
    | with_reducible exact .refl _ _
    | with_reducible assumption
    | (with_reducible apply OnlyTouches.after (State.store_touches _ _ _); · decide)
    | (with_reducible apply OnlyTouches.after (State.spoil_touches _ _ _); · decide)
    | (with_reducible apply OnlyTouches.after (State.hostStore_touches _ _ _ _); · decide)
    | with_reducible apply OnlyTouches.ite
    | with_reducible intro _
    | split
    | with_reducible refine OnlyTouches.pair (by assumption) ?_
    | dsimp only

theorem State.countPieces_touches (s : State) (t : Stall) (n : ThreadNo) (ps : List Piece) : OnlyTouches
    [.objs, .ledger] s (State.countPieces s t n ps) := by
  unfold State.countPieces
  try dsimp only
  repeat' first
    | with_reducible exact .refl _ _
    | with_reducible assumption
    | with_reducible apply OnlyTouches.fold
    | with_reducible apply OnlyTouches.foldPair
    | (with_reducible apply OnlyTouches.after (State.countAccess_touches _ _ _ _ _ _); · decide)
    | with_reducible apply OnlyTouches.ite
    | with_reducible intro _
    | split
    | with_reducible refine OnlyTouches.pair (by assumption) ?_
    | dsimp only

theorem State.storeAll_touches (s : State) (t : Stall) (n : ThreadNo) (x : Thread) (op : Nat) (ps : List
    Piece) (ws : List (Nat × List Byte)) : OnlyTouches [.objs, .time, .ports, .switch, .coll, .update,
    .arrays, .mem, .custody, .ledger, .dict, .host, .free, .out] s (State.storeAll s t n x op ps ws) := by
  unfold State.storeAll
  try dsimp only
  repeat' first
    | with_reducible exact .refl _ _
    | with_reducible assumption
    | with_reducible apply OnlyTouches.fold
    | with_reducible apply OnlyTouches.foldPair
    | (with_reducible apply OnlyTouches.after (State.write_touches _ _ _); · decide)
    | (with_reducible apply OnlyTouches.after (State.retire_touches _ _ _ _); · decide)
    | (with_reducible apply OnlyTouches.after (State.accessFault_touches _ _ _ _ _); · decide)
    | (with_reducible apply OnlyTouches.after (State.storeFor_touches _ _ _ _ _); · decide)
    | (with_reducible apply OnlyTouches.after (State.countPieces_touches _ _ _ _); · decide)
    | with_reducible intro _
    | split
    | with_reducible refine OnlyTouches.pair (by assumption) ?_
    | dsimp only

theorem execUeSt_touches (t : Stall) (n : ThreadNo) (f : InsnFields) (s : State) : StepTouches [.objs,
    .time, .ports, .switch, .coll, .update, .arrays, .mem, .custody, .ledger, .dict, .host, .free, .out] s
    (execUeSt t n f s) := by
  unfold execUeSt
  try dsimp only
  repeat' first
    | with_reducible exact OnlyTouches.ofFault _
    | with_reducible apply OnlyTouches.ofNext
    | with_reducible exact .refl _ _
    | with_reducible assumption
    | (with_reducible apply OnlyTouches.after (State.faultThread_touches _ _ _ _ _); · decide)
    | (with_reducible apply State.insn_touches; · decide)
    | (with_reducible apply OnlyTouches.after (State.storeAll_touches _ _ _ _ _ _ _); · decide)
    | with_reducible apply OnlyTouches.ite
    | with_reducible apply OnlyTouches.iteStep
    | with_reducible intro _
    | split

theorem State.storeLanes_touches (s : State) (t : Stall) (n : ThreadNo) (f : InsnFields) (op : Nat) (x :
    Thread) (ps : List Piece) (addr : Nat → Nat) : OnlyTouches [.objs, .time, .ports, .switch, .coll,
    .update, .arrays, .mem, .custody, .ledger, .dict, .host, .free, .out] s (State.storeLanes s t n f op x
    ps addr) := by
  unfold State.storeLanes
  try dsimp only
  repeat' first
    | with_reducible exact .refl _ _
    | with_reducible assumption
    | (with_reducible apply OnlyTouches.after (State.storeAll_touches _ _ _ _ _ _ _); · decide)
    | with_reducible apply OnlyTouches.ite
    | with_reducible intro _
    | split
    | (with_reducible apply OnlyTouches.put_free; · decide)
    | with_reducible refine OnlyTouches.pair (by assumption) ?_
    | dsimp only

theorem execUeVst_touches (t : Stall) (n : ThreadNo) (f : InsnFields) (s : State) : StepTouches [.objs,
    .time, .ports, .switch, .coll, .update, .arrays, .mem, .custody, .ledger, .dict, .host, .free, .out] s
    (execUeVst t n f s) := by
  unfold execUeVst
  try dsimp only
  repeat' first
    | with_reducible exact OnlyTouches.ofFault _
    | with_reducible apply OnlyTouches.ofNext
    | with_reducible exact .refl _ _
    | with_reducible assumption
    | (with_reducible apply OnlyTouches.after (State.faultThread_touches _ _ _ _ _); · decide)
    | (with_reducible apply State.insn_touches; · decide)
    | (with_reducible apply OnlyTouches.after (State.storeLanes_touches _ _ _ _ _ _ _ _); · decide)
    | with_reducible apply OnlyTouches.ite
    | with_reducible apply OnlyTouches.iteStep
    | with_reducible intro _
    | split
    | with_reducible refine OnlyTouches.pair (by assumption) ?_
    | dsimp only

theorem State.scatter_touches (s : State) (t : Stall) (n : ThreadNo) (f : InsnFields) (g : Form) (op : Nat)
    (addr : Thread → Nat → Nat) : StepTouches [.objs, .time, .ports, .switch, .coll, .update, .arrays,
    .mem, .custody, .ledger, .dict, .host, .free, .out] s (State.scatter s t n f g op addr) := by
  unfold State.scatter
  try dsimp only
  repeat' first
    | with_reducible exact OnlyTouches.ofFault _
    | with_reducible apply OnlyTouches.ofNext
    | with_reducible exact .refl _ _
    | with_reducible assumption
    | (with_reducible apply OnlyTouches.after (State.faultThread_touches _ _ _ _ _); · decide)
    | (with_reducible apply State.insn_touches; · decide)
    | (with_reducible apply OnlyTouches.after (State.storeLanes_touches _ _ _ _ _ _ _ _); · decide)
    | with_reducible intro _
    | split

theorem execUeVsts_touches (t : Stall) (n : ThreadNo) (f : InsnFields) (s : State) : StepTouches [.objs,
    .time, .ports, .switch, .coll, .update, .arrays, .mem, .custody, .ledger, .dict, .host, .free, .out] s
    (execUeVsts t n f s) := by
  unfold execUeVsts
  try dsimp only
  repeat' first
    | with_reducible apply OnlyTouches.ofNext
    | with_reducible exact .refl _ _
    | with_reducible assumption
    | (with_reducible apply OnlyTouches.result (State.scatter_touches _ _ _ _ _ _ _); · decide)
    | with_reducible intro _
    | with_reducible refine OnlyTouches.pair (by assumption) ?_
    | dsimp only

theorem execUeVscatter_touches (t : Stall) (n : ThreadNo) (f : InsnFields) (s : State) : StepTouches
    [.objs, .time, .ports, .switch, .coll, .update, .arrays, .mem, .custody, .ledger, .dict, .host, .free,
    .out] s (execUeVscatter t n f s) := by
  unfold execUeVscatter
  try dsimp only
  repeat' first
    | with_reducible apply OnlyTouches.ofNext
    | with_reducible exact .refl _ _
    | with_reducible assumption
    | (with_reducible apply OnlyTouches.result (State.scatter_touches _ _ _ _ _ _ _); · decide)
    | with_reducible intro _

theorem State.startMove_touches (s : State) (t : Stall) (n : ThreadNo) (k src dst len : Nat) : OnlyTouches
    [.objs, .update, .ledger, .host] s (State.startMove s t n k src dst len) := by
  unfold State.startMove
  try dsimp only
  repeat' first
    | with_reducible exact .refl _ _
    | with_reducible assumption
    | (with_reducible apply OnlyTouches.after (State.countAccess_touches _ _ _ _ _ _); · decide)
    | (with_reducible apply OnlyTouches.after (State.hostError_touches _); · decide)
    | (with_reducible apply OnlyTouches.after (State.askHost_touches _ _ _ _); · decide)
    | with_reducible apply OnlyTouches.ite
    | with_reducible intro _
    | split
    | (with_reducible apply OnlyTouches.put_update; · decide)
    | with_reducible refine OnlyTouches.pair (by assumption) ?_
    | dsimp only

theorem execUeBmov_touches (t : Stall) (n : ThreadNo) (f : InsnFields) (s : State) : StepTouches [.objs,
    .ports, .switch, .coll, .update, .arrays, .mem, .custody, .ledger, .dict, .host, .free, .out] s
    (execUeBmov t n f s) := by
  unfold execUeBmov
  try dsimp only
  repeat' first
    | with_reducible exact OnlyTouches.ofFault _
    | with_reducible apply OnlyTouches.ofNext
    | with_reducible apply OnlyTouches.ofSome
    | with_reducible exact OnlyTouches.ofNone
    | with_reducible apply OnlyTouches.iteOpt
    | with_reducible exact .refl _ _
    | with_reducible assumption
    | (with_reducible apply OnlyTouches.after (State.write_touches _ _ _); · decide)
    | (with_reducible apply OnlyTouches.after (State.addCounter_touches _ _ _ _ _); · decide)
    | (with_reducible apply OnlyTouches.after (State.faultThread_touches _ _ _ _ _); · decide)
    | (with_reducible apply State.insnTry_touches; · decide)
    | (with_reducible apply OnlyTouches.after (State.retire_touches _ _ _ _); · decide)
    | (with_reducible apply OnlyTouches.after (State.startMove_touches _ _ _ _ _ _ _); · decide)
    | with_reducible apply OnlyTouches.ite
    | with_reducible apply OnlyTouches.iteStep
    | with_reducible intro _
    | split
    | with_reducible refine OnlyTouches.pair (by assumption) ?_
    | dsimp only

theorem State.atomicAt_touches (s : State) (t : Stall) (n : ThreadNo) (op : AtomOp) (ty a v : Nat) :
    OnlyTouches [.objs, .mem, .ledger] s (State.atomicAt s t n op ty a v) := by
  unfold State.atomicAt
  try dsimp only
  repeat' first
    | with_reducible exact .refl _ _
    | with_reducible assumption
    | (with_reducible apply OnlyTouches.after (State.store_touches _ _ _); · decide)
    | (with_reducible apply OnlyTouches.after (State.countAdder_touches _ _ _); · decide)
    | with_reducible apply OnlyTouches.ite
    | with_reducible intro _
    | split
    | with_reducible refine OnlyTouches.pair (by assumption) ?_
    | dsimp only

theorem State.atomic_touches (s : State) (t : Stall) (n : ThreadNo) (f : InsnFields) (g : Form) (op :
    Thread → AtomOp) (types : List Nat) : StepTouches [.objs, .time, .ports, .switch, .coll, .update,
    .arrays, .mem, .custody, .ledger, .dict, .host, .free, .out] s (State.atomic s t n f g op types) := by
  unfold State.atomic
  try dsimp only
  repeat' first
    | with_reducible exact OnlyTouches.ofFault _
    | with_reducible apply OnlyTouches.ofNext
    | with_reducible apply OnlyTouches.ofSome
    | with_reducible exact OnlyTouches.ofNone
    | with_reducible apply OnlyTouches.iteOpt
    | with_reducible exact .refl _ _
    | with_reducible assumption
    | (with_reducible apply OnlyTouches.after (State.faultThread_touches _ _ _ _ _); · decide)
    | (with_reducible apply State.insnAt_touches; · decide)
    | (with_reducible apply OnlyTouches.after (State.retire_touches _ _ _ _); · decide)
    | (with_reducible apply OnlyTouches.after (State.accessFault_touches _ _ _ _ _); · decide)
    | (with_reducible apply OnlyTouches.after (State.atomicAt_touches _ _ _ _ _ _ _); · decide)
    | with_reducible apply OnlyTouches.ite
    | with_reducible apply OnlyTouches.iteStep
    | with_reducible intro _
    | split
    | with_reducible refine OnlyTouches.pair (by assumption) ?_
    | dsimp only

theorem execUeAadd_touches (t : Stall) (n : ThreadNo) (f : InsnFields) (s : State) : StepTouches [.objs,
    .time, .ports, .switch, .coll, .update, .arrays, .mem, .custody, .ledger, .dict, .host, .free, .out] s
    (execUeAadd t n f s) := by
  unfold execUeAadd
  try dsimp only
  repeat' first
    | with_reducible apply OnlyTouches.ofNext
    | with_reducible exact .refl _ _
    | with_reducible assumption
    | (with_reducible apply OnlyTouches.result (State.atomic_touches _ _ _ _ _ _ _); · decide)
    | with_reducible intro _

theorem execUeAmin_touches (t : Stall) (n : ThreadNo) (f : InsnFields) (s : State) : StepTouches [.objs,
    .time, .ports, .switch, .coll, .update, .arrays, .mem, .custody, .ledger, .dict, .host, .free, .out] s
    (execUeAmin t n f s) := by
  unfold execUeAmin
  try dsimp only
  repeat' first
    | with_reducible apply OnlyTouches.ofNext
    | with_reducible exact .refl _ _
    | with_reducible assumption
    | (with_reducible apply OnlyTouches.result (State.atomic_touches _ _ _ _ _ _ _); · decide)
    | with_reducible intro _

theorem execUeAmax_touches (t : Stall) (n : ThreadNo) (f : InsnFields) (s : State) : StepTouches [.objs,
    .time, .ports, .switch, .coll, .update, .arrays, .mem, .custody, .ledger, .dict, .host, .free, .out] s
    (execUeAmax t n f s) := by
  unfold execUeAmax
  try dsimp only
  repeat' first
    | with_reducible apply OnlyTouches.ofNext
    | with_reducible exact .refl _ _
    | with_reducible assumption
    | (with_reducible apply OnlyTouches.result (State.atomic_touches _ _ _ _ _ _ _); · decide)
    | with_reducible intro _

theorem execUeAswp_touches (t : Stall) (n : ThreadNo) (f : InsnFields) (s : State) : StepTouches [.objs,
    .time, .ports, .switch, .coll, .update, .arrays, .mem, .custody, .ledger, .dict, .host, .free, .out] s
    (execUeAswp t n f s) := by
  unfold execUeAswp
  try dsimp only
  repeat' first
    | with_reducible apply OnlyTouches.ofNext
    | with_reducible exact .refl _ _
    | with_reducible assumption
    | (with_reducible apply OnlyTouches.result (State.atomic_touches _ _ _ _ _ _ _); · decide)
    | with_reducible intro _

theorem execUeAcas_touches (t : Stall) (n : ThreadNo) (f : InsnFields) (s : State) : StepTouches [.objs,
    .time, .ports, .switch, .coll, .update, .arrays, .mem, .custody, .ledger, .dict, .host, .free, .out] s
    (execUeAcas t n f s) := by
  unfold execUeAcas
  try dsimp only
  repeat' first
    | with_reducible apply OnlyTouches.ofNext
    | with_reducible exact .refl _ _
    | with_reducible assumption
    | (with_reducible apply OnlyTouches.result (State.atomic_touches _ _ _ _ _ _ _); · decide)
    | with_reducible intro _

theorem execUeVaadd_touches (t : Stall) (n : ThreadNo) (f : InsnFields) (s : State) : StepTouches [.objs,
    .time, .ports, .switch, .coll, .update, .arrays, .mem, .custody, .ledger, .dict, .host, .free, .out] s
    (execUeVaadd t n f s) := by
  unfold execUeVaadd
  try dsimp only
  repeat' first
    | with_reducible exact OnlyTouches.ofFault _
    | with_reducible apply OnlyTouches.ofNext
    | with_reducible apply OnlyTouches.ofSome
    | with_reducible exact OnlyTouches.ofNone
    | with_reducible apply OnlyTouches.iteOpt
    | with_reducible exact .refl _ _
    | with_reducible assumption
    | with_reducible apply OnlyTouches.fold
    | with_reducible apply OnlyTouches.foldPair
    | (with_reducible apply OnlyTouches.after (State.faultThread_touches _ _ _ _ _); · decide)
    | (with_reducible apply State.insnAt_touches; · decide)
    | (with_reducible apply OnlyTouches.after (State.retire_touches _ _ _ _); · decide)
    | (with_reducible apply OnlyTouches.after (State.accessFault_touches _ _ _ _ _); · decide)
    | (with_reducible apply OnlyTouches.after (State.atomicAt_touches _ _ _ _ _ _ _); · decide)
    | (with_reducible apply OnlyTouches.result (State.atomic_touches _ _ _ _ _ _ _); · decide)
    | with_reducible apply OnlyTouches.ite
    | with_reducible apply OnlyTouches.iteStep
    | with_reducible intro _
    | split
    | with_reducible refine OnlyTouches.pair (by assumption) ?_
    | dsimp only

theorem execUeFence_touches (t : Stall) (n : ThreadNo) (f : InsnFields) (s : State) : StepTouches [.objs,
    .ports, .switch, .coll, .update, .arrays, .mem, .custody, .ledger, .dict, .host, .free, .out] s
    (execUeFence t n f s) := by
  unfold execUeFence
  try dsimp only
  repeat' first
    | with_reducible apply OnlyTouches.ofNext
    | with_reducible exact .refl _ _
    | with_reducible assumption
    | (with_reducible apply State.insn_touches; · decide)
    | (with_reducible apply OnlyTouches.after (State.retire_touches _ _ _ _); · decide)
    | with_reducible intro _

theorem execUeTsync_touches (t : Stall) (n : ThreadNo) (f : InsnFields) (s : State) : StepTouches [.objs,
    .ports, .switch, .coll, .update, .arrays, .mem, .custody, .ledger, .dict, .host, .free, .out] s
    (execUeTsync t n f s) := by
  unfold execUeTsync
  try dsimp only
  repeat' first
    | with_reducible apply OnlyTouches.ofNext
    | with_reducible exact .refl _ _
    | with_reducible assumption
    | (with_reducible apply OnlyTouches.after (State.setThread_touches _ _ _ _); · decide)
    | (with_reducible apply OnlyTouches.after (State.modTeam_touches _ _ _ _); · decide)
    | (with_reducible apply OnlyTouches.after (State.checkBarrier_touches _ _ _); · decide)
    | (with_reducible apply State.insn_touches; · decide)
    | with_reducible intro _
    | with_reducible refine OnlyTouches.pair (by assumption) ?_
    | dsimp only

theorem execUeBellw_touches (t : Stall) (n : ThreadNo) (f : InsnFields) (nj : Nat) (s : State) :
    StepTouches [.objs, .ports, .switch, .coll, .update, .arrays, .mem, .custody, .ledger, .dict, .host,
    .free, .out] s (execUeBellw t n f nj s) := by
  unfold execUeBellw
  try dsimp only
  repeat' first
    | with_reducible apply OnlyTouches.ofNext
    | with_reducible exact .refl _ _
    | with_reducible assumption
    | (with_reducible apply OnlyTouches.after (State.yieldTo_touches _ _ _ _ _); · decide)
    | (with_reducible apply State.insn_touches; · decide)
    | (with_reducible apply OnlyTouches.after (State.retire_touches _ _ _ _); · decide)
    | with_reducible apply OnlyTouches.ite
    | with_reducible apply OnlyTouches.iteStep
    | with_reducible intro _
    | split
    | with_reducible refine OnlyTouches.pair (by assumption) ?_
    | dsimp only

theorem execUeWaitm_touches (t : Stall) (n : ThreadNo) (f : InsnFields) (nj : Nat) (s : State) :
    StepTouches [.objs, .ports, .switch, .coll, .update, .arrays, .mem, .custody, .ledger, .dict, .host,
    .free, .out] s (execUeWaitm t n f nj s) := by
  unfold execUeWaitm
  try dsimp only
  repeat' first
    | with_reducible exact OnlyTouches.ofFault _
    | with_reducible apply OnlyTouches.ofNext
    | with_reducible exact .refl _ _
    | with_reducible assumption
    | (with_reducible apply OnlyTouches.after (State.yieldTo_touches _ _ _ _ _); · decide)
    | (with_reducible apply OnlyTouches.after (State.faultThread_touches _ _ _ _ _); · decide)
    | (with_reducible apply State.insn_touches; · decide)
    | (with_reducible apply OnlyTouches.after (State.retire_touches _ _ _ _); · decide)
    | with_reducible apply OnlyTouches.ite
    | with_reducible apply OnlyTouches.iteStep
    | with_reducible intro _
    | split
    | with_reducible refine OnlyTouches.pair (by assumption) ?_
    | dsimp only

theorem execUeYield_touches (t : Stall) (n : ThreadNo) (f : InsnFields) (nj : Nat) (s : State) :
    StepTouches [.objs, .ports, .switch, .coll, .update, .arrays, .mem, .custody, .ledger, .dict, .host,
    .free, .out] s (execUeYield t n f nj s) := by
  unfold execUeYield
  try dsimp only
  repeat' first
    | with_reducible apply OnlyTouches.ofNext
    | with_reducible exact .refl _ _
    | with_reducible assumption
    | (with_reducible apply OnlyTouches.after (State.yieldTo_touches _ _ _ _ _); · decide)
    | (with_reducible apply State.insn_touches; · decide)
    | (with_reducible apply OnlyTouches.after (State.retire_touches _ _ _ _); · decide)
    | with_reducible intro _
    | with_reducible refine OnlyTouches.pair (by assumption) ?_
    | dsimp only

theorem execUeKwait_touches (t : Stall) (n : ThreadNo) (f : InsnFields) (s : State) : StepTouches [.objs,
    .ports, .switch, .coll, .update, .arrays, .mem, .custody, .ledger, .dict, .host, .free, .out] s
    (execUeKwait t n f s) := by
  unfold execUeKwait
  try dsimp only
  repeat' first
    | with_reducible apply OnlyTouches.ofNext
    | with_reducible exact .refl _ _
    | with_reducible assumption
    | (with_reducible apply OnlyTouches.after (State.setThread_touches _ _ _ _); · decide)
    | (with_reducible apply OnlyTouches.after (State.closeWindows_touches _ _ _ _); · decide)
    | (with_reducible apply State.insn_touches; · decide)
    | (with_reducible apply OnlyTouches.after (State.retire_touches _ _ _ _); · decide)
    | with_reducible apply OnlyTouches.ite
    | with_reducible apply OnlyTouches.iteStep
    | with_reducible intro _
    | split
    | with_reducible refine OnlyTouches.pair (by assumption) ?_
    | dsimp only

theorem execUeEnd_touches (t : Stall) (n : ThreadNo) (f : InsnFields) (nj : Nat) (s : State) : StepTouches
    [.objs, .ports, .switch, .coll, .update, .arrays, .mem, .custody, .ledger, .dict, .host, .free, .out] s
    (execUeEnd t n f nj s) := by
  unfold execUeEnd
  try dsimp only
  repeat' first
    | with_reducible apply OnlyTouches.ofNext
    | with_reducible exact .refl _ _
    | with_reducible assumption
    | (with_reducible apply OnlyTouches.after (State.endSegment_touches _ _ _ _); · decide)
    | (with_reducible apply OnlyTouches.after (State.endThread_touches _ _ _); · decide)
    | (with_reducible apply State.insn_touches; · decide)
    | (with_reducible apply OnlyTouches.after (State.retire_touches _ _ _ _); · decide)
    | with_reducible intro _
    | with_reducible refine OnlyTouches.pair (by assumption) ?_
    | dsimp only

theorem execUeTake_touches (t : Stall) (n : ThreadNo) (f : InsnFields) (nj : Nat) (s : State) : StepTouches
    [.objs, .ports, .switch, .coll, .update, .arrays, .mem, .custody, .ledger, .dict, .host, .free, .out] s
    (execUeTake t n f nj s) := by
  unfold execUeTake
  try dsimp only
  repeat' first
    | with_reducible exact OnlyTouches.ofFault _
    | with_reducible apply OnlyTouches.ofNext
    | with_reducible exact .refl _ _
    | with_reducible assumption
    | (with_reducible apply OnlyTouches.after (State.serveTake_touches _ _ _); · decide)
    | (with_reducible apply OnlyTouches.after (State.yieldTo_touches _ _ _ _ _); · decide)
    | (with_reducible apply OnlyTouches.after (State.faultThread_touches _ _ _ _ _); · decide)
    | (with_reducible apply State.insn_touches; · decide)
    | (with_reducible apply OnlyTouches.after (State.retire_touches _ _ _ _); · decide)
    | with_reducible apply OnlyTouches.ite
    | with_reducible apply OnlyTouches.iteStep
    | with_reducible intro _
    | split
    | with_reducible refine OnlyTouches.pair (by assumption) ?_
    | dsimp only

theorem execUeTpoll_touches (t : Stall) (n : ThreadNo) (f : InsnFields) (s : State) : StepTouches [.objs,
    .ports, .switch, .coll, .update, .arrays, .mem, .custody, .ledger, .dict, .host, .free, .out] s
    (execUeTpoll t n f s) := by
  unfold execUeTpoll
  try dsimp only
  repeat' first
    | with_reducible exact OnlyTouches.ofFault _
    | with_reducible apply OnlyTouches.ofNext
    | with_reducible exact .refl _ _
    | with_reducible assumption
    | (with_reducible apply OnlyTouches.after (State.claim_touches _ _ _ _ _); · decide)
    | (with_reducible apply OnlyTouches.after (State.faultThread_touches _ _ _ _ _); · decide)
    | (with_reducible apply State.insn_touches; · decide)
    | (with_reducible apply OnlyTouches.after (State.retire_touches _ _ _ _); · decide)
    | with_reducible apply OnlyTouches.ite
    | with_reducible apply OnlyTouches.iteStep
    | with_reducible intro _
    | split
    | (with_reducible apply OnlyTouches.put_free; · decide)
    | with_reducible refine OnlyTouches.pair (by assumption) ?_
    | dsimp only

theorem execUeGive_touches (t : Stall) (n : ThreadNo) (f : InsnFields) (s : State) : StepTouches [.objs,
    .ports, .switch, .coll, .update, .arrays, .mem, .custody, .ledger, .dict, .host, .free, .out] s
    (execUeGive t n f s) := by
  unfold execUeGive
  try dsimp only
  repeat' first
    | with_reducible apply OnlyTouches.ofNext
    | with_reducible apply OnlyTouches.ofSome
    | with_reducible exact OnlyTouches.ofNone
    | with_reducible apply OnlyTouches.iteOpt
    | with_reducible exact .refl _ _
    | with_reducible assumption
    | (with_reducible apply OnlyTouches.after (State.freeBuffer_touches _ _); · decide)
    | (with_reducible apply OnlyTouches.after (State.modTeam_touches _ _ _ _); · decide)
    | (with_reducible apply OnlyTouches.after (State.countHeld_touches _ _ _ _); · decide)
    | (with_reducible apply State.insnTry_touches; · decide)
    | (with_reducible apply OnlyTouches.after (State.retire_touches _ _ _ _); · decide)
    | with_reducible apply OnlyTouches.ite
    | with_reducible apply OnlyTouches.iteStep
    | with_reducible intro _
    | split
    | with_reducible refine OnlyTouches.pair (by assumption) ?_
    | dsimp only

theorem execUeOutbuf_touches (t : Stall) (n : ThreadNo) (f : InsnFields) (s : State) : StepTouches [.objs,
    .ports, .switch, .coll, .update, .arrays, .mem, .custody, .ledger, .dict, .host, .free, .out] s
    (execUeOutbuf t n f s) := by
  unfold execUeOutbuf
  try dsimp only
  repeat' first
    | with_reducible apply OnlyTouches.ofNext
    | with_reducible exact .refl _ _
    | with_reducible assumption
    | (with_reducible apply OnlyTouches.after (State.allocFrom_touches _ _ _ _); · decide)
    | (with_reducible apply OnlyTouches.afterPair (State.allocFrom_touches _ _ _ _); (first | assumption | decide); (first | assumption | decide))
    | (with_reducible apply OnlyTouches.after (State.modTeam_touches _ _ _ _); · decide)
    | (with_reducible apply State.insn_touches; · decide)
    | (with_reducible apply OnlyTouches.after (State.retire_touches _ _ _ _); · decide)
    | with_reducible intro _
    | split
    | with_reducible refine OnlyTouches.pair (by assumption) ?_
    | dsimp only

theorem State.mcast_touches (s : State) (t : Stall) (x : Thread) (g seq chunk offset : Nat) (isLast : Bool)
    (a : Nat) (data : List Byte) : OnlyTouches [.objs, .ports, .switch, .coll, .update, .mem, .ledger,
    .dict, .host, .out] s (State.mcast s t x g seq chunk offset isLast a data) := by
  unfold State.mcast
  try dsimp only
  repeat' first
    | with_reducible exact .refl _ _
    | with_reducible assumption
    | (with_reducible apply OnlyTouches.after (State.sendOutputs_touches _ _ _ _ _ _); · decide)
    | (with_reducible apply OnlyTouches.after (State.modTeam_touches _ _ _ _); · decide)
    | with_reducible intro _
    | (with_reducible apply OnlyTouches.put_out; · decide)
    | with_reducible refine OnlyTouches.pair (by assumption) ?_
    | dsimp only

theorem execUeMcast_touches (t : Stall) (n : ThreadNo) (f : InsnFields) (s : State) : StepTouches [.objs,
    .ports, .switch, .coll, .update, .arrays, .mem, .custody, .ledger, .dict, .host, .free, .out] s
    (execUeMcast t n f s) := by
  unfold execUeMcast
  try dsimp only
  repeat' first
    | with_reducible exact OnlyTouches.ofFault _
    | with_reducible apply OnlyTouches.ofNext
    | with_reducible apply OnlyTouches.ofSome
    | with_reducible exact OnlyTouches.ofNone
    | with_reducible apply OnlyTouches.iteOpt
    | with_reducible exact .refl _ _
    | with_reducible assumption
    | with_reducible apply OnlyTouches.when
    | (with_reducible apply OnlyTouches.after (State.countAccess_touches _ _ _ _ _ _); · decide)
    | (with_reducible apply OnlyTouches.after (State.readOpen_touches _ _ _); · decide)
    | (with_reducible apply OnlyTouches.afterPair (State.readOpen_touches _ _ _); (first | assumption | decide); (first | assumption | decide))
    | (with_reducible apply OnlyTouches.after (State.faultThread_touches _ _ _ _ _); · decide)
    | (with_reducible apply State.insnTry_touches; · decide)
    | (with_reducible apply OnlyTouches.after (State.retire_touches _ _ _ _); · decide)
    | (with_reducible apply OnlyTouches.after (State.mcast_touches _ _ _ _ _ _ _ _ _ _); · decide)
    | with_reducible apply OnlyTouches.ite
    | with_reducible apply OnlyTouches.iteStep
    | with_reducible intro _
    | split
    | with_reducible refine OnlyTouches.pair (by assumption) ?_
    | dsimp only

theorem execUeRcpt_touches (t : Stall) (n : ThreadNo) (f : InsnFields) (s : State) : StepTouches [.objs,
    .ports, .switch, .coll, .update, .arrays, .mem, .custody, .ledger, .dict, .host, .free, .out] s
    (execUeRcpt t n f s) := by
  unfold execUeRcpt
  try dsimp only
  repeat' first
    | with_reducible exact OnlyTouches.ofFault _
    | with_reducible apply OnlyTouches.ofNext
    | with_reducible apply OnlyTouches.ofSome
    | with_reducible exact OnlyTouches.ofNone
    | with_reducible apply OnlyTouches.iteOpt
    | with_reducible exact .refl _ _
    | with_reducible assumption
    | (with_reducible apply OnlyTouches.after (State.modTeam_touches _ _ _ _); · decide)
    | (with_reducible apply OnlyTouches.after (State.teamReceipt_touches _ _ _ _ _ _ _ _ _); · decide)
    | (with_reducible apply OnlyTouches.after (State.faultThread_touches _ _ _ _ _); · decide)
    | (with_reducible apply State.insnTry_touches; · decide)
    | (with_reducible apply OnlyTouches.after (State.retire_touches _ _ _ _); · decide)
    | with_reducible apply OnlyTouches.ite
    | with_reducible apply OnlyTouches.iteStep
    | with_reducible intro _
    | split
    | (with_reducible apply OnlyTouches.put_out; · decide)
    | with_reducible refine OnlyTouches.pair (by assumption) ?_
    | dsimp only

theorem execUeMxi_touches (t : Stall) (n : ThreadNo) (f : InsnFields) (s : State) : StepTouches [.objs,
    .ports, .switch, .coll, .update, .arrays, .mem, .custody, .ledger, .dict, .host, .free, .out] s
    (execUeMxi t n f s) := by
  unfold execUeMxi
  try dsimp only
  repeat' first
    | with_reducible exact OnlyTouches.ofFault _
    | with_reducible apply OnlyTouches.ofNext
    | with_reducible apply OnlyTouches.ofSome
    | with_reducible exact OnlyTouches.ofNone
    | with_reducible apply OnlyTouches.iteOpt
    | with_reducible exact .refl _ _
    | with_reducible assumption
    | (with_reducible apply OnlyTouches.after (State.addCounter_touches _ _ _ _ _); · decide)
    | (with_reducible apply OnlyTouches.after (State.faultThread_touches _ _ _ _ _); · decide)
    | (with_reducible apply OnlyTouches.after (State.issueDesc_touches _ _ _ _ _ _); · decide)
    | (with_reducible apply State.insnTry_touches; · decide)
    | (with_reducible apply OnlyTouches.after (State.retire_touches _ _ _ _); · decide)
    | with_reducible apply OnlyTouches.ite
    | with_reducible apply OnlyTouches.iteStep
    | with_reducible intro _
    | split
    | with_reducible refine OnlyTouches.pair (by assumption) ?_
    | dsimp only

theorem State.endLoad_touches (s : State) (t n op ty d imm : Nat) (lanes : List Nat) (data : List Byte) :
    OnlyTouches [.update] s (State.endLoad s t n op ty d imm lanes data) := by
  unfold State.endLoad
  try dsimp only
  repeat' first
    | with_reducible exact .refl _ _
    | with_reducible assumption
    | (with_reducible apply OnlyTouches.after (State.setThread_touches _ _ _ _); · decide)
    | with_reducible apply OnlyTouches.ite
    | with_reducible intro _
    | split

theorem State.failLoad_touches (s : State) (t n code a : Nat) : OnlyTouches [.objs, .ports, .switch, .coll,
    .update, .arrays, .mem, .custody, .ledger, .dict, .host, .free, .out] s (State.failLoad s t n code a)
    := by
  unfold State.failLoad
  try dsimp only
  repeat' first
    | with_reducible exact .refl _ _
    | with_reducible assumption
    | (with_reducible apply OnlyTouches.after (State.faultThread_touches _ _ _ _ _); · decide)
    | with_reducible intro _
    | split
    | with_reducible refine OnlyTouches.pair (by assumption) ?_
    | dsimp only

end Sys2Proof.Machine
end

