-- ==== Sys2Proof/Laws/KeepInsnMem.lean ====
section
/-! SUPPORT. The operations of Machine/InsnMem.lean keep the invariant. -/

namespace Sys2Proof.Machine

theorem State.mirrorReads_keeps (s : State) (t : Stall) (n : ThreadNo) (a len : Nat) : Keeps s
    (State.mirrorReads s t n a len).1 := by
  unfold State.mirrorReads
  try dsimp only
  repeat' first
    | with_reducible exact .refl _
    | with_reducible assumption
    | with_reducible apply Keeps.fold
    | with_reducible apply Keeps.foldPair
    | with_reducible apply Keeps.after (State.dictRead_keeps _ _ _ _ _)
    | ((with_reducible apply Keeps.afterPair (State.dictRead_keeps _ _ _ _ _)); · assumption)
    | with_reducible intro _
    | with_reducible refine Keeps.pair (by assumption) ?_
    | dsimp only

theorem State.mirrorRead_keeps (s : State) (t : Stall) (n : ThreadNo) (a len : Nat) : Keeps s
    (State.mirrorRead s t n a len).1 := by
  have e : State.mirrorRead s t n a len = ((State.mirrorReads s t n a len).1,
      ((State.mirrorReads s t n a len).2.drop (a % 8)).take len) := rfl
  rw [e]
  exact .fstMk (State.mirrorReads_keeps s t n a len)

theorem State.accessFault_keeps (s : State) (t : Stall) (n : ThreadNo) (code a : Nat) : Keeps s
    (State.accessFault s t n code a) := by
  unfold State.accessFault
  try dsimp only
  repeat' first
    | with_reducible exact .refl _
    | with_reducible assumption
    | with_reducible apply Keeps.after (State.sramBad_keeps _ _)
    | ((with_reducible apply Keeps.afterT (State.hostError_touches _)); · rfl)
    | with_reducible apply Keeps.after (State.faultThread_keeps _ _ _ _ _)
    | with_reducible apply Keeps.after (State.mirrorRead_keeps _ _ _ _ _)
    | ((with_reducible apply Keeps.afterPair (State.mirrorRead_keeps _ _ _ _ _)); · assumption)
    | with_reducible apply Keeps.ite
    | with_reducible intro _
    | split
    | with_reducible refine Keeps.pair (by assumption) ?_
    | dsimp only

theorem State.readPiece_keeps (s : State) (t : Stall) (n : ThreadNo) (p : Piece) : Keeps s (State.readPiece
    s t n p).1 := by
  unfold State.readPiece
  try dsimp only
  repeat' first
    | with_reducible exact .refl _
    | with_reducible assumption
    | ((with_reducible apply Keeps.afterT (State.countAccess_touches _ _ _ _ _ _)); · rfl)
    | ((with_reducible apply Keeps.afterT (State.readOpen_touches _ _ _)); · rfl)
    | ((with_reducible apply Keeps.afterPairT (State.readOpen_touches _ _ _)); (· assumption); (· rfl))
    | with_reducible apply Keeps.after (State.mirrorRead_keeps _ _ _ _ _)
    | ((with_reducible apply Keeps.afterPair (State.mirrorRead_keeps _ _ _ _ _)); · assumption)
    | with_reducible apply Keeps.ite
    | with_reducible intro _
    | split
    | with_reducible apply Keeps.put_free
    | with_reducible refine Keeps.pair (by assumption) ?_
    | dsimp only

theorem State.load_keeps (s : State) (t : Stall) (n : ThreadNo) (f : InsnFields) (op : Nat) (x : Thread)
    (ps : List Piece) : OptKeeps s (State.load s t n f op x ps) := by
  unfold State.load
  try dsimp only
  repeat' first
    | with_reducible apply Keeps.ofSome
    | with_reducible exact Keeps.ofNone
    | with_reducible apply Keeps.iteOpt
    | with_reducible exact .refl _
    | with_reducible assumption
    | with_reducible apply Keeps.fold
    | with_reducible apply Keeps.foldPair
    | ((with_reducible apply Keeps.afterT (State.setThread_touches _ _ _ _)); · rfl)
    | ((with_reducible apply Keeps.afterT (State.retire_touches _ _ _ _)); · rfl)
    | with_reducible apply Keeps.after (State.accessFault_keeps _ _ _ _ _)
    | with_reducible apply Keeps.after (State.readPiece_keeps _ _ _ _)
    | ((with_reducible apply Keeps.afterPair (State.readPiece_keeps _ _ _ _)); · assumption)
    | ((with_reducible apply Keeps.afterT (State.askHost_touches _ _ _ _)); · rfl)
    | with_reducible apply Keeps.ite
    | with_reducible intro _
    | split
    | with_reducible refine Keeps.pair (by assumption) ?_
    | dsimp only

theorem execUeLd_keeps (t : Stall) (n : ThreadNo) (f : InsnFields) (s : State) : StepKeeps s (execUeLd t n
    f s) := by
  unfold execUeLd
  try dsimp only
  repeat' first
    | with_reducible apply Keeps.ofSome
    | with_reducible exact Keeps.ofNone
    | with_reducible apply Keeps.iteOpt
    | with_reducible exact Keeps.ofFault _
    | with_reducible apply Keeps.ofNext
    | with_reducible exact .refl _
    | with_reducible assumption
    | with_reducible apply Keeps.after (State.faultThread_keeps _ _ _ _ _)
    | (with_reducible apply State.insnTry_keeps)
    | with_reducible apply Keeps.option (State.load_keeps _ _ _ _ _ _ _)
    | ((with_reducible apply Keeps.afterOpt (State.load_keeps _ _ _ _ _ _ _)); · assumption)
    | with_reducible apply Keeps.ite
    | with_reducible apply Keeps.iteStep
    | with_reducible intro _
    | split
    | with_reducible refine Keeps.pair (by assumption) ?_
    | dsimp only

theorem execUeVld_keeps (t : Stall) (n : ThreadNo) (f : InsnFields) (s : State) : StepKeeps s (execUeVld t
    n f s) := by
  unfold execUeVld
  try dsimp only
  repeat' first
    | with_reducible apply Keeps.ofSome
    | with_reducible exact Keeps.ofNone
    | with_reducible apply Keeps.iteOpt
    | with_reducible exact Keeps.ofFault _
    | with_reducible apply Keeps.ofNext
    | with_reducible exact .refl _
    | with_reducible assumption
    | with_reducible apply Keeps.after (State.faultThread_keeps _ _ _ _ _)
    | (with_reducible apply State.insnTry_keeps)
    | with_reducible apply Keeps.option (State.load_keeps _ _ _ _ _ _ _)
    | ((with_reducible apply Keeps.afterOpt (State.load_keeps _ _ _ _ _ _ _)); · assumption)
    | with_reducible apply Keeps.ite
    | with_reducible apply Keeps.iteStep
    | with_reducible intro _
    | split
    | with_reducible refine Keeps.pair (by assumption) ?_
    | dsimp only

theorem execUeVldx_keeps (t : Stall) (n : ThreadNo) (f : InsnFields) (s : State) : StepKeeps s (execUeVldx
    t n f s) := by
  unfold execUeVldx
  try dsimp only
  repeat' first
    | with_reducible apply Keeps.ofSome
    | with_reducible exact Keeps.ofNone
    | with_reducible apply Keeps.iteOpt
    | with_reducible exact Keeps.ofFault _
    | with_reducible apply Keeps.ofNext
    | with_reducible exact .refl _
    | with_reducible assumption
    | with_reducible apply Keeps.after (State.faultThread_keeps _ _ _ _ _)
    | (with_reducible apply State.insnTry_keeps)
    | with_reducible apply Keeps.option (State.load_keeps _ _ _ _ _ _ _)
    | ((with_reducible apply Keeps.afterOpt (State.load_keeps _ _ _ _ _ _ _)); · assumption)
    | with_reducible apply Keeps.ite
    | with_reducible apply Keeps.iteStep
    | with_reducible intro _
    | split
    | with_reducible refine Keeps.pair (by assumption) ?_
    | dsimp only

theorem State.loadLanes_keeps (s : State) (t : Stall) (n : ThreadNo) (f : InsnFields) (g : Form) (op : Nat)
    (addr : Thread → Nat → Nat) : StepKeeps s (State.loadLanes s t n f g op addr) := by
  unfold State.loadLanes
  try dsimp only
  repeat' first
    | with_reducible apply Keeps.ofSome
    | with_reducible exact Keeps.ofNone
    | with_reducible apply Keeps.iteOpt
    | with_reducible exact Keeps.ofFault _
    | with_reducible apply Keeps.ofNext
    | with_reducible exact .refl _
    | with_reducible assumption
    | with_reducible apply Keeps.after (State.faultThread_keeps _ _ _ _ _)
    | (with_reducible apply State.insnTry_keeps)
    | with_reducible apply Keeps.option (State.load_keeps _ _ _ _ _ _ _)
    | ((with_reducible apply Keeps.afterOpt (State.load_keeps _ _ _ _ _ _ _)); · assumption)
    | with_reducible intro _
    | split
    | with_reducible refine Keeps.pair (by assumption) ?_
    | dsimp only

theorem execUeVlds_keeps (t : Stall) (n : ThreadNo) (f : InsnFields) (s : State) : StepKeeps s (execUeVlds
    t n f s) := by
  unfold execUeVlds
  try dsimp only
  repeat' first
    | with_reducible apply Keeps.ofNext
    | with_reducible exact .refl _
    | with_reducible assumption
    | with_reducible exact State.loadLanes_keeps _ _ _ _ _ _ _
    | with_reducible intro _
    | with_reducible refine Keeps.pair (by assumption) ?_
    | dsimp only

theorem execUeVgather_keeps (t : Stall) (n : ThreadNo) (f : InsnFields) (s : State) : StepKeeps s
    (execUeVgather t n f s) := by
  unfold execUeVgather
  try dsimp only
  repeat' first
    | with_reducible apply Keeps.ofNext
    | with_reducible exact .refl _
    | with_reducible assumption
    | with_reducible exact State.loadLanes_keeps _ _ _ _ _ _ _
    | with_reducible intro _

theorem State.storeFor_keeps (s : State) (t : Stall) (n : ThreadNo) (a : Nat) (bs : List Byte) : Keeps s
    (State.storeFor s t n a bs) := by
  unfold State.storeFor
  try dsimp only
  repeat' first
    | with_reducible exact .refl _
    | with_reducible assumption
    | with_reducible apply Keeps.after (State.store_keeps _ _ _)
    | ((with_reducible apply Keeps.afterT (State.spoil_touches _ _ _)); · rfl)
    | ((with_reducible apply Keeps.afterT (State.hostStore_touches _ _ _ _)); · rfl)
    | with_reducible apply Keeps.ite
    | with_reducible intro _
    | split
    | with_reducible refine Keeps.pair (by assumption) ?_
    | dsimp only

theorem State.storeAll_keeps (s : State) (t : Stall) (n : ThreadNo) (x : Thread) (op : Nat) (ps : List
    Piece) (ws : List (Nat × List Byte)) : Keeps s (State.storeAll s t n x op ps ws) := by
  unfold State.storeAll
  try dsimp only
  repeat' first
    | with_reducible exact .refl _
    | with_reducible assumption
    | with_reducible apply Keeps.fold
    | with_reducible apply Keeps.foldPair
    | with_reducible apply Keeps.after (State.write_keeps _ _ _)
    | ((with_reducible apply Keeps.afterT (State.retire_touches _ _ _ _)); · rfl)
    | with_reducible apply Keeps.after (State.accessFault_keeps _ _ _ _ _)
    | with_reducible apply Keeps.after (State.storeFor_keeps _ _ _ _ _)
    | ((with_reducible apply Keeps.afterT (State.countPieces_touches _ _ _ _)); · rfl)
    | with_reducible intro _
    | split
    | with_reducible refine Keeps.pair (by assumption) ?_
    | dsimp only

theorem execUeSt_keeps (t : Stall) (n : ThreadNo) (f : InsnFields) (s : State) : StepKeeps s (execUeSt t n
    f s) := by
  unfold execUeSt
  try dsimp only
  repeat' first
    | with_reducible exact Keeps.ofFault _
    | with_reducible apply Keeps.ofNext
    | with_reducible exact .refl _
    | with_reducible assumption
    | with_reducible apply Keeps.after (State.faultThread_keeps _ _ _ _ _)
    | (with_reducible apply State.insn_keeps)
    | with_reducible apply Keeps.after (State.storeAll_keeps _ _ _ _ _ _ _)
    | with_reducible apply Keeps.ite
    | with_reducible apply Keeps.iteStep
    | with_reducible intro _
    | split

theorem State.storeLanes_keeps (s : State) (t : Stall) (n : ThreadNo) (f : InsnFields) (op : Nat) (x :
    Thread) (ps : List Piece) (addr : Nat → Nat) : Keeps s (State.storeLanes s t n f op x ps addr) := by
  unfold State.storeLanes
  try dsimp only
  repeat' first
    | with_reducible exact .refl _
    | with_reducible assumption
    | with_reducible apply Keeps.after (State.storeAll_keeps _ _ _ _ _ _ _)
    | with_reducible apply Keeps.ite
    | with_reducible intro _
    | split
    | with_reducible apply Keeps.put_free
    | with_reducible refine Keeps.pair (by assumption) ?_
    | dsimp only

theorem execUeVst_keeps (t : Stall) (n : ThreadNo) (f : InsnFields) (s : State) : StepKeeps s (execUeVst t
    n f s) := by
  unfold execUeVst
  try dsimp only
  repeat' first
    | with_reducible exact Keeps.ofFault _
    | with_reducible apply Keeps.ofNext
    | with_reducible exact .refl _
    | with_reducible assumption
    | with_reducible apply Keeps.after (State.faultThread_keeps _ _ _ _ _)
    | (with_reducible apply State.insn_keeps)
    | with_reducible apply Keeps.after (State.storeLanes_keeps _ _ _ _ _ _ _ _)
    | with_reducible apply Keeps.ite
    | with_reducible apply Keeps.iteStep
    | with_reducible intro _
    | split
    | with_reducible refine Keeps.pair (by assumption) ?_
    | dsimp only

theorem State.scatter_keeps (s : State) (t : Stall) (n : ThreadNo) (f : InsnFields) (g : Form) (op : Nat)
    (addr : Thread → Nat → Nat) : StepKeeps s (State.scatter s t n f g op addr) := by
  unfold State.scatter
  try dsimp only
  repeat' first
    | with_reducible exact Keeps.ofFault _
    | with_reducible apply Keeps.ofNext
    | with_reducible exact .refl _
    | with_reducible assumption
    | with_reducible apply Keeps.after (State.faultThread_keeps _ _ _ _ _)
    | (with_reducible apply State.insn_keeps)
    | with_reducible apply Keeps.after (State.storeLanes_keeps _ _ _ _ _ _ _ _)
    | with_reducible intro _
    | split

theorem execUeVsts_keeps (t : Stall) (n : ThreadNo) (f : InsnFields) (s : State) : StepKeeps s (execUeVsts
    t n f s) := by
  unfold execUeVsts
  try dsimp only
  repeat' first
    | with_reducible apply Keeps.ofNext
    | with_reducible exact .refl _
    | with_reducible assumption
    | with_reducible exact State.scatter_keeps _ _ _ _ _ _ _
    | with_reducible intro _
    | with_reducible refine Keeps.pair (by assumption) ?_
    | dsimp only

theorem execUeVscatter_keeps (t : Stall) (n : ThreadNo) (f : InsnFields) (s : State) : StepKeeps s
    (execUeVscatter t n f s) := by
  unfold execUeVscatter
  try dsimp only
  repeat' first
    | with_reducible apply Keeps.ofNext
    | with_reducible exact .refl _
    | with_reducible assumption
    | with_reducible exact State.scatter_keeps _ _ _ _ _ _ _
    | with_reducible intro _

theorem execUeBmov_keeps (t : Stall) (n : ThreadNo) (f : InsnFields) (s : State) : StepKeeps s (execUeBmov
    t n f s) := by
  unfold execUeBmov
  try dsimp only
  repeat' first
    | with_reducible apply Keeps.ofSome
    | with_reducible exact Keeps.ofNone
    | with_reducible apply Keeps.iteOpt
    | with_reducible exact Keeps.ofFault _
    | with_reducible apply Keeps.ofNext
    | with_reducible exact .refl _
    | with_reducible assumption
    | with_reducible apply Keeps.after (State.write_keeps _ _ _)
    | ((with_reducible apply Keeps.afterT (State.addCounter_touches _ _ _ _ _)); · rfl)
    | with_reducible apply Keeps.after (State.faultThread_keeps _ _ _ _ _)
    | (with_reducible apply State.insnTry_keeps)
    | ((with_reducible apply Keeps.afterT (State.retire_touches _ _ _ _)); · rfl)
    | ((with_reducible apply Keeps.afterT (State.startMove_touches _ _ _ _ _ _ _)); · rfl)
    | with_reducible apply Keeps.ite
    | with_reducible apply Keeps.iteStep
    | with_reducible intro _
    | split
    | with_reducible refine Keeps.pair (by assumption) ?_
    | dsimp only

theorem State.atomicAt_keeps (s : State) (t : Stall) (n : ThreadNo) (op : AtomOp) (ty a v : Nat) : Keeps s
    (State.atomicAt s t n op ty a v) := by
  unfold State.atomicAt
  try dsimp only
  repeat' first
    | with_reducible exact .refl _
    | with_reducible assumption
    | with_reducible apply Keeps.after (State.store_keeps _ _ _)
    | ((with_reducible apply Keeps.afterT (State.countAdder_touches _ _ _)); · rfl)
    | with_reducible apply Keeps.ite
    | with_reducible intro _
    | split
    | with_reducible refine Keeps.pair (by assumption) ?_
    | dsimp only

theorem State.atomic_keeps (s : State) (t : Stall) (n : ThreadNo) (f : InsnFields) (g : Form) (op : Thread
    → AtomOp) (types : List Nat) : StepKeeps s (State.atomic s t n f g op types) := by
  unfold State.atomic
  try dsimp only
  repeat' first
    | with_reducible apply Keeps.ofSome
    | with_reducible exact Keeps.ofNone
    | with_reducible apply Keeps.iteOpt
    | with_reducible exact Keeps.ofFault _
    | with_reducible apply Keeps.ofNext
    | with_reducible exact .refl _
    | with_reducible assumption
    | with_reducible apply Keeps.after (State.faultThread_keeps _ _ _ _ _)
    | (with_reducible apply State.insnAt_keeps)
    | ((with_reducible apply Keeps.afterT (State.retire_touches _ _ _ _)); · rfl)
    | with_reducible apply Keeps.after (State.accessFault_keeps _ _ _ _ _)
    | with_reducible apply Keeps.after (State.atomicAt_keeps _ _ _ _ _ _ _)
    | with_reducible apply Keeps.ite
    | with_reducible apply Keeps.iteStep
    | with_reducible intro _
    | split
    | with_reducible refine Keeps.pair (by assumption) ?_
    | dsimp only

theorem execUeAadd_keeps (t : Stall) (n : ThreadNo) (f : InsnFields) (s : State) : StepKeeps s (execUeAadd
    t n f s) := by
  unfold execUeAadd
  try dsimp only
  repeat' first
    | with_reducible apply Keeps.ofNext
    | with_reducible exact .refl _
    | with_reducible assumption
    | with_reducible exact State.atomic_keeps _ _ _ _ _ _ _
    | with_reducible intro _

theorem execUeAmin_keeps (t : Stall) (n : ThreadNo) (f : InsnFields) (s : State) : StepKeeps s (execUeAmin
    t n f s) := by
  unfold execUeAmin
  try dsimp only
  repeat' first
    | with_reducible apply Keeps.ofNext
    | with_reducible exact .refl _
    | with_reducible assumption
    | with_reducible exact State.atomic_keeps _ _ _ _ _ _ _
    | with_reducible intro _

theorem execUeAmax_keeps (t : Stall) (n : ThreadNo) (f : InsnFields) (s : State) : StepKeeps s (execUeAmax
    t n f s) := by
  unfold execUeAmax
  try dsimp only
  repeat' first
    | with_reducible apply Keeps.ofNext
    | with_reducible exact .refl _
    | with_reducible assumption
    | with_reducible exact State.atomic_keeps _ _ _ _ _ _ _
    | with_reducible intro _

theorem execUeAswp_keeps (t : Stall) (n : ThreadNo) (f : InsnFields) (s : State) : StepKeeps s (execUeAswp
    t n f s) := by
  unfold execUeAswp
  try dsimp only
  repeat' first
    | with_reducible apply Keeps.ofNext
    | with_reducible exact .refl _
    | with_reducible assumption
    | with_reducible exact State.atomic_keeps _ _ _ _ _ _ _
    | with_reducible intro _

theorem execUeAcas_keeps (t : Stall) (n : ThreadNo) (f : InsnFields) (s : State) : StepKeeps s (execUeAcas
    t n f s) := by
  unfold execUeAcas
  try dsimp only
  repeat' first
    | with_reducible apply Keeps.ofNext
    | with_reducible exact .refl _
    | with_reducible assumption
    | with_reducible exact State.atomic_keeps _ _ _ _ _ _ _
    | with_reducible intro _

theorem execUeVaadd_keeps (t : Stall) (n : ThreadNo) (f : InsnFields) (s : State) : StepKeeps s
    (execUeVaadd t n f s) := by
  unfold execUeVaadd
  try dsimp only
  repeat' first
    | with_reducible apply Keeps.ofSome
    | with_reducible exact Keeps.ofNone
    | with_reducible apply Keeps.iteOpt
    | with_reducible exact Keeps.ofFault _
    | with_reducible apply Keeps.ofNext
    | with_reducible exact .refl _
    | with_reducible assumption
    | with_reducible apply Keeps.fold
    | with_reducible apply Keeps.foldPair
    | with_reducible apply Keeps.after (State.faultThread_keeps _ _ _ _ _)
    | (with_reducible apply State.insnAt_keeps)
    | ((with_reducible apply Keeps.afterT (State.retire_touches _ _ _ _)); · rfl)
    | with_reducible apply Keeps.after (State.accessFault_keeps _ _ _ _ _)
    | with_reducible apply Keeps.after (State.atomicAt_keeps _ _ _ _ _ _ _)
    | with_reducible exact State.atomic_keeps _ _ _ _ _ _ _
    | with_reducible apply Keeps.ite
    | with_reducible apply Keeps.iteStep
    | with_reducible intro _
    | split
    | with_reducible refine Keeps.pair (by assumption) ?_
    | dsimp only

theorem execUeFence_keeps (t : Stall) (n : ThreadNo) (f : InsnFields) (s : State) : StepKeeps s
    (execUeFence t n f s) := by
  unfold execUeFence
  try dsimp only
  repeat' first
    | with_reducible apply Keeps.ofNext
    | with_reducible exact .refl _
    | with_reducible assumption
    | (with_reducible apply State.insn_keeps)
    | ((with_reducible apply Keeps.afterT (State.retire_touches _ _ _ _)); · rfl)
    | with_reducible intro _

theorem execUeTsync_keeps (t : Stall) (n : ThreadNo) (f : InsnFields) (s : State) : StepKeeps s
    (execUeTsync t n f s) := by
  unfold execUeTsync
  try dsimp only
  repeat' first
    | with_reducible apply Keeps.ofNext
    | with_reducible exact .refl _
    | with_reducible assumption
    | ((with_reducible apply Keeps.afterT (State.setThread_touches _ _ _ _)); · rfl)
    | ((with_reducible apply Keeps.afterT (State.modTeam_touches _ _ _ _)); · rfl)
    | ((with_reducible apply Keeps.afterT (State.checkBarrier_touches _ _ _)); · rfl)
    | (with_reducible apply State.insn_keeps)
    | with_reducible intro _
    | with_reducible refine Keeps.pair (by assumption) ?_
    | dsimp only

theorem execUeBellw_keeps (t : Stall) (n : ThreadNo) (f : InsnFields) (nj : Nat) (s : State) : StepKeeps s
    (execUeBellw t n f nj s) := by
  unfold execUeBellw
  try dsimp only
  repeat' first
    | with_reducible apply Keeps.ofNext
    | with_reducible exact .refl _
    | with_reducible assumption
    | with_reducible apply Keeps.after (State.yieldTo_keeps _ _ _ _ _)
    | (with_reducible apply State.insn_keeps)
    | ((with_reducible apply Keeps.afterT (State.retire_touches _ _ _ _)); · rfl)
    | with_reducible apply Keeps.ite
    | with_reducible apply Keeps.iteStep
    | with_reducible intro _
    | split
    | with_reducible refine Keeps.pair (by assumption) ?_
    | dsimp only

theorem execUeWaitm_keeps (t : Stall) (n : ThreadNo) (f : InsnFields) (nj : Nat) (s : State) : StepKeeps s
    (execUeWaitm t n f nj s) := by
  unfold execUeWaitm
  try dsimp only
  repeat' first
    | with_reducible exact Keeps.ofFault _
    | with_reducible apply Keeps.ofNext
    | with_reducible exact .refl _
    | with_reducible assumption
    | with_reducible apply Keeps.after (State.yieldTo_keeps _ _ _ _ _)
    | with_reducible apply Keeps.after (State.faultThread_keeps _ _ _ _ _)
    | (with_reducible apply State.insn_keeps)
    | ((with_reducible apply Keeps.afterT (State.retire_touches _ _ _ _)); · rfl)
    | with_reducible apply Keeps.ite
    | with_reducible apply Keeps.iteStep
    | with_reducible intro _
    | split
    | with_reducible refine Keeps.pair (by assumption) ?_
    | dsimp only

theorem execUeYield_keeps (t : Stall) (n : ThreadNo) (f : InsnFields) (nj : Nat) (s : State) : StepKeeps s
    (execUeYield t n f nj s) := by
  unfold execUeYield
  try dsimp only
  repeat' first
    | with_reducible apply Keeps.ofNext
    | with_reducible exact .refl _
    | with_reducible assumption
    | with_reducible apply Keeps.after (State.yieldTo_keeps _ _ _ _ _)
    | (with_reducible apply State.insn_keeps)
    | ((with_reducible apply Keeps.afterT (State.retire_touches _ _ _ _)); · rfl)
    | with_reducible intro _
    | with_reducible refine Keeps.pair (by assumption) ?_
    | dsimp only

theorem execUeKwait_keeps (t : Stall) (n : ThreadNo) (f : InsnFields) (s : State) : StepKeeps s
    (execUeKwait t n f s) := by
  unfold execUeKwait
  try dsimp only
  repeat' first
    | with_reducible apply Keeps.ofNext
    | with_reducible exact .refl _
    | with_reducible assumption
    | ((with_reducible apply Keeps.afterT (State.setThread_touches _ _ _ _)); · rfl)
    | ((with_reducible apply Keeps.afterT (State.closeWindows_touches _ _ _ _)); · rfl)
    | (with_reducible apply State.insn_keeps)
    | ((with_reducible apply Keeps.afterT (State.retire_touches _ _ _ _)); · rfl)
    | with_reducible apply Keeps.ite
    | with_reducible apply Keeps.iteStep
    | with_reducible intro _
    | split
    | with_reducible refine Keeps.pair (by assumption) ?_
    | dsimp only

theorem execUeEnd_keeps (t : Stall) (n : ThreadNo) (f : InsnFields) (nj : Nat) (s : State) : StepKeeps s
    (execUeEnd t n f nj s) := by
  unfold execUeEnd
  try dsimp only
  repeat' first
    | with_reducible apply Keeps.ofNext
    | with_reducible exact .refl _
    | with_reducible assumption
    | ((with_reducible apply Keeps.afterT (State.endSegment_touches _ _ _ _)); · rfl)
    | with_reducible apply Keeps.after (State.endThread_keeps _ _ _)
    | (with_reducible apply State.insn_keeps)
    | ((with_reducible apply Keeps.afterT (State.retire_touches _ _ _ _)); · rfl)
    | with_reducible intro _
    | with_reducible refine Keeps.pair (by assumption) ?_
    | dsimp only

theorem execUeTake_keeps (t : Stall) (n : ThreadNo) (f : InsnFields) (nj : Nat) (s : State) : StepKeeps s
    (execUeTake t n f nj s) := by
  unfold execUeTake
  try dsimp only
  repeat' first
    | with_reducible exact Keeps.ofFault _
    | with_reducible apply Keeps.ofNext
    | with_reducible exact .refl _
    | with_reducible assumption
    | with_reducible apply Keeps.after (State.serveTake_keeps _ _ _)
    | with_reducible apply Keeps.after (State.yieldTo_keeps _ _ _ _ _)
    | with_reducible apply Keeps.after (State.faultThread_keeps _ _ _ _ _)
    | (with_reducible apply State.insn_keeps)
    | ((with_reducible apply Keeps.afterT (State.retire_touches _ _ _ _)); · rfl)
    | with_reducible apply Keeps.ite
    | with_reducible apply Keeps.iteStep
    | with_reducible intro _
    | split
    | with_reducible refine Keeps.pair (by assumption) ?_
    | dsimp only

theorem execUeTpoll_keeps (t : Stall) (n : ThreadNo) (f : InsnFields) (s : State) : StepKeeps s
    (execUeTpoll t n f s) := by
  unfold execUeTpoll
  try dsimp only
  repeat' first
    | with_reducible exact Keeps.ofFault _
    | with_reducible apply Keeps.ofNext
    | with_reducible exact .refl _
    | with_reducible assumption
    | with_reducible apply Keeps.after (State.claim_keeps _ _ _ _ _)
    | with_reducible apply Keeps.after (State.faultThread_keeps _ _ _ _ _)
    | (with_reducible apply State.insn_keeps)
    | ((with_reducible apply Keeps.afterT (State.retire_touches _ _ _ _)); · rfl)
    | with_reducible apply Keeps.ite
    | with_reducible apply Keeps.iteStep
    | with_reducible intro _
    | split
    | with_reducible apply Keeps.put_free
    | with_reducible refine Keeps.pair (by assumption) ?_
    | dsimp only

theorem execUeGive_keeps (t : Stall) (n : ThreadNo) (f : InsnFields) (s : State) : StepKeeps s (execUeGive
    t n f s) := by
  unfold execUeGive
  try dsimp only
  repeat' first
    | with_reducible apply Keeps.ofSome
    | with_reducible exact Keeps.ofNone
    | with_reducible apply Keeps.iteOpt
    | with_reducible apply Keeps.ofNext
    | with_reducible exact .refl _
    | with_reducible assumption
    | with_reducible apply Keeps.after (State.freeBuffer_keeps _ _)
    | ((with_reducible apply Keeps.afterT (State.modTeam_touches _ _ _ _)); · rfl)
    | with_reducible apply Keeps.after (State.countHeld_keeps _ _ _ _)
    | (with_reducible apply State.insnTry_keeps)
    | ((with_reducible apply Keeps.afterT (State.retire_touches _ _ _ _)); · rfl)
    | with_reducible apply Keeps.ite
    | with_reducible apply Keeps.iteStep
    | with_reducible intro _
    | split
    | with_reducible refine Keeps.pair (by assumption) ?_
    | dsimp only

theorem execUeOutbuf_keeps (t : Stall) (n : ThreadNo) (f : InsnFields) (s : State) : StepKeeps s
    (execUeOutbuf t n f s) := by
  unfold execUeOutbuf
  try dsimp only
  repeat' first
    | with_reducible apply Keeps.ofNext
    | with_reducible exact .refl _
    | with_reducible assumption
    | with_reducible apply Keeps.after (State.allocFrom_keeps _ _ _ _)
    | ((with_reducible apply Keeps.afterPair (State.allocFrom_keeps _ _ _ _)); · assumption)
    | ((with_reducible apply Keeps.afterT (State.modTeam_touches _ _ _ _)); · rfl)
    | (with_reducible apply State.insn_keeps)
    | ((with_reducible apply Keeps.afterT (State.retire_touches _ _ _ _)); · rfl)
    | with_reducible intro _
    | split
    | with_reducible refine Keeps.pair (by assumption) ?_
    | dsimp only

theorem State.mcast_keeps (s : State) (t : Stall) (x : Thread) (g seq chunk offset : Nat) (isLast : Bool)
    (a : Nat) (data : List Byte) : Keeps s (State.mcast s t x g seq chunk offset isLast a data) := by
  unfold State.mcast
  try dsimp only
  repeat' first
    | with_reducible exact .refl _
    | with_reducible assumption
    | with_reducible apply Keeps.after (State.sendOutputs_keeps _ _ _ _ _ _)
    | ((with_reducible apply Keeps.afterT (State.modTeam_touches _ _ _ _)); · rfl)
    | with_reducible intro _
    | with_reducible apply Keeps.put_out
    | with_reducible refine Keeps.pair (by assumption) ?_
    | dsimp only

theorem execUeMcast_keeps (t : Stall) (n : ThreadNo) (f : InsnFields) (s : State) : StepKeeps s
    (execUeMcast t n f s) := by
  unfold execUeMcast
  try dsimp only
  repeat' first
    | with_reducible apply Keeps.ofSome
    | with_reducible exact Keeps.ofNone
    | with_reducible apply Keeps.iteOpt
    | with_reducible exact Keeps.ofFault _
    | with_reducible apply Keeps.ofNext
    | with_reducible exact .refl _
    | with_reducible assumption
    | with_reducible apply Keeps.when
    | ((with_reducible apply Keeps.afterT (State.countAccess_touches _ _ _ _ _ _)); · rfl)
    | ((with_reducible apply Keeps.afterT (State.readOpen_touches _ _ _)); · rfl)
    | ((with_reducible apply Keeps.afterPairT (State.readOpen_touches _ _ _)); (· assumption); (· rfl))
    | with_reducible apply Keeps.after (State.faultThread_keeps _ _ _ _ _)
    | (with_reducible apply State.insnTry_keeps)
    | ((with_reducible apply Keeps.afterT (State.retire_touches _ _ _ _)); · rfl)
    | with_reducible apply Keeps.after (State.mcast_keeps _ _ _ _ _ _ _ _ _ _)
    | with_reducible apply Keeps.ite
    | with_reducible apply Keeps.iteStep
    | with_reducible intro _
    | split
    | with_reducible refine Keeps.pair (by assumption) ?_
    | dsimp only

theorem execUeRcpt_keeps (t : Stall) (n : ThreadNo) (f : InsnFields) (s : State) : StepKeeps s (execUeRcpt
    t n f s) := by
  unfold execUeRcpt
  try dsimp only
  repeat' first
    | with_reducible apply Keeps.ofSome
    | with_reducible exact Keeps.ofNone
    | with_reducible apply Keeps.iteOpt
    | with_reducible exact Keeps.ofFault _
    | with_reducible apply Keeps.ofNext
    | with_reducible exact .refl _
    | with_reducible assumption
    | ((with_reducible apply Keeps.afterT (State.modTeam_touches _ _ _ _)); · rfl)
    | with_reducible apply Keeps.after (State.teamReceipt_keeps _ _ _ _ _ _ _ _ _)
    | with_reducible apply Keeps.after (State.faultThread_keeps _ _ _ _ _)
    | (with_reducible apply State.insnTry_keeps)
    | ((with_reducible apply Keeps.afterT (State.retire_touches _ _ _ _)); · rfl)
    | with_reducible apply Keeps.ite
    | with_reducible apply Keeps.iteStep
    | with_reducible intro _
    | split
    | with_reducible apply Keeps.put_out
    | with_reducible refine Keeps.pair (by assumption) ?_
    | dsimp only

theorem execUeMxi_keeps (t : Stall) (n : ThreadNo) (f : InsnFields) (s : State) : StepKeeps s (execUeMxi t
    n f s) := by
  unfold execUeMxi
  try dsimp only
  repeat' first
    | with_reducible apply Keeps.ofSome
    | with_reducible exact Keeps.ofNone
    | with_reducible apply Keeps.iteOpt
    | with_reducible exact Keeps.ofFault _
    | with_reducible apply Keeps.ofNext
    | with_reducible exact .refl _
    | with_reducible assumption
    | ((with_reducible apply Keeps.afterT (State.addCounter_touches _ _ _ _ _)); · rfl)
    | with_reducible apply Keeps.after (State.faultThread_keeps _ _ _ _ _)
    | with_reducible apply Keeps.after (State.issueDesc_keeps _ _ _ _ _ _)
    | (with_reducible apply State.insnTry_keeps)
    | ((with_reducible apply Keeps.afterT (State.retire_touches _ _ _ _)); · rfl)
    | with_reducible apply Keeps.ite
    | with_reducible apply Keeps.iteStep
    | with_reducible intro _
    | split
    | with_reducible refine Keeps.pair (by assumption) ?_
    | dsimp only

theorem State.failLoad_keeps (s : State) (t n code a : Nat) : Keeps s (State.failLoad s t n code a) := by
  unfold State.failLoad
  try dsimp only
  repeat' first
    | with_reducible exact .refl _
    | with_reducible assumption
    | with_reducible apply Keeps.after (State.faultThread_keeps _ _ _ _ _)
    | with_reducible intro _
    | split
    | with_reducible refine Keeps.pair (by assumption) ?_
    | dsimp only

end Sys2Proof.Machine
end

