-- ==== Sys2Proof/Laws/TouchBoot.lean ====
section
/-! SUPPORT. Which parts of the state each operation of Machine/Boot.lean changes. -/

namespace Sys2Proof.Machine

theorem execMemoryReady_touches (s : State) : StepTouches [.power, .mem, .warden] s (execMemoryReady s) :=
    by
  unfold execMemoryReady
  try dsimp only
  repeat' first
    | with_reducible apply OnlyTouches.ofNext
    | with_reducible exact .refl _ _
    | with_reducible assumption
    | (with_reducible apply OnlyTouches.after (State.fixMap_touches _); · decide)
    | (with_reducible apply OnlyTouches.after (State.startGroup_touches _ _); · decide)
    | (with_reducible apply OnlyTouches.after (State.settleBoot_touches _); · decide)
    | (with_reducible apply OnlyTouches.after (State.bootGoesOn_touches _); · decide)
    | with_reducible apply OnlyTouches.ite
    | with_reducible apply OnlyTouches.iteStep
    | with_reducible intro _
    | split
    | (with_reducible apply OnlyTouches.put_power; · decide)

theorem State.countFetch_touches (s : State) (a n : Nat) : OnlyTouches [.objs, .ledger] s (State.countFetch
    s a n) := by
  unfold State.countFetch
  try dsimp only
  repeat' first
    | with_reducible exact .refl _ _
    | with_reducible assumption
    | (with_reducible apply OnlyTouches.after (State.countHost_touches _ _ _ _); · decide)
    | with_reducible intro _

theorem State.bootBundle_touches (s : State) (item : BootItem) (fetched : Option (List Byte)) : OnlyTouches
    [.objs, .power, .optics, .ports, .update, .mem, .ledger, .dict, .host] s (State.bootBundle s item
    fetched) := by
  unfold State.bootBundle
  try dsimp only
  repeat' first
    | with_reducible exact .refl _ _
    | with_reducible assumption
    | (with_reducible apply OnlyTouches.after (State.eventObj_touches _ _ _ _); · decide)
    | (with_reducible apply OnlyTouches.after (State.eventAt_touches _ _ _ _ _); · decide)
    | (with_reducible apply OnlyTouches.after (State.hostError_touches _); · decide)
    | (with_reducible apply OnlyTouches.after (State.verifyFailed_touches _); · decide)
    | (with_reducible apply OnlyTouches.after (State.placeBundle_touches _ _); · decide)
    | (with_reducible apply OnlyTouches.afterPair (State.placeBundle_touches _ _); (first | assumption | decide); (first | assumption | decide))
    | (with_reducible apply OnlyTouches.after (State.countFetch_touches _ _ _); · decide)
    | with_reducible apply OnlyTouches.ite
    | with_reducible intro _
    | split
    | with_reducible refine OnlyTouches.pair (by assumption) ?_
    | dsimp only

theorem execBootBundleLoaded_touches (fetched : Option (List Byte)) (s : State) : StepTouches [.objs,
    .power, .optics, .ports, .update, .mem, .warden, .ledger, .dict, .host] s (execBootBundleLoaded fetched
    s) := by
  unfold execBootBundleLoaded
  try dsimp only
  repeat' first
    | with_reducible apply OnlyTouches.ofNext
    | with_reducible exact .refl _ _
    | with_reducible assumption
    | (with_reducible apply OnlyTouches.after (State.settleBoot_touches _); · decide)
    | (with_reducible apply OnlyTouches.after (State.bootBundle_touches _ _ _); · decide)
    | with_reducible apply OnlyTouches.ite
    | with_reducible apply OnlyTouches.iteStep
    | with_reducible intro _
    | split
    | (with_reducible apply OnlyTouches.put_power; · decide)
    | with_reducible refine OnlyTouches.pair (by assumption) ?_
    | dsimp only

theorem execBootWaitExpiry_touches (s : State) : StepTouches [.objs, .power, .warden, .dict, .host] s
    (execBootWaitExpiry s) := by
  unfold execBootWaitExpiry
  try dsimp only
  repeat' first
    | with_reducible apply OnlyTouches.ofNext
    | with_reducible exact .refl _ _
    | with_reducible assumption
    | (with_reducible apply OnlyTouches.after (State.eventObj_touches _ _ _ _); · decide)
    | (with_reducible apply OnlyTouches.after (State.startGroup_touches _ _); · decide)
    | with_reducible apply OnlyTouches.ite
    | with_reducible apply OnlyTouches.iteStep
    | with_reducible intro _
    | split
    | (with_reducible apply OnlyTouches.put_power; · decide)
    | with_reducible refine OnlyTouches.pair (by assumption) ?_
    | dsimp only

theorem execEngineStartDone_touches (group : Fin 4) (s : State) : StepTouches [.power, .optics, .ports,
    .warden, .ledger] s (execEngineStartDone group s) := by
  unfold execEngineStartDone
  try dsimp only
  repeat' first
    | with_reducible apply OnlyTouches.ofNext
    | with_reducible exact .refl _ _
    | with_reducible assumption
    | with_reducible apply OnlyTouches.each
    | (with_reducible apply OnlyTouches.after (State.portsUp_touches _); · decide)
    | (with_reducible apply OnlyTouches.after (State.startEngine_touches _ _); · decide)
    | (with_reducible apply OnlyTouches.after (State.startGroup_touches _ _); · decide)
    | with_reducible apply OnlyTouches.ite
    | with_reducible apply OnlyTouches.iteStep
    | with_reducible intro _
    | split
    | (with_reducible apply OnlyTouches.put_power; · decide)

theorem execStoreCommitDone_touches (entry : Fin 64) (s : State) : StepTouches [.objs, .power, .optics,
    .ports, .mem, .dict, .host] s (execStoreCommitDone entry s) := by
  unfold execStoreCommitDone
  try dsimp only
  repeat' first
    | with_reducible apply OnlyTouches.ofNext
    | with_reducible exact .refl _ _
    | with_reducible assumption
    | (with_reducible apply OnlyTouches.after (State.store_touches _ _ _); · decide)
    | (with_reducible apply OnlyTouches.after (State.identity_touches _ _ _); · decide)
    | (with_reducible apply OnlyTouches.after (State.verifyFailed_touches _); · decide)
    | (with_reducible apply OnlyTouches.after (State.emptyStore_touches _ _); · decide)
    | with_reducible apply OnlyTouches.ite
    | with_reducible apply OnlyTouches.iteStep
    | with_reducible intro _
    | split
    | (with_reducible apply OnlyTouches.put_host; · decide)
    | with_reducible refine OnlyTouches.pair (by assumption) ?_
    | dsimp only

theorem execAttestReportReady_touches (s : State) : StepTouches [.host] s (execAttestReportReady s) := by
  unfold execAttestReportReady
  try dsimp only
  repeat' first
    | with_reducible apply OnlyTouches.ofNext
    | with_reducible exact .refl _ _
    | with_reducible assumption
    | with_reducible apply OnlyTouches.ite
    | with_reducible apply OnlyTouches.iteStep
    | with_reducible intro _
    | split
    | (with_reducible apply OnlyTouches.put_host; · decide)

end Sys2Proof.Machine
end

