-- ==== Sys2Proof/Laws/KeepBoot.lean ====
section
/-! SUPPORT. The operations of Machine/Boot.lean keep the invariant. -/

namespace Sys2Proof.Machine

theorem execMemoryReady_keeps (s : State) : StepKeeps s (execMemoryReady s) := by
  unfold execMemoryReady
  apply Keeps.ofNext
  split
  · exact .refl _
  rename_i hb
  dsimp only
  have k : ∀ st b, Keeps s { s.fixMap with power := { s.fixMap.power with boot := st, bootNext := 0, waitSince := b } } := by
    refine fun st b => .put_power (fun i => ?_) (State.fixMap_keeps _)
    have r : s.fixMap.power.released = true := i.boots (by
      rw [show s.fixMap.power = s.power from State.fixMap_touches s .power (by decide)]
      intro h; rw [h] at hb; exact hb rfl)
    exact ⟨i.capsule, i.pinned, i.converts, i.released, i.powering, fun _ => r, i.converting, i.ready⟩
  with_reducible apply Keeps.ite
  · exact .afterT (State.startGroup_touches _ _) rfl (k _ _)
  · exact .after (State.settleBoot_keeps _) (.after (State.bootGoesOn_keeps _) (k _ _))

theorem State.bootBundle_keeps (s : State) (item : BootItem) (fetched : Option (List Byte)) : Keeps s
    (State.bootBundle s item fetched) := by
  unfold State.bootBundle
  try dsimp only
  repeat' first
    | with_reducible exact .refl _
    | with_reducible assumption
    | with_reducible apply Keeps.after (State.eventObj_keeps _ _ _ _)
    | with_reducible apply Keeps.after (State.eventAt_keeps _ _ _ _ _)
    | ((with_reducible apply Keeps.afterT (State.hostError_touches _)); · rfl)
    | with_reducible apply Keeps.after (State.verifyFailed_keeps _)
    | with_reducible apply Keeps.after (State.placeBundle_keeps _ _)
    | ((with_reducible apply Keeps.afterPair (State.placeBundle_keeps _ _)); · assumption)
    | ((with_reducible apply Keeps.afterT (State.countFetch_touches _ _ _)); · rfl)
    | with_reducible apply Keeps.ite
    | with_reducible intro _
    | split
    | with_reducible refine Keeps.pair (by assumption) ?_
    | dsimp only

theorem execBootBundleLoaded_keeps (fetched : Option (List Byte)) (s : State) : StepKeeps s
    (execBootBundleLoaded fetched s) := by
  unfold execBootBundleLoaded
  try dsimp only
  repeat' first
    | with_reducible apply Keeps.ofNext
    | with_reducible exact .refl _
    | with_reducible assumption
    | with_reducible apply Keeps.after (State.settleBoot_keeps _)
    | with_reducible apply Keeps.after (State.bootBundle_keeps _ _ _)
    | with_reducible intro _
    | split
    | ((with_reducible apply Keeps.put_power); · exact fun i => ⟨i.capsule, i.pinned, i.converts, i.released, i.powering, i.boots, i.converting, i.ready⟩)
    | ((with_reducible apply Keeps.put_power); · exact fun i => by (obtain ⟨a, b, c, d, e, f, g, h⟩ := i; constructor <;> first | exact a | exact b | grind))
    | with_reducible refine Keeps.pair (by assumption) ?_
    | dsimp only

theorem execBootWaitExpiry_keeps (s : State) : StepKeeps s (execBootWaitExpiry s) := by
  unfold execBootWaitExpiry
  try dsimp only
  repeat' first
    | with_reducible apply Keeps.ofNext
    | with_reducible exact .refl _
    | with_reducible assumption
    | with_reducible apply Keeps.after (State.eventObj_keeps _ _ _ _)
    | ((with_reducible apply Keeps.afterT (State.startGroup_touches _ _)); · rfl)
    | with_reducible intro _
    | split
    | ((with_reducible apply Keeps.put_power); · exact fun i => ⟨i.capsule, i.pinned, i.converts, i.released, i.powering, i.boots, i.converting, i.ready⟩)
    | ((with_reducible apply Keeps.put_power); · exact fun i => by (obtain ⟨a, b, c, d, e, f, g, h⟩ := i; constructor <;> first | exact a | exact b | grind))
    | with_reducible refine Keeps.pair (by assumption) ?_
    | dsimp only

theorem execEngineStartDone_keeps (group : Fin 4) (s : State) : StepKeeps s (execEngineStartDone group s)
    := by
  unfold execEngineStartDone
  apply Keeps.ofNext
  split
  · exact .refl _
  rename_i hb
  dsimp only
  generalize hu : State.each s _ _ = u
  have t : OnlyTouches [.optics, .ports, .ledger] s u := hu ▸ .each _ (.refl _ _) fun u e =>
    State.startEngine_touches u e
  have k : Keeps s u := .ofTouches t rfl
  have r : PowerOk u.power → u.power.released = true := fun i => i.boots (by
    rw [show u.power = s.power from t .power (by decide)]
    intro h; rw [h] at hb; exact hb rfl)
  split
  · exact .after (State.portsUp_keeps _) (.put_power (fun i => ⟨i.capsule, i.pinned, i.converts, i.released,
      i.powering, fun _ => r i, i.converting, i.ready⟩) k)
  · exact .afterT (State.startGroup_touches _ _) rfl (.put_power (fun i => ⟨i.capsule, i.pinned, i.converts,
      i.released, i.powering, i.boots, i.converting, i.ready⟩) k)

theorem execStoreCommitDone_keeps (entry : Fin 64) (s : State) : StepKeeps s (execStoreCommitDone entry s)
    := by
  unfold execStoreCommitDone
  try dsimp only
  repeat' first
    | with_reducible apply Keeps.ofNext
    | with_reducible exact .refl _
    | with_reducible assumption
    | with_reducible apply Keeps.after (State.store_keeps _ _ _)
    | with_reducible apply Keeps.after (State.identity_keeps _ _ _)
    | with_reducible apply Keeps.after (State.verifyFailed_keeps _)
    | with_reducible apply Keeps.after (State.emptyStore_keeps _ _)
    | with_reducible apply Keeps.ite
    | with_reducible apply Keeps.iteStep
    | with_reducible intro _
    | split
    | with_reducible apply Keeps.put_host
    | with_reducible refine Keeps.pair (by assumption) ?_
    | dsimp only

end Sys2Proof.Machine
end

