-- ==== Sys2Proof/Laws/TouchHostLink.lean ====
section
/-! SUPPORT. Which parts of the state each operation of Machine/HostLink.lean changes. -/

namespace Sys2Proof.Machine

theorem State.putCheckpoint_touches (s : State) (c : Checkpoint) : OnlyTouches [.host] s
    (State.putCheckpoint s c) := by
  unfold State.putCheckpoint
  try dsimp only
  repeat' first
    | with_reducible exact .refl _ _
    | with_reducible assumption
    | with_reducible apply OnlyTouches.ite
    | with_reducible intro _
    | split
    | (with_reducible apply OnlyTouches.put_host; · decide)

theorem State.dropCheckpoint_touches (s : State) (token : Nat) : OnlyTouches [.host] s
    (State.dropCheckpoint s token) := by
  unfold State.dropCheckpoint
  try dsimp only
  repeat' first
    | with_reducible exact .refl _ _
    | with_reducible assumption
    | with_reducible intro _
    | (with_reducible apply OnlyTouches.put_host; · decide)

theorem State.sendBlock_touches (s : State) (c : Checkpoint) : OnlyTouches [.objs, .ports, .switch, .coll,
    .mem, .ledger, .dict, .host, .out] s (State.sendBlock s c) := by
  unfold State.sendBlock
  try dsimp only
  repeat' first
    | with_reducible exact .refl _ _
    | with_reducible assumption
    | with_reducible apply OnlyTouches.when
    | (with_reducible apply OnlyTouches.after (State.bump_touches _ _ _); · decide)
    | (with_reducible apply OnlyTouches.after (State.send_touches _ _ _ _ _); · decide)
    | (with_reducible apply OnlyTouches.after (State.countFirmware_touches _ _ _ _); · decide)
    | (with_reducible apply OnlyTouches.after (State.setProgress_touches _ _ _); · decide)
    | (with_reducible apply OnlyTouches.after (State.hostStoreEp_touches _ _ _ _ _); · decide)
    | (with_reducible apply OnlyTouches.after (State.putCheckpoint_touches _ _); · decide)
    | with_reducible apply OnlyTouches.ite
    | with_reducible intro _
    | split
    | with_reducible refine OnlyTouches.pair (by assumption) ?_
    | dsimp only

theorem State.sendBlocks_touches (s : State) (token : Nat) (x0 : Nat) : OnlyTouches [.objs, .ports,
    .switch, .coll, .mem, .ledger, .dict, .host, .out] s (State.sendBlocks s token x0) := by
  induction x0 generalizing s token with
  | zero =>
    unfold State.sendBlocks
    try dsimp only
    all_goals repeat' first
      | with_reducible exact .refl _ _
      | with_reducible assumption
      | (with_reducible apply OnlyTouches.after (State.sendBlock_touches _ _); · decide)
      | with_reducible apply OnlyTouches.ite
      | with_reducible intro _
      | split
      | with_reducible refine OnlyTouches.pair (by assumption) ?_
      | dsimp only
  | succ k ih =>
    unfold State.sendBlocks
    try dsimp only
    all_goals repeat' first
      | with_reducible exact .refl _ _
      | with_reducible assumption
      | (with_reducible apply OnlyTouches.after (ih _ _); · decide)
      | (with_reducible apply OnlyTouches.after (State.sendBlock_touches _ _); · decide)
      | with_reducible apply OnlyTouches.ite
      | with_reducible intro _
      | split
      | with_reducible refine OnlyTouches.pair (by assumption) ?_
      | dsimp only

theorem State.failCheckpoint_touches (s : State) (c : Checkpoint) : OnlyTouches [.objs, .dict, .host] s
    (State.failCheckpoint s c) := by
  unfold State.failCheckpoint
  try dsimp only
  repeat' first
    | with_reducible exact .refl _ _
    | with_reducible assumption
    | (with_reducible apply OnlyTouches.after (State.endFailed_touches _ _ _); · decide)
    | (with_reducible apply OnlyTouches.after (State.setResult_touches _ _ _ _); · decide)
    | (with_reducible apply OnlyTouches.after (State.dropCheckpoint_touches _ _); · decide)
    | with_reducible intro _
    | with_reducible refine OnlyTouches.pair (by assumption) ?_
    | dsimp only

theorem State.streamRoute_touches (s : State) (fabric : Bool) : OnlyTouches [.objs, .ports, .switch, .coll,
    .mem, .ledger, .dict, .host, .out] s (State.streamRoute s fabric) := by
  unfold State.streamRoute
  try dsimp only
  repeat' first
    | with_reducible exact .refl _ _
    | with_reducible assumption
    | (with_reducible apply OnlyTouches.after (State.hostError_touches _); · decide)
    | (with_reducible apply OnlyTouches.after (State.putCheckpoint_touches _ _); · decide)
    | (with_reducible apply OnlyTouches.after (State.sendBlocks_touches _ _ _); · decide)
    | (with_reducible apply OnlyTouches.after (State.failCheckpoint_touches _ _); · decide)
    | with_reducible apply OnlyTouches.ite
    | with_reducible intro _
    | split
    | with_reducible refine OnlyTouches.pair (by assumption) ?_
    | dsimp only

theorem State.streamCheckpoints_touches (s : State) : OnlyTouches [.objs, .ports, .switch, .coll, .mem,
    .ledger, .dict, .host, .out] s (State.streamCheckpoints s) := by
  unfold State.streamCheckpoints
  try dsimp only
  repeat' first
    | with_reducible exact .refl _ _
    | with_reducible assumption
    | (with_reducible apply OnlyTouches.after (State.streamRoute_touches _ _); · decide)
    | with_reducible intro _
    | with_reducible refine OnlyTouches.pair (by assumption) ?_
    | dsimp only

theorem State.sendTrailer_touches (s : State) (c : Checkpoint) : OnlyTouches [.objs, .ports, .switch,
    .coll, .mem, .ledger, .dict, .host] s (State.sendTrailer s c) := by
  unfold State.sendTrailer
  try dsimp only
  repeat' first
    | with_reducible exact .refl _ _
    | with_reducible assumption
    | (with_reducible apply OnlyTouches.after (State.send_touches _ _ _ _ _); · decide)
    | with_reducible intro _
    | with_reducible refine OnlyTouches.pair (by assumption) ?_
    | dsimp only

theorem State.endStream_touches (s : State) (token : Nat) (blocks : Nat) : OnlyTouches [.objs, .ports,
    .switch, .coll, .mem, .ledger, .dict, .host, .out] s (State.endStream s token blocks) := by
  unfold State.endStream
  try dsimp only
  repeat' first
    | with_reducible exact .refl _ _
    | with_reducible assumption
    | (with_reducible apply OnlyTouches.after (State.endDone_touches _ _); · decide)
    | (with_reducible apply OnlyTouches.after (State.setResult_touches _ _ _ _); · decide)
    | (with_reducible apply OnlyTouches.after (State.dropCheckpoint_touches _ _); · decide)
    | (with_reducible apply OnlyTouches.after (State.sendBlocks_touches _ _ _); · decide)
    | (with_reducible apply OnlyTouches.after (State.sendTrailer_touches _ _); · decide)
    | with_reducible apply OnlyTouches.ite
    | with_reducible intro _
    | split
    | with_reducible refine OnlyTouches.pair (by assumption) ?_
    | dsimp only

theorem execCheckpointEnd_touches (token : BitVec 64) (hostError : Bool) (s : State) : StepTouches [.objs,
    .ports, .switch, .coll, .mem, .ledger, .dict, .host, .out] s (execCheckpointEnd token hostError s) := by
  unfold execCheckpointEnd
  try dsimp only
  repeat' first
    | with_reducible apply OnlyTouches.ofNext
    | with_reducible exact .refl _ _
    | with_reducible assumption
    | (with_reducible apply OnlyTouches.after (State.hostError_touches _); · decide)
    | (with_reducible apply OnlyTouches.after (State.failCheckpoint_touches _ _); · decide)
    | (with_reducible apply OnlyTouches.after (State.endStream_touches _ _ _); · decide)
    | with_reducible apply OnlyTouches.ite
    | with_reducible apply OnlyTouches.iteStep
    | with_reducible intro _
    | split
    | with_reducible refine OnlyTouches.pair (by assumption) ?_
    | dsimp only

theorem State.dropRequest_touches (s : State) (id : Nat) : OnlyTouches [.host] s (State.dropRequest s id)
    := by
  unfold State.dropRequest
  try dsimp only
  repeat' first
    | with_reducible exact .refl _ _
    | with_reducible assumption
    | with_reducible intro _
    | (with_reducible apply OnlyTouches.put_host; · decide)

theorem State.dropLoads_touches (s : State) (t n : Nat) : OnlyTouches [.objs, .time, .ports, .switch,
    .coll, .update, .arrays, .mem, .custody, .ledger, .dict, .host, .free, .out] s (State.dropLoads s t n)
    := by
  unfold State.dropLoads
  try dsimp only
  repeat' first
    | with_reducible exact .refl _ _
    | with_reducible assumption
    | (with_reducible apply OnlyTouches.afterOpt (State.load_touches _ _ _ _ _ _ _); (first | assumption | decide); (first | assumption | decide))
    | with_reducible intro _
    | split
    | (with_reducible apply OnlyTouches.put_host; · decide)

theorem State.moveData_touches (s : State) (id : Nat) (data : Option (List Byte)) : OnlyTouches [.objs,
    .update] s (State.moveData s id data) := by
  unfold State.moveData
  try dsimp only
  repeat' first
    | with_reducible exact .refl _ _
    | with_reducible assumption
    | (with_reducible apply OnlyTouches.after (State.hostError_touches _); · decide)
    | with_reducible apply OnlyTouches.ite
    | with_reducible intro _
    | split
    | (with_reducible apply OnlyTouches.put_update; · decide)

theorem State.failRequest_touches (s : State) (r : HostReq) (code : Nat) : OnlyTouches [.objs, .time,
    .ports, .switch, .coll, .update, .arrays, .mem, .custody, .ledger, .dict, .host, .free, .out] s
    (State.failRequest s r code) := by
  unfold State.failRequest
  try dsimp only
  repeat' first
    | with_reducible exact .refl _ _
    | with_reducible assumption
    | (with_reducible apply OnlyTouches.after (State.hostError_touches _); · decide)
    | (with_reducible apply OnlyTouches.afterOpt (State.load_touches _ _ _ _ _ _ _); (first | assumption | decide); (first | assumption | decide))
    | (with_reducible apply OnlyTouches.after (State.failLoad_touches _ _ _ _ _); · decide)
    | (with_reducible apply OnlyTouches.after (State.dropRequest_touches _ _); · decide)
    | (with_reducible apply OnlyTouches.after (State.dropLoads_touches _ _ _); · decide)
    | (with_reducible apply OnlyTouches.after (State.moveData_touches _ _ _); · decide)
    | with_reducible intro _
    | split
    | with_reducible refine OnlyTouches.pair (by assumption) ?_
    | dsimp only

theorem State.endRequest_touches (s : State) (r : HostReq) (data : List Byte) : OnlyTouches [.objs, .time,
    .ports, .switch, .coll, .update, .arrays, .mem, .custody, .ledger, .dict, .host, .free, .out] s
    (State.endRequest s r data) := by
  unfold State.endRequest
  try dsimp only
  repeat' first
    | with_reducible exact .refl _ _
    | with_reducible assumption
    | (with_reducible apply OnlyTouches.after (State.countHost_touches _ _ _ _); · decide)
    | (with_reducible apply OnlyTouches.afterOpt (State.load_touches _ _ _ _ _ _ _); (first | assumption | decide); (first | assumption | decide))
    | (with_reducible apply OnlyTouches.after (State.endLoad_touches _ _ _ _ _ _ _ _ _); · decide)
    | (with_reducible apply OnlyTouches.after (State.dropRequest_touches _ _); · decide)
    | (with_reducible apply OnlyTouches.after (State.moveData_touches _ _ _); · decide)
    | with_reducible intro _
    | split
    | with_reducible refine OnlyTouches.pair (by assumption) ?_
    | dsimp only

theorem State.readPart_touches (s : State) (r : HostReq) (data : List Byte) : OnlyTouches [.objs, .time,
    .ports, .switch, .coll, .update, .arrays, .mem, .custody, .ledger, .dict, .host, .free, .out] s
    (State.readPart s r data) := by
  unfold State.readPart
  try dsimp only
  repeat' first
    | with_reducible exact .refl _ _
    | with_reducible assumption
    | (with_reducible apply OnlyTouches.after (State.drop_touches _ _ _); · decide)
    | (with_reducible apply OnlyTouches.after (State.endRequest_touches _ _ _); · decide)
    | with_reducible apply OnlyTouches.ite
    | with_reducible intro _
    | split
    | (with_reducible apply OnlyTouches.put_host; · decide)
    | with_reducible refine OnlyTouches.pair (by assumption) ?_
    | dsimp only

theorem execDmaCompletion_touches (req : Nat) (status : CompletionStatus) (data : List Byte) (s : State) :
    StepTouches [.objs, .time, .ports, .switch, .coll, .update, .arrays, .mem, .custody, .ledger, .dict,
    .host, .free, .out] s (execDmaCompletion req status data s) := by
  unfold execDmaCompletion
  try dsimp only
  repeat' first
    | with_reducible apply OnlyTouches.ofNext
    | with_reducible exact .refl _ _
    | with_reducible assumption
    | (with_reducible apply OnlyTouches.after (State.sendReads_touches _); · decide)
    | (with_reducible apply OnlyTouches.after (State.failRequest_touches _ _ _); · decide)
    | (with_reducible apply OnlyTouches.after (State.readPart_touches _ _ _); · decide)
    | with_reducible apply OnlyTouches.ite
    | with_reducible apply OnlyTouches.iteStep
    | with_reducible intro _
    | split

theorem execCompletionTimeout_touches (req : Nat) (s : State) : StepTouches [.objs, .time, .ports, .switch,
    .coll, .update, .arrays, .mem, .custody, .ledger, .dict, .host, .free, .out] s (execCompletionTimeout
    req s) := by
  unfold execCompletionTimeout
  try dsimp only
  repeat' first
    | with_reducible apply OnlyTouches.ofNext
    | with_reducible exact .refl _ _
    | with_reducible assumption
    | (with_reducible apply OnlyTouches.after (State.sendReads_touches _); · decide)
    | (with_reducible apply OnlyTouches.after (State.failRequest_touches _ _ _); · decide)
    | with_reducible apply OnlyTouches.ite
    | with_reducible apply OnlyTouches.iteStep
    | with_reducible intro _
    | split
    | with_reducible refine OnlyTouches.pair (by assumption) ?_
    | dsimp only

theorem State.endHostRequests_touches (s : State) : OnlyTouches [.objs, .time, .ports, .switch, .service,
    .coll, .update, .arrays, .mem, .custody, .ledger, .dict, .host, .free, .out] s (State.endHostRequests
    s) := by
  unfold State.endHostRequests
  try dsimp only
  repeat' first
    | with_reducible exact .refl _ _
    | with_reducible assumption
    | with_reducible apply OnlyTouches.fold
    | with_reducible apply OnlyTouches.foldPair
    | (with_reducible apply OnlyTouches.after (State.endFailed_touches _ _ _); · decide)
    | (with_reducible apply OnlyTouches.after (State.hostError_touches _); · decide)
    | (with_reducible apply OnlyTouches.after (State.transferEnd_touches _ _ _ _); · decide)
    | (with_reducible apply OnlyTouches.after (State.failCheckpoint_touches _ _); · decide)
    | (with_reducible apply OnlyTouches.after (State.failRequest_touches _ _ _); · decide)
    | with_reducible apply OnlyTouches.ite
    | with_reducible intro _
    | split
    | with_reducible refine OnlyTouches.pair (by assumption) ?_
    | dsimp only

theorem State.hostDown_touches (s : State) (l : PcieState) : OnlyTouches [.objs, .time, .ports, .switch,
    .service, .coll, .update, .arrays, .mem, .custody, .ledger, .dict, .host, .free, .out] s
    (State.hostDown s l) := by
  unfold State.hostDown
  try dsimp only
  repeat' first
    | with_reducible exact .refl _ _
    | with_reducible assumption
    | (with_reducible apply OnlyTouches.after (State.endHostRequests_touches _); · decide)
    | with_reducible intro _
    | (with_reducible apply OnlyTouches.put_host; · decide)

theorem execPciePerstAssert_touches (s : State) : StepTouches [.objs, .time, .ports, .switch, .service,
    .coll, .update, .arrays, .mem, .custody, .ledger, .dict, .host, .free, .out] s (execPciePerstAssert s)
    := by
  unfold execPciePerstAssert
  try dsimp only
  repeat' first
    | with_reducible apply OnlyTouches.ofNext
    | with_reducible exact .refl _ _
    | with_reducible assumption
    | (with_reducible apply OnlyTouches.after (State.bump_touches _ _ _); · decide)
    | (with_reducible apply OnlyTouches.after (State.dropped_touches _ _ _ _); · decide)
    | (with_reducible apply OnlyTouches.after (State.hostDown_touches _ _); · decide)
    | with_reducible apply OnlyTouches.ite
    | with_reducible apply OnlyTouches.iteStep
    | with_reducible intro _
    | split
    | (with_reducible apply OnlyTouches.put_host; · decide)
    | with_reducible refine OnlyTouches.pair (by assumption) ?_
    | dsimp only

theorem execPcieLinkDown_touches (s : State) : StepTouches [.objs, .time, .ports, .switch, .service, .coll,
    .update, .arrays, .mem, .custody, .ledger, .dict, .host, .free, .out] s (execPcieLinkDown s) := by
  unfold execPcieLinkDown
  try dsimp only
  repeat' first
    | with_reducible apply OnlyTouches.ofNext
    | with_reducible exact .refl _ _
    | with_reducible assumption
    | (with_reducible apply OnlyTouches.after (State.hostDown_touches _ _); · decide)
    | with_reducible apply OnlyTouches.ite
    | with_reducible apply OnlyTouches.iteStep
    | with_reducible intro _
    | split

theorem State.eqFailed_touches (s : State) (r : Nat) : OnlyTouches [.objs, .ledger, .host] s
    (State.eqFailed s r) := by
  unfold State.eqFailed
  try dsimp only
  repeat' first
    | with_reducible exact .refl _ _
    | with_reducible assumption
    | (with_reducible apply OnlyTouches.after (State.bump_touches _ _ _); · decide)
    | (with_reducible apply OnlyTouches.after (State.dropped_touches _ _ _ _); · decide)
    | with_reducible apply OnlyTouches.ite
    | with_reducible intro _
    | split
    | (with_reducible apply OnlyTouches.put_host; · decide)

theorem State.linkUp_touches (s : State) (speed width : Nat) : OnlyTouches [.objs, .dict, .host] s
    (State.linkUp s speed width) := by
  unfold State.linkUp
  try dsimp only
  repeat' first
    | with_reducible exact .refl _ _
    | with_reducible assumption
    | with_reducible apply OnlyTouches.when
    | (with_reducible apply OnlyTouches.after (State.eventAt_touches _ _ _ _ _); · decide)
    | with_reducible intro _
    | (with_reducible apply OnlyTouches.put_host; · decide)
    | with_reducible refine OnlyTouches.pair (by assumption) ?_
    | dsimp only

theorem execPcieLinkTraining_touches (partnerMax : Fin 7) (eqFailed : List (Fin 7)) (lanes : Fin 17) (s :
    State) : StepTouches [.objs, .time, .ports, .switch, .service, .coll, .update, .arrays, .mem, .custody,
    .ledger, .dict, .host, .free, .out] s (execPcieLinkTraining partnerMax eqFailed lanes s) := by
  unfold execPcieLinkTraining
  try dsimp only
  repeat' first
    | with_reducible apply OnlyTouches.ofNext
    | with_reducible exact .refl _ _
    | with_reducible assumption
    | with_reducible apply OnlyTouches.fold
    | with_reducible apply OnlyTouches.foldPair
    | (with_reducible apply OnlyTouches.after (State.hostDown_touches _ _); · decide)
    | (with_reducible apply OnlyTouches.after (State.eqFailed_touches _ _); · decide)
    | (with_reducible apply OnlyTouches.after (State.linkUp_touches _ _ _); · decide)
    | with_reducible apply OnlyTouches.ite
    | with_reducible apply OnlyTouches.iteStep
    | with_reducible intro _
    | split
    | (with_reducible apply OnlyTouches.put_host; · decide)
    | with_reducible refine OnlyTouches.pair (by assumption) ?_
    | dsimp only

theorem execPcieConfigWrite_touches (field : PcieConfig) (s : State) : StepTouches [.objs, .power, .ports,
    .switch, .coll, .update, .arrays, .mem, .custody, .warden, .ledger, .dict, .host, .free, .out] s
    (execPcieConfigWrite field s) := by
  unfold execPcieConfigWrite
  try dsimp only
  repeat' first
    | with_reducible apply OnlyTouches.ofNext
    | with_reducible exact .refl _ _
    | with_reducible assumption
    | (with_reducible apply OnlyTouches.after (State.bootGoesOn_touches _); · decide)
    | (with_reducible apply OnlyTouches.result (State.vector_touches _ _ _ _ _ _); · decide)
    | with_reducible apply OnlyTouches.ite
    | with_reducible apply OnlyTouches.iteStep
    | with_reducible intro _
    | split
    | (with_reducible apply OnlyTouches.put_host; · decide)

end Sys2Proof.Machine
end

