-- ==== Sys2Proof/Laws/KeepHostLink.lean ====
section
/-! SUPPORT. The operations of Machine/HostLink.lean keep the invariant. -/

namespace Sys2Proof.Machine

theorem State.sendBlock_keeps (s : State) (c : Checkpoint) : Keeps s (State.sendBlock s c) := by
  unfold State.sendBlock
  try dsimp only
  repeat' first
    | with_reducible exact .refl _
    | with_reducible assumption
    | with_reducible apply Keeps.when
    | ((with_reducible apply Keeps.afterT (State.bump_touches _ _ _)); · rfl)
    | with_reducible apply Keeps.after (State.send_keeps _ _ _ _ _)
    | ((with_reducible apply Keeps.afterT (State.countFirmware_touches _ _ _ _)); · rfl)
    | with_reducible apply Keeps.after (State.setProgress_keeps _ _ _)
    | ((with_reducible apply Keeps.afterT (State.hostStoreEp_touches _ _ _ _ _)); · rfl)
    | ((with_reducible apply Keeps.afterT (State.putCheckpoint_touches _ _)); · rfl)
    | with_reducible apply Keeps.ite
    | with_reducible intro _
    | split
    | with_reducible refine Keeps.pair (by assumption) ?_
    | dsimp only

theorem State.sendBlocks_keeps (s : State) (token : Nat) (x0 : Nat) : Keeps s (State.sendBlocks s token x0)
    := by
  induction x0 generalizing s token with
  | zero =>
    unfold State.sendBlocks
    try dsimp only
    all_goals repeat' first
      | with_reducible exact .refl _
      | with_reducible assumption
      | with_reducible apply Keeps.after (State.sendBlock_keeps _ _)
      | with_reducible apply Keeps.ite
      | with_reducible intro _
      | split
      | with_reducible refine Keeps.pair (by assumption) ?_
      | dsimp only
  | succ k ih =>
    unfold State.sendBlocks
    try dsimp only
    all_goals repeat' first
      | with_reducible exact .refl _
      | with_reducible assumption
      | (with_reducible apply Keeps.after (ih _ _))
      | with_reducible apply Keeps.after (State.sendBlock_keeps _ _)
      | with_reducible apply Keeps.ite
      | with_reducible intro _
      | split
      | with_reducible refine Keeps.pair (by assumption) ?_
      | dsimp only

theorem State.failCheckpoint_keeps (s : State) (c : Checkpoint) : Keeps s (State.failCheckpoint s c) := by
  unfold State.failCheckpoint
  try dsimp only
  repeat' first
    | with_reducible exact .refl _
    | with_reducible assumption
    | with_reducible apply Keeps.after (State.endFailed_keeps _ _ _)
    | with_reducible apply Keeps.after (State.setResult_keeps _ _ _ _)
    | ((with_reducible apply Keeps.afterT (State.dropCheckpoint_touches _ _)); · rfl)
    | with_reducible intro _
    | with_reducible refine Keeps.pair (by assumption) ?_
    | dsimp only

theorem State.streamRoute_keeps (s : State) (fabric : Bool) : Keeps s (State.streamRoute s fabric) := by
  unfold State.streamRoute
  try dsimp only
  repeat' first
    | with_reducible exact .refl _
    | with_reducible assumption
    | ((with_reducible apply Keeps.afterT (State.hostError_touches _)); · rfl)
    | ((with_reducible apply Keeps.afterT (State.putCheckpoint_touches _ _)); · rfl)
    | with_reducible apply Keeps.after (State.sendBlocks_keeps _ _ _)
    | with_reducible apply Keeps.after (State.failCheckpoint_keeps _ _)
    | with_reducible apply Keeps.ite
    | with_reducible intro _
    | split
    | with_reducible refine Keeps.pair (by assumption) ?_
    | dsimp only

theorem State.streamCheckpoints_keeps (s : State) : Keeps s (State.streamCheckpoints s) := by
  unfold State.streamCheckpoints
  try dsimp only
  repeat' first
    | with_reducible exact .refl _
    | with_reducible assumption
    | with_reducible apply Keeps.after (State.streamRoute_keeps _ _)
    | with_reducible intro _
    | with_reducible refine Keeps.pair (by assumption) ?_
    | dsimp only

theorem State.sendTrailer_keeps (s : State) (c : Checkpoint) : Keeps s (State.sendTrailer s c) := by
  unfold State.sendTrailer
  try dsimp only
  repeat' first
    | with_reducible exact .refl _
    | with_reducible assumption
    | with_reducible apply Keeps.after (State.send_keeps _ _ _ _ _)
    | with_reducible intro _
    | with_reducible refine Keeps.pair (by assumption) ?_
    | dsimp only

theorem State.endStream_keeps (s : State) (token : Nat) (blocks : Nat) : Keeps s (State.endStream s token
    blocks) := by
  unfold State.endStream
  try dsimp only
  repeat' first
    | with_reducible exact .refl _
    | with_reducible assumption
    | with_reducible apply Keeps.after (State.endDone_keeps _ _)
    | with_reducible apply Keeps.after (State.setResult_keeps _ _ _ _)
    | ((with_reducible apply Keeps.afterT (State.dropCheckpoint_touches _ _)); · rfl)
    | with_reducible apply Keeps.after (State.sendBlocks_keeps _ _ _)
    | with_reducible apply Keeps.after (State.sendTrailer_keeps _ _)
    | with_reducible apply Keeps.ite
    | with_reducible intro _
    | split
    | with_reducible refine Keeps.pair (by assumption) ?_
    | dsimp only

theorem execCheckpointEnd_keeps (token : BitVec 64) (hostError : Bool) (s : State) : StepKeeps s
    (execCheckpointEnd token hostError s) := by
  unfold execCheckpointEnd
  try dsimp only
  repeat' first
    | with_reducible apply Keeps.ofNext
    | with_reducible exact .refl _
    | with_reducible assumption
    | ((with_reducible apply Keeps.afterT (State.hostError_touches _)); · rfl)
    | with_reducible apply Keeps.after (State.failCheckpoint_keeps _ _)
    | with_reducible apply Keeps.after (State.endStream_keeps _ _ _)
    | with_reducible apply Keeps.ite
    | with_reducible apply Keeps.iteStep
    | with_reducible intro _
    | split
    | with_reducible refine Keeps.pair (by assumption) ?_
    | dsimp only

theorem State.dropLoads_keeps (s : State) (t n : Nat) : Keeps s (State.dropLoads s t n) := by
  unfold State.dropLoads
  try dsimp only
  repeat' first
    | with_reducible exact .refl _
    | with_reducible assumption
    | ((with_reducible apply Keeps.afterOpt (State.load_keeps _ _ _ _ _ _ _)); · assumption)
    | with_reducible intro _
    | split
    | with_reducible apply Keeps.put_host

theorem State.failRequest_keeps (s : State) (r : HostReq) (code : Nat) : Keeps s (State.failRequest s r
    code) := by
  unfold State.failRequest
  try dsimp only
  repeat' first
    | with_reducible exact .refl _
    | with_reducible assumption
    | ((with_reducible apply Keeps.afterT (State.hostError_touches _)); · rfl)
    | ((with_reducible apply Keeps.afterOpt (State.load_keeps _ _ _ _ _ _ _)); · assumption)
    | with_reducible apply Keeps.after (State.failLoad_keeps _ _ _ _ _)
    | ((with_reducible apply Keeps.afterT (State.dropRequest_touches _ _)); · rfl)
    | with_reducible apply Keeps.after (State.dropLoads_keeps _ _ _)
    | ((with_reducible apply Keeps.afterT (State.moveData_touches _ _ _)); · rfl)
    | with_reducible intro _
    | split
    | with_reducible refine Keeps.pair (by assumption) ?_
    | dsimp only

theorem State.endRequest_keeps (s : State) (r : HostReq) (data : List Byte) : Keeps s (State.endRequest s r
    data) := by
  unfold State.endRequest
  try dsimp only
  repeat' first
    | with_reducible exact .refl _
    | with_reducible assumption
    | ((with_reducible apply Keeps.afterT (State.countHost_touches _ _ _ _)); · rfl)
    | ((with_reducible apply Keeps.afterOpt (State.load_keeps _ _ _ _ _ _ _)); · assumption)
    | ((with_reducible apply Keeps.afterT (State.endLoad_touches _ _ _ _ _ _ _ _ _)); · rfl)
    | ((with_reducible apply Keeps.afterT (State.dropRequest_touches _ _)); · rfl)
    | ((with_reducible apply Keeps.afterT (State.moveData_touches _ _ _)); · rfl)
    | with_reducible intro _
    | split
    | with_reducible refine Keeps.pair (by assumption) ?_
    | dsimp only

theorem State.readPart_keeps (s : State) (r : HostReq) (data : List Byte) : Keeps s (State.readPart s r
    data) := by
  unfold State.readPart
  try dsimp only
  repeat' first
    | with_reducible exact .refl _
    | with_reducible assumption
    | ((with_reducible apply Keeps.afterT (State.drop_touches _ _ _)); · rfl)
    | with_reducible apply Keeps.after (State.endRequest_keeps _ _ _)
    | with_reducible apply Keeps.ite
    | with_reducible intro _
    | split
    | with_reducible apply Keeps.put_host
    | with_reducible refine Keeps.pair (by assumption) ?_
    | dsimp only

theorem execDmaCompletion_keeps (req : Nat) (status : CompletionStatus) (data : List Byte) (s : State) :
    StepKeeps s (execDmaCompletion req status data s) := by
  unfold execDmaCompletion
  try dsimp only
  repeat' first
    | with_reducible apply Keeps.ofNext
    | with_reducible exact .refl _
    | with_reducible assumption
    | ((with_reducible apply Keeps.afterT (State.sendReads_touches _)); · rfl)
    | with_reducible apply Keeps.after (State.failRequest_keeps _ _ _)
    | with_reducible apply Keeps.after (State.readPart_keeps _ _ _)
    | with_reducible apply Keeps.ite
    | with_reducible apply Keeps.iteStep
    | with_reducible intro _
    | split

theorem execCompletionTimeout_keeps (req : Nat) (s : State) : StepKeeps s (execCompletionTimeout req s) :=
    by
  unfold execCompletionTimeout
  try dsimp only
  repeat' first
    | with_reducible apply Keeps.ofNext
    | with_reducible exact .refl _
    | with_reducible assumption
    | ((with_reducible apply Keeps.afterT (State.sendReads_touches _)); · rfl)
    | with_reducible apply Keeps.after (State.failRequest_keeps _ _ _)
    | with_reducible apply Keeps.ite
    | with_reducible apply Keeps.iteStep
    | with_reducible intro _
    | split
    | with_reducible refine Keeps.pair (by assumption) ?_
    | dsimp only

theorem State.endHostRequests_keeps (s : State) : Keeps s (State.endHostRequests s) := by
  unfold State.endHostRequests
  try dsimp only
  repeat' first
    | with_reducible exact .refl _
    | with_reducible assumption
    | with_reducible apply Keeps.fold
    | with_reducible apply Keeps.foldPair
    | with_reducible apply Keeps.after (State.endFailed_keeps _ _ _)
    | ((with_reducible apply Keeps.afterT (State.hostError_touches _)); · rfl)
    | with_reducible apply Keeps.after (State.transferEnd_keeps _ _ _ _)
    | with_reducible apply Keeps.after (State.failCheckpoint_keeps _ _)
    | with_reducible apply Keeps.after (State.failRequest_keeps _ _ _)
    | with_reducible apply Keeps.ite
    | with_reducible intro _
    | split
    | with_reducible refine Keeps.pair (by assumption) ?_
    | dsimp only

theorem State.hostDown_keeps (s : State) (l : PcieState) : Keeps s (State.hostDown s l) := by
  unfold State.hostDown
  try dsimp only
  repeat' first
    | with_reducible exact .refl _
    | with_reducible assumption
    | with_reducible apply Keeps.after (State.endHostRequests_keeps _)
    | with_reducible intro _
    | with_reducible apply Keeps.put_host

theorem execPciePerstAssert_keeps (s : State) : StepKeeps s (execPciePerstAssert s) := by
  unfold execPciePerstAssert
  try dsimp only
  repeat' first
    | with_reducible apply Keeps.ofNext
    | with_reducible exact .refl _
    | with_reducible assumption
    | ((with_reducible apply Keeps.afterT (State.bump_touches _ _ _)); · rfl)
    | ((with_reducible apply Keeps.afterT (State.dropped_touches _ _ _ _)); · rfl)
    | with_reducible apply Keeps.after (State.hostDown_keeps _ _)
    | with_reducible apply Keeps.ite
    | with_reducible apply Keeps.iteStep
    | with_reducible intro _
    | split
    | with_reducible apply Keeps.put_host
    | with_reducible refine Keeps.pair (by assumption) ?_
    | dsimp only

theorem execPcieLinkDown_keeps (s : State) : StepKeeps s (execPcieLinkDown s) := by
  unfold execPcieLinkDown
  try dsimp only
  repeat' first
    | with_reducible apply Keeps.ofNext
    | with_reducible exact .refl _
    | with_reducible assumption
    | with_reducible apply Keeps.after (State.hostDown_keeps _ _)
    | with_reducible apply Keeps.ite
    | with_reducible apply Keeps.iteStep
    | with_reducible intro _
    | split

theorem State.linkUp_keeps (s : State) (speed width : Nat) : Keeps s (State.linkUp s speed width) := by
  unfold State.linkUp
  try dsimp only
  repeat' first
    | with_reducible exact .refl _
    | with_reducible assumption
    | with_reducible apply Keeps.when
    | with_reducible apply Keeps.after (State.eventAt_keeps _ _ _ _ _)
    | with_reducible intro _
    | with_reducible apply Keeps.put_host
    | with_reducible refine Keeps.pair (by assumption) ?_
    | dsimp only

theorem execPcieLinkTraining_keeps (partnerMax : Fin 7) (eqFailed : List (Fin 7)) (lanes : Fin 17) (s :
    State) : StepKeeps s (execPcieLinkTraining partnerMax eqFailed lanes s) := by
  unfold execPcieLinkTraining
  try dsimp only
  repeat' first
    | with_reducible apply Keeps.ofNext
    | with_reducible exact .refl _
    | with_reducible assumption
    | with_reducible apply Keeps.fold
    | with_reducible apply Keeps.foldPair
    | with_reducible apply Keeps.after (State.hostDown_keeps _ _)
    | ((with_reducible apply Keeps.afterT (State.eqFailed_touches _ _)); · rfl)
    | with_reducible apply Keeps.after (State.linkUp_keeps _ _ _)
    | with_reducible apply Keeps.ite
    | with_reducible apply Keeps.iteStep
    | with_reducible intro _
    | split
    | with_reducible apply Keeps.put_host
    | with_reducible refine Keeps.pair (by assumption) ?_
    | dsimp only

theorem execPcieConfigWrite_keeps (field : PcieConfig) (s : State) : StepKeeps s (execPcieConfigWrite field
    s) := by
  unfold execPcieConfigWrite
  try dsimp only
  repeat' first
    | with_reducible apply Keeps.ofNext
    | with_reducible exact .refl _
    | with_reducible assumption
    | with_reducible apply Keeps.after (State.bootGoesOn_keeps _)
    | with_reducible exact State.vector_keeps _ _ _ _ _ _
    | with_reducible apply Keeps.ite
    | with_reducible apply Keeps.iteStep
    | with_reducible intro _
    | split
    | with_reducible apply Keeps.put_host

end Sys2Proof.Machine
end

