-- ==== Sys2Proof/Laws/TouchMemory.lean ====
section
/-! SUPPORT. Which parts of the state each operation of Machine/Memory.lean changes. -/

namespace Sys2Proof.Machine

theorem State.uncorrectable_touches (s : State) (c : Nat) (a : Option Nat) : OnlyTouches [.objs, .power,
    .ledger, .free] s (State.uncorrectable s c a) := by
  unfold State.uncorrectable
  try dsimp only
  repeat' first
    | with_reducible exact .refl _ _
    | with_reducible assumption
    | with_reducible apply OnlyTouches.when
    | (with_reducible apply OnlyTouches.after (State.bump_touches _ _ _); · decide)
    | (with_reducible apply OnlyTouches.after (State.capsule_touches _ _ _ _); · decide)
    | (with_reducible apply OnlyTouches.after (State.count_touches _ _ _ _ _); · decide)
    | with_reducible intro _
    | with_reducible refine OnlyTouches.pair (by assumption) ?_
    | dsimp only

theorem State.mapCapsule_touches (s : State) (c : Nat) : OnlyTouches [.power, .free] s (State.mapCapsule s
    c) := by
  unfold State.mapCapsule
  try dsimp only
  repeat' first
    | with_reducible exact .refl _ _
    | with_reducible assumption
    | (with_reducible apply OnlyTouches.after (State.capsule_touches _ _ _ _); · decide)
    | with_reducible intro _

theorem State.autoMapOut_touches (s : State) (c : Nat) : OnlyTouches [.mem] s (State.autoMapOut s c) := by
  unfold State.autoMapOut
  try dsimp only
  repeat' first
    | with_reducible exact .refl _ _
    | with_reducible assumption
    | (with_reducible apply OnlyTouches.after (State.modChan_touches _ _ _); · decide)
    | with_reducible apply OnlyTouches.ite
    | with_reducible intro _
    | split
    | with_reducible refine OnlyTouches.pair (by assumption) ?_
    | dsimp only

theorem State.queueMap_touches (s : State) (c : Nat) (token : Option Nat) : OnlyTouches [.mem] s
    (State.queueMap s c token) := by
  unfold State.queueMap
  try dsimp only
  repeat' first
    | with_reducible exact .refl _ _
    | with_reducible assumption
    | (with_reducible apply OnlyTouches.after (State.modChan_touches _ _ _); · decide)
    | with_reducible intro _
    | (with_reducible apply OnlyTouches.put_mem; · decide)

theorem State.mapDue_touches (s : State) (c : Nat) : OnlyTouches [.objs, .mem, .dict, .host] s
    (State.mapDue s c) := by
  unfold State.mapDue
  try dsimp only
  repeat' first
    | with_reducible exact .refl _ _
    | with_reducible assumption
    | with_reducible apply OnlyTouches.fold
    | with_reducible apply OnlyTouches.foldPair
    | (with_reducible apply OnlyTouches.after (State.endFailed_touches _ _ _); · decide)
    | (with_reducible apply OnlyTouches.after (State.markActed_touches _ _); · decide)
    | (with_reducible apply OnlyTouches.after (State.queueMap_touches _ _ _); · decide)
    | with_reducible apply OnlyTouches.ite
    | with_reducible intro _
    | split
    | with_reducible refine OnlyTouches.pair (by assumption) ?_
    | dsimp only

theorem State.losePairs_touches (s : State) (rs : Pair → List Nat) : OnlyTouches [.objs, .power, .custody,
    .dict, .host, .free] s (State.losePairs s rs) := by
  unfold State.losePairs
  try dsimp only
  repeat' first
    | with_reducible exact .refl _ _
    | with_reducible assumption
    | with_reducible apply OnlyTouches.fold
    | with_reducible apply OnlyTouches.foldPair
    | (with_reducible apply OnlyTouches.after (State.bump_touches _ _ _); · decide)
    | (with_reducible apply OnlyTouches.after (State.setPair_touches _ _ _); · decide)
    | (with_reducible apply OnlyTouches.after (State.eventObj_touches _ _ _ _); · decide)
    | (with_reducible apply OnlyTouches.after (State.capsule_touches _ _ _ _); · decide)
    | (with_reducible apply OnlyTouches.after (State.degrade_touches _ _); · decide)
    | with_reducible apply OnlyTouches.ite
    | with_reducible intro _
    | split
    | with_reducible refine OnlyTouches.pair (by assumption) ?_
    | dsimp only

theorem State.loseUnits_touches (s : State) (c n : Nat) : OnlyTouches [.objs, .dict, .host] s
    (State.loseUnits s c n) := by
  unfold State.loseUnits
  try dsimp only
  repeat' first
    | with_reducible exact .refl _ _
    | with_reducible assumption
    | with_reducible apply OnlyTouches.when
    | (with_reducible apply OnlyTouches.after (State.bump_touches _ _ _); · decide)
    | (with_reducible apply OnlyTouches.after (State.eventObj_touches _ _ _ _); · decide)
    | with_reducible apply OnlyTouches.ite
    | with_reducible intro _
    | split
    | with_reducible refine OnlyTouches.pair (by assumption) ?_
    | dsimp only

theorem State.fenceHoledPools_touches (s : State) : OnlyTouches [.objs, .switch, .dict, .host] s
    (State.fenceHoledPools s) := by
  unfold State.fenceHoledPools
  try dsimp only
  repeat' first
    | with_reducible exact .refl _ _
    | with_reducible assumption
    | with_reducible apply OnlyTouches.fold
    | with_reducible apply OnlyTouches.foldPair
    | (with_reducible apply OnlyTouches.after (State.fencePool_touches _ _ _); · decide)
    | with_reducible apply OnlyTouches.ite
    | with_reducible intro _
    | split
    | with_reducible refine OnlyTouches.pair (by assumption) ?_
    | dsimp only

theorem State.endHoledGroups_touches (s : State) : OnlyTouches [.coll] s (State.endHoledGroups s) := by
  unfold State.endHoledGroups
  try dsimp only
  repeat' first
    | with_reducible exact .refl _ _
    | with_reducible assumption
    | with_reducible apply OnlyTouches.ite
    | with_reducible intro _
    | split
    | (with_reducible apply OnlyTouches.put_coll; · decide)
    | with_reducible refine OnlyTouches.pair (by assumption) ?_
    | dsimp only

theorem State.reloadHoled_touches (s : State) : OnlyTouches [.objs, .power, .optics, .ports, .update, .mem,
    .dict, .host] s (State.reloadHoled s) := by
  unfold State.reloadHoled
  try dsimp only
  repeat' first
    | with_reducible exact .refl _ _
    | with_reducible assumption
    | (with_reducible apply OnlyTouches.after (State.store_touches _ _ _); · decide)
    | (with_reducible apply OnlyTouches.after (State.identity_touches _ _ _); · decide)
    | with_reducible apply OnlyTouches.ite
    | with_reducible intro _
    | split
    | (with_reducible apply OnlyTouches.put_update; · decide)

theorem State.holesInReserve_touches (s : State) : OnlyTouches [.objs, .power, .optics, .ports, .switch,
    .coll, .update, .mem, .dict, .host] s (State.holesInReserve s) := by
  unfold State.holesInReserve
  try dsimp only
  repeat' first
    | with_reducible exact .refl _ _
    | with_reducible assumption
    | (with_reducible apply OnlyTouches.after (State.fenceHoledPools_touches _); · decide)
    | (with_reducible apply OnlyTouches.after (State.endHoledGroups_touches _); · decide)
    | (with_reducible apply OnlyTouches.after (State.reloadHoled_touches _); · decide)
    | with_reducible intro _

theorem State.copyChannel_touches (s : State) (c k : Nat) : OnlyTouches [.objs, .power, .ports, .switch,
    .coll, .mem, .custody, .ledger, .dict, .host, .free] s (State.copyChannel s c k) := by
  unfold State.copyChannel
  try dsimp only
  repeat' first
    | with_reducible exact .refl _ _
    | with_reducible assumption
    | (with_reducible apply OnlyTouches.after (State.modChan_touches _ _ _); · decide)
    | (with_reducible apply OnlyTouches.after (State.restartRecoveries_touches _); · decide)
    | (with_reducible apply OnlyTouches.after (State.mapCapsule_touches _ _); · decide)
    | with_reducible intro _
    | with_reducible refine OnlyTouches.pair (by assumption) ?_
    | dsimp only

theorem State.startMapOut_touches (s : State) (c : Nat) : OnlyTouches [.objs, .power, .optics, .lanes,
    .remaps, .ports, .switch, .coll, .update, .mem, .custody, .ledger, .dict, .host, .free] s
    (State.startMapOut s c) := by
  unfold State.startMapOut
  try dsimp only
  repeat' first
    | with_reducible exact .refl _ _
    | with_reducible assumption
    | (with_reducible apply OnlyTouches.after (State.setChan_touches _ _ _); · decide)
    | (with_reducible apply OnlyTouches.after (State.holdAlert_touches _ _); · decide)
    | (with_reducible apply OnlyTouches.after (State.endFailed_touches _ _ _); · decide)
    | (with_reducible apply OnlyTouches.after (State.setResult_touches _ _ _ _); · decide)
    | (with_reducible apply OnlyTouches.after (State.restartRecoveries_touches _); · decide)
    | (with_reducible apply OnlyTouches.after (State.mapCapsule_touches _ _); · decide)
    | (with_reducible apply OnlyTouches.after (State.losePairs_touches _ _); · decide)
    | (with_reducible apply OnlyTouches.after (State.holesInReserve_touches _); · decide)
    | (with_reducible apply OnlyTouches.after (State.copyChannel_touches _ _ _); · decide)
    | with_reducible intro _
    | split
    | (with_reducible apply OnlyTouches.put_mem; · decide)
    | with_reducible refine OnlyTouches.pair (by assumption) ?_
    | dsimp only

theorem State.startMaps_touches (s : State) (x0 : Nat) : OnlyTouches [.objs, .power, .optics, .lanes,
    .remaps, .ports, .switch, .coll, .update, .mem, .custody, .ledger, .dict, .host, .free] s
    (State.startMaps s x0) := by
  induction x0 generalizing s with
  | zero =>
    unfold State.startMaps
    try dsimp only
    all_goals repeat' first
      | with_reducible exact .refl _ _
      | with_reducible assumption
      | (with_reducible apply OnlyTouches.after (State.startMapOut_touches _ _); · decide)
      | with_reducible apply OnlyTouches.ite
      | with_reducible intro _
      | split
      | with_reducible refine OnlyTouches.pair (by assumption) ?_
      | dsimp only
  | succ k ih =>
    unfold State.startMaps
    try dsimp only
    all_goals repeat' first
      | with_reducible exact .refl _ _
      | with_reducible assumption
      | (with_reducible apply OnlyTouches.after (ih _); · decide)
      | (with_reducible apply OnlyTouches.after (State.startMapOut_touches _ _); · decide)
      | with_reducible apply OnlyTouches.ite
      | with_reducible intro _
      | split
      | with_reducible refine OnlyTouches.pair (by assumption) ?_
      | dsimp only

theorem execMapOutStart_touches (c : Chan) (s : State) : StepTouches [.objs, .power, .optics, .lanes,
    .remaps, .ports, .switch, .coll, .update, .mem, .custody, .ledger, .dict, .host, .free] s
    (execMapOutStart c s) := by
  unfold execMapOutStart
  try dsimp only
  repeat' first
    | with_reducible apply OnlyTouches.ofNext
    | with_reducible exact .refl _ _
    | with_reducible assumption
    | (with_reducible apply OnlyTouches.after (State.mapDue_touches _ _); · decide)
    | (with_reducible apply OnlyTouches.after (State.startMaps_touches _ _); · decide)
    | with_reducible intro _
    | with_reducible refine OnlyTouches.pair (by assumption) ?_
    | dsimp only

theorem State.countCopy_touches (s : State) (c : Nat) : OnlyTouches [.objs, .ledger] s (State.countCopy s
    c) := by
  unfold State.countCopy
  try dsimp only
  repeat' first
    | with_reducible exact .refl _ _
    | with_reducible assumption
    | with_reducible apply OnlyTouches.fold
    | with_reducible apply OnlyTouches.foldPair
    | (with_reducible apply OnlyTouches.after (State.countChannel_touches _ _ _ _ _); · decide)
    | with_reducible apply OnlyTouches.ite
    | with_reducible intro _
    | split
    | with_reducible refine OnlyTouches.pair (by assumption) ?_
    | dsimp only

theorem State.endCopy_touches (s : State) (c : Nat) (bad : List Nat) : OnlyTouches [.objs, .power, .mem,
    .custody, .ledger, .dict, .host, .free] s (State.endCopy s c bad) := by
  unfold State.endCopy
  try dsimp only
  repeat' first
    | with_reducible exact .refl _ _
    | with_reducible assumption
    | with_reducible apply OnlyTouches.fold
    | with_reducible apply OnlyTouches.foldPair
    | (with_reducible apply OnlyTouches.after (State.modChan_touches _ _ _); · decide)
    | (with_reducible apply OnlyTouches.after (State.poisonUnit_touches _ _); · decide)
    | (with_reducible apply OnlyTouches.after (State.setResult_touches _ _ _ _); · decide)
    | (with_reducible apply OnlyTouches.after (State.setProgress_touches _ _ _); · decide)
    | (with_reducible apply OnlyTouches.after (State.uncorrectable_touches _ _ _); · decide)
    | (with_reducible apply OnlyTouches.after (State.losePairs_touches _ _); · decide)
    | (with_reducible apply OnlyTouches.after (State.loseUnits_touches _ _ _); · decide)
    | (with_reducible apply OnlyTouches.after (State.countCopy_touches _ _); · decide)
    | with_reducible apply OnlyTouches.ite
    | with_reducible intro _
    | split
    | (with_reducible apply OnlyTouches.put_mem; · decide)
    | with_reducible refine OnlyTouches.pair (by assumption) ?_
    | dsimp only

theorem execMapOutCopyEnd_touches (c : Chan) (bad : List Nat) (s : State) : StepTouches [.objs, .power,
    .mem, .custody, .ledger, .dict, .host, .free] s (execMapOutCopyEnd c bad s) := by
  unfold execMapOutCopyEnd
  try dsimp only
  repeat' first
    | with_reducible apply OnlyTouches.ofNext
    | with_reducible exact .refl _ _
    | with_reducible assumption
    | (with_reducible apply OnlyTouches.after (State.endCopy_touches _ _ _); · decide)
    | with_reducible apply OnlyTouches.ite
    | with_reducible apply OnlyTouches.iteStep
    | with_reducible intro _
    | split
    | with_reducible refine OnlyTouches.pair (by assumption) ?_
    | dsimp only

theorem State.mappedOut_touches (s : State) (c : Nat) : OnlyTouches [.objs, .mem, .dict, .host] s
    (State.mappedOut s c) := by
  unfold State.mappedOut
  try dsimp only
  repeat' first
    | with_reducible exact .refl _ _
    | with_reducible assumption
    | (with_reducible apply OnlyTouches.after (State.setChan_touches _ _ _); · decide)
    | (with_reducible apply OnlyTouches.after (State.endDone_touches _ _); · decide)
    | with_reducible apply OnlyTouches.ite
    | with_reducible intro _
    | split

theorem execChannelMappedOut_touches (c : Chan) (s : State) : StepTouches [.objs, .mem, .dict, .host] s
    (execChannelMappedOut c s) := by
  unfold execChannelMappedOut
  try dsimp only
  repeat' first
    | with_reducible apply OnlyTouches.ofNext
    | with_reducible exact .refl _ _
    | with_reducible assumption
    | (with_reducible apply OnlyTouches.after (State.mappedOut_touches _ _); · decide)
    | with_reducible intro _
    | with_reducible refine OnlyTouches.pair (by assumption) ?_
    | dsimp only

theorem State.mapOutsDue_touches (s : State) : OnlyTouches [.objs, .power, .optics, .lanes, .remaps,
    .ports, .switch, .coll, .update, .mem, .custody, .ledger, .dict, .host, .free] s (State.mapOutsDue s)
    := by
  unfold State.mapOutsDue
  try dsimp only
  repeat' first
    | with_reducible exact .refl _ _
    | with_reducible assumption
    | with_reducible apply OnlyTouches.each
    | (with_reducible apply OnlyTouches.after (State.mapDue_touches _ _); · decide)
    | (with_reducible apply OnlyTouches.after (State.startMaps_touches _ _); · decide)
    | (with_reducible apply OnlyTouches.after (State.mappedOut_touches _ _); · decide)
    | with_reducible intro _
    | with_reducible refine OnlyTouches.pair (by assumption) ?_
    | dsimp only

theorem execChannelNoAnswer_touches (c : Chan) (s : State) : StepTouches [.objs, .mem, .dict, .host] s
    (execChannelNoAnswer c s) := by
  unfold execChannelNoAnswer
  try dsimp only
  repeat' first
    | with_reducible apply OnlyTouches.ofNext
    | with_reducible exact .refl _ _
    | with_reducible assumption
    | (with_reducible apply OnlyTouches.after (State.modChan_touches _ _ _); · decide)
    | (with_reducible apply OnlyTouches.after (State.autoMapOut_touches _ _); · decide)
    | (with_reducible apply OnlyTouches.after (State.mappedOut_touches _ _); · decide)
    | with_reducible apply OnlyTouches.ite
    | with_reducible apply OnlyTouches.iteStep
    | with_reducible intro _
    | split
    | with_reducible refine OnlyTouches.pair (by assumption) ?_
    | dsimp only

theorem State.needRepair_touches (s : State) (c row : Nat) : OnlyTouches [.mem] s (State.needRepair s c
    row) := by
  unfold State.needRepair
  try dsimp only
  repeat' first
    | with_reducible exact .refl _ _
    | with_reducible assumption
    | (with_reducible apply OnlyTouches.after (State.setChan_touches _ _ _); · decide)
    | (with_reducible apply OnlyTouches.after (State.autoMapOut_touches _ _); · decide)
    | with_reducible apply OnlyTouches.ite
    | with_reducible intro _
    | split
    | with_reducible refine OnlyTouches.pair (by assumption) ?_
    | dsimp only

theorem State.correctedRead_touches (s : State) (c u : Nat) : OnlyTouches [.objs, .mem, .ledger] s
    (State.correctedRead s c u) := by
  unfold State.correctedRead
  try dsimp only
  repeat' first
    | with_reducible exact .refl _ _
    | with_reducible assumption
    | (with_reducible apply OnlyTouches.after (State.bump_touches _ _ _); · decide)
    | (with_reducible apply OnlyTouches.after (State.modChan_touches _ _ _); · decide)
    | (with_reducible apply OnlyTouches.after (State.count_touches _ _ _ _ _); · decide)
    | (with_reducible apply OnlyTouches.after (State.countChannel_touches _ _ _ _ _); · decide)
    | (with_reducible apply OnlyTouches.after (State.needRepair_touches _ _ _); · decide)
    | with_reducible apply OnlyTouches.ite
    | with_reducible intro _
    | split
    | with_reducible refine OnlyTouches.pair (by assumption) ?_
    | dsimp only

theorem State.badRead_touches (s : State) (c u : Nat) : OnlyTouches [.objs, .power, .mem, .ledger, .free] s
    (State.badRead s c u) := by
  unfold State.badRead
  try dsimp only
  repeat' first
    | with_reducible exact .refl _ _
    | with_reducible assumption
    | (with_reducible apply OnlyTouches.after (State.poisonUnit_touches _ _); · decide)
    | (with_reducible apply OnlyTouches.after (State.uncorrectable_touches _ _ _); · decide)
    | (with_reducible apply OnlyTouches.after (State.needRepair_touches _ _ _); · decide)
    | with_reducible intro _
    | split
    | with_reducible refine OnlyTouches.pair (by assumption) ?_
    | dsimp only

theorem execScrubPass_touches (c : Chan) (corrected : List Nat) (bad : List Nat) (s : State) : StepTouches
    [.objs, .power, .mem, .ledger, .dict, .host, .free] s (execScrubPass c corrected bad s) := by
  unfold execScrubPass
  try dsimp only
  repeat' first
    | with_reducible apply OnlyTouches.ofNext
    | with_reducible exact .refl _ _
    | with_reducible assumption
    | with_reducible apply OnlyTouches.fold
    | with_reducible apply OnlyTouches.foldPair
    | (with_reducible apply OnlyTouches.after (State.putObj_touches _ _ _); · decide)
    | (with_reducible apply OnlyTouches.after (State.countChannel_touches _ _ _ _ _); · decide)
    | (with_reducible apply OnlyTouches.after (State.mappedOut_touches _ _); · decide)
    | (with_reducible apply OnlyTouches.after (State.correctedRead_touches _ _ _); · decide)
    | (with_reducible apply OnlyTouches.after (State.badRead_touches _ _ _); · decide)
    | with_reducible apply OnlyTouches.ite
    | with_reducible apply OnlyTouches.iteStep
    | with_reducible intro _
    | split
    | with_reducible refine OnlyTouches.pair (by assumption) ?_
    | dsimp only

theorem State.repairRow_touches (s : State) (c row : Nat) (bad : List Nat) : OnlyTouches [.objs, .power,
    .mem, .ledger, .free] s (State.repairRow s c row bad) := by
  unfold State.repairRow
  try dsimp only
  repeat' first
    | with_reducible exact .refl _ _
    | with_reducible assumption
    | with_reducible apply OnlyTouches.fold
    | with_reducible apply OnlyTouches.foldPair
    | (with_reducible apply OnlyTouches.after (State.modChan_touches _ _ _); · decide)
    | (with_reducible apply OnlyTouches.after (State.capsule_touches _ _ _ _); · decide)
    | (with_reducible apply OnlyTouches.after (State.poisonUnit_touches _ _); · decide)
    | (with_reducible apply OnlyTouches.after (State.countChannel_touches _ _ _ _ _); · decide)
    | (with_reducible apply OnlyTouches.after (State.uncorrectable_touches _ _ _); · decide)
    | with_reducible intro _
    | split
    | (with_reducible apply OnlyTouches.put_mem; · decide)
    | with_reducible refine OnlyTouches.pair (by assumption) ?_
    | dsimp only

theorem execRowRepair_touches (c : Chan) (row : Nat) (bad : List (Fin 16)) (s : State) : StepTouches
    [.objs, .power, .mem, .ledger, .dict, .host, .free] s (execRowRepair c row bad s) := by
  unfold execRowRepair
  try dsimp only
  repeat' first
    | with_reducible apply OnlyTouches.ofNext
    | with_reducible exact .refl _ _
    | with_reducible assumption
    | (with_reducible apply OnlyTouches.after (State.setChan_touches _ _ _); · decide)
    | (with_reducible apply OnlyTouches.after (State.autoMapOut_touches _ _); · decide)
    | (with_reducible apply OnlyTouches.after (State.mappedOut_touches _ _); · decide)
    | (with_reducible apply OnlyTouches.after (State.repairRow_touches _ _ _ _); · decide)
    | with_reducible apply OnlyTouches.ite
    | with_reducible apply OnlyTouches.iteStep
    | with_reducible intro _
    | split
    | with_reducible refine OnlyTouches.pair (by assumption) ?_
    | dsimp only

theorem execCorrectedErrorEntryDrop_touches (c : Chan) (row : Nat) (s : State) : StepTouches [.mem] s
    (execCorrectedErrorEntryDrop c row s) := by
  unfold execCorrectedErrorEntryDrop
  try dsimp only
  repeat' first
    | with_reducible apply OnlyTouches.ofNext
    | with_reducible exact .refl _ _
    | with_reducible assumption
    | (with_reducible apply OnlyTouches.after (State.modChan_touches _ _ _); · decide)
    | with_reducible intro _
    | with_reducible refine OnlyTouches.pair (by assumption) ?_
    | dsimp only

theorem execStackTempReading_touches (q : Fin 4) (milliC : Int) (atMs : Nat) (s : State) : StepTouches
    [.objs, .power, .time, .optics, .lanes, .remaps, .ports, .switch, .pitches, .service, .coll, .update,
    .arrays, .mem, .custody, .warden, .ledger, .dict, .host, .free] s (execStackTempReading q milliC atMs
    s) := by
  unfold execStackTempReading
  try dsimp only
  repeat' first
    | with_reducible apply OnlyTouches.ofNext
    | with_reducible exact .refl _ _
    | with_reducible assumption
    | with_reducible apply OnlyTouches.when
    | (with_reducible apply OnlyTouches.after (State.putObj_touches _ _ _); · decide)
    | (with_reducible apply OnlyTouches.after (State.putInt_touches _ _ _); · decide)
    | (with_reducible apply OnlyTouches.after (State.bump_touches _ _ _); · decide)
    | (with_reducible apply OnlyTouches.after (State.latchFault_touches _ _ _ _ _ _); · decide)
    | with_reducible apply OnlyTouches.ite
    | with_reducible apply OnlyTouches.iteStep
    | with_reducible intro _
    | split
    | with_reducible refine OnlyTouches.pair (by assumption) ?_
    | dsimp only

theorem execStagingBacklogSample_touches (t : Stall) (bytes : Nat) (s : State) : StepTouches [.objs, .mem]
    s (execStagingBacklogSample t bytes s) := by
  unfold execStagingBacklogSample
  try dsimp only
  repeat' first
    | with_reducible apply OnlyTouches.ofNext
    | with_reducible exact .refl _ _
    | with_reducible assumption
    | (with_reducible apply OnlyTouches.after (State.putObj_touches _ _ _); · decide)
    | with_reducible apply OnlyTouches.ite
    | with_reducible apply OnlyTouches.iteStep
    | with_reducible intro _
    | split
    | (with_reducible apply OnlyTouches.put_mem; · decide)

end Sys2Proof.Machine
end

