-- ==== Sys2Proof/Laws/KeepMemory.lean ====
section
/-! SUPPORT. The operations of Machine/Memory.lean keep the invariant. -/

namespace Sys2Proof.Machine

theorem State.uncorrectable_keeps (s : State) (c : Nat) (a : Option Nat) : Keeps s (State.uncorrectable s c
    a) := by
  unfold State.uncorrectable
  try dsimp only
  repeat' first
    | with_reducible exact .refl _
    | with_reducible assumption
    | with_reducible apply Keeps.when
    | ((with_reducible apply Keeps.afterT (State.bump_touches _ _ _)); · rfl)
    | with_reducible apply Keeps.after (State.capsule_keeps _ _ _ _)
    | ((with_reducible apply Keeps.afterT (State.count_touches _ _ _ _ _)); · rfl)
    | with_reducible intro _
    | with_reducible refine Keeps.pair (by assumption) ?_
    | dsimp only

theorem State.mapCapsule_keeps (s : State) (c : Nat) : Keeps s (State.mapCapsule s c) := by
  unfold State.mapCapsule
  try dsimp only
  repeat' first
    | with_reducible exact .refl _
    | with_reducible assumption
    | with_reducible apply Keeps.after (State.capsule_keeps _ _ _ _)
    | with_reducible intro _

theorem State.autoMapOut_keeps (s : State) (c : Nat) : Keeps s (State.autoMapOut s c) := by
  unfold State.autoMapOut
  try dsimp only
  repeat' first
    | with_reducible exact .refl _
    | with_reducible assumption
    | with_reducible apply Keeps.after (State.modChan_keeps _ _ _)
    | with_reducible apply Keeps.ite
    | with_reducible intro _
    | split
    | with_reducible refine Keeps.pair (by assumption) ?_
    | dsimp only

theorem State.queueMap_keeps (s : State) (c : Nat) (token : Option Nat) : Keeps s (State.queueMap s c
    token) := by
  unfold State.queueMap
  try dsimp only
  repeat' first
    | with_reducible exact .refl _
    | with_reducible assumption
    | with_reducible apply Keeps.after (State.modChan_keeps _ _ _)
    | with_reducible intro _
    | ((with_reducible apply Keeps.put_mem); · exact fun i => ⟨i.cells, i.tables⟩)

theorem State.mapDue_keeps (s : State) (c : Nat) : Keeps s (State.mapDue s c) := by
  unfold State.mapDue
  try dsimp only
  repeat' first
    | with_reducible exact .refl _
    | with_reducible assumption
    | with_reducible apply Keeps.fold
    | with_reducible apply Keeps.foldPair
    | with_reducible apply Keeps.after (State.endFailed_keeps _ _ _)
    | with_reducible apply Keeps.after (State.markActed_keeps _ _)
    | with_reducible apply Keeps.after (State.queueMap_keeps _ _ _)
    | with_reducible apply Keeps.ite
    | with_reducible intro _
    | split
    | with_reducible refine Keeps.pair (by assumption) ?_
    | dsimp only

theorem State.losePairs_keeps (s : State) (rs : Pair → List Nat) : Keeps s (State.losePairs s rs) := by
  unfold State.losePairs
  try dsimp only
  repeat' first
    | with_reducible exact .refl _
    | with_reducible assumption
    | with_reducible apply Keeps.fold
    | with_reducible apply Keeps.foldPair
    | ((with_reducible apply Keeps.afterT (State.bump_touches _ _ _)); · rfl)
    | ((with_reducible apply Keeps.afterT (State.setPair_touches _ _ _)); · rfl)
    | with_reducible apply Keeps.after (State.eventObj_keeps _ _ _ _)
    | with_reducible apply Keeps.after (State.capsule_keeps _ _ _ _)
    | with_reducible apply Keeps.after (State.degrade_keeps _ _)
    | with_reducible apply Keeps.ite
    | with_reducible intro _
    | split
    | with_reducible refine Keeps.pair (by assumption) ?_
    | dsimp only

theorem State.loseUnits_keeps (s : State) (c n : Nat) : Keeps s (State.loseUnits s c n) := by
  unfold State.loseUnits
  try dsimp only
  repeat' first
    | with_reducible exact .refl _
    | with_reducible assumption
    | with_reducible apply Keeps.when
    | ((with_reducible apply Keeps.afterT (State.bump_touches _ _ _)); · rfl)
    | with_reducible apply Keeps.after (State.eventObj_keeps _ _ _ _)
    | with_reducible apply Keeps.ite
    | with_reducible intro _
    | split
    | with_reducible refine Keeps.pair (by assumption) ?_
    | dsimp only

theorem State.fenceHoledPools_keeps (s : State) : Keeps s (State.fenceHoledPools s) := by
  unfold State.fenceHoledPools
  try dsimp only
  repeat' first
    | with_reducible exact .refl _
    | with_reducible assumption
    | with_reducible apply Keeps.fold
    | with_reducible apply Keeps.foldPair
    | with_reducible apply Keeps.after (State.fencePool_keeps _ _ _)
    | with_reducible apply Keeps.ite
    | with_reducible intro _
    | split
    | with_reducible refine Keeps.pair (by assumption) ?_
    | dsimp only

theorem State.reloadHoled_keeps (s : State) : Keeps s (State.reloadHoled s) := by
  unfold State.reloadHoled
  try dsimp only
  repeat' first
    | with_reducible exact .refl _
    | with_reducible assumption
    | with_reducible apply Keeps.after (State.store_keeps _ _ _)
    | with_reducible apply Keeps.after (State.identity_keeps _ _ _)
    | with_reducible apply Keeps.ite
    | with_reducible intro _
    | split
    | with_reducible apply Keeps.put_update

theorem State.holesInReserve_keeps (s : State) : Keeps s (State.holesInReserve s) := by
  unfold State.holesInReserve
  try dsimp only
  repeat' first
    | with_reducible exact .refl _
    | with_reducible assumption
    | with_reducible apply Keeps.after (State.fenceHoledPools_keeps _)
    | ((with_reducible apply Keeps.afterT (State.endHoledGroups_touches _)); · rfl)
    | with_reducible apply Keeps.after (State.reloadHoled_keeps _)
    | with_reducible intro _

theorem State.copyChannel_keeps (s : State) (c k : Nat) : Keeps s (State.copyChannel s c k) := by
  unfold State.copyChannel
  try dsimp only
  repeat' first
    | with_reducible exact .refl _
    | with_reducible assumption
    | with_reducible apply Keeps.after (State.modChan_keeps _ _ _)
    | with_reducible apply Keeps.after (State.restartRecoveries_keeps _)
    | with_reducible apply Keeps.after (State.mapCapsule_keeps _ _)
    | with_reducible intro _
    | with_reducible refine Keeps.pair (by assumption) ?_
    | dsimp only

theorem State.startMapOut_keeps (s : State) (c : Nat) : Keeps s (State.startMapOut s c) := by
  unfold State.startMapOut
  try dsimp only
  repeat' first
    | with_reducible exact .refl _
    | with_reducible assumption
    | with_reducible apply Keeps.after (State.setChan_keeps _ _ _)
    | with_reducible apply Keeps.after (State.holdAlert_keeps _ _)
    | with_reducible apply Keeps.after (State.endFailed_keeps _ _ _)
    | with_reducible apply Keeps.after (State.setResult_keeps _ _ _ _)
    | with_reducible apply Keeps.after (State.restartRecoveries_keeps _)
    | with_reducible apply Keeps.after (State.mapCapsule_keeps _ _)
    | with_reducible apply Keeps.after (State.losePairs_keeps _ _)
    | with_reducible apply Keeps.after (State.holesInReserve_keeps _)
    | with_reducible apply Keeps.after (State.copyChannel_keeps _ _ _)
    | with_reducible intro _
    | split
    | ((with_reducible apply Keeps.put_mem); · exact fun i => ⟨i.cells, i.tables⟩)
    | with_reducible refine Keeps.pair (by assumption) ?_
    | dsimp only

theorem State.startMaps_keeps (s : State) (x0 : Nat) : Keeps s (State.startMaps s x0) := by
  induction x0 generalizing s with
  | zero =>
    unfold State.startMaps
    try dsimp only
    all_goals repeat' first
      | with_reducible exact .refl _
      | with_reducible assumption
      | with_reducible apply Keeps.after (State.startMapOut_keeps _ _)
      | with_reducible apply Keeps.ite
      | with_reducible intro _
      | split
      | with_reducible refine Keeps.pair (by assumption) ?_
      | dsimp only
  | succ k ih =>
    unfold State.startMaps
    try dsimp only
    all_goals repeat' first
      | with_reducible exact .refl _
      | with_reducible assumption
      | (with_reducible apply Keeps.after (ih _))
      | with_reducible apply Keeps.after (State.startMapOut_keeps _ _)
      | with_reducible apply Keeps.ite
      | with_reducible intro _
      | split
      | with_reducible refine Keeps.pair (by assumption) ?_
      | dsimp only

theorem execMapOutStart_keeps (c : Chan) (s : State) : StepKeeps s (execMapOutStart c s) := by
  unfold execMapOutStart
  try dsimp only
  repeat' first
    | with_reducible apply Keeps.ofNext
    | with_reducible exact .refl _
    | with_reducible assumption
    | with_reducible apply Keeps.after (State.mapDue_keeps _ _)
    | with_reducible apply Keeps.after (State.startMaps_keeps _ _)
    | with_reducible intro _
    | with_reducible refine Keeps.pair (by assumption) ?_
    | dsimp only

theorem State.endCopy_keeps (s : State) (c : Nat) (bad : List Nat) : Keeps s (State.endCopy s c bad) := by
  unfold State.endCopy
  try dsimp only
  repeat' first
    | with_reducible exact .refl _
    | with_reducible assumption
    | with_reducible apply Keeps.fold
    | with_reducible apply Keeps.foldPair
    | with_reducible apply Keeps.after (State.modChan_keeps _ _ _)
    | with_reducible apply Keeps.after (State.poisonUnit_keeps _ _)
    | with_reducible apply Keeps.after (State.setResult_keeps _ _ _ _)
    | with_reducible apply Keeps.after (State.setProgress_keeps _ _ _)
    | with_reducible apply Keeps.after (State.uncorrectable_keeps _ _ _)
    | with_reducible apply Keeps.after (State.losePairs_keeps _ _)
    | with_reducible apply Keeps.after (State.loseUnits_keeps _ _ _)
    | ((with_reducible apply Keeps.afterT (State.countCopy_touches _ _)); · rfl)
    | with_reducible apply Keeps.ite
    | with_reducible intro _
    | split
    | ((with_reducible apply Keeps.put_mem); · exact fun i => ⟨i.cells, i.tables⟩)
    | with_reducible refine Keeps.pair (by assumption) ?_
    | dsimp only

theorem execMapOutCopyEnd_keeps (c : Chan) (bad : List Nat) (s : State) : StepKeeps s (execMapOutCopyEnd c
    bad s) := by
  unfold execMapOutCopyEnd
  try dsimp only
  repeat' first
    | with_reducible apply Keeps.ofNext
    | with_reducible exact .refl _
    | with_reducible assumption
    | with_reducible apply Keeps.after (State.endCopy_keeps _ _ _)
    | with_reducible apply Keeps.ite
    | with_reducible apply Keeps.iteStep
    | with_reducible intro _
    | split
    | with_reducible refine Keeps.pair (by assumption) ?_
    | dsimp only

theorem State.mappedOut_keeps (s : State) (c : Nat) : Keeps s (State.mappedOut s c) := by
  unfold State.mappedOut
  try dsimp only
  repeat' first
    | with_reducible exact .refl _
    | with_reducible assumption
    | with_reducible apply Keeps.after (State.setChan_keeps _ _ _)
    | with_reducible apply Keeps.after (State.endDone_keeps _ _)
    | with_reducible apply Keeps.ite
    | with_reducible intro _
    | split

theorem execChannelMappedOut_keeps (c : Chan) (s : State) : StepKeeps s (execChannelMappedOut c s) := by
  unfold execChannelMappedOut
  try dsimp only
  repeat' first
    | with_reducible apply Keeps.ofNext
    | with_reducible exact .refl _
    | with_reducible assumption
    | with_reducible apply Keeps.after (State.mappedOut_keeps _ _)
    | with_reducible intro _
    | with_reducible refine Keeps.pair (by assumption) ?_
    | dsimp only

theorem State.mapOutsDue_keeps (s : State) : Keeps s (State.mapOutsDue s) := by
  unfold State.mapOutsDue
  try dsimp only
  repeat' first
    | with_reducible exact .refl _
    | with_reducible assumption
    | with_reducible apply Keeps.each
    | with_reducible apply Keeps.after (State.mapDue_keeps _ _)
    | with_reducible apply Keeps.after (State.startMaps_keeps _ _)
    | with_reducible apply Keeps.after (State.mappedOut_keeps _ _)
    | with_reducible intro _
    | with_reducible refine Keeps.pair (by assumption) ?_
    | dsimp only

theorem execChannelNoAnswer_keeps (c : Chan) (s : State) : StepKeeps s (execChannelNoAnswer c s) := by
  unfold execChannelNoAnswer
  try dsimp only
  repeat' first
    | with_reducible apply Keeps.ofNext
    | with_reducible exact .refl _
    | with_reducible assumption
    | with_reducible apply Keeps.after (State.modChan_keeps _ _ _)
    | with_reducible apply Keeps.after (State.autoMapOut_keeps _ _)
    | with_reducible apply Keeps.after (State.mappedOut_keeps _ _)
    | with_reducible apply Keeps.ite
    | with_reducible apply Keeps.iteStep
    | with_reducible intro _
    | split
    | with_reducible refine Keeps.pair (by assumption) ?_
    | dsimp only

theorem State.needRepair_keeps (s : State) (c row : Nat) : Keeps s (State.needRepair s c row) := by
  unfold State.needRepair
  try dsimp only
  repeat' first
    | with_reducible exact .refl _
    | with_reducible assumption
    | with_reducible apply Keeps.after (State.setChan_keeps _ _ _)
    | with_reducible apply Keeps.after (State.autoMapOut_keeps _ _)
    | with_reducible apply Keeps.ite
    | with_reducible intro _
    | split
    | with_reducible refine Keeps.pair (by assumption) ?_
    | dsimp only

theorem State.correctedRead_keeps (s : State) (c u : Nat) : Keeps s (State.correctedRead s c u) := by
  unfold State.correctedRead
  try dsimp only
  repeat' first
    | with_reducible exact .refl _
    | with_reducible assumption
    | ((with_reducible apply Keeps.afterT (State.bump_touches _ _ _)); · rfl)
    | with_reducible apply Keeps.after (State.modChan_keeps _ _ _)
    | ((with_reducible apply Keeps.afterT (State.count_touches _ _ _ _ _)); · rfl)
    | ((with_reducible apply Keeps.afterT (State.countChannel_touches _ _ _ _ _)); · rfl)
    | with_reducible apply Keeps.after (State.needRepair_keeps _ _ _)
    | with_reducible apply Keeps.ite
    | with_reducible intro _
    | split
    | with_reducible refine Keeps.pair (by assumption) ?_
    | dsimp only

theorem State.badRead_keeps (s : State) (c u : Nat) : Keeps s (State.badRead s c u) := by
  unfold State.badRead
  try dsimp only
  repeat' first
    | with_reducible exact .refl _
    | with_reducible assumption
    | with_reducible apply Keeps.after (State.poisonUnit_keeps _ _)
    | with_reducible apply Keeps.after (State.uncorrectable_keeps _ _ _)
    | with_reducible apply Keeps.after (State.needRepair_keeps _ _ _)
    | with_reducible intro _
    | split
    | with_reducible refine Keeps.pair (by assumption) ?_
    | dsimp only

theorem execScrubPass_keeps (c : Chan) (corrected : List Nat) (bad : List Nat) (s : State) : StepKeeps s
    (execScrubPass c corrected bad s) := by
  unfold execScrubPass
  try dsimp only
  repeat' first
    | with_reducible apply Keeps.ofNext
    | with_reducible exact .refl _
    | with_reducible assumption
    | with_reducible apply Keeps.fold
    | with_reducible apply Keeps.foldPair
    | ((with_reducible apply Keeps.afterT (State.putObj_touches _ _ _)); · rfl)
    | ((with_reducible apply Keeps.afterT (State.countChannel_touches _ _ _ _ _)); · rfl)
    | with_reducible apply Keeps.after (State.mappedOut_keeps _ _)
    | with_reducible apply Keeps.after (State.correctedRead_keeps _ _ _)
    | with_reducible apply Keeps.after (State.badRead_keeps _ _ _)
    | with_reducible apply Keeps.ite
    | with_reducible apply Keeps.iteStep
    | with_reducible intro _
    | split
    | with_reducible refine Keeps.pair (by assumption) ?_
    | dsimp only

theorem State.repairRow_keeps (s : State) (c row : Nat) (bad : List Nat) : Keeps s (State.repairRow s c row
    bad) := by
  unfold State.repairRow
  try dsimp only
  repeat' first
    | with_reducible exact .refl _
    | with_reducible assumption
    | with_reducible apply Keeps.fold
    | with_reducible apply Keeps.foldPair
    | with_reducible apply Keeps.after (State.modChan_keeps _ _ _)
    | with_reducible apply Keeps.after (State.capsule_keeps _ _ _ _)
    | with_reducible apply Keeps.after (State.poisonUnit_keeps _ _)
    | ((with_reducible apply Keeps.afterT (State.countChannel_touches _ _ _ _ _)); · rfl)
    | with_reducible apply Keeps.after (State.uncorrectable_keeps _ _ _)
    | with_reducible intro _
    | split
    | ((with_reducible apply Keeps.put_mem); · exact fun i => ⟨i.cells, i.tables⟩)
    | with_reducible refine Keeps.pair (by assumption) ?_
    | dsimp only

theorem execRowRepair_keeps (c : Chan) (row : Nat) (bad : List (Fin 16)) (s : State) : StepKeeps s
    (execRowRepair c row bad s) := by
  unfold execRowRepair
  try dsimp only
  repeat' first
    | with_reducible apply Keeps.ofNext
    | with_reducible exact .refl _
    | with_reducible assumption
    | with_reducible apply Keeps.after (State.setChan_keeps _ _ _)
    | with_reducible apply Keeps.after (State.autoMapOut_keeps _ _)
    | with_reducible apply Keeps.after (State.mappedOut_keeps _ _)
    | with_reducible apply Keeps.after (State.repairRow_keeps _ _ _ _)
    | with_reducible apply Keeps.ite
    | with_reducible apply Keeps.iteStep
    | with_reducible intro _
    | split
    | with_reducible refine Keeps.pair (by assumption) ?_
    | dsimp only

theorem execCorrectedErrorEntryDrop_keeps (c : Chan) (row : Nat) (s : State) : StepKeeps s
    (execCorrectedErrorEntryDrop c row s) := by
  unfold execCorrectedErrorEntryDrop
  try dsimp only
  repeat' first
    | with_reducible apply Keeps.ofNext
    | with_reducible exact .refl _
    | with_reducible assumption
    | with_reducible apply Keeps.after (State.modChan_keeps _ _ _)
    | with_reducible intro _
    | with_reducible refine Keeps.pair (by assumption) ?_
    | dsimp only

theorem execStackTempReading_keeps (q : Fin 4) (milliC : Int) (atMs : Nat) (s : State) : StepKeeps s
    (execStackTempReading q milliC atMs s) := by
  unfold execStackTempReading
  try dsimp only
  repeat' first
    | with_reducible apply Keeps.ofNext
    | with_reducible exact .refl _
    | with_reducible assumption
    | with_reducible apply Keeps.when
    | ((with_reducible apply Keeps.afterT (State.putObj_touches _ _ _)); · rfl)
    | ((with_reducible apply Keeps.afterT (State.putInt_touches _ _ _)); · rfl)
    | ((with_reducible apply Keeps.afterT (State.bump_touches _ _ _)); · rfl)
    | with_reducible apply Keeps.after (State.latchFault_keeps _ _ _ _ _ _)
    | with_reducible apply Keeps.ite
    | with_reducible apply Keeps.iteStep
    | with_reducible intro _
    | split
    | with_reducible refine Keeps.pair (by assumption) ?_
    | dsimp only

theorem execStagingBacklogSample_keeps (t : Stall) (bytes : Nat) (s : State) : StepKeeps s
    (execStagingBacklogSample t bytes s) := by
  unfold execStagingBacklogSample
  try dsimp only
  repeat' first
    | with_reducible apply Keeps.ofNext
    | with_reducible exact .refl _
    | with_reducible assumption
    | ((with_reducible apply Keeps.afterT (State.putObj_touches _ _ _)); · rfl)
    | with_reducible apply Keeps.ite
    | with_reducible apply Keeps.iteStep
    | with_reducible intro _
    | split
    | ((with_reducible apply Keeps.put_mem); · exact fun i => ⟨i.cells, i.tables⟩)

end Sys2Proof.Machine
end

