-- ==== Sys2Proof/Laws/TouchStalls.lean ====
section
/-! SUPPORT. Which parts of the state each operation of Machine/Stalls.lean changes. -/

namespace Sys2Proof.Machine

theorem State.homeEvent_touches (s : State) : OnlyTouches [.objs, .dict, .host] s (State.homeEvent s) := by
  unfold State.homeEvent
  try dsimp only
  repeat' first
    | with_reducible exact .refl _ _
    | with_reducible assumption
    | (with_reducible apply OnlyTouches.after (State.eventAt_touches _ _ _ _ _); · decide)
    | with_reducible intro _
    | with_reducible refine OnlyTouches.pair (by assumption) ?_
    | dsimp only

theorem State.moveHomes_touches (s : State) (t target : Nat) : OnlyTouches [.objs, .custody, .dict, .host]
    s (State.moveHomes s t target) := by
  unfold State.moveHomes
  try dsimp only
  repeat' first
    | with_reducible exact .refl _ _
    | with_reducible assumption
    | with_reducible apply OnlyTouches.fold
    | with_reducible apply OnlyTouches.foldPair
    | (with_reducible apply OnlyTouches.after (State.homeEvent_touches _); · decide)
    | with_reducible apply OnlyTouches.ite
    | with_reducible intro _
    | split
    | (with_reducible apply OnlyTouches.put_custody; · decide)

theorem State.takeOut_touches (s : State) (t : Nat) (c : ComputeState) (near : Option Nat) : OnlyTouches
    [.objs, .update, .custody, .dict, .host, .out] s (State.takeOut s t c near) := by
  unfold State.takeOut
  try dsimp only
  repeat' first
    | with_reducible exact .refl _ _
    | with_reducible assumption
    | (with_reducible apply OnlyTouches.after (State.setStall_touches _ _ _); · decide)
    | (with_reducible apply OnlyTouches.after (State.parkStall_touches _ _); · decide)
    | (with_reducible apply OnlyTouches.after (State.moveHomes_touches _ _ _); · decide)
    | with_reducible apply OnlyTouches.ite
    | with_reducible intro _
    | split
    | (with_reducible apply OnlyTouches.put_out; · decide)
    | with_reducible refine OnlyTouches.pair (by assumption) ?_
    | dsimp only

theorem State.giveBackStall_touches (s : State) (t : Nat) (c : ComputeState) : OnlyTouches [.objs, .update,
    .custody, .dict, .host, .out] s (State.giveBackStall s t c) := by
  unfold State.giveBackStall
  try dsimp only
  repeat' first
    | with_reducible exact .refl _ _
    | with_reducible assumption
    | (with_reducible apply OnlyTouches.after (State.setStall_touches _ _ _); · decide)
    | (with_reducible apply OnlyTouches.after (State.unparkStall_touches _ _); · decide)
    | (with_reducible apply OnlyTouches.after (State.homeEvent_touches _); · decide)
    | with_reducible apply OnlyTouches.ite
    | with_reducible intro _
    | split
    | (with_reducible apply OnlyTouches.put_custody; · decide)
    | (with_reducible apply OnlyTouches.put_out; · decide)

theorem State.restoreStall_touches (s : State) (t : Nat) : OnlyTouches [.objs, .update, .custody, .dict,
    .host, .out] s (State.restoreStall s t) := by
  unfold State.restoreStall
  try dsimp only
  repeat' first
    | with_reducible exact .refl _ _
    | with_reducible assumption
    | (with_reducible apply OnlyTouches.after (State.modStall_touches _ _ _); · decide)
    | (with_reducible apply OnlyTouches.after (State.giveBackStall_touches _ _ _); · decide)
    | with_reducible intro _
    | with_reducible refine OnlyTouches.pair (by assumption) ?_
    | dsimp only

theorem State.stallCommand_touches (s : State) (opcode : Nat) (args : Tbl Nat) : OnlyTouches [.objs,
    .update, .custody, .dict, .host, .out] s (State.stallCommand s opcode args) := by
  unfold State.stallCommand
  try dsimp only
  repeat' first
    | with_reducible exact .refl _ _
    | with_reducible assumption
    | (with_reducible apply OnlyTouches.after (State.setStall_touches _ _ _); · decide)
    | (with_reducible apply OnlyTouches.after (State.takeOut_touches _ _ _ _); · decide)
    | (with_reducible apply OnlyTouches.after (State.restoreStall_touches _ _); · decide)
    | with_reducible apply OnlyTouches.ite
    | with_reducible intro _
    | split
    | with_reducible refine OnlyTouches.pair (by assumption) ?_
    | dsimp only

theorem State.stallTokens_touches (s : State) (ks : List Nat) : OnlyTouches [.objs, .update, .custody,
    .dict, .host, .out] s (State.stallTokens s ks) := by
  unfold State.stallTokens
  try dsimp only
  repeat' first
    | with_reducible exact .refl _ _
    | with_reducible assumption
    | with_reducible apply OnlyTouches.fold
    | with_reducible apply OnlyTouches.foldPair
    | (with_reducible apply OnlyTouches.after (State.endDone_touches _ _); · decide)
    | (with_reducible apply OnlyTouches.after (State.markActed_touches _ _); · decide)
    | (with_reducible apply OnlyTouches.after (State.stallCommand_touches _ _ _); · decide)
    | with_reducible intro _
    | split
    | with_reducible refine OnlyTouches.pair (by assumption) ?_
    | dsimp only

theorem State.testDue_touches (s : State) (t : Nat) : OnlyTouches [.objs, .update, .custody, .dict, .host,
    .out] s (State.testDue s t) := by
  unfold State.testDue
  try dsimp only
  repeat' first
    | with_reducible exact .refl _ _
    | with_reducible assumption
    | (with_reducible apply OnlyTouches.after (State.bump_touches _ _ _); · decide)
    | (with_reducible apply OnlyTouches.after (State.setStall_touches _ _ _); · decide)
    | (with_reducible apply OnlyTouches.after (State.modStall_touches _ _ _); · decide)
    | (with_reducible apply OnlyTouches.after (State.takeOut_touches _ _ _ _); · decide)
    | (with_reducible apply OnlyTouches.after (State.giveBackStall_touches _ _ _); · decide)
    | with_reducible apply OnlyTouches.ite
    | with_reducible intro _
    | split
    | with_reducible refine OnlyTouches.pair (by assumption) ?_
    | dsimp only

theorem State.startTest_touches (s : State) (t : Nat) : OnlyTouches [.objs, .update, .custody, .warden,
    .dict, .host, .out] s (State.startTest s t) := by
  unfold State.startTest
  try dsimp only
  repeat' first
    | with_reducible exact .refl _ _
    | with_reducible assumption
    | (with_reducible apply OnlyTouches.after (State.putObj_touches _ _ _); · decide)
    | (with_reducible apply OnlyTouches.after (State.putInt_touches _ _ _); · decide)
    | (with_reducible apply OnlyTouches.after (State.modStall_touches _ _ _); · decide)
    | (with_reducible apply OnlyTouches.after (State.askTally_touches _ _ _); · decide)
    | (with_reducible apply OnlyTouches.afterPair (State.askTally_touches _ _ _); (first | assumption | decide); (first | assumption | decide))
    | (with_reducible apply OnlyTouches.after (State.markActed_touches _ _); · decide)
    | (with_reducible apply OnlyTouches.after (State.takeOut_touches _ _ _ _); · decide)
    | with_reducible apply OnlyTouches.ite
    | with_reducible intro _
    | split
    | with_reducible refine OnlyTouches.pair (by assumption) ?_
    | dsimp only

theorem execTestQuietStart_touches (t : Stall) (s : State) : StepTouches [.objs, .update, .custody,
    .warden, .dict, .host, .out] s (execTestQuietStart t s) := by
  unfold execTestQuietStart
  try dsimp only
  repeat' first
    | with_reducible apply OnlyTouches.ofNext
    | with_reducible exact .refl _ _
    | with_reducible assumption
    | (with_reducible apply OnlyTouches.after (State.startTest_touches _ _); · decide)
    | with_reducible intro _
    | with_reducible refine OnlyTouches.pair (by assumption) ?_
    | dsimp only

theorem State.putTest_touches (s : State) (t w : Nat) : OnlyTouches [.objs, .dict] s (State.putTest s t w)
    := by
  unfold State.putTest
  try dsimp only
  repeat' first
    | with_reducible exact .refl _ _
    | with_reducible assumption
    | (with_reducible apply OnlyTouches.after (State.putObj_touches _ _ _); · decide)
    | (with_reducible apply OnlyTouches.after (State.setResult_touches _ _ _ _); · decide)
    | with_reducible intro _
    | split
    | with_reducible refine OnlyTouches.pair (by assumption) ?_
    | dsimp only

theorem State.clearFences_touches (s : State) (t : Nat) : OnlyTouches [.arrays] s (State.clearFences s t)
    := by
  unfold State.clearFences
  try dsimp only
  repeat' first
    | with_reducible exact .refl _ _
    | with_reducible assumption
    | (with_reducible apply OnlyTouches.after (State.modArray_touches _ _ _); · decide)
    | with_reducible apply OnlyTouches.ite
    | with_reducible intro _
    | split
    | with_reducible refine OnlyTouches.pair (by assumption) ?_
    | dsimp only

theorem execTestEnd_touches (t : Stall) (pass : Bool) (code : Byte) (centiC : BitVec 16) (s : State) :
    StepTouches [.objs, .arrays, .custody, .dict, .host] s (execTestEnd t pass code centiC s) := by
  unfold execTestEnd
  try dsimp only
  repeat' first
    | with_reducible apply OnlyTouches.ofNext
    | with_reducible exact .refl _ _
    | with_reducible assumption
    | (with_reducible apply OnlyTouches.after (State.putObj_touches _ _ _); · decide)
    | (with_reducible apply OnlyTouches.after (State.putInt_touches _ _ _); · decide)
    | (with_reducible apply OnlyTouches.after (State.bump_touches _ _ _); · decide)
    | (with_reducible apply OnlyTouches.after (State.modStall_touches _ _ _); · decide)
    | (with_reducible apply OnlyTouches.after (State.endDone_touches _ _); · decide)
    | (with_reducible apply OnlyTouches.after (State.endFailed_touches _ _ _); · decide)
    | (with_reducible apply OnlyTouches.after (State.putTest_touches _ _ _); · decide)
    | (with_reducible apply OnlyTouches.after (State.clearFences_touches _ _); · decide)
    | with_reducible apply OnlyTouches.ite
    | with_reducible apply OnlyTouches.iteStep
    | with_reducible intro _
    | split
    | with_reducible refine OnlyTouches.pair (by assumption) ?_
    | dsimp only

theorem State.dropTest_touches (s : State) (t : Nat) : OnlyTouches [.custody] s (State.dropTest s t) := by
  unfold State.dropTest
  try dsimp only
  repeat' first
    | with_reducible exact .refl _ _
    | with_reducible assumption
    | (with_reducible apply OnlyTouches.after (State.setStall_touches _ _ _); · decide)
    | with_reducible apply OnlyTouches.ite
    | with_reducible intro _
    | split
    | with_reducible refine OnlyTouches.pair (by assumption) ?_
    | dsimp only

theorem execTestWaitExpiry_touches (t : Stall) (s : State) : StepTouches [.objs, .custody, .dict, .host] s
    (execTestWaitExpiry t s) := by
  unfold execTestWaitExpiry
  try dsimp only
  repeat' first
    | with_reducible apply OnlyTouches.ofNext
    | with_reducible exact .refl _ _
    | with_reducible assumption
    | (with_reducible apply OnlyTouches.after (State.endFailed_touches _ _ _); · decide)
    | (with_reducible apply OnlyTouches.after (State.putTest_touches _ _ _); · decide)
    | (with_reducible apply OnlyTouches.after (State.dropTest_touches _ _); · decide)
    | with_reducible apply OnlyTouches.ite
    | with_reducible apply OnlyTouches.iteStep
    | with_reducible intro _
    | split
    | with_reducible refine OnlyTouches.pair (by assumption) ?_
    | dsimp only

theorem State.testTake_touches (s : State) (token : Nat) (args : Tbl Nat) : OnlyTouches [.custody] s
    (State.testTake s token args) := by
  unfold State.testTake
  try dsimp only
  repeat' first
    | with_reducible exact .refl _ _
    | with_reducible assumption
    | (with_reducible apply OnlyTouches.after (State.modStall_touches _ _ _); · decide)
    | with_reducible apply OnlyTouches.ite
    | with_reducible intro _
    | split
    | with_reducible refine OnlyTouches.pair (by assumption) ?_
    | dsimp only

theorem execStallTakeOut_touches (t : Stall) (s : State) : StepTouches [.objs, .update, .custody, .dict,
    .host, .out] s (execStallTakeOut t s) := by
  unfold execStallTakeOut
  try dsimp only
  repeat' first
    | with_reducible apply OnlyTouches.ofNext
    | with_reducible exact .refl _ _
    | with_reducible assumption
    | (with_reducible apply OnlyTouches.after (State.stallTokens_touches _ _); · decide)
    | (with_reducible apply OnlyTouches.after (State.testDue_touches _ _); · decide)
    | with_reducible apply OnlyTouches.ite
    | with_reducible apply OnlyTouches.iteStep
    | with_reducible intro _
    | split
    | with_reducible refine OnlyTouches.pair (by assumption) ?_
    | dsimp only

theorem execStallReturn_touches (t : Stall) (s : State) : StepTouches [.objs, .update, .custody, .dict,
    .host, .out] s (execStallReturn t s) := by
  unfold execStallReturn
  try dsimp only
  repeat' first
    | with_reducible apply OnlyTouches.ofNext
    | with_reducible exact .refl _ _
    | with_reducible assumption
    | (with_reducible apply OnlyTouches.after (State.stallTokens_touches _ _); · decide)
    | (with_reducible apply OnlyTouches.after (State.testDue_touches _ _); · decide)
    | with_reducible apply OnlyTouches.ite
    | with_reducible apply OnlyTouches.iteStep
    | with_reducible intro _
    | split
    | with_reducible refine OnlyTouches.pair (by assumption) ?_
    | dsimp only

theorem State.bandNext_touches (s : State) (t what : Nat) : OnlyTouches [.custody] s (State.bandNext s t
    what) := by
  unfold State.bandNext
  try dsimp only
  repeat' first
    | with_reducible exact .refl _ _
    | with_reducible assumption
    | (with_reducible apply OnlyTouches.after (State.modStall_touches _ _ _); · decide)
    | with_reducible intro _
    | with_reducible refine OnlyTouches.pair (by assumption) ?_
    | dsimp only

theorem execBandEntry_touches (t : Stall) (milliC : Int) (s : State) : StepTouches [.custody] s
    (execBandEntry t milliC s) := by
  unfold execBandEntry
  try dsimp only
  repeat' first
    | with_reducible apply OnlyTouches.ofNext
    | with_reducible exact .refl _ _
    | with_reducible assumption
    | (with_reducible apply OnlyTouches.after (State.bandNext_touches _ _ _); · decide)
    | with_reducible apply OnlyTouches.ite
    | with_reducible apply OnlyTouches.iteStep
    | with_reducible intro _
    | split

theorem execBandExit_touches (t : Stall) (milliC : Int) (s : State) : StepTouches [.custody] s
    (execBandExit t milliC s) := by
  unfold execBandExit
  try dsimp only
  repeat' first
    | with_reducible apply OnlyTouches.ofNext
    | with_reducible exact .refl _ _
    | with_reducible assumption
    | (with_reducible apply OnlyTouches.after (State.bandNext_touches _ _ _); · decide)
    | with_reducible apply OnlyTouches.ite
    | with_reducible apply OnlyTouches.iteStep
    | with_reducible intro _
    | split
    | with_reducible refine OnlyTouches.pair (by assumption) ?_
    | dsimp only

theorem State.stallsBoundary_touches (s : State) : OnlyTouches [.objs, .update, .custody, .warden, .dict,
    .host, .out] s (State.stallsBoundary s) := by
  unfold State.stallsBoundary
  try dsimp only
  repeat' first
    | with_reducible exact .refl _ _
    | with_reducible assumption
    | with_reducible apply OnlyTouches.each
    | (with_reducible apply OnlyTouches.after (State.stallTokens_touches _ _); · decide)
    | (with_reducible apply OnlyTouches.after (State.testDue_touches _ _); · decide)
    | (with_reducible apply OnlyTouches.after (State.startTest_touches _ _); · decide)
    | with_reducible intro _
    | with_reducible refine OnlyTouches.pair (by assumption) ?_
    | dsimp only

end Sys2Proof.Machine
end

