-- ==== Sys2Proof/Laws/KeepStalls.lean ====
section
/-! SUPPORT. The operations of Machine/Stalls.lean keep the invariant. -/

namespace Sys2Proof.Machine

theorem State.homeEvent_keeps (s : State) : Keeps s (State.homeEvent s) := by
  unfold State.homeEvent
  try dsimp only
  repeat' first
    | with_reducible exact .refl _
    | with_reducible assumption
    | with_reducible apply Keeps.after (State.eventAt_keeps _ _ _ _ _)
    | with_reducible intro _
    | with_reducible refine Keeps.pair (by assumption) ?_
    | dsimp only

theorem State.moveHomes_keeps (s : State) (t target : Nat) : Keeps s (State.moveHomes s t target) := by
  unfold State.moveHomes
  try dsimp only
  repeat' first
    | with_reducible exact .refl _
    | with_reducible assumption
    | with_reducible apply Keeps.fold
    | with_reducible apply Keeps.foldPair
    | with_reducible apply Keeps.after (State.homeEvent_keeps _)
    | with_reducible apply Keeps.ite
    | with_reducible intro _
    | split
    | with_reducible apply Keeps.put_custody

theorem State.takeOut_keeps (s : State) (t : Nat) (c : ComputeState) (near : Option Nat) : Keeps s
    (State.takeOut s t c near) := by
  unfold State.takeOut
  try dsimp only
  repeat' first
    | with_reducible exact .refl _
    | with_reducible assumption
    | ((with_reducible apply Keeps.afterT (State.setStall_touches _ _ _)); · rfl)
    | ((with_reducible apply Keeps.afterT (State.parkStall_touches _ _)); · rfl)
    | with_reducible apply Keeps.after (State.moveHomes_keeps _ _ _)
    | with_reducible apply Keeps.ite
    | with_reducible intro _
    | split
    | with_reducible apply Keeps.put_out
    | with_reducible refine Keeps.pair (by assumption) ?_
    | dsimp only

theorem State.giveBackStall_keeps (s : State) (t : Nat) (c : ComputeState) : Keeps s (State.giveBackStall s
    t c) := by
  unfold State.giveBackStall
  try dsimp only
  repeat' first
    | with_reducible exact .refl _
    | with_reducible assumption
    | ((with_reducible apply Keeps.afterT (State.setStall_touches _ _ _)); · rfl)
    | ((with_reducible apply Keeps.afterT (State.unparkStall_touches _ _)); · rfl)
    | with_reducible apply Keeps.after (State.homeEvent_keeps _)
    | with_reducible apply Keeps.ite
    | with_reducible intro _
    | split
    | with_reducible apply Keeps.put_custody
    | with_reducible apply Keeps.put_out

theorem State.restoreStall_keeps (s : State) (t : Nat) : Keeps s (State.restoreStall s t) := by
  unfold State.restoreStall
  try dsimp only
  repeat' first
    | with_reducible exact .refl _
    | with_reducible assumption
    | ((with_reducible apply Keeps.afterT (State.modStall_touches _ _ _)); · rfl)
    | with_reducible apply Keeps.after (State.giveBackStall_keeps _ _ _)
    | with_reducible intro _
    | with_reducible refine Keeps.pair (by assumption) ?_
    | dsimp only

theorem State.stallCommand_keeps (s : State) (opcode : Nat) (args : Tbl Nat) : Keeps s (State.stallCommand
    s opcode args) := by
  unfold State.stallCommand
  try dsimp only
  repeat' first
    | with_reducible exact .refl _
    | with_reducible assumption
    | ((with_reducible apply Keeps.afterT (State.setStall_touches _ _ _)); · rfl)
    | with_reducible apply Keeps.after (State.takeOut_keeps _ _ _ _)
    | with_reducible apply Keeps.after (State.restoreStall_keeps _ _)
    | with_reducible apply Keeps.ite
    | with_reducible intro _
    | split
    | with_reducible refine Keeps.pair (by assumption) ?_
    | dsimp only

theorem State.stallTokens_keeps (s : State) (ks : List Nat) : Keeps s (State.stallTokens s ks) := by
  unfold State.stallTokens
  try dsimp only
  repeat' first
    | with_reducible exact .refl _
    | with_reducible assumption
    | with_reducible apply Keeps.fold
    | with_reducible apply Keeps.foldPair
    | with_reducible apply Keeps.after (State.endDone_keeps _ _)
    | with_reducible apply Keeps.after (State.markActed_keeps _ _)
    | with_reducible apply Keeps.after (State.stallCommand_keeps _ _ _)
    | with_reducible intro _
    | split
    | with_reducible refine Keeps.pair (by assumption) ?_
    | dsimp only

theorem State.testDue_keeps (s : State) (t : Nat) : Keeps s (State.testDue s t) := by
  unfold State.testDue
  try dsimp only
  repeat' first
    | with_reducible exact .refl _
    | with_reducible assumption
    | ((with_reducible apply Keeps.afterT (State.bump_touches _ _ _)); · rfl)
    | ((with_reducible apply Keeps.afterT (State.setStall_touches _ _ _)); · rfl)
    | ((with_reducible apply Keeps.afterT (State.modStall_touches _ _ _)); · rfl)
    | with_reducible apply Keeps.after (State.takeOut_keeps _ _ _ _)
    | with_reducible apply Keeps.after (State.giveBackStall_keeps _ _ _)
    | with_reducible apply Keeps.ite
    | with_reducible intro _
    | split
    | with_reducible refine Keeps.pair (by assumption) ?_
    | dsimp only

theorem State.startTest_keeps (s : State) (t : Nat) : Keeps s (State.startTest s t) := by
  unfold State.startTest
  try dsimp only
  repeat' first
    | with_reducible exact .refl _
    | with_reducible assumption
    | ((with_reducible apply Keeps.afterT (State.putObj_touches _ _ _)); · rfl)
    | ((with_reducible apply Keeps.afterT (State.putInt_touches _ _ _)); · rfl)
    | ((with_reducible apply Keeps.afterT (State.modStall_touches _ _ _)); · rfl)
    | ((with_reducible apply Keeps.afterT (State.askTally_touches _ _ _)); · rfl)
    | ((with_reducible apply Keeps.afterPairT (State.askTally_touches _ _ _)); (· assumption); (· rfl))
    | with_reducible apply Keeps.after (State.markActed_keeps _ _)
    | with_reducible apply Keeps.after (State.takeOut_keeps _ _ _ _)
    | with_reducible apply Keeps.ite
    | with_reducible intro _
    | split
    | with_reducible refine Keeps.pair (by assumption) ?_
    | dsimp only

theorem execTestQuietStart_keeps (t : Stall) (s : State) : StepKeeps s (execTestQuietStart t s) := by
  unfold execTestQuietStart
  try dsimp only
  repeat' first
    | with_reducible apply Keeps.ofNext
    | with_reducible exact .refl _
    | with_reducible assumption
    | with_reducible apply Keeps.after (State.startTest_keeps _ _)
    | with_reducible intro _
    | with_reducible refine Keeps.pair (by assumption) ?_
    | dsimp only

theorem State.putTest_keeps (s : State) (t w : Nat) : Keeps s (State.putTest s t w) := by
  unfold State.putTest
  try dsimp only
  repeat' first
    | with_reducible exact .refl _
    | with_reducible assumption
    | ((with_reducible apply Keeps.afterT (State.putObj_touches _ _ _)); · rfl)
    | with_reducible apply Keeps.after (State.setResult_keeps _ _ _ _)
    | with_reducible intro _
    | split
    | with_reducible refine Keeps.pair (by assumption) ?_
    | dsimp only

theorem execTestEnd_keeps (t : Stall) (pass : Bool) (code : Byte) (centiC : BitVec 16) (s : State) :
    StepKeeps s (execTestEnd t pass code centiC s) := by
  unfold execTestEnd
  try dsimp only
  repeat' first
    | with_reducible apply Keeps.ofNext
    | with_reducible exact .refl _
    | with_reducible assumption
    | ((with_reducible apply Keeps.afterT (State.putObj_touches _ _ _)); · rfl)
    | ((with_reducible apply Keeps.afterT (State.putInt_touches _ _ _)); · rfl)
    | ((with_reducible apply Keeps.afterT (State.bump_touches _ _ _)); · rfl)
    | ((with_reducible apply Keeps.afterT (State.modStall_touches _ _ _)); · rfl)
    | with_reducible apply Keeps.after (State.endDone_keeps _ _)
    | with_reducible apply Keeps.after (State.endFailed_keeps _ _ _)
    | with_reducible apply Keeps.after (State.putTest_keeps _ _ _)
    | ((with_reducible apply Keeps.afterT (State.clearFences_touches _ _)); · rfl)
    | with_reducible apply Keeps.ite
    | with_reducible apply Keeps.iteStep
    | with_reducible intro _
    | split
    | with_reducible refine Keeps.pair (by assumption) ?_
    | dsimp only

theorem execTestWaitExpiry_keeps (t : Stall) (s : State) : StepKeeps s (execTestWaitExpiry t s) := by
  unfold execTestWaitExpiry
  try dsimp only
  repeat' first
    | with_reducible apply Keeps.ofNext
    | with_reducible exact .refl _
    | with_reducible assumption
    | with_reducible apply Keeps.after (State.endFailed_keeps _ _ _)
    | with_reducible apply Keeps.after (State.putTest_keeps _ _ _)
    | ((with_reducible apply Keeps.afterT (State.dropTest_touches _ _)); · rfl)
    | with_reducible apply Keeps.ite
    | with_reducible apply Keeps.iteStep
    | with_reducible intro _
    | split
    | with_reducible refine Keeps.pair (by assumption) ?_
    | dsimp only

theorem execStallTakeOut_keeps (t : Stall) (s : State) : StepKeeps s (execStallTakeOut t s) := by
  unfold execStallTakeOut
  try dsimp only
  repeat' first
    | with_reducible apply Keeps.ofNext
    | with_reducible exact .refl _
    | with_reducible assumption
    | with_reducible apply Keeps.after (State.stallTokens_keeps _ _)
    | with_reducible apply Keeps.after (State.testDue_keeps _ _)
    | with_reducible apply Keeps.ite
    | with_reducible apply Keeps.iteStep
    | with_reducible intro _
    | split
    | with_reducible refine Keeps.pair (by assumption) ?_
    | dsimp only

theorem execStallReturn_keeps (t : Stall) (s : State) : StepKeeps s (execStallReturn t s) := by
  unfold execStallReturn
  try dsimp only
  repeat' first
    | with_reducible apply Keeps.ofNext
    | with_reducible exact .refl _
    | with_reducible assumption
    | with_reducible apply Keeps.after (State.stallTokens_keeps _ _)
    | with_reducible apply Keeps.after (State.testDue_keeps _ _)
    | with_reducible apply Keeps.ite
    | with_reducible apply Keeps.iteStep
    | with_reducible intro _
    | split
    | with_reducible refine Keeps.pair (by assumption) ?_
    | dsimp only

theorem State.stallsBoundary_keeps (s : State) : Keeps s (State.stallsBoundary s) := by
  unfold State.stallsBoundary
  try dsimp only
  repeat' first
    | with_reducible exact .refl _
    | with_reducible assumption
    | with_reducible apply Keeps.each
    | with_reducible apply Keeps.after (State.stallTokens_keeps _ _)
    | with_reducible apply Keeps.after (State.testDue_keeps _ _)
    | with_reducible apply Keeps.after (State.startTest_keeps _ _)
    | with_reducible intro _
    | with_reducible refine Keeps.pair (by assumption) ?_
    | dsimp only

end Sys2Proof.Machine
end

