-- ==== Sys2Proof/Laws/TouchWarden.lean ====
section
/-! SUPPORT. Which parts of the state each operation of Machine/Warden.lean changes. -/

namespace Sys2Proof.Machine

theorem State.setCuts_touches (s : State) : OnlyTouches [.arrays, .warden] s (State.setCuts s) := by
  unfold State.setCuts
  try dsimp only
  repeat' first
    | with_reducible exact .refl _ _
    | with_reducible assumption
    | with_reducible apply OnlyTouches.each
    | (with_reducible apply OnlyTouches.after (State.modArray_touches _ _ _); · decide)
    | with_reducible apply OnlyTouches.ite
    | with_reducible intro _
    | split
    | (with_reducible apply OnlyTouches.put_warden; · decide)
    | with_reducible refine OnlyTouches.pair (by assumption) ?_
    | dsimp only

theorem State.setLevel_touches (s : State) (t l : Nat) : OnlyTouches [.arrays, .warden] s (State.setLevel s
    t l) := by
  unfold State.setLevel
  try dsimp only
  repeat' first
    | with_reducible exact .refl _ _
    | with_reducible assumption
    | (with_reducible apply OnlyTouches.after (State.setCuts_touches _); · decide)
    | with_reducible apply OnlyTouches.ite
    | with_reducible intro _
    | split
    | (with_reducible apply OnlyTouches.put_warden; · decide)

theorem State.ditherBeside_touches (s : State) (ts : List Nat) : OnlyTouches [.optics] s
    (State.ditherBeside s ts) := by
  unfold State.ditherBeside
  try dsimp only
  repeat' first
    | with_reducible exact .refl _ _
    | with_reducible assumption
    | with_reducible apply OnlyTouches.fold
    | with_reducible apply OnlyTouches.foldPair
    | (with_reducible apply OnlyTouches.after (State.modEngine_touches _ _ _); · decide)
    | with_reducible intro _

theorem State.enterCut_touches (s : State) (t : Nat) : OnlyTouches [.objs, .optics, .arrays, .warden,
    .ledger] s (State.enterCut s t) := by
  unfold State.enterCut
  try dsimp only
  repeat' first
    | with_reducible exact .refl _ _
    | with_reducible assumption
    | (with_reducible apply OnlyTouches.after (State.bump_touches _ _ _); · decide)
    | (with_reducible apply OnlyTouches.after (State.count_touches _ _ _ _ _); · decide)
    | (with_reducible apply OnlyTouches.after (State.setLevel_touches _ _ _); · decide)
    | (with_reducible apply OnlyTouches.after (State.ditherBeside_touches _ _); · decide)
    | with_reducible apply OnlyTouches.ite
    | with_reducible intro _
    | split
    | with_reducible refine OnlyTouches.pair (by assumption) ?_
    | dsimp only

theorem State.enterLimit_touches (s : State) (t : Nat) : OnlyTouches [.objs, .power, .update, .arrays,
    .warden, .host, .free] s (State.enterLimit s t) := by
  unfold State.enterLimit
  try dsimp only
  repeat' first
    | with_reducible exact .refl _ _
    | with_reducible assumption
    | with_reducible apply OnlyTouches.each
    | (with_reducible apply OnlyTouches.after (State.bump_touches _ _ _); · decide)
    | (with_reducible apply OnlyTouches.after (State.modArray_touches _ _ _); · decide)
    | (with_reducible apply OnlyTouches.after (State.holdAlert_touches _ _); · decide)
    | (with_reducible apply OnlyTouches.after (State.capsule_touches _ _ _ _); · decide)
    | (with_reducible apply OnlyTouches.after (State.setTank_touches _ _ _); · decide)
    | (with_reducible apply OnlyTouches.after (State.setLevel_touches _ _ _); · decide)
    | with_reducible apply OnlyTouches.ite
    | with_reducible intro _
    | split
    | (with_reducible apply OnlyTouches.put_warden; · decide)
    | with_reducible refine OnlyTouches.pair (by assumption) ?_
    | dsimp only

theorem State.judgeReading_touches (s : State) (t : Nat) (milliC rise : Int) : OnlyTouches [.objs, .power,
    .optics, .update, .arrays, .warden, .ledger, .host, .free] s (State.judgeReading s t milliC rise) := by
  unfold State.judgeReading
  try dsimp only
  repeat' first
    | with_reducible exact .refl _ _
    | with_reducible assumption
    | (with_reducible apply OnlyTouches.after (State.enterCut_touches _ _); · decide)
    | (with_reducible apply OnlyTouches.after (State.enterLimit_touches _ _); · decide)
    | with_reducible apply OnlyTouches.ite
    | with_reducible intro _
    | split
    | (with_reducible apply OnlyTouches.put_warden; · decide)
    | with_reducible refine OnlyTouches.pair (by assumption) ?_
    | dsimp only

theorem State.sweepLevels_touches (s : State) (temps : List Int) : OnlyTouches [.objs, .power, .optics,
    .update, .arrays, .warden, .ledger, .host, .free] s (State.sweepLevels s temps) := by
  unfold State.sweepLevels
  try dsimp only
  repeat' first
    | with_reducible exact .refl _ _
    | with_reducible assumption
    | with_reducible apply OnlyTouches.each
    | (with_reducible apply OnlyTouches.after (State.judgeReading_touches _ _ _ _); · decide)
    | with_reducible apply OnlyTouches.ite
    | with_reducible intro _
    | split
    | (with_reducible apply OnlyTouches.put_warden; · decide)
    | with_reducible refine OnlyTouches.pair (by assumption) ?_
    | dsimp only

theorem State.showSweep_touches (s : State) (w : Sweep) : OnlyTouches [.objs] s (State.showSweep s w) := by
  unfold State.showSweep
  try dsimp only
  repeat' first
    | with_reducible exact .refl _ _
    | with_reducible assumption
    | with_reducible apply OnlyTouches.fold
    | with_reducible apply OnlyTouches.foldPair
    | (with_reducible apply OnlyTouches.after (State.putObj_touches _ _ _); · decide)
    | (with_reducible apply OnlyTouches.after (State.putInt_touches _ _ _); · decide)
    | with_reducible apply OnlyTouches.ite
    | with_reducible intro _
    | split
    | with_reducible refine OnlyTouches.pair (by assumption) ?_
    | dsimp only

theorem State.countEnergy_touches (s : State) (mw : Nat) : OnlyTouches [.objs, .warden, .ledger] s
    (State.countEnergy s mw) := by
  unfold State.countEnergy
  try dsimp only
  repeat' first
    | with_reducible exact .refl _ _
    | with_reducible assumption
    | (with_reducible apply OnlyTouches.after (State.bump_touches _ _ _); · decide)
    | (with_reducible apply OnlyTouches.after (State.count_touches _ _ _ _ _); · decide)
    | with_reducible intro _
    | (with_reducible apply OnlyTouches.put_warden; · decide)
    | with_reducible refine OnlyTouches.pair (by assumption) ?_
    | dsimp only

theorem State.judgeOver_touches (s : State) (w : Sweep) (grants : List Nat) : OnlyTouches [.objs, .power,
    .warden, .dict, .host] s (State.judgeOver s w grants) := by
  unfold State.judgeOver
  try dsimp only
  repeat' first
    | with_reducible exact .refl _ _
    | with_reducible assumption
    | (with_reducible apply OnlyTouches.after (State.bump_touches _ _ _); · decide)
    | (with_reducible apply OnlyTouches.after (State.holdAlert_touches _ _); · decide)
    | (with_reducible apply OnlyTouches.after (State.dropAlert_touches _ _); · decide)
    | (with_reducible apply OnlyTouches.after (State.eventObj_touches _ _ _ _); · decide)
    | with_reducible apply OnlyTouches.ite
    | with_reducible intro _
    | split
    | (with_reducible apply OnlyTouches.put_warden; · decide)
    | with_reducible refine OnlyTouches.pair (by assumption) ?_
    | dsimp only

theorem State.decide'_touches (s : State) (w : Sweep) : OnlyTouches [.objs, .power, .warden, .dict, .host]
    s (State.decide' s w) := by
  unfold State.decide'
  try dsimp only
  repeat' first
    | with_reducible exact .refl _ _
    | with_reducible assumption
    | with_reducible apply OnlyTouches.when
    | (with_reducible apply OnlyTouches.after (State.putObj_touches _ _ _); · decide)
    | (with_reducible apply OnlyTouches.after (State.bump_touches _ _ _); · decide)
    | (with_reducible apply OnlyTouches.after (State.drop_touches _ _ _); · decide)
    | (with_reducible apply OnlyTouches.after (State.judgeOver_touches _ _ _); · decide)
    | with_reducible apply OnlyTouches.ite
    | with_reducible intro _
    | split
    | (with_reducible apply OnlyTouches.put_warden; · decide)
    | with_reducible refine OnlyTouches.pair (by assumption) ?_
    | dsimp only

theorem execWardenDecision_touches (sweep : Sweep) (s : State) : StepTouches [.objs, .power, .optics,
    .update, .arrays, .warden, .ledger, .dict, .host, .free] s (execWardenDecision sweep s) := by
  unfold execWardenDecision
  try dsimp only
  repeat' first
    | with_reducible apply OnlyTouches.ofNext
    | with_reducible exact .refl _ _
    | with_reducible assumption
    | with_reducible apply OnlyTouches.when
    | (with_reducible apply OnlyTouches.after (State.draw_touches _); · decide)
    | (with_reducible apply OnlyTouches.after (State.sweepLevels_touches _ _); · decide)
    | (with_reducible apply OnlyTouches.after (State.showSweep_touches _ _); · decide)
    | (with_reducible apply OnlyTouches.after (State.countEnergy_touches _ _); · decide)
    | (with_reducible apply OnlyTouches.after (State.decide'_touches _ _); · decide)
    | with_reducible apply OnlyTouches.ite
    | with_reducible apply OnlyTouches.iteStep
    | with_reducible intro _
    | split
    | (with_reducible apply OnlyTouches.put_warden; · decide)
    | with_reducible refine OnlyTouches.pair (by assumption) ?_
    | dsimp only

theorem execDecisionOverrun_touches (s : State) : StepTouches [.objs, .warden, .ledger, .dict, .host,
    .free] s (execDecisionOverrun s) := by
  unfold execDecisionOverrun
  try dsimp only
  repeat' first
    | with_reducible apply OnlyTouches.ofNext
    | with_reducible exact .refl _ _
    | with_reducible assumption
    | (with_reducible apply OnlyTouches.after (State.bump_touches _ _ _); · decide)
    | (with_reducible apply OnlyTouches.after (State.draw_touches _); · decide)
    | (with_reducible apply OnlyTouches.after (State.eventObj_touches _ _ _ _); · decide)
    | (with_reducible apply OnlyTouches.after (State.count_touches _ _ _ _ _); · decide)
    | (with_reducible apply OnlyTouches.after (State.countEnergy_touches _ _); · decide)
    | with_reducible apply OnlyTouches.ite
    | with_reducible apply OnlyTouches.iteStep
    | with_reducible intro _
    | split
    | (with_reducible apply OnlyTouches.put_warden; · decide)
    | with_reducible refine OnlyTouches.pair (by assumption) ?_
    | dsimp only

theorem State.tallyBoundary_touches (s : State) : OnlyTouches [.objs, .warden, .ledger] s
    (State.tallyBoundary s) := by
  unfold State.tallyBoundary
  try dsimp only
  repeat' first
    | with_reducible exact .refl _ _
    | with_reducible assumption
    | with_reducible apply OnlyTouches.when
    | (with_reducible apply OnlyTouches.after (State.bump_touches _ _ _); · decide)
    | (with_reducible apply OnlyTouches.after (State.count_touches _ _ _ _ _); · decide)
    | with_reducible intro _
    | (with_reducible apply OnlyTouches.put_warden; · decide)
    | with_reducible refine OnlyTouches.pair (by assumption) ?_
    | dsimp only

theorem State.applyBudget_touches (s : State) : OnlyTouches [.objs, .warden] s (State.applyBudget s) := by
  unfold State.applyBudget
  try dsimp only
  repeat' first
    | with_reducible exact .refl _ _
    | with_reducible assumption
    | with_reducible apply OnlyTouches.fold
    | with_reducible apply OnlyTouches.foldPair
    | (with_reducible apply OnlyTouches.after (State.putObj_touches _ _ _); · decide)
    | with_reducible apply OnlyTouches.ite
    | with_reducible intro _
    | split
    | (with_reducible apply OnlyTouches.put_warden; · decide)
    | with_reducible refine OnlyTouches.pair (by assumption) ?_
    | dsimp only

theorem execThermalReading_touches (t : Stall) (milliC : Int) (rise : Int) (s : State) : StepTouches
    [.objs, .power, .optics, .update, .arrays, .warden, .ledger, .host, .free] s (execThermalReading t
    milliC rise s) := by
  unfold execThermalReading
  try dsimp only
  repeat' first
    | with_reducible apply OnlyTouches.ofNext
    | with_reducible exact .refl _ _
    | with_reducible assumption
    | with_reducible apply OnlyTouches.when
    | (with_reducible apply OnlyTouches.after (State.putObj_touches _ _ _); · decide)
    | (with_reducible apply OnlyTouches.after (State.judgeReading_touches _ _ _ _); · decide)
    | with_reducible apply OnlyTouches.ite
    | with_reducible apply OnlyTouches.iteStep
    | with_reducible intro _
    | split
    | with_reducible refine OnlyTouches.pair (by assumption) ?_
    | dsimp only

theorem execLevel2Throttle_touches (t : Stall) (milliC : Int) (s : State) : StepTouches [.warden] s
    (execLevel2Throttle t milliC s) := by
  unfold execLevel2Throttle
  try dsimp only
  repeat' first
    | with_reducible apply OnlyTouches.ofNext
    | with_reducible exact .refl _ _
    | with_reducible assumption
    | with_reducible apply OnlyTouches.ite
    | with_reducible apply OnlyTouches.iteStep
    | with_reducible intro _
    | split
    | (with_reducible apply OnlyTouches.put_warden; · decide)
    | with_reducible refine OnlyTouches.pair (by assumption) ?_
    | dsimp only

theorem execThermalLevelExit_touches (t : Stall) (s : State) : StepTouches [.power, .arrays, .warden] s
    (execThermalLevelExit t s) := by
  unfold execThermalLevelExit
  try dsimp only
  repeat' first
    | with_reducible apply OnlyTouches.ofNext
    | with_reducible exact .refl _ _
    | with_reducible assumption
    | with_reducible apply OnlyTouches.fold
    | with_reducible apply OnlyTouches.foldPair
    | (with_reducible apply OnlyTouches.after (State.dropAlert_touches _ _); · decide)
    | (with_reducible apply OnlyTouches.after (State.setCuts_touches _); · decide)
    | (with_reducible apply OnlyTouches.after (State.setLevel_touches _ _ _); · decide)
    | with_reducible apply OnlyTouches.ite
    | with_reducible apply OnlyTouches.iteStep
    | with_reducible intro _
    | split
    | (with_reducible apply OnlyTouches.put_warden; · decide)
    | with_reducible refine OnlyTouches.pair (by assumption) ?_
    | dsimp only

theorem execHoldSettleExpiry_touches (t : Stall) (s : State) : StepTouches [.objs] s (execHoldSettleExpiry
    t s) := by
  unfold execHoldSettleExpiry
  try dsimp only
  repeat' first
    | with_reducible apply OnlyTouches.ofNext
    | with_reducible exact .refl _ _
    | with_reducible assumption
    | (with_reducible apply OnlyTouches.after (State.putObj_touches _ _ _); · decide)
    | with_reducible apply OnlyTouches.ite
    | with_reducible apply OnlyTouches.iteStep
    | with_reducible intro _
    | split
    | with_reducible refine OnlyTouches.pair (by assumption) ?_
    | dsimp only

end Sys2Proof.Machine
end

