-- ==== Sys2Proof/Laws/KeepWarden.lean ====
section
/-! SUPPORT. The operations of Machine/Warden.lean keep the invariant. -/

namespace Sys2Proof.Machine

theorem State.enterLimit_keeps (s : State) (t : Nat) : Keeps s (State.enterLimit s t) := by
  unfold State.enterLimit
  try dsimp only
  repeat' first
    | with_reducible exact .refl _
    | with_reducible assumption
    | with_reducible apply Keeps.each
    | ((with_reducible apply Keeps.afterT (State.bump_touches _ _ _)); · rfl)
    | ((with_reducible apply Keeps.afterT (State.modArray_touches _ _ _)); · rfl)
    | with_reducible apply Keeps.after (State.holdAlert_keeps _ _)
    | with_reducible apply Keeps.after (State.capsule_keeps _ _ _ _)
    | ((with_reducible apply Keeps.afterT (State.setTank_touches _ _ _)); · rfl)
    | ((with_reducible apply Keeps.afterT (State.setLevel_touches _ _ _)); · rfl)
    | with_reducible apply Keeps.ite
    | with_reducible intro _
    | split
    | with_reducible apply Keeps.put_warden
    | with_reducible refine Keeps.pair (by assumption) ?_
    | dsimp only

theorem State.judgeReading_keeps (s : State) (t : Nat) (milliC rise : Int) : Keeps s (State.judgeReading s
    t milliC rise) := by
  unfold State.judgeReading
  try dsimp only
  repeat' first
    | with_reducible exact .refl _
    | with_reducible assumption
    | ((with_reducible apply Keeps.afterT (State.enterCut_touches _ _)); · rfl)
    | with_reducible apply Keeps.after (State.enterLimit_keeps _ _)
    | with_reducible apply Keeps.ite
    | with_reducible intro _
    | split
    | with_reducible apply Keeps.put_warden
    | with_reducible refine Keeps.pair (by assumption) ?_
    | dsimp only

theorem State.sweepLevels_keeps (s : State) (temps : List Int) : Keeps s (State.sweepLevels s temps) := by
  unfold State.sweepLevels
  try dsimp only
  repeat' first
    | with_reducible exact .refl _
    | with_reducible assumption
    | with_reducible apply Keeps.each
    | with_reducible apply Keeps.after (State.judgeReading_keeps _ _ _ _)
    | with_reducible apply Keeps.ite
    | with_reducible intro _
    | split
    | with_reducible apply Keeps.put_warden
    | with_reducible refine Keeps.pair (by assumption) ?_
    | dsimp only

theorem State.judgeOver_keeps (s : State) (w : Sweep) (grants : List Nat) : Keeps s (State.judgeOver s w
    grants) := by
  unfold State.judgeOver
  try dsimp only
  repeat' first
    | with_reducible exact .refl _
    | with_reducible assumption
    | ((with_reducible apply Keeps.afterT (State.bump_touches _ _ _)); · rfl)
    | with_reducible apply Keeps.after (State.holdAlert_keeps _ _)
    | with_reducible apply Keeps.after (State.dropAlert_keeps _ _)
    | with_reducible apply Keeps.after (State.eventObj_keeps _ _ _ _)
    | with_reducible apply Keeps.ite
    | with_reducible intro _
    | split
    | with_reducible apply Keeps.put_warden
    | with_reducible refine Keeps.pair (by assumption) ?_
    | dsimp only

theorem State.decide'_keeps (s : State) (w : Sweep) : Keeps s (State.decide' s w) := by
  unfold State.decide'
  try dsimp only
  repeat' first
    | with_reducible exact .refl _
    | with_reducible assumption
    | with_reducible apply Keeps.when
    | ((with_reducible apply Keeps.afterT (State.putObj_touches _ _ _)); · rfl)
    | ((with_reducible apply Keeps.afterT (State.bump_touches _ _ _)); · rfl)
    | ((with_reducible apply Keeps.afterT (State.drop_touches _ _ _)); · rfl)
    | with_reducible apply Keeps.after (State.judgeOver_keeps _ _ _)
    | with_reducible apply Keeps.ite
    | with_reducible intro _
    | split
    | with_reducible apply Keeps.put_warden
    | with_reducible refine Keeps.pair (by assumption) ?_
    | dsimp only

theorem execWardenDecision_keeps (sweep : Sweep) (s : State) : StepKeeps s (execWardenDecision sweep s) :=
    by
  unfold execWardenDecision
  try dsimp only
  repeat' first
    | with_reducible apply Keeps.ofNext
    | with_reducible exact .refl _
    | with_reducible assumption
    | with_reducible apply Keeps.when
    | ((with_reducible apply Keeps.afterT (State.draw_touches _)); · rfl)
    | with_reducible apply Keeps.after (State.sweepLevels_keeps _ _)
    | ((with_reducible apply Keeps.afterT (State.showSweep_touches _ _)); · rfl)
    | ((with_reducible apply Keeps.afterT (State.countEnergy_touches _ _)); · rfl)
    | with_reducible apply Keeps.after (State.decide'_keeps _ _)
    | with_reducible apply Keeps.ite
    | with_reducible apply Keeps.iteStep
    | with_reducible intro _
    | split
    | with_reducible apply Keeps.put_warden
    | with_reducible refine Keeps.pair (by assumption) ?_
    | dsimp only

theorem execDecisionOverrun_keeps (s : State) : StepKeeps s (execDecisionOverrun s) := by
  unfold execDecisionOverrun
  try dsimp only
  repeat' first
    | with_reducible apply Keeps.ofNext
    | with_reducible exact .refl _
    | with_reducible assumption
    | ((with_reducible apply Keeps.afterT (State.bump_touches _ _ _)); · rfl)
    | ((with_reducible apply Keeps.afterT (State.draw_touches _)); · rfl)
    | with_reducible apply Keeps.after (State.eventObj_keeps _ _ _ _)
    | ((with_reducible apply Keeps.afterT (State.count_touches _ _ _ _ _)); · rfl)
    | ((with_reducible apply Keeps.afterT (State.countEnergy_touches _ _)); · rfl)
    | with_reducible apply Keeps.ite
    | with_reducible apply Keeps.iteStep
    | with_reducible intro _
    | split
    | with_reducible apply Keeps.put_warden
    | with_reducible refine Keeps.pair (by assumption) ?_
    | dsimp only

theorem execThermalReading_keeps (t : Stall) (milliC : Int) (rise : Int) (s : State) : StepKeeps s
    (execThermalReading t milliC rise s) := by
  unfold execThermalReading
  try dsimp only
  repeat' first
    | with_reducible apply Keeps.ofNext
    | with_reducible exact .refl _
    | with_reducible assumption
    | with_reducible apply Keeps.when
    | ((with_reducible apply Keeps.afterT (State.putObj_touches _ _ _)); · rfl)
    | with_reducible apply Keeps.after (State.judgeReading_keeps _ _ _ _)
    | with_reducible apply Keeps.ite
    | with_reducible apply Keeps.iteStep
    | with_reducible intro _
    | split
    | with_reducible refine Keeps.pair (by assumption) ?_
    | dsimp only

theorem execThermalLevelExit_keeps (t : Stall) (s : State) : StepKeeps s (execThermalLevelExit t s) := by
  unfold execThermalLevelExit
  try dsimp only
  repeat' first
    | with_reducible apply Keeps.ofNext
    | with_reducible exact .refl _
    | with_reducible assumption
    | with_reducible apply Keeps.fold
    | with_reducible apply Keeps.foldPair
    | with_reducible apply Keeps.after (State.dropAlert_keeps _ _)
    | ((with_reducible apply Keeps.afterT (State.setCuts_touches _)); · rfl)
    | ((with_reducible apply Keeps.afterT (State.setLevel_touches _ _ _)); · rfl)
    | with_reducible apply Keeps.ite
    | with_reducible apply Keeps.iteStep
    | with_reducible intro _
    | split
    | with_reducible apply Keeps.put_warden
    | with_reducible refine Keeps.pair (by assumption) ?_
    | dsimp only

end Sys2Proof.Machine
end

