-- ==== Sys2Proof/Laws/TouchCommands.lean ====
section
/-! SUPPORT. Which parts of the state each operation of Machine/Commands.lean changes. -/

namespace Sys2Proof.Machine

theorem State.admitTake_touches (s : State) (token : Nat) (args : Tbl Nat) : OnlyTouches [.objs, .pitches,
    .dict, .host] s (State.admitTake s token args) := by
  unfold State.admitTake
  try dsimp only
  repeat' first
    | with_reducible exact .refl _ _
    | with_reducible assumption
    | (with_reducible apply OnlyTouches.after (State.setPitch_touches _ _ _); · decide)
    | (with_reducible apply OnlyTouches.after (State.endDone_touches _ _); · decide)
    | (with_reducible apply OnlyTouches.after (State.setResult_touches _ _ _ _); · decide)
    | with_reducible intro _
    | with_reducible refine OnlyTouches.pair (by assumption) ?_
    | dsimp only

theorem State.releaseTake_touches (s : State) (token : Nat) (args : Tbl Nat) : OnlyTouches [.objs,
    .pitches, .dict, .host] s (State.releaseTake s token args) := by
  unfold State.releaseTake
  try dsimp only
  repeat' first
    | with_reducible exact .refl _ _
    | with_reducible assumption
    | (with_reducible apply OnlyTouches.after (State.setPitch_touches _ _ _); · decide)
    | (with_reducible apply OnlyTouches.after (State.endDone_touches _ _); · decide)
    | (with_reducible apply OnlyTouches.after (State.setResult_touches _ _ _ _); · decide)
    | with_reducible intro _
    | with_reducible refine OnlyTouches.pair (by assumption) ?_
    | dsimp only

theorem State.switchTake_touches (s : State) (token bell : Nat) (args : Tbl Nat) : OnlyTouches [.switch] s
    (State.switchTake s token bell args) := by
  unfold State.switchTake
  try dsimp only
  repeat' first
    | with_reducible exact .refl _ _
    | with_reducible assumption
    | with_reducible intro _
    | (with_reducible apply OnlyTouches.put_switch; · decide)

theorem State.remapTake_touches (s : State) (token bell : Nat) (args : Tbl Nat) : OnlyTouches [.lanes,
    .remaps, .dict] s (State.remapTake s token bell args) := by
  unfold State.remapTake
  try dsimp only
  repeat' first
    | with_reducible exact .refl _ _
    | with_reducible assumption
    | (with_reducible apply OnlyTouches.after (State.setResult_touches _ _ _ _); · decide)
    | (with_reducible apply OnlyTouches.after (State.scheduleRemap_touches _ _ _ _ _ _); · decide)
    | with_reducible intro _
    | split
    | with_reducible refine OnlyTouches.pair (by assumption) ?_
    | dsimp only

theorem State.remapUndone_touches (s : State) (token : Nat) : OnlyTouches [.lanes, .remaps] s
    (State.remapUndone s token) := by
  unfold State.remapUndone
  try dsimp only
  repeat' first
    | with_reducible exact .refl _ _
    | with_reducible assumption
    | with_reducible apply OnlyTouches.fold
    | with_reducible apply OnlyTouches.foldPair
    | (with_reducible apply OnlyTouches.after (State.modLane_touches _ _ _); · decide)
    | with_reducible intro _
    | (with_reducible apply OnlyTouches.put_remaps; · decide)

theorem State.thoroTake_touches (s : State) (token bell : Nat) (args : Tbl Nat) : OnlyTouches [.optics,
    .dict] s (State.thoroTake s token bell args) := by
  unfold State.thoroTake
  try dsimp only
  repeat' first
    | with_reducible exact .refl _ _
    | with_reducible assumption
    | (with_reducible apply OnlyTouches.after (State.setResult_touches _ _ _ _); · decide)
    | (with_reducible apply OnlyTouches.after (State.setThoro_touches _ _ _); · decide)
    | with_reducible apply OnlyTouches.ite
    | with_reducible intro _
    | split
    | with_reducible refine OnlyTouches.pair (by assumption) ?_
    | dsimp only

theorem State.thoroUndone_touches (s : State) (token : Nat) : OnlyTouches [.objs, .optics, .ports] s
    (State.thoroUndone s token) := by
  unfold State.thoroUndone
  try dsimp only
  repeat' first
    | with_reducible exact .refl _ _
    | with_reducible assumption
    | (with_reducible apply OnlyTouches.after (State.sendMove_touches _ _ _); · decide)
    | (with_reducible apply OnlyTouches.after (State.setThoro_touches _ _ _); · decide)
    | (with_reducible apply OnlyTouches.after (State.thoroReturn_touches _ _ _); · decide)
    | with_reducible apply OnlyTouches.ite
    | with_reducible intro _
    | split
    | (with_reducible apply OnlyTouches.put_optics; · decide)

theorem State.bundleResult_touches (s : State) (token kind number identity : Nat) : OnlyTouches [.objs,
    .power, .optics, .ports, .dict, .host] s (State.bundleResult s token kind number identity) := by
  unfold State.bundleResult
  try dsimp only
  repeat' first
    | with_reducible exact .refl _ _
    | with_reducible assumption
    | (with_reducible apply OnlyTouches.after (State.setResult_touches _ _ _ _); · decide)
    | (with_reducible apply OnlyTouches.after (State.identity_touches _ _ _); · decide)
    | with_reducible intro _
    | with_reducible refine OnlyTouches.pair (by assumption) ?_
    | dsimp only

theorem State.unload_touches (s : State) (token k : Nat) : OnlyTouches [.objs, .power, .optics, .ports,
    .update, .dict, .host] s (State.unload s token k) := by
  unfold State.unload
  try dsimp only
  repeat' first
    | with_reducible exact .refl _ _
    | with_reducible assumption
    | (with_reducible apply OnlyTouches.after (State.endDone_touches _ _); · decide)
    | (with_reducible apply OnlyTouches.after (State.identity_touches _ _ _); · decide)
    | (with_reducible apply OnlyTouches.after (State.dropProgram_touches _ _); · decide)
    | (with_reducible apply OnlyTouches.after (State.bundleResult_touches _ _ _ _ _); · decide)
    | with_reducible intro _
    | split
    | with_reducible refine OnlyTouches.pair (by assumption) ?_
    | dsimp only

theorem State.loadTake_touches (s : State) (token : Nat) (args : Tbl Nat) : OnlyTouches [.objs, .power,
    .optics, .ports, .update, .dict, .host] s (State.loadTake s token args) := by
  unfold State.loadTake
  try dsimp only
  repeat' first
    | with_reducible exact .refl _ _
    | with_reducible assumption
    | (with_reducible apply OnlyTouches.after (State.unload_touches _ _ _); · decide)
    | with_reducible apply OnlyTouches.ite
    | with_reducible intro _
    | split

theorem State.endLoadBundle_touches (s : State) (token : Nat) (args : Tbl Nat) (fetched : Option (List
    Byte)) : OnlyTouches [.objs, .power, .optics, .ports, .update, .mem, .ledger, .dict, .host] s
    (State.endLoadBundle s token args fetched) := by
  unfold State.endLoadBundle
  try dsimp only
  repeat' first
    | with_reducible exact .refl _ _
    | with_reducible assumption
    | with_reducible apply OnlyTouches.when
    | (with_reducible apply OnlyTouches.after (State.endDone_touches _ _); · decide)
    | (with_reducible apply OnlyTouches.after (State.endFailed_touches _ _ _); · decide)
    | (with_reducible apply OnlyTouches.after (State.setProgress_touches _ _ _); · decide)
    | (with_reducible apply OnlyTouches.after (State.endFailedAt_touches _ _ _ _); · decide)
    | (with_reducible apply OnlyTouches.after (State.hostError_touches _); · decide)
    | (with_reducible apply OnlyTouches.after (State.identity_touches _ _ _); · decide)
    | (with_reducible apply OnlyTouches.after (State.verifyFailed_touches _); · decide)
    | (with_reducible apply OnlyTouches.after (State.placeBundle_touches _ _); · decide)
    | (with_reducible apply OnlyTouches.afterPair (State.placeBundle_touches _ _); (first | assumption | decide); (first | assumption | decide))
    | (with_reducible apply OnlyTouches.after (State.countFetch_touches _ _ _); · decide)
    | (with_reducible apply OnlyTouches.after (State.bundleResult_touches _ _ _ _ _); · decide)
    | with_reducible intro _
    | split
    | with_reducible refine OnlyTouches.pair (by assumption) ?_
    | dsimp only

theorem execBundleVerified_touches (token : BitVec 64) (fetched : Option (List Byte)) (s : State) :
    StepTouches [.objs, .power, .optics, .ports, .update, .mem, .ledger, .dict, .host] s
    (execBundleVerified token fetched s) := by
  unfold execBundleVerified
  try dsimp only
  repeat' first
    | with_reducible apply OnlyTouches.ofNext
    | with_reducible exact .refl _ _
    | with_reducible assumption
    | (with_reducible apply OnlyTouches.after (State.endLoadBundle_touches _ _ _ _); · decide)
    | with_reducible apply OnlyTouches.ite
    | with_reducible apply OnlyTouches.iteStep
    | with_reducible intro _
    | split

theorem State.checkpointTake_touches (s : State) (token : Nat) (args : Tbl Nat) : OnlyTouches [.host] s
    (State.checkpointTake s token args) := by
  unfold State.checkpointTake
  try dsimp only
  repeat' first
    | with_reducible exact .refl _ _
    | with_reducible assumption
    | with_reducible intro _
    | (with_reducible apply OnlyTouches.put_host; · decide)
    | with_reducible refine OnlyTouches.pair (by assumption) ?_
    | dsimp only

theorem State.undo_touches (s : State) (r : TokenRec) : OnlyTouches [.objs, .optics, .lanes, .remaps,
    .ports, .switch, .coll, .update, .custody, .dict, .host] s (State.undo s r) := by
  unfold State.undo
  try dsimp only
  repeat' first
    | with_reducible exact .refl _ _
    | with_reducible assumption
    | (with_reducible apply OnlyTouches.after (State.setPair_touches _ _ _); · decide)
    | (with_reducible apply OnlyTouches.after (State.modPair_touches _ _ _); · decide)
    | (with_reducible apply OnlyTouches.after (State.setResult_touches _ _ _ _); · decide)
    | (with_reducible apply OnlyTouches.after (State.startUndone_touches _ _); · decide)
    | (with_reducible apply OnlyTouches.after (State.openUndone_touches _ _); · decide)
    | (with_reducible apply OnlyTouches.after (State.dropCheckpoint_touches _ _); · decide)
    | (with_reducible apply OnlyTouches.after (State.dropTest_touches _ _); · decide)
    | (with_reducible apply OnlyTouches.after (State.remapUndone_touches _ _); · decide)
    | (with_reducible apply OnlyTouches.after (State.thoroUndone_touches _ _); · decide)
    | with_reducible apply OnlyTouches.ite
    | with_reducible intro _
    | split
    | (with_reducible apply OnlyTouches.put_switch; · decide)
    | with_reducible refine OnlyTouches.pair (by assumption) ?_
    | dsimp only

theorem State.cancelTake_touches (s : State) (token : Nat) (args : Tbl Nat) : OnlyTouches [.objs, .optics,
    .lanes, .remaps, .ports, .switch, .coll, .update, .custody, .dict, .host] s (State.cancelTake s token
    args) := by
  unfold State.cancelTake
  try dsimp only
  repeat' first
    | with_reducible exact .refl _ _
    | with_reducible assumption
    | (with_reducible apply OnlyTouches.after (State.endDone_touches _ _); · decide)
    | (with_reducible apply OnlyTouches.after (State.endFailed_touches _ _ _); · decide)
    | (with_reducible apply OnlyTouches.after (State.markActed_touches _ _); · decide)
    | (with_reducible apply OnlyTouches.after (State.undo_touches _ _); · decide)
    | with_reducible intro _
    | split
    | with_reducible refine OnlyTouches.pair (by assumption) ?_
    | dsimp only

theorem State.commandTake_touches (s : State) (op token bell : Nat) (args : Tbl Nat) : OnlyTouches [.objs,
    .power, .optics, .lanes, .remaps, .ports, .switch, .pitches, .coll, .update, .mem, .custody, .ledger,
    .dict, .host] s (State.commandTake s op token bell args) := by
  unfold State.commandTake
  try dsimp only
  repeat' first
    | with_reducible exact .refl _ _
    | with_reducible assumption
    | (with_reducible apply OnlyTouches.after (State.pairTake_touches _ _ _); · decide)
    | (with_reducible apply OnlyTouches.after (State.resyncTake_touches _ _ _); · decide)
    | (with_reducible apply OnlyTouches.after (State.startTake_touches _ _ _ _); · decide)
    | (with_reducible apply OnlyTouches.after (State.stopTake_touches _ _ _); · decide)
    | (with_reducible apply OnlyTouches.after (State.openTake_touches _ _ _ _); · decide)
    | (with_reducible apply OnlyTouches.after (State.closeTake_touches _ _ _); · decide)
    | (with_reducible apply OnlyTouches.after (State.testTake_touches _ _ _); · decide)
    | (with_reducible apply OnlyTouches.after (State.admitTake_touches _ _ _); · decide)
    | (with_reducible apply OnlyTouches.after (State.releaseTake_touches _ _ _); · decide)
    | (with_reducible apply OnlyTouches.after (State.switchTake_touches _ _ _ _); · decide)
    | (with_reducible apply OnlyTouches.after (State.remapTake_touches _ _ _ _); · decide)
    | (with_reducible apply OnlyTouches.after (State.thoroTake_touches _ _ _ _); · decide)
    | (with_reducible apply OnlyTouches.after (State.loadTake_touches _ _ _); · decide)
    | (with_reducible apply OnlyTouches.after (State.checkpointTake_touches _ _ _); · decide)
    | (with_reducible apply OnlyTouches.after (State.cancelTake_touches _ _ _); · decide)
    | with_reducible intro _
    | split

theorem State.refuseSlot_touches (s : State) (k code : Nat) : OnlyTouches [.objs, .dict, .host] s
    (State.refuseSlot s k code) := by
  unfold State.refuseSlot
  try dsimp only
  repeat' first
    | with_reducible exact .refl _ _
    | with_reducible assumption
    | (with_reducible apply OnlyTouches.after (State.setSlot_touches _ _ _); · decide)
    | (with_reducible apply OnlyTouches.after (State.completionEvent_touches _ _ _); · decide)
    | with_reducible intro _
    | with_reducible refine OnlyTouches.pair (by assumption) ?_
    | dsimp only

theorem State.showRecord_touches (s : State) (k : Nat) (r : TokenRec) : OnlyTouches [.dict] s
    (State.showRecord s k r) := by
  unfold State.showRecord
  try dsimp only
  repeat' first
    | with_reducible exact .refl _ _
    | with_reducible assumption
    | (with_reducible apply OnlyTouches.after (State.setSlot_touches _ _ _); · decide)
    | with_reducible intro _
    | with_reducible refine OnlyTouches.pair (by assumption) ?_
    | dsimp only

theorem State.tokenRoom_touches (s : State) : OptTouches [.dict] s (State.tokenRoom s) := by
  unfold State.tokenRoom
  try dsimp only
  repeat' first
    | with_reducible apply OnlyTouches.ofSome
    | with_reducible exact OnlyTouches.ofNone
    | with_reducible apply OnlyTouches.iteOpt
    | with_reducible exact .refl _ _
    | with_reducible assumption
    | with_reducible apply OnlyTouches.ite
    | with_reducible intro _
    | split
    | (with_reducible apply OnlyTouches.put_dict; · decide)

theorem State.refuseCommand_touches (s : State) (token code pos : Nat) : OnlyTouches [.objs, .dict, .host]
    s (State.refuseCommand s token code pos) := by
  unfold State.refuseCommand
  try dsimp only
  repeat' first
    | with_reducible exact .refl _ _
    | with_reducible assumption
    | (with_reducible apply OnlyTouches.after (State.modToken_touches _ _ _); · decide)
    | (with_reducible apply OnlyTouches.after (State.endCommand_touches _ _ _ _); · decide)
    | (with_reducible apply OnlyTouches.after (State.setResult_touches _ _ _ _); · decide)
    | with_reducible intro _
    | with_reducible refine OnlyTouches.pair (by assumption) ?_
    | dsimp only

theorem State.startCommand_touches (s : State) (k : Nat) (x : SlotSt) : OnlyTouches [.objs, .power,
    .optics, .lanes, .remaps, .ports, .switch, .pitches, .coll, .update, .mem, .custody, .ledger, .dict,
    .host] s (State.startCommand s k x) := by
  unfold State.startCommand
  try dsimp only
  repeat' first
    | with_reducible exact .refl _ _
    | with_reducible assumption
    | (with_reducible apply OnlyTouches.after (State.commandTake_touches _ _ _ _ _); · decide)
    | (with_reducible apply OnlyTouches.after (State.showRecord_touches _ _ _); · decide)
    | (with_reducible apply OnlyTouches.after (State.refuseCommand_touches _ _ _ _); · decide)
    | with_reducible intro _
    | split
    | (with_reducible apply OnlyTouches.put_dict; · decide)

theorem State.takeSlot_touches (s : State) (k : Nat) : OnlyTouches [.objs, .power, .optics, .lanes,
    .remaps, .ports, .switch, .pitches, .coll, .update, .mem, .custody, .ledger, .dict, .host] s
    (State.takeSlot s k) := by
  unfold State.takeSlot
  try dsimp only
  repeat' first
    | with_reducible exact .refl _ _
    | with_reducible assumption
    | (with_reducible apply OnlyTouches.after (State.refuseSlot_touches _ _ _); · decide)
    | (with_reducible apply OnlyTouches.after (State.showRecord_touches _ _ _); · decide)
    | (with_reducible apply OnlyTouches.afterOpt (State.tokenRoom_touches _); (first | assumption | decide); (first | assumption | decide))
    | (with_reducible apply OnlyTouches.after (State.startCommand_touches _ _ _); · decide)
    | with_reducible apply OnlyTouches.ite
    | with_reducible intro _
    | split

theorem State.takeNamed_touches (s : State) (k op : Nat) : OnlyTouches [.objs, .power, .optics, .lanes,
    .remaps, .ports, .switch, .pitches, .coll, .update, .mem, .custody, .ledger, .dict, .host] s
    (State.takeNamed s k op) := by
  unfold State.takeNamed
  try dsimp only
  repeat' first
    | with_reducible exact .refl _ _
    | with_reducible assumption
    | (with_reducible apply OnlyTouches.after (State.takeSlot_touches _ _); · decide)
    | with_reducible apply OnlyTouches.ite
    | with_reducible intro _
    | split
    | with_reducible refine OnlyTouches.pair (by assumption) ?_
    | dsimp only

theorem State.takeSlots_touches (s : State) : OnlyTouches [.objs, .power, .optics, .lanes, .remaps, .ports,
    .switch, .pitches, .coll, .update, .mem, .custody, .ledger, .dict, .host] s (State.takeSlots s) := by
  unfold State.takeSlots
  try dsimp only
  repeat' first
    | with_reducible exact .refl _ _
    | with_reducible assumption
    | with_reducible apply OnlyTouches.fold
    | with_reducible apply OnlyTouches.foldPair
    | (with_reducible apply OnlyTouches.after (State.takeSlot_touches _ _); · decide)
    | with_reducible intro _

theorem State.actOne_touches (s : State) (r : TokenRec) : OnlyTouches [.objs, .ports, .switch, .coll,
    .update, .arrays, .mem, .custody, .ledger, .dict, .host, .free, .out] s (State.actOne s r) := by
  unfold State.actOne
  try dsimp only
  repeat' first
    | with_reducible exact .refl _ _
    | with_reducible assumption
    | (with_reducible apply OnlyTouches.after (State.takeOverDue_touches _ _); · decide)
    | (with_reducible apply OnlyTouches.after (State.startDue_touches _ _); · decide)
    | (with_reducible apply OnlyTouches.after (State.stopDue_touches _ _); · decide)
    | (with_reducible apply OnlyTouches.after (State.openDue_touches _ _); · decide)
    | (with_reducible apply OnlyTouches.after (State.closeDue_touches _ _); · decide)
    | with_reducible intro _
    | split
    | with_reducible refine OnlyTouches.pair (by assumption) ?_
    | dsimp only

theorem State.actDue_touches (s : State) : OnlyTouches [.objs, .ports, .switch, .coll, .update, .arrays,
    .mem, .custody, .ledger, .dict, .host, .free, .out] s (State.actDue s) := by
  unfold State.actDue
  try dsimp only
  repeat' first
    | with_reducible exact .refl _ _
    | with_reducible assumption
    | with_reducible apply OnlyTouches.fold
    | with_reducible apply OnlyTouches.foldPair
    | (with_reducible apply OnlyTouches.after (State.actOne_touches _ _); · decide)
    | with_reducible intro _
    | with_reducible refine OnlyTouches.pair (by assumption) ?_
    | dsimp only

theorem execAdmitPitch_touches (k : Slot) (s : State) : StepTouches [.objs, .power, .optics, .lanes,
    .remaps, .ports, .switch, .pitches, .coll, .update, .mem, .custody, .ledger, .dict, .host] s
    (execAdmitPitch k s) := by
  unfold execAdmitPitch
  try dsimp only
  repeat' first
    | with_reducible apply OnlyTouches.ofNext
    | with_reducible exact .refl _ _
    | with_reducible assumption
    | (with_reducible apply OnlyTouches.after (State.takeNamed_touches _ _ _); · decide)
    | with_reducible intro _
    | with_reducible refine OnlyTouches.pair (by assumption) ?_
    | dsimp only

theorem execReleasePitch_touches (k : Slot) (s : State) : StepTouches [.objs, .power, .optics, .lanes,
    .remaps, .ports, .switch, .pitches, .coll, .update, .mem, .custody, .ledger, .dict, .host] s
    (execReleasePitch k s) := by
  unfold execReleasePitch
  try dsimp only
  repeat' first
    | with_reducible apply OnlyTouches.ofNext
    | with_reducible exact .refl _ _
    | with_reducible assumption
    | (with_reducible apply OnlyTouches.after (State.takeNamed_touches _ _ _); · decide)
    | with_reducible intro _
    | with_reducible refine OnlyTouches.pair (by assumption) ?_
    | dsimp only

theorem execOpenGroup_touches (k : Slot) (s : State) : StepTouches [.objs, .power, .optics, .lanes,
    .remaps, .ports, .switch, .pitches, .coll, .update, .mem, .custody, .ledger, .dict, .host] s
    (execOpenGroup k s) := by
  unfold execOpenGroup
  try dsimp only
  repeat' first
    | with_reducible apply OnlyTouches.ofNext
    | with_reducible exact .refl _ _
    | with_reducible assumption
    | (with_reducible apply OnlyTouches.after (State.takeNamed_touches _ _ _); · decide)
    | with_reducible intro _
    | with_reducible refine OnlyTouches.pair (by assumption) ?_
    | dsimp only

theorem execCloseGroup_touches (k : Slot) (s : State) : StepTouches [.objs, .power, .optics, .lanes,
    .remaps, .ports, .switch, .pitches, .coll, .update, .mem, .custody, .ledger, .dict, .host] s
    (execCloseGroup k s) := by
  unfold execCloseGroup
  try dsimp only
  repeat' first
    | with_reducible apply OnlyTouches.ofNext
    | with_reducible exact .refl _ _
    | with_reducible assumption
    | (with_reducible apply OnlyTouches.after (State.takeNamed_touches _ _ _); · decide)
    | with_reducible intro _
    | with_reducible refine OnlyTouches.pair (by assumption) ?_
    | dsimp only

theorem execStartThreads_touches (k : Slot) (s : State) : StepTouches [.objs, .power, .optics, .lanes,
    .remaps, .ports, .switch, .pitches, .coll, .update, .mem, .custody, .ledger, .dict, .host] s
    (execStartThreads k s) := by
  unfold execStartThreads
  try dsimp only
  repeat' first
    | with_reducible apply OnlyTouches.ofNext
    | with_reducible exact .refl _ _
    | with_reducible assumption
    | (with_reducible apply OnlyTouches.after (State.takeNamed_touches _ _ _); · decide)
    | with_reducible intro _
    | with_reducible refine OnlyTouches.pair (by assumption) ?_
    | dsimp only

theorem execStopThreads_touches (k : Slot) (s : State) : StepTouches [.objs, .power, .optics, .lanes,
    .remaps, .ports, .switch, .pitches, .coll, .update, .mem, .custody, .ledger, .dict, .host] s
    (execStopThreads k s) := by
  unfold execStopThreads
  try dsimp only
  repeat' first
    | with_reducible apply OnlyTouches.ofNext
    | with_reducible exact .refl _ _
    | with_reducible assumption
    | (with_reducible apply OnlyTouches.after (State.takeNamed_touches _ _ _); · decide)
    | with_reducible intro _
    | with_reducible refine OnlyTouches.pair (by assumption) ?_
    | dsimp only

theorem execLoadBundle_touches (k : Slot) (s : State) : StepTouches [.objs, .power, .optics, .lanes,
    .remaps, .ports, .switch, .pitches, .coll, .update, .mem, .custody, .ledger, .dict, .host] s
    (execLoadBundle k s) := by
  unfold execLoadBundle
  try dsimp only
  repeat' first
    | with_reducible apply OnlyTouches.ofNext
    | with_reducible exact .refl _ _
    | with_reducible assumption
    | (with_reducible apply OnlyTouches.after (State.takeNamed_touches _ _ _); · decide)
    | with_reducible intro _
    | with_reducible refine OnlyTouches.pair (by assumption) ?_
    | dsimp only

theorem execRunTest_touches (k : Slot) (s : State) : StepTouches [.objs, .power, .optics, .lanes, .remaps,
    .ports, .switch, .pitches, .coll, .update, .mem, .custody, .ledger, .dict, .host] s (execRunTest k s)
    := by
  unfold execRunTest
  try dsimp only
  repeat' first
    | with_reducible apply OnlyTouches.ofNext
    | with_reducible exact .refl _ _
    | with_reducible assumption
    | (with_reducible apply OnlyTouches.after (State.takeNamed_touches _ _ _); · decide)
    | with_reducible intro _
    | with_reducible refine OnlyTouches.pair (by assumption) ?_
    | dsimp only

theorem execFenceStall_touches (k : Slot) (s : State) : StepTouches [.objs, .power, .optics, .lanes,
    .remaps, .ports, .switch, .pitches, .coll, .update, .mem, .custody, .ledger, .dict, .host] s
    (execFenceStall k s) := by
  unfold execFenceStall
  try dsimp only
  repeat' first
    | with_reducible apply OnlyTouches.ofNext
    | with_reducible exact .refl _ _
    | with_reducible assumption
    | (with_reducible apply OnlyTouches.after (State.takeNamed_touches _ _ _); · decide)
    | with_reducible intro _
    | with_reducible refine OnlyTouches.pair (by assumption) ?_
    | dsimp only

theorem execSublet_touches (k : Slot) (s : State) : StepTouches [.objs, .power, .optics, .lanes, .remaps,
    .ports, .switch, .pitches, .coll, .update, .mem, .custody, .ledger, .dict, .host] s (execSublet k s) :=
    by
  unfold execSublet
  try dsimp only
  repeat' first
    | with_reducible apply OnlyTouches.ofNext
    | with_reducible exact .refl _ _
    | with_reducible assumption
    | (with_reducible apply OnlyTouches.after (State.takeNamed_touches _ _ _); · decide)
    | with_reducible intro _
    | with_reducible refine OnlyTouches.pair (by assumption) ?_
    | dsimp only

theorem execRemapLane_touches (k : Slot) (s : State) : StepTouches [.objs, .power, .optics, .lanes,
    .remaps, .ports, .switch, .pitches, .coll, .update, .mem, .custody, .ledger, .dict, .host] s
    (execRemapLane k s) := by
  unfold execRemapLane
  try dsimp only
  repeat' first
    | with_reducible apply OnlyTouches.ofNext
    | with_reducible exact .refl _ _
    | with_reducible assumption
    | (with_reducible apply OnlyTouches.after (State.takeNamed_touches _ _ _); · decide)
    | with_reducible intro _
    | with_reducible refine OnlyTouches.pair (by assumption) ?_
    | dsimp only

theorem execSetThoroughfare_touches (k : Slot) (s : State) : StepTouches [.objs, .power, .optics, .lanes,
    .remaps, .ports, .switch, .pitches, .coll, .update, .mem, .custody, .ledger, .dict, .host] s
    (execSetThoroughfare k s) := by
  unfold execSetThoroughfare
  try dsimp only
  repeat' first
    | with_reducible apply OnlyTouches.ofNext
    | with_reducible exact .refl _ _
    | with_reducible assumption
    | (with_reducible apply OnlyTouches.after (State.takeNamed_touches _ _ _); · decide)
    | with_reducible intro _
    | with_reducible refine OnlyTouches.pair (by assumption) ?_
    | dsimp only

theorem execMapOutChannel_touches (k : Slot) (s : State) : StepTouches [.objs, .power, .optics, .lanes,
    .remaps, .ports, .switch, .pitches, .coll, .update, .mem, .custody, .ledger, .dict, .host] s
    (execMapOutChannel k s) := by
  unfold execMapOutChannel
  try dsimp only
  repeat' first
    | with_reducible apply OnlyTouches.ofNext
    | with_reducible exact .refl _ _
    | with_reducible assumption
    | (with_reducible apply OnlyTouches.after (State.takeNamed_touches _ _ _); · decide)
    | with_reducible intro _
    | with_reducible refine OnlyTouches.pair (by assumption) ?_
    | dsimp only

theorem execSwitchTableBank_touches (k : Slot) (s : State) : StepTouches [.objs, .power, .optics, .lanes,
    .remaps, .ports, .switch, .pitches, .coll, .update, .mem, .custody, .ledger, .dict, .host] s
    (execSwitchTableBank k s) := by
  unfold execSwitchTableBank
  try dsimp only
  repeat' first
    | with_reducible apply OnlyTouches.ofNext
    | with_reducible exact .refl _ _
    | with_reducible assumption
    | (with_reducible apply OnlyTouches.after (State.takeNamed_touches _ _ _); · decide)
    | with_reducible intro _
    | with_reducible refine OnlyTouches.pair (by assumption) ?_
    | dsimp only

theorem execPairCustody_touches (k : Slot) (s : State) : StepTouches [.objs, .power, .optics, .lanes,
    .remaps, .ports, .switch, .pitches, .coll, .update, .mem, .custody, .ledger, .dict, .host] s
    (execPairCustody k s) := by
  unfold execPairCustody
  try dsimp only
  repeat' first
    | with_reducible apply OnlyTouches.ofNext
    | with_reducible exact .refl _ _
    | with_reducible assumption
    | (with_reducible apply OnlyTouches.after (State.takeNamed_touches _ _ _); · decide)
    | with_reducible intro _
    | with_reducible refine OnlyTouches.pair (by assumption) ?_
    | dsimp only

theorem execTakeOver_touches (k : Slot) (s : State) : StepTouches [.objs, .power, .optics, .lanes, .remaps,
    .ports, .switch, .pitches, .coll, .update, .mem, .custody, .ledger, .dict, .host] s (execTakeOver k s)
    := by
  unfold execTakeOver
  try dsimp only
  repeat' first
    | with_reducible apply OnlyTouches.ofNext
    | with_reducible exact .refl _ _
    | with_reducible assumption
    | (with_reducible apply OnlyTouches.after (State.takeNamed_touches _ _ _); · decide)
    | with_reducible intro _
    | with_reducible refine OnlyTouches.pair (by assumption) ?_
    | dsimp only

theorem execResync_touches (k : Slot) (s : State) : StepTouches [.objs, .power, .optics, .lanes, .remaps,
    .ports, .switch, .pitches, .coll, .update, .mem, .custody, .ledger, .dict, .host] s (execResync k s) :=
    by
  unfold execResync
  try dsimp only
  repeat' first
    | with_reducible apply OnlyTouches.ofNext
    | with_reducible exact .refl _ _
    | with_reducible assumption
    | (with_reducible apply OnlyTouches.after (State.takeNamed_touches _ _ _); · decide)
    | with_reducible intro _
    | with_reducible refine OnlyTouches.pair (by assumption) ?_
    | dsimp only

theorem execCheckpoint_touches (k : Slot) (s : State) : StepTouches [.objs, .power, .optics, .lanes,
    .remaps, .ports, .switch, .pitches, .coll, .update, .mem, .custody, .ledger, .dict, .host] s
    (execCheckpoint k s) := by
  unfold execCheckpoint
  try dsimp only
  repeat' first
    | with_reducible apply OnlyTouches.ofNext
    | with_reducible exact .refl _ _
    | with_reducible assumption
    | (with_reducible apply OnlyTouches.after (State.takeNamed_touches _ _ _); · decide)
    | with_reducible intro _
    | with_reducible refine OnlyTouches.pair (by assumption) ?_
    | dsimp only

theorem execCancel_touches (k : Slot) (s : State) : StepTouches [.objs, .power, .optics, .lanes, .remaps,
    .ports, .switch, .pitches, .coll, .update, .mem, .custody, .ledger, .dict, .host] s (execCancel k s) :=
    by
  unfold execCancel
  try dsimp only
  repeat' first
    | with_reducible apply OnlyTouches.ofNext
    | with_reducible exact .refl _ _
    | with_reducible assumption
    | (with_reducible apply OnlyTouches.after (State.takeNamed_touches _ _ _); · decide)
    | with_reducible intro _
    | with_reducible refine OnlyTouches.pair (by assumption) ?_
    | dsimp only

end Sys2Proof.Machine
end

