-- ==== Sys2Proof/Laws/KeepCommands.lean ====
section
/-! SUPPORT. The operations of Machine/Commands.lean keep the invariant. -/

namespace Sys2Proof.Machine

theorem State.admitTake_keeps (s : State) (token : Nat) (args : Tbl Nat) : Keeps s (State.admitTake s token
    args) := by
  unfold State.admitTake
  try dsimp only
  repeat' first
    | with_reducible exact .refl _
    | with_reducible assumption
    | ((with_reducible apply Keeps.afterT (State.setPitch_touches _ _ _)); · rfl)
    | with_reducible apply Keeps.after (State.endDone_keeps _ _)
    | with_reducible apply Keeps.after (State.setResult_keeps _ _ _ _)
    | with_reducible intro _
    | with_reducible refine Keeps.pair (by assumption) ?_
    | dsimp only

theorem State.releaseTake_keeps (s : State) (token : Nat) (args : Tbl Nat) : Keeps s (State.releaseTake s
    token args) := by
  unfold State.releaseTake
  try dsimp only
  repeat' first
    | with_reducible exact .refl _
    | with_reducible assumption
    | ((with_reducible apply Keeps.afterT (State.setPitch_touches _ _ _)); · rfl)
    | with_reducible apply Keeps.after (State.endDone_keeps _ _)
    | with_reducible apply Keeps.after (State.setResult_keeps _ _ _ _)
    | with_reducible intro _
    | with_reducible refine Keeps.pair (by assumption) ?_
    | dsimp only

theorem State.remapTake_keeps (s : State) (token bell : Nat) (args : Tbl Nat) : Keeps s (State.remapTake s
    token bell args) := by
  unfold State.remapTake
  try dsimp only
  repeat' first
    | with_reducible exact .refl _
    | with_reducible assumption
    | with_reducible apply Keeps.after (State.setResult_keeps _ _ _ _)
    | ((with_reducible apply Keeps.afterT (State.scheduleRemap_touches _ _ _ _ _ _)); · rfl)
    | with_reducible intro _
    | split
    | with_reducible refine Keeps.pair (by assumption) ?_
    | dsimp only

theorem State.thoroTake_keeps (s : State) (token bell : Nat) (args : Tbl Nat) : Keeps s (State.thoroTake s
    token bell args) := by
  unfold State.thoroTake
  try dsimp only
  repeat' first
    | with_reducible exact .refl _
    | with_reducible assumption
    | with_reducible apply Keeps.after (State.setResult_keeps _ _ _ _)
    | ((with_reducible apply Keeps.afterT (State.setThoro_touches _ _ _)); · rfl)
    | with_reducible apply Keeps.ite
    | with_reducible intro _
    | split
    | with_reducible refine Keeps.pair (by assumption) ?_
    | dsimp only

theorem State.bundleResult_keeps (s : State) (token kind number identity : Nat) : Keeps s
    (State.bundleResult s token kind number identity) := by
  unfold State.bundleResult
  try dsimp only
  repeat' first
    | with_reducible exact .refl _
    | with_reducible assumption
    | with_reducible apply Keeps.after (State.setResult_keeps _ _ _ _)
    | with_reducible apply Keeps.after (State.identity_keeps _ _ _)
    | with_reducible intro _
    | with_reducible refine Keeps.pair (by assumption) ?_
    | dsimp only

theorem State.unload_keeps (s : State) (token k : Nat) : Keeps s (State.unload s token k) := by
  unfold State.unload
  try dsimp only
  repeat' first
    | with_reducible exact .refl _
    | with_reducible assumption
    | with_reducible apply Keeps.after (State.endDone_keeps _ _)
    | with_reducible apply Keeps.after (State.identity_keeps _ _ _)
    | ((with_reducible apply Keeps.afterT (State.dropProgram_touches _ _)); · rfl)
    | with_reducible apply Keeps.after (State.bundleResult_keeps _ _ _ _ _)
    | with_reducible intro _
    | split
    | with_reducible refine Keeps.pair (by assumption) ?_
    | dsimp only

theorem State.loadTake_keeps (s : State) (token : Nat) (args : Tbl Nat) : Keeps s (State.loadTake s token
    args) := by
  unfold State.loadTake
  try dsimp only
  repeat' first
    | with_reducible exact .refl _
    | with_reducible assumption
    | with_reducible apply Keeps.after (State.unload_keeps _ _ _)
    | with_reducible apply Keeps.ite
    | with_reducible intro _
    | split

theorem State.endLoadBundle_keeps (s : State) (token : Nat) (args : Tbl Nat) (fetched : Option (List Byte))
    : Keeps s (State.endLoadBundle s token args fetched) := by
  unfold State.endLoadBundle
  try dsimp only
  repeat' first
    | with_reducible exact .refl _
    | with_reducible assumption
    | with_reducible apply Keeps.when
    | with_reducible apply Keeps.after (State.endDone_keeps _ _)
    | with_reducible apply Keeps.after (State.endFailed_keeps _ _ _)
    | with_reducible apply Keeps.after (State.setProgress_keeps _ _ _)
    | with_reducible apply Keeps.after (State.endFailedAt_keeps _ _ _ _)
    | ((with_reducible apply Keeps.afterT (State.hostError_touches _)); · rfl)
    | with_reducible apply Keeps.after (State.identity_keeps _ _ _)
    | with_reducible apply Keeps.after (State.verifyFailed_keeps _)
    | with_reducible apply Keeps.after (State.placeBundle_keeps _ _)
    | ((with_reducible apply Keeps.afterPair (State.placeBundle_keeps _ _)); · assumption)
    | ((with_reducible apply Keeps.afterT (State.countFetch_touches _ _ _)); · rfl)
    | with_reducible apply Keeps.after (State.bundleResult_keeps _ _ _ _ _)
    | with_reducible intro _
    | split
    | with_reducible refine Keeps.pair (by assumption) ?_
    | dsimp only

theorem execBundleVerified_keeps (token : BitVec 64) (fetched : Option (List Byte)) (s : State) : StepKeeps
    s (execBundleVerified token fetched s) := by
  unfold execBundleVerified
  try dsimp only
  repeat' first
    | with_reducible apply Keeps.ofNext
    | with_reducible exact .refl _
    | with_reducible assumption
    | with_reducible apply Keeps.after (State.endLoadBundle_keeps _ _ _ _)
    | with_reducible apply Keeps.ite
    | with_reducible apply Keeps.iteStep
    | with_reducible intro _
    | split

theorem State.undo_keeps (s : State) (r : TokenRec) : Keeps s (State.undo s r) := by
  unfold State.undo
  try dsimp only
  repeat' first
    | with_reducible exact .refl _
    | with_reducible assumption
    | ((with_reducible apply Keeps.afterT (State.setPair_touches _ _ _)); · rfl)
    | ((with_reducible apply Keeps.afterT (State.modPair_touches _ _ _)); · rfl)
    | with_reducible apply Keeps.after (State.setResult_keeps _ _ _ _)
    | ((with_reducible apply Keeps.afterT (State.startUndone_touches _ _)); · rfl)
    | ((with_reducible apply Keeps.afterT (State.openUndone_touches _ _)); · rfl)
    | ((with_reducible apply Keeps.afterT (State.dropCheckpoint_touches _ _)); · rfl)
    | ((with_reducible apply Keeps.afterT (State.dropTest_touches _ _)); · rfl)
    | ((with_reducible apply Keeps.afterT (State.remapUndone_touches _ _)); · rfl)
    | ((with_reducible apply Keeps.afterT (State.thoroUndone_touches _ _)); · rfl)
    | with_reducible apply Keeps.ite
    | with_reducible intro _
    | split
    | with_reducible apply Keeps.put_switch
    | with_reducible refine Keeps.pair (by assumption) ?_
    | dsimp only

theorem State.cancelTake_keeps (s : State) (token : Nat) (args : Tbl Nat) : Keeps s (State.cancelTake s
    token args) := by
  unfold State.cancelTake
  try dsimp only
  repeat' first
    | with_reducible exact .refl _
    | with_reducible assumption
    | with_reducible apply Keeps.after (State.endDone_keeps _ _)
    | with_reducible apply Keeps.after (State.endFailed_keeps _ _ _)
    | with_reducible apply Keeps.after (State.markActed_keeps _ _)
    | with_reducible apply Keeps.after (State.undo_keeps _ _)
    | with_reducible intro _
    | split
    | with_reducible refine Keeps.pair (by assumption) ?_
    | dsimp only

theorem State.commandTake_keeps (s : State) (op token bell : Nat) (args : Tbl Nat) : Keeps s
    (State.commandTake s op token bell args) := by
  unfold State.commandTake
  try dsimp only
  repeat' first
    | with_reducible exact .refl _
    | with_reducible assumption
    | with_reducible apply Keeps.after (State.pairTake_keeps _ _ _)
    | with_reducible apply Keeps.after (State.resyncTake_keeps _ _ _)
    | with_reducible apply Keeps.after (State.startTake_keeps _ _ _ _)
    | with_reducible apply Keeps.after (State.stopTake_keeps _ _ _)
    | with_reducible apply Keeps.after (State.openTake_keeps _ _ _ _)
    | with_reducible apply Keeps.after (State.closeTake_keeps _ _ _)
    | ((with_reducible apply Keeps.afterT (State.testTake_touches _ _ _)); · rfl)
    | with_reducible apply Keeps.after (State.admitTake_keeps _ _ _)
    | with_reducible apply Keeps.after (State.releaseTake_keeps _ _ _)
    | ((with_reducible apply Keeps.afterT (State.switchTake_touches _ _ _ _)); · rfl)
    | with_reducible apply Keeps.after (State.remapTake_keeps _ _ _ _)
    | with_reducible apply Keeps.after (State.thoroTake_keeps _ _ _ _)
    | with_reducible apply Keeps.after (State.loadTake_keeps _ _ _)
    | ((with_reducible apply Keeps.afterT (State.checkpointTake_touches _ _ _)); · rfl)
    | with_reducible apply Keeps.after (State.cancelTake_keeps _ _ _)
    | with_reducible intro _
    | split

theorem State.refuseSlot_keeps (s : State) (k code : Nat) : Keeps s (State.refuseSlot s k code) := by
  unfold State.refuseSlot
  try dsimp only
  repeat' first
    | with_reducible exact .refl _
    | with_reducible assumption
    | with_reducible apply Keeps.after (State.setSlot_keeps _ _ _)
    | with_reducible apply Keeps.after (State.completionEvent_keeps _ _ _)
    | with_reducible intro _
    | with_reducible refine Keeps.pair (by assumption) ?_
    | dsimp only

theorem State.showRecord_keeps (s : State) (k : Nat) (r : TokenRec) : Keeps s (State.showRecord s k r) := by
  unfold State.showRecord
  try dsimp only
  repeat' first
    | with_reducible exact .refl _
    | with_reducible assumption
    | with_reducible apply Keeps.after (State.setSlot_keeps _ _ _)
    | with_reducible intro _
    | with_reducible refine Keeps.pair (by assumption) ?_
    | dsimp only

theorem State.tokenRoom_keeps (s : State) : OptKeeps s (State.tokenRoom s) := by
  unfold State.tokenRoom
  try dsimp only
  repeat' first
    | with_reducible apply Keeps.ofSome
    | with_reducible exact Keeps.ofNone
    | with_reducible apply Keeps.iteOpt
    | with_reducible exact .refl _
    | with_reducible assumption
    | with_reducible apply Keeps.ite
    | with_reducible intro _
    | split
    | ((with_reducible apply Keeps.put_dict); · exact fun i => ⟨i.head, i.tail⟩)

theorem State.refuseCommand_keeps (s : State) (token code pos : Nat) : Keeps s (State.refuseCommand s token
    code pos) := by
  unfold State.refuseCommand
  try dsimp only
  repeat' first
    | with_reducible exact .refl _
    | with_reducible assumption
    | with_reducible apply Keeps.after (State.modToken_keeps _ _ _)
    | with_reducible apply Keeps.after (State.endCommand_keeps _ _ _ _)
    | with_reducible apply Keeps.after (State.setResult_keeps _ _ _ _)
    | with_reducible intro _
    | with_reducible refine Keeps.pair (by assumption) ?_
    | dsimp only

theorem State.startCommand_keeps (s : State) (k : Nat) (x : SlotSt) : Keeps s (State.startCommand s k x) :=
    by
  unfold State.startCommand
  try dsimp only
  repeat' first
    | with_reducible exact .refl _
    | with_reducible assumption
    | with_reducible apply Keeps.after (State.commandTake_keeps _ _ _ _ _)
    | with_reducible apply Keeps.after (State.showRecord_keeps _ _ _)
    | with_reducible apply Keeps.after (State.refuseCommand_keeps _ _ _ _)
    | with_reducible intro _
    | split
    | ((with_reducible apply Keeps.put_dict); · exact fun i => ⟨i.head, i.tail⟩)

theorem State.takeSlot_keeps (s : State) (k : Nat) : Keeps s (State.takeSlot s k) := by
  unfold State.takeSlot
  try dsimp only
  repeat' first
    | with_reducible exact .refl _
    | with_reducible assumption
    | with_reducible apply Keeps.after (State.refuseSlot_keeps _ _ _)
    | with_reducible apply Keeps.after (State.showRecord_keeps _ _ _)
    | ((with_reducible apply Keeps.afterOpt (State.tokenRoom_keeps _)); · assumption)
    | with_reducible apply Keeps.after (State.startCommand_keeps _ _ _)
    | with_reducible apply Keeps.ite
    | with_reducible intro _
    | split

theorem State.takeNamed_keeps (s : State) (k op : Nat) : Keeps s (State.takeNamed s k op) := by
  unfold State.takeNamed
  try dsimp only
  repeat' first
    | with_reducible exact .refl _
    | with_reducible assumption
    | with_reducible apply Keeps.after (State.takeSlot_keeps _ _)
    | with_reducible apply Keeps.ite
    | with_reducible intro _
    | split
    | with_reducible refine Keeps.pair (by assumption) ?_
    | dsimp only

theorem State.takeSlots_keeps (s : State) : Keeps s (State.takeSlots s) := by
  unfold State.takeSlots
  try dsimp only
  repeat' first
    | with_reducible exact .refl _
    | with_reducible assumption
    | with_reducible apply Keeps.fold
    | with_reducible apply Keeps.foldPair
    | with_reducible apply Keeps.after (State.takeSlot_keeps _ _)
    | with_reducible intro _

theorem State.actOne_keeps (s : State) (r : TokenRec) : Keeps s (State.actOne s r) := by
  unfold State.actOne
  try dsimp only
  repeat' first
    | with_reducible exact .refl _
    | with_reducible assumption
    | with_reducible apply Keeps.after (State.takeOverDue_keeps _ _)
    | with_reducible apply Keeps.after (State.startDue_keeps _ _)
    | with_reducible apply Keeps.after (State.stopDue_keeps _ _)
    | with_reducible apply Keeps.after (State.openDue_keeps _ _)
    | with_reducible apply Keeps.after (State.closeDue_keeps _ _)
    | with_reducible intro _
    | split
    | with_reducible refine Keeps.pair (by assumption) ?_
    | dsimp only

theorem State.actDue_keeps (s : State) : Keeps s (State.actDue s) := by
  unfold State.actDue
  try dsimp only
  repeat' first
    | with_reducible exact .refl _
    | with_reducible assumption
    | with_reducible apply Keeps.fold
    | with_reducible apply Keeps.foldPair
    | with_reducible apply Keeps.after (State.actOne_keeps _ _)
    | with_reducible intro _
    | with_reducible refine Keeps.pair (by assumption) ?_
    | dsimp only

theorem execAdmitPitch_keeps (k : Slot) (s : State) : StepKeeps s (execAdmitPitch k s) := by
  unfold execAdmitPitch
  try dsimp only
  repeat' first
    | with_reducible apply Keeps.ofNext
    | with_reducible exact .refl _
    | with_reducible assumption
    | with_reducible apply Keeps.after (State.takeNamed_keeps _ _ _)
    | with_reducible intro _
    | with_reducible refine Keeps.pair (by assumption) ?_
    | dsimp only

theorem execReleasePitch_keeps (k : Slot) (s : State) : StepKeeps s (execReleasePitch k s) := by
  unfold execReleasePitch
  try dsimp only
  repeat' first
    | with_reducible apply Keeps.ofNext
    | with_reducible exact .refl _
    | with_reducible assumption
    | with_reducible apply Keeps.after (State.takeNamed_keeps _ _ _)
    | with_reducible intro _
    | with_reducible refine Keeps.pair (by assumption) ?_
    | dsimp only

theorem execOpenGroup_keeps (k : Slot) (s : State) : StepKeeps s (execOpenGroup k s) := by
  unfold execOpenGroup
  try dsimp only
  repeat' first
    | with_reducible apply Keeps.ofNext
    | with_reducible exact .refl _
    | with_reducible assumption
    | with_reducible apply Keeps.after (State.takeNamed_keeps _ _ _)
    | with_reducible intro _
    | with_reducible refine Keeps.pair (by assumption) ?_
    | dsimp only

theorem execCloseGroup_keeps (k : Slot) (s : State) : StepKeeps s (execCloseGroup k s) := by
  unfold execCloseGroup
  try dsimp only
  repeat' first
    | with_reducible apply Keeps.ofNext
    | with_reducible exact .refl _
    | with_reducible assumption
    | with_reducible apply Keeps.after (State.takeNamed_keeps _ _ _)
    | with_reducible intro _
    | with_reducible refine Keeps.pair (by assumption) ?_
    | dsimp only

theorem execStartThreads_keeps (k : Slot) (s : State) : StepKeeps s (execStartThreads k s) := by
  unfold execStartThreads
  try dsimp only
  repeat' first
    | with_reducible apply Keeps.ofNext
    | with_reducible exact .refl _
    | with_reducible assumption
    | with_reducible apply Keeps.after (State.takeNamed_keeps _ _ _)
    | with_reducible intro _
    | with_reducible refine Keeps.pair (by assumption) ?_
    | dsimp only

theorem execStopThreads_keeps (k : Slot) (s : State) : StepKeeps s (execStopThreads k s) := by
  unfold execStopThreads
  try dsimp only
  repeat' first
    | with_reducible apply Keeps.ofNext
    | with_reducible exact .refl _
    | with_reducible assumption
    | with_reducible apply Keeps.after (State.takeNamed_keeps _ _ _)
    | with_reducible intro _
    | with_reducible refine Keeps.pair (by assumption) ?_
    | dsimp only

theorem execLoadBundle_keeps (k : Slot) (s : State) : StepKeeps s (execLoadBundle k s) := by
  unfold execLoadBundle
  try dsimp only
  repeat' first
    | with_reducible apply Keeps.ofNext
    | with_reducible exact .refl _
    | with_reducible assumption
    | with_reducible apply Keeps.after (State.takeNamed_keeps _ _ _)
    | with_reducible intro _
    | with_reducible refine Keeps.pair (by assumption) ?_
    | dsimp only

theorem execRunTest_keeps (k : Slot) (s : State) : StepKeeps s (execRunTest k s) := by
  unfold execRunTest
  try dsimp only
  repeat' first
    | with_reducible apply Keeps.ofNext
    | with_reducible exact .refl _
    | with_reducible assumption
    | with_reducible apply Keeps.after (State.takeNamed_keeps _ _ _)
    | with_reducible intro _
    | with_reducible refine Keeps.pair (by assumption) ?_
    | dsimp only

theorem execFenceStall_keeps (k : Slot) (s : State) : StepKeeps s (execFenceStall k s) := by
  unfold execFenceStall
  try dsimp only
  repeat' first
    | with_reducible apply Keeps.ofNext
    | with_reducible exact .refl _
    | with_reducible assumption
    | with_reducible apply Keeps.after (State.takeNamed_keeps _ _ _)
    | with_reducible intro _
    | with_reducible refine Keeps.pair (by assumption) ?_
    | dsimp only

theorem execSublet_keeps (k : Slot) (s : State) : StepKeeps s (execSublet k s) := by
  unfold execSublet
  try dsimp only
  repeat' first
    | with_reducible apply Keeps.ofNext
    | with_reducible exact .refl _
    | with_reducible assumption
    | with_reducible apply Keeps.after (State.takeNamed_keeps _ _ _)
    | with_reducible intro _
    | with_reducible refine Keeps.pair (by assumption) ?_
    | dsimp only

theorem execRemapLane_keeps (k : Slot) (s : State) : StepKeeps s (execRemapLane k s) := by
  unfold execRemapLane
  try dsimp only
  repeat' first
    | with_reducible apply Keeps.ofNext
    | with_reducible exact .refl _
    | with_reducible assumption
    | with_reducible apply Keeps.after (State.takeNamed_keeps _ _ _)
    | with_reducible intro _
    | with_reducible refine Keeps.pair (by assumption) ?_
    | dsimp only

theorem execSetThoroughfare_keeps (k : Slot) (s : State) : StepKeeps s (execSetThoroughfare k s) := by
  unfold execSetThoroughfare
  try dsimp only
  repeat' first
    | with_reducible apply Keeps.ofNext
    | with_reducible exact .refl _
    | with_reducible assumption
    | with_reducible apply Keeps.after (State.takeNamed_keeps _ _ _)
    | with_reducible intro _
    | with_reducible refine Keeps.pair (by assumption) ?_
    | dsimp only

theorem execMapOutChannel_keeps (k : Slot) (s : State) : StepKeeps s (execMapOutChannel k s) := by
  unfold execMapOutChannel
  try dsimp only
  repeat' first
    | with_reducible apply Keeps.ofNext
    | with_reducible exact .refl _
    | with_reducible assumption
    | with_reducible apply Keeps.after (State.takeNamed_keeps _ _ _)
    | with_reducible intro _
    | with_reducible refine Keeps.pair (by assumption) ?_
    | dsimp only

theorem execSwitchTableBank_keeps (k : Slot) (s : State) : StepKeeps s (execSwitchTableBank k s) := by
  unfold execSwitchTableBank
  try dsimp only
  repeat' first
    | with_reducible apply Keeps.ofNext
    | with_reducible exact .refl _
    | with_reducible assumption
    | with_reducible apply Keeps.after (State.takeNamed_keeps _ _ _)
    | with_reducible intro _
    | with_reducible refine Keeps.pair (by assumption) ?_
    | dsimp only

theorem execPairCustody_keeps (k : Slot) (s : State) : StepKeeps s (execPairCustody k s) := by
  unfold execPairCustody
  try dsimp only
  repeat' first
    | with_reducible apply Keeps.ofNext
    | with_reducible exact .refl _
    | with_reducible assumption
    | with_reducible apply Keeps.after (State.takeNamed_keeps _ _ _)
    | with_reducible intro _
    | with_reducible refine Keeps.pair (by assumption) ?_
    | dsimp only

theorem execTakeOver_keeps (k : Slot) (s : State) : StepKeeps s (execTakeOver k s) := by
  unfold execTakeOver
  try dsimp only
  repeat' first
    | with_reducible apply Keeps.ofNext
    | with_reducible exact .refl _
    | with_reducible assumption
    | with_reducible apply Keeps.after (State.takeNamed_keeps _ _ _)
    | with_reducible intro _
    | with_reducible refine Keeps.pair (by assumption) ?_
    | dsimp only

theorem execResync_keeps (k : Slot) (s : State) : StepKeeps s (execResync k s) := by
  unfold execResync
  try dsimp only
  repeat' first
    | with_reducible apply Keeps.ofNext
    | with_reducible exact .refl _
    | with_reducible assumption
    | with_reducible apply Keeps.after (State.takeNamed_keeps _ _ _)
    | with_reducible intro _
    | with_reducible refine Keeps.pair (by assumption) ?_
    | dsimp only

theorem execCheckpoint_keeps (k : Slot) (s : State) : StepKeeps s (execCheckpoint k s) := by
  unfold execCheckpoint
  try dsimp only
  repeat' first
    | with_reducible apply Keeps.ofNext
    | with_reducible exact .refl _
    | with_reducible assumption
    | with_reducible apply Keeps.after (State.takeNamed_keeps _ _ _)
    | with_reducible intro _
    | with_reducible refine Keeps.pair (by assumption) ?_
    | dsimp only

theorem execCancel_keeps (k : Slot) (s : State) : StepKeeps s (execCancel k s) := by
  unfold execCancel
  try dsimp only
  repeat' first
    | with_reducible apply Keeps.ofNext
    | with_reducible exact .refl _
    | with_reducible assumption
    | with_reducible apply Keeps.after (State.takeNamed_keeps _ _ _)
    | with_reducible intro _
    | with_reducible refine Keeps.pair (by assumption) ?_
    | dsimp only

end Sys2Proof.Machine
end

