-- ==== Sys2Proof/Laws/TouchBell.lean ====
section
/-! SUPPORT. Which parts of the state each operation of Machine/Bell.lean changes. -/

namespace Sys2Proof.Machine

theorem State.rebind_touches (s : State) (v : Fin 64) : OnlyTouches [.dict, .host] s (State.rebind s v) :=
    by
  unfold State.rebind
  try dsimp only
  repeat' first
    | with_reducible exact .refl _ _
    | with_reducible assumption
    | with_reducible apply OnlyTouches.when
    | (with_reducible apply OnlyTouches.after (State.interrupt_touches _ _ _); · decide)
    | (with_reducible apply OnlyTouches.after (State.setReq_touches _ _ _); · decide)
    | with_reducible apply OnlyTouches.ite
    | with_reducible intro _
    | split
    | with_reducible refine OnlyTouches.pair (by assumption) ?_
    | dsimp only

theorem State.applyStaged_touches (s : State) : OnlyTouches [.objs, .time, .ports, .pitches, .dict, .host]
    s (State.applyStaged s) := by
  unfold State.applyStaged
  try dsimp only
  repeat' first
    | with_reducible exact .refl _ _
    | with_reducible assumption
    | with_reducible apply OnlyTouches.each
    | with_reducible apply OnlyTouches.when
    | with_reducible apply OnlyTouches.fold
    | with_reducible apply OnlyTouches.foldPair
    | (with_reducible apply OnlyTouches.after (State.putObj_touches _ _ _); · decide)
    | (with_reducible apply OnlyTouches.after (State.settleBucket_touches _ _ _); · decide)
    | (with_reducible apply OnlyTouches.after (State.pulseProgrammed_touches _ _); · decide)
    | (with_reducible apply OnlyTouches.after (State.runnerFill_touches _ _); · decide)
    | (with_reducible apply OnlyTouches.after (State.putKey_touches _ _ _); · decide)
    | (with_reducible apply OnlyTouches.after (State.rebind_touches _ _); · decide)
    | with_reducible intro _
    | split
    | (with_reducible apply OnlyTouches.put_dict; · decide)
    | with_reducible refine OnlyTouches.pair (by assumption) ?_
    | dsimp only

theorem State.newBell_touches (s : State) : OnlyTouches [.switch, .coll, .host] s (State.newBell s) := by
  unfold State.newBell
  try dsimp only
  repeat' first
    | with_reducible exact .refl _ _
    | with_reducible assumption
    | with_reducible intro _
    | (with_reducible apply OnlyTouches.put_switch; · decide)
    | (with_reducible apply OnlyTouches.put_coll; · decide)
    | (with_reducible apply OnlyTouches.put_host; · decide)
    | (with_reducible apply OnlyTouches.put_switch_coll_host; (· decide); (· decide); (· decide))

theorem State.poolsBoundary_touches (s : State) : OnlyTouches [.switch, .mem] s (State.poolsBoundary s) :=
    by
  unfold State.poolsBoundary
  try dsimp only
  repeat' first
    | with_reducible exact .refl _ _
    | with_reducible assumption
    | with_reducible apply OnlyTouches.fold
    | with_reducible apply OnlyTouches.foldPair
    | (with_reducible apply OnlyTouches.after (State.rebuildIfEmpty_touches _ _ _); · decide)
    | (with_reducible apply OnlyTouches.after (State.abandonRebuild_touches _ _ _); · decide)
    | with_reducible intro _
    | with_reducible refine OnlyTouches.pair (by assumption) ?_
    | dsimp only

theorem State.pitchesBoundary_touches (s : State) : OnlyTouches [.objs, .power, .ports, .switch, .pitches,
    .service, .coll, .mem, .ledger, .dict, .host, .free] s (State.pitchesBoundary s) := by
  unfold State.pitchesBoundary
  try dsimp only
  repeat' first
    | with_reducible exact .refl _ _
    | with_reducible assumption
    | with_reducible apply OnlyTouches.fold
    | with_reducible apply OnlyTouches.foldPair
    | (with_reducible apply OnlyTouches.after (State.admitEffect_touches _ _); · decide)
    | (with_reducible apply OnlyTouches.after (State.freePitch_touches _ _); · decide)
    | (with_reducible apply OnlyTouches.after (State.releaseEffect_touches _ _); · decide)
    | with_reducible intro _
    | with_reducible refine OnlyTouches.pair (by assumption) ?_
    | dsimp only

theorem State.retrySinks_touches (s : State) : OnlyTouches [.objs, .ports, .switch, .coll, .mem, .ledger,
    .dict, .host] s (State.retrySinks s) := by
  unfold State.retrySinks
  try dsimp only
  repeat' first
    | with_reducible exact .refl _ _
    | with_reducible assumption
    | with_reducible apply OnlyTouches.fold
    | with_reducible apply OnlyTouches.foldPair
    | (with_reducible apply OnlyTouches.after (State.trySink_touches _ _); · decide)
    | with_reducible intro _
    | with_reducible refine OnlyTouches.pair (by assumption) ?_
    | dsimp only

theorem State.runStep_touches (s : State) (x : LoadStep) : OnlyTouches [.objs, .optics, .ports, .update,
    .arrays, .custody, .warden, .ledger, .dict, .host, .out] s (State.runStep s x) := by
  unfold State.runStep
  try dsimp only
  repeat' first
    | with_reducible exact .refl _ _
    | with_reducible assumption
    | (with_reducible apply OnlyTouches.after (State.askTally_touches _ _ _); · decide)
    | (with_reducible apply OnlyTouches.afterPair (State.askTally_touches _ _ _); (first | assumption | decide); (first | assumption | decide))
    | (with_reducible apply OnlyTouches.after (State.startSelfTest_touches _ _); · decide)
    | (with_reducible apply OnlyTouches.after (State.packStage_touches _ _); · decide)
    | (with_reducible apply OnlyTouches.after (State.lightSpare_touches _ _ _); · decide)
    | (with_reducible apply OnlyTouches.after (State.startTest_touches _ _); · decide)
    | with_reducible intro _
    | split
    | with_reducible refine OnlyTouches.pair (by assumption) ?_
    | dsimp only

theorem State.serveTally_touches (s : State) (x0 : Nat) : OnlyTouches [.objs, .optics, .ports, .update,
    .arrays, .custody, .warden, .ledger, .dict, .host, .out] s (State.serveTally s x0) := by
  induction x0 generalizing s with
  | zero =>
    unfold State.serveTally
    try dsimp only
    all_goals repeat' first
      | with_reducible exact .refl _ _
      | with_reducible assumption
      | (with_reducible apply OnlyTouches.after (State.dropSteps_touches _ _); · decide)
      | (with_reducible apply OnlyTouches.after (State.runStep_touches _ _); · decide)
      | with_reducible apply OnlyTouches.ite
      | with_reducible intro _
      | split
      | with_reducible refine OnlyTouches.pair (by assumption) ?_
      | dsimp only
  | succ k ih =>
    unfold State.serveTally
    try dsimp only
    all_goals repeat' first
      | with_reducible exact .refl _ _
      | with_reducible assumption
      | (with_reducible apply OnlyTouches.after (ih _); · decide)
      | (with_reducible apply OnlyTouches.after (State.dropSteps_touches _ _); · decide)
      | (with_reducible apply OnlyTouches.after (State.runStep_touches _ _); · decide)
      | with_reducible apply OnlyTouches.ite
      | with_reducible intro _
      | split
      | with_reducible refine OnlyTouches.pair (by assumption) ?_
      | dsimp only

theorem State.stepsEarly_touches (s : State) : OnlyTouches [.objs, .power, .time, .optics, .lanes, .remaps,
    .ports, .switch, .pitches, .coll, .update, .arrays, .mem, .custody, .warden, .ledger, .dict, .host,
    .free, .out] s (State.stepsEarly s) := by
  unfold State.stepsEarly
  try dsimp only
  repeat' first
    | with_reducible exact .refl _ _
    | with_reducible assumption
    | (with_reducible apply OnlyTouches.after (State.refillTanks_touches _); · decide)
    | (with_reducible apply OnlyTouches.after (State.refillArrays_touches _); · decide)
    | (with_reducible apply OnlyTouches.after (State.guardEnds_touches _); · decide)
    | (with_reducible apply OnlyTouches.after (State.bankSwitch_touches _); · decide)
    | (with_reducible apply OnlyTouches.after (State.portBoundaries_touches _); · decide)
    | (with_reducible apply OnlyTouches.after (State.remapsDue_touches _); · decide)
    | (with_reducible apply OnlyTouches.after (State.opticsBoundary_touches _); · decide)
    | (with_reducible apply OnlyTouches.after (State.mapOutsDue_touches _); · decide)
    | (with_reducible apply OnlyTouches.after (State.stallsBoundary_touches _); · decide)
    | (with_reducible apply OnlyTouches.after (State.tallyBoundary_touches _); · decide)
    | (with_reducible apply OnlyTouches.after (State.applyBudget_touches _); · decide)
    | (with_reducible apply OnlyTouches.after (State.applyStaged_touches _); · decide)
    | (with_reducible apply OnlyTouches.after (State.serveTally_touches _ _); · decide)
    | with_reducible intro _
    | with_reducible refine OnlyTouches.pair (by assumption) ?_
    | dsimp only

theorem State.stepCommands_touches (s : State) : OnlyTouches [.objs, .power, .optics, .lanes, .remaps,
    .ports, .switch, .pitches, .service, .coll, .update, .arrays, .mem, .custody, .ledger, .dict, .host,
    .free, .out] s (State.stepCommands s) := by
  unfold State.stepCommands
  try dsimp only
  repeat' first
    | with_reducible exact .refl _ _
    | with_reducible assumption
    | with_reducible apply OnlyTouches.fold
    | with_reducible apply OnlyTouches.foldPair
    | (with_reducible apply OnlyTouches.after (State.groupFree_touches _ _); · decide)
    | (with_reducible apply OnlyTouches.after (State.takeSlots_touches _); · decide)
    | (with_reducible apply OnlyTouches.after (State.actDue_touches _); · decide)
    | (with_reducible apply OnlyTouches.after (State.pitchesBoundary_touches _); · decide)
    | with_reducible intro _
    | with_reducible refine OnlyTouches.pair (by assumption) ?_
    | dsimp only

theorem State.stepLedger_touches (s : State) : OnlyTouches [.objs, .mem, .ledger, .out] s (State.stepLedger
    s) := by
  unfold State.stepLedger
  try dsimp only
  repeat' first
    | with_reducible exact .refl _ _
    | with_reducible assumption
    | (with_reducible apply OnlyTouches.after (State.countAll_touches _ _ _); · decide)
    | (with_reducible apply OnlyTouches.after (State.ledgerBoundary_touches _); · decide)
    | (with_reducible apply OnlyTouches.after (State.applyCounterWrites_touches _); · decide)
    | with_reducible intro _
    | with_reducible refine OnlyTouches.pair (by assumption) ?_
    | dsimp only

theorem State.stepCounts_touches (s : State) : OnlyTouches [.objs, .ports, .switch, .coll, .mem, .custody,
    .ledger, .dict, .host, .free] s (State.stepCounts s) := by
  unfold State.stepCounts
  try dsimp only
  repeat' first
    | with_reducible exact .refl _ _
    | with_reducible assumption
    | (with_reducible apply OnlyTouches.after (State.deadlines_touches _); · decide)
    | (with_reducible apply OnlyTouches.after (State.keptEnds_touches _); · decide)
    | (with_reducible apply OnlyTouches.after (State.pushEnds_touches _); · decide)
    | (with_reducible apply OnlyTouches.after (State.freeEntries_touches _); · decide)
    | (with_reducible apply OnlyTouches.after (State.barrierDeadlines_touches _); · decide)
    | (with_reducible apply OnlyTouches.after (State.roundDeadlines_touches _); · decide)
    | (with_reducible apply OnlyTouches.after (State.applyAborts_touches _); · decide)
    | with_reducible intro _

theorem State.stepRest_touches (s : State) : OnlyTouches [.objs, .power, .ports, .switch, .pitches,
    .service, .coll, .update, .arrays, .mem, .custody, .warden, .ledger, .dict, .host, .free, .out] s
    (State.stepRest s) := by
  unfold State.stepRest
  try dsimp only
  repeat' first
    | with_reducible exact .refl _ _
    | with_reducible assumption
    | (with_reducible apply OnlyTouches.after (State.pump_touches _); · decide)
    | (with_reducible apply OnlyTouches.after (State.redivideAll_touches _); · decide)
    | (with_reducible apply OnlyTouches.after (State.comparedAll_touches _); · decide)
    | (with_reducible apply OnlyTouches.after (State.wakeAll_touches _); · decide)
    | (with_reducible apply OnlyTouches.after (State.arraysBoundary_touches _); · decide)
    | (with_reducible apply OnlyTouches.after (State.deliverAll_touches _); · decide)
    | (with_reducible apply OnlyTouches.after (State.serviceBoundary_touches _); · decide)
    | (with_reducible apply OnlyTouches.after (State.streamCheckpoints_touches _); · decide)
    | (with_reducible apply OnlyTouches.after (State.poolsBoundary_touches _); · decide)
    | (with_reducible apply OnlyTouches.after (State.retrySinks_touches _); · decide)
    | with_reducible intro _

theorem State.ringBell_touches (s : State) : OnlyTouches [.objs, .power, .time, .optics, .lanes, .remaps,
    .ports, .switch, .pitches, .service, .coll, .update, .arrays, .mem, .custody, .warden, .ledger, .dict,
    .host, .free, .out] s (State.ringBell s) := by
  unfold State.ringBell
  try dsimp only
  repeat' first
    | with_reducible exact .refl _ _
    | with_reducible assumption
    | with_reducible apply OnlyTouches.fold
    | with_reducible apply OnlyTouches.foldPair
    | (with_reducible apply OnlyTouches.after (State.sampleQueues_touches _); · decide)
    | (with_reducible apply OnlyTouches.after (State.arriveDone_touches _); · decide)
    | (with_reducible apply OnlyTouches.after (State.ringTime_touches _); · decide)
    | (with_reducible apply OnlyTouches.after (State.pulseBoundary_touches _ _); · decide)
    | (with_reducible apply OnlyTouches.after (State.newBell_touches _); · decide)
    | (with_reducible apply OnlyTouches.after (State.stepsEarly_touches _); · decide)
    | (with_reducible apply OnlyTouches.after (State.stepCommands_touches _); · decide)
    | (with_reducible apply OnlyTouches.after (State.stepLedger_touches _); · decide)
    | (with_reducible apply OnlyTouches.after (State.stepCounts_touches _); · decide)
    | (with_reducible apply OnlyTouches.after (State.stepRest_touches _); · decide)
    | with_reducible intro _

theorem execBellBoundary_touches (s : State) : StepTouches [.objs, .power, .time, .optics, .lanes, .remaps,
    .ports, .switch, .pitches, .service, .coll, .update, .arrays, .mem, .custody, .warden, .ledger, .dict,
    .host, .free, .out] s (execBellBoundary s) := by
  unfold execBellBoundary
  try dsimp only
  repeat' first
    | with_reducible apply OnlyTouches.ofNext
    | with_reducible exact .refl _ _
    | with_reducible assumption
    | (with_reducible apply OnlyTouches.after (State.ringBell_touches _); · decide)
    | with_reducible apply OnlyTouches.ite
    | with_reducible apply OnlyTouches.iteStep
    | with_reducible intro _
    | split

theorem execStepApply_touches (s : State) : StepTouches [.objs, .power, .time, .optics, .lanes, .remaps,
    .ports, .switch, .pitches, .service, .coll, .update, .arrays, .mem, .custody, .warden, .ledger, .dict,
    .host, .free, .out] s (execStepApply s) := by
  unfold execStepApply
  try dsimp only
  repeat' first
    | with_reducible apply OnlyTouches.ofNext
    | with_reducible exact .refl _ _
    | with_reducible assumption
    | (with_reducible apply OnlyTouches.after (State.ringBell_touches _); · decide)
    | with_reducible apply OnlyTouches.ite
    | with_reducible apply OnlyTouches.iteStep
    | with_reducible intro _
    | split

theorem execTb0Switch_touches (s : State) : StepTouches [.objs, .power, .time, .optics, .lanes, .remaps,
    .ports, .switch, .pitches, .service, .coll, .update, .arrays, .mem, .custody, .warden, .ledger, .dict,
    .host, .free, .out] s (execTb0Switch s) := by
  unfold execTb0Switch
  try dsimp only
  repeat' first
    | with_reducible apply OnlyTouches.ofNext
    | with_reducible exact .refl _ _
    | with_reducible assumption
    | (with_reducible apply OnlyTouches.after (State.ringBell_touches _); · decide)
    | with_reducible apply OnlyTouches.ite
    | with_reducible apply OnlyTouches.iteStep
    | with_reducible intro _
    | split

end Sys2Proof.Machine
end

