-- ==== Sys2Proof/Laws/KeepBell.lean ====
section
/-! SUPPORT. The operations of Machine/Bell.lean keep the invariant. -/

namespace Sys2Proof.Machine

theorem State.rebind_keeps (s : State) (v : Fin 64) : Keeps s (State.rebind s v) := by
  unfold State.rebind
  try dsimp only
  repeat' first
    | with_reducible exact .refl _
    | with_reducible assumption
    | with_reducible apply Keeps.when
    | ((with_reducible apply Keeps.afterT (State.interrupt_touches _ _ _)); · rfl)
    | with_reducible apply Keeps.after (State.setReq_keeps _ _ _)
    | with_reducible apply Keeps.ite
    | with_reducible intro _
    | split
    | with_reducible refine Keeps.pair (by assumption) ?_
    | dsimp only

theorem State.applyStaged_keeps (s : State) : Keeps s (State.applyStaged s) := by
  unfold State.applyStaged
  try dsimp only
  repeat' first
    | with_reducible exact .refl _
    | with_reducible assumption
    | with_reducible apply Keeps.each
    | with_reducible apply Keeps.when
    | with_reducible apply Keeps.fold
    | with_reducible apply Keeps.foldPair
    | ((with_reducible apply Keeps.afterT (State.putObj_touches _ _ _)); · rfl)
    | ((with_reducible apply Keeps.afterT (State.settleBucket_touches _ _ _)); · rfl)
    | with_reducible apply Keeps.after (State.pulseProgrammed_keeps _ _)
    | ((with_reducible apply Keeps.afterT (State.runnerFill_touches _ _)); · rfl)
    | ((with_reducible apply Keeps.afterT (State.putKey_touches _ _ _)); · rfl)
    | with_reducible apply Keeps.after (State.rebind_keeps _ _)
    | with_reducible intro _
    | split
    | ((with_reducible apply Keeps.put_dict); · exact fun i => ⟨i.head, i.tail⟩)
    | with_reducible refine Keeps.pair (by assumption) ?_
    | dsimp only

theorem State.poolsBoundary_keeps (s : State) : Keeps s (State.poolsBoundary s) := by
  unfold State.poolsBoundary
  try dsimp only
  repeat' first
    | with_reducible exact .refl _
    | with_reducible assumption
    | with_reducible apply Keeps.fold
    | with_reducible apply Keeps.foldPair
    | with_reducible apply Keeps.after (State.rebuildIfEmpty_keeps _ _ _)
    | ((with_reducible apply Keeps.afterT (State.abandonRebuild_touches _ _ _)); · rfl)
    | with_reducible intro _
    | with_reducible refine Keeps.pair (by assumption) ?_
    | dsimp only

theorem State.pitchesBoundary_keeps (s : State) : Keeps s (State.pitchesBoundary s) := by
  unfold State.pitchesBoundary
  try dsimp only
  repeat' first
    | with_reducible exact .refl _
    | with_reducible assumption
    | with_reducible apply Keeps.fold
    | with_reducible apply Keeps.foldPair
    | ((with_reducible apply Keeps.afterT (State.admitEffect_touches _ _)); · rfl)
    | ((with_reducible apply Keeps.afterT (State.freePitch_touches _ _)); · rfl)
    | with_reducible apply Keeps.after (State.releaseEffect_keeps _ _)
    | with_reducible intro _
    | with_reducible refine Keeps.pair (by assumption) ?_
    | dsimp only

theorem State.retrySinks_keeps (s : State) : Keeps s (State.retrySinks s) := by
  unfold State.retrySinks
  try dsimp only
  repeat' first
    | with_reducible exact .refl _
    | with_reducible assumption
    | with_reducible apply Keeps.fold
    | with_reducible apply Keeps.foldPair
    | with_reducible apply Keeps.after (State.trySink_keeps _ _)
    | with_reducible intro _
    | with_reducible refine Keeps.pair (by assumption) ?_
    | dsimp only

theorem State.runStep_keeps (s : State) (x : LoadStep) : Keeps s (State.runStep s x) := by
  unfold State.runStep
  try dsimp only
  repeat' first
    | with_reducible exact .refl _
    | with_reducible assumption
    | ((with_reducible apply Keeps.afterT (State.askTally_touches _ _ _)); · rfl)
    | ((with_reducible apply Keeps.afterPairT (State.askTally_touches _ _ _)); (· assumption); (· rfl))
    | ((with_reducible apply Keeps.afterT (State.startSelfTest_touches _ _)); · rfl)
    | ((with_reducible apply Keeps.afterT (State.packStage_touches _ _)); · rfl)
    | ((with_reducible apply Keeps.afterT (State.lightSpare_touches _ _ _)); · rfl)
    | with_reducible apply Keeps.after (State.startTest_keeps _ _)
    | with_reducible intro _
    | split
    | with_reducible refine Keeps.pair (by assumption) ?_
    | dsimp only

theorem State.serveTally_keeps (s : State) (x0 : Nat) : Keeps s (State.serveTally s x0) := by
  induction x0 generalizing s with
  | zero =>
    unfold State.serveTally
    try dsimp only
    all_goals repeat' first
      | with_reducible exact .refl _
      | with_reducible assumption
      | ((with_reducible apply Keeps.afterT (State.dropSteps_touches _ _)); · rfl)
      | with_reducible apply Keeps.after (State.runStep_keeps _ _)
      | with_reducible apply Keeps.ite
      | with_reducible intro _
      | split
      | with_reducible refine Keeps.pair (by assumption) ?_
      | dsimp only
  | succ k ih =>
    unfold State.serveTally
    try dsimp only
    all_goals repeat' first
      | with_reducible exact .refl _
      | with_reducible assumption
      | (with_reducible apply Keeps.after (ih _))
      | ((with_reducible apply Keeps.afterT (State.dropSteps_touches _ _)); · rfl)
      | with_reducible apply Keeps.after (State.runStep_keeps _ _)
      | with_reducible apply Keeps.ite
      | with_reducible intro _
      | split
      | with_reducible refine Keeps.pair (by assumption) ?_
      | dsimp only

theorem State.stepsEarly_keeps (s : State) : Keeps s (State.stepsEarly s) := by
  unfold State.stepsEarly
  try dsimp only
  repeat' first
    | with_reducible exact .refl _
    | with_reducible assumption
    | ((with_reducible apply Keeps.afterT (State.refillTanks_touches _)); · rfl)
    | ((with_reducible apply Keeps.afterT (State.refillArrays_touches _)); · rfl)
    | ((with_reducible apply Keeps.afterT (State.guardEnds_touches _)); · rfl)
    | with_reducible apply Keeps.after (State.bankSwitch_keeps _)
    | with_reducible apply Keeps.after (State.portBoundaries_keeps _)
    | with_reducible apply Keeps.after (State.remapsDue_keeps _)
    | with_reducible apply Keeps.after (State.opticsBoundary_keeps _)
    | with_reducible apply Keeps.after (State.mapOutsDue_keeps _)
    | with_reducible apply Keeps.after (State.stallsBoundary_keeps _)
    | ((with_reducible apply Keeps.afterT (State.tallyBoundary_touches _)); · rfl)
    | ((with_reducible apply Keeps.afterT (State.applyBudget_touches _)); · rfl)
    | with_reducible apply Keeps.after (State.applyStaged_keeps _)
    | with_reducible apply Keeps.after (State.serveTally_keeps _ _)
    | with_reducible intro _
    | with_reducible refine Keeps.pair (by assumption) ?_
    | dsimp only

theorem State.stepCommands_keeps (s : State) : Keeps s (State.stepCommands s) := by
  unfold State.stepCommands
  try dsimp only
  repeat' first
    | with_reducible exact .refl _
    | with_reducible assumption
    | with_reducible apply Keeps.fold
    | with_reducible apply Keeps.foldPair
    | with_reducible apply Keeps.after (State.groupFree_keeps _ _)
    | with_reducible apply Keeps.after (State.takeSlots_keeps _)
    | with_reducible apply Keeps.after (State.actDue_keeps _)
    | with_reducible apply Keeps.after (State.pitchesBoundary_keeps _)
    | with_reducible intro _
    | with_reducible refine Keeps.pair (by assumption) ?_
    | dsimp only

theorem State.stepLedger_keeps (s : State) : Keeps s (State.stepLedger s) := by
  unfold State.stepLedger
  try dsimp only
  repeat' first
    | with_reducible exact .refl _
    | with_reducible assumption
    | ((with_reducible apply Keeps.afterT (State.countAll_touches _ _ _)); · rfl)
    | with_reducible apply Keeps.after (State.ledgerBoundary_keeps _)
    | ((with_reducible apply Keeps.afterT (State.applyCounterWrites_touches _)); · rfl)
    | with_reducible intro _
    | with_reducible refine Keeps.pair (by assumption) ?_
    | dsimp only

theorem State.stepCounts_keeps (s : State) : Keeps s (State.stepCounts s) := by
  unfold State.stepCounts
  try dsimp only
  repeat' first
    | with_reducible exact .refl _
    | with_reducible assumption
    | with_reducible apply Keeps.after (State.deadlines_keeps _)
    | with_reducible apply Keeps.after (State.keptEnds_keeps _)
    | with_reducible apply Keeps.after (State.pushEnds_keeps _)
    | with_reducible apply Keeps.after (State.freeEntries_keeps _)
    | with_reducible apply Keeps.after (State.barrierDeadlines_keeps _)
    | ((with_reducible apply Keeps.afterT (State.roundDeadlines_touches _)); · rfl)
    | with_reducible apply Keeps.after (State.applyAborts_keeps _)
    | with_reducible intro _

theorem State.stepRest_keeps (s : State) : Keeps s (State.stepRest s) := by
  unfold State.stepRest
  try dsimp only
  repeat' first
    | with_reducible exact .refl _
    | with_reducible assumption
    | with_reducible apply Keeps.after (State.pump_keeps _)
    | ((with_reducible apply Keeps.afterT (State.redivideAll_touches _)); · rfl)
    | with_reducible apply Keeps.after (State.comparedAll_keeps _)
    | with_reducible apply Keeps.after (State.wakeAll_keeps _)
    | ((with_reducible apply Keeps.afterT (State.arraysBoundary_touches _)); · rfl)
    | ((with_reducible apply Keeps.afterT (State.deliverAll_touches _)); · rfl)
    | ((with_reducible apply Keeps.afterT (State.serviceBoundary_touches _)); · rfl)
    | with_reducible apply Keeps.after (State.streamCheckpoints_keeps _)
    | with_reducible apply Keeps.after (State.poolsBoundary_keeps _)
    | with_reducible apply Keeps.after (State.retrySinks_keeps _)
    | with_reducible intro _

theorem State.ringBell_keeps (s : State) : Keeps s (State.ringBell s) := by
  unfold State.ringBell
  try dsimp only
  repeat' first
    | with_reducible exact .refl _
    | with_reducible assumption
    | with_reducible apply Keeps.fold
    | with_reducible apply Keeps.foldPair
    | ((with_reducible apply Keeps.afterT (State.sampleQueues_touches _)); · rfl)
    | with_reducible apply Keeps.after (State.arriveDone_keeps _)
    | ((with_reducible apply Keeps.afterT (State.ringTime_touches _)); · rfl)
    | with_reducible apply Keeps.after (State.pulseBoundary_keeps _ _)
    | ((with_reducible apply Keeps.afterT (State.newBell_touches _)); · rfl)
    | with_reducible apply Keeps.after (State.stepsEarly_keeps _)
    | with_reducible apply Keeps.after (State.stepCommands_keeps _)
    | with_reducible apply Keeps.after (State.stepLedger_keeps _)
    | with_reducible apply Keeps.after (State.stepCounts_keeps _)
    | with_reducible apply Keeps.after (State.stepRest_keeps _)
    | with_reducible intro _

theorem execBellBoundary_keeps (s : State) : StepKeeps s (execBellBoundary s) := by
  unfold execBellBoundary
  try dsimp only
  repeat' first
    | with_reducible apply Keeps.ofNext
    | with_reducible exact .refl _
    | with_reducible assumption
    | with_reducible apply Keeps.after (State.ringBell_keeps _)
    | with_reducible apply Keeps.ite
    | with_reducible apply Keeps.iteStep
    | with_reducible intro _
    | split

theorem execStepApply_keeps (s : State) : StepKeeps s (execStepApply s) := by
  unfold execStepApply
  try dsimp only
  repeat' first
    | with_reducible apply Keeps.ofNext
    | with_reducible exact .refl _
    | with_reducible assumption
    | with_reducible apply Keeps.after (State.ringBell_keeps _)
    | with_reducible apply Keeps.ite
    | with_reducible apply Keeps.iteStep
    | with_reducible intro _
    | split

theorem execTb0Switch_keeps (s : State) : StepKeeps s (execTb0Switch s) := by
  unfold execTb0Switch
  try dsimp only
  repeat' first
    | with_reducible apply Keeps.ofNext
    | with_reducible exact .refl _
    | with_reducible assumption
    | with_reducible apply Keeps.after (State.ringBell_keeps _)
    | with_reducible apply Keeps.ite
    | with_reducible apply Keeps.iteStep
    | with_reducible intro _
    | split

end Sys2Proof.Machine
end

