-- ==== Sys2Proof/Laws/Phys.lean ====
section
/-! SUPPORT. Where ports stand (link, lanes and optics) through a port that leaves service: only the port
that goes down or drops out changes. -/

namespace Sys2Proof

open Machine

/-- Where a port stands: its link state, and its own lanes and optics. -/
def PortSt.stand (x : Machine.PortSt) : LinkState × LinkState := (x.link, x.phys)

/-- Every port stands as it stood. -/
def PhysKept (s t : State) : Prop := ∀ q, PortSt.stand (t.port q) = PortSt.stand (s.port q)

namespace PhysKept

theorem refl (s : State) : PhysKept s s := fun _ => rfl

theorem trans {s t u : State} (h : PhysKept s t) (k : PhysKept t u) : PhysKept s u :=
  fun q => (k q).trans (h q)

theorem after {s t u : State} (k : PhysKept t u) (h : PhysKept s t) : PhysKept s u := h.trans k

theorem ofPorts {s t : State} (h : t.ports = s.ports) : PhysKept s t := fun q => by simp [State.port, h]

theorem ofTouches {l : List Part} {s t : State} (h : OnlyTouches l s t) (n : Part.ports ∉ l) : PhysKept s t :=
  ofPorts (h .ports n)

theorem foldl {α : Type} {f : State → α → State} (hf : ∀ s a, PhysKept s (f s a)) :
    ∀ (l : List α) (s : State), PhysKept s (l.foldl f s)
  | [], s => refl s
  | a :: l, s => trans (hf s a) (foldl hf l _)

end PhysKept

theorem State.port_setPort (s : State) (p q : Nat) (x : PortSt) :
    (s.setPort p x).port q = if p = q then x else s.port q := by
  unfold State.setPort State.port
  split
  · subst q; simp
  · exact Tbl.get_set_other _ _ _ (Ne.symm ‹_›)

theorem State.setPort_phys (s : State) (p : Nat) (x : PortSt) (h : PortSt.stand x = PortSt.stand (s.port p)) :
    PhysKept s (s.setPort p x) := by
  intro q; rw [State.port_setPort]; split
  · subst q; exact h
  · rfl

theorem State.modPort_phys (s : State) (p : Nat) (f : PortSt → PortSt) (h : PortSt.stand (f (s.port p)) = PortSt.stand (s.port p)) :
    PhysKept s (s.modPort p f) := State.setPort_phys s p _ h

theorem Tbl.find_mapVals {α : Type} (t : Tbl α) (f : Nat → α → α) (k : Nat) :
    Tbl.find (Tbl.mapVals t f) k = (Tbl.find t k).map (f k) := by
  induction t with
  | nil => rfl
  | cons e t ih =>
    obtain ⟨j, v⟩ := e
    simp only [Tbl.mapVals, List.map_cons, Tbl.find] at ih ⊢
    split
    · simp_all
    · exact ih

theorem State.extract_phys (s : State) (i : Nat) : PhysKept s (s.extract i) := by
  intro q
  simp only [State.port, State.extract, Tbl.get, Tbl.find_mapVals]
  cases Tbl.find s.ports q <;> rfl

theorem State.freeFlightCredits_phys (s : State) (f : Flight) : PhysKept s (s.freeFlightCredits f) := by
  unfold State.freeFlightCredits State.freeCredits
  split
  · exact State.modPort_phys _ _ _ rfl
  · exact PhysKept.refl _

theorem State.giveUp_phys (s : State) (f : Flight) : PhysKept s (s.giveUp f) := by
  unfold State.giveUp
  split
  · exact ((State.freeFlightCredits_phys s f).trans
      (PhysKept.ofTouches (State.freeBufferOpt_touches _ _) (by decide))).trans
      (PhysKept.ofTouches (State.uncount_touches _ _) (by decide))
  · exact PhysKept.refl _

theorem State.pumpRunner_phys (s : State) : PhysKept s s.pumpRunner := by
  unfold State.pumpRunner
  refine PhysKept.trans (PhysKept.ofPorts ?_) (PhysKept.foldl (fun s w => ?_) _ _)
  · rfl
  · dsimp only; split
    · exact (PhysKept.ofTouches (State.bump_touches _ _ _) (by decide)).trans
        (PhysKept.ofTouches (State.dropped_touches _ _ _ _) (by decide))
    · split
      · exact State.setPort_phys _ _ _ rfl
      · exact PhysKept.ofPorts rfl

theorem State.deliver_phys (s : State) (g seq : Nat) : PhysKept s (s.deliver g seq) := by
  unfold State.deliver
  split
  · exact PhysKept.refl _
  split
  · exact PhysKept.refl _
  next f _ =>
    dsimp only
    have key : ∀ (l : List Nat) (acc : State × List Nat), PhysKept acc.1 (l.foldl (fun (acc : State × List Nat) p =>
        let x := acc.1.port p
        if !acc.1.inService p then acc
        else if x.runnerOut.length < 16 then
          (acc.1.setPort p { x with runnerOut := x.runnerOut ++ [f] }, acc.2)
        else (acc.1, acc.2 ++ [p])) acc).1 := by
      intro l; induction l with
      | nil => intro acc; exact PhysKept.refl _
      | cons p l ih =>
        intro acc
        refine PhysKept.trans ?_ (ih _)
        dsimp only; split
        · exact PhysKept.refl _
        split
        · exact State.setPort_phys _ _ _ rfl
        · exact PhysKept.refl _
    split
    · exact (key _ (s, [])).trans (PhysKept.ofPorts rfl)
    · exact (key _ (s, [])).trans (PhysKept.ofTouches (State.modRound_touches _ _ _ _) (by decide))

theorem State.deliverAll_phys (s : State) : PhysKept s s.deliverAll := by
  unfold State.deliverAll
  exact (PhysKept.foldl (fun s r => State.deliver_phys s _ _) _ _).trans (State.pumpRunner_phys _)

theorem State.discardCopies_phys (s : State) (p : Nat) : PhysKept s (s.discardCopies p) := by
  unfold State.discardCopies
  dsimp only
  refine PhysKept.after (PhysKept.foldl (fun s i => ?_) _ _) (State.setPort_phys _ _ _ rfl)
  split
  · next f _ =>
    have h : PhysKept s (if f.sentOn.contains p then s else s.loseFrames (Obj.lostOnDown p) p [f.frame]) := by
      split
      · exact PhysKept.refl _
      · exact PhysKept.ofTouches (State.loseFrames_touches _ _ _ _) (by decide)
    refine h.trans ?_
    generalize (if f.sentOn.contains p then s else s.loseFrames (Obj.lostOnDown p) p [f.frame]) = u
    split
    · exact (State.extract_phys _ _).trans (State.giveUp_phys _ _)
    · exact PhysKept.ofTouches (State.settle_touches _ _) (by decide)
  · exact PhysKept.refl _

theorem State.cutSending_phys (s : State) (p : Nat) : PhysKept s (s.cutSending p) := by
  unfold State.cutSending
  split
  · dsimp only
    have h : ∀ i, PhysKept s (s.modPort p fun x =>
        { x with sending := none, egress := x.egress.map fun q => q.filter fun e => e.1 != i }) :=
      fun i => State.modPort_phys _ _ _ rfl
    split
    · split
      · exact PhysKept.after (State.giveUp_phys _ _) (PhysKept.after (State.extract_phys _ _) (h _))
      · exact PhysKept.after (PhysKept.ofTouches (State.settle_touches _ _) (by decide)) (h _)
    · exact h _
  · exact PhysKept.refl _

/-- A port whose link goes down: its link is down, every port's lanes and optics stand as they stood, and so do
the other links. -/
theorem State.portDown_stand (s : State) (low q : Nat) :
    PortSt.stand ((s.portDown low).port q)
      = (if low = q then .down else (s.port q).link, (s.port q).phys) := by
  unfold State.portDown
  dsimp only; split
  next h =>
    split
    next e => subst e; rw [← eq_of_beq h]; rfl
    next => rfl
  · refine (State.deliverAll_phys _ _).trans ?_
    refine (PhysKept.ofTouches (State.cancelRemaps_touches _ _ _) (by decide) _).trans ?_
    refine (State.discardCopies_phys _ _ _).trans ((State.cutSending_phys _ _ _).trans ?_)
    refine (PhysKept.ofTouches (State.unspray_touches _ _) (by decide) _).trans
      ((PhysKept.ofTouches (State.mastersGone_touches _ _) (by decide) _).trans ?_)
    have lose : ∀ (u : State) (fs : List Frame), PhysKept u (u.loseFrames (Obj.lostOnDown low) low fs) :=
      fun u fs => PhysKept.ofTouches (State.loseFrames_touches _ _ _ _) (by decide)
    have down : ∀ u, PhysKept s u → PortSt.stand (State.port (u.setPort low { u.port low with
        link := .down, leaveDue := (u.port low).inBundle, joinDue := false, retry := [], replayAt := none
        runnerOut := [], linkOut := [], peerLeaf := none, gotIdentity := false, identitySent := false
        heldIn := [], skew := [], faultSent := false }) q)
        = (if low = q then .down else (s.port q).link, (s.port q).phys) := by
      intro u h; rw [State.port_setPort]
      split
      next e => subst e; exact congrArg (LinkState.down, ·.2) (h _)
      next => exact h q
    exact down _ (((lose s _).trans (lose _ _)).trans (lose _ _))

theorem State.portDown_phys (s : State) (low q : Nat) : ((s.portDown low).port q).phys = (s.port q).phys :=
  congrArg Prod.snd (State.portDown_stand s low q)

theorem State.portDown_link (s : State) (low : Nat) : ((s.portDown low).port low).link = .down := by
  have h := congrArg Prod.fst (State.portDown_stand s low low)
  simpa [PortSt.stand] using h

/-- A port that drops out stands as said, every other as it stood. -/
theorem State.dropOut_phys (s : State) (p : Nat) (st : LinkState) (q : Nat) :
    ((s.dropOut p st).port q).phys = if p = q then st else (s.port q).phys := by
  generalize hv : s.runnerFill (s.portLow p) = v
  have hf : ∀ q, (v.port q).phys = (s.port q).phys := fun q => hv ▸ by
    unfold State.runnerFill; dsimp only
    rw [State.port_setPort]; split
    · subst q; rfl
    · rfl
  have h1 : ((v.modPort p fun x => { x with phys := st, dropDue := false, rot := false, prepOut := false }).port q).phys
      = if p = q then st else (s.port q).phys := by
    unfold State.modPort; rw [State.port_setPort]; split
    · rfl
    · exact hf q
  have h2 := congrArg Prod.snd (PhysKept.ofTouches (State.cancelRemaps_touches
    (v.modPort p fun x => { x with phys := st, dropDue := false, rot := false, prepOut := false }) [p] 3) (by decide) q)
  simp only [PortSt.stand] at h2
  unfold State.dropOut
  rw [hv]
  dsimp only; split
  · rw [State.portDown_phys, h2, h1]
  · rw [h2, h1]

end Sys2Proof
end

