-- ==== Sys2Proof/Laws/Quiet.lean ====
section
/-! SUPPORT. What the release of a frame that a bucket holds can touch: its command carries no upset, so that nothing of
the power state changes, which the general lemmas of Laws/TouchRunner.lean do not say. -/

namespace Sys2Proof.Machine

/-- Without an upset the checks of a combine do nothing. -/
theorem State.roundUpset_quiet (s : State) (f : Frame) : OnlyTouches [.objs, .coll, .ledger, .dict, .host,
    .free] s (State.roundUpset s f .none) := by
  unfold State.roundUpset
  exact .refl _ _

theorem State.toRound_quiet (s : State) (f : Frame) : OptTouches [.objs, .ports, .coll, .ledger, .dict, .host,
    .free] s (State.toRound s f .none) := by
  unfold State.toRound
  try dsimp only
  repeat' first
    | with_reducible apply OnlyTouches.ofSome
    | with_reducible exact OnlyTouches.ofNone
    | with_reducible apply OnlyTouches.iteOpt
    | with_reducible exact .refl _ _
    | with_reducible assumption
    | (with_reducible apply OnlyTouches.after (State.bump_touches _ _ _); · decide)
    | (with_reducible apply OnlyTouches.after (State.dropped_touches _ _ _ _); · decide)
    | (with_reducible apply OnlyTouches.after (State.modRound_touches _ _ _ _); · decide)
    | (with_reducible apply OnlyTouches.after (State.checkRound_touches _ _ _); · decide)
    | (with_reducible apply OnlyTouches.after (State.roundUpset_quiet _ _); · decide)
    | with_reducible apply OnlyTouches.ite
    | with_reducible intro _
    | split
    | (with_reducible apply OnlyTouches.put_coll; · decide)
    | with_reducible refine OnlyTouches.pair (by assumption) ?_
    | dsimp only

theorem State.runnerAccept_quiet (s : State) (p : Nat) (f : Frame) : OnlyTouches [.objs, .ports, .coll,
    .ledger, .dict, .host, .free] s (State.runnerAccept s p f .none) := by
  unfold State.runnerAccept
  try dsimp only
  repeat' first
    | with_reducible exact .refl _ _
    | with_reducible assumption
    | with_reducible apply OnlyTouches.when
    | (with_reducible apply OnlyTouches.after (State.bump_touches _ _ _); · decide)
    | (with_reducible apply OnlyTouches.after (State.modPort_touches _ _ _); · decide)
    | (with_reducible apply OnlyTouches.after (State.refuseRunner_touches _ _ _ _); · decide)
    | (with_reducible apply OnlyTouches.after (State.popRunner_touches _ _ _); · decide)
    | (with_reducible apply OnlyTouches.afterOpt (State.toRound_quiet _ _); (first | assumption | decide); (first | assumption | decide))
    | with_reducible intro _
    | split
    | with_reducible refine OnlyTouches.pair (by assumption) ?_
    | dsimp only

theorem State.runnerRelease_quiet (s : State) (pitch t p : Nat) (charge : Bool) : OnlyTouches [.objs, .ports,
    .pitches, .coll, .ledger, .dict, .host, .free] s (State.runnerRelease s pitch t p charge .none) := by
  unfold State.runnerRelease
  try dsimp only
  repeat' first
    | with_reducible exact .refl _ _
    | with_reducible assumption
    | (with_reducible apply OnlyTouches.after (State.bump_touches _ _ _); · decide)
    | (with_reducible apply OnlyTouches.after (State.drop_touches _ _ _); · decide)
    | (with_reducible apply OnlyTouches.after (State.modPort_touches _ _ _); · decide)
    | (with_reducible apply OnlyTouches.after (State.setShare_touches _ _ _ _ _); · decide)
    | (with_reducible apply OnlyTouches.after (State.chargeFrame_touches _ _ _); · decide)
    | (with_reducible apply OnlyTouches.after (State.runnerAccept_quiet _ _ _); · decide)
    | with_reducible apply OnlyTouches.ite
    | with_reducible intro _
    | split
    | with_reducible refine OnlyTouches.pair (by assumption) ?_
    | dsimp only

theorem State.releaseHeld_quiet (s : State) (p vc t : Nat) (charge : Bool) : OnlyTouches [.objs, .ports,
    .switch, .pitches, .service, .coll, .mem, .ledger, .dict, .host, .free] s (State.releaseHeld s p vc t
    charge) := by
  unfold State.releaseHeld
  try dsimp only
  repeat' first
    | with_reducible exact .refl _ _
    | with_reducible assumption
    | (with_reducible apply OnlyTouches.after (State.bump_touches _ _ _); · decide)
    | (with_reducible apply OnlyTouches.after (State.chargeFrame_touches _ _ _); · decide)
    | (with_reducible apply OnlyTouches.after (State.unhold_touches _ _ _ _ _ _); · decide)
    | (with_reducible apply OnlyTouches.after (State.runnerRelease_quiet _ _ _ _ _); · decide)
    | (with_reducible apply OnlyTouches.after (State.classify_touches _ _ _); · decide)
    | with_reducible apply OnlyTouches.ite
    | with_reducible intro _
    | split
    | with_reducible refine OnlyTouches.pair (by assumption) ?_
    | dsimp only

theorem execPolicerRelease_quiet (t : Stall) (pitch : Pitch) (vc : Fin 8) (s : State) : StepTouches [.objs,
    .ports, .switch, .pitches, .service, .coll, .mem, .ledger, .dict, .host, .free] s (execPolicerRelease t
    pitch vc s) := by
  unfold execPolicerRelease
  try dsimp only
  repeat' first
    | with_reducible apply OnlyTouches.ofNext
    | with_reducible exact .refl _ _
    | with_reducible assumption
    | (with_reducible apply OnlyTouches.after (State.releaseHeld_quiet _ _ _ _ _); · decide)
    | with_reducible apply OnlyTouches.ite
    | with_reducible apply OnlyTouches.iteStep
    | with_reducible intro _
    | split

end Sys2Proof.Machine
end

