-- ==== Sys2Proof/Laws/State.lean ====
section
/-! SUPPORT. The setters of State, field by field: what each leaves alone, and what reads back. -/

namespace Sys2Proof.Machine

/-! ### putObj -/

@[simp] theorem State.putObj_power (s : State) (o : Obj) (v : Nat) : (s.putObj o v).power = s.power := rfl
@[simp] theorem State.putObj_time (s : State) (o : Obj) (v : Nat) : (s.putObj o v).time = s.time := rfl
@[simp] theorem State.putObj_optics (s : State) (o : Obj) (v : Nat) : (s.putObj o v).optics = s.optics := rfl
@[simp] theorem State.putObj_lanes (s : State) (o : Obj) (v : Nat) : (s.putObj o v).lanes = s.lanes := rfl
@[simp] theorem State.putObj_remaps (s : State) (o : Obj) (v : Nat) : (s.putObj o v).remaps = s.remaps := rfl
@[simp] theorem State.putObj_ports (s : State) (o : Obj) (v : Nat) : (s.putObj o v).ports = s.ports := rfl
@[simp] theorem State.putObj_switch (s : State) (o : Obj) (v : Nat) : (s.putObj o v).switch = s.switch := rfl
@[simp] theorem State.putObj_pitches (s : State) (o : Obj) (v : Nat) : (s.putObj o v).pitches = s.pitches := rfl
@[simp] theorem State.putObj_service (s : State) (o : Obj) (v : Nat) : (s.putObj o v).service = s.service := rfl
@[simp] theorem State.putObj_coll (s : State) (o : Obj) (v : Nat) : (s.putObj o v).coll = s.coll := rfl
@[simp] theorem State.putObj_update (s : State) (o : Obj) (v : Nat) : (s.putObj o v).update = s.update := rfl
@[simp] theorem State.putObj_arrays (s : State) (o : Obj) (v : Nat) : (s.putObj o v).arrays = s.arrays := rfl
@[simp] theorem State.putObj_mem (s : State) (o : Obj) (v : Nat) : (s.putObj o v).mem = s.mem := rfl
@[simp] theorem State.putObj_custody (s : State) (o : Obj) (v : Nat) : (s.putObj o v).custody = s.custody := rfl
@[simp] theorem State.putObj_warden (s : State) (o : Obj) (v : Nat) : (s.putObj o v).warden = s.warden := rfl
@[simp] theorem State.putObj_ledger (s : State) (o : Obj) (v : Nat) : (s.putObj o v).ledger = s.ledger := rfl
@[simp] theorem State.putObj_dict (s : State) (o : Obj) (v : Nat) : (s.putObj o v).dict = s.dict := rfl
@[simp] theorem State.putObj_host (s : State) (o : Obj) (v : Nat) : (s.putObj o v).host = s.host := rfl
@[simp] theorem State.putObj_free (s : State) (o : Obj) (v : Nat) : (s.putObj o v).free = s.free := rfl
@[simp] theorem State.putObj_out (s : State) (o : Obj) (v : Nat) : (s.putObj o v).out = s.out := rfl
@[simp] theorem State.putObj_pending (s : State) (o : Obj) (v : Nat) : (s.putObj o v).pending = s.pending := rfl

/-! ### putKey -/

@[simp] theorem State.putKey_power (s : State) (k v : Nat) : (s.putKey k v).power = s.power := rfl
@[simp] theorem State.putKey_time (s : State) (k v : Nat) : (s.putKey k v).time = s.time := rfl
@[simp] theorem State.putKey_optics (s : State) (k v : Nat) : (s.putKey k v).optics = s.optics := rfl
@[simp] theorem State.putKey_lanes (s : State) (k v : Nat) : (s.putKey k v).lanes = s.lanes := rfl
@[simp] theorem State.putKey_remaps (s : State) (k v : Nat) : (s.putKey k v).remaps = s.remaps := rfl
@[simp] theorem State.putKey_ports (s : State) (k v : Nat) : (s.putKey k v).ports = s.ports := rfl
@[simp] theorem State.putKey_switch (s : State) (k v : Nat) : (s.putKey k v).switch = s.switch := rfl
@[simp] theorem State.putKey_pitches (s : State) (k v : Nat) : (s.putKey k v).pitches = s.pitches := rfl
@[simp] theorem State.putKey_service (s : State) (k v : Nat) : (s.putKey k v).service = s.service := rfl
@[simp] theorem State.putKey_coll (s : State) (k v : Nat) : (s.putKey k v).coll = s.coll := rfl
@[simp] theorem State.putKey_update (s : State) (k v : Nat) : (s.putKey k v).update = s.update := rfl
@[simp] theorem State.putKey_arrays (s : State) (k v : Nat) : (s.putKey k v).arrays = s.arrays := rfl
@[simp] theorem State.putKey_mem (s : State) (k v : Nat) : (s.putKey k v).mem = s.mem := rfl
@[simp] theorem State.putKey_custody (s : State) (k v : Nat) : (s.putKey k v).custody = s.custody := rfl
@[simp] theorem State.putKey_warden (s : State) (k v : Nat) : (s.putKey k v).warden = s.warden := rfl
@[simp] theorem State.putKey_ledger (s : State) (k v : Nat) : (s.putKey k v).ledger = s.ledger := rfl
@[simp] theorem State.putKey_dict (s : State) (k v : Nat) : (s.putKey k v).dict = s.dict := rfl
@[simp] theorem State.putKey_host (s : State) (k v : Nat) : (s.putKey k v).host = s.host := rfl
@[simp] theorem State.putKey_free (s : State) (k v : Nat) : (s.putKey k v).free = s.free := rfl
@[simp] theorem State.putKey_out (s : State) (k v : Nat) : (s.putKey k v).out = s.out := rfl
@[simp] theorem State.putKey_pending (s : State) (k v : Nat) : (s.putKey k v).pending = s.pending := rfl

/-! ### bump -/

@[simp] theorem State.bump_power (s : State) (o : Obj) (n : Nat) : (s.bump o n).power = s.power := rfl
@[simp] theorem State.bump_time (s : State) (o : Obj) (n : Nat) : (s.bump o n).time = s.time := rfl
@[simp] theorem State.bump_optics (s : State) (o : Obj) (n : Nat) : (s.bump o n).optics = s.optics := rfl
@[simp] theorem State.bump_lanes (s : State) (o : Obj) (n : Nat) : (s.bump o n).lanes = s.lanes := rfl
@[simp] theorem State.bump_remaps (s : State) (o : Obj) (n : Nat) : (s.bump o n).remaps = s.remaps := rfl
@[simp] theorem State.bump_ports (s : State) (o : Obj) (n : Nat) : (s.bump o n).ports = s.ports := rfl
@[simp] theorem State.bump_switch (s : State) (o : Obj) (n : Nat) : (s.bump o n).switch = s.switch := rfl
@[simp] theorem State.bump_pitches (s : State) (o : Obj) (n : Nat) : (s.bump o n).pitches = s.pitches := rfl
@[simp] theorem State.bump_service (s : State) (o : Obj) (n : Nat) : (s.bump o n).service = s.service := rfl
@[simp] theorem State.bump_coll (s : State) (o : Obj) (n : Nat) : (s.bump o n).coll = s.coll := rfl
@[simp] theorem State.bump_update (s : State) (o : Obj) (n : Nat) : (s.bump o n).update = s.update := rfl
@[simp] theorem State.bump_arrays (s : State) (o : Obj) (n : Nat) : (s.bump o n).arrays = s.arrays := rfl
@[simp] theorem State.bump_mem (s : State) (o : Obj) (n : Nat) : (s.bump o n).mem = s.mem := rfl
@[simp] theorem State.bump_custody (s : State) (o : Obj) (n : Nat) : (s.bump o n).custody = s.custody := rfl
@[simp] theorem State.bump_warden (s : State) (o : Obj) (n : Nat) : (s.bump o n).warden = s.warden := rfl
@[simp] theorem State.bump_ledger (s : State) (o : Obj) (n : Nat) : (s.bump o n).ledger = s.ledger := rfl
@[simp] theorem State.bump_dict (s : State) (o : Obj) (n : Nat) : (s.bump o n).dict = s.dict := rfl
@[simp] theorem State.bump_host (s : State) (o : Obj) (n : Nat) : (s.bump o n).host = s.host := rfl
@[simp] theorem State.bump_free (s : State) (o : Obj) (n : Nat) : (s.bump o n).free = s.free := rfl
@[simp] theorem State.bump_out (s : State) (o : Obj) (n : Nat) : (s.bump o n).out = s.out := rfl
@[simp] theorem State.bump_pending (s : State) (o : Obj) (n : Nat) : (s.bump o n).pending = s.pending := rfl

/-! ### draw -/

@[simp] theorem State.draw_objs (s : State) : (s.draw).objs = s.objs := rfl
@[simp] theorem State.draw_power (s : State) : (s.draw).power = s.power := rfl
@[simp] theorem State.draw_time (s : State) : (s.draw).time = s.time := rfl
@[simp] theorem State.draw_optics (s : State) : (s.draw).optics = s.optics := rfl
@[simp] theorem State.draw_lanes (s : State) : (s.draw).lanes = s.lanes := rfl
@[simp] theorem State.draw_remaps (s : State) : (s.draw).remaps = s.remaps := rfl
@[simp] theorem State.draw_ports (s : State) : (s.draw).ports = s.ports := rfl
@[simp] theorem State.draw_switch (s : State) : (s.draw).switch = s.switch := rfl
@[simp] theorem State.draw_pitches (s : State) : (s.draw).pitches = s.pitches := rfl
@[simp] theorem State.draw_service (s : State) : (s.draw).service = s.service := rfl
@[simp] theorem State.draw_coll (s : State) : (s.draw).coll = s.coll := rfl
@[simp] theorem State.draw_update (s : State) : (s.draw).update = s.update := rfl
@[simp] theorem State.draw_arrays (s : State) : (s.draw).arrays = s.arrays := rfl
@[simp] theorem State.draw_mem (s : State) : (s.draw).mem = s.mem := rfl
@[simp] theorem State.draw_custody (s : State) : (s.draw).custody = s.custody := rfl
@[simp] theorem State.draw_warden (s : State) : (s.draw).warden = s.warden := rfl
@[simp] theorem State.draw_ledger (s : State) : (s.draw).ledger = s.ledger := rfl
@[simp] theorem State.draw_dict (s : State) : (s.draw).dict = s.dict := rfl
@[simp] theorem State.draw_host (s : State) : (s.draw).host = s.host := rfl
@[simp] theorem State.draw_out (s : State) : (s.draw).out = s.out := rfl
@[simp] theorem State.draw_pending (s : State) : (s.draw).pending = s.pending := rfl

/-! ### write -/

@[simp] theorem State.write_objs (s : State) (a : Nat) (bs : List Byte) : (s.write a bs).objs = s.objs := rfl
@[simp] theorem State.write_power (s : State) (a : Nat) (bs : List Byte) : (s.write a bs).power = s.power := rfl
@[simp] theorem State.write_time (s : State) (a : Nat) (bs : List Byte) : (s.write a bs).time = s.time := rfl
@[simp] theorem State.write_optics (s : State) (a : Nat) (bs : List Byte) : (s.write a bs).optics = s.optics := rfl
@[simp] theorem State.write_lanes (s : State) (a : Nat) (bs : List Byte) : (s.write a bs).lanes = s.lanes := rfl
@[simp] theorem State.write_remaps (s : State) (a : Nat) (bs : List Byte) : (s.write a bs).remaps = s.remaps := rfl
@[simp] theorem State.write_ports (s : State) (a : Nat) (bs : List Byte) : (s.write a bs).ports = s.ports := rfl
@[simp] theorem State.write_switch (s : State) (a : Nat) (bs : List Byte) : (s.write a bs).switch = s.switch := rfl
@[simp] theorem State.write_pitches (s : State) (a : Nat) (bs : List Byte) : (s.write a bs).pitches = s.pitches := rfl
@[simp] theorem State.write_service (s : State) (a : Nat) (bs : List Byte) : (s.write a bs).service = s.service := rfl
@[simp] theorem State.write_coll (s : State) (a : Nat) (bs : List Byte) : (s.write a bs).coll = s.coll := rfl
@[simp] theorem State.write_update (s : State) (a : Nat) (bs : List Byte) : (s.write a bs).update = s.update := rfl
@[simp] theorem State.write_arrays (s : State) (a : Nat) (bs : List Byte) : (s.write a bs).arrays = s.arrays := rfl
@[simp] theorem State.write_custody (s : State) (a : Nat) (bs : List Byte) : (s.write a bs).custody = s.custody := rfl
@[simp] theorem State.write_warden (s : State) (a : Nat) (bs : List Byte) : (s.write a bs).warden = s.warden := rfl
@[simp] theorem State.write_ledger (s : State) (a : Nat) (bs : List Byte) : (s.write a bs).ledger = s.ledger := rfl
@[simp] theorem State.write_dict (s : State) (a : Nat) (bs : List Byte) : (s.write a bs).dict = s.dict := rfl
@[simp] theorem State.write_host (s : State) (a : Nat) (bs : List Byte) : (s.write a bs).host = s.host := rfl
@[simp] theorem State.write_free (s : State) (a : Nat) (bs : List Byte) : (s.write a bs).free = s.free := rfl
@[simp] theorem State.write_out (s : State) (a : Nat) (bs : List Byte) : (s.write a bs).out = s.out := rfl
@[simp] theorem State.write_pending (s : State) (a : Nat) (bs : List Byte) : (s.write a bs).pending = s.pending := rfl

/-! ### writeTable -/

@[simp] theorem State.writeTable_objs (s : State) (k a : Nat) (bs : List Byte) : (s.writeTable k a bs).objs = s.objs := rfl
@[simp] theorem State.writeTable_power (s : State) (k a : Nat) (bs : List Byte) : (s.writeTable k a bs).power = s.power := rfl
@[simp] theorem State.writeTable_time (s : State) (k a : Nat) (bs : List Byte) : (s.writeTable k a bs).time = s.time := rfl
@[simp] theorem State.writeTable_optics (s : State) (k a : Nat) (bs : List Byte) : (s.writeTable k a bs).optics = s.optics := rfl
@[simp] theorem State.writeTable_lanes (s : State) (k a : Nat) (bs : List Byte) : (s.writeTable k a bs).lanes = s.lanes := rfl
@[simp] theorem State.writeTable_remaps (s : State) (k a : Nat) (bs : List Byte) : (s.writeTable k a bs).remaps = s.remaps := rfl
@[simp] theorem State.writeTable_ports (s : State) (k a : Nat) (bs : List Byte) : (s.writeTable k a bs).ports = s.ports := rfl
@[simp] theorem State.writeTable_switch (s : State) (k a : Nat) (bs : List Byte) : (s.writeTable k a bs).switch = s.switch := rfl
@[simp] theorem State.writeTable_pitches (s : State) (k a : Nat) (bs : List Byte) : (s.writeTable k a bs).pitches = s.pitches := rfl
@[simp] theorem State.writeTable_service (s : State) (k a : Nat) (bs : List Byte) : (s.writeTable k a bs).service = s.service := rfl
@[simp] theorem State.writeTable_coll (s : State) (k a : Nat) (bs : List Byte) : (s.writeTable k a bs).coll = s.coll := rfl
@[simp] theorem State.writeTable_update (s : State) (k a : Nat) (bs : List Byte) : (s.writeTable k a bs).update = s.update := rfl
@[simp] theorem State.writeTable_arrays (s : State) (k a : Nat) (bs : List Byte) : (s.writeTable k a bs).arrays = s.arrays := rfl
@[simp] theorem State.writeTable_custody (s : State) (k a : Nat) (bs : List Byte) : (s.writeTable k a bs).custody = s.custody := rfl
@[simp] theorem State.writeTable_warden (s : State) (k a : Nat) (bs : List Byte) : (s.writeTable k a bs).warden = s.warden := rfl
@[simp] theorem State.writeTable_ledger (s : State) (k a : Nat) (bs : List Byte) : (s.writeTable k a bs).ledger = s.ledger := rfl
@[simp] theorem State.writeTable_dict (s : State) (k a : Nat) (bs : List Byte) : (s.writeTable k a bs).dict = s.dict := rfl
@[simp] theorem State.writeTable_host (s : State) (k a : Nat) (bs : List Byte) : (s.writeTable k a bs).host = s.host := rfl
@[simp] theorem State.writeTable_free (s : State) (k a : Nat) (bs : List Byte) : (s.writeTable k a bs).free = s.free := rfl
@[simp] theorem State.writeTable_out (s : State) (k a : Nat) (bs : List Byte) : (s.writeTable k a bs).out = s.out := rfl
@[simp] theorem State.writeTable_pending (s : State) (k a : Nat) (bs : List Byte) : (s.writeTable k a bs).pending = s.pending := rfl

/-! ### setPort -/

@[simp] theorem State.setPort_objs (s : State) (p : Nat) (x : PortSt) : (s.setPort p x).objs = s.objs := rfl
@[simp] theorem State.setPort_power (s : State) (p : Nat) (x : PortSt) : (s.setPort p x).power = s.power := rfl
@[simp] theorem State.setPort_time (s : State) (p : Nat) (x : PortSt) : (s.setPort p x).time = s.time := rfl
@[simp] theorem State.setPort_optics (s : State) (p : Nat) (x : PortSt) : (s.setPort p x).optics = s.optics := rfl
@[simp] theorem State.setPort_lanes (s : State) (p : Nat) (x : PortSt) : (s.setPort p x).lanes = s.lanes := rfl
@[simp] theorem State.setPort_remaps (s : State) (p : Nat) (x : PortSt) : (s.setPort p x).remaps = s.remaps := rfl
@[simp] theorem State.setPort_switch (s : State) (p : Nat) (x : PortSt) : (s.setPort p x).switch = s.switch := rfl
@[simp] theorem State.setPort_pitches (s : State) (p : Nat) (x : PortSt) : (s.setPort p x).pitches = s.pitches := rfl
@[simp] theorem State.setPort_service (s : State) (p : Nat) (x : PortSt) : (s.setPort p x).service = s.service := rfl
@[simp] theorem State.setPort_coll (s : State) (p : Nat) (x : PortSt) : (s.setPort p x).coll = s.coll := rfl
@[simp] theorem State.setPort_update (s : State) (p : Nat) (x : PortSt) : (s.setPort p x).update = s.update := rfl
@[simp] theorem State.setPort_arrays (s : State) (p : Nat) (x : PortSt) : (s.setPort p x).arrays = s.arrays := rfl
@[simp] theorem State.setPort_mem (s : State) (p : Nat) (x : PortSt) : (s.setPort p x).mem = s.mem := rfl
@[simp] theorem State.setPort_custody (s : State) (p : Nat) (x : PortSt) : (s.setPort p x).custody = s.custody := rfl
@[simp] theorem State.setPort_warden (s : State) (p : Nat) (x : PortSt) : (s.setPort p x).warden = s.warden := rfl
@[simp] theorem State.setPort_ledger (s : State) (p : Nat) (x : PortSt) : (s.setPort p x).ledger = s.ledger := rfl
@[simp] theorem State.setPort_dict (s : State) (p : Nat) (x : PortSt) : (s.setPort p x).dict = s.dict := rfl
@[simp] theorem State.setPort_host (s : State) (p : Nat) (x : PortSt) : (s.setPort p x).host = s.host := rfl
@[simp] theorem State.setPort_free (s : State) (p : Nat) (x : PortSt) : (s.setPort p x).free = s.free := rfl
@[simp] theorem State.setPort_out (s : State) (p : Nat) (x : PortSt) : (s.setPort p x).out = s.out := rfl
@[simp] theorem State.setPort_pending (s : State) (p : Nat) (x : PortSt) : (s.setPort p x).pending = s.pending := rfl

/-! ### setEngine -/

@[simp] theorem State.setEngine_objs (s : State) (e : Nat) (x : EngineSt) : (s.setEngine e x).objs = s.objs := rfl
@[simp] theorem State.setEngine_power (s : State) (e : Nat) (x : EngineSt) : (s.setEngine e x).power = s.power := rfl
@[simp] theorem State.setEngine_time (s : State) (e : Nat) (x : EngineSt) : (s.setEngine e x).time = s.time := rfl
@[simp] theorem State.setEngine_lanes (s : State) (e : Nat) (x : EngineSt) : (s.setEngine e x).lanes = s.lanes := rfl
@[simp] theorem State.setEngine_remaps (s : State) (e : Nat) (x : EngineSt) : (s.setEngine e x).remaps = s.remaps := rfl
@[simp] theorem State.setEngine_ports (s : State) (e : Nat) (x : EngineSt) : (s.setEngine e x).ports = s.ports := rfl
@[simp] theorem State.setEngine_switch (s : State) (e : Nat) (x : EngineSt) : (s.setEngine e x).switch = s.switch := rfl
@[simp] theorem State.setEngine_pitches (s : State) (e : Nat) (x : EngineSt) : (s.setEngine e x).pitches = s.pitches := rfl
@[simp] theorem State.setEngine_service (s : State) (e : Nat) (x : EngineSt) : (s.setEngine e x).service = s.service := rfl
@[simp] theorem State.setEngine_coll (s : State) (e : Nat) (x : EngineSt) : (s.setEngine e x).coll = s.coll := rfl
@[simp] theorem State.setEngine_update (s : State) (e : Nat) (x : EngineSt) : (s.setEngine e x).update = s.update := rfl
@[simp] theorem State.setEngine_arrays (s : State) (e : Nat) (x : EngineSt) : (s.setEngine e x).arrays = s.arrays := rfl
@[simp] theorem State.setEngine_mem (s : State) (e : Nat) (x : EngineSt) : (s.setEngine e x).mem = s.mem := rfl
@[simp] theorem State.setEngine_custody (s : State) (e : Nat) (x : EngineSt) : (s.setEngine e x).custody = s.custody := rfl
@[simp] theorem State.setEngine_warden (s : State) (e : Nat) (x : EngineSt) : (s.setEngine e x).warden = s.warden := rfl
@[simp] theorem State.setEngine_ledger (s : State) (e : Nat) (x : EngineSt) : (s.setEngine e x).ledger = s.ledger := rfl
@[simp] theorem State.setEngine_dict (s : State) (e : Nat) (x : EngineSt) : (s.setEngine e x).dict = s.dict := rfl
@[simp] theorem State.setEngine_host (s : State) (e : Nat) (x : EngineSt) : (s.setEngine e x).host = s.host := rfl
@[simp] theorem State.setEngine_free (s : State) (e : Nat) (x : EngineSt) : (s.setEngine e x).free = s.free := rfl
@[simp] theorem State.setEngine_out (s : State) (e : Nat) (x : EngineSt) : (s.setEngine e x).out = s.out := rfl
@[simp] theorem State.setEngine_pending (s : State) (e : Nat) (x : EngineSt) : (s.setEngine e x).pending = s.pending := rfl

/-! ### setPack -/

@[simp] theorem State.setPack_objs (s : State) (e : Nat) (x : Pack) : (s.setPack e x).objs = s.objs := rfl
@[simp] theorem State.setPack_power (s : State) (e : Nat) (x : Pack) : (s.setPack e x).power = s.power := rfl
@[simp] theorem State.setPack_time (s : State) (e : Nat) (x : Pack) : (s.setPack e x).time = s.time := rfl
@[simp] theorem State.setPack_lanes (s : State) (e : Nat) (x : Pack) : (s.setPack e x).lanes = s.lanes := rfl
@[simp] theorem State.setPack_remaps (s : State) (e : Nat) (x : Pack) : (s.setPack e x).remaps = s.remaps := rfl
@[simp] theorem State.setPack_ports (s : State) (e : Nat) (x : Pack) : (s.setPack e x).ports = s.ports := rfl
@[simp] theorem State.setPack_switch (s : State) (e : Nat) (x : Pack) : (s.setPack e x).switch = s.switch := rfl
@[simp] theorem State.setPack_pitches (s : State) (e : Nat) (x : Pack) : (s.setPack e x).pitches = s.pitches := rfl
@[simp] theorem State.setPack_service (s : State) (e : Nat) (x : Pack) : (s.setPack e x).service = s.service := rfl
@[simp] theorem State.setPack_coll (s : State) (e : Nat) (x : Pack) : (s.setPack e x).coll = s.coll := rfl
@[simp] theorem State.setPack_update (s : State) (e : Nat) (x : Pack) : (s.setPack e x).update = s.update := rfl
@[simp] theorem State.setPack_arrays (s : State) (e : Nat) (x : Pack) : (s.setPack e x).arrays = s.arrays := rfl
@[simp] theorem State.setPack_mem (s : State) (e : Nat) (x : Pack) : (s.setPack e x).mem = s.mem := rfl
@[simp] theorem State.setPack_custody (s : State) (e : Nat) (x : Pack) : (s.setPack e x).custody = s.custody := rfl
@[simp] theorem State.setPack_warden (s : State) (e : Nat) (x : Pack) : (s.setPack e x).warden = s.warden := rfl
@[simp] theorem State.setPack_ledger (s : State) (e : Nat) (x : Pack) : (s.setPack e x).ledger = s.ledger := rfl
@[simp] theorem State.setPack_dict (s : State) (e : Nat) (x : Pack) : (s.setPack e x).dict = s.dict := rfl
@[simp] theorem State.setPack_host (s : State) (e : Nat) (x : Pack) : (s.setPack e x).host = s.host := rfl
@[simp] theorem State.setPack_free (s : State) (e : Nat) (x : Pack) : (s.setPack e x).free = s.free := rfl
@[simp] theorem State.setPack_out (s : State) (e : Nat) (x : Pack) : (s.setPack e x).out = s.out := rfl
@[simp] theorem State.setPack_pending (s : State) (e : Nat) (x : Pack) : (s.setPack e x).pending = s.pending := rfl

/-! ### setFiber -/

@[simp] theorem State.setFiber_objs (s : State) (k : Nat) (x : FiberSt) : (s.setFiber k x).objs = s.objs := rfl
@[simp] theorem State.setFiber_power (s : State) (k : Nat) (x : FiberSt) : (s.setFiber k x).power = s.power := rfl
@[simp] theorem State.setFiber_time (s : State) (k : Nat) (x : FiberSt) : (s.setFiber k x).time = s.time := rfl
@[simp] theorem State.setFiber_lanes (s : State) (k : Nat) (x : FiberSt) : (s.setFiber k x).lanes = s.lanes := rfl
@[simp] theorem State.setFiber_remaps (s : State) (k : Nat) (x : FiberSt) : (s.setFiber k x).remaps = s.remaps := rfl
@[simp] theorem State.setFiber_ports (s : State) (k : Nat) (x : FiberSt) : (s.setFiber k x).ports = s.ports := rfl
@[simp] theorem State.setFiber_switch (s : State) (k : Nat) (x : FiberSt) : (s.setFiber k x).switch = s.switch := rfl
@[simp] theorem State.setFiber_pitches (s : State) (k : Nat) (x : FiberSt) : (s.setFiber k x).pitches = s.pitches := rfl
@[simp] theorem State.setFiber_service (s : State) (k : Nat) (x : FiberSt) : (s.setFiber k x).service = s.service := rfl
@[simp] theorem State.setFiber_coll (s : State) (k : Nat) (x : FiberSt) : (s.setFiber k x).coll = s.coll := rfl
@[simp] theorem State.setFiber_update (s : State) (k : Nat) (x : FiberSt) : (s.setFiber k x).update = s.update := rfl
@[simp] theorem State.setFiber_arrays (s : State) (k : Nat) (x : FiberSt) : (s.setFiber k x).arrays = s.arrays := rfl
@[simp] theorem State.setFiber_mem (s : State) (k : Nat) (x : FiberSt) : (s.setFiber k x).mem = s.mem := rfl
@[simp] theorem State.setFiber_custody (s : State) (k : Nat) (x : FiberSt) : (s.setFiber k x).custody = s.custody := rfl
@[simp] theorem State.setFiber_warden (s : State) (k : Nat) (x : FiberSt) : (s.setFiber k x).warden = s.warden := rfl
@[simp] theorem State.setFiber_ledger (s : State) (k : Nat) (x : FiberSt) : (s.setFiber k x).ledger = s.ledger := rfl
@[simp] theorem State.setFiber_dict (s : State) (k : Nat) (x : FiberSt) : (s.setFiber k x).dict = s.dict := rfl
@[simp] theorem State.setFiber_host (s : State) (k : Nat) (x : FiberSt) : (s.setFiber k x).host = s.host := rfl
@[simp] theorem State.setFiber_free (s : State) (k : Nat) (x : FiberSt) : (s.setFiber k x).free = s.free := rfl
@[simp] theorem State.setFiber_out (s : State) (k : Nat) (x : FiberSt) : (s.setFiber k x).out = s.out := rfl
@[simp] theorem State.setFiber_pending (s : State) (k : Nat) (x : FiberSt) : (s.setFiber k x).pending = s.pending := rfl

/-! ### setPitch -/

@[simp] theorem State.setPitch_objs (s : State) (p : Nat) (x : PitchSt) : (s.setPitch p x).objs = s.objs := rfl
@[simp] theorem State.setPitch_power (s : State) (p : Nat) (x : PitchSt) : (s.setPitch p x).power = s.power := rfl
@[simp] theorem State.setPitch_time (s : State) (p : Nat) (x : PitchSt) : (s.setPitch p x).time = s.time := rfl
@[simp] theorem State.setPitch_optics (s : State) (p : Nat) (x : PitchSt) : (s.setPitch p x).optics = s.optics := rfl
@[simp] theorem State.setPitch_lanes (s : State) (p : Nat) (x : PitchSt) : (s.setPitch p x).lanes = s.lanes := rfl
@[simp] theorem State.setPitch_remaps (s : State) (p : Nat) (x : PitchSt) : (s.setPitch p x).remaps = s.remaps := rfl
@[simp] theorem State.setPitch_ports (s : State) (p : Nat) (x : PitchSt) : (s.setPitch p x).ports = s.ports := rfl
@[simp] theorem State.setPitch_switch (s : State) (p : Nat) (x : PitchSt) : (s.setPitch p x).switch = s.switch := rfl
@[simp] theorem State.setPitch_service (s : State) (p : Nat) (x : PitchSt) : (s.setPitch p x).service = s.service := rfl
@[simp] theorem State.setPitch_coll (s : State) (p : Nat) (x : PitchSt) : (s.setPitch p x).coll = s.coll := rfl
@[simp] theorem State.setPitch_update (s : State) (p : Nat) (x : PitchSt) : (s.setPitch p x).update = s.update := rfl
@[simp] theorem State.setPitch_arrays (s : State) (p : Nat) (x : PitchSt) : (s.setPitch p x).arrays = s.arrays := rfl
@[simp] theorem State.setPitch_mem (s : State) (p : Nat) (x : PitchSt) : (s.setPitch p x).mem = s.mem := rfl
@[simp] theorem State.setPitch_custody (s : State) (p : Nat) (x : PitchSt) : (s.setPitch p x).custody = s.custody := rfl
@[simp] theorem State.setPitch_warden (s : State) (p : Nat) (x : PitchSt) : (s.setPitch p x).warden = s.warden := rfl
@[simp] theorem State.setPitch_ledger (s : State) (p : Nat) (x : PitchSt) : (s.setPitch p x).ledger = s.ledger := rfl
@[simp] theorem State.setPitch_dict (s : State) (p : Nat) (x : PitchSt) : (s.setPitch p x).dict = s.dict := rfl
@[simp] theorem State.setPitch_host (s : State) (p : Nat) (x : PitchSt) : (s.setPitch p x).host = s.host := rfl
@[simp] theorem State.setPitch_free (s : State) (p : Nat) (x : PitchSt) : (s.setPitch p x).free = s.free := rfl
@[simp] theorem State.setPitch_out (s : State) (p : Nat) (x : PitchSt) : (s.setPitch p x).out = s.out := rfl
@[simp] theorem State.setPitch_pending (s : State) (p : Nat) (x : PitchSt) : (s.setPitch p x).pending = s.pending := rfl

/-! ### setGroup -/

@[simp] theorem State.setGroup_objs (s : State) (g : Nat) (x : GroupSt) : (s.setGroup g x).objs = s.objs := rfl
@[simp] theorem State.setGroup_power (s : State) (g : Nat) (x : GroupSt) : (s.setGroup g x).power = s.power := rfl
@[simp] theorem State.setGroup_time (s : State) (g : Nat) (x : GroupSt) : (s.setGroup g x).time = s.time := rfl
@[simp] theorem State.setGroup_optics (s : State) (g : Nat) (x : GroupSt) : (s.setGroup g x).optics = s.optics := rfl
@[simp] theorem State.setGroup_lanes (s : State) (g : Nat) (x : GroupSt) : (s.setGroup g x).lanes = s.lanes := rfl
@[simp] theorem State.setGroup_remaps (s : State) (g : Nat) (x : GroupSt) : (s.setGroup g x).remaps = s.remaps := rfl
@[simp] theorem State.setGroup_ports (s : State) (g : Nat) (x : GroupSt) : (s.setGroup g x).ports = s.ports := rfl
@[simp] theorem State.setGroup_switch (s : State) (g : Nat) (x : GroupSt) : (s.setGroup g x).switch = s.switch := rfl
@[simp] theorem State.setGroup_pitches (s : State) (g : Nat) (x : GroupSt) : (s.setGroup g x).pitches = s.pitches := rfl
@[simp] theorem State.setGroup_service (s : State) (g : Nat) (x : GroupSt) : (s.setGroup g x).service = s.service := rfl
@[simp] theorem State.setGroup_update (s : State) (g : Nat) (x : GroupSt) : (s.setGroup g x).update = s.update := rfl
@[simp] theorem State.setGroup_arrays (s : State) (g : Nat) (x : GroupSt) : (s.setGroup g x).arrays = s.arrays := rfl
@[simp] theorem State.setGroup_mem (s : State) (g : Nat) (x : GroupSt) : (s.setGroup g x).mem = s.mem := rfl
@[simp] theorem State.setGroup_custody (s : State) (g : Nat) (x : GroupSt) : (s.setGroup g x).custody = s.custody := rfl
@[simp] theorem State.setGroup_warden (s : State) (g : Nat) (x : GroupSt) : (s.setGroup g x).warden = s.warden := rfl
@[simp] theorem State.setGroup_ledger (s : State) (g : Nat) (x : GroupSt) : (s.setGroup g x).ledger = s.ledger := rfl
@[simp] theorem State.setGroup_dict (s : State) (g : Nat) (x : GroupSt) : (s.setGroup g x).dict = s.dict := rfl
@[simp] theorem State.setGroup_host (s : State) (g : Nat) (x : GroupSt) : (s.setGroup g x).host = s.host := rfl
@[simp] theorem State.setGroup_free (s : State) (g : Nat) (x : GroupSt) : (s.setGroup g x).free = s.free := rfl
@[simp] theorem State.setGroup_out (s : State) (g : Nat) (x : GroupSt) : (s.setGroup g x).out = s.out := rfl
@[simp] theorem State.setGroup_pending (s : State) (g : Nat) (x : GroupSt) : (s.setGroup g x).pending = s.pending := rfl

/-! ### setThread -/

@[simp] theorem State.setThread_objs (s : State) (t n : Nat) (x : Thread) : (s.setThread t n x).objs = s.objs := rfl
@[simp] theorem State.setThread_power (s : State) (t n : Nat) (x : Thread) : (s.setThread t n x).power = s.power := rfl
@[simp] theorem State.setThread_time (s : State) (t n : Nat) (x : Thread) : (s.setThread t n x).time = s.time := rfl
@[simp] theorem State.setThread_optics (s : State) (t n : Nat) (x : Thread) : (s.setThread t n x).optics = s.optics := rfl
@[simp] theorem State.setThread_lanes (s : State) (t n : Nat) (x : Thread) : (s.setThread t n x).lanes = s.lanes := rfl
@[simp] theorem State.setThread_remaps (s : State) (t n : Nat) (x : Thread) : (s.setThread t n x).remaps = s.remaps := rfl
@[simp] theorem State.setThread_ports (s : State) (t n : Nat) (x : Thread) : (s.setThread t n x).ports = s.ports := rfl
@[simp] theorem State.setThread_switch (s : State) (t n : Nat) (x : Thread) : (s.setThread t n x).switch = s.switch := rfl
@[simp] theorem State.setThread_pitches (s : State) (t n : Nat) (x : Thread) : (s.setThread t n x).pitches = s.pitches := rfl
@[simp] theorem State.setThread_service (s : State) (t n : Nat) (x : Thread) : (s.setThread t n x).service = s.service := rfl
@[simp] theorem State.setThread_coll (s : State) (t n : Nat) (x : Thread) : (s.setThread t n x).coll = s.coll := rfl
@[simp] theorem State.setThread_arrays (s : State) (t n : Nat) (x : Thread) : (s.setThread t n x).arrays = s.arrays := rfl
@[simp] theorem State.setThread_mem (s : State) (t n : Nat) (x : Thread) : (s.setThread t n x).mem = s.mem := rfl
@[simp] theorem State.setThread_custody (s : State) (t n : Nat) (x : Thread) : (s.setThread t n x).custody = s.custody := rfl
@[simp] theorem State.setThread_warden (s : State) (t n : Nat) (x : Thread) : (s.setThread t n x).warden = s.warden := rfl
@[simp] theorem State.setThread_ledger (s : State) (t n : Nat) (x : Thread) : (s.setThread t n x).ledger = s.ledger := rfl
@[simp] theorem State.setThread_dict (s : State) (t n : Nat) (x : Thread) : (s.setThread t n x).dict = s.dict := rfl
@[simp] theorem State.setThread_host (s : State) (t n : Nat) (x : Thread) : (s.setThread t n x).host = s.host := rfl
@[simp] theorem State.setThread_free (s : State) (t n : Nat) (x : Thread) : (s.setThread t n x).free = s.free := rfl
@[simp] theorem State.setThread_out (s : State) (t n : Nat) (x : Thread) : (s.setThread t n x).out = s.out := rfl
@[simp] theorem State.setThread_pending (s : State) (t n : Nat) (x : Thread) : (s.setThread t n x).pending = s.pending := rfl

/-! ### setTeam -/

@[simp] theorem State.setTeam_objs (s : State) (t n : Nat) (x : Team) : (s.setTeam t n x).objs = s.objs := rfl
@[simp] theorem State.setTeam_power (s : State) (t n : Nat) (x : Team) : (s.setTeam t n x).power = s.power := rfl
@[simp] theorem State.setTeam_time (s : State) (t n : Nat) (x : Team) : (s.setTeam t n x).time = s.time := rfl
@[simp] theorem State.setTeam_optics (s : State) (t n : Nat) (x : Team) : (s.setTeam t n x).optics = s.optics := rfl
@[simp] theorem State.setTeam_lanes (s : State) (t n : Nat) (x : Team) : (s.setTeam t n x).lanes = s.lanes := rfl
@[simp] theorem State.setTeam_remaps (s : State) (t n : Nat) (x : Team) : (s.setTeam t n x).remaps = s.remaps := rfl
@[simp] theorem State.setTeam_ports (s : State) (t n : Nat) (x : Team) : (s.setTeam t n x).ports = s.ports := rfl
@[simp] theorem State.setTeam_switch (s : State) (t n : Nat) (x : Team) : (s.setTeam t n x).switch = s.switch := rfl
@[simp] theorem State.setTeam_pitches (s : State) (t n : Nat) (x : Team) : (s.setTeam t n x).pitches = s.pitches := rfl
@[simp] theorem State.setTeam_service (s : State) (t n : Nat) (x : Team) : (s.setTeam t n x).service = s.service := rfl
@[simp] theorem State.setTeam_coll (s : State) (t n : Nat) (x : Team) : (s.setTeam t n x).coll = s.coll := rfl
@[simp] theorem State.setTeam_arrays (s : State) (t n : Nat) (x : Team) : (s.setTeam t n x).arrays = s.arrays := rfl
@[simp] theorem State.setTeam_mem (s : State) (t n : Nat) (x : Team) : (s.setTeam t n x).mem = s.mem := rfl
@[simp] theorem State.setTeam_custody (s : State) (t n : Nat) (x : Team) : (s.setTeam t n x).custody = s.custody := rfl
@[simp] theorem State.setTeam_warden (s : State) (t n : Nat) (x : Team) : (s.setTeam t n x).warden = s.warden := rfl
@[simp] theorem State.setTeam_ledger (s : State) (t n : Nat) (x : Team) : (s.setTeam t n x).ledger = s.ledger := rfl
@[simp] theorem State.setTeam_dict (s : State) (t n : Nat) (x : Team) : (s.setTeam t n x).dict = s.dict := rfl
@[simp] theorem State.setTeam_host (s : State) (t n : Nat) (x : Team) : (s.setTeam t n x).host = s.host := rfl
@[simp] theorem State.setTeam_free (s : State) (t n : Nat) (x : Team) : (s.setTeam t n x).free = s.free := rfl
@[simp] theorem State.setTeam_out (s : State) (t n : Nat) (x : Team) : (s.setTeam t n x).out = s.out := rfl
@[simp] theorem State.setTeam_pending (s : State) (t n : Nat) (x : Team) : (s.setTeam t n x).pending = s.pending := rfl

/-! ### setRun -/

@[simp] theorem State.setRun_objs (s : State) (r : Nat) (x : Run) : (s.setRun r x).objs = s.objs := rfl
@[simp] theorem State.setRun_power (s : State) (r : Nat) (x : Run) : (s.setRun r x).power = s.power := rfl
@[simp] theorem State.setRun_time (s : State) (r : Nat) (x : Run) : (s.setRun r x).time = s.time := rfl
@[simp] theorem State.setRun_optics (s : State) (r : Nat) (x : Run) : (s.setRun r x).optics = s.optics := rfl
@[simp] theorem State.setRun_lanes (s : State) (r : Nat) (x : Run) : (s.setRun r x).lanes = s.lanes := rfl
@[simp] theorem State.setRun_remaps (s : State) (r : Nat) (x : Run) : (s.setRun r x).remaps = s.remaps := rfl
@[simp] theorem State.setRun_ports (s : State) (r : Nat) (x : Run) : (s.setRun r x).ports = s.ports := rfl
@[simp] theorem State.setRun_switch (s : State) (r : Nat) (x : Run) : (s.setRun r x).switch = s.switch := rfl
@[simp] theorem State.setRun_pitches (s : State) (r : Nat) (x : Run) : (s.setRun r x).pitches = s.pitches := rfl
@[simp] theorem State.setRun_service (s : State) (r : Nat) (x : Run) : (s.setRun r x).service = s.service := rfl
@[simp] theorem State.setRun_coll (s : State) (r : Nat) (x : Run) : (s.setRun r x).coll = s.coll := rfl
@[simp] theorem State.setRun_arrays (s : State) (r : Nat) (x : Run) : (s.setRun r x).arrays = s.arrays := rfl
@[simp] theorem State.setRun_mem (s : State) (r : Nat) (x : Run) : (s.setRun r x).mem = s.mem := rfl
@[simp] theorem State.setRun_custody (s : State) (r : Nat) (x : Run) : (s.setRun r x).custody = s.custody := rfl
@[simp] theorem State.setRun_warden (s : State) (r : Nat) (x : Run) : (s.setRun r x).warden = s.warden := rfl
@[simp] theorem State.setRun_ledger (s : State) (r : Nat) (x : Run) : (s.setRun r x).ledger = s.ledger := rfl
@[simp] theorem State.setRun_dict (s : State) (r : Nat) (x : Run) : (s.setRun r x).dict = s.dict := rfl
@[simp] theorem State.setRun_host (s : State) (r : Nat) (x : Run) : (s.setRun r x).host = s.host := rfl
@[simp] theorem State.setRun_free (s : State) (r : Nat) (x : Run) : (s.setRun r x).free = s.free := rfl
@[simp] theorem State.setRun_out (s : State) (r : Nat) (x : Run) : (s.setRun r x).out = s.out := rfl
@[simp] theorem State.setRun_pending (s : State) (r : Nat) (x : Run) : (s.setRun r x).pending = s.pending := rfl

/-! ### setArray -/

@[simp] theorem State.setArray_objs (s : State) (t : Nat) (x : ArraySt) : (s.setArray t x).objs = s.objs := rfl
@[simp] theorem State.setArray_power (s : State) (t : Nat) (x : ArraySt) : (s.setArray t x).power = s.power := rfl
@[simp] theorem State.setArray_time (s : State) (t : Nat) (x : ArraySt) : (s.setArray t x).time = s.time := rfl
@[simp] theorem State.setArray_optics (s : State) (t : Nat) (x : ArraySt) : (s.setArray t x).optics = s.optics := rfl
@[simp] theorem State.setArray_lanes (s : State) (t : Nat) (x : ArraySt) : (s.setArray t x).lanes = s.lanes := rfl
@[simp] theorem State.setArray_remaps (s : State) (t : Nat) (x : ArraySt) : (s.setArray t x).remaps = s.remaps := rfl
@[simp] theorem State.setArray_ports (s : State) (t : Nat) (x : ArraySt) : (s.setArray t x).ports = s.ports := rfl
@[simp] theorem State.setArray_switch (s : State) (t : Nat) (x : ArraySt) : (s.setArray t x).switch = s.switch := rfl
@[simp] theorem State.setArray_pitches (s : State) (t : Nat) (x : ArraySt) : (s.setArray t x).pitches = s.pitches := rfl
@[simp] theorem State.setArray_service (s : State) (t : Nat) (x : ArraySt) : (s.setArray t x).service = s.service := rfl
@[simp] theorem State.setArray_coll (s : State) (t : Nat) (x : ArraySt) : (s.setArray t x).coll = s.coll := rfl
@[simp] theorem State.setArray_update (s : State) (t : Nat) (x : ArraySt) : (s.setArray t x).update = s.update := rfl
@[simp] theorem State.setArray_mem (s : State) (t : Nat) (x : ArraySt) : (s.setArray t x).mem = s.mem := rfl
@[simp] theorem State.setArray_custody (s : State) (t : Nat) (x : ArraySt) : (s.setArray t x).custody = s.custody := rfl
@[simp] theorem State.setArray_warden (s : State) (t : Nat) (x : ArraySt) : (s.setArray t x).warden = s.warden := rfl
@[simp] theorem State.setArray_ledger (s : State) (t : Nat) (x : ArraySt) : (s.setArray t x).ledger = s.ledger := rfl
@[simp] theorem State.setArray_dict (s : State) (t : Nat) (x : ArraySt) : (s.setArray t x).dict = s.dict := rfl
@[simp] theorem State.setArray_host (s : State) (t : Nat) (x : ArraySt) : (s.setArray t x).host = s.host := rfl
@[simp] theorem State.setArray_free (s : State) (t : Nat) (x : ArraySt) : (s.setArray t x).free = s.free := rfl
@[simp] theorem State.setArray_out (s : State) (t : Nat) (x : ArraySt) : (s.setArray t x).out = s.out := rfl
@[simp] theorem State.setArray_pending (s : State) (t : Nat) (x : ArraySt) : (s.setArray t x).pending = s.pending := rfl

/-! ### setChan -/

@[simp] theorem State.setChan_objs (s : State) (c : Nat) (x : ChanSt) : (s.setChan c x).objs = s.objs := rfl
@[simp] theorem State.setChan_power (s : State) (c : Nat) (x : ChanSt) : (s.setChan c x).power = s.power := rfl
@[simp] theorem State.setChan_time (s : State) (c : Nat) (x : ChanSt) : (s.setChan c x).time = s.time := rfl
@[simp] theorem State.setChan_optics (s : State) (c : Nat) (x : ChanSt) : (s.setChan c x).optics = s.optics := rfl
@[simp] theorem State.setChan_lanes (s : State) (c : Nat) (x : ChanSt) : (s.setChan c x).lanes = s.lanes := rfl
@[simp] theorem State.setChan_remaps (s : State) (c : Nat) (x : ChanSt) : (s.setChan c x).remaps = s.remaps := rfl
@[simp] theorem State.setChan_ports (s : State) (c : Nat) (x : ChanSt) : (s.setChan c x).ports = s.ports := rfl
@[simp] theorem State.setChan_switch (s : State) (c : Nat) (x : ChanSt) : (s.setChan c x).switch = s.switch := rfl
@[simp] theorem State.setChan_pitches (s : State) (c : Nat) (x : ChanSt) : (s.setChan c x).pitches = s.pitches := rfl
@[simp] theorem State.setChan_service (s : State) (c : Nat) (x : ChanSt) : (s.setChan c x).service = s.service := rfl
@[simp] theorem State.setChan_coll (s : State) (c : Nat) (x : ChanSt) : (s.setChan c x).coll = s.coll := rfl
@[simp] theorem State.setChan_update (s : State) (c : Nat) (x : ChanSt) : (s.setChan c x).update = s.update := rfl
@[simp] theorem State.setChan_arrays (s : State) (c : Nat) (x : ChanSt) : (s.setChan c x).arrays = s.arrays := rfl
@[simp] theorem State.setChan_custody (s : State) (c : Nat) (x : ChanSt) : (s.setChan c x).custody = s.custody := rfl
@[simp] theorem State.setChan_warden (s : State) (c : Nat) (x : ChanSt) : (s.setChan c x).warden = s.warden := rfl
@[simp] theorem State.setChan_ledger (s : State) (c : Nat) (x : ChanSt) : (s.setChan c x).ledger = s.ledger := rfl
@[simp] theorem State.setChan_dict (s : State) (c : Nat) (x : ChanSt) : (s.setChan c x).dict = s.dict := rfl
@[simp] theorem State.setChan_host (s : State) (c : Nat) (x : ChanSt) : (s.setChan c x).host = s.host := rfl
@[simp] theorem State.setChan_free (s : State) (c : Nat) (x : ChanSt) : (s.setChan c x).free = s.free := rfl
@[simp] theorem State.setChan_out (s : State) (c : Nat) (x : ChanSt) : (s.setChan c x).out = s.out := rfl
@[simp] theorem State.setChan_pending (s : State) (c : Nat) (x : ChanSt) : (s.setChan c x).pending = s.pending := rfl

/-! ### setPair -/

@[simp] theorem State.setPair_objs (s : State) (k : Nat) (x : Pair) : (s.setPair k x).objs = s.objs := rfl
@[simp] theorem State.setPair_power (s : State) (k : Nat) (x : Pair) : (s.setPair k x).power = s.power := rfl
@[simp] theorem State.setPair_time (s : State) (k : Nat) (x : Pair) : (s.setPair k x).time = s.time := rfl
@[simp] theorem State.setPair_optics (s : State) (k : Nat) (x : Pair) : (s.setPair k x).optics = s.optics := rfl
@[simp] theorem State.setPair_lanes (s : State) (k : Nat) (x : Pair) : (s.setPair k x).lanes = s.lanes := rfl
@[simp] theorem State.setPair_remaps (s : State) (k : Nat) (x : Pair) : (s.setPair k x).remaps = s.remaps := rfl
@[simp] theorem State.setPair_ports (s : State) (k : Nat) (x : Pair) : (s.setPair k x).ports = s.ports := rfl
@[simp] theorem State.setPair_switch (s : State) (k : Nat) (x : Pair) : (s.setPair k x).switch = s.switch := rfl
@[simp] theorem State.setPair_pitches (s : State) (k : Nat) (x : Pair) : (s.setPair k x).pitches = s.pitches := rfl
@[simp] theorem State.setPair_service (s : State) (k : Nat) (x : Pair) : (s.setPair k x).service = s.service := rfl
@[simp] theorem State.setPair_coll (s : State) (k : Nat) (x : Pair) : (s.setPair k x).coll = s.coll := rfl
@[simp] theorem State.setPair_update (s : State) (k : Nat) (x : Pair) : (s.setPair k x).update = s.update := rfl
@[simp] theorem State.setPair_arrays (s : State) (k : Nat) (x : Pair) : (s.setPair k x).arrays = s.arrays := rfl
@[simp] theorem State.setPair_mem (s : State) (k : Nat) (x : Pair) : (s.setPair k x).mem = s.mem := rfl
@[simp] theorem State.setPair_warden (s : State) (k : Nat) (x : Pair) : (s.setPair k x).warden = s.warden := rfl
@[simp] theorem State.setPair_ledger (s : State) (k : Nat) (x : Pair) : (s.setPair k x).ledger = s.ledger := rfl
@[simp] theorem State.setPair_dict (s : State) (k : Nat) (x : Pair) : (s.setPair k x).dict = s.dict := rfl
@[simp] theorem State.setPair_host (s : State) (k : Nat) (x : Pair) : (s.setPair k x).host = s.host := rfl
@[simp] theorem State.setPair_free (s : State) (k : Nat) (x : Pair) : (s.setPair k x).free = s.free := rfl
@[simp] theorem State.setPair_out (s : State) (k : Nat) (x : Pair) : (s.setPair k x).out = s.out := rfl
@[simp] theorem State.setPair_pending (s : State) (k : Nat) (x : Pair) : (s.setPair k x).pending = s.pending := rfl

/-! ### setStall -/

@[simp] theorem State.setStall_objs (s : State) (t : Nat) (x : StallSt) : (s.setStall t x).objs = s.objs := rfl
@[simp] theorem State.setStall_power (s : State) (t : Nat) (x : StallSt) : (s.setStall t x).power = s.power := rfl
@[simp] theorem State.setStall_time (s : State) (t : Nat) (x : StallSt) : (s.setStall t x).time = s.time := rfl
@[simp] theorem State.setStall_optics (s : State) (t : Nat) (x : StallSt) : (s.setStall t x).optics = s.optics := rfl
@[simp] theorem State.setStall_lanes (s : State) (t : Nat) (x : StallSt) : (s.setStall t x).lanes = s.lanes := rfl
@[simp] theorem State.setStall_remaps (s : State) (t : Nat) (x : StallSt) : (s.setStall t x).remaps = s.remaps := rfl
@[simp] theorem State.setStall_ports (s : State) (t : Nat) (x : StallSt) : (s.setStall t x).ports = s.ports := rfl
@[simp] theorem State.setStall_switch (s : State) (t : Nat) (x : StallSt) : (s.setStall t x).switch = s.switch := rfl
@[simp] theorem State.setStall_pitches (s : State) (t : Nat) (x : StallSt) : (s.setStall t x).pitches = s.pitches := rfl
@[simp] theorem State.setStall_service (s : State) (t : Nat) (x : StallSt) : (s.setStall t x).service = s.service := rfl
@[simp] theorem State.setStall_coll (s : State) (t : Nat) (x : StallSt) : (s.setStall t x).coll = s.coll := rfl
@[simp] theorem State.setStall_update (s : State) (t : Nat) (x : StallSt) : (s.setStall t x).update = s.update := rfl
@[simp] theorem State.setStall_arrays (s : State) (t : Nat) (x : StallSt) : (s.setStall t x).arrays = s.arrays := rfl
@[simp] theorem State.setStall_mem (s : State) (t : Nat) (x : StallSt) : (s.setStall t x).mem = s.mem := rfl
@[simp] theorem State.setStall_warden (s : State) (t : Nat) (x : StallSt) : (s.setStall t x).warden = s.warden := rfl
@[simp] theorem State.setStall_ledger (s : State) (t : Nat) (x : StallSt) : (s.setStall t x).ledger = s.ledger := rfl
@[simp] theorem State.setStall_dict (s : State) (t : Nat) (x : StallSt) : (s.setStall t x).dict = s.dict := rfl
@[simp] theorem State.setStall_host (s : State) (t : Nat) (x : StallSt) : (s.setStall t x).host = s.host := rfl
@[simp] theorem State.setStall_free (s : State) (t : Nat) (x : StallSt) : (s.setStall t x).free = s.free := rfl
@[simp] theorem State.setStall_out (s : State) (t : Nat) (x : StallSt) : (s.setStall t x).out = s.out := rfl
@[simp] theorem State.setStall_pending (s : State) (t : Nat) (x : StallSt) : (s.setStall t x).pending = s.pending := rfl

/-! ### setSlot -/

@[simp] theorem State.setSlot_objs (s : State) (k : Nat) (x : SlotSt) : (s.setSlot k x).objs = s.objs := rfl
@[simp] theorem State.setSlot_power (s : State) (k : Nat) (x : SlotSt) : (s.setSlot k x).power = s.power := rfl
@[simp] theorem State.setSlot_time (s : State) (k : Nat) (x : SlotSt) : (s.setSlot k x).time = s.time := rfl
@[simp] theorem State.setSlot_optics (s : State) (k : Nat) (x : SlotSt) : (s.setSlot k x).optics = s.optics := rfl
@[simp] theorem State.setSlot_lanes (s : State) (k : Nat) (x : SlotSt) : (s.setSlot k x).lanes = s.lanes := rfl
@[simp] theorem State.setSlot_remaps (s : State) (k : Nat) (x : SlotSt) : (s.setSlot k x).remaps = s.remaps := rfl
@[simp] theorem State.setSlot_ports (s : State) (k : Nat) (x : SlotSt) : (s.setSlot k x).ports = s.ports := rfl
@[simp] theorem State.setSlot_switch (s : State) (k : Nat) (x : SlotSt) : (s.setSlot k x).switch = s.switch := rfl
@[simp] theorem State.setSlot_pitches (s : State) (k : Nat) (x : SlotSt) : (s.setSlot k x).pitches = s.pitches := rfl
@[simp] theorem State.setSlot_service (s : State) (k : Nat) (x : SlotSt) : (s.setSlot k x).service = s.service := rfl
@[simp] theorem State.setSlot_coll (s : State) (k : Nat) (x : SlotSt) : (s.setSlot k x).coll = s.coll := rfl
@[simp] theorem State.setSlot_update (s : State) (k : Nat) (x : SlotSt) : (s.setSlot k x).update = s.update := rfl
@[simp] theorem State.setSlot_arrays (s : State) (k : Nat) (x : SlotSt) : (s.setSlot k x).arrays = s.arrays := rfl
@[simp] theorem State.setSlot_mem (s : State) (k : Nat) (x : SlotSt) : (s.setSlot k x).mem = s.mem := rfl
@[simp] theorem State.setSlot_custody (s : State) (k : Nat) (x : SlotSt) : (s.setSlot k x).custody = s.custody := rfl
@[simp] theorem State.setSlot_warden (s : State) (k : Nat) (x : SlotSt) : (s.setSlot k x).warden = s.warden := rfl
@[simp] theorem State.setSlot_ledger (s : State) (k : Nat) (x : SlotSt) : (s.setSlot k x).ledger = s.ledger := rfl
@[simp] theorem State.setSlot_host (s : State) (k : Nat) (x : SlotSt) : (s.setSlot k x).host = s.host := rfl
@[simp] theorem State.setSlot_free (s : State) (k : Nat) (x : SlotSt) : (s.setSlot k x).free = s.free := rfl
@[simp] theorem State.setSlot_out (s : State) (k : Nat) (x : SlotSt) : (s.setSlot k x).out = s.out := rfl
@[simp] theorem State.setSlot_pending (s : State) (k : Nat) (x : SlotSt) : (s.setSlot k x).pending = s.pending := rfl

/-! ### setFlight -/

@[simp] theorem State.setFlight_objs (s : State) (i : Nat) (x : Flight) : (s.setFlight i x).objs = s.objs := rfl
@[simp] theorem State.setFlight_power (s : State) (i : Nat) (x : Flight) : (s.setFlight i x).power = s.power := rfl
@[simp] theorem State.setFlight_time (s : State) (i : Nat) (x : Flight) : (s.setFlight i x).time = s.time := rfl
@[simp] theorem State.setFlight_optics (s : State) (i : Nat) (x : Flight) : (s.setFlight i x).optics = s.optics := rfl
@[simp] theorem State.setFlight_lanes (s : State) (i : Nat) (x : Flight) : (s.setFlight i x).lanes = s.lanes := rfl
@[simp] theorem State.setFlight_remaps (s : State) (i : Nat) (x : Flight) : (s.setFlight i x).remaps = s.remaps := rfl
@[simp] theorem State.setFlight_ports (s : State) (i : Nat) (x : Flight) : (s.setFlight i x).ports = s.ports := rfl
@[simp] theorem State.setFlight_pitches (s : State) (i : Nat) (x : Flight) : (s.setFlight i x).pitches = s.pitches := rfl
@[simp] theorem State.setFlight_service (s : State) (i : Nat) (x : Flight) : (s.setFlight i x).service = s.service := rfl
@[simp] theorem State.setFlight_coll (s : State) (i : Nat) (x : Flight) : (s.setFlight i x).coll = s.coll := rfl
@[simp] theorem State.setFlight_update (s : State) (i : Nat) (x : Flight) : (s.setFlight i x).update = s.update := rfl
@[simp] theorem State.setFlight_arrays (s : State) (i : Nat) (x : Flight) : (s.setFlight i x).arrays = s.arrays := rfl
@[simp] theorem State.setFlight_mem (s : State) (i : Nat) (x : Flight) : (s.setFlight i x).mem = s.mem := rfl
@[simp] theorem State.setFlight_custody (s : State) (i : Nat) (x : Flight) : (s.setFlight i x).custody = s.custody := rfl
@[simp] theorem State.setFlight_warden (s : State) (i : Nat) (x : Flight) : (s.setFlight i x).warden = s.warden := rfl
@[simp] theorem State.setFlight_ledger (s : State) (i : Nat) (x : Flight) : (s.setFlight i x).ledger = s.ledger := rfl
@[simp] theorem State.setFlight_dict (s : State) (i : Nat) (x : Flight) : (s.setFlight i x).dict = s.dict := rfl
@[simp] theorem State.setFlight_host (s : State) (i : Nat) (x : Flight) : (s.setFlight i x).host = s.host := rfl
@[simp] theorem State.setFlight_free (s : State) (i : Nat) (x : Flight) : (s.setFlight i x).free = s.free := rfl
@[simp] theorem State.setFlight_out (s : State) (i : Nat) (x : Flight) : (s.setFlight i x).out = s.out := rfl
@[simp] theorem State.setFlight_pending (s : State) (i : Nat) (x : Flight) : (s.setFlight i x).pending = s.pending := rfl

/-! ### dropFlight -/

@[simp] theorem State.dropFlight_objs (s : State) (i : Nat) : (s.dropFlight i).objs = s.objs := rfl
@[simp] theorem State.dropFlight_power (s : State) (i : Nat) : (s.dropFlight i).power = s.power := rfl
@[simp] theorem State.dropFlight_time (s : State) (i : Nat) : (s.dropFlight i).time = s.time := rfl
@[simp] theorem State.dropFlight_optics (s : State) (i : Nat) : (s.dropFlight i).optics = s.optics := rfl
@[simp] theorem State.dropFlight_lanes (s : State) (i : Nat) : (s.dropFlight i).lanes = s.lanes := rfl
@[simp] theorem State.dropFlight_remaps (s : State) (i : Nat) : (s.dropFlight i).remaps = s.remaps := rfl
@[simp] theorem State.dropFlight_ports (s : State) (i : Nat) : (s.dropFlight i).ports = s.ports := rfl
@[simp] theorem State.dropFlight_pitches (s : State) (i : Nat) : (s.dropFlight i).pitches = s.pitches := rfl
@[simp] theorem State.dropFlight_service (s : State) (i : Nat) : (s.dropFlight i).service = s.service := rfl
@[simp] theorem State.dropFlight_coll (s : State) (i : Nat) : (s.dropFlight i).coll = s.coll := rfl
@[simp] theorem State.dropFlight_update (s : State) (i : Nat) : (s.dropFlight i).update = s.update := rfl
@[simp] theorem State.dropFlight_arrays (s : State) (i : Nat) : (s.dropFlight i).arrays = s.arrays := rfl
@[simp] theorem State.dropFlight_mem (s : State) (i : Nat) : (s.dropFlight i).mem = s.mem := rfl
@[simp] theorem State.dropFlight_custody (s : State) (i : Nat) : (s.dropFlight i).custody = s.custody := rfl
@[simp] theorem State.dropFlight_warden (s : State) (i : Nat) : (s.dropFlight i).warden = s.warden := rfl
@[simp] theorem State.dropFlight_ledger (s : State) (i : Nat) : (s.dropFlight i).ledger = s.ledger := rfl
@[simp] theorem State.dropFlight_dict (s : State) (i : Nat) : (s.dropFlight i).dict = s.dict := rfl
@[simp] theorem State.dropFlight_host (s : State) (i : Nat) : (s.dropFlight i).host = s.host := rfl
@[simp] theorem State.dropFlight_free (s : State) (i : Nat) : (s.dropFlight i).free = s.free := rfl
@[simp] theorem State.dropFlight_out (s : State) (i : Nat) : (s.dropFlight i).out = s.out := rfl
@[simp] theorem State.dropFlight_pending (s : State) (i : Nat) : (s.dropFlight i).pending = s.pending := rfl

/-! ### setReq -/

@[simp] theorem State.setReq_objs (s : State) (r : Requester) (x : ReqSt) : (s.setReq r x).objs = s.objs := rfl
@[simp] theorem State.setReq_power (s : State) (r : Requester) (x : ReqSt) : (s.setReq r x).power = s.power := rfl
@[simp] theorem State.setReq_time (s : State) (r : Requester) (x : ReqSt) : (s.setReq r x).time = s.time := rfl
@[simp] theorem State.setReq_optics (s : State) (r : Requester) (x : ReqSt) : (s.setReq r x).optics = s.optics := rfl
@[simp] theorem State.setReq_lanes (s : State) (r : Requester) (x : ReqSt) : (s.setReq r x).lanes = s.lanes := rfl
@[simp] theorem State.setReq_remaps (s : State) (r : Requester) (x : ReqSt) : (s.setReq r x).remaps = s.remaps := rfl
@[simp] theorem State.setReq_ports (s : State) (r : Requester) (x : ReqSt) : (s.setReq r x).ports = s.ports := rfl
@[simp] theorem State.setReq_switch (s : State) (r : Requester) (x : ReqSt) : (s.setReq r x).switch = s.switch := rfl
@[simp] theorem State.setReq_pitches (s : State) (r : Requester) (x : ReqSt) : (s.setReq r x).pitches = s.pitches := rfl
@[simp] theorem State.setReq_service (s : State) (r : Requester) (x : ReqSt) : (s.setReq r x).service = s.service := rfl
@[simp] theorem State.setReq_coll (s : State) (r : Requester) (x : ReqSt) : (s.setReq r x).coll = s.coll := rfl
@[simp] theorem State.setReq_update (s : State) (r : Requester) (x : ReqSt) : (s.setReq r x).update = s.update := rfl
@[simp] theorem State.setReq_arrays (s : State) (r : Requester) (x : ReqSt) : (s.setReq r x).arrays = s.arrays := rfl
@[simp] theorem State.setReq_mem (s : State) (r : Requester) (x : ReqSt) : (s.setReq r x).mem = s.mem := rfl
@[simp] theorem State.setReq_custody (s : State) (r : Requester) (x : ReqSt) : (s.setReq r x).custody = s.custody := rfl
@[simp] theorem State.setReq_warden (s : State) (r : Requester) (x : ReqSt) : (s.setReq r x).warden = s.warden := rfl
@[simp] theorem State.setReq_ledger (s : State) (r : Requester) (x : ReqSt) : (s.setReq r x).ledger = s.ledger := rfl
@[simp] theorem State.setReq_host (s : State) (r : Requester) (x : ReqSt) : (s.setReq r x).host = s.host := rfl
@[simp] theorem State.setReq_free (s : State) (r : Requester) (x : ReqSt) : (s.setReq r x).free = s.free := rfl
@[simp] theorem State.setReq_out (s : State) (r : Requester) (x : ReqSt) : (s.setReq r x).out = s.out := rfl
@[simp] theorem State.setReq_pending (s : State) (r : Requester) (x : ReqSt) : (s.setReq r x).pending = s.pending := rfl

/-! ### setCounter -/

@[simp] theorem State.setCounter_objs (s : State) (b i : Nat) (c : Counter) : (s.setCounter b i c).objs = s.objs := rfl
@[simp] theorem State.setCounter_power (s : State) (b i : Nat) (c : Counter) : (s.setCounter b i c).power = s.power := rfl
@[simp] theorem State.setCounter_time (s : State) (b i : Nat) (c : Counter) : (s.setCounter b i c).time = s.time := rfl
@[simp] theorem State.setCounter_optics (s : State) (b i : Nat) (c : Counter) : (s.setCounter b i c).optics = s.optics := rfl
@[simp] theorem State.setCounter_lanes (s : State) (b i : Nat) (c : Counter) : (s.setCounter b i c).lanes = s.lanes := rfl
@[simp] theorem State.setCounter_remaps (s : State) (b i : Nat) (c : Counter) : (s.setCounter b i c).remaps = s.remaps := rfl
@[simp] theorem State.setCounter_ports (s : State) (b i : Nat) (c : Counter) : (s.setCounter b i c).ports = s.ports := rfl
@[simp] theorem State.setCounter_switch (s : State) (b i : Nat) (c : Counter) : (s.setCounter b i c).switch = s.switch := rfl
@[simp] theorem State.setCounter_pitches (s : State) (b i : Nat) (c : Counter) : (s.setCounter b i c).pitches = s.pitches := rfl
@[simp] theorem State.setCounter_service (s : State) (b i : Nat) (c : Counter) : (s.setCounter b i c).service = s.service := rfl
@[simp] theorem State.setCounter_coll (s : State) (b i : Nat) (c : Counter) : (s.setCounter b i c).coll = s.coll := rfl
@[simp] theorem State.setCounter_update (s : State) (b i : Nat) (c : Counter) : (s.setCounter b i c).update = s.update := rfl
@[simp] theorem State.setCounter_arrays (s : State) (b i : Nat) (c : Counter) : (s.setCounter b i c).arrays = s.arrays := rfl
@[simp] theorem State.setCounter_mem (s : State) (b i : Nat) (c : Counter) : (s.setCounter b i c).mem = s.mem := rfl
@[simp] theorem State.setCounter_custody (s : State) (b i : Nat) (c : Counter) : (s.setCounter b i c).custody = s.custody := rfl
@[simp] theorem State.setCounter_warden (s : State) (b i : Nat) (c : Counter) : (s.setCounter b i c).warden = s.warden := rfl
@[simp] theorem State.setCounter_dict (s : State) (b i : Nat) (c : Counter) : (s.setCounter b i c).dict = s.dict := rfl
@[simp] theorem State.setCounter_host (s : State) (b i : Nat) (c : Counter) : (s.setCounter b i c).host = s.host := rfl
@[simp] theorem State.setCounter_free (s : State) (b i : Nat) (c : Counter) : (s.setCounter b i c).free = s.free := rfl
@[simp] theorem State.setCounter_out (s : State) (b i : Nat) (c : Counter) : (s.setCounter b i c).out = s.out := rfl
@[simp] theorem State.setCounter_pending (s : State) (b i : Nat) (c : Counter) : (s.setCounter b i c).pending = s.pending := rfl

/-! ### setLane -/

@[simp] theorem State.setLane_objs (s : State) (k : Nat) (x : LaneSt) : (s.setLane k x).objs = s.objs := rfl
@[simp] theorem State.setLane_power (s : State) (k : Nat) (x : LaneSt) : (s.setLane k x).power = s.power := rfl
@[simp] theorem State.setLane_time (s : State) (k : Nat) (x : LaneSt) : (s.setLane k x).time = s.time := rfl
@[simp] theorem State.setLane_optics (s : State) (k : Nat) (x : LaneSt) : (s.setLane k x).optics = s.optics := rfl
@[simp] theorem State.setLane_remaps (s : State) (k : Nat) (x : LaneSt) : (s.setLane k x).remaps = s.remaps := rfl
@[simp] theorem State.setLane_ports (s : State) (k : Nat) (x : LaneSt) : (s.setLane k x).ports = s.ports := rfl
@[simp] theorem State.setLane_switch (s : State) (k : Nat) (x : LaneSt) : (s.setLane k x).switch = s.switch := rfl
@[simp] theorem State.setLane_pitches (s : State) (k : Nat) (x : LaneSt) : (s.setLane k x).pitches = s.pitches := rfl
@[simp] theorem State.setLane_service (s : State) (k : Nat) (x : LaneSt) : (s.setLane k x).service = s.service := rfl
@[simp] theorem State.setLane_coll (s : State) (k : Nat) (x : LaneSt) : (s.setLane k x).coll = s.coll := rfl
@[simp] theorem State.setLane_update (s : State) (k : Nat) (x : LaneSt) : (s.setLane k x).update = s.update := rfl
@[simp] theorem State.setLane_arrays (s : State) (k : Nat) (x : LaneSt) : (s.setLane k x).arrays = s.arrays := rfl
@[simp] theorem State.setLane_mem (s : State) (k : Nat) (x : LaneSt) : (s.setLane k x).mem = s.mem := rfl
@[simp] theorem State.setLane_custody (s : State) (k : Nat) (x : LaneSt) : (s.setLane k x).custody = s.custody := rfl
@[simp] theorem State.setLane_warden (s : State) (k : Nat) (x : LaneSt) : (s.setLane k x).warden = s.warden := rfl
@[simp] theorem State.setLane_ledger (s : State) (k : Nat) (x : LaneSt) : (s.setLane k x).ledger = s.ledger := rfl
@[simp] theorem State.setLane_dict (s : State) (k : Nat) (x : LaneSt) : (s.setLane k x).dict = s.dict := rfl
@[simp] theorem State.setLane_host (s : State) (k : Nat) (x : LaneSt) : (s.setLane k x).host = s.host := rfl
@[simp] theorem State.setLane_free (s : State) (k : Nat) (x : LaneSt) : (s.setLane k x).free = s.free := rfl
@[simp] theorem State.setLane_out (s : State) (k : Nat) (x : LaneSt) : (s.setLane k x).out = s.out := rfl
@[simp] theorem State.setLane_pending (s : State) (k : Nat) (x : LaneSt) : (s.setLane k x).pending = s.pending := rfl

/-! ### modToken -/

@[simp] theorem State.modToken_objs (s : State) (k : Nat) (f : TokenRec → TokenRec) : (s.modToken k f).objs = s.objs := rfl
@[simp] theorem State.modToken_power (s : State) (k : Nat) (f : TokenRec → TokenRec) : (s.modToken k f).power = s.power := rfl
@[simp] theorem State.modToken_time (s : State) (k : Nat) (f : TokenRec → TokenRec) : (s.modToken k f).time = s.time := rfl
@[simp] theorem State.modToken_optics (s : State) (k : Nat) (f : TokenRec → TokenRec) : (s.modToken k f).optics = s.optics := rfl
@[simp] theorem State.modToken_lanes (s : State) (k : Nat) (f : TokenRec → TokenRec) : (s.modToken k f).lanes = s.lanes := rfl
@[simp] theorem State.modToken_remaps (s : State) (k : Nat) (f : TokenRec → TokenRec) : (s.modToken k f).remaps = s.remaps := rfl
@[simp] theorem State.modToken_ports (s : State) (k : Nat) (f : TokenRec → TokenRec) : (s.modToken k f).ports = s.ports := rfl
@[simp] theorem State.modToken_switch (s : State) (k : Nat) (f : TokenRec → TokenRec) : (s.modToken k f).switch = s.switch := rfl
@[simp] theorem State.modToken_pitches (s : State) (k : Nat) (f : TokenRec → TokenRec) : (s.modToken k f).pitches = s.pitches := rfl
@[simp] theorem State.modToken_service (s : State) (k : Nat) (f : TokenRec → TokenRec) : (s.modToken k f).service = s.service := rfl
@[simp] theorem State.modToken_coll (s : State) (k : Nat) (f : TokenRec → TokenRec) : (s.modToken k f).coll = s.coll := rfl
@[simp] theorem State.modToken_update (s : State) (k : Nat) (f : TokenRec → TokenRec) : (s.modToken k f).update = s.update := rfl
@[simp] theorem State.modToken_arrays (s : State) (k : Nat) (f : TokenRec → TokenRec) : (s.modToken k f).arrays = s.arrays := rfl
@[simp] theorem State.modToken_mem (s : State) (k : Nat) (f : TokenRec → TokenRec) : (s.modToken k f).mem = s.mem := rfl
@[simp] theorem State.modToken_custody (s : State) (k : Nat) (f : TokenRec → TokenRec) : (s.modToken k f).custody = s.custody := rfl
@[simp] theorem State.modToken_warden (s : State) (k : Nat) (f : TokenRec → TokenRec) : (s.modToken k f).warden = s.warden := rfl
@[simp] theorem State.modToken_ledger (s : State) (k : Nat) (f : TokenRec → TokenRec) : (s.modToken k f).ledger = s.ledger := rfl
@[simp] theorem State.modToken_host (s : State) (k : Nat) (f : TokenRec → TokenRec) : (s.modToken k f).host = s.host := rfl
@[simp] theorem State.modToken_free (s : State) (k : Nat) (f : TokenRec → TokenRec) : (s.modToken k f).free = s.free := rfl
@[simp] theorem State.modToken_out (s : State) (k : Nat) (f : TokenRec → TokenRec) : (s.modToken k f).out = s.out := rfl
@[simp] theorem State.modToken_pending (s : State) (k : Nat) (f : TokenRec → TokenRec) : (s.modToken k f).pending = s.pending := rfl

/-! ### answer -/

@[simp] theorem State.answer_objs (s : State) (d c : Nat) : (s.answer d c).objs = s.objs := rfl
@[simp] theorem State.answer_power (s : State) (d c : Nat) : (s.answer d c).power = s.power := rfl
@[simp] theorem State.answer_time (s : State) (d c : Nat) : (s.answer d c).time = s.time := rfl
@[simp] theorem State.answer_optics (s : State) (d c : Nat) : (s.answer d c).optics = s.optics := rfl
@[simp] theorem State.answer_lanes (s : State) (d c : Nat) : (s.answer d c).lanes = s.lanes := rfl
@[simp] theorem State.answer_remaps (s : State) (d c : Nat) : (s.answer d c).remaps = s.remaps := rfl
@[simp] theorem State.answer_ports (s : State) (d c : Nat) : (s.answer d c).ports = s.ports := rfl
@[simp] theorem State.answer_switch (s : State) (d c : Nat) : (s.answer d c).switch = s.switch := rfl
@[simp] theorem State.answer_pitches (s : State) (d c : Nat) : (s.answer d c).pitches = s.pitches := rfl
@[simp] theorem State.answer_service (s : State) (d c : Nat) : (s.answer d c).service = s.service := rfl
@[simp] theorem State.answer_coll (s : State) (d c : Nat) : (s.answer d c).coll = s.coll := rfl
@[simp] theorem State.answer_update (s : State) (d c : Nat) : (s.answer d c).update = s.update := rfl
@[simp] theorem State.answer_arrays (s : State) (d c : Nat) : (s.answer d c).arrays = s.arrays := rfl
@[simp] theorem State.answer_mem (s : State) (d c : Nat) : (s.answer d c).mem = s.mem := rfl
@[simp] theorem State.answer_custody (s : State) (d c : Nat) : (s.answer d c).custody = s.custody := rfl
@[simp] theorem State.answer_warden (s : State) (d c : Nat) : (s.answer d c).warden = s.warden := rfl
@[simp] theorem State.answer_ledger (s : State) (d c : Nat) : (s.answer d c).ledger = s.ledger := rfl
@[simp] theorem State.answer_dict (s : State) (d c : Nat) : (s.answer d c).dict = s.dict := rfl
@[simp] theorem State.answer_host (s : State) (d c : Nat) : (s.answer d c).host = s.host := rfl
@[simp] theorem State.answer_free (s : State) (d c : Nat) : (s.answer d c).free = s.free := rfl
@[simp] theorem State.answer_pending (s : State) (d c : Nat) : (s.answer d c).pending = s.pending := rfl

/-! ### dropRequest -/

@[simp] theorem State.dropRequest_objs (s : State) (i : Nat) : (s.dropRequest i).objs = s.objs := rfl
@[simp] theorem State.dropRequest_power (s : State) (i : Nat) : (s.dropRequest i).power = s.power := rfl
@[simp] theorem State.dropRequest_time (s : State) (i : Nat) : (s.dropRequest i).time = s.time := rfl
@[simp] theorem State.dropRequest_optics (s : State) (i : Nat) : (s.dropRequest i).optics = s.optics := rfl
@[simp] theorem State.dropRequest_lanes (s : State) (i : Nat) : (s.dropRequest i).lanes = s.lanes := rfl
@[simp] theorem State.dropRequest_remaps (s : State) (i : Nat) : (s.dropRequest i).remaps = s.remaps := rfl
@[simp] theorem State.dropRequest_ports (s : State) (i : Nat) : (s.dropRequest i).ports = s.ports := rfl
@[simp] theorem State.dropRequest_switch (s : State) (i : Nat) : (s.dropRequest i).switch = s.switch := rfl
@[simp] theorem State.dropRequest_pitches (s : State) (i : Nat) : (s.dropRequest i).pitches = s.pitches := rfl
@[simp] theorem State.dropRequest_service (s : State) (i : Nat) : (s.dropRequest i).service = s.service := rfl
@[simp] theorem State.dropRequest_coll (s : State) (i : Nat) : (s.dropRequest i).coll = s.coll := rfl
@[simp] theorem State.dropRequest_update (s : State) (i : Nat) : (s.dropRequest i).update = s.update := rfl
@[simp] theorem State.dropRequest_arrays (s : State) (i : Nat) : (s.dropRequest i).arrays = s.arrays := rfl
@[simp] theorem State.dropRequest_mem (s : State) (i : Nat) : (s.dropRequest i).mem = s.mem := rfl
@[simp] theorem State.dropRequest_custody (s : State) (i : Nat) : (s.dropRequest i).custody = s.custody := rfl
@[simp] theorem State.dropRequest_warden (s : State) (i : Nat) : (s.dropRequest i).warden = s.warden := rfl
@[simp] theorem State.dropRequest_ledger (s : State) (i : Nat) : (s.dropRequest i).ledger = s.ledger := rfl
@[simp] theorem State.dropRequest_dict (s : State) (i : Nat) : (s.dropRequest i).dict = s.dict := rfl
@[simp] theorem State.dropRequest_free (s : State) (i : Nat) : (s.dropRequest i).free = s.free := rfl
@[simp] theorem State.dropRequest_out (s : State) (i : Nat) : (s.dropRequest i).out = s.out := rfl
@[simp] theorem State.dropRequest_pending (s : State) (i : Nat) : (s.dropRequest i).pending = s.pending := rfl

/-! ### setPool -/

@[simp] theorem State.setPool_objs (s : State) (t k : Nat) (x : Pool) : (s.setPool t k x).objs = s.objs := rfl
@[simp] theorem State.setPool_power (s : State) (t k : Nat) (x : Pool) : (s.setPool t k x).power = s.power := rfl
@[simp] theorem State.setPool_time (s : State) (t k : Nat) (x : Pool) : (s.setPool t k x).time = s.time := rfl
@[simp] theorem State.setPool_optics (s : State) (t k : Nat) (x : Pool) : (s.setPool t k x).optics = s.optics := rfl
@[simp] theorem State.setPool_lanes (s : State) (t k : Nat) (x : Pool) : (s.setPool t k x).lanes = s.lanes := rfl
@[simp] theorem State.setPool_remaps (s : State) (t k : Nat) (x : Pool) : (s.setPool t k x).remaps = s.remaps := rfl
@[simp] theorem State.setPool_ports (s : State) (t k : Nat) (x : Pool) : (s.setPool t k x).ports = s.ports := rfl
@[simp] theorem State.setPool_pitches (s : State) (t k : Nat) (x : Pool) : (s.setPool t k x).pitches = s.pitches := rfl
@[simp] theorem State.setPool_service (s : State) (t k : Nat) (x : Pool) : (s.setPool t k x).service = s.service := rfl
@[simp] theorem State.setPool_coll (s : State) (t k : Nat) (x : Pool) : (s.setPool t k x).coll = s.coll := rfl
@[simp] theorem State.setPool_update (s : State) (t k : Nat) (x : Pool) : (s.setPool t k x).update = s.update := rfl
@[simp] theorem State.setPool_arrays (s : State) (t k : Nat) (x : Pool) : (s.setPool t k x).arrays = s.arrays := rfl
@[simp] theorem State.setPool_mem (s : State) (t k : Nat) (x : Pool) : (s.setPool t k x).mem = s.mem := rfl
@[simp] theorem State.setPool_custody (s : State) (t k : Nat) (x : Pool) : (s.setPool t k x).custody = s.custody := rfl
@[simp] theorem State.setPool_warden (s : State) (t k : Nat) (x : Pool) : (s.setPool t k x).warden = s.warden := rfl
@[simp] theorem State.setPool_ledger (s : State) (t k : Nat) (x : Pool) : (s.setPool t k x).ledger = s.ledger := rfl
@[simp] theorem State.setPool_dict (s : State) (t k : Nat) (x : Pool) : (s.setPool t k x).dict = s.dict := rfl
@[simp] theorem State.setPool_host (s : State) (t k : Nat) (x : Pool) : (s.setPool t k x).host = s.host := rfl
@[simp] theorem State.setPool_free (s : State) (t k : Nat) (x : Pool) : (s.setPool t k x).free = s.free := rfl
@[simp] theorem State.setPool_out (s : State) (t k : Nat) (x : Pool) : (s.setPool t k x).out = s.out := rfl
@[simp] theorem State.setPool_pending (s : State) (t k : Nat) (x : Pool) : (s.setPool t k x).pending = s.pending := rfl

/-! ### setTank -/

@[simp] theorem State.setTank_objs (s : State) (t : Nat) (v : Int) : (s.setTank t v).objs = s.objs := rfl
@[simp] theorem State.setTank_power (s : State) (t : Nat) (v : Int) : (s.setTank t v).power = s.power := rfl
@[simp] theorem State.setTank_time (s : State) (t : Nat) (v : Int) : (s.setTank t v).time = s.time := rfl
@[simp] theorem State.setTank_optics (s : State) (t : Nat) (v : Int) : (s.setTank t v).optics = s.optics := rfl
@[simp] theorem State.setTank_lanes (s : State) (t : Nat) (v : Int) : (s.setTank t v).lanes = s.lanes := rfl
@[simp] theorem State.setTank_remaps (s : State) (t : Nat) (v : Int) : (s.setTank t v).remaps = s.remaps := rfl
@[simp] theorem State.setTank_ports (s : State) (t : Nat) (v : Int) : (s.setTank t v).ports = s.ports := rfl
@[simp] theorem State.setTank_switch (s : State) (t : Nat) (v : Int) : (s.setTank t v).switch = s.switch := rfl
@[simp] theorem State.setTank_pitches (s : State) (t : Nat) (v : Int) : (s.setTank t v).pitches = s.pitches := rfl
@[simp] theorem State.setTank_service (s : State) (t : Nat) (v : Int) : (s.setTank t v).service = s.service := rfl
@[simp] theorem State.setTank_coll (s : State) (t : Nat) (v : Int) : (s.setTank t v).coll = s.coll := rfl
@[simp] theorem State.setTank_arrays (s : State) (t : Nat) (v : Int) : (s.setTank t v).arrays = s.arrays := rfl
@[simp] theorem State.setTank_mem (s : State) (t : Nat) (v : Int) : (s.setTank t v).mem = s.mem := rfl
@[simp] theorem State.setTank_custody (s : State) (t : Nat) (v : Int) : (s.setTank t v).custody = s.custody := rfl
@[simp] theorem State.setTank_warden (s : State) (t : Nat) (v : Int) : (s.setTank t v).warden = s.warden := rfl
@[simp] theorem State.setTank_ledger (s : State) (t : Nat) (v : Int) : (s.setTank t v).ledger = s.ledger := rfl
@[simp] theorem State.setTank_dict (s : State) (t : Nat) (v : Int) : (s.setTank t v).dict = s.dict := rfl
@[simp] theorem State.setTank_host (s : State) (t : Nat) (v : Int) : (s.setTank t v).host = s.host := rfl
@[simp] theorem State.setTank_free (s : State) (t : Nat) (v : Int) : (s.setTank t v).free = s.free := rfl
@[simp] theorem State.setTank_out (s : State) (t : Nat) (v : Int) : (s.setTank t v).out = s.out := rfl
@[simp] theorem State.setTank_pending (s : State) (t : Nat) (v : Int) : (s.setTank t v).pending = s.pending := rfl

/-! ### setThoro -/

@[simp] theorem State.setThoro_objs (s : State) (k : Nat) (x : Thoro) : (s.setThoro k x).objs = s.objs := rfl
@[simp] theorem State.setThoro_power (s : State) (k : Nat) (x : Thoro) : (s.setThoro k x).power = s.power := rfl
@[simp] theorem State.setThoro_time (s : State) (k : Nat) (x : Thoro) : (s.setThoro k x).time = s.time := rfl
@[simp] theorem State.setThoro_lanes (s : State) (k : Nat) (x : Thoro) : (s.setThoro k x).lanes = s.lanes := rfl
@[simp] theorem State.setThoro_remaps (s : State) (k : Nat) (x : Thoro) : (s.setThoro k x).remaps = s.remaps := rfl
@[simp] theorem State.setThoro_ports (s : State) (k : Nat) (x : Thoro) : (s.setThoro k x).ports = s.ports := rfl
@[simp] theorem State.setThoro_switch (s : State) (k : Nat) (x : Thoro) : (s.setThoro k x).switch = s.switch := rfl
@[simp] theorem State.setThoro_pitches (s : State) (k : Nat) (x : Thoro) : (s.setThoro k x).pitches = s.pitches := rfl
@[simp] theorem State.setThoro_service (s : State) (k : Nat) (x : Thoro) : (s.setThoro k x).service = s.service := rfl
@[simp] theorem State.setThoro_coll (s : State) (k : Nat) (x : Thoro) : (s.setThoro k x).coll = s.coll := rfl
@[simp] theorem State.setThoro_update (s : State) (k : Nat) (x : Thoro) : (s.setThoro k x).update = s.update := rfl
@[simp] theorem State.setThoro_arrays (s : State) (k : Nat) (x : Thoro) : (s.setThoro k x).arrays = s.arrays := rfl
@[simp] theorem State.setThoro_mem (s : State) (k : Nat) (x : Thoro) : (s.setThoro k x).mem = s.mem := rfl
@[simp] theorem State.setThoro_custody (s : State) (k : Nat) (x : Thoro) : (s.setThoro k x).custody = s.custody := rfl
@[simp] theorem State.setThoro_warden (s : State) (k : Nat) (x : Thoro) : (s.setThoro k x).warden = s.warden := rfl
@[simp] theorem State.setThoro_ledger (s : State) (k : Nat) (x : Thoro) : (s.setThoro k x).ledger = s.ledger := rfl
@[simp] theorem State.setThoro_dict (s : State) (k : Nat) (x : Thoro) : (s.setThoro k x).dict = s.dict := rfl
@[simp] theorem State.setThoro_host (s : State) (k : Nat) (x : Thoro) : (s.setThoro k x).host = s.host := rfl
@[simp] theorem State.setThoro_free (s : State) (k : Nat) (x : Thoro) : (s.setThoro k x).free = s.free := rfl
@[simp] theorem State.setThoro_out (s : State) (k : Nat) (x : Thoro) : (s.setThoro k x).out = s.out := rfl
@[simp] theorem State.setThoro_pending (s : State) (k : Nat) (x : Thoro) : (s.setThoro k x).pending = s.pending := rfl

/-! ### setPulse -/

@[simp] theorem State.setPulse_objs (s : State) (k : Nat) (x : Pulse) : (s.setPulse k x).objs = s.objs := rfl
@[simp] theorem State.setPulse_power (s : State) (k : Nat) (x : Pulse) : (s.setPulse k x).power = s.power := rfl
@[simp] theorem State.setPulse_optics (s : State) (k : Nat) (x : Pulse) : (s.setPulse k x).optics = s.optics := rfl
@[simp] theorem State.setPulse_lanes (s : State) (k : Nat) (x : Pulse) : (s.setPulse k x).lanes = s.lanes := rfl
@[simp] theorem State.setPulse_remaps (s : State) (k : Nat) (x : Pulse) : (s.setPulse k x).remaps = s.remaps := rfl
@[simp] theorem State.setPulse_ports (s : State) (k : Nat) (x : Pulse) : (s.setPulse k x).ports = s.ports := rfl
@[simp] theorem State.setPulse_switch (s : State) (k : Nat) (x : Pulse) : (s.setPulse k x).switch = s.switch := rfl
@[simp] theorem State.setPulse_pitches (s : State) (k : Nat) (x : Pulse) : (s.setPulse k x).pitches = s.pitches := rfl
@[simp] theorem State.setPulse_service (s : State) (k : Nat) (x : Pulse) : (s.setPulse k x).service = s.service := rfl
@[simp] theorem State.setPulse_coll (s : State) (k : Nat) (x : Pulse) : (s.setPulse k x).coll = s.coll := rfl
@[simp] theorem State.setPulse_update (s : State) (k : Nat) (x : Pulse) : (s.setPulse k x).update = s.update := rfl
@[simp] theorem State.setPulse_arrays (s : State) (k : Nat) (x : Pulse) : (s.setPulse k x).arrays = s.arrays := rfl
@[simp] theorem State.setPulse_mem (s : State) (k : Nat) (x : Pulse) : (s.setPulse k x).mem = s.mem := rfl
@[simp] theorem State.setPulse_custody (s : State) (k : Nat) (x : Pulse) : (s.setPulse k x).custody = s.custody := rfl
@[simp] theorem State.setPulse_warden (s : State) (k : Nat) (x : Pulse) : (s.setPulse k x).warden = s.warden := rfl
@[simp] theorem State.setPulse_ledger (s : State) (k : Nat) (x : Pulse) : (s.setPulse k x).ledger = s.ledger := rfl
@[simp] theorem State.setPulse_dict (s : State) (k : Nat) (x : Pulse) : (s.setPulse k x).dict = s.dict := rfl
@[simp] theorem State.setPulse_host (s : State) (k : Nat) (x : Pulse) : (s.setPulse k x).host = s.host := rfl
@[simp] theorem State.setPulse_free (s : State) (k : Nat) (x : Pulse) : (s.setPulse k x).free = s.free := rfl
@[simp] theorem State.setPulse_out (s : State) (k : Nat) (x : Pulse) : (s.setPulse k x).out = s.out := rfl
@[simp] theorem State.setPulse_pending (s : State) (k : Nat) (x : Pulse) : (s.setPulse k x).pending = s.pending := rfl

/-! ### setTin -/

@[simp] theorem State.setTin_objs (s : State) (j : Nat) (x : TimeInput) : (s.setTin j x).objs = s.objs := rfl
@[simp] theorem State.setTin_power (s : State) (j : Nat) (x : TimeInput) : (s.setTin j x).power = s.power := rfl
@[simp] theorem State.setTin_optics (s : State) (j : Nat) (x : TimeInput) : (s.setTin j x).optics = s.optics := rfl
@[simp] theorem State.setTin_lanes (s : State) (j : Nat) (x : TimeInput) : (s.setTin j x).lanes = s.lanes := rfl
@[simp] theorem State.setTin_remaps (s : State) (j : Nat) (x : TimeInput) : (s.setTin j x).remaps = s.remaps := rfl
@[simp] theorem State.setTin_ports (s : State) (j : Nat) (x : TimeInput) : (s.setTin j x).ports = s.ports := rfl
@[simp] theorem State.setTin_switch (s : State) (j : Nat) (x : TimeInput) : (s.setTin j x).switch = s.switch := rfl
@[simp] theorem State.setTin_pitches (s : State) (j : Nat) (x : TimeInput) : (s.setTin j x).pitches = s.pitches := rfl
@[simp] theorem State.setTin_service (s : State) (j : Nat) (x : TimeInput) : (s.setTin j x).service = s.service := rfl
@[simp] theorem State.setTin_coll (s : State) (j : Nat) (x : TimeInput) : (s.setTin j x).coll = s.coll := rfl
@[simp] theorem State.setTin_update (s : State) (j : Nat) (x : TimeInput) : (s.setTin j x).update = s.update := rfl
@[simp] theorem State.setTin_arrays (s : State) (j : Nat) (x : TimeInput) : (s.setTin j x).arrays = s.arrays := rfl
@[simp] theorem State.setTin_mem (s : State) (j : Nat) (x : TimeInput) : (s.setTin j x).mem = s.mem := rfl
@[simp] theorem State.setTin_custody (s : State) (j : Nat) (x : TimeInput) : (s.setTin j x).custody = s.custody := rfl
@[simp] theorem State.setTin_warden (s : State) (j : Nat) (x : TimeInput) : (s.setTin j x).warden = s.warden := rfl
@[simp] theorem State.setTin_ledger (s : State) (j : Nat) (x : TimeInput) : (s.setTin j x).ledger = s.ledger := rfl
@[simp] theorem State.setTin_dict (s : State) (j : Nat) (x : TimeInput) : (s.setTin j x).dict = s.dict := rfl
@[simp] theorem State.setTin_host (s : State) (j : Nat) (x : TimeInput) : (s.setTin j x).host = s.host := rfl
@[simp] theorem State.setTin_free (s : State) (j : Nat) (x : TimeInput) : (s.setTin j x).free = s.free := rfl
@[simp] theorem State.setTin_out (s : State) (j : Nat) (x : TimeInput) : (s.setTin j x).out = s.out := rfl
@[simp] theorem State.setTin_pending (s : State) (j : Nat) (x : TimeInput) : (s.setTin j x).pending = s.pending := rfl

/-! ### What reads back -/

@[simp] theorem State.port_setPort_self (s : State) (p : Nat) (x : PortSt) : (s.setPort p x).port p = x := Tbl.get_set_same _ _ _ _
theorem State.port_setPort_other (s : State) (p : Nat) (x : PortSt) (q : Nat) (h : q ≠ p) : (s.setPort p x).port q = s.port q :=
  Tbl.get_set_other _ _ _ (h)
@[simp] theorem State.engine_setEngine (s : State) (p : Nat) (x : EngineSt) : (s.setEngine p x).engine p = x := Tbl.get_set_same _ _ _ _
theorem State.engine_setEngine_other (s : State) (p : Nat) (x : EngineSt) (q : Nat) (h : q ≠ p) : (s.setEngine p x).engine q = s.engine q :=
  Tbl.get_set_other _ _ _ (h)
@[simp] theorem State.pack_setPack (s : State) (p : Nat) (x : Pack) : (s.setPack p x).pack p = x := Tbl.get_set_same _ _ _ _
theorem State.pack_setPack_other (s : State) (p : Nat) (x : Pack) (q : Nat) (h : q ≠ p) : (s.setPack p x).pack q = s.pack q :=
  Tbl.get_set_other _ _ _ (h)
@[simp] theorem State.fiber_setFiber (s : State) (p : Nat) (x : FiberSt) : (s.setFiber p x).fiber p = x := Tbl.get_set_same _ _ _ _
theorem State.fiber_setFiber_other (s : State) (p : Nat) (x : FiberSt) (q : Nat) (h : q ≠ p) : (s.setFiber p x).fiber q = s.fiber q :=
  Tbl.get_set_other _ _ _ (h)
@[simp] theorem State.pitch_setPitch (s : State) (p : Nat) (x : PitchSt) : (s.setPitch p x).pitch p = x := Tbl.get_set_same _ _ _ _
theorem State.pitch_setPitch_other (s : State) (p : Nat) (x : PitchSt) (q : Nat) (h : q ≠ p) : (s.setPitch p x).pitch q = s.pitch q :=
  Tbl.get_set_other _ _ _ (h)
@[simp] theorem State.group_setGroup (s : State) (p : Nat) (x : GroupSt) : (s.setGroup p x).group p = x := Tbl.get_set_same _ _ _ _
theorem State.group_setGroup_other (s : State) (p : Nat) (x : GroupSt) (q : Nat) (h : q ≠ p) : (s.setGroup p x).group q = s.group q :=
  Tbl.get_set_other _ _ _ (h)
@[simp] theorem State.runOf_setRun (s : State) (p : Nat) (x : Run) : (s.setRun p x).runOf p = x := Tbl.get_set_same _ _ _ _
theorem State.runOf_setRun_other (s : State) (p : Nat) (x : Run) (q : Nat) (h : q ≠ p) : (s.setRun p x).runOf q = s.runOf q :=
  Tbl.get_set_other _ _ _ (h)
@[simp] theorem State.array_setArray (s : State) (p : Nat) (x : ArraySt) : (s.setArray p x).array p = x := Tbl.get_set_same _ _ _ _
theorem State.array_setArray_other (s : State) (p : Nat) (x : ArraySt) (q : Nat) (h : q ≠ p) : (s.setArray p x).array q = s.array q :=
  Tbl.get_set_other _ _ _ (h)
@[simp] theorem State.chan_setChan (s : State) (p : Nat) (x : ChanSt) : (s.setChan p x).chan p = x := Tbl.get_set_same _ _ _ _
theorem State.chan_setChan_other (s : State) (p : Nat) (x : ChanSt) (q : Nat) (h : q ≠ p) : (s.setChan p x).chan q = s.chan q :=
  Tbl.get_set_other _ _ _ (h)
@[simp] theorem State.pair_setPair (s : State) (p : Nat) (x : Pair) : (s.setPair p x).pair p = x := Tbl.get_set_same _ _ _ _
theorem State.pair_setPair_other (s : State) (p : Nat) (x : Pair) (q : Nat) (h : q ≠ p) : (s.setPair p x).pair q = s.pair q :=
  Tbl.get_set_other _ _ _ (h)
@[simp] theorem State.stall_setStall (s : State) (p : Nat) (x : StallSt) : (s.setStall p x).stall p = x := Tbl.get_set_same _ _ _ _
theorem State.stall_setStall_other (s : State) (p : Nat) (x : StallSt) (q : Nat) (h : q ≠ p) : (s.setStall p x).stall q = s.stall q :=
  Tbl.get_set_other _ _ _ (h)
@[simp] theorem State.slot_setSlot (s : State) (p : Nat) (x : SlotSt) : (s.setSlot p x).slot p = x := Tbl.get_set_same _ _ _ _
theorem State.slot_setSlot_other (s : State) (p : Nat) (x : SlotSt) (q : Nat) (h : q ≠ p) : (s.setSlot p x).slot q = s.slot q :=
  Tbl.get_set_other _ _ _ (h)
@[simp] theorem State.obj_putObj (s : State) (o : Obj) (v : Nat) : (s.putObj o v).obj o = v :=
  Tbl.get_set_same _ _ _ _
theorem State.obj_putObj_other (s : State) (o p : Obj) (v : Nat) (h : p.key ≠ o.key) :
    (s.putObj o v).obj p = s.obj p := Tbl.get_set_other _ _ _ (h)
@[simp] theorem State.thread_setThread (s : State) (t n : Nat) (x : Thread) : (s.setThread t n x).thread t n = x :=
  Tbl.get_set_same _ _ _ _
theorem State.thread_setThread_other (s : State) (t n u m : Nat) (x : Thread) (h : 256 * u + m ≠ 256 * t + n) :
    (s.setThread t n x).thread u m = s.thread u m := Tbl.get_set_other _ _ _ (h)
@[simp] theorem State.team_setTeam (s : State) (t n : Nat) (x : Team) : (s.setTeam t n x).team t n = x :=
  Tbl.get_set_same _ _ _ _

/-- A word that a requester keeps reads back. -/
@[simp] theorem State.req_setReq (s : State) (r : Requester) (x : ReqSt) :
    (s.setReq r x).req r = { x with who := r } := by
  have h : (s.dict.reqs.filter fun y => y.who != r).find? (fun y => y.who == r) = none := by
    rw [List.find?_eq_none]; intro y hy; simpa using (List.mem_filter.mp hy).2
  simp [State.req, State.setReq, List.find?_append, h]

end Sys2Proof.Machine
end

