-- ==== Sys2Proof/Tests/Slice0.lean ====
section
/-! SUPPORT. The model's own tests: terms that are not well formed, and for each statement a concrete state and
operands that meet its hypotheses, with what one command then gives. Expected values come from the rule that
each section names, or are computed by hand from it. -/

namespace Sys2Proof.Tests

open Machine

-- one theorem at a time, so that the check keeps within its memory
set_option Elab.async false

/-- The command answers a next state that passes a check. -/
def holds (r : Result) (p : State → Bool) : Bool :=
  match r with
  | .next t => p t
  | _ => false

/-- A module in service: supplies up, die released, PCIe link up with Bus Master Enable of PF0. -/
def live : State :=
  { power := { state := .service, standby := true, mgmtReady := true, strapsSampled := true, seated := true
               vinMv := 64000, converting := true, precharged := true, railsUp := 0xFFF, pwrOk := true
               released := true, boot := .done, enginesStarted := 4 }
    host := { link := .up, speed := 6, width := 16, busMaster := [0] } }

/-- A module held with its rails up. -/
def held : State := { live with power := { live.power with state := .held, released := false, releaseDue := true } }

/-- The checks of an access to a word object. -/
def acceptsB (r : Requester) (o : Obj) (v : Nat) (s : State) : Bool :=
  s.reaches r && match dictRow (o.key / 256) (o.key % 256) with
    | some row => !row.ty.isTable && !row.ty.long
        && decide ((s.countBar r).precheck r (o.key / 256) (o.key % 256) true = (0, some row))
        && decide ((s.countBar r).writeCode r row (256 * (o.key / 256) + o.key % 256) v = 0)
    | none => false

theorem accepts_of_check {r : Requester} {o : Obj} {v : Nat} {s : State} (h : acceptsB r o v s = true) :
    Accepts r o v s := by
  unfold acceptsB at h
  split at h
  · rename_i row e
    simp only [Bool.and_eq_true, Bool.not_eq_true', decide_eq_true_eq] at h
    exact ⟨h.1, row, e, h.2.1.1.1, h.2.1.1.2, h.2.1.2, h.2.2⟩
  · simp at h

/-- The checks of an access to an object's whole value. -/
def wholeB (r : Requester) (o : Obj) (v : Nat) (s : State) : Bool :=
  s.reaches r && match dictRow (o.key / 256) (o.key % 256) with
    | some row => !row.ty.isTable
        && decide ((s.countBar r).precheck r (o.key / 256) (o.key % 256) true = (0, some row))
        && decide ((s.countBar r).writeCode r row (256 * (o.key / 256) + o.key % 256) v = 0)
    | none => false

theorem acceptsWhole_of_check {r : Requester} {o : Obj} {v : Nat} {s : State} (h : wholeB r o v s = true) :
    AcceptsWhole r o v s := by
  unfold wholeB at h
  split at h
  · rename_i row e
    simp only [Bool.and_eq_true, Bool.not_eq_true', decide_eq_true_eq] at h
    exact ⟨h.1, row, e, h.2.1.1, h.2.1.2, h.2.2⟩
  · simp at h

/-! ### Terms that are not well formed, one for each check of WellFormed.lean -/

theorem test_strap_samples_short : (Instr.strapSampling [0, 0, 0, 0, 0, 0, 0]).wellFormed = false := by decide

theorem test_ptp_domain_too_large (m : PtpMsg) : (Instr.ptpMessage 0 { m with domain := 256 } 0).wellFormed = false := by
  simp [Instr.wellFormed, PtpMsg.wellFormed]

theorem test_ptp_sequence_too_large (m : PtpMsg) :
    (Instr.ptpMessage 0 { m with seqId := 65536 } 0).wellFormed = false := by
  simp [Instr.wellFormed, PtpMsg.wellFormed]

theorem test_ptp_steps_too_large (m : PtpMsg) :
    (Instr.ptpMessage 0 { m with stepsRemoved := 65536 } 0).wellFormed = false := by
  simp [Instr.wellFormed, PtpMsg.wellFormed]

theorem test_pack_without_lasers (x : PackIdentity) :
    (Instr.packInsert 0 { x with refs := [] }).wellFormed = false := by
  simp [Instr.wellFormed, PackIdentity.wellFormed]

theorem test_link_frame_too_long (u : LinkUnit) (f : RawFrame) (bs : List Byte) (h : bs.length = 16385) :
    (Instr.linkUnitReceive 0 { u with frame := some { f with payload := bs } }).wellFormed = false := by
  simp [Instr.wellFormed, LinkUnit.wellFormed, RawFrame.wellFormed, h]

theorem test_custody_message_too_long (m : CustodyMsg) (bs : List Byte) (h : bs.length = 16385) :
    let x : CustodyMsg := { m with body := bs }
    (Instr.custodyHello x).wellFormed = false ∧ (Instr.custodyClose x).wellFormed = false
      ∧ (Instr.custodyDigest x).wellFormed = false ∧ (Instr.custodyCompared x).wellFormed = false
      ∧ (Instr.resyncData x).wellFormed = false ∧ (Instr.resyncAck x).wellFormed = false := by
  simp [Instr.wellFormed, CustodyMsg.wellFormed, h]

theorem test_sweep_without_lines (x : Sweep) : (Instr.wardenDecision { x with lines := [] }).wellFormed = false := by
  simp [Instr.wellFormed, Sweep.wellFormed]

theorem test_sweep_without_engines (x : Sweep) : (Instr.wardenDecision { x with ue := [] }).wellFormed = false := by
  simp [Instr.wellFormed, Sweep.wellFormed]

theorem test_sweep_without_arrays (x : Sweep) : (Instr.wardenDecision { x with array := [] }).wellFormed = false := by
  simp [Instr.wellFormed, Sweep.wellFormed]

theorem test_sweep_without_temperatures (x : Sweep) :
    (Instr.wardenDecision { x with temps := [] }).wellFormed = false := by
  simp [Instr.wellFormed, Sweep.wellFormed]

theorem test_message_too_long_for_management (a : Nat) (bs : List Byte) (h : bs.length = 1401) :
    (Instr.dictionaryMessage (.mgmt a) bs).wellFormed = false := by simp [Instr.wellFormed, h]

theorem test_message_too_long_for_fabric (e : BitVec 20) (bs : List Byte) (h : bs.length = 4097) :
    (Instr.dictionaryMessage (.vc6 e) bs).wellFormed = false := by simp [Instr.wellFormed, h]

theorem test_i3c_write_too_short : (Instr.i3cPrivateWrite [0, 0]).wellFormed = false := by decide

theorem test_i3c_write_too_long (bs : List Byte) (h : bs.length = 2052) :
    (Instr.i3cPrivateWrite bs).wellFormed = false := by simp [Instr.wellFormed, h]

theorem test_descriptor_bubbles_too_large (t : Stall) (i : Fin 32) (e : Upset) :
    (Instr.descriptorComplete t i (2 ^ 64) e).wellFormed = false := by
  simp [Instr.wellFormed]

/-! ### The machine as a whole -/

theorem test_step_takes_the_front : step { live with pending := [.pulseWidthEnd 1, .fenceStall 0] } =
    exec (.pulseWidthEnd 1) { live with pending := [.fenceStall 0] } := rfl

theorem test_idle_tick_advances_time : holds (step live) (fun t => t.time.tb1 != 0) = true := by decide +kernel

theorem test_queue_is_kept : holds (exec (.pulseWidthEnd 1) { live with pending := [.fenceStall 0] })
    (fun t => t.pending == [.fenceStall 0]) = true := by decide +kernel

theorem live_inv : Inv live where
  mem := ⟨by decide, by decide⟩
  dict := ⟨by decide, by decide⟩
  power := ⟨by decide, by decide, by decide, by decide, by decide, by decide, by decide, by decide⟩

theorem test_invariant_and_a_step : Inv live ∧ ∃ t, step live = .next t := ⟨live_inv, _, rfl⟩

theorem test_memory_reads_back : MemOk live.mem ∧ (live.write 62 [1, 0, 3]).read 61 5 = [0, 1, 0, 3, 0]
    ∧ (live.write 62 [1, 0, 3]).mem.cells.length = 2 :=
  ⟨live_inv.mem, by decide +kernel, by decide +kernel⟩

theorem test_families : isUpdateInstr (.ueEnd 0 0 ⟨0, 0, 0, 0, 0, false, false, 0, .none⟩ 0) = true
    ∧ isForwarding (.bankSwitch) = true ∧ isOptical (.lossOfLight 0) = true := by decide

/-! ### Supplies and start-up (03) -/

/-- Standby power alone. -/
def dark : State := { power := { standby := true, strapsSampled := true, mgmtReady := true } }

theorem witness_standby_power_up : State.reset.power.standby = false
    ∧ holds (exec .standbyPowerUp State.reset) (fun t => t.power.standby) = true := by decide +kernel

/-- 03 R85: PLANE 3, POS 0x5A, bell strap 5 (10 µs), budget 7 (2000 W), SECMODE 1, MGMT 2, BOOT 1. -/
theorem test_straps_decode : holds (exec (.strapSampling (List.replicate 8 0x67D5A3))
      { power := { standby := true } }) (fun t => t.power.strapsSampled && t.obj Obj.plane == 3
        && t.obj Obj.pos == 0x5A && t.obj Obj.bellPeriod == 10000 && t.obj Obj.budgetW == 2000
        && t.obj Obj.securityMode == 1 && t.obj Obj.mgmtMode == 2 && t.obj Obj.bootSource == 1) = true := by
  decide +kernel

/-- 03 R84: samples that disagree. -/
theorem test_straps_disagree : holds (exec (.strapSampling [0, 0, 0, 0, 0, 0, 0, 1]) { power := { standby := true } })
    (fun t => t.power.strapUnstable) = true := by decide +kernel

theorem witness_management_ready : let s : State := { dark with power := { dark.power with mgmtReady := false } }
    s.power.standby = true ∧ s.power.strapsSampled = true ∧ s.power.mgmtReady = false
    ∧ holds (exec .managementDomainReady s) (fun t => t.power.mgmtReady && t.power.state == .standby) = true := by
  decide +kernel

/-- 03 R590: the window is 52 V to below 74 V. -/
theorem test_start_window :
    holds (exec (.startConditionsMet 52000 true) dark) (fun t => t.power.converting) = true
    ∧ holds (exec (.startConditionsMet 73999 true) dark) (fun t => t.power.state == .powering) = true
    ∧ holds (exec (.startConditionsMet 51999 true) dark) (fun t => t.power.converting) = false
    ∧ holds (exec (.startConditionsMet 74000 true) dark) (fun t => t.power.converting) = false := by decide +kernel

theorem witness_precharge :
    let s : State := { dark with power := { dark.power with state := .powering, converting := true } }
    holds (exec .prechargeComplete s) (fun t => t.power.precharged) = true := by decide +kernel

theorem witness_rails_up :
    let s : State :=
      { dark with power := { dark.power with state := .powering, converting := true, precharged := true } }
    s.power.railsShorted = 0
    ∧ holds (exec .railsUp s) (fun t => t.power.pwrOk && t.power.state == .held && t.power.releaseDue) = true := by
  decide +kernel

theorem witness_standby_loss : live.power.standby = true
    ∧ holds (exec .standbyLoss live) (fun t => !t.power.standby && t.power.capsule.length == 1) = true := by
  decide +kernel

/-- 03 R78: below 48 V, above 75 V. -/
theorem test_supply_limits :
    holds (exec (.undervoltage 47999) live) (fun t => t.power.stopped && t.obj Obj.uvEvents == 1) = true
    ∧ holds (exec (.overvoltage 75001) live) (fun t => t.power.stopped && t.obj Obj.ovEvents == 1) = true := by
  decide +kernel

theorem witness_blade_seat : live.power.converting = true
    ∧ holds (exec .bladeSeatBreak live) (fun t => !t.power.seated && t.power.capsule.length == 1) = true := by
  decide +kernel

theorem witness_rail_fault : live.power.precharged = true
    ∧ holds (exec (.railFault 11 5) live) (fun t => t.power.state == .latchedFault && t.power.latchCause == 1
      && t.power.railsLatched == 0x800) = true := by decide +kernel

theorem witness_thermal_trip : live.power.pwrOk = true
    ∧ holds (exec (.thermalTrip 63 115001 5) live) (fun t => t.power.latchCause == 2) = true := by decide +kernel

/-- 03 R80: a latched fault. -/
def latched : State := { dark with power := { dark.power with state := .latchedFault, latchCause := 1, seated := true
                                                              vinMv := 64000 } }

theorem witness_power_restart : Accepts (.mgmt .owner 0) Obj.powerRestart 1 latched
    ∧ latched.power.state = .latchedFault
    ∧ holds (exec (.powerRestart (.mgmt .owner 0) 1) latched) (fun t => t.power.state == .powering
        && t.power.latchCause == 0) = true :=
  ⟨accepts_of_check (by decide +kernel), by decide, by decide +kernel⟩

theorem witness_reset_pin : live.power.released = true
    ∧ holds (exec .rstNAssert live) (fun t => t.power.state == .held && !t.power.released && t.power.pwrOk) = true := by
  decide +kernel

theorem witness_reset_pin_release : held.power.state = .held
    ∧ holds (exec .rstNRelease held) (fun t => t.power.rstN && t.power.releaseDue) = true := by decide +kernel

theorem witness_die_release : held.power.state = .held ∧ held.power.releaseDue = true ∧ held.power.pwrOk = true
    ∧ holds (exec .dieRelease (held.putObj Obj.easeWarn 9)) (fun t => t.power.state == .booting
        && t.obj Obj.easeWarn == Obj.easeWarn.dflt && t.obj Obj.budgetW == 1600) = true := by decide +kernel

/-! ### The boot (03, 18) -/

/-- A die that boots, at a stage. -/
def booting (b : BootStage) : State := { live with power := { live.power with state := .booting, boot := b
                                                                              enginesStarted := 0 } }

theorem witness_memory_ready_recovery : let s := (booting .memoryTest).putObj Obj.bootSource 3
    s.power.boot = .memoryTest ∧ s.obj Obj.bootSource = 3
    ∧ holds (exec .memoryReady s) (fun t => t.power.boot == .engines && t.mem.map.n == 128) = true := by decide +kernel

theorem witness_memory_ready_list : let s := (booting .memoryTest).putObj Obj.bootSource 1
    s.obj Obj.bootSource = 1 ∧ s.obj Obj.bootListReady = 0
    ∧ holds (exec .memoryReady s) (fun t => t.power.boot == .waitList) = true := by decide +kernel

theorem witness_memory_ready_store : (booting .memoryTest).obj Obj.bootSource = 0
    ∧ holds (exec .memoryReady (booting .memoryTest)) (fun t => t.power.boot == .engines) = true := by decide +kernel

theorem witness_boot_list_ready : let s := (booting .waitList).putObj Obj.bootSource 2
    Accepts (.mgmt .owner 7) Obj.bootListReady 1 s ∧ s.power.boot = .waitList ∧ s.obj Obj.bootSource = 2
    ∧ holds (exec (.bootListReady (.mgmt .owner 7) 1) s) (fun t => t.power.boot == .engines
        && t.obj Obj.bootListReady == 1) = true :=
  ⟨accepts_of_check (by decide +kernel), by decide, by decide +kernel, by decide +kernel⟩

/-- A store with one bundle to load. -/
def stored : State := { booting .loading with host := { live.host with store := [(5, { state := 1, autoload := true })] } }

theorem witness_boot_bundle : stored.power.boot = .loading ∧ (∃ i, stored.bootItem = some (.store 5, i))
    ∧ holds (exec (.bootBundleLoaded none) stored) (fun t => t.power.bootNext == 6 && t.power.boot == .engines) = true :=
  ⟨by decide, ⟨6, by rfl⟩, by decide +kernel⟩

/-- 18 R564: boot_wait of 2 s has passed 5 ns ago, or has not. -/
theorem test_boot_wait_expiry : let s : State := { booting .waitList with time := { live.time with
      tb1 := 2000000005 * 2 ^ 32 } }
    s.power.boot = .waitList
    ∧ holds (exec .bootWaitExpiry (s.putObj Obj.bootWait 2)) (fun t => t.power.boot == .engines) = true
    ∧ holds (exec .bootWaitExpiry (s.putObj Obj.bootWait 3)) (fun t => t.power.boot == .engines) = false := by
  decide +kernel

theorem witness_engine_start : let s := booting .engines
    s.power.boot = .engines ∧ s.startWaits 0 = false ∧ s.power.enginesStarted = 0 ∧ (s.pack 3).ident = none
    ∧ holds (exec (.engineStartDone 0) s) (fun t => t.power.enginesStarted == 1
        && (t.engine 3).state == .noPack && (t.engine 4).state == .off) = true := by decide +kernel

theorem test_last_engines_give_service : let s : State := { booting .engines with
      power := { (booting .engines).power with enginesStarted := 3 } }
    holds (exec (.engineStartDone 3) s) (fun t => t.power.state == .booting && t.power.boot == .links) = true
    ∧ holds (exec (.engineStartDone 3) { s with ports := [(7, { link := .up })] })
        (fun t => t.power.state == .service && t.power.boot == .done) = true := by
  decide +kernel

/-! ### Time (02) -/

/-- A Sync of one step from source 9: stamp 10 ns, correction 2 ns. -/
def sync : PtpMsg :=
  { kind := .sync, domain := 0, seqId := 1, source := 9, twoStep := false, correction := 2 * 2 ^ 16
    stamp := 10 * 2 ^ 16, requesting := 0, gmRank := 5, stepsRemoved := 1 }

/-- A module with a parent on management lane 1024, the path 3 ns long. -/
def synced : State := { live with time := { live.time with
  parent := some { port := 1024, source := 9, rank := 5, steps := 1, gmTime := 0, seen := 0 }, pathDelay := [(1024, 3 * 2 ^ 16)]
  tb0 := 100 * 2 ^ 32 } }

/-- 02 R42: 40 ns at ingress, less 10, 2 and 3 ns, is an offset of 25 ns: TB0 steps from 100 to 75 ns. -/
theorem test_first_sync_steps : synced.ptpEnabled 1024 = true ∧ sync.domain = synced.obj Obj.ptpDomain
    ∧ synced.fromParent 1024 sync = true ∧ synced.time.tb0Set = false
    ∧ holds (exec (.ptpMessage 1024 sync (40 * 2 ^ 16)) synced) (fun t => t.time.tb0 == 75 * 2 ^ 32
        && t.time.offset == 25 * 2 ^ 16 && t.time.state == .acquiring) = true := by decide +kernel

/-- Some sender is not the module itself, whatever its identity. -/
theorem witness_announce : live.ptpEnabled 1024 = true ∧ live.time.parent = none ∧ live.time.foreign = []
    ∧ live.flag Obj.slaveOnly = true ∧ ∃ c : BitVec 80, c.toNat / 2 ^ 16 ≠ Config.clockIdentity.toNat := by
  refine ⟨by decide +kernel, by decide, by decide, by decide +kernel, ?_⟩
  by_cases h : Config.clockIdentity.toNat = 0
  · exact ⟨65536, by rw [h]; decide⟩
  · exact ⟨0, fun e => h e.symm⟩

theorem witness_transmit : let s := synced.putObj Obj.ptpProfile 1
    s.power.released = true ∧ s.ptpEnabled 1024 = true ∧ s.obj Obj.ptpProfile = 1
    ∧ holds (exec (.ptpTransmit 1024 .pdelayReq) s) (fun t => Tbl.get t.time.delayReq 1024 (0, 0) == (1, 100 * 2 ^ 16)
        && t.out.ptp.any fun x => x.1 == 1024 && x.2.2.take 2 == [2, 0x12]) = true := by decide +kernel

/-- 02 R43: over a fabric port the message is the payload of a time frame on VC6. -/
theorem witness_transmit_on_port : let s := (synced.putObj Obj.ptpProfile 1).setPort 0 { link := .up }
    s.ptpEnabled 0 = true ∧ (s.port 0).link = .up
    ∧ holds (exec (.ptpTransmit 0 .pdelayReq) s) (fun t => (t.port 0).linkOut.any fun f =>
        f.vc == 6 && f.ftype == 11 && f.dest == 0xFFFFF && f.payload.length == 54) = true := by decide +kernel

/-- TB0 is locked. -/
def locked : State := { synced with time := { synced.time with state := .locked, tb0Set := true } }

/-- 02 R51, R69: three announce intervals of 1 s after the latest Announce. -/
theorem witness_announce_timeout : let locked : State := { locked with time := { locked.time with
      tb1 := 3000000000 * 2 ^ 32 } }
    locked.time.parent.isSome = true ∧ locked.time.state = .locked
    ∧ holds (exec .announceTimeout locked) (fun t => t.time.state == .holdover && t.time.tb3 == 100 * 2 ^ 32
        && t.time.parent == none) = true := by decide +kernel

theorem witness_holdover_exceeded : let s : State := { live with time := { live.time with state := .holdover } }
    s.holdError = 10 ∧ holds (exec .holdoverExceeded (s.putObj Obj.holdoverBound 10)) (fun t => t.time.state == .holdover) = true
    ∧ holds (exec .holdoverExceeded (s.putObj Obj.holdoverBound 9)) (fun t => t.time.state == .holdoverExceeded
      && t.power.alerts == [.holdover]) = true := by decide +kernel

set_option maxRecDepth 100000 in
/-- 02 R54: with the period of 2 µs, the boundary after 1 ns is at 2000 ns, and its bell is 1. -/
theorem test_boundary_names_its_bell : let s : State := { live with time := { live.time with tb1 := 2 ^ 32 } }
    let s := s.putObj Obj.bellPeriod 2000
    s.obj Obj.bellSource ≠ 2 ∧ s.time.onTb0 = false ∧ s.time.lastTb1Rung = false ∧ s.time.stepPermitted = false
    ∧ holds (exec .bellBoundary s) (fun t => t.time.tb1 == 2000 * 2 ^ 32 && t.time.bell == 1
        && t.time.rung == 1) = true := by decide +kernel

set_option maxRecDepth 100000 in
theorem witness_tb0_switch : let s : State := { locked with time := { locked.time with lastTb1Rung := true } }
    let s := s.putObj Obj.bellPeriod 2000
    s.time.onTb0 = false ∧ s.time.lastTb1Rung = true
    ∧ holds (exec .tb0Switch s) (fun t => t.time.onTb0 && t.time.tb0 == 2000 * 2 ^ 32 && t.time.bell == 1) = true := by
  decide +kernel

/-- A step of 5 ns that is permitted. -/
def stepping : State := { locked with time := { locked.time with
  onTb0 := true, pendingStep := some (5 * 2 ^ 16), stepPermitted := true } }

set_option maxRecDepth 100000 in
theorem witness_step_apply : let s := stepping.putObj Obj.bellPeriod 2000
    s.time.onTb0 = true ∧ s.time.pendingStep = some (5 * 2 ^ 16) ∧ s.time.stepPermitted = true
    ∧ holds (exec .stepApply s) (fun t => t.time.tb0 == 1995 * 2 ^ 32 && t.time.pendingStep == none) = true := by
  decide +kernel

theorem witness_step_permit : let s : State := { stepping with time := { stepping.time with stepPermitted := false } }
    Accepts .pf0 Obj.stepPermit 1 s ∧ s.time.pendingStep.isSome = true
    ∧ holds (exec (.stepPermit .pf0 1) s) (fun t => t.time.stepPermitted) = true :=
  ⟨accepts_of_check (by decide +kernel), by decide, by decide +kernel⟩

/-- 02 R37: base 2, 3 s and 7 ns. -/
theorem witness_tb2_now : AcceptsWhole .pf0 Obj.tb2Now (7 + 3 * 2 ^ 30 + 2 * 2 ^ 78) live
    ∧ holds (exec (.tb2NowWrite .pf0 (7 + 3 * 2 ^ 30 + 2 * 2 ^ 78)) live)
        (fun t => t.time.tb2 == 3000000007 * 2 ^ 32) = true :=
  ⟨acceptsWhole_of_check (by decide +kernel), by decide +kernel⟩

theorem witness_tb2_rate : Accepts .pf0 Obj.tb2Rate 5 live
    ∧ holds (exec (.tb2RateWrite .pf0 5) live) (fun t => t.obj Obj.tb2Rate == 5) = true :=
  ⟨accepts_of_check (by decide +kernel), by decide +kernel⟩

/-- Pulse output 3 is enabled with a period. -/
def pulsed : State := (locked.putObj (Obj.pulseControl 3) 1).putObj (Obj.pulsePeriod 3) 1000

theorem witness_pulse_fire : bit (pulsed.obj (Obj.pulseControl 3)) 0 = true ∧ pulsed.time.state = .locked
    ∧ (pulsed.pulse 3).active = false ∧ pulsed.obj (Obj.pulsePeriod 3) ≠ 0
    ∧ holds (exec (.pulseFire 3) pulsed) (fun t => (t.pulse 3).active) = true := by decide +kernel

theorem test_pulse_width_end : holds (exec (.pulseWidthEnd 3) (pulsed.setPulse 3 { active := true, fired := true }))
    (fun t => !(t.pulse 3).active && (t.pulse 3).fired) = true := by decide +kernel

theorem witness_pulse_program_enabled : AcceptsWhole .pf0 ⟨0x030020 + 4 * 3 + 2, 80, 0⟩ 500 pulsed
    ∧ bit (pulsed.obj (Obj.pulseControl 3)) 0 = true
    ∧ holds (exec (.pulseProgramWrite .pf0 3 2 500) pulsed) (fun t => t.dict.staged == [(0x03002E, 500)]
        && t.obj (Obj.pulseWidth 3) == 100) = true :=
  ⟨acceptsWhole_of_check (by decide +kernel), by decide +kernel, by decide +kernel⟩

theorem witness_pulse_program_disabled : AcceptsWhole .pf0 (Obj.pulsePeriod 0) 2000 pulsed
    ∧ bit (pulsed.obj (Obj.pulseControl 0)) 0 = false
    ∧ holds (exec (.pulseProgramWrite .pf0 0 1 2000) pulsed) (fun t => t.obj (Obj.pulsePeriod 0) == 2000) = true :=
  ⟨acceptsWhole_of_check (by decide +kernel), by decide +kernel, by decide +kernel⟩

/-- Time input 1 queues edges. -/
def timed : State := live.putObj (Obj.tinMode 1) 1

theorem witness_tin_edge : timed.obj (Obj.tinMode 1) = 1 ∧ (timed.tin 1).last = none
    ∧ holds (exec (.tinEdge 1) timed) (fun t => (t.tin 1).queue.length == 1 && (t.tin 1).last == some 0) = true := by
  decide +kernel

theorem test_full_time_input_loses : let s := timed.setTin 1 { queue := List.replicate 16 (1, 2) }
    holds (exec (.tinEdge 1) s) (fun t => (t.tin 1).lost == 1 && (t.tin 1).queue.length == 16) = true := by
  decide +kernel

/-- The checks of a read. -/
def readsB (r : Requester) (o : Obj) (s : State) : Bool :=
  s.reaches r && match (s.countBar r).precheck r (o.key / 256) (o.key % 256) false with
    | (0, some row) => !row.ty.isTable
    | _ => false

theorem mayRead_of_check {r : Requester} {o : Obj} {s : State} (h : readsB r o s = true) : MayRead r o s := by
  unfold readsB at h
  split at h
  · rename_i row e
    simp only [Bool.and_eq_true, Bool.not_eq_true'] at h
    exact ⟨h.1, row, e, h.2⟩
  · simp at h

theorem witness_tin_capture : let s := timed.setTin 1 { queue := [(5, 6), (7, 8)] }
    MayRead .pf0 (Obj.tinCapture 1) s
    ∧ holds (exec (.tinCaptureRead .pf0 1) s) (fun t => (t.tin 1).queue == [(7, 8)] && t.out.data == 5) = true :=
  ⟨mayRead_of_check (by decide +kernel), by decide +kernel⟩

/-! ### Optics (04; 03 R81) -/

/-- A pack of the accepted type, "DVZ-LP18" (04 R101). -/
def pack : PackIdentity :=
  { packType := BitVec.ofNat 128 0x3831504C2D5A5644, serial := 1, refs := List.replicate 18 5000, ok := true }

/-- Engine 0 runs on a lit pack; moves may be made on fiber 0 in both directions, and TB0 rules. -/
def shining : State := { live with
  time := { live.time with onTb0 := true, bell := 10, rung := 10 }
  optics := { live.optics with
    packs := [(0, { bay := .lit, ident := some pack, lit := 0xFFFF, stage := 5 })], engines := [(0, { state := .running })]
    fibers := [(0, { moveCapable := true }), (64, { moveCapable := true })] } }

theorem test_pack_accepted : (live.pack 15).bay = .empty
    ∧ holds (exec (.packInsert 15 pack) live) (fun t => (t.pack 15).bay == .present) = true
    ∧ holds (exec (.packInsert 15 { pack with ok := false }) live) (fun t => (t.pack 15).bay == .rejected) = true := by
  decide +kernel

/-- 04 R102: the first stage lights six lasers at 4 W. -/
theorem test_pack_first_stage : let s := live.setPack 3 { bay := .present, ident := some pack }
    holds (exec (.packStartStage 3) s) (fun t => (t.pack 3).lit == 0x3F && (t.pack 3).bay == .starting
      && t.warden.spent == 4000) = true := by decide +kernel

theorem test_pack_last_stage : let s := live.setPack 3 { bay := .starting, ident := some pack, stage := 4 }
    (s.pack 3).bay = .starting
    ∧ holds (exec (.packStartStage 3) s) (fun t => (t.pack 3).bay == .lit && (t.engine 3).state == .running) = true := by
  decide +kernel

theorem witness_pack_prepare : Accepts .pf0 (Obj.packControl 0) 1 shining ∧ (shining.pack 0).bay = .lit
    ∧ holds (exec (.packPrepare .pf0 0) shining) (fun t => (t.pack 0).prepareAt == some 11) = true :=
  ⟨accepts_of_check (by decide +kernel), by decide, by decide +kernel⟩

theorem witness_pack_drained : let s := (((shining.setPack 0 { shining.pack 0 with draining := true }).setFiber 3
      { shut := false }).setFiber 4 { shut := false })
    (s.pack 0).draining = true
    ∧ holds (exec (.packPrepareDrainEnd 0) s) (fun t => (t.pack 0).bay == .prepared && (t.pack 0).unlocked
        && (t.fiber 3).shut && !(t.fiber 4).shut) = true := by decide +kernel

theorem witness_pack_cancel :
    let s := shining.setPack 0 { bay := .prepared, unlocked := true }
    Accepts .pf0 (Obj.packControl 0) 2 s ∧ (s.pack 0).bay = .prepared
    ∧ holds (exec (.packCancelPrepare .pf0 0) s) (fun t => (t.pack 0).bay == .starting && (t.fiber 1).shut) = true :=
  ⟨accepts_of_check (by decide +kernel), by decide, by decide +kernel⟩

theorem witness_pack_restart : let s := shining.setPack 1 { bay := .rejected, ident := some pack }
    Accepts .pf0 (Obj.packControl 1) 3 s ∧ (s.pack 1).bay = .rejected ∧ (s.pack 1).ident = some pack
    ∧ packAccepted pack = true
    ∧ holds (exec (.packRestart .pf0 1) s) (fun t => (t.pack 1).bay == .present) = true :=
  ⟨accepts_of_check (by decide +kernel), by decide, by decide, by decide, by decide +kernel⟩

theorem witness_pack_pull : (shining.pack 0).bay = .lit ∧ (shining.port 63).phys ≠ .lent
    ∧ holds (exec (.packPull 0) shining) (fun t => (t.engine 0).state == .noPack && (t.port 63).phys == .dropped
        && (t.port 64).phys == .down && (t.pack 0).bay == .empty) = true := by decide +kernel

theorem witness_pack_removal : let s := shining.setPack 0 { bay := .prepared }
    (s.pack 0).bay = .prepared
    ∧ holds (exec (.preparedPackRemoval 0) s) (fun t => (t.pack 0).bay == .empty) = true := by decide +kernel

/-- 03 R81: loss on RX fiber 63 closes TX shutter 63. -/
theorem test_loss_of_light : (live.fiber (64 + 63)).dark = false
    ∧ holds (exec (.lossOfLight 63) (live.setFiber 63 { shut := false })) (fun t => (t.fiber 63).shut
        && (t.fiber 127).dark && t.obj (Obj.shutterClosures 63) == 1) = true
    ∧ holds (exec (.lossOfLight 63) live) (fun t => (t.fiber 63).shut && t.obj (Obj.shutterClosures 63) == 0) = true := by decide +kernel

/-- A dark pair. -/
def dimmed : State := (live.setFiber 5 { shut := true }).setFiber 69 { dark := true }

theorem test_probe_and_return : (dimmed.fiber 5).shut = true ∧ (dimmed.fiber 69).dark = true
    ∧ holds (exec (.probeBurst 5) dimmed) (fun t => (t.fiber 5).probes == 1) = true
    ∧ holds (exec (.lightRestored 5) dimmed) (fun t => !(t.fiber 5).shut && !(t.fiber 69).dark) = true := by
  decide +kernel

/-- 04 R117 with the defaults: warn at −1.5 dB, fail at −3 dB. -/
theorem test_fade_limits : bit (shining.pack 0).lit 15 = true ∧ shining.obj (Obj.fadeWarn 0) < shining.obj (Obj.fadeFail 0)
    ∧ holds (exec (.fadeWindow 0 15 (1 - (shining.obj (Obj.fadeWarn 0) : Int))) shining)
        (fun t => t.obj (Obj.laserRelPower 0 15) == 2 ^ 64 + 1 - shining.obj (Obj.fadeWarn 0)
          && (t.pack 0).failed == 0) = true
    ∧ holds (exec (.fadeWindow 0 15 (-(shining.obj (Obj.fadeFail 0) : Int))) shining)
        (fun t => (t.pack 0).failed == 0x8000) = true := by decide +kernel

theorem witness_sudden_loss : bit (shining.pack 0).lit 4 = true ∧ bit (shining.pack 0).failed 4 = false
    ∧ shining.carrier 2 false 4 = 4 ∧ shining.portOut (portOn 2 4) = false
    ∧ holds (exec (.suddenLaserLoss 0 4) shining) (fun t => (t.port 36).dropDue && !(t.port 37).dropDue) = true := by
  decide +kernel

/-- 04 R118: the spare is lit, and a wish for a move to it stands. -/
def fading : State :=
  let s := (shining.setEngine 0 { state := .running, on17 := some 4 }).setPack 0 { shining.pack 0 with lit := 0x2FFFF }
  { s with optics := { s.optics with wishes := [{ fiber := 0, rx := false, home := 4, dst := 17, reason := 2, tries := 1
                                                  ns := 0, bell := 0 }] } }

theorem witness_spare_ready : (fading.engine 0).on17 = some 4 ∧ (fading.engine 0).ready17 = false
    ∧ bit (fading.pack 0).lit 17 = true ∧ (∀ w ∈ fading.optics.wishes, fading.wishDead w = false)
    ∧ fading.mayMove 0 false = true ∧ fading.carrierBusy 0 false 17 = false
    ∧ holds (exec (.fadeSpareReady 0 17) fading) (fun t => (t.engine 0).ready17 && t.optics.wishes.isEmpty
        && t.optics.moves.length == 1) = true := by decide +kernel

/-- 00 R3: an empty bay lights nothing. -/
theorem test_no_spare_in_an_empty_bay : let s := fading.setPack 0 {}
    holds (exec (.fadeSpareReady 0 17) s) (fun t => t.optics == s.optics) = true := by decide +kernel

theorem test_ring_excursion : holds (exec (.ringExcursion 2) live) (fun t => t.warden.halfSlew.length == 4
      && Tbl.find t.warden.halfSlew 11 == some 10000000) = true := by decide +kernel

theorem test_slew_halving_end : let s : State := { live with warden := { live.warden with halfSlew := [(7, 1), (8, 1), (9, 2000)] } }
    holds (exec (.slewHalvingEnd 2) (s.putObj Obj.bellPeriod 2000)) (fun t => t.warden.halfSlew == [(7, 1), (9, 2000)]) = true := by decide +kernel

theorem test_dither_fast_end : holds (exec (.ditherLoopFastEnd 1) (live.setEngine 1 { ditherFast := true }))
    (fun t => !(t.engine 1).ditherFast) = true := by decide +kernel

/-! Moves (04 R109 to R113): the partner proposes to move home wavelength 3 from 3 to 16 at bell 12. -/

/-- MOVE_PROPOSE: kind 1, reason 1, home 3, from 3 to 16, token 7, bell 12. -/
def proposal : BitVec 128 := BitVec.ofNat 128 (moveMsg 1 0 1 3 3 16 7 12)

theorem witness_move_propose : bits proposal.toNat 0 4 = 1 ∧ shining.mayMove 0 true = true
    ∧ shining.moveOf 0 true 3 = none ∧ shining.carrier 0 true 3 = 3 ∧ shining.carrierUsed 0 true 16 = false
    ∧ shining.time.bell < 12
    ∧ holds (exec (.movePropose 5 proposal true) shining) (fun t => t.optics.moves.map (fun m => (m.home, m.dst, m.bell, m.rx))
        == [(3, 16, 12, true)]) = true
    ∧ holds (exec (.movePropose 5 proposal false) shining) (fun t => t.obj (Obj.movesFailed 0) == 1
        && t.optics.moves.isEmpty) = true := by decide +kernel

/-- A move of the module's own. -/
def own (st : MoveStage) : Move :=
  { fiber := 0, rx := false, home := 3, src := 3, dst := 17, token := 7, bell := 10, reason := 2, ours := true
    stage := st, since := 8, tries := 1 }

/-- One move is under way. -/
def moving (m : Move) : State := { shining with optics := { shining.optics with moves := [m] } }

theorem witness_move_answers : (moving (own .proposed)).answered 5 (moveMsg 2 0 2 3 3 17 7 10) = some (own .proposed)
    ∧ holds (exec (.moveAccept 5 (BitVec.ofNat 128 (moveMsg 2 0 2 3 3 17 7 10))) (moving (own .proposed)))
        (fun t => t.optics.moves == [own .accepted]) = true
    ∧ holds (exec (.moveRefuse 5 (BitVec.ofNat 128 (moveMsg 3 0 2 3 3 17 7 10))) (moving (own .proposed)))
        (fun t => t.optics.moves.isEmpty && t.optics.retries == [(0, 3)]) = true := by decide +kernel

theorem witness_move_cancel : let s := moving { own .accepted with ours := false }
    holds (exec (.moveCancel 5 (BitVec.ofNat 128 (moveMsg 4 0 2 3 3 17 7 10))) s)
      (fun t => t.optics.moves.isEmpty) = true := by decide +kernel

theorem witness_move_timeout : (moving (own .proposed)).moveOf 0 false 3 = some (own .proposed)
    ∧ holds (exec (.moveAnswerTimeout 0 false 3) (moving (own .proposed)))
        (fun t => t.optics.moves.isEmpty && t.obj (Obj.movesFailed 0) == 1) = true := by decide +kernel

theorem witness_move_ready : (moving (own .accepted)).moveOf 0 false 3 = some (own .accepted)
    ∧ holds (exec (.moveReadinessCheck 0 false 3 true) (moving (own .accepted)))
        (fun t => t.optics.moves == [own .ready]) = true := by decide +kernel

theorem witness_move_switch : (moving (own .ready)).moveOf 0 false 3 = some (own .ready)
    ∧ (own .ready).bell ≤ (moving (own .ready)).time.bell
    ∧ holds (exec (.moveSwitch 0 false 3) (moving (own .ready)))
        (fun t => t.carrier 0 false 3 == 17 && t.carrier 0 false 4 == 4) = true := by decide +kernel

/-- 04 R110: two bells after the move. -/
theorem test_old_carrier : let s := moving { own .switched with bell := 8 }
    holds (exec (.oldCarrierStop 0 false 3) s) (fun t => t.optics.moves.isEmpty) = true
    ∧ holds (exec (.oldCarrierStop 0 false 3) (moving { own .switched with bell := 9 }))
        (fun t => t.optics.moves.isEmpty) = false := by decide +kernel

theorem witness_fade_retry : let s : State := { shining with optics := { shining.optics with
      retries := [(0, 3)], engines := [(0, { state := .running, on17 := some 3, ready17 := true })]
      packs := [(0, { shining.pack 0 with lit := 0x2FFFF })] } }
    s.optics.retries.contains (0, 3) = true ∧ s.spareOf 0 3 = some 17 ∧ s.mayMove 0 false = true
    ∧ s.moveOf 0 false 3 = none
    ∧ holds (exec (.fadeMoveRetry 0 3) s) (fun t => t.optics.retries.isEmpty
        && t.optics.moves.map (fun m => (m.tries, m.dst, m.reason)) == [(2, 17, 2)]) = true := by decide +kernel

/-! Calibration and thoroughfares -/

theorem witness_calibration_skipped : let s := (shining.putObj (Obj.calEnable 0) 1).setFiber 0 {}
    s.flag (Obj.calEnable 0) = true ∧ (s.engine 0).state = .running ∧ s.mayMove 0 false = false
    ∧ holds (exec (.calSlotStart 0 false) s) (fun t => t.obj (Obj.calSkipped 0) == 1) = true := by decide +kernel

theorem witness_calibration_slot : let s := shining.putObj (Obj.calEnable 0) 1
    s.mayMove 0 true = true ∧ (s.engine 0).on16 = none ∧ s.calChoice 0 true = some 0
    ∧ ((upTo 16).find? fun h => s.carrier 0 true h == 16 && !s.portOut (portOn 0 h)) = none
    ∧ holds (exec (.calSlotStart 0 true) s) (fun t => (t.fiber 64).calPhase == .tuning && (t.fiber 64).calNext == 1
        && t.optics.moves.map (fun m => (m.home, m.dst, m.reason)) == [(0, 16, 1)]) = true := by decide +kernel

theorem witness_calibration_dwell : let s := shining.setFiber 64 { calPhase := .moved }
    holds (exec (.calDwellEnd 0 true) s) (fun t => (t.fiber 64).calPhase == .returning) = true := by decide +kernel

/-- Entry 7 of engine 0, from fiber 1 to fiber 2 on wavelength 9, for a token. -/
def entry : Thoro := { scheduled := true, proposed := true, rx := 1, tx := 2, k := 9, token := 5, bell := 10 }

/-- The command that asked for it. -/
def asked (op : Nat) (token : Nat) : TokenRec :=
  { slot := 0, token := token, opcode := op, args := [], crc := 0, status := .busy
    code := 0, taken := 0, effect := 10, final := 0, progress := 0, results := [], acted := false, effectRung := 0 }

/-- A thoroughfare is due. -/
def lending (x : Thoro) : State := { shining with
  optics := { shining.optics with thoros := [(7, x)] }
  dict := { shining.dict with tokens := [asked 0x0C 5] } }

theorem witness_thoroughfare_ready : ((lending entry).thoro 7).scheduled = true
    ∧ ((lending entry).thoro 7).teardown = false
    ∧ holds (exec (.thoroughfareReadinessCheck 0 7 true) (lending entry)) (fun t => (t.thoro 7).tuned) = true
    ∧ holds (exec (.thoroughfareReadinessCheck 0 7 false) (lending entry)) (fun t => t.optics.thoros.isEmpty) = true := by
  decide +kernel

theorem witness_thoroughfare_set_up : let s := lending { entry with acceptA := true, acceptB := true, tuned := true }
    s.reached (some 5) 10 = true ∧ s.thoroCase 0 1 2 9 (some 7) = 0
    ∧ holds (exec (.thoroughfareEffect 0 7) s) (fun t => (t.thoro 7).active && (t.port 25).phys == .lent
        && (t.port 41).phys == .lent && (t.port 26).phys == .down) = true := by decide +kernel

theorem witness_thoroughfare_torn_down :
    let s := (lending { entry with active := true, teardown := true }).setPort 25 { phys := .lent }
    s.reached (some 5) 10 = true
    ∧ holds (exec (.thoroughfareEffect 0 7) s) (fun t => t.optics.thoros.isEmpty && (t.port 25).phys != .lent) = true := by
  decide +kernel

/-! ### Checks: the check values of "123456789" that the catalogues of these CRCs give -/

theorem test_crcs : crc32c [0x31, 0x32, 0x33, 0x34, 0x35, 0x36, 0x37, 0x38, 0x39] = 0xE3069283
    ∧ crc8 [0x31, 0x32, 0x33, 0x34, 0x35, 0x36, 0x37, 0x38, 0x39] = 0xF4
    ∧ crc64 [0x31, 0x32, 0x33, 0x34, 0x35, 0x36, 0x37, 0x38, 0x39] = 0x6C40DF5F0B497347 := by decide +kernel

/-! ### Lanes (05) -/

/-- A control field that asks c(−1) up one, its partner ready, with a merit of 40. -/
def control : BitVec 64 :=
  let w := 1 + 2 ^ 6 + 40 * 2 ^ 8
  BitVec.ofNat 64 (w + crc8 (beBytes 7 w) * 2 ^ 56)

theorem witness_training_frame : controlOk control.toNat = true ∧ bits control.toNat 0 2 = 1
    ∧ bits control.toNat 2 2 = 0 ∧ (live.laneAt (laneKey true 63 17)).state = .idle
    ∧ holds (exec (.trainingFrame 63 17 false ⟨control, none⟩) live) (fun t => let l := t.laneAt (laneKey true 63 17)
        l.cpre == 1 && l.stPre == 0 && l.partnerReady && l.merit == 40 && l.state == .training
          && t.out.control.any fun x => x.1 == laneKey true 63 17 && x.2 % 64 == 31) = true := by
  decide +kernel

/-- 05 R137: at 15/64 a further increase answers that the limit is reached. -/
theorem test_tap_limit : let s := live.setLane (laneKey true 0 0) { state := .training, port := 0, cpre := 15 }
    holds (exec (.trainingFrame 0 0 false ⟨control, none⟩) s) (fun t => (t.laneAt (laneKey true 0 0)).cpre == 15
      && (t.laneAt (laneKey true 0 0)).stPre == 2) = true := by decide +kernel

/-- Lane 3 of stall 1, outward, trains. -/
def trained : State := live.setLane (laneKey false 1 3) {
  state := .training, port := 3, cpre := 5, cpost := 6, search := some { stage := .ended } }

theorem witness_lane_training_done : (trained.laneAt (laneKey false 1 3)).searchEnded = true
    ∧ trained.obj (Obj.meritMin 1) ≤ 200
    ∧ holds (exec (.laneTrainingDone 1 3 false 200) trained) (fun t => let l := t.laneAt (laneKey false 1 3)
        l.state == .inService && l.storedPre == 5 && l.storedPost == 6) = true := by decide +kernel

theorem witness_spare_check : (live.laneAt (laneKey false 1 17)).port = 31
    ∧ holds (exec (.spareMeritCheck 1 17 false 200 0) live) (fun t => (t.laneAt (laneKey false 1 17)).merit == 200
        && (t.laneAt (laneKey false 1 17)).state == .idle) = true
    ∧ holds (exec (.spareMeritCheck 1 17 false 0 0) live) (fun t => (t.laneAt (laneKey false 1 17)).state == .failed) = true := by
  decide +kernel

/-- A lane that works and a spare that is good. -/
def worn : State := (shining.setLane (laneKey false 1 3) { state := .inService, port := 3, merit := 90 }).setLane
  (laneKey false 1 16) { state := .idle, port := 31, merit := 200 }

theorem witness_low_merit : worn.time.onTb0 = true ∧ worn.flag (Obj.autoRemap 1) = true
    ∧ 0 < worn.obj (Obj.meritFloor 1) ∧ worn.remapAllowed 19 false = true
    ∧ worn.spares false 1 = [laneKey false 1 16] ∧ worn.laneOf false 19 = some (laneKey false 1 3)
    ∧ holds (exec (.lowMeritDetected 1 3 false 0) worn) (fun t => t.remaps.map (fun r => (r.port, r.spare, r.old))
        == [(19, laneKey false 1 16, laneKey false 1 3)]
        && (t.laneAt (laneKey false 1 16)).state == .remapPending) = true := by decide +kernel

/-- A remap of port 19, at a stage. -/
def remap (st : RemapStage) : Remap :=
  { port := 19, inward := false, spare := laneKey false 1 16, old := laneKey false 1 3, bell := 10, stage := st
    token := none }

/-- The lanes with that remap. -/
def remapping (st : RemapStage) : State := { worn with remaps := [remap st] }

theorem witness_remap_stages : (remapping .scheduled).remapOf 19 false = some (remap .scheduled)
    ∧ holds (exec (.remapStart 19 false) (remapping .scheduled)) (fun t => t.remaps == [remap .started]) = true
    ∧ holds (exec (.remapReadinessCheck 19 false true) (remapping .started)) (fun t => t.remaps == [remap .ready]) = true := by
  decide +kernel

theorem witness_remap_switch : (remapping .ready).reached none 10 = true ∧ (remap .ready).spare ≠ (remap .ready).old
    ∧ holds (exec (.remapSwitch 19 false) (remapping .ready)) (fun t => (t.laneAt (laneKey false 1 16)).port == 3
        && (t.laneAt (laneKey false 1 3)).port == 31 && t.remaps == [remap .switched]) = true := by decide +kernel

theorem witness_old_lane : holds (exec (.oldLaneIdle 19 false 255) (remapping .switched))
    (fun t => t.remaps.isEmpty && (t.laneAt (laneKey false 1 3)).state == .idle) = true := by decide +kernel

/-! ### Links (05) -/

/-- Port 5 with a link layer of its own. -/
def linked (x : PortSt) : State := shining.setPort 5 x

theorem witness_optical_lock : ((linked { phys := .lanes }).port 5).phys = .lanes
    ∧ holds (exec (.opticalLock 5) (linked { phys := .lanes })) (fun t => (t.port 5).phys == .optical
        && (t.port 5).link == .init && (t.fiber 64).lit) = true := by decide +kernel

theorem witness_link_init : let s := linked { phys := .optical, link := .init, lseq := 9, expect := 7 }
    (s.port (s.portLow 5)).takesInit = true
    ∧ holds (exec (.linkInit 5) s) (fun t => (t.port 5).lseq == 0 && (t.port 5).expect == 0
        && (t.port 5).identitySent && (t.port 5).linkOut.length == 1) = true := by decide +kernel

/-- An identity payload of leaf 0x123, port 0x45, version 1, width 0, payload 4096, plane 0. -/
def identity : BitVec 256 := BitVec.ofNat 256 (1 + 2 ^ 5 + 0x123 * 2 ^ 12 + 0x45 * 2 ^ 24 + 16 * 2 ^ 64)

theorem witness_identity : let s := linked { phys := .optical, link := .init, identitySent := true }
    (s.port (s.portLow 5)).link = .init ∧ bits identity.toNat 0 4 = 1 ∧ bits identity.toNat 48 2 = s.widthOf 5
    ∧ bits identity.toNat 8 4 = s.obj Obj.plane ∧ s.flag (Obj.refclkSpread 0) = false
    ∧ bit (s.obj (Obj.expectedPeer 5)) 31 = false
    ∧ holds (exec (.identityFrame 5 identity) s) (fun t => (t.port 5).link == .up && (t.port 5).joinDue
        && (t.port 5).peerLeaf == some 0x123 && (t.port 5).peerPayload == 4096) = true := by decide +kernel

/-- A link that is up. -/
def upLink : State := linked
  { phys := .optical, link := .up, inBundle := true, identitySent := true, gotIdentity := true
    limits := List.replicate 8 100, sent := List.replicate 8 0, released := List.replicate 8 0
    freed := List.replicate 8 0, reported := List.replicate 8 0 }

/-- A frame of VC2, type 1, with eight bytes. -/
def frame : Frame := { vc := 2, ftype := 1, dest := 0x54321, pitch := 3, length := 8, payload := [1, 2, 3, 4, 5, 6, 7, 8] }

/-- A tag that announces a frame of a number. -/
def frameTag (n : Nat) : BitVec 64 :=
  let body := n * 2 ^ 52 + 2 ^ 22
  BitVec.ofNat 64 (body + crc8 (beBytes 7 (body / 256)))

/-- The frame survives its header (05 R160), and its checks pass. -/
theorem test_frame_header : Frame.ofRaw frame.toRaw = frame ∧ rawHeaderOk frame.toRaw = true
    ∧ rawPayloadOk frame.toRaw = true ∧ frame.typeOk = true := by decide +kernel

theorem witness_unit_received : let u : LinkUnit := { tag := frameTag 0, frame := some frame.toRaw, fecBad := false }
    tagOk u.tag.toNat = true ∧ bit u.tag.toNat 20 = false ∧ bit u.tag.toNat 51 = false
    ∧ (upLink.port 5).nakRun < upLink.obj (Obj.replayLimit 5) ∧ tagLseq u.tag.toNat = (upLink.port 5).expect
    ∧ holds (exec (.linkUnitReceive 5 u) upLink) (fun t => (t.port 5).accepted == [frame] && (t.port 5).expect == 1
        && (t.port 5).ackDue) = true := by decide +kernel

theorem witness_unit_uncorrectable :
    let u : LinkUnit := { tag := frameTag 0, frame := some frame.toRaw, fecBad := true, codewords := [none] }
    (upLink.port 5).nakSent = none
    ∧ holds (exec (.linkUnitReceive 5 u) upLink) (fun t => (t.port 5).nakDue && (t.port 5).accepted.isEmpty
        && t.obj (Obj.fecUncorrectable 5) == 1) = true := by decide +kernel

/-- 05 R145: three corrected symbols of one codeword, in a unit whose tag fails. -/
theorem witness_corrected_codeword : let u : LinkUnit := { tag := 1, frame := none, fecBad := false, codewords := [some 3] }
    tagOk u.tag.toNat = false
    ∧ holds (exec (.linkUnitReceive 5 u) upLink) (fun t => t.obj (Obj.fecCorrected 5) == 3
        && (t.port 5).fecHist.getD 3 0 == 1) = true := by decide +kernel

/-- 05 R152, R154: port 8 of two members keeps the frame after the next. -/
theorem witness_unit_ahead :
    let s := ((upLink.putObj (Obj.portWidth 8) 1).setPort 8 { upLink.port 5 with rot := true }).setPort 9 { phys := .optical, rot := true }
    let u : LinkUnit := { tag := frameTag 1, frame := some frame.toRaw, fecBad := false }
    s.portLow 9 = 8 ∧ 1 < (s.activeMembers 8).length ∧ lseqAhead (s.port 8).expect (tagLseq u.tag.toNat) = true
    ∧ holds (exec (.linkUnitReceive 9 u) s) (fun t => (t.port 8).skew.length == 1 && (t.port 8).accepted.isEmpty
        && !(t.port 8).nakDue) = true := by decide +kernel

theorem witness_init_tags : let s := linked { phys := .optical, link := .init }
    (s.port (s.portLow 5)).identitySent = false
    ∧ holds (exec (.linkUnitSend 5) s) (fun t => t.out.unit == some (5, initTag, none)) = true := by decide +kernel

theorem witness_replay : let s := upLink.setPort 5 { upLink.port 5 with retry := [(7, frame)], replayAt := some 7 }
    (s.port (s.portLow 5)).replayAt = some 7 ∧ ((s.port 5).retry.find? fun e => e.1 == 7) = some (7, frame)
    ∧ holds (exec (.linkUnitSend 5) s) (fun t => (t.out.unit.map fun u => (tagLseq u.2.1, u.2.2)) == some (7, some frame.toRaw)
        && (t.port 5).replayAt == none) = true := by decide +kernel

/-- A runner frame. -/
def runnerUnit : Frame := { frame with vc := 5, ftype := 6 }

theorem witness_runner_first : let s := upLink.setPort 5 { upLink.port 5 with runnerOut := [runnerUnit] }
    (s.port (s.portLow 5)).sending = none ∧ (s.runnerFill 5).runnerReady 5 = some runnerUnit
    ∧ holds (exec (.linkUnitSend 5) s) (fun t => (t.out.unit.map (·.2.2)) == some (some runnerUnit.hopped.toRaw)
        && (t.port 5).lseq == 1) = true := by decide +kernel

theorem test_retrain_causes : upLink.portLow 5 = 5
    ∧ holds (exec (.fecUncorrectableLimit 5) (upLink.setPort 5 { upLink.port 5 with fecBadAt := List.replicate 17 9 }))
        (fun t => (t.port 5).link == .retrain && (t.port 5).leaveDue && (t.port 5).faultSent) = true
    ∧ holds (exec (.fecUncorrectableLimit 5) upLink) (fun t => (t.port 5).link == .up) = true
    ∧ holds (exec (.amLockLoss 5) upLink) (fun t => (t.port 5).link == .retrain) = true
    ∧ holds (exec (.retrainRequest 5) upLink) (fun t => (t.port 5).link == .retrain) = true := by decide +kernel

theorem test_replay_limit : let s := upLink.setPort 5 { upLink.port 5 with nakRun := 8 }
    s.obj (Obj.replayLimit 5) = 8 ∧ s.portLow (s.portLow 5) = s.portLow 5
    ∧ holds (exec (.replayLimitReached 5) s) (fun t => (t.port 5).link == .retrain && (t.port 5).nakRun == 0) = true
    ∧ holds (exec (.replayLimitReached 5) upLink) (fun t => (t.port 5).link == .up) = true := by decide +kernel

theorem witness_retrain : Accepts .pf0 (Obj.retrain 5) 1 upLink ∧ (upLink.port (upLink.portLow 5)).link = .up
    ∧ holds (exec (.retrain .pf0 5 1) upLink) (fun t => (t.port 5).link == .retrain) = true :=
  ⟨accepts_of_check (by decide +kernel), by decide +kernel, by decide +kernel⟩

theorem witness_retrain_complete : let s0 := upLink.setPort 5 { upLink.port 5 with
      link := .retrain, retrainFrom := .up, retry := [(3, frame)], advertised := upLink.creditLimits 5 }
    let s := (s0.setLane (laneKey false 0 5) { state := .inService, port := 5 }).setLane (laneKey true 0 5)
      { state := .inService, port := 5 }
    (s.activeMembers 5).all s.lanesUp = true ∧ s.settingsChanged 5 = false ∧ (s.port 5).retrainFrom ≠ .init
    ∧ holds (exec (.retrainComplete 5) s) (fun t => (t.port 5).link == .up && (t.port 5).replayAt == some 3) = true := by
  decide +kernel

theorem witness_retrain_timeout : let s := upLink.setPort 5 { upLink.port 5 with link := .retrain }
    (s.port (s.portLow 5)).link = .retrain
    ∧ holds (exec (.retrainTimeout 5) s) (fun t => (t.port 5).link == .down && (t.port 5).phys == .lanes) = true := by
  decide +kernel

theorem witness_expected_peer_down : Accepts .pf0 (Obj.expectedPeer 6) 0x80012345 upLink
    ∧ (upLink.port (upLink.portLow 6)).link = .down
    ∧ holds (exec (.expectedPeerWrite .pf0 6 0x80012345) upLink) (fun t => t.obj (Obj.expectedPeer 6) == 0x80012345) = true :=
  ⟨accepts_of_check (by decide +kernel), by decide +kernel, by decide +kernel⟩

theorem witness_expected_peer_wrong : Accepts .pf0 (Obj.expectedPeer 5) 0x80000001 upLink
    ∧ (upLink.port 5).gotIdentity = true ∧ (1 : Nat) ≠ peerOf (upLink.obj (Obj.peerIdentity 5))
    ∧ holds (exec (.expectedPeerWrite .pf0 5 0x80000001) upLink) (fun t => (t.port 5).link == .peerMismatch) = true :=
  ⟨accepts_of_check (by decide +kernel), by decide +kernel, by decide +kernel, by decide +kernel⟩

theorem witness_width_write : Accepts .pf0 (Obj.portWidth 8) 3 shining
    ∧ holds (exec (.widthWrite .pf0 8 3) shining) (fun t => (t.port 8).widthDue == some 3 && t.widthOf 8 == 0) = true :=
  ⟨accepts_of_check (by decide +kernel), by decide +kernel⟩

theorem witness_width_change : let s := shining.setPort 8 { widthDue := some 3 }
    holds (exec (.widthChangeEffect 8) s) (fun t => t.widthOf 8 == 3 && t.portLow 15 == 8 && t.portLow 16 == 16) = true := by
  decide +kernel

/-! ### The switch core (06) and pitches (07) -/

/-- A contribution frame of pitch 0, group 1, sequence 2, chunk 3. -/
def contribution : Frame :=
  { vc := 4, ftype := 3, dest := 0x12345, group := 1, seq := 2, chunk := 3, length := 8, payload := [0, 0, 0, 0, 0, 0, 0, 0] }

theorem witness_unadmitted : let s := shining.setPort 5 { accepted := [frame] }
    (s.port (s.portLow 5)).accepted = [frame] ∧ exempt frame = false ∧ s.pitchAdmitted frame.pitch = false
    ∧ holds (exec (.ingressFrame 5) s) (fun t => t.obj Obj.unadmittedDrops == 1 && (t.port 5).accepted.isEmpty
        && (t.port 5).freed.getD 2 0 == 1) = true := by decide +kernel

theorem witness_contribution : let s := shining.setPort 5 { accepted := [contribution] }
    s.pitchAdmitted contribution.pitch = true ∧ contribution.fromSpine = false
    ∧ unmetered (s.bucketRateOf contribution.pitch 4) = true ∧ (s.share contribution.pitch 4 0).held = []
    ∧ (∀ k < 16, bit (s.obj (Obj.mirrorControl k)) 0 = false)
    ∧ holds (exec (.ingressFrame 5) s) (fun t => t.switch.nextFlight == 1
        && (t.flight 0).map (·.route) == some (.home (s.homeOf 1 2 3)) && t.switch.voq.length == 1) = true := by
  decide +kernel

/-- A flight of one cell. -/
def flight (r : Route) (k : Nat) : Flight := { frame := frame, stall := 1, inPort := none, cls := k, route := r, cells := 1 }

theorem witness_cell_slot : let s : State := { live with switch := { live.switch with
      flights := [(4, flight (.unicast 33 none) 2)], nextFlight := 5, voq := [(voqKey 1 2 2, [4])] } }
    s.flight 4 = some (flight (.unicast 33 none) 2)
    ∧ holds (exec .cellSlot s) (fun t => t.switch.voq.isEmpty && t.switch.xp == [(8 * xpKey 1 2 + 2, [(4, 1)])]
        && t.switch.tillFirst) = true := by decide +kernel

theorem witness_column_drain : let s : State := { live with switch := { live.switch with
      flights := [(4, flight (.home 2) 5)], nextFlight := 5, xp := [(8 * xpKey 1 2 + 5, [(4, 1)])] } }
    holds (exec (.columnDrain 2) s) (fun t => t.switch.xp.isEmpty && t.switch.intake == [(s.homeFor 0 0 0, [(4, 1)])]) = true := by
  decide +kernel

theorem witness_resteer : let s : State := { live with switch := { live.switch with
      flights := [(4, flight (.unicast 33 (some 7)) 2)], nextFlight := 5, xp := [(8 * xpKey 1 2 + 2, [(4, 1)])] } }
    let s := s.putObj (Obj.poolConfig 2 5) (stallWindow 2 + 16 * 2 ^ 48)
    s.portServes 33 = false ∧ s.atOutput 4 33 = true ∧ s.genRoom 2 = true
    ∧ (s.allocService 2 frame.charge).2.isSome = true
    ∧ holds (exec (.resteerFrame 2 4) s) (fun t => t.flight 4 == none) = true := by decide +kernel

/-- 06 R203: an ease of level 2 for 9 bells from leaf 0x123. -/
theorem test_ease_hold : holds (exec (.easeReceived 0x12345 (BitVec.ofNat 128 (2 + 9 * 2 ^ 40))) shining)
      (fun t => Tbl.find t.switch.easeHolds 0x123 == some { level := 2, untilRung := 19 }) = true
    ∧ holds (exec (.easeHoldEnd 0x123) { shining with switch := { shining.switch with
        easeHolds := [(0x123, { level := 2, untilRung := 10 })] } }) (fun t => t.switch.easeHolds.isEmpty) = true
    ∧ holds (exec (.easeHoldEnd 0x123) { shining with switch := { shining.switch with
        easeHolds := [(0x123, { level := 2, untilRung := 11 })] } }) (fun t => t.switch.easeHolds.isEmpty) = false := by
  decide +kernel

theorem witness_policer : let s : State := { shining with switch := { shining.switch with
      flights := [(4, { flight (.unicast 33 none) 2 with hold := .policer })], nextFlight := 5 } }
    let s := s.setShare 0 2 1 { s.share 0 2 1 with held := [4] }
    s.conforms 0 2 1 = true ∧ (s.share 0 2 1).held = [4]
    ∧ holds (exec (.policerRelease 1 0 2) s) (fun t => (t.share 0 2 1).held.isEmpty) = true := by decide +kernel

theorem witness_guard_flow : let s : State := { live with switch := { live.switch with
      flights := [(4, { flight (.unicast 33 none) 2 with hold := .guard 9 })], nextFlight := 5 } }
    s.preCountOf (4096 * 1 + 9) = 0 ∧ (s.guardHeldOf (4096 * 1 + 9)).length = 1
    ∧ holds (exec (.guardFlowRelease 1 9) s) (fun t => t.switch.voq == [(voqKey 1 2 2, [4])]) = true := by decide +kernel

theorem witness_guard_end : let s : State := { shining with switch := { shining.switch with guardEnd := some 10 } }
    holds (exec .drainGuardEnd s) (fun t => t.switch.guardEnd == none) = true := by decide +kernel

/-- A bank switch at bell 10 that has passed, or not yet been checked. -/
def banked (passed : Option Bool) (d : Nat) : State := { shining with
  switch := { shining.switch with switch := some { bell := 10, digest := d, token := 5, passed := passed } }
  dict := { shining.dict with tokens := [asked 0x0E 5] } }

theorem bankDigest_of_tables {s t : State} (h : s.mem = t.mem) (b : Nat) : s.bankDigest b = t.bankDigest b := by
  unfold State.bankDigest State.bankBytes State.readTable; rw [h]

theorem witness_bank_digest (b : BankSwitch) (h : b = { bell := 10, digest := shining.bankDigest 1, token := 5 }) :
    (banked none (shining.bankDigest 1)).switch.switch = some b ∧ b.passed = none
    ∧ (banked none (shining.bankDigest 1)).bankDigest 1 = b.digest := by
  subst h
  exact ⟨rfl, rfl, bankDigest_of_tables (t := shining) rfl 1⟩

/-- With no table written, no member is valid. -/
theorem bankPortsOk_of_empty {s : State} (h : s.mem.tables = []) (b : Nat) : s.bankPortsOk b = true := by
  simp [State.bankPortsOk, State.memberField, State.tableNat, State.readTable, h, readCells, readCell, cellDefault,
    leNat, fieldValid, bit]

theorem witness_bank_ports : (banked none 0).bankPortsOk (1 - (banked none 0).switch.bank) = true :=
  bankPortsOk_of_empty rfl _

theorem witness_bank_switch : (banked (some true) 0).reached (some 5) 10 = true
    ∧ holds (exec .bankSwitch (banked (some true) 0)) (fun t => t.switch.bank == 1 && t.switch.switch == none
        && t.switch.guardEnd == some (10 + t.obj Obj.drainGuard)) = true := by decide +kernel

theorem witness_pool_rebuild : Accepts .pf0 (Obj.poolRebuild 3) 0x101 shining
    ∧ holds (exec (.poolRebuild .pf0 3 0x101) shining) (fun t => (t.pool 3 8).rebuildSince == some 10
        && (t.pool 3 1).rebuildSince == none) = true :=
  ⟨accepts_of_check (by decide +kernel), by decide +kernel⟩

theorem witness_pool_rebuilt : let s := shining.setPool 3 8 { head := none, rebuildSince := some 1 }
    (s.pool 3 8).rebuildSince.isSome = true ∧ (s.pool 3 8).taken = []
    ∧ holds (exec (.poolRebuildDone 3 8) s) (fun t => (t.pool 3 8).rebuildSince == none) = true
    ∧ holds (exec (.poolRebuildAbandon 3 8) { s with time := { s.time with rung := 10001 } })
        (fun t => (t.pool 3 8).rebuildSince == none) = true := by decide +kernel

/-- 07 R213: open books, and bucket 1 from the command with 500; the others from the template. -/
theorem test_admission : let s := shining.setPitch 7 { admission := some [2 ^ 24 + 2 ^ 17, 9, 500] }
    (s.pitch 7).admission = some [2 ^ 24 + 2 ^ 17, 9, 500]
    ∧ holds (exec (.admissionEffect 7) s) (fun t => (t.pitch 7).state == .admitted && t.flag (Obj.openBooks 7)
        && t.obj (Obj.bucketRate 7 1) == 500 && t.obj (Obj.bucketRate 7 0) == t.obj (Obj.defaultRate 0)
        && t.obj (Obj.pitchGeneration 7) == 1) = true := by decide +kernel

theorem witness_release : let s := shining.setPitch 7 { state := .admitted, releaseDue := true, takenRung := 5 }
    (s.pitch 7).releaseDue = true
    ∧ holds (exec (.releaseEffect 7) s) (fun t => (t.pitch 7).state == .releasing && (t.pitch 7).freeAt == some 22) = true := by
  decide +kernel

theorem witness_pitch_free :
    let s := (shining.setPitch 7 { state := .releasing, freeAt := some 10 }).putObj (Obj.leaseCount 7) 5
    holds (exec (.pitchFree 7) s) (fun t => (t.pitch 7).state == .free && t.obj (Obj.leaseCount 7) == 0
      && t.obj (Obj.leaseGeneration 7) == 1) = true := by decide +kernel

/-! ### Service Ethernet (08) -/

/-- A VC7 frame from MAC 2 to MAC 4, of an unknown type. -/
def ethernet : Frame :=
  { vc := 7, ftype := 13, pitch := 0, length := 14, payload := [0, 0, 0, 0, 0, 4, 0, 0, 0, 0, 0, 2, 0x88, 0xB5] }

theorem witness_lookup : let s : State := { shining with service := { shining.service with
      waiting := [(1, [(ethernet, 16)])] } }
    let s := s.putObj (Obj.learnEnable 0) 0
    14 ≤ ethernet.payload.length ∧ s.flag (Obj.learnEnable 0) = false ∧ s.cacheWay 1 0 2 = none ∧ s.cacheWay 1 0 4 = none
    ∧ beNat (ethernet.payload.take 6) = 4
    ∧ holds (exec (.serviceLookup 1) s) (fun t => Tbl.get t.service.waiting 1 [] == []
        && (Tbl.get t.service.lookups 1 []).map (·.stage) == [.chip] && t.obj (Obj.cacheMisses 1) == 1) = true := by
  decide +kernel

/-- A lookup at a stage. -/
def looking (st : LookupStage) : State := { shining with service := { shining.service with
  lookups := [(1, [{ frame := ethernet, inPort := 16, pad := 0, stage := st }])] } }

/-- The lookup of an IPv4 packet that goes to length 24, then 8. -/
def routing : Lookup := { frame := { ethernet with payload := [0, 0, 0, 0, 0, 4, 0, 0, 0, 0, 0, 2, 8, 0] ++ List.replicate 26 7 }
                          inPort := 16, pad := 0, stage := .prefixes [24, 8] }

theorem witness_probe_next :
    let s : State := { shining with service := { shining.service with lookups := [(1, [routing])] } }
    s.probePrefix routing 24 = none
    ∧ holds (exec (.probeReturn 1 0) s)
        (fun t => (Tbl.get t.service.lookups 1 []).map (·.stage) == [.prefixes [8]]) = true := by decide +kernel

theorem witness_probe_unknown : let s := (looking .chip).putObj (Obj.unknownAction 0) 1
    s.chipFind 0 4 = none ∧ s.obj (Obj.unknownAction 0) ≠ 0
    ∧ holds (exec (.probeReturn 1 0) s) (fun t => Tbl.get t.service.lookups 1 [] == []
        && t.obj (Obj.serviceDrops 0) == 1) = true := by decide +kernel

/-- A learned key waits for the chip table. -/
def learning : State := { shining with service := { shining.service with
  inserts := [(1, [{ pitch := 0, mac := 2, endpoint := 0x300, port := 16, seen := 9 }])] } }

theorem witness_chip_insert : MemOk learning.mem
    ∧ learning.segLocked (segOf (chipEntry (macBucket 0 2) 0)) = false ∧ learning.chipFind 0 2 = none
    ∧ ((learning.bucketEntries (macBucket 0 2)).find? fun e => !macValid e.2) = some (chipEntry (macBucket 0 2) 0, 0)
    ∧ holds (exec (.chipTableInsert 1) learning) (fun t => t.obj Obj.chipLearns == 1
        && (t.chipFind 0 2).map (fun e => macEndpoint e.2) == some 0x300) = true :=
  ⟨⟨by decide, by decide⟩, by decide +kernel, by decide +kernel, by decide +kernel, by decide +kernel⟩

theorem witness_stamp : let e : MacEntry := { mac := 2, pitch := 0, isStatic := false, pendingInsert := false
                                              endpoint := 0x300, port := 16, lastSeen := 100000, written := 0, lastTry := 0 }
    let k := cacheKey 1 (macSet 0 2) 0
    let s := (shining.setCache k e).writeNat (chipEntry (macBucket 0 2) 0) 16 (macWord 2 0 false false 0x300 16 7)
    s.cacheWay 1 0 2 = some (k, e) ∧ e.written + s.obj Obj.stampInterval ≤ e.lastSeen
    ∧ s.chipFind 0 2 = some (chipEntry (macBucket 0 2) 0, macWord 2 0 false false 0x300 16 7)
    ∧ holds (exec (.stampWriteback 1 0 2) s) (fun t => (t.chipFind 0 2).map (fun x => macSeen x.2) == some 100000) = true := by
  decide +kernel

/-- 08 R255: segment 8479 is the last. -/
theorem test_segment_lock : Accepts .pf0 Obj.segLock (2 ^ 31 + 8479) shining ∧ shining.segLocked 8479 = false
    ∧ holds (exec (.segLock .pf0 (2 ^ 31 + 8479)) shining) (fun t => (Tbl.find t.service.locks 8479).map (·.holder)
        == some .pf0) = true
    ∧ holds (exec (.segLock .pf0 (2 ^ 31 + 8480)) shining) (fun t => t.out.code == 4) = true :=
  ⟨accepts_of_check (by decide +kernel), by decide +kernel, by decide +kernel, by decide +kernel⟩

/-- PF0 holds segment 0 since bell 1. -/
def lockHeld : State := { shining with service := { shining.service with locks := [(0, { holder := .pf0, since := 1 })] } }

theorem witness_segment_release : Accepts .pf0 Obj.segLock 0 lockHeld
    ∧ (Tbl.find lockHeld.service.locks 0).map (·.holder) = some .pf0
    ∧ holds (exec (.segRelease .pf0 0) lockHeld) (fun t => t.service.locks.isEmpty) = true :=
  ⟨accepts_of_check (by decide +kernel), by decide +kernel, by decide +kernel⟩

theorem witness_segment_expiry : let s := lockHeld.putObj Obj.segLockLimit 9
    (1 : Nat) + s.obj Obj.segLockLimit ≤ s.time.rung
    ∧ holds (exec (.segLockExpiry 0) s) (fun t => t.service.locks.isEmpty && t.obj Obj.lockExpired == 1) = true := by
  decide +kernel

/-! ### Groups, tills and the runner (09, 10) -/

/-- Group 1 of pitch 0: two members on fp32, chunks of two elements. -/
def record : GroupSt :=
  { state := .opened, expected := 2, patience := 100, queueDepth := 4, chunkElements := 2, outFrameData := 8, ports := [16] }

/-- A frame of data from member 0 for chunk 3 of sequence 2: an element of 1.0 at offset 0. -/
def addend : Frame := { contribution with length := 12, payload := [0, 0, 0, 0, 0, 0, 0, 0, 0, 0, 0x80, 0x3F] }

/-- The module with a group, and frames drained into stall 3's intake. -/
def grouped (x : GroupSt) (fs : List Frame) : State :=
  let s := shining.setGroup 1 x
  { s with switch := { s.switch with
      flights := (upTo fs.length).map fun i =>
        (i, { frame := fs.getD i {}, stall := 0, inPort := some 5, cls := 5, route := .home 3, cells := 1, drained := 1 })
      nextFlight := fs.length, intake := [(3, (upTo fs.length).map fun i => (i, 0))] } }

/-- 09 R277: cause 5 before 6 before 7. -/
theorem test_refusal_order :
    (grouped { record with state := .free, pitch := 9, op := 1 } []).refuseCause addend = some 5
    ∧ (grouped { record with state := .closing } []).refuseCause addend = some 5
    ∧ (grouped { record with pitch := 9, op := 1 } []).refuseCause addend = some 6
    ∧ (grouped { record with op := 1 } []).refuseCause addend = some 7
    ∧ (grouped record []).refuseCause addend = none := by decide +kernel

theorem witness_till_refuses : let s := grouped { record with op := 1 } [addend]
    (s.intakeFrames 3 fun f => f.ftype != 5) = [(0, addend)] ∧ addend.ftype = 3 ∧ s.refuseCause addend = some 7
    ∧ holds (exec (.tillIntake ⟨3, .none⟩) s) (fun t => t.coll.ctxs.isEmpty && t.flight 0 == none) = true := by decide +kernel

theorem witness_group_opens : let s0 := grouped { record with state := .scheduled, openAt := 10, token := 5 } []
    let s : State := { s0 with dict := { s0.dict with tokens := [asked 0x03 5] } }
    s.reached (some 5) 10 = true ∧ s.openBroken 1 = none
    ∧ holds (exec (.groupOpenAtG 1) s) (fun t => (t.group 1).state == .opened && t.bitmap 1 1 == 1 && t.bitmap 1 0 == 0) = true := by
  decide +kernel

theorem witness_group_closes : let s0 := grouped record []
    let s : State := { s0 with dict := { s0.dict with tokens := [{ asked 0x04 5 with args := [(0, 1)] }] } }
    (s.group 1).state = .opened ∧ s.dueOn 0x04 0 16 1 = [5]
    ∧ holds (exec (.groupClosingAtC 1) s) (fun t => (t.group 1).state == .closing) = true := by decide +kernel

theorem witness_group_free : let s := grouped { record with state := .closing, generation := 7 } []
    s.groupHolds 1 = false
    ∧ holds (exec (.groupFree 1) s) (fun t => (t.group 1).state == .free && (t.group 1).generation == 7) = true := by
  decide +kernel

/-- The open of member 1 for an instance of 3 chunks. -/
def opening : Frame := { contribution with ftype := 5, length := 8, payload := [1, 0, 3, 0, 0, 0, 0, 0] }

theorem witness_open_frame : let s := grouped record [opening]
    (s.intakeFrames 3 fun f => f.ftype == 5 && f.op != 1) = [(0, opening)] ∧ (1 : Nat) < record.expected
    ∧ s.qEntry 1 2 = none ∧ record.completed 2 = false ∧ (s.queueOf 1).length < record.queueDepth
    ∧ holds (exec (.groupOpenFrame 3) s) (fun t => (t.queueOf 1).map (fun e => (e.seq, e.chunks, e.members))
        == [(2, 3, [1])] && t.flight 0 == none) = true := by decide +kernel

/-- An entry of the queue of group 1. -/
def entryOf (st : QState) : QEntry :=
  { seq := 2, chunks := 3, state := st, poisoned := false, members := [0, 1], done := 0, firstBell := 4, firstRung := 4 }

/-- The group with that entry. -/
def queued (x : GroupSt) (st : QState) : State := (grouped x []).setQueue 1 [entryOf st]

theorem witness_barrier_deadline : let s := queued { record with kind := 4, patience := 6 } .opening
    s.qEntry 1 2 = some (entryOf .opening) ∧ s.barrierDue 1 (entryOf .opening) = true := by
  decide +kernel

theorem witness_done : let s0 := queued record .assembled
    let s : State := { s0 with coll := { s0.coll with donePosts := [(1, 2)] } }
    s.qEntry 1 2 = some (entryOf .assembled) ∧ (entryOf .assembled).done + 1 < (entryOf .assembled).chunks
    ∧ holds (exec (.doneIncrement 1 2) s) (fun t => (t.qEntry 1 2).map (·.done) == some 1 && t.coll.donePosts.isEmpty) = true := by
  decide +kernel

/-- A context of chunk 3 of sequence 2, or its staged chunk. -/
def context (st : CtxStage) : Ctx :=
  { group := 1, seq := 2, chunk := 3, generation := 0, home := 3, buffer := none, pool := 0, poolStall := 3
    reserved := false, stage := st, bornRung := 4, lastMembers := [0] }

/-- The group with that context. -/
def reducing (x : GroupSt) (st : CtxStage) : State :=
  let s := grouped x []
  { s with coll := { s.coll with ctxs := [context st] } }

theorem witness_sink_post : let s := reducing { record with kind := 1, sinkSlots := 2 } .staged
    s.pairOfGroup 1 = none ∧ s.sinkRoom 1 3 = true
    ∧ holds (exec (.sinkPost 1 2 3) s) (fun t => (t.sinkOf 1 3).map (·.chunk) == [3] && t.coll.ctxs.isEmpty
        && t.coll.donePosts == [(1, 2)]) = true := by decide +kernel

/-- 09 R278: the first frame of a chunk makes its context, with its four bytes. -/
theorem test_context_made : let s := grouped record [addend]
    s.refuseCause addend = none ∧ s.ctxOf 1 2 3 = none ∧ s.keptOf 1 2 3 = none ∧ prefMember addend.collWord = 0
    ∧ addend.last = false ∧ ((s.intakeDone 3 0).newCtx 3 1 2 3 record.ctxBytes false).2 = true
    ∧ holds (exec (.tillIntake ⟨3, .none⟩) s) (fun t => (t.ctxOf 1 2 3).map (fun c => (c.bytes, c.home, c.lasts))
        == some (4, 3, 0)) = true := by decide +kernel

theorem witness_output_pass : (reducing record .passing).ctxOf 1 2 3 = some (context .passing) := by
  decide +kernel

theorem witness_receipt_deadline : let s := (reducing { record with patience := 6 } .accumulating).putObj Obj.keptHold 5
    s.ctxOf 1 2 3 = some (context .accumulating) ∧ s.ctxDue (context .accumulating) = true
    ∧ (s.group 1).sinks = false ∧ s.obj Obj.keptHold ≠ 0 := by
  decide +kernel

/-- A kept-partial record. -/
def kept : Kept :=
  { group := 1, generation := 0, seq := 2, chunk := 3, till := 3, held := true, lateWindow := true, members := [0]
    deadline := 4, deadlineRung := 4, buffer := none, pool := 0, poolStall := 3, reserved := false, late := 0 }

theorem witness_kept : let s0 := grouped record []
    let s1 : State := { s0 with coll := { s0.coll with kept := [(4095, kept)] } }
    let s := (s1.putObj Obj.retryQuiet 6).putObj Obj.keptHold 6
    Tbl.find s.coll.kept 4095 = some kept ∧ kept.deadlineRung + s.obj Obj.retryQuiet ≤ s.time.rung
    ∧ kept.deadlineRung + s.obj Obj.keptHold ≤ s.time.rung
    ∧ holds (exec (.lateWindowEnd 4095) s) (fun t => (Tbl.find t.coll.kept 4095).map (·.lateWindow) == some false) = true
    ∧ holds (exec (.keptPartialRelease 4095) s) (fun t => (Tbl.find t.coll.kept 4095).map (·.held) == some false) = true := by
  decide +kernel

/-- An abort of member 1. -/
def aborting : Frame := { opening with op := 1 }

theorem witness_abort_frame : let s := grouped record [aborting]
    (s.intakeFrames 3 fun f => f.ftype == 5 && f.op == 1) = [(0, aborting)]
    ∧ holds (exec (.abortFrame 3) s) (fun t => t.coll.aborts == [{ group := 1, seq := 2, source := 0, opens := 0, rung := 10 }]) = true := by
  decide +kernel

theorem witness_abort_apply : let s0 := queued record .opening
    let s : State := { s0 with coll := { s0.coll with aborts := [{ group := 1, seq := 2, source := 0, opens := 1, rung := 9 }] } }
    s.abortCtxs 1 2 = [] ∧ s.roundOf 1 2 = none ∧ (s.group 1).completed 2 = false ∧ (s.group 1).sinks = false
    ∧ s.qEntry 1 2 = some (entryOf .opening)
    ∧ holds (exec (.abortApply 1 2) s) (fun t => (t.group 1).aborted == [2] && t.coll.aborts.isEmpty
        && (t.qEntry 1 2).map (·.state) == some .aborted) = true := by decide +kernel

/-- A runner frame of member 0: one element of 1.0. -/
def runner : Frame := { addend with vc := 5, ftype := 7 }

/-- Port 5 with a runner frame that waits or not. -/
def running (w : RunnerWait) : State := (grouped record []).setPort 5 { runnerIn := [runner], runnerWait := w }

theorem witness_runner : (running .none).runnerRefusal runner = none ∧ (running .none).roundOf 1 2 = none
    ∧ unmetered ((running .none).bucketRateOf 0 5) = true ∧ unpoliced runner = false ∧ runner.heartbeat = false
    ∧ (running .none).roundsAt record.ghome < 64
    ∧ holds (exec (.runnerFrame ⟨5, .none⟩) (running .none)) (fun t => t.coll.rounds.map (fun r => (r.seq, r.members, r.elements))
        == [(2, [0], 1)]) = true
    ∧ holds (exec (.runnerWaitResume ⟨5, .none⟩) (running .context)) (fun t => t.coll.rounds.length == 1
        && (t.port 5).runnerWait == .none) = true
    ∧ holds (exec (.runnerWaitResume ⟨5, .none⟩) ((running .bucket).setShare 0 5 0
        { (running .bucket).share 0 5 0 with held := [5] }))
        (fun t => t.coll.rounds.length == 1 && (t.share 0 5 0).held.isEmpty) = true := by decide +kernel

/-- 07 R222, 10 R311: a bucket of rate 0 holds the frame at the head of its queue. -/
theorem witness_runner_held : let s := (running .none).putObj (Obj.bucketRate 0 5) 0
    s.bucketRateOf 0 5 = 0 ∧ s.bucketDrops 0 5 = false
    ∧ holds (exec (.runnerFrame ⟨5, .none⟩) s) (fun t => (t.port 5).runnerWait == .bucket && (t.share 0 5 0).held == [5]
        && (t.port 5).runnerIn.length == 1) = true := by decide +kernel

/-- A round that runs since bell 4. -/
def round : Round := { group := 1, seq := 2, home := 0, elements := 1, acc := [], members := [0], bornRung := 4 }

/-- The group with that round. -/
def rounds : State :=
  let s := grouped { record with patience := 6 } []
  { s with coll := { s.coll with rounds := [round] } }

theorem witness_runner_deadlines : rounds.roundOf 1 2 = some round ∧ round.running = true
    ∧ round.bornRung + rounds.dueBells ≤ rounds.time.rung
    ∧ holds (exec (.runnerDue 1 2) rounds) (fun t => (t.roundOf 1 2).map (·.late) == some true
        && t.obj Obj.runnerLate == 1) = true := by decide +kernel

theorem witness_runner_patience : rounds.roundOf 1 2 = some round ∧ round.running = true
    ∧ round.bornRung + (rounds.group round.group).patience ≤ rounds.time.rung := by decide +kernel

theorem witness_heartbeat_send : let s := (shining.putObj Obj.heartbeatInterval 10).putObj Obj.heartbeatPeers 5
    s.coll.heartbeatAt + s.obj Obj.heartbeatInterval ≤ s.time.rung
    ∧ holds (exec .heartbeatSend s) (fun t => t.coll.heartbeatAt == 10 && t.coll.heartbeats == 2) = true := by
  decide +kernel

/-- A heartbeat of plane 0 from POS 0x21 to POS 0. -/
def heartbeat : Frame :=
  { vc := 5, ftype := 7, flags := 3, dest := 0, length := 8, payload := leBytes 8 (0x21 * 2 ^ 4) }

theorem witness_heartbeat : let s := shining.setPort 5 { runnerIn := [heartbeat] }
    heartbeat.heartbeat = true ∧ bits heartbeat.body 0 4 = s.obj Obj.plane ∧ heartbeat.dest % 256 = s.obj Obj.pos
    ∧ holds (exec (.heartbeatReceive 5) s) (fun t => t.tableNat Obj.heartbeatLast.key (8 * 0x21) 8 == 10) = true := by
  decide +kernel

/-! ### Update instructions (11 R336, R361 to R366) -/

/-- A running thread of run 3 at the second word of its program, with values in x1, x2, v1, v2 and m1. -/
def thread : Thread :=
  { state := .running, run := 3, team := 5, pc := 0x1008, charge := 7
    x := [(1, 12), (2, BitVec.allOnes 64), (3, 0x10000), (4, 64), (5, 0x10100), (6, 0x20000000ABC0)]
    v := [(32, 0x3F800000), (33, 0x40000000), (64, 0x40400000), (65, 8)], m := [(1, 3), (2, 5), (3, 4)] }

/-- Run 3, on program slot 3, with grants of 64 KiB of the module's memory and of host memory. -/
def run : Run :=
  { state := .running, slot := 3, pitch := 0, teams := 1, stalls := 1
    grants := [{ base := 0x10000, length := 0x10000, rd := true, wr := true, atomic := true },
      { base := 0x200000000000, length := 0x10000, rd := true, wr := true, atomic := false }] }

/-- The program of slot 3. -/
def program : Program := { id := 77, signer := 0, identity := 0, svn := 0, bytes := 4096, declared := 0, base := 0x1000 }

/-- A module whose stall 2 runs that thread as thread 5. -/
def threaded (x : Thread) : State := { shining with
  update := { threads := [(517, x)], teams := [(517, {})], programs := [(3, program)], runs := [(3, run)] } }

/-- Fields of an instruction. -/
def fields (d a b : Fin 32) (imm : BitVec 32) (t : Fin 16 := 0) (m : Fin 8 := 0) (s : Bool := false) (r : Bool := false) :
    InsnFields := { d, a, b, m, t, s, r, imm }

/-- Register d of the thread after an instruction. -/
def gave (r : Result) (d : Nat) (w : Word) : Bool := holds r fun t => (t.thread 2 5).xr d == w && (t.thread 2 5).pc == 0x1010

/-- Lane i of register d of the thread after an instruction. -/
def gaveLane (r : Result) (d i : Nat) (w : Lane) : Bool :=
  holds r fun t => (t.thread 2 5).lane d i == w && (t.thread 2 5).pc == 0x1010

theorem witness_scalar_forms : let s := threaded thread
    CanIssue s 2 5 (fields 7 1 2 0) { d := .x, a := .x, b := .x }
    ∧ CanIssue s 2 5 (fields 7 1 0 0xFFFFFFF0) { d := .x, a := .x, imm := .full }
    ∧ CanIssue s 2 5 (fields 7 0 0 0x80000000) { d := .x, imm := .full }
    ∧ CanIssue s 2 5 (fields 7 1 2 0x20000000) { d := .x, a := .x, b := .x, imm := .regX }
    ∧ CanIssue s 2 5 (fields 7 1 0 0) { d := .x, a := .x }
    ∧ CanIssue s 2 5 (fields 7 1 0 0) { d := .x, a := .x, imm := .below 3 }
    ∧ CanIssue s 2 5 (fields 7 1 0 1) { d := .x, a := .x, imm := .below 3 }
    ∧ CanIssue s 2 5 (fields 7 1 0 2) { d := .x, a := .x, imm := .below 3 } := by
  unfold CanIssue
  decide +kernel

/-- 11 R361: arithmetic wraps; shifts take six bits; division by 0. -/
theorem test_scalar_results : let s := threaded thread
    gave (exec (.ueAdd 2 5 (fields 7 1 2 0)) s) 7 11 = true ∧ gave (exec (.ueSub 2 5 (fields 7 0 1 0)) s) 7 (-12) = true
    ∧ gave (exec (.ueMul 2 5 (fields 7 1 2 0)) s) 7 (-12) = true
    ∧ gave (exec (.ueDivu 2 5 (fields 7 1 0 0)) s) 7 (BitVec.allOnes 64) = true
    ∧ gave (exec (.ueRemu 2 5 (fields 7 1 0 0)) s) 7 12 = true
    ∧ gave (exec (.ueDivu 2 5 (fields 7 2 1 0)) s) 7 0x1555555555555555 = true
    ∧ gave (exec (.ueRemu 2 5 (fields 7 2 1 0)) s) 7 3 = true
    ∧ gave (exec (.ueShl 2 5 (fields 7 1 4 0)) s) 7 12 = true
    ∧ gave (exec (.ueShr 2 5 (fields 7 2 1 0)) s) 7 0xFFFFFFFFFFFFF = true
    ∧ gave (exec (.ueSra 2 5 (fields 7 2 1 0)) s) 7 (BitVec.allOnes 64) = true
    ∧ gave (exec (.ueSlt 2 5 (fields 7 2 1 0)) s) 7 1 = true ∧ gave (exec (.ueSltu 2 5 (fields 7 2 1 0)) s) 7 0 = true
    ∧ gave (exec (.ueMin 2 5 (fields 7 2 1 0)) s) 7 (BitVec.allOnes 64) = true
    ∧ gave (exec (.ueMax 2 5 (fields 7 2 1 0)) s) 7 12 = true
    ∧ gave (exec (.ueAdd 2 5 (fields 0 1 2 0)) s) 0 0 = true := by decide +kernel

/-- 11 R361: immediates are sign-extended; LHI keeps the low half. -/
theorem test_immediates : let s := threaded thread
    gave (exec (.ueAddi 2 5 (fields 7 1 0 0xFFFFFFF0)) s) 7 (-4) = true
    ∧ gave (exec (.ueAndi 2 5 (fields 7 2 0 0x80000000)) s) 7 0xFFFFFFFF80000000 = true
    ∧ gave (exec (.ueLdi 2 5 (fields 7 0 0 0x80000000)) s) 7 0xFFFFFFFF80000000 = true
    ∧ gave (exec (.ueLhi 2 5 (fields 7 1 0 0xABCD0000)) s) 7 0xABCD00000000000C = true := by decide +kernel

/-- fp32 by hand: 1 + 2 = 3; 1/3 rounds to 3EAAAAAB; sqrt 4 = 2; 12 converts to 41400000. -/
theorem test_fp_results :
    let s := threaded { thread with x := [(1, 0x3F800000), (2, 0x40400000), (3, 0x40000000), (4, 0x40800000), (5, 12)] }
    gave (exec (.ueFadd 2 5 (fields 7 1 3 0)) s) 7 0x40400000 = true
    ∧ gave (exec (.ueFsub 2 5 (fields 7 1 3 0)) s) 7 0xBF800000 = true
    ∧ gave (exec (.ueFdiv 2 5 (fields 7 1 2 0)) s) 7 0x3EAAAAAB = true
    ∧ gave (exec (.ueFsqrt 2 5 (fields 7 4 0 0)) s) 7 0x40000000 = true
    ∧ gave (exec (.ueFfma 2 5 (fields 7 2 3 0x08000000)) s) 7 0x40E00000 = true
    ∧ gave (exec (.ueFcvt 2 5 (fields 7 5 0 0)) s) 7 0x41400000 = true
    ∧ gave (exec (.ueFcvt 2 5 (fields 7 2 0 1)) s) 7 3 = true
    ∧ gave (exec (.ueFlt 2 5 (fields 7 1 3 0)) s) 7 1 = true := by decide +kernel

theorem witness_control_forms : let s := threaded thread
    CanIssue s 2 5 (fields 0 0 0 0) {} ∧ CanIssue s 2 5 (fields 0 0 0 47) { imm := .below 48 }
    ∧ CanIssue s 2 5 (fields 7 0 0 12) { d := .x, imm := .below 13 }
    ∧ CanIssue s 2 5 (fields 7 0 0 9) { d := .x, imm := .below 13 }
    ∧ CanIssue s 2 5 (fields 0 1 2 4 5) { a := .x, b := .x, types := [0, 1, 2, 3, 4, 5], imm := .full }
    ∧ CanIssue s 2 5 (fields 0 1 2 4 0) { a := .x, b := .x, types := [0, 1, 2, 3, 4, 5], imm := .full }
    ∧ CanIssue s 2 5 (fields 7 0 0 4) { d := .x, imm := .full }
    ∧ CanIssue s 2 5 (fields 7 1 0 4) { d := .x, a := .x, imm := .full }
    ∧ CanIssue s 2 5 (fields 7 1 0 5) { d := .x, a := .x, imm := .full } := by
  unfold CanIssue
  decide +kernel

/-- The thread's pc after an instruction. -/
def went (r : Result) (pc : Nat) : Bool := holds r fun t => (t.thread 2 5).pc == BitVec.ofNat 48 pc

/-- 11 R362: targets count in words from the instruction; JR's target is a byte address. -/
theorem test_branches : let s := threaded thread
    went (exec (.ueBr 2 5 (fields 0 1 2 4 1)) s) 0x1028 = true
    ∧ went (exec (.ueBr 2 5 (fields 0 1 2 4 0)) s) 0x1010 = true
    ∧ went (exec (.ueBr 2 5 (fields 0 2 1 0xFFFFFFFF 2)) s) 0x1000 = true
    ∧ went (exec (.ueBr 2 5 (fields 0 2 1 4 4)) s) 0x1010 = true
    ∧ went (exec (.ueJal 2 5 (fields 7 0 0 4)) s) 0x1028 = true
    ∧ went (exec (.ueJr 2 5 (fields 7 1 0 4)) s) 0x10 = true
    ∧ holds (exec (.ueJr 2 5 (fields 7 1 0 5)) s) (fun t => (t.thread 2 5).state == .halted && (t.thread 2 5).fault == 1) = true
    ∧ gave (exec (.ueCsrr 2 5 (fields 7 0 0 0)) s) 7 10 = true
    ∧ gave (exec (.ueCsrr 2 5 (fields 7 0 0 9)) s) 7 77 = true := by decide +kernel

theorem witness_vector_forms : let s := threaded thread
    CanIssue s 2 5 (fields 3 1 2 0 0 1) { d := .v, a := .v, b := .vs, mask := true }
    ∧ CanIssue s 2 5 (fields 3 1 1 0 0 1 true) { d := .v, a := .v, b := .vs, mask := true }
    ∧ CanIssue s 2 5 (fields 3 1 2 0x10000000 0 1) { d := .v, a := .v, b := .vs, mask := true, imm := .regV }
    ∧ CanIssue s 2 5 (fields 3 1 0 0 0 1) { d := .v, a := .v, mask := true }
    ∧ CanIssue s 2 5 (fields 3 1 2 2 0 1) { d := .v, a := .v, b := .vs, mask := true, imm := .below 8 }
    ∧ CanIssue s 2 5 (fields 3 1 0 2 0 1) { d := .v, a := .v, mask := true, imm := .below 3 }
    ∧ CanIssue s 2 5 (fields 3 1 2 0 11 1) { d := .v, a := .v, b := .vs, mask := true, types := [0, 9, 11] }
    ∧ CanIssue s 2 5 (fields 3 1 2 0 9 1) { d := .v, a := .v, b := .vs, mask := true, types := [9, 11] }
    ∧ CanIssue s 2 5 (fields 3 0 0 7 0 1) { d := .v, mask := true, types := [0, 9, 11], imm := .full }
    ∧ CanIssue s 2 5 (fields 3 1 0 0 0 1) { d := .v, a := .x, mask := true, types := [0, 9, 11] }
    ∧ CanIssue s 2 5 (fields 3 1 0 1 0 1) { d := .v, a := .x, mask := true, types := [0, 9, 11], imm := .below 32 } := by
  unfold CanIssue
  decide +kernel

/-- 11 R360: lanes 0 and 1 are enabled by m1, lane 0 alone of m2's lanes 0 and 2. -/
theorem test_vector_results : let s := threaded thread
    gaveLane (exec (.ueVadd 2 5 (fields 3 1 2 0 0 1)) s) 3 0 0x40800000 = true
    ∧ gaveLane (exec (.ueVadd 2 5 (fields 1 1 2 0 0 2)) s) 1 1 0x40000000 = true
    ∧ gaveLane (exec (.ueVabs 2 5 (fields 3 1 0 0 0 1)) s) 3 1 0x40000000 = true
    ∧ gaveLane (exec (.ueVneg 2 5 (fields 3 1 0 0 0 1)) s) 3 1 0xC0000000 = true
    ∧ gaveLane (exec (.ueVsel 2 5 (fields 3 1 2 2 0 1)) s) 3 1 8 = true
    ∧ gaveLane (exec (.ueViadd 2 5 (fields 3 1 2 0 0 1)) s) 3 1 0x40000008 = true
    ∧ gaveLane (exec (.ueVshl 2 5 (fields 3 2 2 0 0 1)) s) 3 1 0x800 = true
    ∧ gaveLane (exec (.ueVshr 2 5 (fields 3 1 2 0 11 1)) s) 3 1 0x400000 = true
    ∧ gaveLane (exec (.ueVlane 2 5 (fields 3 0 0 7 0 1)) s) 3 1 8 = true
    ∧ gaveLane (exec (.ueVbcast 2 5 (fields 3 1 0 0 0 1)) s) 3 1 12 = true
    ∧ gaveLane (exec (.ueVins 2 5 (fields 3 1 0 1 0 1)) s) 3 1 12 = true
    ∧ gaveLane (exec (.ueVins 2 5 (fields 3 1 0 1 0 2)) s) 3 1 0 = true
    ∧ gaveLane (exec (.ueVperm 2 5 (fields 3 1 4 0 0 1 true)) s) 3 1 0x3F800000 = true := by decide +kernel

theorem witness_mask_forms : let s := threaded thread
    CanIssue s 2 5 (fields 3 1 2 0 0 1) { d := .m, a := .v, b := .vs, mask := true, imm := .below 4 }
    ∧ CanIssue s 2 5 (fields 3 1 2 1 9 1) { d := .m, a := .v, b := .vs, mask := true, types := [9, 11], imm := .below 3 }
    ∧ CanIssue s 2 5 (fields 4 1 0 0 0 0) (mmovForm 0) ∧ CanIssue s 2 5 (fields 4 1 0 1 0 0) (mmovForm 1)
    ∧ CanIssue s 2 5 (fields 4 1 2 2 0 0) (mmovForm 2) ∧ CanIssue s 2 5 (fields 4 1 2 3 0 0) (mmovForm 3)
    ∧ CanIssue s 2 5 (fields 4 1 2 4 0 0) (mmovForm 4)
    ∧ CanIssue s 2 5 (fields 7 1 0 1 9 1) { d := .x, a := .v, mask := true, types := [9, 11], imm := .below 32 }
    ∧ CanIssue s 2 5 (fields 7 1 0 3 0 1) { d := .x, a := .v, mask := true, imm := .below 4 }
    ∧ (s.thread 2 5).mask 1 ≠ 0 ∧ (s.thread 2 5).mask 5 = 0
    ∧ (∀ j < 32, ((s.thread 2 5).mask 3).getLsbD j = decide (j = 2)) := by
  unfold CanIssue
  decide +kernel

/-- Mask d of the thread after an instruction. -/
def gaveMask (r : Result) (d : Nat) (w : BitVec 32) : Bool := holds r fun t => (t.thread 2 5).mask d == w

/-- 11 R363: comparisons and moves of masks; sums of lanes. -/
theorem test_mask_results : let s := threaded thread
    gaveMask (exec (.ueVfcmp 2 5 (fields 3 1 2 0 0 1)) s) 3 4 = true
    ∧ gaveMask (exec (.ueVicmp 2 5 (fields 3 1 2 1 9 1)) s) 3 5 = true
    ∧ gaveMask (exec (.ueMmov 2 5 (fields 4 1 0 0)) s) 4 12 = true ∧ gave (exec (.ueMmov 2 5 (fields 7 1 0 1)) s) 7 3 = true
    ∧ gaveMask (exec (.ueMmov 2 5 (fields 4 1 2 2)) s) 4 1 = true ∧ gaveMask (exec (.ueMmov 2 5 (fields 4 1 2 3)) s) 4 7 = true
    ∧ gaveMask (exec (.ueMmov 2 5 (fields 4 1 2 4)) s) 4 2 = true
    ∧ gaveMask (exec (.ueMmov 2 5 (fields 0 1 2 3)) s) 0 (BitVec.allOnes 32) = true
    ∧ gave (exec (.ueVext 2 5 (fields 7 1 0 1 9 1)) s) 7 0x40000000 = true
    ∧ gave (exec (.ueVred 2 5 (fields 7 1 0 3 0 1)) s) 7 0x7F800000 = true := by decide +kernel

/-- Bytes of 64 KiB at 0x10000 as they stand, with a word at 0x10008. -/
def loaded (x : Thread) : State := (threaded x).write 0x10008 [0xFF, 0xFE, 0xFD, 0xFC]

theorem witness_loads : let s := loaded thread
    let x := s.thread 2 5
    let f := fields 7 3 0 8 9
    let v := fields 4 3 0 0 9 1
    CanIssue s 2 5 f { d := .x, a := .x, types := [0, 9, 10, 11, 12, 13], imm := .full }
    ∧ s.piecesFault 2 5 x .read 0x50 4 [{ addr := 0x10008, bytes := 4 }] .none = none
    ∧ CanIssue s 2 5 v { d := .v, a := .x, mask := true, types := [0, 1, 2, 3, 4, 9, 11], imm := .full }
    ∧ s.piecesFault 2 5 x .read 0x52 4 (spanPieces 0x10000 4 (x.active 1)) .none = none
    ∧ CanIssue s 2 5 (fields 4 3 4 0 9 1) { d := .v, a := .x, b := .x, mask := true, types := [0, 1, 2, 3, 4, 9, 11] }
    ∧ s.piecesFault 2 5 x .read 0x55 4 (lanePieces 4 (fun i => 0x10000 + 64 * i) (x.active 1)) .none = none
    ∧ CanIssue s 2 5 (fields 4 3 4 0 9 1 true) { d := .v, a := .x, b := .vs, mask := true, types := [0, 1, 2, 3, 4, 9, 11] }
    ∧ s.piecesFault 2 5 x .read 0x57 4 (lanePieces 4 (fun _ => 0x10040) (x.active 1)) .none = none
    ∧ CanIssue s 2 5 (fields 4 3 0 2 5 1) { d := .v, a := .x, mask := true, types := [5, 6, 7, 8], imm := .below 16 }
    ∧ s.piecesFault 2 5 x .read 0x53 4 [{ addr := 0x10002, bytes := 8 + 3 * (4 * packedBits 5) - 2, lanes := x.active 1 }] .none = none
    ∧ CanIssue s 2 5 (fields 7 6 0 0xFFFF5440 9) { d := .x, a := .x, types := [0, 9, 10, 11, 12, 13], imm := .full }
    ∧ isHost 0x200000000000 = true ∧ s.hostRoom 2 1 = true
    ∧ s.piecesFault 2 5 x .read 0x50 4 [{ addr := 0x200000000000, bytes := 4 }] .none = none := by
  unfold CanIssue
  decide +kernel

/-- 11 R364: a signed load extends its element; a load of the host window waits. -/
theorem test_loads : let s := loaded thread
    gave (exec (.ueLd 2 5 (fields 7 3 0 8 9)) s) 7 0xFFFFFFFFFCFDFEFF = true
    ∧ gave (exec (.ueLd 2 5 (fields 7 3 0 8 11)) s) 7 0xFCFDFEFF = true
    ∧ gave (exec (.ueLd 2 5 (fields 7 3 0 9 12)) s) 7 0xFE = true
    ∧ holds (exec (.ueLd 2 5 (fields 7 6 0 0xFFFF5440 9)) s) (fun t => (t.thread 2 5).wait == .host 0
        && t.host.reqs.map (fun r => (r.addr, r.bytes)) == [(0, 4)]) = true := by decide +kernel

theorem witness_mirror_load : let s := threaded { thread with x := [(1, 0x300000080000)] }
    CanIssue s 2 5 (fields 7 1 0 8 10) { d := .x, a := .x, types := [0, 9, 10, 11, 12, 13], imm := .full }
    ∧ isMirror 0x300000080008 = true
    ∧ s.piecesFault 2 5 (s.thread 2 5) .read 0x50 8 [{ addr := 0x300000080008, bytes := 8 }] .none = none := by
  unfold CanIssue
  decide +kernel

theorem witness_stores : let s := threaded thread
    let x := s.thread 2 5
    CanIssue s 2 5 (fields 2 3 0 8 9) { d := .x, a := .x, types := [0, 9, 10, 11, 12, 13], imm := .full }
    ∧ isHost 0x10008 = false ∧ s.inHole 0x10008 = false
    ∧ s.piecesFault 2 5 x .write 0x51 1 [{ addr := 0x10008, bytes := 4 }] .none = none
    ∧ CanIssue s 2 5 (fields 2 6 0 0xFFFF5440 9) { d := .x, a := .x, types := [0, 9, 10, 11, 12, 13], imm := .full }
    ∧ isHost 0x200000000000 = true
    ∧ s.piecesFault 2 5 x .write 0x51 1 [{ addr := 0x200000000000, bytes := 4 }] .none = none
    ∧ CanIssue s 2 5 (fields 1 3 0 0 9 1 false true)
      { d := .v, a := .x, mask := true, types := [0, 1, 2, 3, 4, 9, 11], round := true, imm := .full }
    ∧ s.piecesFault 2 5 x .write 0x54 1 (spanPieces 0x10000 4 (x.active 1)) .none = none
    ∧ CanIssue s 2 5 (fields 1 3 4 0 9 1) { d := .v, a := .x, b := .x, mask := true, types := [0, 1, 2, 3, 4, 9, 11], round := true }
    ∧ s.piecesFault 2 5 x .write 0x56 1 (lanePieces 4 (fun i => 0x10000 + 64 * i) (x.active 1)) .none = none
    ∧ CanIssue s 2 5 (fields 1 3 4 0 9 1 true) { d := .v, a := .x, b := .vs, mask := true, types := [0, 1, 2, 3, 4, 9, 11], round := true }
    ∧ s.piecesFault 2 5 x .write 0x58 1 (lanePieces 4 (fun _ => 0x10040) (x.active 1)) .none = none
    ∧ (∀ i ∈ x.active 1, s.inHole (0x10000 + 64 * i) = false ∧ isHost (0x10000 + 64 * i) = false) := by
  unfold CanIssue
  decide +kernel

/-- 11 R364: bytes little-endian; only enabled lanes store. -/
theorem test_stores : let s := threaded thread
    holds (exec (.ueSt 2 5 (fields 1 3 0 8 13)) s) (fun t => t.read 0x10008 4 == [12, 0, 0, 0]) = true
    ∧ holds (exec (.ueVst 2 5 (fields 1 3 0 0 9 1)) s) (fun t => t.readNat 0x10000 8 == 0x400000003F800000
        && t.readNat 0x10008 4 == 0) = true
    ∧ holds (exec (.ueSt 2 5 (fields 1 6 0 0xFFFF5440 9)) s) (fun t => t.out.hostWrite == some (0, [12, 0, 0, 0])) = true := by
  decide +kernel

theorem witness_atomics : let s := loaded thread
    let x := s.thread 2 5
    CanIssue s 2 5 (fields 7 3 1 0 10) { d := .x, a := .x, b := .x, types := [0, 1, 9, 10] }
    ∧ CanIssue s 2 5 (fields 7 3 1 0 10) { d := .x, a := .x, b := .x, types := [0, 9, 10, 11] }
    ∧ CanIssue s 2 5 (fields 7 3 1 0 10) { d := .x, a := .x, b := .x, types := [10] }
    ∧ CanIssue s 2 5 (fields 7 3 1 0x10000000 10) { d := .x, a := .x, b := .x, types := [10], imm := .regX }
    ∧ s.inHole 0x10000 = false ∧ s.piecesFault 2 5 x .atomic 0x70 8 [{ addr := 0x10000, bytes := 8 }] .none = none
    ∧ CanIssue s 2 5 (fields 0 3 1 0 9 1) { a := .x, b := .vs, mask := true, types := [0, 1, 9] }
    ∧ s.piecesFault 2 5 x .atomic 0x75 4 (spanPieces 0x10000 4 (x.active 1)) .none = none := by
  unfold CanIssue
  decide +kernel

/-- 11 R364: the old value comes back, the new one is loaded. -/
theorem test_atomics : let s := loaded { thread with x := [(1, 1), (3, 0x10008)] }
    holds (exec (.ueAadd 2 5 (fields 7 3 1 0 9)) s) (fun t => (t.thread 2 5).xr 7 == 0xFFFFFFFFFCFDFEFF
      && t.readNat 0x10008 4 == 0xFCFDFF00) = true
    ∧ holds (exec (.ueAmax 2 5 (fields 7 3 1 0 9)) s) (fun t => t.readNat 0x10008 4 == 1) = true
    ∧ holds (exec (.ueAmax 2 5 (fields 7 3 1 0 11)) s) (fun t => t.readNat 0x10008 4 == 0xFCFDFEFF) = true
    ∧ holds (exec (.ueAcas 2 5 (fields 7 3 1 0 10)) s) (fun t => t.readNat 0x10008 8 == 0xFCFDFEFF) = true := by
  decide +kernel

theorem witness_block_moves : let s := loaded { thread with x := [(1, 0x10000), (2, 0x10100), (3, 64), (6, 0x200000000040)] }
    let x := s.thread 2 5
    CanIssue s 2 5 (fields 2 1 3 7) { d := .x, a := .x, b := .x, imm := .below 8 }
    ∧ s.mayAccess 2 5 x .read 0x10000 64 = true ∧ s.mayAccess 2 5 x .write 0x10100 64 = true ∧ isHost 0x10000 = false
    ∧ CanIssue s 2 5 (fields 2 6 3 7) { d := .x, a := .x, b := .x, imm := .below 8 }
    ∧ s.mayAccess 2 5 x .read 0x200000000040 64 = true ∧ isHost 0x200000000040 = true ∧ s.hostRoom 2 1 = true
    ∧ s.hostOpen = true
    ∧ holds (exec (.ueBmov 2 5 (fields 2 1 3 7)) s) (fun t => t.update.moves.length == 1
        && Tbl.get (t.thread 2 5).counters 7 (0, 0) == (1, 0)) = true := by
  unfold CanIssue
  decide +kernel

/-- A move of 64 bytes from 0x10000 to 0x10100. -/
def move : BlockMove :=
  { stall := 2, thread := 5, counter := 7, src := 0x10000, dst := 0x10100, bytes := 64
    req := none, hostData := none, hostError := false }

theorem witness_block_move_completes :
    let s0 := loaded { thread with counters := [(7, (1, 0))] }
    let s : State := { s0 with update := { s0.update with moves := [move] } }
    s.nextMove 2 5 = some move ∧ (∀ k < 1, s.readBad (move.src + 64 * k) 64 = false)
    ∧ (∀ k < 64, s.inHole (move.dst + k) = false)
    ∧ holds (exec (.bmovComplete 2 5) s) (fun t => t.readNat 0x10108 4 == 0xFCFDFEFF
        && Tbl.get (t.thread 2 5).counters 7 (0, 0) == (0, 0) && t.update.moves.isEmpty) = true := by
  decide +kernel

theorem test_canonical_memory : MemOk (loaded thread).mem := ⟨by decide +kernel, by decide +kernel⟩

/-! ### Threads (11 R338 to R372) and matrix arrays (12) -/

theorem witness_instruction_faults :
    issuer (.ueNop 2 5 (fields 0 0 0 0)) = some (2, 5)
    ∧ (threaded { thread with wait := .host 1 }).thread 2 5 = { thread with wait := .host 1 }
    ∧ ({ thread with wait := .host 1 } : Thread).issues = false ∧ thread.issues = true
    ∧ (threaded { thread with pc := 0x2000 }).fetchOk { thread with pc := 0x2000 } = false
    ∧ (threaded thread).fetchOk thread = true ∧ (threaded thread).fetchBad thread = false
    ∧ (let s0 := threaded thread
       let s : State := { s0 with mem := { s0.mem with poison := [0x40] } }
       s.fetchOk thread = true ∧ s.fetchBad thread = true)
    ∧ CanIssue (threaded thread) 2 5 (fields 7 1 0 0 9) { d := .x, a := .x, types := [0, 9, 10, 11, 12, 13], imm := .full }
    ∧ ((thread.xr 1 + 0 : Word).toNat % memBytes 9 = 0)
    ∧ CanIssue (threaded thread) 2 5 (fields 7 1 0 1 9) { d := .x, a := .x, types := [0, 9, 10, 11, 12, 13], imm := .full }
    ∧ ((thread.xr 1 + 1 : Word).toNat % memBytes 9 ≠ 0) ∧ isMirror 12 = false
    ∧ (threaded thread).mayAccess 2 5 thread .read 12 4 = false ∧ (threaded thread).mayAccess 2 5 thread .write 12 4 = false := by
  unfold CanIssue
  decide +kernel

/-- 11 R372: an illegal type, a misaligned load and one without a grant. -/
theorem test_faults : let s := threaded thread
    let code := fun (r : Result) => holds r fun t => (t.thread 2 5).state == .halted && (t.thread 2 5).pc == 0x1008
      && (Tbl.find t.update.faults 0).map (fun f => (f.code, f.address)) == some (1, 0)
    let access := fun (r : Result) (k a : Nat) => holds r fun t =>
      (Tbl.find t.update.faults 0).map (fun f => (f.code, f.address)) == some (k, a)
    code (exec (.ueAdd 2 5 (fields 7 1 2 0 1)) s) = true
    ∧ access (exec (.ueLd 2 5 (fields 7 1 0 1 9)) s) 3 13 = true
    ∧ access (exec (.ueLd 2 5 (fields 7 1 0 0 9)) s) 2 12 = true
    ∧ access (exec (.ueSt 2 5 (fields 7 3 0 0x10000 9)) s) 2 0x20000 = true
    ∧ access (exec (.ueNop 2 5 (fields 0 0 0 0)) (threaded { thread with pc := 0x2000 })) 8 0 = true := by
  decide +kernel

/-- 11 R371: a residue mismatch sets the team's flag and is counted, and the instruction runs; a parity error of the
registers is a fault of code 5. 13 R405: an error of the stall's own window that is not corrected faults a load of it. -/
theorem test_upsets : let s := threaded { thread with x := [(1, BitVec.ofNat 64 (stallWindow 2)), (2, 3)] }
    let hit := fun (f : InsnFields) (u : Upset) => { f with upset := u }
    AtInsn s 2 5
    ∧ holds (exec (.ueAdd 2 5 (hit (fields 7 2 2 0) .residue)) s) (fun t => (t.thread 2 5).xr 7 == 6
        && (t.team 2 5).residue && t.obj Obj.ueResidueErrors == 1 && t.obj (Obj.ueResidueStall 2) == 1) = true
    ∧ holds (exec (.ueAdd 2 5 (hit (fields 7 2 2 0) .parity)) s) (fun t => (t.thread 2 5).fault == 5) = true
    ∧ holds (exec (.ueLd 2 5 (hit (fields 7 1 0 0 9) .uncorrectable)) s) (fun t => (t.thread 2 5).fault == 5) = true := by
  unfold AtInsn
  decide +kernel

/-- A team of two: threads 4 and 5 of stall 2. -/
def paired (a b : Thread) : State :=
  let s := threaded { b with team := 4, teamSize := 2 }
  { s with update := { s.update with
      threads := [(516, { a with run := 3, team := 4, teamSize := 2 }), (517, { b with team := 4, teamSize := 2 })]
      teams := [(516, { size := 2 })] } }

theorem witness_barrier_waits : let s := paired { state := .running } thread
    let x := s.thread 2 5
    CanIssue s 2 5 (fields 7 0 0 0) { d := .x }
    ∧ (∃ k ∈ x.members, k ≠ 5 ∧ (s.thread 2 k).departed = false ∧ (s.thread 2 k).state ≠ .halted
      ∧ (s.thread 2 k).state ≠ .free ∧ k ∉ (s.team 2 x.team).barrier)
    ∧ holds (exec (.ueTsync 2 5 (fields 7 0 0 0)) s) (fun t => (t.thread 2 5).wait == .barrier 7) = true := by
  unfold CanIssue
  decide +kernel

theorem witness_barrier_opens : let s := paired { state := .halted } thread
    let x := s.thread 2 5
    CanIssue s 2 5 (fields 7 0 0 0) { d := .x }
    ∧ (∀ k ∈ x.members, k ≠ 5 → (s.thread 2 k).departed = true ∨ (s.thread 2 k).state = .halted
      ∨ (s.thread 2 k).state = .free ∨ k ∈ (s.team 2 x.team).barrier)
    ∧ gave (exec (.ueTsync 2 5 (fields 7 0 0 0)) s) 7 1 = true := by
  unfold CanIssue
  decide +kernel

theorem witness_bell_waits : let s := threaded { thread with x := [(1, 10), (2, 11)] }
    CanIssue s 2 5 (fields 7 1 0 0) { d := .x, a := .x } ∧ ((10 : Nat) ≤ s.time.bell ∧ s.time.bell < 11)
    ∧ s.stopping 3 = false ∧ s.away 2 = false ∧ CanIssue s 2 5 (fields 7 2 0 0) { d := .x, a := .x }
    ∧ gave (exec (.ueBellw 2 5 (fields 7 1 0 0) 3) s) 7 10 = true
    ∧ holds (exec (.ueBellw 2 5 (fields 7 2 0 0) 3) s) (fun t => (t.thread 2 5).wait == .bell 11 7
        && t.tankOf 2 == 4) = true := by
  unfold CanIssue
  decide +kernel

theorem witness_location_waits : let s := threaded { thread with x := [(1, BitVec.ofNat 64 (stallWindow 2 + 8)), (2, 1)] }
    CanIssue s 2 5 (fields 0 1 0 0) { a := .x, b := .x } ∧ CanIssue s 2 5 (fields 0 1 2 0) { a := .x, b := .x }
    ∧ s.readBad (stallWindow 2 + 8) 8 = false ∧ s.readNat (stallWindow 2 + 8) 8 = 0
    ∧ s.stopping 3 = false ∧ s.away 2 = false
    ∧ holds (exec (.ueWaitm 2 5 (fields 0 1 0 0) 3) s) (fun t => (t.thread 2 5).state == .ready) = true
    ∧ holds (exec (.ueWaitm 2 5 (fields 0 1 2 0) 3) s) (fun t => (t.thread 2 5).wait == .location (stallWindow 2 + 8) 1) = true := by
  unfold CanIssue
  decide +kernel

theorem witness_yield : let s := threaded thread
    let o := s.setStall 2 { s.stall 2 with out := true }
    CanIssue s 2 5 (fields 0 0 0 0) {} ∧ s.stopping 3 = false ∧ s.away 2 = false
    ∧ CanIssue o 2 5 (fields 0 0 0 0) {} ∧ o.stopping 3 = false ∧ o.away 2 = true
    ∧ holds (exec (.ueYield 2 5 (fields 0 0 0 0) 3) s) (fun t => Tbl.get t.update.ready 2 [] == [5]) = true
    ∧ holds (exec (.ueYield 2 5 (fields 0 0 0 0) 3) o) (fun t => (t.thread 2 5).state == .parked) = true := by
  unfold CanIssue
  decide +kernel

theorem witness_end_departs : let s := paired { state := .running } thread
    CanIssue s 2 5 (fields 0 0 0 0) {} ∧ 4 ∈ (s.thread 2 5).members ∧ (s.thread 2 4).departed = false
    ∧ (s.thread 2 4).state ≠ .free
    ∧ holds (exec (.ueEnd 2 5 (fields 0 0 0 0) 3) s) (fun t => (t.thread 2 5).departed && (t.thread 2 4).state == .running) = true := by
  unfold CanIssue
  decide +kernel

theorem witness_last_end : let s := threaded thread
    CanIssue s 2 5 (fields 0 0 0 0) {} ∧ 5 ∈ (s.thread 2 thread.team).members
    ∧ (∀ k ∈ thread.members, k ≠ 5 → (s.thread 2 k).departed = true)
    ∧ holds (exec (.ueEnd 2 5 (fields 0 0 0 0) 3) s) (fun t => (t.thread 2 5).state == .free) = true := by
  unfold CanIssue
  decide +kernel

theorem witness_counter_waits : let s := threaded { thread with counters := [(6, (0, 9)), (7, (1, 0))] }
    CanIssue s 2 5 (fields 7 0 0 6) { d := .x, imm := .below 8 } ∧ CanIssue s 2 5 (fields 7 0 0 7) { d := .x, imm := .below 8 }
    ∧ gave (exec (.ueKwait 2 5 (fields 7 0 0 6)) s) 7 9 = true
    ∧ holds (exec (.ueKwait 2 5 (fields 7 0 0 7)) s) (fun t => (t.thread 2 5).wait == .counter 7 7) = true := by
  unfold CanIssue
  decide +kernel

/-- An entry in a sink queue: chunk 3 of instance 2. -/
def posted : SinkEntry :=
  { addr := 0x10000, receipt := 0x10040, seq := 2, chunk := 3, instanceEnd := true, aborted := false, elements := 2, bytes := 8 }

/-- Stall 2 with group 1's queue, and the thread. -/
def sinking (q : List SinkEntry) (x : Thread) : State :=
  let s := (threaded x).setGroup 1 { record with kind := 1 }
  s.setSink 1 2 q

theorem witness_take_one : let s := sinking [posted] { thread with x := [(1, 1)] }
    CanIssue s 2 5 (fields 7 1 0 0) { d := .x, a := .x } ∧ s.foreign 2 5 1 = false ∧ s.takers 2 (s.thread 2 5) = []
    ∧ s.stopping 3 = false ∧ (s.thread 2 5).members = [5] ∧ s.sinkOf 1 2 = [posted]
    ∧ holds (exec (.ueTake 2 5 (fields 7 1 0 0) 3) s) (fun t => (t.thread 2 5).xr 7 == 0x10000
        && (t.thread 2 5).state == .ready && (t.sinkOf 1 2).isEmpty) = true := by
  unfold CanIssue
  decide +kernel

theorem witness_take_gathers : let s0 := paired { state := .running } { thread with x := [(1, 1)] }
    let s := s0.setGroup 1 { record with kind := 1 }
    CanIssue s 2 5 (fields 7 1 0 0) { d := .x, a := .x } ∧ s.foreign 2 5 1 = false ∧ s.takers 2 (s.thread 2 5) = []
    ∧ s.stopping 3 = false ∧ s.away 2 = false ∧ s.teamBroken 2 (s.thread 2 5) = false ∧ s.groupClosed 1 2 = false
    ∧ 4 ∈ (s.thread 2 5).members ∧ (s.thread 2 4).departed = false ∧ (s.thread 2 4).wait = .none
    ∧ holds (exec (.ueTake 2 5 (fields 7 1 0 0) 3) s) (fun t => (t.thread 2 5).wait == .take 1 7) = true := by
  unfold CanIssue
  decide +kernel

theorem witness_poll : let s := sinking [] { thread with x := [(1, 1)] }
    let q := sinking [posted] { thread with x := [(1, 1)] }
    CanIssue s 2 5 (fields 7 1 0 0) { d := .x, a := .x } ∧ s.foreign 2 5 1 = false ∧ s.sinkOf 1 2 = []
    ∧ CanIssue q 2 5 (fields 7 1 0 0) { d := .x, a := .x } ∧ q.foreign 2 5 1 = false ∧ q.sinkOf 1 2 = [posted]
    ∧ holds (exec (.ueTpoll 2 5 (fields 7 1 0 0)) s) (fun t => (t.thread 2 5).xr 7 == 0) = true
    ∧ gave (exec (.ueTpoll 2 5 (fields 7 1 0 0)) q) 7 0x10000 = true := by
  unfold CanIssue
  decide +kernel

/-- The team holds a buffer. -/
def holding : State :=
  let s := threaded { thread with x := [(1, 0x10000), (2, 0x20000)] }
  s.setTeam 2 5 { held := [{ addr := 0x10000, bytes := 256, chunk := none, counted := false }] }

theorem witness_give : CanIssue holding 2 5 (fields 0 1 0 0) { a := .x } ∧ CanIssue holding 2 5 (fields 0 2 0 0) { a := .x }
    ∧ ((holding.team 2 5).held.find? (holding.inHeld 0x10000 1)).map (·.addr) = some 0x10000
    ∧ (holding.team 2 5).held.find? (holding.inHeld 0x20000 1) = none
    ∧ holds (exec (.ueGive 2 5 (fields 0 1 0 0)) holding) (fun t => (t.team 2 5).held.isEmpty) = true := by
  unfold CanIssue
  decide +kernel

/-- Stall 2's pools are empty. -/
def drained : State := (upTo 5).foldl (fun s k => s.setPool 2 k { head := none }) (threaded thread)

theorem witness_outbuf : let s := threaded thread
    let count := fun s : State => s.count 2 0x300 1 (s.threadAttrs 2 5)
    CanIssue drained 2 5 (fields 7 1 0 0) { d := .x, a := .x } ∧ ((count drained).allocFrom 2 12 [0, 1, 2, 3, 4]).2 = none
    ∧ CanIssue s 2 5 (fields 7 1 0 0) { d := .x, a := .x }
    ∧ ((count s).allocFrom 2 12 [0, 1, 2, 3, 4]).2 = some (stallWindow 2, 0)
    ∧ gave (exec (.ueOutbuf 2 5 (fields 7 1 0 0)) drained) 7 0 = true
    ∧ gave (exec (.ueOutbuf 2 5 (fields 7 1 0 0)) s) 7 (BitVec.ofNat 64 (stallWindow 2)) = true := by
  unfold CanIssue
  decide +kernel

theorem witness_claim : let s := sinking [posted] { thread with state := .waiting, wait := .take 1 7 }
    (s.thread 2 5).members = [5] ∧ (s.thread 2 5).state = .waiting ∧ (s.thread 2 5).wait = .take 1 7
    ∧ s.sinkOf 1 2 = [posted]
    ∧ holds (exec (.takeClaim 2 5) s) (fun t => Tbl.get t.update.ready 2 [] == [5]) = true := by decide +kernel

/-- A module whose thread sends for group 1: 4 bytes of its operand store to chunk 0 of instance 2. -/
def sending : State :=
  (threaded { thread with x := [(1, BitVec.ofNat 64 (stallWindow 2)), (2, 4), (8, 0x200000001), (9, 0)] }).setGroup 1
    { record with kind := 5, outFormat := 0 }

/-- The same with the stall's generated traffic waiting. -/
def clogged : State := { sending with switch := { sending.switch with
  genWait := [{ stall := 2, frame := {} }] } }

theorem witness_multicast : let x := sending.thread 2 5
    CanIssue sending 2 5 (fields 8 1 2 0) { d := .x, a := .x, b := .x, imm := .below 2 }
    ∧ (sending.group 1).state = .opened ∧ (sending.group 1).kind = 5 ∧ (sending.group 1).pitch = sending.pitchOf 2 5
    ∧ mcastFits (sending.team 2 x.team).out 1 2 0 0 = true ∧ inOwnStores 2 (stallWindow 2) 4 = true
    ∧ sending.mayAccess 2 5 x .read (stallWindow 2) 4 = true ∧ sending.readBad (stallWindow 2) 4 = false
    ∧ sending.outputWaits 2 = false := by
  unfold CanIssue
  decide +kernel

theorem witness_multicast_waits : CanIssue clogged 2 5 (fields 8 1 2 0) { d := .x, a := .x, b := .x, imm := .below 2 }
    ∧ CanIssue clogged 2 5 (fields 8 0 2 0) { d := .x, b := .x, imm := .only 0xF3 }
    ∧ (clogged.group 1).state = .opened ∧ clogged.groupLive 1 = true
    ∧ clogged.mayAccess 2 5 (clogged.thread 2 5) .read (stallWindow 2) 4 = true
    ∧ clogged.readBad (stallWindow 2) 4 = false ∧ clogged.outputWaits 2 = true := by
  unfold CanIssue
  decide +kernel

theorem witness_receipt_form : CanIssue sending 2 5 (fields 8 0 2 1) { d := .x, b := .x, imm := .only 0xF3 }
    ∧ sending.groupLive 1 = true ∧ (sending.group 1).kind = 5 ∧ (sending.group 1).pitch = sending.pitchOf 2 5
    ∧ sending.outputWaits 2 = false := by
  unfold CanIssue
  decide +kernel

/-- A valid descriptor: one row of one column, 32 products, fp32 out. -/
def word : Nat :=
  1 + 2 * 2 ^ 4 + 1 * 2 ^ 10 + 1 * 2 ^ 14 + 2 ^ 32 + 2 ^ 40 + 32 * 2 ^ 48 + 64 * 2 ^ 84 + 0x1000 * 2 ^ 100 + 64 * 2 ^ 120
    + 0x2000 * 2 ^ 136 + 64 * 2 ^ 156

/-- That descriptor in stall 2's scratchpad, and the thread that points to it. -/
def describing : State :=
  (threaded { thread with x := [(1, BitVec.ofNat 64 (stallWindow 2 + 0x1000))] }).write (stallWindow 2 + 0x1000) (leBytes 56 word)

/-- A descriptor in slot k of an array. -/
def descriptor (k : Nat) (st : DescStage) : Desc :=
  { slot := k, order := k, fields := word, addr := stallWindow 2 + 0x1000, thread := 5, counter := 7, stage := st, late := false }

theorem witness_issue : CanIssue describing 2 5 (fields 0 1 0 7) { a := .x, imm := .below 8 }
    ∧ inOwnStores 2 (stallWindow 2 + 0x1000) 64 = true ∧ describing.freeDescSlot 2 = some 0
    ∧ describing.readBad (stallWindow 2 + 0x1000) 64 = false ∧ DescWord.valid word = true
    ∧ describing.readNat (stallWindow 2 + 0x1000) 56 = word
    ∧ holds (exec (.ueMxi 2 5 (fields 0 1 0 7)) describing) (fun t => (t.array 2).descs.map (·.stage) == [.queued]
        && Tbl.get (t.thread 2 5).counters 7 (0, 0) == (1, 0)) = true := by
  unfold CanIssue
  decide +kernel

theorem witness_issue_waits : let s := describing.setArray 2 { descs := (upTo 32).map fun k => descriptor k .queued }
    CanIssue s 2 5 (fields 0 1 0 7) { a := .x, imm := .below 8 } ∧ s.freeDescSlot 2 = none := by
  unfold CanIssue
  decide +kernel

/-- Run 3 due to start. -/
def starting : State :=
  let s0 := threaded { thread with state := .waiting }
  let s : State := { s0 with update := { s0.update with
    runs := [(3, { run with state := .scheduled, token := 5, startAt := 10, entry := 16, argument := 99 })] } }
  { s with dict := { s.dict with tokens := [asked 0x05 5] } }

theorem witness_threads_start : (starting.runOf 3).state = .scheduled ∧ starting.reached (some 5) 10 = true
    ∧ starting.pitchAdmitted 0 = true ∧ starting.programOf 3 = some program
    ∧ holds (exec (.startThreadsEffect 3) starting) (fun t => (t.thread 2 5).pc == 0x1010 && (t.thread 2 5).xr 1 == 99
        && (t.thread 2 5).xr 2 == 517 && (t.thread 2 5).state == .ready) = true := by decide +kernel

/-- A command to stop run 3 is due. -/
def stopped (st : ThreadState) : State :=
  let s := threaded { thread with state := st }
  { s with dict := { s.dict with tokens := [{ asked 0x06 5 with args := [(0, 3)] }] } }

theorem witness_threads_stop : ((stopped .running).runOf 3).state = .running ∧ (stopped .running).dueOn 0x06 0 6 3 ≠ []
    ∧ (stopped .running).threadsOf 3 = [(2, 5)] ∧ (stopped .running).thread 2 5 = thread
    ∧ (stopped .ready).threadsOf 3 = [(2, 5)] ∧ thread.members = [5]
    ∧ holds (exec (.stopThreadsEffect 3) (stopped .running)) (fun t => (t.runOf 3).state == .stopping) = true
    ∧ holds (exec (.stopThreadsEffect 3) (stopped .ready)) (fun t => (t.thread 2 5).state == .free) = true := by
  decide +kernel

/-- The thread is ready, its segment declared at 7 nJ. -/
def waiting (tank : Int) : State :=
  let s := threaded { thread with state := .ready }
  { s with update := { s.update with
      programs := [(3, { program with declared := 7 })], ready := [(2, [5])], tanks := [(2, tank)], admitted := [(2, 1)] } }

theorem witness_admission : (waiting 7).chargeOf 2 3 = 7 ∧ (waiting 7).mayAdmit 2 7 = true ∧ (waiting 6).mayAdmit 2 7 = false
    ∧ Tbl.get (waiting 7).update.ready 2 [] = [5] ∧ Tbl.get (waiting 6).update.ready 2 [] = [5]
    ∧ holds (exec (.threadAdmission 2) (waiting 7)) (fun t => (t.thread 2 5).state == .running && t.tankOf 2 == 0) = true := by
  decide +kernel

theorem witness_watchdog : let s := threaded { thread with segRung := 1 }
    let late := s.putObj Obj.segWatchdog 8
    let early := s.putObj Obj.segWatchdog 9
    (s.thread 2 5).state = .running ∧ late.away 2 = false ∧ early.away 2 = false
    ∧ (1 + late.obj Obj.segWatchdog < late.time.rung) ∧ (early.time.rung ≤ 1 + early.obj Obj.segWatchdog)
    ∧ holds (exec (.segWatchdog 2 5) late) (fun t => (t.thread 2 5).fault == 7) = true := by decide +kernel

theorem witness_wakes : let b := threaded { thread with state := .waiting, wait := .bell 10 7 }
    let m := threaded { thread with state := .waiting, wait := .location 0x10000 0 }
    (b.thread 2 5).state = .waiting ∧ (10 : Nat) ≤ b.time.bell ∧ (0 : Nat) ≤ m.readNat 0x10000 8
    ∧ holds (exec (.bellwWake 2 5) b) (fun t => (t.thread 2 5).xr 7 == 10 && (t.thread 2 5).state == .ready) = true
    ∧ holds (exec (.waitmWake 2 5) m) (fun t => (t.thread 2 5).state == .ready) = true := by decide +kernel

/-- The array of stall 2. -/
def multiplying (a : ArraySt) : State := describing.setArray 2 a

theorem charge_bound (x : Nat) : ceilDiv (32 * (x % 65536) + 500000) 1000000 ≤ 3 := by
  unfold ceilDiv
  have h := Nat.mod_lt x (show 65536 > 0 by decide)
  generalize x % 65536 = y at h ⊢
  refine Nat.le_of_lt_succ (Nat.div_lt_of_lt_mul (Nat.lt_of_le_of_lt (Nat.sub_le _ _) ?_))
  exact Nat.lt_of_lt_of_le (Nat.add_lt_add_right (Nat.add_lt_add_right (Nat.mul_lt_mul_of_pos_left h (by decide)) _) _)
    (by decide)

/-- The charge of a descriptor of 32 cell cycles, at an energy of 16 bits. -/
theorem charge_bounded (w : Nat) (h : DescWord.cellCycles w = 32) : descCharge w ≤ 3 := by
  rw [descCharge, h]
  generalize Config.factory Obj.cellEnergy.key = x
  exact charge_bound x

theorem witness_admit : let s := multiplying { descs := [descriptor 0 .queued], tank := 3 }
    s.nextDesc 2 = some (descriptor 0 .queued) ∧ s.mayAdmitDesc 2 (descCharge word) = true := by
  refine ⟨by decide +kernel, ?_⟩
  have h : ((multiplying { descs := [descriptor 0 .queued], tank := 3 }).array 2).tank = 3 := by decide +kernel
  have := charge_bounded word (by decide +kernel)
  simp only [State.mayAdmitDesc, h, Bool.or_eq_true, decide_eq_true_eq]
  exact .inl (by simp only [Int.ofNat_eq_natCast]; omega)

theorem witness_admit_refused : let s := multiplying { descs := [descriptor 0 .queued], tank := -1 }
    s.nextDesc 2 = some (descriptor 0 .queued) ∧ s.mayAdmitDesc 2 (descCharge word) = false := by
  refine ⟨by decide +kernel, ?_⟩
  have h : ((multiplying { descs := [descriptor 0 .queued], tank := -1 }).array 2).tank = -1 := by decide +kernel
  simp only [State.mayAdmitDesc, h, Bool.or_eq_false_iff, Bool.and_eq_false_iff, decide_eq_false_iff_not,
    Int.ofNat_eq_natCast]
  exact ⟨by omega, .inr (by omega)⟩

theorem witness_start : let s := multiplying { descs := [descriptor 0 .admitted] }
    let f := multiplying { descs := [descriptor 0 .admitted], fenced := 1 }
    s.descAt 2 0 = some (descriptor 0 .admitted) ∧ (∀ e ∈ (s.array 2).descs, blocksStart (descriptor 0 .admitted) e = false)
    ∧ (s.array 2).fenced &&& DescWord.mask word = 0 ∧ (f.array 2).fenced &&& DescWord.mask word ≠ 0
    ∧ holds (exec (.descriptorStart 2 0) s) (fun t => (t.array 2).descs.map (·.stage) == [.streaming]) = true
    ∧ holds (exec (.descriptorStart 2 0) f) (fun t => (t.array 2).descs.isEmpty
        && t.readNat (stallWindow 2 + 0x1038) 8 == 260) = true := by decide +kernel

/-- The descriptor streams: 1.5 times 2 is its one product. -/
def streaming : State :=
  let s := multiplying { descs := [descriptor 0 .streaming] }
  (s.write (operandBase 2) [0xC0, 0x3F]).write (operandBase 2 + 0x1000) [0, 0x40]

theorem witness_complete : streaming.descAt 2 0 = some (descriptor 0 .streaming)
    ∧ streaming.firstAtPos 2 (descriptor 0 .streaming) = true ∧ streaming.operandBad 2 word = false
    ∧ DescWord.valid word = true ∧ DescWord.m word = 1 ∧ DescWord.rowsOn word = [0] ∧ DescWord.colsOn word = [0]
    ∧ cAddr 2 word 0 0 = operandBase 2 + 0x2000 := by decide +kernel

theorem test_descriptor_product : (List.map (fun b : Byte => b.toNat) ((streaming.cell 2 word 0 0 0).1)) = [0, 0, 0x40, 0x40] := by
  decide +kernel

theorem witness_array_tests :
    let run := multiplying { fenced := 5, test := .running, testing := 1, stuck := 4 }
    let wait := ((multiplying { fenced := 1, test := .pending }).setThread 2 5 {}).putObj (Obj.lineBudget 6) 8200
    wait.selfTestReady 2 = true ∧ wait.warden.queue = [] ∧ wait.tallyAdmits 8200 = true ∧ (run.array 2).test = .running
    ∧ oldestDesc ((streaming.array 2).descs.filter fun d => d.stage == .streaming && bit (DescWord.mask d.fields) 0)
      = some (descriptor 0 .streaming)
    ∧ holds (exec (.arraySelfTestStart 2) wait) (fun t => (t.array 2).testing == 1) = true
    ∧ holds (exec (.arraySelfTestEnd 2 true) run) (fun t => (t.array 2).lifting == 1 && (t.array 2).test == .passed) = true
    ∧ holds (exec (.arraySelfTestEnd 2 false) run) (fun t => (t.array 2).stuck == 5 && (t.array 2).test == .failed) = true
    ∧ holds (exec (.arrayResidueMismatch 2 0) streaming) (fun t => (t.array 2).fenced == 1 && (t.team 2 5).residue) = true := by
  decide +kernel

/-! ### Stacked memory (13) and stalls (14) -/

/-- A module whose 128 channels are mapped in order. -/
def mapped : State := { shining with mem := { shining.mem with map := { order := upTo 128 } } }

/-- A module with a channel as given. -/
def channel (x : ChanSt) : State := mapped.setChan 5 x

theorem witness_scrub : let s := mapped.putObj Obj.scrubPeriod 10
    s.obj Obj.scrubPeriod ≠ 0 ∧ (s.chan 5).state ≠ .mappedOut ∧ (s.chan 5).answering = true
    ∧ (s.unitAddr 5 3).isSome = true
    ∧ holds (exec (.scrubPass 5 [] [3]) s) (fun t => t.mem.poison == [((s.unitAddr 5 3).getD 0) / 64]
        && t.obj (Obj.scrubLastBell 5) == 10) = true := by decide +kernel

theorem witness_row_repair : let s := channel { repairs := [(9, 1)], rows := [{ row := 9, count := 40, since := 0 }] }
    (9, 1) ∈ (s.chan 5).repairs ∧ (s.chan 5).state ≠ .mappedOut ∧ (s.chan 5).spares.length < 256
    ∧ holds (exec (.rowRepair 5 9 []) s) (fun t => (t.chan 5).spares == [(9, 0)] && (t.chan 5).rows.isEmpty
        && t.mem.repairLog == [5 + 9 * 2 ^ 7]) = true := by decide +kernel

theorem witness_no_answer : (shining.chan 5).state = .inService
    ∧ holds (exec (.channelNoAnswer 5) shining) (fun t => (t.chan 5).mapAt == some 11 && !(t.chan 5).answering) = true := by
  decide +kernel

theorem witness_map_out_start : let s := channel { state := .waiting, mapAt := some 10 }
    (s.chan 5).state = .waiting ∧ (s.chan 5).mapAt = some 10 ∧ s.mem.mapOuts = []
    ∧ (∀ e ∈ s.mem.chans, e.2.state ≠ .copying) ∧ s.dueOn 0x0D 0 7 5 = [] ∧ s.freeReserve = some 0
    ∧ holds (exec (.mapOutStart 5) s) (fun t => (t.chan 5).state == .copying && (t.chan 5).slot == some 0) = true := by
  decide +kernel

theorem witness_map_out_ends : let s := channel { state := .copying, slot := some 0 }
    let e := channel { state := .copying, slot := some 0, copyEnded := some 4 }
    (s.chan 5).state = .copying ∧ (s.chan 5).copyEnded = none ∧ (e.chan 5).copyEnded = some 4
    ∧ holds (exec (.mapOutCopyEnd 5 [3]) s) (fun t => (t.chan 5).copyEnded == some 10 && t.mem.poison.length == 1) = true
    ∧ holds (exec (.channelMappedOut 5) e) (fun t => (t.chan 5).state == .mappedOut) = true := by decide +kernel

/-- 13 R420: a stack's band rises at 85, 95 and 105 °C and falls 3 °C below. -/
theorem test_stack_bands :
    holds (exec (.stackTempReading 1 105000 0) shining) (fun t => t.obj (Obj.thermalBand 1) == 3) = true
    ∧ holds (exec (.stackTempReading 1 102001 0) (shining.putObj (Obj.thermalBand 1) 3))
      (fun t => t.obj (Obj.thermalBand 1) == 3) = true
    ∧ holds (exec (.stackTempReading 1 102000 0) (shining.putObj (Obj.thermalBand 1) 3))
      (fun t => t.obj (Obj.thermalBand 1) == 2) = true
    ∧ holds (exec (.stackTempReading 1 85000 0) shining) (fun t => t.obj (Obj.thermalBand 1) == 1) = true
    ∧ shining.power.released = true := by decide +kernel

theorem test_backlog : let s0 := (shining.putObj Obj.spillSatOn 100).putObj Obj.spillSatOff 50
    let s : State := { s0 with mem := { s0.mem with saturated := [4] } }
    holds (exec (.stagingBacklogSample 3 100) s) (fun t => t.mem.saturated.contains 3 && t.mem.saturated.contains 4) = true
    ∧ holds (exec (.stagingBacklogSample 4 50) s) (fun t => t.mem.saturated.isEmpty) = true
    ∧ holds (exec (.stagingBacklogSample 4 51) s) (fun t => t.mem.saturated == [4]) = true := by decide +kernel

theorem test_corrected_entry_drop : let s := channel { rows := [{ row := 9, count := 4, since := 0 }, { row := 8, count := 1, since := 0 }] }
    let late : State := { s with time := { s.time with tb1 := (86400 * 10 ^ 9 + 1) * 2 ^ 32 } }
    holds (exec (.correctedErrorEntryDrop 5 9) s) (fun t => (t.chan 5).rows.length == 2) = true
    ∧ holds (exec (.correctedErrorEntryDrop 5 9) late) (fun t => (t.chan 5).rows.map (·.row) == [8]) = true := by
  decide +kernel

/-- A stall with a due command. -/
def subletting (x : StallSt) (word : Nat) : State :=
  let s := shining.setStall 9 x
  { s with dict := { s.dict with tokens := [{ asked 0x0A 5 with args := [(0, word)] }] } }

set_option maxRecDepth 100000 in
theorem witness_take_out : let s := subletting {} (9 + 3 * 2 ^ 16 + 2 ^ 22)
    s.stallDue 9 true = [5] ∧ (s.tokenRec 5).map (·.opcode) = some 10 ∧ (s.stall 9).test = none ∧ (s.stall 9).due = none
    ∧ holds (exec (.stallTakeOut 9) s) (fun t => (t.stall 9).out && (t.stall 9).neighbour == some 3
        && t.homeEntry 9 == 3) = true := by decide +kernel

set_option maxRecDepth 100000 in
theorem witness_return : let s0 := subletting { compute := .sublet, out := true } (9 + 2 ^ 8)
    let s : State := { s0 with custody := { s0.custody with home := [(9, 8)] } }
    s.stallDue 9 false = [5] ∧ (s.tokenRec 5).isSome = true ∧ (s.stall 9).due = none ∧ (s.stall 9).out = true
    ∧ holds (exec (.stallReturn 9) s) (fun t => (t.stall 9).compute == .inCompute && t.homeEntry 9 == 9) = true := by
  decide +kernel

/-- A test of package 1 that waits since bell 4. -/
def selfTest : Test := { package := 1, drain := false, hold := some 40, waitLimit := 6, since := 4, token := 5 }

set_option maxRecDepth 100000 in
theorem witness_test_starts : let s := shining.setStall 9 { compute := .testWaiting, test := some selfTest }
    (s.stall 9).test = some selfTest ∧ s.quiet 9 = true ∧ (s.stall 9).due = none
    ∧ holds (exec (.testQuietStart 9) s) (fun t => (t.stall 9).compute == .testing && t.obj (Obj.holdStatus 9) == 1) = true := by
  decide +kernel

theorem witness_test_ends : let s0 := (shining.setStall 9 { compute := .testing, test := some selfTest, out := true })
    let s := s0.setArray 9 { fenced := 3, stuck := 2 }
    (s.stall 9).test = some selfTest ∧ (s.stall 9).compute = .testing ∧ (s.stall 9).due = none
    ∧ holds (exec (.testEnd 9 true 0 0) s) (fun t => (t.array 9).fenced == 0 && (t.stall 9).due == some (11, 1, 5)) = true
    ∧ holds (exec (.testEnd 9 false 3 0) s) (fun t => (t.array 9).fenced == 3 && (t.stall 9).due == some (11, 2, 5)) = true := by
  decide +kernel

theorem witness_test_expires : let s := shining.setStall 9 { compute := .testWaiting, test := some selfTest }
    let o := shining.setStall 9 { compute := .testWaiting, test := some { selfTest with drain := true }, out := true }
    selfTest.since + selfTest.waitLimit ≤ s.time.rung
    ∧ holds (exec (.testWaitExpiry 9) s) (fun t => (t.stall 9).compute == .inCompute && (t.stall 9).test == none) = true
    ∧ holds (exec (.testWaitExpiry 9) o) (fun t => (t.stall 9).due == some (11, 1, 0)) = true := by decide +kernel

set_option maxRecDepth 100000 in
/-- 14 R459: a band from 40 to 80 °C. -/
theorem witness_bands : let a := shining.setStall 9 { compute := .bandArmed, band := some (40, 80) }
    let b := shining.setStall 9 { compute := .inBand, band := some (40, 80), out := true }
    (a.stall 9).band = some (40, 80) ∧ (a.stall 9).compute = .bandArmed ∧ (b.stall 9).compute = .inBand
    ∧ ((a.stall 9).near 9 = 8) ∧ (a.stall 8).out = false ∧ b.obj Obj.bandHyst = 2
    ∧ holds (exec (.bandEntry 9 80000) a) (fun t => (t.stall 9).due == some (11, 3, 0)) = true
    ∧ holds (exec (.bandEntry 9 80001) a) (fun t => (t.stall 9).due == none) = true
    ∧ holds (exec (.bandExit 9 82001) b) (fun t => (t.stall 9).due == some (11, 4, 0)) = true
    ∧ holds (exec (.bandExit 9 82000) b) (fun t => (t.stall 9).due == none) = true := by decide +kernel

/-! ### The warden (15), the ledger and samples (16) -/

/-- A sweep of measurements. -/
def measured : Sweep :=
  { lines := List.replicate 7 1000, inputMw := 10000, railMw := 9000, ue := List.replicate 64 10
    array := List.replicate 64 10, temps := List.replicate 64 40000, coolantIn := 20000, coolantOut := 25000 }

theorem witness_sweep : (Instr.wardenDecision measured).wellFormed = true ∧ shining.power.released = true := by
  decide +kernel

theorem test_overrun : let s : State := { shining with warden := { shining.warden with lateRun := 2 } }
    holds (exec .decisionOverrun s) (fun t => t.warden.safe && t.warden.lateRun == 3) = true
    ∧ holds (exec .decisionOverrun shining) (fun t => !t.warden.safe && t.warden.lateRun == 1) = true := by decide +kernel

/-- 15 R478: level 2 at 105 °C, level 1 at hot_c or a fast rise. -/
theorem test_thermal_levels : shining.power.released = true ∧ shining.objI Obj.hotC = 100000
    ∧ holds (exec (.thermalReading 9 105000 0) shining) (fun t => Tbl.get t.warden.levels 9 0 == 2 && (t.array 63).cut) = true
    ∧ holds (exec (.thermalReading 9 104999 0) shining) (fun t => Tbl.get t.warden.levels 9 0 == 1 && t.warden.cuts.contains 9
        && !t.warden.cuts.contains 63) = true
    ∧ holds (exec (.thermalReading 9 99999 640) shining) (fun t => Tbl.get t.warden.levels 9 0 == 1) = true
    ∧ holds (exec (.thermalReading 9 99999 639) shining) (fun t => Tbl.get t.warden.levels 9 0 == 0) = true := by
  decide +kernel

/-- Stall 9 at a thermal level, its last hot reading at power-up, two milliseconds of TB1 ago. -/
def hot (k : Nat) : State := { shining with
  time := { shining.time with tb1 := 2000000 * 2 ^ 32 }
  warden := { shining.warden with levels := [(9, k)], cuts := [9], paced := true } }

theorem witness_levels_leave : Tbl.get (hot 2).warden.levels 9 0 = 2 ∧ Tbl.get (hot 1).warden.levels 9 0 = 1
    ∧ (hot 2).comesNow ((hot 2).warden.limitSince + 1000000) = true ∧ (hot 1).coolAround 9 = true
    ∧ holds (exec (.level2Throttle 9 105000) (hot 2)) (fun t => t.warden.paced) = true
    ∧ holds (exec (.thermalLevelExit 9) (hot 2)) (fun t => Tbl.get t.warden.levels 9 0 == 1 && !t.warden.paced) = true
    ∧ holds (exec (.thermalLevelExit 9) (hot 1)) (fun t => Tbl.get t.warden.levels 9 0 == 0 && t.warden.cuts.isEmpty) = true := by
  decide +kernel

theorem witness_hold_settles : let h := ((hot 0).putObj (Obj.holdStatus 9) 1).putObj Obj.holdSettle 1
    let s := h.setStall 9 { test := some { package := 1, drain := true, hold := some 40, waitLimit := 6, since := 4, token := 5 } }
    s.obj (Obj.holdStatus 9) = 1
    ∧ ((s.stall 9).test.any fun y => s.comesNow (y.heldFrom + s.obj Obj.holdSettle * 1000000)) = true
    ∧ holds (exec (.holdSettleExpiry 9) s) (fun t => t.obj (Obj.holdStatus 9) == 3) = true := by decide +kernel

/-- A ledger that writes its sections to address 0x100000 at every bell. -/
def ledgered : State := (((shining.putObj Obj.ledgerEnable 1).putObj Obj.ledgerInterval 1).putObj Obj.ledgerBase 0x100000).putObj
  Obj.ledgerSections 1

theorem witness_ledger : let f := (ledgered.putObj Obj.ledgerMode 1).putObj Obj.ledgerTail 1
    shining.ledgerDue = false ∧ ledgered.ledgerDue = true ∧ ledgered.ledger.writing = none
    ∧ f.ledgerDue = true ∧ f.obj Obj.ledgerMode = 1 ∧ f.nextHead = f.obj Obj.ledgerTail
    ∧ ¬ (ledgered.obj Obj.ledgerMode = 1 ∧ ledgered.nextHead = ledgered.obj Obj.ledgerTail)
    ∧ holds (exec .ledgerBoundary f) (fun t => t.ledger.missed == 1 && t.ledger.writing.isNone) = true := by
  decide +kernel

/-- An entry that is being written. -/
def entryAt (a : Nat) : State := { ledgered with ledger := { ledgered.ledger with
  writing := some { addr := a, header := leBytes 64 (7 * 2 ^ 64), body := [1, 2, 3] } } }

theorem witness_ledger_written : let s := entryAt 0x100000
    let h : State := { entryAt 0x200000000000 with host := {} }
    (entryAt 0x100000).ledger.writing.isSome = true ∧ isHost 0x100000 = false ∧ isHost 0x100040 = false
    ∧ (∀ k < 67, s.inHole (0x100000 + k) = false)
    ∧ h.ledger.writing.isSome = true ∧ isHost 0x200000000000 = true ∧ h.hostOpen = false ∧ s.ledgerDue = true
    ∧ holds (exec .ledgerEntryWritten s) (fun t => t.read 0x100040 3 == [1, 2, 3] && t.obj Obj.ledgerSequence == 7) = true
    ∧ holds (exec .ledgerEntryWritten h) (fun t => t.obj Obj.hostErrors == 1) = true := by decide +kernel

/-- Observations of an instruction and of a frame. -/
def insnSeen : InsnSample := { pc := 0x1008, address := 0, latency := 3, op := 1, bell := 10 }
def frameSeen : PacketSample :=
  { header := 0, outPort := 5, outcome := 0, hold := 1, voq := 2, xpoint := 3, egress := 4, bell := 10 }

theorem witness_samples : let w := ((threaded thread).putObj Obj.isampleEnable 1).putObj Obj.isampleBase 0x100000
    let i : State := { w with ledger := { w.ledger with windows := [(2, (1, 1, 0))] } }
    let p := (shining.putObj Obj.psampleN 1).putObj Obj.psampleBase 0x100000
    i.power.released = true ∧ i.obj Obj.isampleEnable ≠ 0 ∧ (i.thread 2 5).state ≠ .free
    ∧ bit (i.obj Obj.isampleRuns) (i.thread 2 5).run = true
    ∧ i.sampleDue 2 = true ∧ w.sampleDue 2 = false ∧ p.maySample frameSeen.header.toNat = true
    ∧ holds (exec (.instructionSample 2 5 insnSeen) i) (fun t => t.obj Obj.isampleHead == 1) = true
    ∧ holds (exec (.instructionSample 2 5 insnSeen) (i.putObj Obj.isampleTail 1)) (fun t => t.obj Obj.isampleLost == 1) = true
    ∧ holds (exec (.packetSample 5 frameSeen) p) (fun t => t.obj Obj.psampleHead == 1) = true
    ∧ holds (exec (.packetSample 5 frameSeen) (p.putObj Obj.psampleTail 1)) (fun t => t.obj Obj.psampleLost == 1) = true := by
  decide +kernel

/-! ### Custody (14) -/

/-- A pair with POS 7, of pitch 0, group 1 and four chunks of 16 bytes. -/
def pair : Pair :=
  { state := .paired, group := 1, otherPos := 7, otherPair := 9, base := 0x100000, bankStride := 0x1000
    chunkStride := 16, chunks := 4, gotHello := true, step := 2 }

/-- The module with that pair as pair 9. -/
def paired9 (p : Pair) : State := shining.setPair 9 p

/-- The control word of a message from the pair's partner for sequence 2: its type, and its other fields. -/
def controlWord (kind rest : Nat) : Nat := kind + 2 ^ 4 + 9 * 2 ^ 8 + 7 * 2 ^ 24 + 2 * 2 ^ 32 + rest

/-- That message; of the pair's primary, bit 4 is clear. -/
def message (kind rest : Nat) (body : List Byte) : CustodyMsg :=
  { pitch := 0, group := 1, control := BitVec.ofNat 256 (controlWord kind rest), body }
def fromPrimary (kind rest : Nat) (body : List Byte) : CustodyMsg :=
  { message kind rest body with control := BitVec.ofNat 256 (controlWord kind rest - 2 ^ 4) }

theorem witness_stray_message : let m := fun k : Nat => message k 0 []
    custodyKind (.custodyHello (m 1)) = some (m 1, 1) ∧ custodyKind (.custodyClose (m 2)) = some (m 2, 2)
    ∧ custodyKind (.custodyDigest (m 3)) = some (m 3, 3) ∧ custodyKind (.custodyCompared (m 4)) = some (m 4, 4)
    ∧ custodyKind (.resyncData (m 5)) = some (m 5, 5) ∧ custodyKind (.resyncAck (m 6)) = some (m 6, 6)
    ∧ (∀ k < 7, bits (m k).control.toNat 0 4 = k ∧ shining.pairOfMsg (m k) = none)
    ∧ holds (exec (.custodyCompared (m 4)) shining) (fun t => t.obj Obj.custodyDiscards == 1) = true := by
  decide +kernel

/-- Fields below bit 192 and a field of 32 bits at bit 192 of a control word. -/
theorem bits_low {c low lo w : Nat} (h : low < 2 ^ 192) (hw : lo + w ≤ 192) :
    bits (2 ^ 192 * c + low) lo w = bits low lo w := by
  apply Nat.eq_of_testBit_eq
  intro i
  simp only [bits, Nat.testBit_mod_two_pow, Nat.testBit_shiftRight, Nat.testBit_two_pow_mul_add c h]
  by_cases hi : i < w
  · rw [if_pos (show lo + i < 192 by omega)]
  · simp [hi]

theorem bits_high {c low : Nat} (h : low < 2 ^ 192) (hc : c < 2 ^ 32) : bits (2 ^ 192 * c + low) 192 32 = c := by
  rw [bits, Nat.shiftRight_eq_div_pow, Nat.mul_add_div (Nat.two_pow_pos 192), Nat.div_eq_of_lt h, Nat.add_zero,
    Nat.mod_eq_of_lt hc]

theorem crc32cBits_lt (n : Nat) : ∀ c, c < 2 ^ 32 → crc32cBits n c < 2 ^ 32 := by
  induction n with
  | zero => exact fun c h => h
  | succ n ih =>
    intro c h
    have : c / 2 < 2 ^ 32 := Nat.lt_of_le_of_lt (Nat.div_le_self _ _) h
    refine ih _ ?_
    unfold crc32cBit
    split
    · exact Nat.xor_lt_two_pow this (by decide)
    · exact this

theorem crc32cRun_lt (bs : List Byte) : ∀ c, c < 2 ^ 32 → crc32cRun c bs < 2 ^ 32 := by
  induction bs with
  | nil => exact fun c h => h
  | cons b bs ih =>
    exact fun c h => ih _ (crc32cBits_lt 8 _ (Nat.xor_lt_two_pow h (Nat.lt_trans b.isLt (by decide))))

theorem argCrc_lt (p : Pair) : p.argCrc < 2 ^ 32 :=
  Nat.xor_lt_two_pow (crc32cRun_lt _ _ (by decide)) (by decide)

/-- A hello with a CRC in its field. -/
def hello (c : Nat) : CustodyMsg := { message 1 0 [] with control := BitVec.ofNat 256 (2 ^ 192 * c + controlWord 1 0) }

theorem hello_control {c : Nat} (h : c < 2 ^ 32) : (hello c).control.toNat = 2 ^ 192 * c + controlWord 1 0 := by
  have : controlWord 1 0 < 2 ^ 192 := by decide
  simp only [hello, BitVec.toNat_ofNat]
  exact Nat.mod_eq_of_lt (by omega)

theorem hello_fits {c : Nat} (h : c < 2 ^ 32) :
    bits (hello c).control.toNat 0 4 = 1 ∧ (paired9 { pair with state := .pairing, gotHello := false }).pairOfMsg (hello c) = some 9
      ∧ bits (hello c).control.toNat 192 32 = c := by
  have low : controlWord 1 0 < 2 ^ 192 := by decide
  have get : ∀ lo w, lo + w ≤ 192 → bits (hello c).control.toNat lo w = bits (controlWord 1 0) lo w := fun lo w hw => by
    rw [hello_control h, bits_low low hw]
  have role : bit (hello c).control.toNat 4 = true := by
    rw [hello_control h, bit, Nat.testBit_two_pow_mul_add c low, if_pos (by decide)]
    decide
  refine ⟨(get 0 4 (by decide)).trans (by decide), ?_, by rw [hello_control h, bits_high low h]⟩
  have e : (paired9 { pair with state := .pairing, gotHello := false }).custody.pairs
      = [(9, { pair with state := .pairing, gotHello := false })] := by decide +kernel
  have plane : (paired9 { pair with state := .pairing, gotHello := false }).obj Obj.plane = 0 := by decide +kernel
  have group : (hello c).group = 1 := rfl
  have pitch : (hello c).pitch = 0 := rfl
  simp only [State.pairOfMsg, e, List.find?_cons, State.fits, plane, role, group, pitch, get 0 4 (by decide),
    get 24 8 (by decide), get 20 4 (by decide), get 8 12 (by decide)]
  decide

theorem witness_hello_agrees :
    ∃ m, bits m.control.toNat 0 4 = 1 ∧ (paired9 { pair with state := .pairing, gotHello := false }).pairOfMsg m = some 9
      ∧ bits m.control.toNat 192 32 = ({ pair with state := .pairing, gotHello := false } : Pair).argCrc :=
  ⟨_, hello_fits (argCrc_lt _)⟩

theorem witness_hello_differs :
    ∃ m, bits m.control.toNat 0 4 = 1 ∧ (paired9 { pair with state := .pairing, gotHello := false }).pairOfMsg m = some 9
      ∧ bits m.control.toNat 192 32 ≠ ({ pair with state := .pairing, gotHello := false } : Pair).argCrc := by
  by_cases h : ({ pair with state := .pairing, gotHello := false } : Pair).argCrc = 0
  · obtain ⟨a, b, c⟩ := hello_fits (c := 1) (by decide)
    exact ⟨_, a, b, by rw [c, h]; decide⟩
  · obtain ⟨a, b, c⟩ := hello_fits (c := 0) (by decide)
    exact ⟨_, a, b, by rw [c]; exact fun e => h e.symm⟩

/-- The module a while later. -/
def later (n : Nat) (s : State) : State := { s with time := { s.time with rung := n, bell := n } }

theorem witness_hello_timeout : let s := paired9 { pair with state := .pairing, helloSince := 10 }
    (s.pair 9).state = .pairing ∧ s.time.rung < (s.pair 9).helloSince + 5000
    ∧ ((later 5010 s).pair 9).helloSince + 5000 ≤ (later 5010 s).time.rung
    ∧ holds (exec (.helloTimeout 9) (later 5010 s)) (fun t => (t.pair 9).state == .free) = true := by decide +kernel

theorem witness_close : let p := { pair with partner := true, clean := [0, 1, 2] }
    let c := fromPrimary 2 (3 * 2 ^ 192) []
    let d := fromPrimary 2 (4 * 2 ^ 192) []
    bits c.control.toNat 0 4 = 2 ∧ (paired9 p).pairOfMsg c = some 9 ∧ p.stepClosed = false
    ∧ bits c.control.toNat 32 32 = p.step ∧ p.clean.length = bits c.control.toNat 192 24
    ∧ bits d.control.toNat 0 4 = 2 ∧ (paired9 p).pairOfMsg d = some 9 ∧ p.clean.length ≠ bits d.control.toNat 192 24
    ∧ holds (exec (.custodyClose d) (paired9 p)) (fun t => (t.pair 9).otherClose == some (2, 4, false)
        && !(t.pair 9).closedAny) = true := by decide +kernel

theorem witness_close_wait : let p := { pair with partner := true, otherClose := some (2, 3, false), otherCloseRung := 4 }
    let s := (paired9 p).putObj Obj.closeWait 6
    let e := (paired9 p).putObj Obj.closeWait 7
    (s.pair 9).closedAny = false ∧ p.otherCloseRung + s.obj Obj.closeWait ≤ s.time.rung
    ∧ e.time.rung < p.otherCloseRung + e.obj Obj.closeWait := by decide +kernel

/-- The pair once its step 2 is closed. -/
def closed : Pair := { pair with closed := 2, closedAny := true }

theorem witness_digest_done : closed.rangeDue 0 = true ∧ closed.ranges = 1 ∧ Tbl.find closed.mine 0 = none
    ∧ (paired9 closed).readBad (closed.outBank 2) (closed.rangeBytes 0) = false := by decide +kernel

theorem witness_digests : let d := message 3 (2 ^ 96) (leBytes 8 77)
    bits d.control.toNat 0 4 = 3 ∧ (paired9 pair).pairOfMsg d = some 9
    ∧ (paired9 { pair with comparedSent := some 2 }).pairOfMsg d = some 9
    ∧ (paired9 { pair with compared := 2, comparedAny := true }).pairOfMsg d = some 9 ∧ serialLe 2 2 = true
    ∧ bits d.control.toNat 32 32 = 2 ∧ pair.comparedSent ≠ some 2 ∧ pair.comparedAny = false
    ∧ bits d.control.toNat 96 16 = 1
    ∧ holds (exec (.custodyDigest d) (paired9 pair)) (fun t => (Tbl.find (Tbl.get (t.pair 9).theirs 2 []) 0).map (·.1) == some 77) = true := by
  decide +kernel

theorem witness_compared : bits (message 4 0 []).control.toNat 0 4 = 4 ∧ (paired9 pair).pairOfMsg (message 4 0 []) = some 9
    ∧ holds (exec (.custodyCompared (message 4 0 [])) (paired9 pair)) (fun t => (t.pair 9).comparedGot == some 2) = true := by
  decide +kernel

theorem witness_resend : let s := (paired9 { closed with digestRung := 4 }).putObj Obj.digestResend 6
    let l := later 5004 (paired9 { closed with closeRung := some 4, comparedGot := some 2 })
    (s.pair 9).state = .paired ∧ (s.pair 9).stepClosed = true ∧ (s.pair 9).comparedGot ≠ some 2
    ∧ (s.pair 9).digestRung + s.obj Obj.digestResend ≤ s.time.rung
    ∧ (l.pair 9).stepClosed = true ∧ (l.pair 9).comparedGot = some (l.pair 9).step ∧ (l.pair 9).closeRung = some 4
    ∧ (l.pair 9).theirsFull = false ∧ (l.pair 9).lateReported = false ∧ 4 + 5000 ≤ l.time.rung
    ∧ holds (exec (.comparisonLate 9) l) (fun t => (t.pair 9).lateReported) = true := by decide +kernel

theorem witness_restore : let p := { pair with state := .rollingBack, restoring := some 2 }
    let s := (paired9 p).write 0x100000 [1, 2, 3]
    let b : State := { s with mem := { s.mem with poison := [0x4000] } }
    (s.pair 9).restoring = some 2 ∧ s.restoreOver (s.pair 9) = true ∧ b.restoreOver (b.pair 9) = true
    ∧ (later 0 s).restoreOver { p with restoreRung := 1 } = false ∧ s.readBad (p.inBank 2) p.bankBytes = false ∧ b.readBad (p.inBank 2) p.bankBytes = true
    ∧ (∀ i < p.bankBytes, s.inHole (p.outBank 2 + i) = false)
    ∧ holds (exec (.restoreComplete 9) s) (fun t => t.read 0x101000 3 == [1, 2, 3] && (t.pair 9).dueCompared == some 2) = true := by
  decide +kernel

/-- A resync that sends range 0 since bell 4. -/
def resync (n : Nat) : Resync := { newPartner := false, seq := 2, out := [(2, 0)], started := true, failures := n, since := 4 }

theorem witness_resync_data : let y : Resync := { newPartner := false, seq := 2, want := [(2, 0)] }
    let p := { pair with chunks := 129, resync := some y }
    let m := message 5 (2 ^ 96) ((List.range 16).map fun i => BitVec.ofNat 8 i)
    bits m.control.toNat 0 4 = 5 ∧ (paired9 p).pairOfMsg m = some 9 ∧ bits m.control.toNat 64 20 = 0
    ∧ bits m.control.toNat 96 16 = 1 ∧ p.ranges = 1 ∧ p.rangeBlocks 0 = 2 ∧ p.rangeBytes 0 = 2048 + 16
    ∧ (∀ i < 16, (paired9 p).inHole (p.inBank 2 + 2048 + i) = false)
    ∧ holds (exec (.resyncData m) (paired9 p)) (fun t => t.read 0x100808 2 == [8, 9]
        && (t.pair 9).resync.map (·.blocks) == some [1]) = true := by decide +kernel

theorem witness_resync_acks : let s := fun n => paired9 { pair with state := .resyncing, resync := some (resync n) }
    let good := message 6 0 []
    let bad := message 6 (2 ^ 192) []
    bits good.control.toNat 0 4 = 6 ∧ (s 0).pairOfMsg good = some 9 ∧ bits good.control.toNat 64 20 = 0
    ∧ crc64 ((s 0).rangeData ((s 0).pair 9) 2 0) = 0 ∧ bits good.control.toNat 192 64 = 0
    ∧ bits bad.control.toNat 0 4 = 6 ∧ (s 0).pairOfMsg bad = some 9 ∧ (s 2).pairOfMsg bad = some 9
    ∧ bits bad.control.toNat 64 20 = 0 ∧ bits bad.control.toNat 192 64 = 1
    ∧ holds (exec (.resyncAck good) (s 0)) (fun t => (t.pair 9).state == .paired) = true
    ∧ holds (exec (.resyncAck bad) (s 2)) (fun t => (t.pair 9).state == .degraded) = true := by decide +kernel

/-- The last block of a range, with the resync still to go on and at its end; and an ack with more to send. -/
theorem witness_resync_ends : let y : Resync :=
      { newPartner := false, seq := 2, want := [(2, 0)], blocks := [0], blocksOf := (2, 0) }
    let p := { pair with state := .resyncing, chunks := 129, resync := some y }
    let o := { p with resync := some { y with out := [(2, 0)] } }
    let m := message 5 (2 ^ 96 + 2 ^ 96) ((List.range 16).map fun i => BitVec.ofNat 8 i)
    let z := message 5 (2 ^ 96) ((List.range 16).map fun i => BitVec.ofNat 8 i)
    let far := message 5 (2 ^ 64) []
    bits z.control.toNat 0 4 = 5 ∧ bits z.control.toNat 96 16 = 1 ∧ (paired9 p).pairOfMsg z = some 9
    ∧ p.rangeBlocks 0 = 2 ∧ bits m.control.toNat 96 16 = 2 ∧ (paired9 p).pairOfMsg m = some 9
    ∧ (paired9 p).pairOfMsg far = some 9 ∧ bits far.control.toNat 64 20 = 1 ∧ p.ranges = 1
    ∧ (paired9 o).pairOfMsg z = some 9 ∧ y.want.erase (2, 0) = []
    ∧ holds (exec (.resyncData z) (paired9 p)) (fun t => (t.pair 9).state == .paired && (t.pair 9).resync == none) = true
    ∧ holds (exec (.resyncData z) (paired9 o)) (fun t => (t.pair 9).state == .resyncing
        && (t.pair 9).resync.map (·.want) == some []) = true
    ∧ holds (exec (.resyncData m) (paired9 p)) (fun t => t.obj Obj.custodyDiscards == 1) = true
    ∧ holds (exec (.resyncData far) (paired9 p)) (fun t => t.obj Obj.custodyDiscards == 1) = true := by
  decide +kernel

/-- A resync of two ranges of which one arrives and one is sent. -/
theorem witness_resync_goes_on : let y : Resync := { resync 0 with out := [(2, 0), (2, 0)], want := [(2, 0)] }
    let s := paired9 { pair with state := .resyncing, resync := some y }
    let l := paired9 { pair with state := .resyncing, resync := some { y with out := [(2, 0)] } }
    let good := message 6 0 []
    let other := message 6 (2 ^ 64) []
    s.pairOfMsg good = some 9 ∧ s.pairOfMsg other = some 9 ∧ bits other.control.toNat 64 20 = 1
    ∧ s.readBad (pair.inBank 2) (pair.rangeBytes 0) = false ∧ y.failures < 2
    ∧ holds (exec (.resyncAck good) s) (fun t => (t.pair 9).resync.map (·.out) == some [(2, 0)]) = true
    ∧ holds (exec (.resyncAck good) l) (fun t => (t.pair 9).resync.map (·.out) == some []
        && (t.pair 9).state == .resyncing) = true
    ∧ holds (exec (.resyncAck other) s) (fun t => (t.pair 9).resync == some y) = true := by decide +kernel

theorem witness_resync_timeouts : let p := fun n => paired9 { pair with state := .resyncing, resync := some (resync n) }
    let s := fun n : Nat => (p n).putObj Obj.digestResend 6
    (resync 0).since + (s 0).obj Obj.digestResend ≤ (s 0).time.rung ∧ ((s 0).pair 9).resync = some (resync 0)
    ∧ ((s 2).pair 9).resync = some (resync 2) ∧ (resync 2).out ≠ []
    ∧ holds (exec (.resyncRangeTimeout 9) (s 2)) (fun t => (t.pair 9).state == .degraded) = true := by decide +kernel

theorem witness_partner_timeout : let s := fun st => (later 30000 (paired9 { pair with state := st })).putObj Obj.bellPeriod 1000
    (s .paired).obj Obj.partnerTimeout * 1000 ≤ ((s .paired).time.bell - (s .paired).heardFrom ((s .paired).pair 9)) * (s .paired).period
    ∧ (s .degraded).obj Obj.partnerTimeout * 1000
      ≤ ((s .degraded).time.bell - (s .degraded).heardFrom ((s .degraded).pair 9)) * (s .degraded).period
    ∧ holds (exec (.partnerTimeout 9) (s .paired)) (fun t => (t.pair 9).state == .alone) = true
    ∧ holds (exec (.partnerTimeout 9) (s .degraded)) (fun t => (t.pair 9).state == .custodyLost) = true := by
  decide +kernel

/-- A take-over of the pair is due. -/
def takingOver (p : Pair) : State :=
  let s := paired9 p
  { s with dict := { s.dict with tokens := [{ asked 0x10 5 with args := [(0, 9)] }] } }

theorem witness_take_over : let s := takingOver { pair with partner := true, state := .alone }
    let n := takingOver { pair with partner := true, state := .alone, bankStride := 0, clean := [0, 3] }
    s.dueOn 0x10 0 12 9 = [5] ∧ (s.pair 9).mayTakeOver = true ∧ (s.pair 9).stock = true
    ∧ n.dueOn 0x10 0 12 9 = [5] ∧ (n.pair 9).mayTakeOver = true ∧ (n.pair 9).stock = false
    ∧ holds (exec (.takeOverEffect 9) n) (fun t => t.read (n.takeOverBitmap 9) 1 == [9] && !(t.pair 9).partner) = true := by
  decide +kernel

/-! ### Command slots (17) -/

/-- Slot 3 holds a command of PF0. -/
def submitted (op : Nat) (args : Tbl Nat) (s : State) (bell : Nat := 0) : State :=
  (s.setSlot 3 { status := .submitted, holder := some .pf0, token := 500, opcode := op, bell, args }).putObj Obj.bellPeriod 1000

theorem witness_slot_writes :
    let c := shining.setSlot 3 { status := .claimed, holder := some .pf0, token := 500, opcode := 1 }
    Accepts .pf0 (Obj.slotToken 3) (500 : BitVec 64).toNat shining ∧ Accepts .pf0 (Obj.slotToken 3) 0 c
    ∧ Accepts .pf0 (Obj.slotSubmit 3) 1 c ∧ Accepts .pf0 (Obj.slotSubmit 3) 0 (submitted 1 [] shining) :=
  ⟨accepts_of_check (by decide +kernel), accepts_of_check (by decide +kernel), accepts_of_check (by decide +kernel),
    accepts_of_check (by decide +kernel)⟩

theorem witness_slot_held : let c := shining.setSlot 3 { status := .claimed, holder := some .pf0, token := 500 }
    let l : State := { c with time := { c.time with tb1 := 1000000000 * 2 ^ 32 } }
    (c.slot 3).status = .claimed ∧ c.reaches (.mgmt .owner 7) = true ∧ (c.slot 3).holder ≠ some (.mgmt .owner 7)
    ∧ (shining.slot 3).status ≠ .claimed
    ∧ holds (exec (.slotClaim (.mgmt .owner 7) 3 600) c) (fun t => t.out.code != 0 && (t.slot 3).token == 500) = true
    ∧ c.comesNow ((c.slot 3).wrote + 1000000000) = false ∧ l.comesNow ((l.slot 3).wrote + 1000000000) = true
    ∧ holds (exec (.slotIdleTimeout 3) c) (fun t => (t.slot 3).status == .claimed) = true
    ∧ holds (exec (.slotIdleTimeout 3) l) (fun t => (t.slot 3).status == .free) = true := by decide +kernel

theorem witness_command_refused : let c := submitted 0x0E [(0, 7)] shining
    let late := submitted 0x0E [(0, 7)] shining 9
    let wide := submitted 0x0E [(0, 2 ^ 32)] shining
    let op := shining.setSlot 3 { status := .submitted, holder := some .i3c, token := 500, opcode := 0x12 }
    slotCommand (.switchTableBank 3) = some (3, 0x0E) ∧ slotCommand (.checkpoint 3) = some (3, 0x12)
    ∧ (c.slot 3).opcode ≠ 0x12 ∧ (shining.slot 3).status ≠ .submitted
    ∧ op.mayCommand (op.slot 3) = false ∧ c.mayCommand (c.slot 3) = true ∧ c.tokenRec 500 = none
    ∧ (recorded late 3).boundaryCase 0x0E 9 = some (5, 0)
    ∧ (recorded wide 3).boundaryCase 0x0E 0 = none
    ∧ (recorded wide 3).commandCase 0x0E 500 (wide.newRecord 3 (wide.slot 3)).effect [(0, 2 ^ 32)] = some (2, 0)
    ∧ holds (exec (.checkpoint 3) op) (fun t => (t.slot 3).code == 3) = true
    ∧ holds (exec (.switchTableBank 3) late) (fun t => (t.tokenRec 500).map (·.code) == some 5) = true := by
  decide +kernel

set_option maxRecDepth 100000 in
theorem witness_token_known : let x := (submitted 0x0E [(0, 7)] shining).slot 3
    let s := fun crc : Nat => let c := submitted 0x0E [(0, 7)] shining
      ({ c with dict := { c.dict with tokens := [{ asked 0x0E 500 with crc := crc }] } } : State)
    (s (commandCrc x)).tokenRec x.token = some { asked 0x0E 500 with crc := commandCrc x }
    ∧ ((s 1).tokenRec x.token).map (·.crc) = some 1 ∧ 1 ≠ commandCrc x
    ∧ holds (exec (.switchTableBank 3) (s 1)) (fun t => (t.slot 3).code == 4 && t.switch.switch.isNone) = true := by
  decide +kernel

theorem witness_pitch_commands : let s := submitted 0x01 [(0, 6)] shining
    let r := submitted 0x02 [(0, 6)] (shining.setPitch 6 { state := .admitted })
    Takes s 3 0x01 ∧ Takes r 3 0x02
    ∧ holds (exec (.releasePitch 3) r) (fun t => (t.pitch 6).releaseDue && (t.tokenRec 500).map (·.status) == some .done) = true := by
  unfold Takes
  decide +kernel

theorem witness_group_commands :
    let s := submitted 0x03 [(0, 1), (1, 8 * 2 ^ 24 + 2 * 2 ^ 48), (2, 100 + 4 * 2 ^ 32)] shining
    let f := submitted 0x04 [(0, 1)] shining
    let o := submitted 0x04 [(0, 1)] (grouped record [])
    Takes s 3 0x03 ∧ Takes f 3 0x04 ∧ (f.group 1).state = .free ∧ Takes o 3 0x04 ∧ (o.group 1).state = .opened
    ∧ holds (exec (.openGroup 3) s) (fun t => (t.group 1).state == .scheduled && (t.group 1).openAt == 11
        && (t.group 1).expected == 2 && (t.group 1).generation == 1) = true := by
  unfold Takes
  decide +kernel

theorem witness_thread_commands :
    let p : State := { shining with update := { shining.update with programs := [(3, program)] } }
    let s := submitted 0x05 [(0, 3 + 2 ^ 24), (1, 4)] p
    let f := submitted 0x06 [(0, 3)] shining
    let o := submitted 0x06 [(0, 3)] (threaded thread)
    Takes s 3 0x05 ∧ s.freeRun = some 0 ∧ Takes f 3 0x06 ∧ (f.runOf 3).state = .free ∧ Takes o 3 0x06
    ∧ (o.runOf 3).state ≠ .free
    ∧ holds (exec (.startThreads 3) s) (fun t => (t.runOf 0).state == .scheduled && (t.thread 2 0).state == .parked) = true := by
  unfold Takes
  decide +kernel

theorem witness_bundle_commands : let u := submitted 0x07 [(0, 4 + 3 * 2 ^ 8)] shining
    let l := submitted 0x07 [(0, 2), (2, 100)] shining
    Takes u 3 0x07 ∧ bit (4 + 3 * 2 ^ 8) 2 = true ∧ Takes l 3 0x07 ∧ bit 2 2 = false := by
  unfold Takes
  decide +kernel

theorem witness_stall_commands :
    let p : State := { shining with host := { shining.host with packages := [(1, { kind := 2, number := 1, identity := 0, svn := 0, signer := 0, energy := 5 })] } }
    let t := submitted 0x08 [(0, 9), (1, 1)] p
    Takes t 3 0x08 ∧ Takes (submitted 0x09 [(0, 9)] shining) 3 0x09 ∧ Takes (submitted 0x0A [(0, 9)] shining) 3 0x0A
    ∧ Takes (submitted 0x0D [(0, 9)] shining) 3 0x0D ∧ Takes (submitted 0x10 [(0, 9)] (paired9 pair)) 3 0x10
    ∧ holds (exec (.runTest 3) t) (fun u => (u.stall 9).compute == .testWaiting) = true := by
  unfold Takes
  decide +kernel

theorem witness_remap_command :
    let l := shining.modLane (laneKey false 0 5) fun l => { l with port := 5, state := .inService }
    let s := submitted 0x0B [(0, 5)] (l.modLane (laneKey false 0 16) fun l => { l with port := 31, state := .idle, merit := 1000 })
    Takes s 3 0x0B ∧ (s.remapSpare 5).isSome = true ∧ (s.laneOf false 5).isSome = true
    ∧ holds (exec (.remapLane 3) s) (fun t => t.remaps.length == 1) = true := by
  unfold Takes
  decide +kernel

theorem witness_thoroughfare_commands :
    let w := 1 * 2 ^ 4 + 2 * 2 ^ 6 + 9 * 2 ^ 8
    let s := submitted 0x0C [(0, w)] shining 500000
    let d := submitted 0x0C [(0, w + 2 ^ 12)] (lending { entry with scheduled := false, active := true }) 500000
    Takes s 3 0x0C ∧ bit w 12 = false
    ∧ ((upTo 8).find? fun i => (Tbl.find s.optics.thoros (8 * bits w 0 4 + i)).isNone) = some 0
    ∧ Takes d 3 0x0C ∧ d.thoroNamed (w + 2 ^ 12) = some 7
    ∧ holds (exec (.setThoroughfare 3) s) (fun t => (t.thoro 0).scheduled && (t.thoro 0).k == 9) = true := by
  unfold Takes
  decide +kernel

theorem witness_bank_command : let s := submitted 0x0E [(0, 7)] shining
    Takes s 3 0x0E
    ∧ holds (exec (.switchTableBank 3) s) (fun t => t.switch.switch.map (fun b => (b.bell, b.digest)) == some (11, 7)) = true := by
  unfold Takes
  decide +kernel

theorem witness_custody_commands :
    let s := submitted 0x0F [(0, 9 + 2 ^ 24 + 7 * 2 ^ 48), (1, 0x100000), (2, 0x1000), (3, 64), (4, 4), (5, 2)]
      (grouped { record with kind := 1, sinkSlots := 4 } [])
    let a := submitted 0x11 [(0, 9 + 2 ^ 12), (1, 7), (2, 3)] (paired9 { pair with state := .alone })
    let r := submitted 0x11 [(0, 9), (1, 1), (4, 2 ^ 20)] (paired9 pair)
    Takes s 3 0x0F ∧ Takes a 3 0x11 ∧ bit (9 + 2 ^ 12) 12 = true ∧ Takes r 3 0x11
    ∧ resyncRanges [(0, 9), (1, 1), (4, 2 ^ 20)] = [0] := by
  unfold Takes
  decide +kernel

/-- A RESYNC with a new partner whose hello, with a CRC, has come. -/
def heardHello (c : Nat) : State :=
  submitted 0x11 [(0, 9 + 2 ^ 12), (1, 7), (2, 3)] (paired9 { pair with state := .alone, spareHello := some (7, 4, c) })

theorem witness_resync_hello_agrees : ∃ c, Takes (heardHello c) 3 0x11
    ∧ ((heardHello c).pair 9).spareHello = some (7, 4, c) ∧ c = ({ pair with state := .alone, firstSeq := 3 } : Pair).argCrc :=
  ⟨_, by unfold Takes; decide +kernel, by rfl, rfl⟩

theorem witness_resync_hello_differs : ∃ c, Takes (heardHello c) 3 0x11
    ∧ ((heardHello c).pair 9).spareHello = some (7, 4, c) ∧ c ≠ ({ pair with state := .alone, firstSeq := 3 } : Pair).argCrc := by
  by_cases h : ({ pair with state := .alone, firstSeq := 3 } : Pair).argCrc = 0
  · exact ⟨1, by unfold Takes; decide +kernel, by decide +kernel, by rw [h]; decide⟩
  · exact ⟨0, by unfold Takes; decide +kernel, by decide +kernel, fun e => h e.symm⟩

theorem witness_checkpoint_command : let s := submitted 0x12 [(1, 0x100000), (2, 4096), (3, 8192)] shining
    Takes s 3 0x12
    ∧ holds (exec (.checkpoint 3) s) (fun t => t.host.checkpoints.map (fun c => (c.src, c.length, c.target))
        == [(0x100000, 4096, 8192)]) = true := by
  unfold Takes
  decide +kernel

theorem witness_cancel : let r := { asked 0x0E 5 with effect := 11 }
    let q : State := { shining with
      switch := { shining.switch with switch := some { bell := 11, digest := 7, token := 5 } }
      dict := { shining.dict with tokens := [r] } }
    let s := submitted 0x13 [(0, 5)] q
    Takes s 3 0x13 ∧ (recorded s 3).tokenRec 5 = some r
    ∧ holds (exec (.cancel 3) s) (fun t => t.switch.switch.isNone && (t.tokenRec 5).map (·.code) == some 14
        && (t.tokenRec 500).map (·.status) == some .done) = true := by
  unfold Takes
  decide +kernel

/-! ### The dictionary (17) -/

theorem witness_refused_accesses : let s := shining.putObj Obj.bellPeriod 1000
    wordWrite (.registerWrite ⟨(.vf 0), .word⟩ 0x0A00 0x02 16) = some (.vf 0, 0x0A00, 0x02, 16) ∧ s.reaches (.vf 0) = false
    ∧ wordWrite (.registerWrite ⟨.pf0, .word⟩ 0x7777 0x02 16) = some (.pf0, 0x7777, 0x02, 16) ∧ vendorRange .pf0 0x7777 = false
    ∧ dictRow 0x7777 2 = none ∧ ((s.countBar .pf0).precheck .pf0 0x7777 2 true).1 ≠ 0
    ∧ s.reaches .pf0 = true ∧ (dictRow 0x0A00 2).map (·.ty.isTable) = some false
    ∧ (s.countBar .pf0).precheck .pf0 0x0A00 2 true = (0, dictRow 0x0A00 2)
    ∧ (dictRow 0x0A00 2).map (fun row => (s.countBar .pf0).writeCode .pf0 row 0x0A0002 15 != 0) = some true := by
  decide +kernel

/-- 17 R514, R517: an unknown object, and a value out of its range. -/
theorem test_access_codes : let s := shining.putObj Obj.bellPeriod 1000
    holds (exec (.registerWrite ⟨.pf0, .word⟩ 0x7777 0x02 16) s) (fun t => t.out.code != 0 && (t.req .pf0).code == t.out.code) = true
    ∧ holds (exec (.registerWrite ⟨.pf0, .word⟩ 0x0A00 0x02 15) s) (fun t => t.out.code != 0 && t.obj Obj.ledgerInterval != 15) = true
    ∧ holds (exec (.registerWrite ⟨.pf0, .word⟩ 0x0A00 0x02 16) s) (fun t => t.out.code == 0 && t.obj Obj.ledgerInterval == 16) = true := by
  decide +kernel

/-- 18 R544: the widths of a BAR0 access to a register of 4 bytes and to one of 8, and the vendor's range. -/
theorem witness_bar_widths : let s := shining.putObj Obj.bellPeriod 1000
    onBar .pf0 = true ∧ s.reaches .pf0 = true ∧ Obj.segWatchdog.key < 2 ^ 24
    ∧ (dictRow (Obj.segWatchdog.key / 256) (Obj.segWatchdog.key % 256)).map
        (fun r => (r.ty.isTable, r.ty.long, decide (r.ty.size ≤ 4))) = some (false, false, true)
    ∧ (dictRow (Obj.ledgerBase.key / 256) (Obj.ledgerBase.key % 256)).map (fun r => decide (4 < r.ty.size)) = some true
    ∧ isLive (Obj.segWatchdog.key / 256) (Obj.segWatchdog.key % 256) = false
    ∧ 0x8000 ≤ (0x8000 : BitVec 16).toNat
    ∧ holds (exec (.registerWrite ⟨.pf0, .other⟩ 0x0A00 0x02 16) s) (fun t => t.out.code == 10) = true
    ∧ holds (exec (.longObjectRead ⟨.pf0, .low⟩ (BitVec.ofNat 16 (Obj.segWatchdog.key / 256))
        (BitVec.ofNat 8 Obj.segWatchdog.key)) s) (fun t => t.out.code == 0 && t.out.data == s.obj Obj.segWatchdog) = true := by
  decide +kernel

/-- A TIME80 value of TB2 whose ns field is 10⁹, and one of TB0 at 1 s. -/
def badTime : BitVec 80 := BitVec.ofNat 80 (2 * 2 ^ 78 + 10 ^ 9)
def oneSecond : BitVec 80 := BitVec.ofNat 80 (2 ^ 30)

theorem witness_bad_times : shining.reaches .pf0 = true ∧ 1000000000 ≤ bits badTime.toNat 0 30
    ∧ bits oneSecond.toNat 0 30 < 1000000000 ∧ bits oneSecond.toNat 78 2 ≠ 2 ∧ bits badTime.toNat 78 2 ≠ 0
    ∧ (dictRow 0x0300 4).map (·.ty) = some .time80 ∧ (dictRow 0x0300 0x24).map (·.ty) = some .time80
    ∧ holds (exec (.tb2NowWrite .pf0 badTime) shining) (fun t => t.out.code != 0) = true
    ∧ holds (exec (.tb2NowWrite .pf0 oneSecond) shining) (fun t => t.out.code != 0) = true := by decide +kernel

theorem witness_long_time :
    let s := shining.setReq .pf0 { who := .pf0, long := 2 ^ 79 }
    let v := (s.countBar .pf0).wordValue .pf0 0x0300 4 (10 ^ 9)
    let w := (s.countBar .pf0).wordValue .pf0 0x0300 0x24 0
    1000000000 ≤ bits v 0 30 ∧ bits w 78 2 ≠ 0
    ∧ bits ((shining.countBar .pf0).wordValue .pf0 0x0300 4 0) 78 2 ≠ 2 := by decide +kernel

theorem witness_ledger_intervals : let s := shining.putObj Obj.bellPeriod 1000
    let e := s.putObj Obj.ledgerInterval 15
    s.reaches .pf0 = true ∧ (15 : BitVec 64).toNat * s.period < 16000 ∧ e.reaches .pf0 = true
    ∧ e.obj Obj.ledgerInterval * e.period < 16000
    ∧ holds (exec (.ledgerEnable .pf0 1) e) (fun t => t.out.code != 0 && t.obj Obj.ledgerEnable == 0) = true := by
  decide +kernel

theorem witness_ledger_interval_accepted :
    Accepts .pf0 Obj.ledgerInterval (16 : BitVec 64).toNat (shining.putObj Obj.bellPeriod 1000) :=
  accepts_of_check (by decide +kernel)

theorem witness_plain_write : Accepts .pf0 Obj.segWatchdog (2000 : BitVec 64).toNat shining
    ∧ isCounterKey Obj.segWatchdog.key = false ∧ (shining.countBar .pf0).waitsForBell Obj.segWatchdog.key = false
    ∧ (shining.countBar .pf0).writeSpecial .pf0 Obj.segWatchdog.key 2000 = none ∧ Obj.segWatchdog.key < 2 ^ 24 :=
  ⟨accepts_of_check (by decide +kernel), by decide +kernel, by decide +kernel, by decide +kernel, by decide +kernel⟩

theorem witness_staged_write : Accepts .pf0 (Obj.leaseBase 6) (10 : BitVec 64).toNat shining
    ∧ isCounterKey (Obj.leaseBase 6).key = false ∧ (shining.countBar .pf0).waitsForBell (Obj.leaseBase 6).key = true
    ∧ holds (exec (.leaseWrite .pf0 6 false 10) shining) (fun t => t.obj (Obj.leaseBase 6) == 0
      && Tbl.find t.dict.staged (Obj.leaseBase 6).key == some 10) = true :=
  ⟨accepts_of_check (by decide +kernel), by decide +kernel, by decide +kernel, by decide +kernel⟩

theorem witness_long_write : let s := shining.setReq .pf0 { who := .pf0, long := 7 * 2 ^ 64 }
    let o := Obj.heartbeatPeers
    AcceptsWhole .pf0 o (5 + 7 * 2 ^ 64) s ∧ (dictRow (o.key / 256) (o.key % 256)).map (·.ty) = some (.bytes 32)
    ∧ bits (s.req .pf0).long 64 (8 * 32 - 64) = 7 ∧ isCounterKey o.key = false
    ∧ (s.countBar .pf0).waitsForBell o.key = false ∧ (s.countBar .pf0).writeSpecial .pf0 o.key (5 + 7 * 2 ^ 64) = none
    ∧ holds (exec (.longObjectWrite .pf0 0x0700 0x31 5) s) (fun t => t.obj o == 5 + 7 * 2 ^ 64) = true :=
  ⟨acceptsWhole_of_check (by decide +kernel), by decide +kernel, by decide +kernel, by decide +kernel, by decide +kernel,
    by decide +kernel, by decide +kernel⟩

theorem witness_long_read : let s := shining.putObj Obj.heartbeatPeers (5 + 7 * 2 ^ 64)
    let o := Obj.heartbeatPeers
    s.reaches .pf0 = true ∧ (s.countBar .pf0).precheck .pf0 (o.key / 256) (o.key % 256) false = (0, dictRow 0x0700 0x31)
    ∧ (dictRow 0x0700 0x31).map (fun r => (r.ty.isTable, r.ty.long)) = some (false, true)
    ∧ isLive (o.key / 256) (o.key % 256) = false ∧ o.key ≠ (Obj.tinCapture 0).key ∧ o.key ≠ (Obj.tinCapture 1).key
    ∧ holds (exec (.longObjectRead ⟨.pf0, .word⟩ 0x0700 0x31) s) (fun t => t.out.data == 5
      && (t.req .pf0).long % 2 ^ 256 == 5 + 7 * 2 ^ 64) = true := by decide +kernel

theorem witness_counter_control : AcceptsWhole .pf0 ⟨0x0A8003, 256, 15⟩ (1 : BitVec 256).toNat shining
    ∧ holds (exec (.counterControlWrite .pf0 0x0A80 0x03 1) shining) (fun t => t.ledger.staged == [(0x0A80, 3, 1)]) = true :=
  ⟨acceptsWhole_of_check (by decide +kernel), by decide +kernel⟩

theorem witness_ledger_enable : let s := (shining.putObj Obj.bellPeriod 1000).putObj Obj.ledgerInterval 16
    let on := (s.putObj Obj.ledgerEnable 1).putObj Obj.ledgerHead 5
    Accepts .pf0 Obj.ledgerEnable 1 s ∧ s.obj Obj.ledgerEnable = 0 ∧ Accepts .pf0 Obj.ledgerEnable 0 on
    ∧ holds (exec (.ledgerEnable .pf0 1) (s.putObj Obj.ledgerHead 5)) (fun t => t.obj Obj.ledgerHead == 0) = true :=
  ⟨accepts_of_check (by decide +kernel), by decide +kernel, accepts_of_check (by decide +kernel), by decide +kernel⟩

theorem witness_event_tail : Accepts .pf0 Obj.eventTail (0 : BitVec 64).toNat shining :=
  accepts_of_check (by decide +kernel)

/-- A descriptor: 64 bytes of the table from its start to host address 0x4000, and one that writes. -/
def ask (write : Nat) : Nat := 0x4000 + 64 * 2 ^ 96 + write * 2 ^ 128

/-- PF0 has a transfer of the heartbeats' table. -/
def transferring (write : Nat) : State :=
  shining.setReq .pf0 { who := .pf0, state := 1, key := Obj.heartbeatLast.key, descriptor := ask write }

theorem witness_transfer_start : let s := shining.setReq .pf0 { who := .pf0, long := ask 0 }
    s.reaches .pf0 = true ∧ (s.countBar .pf0).precheck .pf0 0x0700 0x32 false = (0, dictRow 0x0700 0x32)
    ∧ (dictRow 0x0700 0x32).map (fun r => (r.ty, r.ty.isTable)) = some (.table 2048 8, true) ∧ descriptorOk (ask 0) 2048 8 = true
    ∧ s.obj Obj.securityMode ≠ 1 ∧ (s.req .pf0).state ≠ 1
    ∧ holds (exec (.tableTransferStart .pf0 0x0700 0x32 1) s) (fun t => (t.req .pf0).state == 1) = true := by decide +kernel

theorem witness_transfer_end : ((transferring 0).req .pf0).state = 1 ∧ (shining.req .pf0).state ≠ 1
    ∧ (dictRow (Obj.heartbeatLast.key / 256) (Obj.heartbeatLast.key % 256)).map (fun r => (r.ty.isTable, r.acc)) = some (true, .ro)
    ∧ (transferring 0).mayMaster (functionOf .pf0) = true ∧ bit (ask 0) 128 = false ∧ bit (ask 1) 128 = true
    ∧ holds (exec (.tableTransferEnd .pf0 [] false) (transferring 0)) (fun t => (t.req .pf0).moved == 64
        && t.out.hostWrite.map (fun w => (w.1, w.2.length)) == some (0x4000, 64)) = true
    ∧ holds (exec (.tableTransferEnd .pf0 [] true) (transferring 0)) (fun t => (t.req .pf0).tcode == 7) = true
    ∧ holds (exec (.tableTransferEnd .pf0 [] false) (transferring 1)) (fun t => (t.req .pf0).tcode == 3) = true := by
  decide +kernel

/-- The lower half of a message header: request 6 of the owner class, with one item, for POS 0 of plane 0. -/
def lower : Nat := 1 + 2 ^ 8 + 2 ^ 16 + 2 ^ 24 + 6 * 2 ^ 32

/-- A message of that header, a tag and no body. -/
def tagged (low tag : Nat) : List Byte := leBytes 16 low ++ leBytes 16 tag

theorem leNat_append (a b : List Byte) : leNat (a ++ b) = leNat a + 256 ^ a.length * leNat b := by
  induction a with
  | nil => simp [leNat]
  | cons x xs ih => simp only [List.cons_append, leNat, ih, List.length_cons, Nat.pow_succ', Nat.mul_add, Nat.add_assoc, Nat.mul_assoc]

theorem leBytes_length (n : Nat) : ∀ x, (leBytes n x).length = n := by
  induction n with
  | zero => exact fun _ => rfl
  | succ n ih => exact fun x => by simp [leBytes, ih]

theorem leNat_leBytes (n : Nat) : ∀ x, leNat (leBytes n x) = x % 256 ^ n := by
  induction n with
  | zero => intro x; simp [leBytes, leNat, Nat.mod_one]
  | succ n ih =>
    intro x
    have h : x % 256 ^ (n + 1) = x % 256 + 256 * (x / 256 % 256 ^ n) := by rw [Nat.pow_succ', Nat.mod_mul]
    simp only [leBytes, leNat, ih, h, BitVec.toNat_ofNat]

theorem leNat_lt (bs : List Byte) : leNat bs < 256 ^ bs.length := by
  induction bs with
  | nil => simp [leNat]
  | cons b bs ih =>
    have := b.isLt
    simp only [leNat, List.length_cons, Nat.pow_succ]
    omega

theorem tagged_header {low tag : Nat} (hl : low < 2 ^ 128) (ht : tag < 2 ^ 128) :
    leNat ((tagged low tag).take 32) = 2 ^ 128 * tag + low ∧ (tagged low tag).drop 32 = [] ∧ (tagged low tag).length = 32 := by
  have n : (tagged low tag).length = 32 := by simp [tagged, leBytes_length]
  refine ⟨?_, List.drop_of_length_le (Nat.le_of_eq n), n⟩
  rw [List.take_of_length_le (Nat.le_of_eq n), tagged, leNat_append, leNat_leBytes, leNat_leBytes, leBytes_length,
    Nat.mod_eq_of_lt (show low < 256 ^ 16 from hl), Nat.mod_eq_of_lt (show tag < 256 ^ 16 from ht), Nat.add_comm,
    show (256 : Nat) ^ 16 = 2 ^ 128 by decide]

theorem tagOf_lt (s : State) (c : MsgClass) (h : Nat) (b : List Byte) : s.tagOf c h b < 2 ^ 128 :=
  Nat.lt_of_lt_of_le (leNat_lt _) (Nat.pow_le_pow_right (by decide) (List.length_take_le 16 _))

/-- The module with an owner key whose last request was n, its answer kept. -/
def keyed (n : Nat) (ks : List KeptResponse) : State :=
  let s := shining.putObj Obj.keyOwner 99
  { s with dict := { s.dict with lastOwner := n, responses := ks } }

/-- The answer kept for request 6. -/
def answer : KeptResponse := { cls := .owner, route := .mgmt 7, id := 6, bytes := [1, 2, 3] }

theorem header_bits {tag lo w : Nat} (h : lo + w ≤ 128) : bits (2 ^ 128 * tag + lower) lo w = bits lower lo w := by
  apply Nat.eq_of_testBit_eq
  intro i
  simp only [bits, Nat.testBit_mod_two_pow, Nat.testBit_shiftRight,
    Nat.testBit_two_pow_mul_add tag (show lower < 2 ^ 128 by decide)]
  by_cases hi : i < w
  · rw [if_pos (show lo + i < 128 by omega)]
  · simp [hi]

theorem witness_messages (n : Nat) (ks : List KeptResponse) :
    ∃ bytes : List Byte, let h := leNat (bytes.take 32)
      bytes.length = 32 ∧ msgClass h = some .owner ∧ (keyed n ks).headerOk h bytes.length = true
      ∧ (keyed n ks).msgKey .owner = 99 ∧ bits h 32 64 = 6
      ∧ (keyed n ks).tagOf .owner h (bytes.drop 32) = bits h 128 128 := by
  let tag := (keyed n ks).tagOf .owner lower []
  have ht : tag < 2 ^ 128 := tagOf_lt _ _ _ _
  obtain ⟨e, d, l⟩ := tagged_header (low := lower) (by decide) ht
  refine ⟨tagged lower tag, l, ?_, ?_, rfl, ?_, ?_⟩
  · rw [e, msgClass, header_bits (by decide)]; decide
  · rw [e, l, State.headerOk, header_bits (by decide), header_bits (by decide), header_bits (by decide),
      header_bits (by decide), header_bits (by decide), show (keyed n ks).obj Obj.pos = 0 from rfl,
      show (keyed n ks).obj Obj.plane = 0 from rfl]
    decide
  · rw [e, header_bits (by decide)]; decide
  · have m : (2 ^ 128 * tag + lower) % 2 ^ 128 = lower % 2 ^ 128 := Nat.mul_add_mod_self_left _ _ _
    have b : bits (2 ^ 128 * tag + lower) 128 128 = tag := by
      rw [bits, Nat.shiftRight_eq_div_pow, Nat.mul_add_div (Nat.two_pow_pos 128), Nat.div_eq_of_lt (by decide), Nat.add_zero,
        Nat.mod_eq_of_lt ht]
    rw [e, d, b, State.tagOf, m]
    rfl

theorem witness_message_discarded : ∃ bytes : List Byte, let h := leNat (bytes.take 32)
    msgClass h = some .owner ∧ shining.tagOf .owner h (bytes.drop 32) ≠ bits h 128 128 := by
  have key : ∀ tag < 2 ^ 128, msgClass (leNat ((tagged lower tag).take 32)) = some .owner
      ∧ bits (leNat ((tagged lower tag).take 32)) 128 128 = tag
      ∧ shining.tagOf .owner (leNat ((tagged lower tag).take 32)) ((tagged lower tag).drop 32) = shining.tagOf .owner lower [] := by
    intro tag ht
    obtain ⟨e, d, -⟩ := tagged_header (low := lower) (by decide) ht
    have m : (2 ^ 128 * tag + lower) % 2 ^ 128 = lower % 2 ^ 128 := Nat.mul_add_mod_self_left _ _ _
    refine ⟨by rw [e, msgClass, header_bits (by decide)]; decide, ?_, by rw [e, d, State.tagOf, State.tagOf, m]⟩
    rw [e, bits, Nat.shiftRight_eq_div_pow, Nat.mul_add_div (Nat.two_pow_pos 128), Nat.div_eq_of_lt (by decide), Nat.add_zero,
      Nat.mod_eq_of_lt ht]
  by_cases h : shining.tagOf .owner lower [] = 0
  · obtain ⟨a, b, c⟩ := key 1 (by decide)
    exact ⟨_, a, by rw [b, c, h]; decide⟩
  · obtain ⟨a, b, c⟩ := key 0 (by decide)
    exact ⟨_, a, by rw [b, c]; exact h⟩

theorem witness_message_ids : (keyed 7 []).lastId .owner = 7 ∧ (keyed 6 []).lastId .owner = 6 ∧ (keyed 5 []).lastId .owner = 5
    ∧ (keyed 6 []).dict.responses = [] ∧ msgClass 0 = none ∧ (keyed 6 []).headerOk 0 0 = false
    ∧ ((keyed 6 [answer]).dict.responses.find? fun k => k.cls == .owner && k.route == .mgmt 7 && k.id == 6) = some answer
    ∧ (keyed 5 []).power.mgmtReady = true ∧ (keyed 5 []).power.released = true := by decide +kernel

theorem witness_i3c : let s : State := { shining with dict := { shining.dict with i3cAddr := some 9 } }
    s.reaches .i3c = true ∧ shining.power.standby = true
    ∧ holds (exec (.i3cPrivateWrite [1, 2, 3]) s) (fun t => t.dict.i3cIndex == 0x0102 && t.dict.i3cSub == 3) = true
    ∧ holds (exec (.entdaa 9) shining) (fun t => t.dict.i3cAddr == some 9) = true := by decide +kernel

/-! ### Firmware and the host interface (18) -/

theorem witness_store : let s : State := { shining with host := { shining.host with store := [(5, { state := 1, bytes := 4096 })] } }
    let c : State := { shining with host := { shining.host with committing := some 5, store := [(5, { state := 2 })] } }
    Accepts .pf0 Obj.storeCommit (5 : BitVec 64).toNat shining ∧ Accepts .pf0 Obj.storeDelete (5 : BitVec 64).toNat s
    ∧ c.host.committing = some 5 ∧ c.host.committing ≠ some 6 ∧ (c.bundleFault (c.storeBundle 5)).isSome = true
    ∧ holds (exec (.storeDelete .pf0 5) s) (fun t => t.host.store.isEmpty) = true
    ∧ holds (exec (.storeCommit .pf0 5) shining) (fun t => t.host.committing == some 5) = true :=
  ⟨accepts_of_check (by decide +kernel), accepts_of_check (by decide +kernel), by decide +kernel, by decide +kernel,
    by decide +kernel, by decide +kernel, by decide +kernel⟩

theorem witness_keys : AcceptsWhole .pf0 Obj.keyOwner (9 : BitVec 256).toNat shining
    ∧ AcceptsWhole .pf0 Obj.keyOperator (9 : BitVec 256).toNat shining
    ∧ AcceptsWhole .pf0 Obj.attestNonce (9 : BitVec 256).toNat shining
    ∧ holds (exec (.keyWrite .pf0 false 9) (keyed 6 [])) (fun t => t.obj Obj.keyOwner == 9 && t.dict.lastOwner == 0) = true :=
  ⟨acceptsWhole_of_check (by decide +kernel), acceptsWhole_of_check (by decide +kernel),
    acceptsWhole_of_check (by decide +kernel), by decide +kernel⟩

theorem witness_attestation : let s : State := { shining with host := { shining.host with attesting := true } }
    s.host.attesting = true ∧ shining.host.attesting = false
    ∧ holds (exec .attestReportReady s) (fun t => t.host.attestReady && !t.host.attesting) = true := by decide +kernel

theorem witness_bindings : Accepts .pf0 (Obj.vfBinding 3) (0 : BitVec 64).toNat shining
    ∧ Accepts .pf0 (Obj.leaseCount 6) (4 : BitVec 64).toNat shining :=
  ⟨accepts_of_check (by decide +kernel), accepts_of_check (by decide +kernel)⟩

/-- A LOAD_BUNDLE of the bytes that the host gives, or of an upload. -/
def loading (w : Nat) (st : SlotStatus) : State := { shining with dict := { shining.dict with
  tokens := [{ asked 0x07 5 with status := st, args := [(0, w), (2, 100)] }] } }

-- Of a bundle that verifies there is no witness: whether a signature holds is open (log 7).
theorem witness_bundle_faults : (loading 1 .done).tokenRec 5 = some { asked 0x07 5 with status := .done, args := [(0, 1), (2, 100)] }
    ∧ (loading 1 .busy).loadText [(0, 1), (2, 100)] none = none
    ∧ ((loading 1 .busy).loadText [(0, 1), (2, 100)] (some [1, 2, 3])).isSome = true
    ∧ ((loading 1 .busy).bundleFault (hostBundle [1, 2, 3] 100)).isSome = true
    ∧ (shining.programSlot 77 0).isSome = true ∧ shining.packageUsed 1 = false
    ∧ holds (exec (.bundleVerified 5 none) (loading 1 .busy)) (fun t => (t.tokenRec 5).map (·.code) == some 13) = true
    ∧ holds (exec (.bundleVerified 5 (some [1, 2, 3])) (loading 1 .busy)) (fun t => (t.tokenRec 5).map (·.code) == some 12) = true := by
  decide +kernel

/-- A module whose PCIe link has not trained. -/
def unlinked (l : PcieState) : State := { shining with host := { link := l, eqRun := [(3, 1)] } }

theorem witness_training : (unlinked .training).power.released = true ∧ (unlinked .training).commonRate 6 ≠ 0
    ∧ linkWidth 16 = 16 ∧ linkWidth 7 = 4 ∧ held.power.released = false ∧ (unlinked .training).host.link ≠ .up
    ∧ (unlinked .training).host.dropped.contains 3 = false ∧ Tbl.get (unlinked .training).host.eqRun 3 0 ≠ 0
    ∧ holds (exec (.pcieLinkTraining 6 [] 16) (unlinked .training)) (fun t => t.host.link == .up && t.host.width == 16) = true
    ∧ holds (exec (.pcieLinkTraining 6 [3] 16) (unlinked .training)) (fun t => t.host.dropped.contains 3) = true := by
  decide +kernel

theorem witness_link_states : shining.host.link = .up ∧ (unlinked .perst).host.link = .perst
    ∧ (unlinked .training).host.link = .training ∧ (unlinked .down).host.link = .down
    ∧ holds (exec .pciePerstAssert shining) (fun t => t.host.link == .perst && t.host.busMaster.isEmpty) = true
    ∧ holds (exec .pcieLinkDown shining) (fun t => t.host.link == .down && t.host.width == 0) = true
    ∧ holds (exec (.pcieConfigWrite (.busMaster 3 true)) shining) (fun t => t.host.busMaster.contains 3) = true
    ∧ holds (exec (.pcieConfigWrite (.numVfs 4)) shining) (fun t => t.host.numVfs == 4) = true
    ∧ holds (exec (.pcieConfigWrite (.maxRead 3 5)) shining) (fun t => t.maxReadOf 3 == 4096 && t.maxReadOf 2 == 512) = true := by decide +kernel

/-- The thread waits for host request 8, of four bytes, one part of which was sent at power-up. -/
def fetching (u : HostUse) (x : Thread) : State :=
  let s := threaded x
  { s with host := { s.host with reqs := [{ id := 8, addr := 0, bytes := 4, use := u, sent := [0] }], nextReq := 9 } }

/-- The module a minute of TB1 after power-up. -/
def longAfter (s : State) : State := { s with time := { s.time with tb1 := 60 * 10 ^ 9 * 2 ^ 32 } }

/-- A part of a read, a read with no part outstanding, and a part that is not yet overdue. -/
theorem witness_read_parts :
    let l := fetching (.load 2 5 0x50 9 7 0 0 []) { thread with wait := .host 8 }
    let n : State := { l with host := { l.host with reqs := l.host.reqs.map fun r => { r with sent := [] } } }
    let w : State := { l with host := { l.host with reqs := l.host.reqs.map fun r => { r with bytes := 1024 } } }
    ((l.request 8).map fun r => (r.sent, l.readOver r, (longAfter l).readOver r)) = some ([0], false, true)
    ∧ ((n.request 8).map fun r => (r.sent, n.readOver r)) = some ([], false)
    ∧ holds (exec (.dmaCompletion 8 .ok [1, 2]) w) (fun t => (t.request 8).map (·.got.length) == some 512) = true
    ∧ holds (exec (.completionTimeout 8) l) (fun t => (t.thread 2 5).state == .running) = true
    ∧ holds (exec (.dmaCompletion 8 .error []) n) (fun t => (t.thread 2 5).state == .running) = true := by
  decide +kernel

theorem witness_completions :
    let u : HostUse := .load 2 5 0x50 9 7 0 0 []
    let l := fetching u { thread with wait := .host 8 }
    let m0 := fetching (.move 2 5) thread
    let m : State := { m0 with update := { m0.update with moves := [{ move with req := some 8, src := 0x200000000000 }] } }
    (l.request 8).map (·.use) = some u ∧ (l.thread 2 5).state = .running ∧ (l.thread 2 5).wait = .host 8
    ∧ (l.dropRequest 8).loadPending 2 5 = false ∧ shining.request 8 = none ∧ (m.request 8).map (·.use) = some (.move 2 5)
    ∧ holds (exec (.dmaCompletion 8 .ok [1, 2, 3, 4]) l) (fun t => (t.thread 2 5).xr 7 == 0x04030201
        && (t.thread 2 5).pc == 0x1010 && t.host.reqs.isEmpty) = true
    ∧ holds (exec (.dmaCompletion 8 .poisoned []) l) (fun t => (t.thread 2 5).fault == 5) = true
    ∧ holds (exec (.completionTimeout 8) (longAfter l)) (fun t => (t.thread 2 5).fault == 4) = true
    ∧ holds (exec (.completionTimeout 8) (longAfter m)) (fun t => t.update.moves.map (·.hostError) == [true]) = true := by
  decide +kernel

/-- A checkpoint of token 5, and one before it on its route. -/
def stream (token : Nat) (fabric : Bool) : Checkpoint :=
  { token := token, fabric := fabric, src := 0x100000, length := 4096, target := 8192, pitch := 0 }
def streams (cs : List Checkpoint) : State := { shining with
  host := { shining.host with checkpoints := cs }
  dict := { shining.dict with tokens := [asked 0x12 5] } }

theorem witness_checkpoints :
    (streams [stream 4 false, stream 5 false]).activeCheckpoint false = some (stream 4 false)
    ∧ ((streams [stream 4 false, stream 5 false]).host.checkpoints.find? fun d => d.token == 5) = some (stream 5 false)
    ∧ (streams [stream 5 false]).activeCheckpoint false = some (stream 5 false)
    ∧ (streams [stream 5 true]).activeCheckpoint true = some (stream 5 true)
    ∧ (streams [stream 5 false]).tokenRec 5 = some (asked 0x12 5) ∧ (asked 0x12 5).status = .busy
    ∧ (streams [stream 5 false]).hostOpen = true ∧ (stream 5 false).blocks = 1
    ∧ (streams [stream 5 false]).blocksNow (stream 5 false) = 0
    ∧ (streams []).blocksNow { stream 5 false with carry := 4095 } = 1
    ∧ (streams []).blockWaits { stream 5 false with sent := 0 } = false
    ∧ holds (exec (.checkpointEnd 5 false) (streams [{ stream 5 false with carry := 4095 }])) (fun t =>
        (t.tokenRec 5).map (·.status) == some .done && t.host.checkpoints.isEmpty) = true
    ∧ holds (exec (.checkpointEnd 5 false) (streams [stream 5 false])) (fun t => t.host.checkpoints.length == 1) = true
    ∧ holds (exec (.checkpointEnd 5 true) (streams [stream 5 false])) (fun t => (t.tokenRec 5).map (·.code) == some 13
        && t.host.checkpoints.isEmpty) = true := by decide +kernel

end Sys2Proof.Tests
end

/-! PROOFS. The scope of the commands: that each completes and keeps the queue (O2), and which parts of the machine
each family of commands leaves alone (O6). -/

namespace Sys2Proof

open Machine

/-! ### Which parts a command can change -/

/-- A narrower list of parts bounds the outcome too; the inclusion of the two lists is decided. -/
theorem StepTouches.within {l m : List Part} {s : State} {r : Result} (k : StepTouches l s r)
    (hl : l ⊆ m := by decide) : StepTouches m s r := OnlyTouches.result k hl

/-- The parts that an update instruction can change. -/
def updateParts : List Part :=
  [.objs, .time, .ports, .switch, .coll, .update, .arrays, .mem, .custody, .ledger, .dict, .host, .free, .out]

/-- The parts that a forwarding command can change. -/
def forwardingParts : List Part :=
  [.objs, .ports, .switch, .pitches, .service, .coll, .mem, .ledger, .dict, .host, .free]

/-- The parts that an optical command can change. -/
def opticalParts : List Part :=
  [.objs, .time, .optics, .lanes, .remaps, .ports, .switch, .coll, .mem, .warden, .ledger, .dict, .host, .free]

/-- Every part but the queue. -/
def allButQueue : List Part :=
  [.objs, .power, .time, .optics, .lanes, .remaps, .ports, .switch, .pitches, .service, .coll, .update, .arrays,
    .mem, .custody, .warden, .ledger, .dict, .host, .free, .out]

/-! ### The clocks

Three optical commands reach the time unit: a port that they drop out may take the last masters heard with it, and
the parent with them. None of this moves a base or rings a bell. -/

/-- The three bases that can rule the bells, the bell's number, and the bells rung since release (02 R40, R54, R57). -/
def clocks (x : TimeUnit) : Nat × Nat × Nat × Nat × Nat := (x.tb0, x.tb1, x.tb2, x.bell, x.rung)

/-- No base moves and no bell rings. -/
def ClocksKept (s t : State) : Prop := clocks t.time = clocks s.time

/-- If the outcome is a next state, no base has moved and no bell rung. -/
def StepKeepsClocks (s : State) (r : Result) : Prop := ∀ t, r = .next t → ClocksKept s t

namespace ClocksKept

theorem refl (s : State) : ClocksKept s s := rfl

theorem trans {s t u : State} (h : ClocksKept s t) (k : ClocksKept t u) : ClocksKept s u := Eq.trans k h

/-- An operation that leaves the time unit alone keeps the clocks. -/
theorem ofTouches {l : List Part} {s t : State} (h : OnlyTouches l s t) (n : Part.time ∉ l := by decide) :
    ClocksKept s t := congrArg clocks (h .time n)

theorem foldl {α : Type} {f : State → α → State} (hf : ∀ s a, ClocksKept s (f s a)) :
    ∀ (l : List α) (s : State), ClocksKept s (l.foldl f s)
  | [], s => refl s
  | a :: l, s => (hf s a).trans (foldl hf l (f s a))

theorem ite {c : Prop} [Decidable c] {s t u : State} (h : ClocksKept s t) (k : ClocksKept s u) :
    ClocksKept s (if c then t else u) := by split <;> assumption

end ClocksKept

theorem StepKeepsClocks.ofNext {s t : State} (h : ClocksKept s t) : StepKeepsClocks s (.next t) := by
  intro u e; cases e; exact h

end Sys2Proof

namespace Sys2Proof.Machine

theorem State.trackTb3_clocks (s : State) : ClocksKept s s.trackTb3 := .ite rfl (.refl s)

/-- A lost parent ends a lock: TB3, TB0's rate and the servo's state change, no base that rules bells (02 R51). -/
theorem State.parentLost_clocks (s : State) : ClocksKept s s.parentLost := by
  unfold State.parentLost
  split
  · exact s.trackTb3_clocks
  · rfl

theorem State.selectParent_clocks (s : State) : ClocksKept s s.selectParent := by
  have lost (u : State) (h : ClocksKept s u) : ClocksKept s u.parentLost := h.trans u.parentLost_clocks
  exact .ite rfl (lost _ rfl)

theorem State.mastersGone_clocks (s : State) (port : Nat) : ClocksKept s (s.mastersGone port) :=
  .ite (State.selectParent_clocks _) (.refl s)

/-- A link that goes down reaches the time unit only through the masters heard on it. -/
theorem State.portDown_clocks (s : State) (low : Nat) : ClocksKept s (s.portDown low) := by
  have lose (u : State) (fs : List Frame) : ClocksKept u (u.loseFrames (Obj.lostOnDown low) low fs) :=
    .ofTouches (State.loseFrames_touches _ _ _ _)
  refine .ite (.refl s) ?_
  exact (lose s _).trans <| (lose _ _).trans <| (lose _ _).trans <|
    (ClocksKept.ofTouches (State.modPort_touches _ _ _)).trans <|
    (State.mastersGone_clocks _ low).trans <|
    (ClocksKept.ofTouches (State.unspray_touches _ _)).trans <|
    (ClocksKept.ofTouches (State.cutSending_touches _ _)).trans <|
    (ClocksKept.ofTouches (State.discardCopies_touches _ _)).trans <|
    (ClocksKept.ofTouches (State.cancelRemaps_touches _ _ _)).trans <|
    .ofTouches (State.deliverAll_touches _)

theorem State.dropOut_clocks (s : State) (p : Nat) (st : LinkState) : ClocksKept s (s.dropOut p st) := by
  have out : ClocksKept s (((s.runnerFill (s.portLow p)).modPort p fun x =>
      { x with phys := st, dropDue := false, rot := false, prepOut := false }).cancelRemaps [p] 3) :=
    (ClocksKept.ofTouches (State.runnerFill_touches _ _)).trans <|
    (ClocksKept.ofTouches (State.modPort_touches _ _ _)).trans <|
    .ofTouches (State.cancelRemaps_touches _ _ _)
  exact .ite (out.trans (State.portDown_clocks _ _)) out

theorem State.dropEngine_clocks (s : State) (e : Nat) : ClocksKept s (s.dropEngine e) :=
  .foldl (fun s p => .ite (.refl s) ((s.dropOut_clocks p _).trans (.ofTouches (State.modPort_touches _ _ _)))) _ s

theorem State.lasersOff_clocks (s : State) (e : Nat) : ClocksKept s (s.lasersOff e) :=
  (ClocksKept.ofTouches (State.modEngine_touches _ _ _)).trans <|
  (ClocksKept.ofTouches (State.modPack_touches _ _ _)).trans <|
  (ClocksKept.ofTouches (State.dropMoves_touches _ _)).trans (State.dropEngine_clocks _ e)

theorem State.preparedNow_clocks (s : State) (e : Nat) : ClocksKept s (s.preparedNow e) := by
  have shut (u : State) : ClocksKept u (u.each (engineFibers e) fun s t =>
      if s.thoroOnTx t then s else s.modFiber t fun f => { f with shut := true }) :=
    .foldl (fun s _ => .ite (.refl s) (.ofTouches (State.modFiber_touches _ _ _))) _ u
  exact .ite (.refl s) <| (s.lasersOff_clocks e).trans <| (shut _).trans <|
    (ClocksKept.ofTouches (State.modPack_touches _ _ _)).trans <| .ofTouches (State.modEngine_touches _ _ _)

theorem State.thoroDue_clocks (s : State) (k : Nat) : ClocksKept s (s.thoroDue k) := by
  have fails (code f : Nat) : ClocksKept s (s.thoroFail k code f) := .ofTouches (State.thoroFail_touches _ _ _ _)
  refine .ite (.refl s) (.ite ?teardown (.ite (fails ..) (.ite (fails ..) (.ite (fails ..) ?setup))))
  case teardown =>
    have gone : OnlyTouches [.optics] s { s with optics := { s.optics with thoros := Tbl.erase s.optics.thoros k } } :=
      .put_optics (by decide) (.refl _ s)
    exact (ClocksKept.ofTouches gone).trans <|
      (ClocksKept.ofTouches (State.thoroReturn_touches _ _ _)).trans <|
      (ClocksKept.ofTouches (State.drop_touches _ _ _)).trans <| .ofTouches (State.endDone_touches _ _)
  case setup =>
    have lent (u : State) (l : List Nat) : ClocksKept u (l.foldl (fun s p => s.dropOut p .lent) u) :=
      .foldl (fun s p => s.dropOut_clocks p .lent) l u
    exact (ClocksKept.ofTouches (State.setThoro_touches _ _ _)).trans <| (lent _ _).trans <|
      (ClocksKept.ofTouches (State.bump_touches _ _ _)).trans <| .ofTouches (State.endDone_touches _ _)

theorem execPackPrepareDrainEnd_clocks (e : Engine) (s : State) :
    StepKeepsClocks s (execPackPrepareDrainEnd e s) := .ofNext (s.preparedNow_clocks e.val)

theorem execPackPull_clocks (e : Engine) (s : State) : StepKeepsClocks s (execPackPull e s) :=
  .ofNext <| .ite (.refl s) <| (s.lasersOff_clocks e.val).trans <|
    (ClocksKept.ofTouches (State.setPack_touches _ _ _)).trans <|
    (ClocksKept.ofTouches (State.modEngine_touches _ _ _)).trans <| .ofTouches (State.packEvent_touches _ _ _ _)

theorem execThoroughfareEffect_clocks (e : Engine) (entry : Fin 8) (s : State) :
    StepKeepsClocks s (execThoroughfareEffect e entry s) := .ofNext (State.thoroDue_clocks ..)

end Sys2Proof.Machine

namespace Sys2Proof

open Machine

/-! ### The families -/

/-- Each instruction by the list that its own lemma of Laws gives. -/
theorem exec_update_touches (c : Instr) (s : State) (h : isUpdateInstr c = true) :
    StepTouches updateParts s (exec c s) := by
  cases c with
  | ueNop t n f => exact .within (execUeNop_touches t n f s)
  | ueAdd t n f => exact .within (execUeAdd_touches t n f s)
  | ueSub t n f => exact .within (execUeSub_touches t n f s)
  | ueMul t n f => exact .within (execUeMul_touches t n f s)
  | ueDivu t n f => exact .within (execUeDivu_touches t n f s)
  | ueRemu t n f => exact .within (execUeRemu_touches t n f s)
  | ueAnd t n f => exact .within (execUeAnd_touches t n f s)
  | ueOr t n f => exact .within (execUeOr_touches t n f s)
  | ueXor t n f => exact .within (execUeXor_touches t n f s)
  | ueShl t n f => exact .within (execUeShl_touches t n f s)
  | ueShr t n f => exact .within (execUeShr_touches t n f s)
  | ueSra t n f => exact .within (execUeSra_touches t n f s)
  | ueAddi t n f => exact .within (execUeAddi_touches t n f s)
  | ueAndi t n f => exact .within (execUeAndi_touches t n f s)
  | ueLdi t n f => exact .within (execUeLdi_touches t n f s)
  | ueLhi t n f => exact .within (execUeLhi_touches t n f s)
  | ueSlt t n f => exact .within (execUeSlt_touches t n f s)
  | ueSltu t n f => exact .within (execUeSltu_touches t n f s)
  | ueMin t n f => exact .within (execUeMin_touches t n f s)
  | ueMax t n f => exact .within (execUeMax_touches t n f s)
  | ueFadd t n f => exact .within (execUeFadd_touches t n f s)
  | ueFsub t n f => exact .within (execUeFsub_touches t n f s)
  | ueFmul t n f => exact .within (execUeFmul_touches t n f s)
  | ueFfma t n f => exact .within (execUeFfma_touches t n f s)
  | ueFdiv t n f => exact .within (execUeFdiv_touches t n f s)
  | ueFsqrt t n f => exact .within (execUeFsqrt_touches t n f s)
  | ueFcvt t n f => exact .within (execUeFcvt_touches t n f s)
  | ueFlt t n f => exact .within (execUeFlt_touches t n f s)
  | ueCsrr t n f => exact .within (execUeCsrr_touches t n f s)
  | ueBr t n f => exact .within (execUeBr_touches t n f s)
  | ueJal t n f => exact .within (execUeJal_touches t n f s)
  | ueJr t n f => exact .within (execUeJr_touches t n f s)
  | ueVadd t n f => exact .within (execUeVadd_touches t n f s)
  | ueVsub t n f => exact .within (execUeVsub_touches t n f s)
  | ueVmul t n f => exact .within (execUeVmul_touches t n f s)
  | ueVfma t n f => exact .within (execUeVfma_touches t n f s)
  | ueVfnma t n f => exact .within (execUeVfnma_touches t n f s)
  | ueVmin t n f => exact .within (execUeVmin_touches t n f s)
  | ueVmax t n f => exact .within (execUeVmax_touches t n f s)
  | ueVdiv t n f => exact .within (execUeVdiv_touches t n f s)
  | ueVsqrt t n f => exact .within (execUeVsqrt_touches t n f s)
  | ueVrcp t n f => exact .within (execUeVrcp_touches t n f s)
  | ueVrsqrt t n f => exact .within (execUeVrsqrt_touches t n f s)
  | ueVabs t n f => exact .within (execUeVabs_touches t n f s)
  | ueVneg t n f => exact .within (execUeVneg_touches t n f s)
  | ueVfcmp t n f => exact .within (execUeVfcmp_touches t n f s)
  | ueVsel t n f => exact .within (execUeVsel_touches t n f s)
  | ueVcvt t n f => exact .within (execUeVcvt_touches t n f s)
  | ueVred t n f => exact .within (execUeVred_touches t n f s)
  | ueMmov t n f => exact .within (execUeMmov_touches t n f s)
  | ueViadd t n f => exact .within (execUeViadd_touches t n f s)
  | ueVisub t n f => exact .within (execUeVisub_touches t n f s)
  | ueVimul t n f => exact .within (execUeVimul_touches t n f s)
  | ueVand t n f => exact .within (execUeVand_touches t n f s)
  | ueVor t n f => exact .within (execUeVor_touches t n f s)
  | ueVxor t n f => exact .within (execUeVxor_touches t n f s)
  | ueVshl t n f => exact .within (execUeVshl_touches t n f s)
  | ueVshr t n f => exact .within (execUeVshr_touches t n f s)
  | ueVimin t n f => exact .within (execUeVimin_touches t n f s)
  | ueVimax t n f => exact .within (execUeVimax_touches t n f s)
  | ueVicmp t n f => exact .within (execUeVicmp_touches t n f s)
  | ueVlane t n f => exact .within (execUeVlane_touches t n f s)
  | ueVbcast t n f => exact .within (execUeVbcast_touches t n f s)
  | ueVext t n f => exact .within (execUeVext_touches t n f s)
  | ueVins t n f => exact .within (execUeVins_touches t n f s)
  | ueVperm t n f => exact .within (execUeVperm_touches t n f s)
  | ueLd t n f => exact .within (execUeLd_touches t n f s)
  | ueSt t n f => exact .within (execUeSt_touches t n f s)
  | ueVld t n f => exact .within (execUeVld_touches t n f s)
  | ueVldx t n f => exact .within (execUeVldx_touches t n f s)
  | ueVst t n f => exact .within (execUeVst_touches t n f s)
  | ueVlds t n f => exact .within (execUeVlds_touches t n f s)
  | ueVsts t n f => exact .within (execUeVsts_touches t n f s)
  | ueVgather t n f => exact .within (execUeVgather_touches t n f s)
  | ueVscatter t n f => exact .within (execUeVscatter_touches t n f s)
  | ueBmov t n f => exact .within (execUeBmov_touches t n f s)
  | ueAadd t n f => exact .within (execUeAadd_touches t n f s)
  | ueAmin t n f => exact .within (execUeAmin_touches t n f s)
  | ueAmax t n f => exact .within (execUeAmax_touches t n f s)
  | ueAswp t n f => exact .within (execUeAswp_touches t n f s)
  | ueAcas t n f => exact .within (execUeAcas_touches t n f s)
  | ueVaadd t n f => exact .within (execUeVaadd_touches t n f s)
  | ueFence t n f => exact .within (execUeFence_touches t n f s)
  | ueTsync t n f => exact .within (execUeTsync_touches t n f s)
  | ueBellw t n f nj => exact .within (execUeBellw_touches t n f nj s)
  | ueWaitm t n f nj => exact .within (execUeWaitm_touches t n f nj s)
  | ueYield t n f nj => exact .within (execUeYield_touches t n f nj s)
  | ueKwait t n f => exact .within (execUeKwait_touches t n f s)
  | ueEnd t n f nj => exact .within (execUeEnd_touches t n f nj s)
  | ueTake t n f nj => exact .within (execUeTake_touches t n f nj s)
  | ueTpoll t n f => exact .within (execUeTpoll_touches t n f s)
  | ueGive t n f => exact .within (execUeGive_touches t n f s)
  | ueOutbuf t n f => exact .within (execUeOutbuf_touches t n f s)
  | ueMcast t n f => exact .within (execUeMcast_touches t n f s)
  | ueRcpt t n f => exact .within (execUeRcpt_touches t n f s)
  | ueMxi t n f => exact .within (execUeMxi_touches t n f s)
  | _ => nomatch h

/-- A frame that a bucket holds is released without an upset, so POLICER_RELEASE leaves the supplies alone. -/
theorem exec_forwarding_touches (c : Instr) (s : State) (h : isForwarding c = true) :
    StepTouches forwardingParts s (exec c s) := by
  cases c with
  | ingressFrame p => exact .within (execIngressFrame_touches p s)
  | cellSlot => exact .within (execCellSlot_touches s)
  | columnDrain o => exact .within (execColumnDrain_touches o s)
  | resteerFrame o flight => exact .within (execResteerFrame_touches o flight s)
  | easeReceived source payload => exact .within (execEaseReceived_touches source payload s)
  | easeHoldEnd leaf => exact .within (execEaseHoldEnd_touches leaf s)
  | policerRelease t pitch vc => exact .within (execPolicerRelease_quiet t pitch vc s)
  | guardFlowRelease t flow => exact .within (execGuardFlowRelease_touches t flow s)
  | drainGuardEnd => exact .within (execDrainGuardEnd_touches s)
  | bankReadinessCheck => exact .within (execBankReadinessCheck_touches s)
  | bankSwitch => exact .within (execBankSwitch_touches s)
  | _ => nomatch h

/-- What an optical command's outcome keeps: every part but the optical ones, and the clocks. -/
structure OpticalOutcome (s : State) (r : Result) : Prop where
  touches : StepTouches opticalParts s r
  clocks : StepKeepsClocks s r

theorem OpticalOutcome.sparing {l : List Part} {s : State} {r : Result} (k : StepTouches l s r)
    (hl : l ⊆ opticalParts := by decide) (n : Part.time ∉ l := by decide) : OpticalOutcome s r :=
  ⟨k.within hl, fun t e => .ofTouches (k t e) n⟩

theorem exec_optical (c : Instr) (s : State) (h : isOptical c = true) : OpticalOutcome s (exec c s) := by
  cases c with
  | packInsert e ident => exact .sparing (execPackInsert_touches e ident s)
  | packStartStage e => exact .sparing (execPackStartStage_touches e s)
  | packPrepareDrainEnd e =>
    exact ⟨.within (execPackPrepareDrainEnd_touches e s), execPackPrepareDrainEnd_clocks e s⟩
  | packPull e => exact ⟨.within (execPackPull_touches e s), execPackPull_clocks e s⟩
  | preparedPackRemoval e => exact .sparing (execPreparedPackRemoval_touches e s)
  | lossOfLight t => exact .sparing (execLossOfLight_touches t s)
  | probeBurst t => exact .sparing (execProbeBurst_touches t s)
  | lightRestored t => exact .sparing (execLightRestored_touches t s)
  | fadeWindow e k mean => exact .sparing (execFadeWindow_touches e k mean s)
  | suddenLaserLoss e k => exact .sparing (execSuddenLaserLoss_touches e k s)
  | fadeSpareReady e k => exact .sparing (execFadeSpareReady_touches e k s)
  | fadeMoveRetry t home => exact .sparing (execFadeMoveRetry_touches t home s)
  | movePropose p msg locked => exact .sparing (execMovePropose_touches p msg locked s)
  | moveAccept p msg => exact .sparing (execMoveAccept_touches p msg s)
  | moveRefuse p msg => exact .sparing (execMoveRefuse_touches p msg s)
  | moveCancel p msg => exact .sparing (execMoveCancel_touches p msg s)
  | moveAnswerTimeout t rx home => exact .sparing (execMoveAnswerTimeout_touches t rx home s)
  | moveReadinessCheck t rx home ready => exact .sparing (execMoveReadinessCheck_touches t rx home ready s)
  | moveSwitch t rx home => exact .sparing (execMoveSwitch_touches t rx home s)
  | oldCarrierStop t rx home => exact .sparing (execOldCarrierStop_touches t rx home s)
  | calSlotStart t rx => exact .sparing (execCalSlotStart_touches t rx s)
  | calDwellEnd t rx => exact .sparing (execCalDwellEnd_touches t rx s)
  | ringExcursion e => exact .sparing (execRingExcursion_touches e s)
  | slewHalvingEnd e => exact .sparing (execSlewHalvingEnd_touches e s)
  | thoroughfareEffect e entry =>
    exact ⟨.within (execThoroughfareEffect_touches e entry s), execThoroughfareEffect_clocks e entry s⟩
  | _ => nomatch h

/-! ### The queue -/

/-- No command changes the queue: those of the three families by what each family changes, every other by its own
lemma. -/
theorem exec_touches_allButQueue (c : Instr) (s : State) : StepTouches allButQueue s (exec c s) := by
  by_cases hu : isUpdateInstr c = true
  · exact (exec_update_touches c s hu).within
  by_cases hf : isForwarding c = true
  · exact (exec_forwarding_touches c s hf).within
  by_cases ho : isOptical c = true
  · exact (exec_optical c s ho).touches.within
  have h : (isUpdateInstr c || isForwarding c || isOptical c) = false := by simp [hu, hf, ho]
  clear hu hf ho
  cases c with
  | standbyPowerUp => exact .within (execStandbyPowerUp_touches s)
  | strapSampling samples => exact .within (execStrapSampling_touches samples s)
  | standbyLoss => exact .within (execStandbyLoss_touches s)
  | startConditionsMet vinMv seated => exact .within (execStartConditionsMet_touches vinMv seated s)
  | prechargeComplete => exact .within (execPrechargeComplete_touches s)
  | railsUp => exact .within (execRailsUp_touches s)
  | undervoltage vinMv => exact .within (execUndervoltage_touches vinMv s)
  | overvoltage vinMv => exact .within (execOvervoltage_touches vinMv s)
  | bladeSeatBreak => exact .within (execBladeSeatBreak_touches s)
  | railFault rail atMs => exact .within (execRailFault_touches rail atMs s)
  | thermalTrip t milliC atMs => exact .within (execThermalTrip_touches t milliC atMs s)
  | powerRestart r word => exact .within (execPowerRestart_touches r word s)
  | rstNAssert => exact .within (execRstNAssert_touches s)
  | rstNRelease => exact .within (execRstNRelease_touches s)
  | dieRelease => exact .within (execDieRelease_touches s)
  | memoryReady => exact .within (execMemoryReady_touches s)
  | bootBundleLoaded fetched => exact .within (execBootBundleLoaded_touches fetched s)
  | bootListReady r word => exact .within (execBootListReady_touches r word s)
  | bootWaitExpiry => exact .within (execBootWaitExpiry_touches s)
  | engineStartDone group => exact .within (execEngineStartDone_touches group s)
  | ptpMessage port msg stamp => exact .within (execPtpMessage_touches port msg stamp s)
  | announceTimeout => exact .within (execAnnounceTimeout_touches s)
  | holdoverExceeded => exact .within (execHoldoverExceeded_touches s)
  | stepPermit r word => exact .within (execStepPermit_touches r word s)
  | stepApply => exact .within (execStepApply_touches s)
  | tb2NowWrite r value => exact .within (execTb2NowWrite_touches r value s)
  | tb2RateWrite r word => exact .within (execTb2RateWrite_touches r word s)
  | bellBoundary => exact .within (execBellBoundary_touches s)
  | tb0Switch => exact .within (execTb0Switch_touches s)
  | pulseFire k => exact .within (execPulseFire_touches k s)
  | pulseProgramWrite r k field value => exact .within (execPulseProgramWrite_touches r k field value s)
  | tinEdge j => exact .within (execTinEdge_touches j s)
  | tinCaptureRead r j => exact .within (execTinCaptureRead_touches r j s)
  | packPrepare r e => exact .within (execPackPrepare_touches r e s)
  | packCancelPrepare r e => exact .within (execPackCancelPrepare_touches r e s)
  | packRestart r e => exact .within (execPackRestart_touches r e s)
  | trainingFrame t lane inward control => exact .within (execTrainingFrame_touches t lane inward control s)
  | laneTrainingDone t lane inward merit => exact .within (execLaneTrainingDone_touches t lane inward merit s)
  | spareMeritCheck t lane inward merit retrained =>
    exact .within (execSpareMeritCheck_touches t lane inward merit retrained s)
  | lowMeritDetected t lane inward merit => exact .within (execLowMeritDetected_touches t lane inward merit s)
  | remapStart p inward => exact .within (execRemapStart_touches p inward s)
  | remapReadinessCheck p inward locked => exact .within (execRemapReadinessCheck_touches p inward locked s)
  | remapSwitch p inward => exact .within (execRemapSwitch_touches p inward s)
  | oldLaneIdle p inward merit => exact .within (execOldLaneIdle_touches p inward merit s)
  | opticalLock p => exact .within (execOpticalLock_touches p s)
  | linkInit p => exact .within (execLinkInit_touches p s)
  | identityFrame p payload => exact .within (execIdentityFrame_touches p payload s)
  | linkUnitReceive p u => exact .within (execLinkUnitReceive_touches p u s)
  | linkUnitSend p => exact .within (execLinkUnitSend_touches p s)
  | replayLimitReached p => exact .within (execReplayLimitReached_touches p s)
  | fecUncorrectableLimit p => exact .within (execFecUncorrectableLimit_touches p s)
  | amLockLoss p => exact .within (execAmLockLoss_touches p s)
  | retrainRequest p => exact .within (execRetrainRequest_touches p s)
  | retrain r p word => exact .within (execRetrain_touches r p word s)
  | retrainComplete p => exact .within (execRetrainComplete_touches p s)
  | retrainTimeout p => exact .within (execRetrainTimeout_touches p s)
  | expectedPeerWrite r p word => exact .within (execExpectedPeerWrite_touches r p word s)
  | widthWrite r p word => exact .within (execWidthWrite_touches r p word s)
  | widthChangeEffect p => exact .within (execWidthChangeEffect_touches p s)
  | poolRebuild r t word => exact .within (execPoolRebuild_touches r t word s)
  | poolRebuildDone t k => exact .within (execPoolRebuildDone_touches t k s)
  | poolRebuildAbandon t k => exact .within (execPoolRebuildAbandon_touches t k s)
  | admissionEffect pitch => exact .within (execAdmissionEffect_touches pitch s)
  | releaseEffect pitch => exact .within (execReleaseEffect_touches pitch s)
  | pitchFree pitch => exact .within (execPitchFree_touches pitch s)
  | serviceLookup t => exact .within (execServiceLookup_touches t s)
  | probeReturn t entry => exact .within (execProbeReturn_touches t entry s)
  | chipTableInsert t => exact .within (execChipTableInsert_touches t s)
  | stampWriteback t pitch mac => exact .within (execStampWriteback_touches t pitch mac s)
  | segLock r word => exact .within (execSegLock_touches r word s)
  | segRelease r word => exact .within (execSegRelease_touches r word s)
  | segLockExpiry seg => exact .within (execSegLockExpiry_touches seg s)
  | groupOpenAtG g => exact .within (execGroupOpenAtG_touches g s)
  | groupClosingAtC g => exact .within (execGroupClosingAtC_touches g s)
  | groupFree g => exact .within (execGroupFree_touches g s)
  | groupOpenFrame t => exact .within (execGroupOpenFrame_touches t s)
  | barrierDeadline g seq => exact .within (execBarrierDeadline_touches g seq s)
  | doneIncrement g seq => exact .within (execDoneIncrement_touches g seq s)
  | tillIntake t => exact .within (execTillIntake_touches t s)
  | outputPassEnd g seq chunk => exact .within (execOutputPassEnd_touches g seq chunk s)
  | sinkPost g seq chunk => exact .within (execSinkPost_touches g seq chunk s)
  | receiptDeadline g seq chunk => exact .within (execReceiptDeadline_touches g seq chunk s)
  | lateWindowEnd record => exact .within (execLateWindowEnd_touches record s)
  | keptPartialRelease record => exact .within (execKeptPartialRelease_touches record s)
  | abortFrame t => exact .within (execAbortFrame_touches t s)
  | abortApply g seq => exact .within (execAbortApply_touches g seq s)
  | runnerFrame p => exact .within (execRunnerFrame_touches p s)
  | runnerWaitResume p => exact .within (execRunnerWaitResume_touches p s)
  | runnerDue g seq => exact .within (execRunnerDue_touches g seq s)
  | runnerPatienceEnd g seq => exact .within (execRunnerPatienceEnd_touches g seq s)
  | heartbeatSend => exact .within (execHeartbeatSend_touches s)
  | heartbeatReceive p => exact .within (execHeartbeatReceive_touches p s)
  | startThreadsEffect run => exact .within (execStartThreadsEffect_touches run s)
  | stopThreadsEffect run => exact .within (execStopThreadsEffect_touches run s)
  | threadAdmission t => exact .within (execThreadAdmission_touches t s)
  | segWatchdog t n => exact .within (execSegWatchdog_touches t n s)
  | takeClaim t n => exact .within (execTakeClaim_touches t n s)
  | bellwWake t n => exact .within (execBellwWake_touches t n s)
  | waitmWake t n => exact .within (execWaitmWake_touches t n s)
  | bmovComplete t n => exact .within (execBmovComplete_touches t n s)
  | stallTakeOut t => exact .within (execStallTakeOut_touches t s)
  | stallReturn t => exact .within (execStallReturn_touches t s)
  | descriptorAdmit t => exact .within (execDescriptorAdmit_touches t s)
  | descriptorStart t slot => exact .within (execDescriptorStart_touches t slot s)
  | descriptorComplete t slot bubbles upset => exact .within (execDescriptorComplete_touches t slot bubbles upset s)
  | arrayResidueMismatch t q => exact .within (execArrayResidueMismatch_touches t q s)
  | arraySelfTestStart t => exact .within (execArraySelfTestStart_touches t s)
  | arraySelfTestEnd t pass => exact .within (execArraySelfTestEnd_touches t pass s)
  | scrubPass c corrected bad => exact .within (execScrubPass_touches c corrected bad s)
  | rowRepair c row bad => exact .within (execRowRepair_touches c row bad s)
  | channelNoAnswer c => exact .within (execChannelNoAnswer_touches c s)
  | mapOutStart c => exact .within (execMapOutStart_touches c s)
  | mapOutCopyEnd c bad => exact .within (execMapOutCopyEnd_touches c bad s)
  | channelMappedOut c => exact .within (execChannelMappedOut_touches c s)
  | stackTempReading q milliC atMs => exact .within (execStackTempReading_touches q milliC atMs s)
  | stagingBacklogSample t bytes => exact .within (execStagingBacklogSample_touches t bytes s)
  | custodyHello msg => exact .within (execCustodyHello_touches msg s)
  | helloTimeout pair => exact .within (execHelloTimeout_touches pair s)
  | custodyClose msg => exact .within (execCustodyClose_touches msg s)
  | closeWaitExpiry pair => exact .within (execCloseWaitExpiry_touches pair s)
  | rangeDigestDone pair range => exact .within (execRangeDigestDone_touches pair range s)
  | custodyDigest msg => exact .within (execCustodyDigest_touches msg s)
  | custodyCompared msg => exact .within (execCustodyCompared_touches msg s)
  | digestResend pair => exact .within (execDigestResend_touches pair s)
  | comparisonLate pair => exact .within (execComparisonLate_touches pair s)
  | restoreComplete pair => exact .within (execRestoreComplete_touches pair s)
  | resyncData msg => exact .within (execResyncData_touches msg s)
  | resyncAck msg => exact .within (execResyncAck_touches msg s)
  | resyncRangeTimeout pair => exact .within (execResyncRangeTimeout_touches pair s)
  | partnerTimeout pair => exact .within (execPartnerTimeout_touches pair s)
  | takeOverEffect pair => exact .within (execTakeOverEffect_touches pair s)
  | testQuietStart t => exact .within (execTestQuietStart_touches t s)
  | testEnd t pass code centiC => exact .within (execTestEnd_touches t pass code centiC s)
  | testWaitExpiry t => exact .within (execTestWaitExpiry_touches t s)
  | bandEntry t milliC => exact .within (execBandEntry_touches t milliC s)
  | bandExit t milliC => exact .within (execBandExit_touches t milliC s)
  | wardenDecision sweep => exact .within (execWardenDecision_touches sweep s)
  | decisionOverrun => exact .within (execDecisionOverrun_touches s)
  | thermalReading t milliC rise => exact .within (execThermalReading_touches t milliC rise s)
  | level2Throttle t milliC => exact .within (execLevel2Throttle_touches t milliC s)
  | thermalLevelExit t => exact .within (execThermalLevelExit_touches t s)
  | holdSettleExpiry t => exact .within (execHoldSettleExpiry_touches t s)
  | ledgerBoundary => exact .within (execLedgerBoundary_touches s)
  | ledgerEntryWritten => exact .within (execLedgerEntryWritten_touches s)
  | ledgerEnable r word => exact .within (execLedgerEnable_touches r word s)
  | counterControlWrite r index sub value => exact .within (execCounterControlWrite_touches r index sub value s)
  | instructionSample t n rec => exact .within (execInstructionSample_touches t n rec s)
  | packetSample p rec => exact .within (execPacketSample_touches p rec s)
  | registerWrite a index sub word => exact .within (execRegisterWrite_touches a index sub word s)
  | longObjectRead a index sub => exact .within (execLongObjectRead_touches a index sub s)
  | longObjectWrite r index sub word => exact .within (execLongObjectWrite_touches r index sub word s)
  | tableTransferStart r index sub word => exact .within (execTableTransferStart_touches r index sub word s)
  | tableTransferEnd r data hostError => exact .within (execTableTransferEnd_touches r data hostError s)
  | dictionaryMessage route bytes => exact .within (execDictionaryMessage_touches route bytes s)
  | i3cPrivateWrite bytes => exact .within (execI3cPrivateWrite_touches bytes s)
  | eventTailWrite r word => exact .within (execEventTailWrite_touches r word s)
  | slotClaim r k token => exact .within (execSlotClaim_touches r k token s)
  | slotFree r k => exact .within (execSlotFree_touches r k s)
  | slotSubmit r k => exact .within (execSlotSubmit_touches r k s)
  | slotWithdraw r k => exact .within (execSlotWithdraw_touches r k s)
  | slotIdleTimeout k => exact .within (execSlotIdleTimeout_touches k s)
  | admitPitch k => exact .within (execAdmitPitch_touches k s)
  | releasePitch k => exact .within (execReleasePitch_touches k s)
  | openGroup k => exact .within (execOpenGroup_touches k s)
  | closeGroup k => exact .within (execCloseGroup_touches k s)
  | startThreads k => exact .within (execStartThreads_touches k s)
  | stopThreads k => exact .within (execStopThreads_touches k s)
  | loadBundle k => exact .within (execLoadBundle_touches k s)
  | bundleVerified token fetched => exact .within (execBundleVerified_touches token fetched s)
  | runTest k => exact .within (execRunTest_touches k s)
  | fenceStall k => exact .within (execFenceStall_touches k s)
  | sublet k => exact .within (execSublet_touches k s)
  | remapLane k => exact .within (execRemapLane_touches k s)
  | setThoroughfare k => exact .within (execSetThoroughfare_touches k s)
  | mapOutChannel k => exact .within (execMapOutChannel_touches k s)
  | switchTableBank k => exact .within (execSwitchTableBank_touches k s)
  | pairCustody k => exact .within (execPairCustody_touches k s)
  | takeOver k => exact .within (execTakeOver_touches k s)
  | resync k => exact .within (execResync_touches k s)
  | checkpoint k => exact .within (execCheckpoint_touches k s)
  | checkpointEnd token hostError => exact .within (execCheckpointEnd_touches token hostError s)
  | cancel k => exact .within (execCancel_touches k s)
  | storeCommit r word => exact .within (execStoreCommit_touches r word s)
  | storeCommitDone entry => exact .within (execStoreCommitDone_touches entry s)
  | storeDelete r word => exact .within (execStoreDelete_touches r word s)
  | keyWrite r operator key => exact .within (execKeyWrite_touches r operator key s)
  | attestNonce r nonce => exact .within (execAttestNonce_touches r nonce s)
  | attestReportReady => exact .within (execAttestReportReady_touches s)
  | leaseWrite r pitch count word => exact .within (execLeaseWrite_touches r pitch count word s)
  | vfBindingWrite r v word => exact .within (execVfBindingWrite_touches r v word s)
  | pcieLinkTraining partnerMax eqFailed lanes =>
    exact .within (execPcieLinkTraining_touches partnerMax eqFailed lanes s)
  | pciePerstAssert => exact .within (execPciePerstAssert_touches s)
  | dmaCompletion req status data => exact .within (execDmaCompletion_touches req status data s)
  | completionTimeout req => exact .within (execCompletionTimeout_touches req s)
  | managementDomainReady => exact .within (execManagementDomainReady_touches s)
  | ptpTransmit port kind => exact .within (execPtpTransmit_touches port kind s)
  | pulseWidthEnd k => exact .within (execPulseWidthEnd_touches k s)
  | thoroughfareReadinessCheck e entry tuned =>
    exact .within (execThoroughfareReadinessCheck_touches e entry tuned s)
  | correctedErrorEntryDrop c row => exact .within (execCorrectedErrorEntryDrop_touches c row s)
  | ditherLoopFastEnd e => exact .within (execDitherLoopFastEnd_touches e s)
  | pcieLinkDown => exact .within (execPcieLinkDown_touches s)
  | pcieConfigWrite field => exact .within (execPcieConfigWrite_touches field s)
  | entdaa addr => exact .within (execEntdaa_touches addr s)
  | _ => nomatch h

theorem exec_pending {c : Instr} {s t : State} (e : exec c s = .next t) : t.pending = s.pending :=
  exec_touches_allButQueue c s t e .pending (by decide)

theorem vendorOr_inRange {r : Requester} {i : Nat} {s : State} {f : State → State} (h : vendorRange r i = true) :
    vendorOr r i s f = .fault .vendorPrivate := if_pos h

theorem vendorOr_outOfRange {r : Requester} {i : Nat} {s : State} {f : State → State} (h : vendorRange r i = false) :
    vendorOr r i s f = .next (f s) := by simp [vendorOr, h]

/-- Every arm answers a next state outright, but for the accesses that ask first whose range they address, and the
warden's overrun, which asks whether the decision was taken. -/
theorem exec_completes (c : Instr) (s : State) (h : isVendorPrivate c = false) : ∃ t, exec c s = .next t := by
  cases c with
  | registerWrite a => exact ⟨_, vendorOr_outOfRange h⟩
  | longObjectRead a => exact ⟨_, vendorOr_outOfRange h⟩
  | longObjectWrite => exact ⟨_, vendorOr_outOfRange h⟩
  | tableTransferStart => exact ⟨_, vendorOr_outOfRange h⟩
  | decisionOverrun =>
    by_cases d : s.decided = true
    · exact ⟨s, if_pos d⟩
    · exact ⟨_, if_neg d⟩
  | _ => exact ⟨_, rfl⟩

theorem exec_vendorPrivate (c : Instr) (s : State) (h : isVendorPrivate c = true) :
    exec c s = .fault .vendorPrivate := by
  cases c with
  | registerWrite a => exact vendorOr_inRange h
  | longObjectRead a => exact vendorOr_inRange h
  | longObjectWrite => exact vendorOr_inRange h
  | tableTransferStart => exact vendorOr_inRange h
  | _ => nomatch h

/-- Settles O2, by the parts that each command can change and the answer of each arm of the dispatch. -/
theorem queueIsKept : Obligations.QueueIsKept := by
  refine ⟨fun _ _ _ => exec_pending, fun c s h => ?_, exec_vendorPrivate⟩
  obtain ⟨t, e⟩ := exec_completes c s h
  exact ⟨t, e, exec_pending e⟩

/-- Settles O6, family by family; the fourth clause by what a port that drops out does to the clocks. -/
theorem familiesAreIsolated : Obligations.FamiliesAreIsolated := by
  refine ⟨exec_update_touches, exec_forwarding_touches, fun c s h => (exec_optical c s h).touches, ?_⟩
  intro c s t h e
  simpa [ClocksKept, clocks] using (exec_optical c s h).clocks t e

end Sys2Proof

/-! ## Stalls leave and re-enter compute -/

namespace Sys2Proof.OnlyTouches

open Machine

/-! ### Operations that spare the custody unit -/

theorem stall {l : List Part} {s u : State} (h : OnlyTouches l s u) (t : Nat)
    (n : Part.custody ∉ l := by decide) : u.stall t = s.stall t :=
  congrArg (fun c : CustodySt => Tbl.get c.stalls t {}) (h .custody n)

theorem homeEntry {l : List Part} {s u : State} (h : OnlyTouches l s u) (i : Nat)
    (n : Part.custody ∉ l := by decide) : u.homeEntry i = s.homeEntry i :=
  congrArg (fun c : CustodySt => Tbl.get c.home i i) (h .custody n)

end Sys2Proof.OnlyTouches

namespace Sys2Proof.Machine

/-! ### Tables after an erasure -/

theorem Tbl.find_erase_same {α : Type} (m : Tbl α) (k : Nat) : Tbl.find (Tbl.erase m k) k = none := by
  induction m with
  | nil => rfl
  | cons e m ih =>
    obtain ⟨j, w⟩ := e
    by_cases h : j = k <;> simp [Tbl.erase, Tbl.find, h, ih]

theorem Tbl.find_erase_other {α : Type} (m : Tbl α) {j k : Nat} (h : j ≠ k) :
    Tbl.find (Tbl.erase m k) j = Tbl.find m j := by
  induction m with
  | nil => rfl
  | cons e m ih =>
    obtain ⟨i, w⟩ := e
    by_cases hi : i = k
    · simp [Tbl.erase, Tbl.find, hi, Ne.symm h, ih]
    · simp [Tbl.erase, Tbl.find, hi, ih]

@[simp] theorem Tbl.get_erase_same {α : Type} (m : Tbl α) (k : Nat) (d : α) : Tbl.get (Tbl.erase m k) k d = d := by
  simp [Tbl.get, Tbl.find_erase_same]

theorem Tbl.get_erase_other {α : Type} (m : Tbl α) {j k : Nat} (d : α) (h : j ≠ k) :
    Tbl.get (Tbl.erase m k) j d = Tbl.get m j d := by
  simp [Tbl.get, Tbl.find_erase_other m h]

/-! ### The home map (01 R23, R24) -/

@[simp] theorem State.homeEntry_setStall (s : State) (t : Nat) (x : StallSt) (i : Nat) :
    (s.setStall t x).homeEntry i = s.homeEntry i := rfl

/-- One step of moveHomes: an entry that names `t` names `target`, stored only where it differs from the identity. -/
def redirect (home : Nat → Nat) (t target : Nat) (m : Tbl Nat) (i : Nat) : Tbl Nat :=
  if home i = t then (if i = target then Tbl.erase m i else Tbl.set m i target) else m

theorem get_redirect_same (home : Nat → Nat) (t target : Nat) (m : Tbl Nat) (i : Nat) :
    Tbl.get (redirect home t target m i) i i = if home i = t then target else Tbl.get m i i := by
  unfold redirect
  split
  · split
    next e => rw [Tbl.get_erase_same, e]
    next => exact Tbl.get_set_same ..
  · rfl

theorem get_redirect_other (home : Nat → Nat) (t target : Nat) (m : Tbl Nat) {i j : Nat} (h : i ≠ j) :
    Tbl.get (redirect home t target m j) i i = Tbl.get m i i := by
  unfold redirect
  split
  · split
    · exact Tbl.get_erase_other m i h
    · exact Tbl.get_set_other m target i h
  · rfl

theorem get_foldl_redirect (home : Nat → Nat) (t target i : Nat) : ∀ (l : List Nat) (m : Tbl Nat),
    Tbl.get (l.foldl (redirect home t target) m) i i
      = if i ∈ l ∧ home i = t then target else Tbl.get m i i
  | [], m => by simp
  | j :: l, m => by
    rw [List.foldl_cons, get_foldl_redirect home t target i l]
    by_cases e : i = j
    · subst e
      rw [get_redirect_same]
      by_cases h : home i = t <;> simp [h]
    · rw [get_redirect_other home t target m e]
      simp [e]

theorem State.moveHomes_custody (s : State) (t target : Nat) : (s.moveHomes t target).custody =
    { s.custody with home := (upTo 64).foldl (redirect s.homeEntry t target) s.custody.home } :=
  (State.homeEvent_touches _) .custody (by decide)

theorem State.moveHomes_stall (s : State) (t target k : Nat) : (s.moveHomes t target).stall k = s.stall k := by
  simp only [State.stall, State.moveHomes_custody]

theorem State.moveHomes_homeEntry (s : State) (t target : Nat) {i : Nat} (hi : i < 64) :
    (s.moveHomes t target).homeEntry i = if s.homeEntry i = t then target else s.homeEntry i := by
  have hm : i ∈ upTo 64 := List.mem_range.2 hi
  unfold State.homeEntry
  rw [State.moveHomes_custody, get_foldl_redirect]
  simp [hm, State.homeEntry]

/-- A neighbour in compute takes the work itself. -/
theorem State.workTarget_inCompute {s : State} {t : Nat} (h : (s.stall ((s.stall t).near t)).out = false)
    (fuel : Nat) : s.workTarget t (fuel + 1) = (s.stall t).near t := by
  simp [State.workTarget, h]

/-! ### A stall's compute is taken and given back (14 R458) -/

theorem State.takeOut_stall (s : State) (t : Nat) (c : ComputeState) (near : Option Nat) :
    (s.takeOut t c near).stall t = { s.stall t with compute := c, neighbour := near, out := true } := by
  unfold State.takeOut
  dsimp only
  split
  · exact State.stall_setStall ..
  · rw [(State.parkStall_touches _ _).stall, State.moveHomes_stall, State.stall_setStall]

/-- The entries that name a stall taken out name its neighbour, where that one is in compute. -/
theorem State.takeOut_homeEntry {s : State} {t : Nat} (c : ComputeState) {near : Option Nat}
    (ho : (s.stall t).out = false) (hn : near.getD (t ^^^ 1) ≠ t)
    (hin : (s.stall (near.getD (t ^^^ 1))).out = false) {i : Nat} (hi : i < 64) :
    (s.takeOut t c near).homeEntry i
      = if s.homeEntry i = t then near.getD (t ^^^ 1) else s.homeEntry i := by
  have target : (s.setStall t { s.stall t with compute := c, neighbour := near, out := true }).workTarget t 64
      = near.getD (t ^^^ 1) := by
    rw [State.workTarget_inCompute] <;> rw [State.stall_setStall]
    · rfl
    · exact (congrArg StallSt.out (State.stall_setStall_other s t _ _ hn)).trans hin
  unfold State.takeOut
  simp only [ho, Bool.false_eq_true, if_false]
  rw [(State.parkStall_touches _ _).homeEntry, target, State.moveHomes_homeEntry _ _ _ hi,
    State.homeEntry_setStall]

theorem State.giveBackStall_stall (s : State) (t : Nat) (c : ComputeState) :
    (s.giveBackStall t c).stall t = { s.stall t with compute := c, out := false } := by
  unfold State.giveBackStall
  dsimp only
  split
  · exact State.stall_setStall ..
  · rw [(State.unparkStall_touches _ _).stall, (State.homeEvent_touches _).stall]
    exact State.stall_setStall ..

/-- A stall that returns has its own entry back. -/
theorem State.giveBackStall_homeEntry {s : State} {t : Nat} (c : ComputeState) (ho : (s.stall t).out = true) :
    (s.giveBackStall t c).homeEntry t = t := by
  unfold State.giveBackStall
  simp only [ho, Bool.not_true, Bool.false_eq_true, if_false]
  rw [(State.unparkStall_touches _ _).homeEntry, (State.homeEvent_touches _).homeEntry]
  exact Tbl.get_erase_same ..

theorem State.restoreStall_stall (s : State) (t : Nat) : (s.restoreStall t).stall t =
    { s.stall t with
      band := none, due := (s.stall t).due.filter fun d => d.2.1 < 3, compute := .inCompute, out := false } := by
  simp [State.restoreStall, State.modStall, State.giveBackStall_stall]

theorem State.restoreStall_homeEntry {s : State} {t : Nat} (ho : (s.stall t).out = true) :
    (s.restoreStall t).homeEntry t = t :=
  State.giveBackStall_homeEntry _ (by simpa [State.modStall] using ho)

/-! ### The due commands SUBLET and FENCE_STALL (14 R458, R459) -/

theorem State.tokenRec_of_stallDue {s : State} {t k : Nat} {out : Bool} {r : TokenRec}
    (hk : s.stallDue t out = [k]) (hr : s.tokenRec k = some r) :
    bits (argOf r.args 0) 0 6 = t ∧ takesOut r.opcode r.args = out := by
  have hm : k ∈ s.stallDue t out := hk ▸ List.mem_singleton_self k
  have := (List.mem_filter.1 hm).2
  simpa [hr] using this

theorem State.stallTokens_singleton {s : State} {k : Nat} {r : TokenRec} (hr : s.tokenRec k = some r) :
    s.stallTokens [k] = ((s.markActed k).stallCommand r.opcode r.args).endDone k := by
  simp [State.stallTokens, hr]

theorem State.stallCommand_takeOut {s : State} {op : Nat} {args : Tbl Nat} (ho : takesOut op args = true)
    (ht : (s.stall (bits (argOf args 0) 0 6)).test = none) (hop : op = 10 ∨ op = 9 ∧ bits (argOf args 0) 8 2 = 0) :
    s.stallCommand op args = s.takeOut (bits (argOf args 0) 0 6) (if op = 10 then .sublet else .fenced)
      (nearOf (argOf args 0)) := by
  obtain rfl | ⟨rfl, hm⟩ := hop
  · simp [State.stallCommand, ho, ht]
  · simp [State.stallCommand, ho, ht, hm]

theorem State.stallCommand_arm {s : State} {args : Tbl Nat} (ho : takesOut 9 args = true)
    (ht : (s.stall (bits (argOf args 0) 0 6)).test = none) (hm : bits (argOf args 0) 8 2 = 2) :
    let x := s.stall (bits (argOf args 0) 0 6)
    s.stallCommand 9 args = s.setStall (bits (argOf args 0) 0 6) { x with
      band := some (bandOf args), neighbour := nearOf (argOf args 0)
      compute := if x.out = true then x.compute else .bandArmed } := by
  simp [State.stallCommand, ho, ht, hm]

theorem State.stallCommand_restore {s : State} {op : Nat} {args : Tbl Nat} (ho : takesOut op args = false) :
    s.stallCommand op args = s.restoreStall (bits (argOf args 0) 0 6) := by
  simp [State.stallCommand, ho]

/-! ### What a test or a reading has scheduled (14 R457, R459) -/

/-- What was scheduled for a stall is taken up. -/
def State.unschedule (s : State) (t : Nat) : State := s.setStall t { s.stall t with due := none }

@[simp] theorem State.unschedule_stall (s : State) (t : Nat) :
    (s.unschedule t).stall t = { s.stall t with due := none } := State.stall_setStall ..

theorem State.unschedule_stall_other {s : State} {t k : Nat} (h : k ≠ t) : (s.unschedule t).stall k = s.stall k :=
  State.stall_setStall_other _ _ _ _ h

@[simp] theorem State.unschedule_homeEntry (s : State) (t i : Nat) : (s.unschedule t).homeEntry i = s.homeEntry i := rfl

section
variable {s : State} {t rung token : Nat}

theorem State.testDue_drain (hd : (s.stall t).due = some (rung, 0, token)) (hr : rung ≤ s.time.rung) :
    s.testDue t = (s.unschedule t).takeOut t .testWaiting (s.stall t).neighbour := by
  simp [State.testDue, hd, Nat.not_lt.2 hr, State.unschedule]

theorem State.testDue_return (hd : (s.stall t).due = some (rung, 1, token)) (hr : rung ≤ s.time.rung) :
    s.testDue t = ((s.unschedule t).modStall t fun x => { x with test := none }).giveBackStall t .inCompute := by
  simp [State.testDue, hd, Nat.not_lt.2 hr, State.unschedule]

theorem State.testDue_enterBand (hd : (s.stall t).due = some (rung, 3, token)) (hr : rung ≤ s.time.rung)
    (hc : (s.stall t).compute = .bandArmed) :
    s.testDue t = ((s.unschedule t).takeOut t .inBand (s.stall t).neighbour).bump (Obj.bandEntries t) := by
  simp [State.testDue, hd, Nat.not_lt.2 hr, hc, State.unschedule]

theorem State.testDue_leaveBand (hd : (s.stall t).due = some (rung, 4, token)) (hr : rung ≤ s.time.rung)
    (hc : (s.stall t).compute = .inBand) :
    s.testDue t = (s.unschedule t).giveBackStall t .bandArmed := by
  simp [State.testDue, hd, Nat.not_lt.2 hr, hc, State.unschedule]

end

/-! ### STALL_TAKE_OUT and STALL_RETURN -/

section
variable {t : Stall} {s : State}

theorem execStallTakeOut_commands
    (hd : ((s.stallTokens (s.stallDue t.val true)).stall t.val).due = none) :
    execStallTakeOut t s = .next (s.stallTokens (s.stallDue t.val true)) := by
  simp [execStallTakeOut, hd]

theorem execStallTakeOut_scheduled {rung what token : Nat} (hn : s.stallDue t.val true = [])
    (hd : (s.stall t.val).due = some (rung, what, token)) (hw : what = 0 ∨ what = 3) :
    execStallTakeOut t s = .next (s.testDue t.val) := by
  simp [execStallTakeOut, hn, State.stallTokens, hd, hw]

theorem execStallReturn_commands
    (hd : ((s.stallTokens (s.stallDue t.val false)).stall t.val).due = none) :
    execStallReturn t s = .next (s.stallTokens (s.stallDue t.val false)) := by
  simp [execStallReturn, hd]

theorem execStallReturn_scheduled {rung what token : Nat} (hn : s.stallDue t.val false = [])
    (hd : (s.stall t.val).due = some (rung, what, token)) (hw : what = 1 ∨ what = 4) :
    execStallReturn t s = .next (s.testDue t.val) := by
  simp [execStallReturn, hn, State.stallTokens, hd, hw]

end

/-! ### TEST_QUIET_START (14 R457; 15 R468, R473, R479) -/

section
variable {s : State} {x : LoadStep} {mw : Nat}

theorem State.askTally_admitted (h : s.warden.queue.headD x = x ∧ s.tallyAdmits mw = true) :
    s.askTally x mw = ({ s with warden := { s.warden with
      queue := s.warden.queue.erase x, spent := s.warden.spent + mw } }, true) :=
  if_pos (Bool.and_eq_true_iff.2 ⟨beq_iff_eq.2 h.1, h.2⟩)

theorem State.askTally_refused (h : ¬ (s.warden.queue.headD x = x ∧ s.tallyAdmits mw = true)) :
    s.askTally x mw = ({ s with warden := { s.warden with
      queue := if s.warden.queue.contains x then s.warden.queue else s.warden.queue ++ [x] } }, false) :=
  if_neg fun e => h (by simpa using Bool.and_eq_true_iff.1 e)

/-- A step that is not admitted waits in the queue. -/
theorem State.mem_queue_of_refused (h : ¬ (s.warden.queue.headD x = x ∧ s.tallyAdmits mw = true)) :
    x ∈ (s.askTally x mw).1.warden.queue := by
  rw [State.askTally_refused h]
  by_cases c : x ∈ s.warden.queue <;> simp [c]

end

/-- A stall whose test starts is held at a temperature, if the test names one (15 R479). -/
def State.holdTest (s : State) (t : Nat) : Option Nat → State
  | some h => (s.putInt (Obj.holdTarget t) (10 * h)).putObj (Obj.holdStatus t) 1
  | none => s

theorem State.holdTest_touches (s : State) (t : Nat) (hold : Option Nat) :
    OnlyTouches [.objs] s (s.holdTest t hold) := by
  cases hold with
  | none => exact .refl _ s
  | some h => exact (State.putInt_touches s _ _).next (State.putObj_touches _ _ _) (List.Subset.refl _)

/-- The tally has admitted the package: the stall is sublet if it is not, and its test runs. -/
def State.beginTest (s : State) (t : Nat) (y : Test) : State :=
  (((s.modStall t fun x => { x with test := some { y with heldFrom := s.tb1Ns } }).takeOut t .testing
    (s.stall t).neighbour).markActed y.token).holdTest t y.hold

theorem State.beginTest_stall (s : State) (t : Nat) (y : Test) : (s.beginTest t y).stall t =
    { s.stall t with compute := .testing, out := true, test := some { y with heldFrom := s.tb1Ns } } := by
  rw [State.beginTest, (State.holdTest_touches _ _ _).stall, (State.markActed_touches _ _).stall,
    State.takeOut_stall, State.modStall, State.stall_setStall]

theorem State.beginTest_warden (s : State) (t : Nat) (y : Test) : (s.beginTest t y).warden = s.warden :=
  ((State.holdTest_touches _ _ _) .warden (by decide)).trans <|
    ((State.markActed_touches _ _) .warden (by decide)).trans ((State.takeOut_touches _ _ _ _) .warden (by decide))

theorem State.beginTest_holdStatus (s : State) (t : Nat) {y : Test} {h : Nat} (hy : y.hold = some h) :
    (s.beginTest t y).obj (Obj.holdStatus t) = 1 := by
  rw [State.beginTest, hy]
  exact State.obj_putObj ..

/-- A waiting test on a quiet stall asks the tally. -/
theorem State.startTest_quiet {s : State} {t : Nat} {y : Test} (hy : (s.stall t).test = some y)
    (hc : (s.stall t).compute = .testWaiting) (hd : (s.stall t).due = none) (hs : y.since < s.time.rung)
    (ho : y.drain = true → (s.stall t).out = true) (hq : s.quiet t = true)
    (hm : s.packageMay (s.packageStep y.package) = true) :
    s.startTest t = if (s.askTally (.package t) (s.packageStep y.package)).2
      then (s.askTally (.package t) (s.packageStep y.package)).1.beginTest t y
      else (s.askTally (.package t) (s.packageStep y.package)).1 := by
  have drained : (y.drain && !(s.stall t).out) = false := by
    cases h : y.drain with
    | false => rfl
    | true => simp [ho h]
  have kept := (State.askTally_touches s (.package t) (s.packageStep y.package)).stall t
  unfold State.startTest
  simp only [hy, hc, hd, drained, hq, hm, Nat.not_le.2 hs, bne_self_eq_false, decide_false, Option.isSome_none,
    Bool.not_true, Bool.or_self, Bool.false_eq_true, if_false]
  cases h : (s.askTally (.package t) (s.packageStep y.package)).2 with
  | false => simp
  | true =>
    simp only [Bool.not_true, Bool.false_eq_true, if_false, if_true, State.beginTest, kept]
    cases y.hold <;> rfl

/-! ### TEST_END and TEST_WAIT_EXPIRY (14 R457) -/

/-- A test ends: its result stands, its hold is over, and its stall's next boundary is scheduled. -/
def State.closeTest (s : State) (t w what : Nat) (y : Test) : State :=
  let u := (((s.bump Obj.testsRun).putTest t w).putInt (Obj.holdTarget t) 0).putObj (Obj.holdStatus t) 0
  u.modStall t fun x => { x with due := some (u.time.rung + 1, what, y.token) }

theorem State.closeTest_stall (s : State) (t w what : Nat) (y : Test) : (s.closeTest t w what y).stall t =
    { s.stall t with due := some (s.time.rung + 1, what, y.token) } := by
  have time : ((s.bump Obj.testsRun).putTest t w).time = s.time := (State.putTest_touches _ _ _) .time (by decide)
  rw [State.closeTest, State.modStall, State.stall_setStall, (State.putObj_touches _ _ _).stall,
    (State.putInt_touches _ _ _).stall, (State.putTest_touches _ _ _).stall, (State.bump_touches _ _ _).stall,
    State.putObj_time, State.putInt, State.putObj_time, time]

theorem State.closeTest_arrays (s : State) (t w what : Nat) (y : Test) :
    (s.closeTest t w what y).arrays = s.arrays := (State.putTest_touches _ _ _) .arrays (by decide)

/-- The word of test_result: passed, or failed with the package's code and the temperature (14 R457). -/
def testWord (pass : Bool) (code : Byte) (centiC : BitVec 16) : Nat :=
  if pass then 1 else 2 + code.toNat * 2 ^ 8 + centiC.toNat * 2 ^ 16

theorem execTestEnd_running {t : Stall} {s : State} {y : Test} (pass : Bool) (code : Byte) (centiC : BitVec 16)
    (hy : (s.stall t.val).test = some y) (hc : (s.stall t.val).compute = .testing) (hd : (s.stall t.val).due = none)
    (hh : s.obj (Obj.holdStatus t.val) ≠ 1) :
    let u := s.closeTest t.val (testWord pass code centiC) (if pass then 1 else 2) y
    execTestEnd t pass code centiC s = .next (if pass then (u.clearFences t.val).endDone y.token
      else (u.bump Obj.testsFailed).endFailed y.token 17) := by
  simp [execTestEnd, hy, hc, hd, hh, State.closeTest, testWord]

theorem execTestEnd_settling {t : Stall} {s : State} (pass : Bool) (code : Byte) (centiC : BitVec 16)
    (hh : s.obj (Obj.holdStatus t.val) = 1) : execTestEnd t pass code centiC s = .next s := by
  unfold execTestEnd
  dsimp only
  split
  · simp [hh]
  · rfl

theorem State.dropTest_stall (s : State) (t : Nat) : (s.dropTest t).stall t =
    if (s.stall t).out = true then { s.stall t with due := some (s.time.rung + 1, 1, 0) }
    else { s.stall t with due := none, test := none, compute := .inCompute } := by
  unfold State.dropTest
  dsimp only
  split <;> exact State.stall_setStall ..

theorem execTestWaitExpiry_late {t : Stall} {s : State} {y : Test} (hy : (s.stall t.val).test = some y)
    (hc : (s.stall t.val).compute = .testWaiting) (hd : (s.stall t.val).due = none)
    (hl : y.since + y.waitLimit ≤ s.time.rung) :
    execTestWaitExpiry t s = .next (((s.putTest t.val 3).dropTest t.val).endFailed y.token 16) := by
  simp [execTestWaitExpiry, hy, hc, hd, Nat.not_lt.2 hl]

/-! ### BAND_ENTRY and BAND_EXIT (14 R459) -/

theorem State.bandNext_stall (s : State) (t what : Nat) :
    (s.bandNext t what).stall t = { s.stall t with due := some (s.time.rung + 1, what, 0) } :=
  State.stall_setStall ..

section
variable {t : Stall} {s : State} {a b milliC : Int} (hb : (s.stall t.val).band = some (a, b))
include hb

theorem execBandEntry_within (hc : (s.stall t.val).compute = .bandArmed) (ha : 1000 * a ≤ milliC)
    (hz : milliC ≤ 1000 * b) : execBandEntry t milliC s = .next (s.bandNext t.val 3) := by
  simp [execBandEntry, hb, hc, ha, hz]

theorem execBandExit_outside (hc : (s.stall t.val).compute = .inBand)
    (ho : milliC < 1000 * (a - s.obj Obj.bandHyst) ∨ 1000 * (b + s.obj Obj.bandHyst) < milliC) :
    execBandExit t milliC s = .next (s.bandNext t.val 4) := by
  simp [execBandExit, hb, hc, ho]

end

end Sys2Proof.Machine

namespace Sys2Proof

open Machine

/-! ### The completions -/

section
variable {t : Stall} {s : State} {k : Nat} {r : TokenRec}

theorem stallTakeOut_commanded (hk : s.stallDue t.val true = [k]) (hr : s.tokenRec k = some r)
    (ht : (s.stall t.val).test = none) (hd : (s.stall t.val).due = none)
    (hop : r.opcode = 10 ∨ r.opcode = 9 ∧ bits (argOf r.args 0) 8 2 = 0) :
    Gives (.stallTakeOut t) s [.objs, .update, .custody, .dict, .host, .out] fun u =>
      u.stall t.val = { s.stall t.val with
          compute := if r.opcode = 10 then .sublet else .fenced, neighbour := nearOf (argOf r.args 0), out := true }
        ∧ ((s.stall t.val).out = false → let near := (nearOf (argOf r.args 0)).getD (t.val ^^^ 1)
          near ≠ t.val → (s.stall near).out = false →
            ∀ i < 64, u.homeEntry i = if s.homeEntry i = t.val then near else s.homeEntry i) := by
  obtain ⟨names, takes⟩ := State.tokenRec_of_stallDue hk hr
  have marked := (State.markActed_touches s k).stall
  have acts : s.stallTokens (s.stallDue t.val true) = ((s.markActed k).takeOut t.val
      (if r.opcode = 10 then .sublet else .fenced) (nearOf (argOf r.args 0))).endDone k := by
    rw [hk, State.stallTokens_singleton hr, State.stallCommand_takeOut takes (by rw [names, marked, ht]) hop, names]
  have stall : (s.stallTokens (s.stallDue t.val true)).stall t.val = { s.stall t.val with
      compute := if r.opcode = 10 then .sublet else .fenced, neighbour := nearOf (argOf r.args 0), out := true } := by
    rw [acts, (State.endDone_touches _ _).stall, State.takeOut_stall, marked]
  have e : execStallTakeOut t s = _ := execStallTakeOut_commands ((congrArg StallSt.due stall).trans hd)
  refine ⟨_, e, execStallTakeOut_touches t s _ e, stall, fun ho hn hin i hi => ?_⟩
  rw [acts, (State.endDone_touches _ _).homeEntry,
    State.takeOut_homeEntry _ (by rw [marked, ho]) hn (by rw [marked]; exact hin) hi,
    (State.markActed_touches s k).homeEntry]

theorem stallTakeOut_arms (hk : s.stallDue t.val true = [k]) (hr : s.tokenRec k = some r)
    (ht : (s.stall t.val).test = none) (hd : (s.stall t.val).due = none)
    (hop : r.opcode = 9) (hm : bits (argOf r.args 0) 8 2 = 2) :
    Gives (.stallTakeOut t) s [.objs, .custody, .dict, .host, .out] fun u =>
      u.stall t.val = { s.stall t.val with
        band := some (bandOf r.args), neighbour := nearOf (argOf r.args 0)
        compute := if (s.stall t.val).out = true then (s.stall t.val).compute else .bandArmed } := by
  obtain ⟨names, takes⟩ := State.tokenRec_of_stallDue hk hr
  have marked := (State.markActed_touches s k).stall
  rw [hop] at takes
  have acts : s.stallTokens (s.stallDue t.val true) = ((s.markActed k).setStall t.val { s.stall t.val with
      band := some (bandOf r.args), neighbour := nearOf (argOf r.args 0)
      compute := if (s.stall t.val).out = true then (s.stall t.val).compute else .bandArmed }).endDone k := by
    rw [hk, State.stallTokens_singleton hr, hop, State.stallCommand_arm takes (by rw [names, marked, ht]) hm, names,
      marked]
  have stall := (congrArg (State.stall · t.val) acts).trans <|
    ((State.endDone_touches _ _).stall _).trans (State.stall_setStall ..)
  refine ⟨_, execStallTakeOut_commands ((congrArg StallSt.due stall).trans hd), ?_, stall⟩
  rw [acts]
  exact (((State.markActed_touches s k).mono (by decide)).next (State.setStall_touches _ _ _) (by decide)).next
    (State.endDone_touches _ _) (by decide)

theorem stallReturn_commanded (hk : s.stallDue t.val false = [k]) (hr : s.tokenRec k = some r)
    (hd : (s.stall t.val).due = none) :
    Gives (.stallReturn t) s [.objs, .update, .custody, .dict, .host, .out] fun u =>
      u.stall t.val = { s.stall t.val with band := none, compute := .inCompute, out := false }
        ∧ ((s.stall t.val).out = true → u.homeEntry t.val = t.val) := by
  obtain ⟨names, restores⟩ := State.tokenRec_of_stallDue hk hr
  have marked := (State.markActed_touches s k).stall
  have acts : s.stallTokens (s.stallDue t.val false) = ((s.markActed k).restoreStall t.val).endDone k := by
    rw [hk, State.stallTokens_singleton hr, State.stallCommand_restore restores, names]
  have stall : (s.stallTokens (s.stallDue t.val false)).stall t.val =
      { s.stall t.val with band := none, compute := .inCompute, out := false } := by
    rw [acts, (State.endDone_touches _ _).stall, State.restoreStall_stall, marked]
    simp [hd]
  have e : execStallReturn t s = _ := execStallReturn_commands ((congrArg StallSt.due stall).trans hd)
  refine ⟨_, e, execStallReturn_touches t s _ e, stall, fun ho => ?_⟩
  rw [acts, (State.endDone_touches _ _).homeEntry, State.restoreStall_homeEntry (by rw [marked, ho])]

end

section
variable {t : Stall} {s : State} {rung token : Nat} (hr : rung ≤ s.time.rung)
include hr

theorem stallTakeOut_drains (hn : s.stallDue t.val true = []) (hd : (s.stall t.val).due = some (rung, 0, token)) :
    Gives (.stallTakeOut t) s [.objs, .update, .custody, .dict, .host, .out] fun u =>
      u.stall t.val = { s.stall t.val with due := none, compute := .testWaiting, out := true } := by
  have e : execStallTakeOut t s = _ := execStallTakeOut_scheduled hn hd (.inl rfl)
  have stall : (s.testDue t.val).stall t.val =
      { s.stall t.val with due := none, compute := .testWaiting, out := true } := by
    rw [State.testDue_drain hd hr, State.takeOut_stall, State.unschedule_stall]
  exact ⟨_, e, execStallTakeOut_touches t s _ e, stall⟩

theorem stallTakeOut_entersBand (hn : s.stallDue t.val true = [])
    (hd : (s.stall t.val).due = some (rung, 3, token)) (hc : (s.stall t.val).compute = .bandArmed) :
    Gives (.stallTakeOut t) s [.objs, .update, .custody, .dict, .host, .out] fun u =>
      u.stall t.val = { s.stall t.val with due := none, compute := .inBand, out := true }
        ∧ ((s.stall t.val).out = false → (s.stall t.val).near t.val ≠ t.val →
          (s.stall ((s.stall t.val).near t.val)).out = false →
          ∀ i < 64, u.homeEntry i = if s.homeEntry i = t.val then (s.stall t.val).near t.val else s.homeEntry i) := by
  have e : execStallTakeOut t s = _ := execStallTakeOut_scheduled hn hd (.inr rfl)
  have acts := State.testDue_enterBand hd hr hc
  refine ⟨_, e, execStallTakeOut_touches t s _ e, ?_, fun ho hnear hin i hi => ?_⟩
  · rw [acts, (State.bump_touches _ _ _).stall, State.takeOut_stall, State.unschedule_stall]
  · rw [acts, (State.bump_touches _ _ _).homeEntry, State.takeOut_homeEntry _ (by simpa using ho) hnear
      ((congrArg StallSt.out (State.unschedule_stall_other hnear)).trans hin) hi, State.unschedule_homeEntry]
    rfl

theorem stallReturn_afterTest (hn : s.stallDue t.val false = []) (hd : (s.stall t.val).due = some (rung, 1, token)) :
    Gives (.stallReturn t) s [.objs, .update, .custody, .dict, .host, .out] fun u =>
      u.stall t.val = { s.stall t.val with due := none, test := none, compute := .inCompute, out := false }
        ∧ ((s.stall t.val).out = true → u.homeEntry t.val = t.val) := by
  have e : execStallReturn t s = _ := execStallReturn_scheduled hn hd (.inl rfl)
  refine ⟨_, e, execStallReturn_touches t s _ e, ?_, fun ho => ?_⟩ <;> rw [State.testDue_return hd hr]
  · simp [State.giveBackStall_stall, State.modStall]
  · exact State.giveBackStall_homeEntry _ (by simpa [State.modStall] using ho)

theorem stallReturn_leavesBand (hn : s.stallDue t.val false = [])
    (hd : (s.stall t.val).due = some (rung, 4, token)) (hc : (s.stall t.val).compute = .inBand) :
    Gives (.stallReturn t) s [.objs, .update, .custody, .dict, .host, .out] fun u =>
      u.stall t.val = { s.stall t.val with due := none, compute := .bandArmed, out := false }
        ∧ ((s.stall t.val).out = true → u.homeEntry t.val = t.val) := by
  have e : execStallReturn t s = _ := execStallReturn_scheduled hn hd (.inr rfl)
  refine ⟨_, e, execStallReturn_touches t s _ e, ?_, fun ho => ?_⟩ <;> rw [State.testDue_leaveBand hd hr hc]
  · rw [State.giveBackStall_stall, State.unschedule_stall]
  · exact State.giveBackStall_homeEntry _ (by simpa using ho)

end

section
variable {t : Stall} {s : State} {y : Test} (hy : (s.stall t.val).test = some y)
  (hd : (s.stall t.val).due = none)
include hy hd

section
variable (hc : (s.stall t.val).compute = .testWaiting) (hs : y.since < s.time.rung)
  (ho : y.drain = true → (s.stall t.val).out = true) (hq : s.quiet t.val = true)
  (hm : s.packageMay (s.packageStep y.package) = true)
include hc hs ho hq hm

theorem testQuietStart_admitted
    (may : s.warden.queue.headD (.package t.val) = .package t.val ∧ s.tallyAdmits (s.packageStep y.package) = true) :
    Gives (.testQuietStart t) s [.objs, .update, .custody, .warden, .dict, .host, .out] fun u =>
      u.stall t.val = { s.stall t.val with
          compute := .testing, out := true, test := some { y with heldFrom := s.tb1Ns } }
        ∧ u.warden.spent = s.warden.spent + s.packageStep y.package
        ∧ ∀ h : Nat, y.hold = some h → u.obj (Obj.holdStatus t.val) = 1 := by
  refine ⟨_, rfl, State.startTest_touches s t.val, ?_⟩
  rw [State.startTest_quiet hy hc hd hs ho hq hm, State.askTally_admitted may]
  exact ⟨State.beginTest_stall .., congrArg WardenSt.spent (State.beginTest_warden ..),
    fun h => State.beginTest_holdStatus _ _⟩

theorem testQuietStart_refused
    (may : ¬ (s.warden.queue.headD (.package t.val) = .package t.val
      ∧ s.tallyAdmits (s.packageStep y.package) = true)) :
    Gives (.testQuietStart t) s [.warden] fun u => .package t.val ∈ u.warden.queue := by
  have waits : s.startTest t.val = (s.askTally (.package t.val) (s.packageStep y.package)).1 := by
    rw [State.startTest_quiet hy hc hd hs ho hq hm, State.askTally_refused may]
    rfl
  refine ⟨_, rfl, ?_⟩
  rw [waits]
  exact ⟨State.askTally_touches _ _ _, State.mem_queue_of_refused may⟩

end

theorem testEnd_ends (pass : Bool) (code : Byte) (centiC : BitVec 16) (hc : (s.stall t.val).compute = .testing)
    (hh : s.obj (Obj.holdStatus t.val) ≠ 1) :
    Gives (.testEnd t pass code centiC) s [.objs, .arrays, .custody, .dict, .host] fun u =>
      u.stall t.val = { s.stall t.val with due := some (s.time.rung + 1, if pass then 1 else 2, y.token) }
        ∧ (pass = true → (u.array t.val).fenced = 0 ∧ (u.array t.val).stuck = 0)
        ∧ (pass = false → u.arrays = s.arrays) := by
  have e := execTestEnd_running pass code centiC hy hc hd hh
  refine ⟨_, e, execTestEnd_touches t pass code centiC s _ e, ?_⟩
  cases pass with
  | true =>
    refine ⟨?_, fun _ => ?_, nofun⟩
    · rw [if_pos rfl, (State.endDone_touches _ _).stall, (State.clearFences_touches _ _).stall,
        State.closeTest_stall]
    · have kept : ∀ u : State, (u.endDone y.token).array t.val = u.array t.val := fun u =>
        congrArg (fun a : Tbl ArraySt => Tbl.get a t.val {}) ((State.endDone_touches u y.token) .arrays (by decide))
      rw [if_pos rfl, kept, State.clearFences, State.modArray, State.array_setArray]
      exact ⟨rfl, rfl⟩
  | false =>
    refine ⟨?_, nofun, fun _ => ?_⟩
    · rw [if_neg Bool.false_ne_true, (State.endFailed_touches _ _ _).stall, (State.bump_touches _ _ _).stall,
        State.closeTest_stall]
    · exact ((State.endFailed_touches _ _ _) .arrays (by decide)).trans (State.closeTest_arrays s t.val _ 2 y)

theorem testWaitExpiry_givesUp (hc : (s.stall t.val).compute = .testWaiting)
    (hl : y.since + y.waitLimit ≤ s.time.rung) :
    Gives (.testWaitExpiry t) s [.objs, .custody, .dict, .host] fun u =>
      u.stall t.val = if (s.stall t.val).out = true then { s.stall t.val with due := some (s.time.rung + 1, 1, 0) }
        else { s.stall t.val with test := none, compute := .inCompute } := by
  have e := execTestWaitExpiry_late hy hc hd hl
  have time : (s.putTest t.val 3).time = s.time := (State.putTest_touches _ _ _) .time (by decide)
  have stall := State.dropTest_stall (s.putTest t.val 3) t.val
  rw [(State.putTest_touches _ _ _).stall, time, ← hd] at stall
  exact ⟨_, e, execTestWaitExpiry_touches t s _ e, ((State.endFailed_touches _ _ _).stall _).trans stall⟩

end

/-- Settles O45, command by command, by the equations above for the operations that each performs. -/
theorem stallsLeaveCompute : Obligations.StallsLeaveCompute := by
  refine ⟨?takeOut, ?takeOutScheduled, ?comesBack, ?comesBackScheduled, ?start, ?finish, ?expiry, ?entry, ?leave⟩
  case takeOut => exact fun t k r s hk hr ht hd =>
    ⟨stallTakeOut_commanded hk hr ht hd, stallTakeOut_arms hk hr ht hd⟩
  case takeOutScheduled => exact fun t rung token s hn hr =>
    ⟨stallTakeOut_drains hr hn, stallTakeOut_entersBand hr hn⟩
  case comesBack => exact fun t k r s => stallReturn_commanded
  case comesBackScheduled => exact fun t rung token s hn hr =>
    ⟨stallReturn_afterTest hr hn, stallReturn_leavesBand hr hn⟩
  case start => exact fun t y s hy hc hd hs ho hq hm =>
    ⟨testQuietStart_admitted hy hd hc hs ho hq hm, testQuietStart_refused hy hd hc hs ho hq hm⟩
  case finish => exact fun t pass code centiC y s hy hc hd =>
    ⟨execTestEnd_settling pass code centiC, testEnd_ends hy hd pass code centiC hc⟩
  case expiry => exact fun t y s hy hc hd => testWaitExpiry_givesUp hy hd hc
  case entry => exact fun t milliC a b s hb hc ha hz =>
    ⟨_, execBandEntry_within hb hc ha hz, State.bandNext_touches _ _ _, State.bandNext_stall ..⟩
  case leave => exact fun t milliC a b s hb hc ho =>
    ⟨_, execBandExit_outside hb hc ho, State.bandNext_touches _ _ _, State.bandNext_stall ..⟩

end Sys2Proof

/-! ## The life of a pitch (07 R213, R216; 15 R481) -/

namespace Sys2Proof.Machine

/-- What every step of a fold keeps, the fold keeps. -/
theorem State.foldl_same {α β : Type} (view : State → β) {f : State → α → State}
    (h : ∀ s a, view (f s a) = view s) (l : List α) (s : State) : view (l.foldl f s) = view s := by
  induction l generalizing s with
  | nil => rfl
  | cons a l ih => exact (ih _).trans (h s a)

theorem State.pitch_of_table {s u : State} (h : u.pitches.pitches = s.pitches.pitches) (q : Nat) :
    u.pitch q = s.pitch q := congrArg (fun m : Tbl PitchSt => Tbl.get m q {}) h

end Sys2Proof.Machine

namespace Sys2Proof.OnlyTouches

open Machine

/-! ### Operations that spare the pitches -/

theorem pitchTable {l : List Part} {s u : State} (h : OnlyTouches l s u) (n : Part.pitches ∉ l) :
    u.pitches.pitches = s.pitches.pitches := congrArg PitchesSt.pitches (h .pitches n)

theorem pitch {l : List Part} {s u : State} (h : OnlyTouches l s u) (p : Nat) (n : Part.pitches ∉ l) :
    u.pitch p = s.pitch p := State.pitch_of_table (h.pitchTable n) p

end Sys2Proof.OnlyTouches

namespace Sys2Proof.Machine

/-! ### ADMISSION_EFFECT (07 R213) -/

theorem Tbl.find_filter {α : Type} (keep : Nat → Bool) {k : Nat} (h : keep k = true) (m : Tbl α) :
    Tbl.find (m.filter fun e => keep e.1) k = Tbl.find m k := by
  induction m with
  | nil => rfl
  | cons e m ih =>
    obtain ⟨j, v⟩ := e
    by_cases hj : keep j = true
    · simp [Tbl.find, hj, ih]
    · have other : j ≠ k := fun e => hj (e ▸ h)
      simp [Tbl.find, hj, other, ih]

/-- Objects outside a pitch's range keep their words. -/
theorem State.admitObjs_obj_other (s : State) {p : Nat} {o : Obj} (h : o.key / 256 ≠ 0x2000 + p) :
    (s.admitObjs p).obj o = s.obj o := by
  have outside : o.key ≠ (Obj.pitchGeneration p).key := by simp only [Obj.pitchGeneration]; omega
  rw [State.admitObjs, State.obj_putObj_other _ _ _ _ outside]
  exact congrArg (·.getD o.dflt)
    (Tbl.find_filter (fun k => !(k / 256 == 0x2000 + p && !(decide (0x60 ≤ k % 256)))) (k := o.key) (by simp [h])
      s.objs)

theorem State.admitObjs_generation (s : State) (p : Nat) : (s.admitObjs p).obj (Obj.pitchGeneration p) =
    (s.obj (Obj.pitchGeneration p) + 1) % 65536 := State.obj_putObj ..

/-- The rate that an admission gives bucket `n`: the command's, or the template's (07 R213). -/
def State.admittedRate (s : State) (args : List Nat) (n : Nat) : Nat :=
  if bit (args.getD 0 0) (16 + n) then bits (args.getD (1 + n) 0) 0 32 else s.obj (Obj.defaultRate n)

/-- A bucket's rate, burst and action are the objects from subindex 0x08 on; all others keep their words. -/
theorem State.admitBucket_obj_other (s : State) {p : Nat} (args : List Nat) {n : Nat} {o : Obj}
    (hr : o.key ≠ (Obj.bucketRate p n).key) (hb : o.key ≠ (Obj.bucketBurst p n).key)
    (ha : o.key ≠ (Obj.bucketAction p n).key) : (s.admitBucket p args n).obj o = s.obj o := by
  rw [State.admitBucket, State.obj_putObj_other _ _ _ _ ha, State.obj_putObj_other _ _ _ _ hb,
    State.obj_putObj_other _ _ _ _ hr]

theorem State.admitBucket_rate (s : State) (p : Nat) (args : List Nat) (n : Nat) :
    (s.admitBucket p args n).obj (Obj.bucketRate p n) = s.admittedRate args n := by
  rw [State.admitBucket, State.obj_putObj_other, State.obj_putObj_other, State.obj_putObj]
  · rfl
  all_goals simp only [Obj.bucketRate, Obj.bucketBurst, Obj.bucketAction]; omega

theorem State.admitBucket_admittedRate (s : State) (p : Nat) (args : List Nat) (m : Nat) {n : Nat} (hn : n < 8) :
    (s.admitBucket p args m).admittedRate args n = s.admittedRate args n := by
  rw [State.admittedRate, State.admitBucket_obj_other]
  · rfl
  all_goals simp only [Obj.defaultRate, Obj.bucketRate, Obj.bucketBurst, Obj.bucketAction]; omega

theorem State.admitBuckets_obj_other (p : Nat) (args : List Nat) {o : Obj}
    (h : ∀ n < 8, o.key ≠ (Obj.bucketRate p n).key ∧ o.key ≠ (Obj.bucketBurst p n).key
      ∧ o.key ≠ (Obj.bucketAction p n).key) :
    ∀ (l : List Nat) (s : State), (∀ n ∈ l, n < 8) → (s.each l fun s n => s.admitBucket p args n).obj o = s.obj o
  | [], _, _ => rfl
  | n :: l, s, hl => by
    obtain ⟨hr, hb, ha⟩ := h n (hl n List.mem_cons_self)
    exact (State.admitBuckets_obj_other p args h l _ fun m hm => hl m (List.mem_cons_of_mem n hm)).trans
      (s.admitBucket_obj_other args hr hb ha)

theorem State.admitBuckets_rate (p : Nat) (args : List Nat) {n : Nat} (hn : n < 8) :
    ∀ (l : List Nat) (s : State), (∀ m ∈ l, m < 8) →
      (s.each l fun s n => s.admitBucket p args n).obj (Obj.bucketRate p n)
        = if n ∈ l then s.admittedRate args n else s.obj (Obj.bucketRate p n)
  | [], _, _ => by simp [State.each]
  | m :: l, s, hl => by
    have hm : m < 8 := hl m List.mem_cons_self
    have rest := State.admitBuckets_rate p args hn l (s.admitBucket p args m)
      fun i hi => hl i (List.mem_cons_of_mem m hi)
    rw [s.admitBucket_admittedRate p args m hn] at rest
    refine rest.trans ?_
    by_cases e : n = m
    · subst e
      simp [s.admitBucket_rate]
    · have kept : (s.admitBucket p args m).obj (Obj.bucketRate p n) = s.obj (Obj.bucketRate p n) := by
        apply State.admitBucket_obj_other <;>
          simp only [Obj.bucketRate, Obj.bucketBurst, Obj.bucketAction] <;> omega
      simp [e, kept]

/-- The buckets of a pitch with their parameters: all eight, after its other objects have their defaults. -/
def State.admitParams (s : State) (p : Nat) (args : List Nat) : State :=
  ((s.admitObjs p).each (upTo 8) fun s n => s.admitBucket p args n).putObj (Obj.openBooks p)
    (b2n (bit (args.getD 0 0) 24))

theorem mem_upTo {i n : Nat} : i ∈ upTo n ↔ i < n := List.mem_range

theorem State.admitParams_generation (s : State) (p : Nat) (args : List Nat) :
    (s.admitParams p args).obj (Obj.pitchGeneration p) = (s.obj (Obj.pitchGeneration p) + 1) % 65536 := by
  rw [State.admitParams, State.obj_putObj_other, State.admitBuckets_obj_other _ _ _ _ _ fun _ => mem_upTo.1,
    State.admitObjs_generation]
  · intro n hn
    simp only [Obj.pitchGeneration, Obj.bucketRate, Obj.bucketBurst, Obj.bucketAction]
    omega
  · simp only [Obj.pitchGeneration, Obj.openBooks]
    omega

theorem State.admitParams_rate (s : State) (p : Nat) (args : List Nat) {n : Nat} (hn : n < 8) :
    (s.admitParams p args).obj (Obj.bucketRate p n) = s.admittedRate args n := by
  have template : (s.admitObjs p).obj (Obj.defaultRate n) = s.obj (Obj.defaultRate n) :=
    s.admitObjs_obj_other (by simp only [Obj.defaultRate]; omega)
  rw [State.admitParams, State.obj_putObj_other, State.admitBuckets_rate p args hn _ _ fun _ => mem_upTo.1,
    if_pos (mem_upTo.2 hn), State.admittedRate, template]
  · rfl
  · simp only [Obj.bucketRate, Obj.openBooks]
    omega

theorem State.admitEffect_due {s : State} {p : Nat} {args : List Nat} (ha : (s.pitch p).admission = some args)
    (hr : (s.pitch p).takenRung < s.time.rung) :
    s.admitEffect p = ((s.admitParams p args).fillBuckets p).setPitch p { state := .admitted } := by
  simp only [State.admitEffect, ha, Nat.not_le.2 hr, if_false, State.admitParams]

theorem State.admitEffect_obj {s : State} {p : Nat} {args : List Nat} (ha : (s.pitch p).admission = some args)
    (hr : (s.pitch p).takenRung < s.time.rung) (o : Obj) : (s.admitEffect p).obj o = (s.admitParams p args).obj o := by
  rw [State.admitEffect_due ha hr]
  generalize s.admitParams p args = u
  rfl

theorem State.admitEffect_early {s : State} {p : Nat} (h : s.time.rung ≤ (s.pitch p).takenRung) :
    s.admitEffect p = s := by
  unfold State.admitEffect
  split
  · rfl
  · exact if_pos h

/-- What the admission does to the buckets leaves every pitch as it was. -/
theorem State.admitParams_pitchTable (s : State) (p : Nat) (args : List Nat) :
    (s.admitParams p args).pitches.pitches = s.pitches.pitches :=
  (((State.admitObjs_touches s p).each _ fun _ _ => State.admitBucket_touches _ _ _ _).next
    (State.putObj_touches _ _ _) (List.Subset.refl _)).pitchTable (by decide)

theorem State.fillBuckets_pitchTable (s : State) (p : Nat) :
    (s.fillBuckets p).pitches.pitches = s.pitches.pitches := rfl

theorem State.admitEffect_pitch_self {s : State} {p : Nat} {args : List Nat}
    (ha : (s.pitch p).admission = some args) (hr : (s.pitch p).takenRung < s.time.rung) :
    (s.admitEffect p).pitch p = { state := .admitted } := by
  rw [State.admitEffect_due ha hr, State.pitch_setPitch]

theorem State.admitEffect_pitch_other {s : State} {p q : Nat} {args : List Nat}
    (ha : (s.pitch p).admission = some args) (hr : (s.pitch p).takenRung < s.time.rung) (hq : q ≠ p) :
    (s.admitEffect p).pitch q = s.pitch q := by
  rw [State.admitEffect_due ha hr, State.pitch_setPitch_other _ _ _ _ hq]
  exact State.pitch_of_table ((State.fillBuckets_pitchTable _ _).trans (s.admitParams_pitchTable p args)) q

/-! ### RELEASE_EFFECT (07 R216): the release of held frames leaves the pitches as they are -/

theorem State.setShare_pitchTable (s : State) (p vc t : Nat) (x : Share) :
    (s.setShare p vc t x).pitches.pitches = s.pitches.pitches := rfl

theorem State.unhold_pitchTable (s : State) (p vc t i : Nat) (f : Flight) :
    (s.unhold p vc t i f).pitches.pitches = s.pitches.pitches := rfl

/-- A released frame is charged to its bucket, or only counted. -/
theorem State.chargeOrCount_pitchTable (s : State) (charge : Bool) (t : Nat) (f : Frame) (o : Obj) :
    (if charge then s.chargeFrame t f else s.bump o).pitches.pitches = s.pitches.pitches := by
  cases charge <;> rfl

theorem State.runnerRelease_pitchTable (s : State) (pitch t p : Nat) (charge : Bool) (u : Upset) :
    (s.runnerRelease pitch t p charge u).pitches.pitches = s.pitches.pitches := by
  unfold State.runnerRelease
  dsimp only
  split
  · exact State.setShare_pitchTable ..
  · exact ((State.runnerAccept_touches _ _ _ _).pitchTable (by decide)).trans
      ((State.chargeOrCount_pitchTable ..).trans (State.setShare_pitchTable ..))

theorem State.releaseHeld_pitchTable (s : State) (p vc t : Nat) (charge : Bool) :
    (s.releaseHeld p vc t charge).pitches.pitches = s.pitches.pitches := by
  have unheld : ∀ (i : Nat) (f : Flight) (g : Frame) (o : Obj), (if charge then (s.unhold p vc t i f).chargeFrame t g
      else (s.unhold p vc t i f).bump o).pitches.pitches = s.pitches.pitches := fun i f g o =>
    (State.chargeOrCount_pitchTable ..).trans (s.unhold_pitchTable p vc t i f)
  unfold State.releaseHeld
  split
  · rfl
  split
  · exact State.runnerRelease_pitchTable ..
  split
  · rfl
  dsimp only
  split
  · exact ((State.classify_touches _ _ _).pitchTable (by decide)).trans (unheld ..)
  · exact unheld ..

theorem State.releaseAllHeld_pitch (s : State) (p q : Nat) : (s.releaseAllHeld p).pitch q = s.pitch q := by
  unfold State.releaseAllHeld
  exact State.pitch_of_table
    (State.foldl_same (·.pitches.pitches) (fun _ _ => State.releaseHeld_pitchTable _ _ _ _ _) _ s) q

theorem State.releaseEffect_due {s : State} {p : Nat} (hd : (s.pitch p).releaseDue = true)
    (hr : (s.pitch p).takenRung < s.time.rung) :
    s.releaseEffect p = (s.setPitch p { s.pitch p with
      state := .releasing, releaseDue := false, freeAt := some ((s.pitch p).takenRung + 17) }).releaseAllHeld p := by
  simp [State.releaseEffect, hd, hr]

theorem State.releaseEffect_early {s : State} {p : Nat} (h : s.time.rung ≤ (s.pitch p).takenRung) :
    s.releaseEffect p = s := by
  simp [State.releaseEffect, Nat.not_lt.2 h]

/-! ### PITCH_FREE (07 R216, 15 R481) -/

/-- The pitch is free and its lease empty. -/
def State.unleased (s : State) (p : Nat) : State :=
  ((s.setPitch p {}).putObj (Obj.leaseBase p) 0).putObj (Obj.leaseCount p) 0

theorem State.freePitch_over {s : State} {p r : Nat} (hs : (s.pitch p).state = .releasing)
    (hf : (s.pitch p).freeAt = some r) (hr : r ≤ s.time.rung) :
    s.freePitch p = (s.unleased p).when (s.obj (Obj.leaseCount p) != 0) fun u =>
      u.putObj (Obj.leaseGeneration p) ((u.obj (Obj.leaseGeneration p) + 1) % 65536) := by
  simp only [State.freePitch, hs, hf, hr, if_true, State.unleased]

theorem State.unleased_base (s : State) (p : Nat) : (s.unleased p).obj (Obj.leaseBase p) = 0 := by
  rw [State.unleased, State.obj_putObj_other _ _ _ _ (by simp only [Obj.leaseBase, Obj.leaseCount]; omega),
    State.obj_putObj]

theorem State.unleased_count (s : State) (p : Nat) : (s.unleased p).obj (Obj.leaseCount p) = 0 := State.obj_putObj ..

theorem State.unleased_generation (s : State) (p : Nat) :
    (s.unleased p).obj (Obj.leaseGeneration p) = s.obj (Obj.leaseGeneration p) := by
  rw [State.unleased, State.obj_putObj_other, State.obj_putObj_other]
  · rfl
  all_goals simp only [Obj.leaseBase, Obj.leaseCount, Obj.leaseGeneration]; omega

end Sys2Proof.Machine

namespace Sys2Proof

open Machine

theorem admissionEffect_admits {p : Pitch} {args : List Nat} {s : State}
    (ha : (s.pitch p.val).admission = some args) (hr : (s.pitch p.val).takenRung < s.time.rung) :
    Gives (.admissionEffect p) s [.objs, .pitches] fun t =>
      t.pitch p.val = { state := .admitted }
        ∧ t.obj (Obj.pitchGeneration p.val) = (s.obj (Obj.pitchGeneration p.val) + 1) % 65536
        ∧ t.obj (Obj.openBooks p.val) = b2n (bit (args.getD 0 0) 24)
        ∧ (∀ n < 8, t.obj (Obj.bucketRate p.val n) = s.admittedRate args n)
        ∧ (∀ q, q ≠ p.val → t.pitch q = s.pitch q) := by
  refine ⟨_, rfl, State.admitEffect_touches s p.val, ?_⟩
  have obj := State.admitEffect_obj ha hr
  exact ⟨State.admitEffect_pitch_self ha hr, (obj _).trans (s.admitParams_generation _ args),
    (obj _).trans (State.obj_putObj ..), fun n hn => (obj _).trans (s.admitParams_rate _ args hn),
    fun q hq => State.admitEffect_pitch_other ha hr hq⟩

theorem releaseEffect_releases {p : Pitch} {s : State} (hd : (s.pitch p.val).releaseDue = true)
    (hr : (s.pitch p.val).takenRung < s.time.rung) :
    Gives (.releaseEffect p) s
      [.objs, .power, .ports, .switch, .pitches, .service, .coll, .mem, .ledger, .dict, .host, .free] fun t =>
      t.pitch p.val = { s.pitch p.val with
        state := .releasing, releaseDue := false, freeAt := some ((s.pitch p.val).takenRung + 17) } := by
  refine ⟨_, rfl, State.releaseEffect_touches s p.val, ?_⟩
  rw [State.releaseEffect_due hd hr]
  exact (State.releaseAllHeld_pitch ..).trans (State.pitch_setPitch ..)

theorem pitchFree_frees {p : Pitch} {r : Nat} {s : State} (hs : (s.pitch p.val).state = .releasing)
    (hf : (s.pitch p.val).freeAt = some r) (hr : r ≤ s.time.rung) :
    Gives (.pitchFree p) s [.objs, .pitches] fun t =>
      t.pitch p.val = {} ∧ t.obj (Obj.leaseBase p.val) = 0 ∧ t.obj (Obj.leaseCount p.val) = 0
        ∧ t.obj (Obj.leaseGeneration p.val) = (if s.obj (Obj.leaseCount p.val) = 0
            then s.obj (Obj.leaseGeneration p.val) else (s.obj (Obj.leaseGeneration p.val) + 1) % 65536) := by
  refine ⟨_, rfl, State.freePitch_touches s p.val, ?_⟩
  have pitch : (s.unleased p.val).pitch p.val = {} := State.pitch_setPitch ..
  rw [State.freePitch_over hs hf hr]
  by_cases empty : s.obj (Obj.leaseCount p.val) = 0
  · simp only [State.when, empty, bne_self_eq_false, Bool.false_eq_true, if_false, if_true]
    exact ⟨pitch, s.unleased_base _, s.unleased_count _, s.unleased_generation _⟩
  · simp only [State.when, bne_iff_ne.2 empty, empty, if_true, if_false]
    refine ⟨pitch, (State.obj_putObj_other _ _ _ _ ?_).trans (s.unleased_base _),
      (State.obj_putObj_other _ _ _ _ ?_).trans (s.unleased_count _),
      by rw [State.obj_putObj, State.unleased_generation]⟩
    all_goals simp only [Obj.leaseBase, Obj.leaseCount, Obj.leaseGeneration]; omega

/-- Settles O25, boundary by boundary of a pitch's life. -/
theorem pitchLife : Obligations.PitchLife := by
  refine ⟨?admitted, ?early, ?releasing, ?free⟩
  case admitted => exact fun p args s => admissionEffect_admits
  case early => exact fun p s h =>
    ⟨congrArg Host.Outcome.next (State.admitEffect_early h), congrArg Host.Outcome.next (State.releaseEffect_early h)⟩
  case releasing => exact fun p s => releaseEffect_releases
  case free => exact fun p r s => pitchFree_frees

end Sys2Proof

/-! ## Commands of slots at intake (17 R533 to R537) -/

namespace Sys2Proof.Machine

/-! ### The record of a token -/

theorem State.tokenRec_of_tokens {s u : State} (h : u.dict.tokens = s.dict.tokens) (token : Nat) :
    u.tokenRec token = s.tokenRec token := congrArg (List.find? fun r : TokenRec => r.token == token) h

theorem State.track_tokens (s : State) (token : Nat) : (s.track token).dict.tokens = s.dict.tokens := by
  unfold State.track
  split <;> rfl

theorem State.writeEvent_tokens (s : State) (e : EventRec) : (s.writeEvent e).dict.tokens = s.dict.tokens := by
  unfold State.writeEvent
  dsimp only
  split <;> rfl

/-- An event writes the ring of events, never the store of tokens. -/
theorem State.completionEvent_tokens (s : State) (k token : Nat) :
    (s.completionEvent k token).dict.tokens = s.dict.tokens := by
  unfold State.completionEvent State.event
  split
  · rfl
  · split
    · rfl
    · exact (congrArg DictSt.tokens ((State.eventInterrupts_touches _) .dict (by decide))).trans
        (State.writeEvent_tokens ..)

theorem State.tokenRec_modToken (s : State) (token : Nat) {f : TokenRec → TokenRec}
    (hf : ∀ r, (f r).token = r.token) : (s.modToken token f).tokenRec token = (s.tokenRec token).map f := by
  have same : ((fun r : TokenRec => r.token == token) ∘ fun r => if r.token == token then f r else r)
      = fun r => r.token == token := by
    funext r
    by_cases h : r.token = token <;> simp [h, hf]
  unfold State.tokenRec State.modToken
  rw [List.find?_map, same]
  cases h : s.dict.tokens.find? fun r => r.token == token with
  | none => rfl
  | some r => exact congrArg some (if_pos (List.find?_some h))

/-- A busy command that becomes final: its record takes its status, its code and the bell. -/
theorem State.endCommand_tokens {s : State} {token : Nat} {r : TokenRec} (hr : s.tokenRec token = some r)
    (hb : r.status = .busy) (st : SlotStatus) (code : Nat) : (s.endCommand token st code).dict.tokens =
      (s.modToken token fun r => { r with status := st, code := code, final := s.time.bell }).dict.tokens := by
  have interrupted : ∀ (c : Bool) (u : State), (u.when c fun s => s.interrupt 0 3).dict.tokens = u.dict.tokens :=
    fun c u => congrArg DictSt.tokens
      ((OnlyTouches.refl _ u).when c (fun v => State.interrupt_touches v 0 3) .dict (by decide))
  simp only [State.endCommand, hr, hb, bne_self_eq_false, Bool.false_eq_true, if_false]
  rw [interrupted, State.completionEvent_tokens, State.track_tokens]

/-! ### ADMIT_PITCH and RELEASE_PITCH (07 R213, R216) -/

/-- A pitch takes what its next boundary does, and the command ends with its result. -/
def State.takenPitch (s : State) (token p : Nat) (x : PitchSt) (v : Nat) : State :=
  ((s.setPitch p x).setResult token 0 v).endDone token

theorem State.takenPitch_pitch (s : State) (token p : Nat) (x : PitchSt) (v : Nat) :
    (s.takenPitch token p x v).pitch p = x :=
  ((State.endDone_touches _ _).pitch p (by decide)).trans
    (((State.setResult_touches _ _ _ _).pitch p (by decide)).trans (State.pitch_setPitch ..))

/-! ### LOAD_BUNDLE (18 R562) -/

theorem State.bundleResult_dict (s : State) (token kind number identity : Nat) :
    OnlyTouches [.dict] s (s.bundleResult token kind number identity) :=
  (State.setResult_touches _ _ _ _).next (State.setResult_touches _ _ _ _) (List.Subset.refl _)

/-- The result of an unloading: the slot and what stood in it, if anything did. -/
def State.unloadResult (s : State) (token k : Nat) : State :=
  match Tbl.find s.update.programs k with
  | some p => s.bundleResult token 1 k p.identity
  | none => s

theorem State.unloadResult_dict (s : State) (token k : Nat) : OnlyTouches [.dict] s (s.unloadResult token k) := by
  unfold State.unloadResult
  split
  · exact State.bundleResult_dict _ _ _ _ _
  · exact .refl _ _

theorem State.unload_eq (s : State) (token k : Nat) :
    s.unload token k = ((s.unloadResult token k).dropProgram k).endDone token := rfl

theorem State.loadTake_unload {s : State} (token : Nat) {args : Tbl Nat} (h : bit (argOf args 0) 2 = true) :
    s.loadTake token args = s.unload token (bits (argOf args 0) 8 8) := if_pos h

theorem State.unload_only (s : State) (token k : Nat) :
    OnlyTouches [.objs, .update, .dict, .host] s (s.unload token k) :=
  (((State.unloadResult_dict s token k).mono (by decide)).next (State.dropProgram_touches _ _) (by decide)).next
    (State.endDone_touches _ _) (by decide)

theorem State.unload_programs (s : State) (token k : Nat) : Tbl.find (s.unload token k).update.programs k = none := by
  rw [State.unload_eq, (State.endDone_touches _ _) .update (by decide)]
  exact Tbl.find_erase_same ..

/-! ### OPEN_GROUP (09 R265) -/

/-- The record of a group that OPEN_GROUP schedules. -/
def State.scheduledGroup (s : State) (token bell : Nat) (args : Tbl Nat) : GroupSt :=
  let x := s.openRecord args
  { x with
    state := .scheduled, generation := ((s.group (bits (openWord args) 0 16)).generation + 1) % 65536
    ghome := s.chooseHome, openAt := bell, token, outFrameData := s.frameData x
    ring := s.freeRing s.chooseHome x.queueDepth }

/-- The group's record stands scheduled, and nothing of the group before it is queued or kept as ended. -/
def State.scheduleGroup (s : State) (token bell : Nat) (args : Tbl Nat) : State :=
  let g := bits (openWord args) 0 16
  let s := s.setGroup g (s.scheduledGroup token bell args)
  { s with coll := { s.coll with queues := Tbl.erase s.coll.queues g, ended := Tbl.erase s.coll.ended g } }

theorem State.openTake_eq (s : State) (token bell : Nat) (args : Tbl Nat) :
    let x := s.scheduledGroup token bell args
    s.openTake token bell args = (((s.scheduleGroup token bell args).setResult token 0 x.generation).setResult
      token 1 x.ghome).setResult token 2 x.outFrameData := rfl

theorem State.openTake_coll (s : State) (token bell : Nat) (args : Tbl Nat) :
    (s.openTake token bell args).coll = (s.scheduleGroup token bell args).coll := by
  have result : ∀ (u : State) (i v : Nat), (u.setResult token i v).coll = u.coll :=
    fun u i v => (State.setResult_touches u token i v) .coll (by decide)
  rw [State.openTake_eq, result, result, result]

theorem State.openTake_group (s : State) (token bell : Nat) (args : Tbl Nat) :
    (s.openTake token bell args).group (bits (openWord args) 0 16) = s.scheduledGroup token bell args :=
  (congrArg (fun c : CollSt => Tbl.get c.groups _ {}) (s.openTake_coll token bell args)).trans
    (State.group_setGroup ..)

theorem State.openTake_queueOf (s : State) (token bell : Nat) (args : Tbl Nat) :
    (s.openTake token bell args).queueOf (bits (openWord args) 0 16) = [] :=
  (congrArg (fun c : CollSt => Tbl.get c.queues _ []) (s.openTake_coll token bell args)).trans
    (Tbl.get_erase_same ..)

theorem State.scheduleGroup_touches (s : State) (token bell : Nat) (args : Tbl Nat) :
    OnlyTouches [.coll] s (s.scheduleGroup token bell args) :=
  .put_coll (by decide) (State.setGroup_touches _ _ _)

/-! ### CLOSE_GROUP (09 R268) -/

section
variable {s : State} {args : Tbl Nat}

theorem State.closeTake_ends (h : (s.group (bits (argOf args 0) 0 16)).state = .free
    ∨ (s.group (bits (argOf args 0) 0 16)).state = .closing) (token : Nat) :
    s.closeTake token args = s.endDone token := if_pos (by simpa using h)

theorem State.closeTake_waits (h : (s.group (bits (argOf args 0) 0 16)).state = .scheduled
    ∨ (s.group (bits (argOf args 0) 0 16)).state = .opened) (token : Nat) : s.closeTake token args = s :=
  if_neg (by rcases h with e | e <;> simp [e])

end

/-! ### START_THREADS (11 R352) -/

theorem State.takeThreads_runs (s : State) (run t : Nat) (r : Run) :
    (s.takeThreads run t r).update.runs = s.update.runs := by
  unfold State.takeThreads
  refine State.foldl_same (·.update.runs) (fun u b => ?_) _ s
  refine State.foldl_same (·.update.runs) ?_ (upTo r.teamSize) (u.setTeam t b { size := r.teamSize })
  exact fun _ _ => rfl

/-- The run of a START_THREADS that was taken. -/
def startedRun (token bell : Nat) (args : Tbl Nat) : Run := { runOfArgs args with startAt := bell, token := token }

theorem State.startTake_eq {s : State} {n : Nat} (h : s.freeRun = some n) (token bell : Nat) (args : Tbl Nat) :
    let r := startedRun token bell args
    s.startTake token bell args
      = (stallsOf r.stalls).foldl (fun s t => s.takeThreads n t r) ((s.setRun n r).setResult token 0 n) := by
  simp only [State.startTake, h, startedRun]

theorem State.startTake_runOf {s : State} {n : Nat} (h : s.freeRun = some n) (token bell : Nat) (args : Tbl Nat) :
    (s.startTake token bell args).runOf n = startedRun token bell args := by
  have runs := State.foldl_same (·.update.runs)
    (fun u t => u.takeThreads_runs n t (startedRun token bell args)) (stallsOf (startedRun token bell args).stalls)
    ((s.setRun n (startedRun token bell args)).setResult token 0 n)
  rw [State.startTake_eq h]
  refine (congrArg (fun m : Tbl Run => Tbl.get m n {}) runs).trans ?_
  refine (congrArg (fun u : UpdateSt => Tbl.get u.runs n {})
    ((State.setResult_touches _ token 0 n) .update (by decide))).trans ?_
  exact State.runOf_setRun ..

/-! ### RUN_TEST (14 R457) -/

/-- The stall that a RUN_TEST names: it waits for a quiet boundary. -/
def State.awaitsTest (s : State) (token : Nat) (args : Tbl Nat) : StallSt :=
  let w := argOf args 0
  { s.stall (bits w 0 6) with
    compute := .testWaiting, neighbour := nearOf w
    due := if bit w 8 then some (s.time.rung + 1, 0, token) else none
    test := some { package := argOf args 1, drain := bit w 8, hold := holdOf w
                   waitLimit := if argOf args 2 = 0 then s.obj Obj.testWait else argOf args 2
                   since := s.time.rung, token } }

theorem State.testTake_stall (s : State) (token : Nat) (args : Tbl Nat) :
    (s.testTake token args).stall (bits (argOf args 0) 0 6) = s.awaitsTest token args := State.stall_setStall ..

/-! ### REMAP_LANE (05 R140) -/

/-- The lane move that a command schedules. -/
def State.withRemap (s : State) (spare : Nat) (r : Remap) : State :=
  { s.modLane spare fun l => { l with state := .remapPending } with remaps := s.remaps ++ [r] }

theorem State.withRemap_touches (s : State) (spare : Nat) (r : Remap) :
    OnlyTouches [.lanes, .remaps] s (s.withRemap spare r) :=
  .put_remaps (by decide) ((State.modLane_touches s _ _).mono (by decide))

theorem State.remapTake_eq {s : State} {args : Tbl Nat} {spare old : Nat}
    (hs : s.remapSpare (argOf args 0) = some spare)
    (ho : s.laneOf (bit (argOf args 0) 12) (bits (argOf args 0) 0 10) = some old) (token bell : Nat) :
    s.remapTake token bell args = (s.withRemap spare {
      port := bits (argOf args 0) 0 10, inward := bit (argOf args 0) 12, spare, old, bell, stage := .scheduled
      token := some token }).setResult token 0 (spare % 18) := by
  simp only [State.remapTake, hs, State.scheduleRemap, ho]
  rfl

end Sys2Proof.Machine

namespace Sys2Proof

open Machine

namespace Ended

/-! ### A command's status through the operations of its intake -/

variable {s u : State} {token code : Nat} {st : SlotStatus}

theorem of_tokens (h : Ended s token st code) (e : u.dict.tokens = s.dict.tokens) : Ended u token st code := by
  obtain ⟨r, hr, hs, hc⟩ := h
  exact ⟨r, (State.tokenRec_of_tokens e token).trans hr, hs, hc⟩

theorem of_touches {l : List Part} (h : Ended s token st code) (t : OnlyTouches l s u)
    (n : Part.dict ∉ l) : Ended u token st code :=
  h.of_tokens (congrArg DictSt.tokens (t .dict n))

theorem setResult (h : Ended s token st code) (i v : Nat) : Ended (s.setResult token i v) token st code := by
  obtain ⟨r, hr, hs, hc⟩ := h
  refine of_tokens ⟨{ r with results := Tbl.set r.results i (v % 2 ^ 64) }, ?_, hs, hc⟩ (State.track_tokens _ token)
  rw [State.tokenRec_modToken, hr]
  · rfl
  · exact fun _ => rfl

theorem endCommand (h : Ended s token .busy code) (st : SlotStatus) (code' : Nat) :
    Ended (s.endCommand token st code') token st code' := by
  obtain ⟨r, hr, hs, -⟩ := h
  refine of_tokens ⟨{ r with status := st, code := code', final := s.time.bell }, ?_, rfl, rfl⟩
    (State.endCommand_tokens hr hs st code')
  rw [State.tokenRec_modToken, hr]
  · rfl
  · exact fun _ => rfl

theorem endDone (h : Ended s token .busy code) : Ended (s.endDone token) token .done 0 := h.endCommand .done 0

theorem takenPitch (h : Ended s token .busy code) (p : Nat) (x : PitchSt) (v : Nat) :
    Ended (s.takenPitch token p x v) token .done 0 :=
  ((h.of_touches (State.setPitch_touches _ _ _) (by decide)).setResult _ _).endDone

theorem unload (h : Ended s token .busy code) (k : Nat) : Ended (s.unload token k) token .done 0 := by
  have result : Ended (s.unloadResult token k) token .busy code := by
    unfold State.unloadResult
    split
    · exact (h.setResult _ _).setResult _ _
    · exact h
  exact (result.of_touches (State.dropProgram_touches _ k) (by decide)).endDone

end Ended

namespace Takes

/-! ### A command that passes its checks (17 R533, R536) -/

variable {s : State} {k op : Nat}

theorem recorded_busy (h : Takes s k op) : Ended (recorded s k) (s.slot k).token .busy 0 := by
  obtain ⟨-, -, -, -, -, unknown, -, -, -⟩ := h
  refine ⟨s.newRecord k (s.slot k), ?_, rfl, rfl⟩
  have new : (s.newRecord k (s.slot k)).token = (s.slot k).token := rfl
  exact (List.find?_append ..).trans (by
    rw [show s.dict.tokens.find? (fun r => r.token == (s.slot k).token) = none from unknown]
    simp [new])

theorem takeNamed_eq (h : Takes s k op) : s.takeNamed k op = (recorded s k).commandTake op (s.slot k).token
    (s.newRecord k (s.slot k)).effect (s.slot k).args := by
  obtain ⟨submitted, named, released, known, may, unknown, room, boundary, passes⟩ := h
  subst named
  have start : s.startCommand k (s.slot k) = (recorded s k).commandTake (s.slot k).opcode (s.slot k).token
      (s.newRecord k (s.slot k)).effect (s.slot k).args := by
    unfold State.startCommand
    simp only [recorded] at boundary passes ⊢
    simp only [boundary, passes]
  simp only [State.takeNamed, State.takeSlot, submitted, State.dieRunning, released, known, may, unknown,
    State.tokenRoom, room, start, bne_self_eq_false, Bool.not_true, Bool.or_self, Bool.false_eq_true, if_true, if_false]

/-- What the named command of a slot gives, from what it does once it has its record. -/
theorem gives {c : Instr} {l : List Part} {P : State → Prop} {u : State} (h : Takes s k op)
    (hc : exec c s = .next (s.takeNamed k op)) (hd : Part.dict ∈ l)
    (ht : OnlyTouches l (recorded s k) u)
    (hu : (recorded s k).commandTake op (s.slot k).token (s.newRecord k (s.slot k)).effect (s.slot k).args = u)
    (hP : P u) : Gives c s l P :=
  ⟨u, by rw [hc, h.takeNamed_eq, hu], (OnlyTouches.put_dict hd (.refl _ s)).next ht (List.Subset.refl _), hP⟩

/-- A command that only waits leaves no more than its record. -/
theorem waits {c : Instr} (h : Takes s k op) (hc : exec c s = .next (s.takeNamed k op))
    (hu : (recorded s k).commandTake op (s.slot k).token (s.newRecord k (s.slot k)).effect (s.slot k).args
      = recorded s k) : exec c s = .next (recorded s k) := by rw [hc, h.takeNamed_eq, hu]

end Takes

section
variable {k : Slot} {s : State}

/-! ### Pitches (07 R213, R216) -/

theorem admitPitch_takesEffect (h : Takes s k.val 0x01) :
    Gives (.admitPitch k) s [.objs, .pitches, .dict, .host] fun u =>
      u.pitch (bits (argOf (s.slot k.val).args 0) 0 12) = { s.pitch (bits (argOf (s.slot k.val).args 0) 0 12) with
          admission := some ((upTo 10).map (argOf (s.slot k.val).args)), takenRung := s.time.rung }
        ∧ Ended u (s.slot k.val).token .done 0 :=
  h.gives rfl (by decide) (State.admitTake_touches _ _ _) rfl
    ⟨State.takenPitch_pitch _ _ _ _ _, h.recorded_busy.takenPitch _ _ _⟩

theorem releasePitch_takesEffect (h : Takes s k.val 0x02) :
    Gives (.releasePitch k) s [.objs, .pitches, .dict, .host] fun u =>
      u.pitch (bits (argOf (s.slot k.val).args 0) 0 12) = { s.pitch (bits (argOf (s.slot k.val).args 0) 0 12) with
          releaseDue := true, takenRung := s.time.rung }
        ∧ Ended u (s.slot k.val).token .done 0 :=
  h.gives rfl (by decide) (State.releaseTake_touches _ _ _) rfl
    ⟨State.takenPitch_pitch _ _ _ _ _, h.recorded_busy.takenPitch _ _ _⟩

/-! ### Groups (09 R265, R268) -/

theorem openGroup_takesEffect (h : Takes s k.val 0x03) : Gives (.openGroup k) s [.coll, .dict] fun u =>
    let g := bits (openWord (s.slot k.val).args) 0 16
    (u.group g).state = .scheduled ∧ (u.group g).openAt = (s.newRecord k.val (s.slot k.val)).effect
      ∧ (u.group g).token = (s.slot k.val).token
      ∧ (u.group g).generation = ((s.group g).generation + 1) % 65536 ∧ u.queueOf g = []
      ∧ Ended u (s.slot k.val).token .busy 0 := by
  refine h.gives rfl (by decide) (State.openTake_touches _ _ _ _) rfl ?_
  dsimp only
  rw [State.openTake_group]
  exact ⟨rfl, rfl, rfl, rfl, State.openTake_queueOf .., (((h.recorded_busy.of_touches
    (State.scheduleGroup_touches _ _ _ _) (by decide)).setResult _ _).setResult _ _).setResult _ _⟩

theorem closeGroup_done (h : Takes s k.val 0x04)
    (hs : (s.group (bits (argOf (s.slot k.val).args 0) 0 16)).state = .free
      ∨ (s.group (bits (argOf (s.slot k.val).args 0) 0 16)).state = .closing) :
    Gives (.closeGroup k) s [.objs, .dict, .host] fun u => Ended u (s.slot k.val).token .done 0 :=
  h.gives rfl (by decide) (State.endDone_touches _ _) (State.closeTake_ends (s := recorded s k.val) hs _)
    h.recorded_busy.endDone

theorem closeGroup_waits (h : Takes s k.val 0x04)
    (hs : (s.group (bits (argOf (s.slot k.val).args 0) 0 16)).state = .scheduled
      ∨ (s.group (bits (argOf (s.slot k.val).args 0) 0 16)).state = .opened) :
    exec (.closeGroup k) s = .next (recorded s k.val) :=
  h.waits rfl (State.closeTake_waits (s := recorded s k.val) hs _)

/-! ### Threads and programs (11 R352, R353; 18 R562) -/

theorem startThreads_takesEffect {n : Nat} (h : Takes s k.val 0x05) (hn : s.freeRun = some n) :
    Gives (.startThreads k) s [.update, .dict] fun u =>
      u.runOf n = { runOfArgs (s.slot k.val).args with
          startAt := (s.newRecord k.val (s.slot k.val)).effect, token := (s.slot k.val).token }
        ∧ Ended u (s.slot k.val).token .busy 0 := by
  have free : (recorded s k.val).freeRun = some n := hn
  refine h.gives rfl (by decide) (State.startTake_touches _ _ _ _) rfl ⟨State.startTake_runOf free _ _ _, ?_⟩
  rw [State.startTake_eq free]
  exact ((h.recorded_busy.of_touches (State.setRun_touches _ _ _) (by decide)).setResult _ _).of_touches
    ((OnlyTouches.refl [.update] _).fold _ fun _ _ => State.takeThreads_touches _ _ _ _) (by decide)

theorem stopThreads_done (h : Takes s k.val 0x06)
    (hs : (s.runOf (bits (argOf (s.slot k.val).args 0) 0 6)).state = .free) :
    Gives (.stopThreads k) s [.objs, .dict, .host] fun u => Ended u (s.slot k.val).token .done 0 :=
  h.gives rfl (by decide) (State.endDone_touches _ _) (if_pos (beq_iff_eq.2 hs)) h.recorded_busy.endDone

theorem stopThreads_waits (h : Takes s k.val 0x06)
    (hs : (s.runOf (bits (argOf (s.slot k.val).args 0) 0 6)).state ≠ .free) :
    exec (.stopThreads k) s = .next (recorded s k.val) :=
  h.waits rfl (if_neg fun e => hs (beq_iff_eq.1 e))

theorem loadBundle_unloads (h : Takes s k.val 0x07) (hb : bit (argOf (s.slot k.val).args 0) 2 = true) :
    Gives (.loadBundle k) s [.objs, .update, .dict, .host] fun u =>
      Tbl.find u.update.programs (bits (argOf (s.slot k.val).args 0) 8 8) = none
        ∧ Ended u (s.slot k.val).token .done 0 :=
  h.gives rfl (by decide) (State.unload_only _ _ _) (State.loadTake_unload _ hb)
    ⟨State.unload_programs _ _ _, h.recorded_busy.unload _⟩

theorem loadBundle_waits (h : Takes s k.val 0x07) (hb : bit (argOf (s.slot k.val).args 0) 2 = false) :
    exec (.loadBundle k) s = .next (recorded s k.val) := h.waits rfl (if_neg (by simp [hb]))

/-! ### Tests (14 R457) and lanes (05 R140) -/

theorem runTest_takesEffect (h : Takes s k.val 0x08) : Gives (.runTest k) s [.custody, .dict] fun u =>
    let w := argOf (s.slot k.val).args 0
    (u.stall (bits w 0 6)).compute = .testWaiting ∧ (u.stall (bits w 0 6)).neighbour = nearOf w
      ∧ ((u.stall (bits w 0 6)).test.map (·.package)) = some (argOf (s.slot k.val).args 1)
      ∧ (u.stall (bits w 0 6)).due = (if bit w 8 then some (s.time.rung + 1, 0, (s.slot k.val).token) else none)
      ∧ Ended u (s.slot k.val).token .busy 0 := by
  have touches := State.testTake_touches (recorded s k.val) (s.slot k.val).token (s.slot k.val).args
  refine h.gives rfl (by decide) (touches.mono (by decide)) rfl ?_
  dsimp only
  rw [State.testTake_stall]
  exact ⟨rfl, rfl, rfl, rfl, h.recorded_busy.of_touches touches (by decide)⟩

theorem remapLane_takesEffect {spare old : Nat} (h : Takes s k.val 0x0B)
    (hs : s.remapSpare (argOf (s.slot k.val).args 0) = some spare)
    (ho : s.laneOf (bit (argOf (s.slot k.val).args 0) 12) (bits (argOf (s.slot k.val).args 0) 0 10) = some old) :
    Gives (.remapLane k) s [.lanes, .remaps, .dict] fun u =>
      let w := argOf (s.slot k.val).args 0
      u.remaps = s.remaps ++ [{ port := bits w 0 10, inward := bit w 12, spare := spare, old := old
                                bell := (s.newRecord k.val (s.slot k.val)).effect, stage := .scheduled
                                token := some (s.slot k.val).token }]
        ∧ Ended u (s.slot k.val).token .busy 0 := by
  have acts := State.remapTake_eq (s := recorded s k.val) hs ho (s.slot k.val).token
    (s.newRecord k.val (s.slot k.val)).effect
  refine h.gives rfl (by decide) ?_ acts ⟨?_, ?_⟩
  · exact ((State.withRemap_touches _ _ _).mono (by decide)).next (State.setResult_touches _ _ _ _) (by decide)
  · exact (State.setResult_touches _ _ _ _) .remaps (by decide)
  · exact (h.recorded_busy.of_touches (State.withRemap_touches _ _ _) (by decide)).setResult _ _

end

/-- Settles O52, command by command; each has its record before it acts, and those that only wait leave no more. -/
theorem slotCommandsTakeEffect : Obligations.SlotCommandsTakeEffect := by
  intro k s x w effect
  refine ⟨admitPitch_takesEffect, releasePitch_takesEffect, openGroup_takesEffect,
    fun h => ⟨closeGroup_done h, closeGroup_waits h⟩, fun n h => startThreads_takesEffect h,
    fun h => ⟨stopThreads_done h, stopThreads_waits h⟩, fun h => ⟨loadBundle_unloads h, loadBundle_waits h⟩,
    runTest_takesEffect, ?fence, ?sublet, ?mapOut, ?takeOver, fun spare old => remapLane_takesEffect⟩
  all_goals exact fun h => h.waits rfl rfl

end Sys2Proof

/-! ## Service Ethernet: lookups, the chip table and segment locks (08) -/

namespace Sys2Proof.OnlyTouches

open Machine

theorem obj {l : List Part} {s u : State} (h : OnlyTouches l s u) (o : Obj) (n : Part.objs ∉ l := by decide) :
    u.obj o = s.obj o := congrArg (fun m : Tbl Nat => Tbl.get m o.key o.dflt) (h .objs n)

end Sys2Proof.OnlyTouches

namespace Sys2Proof.Machine

/-! ### What the count of a memory access changes (13 R404, R426) -/

theorem State.bump_obj_self (s : State) (o : Obj) (n : Nat) : (s.bump o n).obj o = wrapCount o (s.obj o + n) :=
  State.obj_putObj ..

theorem State.bump_obj_other (s : State) {o p : Obj} (n : Nat) (h : p.key ≠ o.key) : (s.bump o n).obj p = s.obj p :=
  State.obj_putObj_other _ _ _ _ h

/-- Subindices of the objects that count accesses: read_bytes and write_bytes of a channel, and poison_lookups. -/
def accessCounts : List Nat := [0x08, 0x09, 0x8D]

/-- The subindex of the object is not that of a count of accesses. -/
def Obj.NoAccessCount (o : Obj) : Prop := o.key % 256 ∉ accessCounts

theorem Obj.NoAccessCount.key_ne {o p : Obj} (h : o.NoAccessCount) (hp : p.key % 256 ∈ accessCounts) :
    o.key ≠ p.key := fun e => h (e ▸ hp)

theorem Obj.unknownAction_noAccessCount (p : Nat) : (Obj.unknownAction p).NoAccessCount := by
  simp [Obj.NoAccessCount, Obj.unknownAction, accessCounts]

theorem Obj.serviceDrops_noAccessCount (p : Nat) : (Obj.serviceDrops p).NoAccessCount := by
  simp [Obj.NoAccessCount, Obj.serviceDrops, accessCounts]

theorem Obj.chipLearns_noAccessCount : Obj.chipLearns.NoAccessCount := by
  unfold Obj.NoAccessCount
  decide

theorem Obj.channelBytes_accessCount (c : Nat) (wr : Bool) :
    (if wr then Obj.writeBytes c else Obj.readBytes c).key % 256 ∈ accessCounts := by
  cases wr <;> simp [Obj.writeBytes, Obj.readBytes, accessCounts]

section
variable {o : Obj} (h : o.NoAccessCount)
include h

theorem State.countChannel_obj_other (s : State) (c units : Nat) (wr : Bool) (e : EventAttrs) :
    (s.countChannel c units wr e).obj o = s.obj o :=
  ((State.count_touches _ _ _ _ _).obj o).trans
    (State.bump_obj_other _ _ (h.key_ne (Obj.channelBytes_accessCount c wr)))

theorem State.countFirmware_obj_other (s : State) (a n : Nat) (wr : Bool) :
    (s.countFirmware a n wr).obj o = s.obj o := by
  refine State.foldl_same (·.obj o) (fun u g => ?_) _ s
  dsimp only
  split
  · rfl
  split
  · exact State.countChannel_obj_other h ..
  · rfl

theorem State.probed_obj_other (s : State) (a n : Nat) : (s.probed a n).obj o = s.obj o := by
  unfold State.probed State.when
  split
  · exact (State.bump_obj_other _ _ (h.key_ne (by decide))).trans (State.countFirmware_obj_other h ..)
  · exact State.countFirmware_obj_other h ..

end

theorem State.countFirmware_mem (s : State) (a n : Nat) (wr : Bool) : (s.countFirmware a n wr).mem = s.mem :=
  State.countFirmware_touches s a n wr .mem (by decide)

theorem State.probed_mem (s : State) (a n : Nat) : (s.probed a n).mem = s.mem :=
  State.probed_touches s a n .mem (by decide)

theorem State.probed_service (s : State) (a n : Nat) : (s.probed a n).service = s.service :=
  State.probed_touches s a n .service (by decide)

/-! ### What a probe finds depends on memory alone (08 R240, R250) -/

section
variable {s u : State} (h : u.mem = s.mem)
include h

theorem State.bucketEntries_of_mem (b : Nat) : u.bucketEntries b = s.bucketEntries b := by
  have view : u.bucketEntries b = ({ s with mem := u.mem } : State).bucketEntries b := rfl
  rw [view, h]

theorem State.chipFind_of_mem (pitch mac : Nat) : u.chipFind pitch mac = s.chipFind pitch mac :=
  congrArg (List.find? _) (State.bucketEntries_of_mem h _)

theorem State.probePrefix_of_mem (l : Lookup) (n : Nat) : u.probePrefix l n = s.probePrefix l n := by
  have view : u.probePrefix l n = ({ s with mem := u.mem } : State).probePrefix l n := rfl
  rw [view, h]

end

/-! ### Bytes of a number written to memory -/

@[simp] theorem length_leBytes (n x : Nat) : (leBytes n x).length = n := by
  induction n generalizing x with
  | zero => rfl
  | succ n ih => rw [leBytes, List.length_cons, ih]

section
variable {s u : State} (hm : MemOk s.mem) (hu : u.mem = s.mem)
include hm hu

theorem State.writeNat_read_same (a n v : Nat) : (u.writeNat a n v).read a n = leBytes n v := by
  have same := readCells_writeCells (bs := leBytes n v) (a := a) hm.cells
  rw [length_leBytes, ← hu] at same
  exact same

theorem State.writeNat_read_outside {a n k : Nat} (v : Nat) (hk : k < a ∨ a + n ≤ k) :
    readCell (u.writeNat a n v).mem.cells k = readCell s.mem.cells k := by
  rw [← hu] at hm ⊢
  exact readCell_writeCells_outside hm.cells (by rwa [length_leBytes])

end

/-! ### The lookup queue (08 R239) -/

/-- A stall's queue of lookups. -/
def State.withLookups (s : State) (t : Nat) (q : List Lookup) : State :=
  { s with service := { s.service with lookups := Tbl.set s.service.lookups t q } }

/-- The frames that wait at a stall for the lookup queue. -/
def State.withWaiting (s : State) (t : Nat) (q : List (Frame × Nat)) : State :=
  { s with service := { s.service with waiting := Tbl.set s.service.waiting t q } }

@[simp] theorem State.withLookups_lookups (s : State) (t : Nat) (q : List Lookup) :
    Tbl.get (s.withLookups t q).service.lookups t [] = q := Tbl.get_set_same ..

@[simp] theorem State.withWaiting_waiting (s : State) (t : Nat) (q : List (Frame × Nat)) :
    Tbl.get (s.withWaiting t q).service.waiting t [] = q := Tbl.get_set_same ..

theorem State.withLookups_touches (s : State) (t : Nat) (q : List Lookup) :
    OnlyTouches [.service] s (s.withLookups t q) := .put_service (by decide) (.refl _ _)

theorem State.withWaiting_touches (s : State) (t : Nat) (q : List (Frame × Nat)) :
    OnlyTouches [.service] s (s.withWaiting t q) := .put_service (by decide) (.refl _ _)

section
variable {s : State} {t : Nat} {l : Lookup} (hq : Tbl.get s.service.lookups t [] = [l])
include hq

theorem State.applyLookups_unfinished (hl : l.done = false) : s.applyLookups t = s.withLookups t [l] := by
  have ready : readyLookups [l] [] = ([], [l]) := by simp [readyLookups, hl]
  rw [State.applyLookups, hq, ready]
  rfl

theorem State.applyLookups_finished (hl : l.done = true) :
    s.applyLookups t = (s.withLookups t []).applyLookup t l := by
  have ready : readyLookups [l] [] = ([l], []) := by simp [readyLookups, hl]
  rw [State.applyLookups, hq, ready]
  rfl

end

/-! ### SERVICE_LOOKUP: a frame that the caches do not know (08 R236, R241, R247) -/

section
variable {s : State} {t p : Nat} {f : Frame}

theorem State.learn_disabled (hg : (((f.payload.drop 6).take 6).getD 0 0).toNat % 2 = 0)
    (hd : s.flag (Obj.learnEnable f.pitch) = false)
    (hc : s.cacheWay t f.pitch (beNat ((f.payload.drop 6).take 6)) = none) : s.learn t p f = (s, .goOn) := by
  simp only [State.learn, hg, hd, hc]
  rfl

theorem State.startBridge_misses (hg : ((f.payload.take 6).getD 0 0).toNat % 2 = 0)
    (hc : s.cacheWay t f.pitch (beNat (f.payload.take 6)) = none) :
    s.startBridge t f = (s.bump (Obj.cacheMisses t), .chip) := by
  simp only [State.startBridge, hg, hc]
  rfl

theorem State.startLookup_bridges (hn : 14 ≤ f.payload.length) (ho : f.op = 0)
    (hl : s.learn t p f = (s, .goOn)) : s.startLookup t p f = s.startBridge t f := by
  simp [State.startLookup, ho, hl, Nat.not_lt.2 hn]

theorem execServiceLookup_starts {n : Stall} {rest : List (Frame × Nat)} {u : State} {st : LookupStage}
    (hw : Tbl.get s.service.waiting n.val [] = (f, p) :: rest) (hq : Tbl.get s.service.lookups n.val [] = [])
    (hs : (s.withWaiting n.val rest).startLookup n.val p f = (u, st)) :
    execServiceLookup n s = .next ((u.draw.withLookups n.val
      [{ frame := f, inPort := p, pad := s.free, stage := st }]).applyLookups n.val) := by
  unfold State.withWaiting at hs
  simp only [execServiceLookup, hw, hq, hs]
  rfl

end

/-! ### PROBE_RETURN (08 R247, R252) -/

section
variable {s : State} {l : Lookup}

theorem execProbeReturn_single {n : Stall} {u : State} {st : LookupStage}
    (hq : Tbl.get s.service.lookups n.val [] = [l]) (hp : s.probe n.val l = (u, st)) (hu : u.service = s.service) :
    execProbeReturn n 0 s = .next ((u.withLookups n.val [{ l with stage := st }]).applyLookups n.val) := by
  have first : (Tbl.get s.service.lookups n.val [])[(0 : Fin 64).val]? = some l := by rw [hq]; rfl
  simp only [execProbeReturn, first, hp]
  rw [hu, hq, ← hu]
  rfl

theorem State.probe_prefix_misses {a b : Nat} {ns : List Nat} (t : Nat) (hs : l.stage = .prefixes (a :: b :: ns))
    (hm : s.probePrefix l a = none) :
    s.probe t l = (s.probed (s.bucketOf l a) (8 * l.entryBytes), .prefixes (b :: ns)) := by
  simp only [State.probe, hs, State.probePrefix_of_mem (s.probed_mem _ _), hm]
  rfl

theorem State.probe_chip_unknown (t : Nat) (hs : l.stage = .chip)
    (hf : s.chipFind l.frame.pitch (beNat (l.frame.payload.take 6)) = none)
    (ha : s.obj (Obj.unknownAction l.frame.pitch) ≠ 0) :
    s.probe t l
      = (s.probed (chipEntry (macBucket l.frame.pitch (beNat (l.frame.payload.take 6))) 0) 128, .drop false) := by
  have drops : ∀ a n, (s.probed a n).unknown l.frame = (s.probed a n, .drop false) := fun a n =>
    if_neg (by rwa [State.probed_obj_other (Obj.unknownAction_noAccessCount _)])
  simp only [State.probe, hs, State.chipReturn, State.chipFind_of_mem (s.probed_mem _ _), hf, drops]

theorem State.probed_withLookups_touches (s : State) (a n t : Nat) (q : List Lookup) :
    OnlyTouches [.objs, .service, .ledger] s ((s.probed a n).withLookups t q) :=
  ((State.probed_touches _ _ _).mono (by decide)).next (State.withLookups_touches _ _ _) (by decide)

theorem State.dropService_counts (s : State) (t p : Nat) (f : Frame) :
    (s.dropService t p f).obj (Obj.serviceDrops f.pitch)
      = wrapCount (Obj.serviceDrops f.pitch) (s.obj (Obj.serviceDrops f.pitch) + 1) :=
  ((State.freeCredits_touches _ _ _ _).obj _).trans
    (((State.dropped_touches _ _ _ _).obj _).trans (State.bump_obj_self ..))

theorem State.applyLookup_drops {s : State} {t : Nat} (hs : l.stage = .drop false) :
    s.applyLookup t l = s.dropService t l.inPort l.frame := by
  rw [State.applyLookup, hs]
  rfl

end

/-! ### CHIP_TABLE_INSERT (08 R242) -/

/-- The insertions that wait at a stall. -/
def State.withInserts (s : State) (t : Nat) (q : List Insertion) : State :=
  { s with service := { s.service with inserts := Tbl.set s.service.inserts t q } }

theorem State.withInserts_touches (s : State) (t : Nat) (q : List Insertion) :
    OnlyTouches [.service] s (s.withInserts t q) := .put_service (by decide) (.refl _ _)

theorem execChipTableInsert_takes {s : State} {n : Stall} {i : Insertion} {rest : List Insertion}
    (hi : Tbl.get s.service.inserts n.val [] = i :: rest) :
    execChipTableInsert n s = .next ((s.withInserts n.val rest).chipInsert n.val i) := by
  rw [execChipTableInsert, hi]
  rfl

/-- The word that an insertion writes to its entry. -/
def State.insertWord (s : State) (t : Nat) (i : Insertion) : Nat :=
  macWord i.mac i.pitch false false i.endpoint i.port (((s.insertWay t i).map (·.2.lastSeen)).getD i.seen)

theorem State.cacheWay_of_caches {s u : State} (h : u.service.caches = s.service.caches) (t pitch mac : Nat) :
    u.cacheWay t pitch mac = s.cacheWay t pitch mac := by
  unfold State.cacheWay
  rw [h]

theorem State.insertWord_uncached {s : State} {t : Nat} {i : Insertion} (h : s.cacheWay t i.pitch i.mac = none) :
    s.insertWord t i = macWord i.mac i.pitch false false i.endpoint i.port i.seen := by
  simp [State.insertWord, State.insertWay, h]

section
variable (s : State) (t a : Nat) (i : Insertion)

theorem State.putChip_eq : s.putChip t a i = (((s.countFirmware a 16 true).writeNat a 16
    (s.insertWord t i)).invalidateKey i.pitch i.mac (some t)).inserted t i := by
  unfold State.putChip State.insertWord
  cases s.insertWay t i <;> rfl

theorem State.putChip_mem :
    (s.putChip t a i).mem = ((s.countFirmware a 16 true).writeNat a 16 (s.insertWord t i)).mem := by
  rw [State.putChip_eq]
  exact (State.inserted_touches _ _ _ .mem (by decide)).trans (State.invalidateKey_touches _ _ _ _ .mem (by decide))

theorem State.putChip_obj_other {o : Obj} (h : o.NoAccessCount) : (s.putChip t a i).obj o = s.obj o := by
  rw [State.putChip_eq]
  refine ((State.inserted_touches _ _ _).obj o).trans (((State.invalidateKey_touches _ _ _ _).obj o).trans ?_)
  exact ((State.writeNat_touches _ _ _ _).obj o).trans (State.countFirmware_obj_other h ..)

theorem State.inserted_inserts : (s.inserted t i).service.inserts = s.service.inserts := by
  unfold State.inserted
  split <;> rfl

theorem State.invalidateKey_inserts (pitch mac : Nat) (keep : Option Nat) :
    (s.invalidateKey pitch mac keep).service.inserts = s.service.inserts := rfl

/-- An insertion leaves the queues of insertions alone: of the service unit only the caches change. -/
theorem State.putChip_inserts : (s.putChip t a i).service.inserts = s.service.inserts := by
  have counted : (s.countFirmware a 16 true).service = s.service :=
    State.countFirmware_touches s a 16 true .service (by decide)
  rw [State.putChip_eq, State.inserted_inserts, State.invalidateKey_inserts, State.writeNat, State.write_service,
    counted]

end

section
variable {s u : State} (hm : MemOk s.mem) (hu : u.mem = s.mem) {t a : Nat} {i : Insertion}
include hm hu

theorem State.putChip_read (hc : u.cacheWay t i.pitch i.mac = none) :
    (u.putChip t a i).read a 16 = leBytes 16 (macWord i.mac i.pitch false false i.endpoint i.port i.seen) := by
  rw [← State.insertWord_uncached hc, State.read, State.putChip_mem]
  exact State.writeNat_read_same hm ((State.countFirmware_mem ..).trans hu) ..

theorem State.putChip_read_outside {k : Nat} (hk : k < a ∨ a + 16 ≤ k) :
    readCell (u.putChip t a i).mem.cells k = readCell s.mem.cells k := by
  rw [State.putChip_mem]
  exact State.writeNat_read_outside hm ((State.countFirmware_mem ..).trans hu) _ hk

end

theorem State.chipInsert_learns {s : State} {t a w : Nat} {i : Insertion}
    (hl : s.segLocked (segOf (chipEntry (macBucket i.pitch i.mac) 0)) = false)
    (hf : s.chipFind i.pitch i.mac = none)
    (he : ((s.bucketEntries (macBucket i.pitch i.mac)).find? fun e => !macValid e.2) = some (a, w)) :
    s.chipInsert t i
      = ((s.probed (chipEntry (macBucket i.pitch i.mac) 0) 128).bump Obj.chipLearns).putChip t a i := by
  simp only [State.chipInsert, hl, State.chipFind_of_mem (s.probed_mem _ _), hf,
    State.bucketEntries_of_mem (s.probed_mem _ _), he]
  rfl

/-! ### STAMP_WRITEBACK (08 R245) -/

theorem State.find_of_cacheWay {s : State} {t pitch mac k : Nat} {e : MacEntry}
    (h : s.cacheWay t pitch mac = some (k, e)) : Tbl.find s.service.caches k = some e := by
  obtain ⟨j, -, hj⟩ := List.exists_of_findSome?_eq_some h
  split at hj
  · next e' he =>
    split at hj
    · cases hj
      exact he
    · cases hj
  · cases hj

/-- A stamp that is due is written back: to the cache's note of it, and to the chip table. -/
theorem execStampWriteback_writes {s : State} {n : Stall} {p : Pitch} {mac : BitVec 48} {k a w : Nat} {e : MacEntry}
    (hc : s.cacheWay n.val p.val mac.toNat = some (k, e)) (hs : e.isStatic = false)
    (hd : e.written + s.obj Obj.stampInterval ≤ e.lastSeen)
    (hl : s.segLocked (segOf (chipEntry (macBucket e.pitch e.mac) 0)) = false)
    (hf : s.chipFind e.pitch e.mac = some (a, w)) (he : macEndpoint w = e.endpoint) (hw : macStatic w = false) :
    execStampWriteback n p mac s = .next ((((s.setCache k { e with written := e.lastSeen }).probed
      (chipEntry (macBucket e.pitch e.mac) 0) 128).countFirmware (a + 12) 4 true).writeNat (a + 12) 4
        (e.lastSeen % 2 ^ 32)) := by
  have found : ∀ x y, (State.probed (s.setCache k { e with written := e.lastSeen }) x y).chipFind e.pitch e.mac
      = some (a, w) := fun x y => (State.chipFind_of_mem (State.probed_mem _ _ _) _ _).trans hf
  have due : (!e.isStatic && decide (e.written + s.obj Obj.stampInterval ≤ e.lastSeen)) = true := by simp [hs, hd]
  simp only [execStampWriteback, hc, due, State.writeBack, hl, State.find_of_cacheWay hc, found, he, hw]
  simp

/-! ### Segment locks (08 R255, R256) -/

/-- The locks of the table segments. -/
def State.withLocks (s : State) (locks : Tbl SegLock) : State := { s with service := { s.service with locks := locks } }

theorem State.withLocks_touches (s : State) (locks : Tbl SegLock) : OnlyTouches [.service] s (s.withLocks locks) :=
  .put_service (by decide) (.refl _ _)

section
variable {s : State} {r : Requester} {v : Nat}

theorem State.putValue_segLock (s : State) (r : Requester) (v : Nat) :
    s.putValue r Obj.segLock.key v = s.writeSegLock r v := rfl

theorem State.writeSegLock_takes (hb : bit v 31 = true) (hl : s.segLocked (bits v 0 14) = false) :
    s.writeSegLock r v
      = s.withLocks (Tbl.set s.service.locks (bits v 0 14) { holder := r, since := s.time.rung }) := by
  rw [State.writeSegLock, if_pos hb, State.takeSeg, if_neg (by simp [hl])]
  rfl

theorem State.writeSegLock_releases {l : SegLock} (hb : bit v 31 = false)
    (hf : Tbl.find s.service.locks (bits v 0 14) = some l) (hr : l.holder = r) :
    s.writeSegLock r v = s.withLocks (Tbl.erase s.service.locks (bits v 0 14)) := by
  simp only [State.writeSegLock, hb, hf, State.dropSeg, State.when, hr, bne_self_eq_false]
  rfl

theorem State.expireSeg_ends {seg : Nat} {l : SegLock} (hf : Tbl.find s.service.locks seg = some l)
    (hd : l.since + s.obj Obj.segLockLimit ≤ s.time.rung) :
    s.expireSeg seg = (s.withLocks (Tbl.erase s.service.locks seg)).bump Obj.lockExpired := by
  rw [State.expireSeg, hf]
  exact if_pos hd

end

theorem State.countBar_service (s : State) (r : Requester) : (s.countBar r).service = s.service :=
  State.countBar_touches s r .service (by decide)

theorem State.countBar_time (s : State) (r : Requester) : (s.countBar r).time = s.time :=
  State.countBar_touches s r .time (by decide)

end Sys2Proof.Machine

namespace Sys2Proof

open Machine

theorem answered_touches (r : Requester) (o : Obj) (v : Nat) (s : State) :
    OnlyTouches [.dict, .out] s (answered r o v s) :=
  ((State.record_touches _ _ _ _ _).mono (by decide)).next (State.answer_touches _ _ _) (by decide)

/-! ### The completions -/

theorem serviceLookup_starts {n : Stall} {f : Frame} {p : Nat} {rest : List (Frame × Nat)} {s : State}
    (hw : Tbl.get s.service.waiting n.val [] = (f, p) :: rest) (hq : Tbl.get s.service.lookups n.val [] = [])
    (hn : 14 ≤ f.payload.length) (ho : f.op = 0) (hd : ((f.payload.take 6).getD 0 0).toNat % 2 = 0)
    (hg : (((f.payload.drop 6).take 6).getD 0 0).toNat % 2 = 0) (he : s.flag (Obj.learnEnable f.pitch) = false)
    (hsrc : s.cacheWay n.val f.pitch (beNat ((f.payload.drop 6).take 6)) = none)
    (hdst : s.cacheWay n.val f.pitch (beNat (f.payload.take 6)) = none) :
    Gives (.serviceLookup n) s [.objs, .service, .free] fun t =>
      Tbl.get t.service.waiting n.val [] = rest
        ∧ Tbl.get t.service.lookups n.val [] = [{ frame := f, inPort := p, pad := s.free, stage := .chip }]
        ∧ t.obj (Obj.cacheMisses n.val)
          = wrapCount (Obj.cacheMisses n.val) (s.obj (Obj.cacheMisses n.val) + 1) := by
  have learnt := State.learn_disabled (s := s.withWaiting n.val rest) (p := p) hg he hsrc
  have starts := (State.startLookup_bridges hn ho learnt).trans (State.startBridge_misses hd hdst)
  have runs := execServiceLookup_starts hw hq starts
  rw [State.applyLookups_unfinished (State.withLookups_lookups ..) rfl] at runs
  refine ⟨_, runs, ?_, State.withWaiting_waiting .., State.withLookups_lookups .., State.bump_obj_self ..⟩
  refine OnlyTouches.next ?_ (State.withLookups_touches _ _ _) (by decide)
  refine OnlyTouches.next ?_ (State.withLookups_touches _ _ _) (by decide)
  refine OnlyTouches.next ?_ (State.draw_touches _) (by decide)
  exact ((State.withWaiting_touches _ _ _).mono (by decide)).next (State.bump_touches _ _ _) (by decide)

theorem probeReturn_nextLength {n : Stall} {l : Lookup} {a b : Nat} {ns : List Nat} {s : State}
    (hq : Tbl.get s.service.lookups n.val [] = [l]) (hs : l.stage = .prefixes (a :: b :: ns))
    (hm : s.probePrefix l a = none) : Gives (.probeReturn n 0) s [.objs, .service, .ledger] fun t =>
      Tbl.get t.service.lookups n.val [] = [{ l with stage := .prefixes (b :: ns) }] := by
  have runs := execProbeReturn_single hq (State.probe_prefix_misses n.val hs hm) (State.probed_service ..)
  rw [State.applyLookups_unfinished (State.withLookups_lookups ..) rfl] at runs
  exact ⟨_, runs, (State.probed_withLookups_touches _ _ _ _ _).next (State.withLookups_touches _ _ _) (by decide),
    State.withLookups_lookups ..⟩

theorem probeReturn_unknown {n : Stall} {l : Lookup} {s : State}
    (hq : Tbl.get s.service.lookups n.val [] = [l]) (hs : l.stage = .chip)
    (hf : s.chipFind l.frame.pitch (beNat (l.frame.payload.take 6)) = none)
    (ha : s.obj (Obj.unknownAction l.frame.pitch) ≠ 0) :
    Gives (.probeReturn n 0) s [.objs, .ports, .service, .ledger] fun t =>
      Tbl.get t.service.lookups n.val [] = []
        ∧ t.obj (Obj.serviceDrops l.frame.pitch) = wrapCount (Obj.serviceDrops l.frame.pitch)
          (s.obj (Obj.serviceDrops l.frame.pitch) + 1) := by
  have runs := execProbeReturn_single hq (State.probe_chip_unknown n.val hs hf ha) (State.probed_service ..)
  rw [State.applyLookups_finished (State.withLookups_lookups ..) rfl, State.applyLookup_drops rfl] at runs
  refine ⟨_, runs, ?_, ?_, ?_⟩
  · refine OnlyTouches.next ?_ (State.dropService_touches _ _ _ _) (by decide)
    exact ((State.probed_withLookups_touches _ _ _ _ _).mono (by decide)).next (State.withLookups_touches _ _ _) (by decide)
  · rw [State.dropService_touches _ _ _ _ .service (by decide), State.withLookups_lookups]
  · rw [State.dropService_counts, (State.withLookups_touches _ _ _).obj, (State.withLookups_touches _ _ _).obj,
      State.probed_obj_other (Obj.serviceDrops_noAccessCount _)]

theorem chipTableInsert_learns {n : Stall} {i : Insertion} {rest : List Insertion} {a w : Nat} {s : State}
    (hm : MemOk s.mem) (hi : Tbl.get s.service.inserts n.val [] = i :: rest)
    (hl : s.segLocked (segOf (chipEntry (macBucket i.pitch i.mac) 0)) = false)
    (hf : s.chipFind i.pitch i.mac = none)
    (he : ((s.bucketEntries (macBucket i.pitch i.mac)).find? fun e => !macValid e.2) = some (a, w)) :
    Gives (.chipTableInsert n) s [.objs, .service, .mem, .ledger] fun t =>
      Tbl.get t.service.inserts n.val [] = rest
        ∧ t.obj Obj.chipLearns = wrapCount Obj.chipLearns (s.obj Obj.chipLearns + 1)
        ∧ (s.cacheWay n.val i.pitch i.mac = none →
            t.read a 16 = leBytes 16 (macWord i.mac i.pitch false false i.endpoint i.port i.seen))
        ∧ ∀ k, k < a ∨ a + 16 ≤ k → readCell t.mem.cells k = readCell s.mem.cells k := by
  have learns := State.chipInsert_learns (s := s.withInserts n.val rest) (t := n.val) hl hf he
  have runs := (execChipTableInsert_takes hi).trans (congrArg Host.Outcome.next learns)
  have counted := (((State.withInserts_touches s n.val rest).mono (m := [.objs, .service, .ledger]) (by decide)).next
    (State.probed_touches _ (chipEntry (macBucket i.pitch i.mac) 0) 128) (by decide)).next
    (State.bump_touches _ Obj.chipLearns 1) (by decide)
  have mem := counted .mem (by decide)
  refine ⟨_, runs, (counted.mono (by decide)).next (State.putChip_touches _ _ _ _) (by decide), ?_, ?_, fun hc => ?_,
    fun k hk => State.putChip_read_outside hm mem hk⟩
  · rw [State.putChip_inserts, State.bump_service, State.probed_service]
    exact Tbl.get_set_same ..
  · rw [State.putChip_obj_other _ _ _ _ Obj.chipLearns_noAccessCount, State.bump_obj_self,
      State.probed_obj_other Obj.chipLearns_noAccessCount]
    rfl
  · have caches := congrArg ServiceSt.caches (State.probed_service (s.withInserts n.val rest)
      (chipEntry (macBucket i.pitch i.mac) 0) 128)
    exact State.putChip_read hm mem ((State.cacheWay_of_caches caches ..).trans hc)

theorem stampWriteback_writes {n : Stall} {p : Pitch} {mac : BitVec 48} {k a w : Nat} {e : MacEntry} {s : State}
    (hm : MemOk s.mem) (hc : s.cacheWay n.val p.val mac.toNat = some (k, e)) (hs : e.isStatic = false)
    (hd : e.written + s.obj Obj.stampInterval ≤ e.lastSeen)
    (hl : s.segLocked (segOf (chipEntry (macBucket e.pitch e.mac) 0)) = false)
    (hf : s.chipFind e.pitch e.mac = some (a, w)) (he : macEndpoint w = e.endpoint) (hw : macStatic w = false) :
    Gives (.stampWriteback n p mac) s [.objs, .service, .mem, .ledger] fun t =>
      Tbl.find t.service.caches k = some { e with written := e.lastSeen }
        ∧ t.read (a + 12) 4 = leBytes 4 (e.lastSeen % 2 ^ 32)
        ∧ ∀ x, x < a + 12 ∨ a + 16 ≤ x → readCell t.mem.cells x = readCell s.mem.cells x := by
  have counted := (State.probed_touches (s.setCache k { e with written := e.lastSeen })
    (chipEntry (macBucket e.pitch e.mac) 0) 128).next (State.countFirmware_touches _ (a + 12) 4 true) (by decide)
  have changed := ((State.setCache_touches s k { e with written := e.lastSeen }).mono (m := [.objs, .service, .ledger])
    (by decide)).next counted (by decide)
  have mem := changed .mem (by decide)
  refine ⟨_, execStampWriteback_writes hc hs hd hl hf he hw,
    (changed.mono (by decide)).next (State.writeNat_touches _ _ _ _) (by decide), ?_,
    State.writeNat_read_same hm mem _ _ _, fun x hx => State.writeNat_read_outside hm mem _ hx⟩
  rw [State.writeNat, State.write_service, counted .service (by decide)]
  exact Tbl.find_set_same ..

/-- An accepted write of seg_lock leaves the locks that it decides, and is answered with code 0. -/
theorem Gives.ofSegLockWrite {c : Instr} {r : Requester} {v : Nat} {s : State} {locks : Tbl SegLock} {P : State → Prop}
    (h : Accepts r Obj.segLock v s) (hc : exec c s = writeObj r Obj.segLock v s)
    (hw : (s.countBar r).writeSegLock r v = (s.countBar r).withLocks locks)
    (hP : ∀ t, t.service.locks = locks → t.out.code = 0 → P t) : Gives c s [.service, .ledger, .dict, .out] P := by
  have runs := hc.trans (writeObj_accepted h)
  rw [State.putValue_segLock, hw] at runs
  have answer := answered_touches r Obj.segLock v ((s.countBar r).withLocks locks)
  refine ⟨_, runs, ?_, hP _ (congrArg ServiceSt.locks (answer .service (by decide))) rfl⟩
  exact (((State.countBar_touches s r).mono (by decide)).next (State.withLocks_touches _ _) (by decide)).next answer
    (by decide)

theorem segLock_takes {r : Requester} {w : BitVec 64} {s : State} (h : Accepts r Obj.segLock w.toNat s)
    (hb : bit w.toNat 31 = true) (hl : s.segLocked (bits w.toNat 0 14) = false) :
    Gives (.segLock r w) s [.service, .ledger, .dict, .out] fun t =>
      Tbl.find t.service.locks (bits w.toNat 0 14) = some { holder := r, since := s.time.rung } ∧ t.out.code = 0 := by
  have free : (s.countBar r).segLocked (bits w.toNat 0 14) = false := by
    rw [State.segLocked, State.countBar_service]
    exact hl
  refine .ofSegLockWrite h rfl (State.writeSegLock_takes hb free) fun t locks code => ⟨?_, code⟩
  rw [locks, Tbl.find_set_same, State.countBar_time]

theorem segRelease_releases {r : Requester} {w : BitVec 64} {l : SegLock} {s : State}
    (h : Accepts r Obj.segLock w.toNat s) (hb : bit w.toNat 31 = false)
    (hf : Tbl.find s.service.locks (bits w.toNat 0 14) = some l) (hr : l.holder = r) :
    Gives (.segRelease r w) s [.service, .ledger, .dict, .out] fun t =>
      Tbl.find t.service.locks (bits w.toNat 0 14) = none := by
  have held : Tbl.find (s.countBar r).service.locks (bits w.toNat 0 14) = some l := by rwa [State.countBar_service]
  refine .ofSegLockWrite h rfl (State.writeSegLock_releases hb held hr) fun t locks _ => ?_
  rw [locks, Tbl.find_erase_same]

theorem segLockExpiry_ends {g : Fin 8480} {l : SegLock} {s : State} (hf : Tbl.find s.service.locks g.val = some l)
    (hd : l.since + s.obj Obj.segLockLimit ≤ s.time.rung) :
    Gives (.segLockExpiry g) s [.objs, .service] fun t =>
      Tbl.find t.service.locks g.val = none
        ∧ t.obj Obj.lockExpired = wrapCount Obj.lockExpired (s.obj Obj.lockExpired + 1) :=
  ⟨_, congrArg Host.Outcome.next (State.expireSeg_ends hf hd),
    ((State.withLocks_touches _ _).mono (by decide)).next (State.bump_touches _ _ _) (by decide),
    Tbl.find_erase_same _ _, State.bump_obj_self ..⟩

/-- Settles O26, command by command: what a probe finds rests on memory alone, which its own counts leave as it is, and
those counts stand at subindices of no object that the statement names. -/
theorem serviceCommands : Obligations.ServiceCommands :=
  ⟨fun _ _ _ _ _ => serviceLookup_starts, fun _ _ _ _ _ _ => probeReturn_nextLength, fun _ _ _ => probeReturn_unknown,
    fun _ _ _ _ _ _ => chipTableInsert_learns, fun _ _ _ _ _ _ _ _ => stampWriteback_writes,
    fun _ _ _ => segLock_takes, fun _ _ _ _ => segRelease_releases, fun _ _ _ => segLockExpiry_ends⟩

end Sys2Proof

/-! ## The runner and heartbeats (10) -/

namespace Sys2Proof.Machine

/-! ### The frames that a share holds (07 R222) -/

theorem State.share_held (s : State) (p vc t : Nat) : (s.share p vc t).held =
    ((Tbl.find s.pitches.shares (64 * bucketKey p vc + t)).map Share.held).getD [] := by
  unfold State.share Tbl.get
  cases Tbl.find s.pitches.shares (64 * bucketKey p vc + t) <;> rfl

@[simp] theorem State.share_setShare (s : State) (p vc t : Nat) (x : Share) :
    (s.setShare p vc t x).share p vc t = x := Tbl.get_set_same ..

/-- A share rewritten with the frames it held leaves every share the frames it held. -/
theorem State.setShare_held {s : State} {p vc t : Nat} {x : Share} (h : x.held = (s.share p vc t).held)
    (q wc u : Nat) : ((s.setShare p vc t x).share q wc u).held = (s.share q wc u).held := by
  rw [State.share_held] at h
  rw [State.share_held, State.share_held]
  unfold State.setShare
  by_cases hk : 64 * bucketKey q wc + u = 64 * bucketKey p vc + t
  · rw [hk, Tbl.find_set_same, ← h]
    rfl
  · rw [Tbl.find_set_other _ _ hk]

/-- What a share holds rests on the table of shares alone. -/
theorem State.share_held_of_pitches {s u : State} (h : u.pitches = s.pitches) (p vc t : Nat) :
    (u.share p vc t).held = (s.share p vc t).held := by
  rw [State.share_held, State.share_held, h]

@[simp] theorem State.presentFrame_bucketRateOf (s : State) (t : Nat) (f : Frame) (p vc : Nat) :
    (s.presentFrame t f).bucketRateOf p vc = s.bucketRateOf p vc := rfl

@[simp] theorem State.presentFrame_bucketDrops (s : State) (t : Nat) (f : Frame) (p vc : Nat) :
    (s.presentFrame t f).bucketDrops p vc = s.bucketDrops p vc := rfl

theorem State.presentFrame_held (s : State) (t : Nat) (f : Frame) (q wc u : Nat) :
    ((s.presentFrame t f).share q wc u).held = (s.share q wc u).held := by
  apply State.setShare_held
  rfl

/-- A bucket that does not meter passes every frame (07 R223). -/
theorem State.conforms_unmetered {s : State} {p vc : Nat} (h : unmetered (s.bucketRateOf p vc) = true) (t : Nat) :
    s.conforms p vc t = true := by
  simp [State.conforms, h]

theorem State.conforms_rateZero {s : State} {p vc : Nat} (h : s.bucketRateOf p vc = 0) (t : Nat) :
    s.conforms p vc t = false := by
  simp [State.conforms, h, unmetered]

/-! ### Rounds (10 R312) -/

theorem State.roundOf_found {s : State} {g seq : Nat} {r : Round} (h : s.roundOf g seq = some r) :
    r ∈ s.coll.rounds ∧ r.group = g ∧ r.seq = seq :=
  ⟨List.mem_of_find?_eq_some h, by simpa using List.find?_some h⟩

@[simp] theorem Round.poison_group (r : Round) (c : Nat) : (r.poison c).group = r.group := by
  unfold Round.poison; split <;> rfl

@[simp] theorem Round.poison_seq (r : Round) (c : Nat) : (r.poison c).seq = r.seq := by
  unfold Round.poison; split <;> rfl

@[simp] theorem Round.poison_members (r : Round) (c : Nat) : (r.poison c).members = r.members := by
  unfold Round.poison; split <;> rfl

/-- A contribution stays in its round, and adds at most its own member. -/
theorem Round.take_round (r : Round) (x : GroupSt) (f : Frame) :
    (r.take x f).group = r.group ∧ (r.take x f).seq = r.seq
      ∧ (r.take x f).members.length ≤ r.members.length + 1 := by
  obtain ⟨q, hq, hg, hs, hm⟩ : ∃ q, q = (if f.poisoned then r.poison 2 else r) ∧ q.group = r.group
      ∧ q.seq = r.seq ∧ q.members = r.members := by
    refine ⟨_, rfl, ?_⟩
    split <;> simp
  simp only [Round.take, ← hq]
  repeat' split
  all_goals simp [hg, hs, hm]

/-- A round joins the module's rounds. -/
def State.withRound (s : State) (r : Round) : State := { s with coll := { s.coll with rounds := s.coll.rounds ++ [r] } }

theorem State.withRound_touches (s : State) (r : Round) : OnlyTouches [.coll] s (s.withRound r) :=
  .put_coll (by decide) (.refl _ _)

theorem State.withRound_roundOf {s : State} {r : Round} {g seq : Nat} (h : s.roundOf g seq = none) (hg : r.group = g)
    (hs : r.seq = seq) : (s.withRound r).roundOf g seq = some r := by
  unfold State.roundOf at h ⊢
  simp [State.withRound, List.find?_append, h, hg, hs]

/-- The round of a frame's sequence before any contribution. -/
def State.newRound (s : State) (f : Frame) : Round :=
  let x := s.group f.group
  { group := f.group, seq := f.seq, home := x.ghome, elements := f.data.length / unitBytesOf x.inFormat, acc := []
    members := [], bornRung := s.time.rung }

/-- The round that a first frame starts. -/
def State.firstRound (s : State) (f : Frame) : Round := (s.newRound f).take (s.group f.group) f

theorem State.firstRound_round (s : State) (f : Frame) : (s.firstRound f).group = f.group
    ∧ (s.firstRound f).seq = f.seq ∧ (s.firstRound f).members.length ≤ 1 := Round.take_round ..

/-- The frame is the first of a round that the module can start and that needs a second member: it is not refused,
its sequence has not ended, and its group combines all members at a home with a free context (10 R311, R312). -/
structure StartsRound (s : State) (f : Frame) : Prop where
  accepted : s.runnerRefusal f = none
  fresh : (Tbl.get s.coll.ended f.group []).contains f.seq = false
  first : s.roundOf f.group f.seq = none
  room : s.roundsAt (s.group f.group).ghome < 64
  kind : (s.group f.group).kind = 0
  expected : 2 ≤ (s.group f.group).expected

theorem StartsRound.of_coll {s u : State} {f : Frame} (h : StartsRound s f) (hc : u.coll = s.coll) :
    StartsRound u f := by
  have view : StartsRound { s with coll := u.coll } f := by
    rw [hc]
    exact h
  exact ⟨view.accepted, view.fresh, view.first, view.room, view.kind, view.expected⟩

/-- A round that lacks members runs on. -/
theorem State.checkRound_incomplete {s : State} {g seq : Nat} {r : Round} (h : s.roundOf g seq = some r)
    (hk : (s.group g).kind = 0) (hn : r.members.length < (s.group g).expected) : s.checkRound g seq = s := by
  simp [State.checkRound, h, hk, Nat.not_le.2 hn]

theorem State.toRound_starts {s : State} {f : Frame} (h : StartsRound s f) :
    s.toRound f .none = some (s.withRound (s.firstRound f)) := by
  obtain ⟨group, sequence, members⟩ := s.firstRound_round f
  have incomplete : (s.withRound (s.firstRound f)).checkRound f.group f.seq = s.withRound (s.firstRound f) :=
    State.checkRound_incomplete (State.withRound_roundOf h.first group sequence) h.kind
      (Nat.lt_of_le_of_lt members h.expected)
  have notRooted : ¬ (s.group f.group).kind = 3 := by simp [h.kind]
  simp only [State.toRound, h.fresh, h.first, Nat.not_le.2 h.room, notRooted]
  exact congrArg some incomplete

/-! ### RUNNER_FRAME and RUNNER_WAIT_RESUME (10 R311) -/

theorem State.popRunner_port (s : State) (p : Nat) (f : Frame) :
    ((s.popRunner p f).port p).runnerIn = (s.port p).runnerIn.drop 1
      ∧ ((s.popRunner p f).port p).runnerWait = .none := by
  simp [State.popRunner, State.freeCredits, State.modPort]

/-- The queue's head leaves its port, and nothing else changes. -/
theorem State.popRunner_onlyPorts (s : State) (p : Nat) (f : Frame) : OnlyTouches [.ports] s (s.popRunner p f) :=
  (State.modPort_touches _ _ _).next (State.freeCredits_touches _ _ _ _) (by decide)

theorem State.runnerAccept_starts {s : State} {f : Frame} (h : StartsRound s f) (p : Nat) :
    s.runnerAccept p f = ((s.popRunner p f).withRound (s.firstRound f)).bump (Obj.runnerInFrames (p / 16)) := by
  have popped : StartsRound (s.popRunner p f) f := h.of_coll rfl
  simp only [State.runnerAccept, h.accepted, State.toRound_starts popped]
  rfl

/-- The command brings the head frame of a port past its bucket, to its combine. -/
def ReachesCombine (c : Instr) (s : State) (p : Nat) (f : Frame) (rest : List Frame) : Prop :=
  ∃ u, exec c s = .next (u.runnerAccept p f) ∧ OnlyTouches [.objs, .ports, .pitches] s u
    ∧ (u.port p).runnerIn = f :: rest

/-- The head frame of a port is no longer one that its bucket holds. -/
def State.unholdHead (s : State) (pitch t p cells : Nat) : State :=
  let x := s.share pitch 5 t
  ((s.setShare pitch 5 t { x with held := x.held.erase p }).modPort p fun x => { x with runnerWait := .none }).drop
    (Obj.heldCells pitch 5) cells

theorem State.unholdHead_touches (s : State) (pitch t p cells : Nat) :
    OnlyTouches [.objs, .ports, .pitches] s (s.unholdHead pitch t p cells) :=
  (((State.setShare_touches _ _ _ _ _).mono (by decide)).next (State.modPort_touches _ _ _) (by decide)).next
    (State.drop_touches _ _ _) (by decide)

theorem State.unholdHead_runnerIn (s : State) (pitch t p cells : Nat) :
    ((s.unholdHead pitch t p cells).port p).runnerIn = (s.port p).runnerIn := by
  have reset : (s.unholdHead pitch t p cells).port p = { s.port p with runnerWait := .none } :=
    Tbl.get_set_same ..
  rw [reset]

section
variable {s : State} {p : Port} {f : Frame} {rest : List Frame} (hq : (s.port p.val).runnerIn = f :: rest)
include hq

theorem execRunnerFrame_takesHead {u : Upset} (hb : f.heartbeat = false) (hw : (s.port p.val).runnerWait = .none) :
    exec (.runnerFrame ⟨p, u⟩) s = .next (s.runnerHead p.val f u) := by
  show execRunnerFrame ⟨p, u⟩ s = _
  simp [execRunnerFrame, hq, hb, hw]

theorem runnerFrame_reachesCombine (hb : f.heartbeat = false) (hw : (s.port p.val).runnerWait = .none)
    (ha : s.pitchAdmitted f.pitch = true) (hm : unmetered (s.bucketRateOf f.pitch 5) = true)
    (hp : unpoliced f = false) (hh : (s.share f.pitch 5 (p.val / 16)).held = []) :
    ReachesCombine (.runnerFrame ⟨p, .none⟩) s p.val f rest := by
  have conf : (s.presentFrame (p.val / 16) f).conforms f.pitch 5 (p.val / 16) = true :=
    State.conforms_unmetered (by rwa [State.presentFrame_bucketRateOf]) _
  have ahead := (State.presentFrame_held s (p.val / 16) f f.pitch 5 (p.val / 16)).trans hh
  refine ⟨(s.presentFrame (p.val / 16) f).chargeFrame (p.val / 16) f, ?_, ?_, hq⟩
  · rw [execRunnerFrame_takesHead hq hb hw]
    simp [State.runnerHead, ha, hp, conf, ahead]
  · exact ((State.presentFrame_touches _ _ _).mono (by decide)).next (State.chargeFrame_touches _ _ _) (by decide)

theorem runnerWaitResume_context_reachesCombine (hw : (s.port p.val).runnerWait = .context) :
    ReachesCombine (.runnerWaitResume ⟨p, .none⟩) s p.val f rest := by
  refine ⟨s, ?_, .refl _ _, hq⟩
  show execRunnerWaitResume ⟨p, .none⟩ s = _
  simp [execRunnerWaitResume, hq, hw]

theorem State.runnerRelease_charges (pitch t : Nat) (u : Upset) : s.runnerRelease pitch t p.val true u =
    ((s.unholdHead pitch t p.val f.cells).chargeFrame t f).runnerAccept p.val f u := by
  have head : ((s.setShare pitch 5 t { s.share pitch 5 t with held := (s.share pitch 5 t).held.erase p.val }).port
      p.val).runnerIn = f :: rest := hq
  simp only [State.runnerRelease, head]
  rfl

theorem runnerWaitResume_bucket_reachesCombine (hw : (s.port p.val).runnerWait = .bucket)
    (hm : unmetered (s.bucketRateOf f.pitch 5) = true) (hh : (s.share f.pitch 5 (p.val / 16)).held = [p.val]) :
    ReachesCombine (.runnerWaitResume ⟨p, .none⟩) s p.val f rest := by
  refine ⟨(s.unholdHead f.pitch (p.val / 16) p.val f.cells).chargeFrame (p.val / 16) f, ?_, ?_, ?_⟩
  · rw [← State.runnerRelease_charges hq]
    show execRunnerWaitResume ⟨p, .none⟩ s = _
    simp [execRunnerWaitResume, hq, hw, hh, State.conforms_unmetered hm]
  · exact (State.unholdHead_touches _ _ _ _ _).next (State.chargeFrame_touches _ _ _) (by decide)
  · exact (State.unholdHead_runnerIn _ _ _ _ f.cells).trans hq

end

/-- A frame that reaches its combine and is the first of its round starts it. -/
theorem ReachesCombine.starts {c : Instr} {s : State} {p : Nat} {f : Frame} {rest : List Frame}
    (h : ReachesCombine c s p f rest) (hs : StartsRound s f) :
    Gives c s [.objs, .ports, .pitches, .coll] fun t =>
      (t.port p).runnerIn = rest ∧ (t.port p).runnerWait = .none
        ∧ t.coll.rounds = s.coll.rounds ++ [s.firstRound f] := by
  obtain ⟨u, runs, touches, head⟩ := h
  have coll : u.coll = s.coll := touches .coll (by decide)
  have round : u.firstRound f = s.firstRound f := by
    have time : u.time = s.time := touches .time (by decide)
    simp only [State.firstRound, State.newRound, State.group, coll, time]
  rw [State.runnerAccept_starts (hs.of_coll coll), round] at runs
  obtain ⟨queue, wait⟩ := State.popRunner_port u p f
  refine ⟨_, runs, ?_, queue.trans (by rw [head]; rfl), wait, congrArg (·.rounds ++ _) coll⟩
  exact (((touches.mono (by decide)).next (State.popRunner_onlyPorts _ _ _) (by decide)).next
    (State.withRound_touches _ _) (by decide)).next (State.bump_touches _ _ _) (by decide)

/-- What the hold of a frame leaves to its counts. -/
theorem State.runnerHold_counts (s : State) (p : Nat) (f : Frame) :
    OnlyTouches [.objs, .ledger] ((s.modPort p fun x => { x with runnerWait := .bucket }).setShare f.pitch 5 (p / 16)
      { s.share f.pitch 5 (p / 16) with held := (s.share f.pitch 5 (p / 16)).held ++ [p] }) (s.runnerHold p f) :=
  (((State.count_touches _ _ _ _ _).mono (by decide)).next (State.bump_touches _ _ _) (by decide)).next
    (State.bump_touches _ _ _) (by decide)

theorem State.runnerHold_port (s : State) (p : Nat) (f : Frame) :
    (s.runnerHold p f).port p = { s.port p with runnerWait := .bucket } := by
  rw [State.port, State.runnerHold_counts s p f .ports (by decide)]
  exact State.port_setPort_self ..

theorem State.runnerHold_held (s : State) (p : Nat) (f : Frame) :
    ((s.runnerHold p f).share f.pitch 5 (p / 16)).held = (s.share f.pitch 5 (p / 16)).held ++ [p] := by
  rw [State.share_held_of_pitches (State.runnerHold_counts s p f .pitches (by decide)), State.share_setShare]

/-- A bucket of rate 0 that does not drop holds a port's head frame, behind those it holds at the stall (07 R222). -/
theorem runnerFrame_held {p : Port} {u : Upset} {f : Frame} {rest : List Frame} {s : State}
    (hq : (s.port p.val).runnerIn = f :: rest) (hb : f.heartbeat = false) (hw : (s.port p.val).runnerWait = .none)
    (ha : s.pitchAdmitted f.pitch = true) (hr : s.bucketRateOf f.pitch 5 = 0)
    (hd : s.bucketDrops f.pitch 5 = false) (hp : unpoliced f = false) :
    Gives (.runnerFrame ⟨p, u⟩) s [.objs, .ports, .pitches, .ledger] fun t =>
      t.port p.val = { s.port p.val with runnerWait := .bucket }
        ∧ (t.share f.pitch 5 (p.val / 16)).held = (s.share f.pitch 5 (p.val / 16)).held ++ [p.val] := by
  have conf : (s.presentFrame (p.val / 16) f).conforms f.pitch 5 (p.val / 16) = false :=
    State.conforms_rateZero (by rwa [State.presentFrame_bucketRateOf]) _
  have holds : s.runnerHead p.val f u = (s.presentFrame (p.val / 16) f).runnerHold p.val f := by
    simp [State.runnerHead, ha, hp, conf, hd]
  refine ⟨_, (execRunnerFrame_takesHead hq hb hw).trans (congrArg Host.Outcome.next holds),
    ((State.presentFrame_touches _ _ _).mono (by decide)).next (State.runnerHold_touches _ _ _) (by decide),
    State.runnerHold_port .., ?_⟩
  rw [State.runnerHold_held, State.presentFrame_held]

/-! ### RUNNER_PATIENCE_END (10 R313, R314) -/

/-- No round of the sequence runs, and the sequence has ended. -/
structure RoundOver (s : State) (g seq : Nat) : Prop where
  stopped : ∀ r ∈ s.coll.rounds, r.group = g → r.seq = seq → r.running = false
  ended : (Tbl.get s.coll.ended g []).contains seq = true

/-- A result on its way to the ports changes what its round still waits for, or ends it. -/
theorem State.deliver_coll (s : State) (g seq : Nat) : (s.deliver g seq).coll.ended = s.coll.ended
    ∧ ∀ q ∈ (s.deliver g seq).coll.rounds, ∃ r ∈ s.coll.rounds, q = { r with portsLeft := q.portsLeft } := by
  have same : ∀ q ∈ s.coll.rounds, ∃ r ∈ s.coll.rounds, q = { r with portsLeft := q.portsLeft } :=
    fun q hq => ⟨q, hq, rfl⟩
  unfold State.deliver
  split
  · exact ⟨rfl, same⟩
  split
  · exact ⟨rfl, same⟩
  next r _ _ f _ =>
    dsimp only
    generalize hx : r.portsLeft.foldl _ (s, []) = x
    have coll : x.1.coll = s.coll := by
      rw [← hx]
      refine OnlyTouches.foldPair (m := [.ports]) r.portsLeft (.refl _ s) (fun y p => ?_) .coll (by decide)
      split
      · exact .refl _ _
      split
      · exact State.setPort_touches _ _ _
      · exact .refl _ _
    have ended : x.1.coll.ended = s.coll.ended := congrArg CollSt.ended coll
    split
    · refine ⟨ended, fun q hq => ?_⟩
      rw [coll] at hq
      exact same q (List.mem_filter.1 hq).1
    · refine ⟨ended, fun q hq => ?_⟩
      obtain ⟨q₀, mem, rfl⟩ := List.mem_map.1 hq
      rw [coll] at mem
      refine ⟨q₀, mem, ?_⟩
      split <;> rfl

theorem RoundOver.deliver {s : State} {g seq : Nat} (h : RoundOver s g seq) (g' seq' : Nat) :
    RoundOver (s.deliver g' seq') g seq := by
  obtain ⟨ended, rounds⟩ := State.deliver_coll s g' seq'
  refine ⟨fun q hq hg hs => ?_, ended ▸ h.ended⟩
  obtain ⟨r, hr, e⟩ := rounds q hq
  rw [e] at hg hs ⊢
  exact h.stopped r hr hg hs

theorem State.modRound_stops (s : State) {g seq : Nat} {f : Round → Round} (hf : ∀ r, (f r).running = false) :
    ∀ r ∈ (s.modRound g seq f).coll.rounds, r.group = g → r.seq = seq → r.running = false := by
  intro r hr hg hs
  obtain ⟨q, -, rfl⟩ := List.mem_map.1 hr
  by_cases hk : (q.group == g && q.seq == seq) = true
  · rw [if_pos hk]
    exact hf q
  · rw [if_neg hk] at hg hs
    simp [hg, hs] at hk

theorem State.endSeq_ended (s : State) (g seq : Nat) :
    (Tbl.get (s.endSeq g seq).coll.ended g []).contains seq = true := by
  unfold State.endSeq
  dsimp only
  rw [Tbl.get_set_same, List.drop_append_of_le_length (by simp)]
  simp

theorem State.endRound_over (s : State) (r : Round) (verdict cause : Nat) (data : List Byte) :
    RoundOver (s.endRound r verdict cause data) r.group r.seq := by
  unfold State.endRound
  apply RoundOver.deliver
  exact ⟨State.modRound_stops _ fun _ => rfl, State.endSeq_ended ..⟩

theorem State.roundPatience_over {s : State} {r : Round} (hr : r.running = true)
    (hd : r.bornRung + (s.group r.group).patience ≤ s.time.rung) : RoundOver (s.roundPatience r) r.group r.seq := by
  simp only [State.roundPatience, hr, hd, decide_true, Bool.and_self, if_true]
  split <;> exact State.endRound_over ..

/-! ### Heartbeats (10 R316 to R318) -/

/-- How many heartbeats the module has sent, and the bell of the latest. -/
def State.beats (s : State) : Nat × Nat := (s.coll.heartbeats, s.coll.heartbeatAt)

theorem State.beats_of_touches {l : List Part} {s u : State} (h : OnlyTouches l s u)
    (n : Part.coll ∉ l := by decide) : u.beats = s.beats :=
  congrArg (fun c : CollSt => (c.heartbeats, c.heartbeatAt)) (h .coll n)

/-- A runner frame that finds no way out is only counted. -/
theorem State.lostFrame_beats (s : State) (o : Obj) (t : Nat) (f : Frame) : ((s.bump o).dropped t f).beats = s.beats :=
  State.beats_of_touches (((State.bump_touches _ _ _).mono (m := [.objs, .ledger]) (by decide)).next
    (State.dropped_touches _ _ _ _) (by decide))

theorem State.pumpRunner_beats (s : State) : s.pumpRunner.beats = s.beats := by
  refine State.foldl_same State.beats (fun u w => ?_) s.coll.runnerPend _
  dsimp only
  split
  · exact State.lostFrame_beats ..
  split <;> rfl

theorem State.sendRunner_beats (s : State) (t : Nat) (f : Frame) : (s.sendRunner t f).beats = s.beats := by
  unfold State.sendRunner
  split
  · exact State.lostFrame_beats ..
  · exact State.pumpRunner_beats _

theorem State.heartbeat_beats (s : State) (k stateCode : Nat) :
    (s.heartbeat k stateCode).beats = (s.coll.heartbeats + 1, s.coll.heartbeatAt) := State.sendRunner_beats _ _ _

/-- One heartbeat to each peer of a list. -/
theorem State.heartbeat_foldl_beats (code : State → Nat) (l : List Nat) (s : State) :
    (l.foldl (fun s k => s.heartbeat k (code s)) s).beats = (s.coll.heartbeats + l.length, s.coll.heartbeatAt) := by
  induction l generalizing s with
  | nil => rfl
  | cons k l ih =>
    obtain ⟨sent, bell⟩ := Prod.mk.inj (State.heartbeat_beats s k (code s))
    rw [List.foldl_cons, ih, sent, bell, List.length_cons, Nat.add_assoc, Nat.add_comm 1]

/-- The module sends its heartbeats of this bell. -/
theorem State.heartbeats_beats {s : State} (h : s.time.onTb0 = true)
    (hd : s.coll.heartbeatAt + s.obj Obj.heartbeatInterval ≤ s.time.rung) : s.heartbeats.beats =
      (s.coll.heartbeats + ((upTo 256).filter fun k => bit (s.obj Obj.heartbeatPeers) k).length, s.time.rung) := by
  simp only [State.heartbeats, h, hd, decide_true, Bool.and_self, if_true]
  exact State.heartbeat_foldl_beats (·.power.state.code) _ _

end Sys2Proof.Machine

namespace Sys2Proof

open Machine

/-! ### The completions -/

theorem runnerDue_marksLate {g : Group} {seq : BitVec 32} {r : Round} {s : State}
    (hf : s.roundOf g.val seq.toNat = some r) (hr : r.running = true) (hl : r.late = false)
    (hd : r.bornRung + s.dueBells ≤ s.time.rung) : exec (.runnerDue g seq) s =
      .next ((s.modRound r.group r.seq fun r => { r with late := true }).bump Obj.runnerLate) := by
  show execRunnerDue g seq s = _
  simp [execRunnerDue, State.lateRound, hf, hr, hl, hd]

theorem runnerPatienceEnd_ends {g : Group} {seq : BitVec 32} {r : Round} {s : State}
    (hf : s.roundOf g.val seq.toNat = some r) (hr : r.running = true)
    (hd : r.bornRung + (s.group r.group).patience ≤ s.time.rung) :
    Gives (.runnerPatienceEnd g seq) s [.objs, .ports, .coll] fun t =>
      (∀ r', t.roundOf g.val seq.toNat = some r' → r'.running = false)
        ∧ (Tbl.get t.coll.ended g.val []).contains seq.toNat = true := by
  have runs : exec (.runnerPatienceEnd g seq) s = .next (s.roundPatience r) := by
    show execRunnerPatienceEnd g seq s = _
    simp [execRunnerPatienceEnd, hf]
  obtain ⟨-, hg, hs⟩ := State.roundOf_found hf
  have final := State.roundPatience_over hr hd
  rw [hg, hs] at final
  refine ⟨_, runs, State.roundPatience_touches s r, fun r' found => ?_, final.ended⟩
  obtain ⟨mem, group, sequence⟩ := State.roundOf_found found
  exact final.stopped r' mem group sequence

theorem heartbeatSend_sends {s : State} (h : s.time.onTb0 = true)
    (hd : s.coll.heartbeatAt + s.obj Obj.heartbeatInterval ≤ s.time.rung) :
    Gives .heartbeatSend s [.objs, .ports, .coll, .ledger] fun t =>
      t.coll.heartbeatAt = s.time.rung ∧ t.coll.heartbeats = s.coll.heartbeats
        + ((upTo 256).filter fun k => bit (s.obj Obj.heartbeatPeers) k).length := by
  obtain ⟨sent, bell⟩ := Prod.mk.inj (State.heartbeats_beats h hd)
  exact ⟨_, rfl, State.heartbeats_touches s, bell, sent⟩

theorem heartbeatReceive_records {p : Port} {f : Frame} {rest : List Frame} {s : State}
    (hq : (s.port p.val).runnerIn = f :: rest) (hb : f.heartbeat = true)
    (hplane : bits f.body 0 4 = s.obj Obj.plane) (hpos : f.dest % 256 = s.obj Obj.pos) :
    Gives (.heartbeatReceive p) s [.ports, .mem] fun t =>
      (t.port p.val).runnerIn = rest ∧ t.mem.cells = s.mem.cells
        ∧ t.mem.tables = writeCells s.mem.tables (tableAddr Obj.heartbeatLast.key (8 * bits f.body 4 8))
          (leBytes 8 s.time.bell) := by
  have popped := State.popRunner_onlyPorts s p.val f
  have runs : exec (.heartbeatReceive p) s = .next ((s.popRunner p.val f).writeTable Obj.heartbeatLast.key
      (8 * bits f.body 4 8) (leBytes 8 s.time.bell)) := by
    show execHeartbeatReceive p s = _
    have time : (s.popRunner p.val f).time = s.time := popped .time (by decide)
    simp [execHeartbeatReceive, hq, hb, popped.obj, hplane, hpos, time]
  refine ⟨_, runs, (popped.mono (by decide)).next (State.writeTable_touches _ _ _ _) (by decide), ?_, rfl, rfl⟩
  exact (State.popRunner_port s p.val f).1.trans (by rw [hq]; rfl)

/-- Settles O30, command by command: the three ways past the bucket end in one combine, where a first frame of a group
of two or more members starts a round that waits for the others. -/
theorem runnerAndHeartbeats : Obligations.RunnerAndHeartbeats := by
  refine ⟨?starts, fun _ _ _ _ _ => runnerFrame_held, fun _ _ _ _ => runnerDue_marksLate,
    fun _ _ _ _ => runnerPatienceEnd_ends, fun _ => heartbeatSend_sends, fun _ _ _ _ => heartbeatReceive_records⟩
  intro p c f rest s x hq hb way ha hm hp accepted fresh first room kind expected
  have reaches : ReachesCombine c s p.val f rest := by
    obtain ⟨rfl, hw, hh⟩ | ⟨rfl, hw⟩ | ⟨rfl, hw, hh⟩ := way
    · exact runnerFrame_reachesCombine hq hb hw ha hm hp hh
    · exact runnerWaitResume_context_reachesCombine hq hw
    · exact runnerWaitResume_bucket_reachesCombine hq hw hm hh
  exact reaches.starts ⟨accepted, fresh, first, room, kind, expected⟩

end Sys2Proof
